-- ==== Sys2Proof/Word.lean ====
section
/-!
DEFINITION. The word and byte types of the node (R8, R9, R12): a descriptor, record or register word is 64 bits, a bare
byte eight. Everything computed from them (bit fields, byte order) stands in Machine/Bits.lean.
-/
namespace Sys2Proof

/-- A 64-bit descriptor, record or register word (R9). -/
abbrev Word := BitVec 64

/-- A byte (R12). -/
abbrev Byte := BitVec 8

end Sys2Proof
end

