-- ==== Sys2Proof/Packets.lean ====
section
/-!
DEFINITION. The data that commands carry into the node from outside it: who owns a ring, what stands on a wire when a
packet, a discovery frame or a mailbox message arrives, and what a drive, a host or a sensor reports. They are operands
of the commands of Syntax.lean; the state keeps some of them in its queues.
-/
namespace Sys2Proof

/-- Who owns a ring, a function and its settings (R37, R353): the fabric manager or one of sixteen partitions. -/
inductive Owner where
  | fm
  | part (p : Fin 16)
deriving DecidableEq, Repr

/-- Packet types of R288, with their codes 0x1 to 0x9, and any other (illegal) code. -/
inductive PktType where
  | send | write | readReq | readResp | ack | nak | laneSync | laneSyncReply | cancel
  | illegal (code : Nat)
deriving DecidableEq, Repr

/-- An Evomer packet as it arrives or leaves (R286, R287, R289): the header fields, the extension word, the payload in
plaintext, and the outcomes of the two checks made on the wire image (UDP checksum, AES-256-GCM authentication). -/
structure Packet where
  version : Nat := 1
  typ : PktType
  lane : Nat
  space : Nat := 0
  ackReq : Bool := false
  reserved : Bool := false
  src : Nat
  dst : Nat
  keyEpoch : Nat := 0
  psn : Nat
  qpn : Nat
  msgNum : Nat := 0
  msgLen : Nat := 0
  offset : Nat := 0
  tag : Nat := 0
  nonce : Nat := 0
  ext : Word := 0
  payload : List Byte := []
  /-- Whether its payload is step state of this node (R27). -/
  step : Bool := false
  /-- The link of the plane's port on which it arrived. -/
  link : Nat := 0
  udpOk : Bool := true
  authentic : Bool := true
deriving DecidableEq, Repr

/-- RoCEv2 kinds the node takes (R323): First, Middle, Last and Only by two marks; CNPs, which it ignores; and any other kind. -/
inductive RoceKind where
  | send (first last : Bool) | write (first last : Bool) | readReq | readResp (first last : Bool)
  | ack | nakSequence | nakRnr (timer : Nat) | nakAccess | nakOperation
  | cnp | absent
deriving DecidableEq, Repr

/-- A RoCEv2 packet inside ESP (R323 to R325): the endpoint that its IPv6 destination names, SPI and extended sequence number of its ESP packet, the fields of its
InfiniBand headers, its payload, and the outcomes of the integrity check of ESP and of the ICRC. -/
structure RocePacket where
  kind : RoceKind
  dst : Nat := 0
  spi : Nat := 0
  seq : Nat := 0
  qpn : Nat
  psn : Nat
  /-- The message sequence number of a response (R323). -/
  msn : Nat := 0
  vaddr : Nat := 0
  rkey : Nat := 0
  len : Nat := 0
  payload : List Byte := []
  /-- As in `Packet`: step state of this node, and the link of port 0 on which it arrived. -/
  step : Bool := false
  link : Nat := 0
  espOk : Bool := true
  icrcOk : Bool := true
deriving DecidableEq, Repr

/-- Kinds of arriving Ethernet frame that the node discards and counts (R283, R330). -/
inductive BadFrame where
  | oversized | linkPause | ipv4 | icmpv6 | neighbourDiscovery
deriving DecidableEq, Repr

/-- A frame in an egress queue, or one to be forwarded (R286, R339, R341, R347): its traffic class, the source whose shaper
governs it (0 to 15 a partition, 16 transit), the fields of its IPv6 header, its UDP ports, its size on the wire, all that follows the IPv6 header, and, for the
node's own, its packet. -/
structure Frame where
  cls : Nat
  source : Nat
  srcAddr : Nat := 0
  dstAddr : Nat := 0
  flow : Nat := 0
  ecn : Nat := 0
  /-- Next header: 17 UDP, 50 ESP. -/
  next : Nat := 17
  srcPort : Nat := 0
  dstPort : Nat := 0
  hopLimit : Nat := 64
  /-- The link of the port on which a forwarded frame arrived. -/
  link : Nat := 0
  bytes : Nat
  /-- Whether it carries step state of this node (R27). -/
  step : Bool := false
  /-- What follows the IPv6 header: of an Evomer packet of this node UDP, Evomer header, extension, sealed payload and tag (R286, R320), of a RoCEv2 packet its ESP
  packet (R324). -/
  body : List Byte := []
  /-- The Ethernet address of the foreign peer that it leaves for (R341). -/
  peerMac : Option Nat := none
  /-- All its bytes from the Ethernet header to the frame check sequence, once it leaves (R286). -/
  wire : List Byte := []
  packet : Option Packet := none
  roce : Option RocePacket := none
deriving DecidableEq, Repr

/-- The Jalward TLV of a received LLDP frame, with the frame's source address and TTL (R331, R332). -/
structure LldpTlv where
  identity : Word
  nodeValid : Bool
  nodeId : Nat
  plane : Nat
  link : Nat
  mode : Nat
  version : Nat
  seen : Word
  mac : Nat
  ttl : Nat
deriving DecidableEq, Repr

/-- A message of the node's own mailbox (R448) as it arrives, its TYPE being that of the command, or one outside the catalogue (R450, R451): header fields, whether
any reserved header bit is non-zero, BODY_LEN where it is not the number of the body's bytes, and the body. -/
structure MboxMsg where
  major : Nat := 1
  minor : Nat := 0
  reply : Bool := false
  asFm : Bool := false
  reserved : Bool := false
  tag : Nat := 0
  unknown : Option Nat := none
  bodyLen : Option Nat := none
  body : List Byte := []
deriving DecidableEq, Repr

/-- What a monitor or loader line carries after its command word: decimal or hexadecimal numbers already read. -/
structure Reading where
  sensor : Nat
  quarterDeg : Int
deriving DecidableEq, Repr

/-- The state of the module's inputs that the Damper reads in one millisecond (R494, R497, R505). -/
structure DamperInputs where
  inputW : Nat
  inputMilliA : Nat
  temps : List Reading := []
  coolantOk : Bool := true
deriving DecidableEq, Repr

/-- Physical outcomes that accompany a page or image read: whether a host read succeeded (R51). -/
structure HostRead where
  ok : Bool := true
deriving DecidableEq, Repr

/-- Cause of a drive failure (R383, R476): 1 fatal status, 2 link, 3 timeout, 4 removed. -/
inductive DriveCause where
  | fatal | link | timeout | removed
deriving DecidableEq, Repr

/-- The opcodes of CXL.mem requests without data that the node accepts (R360). -/
inductive MemOpcode where
  | memRd | memRdData | memInv | memInvNT | memSpecRd
deriving DecidableEq, Repr

/-- A CXL.mem request: host physical address; its opcode, for one without data; MetaValue, which the node ignores (R360); and whether the stack will report
the read as uncorrectable (R365). -/
structure MemReq where
  addr : Nat
  opcode : MemOpcode := .memRd
  metaValue : Nat := 0
  uncorrectable : Bool := false
deriving DecidableEq, Repr

/-- MetaField of a CXL.mem response (R360): the node stores no metadata and always answers No-Op. -/
inductive MetaField where
  | meta0State | noOp
deriving DecidableEq, Repr

end Sys2Proof
end

