-- ==== Sys2Proof/Syntax.lean ====
section
/-!
DEFINITION. The commands of the node: one constructor for each row of spec/opcode_table.json, in the table's order, with the
row's operands. A row about a descriptor names it by the queue context number `q` of its submission ring and its ring
index `i` (R38, R52). `rd` says whether a host read the step makes succeeds (R51), `t` the node time in ns at which a timed
step happens, and a mailbox row carries the function it arrives through and its message.
-/
namespace Sys2Proof

/-- How a read from flash turns out (R390): authentic, with blocks whose checks hold; a unit that fails authentication; a block that fails its check value. -/
inductive UnitRead where
  | good | badTag | badBlock
deriving DecidableEq, Repr

/-- The commands, by the rows of spec/opcode_table.json. -/
inductive Instr where
  /-- DOORBELL_FETCH (R44): When the adaptive poll interval expires, the node fetches the owner's doorbell lines,
      notes raised INDEX values and reads and dispatches new descriptors. -/
  | doorbellFetch (o : Owner) (stores : List Host.Cell) (dbOk : Bool) (badRings : List Nat) (t : Nat)
  /-- PROGRAM_INVOKE (R66): A descriptor with non-zero PROGRAM runs step 0 of the program its slot held at dispatch. -/
  | programInvoke (q : Nat) (i : BitVec 32)
  /-- PROGRAM_STEP (R65): When a program step completes, the sequencer runs the step named by NEXT_OK or NEXT_FAIL,
      or ends the program. -/
  | programStep (q : Nat) (i : BitVec 32)
  /-- DESCRIPTOR_COMMIT (R70): A station that finishes a descriptor takes its commit latch, applies its state
      changes and writes its completion record. -/
  | descriptorCommit (q : Nat) (i : BitVec 32) (t : Nat)
  /-- COPY (R50): COPY moves LEN bytes between host memory, HBM and the staging store, and produces an output tile. -/
  | copy (q : Nat) (i : BitVec 32) (rd : HostRead)
  /-- FENCE (R61): FENCE holds its ring until every earlier descriptor, and any named descriptor of another ring,
      has committed. -/
  | fence (q : Nat) (i : BitVec 32)
  /-- ABORT (R69): ABORT tries to take a target descriptor's commit latch, stopping the target or receiving
      ALREADY_DONE. -/
  | abort (q : Nat) (i : BitVec 32) (t : Nat)
  /-- LOAD_PROGRAM (R68): LOAD_PROGRAM checks a program image and fills a program slot with it. -/
  | loadProgram (q : Nat) (i : BitVec 32) (rd : HostRead)
  /-- UNLOAD_PROGRAM (R68): UNLOAD_PROGRAM empties a program slot once no invocation in flight uses it. -/
  | unloadProgram (q : Nat) (i : BitVec 32)
  /-- SET_MODE (R496): SET_MODE from a fabric-manager ring requests a new operating mode and power budget. -/
  | setMode (q : Nat) (i : BitVec 32)
  /-- MODE_CAPS_APPLIED (R30): Within 100 µs of a mode change's dispatch, the new caps take hold and the SET_MODE
      completes with DONE. -/
  | modeCapsApplied (q : Nat) (i : BitVec 32) (t : Nat)
  /-- PEAK_ENTER (R498): PEAK with END 0 enters Peak when the node is in warm steady state and the cooldown has
      passed, and otherwise completes degraded. -/
  | peakEnter (q : Nat) (i : BitVec 32) (t : Nat)
  /-- PEAK_END (R498): PEAK with END 1 ends Peak early. -/
  | peakEnd (q : Nat) (i : BitVec 32) (t : Nat)
  /-- PEAK_EXPIRE (R499): Peak ends when MS has elapsed, and the 10 s cooldown starts. -/
  | peakExpire (t : Nat)
  /-- POWER_STATE (R490): POWER_STATE commands a range of domains, or a preset, to a power state. -/
  | powerState (q : Nat) (i : BitVec 32)
  /-- CREATE (R92): PLACE CREATE makes a new empty sequence with its record and head table. -/
  | create (q : Nat) (i : BitVec 32)
  /-- APPEND (R97): PLACE APPEND writes the chained tile's tokens into head lists, in place or by copy-on-write. -/
  | append (q : Nat) (i : BitVec 32)
  /-- TRUNCATE (R95): PLACE TRUNCATE cuts every head list to NEW_LENGTH. -/
  | truncate (q : Nat) (i : BitVec 32)
  /-- FORK (R95): PLACE FORK makes a new sequence that shares a prefix of the source's frames. -/
  | fork (q : Nat) (i : BitVec 32)
  /-- FREE (R95): PLACE FREE drops every entry of a sequence and removes its record. -/
  | placeFree (q : Nat) (i : BitVec 32)
  /-- FREEZE (R109): PLACE FREEZE makes a sequence FROZEN, so that APPEND and TRUNCATE are refused. -/
  | freeze (q : Nat) (i : BitVec 32)
  /-- THAW (R109): PLACE THAW returns a FROZEN sequence to OPEN. -/
  | thaw (q : Nat) (i : BitVec 32)
  /-- RESTORE (R95): PLACE RESTORE brings every spilled page of a sequence back into frames. -/
  | restore (q : Nat) (i : BitVec 32)
  /-- QUERY (R95): PLACE QUERY reports a sequence's MIN_LENGTH and VERSION, and can copy its record. -/
  | query (q : Nat) (i : BitVec 32)
  /-- ADD_EXTENT (R95): PLACE ADD_EXTENT gives an extent to the page store as a control extent or as a page extent
      of one class. -/
  | addExtent (q : Nat) (i : BitVec 32)
  /-- REMOVE_EXTENT (R95): PLACE REMOVE_EXTENT takes an unused extent back from the page store. -/
  | removeExtent (q : Nat) (i : BitVec 32)
  /-- SEQUENCE_LOCK_GRANT (R88): A waiting descriptor is granted a sequence lock, shared or exclusive, in dispatch
      order. -/
  | sequenceLockGrant (q : Nat) (i : BitVec 32)
  /-- PIN_RELEASE (R90): A reader finishes with a frame and releases its pin. -/
  | pinRelease (q : Nat) (i : BitVec 32) (page : Nat)
  /-- ATTEND (R121): SWEEP ATTEND runs near-bank attention over one head list, followed by the hub fold. -/
  | attend (q : Nat) (i : BitVec 32)
  /-- WALK_START (R136): When a walk place is free, a waiting descriptor's head-list walk starts under the shared
      lock. -/
  | walkStart (q : Nat) (i : BitVec 32) (t : Nat)
  /-- CHUNK_START (R113): The Mallet issuer starts a chunk of page-passes on a unit, round robin among descriptors
      and within the stack's cap. -/
  | chunkStart (u : Nat) (t : Nat)
  /-- CHUNK_END (R114): At a chunk boundary the hub issues any due refresh and then serves queued ordinary accesses
      of the pair. -/
  | chunkEnd (u : Nat) (misses : Nat) (uncorrectable : Bool) (t : Nat)
  /-- REFRESH_DUE (R115): A bank pair's per-bank refresh interval expires and a refresh falls due. -/
  | refreshDue (u : Nat)
  /-- HUB_FOLD (R127): After its last page-pass, a hub merges its units' partials and the exact-path partials of its
      pages. -/
  | hubFold (q : Nat) (i : BitVec 32) (hub : Nat)
  /-- PROGRESS_RECORD (R134): At each multiple of PROGRESS_PERIOD, the node writes a SWEEP progress record. -/
  | progressRecord (q : Nat) (i : BitVec 32) (t : Nat)
  /-- RESEAL (R137): SWEEP RESEAL asks for an extent to be converted between Open and Guarded. -/
  | reseal (q : Nat) (i : BitVec 32)
  /-- RESEAL_START (R138): When a RESEAL place is free, the RESEAL takes its commit point and the extent awaits
      reseal. -/
  | resealStart (q : Nat) (i : BitVec 32)
  /-- RESEAL_DONE (R139): The row conversion of an extent ends and the RESEAL completes. -/
  | resealDone (q : Nat) (i : BitVec 32) (badRows : List Nat)
  /-- BANK_PAIR_FENCE (R142): A bank pair is fenced: its frames go FENCED and its chunks in progress are redone on
      the exact path. -/
  | bankPairFence (u : Nat) (t : Nat)
  /-- MERGE (R149): FOLD MERGE merges partials slot by slot, with an optional value rescale. -/
  | merge (q : Nat) (i : BitVec 32) (rd : HostRead)
  /-- EXACT (R154): FOLD EXACT runs attention over one head list on Tabor cores. -/
  | foldExact (q : Nat) (i : BitVec 32) (rd : HostRead)
  /-- BATCH (R159): FOLD BATCH runs EXACT over many head lists, bucketed by length. -/
  | batch (q : Nat) (i : BitVec 32) (rd : HostRead)
  /-- EXACT_PAGE_READ (R155): A page read over the package links for FOLD or the exact path starts once the exact
      cap allows it. -/
  | exactPageRead (q : Nat) (i : BitVec 32) (k : Nat) (misses : Nat) (uncorrectable : Bool) (t : Nat)
  /-- CORE_PAGE (R156): A Tabor core finishes processing one page for the vectors of one piece. -/
  | corePage (q : Nat) (i : BitVec 32) (k : Nat) (mismatch : Bool)
  /-- PIECE_MOVE (R162): A core moves the piece that has waited longest out to the staging store or to the FOLD
      spill extent, to make room. -/
  | pieceMove (core : Nat)
  /-- CORE_FENCE (R170): A Tabor core is fenced, and its pieces are redone on other cores. -/
  | coreFence (core : Nat) (t : Nat)
  /-- SPARE_ASSIGN (R170): A spare core is cleared and takes the fenced core's logical number within 50 ms. -/
  | spareAssign (core : Nat)
  /-- QUANTISE (R194): INGEST QUANTISE converts keys and values to a page format, measuring each segment against its
      scale and applying the policy. -/
  | quantise (q : Nat) (i : BitVec 32) (rd : HostRead)
  /-- MEASURE (R198): INGEST MEASURE writes per-channel absolute maxima of keys and values. -/
  | measure (q : Nat) (i : BitVec 32) (rd : HostRead)
  /-- ENCODE (R221): INGEST ENCODE codes 16-bit words into CB16 stream-form blocks. -/
  | encode (q : Nat) (i : BitVec 32) (rd : HostRead)
  /-- DECODE (R222): INGEST DECODE parses stream-form blocks and writes their uncoded bytes. -/
  | decode (q : Nat) (i : BitVec 32) (rd : HostRead)
  /-- CHECK (R222): INGEST CHECK parses stream-form blocks and verifies them without output. -/
  | ingestCheck (q : Nat) (i : BitVec 32) (rd : HostRead)
  /-- HISTOGRAM (R219): INGEST HISTOGRAM counts the exponents of 16-bit words. -/
  | histogram (q : Nat) (i : BitVec 32) (rd : HostRead)
  /-- INGEST_UNIT (R224): A free INGEST lane takes the next 4 KiB unit by the weighted turn of owners. -/
  | ingestUnit (lane : Nat)
  /-- LOAD_SCALE_TABLE (R182): ADMIN LOAD_SCALE_TABLE checks an image and installs it in a scale slot, or empties
      the slot, at commit. -/
  | loadScaleTable (q : Nat) (i : BitVec 32) (rd : HostRead)
  /-- LOAD_DECODE_TABLE (R215): ADMIN LOAD_DECODE_TABLE loads a decode table into a slot once the old table has no
      holds. -/
  | loadDecodeTable (q : Nat) (i : BitVec 32) (rd : HostRead)
  /-- LOAD_PATTERNS (R248): ADMIN LOAD_PATTERNS checks a pattern set image and makes it the partition's current set. -/
  | loadPatterns (q : Nat) (i : BitVec 32) (rd : HostRead)
  /-- LOOKUP (R240): MATCH LOOKUP fingerprints a tile and finds the longest valid indexed prefix. -/
  | lookup (q : Nat) (i : BitVec 32) (rd : HostRead)
  /-- INSERT (R237): MATCH INSERT adds one index entry per page, moving or evicting entries when blocks are full. -/
  | insert (q : Nat) (i : BitVec 32) (rd : HostRead)
  /-- REMOVE (R242): MATCH REMOVE removes the index entry of each page of a tile. -/
  | remove (q : Nat) (i : BitVec 32) (rd : HostRead)
  /-- FINGERPRINT (R229): MATCH FINGERPRINT returns one chained fingerprint per page. -/
  | fingerprint (q : Nat) (i : BitVec 32) (rd : HostRead)
  /-- STEP (R251): MATCH STEP advances a sequence's automaton over tokens and applies fired actions at commit. -/
  | matchStep (q : Nat) (i : BitVec 32) (rd : HostRead)
  /-- STATE (R242): MATCH STATE copies a sequence's 64-byte automaton record. -/
  | matchState (q : Nat) (i : BitVec 32)
  /-- SNARE_SLOT (R233, R252): Each Snare slot serves one probe, insertion or removal, round robin among partitions. -/
  | snareSlot
  /-- INSERT_SHIFT (R236): A background shift moves the entries above an insertion up by one and writes the new
      entry. -/
  | insertShift (block : Nat)
  /-- SNARE_BALANCE (R232): The balancer moves entries between adjacent blocks when one block is above 7/8 full and
      its neighbour below 1/2. -/
  | snareBalance (p : Fin 16) (low : Nat)
  /-- PARITY_SCAN (R252): The background scan reads Snare entries, removes those that fail parity, and ages every
      entry at each completed pass. -/
  | parityScan (upsets : List (Nat × Nat)) (passDone : Bool)
  /-- SNARE_THROTTLE (R234): The Snare temperature sensor passes a threshold, or stays 3 °C below one for 1 ms, and
      the throttle step changes. -/
  | snareThrottle (quarterDeg : Int) (t : Nat)
  /-- ATTEND_REQ (R264): A home folds the queries of an arriving ATTEND_REQ and sends MEMBER_REQs to the shards
      concerned. -/
  | attendReq (p : Fin 16) (t : Nat)
  /-- MEMBER_REQ (R265): A member serves an arriving MEMBER_REQ with local ATTEND, MERGE or EXACT descriptors. -/
  | memberReq (p : Fin 16) (t : Nat)
  /-- MEMBER_REPLY (R271): A home or tree leader merges an arriving MEMBER_REPLY, and replies onward once all
      replies are in. -/
  | memberReply (p : Fin 16) (t : Nat)
  /-- ATTEND_REPLY (R317): An arriving reply to a FABRIC SEND with WAIT_REPLY commits that SEND with the reply's
      status and results. -/
  | attendReply (p : Fin 16) (t : Nat)
  /-- FABRIC_DEADLINE (R268): A request's DEADLINE passes, and the home abandons outstanding member work and replies
      QP_FLUSHED. -/
  | fabricDeadline (p : Fin 16) (id : Nat) (t : Nat)
  /-- FABRIC_REPLY_TIMEOUT (R317): A FABRIC SEND with WAIT_REPLY receives no reply within 1 s and completes
      QP_FLUSHED. -/
  | fabricReplyTimeout (q : Nat) (i : BitVec 32) (t : Nat)
  /-- SPREAD_SET (R258): SPREAD_SET installs, replaces or removes a spread record at the home. -/
  | spreadSet (p : Fin 16)
  /-- HANDOFF_REQ (R275): HANDOFF_REQ at the sender checks the lease and, on a match, sends OFFER and starts the
      lease timer. -/
  | handoffReq (p : Fin 16) (t : Nat)
  /-- OFFER (R273): A receiver taking an OFFER creates a hidden PENDING sequence and replies READY, or replies
      REFUSE. -/
  | offer (p : Fin 16) (t : Nat)
  /-- READY (R273): A sender in OFFERED that receives READY sends the PAGES. -/
  | ready (p : Fin 16) (t : Nat)
  /-- REFUSE (R278): A sender that receives REFUSE returns its lease to HELD and completes the HANDOFF with
      REMOTE_NAK. -/
  | refuse (p : Fin 16) (t : Nat)
  /-- PAGES (R277): A receiver places and checks the pages of a PAGES message, and sends ACCEPT once every page is
      in place. -/
  | pages (p : Fin 16) (t : Nat)
  /-- ACCEPT (R278): A sender that receives ACCEPT before its lease timer takes the commit latch, hides the sequence
      and sends COMMIT. -/
  | accept (p : Fin 16) (t : Nat)
  /-- COMMIT (R273): A receiver that takes COMMIT within its hold makes the sequence visible at e + 1 and answers
      COMMIT_ACK, or answers COMMIT_NAK. -/
  | commit (p : Fin 16) (t : Nat)
  /-- COMMIT_ACK (R273): A sender in ESCROW that receives COMMIT_ACK drops its pages, and the lease becomes ABSENT. -/
  | commitAck (p : Fin 16) (t : Nat)
  /-- COMMIT_NAK (R273): A sender in ESCROW that receives COMMIT_NAK takes the sequence back at e + 2 and posts an
      event. -/
  | commitNak (p : Fin 16) (t : Nat)
  /-- ABANDON (R273): A receiver that receives ABANDON frees the frames of a pending or accepted handoff. -/
  | abandon (p : Fin 16) (t : Nat)
  /-- LEASE_TIMER_EXPIRE (R273): An offer lease expires before ACCEPT, and the sender sends ABANDON and completes
      the HANDOFF with ESCROW_EXPIRED. -/
  | leaseTimerExpire (p : Fin 16) (seq : Nat) (t : Nat)
  /-- HOLD_TIMER_EXPIRE (R273): An ACCEPTED receiver's hold timer expires without COMMIT, and its frames are freed. -/
  | holdTimerExpire (p : Fin 16) (seq : Nat) (t : Nat)
  /-- PENDING_IDLE_EXPIRE (R273): A PENDING receiver that gets no message for HOLD_US frees its frames. -/
  | pendingIdleExpire (p : Fin 16) (seq : Nat) (t : Nat)
  /-- ESCROW_COMMIT_RESEND (R273): 100 µs in ESCROW without COMMIT_ACK makes the sender send COMMIT again. -/
  | escrowCommitResend (p : Fin 16) (seq : Nat) (t : Nat)
  /-- LOSS_NOTICE (R521): A loss notice puts the queue pairs toward the lost node in ERROR, resolves home requests
      and returns escrowed leases. -/
  | lossNotice (o : Owner) (m : MboxMsg) (t : Nat)
  /-- MESSAGE (R317): SEND MESSAGE sends one message on a queue pair. -/
  | message (q : Nat) (i : BitVec 32) (rd : HostRead)
  /-- WRITE (R317): SEND WRITE writes bytes into the peer's memory. -/
  | write (q : Nat) (i : BitVec 32) (rd : HostRead)
  /-- READ (R317): SEND READ reads bytes from the peer's memory into a local destination. -/
  | read (q : Nat) (i : BitVec 32)
  /-- FABRIC (R317): SEND FABRIC sends one fabric message, to a peer or to the node's own endpoint. -/
  | fabric (q : Nat) (i : BitVec 32) (rd : HostRead)
  /-- QP_SETUP (R298): QP_SETUP writes a queue pair context with its service, lanes, grants and keys. -/
  | qpSetup (q : Nat) (i : BitVec 32)
  /-- QP_MODIFY_ERROR (R299): QP_MODIFY ERROR puts a queue pair in ERROR and flushes its work. -/
  | qpModifyError (q : Nat) (i : BitVec 32)
  /-- QP_MODIFY_DRAIN (R299): QP_MODIFY DRAIN takes a queue pair to DRAINING. -/
  | qpModifyDrain (q : Nat) (i : BitVec 32)
  /-- QP_MODIFY_RESET (R299): QP_MODIFY RESET restarts the sequence spaces of a queue pair in ERROR and returns it
      to READY. -/
  | qpModifyReset (q : Nat) (i : BitVec 32)
  /-- QP_MODIFY_REKEY (R322): QP_MODIFY REKEY installs a new connection key epoch. -/
  | qpModifyRekey (q : Nat) (i : BitVec 32) (t : Nat)
  /-- QP_MODIFY_LANES (R299): QP_MODIFY LANES sets the lanes used and reopens closed lanes. -/
  | qpModifyLanes (q : Nat) (i : BitVec 32)
  /-- QP_DESTROY (R300): QP_DESTROY flushes a queue pair and frees its context. -/
  | qpDestroy (q : Nat) (i : BitVec 32)
  /-- QP_QUERY (R299): QP_QUERY returns a queue pair's state, open lanes and counters. -/
  | qpQuery (q : Nat) (i : BitVec 32)
  /-- POST (R318): RECV POST posts one receive buffer, which first searches unexpected messages. -/
  | post (q : Nat) (i : BitVec 32)
  /-- MESSAGE_START (R311): A sender starts message n once message n − 64 of the queue pair has committed. -/
  | messageStart (qpn : Nat) (t : Nat)
  /-- SEQUENCED_PACKET_RECEIVE (R306): An arriving sequenced Evomer packet is authenticated, checked against its
      lane's expected PSN, and placed or answered. -/
  | sequencedPacketReceive (k : Packet) (t : Nat)
  /-- ACK_RECEIVE (R305): A cumulative ACK releases the acknowledged packets of a lane and space, and may commit
      SENDs. -/
  | ackReceive (k : Packet) (t : Nat)
  /-- NAK_RECEIVE (R308): A NAK makes the sender go back, wait for RNR, or fail the message, according to its
      syndrome. -/
  | nakReceive (k : Packet) (t : Nat)
  /-- LANE_SYNC_RECEIVE (R307): A receiver closes the named lane and replies with its last accepted PSN. -/
  | laneSyncReceive (k : Packet)
  /-- LANE_SYNC_REPLY_RECEIVE (R307): A sender resends the closed lane's packets after the reported PSN on its other
      lanes. -/
  | laneSyncReplyReceive (k : Packet) (t : Nat)
  /-- CANCEL_RECEIVE (R316): A receiver aborts the matched RECV, or frees the unexpected message, named by CANCEL. -/
  | cancelReceive (k : Packet) (t : Nat)
  /-- ACK_TIMER (R305): 1 µs after the oldest unacknowledged packet, the receiver sends a cumulative ACK. -/
  | ackTimer (qpn : Nat) (lane : Nat) (space : Nat) (t : Nat)
  /-- RETRY_TIMER_EXPIRE (R307): A lane's go-back-N timer expires, and the sender resends from the oldest
      unacknowledged packet or closes the lane. -/
  | retryTimerExpire (qpn : Nat) (lane : Nat) (space : Nat) (t : Nat)
  /-- LANE_SYNC_RETRY (R307): Every RETRY_US without LANE_SYNC_REPLY, the sender repeats LANE_SYNC. -/
  | laneSyncRetry (qpn : Nat) (lane : Nat) (t : Nat)
  /-- RNR_WAIT_EXPIRE (R308): After RETRY_HINT, the sender resends from the packet that RNR refused. -/
  | rnrWaitExpire (qpn : Nat) (lane : Nat) (space : Nat) (t : Nat)
  /-- CONTEXT_FETCH_DONE (R303): A spilled context becomes resident and its waiting packets are authenticated and
      handled in arrival order. -/
  | contextFetchDone (qpn : Nat) (authOk : Bool) (t : Nat)
  /-- OLD_KEY_DROP (R322): 2 ms after a receiver's REKEY commits, the old connection key is dropped. -/
  | oldKeyDrop (qpn : Nat) (t : Nat)
  /-- ROCE_PACKET_RECEIVE (R324): An arriving RoCEv2 packet inside ESP is checked and handled under the InfiniBand
      reliable-connected transport. -/
  | rocePacketReceive (k : RocePacket) (t : Nat)
  /-- PACKET_FORWARD (R339): A packet for another node ID is forwarded in its plane, or discarded. -/
  | packetForward (port : Nat) (f : Frame)
  /-- FRAME_TRANSMIT (R347): A queued frame starts once its shaper has tokens and its gate is open long enough. -/
  | frameTransmit (port : Nat) (link : Nat) (cls : Nat) (t : Nat)
  /-- FRAME_DISCARD (R283): An arriving oversized frame, link-level PAUSE, IPv4, ICMPv6 or neighbour discovery frame
      is discarded and counted. -/
  | frameDiscard (port : Nat) (link : Nat) (b : BadFrame)
  /-- PAUSE_RECEIVE (R292): A priority-flow-control frame pauses or resumes a lossless class on a link. -/
  | pauseReceive (port : Nat) (link : Nat) (cls : Nat) (quanta : Nat) (t : Nat)
  /-- PAUSE_REFRESH (R292): While its ingress buffer stays above the stop threshold, the node refreshes its pause. -/
  | pauseRefresh (port : Nat) (link : Nat) (cls : Nat)
  /-- REMOTE_PAUSE_LIMIT (R294): A class paused toward the node for PAUSE_LIMIT has its queued frames discarded and
      its link marked down. -/
  | remotePauseLimit (port : Nat) (link : Nat) (cls : Nat) (t : Nat)
  /-- OWN_PAUSE_LIMIT (R294): The node's own pause held for PAUSE_LIMIT ends, and arriving frames of that class are
      discarded. -/
  | ownPauseLimit (port : Nat) (link : Nat) (cls : Nat) (t : Nat)
  /-- PHY_UP (R331): A link's PHY comes up, and LLDP transmission begins. -/
  | phyUp (port : Nat) (link : Nat) (t : Nat)
  /-- PHY_DOWN (R340): A link's PHY goes down, and the link leaves every effective hop with its queued frames
      discarded. -/
  | phyDown (port : Nat) (link : Nat) (t : Nat)
  /-- LLDP_SEND (R331): The LLDP timer of a link expires and a discovery frame is sent. -/
  | lldpSend (port : Nat) (link : Nat) (t : Nat)
  /-- LLDP_RECEIVE (R333): An arriving LLDP frame with the Jalward TLV updates the link's neighbour record and
      adjacency. -/
  | lldpReceive (port : Nat) (link : Nat) (v : LldpTlv) (t : Nat)
  /-- LLDP_TTL_EXPIRE (R333): The received TLV's TTL expires, and the link's adjacency ends. -/
  | lldpTtlExpire (port : Nat) (link : Nat) (t : Nat)
  /-- LINK_RETURN (R340): 1 s after a link is again enabled and adjacent with its recorded neighbour, it becomes
      usable. -/
  | linkReturn (port : Nat) (link : Nat) (t : Nat)
  /-- SHAPER_REFILL (R343): At every multiple of 1,000 ns of node time, each shaper's token count is refilled. -/
  | shaperRefill (t : Nat)
  /-- GATE_ENTRY_ADVANCE (R345): An active gate entry's DURATION ends, and the next entry takes over. -/
  | gateEntryAdvance (port : Nat) (t : Nat)
  /-- GATE_TAKEOVER (R346): The node time counter reaches TAKEOVER, and the armed pending list becomes active. -/
  | gateTakeover (port : Nat) (t : Nat)
  /-- GATE_ARM (R570): PORT_GATE_CTL CMD 0x1 checks the pending list and arms it. -/
  | gateArm (port : Nat) (countM1 : Nat) (t : Nat)
  /-- GATE_CLEAR (R570): PORT_GATE_CTL CMD 0x2 clears the active list, so every gate opens. -/
  | gateClear (port : Nat) (countM1 : Nat)
  /-- CXL_MEM_READ (R359): A CXL.mem read is decoded to a slot and answered with data or poison. -/
  | cxlMemRead (ld : Fin 16) (req : MemReq)
  /-- CXL_MEM_WRITE (R359): A CXL.mem write is decoded to a slot, and then written or dropped and logged. -/
  | cxlMemWrite (ld : Fin 16) (req : MemReq) (data : List Byte) (mask : List Bool) (poison : Bool)
  /-- CXL_MEM_OTHER_OPCODE (R360): A CXL.mem opcode that the node does not accept is answered as a poisoned read or
      a dropped write, and logged. -/
  | cxlMemOtherOpcode (ld : Fin 16) (addr : Nat) (withData : Bool)
  /-- LD_RATE_RELEASE (R368): An LD's 1 µs data rate falls below its limit, and its held requests proceed. -/
  | ldRateRelease (ld : Fin 16) (t : Nat)
  /-- CONFIG_REQUEST (R441): A CXL.io configuration request is answered, or given retry status during start-up or
      scrub. -/
  | configRequest (o : Owner) (reg : Nat) (wr : Option Word)
  /-- HDM_DECODER_COMMIT (R358): A commit of an HDM decoder is checked and either commits the decoder or sets Error
      Not Committed. -/
  | hdmDecoderCommit (ld : Fin 16) (d : Nat) (base : Nat) (size : Nat) (skip : Nat) (ways : Nat) (gran : Nat)
  /-- WINDOW_MODE_WRITE (R357): A write to a partition window slot's MODE raises or lowers its host access mode. -/
  | windowModeWrite (p : Fin 16) (slot : Nat) (mode : Nat) (t : Nat)
  /-- WINDOW_DRAIN_DONE (R357): The accesses past decode at a mode lowering drain, and the change is done. -/
  | windowDrainDone (p : Fin 16) (slot : Nat) (t : Nat)
  /-- EXTENT_ASSIGN (R371): ADMIN EXTENT_ASSIGN lends a pool extent to an LD slot with a mode and region. -/
  | extentAssign (q : Nat) (i : BitVec 32)
  /-- EXTENT_REVOKE (R373): ADMIN EXTENT_REVOKE removes an extent from decode at one LD or at all. -/
  | extentRevoke (q : Nat) (i : BitVec 32) (t : Nat)
  /-- REVOKE_DRAIN_DONE (R373): The last request and descriptor on a revoked extent have drained, and revocation for
      that LD is done. -/
  | revokeDrainDone (q : Nat) (i : BitVec 32)
  /-- EXTENT_CLEAR_DONE (R374): The bulk clear of a fully revoked extent ends, and the extent returns to the pool. -/
  | extentClearDone (e : Nat)
  /-- IDENTIFY_MEMORY_DEVICE (R355): The standard mailbox command reports 512 GiB of volatile capacity. -/
  | identifyMemoryDevice (o : Owner)
  /-- GET_HEALTH_INFO (R355): The standard mailbox command returns health information at the coarse telemetry grain. -/
  | getHealthInfo (o : Owner)
  /-- GET_EVENT_RECORDS (R355): The standard mailbox command returns the LD's event records. -/
  | getEventRecords (o : Owner) (log : Nat)
  /-- CLEAR_EVENT_RECORDS (R355): The standard mailbox command clears the LD's event records. -/
  | clearEventRecords (o : Owner) (log : Nat) (handles : List Nat)
  /-- GET_POISON_LIST (R365): The standard mailbox command reports poisoned lines and extent-level poison. -/
  | getPoisonList (o : Owner) (start : Nat) (len : Nat)
  /-- INJECT_POISON (R355): The standard mailbox command injects poison while the partition is unlocked. -/
  | injectPoison (o : Owner) (dpa : Nat)
  /-- CLEAR_POISON (R365): The standard mailbox command removes a line from the Open poison list. -/
  | clearPoison (o : Owner) (dpa : Nat) (data : List Byte)
  /-- GET_SUPPORTED_LOGS (R355): The standard mailbox command lists the supported logs. -/
  | getSupportedLogs (o : Owner)
  /-- GET_LOG (R355): The standard mailbox command returns a log. -/
  | getLog (o : Owner) (log : Nat) (off : Nat) (len : Nat)
  /-- GET_TIMESTAMP (R355): The standard mailbox command returns the timestamp. -/
  | getTimestamp (o : Owner)
  /-- UNSUPPORTED_COMMAND (R355): Any other CXL mailbox command returns Unsupported. -/
  | unsupportedCommand (o : Owner) (code : Nat)
  /-- SET_QOS_ALLOCATED_BW (R367): The FM API command sets an LD's CXL.mem queue allocation. -/
  | setQosAllocatedBw (start : Nat) (vals : List Nat)
  /-- SET_QOS_BW_LIMIT (R367): The FM API command sets an LD's CXL.mem rate limit. -/
  | setQosBwLimit (start : Nat) (vals : List Nat)
  /-- IDENTIFY (R452): The IDENTIFY mailbox message returns variant, lifecycle, counters, identity and image
      versions. -/
  | identify (o : Owner) (m : MboxMsg)
  /-- TIME (R453): The TIME mailbox message returns the node time counter at request arrival and at reply. -/
  | time (o : Owner) (m : MboxMsg) (t : Nat)
  /-- LOG_READ (R529): LOG_READ returns error log entries from START that the caller may read. -/
  | logRead (o : Owner) (m : MboxMsg)
  /-- CERT_GET (R420): CERT_GET returns a piece of the DIK or alias certificate. -/
  | certGet (o : Owner) (m : MboxMsg)
  /-- ATTEST (R421): ATTEST returns a signed report with a fresh encapsulation key. -/
  | attest (o : Owner) (m : MboxMsg) (t : Nat)
  /-- SESSION_OPEN (R424): SESSION_OPEN decapsulates a ciphertext for a kept report and establishes the partition's
      session secret. -/
  | sessionOpen (o : Owner) (m : MboxMsg) (t : Nat)
  /-- KEY_INSTALL (R425): KEY_INSTALL decrypts a connection secret and creates a key handle. -/
  | keyInstall (o : Owner) (m : MboxMsg)
  /-- KEY_REMOVE (R425): KEY_REMOVE destroys a key handle. -/
  | keyRemove (o : Owner) (m : MboxMsg)
  /-- REGION_PUBLISH (R379): REGION_PUBLISH compare-and-sets a published region's VERSION and DESCRIPTOR. -/
  | regionPublish (o : Owner) (m : MboxMsg)
  /-- REGION_QUERY (R379): REGION_QUERY returns a region's VERSION and DESCRIPTOR. -/
  | regionQuery (o : Owner) (m : MboxMsg)
  /-- FW_STAGE (R454): FW_STAGE writes image bytes into a kind's staging area. -/
  | fwStage (o : Owner) (m : MboxMsg)
  /-- FW_VERIFY (R455): FW_VERIFY starts background verification of staged kinds. -/
  | fwVerify (o : Owner) (m : MboxMsg)
  /-- FW_ACTIVATE (R458): FW_ACTIVATE starts switching processors of the named kinds to their new images. -/
  | fwActivate (o : Owner) (m : MboxMsg)
  /-- FW_PERSIST (R461): FW_PERSIST starts writing images into a boot slot. -/
  | fwPersist (o : Owner) (m : MboxMsg)
  /-- FW_STATUS (R456): FW_STATUS reports running and staged versions and the last background operation. -/
  | fwStatus (o : Owner) (m : MboxMsg)
  /-- ROLLBACK_ADVANCE (R446): ROLLBACK_ADVANCE starts raising a rollback counter by burning fuses. -/
  | rollbackAdvance (o : Owner) (m : MboxMsg)
  /-- ATTACH_STATE (R467): ATTACH_STATE reports a ring's fetch index, written records and held records. -/
  | attachState (o : Owner) (m : MboxMsg)
  /-- MAILBOX_FENCE (R514): The FENCE mailbox message fences, clears or queries a core, bank pair, pseudo-channel or
      link module. -/
  | mailboxFence (o : Owner) (m : MboxMsg) (t : Nat)
  /-- FW_VERIFY_DONE (R455): Verification of staged images ends, and its outcome is posted and recorded. -/
  | fwVerifyDone (sigOk : List Nat)
  /-- FW_ACTIVATE_STEP (R458): The next processor is brought to a safe point and switched to its new image. -/
  | fwActivateStep (t : Nat)
  /-- FW_PAUSE_TIMEOUT (R458): A new image does not report ready within its pause bound, and the kind reverts. -/
  | fwPauseTimeout (t : Nat)
  /-- FW_PERSIST_DONE (R461): A boot slot is fully written and read back, and it is marked preferred. -/
  | fwPersistDone
  /-- ROLLBACK_BURN_DONE (R446): The rollback counter fuses are burnt, and a new alias certificate is issued. -/
  | rollbackBurnDone
  /-- WATCHDOG_EXPIRE (R462): A processor's watchdog expires, and the node logs it, restarts or fences the
      processor, and posts an event. -/
  | watchdogExpire (x : Nat) (t : Nat)
  /-- PROCESSOR_RESTART_DONE (R462): A restarted processor is reloaded from its verified copy and resumes. -/
  | processorRestartDone (x : Nat)
  /-- HEARTBEAT_READ (R464): Every HB_MS / 4 the node reads the owner's heartbeat record. -/
  | heartbeatRead (o : Owner) (stores : List Host.Cell) (ok : Bool) (t : Nat)
  /-- DRAIN_OBJECT (R386): DRAIN OBJECT writes a range to a flash object and commits it durably. -/
  | drainObject (q : Nat) (i : BitVec 32) (rd : HostRead) (t : Nat)
  /-- DELETE (R386): DRAIN DELETE removes an object and deallocates its space. -/
  | delete (q : Nat) (i : BitVec 32) (t : Nat)
  /-- STEP_SETUP (R398): STEP_SETUP defines a step-state region, OPEN or ON_FLASH. -/
  | stepSetup (q : Nat) (i : BitVec 32)
  /-- STEP_PUBLISH (R401): STEP_PUBLISH compare-and-sets the region's version and seals it. -/
  | stepPublish (q : Nat) (i : BitVec 32)
  /-- STEP_DRAIN (R403): STEP_DRAIN writes a sealed region's extents to flash objects. -/
  | stepDrain (q : Nat) (i : BitVec 32) (t : Nat)
  /-- STEP_OPEN (R399): STEP_OPEN makes a SEALED or DURABLE region writable again. -/
  | stepOpen (q : Nat) (i : BitVec 32)
  /-- STEP_RELEASE (R399): STEP_RELEASE ends a region and can delete its objects. -/
  | stepRelease (q : Nat) (i : BitVec 32)
  /-- LIFT_OBJECT (R390): LIFT OBJECT reads, authenticates and decodes an object or part of it. -/
  | liftObject (q : Nat) (i : BitVec 32) (t : Nat)
  /-- STAT (R387): LIFT STAT returns an object's record. -/
  | stat (q : Nat) (i : BitVec 32)
  /-- STEP_RESTORE (R404): STEP_RESTORE lifts a region's objects back into its extents in 1 MiB units. -/
  | stepRestore (q : Nat) (i : BitVec 32) (t : Nat)
  /-- STEP_QUERY (R399): STEP_QUERY reports a region's state, version and descriptor. -/
  | stepQuery (q : Nat) (i : BitVec 32)
  /-- NVME_COMPLETION (R386): An NVMe command to a drive completes. -/
  | nvmeCompletion (q : Nat) (i : BitVec 32) (read : UnitRead) (us : Nat) (t : Nat)
  /-- STEP_DRAIN_OBJECT_DONE (R403): One object of a STEP_DRAIN commits or fails, and the next starts or the region
      changes state. -/
  | stepDrainObjectDone (q : Nat) (i : BitVec 32) (k : Nat) (ok : Bool) (t : Nat)
  /-- LIFT_UNIT_DONE (R404): A 1 MiB unit of a restore is lifted, and reads waiting on it proceed. -/
  | liftUnitDone (q : Nat) (i : BitVec 32) (k : Nat) (unit : Nat) (read : UnitRead) (t : Nat)
  /-- TIER_PATH_DONE (R396): A spilled page is read into the staging store, checked and handed to its reader. -/
  | tierPathDone (q : Nat) (i : BitVec 32) (k : Nat) (ok : Bool) (t : Nat)
  /-- FLASH_DEADLINE (R393): An operation's flash deadline passes before commit, and it completes TIER_FAIL. -/
  | flashDeadline (q : Nat) (i : BitVec 32) (t : Nat)
  /-- FLASH_SHARE_WINDOW (R392): Each 1 ms window resets the flash-share accounting, and waiting flash work
      proceeds. -/
  | flashShareWindow (t : Nat)
  /-- WEAR_BUCKET_REFILL (R405): A drive's write bucket refills, and waiting writes proceed. -/
  | wearBucketRefill (d : Nat) (t : Nat)
  /-- DRIVE_IDENTIFIED (R382): A drive whose link is up is identified and its usable namespaces found. -/
  | driveIdentified (d : Nat) (usable : List Nat) (blocks : List Nat)
  /-- DRIVE_FAILED (R383): A controller fatal status or removal fails a drive. -/
  | driveFailed (d : Nat) (removed : Bool)
  /-- DRIVE_TIMEOUT (R383): A command unanswered for 1 s, or a link down for more than 100 ms, fails a drive. -/
  | driveTimeout (d : Nat) (link : Bool)
  /-- PARTITION_CREATE (R415): PARTITION_CREATE assigns resources to a partition from its definition and makes keys. -/
  | partitionCreate (q : Nat) (i : BitVec 32) (rd : HostRead) (t : Nat)
  /-- PARTITION_LOCK (R416): PARTITION_LOCK freezes a partition's ownership. -/
  | partitionLock (q : Nat) (i : BitVec 32)
  /-- PARTITION_REMOVE (R437): PARTITION_REMOVE takes its commit point, stops fetch, raises the key epoch and begins
      the scrub. -/
  | partitionRemove (q : Nat) (i : BitVec 32) (t : Nat)
  /-- EGRESS_DRAIN_END (R438): 2 ms after the commit point, remaining sealed frames are discarded and the old keys
      destroyed. -/
  | egressDrainEnd (p : Fin 16) (t : Nat)
  /-- SCRUB_COMPLETE (R438): Every scrub step has ended, resources are freed and REMOVE completes. -/
  | scrubComplete (p : Fin 16) (t : Nat)
  /-- ENCAP_KEY_EXPIRE (R423): A report's decapsulation key is discarded after 10 s. -/
  | encapKeyExpire (report : Nat) (t : Nat)
  /-- DAMPER_TICK (R494): Every 1 ms the Damper reads power, current and temperatures and sets the target compute
      level. -/
  | damperTick (inp : DamperInputs) (t : Nat)
  /-- LEVEL_STEP (R495): Every 50 µs the compute level moves by 1 % toward its target. -/
  | levelStep (t : Nat)
  /-- CURRENT_CLAMP (R501): Input current above 52 A halves the compute level within 10 µs. -/
  | currentClamp (milliA : Nat) (t : Nat)
  /-- THERMAL_CLAMP_STEP (R502): A die or stack past its clamp start or fused limit lowers, halts or restores its
      level or issue. -/
  | thermalClampStep (r : Reading) (t : Nat)
  /-- THERMAL_TRIP (R502): A sensor at its trip temperature removes power from all but Belfry and the Damper and
      asserts FAULT#. -/
  | thermalTrip (r : Reading)
  /-- HUB_TEMP_READ (R503): Every 1 ms a hub reads its stacks' temperatures. -/
  | hubTempRead (hub : Nat) (temps : List Int)
  /-- DOMAIN_WAKE_DONE (R488): A domain woken for work reaches ON after its wake time, and the waiting work
      proceeds. -/
  | domainWakeDone (d : Nat) (t : Nat)
  /-- DOMAIN_IDLE_RETURN (R488): A domain with no work for 100 µs returns to its commanded state. -/
  | domainIdleReturn (d : Nat) (t : Nat)
  /-- TRANSFER_CHECK_FAIL (R508): A block or burst that fails its check is re-sent, and after four failures it is
      poisoned and logged. -/
  | transferCheckFail (link : Nat) (lane : Nat) (fails : Nat) (e : Nat) (off : Nat) (t : Nat)
  /-- ECC_ERROR (R509): An ECC error is corrected and counted, or its line is poisoned. -/
  | eccError (space : Nat) (addr : Nat) (uncorrectable : Bool) (t : Nat)
  /-- LANE_SPARE (R515): A faulty package-link lane is moved to a spare within 100 µs. -/
  | laneSpare (link : Nat) (module : Nat) (inward : Bool)
  /-- LINK_MODULE_FENCE (R516): A link module is fenced, and the link goes on with the modules left or acts as a
      lost link. -/
  | linkModuleFence (link : Nat) (module : Nat) (t : Nat)
  /-- PSEUDO_CHANNEL_FENCE (R518): A pseudo-channel is fenced: its frames go FENCED, its extents are poisoned and
      dependent sequences are lost. -/
  | pseudoChannelFence (c : Nat) (t : Nat)
  /-- FENCE_RECORD_WRITE (R513): A new fence is written to the fence record of both boot flashes within 10 ms. -/
  | fenceRecordWrite
  /-- NODE_FAULT (R519): A fault that ends node service asserts FAULT#, logs the cause and holds the faulted state. -/
  | nodeFault (powerKept : Bool)
  /-- REF100_LOSS (R519): The 100 MHz reference is absent for 1 ms, which is a node fault. -/
  | ref100Loss (t : Nat)
  /-- PWR_MATE (R576): PWR-C01 mates, and the input stage limits inrush and then charges the input capacitance. -/
  | pwrMate
  /-- POWER_GOOD (R531): The input has stood within 38 V to 46 V for 5 ms, the straps are sampled and start-up
      begins. -/
  | powerGood (recovery : Bool) (addr0 : Bool) (addr1 : Bool)
  /-- INPUT_BROWNOUT (R531): An input below 38 V before Memory_Active removes power and restarts from power-good. -/
  | inputBrownout
  /-- INPUT_OVERVOLTAGE (R575): An input above 48.5 V for 20 µs opens and latches the input stage. -/
  | inputOvervoltage
  /-- INPUT_UNDERVOLTAGE (R575): An input below 35.0 V for 1 ms turns every rail off. -/
  | inputUndervoltage
  /-- INPUT_OVERCURRENT (R576): A current above 70 A for 50 µs opens and latches the input stage. -/
  | inputOvercurrent
  /-- INPUT_LATCH_RELEASE_LOW (R576): An input below 10 V for 1 s releases the input latch, and the next start is
      POWER-ON. -/
  | inputLatchReleaseLow
  /-- FUSE_READ_DONE (R544): The boot ROM reads the fuses, chooses the ruling generation and lifecycle, or enters
      the recovery loader. -/
  | fuseReadDone (entropy : Nat)
  /-- RAILS_RAMPED (R532): The rails are ramped, regulator trips programmed, generators trimmed and the node time
      counter started. -/
  | railsRamped
  /-- PERST_RELEASE (R532): PERST# is released and T0 of start-up is set. -/
  | perstRelease (t : Nat)
  /-- CXL_LINK_TRAINED (R532): The CXL link trains, and configuration requests are answered with retry status. -/
  | cxlLinkTrained (alternate : Bool) (direct : Bool) (width : Nat) (gts : Nat)
  /-- IMAGES_VERIFIED (R535): The preferred slot's images are verified, or the other slot is booted. -/
  | imagesVerified (okA : Bool) (okB : Bool)
  /-- PROCESSORS_RELEASED (R532): The processors are released, the mailbox and monitor run, and retry status ends. -/
  | processorsReleased
  /-- HBM_TRAINED (R534): HBM training ends, and stacks that failed have their pseudo-channels fenced. -/
  | hbmTrained (failed : List Nat)
  /-- STARTUP_CLEAR_DONE (R539): HBM is bulk-cleared, self-tests run, the fence record is applied and logical cores
      are mapped. -/
  | startupClearDone (badCores : List Nat) (badUnits : List Nat) (badModules : List Nat)
  /-- MEMORY_ACTIVE (R533): Memory_Active is set, READY is released and waiting descriptors proceed. -/
  | memoryActive (t : Nat)
  /-- PERST_ASSERT (R540): PERST# asserted for at least 100 µs with power held starts a WARM reset, or restarts a
      start in progress. -/
  | perstAssert
  /-- RESET_PIN_RELEASE (R583): The release of RESET# after at least 1 ms low starts a COLD reset. -/
  | resetPinRelease (lowUs : Nat)
  /-- RESET_LATCH_RELEASE (R583): RESET# held low for 100 ms releases a latched input stage. -/
  | resetLatchRelease
  /-- FUNCTION_RESET (R541): An FLR or CXL hot reset disables the function's rings and resets its configuration. -/
  | functionReset (who : Option Owner)
  /-- RING_ENABLE (R559): PRT_RING_CTL CMD 0x1 checks the ring setup, takes a queue context and makes the ring
      ACTIVE, or puts it in ERROR. -/
  | ringEnable (o : Owner)
  /-- RING_DISABLE (R73): PRT_RING_CTL CMD 0x2 stops fetching and lets dispatched descriptors commit. -/
  | ringDisable (o : Owner)
  /-- RING_RESET (R73): PRT_RING_CTL CMD 0x3 returns a ring in ERROR to DISABLED. -/
  | ringReset (o : Owner)
  /-- RING_REATTACH (R468): A new generation written to an ORPHANED ring writes its held records and resumes
      fetching. -/
  | ringReattach (o : Owner) (cfg : Word)
  /-- PORT_LINK_ENABLE (R569): Setting a LINK_EN bit enables a link and records its neighbour identity. -/
  | portLinkEnable (port : Nat) (link : Nat)
  /-- PORT_LINK_DISABLE (R569): Clearing a LINK_EN bit removes the link from every effective hop. -/
  | portLinkDisable (port : Nat) (link : Nat) (t : Nat)
  /-- PORT_DOWN_CLEAR (R569): Writing 1 to a DOWN bit re-enables a link that was marked down. -/
  | portDownClear (port : Nat) (mask : Nat) (t : Nat)
  /-- SNARE_BLOCK_RELEASE (R566): Clearing a Snare block's VALID zeroes the block while BUSY is set. -/
  | snareBlockRelease (b : Nat)
  /-- SNARE_EXT_CHANGE (R556): A change of PRT_SNARE_EXT drops every entry of the old extension. -/
  | snareExtChange (p : Fin 16) (v : Word)
  /-- FLASH_SPILL_SLOTS_WRITE (R565): A write of SLOTS reserves page spill space at once, or records that it was
      refused. -/
  | flashSpillSlotsWrite (p : Fin 16) (slots : Nat)
  /-- DRIVE_CFG_WRITE (R567): A change of CAPACITY_GB or DWPD resizes the write bucket at once. -/
  | driveCfgWrite (d : Nat) (v : Word)
  /-- NODE_ID_WRITE (R563): A write of GLB_NODE sets VALID and NODE_ID under the rule for changing a valid node ID. -/
  | nodeIdWrite (v : Word)
  /-- FORWARDING_ENTRY_WRITE (R571): A forwarding entry takes effect whole at its write. -/
  | forwardingEntryWrite (n : Nat) (v : Word)
  /-- FOREIGN_ENTRY_WRITE (R571): A foreign entry takes effect whole at the write of its third word. -/
  | foreignEntryWrite (e : Nat) (v : Word)
  /-- SHADOW_ENABLE (R523): Writing ENABLE from 0 to 1 zeroes a shadow entry's counts and starts SHADOWING. -/
  | shadowEnable (p : Fin 16) (k : Nat) (v : Word)
  /-- MSIX_UNMASK (R483): Unmasking an MSI-X vector sends a message left pending in the PBA. -/
  | msixUnmask (o : Owner) (v : Nat)
  /-- REGISTER_WRITE (R551): A write to a register with no row of its own stores its fields under the access rules. -/
  | registerWrite (o : Owner) (bar0 : Bool) (off : Nat) (size : Nat) (v : Word) (t : Nat)
  /-- REGISTER_READ_LOWER_HALF (R551): A 4-byte read of a 64-bit register's lower half latches the upper half for
      the next read. -/
  | registerReadLowerHalf (o : Owner) (bar0 : Bool) (off : Nat)
  /-- MONITOR_HELP (R471): The monitor lists the commands allowed. -/
  | monitorHelp
  /-- MONITOR_VER (R471): The monitor shows the IDENTIFY fields. -/
  | monitorVer
  /-- MONITOR_STATUS (R471): The monitor shows mode, Peak, partition states, fences, drives and links. -/
  | monitorStatus
  /-- MONITOR_TEMP (R471): The monitor shows temperatures at the coarse grain. -/
  | monitorTemp
  /-- MONITOR_POWER (R471): The monitor shows power at the coarse grain. -/
  | monitorPower
  /-- MONITOR_TIME (R471): The monitor shows the node time counter. -/
  | monitorTime
  /-- MONITOR_LOG (R471): The monitor streams node-level error log entries. -/
  | monitorLog
  /-- MONITOR_BAUD (R469): The monitor changes the UART rate after its reply. -/
  | monitorBaud (n : Nat)
  /-- MONITOR_FW (R471): The monitor shows the FW_STATUS fields. -/
  | monitorFw
  /-- MONITOR_HBM (R471): The monitor shows the training and margin report of each stack. -/
  | monitorHbm
  /-- PEEK (R471): The monitor reads a BAR0 register. -/
  | peek (off : Nat)
  /-- POKE (R471): The monitor writes a BAR0 register. -/
  | poke (off : Nat) (v : Word) (t : Nat)
  /-- FUSE_SHOW (R549): The monitor shows every fuse field except SEED. -/
  | fuseShow
  /-- FUSE_LOAD (R549): The monitor stages 512 bits of a CONFIG. -/
  | fuseLoad (k : Nat) (v : BitVec 512)
  /-- FUSE_BURN (R549): The monitor checks the staged CONFIG and burns it into the next free generation. -/
  | fuseBurn (readBackOk : Bool)
  /-- FUSE_LIFE_PRODUCTION (R546): The monitor burns the PRODUCTION mark when its conditions hold. -/
  | fuseLifeProduction
  /-- MONITOR_RESET_COLD (R540): The monitor starts a COLD reset. -/
  | monitorResetCold
  /-- MONITOR_RESET_WARM (R540): The monitor starts a WARM reset. -/
  | monitorResetWarm
  /-- MONITOR_UNKNOWN (R470): An unknown or disallowed monitor command replies ERR F0. -/
  | monitorUnknown
  /-- UART_BREAK (R469): A break of at least 100 ms returns the UART to 115,200 baud. -/
  | uartBreak
  /-- LOADER_HELP (R537): The loader lists its commands. -/
  | loaderHelp
  /-- LOADER_ID (R537): The loader gives IDENTITY and the lifecycle code. -/
  | loaderId
  /-- LOADER_BAUD (R537): The loader sets the line rate. -/
  | loaderBaud (n : Nat)
  /-- KEY (R537): The loader receives the image public key and accepts it when its digest equals IMAGE_KEY. -/
  | key
  /-- IMAGE (R537): The loader receives an image of one kind. -/
  | image (kind : Nat) (n : Nat)
  /-- LOADER_WRITE (R537): The loader verifies the five images and writes them with a new slot header into slot A. -/
  | loaderWrite (sigOk : List Nat)
  /-- CHALLENGE (R537): The loader gives a fresh 32-byte challenge. -/
  | challenge (v : BitVec 256)
  /-- RETURN (R538): The loader checks a return authorisation and burns the RETURNED mark and SEED. -/
  | loaderReturn
  /-- LOADER_BLOCK (R537): The loader checks a received transfer block and answers ACK or NAK. -/
  | loaderBlock (data : List Byte) (crc : BitVec 32) (sigOk : Bool)
  /-- LOADER_UNKNOWN (R537): A loader line that the table does not name replies ERR F0. -/
  | loaderUnknown
  /-- SMB_STATUS (R586): SMBus command 0x00 returns the status byte. -/
  | smbStatus
  /-- SMB_LIFECYCLE (R586): SMBus command 0x01 returns the lifecycle code. -/
  | smbLifecycle
  /-- SMB_POWER (R586): SMBus command 0x02 returns input power in 50 W steps. -/
  | smbPower
  /-- SMB_TEMP (R586): SMBus command 0x03 returns the hottest temperature in 5 °C steps. -/
  | smbTemp
  /-- SMB_LEVEL (R586): SMBus command 0x04 returns the compute level in 10 % steps. -/
  | smbLevel
  /-- SMB_ALERT_CAUSE (R586): SMBus command 0x05 returns ALERT_CAUSE and clears the bits whose causes have ended. -/
  | smbAlertCause
  /-- SMB_VARIANT (R586): SMBus command 0x06 returns the variant code. -/
  | smbVariant
  /-- SMB_IDENTITY (R586): SMBus command 0x10 returns the identity number. -/
  | smbIdentity
  /-- SMB_ALERT_RESPONSE (R583): The node answers the SMBus Alert Response Address with its target address. -/
  | smbAlertResponse
  /-- SMB_UNKNOWN (R586): Any other SMBus command code is NAKed. -/
  | smbUnknown (code : Nat)
  /-- HANDOFF_MEMORY_EXPIRE (R273): 10 s after a receiver committed a handoff, it forgets that handoff, so that a
      later COMMIT for it no longer meets COMMIT_ACK. -/
  | handoffMemoryExpire (p : Fin 16) (sender : Nat) (id : Nat) (t : Nat)
  /-- PAUSE_TIME_EXPIRE (R292): The pause time of a received priority-flow-control frame runs out without a refresh,
      and the paused lossless class resumes sending on that link. -/
  | pauseTimeExpire (port : Nat) (link : Nat) (cls : Nat) (t : Nat)
  /-- CXL_LINK_DOWN (R45): The CXL link goes into recovery or down with power held, which stops CXL.io fetches and
      CXL.mem traffic until it trains again. -/
  | cxlLinkDown
  /-- FM_API_COMMAND (R350): An FM API MLD component command other than the two QoS setters arrives on the FM-owned
      LD and is answered. -/
  | fmApiCommand (code : Nat) (body : List Byte)
  /-- SNARE_BLOCK_CLEAR_DONE (R566): The zeroing of a released Snare block ends within 400 µs, and BUSY clears so
      that the block can be assigned again. -/
  | snareBlockClearDone (b : Nat)
  /-- KEY_JOURNAL_ERASE (R432): Spent key journal records are erased in the background in both boot flashes. -/
  | keyJournalErase
  /-- AUX_3V3_LOSS (R583): The 3V3_AUX supply is lost, and the FAULT# latch and the input-stage latch release are no
      longer powered. -/
  | aux3v3Loss
deriving DecidableEq, Repr

end Sys2Proof
end

