-- ==== Sys2Proof/Decode.lean ====
section
/-!
DEFINITION. Command words. The rows of spec/opcode_table.json are commands of a block: none of them is given bits, so no word spells
one. Descriptor words are not commands: their fields are read where the rings dispatch them (Machine/Operands.lean).
-/
namespace Sys2Proof

/-- The command that a word spells by the table's bits: no row has bits, so there is none. -/
def decodeTableWord (_nbits _w : Nat) : Option Instr := none

end Sys2Proof
end

