-- ==== Sys2Proof/Config.lean ====
section
/-!
DEFINITION. The free values of the model: values and outcomes that the spec leaves open (log entries 2 and 3). Every one is opaque,
so no proof can lean on a number behind it. `State.free` counts how many have been drawn.
-/
namespace Sys2Proof

/-- The n-th free value (log entry 2): a natural number that nothing constrains. A value of w bits is taken from it modulo 2^w. -/
opaque Config.free : Nat → Nat

/-- A byte of an extent that the node keeps for itself where nothing has a value, by the number of free values drawn and the address (R80, R100, R162). -/
opaque Config.idleByte : (drawn addr : Nat) → Byte

/-- The hash of IPv6 addresses, flow label and UDP ports by which a link is picked among the effective hops of a plane (R338): the spec does not give it. -/
opaque Config.hopHash : (src dst flow srcPort dstPort : Nat) → Nat

/-- The hash of queue pair number and lane in the UDP source port and flow label (R286): the spec does not give it. -/
opaque Config.flowHash : (qpn lane : Nat) → Nat

/-- How far the copy of the node time counter in the island that takes a timestamp is off (R24), by the number of free values drawn before: taken modulo 9, in
steps of 10 ns from 40 ns behind to 40 ns ahead. -/
opaque Config.islandSkew : Nat → Nat

/-- The frame check sequence of IEEE 802.3 over a frame's bytes, 4 bytes (R286): a standard that the spec cites and does not restate (log entry 3). -/
opaque Config.frameCheck : List Byte → BitVec 32

/-- The invariant CRC of a RoCEv2 packet between two addresses over its UDP datagram (R324): a standard that the spec cites and does not restate (log entry 3). -/
opaque Config.icrc : (src dst : Nat) → (udp : List Byte) → BitVec 32

/-- AES-256-GCM sealing under a key and a 96-bit initialisation vector with additional data: ciphertext and 16-byte tag. The
cipher is a standard that the spec cites and does not restate, so it is uninterpreted (log entry 3). -/
opaque Config.gcmSeal : (key iv aad plain : List Byte) → List Byte

/-- AES-256-GCM opening of a ciphertext followed by its tag: the plaintext, or nothing when authentication fails (log entry 3). -/
opaque Config.gcmOpen : (key iv aad sealed : List Byte) → Option (List Byte)

/-- ML-KEM-768: the shared secret that a decapsulation key (named by the free value from which its pair was made) gives for a ciphertext (R424). -/
opaque Config.kemDecap : (pair : Nat) → (ciphertext : List Byte) → List Byte

/-- ML-KEM-768: the encapsulation key of such a pair, 1,184 bytes (R421). -/
opaque Config.kemEk : (pair : Nat) → Nat → Byte

/-- ML-DSA-44: byte n of the signature of a message under a seed (R419, R421). -/
opaque Config.dsaSign : (seed msg : List Byte) → Nat → Byte

/-- ML-DSA-44: whether a signature verifies for a message under a public key (R445, R538). -/
opaque Config.dsaVerify : (key msg sig : List Byte) → Bool

/-- Byte n of a certificate (0 the DIK certificate, 1 the alias certificate) that carries the given fields (R420). -/
opaque Config.certByte : (which : Nat) → (fields : List Byte) → Nat → Byte

/-- The length in bytes of a certificate (R420). -/
opaque Config.certLen : (which : Nat) → Nat

/-- Which share of the programs, of sixteen, an invocation falls in, by its queue context and ring index (R462): the spec does not say. -/
opaque Config.programShare : (ctx index : Nat) → Nat

/-- AES-256-XTS encryption of a data unit under two keys with a 16-byte tweak (R433): a standard that the spec cites and does not restate (log entry 3). -/
opaque Config.xtsSeal : (keys tweak plain : List Byte) → List Byte

/-- Which stripe of a namespace holds stripe unit n of an area of a partition's flash space: 0 the directory, 1 the spill area, 2 + g the object of write
generation g (R384): the spec does not say where they lie. -/
opaque Config.flashPlace : (part area n : Nat) → Nat

/-- The bytes of the unit that a change of a partition's directory writes, by its commit count (R384): the spec does not lay them out. -/
opaque Config.directoryByte : (part count n : Nat) → Byte

/-- Read latency and read bandwidth that a CDAT entry reports of a run of slots (R364): the spec gives no figure. -/
opaque Config.cdatFigure : (ld run : Nat) → (bandwidth : Bool) → BitVec 16

/-- The dword of a function's configuration space that holds MSI-X Message Control: the place of the capability is not given (R483). -/
opaque Config.msixDword : Nat

end Sys2Proof
end

