-- ==== Sys2Proof/Machine/Bits.lean ====
section
/-!
DEFINITION. Bit fields, byte order and small list helpers (R8, R9). Everything here is mendable arithmetic that the meanings share.
-/
namespace Sys2Proof

/-- Field [hi:lo] of a word, as a number (R9). -/
def fld (w : Word) (hi lo : Nat) : Nat := (w.toNat >>> lo) % 2 ^ (hi + 1 - lo)

/-- Bit [n] of a word (R9). -/
def bit (w : Word) (n : Nat) : Bool := w.getLsbD n

/-- A word with the number `v` placed at bits [hi:lo] of zero. -/
def put (hi lo v : Nat) : Word := BitVec.ofNat 64 ((v % 2 ^ (hi + 1 - lo)) <<< lo)

/-- A Bool as a number. -/
def b2n (b : Bool) : Nat := if b then 1 else 0

/-- A word with field [hi:lo] replaced. -/
def setFld (w : Word) (hi lo v : Nat) : Word :=
  BitVec.ofNat 64 (w.toNat - ((w.toNat >>> lo) % 2 ^ (hi + 1 - lo)) <<< lo) ||| put hi lo v

/-- `w` with the bits of `mask` taken from `v`. -/
def merge (w v mask : Word) : Word := (w &&& ~~~mask) ||| (v &&& mask)

/-- The mask of bits [hi:lo]. -/
def maskOf (hi lo : Nat) : Word := BitVec.ofNat 64 ((2 ^ (hi + 1 - lo) - 1) <<< lo)

/-- The low `n` bytes of a number, little-endian (R8). -/
def leBytes (n v : Nat) : List Byte := (List.range n).map fun k => BitVec.ofNat 8 (v >>> (8 * k))

/-- The number that bytes spell, little-endian (R8). -/
def ofLe (bs : List Byte) : Nat := bs.foldr (fun b acc => b.toNat + 256 * acc) 0

/-- The number that bytes spell, big-endian. -/
def ofBe (bs : List Byte) : Nat := bs.foldl (fun acc b => 256 * acc + b.toNat) 0

/-- Words of 8 bytes, little-endian, W0 at the lowest address (R9). -/
def toWords : Nat → List Byte → List Word
  | 0, _ => []
  | n + 1, bs => BitVec.ofNat 64 (ofLe (bs.take 8)) :: toWords n (bs.drop 8)

/-- The bytes of words, W0 first. -/
def ofWords (ws : List Word) : List Byte := ws.flatMap fun w => leBytes 8 w.toNat

/-- Word k of a list, zero beyond its end. -/
def wd (ws : List Word) (k : Nat) : Word := ws.getD k 0#64

/-- Bytes at an offset, zero-filled to the length asked for. -/
def slice (bs : List Byte) (off n : Nat) : List Byte :=
  let x := (bs.drop off).take n
  x ++ List.replicate (n - x.length) 0#8

/-- Replaces the bytes of a list from an offset on, keeping its length. -/
def overlay (bs : List Byte) (off : Nat) (x : List Byte) : List Byte :=
  bs.take off ++ (x ++ bs.drop (off + x.length)).take (bs.length - off)

/-- The step from b to a in counts that wrap modulo 2^32 (R38, R56, R74). -/
def sub32 (a b : Nat) : Nat := (BitVec.ofNat 32 a - BitVec.ofNat 32 b).toNat

/-- ⌈a / b⌉. -/
def ceilDiv (a b : Nat) : Nat := (a + b - 1) / b

/-- The ASCII bytes of a label (R419, R426). -/
def ascii (x : String) : List Byte := x.toList.map fun c => BitVec.ofNat 8 c.toNat

/-- The positions of a list whose elements satisfy a test. -/
def positions {α : Type} (p : α → Bool) (l : List α) : List Nat :=
  (List.range l.length).filter fun k => ((l[k]?).map p).getD false

/-- Adds one to a saturating 64-bit counter (R561). -/
def sat64 (n k : Nat) : Nat := min (n + k) (2 ^ 64 - 1)

/-- Keyed plain data: the value a key names. -/
def lookup? {κ β : Type} [DecidableEq κ] (m : List (κ × β)) (k : κ) : Option β :=
  (m.find? fun e => decide (e.1 = k)).map Prod.snd

/-- Keyed plain data: removes a key. -/
def erase {κ β : Type} [DecidableEq κ] (m : List (κ × β)) (k : κ) : List (κ × β) :=
  m.filter fun e => decide (e.1 ≠ k)

/-- Keyed plain data: changes the value of a key that is present. -/
def adjust {κ β : Type} [DecidableEq κ] (m : List (κ × β)) (k : κ) (f : β → β) : List (κ × β) :=
  m.map fun e => if e.1 = k then (e.1, f e.2) else e

/-- Keyed plain data: sets the value of a key, in place or at the end. -/
def assign {κ β : Type} [DecidableEq κ] (m : List (κ × β)) (k : κ) (v : β) : List (κ × β) :=
  if (lookup? m k).isSome then adjust m k fun _ => v else m ++ [(k, v)]

end Sys2Proof
end

