-- ==== Sys2Proof/Machine/Hash.lean ====
section
/-!
DEFINITION. The two checksums that the spec computes values with: CRC-32C (R98, R206) and SHA3-256 (R229, R419, R422).
CRC-32C is the Castagnoli polynomial, reflected, initial and final value all ones; SHA3-256 is FIPS 202.
-/
namespace Sys2Proof

/-- Eight steps of the reflected Castagnoli division for one byte. -/
def crcStep (c : BitVec 32) : Nat → BitVec 32
  | 0 => c
  | n + 1 => crcStep (if c.getLsbD 0 then (c >>> 1) ^^^ 0x82F63B78#32 else c >>> 1) n

/-- CRC-32C of bytes. -/
def crc32c (bs : List Byte) : BitVec 32 :=
  ~~~(bs.foldl (fun c b => crcStep (c ^^^ (b.zeroExtend 32)) 8) 0xFFFFFFFF#32)

/-- The lane rotations of Keccak, lane x + 5y. -/
def keccakRot : List Nat :=
  [0, 1, 62, 28, 27, 36, 44, 6, 55, 20, 3, 10, 43, 25, 39, 41, 45, 15, 21, 8, 18, 2, 61, 56, 14]

/-- The round constants of Keccak-f[1600]. -/
def keccakRc : List Word :=
  [0x0000000000000001#64, 0x0000000000008082#64, 0x800000000000808A#64, 0x8000000080008000#64,
   0x000000000000808B#64, 0x0000000080000001#64, 0x8000000080008081#64, 0x8000000000008009#64,
   0x000000000000008A#64, 0x0000000000000088#64, 0x0000000080008009#64, 0x000000008000000A#64,
   0x000000008000808B#64, 0x800000000000008B#64, 0x8000000000008089#64, 0x8000000000008003#64,
   0x8000000000008002#64, 0x8000000000000080#64, 0x000000000000800A#64, 0x800000008000000A#64,
   0x8000000080008081#64, 0x8000000000008080#64, 0x0000000080000001#64, 0x8000000080008008#64]

/-- One round of Keccak-f[1600] on 25 lanes. -/
def keccakRound (a : List Word) (rc : Word) : List Word :=
  let c := (List.range 5).map fun x => wd a x ^^^ wd a (x + 5) ^^^ wd a (x + 10) ^^^ wd a (x + 15) ^^^ wd a (x + 20)
  let d := (List.range 5).map fun x => wd c ((x + 4) % 5) ^^^ (wd c ((x + 1) % 5)).rotateLeft 1
  let th := (List.range 25).map fun k => wd a k ^^^ wd d (k % 5)
  -- pi moves lane (x, y) to (y, 2x + 3y): the lane that lands at (X, Y) came from x = X + 3Y, y = X
  let b := (List.range 25).map fun k =>
    let src := ((k % 5 + 3 * (k / 5)) % 5) + 5 * (k % 5)
    (wd th src).rotateLeft (keccakRot.getD src 0)
  (List.range 25).map fun k =>
    let v := wd b k ^^^ (~~~(wd b ((k % 5 + 1) % 5 + 5 * (k / 5))) &&& wd b ((k % 5 + 2) % 5 + 5 * (k / 5)))
    if k = 0 then v ^^^ rc else v

/-- The permutation Keccak-f[1600]. -/
def keccakF (a : List Word) : List Word := keccakRc.foldl keccakRound a

/-- Absorbs the blocks of a padded message, 136 bytes each. -/
def absorb : Nat → List Byte → List Word → List Word
  | 0, _, a => a
  | n + 1, bs, a =>
    let blk := toWords 17 (bs.take 136)
    absorb n (bs.drop 136) (keccakF ((List.range 25).map fun k => wd a k ^^^ wd blk k))

/-- SHA3-256 of bytes: 32 bytes. -/
def sha3 (bs : List Byte) : List Byte :=
  let n := bs.length / 136 + 1
  let pad := n * 136 - bs.length
  let p := if pad = 1 then bs ++ [0x86#8] else bs ++ 0x06#8 :: (List.replicate (pad - 2) 0#8 ++ [0x80#8])
  ((ofWords (absorb n p (List.replicate 25 0#64))).take 32)

/-- HMAC with SHA3-256, whose block is 136 bytes, under a key of at most that many (R433). -/
def hmacSha3 (key msg : List Byte) : List Byte :=
  let k := key ++ List.replicate (136 - key.length) 0#8
  sha3 (k.map (· ^^^ 0x5C#8) ++ sha3 (k.map (· ^^^ 0x36#8) ++ msg))

end Sys2Proof
end

