-- ==== Sys2Proof/Machine/Memory.lean ====
section
/-!
DEFINITION. Byte memories in one canonical form: cells of rising address, none holding zero, which is what an unlisted address
reads as. HBM reads as zero because start-up and every clear zero it (R112, R539); host memory and the staging store read as zero
by DESIGN CHOICE (log entry 4).
-/
namespace Sys2Proof

/-- The byte at an address. -/
def Memory.read (m : List Host.Cell) (a : Nat) : Byte :=
  match m with
  | [] => 0#8
  | (k, v) :: r => if k = a then v else if a < k then 0#8 else Memory.read r a

/-- Writes one byte, keeping the canonical form. -/
def Memory.write (m : List Host.Cell) (a : Nat) (b : Byte) : List Host.Cell :=
  match m with
  | [] => if b = 0#8 then [] else [(a, b)]
  | (k, v) :: r =>
    if k = a then (if b = 0#8 then r else (a, b) :: r)
    else if a < k then (if b = 0#8 then (k, v) :: r else (a, b) :: (k, v) :: r)
    else (k, v) :: Memory.write r a b

/-- The bytes of a range. -/
def Memory.readBytes (m : List Host.Cell) (a n : Nat) : List Byte :=
  (List.range n).map fun k => Memory.read m (a + k)

/-- Writes a run of bytes. -/
def Memory.writeBytes (m : List Host.Cell) (a : Nat) (bs : List Byte) : List Host.Cell :=
  match bs with
  | [] => m
  | b :: r => Memory.writeBytes (Memory.write m a b) (a + 1) r

/-- Zeroes a range: its cells leave the list. -/
def Memory.clear (m : List Host.Cell) (a n : Nat) : List Host.Cell :=
  m.filter fun c => decide (c.1 < a ∨ a + n ≤ c.1)

/-- Writes the bytes that cells list, one after another (a host's stores). -/
def Memory.writeCells (m : List Host.Cell) (cs : List Host.Cell) : List Host.Cell :=
  cs.foldl (fun acc c => Memory.write acc c.1 c.2) m

/-- Every address is at least `lo`, addresses rise strictly and no cell holds zero. -/
def Memory.wfFrom : Nat → List Host.Cell → Bool
  | _, [] => true
  | lo, (k, v) :: r => decide (lo ≤ k) && decide (v ≠ 0#8) && Memory.wfFrom (k + 1) r

/-- The canonical form of a memory. -/
def Memory.wf (m : List Host.Cell) : Bool := Memory.wfFrom 0 m

end Sys2Proof
end

