-- ==== Sys2Proof/Data/Rings.lean ====
section
/-!
DEFINITION. Host rings, owners' settings and tiles as plain data (R35 to R74, R473 to R485, R553 to R561).
-/
namespace Sys2Proof

/-- Ring states of R73 and R466, with the codes of PRT_RING_CTL (R557). -/
inductive RingState where
  | disabled | active | stalled | error | orphaned
deriving DecidableEq, Repr

/-- Ring kinds of PRT_RING_CFG (R557). -/
inductive RingKind where
  | none | submission | completion | chime
deriving DecidableEq, Repr

/-- The attribute record of a placement tile (R195) and its side part: one list of BF16 words for each promoted segment. -/
structure PlaceAttr where
  format : Nat
  dim : Nat
  layer : Nat
  firstHead : Nat
  heads : Nat
  tokens : Nat
  startToken : Nat
  promoted : List Nat
  side : List (List (BitVec 16))
deriving DecidableEq, Repr

/-- A tile: its payload, the placement attributes when QUANTISE made it (R195), whether its data is poisoned, and the decode
table it keeps a hold on (R216). -/
structure Tile where
  bytes : List Byte
  attr : Option PlaceAttr := none
  poison : Bool := false
  tableHold : Option (Nat × Nat) := none
deriving DecidableEq, Repr

/-- One ring setup slot (R557): the registers as written, the setup in force, the counts, and what the ring states hold. -/
structure Ring where
  /-- PRT_RING_BASE, PRT_RING_CFG and PRT_RING_TAG as written. -/
  base : Word := 0#64
  cfg : Word := 0#64
  tagBase : Word := 0#64
  /-- BASE, CFG and TAG_BASE in force since enable or re-attach (R558). -/
  inBase : Nat := 0
  inCfg : Word := 0#64
  inTag : Nat := 0
  state : RingState := .disabled
  cause : Nat := 0
  /-- A disable or reset was written and dispatched descriptors have still to commit (R73). -/
  closing : Bool := false
  /-- What was written is a reset, which clears the counts (R73). -/
  wipe : Bool := false
  /-- The queue context held (R559). -/
  queue : Nat := 0
  /-- Count of descriptors submitted (INDEX last taken), or of records consumed; and the INDEX last fetched, taken or not (R44). -/
  index : Nat := 0
  lastIndex : Nat := 0
  /-- Count of descriptors dispatched since enable, not wrapped. -/
  dispatched : Nat := 0
  /-- Count of records written (completion and Chime rings) since enable, not wrapped. -/
  written : Nat := 0
  /-- Records reserved at dispatch and not yet written (R55). -/
  reserved : Nat := 0
  stalls : Nat := 0
  /-- Submission ring: completion records of its descriptors written to host memory, and held in the node (R467). -/
  recsWritten : Nat := 0
  recsHeld : Nat := 0
  /-- The stale doorbell record fetched last (R42). -/
  stale : Option Word := none
  /-- Ring indices of descriptors that an ABORT took before their dispatch (R69). -/
  skips : List Nat := []
  /-- Ring indices of the failing descriptors since the last FENCE, and the count of descriptors dispatched when that FENCE was (R62). -/
  failed : List Nat := []
  fenceFrom : Nat := 0
  /-- Status and output tile of the descriptor dispatched last, once it has committed (R60). -/
  prev : Option (Nat × Option Tile) := none
  /-- PRT_RING_WAKE: WAKE mask and lost counter (R480, R484). -/
  wake : Nat := 0
  lost : Nat := 0
  /-- Events lost since the last record written. -/
  lostSince : Nat := 0
  /-- Classes of the records written and not yet consumed, oldest first (R481). -/
  classes : List Nat := []
  /-- Interrupt state: ACTIVE or ARMED, and PENDING (R481). -/
  irqActive : Bool := false
  irqPending : Bool := false
  /-- Records held while ORPHANED (R466): words W0 to W3 without PHASE, oldest first. -/
  held : List (List Word) := []
deriving DecidableEq, Repr

/-- The states of a shadow entry (R523), with its STATE codes in this order. -/
inductive ShadowState where
  | off | shadowing | qualified | failed
deriving DecidableEq, Repr

/-- A shadow entry of a partition (R523): its fields and counts, and the agreeing requests in a row (R525). -/
structure Shadow where
  primary : Nat := 0
  shadow : Nat := 0
  state : ShadowState := .off
  enable : Bool := false
  tolExp : Nat := 0
  qualifyCount : Nat := 0
  agree : Nat := 0
  disagree : Nat := 0
  missed : Nat := 0
  inRow : Nat := 0
deriving DecidableEq, Repr

/-- What an owner (a partition or the fabric manager) has set and holds: the registers of its page (R553 to R561), its ring
setup slots, its program slots, its MSI-X vectors and its counters. -/
structure OwnerS where
  doorbell : Word := 0#64
  poll : Word := 0x00500004#64
  hbAddr : Word := 0#64
  hbCfg : Word := 0x1F4#64
  defaults : Word := 0x0027100007D00021#64
  frameClass : Word := 0xFFFFFFFF#64
  seqCap : Word := 0x0A#64
  foldSpill : Word := 0#64
  snareExt : Word := 0#64
  qpSpill : Word := 0#64
  qpSpillHost : Word := 0#64
  ringSel : Nat := 0
  /-- CHIME_ROUTE fields of classes 0 to 15 (R560). -/
  routes : List Nat := List.replicate 16 0
  rings : List (Nat × Ring) := []
  /-- The partition counters of R561, in the order of their offsets. -/
  counters : List Nat := List.replicate 16 0
  /-- Present poll interval in ns and the node time of the next fetch (R44). -/
  interval : Nat := 1000
  nextFetch : Nat := 0
  /-- Program slots: the steps of each image (R64). -/
  programs : List (Nat × List (List Word)) := []
  shadows : List Shadow := List.replicate 8 {}
  /-- Last heartbeat COUNT read, when it last changed, when it is next read, and whether it is lost (R463 to R465). -/
  hbCount : Nat := 0
  hbChanged : Nat := 0
  hbNext : Nat := 0
  hbLost : Bool := false
  /-- MSI-X: mask bit of each vector, function mask, pending bits (R483), and the table's address and data words. -/
  vecMask : List Bool := List.replicate 64 true
  funcMask : Bool := false
  pba : List Bool := List.replicate 64 false
  msixTable : List Word := List.replicate 128 0#64
  /-- Last lower half written for each register offset, and the upper half latched by a lower-half read (R551). -/
  lowHalf : List (Nat × Nat) := []
  readLatch : List (Nat × Nat) := []
deriving DecidableEq, Repr

end Sys2Proof
end

