-- ==== Sys2Proof/Data/Store.lean ====
section
/-!
DEFINITION. The page store, the scale, decode and pattern tables and the extents as plain data (R75 to R109, R177 to R183, R212 to R218, R246 to R251,
R356, R365, R371).
-/
namespace Sys2Proof

/-- Kinds of an extent in the region table (R568). -/
inductive ExtKind where
  | openRows | guarded | awaiting
deriving DecidableEq, Repr

/-- What a partition uses an extent for (R371): nothing, the page store, or other node use. -/
inductive ExtUse where
  | none
  | page (cls : Nat)
  | control
  | spillArea | snareExt | foldSpill
  | stepState (region : Nat)
deriving DecidableEq, Repr

/-- A node-wide extent (R409, R568): its kind, use, extent-level poison, and whether its bulk clear is under way. -/
structure Extent where
  kind : ExtKind := .openRows
  use : ExtUse := .none
  /-- The extent's kind while it awaits reseal: what it was. -/
  was : ExtKind := .openRows
  poison : Bool := false
  clearing : Bool := false
  /-- The ADD_EXTENT or REMOVE_EXTENT in flight that changes its role (R95): queue context, ring index, and the class of a page extent to be. -/
  claim : Option (Nat × BitVec 32 × Option Nat) := none
deriving DecidableEq, Repr

/-- Frame states of R86. -/
inductive FrameState where
  | free | reserved | open_ | sealed | released | fenced
deriving DecidableEq, Repr

/-- The address of a frame: node-wide extent, bank pair of its pseudo-channel, and slot (R79, R85). -/
structure FrameAddr where
  ext : Nat
  pair : Nat
  slot : Nat
deriving DecidableEq, Repr

/-- A frame record (R86). -/
structure FrameRec where
  state : FrameState := .free
  fill : Nat := 0
  format : Nat := 0
  refs : Nat := 0
  pins : Nat := 0
  check : Nat := 0
  writer : Nat := 0
deriving DecidableEq, Repr

/-- A page-list entry in use (R85); of a spilled page it is known whether it was promoted, which its saved FORMAT shows (R395). -/
inductive Entry where
  | frame (f : FrameAddr) (promoted : Bool)
  | spilled (slot : Nat) (promoted : Bool)
deriving DecidableEq, Repr

/-- A run of contiguous control blocks: node-wide extent of the control extent, first block, count (R81). -/
structure Blocks where
  ext : Nat
  first : Nat
  count : Nat
deriving DecidableEq, Repr

/-- A head list (R83 to R85): its length, its oldest page, its entries by page index, its directory block and its list blocks by
pointer index. -/
structure HeadList where
  length : Nat := 0
  firstPage : Nat := 0
  entries : List (Nat × Entry) := []
  directory : Option Blocks := none
  lists : List (Nat × Blocks) := []
deriving DecidableEq, Repr

/-- The lease of a sequence (R272, R273), as seen by the node that holds it as sender. -/
inductive Lease where
  | held
  | offered (handoff : Nat)
  | escrow (handoff : Nat)
deriving DecidableEq, Repr

/-- A sequence record (R82) with its head lists, its lease (R272) and its automaton state (R250). -/
structure SeqRec where
  frozen : Bool := false
  /-- W1: the creation parameters, laid out as W3 of CREATE (R92). -/
  params : Word
  /-- Its place in the sequence table and the automaton table. -/
  place : Nat := 0
  promoted : Nat := 0
  headTable : Blocks
  spilled : Nat := 0
  version : Nat := 0
  commitTime : Nat := 0
  heads : List HeadList
  epoch : Nat := 1
  lease : Lease := .held
  /-- Hidden: PENDING or ACCEPTED at a receiver, or in ESCROW at the sender (R273). -/
  hidden : Bool := false
  /-- The automaton record A0 to A7 (R250). -/
  automaton : List Word := List.replicate 8 0#64
deriving DecidableEq, Repr

/-- A partial (R120): m, l and the FP32 codes of o. -/
structure Partial where
  m : Nat
  l : Nat
  o : List Nat
deriving DecidableEq, Repr

/-- A spilled page (R395): its bytes, fill, format, seal and writer, whether it was promoted, its block words and its write generation. -/
structure SpillPage where
  bytes : List Byte
  fill : Nat
  format : Nat
  check : Nat
  writer : Nat := 0
  promoted : Bool
  words : List Word := []
  gen : Nat
deriving DecidableEq, Repr

/-- A scale table (R179): its image after the header checks, its dimensions, its control blocks, and the descriptors that took it
(context and ring index). -/
structure ScaleTable where
  version : Nat
  layers : Nat
  heads : Nat
  dim : Nat
  image : List Byte
  blocks : Blocks
deriving DecidableEq, Repr

/-- A decode table (R212, R213): its version and its lengths image. -/
structure DecodeTable where
  version : Nat
  lengths : List Nat
deriving DecidableEq, Repr

/-- A spread record (R256): layers, heads and dimension code of its header, and the four words of each shard entry. -/
structure SpreadRec where
  layers : Nat
  heads : Nat
  dim : Nat
  shards : List (List Word)
  block : Option Blocks := none
deriving DecidableEq, Repr

/-- Region states of a step-state region (R397, R399). -/
inductive RegionState where
  | open_ | sealed | draining | durable | lifting | onFlash
deriving DecidableEq, Repr

/-- A flash object (R384 to R387): its uncoded data, whether it is held coded, the table image that coded it, its stored bytes, its commit time, the namespaces
(drive and index) over which its stripe units go round robin, and its write generation (R433). What its sealed units open to is kept here (log entry 40). -/
structure FlashObj where
  data : List Byte
  coded : Bool := false
  table : Option DecodeTable := none
  stored : Nat
  commitTime : Nat := 0
  spaces : List (Nat × Nat) := []
  gen : Nat := 0
deriving DecidableEq, Repr

end Sys2Proof
end

