-- ==== Sys2Proof/Data/Net.lean ====
section
/-!
DEFINITION. Queue pairs, their lanes and messages, and the context-miss buffer as plain data (R295 to R325).
-/
namespace Sys2Proof

/-- Queue pair states of R300, with the codes of QP_QUERY in this order (an absent queue pair is not listed). -/
inductive QpState where
  | ready | draining | error
deriving DecidableEq, Repr

/-- Services of R296. -/
inductive Service where
  | ordered | tagged | fabric | roceOrdered | roceFabric
deriving DecidableEq, Repr

/-- A packet sent and not acknowledged, with its PSN and the node time at which it was sent first or again (R304, R307). -/
structure Unacked where
  psn : Nat
  pkt : Packet
  roce : Option RocePacket := none
  sentAt : Nat := 0
  /-- Whether its message is one that the sender has given up, failed or aborted: nothing more of it is sent (R309, R316). -/
  dead : Bool := false
deriving DecidableEq, Repr

/-- The sending side of one lane and space (R304, R307). -/
structure TxSpace where
  next : Nat := 0
  unacked : List Unacked := []
  /-- Expiries of the go-back-N timer in a row without progress; when an RNR wait ends (R307, R308). -/
  expiries : Nat := 0
  rnrWait : Option Nat := none
deriving DecidableEq, Repr

/-- The receiving side of one lane and space (R305, R306). -/
structure RxSpace where
  expected : Nat := 0
  lastNonce : Nat := 0
  nakSent : Bool := false
  /-- Packets accepted and not yet acknowledged, and when the ACK timer expires. -/
  owed : Nat := 0
  ackTimer : Option Nat := none
  /-- When the last miss-buffer RNR NAK was sent (R303). -/
  missNak : Option Nat := none
deriving DecidableEq, Repr

/-- One lane of a queue pair: both spaces in both directions, closed as sender and as receiver, LANE_SYNC outstanding (R307). -/
structure Lane where
  tx : TxSpace := {}
  txResp : TxSpace := {}
  rx : RxSpace := {}
  rxResp : RxSpace := {}
  closedTx : Bool := false
  closedRx : Bool := false
  sync : Option Nat := none
deriving DecidableEq, Repr

/-- Kinds of message a sender starts (R317). -/
inductive MsgKind where
  | send | write | read | fabric
deriving DecidableEq, Repr

/-- A packet of either transport that has arrived at a queue pair (R303). -/
inductive Arrived where
  | evomer (k : Packet)
  | roce (k : RocePacket)
deriving DecidableEq, Repr

/-- A message at its sender (R311, R312): the descriptor behind it (none for a fabric reply), its kind, bytes, place at the peer or the
local destination of a READ, how much of it has gone into packets, RNR NAKs in a row, and what is known of its end. -/
structure TxMsg where
  num : Nat
  origin : Option (Nat × BitVec 32)
  kind : MsgKind
  data : List Byte
  len : Nat
  tag : Nat := 0
  remote : Word := 0#64
  rkey : Nat := 0
  started : Bool := false
  sent : Nat := 0
  allSent : Bool := false
  failed : Bool := false
  placed : Nat := 0
  degraded : Bool := false
  rnr : Nat := 0
  /-- Whether its bytes are step state (R27). -/
  step : Bool := false
deriving DecidableEq, Repr

/-- The response to a READ at its responder (R289, R304): message, lane, bytes, and how many of them have gone into packets; or, for a READ that waits for a
region to be lifted (R400), the extents, offsets and lengths that it reads and the PSN of its request. -/
structure RespMsg where
  num : Nat
  lane : Nat
  data : List Byte
  sent : Nat := 0
  wait : Option (List (Nat × Nat × Nat) × Nat) := none
  /-- Whether its bytes are step state (R27). -/
  step : Bool := false
deriving DecidableEq, Repr

/-- A message at its receiver (R310, R313, R314): its type, the RECV it matched, the bytes placed, packets held in the unexpected pool. -/
structure RxMsg where
  num : Nat
  kind : PktType
  len : Nat
  tag : Nat := 0
  matched : Option (Nat × BitVec 32) := none
  unexpected : Bool := false
  placed : Nat := 0
  held : List (Nat × List Byte) := []
  failed : Bool := false
  /-- Its RECV was aborted, or it is longer than its RECV: the next packet of it is answered with OPERATION (R315, R316). -/
  aborted : Bool := false
  complete : Bool := false
deriving DecidableEq, Repr

/-- A RECV posted on a queue pair (R318). -/
structure Posted where
  ctx : Nat
  index : BitVec 32
  buffer : Word
  capacity : Nat
  tag : Nat
  mask : Nat
  /-- How many were posted before it since set-up or the last RESET, modulo 2^32 (R313). -/
  seq : Nat := 0
deriving DecidableEq, Repr

/-- A queue pair (R298 to R322). -/
structure Qp where
  part : Nat
  service : Service
  state : QpState := .ready
  peer : Nat := 0
  peerQpn : Nat := 0
  pmtu : Nat := 1024
  lanesUsed : Nat := 0
  resident : Bool := false
  /-- Queue context held while resident, or none while spilled; when it was used last (R302). -/
  ctx : Option Nat := none
  lastUse : Nat := 0
  retryUs : Nat := 16
  retryCount : Nat := 1
  rnrCount : Nat := 0
  rnrHint : Nat := 10
  allowRead : Bool := false
  allowWrite : Bool := false
  firstExtent : Nat := 0
  lastExtent : Nat := 0
  peerAddr : Nat := 0
  rkey : Nat := 0
  sqPsn : Nat := 0
  rqPsn : Nat := 0
  /-- Key epochs held: present, and the one before with the time it is dropped (R322); both invalid once the partition's epoch rose. -/
  epoch : Nat := 0
  oldEpoch : Option (Nat × Nat) := none
  keysDead : Bool := false
  handle : Nat := 0
  /-- The connection secrets of the present epoch and of the one before, from which the keys of R426 are derived. -/
  secret : List Byte := []
  oldSecret : List Byte := []
  nonce : Nat := 0
  lanes : List Lane := List.replicate 8 {}
  txMsgs : List TxMsg := []
  /-- Aborted messages whose CANCEL waits for a place on a lane (R316). -/
  cancels : List Nat := []
  nextMsg : Nat := 0
  rxMsgs : List RxMsg := []
  /-- READs being answered, and RECVs posted and not yet committed, oldest first (R313). -/
  responses : List RespMsg := []
  posted : List Posted := []
  /-- Ordered matching (R313, R315, R316): RECVs posted since set-up or RESET; numbers of messages that failed as too long and left their RECV for the next, and how many
  older ones there were; RECVs aborted before their message came. -/
  postedCount : Nat := 0
  slips : List Nat := []
  slipBase : Nat := 0
  withdrawn : List Nat := []
  /-- The ESP association from the peer and the one before (R322, R324): the highest sequence number accepted, and those accepted within its replay window; messages
  answered, as a response reports them (R323). -/
  esp : Nat × List Nat := (0, [])
  espOld : Nat × List Nat := (0, [])
  msn : Nat := 0
  retransmissions : Nat := 0
  authFails : Nat := 0
  discarded : Nat := 0
deriving DecidableEq, Repr

/-- The transport of the node: its queue pairs, the context-miss buffer, keys installed, counts of discards by cause. -/
structure NetS where
  qps : List (Nat × Qp) := []
  /-- Packets waiting for a spilled context, oldest first, and contexts being fetched with a discarded PSN to answer (R303). -/
  miss : List (Nat × Arrived) := []
  fetching : List (Nat × List (Nat × Nat × Nat)) := []
  /-- Discards of R290 by cause: checksum, version or type, reserved, endpoint, queue pair, authentication. -/
  discards : List Nat := List.replicate 6 0
  badNaks : Nat := 0
  roceDiscards : Nat := 0
  roceAbsent : Nat := 0
  /-- The last NONCE used under each key of a queue pair that has given it up, by what the key is derived from (R320). -/
  nonces : List (List Byte × Nat) := []
deriving DecidableEq, Repr

end Sys2Proof
end

