-- ==== Sys2Proof/Data/Desc.lean ====
section
/-!
DEFINITION. A dispatched descriptor as plain data: what the station has done with it so far, its locks and pages, and the state
changes it has staged for its commit point (R58 to R72, R88, R89, R113, R129, R154).
-/
namespace Sys2Proof

/-- The turns of the owners on shared units (R412): INGEST units and walk places taken by each in the present round, and the walks in progress, by owner and the node
time at which each ends. -/
structure TurnS where
  ingest : List Nat := List.replicate 17 0
  walk : List Nat := List.replicate 17 0
  walks : List (Nat × Nat) := []
deriving DecidableEq, Repr

/-- How far a descriptor is: dispatched and not yet taken by its station (or between two steps of a program), being worked on,
finished and waiting for its commit latch. -/
inductive Phase where
  | ready | running | finished
deriving DecidableEq, Repr

/-- How a page of a walk is read (R111, R129, R153): in its bank, over the package links, or through the tier path. -/
inductive Route where
  | bank | links | tier
deriving DecidableEq, Repr

/-- How far the reading of a page is: emitted and waiting, being read, read and checked (on its way to a core), used. -/
inductive PageState where
  | queued | reading | read | done
deriving DecidableEq, Repr

/-- One page that a descriptor's walk emitted (R89): the head list of a BATCH it belongs to, its index, where it lies, how it is
read, the page-passes done and the core that takes it. -/
structure PageWork where
  entry : Nat := 0
  page : Nat
  frame : Option FrameAddr
  spill : Option Nat := none
  promoted : Bool := false
  fenced : Bool := false
  unit : Nat := 0
  hub : Nat := 0
  route : Route
  state : PageState := .queued
  pinned : Bool := false
  passes : Nat := 0
  core : Option Nat := none
  /-- The order in which checks passed (R161): the lower first. -/
  order : Nat := 0
  /-- The core on which a block of it first failed its check (R227). -/
  first : Option Nat := none
  /-- What was read of it: its format and its page image, uncoded. -/
  data : Option (Nat × List Byte) := none
deriving DecidableEq, Repr

/-- A change of a step-state region: set up with COUNT, first extent, OBJECT_BASE and what its directory entry held; published with VERSION and DESCRIPTOR; opened
(R397 to R401). -/
inductive RegionOp where
  | setup (count first base : Nat) (found : Option (Nat × Word))
  | publish (version : Nat) (descriptor : Word)
  | open_
deriving DecidableEq, Repr

/-- A change of a queue pair (R298 to R300, R322): set up, ERROR, DRAIN, RESET, REKEY with epoch, secret and handle, LANES, destroyed. -/
inductive QpOp where
  | setup (n : Nat) (q : Qp)
  | error (n : Nat)
  | drain (n : Nat)
  | reset (n : Nat)
  | rekey (n epoch : Nat) (secret : List Byte) (handle : Nat)
  | lanes (n lanes : Nat)
  | destroy (n : Nat)
deriving DecidableEq, Repr

/-- A state change staged until the commit point (R70, R71). -/
inductive Effect where
  /-- A sequence record takes a new value (R95). -/
  | putSeq (p seq : Nat) (r : SeqRec)
  /-- A sequence leaves its table: its entries are dropped, its control blocks and spill slots freed (R95 FREE). -/
  | delSeq (p seq : Nat)
  /-- Control blocks are freed. -/
  | freeBlocks (p : Nat) (b : Blocks)
  /-- Bytes of a page are written into a frame (R97). -/
  | frameBytes (p : Nat) (f : FrameAddr) (off : Nat) (bytes : List Byte)
  /-- A written frame is committed: FILL, FORMAT, WRITER; OPEN, or sealed with its CHECK at FILL 16 (R97, R98, R108, R210). A frame that was
  not the sequence's own alone takes REFS 1. -/
  | fillFrame (p : Nat) (f : FrameAddr) (fill fmt dim writer : Nat) (fresh : Bool) (code : Option (Nat × DecodeTable))
  /-- A restored page takes its frame with the record and block words saved with it (R395). -/
  | restoreFrame (p : Nat) (f : FrameAddr) (x : SpillPage)
  /-- FILL of a frame is lowered (R95 TRUNCATE). -/
  | lowerFill (f : FrameAddr) (fill : Nat)
  /-- One more head list names a frame (R95 FORK). -/
  | refUp (f : FrameAddr)
  /-- A head list's entry is dropped: REFS falls, and the frame is released when unused (R95, R102). -/
  | refDown (f : FrameAddr)
  /-- A page is written to a spill slot, or a slot is freed (R104, R395). -/
  | putSpill (p slot : Nat) (x : SpillPage)
  | freeSpill (p slot : Nat)
  /-- A page extent takes the word table that its first CB16 page needs, unless it has one by then (R209). -/
  | wordTable (p e : Nat) (b : Blocks)
  /-- An extent takes a role in the page store, with a frame table of that many control blocks (R87), or leaves it (R95). -/
  | addExtent (p e : Nat) (u : ExtUse) (table : Nat)
  | removeExtent (p e : Nat)
  /-- An extent awaits reseal no more and has a kind, changed or not (R138, R139). -/
  | resealed (e : Nat) (kind : ExtKind) (changed : Bool)
  /-- A program slot is filled or emptied (R64, R68). -/
  | program (o : Owner) (slot : Nat) (steps : Option (List (List Word)))
  /-- A scale, decode or pattern slot takes a table (R182, R215, R248). -/
  | scaleTable (p slot : Nat) (t : Option ScaleTable)
  | decodeTable (p slot : Nat) (t : Option DecodeTable)
  | patterns (p : Nat) (version : Nat) (image : List Byte) (blocks : Option Blocks) (auto : List Blocks)
  /-- The automaton state of a sequence changes (R251). -/
  | automaton (p seq : Nat) (v : List Word)
  /-- A change of the Snare index (R245): insert or overwrite, remove, age to zero, move back on chip (R239). -/
  | indexInsert (p fp page seq : Nat) (replace : Bool)
  | indexRemove (p fp page : Nat)
  | indexHit (p fp : Nat)
  | indexPromote (p fp : Nat)
  /-- A spread record is installed, replaced or removed (R258). -/
  | spread (p seq : Nat) (r : Option SpreadRec)
  /-- The directory entry of a flash object is written or removed (R386). -/
  | putObject (p id : Nat) (x : FlashObj)
  | delObject (p id : Nat)
  /-- A step-state region changes (R399). -/
  | region (p r : Nat) (op : RegionOp)
  /-- A queue pair changes (R300); DESCRIPTOR_COMMIT does it. -/
  | queuePair (op : QpOp)
  /-- A step-state region ends, and its directory entry with it when its objects are deleted (R399). -/
  | endRegion (p r : Nat) (erase_ : Bool)
  /-- A counter of an owner rises (R561). -/
  | count (o : Owner) (k n : Nat)
  /-- An event is posted after the record (R478): recipient, class, code, queue, subject, arguments, status. -/
  | event (o : Owner) (cls code : Nat) (queue : Option Nat) (subject : Nat) (arg0 arg1 : Word) (status : Nat)
deriving DecidableEq, Repr

/-- A Snare slot that a MATCH needs (R233): a probe of the on-chip index or of the extension, or a change of one entry at commit. -/
inductive SlotOp where
  | probe (fp page : Nat)
  | probeExt (fp page : Nat)
  | change
deriving DecidableEq, Repr

/-- A dispatched descriptor. -/
structure Desc where
  owner : Owner
  /-- Setup slot of its submission ring; none for work that a fabric request gave rise to (R265). -/
  slot : Option Nat
  /-- Queue context number of its ring. For a fabric request's work, 16,384 plus the request's number. -/
  ctx : Nat
  index : BitVec 32
  /-- The eight words as dispatched, and the eight words of the operation in hand (a program step after SUBST, or `words`). -/
  words : List Word
  cur : List Word
  /-- The program invoked, with the step in hand (R66). -/
  prog : Option (List (List Word)) := none
  step : Nat := 0
  phase : Phase := .ready
  /-- The commit latch is taken: by an early commit point (R30, R138, R373, R437), so that an ABORT finds it (R69). -/
  latched : Bool := false
  status : Nat := 0
  detail : Nat := 0
  /-- RESULT0 and RESULT1; none where the chapter states no value for the status, and the record then holds free values. -/
  res0 : Option Nat := none
  res1 : Option Nat := none
  /-- The input tile taken with CHAIN_IN, and the output tile (R60). -/
  input : Option Tile := none
  output : Option Tile := none
  effects : List Effect := []
  /-- Node time of dispatch. -/
  time : Nat := 0
  /-- Sequence locks wanted: partition, sequence, exclusive; and those granted (R88). -/
  locks : List (Nat × Nat × Bool) := []
  heldLocks : List (Nat × Nat × Bool) := []
  /-- New sequence IDs that it reserves (R88). -/
  newSeqs : List Nat := []
  /-- Whether the new ID of a CREATE or FORK was reserved by a FORK in flight at its dispatch (R88). -/
  idTaken : Bool := false
  /-- Frames taken in RESERVED (R100). -/
  frames : List FrameAddr := []
  /-- Whether the walk ran, its pages, the hubs already folded (R127). -/
  walked : Bool := false
  /-- Head dimension and page format of the sequence read. -/
  dim : Nat := 64
  fmt : Nat := 0
  pages : List PageWork := []
  hubsDone : List Nat := []
  /-- The partials that units have handed to their hub, as hub, vector and partial, and those that the hubs have folded, one for each vector (R127). -/
  parts : List (Nat × Nat × Partial) := []
  hubParts : List (Nat × List Partial) := []
  /-- Effective end and LENGTH of each head list walked (R121). -/
  ranges : List (Nat × Nat) := []
  /-- Cores that serve it (R154), page-passes' chunks finished, time billed in ns, progress records written. -/
  cores : List Nat := []
  chunks : Nat := 0
  billed : Nat := 0
  progressCount : Nat := 0
  /-- Whether piece state was moved out to HBM or to the staging store (R162). -/
  moved : Bool := false
  /-- INGEST or flash units still to be done (R224, R386), and done. -/
  unitsLeft : Nat := 0
  unitsDone : Nat := 0
  /-- Scale tables of the slots it names, as they were at dispatch (R178). -/
  scale : List (Nat × ScaleTable) := []
  /-- Control blocks taken and not yet committed. -/
  blocks : List Blocks := []
  /-- Bytes read and kept by the station until it goes on (a definition, a table image, a message). -/
  held : List Byte := []
  /-- Snare slots still needed, and the index hits found: page, fingerprint, sequence, entry page, from the extension (R240). -/
  slots : List SlotOp := []
  hits : List (Nat × Nat × Nat × Nat × Bool) := []
  probes : Nat := 0
  /-- The pattern set that was current at dispatch (R248). -/
  patterns : Option (Nat × List Byte) := none
  /-- The control blocks of that set, for one that steps an automaton (R182, R248). -/
  patternHold : Option Blocks := none
  /-- Slots of its partition whose lent extents were revoked after it was dispatched (R373). -/
  lost : List Nat := []
  /-- Write generation of the object that a LIFT found at its dispatch (R386), and the object that a DRAIN is writing. -/
  objGen : Option Nat := none
  pendingObj : Option FlashObj := none
  /-- Staged changes and control blocks of the earlier steps of a program. -/
  stepBase : Nat := 0
  blocksBase : Nat := 0
  /-- PRT_DEFAULTS of the owner at dispatch (R194, R210, R554). -/
  defaults : Word := 0#64
  /-- The table that it holds of each decode slot, as at dispatch, and the load of the slot that was pending then, while that load is in flight (R210, R216). -/
  tables : List (Option DecodeTable) := [none, none]
  tableLoads : List (Option (Nat × BitVec 32)) := [none, none]
  /-- The slot that a LOAD_DECODE_TABLE chose at dispatch (R215). -/
  loadSlot : Option Nat := none
  /-- What the station read of its input at dispatch, with its poison: the image of a LOAD_DECODE_TABLE (R215), the entries of a BATCH (R88). -/
  early : Option (List Byte × Bool) := none
  /-- The setup slot of the ring that a FENCE or an ABORT names, as judged at dispatch (R594), while that ring keeps its context; and whether the
  descriptor named had committed when the ring was disabled. -/
  named : Option Nat := none
  namedDone : Bool := false
  /-- Frames that it reuses under R103 or R104, with their records before that (R96, R108). -/
  reused : List (FrameAddr × FrameRec) := []
  /-- MSG_NUM of the message that a SEND has started; whether it was dispatched before its queue pair began to drain (R300, R311). -/
  msg : Option Nat := none
  admitted : Bool := false
  /-- Whether a RESEAL has started to convert its extent (R138, R140). -/
  started : Bool := false
deriving DecidableEq, Repr

end Sys2Proof
end

