-- ==== Sys2Proof/Data/Snare.lean ====
section
/-!
DEFINITION. Snare blocks, index entries and the slot stream as plain data (R228 to R252).
-/
namespace Sys2Proof

/-- An index entry (R231); its parity bits follow from the rest (`SnareEntry.words`). -/
structure SnareEntry where
  fp : Nat
  seq : Nat
  age : Nat := 0
  page : Nat
deriving DecidableEq, Repr

/-- A Snare block: SNARE_OWNER's fields (R566), its entries in ascending fingerprint order, and an insertion whose shift is under way
(R236). -/
structure SnareBlock where
  valid : Bool := false
  busy : Bool := false
  part : Nat := 0
  entries : List SnareEntry := []
  shifting : List SnareEntry := []
deriving DecidableEq, Repr

/-- Snare as a whole: its blocks, the places in use of the HBM extensions' buckets by partition and bucket (the entries stand in HBM, R239), the throttle, the turn of the slot stream. -/
structure SnareS where
  blocks : List (Nat × SnareBlock) := []
  ext : List ((Nat × Nat) × List Nat) := []
  step : Nat := 0
  /-- Node time since when the sensor has stayed 3 °C below the lower threshold of the step (R234). -/
  coolSince : Option Nat := none
  /-- Slots that each partition has taken in the present round (R233). -/
  taken : List Nat := List.replicate 16 0
  /-- Parity failures removed, and passes completed (R252). -/
  removed : Nat := 0
  passes : Nat := 0
deriving DecidableEq, Repr

/-- An entry of the error log (R527). -/
structure LogEntry where
  seq : Nat
  cause : Nat
  unitKind : Nat
  part : Option Nat
  unit : Nat
  count : Nat := 1
  arg : Word
  time : Nat
deriving DecidableEq, Repr

end Sys2Proof
end

