-- ==== Sys2Proof/Data/Fabric.lean ====
section
/-!
DEFINITION. Spread records, fabric messages, requests at a home or a member, and handoffs as plain data (R255 to R281).
-/
namespace Sys2Proof

/-- A fabric message (R259): its header fields, its payload, whether a reserved field is non-zero, and where it came from (the
queue pair it arrived on, or the local SEND that carries it: context and ring index). -/
structure FabMsg where
  typ : Nat
  version : Nat := 1
  reserved : Bool := false
  replyTo : Nat
  reqId : Nat
  epoch : Nat := 0
  seq : Nat
  status : Nat := 0
  detail : Nat := 0
  res0 : Nat := 0
  res1 : Word := 0#64
  payload : List Byte := []
  qpn : Nat := 0
  origin : Option (Nat × BitVec 32) := none
  /-- The spread record, or its absence, that stood at an ATTEND_REQ's arrival and was changed since (R258). -/
  was : Option (Option SpreadRec) := none
deriving DecidableEq, Repr

/-- A shard that a request touches (R264): its index, endpoint, sequence and epoch, the heads served, and its own token range. -/
structure ShardWork where
  shard : Nat
  endpoint : Nat
  seq : Nat
  epoch : Nat
  firstHead : Nat
  heads : Nat
  from_ : Nat
  to_ : Nat
deriving DecidableEq, Repr

/-- A request in progress at a home (R264): the message as it arrived, the shards touched, the units of work still outstanding (a shard, or
the leader's shard of a TREE group with the group's shards), the partials that came back by shard, the totals, and the shadows' replies (R524). -/
structure HomeReq where
  part : Nat
  num : Nat
  msg : FabMsg
  dim : Nat
  deadline : Nat
  work : List ShardWork
  groups : List (Nat × List Nat) := []
  outstanding : List Nat := []
  replies : List (Nat × List Byte) := []
  /-- Of the home's own shards in a TREE whose leader is another node: those outstanding and the leader's endpoint (R271). -/
  ownLeft : List Nat := []
  ownTo : Option Nat := none
  swept : Nat := 0
  exactPages : Nat := 0
  degraded : Bool := false
  detail : Nat := 0
  /-- The reply was sent; what is left waits for shadows. -/
  answered : Bool := false
  /-- The folded queries of each head of the request (R122), and the value rescale when the home applies it (R150). -/
  scale : Option ScaleTable := none
  /-- Requests sent to shadows: shadow entry, primary shard, and the shadow's reply when it has come (R524). -/
  shadows : List (Nat × Nat × Option (List Byte)) := []
deriving DecidableEq, Repr

/-- A member request in progress (R265): the message, the home request and shard when the home is this node, the local descriptors still to
commit, the partials formed by head, and, for a tree leader, the replies of its group (R271). -/
structure MemberReq where
  part : Nat
  num : Nat
  msg : FabMsg
  home : Option (Nat × Nat) := none
  work : List (BitVec 32)
  partials : List (Nat × List Byte) := []
  group : List (List Byte) := []
  groupWanted : Nat := 0
  swept : Nat := 0
  exactPages : Nat := 0
  degraded : Bool := false
  detail : Nat := 0
deriving DecidableEq, Repr

/-- A handoff at its sender (R273): the request, the receiver, the timers, the pages sent. -/
structure Outgoing where
  part : Nat
  seq : Nat
  msg : FabMsg
  target : Nat
  targetSeq : Nat
  epoch : Nat
  leaseEnd : Nat
  holdUs : Nat
  pagesSent : Nat := 0
  /-- In ESCROW: when COMMIT is sent again. -/
  resend : Option Nat := none
deriving DecidableEq, Repr

/-- A handoff at its receiver (R273): PENDING until every page is placed, then ACCEPTED. -/
structure Incoming where
  part : Nat
  seq : Nat
  sender : Nat
  reqId : Nat
  epoch : Nat
  expected : Nat
  placed : List (Nat × Nat × Nat) := []
  failedOnce : List (Nat × Nat × Nat) := []
  /-- Frames held in RESERVED for the pages still to come. -/
  frames : List FrameAddr := []
  holdUs : Nat
  accepted : Bool := false
  deadline : Nat
  qpn : Nat
deriving DecidableEq, Repr

/-- The fabric service of the node. -/
structure FabricS where
  spreads : List ((Nat × Nat) × SpreadRec) := []
  /-- Fabric messages that have arrived and wait for service, by partition, oldest first. -/
  arrived : List (Nat × FabMsg) := []
  homes : List HomeReq := []
  members : List MemberReq := []
  outgoing : List Outgoing := []
  incoming : List Incoming := []
  /-- Handoffs committed here: partition, sender endpoint, REQUEST_ID, node time of the commit (R273). -/
  remembered : List (Nat × Nat × Nat × Nat) := []
  /-- Epoch at which a sequence was handed on, by partition and sequence (R268 DETAIL 0x0004). -/
  handedOn : List ((Nat × Nat) × Nat) := []
  nextNum : Nat := 0
  /-- Replies still to come for requests that have been answered: partition, REQUEST_ID, how many (R268). -/
  stale : List (Nat × Nat × Nat) := []
  /-- Fabric messages dropped, and MEMBER_REPLYs discarded (R261, R268, R296). -/
  dropped : Nat := 0
  late : Nat := 0
deriving DecidableEq, Repr

end Sys2Proof
end

