-- ==== Sys2Proof/Data/Ports.lean ====
section
/-!
DEFINITION. Ports, links, discovery, forwarding, shapers, gates and pause as plain data (R283 to R294, R327 to R347, R569 to R571).
-/
namespace Sys2Proof

/-- A lossless class on a link (R292, R294): whether the peer has paused it and until when, since when without break, whether the node's
own pause stands and since when, and the bytes of its ingress buffer in use. -/
structure PauseS where
  paused : Bool := false
  until_ : Nat := 0
  since : Nat := 0
  own : Bool := false
  ownSince : Nat := 0
  ownExpired : Bool := false
  ingress : Nat := 0
deriving DecidableEq, Repr

/-- A link of a port (R331 to R340). -/
structure Link where
  phyUp : Bool := false
  enabled : Bool := false
  down : Bool := false
  adjacent : Bool := false
  /-- Whether it may carry frames: set 1 s after it returned (R340). -/
  usable : Bool := false
  /-- Since when it has again been enabled and adjacent with its recorded neighbour; whether it was unusable after having been usable. -/
  returning : Option Nat := none
  wasUsable : Bool := false
  /-- The neighbour record and the identity recorded at enable (R569). -/
  identity : Word := 0#64
  mac : Nat := 0
  nodeValid : Bool := false
  nodeId : Nat := 0
  enabledId : Word := 0#64
  /-- The last valid Jalward TLV and when its TTL expires (R332, R333). -/
  seen : Word := 0#64
  ttlEnd : Option Nat := none
  /-- MODE and SEEN of the TLV held, by which the link is adjacent (R333). -/
  tlvMode : Nat := 0
  tlvSeen : Word := 0#64
  /-- Times of the last adjacency failures (R340). -/
  failures : List Nat := []
  /-- LLDP: frames sent since link-up and when the next is due (R331). -/
  lldpSent : Nat := 0
  lldpNext : Nat := 0
  /-- Token counts of the 32 shapers, in sixteenths (R342). -/
  tokens : List Nat := List.replicate 32 0
  /-- Egress queues of the eight classes, oldest first. -/
  queues : List (List Frame) := List.replicate 8 []
  /-- Pause of the eight classes (only the two lossless ones are ever paused). -/
  pause : List PauseS := List.replicate 8 {}
deriving DecidableEq, Repr

/-- States of a pending gate list (R570), with the codes of PENDING in this order. -/
inductive PendState where
  | empty | written | armed | invalid
deriving DecidableEq, Repr

/-- A port (R569, R570). -/
structure Port where
  mode : Nat := 0
  links : List Link := List.replicate 4 {}
  shapers : List Word := List.replicate 32 0#64
  /-- The shaper words in force since the last refill (R343). -/
  shapersInForce : List Word := List.replicate 32 0#64
  /-- Shaper map by source (0 to 15 partitions, 16 transit) and class, 8 bits each. -/
  map : List Nat := List.replicate 136 0
  active : List Word := []
  pending : List Word := List.replicate 64 0xFF00000000000000#64
  pendState : PendState := .empty
  countM1 : Nat := 0
  takeover : Nat := 0
  /-- When the armed list takes over: TAKEOVER, or the next multiple of 1,000 ns when that was past at the arm (R346). -/
  due : Nat := 0
  late : Nat := 0
  /-- Entry of the active list that runs, and when it began (R345). -/
  entry : Nat := 0
  entryStart : Nat := 0
  /-- Frames discarded by kind: oversized, link PAUSE, IPv4 (R283). -/
  discards : List Nat := List.replicate 3 0
  ignoredPause : Nat := 0
  ownPauseDiscards : Nat := 0
deriving DecidableEq, Repr

/-- An entry of the foreign table (R341, R571): its four words and the entry in force. -/
structure Foreign where
  addrHi : Word := 0#64
  addrLo : Word := 0#64
  mac : Word := 0#64
  entry : Word := 0#64
  /-- In force: address, node ID, link and Ethernet address. -/
  live : Option (Nat × Nat × Nat × Nat) := none
deriving DecidableEq, Repr

/-- Node-wide network settings (R327, R563) and the forwarding and foreign tables. -/
structure FabricNet where
  nodeValid : Bool := false
  nodeId : Nat := 0
  prefix_ : Word := 0xFD00000000000000#64
  net : Word := 0x00430064000ABDEC#64
  forwarding : List (Nat × Word) := []
  foreign : List (Nat × Foreign) := []
  ports : List Port := List.replicate 8 {}
  /-- Node counters of R564: packets for absent partitions, old epochs, forwarding, foreign, ND and ICMPv6, pause, down link. -/
  counters : List Nat := List.replicate 7 0
  lastRefill : Nat := 0
deriving DecidableEq, Repr

end Sys2Proof
end

