-- ==== Sys2Proof/Data/Cxl.lean ====
section
/-!
DEFINITION. Logical devices: windows, HDM decoders, event logs, quality of service, published regions as plain data (R353 to R380).
-/
namespace Sys2Proof

/-- Host access modes of a window slot (R356), with their codes in this order. -/
inductive WinMode where
  | none | ro | rw
deriving DecidableEq, Repr

/-- A pool extent lent at a slot of an LD (R370). -/
structure Lent where
  ext : Nat
  mode : WinMode
  region : Nat
deriving DecidableEq, Repr

/-- An HDM decoder of an LD (R358). -/
structure HdmDecoder where
  base : Nat := 0
  size : Nat := 0
  skip : Nat := 0
  ways : Nat := 1
  gran : Nat := 256
  dpaBase : Nat := 0
  committed : Bool := false
  errorNotCommitted : Bool := false
  locked : Bool := false
deriving DecidableEq, Repr

/-- A General Media Event record (R366): handle, whether it reports a write that was dropped or a poisoned read, and the DPA. -/
structure MediaEvent where
  handle : Nat
  dropped : Bool
  dpa : Nat
deriving DecidableEq, Repr

/-- The Table Access DOE of an LD (R350): the dwords written of a request, what is left of an answer, and whether the last request was refused. -/
structure DoeS where
  request : List Nat := []
  answer : List Nat := []
  failed : Bool := false
deriving DecidableEq, Repr

/-- One logical device. -/
structure LdS where
  /-- Modes of own slots that are not NONE, lent slots, slots whose lowering drains with the time of the register write (R357). -/
  modes : List (Nat × WinMode) := []
  lent : List (Nat × Lent) := []
  draining : List (Nat × Nat) := []
  decoders : List HdmDecoder := List.replicate 8 {}
  events : List MediaEvent := []
  nextHandle : Nat := 1
  /-- CDAT: times it was rebuilt (R364). -/
  cdatBuilds : Nat := 0
  /-- The transfers of 64 bytes of the last microsecond (R368): node time, and whether it was a write. -/
  moved : List (Nat × Bool) := []
  /-- Requests held: the request and, for a write, data and mask and poison. -/
  heldReqs : List (MemReq × Option (List Byte × List Bool × Bool)) := []
  /-- Node time of the last AER report (R366), and since when the whole allocation is in use (R369). -/
  lastAer : Option Nat := none
  fullSince : Option Nat := none
  /-- Configuration space registers of the function by dword, in retry (R441, R532). -/
  config : List (Nat × Word) := []
  /-- Dwords written to its component and memory device registers that read back (R354), and its DOE. -/
  written : List (Nat × Nat) := []
  doe : DoeS := {}
deriving DecidableEq, Repr

/-- A published region (R377). -/
structure PubRegion where
  version : Nat := 0
  descriptor : Word := 0#64
deriving DecidableEq, Repr

/-- A revocation under way (R373, R374): the descriptor, extent, LDs still draining and those done. -/
structure Revoke where
  ctx : Nat
  index : BitVec 32
  ext : Nat
  draining : List Nat
  revoked : List Nat
  stopped : Nat := 0
  clearing : Bool := false
deriving DecidableEq, Repr

/-- A CXL.mem request at the link: its LD, the request and, for a write, data and mask and poison. -/
structure Arrival where
  ld : Nat
  req : MemReq
  write : Option (List Byte × List Bool × Bool)
deriving DecidableEq, Repr

/-- The CXL attachment. -/
structure CxlS where
  lds : List LdS := List.replicate 16 {}
  regions : List (Nat × PubRegion) := []
  revokes : List Revoke := []
  linkUp : Bool := false
  /-- Configuration space registers of the FM-owned function by dword (R354, R441). -/
  fmConfig : List (Nat × Word) := []
  fmWritten : List (Nat × Nat) := []
  /-- Requests at the link that wait for an entry of the request queue, in arrival order (R367, R368). -/
  arriving : List Arrival := []
  /-- Trained with the alternate protocol, attached directly, width and GT/s (R350 to R353). -/
  alternate : Bool := false
  direct : Bool := false
  width : Nat := 16
  gts : Nat := 32
deriving DecidableEq, Repr

end Sys2Proof
end

