-- ==== Sys2Proof/Data/Flash.lean ====
section
/-!
DEFINITION. Drives, flash objects, step-state regions and the work in progress on flash as plain data (R381 to R406, R567).
-/
namespace Sys2Proof

/-- States of a root port's drive (R567), with their codes in this order. -/
inductive DriveState where
  | absent | identifying | usable | failed | off
deriving DecidableEq, Repr

/-- A drive (R382, R383, R405, R567). -/
structure Drive where
  state : DriveState := .absent
  /-- Usable namespaces (1 to 16), and the 4 KiB blocks of each. -/
  usable : List Nat := []
  blocks : List (Nat × Nat) := []
  enable : Bool := false
  capacityGb : Nat := 0
  dwpd : Nat := 100
  /-- Owners of the 16 namespaces: FLASH_NS fields. -/
  owners : List Nat := List.replicate 16 0
  waitShare : Nat := 0
  waitWear : Nat := 0
  waitDrive : Nat := 0
  /-- Bytes in the write bucket, the remainder of its refill and when it was refilled last. -/
  bucket : Nat := 0
  bucketTime : Nat := 0
  deallocate : List Nat := []
deriving DecidableEq, Repr

/-- The counters of an object record, kept in HBM (R387): waits in µs, repeats and failures. -/
structure ObjStats where
  waitShare : Nat := 0
  waitWear : Nat := 0
  waitDrive : Nat := 0
  retries : Nat := 0
  fails : Nat := 0
deriving DecidableEq, Repr

/-- A step-state region (R397 to R404). -/
structure StepRegion where
  state : RegionState := .open_
  version : Nat := 0
  descriptor : Word := 0#64
  count : Nat
  first : Nat
  base : Nat
  /-- The descriptor that drains or restores it. -/
  by_ : Option (Nat × BitVec 32) := none
  /-- Objects of a drain started, those being written, by extent of the region, and those committed; units lifted of each extent. -/
  started : Nat := 0
  writing : List (Nat × FlashObj) := []
  done : List Nat := []
  lifted : List (Nat × Nat) := []
deriving DecidableEq, Repr

/-- The durable directory entry of a region (R398). -/
structure RegionEntry where
  count : Nat
  base : Nat
  version : Nat
  descriptor : Word
deriving DecidableEq, Repr

/-- What a flash operation waits for (R393). -/
inductive FlashWait where
  | none | share | wear | drive
deriving DecidableEq, Repr

/-- A data unit as it is written to a namespace (R433): its LBA, its ciphertext, and the entry of its group's tag LBA. -/
structure FlashUnit where
  lba : Nat
  cipher : List Byte
  tagLba : Nat
  entry : Nat
  tag : List Byte
deriving DecidableEq, Repr

/-- Data units of one namespace that one NVMe command reads or writes (R384, R433): the namespace index, the first data unit and their number, their write
generation, and what is written. -/
structure FlashChunk where
  ns : Nat
  unit : Nat
  count : Nat
  gen : Nat
  data : List Byte := []
deriving DecidableEq, Repr

/-- Bytes that a command moves: its data units, and the tag LBA of their group (R433). -/
def FlashChunk.bytes (c : FlashChunk) : Nat := 4096 * (c.count + 1)

/-- The part of a flash operation that one drive serves (R386, R390, R392): its descriptor and owner, the object or spilled page that it serves, its deadline, the
commands not yet handed to the drive, their bytes and namespaces, what holds it and since when, for how long each cause has held it, what has been read again, and
whether the drive has answered it. `spill`: it writes a spilled page. -/
structure FlashOp where
  ctx : Nat
  index : BitVec 32
  owner : Nat := 0
  object : Option Nat := none
  page : Option Nat := none
  write : Bool
  deadline : Nat
  spill : Bool := false
  drive : Nat := 0
  chunks : List FlashChunk := []
  size : Nat := 0
  spaces : List Nat := []
  wait : FlashWait := .none
  since : Nat := 0
  heldShare : Nat := 0
  heldWear : Nat := 0
  heldDrive : Nat := 0
  retried : Bool := false
  decoded : Bool := false
  answered : Bool := false
deriving DecidableEq, Repr

/-- Bytes of an operation that are not yet with its drive. -/
def FlashOp.bytes (o : FlashOp) : Nat := (o.chunks.map FlashChunk.bytes).sum

/-- A partition's flash (R384, R395, R431): its objects, those replaced or deleted that a LIFT still reads, counters of object records, region entries, regions,
spill slots and the namespaces that they lie on, write generations given out, commits of the directory, and the count at which each drive's copy of it stands (R434). -/
structure PartFlash where
  objects : List (Nat × FlashObj) := []
  old : List FlashObj := []
  stats : List (Nat × ObjStats) := []
  entries : List (Nat × RegionEntry) := []
  regions : List (Nat × StepRegion) := []
  spillSlots : Nat := 0
  spillState : Nat := 0
  spillSpaces : List (Nat × Nat) := []
  spill : List (Nat × SpillPage) := []
  spillGen : Nat := 0
  nextGen : Nat := 1
  commits : Nat := 0
  copies : List (Nat × Nat) := []
deriving DecidableEq, Repr

/-- The flash side of the node. -/
structure FlashS where
  drives : List Drive := List.replicate 8 {}
  ops : List FlashOp := []
  /-- Link time of the root ports used by each owner in the present 1 ms window, in ns, and when the window began (R392, R411). -/
  used : List (Nat × Nat) := []
  windowStart : Nat := 0
  parts : List PartFlash := List.replicate 16 {}
  /-- Flash sets that survive a removal: partition and binding, with their objects and entries (R431). -/
  durable : List ((Nat × Word) × PartFlash) := []
deriving DecidableEq, Repr

end Sys2Proof
end

