-- ==== Sys2Proof/Data/Firmware.lean ====
section
/-!
DEFINITION. Firmware images, processors, background operations, watchdogs, and Belfry's reports, sessions, handles and key journal
as plain data (R418 to R434, R442 to R462).
-/
namespace Sys2Proof

/-- A firmware image (R444): the header fields that decide, and its bytes' digests. The signature's outcome stands beside it, since ML-DSA-44
is not computed here (log entry 3). -/
structure Image where
  kind : Nat
  test : Bool := false
  svn : Nat := 0
  stateFormat : Nat := 0
  version : Nat := 0
  acceptsFrom : Nat := 0
  /-- Whether CODE_DIGEST matches and the reserved bytes are zero (R445). -/
  formOk : Bool := true
  /-- Whether the signature verifies. -/
  sigOk : Bool := true
  digest : List Byte := []
deriving DecidableEq, Repr

/-- A boot slot (R535, R587): the Jalward image public key of its header, its five images, whether it was fully written, and its slot sequence number. -/
structure BootSlot where
  key : List Byte := []
  images : List Image := []
  complete : Bool := false
  number : Nat := 0
deriving DecidableEq, Repr

/-- Verification state of a staged kind (R456). -/
inductive VerifyState where
  | none | verified | refused
deriving DecidableEq, Repr

/-- A staging area (R454): the bytes written, and the verification state with what was verified. -/
structure Staging where
  bytes : List Host.Cell := []
  used : Bool := false
  state : VerifyState := .none
  image : Option Image := none
  /-- Why it was refused: status and DETAIL (R457). -/
  cause : Nat × Nat := (0, 0)
deriving DecidableEq, Repr

/-- A firmware processor (R442, R462). -/
structure Proc where
  fitted : Bool := true
  image : Option Image := none
  /-- Paused for a switch, with the time by which the new image must report ready (R459). -/
  paused : Option Nat := none
  restarting : Bool := false
  fenced : Bool := false
  expiries : List Nat := []
deriving DecidableEq, Repr

/-- A background operation (R455): its TYPE, kinds with the verified images that it took, boot slot, processors still to switch, those switched with their old
images. -/
structure FwOp where
  typ : Nat
  kinds : List Nat
  images : List Image := []
  slot : Nat := 0
  todo : List Nat := []
  switched : List (Nat × Option Image) := []
  progress : Nat := 0
  /-- Node time before which the next processor is not switched (R458). -/
  notBefore : Nat := 0
deriving DecidableEq, Repr

/-- Firmware. -/
structure FwS where
  procs : List Proc := List.replicate 24 {}
  staging : List Staging := List.replicate 5 {}
  /-- Whether the 21 MiB update buffer is taken (R454). -/
  buffer : Bool := false
  op : Option FwOp := none
  lastStatus : Nat := 0
  lastDetail : Nat := 0
  lastProgress : Nat := 0
  slots : List BootSlot := [{}, {}]
  /-- The slot booted from. -/
  booted : Nat := 0
deriving DecidableEq, Repr

/-- A report whose decapsulation key is kept (R423): with the free value from which its fresh key pair was made. -/
structure Report where
  id : Nat
  pair : Nat
  part : Option Nat
  made : Nat
deriving DecidableEq, Repr

/-- A key handle (R425): its connection secret and epoch. -/
structure KeyHandle where
  part : Nat
  secret : List Byte
  epoch : Nat
deriving DecidableEq, Repr

/-- A partition's session (R424): its secret, and the last IV accepted. -/
structure Session where
  secret : List Byte
  lastIv : Option Nat := none
deriving DecidableEq, Repr

/-- A record of the key journal (R432): partition and binding, the nonce, the wrapped key set, and how many bits of its anchor field are programmed (R434). `base` is
the directory's commit count at which the field began (log entry 44). -/
structure JournalRec where
  part : Nat
  binding : Word
  nonce : List Byte := []
  wrapped : List Byte := []
  base : Nat := 0
  anchor : Nat := 0
deriving DecidableEq, Repr

/-- The key journal in one boot flash (R432): live records, and spent ones that have not been erased. -/
structure Journal where
  live : List JournalRec := []
  spent : List JournalRec := []
deriving DecidableEq, Repr

/-- Belfry. -/
structure BelfS where
  nextReport : Nat := 0
  reports : List Report := []
  sessions : List (Nat × Session) := []
  handles : List (Nat × KeyHandle) := []
  nextHandle : Nat := 1
  /-- By partition: the spill context key (R426), and the flash key set of two XTS keys and a MAC key (R431). -/
  spillKeys : List (Nat × List Byte) := []
  flashKeys : List (Nat × List Byte) := []
  /-- The key journals of the two boot flashes. -/
  journals : List Journal := [{}, {}]
  /-- Alias certificates issued since the start (R420). -/
  aliasIssued : Nat := 0
deriving DecidableEq, Repr

end Sys2Proof
end

