-- ==== Sys2Proof/Data/Boot.lean ====
section
/-!
DEFINITION. Fuses, start-up, resets, the recovery loader, the monitor, the module's pins, and the fences as plain data (R512 to R519, R531 to
R549, R574 to R587).
-/
namespace Sys2Proof

/-- A configuration generation record (R544): CONFIG, CHECK, the burnt bits of VALID, and whether any bit of the record is burnt. -/
structure GenRec where
  config : Nat := 0
  check : Nat := 0
  valid : Nat := 0
  burnt : Bool := false
deriving DecidableEq, Repr

/-- The fuse array (R543). -/
structure Fuses where
  identity : Word
  seed : Nat
  seedCheck : Nat
  imageKey : Nat
  lifecycle : Nat
  rollback0 : Nat := 0
  rollback1 : Nat := 0
  limits : Word
  repair : Nat := 0
  gens : List GenRec
deriving DecidableEq, Repr

/-- Lifecycle states of R546. -/
inductive Lifecycle where
  | manufacture | production | returned
deriving DecidableEq, Repr

/-- Reset kinds of R540. -/
inductive ResetKind where
  | powerOn | cold | warm
deriving DecidableEq, Repr

/-- The phases of a start (R532), each named for what is done. -/
inductive StartPhase where
  /-- No 42 V input; mated and charged; power-good. -/
  | absent | mated | powerGood
  | fusesRead | railsUp | perstReleased | linkTrained | imagesVerified | processorsUp | hbmTrained | cleared | active
  /-- The recovery loader (R536); the faulted state (R519). -/
  | loader | faulted
deriving DecidableEq, Repr

/-- Start-up, resets and the lifecycle in force. -/
structure BootS where
  phase : StartPhase := .absent
  kind : ResetKind := .powerOn
  t0 : Nat := 0
  fuses : Fuses
  lifecycle : Lifecycle := .production
  ruling : Option Nat := none
  /-- CONFIG in force (R545). -/
  config : Nat := 0
  /-- SEED did not match SEED_CHECK (R547). -/
  seedBad : Bool := false
  /-- Latched input stage; FAULT# latch; 3V3_AUX; straps sampled (R583). -/
  latched : Bool := false
  aux : Bool := true
  faultPin : Bool := false
  recovery : Bool := false
  addr0 : Bool := true
  addr1 : Bool := true
  powerGood : Bool := false
  tripped : Bool := false
  /-- Overvoltage trips of the six regulators in the order of R500, in units of 10 mV, as programmed over PMBus (R500, R532). -/
  trips : List Nat := []
  /-- HBM stacks trained (R534). -/
  trained : List Nat := []
  /-- SMBus ALERT_CAUSE bits set, and whether each cause still stands (R586). -/
  alert : List Bool := [false, false, false]
  alertNow : List Bool := [false, false, false]
deriving DecidableEq, Repr

/-- The recovery loader and the monitor (R469 to R471, R536 to R538, R549). -/
structure SerialS where
  baud : Nat := 115200
  /-- Transfer in progress: what (0 key, 1 to 5 an image of that kind, 6 a return authorisation), bytes wanted, bytes held, NAKs. -/
  transfer : Option (Nat × Nat × List Byte × Nat) := none
  key : Option (List Byte) := none
  /-- Bytes of the images received and not yet written, by kind (R537). -/
  raw : List (Nat × List Byte) := []
  challenge : Option (BitVec 256) := none
  /-- Staged CONFIG of FUSE LOAD: eight parts of 512 bits. -/
  staged : List (BitVec 512) := List.replicate 8 0#512
deriving DecidableEq, Repr

/-- A Tabor core (R168 to R170): whether it is fenced, its pages queued, corrected errors of the last 24 h. -/
structure CoreS where
  fenced : Bool := false
  passed : Bool := true
  corrected : List Nat := []
  /-- Bytes of piece state resident (R161, R162) and moved out, by descriptor: context, index, bytes, where (0 resident, 1 staging,
  2 HBM), when it last had a page. -/
  pieces : List (Nat × BitVec 32 × Nat × Nat × Nat) := []
deriving DecidableEq, Repr

/-- A chunk in progress on a Mallet unit (R113): its descriptor and the page-passes it runs (page position in the descriptor's list, passes
from, passes to). -/
structure Chunk where
  ctx : Nat
  index : BitVec 32
  work : List (Nat × Nat × Nat)
  ns : Nat
deriving DecidableEq, Repr

/-- A bank pair with its Mallet unit (R110 to R116, R141, R142). -/
structure UnitS where
  fenced : Bool := false
  chunk : Option Chunk := none
  /-- The descriptor whose vectors stand in the unit, its query store (folded queries as BF16), the pass whose products stand in the table store, the accumulators of
  each vector and their snapshot (R110, R123, R125), and the page-passes that are in the accumulators. -/
  holder : Option (Nat × BitVec 32) := none
  query : List Byte := []
  table : Option Nat := none
  acc : List Partial := []
  snapshot : List Partial := []
  taken : List (Nat × Nat) := []
  /-- Descriptors whose ordinary accesses to the pair wait for a chunk boundary, and the node time of the last boundary (R114). -/
  queue : List (Nat × BitVec 32) := []
  boundary : Nat := 0
  /-- Refreshes postponed (R115), the descriptor served last (round robin, R113). -/
  postponed : Nat := 0
  last : Option (Nat × BitVec 32) := none
  /-- Times of confirmed CHECK mismatches and of uncorrectable reads (R141). -/
  mismatches : List Nat := []
  uncorrectable : List Nat := []
deriving DecidableEq, Repr

/-- A package link (R515, R516): for each module, whether it is fenced and the lanes spared outward and inward. -/
structure PkgLink where
  modules : List (Bool × Nat × Nat)
deriving DecidableEq, Repr

/-- Fences, link lanes, the fence record and the logs (R512 to R519, R527). -/
structure FaultS where
  pchs : List Nat := []
  links : List PkgLink
  /-- The fence record of the boot flashes, as kind and number (R513), and fences not yet written to it. -/
  record : List (Nat × Nat) := []
  unwritten : List (Nat × Nat) := []
  log : List LogEntry := []
  nextSeq : Nat := 0
  faultLog : List LogEntry := []
  /-- Re-sends counted against each lane, by link and lane: how many, and the times of those of the last second (R508, R515); ECC errors corrected. -/
  resends : List ((Nat × Nat) × Nat × List Nat) := []
  corrected : Nat := 0
deriving DecidableEq, Repr

end Sys2Proof
end

