-- ==== Sys2Proof/Data/Power.lean ====
section
/-!
DEFINITION. Modes, Peak, the Damper, the power domains and the clock levels as plain data (R26 to R32, R486 to R506).
-/
namespace Sys2Proof

/-- Operating modes with the codes of SET_MODE (R496). -/
inductive Mode where
  | balanced | sweep | exact | absorb
deriving DecidableEq, Repr

/-- A mode change under way (R30): the descriptor, the mode and budget it asks for. -/
structure ModeChange where
  ctx : Nat
  index : BitVec 32
  mode : Mode
  budget : Nat
  time : Nat
deriving DecidableEq, Repr

/-- States of a power domain (R487), with their codes in this order. -/
inductive DomState where
  | on | idle | retain | off
deriving DecidableEq, Repr

/-- A power domain: commanded state, present state, the node time at which a wake ends, and when it last had work (R488). -/
structure Domain where
  commanded : DomState := .on
  present : DomState := .on
  wake : Option Nat := none
  lastWork : Nat := 0
deriving DecidableEq, Repr

/-- Modes, Peak, the Damper and the domains. -/
structure PowerS where
  mode : Mode := .balanced
  budget : Nat := 0
  changes : List ModeChange := []
  /-- Peak in force: its start and its end; the end of the cooldown (R498, R499). -/
  peak : Option (Nat × Nat) := none
  cooldownEnd : Nat := 0
  /-- Compute level in percent, the target of the last Damper reading, whether a current clamp holds it (R495, R501). -/
  level : Nat := 100
  target : Nat := 100
  clamped : Bool := false
  /-- Level lowered by the attention die's heat (R502). -/
  heatLevel : Nat := 100
  /-- 50 % hold of a Damper watchdog (R462). -/
  hold50 : Bool := false
  lastStep : Nat := 0
  /-- When each sensor's thermal step acted last (R502); up to when the counters of R506 have been kept. -/
  heatStep : List Nat := List.replicate 28 0
  accrued : Nat := 0
  /-- Last readings: watts, milliamperes, temperatures in quarter degrees in the sensor order of R572. -/
  watts : Nat := 0
  milliA : Nat := 0
  temps : List Int := List.replicate 28 0
  /-- Published telemetry (R435, R505): fine and coarse power, coarse temperatures and level, the time of the last coarse sample. -/
  coarseW : Nat := 0
  coarseTemps : List Int := List.replicate 28 0
  coarseLevel : Nat := 100
  coarseStep : Nat := 0
  coarseTime : Nat := 0
  /-- Node time since when the conditions of warm steady state have held without a break (R497). -/
  warmSince : Nat := 0
  /-- Mallet level and issue rate of each stack in percent, whether its issue is paused, its fast refresh (R502, R503). -/
  stackLevel : List Nat := List.replicate 20 100
  stackPaused : List Bool := List.replicate 20 false
  fastRefresh : List Bool := List.replicate 20 false
  domains : List Domain := List.replicate 159 {}
  /-- Counters of R506 in the order of R572: ceiling, clamp, die heat, stacks 0 to 19, 50 % hold, Peak entries, Peak refusals,
  wakes of the ten domain kinds. -/
  counters : List Nat := List.replicate 36 0
  tripped : Bool := false
deriving DecidableEq, Repr

end Sys2Proof
end

