-- ==== Sys2Proof/Machine/State.lean ====
section
/-!
DEFINITION. The state of the node: everything the spec gives it, as plain data, and the state at power-on with the input absent.
The nested structures stand in Data/. `free` counts the free values drawn (log entry 2) and `out` keeps what has left the node
at its interfaces, newest first (log entry 5): both are the model's own.
-/
namespace Sys2Proof

/-- What leaves the node at an interface. -/
inductive Out where
  /-- An MSI-X message of a vector (R481). -/
  | msix (o : Owner) (vec : Nat)
  /-- A mailbox reply (R448, R449): its header words M0 and M1, and the body with the result block at its head; or the CXL return code Busy. -/
  | mbox (o : Owner) (m0 m1 : Word) (body : List Byte)
  | mboxBusy (o : Owner) (typ tag : Nat)
  /-- A standard CXL mailbox reply (R355): return code and payload. -/
  | cxlMbox (o : Owner) (cmd code : Nat) (body : List Byte)
  /-- CXL.mem responses: data with its poison bit, or a completion, with DevLoad (R359, R369) and MetaField (R360). -/
  | memData (ld addr : Nat) (data : List Byte) (poison : Bool) (devLoad : Nat) (metaField : MetaField := .noOp)
  | memDone (ld addr : Nat) (devLoad : Nat) (metaField : MetaField := .noOp)
  /-- A configuration answer, or Configuration Request Retry Status (R441, R532). -/
  | config (o : Owner) (reg : Nat) (v : Option Word)
  | aer (ld : Nat) (fatal : Bool)
  /-- Register read data. -/
  | regRead (o : Owner) (bar0 : Bool) (off : Nat) (v : Word)
  /-- A frame, a pause frame and a discovery frame on a link, with its bytes. -/
  | frame (port link : Nat) (f : Frame)
  | pause (port link cls quanta : Nat) (frame : List Byte)
  | lldp (port link : Nat) (v : LldpTlv) (frame : List Byte)
  /-- A line of the UART. -/
  | uart (line : String)
  /-- SMBus bytes, or a NAK. -/
  | smb (bytes : List Nat)
  | smbNak
  /-- An NVMe command to a namespace of a drive: a read or a write of data units with their tag LBA, which carries what it writes (R433); a Flush (R386). -/
  | nvme (d ns lba blocks tagLba : Nat) (write : Bool) (units : List FlashUnit)
  | nvmeFlush (d ns : Nat)
deriving DecidableEq, Repr

/-- Partition states of R415, with the codes of GLB_PART_STATE in this order. -/
inductive PartState where
  | absent | open_ | locked | scrubbing
deriving DecidableEq, Repr

/-- A scrub under way (R438): the REMOVE's descriptor, which steps have ended, descriptors flushed. -/
structure Scrub where
  ctx : Nat
  index : BitVec 32
  start : Nat
  flushed : Nat
  drained : Bool := false
deriving DecidableEq, Repr

/-- A partition (R408 to R441). -/
structure PartS where
  state : PartState := .absent
  /-- The 32 words of its definition (R414), zero when ABSENT. -/
  definition : List Word := List.replicate 32 0#64
  epoch : Nat := 1
  qpnFirst : Nat := 0
  qpnCount : Nat := 0
  hostQos : Word := 0xFF10FF10#64
  scrub : Option Scrub := none
  /-- The sequence table (R82), IDs reserved by a FORK or a SPREAD_SET in flight, the runs of blocks of the table, of the lease table and of the automaton table. -/
  seqs : List (Nat × SeqRec) := []
  reservedSeqs : List Nat := []
  seqTable : List Blocks := []
  leaseTable : Option Blocks := none
  autoTable : List Blocks := []
  /-- Control blocks in use, and frame tables and word tables of page extents. -/
  blocks : List Blocks := []
  frameTables : List (Nat × Blocks) := []
  wordTables : List (Nat × Blocks) := []
  scales : List (Nat × ScaleTable) := []
  decode : List (Option DecodeTable) := [none, none]
  /-- The slot that took a decode table last (R215). -/
  lastDecode : Nat := 1
  patterns : Option (Nat × List Byte) := none
  patternBlocks : Option Blocks := none
deriving DecidableEq, Repr

namespace Machine

/-- Reasons for which the machine stops. -/
inductive Fault where
  /-- Raised by nothing: no command of this block stops the model. It stands here because the interface asks for the type; safe. -/
  | never
deriving DecidableEq, Repr

/-- Reasons for which a command has no meaning. -/
inductive Refusal where
  /-- Raised by an arm of Dispatch.lean whose command has no meaning in the model yet; safe, since nothing is claimed of it. -/
  | notModelled (mnemonic : String)
deriving DecidableEq, Repr

end Machine

end Sys2Proof

namespace Sys2Proof.Machine

/-- The state of the node. -/
structure State where
  /-- Commands that wait, first in, first out. -/
  pending : List Instr
  /-- The node time counter (R23), in ns, and whether it runs. -/
  time : Nat
  timeOn : Bool
  /-- Free values drawn so far, and what has left the node, newest first. -/
  free : Nat
  out : List Out
  /-- Host memory, HBM (extent number × 2^28 + offset) and the staging store. -/
  host : List Host.Cell
  hbm : List Host.Cell
  staging : List Host.Cell
  /-- Poisoned 64-byte lines: of HBM, by line number; listed in the Open poison list; of the staging store (R365, R510). -/
  hbmPoison : List Nat
  openPoison : List Nat
  stagingPoison : List Nat
  poisonOverflow : Bool
  /-- Owners: partitions 0 to 15, then the fabric manager. -/
  owners : List OwnerS
  parts : List PartS
  /-- Queue contexts held, by number: by a ring (owner, setup slot) or by a queue pair (its partition, QPN). -/
  contexts : List (Nat × (Owner × Bool × Nat))
  /-- Dispatched descriptors not yet committed, in dispatch order. -/
  flight : List Desc
  /-- Extents by node-wide number; frames of page extents not FREE; CB16 words of frames (R209). -/
  extents : List (Nat × Extent)
  frames : List (FrameAddr × FrameRec)
  words : List (FrameAddr × List Word)
  units : List (Nat × UnitS)
  /-- Near-bank bytes of each stack and of each partition, and exact bytes, in the present microsecond (R116, R155, R411). -/
  sweepWindow : Nat
  sweepUsed : List (Nat × Nat)
  exactWindow : Nat
  exactUsed : List (Nat × Nat)
  cores : List CoreS
  /-- Physical core of each logical core, 0xFF for none (R168). -/
  coreMap : List Nat
  /-- Turns of the owners on INGEST lanes and walk places, and the walks in progress (R136, R224, R412). -/
  turns : TurnS
  snare : SnareS
  fabric : FabricS
  net : NetS
  ports : FabricNet
  cxl : CxlS
  flash : FlashS
  fw : FwS
  belfry : BelfS
  power : PowerS
  faults : FaultS
  boot : BootS
  serial : SerialS
deriving DecidableEq, Repr

end Sys2Proof.Machine

namespace Sys2Proof

/-- The fuses of a shipped LFN-20-2 part (R543, R544, R545; log entry 6 for the values that the spec leaves to the part). -/
def Machine.shippedFuses : Fuses where
  identity := 0x4A3C000001F72E05#64
  seed := 1
  seedCheck := 3387065983
  imageKey := 0xf7fc7ed889402396b5c35b1b5bcd949f7ac69d02312d5feb988d0379411780bf
  lifecycle := 0x0F
  limits := 0x06C29986585F6934#64
  gens := [{ config := 0x3fffffff0ffffffffffffffff01, check := 0x6177EC70, valid := 0xF, burnt := true }, {}, {}, {}]

/-- The image public key in the header of boot slot A as shipped (R535; log entry 6): IMAGE_KEY is its SHA3-256. -/
def Machine.shippedKey : List Byte := List.replicate 1312 0#8

/-- The five images of boot slot A as shipped (R535; log entry 6). -/
def Machine.shippedImages : List Image :=
  [{ kind := 1, version := 1 }, { kind := 2, version := 1 }, { kind := 3, version := 1 }, { kind := 4, version := 1 },
   { kind := 5, version := 1 }]

/-- Modules of the package links of LFN-20-2 in the link order of R514 (R21). -/
def Machine.shippedLinks : List PkgLink :=
  [16, 16, 16, 16, 4, 4, 2, 2].map fun n => { modules := List.replicate n (false, 0, 0) }

/-- The node with the input absent, before PWR_MATE: the start that follows is POWER-ON (R540), with every register at the value that
R541 and chapter 20 give for it. -/
def Machine.State.reset : Machine.State where
  pending := []
  time := 0
  timeOn := false
  free := 0
  out := []
  host := []
  hbm := []
  staging := []
  hbmPoison := []
  openPoison := []
  stagingPoison := []
  poisonOverflow := false
  owners := List.replicate 17 {}
  parts := List.replicate 16 {}
  contexts := []
  flight := []
  extents := []
  frames := []
  words := []
  units := []
  sweepWindow := 0
  sweepUsed := []
  exactWindow := 0
  exactUsed := []
  cores := List.replicate 68 {}
  coreMap := List.range 64
  turns := {}
  snare := {}
  fabric := {}
  net := {}
  ports := {}
  cxl := {}
  flash := {}
  fw := { slots := [{ key := Machine.shippedKey, images := Machine.shippedImages, complete := true, number := 1 }, {}] }
  belfry := {}
  power := { domains := List.replicate 159 { present := .off } }
  faults := { links := Machine.shippedLinks }
  boot := { fuses := Machine.shippedFuses }
  serial := {}

end Sys2Proof
end

