-- ==== Sys2Proof/Machine/Ops.lean ====
section
/-!
DEFINITION. The shared operations over the state: time, free values, owners, partitions, rings, extents, location words and the ranges they
name (R48, R49, R408 to R410), memory with its poison (R510), descriptors in flight, and the error log (R527).
-/
namespace Sys2Proof

open Machine (State Fault Refusal)

/-- Index of an owner in the lists of owners: partitions first, the fabric manager last. -/
def Owner.idx : Owner → Nat
  | .part p => p.val
  | .fm => 16

/-- The owner with an index. -/
def ownerOf (n : Nat) : Owner := if h : n < 16 then .part ⟨n, h⟩ else .fm

/-- The command's answer: always a next state in this model. -/
abbrev Answer := Host.Outcome State Fault Refusal

/-- Node time moves on to the time at which a step happens, counted in whole reference cycles of 10 ns and 64 bits (R23); it never moves back. -/
def atTime (s : State) (t : Nat) : State := { s with time := max s.time (t / 10 * 10 % 2 ^ 64) }

/-- The low 48 bits of a timestamp taken now in some island (R24, R52): within 40 ns of the node time counter. -/
def time48 (s : State) : Nat := (s.time + 10 * (Config.islandSkew s.free % 9) - 40) % 2 ^ 48

/-- A timestamp of 64 bits taken now in some island (R24). -/
def stamp (s : State) : Nat := (s.time + 10 * (Config.islandSkew s.free % 9) - 40) % 2 ^ 64

/-- Draws the next free value (log entry 2). -/
def draw (s : State) : Nat × State := (Config.free s.free, { s with free := s.free + 1 })

/-- A value that the spec states, or a free one of some bits where it states none (log entry 2). -/
def orFree (s : State) (x : Option Nat) (bits : Nat) : Nat × State :=
  match x with
  | some v => (v, s)
  | none => (Config.free s.free % 2 ^ bits, { s with free := s.free + 1 })

/-- Draws n free bytes. -/
def drawBytes (n : Nat) (s : State) : List Byte × State :=
  ((List.range n).map fun k => BitVec.ofNat 8 (Config.free (s.free + k)), { s with free := s.free + n })

/-- Something leaves the node at an interface. -/
def emit (s : State) (x : Out) : State := { s with out := x :: s.out }

/-! ### Owners, partitions and rings -/

def getOwner (s : State) (o : Owner) : OwnerS := s.owners.getD o.idx {}
def modOwner (s : State) (o : Owner) (f : OwnerS → OwnerS) : State := { s with owners := s.owners.modify o.idx f }
def getPart (s : State) (p : Nat) : PartS := s.parts.getD p {}
def modPart (s : State) (p : Nat) (f : PartS → PartS) : State := { s with parts := s.parts.modify p f }
def getRing (s : State) (o : Owner) (k : Nat) : Ring := (lookup? (getOwner s o).rings k).getD {}
def modRing (s : State) (o : Owner) (k : Nat) (f : Ring → Ring) : State :=
  modOwner s o fun x => { x with rings := assign x.rings k (f ((lookup? x.rings k).getD {})) }
def getFlash (s : State) (p : Nat) : PartFlash := s.flash.parts.getD p {}
def modFlash (s : State) (p : Nat) (f : PartFlash → PartFlash) : State :=
  { s with flash := { s.flash with parts := s.flash.parts.modify p f } }

/-- Adds to a partition counter of R561; counter k stands at offset 0x0800 + 8k. -/
def count (s : State) (o : Owner) (k n : Nat) : State :=
  modOwner s o fun x => { x with counters := x.counters.modify k fun v => sat64 v n }

/-- The partition of an owner, for owners that are partitions. -/
def Owner.part? : Owner → Option Nat
  | .part p => some p.val
  | .fm => none

/-- Kind, size exponent, doorbell slot, generation, vector and binding of a PRT_RING_CFG word (R557). -/
def cfgKind (w : Word) : RingKind :=
  match fld w 63 62 with
  | 1 => .submission
  | 2 => .completion
  | 3 => .chime
  | _ => .none
def cfgSize (w : Word) : Nat := 2 ^ fld w 60 56
def cfgSlot (w : Word) : Nat := fld w 48 40
def cfgGen (w : Word) : Nat := fld w 39 24
def cfgVector (w : Word) : Nat := fld w 21 16
def cfgBind (w : Word) : Nat := fld w 8 0

/-- A ring is enabled in every state but DISABLED (R73). -/
def Ring.enabled (r : Ring) : Bool := r.state != .disabled

/-- Whether a setup is in force for a ring: it is enabled, and not in ERROR by an enable that failed (causes 1 to 6 of R557). -/
def Ring.inForce (r : Ring) : Bool := r.enabled && !(r.state == .error && decide (r.cause < 0x10))

/-! ### Partitions, pseudo-channels, extents (R408 to R410) -/

def PartS.live (p : PartS) : Bool := p.state != .absent
def PartS.confidential (p : PartS) : Bool := bit (wd p.definition 10) 22
def PartS.stagingMib (p : PartS) : Nat := fld (wd p.definition 10) 31 23
def PartS.contexts (p : PartS) : Nat := fld (wd p.definition 10) 47 32
def PartS.coreGroups (p : PartS) : Nat := fld (wd p.definition 10) 63 48
def PartS.weight (p : PartS) : Nat := fld (wd p.definition 11) 63 56
def PartS.sweepCeil (p : PartS) : Nat := fld (wd p.definition 11) 55 48 + 1
def PartS.exactCeil (p : PartS) : Nat := fld (wd p.definition 11) 47 40 + 1
def PartS.flashCeil (p : PartS) : Nat := fld (wd p.definition 11) 39 32 + 1
def PartS.binding (p : PartS) : Word := wd p.definition 12
/-- Whether a definition's PCH_MAP holds pseudo-channel c (R414). -/
def PartS.ownsPch (p : PartS) (c : Nat) : Bool := p.live && bit (wd p.definition (c / 64)) (c % 64) && decide (c < 640)
/-- The pseudo-channels of a partition, ascending. -/
def PartS.pchs (p : PartS) : List Nat := (List.range 640).filter p.ownsPch

/-- The partition that owns a pseudo-channel. -/
def pchOwner (s : State) (c : Nat) : Option Nat := (List.range 16).find? fun p => (getPart s p).ownsPch c

/-- Stacks fitted (R17, R545): every stack when no generation rules. -/
def stackFitted (s : State) (k : Nat) : Bool := decide (k < 20) && (s.boot.ruling.isNone || (s.boot.config >>> (76 + k)) % 2 == 1)
def portDieFitted (s : State) (k : Nat) : Bool := decide (k < 2) && (s.boot.ruling.isNone || (s.boot.config >>> (96 + k)) % 2 == 1)
def hubCount (s : State) : Nat := ((List.range 20).filter (stackFitted s)).length / 5
def planeCount (s : State) : Nat := if portDieFitted s 1 then 8 else 4
/-- VARIANT code; 0x01 when no generation rules and every die is found. -/
def variant (s : State) : Nat := if s.boot.ruling.isNone then 1 else s.boot.config % 256

def pchFenced (s : State) (c : Nat) : Bool := s.faults.pchs.contains c
def getExt (s : State) (e : Nat) : Extent := (lookup? s.extents e).getD {}
def modExt (s : State) (e : Nat) (f : Extent → Extent) : State := { s with extents := assign s.extents e (f (getExt s e)) }

/-- Own extents of a partition: their count n, and the k-th one's node-wide number (R409). -/
def ownCount (s : State) (p : Nat) : Nat := 3 * (getPart s p).pchs.length
def ownExt (s : State) (p k : Nat) : Option Nat := ((getPart s p).pchs[k / 3]?).map fun c => 3 * c + k % 3
/-- The number within its partition of a node-wide extent. -/
def localExt (s : State) (p e : Nat) : Option Nat :=
  ((getPart s p).pchs.findIdx? fun c => c == e / 3).map fun j => 3 * j + e % 3

/-- Whether an extent is in the pool (R410). -/
def inPool (s : State) (e : Nat) : Bool := decide (e < 1920) && stackFitted s (e / 96) && (pchOwner s (e / 3)).isNone

def getLd (s : State) (p : Nat) : LdS := s.cxl.lds.getD p {}
def modLd (s : State) (p : Nat) (f : LdS → LdS) : State := { s with cxl := { s.cxl with lds := s.cxl.lds.modify p f } }

/-- The host access mode of a slot: that of an own slot, NONE where the extent belongs to the page store (R80) or the partition is CONFIDENTIAL (R428), or that of
its lend. -/
def winMode (s : State) (p slot : Nat) : WinMode :=
  match ownExt s p slot with
  | some e =>
    let store : Bool := match (getExt s e).use with
      | .page _ => true
      | .control => true
      | _ => false
    if store ∨ (getPart s p).confidential then .none else (lookup? (getLd s p).modes slot).getD .none
  | none => ((lookup? (getLd s p).lent slot).map (·.mode)).getD .none

/-- The extents at the mapped slots of an LD (R359): slots with a host access mode other than NONE. -/
def mappedExts (s : State) (p : Nat) : List Nat :=
  ((getLd s p).modes.filter fun x => winMode s p x.1 != .none).filterMap (fun x => ownExt s p x.1) ++ ((getLd s p).lent.filter fun x => x.2.mode != .none).map (·.2.ext)

/-- The node-wide extent that an extent number of a requester names, for reading or writing (R49): own extents, lent extents by their
mode, or pool extents for the fabric manager. -/
def reach (s : State) (o : Owner) (k : Nat) (write : Bool) : Option Nat :=
  match o with
  | .fm => if inPool s k then some k else none
  | .part p =>
    match ownExt s p k with
    | some e => some e
    | none =>
      match lookup? (getLd s p).lent k with
      | some l => if l.mode == .rw || (l.mode == .ro && !write) then some l.ext else none
      | none => none

/-- Bytes that an extent holds by its kind (R81, R137): a Guarded row gives 64 of its 1,024 bytes to check bits. -/
def extBytes (x : Extent) : Nat :=
  let k := if x.kind == .awaiting then x.was else x.kind
  if k == .guarded then 240 * 2 ^ 20 else 2 ^ 28

/-- The staging share of an owner in bytes (R408): a partition's by its definition, the fabric manager's what is left, without the update buffer (R454). -/
def stagingBytes (s : State) (o : Owner) : Nat :=
  match o with
  | .part p => if (getPart s p).live then (getPart s p).stagingMib * 2 ^ 20 else 0
  | .fm =>
    let granted := ((List.range 16).map fun p => if (getPart s p).live then (getPart s p).stagingMib else 0).sum
    (256 - granted - (if s.fw.buffer then 21 else 0)) * 2 ^ 20

/-! ### Location words (R48, R49) -/

/-- A place that a location word names: host memory, an extent, or the owner's share of the staging store. -/
inductive Loc where
  | host (a : Nat)
  | hbm (e off : Nat)
  | staging (o off : Nat)
deriving DecidableEq, Repr

/-- Judges a range of `len` bytes at a location word, in the order of R49: the place, or the status and DETAIL with which its
descriptor completes. `own` and `range` are the DETAILs that the station gives for a location outside the owner's resources and for
a range that does not fit (0x0002 and 0x0001 unless its chapter says otherwise). A reserved SPACE or a non-zero reserved bit has DETAIL 0x0001, and a range of host
memory that runs past 2^57 is MALFORMED like any that does not fit (DESIGN CHOICE, log entry 22: R48 gives no DETAIL and R49 is silent on host ranges). -/
def locate (s : State) (o : Owner) (w : Word) (len : Nat) (write : Bool) (own : Nat := 2) (range : Nat := 1) :
    Except (Nat × Nat) Loc :=
  match fld w 63 60 with
  | 0 =>
    if fld w 59 57 ≠ 0 then .error (0xF0, 1)
    else if fld w 56 0 + len > 2 ^ 57 then .error (0xF0, range)
    else .ok (.host (fld w 56 0))
  | 1 =>
    if bit w 59 || fld w 47 28 ≠ 0 then .error (0xF0, 1)
    else match reach s o (fld w 58 48) write with
      | none => .error (0x22, own)
      | some e =>
        if fld w 27 0 + len > extBytes (getExt s e) then .error (0xF0, range) else .ok (.hbm e (fld w 27 0))
  | 2 =>
    if fld w 59 28 ≠ 0 then .error (0xF0, 1)
    else if fld w 27 0 ≥ stagingBytes s o then .error (0x22, own)
    else if fld w 27 0 + len > stagingBytes s o then .error (0xF0, range)
    else .ok (.staging o.idx (fld w 27 0))
  | _ => .error (0xF0, 1)

/-- Lines of 64 bytes that a run of bytes touches. -/
def lines (a n : Nat) : List Nat := if n = 0 then [] else (List.range ((a + n - 1) / 64 - a / 64 + 1)).map fun k => a / 64 + k

/-- The address of an HBM byte in the node's HBM memory. -/
def hbmAddr (e off : Nat) : Nat := e * 2 ^ 28 + off

/-- Whether a range of HBM reads as poison: a marked line, extent-level poison, an extent awaiting reseal, a fenced pseudo-channel. -/
def hbmPoisoned (s : State) (e off n : Nat) : Bool :=
  let a := hbmAddr e off
  let hit := fun (l : Nat) => decide (n ≠ 0 ∧ a < 64 * l + 64 ∧ 64 * l < a + n)
  (getExt s e).poison || (getExt s e).kind == .awaiting || pchFenced s (e / 3) || s.hbmPoison.any hit || s.openPoison.any hit

/-- Writes HBM bytes without poison; whole lines written lose their mark (R510). -/
def writeHbm (s : State) (e off : Nat) (bs : List Byte) : State :=
  let a := hbmAddr e off
  let whole := (lines a bs.length).filter fun l => decide (a ≤ 64 * l ∧ 64 * l + 64 ≤ a + bs.length)
  { s with hbm := Memory.writeBytes s.hbm a bs
           hbmPoison := s.hbmPoison.filter fun l => !whole.contains l
           openPoison := s.openPoison.filter fun l => !whole.contains l }

/-- Bulk-clears an extent (R112): zero, Open, no mark of poison. -/
def clearExtent (s : State) (e : Nat) : State :=
  let a := hbmAddr e 0
  let out := fun (l : Nat) => decide (64 * l < a ∨ a + 2 ^ 28 ≤ 64 * l)
  modExt { s with hbm := Memory.clear s.hbm a (2 ^ 28)
                  hbmPoison := s.hbmPoison.filter out
                  openPoison := s.openPoison.filter out } e fun _ => {}

/-- What reading a range gave: its bytes and whether any of them was poisoned. -/
structure ReadRes where
  bytes : List Byte
  poison : Bool
deriving DecidableEq, Repr

/-- The plaintext length of a bounce buffer's occupied size (R430). -/
def bounceBytes (n : Nat) : Nat := n + 16 * ceilDiv n 4096

/-- The session secret of a partition (R424), empty when it holds none. -/
def sessionSecret (s : State) (p : Nat) : List Byte := ((lookup? s.belfry.sessions p).map (·.secret)).getD []

/-- The ring key of a ring and the bounce key of a submission ring (R426). -/
def ringKey (s : State) (p ctx gen : Nat) : List Byte := sha3 (ascii "LFN ring" ++ sessionSecret s p ++ leBytes 4 ctx ++ leBytes 4 gen)
def bounceKey (s : State) (p ctx gen : Nat) : List Byte := sha3 (ascii "LFN bounce" ++ sessionSecret s p ++ leBytes 4 ctx ++ leBytes 4 gen)

/-- The IV of a bounce chunk (R430): ring index; direction, body word and chunk number; zero. -/
def bounceIv (index : BitVec 32) (write : Bool) (word c : Nat) : List Byte :=
  leBytes 4 index.toNat ++ leBytes 4 (b2n write * 2 ^ 31 + (word - 2) * 2 ^ 28 + c % 2 ^ 28) ++ leBytes 4 0

/-- Opens n chunks of a bounce buffer from chunk c on, `left` plaintext bytes in all: none when a chunk fails authentication. -/
def openBounce (m : List Host.Cell) (key : List Byte) (index : BitVec 32) (word a : Nat) : Nat → Nat → Nat → Option (List Byte)
  | 0, _, _ => some []
  | n + 1, c, left =>
    let k := min left 4096
    match Config.gcmOpen key (bounceIv index false word c) [] (Memory.readBytes m (a + 4112 * c) (k + 16)) with
    | none => none
    | some x => (openBounce m key index word a n (c + 1) (left - k)).map fun r => x ++ r

/-- The chunks of a bounce buffer from chunk c on, each opened or not. -/
def openEach (m : List Host.Cell) (key : List Byte) (index : BitVec 32) (word a : Nat) : Nat → Nat → Nat → List (Option (List Byte))
  | 0, _, _ => []
  | n + 1, c, left =>
    let k := min left 4096
    Config.gcmOpen key (bounceIv index false word c) [] (Memory.readBytes m (a + 4112 * c) (k + 16)) :: openEach m key index word a n (c + 1) (left - k)

/-- Seals plaintext into the chunks of a bounce buffer, from chunk c on. -/
def sealBounce (m : List Host.Cell) (key : List Byte) (index : BitVec 32) (word a : Nat) : Nat → Nat → List Byte → List Host.Cell
  | 0, _, _ => m
  | n + 1, c, bs =>
    let x := Config.gcmSeal key (bounceIv index true word c) [] (bs.take 4096)
    sealBounce (Memory.writeBytes m (a + 4112 * c) x) key index word a n (c + 1) (bs.drop 4096)

/-! ### Descriptors in flight -/

/-- The descriptor that a row names. -/
def findDesc (s : State) (q : Nat) (i : BitVec 32) : Option Desc := s.flight.find? fun d => decide (d.ctx = q ∧ d.index = i)

/-- Puts a descriptor back in its place in flight. -/
def putDesc (s : State) (d : Desc) : State :=
  { s with flight := s.flight.map fun x => if x.ctx = d.ctx ∧ x.index = d.index then d else x }

/-- A descriptor is finished with a status: it waits for its commit latch (R70). -/
def Desc.finish (d : Desc) (status detail : Nat) (r0 : Option Nat := none) (r1 : Option Nat := none) : Desc :=
  { d with phase := .finished, status := status, detail := detail, res0 := r0.map (· % 2 ^ 32), res1 := r1.map (· % 2 ^ 64) }

/-- OPCODE, SUBOP, CHAIN_IN and LEN of the operation in hand; LEN and CHAIN_IN of a program step stand in its step words (R65). -/
def Desc.opcode (d : Desc) : Nat := fld (wd d.cur 0) 63 56
def Desc.subop (d : Desc) : Nat := fld (wd d.cur 0) 47 32
def Desc.chainIn (d : Desc) : Bool := bit (wd d.cur 0) 51
def Desc.len (d : Desc) : Nat := if d.prog.isSome then fld (wd d.cur 1) 40 24 else fld (wd d.cur 1) 16 0
def Desc.w (d : Desc) (k : Nat) : Word := wd d.cur k

/-- The descriptor, when it is in the phase that its station row needs and names that operation. -/
def stationDesc (s : State) (q : Nat) (i : BitVec 32) (opcode subop : Nat) : Option Desc :=
  match findDesc s q i with
  | some d => if d.phase == .ready && d.opcode == opcode && d.subop == subop then some d else none
  | none => none

/-- Whether Memory_Active is set (R533). -/
def memActive (s : State) : Bool := s.boot.phase == .active

/-- The generation registered for the ring of a descriptor. -/
def descGen (s : State) (d : Desc) : Nat := cfgGen (getRing s d.owner (d.slot.getD 0)).inCfg

/-- Whether host memory of an owner is a bounce buffer (R430). -/
def bounced (s : State) (o : Owner) : Bool :=
  match o with
  | .part p => (getPart s p).confidential
  | .fm => false

/-- Writes bytes at a place, for body word `k` of a descriptor. -/
def writeLoc (s : State) (d : Desc) (k : Nat) (loc : Loc) (bs : List Byte) : State :=
  match loc with
  | .host a =>
    if bounced s d.owner then
      { s with host := sealBounce s.host (bounceKey s d.owner.idx d.ctx (descGen s d)) d.index k a (ceilDiv bs.length 4096) 0 bs }
    else { s with host := Memory.writeBytes s.host a bs }
  | .hbm e off => writeHbm s e off bs
  | .staging o off =>
    let a := o * 2 ^ 28 + off
    let whole := (lines a bs.length).filter fun l => decide (a ≤ 64 * l ∧ 64 * l + 64 ≤ a + bs.length)
    { s with staging := Memory.writeBytes s.staging a bs, stagingPoison := s.stagingPoison.filter fun l => !whole.contains l }

/-- Whether an extent may be written by a station other than PLACE and RESEAL (R80, R138, R400): the status and DETAIL otherwise. -/
def writable (s : State) (loc : Loc) : Option (Nat × Nat) :=
  match loc with
  | .hbm e _ =>
    if (getExt s e).kind == .awaiting then some (0x22, 2)
    else match (getExt s e).use with
    | .page _ => some (0x22, 2)
    | .control => some (0x22, 2)
    | .stepState r =>
      match (pchOwner s (e / 3)).bind fun p => lookup? (getFlash s p).regions r with
      | some x => if x.state == .open_ then none else some (0x22, 0xA)
      | none => none
    | _ => none
  | _ => none

/-- The range that a location word occupies: bounce buffers count with their tags (R430). -/
def occupied (s : State) (o : Owner) (w : Word) (len : Nat) : Nat :=
  if fld w 63 60 = 0 ∧ bounced s o then bounceBytes len else len

/-- Judges an output location word and writes the bytes there; a word of 0 means no location. -/
def writeOut (s : State) (d : Desc) (k : Nat) (bs : List Byte) (own : Nat := 2) : Except (Nat × Nat) State :=
  if d.w k = 0#64 then .ok s
  else match locate s d.owner (d.w k) (occupied s d.owner (d.w k) bs.length) true own with
    | .error e => .error e
    | .ok loc =>
      match writable s loc with
      | some e => .error e
      | none => .ok (writeLoc s d k loc bs)

/-! ### Reads of a step-state region (R400) -/

/-- What a region does with a read of a range: it is served, waits for units not yet lifted, or is refused. -/
inductive RegionRead where
  | now | waits | refused
deriving DecidableEq, Repr

/-- The region that an extent belongs to, with the extent's place in it. -/
def regionAt (s : State) (e : Nat) : Option (Nat × Nat × StepRegion × Nat) :=
  match (getExt s e).use, pchOwner s (e / 3) with
  | .stepState r, some p =>
    match lookup? (getFlash s p).regions r, localExt s p e with
    | some x, some k => some (p, r, x, k - x.first)
    | _, _ => none
  | _, _ => none

/-- Units of 1 MiB that a restore has lifted of an extent. -/
def StepRegion.liftedOf (x : StepRegion) (k : Nat) : Nat := (lookup? x.lifted k).getD 0

/-- What a read of a range of an extent meets. -/
def regionReads (s : State) (e off n : Nat) : RegionRead :=
  match regionAt s e with
  | none => .now
  | some (_, _, x, k) =>
    if x.state = .onFlash then .refused
    else if x.state = .lifting ∧ n ≠ 0 ∧ x.liftedOf k * 2 ^ 20 < off + n then .waits
    else .now

def Loc.regionReads (s : State) (n : Nat) : Loc → RegionRead
  | .hbm e off => Sys2Proof.regionReads s e off n
  | _ => .now

/-! ### The error log (R527, R528) -/

/-- Makes an entry in the error log: the same happening within 1 ms is merged into the newest such entry. Causes that R527 names also go to
the fault log of the boot flashes. -/
def logError (s : State) (cause unitKind : Nat) (part : Option Nat) (unit : Nat) (arg : Word) : State :=
  let same := fun (e : LogEntry) => e.cause == cause && e.unitKind == unitKind && e.part == part && e.unit == unit && e.arg == arg
      && decide ((s.time % 2 ^ 48 + 2 ^ 48 + 40 - e.time) % 2 ^ 48 < 1000040)
  if s.faults.log.any same then
    let more := fun (e : LogEntry) => { e with count := e.count + 1 }
    { s with faults := { s.faults with log := s.faults.log.map fun e => if same e then more e else e
                                       faultLog := s.faults.faultLog.map fun e => if same e && s.faults.log.contains e then more e else e } }
  else
    let e : LogEntry := { seq := s.faults.nextSeq, cause := cause, unitKind := unitKind, part := part, unit := unit, arg := arg, time := time48 s }
    let f := { s.faults with log := (e :: s.faults.log).take 4096, nextSeq := s.faults.nextSeq + 1 }
    let keep := [0x07, 0x0D, 0x0E].contains cause || (cause == 0x0B && arg ≠ 0#64)
    { s with faults := if keep then { f with faultLog := (e :: f.faultLog).take 1024 } else f }

/-- Records an alert cause (R586). -/
def setAlert (s : State) (k : Nat) (now : Bool) : State :=
  { s with boot := { s.boot with alert := if now then s.boot.alert.set k true else s.boot.alert, alertNow := s.boot.alertNow.set k now } }

end Sys2Proof
end

