-- ==== Sys2Proof/Machine/Clock.lean ====
section
/-!
DEFINITION. What happens while no command waits: the node time counter counts 10 ns at every cycle of the 100 MHz reference (R23).
-/
namespace Sys2Proof

/-- One period of the 100 MHz reference: node time, of 64 bits, advances by 10 ns while the counter runs, and nothing else changes (R23). -/
def tick (s : Machine.State) : Machine.State := if s.timeOn then { s with time := (s.time + 10) % 2 ^ 64 } else s

end Sys2Proof
end

