-- ==== Sys2Proof/Machine/Events.lean ====
section
/-!
DEFINITION. Records into completion and Chime rings, MSI-X messages, events and their routes (R52 to R54, R429, R466, R473 to R485).
-/
namespace Sys2Proof

open Machine (State Fault Refusal)

/-- PHASE of the record with a count, in a ring of a size (R52): 1 on the first pass. -/
def phaseOf (n size : Nat) : Nat := 1 - (n / size) % 2

/-- Whether an owner's records and bounce buffers are sealed and the index of a ring's next record would pass 2^32 within its generation (R429). -/
def indexSpent (s : State) (o : Owner) (k : Nat) : Bool := bounced s o && decide ((getRing s o k).written ≥ 2 ^ 32)

/-- Writes the words of a record with its PHASE at the next place of a ring in host memory (R52, R53); sealed in a CONFIDENTIAL
partition with its tag beside it (R429). -/
def writeRecord (s : State) (o : Owner) (k : Nat) (ws : List Word) : State :=
  let r := getRing s o k
  let size := cfgSize r.inCfg
  let w3 := (wd ws 3 &&& ~~~(maskOf 63 63)) ||| put 63 63 (phaseOf r.written size)
  let bs := ofWords [wd ws 0, wd ws 1, wd ws 2, w3]
  let slot := r.written % size
  let s := modRing s o k fun r => { r with written := r.written + 1 }
  if bounced s o then
    let x := Config.gcmSeal (ringKey s o.idx r.queue (cfgGen r.inCfg)) (leBytes 4 (r.written % 2 ^ 32) ++ leBytes 8 0) [] bs
    { s with host := Memory.writeBytes (Memory.writeBytes s.host (r.inBase + 32 * slot) (x.take 32)) (r.inTag + 16 * slot) (x.drop 32) }
  else { s with host := Memory.writeBytes s.host (r.inBase + 32 * slot) bs }

/-- Whether telemetry and interrupts of an owner are silenced by its scrub (R441, R485). -/
def scrubbing (s : State) (o : Owner) : Bool :=
  match o with
  | .part p => (getPart s p).state == .scrubbing
  | .fm => false

/-- Sends an MSI-X message of a vector, or sets its pending bit while the vector or the function is masked (R483). -/
def sendMsix (s : State) (o : Owner) (vec : Nat) : State :=
  let x := getOwner s o
  if scrubbing s o then s
  else if x.funcMask || x.vecMask.getD vec true then modOwner s o fun x => { x with pba := x.pba.set vec true }
  else emit s (.msix o vec)

/-- Sends the message that a vector has left pending, when neither the vector nor the function is masked (R483). -/
def sendPending (s : State) (o : Owner) (vec : Nat) : State :=
  let x := getOwner s o
  if x.pba.getD vec false && !x.funcMask && !x.vecMask.getD vec true && !scrubbing s o then
    emit (modOwner s o fun x => { x with pba := x.pba.set vec false }) (.msix o vec)
  else s

/-- What the interrupt state of a Chime ring does with an enabled record, written or lost (R481). -/
def wakeRing (s : State) (o : Owner) (k : Nat) : State :=
  let r := getRing s o k
  if r.irqActive then modRing s o k fun r => { r with irqPending := true }
  else sendMsix (modRing s o k fun r => { r with irqActive := true, irqPending := false }) o (cfgVector r.inCfg)

/-- Puts the interrupt state of a ring that is disabled, reset or put in ERROR back to ARMED (R481). -/
def Ring.disarm (r : Ring) : Ring := { r with irqActive := false, irqPending := false, classes := [] }

/-- Records written and not yet consumed (R54, R56). -/
def Ring.unread (r : Ring) : Nat := sub32 r.written r.index

/-- Whether the WAKE mask of a ring has a class (R480). -/
def Ring.wakes (r : Ring) (cls : Nat) : Bool := (r.wake >>> cls) % 2 == 1

/-- Loses an event on a Chime ring that has no room for it (R484), and acts on the interrupt state (R481). -/
def loseEvent (s : State) (o : Owner) (k cls : Nat) : State :=
  let s := modRing s o k fun r => { r with lost := min (r.lost + 1) (2 ^ 32 - 1), lostSince := r.lostSince + 1 }
  if (getRing s o k).wakes cls then wakeRing s o k else s

/-- Writes one event record into a Chime ring, or loses it when the ring is full (R475, R484), and acts on the interrupt state. -/
def chimeRecord (s : State) (o : Owner) (k cls : Nat) (ws : List Word) : State :=
  let r := getRing s o k
  if r.unread ≥ cfgSize r.inCfg then loseEvent s o k cls
  else
    let w3 := (wd ws 3 &&& ~~~(maskOf 54 48)) ||| put 54 48 (min r.lostSince 127)
    let s := writeRecord s o k [wd ws 0, wd ws 1, wd ws 2, w3]
    let s := modRing s o k fun r => { r with lostSince := 0, classes := r.classes ++ [cls] }
    if r.wakes cls then wakeRing s o k else s

/-- The words of an event record (R474), without PHASE and LOST. -/
def eventWords (s : State) (cls code : Nat) (queue : Option Nat) (subject : Nat) (arg0 arg1 : Word) (status : Nat) : List Word :=
  [put 63 56 cls ||| put 55 48 code ||| put 47 47 (b2n queue.isSome) ||| put 45 32 (queue.getD 0) ||| put 31 0 subject,
   arg0, arg1, put 62 55 status ||| put 47 0 (time48 s)]

/-- The ring to which a class of an owner's events is routed, while it takes events (R477); none during a scrub of the owner (R441). -/
def eventRing (s : State) (o : Owner) (cls : Nat) : Option Nat :=
  let route := (getOwner s o).routes.getD cls 0
  let r := getRing s o (route % 512)
  if !scrubbing s o ∧ route / 32768 % 2 = 1 ∧ cfgKind r.inCfg = .chime ∧ (r.state = .active ∨ r.state = .orphaned) then some (route % 512) else none

/-- Hands an event to its ring: it is written, held while the ring is ORPHANED (R485), or discarded and counted where it is routed to none (R476, R477). -/
def routeEvent (s : State) (o : Owner) (cls : Nat) (ws : List Word) : State :=
  match eventRing s o cls with
  | none => count s o 13 1
  | some k =>
    let r := getRing s o k
    if r.state = .active then chimeRecord s o k cls ws
    else if r.unread + r.held.length ≥ cfgSize r.inCfg then loseEvent s o k cls
    else modRing s o k fun r => { r with held := r.held ++ [ws] }

/-- Posts an event to one recipient (R476, R477). A ring whose record index is spent goes to ERROR instead, with an event of its own (R73, R429). -/
def postEvent (s : State) (o : Owner) (cls code : Nat) (queue : Option Nat) (subject : Nat) (arg0 arg1 : Word) (status : Nat := 0) : State :=
  let spent := (eventRing s o cls).filter fun k => (getRing s o k).state == .active && indexSpent s o k
  let s := match spent with
    | some k =>
      let s := modRing s o k fun r => { r.disarm with state := .error, cause := 0x11 }
      routeEvent s o 2 (eventWords s 2 1 (some (getRing s o k).queue) 0 0#64 0#64 0)
    | none => s
  routeEvent s o cls (eventWords s cls code queue subject arg0 arg1 status)

/-- Posts an event to the fabric manager. -/
def postFm (s : State) (cls code : Nat) (subject : Nat) (arg0 arg1 : Word) (status : Nat := 0) : State :=
  postEvent s .fm cls code none subject arg0 arg1 status

/-- The slots that hold an extent, by LD: its owner's own slot, or the slots in which it is lent (R356, R370). -/
def slotHolders (s : State) (e : Nat) : List (Nat × Nat) :=
  match pchOwner s (e / 3) with
  | some p => ((localExt s p e).toList).map fun k => (p, k)
  | none => (List.range 16).flatMap fun p => ((getLd s p).lent.filter fun x => x.2.ext == e).map fun x => (p, x.1)

/-- CDAT_REBUILD (R364, R476): the CDAT of an LD is built again after a change of n slots, and the LD gets its event. -/
def cdatRebuild (s : State) (p slot n : Nat) : State :=
  postEvent (modLd s p fun l => { l with cdatBuilds := l.cdatBuilds + 1 }) (ownerOf p) 6 1 none slot (BitVec.ofNat 64 n) 0#64

/-- The status codes that leave results valid (R57, R60). -/
def validStatus (st : Nat) : Bool := st == 0x00 || st == 0x03 || st == 0x04

/-- The results of a descriptor: free values where its chapter states none for its status (R52, R57). -/
def settleResults (s : State) (d : Desc) : State × Desc :=
  let (a, s) := orFree s d.res0 32
  let (b, s) := orFree s d.res1 64
  (s, { d with res0 := some a, res1 := some b })

/-- The words of a descriptor's completion record (R52), without PHASE. For a program, DETAIL holds the step's DETAIL in [62:53] and the
step's index in [52:48] (R66). -/
def completionWords (s : State) (d : Desc) : List Word :=
  let detail := if d.prog.isSome then (d.detail % 2 ^ 10) * 32 + d.step % 32 else d.detail
  [put 63 56 d.status ||| put 55 48 (fld (wd d.words 0) 63 56) ||| put 45 32 d.ctx ||| put 31 0 (fld (wd d.words 0) 31 0),
   put 63 32 d.index.toNat ||| put 31 0 (d.res0.getD 0), BitVec.ofNat 64 (d.res1.getD 0), put 62 48 detail ||| put 47 0 (time48 s)]

/-- Bytes of the side part of a tile (R195). -/
def sideBytes (t : Option Tile) : Nat := ((t.bind (·.attr)).map fun a => 2 * (a.side.map List.length).sum).getD 0

/-- Bytes of the staging store that a page on the tier path takes, from the first of its commands until its reader has it (R396). -/
def FlashOp.staged (o : FlashOp) : Nat := if o.page.isSome ∧ o.bytes < o.size then o.size else 0

/-- Bytes that the node itself holds in the staging share of an owner: held records (R467), the side parts of placement tiles (R195), and pages on the tier path
(R396). -/
def heldBytes (s : State) (o : Owner) : Nat :=
  32 * ((getOwner s o).rings.map fun e => e.2.held.length).sum + ((getOwner s o).rings.map fun e => sideBytes (e.2.prev.bind (·.2))).sum
    + (s.flight.map fun d => if d.owner = o then sideBytes d.input + sideBytes d.output else 0).sum
    + (s.flash.ops.map fun x => if x.owner = o.idx then x.staged else 0).sum

/-- Puts a ring in ERROR with a cause and posts the event of R476 (R73). -/
def ringError (s : State) (o : Owner) (k cause : Nat) : State :=
  let r := getRing s o k
  let s := modRing s o k fun r => { r.disarm with state := .error, cause := cause }
  postEvent s o 2 1 (some r.queue) 0 0#64 0#64

/-- Writes or holds the completion record of a descriptor of a submission ring, and posts its event when EVENT is set (R54, R59, R466, R476). -/
def complete (s : State) (d : Desc) : State :=
  match d.slot with
  | none => s
  | some k =>
    let c := cfgBind (getRing s d.owner k).inCfg
    let ws := completionWords s d
    let s := modRing s d.owner c fun r => { r with reserved := r.reserved - 1 }
    let s :=
      if (getRing s d.owner c).state = .orphaned ∨ (getRing s d.owner k).state = .orphaned then
        modRing (modRing s d.owner c fun r => { r with held := r.held ++ [ws] }) d.owner k fun r => { r with recsHeld := r.recsHeld + 1 }
      else if indexSpent s d.owner c then ringError s d.owner c 0x11
      else modRing (writeRecord s d.owner c ws) d.owner k fun r => { r with recsWritten := r.recsWritten + 1 }
    if bit (wd d.words 0) 50 then
      postEvent s d.owner 1 1 (some d.ctx) (fld (wd d.words 0) 31 0) (put 63 32 d.index.toNat ||| put 31 0 (d.res0.getD 0)) (BitVec.ofNat 64 (d.res1.getD 0))
    else s

end Sys2Proof
end

