-- ==== Sys2Proof/Machine/SnareOps.lean ====
section
/-!
DEFINITION. Fingerprints and the Snare index (R228 to R239): probes, insertions with their moves and evictions, removals and promotions.
-/
namespace Sys2Proof

open Machine (State Fault Refusal)

/-! ### Fingerprints -/

/-- The fingerprint of one page of sixteen tokens after f (R229). -/
def fingerprint (f ns : Nat) (tokens : List Nat) : Nat :=
  ofLe ((sha3 (leBytes 8 f ++ leBytes 4 ns ++ leBytes 4 0 ++ tokens.flatMap (leBytes 4))).take 8)

/-- The chained fingerprints of whole pages. -/
def fingerprints (f ns : Nat) : Nat → List Nat → List Nat
  | 0, _ => []
  | n + 1, ts =>
    let g := fingerprint f ns (ts.take 16)
    g :: fingerprints g ns n (ts.drop 16)

/-! ### Blocks -/

/-- The blocks of a partition in block-number order (R228, R232). -/
def snareBlocks (s : State) (p : Nat) : List Nat :=
  (List.range 256).filter fun b => match lookup? s.snare.blocks b with
    | some x => x.valid && x.part == p
    | none => false

def getBlock (s : State) (b : Nat) : SnareBlock := (lookup? s.snare.blocks b).getD {}
def modBlock (s : State) (b : Nat) (f : SnareBlock → SnareBlock) : State :=
  { s with snare := { s.snare with blocks := assign s.snare.blocks b (f (getBlock s b)) } }

/-- The two words of an entry, its parity among them (R231): bit 20 over E0, bit 21 over E1[63:22] and E1[19:0]. -/
def SnareEntry.words (e : SnareEntry) : List Word :=
  let odd := fun (w : Word) => b2n (((List.range 64).filter fun k => bit w k).length % 2 == 1)
  let e0 := BitVec.ofNat 64 e.fp
  let e1 := put 63 32 e.seq ||| put 31 28 e.age ||| put 19 0 e.page
  [e0, e1 ||| put 20 20 (odd e0) ||| put 21 21 (odd e1)]

/-- The entries of a block as a slot sees them: an insertion is seen whole while its shift is still under way (R235, R236). -/
def SnareBlock.all (x : SnareBlock) : List SnareEntry := x.shifting ++ x.entries

/-- Puts an entry in its place. -/
def placeEntry (e : SnareEntry) : List SnareEntry → List SnareEntry
  | [] => [e]
  | x :: r => if e.fp < x.fp then e :: x :: r else x :: placeEntry e r

/-- The block and entry of a fingerprint. -/
def findEntry (s : State) (p fp : Nat) : Option (Nat × SnareEntry) :=
  (snareBlocks s p).findSome? fun b => ((getBlock s b).all.find? fun e => e.fp == fp).map fun e => (b, e)

/-- Changes every entry of a fingerprint in a block. -/
def SnareBlock.adjust (x : SnareBlock) (fp : Nat) (f : SnareEntry → SnareEntry) : SnareBlock :=
  { x with entries := x.entries.map fun e => if e.fp = fp then f e else e, shifting := x.shifting.map fun e => if e.fp = fp then f e else e }

/-- Takes a fingerprint out of a block. -/
def SnareBlock.drop (x : SnareBlock) (fp : Nat) : SnareBlock :=
  { x with entries := x.entries.filter fun e => e.fp != fp, shifting := x.shifting.filter fun e => e.fp != fp }

/-! ### The HBM extension (R239) -/

/-- The extension that a partition names. -/
def extNamed (s : State) (p : Nat) : Option Nat :=
  let w := (getOwner s (ownerOf p)).snareExt
  if bit w 63 then ownExt s p (fld w 10 0) else none

def bucketOfFp (fp : Nat) : Nat := fp % 61440

/-- The byte of the extension at which place k of a fingerprint's bucket starts. -/
def placeByte (fp k : Nat) : Nat := 4096 * bucketOfFp fp + 16 * k

/-- The entry that two words hold (R231). -/
def entryOf (ws : List Word) : SnareEntry :=
  { fp := (wd ws 0).toNat, seq := fld (wd ws 1) 63 32, age := fld (wd ws 1) 31 28, page := fld (wd ws 1) 19 0 }

/-- Places in use of the bucket of a fingerprint. -/
def placesOf (s : State) (p fp : Nat) : List Nat := (lookup? s.snare.ext (p, bucketOfFp fp)).getD []
def setPlaces (s : State) (p fp : Nat) (ks : List Nat) : State :=
  { s with snare := { s.snare with ext := if ks.isEmpty then erase s.snare.ext (p, bucketOfFp fp) else assign s.snare.ext (p, bucketOfFp fp) ks } }

/-- The entries of the bucket of a fingerprint with their places, as HBM holds them: a write of the extent by a host or a station reaches them. -/
def getBucket (s : State) (p fp : Nat) : List (Nat × SnareEntry) :=
  match extNamed s p with
  | some e => (placesOf s p fp).map fun k => (k, entryOf (toWords 2 (Memory.readBytes s.hbm (hbmAddr e (placeByte fp k)) 16)))
  | none => []

/-- The entry of a fingerprint in its bucket. -/
def inBucket (s : State) (p fp : Nat) : Option (Nat × SnareEntry) := (getBucket s p fp).find? fun x => x.2.fp == fp

/-- Writes an entry at a place of its bucket. -/
def putPlace (s : State) (p fp k : Nat) (x : SnareEntry) : State :=
  match extNamed s p with
  | some e => writeHbm (setPlaces s p fp ((placesOf s p fp).filter (· != k) ++ [k])) e (placeByte fp k) (ofWords x.words)
  | none => s

/-- Takes the entry of a fingerprint out of its bucket: its place reads as zero (DESIGN CHOICE, log entry 31). -/
def dropPlace (s : State) (p fp : Nat) : State :=
  match extNamed s p, inBucket s p fp with
  | some e, some x => writeHbm (setPlaces s p fp ((placesOf s p fp).filter (· != x.1))) e (placeByte fp x.1) (List.replicate 16 0#8)
  | _, _ => s

/-- Whether the bucket of a fingerprint reads as poison (R518). -/
def bucketPoisoned (s : State) (p fp : Nat) : Bool :=
  match extNamed s p with
  | some e => hbmPoisoned s e (4096 * bucketOfFp fp) 4096
  | none => false

/-- The entry of greatest AGE, lowest fingerprint among equals (R237). -/
def oldest : List SnareEntry → Option SnareEntry
  | [] => none
  | e :: r => match oldest r with
    | none => some e
    | some x => if x.age > e.age ∨ (x.age = e.age ∧ x.fp < e.fp) then some x else some e

/-- Puts an entry into the extension: where its fingerprint stands, else in the lowest free place, else in the place of the entry of greatest AGE, of several the one of
lowest fingerprint (DESIGN CHOICE, log entry 31: R239 names only the AGE, and no order of the places). -/
def extPut (s : State) (p : Nat) (e : SnareEntry) : State :=
  let free := (List.range 256).find? fun k => !(placesOf s p e.fp).contains k
  let old := ((oldest ((getBucket s p e.fp).map (·.2))).bind fun x => inBucket s p x.fp).map (·.1)
  match (inBucket s p e.fp).map (·.1), free, old with
  | some k, _, _ => putPlace s p e.fp k e
  | none, some k, _ => putPlace s p e.fp k e
  | none, none, some k => putPlace s p e.fp k e
  | none, none, none => s

/-! ### Insertion, eviction, removal (R236 to R238) -/

/-- The target block of a fingerprint by the directory (R232): the last block whose lowest fingerprint is not above it, else the first one that holds
entries, else the first. -/
def targetBlock (s : State) (p fp : Nat) : Option Nat :=
  let bs := snareBlocks s p
  let held := bs.filter fun b => !(getBlock s b).all.isEmpty
  match (held.filter fun b => (getBlock s b).all.any fun e => decide (e.fp ≤ fp)).getLast? with
  | some b => some b
  | none => match held.head? with
    | some b => some b
    | none => bs.head?

/-- Highest and lowest entries of a block. -/
def topEntry (x : SnareBlock) : Option SnareEntry := x.all.foldl (fun a e => match a with
  | none => some e
  | some y => if e.fp > y.fp then some e else some y) none
def lowEntry (x : SnareBlock) : Option SnareEntry := x.all.foldl (fun a e => match a with
  | none => some e
  | some y => if e.fp < y.fp then some e else some y) none

/-- Room in a block. -/
def SnareBlock.room (x : SnareBlock) : Bool := decide (x.all.length < 4096)

/-- Writes a new entry into its block, where its shift then runs in the background (R236). -/
def writeEntry (s : State) (b : Nat) (e : SnareEntry) : State := modBlock s b fun x => { x with shifting := x.shifting ++ [e] }

/-- Puts an entry that a neighbour passed on into its place in a block. -/
def moveIn (s : State) (b : Nat) (e : SnareEntry) : State := modBlock s b fun x => { x with entries := placeEntry e x.entries }

/-- Inserts an entry into the first block of a list: each full block passes on what then lies beyond its other entries, be it the entry it was given, to the next
block (R237). `up` says that the list ascends and highest entries move; otherwise it descends and lowest ones move. `put_` writes the entry in its block. -/
def passOn (up : Bool) (put_ : State → Nat → SnareEntry → State) : List Nat → State → SnareEntry → State
  | [], s, _ => s
  | b :: r, s, e =>
    if (getBlock s b).room then put_ s b e
    else
      let far := if up then topEntry (getBlock s b) else lowEntry (getBlock s b)
      match far with
      | none => put_ s b e
      | some x =>
        if (if up then decide (e.fp > x.fp) else decide (e.fp < x.fp)) then passOn up put_ r s e
        else passOn up moveIn r (put_ (modBlock s b (·.drop x.fp)) b e) x

/-- What an insertion did: a new entry, or one that was present; evictions to the extension and drops. -/
structure Inserted where
  new : Nat := 0
  present : Nat := 0
  moved : Nat := 0
  dropped : Nat := 0

/-- Inserts an entry that is not present (R236, R237). -/
def insertNew (s : State) (p : Nat) (e : SnareEntry) : State × Inserted :=
  match targetBlock s p e.fp with
  | none => (s, {})
  | some b =>
    if (getBlock s b).room then (writeEntry s b e, { new := 1 })
    else
      let up := (snareBlocks s p).dropWhile (· != b)
      let down := ((snareBlocks s p).takeWhile (· != b)).reverse
      let free := fun (x : Nat) => (getBlock s x).room
      match up.findIdx? free, (b :: down).findIdx? free with
      | some i, some j =>
        (passOn (decide (i ≤ j)) writeEntry (if i ≤ j then up else b :: down) s e, { new := 1 })
      | some _, none => (passOn true writeEntry up s e, { new := 1 })
      | none, some _ => (passOn false writeEntry (b :: down) s e, { new := 1 })
      | none, none =>
        match oldest (getBlock s b).all with
        | none => (s, {})
        | some x =>
          let s := modBlock s b (·.drop x.fp)
          match extNamed s p with
          | some _ => (writeEntry (extPut s p x) b e, { new := 1, moved := 1 })
          | none => (writeEntry s b e, { new := 1, dropped := 1 })

/-- Inserts an entry, or meets the present one, be it on chip or in the extension (R232, R238); one that stands in a poisoned bucket cannot be met, and gives way. -/
def indexInsert (s : State) (p fp page seq : Nat) (replace : Bool) : State × Inserted :=
  let renew := fun (e : SnareEntry) => { e with age := 0, seq := if replace then seq else e.seq, page := if replace then page else e.page }
  match findEntry s p fp, inBucket s p fp with
  | some (b, _), _ => (modBlock s b (·.adjust fp renew), { present := 1 })
  | none, some (k, x) =>
    if bucketPoisoned s p fp then insertNew (dropPlace s p fp) p { fp := fp, seq := seq, page := page }
    else (putPlace s p fp k (renew x), { present := 1 })
  | none, none => insertNew s p { fp := fp, seq := seq, page := page }

/-- Removes the entry of a fingerprint, on chip or in the extension; whether there was one. -/
def indexRemove (s : State) (p fp : Nat) : State × Bool :=
  match findEntry s p fp with
  | some (b, _) => (modBlock s b (·.drop fp), true)
  | none => (dropPlace s p fp, (inBucket s p fp).isSome)

/-- A probe's hit sets AGE to 0 (R238). -/
def indexHit (s : State) (p fp : Nat) : State :=
  match findEntry s p fp, inBucket s p fp with
  | some (b, _), _ => modBlock s b (·.adjust fp fun e => { e with age := 0 })
  | none, some (k, x) => putPlace s p fp k { x with age := 0 }
  | none, none => s

/-- Moves an entry of the extension back on chip (R239). -/
def indexPromote (s : State) (p fp : Nat) : State :=
  match inBucket s p fp with
  | some (_, e) => (insertNew (dropPlace s p fp) p { e with age := 0 }).1
  | none => s

/-- A pass of the parity scan raises the AGE of every entry of the extensions too (R238). -/
def ageExtension (s : State) : State :=
  s.snare.ext.foldl (fun s b => (getBucket s b.1.1 b.1.2).foldl (fun s x => putPlace s b.1.1 b.1.2 x.1 { x.2 with age := min 15 (x.2.age + 1) }) s) s

/-- Drops every entry of a partition's extension (R556). -/
def dropExtension (s : State) (p : Nat) : State := { s with snare := { s.snare with ext := s.snare.ext.filter fun e => e.1.1 != p } }

end Sys2Proof
end

