-- ==== Sys2Proof/Machine/Formats.lean ====
section
/-!
DEFINITION. The fifteen number formats (R171 to R173): exact values of codes as signed rationals, and rounding to nearest with ties to
even (R187).
-/
namespace Sys2Proof

/-- The exact value of a code: a signed rational num / den, an infinity or NaN. -/
inductive FVal where
  | fin (neg : Bool) (num den : Nat)
  | inf (neg : Bool)
  | nan
deriving DecidableEq, Repr

/-- v × 2^k as a rational. -/
def scale2 (neg : Bool) (v : Nat) (k : Int) : FVal :=
  if k ≥ 0 then .fin neg (v * 2 ^ k.toNat) 1 else .fin neg v (2 ^ (-k).toNat)

def FVal.mul : FVal → FVal → FVal
  | .nan, _ => .nan
  | _, .nan => .nan
  | .inf a, .inf b => .inf (a != b)
  | .inf a, .fin b n _ => if n = 0 then .nan else .inf (a != b)
  | .fin b n _, .inf a => if n = 0 then .nan else .inf (a != b)
  | .fin a n d, .fin b n' d' => .fin (a != b) (n * n') (d * d')

/-- Division by a finite non-zero value. -/
def FVal.div : FVal → FVal → FVal
  | .fin a n d, .fin b n' d' => if n' = 0 then .nan else .fin (a != b) (n * d') (d * n')
  | .inf a, .fin b _ _ => .inf (a != b)
  | _, _ => .nan

/-- |a| < |b| and |a| ≤ |b| of finite values. -/
def FVal.absLt : FVal → FVal → Bool
  | .fin _ n d, .fin _ n' d' => decide (n * d' < n' * d)
  | .fin _ _ _, .inf _ => true
  | _, _ => false
def FVal.absLe (a b : FVal) : Bool := !b.absLt a
def FVal.isZero : FVal → Bool
  | .fin _ n _ => n == 0
  | _ => false
def FVal.isFin : FVal → Bool
  | .fin _ _ _ => true
  | _ => false

/-- A floating layout: exponent bits, mantissa bits, bias, and whether the top exponent holds infinities and NaN (IEEE). -/
structure FloatFmt where
  eb : Nat
  mb : Nat
  bias : Nat
  ieee : Bool
  /-- FP8-E4M3: only S.1111.111 is NaN, and there is no infinity. -/
  e4m3 : Bool := false
deriving DecidableEq, Repr

def fp32 : FloatFmt := { eb := 8, mb := 23, bias := 127, ieee := true }
def bf16 : FloatFmt := { eb := 8, mb := 7, bias := 127, ieee := true }
def fp16 : FloatFmt := { eb := 5, mb := 10, bias := 15, ieee := true }
def e4m3 : FloatFmt := { eb := 4, mb := 3, bias := 7, ieee := false, e4m3 := true }
def e5m2 : FloatFmt := { eb := 5, mb := 2, bias := 15, ieee := true }
def e3m2 : FloatFmt := { eb := 3, mb := 2, bias := 3, ieee := false }
def e2m3 : FloatFmt := { eb := 2, mb := 3, bias := 1, ieee := false }
def e2m1 : FloatFmt := { eb := 2, mb := 1, bias := 1, ieee := false }

/-- The exact value of a floating code (R172). -/
def FloatFmt.value (f : FloatFmt) (code : Nat) : FVal :=
  let neg := (code >>> (f.eb + f.mb)) % 2 == 1
  let e := (code >>> f.mb) % 2 ^ f.eb
  let m := code % 2 ^ f.mb
  if f.ieee ∧ e = 2 ^ f.eb - 1 then (if m = 0 then .inf neg else .nan)
  else if f.e4m3 ∧ e = 15 ∧ m = 7 then .nan
  else if e = 0 then scale2 neg m (1 - f.bias - f.mb)
  else scale2 neg (2 ^ f.mb + m) (e - f.bias - f.mb)

/-- The largest finite code magnitude of a floating format. -/
def FloatFmt.maxCode (f : FloatFmt) : Nat :=
  if f.ieee then 2 ^ (f.eb + f.mb) - 2 ^ f.mb - 1 else if f.e4m3 then 2 ^ (f.eb + f.mb) - 2 else 2 ^ (f.eb + f.mb) - 1

/-- ⌊log2 (n / d)⌋ of a positive rational. -/
def ilog (n d : Nat) : Int :=
  let k : Int := (Nat.log2 n : Int) - Nat.log2 d
  let below := if k ≥ 0 then decide (n < d * 2 ^ k.toNat) else decide (n * 2 ^ (-k).toNat < d)
  if below then k - 1 else k

/-- n / d rounded to the nearest integer, ties to even. -/
def rne (n d : Nat) : Nat :=
  let q := n / d
  let r := n % d
  if 2 * r > d ∨ (2 * r = d ∧ q % 2 = 1) then q + 1 else q

/-- The magnitude code nearest to n / d with an unbounded exponent, so that a value past the largest finite one gives a code past it. -/
def FloatFmt.roundMag (f : FloatFmt) (n d : Nat) : Nat :=
  if n = 0 then 0 else
  let e := max (ilog n d) (1 - f.bias)
  let sh : Int := e - f.mb
  let q := if sh ≥ 0 then rne n (d * 2 ^ sh.toNat) else rne (n * 2 ^ (-sh).toNat) d
  -- the exponent field of a normal value is e + bias, its code (e + bias − 1) × 2^mb + q; the same sum serves subnormals
  ((e + f.bias - 1).toNat) * 2 ^ f.mb + q

/-- Rounds to the format with ties to even; a value past the largest finite code becomes infinite where the format has one. -/
def FloatFmt.round (f : FloatFmt) (v : FVal) : Nat :=
  let top := 2 ^ (f.eb + f.mb)
  match v with
  | .nan => if f.ieee then top - 2 ^ f.mb / 2 else top - 1
  | .inf neg => b2n neg * top + (if f.ieee then top - 2 ^ f.mb else f.maxCode)
  | .fin neg n d =>
    let c := f.roundMag n d
    b2n neg * top + (if c > f.maxCode then (if f.ieee then top - 2 ^ f.mb else f.maxCode) else c)

/-- Whether rounding passes the largest finite code. -/
def FloatFmt.overflows (f : FloatFmt) (v : FVal) : Bool :=
  match v with
  | .fin _ n d => decide (f.roundMag n d > f.maxCode)
  | _ => true

/-- Element kinds of the page formats: a floating code, or an integer of a width with the exponent of its unit. -/
inductive ElemFmt where
  | float (f : FloatFmt)
  | int (bits : Nat) (unit : Int)
deriving DecidableEq, Repr

/-- Element bits, element kind and whether the format has block scales, by format code (R171, R173); none for CB16, the three plain floats
and illegal codes. -/
def pageFmt (code : Nat) : Option (Nat × ElemFmt × Bool) :=
  match code with
  | 0x10 => some (8, .float e4m3, false)
  | 0x11 => some (8, .float e5m2, false)
  | 0x12 => some (6, .float e3m2, false)
  | 0x13 => some (6, .float e2m3, false)
  | 0x14 => some (4, .float e2m1, false)
  | 0x18 => some (8, .int 8 0, false)
  | 0x19 => some (4, .int 4 0, false)
  | 0x20 => some (8, .float e4m3, true)
  | 0x21 => some (6, .float e2m3, true)
  | 0x22 => some (4, .float e2m1, true)
  | 0x23 => some (8, .int 8 (-6), true)
  | _ => none

/-- The value of an element code. -/
def ElemFmt.value (f : ElemFmt) (code : Nat) : FVal :=
  match f with
  | .float f => f.value code
  | .int b u =>
    let c := code % 2 ^ b
    if c < 2 ^ (b - 1) then scale2 false c u else scale2 true (2 ^ b - c) u

/-- The value of an E8M0 block scale (R173). -/
def e8m0 (b : Nat) : FVal := if b = 255 then .nan else scale2 false 1 ((b : Int) - 127)

/-- Head dimension by its DIM code (R92). -/
def dimOf (code : Nat) : Option Nat := [64, 96, 128, 192, 256][code]?

/-- Bytes of one token's K and V of one head in a page format (R93: bytes per page divided by 16). -/
def tokenBytes (fmt dim : Nat) : Nat :=
  if fmt = 0x30 then 4 * dim
  else match pageFmt fmt with
    | some (bits, _, mx) => 2 * (dim * bits / 8 + (if mx then dim / 32 else 0))
    | none => 0

/-- Bytes of a page (R76). -/
def pageBytes (fmt dim : Nat) : Nat := 16 * tokenBytes fmt dim

/-- Rows that a page needs (R76). -/
def pageRows (fmt dim : Nat) : Nat := ceilDiv (pageBytes fmt dim) 1024

/-- The element codes of a run of bytes, packed from the least significant bit upward (R75). -/
def unpack (bits : Nat) (bs : List Byte) (n : Nat) : List Nat :=
  let v := ofLe bs
  (List.range n).map fun k => (v >>> (bits * k)) % 2 ^ bits

/-- Packs element codes from the least significant bit upward. -/
def pack (bits : Nat) (codes : List Nat) : List Byte :=
  let v := (codes.foldr (fun c acc => c % 2 ^ bits + 2 ^ bits * acc) 0)
  leBytes (codes.length * bits / 8) v

end Sys2Proof
end

