-- ==== Sys2Proof/Machine/Coding.lean ====
section
/-!
DEFINITION. CB16 exponent coding (R202 to R206): canonical codes, coded bodies, and decoding of a body.
-/
namespace Sys2Proof

/-- The 257 code lengths of a table sorted by length and then symbol: the order of R205. -/
def codeOrder (lengths : List Nat) : List (Nat × Nat) :=
  ((List.range 16).drop 1).flatMap fun n => (List.range 257).filterMap fun k => if lengths.getD k 0 = n then some (k, n) else none

/-- Canonical codes (R205): symbol, length, code. -/
def canonCodes : List (Nat × Nat) → Nat → Nat → List (Nat × Nat × Nat)
  | [], _, _ => []
  | (k, n) :: r, next, last =>
    let c := next <<< (n - last)
    (k, n, c) :: canonCodes r (c + 1) n

/-- The codes of a table. -/
def codesOf (lengths : List Nat) : List (Nat × Nat × Nat) :=
  match codeOrder lengths with
  | [] => []
  | (k, n) :: r => canonCodes ((k, n) :: r) 0 n

/-- The bits of a code, most significant first. -/
def codeBits (n c : Nat) : List Bool := (List.range n).map fun k => (c >>> (n - 1 - k)) % 2 == 1

/-- The bits that an exponent takes: its own code, or ESC and its eight bits (R204). -/
def expBits (codes : List (Nat × Nat × Nat)) (e : Nat) : List Bool :=
  match codes.find? fun x => x.1 == e with
  | some (_, n, c) => codeBits n c
  | none =>
    match codes.find? fun x => x.1 == 256 with
    | some (_, n, c) => codeBits n c ++ codeBits 8 e
    | none => codeBits 8 e

/-- Packs bits into bytes from the most significant bit downward. -/
def packBits : Nat → List Bool → List Byte
  | 0, _ => []
  | n + 1, bs =>
    let b := (List.range 8).foldl (fun acc k => 2 * acc + b2n (bs.getD k false)) 0
    BitVec.ofNat 8 b :: packBits n (bs.drop 8)

/-- The coded body of a block of 16-bit words (R203): sign-mantissa bytes, then the exponent stream, filled to a multiple of 16 bytes. -/
def codedBody (lengths : List Nat) (words : List Nat) : List Byte :=
  let codes := codesOf lengths
  let sm := words.map fun w => BitVec.ofNat 8 ((w >>> 15) * 128 + w % 128)
  let bits := words.flatMap fun w => expBits codes ((w >>> 7) % 256)
  let n := words.length + ceilDiv bits.length 8
  let total := ceilDiv n 16 * 16
  sm ++ packBits (total - words.length) bits

/-- A block is coded when its coded body fits within 15/16 of its uncoded size (R202). -/
def codeBlock (lengths : Option (List Nat)) (raw : List Byte) : Bool × List Byte :=
  match lengths with
  | none => (false, raw)
  | some l =>
    let body := codedBody l (unpack 16 raw (raw.length / 2))
    if 16 * body.length ≤ 15 * raw.length then (true, body) else (false, raw)

/-- The symbol whose code stands at the front of the bits, with the bits after it. -/
def takeSym (codes : List (Nat × Nat × Nat)) (bits : List Bool) : Option (Nat × List Bool) :=
  (codes.find? fun x => bits.take x.2.1 == codeBits x.2.1 x.2.2 && decide (x.2.1 ≤ bits.length)).map fun x => (x.1, bits.drop x.2.1)

/-- Decodes n exponents, with the bits left over; none when the stream ends or no code fits. -/
def decodeExps (codes : List (Nat × Nat × Nat)) : Nat → List Bool → Option (List Nat × List Bool)
  | 0, bits => some ([], bits)
  | n + 1, bits =>
    match takeSym codes bits with
    | none => none
    | some (256, r) =>
      if r.length < 8 then none
      else
        let e := (r.take 8).foldl (fun acc b => 2 * acc + b2n b) 0
        (decodeExps codes n (r.drop 8)).map fun x => (e :: x.1, x.2)
    | some (e, r) => (decodeExps codes n r).map fun x => (e :: x.1, x.2)

/-- Decodes the coded body of a block of n elements into its uncoded bytes (R203, R204), and says whether the exponent stream ends where the
body's length says it does (R227). -/
def decodeBody (lengths : List Nat) (n : Nat) (body : List Byte) : Option (List Byte × Bool) :=
  if body.length < n then none
  else
    let bits := (body.drop n).flatMap fun b => codeBits 8 b.toNat
    (decodeExps (codesOf lengths) n bits).map fun x =>
      let used := bits.length - x.2.length
      ((List.range n).flatMap fun k =>
        let sm := (body.getD k 0#8).toNat
        leBytes 2 ((sm >>> 7) * 2 ^ 15 + x.1.getD k 0 * 128 + sm % 128), body.length == ceilDiv (n + ceilDiv used 8) 16 * 16)

/-- Cuts a stream into blocks of at most 4,096 bytes (R202). -/
def cutBlocks : Nat → List Byte → List (List Byte)
  | 0, _ => []
  | n + 1, bs => bs.take 4096 :: cutBlocks n (bs.drop 4096)

/-- The blocks of a stream. -/
def blocksOf (bs : List Byte) : List (List Byte) := cutBlocks (ceilDiv bs.length 4096) bs

end Sys2Proof
end

