-- ==== Sys2Proof/Machine/StoreOps.lean ====
section
/-!
DEFINITION. The page store's shared operations: sequence records, head lists, control blocks, frames and where they go, the bytes of a page and
their seal (R75 to R108, R206 to R211).
-/
namespace Sys2Proof

open Machine (State Fault Refusal)

/-! ### Sequence records -/

def getSeq (s : State) (p seq : Nat) : Option SeqRec := lookup? (getPart s p).seqs seq

/-- The sequence that a station may read or change: hidden ones are named by nothing (R273). -/
def visibleSeq (s : State) (p seq : Nat) : Option SeqRec := (getSeq s p seq).filter fun r => !r.hidden

/-- Fields of the creation parameters (R92). -/
def SeqRec.layers (r : SeqRec) : Nat := fld r.params 63 56 + 1
def SeqRec.nheads (r : SeqRec) : Nat := fld r.params 55 50 + 1
def SeqRec.dimCode (r : SeqRec) : Nat := fld r.params 49 47
def SeqRec.dim (r : SeqRec) : Nat := (dimOf r.dimCode).getD 64
def SeqRec.policy (r : SeqRec) : Nat := fld r.params 46 45
def SeqRec.cls (r : SeqRec) : Nat := fld r.params 44 42
def SeqRec.promoteCls (r : SeqRec) : Nat := fld r.params 41 39
def SeqRec.format (r : SeqRec) : Nat := fld r.params 31 24
def SeqRec.window (r : SeqRec) : Nat := fld r.params 20 0

def SeqRec.headIdx (r : SeqRec) (l h : Nat) : Nat := l * r.nheads + h
def SeqRec.head (r : SeqRec) (l h : Nat) : HeadList := r.heads.getD (r.headIdx l h) {}
def SeqRec.setHead (r : SeqRec) (l h : Nat) (x : HeadList) : SeqRec := { r with heads := r.heads.set (r.headIdx l h) x }

/-- MIN_LENGTH and MAX_LENGTH over the head lists (R82). -/
def SeqRec.minLength (r : SeqRec) : Nat := r.heads.foldl (fun a h => min a h.length) (((r.heads.head?).map (·.length)).getD 0)
def SeqRec.maxLength (r : SeqRec) : Nat := r.heads.foldl (fun a h => max a h.length) 0

/-- The 64-byte record of a sequence (R82); HEAD_TABLE as the control block number of R81. -/
def SeqRec.record (s : State) (p seq : Nat) (r : SeqRec) : List Word :=
  let block := ((localExt s p r.headTable.ext).getD 0) * 65536 + r.headTable.first
  [put 63 32 seq ||| put 31 28 (if r.frozen then 2 else 1), r.params, put 63 32 r.promoted ||| put 26 0 block,
   put 63 32 r.spilled ||| put 24 0 r.minLength, put 24 0 r.maxLength, BitVec.ofNat 64 r.version, BitVec.ofNat 64 r.commitTime, 0#64]

/-- What a PLACE that raises VERSION stages (R82, R109); its commit sets COMMIT_TIME. -/
def SeqRec.touch (r : SeqRec) : SeqRec := { r with version := (r.version + 1) % 2 ^ 64 }

/-- The directory pointer that covers a page (R84). -/
def SeqRec.pointer (r : SeqRec) (page : Nat) : Nat := (if r.window = 0 then page else page % r.window) / 2048

/-- Row count of a frame class (R77), capacity of the sequence table (R82). -/
def classRows (s : State) (p c : Nat) : Nat := fld (getOwner s (ownerOf p)).frameClass (4 * c + 3) (4 * c) + 1
def seqCapacity (s : State) (p : Nat) : Nat := 2 ^ (max 10 (min 22 (fld (getOwner s (ownerOf p)).seqCap 4 0)))

/-! ### Control blocks (R81) -/

/-- The free runs between used blocks of a control extent: first block and length. `used` is sorted by first block. -/
def freeRuns (at_ : Nat) : List Blocks → List (Nat × Nat)
  | [] => if at_ < 61440 then [(at_, 61440 - at_)] else []
  | b :: r => (if at_ < b.first then [(at_, b.first - at_)] else []) ++ freeRuns (max at_ (b.first + b.count)) r

/-- Inserts a run in order of its first block. -/
def insertRun (b : Blocks) : List Blocks → List Blocks
  | [] => [b]
  | x :: r => if b.first ≤ x.first then b :: x :: r else x :: insertRun b r

/-- The control extents of a partition that may give blocks: one that a REMOVE_EXTENT in flight takes back gives none. -/
def controlExts (s : State) (p : Nat) : List Nat :=
  (s.extents.filter fun e => e.2.use == .control && e.2.claim.isNone && !pchFenced s (e.1 / 3) && pchOwner s (e.1 / 3) == some p).map (·.1)

/-- Takes n contiguous blocks of one control extent: none when no run is long enough. Which run is taken is a free value (log entry 8). -/
def takeBlocks (s : State) (p n : Nat) : Option (Blocks × State) :=
  if n = 0 then some ({ ext := 0, first := 0, count := 0 }, s) else
  let runs := (controlExts s p).flatMap fun e =>
    let used := ((getPart s p).blocks.filter fun b => b.ext == e).foldl (fun acc b => insertRun b acc) []
    ((freeRuns 0 used).filter fun r => decide (n ≤ r.2)).map fun r => (e, r)
  match runs with
  | [] => none
  | x :: xs =>
    let (v, s) := draw s
    let (e, f, len) := (x :: xs).getD (v % (xs.length + 1)) x
    let b : Blocks := { ext := e, first := f + (v / (xs.length + 1)) % (len - n + 1), count := n }
    some (b, modPart s p fun x => { x with blocks := b :: x.blocks })

/-- Gives blocks back. -/
def freeBlocks (s : State) (p : Nat) (b : Blocks) : State := modPart s p fun x => { x with blocks := x.blocks.erase b }

/-- Control blocks in use of an extent. -/
def blocksUsed (s : State) (p e : Nat) : Nat := (((getPart s p).blocks.filter fun b => b.ext == e).map (·.count)).sum

/-- Whether a run of control blocks cannot be read: it is poisoned, or lies in a fenced pseudo-channel (R511, R518). -/
def blockBad (s : State) (b : Blocks) : Bool := b.count != 0 && hbmPoisoned s b.ext (4096 * b.first) (4096 * b.count)

/-- Whether the sequence table of a partition is lost (R518). -/
def tableLost (s : State) (p : Nat) : Bool := (getPart s p).seqTable.any (blockBad s)

/-- Whether the entries of a page-list pointer of a head list can be reached (R518). -/
def reachable (s : State) (r : SeqRec) (h : HeadList) (page : Nat) : Bool :=
  !blockBad s r.headTable && !(h.directory.toList.any (blockBad s)) && !((lookup? h.lists (r.pointer page)).toList.any (blockBad s))

/-- Whether a sequence is lost: a control block that it needs lies in a fenced pseudo-channel, or is poisoned (R511, R518). -/
def seqLost (s : State) (p : Nat) (r : SeqRec) : Bool :=
  let x := getPart s p
  let exts := (r.heads.flatMap fun h => h.entries.filterMap fun e => match e.2 with
    | .frame f _ => some f.ext
    | .spilled _ _ => none).eraseDups
  (x.seqTable ++ x.leaseTable.toList ++ x.autoTable ++ [r.headTable]
    ++ (r.heads.flatMap fun h => h.directory.toList ++ h.lists.map (·.2))
    ++ exts.flatMap fun e => (lookup? x.frameTables e).toList ++ (lookup? x.wordTables e).toList).any (blockBad s)

/-- Whether a descriptor that names a sequence must complete with POISONED (R518). -/
def seqPoisoned (s : State) (p seq : Nat) : Bool := ((visibleSeq s p seq).map (seqLost s p)).getD false

/-! ### Frames (R77 to R79, R86, R106, R107) -/

/-- Bank unit number of a frame's bank pair: pseudo-channel × 16 + bank pair. -/
def FrameAddr.unit (f : FrameAddr) : Nat := (f.ext / 3) * 16 + f.pair
def FrameAddr.pch (f : FrameAddr) : Nat := f.ext / 3

def getUnit (s : State) (u : Nat) : UnitS := (lookup? s.units u).getD {}
def modUnit (s : State) (u : Nat) (f : UnitS → UnitS) : State := { s with units := assign s.units u (f (getUnit s u)) }

/-- The bank pairs that a range of a place lies in. R79 gives the layout of a page extent; other extents are taken to be laid out alike (DESIGN CHOICE, log entry 60). -/
def pairsOf (n : Nat) : Loc → List Nat
  | .hbm e off => ((List.range 16).filter fun b => decide (n ≠ 0 ∧ off / 2 ^ 24 ≤ b ∧ b ≤ (off + n - 1) / 2 ^ 24)).map fun b => e / 3 * 16 + b
  | _ => []

/-- Whether an ordinary access to a bank pair waits: the pair is running a chunk (R114), or all issue to its stack is paused at the fused temperature (R502). -/
def pairBusy (s : State) (u : Nat) : Bool := (getUnit s u).chunk.isSome || s.power.stackPaused.getD (u / 512) false

/-- Those of them that an ordinary access waits for. -/
def busyPairs (s : State) (n : Nat) (l : Loc) : List Nat := (pairsOf n l).filter (pairBusy s)

/-- A descriptor's access is queued at bank pairs (R114). -/
def queueAccess (s : State) (d : Desc) (us : List Nat) : State :=
  us.foldl (fun s u => modUnit s u fun x => { x with queue := (x.queue.filter fun e => !(e.1 == d.ctx && e.2 == d.index)) ++ [(d.ctx, d.index)] }) s

/-- The class of a page extent. -/
def extClass (s : State) (e : Nat) : Option Nat :=
  match (getExt s e).use with
  | .page c => some c
  | _ => none

/-- Whether a frame lies in a fenced bank pair or pseudo-channel. -/
def frameFenced (s : State) (f : FrameAddr) : Bool := (getUnit s f.unit).fenced || pchFenced s f.pch

/-- The record of a frame; when none is listed, that of a frame that nothing has taken since its extent was added: FREE, or FENCED. -/
def getFrame (s : State) (f : FrameAddr) : FrameRec :=
  (lookup? s.frames f).getD { state := if frameFenced s f then .fenced else .free }

/-- Sets the record of a frame. -/
def setFrame (s : State) (f : FrameAddr) (r : FrameRec) : State := { s with frames := assign s.frames f r }

/-- The frames of an extent have no records and block words any more: its frame table is new, or gone (R95). -/
def clearFrames (s : State) (e : Nat) : State :=
  { s with frames := s.frames.filter fun f => f.1.ext != e, words := s.words.filter fun f => f.1.ext != e }

/-- Frames of a bank pair that are not FREE. -/
def framesHeld (s : State) (u : Nat) : Nat := (s.frames.filter fun f => f.1.unit == u && f.2.state != .free).length

/-- Frames in a slice of a class with f rows (R78), and the byte at which a frame starts in its extent (R79). -/
def sliceFrames (rows : Nat) : Nat := 16384 / rows
def frameOffset (s : State) (p : Nat) (f : FrameAddr) : Nat :=
  f.pair * 2 ^ 24 + f.slot * classRows s p ((extClass s f.ext).getD 0) * 1024

/-- The page extents of a class in a partition. -/
def pageExts (s : State) (p c : Nat) : List Nat :=
  (s.extents.filter fun e => e.2.use == .page c && pchOwner s (e.1 / 3) == some p).map (·.1)

/-- The page extents of a class that new frames may come from: not one that a REMOVE_EXTENT in flight takes back. -/
def openExts (s : State) (p c : Nat) : List Nat := (pageExts s p c).filter fun e => (getExt s e).claim.isNone

/-- Whether another descriptor in flight is changing the role of an extent. -/
def claimedElse (s : State) (d : Desc) (e : Nat) : Bool :=
  match (getExt s e).claim with
  | some c => !(c.1 == d.ctx && c.2.1 == d.index)
  | none => false

/-- The unit list of a class (R106): by bank pair, then pseudo-channel within its stack, then stack, the stack fastest. A fenced pair is in no
list (R142). -/
def unitList (s : State) (p c : Nat) : List Nat :=
  let pchs := (openExts s p c).map (· / 3)
  let order := (List.range 32).flatMap fun k => (List.range 20).filterMap fun st => if pchs.contains (32 * st + k) then some (32 * st + k) else none
  ((List.range 16).flatMap fun b => order.map fun c => c * 16 + b).filter fun u => !(getUnit s u).fenced && !pchFenced s (u / 16)

/-- The frame that a unit gives out next: lowest extent, then lowest free slot (R106). -/
def unitFrame (s : State) (p c u : Nat) : Option FrameAddr :=
  (List.range 3).findSome? fun k =>
    let e := 3 * (u / 16) + k
    if (openExts s p c).contains e then
      (List.range (sliceFrames (classRows s p c))).findSome? fun slot =>
        let f : FrameAddr := { ext := e, pair := u % 16, slot := slot }
        if (getFrame s f).state == .free && !frameFenced s f then some f else none
    else none

/-- The unit index of a page before any unit fills (R107). -/
def placeIndex (seq l h heads page n : Nat) : Nat := ((seq * 0x9E3779B1) % 2 ^ 32 + l + heads * page + h) % n

/-- A frame is taken from the free pool: FILL and REFS 0, the rest of its record as it was (R108). -/
def reserveFrame (s : State) (f : FrameAddr) : State := setFrame s f { getFrame s f with state := .reserved, fill := 0, refs := 0 }

/-- A RESERVED frame goes back to the free pool when its descriptor ends without it (R108). -/
def unreserve (s : State) (f : FrameAddr) : State :=
  if (getFrame s f).state = .reserved then setFrame s f { getFrame s f with state := .free } else s

/-- A new frame for a page: at its unit, or at the next unit in list order that has one (R107); it goes RESERVED (R100). -/
def takeFrame (s : State) (p c seq l h heads page : Nat) : Option (FrameAddr × State) :=
  let us := unitList s p c
  if us.length = 0 then none else
  let u := placeIndex seq l h heads page us.length
  ((us.drop u ++ us.take u).findSome? fun x => unitFrame s p c x).map fun f => (f, reserveFrame s f)

/-- A dropped entry: REFS falls by one, and an unused frame is FREE, or RELEASED while it is pinned (R95, R102, R108). -/
def dropFrame (s : State) (f : FrameAddr) : State :=
  let r := getFrame s f
  let n := r.refs - 1
  if r.state = .fenced then setFrame s f { r with refs := n }
  else if n = 0 then setFrame s f { r with refs := 0, state := if r.pins = 0 then .free else .released }
  else setFrame s f { r with refs := n }

/-- Takes and releases a pin (R89, R90). -/
def pinFrame (s : State) (f : FrameAddr) : State := setFrame s f { getFrame s f with pins := (getFrame s f).pins + 1 }
def unpinFrame (s : State) (f : FrameAddr) : State :=
  let r := getFrame s f
  if r.state = .released ∧ r.pins ≤ 1 then setFrame s f { r with state := .free, pins := 0 } else setFrame s f { r with pins := r.pins - 1 }

/-! ### The bytes of a page (R75, R208) -/

/-- Element bytes and scale bytes of one token's K (or V) part. -/
def tokenShape (fmt dim : Nat) : Nat × Nat :=
  if fmt = 0x30 then (2 * dim, 0)
  else match pageFmt fmt with
    | some (bits, _, mx) => (dim * bits / 8, if mx then dim / 32 else 0)
    | none => (0, 0)

/-- One token of one head: K elements, K scales, V elements, V scales. -/
structure Token where
  k : List Byte
  ks : List Byte
  v : List Byte
  vs : List Byte
deriving DecidableEq, Repr

/-- Token j of n tokens laid out as a page is, with 16 replaced by n (R75, R93). -/
def tokenAt (fmt dim n : Nat) (bs : List Byte) (j : Nat) : Token :=
  let (e, x) := tokenShape fmt dim
  let v := n * (e + x)
  { k := slice bs (j * e) e, ks := slice bs (n * e + j * x) x, v := slice bs (v + j * e) e, vs := slice bs (v + n * e + j * x) x }

/-- Puts a token at place j of a page image of 16 tokens. -/
def putToken (fmt dim : Nat) (page : List Byte) (j : Nat) (t : Token) : List Byte :=
  let (e, x) := tokenShape fmt dim
  let v := 16 * (e + x)
  overlay (overlay (overlay (overlay page (j * e) t.k) (16 * e + j * x) t.ks) (v + j * e) t.v) (v + 16 * e + j * x) t.vs

/-- The elements of one part as BF16: element value times block scale, rounded (R197). -/
def partBf16 (fmt dim : Nat) (es scales : List Byte) : List (BitVec 16) :=
  match pageFmt fmt with
  | none => (unpack 16 es dim).map fun c => BitVec.ofNat 16 c
  | some (bits, f, mx) =>
    (unpack bits es dim).mapIdx fun c code =>
      let v := f.value code
      let v := if mx then v.mul (e8m0 ((scales.getD (c / 32) 0#8).toNat)) else v
      BitVec.ofNat 16 (bf16.round v)

def bytes16 (ws : List (BitVec 16)) : List Byte := ws.flatMap fun w => leBytes 2 w.toNat

/-- A token converted to CB16's uncoded BF16 (R197). -/
def Token.promote (t : Token) (fmt dim : Nat) : Token :=
  { k := bytes16 (partBf16 fmt dim t.k t.ks), ks := [], v := bytes16 (partBf16 fmt dim t.v t.vs), vs := [] }

/-- Blocks of an uncoded CB16 page: bytes each block covers (R208). -/
def cb16Blocks (dim : Nat) : List Nat :=
  (List.range (ceilDiv (64 * dim) 4096)).map fun i => min 4096 (64 * dim - 4096 * i)

/-- The block word of a raw block without a check value (R209, R210). -/
def rawWord (n : Nat) : Word := put 60 48 n

/-- The stored bytes of a frame's page, in block order for CB16 (R98, R208). -/
def storedBytes (s : State) (p : Nat) (f : FrameAddr) (fmt dim : Nat) : List Byte :=
  let a := hbmAddr f.ext (frameOffset s p f)
  if fmt = 0x30 then
    let ws := (lookup? s.words f).getD ((cb16Blocks dim).map rawWord)
    ((ws.take 4).mapIdx fun i w => Memory.readBytes s.hbm (a + 4096 * i) (fld w 60 48)).flatten
  else Memory.readBytes s.hbm a (pageBytes fmt dim)

/-- How a block of a page fails: its table is gone (R217), or it does not decode or its check value differs (R211, R227). -/
inductive BlockFail where
  | retired | mismatch
deriving DecidableEq, Repr

/-- The uncoded bytes of one framed block, with the decode tables held (R209, R211, R212). -/
def decodeFramed (tables : List (Option DecodeTable)) (n : Nat) (w : Word) (body : List Byte) : Except BlockFail (List Byte) :=
  let raw : Except BlockFail (List Byte) :=
    if bit w 63 then
      match tables.getD (fld w 62 62) none with
      | some t =>
        if t.version = fld w 47 32 then
          match decodeBody t.lengths (n / 2) body with
          | some (x, tight) => if tight then .ok x else .error .mismatch
          | none => .error .mismatch
        else .error .retired
      | none => .error .retired
    else .ok body
  match raw with
  | .error e => .error e
  | .ok x => if bit w 61 && (crc32c x).toNat != fld w 31 0 then .error .mismatch else .ok x

/-- The uncoded bytes of a CB16 page from its block words and stored blocks. -/
def decodeBlocks (tables : List (Option DecodeTable)) : List (Nat × Word × List Byte) → Except BlockFail (List Byte)
  | [] => .ok []
  | (n, w, body) :: r =>
    match decodeFramed tables n w body, decodeBlocks tables r with
    | .ok x, .ok y => .ok (x ++ y)
    | .error e, _ => .error e
    | _, .error e => .error e

/-- Whether the first k tokens of a page need block i of its uncoded K and V parts (R211). -/
def blockNeeded (dim k i : Nat) : Bool :=
  let hits := fun (a n : Nat) => decide (n ≠ 0 ∧ a < 4096 * i + 4096 ∧ 4096 * i < a + n)
  hits 0 (2 * dim * k) || hits (32 * dim) (2 * dim * k)

/-- The blocks of a page of which only the ones that the first k tokens need are decoded; the others stand as zeros. -/
def onlyNeeded (dim k : Nat) (bs : List (Nat × Word × List Byte)) : List (Nat × Word × List Byte) :=
  bs.mapIdx fun i b => if blockNeeded dim k i then b else (b.1, rawWord b.1, List.replicate b.1 0#8)

/-- Cuts stored bytes into the blocks that block words describe. -/
def cutStored (dim : Nat) (ws : List Word) (bs : List Byte) : List (Nat × Word × List Byte) :=
  let lens := (cb16Blocks dim).mapIdx fun i _ => fld (ws.getD i 0#64) 60 48
  (cb16Blocks dim).mapIdx fun i n => (n, ws.getD i 0#64, slice bs ((lens.take i).sum) (lens.getD i 0))

/-- The CB16 blocks of a frame's page with their words. -/
def frameBlocks (s : State) (p : Nat) (f : FrameAddr) (dim : Nat) : List (Nat × Word × List Byte) :=
  cutStored dim ((lookup? s.words f).getD ((cb16Blocks dim).map rawWord)) (storedBytes s p f 0x30 dim)

/-- The page image of a frame (uncoded for CB16), for a reader that holds the decode tables. -/
def pageImage (s : State) (p : Nat) (f : FrameAddr) (fmt dim : Nat) (tables : List (Option DecodeTable)) : Except BlockFail (List Byte) :=
  if fmt = 0x30 then decodeBlocks tables (frameBlocks s p f dim) else .ok (storedBytes s p f fmt dim)

/-- The page image of a spilled page. -/
def spillImage (x : SpillPage) (dim : Nat) (tables : List (Option DecodeTable)) : Except BlockFail (List Byte) :=
  if x.format = 0x30 then decodeBlocks tables (cutStored dim x.words x.bytes) else .ok x.bytes

/-- Whether a frame's page reads as poisoned. -/
def pagePoisoned (s : State) (p : Nat) (f : FrameAddr) (fmt dim : Nat) : Bool :=
  hbmPoisoned s f.ext (frameOffset s p f) (max 1 (if fmt = 0x30 then 64 * dim else pageBytes fmt dim))

/-- Seals a frame (R98, R210): codes the blocks of a CB16 page with the table in hand, sets their check values, and computes the page CHECK. -/
def sealFrame (s : State) (p : Nat) (f : FrameAddr) (fmt dim : Nat) (code : Option (Nat × DecodeTable)) : Nat × State :=
  if fmt = 0x30 then
    let raw := Memory.readBytes s.hbm (hbmAddr f.ext (frameOffset s p f)) (64 * dim)
    let blocks := (cb16Blocks dim).mapIdx fun i n =>
      let x := slice raw (4096 * i) n
      let (coded, body) := codeBlock (code.map fun c => c.2.lengths) x
      let w := put 60 48 body.length ||| put 31 0 (crc32c x).toNat ||| put 61 61 1
      let w := if coded then w ||| put 63 63 1 ||| put 62 62 ((code.map (·.1)).getD 0) ||| put 47 32 ((code.map fun c => c.2.version).getD 0) else w
      (w, body)
    let s := (List.range blocks.length).foldl (fun s i => writeHbm s f.ext (frameOffset s p f + 4096 * i) ((blocks.getD i (0#64, [])).2)) s
    ((crc32c ((blocks.map (·.2)).flatten)).toNat, { s with words := assign s.words f (blocks.map (·.1)) })
  else ((crc32c (storedBytes s p f fmt dim)).toNat, s)

end Sys2Proof
end

