-- ==== Sys2Proof/Machine/Effects.lean ====
section
/-!
DEFINITION. What a commit does to the state that other descriptors read (R70, R71): each staged change is applied to the state as it then stands.
-/
namespace Sys2Proof

open Machine (State Fault Refusal)

/-- A place in the tables of a partition that no sequence has, the first one from place `v` on: the spec does not say which a new sequence takes (log entry 8). -/
def freePlace (s : State) (p v : Nat) : Nat :=
  let x := getPart s p
  let cap := seqCapacity s p
  (((List.range (x.seqs.length + 1)).map fun k => (v + k) % cap).find? fun k => !(x.seqs.any fun q => q.2.place == k)).getD (v % cap)

/-- Sets a sequence record at a commit, which is its COMMIT_TIME (R82), keeping what the lock does not cover: automaton, epoch, lease, hiding (R88, R250, R272), and
its place. -/
def putSeqRec (s : State) (p seq : Nat) (r : SeqRec) : State :=
  let r := { r with commitTime := stamp s }
  match getSeq s p seq with
  | some old => modPart s p fun x =>
      { x with seqs := assign x.seqs seq { r with place := old.place, automaton := old.automaton, epoch := old.epoch, lease := old.lease, hidden := old.hidden } }
  | none =>
    let (v, s) := draw s
    modPart s p fun x => { x with seqs := assign x.seqs seq { r with place := freePlace s p v } }

/-- Frees the control blocks of a head list (R84). -/
def freeHead (s : State) (p : Nat) (h : HeadList) : State :=
  let s := match h.directory with
    | some b => freeBlocks s p b
    | none => s
  h.lists.foldl (fun s b => freeBlocks s p b.2) s

/-- Frees a spill slot (R396). -/
def freeSpillSlot (s : State) (p slot : Nat) : State := modFlash s p fun x => { x with spill := erase x.spill slot }

/-- Drops an entry of a head list: REFS of its frame falls, or its spill slot is freed (R95, R102, R396). -/
def dropEntry (s : State) (p : Nat) (e : Entry) : State :=
  match e with
  | .frame f _ => dropFrame s f
  | .spilled k _ => freeSpillSlot s p k

/-- Whether a staged change makes or keeps a sequence of a partition. -/
def Effect.keepsSeq (p : Nat) : Effect → Bool
  | .putSeq q _ _ => q == p
  | _ => false

/-- Frees the partition's tables when its last sequence has left and no CREATE or FORK is in flight (log entry 8). -/
def freeTables (s : State) (p : Nat) : State :=
  let x := getPart s p
  if x.seqs.isEmpty && !(s.flight.any fun d => d.effects.any (Effect.keepsSeq p)) then
    let s := (x.leaseTable.toList ++ x.seqTable).foldl (fun s b => freeBlocks s p b) s
    modPart s p fun x => { x with seqTable := [], leaseTable := none }
  else s

/-- Removes a sequence (R95 FREE): entries dropped, control blocks and spill slots freed. -/
def removeSeq (s : State) (p seq : Nat) : State :=
  match getSeq s p seq with
  | none => s
  | some r =>
    -- what lies behind a lost control block cannot be reached, and its frames stay out of the free pool (R518)
    let s := r.heads.foldl (fun s h => freeHead ((h.entries.filter fun e => reachable s r h e.1).foldl (fun s e => dropEntry s p e.2) s) p h) s
    let s := freeBlocks s p r.headTable
    freeTables (modPart s p fun x => { x with seqs := erase x.seqs seq }) p

/-- The CHECK of a full page in a FENCED frame, which is not written again (R142): over the bytes as they stand, the blocks of a CB16 page being raw ones. -/
def fencedCheck (s : State) (p : Nat) (f : FrameAddr) (fmt dim : Nat) : Nat × State :=
  if fmt = 0x30 then
    let raw := Memory.readBytes s.hbm (hbmAddr f.ext (frameOffset s p f)) (64 * dim)
    let ws := (cb16Blocks dim).mapIdx fun i n => rawWord n ||| put 61 61 1 ||| put 31 0 (crc32c (slice raw (4096 * i) n)).toNat
    ((crc32c raw).toNat, { s with words := assign s.words f ws })
  else ((crc32c (storedBytes s p f fmt dim)).toNat, s)

/-- Commits a written frame (R97, R98, R108, R210). -/
def fillFrame (s : State) (p : Nat) (f : FrameAddr) (fill fmt dim writer : Nat) (fresh : Bool) (code : Option (Nat × DecodeTable)) : State :=
  let r := getFrame s f
  let r := { r with fill := fill, format := fmt, writer := writer, refs := if fresh then 1 else r.refs }
  if r.state = .fenced then
    if fill = 16 then
      let (c, s) := fencedCheck s p f fmt dim
      setFrame s f { r with check := c }
    else setFrame s f r
  else if fill = 16 then
    let (c, s) := sealFrame s p f fmt dim code
    setFrame s f { r with state := .sealed, check := c }
  else
    let s := setFrame s f { r with state := .open_ }
    if fmt = 0x30 then { s with words := assign s.words f ((cb16Blocks dim).map rawWord) } else s

/-- Writes the stored bytes of a restored page into its frame (R395). -/
def restoreBytes (s : State) (p : Nat) (f : FrameAddr) (x : SpillPage) : State :=
  let off := frameOffset s p f
  if x.format = 0x30 then
    let lens := x.words.map fun w => fld w 60 48
    (List.range x.words.length).foldl (fun s i => writeHbm s f.ext (off + 4096 * i) (slice x.bytes ((lens.take i).sum) (lens.getD i 0))) s
  else writeHbm s f.ext off x.bytes

/-- A restored page's frame, with the record and block words saved with it (R395). A FENCED frame is not written again (R142). -/
def restoreFrame (s : State) (p : Nat) (f : FrameAddr) (x : SpillPage) : State :=
  let s := if (getFrame s f).state = .fenced then s else restoreBytes s p f x
  let s := if x.format = 0x30 then { s with words := assign s.words f x.words } else s
  let r := getFrame s f
  setFrame s f { r with state := if r.state = .fenced then .fenced else if x.fill = 16 then .sealed else .open_, fill := x.fill, format := x.format,
                        refs := 1, check := x.check, writer := x.writer }

/-- What descriptors in flight have still to write into frames of a bank pair is written before the pair is fenced, since no FENCED frame is written (R142). -/
def writeBefore (s : State) (u : Nat) : State :=
  s.flight.foldl (fun s d => d.effects.foldl (fun s e => match e with
    | .frameBytes p f off bytes => if f.unit = u then writeHbm s f.ext (frameOffset s p f + off) bytes else s
    | .restoreFrame p f x => if f.unit = u then restoreBytes s p f x else s
    | _ => s) s) s

/-! ### Namespaces and directory copies (R382, R384, R434) -/

def getDrive (s : State) (d : Nat) : Drive := s.flash.drives.getD d {}
def modDrive (s : State) (d : Nat) (f : Drive → Drive) : State := { s with flash := { s.flash with drives := s.flash.drives.modify d f } }

/-- The namespaces assigned to a partition: drive and index (namespace m + 1), ascending (R567). -/
def assignedNs (s : State) (p : Nat) : List (Nat × Nat) :=
  (List.range 8).flatMap fun d => ((List.range 16).filter fun m => (getDrive s d).owners.getD m 0 == 128 + p).map fun m => (d, m)

/-- Whether a drive serves: identified, enabled, and not failed; it may be asleep (R383, R567). -/
def driveServes (s : State) (d : Nat) : Bool :=
  let y := getDrive s d
  y.enable && (y.state == .usable || y.state == .off || y.state == .identifying)

/-- The usable namespaces of a partition (R382). -/
def usableNs (s : State) (p : Nat) : List (Nat × Nat) :=
  (assignedNs s p).filter fun x => driveServes s x.1 && (getDrive s x.1).usable.contains (x.2 + 1)

/-- The drives of the two directory copies: the lowest two that hold namespaces of the partition (R384; which ones is this model's choice); both on the one drive of
a partition that has one. -/
def copyDrives (s : State) (p : Nat) : List Nat :=
  match ((assignedNs s p).map (·.1)).eraseDups with
  | [] => []
  | [d] => [d, d]
  | d :: e :: _ => [d, e]

/-! ### The key journal (R419, R431, R432, R434) -/

/-- The key journal, of which the other boot flash holds the same, and a change of it in both. -/
def journal (s : State) : Journal := s.belfry.journals.headD {}
def modJournal (s : State) (f : Journal → Journal) : State := { s with belfry := { s.belfry with journals := s.belfry.journals.map f } }

/-- Codes of the lifecycle states (R547). -/
def Lifecycle.code : Lifecycle → Nat
  | .manufacture => 1
  | .production => 2
  | .returned => 3

/-- The storage wrap key (R419). -/
def storageKey (s : State) : List Byte := sha3 (ascii "LFN storage" ++ leBytes 32 s.boot.fuses.seed ++ leBytes 1 s.boot.lifecycle.code)

/-- A key set as its record holds it: wrapped under the storage wrap key with the nonce's first 12 bytes as IV (R432). -/
def wrapKeys (s : State) (nonce keys : List Byte) : List Byte := Config.gcmSeal (storageKey s) (nonce.take 12) [] keys

/-- The live record of a partition as it is now. -/
def liveRecord (s : State) (p : Nat) : Option JournalRec := (journal s).live.find? fun r => r.part == p && r.binding == (getPart s p).binding

/-- The count that a directory copy must have reached (R434): that of the anchor; with no record, the directory's own. -/
def anchorCount (s : State) (p : Nat) : Nat :=
  match liveRecord s p with
  | some r => r.base + r.anchor
  | none => (getFlash s p).commits

/-- Copies that can be read: on a drive that serves, and not below the anchor's count (R394, R434). -/
def readableCopies (s : State) (p : Nat) : List Nat :=
  (copyDrives s p).filter fun d => driveServes s d && decide (anchorCount s p ≤ (lookup? (getFlash s p).copies d).getD 0)

/-- An object that leaves the directory keeps its space while a LIFT in flight reads it (R386). -/
def keepOld (s : State) (p id : Nat) : State :=
  match lookup? (getFlash s p).objects id with
  | none => s
  | some x =>
    if s.flight.any fun d => d.owner == ownerOf p && d.objGen == some x.gen then modFlash s p fun y => { y with old := x :: y.old } else s

/-- The key journal's part of a commit that changes a partition's object directory (R434): the next bit of the anchor field is programmed, in both copies; a record whose
field of 16 KiB is spent gives way to a new one, with a random nonce. -/
def anchorStep (s : State) (p : Nat) : State :=
  match liveRecord s p with
  | none => s
  | some r =>
    if r.anchor + 1 < 131072 then modJournal s fun j => { j with live := j.live.map fun x => if x = r then { r with anchor := r.anchor + 1 } else x }
    else
      let (nonce, s) := drawBytes 16 s
      let new : JournalRec :=
        { r with nonce := nonce, wrapped := wrapKeys s nonce ((lookup? s.belfry.flashKeys p).getD []), base := r.base + r.anchor + 1, anchor := 0 }
      modJournal s fun j => { live := j.live.map fun x => if x = r then new else x, spent := j.spent ++ [{ r with anchor := r.anchor + 1 }] }

/-- A commit that changes a partition's object directory (R386, R434): its commit count and the anchor of the key journal move together, and the copies whose drives
serve stand at the new count. -/
def commitDir (s : State) (p : Nat) (f : PartFlash → PartFlash) : State :=
  let at_ := ((copyDrives s p).filter (driveServes s)).eraseDups
  modFlash (anchorStep s p) p fun y => { f y with commits := y.commits + 1, copies := at_.foldl (fun c d => assign c d (y.commits + 1)) y.copies }

/-- The directory entry of an object is written (R386). -/
def putObject (s : State) (p id : Nat) (x : FlashObj) : State :=
  commitDir (keepOld s p id) p fun y => { y with objects := assign y.objects id { x with commitTime := stamp s } }

/-- The directory entry of an object is removed (R386). -/
def delObject (s : State) (p id : Nat) : State :=
  commitDir (keepOld s p id) p fun y => { y with objects := erase y.objects id, stats := erase y.stats id }

/-- A step-state region changes (R397 to R401). -/
def changeRegion (s : State) (p r : Nat) (op : RegionOp) : State :=
  let put := fun (s : State) (f : StepRegion → StepRegion) => modFlash s p fun y => { y with regions := adjust y.regions r f }
  match op with
  | .setup count first base found =>
    let x : StepRegion := match found with
      | some (v, w) => { state := .onFlash, version := v, descriptor := w, count := count, first := first, base := base }
      | none => { count := count, first := first, base := base }
    let es := (List.range count).filterMap fun k => ownExt s p (first + k)
    modFlash (es.foldl (fun s e => modExt s e fun y => { y with use := .stepState r, claim := none }) s) p fun y => { y with regions := assign y.regions r x }
  | .publish v w => put s fun x => { x with state := .sealed, version := v, descriptor := w }
  | .open_ => put s fun x => { x with state := .open_ }

/-- A step-state region ends (R399): its extents leave its use, and with its objects its directory entry goes. -/
def endRegion (s : State) (p r : Nat) (erase_ : Bool) : State :=
  match lookup? (getFlash s p).regions r with
  | none => s
  | some x =>
    let es := (List.range x.count).filterMap fun k => ownExt s p (x.first + k)
    let s := es.foldl (fun s e => modExt s e fun y => { y with use := .none }) s
    let s := modFlash s p fun y => { y with regions := erase y.regions r }
    if erase_ then commitDir s p fun y => { y with entries := erase y.entries r } else s

/-- Applies one staged change. -/
def applyEffect (s : State) (e : Effect) : State :=
  match e with
  | .putSeq p seq r => putSeqRec s p seq r
  | .delSeq p seq => removeSeq s p seq
  | .freeBlocks p b => freeBlocks s p b
  | .frameBytes p f off bytes => if (getFrame s f).state = .fenced then s else writeHbm s f.ext (frameOffset s p f + off) bytes
  | .fillFrame p f fill fmt dim writer fresh code => fillFrame s p f fill fmt dim writer fresh code
  | .restoreFrame p f x => restoreFrame s p f x
  | .lowerFill f n => setFrame s f { getFrame s f with fill := n }
  | .refUp f => setFrame s f { getFrame s f with refs := (getFrame s f).refs + 1 }
  | .refDown f => dropFrame s f
  | .putSpill p slot x => modFlash s p fun y => { y with spill := assign y.spill slot x, spillGen := y.spillGen + 1 }
  | .freeSpill p slot => freeSpillSlot s p slot
  | .wordTable p e b =>
    if (lookup? (getPart s p).wordTables e).isSome then freeBlocks s p b else modPart s p fun x => { x with wordTables := assign x.wordTables e b }
  | .addExtent p e u table =>
    let s := clearFrames (modExt s e fun x => { x with use := u, claim := none }) e
    -- the slot's MODE is NONE from here on (R80)
    let slot := (localExt s p e).getD 0
    let s := if (lookup? (getLd s p).modes slot).isSome
      then modLd s p fun l => { l with modes := erase l.modes slot, draining := assign l.draining slot s.time, cdatBuilds := l.cdatBuilds + 1 } else s
    match (if table = 0 then none else takeBlocks s p table) with
    | some (b, s) => modPart s p fun x => { x with frameTables := assign x.frameTables e b }
    | none => s
  | .removeExtent p e =>
    let s := [lookup? (getPart s p).frameTables e, lookup? (getPart s p).wordTables e].foldl (fun s b => match b with
      | some b => freeBlocks s p b
      | none => s) s
    let s := clearFrames (modPart s p fun x => { x with frameTables := erase x.frameTables e, wordTables := erase x.wordTables e }) e
    modExt s e fun x => { x with use := .none, claim := none }
  | .resealed e kind changed =>
    let s := modExt s e fun x => { x with kind := kind }
    -- the kind of the slots that hold the extent has changed (R364)
    if changed then (slotHolders s e).foldl (fun s h => modLd s h.1 fun l => { l with cdatBuilds := l.cdatBuilds + 1 }) s else s
  | .program o slot steps => modOwner s o fun x => { x with programs := match steps with
    | some st => assign x.programs slot st
    | none => erase x.programs slot }
  | .scaleTable p slot t =>
    let old := lookup? (getPart s p).scales slot
    let s := modPart s p fun x => { x with scales := match t with
      | some t => assign x.scales slot t
      | none => erase x.scales slot }
    match old with
    | some o => if s.flight.any fun d => d.scale.any fun e => e.2.blocks == o.blocks then s else freeBlocks s p o.blocks
    | none => s
  | .decodeTable p slot t => modPart s p fun x => { x with decode := x.decode.set slot t, lastDecode := if t.isSome then slot else x.lastDecode }
  | .patterns p version image blocks auto =>
    let s := match (getPart s p).patternBlocks with
      | some b => if s.flight.any fun d => d.owner == ownerOf p && d.patternHold == some b then s else freeBlocks s p b
      | none => s
    modPart s p fun x => { x with patterns := if version = 0 then none else some (version, image), patternBlocks := blocks
                                  autoTable := if auto.isEmpty then x.autoTable else auto }
  | .automaton p seq v => modPart s p fun x => { x with seqs := adjust x.seqs seq fun r => { r with automaton := v } }
  | .spread p seq r =>
    let s := match (lookup? s.fabric.spreads (p, seq)).bind (·.block) with
      | some b => freeBlocks s p b
      | none => s
    let old := lookup? s.fabric.spreads (p, seq)
    { s with fabric := { s.fabric with
      arrived := s.fabric.arrived.map fun (e : Nat × FabMsg) =>
        if e.1 = p ∧ e.2.typ = 1 ∧ e.2.seq = seq ∧ e.2.was.isNone then (e.1, { e.2 with was := some old }) else e
      spreads := match r with
      | some x => assign s.fabric.spreads (p, seq) x
      | none => erase s.fabric.spreads (p, seq) } }
  | .putObject p id x => putObject s p id x
  | .delObject p id => delObject s p id
  | .endRegion p r erase_ => endRegion s p r erase_
  | .region p r op => changeRegion s p r op
  | .queuePair _ => s
  | .count o k n => count s o k n
  | .event o cls code queue subject a0 a1 st => postEvent s o cls code queue subject a0 a1 st
  | .indexInsert p fp page seq replace => (indexInsert s p fp page seq replace).1
  | .indexRemove p fp _ => (indexRemove s p fp).1
  | .indexHit p fp => indexHit s p fp
  | .indexPromote p fp => indexPromote s p fp

/-- The state as a descriptor's later steps see it: with what its earlier steps have staged (log entry 10). -/
def stagedView (s : State) (d : Desc) : State := d.effects.foldl applyEffect s

end Sys2Proof
end

