-- ==== Sys2Proof/Machine/Flags.lean ====
section
/-!
DEFINITION. Status codes and how a status and its DETAIL come about from the causes that applied (R57, R96, R133, R163).
-/
namespace Sys2Proof

/-- The status codes of R57. -/
def stDone : Nat := 0x00
def stAlready : Nat := 0x01
def stAborted : Nat := 0x02
def stDegraded : Nat := 0x03
def stPromoted : Nat := 0x04
def stExhausted : Nat := 0x10
def stScale : Nat := 0x11
def stCheck : Nat := 0x12
def stRetired : Nat := 0x13
def stConflict : Nat := 0x20
def stRevoked : Nat := 0x21
def stNotOwner : Nat := 0x22
def stEscrow : Nat := 0x23
def stTier : Nat := 0x30
def stPoisoned : Nat := 0x31
def stFlushed : Nat := 0x40
def stNak : Nat := 0x41
def stScrub : Nat := 0x50
def stFenced : Nat := 0x60
def stMalformed : Nat := 0xF0
def stInternal : Nat := 0xFF

/-- A status of DONE, or DONE_DEGRADED with the OR of the causes that applied (R133, R163). -/
def degraded (causes : Nat) : Nat × Nat := if causes = 0 then (stDone, 0) else (stDegraded, causes)

/-- The status of a PLACE that was performed (R96): DONE_DEGRADED takes precedence over DONE_PROMOTED and then shows promotion as bit 0x0004. -/
def placeStatus (causes : Nat) (promoted : Bool) : Nat × Nat :=
  if causes ≠ 0 then (stDegraded, causes ||| (if promoted then 4 else 0)) else if promoted then (stPromoted, 0) else (stDone, 0)

/-- A count saturating at a field of n bits (R199). -/
def satField (n v : Nat) : Nat := min v (2 ^ n - 1)

end Sys2Proof
end

