-- ==== Sys2Proof/Machine/Wire.lean ====
section
/-!
DEFINITION. The bytes of an Evomer frame (R286, R287, R289, R328, R329), in network order, and the sealing of its packet under the direction keys of its queue
pair (R320, R426).
-/
namespace Sys2Proof

open Machine (State Fault Refusal)

/-- The low n bytes of a number, most significant first (R286). -/
def beBytes (n v : Nat) : List Byte := (leBytes n v).reverse

/-- TYPE of a packet (R288). -/
def PktType.code : PktType → Nat
  | .send => 1
  | .write => 2
  | .readReq => 3
  | .readResp => 4
  | .ack => 5
  | .nak => 6
  | .laneSync => 7
  | .laneSyncReply => 8
  | .cancel => 9
  | .illegal c => c

/-- Whether a packet has the extension word (R286, R289). -/
def PktType.extended : PktType → Bool
  | .write => true
  | .readReq => true
  | _ => false

/-- The Evomer header of a packet and its extension (R287, R289). -/
def Packet.header (k : Packet) : List Byte :=
  let h0 := put 63 60 k.version ||| put 59 56 k.typ.code ||| put 55 53 k.lane ||| put 52 52 k.space ||| put 51 51 (b2n k.ackReq) ||| put 47 32 k.src
    ||| put 31 16 k.dst ||| put 15 8 k.keyEpoch
  let h1 := put 63 40 k.psn ||| put 19 0 k.qpn
  let h2 := put 63 32 k.msgNum ||| put 31 0 k.msgLen
  let h3 := put 63 32 k.offset ||| put 31 0 k.tag
  [h0, h1, h2, h3, BitVec.ofNat 64 k.nonce].flatMap (fun w => beBytes 8 w.toNat) ++ (if k.typ.extended then beBytes 8 k.ext.toNat else [])

/-- Bytes of a packet on the wire, without preamble and gap (R286). -/
def Packet.wire (k : Packet) : Nat := k.payload.length + 126 + (if k.typ.extended then 8 else 0)

/-- The largest frame that the node accepts or sends (R283). -/
def frameMax : Nat := 9216

/-- What the keys of one direction of a queue pair are derived from (R426): connection secret and epoch, source and destination. -/
def directionInputs (cs : List Byte) (epoch src srcQpn dst dstQpn : Nat) : List Byte :=
  cs ++ leBytes 4 epoch ++ leBytes 2 src ++ leBytes 4 srcQpn ++ leBytes 2 dst ++ leBytes 4 dstQpn

/-- A packet that a queue pair sends, sealed (R320): header and extension, then ciphertext and tag. -/
def Qp.sealed (q : Qp) (n : Nat) (k : Packet) : List Byte :=
  let x := directionInputs q.secret q.epoch k.src n k.dst k.qpn
  let salt := (sha3 (ascii "LFN qp salt" ++ x)).take 4
  k.header ++ Config.gcmSeal (sha3 (ascii "LFN qp key" ++ x)) (salt ++ beBytes 8 k.nonce) k.header k.payload

/-- The endpoint's IPv6 address (R329). -/
def endpointAddr (s : State) (e : Nat) : Nat := s.ports.prefix_.toNat * 2 ^ 64 + e

/-- The Ethernet address of a link as a 48-bit number, byte 0 first (R328). -/
def linkMac (s : State) (port link : Nat) : Nat :=
  let id := s.boot.fuses.identity.toNat
  let (b1, b2, b3) := if s.ports.nodeValid then (0x4A, s.ports.nodeId / 16, s.ports.nodeId % 16 * 16) else (0x4B, id / 256 % 256, id % 256)
  ofBe ([0x02, b1, b2, b3, port, link].map fun x => BitVec.ofNat 8 x)

/-- A TLV of IEEE 802.1AB: type, length and value. -/
def tlv (typ : Nat) (bs : List Byte) : List Byte := beBytes 2 (512 * typ + bs.length) ++ bs

/-- The bytes of a discovery frame without its frame check sequence (R331, R332): to the nearest-bridge address, with the Chassis ID, Port ID, Time To Live, Jalward
and End TLVs. -/
def lldpFrame (v : LldpTlv) : List Byte :=
  let mac := beBytes 6 v.mac
  let info := beBytes 8 v.identity.toNat ++ beBytes 2 (32768 * b2n v.nodeValid + v.nodeId) ++ [v.plane, v.link, v.mode, v.version].map (fun x => BitVec.ofNat 8 x)
    ++ beBytes 8 v.seen.toNat
  beBytes 6 0x0180C200000E ++ mac ++ beBytes 2 0x88CC ++ tlv 1 (4#8 :: mac) ++ tlv 2 (3#8 :: mac) ++ tlv 3 (beBytes 2 v.ttl)
    ++ tlv 127 (beBytes 3 0x5A3C91 ++ [1#8] ++ info) ++ tlv 0 []

/-- The bytes of a priority-flow-control frame without its frame check sequence (R292): IEEE 802.1Qbb, which the spec cites, with one priority's quanta. PRESUMED (log
entry 37). -/
def pauseFrame (s : State) (port link cls quanta : Nat) : List Byte :=
  beBytes 6 0x0180C2000001 ++ beBytes 6 (linkMac s port link) ++ beBytes 2 0x8808 ++ beBytes 2 0x0101 ++ beBytes 2 (2 ^ cls)
    ++ (List.range 8).flatMap (fun k => beBytes 2 (if k = cls then quanta else 0)) ++ List.replicate 26 0#8

/-- The UDP checksum over IPv6: the one's complement of the one's complement sum of pseudo-header, header and data, 0xFFFF in place of 0. -/
def udpSum (src dst : Nat) (udp : List Byte) : Nat :=
  let bs := beBytes 16 src ++ beBytes 16 dst ++ beBytes 4 udp.length ++ beBytes 4 17 ++ udp
  let sum := ((List.range (ceilDiv bs.length 2)).map fun k => 256 * (bs.getD (2 * k) 0#8).toNat + (bs.getD (2 * k + 1) 0#8).toNat).sum
  let folded := if sum = 0 then 0 else (sum - 1) % 65535 + 1
  if folded = 65535 then 65535 else 65535 - folded

/-- A UDP datagram between two addresses, its checksum computed (R286). -/
def udpDatagram (src dst srcPort dstPort : Nat) (bs : List Byte) : List Byte :=
  let udp := fun (sum : Nat) => beBytes 2 srcPort ++ beBytes 2 dstPort ++ beBytes 2 (8 + bs.length) ++ beBytes 2 sum ++ bs
  udp (udpSum src dst (udp 0))

/-- The bytes of a frame that leaves on a link (R286, R328, R329, R339, R341): Ethernet header with the neighbour's address or the foreign peer's, 802.1Q tag, IPv6, what
follows it, and the frame check sequence. -/
def frameBytes (s : State) (p link : Nat) (f : Frame) : List Byte :=
  let target := f.peerMac.getD ((((s.ports.ports.getD p {}).links.getD link {}).mac))
  let eth := beBytes 6 target ++ beBytes 6 (linkMac s p link) ++ beBytes 2 0x8100 ++ beBytes 2 (8192 * f.cls) ++ beBytes 2 0x86DD
  let ip := beBytes 4 (6 * 2 ^ 28 + (8 * f.cls * 4 + f.ecn % 4) * 2 ^ 20 + f.flow % 2 ^ 20) ++ beBytes 2 f.body.length ++ beBytes 1 f.next ++ beBytes 1 f.hopLimit
    ++ beBytes 16 f.srcAddr ++ beBytes 16 f.dstAddr
  let bs := eth ++ ip ++ f.body
  bs ++ leBytes 4 (Config.frameCheck bs).toNat

/-! ### RoCEv2 in ESP (R323 to R326, R426): the layouts of the standards that the spec cites. PRESUMED (log entry 37). -/

/-- Opcodes of the reliable-connected transport. -/
def RoceKind.opcode : RoceKind → Nat
  | .send f l => if f then (if l then 4 else 0) else if l then 2 else 1
  | .write f l => if f then (if l then 10 else 6) else if l then 8 else 7
  | .readReq => 12
  | .readResp f l => if f then (if l then 16 else 13) else if l then 15 else 14
  | .ack => 17
  | .nakSequence => 17
  | .nakRnr _ => 17
  | .nakAccess => 17
  | .nakOperation => 17
  | .cnp => 129
  | .absent => 255

/-- The syndrome byte of a response: an ACK without a credit count, or a NAK by its code. -/
def RoceKind.syndrome : RoceKind → Nat
  | .nakRnr t => 0x20 + t % 32
  | .nakSequence => 0x60
  | .nakAccess => 0x62
  | .nakOperation => 0x63
  | _ => 0x1F

/-- Whether a packet has the header with address, key and length, and whether it has the one with syndrome and message sequence number. -/
def RoceKind.addressed : RoceKind → Bool
  | .write f _ => f
  | .readReq => true
  | _ => false
def RoceKind.answers : RoceKind → Bool
  | .readResp f l => f || l
  | .ack | .nakSequence | .nakRnr _ | .nakAccess | .nakOperation => true
  | _ => false

/-- Whether a packet asks for an acknowledgement: the last of a request. -/
def RoceKind.asks : RoceKind → Bool
  | .send _ l => l
  | .write _ l => l
  | .readReq => true
  | _ => false

/-- A RoCEv2 packet from its base transport header to the padding of its payload. -/
def RocePacket.transport (k : RocePacket) : List Byte :=
  let pad := (4 - k.payload.length % 4) % 4
  [BitVec.ofNat 8 k.kind.opcode, BitVec.ofNat 8 (16 * pad)] ++ beBytes 2 0xFFFF ++ beBytes 4 (k.qpn % 2 ^ 24) ++ beBytes 4 (2 ^ 31 * b2n k.kind.asks + k.psn % 2 ^ 24)
    ++ (if k.kind.addressed then beBytes 8 k.vaddr ++ beBytes 4 k.rkey ++ beBytes 4 k.len else [])
    ++ (if k.kind.answers then beBytes 1 k.kind.syndrome ++ beBytes 3 k.msn else []) ++ k.payload ++ List.replicate pad 0#8

/-- What key, salt and SPI of one direction of a RoCEv2 queue pair are derived from (R426): as for Evomer, with IPv6 addresses in place of the endpoints. -/
def espInputs (cs : List Byte) (epoch src srcQpn dst dstQpn : Nat) : List Byte :=
  cs ++ leBytes 4 epoch ++ beBytes 16 src ++ leBytes 4 srcQpn ++ beBytes 16 dst ++ leBytes 4 dstQpn

/-- The SPI of a direction (R426). -/
def espSpi (x : List Byte) : Nat := 2 ^ 31 + ofLe ((sha3 (ascii "LFN esp spi" ++ x)).take 4) % 2 ^ 31

/-- The UDP destination port of RoCEv2 (R323). -/
def rocePort : Nat := 4791

/-- The datagram of a RoCEv2 packet between two addresses, with its ICRC (R323, R324). -/
def RocePacket.datagram (k : RocePacket) (src dst srcPort : Nat) : List Byte :=
  let bs := k.transport
  udpDatagram src dst srcPort rocePort (bs ++ leBytes 4 (Config.icrc src dst (beBytes 2 srcPort ++ beBytes 2 rocePort ++ bs)).toNat)

/-- The ESP packet of a datagram under the keys of a direction, with its extended sequence number, which also serves as the initialisation vector of RFC 4106 (R324). -/
def espPacket (x : List Byte) (seq : Nat) (udp : List Byte) : List Byte :=
  let pad := (4 - (udp.length + 2) % 4) % 4
  let salt := (sha3 (ascii "LFN esp salt" ++ x)).take 4
  let spi := beBytes 4 (espSpi x)
  spi ++ beBytes 4 seq ++ beBytes 8 seq ++ Config.gcmSeal (sha3 (ascii "LFN esp key" ++ x)) (salt ++ beBytes 8 seq) (spi ++ beBytes 8 seq)
    (udp ++ (List.range pad).map (fun k => BitVec.ofNat 8 (k + 1)) ++ [BitVec.ofNat 8 pad, 17#8])

/-- Bytes of a frame that holds such an ESP packet (R324): Ethernet, tag, IPv6, the ESP header with its vector, the datagram with padding and trailer, ICV and frame
check sequence. -/
def espWire (udp : List Byte) : Nat := 62 + 16 + (udp.length + 2 + (4 - (udp.length + 2) % 4) % 4) + 16

end Sys2Proof
end

