-- ==== Sys2Proof/Machine/NetOps.lean ====
section
/-!
DEFINITION. What the network's parts share: links and hops (R336 to R341), egress queues (R291), the packets that a queue pair sends (R286 to R289, R304, R305, R320,
R323, R325), and what becomes of a SEND or RECV that is stopped (R316).
-/
namespace Sys2Proof

open Machine (State Fault Refusal)

/-! ### Ports, links and hops -/

def getPort (s : State) (p : Nat) : Port := s.ports.ports.getD p {}
def modPort (s : State) (p : Nat) (f : Port → Port) : State := { s with ports := { s.ports with ports := s.ports.ports.modify p f } }
def getLink (s : State) (p k : Nat) : Link := (getPort s p).links.getD k {}
def modLink (s : State) (p k : Nat) (f : Link → Link) : State := modPort s p fun x => { x with links := x.links.modify k f }

/-- Links of a port by its mode, and bytes per 1,000 ns of one of them (R283). -/
def linksIn (mode : Nat) : Nat := if mode = 0 then 1 else if mode = 1 then 2 else 4
def linkRate (mode : Nat) : Nat := 100000 / linksIn mode

/-- Whether a port is fitted (R284): port p stands on port die ⌊p / 4⌋. -/
def portFitted (s : State) (p : Nat) : Bool := decide (p < 8) && portDieFitted s (p / 4)

/-- Whether a link exists in its port's mode. -/
def linkExists (s : State) (p k : Nat) : Bool := portFitted s p && decide (k < linksIn (getPort s p).mode)

/-- What R337 asks of a usable link, but for the second that R340 makes it wait. -/
def Link.sound (l : Link) : Bool := l.phyUp && l.enabled && l.adjacent && !l.down && l.identity == l.enabledId

/-- Whether a link is usable (R337, R340). -/
def linkUsable (s : State) (p k : Nat) : Bool := linkExists s p k && (getLink s p k).sound && (getLink s p k).usable

/-- Counts one of the node counters of R564. -/
def countNode (s : State) (k : Nat) : State := { s with ports := { s.ports with counters := s.ports.counters.modify k fun v => sat64 v 1 } }

/-- Brings a link's usability up to date after a change (R340): a link that was usable and is no longer sound returns one second after it is sound again. -/
def settleLink (s : State) (p k : Nat) : State :=
  modLink s p k fun l =>
    if l.sound then
      if l.usable then l
      else if l.wasUsable then { l with returning := some (l.returning.getD s.time) } else { l with usable := true, wasUsable := true }
    else { l with usable := false, returning := none }

/-- The effective hops toward a node ID in a plane (R336, R337): none toward the node's own. -/
def hopsTo (s : State) (node plane : Nat) : List Nat :=
  if node = s.ports.nodeId then []
  else match lookup? s.ports.forwarding node with
  | some e => if bit e 63 then (List.range 4).filter fun k => bit e (4 * plane + k) && linkUsable s plane k else []
  | none => []

/-- The link that a packet takes among effective hops (R338). -/
def pickHop (hops : List Nat) (f : Frame) : Option Nat :=
  match hops with
  | [] => none
  | h :: r => some ((h :: r).getD (Config.hopHash f.srcAddr f.dstAddr f.flow f.srcPort f.dstPort % (r.length + 1)) h)

/-- Puts a frame in the egress queue of its class on a link. -/
def queueFrame (s : State) (p k : Nat) (f : Frame) : State :=
  modLink s p k fun l => { l with queues := l.queues.modify (f.cls % 8) fun q => q ++ [f] }

/-- The foreign entry in force for an address (R341). -/
def foreignFor (s : State) (addr : Nat) : Option (Nat × Nat × Nat) :=
  s.ports.foreign.findSome? fun e => match e.2.live with
    | some (a, n, l, m) => if a = addr then some (n, l, m) else none
    | none => none

/-- Whether a link reaches a foreign peer (R341): it exists, its PHY is up, and the fabric manager has enabled it and it is not marked down. No adjacency is asked: a foreign
peer speaks no Jalward discovery (log entry 37). -/
def foreignLinkUp (s : State) (k : Nat) : Bool :=
  let l := getLink s 0 k
  linkExists s 0 k && l.phyUp && l.enabled && !l.down

/-- Whether an address lies in the fabric prefix, and the node ID of the endpoint that it names there (R329, R339). -/
def inPrefix (s : State) (addr : Nat) : Bool := addr / 2 ^ 64 == s.ports.prefix_.toNat
def nodeOf (addr : Nat) : Nat := addr / 16 % 4096

/-- The request and response classes (R291). -/
def reqClass (s : State) : Nat := fld s.ports.net 50 48
def respClass (s : State) : Nat := fld s.ports.net 54 52

/-- Whether a class is lossless (R291). -/
def lossless (s : State) (cls : Nat) : Bool := cls == reqClass s || cls == respClass s

def Link.pauseOf (l : Link) (cls : Nat) : PauseS := l.pause.getD cls {}

/-- Whether a frame that arrives is discarded at its port, with the count that it raises: one longer than 9,216 bytes (R283), or one of a class past the node's own
PAUSE_LIMIT on its link (R294). -/
def portDiscard (s : State) (port link cls bytes : Nat) : Option State :=
  if bytes > frameMax then some (modPort s port fun p => { p with discards := p.discards.modify 0 (· + 1) })
  else if lossless s cls ∧ ((getLink s port link).pauseOf cls).ownExpired then some (modPort s port fun p => { p with ownPauseDiscards := p.ownPauseDiscards + 1 })
  else none

/-- Whether an extent holds step state (R27). -/
def Extent.holdsSteps (x : Extent) : Bool :=
  match x.use with
  | .stepState _ => true
  | _ => false

/-! ### Queue pairs -/

def getQp (s : State) (n : Nat) : Option Qp := lookup? s.net.qps n
def modQp (s : State) (n : Nat) (f : Qp → Qp) : State := { s with net := { s.net with qps := adjust s.net.qps n f } }
def ownEndpoint (s : State) (p : Nat) : Nat := s.ports.nodeId * 16 + p

def Service.roce : Service → Bool
  | .roceOrdered => true
  | .roceFabric => true
  | _ => false
def Service.toFabric : Service → Bool
  | .fabric => true
  | .roceFabric => true
  | _ => false

def Qp.lane (q : Qp) (i : Nat) : Lane := q.lanes.getD i {}
def Qp.modLane (q : Qp) (i : Nat) (f : Lane → Lane) : Qp := { q with lanes := q.lanes.modify i f }
def Lane.txOf (l : Lane) (space : Nat) : TxSpace := if space = 0 then l.tx else l.txResp
def Lane.rxOf (l : Lane) (space : Nat) : RxSpace := if space = 0 then l.rx else l.rxResp
def Lane.modTx (l : Lane) (space : Nat) (f : TxSpace → TxSpace) : Lane := if space = 0 then { l with tx := f l.tx } else { l with txResp := f l.txResp }
def Lane.modRx (l : Lane) (space : Nat) (f : RxSpace → RxSpace) : Lane := if space = 0 then { l with rx := f l.rx } else { l with rxResp := f l.rxResp }

/-- Lanes of a queue pair that its sender may use. -/
def Qp.openLanes (q : Qp) : List Nat := (List.range 8).filter fun i => (q.lanesUsed >>> i) % 2 == 1 && !(q.lane i).closedTx

/-- Whether the lane of a queue pair has a path to its peer (R307, R340, R341). -/
def pathOf (s : State) (q : Qp) (lane : Nat) : Bool :=
  if q.service.roce then match foreignFor s q.peerAddr with
    | some (n, l, _) => if n = s.ports.nodeId then foreignLinkUp s l else !(hopsTo s n 0).isEmpty
    | none => false
  else !(hopsTo s (q.peer / 16) lane).isEmpty

/-- Whether a packet type is sequenced, and whether its class is the request class (R288). -/
def PktType.sequenced : PktType → Bool
  | .send => true
  | .write => true
  | .readReq => true
  | .readResp => true
  | .cancel => true
  | _ => false
def PktType.inRequest : PktType → Bool
  | .send => true
  | .write => true
  | .readReq => true
  | .laneSync => true
  | .cancel => true
  | _ => false

/-- Sends one Evomer packet of a queue pair (R286, R287, R320, R327, R337): its NONCE is the raised transmit count, and it is sealed under the key of the present
epoch. Without a valid node ID or a path, no frame leaves. -/
def transmit (s : State) (n : Nat) (k : Packet) : State :=
  match getQp s n with
  | none => s
  | some q =>
    let k := { k with nonce := q.nonce + 1, keyEpoch := q.epoch % 256, src := ownEndpoint s q.part, dst := q.peer, qpn := q.peerQpn }
    let s := modQp s n fun q => { q with nonce := q.nonce + 1 }
    let port := 0xC000 + Config.flowHash n k.lane % 0x4000
    let udp := fld s.ports.net 15 0
    let (a, b) := (endpointAddr s k.src, endpointAddr s k.dst)
    let f : Frame := { cls := if k.typ.inRequest then reqClass s else respClass s, source := q.part, srcAddr := a, dstAddr := b, flow := port, srcPort := port, dstPort := udp
                       bytes := k.wire, step := k.step, body := udpDatagram a b port udp (q.sealed n k), packet := some k }
    match pickHop (hopsTo s (k.dst / 16) k.lane) f with
    | some l => if !s.ports.nodeValid then s else queueFrame s k.lane l f
    | none => s

/-- Sends one RoCEv2 packet of a queue pair inside ESP (R323, R324, R341): its sequence number is the raised transmit count, under the keys of the present epoch. To a
peer on a link of the node's own it leaves there; otherwise it goes toward the node of the foreign entry. -/
def transmitRoce (s : State) (n : Nat) (k : RocePacket) (request : Bool) : State :=
  match getQp s n with
  | none => s
  | some q =>
    let a := endpointAddr s (ownEndpoint s q.part)
    let x := espInputs q.secret q.epoch a n q.peerAddr q.peerQpn
    let k := { k with qpn := q.peerQpn, spi := espSpi x, seq := q.nonce + 1, msn := q.msn }
    let s := modQp s n fun q => { q with nonce := q.nonce + 1 }
    let port := 0xC000 + Config.flowHash n 0 % 0x4000
    let udp := k.datagram a q.peerAddr port
    match foreignFor s q.peerAddr with
    | none => s
    | some (node, l, mac) =>
      let own := decide (node = s.ports.nodeId)
      let f : Frame := { cls := if request then reqClass s else respClass s, source := q.part, srcAddr := a, dstAddr := q.peerAddr, flow := port, next := 50, srcPort := port
                         dstPort := rocePort, bytes := espWire udp, step := k.step, body := espPacket x k.seq udp, peerMac := if own then some mac else none, roce := some k }
      if !s.ports.nodeValid then s
      else match (if own then (if foreignLinkUp s l then some l else none) else pickHop (hopsTo s node 0) f) with
        | some h => queueFrame s 0 h f
        | none => s

/-- Sends a sequenced packet on a lane and space (R304): it takes the next PSN and waits for its acknowledgement. -/
def sendSeq (s : State) (n lane space : Nat) (k : Packet) : State :=
  match getQp s n with
  | none => s
  | some q =>
    let psn := ((q.lane lane).txOf space).next
    let k := { k with lane := lane, space := space, psn := psn, ackReq := k.ackReq || psn % 64 == 63 }
    let s := modQp s n fun q => q.modLane lane fun l => l.modTx space fun x =>
      { x with next := (psn + 1) % 2 ^ 24, unacked := x.unacked ++ [{ psn := psn, pkt := k, sentAt := s.time }] }
    transmit s n k

/-- Sends an unsequenced packet: ACK, NAK, LANE_SYNC or its reply (R289, R308). -/
def sendCtl (s : State) (n : Nat) (typ : PktType) (lane space psn : Nat) (num : Nat := 0) : State :=
  transmit s n { typ := typ, lane := lane, space := space, src := 0, dst := 0, psn := psn % 2 ^ 24, qpn := 0, msgNum := num }

/-- A NAK with a syndrome and a hint in µs (R287, R308). -/
def sendNak (s : State) (n lane space psn syndrome : Nat) (hint : Nat := 0) : State :=
  sendCtl s n .nak lane space psn (syndrome * 2 ^ 24 + hint % 2 ^ 16)

/-- Payload bytes not acknowledged on a lane, in both spaces (R304). -/
def TxSpace.load (x : TxSpace) : Nat := (x.unacked.map fun u => u.pkt.payload.length).sum
def Lane.load (l : Lane) : Nat := l.tx.load + l.txResp.load

/-- The open lanes as `planLanes` takes them, for packets of a space. -/
def Qp.laneRoom (q : Qp) (space : Nat) : List (Nat × Nat × Nat) := q.openLanes.map fun i => (i, (q.lane i).load, ((q.lane i).txOf space).unacked.length)

/-- The lane of each of the next packets of a message (R304): the open lane with the fewest unacknowledged payload bytes, the lowest on a tie, while it holds fewer
than 4,096 packets. `st` lists lane, load, packets. -/
def planLanes : List (Nat × Nat × Nat) → List Nat → List Nat
  | _, [] => []
  | st, n :: r =>
    match (st.filter fun x => decide (x.2.2 < 4096)).foldl (fun (a : Option (Nat × Nat × Nat)) x => match a with
      | none => some x
      | some y => if x.2.1 < y.2.1 then some x else some y) none with
    | none => []
    | some x => x.1 :: planLanes (st.map fun y => if y.1 = x.1 then (y.1, y.2.1 + n, y.2.2 + 1) else y) r

/-- Sizes of the packets of so many bytes (R304): whole PMTUs and what is left; a message without bytes takes one packet. -/
def packetSizes (bytes pmtu : Nat) : List Nat :=
  if bytes = 0 then [0] else (List.range (ceilDiv bytes pmtu)).map fun k => min pmtu (bytes - k * pmtu)

/-- Puts a message's next packets on the lanes (R304, R305): as many as the lanes have places for. ACK_REQ is set on the last packet of the message on each lane:
while more of the message waits for places, on the last packet that each of several lanes takes now, which may be its last there; the one lane of a queue pair with no
other takes more, so there its last is known. -/
def emitEvomer (s : State) (n : Nat) (q : Qp) (m : TxMsg) : State × TxMsg :=
  let sizes := if m.kind = .read then [0] else packetSizes (m.data.length - m.sent) q.pmtu
  let lanes := planLanes (q.laneRoom 0) sizes
  let whole := lanes.length = sizes.length
  let mayEnd := decide whole || decide (1 < q.openLanes.length)
  let typ : PktType := match m.kind with
    | .write => .write
    | .read => .readReq
    | _ => .send
  let s := (List.range lanes.length).foldl (fun s j =>
    let lane := lanes.getD j 0
    let last := mayEnd && !((lanes.drop (j + 1)).contains lane)
    let off := m.sent + ((sizes.take j).sum)
    sendSeq s n lane 0 { typ := typ, lane := lane, src := 0, dst := 0, psn := 0, qpn := 0, ackReq := last, msgNum := m.num, msgLen := m.len, offset := off
                         tag := m.tag, ext := m.remote, step := m.step, payload := if m.kind = .read then [] else slice m.data off (sizes.getD j 0) }) s
  (s, { m with sent := m.sent + ((sizes.take lanes.length).sum), allSent := decide whole })

/-- Puts a RoCEv2 packet on lane 0 with the next PSN; a READ request takes the PSNs of its responses (R323, R325). -/
def sendRoce (s : State) (n : Nat) (k : RocePacket) (psns : Nat) (num : Nat) (request : Bool) : State :=
  match getQp s n with
  | none => s
  | some q =>
    let psn := (q.lane 0).tx.next
    let k := { k with psn := psn }
    let mark : Packet := { typ := .send, lane := 0, src := 0, dst := 0, psn := psn, qpn := 0, msgNum := num }
    let s := modQp s n fun q => q.modLane 0 fun l => { l with tx := { l.tx with next := (psn + psns) % 2 ^ 24
                                                                                unacked := l.tx.unacked ++ [{ psn := psn, pkt := mark, roce := some k, sentAt := s.time }] } }
    transmitRoce s n k request

/-- Puts a message of a RoCEv2 queue pair on lane 0 whole (R323, R325). -/
def emitRoce (s : State) (n : Nat) (q : Qp) (m : TxMsg) : State × TxMsg :=
  match m.kind with
  | .read => (sendRoce s n { kind := .readReq, qpn := 0, psn := 0, vaddr := m.remote.toNat, rkey := m.rkey, len := m.len } (max 1 (ceilDiv m.len q.pmtu)) m.num true,
      { m with allSent := true })
  | _ =>
    let sizes := packetSizes m.data.length q.pmtu
    let s := (List.range sizes.length).foldl (fun s j =>
      let (f, l) := (j == 0, j + 1 == sizes.length)
      let kind : RoceKind := if m.kind = .write then .write f l else .send f l
      sendRoce s n { kind := kind, qpn := 0, psn := 0, vaddr := m.remote.toNat, rkey := m.rkey, len := m.len, step := m.step
                     payload := slice m.data (j * q.pmtu) (sizes.getD j 0) } 1 m.num true) s
    (s, { m with sent := m.data.length, allSent := true })

/-- Puts the CANCELs that wait for a place on the lanes (R316). -/
def pumpCancels (s : State) (n : Nat) : State :=
  match getQp s n with
  | none => s
  | some q =>
    (planLanes (q.laneRoom 0) (q.cancels.map fun _ => 0)).foldl (fun s lane => match (getQp s n).bind fun q => q.cancels.head? with
      | none => s
      | some num => sendSeq (modQp s n fun q => { q with cancels := q.cancels.drop 1 }) n lane 0
          { typ := .cancel, lane := lane, src := 0, dst := 0, psn := 0, qpn := 0, ackReq := true, msgNum := num }) s

/-- Marks the packets of a message that its sender gives up (R309, R316). -/
def Qp.giveUp (q : Qp) (num : Nat) : Qp :=
  { q with lanes := q.lanes.map fun l => l.modTx 0 fun x => { x with
      unacked := x.unacked.map fun u => if u.pkt.msgNum = num ∧ u.pkt.typ ≠ .cancel then { u with dead := true } else u } }

/-- Moves the packets of closed lanes whose peer has answered to the other lanes, under PSNs of their own, as far as those have places (R304, R307). Of a message
given up nothing is sent. -/
def pumpMoved (s : State) (n : Nat) : State :=
  match getQp s n with
  | none => s
  | some q =>
    ((List.range 8).filter fun i => (q.lane i).closedTx && (q.lane i).sync.isNone).foldl (fun s i => [0, 1].foldl (fun s space =>
      match getQp s n with
      | none => s
      | some q =>
        let us := ((q.lane i).txOf space).unacked.filter fun u => !u.dead
        let lanes := planLanes (q.laneRoom space) (us.map fun u => u.pkt.payload.length)
        let s := modQp s n fun q => { (q.modLane i fun l => l.modTx space fun x => { x with unacked := us.drop lanes.length, rnrWait := none }) with
          retransmissions := q.retransmissions + lanes.length }
        (us.zip lanes).foldl (fun s x => sendSeq s n x.2 space { x.1.pkt with ackReq := true }) s) s) s

/-- Puts the next packets of a queue pair's started messages on its lanes, in order (R304, R311), behind those moved from a closed lane and the CANCELs that wait. -/
def pumpQp (s : State) (n : Nat) : State :=
  let s := pumpCancels (pumpMoved s n) n
  match getQp s n with
  | none => s
  | some q =>
    (q.txMsgs.filter fun m => m.started && !m.allSent && !m.failed).foldl (fun s m =>
      match getQp s n with
      | none => s
      | some q =>
        match q.txMsgs.find? fun x => x.started && x.num == m.num with
        | none => s
        | some m =>
          let (s, m') := if q.service.roce then emitRoce s n q m else emitEvomer s n q m
          modQp s n fun q => { q with txMsgs := q.txMsgs.map fun x => if x.started && x.num == m.num then m' else x }) s

/-- Adds a message to those that a queue pair has to send. -/
def addMsg (s : State) (n : Nat) (m : TxMsg) : State := modQp s n fun q => { q with txMsgs := q.txMsgs ++ [m] }

/-- The RNR timers of the InfiniBand specification by their codes, in µs (R325); the spec cites them and does not restate them. PRESUMED (log entry 37). -/
def rnrTimers : List Nat :=
  [655360, 10, 20, 30, 40, 60, 80, 120, 160, 240, 320, 480, 640, 960, 1280, 1920, 2560, 3840, 5120, 7680, 10240, 15360, 20480, 30720, 40960, 61440, 81920, 122880,
   163840, 245760, 327680, 491520]

/-- The code that a hint in µs is sent as: the smallest timer not below it (R325). -/
def rnrCode (us : Nat) : Nat := ((List.range 31).find? fun k => decide (us ≤ rnrTimers.getD (k + 1) 0)).elim 0 (· + 1)

/-- Answers a request of a RoCEv2 peer (R323). -/
def roceReply (s : State) (n : Nat) (kind : RoceKind) (psn : Nat) : State :=
  transmitRoce s n { kind := kind, qpn := 0, psn := psn % 2 ^ 24 } false

/-- The response to a RoCEv2 READ: its packets carry the request's PSNs (R323). -/
def roceRespond (s : State) (n : Nat) (q : Qp) (psn : Nat) (bs : List Byte) (step : Bool) : State :=
  let sizes := packetSizes bs.length q.pmtu
  (List.range sizes.length).foldl (fun s j =>
    transmitRoce s n { kind := .readResp (j == 0) (j + 1 == sizes.length), qpn := 0, psn := (psn + j) % 2 ^ 24, step := step, payload := slice bs (j * q.pmtu) (sizes.getD j 0) } false) s

/-- The packets of READ responses that a responder can put on their lanes (R289, R304). -/
def pumpResponses (s : State) (n : Nat) : State :=
  match getQp s n with
  | none => s
  | some q =>
    (q.responses.filter fun (r : RespMsg) => r.wait.isNone).foldl (fun s r =>
      let room := match getQp s n with
        | some q => 4096 - (q.lane r.lane).txResp.unacked.length
        | none => 0
      let all := packetSizes (r.data.length - r.sent) q.pmtu
      let sizes := all.take room
      let s := (List.range sizes.length).foldl (fun s j =>
        let off := r.sent + ((sizes.take j).sum)
        sendSeq s n r.lane 1 { typ := .readResp, lane := r.lane, src := 0, dst := 0, psn := 0, qpn := 0, ackReq := j + 1 == all.length, msgNum := r.num
                               msgLen := r.data.length, offset := off, step := r.step, payload := slice r.data off (sizes.getD j 0) }) s
      modQp s n fun q => { q with responses := q.responses.filterMap fun x =>
        if x.num = r.num ∧ x.lane = r.lane then (if sizes.length = all.length then none else some { x with sent := x.sent + sizes.sum }) else some x }) s

/-- The descriptor behind a stopped SEND or RECV leaves its queue pair (R316): a SEND whose packets have begun is cancelled at the peer; the message that a RECV had
matched is failed with its next packet. -/
def netStopped (s : State) (d : Desc) : State :=
  if d.opcode = 0x09 then
    match s.net.qps.find? fun e => e.2.txMsgs.any fun m => m.origin == some (d.ctx, d.index) with
    | none => s
    | some (n, q) =>
      match q.txMsgs.find? fun m => m.origin == some (d.ctx, d.index) with
      | none => s
      | some m =>
        let s := modQp s n fun q => { (if m.started then q.giveUp m.num else q) with txMsgs := q.txMsgs.filter fun x => x.origin != some (d.ctx, d.index) }
        -- a scrubbing partition sends no CANCEL (R441)
        if m.started ∧ q.state ≠ .error ∧ !q.service.roce ∧ (getPart s q.part).state ≠ .scrubbing then pumpCancels (modQp s n fun q => { q with cancels := q.cancels ++ [m.num] }) n else s
  else if d.opcode = 0x0A then
    { s with net := { s.net with qps := s.net.qps.map fun (e : Nat × Qp) => (e.1, { e.2 with
        posted := e.2.posted.filter fun x => !(x.ctx == d.ctx && x.index == d.index)
        withdrawn := e.2.withdrawn ++ ((e.2.posted.filter fun x => x.ctx == d.ctx && x.index == d.index).map (·.seq))
        rxMsgs := e.2.rxMsgs.map fun (m : RxMsg) => if m.matched = some (d.ctx, d.index) ∧ !m.complete then { m with aborted := true } else m }) } }
  else s

end Sys2Proof
end

