-- ==== Sys2Proof/Machine/Numerics.lean ====
section
/-!
DEFINITION. The numerical promise of attention (R127, R128, R165 to R167): the exact reference over the tokens of a vector, the bounds around it, and partials that
are free within them. Numbers are fixed-point: the exact values of codes, scores and products in units of 2^−320, exponentials in units of 2^−448 (log entry 12).
-/
namespace Sys2Proof

open Machine (State Fault Refusal)

/-- A finite value in units of 2^−320: exact for every code, block scale and product that a score takes in. -/
def FVal.fix : FVal → Int
  | .fin neg n d => let x : Int := (n * 2 ^ 320 / d : Nat); if neg then -x else x
  | _ => 0

/-- An FP32 code in units of 2^−320. -/
def fixed (c : Nat) : Int := (fp32.value c).fix

/-- The sum of a Taylor series of the exponential: `t` is term `k`, `r` the argument, in units of 2^−448. -/
def expSeries (r : Nat) : Nat → Nat → Nat → Nat
  | 0, _, _ => 0
  | n + 1, k, t => t + expSeries r n (k + 1) (t * r / 2 ^ 448 / (k + 1))

/-- e to the power y × 2^−320, in units of 2^−448, for y up to 512 × 2^320: the argument is halved twelve times and the series squared as often. -/
def ePow (y : Nat) : Nat := (List.range 12).foldl (fun e _ => e * e / 2 ^ 448) (expSeries (y * 2 ^ 116) 96 0 (2 ^ 448))

/-- e to the power −y × 2^−320, in units of 2^−448; zero beyond 512. -/
def eNeg (y : Nat) : Nat := if y > 512 * 2 ^ 320 then 0 else 2 ^ 896 / ePow y

/-- ⌈log2 n⌉ (R166). -/
def ceilLog2 (n : Nat) : Nat := if n ≤ 1 then 0 else Nat.log2 (n - 1) + 1

/-- Draws n free FP32 codes. -/
def drawCodes (n : Nat) (s : State) : List Nat × State :=
  ((List.range n).map fun k => Config.free (s.free + k) % 2 ^ 32, { s with free := s.free + n })

/-! ### The reference -/

/-- The values of the elements of one part of a token: element value times block scale (R75, R145, R173). -/
def elemValues (fmt dim : Nat) (es scales : List Byte) : List FVal :=
  match pageFmt fmt with
  | none => (unpack 16 es dim).map bf16.value
  | some (bits, f, mx) =>
    (unpack bits es dim).mapIdx fun c code => if mx then (f.value code).mul (e8m0 ((scales.getD (c / 32) 0#8).toNat)) else f.value code

/-- What a sum of products is in IEEE 754 arithmetic as far as infinities and NaN go (R174): zero stands for a finite one. -/
def sumKind (xs : List FVal) : FVal :=
  if xs.any (· == .nan) ∨ (xs.contains (.inf true) ∧ xs.contains (.inf false)) then .nan
  else if xs.contains (.inf false) then .inf false
  else if xs.contains (.inf true) then .inf true
  else .fin false 0 1

/-- What one token contributes to a vector: its exact score and Σ|q′ × k| in units of 2^−320, its value elements, and what kind of number the score is (R174). -/
structure VecToken where
  score : Int
  mag : Nat
  vals : List FVal
  kind : FVal

/-- A token against a query of FP32 codes: the reference takes them as they stand, the units and ε take them rounded to BF16 (R122, R128). -/
def vecToken (q : List Nat) (fmt dim : Nat) (t : Token) : VecToken :=
  let ks := elemValues fmt dim t.k t.ks
  let exact := (q.zip ks).map fun (x : Nat × FVal) => (fp32.value x.1).mul x.2
  let rounded := (q.zip ks).map fun (x : Nat × FVal) => (bf16.value (bf16.round (fp32.value x.1))).mul x.2
  { score := (exact.map FVal.fix).sum, mag := (rounded.map fun x => x.fix.natAbs).sum, vals := elemValues fmt dim t.v t.vs, kind := sumKind rounded }

/-! ### The bounds (R128, R166) -/

/-- Whether an FP32 code lies within ε of the reference m; `mag` is ε × 2^8. -/
def nearM (mag : Nat) (top : Int) (c : Nat) : Bool := (fp32.value c).isFin && decide (256 * (fixed c - top).natAbs ≤ mag)

/-- Whether m + ln l lies within b × 2^−320 of the reference: `delta` is m − m_ref, l in units of 2^−320 and lref of 2^−448. -/
def nearL (b : Nat) (delta : Int) (l lref : Nat) : Bool :=
  let x := l * 2 ^ 128
  let d := delta.natAbs
  if delta ≥ 0 then decide (x * ePow d ≤ lref * ePow b) && decide (lref * 2 ^ 448 ≤ x * ePow (d + b))
  else decide (x * 2 ^ 448 ≤ lref * ePow (d + b)) && decide (lref * ePow d ≤ x * ePow b)

/-- Whether o_c / l lies within b × vmax of the reference: b and vmax in units of 2^−320, oref of 2^−768. -/
def nearO (b vmax lref : Nat) (oref : Int) (l c : Nat) : Bool :=
  (fp32.value c).isFin && decide ((fixed c * lref * 2 ^ 320 - oref * l).natAbs * 2 ^ 320 ≤ b * vmax * l * lref)

/-- A signed rational rounded to FP32. -/
def roundRat (n : Int) (d : Nat) : Nat := fp32.round (.fin (decide (n < 0)) n.natAbs d)

/-- The largest Σ|q′ × k| and the largest score of some tokens. -/
def topMag (ts : List VecToken) : Nat := ts.foldl (fun a t => max a t.mag) 0
def topScore (ts : List VecToken) : Int := ts.foldl (fun a t => max a t.score) ((ts.head?.map (·.score)).getD 0)

/-- An FP32 code as a number in value order, for codes that are not NaN. -/
def orderOf (c : Nat) : Int := if c ≥ 2 ^ 31 then -((c % 2 ^ 31 : Nat) : Int) else c

/-- The bound on o_c / l, as a multiple of the largest |v| in units of 2^−320; `mag` is ε × 2^8. While ε ≤ 0.1 it is that of R128, with `extra` terms of R166. Beyond,
R128 promises nothing (DEDUCED, log entry 12): scores within ε of theirs move every weight by a factor of at most e^(2.2 ε), and a mean of values stays within their range. -/
def boundO (mag extra : Nat) : Nat :=
  let y := 22 * mag / 2560
  let wide := if y > 2 * 2 ^ 320 then 2 * 2 ^ 320 else min (2 * 2 ^ 320) ((ePow y - 2 ^ 448) / 2 ^ 128)
  2 ^ 312 + (if 10 * mag ≤ 2 ^ 328 then y else wide) + extra * 2 ^ 299 + 2

/-- A partial within the bounds of R128 around the reference over `ts`, widened by `extra` terms of R166: each of m, l and o is the free code drawn for it where that
meets its bound, else the reference rounded. `fixed?` is m where the arithmetic gives it exactly (R127); m is never below `low` (R125). -/
def tightPartial (extra : Nat) (fixed? : Option Nat) (low : Nat) (ts : List VecToken) (c : List Nat) : Partial :=
  let mag := topMag ts
  let top := topScore ts
  let ws := ts.map fun t => (eNeg (top - t.score).toNat, t.vals)
  let lref := (ws.map (·.1)).sum
  let free := if nearM mag top (c.getD 0 0) then c.getD 0 0 else roundRat top (2 ^ 320)
  let m := fixed?.getD (if orderOf free < orderOf low then low else free)
  let delta := fixed m - top
  let b := 11 * mag / 2560 + 2 ^ 301 + extra * 2 ^ 299 + 2
  let lc := c.getD 1 0
  let ok := (fp32.value lc).isFin && decide (0 < fixed lc) && nearL b delta (fixed lc).toNat lref
  let l := if ok then lc else if delta ≥ 0 then roundRat lref (ePow delta.natAbs) else roundRat (lref * ePow delta.natAbs) (2 ^ 896)
  let lx := (fixed l).toNat
  let bo := boundO mag extra
  let o := (c.drop 2).mapIdx fun k oc =>
    let oref := (ws.map fun (w : Nat × List FVal) => (w.1 : Int) * (w.2.getD k .nan).fix).sum
    let vmax := ws.foldl (fun a w => max a (w.2.getD k .nan).fix.natAbs) 0
    if nearO bo vmax lref oref lx oc then oc else roundRat (oref * lx) (lref * 2 ^ 640)
  { m := m, l := l, o := o }

/-- A free code kept finite, and a free NaN code. -/
def finCode (c : Nat) : Nat := if (fp32.value c).isFin then c else c - 2 ^ 23
def nanCode (c : Nat) : Nat := 0x7F800001 + c % (2 ^ 23 - 1) + c / 2 ^ 31 % 2 * 2 ^ 31

/-- Channel k of o when a value in it is not finite (R174): a NaN, or infinities of both signs, make it NaN; infinities of one sign leave it infinite, or NaN where a
weight of zero met one. -/
def wildChannel (vs : List FVal) (c : Nat) : Nat :=
  match sumKind vs with
  | .inf neg => if c % 2 = 0 then 0x7F800000 + b2n neg * 2 ^ 31 else nanCode (c / 2)
  | _ => nanCode c

/-- The partial of one token with a finite score (R125): its weight is 1, so that l is 1.0 and o the token's values, whatever the order of the arithmetic. -/
def onePartial (t : VecToken) (m : Nat) (c : List Nat) : Partial :=
  { m := m, l := 0x3F800000
    o := (c.drop 2).mapIdx fun k _ => match t.vals.getD k .nan with
      | .nan => nanCode (c.getD (k + 2) 0)
      | .inf neg => 0x7F800000 + b2n neg * 2 ^ 31
      | x => roundRat x.fix (2 ^ 320) }

/-- A partial of several tokens with finite scores of which no bound is left: R125 gives m finite, l from 1.0 to the number of tokens, and a channel of finite values at
most twice Σ|v| while that is well inside the range. -/
def loosePartial (fixed? : Option Nat) (low : Nat) (ts : List VecToken) (c : List Nat) : Partial :=
  let lc := c.getD 1 0
  let free := finCode (c.getD 0 0)
  { m := fixed?.getD (if orderOf free < orderOf low then low else free)
    l := if 0x3F800000 ≤ lc ∧ lc ≤ roundRat ts.length 1 then lc else 0x3F800000
    o := (c.drop 2).mapIdx fun k oc =>
      let vs := ts.map fun t => t.vals.getD k .nan
      let sum := (vs.map fun v => v.fix.natAbs).sum
      if !vs.all FVal.isFin then wildChannel vs oc
      else if sum < 2 ^ 446 then (if (fp32.value oc).isFin ∧ (fixed oc).natAbs ≤ 2 * sum then oc else 0)
      else oc }

/-- A partial into which a NaN or a positive infinity came as a score (R174): its weights are NaN, and with them l and o. -/
def nanPartial (nan : Bool) (c : List Nat) : Partial :=
  { m := if nan then c.getD 0 0 else 0x7F800000, l := nanCode (c.getD 1 0), o := (c.drop 2).map nanCode }

/-- The empty partial (R121, R127). -/
def emptyPartial (dim : Nat) : Partial := { m := 0xFF800000, l := 0, o := List.replicate dim 0 }

/-- Whether a token's score and Σ|q′ × k| lie so far inside the FP32 range that no order of summing leaves it. -/
def VecToken.inRange (t : VecToken) : Bool := decide (2 * max t.mag t.score.natAbs ≤ (2 ^ 24 - 1) * 2 ^ 424)

/-- Whether the bounds of R128 hold over some tokens: every score is finite and in range, ε ≤ 0.1, and every value is finite (R128, R174). -/
def promised (ts : List VecToken) : Bool :=
  ts.all (fun t => t.kind.isFin && t.inRange && t.vals.all FVal.isFin) && decide (10 * topMag ts ≤ 2 ^ 328)

/-- What becomes of scores whose sum may leave the FP32 range: by the order of summing such a score is finite, an infinity or NaN (R125, R174). -/
def overflowed : List VecToken → State → List VecToken × State
  | [], s => ([], s)
  | t :: r, s =>
    let far := t.kind.isFin && !t.inRange
    let (v, s) := if far then draw s else (0, s)
    let (ts, s) := overflowed r s
    ((if far then { t with kind := [.fin false 0 1, .inf false, .inf true, .nan].getD (v % 4) .nan } else t) :: ts, s)

/-- The partial of tokens with finite scores: within R128's bounds, or the wider ones, or with none. -/
def finitePartial (extra : Nat) (fixed? : Option Nat) (low : Nat) (ts : List VecToken) (c : List Nat) : Partial :=
  let near := ts.all VecToken.inRange && decide (topMag ts ≤ 200 * 2 ^ 328)
  let tight := tightPartial extra fixed? low ts c
  let loose := loosePartial fixed? low ts c
  match ts with
  | [t] => onePartial t (if near then tight.m else loose.m) c
  | _ => if near && ts.all (fun t => t.vals.all FVal.isFin) then tight else { loose with m := if near then tight.m else loose.m }

/-- The partial of a vector over its tokens (R121, R125, R128, R165, R174), after an earlier one whose m is `low`. A token whose score is −∞ has the weight 0: it leaves
the partial as it is, but for a channel in which its value is not finite, where 0 times that value may have been added. -/
def attnPartial (extra dim low : Nat) (all : List VecToken) (s : State) : Partial × State :=
  let (all, s) := overflowed all s
  let ts := all.filter fun t => t.kind != .inf true
  let dead := all.filter fun t => t.kind == .inf true
  if ts.isEmpty then (emptyPartial dim, s)
  else
    let (c, s) := drawCodes (dim + 2) s
    if ts.any fun t => !t.kind.isFin then (nanPartial (ts.any fun t => t.kind == .nan) c, s)
    else
      let p := finitePartial extra none low ts c
      ({ p with o := p.o.mapIdx fun k x => if (dead.any fun t => !(t.vals.getD k .nan).isFin) ∧ c.getD (k + 2) 0 % 2 = 1 then nanCode x else x }, s)

/-- The merge of two or more partials that are not empty (R127) within the terms of R166: m is exact; l and o are the free codes drawn where they meet the bounds around
the exact merge, else the merge rounded. The bound on o_c / l takes the largest |o_c / l| of the inputs for the largest |v| (DEDUCED: a MERGE does not see the values). -/
def boundedMerge (m : Nat) (ne : List Partial) (c : List Nat) : Nat × List Nat :=
  let ws := ne.map fun p => (eNeg (fixed m - fixed p.m).toNat, p)
  let lref := (ws.map fun (w : Nat × Partial) => w.1 * (fixed w.2.l).toNat).sum
  let b := ceilLog2 ne.length * 2 ^ 299 + 2
  let lc := c.getD 0 0
  let x := (fixed lc).toNat * 2 ^ 448
  let ok := (fp32.value lc).isFin && decide (0 < fixed lc) && decide (x * 2 ^ 448 ≤ lref * ePow b) && decide (lref * 2 ^ 448 ≤ x * ePow b)
  let l := if ok then lc else roundRat lref (2 ^ 768)
  let lx := (fixed l).toNat
  let o := (c.drop 1).mapIdx fun k oc =>
    let os := ws.map fun (w : Nat × Partial) => (w.1, w.2.o.getD k 0, (fixed w.2.l).toNat)
    if os.any fun e => fp32.value e.2.1 == .nan then nanCode oc
    else if os.any fun e => !(fp32.value e.2.1).isFin then oc
    else
      let oref := (os.map fun e => (e.1 : Int) * fixed e.2.1).sum
      if !(fp32.value l).isFin then roundRat oref (2 ^ 768)
      else
        let near := (fp32.value oc).isFin && os.any fun e =>
          decide ((fixed oc * lref - oref * lx).natAbs * e.2.2 * 2 ^ 320 ≤ b * (fixed e.2.1).natAbs * lx * lref)
        if near then oc else roundRat (oref * lx) (lref * 2 ^ 320)
  (l, o)

/-- An FP32 code that is NaN. -/
def nanOf (c : Nat) : Bool := decide (c % 2 ^ 31 > 0x7F800000)

/-- The merge of the partials of one vector (R127). With at most one that is not empty it is that one; else m is exact, and a NaN or a positive infinity makes l and o NaN
(R174). `whole` are the tokens behind the partials where the bounds of R128 hold for the merged one (a hub's); for others l and o are free within the terms of R166. -/
def mergePartials (dim : Nat) (whole : Option (List VecToken)) (ps : List Partial) (s : State) : Partial × State :=
  let ne := ps.filter fun p => p.m != 0xFF800000
  match ne with
  | [] => (emptyPartial dim, s)
  | [p] => (p, s)
  | p :: q =>
    let top := q.foldl (fun a x => max a (orderOf x.m)) (orderOf p.m)
    let ms := ((ne.map (·.m)).filter fun c => orderOf c == top).eraseDups
    let (v, s) := if ms.length > 1 then draw s else (0, s)
    let m := ms.getD (v % max 1 ms.length) p.m
    let (c, s) := drawCodes (dim + 2) s
    if ne.any fun x => nanOf x.m || nanOf x.l || x.m == 0x7F800000 then
      ({ nanPartial (ne.any fun x => nanOf x.m) c with m := if ne.any (fun x => nanOf x.m) then c.getD 0 0 else 0x7F800000 }, s)
    else match whole with
      | some ts => (tightPartial 0 (some m) m ts c, s)
      | none => let (l, o) := boundedMerge m ne (c.drop 1); ({ m := m, l := l, o := o }, s)

end Sys2Proof
end

