-- ==== Sys2Proof/Machine/Partials.lean ====
section
/-!
DEFINITION. Partials as hubs, cores, members and homes share them: their layout (R120), and their merge (R127, R149, R150).
-/
namespace Sys2Proof

open Machine (State Fault Refusal)

/-! ### Partials (R120, R127) -/

/-- Bytes of a partial. -/
def partialBytes (dim : Nat) (bf : Bool) : Nat := 8 + (if bf then 2 else 4) * dim

/-- Whether an input partial is invalid: by its m and l (R149), or by an o that is NaN or infinite, which R174 says a MERGE refuses too (DEDUCED, log entry 12). -/
def badPartial (p : Partial) : Bool :=
  nanOf p.m || p.m == 0x7F800000 || nanOf p.l || decide (p.l % 2 ^ 31 = 0x7F800000) || decide (p.l > 2 ^ 31) || (p.m != 0xFF800000 && p.l % 2 ^ 31 == 0)
    || p.o.any fun c => decide (0x7F800000 ≤ c % 2 ^ 31)

/-- Reads a partial (R120); BF16 elements widen exactly. -/
def readPartial (dim : Nat) (bf : Bool) (bs : List Byte) : Partial :=
  { m := ofLe (slice bs 0 4), l := ofLe (slice bs 4 4)
    o := if bf then (unpack 16 (slice bs 8 (2 * dim)) dim).map (· * 2 ^ 16) else unpack 32 (slice bs 8 (4 * dim)) dim }

/-- FP32 codes, or NaN codes of which the spec gives only that they are NaN. -/
def freeNans (f : FloatFmt) : List Nat → State → List Nat × State
  | [], s => ([], s)
  | c :: r, s =>
    let nan := f.value c == .nan
    let (v, s) := if nan then draw s else (0, s)
    let (cs, s) := freeNans f r s
    let bits := 2 ^ (f.eb + f.mb)
    ((if nan then bits - 2 ^ f.mb + 1 + v % (2 ^ f.mb - 1) + (v / 2 ^ f.mb) % 2 * bits else c) :: cs, s)

/-- The elements of an output partial: rescaled in FP32 (R150) and rounded to the output's format. -/
def outElems (rescale : Option (List FVal)) (bf : Bool) (o : List Nat) (s : State) : List Byte × State :=
  let (o, s) := match rescale with
    | some rs => freeNans fp32 ((o.zip rs).map fun (x : Nat × FVal) => fp32.round ((fp32.value x.1).mul x.2)) s
    | none => (o, s)
  if bf then
    let (h, s) := freeNans bf16 (o.map fun c => bf16.round (fp32.value c)) s
    (h.flatMap (leBytes 2), s)
  else (o.flatMap (leBytes 4), s)

/-- A partial as bytes (R120), rescaled and rounded to its output format. -/
def partialOut (rescale : Option (List FVal)) (bf : Bool) (p : Partial) (s : State) : List Byte × State :=
  let (o, s) := outElems rescale bf p.o s
  (leBytes 4 p.m ++ leBytes 4 p.l ++ o, s)

/-- The merge of the partials of one vector in a MERGE (R127, R149), rescaled and rounded to its output format. -/
def mergeVector (dim : Nat) (rescale : Option (List FVal)) (bf : Bool) (ps : List Partial) (s : State) : List Byte × State :=
  let (p, s) := mergePartials dim none ps s
  -- 1 × o + 0 × 0 turns a negative zero into zero; a MERGE of one slot adds nothing
  partialOut rescale bf (if ps.length = 1 then p else { p with o := p.o.map fun c => if c = 2 ^ 31 then 0 else c }) s

/-- Output partials of a MERGE in vector order. -/
def mergeVectors (dim : Nat) (rescale : Option (List FVal)) (bf : Bool) : List (List Partial) → State → List Byte × State
  | [], s => ([], s)
  | ps :: r, s =>
    let (x, s) := mergeVector dim rescale bf ps s
    let (y, s) := mergeVectors dim rescale bf r s
    (x ++ y, s)

/-- The K scales and V rescales of a layer and head: all 1.0 under slot 0xFF (R176). -/
def headScales (t : Option ScaleTable) (l h dim : Nat) : List FVal × List FVal :=
  match t with
  | none => (List.replicate dim (.fin false 1 1), List.replicate dim (.fin false 1 1))
  | some t =>
    let b := slice t.image (64 + (l * t.heads + h) * 8 * dim) (8 * dim)
    let vs := (unpack 32 b (2 * dim)).map fp32.value
    (vs.take dim, vs.drop dim)

end Sys2Proof
end

