-- ==== Sys2Proof/Machine/FabricOps.lean ====
section
/-!
DEFINITION. Shared operations of the fabric service: messages and how they leave (R259 to R261, R296), the replies that homes and members put together (R264 to R271), the
comparison with a shadow (R524, R525), and leases (R272, R273).
-/
namespace Sys2Proof

open Machine (State Fault Refusal)

/-! ### Messages -/

/-- The bytes of a fabric message (R259). -/
def FabMsg.bytes (m : FabMsg) : List Byte :=
  ofWords [put 63 56 m.typ ||| put 55 52 m.version ||| put 47 32 m.replyTo ||| put 31 0 m.reqId, put 63 32 m.epoch ||| put 31 0 m.seq,
           put 63 56 m.status ||| put 55 41 m.detail ||| put 31 0 m.res0, m.res1] ++ m.payload

/-- Reads a fabric message that came on a queue pair, or from a local SEND. -/
def parseFab (bs : List Byte) (qpn : Nat) (origin : Option (Nat × BitVec 32)) : FabMsg :=
  let f := toWords 4 bs
  { typ := fld (wd f 0) 63 56, version := fld (wd f 0) 55 52, reserved := fld (wd f 0) 51 48 != 0 || fld (wd f 2) 40 32 != 0, replyTo := fld (wd f 0) 47 32
    reqId := fld (wd f 0) 31 0, epoch := fld (wd f 1) 63 32, seq := fld (wd f 1) 31 0, status := fld (wd f 2) 63 56, detail := fld (wd f 2) 55 41
    res0 := fld (wd f 2) 31 0, res1 := wd f 3, payload := bs.drop 32, qpn := qpn, origin := origin }

/-- Whether a TYPE is in the table of R260, and whether it is a request: ATTEND_REQ, MEMBER_REQ, SPREAD_SET, HANDOFF_REQ. -/
def fabKnown (t : Nat) : Bool := [0x01, 0x02, 0x03, 0x04, 0x10, 0x20, 0x21, 0x22, 0x23, 0x24, 0x25, 0x26, 0x27, 0x28, 0x29].contains t
def fabRequest (t : Nat) : Bool := [0x01, 0x03, 0x10, 0x20].contains t

def dropFab (s : State) : State := { s with fabric := { s.fabric with dropped := s.fabric.dropped + 1 } }

/-- Starts the fetch of a spilled context (R303). -/
def wantContext (s : State) (n : Nat) : State :=
  if (lookup? s.net.fetching n).isSome then s else { s with net := { s.net with fetching := assign s.net.fetching n [] } }

/-- Hands a message to a queue pair (R296), whose context is fetched when it is spilled (R302): one in ERROR, or none, drops it. -/
def fabSend (s : State) (n : Nat) (m : FabMsg) : State :=
  match getQp s n with
  | none => dropFab s
  | some q =>
    if q.state = .error then dropFab s
    else addMsg (if q.ctx.isNone then wantContext s n else s) n { num := 0, origin := none, kind := .fabric, data := m.bytes, len := m.bytes.length }

/-- The fabric queue pair of a partition whose peer is an endpoint (R259, R296): one that is not in ERROR where there is one. -/
def fabricQp (s : State) (p endpoint : Nat) : Option Nat :=
  let qs := s.net.qps.filter fun e => e.2.part == p && e.2.service == .fabric && e.2.peer == endpoint
  match qs.find? fun e => e.2.state != .error with
  | some e => some e.1
  | none => qs.head?.map (·.1)

/-- Sends a message of a partition to an endpoint. -/
def fabTo (s : State) (p endpoint : Nat) (m : FabMsg) : State :=
  match fabricQp s p endpoint with
  | some n => fabSend s n m
  | none => dropFab s

/-- A message reaches the partition's fabric service. -/
def fabArrive (s : State) (p : Nat) (m : FabMsg) : State := { s with fabric := { s.fabric with arrived := s.fabric.arrived ++ [(p, m)] } }

/-- Whether a local SEND waits for a reply (R317): the descriptor of its message in flight, with WAIT_REPLY. -/
def waitsReply (s : State) (o : Nat × BitVec 32) : Bool :=
  match findDesc s o.1 o.2 with
  | some d => d.phase == .running && bit (d.w 2) 62
  | none => false

/-- Answers a request (R261, R296): on the queue pair on which it came; to a local SEND, as the reply that it waits for, or as what it completes with when the
request is one of R261. -/
def fabReply (s : State) (p : Nat) (req : FabMsg) (typ st det : Nat) (r0 r1 : Option Nat) (payload : List Byte) : State :=
  let (a, s) := orFree s r0 32
  let (b, s) := orFree s r1 64
  let m : FabMsg := { typ := typ, replyTo := ownEndpoint s p, reqId := req.reqId, epoch := req.epoch, seq := req.seq, status := st, detail := det, res0 := a, res1 := BitVec.ofNat 64 b
                      payload := payload }
  match req.origin with
  | none => fabSend s req.qpn m
  | some (q, i) =>
    if req.typ = 0x10 ∨ req.typ = 0x20 then match findDesc s q i with
      | some d => putDesc s (d.finish st det (some a) (some b))
      | none => s
    else if waitsReply s (q, i) then fabArrive s p { m with typ := 0x02, origin := some (q, i) }
    else dropFab s

/-- Requests that wait at a node (R269). -/
def fabWaiting (s : State) (typ : Nat) : Nat := (s.fabric.arrived.filter fun e => e.2.typ == typ).length

/-- Judges a message that arrives (R261, R269): it waits for its service, is answered with MALFORMED or with REMOTE_NAK, or is dropped and counted. -/
def fabDeliver (s : State) (p : Nat) (m : FabMsg) : State :=
  let bad := m.version ≠ 1 ∨ m.reserved ∨ !fabKnown m.typ
  if bad ∧ (fabRequest m.typ ∨ !fabKnown m.typ) then fabReply s p m (if m.typ = 3 then 4 else 2) stMalformed 1 none none []
  else if bad then dropFab s
  else if (m.typ = 0x10 ∨ m.typ = 0x20) ∧ m.origin.isNone then dropFab s
  else if (m.typ = 1 ∨ m.typ = 3) ∧ fabWaiting s m.typ ≥ 16384 then fabReply s p m (m.typ + 1) stNak 1 (some 0xFFFFFFFF) none []
  else fabArrive s p m

/-- The first waiting message of a TYPE for a partition. -/
def fabFirst (s : State) (p typ : Nat) : Option FabMsg := (s.fabric.arrived.find? fun e => e.1 == p && e.2.typ == typ).map (·.2)

/-- Takes the first waiting message of a TYPE for a partition. -/
def fabTake (s : State) (p typ : Nat) : State :=
  { s with fabric := { s.fabric with arrived := s.fabric.arrived.eraseP fun e => e.1 == p && e.2.typ == typ } }

/-! ### The request body (R262) -/

def FabMsg.b (m : FabMsg) (k : Nat) : Word := wd (toWords 4 m.payload) k
def FabMsg.qph (m : FabMsg) : Nat := fld (m.b 0) 54 48 + 1
def FabMsg.qgroup (m : FabMsg) : Nat := fld (m.b 0) 47 42 + 1
def FabMsg.firstHead (m : FabMsg) : Nat := fld (m.b 0) 41 36
def FabMsg.heads (m : FabMsg) : Nat := fld (m.b 0) 35 30 + 1
def FabMsg.layer (m : FabMsg) : Nat := fld (m.b 0) 29 22
def FabMsg.leader (m : FabMsg) : Bool := bit (m.b 3) 51
def FabMsg.treeSize (m : FabMsg) : Nat := fld (m.b 3) 50 48 + 1

/-! ### Shadows (R523 to R525) -/

/-- A finite FP32 code times 2^149, an integer. -/
def fix32 (c : Nat) : Int :=
  let e := (c >>> 23) % 256
  let m := c % 2 ^ 23
  let v : Nat := if e = 0 then m else (2 ^ 23 + m) * 2 ^ (e - 1)
  if c / 2 ^ 31 % 2 = 1 then -(v : Int) else v

/-- exp of x × 2^−149, times 2^300: its Taylor series to 60 terms. -/
def expFix (x : Int) : Int :=
  ((List.range 60).foldl (fun (a : Int × Int) (k : Nat) =>
    let t := a.2 * x / (2 ^ 149 * ((k : Int) + 1))
    (a.1 + t, t)) (2 ^ 300, 2 ^ 300)).1

/-- Whether a shadow's partial agrees with the primary's within T = 2^−k (R524). -/
def partialsAgree (k : Nat) (sh pr : Partial) : Bool :=
  let empty := fun (p : Partial) => p.m == 0xFF800000
  let fin := fun (c : Nat) => decide ((c >>> 23) % 256 ≠ 255)
  if empty sh && empty pr then true
  else if empty sh || empty pr || !fin sh.m || !fin pr.m || !fin sh.l || !fin pr.l || !(sh.o ++ pr.o).all fin then false
  else
    let t : Int := 2 ^ (149 - k)
    let dm := fix32 sh.m - fix32 pr.m
    let (ls, lp) := (fix32 sh.l, fix32 pr.l)
    let top := pr.o.foldl (fun (a : Int) c => max a (fix32 c).natAbs) 0
    decide (dm.natAbs ≤ t.natAbs) && decide (0 < ls) && decide (0 < lp)
      && decide (ls * 2 ^ 300 ≤ lp * expFix (t - dm)) && decide (ls * 2 ^ 300 ≥ lp * expFix (-t - dm))
      && (sh.o.zip pr.o).all fun (x : Nat × Nat) => decide (((fix32 x.1 * lp - fix32 x.2 * ls).natAbs : Int) * 2 ^ k ≤ top * ls)

/-- The partials of a reply that holds `n` of them. -/
def replyPartials (dim n : Nat) (bs : List Byte) : List Partial :=
  (List.range n).map fun k => readPartial dim false (slice bs (k * partialBytes dim false) (partialBytes dim false))

/-- Counts a compared request against a shadow entry (R523 to R525): agreement, disagreement, or not compared. -/
def shadowCount (s : State) (p k : Nat) (agree : Option Bool) : State :=
  modOwner s (ownerOf p) fun o => { o with shadows := o.shadows.modify k fun e => match agree with
    | none => { e with missed := min (e.missed + 1) (2 ^ 16 - 1) }
    | some true =>
      let e := { e with agree := min (e.agree + 1) (2 ^ 32 - 1), inRow := e.inRow + 1 }
      if e.state = .shadowing ∧ e.inRow ≥ e.qualifyCount then { e with state := .qualified } else e
    | some false => { e with disagree := min (e.disagree + 1) (2 ^ 16 - 1), inRow := 0, state := if e.state = .off then .off else .failed } }

/-! ### Homes -/

def getHome (s : State) (num : Nat) : Option HomeReq := s.fabric.homes.find? fun h => h.num == num
def putHome (s : State) (h : HomeReq) : State := { s with fabric := { s.fabric with homes := s.fabric.homes.map fun x => if x.num = h.num then h else x } }
def dropHome (s : State) (num : Nat) : State := { s with fabric := { s.fabric with homes := s.fabric.homes.filter fun x => x.num != num } }

/-- A home request that has been answered stays only while a shadow's reply may still come. -/
def endHome (s : State) (h : HomeReq) : State :=
  if h.shadows.isEmpty then dropHome s h.num else putHome s { h with answered := true, outstanding := [], ownLeft := [] }

/-- Answers a home request with a failure (R268). -/
def homeFail (s : State) (h : HomeReq) (st det : Nat) (r0 : Option Nat) : State :=
  let late := h.outstanding.length
  let s := if late = 0 then s else { s with fabric := { s.fabric with stale := s.fabric.stale ++ [(h.part, h.num % 2 ^ 32, late)] } }
  endHome (fabReply s h.part h.msg 2 st det r0 none []) h

/-- The shards of a home request whose partials are still to come, those behind a leader included (R268, R271). -/
def HomeReq.pending (h : HomeReq) : List Nat := h.outstanding.flatMap fun k => ((h.groups.find? fun g => g.1 == k).map (·.2)).getD [k]

/-- A home request fails when the connection to a member that it waits for is lost, the lowest shard naming it (R268, R281). -/
def homeLost (s : State) (h : HomeReq) (lost : ShardWork → Bool) : State :=
  match h.work.find? fun w => lost w && w.endpoint != ownEndpoint s h.part && h.pending.contains w.shard with
  | some w => homeFail s h stFlushed 1 (some w.shard)
  | none => s

/-- Participants of a request in shard order, the home's own shards together as one (R270); every foreign shard is a participant of its own, two at one endpoint too
(DESIGN CHOICE, log entry 32). -/
def participants (own : Nat) (work : List ShardWork) : List (List ShardWork) :=
  let mine := work.filter fun w => w.endpoint == own
  work.filterMap fun w => if w.endpoint ≠ own then some [w] else if mine.head?.map (·.shard) = some w.shard then some mine else none

/-- The heads that a participant's shards serve together: the first one, and how many to the last (R265). -/
def headSpan (ws : List ShardWork) : Nat × Nat :=
  let lo := ws.foldl (fun a w => min a w.firstHead) ((ws.head?.map (·.firstHead)).getD 0)
  (lo, ws.foldl (fun a w => max a (w.firstHead + w.heads)) lo - lo)

/-- Whether the participants behind some shards serve the same heads, so that their partials lie alike in a reply (R265, R270, R271). -/
def uniform (own : Nat) (ws : List ShardWork) : Bool :=
  let ps := participants own ws
  ps.all fun x => headSpan x == headSpan (ps.headD [])

/-- Merges of the replies that a home holds, by head and vector (R264, R267, R271). Where the shards of a leader's group do not serve the same heads, the spec gives no
layout of its reply, and the partials of their heads are free (log entry 19). -/
def homeFinish (s : State) (h : HomeReq) : State :=
  let m := h.msg
  let bf := bit (m.b 0) 56
  let qph := m.qph
  let pb := partialBytes h.dim false
  let serves := fun (head : Nat) (w : ShardWork) => decide (w.firstHead ≤ head) && decide (head < w.firstHead + w.heads)
  let mixed := (h.groups.map fun g => h.work.filter fun w => g.2.contains w.shard).filter fun ws => !uniform (ownEndpoint s h.part) ws
  let (out, s) := (List.range m.heads).foldl (fun (a : List Byte × State) j =>
    let head := m.firstHead + j
    if mixed.any fun ws => ws.any (serves head) then
      let (x, s) := drawBytes (qph * partialBytes h.dim bf) a.2
      (a.1 ++ x, s)
    else
      let parts := fun (v : Nat) => h.replies.filterMap fun r => match h.work.find? fun w => w.shard == r.1 with
        | some w => if serves head w then
            some (readPartial h.dim false (slice r.2 (((head - w.firstHead) * qph + v) * pb) pb)) else none
        | none => none
      let rs := if bit (m.b 3) 55 then some (headScales h.scale m.layer head h.dim).2 else none
      let (x, s) := mergeVectors h.dim rs bf ((List.range qph).map parts) a.2
      (a.1 ++ x, s)) ([], s)
  let (st, det) := if h.degraded then (stDegraded, h.detail) else (stDone, 0)
  endHome (fabReply s h.part m 2 st det (some h.work.length) (some (satField 32 h.swept * 2 ^ 32 + satField 32 h.exactPages)) out) h

/-- Own shards of a TREE whose leader is another node: one MEMBER_REPLY when the last of them is in, with a partial for each head and vector from the first head served on
(R265, R270, R271). -/
def ownToLeader (s : State) (h : HomeReq) (leader : Nat) : State :=
  let mine := h.work.filter fun w => w.endpoint == ownEndpoint s h.part
  let rs := h.replies.filter fun r => mine.any fun w => w.shard == r.1
  let (lo, n) := headSpan mine
  let pb := partialBytes h.dim false
  let parts := fun (k : Nat) => rs.filterMap fun r => (mine.find? fun w => w.shard == r.1 && decide (w.firstHead ≤ lo + k / h.msg.qph ∧ lo + k / h.msg.qph < w.firstHead + w.heads)).map
    fun w => readPartial h.dim false (slice r.2 (((lo + k / h.msg.qph - w.firstHead) * h.msg.qph + k % h.msg.qph) * pb) pb)
  let (out, s) := mergeVectors h.dim none false ((List.range (n * h.msg.qph)).map parts) s
  let s := fabTo s h.part leader { typ := 4, replyTo := ownEndpoint s h.part, reqId := h.num % 2 ^ 32, seq := h.msg.seq, status := if h.degraded then stDegraded else stDone
                                   detail := h.detail, res0 := mine.length, res1 := put 63 32 (satField 32 h.swept) ||| put 31 0 (satField 32 h.exactPages), payload := out }
  putHome s { h with replies := h.replies.filter fun r => !(mine.any fun w => w.shard == r.1), swept := 0, exactPages := 0, degraded := false, detail := 0 }

/-- Compares a shadow's reply with its primary's once both are in (R524). -/
def compareShadows (s : State) (num : Nat) : State :=
  match getHome s num with
  | none => s
  | some h =>
    let ready := h.shadows.filter fun x => x.2.2.isSome && h.replies.any fun r => r.1 == x.2.1
    let s := ready.foldl (fun s x =>
      let pr := ((h.replies.find? fun r => r.1 == x.2.1).map (·.2)).getD []
      let sh := x.2.2.getD []
      let n := ((h.work.find? fun w => w.shard == x.2.1).map (·.heads)).getD 0 * h.msg.qph
      let tol := ((getOwner s (ownerOf h.part)).shadows.getD x.1 {}).tolExp
      shadowCount s h.part x.1 (if sh.length = pr.length then
        some (((replyPartials h.dim n sh).zip (replyPartials h.dim n pr)).all fun y => partialsAgree tol y.1 y.2) else none)) s
    let h := { h with shadows := h.shadows.filter fun x => !(ready.any fun y => y.1 == x.1 && y.2.1 == x.2.1) }
    if h.answered ∧ h.shadows.isEmpty then dropHome s num else putHome s h

/-- The shadows of a shard that cannot be compared are counted as missed (R524). -/
def missShadows (s : State) (h : HomeReq) (shard : Nat) : State × HomeReq :=
  let (gone, kept) := h.shadows.partition fun (x : Nat × Nat × Option (List Byte)) => x.2.1 == shard
  (gone.foldl (fun s (x : Nat × Nat × Option (List Byte)) => shadowCount s h.part x.1 none) s, { h with shadows := kept })

/-- A member's status as its home reports it (R268). -/
def homeStatus (st det : Nat) : Nat × Nat :=
  if st = stNotOwner then (stNotOwner, 5) else if st = stNak then (stNak, 1) else if st = stFlushed then (stFlushed, 1) else (st, det)

/-- A reply for a unit of a home's work comes in (R264, R268, R271). -/
def homeTake (s : State) (num shard : Nat) (r : FabMsg) : State :=
  match getHome s num with
  | none => { s with fabric := { s.fabric with late := s.fabric.late + 1 } }
  | some h =>
    if h.answered ∨ !(h.outstanding.contains shard || h.ownLeft.contains shard) then
      let s := { s with fabric := { s.fabric with late := s.fabric.late + 1 } }
      -- a primary's reply that comes after the answer still serves the comparison within DEADLINE
      if h.answered ∧ r.status = stDone then compareShadows (putHome s { h with replies := h.replies ++ [(shard, r.payload)] }) num else s
    else if r.status ≠ stDone ∧ r.status ≠ stDegraded then
      let group := ((h.groups.find? fun g => g.1 == shard).map (·.2)).getD [shard]
      -- of a group's failure the home learns the status alone: which of its shards failed is a free value among them
      let (v, s) := if group.length > 1 then draw s else (0, s)
      let (st, det) := homeStatus r.status r.detail
      homeFail s h st det (some (group.getD (v % max 1 group.length) shard))
    else
      let own := h.ownLeft.contains shard
      let (s, h) := if r.status = stDone then (s, h) else missShadows s h shard
      let h := { h with replies := h.replies ++ [(shard, r.payload)], swept := h.swept + fld r.res1 63 32, exactPages := h.exactPages + fld r.res1 31 0
                        degraded := h.degraded || r.status == stDegraded, detail := h.detail ||| r.detail
                        outstanding := h.outstanding.filter (· != shard), ownLeft := h.ownLeft.filter (· != shard) }
      let s := putHome s h
      let s := compareShadows s num
      match getHome s num with
      | none => s
      | some h =>
        let s := if own ∧ h.ownLeft.isEmpty then (match h.ownTo with
          | some l => ownToLeader s h l
          | none => s) else s
        match getHome s num with
        | none => s
        | some h => if h.outstanding.isEmpty ∧ h.ownLeft.isEmpty then homeFinish s h else s

/-! ### Members -/

def getMember (s : State) (num : Nat) : Option MemberReq := s.fabric.members.find? fun m => m.num == num
def putMember (s : State) (m : MemberReq) : State := { s with fabric := { s.fabric with members := s.fabric.members.map fun x => if x.num = m.num then m else x } }
def dropMember (s : State) (num : Nat) : State := { s with fabric := { s.fabric with members := s.fabric.members.filter fun x => x.num != num } }

/-- Sends a member's reply: into its own home, or in a MEMBER_REPLY on the queue pair on which the request came, but to a tree leader on the queue pair whose peer the
leader is (R265, R271, R296). -/
def memberReply (s : State) (m : MemberReq) (st det r0 : Nat) (payload : List Byte) : State :=
  let s := dropMember s m.num
  let late := m.groupWanted - 1 - m.group.length
  let s := if late = 0 then s else { s with fabric := { s.fabric with stale := s.fabric.stale ++ [(m.part, m.msg.reqId, late)] } }
  let r : FabMsg := { typ := 4, replyTo := ownEndpoint s m.part, reqId := m.msg.reqId, epoch := m.msg.epoch, seq := m.msg.seq, status := st, detail := det, res0 := r0
                      res1 := put 63 32 (satField 32 m.swept) ||| put 31 0 (satField 32 m.exactPages), payload := payload }
  match m.home with
  | some (num, shard) => homeTake s num shard r
  | none =>
    match m.msg.origin with
    | some (q, i) => if waitsReply s (q, i) then fabArrive s m.part { r with typ := 2, origin := some (q, i) } else dropFab s
    | none =>
      let leader : Bool := match getQp s m.msg.qpn with
        | some q => !m.msg.leader && q.service == .fabric && q.peer != m.msg.replyTo
        | none => false
      if leader then fabTo s m.part m.msg.replyTo r else fabSend s m.msg.qpn r

/-- Replies when a member has everything it needs (R265, R271). -/
def memberFinish (s : State) (m : MemberReq) : State :=
  let own := ((List.range m.msg.heads).map fun j => ((lookup? m.partials (m.msg.firstHead + j)).getD [])).flatten
  if m.work.isEmpty ∧ m.group.length + 1 ≥ m.groupWanted then
    let n := m.msg.heads * m.msg.qph
    let dim := (own.length / max 1 n - 8) / 4
    let (out, s) := if m.group.isEmpty then (own, s)
      else if m.group.any fun g => g.length != own.length then drawBytes own.length s
      else mergeVectors dim none false ((List.range n).map fun k => (own :: m.group).map fun b =>
        readPartial dim false (slice b (k * partialBytes dim false) (partialBytes dim false))) s
    memberReply s m (if m.degraded then stDegraded else stDone) m.detail (m.group.length + 1) out
  else putMember s m

/-- What the commit of a member's local descriptor does to its request (R265): an ATTEND is chained into a MERGE of its hub slots; the partials of a head that is done
join the reply; a failure ends the request. -/
def memberCommit (s : State) (d : Desc) : State :=
  match getMember s (d.ctx - 16384) with
  | none => s
  | some m =>
    if !m.work.contains d.index then s
    else if d.status ≠ stDone ∧ d.status ≠ stDegraded then memberReply s m d.status d.detail 0 []
    else
      let head := m.msg.firstHead + d.index.toNat / 2
      let m := { m with degraded := m.degraded || d.status == stDegraded, detail := m.detail ||| (if d.status = stDegraded then d.detail else 0) }
      let bytes := (d.output.map (·.bytes)).getD []
      if d.opcode = 0x03 then
        let m := { m with swept := m.swept + d.res0.getD 0, exactPages := m.exactPages + d.res1.getD 0 / 2 ^ 32
                          work := (m.work.filter (· != d.index)) ++ [d.index + 1#32] }
        let w0 := put 63 56 4 ||| put 55 52 1 ||| put 51 51 1 ||| put 47 32 1
        let ws := [w0, 0#64, put 54 48 (m.msg.qph - 1) ||| put 21 16 (hubCount s - 1) ||| put 2 0 ((positions (fun x => x == d.dim) [64, 96, 128, 192, 256]).headD 0),
                   0#64, 0#64, 0#64, 0#64, put 63 56 0xFF]
        let x : Desc := { owner := d.owner, slot := none, ctx := d.ctx, index := d.index + 1#32, words := ws, cur := ws, time := s.time, input := d.output }
        putMember { s with flight := s.flight ++ [x] } m
      else
        let m := { m with partials := assign m.partials head bytes, work := m.work.filter (· != d.index)
                          swept := m.swept + (if d.subop = 2 then d.res0.getD 0 else 0) }
        memberFinish s m

/-! ### Leases (R272, R273) -/

/-- An epoch that rises wraps to 1 (R272). -/
def nextEpoch (e n : Nat) : Nat := let x := e + n; if x ≥ 2 ^ 32 then x - 2 ^ 32 + 1 else x

/-- Sets what the lock does not cover in a sequence record. -/
def setLease (s : State) (p seq : Nat) (f : SeqRec → SeqRec) : State := modPart s p fun x => { x with seqs := adjust x.seqs seq f }

/-- A handoff message of the sender or receiver (R276). -/
def handMsg (s : State) (p typ reqId epoch seq : Nat) (detail : Nat := 0) (payload : List Byte := []) : FabMsg :=
  { typ := typ, replyTo := ownEndpoint s p, reqId := reqId, epoch := epoch, seq := seq, detail := detail, payload := payload }

/-- An offer ends before ACCEPT: the lease is HELD again, and the offer is forgotten (R273). -/
def endOffer (s : State) (o : Outgoing) : State :=
  setLease { s with fabric := { s.fabric with outgoing := s.fabric.outgoing.filter fun x => !(x.part == o.part && x.seq == o.seq) } } o.part o.seq
    fun r => { r with lease := .held }

/-- A HANDOFF whose SEND is stopped abandons its offer (R273, R278). -/
def fabricStopped (s : State) (d : Desc) : State :=
  match s.fabric.outgoing.find? fun o => o.msg.origin == some (d.ctx, d.index) && o.resend.isNone with
  | none => s
  | some o => endOffer (fabTo s o.part o.target (handMsg s o.part 0x29 o.msg.reqId (nextEpoch o.epoch 1) o.targetSeq)) o

end Sys2Proof
end

