-- ==== Sys2Proof/Machine/Domains.lean ====
section
/-!
DEFINITION. Power domains as work sees them (R486 to R489): their kinds, the states each kind takes, wake times, and the wake that work starts.
-/
namespace Sys2Proof

open Machine (State Fault Refusal)

/-- Kind of a domain, numbered in the order of R487's table: 0 always on, 1 base, 2 Snare, 3 core, 4 staging, 5 stack, 6 Mallet, 7 Carillon,
8 port, 9 root port. -/
def domKind (d : Nat) : Nat :=
  if d < 2 then 0 else if d = 2 then 1 else if d = 3 then 2 else if d < 72 then 3 else if d < 80 then 4 else if d < 84 then 1
  else if d < 104 then 5 else if d < 124 then 6 else if d < 140 then 7 else if d < 142 then 1 else if d < 150 then 8 else if d = 150 then 1 else 9

/-- Whether the variant fits a domain's die (R17, R486). -/
def domFitted (s : State) (d : Nat) : Bool :=
  if 80 ≤ d ∧ d < 84 then decide (d - 80 < hubCount s)
  else if 84 ≤ d ∧ d < 104 then stackFitted s (d - 84)
  else if 104 ≤ d ∧ d < 124 then stackFitted s (d - 104)
  else if 140 ≤ d ∧ d < 142 then portDieFitted s (d - 140)
  else if 142 ≤ d ∧ d < 150 then portDieFitted s ((d - 142) / 4)
  else decide (d < 159)

/-- The states that a kind takes (R487); Carillon 0 is ON only. -/
def domTakes (d : Nat) (x : DomState) : Bool :=
  match domKind d, x with
  | _, .on => true
  | 2, .idle => true
  | 2, .retain => true
  | 3, .idle => true
  | 3, .off => true
  | 4, .idle => true
  | 4, .retain => true
  | 5, .retain => true
  | 6, .idle => true
  | 6, .off => true
  | 7, .idle => d != 124
  | 8, .off => true
  | 9, .off => true
  | _, _ => false

/-- Wake time to ON in ns (R487). -/
def wakeNs (d : Nat) (x : DomState) : Nat :=
  match domKind d, x with
  | 5, _ => 20000
  | 2, .retain => 20000
  | 4, .retain => 10000
  | 3, .off => 200000
  | 6, .off => 50000
  | 8, _ => 500000000
  | 9, _ => 100000000
  | _, _ => 1000

def getDom (s : State) (d : Nat) : Domain := s.power.domains.getD d {}
def modDom (s : State) (d : Nat) (f : Domain → Domain) : State := { s with power := { s.power with domains := s.power.domains.modify d f } }

/-- Adds to a Damper counter of R506. -/
def countPower (s : State) (k n : Nat) : State :=
  { s with power := { s.power with counters := s.power.counters.modify k fun v => sat64 v n } }

/-- A port that is commanded OFF is not woken; every other domain that is not ON is (R488). -/
def startWake (s : State) (d : Nat) : State :=
  let x := getDom s d
  if x.present = .on ∨ x.wake.isSome ∨ domKind d = 8 then s
  else countPower (modDom s d fun y => { y with wake := some (s.time + wakeNs d x.present) }) (26 + domKind d) 1

/-- Whether every domain that some work needs is ON. -/
def domsOn (s : State) (ds : List Nat) : Bool := ds.all fun d => (getDom s d).present == .on

/-- Runs work that needs domains: at once when all are ON, else the node wakes them and the work waits (R488). -/
def withDoms (s : State) (ds : List Nat) (k : State → State) : State :=
  if domsOn s ds then k (ds.foldl (fun s d => modDom s d fun y => { y with lastWork := s.time }) s)
  else ds.foldl startWake s

/-- Whether a processor is paused for a switch or restarting (R450). -/
def procAway (s : State) (x : Nat) : Bool := let p := s.fw.procs.getD x {}; p.paused.isSome || p.restarting

/-- Whether Belfry makes no new key any more (R462, R526). -/
def belfryFenced (s : State) : Bool := (s.fw.procs.getD 0 {}).fenced

/-- The sequencer that serves a share of REQUEST_ID mod 16 and of the programs (R462): its own, or the next one that is not fenced. -/
def sequencerOf (s : State) (r : Nat) : Nat :=
  ((List.range 16).find? fun j => !((s.fw.procs.getD (2 + (r + j) % 16) {}).fenced)).map (fun j => (r + j) % 16) |>.getD (r % 16)

/-- Whether the Carillon that serves a share is paused or restarting, so that the share's work waits (R459). -/
def sequencerAway (s : State) (r : Nat) : Bool := procAway s (2 + sequencerOf s r)

/-- Runs work of the fabric service on the sequencer that its REQUEST_ID names (R269, R459, R462, R488). -/
def withSequencer (s : State) (r : Nat) (k : State → State) : State := if sequencerAway s r then s else withDoms s [124 + sequencerOf s r] k

/-- The share of the programs in which an invocation falls (R462): the spec does not say which (log entry 47). -/
def Desc.share (d : Desc) : Nat := Config.programShare d.ctx d.index.toNat

/-- The domains of a place: the stack of an extent, or the staging banks (which bank holds an owner's share is not given: log entry 9). -/
def Loc.doms : Loc → List Nat
  | .host _ => []
  | .hbm e _ => [84 + e / 96]
  | .staging _ _ => [72, 73, 74, 75, 76, 77, 78, 79]

/-- The domains of the place that a location word names. -/
def locDoms (s : State) (o : Owner) (w : Word) : List Nat :=
  match locate s o w 0 false with
  | .ok loc => loc.doms
  | .error _ => []

end Sys2Proof
end

