-- ==== Sys2Proof/Machine/Layouts.lean ====
section
/-!
DEFINITION. What the node keeps in HBM for itself, as the bytes that a COPY of a control extent, of a Snare extension or of a page extent reads (R49, R80, R83 to
R87, R100, R177, R209, R231, R239, R246, R256). The structures stand in State as data; here each word of theirs has its place. Bytes for which the spec gives no
place or no value are free (log entry 8).
-/
namespace Sys2Proof

open Machine (State Fault Refusal)

/-- A run of bytes of an extent with contents that begin at byte `a` of it laid over them. -/
def layOver (off : Nat) (bs : List Byte) (a : Nat) (x : List Byte) : List Byte :=
  if a < off + bs.length ∧ off < a + x.length then bs.mapIdx fun k b => if a ≤ off + k then x.getD (off + k - a) b else b else bs

/-- Records of one size from byte `a` of an extent on, those of them that a run of bytes touches: `f` gives the pieces of a record that have a value, each with
its place in the record. -/
def layRecords (off : Nat) (bs : List Byte) (a size count : Nat) (f : Nat → List (Nat × List Byte)) : List Byte :=
  let first := (off - a) / size
  let last := min count ((off + bs.length - a) / size + 1)
  (List.range (last - first)).foldl (fun bs k => (f (first + k)).foldl (fun bs x => layOver off bs (a + size * (first + k) + x.1) x.2) bs) bs

/-- The control block number of the first block of a run (R81). -/
def blockNumber (s : State) (p : Nat) (b : Blocks) : Nat := ((localExt s p b.ext).getD 0) * 65536 + b.first

/-- The two words of a head table entry (R83). -/
def HeadList.words (s : State) (p : Nat) (h : HeadList) : List Word :=
  [put 24 0 h.length, put 63 63 (b2n h.directory.isSome) ||| put 59 40 h.firstPage ||| put 26 0 ((h.directory.map (blockNumber s p)).getD 0)]

/-- A pointer of a directory (R84). -/
def pointerWord (s : State) (p : Nat) (b : Option Blocks) : Word :=
  match b with
  | some b => put 63 63 1 ||| put 26 0 (blockNumber s p b)
  | none => 0#64

/-- A page-list entry (R85). -/
def entryWord (s : State) (p : Nat) (e : Option Entry) : Word :=
  match e with
  | some (.frame f pr) => put 63 63 1 ||| put 62 61 (b2n pr) ||| put 28 18 ((localExt s p f.ext).getD 0) ||| put 17 14 f.pair ||| put 13 0 f.slot
  | some (.spilled k _) => put 63 63 1 ||| put 62 61 2 ||| put 31 0 k
  | none => 0#64

/-- The slot of a page in its head list (R84). -/
def SeqRec.slotOf (r : SeqRec) (page : Nat) : Nat := if r.window = 0 then page else page % r.window

/-- The entry in slot k of a head list. -/
def SeqRec.entryAt (r : SeqRec) (h : HeadList) (k : Nat) : Option Entry := (h.entries.find? fun e => r.slotOf e.1 == k).map (·.2)

/-- The code of a frame state (R86). -/
def FrameState.code : FrameState → Nat
  | .free => 0
  | .reserved => 1
  | .open_ => 2
  | .sealed => 3
  | .released => 4
  | .fenced => 5

/-- The pieces of a frame record that have a value (R86): CHECK is valid in a SEALED one only. -/
def recordPieces (s : State) (f : FrameAddr) : List (Nat × List Byte) :=
  let r := getFrame s f
  let f0 := leBytes 8 (put 63 61 r.state.code ||| put 60 56 r.fill ||| put 55 48 r.format ||| put 47 24 r.refs ||| put 15 0 r.pins).toNat
  (0, f0) :: (8, leBytes 4 r.writer) :: if r.state = .sealed then [(12, leBytes 4 r.check)] else []

/-- The frame of index i of a page extent (R87). -/
def frameAt (s : State) (p e i : Nat) : FrameAddr :=
  let n := sliceFrames (classRows s p ((extClass s e).getD 0))
  { ext := e, pair := i / n, slot := i % n }

/-- The block words of a frame, zero past its page's last block (R209). -/
def wordPieces (s : State) (f : FrameAddr) : List (Nat × List Byte) :=
  match lookup? s.words f with
  | some ws => [(0, ofWords ((List.range 4).map fun k => ws.getD k 0#64))]
  | none => []

/-- Lays the control blocks of a sequence over a run of bytes of an extent (R83 to R85). -/
def laySeq (s : State) (p e off : Nat) (r : SeqRec) (bs : List Byte) : List Byte :=
  let head := if r.headTable.ext = e then layRecords off bs (4096 * r.headTable.first) 16 r.heads.length fun k => [(0, ofWords ((r.heads.getD k {}).words s p))] else bs
  r.heads.foldl (fun bs h =>
    let bs := match h.directory with
      | some b => if b.ext = e then layRecords off bs (4096 * b.first) 8 512 fun k => [(0, ofWords [pointerWord s p (lookup? h.lists k)])] else bs
      | none => bs
    h.lists.foldl (fun bs x =>
      if x.2.ext = e then layRecords off bs (4096 * x.2.first) 8 2048 fun k => [(0, ofWords [entryWord s p (r.entryAt h (2048 * x.1 + k))])] else bs) bs) head

/-- The image of a spread record, which takes one control block (R256). -/
def SpreadRec.image (seq : Nat) (r : SpreadRec) : List Byte :=
  ofWords ([put 63 32 seq ||| put 5 0 (r.shards.length - 1), put 63 56 (r.layers - 1) ||| put 55 50 (r.heads - 1) ||| put 49 47 r.dim, 0#64, 0#64] ++ r.shards.flatten)

/-- The extent and the place in it of byte x of a table that lies in runs of control blocks. -/
def runAt : List Blocks → Nat → Option (Nat × Nat)
  | [], _ => none
  | b :: r, x => if x < 4096 * b.count then some (b.ext, 4096 * b.first + x) else runAt r (x - 4096 * b.count)

/-- Lays the 64 bytes of a sequence at its place of a table over a run of bytes (R82, R250). -/
def layPlace (runs : List Blocks) (e off : Nat) (bs : List Byte) (place : Nat) (ws : List Word) : List Byte :=
  match runAt runs (64 * place) with
  | some (x, a) => if x = e then layOver off bs a (ofWords ws) else bs
  | none => bs

/-- The blocks and the image of a pattern set. -/
def imageOf (b : Option Blocks) (t : Option (Nat × List Byte)) : List (Blocks × List Byte) :=
  match b, t with
  | some b, some t => [(b, t.2)]
  | _, _ => []

/-- The table images in a partition's control blocks that are no slot's: those that descriptors in flight still use, and those of loads not yet committed (R182, R248). -/
def imagesHeld (s : State) (p : Nat) : List (Blocks × List Byte) :=
  s.flight.flatMap fun d =>
    (if d.owner.part? = some p then d.scale.map (fun t => (t.2.blocks, t.2.image)) ++ imageOf d.patternHold d.patterns else [])
      ++ d.effects.flatMap fun x => match x with
        | .scaleTable p' _ (some t) => if p' = p then [(t.blocks, t.image)] else []
        | .patterns p' _ image (some b) _ => if p' = p then [(b, image)] else []
        | _ => []

/-- Lays what a control extent holds over a run of its bytes. -/
def layControl (s : State) (p e off : Nat) (bs : List Byte) : List Byte :=
  let x := getPart s p
  let frames := fun (t : Nat × Blocks) => 16 * sliceFrames (classRows s p ((extClass s t.1).getD 0))
  let bs := x.seqs.foldl (fun bs q =>
    let bs := layPlace x.seqTable e off bs q.2.place (q.2.record s p q.1)
    laySeq s p e off q.2 (layPlace x.autoTable e off bs q.2.place q.2.automaton)) bs
  let bs := x.frameTables.foldl (fun bs t => if t.2.ext = e then layRecords off bs (4096 * t.2.first) 16 (frames t) fun i => recordPieces s (frameAt s p t.1 i) else bs) bs
  let bs := x.wordTables.foldl (fun bs t => if t.2.ext = e then layRecords off bs (4096 * t.2.first) 32 (frames t) fun i => wordPieces s (frameAt s p t.1 i) else bs) bs
  let images := x.scales.map (fun t => (t.2.blocks, t.2.image)) ++ imageOf x.patternBlocks x.patterns ++ imagesHeld s p
  let bs := images.foldl (fun bs t => if t.1.ext = e then layOver off bs (4096 * t.1.first) t.2 else bs) bs
  s.fabric.spreads.foldl (fun bs t => match t.2.block with
    | some b => if t.1.1 = p ∧ b.ext = e then layOver off bs (4096 * b.first) (t.2.image t.1.2) else bs
    | none => bs) bs

/-- The head dimension of the pages of a frame: that of a sequence which names the frame, or of a reader in flight that holds a pin on it (R102). -/
def frameDim (s : State) (p : Nat) (f : FrameAddr) : Option Nat :=
  (((getPart s p).seqs.find? fun q => q.2.heads.any fun h => h.entries.any fun e => match e.2 with
    | .frame g _ => g == f
    | .spilled _ _ => false).map (·.2.dim)).or
    ((s.flight.find? fun d => d.pages.any fun w => w.pinned && w.frame == some f).map (·.dim))

/-- Whether byte b of a frame belongs to a token within its FILL, or to a stored block of a sealed CB16 page (R75, R100, R208). -/
def byteDefined (s : State) (f : FrameAddr) (dim b : Nat) : Bool :=
  let r := getFrame s f
  if r.format = 0x30 ∧ r.fill = 16 then
    decide (b / 4096 < 4 ∧ b % 4096 < fld (wd ((lookup? s.words f).getD []) (b / 4096)) 60 48)
  else
    let (e, x) := tokenShape r.format dim
    let half := 16 * (e + x)
    let c := if b < half then b else b - half
    decide (b < 2 * half) && (if c < 16 * e then decide (c < r.fill * e) else decide (c - 16 * e < r.fill * x))

/-- Of the bytes of a page extent those that have a value; the others are free, as given (R100). -/
def layPage (s : State) (p e off : Nat) (stored freeBytes : List Byte) : List Byte :=
  let size := classRows s p ((extClass s e).getD 0) * 1024
  freeBytes.mapIdx fun k b =>
    let a := off + k
    let f : FrameAddr := { ext := e, pair := a / 2 ^ 24, slot := a % 2 ^ 24 / size }
    match frameDim s p f with
    | some dim => if byteDefined s f dim (a % 2 ^ 24 % size) then stored.getD k b else b
    | none => b

/-- The bytes that a reader finds at a place of an extent: those stored there, but in an extent that the node keeps for itself those of its structures. What has no value
there is free: the spec gives none. -/
def storeBytes (s : State) (e off : Nat) (bs : List Byte) : List Byte :=
  let idle := (List.range bs.length).map fun k => Config.idleByte s.free (hbmAddr e (off + k))
  match pchOwner s (e / 3), (getExt s e).use with
  | some p, .page _ => layPage s p e off bs idle
  | some p, .control => layControl s p e off idle
  | some _, .foldSpill => idle
  | _, _ => bs

/-! ### Reading at a location word (R49, R51, R400, R430) -/

/-- Reads `len` bytes at a place, for body word `k` of a descriptor. The error is a status and DETAIL: POISONED 0x0004 for a bounce chunk
that fails authentication (R430); POISONED with DETAIL `hostFail` for a host read that fails (R51). -/
def readLoc (s : State) (d : Desc) (k : Nat) (rd : HostRead) (loc : Loc) (len : Nat) (hostFail : Nat := 2) :
    Except (Nat × Nat) ReadRes :=
  match loc with
  | .host a =>
    if !rd.ok then .error (0x31, hostFail)
    else if bounced s d.owner then
      match openBounce s.host (bounceKey s d.owner.idx d.ctx (descGen s d)) d.index k a (ceilDiv len 4096) 0 len with
      | none => .error (0x31, 4)
      | some bs => .ok { bytes := bs, poison := false }
    else .ok { bytes := Memory.readBytes s.host a len, poison := false }
  | .hbm e off => .ok { bytes := storeBytes s e off (Memory.readBytes s.hbm (hbmAddr e off) len), poison := hbmPoisoned s e off len }
  | .staging o off =>
    let a := o * 2 ^ 28 + off
    .ok { bytes := Memory.readBytes s.staging a len, poison := (lines a len).any fun l => s.stagingPoison.contains l }

/-- Judges an input location word and reads there. -/
def readIn (s : State) (d : Desc) (k len : Nat) (rd : HostRead) (own : Nat := 2) (hostFail : Nat := 2) : Except (Nat × Nat) ReadRes :=
  match locate s d.owner (d.w k) (occupied s d.owner (d.w k) len) false own with
  | .error e => .error e
  | .ok loc => if loc.regionReads s len = .refused then .error (0x22, 0xA) else readLoc s d k rd loc len hostFail

end Sys2Proof
end

