-- ==== Sys2Proof/Machine/FlashOps.lean ====
section
/-!
DEFINITION. What other families need of the flash side: namespaces and directory copies of a partition (R382, R384), the reads of a step-state region (R400), the
snapshot of a LIFT (R386), the commands that go to the drives (R433), and the end of a region's drain or restore (R399).
-/
namespace Sys2Proof

open Machine (State Fault Refusal)

/-! ### Flash space (R382, R384, R394, R395) -/

/-- Whether a partition holds a failed drive (R394). -/
def holdsFailed (s : State) (p : Nat) : Bool := (assignedNs s p).any fun x => (getDrive s x.1).state == .failed

/-- The bytes of a partition's flash space: 128/129 of its usable namespaces (R382, R433). -/
def flashSpace (s : State) (p : Nat) : Nat :=
  ((usableNs s p).map fun x => ((lookup? (getDrive s x.1).blocks (x.2 + 1)).getD 0) * 128 / 129 * 4096).sum

/-- Bytes of whole stripe units (R384). -/
def stripeUnit : Nat := 131072
def inUnits (n : Nat) : Nat := ceilDiv n stripeUnit * stripeUnit

/-- What bytes that go round robin over namespaces take of a partition's flash space: their stripe units on namespaces that it can use (R384, R394). -/
def unitsOn (s : State) (p : Nat) (ns : List (Nat × Nat)) (bytes : Nat) : Nat :=
  let n := ceilDiv bytes stripeUnit
  ((ns.mapIdx fun j x => if (usableNs s p).contains x then (n + ns.length - 1 - j) / ns.length else 0).sum) * stripeUnit

/-- Bytes of the spill area's slot table, in whole units of 4 KiB, and of the area (R395). -/
def slotTableBytes (slots : Nat) : Nat := ceilDiv (48 * slots) 4096 * 4096
def spillBytes (slots : Nat) : Nat := slotTableBytes slots + 16384 * slots

/-- Objects of a partition that are being written: of a DRAIN, staged by one, and of a step-state region (R384, R403). -/
def comingObjects (s : State) (p : Nat) : List (Nat × FlashObj) :=
  (s.flight.flatMap fun d =>
    if d.owner = ownerOf p then
      (d.pendingObj.map fun o => (fld (d.w 2) 63 32, o)).toList ++ d.effects.filterMap fun e => match e with
        | .putObject _ id o => some (id, o)
        | _ => none
    else [])
  ++ (getFlash s p).regions.flatMap fun r => r.2.writing.map fun y => (r.2.base + 2 * y.1 + r.2.version % 2, y.2)

/-- Bytes taken of a partition's flash space: objects, those that a LIFT still reads, those being written, and the spill area (R386, R395). -/
def flashTaken (s : State) (p : Nat) : Nat :=
  let x := getFlash s p
  let take := fun (o : FlashObj) => unitsOn s p o.spaces o.stored
  ((x.objects.map fun o => take o.2).sum) + ((x.old.map take).sum) + (((comingObjects s p).map fun o => take o.2).sum)
    + (if x.spillState = 1 then unitsOn s p x.spillSpaces (spillBytes x.spillSlots) else 0)

/-! ### Commands to the drives (R384, R395, R433) -/

/-- The commands for bytes `off` to `off + n` of an area whose stripe units go round robin over namespaces: one for each stripe unit that they touch, with the drive
that it goes to. `place` says which stripe of its namespace holds a stripe unit; `data` is what is written from the first whole unit of 4 KiB on. -/
def stripePieces (ns : List (Nat × Nat)) (place : Nat → Nat) (gen off n : Nat) (data : List Byte) : List (Nat × FlashChunk) :=
  let a := off / 4096
  let b := ceilDiv (off + n) 4096
  (List.range (ceilDiv b 32 - a / 32)).filterMap fun k =>
    let j := a / 32 + k
    let lo := max a (32 * j)
    let hi := min b (32 * j + 32)
    (ns[j % max 1 ns.length]?).map fun x =>
      (x.1, { ns := x.2, unit := 32 * place j + lo % 32, count := hi - lo, gen := gen, data := (data.drop (4096 * (lo - a))).take (4096 * (hi - lo)) })

/-- The commands for bytes of an object as it is stored. -/
def objectPieces (p : Nat) (x : FlashObj) (off n : Nat) (data : List Byte) : List (Nat × FlashChunk) :=
  stripePieces x.spaces (Config.flashPlace p (2 + x.gen)) x.gen off n data

/-- The commands for the stored bytes of a spill slot and for its entry in the slot table (R395). -/
def slotPieces (s : State) (p slot gen n : Nat) (data table : List Byte) : List (Nat × FlashChunk) :=
  let x := getFlash s p
  let at_ := stripePieces x.spillSpaces (Config.flashPlace p 1) gen
  at_ (slotTableBytes x.spillSlots + 16384 * slot) n data ++ at_ (48 * slot / 4096 * 4096) (48 * slot % 4096 + 48) table

/-- Whether the drives of a spill slot serve. -/
def slotServes (s : State) (p slot : Nat) : Bool := (slotPieces s p slot 0 16384 [] []).all fun x => driveServes s x.1

/-- The entry of a spilled page in the slot table (R395): the frame record words F0 and F1, and the block words of a CB16 page. -/
def slotEntry (x : SpillPage) : List Byte :=
  ofWords [put 63 61 (FrameState.code .sealed) ||| put 60 56 x.fill ||| put 55 48 x.format ||| put 47 24 1, put 63 32 x.check ||| put 31 0 x.writer]
    ++ ofWords ((List.range 4).map fun k => if x.format = 0x30 then x.words.getD k 0#64 else 0#64)

/-- The units of the slot table that hold the entry of a slot, over the pages that slots hold. -/
def slotTableUnits (pages : List (Nat × SpillPage)) (slot : Nat) : List Byte :=
  let a := 48 * slot / 4096 * 4096
  let n := ceilDiv (48 * slot % 4096 + 48) 4096 * 4096
  slice ((List.range (n / 48 + 2)).flatMap fun k => ((lookup? pages (a / 48 + k)).map slotEntry).getD (List.replicate 48 0#8)) (a % 48) n

/-- The writes of a directory change: one unit in each copy whose drive serves (R384; the size of an entry is this model's choice). -/
def directoryPieces (s : State) (p : Nat) : List (Nat × FlashChunk) :=
  let n := (getFlash s p).commits + 1
  ((copyDrives s p).filter (driveServes s)).mapIdx fun k d =>
    (d, { ns := (((assignedNs s p).find? fun x => x.1 == d).map (·.2)).getD 0, unit := 32 * Config.flashPlace p 0 k, count := 1, gen := n
          data := (List.range 4096).map (Config.directoryByte p n) })

/-- A data unit sealed for its namespace (R433): XTS under the partition's keys, with the tweak that holds LBA and index 16d + m, and the tag's MAC and generation. -/
def sealUnit (keys : List Byte) (binding : Word) (index gen unit : Nat) (plain : List Byte) : FlashUnit :=
  let lba := unit / 128 * 129 + unit % 128
  let cipher := Config.xtsSeal (keys.take 64) (leBytes 8 lba ++ leBytes 4 index ++ leBytes 4 0) plain
  let mac := (hmacSha3 (slice keys 64 32) (leBytes 8 binding.toNat ++ leBytes 4 index ++ leBytes 8 lba ++ leBytes 8 gen ++ cipher)).take 16
  { lba := lba, cipher := cipher, tagLba := unit / 128 * 129 + 128, entry := unit % 128, tag := mac ++ leBytes 8 gen ++ leBytes 8 0 }

/-- A command as it goes to a drive: what it writes is sealed, the last unit filled up with bytes that have no value. -/
def sendChunk (s : State) (o : FlashOp) (c : FlashChunk) : State :=
  let sealed_ := fun (k : Nat) =>
    sealUnit ((lookup? s.belfry.flashKeys o.owner).getD []) (getPart s o.owner).binding (16 * o.drive + c.ns) c.gen (c.unit + k)
      ((List.range 4096).map fun j => c.data.getD (4096 * k + j) (Config.idleByte s.free (4096 * k + j)))
  { s with out := .nvme o.drive c.ns (c.unit / 128 * 129 + c.unit % 128) c.count (c.unit / 128 * 129 + 128) o.write (if o.write then (List.range c.count).map sealed_ else []) :: s.out }

/-! ### Reads of a step-state region that wait (R400) -/

/-- Reads over the network that waited for units of a partition's regions are answered once the units are there. -/
def serveWaits (s : State) : State :=
  s.net.qps.foldl (fun s e => e.2.responses.foldl (fun s r =>
    match r.wait with
    | some (parts, psn) =>
      if parts.all fun x => regionReads s x.1 x.2.1 x.2.2 == .now then
        let bs := parts.flatMap fun x => Memory.readBytes s.hbm (hbmAddr x.1 x.2.1) x.2.2
        if e.2.service.roce then
          let s := modQp s e.1 fun q => { q with responses := q.responses.filter fun y => y != r }
          roceRespond s e.1 e.2 psn bs true
        else pumpResponses (modQp s e.1 fun q => { q with responses := q.responses.map fun y => if y = r then { y with data := bs, wait := none } else y }) e.1
      else s
    | none => s) s) s

/-- Reads that wait for a region whose restore fails: over the network they end with OPERATION, and a COPY ends with a TIER_FAIL DETAIL (R400). -/
def failWaits (s : State) (p r det : Nat) : State :=
  let here := fun (e : Nat) => decide ((regionAt s e).map (fun x => (x.1, x.2.1)) = some (p, r))
  let s := s.net.qps.foldl (fun s e => e.2.responses.foldl (fun s y =>
    match y.wait with
    | some (parts, psn) =>
      if parts.any fun x => here x.1 then
        let s := modQp s e.1 fun q => { q with responses := q.responses.filter fun z => z != y
                                               rxMsgs := q.rxMsgs.map fun m => if m.num = y.num ∧ m.kind = .readReq then { m with failed := true } else m }
        if e.2.service.roce then roceReply s e.1 .nakOperation psn else sendNak s e.1 y.lane 0 psn 4
      else s
    | none => s) s) s
  s.flight.foldl (fun s d =>
    if d.phase = .ready ∧ d.opcode = 0x06 then
      match locate s d.owner (d.w 2) d.len false with
      | .ok (.hbm e off) => if here e ∧ regionReads s e off d.len = .waits then putDesc s (d.finish stTier det) else s
      | _ => s
    else s) s

/-! ### Region states (R399) -/

/-- STEP_QUERY's code of a state. -/
def RegionState.code : RegionState → Nat
  | .open_ => 1
  | .sealed => 2
  | .draining => 3
  | .durable => 4
  | .onFlash => 5
  | .lifting => 6

def modRegion (s : State) (p r : Nat) (f : StepRegion → StepRegion) : State := modFlash s p fun y => { y with regions := adjust y.regions r f }

/-- The object of an extent of a region at a version (R397). -/
def StepRegion.object (x : StepRegion) (k version : Nat) : Nat := x.base + 2 * k + version % 2

/-- REGION of a step operation. -/
def Desc.region (d : Desc) : Nat := fld (d.w 2) 35 32

/-- A drain ends without success: the objects of this generation that were drained are deleted, and the region is SEALED. -/
def drainFails (s : State) (p r : Nat) : State :=
  match lookup? (getFlash s p).regions r with
  | none => s
  | some x =>
    let s := x.done.foldl (fun s k => delObject s p (x.object k x.version)) s
    modRegion s p r fun x => { x with state := .sealed, writing := [], done := [], started := 0, by_ := none }

/-- A restore ends without success: reads that wait fail, and the region is ON_FLASH. -/
def restoreFails (s : State) (p r det : Nat) : State := modRegion (failWaits s p r det) p r fun x => { x with state := .onFlash, lifted := [], by_ := none }

/-- What the end of a stopped descriptor does to its region: an aborted restore has no TIER_FAIL DETAIL, and its waiting COPYs get a free one. -/
def flashStopped (s : State) (d : Desc) (det : Option Nat) : State :=
  match d.owner with
  | .fm => s
  | .part p =>
    match lookup? (getFlash s p).regions d.region with
    | none => s
    | some x =>
      if x.by_ ≠ some (d.ctx, d.index) then s
      else if x.state = .draining then drainFails s p d.region
      else if x.state = .lifting then
        let (v, s) := orFree s det 15
        restoreFails s p d.region v
      else s

/-! ### The snapshot of a LIFT (R386) -/

/-- The write generation of the object that a LIFT OBJECT finds at its dispatch. -/
def objectAt (s : State) (o : Owner) (ws : List Word) : Option Nat :=
  match o with
  | .part p => if fld (wd ws 0) 63 56 = 0x08 ∧ fld (wd ws 0) 47 32 = 1 then (lookup? (getFlash s p).objects (fld (wd ws 2) 63 32)).map (·.gen) else none
  | .fm => none

/-- The space of a replaced object is free when the last LIFT that reads it has committed. -/
def dropOld (s : State) (d : Desc) : State :=
  match d.owner, d.objGen with
  | .part p, some g =>
    if s.flight.any fun x => x.owner == d.owner && x.objGen == some g then s
    else modFlash s p fun y => { y with old := y.old.filter fun x => x.gen != g }
  | _, _ => s

/-- The operations of a descriptor. -/
def opsFor (s : State) (d : Desc) : List FlashOp := s.flash.ops.filter fun o => o.ctx == d.ctx && o.index == d.index

/-- Removes operations of a descriptor. -/
def removeOps (s : State) (d : Desc) (f : FlashOp → Bool) : State :=
  { s with flash := { s.flash with ops := s.flash.ops.filter fun o => !(o.ctx == d.ctx && o.index == d.index && f o) } }

end Sys2Proof
end

