-- ==== Sys2Proof/Machine/Operands.lean ====
section
/-!
DEFINITION. The operand forms of descriptors: which operations exist, which take an input tile, the reserved bits of a body, the words of a
program step after SUBST, and the sequences, scale slots and decode tables that a descriptor names (R46, R47, R60, R65, R67, R88, R178, R216).
-/
namespace Sys2Proof

open Machine (State Fault Refusal)

/-- The SUBOP values of a station's operations (R35, R50, R61, R67, R91, R117, R147, R184, R242, R297, R388). -/
def legalSubops (opcode : Nat) : List Nat :=
  match opcode with
  | 0x01 => [0x01, 0x02, 0x10, 0x11, 0x12, 0x13]
  | 0x02 => [1, 2, 3, 4, 5, 6, 7, 8, 9, 0x10, 0x11]
  | 0x03 => [1, 2]
  | 0x04 => [1, 2, 3]
  | 0x05 => [1, 2, 3, 4, 0x10, 0x11]
  | 0x06 => [0]
  | 0x07 => [1, 2, 0x10, 0x11, 0x12, 0x13, 0x14]
  | 0x08 => [1, 2, 0x10, 0x11]
  | 0x09 => [1, 2, 3, 4, 0x10, 0x11, 0x12, 0x13]
  | 0x0A => [1]
  | 0x0B => [0]
  | 0x0C => [1, 2, 3, 0x10, 0x11, 0x12, 0x20, 0x21, 0x22, 0x30, 0x31, 0x32, 0x40, 0x41]
  | _ => []

/-- Whether an operation takes an input tile (R47, R91, R147, R184, R219, R244, R318, R593). -/
def takesTile (opcode subop : Nat) : Bool :=
  match opcode with
  | 0x01 => true
  | 0x02 => subop == 2
  | 0x03 => subop == 1
  | 0x04 => true
  | 0x05 => subop != 0x11
  | 0x09 => [1, 2, 4].contains subop
  | _ => false

/-- Whether an operation exists: its SUBOP is legal and, for QP_MODIFY, its ACTION (R299). -/
def legalOp (ws : List Word) : Bool :=
  let op := fld (wd ws 0) 63 56
  let sub := fld (wd ws 0) 47 32
  (legalSubops op).contains sub && (!(op == 0x09 && sub == 0x11) || (decide (1 ≤ fld (wd ws 2) 23 20) && decide (fld (wd ws 2) 23 20 ≤ 5)))

/-- W0 of a descriptor or step template (R46): OPCODE legal, VERSION 0x1. -/
def w0Legal (w : Word) : Bool := decide (1 ≤ fld w 63 56) && decide (fld w 63 56 ≤ 0x0C) && fld w 55 52 == 1

/-- Whether every body bit outside the masks of W2 to W7 is 0 (R10). -/
def bodyOk (ws : List Word) (masks : List Word) : Bool :=
  (List.range 6).all fun k => wd ws (2 + k) &&& ~~~(masks.getD k 0#64) == 0#64

/-- A mask of all bits. -/
def allBits : Word := BitVec.allOnes 64

/-- The words of a program step (R65): the fields of W2 to W7 that SUBST names come from the invoking descriptor. -/
def stepWords (inv tmpl : List Word) : List Word :=
  let sub := fld (wd tmpl 1) 23 0
  [wd tmpl 0, wd tmpl 1] ++ (List.range 6).map fun k =>
    (List.range 4).foldl (fun w j =>
      if (sub >>> (4 * k + j)) % 2 = 1 then merge w (wd inv (2 + k)) (maskOf (16 * j + 15) (16 * j)) else w) (wd tmpl (2 + k))

/-- The sequence locks that an operation takes: sequence, and whether exclusively (R88, R153). A BATCH takes its locks when it has read its
entries. -/
def locksOf (p : Nat) (ws : List Word) : List (Nat × Nat × Bool) :=
  let sub := fld (wd ws 0) 47 32
  let seq := fld (wd ws 2) 31 0
  match fld (wd ws 0) 63 56 with
  | 0x02 =>
    if sub = 4 then [(p, seq, true), (p, fld (wd ws 3) 31 0, true)]
    else if 1 ≤ sub ∧ sub ≤ 9 then [(p, seq, true)] else []
  | 0x03 => if sub = 1 then [(p, seq, false)] else []
  | 0x04 => if sub = 2 then [(p, seq, false)] else []
  | _ => []

/-- The header of a BATCH's input and its number of entries (R157). -/
def batchHeader (bs : List Byte) : List Word := toWords 4 bs
def batchCount (bs : List Byte) : Nat := fld (wd (batchHeader bs) 0) 9 0 + 1

/-- The scale slots that an operation names outside its input tile (R178). -/
def slotsOf (ws : List Word) : List Nat :=
  let sub := fld (wd ws 0) 47 32
  match fld (wd ws 0) 63 56 with
  | 0x01 => if sub = 1 then [fld (wd ws 2) 7 0] else []
  | 0x03 => if sub = 1 then [fld (wd ws 7) 63 56] else []
  | 0x04 => if sub = 1 ∧ !bit (wd ws 2) 55 then [] else if sub = 1 ∨ sub = 2 then [fld (wd ws 7) 63 56] else List.range 16
  | _ => []

/-- The partition whose slots a LOAD_DECODE_TABLE or LOAD_SCALE_TABLE loads (R183, R218). -/
def loadTarget (d : Desc) : Nat :=
  match d.owner with
  | .part p => p.val
  | .fm => fld (wd d.words 3) 11 8

/-- Whether a descriptor is a load of a decode slot of a partition, chosen at its dispatch (R215). -/
def Desc.loadsSlot (d : Desc) (p k : Nat) : Bool := d.opcode == 0x0C && d.subop == 0x21 && loadTarget d == p && d.loadSlot == some k

/-- The load of a decode slot that was dispatched last among descriptors in flight (R216). -/
def pendingLoad (ds : List Desc) (p k : Nat) : Option (Nat × BitVec 32) := (ds.reverse.find? fun x => x.loadsSlot p k).map fun x => (x.ctx, x.index)

/-- The descriptors in flight that were dispatched before one. -/
def dispatchedBefore (s : State) (d : Desc) : List Desc := s.flight.takeWhile fun x => !(x.ctx == d.ctx && x.index == d.index)

/-- Takes the hold of R216 on each decode slot of a partition: on the table that the slot holds, or on the one that a load in flight is loading. -/
def holdTables (s : State) (p : Nat) (d : Desc) : Desc :=
  { d with tables := (getPart s p).decode, tableLoads := [0, 1].map (pendingLoad s.flight p) }

/-- Whether the first use of a decode slot by a descriptor must wait for the load that was pending at its dispatch (R216). -/
def Desc.slotWaits (d : Desc) (k : Nat) : Bool := (d.tableLoads.getD k none).isSome

/-- Whether the use of any block with these block words or headers must wait: a coded one names a slot whose load is pending (R216). -/
def Desc.wordsWait (d : Desc) (ws : List Word) : Bool := ws.any fun w => bit w 63 && d.slotWaits (fld w 62 62)

/-- Whether a table slot of a partition is still held against a load (R216): by a descriptor dispatched before it, or by a coded tile that waits for a
successor or stands in a descriptor. A slot without a table has nothing that is held. -/
def slotHeld (s : State) (before : List Desc) (p slot : Nat) : Bool :=
  let tile := fun (t : Option Tile) => match t with
    | some t => t.tableHold == some (p, slot)
    | none => false
  ((getPart s p).decode.getD slot none).isSome
    && ((before.any fun x => x.owner.part? == some p && ((x.tables.getD slot none).isSome || x.slotWaits slot))
      || (s.flight.any fun x => tile x.input || tile x.output) || s.owners.any fun o => o.rings.any fun r => tile (r.2.prev.bind (·.2)))

/-- The slot that a LOAD_DECODE_TABLE takes at its dispatch (R215): the one that it names, or, of either, an empty one, then one without holds, else the
one loaded earlier. A slot that is empty while a load of it is pending counts as empty (DESIGN CHOICE, log entry 14). -/
def chooseSlot (s : State) (p : Nat) (ws : List Word) : Option Nat :=
  let x := getPart s p
  match fld (wd ws 3) 5 4 with
  | 0 => some 0
  | 1 => some 1
  | 2 => match [0, 1].find? fun k => (x.decode.getD k none).isNone with
    | some k => some k
    | none => match [0, 1].find? fun k => !slotHeld s s.flight p k with
      | some k => some k
      | none => some (1 - x.lastDecode)
  | _ => none

/-- Whether an operation takes a hold on the decode tables (R216); so does a DRAIN that codes (R389). -/
def holdsTables (ws : List Word) : Bool :=
  let sub := fld (wd ws 0) 47 32
  match fld (wd ws 0) 63 56 with
  | 0x01 => decide (0x10 ≤ sub)
  | 0x02 => sub == 2
  | 0x03 => sub == 1
  | 0x04 => sub == 2 || sub == 3
  | 0x07 => (sub == 1 || sub == 0x12) && bit (wd ws 2) 31
  | _ => false

/-- The operations that a descriptor runs: its own, or those of its program's steps. -/
def opsOf (ws : List Word) (prog : Option (List (List Word))) : List (List Word) :=
  match prog with
  | none => [ws]
  | some steps => steps.map fun t => stepWords ws t

/-- A conflict of two lock sets: a sequence in both, one of them exclusive. -/
def locksClash (a b : List (Nat × Nat × Bool)) : Bool :=
  a.any fun x => b.any fun y => x.1 == y.1 && x.2.1 == y.2.1 && (x.2.2 || y.2.2)

/-- Whether a descriptor holds every lock that it wants. -/
def Desc.locked (d : Desc) : Bool := d.locks.all fun x => d.heldLocks.contains x

/-- Whether a descriptor may be granted its locks now (R88): no other holder clashes, and no descriptor dispatched before it that wants or holds
one. -/
def lockFree (s : State) (d : Desc) : Bool :=
  let before := s.flight.takeWhile fun x => !(x.ctx == d.ctx && x.index == d.index)
  let need := d.locks.filter fun x => !d.heldLocks.contains x
  (before.all fun x => !locksClash x.locks need)
    && s.flight.all fun x => (x.ctx == d.ctx && x.index == d.index) || !locksClash x.heldLocks need

end Sys2Proof
end

