-- ==== Sys2Proof/Machine/Requests.lean ====
section
/-!
DEFINITION. The attention requests that an ATTEND, an EXACT and a BATCH make (R118, R121, R151, R157), and the buckets of a BATCH's entries (R158, R160).
-/
namespace Sys2Proof

open Machine (State Fault Refusal)

/-- An attention over one head list (R121, R151, R157): layer, KV head, token range, window, vectors and vectors per position. -/
structure AttnReq where
  seq : Nat
  layer : Nat
  head : Nat
  first : Nat
  last : Nat
  window : Nat
  qcount : Nat
  group : Nat
deriving DecidableEq, Repr

/-- An FP32 softmax scale is legal when it is positive and finite (R118). -/
def scaleLegal (w : Nat) : Bool := decide (0 < w ∧ w < 0x7F800000)

/-- The request of an ATTEND, read from its body (R118). -/
def attendReqOf (d : Desc) : AttnReq :=
  { seq := fld (d.w 2) 31 0, layer := fld (d.w 2) 39 32, head := fld (d.w 2) 45 40, first := fld (d.w 3) 24 0, last := fld (d.w 3) 56 32
    window := fld (d.w 4) 24 0, qcount := fld (d.w 2) 54 51 + 1, group := fld (d.w 2) 50 48 + 1 }

/-- The request of an EXACT (R151). -/
def exactReqOf (d : Desc) : AttnReq :=
  { seq := fld (d.w 2) 31 0, layer := fld (d.w 2) 39 32, head := fld (d.w 2) 45 40, first := fld (d.w 3) 24 0, last := fld (d.w 3) 56 32
    window := fld (d.w 4) 24 0, qcount := fld (d.w 2) 55 48 + 1, group := fld (d.w 7) 45 40 + 1 }

/-! ### The entries of a BATCH (R157) -/

/-- Vectors of each entry of a BATCH. -/
def batchQ (bs : List Byte) : Nat := fld (wd (batchHeader bs) 0) 47 40 + 1

/-- The requests of a BATCH's entries. -/
def batchReqs (bs : List Byte) : List AttnReq :=
  let h := batchHeader bs
  (List.range (batchCount bs)).map fun k =>
    let n := toWords 2 (slice bs (32 + 16 * k) 16)
    { seq := fld (wd n 0) 63 32, layer := fld (wd n 0) 7 0, head := fld (wd n 0) 13 8, first := fld (wd n 1) 24 0, last := fld (wd n 1) 56 32
      window := fld (wd h 1) 24 0, qcount := batchQ bs, group := fld (wd h 0) 37 32 + 1 }

/-- The bucket of a number of pages (R158). -/
def bucketOf (n : Nat) : Nat :=
  if n ≤ 4 then 0 else if n ≤ 16 then 1 else if n ≤ 64 then 2 else if n ≤ 256 then 3 else if n ≤ 1024 then 4 else if n ≤ 4096 then 5
  else if n ≤ 16384 then 6 else 7

/-- RESULT1 of a BATCH: entries of each bucket (R160). -/
def bucketWord (ns : List Nat) : Nat :=
  ((List.range 8).map fun b => min 255 (ns.filter fun n => bucketOf n == b).length * 2 ^ (8 * b)).sum

/-- The attention requests of a sweep or fold in hand: one, or one for each entry of a BATCH. -/
def attnReqs (d : Desc) : List AttnReq :=
  if d.opcode = 0x03 then [attendReqOf d] else if d.subop = 2 then [exactReqOf d] else batchReqs d.held

/-- Pages of each entry that a walk emitted. -/
def entryPages (d : Desc) : List Nat :=
  (List.range (attnReqs d).length).map fun k => (d.pages.filter fun w => w.entry == k).length

end Sys2Proof
end

