-- ==== Sys2Proof/Machine/Commit.lean ====
section
/-!
DEFINITION. Dispatch of descriptors from their rings and the commit of a descriptor, by whatever way it ends (R46 to R74, R429, R594).
-/
namespace Sys2Proof

open Machine (State Fault Refusal)

/-! ### Judging a queue context number (R594) -/

/-- The status and DETAIL with which a queue context number is refused; none when it names a ring of the requester of a kind that serves. -/
def judgeContext (s : State) (o : Owner) (ctx : Nat) (kinds : List RingKind) : Option (Nat × Nat) :=
  match lookup? s.contexts ctx with
  | none => some (0xF0, 1)
  | some (o', isQp, k) =>
    if o' ≠ o then some (0x22, 1)
    else if isQp then some (0xF0, 1)
    else if kinds.contains (cfgKind (getRing s o k).inCfg) then none else some (0xF0, 1)

/-- The setup slot of the ring that a queue context holds. -/
def contextSlot (s : State) (ctx : Nat) : Nat := ((lookup? s.contexts ctx).map (·.2.2)).getD 0

/-! ### Dispatch -/

/-- Distance from the oldest uncommitted index of a submission ring to the next index to dispatch (R74). -/
def uncommitted (s : State) (o : Owner) (k : Nat) : Nat :=
  let r := getRing s o k
  (s.flight.filter fun d => d.owner == o && d.slot == some k).foldl
    (fun a d => max a (sub32 r.dispatched d.index.toNat)) 0

/-- Descriptors of a ring below the INDEX last fetched and not yet dispatched (R43). -/
def undispatched (s : State) (o : Owner) (k : Nat) : Nat :=
  let r := getRing s o k
  let n := uncommitted s o k
  sub32 r.index (sub32 r.dispatched n) - n

/-- Completion credit of a submission ring (R55): a record that the node holds keeps its place (R466). -/
def credit (s : State) (o : Owner) (k : Nat) : Nat :=
  let c := getRing s o (cfgBind (getRing s o k).inCfg)
  cfgSize c.inCfg - c.unread - c.reserved - c.held.length

/-- The 64 bytes of a ring's n-th descriptor, opened in a CONFIDENTIAL partition (R429); none when authentication fails. -/
def readDescriptor (s : State) (o : Owner) (k n : Nat) : Option (List Byte) :=
  let r := getRing s o k
  let slot := n % cfgSize r.inCfg
  let bs := Memory.readBytes s.host (r.inBase + 64 * slot) 64
  if bounced s o then
    Config.gcmOpen (ringKey s o.idx r.queue (cfgGen r.inCfg)) (leBytes 4 (n % 2 ^ 32) ++ leBytes 8 0) []
      (bs ++ Memory.readBytes s.host (r.inTag + 16 * slot) 16)
  else some bs

/-- The status and DETAIL that R46, R47, R60 and R66 give a descriptor before any station sees it; none when it may run. `free` is the DETAIL
where the spec states none: a non-zero reserved bit of W0 or W1. -/
def dispatchCheck (s : State) (o : Owner) (k : Nat) (ws : List Word) (free : Nat) : Option (Nat × Nat) :=
  let r := getRing s o k
  let w0 := wd ws 0
  let w1 := wd ws 1
  let slot := fld w1 63 56
  let prog := lookup? (getOwner s o).programs slot
  let first := if slot = 0 then ws else (prog.getD []).headD []
  if !w0Legal w0 || decide (slot > 0x3F) || decide (fld w1 16 0 > 65536) then some (0xF0, 1)
  else if fld w0 49 48 ≠ 0 ∨ fld w1 55 17 ≠ 0 then some (0xF0, free % 2 ^ 15)
  else if slot ≠ 0 ∧ (prog.isNone ∨ fld w0 63 56 ≠ fld (wd first 0) 63 56) then some (0xF0, 1)
  else if slot = 0 ∧ !legalOp ws then some (0xF0, 1)
  else if bit w0 51 then
    if fld w1 16 0 ≠ 0 ∨ r.dispatched = 0 ∨ !takesTile (fld (wd first 0) 63 56) (fld (wd first 0) 47 32) then some (0xF0, 3)
    else match r.prev with
      | none => some (0xF0, 3)
      | some (st, tile) => if !validStatus st then some (0x02, 1) else if tile.isNone then some (0xF0, 3) else none
  else none

/-- What FENCE and ABORT judge at dispatch (R62, R594). -/
def judgeAtDispatch (s : State) (o : Owner) (ws : List Word) : Option (Nat × Nat) :=
  let op := fld (wd ws 0) 63 56
  if fld (wd ws 1) 63 56 ≠ 0 then none
  else if op = 0x0B ∧ bit (wd ws 2) 63 then judgeContext s o (fld (wd ws 2) 13 0) [.submission]
  else if op = 0x0C ∧ fld (wd ws 0) 47 32 = 1 then judgeContext s o (fld (wd ws 2) 13 0) [.submission]
  else none

/-! ### What a descriptor takes at its dispatch -/

/-- The entries' sequences and the scale slot of a BATCH's input (R157), when it is long enough to hold them. -/
def batchNames (bs : List Byte) : List Nat × Nat :=
  if bs.length < 32 + 16 * batchCount bs then ([], 0xFF)
  else ((List.range (batchCount bs)).map fun k => fld (wd (toWords 2 (slice bs (32 + 16 * k) 16)) 0) 63 32, fld (wd (batchHeader bs) 0) 63 56)

/-- What the station of an operation reads of its input as soon as it is dispatched: the image of a LOAD_DECODE_TABLE (R215) or of a LOAD_PATTERNS
(R248), and the entries of a BATCH, whose sequences it locks (R88). None when there is nothing to read so early; whether a host read failed shows when the row runs. -/
def earlyRead (s : State) (d : Desc) : Option (List Byte × Bool) :=
  let read := fun (k n : Nat) => match readIn s d k n { ok := true } with
    | .ok r => some (r.bytes, r.poison)
    | .error _ => none
  if !memActive s then none
  else if d.opcode = 0x0C ∧ d.subop = 0x21 then if fld (d.w 4) 31 0 = 384 ∧ fld (d.w 2) 63 60 ≠ 2 ∧ d.w 2 ≠ 0#64 then read 2 384 else none
  else if d.opcode = 0x0C ∧ d.subop = 0x22 then
    if !bit (d.w 3) 4 ∧ fld (d.w 4) 31 0 ≥ 64 ∧ fld (d.w 2) 63 60 ≠ 2 ∧ d.w 2 ≠ 0#64 then read 2 (fld (d.w 4) 31 0) else none
  else if d.opcode = 0x04 ∧ d.subop = 3 then
    if d.chainIn then d.input.map fun t => (t.bytes, t.poison) else if d.w 2 = 0#64 then none else read 2 d.len
  else none

/-- The shared locks that a BATCH takes for the entries read at its dispatch (R88, R157). -/
def batchLocks (p : Nat) (d : Desc) : List (Nat × Nat × Bool) :=
  match d.early with
  | some (bs, false) => if d.opcode = 0x04 ∧ d.subop = 3 then ((batchNames bs).1.map fun n => (p, n, false)).eraseDups else []
  | _ => []

/-- The scale slots that a dispatched descriptor names (R178): of a BATCH the one in its header, when that could be read. -/
def namedSlots (d : Desc) : List Nat :=
  match d.prog, d.early with
  | none, some (bs, _) => if d.opcode = 0x04 ∧ d.subop = 3 then [(batchNames bs).2] else slotsOf d.words
  | prog, _ => (opsOf d.words prog).flatMap slotsOf

/-- The sequence ID that a CREATE or FORK makes (R88). -/
def newSeqOf (ws : List Word) : Option Nat :=
  if fld (wd ws 0) 63 56 = 2 ∧ (fld (wd ws 0) 47 32 = 1 ∨ fld (wd ws 0) 47 32 = 4) then some (fld (wd ws 2) 31 0) else none

/-- Takes what an operation takes when it is dispatched, or when its program step starts (R88): its locks, at once when they are free, else it
waits and the wait is counted; and the new ID of a FORK. A CREATE or FORK of an ID that is reserved is MALFORMED. -/
def takeLocks (s : State) (d : Desc) : State × Desc :=
  match d.owner with
  | .fm => (s, d)
  | .part p =>
    let taken := match newSeqOf d.cur with
      | some n => (getPart s p).reservedSeqs.contains n && !d.newSeqs.contains n
      | none => false
    let fork := if d.opcode = 2 ∧ d.subop = 4 ∧ !taken then (newSeqOf d.cur).toList else []
    let s := modPart s p fun x => { x with reservedSeqs := fork ++ x.reservedSeqs }
    let want := locksOf p d.cur ++ (batchLocks p d).filter fun x => !d.locks.any fun y => y.1 == x.1 && y.2.1 == x.2.1
    let d := { d with idTaken := taken, newSeqs := fork ++ d.newSeqs, locks := d.locks ++ want.filter fun x => !d.locks.contains x }
    if d.locked then (s, d)
    else if lockFree s d then (s, { d with heldLocks := d.locks })
    else (count s d.owner 1 1, d)

/-- What a descriptor that passes its checks takes at its dispatch beside its locks: the program and the input tile, the owner's defaults (R194, R554), scale tables
(R178), decode tables (R216), pattern set (R248) and flash object (R386), the ring that it names (R594), and what its station reads at once. -/
def captureAt (s : State) (o : Owner) (d : Desc) (prog : Option (List (List Word))) (tile : Option Tile) : Desc :=
  let ws := d.words
  let op := fld (wd ws 0) 63 56
  let sub := fld (wd ws 0) 47 32
  let d := { d with prog := prog, input := tile, defaults := (getOwner s o).defaults, objGen := objectAt s o ws
                    -- a SET_MODE takes its commit point at dispatch (R30)
                    latched := prog.isNone && o == Owner.fm && op == 0x0C && sub == 0x10 }
  let d := { d with early := if prog.isSome then none else earlyRead s d }
  let d := { d with named := if prog.isNone ∧ ((op = 0x0B ∧ bit (wd ws 2) 63) ∨ (op = 0x0C ∧ sub = 1)) then some (contextSlot s (fld (wd ws 2) 13 0)) else none
                    loadSlot := if prog.isNone ∧ op = 0x0C ∧ sub = 0x21 then chooseSlot s (loadTarget d) ws else none }
  match o with
  | .fm => d
  | .part p =>
    let d := { d with scale := (getPart s p).scales.filter fun e => (namedSlots d).contains e.1, patterns := (getPart s p).patterns
                      patternHold := if (opsOf ws prog).any fun w => fld (wd w 0) 63 56 == 0x05 && fld (wd w 0) 47 32 == 0x10 then (getPart s p).patternBlocks else none }
    if (opsOf ws prog).any holdsTables then holdTables s p d else d

/-- Puts one descriptor of a ring in flight. -/
def dispatchDesc (s : State) (o : Owner) (k : Nat) (bs : List Byte) : State :=
  let r := getRing s o k
  let ws := toWords 8 bs
  let (v, s) := if fld (wd ws 0) 49 48 ≠ 0 ∨ fld (wd ws 1) 55 17 ≠ 0 then draw s else (0, s)
  let prog := if fld (wd ws 1) 63 56 = 0 then none else lookup? (getOwner s o).programs (fld (wd ws 1) 63 56)
  let tile := if bit (wd ws 0) 51 then (r.prev.bind (·.2)) else none
  let d : Desc := { owner := o, slot := some k, ctx := r.queue, index := BitVec.ofNat 32 r.dispatched, words := ws, time := s.time
                    cur := if prog.isSome then [] else ws }
  let problem := match dispatchCheck s o k ws v with
    | some e => some e
    | none => judgeAtDispatch s o ws
  let c := cfgBind r.inCfg
  let s := modRing (modRing s o c fun x => { x with reserved := x.reserved + 1 }) o k fun x =>
    { x with dispatched := x.dispatched + 1, prev := none, state := .active }
  match problem with
  | some (st, det) => { s with flight := s.flight ++ [d.finish st det] }
  | none =>
    let d := captureAt s o d prog tile
    if prog.isSome then { s with flight := s.flight ++ [d] }
    else
      let (s, d) := takeLocks s d
      { s with flight := s.flight ++ [d] }

/-- Whether the next descriptor of a ring must wait for another to commit (R60, R61). -/
def dispatchHeld (s : State) (o : Owner) (k : Nat) (bs : List Byte) : Bool :=
  let r := getRing s o k
  (s.flight.any fun d => d.owner == o && d.slot == some k && fld (wd d.words 0) 63 56 == 0x0B) || (bit (wd (toWords 1 bs) 0) 51 && r.dispatched != 0 && r.prev.isNone)

/-- Whether a FENCE of a ring is in flight (R61). -/
def fenceHeld (s : State) (o : Owner) (k : Nat) : Bool :=
  s.flight.any fun d => d.owner == o && d.slot == some k && fld (wd d.words 0) 63 56 == 0x0B

/-- Dispatches what a submission ring has ready (R55, R58, R60, R61, R73), passing over descriptors that an ABORT took before their dispatch; `n` bounds
how many. -/
def pump (s : State) (o : Owner) (k : Nat) (descOk : Bool) : Nat → State
  | 0 => s
  | n + 1 =>
    let r := getRing s o k
    if !(r.state == .active || r.state == .stalled) || r.closing || scrubbing s o || cfgKind r.inCfg != .submission || undispatched s o k == 0 || !s.cxl.linkUp then s
    else if !descOk || (bounced s o && r.dispatched != 0 && r.dispatched % 2 ^ 32 == 0) then ringError s o k 0x11
    else if r.skips.contains (r.dispatched % 2 ^ 32) then
      if fenceHeld s o k then s
      else
        let i := r.dispatched % 2 ^ 32
        pump (modRing s o k fun x => { x with dispatched := x.dispatched + 1, prev := some (0x02, none), failed := i :: x.failed
                                              skips := x.skips.filter fun y => y != i }) o k descOk n
    else match readDescriptor s o k r.dispatched with
      | none => ringError s o k 0x11
      | some bs =>
        if dispatchHeld s o k bs then s
        else if credit s o k = 0 then
          if r.state = .stalled then s
          else modRing s o k fun x => { x with state := .stalled, stalls := min (x.stalls + 1) (2 ^ 32 - 1) }
        else pump (dispatchDesc s o k bs) o k descOk n

/-- Dispatches on every submission ring of an owner; the descriptor reads of the rings in `badRings` fail. -/
def pumpOwner (s : State) (o : Owner) (badRings : List Nat) : State :=
  (getOwner s o).rings.foldl (fun s e => pump s o e.1 (!badRings.contains e.1) 65536) s

/-! ### Commit -/

/-- Puts a progress record at its place: in a bounce buffer sealed as the chunk of its sequence number (R430). -/
def writeProgress (s : State) (d : Desc) (loc : Loc) (bs : List Byte) : State :=
  match loc with
  | .host a =>
    if bounced s d.owner then
      { s with host := Memory.writeBytes s.host a (Config.gcmSeal (bounceKey s d.owner.idx d.ctx (descGen s d)) (bounceIv d.index true 6 d.progressCount) [] bs) }
    else writeLoc s d 6 loc bs
  | _ => writeLoc s d 6 loc bs

/-- Writes the progress record of an ATTEND (R134); nothing where no station may write (R80). -/
def progressRecord (s : State) (d : Desc) (final : Bool) : State :=
  match locate s d.owner (d.w 6) (occupied s d.owner (d.w 6) 32) true with
  | .error _ => s
  | .ok loc =>
    if (writable s loc).isSome then s else
    let done := (d.pages.filter fun w => w.state == .done).length
    let exact := (d.pages.filter fun w => w.route != .bank).length
    writeProgress s d loc (ofWords
      [put 63 32 done ||| put 31 0 d.pages.length, put 63 56 (ceilDiv (fld (d.w 2) 54 51 + 1) 4) ||| put 31 0 d.chunks,
       put 63 32 exact ||| put 31 0 (satField 32 d.billed), put 63 63 (b2n final) ||| put 47 0 (time48 s)])

/-- The last progress record of an ATTEND, with FINAL set, before its completion record (R134); one that is MALFORMED leaves no trace but that record (R47). -/
def finalProgress (s : State) (d : Desc) : State :=
  if d.opcode = 0x03 ∧ d.subop = 1 ∧ d.status ≠ stMalformed ∧ d.w 6 ≠ 0#64 then progressRecord s d true else s

/-- Gives back what a descriptor holds: pins, frames still RESERVED, to FREE or to what they were (R96, R108), claims on extents, its new sequence ID, its pieces
and its turns on units. -/
def releaseDesc (s : State) (d : Desc) : State :=
  let s := d.pages.foldl (fun s w => match w.frame with
    | some f => if w.pinned then unpinFrame s f else s
    | none => s) s
  -- the turns of a unit go on from the descriptor before it (R113)
  let before := (dispatchedBefore s d).getLast?.map fun x => (x.ctx, x.index)
  let s := { s with units := s.units.map fun u => if u.2.last = some (d.ctx, d.index) then (u.1, { u.2 with last := before }) else u }
  let s := d.frames.foldl unreserve s
  let s := d.reused.foldl (fun s f => if (getFrame s f.1).state = .reserved then setFrame s f.1 f.2 else s) s
  let s := { s with extents := s.extents.map fun e => match e.2.claim with
    | some c => if c.1 = d.ctx ∧ c.2.1 = d.index then (e.1, { e.2 with claim := none }) else e
    | none => e }
  let s := match d.owner with
    | .part p => modPart s p fun x => { x with reservedSeqs := x.reservedSeqs.filter fun n => !d.newSeqs.contains n }
    | .fm => s
  { s with cores := s.cores.map fun c => { c with pieces := c.pieces.filter fun x => !(x.1 == d.ctx && x.2.1 == d.index) }
           flash := { s.flash with ops := s.flash.ops.filter fun x => !(x.ctx == d.ctx && x.index == d.index) } }

/-- Frees a scale table that its slot no longer holds when the last descriptor that took it ends (R182). -/
def freeScales (s : State) (d : Desc) : State :=
  match d.owner with
  | .fm => s
  | .part p => d.scale.foldl (fun s e =>
      let b := e.2.blocks
      if ((getPart s p).scales.any fun x => x.2.blocks == b) || (s.flight.any fun x => x.scale.any fun y => y.2.blocks == b) then s
      else freeBlocks s p b) s

/-- Frees the control blocks of a pattern set that is current no more when the last STEP that took it ends (R182, R248). -/
def freePatterns (s : State) (d : Desc) : State :=
  match d.owner, d.patternHold with
  | .part p, some b =>
    if (getPart s p).patternBlocks = some b ∨ s.flight.any (fun x => x.owner == d.owner && x.patternHold == some b) then s else freeBlocks s p b
  | _, _ => s

/-- What becomes of the holds on a table that was being loaded when its load ends (R216): they go to a load of the slot that was dispatched before the holder and is
still in flight, else to the table that the slot now holds, or to none. -/
def settleLoad (s : State) (d : Desc) : State :=
  match d.loadSlot with
  | none => s
  | some k =>
    let p := loadTarget d
    { s with flight := s.flight.map fun x =>
        if x.tableLoads.getD k none = some (d.ctx, d.index) then
          match pendingLoad (dispatchedBefore s x) p k with
          | some l => { x with tableLoads := x.tableLoads.set k (some l) }
          | none => { x with tableLoads := x.tableLoads.set k none, tables := x.tables.set k ((getPart s p).decode.getD k none) }
        else x }

/-- The CDAT events of a commit (R80, R364): of each slot whose MODE an ADD_EXTENT lowers, and of each that holds an extent whose kind a RESEAL changed. -/
def slotEvents (s : State) (es : List Effect) : List Effect :=
  es.flatMap fun e => match e with
    | .addExtent p x _ _ =>
      let slot := (localExt s p x).getD 0
      if (lookup? (getLd s p).modes slot).isSome then [.event (ownerOf p) 6 1 none slot 1#64 0#64 0] else []
    | .resealed x _ true => (slotHolders s x).map fun h => .event (ownerOf h.1) 6 1 none h.2 1#64 0#64 0
    | _ => []

/-- What a descriptor's ring keeps of it once it has committed: its status and output tile for a successor (R60), a failure for the next FENCE
(R62). -/
def ringAfter (s : State) (d : Desc) : State :=
  match d.slot with
  | none => s
  | some k =>
    modRing s d.owner k fun r =>
      let r := if sub32 r.dispatched 1 = d.index.toNat then { r with prev := some (d.status, d.output) } else r
      let r := if !validStatus d.status && decide (sub32 d.index.toNat r.fenceFrom < 2147483648) then { r with failed := d.index.toNat :: r.failed } else r
      if d.words.length = 8 ∧ fld (wd d.words 0) 63 56 = 0x0B ∧ d.status ≠ 0xF0 ∧ d.status ≠ 0x22 then
        { r with failed := [], fenceFrom := (d.index + 1#32).toNat }
      else r

/-- Whether descriptors of a ring, or of the submission rings bound to it, are in flight. -/
def ringBusy (s : State) (o : Owner) (k : Nat) : Bool :=
  s.flight.any fun d => d.owner == o && match d.slot with
    | some j => j == k || (cfgKind (getRing s o k).inCfg == .completion && cfgBind (getRing s o j).inCfg == k)
    | none => false

/-- Whether a descriptor of a ring has committed (R62, R70): its index lies below the oldest uncommitted one, or it is among those dispatched and is
no longer in flight. -/
def committed (s : State) (o : Owner) (k : Nat) (index : BitVec 32) : Bool :=
  let r := getRing s o k
  r.skips.contains index.toNat
    || ((findDesc s r.queue index).isNone && decide (sub32 (r.dispatched % 2 ^ 32 + 4294967295) index.toNat < min 2147483648 r.dispatched))

/-- A FENCE or an ABORT in flight that names a ring loses it when the ring gives up its context, and keeps whether the descriptor named had committed by
then (R62, R69). -/
def unname (s : State) (o : Owner) (k : Nat) (d : Desc) : Desc :=
  if d.owner = o ∧ d.named = some k then { d with named := none, namedDone := committed s o k (BitVec.ofNat 32 (fld (wd d.words 3) 31 0)) } else d

/-- A ring goes DISABLED: its context is free and its held records are gone (R73, R466, R559). Its counts stand until the ring is enabled again, but for a
ring reset, which clears them (R73, R557). -/
def disableRing (s : State) (o : Owner) (k : Nat) : State :=
  let r := getRing s o k
  let s := { s with flight := s.flight.map (unname s o k), contexts := s.contexts.filter fun c => !(c.2.1 == o && !c.2.2.1 && c.2.2.2 == k) }
  modRing s o k fun _ =>
    let base : Ring := { base := r.base, cfg := r.cfg, tagBase := r.tagBase, wake := r.wake, cause := r.cause, inCfg := r.inCfg &&& maskOf 63 62 }
    if r.wipe then base else { base with dispatched := r.dispatched, written := r.written, stalls := r.stalls, lost := r.lost }

/-- Stops a ring (R73): at once, or when its dispatched descriptors have committed. -/
def closeRing (s : State) (o : Owner) (k : Nat) : State :=
  if ringBusy s o k then modRing s o k fun r => { r.disarm with closing := true } else disableRing s o k

/-- A ring reset stops the ring and clears its counts (R73). -/
def resetRing (s : State) (o : Owner) (k : Nat) : State := closeRing (modRing s o k fun r => { r with wipe := true }) o k

/-- Rings that wait for their last descriptor go DISABLED when it has committed. -/
def settleRings (s : State) (o : Owner) : State :=
  (getOwner s o).rings.foldl (fun s e => if (getRing s o e.1).closing && !ringBusy s o e.1 then disableRing s o e.1 else s) s

/-- The results of an INSERT or REMOVE, which its changes give as they are applied (R245, R253): entries new, present, moved to the extension and dropped, or
removed. -/
def matchResult (s : State) (d : Desc) : Desc :=
  if d.opcode = 0x05 ∧ d.status = stDone ∧ (d.subop = 2 ∨ d.subop = 3) then
    let own := d.effects.drop (d.effects.length - d.probes)
    let s := (d.effects.take (d.effects.length - d.probes)).foldl applyEffect s
    let (_, x, gone) := own.foldl (fun (a : State × Inserted × Nat) e => match e with
      | .indexInsert p fp page seq rep =>
        let (s, y) := indexInsert a.1 p fp page seq rep
        (s, { new := a.2.1.new + y.new, present := a.2.1.present + y.present, moved := a.2.1.moved + y.moved, dropped := a.2.1.dropped + y.dropped }, a.2.2)
      | .indexRemove p fp _ =>
        let (s, y) := indexRemove a.1 p fp
        (s, a.2.1, a.2.2 + b2n y)
      | _ => a) (s, {}, 0)
    if d.subop = 2 then { d with res0 := some x.new, res1 := some (x.present * 2 ^ 32 + satField 16 x.moved * 2 ^ 16 + satField 16 x.dropped) } else { d with res0 := some gone, res1 := some 0 }
  else d

/-- Whether an extent that a descriptor adds finds no control blocks for its frame table at the commit, which is when it takes them (R87). -/
def tableLacks (s : State) (d : Desc) : Bool :=
  let wants := d.effects.filter fun e => match e with
    | .addExtent _ _ _ n => n != 0
    | _ => false
  if wants.isEmpty then false
  else
    let t := d.effects.foldl applyEffect s
    wants.any fun e => match e with
      | .addExtent p x _ _ => (lookup? (getPart t p).frameTables x).isNone && !d.effects.any fun y => match y with
        | .removeExtent q z => q == p && z == x
        | _ => false
      | _ => false

/-- Ends a descriptor that holds its commit latch: it leaves flight, gives back what it held, and its record is written (R59, R70). With
`apply_`, its staged changes are applied first; without, they are discarded and the control blocks it took are freed. One that completes INTERNAL is logged, with its
QUEUE and TAG (R47, R528). -/
def leaveFlight (s : State) (d : Desc) (apply_ : Bool) : State :=
  let s := if d.status = stInternal then logError s 0x0A 0 d.owner.part? 0 (put 63 32 d.ctx ||| put 31 0 (fld (wd d.words 0) 31 0)) else s
  let now := d.effects.filter fun e => match e with
    | .event _ _ _ _ _ _ _ _ => false
    | _ => true
  let later := d.effects.filter fun e => match e with
    | .event _ _ _ _ _ _ _ _ => true
    | _ => false
  let later := later ++ slotEvents s d.effects
  let s := finalProgress s d
  let d := if apply_ then matchResult s d else d
  let (s, d) := settleResults s d
  let s := if apply_ then now.foldl applyEffect s
    else match d.owner with
      | .part p => d.blocks.foldl (fun s b => freeBlocks s p b) s
      | .fm => d.effects.foldl (fun s e => match e with
        | .scaleTable p _ (some t) => freeBlocks s p t.blocks
        | .patterns p _ _ b a => (b.toList ++ a).foldl (fun s b => freeBlocks s p b) s
        | _ => s) s
  let s := releaseDesc s d
  let s := { s with flight := s.flight.filter fun x => !(x.ctx == d.ctx && x.index == d.index) }
  let s := settleLoad (dropOld (freePatterns (freeScales s d) d) d) d
  let s := match d.owner with
    | .part p => if apply_ then s else freeTables s p
    | .fm => s
  let s := if apply_ then s else flashStopped s d none
  let s := if apply_ then s else { s with contexts := s.contexts.filter fun c => !(c.2.2.1 && d.effects.any fun e => match e with
    | .queuePair (.setup n _) => n == c.2.2.2
    | _ => false) }
  let s := if apply_ then s else fabricStopped (netStopped s d) d
  let s := ringAfter s d
  let s := complete s d
  let s := if apply_ then later.foldl applyEffect s else s
  let s := if d.slot.isNone then memberCommit s d else s
  pumpOwner (settleRings s d.owner) d.owner []

/-- The commit of a descriptor, with its staged changes or without (R59, R70). One whose frame table has found no control blocks ends PAGE_EXHAUSTED with nothing of
what it staged (R87, R96). -/
def retire (s : State) (d : Desc) (apply_ : Bool) : State :=
  if apply_ && tableLacks s d then leaveFlight (count s d.owner 2 1) { d.finish stExhausted 2 with output := none } false else leaveFlight s d apply_

/-- Ends a descriptor that has done its work: a program goes on with its next step, any other descriptor commits. -/
def endNow (s : State) (d : Desc) (st det : Nat) (r0 : Option Nat := none) (r1 : Option Nat := none) : State :=
  if d.prog.isSome then putDesc s (d.finish st det r0 r1) else retire s (d.finish st det r0 r1) true

/-- The bytes that now stand at a place. -/
def peekLoc (s : State) (loc : Loc) (n : Nat) : List Byte :=
  match loc with
  | .host a => Memory.readBytes s.host a n
  | .hbm e off => Memory.readBytes s.hbm (hbmAddr e off) n
  | .staging o off => Memory.readBytes s.staging (o * 2 ^ 28 + off) n

/-- Writes bytes at a place of which each may stay the old one (R51): a free value says which. A line of 64 bytes loses its poison when all of it is new. -/
def mixLoc (s : State) (loc : Loc) (new : List Byte) : State :=
  let taken := fun (k : Nat) => Config.free (s.free + k) % 2 = 1
  let bs := (peekLoc s loc new.length).mapIdx fun k b => if taken k then new.getD k 0#8 else b
  let fresh := fun (a l : Nat) => decide (a ≤ 64 * l ∧ 64 * l + 64 ≤ a + new.length) && (List.range 64).all fun j => decide (taken (64 * l + j - a))
  let s' := { s with free := s.free + new.length }
  match loc with
  | .host a => { s' with host := Memory.writeBytes s'.host a bs }
  | .hbm e off =>
    let a := hbmAddr e off
    { s' with hbm := Memory.writeBytes s'.hbm a bs, hbmPoison := s'.hbmPoison.filter fun l => !fresh a l, openPoison := s'.openPoison.filter fun l => !fresh a l }
  | .staging o off =>
    let a := o * 2 ^ 28 + off
    { s' with staging := Memory.writeBytes s'.staging a bs, stagingPoison := s'.stagingPoison.filter fun l => !fresh a l }

/-- The place, by its body word, and the size of the output that a sweep or fold in hand has at OUT (R120, R151, R157). -/
def partialsOut (s : State) (d : Desc) : Option (Nat × Nat) :=
  let n := ((attnReqs d).map fun a => a.qcount).sum
  if d.opcode = 0x03 ∧ d.subop = 1 then some (5, hubCount s * n * partialBytes d.dim (bit (d.w 2) 56))
  else if d.opcode = 0x04 ∧ d.subop = 2 then some (6, n * partialBytes d.dim (bit (d.w 2) 58))
  else if d.opcode = 0x04 ∧ d.subop = 3 then some (3, n * partialBytes d.dim (bit (wd (batchHeader d.held) 0) 54))
  else none

/-- What a sweep or fold that is stopped while it runs leaves at OUT (R71, R135, R164): any of its bytes may have been written, with free values. -/
def partialBytesLeft (s : State) (d : Desc) : State :=
  match if d.phase = .running then partialsOut s d else none with
  | none => s
  | some (k, n) =>
    if d.w k = 0#64 then s
    else match locate s d.owner (d.w k) (occupied s d.owner (d.w k) n) true with
      | .error _ => s
      | .ok loc =>
        let (bs, s) := drawBytes (occupied s d.owner (d.w k) n) s
        mixLoc s loc bs

/-- The body words of an operation that are location words. -/
def locationWords (d : Desc) : List Nat :=
  match d.opcode with
  | 0x01 => if d.subop < 0x10 then [4, 5] else [3, 4]
  | 0x03 => if d.subop = 1 then [5, 6] else []
  | 0x04 => if d.subop = 1 then [3, 4] else if d.subop = 2 then [5, 6] else [2, 3]
  | 0x05 => [5, 6]
  | 0x06 => [2, 3]
  | 0x07 => if d.subop = 1 then [3] else []
  | 0x08 => if d.subop = 0x10 then [] else [3]
  | 0x09 => if d.subop = 4 then [3, 7] else if d.subop < 4 then [3] else []
  | 0x0A => [3]
  | 0x0C => if [2, 0x20, 0x21, 0x22].contains d.subop then [2] else []
  | _ => []

/-- Stops a descriptor with a status, discarding what it staged (R69 to R72, R300, R438). -/
def stopDesc (s : State) (d : Desc) (status detail : Nat) : State :=
  retire (partialBytesLeft s d) { d.finish status detail with output := none } false

end Sys2Proof
end

