-- ==== Sys2Proof/Machine/Turns.lean ====
section
/-!
DEFINITION. What the stations share: the weighted turn among owners (R412), a station's run with the domains of the places it names (R488, R533), and the
input of an operation that takes a tile or a location (R60, R185).
-/
namespace Sys2Proof

open Machine (State Fault Refusal)

/-! ### The weighted turn (R412) -/

/-- WEIGHT of an owner by index: a partition's own, 16 for the fabric manager. -/
def weightOf (s : State) (k : Nat) : Nat := if k = 16 then 16 else max 1 (getPart s k).weight

/-- The owner whose turn it is, of those that have work waiting (ascending indices), and the counts of the round after it: the lowest that has not yet
had WEIGHT turns in this round; a new round begins when every one has (log entry 11). -/
def turn (s : State) (taken : List Nat) (waiting : List Nat) : Option (Nat × List Nat) :=
  match waiting.find? fun k => decide (taken.getD k 0 < weightOf s k) with
  | some k => some (k, taken.set k (taken.getD k 0 + 1))
  | none => waiting.head?.map fun k => (k, (List.replicate 17 0).set k 1)

/-- The owners, ascending, of the descriptors that satisfy a test. -/
def ownersWith (s : State) (f : Desc → Bool) : List Nat :=
  (List.range 17).filter fun k => s.flight.any fun d => d.owner.idx == k && f d

/-! ### Stations -/

/-- The places that body words of a descriptor name. -/
def wordLocs (s : State) (d : Desc) (ks : List Nat) : List Loc :=
  ks.filterMap fun k => if d.w k = 0#64 then none else (locate s d.owner (d.w k) 0 false).toOption

/-- A place in HBM waits for Memory_Active (R533). -/
def Loc.early (s : State) : Loc → Bool
  | .hbm _ _ => !memActive s
  | _ => false

/-- A place whose bank pair runs a chunk. -/
def Loc.busy (s : State) (n : Nat) (l : Loc) : Bool := !(busyPairs s n l).isEmpty

/-- Runs a station's operation on a descriptor: not before Memory_Active when a word names HBM, not while a bank pair that it reaches runs a chunk (R114) or a unit of
a step-state region that it names has still to be lifted (R400), and with the domains of its places ON. -/
def stationRun (s : State) (q : Nat) (i : BitVec 32) (opcode subop : Nat) (ks : List Nat) (k : Desc → State → State) : Answer :=
  match stationDesc s q i opcode subop with
  | none => .next s
  | some d =>
    let ls := wordLocs s d ks
    if ls.any fun l => l.early s then .next s
    else if ls.any fun l => l.busy s d.len then .next (queueAccess s d (ls.flatMap (busyPairs s d.len)))
    else if ls.any fun l => l.regionReads s d.len == .waits then .next s
    else .next (withDoms s (ls.flatMap Loc.doms ++ (if d.chainIn then (Loc.staging 0 0).doms else [])) (k d))

/-- The input bytes of an operation (R185): the chained tile when CHAIN_IN is 1, else LEN bytes at the location in word k, which is non-zero exactly
then. `cause` is the DETAIL of a poisoned input. -/
def tileInput (s : State) (d : Desc) (k : Nat) (rd : HostRead) (cause : Nat := 2) : Except (Nat × Nat) (List Byte) :=
  if d.chainIn then
    if d.w k ≠ 0#64 then .error (stMalformed, 3)
    else match d.input with
      | none => .error (stMalformed, 3)
      | some t => if t.poison then .error (stPoisoned, cause) else .ok t.bytes
  else if d.w k = 0#64 then .error (stMalformed, 3)
  else match readIn s d k d.len rd 2 cause with
    | .error e => .error e
    | .ok r => if r.poison then .error (stPoisoned, cause) else .ok r.bytes

/-- The input of an operation that reads it at its dispatch: what was read then, with its poison or the failure of its host read; else what `now` gives. -/
def earlyInput (d : Desc) (k : Nat) (rd : HostRead) (cause : Nat) (now : Except (Nat × Nat) (List Byte)) : Except (Nat × Nat) (List Byte) :=
  match d.early with
  | some (bs, poison) => if poison ∨ (!d.chainIn ∧ fld (d.w k) 63 60 = 0 ∧ !rd.ok) then .error (stPoisoned, cause) else .ok bs
  | none => now

/-- The size that an operation's input has, before it is read. -/
def inputSize (d : Desc) : Nat := if d.chainIn then ((d.input.map (·.bytes.length)).getD 0) else d.len

/-- The breach of R185 that a descriptor's words show. -/
def inputBreach (d : Desc) (k : Nat) : Bool := if d.chainIn then d.w k != 0#64 || d.input.isNone else d.w k == 0#64

/-- A descriptor that ends with a status and DETAIL. -/
def endDesc (s : State) (d : Desc) (e : Nat × Nat) : State := putDesc s (d.finish e.1 e.2)

/-- What needs a key of Belfry's ends INTERNAL once Belfry is fenced (DESIGN CHOICE, log entry 47: R462 says 'no new sessions or keys' and gives no status). -/
def noKeys (s : State) (d : Desc) : State :=
  let (v, s) := draw s
  endDesc s d (stInternal, v % 2 ^ 15)

end Sys2Proof
end

