-- ==== Sys2Proof/Machine/Cores.lean ====
section
/-!
DEFINITION. What sweeps and cores share: the mode's caps and the shares of them (R26, R116, R155, R411), the cores of an owner and their pieces (R154, R161, R162,
R168), and the fences of cores and bank pairs (R141, R142, R169, R170).
-/
namespace Sys2Proof

open Machine (State Fault Refusal)

/-! ### Caps -/

/-- Caps of a mode (R26): sweep bytes per µs of one stack, exact bytes per µs of the node as far as its links go (R4), flash share in percent, sustained watts. -/
def modeCaps : Mode → Nat × Nat × Nat × Nat
  | .sweep => (4000000, 4000000, 25, 1600)
  | .exact => (800000, 16000000, 25, 1600)
  | .absorb => (800000, 4000000, 100, 1600)
  | .balanced => (2400000, 8000000, 50, 1450)

/-- The lower of two caps, while a mode change is under way (R30). -/
def minCaps (a b : Nat × Nat × Nat × Nat) : Nat × Nat × Nat × Nat :=
  (min a.1 b.1, min a.2.1 b.2.1, min a.2.2.1 b.2.2.1, a.2.2.2)

/-- The caps in force (R26, R30); the exact cap is no more than the links of the variant's hubs to the attention die carry, 4 TB/s each (R4). -/
def caps (s : State) : Nat × Nat × Nat × Nat :=
  let c := s.power.changes.foldl (fun a c => minCaps a (modeCaps c.mode)) (modeCaps s.power.mode)
  (c.1, min c.2.1 (4000000 * hubCount s), c.2.2)

/-- A key's sum in a list of amounts used. -/
def usedOf (m : List (Nat × Nat)) (k : Nat) : Nat := (lookup? m k).getD 0

/-- Whether an owner may move `bytes` more in this window of a node cap (R26, R411): within the cap, within its ceiling, and within its guaranteed share; or beside the
shares that the other waiting owners have not used, while what it has had beyond its own is no more than its part, by WEIGHT, of what is left to it and to those of
them that are below their ceilings. -/
def shareOk (s : State) (cap : Nat) (ceil : Nat → Nat) (used : List (Nat × Nat)) (waiting : List Nat) (k bytes : Nat) : Bool :=
  let live := (List.range 16).filter fun p => (getPart s p).live
  let sum := 16 + (live.map (weightOf s)).sum
  let guar := fun (j : Nat) => cap * weightOf s j / sum
  let total := ((List.range 17).map (usedOf used)).sum
  let kept := ((waiting.filter (· != k)).map fun j => guar j - usedOf used j).sum
  let rivals := k :: waiting.filter fun j => j != k && (j == 16 || decide (256 * usedOf used j < cap * ceil j))
  let left := cap - (rivals.map guar).sum - (((List.range 17).filter fun j => !rivals.contains j).map (usedOf used)).sum
  let fair := decide ((usedOf used k - guar k) * (rivals.map (weightOf s)).sum ≤ left * weightOf s k)
  (k == 16 || decide (256 * (usedOf used k + bytes) ≤ cap * ceil k))
    && decide (total + bytes ≤ cap) && (decide (usedOf used k + bytes ≤ guar k) || (decide (total + bytes + kept ≤ cap) && fair))

/-! ### Cores -/

/-- The logical cores of an owner (R154): its core groups, or for the fabric manager those of groups that no partition owns. -/
def ownerCores (s : State) (o : Owner) : List Nat :=
  (List.range 64).filter fun c => match o with
    | .part p => (getPart s p).live && ((getPart s p).coreGroups >>> (c / 4)) % 2 == 1
    | .fm => (List.range 16).all fun p => !((getPart s p).live && ((getPart s p).coreGroups >>> (c / 4)) % 2 == 1)

/-- The physical core that serves a logical core, when it is not fenced. -/
def coreOf (s : State) (c : Nat) : Option Nat :=
  let x := s.coreMap.getD c 0xFF
  if x < 68 ∧ !(s.cores.getD x {}).fenced then some x else none

/-- The usable logical cores of an owner, lowest number first. -/
def usableCores (s : State) (o : Owner) : List Nat := (ownerCores s o).filter fun c => (coreOf s c).isSome

/-- Pages that wait on a logical core (R161). -/
def coreQueue (s : State) (c : Nat) : Nat :=
  (s.flight.map fun d => (d.pages.filter fun w => w.core == some c && w.state != .done).length).sum

/-- The core among several with the fewest pages queued, lowest number on a tie. -/
def leastCore (s : State) (cs : List Nat) : Option Nat :=
  cs.foldl (fun a c => match a with
    | none => some c
    | some x => if coreQueue s c < coreQueue s x then some c else some x) none

/-- Bytes of the piece-state region (R143). -/
def pieceRegion : Nat := 1536 * 1024

/-- Bytes of piece state resident on a physical core. -/
def resident (s : State) (x : Nat) : Nat :=
  (((s.cores.getD x {}).pieces.filter fun e => e.2.2.2.1 == 0).map fun e => e.2.2.1).sum

/-- Whether the piece of a descriptor runs on a physical core: its state is resident there, or the region has room for it (R162). -/
def pieceFits (s : State) (x : Nat) (d : Desc) (bytes : Nat) : Bool :=
  ((s.cores.getD x {}).pieces.any fun e => e.1 == d.ctx && e.2.1 == d.index && e.2.2.2.1 == 0) || decide (resident s x + bytes ≤ pieceRegion)

/-- Makes the piece of a descriptor resident on a physical core (R162); the pieces stand in the order of their last page, the one that has waited longest first. -/
def takePiece (s : State) (x : Nat) (d : Desc) (bytes : Nat) : State :=
  { s with cores := s.cores.modify x fun c =>
      { c with pieces := (c.pieces.filter fun e => !(e.1 == d.ctx && e.2.1 == d.index)) ++ [(d.ctx, d.index, bytes, 0, s.time)] } }

/-- The place in a core's order of a page whose check has just passed: behind every page in flight (R161). -/
def nextOrder (s : State) : Nat := s.flight.foldl (fun n d => d.pages.foldl (fun n w => max n w.order) n) 0 + 1

/-- The cores that a FOLD uses (R154): its owner's usable cores, or the lowest CORE_LIMIT of them; and whether it would have used more (R163). -/
def foldCores (s : State) (d : Desc) : List Nat × Bool :=
  let limit := if d.subop = 3 then fld (d.w 4) 6 0 else fld (d.w 7) 6 0
  let want := fun (n : Nat) => if limit = 0 then n else min limit n
  let us := usableCores s d.owner
  (us.take (want us.length), decide (want us.length < want (ownerCores s d.owner).length))

/-- Whether a descriptor whose walk ran would have used more cores than its owner has (R129, R170): a FOLD its cores, a sweep one for each page on the exact path. -/
def Desc.shortOf (s : State) (d : Desc) : Bool :=
  if d.opcode = 0x03 then
    decide ((usableCores s d.owner).length < min (d.pages.filter fun w => w.route != .bank).length (ownerCores s d.owner).length)
  else (foldCores s d).2

/-- The spare that a fenced core's number would go to (R168, R170): the lowest physical core that passed, serves no number and is not fenced. -/
def spareCore (s : State) : Option Nat :=
  (List.range 68).find? fun x => !s.coreMap.contains x && !(s.cores.getD x {}).fenced && (s.cores.getD x {}).passed

/-- Notes a fence for the fence record of the boot flashes (R513). -/
def noteFence (s : State) (kind number : Nat) : State :=
  { s with faults := { s.faults with unwritten := s.faults.unwritten ++ [(kind, number)] } }

/-- Posts a fence event to a partition, when there is one, and to the fabric manager (R476). -/
def postFence (s : State) (p : Option Nat) (code subject : Nat) (arg0 : Word) : State :=
  let s := match p with
    | some p => postEvent s (ownerOf p) 3 code none subject arg0 0#64
    | none => s
  postFm s 3 code subject arg0 0#64

/-- The partition that owns a logical core. -/
def coreOwner (s : State) (c : Nat) : Option Nat :=
  (List.range 16).find? fun p => (getPart s p).live && ((getPart s p).coreGroups >>> (c / 4)) % 2 == 1

/-- The number by which logs and messages name a physical core (R514, R527): its logical number, or 0xFF where it has none (log entry 50). -/
def coreNumber (s : State) (x : Nat) : Nat := (s.coreMap.findIdx? (· == x)).getD 0xFF

/-- What becomes of a descriptor's pages on a logical core that is fenced (R170): each piece is redone from its first page on another core; and with no spare left it
may have fewer cores than it would use. -/
def redoPages (s : State) (d : Desc) (c : Nat) : Desc :=
  let hit := fun (w : PageWork) => w.core == some c && w.route != .bank
  if d.phase == .finished || !(d.pages.any hit) then d
  else
    let others := (usableCores s d.owner).filter (· != c)
    let used := others.filter fun x => d.cores.contains x || d.pages.any fun w => w.core == some x
    let next := leastCore s (if used.isEmpty then others else used)
    { d with detail := d.detail ||| 4 ||| (if (spareCore s).isNone ∧ d.shortOf s then 16 else 0)
             pages := d.pages.map fun w => if hit w then { w with core := next, state := if w.state = .queued then .queued
                                                                                       else if w.route = .tier then .read else .queued } else w }

/-! ### Descriptors that end while they hold pages -/

/-- Releases the pins that a descriptor's walk still holds. -/
def dropPins (s : State) (d : Desc) : State × Desc :=
  let s := d.pages.foldl (fun s w => match w.frame with
    | some f => if w.pinned then unpinFrame s f else s
    | none => s) s
  (s, { d with pages := d.pages.map fun w => { w with pinned := false } })

/-- Ends a sweep or fold with a failing status: its pins are released, and its reads on the tier path are dropped (R131). -/
def failDesc (s : State) (d : Desc) (st det : Nat) (r0 : Option Nat := none) (r1 : Option Nat := none) : State :=
  let (s, d) := dropPins (removeOps s d fun _ => true) d
  putDesc s { d.finish st det r0 r1 with output := none }

/-- Ends a sweep or fold on a page that cannot be used: RESULT1[19:0] names the page of a CHECK_FAIL (R131, R163); a BATCH reports its entry and its bucket
counts (R160). -/
def pageFail (s : State) (d : Desc) (w : PageWork) (st det : Nat) : State :=
  if d.opcode = 0x04 ∧ d.subop = 3 then failDesc s d st det (some w.entry) (some (bucketWord (entryPages d)))
  else failDesc s d st det none (if st = stCheck then some (w.page % 2 ^ 20) else none)

/-- Whether a page is left that a core has still to work on. -/
def Desc.onCores (d : Desc) : Option PageWork :=
  if d.phase == .running && (d.opcode == 0x03 || d.opcode == 0x04) then d.pages.find? fun w => w.route != .bank && w.state != .done else none

/-- Ends each sweep and fold that has pages for cores left while its owner has no usable core (R129, R154, R170). -/
def endUnserved (s : State) : State :=
  s.flight.foldl (fun s x => match findDesc s x.ctx x.index with
    | some d => match d.onCores with
      | some w => if (usableCores s d.owner).isEmpty then pageFail s d w 0x60 1 else s
      | none => s
    | none => s) s

/-! ### Fencing a core -/

/-- Fences a physical core (R169, R170). -/
def fenceCore (s : State) (x : Nat) : State :=
  if (s.cores.getD x {}).fenced || decide (x ≥ 68) then s
  else
    let c := s.coreMap.findIdx? (· == x)
    let s := { s with cores := s.cores.modify x fun y => { y with fenced := true, pieces := [] } }
    let s := modDom s (4 + x) fun y => { y with present := .off, wake := none }
    let s := logError s 0x07 1 (c.bind (coreOwner s)) (coreNumber s x) 0#64
    let s := noteFence s 1 x
    match c with
    | none => s
    | some c =>
      let s := endUnserved { s with flight := s.flight.map fun d => redoPages s d c }
      postFence s (coreOwner s c) 2 c (BitVec.ofNat 64 ((spareCore s).getD 0xFF))

/-! ### Fencing a pseudo-channel (R517, R518) -/

/-- Descriptors that read a frame of a fenced pseudo-channel complete POISONED (R518). -/
def failReaders (s : State) (c : Nat) : State :=
  let hit := fun (d : Desc) => d.phase == .running && d.pages.any fun w => w.state != .done && match w.frame with
    | some f => f.pch == c
    | none => false
  (s.flight.filter hit).foldl (fun s d => match findDesc s d.ctx d.index with
    | some d => match d.pages.find? fun w => w.state != .done && (w.frame.any fun f => f.pch == c) with
      | some w => pageFail s d w stPoisoned 1
      | none => s
    | none => s) s

/-- AER uncorrectable fatal messages to some LDs, while the link is up (R366, R522). -/
def aerFatal (s : State) (ps : List Nat) : State := if s.cxl.linkUp then ps.foldl (fun s p => emit s (.aer p true)) s else s

/-- Whether every mapped slot of an LD has become unreachable (R522): each lies in a pseudo-channel that is fenced. -/
def windowLost (s : State) (p : Nat) : Bool := !(mappedExts s p).isEmpty && (mappedExts s p).all fun e => pchFenced s (e / 3)

/-- Fences a pseudo-channel (R517, R518): its frames, units and extents; its readers; the events of its bank pairs; its entry replaces theirs (R513);
an LD that it leaves with no slot to reach hears of it (R522). -/
def fencePch (s : State) (c : Nat) : State :=
  if pchFenced s c || decide (c ≥ 640) || !stackFitted s (c / 32) then s
  else
    let p := pchOwner s c
    let fresh := (List.range 16).filter fun b => !(getUnit s (16 * c + b)).fenced
    let held := fun (b : Nat) => framesHeld s (16 * c + b)
    let s' := { s with
      faults := { s.faults with pchs := s.faults.pchs ++ [c], unwritten := (s.faults.unwritten.filter fun e => !(e.1 == 2 && e.2 / 16 == c)) ++ [(3, c)] }
      frames := s.frames.map fun (f : FrameAddr × FrameRec) => if f.1.pch = c then (f.1, { f.2 with state := FrameState.fenced }) else f
      units := s.units.map fun u => if u.1 / 16 = c then (u.1, { u.2 with chunk := none, holder := none, query := [], table := none, acc := [], snapshot := [], taken := [], queue := [] }) else u }
    let s' := [3 * c, 3 * c + 1, 3 * c + 2].foldl (fun s e => modExt s e fun x => { x with poison := true }) s'
    let s' := logError s' 0x07 3 p c 0#64
    let s' := aerFatal (failReaders s' c) ((List.range 16).filter fun p => windowLost s' p && !windowLost s p)
    fresh.foldl (fun s b => postFence s p 1 (c * 2 ^ 16 + b) (BitVec.ofNat 64 (held b))) s'

/-! ### Fencing a bank pair -/

/-- Pages of a descriptor whose bank pair has been fenced go to the exact path (R129, R142), those of the chunk in progress as redone ones: all of them are pages of
FENCED frames now. With no spare core left, it may have fewer cores for them than it would use (R170). -/
def reroute (s : State) (d : Desc) (u : Nat) (chunk : Option Chunk) : Desc :=
  let mine := match chunk with
    | some c => if c.ctx == d.ctx && c.index == d.index then c.work.map fun (e : Nat × Nat × Nat) => e.1 else []
    | none => []
  let hit := fun (w : PageWork) => w.route == .bank && w.unit == u && w.state != .done
  if d.phase == .finished || !(d.pages.any hit) then d
  else
    let d := { d with pages := d.pages.map fun w => if hit w then { w with route := .links, fenced := true, state := .queued } else w }
    { d with detail := d.detail ||| 2 ||| (if mine.isEmpty then 0 else 4) ||| (if (spareCore s).isNone ∧ d.shortOf s then 16 else 0) }

/-- Fences a bank pair (R141, R142); the fourth one fenced within a pseudo-channel fences that (R517). -/
def fencePair (s : State) (u : Nat) : State :=
  if (getUnit s u).fenced || pchFenced s (u / 16) || decide (u ≥ 10240) then s
  else
    let chunk := (getUnit s u).chunk
    let held := framesHeld s u
    let s := writeBefore s u
    let s := modUnit s u fun x => { x with fenced := true, chunk := none, acc := if chunk.isSome then x.snapshot else x.acc, snapshot := [] }
    let s := { s with frames := s.frames.map fun (f : FrameAddr × FrameRec) => if f.1.unit = u then (f.1, { f.2 with state := FrameState.fenced }) else f }
    let s := { s with flight := s.flight.map fun d => reroute s d u chunk }
    let s := endUnserved s
    let p := pchOwner s (u / 16)
    let s := logError s 0x07 2 p u 0#64
    let s := postFence (noteFence s 2 u) p 1 ((u / 16) * 2 ^ 16 + u % 16) (BitVec.ofNat 64 held)
    if 4 ≤ ((List.range 16).filter fun b => (getUnit s (16 * (u / 16) + b)).fenced).length then fencePch s (u / 16) else s

/-- A unit's confirmed CHECK mismatch, or a read that on-die ECC could not correct: the second of its kind within 24 h fences the pair (R141). -/
def unitFault (s : State) (u : Nat) (check : Bool) : State :=
  let recent := fun (ts : List Nat) => s.time :: ts.filter fun t => decide (s.time < t + 86400000000000)
  let s := modUnit s u fun x => if check then { x with mismatches := recent x.mismatches } else { x with uncorrectable := recent x.uncorrectable }
  let x := getUnit s u
  if 2 ≤ (if check then x.mismatches else x.uncorrectable).length then fencePair s u else s

end Sys2Proof
end

