-- ==== Sys2Proof/Machine/MboxOps.lean ====
section
/-!
DEFINITION. The node's own mailbox: who acts, the checks that every message meets, who serves it, and its reply (R447 to R451, R33).
-/
namespace Sys2Proof

open Machine (State Fault Refusal)

/-- Functions that a TYPE is allowed from (R451). -/
inductive MboxFrom where
  | any | partition | manager
deriving DecidableEq, Repr

/-- For whom a message that arrives through a function acts (R353, R447); none for a function that is not presented. -/
def mboxActor (s : State) (o : Owner) (m : MboxMsg) : Option Owner :=
  if s.cxl.direct then (if o = .part 0 then some (if m.asFm then .fm else .part 0) else none) else some o

/-- The Carillon that serves mailbox messages and the monitor: Carillon 0, or the next one that is not fenced (R526), as a processor index (R442). -/
def servingCarillon (s : State) : Nat :=
  ((List.range 16).find? fun k => !((s.fw.procs.getD (2 + k) {}).fenced)).getD 0 + 2

/-- The processor that serves a TYPE (R451); none for TIME, which hardware serves. -/
def mboxServer (s : State) (typ : Nat) : Option Nat :=
  if typ = 0x0002 then none else if (0x10 ≤ typ ∧ typ ≤ 0x14) ∨ (0x30 ≤ typ ∧ typ ≤ 0x35) then some 0 else some (servingCarillon s)

/-- Whether mailboxes run: the CXL link is up and the processors have been released (R532). -/
def mailboxUp (s : State) : Bool := s.cxl.linkUp && [StartPhase.processorsUp, .hbmTrained, .cleared, .active].contains s.boot.phase

/-- A reply as it leaves (R448, R449): MAJOR 1, MINOR 0, TYPE and TAG of its request, REPLY, BODY_LEN with the result block counted, and the body after RESULT0 and
RESULT1, all little-endian. -/
def mboxOut (o : Owner) (typ tag st det : Nat) (r0 r1 : Word) (body : List Byte) : Out :=
  .mbox o (put 63 56 1 ||| put 47 32 typ ||| put 31 31 1 ||| put 12 0 (16 + body.length)) (put 63 32 tag ||| put 31 24 st ||| put 22 8 det) (ofWords [r0, r1] ++ body)

/-- A reply; a result that the message's chapter does not state is a free value. -/
def mboxReply (s : State) (o : Owner) (typ : Nat) (m : MboxMsg) (st det : Nat) (r0 r1 : Option Nat := none) (body : List Byte := []) : State :=
  let (a, s) := orFree s r0 64
  let (b, s) := orFree s r1 64
  emit s (mboxOut o typ m.tag st det (BitVec.ofNat 64 a) (BitVec.ofNat 64 b) body)

/-- The TYPEs of the catalogue (R451). -/
def mboxTypes : List Nat :=
  [0x01, 0x02, 0x03, 0x10, 0x11, 0x12, 0x13, 0x14, 0x20, 0x21, 0x30, 0x31, 0x32, 0x33, 0x34, 0x35, 0x40, 0x60, 0x61]

/-- What R450 finds wrong with a message, in its order. -/
def mboxCheck (m : MboxMsg) (direct : Bool) (actor : Owner) (from_ : MboxFrom) (fits : Bool) : Option (Nat × Nat) :=
  if m.major ≠ 1 ∨ m.minor ≠ 0 then some (0xF0, 0xF)
  else if m.unknown.isSome ∨ m.bodyLen.getD m.body.length ≠ m.body.length ∨ m.reserved ∨ m.reply ∨ (m.asFm ∧ !direct) ∨ !fits then some (0xF0, 1)
  else match from_, actor with
    | .partition, .fm => some (0x22, 0xE)
    | .manager, .part _ => some (0x22, 0xE)
    | _, _ => none

/-- What a message meets whose processor is fenced: only Belfry's role does not pass on (R462). The spec gives no DETAIL: a free value. -/
def mboxFenced (s : State) (o : Owner) (typ : Nat) (m : MboxMsg) : State :=
  let (v, s) := draw s
  mboxReply s o typ m 0xFF (v % 2 ^ 15)

/-- Runs a message: Busy while its processor is away or its partition is SCRUBBING (R441), the refusals of R450, else the message's own meaning for the owner
that it acts for. -/
def mboxRun (s : State) (o : Owner) (typ : Nat) (m : MboxMsg) (from_ : MboxFrom) (fits : Bool) (k : Owner → State) : State :=
  if !mailboxUp s then s
  else match mboxActor s o m with
  | none => s
  | some a =>
    let other := m.unknown.filter fun c => !mboxTypes.contains c
    if scrubbing s a then emit s (.mboxBusy o (other.getD typ) m.tag)
    else match other, mboxCheck m s.cxl.direct a from_ fits with
    | some c, some e => mboxReply s o c m e.1 e.2
    | _, _ => match mboxServer s typ with
    | some x => if procAway s x then emit s (.mboxBusy o typ m.tag)
      else if (s.fw.procs.getD x {}).fenced then mboxFenced s o typ m
      else (match mboxCheck m s.cxl.direct a from_ fits with
        | some e => mboxReply s o typ m e.1 e.2
        | none => k a)
    | none => (match mboxCheck m s.cxl.direct a from_ fits with
        | some e => mboxReply s o typ m e.1 e.2
        | none => k a)

/-- Byte k of a body. -/
def MboxMsg.at_ (m : MboxMsg) (k : Nat) : Nat := (m.body.getD k 0#8).toNat

end Sys2Proof
end

