-- ==== Sys2Proof/Machine/QpOps.lean ====
section
/-!
DEFINITION. Queue contexts (R301, R302, R413), the flush of a queue pair (R300), and what the loss of a connection does to the requests that used it (R268, R273, R281).
-/
namespace Sys2Proof

open Machine (State Fault Refusal)

/-- Whether a descriptor dispatched and not finished is a SEND or RECV on a queue pair. -/
def Desc.onQp (d : Desc) (p n : Nat) : Bool :=
  d.owner == ownerOf p && d.phase != .finished && fld (d.w 2) 19 0 == n && ((d.opcode == 0x09 && decide (1 ≤ d.subop ∧ d.subop ≤ 4) && !bit (d.w 2) 63) || d.opcode == 0x0A)

/-- Whether a draining queue pair still waits for it (R300): a SEND that was dispatched before, and is not finished. -/
def Desc.drains (d : Desc) (p n : Nat) : Bool := d.onQp p n && d.opcode == 0x09 && d.admitted

/-! ### Queue contexts -/

/-- Queue contexts of an owner (R408): a partition's by its definition, the fabric manager's what is left. -/
def contextsOwned (s : State) (o : Owner) : Nat :=
  match o with
  | .part p => if (getPart s p).live then (getPart s p).contexts else 0
  | .fm => 16384 - ((List.range 16).map fun p => if (getPart s p).live then (getPart s p).contexts else 0).sum

def contextsUsed (s : State) (o : Owner) : Nat := (s.contexts.filter fun c => c.2.1 == o).length

/-- Contexts taken by host rings, Chime rings and RESIDENT queue pairs (R413). -/
def contextsFixed (s : State) (o : Owner) : Nat :=
  (s.contexts.filter fun c => c.2.1 == o && (!c.2.2.1 || ((getQp s c.2.2.2).map (·.resident)).getD false)).length

/-- Whether a partition has a queue-pair spill area (R301), and the contexts that it holds. -/
def spillKind (s : State) (o : Owner) : Nat := fld (getOwner s o).qpSpill 63 62
def spillCapacity (s : State) (o : Owner) : Nat :=
  let w := (getOwner s o).qpSpill
  if spillKind s o = 1 then 983040 * (if bit w 27 then 2 else 1) else if spillKind s o = 2 then 4096 * fld (getOwner s o).qpSpillHost 7 0 else 0

/-- Whether a queue pair has packets that wait: for its context, for their turn to be sent, or for their acknowledgement. -/
def Qp.packetsWait (q : Qp) : Bool :=
  !q.txMsgs.isEmpty || !q.cancels.isEmpty || !q.responses.isEmpty || q.lanes.any fun l => !l.tx.unacked.isEmpty || !l.txResp.unacked.isEmpty

/-- The network context that is spilled to make room (R302): of the owner's, the least recently used one that is not RESIDENT and has no packet waiting and no
descriptor in flight. -/
def spillVictim (s : State) (o : Owner) : Option Nat :=
  let ok := s.net.qps.filter fun e => e.2.ctx.isSome && !e.2.resident && (ownerOf e.2.part) == o && !(s.net.miss.any fun m => m.1 == e.1)
    && !e.2.packetsWait && !(s.flight.any fun d => d.onQp e.2.part e.1)
  (ok.foldl (fun (a : Option (Nat × Qp)) e => match a with
    | none => some e
    | some x => if e.2.lastUse < x.2.lastUse then some e else some x) none).map (·.1)

/-- Spills a context (R301): in host memory it is sealed under the partition's spill context key (R426); where the area holds it, and its bytes and initialisation
vector, the spec does not give. -/
def spillQp (s : State) (o : Owner) (n : Nat) : State :=
  let c := (getQp s n).bind (·.ctx)
  let s := modQp s n fun q => { q with ctx := none }
  let s := { s with contexts := s.contexts.filter fun x => some x.1 != c }
  if spillKind s o = 2 then
    let (v, s) := draw s
    let (bs, s) := drawBytes 268 s
    let sealed := Config.gcmSeal ((lookup? s.belfry.spillKeys (o.part?.getD 16)).getD []) (bs.drop 256) [] (bs.take 256)
    { s with host := Memory.writeBytes s.host (4096 * fld (getOwner s o).qpSpillHost 56 12 + 272 * (v % max 1 (spillCapacity s o))) (sealed.take 272) }
  else s

/-- A free context of an owner, spilling one when none is free (R302): its number is a free value among those that nothing holds. -/
def takeContext (s : State) (o : Owner) (isQp : Bool) (what : Nat) : Option (Nat × State) :=
  let give := fun (s : State) =>
    let (v, s) := draw s
    let free := (List.range 16384).filter fun c => (lookup? s.contexts c).isNone
    let c := free.getD (v % max 1 free.length) 0
    some (c, { s with contexts := s.contexts ++ [(c, (o, isQp, what))] })
  if contextsUsed s o < contextsOwned s o then give s
  else if spillKind s o = 0 ∨ (s.net.qps.filter fun e => e.2.ctx.isNone && (ownerOf e.2.part) == o).length ≥ spillCapacity s o then none
  else (spillVictim s o).bind fun n => give (spillQp s o n)

/-- Whether a ring or a RESIDENT queue pair may take a context (R413). -/
def mayFix (s : State) (o : Owner) : Bool :=
  decide (contextsFixed s o + (if o ≠ .fm ∧ spillKind s o ≠ 0 then 1 else 0) < contextsOwned s o)

/-! ### Flush -/

/-- What the loss of a connection to an endpoint does (R268, R273): requests that wait for a member there fail, and offers to it end. -/
def fabricLost (s : State) (p endpoint : Nat) : State :=
  let s := (s.fabric.homes.filter fun h => h.part == p && !h.answered).foldl (fun s h => homeLost s h fun w => w.endpoint == endpoint) s
  (s.fabric.outgoing.filter fun o => o.part == p && o.target == endpoint && o.resend.isNone).foldl (fun s o =>
    let s := endOffer (fabTo s p endpoint (handMsg s p 0x29 o.msg.reqId (nextEpoch o.epoch 1) o.targetSeq)) o
    match o.msg.origin.bind fun x => findDesc s x.1 x.2 with
    | some d => endNow s d stFlushed 1
    | none => s) s

/-- A queue pair goes to ERROR (R300): every dispatched SEND and posted RECV on it is flushed. A SEND that a drain has kept from being dispatched is not: it then
finds the queue pair in ERROR. -/
def qpError (s : State) (n : Nat) : State :=
  match getQp s n with
  | none => s
  | some q =>
    if q.state = .error then s
    else
      let clear := fun (l : Lane) => { l with tx := { l.tx with unacked := [], rnrWait := none }, txResp := { l.txResp with unacked := [], rnrWait := none }
                                              rx := { l.rx with owed := 0, ackTimer := none }, rxResp := { l.rxResp with owed := 0, ackTimer := none }, sync := none }
      let s := modQp s n fun q => { q with state := .error, txMsgs := [], cancels := [], rxMsgs := [], responses := [], posted := [], lanes := q.lanes.map clear }
      let s := (s.flight.filter fun d => d.onQp q.part n && (q.state != .draining || d.opcode == 0x0A || d.admitted)).foldl (fun s d => match findDesc s d.ctx d.index with
        | some d => endNow s d stFlushed 1
        | none => s) s
      if q.service = .fabric then fabricLost s q.part q.peer else s

/-- A draining queue pair all of whose dispatched SENDs have committed goes to ERROR (R300). -/
def settleDrains (s : State) : State :=
  (s.net.qps.filter fun e => e.2.state == .draining && !(s.flight.any fun d => d.drains e.2.part e.1)).foldl (fun s e => qpError s e.1) s

/-- Queue pairs that are READY begin to drain (R300): the SENDs dispatched on them till now still run, and a pair that has none goes on to ERROR. -/
def drainQps (s : State) (which : Nat × Qp → Bool) : State :=
  let on := fun (e : Nat × Qp) => e.2.state == .ready && which e
  settleDrains { s with
    net := { s.net with qps := s.net.qps.map fun e => if on e then (e.1, { e.2 with state := .draining }) else e }
    flight := s.flight.map fun d => if d.opcode = 0x09 ∧ s.net.qps.any fun e => on e && d.onQp e.2.part e.1 then { d with admitted := true } else d }

/-- A queue pair whose spaces start again (R299): its counters are kept. -/
def Qp.restart (q : Qp) : Qp :=
  { q with state := .ready, txMsgs := [], cancels := [], nextMsg := 0, rxMsgs := [], responses := [], posted := [], postedCount := 0, slips := [], slipBase := 0, withdrawn := []
           msn := 0
           lanes := q.lanes.map fun l => { tx := { next := q.sqPsn }, rx := { expected := q.rqPsn, lastNonce := l.rx.lastNonce }
                                           rxResp := { lastNonce := l.rxResp.lastNonce }, closedTx := l.closedTx, closedRx := l.closedRx } }

/-- A lane that QP_MODIFY LANES names (R299): what was closed of it starts again at 0, as its sender, as its receiver or both. -/
def Lane.reopen (l : Lane) : Lane :=
  let l := if l.closedTx then { l with tx := {}, txResp := {}, closedTx := false, sync := none } else l
  if l.closedRx then { l with rx := { lastNonce := l.rx.lastNonce }, rxResp := { lastNonce := l.rxResp.lastNonce }, closedRx := false } else l

/-- What the sending key of a queue pair is derived from (R426). -/
def Qp.keyInputs (s : State) (n : Nat) (q : Qp) : List Byte :=
  let own := ownEndpoint s q.part
  if q.service.roce then espInputs q.secret q.epoch (endpointAddr s own) n q.peerAddr q.peerQpn else directionInputs q.secret q.epoch own n q.peer q.peerQpn

/-- Keeps the last NONCE of a queue pair's sending key, which it gives up: no NONCE is used again under that key (R320). -/
def keepNonce (s : State) (n : Nat) : State :=
  match getQp s n with
  | none => s
  | some q => { s with net := { s.net with nonces := assign s.net.nonces (q.keyInputs s n) q.nonce } }

/-- A queue pair under a key starts behind every NONCE that the key has been used with (R320). -/
def Qp.afterNonces (s : State) (n : Nat) (q : Qp) : Qp := { q with nonce := max q.nonce ((lookup? s.net.nonces (q.keyInputs s n)).getD 0) }

/-- QP_DESTROY (R300): the queue pair is flushed and its context freed. -/
def destroyQp (s : State) (n : Nat) : State :=
  let s := keepNonce (qpError s n) n
  let c := (getQp s n).bind (·.ctx)
  { s with contexts := s.contexts.filter fun x => some x.1 != c
           net := { s.net with qps := erase s.net.qps n, miss := s.net.miss.filter fun m => m.1 != n, fetching := erase s.net.fetching n } }

/-- A change of a queue pair (R299, R300, R322). -/
def changeQp (s : State) (op : QpOp) : State :=
  match op with
  | .setup n q => { s with net := { s.net with qps := s.net.qps ++ [(n, q.afterNonces s n)] } }
  | .error n => qpError s n
  | .drain n => drainQps s fun e => e.1 == n
  | .reset n => modQp s n Qp.restart
  | .rekey n epoch secret handle =>
      let s := keepNonce s n
      modQp s n fun y => Qp.afterNonces s n
        { y with oldEpoch := some (y.epoch, s.time + 2000000), oldSecret := y.secret, epoch := epoch, secret := secret, handle := handle, keysDead := false
                 esp := (0, []), espOld := y.esp }
  | .lanes n lanes => modQp s n fun y => { y with lanesUsed := lanes, lanes := y.lanes.mapIdx fun k l => if (lanes >>> k) % 2 = 1 then l.reopen else l }
  | .destroy n => destroyQp s n

/-- The changes of queue pairs that a program has staged are made at its commit (R70, R71). -/
def changeQps (s : State) (d : Desc) : State :=
  d.effects.foldl (fun s e => match e with
    | .queuePair op => changeQp s op
    | _ => s) s

/-- A lane of a sender closes (R307): LANE_SYNC goes on another open lane; with none left the queue pair goes to ERROR. -/
def closeLane (s : State) (n lane : Nat) : State :=
  match getQp s n with
  | none => s
  | some q =>
    if (q.lane lane).closedTx ∨ q.state = .error then s
    else
      let s := modQp s n fun q => q.modLane lane fun l => { l with closedTx := true }
      match ((getQp s n).map (·.openLanes)).getD [] with
      | [] => qpError s n
      | o :: _ =>
        let s := modQp s n fun q => q.modLane lane fun l => { l with sync := some (s.time + 1000 * q.retryUs) }
        sendCtl s n .laneSync o 0 (((q.lane lane).rx.expected + 2 ^ 24 - 1) % 2 ^ 24) lane

/-- Closes every lane in use of the queue pairs that have lost their path in it (R307, R340). -/
def closeDead (before s : State) : State :=
  s.net.qps.foldl (fun s e =>
    (List.range 8).foldl (fun s i =>
      if e.2.state ≠ .error ∧ (e.2.lanesUsed >>> i) % 2 = 1 ∧ !(e.2.lane i).closedTx ∧ pathOf before e.2 i ∧ !pathOf s e.2 i then closeLane s e.1 i else s) s) s

end Sys2Proof
end

