-- ==== Sys2Proof/Machine/Ports.lean ====
section
/-!
DEFINITION. Ports and links (R283 to R294, R327 to R347, R569 to R571): frames that arrive and leave, pause, discovery, usable links, shapers, gate lists, and the
writes of the node ID, of the forwarding table and of the foreign table.
-/
namespace Sys2Proof

open Machine (State Fault Refusal)

def Link.modPause (l : Link) (cls : Nat) (f : PauseS → PauseS) : Link := { l with pause := l.pause.modify cls f }

/-- Whether a link carries frames at all: it exists, its port's domain is ON and its PHY is up. -/
def linkLive (s : State) (p k : Nat) : Bool := linkExists s p k && (getDom s (142 + p)).present == .on && (getLink s p k).phyUp

/-- Sends a pause frame (R292): a node without a valid node ID sends none (R327). -/
def sendPause (s : State) (p k cls quanta : Nat) : State :=
  if s.ports.nodeValid then emit s (.pause p k cls quanta (pauseFrame s p k cls quanta)) else s

/-- A forwarded frame of a lossless class leaves the ingress buffer of the link on which it came; below the start threshold the node's own pause ends (R292). -/
def releaseIngress (s : State) (p : Nat) (f : Frame) : State :=
  if f.source ≠ 16 ∨ !lossless s f.cls then s
  else
    let s := modLink s p f.link fun l => l.modPause f.cls fun x => { x with ingress := x.ingress - f.bytes }
    let x := (getLink s p f.link).pauseOf f.cls
    if x.ingress < 32768 ∧ (x.own ∨ x.ownExpired) then
      let s := modLink s p f.link fun l => l.modPause f.cls fun x => { x with own := false, ownExpired := false }
      if x.own then sendPause s p f.link f.cls 0 else s
    else s

/-- Discards the frames queued for a link, of one class or of all, and counts those of a link that went down (R294, R340). -/
def dropQueued (s : State) (p k : Nat) (cls : Option Nat) (counted : Bool) : State :=
  let fs := (List.range 8).flatMap fun c => if cls.isNone ∨ cls = some c then (getLink s p k).queues.getD c [] else []
  let s := modLink s p k fun l => { l with queues := l.queues.mapIdx fun c q => if cls.isNone ∨ cls = some c then [] else q }
  fs.foldl (fun s f => let s := releaseIngress s p f; if counted then countNode s 6 else s) s

/-! ### Frames -/

/-- The link on which a frame goes on, with the address of the foreign peer that it then reaches, or the node counter of its discard (R339, R341). -/
def forwardTo (s : State) (p : Nat) (f : Frame) : Except Nat (Nat × Option Nat) :=
  let go := fun (node : Nat) => match pickHop (hopsTo s node p) f with
    | some k => Except.ok (k, none)
    | none => Except.error 2
  if inPrefix s f.dstAddr then (if f.hopLimit ≤ 1 then .error 2 else go (nodeOf f.dstAddr))
  else match foreignFor s f.dstAddr with
  | none => .error 3
  | some (node, k, mac) =>
    if p ≠ 0 then .error 3
    else if f.hopLimit ≤ 1 then .error 2
    else if node = s.ports.nodeId then (if foreignLinkUp s k then .ok (k, some mac) else .error 2) else go node

/-- PACKET_FORWARD (R327, R339, R341, R292, R294): a packet for another node goes on in its plane, with its hop limit lowered, or is discarded and counted. -/
def Machine.execPacketForward (port : Nat) (f : Frame) (s : State) : Answer :=
  if !linkLive s port f.link ∨ !s.ports.nodeValid ∨ f.cls ≥ 8 ∨ (inPrefix s f.dstAddr ∧ nodeOf f.dstAddr = s.ports.nodeId) then .next s
  else match portDiscard s port f.link f.cls f.bytes with
  | some s => .next s
  | none =>
  match forwardTo s port f with
  | .error c => .next (countNode s c)
  | .ok (k, mac) =>
    let f := { f with source := 16, hopLimit := f.hopLimit - 1, peerMac := mac }
    let s := queueFrame s port k f
    if !lossless s f.cls then .next s
    else
      let s := modLink s port f.link fun l => l.modPause f.cls fun x => { x with ingress := x.ingress + f.bytes }
      let x := (getLink s port f.link).pauseOf f.cls
      if x.ingress > 65536 ∧ !x.own then
        .next (sendPause (modLink s port f.link fun l => l.modPause f.cls fun x => { x with own := true, ownSince := s.time }) port f.link f.cls 0xFFFF)
      else .next s

/-- The shaper that governs a frame on a port: none where its map gives none (R344). Class 6 passes no shaper. -/
def shaperOf (x : Port) (f : Frame) : Option Nat :=
  let m := x.map.getD (8 * f.source + f.cls) 0
  if f.cls = 6 ∨ m / 128 % 2 = 0 then none else some (m % 32)

/-- ns for which the gate of a class stays open from a time on, in an active list with its present entry; `fuel` bounds the entries looked at. -/
def gateOpenFor (active : List Word) (cls : Nat) : Nat → Nat → Nat → Nat
  | 0, _, _ => 0
  | fuel + 1, e, left =>
    let w := active.getD (e % max 1 active.length) 0#64
    if cls = 6 ∨ bit w (56 + cls) then
      let n := (e + 1) % max 1 active.length
      left + gateOpenFor active cls fuel n (fld (active.getD n 0#64) 31 0)
    else 0

/-- ns for which a list keeps the gate of a class open, from an entry of which so much is left; none when it never closes it (R345). -/
def listOpenFor (list : List Word) (cls entry left : Nat) : Option Nat :=
  if list.isEmpty ∨ cls = 6 ∨ list.all (fun w => bit w (56 + cls)) then none
  else some (if left = 0 then 0 else gateOpenFor list cls (list.length + 1) entry left)

/-- Whether a frame may start under the gate lists (R345 to R347): its gate is open and the frame ends before it closes, in the active list till an armed list takes
over, and in that list from then on. -/
def gateAllows (x : Port) (f : Frame) (now : Nat) : Bool :=
  let next := x.pending.take (x.countM1 + 1)
  let cut := x.due - now
  let open_ := listOpenFor x.active f.cls x.entry (x.entryStart + fld (x.active.getD x.entry 0#64) 31 0 - now)
  let whole := if x.pendState = .armed ∧ open_.all (fun n => decide (cut ≤ n)) then (listOpenFor next f.cls 0 (fld (next.getD 0 0#64) 31 0)).map (cut + ·) else open_
  whole.all fun n => decide ((f.bytes + 20) * 1000 ≤ linkRate x.mode * n)

/-- The place of the frame of a queue that leaves next (R27): the oldest; in Absorb mode, in a lossless class, the oldest with step state, when no older frame
without it is of its flow. -/
def nextFrame (s : State) (cls : Nat) (q : List Frame) : Nat :=
  let flow := fun (f : Frame) => (f.source, f.dstAddr, f.flow)
  let ahead := fun (k : Nat) => match q[k]? with
    | some f => f.step && !((q.take k).any fun g => !g.step && flow g == flow f)
    | none => false
  if s.power.mode = .absorb ∧ lossless s cls then ((List.range q.length).find? ahead).getD 0 else 0

/-- FRAME_TRANSMIT (R27, R291, R292, R327, R337, R343, R344, R347): the oldest frame of a class leaves when the class is not paused, its shaper has a token and its gate
lets it end in time. Class 6 is served first, and in Absorb mode step state ahead of the rest of its class. A frame for a foreign peer asks no adjacency of its link
(R341). -/
def Machine.execFrameTransmit (port : Nat) (link : Nat) (cls : Nat) (t : Nat) (s : State) : Answer :=
  let x := getPort s port
  let l := getLink s port link
  let q := l.queues.getD cls []
  let at_ := nextFrame s cls q
  match q[at_]? with
  | none => .next s
  | some f =>
    let now := max s.time t
    let sh := (shaperOf x f).filter fun k => bit (x.shapersInForce.getD k 0#64) 63
    let token := match sh with
      | some k => decide (16 ≤ l.tokens.getD k 0)
      | none => true
    if !linkLive s port link ∨ !(if f.peerMac.isSome then foreignLinkUp s link else linkUsable s port link) ∨ !s.ports.nodeValid ∨ (lossless s cls ∧ (l.pauseOf cls).paused) ∨ !token ∨ !gateAllows x f now
        ∨ (cls ≠ 6 ∧ !(l.queues.getD 6 []).isEmpty) then .next s
    else
      let s := modLink (atTime s t) port link fun l => { l with
        queues := l.queues.set cls (q.eraseIdx at_)
        tokens := match sh with
          | some k => l.tokens.modify k (· - 16)
          | none => l.tokens }
      let s := modDom s (142 + port) fun d => { d with lastWork := s.time }
      .next (emit (releaseIngress s port f) (.frame port link { f with wire := frameBytes s port link f }))

/-- FRAME_DISCARD (R283, R330): counted by kind. -/
def Machine.execFrameDiscard (port : Nat) (link : Nat) (b : BadFrame) (s : State) : Answer :=
  let kind := fun (k : Nat) => modPort s port fun p => { p with discards := p.discards.modify k (· + 1) }
  if !linkLive s port link then .next s
  else match b with
  | .oversized => .next (kind 0)
  | .linkPause => .next (kind 1)
  | .ipv4 => .next (kind 2)
  | .icmpv6 => .next (countNode s 4)
  | .neighbourDiscovery => .next (countNode s 4)

/-! ### Pause (R292, R294) -/

/-- ns that a number of pause quanta of 512 bit times last on a link. -/
def quantaNs (mode quanta : Nat) : Nat := quanta * 64 * 1000 / linkRate mode

/-- PAUSE_RECEIVE (R292, R327): quanta 0 resume the class; pause of any other priority is ignored and counted. -/
def Machine.execPauseReceive (port : Nat) (link : Nat) (cls : Nat) (quanta : Nat) (t : Nat) (s : State) : Answer :=
  if !linkLive s port link ∨ !s.ports.nodeValid then .next s
  else if !lossless s cls then .next (countNode (modPort s port fun p => { p with ignoredPause := p.ignoredPause + 1 }) 5)
  else
    let s := atTime s t
    .next (modLink s port link fun l => l.modPause cls fun x =>
      if quanta = 0 then { x with paused := false }
      else { x with paused := true, since := if x.paused then x.since else s.time, until_ := s.time + quantaNs (getPort s port).mode quanta })

/-- PAUSE_TIME_EXPIRE (R292). -/
def Machine.execPauseTimeExpire (port : Nat) (link : Nat) (cls : Nat) (t : Nat) (s : State) : Answer :=
  let x := (getLink s port link).pauseOf cls
  if x.paused ∧ x.until_ ≤ t then .next (modLink (atTime s t) port link fun l => l.modPause cls fun x => { x with paused := false }) else .next s

/-- PAUSE_REFRESH (R292). -/
def Machine.execPauseRefresh (port : Nat) (link : Nat) (cls : Nat) (s : State) : Answer :=
  let x := (getLink s port link).pauseOf cls
  if linkLive s port link ∧ x.own ∧ x.ingress > 65536 then .next (sendPause s port link cls 0xFFFF) else .next s

/-- PAUSE_LIMIT in ns; none when it is off (R294). -/
def pauseLimit (s : State) : Option Nat := let n := fld s.ports.net 47 32; if n = 0 then none else some (n * 1000000)

/-- SUBJECT of an event about a link (R476). -/
def linkSubject (port link : Nat) : Nat := 256 * port + link

/-- REMOTE_PAUSE_LIMIT (R294): the class's queued frames are discarded, the link is marked down, and an event is posted. -/
def Machine.execRemotePauseLimit (port : Nat) (link : Nat) (cls : Nat) (t : Nat) (s : State) : Answer :=
  let x := (getLink s port link).pauseOf cls
  match pauseLimit s with
  | none => .next s
  | some n =>
    if !x.paused ∨ !lossless s cls ∨ t < x.since + n ∨ (getLink s port link).down then .next s
    else
      let s := atTime s t
      let s' := settleLink (modLink (dropQueued s port link (some cls) false) port link fun l => { l with down := true }) port link
      .next (closeDead s (postFm s' 7 4 (linkSubject port link) (BitVec.ofNat 64 cls) 0#64))

/-- OWN_PAUSE_LIMIT (R294): the node ends its own pause; frames of the class that then arrive are discarded until the buffer has drained. -/
def Machine.execOwnPauseLimit (port : Nat) (link : Nat) (cls : Nat) (t : Nat) (s : State) : Answer :=
  let x := (getLink s port link).pauseOf cls
  match pauseLimit s with
  | none => .next s
  | some n =>
    if !x.own ∨ t < x.ownSince + n then .next s
    else .next (sendPause (modLink (atTime s t) port link fun l => l.modPause cls fun x => { x with own := false, ownExpired := true }) port link cls 0)

/-! ### Discovery (R331 to R335) and usable links (R337, R340) -/

/-- The processor that holds the port role of a port die (R442, R462): Port 0 or 1, or Carillon 14 when it is fenced. -/
def portProc (s : State) (port : Nat) : Nat := if (s.fw.procs.getD (22 + port / 4) {}).fenced then 16 else 22 + port / 4

/-- An adjacency ends (R333, R340): eight times within 60 s mark the link down. -/
def failAdjacency (s : State) (p k : Nat) : State :=
  modLink s p k fun l =>
    let fs := s.time :: l.failures.filter fun x => decide (s.time < x + 60000000000)
    { l with adjacent := false, failures := fs, down := l.down || decide (8 ≤ fs.length) }

/-- The event of a change of adjacency or neighbour (R334). -/
def adjacencyEvent (s : State) (p k : Nat) : State :=
  let l := getLink s p k
  postFm s 7 1 (linkSubject p k) l.identity (BitVec.ofNat 64 (b2n l.adjacent))

/-- A link is adjacent by the TLV that it holds and the mode that its port has now (R333). -/
def settleAdjacent (s : State) (p k : Nat) : State :=
  let l := getLink s p k
  let adjacent := l.phyUp && l.ttlEnd.isSome && l.tlvMode == (getPort s p).mode && l.tlvSeen == s.boot.fuses.identity
  if l.adjacent = adjacent then s
  else settleLink (adjacencyEvent (if adjacent then modLink s p k fun l => { l with adjacent := true } else failAdjacency s p k) p k) p k

/-- PHY_UP (R331): the first discovery frame is due. -/
def Machine.execPhyUp (port : Nat) (link : Nat) (t : Nat) (s : State) : Answer :=
  if !linkExists s port link ∨ (getDom s (142 + port)).present ≠ .on ∨ (getLink s port link).phyUp then .next s
  else
    let s := atTime s t
    .next (settleLink (modLink s port link fun l => { l with phyUp := true, lldpSent := 0, lldpNext := s.time }) port link)

/-- The link leaves every effective hop with its queued frames discarded and counted, and lanes without a path close (R340). -/
def loseLink (before s : State) (p k : Nat) : State := closeDead before (settleLink (dropQueued s p k none true) p k)

/-- PHY_DOWN (R333, R340). -/
def Machine.execPhyDown (port : Nat) (link : Nat) (t : Nat) (s : State) : Answer :=
  let l := getLink s port link
  if !l.phyUp then .next s
  else
    let s := atTime s t
    let s' := if l.adjacent then failAdjacency s port link else s
    let s' := modLink s' port link fun l => { l with phyUp := false, seen := 0#64, ttlEnd := none, pause := l.pause.map fun x => { x with paused := false } }
    let s' := if l.adjacent then adjacencyEvent s' port link else s'
    .next (loseLink s s' port link)

/-- LLDP_SEND (R331, R332). -/
def Machine.execLldpSend (port : Nat) (link : Nat) (t : Nat) (s : State) : Answer :=
  let l := getLink s port link
  let period := fld s.ports.net 23 16
  if !linkLive s port link ∨ t < l.lldpNext ∨ procAway s (portProc s port) then .next s
  else
    let s := atTime s t
    let v : LldpTlv := { identity := s.boot.fuses.identity, nodeValid := s.ports.nodeValid, nodeId := s.ports.nodeId, plane := port, link := link
                         mode := (getPort s port).mode, version := 1, seen := l.seen, mac := linkMac s port link, ttl := (4 * period + 9) / 10 }
    .next (emit (modLink s port link fun l => { l with lldpSent := l.lldpSent + 1
                                                       lldpNext := s.time + (if l.lldpSent < 4 then 100000000 else period * 100000000) }) (.lldp port link v (lldpFrame v)))

/-- LLDP_RECEIVE (R333 to R335). A TLV whose TTL is 0 has expired as it comes. -/
def Machine.execLldpReceive (port : Nat) (link : Nat) (v : LldpTlv) (t : Nat) (s : State) : Answer :=
  let l := getLink s port link
  if !linkLive s port link ∨ procAway s (portProc s port) then .next s
  else
    let s := atTime s t
    let own := s.boot.fuses.identity
    if v.version ≠ 1 ∨ v.plane ≠ port ∨ v.mode ≠ (getPort s port).mode then
      let s' := if l.adjacent then adjacencyEvent (failAdjacency s port link) port link else s
      let s' := modLink s' port link fun l => { l with tlvMode := v.mode, tlvSeen := 0#64 }
      let s' := postFm s' 7 2 (linkSubject port link) v.identity 0#64
      .next (closeDead s (settleLink s' port link))
    else
      let clash := v.nodeValid && s.ports.nodeValid && v.nodeId == s.ports.nodeId && v.identity != own
      let s' := if clash then postFm { s with ports := { s.ports with nodeValid := false } } 7 3 s.ports.nodeId v.identity 0#64 else s
      let adjacent := v.seen == own && decide (0 < v.ttl)
      let s' := if l.adjacent ∧ !adjacent then failAdjacency s' port link else s'
      let s' := modLink s' port link fun l => { l with adjacent := adjacent, identity := v.identity, mac := v.mac, nodeValid := v.nodeValid, nodeId := v.nodeId
                                                       tlvMode := v.mode, tlvSeen := v.seen, seen := if v.ttl = 0 then 0#64 else v.identity
                                                       ttlEnd := if v.ttl = 0 then none else some (s.time + 1000000000 * v.ttl) }
      let changed := l.adjacent != adjacent || l.identity != v.identity || l.mac != v.mac || l.nodeValid != v.nodeValid || l.nodeId != v.nodeId
      let s' := if changed then adjacencyEvent s' port link else s'
      .next (closeDead s (settleLink s' port link))

/-- LLDP_TTL_EXPIRE (R333). -/
def Machine.execLldpTtlExpire (port : Nat) (link : Nat) (t : Nat) (s : State) : Answer :=
  let l := getLink s port link
  match l.ttlEnd with
  | some e =>
    if t < e ∨ procAway s (portProc s port) then .next s
    else
      let s := atTime s t
      let s' := if l.adjacent then failAdjacency s port link else s
      let s' := modLink s' port link fun l => { l with seen := 0#64, ttlEnd := none }
      let s' := if l.adjacent then adjacencyEvent s' port link else s'
      .next (closeDead s (settleLink s' port link))
  | none => .next s

/-- LINK_RETURN (R340). -/
def Machine.execLinkReturn (port : Nat) (link : Nat) (t : Nat) (s : State) : Answer :=
  let l := getLink s port link
  match l.returning with
  | some x =>
    if l.sound ∧ x + 1000000000 ≤ t then .next (modLink (atTime s t) port link fun l => { l with usable := true, returning := none }) else .next s
  | none => .next s

/-- PORT_LINK_ENABLE (R337, R569): LINK_EN goes to 1, and the neighbour's identity is recorded. -/
def Machine.execPortLinkEnable (port : Nat) (link : Nat) (s : State) : Answer :=
  if port ≥ 8 ∨ link ≥ 4 ∨ (getLink s port link).enabled then .next s
  else .next (settleLink (modLink s port link fun l => { l with enabled := true, enabledId := l.identity, down := false, failures := [] }) port link)

/-- PORT_LINK_DISABLE (R569). -/
def Machine.execPortLinkDisable (port : Nat) (link : Nat) (t : Nat) (s : State) : Answer :=
  if !(getLink s port link).enabled then .next s
  else
    let s := atTime s t
    .next (loseLink s (modLink s port link fun l => { l with enabled := false }) port link)

/-- PORT_DOWN_CLEAR (R294, R340, R569): a link marked down is enabled again. -/
def Machine.execPortDownClear (port : Nat) (mask : Nat) (t : Nat) (s : State) : Answer :=
  .next (((List.range 4).filter fun k => (mask >>> k) % 2 == 1 && (getLink s port k).down).foldl (fun s k =>
    settleLink (modLink s port k fun l => { l with down := false, failures := [], enabledId := l.identity }) port k) (atTime s t))

/-! ### Shapers (R342, R343) -/

/-- A token count after a refill, under the word in force before and the word now. -/
def refillTokens (old w : Word) (count : Nat) : Nat :=
  let burst := 16 * max 1 (fld w 15 0)
  if bit w 63 ∧ !bit old 63 then burst else min (count + min 2400 (fld w 43 32)) burst

/-- SHAPER_REFILL (R343), at a node time that is a multiple of 1,000 ns. -/
def Machine.execShaperRefill (t : Nat) (s : State) : Answer :=
  if t % 1000 ≠ 0 ∨ t ≤ s.ports.lastRefill ∨ t < s.time ∨ !s.timeOn then .next s
  else
    let s := atTime s t
    .next { s with ports := { s.ports with
      lastRefill := t
      ports := s.ports.ports.map fun p => { p with
        shapersInForce := p.shapers
        links := p.links.map fun l => { l with tokens := l.tokens.mapIdx fun k n => refillTokens (p.shapersInForce.getD k 0#64) (p.shapers.getD k 0#64) n } } } }

/-! ### Gate lists (R345, R346, R570) -/

/-- GATE_ENTRY_ADVANCE (R345). -/
def Machine.execGateEntryAdvance (port : Nat) (t : Nat) (s : State) : Answer :=
  let x := getPort s port
  let n := fld (x.active.getD x.entry 0#64) 31 0
  if x.active.isEmpty ∨ t < x.entryStart + n then .next s
  else .next (modPort (atTime s t) port fun p => { p with entry := (p.entry + 1) % p.active.length, entryStart := p.entryStart + n })

/-- GATE_TAKEOVER (R346, R570). -/
def Machine.execGateTakeover (port : Nat) (t : Nat) (s : State) : Answer :=
  let x := getPort s port
  if x.pendState ≠ .armed ∨ t < x.due then .next s
  else .next (modPort (atTime s t) port fun p => { p with active := p.pending.take (p.countM1 + 1), pendState := .empty, entry := 0, entryStart := p.due
                                                          late := p.late + (if p.due = p.takeover then 0 else 1) })

/-- Whether entries 0 to COUNT_M1 of a pending list meet R345. -/
def gateListOk (pending : List Word) (countM1 : Nat) : Bool :=
  (pending.take (countM1 + 1)).all fun w => decide (100 ≤ fld w 31 0) && decide (fld w 31 0 ≤ 1000000000)

/-- GATE_ARM (R346, R570). -/
def Machine.execGateArm (port : Nat) (countM1 : Nat) (t : Nat) (s : State) : Answer :=
  if port ≥ 8 then .next s
  else
    let s := atTime s t
    .next (modPort s port fun p =>
      let c := countM1 % 64
      if gateListOk p.pending c then { p with countM1 := c, pendState := .armed, due := if p.takeover < s.time then (s.time / 1000 + 1) * 1000 else p.takeover }
      else { p with countM1 := c, pendState := .invalid })

/-- GATE_CLEAR (R570): every gate opens; an armed list stays as it is. -/
def Machine.execGateClear (port : Nat) (countM1 : Nat) (s : State) : Answer :=
  if port ≥ 8 then .next s
  else .next (modPort s port fun p => { p with active := [], entry := 0, countM1 := if p.pendState = .armed then p.countM1 else countM1 % 64 })

/-! ### Node ID, forwarding and foreign tables (R327, R336, R341, R563, R571) -/

/-- NODE_ID_WRITE (R563). -/
def Machine.execNodeIdWrite (v : Word) (s : State) : Answer :=
  let id := if s.ports.nodeValid then s.ports.nodeId else fld v 11 0
  .next (closeDead s { s with ports := { s.ports with nodeValid := bit v 15, nodeId := id } })

/-- FORWARDING_ENTRY_WRITE (R336, R571). -/
def Machine.execForwardingEntryWrite (n : Nat) (v : Word) (s : State) : Answer :=
  if n ≥ 4096 then .next s
  else .next (closeDead s { s with ports := { s.ports with forwarding := assign s.ports.forwarding n (v &&& (maskOf 63 63 ||| maskOf 31 0)) } })

/-- FOREIGN_ENTRY_WRITE (R341, R571): the entry takes effect with the other words as they stand. -/
def Machine.execForeignEntryWrite (e : Nat) (v : Word) (s : State) : Answer :=
  if e ≥ 64 then .next s
  else
    let x := (lookup? s.ports.foreign e).getD {}
    let v := v &&& (maskOf 63 63 ||| maskOf 59 48 ||| maskOf 1 0)
    let live := if bit v 63 then some (x.addrHi.toNat * 2 ^ 64 + x.addrLo.toNat, fld v 59 48, fld v 1 0, fld x.mac 47 0) else none
    .next (closeDead s { s with ports := { s.ports with foreign := assign s.ports.foreign e { x with entry := v, live := live } } })

end Sys2Proof
end

