-- ==== Sys2Proof/Machine/FaultOps.lean ====
section
/-!
DEFINITION. What faults share: fences of pseudo-channels, links and link modules (R512 to R518), the end of the node's service (R502, R519), and the
states that domains are commanded to (R489).
-/
namespace Sys2Proof

open Machine (State Fault Refusal)

/-! ### Domains -/

/-- Whether a core or Mallet domain is fenced (R489): the physical core, or every pseudo-channel of the stack. -/
def domFenced (s : State) (d : Nat) : Bool :=
  if domKind d = 3 then (s.cores.getD (d - 4) {}).fenced
  else if domKind d = 6 then (List.range 32).all fun k => pchFenced s (32 * (d - 104) + k)
  else false

/-- The domains of a partition (R489, R491): its cores, and the stacks and Mallet units of the pseudo-channels that it owns. -/
def partDoms (s : State) (p : Nat) : List Nat :=
  let atStacks := (((getPart s p).pchs.map (· / 32)).eraseDups)
  ((ownerCores s (ownerOf p)).map fun c => 4 + s.coreMap.getD c 0xFF).filter (· < 72) ++ atStacks.map (84 + ·) ++ atStacks.map (104 + ·)

/-- Commands domains ON: one that is not ON and not fenced starts its wake (R488, R489). -/
def commandOn (s : State) (ds : List Nat) : State :=
  ds.foldl (fun s d =>
    let s := modDom s d fun x => { x with commanded := .on }
    let x := getDom s d
    if x.present = .on ∨ x.wake.isSome ∨ domFenced s d ∨ !domFitted s d then s
    else modDom s d fun x => { x with wake := some (s.time + wakeNs d x.present) }) s

/-! ### The end of the node's service (R519) -/

/-- Stops whatever the node is doing: nothing more is fetched, completed, sent or answered (R519). -/
def stopService (s : State) : State :=
  { s with flight := []
           fabric := { s.fabric with homes := [], members := [], arrived := [] }
           net := { s.net with miss := [], fetching := [] }
           owners := s.owners.map fun x => { x with rings := x.rings.map fun e => (e.1, { e.2 with state := RingState.disabled }) }
           units := s.units.map fun u => (u.1, { u.2 with chunk := none, holder := none, query := [], table := none, acc := [], snapshot := [], taken := [], queue := [] })
           flash := { s.flash with ops := [] }
           ports := { s.ports with ports := s.ports.ports.map fun p => { p with links := p.links.map fun l => { l with phyUp := false, usable := false, adjacent := false, seen := 0#64, ttlEnd := none, queues := List.replicate 8 [] } } } }

/-- A fault that ends the node's service: FAULT# is asserted, the cause goes to the logs, and the faulted state holds. Without power every domain but Belfry
and the Damper is OFF, HBM contents are lost and the CXL link is down. -/
def enterFault (s : State) (cause : Nat) (powerKept : Bool) (arg : Word) : State :=
  if s.boot.phase = .faulted then s
  else
    let s := stopService (logError s cause 0 none 0 arg)
    let s := { s with boot := { s.boot with phase := .faulted, faultPin := s.boot.aux || powerKept } }
    if powerKept then s
    else { s with hbm := [], staging := [], hbmPoison := [], openPoison := [], stagingPoison := []
                  cxl := { s.cxl with linkUp := false }
                  power := { s.power with domains := s.power.domains.mapIdx fun k d => if k < 2 then d else { d with present := .off, wake := none } } }

/-! ### Package links (R514 to R516) -/

def getPkg (s : State) (k : Nat) : PkgLink := s.faults.links.getD k { modules := [] }
/-- A module of a link: fenced, lanes spared outward and inward. -/
def getModule (s : State) (k m : Nat) : Bool × Nat × Nat := (getPkg s k).modules.getD m (true, 0, 0)
def modModule (s : State) (k m : Nat) (f : Bool × Nat × Nat → Bool × Nat × Nat) : State :=
  { s with faults := { s.faults with links := s.faults.links.modify k fun l => { l with modules := l.modules.modify m f } } }
/-- Whether the variant has a link, and its module (R514). -/
def linkFitted (s : State) (k : Nat) : Bool :=
  if k < 4 then decide (k < hubCount s) else if k < 6 then portDieFitted s (k - 4) else if k = 7 then portDieFitted s 1 else k == 6
def moduleFitted (s : State) (k m : Nat) : Bool := linkFitted s k && decide (m < (getPkg s k).modules.length)
/-- Whether a link has no module left. -/
def pkgLost (s : State) (k : Nat) : Bool := (getPkg s k).modules.all (·.1)

/-- The ports of a port die go down to the forwarding table (R340, R516). -/
def portsDown (s : State) (die : Nat) : State :=
  (List.range 16).foldl (fun s k =>
    let port := 4 * die + k / 4
    if linkExists s port (k % 4) then loseLink s (modLink s port (k % 4) fun l => { l with down := true }) port (k % 4) else s) s

/-- What follows when a link has no module left (R516, R522). For both port dies' links to the attention die lost while the port-die link still has a module R516 gives
no outcome: this model leaves the ports up (DESIGN CHOICE, log entry 50). -/
def linkGone (s : State) (k : Nat) : State :=
  if k < 4 then (List.range 160).foldl (fun s c => fencePch s (160 * k + c)) s
  else if k < 6 then (if !portDieFitted s 1 ∨ pkgLost s 7 then portsDown s (k - 4) else s)
  else if k = 6 then enterFault (aerFatal s ((List.range 16).filter fun p => !(mappedExts s p).isEmpty)) 0x0E true 0#64
  else [0, 1].foldl (fun s p => if pkgLost s (4 + p) then portsDown s p else s) s

/-- Fences a link module (R515, R516). -/
def fenceModule (s : State) (k m : Nat) : State :=
  if !moduleFitted s k m || (getModule s k m).1 then s
  else
    let s := modModule s k m fun x => { x with fst := true }
    let s := noteFence (logError s 0x07 4 none (16 * k + m) 0#64) 4 (16 * k + m)
    if pkgLost s k then linkGone s k else s


end Sys2Proof
end

