-- ==== Sys2Proof/Machine/BootOps.lean ====
section
/-!
DEFINITION. Fuses as they read, images as they are judged, and what a reset of the whole node clears and keeps (R444 to R446, R540 to R548).
-/
namespace Sys2Proof

open Machine (State Fault Refusal)

/-! ### Fuses (R543 to R548) -/

/-- How many of the low n bits of a number are set. -/
def onesIn (v n : Nat) : Nat := ((List.range n).filter fun k => (v >>> k) % 2 == 1).length

/-- A mark of four bits is set when at least three of them are burnt (R544). -/
def markSet (v : Nat) : Bool := decide (3 ≤ onesIn v 4)

/-- Stacks and port dies of a variant code (R17, R591). -/
def variantDies (v : Nat) : Option (Nat × Nat) :=
  match v with
  | 1 => some (0xFFFFF, 3)
  | 2 => some (0xFFFFF, 1)
  | 3 => some (0x7FFF, 3)
  | 4 => some (0x3FF, 3)
  | _ => none

/-- Whether a CONFIG is legal (R545). -/
def configLegal (c : Nat) : Bool :=
  (c >>> 108) % 4 != 3 && (c >>> 106) % 4 != 3 && onesIn (c >>> 8) 68 == 64
    && variantDies (c % 256) == some ((c >>> 76) % 2 ^ 20, (c >>> 96) % 4)

/-- CHECK of a CONFIG (R544). -/
def configCheck (c : Nat) : Nat := (crc32c (leBytes 512 c)).toNat

/-- The ruling generation (R544). -/
def rulingGen (f : Fuses) : Option Nat :=
  (List.range 4).reverse.find? fun g =>
    let r := f.gens.getD g {}
    markSet r.valid && r.check == configCheck r.config && configLegal r.config

/-- The lifecycle that the fuses give (R546), and its code. -/
def fuseLifecycle (f : Fuses) : Lifecycle :=
  if markSet (f.lifecycle / 16) then .returned else if markSet f.lifecycle then .production else .manufacture
/-- A rollback counter's value (R548): the highest burnt bit plus one. -/
def rollbackValue (bits : Nat) : Nat := let v := bits % 2 ^ 128; if v = 0 then 0 else min 128 (Nat.log2 v + 1)

/-- SEED_CHECK of a seed (R543). -/
def seedCheckOf (seed : Nat) : Nat := ofLe ((sha3 (ascii "LFN seed check" ++ leBytes 32 seed)).take 4)

/-- Enters the recovery loader (R536): FAULT# is asserted, the link and the ports stay down. -/
def enterLoader (s : State) : State := { s with boot := { s.boot with phase := .loader, faultPin := true }, serial := {}, cxl := { s.cxl with linkUp := false } }

/-- Reads the fuses (R544, R546, R547): lifecycle, ruling generation and CONFIG; in MANUFACTURE an empty SEED is filled from the entropy source. A SEED that does not
match its check is logged, under a CAUSE and with an ARG that R528 does not give. Without a ruling generation only MANUFACTURE goes on. -/
def readFuses (s : State) (entropy : Nat) (next : StartPhase) : State :=
  let f := s.boot.fuses
  let life := fuseLifecycle f
  let f := if life = .manufacture ∧ f.seed = 0 ∧ entropy % 2 ^ 256 ≠ 0
    then { f with seed := entropy % 2 ^ 256, seedCheck := f.seedCheck ||| seedCheckOf (entropy % 2 ^ 256) } else f
  let g := rulingGen f
  let bad := f.seedCheck != seedCheckOf f.seed
  let s := { s with boot := { s.boot with fuses := f, lifecycle := life, ruling := g, seedBad := bad
                                          config := (g.map fun k => (f.gens.getD k {}).config).getD 0 } }
  let s :=
    if bad then
      let (v, s) := draw s
      let (a, s) := draw s
      logError s (v % 256) 0 none 0 (BitVec.ofNat 64 a)
    else s
  if g.isNone ∧ life ≠ .manufacture then enterLoader s else { s with boot := { s.boot with phase := next } }

/-- Whether Belfry has no identity (R419, R547): the lifecycle is RETURNED, or SEED does not match SEED_CHECK, which acts alike. -/
def noIdentity (s : State) : Bool := s.boot.seedBad || s.boot.lifecycle == .returned

/-- Belfry issues a new alias certificate (R420): it has an alias key unless it has no identity (R419). -/
def newAlias (s : State) : State :=
  if noIdentity s then s else { s with belfry := { s.belfry with aliasIssued := s.belfry.aliasIssued + 1 } }

/-! ### Images (R442, R444 to R446) -/

/-- The kind of a processor (R442). -/
def procKind (x : Nat) : Nat := if x = 0 then 1 else if x = 1 then 2 else if x < 18 then 3 else if x < 22 then 4 else 5

/-- Whether the variant has a processor. -/
def procFitted (s : State) (x : Nat) : Bool :=
  if x < 18 then true else if x < 22 then decide (x - 18 < hubCount s) else decide (x < 24) && portDieFitted s (x - 22)

/-- The rollback counter that governs a kind (R445). -/
def rollbackOf (s : State) (kind : Nat) : Nat := rollbackValue (if kind = 1 then s.boot.fuses.rollback0 else s.boot.fuses.rollback1)

/-- Why an image may not run (R445, R457); none when it may. -/
def imageBad (s : State) (x : Image) : Option (Nat × Nat) :=
  if !x.sigOk ∨ !x.formOk then some (stCheck, 6)
  else if x.test ∧ s.boot.lifecycle = .production then some (stNotOwner, 0xD)
  else if x.svn < rollbackOf s x.kind then some (stNotOwner, 0x11)
  else none

/-- The image of a kind in a boot slot. -/
def slotImage (s : State) (slot kind : Nat) : Option Image := (s.fw.slots.getD slot {}).images.find? fun x => x.kind == kind

/-- The preferred slot (R535): the complete one with the higher SLOT_SEQ. -/
def preferredSlot (s : State) : Nat :=
  let a := s.fw.slots.getD 0 {}
  let b := s.fw.slots.getD 1 {}
  if b.complete ∧ (!a.complete ∨ a.number < b.number) then 1 else 0

/-- Whether the public key of a slot's header is the one that IMAGE_KEY names (R535, R543). -/
def slotKeyOk (s : State) (slot : Nat) : Bool := ofLe (sha3 (s.fw.slots.getD slot {}).key) == s.boot.fuses.imageKey

/-- Whether a slot boots (R535): complete, its key and signatures good, and every image fit to run. -/
def slotBoots (s : State) (slot : Nat) (sigs : Bool) : Bool :=
  (s.fw.slots.getD slot {}).complete && slotKeyOk s slot && sigs && [1, 2, 3, 4, 5].all fun k => match slotImage s slot k with
    | some x => (imageBad s x).isNone
    | none => false

/-- Makes an entry in the fault log of the boot flashes only. -/
def logFaultOnly (s : State) (cause : Nat) (arg : Word) : State :=
  let e : LogEntry := { seq := s.faults.nextSeq, cause := cause, unitKind := 0, part := none, unit := 0, arg := arg, time := time48 s }
  { s with faults := { s.faults with faultLog := (e :: s.faults.faultLog).take 1024 } }

/-! ### Reset (R540, R541) -/

/-- Keeps the flash sets of a partition that its binding makes durable (R431, R541); with counters at 0 after a node reset (R387). -/
def keepFlash (s : State) (p : Nat) : State :=
  let b := (getPart s p).binding
  if !(getPart s p).live ∨ b = 0#64 then s
  else
    let x := getFlash s p
    { s with flash := { s.flash with durable := assign s.flash.durable (p, b) { objects := x.objects, entries := x.entries, commits := x.commits, copies := x.copies, nextGen := x.nextGen } } }

/-- The node after a reset of every kind but FUNCTION (R541): fuses, boot flashes, drive contents, straps and what lies outside the node are kept. -/
def resetNode (s : State) (kind : ResetKind) (phase : StartPhase) : State :=
  let k := (List.range 16).foldl keepFlash s
  let z := State.reset
  let on := phase == .railsUp
  { z with
    pending := s.pending, free := s.free, out := s.out, host := s.host
    time := 0, timeOn := on
    faults := { z.faults with record := s.faults.unwritten.foldl (fun (r : List (Nat × Nat)) e => if r.contains e then r else r ++ [e]) s.faults.record
                              faultLog := s.faults.faultLog }
    fw := { z.fw with slots := s.fw.slots }
    belfry := { z.belfry with journals := s.belfry.journals }
    flash := { z.flash with durable := k.flash.durable }
    boot := { s.boot with phase := phase, kind := kind, t0 := 0, faultPin := false, tripped := false, trips := if on then s.boot.trips else [], trained := if kind = .warm then s.boot.trained else []
                          alert := z.boot.alert, alertNow := z.boot.alertNow } }

end Sys2Proof
end

