-- ==== Sys2Proof/Machine/Boot.lean ====
section
/-!
DEFINITION. From 42 V to Memory_Active, and the resets (R531 to R542, R573 to R583).
-/
namespace Sys2Proof

open Machine (State Fault Refusal)

/-! ### The 42 V input (R531, R574 to R576, R583) -/

/-- PWR_MATE (R576): the presence pin has mated and the input capacitance charges. -/
def Machine.execPwrMate (s : State) : Answer :=
  if s.boot.phase = .absent then .next { s with boot := { s.boot with phase := .mated } } else .next s

/-- POWER_GOOD (R531, R583): the straps are sampled, PWR_OK is released and the start begins. -/
def Machine.execPowerGood (recovery : Bool) (addr0 : Bool) (addr1 : Bool) (s : State) : Answer :=
  if s.boot.phase ≠ .mated ∨ s.boot.latched then .next s
  else
    let on := fun (k : Nat) (d : Domain) => if k < 2 then { d with commanded := DomState.on, present := DomState.on, wake := none } else d
    .next { s with
      boot := { s.boot with phase := .powerGood, powerGood := true, faultPin := false, recovery := recovery, addr0 := addr0, addr1 := addr1 }
      power := { s.power with domains := s.power.domains.mapIdx on } }

/-- Whether a start is under way (R531, R542). -/
def starting (s : State) : Bool :=
  [StartPhase.powerGood, .fusesRead, .railsUp, .perstReleased, .linkTrained, .imagesVerified, .processorsUp, .hbmTrained, .cleared, .loader].contains s.boot.phase

/-- INPUT_BROWNOUT (R531): before Memory_Active power is removed from all but Belfry and the Damper, and the start begins again from power-good. -/
def Machine.execInputBrownout (s : State) : Answer :=
  if starting s then
    let r := resetNode s s.boot.kind .mated
    .next { r with boot := { r.boot with powerGood := false } }
  else .next s

/-- The input stage opens and latches: a node fault with power removed (R575, R576). -/
def latchInput (s : State) : State :=
  if s.boot.phase = .absent ∨ s.boot.latched then s
  else
    let s := if s.boot.phase = .mated then { s with boot := { s.boot with phase := .faulted, faultPin := s.boot.aux } } else enterFault s 0x0E false 0#64
    { s with boot := { s.boot with latched := true, powerGood := false, faultPin := s.boot.faultPin && s.boot.aux }
             power := { s.power with domains := s.power.domains.map fun d => { d with present := .off, wake := none } } }

/-- INPUT_OVERVOLTAGE (R575). -/
def Machine.execInputOvervoltage (s : State) : Answer := .next (latchInput s)

/-- INPUT_OVERCURRENT (R576). -/
def Machine.execInputOvercurrent (s : State) : Answer := .next (latchInput s)

/-- INPUT_UNDERVOLTAGE (R575): every rail is off; the next power-good starts a POWER-ON. -/
def Machine.execInputUndervoltage (s : State) : Answer :=
  if s.boot.phase = .absent ∨ s.boot.latched then .next s
  else
    let r := resetNode s .powerOn .mated
    .next { r with boot := { r.boot with powerGood := false, faultPin := s.boot.faultPin && s.boot.aux } }

/-- INPUT_LATCH_RELEASE_LOW (R576): an input below 10 V for 1 s releases the latch; the next start is POWER-ON. -/
def Machine.execInputLatchReleaseLow (s : State) : Answer :=
  if s.boot.phase = .absent then .next s
  else
    let r := resetNode s .powerOn .mated
    .next { r with boot := { r.boot with latched := false, powerGood := false, faultPin := s.boot.faultPin && s.boot.aux } }

/-- RESET_LATCH_RELEASE (R583): RESET# held low for 100 ms releases the latch while 3V3_AUX is present; the start is COLD. -/
def Machine.execResetLatchRelease (s : State) : Answer :=
  if !s.boot.latched ∨ !s.boot.aux then .next s
  else
    let r := resetNode s .cold .mated
    .next { r with boot := { r.boot with latched := false, faultPin := s.boot.faultPin } }

/-! ### The phases of a start (R532 to R539) -/

/-- FUSE_READ_DONE (R532, R536, R544, R547). -/
def Machine.execFuseReadDone (entropy : Nat) (s : State) : Answer :=
  if s.boot.phase ≠ .powerGood then .next s
  else
    let s := readFuses s entropy .fusesRead
    .next (if s.boot.recovery then enterLoader { s with boot := { s.boot with recovery := false } } else s)

/-- The physical cores of the ruling CORE_MAP, ascending (R539, R545). -/
def ruledMap (s : State) : List Nat :=
  if s.boot.ruling.isNone then List.range 64 else (List.range 68).filter fun x => (s.boot.config >>> (8 + x)) % 2 == 1

/-- Ethernet and root ports: powered when the processors have been released (R532). -/
def lateDomain (k : Nat) : Bool := domKind k == 8 || domKind k == 9

/-- The domains once the rails are ramped (R489, R532): ON, but for missing dies, the spare cores, and the ports. -/
def railDomains (s : State) : List Domain :=
  (List.range 159).map fun k =>
    let spare := domKind k == 3 && !(ruledMap s).contains (k - 4)
    if !domFitted s k ∨ lateDomain k then { present := .off } else if spare then { commanded := .off, present := .off } else {}

/-- The fused maximum of each of the six rails (R500, R543), in units of 10 mV: 0.40 V + 0.02 V × code. -/
def railTrips (s : State) : List Nat := (List.range 6).map fun k => 40 + 2 * fld s.boot.fuses.limits (29 + 6 * k) (24 + 6 * k)

/-- RAILS_RAMPED (R23, R500, R532): the node time counter starts at 0. -/
def Machine.execRailsRamped (s : State) : Answer :=
  if s.boot.phase ≠ .fusesRead then .next s
  else .next { s with time := 0, timeOn := true, boot := { s.boot with phase := .railsUp, trips := railTrips s }, power := { s.power with domains := railDomains s } }

/-- PERST_RELEASE (R532): T0. -/
def Machine.execPerstRelease (t : Nat) (s : State) : Answer :=
  if s.boot.phase ≠ .railsUp then .next s
  else
    let s := atTime s t
    .next { s with boot := { s.boot with phase := .perstReleased, t0 := s.time } }

/-- Widest link and highest rate that the fuses allow (R545). -/
def linkWidth (s : State) : Nat := let c := (s.boot.config >>> 106) % 4; if s.boot.ruling.isNone ∨ c = 0 then 16 else if c = 1 then 8 else 4
def linkSpeed (s : State) : Nat := let c := (s.boot.config >>> 108) % 4; if s.boot.ruling.isNone ∨ c = 0 then 32 else if c = 1 then 16 else 8

/-- CXL_LINK_TRAINED (R350, R352, R353, R532): during the start, or again after the link went down. -/
def Machine.execCxlLinkTrained (alternate : Bool) (direct : Bool) (width : Nat) (gts : Nat) (s : State) : Answer :=
  let ok := [4, 8, 16].contains width && [8, 16, 32].contains gts && decide (width ≤ linkWidth s) && decide (gts ≤ linkSpeed s)
  let up := { s with cxl := { s.cxl with linkUp := true, alternate := alternate, direct := direct, width := width, gts := gts } }
  if !ok then .next s
  else if s.boot.phase = .perstReleased then .next { up with boot := { s.boot with phase := .linkTrained } }
  else if !s.cxl.linkUp ∧ [StartPhase.linkTrained, .imagesVerified, .processorsUp, .hbmTrained, .cleared, .active].contains s.boot.phase then .next up
  else .next s

/-- Loads the images of a slot into the processors; Belfry issues its alias certificate (R420). -/
def bootSlot (s : State) (slot : Nat) : State :=
  let s := newAlias s
  { s with
    fw := { s.fw with booted := slot
                      procs := (List.range 24).map fun x => { fitted := procFitted s x, image := if procFitted s x then slotImage s slot (procKind x) else none } }
    boot := { s.boot with phase := .imagesVerified } }

/-- IMAGES_VERIFIED (R445, R532, R535, R536), with the CXL link trained or not, since that needs a host port that trains: `okA` and `okB` say whether the signatures of a slot verify. The failure of the preferred slot is
logged with a free CAUSE; when neither slot boots, the recovery loader is entered. -/
def Machine.execImagesVerified (okA : Bool) (okB : Bool) (s : State) : Answer :=
  if s.boot.phase ≠ .linkTrained ∧ s.boot.phase ≠ .perstReleased then .next s
  else
    let fine := fun (k : Nat) => slotBoots s k (if k = 0 then okA else okB)
    let a := preferredSlot s
    if fine a then .next (bootSlot s a)
    else
      let (v, s) := draw s
      let s := logFaultOnly s (v % 256) (BitVec.ofNat 64 a)
      if fine (1 - a) then .next (bootSlot s (1 - a)) else .next (enterLoader s)

/-- PROCESSORS_RELEASED (R469, R532): retry status ends; the ports and the root ports are powered. -/
def Machine.execProcessorsReleased (s : State) : Answer :=
  if s.boot.phase ≠ .imagesVerified then .next s
  else
    let on := fun (k : Nat) (d : Domain) =>
      if lateDomain k && domFitted s k && (domKind k == 8 || s.boot.ruling.isNone || (s.boot.config >>> (98 + (k - 151))) % 2 == 1) then ({} : Domain) else d
    .next { s with boot := { s.boot with phase := .processorsUp }, power := { s.power with domains := s.power.domains.mapIdx on } }

/-- HBM_TRAINED (R532, R534): pseudo-channels of stacks that failed are fenced, with the fences recorded. -/
def Machine.execHbmTrained (failed : List Nat) (s : State) : Answer :=
  if s.boot.phase ≠ .processorsUp then .next s
  else
    let good := (List.range 20).filter fun k => stackFitted s k && !failed.contains k
    let s := failed.foldl (fun s k => (List.range 32).foldl (fun s c => fencePch s (32 * k + c)) s) s
    .next { s with boot := { s.boot with phase := .hbmTrained, trained := good } }

/-- Applies one entry of the fence record, quietly (R513). -/
def applyFence (s : State) (e : Nat × Nat) : State :=
  match e.1 with
  | 1 => modDom { s with cores := s.cores.modify e.2 fun c => { c with fenced := true } } (4 + e.2) fun d => { d with present := .off, wake := none }
  | 2 => modUnit s e.2 fun u => { u with fenced := true }
  | 3 =>
    let s := { s with faults := { s.faults with pchs := if s.faults.pchs.contains e.2 then s.faults.pchs else s.faults.pchs ++ [e.2] } }
    [3 * e.2, 3 * e.2 + 1, 3 * e.2 + 2].foldl (fun s k => modExt s k fun x => { x with poison := true }) s
  | _ => modModule s (e.2 / 16) (e.2 % 16) fun m => { m with fst := true }

/-- Gives each logical number whose mapped core is fenced the lowest spare that passed (R539). -/
def mapSpares (s : State) : State :=
  (List.range 64).foldl (fun s c =>
    if (s.cores.getD (s.coreMap.getD c 0xFF) {}).fenced then
      match spareCore s with
      | some x => modDom { s with coreMap := s.coreMap.set c x } (4 + x) fun _ => {}
      | none => s
    else s) s

/-- STARTUP_CLEAR_DONE (R516, R532, R539, R541): HBM is zero, the fence record is applied, a link that it leaves no module is lost, units that failed their self-test are fenced and recorded, and the logical
cores are mapped. -/
def Machine.execStartupClearDone (badCores : List Nat) (badUnits : List Nat) (badModules : List Nat) (s : State) : Answer :=
  if s.boot.phase ≠ .hbmTrained then .next s
  else
    let mark := fun (x : Nat) (c : CoreS) => { c with passed := !badCores.contains x }
    let s := { s with hbm := [], hbmPoison := [], openPoison := [], poisonOverflow := false, coreMap := ruledMap s, cores := s.cores.mapIdx mark }
    let s := s.faults.record.foldl applyFence s
    let s := (List.range 8).foldl (fun s k => if pkgLost s k then linkGone s k else s) s
    let s := badCores.foldl fenceCore s
    let s := badUnits.foldl fencePair s
    let s := badModules.foldl (fun s n => fenceModule s (n / 16) (n % 16)) s
    let s := mapSpares s
    .next { s with boot := { s.boot with phase := if s.boot.phase = .faulted then .faulted else .cleared } }

/-- MEMORY_ACTIVE (R532, R533, R583). -/
def Machine.execMemoryActive (t : Nat) (s : State) : Answer :=
  if s.boot.phase ≠ .cleared then .next s
  else
    let s := atTime s t
    .next { s with boot := { s.boot with phase := .active } }

/-! ### Resets (R540 to R542, R583) -/

/-- A WARM reset (R540, R541). -/
def warmReset (s : State) : State :=
  let r := readFuses (resetNode s .warm .railsUp) 0 .railsUp
  { r with power := { r.power with domains := railDomains r } }

/-- The restart of a start from T0 with its kind (R542): the phases before T0 are not repeated, so the node time and the log go on and the ruling generation stays. -/
def restartFromT0 (s : State) : State :=
  let r := resetNode s s.boot.kind .railsUp
  { r with time := s.time, power := { r.power with domains := railDomains r }
           faults := { r.faults with log := s.faults.log, nextSeq := s.faults.nextSeq } }

/-- A COLD reset with power held (R540). -/
def coldReset (s : State) : State :=
  let r := resetNode s .cold .powerGood
  { r with boot := { r.boot with recovery := false }
           power := { r.power with domains := r.power.domains.mapIdx fun k d => if k < 2 then {} else d } }

/-- The reset that something asks for: COLD from the faulted state and the loader, a restart of the start while one is under way (R540, R542). -/
def resetAs (s : State) (kind : ResetKind) : State :=
  if s.boot.phase = .absent ∨ s.boot.phase = .mated ∨ s.boot.latched ∨ !s.boot.powerGood then s
  else if kind = .cold ∨ s.boot.phase = .faulted ∨ s.boot.phase = .loader then coldReset s
  else if s.boot.phase = .active then warmReset s
  else if s.boot.phase = .powerGood ∨ s.boot.phase = .fusesRead then s
  else restartFromT0 s

/-- PERST_ASSERT (R540, R542). -/
def Machine.execPerstAssert (s : State) : Answer := .next (resetAs s .warm)

/-- RESET_PIN_RELEASE (R540, R583): a low of less than 1 ms is ignored. -/
def Machine.execResetPinRelease (lowUs : Nat) (s : State) : Answer := if lowUs < 1000 then .next s else .next (resetAs s .cold)

/-- What an FLR of a function resets (R541): its rings, its configuration space and BARs, and its MSI-X. -/
def functionReset (s : State) (o : Owner) : State :=
  let s := (getOwner s o).rings.foldl (fun s e => if (getRing s o e.1).enabled then closeRing s o e.1 else s) s
  let z : OwnerS := {}
  let s := modOwner s o fun x => { x with vecMask := z.vecMask, funcMask := z.funcMask, pba := z.pba, msixTable := z.msixTable }
  match o with
  | .part p => modLd s p fun l => { l with config := [] }
  | .fm => { s with cxl := { s.cxl with fmConfig := [] } }

/-- FUNCTION_RESET (R469, R540, R541): an FLR of one function, or a hot reset of the link for every function; any reset returns the monitor's rate to 115,200. -/
def Machine.execFunctionReset (who : Option Owner) (s : State) : Answer :=
  if !s.cxl.linkUp then .next s
  else
    let s := { s with serial := { s.serial with baud := 115200 } }
    match who with
    | some o => .next (functionReset s o)
    | none => .next ((List.range 17).foldl (fun s k => functionReset s (ownerOf k)) s)

/-- CXL_LINK_DOWN (R45): fetches and CXL.mem traffic stop until the link trains again. -/
def Machine.execCxlLinkDown (s : State) : Answer := .next { s with cxl := { s.cxl with linkUp := false } }

/-- AUX_3V3_LOSS (R576, R583): the FAULT# latch holds only with 3V3_AUX, or while the module's power stands. -/
def Machine.execAux3v3Loss (s : State) : Answer := .next { s with boot := { s.boot with aux := false, faultPin := s.boot.faultPin && s.boot.powerGood } }

end Sys2Proof
end

