-- ==== Sys2Proof/Machine/CxlMem.lean ====
section
/-!
DEFINITION. CXL.mem requests (R45, R356 to R369): slots and decoders, the request queue with its rates and DevLoad, and the accesses themselves.
-/
namespace Sys2Proof

open Machine (State Fault Refusal)

/-! ### Slots and decoders (R356 to R359) -/

/-- The extent that a slot of an LD holds. -/
def slotExt (s : State) (p slot : Nat) : Option Nat :=
  match ownExt s p slot with
  | some e => some e
  | none => (lookup? (getLd s p).lent slot).map (·.ext)

/-- Log to base 2 of the interleave ways and granularity of a decoder. -/
def log2 (n : Nat) : Nat := Nat.log2 n

/-- Interleave ways by their code in a decoder's control, and the code of a number of ways. -/
def waysOf (c : Nat) : Nat := if c < 5 then 2 ^ c else [3, 6, 12].getD (c - 8) 0
def HdmDecoder.waysCode (d : HdmDecoder) : Nat := ((List.range 16).find? fun c => waysOf c == d.ways).getD 15

/-- The DPA of a host physical address (R358): none where no committed decoder covers it. -/
def dpaOf (l : LdS) (a : Nat) : Option Nat :=
  (l.decoders.find? fun d => d.committed && decide (d.base ≤ a ∧ a < d.base + d.size)).map fun d =>
    let g := log2 d.gran
    d.dpaBase + ((a - d.base) >>> (g + log2 d.ways)) <<< g + (a - d.base) % 2 ^ g

/-- Where a DPA of an LD leads: the extent and offset when the slot and offset can be accessed at all, and whether it can be written (R359, R428, R441, R533). -/
def memTarget (s : State) (p dpa : Nat) : Option (Nat × Nat × Bool) :=
  let slot := dpa / 2 ^ 28
  let off := dpa % 2 ^ 28
  let mode := winMode s p slot
  match slotExt s p slot with
  | none => none
  | some e =>
    let x := getExt s e
    if !memActive s ∨ mode = .none ∨ (getPart s p).state = .scrubbing ∨ (getPart s p).confidential ∨ x.kind = .awaiting ∨ x.poison ∨ pchFenced s (e / 3)
        ∨ (x.kind = .guarded ∧ off ≥ 240 * 2 ^ 20) then none
    else some (e, off, mode == .rw && (writable s (.hbm e off)).isNone)

/-! ### Rate and DevLoad (R367 to R369) -/

/-- HOST_QOS fields of an LD by direction: allocation and limit (R565). -/
def qosAlloc (s : State) (p : Nat) (wr : Bool) : Nat := if wr then fld (getPart s p).hostQos 23 16 else fld (getPart s p).hostQos 7 0
def qosLimit (s : State) (p : Nat) (wr : Bool) : Nat := if wr then fld (getPart s p).hostQos 31 24 else fld (getPart s p).hostQos 15 8

/-- Bytes per µs of the reference rate (R367). -/
def refRate (s : State) : Nat := 56000 * s.cxl.width * s.cxl.gts / 512

/-- The LD's bytes of the last microsecond in one direction. -/
def memBytes (s : State) (p : Nat) (wr : Bool) : Nat :=
  64 * ((getLd s p).moved.filter fun x => x.2 == wr && decide (s.time < x.1 + 1000)).length

/-- Whether the LD's rate has reached its limit (R368). -/
def atLimit (s : State) (p : Nat) (wr : Bool) : Bool :=
  let n := qosLimit s p wr
  n != 0 && decide (256 * memBytes s p wr ≥ n * refRate s)

/-- Entries of the request queue in use (R367). -/
def queueUsed (s : State) : Nat := (s.cxl.lds.map fun l => l.heldReqs.length).sum

/-- DevLoad of a response to an LD: the higher of the node level and the LD level (R369). -/
def devLoad (s : State) (p : Nat) (wr : Bool) : Nat :=
  let q := queueUsed s
  let node := if q < 256 then 0 else if q < 768 then 1 else if q < 922 then 2 else 3
  let n := qosLimit s p wr
  let u := 256 * memBytes s p wr
  let r := n * refRate s
  let full := match (getLd s p).fullSince with
    | some t => decide (t + 10000 ≤ s.time)
    | none => false
  let ld := if full then 3 else if n = 0 ∨ 4 * u < 3 * r then 0 else if u < r then 1 else if 8 * u < 9 * r then 2 else 3
  max node ld

/-- Counts a request's 64 bytes. -/
def countMem (s : State) (p : Nat) (wr : Bool) : State :=
  modLd s p fun l => { l with moved := (l.moved.filter fun x => decide (s.time < x.1 + 1000)) ++ [(s.time, wr)] }

/-! ### Events toward the LD (R359, R365, R366) -/

/-- A General Media Event record of the LD. -/
def mediaEvent (s : State) (p : Nat) (dropped : Bool) (dpa : Nat) : State :=
  modLd s p fun l => { l with events := l.events ++ [{ handle := l.nextHandle, dropped := dropped, dpa := dpa }], nextHandle := l.nextHandle % 65535 + 1 }

/-- A write is dropped: logged with its LD and DPA, and reported at most once per 1 ms (R359, R366, R528). -/
def dropWrite (s : State) (p dpa : Nat) : State :=
  let s := logError (mediaEvent s p true dpa) 0x09 0 (some p) 0 (BitVec.ofNat 64 dpa)
  let due := match (getLd s p).lastAer with
    | some t => decide (t + 1000000 ≤ s.time)
    | none => true
  let s := if due then emit (modLd s p fun l => { l with lastAer := some s.time }) (.aer p false) else s
  emit s (.memDone p dpa (devLoad s p true))

/-- The bank pair of a byte of an extent (R79). -/
def pairAt (e off : Nat) : Nat := e / 3 * 16 + off / 2 ^ 24

/-- Reads 64 bytes for a host (R359, R360, R365, R366). A MemInv or MemInvNT asks for no data. A read that the stack reports as uncorrectable counts toward a fence of its
pair (R141). -/
def memRead (s : State) (p : Nat) (r : MemReq) : State :=
  let dpa := (dpaOf (getLd s p) r.addr).map fun d => d / 64 * 64
  if r.opcode = .memInv ∨ r.opcode = .memInvNT then emit s (.memDone p r.addr (devLoad s p false))
  else match dpa.bind (memTarget s p) with
  | none => emit (mediaEvent s p false (dpa.getD 0)) (.memData p r.addr (List.replicate 64 0#8) true (devLoad s p false))
  | some (e, off, _) =>
    if regionReads s e off 64 = .refused then emit (mediaEvent s p false (dpa.getD 0)) (.memData p r.addr (List.replicate 64 0#8) true (devLoad s p false))
    else withDoms s [84 + e / 96] fun s =>
      let s := countMem s p false
      let poison := hbmPoisoned s e off 64 || r.uncorrectable
      let s := if poison then mediaEvent s p false (dpa.getD 0) else s
      let s := emit s (.memData p r.addr (Memory.readBytes s.hbm (hbmAddr e off) 64) poison (devLoad s p false))
      if r.uncorrectable then unitFault (logError s 3 2 (some p) (pairAt e off) (BitVec.ofNat 64 (hbmAddr e off))) (pairAt e off) false else s

/-- A poisoned line of an extent (R365): poisoned check bits when Guarded; an entry of the Open poison list of 65,536 lines when Open, else extent-level poison. -/
def poisonLine (s : State) (e off : Nat) : State :=
  let l := hbmAddr e off / 64
  if (getExt s e).kind = .guarded then { s with hbmPoison := if s.hbmPoison.contains l then s.hbmPoison else l :: s.hbmPoison }
  else if s.openPoison.contains l then s
  else if s.openPoison.length < 65536 then { s with openPoison := l :: s.openPoison }
  else modExt { s with poisonOverflow := true } e fun x => { x with poison := true }

/-- Writes 64 bytes, or some of them, for a host (R359, R365). -/
def memWrite (s : State) (p addr : Nat) (data : List Byte) (mask : List Bool) (poison : Bool) : State :=
  let dpa := (dpaOf (getLd s p) addr).map fun d => d / 64 * 64
  match dpa.bind (memTarget s p) with
  | some (e, off, true) => withDoms s [84 + e / 96] fun s =>
    let s := countMem s p true
    let old := Memory.readBytes s.hbm (hbmAddr e off) 64
    let new := old.mapIdx fun k b => if mask.getD k false then data.getD k 0#8 else b
    let whole := (List.range 64).all fun k => mask.getD k false
    let s := if whole ∧ !poison then writeHbm s e off new
      else { s with hbm := Memory.writeBytes s.hbm (hbmAddr e off) new }
    let s := if poison then poisonLine s e off else s
    emit s (.memDone p addr (devLoad s p true))
  | _ => dropWrite s p (dpa.getD addr)

/-- Whether CXL.mem traffic reaches an LD at all (R45, R352, R353). -/
def memUp (s : State) (ld : Nat) : Bool := s.cxl.linkUp && s.cxl.alternate && (!s.cxl.direct || ld == 0)

/-- Requests of an LD in one direction that hold an entry of the request queue. -/
def heldBy (s : State) (p : Nat) (wr : Bool) : Nat := ((getLd s p).heldReqs.filter fun r => r.2.isSome == wr).length

/-- Whether the request queue has an entry for a request of an LD (R367): one of its allocation, or one beyond what the others' allocations still reserve. Reads and
writes are counted apart, each against the queue's 1,024 entries (DESIGN CHOICE, log entry 38: the allocations of either direction may fill the queue by themselves). -/
def queueFree (s : State) (p : Nat) (wr : Bool) : Bool :=
  let kept := (((List.range 16).filter (· != p)).map fun j => 4 * qosAlloc s j wr - heldBy s j wr).sum
  decide (heldBy s p wr < 4 * qosAlloc s p wr) || decide (((List.range 16).map fun j => heldBy s j wr).sum + kept < 1024)

/-- Since when an LD's requests hold all of its allocation (R369). -/
def markFull (s : State) (p : Nat) : State :=
  modLd s p fun l =>
    let n := 4 * (qosAlloc s p false + qosAlloc s p true)
    { l with fullSince := if l.heldReqs.length ≥ n ∧ n ≠ 0 then some (l.fullSince.getD s.time) else none }

/-- Whether the place of a request cannot be reached yet: its pair runs a chunk (R114), its stack is not ON (R488), or its unit of a region has still to be lifted (R400). -/
def notYet (s : State) (p : Nat) (r : MemReq) (wr : Bool) : Bool :=
  match ((dpaOf (getLd s p) r.addr).map fun d => d / 64 * 64).bind (memTarget s p) with
  | some (e, off, _) => !(busyPairs s 64 (.hbm e off)).isEmpty || !domsOn s [84 + e / 96] || (!wr && regionReads s e off 64 == .waits)
  | none => false

/-- Wakes the stack that a held request needs (R488). -/
def wakeFor (s : State) (p : Nat) (r : MemReq) : State :=
  match ((dpaOf (getLd s p) r.addr).map fun d => d / 64 * 64).bind (memTarget s p) with
  | some (e, _, _) => if domsOn s [84 + e / 96] then s else startWake s (84 + e / 96)
  | none => s

/-- Serves a request. -/
def memServe (s : State) (p : Nat) (r : MemReq) (w : Option (List Byte × List Bool × Bool)) : State :=
  match w with
  | none => memRead s p r
  | some (data, mask, poison) => memWrite s p r.addr data mask poison

/-- Serves a request, or holds it while the LD's rate is at its limit, while its place cannot be reached, or while earlier ones of it are held (R114, R368). With no entry
free it waits at the link: none is dropped. A MemSpecRd may be dropped without a response: a free choice (R360). -/
def memRequest (s : State) (p : Nat) (r : MemReq) (w : Option (List Byte × List Bool × Bool)) : State :=
  let wr := w.isSome
  if !memUp s p then s
  else
    let (v, s) := if r.opcode = .memSpecRd ∧ !wr then draw s else (0, s)
    if v % 2 = 1 then s
    else if atLimit s p wr || notYet s p r wr || (getLd s p).heldReqs.any (fun x => x.2.isSome == wr) || s.cxl.arriving.any (fun x => x.ld == p && x.write.isSome == wr) then
      let s := wakeFor s p r
      if queueFree s p wr && !(s.cxl.arriving.any fun x => x.ld == p) then markFull (modLd s p fun l => { l with heldReqs := l.heldReqs ++ [(r, w)] }) p
      else { s with cxl := { s.cxl with arriving := s.cxl.arriving ++ [{ ld := p, req := r, write := w }] } }
    else memServe s p r w

/-- Serves held requests of an LD, oldest first in each direction, as long as its rate and their places allow. -/
def releaseHeld (p : Nat) : Nat → State → State
  | 0, s => s
  | n + 1, s =>
    let l := getLd s p
    let first := fun (wr : Bool) => (l.heldReqs.findIdx? fun x => x.2.isSome == wr).bind fun k => match l.heldReqs[k]? with
      | some (r, _) => if atLimit s p wr || notYet s p r wr then none else some k
      | none => none
    match (first false).orElse fun _ => first true with
    | none => s
    | some k => match l.heldReqs[k]? with
      | none => s
      | some (r, w) => releaseHeld p n (modLd (memServe s p r w) p fun l => { l with heldReqs := l.heldReqs.eraseIdx k })

/-- Requests at the link take entries of the queue as these become free, in arrival order (R368). -/
def admitArriving (s : State) : State :=
  s.cxl.arriving.foldl (fun s x =>
    if queueFree s x.ld x.write.isSome && (s.cxl.arriving.find? fun y => y.ld == x.ld) == some x then
      markFull (modLd { s with cxl := { s.cxl with arriving := s.cxl.arriving.erase x } } x.ld fun l => { l with heldReqs := l.heldReqs ++ [(x.req, x.write)] }) x.ld
    else s) s

/-- Held requests of one LD proceed as far as they can, and those at the link move up. -/
def releaseLd (s : State) (p : Nat) : State := admitArriving (markFull (releaseHeld p 2048 s) p)

/-- Held requests of every LD proceed as far as they can. -/
def releaseAll (s : State) : State :=
  ((List.range 16).filter fun p => memUp s p && !(getLd s p).heldReqs.isEmpty).foldl releaseLd s

end Sys2Proof
end

