-- ==== Sys2Proof/Machine/FlashPush.lean ====
section
/-!
DEFINITION. How flash work waits and goes on (R26, R392, R405, R411): stripe units are handed to the drives while the flash share and, for writes, the wear
bucket allow; and what an operation that ends without success leaves (R386, R393, R406).
-/
namespace Sys2Proof

open Machine (State Fault Refusal)

/-- Link time of the eight root ports in a 1 ms window within the mode's flash share, in ns (R26, R392). -/
def flashCap (s : State) : Nat := 8 * 1000000 * (caps s).2.2.1 / 100

/-- Link time of some bytes in ns, at 13.75 GB/s of a root port. -/
def linkNs (n : Nat) : Nat := ceilDiv (4 * n) 55

/-- What holds an operation changes: the time since the last change is billed to the old cause, in the operation and in its drive's counters (R392, R567). -/
def holdOp (s : State) (o : FlashOp) (w : FlashWait) : State × FlashOp :=
  let n := s.time - o.since
  let us := n / 1000
  match o.wait with
  | .none => (s, { o with wait := w, since := s.time })
  | .share => (modDrive s o.drive fun y => { y with waitShare := sat64 y.waitShare us }, { o with wait := w, since := s.time, heldShare := o.heldShare + n })
  | .wear => (modDrive s o.drive fun y => { y with waitWear := sat64 y.waitWear us }, { o with wait := w, since := s.time, heldWear := o.heldWear + n })
  | .drive => (s, { o with wait := w, since := s.time, heldDrive := o.heldDrive + n })

/-- Owners with flash work waiting. -/
def flashWaiting (s : State) : List Nat := (List.range 17).filter fun k => s.flash.ops.any fun o => o.owner == k && o.bytes != 0

/-- Hands commands of an operation to its drive, as many as may go. With its last write an operation asks for a Flush of every namespace that it touches (R386). -/
def pushChunks : List FlashChunk → State → FlashOp → State × FlashOp
  | [], s, o => if o.answered then (s, o) else holdOp s o .drive
  | c :: r, s, o =>
    let k := c.bytes
    let y := getDrive s o.drive
    if (getDom s (151 + o.drive)).present ≠ .on ∨ y.state ≠ .usable ∨ !y.enable then
      let (s, o) := holdOp s o .drive
      (if y.enable then startWake s (151 + o.drive) else s, o)
    else if o.page.isSome ∧ o.bytes = o.size ∧ heldBytes s (ownerOf o.owner) + o.size > stagingBytes s (ownerOf o.owner) then holdOp s o .none
    else if !shareOk s (flashCap s) (fun p => (getPart s p).flashCeil) s.flash.used (flashWaiting s) o.owner (linkNs k) then holdOp s o .share
    else if o.write ∧ y.bucket < k then holdOp s o .wear
    else
      let s := if o.write then modDrive s o.drive fun y => { y with bucket := y.bucket - k } else s
      let s := { s with flash := { s.flash with used := assign s.flash.used o.owner (usedOf s.flash.used o.owner + linkNs k) } }
      let s := sendChunk s o c
      let s := if r.isEmpty ∧ o.write then o.spaces.foldl (fun s m => { s with out := .nvmeFlush o.drive m :: s.out }) s else s
      pushChunks r s { o with chunks := r }

/-- Every flash operation goes on as far as it can, in the order in which they began. -/
def pushFlash (s : State) : State :=
  (List.range s.flash.ops.length).foldl (fun s k => match s.flash.ops[k]? with
    | some o =>
      let (s, o) := pushChunks o.chunks s o
      { s with flash := { s.flash with ops := s.flash.ops.set k o } }
    | none => s) s

/-- The parts of an operation of a descriptor, one for each drive that its commands go to. -/
def opParts (s : State) (d : Desc) (object page : Option Nat) (deadline : Nat) (write spill : Bool) (cs : List (Nat × FlashChunk)) : List FlashOp :=
  ((List.range 8).map fun k => (k, (cs.filter fun x => x.1 == k).map (·.2))).filterMap fun (x : Nat × List FlashChunk) =>
    if x.2.isEmpty then none
    else some { ctx := d.ctx, index := d.index, owner := d.owner.idx, object := object, page := page, write := write, deadline := deadline, spill := spill, drive := x.1
                chunks := x.2, size := (x.2.map FlashChunk.bytes).sum, spaces := (x.2.map (·.ns)).eraseDups, since := s.time }

/-- Adds an operation of a descriptor. -/
def addOps (s : State) (d : Desc) (object page : Option Nat) (deadline : Nat) (write : Bool) (cs : List (Nat × FlashChunk)) : State :=
  pushFlash { s with flash := { s.flash with ops := s.flash.ops ++ opParts s d object page deadline write false cs } }

/-- Adds the write of a spilled page (R395), which its PLACE waits for at its commit. -/
def addSpill (s : State) (d : Desc) (cs : List (Nat × FlashChunk)) : State :=
  pushFlash { s with flash := { s.flash with ops := s.flash.ops ++ opParts s d none none (2 ^ 64) true true cs } }

/-- TIER_US and DEADLINE_MS of a descriptor's owner at its dispatch, in ns (R393, R389, R554). -/
def tierNs (d : Desc) : Nat :=
  let v := fld d.defaults 31 16
  1000 * (if v = 0 then 2000 else v)
def deadlineNs (d : Desc) (field : Nat) : Nat :=
  let v := fld d.defaults 63 40
  1000000 * (if field ≠ 0 then field else if v = 0 then 10000 else v)

/-- The read of a spilled page on the tier path, with its entry in the slot table (R396). -/
def tierOp (s : State) (d : Desc) (p k slot : Nat) : State :=
  let x := lookup? (getFlash s p).spill slot
  addOps s d none (some k) (s.time + tierNs d) false (slotPieces s p slot ((x.map (·.gen)).getD 0) ((x.map (·.bytes.length)).getD 0) [] [])

def satAdd (bits n k : Nat) : Nat := min (n + k) (2 ^ bits - 1)

/-- Changes the counters of an object record (R387). -/
def modStats (s : State) (p id : Nat) (f : ObjStats → ObjStats) : State :=
  modFlash s p fun y => { y with stats := assign y.stats id (f ((lookup? y.stats id).getD {})) }

/-- Adds what held an operation to its object's record: µs waited for share and for wear (R387, R392). -/
def billWaits (s : State) (p : Nat) (o : FlashOp) : State :=
  match o.object with
  | none => s
  | some id => modStats s p id fun x => { x with waitShare := satAdd 32 x.waitShare (o.heldShare / 1000), waitWear := satAdd 32 x.waitWear (o.heldWear / 1000) }

/-- Adds µs that commands of an operation took beyond 200 to its drive's counter, and to its object's record (R387, R392, R567). -/
def billDrive (s : State) (p : Nat) (o : FlashOp) (us : Nat) : State :=
  let s := modDrive s o.drive fun y => { y with waitDrive := sat64 y.waitDrive (us - 200) }
  match o.object with
  | none => s
  | some id => modStats s p id fun y => { y with waitDrive := satAdd 32 y.waitDrive (us - 200) }

/-- What has held the work of a descriptor that its drives have not answered is counted when it ends without success (R392). -/
def billStopped (s : State) (p : Nat) (d : Desc) : State :=
  (opsFor s d).foldl (fun s o =>
    if o.answered then s
    else
      let (s, o) := holdOp s o o.wait
      billWaits s p o) s

/-- The causes that held operations longest (R393): 2 flash share, 3 wear governor, 4 drive commands. -/
def longest (os : List FlashOp) : List Nat :=
  let a := (os.map (·.heldShare)).sum
  let b := (os.map (·.heldWear)).sum
  let c := (os.map (·.heldDrive)).sum
  let m := max a (max b c)
  (if a = m then [2] else []) ++ (if b = m then [3] else []) ++ (if c = m then [4] else [])

/-- Ends the operation in hand of a descriptor without success, with nothing of it staged: a program goes on at its next step, any other descriptor commits. -/
def failStep (s : State) (d : Desc) (st det : Nat) : State :=
  if d.prog.isSome then
    let s := removeOps s d fun o => !o.spill
    let s := match d.owner with
      | .part p => (d.blocks.take (d.blocks.length - d.blocksBase)).foldl (fun s b => freeBlocks s p b) s
      | .fm => s
    let s := d.pages.foldl (fun s w => match w.frame with
      | some f => if w.pinned then unpinFrame s f else s
      | none => s) s
    putDesc s { d.finish st det with output := none, pendingObj := none, effects := d.effects.take d.stepBase, pages := []
                                     blocks := d.blocks.drop (d.blocks.length - d.blocksBase) }
  else stopDesc s d st det

end Sys2Proof
end

