-- ==== Sys2Proof/Machine/Power.lean ====
section
/-!
DEFINITION. Modes, Peak, POWER_STATE, the Damper, the clamps and the domains (R26 to R32, R486 to R506).
-/
namespace Sys2Proof

open Machine (State Fault Refusal)

/-! ### Readings and limits -/

/-- The compute level in force: the lowest of the Damper's, the heat's and the 50 % hold's (R462, R495, R502). -/
def computeLevel (s : State) : Nat := min (min s.power.level s.power.heatLevel) (if s.power.hold50 then 50 else 100)

/-- The sustained figure of a mode in W (R26). -/
def sustained (m : Mode) : Nat := (modeCaps m).2.2.2

/-- The ceiling of a mode with a BUDGET (R494). -/
def modeCeiling (m : Mode) (budget : Nat) : Nat := if budget = 0 then sustained m else min budget (sustained m)

/-- The active ceiling in W (R30, R494): 2,100 W in Peak, else the lowest of the present one and those of the changes under way. -/
def ceiling (s : State) : Nat :=
  if s.power.peak.isSome then 2100
  else s.power.changes.foldl (fun a c => min a (modeCeiling c.mode c.budget)) (modeCeiling s.power.mode s.power.budget)

/-- Fused limits (R500, R543): input current in mA, junction and HBM temperature in quarter degrees. -/
def limitMilliA (s : State) : Nat := 1000 * fld s.boot.fuses.limits 7 0
def limitDie (s : State) : Int := 4 * fld s.boot.fuses.limits 15 8
def limitHbm (s : State) : Int := 4 * fld s.boot.fuses.limits 23 16

/-- The sensors of stacks that are fitted, in the order of R572. -/
def stackTemps (s : State) : List Int := ((List.range 20).filter (stackFitted s)).map fun k => s.power.temps.getD (5 + k) 0

/-- Whether a Damper counter's cause lowers a level now (R506), by counter number. -/
def lowered (s : State) (k : Nat) : Bool :=
  if k = 0 then decide (s.power.level < 100) && !s.power.clamped
  else if k = 1 then s.power.clamped
  else if k = 2 then decide (s.power.heatLevel < 100)
  else if k < 23 then decide (s.power.stackLevel.getD (k - 3) 100 < 100) || s.power.stackPaused.getD (k - 3) false
  else k == 23 && s.power.hold50

/-- Peak ends at a time, and the 10 s of R32 begin there (R499). -/
def endPeak (s : State) (at_ : Nat) : State := { s with power := { s.power with peak := none, cooldownEnd := at_ + 10000000000 } }

/-- Peak ends at the time when its MS have elapsed (R499), whichever command meets that time first. -/
def expirePeak (s : State) : State :=
  match s.power.peak with
  | some (_, e) => if e ≤ s.time then endPeak s e else s
  | none => s

/-- Time moves on: the nanoseconds since the last such step are counted for each cause that lowers a level (R506), and a Peak whose time is over ends (R499). -/
def powerAt (s : State) (t : Nat) : State :=
  let s := atTime s t
  let n := s.time - s.power.accrued
  expirePeak { s with power := { s.power with accrued := s.time, counters := s.power.counters.mapIdx fun k v => if lowered s k then sat64 v n else v } }

/-- Whether telemetry is frozen (R441). -/
def frozen (s : State) : Bool := s.parts.any fun p => p.state == .scrubbing

/-- A value in steps (R435). -/
def inSteps (n : Nat) (v : Int) : Int := v / n * n

/-- Whether the die or stack of a sensor is fitted (R572). -/
def sensorFitted (s : State) (k : Nat) : Bool :=
  if k = 0 then true else if k ≤ 4 then decide (k ≤ hubCount s) else if k ≤ 24 then stackFitted s (k - 5) else if k ≤ 26 then portDieFitted s (k - 25) else decide (k = 27)

/-- TELEMETRY_SAMPLE (R435, R441, R505): every 100 ms the coarse values follow the readings, unless telemetry is frozen. -/
def sampleCoarse (s : State) : State :=
  if frozen s ∨ s.time < s.power.coarseTime + 100000000 then s
  else { s with power := { s.power with coarseW := s.power.watts / 50 * 50, coarseTemps := s.power.temps.map (inSteps 20)
                                        coarseLevel := computeLevel s / 10 * 10, coarseStep := s.snare.step, coarseTime := s.time } }

/-- The hottest coarse temperature of a die or stack in °C (R435, R586). -/
def hottest (s : State) : Int :=
  let ts := ((List.range 28).filter (sensorFitted s)).map fun k => s.power.coarseTemps.getD k 0
  (ts.foldl max (ts.headD 0)) / 4

/-- Takes readings of sensors. -/
def takeReadings (s : State) (rs : List Reading) : State :=
  { s with power := { s.power with temps := rs.foldl (fun a r => a.set r.sensor r.quarterDeg) s.power.temps } }

/-- The conditions of warm steady state as the last readings stand (R497). -/
def warmNow (s : State) (coolantOk : Bool) : Bool :=
  decide (s.power.watts ≤ sustained s.power.mode) && decide (s.power.heatLevel = 100) && s.power.stackLevel.all (· == 100)
    && s.power.stackPaused.all (· == false) && decide (s.power.temps.getD 0 0 ≤ 380) && (stackTemps s).all (fun q => decide (q ≤ 340)) && coolantOk

/-- Whether the Damper's processor acts (R458, R462). -/
def damperUp (s : State) : Bool := s.timeOn && !procAway s 1 && !(s.fw.procs.getD 1 {}).fenced

/-- DAMPER_TICK (R494, R497, R501, R505): takes the readings, publishes telemetry, and sets the target level: below the present one while the ceiling or 51 A is
passed, else not below it. How far is not given: a free value (log entry 2). -/
def Machine.execDamperTick (inp : DamperInputs) (t : Nat) (s : State) : Answer :=
  if !damperUp s then .next s
  else
    let s := takeReadings (powerAt s t) inp.temps
    let s := { s with power := { s.power with watts := inp.inputW, milliA := inp.inputMilliA } }
    let s := if warmNow s inp.coolantOk then s else { s with power := { s.power with warmSince := s.time + 1 } }
    let (v, s) := draw s
    let l := s.power.level
    let target := if inp.inputW > ceiling s ∨ inp.inputMilliA > 51000 then v % max 1 l else l + v % (101 - l)
    .next (sampleCoarse { s with power := { s.power with target := target } })

/-- Whether the Damper may raise the level now (R501): below 50 A after a clamp, at or below 51 A otherwise. -/
def mayRaise (s : State) : Bool := if s.power.clamped then decide (s.power.milliA < 50000) else decide (s.power.milliA ≤ 51000)

/-- LEVEL_STEP (R495, R501): every 50 µs the level moves by 1 % toward its target; a clamp is over when the level has reached it. -/
def Machine.execLevelStep (t : Nat) (s : State) : Answer :=
  if !damperUp s ∨ t < s.power.lastStep + 50000 then .next s
  else
    let s := powerAt s t
    let x := s.power
    let l := if x.target < x.level then x.level - 1 else if x.level < x.target ∧ x.level < 100 ∧ mayRaise s then x.level + 1 else x.level
    let ended := decide (l = x.target) && decide (x.milliA < 50000)
    let s := { s with power := { x with level := l, lastStep := s.time, clamped := x.clamped && !ended } }
    .next (if ended ∧ x.clamped then setAlert s 2 false else s)

/-- CURRENT_CLAMP (R501): an input current above the fused limit halves the compute level. -/
def Machine.execCurrentClamp (milliA : Nat) (t : Nat) (s : State) : Answer :=
  if !s.timeOn ∨ milliA ≤ limitMilliA s ∨ s.boot.phase = .faulted then .next s
  else
    let s := powerAt s t
    .next (setAlert { s with power := { s.power with level := computeLevel s / 2, clamped := true, milliA := milliA } } 2 true)

/-- One thermal step of a level (R502): down from the clamp start on, up again from 3 °C below it. -/
def heatStep (q start : Int) (l : Nat) : Nat := if start ≤ q then l - 1 else if q ≤ start - 12 then min 100 (l + 1) else l

/-- THERMAL_CLAMP_STEP (R497, R502, R586): each 50 µs the level or the issue of a sensor's unit follows its temperature; passing the fused limit of the attention die
halves the level at once. Sensors without a row in R502 only read. -/
def Machine.execThermalClampStep (r : Reading) (t : Nat) (s : State) : Answer :=
  if !s.timeOn ∨ s.boot.phase = .faulted ∨ r.sensor ≥ 28 then .next s
  else
    let old := s.power.temps.getD r.sensor 0
    let s := takeReadings (powerAt s t) [r]
    let due := decide (s.power.heatStep.getD r.sensor 0 + 50000 ≤ s.time)
    let mark := fun (s : State) => { s with power := { s.power with heatStep := s.power.heatStep.set r.sensor s.time } }
    if r.sensor = 0 then
      let s := setAlert s 0 (decide (400 ≤ r.quarterDeg))
      let s := if 380 < r.quarterDeg then { s with power := { s.power with warmSince := s.time + 1 } } else s
      if limitDie s ≤ r.quarterDeg ∧ old < limitDie s then .next (mark { s with power := { s.power with heatLevel := computeLevel s / 2 } })
      else if due then .next (mark { s with power := { s.power with heatLevel := heatStep r.quarterDeg 400 s.power.heatLevel } })
      else .next s
    else if 5 ≤ r.sensor ∧ r.sensor < 25 ∧ stackFitted s (r.sensor - 5) then
      let k := r.sensor - 5
      let s := setAlert s 1 ((stackTemps s).any fun q => decide (360 ≤ q))
      let s := if 340 < r.quarterDeg then { s with power := { s.power with warmSince := s.time + 1 } } else s
      let paused := if limitHbm s ≤ r.quarterDeg then true else if r.quarterDeg ≤ 372 then false else s.power.stackPaused.getD k false
      let resumed := s.power.stackPaused.getD k false && !paused
      let s := { s with power := { s.power with stackPaused := s.power.stackPaused.set k paused } }
      -- the requests of hosts that waited for the stack are served
      let s := if resumed then releaseAll s else s
      if due then .next (mark { s with power := { s.power with stackLevel := s.power.stackLevel.modify k (heatStep r.quarterDeg 360) } })
      else .next s
    else .next s

/-- THERMAL_TRIP (R502, R519): a sensor at its trip temperature ends the node's service and removes power. -/
def Machine.execThermalTrip (r : Reading) (s : State) : Answer :=
  let trips := (r.sensor = 0 ∧ 440 ≤ r.quarterDeg) ∨ (5 ≤ r.sensor ∧ r.sensor < 25 ∧ stackFitted s (r.sensor - 5) ∧ 400 ≤ r.quarterDeg)
  if !s.timeOn ∨ s.boot.phase = .faulted ∨ ¬trips then .next s
  else
    let s := takeReadings s [r]
    let s := enterFault s 0x0D false (BitVec.ofNat 64 r.sensor)
    .next { s with power := { s.power with tripped := true }, boot := { s.boot with tripped := true } }

/-- HUB_TEMP_READ (R33, R115, R503): the hub's stacks take the refresh interval of their temperatures. -/
def Machine.execHubTempRead (hub : Nat) (temps : List Int) (s : State) : Answer :=
  if !s.timeOn ∨ hub ≥ hubCount s ∨ temps.length ≠ 5 then .next s
  else .next ((List.range 5).foldl (fun s j =>
    let k := 5 * hub + j
    let q := temps.getD j 0
    { s with power := { s.power with temps := s.power.temps.set (5 + k) q, fastRefresh := s.power.fastRefresh.set k (decide (340 < q))
                                     warmSince := if stackFitted s k ∧ 340 < q then s.time + 1 else s.power.warmSince } }) s)

/-! ### Modes (R29 to R31, R496) -/

/-- Refuses an operation of the fabric manager that a partition's ring asks for (R67); its DETAIL is stated nowhere and is a free value. -/
def notManager (s : State) (d : Desc) : State :=
  let (v, s) := draw s
  putDesc s (d.finish stNotOwner (v % 2 ^ 15))

/-- Refuses a body whose reserved bits or LEN are not zero (R10), with a free DETAIL. -/
def reservedBreach (s : State) (d : Desc) : State :=
  let (v, s) := draw s
  putDesc s (d.finish stMalformed (v % 2 ^ 15))

/-- The mode of a SET_MODE code (R496). -/
def modeOf (k : Nat) : Mode := if k = 0 then .balanced else if k = 1 then .sweep else if k = 2 then .exact else .absorb

/-- SET_MODE (R29, R30, R494, R496): the change begins, with its commit latch taken; until it is done each cap is the lower of old and new. -/
def Machine.execSetMode (q : Nat) (i : BitVec 32) (s : State) : Answer :=
  match stationDesc s q i 0x0C 0x10 with
  | none => .next s
  | some d =>
    let b := fld (d.w 2) 31 16
    let m := modeOf (fld (d.w 2) 1 0)
    if d.owner ≠ .fm then .next (notManager s d)
    else if d.len ≠ 0 ∨ !bodyOk d.cur [maskOf 31 16 ||| maskOf 1 0] then .next (reservedBreach s d)
    else if b ≠ 0 ∧ (b < 600 ∨ b > sustained m) then .next (putDesc s (d.finish stMalformed 1))
    else
      let s := putDesc s { d with phase := .running, latched := true }
      .next { s with power := { s.power with changes := s.power.changes ++ [{ ctx := q, index := i, mode := m, budget := b, time := s.time }] } }

/-- MODE_CAPS_APPLIED (R30, R31): the new caps hold and the SET_MODE completes, after every earlier one of its ring. -/
def Machine.execModeCapsApplied (q : Nat) (i : BitVec 32) (t : Nat) (s : State) : Answer :=
  let isMode := fun (d : Desc) => d.ctx == q && d.opcode == 0x0C && d.subop == 0x10 && d.phase != .finished
  let before := (s.flight.takeWhile fun d => !(d.ctx == q && d.index == i)).any isMode
  match s.power.changes.find? fun c => c.ctx == q && c.index == i, findDesc s q i with
  | some c, some d =>
    if before ∨ procAway s 1 then .next s
    else
      let s := powerAt s t
      let s := { s with power := { s.power with mode := c.mode, budget := c.budget, changes := s.power.changes.filter fun x => !(x.ctx == q && x.index == i) } }
      .next (endNow s d stDone 0)
  | _, _ => .next s

/-! ### Peak (R32, R497 to R499) -/

/-- Whether the node is in warm steady state (R497). -/
def warm (s : State) : Bool := decide (s.power.warmSince + 10000000000 ≤ s.time)

/-- Nanoseconds as milliseconds, a part counting as one. -/
def msUp (ns : Nat) : Nat := ceilDiv ns 1000000

/-- Whether a PEAK's body is legal: its masks, MS and LEN; none when it is, else the state in which it is refused. -/
def peakRefused (s : State) (d : Desc) : Option State :=
  if d.owner ≠ .fm then some (notManager s d)
  else if d.len ≠ 0 ∨ !bodyOk d.cur [maskOf 26 16 ||| maskOf 0 0] then some (reservedBreach s d)
  else if fld (d.w 2) 26 16 > 2000 then some (putDesc s (d.finish stMalformed 1))
  else none

/-- PEAK_ENTER (R32, R497, R498). -/
def Machine.execPeakEnter (q : Nat) (i : BitVec 32) (t : Nat) (s : State) : Answer :=
  match stationDesc s q i 0x0C 0x11 with
  | none => .next s
  | some d =>
    if bit (d.w 2) 0 ∨ procAway s 1 then .next s
    else match peakRefused s d with
    | some s' => .next s'
    | none =>
      let s := powerAt s t
      let ms := if fld (d.w 2) 26 16 = 0 then 2000 else fld (d.w 2) 26 16
      match s.power.peak with
      | some (_, e) => .next (endNow (countPower s 25 1) d stDegraded 3 (some (msUp (e - s.time))))
      | none =>
        if s.time < s.power.cooldownEnd then .next (endNow (countPower s 25 1) d stDegraded 1 (some (msUp (s.power.cooldownEnd - s.time))))
        else if !warm s then .next (endNow (countPower s 25 1) d stDegraded 2 (some 0))
        else
          let s := { s with power := { s.power with peak := some (s.time, s.time + 1000000 * ms) } }
          .next (endNow (countPower s 24 1) d stDone 0 (some ms))

/-- PEAK_END (R498, R499). -/
def Machine.execPeakEnd (q : Nat) (i : BitVec 32) (t : Nat) (s : State) : Answer :=
  match stationDesc s q i 0x0C 0x11 with
  | none => .next s
  | some d =>
    if !bit (d.w 2) 0 ∨ procAway s 1 then .next s
    else match peakRefused s d with
    | some s' => .next s'
    | none =>
      let s := powerAt s t
      match s.power.peak with
      | some (b, _) => .next (endNow (endPeak s s.time) d stDone 0 (some (msUp (s.time - b))))
      | none => .next (endNow s d stDone 0 (some 0))

/-- PEAK_EXPIRE (R499). -/
def Machine.execPeakExpire (t : Nat) (s : State) : Answer :=
  match s.power.peak with
  | some (_, e) => if e ≤ t then .next (powerAt s t) else .next s
  | none => .next s

/-! ### POWER_STATE and the domains (R486 to R493) -/

/-- Whether a domain has work in progress (R488). -/
def domWork (s : State) (d : Nat) : Bool :=
  let k := domKind d
  if k = 3 then (List.range 64).any fun c => s.coreMap.getD c 0xFF == d - 4 && (coreQueue s c != 0 || resident s (d - 4) != 0)
  else if k = 5 ∨ k = 6 then
    let st := if k = 5 then d - 84 else d - 104
    s.units.any fun u => u.1 / 512 == st && u.2.chunk.isSome
  else if k = 9 then s.flash.ops.any fun o => o.drive == d - 151 && o.wait == .drive && o.bytes == 0 && !o.answered
  else if k = 2 then s.flight.any fun x => x.opcode == 0x05 && x.phase == .running
  else false

/-- Whether work holds a domain awake: it is in use, or it had work less than 100 µs ago (R488). -/
def heldAwake (s : State) (d : Nat) : Bool :=
  domWork s d || (decide ((getDom s d).lastWork ≠ 0) && decide (s.time < (getDom s d).lastWork + 100000))

/-- A port goes OFF: its links are down and stay so until the port is ON and they are enabled again (R488, R340). -/
def portOff (s : State) (port : Nat) : State :=
  (List.range 4).foldl (fun s k =>
    if (getLink s port k).phyUp ∨ (getLink s port k).enabled then
      let s' := match Machine.execPhyDown port k s.time s with
        | .next x => x
        | _ => s
      loseLink s' (modLink s' port k fun l => { l with enabled := false }) port k
    else s) s

/-- A domain takes a state (R487, R488): what a port and a root port do with it. -/
def enterState (s : State) (d : Nat) (x : DomState) : State :=
  let s := if domKind d = 8 ∧ x = .off then portOff s (d - 142) else s
  let s := if domKind d = 9 ∧ x = .off ∧ (s.flash.drives.getD (d - 151) {}).state ≠ .absent ∧ (s.flash.drives.getD (d - 151) {}).state ≠ .failed
    then { s with flash := { s.flash with drives := s.flash.drives.modify (d - 151) fun y => { y with state := .off } } } else s
  modDom s d fun y => { y with present := x, wake := none }

/-- The states that the RETENTION preset commands (R492). -/
def retentionState (s : State) (d : Nat) : DomState :=
  let keep := (List.range 8).find? fun p => (List.range 4).any fun k => linkExists s p k && (getLink s p k).adjacent
  match domKind d with
  | 2 => .retain
  | 4 => .retain
  | 5 => .retain
  | 3 => .off
  | 6 => .off
  | 9 => .off
  | 7 => if d = 124 then .on else .idle
  | 8 => if keep = some (d - 142) then .on else .off
  | _ => .on

/-- The domains and states that a POWER_STATE names (R490, R492); domains of missing dies are not named by a preset. -/
def powerNamed (s : State) (d : Desc) : List (Nat × DomState) :=
  let st := fld (d.w 2) 17 16
  let code : DomState := if st = 0 then .on else if st = 1 then .idle else if st = 2 then .retain else .off
  let all := (List.range 159).filter (domFitted s)
  match fld (d.w 2) 23 20 with
  | 0 => (List.range (fld (d.w 2) 15 8 + 1)).map fun k => (fld (d.w 2) 7 0 + k, code)
  | 1 => all.map fun k => (k, retentionState s k)
  | _ => all.map fun k => (k, .on)

/-- Whether an owner may command a domain (R491). -/
def mayCommand (s : State) (o : Owner) (d : Nat) : Bool :=
  match o with
  | .fm => true
  | .part p =>
    ((domKind d == 3) && (ownerCores s o).any fun c => s.coreMap.getD c 0xFF == d - 4)
      || ((domKind d == 5 || domKind d == 6) && (List.range 32).all fun k => (getPart s p).ownsPch (32 * (if domKind d = 5 then d - 84 else d - 104) + k))

/-- POWER_STATE (R488 to R493): commands the domains named. A domain that work holds awake, or that is fenced, is counted apart. It waits while a core that is to go
OFF finishes its pieces and while a domain that is to be ON wakes. -/
def Machine.execPowerState (q : Nat) (i : BitVec 32) (s : State) : Answer :=
  match stationDesc s q i 0x0C 0x12 with
  | none => .next s
  | some d =>
    let named := powerNamed s d
    let preset := fld (d.w 2) 23 20
    if d.len ≠ 0 ∨ !bodyOk d.cur [maskOf 23 20 ||| maskOf 17 0] ∨ preset > 2 ∨ (preset ≠ 0 ∧ fld (d.w 2) 17 0 ≠ 0) then .next (reservedBreach s d)
    else if preset = 0 ∧ (named.any fun x => !domFitted s x.1 || !domTakes x.1 x.2) then .next (putDesc s (d.finish stMalformed 1))
    else if (preset ≠ 0 ∧ d.owner ≠ .fm) ∨ (named.any fun x => !mayCommand s d.owner x.1) then .next (putDesc s (d.finish stNotOwner 3))
    else
      let live := named.filter fun x => !domFenced s x.1
      let finishing := live.any fun x => domKind x.1 == 3 && x.2 == .off && domWork s x.1
      let toWake := live.filter fun x => x.2 == .on && (getDom s x.1).present != .on
      if finishing then .next s
      else if !toWake.isEmpty then
        .next (toWake.foldl (fun s x => if (getDom s x.1).wake.isSome then s
          else modDom s x.1 fun y => { y with wake := some (s.time + wakeNs x.1 y.present) }) s)
      else
        let held := live.filter fun x => x.2 != .on && (getDom s x.1).present == .on && heldAwake s x.1
        let s := live.foldl (fun s x => modDom s x.1 fun y => { y with commanded := x.2 }) s
        let go := live.filter fun x => !(held.any fun y => y.1 == x.1)
        let s := go.foldl (fun s x => if (getDom s x.1).present = x.2 then s else enterState s x.1 x.2) s
        .next (endNow s d stDone 0 (some go.length) (some (named.length - go.length)))

/-- DOMAIN_WAKE_DONE (R487, R488): the domain is ON; a root port's drive is to be identified again. -/
def Machine.execDomainWakeDone (d : Nat) (t : Nat) (s : State) : Answer :=
  match (getDom s d).wake with
  | none => .next s
  | some w =>
    if t < w ∨ domFenced s d then .next s
    else
      let s := atTime s t
      let s := if domKind d = 9 ∧ (s.flash.drives.getD (d - 151) {}).state = .off
        then { s with flash := { s.flash with drives := s.flash.drives.modify (d - 151) fun y => { y with state := .identifying } } } else s
      .next (pushFlash (releaseAll (modDom s d fun y => { y with present := .on, wake := none, lastWork := s.time })))

/-- DOMAIN_IDLE_RETURN (R488): a domain without work for 100 µs returns to its commanded state. -/
def Machine.execDomainIdleReturn (d : Nat) (t : Nat) (s : State) : Answer :=
  let x := getDom s d
  if x.commanded = .on ∨ x.present ≠ .on ∨ t < x.lastWork + 100000 ∨ domWork s d then .next s
  else .next (enterState (atTime s t) d x.commanded)

end Sys2Proof
end

