-- ==== Sys2Proof/Machine/CxlRegs.lean ====
section
/-!
DEFINITION. What the functions of the CXL attachment show of themselves (R350 to R354, R358, R364, R550, R552): the CDAT and its DOE, configuration space, HDM decoders, and the
component and memory device registers. Layouts that the CXL 2.0 and PCIe specifications give and this spec only names are PRESUMED (log entry 45).
-/
namespace Sys2Proof

open Machine (State Fault Refusal)

/-! ### CDAT (R364) -/

/-- The runs of slots that the CDAT of an LD describes (R364): first slot, number of slots, extent kind and host access mode, each run as long as it can be. -/
def cdatRuns (s : State) (p : Nat) : List (Nat × Nat × ExtKind × WinMode) :=
  let slots := (List.range 2048).filterMap fun k =>
    if winMode s p k = .none then none else (slotExt s p k).map fun e => (k, (getExt s e).kind, winMode s p k)
  slots.foldr (fun x runs => match runs with
    | (first, n, kind, mode) :: more => if first = x.1 + 1 ∧ kind = x.2.1 ∧ mode = x.2.2 then (x.1, n + 1, kind, mode) :: more else (x.1, 1, x.2) :: runs
    | [] => [(x.1, 1, x.2)]) []

/-- An entry of the CDAT for a run (R364): its memory range, and its read latency and read bandwidth, whose figures the spec does not give. -/
def dsmasBytes (k : Nat) (r : Nat × Nat × ExtKind × WinMode) : List Byte :=
  leBytes 2 0 ++ leBytes 2 24 ++ leBytes 4 k ++ leBytes 8 (r.1 * 2 ^ 28) ++ leBytes 8 (r.2.1 * 2 ^ 28)
def dslbisBytes (k : Nat) (bandwidth : Bool) (unit : Nat) (v : BitVec 16) : List Byte :=
  leBytes 2 1 ++ leBytes 2 24 ++ leBytes 1 k ++ leBytes 1 0 ++ leBytes 1 (if bandwidth then 4 else 1) ++ leBytes 1 0 ++ leBytes 8 unit ++ leBytes 2 v.toNat ++ leBytes 6 0

/-- The entries of an LD's CDAT (R364): for each run a DSMAS entry and two DSLBIS entries. -/
def cdatEntries (s : State) (p : Nat) : List (List Byte) :=
  ((cdatRuns s p).mapIdx fun k r => [dsmasBytes k r, dslbisBytes k false 1000 (Config.cdatFigure p k false), dslbisBytes k true 1024 (Config.cdatFigure p k true)]).flatten

/-- The CDAT of an LD, header first, as its entries are read by number. -/
def cdatTable (s : State) (p : Nat) : List (List Byte) :=
  let es := cdatEntries s p
  let head := fun (sum : Nat) => leBytes 4 (16 + (es.map List.length).sum) ++ leBytes 1 1 ++ leBytes 1 sum ++ leBytes 6 0 ++ leBytes 4 (getLd s p).cdatBuilds
  let total := (((head 0) ++ es.flatten).map BitVec.toNat).sum
  head ((256 - total % 256) % 256) :: es

/-- The answer of a DOE to a request in dwords: discovery, or the entry of the CDAT that a read names, with the number of the next. -/
def doeAnswer (s : State) (p : Nat) (req : List Nat) : Option (List Nat) :=
  let words := fun (bs : List Byte) => (List.range (ceilDiv bs.length 4)).map fun k => ofLe (slice bs (4 * k) 4)
  match req with
  | [1, 3, n] => some ([1, 3] ++ [if n = 0 then 1 + 2 ^ 24 else 0x1E98 + 2 * 2 ^ 16])
  | [0x21E98, 3, n] =>
    let table := cdatTable s p
    match table[n / 2 ^ 16]? with
    | some e => if n % 2 ^ 16 = 0 then some ([0x21E98, 3 + e.length / 4, (if n / 2 ^ 16 + 1 < table.length then n / 2 ^ 16 + 1 else 0xFFFF) * 2 ^ 16] ++ words e) else none
    | none => none
  | _ => none

/-! ### Configuration space (R354, R441, R532) -/

/-- Whether a function is presented (R353). -/
def presented (s : State) (o : Owner) : Bool := !s.cxl.direct || o == .part 0

/-- Identity words of a function (R354). -/
def configId (s : State) (o : Owner) (reg : Nat) : Option Nat :=
  let dev := if s.cxl.direct then 0x4C48 else if o = .fm then 0x4C47 else 0x4C46
  if reg = 0 then some (dev * 65536 + 0x1E5F) else none

/-- The size of a BAR that a function has, by its number (R354, R550). -/
def barSize (s : State) (o : Owner) (n : Nat) : Option Nat :=
  match n with
  | 0 => if s.cxl.direct ∨ o = .fm then some (2 ^ 20) else none
  | 2 => if o = .fm then none else some (2 ^ 16)
  | 4 => some (2 ^ 13)
  | _ => none

/-- What a BAR's dword reads of what was written to it (R550): the address above the BAR's size, with the marks of a 64-bit, non-prefetchable memory BAR; nothing of one
that the function does not have. -/
def barDword (s : State) (o : Owner) (reg v : Nat) : Nat :=
  match barSize s o ((reg - 4) / 2 * 2) with
  | none => 0
  | some n => if reg % 2 = 0 then v % 2 ^ 32 / n * n + 4 else v % 2 ^ 32

/-- Dwords of the extended capabilities that R350 names, by the layouts of the CXL 2.0 and PCIe specifications, and in their order here: the CXL DVSEC for devices, the
Register Locator DVSEC, and the Table Access DOE of an LD. Their places and layouts the spec does not give: PRESUMED (log entry 45). -/
def capabilityDword (s : State) (o : Owner) (reg held : Nat) : Option Nat :=
  let doe := match o with
    | .part p => some (getLd s p).doe
    | .fm => none
  match reg with
  | 64 => some (0x0023 + 2 ^ 16 + 0x140 * 2 ^ 20)
  | 65 => some (0x1E98 + 2 ^ 16 + 0x38 * 2 ^ 20)
  -- capability: CXL.io, CXL.mem, hardware initialisation, one HDM range; an LD of a multi-logical device
  | 66 => some ((2 + 4 + 8 + 16 + 2 ^ 13 * b2n (!s.cxl.direct)) * 2 ^ 16)
  -- control as written; status
  | 67 => some (held % 2 ^ 16)
  | 80 => some (0x0023 + 2 ^ 16 + (if doe.isSome then 0x170 else 0) * 2 ^ 20)
  | 81 => some (0x1E98 + 0x24 * 2 ^ 20)
  | 82 => some 8
  | 92 => doe.map fun _ => 0x002E + 2 ^ 16
  | 93 => doe.map fun _ => 0
  | 94 => doe.map fun _ => held % 4
  | 95 => doe.map fun x => 4 * b2n x.failed + 2 ^ 31 * b2n (!x.answer.isEmpty)
  | 96 => doe.map fun _ => 0
  | 97 => doe.map fun x => x.answer.headD 0
  | _ => none

/-- What a write to the Table Access DOE does (R350, R364): the write mailbox takes a dword, GO hands the request over, an abort drops it, and a write of the read mailbox
takes the next dword of the answer. -/
def writeDoe (s : State) (p reg v : Nat) : State :=
  modLd s p fun l => match reg with
    | 94 => if v % 2 = 1 then { l with doe := {} }
        else if v / 2 ^ 31 % 2 = 1 then (match doeAnswer s p l.doe.request with
          | some a => { l with doe := { request := [], answer := a, failed := false } }
          | none => { l with doe := { request := [], answer := [], failed := true } })
        else l
    | 96 => { l with doe := { l.doe with request := l.doe.request ++ [v] } }
    | 97 => { l with doe := { l.doe with answer := l.doe.answer.drop 1 } }
    | _ => l

/-- Function Mask of MSI-X Message Control (R483): bit 30 of its dword by the PCIe layout; messages left pending go at unmask. -/
def maskFunction (s : State) (o : Owner) (on : Bool) : State :=
  let s := modOwner s o fun x => { x with funcMask := on }
  if on then s else (List.range 64).foldl (fun s v => sendPending s o v) s

/-- CONFIG_REQUEST (R350, R354, R364, R441, R532, R550): retry status during a start and a scrub; else the write is kept, or the register is read: identity, BARs and the
capabilities of R350 by their layout, others as written. One that the spec does not give and that nothing has written reads as a free value. -/
def Machine.execConfigRequest (o : Owner) (reg : Nat) (wr : Option Word) (s : State) : Answer :=
  let ready := [StartPhase.processorsUp, .hbmTrained, .cleared, .active].contains s.boot.phase
  if !s.cxl.linkUp ∨ !presented s o then .next s
  else if !ready ∨ scrubbing s o then .next (emit s (.config o reg none))
  else
    let held := match o with
      | .part p => (getLd s p).config
      | .fm => s.cxl.fmConfig
    match wr with
    | some v =>
      let v := v &&& maskOf 31 0
      let s := match o with
        | .part p => modLd s p fun l => { l with config := assign l.config reg v }
        | .fm => { s with cxl := { s.cxl with fmConfig := assign s.cxl.fmConfig reg v } }
      let s := if reg = Config.msixDword then maskFunction s o (bit v 30) else s
      let s := match o with
        | .part p => writeDoe s p reg v.toNat
        | .fm => s
      .next (emit s (.config o reg (some 0#64)))
    | none =>
      let was := ((lookup? held reg).map (·.toNat)).getD 0
      match (configId s o reg).or (if 4 ≤ reg ∧ reg ≤ 9 then some (barDword s o reg was) else capabilityDword s o reg was) with
      | some v => .next (emit s (.config o reg (some (BitVec.ofNat 64 v))))
      | none =>
        let (v, s) := orFree s ((lookup? held reg).map (·.toNat)) 32
        -- class code 0x050210 (R354); the revision below it is not given
        let v := if reg = 2 then 0x050210 * 256 + v % 256 else v
        .next (emit s (.config o reg (some (BitVec.ofNat 64 v))))

/-- HDM_DECODER_COMMIT (R358): the DPA ranges of the committed decoders follow one another in decoder order, each after its skip. -/
def Machine.execHdmDecoderCommit (ld : Fin 16) (d : Nat) (base : Nat) (size : Nat) (skip : Nat) (ways : Nat) (gran : Nat) (s : State) : Answer :=
  let l := getLd s ld.val
  if d ≥ 8 ∨ !memUp s ld.val ∨ (getPart s ld.val).state = .scrubbing then .next s
  else
    let earlier := (l.decoders.take d).filter (·.committed)
    let start := earlier.foldl (fun a x => max a (x.dpaBase + x.size / max 1 x.ways)) 0
    let dpa := start + skip
    let len := size / max 1 ways
    let others := (l.decoders.mapIdx fun k x => (k, x)).filter fun x => x.2.committed && x.1 != d
    let clash := others.any fun (x : Nat × HdmDecoder) =>
      decide (base < x.2.base + x.2.size ∧ x.2.base < base + size) || decide (dpa < x.2.dpaBase + x.2.size / max 1 x.2.ways ∧ x.2.dpaBase < dpa + len)
    let ok := [1, 2, 4, 8].contains ways && [256, 512, 1024, 2048, 4096, 8192, 16384].contains gran && decide (size % (2 ^ 28 * max 1 ways) = 0)
      && decide (dpa + len ≤ 2 ^ 39) && !clash
    let x : HdmDecoder := { base := base, size := size, skip := skip, ways := ways, gran := gran, dpaBase := dpa, committed := ok, errorNotCommitted := !ok }
    .next (modLd s ld.val fun l => { l with decoders := l.decoders.set d x })

/-! ### Component and memory device registers (R350, R354, R552) -/

/-- The registers of a decoder, dword by dword: base, size, control and DPA skip. -/
def decoderDword (d : HdmDecoder) (off : Nat) : Nat :=
  match off with
  | 0x00 => d.base % 2 ^ 32
  | 0x04 => d.base / 2 ^ 32
  | 0x08 => d.size % 2 ^ 32
  | 0x0C => d.size / 2 ^ 32
  | 0x10 => (log2 d.gran - 8) + 16 * d.waysCode + 2 ^ 8 * b2n d.locked + 2 ^ 9 * b2n (d.committed || d.errorNotCommitted) + 2 ^ 10 * b2n d.committed + 2 ^ 11 * b2n d.errorNotCommitted
      + 2 ^ 12
  | 0x14 => d.skip % 2 ^ 32
  | 0x18 => d.skip / 2 ^ 32
  | _ => 0

/-- A write of a decoder's register, as long as it is not committed; one that releases COMMIT ends a decoder that is not locked. -/
def HdmDecoder.write (d : HdmDecoder) (off v : Nat) : HdmDecoder :=
  let low := fun (x : Nat) => x / 2 ^ 32 * 2 ^ 32 + v / 2 ^ 28 % 16 * 2 ^ 28
  let high := fun (x : Nat) => v * 2 ^ 32 + x % 2 ^ 32
  if d.committed then (if off = 0x10 ∧ v / 2 ^ 9 % 2 = 0 ∧ !d.locked then { d with committed := false } else d)
  else match off with
  | 0x00 => { d with base := low d.base }
  | 0x04 => { d with base := high d.base }
  | 0x08 => { d with size := low d.size }
  | 0x0C => { d with size := high d.size }
  | 0x10 => { d with gran := 2 ^ (8 + v % 16), ways := waysOf (v / 16 % 16), locked := bit (BitVec.ofNat 64 v) 8, errorNotCommitted := false }
  | 0x14 => { d with skip := low d.skip }
  | 0x18 => { d with skip := high d.skip }
  | _ => d

/-- Dwords that a function's host has written and that only read back: masks and severities of the RAS capability, the global control of the decoders, the mailbox's
control and command. Before that they hold the reset values of the CXL specification. -/
def writtenDword (s : State) (o : Owner) (off dflt : Nat) : Nat :=
  ((lookup? (match o with
    | .part p => (getLd s p).written
    | .fm => s.cxl.fmWritten) off)).getD dflt

/-- A dword of the component and memory device registers of a function, 0x3000 bytes of them (R552): the capability headers, RAS, the decoders of an LD; then the
device capabilities, status and the primary mailbox with its 4 KiB payload. `fv` stands for what is not given. -/
def cxlDword (s : State) (o : Owner) (fv off : Nat) : Nat :=
  let ld := match o with
    | .part p => some (getLd s p)
    | .fm => none
  let entry := fun (k id at_ len : Nat) => if off = 0x1010 + 16 * k then some (id + 2 ^ 16) else if off = 0x1014 + 16 * k then some at_ else if off = 0x1018 + 16 * k then some len
    else if off = 0x101C + 16 * k then some 0 else none
  match ((entry 0 1 0x40 8).or (entry 1 2 0xFE0 0x1020)).or (entry 2 0x4000 0x48 8) with
  | some v => v
  | none =>
    match off with
    | 0x000 => 1 + 2 ^ 16 + 2 ^ 20 + (if ld.isSome then 2 else 1) * 2 ^ 24
    | 0x004 => 2 + 2 ^ 17 + 0x100 * 2 ^ 20
    | 0x008 => if ld.isSome then 5 + 2 ^ 16 + 0x200 * 2 ^ 20 else 0
    | 0x104 => writtenDword s o off 0x1CFFF
    | 0x108 => writtenDword s o off 0x1CFFF
    | 0x110 => writtenDword s o off 0x7F
    | 0x200 => if ld.isSome then 4 + 2 ^ 4 + 2 ^ 8 + 2 ^ 9 else 0
    | 0x204 => if ld.isSome then writtenDword s o off 0 else 0
    | 0x1000 => 2 ^ 16
    | 0x1004 => 3
    | 0x1040 => if ld.any fun l => !l.events.isEmpty then 1 + fv % 8 * 2 else 0
    | 0x1048 => 0x14
    | 0x1FE0 => 12
    | 0x1FE4 => writtenDword s o off 0
    | 0x1FE8 => writtenDword s o off 0
    | 0x1FEC => writtenDword s o off 0
    | _ =>
      if 0x210 ≤ off ∧ off < 0x310 then ((ld.bind fun l => l.decoders[(off - 0x210) / 0x20]?).map fun d => decoderDword d ((off - 0x210) % 0x20)).getD 0
      else if 0x1FF0 ≤ off then fv % 2 ^ 32
      else 0

/-- A write of such a dword (R358, R550): the decoders of an LD and what reads back as written; the COMMIT bit of a decoder commits it. No write starts a mailbox command:
those come as commands of their own. -/
def writeCxlDword (s : State) (o : Owner) (off v : Nat) : State :=
  let keep := fun (mask : Nat) => match o with
    | .part p => modLd s p fun l => { l with written := assign l.written off (v &&& mask) }
    | .fm => { s with cxl := { s.cxl with fmWritten := assign s.cxl.fmWritten off (v &&& mask) } }
  match off with
  | 0x104 => keep 0x1CFFF
  | 0x108 => keep 0x1CFFF
  | 0x110 => keep 0x7F
  | 0x204 => keep 3
  | 0x1FE4 => keep 2
  | 0x1FE8 => keep (2 ^ 32 - 1)
  | 0x1FEC => keep (2 ^ 32 - 1)
  | _ =>
    match o with
    | .fm => s
    | .part p =>
      let k := (off - 0x210) / 0x20
      if off < 0x210 ∨ 0x310 ≤ off then s
      else
        let s := modLd s p fun l => { l with decoders := l.decoders.modify k fun d => d.write ((off - 0x210) % 0x20) v }
        let d := (getLd s p).decoders.getD k {}
        if (off - 0x210) % 0x20 = 0x10 ∧ v / 2 ^ 9 % 2 = 1 ∧ !d.committed then
          match Machine.execHdmDecoderCommit p k d.base d.size d.skip d.ways d.gran s with
          | .next s' => modLd s' p fun l => { l with decoders := l.decoders.modify k fun x => { x with locked := d.locked } }
          | _ => s
        else s

end Sys2Proof
end

