-- ==== Sys2Proof/Machine/Cxl.lean ====
section
/-!
DEFINITION. The CXL attachment (R350 to R380): CXL.mem requests, windows, HDM decoders, lends and revocations, the standard mailbox and FM API commands, and
published regions.
-/
namespace Sys2Proof

open Machine (State Fault Refusal)

/-! ### CXL.mem (R357 to R369) -/

/-- CXL_MEM_READ (R357 to R369). -/
def Machine.execCxlMemRead (ld : Fin 16) (req : MemReq) (s : State) : Answer := .next (memRequest s ld.val req none)

/-- CXL_MEM_WRITE (R357 to R369). -/
def Machine.execCxlMemWrite (ld : Fin 16) (req : MemReq) (data : List Byte) (mask : List Bool) (poison : Bool) (s : State) : Answer :=
  .next (memRequest s ld.val req (some (data, mask, poison)))

/-- CXL_MEM_OTHER_OPCODE (R360): a poisoned read or a dropped write, logged. -/
def Machine.execCxlMemOtherOpcode (ld : Fin 16) (addr : Nat) (withData : Bool) (s : State) : Answer :=
  let p := ld.val
  let dpa := (dpaOf (getLd s p) addr).getD addr
  if !memUp s p then .next s
  else if withData then .next (dropWrite s p dpa)
  else .next (emit (mediaEvent s p false dpa) (.memData p addr (List.replicate 64 0#8) true (devLoad s p false)))

/-- LD_RATE_RELEASE (R368). -/
def Machine.execLdRateRelease (ld : Fin 16) (t : Nat) (s : State) : Answer :=
  if !memUp s ld.val ∨ (getLd s ld.val).heldReqs.isEmpty then .next s else .next (releaseLd (atTime s t) ld.val)

/-! ### Windows (R357, R562) -/

/-- The MODE of a code (R356). -/
def winModeOf (k : Nat) : WinMode := if k = 1 then .ro else if k = 2 then .rw else .none
def WinMode.code : WinMode → Nat
  | .none => 0
  | .ro => 1
  | .rw => 2

/-- WINDOW_MODE_WRITE (R80, R357, R428, R562): a raised mode holds at once; a lowered one forbids new accesses at once and is done when those past decode have
drained. -/
def Machine.execWindowModeWrite (p : Fin 16) (slot : Nat) (mode : Nat) (t : Nat) (s : State) : Answer :=
  let x := getPart s p.val
  if !x.live ∨ x.state = .scrubbing ∨ !s.cxl.linkUp then .next s
  else
    let s := atTime s t
    let ignored := count s (.part p) 15 1
    match ownExt s p.val slot with
    | none => .next ignored
    | some e =>
      let store : Bool := match (getExt s e).use with
        | .page _ => true
        | .control => true
        | _ => false
      let old := (lookup? (getLd s p.val).modes slot).getD .none
      if store ∨ x.confidential ∨ mode ≥ 3 then .next ignored
      else if (winModeOf mode) = old then .next s
      else
        let lower := decide (mode < old.code)
        let s := modLd s p.val fun l => { l with modes := if mode = 0 then erase l.modes slot else assign l.modes slot (winModeOf mode)
                                                 draining := if lower then assign l.draining slot s.time else l.draining }
        .next (cdatRebuild s p.val slot 1)

/-- WINDOW_DRAIN_DONE (R357). -/
def Machine.execWindowDrainDone (p : Fin 16) (slot : Nat) (t : Nat) (s : State) : Answer :=
  match lookup? (getLd s p.val).draining slot with
  | none => .next s
  | some b => if t < b then .next s else .next (modLd (atTime s t) p.val fun l => { l with draining := erase l.draining slot })

/-! ### Lending and taking back (R370 to R376) -/

/-- LDs that hold a pool extent. -/
def holdersOf (s : State) (e : Nat) : List Nat := (List.range 16).filter fun p => (getLd s p).lent.any fun x => x.2.ext == e

/-- Whether an extent number names a pool extent in no node use (R371, R410). -/
def lendable (s : State) (e : Nat) : Bool := inPool s e && (getExt s e).use == .none && !pchFenced s (e / 3)

/-- LD p may not be lent to, or taken from, as a partition (R376, R428). -/
def ldRefuses (s : State) (p : Nat) : Bool := !(getPart s p).live || (getPart s p).state == .scrubbing || (getPart s p).confidential

/-- Whether an earlier EXTENT_REVOKE of the extent for the LD has not completed (R375). -/
def revokeBefore (s : State) (d : Desc) (e p : Nat) : Bool :=
  (s.flight.takeWhile fun x => !(x.ctx == d.ctx && x.index == d.index)).any fun x =>
    x.opcode == 0x0C && x.subop == 0x41 && x.phase != .finished && fld (x.w 2) 10 0 == e && (bit (x.w 2) 16 || fld (x.w 2) 15 12 == p)

/-- Regions without an extent end (R377). -/
def settleRegions (s : State) : State :=
  { s with cxl := { s.cxl with regions := s.cxl.regions.filter fun r => s.cxl.lds.any fun l => l.lent.any fun x => x.2.region == r.1 } }

/-- EXTENT_ASSIGN (R370, R371, R374 to R377, R410). An extent whose last holder is being revoked, and that is cleared then, is lent only after its clear. -/
def Machine.execExtentAssign (q : Nat) (i : BitVec 32) (s : State) : Answer :=
  match stationDesc s q i 0x0C 0x40 with
  | none => .next s
  | some d =>
    let w := d.w 2
    let e := fld w 10 0
    let p := fld w 15 12
    let slot := fld w 26 16
    let mode := fld w 29 28
    let region := fld w 39 32
    if d.owner ≠ .fm then .next (notManager s d)
    else if d.len ≠ 0 ∨ !bodyOk d.cur [maskOf 39 32 ||| maskOf 29 28 ||| maskOf 26 16 ||| maskOf 15 12 ||| maskOf 10 0] ∨ mode = 0 ∨ mode = 3
      then .next (putDesc s (d.finish stMalformed 1))
    else if revokeBefore s d e p ∨ ((holdersOf s e).isEmpty ∧ s.cxl.revokes.any (fun r => r.ext == e)) ∨ (inPool s e ∧ ((getExt s e).clearing ∨ (getExt s e).kind = .awaiting)) then .next s
    else if !lendable s e then .next (putDesc s (d.finish stNotOwner 3))
    else if ldRefuses s p then .next (putDesc s (d.finish stNotOwner 6))
    else if slot < ownCount s p ∨ (lookup? (getLd s p).lent slot).isSome ∨ (holdersOf s e).contains p then .next (putDesc s (d.finish stMalformed 2))
    else if s.cxl.lds.any fun l => l.lent.any fun x => x.2.ext == e && x.2.region != region then .next (putDesc s (d.finish stMalformed 5))
    else
      let s := modLd s p fun l => { l with lent := assign l.lent slot { ext := e, mode := winModeOf mode, region := region } }
      let s := if region ≠ 0 ∧ (lookup? s.cxl.regions region).isNone then { s with cxl := { s.cxl with regions := assign s.cxl.regions region {} } } else s
      .next (cdatRebuild (endNow s d stDone 0 (some (holdersOf s e).length)) p slot 1)

/-- Those of them that an operation under way still needs: where its results go. Its input it has read. -/
def wordsLeft (d : Desc) : List Nat :=
  match d.phase with
  | .ready => locationWords d
  | .running => match d.opcode with
    | 0x03 => [5, 6]
    | 0x04 => if d.subop = 2 then [6] else [3]
    | 0x05 => [6]
    | 0x08 => [3]
    | 0x09 => if d.subop = 3 then [3] else if d.subop = 4 then [7] else []
    | 0x0A => [3]
    | _ => []
  | .finished => []

/-- Whether a descriptor still needs to reach a slot of its partition (R373). -/
def reaches (d : Desc) (slot : Nat) : Bool :=
  (wordsLeft d).any fun k => d.w k != 0#64 && fld (d.w k) 63 60 == 1 && fld (d.w k) 58 48 == slot

/-- Removes an extent from decode at an LD: step 1 and step 4 of R373; a program dispatched before stops at the step that names it. The number of descriptors stopped comes beside. -/
def reclaimLent (s : State) (e p : Nat) : State × Nat :=
  let slots := ((getLd s p).lent.filter fun x => x.2.ext == e).map (·.1)
  let s := modLd s p fun l => { l with lent := l.lent.filter fun x => x.2.ext != e }
  let s : State := { s with flight := s.flight.map fun (d : Desc) => if d.owner = ownerOf p then { d with lost := d.lost ++ slots } else d }
  let hit := s.flight.filter fun d => d.owner == ownerOf p && slots.any fun k => reaches d k
  let s := hit.foldl (fun s d => match findDesc s d.ctx d.index with
    | some d => stopDesc s d stRevoked 0
    | none => s) s
  (slots.foldl (fun s k => cdatRebuild s p k 1) (settleRegions s), hit.length)

/-- EXTENT_REVOKE (R372, R373, R375, R376): takes its commit point and removes the extent from decode. -/
def Machine.execExtentRevoke (q : Nat) (i : BitVec 32) (t : Nat) (s : State) : Answer :=
  match stationDesc s q i 0x0C 0x41 with
  | none => .next s
  | some d =>
    let w := d.w 2
    let e := fld w 10 0
    let lds := if bit w 16 then holdersOf s e else [fld w 15 12]
    let before := (s.flight.takeWhile fun x => !(x.ctx == q && x.index == i)).any fun x =>
      x.opcode == 0x0C && (x.subop == 0x40 || x.subop == 0x41) && x.phase != .finished && fld (x.w 2) 10 0 == e
    if d.owner ≠ .fm then .next (notManager s d)
    else if d.len ≠ 0 ∨ !bodyOk d.cur [maskOf 16 0 &&& ~~~(maskOf 11 11)] then .next (putDesc s (d.finish stMalformed 1))
    else if before then .next s
    else if !inPool s e then .next (putDesc s (d.finish stNotOwner 3))
    else if !bit w 16 ∧ ldRefuses s (fld w 15 12) then .next (putDesc s (d.finish stNotOwner 6))
    else if lds.isEmpty ∨ lds.any fun p => !(holdersOf s e).contains p then .next (putDesc s (d.finish stNotOwner 8))
    else
      let s := putDesc (atTime s t) { d with phase := .running, latched := true }
      let (s, n) := lds.foldl (fun (a : State × Nat) p => let (s, k) := reclaimLent a.1 e p; (s, a.2 + k)) (s, 0)
      .next { s with cxl := { s.cxl with revokes := s.cxl.revokes ++ [{ ctx := q, index := i, ext := e, draining := lds, revoked := [], stopped := n }] } }

/-- The end of a revocation (R374, R376, R476): its record, then its events. -/
def endRevoke (s : State) (r : Revoke) : State :=
  let s := { s with cxl := { s.cxl with revokes := s.cxl.revokes.filter fun x => !(x.ctx == r.ctx && x.index == r.index) } }
  let mask := BitVec.ofNat 64 ((r.revoked.map fun p => 2 ^ p).sum)
  let s := match findDesc s r.ctx r.index with
    | some d => endNow s d stDone 0 (some (holdersOf s r.ext).length) (some r.stopped)
    | none => s
  r.revoked.foldl (fun s p => postEvent s (ownerOf p) 6 2 none r.ext mask 0#64 stRevoked) (postFm s 6 2 r.ext mask 0#64 stRevoked)

/-- REVOKE_DRAIN_DONE (R373, R374): the drain has ended; the clear begins when no LD holds the extent any more. -/
def Machine.execRevokeDrainDone (q : Nat) (i : BitVec 32) (s : State) : Answer :=
  match s.cxl.revokes.find? fun r => r.ctx == q && r.index == i && !r.clearing with
  | none => .next s
  | some r =>
    let r := { r with draining := [], revoked := r.draining }
    if (holdersOf s r.ext).isEmpty then
      -- its rows are marked Open before the bulk clear (R112)
      let s := modExt s r.ext fun x => { x with clearing := true, kind := .openRows }
      let r := { r with clearing := true }
      .next { s with cxl := { s.cxl with revokes := s.cxl.revokes.map fun x => if x.ctx = q ∧ x.index = i then r else x } }
    else .next (endRevoke s r)

/-- EXTENT_CLEAR_DONE (R374): the extent is zero and Open, without poison, and back in the pool. -/
def Machine.execExtentClearDone (e : Nat) (s : State) : Answer :=
  if !(getExt s e).clearing then .next s
  else
    let s := clearExtent s e
    let s := if pchFenced s (e / 3) then modExt s e fun x => { x with poison := true } else s
    match s.cxl.revokes.find? fun r => r.ext == e && r.clearing with
    | some r => .next (endRevoke s r)
    | none => .next s

/-! ### Published regions (R377 to R380) -/

/-- Whether an LD holds an extent of a region, in RW mode where asked. -/
def holdsRegion (s : State) (p region : Nat) (rw : Bool) : Bool := (getLd s p).lent.any fun x => x.2.region == region && (!rw || x.2.mode == .rw)

/-- REGION_PUBLISH (R378 to R380). -/
def Machine.execRegionPublish (o : Owner) (m : MboxMsg) (s : State) : Answer :=
  .next (mboxRun s o 0x20 m .partition (m.body.length == 24) fun a =>
    let p := a.idx
    let r := m.at_ 0
    let base := ofLe (slice m.body 8 8)
    let x := (lookup? s.cxl.regions r).getD {}
    if r = 0 ∨ ((m.body.drop 1).take 7).any (· != 0#8) then mboxReply s o 0x20 m stMalformed 1
    else if !holdsRegion s p r true then mboxReply s o 0x20 m stNotOwner 9
    else if base ≠ x.version then mboxReply s o 0x20 m stConflict 0 (some x.descriptor.toNat) (some x.version) (leBytes 8 x.descriptor.toNat)
    else
      let v := (x.version + 1) % 2 ^ 64
      let s := { s with cxl := { s.cxl with regions := assign s.cxl.regions r { version := v, descriptor := BitVec.ofNat 64 (ofLe (slice m.body 16 8)) } } }
      let s := mboxReply s o 0x20 m stDone 0 none (some v)
      (((List.range 16).filter fun j => j != p && holdsRegion s j r false)).foldl (fun s j => postEvent s (ownerOf j) 6 3 none r (BitVec.ofNat 64 v) 0#64) s)

/-- REGION_QUERY (R378, R379). -/
def Machine.execRegionQuery (o : Owner) (m : MboxMsg) (s : State) : Answer :=
  .next (mboxRun s o 0x21 m .partition (m.body.length == 24) fun a =>
    let r := m.at_ 0
    let x := (lookup? s.cxl.regions r).getD {}
    if r = 0 ∨ (m.body.drop 1).any (· != 0#8) then mboxReply s o 0x21 m stMalformed 1
    else if !holdsRegion s a.idx r false then mboxReply s o 0x21 m stNotOwner 9
    else mboxReply s o 0x21 m stDone 0 (some x.descriptor.toNat) (some x.version) (leBytes 8 x.descriptor.toNat))

/-! ### The standard mailbox (R355, R365) and the FM API (R350, R367) -/

/-- Runs a standard command: nothing where the mailbox is not there, Busy (return code 6) during a scrub (R441). Command and return codes are those of the CXL 2.0
specification (log entry 45). -/
def cxlRun (s : State) (o : Owner) (cmd : Nat) (k : State → State) : State :=
  if !mailboxUp s ∨ !presented s o then s
  else if scrubbing s o then emit s (.cxlMbox o cmd 6 [])
  else k s

/-- IDENTIFY_MEMORY_DEVICE (R351, R355): 2,048 slots of 256 MiB, all volatile. Fields that the spec does not give are free. -/
def Machine.execIdentifyMemoryDevice (o : Owner) (s : State) : Answer :=
  .next (cxlRun s o 0x4000 fun s =>
    let (a, s) := drawBytes 16 s
    let (b, s) := drawBytes 19 s
    emit s (.cxlMbox o 0x4000 0 (a ++ leBytes 8 2048 ++ leBytes 8 2048 ++ leBytes 8 0 ++ b)))

/-- GET_HEALTH_INFO (R355, R435): the device temperature at the coarse grain; the other fields are free. -/
def Machine.execGetHealthInfo (o : Owner) (s : State) : Answer :=
  .next (cxlRun s o 0x4200 fun s =>
    let (a, s) := drawBytes 4 s
    let (b, s) := drawBytes 12 s
    emit s (.cxlMbox o 0x4200 0 (a ++ leBytes 2 ((hottest s) % 65536).toNat ++ b)))

/-- The events of an LD; the FM-owned LD has none. -/
def eventsOf (s : State) (o : Owner) : List MediaEvent :=
  match o with
  | .part p => (getLd s p).events
  | .fm => []

/-- GET_EVENT_RECORDS (R355, R366): the records of the LD's event log. -/
def Machine.execGetEventRecords (o : Owner) (_log : Nat) (s : State) : Answer :=
  .next (cxlRun s o 0x0100 fun s =>
    emit s (.cxlMbox o 0x0100 0 (leBytes 2 (eventsOf s o).length ++ (eventsOf s o).flatMap fun e => leBytes 2 e.handle ++ leBytes 1 (b2n e.dropped) ++ leBytes 8 e.dpa)))

/-- CLEAR_EVENT_RECORDS (R355): the records named, or all of them when none is; an unknown handle is refused. -/
def Machine.execClearEventRecords (o : Owner) (_log : Nat) (handles : List Nat) (s : State) : Answer :=
  .next (cxlRun s o 0x0101 fun s =>
    if handles.any fun h => !((eventsOf s o).any fun e => e.handle == h) then emit s (.cxlMbox o 0x0101 0xE [])
    else
      let s := match o with
        | .part p => modLd s p fun l => { l with events := if handles.isEmpty then [] else l.events.filter fun e => !handles.contains e.handle }
        | .fm => s
      emit s (.cxlMbox o 0x0101 0 []))

/-- Poisoned lines of an LD by DPA, and its slots in extent-level poison (R365). -/
def poisonOf (s : State) (p : Nat) : List Nat × List Nat :=
  let slots := (List.range (ownCount s p)).filterMap (fun k => (ownExt s p k).map fun e => (k, e)) ++ (getLd s p).lent.map fun x => (x.1, x.2.ext)
  let mapped := slots.filter fun x => winMode s p x.1 != .none
  let lines := mapped.flatMap fun (x : Nat × Nat) => (s.hbmPoison ++ s.openPoison).filterMap fun l =>
    if hbmAddr x.2 0 ≤ 64 * l ∧ 64 * l < hbmAddr x.2 0 + 2 ^ 28 then some (x.1 * 2 ^ 28 + (64 * l - hbmAddr x.2 0)) else none
  (lines, (mapped.filter fun x => (getExt s x.2).poison).map fun x => x.1 * 2 ^ 28)

/-- GET_POISON_LIST (R365): lines and whole extents within a range, and the overflow flag of a full list. -/
def Machine.execGetPoisonList (o : Owner) (start : Nat) (len : Nat) (s : State) : Answer :=
  .next (cxlRun s o 0x4300 fun s =>
    let (ls, es) := match o with
      | .part p => poisonOf s p
      | .fm => ([], [])
    let inside := fun (a n : Nat) => decide (a < start + len ∧ start < a + n)
    let ls := ls.filter fun a => inside a 64
    let es := es.filter fun a => inside a (2 ^ 28)
    emit s (.cxlMbox o 0x4300 0 (leBytes 1 (2 * b2n (s.poisonOverflow || decide (s.openPoison.length ≥ 65536))) ++ leBytes 2 (ls.length + es.length)
      ++ ls.flatMap (fun a => leBytes 8 a ++ leBytes 4 1) ++ es.flatMap fun a => leBytes 8 a ++ leBytes 4 (2 ^ 22))))

/-- The extent and offset of a line of an LD that is mapped for its host. -/
def lineOf (s : State) (o : Owner) (dpa : Nat) : Option (Nat × Nat) :=
  match o with
  | .fm => none
  | .part p => if winMode s p (dpa / 2 ^ 28) = .none then none else (slotExt s p (dpa / 2 ^ 28)).map fun e => (e, dpa % 2 ^ 28 / 64 * 64)

/-- INJECT_POISON (R355, R365): only while the partition is unlocked. -/
def Machine.execInjectPoison (o : Owner) (dpa : Nat) (s : State) : Answer :=
  .next (cxlRun s o 0x4301 fun s =>
    let locked : Bool := match o with
      | .part p => (getPart s p).state == .locked
      | .fm => false
    if locked then emit s (.cxlMbox o 0x4301 0x13 [])
    else match lineOf s o dpa with
    | none => emit s (.cxlMbox o 0x4301 0xF [])
    | some (e, off) => emit (poisonLine s e off) (.cxlMbox o 0x4301 0 []))

/-- CLEAR_POISON (R365, R510): the line is written with the data given and leaves the list. -/
def Machine.execClearPoison (o : Owner) (dpa : Nat) (data : List Byte) (s : State) : Answer :=
  .next (cxlRun s o 0x4302 fun s =>
    match lineOf s o dpa with
    | none => emit s (.cxlMbox o 0x4302 0xF [])
    | some (e, off) => emit (writeHbm s e off (slice data 0 64)) (.cxlMbox o 0x4302 0 []))

/-- GET_SUPPORTED_LOGS (R355): its contents are the CXL specification's and free here. -/
def Machine.execGetSupportedLogs (o : Owner) (s : State) : Answer :=
  .next (cxlRun s o 0x0400 fun s => let (b, s) := drawBytes 28 s; emit s (.cxlMbox o 0x0400 0 b))

/-- GET_LOG (R355). -/
def Machine.execGetLog (o : Owner) (_log : Nat) (_off : Nat) (len : Nat) (s : State) : Answer :=
  .next (cxlRun s o 0x0401 fun s => let (b, s) := drawBytes len s; emit s (.cxlMbox o 0x0401 0 b))

/-- GET_TIMESTAMP (R355). -/
def Machine.execGetTimestamp (o : Owner) (s : State) : Answer :=
  .next (cxlRun s o 0x0300 fun s => let (b, s) := drawBytes 8 s; emit s (.cxlMbox o 0x0300 0 b))

/-- UNSUPPORTED_COMMAND (R355). -/
def Machine.execUnsupportedCommand (o : Owner) (code : Nat) (s : State) : Answer := .next (cxlRun s o code fun s => emit s (.cxlMbox o code 3 []))

/-- The FM-owned LD's mailbox, which direct attachment does not present (R353). -/
def fmApiUp (s : State) : Bool := mailboxUp s && !s.cxl.direct

/-- Writes one HOST_QOS byte of several partitions from `start` on, both directions alike (R367, R416, R565): locked partitions and a sum above 256 are passed over. -/
def setQos (s : State) (start : Nat) (vals : List Nat) (alloc : Bool) : State :=
  (List.range vals.length).foldl (fun s k =>
    let p := start + k
    let v := vals.getD k 0 % 256
    let x := getPart s p
    if p ≥ 16 ∨ x.state = .locked ∨ x.state = .scrubbing then s
    else
      let sum := fun (wr : Bool) => (((List.range 16).filter (· != p)).map fun j => qosAlloc s j wr).sum + v
      if alloc ∧ (sum false > 256 ∨ sum true > 256) then count s .fm 15 1
      else modPart s p fun x => { x with hostQos := if alloc then setFld (setFld x.hostQos 23 16 v) 7 0 v else setFld (setFld x.hostQos 31 24 v) 15 8 v }) s

/-- SET_QOS_ALLOCATED_BW (R367, R565). -/
def Machine.execSetQosAllocatedBw (start : Nat) (vals : List Nat) (s : State) : Answer :=
  if !fmApiUp s then .next s else .next (emit (setQos s start vals true) (.cxlMbox .fm 0x5407 0 []))

/-- SET_QOS_BW_LIMIT (R367, R565). -/
def Machine.execSetQosBwLimit (start : Nat) (vals : List Nat) (s : State) : Answer :=
  if !fmApiUp s then .next s else .next (emit (setQos s start vals false) (.cxlMbox .fm 0x5409 0 []))

/-- FM_API_COMMAND (R350): the two QoS getters answer from HOST_QOS; the other MLD component commands answer with contents that the spec does not give; any other code is
unsupported. -/
def Machine.execFmApiCommand (code : Nat) (body : List Byte) (s : State) : Answer :=
  if !fmApiUp s then .next s
  else
    let n := (body.getD 0 0#8).toNat
    let start := (body.getD 1 0#8).toNat
    let vals := fun (f : Nat → Nat) => (List.range n).map fun k => BitVec.ofNat 8 (f (start + k))
    if code = 0x5406 then .next (emit s (.cxlMbox .fm code 0 ([BitVec.ofNat 8 n, BitVec.ofNat 8 start] ++ vals fun p => qosAlloc s p false)))
    else if code = 0x5408 then .next (emit s (.cxlMbox .fm code 0 ([BitVec.ofNat 8 n, BitVec.ofNat 8 start] ++ vals fun p => qosLimit s p false)))
    else if [0x5400, 0x5401, 0x5402, 0x5403, 0x5404, 0x5405].contains code then
      let (b, s) := drawBytes 16 s
      .next (emit s (.cxlMbox .fm code 0 b))
    else .next (emit s (.cxlMbox .fm code 3 []))

end Sys2Proof
end

