-- ==== Sys2Proof/Machine/Place.lean ====
section
/-!
DEFINITION. The PLACE station (R91 to R109, R195 to R197, R208 to R211, R395): sequences, appends with copy-on-write, rings and exhaustion policies,
forks, and the extents of the page store; and the grants of sequence locks and releases of pins (R88, R90).
-/
namespace Sys2Proof

open Machine (State Fault Refusal)

/-! ### Shared parts of the PLACE operations -/

/-- The stacks that staged changes of the page store touch (R488). -/
def placeDoms (es : List Effect) : List Nat :=
  (es.filterMap fun e => match e with
    | .frameBytes _ f _ _ => some (84 + f.ext / 96)
    | .restoreFrame _ f _ => some (84 + f.ext / 96)
    | .putSeq _ _ r => some (84 + r.headTable.ext / 96)
    | _ => none).eraseDups

/-- Whether a PLACE needs a lost sequence (R518): FREE does not, unless the sequence table itself is lost; nor do CREATE and FORK for a new record. -/
def placeLost (s : State) (p : Nat) (d : Desc) (sub : Nat) : Bool :=
  let seq := fld (d.w 2) 31 0
  if sub = 1 ∨ sub = 5 then tableLost s p
  else if sub = 4 then tableLost s p || seqPoisoned s p (fld (d.w 3) 31 0)
  else if sub ≤ 9 then seqPoisoned s p seq
  else false

/-- Runs a PLACE operation that names a sequence: its descriptor must be at the station, with its locks granted and HBM in service (R88, R91, R533). The
operation works on the state as the descriptor's earlier steps left it, and waits for the stacks it touches (R488). -/
def placeRun (s : State) (q : Nat) (i : BitVec 32) (sub : Nat) (masks : List Word) (k : Nat → Desc → State → State × Desc) : Answer :=
  match stationDesc s q i 0x02 sub with
  | none => .next s
  | some d =>
    match d.owner with
    | .fm => .next (putDesc s (d.finish stNotOwner (if 0x10 ≤ sub then 3 else 1)))
    | .part p =>
      if !memActive s || !d.locked then .next s
      else if !bodyOk d.cur masks then .next (putDesc s (d.finish stMalformed 1))
      else if d.len ≠ 0 then .next (putDesc s (d.finish stMalformed 3))
      else if placeLost s p d sub then .next (putDesc s (d.finish stPoisoned 1))
      else
        let (s', d') := k p d s
        if domsOn s (placeDoms d'.effects) then .next (putDesc s' d') else .next ((placeDoms d'.effects).foldl startWake s)

/-- SEQ_ID of a PLACE. -/
def Desc.seq (d : Desc) : Nat := fld (d.w 2) 31 0

/-- Takes runs of control blocks, one of each length; none when one of them cannot be had. -/
def takeRuns (s : State) (p : Nat) : List Nat → Option (List Blocks × State)
  | [] => some ([], s)
  | n :: r => match takeBlocks s p n with
    | none => none
    | some (b, s) => (takeRuns s p r).map fun y => (b :: y.1, y.2)

/-- The runs of control blocks in which a table of 64 bytes for each sequence lies (R82, R250): one of more blocks than a control extent holds, 61,440, goes on in a
second run (log entry 8). -/
def tableRuns (s : State) (p : Nat) : List Nat :=
  let n := seqCapacity s p * 64 / 4096
  if n ≤ 61440 then [n] else [61440, n - 61440]

/-- Control blocks of a sequence table with its lease table, taken with the partition's first sequence (log entry 8); the record's
head table; none when no run of blocks is free. -/
def takeTables (s : State) (p heads : Nat) : Option (Blocks × List Blocks × State) :=
  let first := (getPart s p).seqTable.isEmpty
  match takeRuns s p (ceilDiv (heads * 16) 4096 :: if first then ceilDiv (seqCapacity s p * 8) 4096 :: tableRuns s p else []) with
  | some (h :: rest, s) =>
    let s := if first then modPart s p fun x => { x with leaseTable := rest.head?, seqTable := rest.tail } else s
    some (h, [h], s)
  | _ => none

/-- A directory and the list block of a pointer, where a head list lacks them (R84); none when no control block is free. -/
def takeLists (s : State) (p : Nat) (h : HeadList) (ptr : Nat) : Option (HeadList × List Blocks × State) :=
  let dir := match h.directory with
    | some _ => some (h, [], s)
    | none => (takeBlocks s p 1).map fun (x : Blocks × State) => ({ h with directory := some x.1 }, [x.1], x.2)
  match (dir : Option (HeadList × List Blocks × State)) with
  | none => none
  | some (h, bs, s) =>
    if (lookup? h.lists ptr).isSome then some (h, bs, s)
    else (takeBlocks s p 4).map fun (x : Blocks × State) => ({ h with lists := assign h.lists ptr x.1 }, x.1 :: bs, x.2)

/-- List blocks and directory that no held page needs any more are freed (R84). -/
def trimHead (p : Nat) (r : SeqRec) (h : HeadList) : HeadList × List Effect :=
  let need := (h.entries.map fun e => r.pointer e.1).eraseDups
  let gone := h.lists.filter fun b => !need.contains b.1
  let h1 := { h with lists := h.lists.filter fun b => need.contains b.1 }
  let es := gone.map fun b => Effect.freeBlocks p b.2
  if h.entries.isEmpty then
    ({ h1 with directory := none }, es ++ (h.directory.toList.map fun b => Effect.freeBlocks p b))
  else (h1, es)

/-- Counts of promoted and spilled entries of a sequence (R82). -/
def SeqRec.recount (r : SeqRec) : SeqRec :=
  let es := r.heads.flatMap (·.entries)
  { r with promoted := (es.filter fun e => match e.2 with
      | .frame _ true => true
      | .spilled _ true => true
      | _ => false).length
           spilled := (es.filter fun e => match e.2 with
      | .spilled _ _ => true
      | _ => false).length }

/-! ### Tables held -/

/-- The decode slot whose table seals CB16 pages, by a PRT_DEFAULTS word (R210, R554). -/
def codingSlot (w : Word) : Option Nat := if fld w 9 8 = 0 then none else some (fld w 9 8 - 1)

/-- The table of the page coding slot as it now stands. -/
def codingTable (s : State) (p : Nat) : Option (Nat × DecodeTable) :=
  (codingSlot (getOwner s (ownerOf p)).defaults).bind fun k => ((getPart s p).decode.getD k none).map fun t => (k, t)

/-- The table with which a PLACE seals CB16 pages: that of the page coding slot as both were at its dispatch (R210, R216, R554). -/
def Desc.codingTable (d : Desc) : Option (Nat × DecodeTable) :=
  (codingSlot d.defaults).bind fun k => (d.tables.getD k none).map fun t => (k, t)

/-! ### New frames and exhaustion (R103, R104) -/

/-- What an APPEND or RESTORE has done so far: the state with the frames and blocks it took (`base`), the state as its descriptor's earlier steps and it
itself leave it (`s`), its record, what it stages, and what it must report. -/
structure PlaceAcc where
  base : State
  s : State
  r : SeqRec
  eff : List Effect := []
  frames : List FrameAddr := []
  reused : List (FrameAddr × FrameRec) := []
  blocks : List Blocks := []
  touched : List FrameAddr := []
  taken : Nat := 0
  sealed_ : Nat := 0
  causes : Nat := 0
  promoted : Bool := false
  spills : List Nat := []
  /-- Exhaustions met (R105), and whether a decode table that is still being loaded is needed (R216). -/
  exhausted : Nat := 0
  waits : Bool := false

/-- Why a PLACE cannot be performed: status, DETAIL, and the exhaustions met on the way. -/
abbrev PlaceFail := Nat × Nat × Nat

/-- The failure of a PLACE that another exhaustion adds to, when it is one (R105). -/
def placeFail (a : PlaceAcc) (st det : Nat) : PlaceFail := (st, det, a.exhausted)

/-- Adds a word table to an extent whose frame takes a CB16 page for the first time (R209). -/
def needWords (a : PlaceAcc) (p : Nat) (f : FrameAddr) : Except PlaceFail PlaceAcc :=
  if (lookup? (getPart a.s p).wordTables f.ext).isSome then .ok a
  else match takeBlocks a.base p (ceilDiv (32 * sliceFrames (classRows a.s p ((extClass a.s f.ext).getD 0)) * 16) 4096) with
    | none => .error (stExhausted, 2, a.exhausted + 1)
    | some (b, base) => .ok { a with base := base, s := modPart a.s p fun x => { x with wordTables := assign x.wordTables f.ext b }
                                     blocks := b :: a.blocks, eff := a.eff ++ [.wordTable p f.ext b] }

/-- Whether a held page's frame may be reused in place for a page of a class (R103, R104): never one in a fenced bank pair (R142). -/
def reusable (a : PlaceAcc) (f : FrameAddr) (cls : Nat) : Bool :=
  let x := getFrame a.s f
  x.refs == 1 && x.pins == 0 && (x.state == .sealed || x.state == .open_) && extClass a.s f.ext == some cls && !a.touched.contains f

/-- Effective exhaustion policy of a sequence (R104): 1 FAIL, 2 REUSE, 3 SPILL; the default as it was at dispatch. -/
def pagePolicy (defaults : Word) (r : SeqRec) : Nat := if r.policy = 0 then fld defaults 1 0 else r.policy

/-- The lowest spill slot of a partition that no page holds. -/
def freeSlot (s : State) (p : Nat) (staged : List Nat) : Option Nat :=
  let x := getFlash s p
  (List.range (if x.spillState = 1 then x.spillSlots else 0)).find? fun k => (lookup? x.spill k).isNone && !staged.contains k

/-- Drops the entry of a page from a head list, staging the drop. -/
def stageDrop (a : PlaceAcc) (p l h page : Nat) (reuse : Bool) : PlaceAcc :=
  let x := a.r.head l h
  let e := lookup? x.entries page
  let x := { x with entries := erase x.entries page, firstPage := max x.firstPage (page + 1) }
  let es := match e with
    | some (.frame f _) => if reuse then [] else [Effect.refDown f]
    | some (.spilled k _) => [Effect.freeSpill p k]
    | none => []
  { a with r := a.r.setHead l h x, eff := a.eff ++ es }

/-- Takes a held page's frame for a new page: it goes RESERVED (R108), and its record is kept against a failure (R96). -/
def takeReused (a : PlaceAcc) (f : FrameAddr) : PlaceAcc :=
  let old := getFrame a.base f
  let mark := fun (s : State) => setFrame s f { getFrame s f with state := .reserved }
  { a with base := mark a.base, s := mark a.s, touched := f :: a.touched, reused := if old.state = .reserved then a.reused else (f, old) :: a.reused }

/-- The oldest sealed page of a head list whose frame may be reused for a class (R104 SPILL). -/
def spillPick (a : PlaceAcc) (h : HeadList) (cls : Nat) : Option (Nat × FrameAddr × Bool) :=
  h.entries.foldl (fun (best : Option (Nat × FrameAddr × Bool)) e => match e.2 with
    | .frame f pr =>
      if (getFrame a.s f).state == .sealed && reusable a f cls && (match best with
        | some b => decide (e.1 < b.1)
        | none => true) then some (e.1, f, pr) else best
    | .spilled _ _ => best) none

/-- A frame by the exhaustion policy, when a class has none free (R104). -/
def policyFrame (a : PlaceAcc) (defaults : Word) (p l h page cls : Nat) : Except PlaceFail (FrameAddr × PlaceAcc) :=
  let hl := a.r.head l h
  match pagePolicy defaults a.r with
  | 2 =>
    match (lookup? hl.entries hl.firstPage : Option Entry) with
    | some (.frame f _) =>
      if a.r.window > 0 ∧ hl.firstPage ≠ page ∧ reusable a f cls then
        let a := takeReused (stageDrop a p l h hl.firstPage true) f
        .ok (f, { a with causes := a.causes ||| 1, eff := a.eff ++ [.count (ownerOf p) 3 1] })
      else .error (placeFail a stExhausted 1)
    | _ => .error (placeFail a stExhausted 1)
  | 3 =>
    match spillPick a hl cls with
    | none => .error (placeFail a stExhausted 1)
    | some (k, f, pr) =>
      match freeSlot a.s p a.spills with
      | none => .error (placeFail a stExhausted 4)
      | some slot =>
        let x := getFrame a.s f
        let sp : SpillPage := { bytes := storedBytes a.s p f x.format a.r.dim, fill := x.fill, format := x.format, check := x.check, writer := x.writer
                                promoted := pr, words := if x.format = 0x30 then (lookup? a.s.words f).getD [] else []
                                gen := (getFlash a.s p).spillGen + 1 + a.spills.length }
        let a := takeReused { a with r := a.r.setHead l h { hl with entries := assign hl.entries k (.spilled slot pr) } } f
        .ok (f, { a with spills := slot :: a.spills, causes := a.causes ||| 2, eff := a.eff ++ [.putSpill p slot sp, .count (ownerOf p) 4 1] })
  | _ => .error (placeFail a stExhausted 1)

/-- A frame of a class for page `page` of a head list (R97, R103, R104, R107): the leaving page's frame of a ring, a free frame, or what the
exhaustion policy gives. `starts` says that the APPEND starts this page, so that page − R leaves the ring. What the rules have judged at dispatch is judged
here, when the row runs (DESIGN CHOICE); and a page − R that leaves without its frame being reused is gone for REUSE, so that FIRST_PAGE is the page after
it (DESIGN CHOICE): log entry 25. -/
def newFrame (a : PlaceAcc) (defaults : Word) (p seq l h page cls : Nat) (starts : Bool) : Except PlaceFail (FrameAddr × PlaceAcc) :=
  let win := a.r.window
  let leaving : Option Entry := if starts ∧ win > 0 ∧ page ≥ win then lookup? (a.r.head l h).entries (page - win) else none
  let direct : Option FrameAddr := match leaving with
    | some (.frame f _) => if reusable a f cls then some f else none
    | _ => none
  let a := if leaving.isSome then stageDrop a p l h (page - win) direct.isSome else a
  match direct with
  | some f => .ok (f, takeReused a f)
  | none =>
    -- a frame is free when the state itself has it free, whatever the descriptor's earlier steps will free at the commit
    match takeFrame { a.s with frames := a.base.frames } p cls seq l h a.r.nheads page with
    | some (f, _) =>
      .ok (f, { a with base := reserveFrame a.base f, s := reserveFrame a.s f, touched := f :: a.touched, frames := f :: a.frames, taken := a.taken + 1 })
    | none => policyFrame { a with exhausted := a.exhausted + 1 } defaults p l h page cls

/-! ### APPEND -/

/-- The first k tokens of a held page as the copy of R97 reads them: CHECK of a sealed page verified, and the CB16 blocks that they lie in decoded with the
tables held (R211); and whether a table that is being loaded is needed. Of a spilled page the spec does not say how it is copied: the slot is read at once, and the APPEND ends
TIER_FAIL 1 when its drive does not serve (DESIGN CHOICE, log entry 25). -/
def copyPage (a : PlaceAcc) (d : Desc) (p : Nat) (e : Entry) (k : Nat) : Except PlaceFail (Nat × List Token × Bool) :=
  let dim := a.r.dim
  let take := fun (fmt : Nat) (blocks : List (Nat × Word × List Byte)) (plain : List Byte) =>
    let need := onlyNeeded dim k blocks
    if fmt = 0x30 ∧ d.wordsWait (need.map (·.2.1)) then .ok (fmt, [], true)
    else match (if fmt = 0x30 then decodeBlocks d.tables need else .ok plain) with
      | .ok bs => .ok (fmt, (List.range k).map fun j => tokenAt fmt dim 16 bs j, false)
      | .error .retired => .error (placeFail a stPoisoned 1)
      | .error .mismatch => .error (placeFail a stCheck 2)
  match e with
  | .frame f _ =>
    let x := getFrame a.s f
    if pagePoisoned a.s p f x.format dim then .error (placeFail a stPoisoned 1)
    else if x.fill = 16 ∧ (crc32c (storedBytes a.s p f x.format dim)).toNat ≠ x.check then .error (placeFail a stCheck 1)
    else take x.format (frameBlocks a.s p f dim) (storedBytes a.s p f x.format dim)
  | .spilled slot _ =>
    match lookup? (getFlash a.s p).spill slot with
    | none => .error (placeFail a stPoisoned 1)
    | some x =>
      -- DESIGN CHOICE (log entry 25): the spec has no row for the read of a spilled page by an APPEND, which happens at once
      if !slotServes a.s p slot then .error (placeFail a stTier 1)
      else if x.fill = 16 ∧ (crc32c x.bytes).toNat ≠ x.check then .error (placeFail a stCheck 1)
      else take x.format (cutStored dim x.words x.bytes) x.bytes

/-- Tokens of one promoted segment from the side part (R195, R196). -/
def sideTokens (dim : Nat) (side : List (BitVec 16)) (c : Nat) : List Token :=
  (List.range c).map fun j =>
    { k := bytes16 ((side.drop (j * dim)).take dim), ks := [], v := bytes16 ((side.drop (c * dim + j * dim)).take dim), vs := [] }

/-- Byte places of token j in a page image: K elements, K scales, V elements, V scales (R75). -/
def tokenWrites (p : Nat) (f : FrameAddr) (fmt dim j : Nat) (t : Token) : List Effect :=
  let (e, x) := tokenShape fmt dim
  let v := 16 * (e + x)
  [.frameBytes p f (j * e) t.k, .frameBytes p f (16 * e + j * x) t.ks, .frameBytes p f (v + j * e) t.v, .frameBytes p f (v + 16 * e + j * x) t.vs]

/-- Puts the written frame of a page into its head list and stages its commit (R97, R98, R209, R210). A page that is sealed as CB16 needs the coding table. -/
def placePage (a : PlaceAcc) (d : Desc) (p seq l h page fill fmt : Nat) (promote fresh : Bool) (f : FrameAddr) (writes : List Effect) :
    Except PlaceFail PlaceAcc :=
  match (if fmt = 0x30 then needWords a p f else .ok a : Except PlaceFail PlaceAcc) with
  | .error e => .error e
  | .ok a =>
    let hl := { a.r.head l h with entries := assign (a.r.head l h).entries page (.frame f promote), length := 16 * page + fill }
    match takeLists a.base p hl (a.r.pointer page) with
    | none => .error (stExhausted, 2, a.exhausted + 1)
    | some (hl, bs, base) =>
      let waits := fmt == 0x30 && fill == 16 && ((codingSlot d.defaults).map d.slotWaits).getD false
      .ok { a with base := base, r := a.r.setHead l h hl, blocks := bs ++ a.blocks, waits := a.waits || waits
                   eff := a.eff ++ writes ++ [.fillFrame p f fill fmt a.r.dim seq fresh d.codingTable]
                   sealed_ := a.sealed_ + (if fill = 16 then 1 else 0) }

/-- Writes `new` tokens at token offset k of page `page` of a head list (R97, R99, R197). The five conditions for a write in place are judged when the row
runs, and a page counts as stored as CB16 for DONE_PROMOTED when its segment came promoted or when this PLACE makes it a promoted page; codes appended to a
page that was promoted before, or to a sequence of CB16, do not count (DESIGN CHOICE, log entry 25). -/
def appendPage (a : PlaceAcc) (d : Desc) (p seq l h page k : Nat) (side : Option (List Token)) (codes : List Token) : Except PlaceFail PlaceAcc :=
  let r := a.r
  let old : Option Entry := if k = 0 then none else lookup? (r.head l h).entries page
  let wasPromoted := match old with
    | some (.frame _ pr) => pr
    | some (.spilled _ pr) => pr
    | none => false
  let promote : Bool := r.format != 0x30 && (wasPromoted || side.isSome)
  let fmt := if promote then 0x30 else r.format
  let toks : List Token := match side with
    | some ts => ts
    | none => if promote then codes.map fun (t : Token) => t.promote r.format r.dim else codes
  let a := { a with promoted := a.promoted || side.isSome || (promote && !wasPromoted) }
  let inPlace : Option FrameAddr := match old with
    | some (.frame f _) =>
      let x := getFrame a.s f
      if x.state = .open_ ∧ x.refs = 1 ∧ x.pins = 0 ∧ x.writer = seq ∧ x.fill = k ∧ x.format = fmt then some f else none
    | _ => none
  match inPlace with
  | some f => placePage a d p seq l h page (k + toks.length) fmt promote false f
      ((List.range toks.length).flatMap fun j => tokenWrites p f fmt r.dim (k + j) (toks.getD j ⟨[], [], [], []⟩))
  | none =>
    match (match old with
      | some e => copyPage a d p e k
      | none => .ok (fmt, [], false) : Except PlaceFail (Nat × List Token × Bool)) with
    | .error e => .error e
    | .ok (oldFmt, oldToks, waits) =>
      match newFrame { a with waits := a.waits || waits } d.defaults p seq l h page (if promote then r.promoteCls else r.cls) (k == 0) with
      | .error e => .error e
      | .ok (f, a) =>
        let kept := if oldFmt = fmt then oldToks else oldToks.map fun (t : Token) => t.promote oldFmt r.dim
        let len := if fmt = 0x30 then 64 * r.dim else pageBytes fmt r.dim
        let img := ((kept ++ toks).mapIdx fun j t => (j, t)).foldl (fun img (x : Nat × Token) => putToken fmt r.dim img x.1 x.2) (List.replicate len 0#8)
        -- the page that is being copied may itself have been the one that was spilled
        let drop := if k = 0 then [] else match lookup? (a.r.head l h).entries page with
          | some (.frame g _) => [Effect.refDown g]
          | some (.spilled slot _) => [Effect.freeSpill p slot]
          | none => []
        placePage a d p seq l h page (k + toks.length) fmt promote true f (.frameBytes p f 0 img :: drop)

/-- Appends the tokens of one head, page by page; `n` bounds the pages. -/
def appendHead (d : Desc) (p seq l h : Nat) (attr : Option PlaceAttr) (headOff : Nat) : Nat → PlaceAcc → List Token → Nat → Except PlaceFail PlaceAcc
  | 0, a, _, _ => .ok a
  | n + 1, a, toks, seg =>
    if toks.isEmpty then .ok a
    else
      let len := (a.r.head l h).length
      let k := len % 16
      let c := min (16 - k) toks.length
      let side := attr.bind fun x => ((x.promoted.findIdx? fun y => y == 17 * headOff + seg).map fun j => sideTokens a.r.dim (x.side.getD j []) c)
      match appendPage a d p seq l h (len / 16) k side (toks.take c) with
      | .error e => .error e
      | .ok a => appendHead d p seq l h attr headOff n a (toks.drop c) (seg + 1)

/-- The end of a PLACE that cannot be performed: the exhaustions that it met are counted all the same (R105). -/
def placeRefuse (p : Nat) (d : Desc) (s0 : State) (e : PlaceFail) : State × Desc :=
  (if e.2.2 = 0 then s0 else count s0 (ownerOf p) 2 e.2.2, d.finish e.1 e.2.1)

/-- A refusal of a PLACE before any frame was sought; running out of something counts as one exhaustion (R105). -/
def placeEnd (p : Nat) (d : Desc) (s0 : State) (st det : Nat) : State × Desc :=
  placeRefuse p d s0 (st, det, if st = stExhausted then 1 else 0)

/-- The state after a PLACE that was performed, with what it took, and its descriptor with what it stages and holds; spilled pages are written on their
drives (R104, R395). -/
def placeDone (p : Nat) (d : Desc) (a : PlaceAcc) (es : List Effect) : State × Desc :=
  let s := if a.exhausted = 0 then a.base else count a.base (ownerOf p) 2 a.exhausted
  let pages := a.eff.filterMap fun e => match e with
    | .putSpill _ slot x => some (slot, x)
    | _ => none
  (pages.foldl (fun s x => addSpill s d (slotPieces s p x.1 x.2.gen x.2.bytes.length x.2.bytes (slotTableUnits (pages ++ (getFlash s p).spill) x.1))) s,
   { d with effects := d.effects ++ a.eff ++ es, frames := a.frames ++ d.frames, reused := a.reused ++ d.reused, blocks := a.blocks ++ d.blocks })

/-- APPEND as it runs with its lock held (R93, R96, R97, R195 to R197). It waits while a CB16 page that it copies or seals needs a decode table that is still
being loaded (R210, R216). -/
def appendRun (p : Nat) (d : Desc) (s0 : State) : State × Desc :=
  let s := stagedView s0 d
  let fail := placeEnd p d s0
  let tokens := fld (d.w 3) 8 0
  let heads := fld (d.w 2) 57 52 + 1
  let first := fld (d.w 2) 51 46
  let layer := fld (d.w 2) 39 32
  match d.input with
  | none => fail stMalformed 3
  | some tile =>
    if tokens = 0 ∨ tokens > 256 then fail stMalformed 1
    else match visibleSeq s p d.seq with
    | none => fail stNotOwner 1
    | some r =>
      let fmt := r.format
      let b := tokenBytes fmt r.dim
      if layer ≥ r.layers ∨ first + heads > r.nheads then fail stMalformed 1
      else if tile.bytes.length ≠ heads * tokens * b then fail stMalformed 3
      else if (match tile.attr with
        | none => false
        | some x => x.format ≠ fmt || x.dim ≠ r.dimCode || x.layer ≠ layer || x.firstHead ≠ first || x.heads ≠ heads || x.tokens ≠ tokens
            || (List.range heads).any fun i => (r.head layer (first + i)).length ≠ x.startToken) then fail stMalformed 1
      else if r.frozen then fail stNotOwner 2
      else if (List.range heads).any fun i => (r.head layer (first + i)).length + tokens > 16777216 then fail stExhausted 5
      else
        let run := (List.range heads).foldl (fun (a : Except PlaceFail PlaceAcc) i => match a with
          | .error e => .error e
          | .ok a =>
            let part := slice tile.bytes (i * tokens * b) (tokens * b)
            let toks := (List.range tokens).map fun j => tokenAt fmt r.dim tokens part j
            appendHead d p d.seq layer (first + i) tile.attr i 18 a toks 0) (.ok { base := s0, s := s, r := r })
        match run with
        | .error e => placeRefuse p d s0 e
        | .ok a =>
          if a.waits then (s0, d)
          else
            let (r', trims) := (List.range heads).foldl (fun (x : SeqRec × List Effect) i =>
              let (hl, es) := trimHead p x.1 (x.1.head layer (first + i))
              (x.1.setHead layer (first + i) hl, x.2 ++ es)) (a.r, [])
            let r' := (r'.recount).touch
            let (st, det) := placeStatus a.causes a.promoted
            placeDone p (d.finish st det (some (r'.head layer first).length) (some (a.taken * 2 ^ 32 + a.sealed_))) a (trims ++ [.putSeq p d.seq r'])

/-- APPEND (R93, R97 to R105, R195 to R197). -/
def Machine.execAppend (q : Nat) (i : BitVec 32) (s : State) : Answer :=
  placeRun s q i 2 [maskOf 57 46 ||| maskOf 39 0, maskOf 8 0] appendRun

/-! ### The other operations on sequences -/

/-- Sequences that other descriptors in flight are about to add to a partition. -/
def seqsComing (s : State) (d : Desc) (p : Nat) : Nat :=
  ((s.flight.filter fun x => !(x.ctx == d.ctx && x.index == d.index)).flatMap fun x => x.effects.filter fun e => match e with
    | .putSeq q seq _ => q == p && (getSeq s p seq).isNone
    | _ => false).length

/-- Whether the sequence table of a partition has no room for one more (R82): those that other descriptors are adding take their room. -/
def tableFull (s : State) (d : Desc) (p : Nat) : Bool := decide ((getPart s p).seqs.length + seqsComing s d p ≥ seqCapacity s p)

/-- CREATE (R92, R95). -/
def createRun (p : Nat) (d : Desc) (s0 : State) : State × Desc :=
  let s := stagedView s0 d
  let w := d.w 3
  let fail := placeEnd p d s0
  let r : SeqRec := { params := w, headTable := ⟨0, 0, 0⟩, heads := [] }
  let fmt := r.format
  if (dimOf r.dimCode).isNone ∨ r.window > 1048576 ∨ ((pageFmt fmt).isNone ∧ fmt ≠ 0x30) then fail stMalformed 1
  else if d.idTaken ∨ (getSeq s p d.seq).isSome ∨ (lookup? s.fabric.spreads (p, d.seq)).isSome then fail stMalformed 2
  else if classRows s p r.cls < pageRows fmt r.dim ∨ (fmt ≠ 0x30 ∧ classRows s p r.promoteCls < pageRows 0x30 r.dim) then fail stMalformed 4
  else if tableFull s d p then fail stExhausted 3
  else match takeTables s0 p (r.layers * r.nheads) with
    | none => fail stExhausted 2
    | some (h, bs, s1) =>
      let r := { r with headTable := h, heads := List.replicate (r.layers * r.nheads) {} }
      (s1, { d.finish stDone 0 (some 0) (some 0) with effects := d.effects ++ [.putSeq p d.seq r], blocks := bs ++ d.blocks })

def Machine.execCreate (q : Nat) (i : BitVec 32) (s : State) : Answer :=
  placeRun s q i 1 [maskOf 31 0, maskOf 63 39 ||| maskOf 31 24 ||| maskOf 20 0] createRun

/-- TRUNCATE of one head list (R95): its new form, the drops staged, the pages dropped. -/
def truncateHead (s : State) (p : Nat) (r : SeqRec) (h : HeadList) (n : Nat) : HeadList × List Effect × Nat :=
  if h.length ≤ n then (h, [], 0)
  else
    let gone := h.entries.filter fun e => decide (16 * e.1 ≥ n)
    let h1 := { h with length := n, entries := h.entries.filter fun e => decide (16 * e.1 < n) }
    let drops := gone.map fun e => match e.2 with
      | .frame f _ => Effect.refDown f
      | .spilled k _ => Effect.freeSpill p k
    let lower := match lookup? h1.entries (n / 16) with
      | some (.frame f _) =>
        let x := getFrame s f
        if n % 16 ≠ 0 ∧ x.state = .open_ ∧ x.refs = 1 ∧ x.fill > n % 16 then [Effect.lowerFill f (n % 16)] else []
      | _ => []
    let (h2, trims) := trimHead p r h1
    (h2, drops ++ lower ++ trims, gone.length)

/-- TRUNCATE (R94, R95, R109). -/
def truncateRun (p : Nat) (d : Desc) (s0 : State) : State × Desc :=
  let s := stagedView s0 d
  let n := fld (d.w 3) 24 0
  match visibleSeq s p d.seq with
  | none => (s0, d.finish stNotOwner 1)
  | some r =>
    if r.frozen then (s0, d.finish stNotOwner 2)
    else if r.heads.any fun h => n < 16 * h.firstPage then (s0, d.finish stMalformed 1)
    else
      let xs := r.heads.map fun h => truncateHead s p r h n
      let r' := (({ r with heads := xs.map (·.1) } : SeqRec).recount).touch
      (s0, { d.finish stDone 0 (some r'.maxLength) (some (xs.map fun x => x.2.2).sum) with effects := d.effects ++ xs.flatMap (fun x => x.2.1) ++ [.putSeq p d.seq r'] })

def Machine.execTruncate (q : Nat) (i : BitVec 32) (s : State) : Answer := placeRun s q i 3 [maskOf 31 0, maskOf 24 0] truncateRun

/-- The list blocks that a shared prefix needs in each head list of a FORK (R84). -/
def forkHeads (p : Nat) (r : SeqRec) (shared : Nat) : List HeadList → State → Option (List HeadList × List Blocks × State)
  | [], s => some ([], [], s)
  | h :: rest, s =>
    let n := ceilDiv shared 16
    let h0 : HeadList := { length := shared, entries := h.entries.filter fun e => decide (e.1 < n) }
    let ptrs := (h0.entries.map fun e => r.pointer e.1).eraseDups
    let one := ptrs.foldl (fun (x : Option (HeadList × List Blocks × State)) ptr => match x with
      | none => none
      | some (h, bs, s) => (takeLists s p h ptr).map fun y => (y.1, y.2.1 ++ bs, y.2.2)) (some (h0, [], s))
    match one with
    | none => none
    | some (h1, bs, s) =>
      match forkHeads p r shared rest s with
      | none => none
      | some (hs, bs', s) => some (h1 :: hs, bs ++ bs', s)

/-- FORK (R94, R95, R109). -/
def forkRun (p : Nat) (d : Desc) (s0 : State) : State × Desc :=
  let s := stagedView s0 d
  let shared := fld (d.w 4) 24 0
  let fail := placeEnd p d s0
  match visibleSeq s p (fld (d.w 3) 31 0) with
  | none => fail stNotOwner 1
  | some src =>
    if shared = 0 ∨ shared > src.minLength then fail stMalformed 1
    else if d.idTaken ∨ (getSeq s p d.seq).isSome ∨ (lookup? s.fabric.spreads (p, d.seq)).isSome then fail stMalformed 2
    else if src.window ≠ 0 then fail stMalformed 4
    else
      let n := ceilDiv shared 16
      if src.heads.any fun h => h.entries.any fun e => decide (e.1 < n) && match e.2 with
        | .spilled _ _ => true
        | .frame _ _ => false then fail stTier 0x11
      else if tableFull s d p then fail stExhausted 3
      else match takeTables s0 p (src.layers * src.nheads) with
        | none => fail stExhausted 2
        | some (t, bs, s1) =>
          let r : SeqRec := { params := setFld src.params 20 0 0, headTable := t, heads := [] }
          match forkHeads p r shared src.heads s1 with
          | none => fail stExhausted 2
          | some (hs, bs', s1) =>
            let r := ({ r with heads := hs } : SeqRec).recount
            let ups := hs.flatMap fun h => h.entries.filterMap fun e => match e.2 with
              | .frame f _ => some (Effect.refUp f)
              | .spilled _ _ => none
            (s1, { d.finish stDone 0 (some (n * hs.length)) (some 0) with effects := d.effects ++ ups ++ [.putSeq p d.seq r], blocks := bs ++ bs' ++ d.blocks })

def Machine.execFork (q : Nat) (i : BitVec 32) (s : State) : Answer := placeRun s q i 4 [maskOf 31 0, maskOf 31 0, maskOf 24 0] forkRun

/-- FREE (R95, R109): a sequence on offer is not freed (R275). -/
def freeRun (p : Nat) (d : Desc) (s0 : State) : State × Desc :=
  match visibleSeq (stagedView s0 d) p d.seq with
  | none => (s0, d.finish stNotOwner 1)
  | some r =>
    if r.lease ≠ .held then (s0, d.finish stNotOwner 5)
    else (s0, { d.finish stDone 0 (some (r.heads.map fun h => h.entries.length).sum) (some 0) with effects := d.effects ++ [.delSeq p d.seq] })

def Machine.execPlaceFree (q : Nat) (i : BitVec 32) (s : State) : Answer := placeRun s q i 5 [maskOf 31 0] freeRun

/-- FREEZE and THAW (R95, R109): a sequence on offer is not thawed (R275). -/
def freezeRun (frozen : Bool) (p : Nat) (d : Desc) (s0 : State) : State × Desc :=
  let s := stagedView s0 d
  match visibleSeq s p d.seq with
  | none => (s0, d.finish stNotOwner 1)
  | some r =>
    if r.lease ≠ .held ∧ !frozen then (s0, d.finish stNotOwner 5)
    else if r.frozen = frozen then (s0, d.finish stDone 0 (some 0) (some 0))
    else (s0, { d.finish stDone 0 (some 0) (some 0) with effects := d.effects ++ [.putSeq p d.seq { r.touch with frozen := frozen }] })

def Machine.execFreeze (q : Nat) (i : BitVec 32) (s : State) : Answer := placeRun s q i 6 [maskOf 31 0] (freezeRun true)

def Machine.execThaw (q : Nat) (i : BitVec 32) (s : State) : Answer := placeRun s q i 7 [maskOf 31 0] (freezeRun false)

/-- The spilled pages of a sequence: layer, head, page, slot. -/
def spilledPages (r : SeqRec) : List (Nat × Nat × Nat × Nat) :=
  (r.heads.mapIdx fun k h => h.entries.filterMap fun e => match e.2 with
    | .spilled slot _ => some (k / r.nheads, k % r.nheads, e.1, slot)
    | .frame _ _ => none).flatten

/-- The end of a RESTORE, once every spilled page has been read (R95, R96, R104, R395): each takes a frame of its class, a CB16 page one of PROMOTE_CLASS; where the
PROMOTE_CLASS of a CB16 sequence has too few rows, which R92 allows, one of the sequence's own class (log entry 25). One of a FROZEN sequence is
performed too and raises VERSION: R109 has no row for it (DESIGN CHOICE, log entry 25). -/
def restoreEnd (p : Nat) (d : Desc) (s0 : State) : State × Desc :=
  let s := stagedView s0 d
  match visibleSeq s p d.seq with
  | none => placeEnd p d s0 stNotOwner 1
  | some r =>
    let run := (spilledPages r).foldl (fun (a : Except PlaceFail PlaceAcc) x =>
      match a, lookup? (getFlash s p).spill x.2.2.2 with
      | .error e, _ => .error e
      | .ok a, none => .error (placeFail a stTier 5)
      | .ok a, some sp =>
        let promote := sp.format == 0x30 && r.format != 0x30
        match newFrame a d.defaults p d.seq x.1 x.2.1 x.2.2.1 (if sp.format = 0x30 ∧ pageRows 0x30 r.dim ≤ classRows s p r.promoteCls then r.promoteCls else r.cls) false with
        | .error e => .error e
        | .ok (f, a) =>
          match (if sp.format = 0x30 then needWords a p f else .ok a : Except PlaceFail PlaceAcc) with
          | .error e => .error e
          | .ok a =>
            let hl := a.r.head x.1 x.2.1
            .ok { a with r := a.r.setHead x.1 x.2.1 { hl with entries := assign hl.entries x.2.2.1 (.frame f promote) }
                         eff := a.eff ++ [.restoreFrame p f sp, .freeSpill p x.2.2.2], promoted := a.promoted || promote }) (.ok { base := s0, s := s, r := r })
    match run with
    | .error e => placeRefuse p d s0 e
    | .ok a =>
      let (st, det) := placeStatus a.causes a.promoted
      placeDone p (d.finish st det (some (spilledPages r).length) (some 0)) a [.putSeq p d.seq (a.r.recount).touch]

/-- RESTORE (R95): the spilled pages are read on the tier path first (R396), then written into frames. -/
def restoreRun (p : Nat) (d : Desc) (s0 : State) : State × Desc :=
  match visibleSeq (stagedView s0 d) p d.seq with
  | none => (s0, d.finish stNotOwner 1)
  | some r =>
    let ps := spilledPages r
    if ps.isEmpty then restoreEnd p d s0
    else if ps.any fun x => !slotServes s0 p x.2.2.2 then (s0, d.finish stTier 1)
    else
      let s1 := (List.range ps.length).foldl (fun s k => tierOp s d p k ((ps.getD k (0, 0, 0, 0)).2.2.2)) s0
      (s1, { d with phase := .running, walked := true, pages := ps.map fun x => { page := x.2.2.1, frame := none, spill := some x.2.2.2, route := .tier } })

def Machine.execRestore (q : Nat) (i : BitVec 32) (s : State) : Answer := placeRun s q i 8 [maskOf 31 0] restoreRun

/-- QUERY (R94, R95): MIN_LENGTH and VERSION, and the record at DEST when RECORD is set. -/
def queryRun (p : Nat) (d : Desc) (s0 : State) : State × Desc :=
  match visibleSeq (stagedView s0 d) p d.seq with
  | none => (s0, d.finish stNotOwner 1)
  | some r =>
    let done := { d.finish stDone 0 (some r.minLength) (some r.version) with effects := d.effects }
    if !bit (d.w 3) 0 then (s0, done)
    else
      let bs := ofWords (r.record s0 p d.seq)
      match locate s0 d.owner (d.w 4) (occupied s0 d.owner (d.w 4) 64) true with
      | .error e => (s0, d.finish e.1 e.2)
      | .ok loc => match writable s0 loc with
        | some e => (s0, d.finish e.1 e.2)
        | none => (writeLoc s0 d 4 loc bs, done)

def Machine.execQuery (q : Nat) (i : BitVec 32) (s : State) : Answer := placeRun s q i 9 [maskOf 31 0, maskOf 0 0, allBits] queryRun

/-! ### Extents of the page store -/

/-- Claims an extent for the descriptor that changes its role, until it commits or ends: to others it is in node use meanwhile. -/
def claimExtent (s : State) (d : Desc) (e : Nat) (cls : Option Nat) : State := modExt s e fun x => { x with claim := some (d.ctx, d.index, cls) }

/-- ADD_EXTENT (R78, R81, R87, R94 to R96). The control blocks of the frame table must be there now, and are taken at the commit. -/
def addExtentRun (p : Nat) (d : Desc) (s0 : State) : State × Desc :=
  let s := stagedView s0 d
  let page := bit (d.w 2) 12
  let cls := fld (d.w 2) 15 13
  let fail := placeEnd p d s0
  match ownExt s p (fld (d.w 2) 10 0) with
  | none => fail stNotOwner 3
  | some e =>
    let x := getExt s e
    if x.use ≠ .none ∨ x.kind = .awaiting ∨ x.clearing ∨ pchFenced s (e / 3) ∨ claimedElse s d e then fail stNotOwner 3
    else if page then
      if x.kind ≠ .openRows then fail stMalformed 4
      else
        let n := sliceFrames (classRows s p cls)
        let table := ceilDiv (16 * 16 * n) 4096
        if (takeBlocks s0 p table).isNone then fail stExhausted 2
        else (claimExtent s0 d e (some cls), { d.finish stDone 0 (some (16 * n)) (some 0) with effects := d.effects ++ [.addExtent p e (.page cls) table] })
    else if x.kind ≠ .guarded then fail stMalformed 4
    else (claimExtent s0 d e none, { d.finish stDone 0 (some 61440) (some 0) with effects := d.effects ++ [.addExtent p e .control 0] })

def Machine.execAddExtent (q : Nat) (i : BitVec 32) (s : State) : Answer :=
  placeRun s q i 0x10 [maskOf 15 12 ||| maskOf 10 0] addExtentRun

/-- Frames of a page extent that are not FREE (R96). -/
def framesUsed (s : State) (p e : Nat) : Nat :=
  let n := sliceFrames (classRows s p ((extClass s e).getD 0))
  ((List.range 16).map fun b =>
    let u := 16 * (e / 3) + b
    if (getUnit s u).fenced || pchFenced s (e / 3) then n
    else (s.frames.filter fun f => f.1.ext == e && f.1.pair == b && f.2.state != .free).length).sum

/-- REMOVE_EXTENT (R94 to R96). -/
def removeExtentRun (p : Nat) (d : Desc) (s0 : State) : State × Desc :=
  let s := stagedView s0 d
  match ownExt s p (fld (d.w 2) 10 0) with
  | none => (s0, d.finish stNotOwner 3)
  | some e =>
    let used := match (getExt s e).use with
      | .page _ => some (framesUsed s p e)
      | .control => some (blocksUsed s p e)
      | _ => none
    match (if claimedElse s d e then none else used) with
    | none => (s0, d.finish stNotOwner 3)
    | some 0 => (claimExtent s0 d e none, { d.finish stDone 0 (some 0) (some 0) with effects := d.effects ++ [.removeExtent p e] })
    | some n => (s0, d.finish stNotOwner 3 (some n))

def Machine.execRemoveExtent (q : Nat) (i : BitVec 32) (s : State) : Answer := placeRun s q i 0x11 [maskOf 10 0] removeExtentRun

/-! ### Locks and pins -/

/-- SEQUENCE_LOCK_GRANT (R88): a waiting descriptor is granted its locks when they are free, in dispatch order. -/
def Machine.execSequenceLockGrant (q : Nat) (i : BitVec 32) (s : State) : Answer :=
  match findDesc s q i with
  | some d => if !d.locked && lockFree s d then .next (putDesc s { d with heldLocks := d.locks }) else .next s
  | none => .next s

/-- PIN_RELEASE (R90, R102): a reader has finished with the frame of its page number `page`, counted in the order of its walk; pages that
a core reads stay pinned until the commit, since a fenced core's pieces are redone from their first page (R170). -/
def Machine.execPinRelease (q : Nat) (i : BitVec 32) (page : Nat) (s : State) : Answer :=
  match findDesc s q i with
  | some d =>
    match d.pages[page]? with
    | some w =>
      match w.frame with
      | some f =>
        if w.pinned && w.state == .done && w.route == .bank then
          .next (unpinFrame (putDesc s { d with pages := d.pages.modify page fun w => { w with pinned := false } }) f)
        else .next s
      | none => .next s
    | none => .next s
  | none => .next s

end Sys2Proof
end

