-- ==== Sys2Proof/Machine/Ingest.lean ====
section
/-!
DEFINITION. The INGEST station (R184 to R200, R219 to R224): QUANTISE with its policies and placement tile, MEASURE, the CB16 coding operations, and the
4 KiB units of the coder lanes.
-/
namespace Sys2Proof

open Machine (State Fault Refusal)

/-- Gives a computed result to the coder lanes: the descriptor is done with its last 4 KiB unit (R224); one that failed is done at once. -/
def coderUnits (s : State) (d : Desc) (n : Nat) : State :=
  if validStatus d.status && n != 0 then putDesc s { d with phase := .running, unitsLeft := ceilDiv n 4096 } else putDesc s d

/-! ### Quotients and codes (R187, R188, R191) -/

/-- The format of input elements (SRC) and their bytes. -/
def srcFmt (k : Nat) : FloatFmt × Nat := if k = 0 then (bf16, 2) else if k = 1 then (fp32, 4) else (fp16, 2)

/-- A quotient x / s in FP32 with one rounding (R187). -/
def quotient (x s : FVal) : FVal := fp32.value (fp32.round (x.div s))

/-- |v| as a fraction; an infinity takes a numerator past every finite FP32 value. -/
def FVal.frac : FVal → Nat × Nat
  | .fin _ n d => (n, d)
  | .inf _ => (2 ^ 200, 1)
  | .nan => (0, 1)

def FVal.neg? : FVal → Bool
  | .fin b _ _ => b
  | .inf b => b
  | .nan => false

/-- The code of a value in an element kind, saturated, and whether it passed the largest finite value (R187, R191). -/
def elemCode (f : ElemFmt) (v : FVal) : Nat × Bool :=
  let (n, d) := v.frac
  match f with
  | .float f =>
    let tooBig := match f.value f.maxCode with
      | .fin _ mn md => decide (mn * d < n * md)
      | _ => false
    let sign := b2n v.neg? * 2 ^ (f.eb + f.mb)
    (sign + (if tooBig then f.maxCode else min f.maxCode (f.roundMag n d)), tooBig)
  | .int b u =>
    let top := 2 ^ (b - 1) - 1
    let (n, d) := if u < 0 then (n * 2 ^ (-u).toNat, d) else (n, d)
    let m := min top (rne n d)
    (if v.neg? ∧ m ≠ 0 then 2 ^ b - m else m, decide (top * d < n))

/-- e_max of an MX element kind (R188). -/
def emaxOf (fmt : Nat) : Int := if fmt = 0x20 then 8 else if fmt = 0x21 then 2 else if fmt = 0x22 then 2 else 0

/-- The shared exponent of a block of quotients (R188). -/
def mxExp (fmt : Nat) (qs : List FVal) : Int :=
  let a := qs.foldl (fun a q => if a.absLt q then q else a) (.fin false 0 1)
  match a with
  | .fin _ n d => if n = 0 then -127 else max (-127) (min 127 (ilog n d - emaxOf fmt))
  | _ => 127

/-- Cuts a list into blocks of 32. -/
def blocks32 : Nat → List FVal → List (List FVal)
  | 0, _ => []
  | n + 1, xs => xs.take 32 :: blocks32 n (xs.drop 32)

/-- The codes of one token's quotients with their block scale bytes, and which elements overflowed. -/
def tokenCodes (fmt bits : Nat) (f : ElemFmt) (mx : Bool) (qs : List FVal) : List Byte × List Byte × List Bool × List Nat :=
  if mx then
    let bs := blocks32 (qs.length / 32) qs
    let es := bs.map (mxExp fmt)
    let codes := (bs.zip es).flatMap fun x => x.1.map fun q => (elemCode f (q.mul (scale2 false 1 (-x.2)))).1
    (pack bits codes, es.map fun e => BitVec.ofNat 8 (e + 127).toNat, qs.map fun _ => false, codes)
  else
    let xs := qs.map (elemCode f)
    (pack bits (xs.map (·.1)), [], xs.map (·.2), xs.map (·.1))

/-- Whether a code's element value is zero. -/
def zeroCode (f : ElemFmt) (c : Nat) : Bool := (f.value c).isZero

/-! ### QUANTISE -/

/-- One quantised part (K or V of one token): element bytes, scale bytes, overflows, underflows, BF16 quotients. -/
structure QPart where
  elems : List Byte
  scales : List Byte
  tooBig : Nat
  under : Nat
  side : List (BitVec 16)
  bad : Bool

/-- A quotient as a BF16 word of the side part, saturated to the largest finite value (R174, R195). -/
def sideWord (q : FVal) : BitVec 16 :=
  let c := bf16.roundMag q.frac.1 q.frac.2
  BitVec.ofNat 16 (b2n q.neg? * 2 ^ 15 + min c bf16.maxCode)

/-- Quantises one part of one token against its scales. -/
def quantPart (fmt : Nat) (xs scales : List FVal) : QPart :=
  match pageFmt fmt with
  | none => { elems := [], scales := [], tooBig := 0, under := 0, side := [], bad := true }
  | some (bits, f, mx) =>
    let qs := (xs.zip scales).map fun x => quotient x.1 x.2
    let (es, ss, tooBig, codes) := tokenCodes fmt bits f mx qs
    { elems := es, scales := ss, tooBig := (tooBig.filter id).length
      under := ((xs.zip codes).filter fun x => !x.1.isZero && zeroCode f x.2).length
      side := qs.map sideWord, bad := xs.any fun x => !x.isFin }

/-- ZERO_LIMIT of a scale table (R179). -/
def zeroLimit (t : Option ScaleTable) : Nat := ((t.map fun t => (t.image.getD 0 0#8).toNat).getD 0)

/-- The segments of a head: first token and count of each (R190). -/
def segments (start tokens : Nat) : List (Nat × Nat) :=
  let k := start % 16
  (List.range (ceilDiv (k + tokens) 16)).map fun j =>
    let a := if j = 0 then 0 else 16 * j - k
    (a, min tokens (16 * (j + 1) - k) - a)

/-- A judged segment: its index, whether it holds a NaN or infinity, overflows, underflows; its overflowed elements and its side words. -/
structure Segment where
  index : Nat
  bad : Bool
  tooBig : Bool
  under : Bool
  count : Nat
  side : List (BitVec 16)

/-- Judges one segment of a head from its quantised tokens (R190 to R193). -/
def judgeSegment (limit dim idx : Nat) (ks vs : List QPart) : Segment :=
  let sum := fun (f : QPart → Nat) (xs : List QPart) => (xs.map f).sum
  let low := fun (xs : List QPart) => limit != 0 && decide (sum (·.under) xs * 256 > limit * (xs.length * dim))
  { index := idx, bad := (ks ++ vs).any (·.bad), tooBig := decide (sum (·.tooBig) (ks ++ vs) ≠ 0), under := low ks || low vs
    count := sum (·.tooBig) (ks ++ vs), side := ks.flatMap (·.side) ++ vs.flatMap (·.side) }

/-- The scale table of a slot for a descriptor (R177, R178): none is 1.0 everywhere; an error is MALFORMED 0x0001. -/
def scaleOf (d : Desc) (slot layer heads dimCode : Nat) : Except (Nat × Nat) (Option ScaleTable) :=
  if slot = 0xFF then .ok none
  else if slot > 0x0F then .error (stMalformed, 1)
  else match lookup? d.scale slot with
    | none => .error (stMalformed, 1)
    | some t => if layer ≥ t.layers ∨ heads > t.heads ∨ t.dim ≠ dimCode then .error (stMalformed, 1) else .ok (some t)

/-- QUANTISE as the station runs it (R185 to R196, R199). -/
def quantiseRun (rd : HostRead) (d : Desc) (s : State) : State :=
  let w := d.w 2
  let fmt := fld w 63 56
  let tokens := fld w 48 40
  let heads := fld w 25 20 + 1
  let first := fld w 31 26
  let start := fld (d.w 3) 24 0
  let (sf, eb) := srcFmt (fld w 55 54)
  if !bodyOk d.cur [~~~(maskOf 19 8), maskOf 24 0, allBits, allBits] ∨ (pageFmt fmt).isNone ∨ fld w 55 54 = 3 ∨ fld w 51 49 > 4 ∨ tokens = 0 ∨ tokens > 256
      ∨ first + heads > 64 then endDesc s d (stMalformed, 1)
  else
    let dim := (dimOf (fld w 51 49)).getD 64
    match scaleOf d (fld w 7 0) (fld w 39 32) (first + heads) (fld w 51 49) with
    | .error e => endDesc s d e
    | .ok table =>
      if inputBreach d 4 ∨ inputSize d ≠ heads * tokens * 2 * dim * eb then endDesc s d (stMalformed, 3)
      else if heads * tokens * tokenBytes fmt dim > 65536 then endDesc s d (stMalformed, 4)
      else match tileInput s d 4 rd with
      | .error e => endDesc s d e
      | .ok bs =>
        let part := fun (i v j : Nat) (sc : List FVal) =>
          quantPart fmt ((unpack (8 * eb) (slice bs (((2 * i + v) * tokens + j) * dim * eb) (dim * eb)) dim).map sf.value) sc
        let parts := (List.range heads).map fun i =>
          let (ks, vs) := headScales table (fld w 39 32) (first + i) dim
          ((List.range tokens).map fun j => part i 0 j ks, (List.range tokens).map fun j => part i 1 j vs)
        let segs := (parts.mapIdx fun i x => (segments start tokens).mapIdx fun j a =>
          judgeSegment (zeroLimit table) dim (17 * i + j) ((x.1.drop a.1).take a.2) ((x.2.drop a.1).take a.2)).flatten
        let out := segs.filter fun g => g.tooBig || g.under
        let policy := if fld w 53 52 = 0 then fld d.defaults 5 4 else fld w 53 52
        match segs.find? (·.bad) with
        | some g => putDesc s (d.finish stScale 3 (some g.index))
        | none =>
          match (if policy = 3 then out.head? else none) with
          | some g => putDesc s (d.finish stScale (if g.tooBig then 1 else 2) (some g.index))
          | none =>
            let marked := if policy = 2 then out else []
            let side := (marked.map fun g => 2 * g.side.length).sum
            if side > 65536 then endDesc s d (stMalformed, 4)
            -- the side part takes its space from the owner's staging share, and waits for it (R195, log entry 14)
            else if side ≠ 0 ∧ heldBytes s d.owner + side > stagingBytes s d.owner then s
            else
              let main := parts.flatMap fun x =>
                x.1.flatMap (·.elems) ++ x.1.flatMap (·.scales) ++ x.2.flatMap (·.elems) ++ x.2.flatMap (·.scales)
              match writeOut s d 5 main with
              | .error e => endDesc s d e
              | .ok s =>
                let tooBig := (segs.map (·.count)).sum
                let under := (segs.filter (·.under)).length
                let attr : PlaceAttr := { format := fmt, dim := fld w 51 49, layer := fld w 39 32, firstHead := first, heads := heads, tokens := tokens
                                          startToken := start, promoted := marked.map (·.index), side := marked.map (·.side) }
                let es := [(5, out.length), (6, tooBig), (7, marked.length), (8, under)].filterMap fun x =>
                  if x.2 = 0 then none else some (Effect.count d.owner x.1 x.2)
                coderUnits s { d.finish (if marked.isEmpty then stDone else stPromoted) 0 (some out.length)
                    (some (satField 32 tooBig * 2 ^ 32 + satField 16 marked.length * 2 ^ 16 + satField 16 under)) with
                    output := some { bytes := main, attr := some attr }, effects := d.effects ++ es } (inputSize d)

/-- QUANTISE (R184 to R196, R199). -/
def Machine.execQuantise (q : Nat) (i : BitVec 32) (rd : HostRead) (s : State) : Answer :=
  stationRun s q i 0x01 0x01 [4, 5] (quantiseRun rd)

/-! ### MEASURE -/

/-- The FP32 code of the largest magnitude among elements (R198), and whether one of them is NaN. -/
def maxAbs (f : FloatFmt) (codes : List Nat) : Nat × Bool :=
  codes.foldl (fun a c => match f.value c with
    | .nan => (a.1, true)
    | v => (max a.1 (fp32.round v % 2 ^ 31), a.2)) (0, false)

/-- The FP32 words of channels: a channel with a NaN takes a NaN code that the spec does not give. -/
def channelWords : List (Nat × Bool) → State → List Nat × State
  | [], s => ([], s)
  | (c, bad) :: r, s =>
    let (v, s) := if bad then draw s else (0, s)
    let (ws, s) := channelWords r s
    ((if bad then nanCode v else c) :: ws, s)

/-- MEASURE as the station runs it (R198, R199). -/
def measureRun (rd : HostRead) (d : Desc) (s : State) : State :=
  let w := d.w 2
  let tokens := fld w 48 40
  let heads := fld w 25 20 + 1
  let (sf, eb) := srcFmt (fld w 55 54)
  if !bodyOk d.cur [maskOf 55 54 ||| maskOf 51 20, maskOf 24 0, allBits, allBits] ∨ fld w 55 54 = 3 ∨ fld w 51 49 > 4 ∨ tokens = 0 ∨ tokens > 256
      ∨ fld w 31 26 + heads > 64 then endDesc s d (stMalformed, 1)
  else
    let dim := (dimOf (fld w 51 49)).getD 64
    if inputBreach d 4 ∨ inputSize d ≠ heads * tokens * 2 * dim * eb then endDesc s d (stMalformed, 3)
    else if heads * 8 * dim > 65536 then endDesc s d (stMalformed, 4)
    else match tileInput s d 4 rd with
    | .error e => endDesc s d e
    | .ok bs =>
      let cs := (List.range heads).flatMap fun i => (List.range 2).flatMap fun v => (List.range dim).map fun c =>
        maxAbs sf ((List.range tokens).map fun j => ofLe (slice bs ((((2 * i + v) * tokens + j) * dim + c) * eb) eb))
      let (ws, s) := channelWords cs s
      let out := ws.flatMap (leBytes 4)
      match writeOut s d 5 out with
      | .error e => endDesc s d e
      | .ok s => coderUnits s { d.finish stDone 0 with output := some { bytes := out } } (inputSize d)

/-- MEASURE (R198). -/
def Machine.execMeasure (q : Nat) (i : BitVec 32) (rd : HostRead) (s : State) : Answer :=
  stationRun s q i 0x01 0x02 [4, 5] (measureRun rd)

/-! ### The coding operations (R219 to R223) -/

/-- A stream-form block: its header and body (R207). -/
def streamBlock (slot version : Nat) (coded : Bool) (raw body : List Byte) (index : Nat) : List Byte :=
  ofWords [put 63 63 (b2n coded) ||| put 62 62 (if coded then slot else 0) ||| put 47 32 (if coded then version else 0)
             ||| put 28 16 raw.length ||| put 12 0 body.length,
           put 63 32 (crc32c raw).toNat ||| put 31 0 index] ++ body

/-- The stream form of bytes, coded with a table, with its counts of raw and of coded blocks (R202, R221). -/
def encodeStream (slot : Nat) (t : DecodeTable) (index : Nat) (bs : List Byte) : List Byte × Nat × Nat :=
  let xs := (blocksOf bs).mapIdx fun k raw =>
    let (coded, body) := codeBlock (some t.lengths) raw
    (streamBlock slot t.version coded raw body (index + k), coded)
  (xs.flatMap (·.1), (xs.filter fun x => !x.2).length, (xs.filter (·.2)).length)

/-- Reserved bits and words of the coding operations' body, SLOT being reserved but for ENCODE (R220). -/
def codingBodyOk (d : Desc) (encode : Bool) : Bool := bodyOk d.cur [if encode then maskOf 32 0 else maskOf 31 0, allBits, allBits]

/-- ENCODE as the station runs it (R221, R223). -/
def encodeRun (rd : HostRead) (d : Desc) (s : State) : State :=
  let slot := fld (d.w 2) 32 32
  let n := inputSize d
  if !codingBodyOk d true then endDesc s d (stMalformed, 1)
  -- the first use of a slot waits for the load that was pending at dispatch (R216)
  else if d.slotWaits slot then s
  else match d.tables.getD slot none with
  | none => endDesc s d (stMalformed, 1)
  | some t =>
    if inputBreach d 3 ∨ n < 2 ∨ n > 65280 ∨ n % 2 = 1 then endDesc s d (stMalformed, 3)
    else match tileInput s d 3 rd with
    | .error e => endDesc s d e
    | .ok bs =>
      let (out, raw, coded) := encodeStream slot t (fld (d.w 2) 31 0) bs
      match writeOut s d 4 out with
      | .error e => endDesc s d e
      | .ok s =>
        let hold := if coded = 0 then none else (d.owner.part?).map fun p => (p, slot)
        coderUnits s { d.finish stDone 0 (some out.length) (some (raw * 2 ^ 32 + coded)) with output := some { bytes := out, tableHold := hold } } n

/-- ENCODE (R221). -/
def Machine.execEncode (q : Nat) (i : BitVec 32) (rd : HostRead) (s : State) : Answer :=
  stationRun s q i 0x01 0x10 [3, 4] (encodeRun rd)

/-- The blocks of a stream by header and body, up to where a header or its body runs past the end; and whether the bytes end at a block's end (R222). -/
def parseStream : Nat → List Byte → List (Word × Word × List Byte) × Bool
  | 0, bs => ([], bs.isEmpty)
  | n + 1, bs =>
    if bs.isEmpty then ([], true)
    else
      let h := toWords 2 bs
      let len := fld (wd h 0) 12 0
      if bs.length < 16 + len then ([], false)
      else
        let (r, whole) := parseStream n (bs.drop (16 + len))
        ((wd h 0, wd h 1, (bs.drop 16).take len) :: r, whole)

/-- Whether a block header parses (R207, R223). -/
def headerOk (b0 : Word) (body : List Byte) : Bool :=
  let raw := fld b0 28 16
  b0 &&& ~~~(maskOf 63 62 ||| maskOf 47 32 ||| maskOf 28 16 ||| maskOf 12 0) == 0#64 && decide (2 ≤ raw ∧ raw ≤ 4096) && raw % 2 == 0
    && (bit b0 63 || (body.length == raw && !bit b0 62 && fld b0 47 32 == 0))

/-- The uncoded bytes of one block, or the status and DETAIL of R223. -/
def openBlock (tables : List (Option DecodeTable)) (index : Nat) (b : Word × Word × List Byte) : Except (Nat × Nat) (List Byte) :=
  let (b0, b1, body) := b
  if !headerOk b0 body then .error (stCheck, 4)
  else if fld b1 31 0 ≠ index % 2 ^ 32 then .error (stCheck, 3)
  else
    let raw : Except (Nat × Nat) (List Byte) :=
      if bit b0 63 then
        match tables.getD (fld b0 62 62) none with
        | some t =>
          if t.version ≠ fld b0 47 32 then .error (stRetired, 1)
          else match decodeBody t.lengths (fld b0 28 16 / 2) body with
            | some (x, tight) => if tight then .ok x else .error (stCheck, 4)
            | none => .error (stCheck, 4)
        | none => .error (stRetired, 1)
      else .ok body
    match raw with
    | .error e => .error e
    | .ok x => if (crc32c x).toNat = fld b1 63 32 then .ok x else .error (stCheck, 2)

/-- The uncoded bytes of blocks from INDEX `first` on, block by block, or the failure with the position of its block: that of the block itself, or an output
that grows past `most` bytes with it (R222, R223). -/
def openStream (tables : List (Option DecodeTable)) (first most : Nat) : Nat → List (Word × Word × List Byte) → Except (Nat × Nat × Nat) (List Byte)
  | _, [] => .ok []
  | k, b :: r =>
    match openBlock tables (first + k) b with
    | .error e => .error (e.1, e.2, k)
    | .ok x =>
      if x.length > most then .error (stMalformed, 4, k)
      else match openStream tables first (most - x.length) (k + 1) r with
        | .error e => .error e
        | .ok y => .ok (x ++ y)

/-- Whether the decoding of a stream must wait for a table that is being loaded: its first coded block that names the slot comes before any failure (R216). -/
def streamWaits (d : Desc) (first most : Nat) (blocks : List (Word × Word × List Byte)) : Bool :=
  match blocks.findIdx? fun b => headerOk b.1 b.2.2 && bit b.1 63 && d.slotWaits (fld b.1 62 62) with
  | some n => (openStream d.tables first most 0 (blocks.take n)).isOk
  | none => false

/-- DECODE and CHECK as the station runs them (R222, R223). The blocks are judged in order, and an input that does not end at a block's end fails at the block
that is cut off. A failure leaves the output undefined: free bytes at OUT, as many as the blocks before it and the failing one's header give. -/
def decodeRun (check : Bool) (rd : HostRead) (d : Desc) (s : State) : State :=
  let n := inputSize d
  let first := fld (d.w 2) 31 0
  let most := if check then 2 ^ 64 else 65536
  if !codingBodyOk d false then endDesc s d (stMalformed, 1)
  else if inputBreach d 3 ∨ n = 0 then endDesc s d (stMalformed, 3)
  else match tileInput s d 3 rd with
  | .error e => endDesc s d e
  | .ok bs =>
    let (blocks, whole) := parseStream (bs.length / 16 + 1) bs
    if streamWaits d first most blocks then s
    else
      let total := (blocks.map fun b => fld b.1 28 16).sum
      match (match openStream d.tables first most 0 blocks with
        | .error e => .error e
        | .ok out => if whole then .ok out else .error (stMalformed, 3, blocks.length) : Except (Nat × Nat × Nat) (List Byte)) with
      | .error (st, det, k) =>
        if check then putDesc s (d.finish st det (some k))
        else
          let (x, s) := drawBytes (min 65536 ((blocks.take (k + 1)).map fun b => fld b.1 28 16).sum) s
          match writeOut s d 4 x with
          | .error e => endDesc s d e
          | .ok s => putDesc s (d.finish st det (some k))
      | .ok out =>
        -- a CHECK has no output: its OUT is judged and takes no bytes (log entry 28)
        match writeOut s d 4 (if check then [] else out) with
        | .error e => endDesc s d e
        | .ok s =>
          if check then coderUnits s (d.finish stDone 0 (some blocks.length)) total
          else coderUnits s { d.finish stDone 0 (some out.length) (some blocks.length) with output := some { bytes := out } } total

/-- DECODE (R222). -/
def Machine.execDecode (q : Nat) (i : BitVec 32) (rd : HostRead) (s : State) : Answer :=
  stationRun s q i 0x01 0x11 [3, 4] (decodeRun false rd)

/-- CHECK (R222). -/
def Machine.execIngestCheck (q : Nat) (i : BitVec 32) (rd : HostRead) (s : State) : Answer :=
  stationRun s q i 0x01 0x12 [3, 4] (decodeRun true rd)

/-- HISTOGRAM as the station runs it (R219, R221, R223). -/
def histogramRun (rd : HostRead) (d : Desc) (s : State) : State :=
  let n := inputSize d
  if !codingBodyOk d false then endDesc s d (stMalformed, 1)
  else if inputBreach d 3 ∨ n < 2 ∨ n > 65536 ∨ n % 2 = 1 then endDesc s d (stMalformed, 3)
  else match tileInput s d 3 rd with
  | .error e => endDesc s d e
  | .ok bs =>
    let es := (unpack 16 bs (n / 2)).map fun w => (w >>> 7) % 256
    let counts := es.foldl (fun (acc : List Nat) e => acc.modify e (· + 1)) (List.replicate 256 0)
    let out := counts.flatMap (leBytes 4)
    match writeOut s d 4 out with
    | .error e => endDesc s d e
    | .ok s => coderUnits s { d.finish stDone 0 (some (n / 2)) with output := some { bytes := out } } n

/-- HISTOGRAM (R219). -/
def Machine.execHistogram (q : Nat) (i : BitVec 32) (rd : HostRead) (s : State) : Answer :=
  stationRun s q i 0x01 0x13 [3, 4] (histogramRun rd)

/-! ### The lanes -/

/-- Whether a descriptor has 4 KiB units waiting for the coder lanes. -/
def Desc.hasUnits (d : Desc) : Bool := d.phase == .running && d.unitsLeft != 0 && (d.opcode == 0x01 || d.opcode == 0x07 || d.opcode == 0x08)

/-- INGEST_UNIT (R224, R391, R412): a free lane takes the next unit, by the weighted turn of owners and then in dispatch order; in Absorb mode the units
of step-state traffic go first. An INGEST descriptor or a LIFT OBJECT has finished with its last unit. -/
def Machine.execIngestUnit (lane : Nat) (s : State) : Answer :=
  let tier := fun (d : Desc) => d.hasUnits && d.opcode != 0x01
  let wants := if s.power.mode = .absorb ∧ s.flight.any tier then tier else Desc.hasUnits
  if lane ≥ 16 then .next s
  else match turn s s.turns.ingest (ownersWith s wants) with
  | none => .next s
  | some (k, taken) =>
    match s.flight.find? fun d => d.owner.idx == k && wants d with
    | none => .next s
    | some d =>
      let n := d.unitsLeft - 1
      .next { putDesc s { d with unitsLeft := n, unitsDone := d.unitsDone + 1, phase := if n = 0 ∧ (d.opcode = 0x01 ∨ (d.opcode = 0x08 ∧ d.subop = 1)) then .finished else d.phase } with
              turns := { s.turns with ingest := taken } }

end Sys2Proof
end

