-- ==== Sys2Proof/Machine/Attention.lean ====
section
/-!
DEFINITION. Attention as SWEEP and FOLD share it: the ranges of query vectors (R121), the query fold (R122), the walk of a head list (R89), partials and their
empty form (R120, R127), and the end of a page that cannot be used (R131, R132, R160). Partials have no value that the spec states bit for bit (R167): they are
free within the bounds of R128 and R166 (log entry 12).
-/
namespace Sys2Proof

open Machine (State Fault Refusal)

/-- The tokens that vector v attends to: first and limit, E being the effective end (R121). -/
def vecRange (a : AttnReq) (e v : Nat) : Nat × Nat :=
  let l := e - (a.qcount / a.group - 1 - v / a.group)
  (if a.window = 0 then a.first else max a.first (l - a.window), l)

/-- Whether a page holds a token that a vector attends to; `len` is the LENGTH of the head list. -/
def pageMeets (a : AttnReq) (e len page v : Nat) : Bool :=
  let (b, l) := vecRange a e v
  decide (max (16 * page) b < min (16 * page + 16) (min l len))

/-- Vectors of a piece that a page serves (R156). -/
def pageVectors (a : AttnReq) (e len page : Nat) : Nat := ((List.range a.qcount).filter (pageMeets a e len page)).length

/-- Source format and bytes of a FOLD's query elements (QFMT). -/
def queryFmt (k : Nat) : FloatFmt × Nat := if k = 0 then (bf16, 2) else if k = 1 then (fp32, 4) else (fp16, 2)

/-- The query elements folded with the key scales and the softmax scale, as FP32 codes: steps 1 and 2 of R122 (R153). -/
def foldQuery32 (src : FloatFmt) (eb dim qcount softmax : Nat) (scales : List FVal) (bs : List Byte) : List Nat :=
  let prods := scales.map fun k => fp32.value (fp32.round (k.mul (fp32.value softmax)))
  (List.range qcount).flatMap fun v =>
    ((unpack (8 * eb) (slice bs (v * dim * eb) (dim * eb)) dim).zip prods).map fun x => fp32.round ((src.value x.1).mul x.2)

/-- The folded query q′ as BF16 bytes: step 3 of R122. -/
def foldQuery (src : FloatFmt) (eb dim qcount softmax : Nat) (scales : List FVal) (bs : List Byte) : List Byte :=
  (foldQuery32 src eb dim qcount softmax scales bs).flatMap fun c => leBytes 2 (bf16.round (fp32.value c))

/-- What an ATTEND or EXACT holds of its query while it runs: the FP32 codes. The reference of R128 takes them; the units take their rounding to BF16. -/
def heldQuery (codes : List Nat) : List Byte := codes.flatMap (leBytes 4)

/-- The tokens that vector v of a request takes from those of the pages read that are asked for (R121, R127); e and len as in `pageMeets`. -/
def vectorTokens (d : Desc) (a : AttnReq) (entry : Nat) (of : PageWork → Bool) (v : Nat) (q : List Nat) : List VecToken :=
  let (e, len) := d.ranges.getD entry (0, 0)
  let (b, l) := vecRange a e v
  d.pages.flatMap fun w =>
    if w.entry ≠ entry ∨ !of w then []
    else match w.data with
      | none => []
      | some (fmt, image) => ((List.range 16).filter fun j => decide (b ≤ 16 * w.page + j ∧ 16 * w.page + j < min l len)).map fun j =>
          vecToken q fmt d.dim (tokenAt fmt d.dim 16 image j)

/-- The terms of the merges across cores in a vector of a FOLD (R165, R166): ⌈log2⌉ of the number of cores that had a page with tokens of it. -/
def mergeTerms (d : Desc) (a : AttnReq) (entry v : Nat) : Nat :=
  let (e, len) := d.ranges.getD entry (0, 0)
  ceilLog2 ((d.pages.filter fun w => w.entry == entry && pageMeets a e len w.page v).map (·.core)).eraseDups.length

/-- The scale table that a descriptor took for a slot. -/
def tableTaken (d : Desc) (slot : Nat) : Option ScaleTable := if slot = 0xFF then none else lookup? d.scale slot

/-- Partials in order, each from the tokens of its vector, with the terms of the merges that formed it (R166) and its rescale. -/
def partialsOf (dim : Nat) (bf : Bool) : List (List VecToken × Nat × Option (List FVal)) → State → List Byte × State
  | [], s => ([], s)
  | (ts, extra, rescale) :: r, s =>
    let (p, s) := attnPartial extra dim 0xFF800000 ts s
    let (x, s) := partialOut rescale bf p s
    let (y, s) := partialsOf dim bf r s
    (x ++ y, s)

/-! ### The walk (R89) -/

/-- The pages of a head list that a walk covers, with their entries: none when an entry that must be valid is not (R89). -/
def walkPages (r : SeqRec) (a : AttnReq) : Option (List (Nat × Entry)) :=
  let h := r.head a.layer a.head
  let e := if a.last = 0 then h.length else a.last
  let lo := max h.firstPage (a.first / 16)
  let hi := ceilDiv (min e h.length) 16
  ((List.range hi).filter fun k => decide (lo ≤ k)).foldr (fun k acc => match acc, lookup? h.entries k with
    | some l, some x => some ((k, x) :: l)
    | _, _ => none) (some [])

/-- How a page of a walk is read (R129, R153). `core` is the core of a FOLD's page; a SWEEP's pages stay in their banks where they can. -/
def pageWork (s : State) (entry page : Nat) (x : Entry) (sweep : Bool) (core : Option Nat) : PageWork :=
  match x with
  | .spilled k _ => { entry := entry, page := page, frame := none, spill := some k, route := .tier, core := core }
  | .frame f pr =>
    let fenced := frameFenced s f
    { entry := entry, page := page, frame := some f, promoted := pr, fenced := fenced, unit := f.unit, hub := f.pch / 160
      route := if sweep && !pr && !fenced then .bank else .links, pinned := true, core := core }

/-- How many of the pages that a descriptor walks lie in frame `f`. -/
def pagesIn (xs : List (Nat × Entry)) (f : FrameAddr) : Nat :=
  (xs.filter fun x => match x.2 with
    | .frame g _ => g == f
    | .spilled _ _ => false).length

/-- Whether the walks of a descriptor must wait: with a pin for every page emitted, a frame's count would pass 65,535 (R89). -/
def pinsFull (s : State) (xs : List (Nat × Entry)) : Bool :=
  xs.any fun x => match x.2 with
    | .frame f _ => decide (65535 < (getFrame s f).pins + pagesIn xs f)
    | .spilled _ _ => false

/-- Whether a page lies in a fenced pseudo-channel (R518). -/
def entryGone (s : State) (x : Entry) : Bool :=
  match x with
  | .frame f _ => pchFenced s f.pch
  | .spilled _ _ => false

/-- Takes the pins of a walk's pages. -/
def takePins (s : State) (ws : List PageWork) : State :=
  ws.foldl (fun s w => match w.frame with
    | some f => pinFrame s f
    | none => s) s

/-- The shared locks of a reader end with its walk (R88). -/
def Desc.dropShared (d : Desc) : Desc :=
  { d with locks := d.locks.filter fun x => x.2.2, heldLocks := d.heldLocks.filter fun x => x.2.2 }

end Sys2Proof
end

