-- ==== Sys2Proof/Machine/Fabric.lean ====
section
/-!
DEFINITION. The fabric service (R255 to R281, R317, R520 to R525): attention across nodes at homes and members, spread records, handoffs of sequences, and the notice of
a lost node.
-/
namespace Sys2Proof

open Machine (State Fault Refusal)

/-! ### The shards of a request (R255 to R257, R264) -/

/-- Fields of a shard entry (R256). -/
def shEndpoint (e : List Word) : Nat := fld (wd e 0) 63 48
def shSeq (e : List Word) : Nat := fld (wd e 0) 31 0
def shEpoch (e : List Word) : Nat := fld (wd e 1) 63 32
def shFirstLayer (e : List Word) : Nat := fld (wd e 1) 31 24
def shLastLayer (e : List Word) : Nat := fld (wd e 1) 23 16
def shFirstHead (e : List Word) : Nat := fld (wd e 1) 15 10
def shHeads (e : List Word) : Nat := fld (wd e 1) 9 4 + 1
def shEnd (e : List Word) : Nat := fld (wd e 2) 56 32
def shBase (e : List Word) : Nat := fld (wd e 2) 24 0

/-- A local sequence as a spread of one shard (R255). -/
def localSpread (s : State) (p seq : Nat) (r : SeqRec) : SpreadRec :=
  { layers := r.layers, heads := r.nheads, dim := r.dimCode
    shards := [[put 63 48 (ownEndpoint s p) ||| put 31 0 seq, put 63 32 r.epoch ||| put 23 16 (r.layers - 1) ||| put 9 4 (r.nheads - 1), 0#64, 0#64]] }

/-- The record that a request names, or the status, DETAIL and RESULT0 with which its home refuses it (R255, R258, R264, R268). A spread record has no lease of its
own, so that EPOCH is checked for a local sequence only (log entry 19). A sequence in ESCROW is hidden, so that a request for it gets NOT_OWNER 1 until the COMMIT_ACK, and
only then NOT_OWNER 4 (DESIGN CHOICE, log entry 33). -/
def homeRecord (s : State) (p : Nat) (m : FabMsg) : Except (Nat × Nat × Option Nat) SpreadRec :=
  let record : Option SpreadRec := match m.was with
    | some x => x
    | none => lookup? s.fabric.spreads (p, m.seq)
  match record with
  | some r => .ok r
  | none =>
    match (if m.was.isSome then none else visibleSeq s p m.seq) with
    | some r =>
      if m.epoch ≠ 0 ∧ m.epoch ≠ r.epoch then .error (stNotOwner, 4, some r.epoch)
      else if seqLost s p r then .error (stPoisoned, 1, some 0)
      else .ok (localSpread s p m.seq r)
    | none =>
      match lookup? s.fabric.handedOn (p, m.seq) with
      | some e => if m.epoch ≠ 0 then .error (stNotOwner, 4, some e) else .error (stNotOwner, 1, none)
      | none => .error (stNotOwner, 1, none)

/-- Whether a request body keeps its reserved bits 0 and its values legal (R262, R263). -/
def bodyLegal (m : FabMsg) : Bool :=
  let clear := fun (w mask : Word) => w &&& mask == 0#64
  clear (m.b 0) (maskOf 63 57 ||| maskOf 21 16) && clear (m.b 1) (maskOf 63 57 ||| maskOf 31 25) && clear (m.b 2) (maskOf 31 25)
    && clear (m.b 3) (maskOf 54 54 ||| maskOf 47 0) && fld (m.b 3) 53 52 != 3 && scaleLegal (fld (m.b 2) 63 32)
    && (m.typ != 1 || fld (m.b 3) 51 48 == 0)

/-- Bytes of a query element by QFMT. -/
def FabMsg.eb (m : FabMsg) : Nat := if bit (m.b 0) 55 then 4 else 2

/-- What R263 refuses, given the record. -/
def homeCheck (m : FabMsg) (r : SpreadRec) : Option (Nat × Nat) :=
  let dim := (dimOf r.dim).getD 64
  if m.qph % m.qgroup ≠ 0 ∨ m.layer ≥ r.layers ∨ m.firstHead + m.heads > r.heads then some (stMalformed, 1)
  else if m.payload.length ≠ 32 + m.heads * m.qph * dim * m.eb then some (stMalformed, 3)
  else if m.heads * m.qph * partialBytes dim (bit (m.b 0) 56) > 65536 then some (stMalformed, 4)
  else if fld (m.b 1) 56 32 = 0 ∧ (m.qph / m.qgroup > 1 ∨ fld (m.b 2) 24 0 ≠ 0) then some (stMalformed, 9)
  else none

/-- The work of the shards that a request touches (R264). -/
def shardWork (m : FabMsg) (r : SpreadRec) : List ShardWork :=
  let first := fld (m.b 1) 24 0
  let last := fld (m.b 1) 56 32
  (r.shards.mapIdx fun k e => (k, e)).filterMap fun (x : Nat × List Word) =>
    let (k, e) := x
    let lo := max m.firstHead (shFirstHead e)
    let hi := min (m.firstHead + m.heads) (shFirstHead e + shHeads e)
    if m.layer < shFirstLayer e ∨ shLastLayer e < m.layer ∨ hi ≤ lo ∨ (shEnd e ≠ 0 ∧ shEnd e ≤ first) ∨ (last ≠ 0 ∧ last ≤ shBase e) then none
    else some { shard := k, endpoint := shEndpoint e, seq := shSeq e, epoch := shEpoch e, firstHead := lo, heads := hi - lo
                from_ := first - shBase e, to_ := if last = 0 then 0 else last - shBase e }

/-- The MEMBER_REQ of a shard (R264, R271): its heads' folded queries in BF16, its own range, no scale. -/
def memberMsg (h : HomeReq) (w : ShardWork) (folded : List Byte) (replyTo : Nat) (tree : Option Nat) : FabMsg :=
  let m := h.msg
  let n := m.qph * 2 * h.dim
  let b0 := put 54 48 (m.qph - 1) ||| put 47 42 (m.qgroup - 1) ||| put 41 36 w.firstHead ||| put 35 30 (w.heads - 1) ||| put 29 22 m.layer ||| put 15 0 (fld (m.b 0) 15 0)
  let b3 := put 63 56 0xFF ||| (match tree with
    | some k => put 51 51 1 ||| put 50 48 (k - 1)
    | none => 0#64)
  { typ := 3, replyTo := replyTo, reqId := h.num % 2 ^ 32, epoch := w.epoch, seq := w.seq
    payload := ofWords [b0, put 56 32 w.to_ ||| put 24 0 w.from_, put 63 32 0x3F800000 ||| put 24 0 (fld (m.b 2) 24 0), b3]
      ++ slice folded ((w.firstHead - m.firstHead) * n) (w.heads * n) }

/-! ### Members (R265) -/

/-- Whether an ATTEND can express a member's request for a head (R118, R119, R265). -/
def attendFits (s : State) (m : FabMsg) (r : SeqRec) : Bool :=
  decide (m.qph ≤ 16) && decide (m.qgroup ≤ 8) && r.format != 0x30 && decide (hubCount s * m.qph * partialBytes r.dim false ≤ 65536)

/-- The words of a member's local descriptor for a head: an ATTEND, or an EXACT. -/
def memberWords (m : FabMsg) (head : Nat) (attend : Bool) : List Word :=
  let w0 := put 63 56 (if attend then 3 else 4) ||| put 55 52 1 ||| put 51 51 1 ||| put 47 32 (if attend then 1 else 2)
  let who := put 45 40 head ||| put 39 32 m.layer ||| put 31 0 m.seq
  if attend then [w0, 0#64, put 55 55 (b2n (bit (m.b 0) 55)) ||| put 54 51 (m.qph - 1) ||| put 50 48 (m.qgroup - 1) ||| who, m.b 1, m.b 2, 0#64, 0#64, put 63 56 0xFF]
  else [w0, 0#64, put 57 56 (b2n (bit (m.b 0) 55)) ||| put 55 48 (m.qph - 1) ||| who, m.b 1, m.b 2, 0#64, 0#64, put 63 56 0xFF ||| put 45 40 (m.qgroup - 1)]

/-- A member takes up a request (R265): refused when it does not hold the sequence at EPOCH (0 is not checked: R524), else one local descriptor for each head. A lease
that is OFFERED goes on serving (R272, R275). -/
def startMember (s : State) (p : Nat) (m : FabMsg) (home : Option (Nat × Nat)) : State :=
  let num := s.fabric.nextNum
  let req : MemberReq := { part := p, num := num, msg := m, home := home, work := [], groupWanted := if m.leader then m.treeSize else 0 }
  let s := { s with fabric := { s.fabric with nextNum := num + 1 } }
  match (visibleSeq s p m.seq).filter fun r => m.epoch == 0 || r.epoch == m.epoch with
  | none => memberReply s req stNotOwner 4 0 []
  | some r =>
    if !bodyLegal m then memberReply s req stMalformed 1 0 []
    else if m.payload.length ≠ 32 + m.heads * m.qph * r.dim * m.eb then memberReply s req stMalformed 3 0 []
    else
      let attend := attendFits s m r
      let n := m.qph * r.dim * m.eb
      let index := fun (j : Nat) => BitVec.ofNat 32 (2 * j)
      let s := { s with fabric := { s.fabric with members := s.fabric.members ++ [{ req with work := (List.range m.heads).map index }] } }
      (List.range m.heads).foldl (fun s j =>
        let ws := memberWords m (m.firstHead + j) attend
        let d : Desc := { owner := ownerOf p, slot := none, ctx := 16384 + num, index := index j, words := ws, cur := ws, time := s.time
                          input := some { bytes := slice m.payload (32 + j * n) n } }
        let (s, d) := takeLocks s (holdTables s p { d with defaults := (getOwner s (ownerOf p)).defaults })
        { s with flight := s.flight ++ [d] }) s

/-- Stops a member's request with its local descriptors. -/
def stopMember (s : State) (m : MemberReq) : State :=
  let s := dropMember s m.num
  (s.flight.filter fun d => d.ctx == 16384 + m.num && d.slot.isNone).foldl (fun s d => match findDesc s d.ctx d.index with
    | some d => stopDesc s d stAborted 0
    | none => s) s

/-- MEMBER_REQ (R265, R524). -/
def Machine.execMemberReq (p : Fin 16) (t : Nat) (s : State) : Answer :=
  match fabFirst s p.val 3 with
  | none => .next s
  | some m => if !memActive s then .next s
    else .next (withSequencer (atTime s t) m.reqId fun s => startMember (fabTake s p.val 3) p.val m none)

/-! ### Homes (R262 to R271) -/

/-- Groups of eight in shard-index order (R270). -/
def groupsOf : Nat → List (List ShardWork) → List (List (List ShardWork))
  | 0, _ => []
  | n + 1, xs => if xs.isEmpty then [] else xs.take 8 :: groupsOf n (xs.drop 8)

/-- The shadow entries that a member's requests go to as well (R524). -/
def shadowsOf (s : State) (p endpoint : Nat) : List Nat :=
  positions (fun (e : Shadow) => e.enable && (e.state == .shadowing || e.state == .qualified) && e.primary == endpoint) (getOwner s (ownerOf p)).shadows

/-- A unit of a home's work as it goes out: the shard, to whom its member replies, and the size of the group that it leads. -/
structure Dispatch where
  work : ShardWork
  replyTo : Nat
  tree : Option Nat := none
  /-- Its reply reaches the home by itself, so that a shadow can be compared with it. -/
  alone : Bool := true
deriving DecidableEq, Repr

/-- How the work of a request goes out (R270, R271): what each member is told, the groups that a leader answers for, and the leader of the home's own shards. -/
def planHome (own : Nat) (algo : Nat) (work : List ShardWork) : List Dispatch × List (Nat × List Nat) × Option Nat :=
  let ps := participants own work
  if algo = 2 ∨ (algo = 0 ∧ ps.length > 16) then
    let gs := groupsOf ps.length ps
    let one := fun (g : List (List ShardWork)) =>
      match (g.head?).bind (·.head?) with
      | none => []
      | some l => g.flatten.map fun w =>
        if l.endpoint = own then { work := w, replyTo := own : Dispatch }
        else if g.length = 1 then { work := w, replyTo := own, tree := some 1 }
        else if w.shard = l.shard then { work := w, replyTo := own, tree := some g.length, alone := false }
        else { work := w, replyTo := l.endpoint, alone := false }
    let led := gs.filterMap fun g => match (g.head?).bind (·.head?) with
      | none => none
      | some l => if l.endpoint = own ∨ g.length = 1 then none else some (l, g.flatten)
    let ownTo := (led.find? fun x => x.2.any fun w => w.endpoint == own).map fun x => x.1.endpoint
    (gs.flatMap one, led.map fun x => (x.1.shard, x.2.map (·.shard)), ownTo)
  else (work.map fun w => { work := w, replyTo := own : Dispatch }, [], none)

/-- Serves an ATTEND_REQ (R263, R264): it is judged, its queries are folded, the members get their requests, and the home's own shards start. -/
def serveHome (s : State) (p : Nat) (m : FabMsg) : State :=
  if m.payload.length < 32 then fabReply s p m 2 stMalformed 3 none none []
  else if !bodyLegal m then fabReply s p m 2 stMalformed 1 none none []
  else match homeRecord s p m with
  | .error (st, det, r0) => fabReply s p m 2 st det r0 none []
  | .ok r =>
    match homeCheck m r with
    | some e => fabReply s p m 2 e.1 e.2 none none []
    | none =>
      let dim := (dimOf r.dim).getD 64
      let asker : Desc := { owner := ownerOf p, slot := none, ctx := 0, index := 0, words := [], cur := [], scale := (getPart s p).scales }
      match scaleOf asker (fld (m.b 3) 63 56) m.layer (m.firstHead + m.heads) r.dim with
      | .error e => fabReply s p m 2 e.1 e.2 none none []
      | .ok table =>
        let own := ownEndpoint s p
        let n := m.qph * dim * m.eb
        let folded := (List.range m.heads).flatMap fun j =>
          foldQuery (if m.eb = 4 then fp32 else bf16) m.eb dim m.qph (fld (m.b 2) 63 32) (headScales table m.layer (m.firstHead + j) dim).1 (slice m.payload (32 + j * n) n)
        let work := shardWork m r
        let (plan, groups, ownTo) := planHome own (fld (m.b 3) 53 52) work
        let num := s.fabric.nextNum
        let us := if fld (m.b 0) 15 0 = 0 then 1000 else fld (m.b 0) 15 0
        let awaited := plan.filter fun x => x.work.endpoint != own && x.replyTo == own
        let shadows := plan.flatMap fun x => if x.alone then (shadowsOf s p x.work.endpoint).map fun k => (k, x.work.shard, (none : Option (List Byte))) else []
        let h : HomeReq := { part := p, num := num, msg := m, dim := dim, deadline := s.time + 1000 * us, work := work, groups := groups
                             outstanding := awaited.map (·.work.shard), ownLeft := (work.filter fun w => w.endpoint == own).map (·.shard), ownTo := ownTo
                             scale := table, shadows := shadows }
        let s := { s with fabric := { s.fabric with nextNum := num + 1, homes := s.fabric.homes ++ [h] } }
        if work.isEmpty then homeFinish s h
        else
          let s := plan.foldl (fun s x =>
            let s := if x.work.endpoint = own then s else fabTo s p x.work.endpoint (memberMsg h x.work folded x.replyTo x.tree)
            (shadowsOf s p x.work.endpoint).foldl (fun s k =>
              let e := (getOwner s (ownerOf p)).shadows.getD k {}
              let s := fabTo s p e.shadow { memberMsg h x.work folded own none with epoch := 0 }
              -- a member of a group does not answer the home by itself: nothing is compared
              if x.alone then s
              else
                let s := { s with fabric := { s.fabric with stale := s.fabric.stale ++ [(p, num % 2 ^ 32, 1)] } }
                shadowCount s p k none) s) s
          -- a connection that is in ERROR already has taken no request; the lowest shard that fails names the failure (R268)
          let gone := fun (w : ShardWork) => match (fabricQp s p w.endpoint).bind (getQp s) with
            | some q => q.state == .error
            | none => false
          let first := ((work.filter fun w => w.endpoint != own && h.pending.contains w.shard && gone w).head?).map (·.shard)
          let before := fun (k : Nat) => match first with
            | some n => decide (k < n)
            | none => true
          let s := (plan.filter fun x => x.work.endpoint == own && before x.work.shard).foldl (fun s x => match (getHome s num).filter fun h => !h.answered with
            | some _ => startMember s p (memberMsg h x.work folded own none) (some (num, x.work.shard))
            | none => s) s
          match (getHome s num).filter fun h => !h.answered with
          | some h => homeLost s h gone
          | none => s

/-- ATTEND_REQ (R255, R262 to R271, R524), on the Carillon sequencer that REQUEST_ID names. -/
def Machine.execAttendReq (p : Fin 16) (t : Nat) (s : State) : Answer :=
  match fabFirst s p.val 1 with
  | none => .next s
  | some m => if !memActive s then .next s
    else .next (withSequencer (atTime s t) m.reqId fun s => serveHome (fabTake s p.val 1) p.val m)

/-! ### Replies -/

/-- What an arriving MEMBER_REPLY answers. -/
inductive ReplyFor where
  | shard (num shard : Nat)
  | shadow (num entry shard : Nat)
  | leader (num : Nat)
  | stale
deriving DecidableEq, Repr

/-- The request that a MEMBER_REPLY answers (R264, R271, R524): a home's shard, a home's shadow, a leader's group, or a request that has been answered. -/
def replyFor (s : State) (p : Nat) (r : FabMsg) : Option ReplyFor :=
  let peer := (getQp s r.qpn).map (·.peer)
  let homes := s.fabric.homes.filter fun h => h.part == p && h.num % 2 ^ 32 == r.reqId
  match homes.findSome? fun h => (h.work.find? fun w => h.outstanding.contains w.shard && some w.endpoint == peer && w.seq == r.seq).map fun w => ReplyFor.shard h.num w.shard with
  | some x => some x
  | none =>
    match homes.findSome? fun h => (h.shadows.find? fun (x : Nat × Nat × Option (List Byte)) => x.2.2.isNone
        && some ((getOwner s (ownerOf p)).shadows.getD x.1 {}).shadow == peer && (h.work.any fun w => w.shard == x.2.1 && w.seq == r.seq)).map fun x => ReplyFor.shadow h.num x.1 x.2.1 with
    | some x => some x
    | none =>
      match s.fabric.members.find? fun m => m.part == p && m.msg.leader && m.msg.reqId == r.reqId && decide (m.group.length + 1 < m.groupWanted) with
      | some m => some (.leader m.num)
      | none => if s.fabric.stale.any fun x => x.1 == p && x.2.1 == r.reqId then some .stale else none

/-- Takes one reply off those that are still to come for an answered request; it is discarded and counted (R268). -/
def dropStale (s : State) (p reqId : Nat) : State :=
  { s with fabric := { s.fabric with
    late := s.fabric.late + 1
    stale := match s.fabric.stale.find? fun x => x.1 == p && x.2.1 == reqId with
      | some x => if x.2.2 ≤ 1 then s.fabric.stale.erase x else (x.1, x.2.1, x.2.2 - 1) :: s.fabric.stale.erase x
      | none => s.fabric.stale } }

/-- A MEMBER_REPLY takes its effect (R264, R268, R271, R524). -/
def takeReply (s : State) (p : Nat) (r : FabMsg) (x : ReplyFor) : State :=
  match x with
  | .shard num shard => homeTake s num shard r
  | .shadow num k shard =>
    match getHome s num with
    | none => s
    | some h =>
      if r.status = stDone then
        compareShadows (putHome s { h with shadows := h.shadows.map fun (y : Nat × Nat × Option (List Byte)) => if y.1 = k ∧ y.2.1 = shard then (y.1, y.2.1, some r.payload) else y }) num
      else
        let h := { h with shadows := h.shadows.filter fun y => !(y.1 == k && y.2.1 == shard) }
        let s := shadowCount s p k none
        if h.answered ∧ h.shadows.isEmpty then dropHome s num else putHome s h
  | .leader num =>
    match getMember s num with
    | none => s
    | some m =>
      if r.status ≠ stDone ∧ r.status ≠ stDegraded then memberReply s m r.status r.detail r.res0 []
      else memberFinish s { m with group := m.group ++ [r.payload], swept := m.swept + fld r.res1 63 32, exactPages := m.exactPages + fld r.res1 31 0
                                   degraded := m.degraded || r.status == stDegraded, detail := m.detail ||| r.detail }
  | .stale => dropStale s p r.reqId

/-- The first waiting message of a partition that a test picks, with what the test made of it. -/
def pickMsg {β : Type} (s : State) (p : Nat) (f : FabMsg → Option β) : Option (FabMsg × β) :=
  s.fabric.arrived.findSome? fun e => if e.1 = p then (f e.2).map fun x => (e.2, x) else none

/-- Takes one waiting message of a partition. -/
def dropMsg (s : State) (p : Nat) (m : FabMsg) : State := { s with fabric := { s.fabric with arrived := s.fabric.arrived.erase (p, m) } }

/-- MEMBER_REPLY (R264, R267, R268, R271). One that answers a group whose leader has not yet taken its own request goes on waiting. -/
def Machine.execMemberReply (p : Fin 16) (t : Nat) (s : State) : Answer :=
  match pickMsg s p.val fun m => if m.typ = 4 then replyFor s p.val m else none with
  | none => .next s
  | some (m, x) => .next (withSequencer (atTime s t) m.reqId fun s => takeReply (dropMsg s p.val m) p.val m x)

/-- The SEND with WAIT_REPLY that a reply answers (R317): the local one it comes from, or the oldest one on its queue pair with its REQUEST_ID. -/
def replySend (s : State) (p : Nat) (m : FabMsg) : Option Desc :=
  match m.origin with
  | some (q, i) => (findDesc s q i).filter fun d => d.phase == .running
  | none => s.flight.find? fun d => d.onQp p m.qpn && d.phase == .running && d.opcode == 0x09 && d.subop == 4 && bit (d.w 2) 62 && (parseFab d.held 0 none).reqId == m.reqId

/-- ATTEND_REPLY (R317): the SEND that waits for it takes its payload at REPLY and commits with its status and results; with no such SEND the reply is dropped. -/
def Machine.execAttendReply (p : Fin 16) (t : Nat) (s : State) : Answer :=
  match pickMsg s p.val fun m => if m.typ = 2 then some (replySend s p.val m) else if m.typ = 4 then (replySend s p.val m).map some else none with
  | none => .next s
  | some (m, none) => .next (dropFab (dropMsg (atTime s t) p.val m))
  | some (m, some d) =>
    .next (withDoms (atTime s t) (locDoms s d.owner (d.w 7)) fun s =>
      let s := dropMsg s p.val m
      match (if m.payload.isEmpty then .ok s else writeOut s d 7 m.payload : Except (Nat × Nat) State) with
      | .error e => endNow s d e.1 e.2
      | .ok s => settleDrains (endNow s d m.status m.detail (some m.res0) (some m.res1.toNat)))

/-- FABRIC_DEADLINE (R268, R524): outstanding work is abandoned, and shadows not compared are counted. -/
def Machine.execFabricDeadline (p : Fin 16) (id : Nat) (t : Nat) (s : State) : Answer :=
  match getHome s id with
  | none => .next s
  | some h =>
    if h.part ≠ p.val ∨ t < h.deadline then .next s
    else
      let s := atTime s t
      let s := (s.fabric.members.filter fun m => (m.home.map (·.1)) == some id).foldl stopMember s
      let s := if h.answered then s else homeFail s h stFlushed 2 none
      let s := h.shadows.foldl (fun s (x : Nat × Nat × Option (List Byte)) => shadowCount s h.part x.1 none) s
      let still := (h.shadows.filter fun (x : Nat × Nat × Option (List Byte)) => x.2.2.isNone).length
      let s := if still = 0 then s else { s with fabric := { s.fabric with stale := s.fabric.stale ++ [(h.part, h.num % 2 ^ 32, still)] } }
      .next (dropHome s id)

/-- FABRIC_REPLY_TIMEOUT (R317): 1 s after the SEND's dispatch. -/
def Machine.execFabricReplyTimeout (q : Nat) (i : BitVec 32) (t : Nat) (s : State) : Answer :=
  match findDesc s q i with
  | some d =>
    if d.phase == .running && d.opcode == 0x09 && d.subop == 4 && bit (d.w 2) 62 && decide (d.time + 1000000000 ≤ t) then
      .next (settleDrains (endNow (netStopped (atTime s t) d) d stFlushed 3))
    else .next s
  | none => .next s

/-! ### Spread records (R256 to R258) -/

/-- Whether two shards hold a common layer and head, and their ranges overlap or their open ends are out of order (R257). -/
def shardsClash (a b : List Word) : Bool :=
  let common := decide (max (shFirstLayer a) (shFirstLayer b) ≤ min (shLastLayer a) (shLastLayer b))
    && decide (max (shFirstHead a) (shFirstHead b) < min (shFirstHead a + shHeads a) (shFirstHead b + shHeads b))
  let (lo, hi) := if shBase a ≤ shBase b then (a, b) else (b, a)
  common && (shEnd lo == 0 || decide (shEnd lo > shBase hi))

/-- The record of a SPREAD_SET, when it keeps R256 and R257. -/
def spreadOf (bs : List Byte) : Option SpreadRec :=
  let h := toWords 4 bs
  let n := fld (wd h 0) 5 0 + 1
  let es := (List.range n).map fun k => toWords 4 (slice bs (32 + 32 * k) 32)
  let layers := fld (wd h 1) 63 56 + 1
  let heads := fld (wd h 1) 55 50 + 1
  let clear := fun (w mask : Word) => w &&& mask == 0#64
  let entryOk := fun (e : List Word) =>
    clear (wd e 0) (maskOf 47 32) && clear (wd e 1) (maskOf 3 0) && clear (wd e 2) (maskOf 63 57 ||| maskOf 31 25) && wd e 3 == 0#64
      && shBase e % 16 == 0 && (shEnd e == 0 || (shEnd e % 16 == 0 && decide (shEnd e > shBase e)))
      && decide (shFirstLayer e ≤ shLastLayer e) && decide (shLastLayer e < layers) && decide (shFirstHead e + shHeads e ≤ heads)
  if bs.length = 32 + 32 * n ∧ clear (wd h 0) (maskOf 30 6) ∧ clear (wd h 1) (maskOf 46 0) ∧ wd h 2 = 0#64 ∧ wd h 3 = 0#64 ∧ (dimOf (fld (wd h 1) 49 47)).isSome
      ∧ es.all entryOk ∧ ((List.range n).all fun j => (List.range j).all fun k => !shardsClash (es.getD j []) (es.getD k [])) then
    some { layers := layers, heads := heads, dim := fld (wd h 1) 49 47, shards := es }
  else none

/-- SPREAD_SET (R256 to R258, R261): the SEND that carries it is finished, and its commit installs, replaces or removes the record. -/
def Machine.execSpreadSet (p : Fin 16) (s : State) : Answer :=
  match fabFirst s p.val 0x10 with
  | none => .next s
  | some m =>
    match m.origin.bind fun o => findDesc s o.1 o.2 with
    | none => .next (fabTake s p.val 0x10)
    | some d =>
      if !memActive s then .next s
      else .next (withSequencer s m.reqId fun s =>
        let s := fabTake s p.val 0x10
        let h := toWords 4 m.payload
        let seq := fld (wd h 0) 63 32
        let made := (getSeq s p.val seq).isSome || (s.flight.any fun x => x.owner == d.owner && x.opcode == 2 && x.newSeqs.contains seq)
        if bit (wd h 0) 31 then
          if m.payload.length ≠ 32 ∨ (wd h 0 &&& maskOf 30 6) ≠ 0#64 ∨ (wd h 1 &&& maskOf 46 0) ≠ 0#64 ∨ wd h 2 ≠ 0#64 ∨ wd h 3 ≠ 0#64 then
            putDesc s (d.finish stMalformed 1)
          else if made then putDesc s (d.finish stMalformed 2)
          else putDesc s { d.finish stDone 0 (some 0) with effects := d.effects ++ [.spread p.val seq none] }
        else match spreadOf m.payload with
        | none => putDesc s (d.finish stMalformed 1)
        | some r =>
          if made then putDesc s (d.finish stMalformed 2)
          else match takeBlocks s p.val 1 with
          | none => putDesc s (d.finish stExhausted 2)
          | some (b, s) =>
            let s := modPart s p.val fun x => { x with reservedSeqs := seq :: x.reservedSeqs }
            putDesc s { d.finish stDone 0 (some r.shards.length) with
                        effects := d.effects ++ [.spread p.val seq (some { r with block := some b })], blocks := b :: d.blocks, newSeqs := seq :: d.newSeqs })

/-! ### Handoffs: the sender (R272 to R278) -/

/-- The handoff of a partition that a message from its receiver concerns. -/
def outgoingOf (s : State) (p : Nat) (m : FabMsg) : Option Outgoing :=
  s.fabric.outgoing.find? fun o => o.part == p && o.msg.reqId == m.reqId && some o.target == (getQp s m.qpn).map (·.peer)

def putOutgoing (s : State) (o : Outgoing) : State :=
  { s with fabric := { s.fabric with outgoing := s.fabric.outgoing.map fun x => if x.part = o.part ∧ x.seq = o.seq then o else x } }
def dropOutgoing (s : State) (o : Outgoing) : State :=
  { s with fabric := { s.fabric with outgoing := s.fabric.outgoing.filter fun x => !(x.part == o.part && x.seq == o.seq) } }

/-- The descriptor of a handoff's SEND. -/
def handDesc (s : State) (o : Outgoing) : Option Desc := o.msg.origin.bind fun x => findDesc s x.1 x.2

/-- Ends the SEND of a handoff. -/
def handEnd (s : State) (o : Outgoing) (st det : Nat) (r0 : Option Nat := none) (r1 : Option Nat := none) : State :=
  match handDesc s o with
  | some d => endNow s d st det r0 r1
  | none => s

/-- Abandons an offer and ends its SEND (R273). -/
def abandonOffer (s : State) (o : Outgoing) (st det : Nat) : State :=
  let s := fabTo s o.part o.target (handMsg s o.part 0x29 o.msg.reqId (nextEpoch o.epoch 1) o.targetSeq)
  handEnd (endOffer s o) o st det

/-- The creation parameters that an OFFER carries (R276): those of the sequence with the classes of the HANDOFF_REQ. -/
def offerParams (r : SeqRec) (m : FabMsg) : Word :=
  setFld (setFld r.params 44 42 (fld (m.b 2) 63 61)) 41 39 (fld (m.b 2) 60 58)

/-- HANDOFF_REQ (R274 to R276): the lease is checked, OFFER is sent and the lease timer starts. -/
def Machine.execHandoffReq (p : Fin 16) (t : Nat) (s : State) : Answer :=
  match fabFirst s p.val 0x20 with
  | none => .next s
  | some m =>
    match m.origin.bind fun o => findDesc s o.1 o.2 with
    | none => .next (fabTake s p.val 0x20)
    | some d =>
      if !memActive s then .next s
      else .next (withSequencer (atTime s t) m.reqId fun s =>
        let s := fabTake s p.val 0x20
        let lease := if fld (m.b 1) 63 32 = 0 then 1000000 else fld (m.b 1) 63 32
        let hold := if fld (m.b 1) 31 0 = 0 then 10000 else fld (m.b 1) 31 0
        if m.payload.length ≠ 32 ∨ fld (m.b 0) 47 32 ≠ 0 ∨ fld (m.b 2) 57 0 ≠ 0 ∨ m.b 3 ≠ 0#64 ∨ lease < 1000 ∨ lease > 10000000 ∨ hold < 100 ∨ hold > 1000000 then
          putDesc s (d.finish stMalformed 1)
        else match visibleSeq s p.val m.seq with
        | none => putDesc s (d.finish stNotOwner 4)
        | some r =>
          if r.lease ≠ .held ∨ r.epoch ≠ m.epoch then putDesc s (d.finish stNotOwner 4)
          else if !r.frozen then putDesc s (d.finish stNotOwner 2)
          else if seqLost s p.val r then putDesc s (d.finish stPoisoned 1)
          else
            let target := fld (m.b 0) 63 48
            match (fabricQp s p.val target).filter fun n => ((getQp s n).map (·.state)) != some .error with
            | none => putDesc s (d.finish stFlushed 1)
            | some _ =>
              let pages := (r.heads.map fun h => h.entries.length).sum
              let o : Outgoing := { part := p.val, seq := m.seq, msg := m, target := target, targetSeq := fld (m.b 0) 31 0, epoch := r.epoch
                                    leaseEnd := s.time + 1000 * lease, holdUs := hold, pagesSent := pages }
              let s := setLease s p.val m.seq fun r => { r with lease := .offered m.reqId }
              let s := { s with fabric := { s.fabric with outgoing := s.fabric.outgoing ++ [o] } }
              fabTo s p.val target (handMsg s p.val 0x21 m.reqId (nextEpoch r.epoch 1) o.targetSeq 0
                (ofWords [offerParams r m, put 63 32 pages ||| put 31 0 hold, 0#64, 0#64])))

/-- The bytes of a page as it travels (R276, R277): its own format, and uncoded BF16 for CB16 and promoted pages, with the tokens that its list holds of it, of which
there may be fewer than in the frame (R97); or the status and DETAIL of what is wrong with it. -/
def travelPage (s : State) (p : Nat) (r : SeqRec) (tokens : Nat) (e : Entry) : Except (Nat × Nat) (Nat × Bool × List Byte) :=
  let tables := (getPart s p).decode
  let give := fun (fill : Nat) (pr : Bool) (img : Except BlockFail (List Byte)) => match img with
    | .ok bs => Except.ok (min fill tokens, pr, bs)
    | .error .retired => Except.error (stPoisoned, 1)
    | .error .mismatch => Except.error (stCheck, 2)
  match e with
  | .frame f pr =>
    let x := getFrame s f
    if pagePoisoned s p f x.format r.dim then .error (stPoisoned, 1)
    else if x.fill = 16 ∧ (crc32c (storedBytes s p f x.format r.dim)).toNat ≠ x.check then .error (stCheck, 1)
    else give x.fill pr (pageImage s p f x.format r.dim tables)
  | .spilled k _ =>
    match lookup? (getFlash s p).spill k with
    | none => .error (stPoisoned, 1)
    | some x => if !slotServes s p k then .error (stTier, 1) else give x.fill x.promoted (spillImage x r.dim tables)

/-- One page with its header in a PAGES message (R276). -/
def pageRecord (l h page fill : Nat) (promoted : Bool) (bs : List Byte) : List Byte :=
  ofWords [put 63 56 l ||| put 55 50 h ||| put 49 45 fill ||| put 44 44 (b2n promoted) ||| put 19 0 page, put 63 32 (crc32c bs).toNat ||| put 31 0 bs.length] ++ bs

/-- Packs page records into messages of at most 65,536 bytes (R259, R276). -/
def packPages : List Byte → List (List Byte) → List (List Byte)
  | acc, [] => if acc.isEmpty then [] else [acc]
  | acc, x :: r => if acc.length + x.length ≤ 65536 then packPages (acc ++ x) r else acc :: packPages x r

/-- The page records of a sequence, head list by head list. -/
def travelPages (s : State) (p : Nat) (r : SeqRec) : Except (Nat × Nat) (List (List Byte)) :=
  let all := ((List.range (r.layers * r.nheads)).flatMap fun k => ((r.heads.getD k {}).entries).map fun (e : Nat × Entry) => (k, e.1, e.2))
  all.foldr (fun (x : Nat × Nat × Entry) acc => match acc, travelPage s p r ((r.heads.getD x.1 {}).length - 16 * x.2.1) x.2.2 with
    | .error e, _ => .error e
    | _, .error e => .error e
    | .ok l, .ok (fill, pr, bs) => .ok (pageRecord (x.1 / r.nheads) (x.1 % r.nheads) x.2.1 fill pr bs :: l)) (.ok [])

/-- READY (R273, R276, R277): the pages are sent; a second READY asks for them again. A page that the sender cannot read ends the offer. -/
def Machine.execReady (p : Fin 16) (t : Nat) (s : State) : Answer :=
  match fabFirst s p.val 0x22 with
  | none => .next s
  | some m =>
    if !memActive s then .next s
    else .next (withSequencer (atTime s t) m.reqId fun s =>
      let s := fabTake s p.val 0x22
      match (outgoingOf s p.val m).filter fun o => o.resend.isNone with
      | none => dropFab s
      | some o =>
        match getSeq s p.val o.seq with
        | none => dropFab s
        | some r =>
          match travelPages s p.val r with
          | .error e => abandonOffer s o e.1 e.2
          | .ok xs => (packPages [] xs).foldl (fun s bs => fabTo s p.val o.target (handMsg s p.val 0x24 o.msg.reqId (nextEpoch o.epoch 1) o.targetSeq 0 bs)) s)

/-- REFUSE (R273, R278). -/
def Machine.execRefuse (p : Fin 16) (t : Nat) (s : State) : Answer :=
  match fabFirst s p.val 0x23 with
  | none => .next s
  | some m =>
    let s := fabTake (atTime s t) p.val 0x23
    match (outgoingOf s p.val m).filter fun o => o.resend.isNone with
    | none => .next (dropFab s)
    | some o => .next (handEnd (endOffer s o) o stNak m.detail)

/-- Sends COMMIT of a handoff (R273). -/
def sendCommit (s : State) (o : Outgoing) : State := fabTo s o.part o.target (handMsg s o.part 0x26 o.msg.reqId (nextEpoch o.epoch 1) o.targetSeq)

/-- ACCEPT (R273, R278): before the lease timer it is the commit point: the sequence is hidden and COMMIT sent. -/
def Machine.execAccept (p : Fin 16) (t : Nat) (s : State) : Answer :=
  match fabFirst s p.val 0x25 with
  | none => .next s
  | some m =>
    let s := fabTake (atTime s t) p.val 0x25
    match (outgoingOf s p.val m).filter fun o => o.resend.isNone && decide (s.time < o.leaseEnd) && m.epoch == nextEpoch o.epoch 1 with
    | none => .next (dropFab s)
    | some o =>
      let s := setLease s p.val o.seq fun r => { r with hidden := true, lease := .escrow o.msg.reqId }
      let s := putOutgoing s { o with resend := some (s.time + 100000) }
      -- the latch is taken here, also when the SEND is a step of a program (R278)
      let s := match handDesc s o with
        | some d => putDesc s { d with latched := true }
        | none => s
      .next (sendCommit (handEnd s o stDone 0 (some o.pagesSent) (some (nextEpoch o.epoch 1))) o)

/-- The sender takes a sequence in ESCROW back at e + 2 (R273). -/
def takeBack (s : State) (o : Outgoing) : State :=
  let e := nextEpoch o.epoch 2
  let s := setLease (dropOutgoing s o) o.part o.seq fun r => { r with hidden := false, frozen := true, epoch := e, lease := .held }
  postEvent s (ownerOf o.part) 5 2 none o.seq (BitVec.ofNat 64 e) (BitVec.ofNat 64 o.target) stEscrow

/-- COMMIT_ACK (R273): the sender's pages are dropped as by FREE, and its lease is ABSENT. -/
def Machine.execCommitAck (p : Fin 16) (t : Nat) (s : State) : Answer :=
  match fabFirst s p.val 0x27 with
  | none => .next s
  | some m =>
    let s := fabTake (atTime s t) p.val 0x27
    match (outgoingOf s p.val m).filter fun o => o.resend.isSome with
    | none => .next (dropFab s)
    | some o =>
      let s := removeSeq (dropOutgoing s o) p.val o.seq
      .next { s with fabric := { s.fabric with handedOn := assign s.fabric.handedOn (p.val, o.seq) (nextEpoch o.epoch 1) } }

/-- COMMIT_NAK (R273). -/
def Machine.execCommitNak (p : Fin 16) (t : Nat) (s : State) : Answer :=
  match fabFirst s p.val 0x28 with
  | none => .next s
  | some m =>
    let s := fabTake (atTime s t) p.val 0x28
    match (outgoingOf s p.val m).filter fun o => o.resend.isSome with
    | none => .next (dropFab s)
    | some o => .next (takeBack s o)

/-- LEASE_TIMER_EXPIRE (R273). -/
def Machine.execLeaseTimerExpire (p : Fin 16) (seq : Nat) (t : Nat) (s : State) : Answer :=
  match s.fabric.outgoing.find? fun o => o.part == p.val && o.seq == seq && o.resend.isNone && decide (o.leaseEnd ≤ t) with
  | none => .next s
  | some o => .next (abandonOffer (atTime s t) o stEscrow 0)

/-- ESCROW_COMMIT_RESEND (R273). -/
def Machine.execEscrowCommitResend (p : Fin 16) (seq : Nat) (t : Nat) (s : State) : Answer :=
  match s.fabric.outgoing.find? fun o => o.part == p.val && o.seq == seq && (match o.resend with
    | some x => decide (x ≤ t)
    | none => false) with
  | none => .next s
  | some o => let s := atTime s t; .next (sendCommit (putOutgoing s { o with resend := some (s.time + 100000) }) o)

/-! ### Handoffs: the receiver (R273, R276 to R278) -/

/-- The handoff that a message from its sender concerns. -/
def incomingOf (s : State) (p : Nat) (m : FabMsg) : Option Incoming :=
  s.fabric.incoming.find? fun x => x.part == p && x.reqId == m.reqId && some x.sender == (getQp s m.qpn).map (·.peer)

def putIncoming (s : State) (x : Incoming) : State :=
  { s with fabric := { s.fabric with incoming := s.fabric.incoming.map fun y => if y.part = x.part ∧ y.seq = x.seq then x else y } }

/-- Frames that are RESERVED still go back to FREE. -/
def freeReserved (s : State) (fs : List FrameAddr) : State :=
  fs.foldl unreserve s

/-- A pending or accepted handoff ends: its frames and blocks are freed (R273). -/
def dropIncoming (s : State) (x : Incoming) : State :=
  removeSeq (freeReserved { s with fabric := { s.fabric with incoming := s.fabric.incoming.filter fun y => !(y.part == x.part && y.seq == x.seq) } } x.frames) x.part x.seq

/-- A message of a receiver to its sender. -/
def toSender (s : State) (x : Incoming) (typ : Nat) (detail : Nat := 0) : State :=
  fabSend s x.qpn (handMsg s x.part typ x.reqId x.epoch x.seq detail)

/-- A frame for a page of an OFFER: of its class, and where that has none left of the class for promoted pages (log entry 19: an OFFER does not say how many
are promoted). -/
def takeClasses (s : State) (p seq : Nat) (r : SeqRec) (page : Nat) : Option (FrameAddr × State) :=
  match takeFrame s p r.cls seq 0 0 1 page with
  | some x => some x
  | none => takeFrame s p r.promoteCls seq 0 0 1 page

/-- Reserves frames for the pages of an OFFER (R273). -/
def reserveFrames (p seq : Nat) (r : SeqRec) : Nat → State → Option (List FrameAddr × State)
  | 0, s => some ([], s)
  | n + 1, s =>
    match takeClasses s p seq r n with
    | none => none
    | some (f, s) => (reserveFrames p seq r n s).map fun x => (f :: x.1, x.2)

/-- Why an OFFER is refused (R273, R278): the DETAIL of REFUSE; else the frames that it reserves and the hidden sequence that it makes. -/
def takeOffer (s : State) (p : Nat) (m : FabMsg) : Except Nat (List FrameAddr × State) :=
  let r : SeqRec := { params := m.b 0, headTable := ⟨0, 0, 0⟩, heads := [], epoch := m.epoch, frozen := true, hidden := true }
  let n := fld (m.b 1) 63 32
  let illegal := (dimOf r.dimCode).isNone || decide (r.window > 1048576) || ((pageFmt r.format).isNone && r.format != 0x30)
  if !bit (getOwner s (ownerOf p)).defaults 12 then .error 1
  else if (getSeq s p m.seq).isSome ∨ (getPart s p).reservedSeqs.contains m.seq ∨ (lookup? s.fabric.spreads (p, m.seq)).isSome then .error 2
  else if illegal ∨ classRows s p r.cls < pageRows r.format r.dim ∨ (r.format ≠ 0x30 ∧ classRows s p r.promoteCls < pageRows 0x30 r.dim) then .error 5
  else if (getPart s p).seqs.length ≥ seqCapacity s p then .error 3
  else match reserveFrames p m.seq r n s with
  | none => .error 3
  | some (fs, s) =>
    match takeTables s p (r.layers * r.nheads) with
    | none => .error 3
    | some (h, _, s) =>
      .ok (fs, modPart s p fun x => { x with seqs := assign x.seqs m.seq { r with headTable := h, heads := List.replicate (r.layers * r.nheads) {} } })

/-- ACCEPT once every page of a handoff is in place (R273, R277): LENGTH and FIRST_PAGE of each head list follow from its pages. -/
def acceptPages (s : State) (x : Incoming) : State :=
  if x.accepted ∨ x.placed.length < x.expected then s
  else
    let s := setLease s x.part x.seq fun r =>
      let heads := r.heads.map fun h =>
        let top := h.entries.foldl (fun a e => max a e.1) 0
        let fill := match (lookup? h.entries top : Option Entry) with
          | some (.frame f _) => (getFrame s f).fill
          | _ => 0
        if h.entries.isEmpty then h else { h with length := 16 * top + fill, firstPage := h.entries.foldl (fun a e => min a e.1) top }
      ({ r with heads := heads } : SeqRec).recount
    toSender (putIncoming (freeReserved s x.frames) { x with accepted := true, frames := [], deadline := s.time + 1000 * x.holdUs }) x 0x25

/-- OFFER (R273, R276, R278). -/
def Machine.execOffer (p : Fin 16) (t : Nat) (s : State) : Answer :=
  match fabFirst s p.val 0x21 with
  | none => .next s
  | some m =>
    if !memActive s then .next s
    else .next (withSequencer (atTime s t) m.reqId fun s =>
      let s := fabTake s p.val 0x21
      let sender := ((getQp s m.qpn).map (·.peer)).getD m.replyTo
      let x : Incoming := { part := p.val, seq := m.seq, sender := sender, reqId := m.reqId, epoch := m.epoch, expected := fld (m.b 1) 63 32, holdUs := fld (m.b 1) 31 0
                            deadline := s.time + 1000 * fld (m.b 1) 31 0, qpn := m.qpn }
      if m.payload.length ≠ 32 ∨ m.b 2 ≠ 0#64 ∨ m.b 3 ≠ 0#64 ∨ (m.b 0 &&& (maskOf 38 32 ||| maskOf 23 21)) ≠ 0#64 then dropFab s
      else match takeOffer s p.val m with
      | .error det => toSender s x 0x23 det
      | .ok (fs, s) =>
        let x := { x with frames := fs }
        acceptPages (toSender { s with fabric := { s.fabric with incoming := s.fabric.incoming ++ [x] } } x 0x22) x)

/-- A page as it arrived: layer, head, page, fill, promoted, CRC and bytes. -/
structure InPage where
  layer : Nat
  head : Nat
  page : Nat
  fill : Nat
  promoted : Bool
  clean : Bool
  crc : Nat
  bytes : List Byte
deriving DecidableEq, Repr

/-- Cuts a PAGES payload into pages. -/
def cutPages : Nat → List Byte → List InPage
  | 0, _ => []
  | n + 1, bs =>
    if bs.length < 16 then []
    else
      let g := toWords 2 bs
      let k := fld (wd g 1) 31 0
      { layer := fld (wd g 0) 63 56, head := fld (wd g 0) 55 50, page := fld (wd g 0) 19 0, fill := fld (wd g 0) 49 45, promoted := bit (wd g 0) 44
        clean := fld (wd g 0) 43 20 == 0, crc := fld (wd g 1) 63 32, bytes := (bs.drop 16).take k } :: cutPages n (bs.drop (16 + k))

/-- Whether a page is whole and unharmed, and fits the sequence that it is for (R277). -/
def InPage.good (x : InPage) (r : SeqRec) : Bool :=
  x.clean && decide (x.layer < r.layers) && decide (x.head < r.nheads) && decide (1 ≤ x.fill) && decide (x.fill ≤ 16) && (!x.promoted || r.format != 0x30)
    && x.bytes.length == (if x.promoted || r.format == 0x30 then 64 * r.dim else pageBytes r.format r.dim) && (crc32c x.bytes).toNat == x.crc

/-- Places one page in a frame of its class (R277, R107, R210), which takes the place of one reserved for the handoff; none when no frame or control block is
free. -/
def placeIncoming (s : State) (p seq : Nat) (x : InPage) (frames : List FrameAddr) : Option (List FrameAddr × State) :=
  match getSeq s p seq with
  | none => none
  | some r =>
    let cb := x.promoted || r.format == 0x30
    let cls := if x.promoted then r.promoteCls else r.cls
    let mine := (frames.find? fun f => extClass s f.ext == some cls).toList
    let s := freeReserved s mine
    match takeFrame s p cls seq x.layer x.head r.nheads x.page with
    | none => none
    | some (f, s) =>
      let words : Option State :=
        if !cb ∨ (lookup? (getPart s p).wordTables f.ext).isSome then some s
        else (takeBlocks s p (ceilDiv (32 * sliceFrames (classRows s p ((extClass s f.ext).getD 0)) * 16) 4096)).map fun (y : Blocks × State) =>
          modPart y.2 p fun z => { z with wordTables := assign z.wordTables f.ext y.1 }
      match words with
      | none => none
      | some s =>
        match takeLists s p (r.head x.layer x.head) (r.pointer x.page) with
        | none => none
        | some (hl, _, s) =>
          let s := writeHbm s f.ext (frameOffset s p f) x.bytes
          let s := fillFrame s p f x.fill (if cb then 0x30 else r.format) r.dim seq true (if cb then codingTable s p else none)
          some (frames.filter fun f => !mine.contains f, setLease s p seq fun r => r.setHead x.layer x.head { hl with entries := assign hl.entries x.page (.frame f x.promoted) })

/-- Takes the pages of a message one by one (R273, R277): the handoff goes on, with the pages that failed for the first time; or the DETAIL of a REFUSE. -/
def takePages (s : State) (x : Incoming) (again : Bool) : List InPage → Except (Nat × State) (State × Incoming × Bool)
  | [] => .ok (s, x, again)
  | g :: rest =>
    let key := (g.layer, g.head, g.page)
    if x.placed.contains key then takePages s x again rest
    else match getSeq s x.part x.seq with
    | none => .ok (s, x, again)
    | some r =>
      if !g.good r then
        if x.failedOnce.contains key then .error (4, s) else takePages s { x with failedOnce := key :: x.failedOnce } true rest
      else match placeIncoming s x.part x.seq g x.frames with
      | none => .error (3, s)
      | some (fs, s) => takePages s { x with placed := key :: x.placed, frames := fs } again rest

/-- PAGES (R273, R276, R277): the receiver places and checks each page, asks once more for one that fails, and accepts when every page is in place. -/
def Machine.execPages (p : Fin 16) (t : Nat) (s : State) : Answer :=
  match fabFirst s p.val 0x24 with
  | none => .next s
  | some m =>
    if !memActive s then .next s
    else
      let s := atTime s t
      let run := fun (s : State) =>
        let s := fabTake s p.val 0x24
        match (incomingOf s p.val m).filter fun x => !x.accepted && x.epoch == m.epoch with
        | none => (dropFab s, [])
        | some x =>
          match takePages s x false (cutPages (m.payload.length + 1) m.payload) with
          | .error (det, s) => (toSender (dropIncoming s x) x 0x23 det, [])
          | .ok (s, y, again) =>
            let y := { y with deadline := s.time + 1000 * y.holdUs }
            let s := putIncoming s y
            let s := if again then toSender s y 0x22 else s
            (acceptPages s y, (((getSeq s p.val x.seq).map fun r => r.heads.flatMap fun h => h.entries.filterMap fun (e : Nat × Entry) => match e.2 with
              | .frame f _ => some (84 + f.ext / 96)
              | .spilled _ _ => none).getD []).eraseDups)
      let (s', ds) := run s
      .next (withSequencer s m.reqId fun _ => withDoms s ds fun _ => s')

/-- COMMIT (R273): the sequence becomes visible at e + 1, or the handoff was committed before, or it is answered with COMMIT_NAK. -/
def Machine.execCommit (p : Fin 16) (t : Nat) (s : State) : Answer :=
  match fabFirst s p.val 0x26 with
  | none => .next s
  | some m =>
    let s := fabTake (atTime s t) p.val 0x26
    let sender := ((getQp s m.qpn).map (·.peer)).getD m.replyTo
    let answer := fun (s : State) (typ : Nat) => fabSend s m.qpn (handMsg s p.val typ m.reqId m.epoch m.seq)
    match (incomingOf s p.val m).filter fun x => x.accepted with
    | some x =>
      if s.time < x.deadline then
        let s := setLease s p.val x.seq fun r => { r with hidden := false, frozen := true, epoch := x.epoch, commitTime := stamp s }
        let s := { s with fabric := { s.fabric with incoming := s.fabric.incoming.filter fun y => !(y.part == x.part && y.seq == x.seq)
                                                    remembered := s.fabric.remembered ++ [(p.val, sender, m.reqId, s.time)]
                                                    handedOn := erase s.fabric.handedOn (p.val, x.seq) } }
        .next (postEvent (answer s 0x27) (ownerOf p.val) 5 1 none x.seq (BitVec.ofNat 64 x.epoch) (BitVec.ofNat 64 x.sender))
      else .next (answer (dropIncoming s x) 0x28)
    | none =>
      if s.fabric.remembered.any fun x => x.1 == p.val && x.2.1 == sender && x.2.2.1 == m.reqId && decide (s.time < x.2.2.2 + 10000000000) then .next (answer s 0x27)
      else .next (answer s 0x28)

/-- ABANDON (R273). -/
def Machine.execAbandon (p : Fin 16) (t : Nat) (s : State) : Answer :=
  match fabFirst s p.val 0x29 with
  | none => .next s
  | some m =>
    let s := fabTake (atTime s t) p.val 0x29
    match incomingOf s p.val m with
    | none => .next (dropFab s)
    | some x => .next (dropIncoming s x)

/-- HOLD_TIMER_EXPIRE (R273). -/
def Machine.execHoldTimerExpire (p : Fin 16) (seq : Nat) (t : Nat) (s : State) : Answer :=
  match s.fabric.incoming.find? fun x => x.part == p.val && x.seq == seq && x.accepted && decide (x.deadline ≤ t) with
  | none => .next s
  | some x => .next (dropIncoming (atTime s t) x)

/-- PENDING_IDLE_EXPIRE (R273). -/
def Machine.execPendingIdleExpire (p : Fin 16) (seq : Nat) (t : Nat) (s : State) : Answer :=
  match s.fabric.incoming.find? fun x => x.part == p.val && x.seq == seq && !x.accepted && decide (x.deadline ≤ t) with
  | none => .next s
  | some x => .next (dropIncoming (atTime s t) x)

/-- HANDOFF_MEMORY_EXPIRE (R273): 10 s after its commit a receiver forgets a handoff. -/
def Machine.execHandoffMemoryExpire (p : Fin 16) (sender : Nat) (id : Nat) (t : Nat) (s : State) : Answer :=
  .next { atTime s t with fabric := { s.fabric with remembered := s.fabric.remembered.filter fun x =>
    !(x.1 == p.val && x.2.1 == sender && x.2.2.1 == id && decide (x.2.2.2 + 10000000000 ≤ t)) } }

/-! ### The loss of a node (R281, R520, R521) -/

/-- LOSS_NOTICE as it is served: queue pairs toward the node go to ERROR, its requests and offers end, and leases in ESCROW toward it return. -/
def loseNode (s : State) (node : Nat) : State × Nat :=
  let hit := s.net.qps.filter fun e => !e.2.service.roce && e.2.peer / 16 == node && e.2.state != .error
  -- of all the shards that the node held for a request the lowest names its failure (R268)
  let s := (s.fabric.homes.filter fun h => !h.answered).foldl (fun s h => homeLost s h fun w => w.endpoint / 16 == node) s
  let s := hit.foldl (fun s e => qpError s e.1) s
  let s := (s.fabric.outgoing.filter fun o => o.target / 16 == node).foldl (fun s o => if o.resend.isSome then takeBack s o else abandonOffer s o stFlushed 1) s
  (s, hit.length)

/-- LOSS_NOTICE (R520, R521). -/
def Machine.execLossNotice (o : Owner) (m : MboxMsg) (t : Nat) (s : State) : Answer :=
  let s := atTime s t
  .next (mboxRun s o 0x61 m .manager (m.body.length == 16) fun _ =>
    let node := m.at_ 0 + 256 * m.at_ 1
    if node > 0xFFF ∨ ((m.body.drop 2).take 6).any (· != 0#8) then mboxReply s o 0x61 m stMalformed 1
    else
      let (s, n) := loseNode s node
      settleDrains (mboxReply s o 0x61 m stDone 0 (some n)))

end Sys2Proof
end

