-- ==== Sys2Proof/Machine/Faults.lean ====
section
/-!
DEFINITION. Checks on internal paths, lanes, link modules, pseudo-channels, the fence record, the FENCE message, and node faults (R507 to R519).
-/
namespace Sys2Proof

open Machine (State Fault Refusal)

/-! ### Checks (R508 to R510) -/

/-- TRANSFER_CHECK_FAIL (R508): a unit failed its check on `fails` receptions in a row. Each re-send counts against its lane; at the fourth failure the unit is
taken as poisoned and logged. Links from 8 on are the stacks' interfaces; `e` and `off` name the HBM place that the unit was bound for, if any (e below 1,920). -/
def Machine.execTransferCheckFail (link : Nat) (lane : Nat) (fails : Nat) (e : Nat) (off : Nat) (t : Nat) (s : State) : Answer :=
  if fails = 0 then .next s
  else
    let s := atTime s t
    let n := min fails 3
    let (total, times) := (lookup? s.faults.resends (link, lane)).getD (0, [])
    let recent := List.replicate n s.time ++ times.filter fun x => decide (s.time < x + 1000000000)
    let s := { s with faults := { s.faults with resends := assign s.faults.resends (link, lane) (total + n, recent) } }
    if fails < 4 then .next s
    else
      let s := if e < 1920 ∧ off < 2 ^ 28 then poisonLine s e off else s
      .next (logError s 0x01 5 none lane (BitVec.ofNat 64 (if e < 1920 then hbmAddr e off else 0)))

/-- ECC_ERROR (R169, R509): a corrected error is counted, and in a tile buffer (space 1, the address being the physical core) the 64th within 24 h fences the core; an
uncorrectable one poisons its line in the staging store (space 0), fences the core of its tile buffer, and is logged. -/
def Machine.execEccError (space : Nat) (addr : Nat) (uncorrectable : Bool) (t : Nat) (s : State) : Answer :=
  let s := atTime s t
  if uncorrectable then
    let s := if space = 0 then { s with stagingPoison := if s.stagingPoison.contains (addr / 64) then s.stagingPoison else addr / 64 :: s.stagingPoison } else s
    let s := logError s 0x02 (if space = 1 then 1 else 0) none (if space = 1 then coreNumber s addr else 0) (BitVec.ofNat 64 (if space = 1 then coreNumber s addr else addr))
    .next (if space = 1 then fenceCore s addr else s)
  else
    let s := { s with faults := { s.faults with corrected := s.faults.corrected + 1 } }
    if space = 1 then
      let s := { s with cores := s.cores.modify addr fun c => { c with corrected := s.time :: c.corrected.filter fun x => decide (s.time < x + 86400000000000) } }
      .next (if 64 ≤ (s.cores.getD addr {}).corrected.length then fenceCore s addr else s)
    else .next s

/-! ### Lanes and modules (R515, R516) -/

/-- LANE_SPARE (R515): the lane's traffic moves to a spare; a fifth lane of one direction fences the module. -/
def Machine.execLaneSpare (link : Nat) (module : Nat) (inward : Bool) (s : State) : Answer :=
  let (fenced, outN, inN) := getModule s link module
  let n := if inward then inN else outN
  if !moduleFitted s link module ∨ fenced then .next s
  else if n ≥ 4 then .next (fenceModule s link module)
  else
    let s := modModule s link module fun _ => if inward then (false, outN, n + 1) else (false, n + 1, inN)
    .next (logError s 0x06 5 none (16 * link + module) 0#64)

/-- LINK_MODULE_FENCE (R515, R516). -/
def Machine.execLinkModuleFence (link : Nat) (module : Nat) (t : Nat) (s : State) : Answer := .next (fenceModule (atTime s t) link module)

/-- PSEUDO_CHANNEL_FENCE (R517, R518). -/
def Machine.execPseudoChannelFence (c : Nat) (t : Nat) (s : State) : Answer := .next (fencePch (atTime s t) c)

/-! ### The fence record (R513) -/

/-- The fence record with an entry added: a pseudo-channel's entry replaces those of its bank pairs. -/
def addFence (record : List (Nat × Nat)) (e : Nat × Nat) : List (Nat × Nat) :=
  if record.contains e ∨ (e.1 = 2 ∧ record.contains (3, e.2 / 16)) then record
  else (if e.1 = 3 then record.filter fun x => !(x.1 == 2 && x.2 / 16 == e.2) else record) ++ [e]

/-- The fence record as it stands or is about to be written. -/
def fenceEntries (s : State) : List (Nat × Nat) := s.faults.unwritten.foldl addFence s.faults.record

/-- FENCE_RECORD_WRITE (R513): new fences are in the record of both boot flashes. -/
def Machine.execFenceRecordWrite (s : State) : Answer := .next { s with faults := { s.faults with record := fenceEntries s, unwritten := [] } }

/-! ### The FENCE message (R514) -/

/-- The physical core that the ruling CORE_MAP gives to a logical number (R539, R545). -/
def ruledCore (s : State) (c : Nat) : Nat :=
  if s.boot.ruling.isNone then c else ((List.range 68).filter fun x => (s.boot.config >>> (8 + x)) % 2 == 1).getD c 0xFF

/-- Whether a unit exists (R514). -/
def fenceUnit (s : State) (kind n : Nat) : Bool :=
  match kind with
  | 1 => decide (n < 64)
  | 2 => decide (n < 10240) && stackFitted s (n / 512)
  | 3 => decide (n < 640) && stackFitted s (n / 32)
  | 4 => decide (n < 128) && moduleFitted s (n / 16) (n % 16)
  | _ => false

/-- Whether a unit stands fenced. -/
def standsFenced (s : State) (kind n : Nat) : Bool :=
  match kind with
  | 1 => (coreOf s n).isNone
  | 2 => (getUnit s n).fenced || pchFenced s (n / 16)
  | 3 => pchFenced s n
  | _ => (getModule s (n / 16) (n % 16)).1

/-- Fences a unit as the node itself does. -/
def fenceByCommand (s : State) (kind n : Nat) : State :=
  match kind with
  | 1 => match coreOf s n with
    | some x => fenceCore s x
    | none => s
  | 2 => fencePair s n
  | 3 => fencePch s n
  | _ => fenceModule s (n / 16) (n % 16)

/-- MAILBOX_FENCE (R514, R526): fences a unit, takes it from the record, or only asks. -/
def Machine.execMailboxFence (o : Owner) (m : MboxMsg) (t : Nat) (s : State) : Answer :=
  let s := atTime s t
  .next (mboxRun s o 0x60 m .manager (m.body.length == 8) fun _ =>
    let kind := m.at_ 0
    let act := m.at_ 1
    let n := ofLe (slice m.body 4 4)
    let last := kind == 4 && n / 16 == 6 && ((getPkg s 6).modules.filter fun x => !x.1).length == 1 && !standsFenced s 4 n
    if m.at_ 2 ≠ 0 ∨ m.at_ 3 ≠ 0 ∨ act = 0 ∨ act > 3 ∨ !fenceUnit s kind n then mboxReply s o 0x60 m stMalformed 1
    else if act = 1 ∧ last then mboxReply s o 0x60 m stNotOwner 0x13
    else
      let gone := if kind = 1 then ruledCore s n else n
      let s := if act = 1 then fenceByCommand s kind n
        else if act = 2 then { s with faults := { s.faults with record := s.faults.record.filter (· != (kind, gone)), unwritten := s.faults.unwritten.filter (· != (kind, gone)) } }
        else s
      mboxReply s o 0x60 m stDone 0 (some (b2n (standsFenced s kind n))) (some ((fenceEntries s).filter fun e => e.1 == kind).length))

/-! ### Node faults (R519) -/

/-- The failure of the CXL.mem path of the host-interface die (R366, R519): every LD is told, the node goes to the faulted state, and the link goes down. -/
def memPathFailed (s : State) : State :=
  let s := enterFault (aerFatal s (List.range (if s.cxl.direct then 1 else 16))) 0x0E true 0#64
  { s with cxl := { s.cxl with linkUp := false } }

/-- NODE_FAULT (R366, R519, R575, R576). Whether a fault with power kept is that of the CXL.mem path its row does not say: a free value decides (log entry 50). -/
def Machine.execNodeFault (powerKept : Bool) (s : State) : Answer :=
  if s.boot.phase = .absent ∨ s.boot.phase = .mated then .next s
  else if powerKept then
    let (v, s) := draw s
    .next (if v % 2 = 1 then memPathFailed s else enterFault s 0x0E true 0#64)
  else .next (enterFault s 0x0E false 0#64)

/-- REF100_LOSS (R519, R584). -/
def Machine.execRef100Loss (t : Nat) (s : State) : Answer :=
  if s.boot.phase = .absent ∨ s.boot.phase = .mated then .next s else .next (enterFault (atTime s t) 0x0E true 0#64)

end Sys2Proof
end

