-- ==== Sys2Proof/Machine/Firmware.lean ====
section
/-!
DEFINITION. Firmware: the node's own messages, hitless update, the watchdogs, and the heartbeats (R442 to R468, R529).
-/
namespace Sys2Proof

open Machine (State Fault Refusal)

/-! ### IDENTIFY, TIME, LOG_READ, ATTACH_STATE -/

/-- The VERSION of the image that a processor runs; 0 for one that the variant lacks. -/
def procVersion (s : State) (x : Nat) : Nat := (((s.fw.procs.getD x {}).image).map (·.version)).getD 0

/-- The 128 bytes of IDENTIFY (R452). -/
def identifyBody (s : State) : List Byte :=
  leBytes 1 (variant s) ++ leBytes 1 s.boot.lifecycle.code ++ leBytes 1 (rollbackValue s.boot.fuses.rollback0) ++ leBytes 1 (rollbackValue s.boot.fuses.rollback1)
    ++ leBytes 4 0 ++ leBytes 8 s.boot.fuses.identity.toNat ++ ((List.range 24).flatMap fun x => leBytes 4 (procVersion s x)) ++ leBytes 16 0

/-- IDENTIFY (R452). -/
def Machine.execIdentify (o : Owner) (m : MboxMsg) (s : State) : Answer :=
  .next (mboxRun s o 1 m .any m.body.isEmpty fun _ => mboxReply s o 1 m stDone 0 none none (identifyBody s))

/-- TIME (R453): the counter at the request's arrival, and at the reply, which is at most 1 ms later and not given more closely. -/
def Machine.execTime (o : Owner) (m : MboxMsg) (t : Nat) (s : State) : Answer :=
  .next (mboxRun s o 2 m .any m.body.isEmpty fun _ =>
    let s := atTime s t
    let a := s.time
    let (v, s) := draw s
    let s := atTime s (a + v % 1000001)
    mboxReply s o 2 m stDone 0 (some a) (some s.time))

/-- The words of a log entry (R527). -/
def logWords (e : LogEntry) : List Word :=
  [put 63 32 e.seq ||| put 31 24 e.cause ||| put 23 20 e.unitKind ||| put 19 19 (b2n e.part.isSome) ||| put 18 15 (e.part.getD 0),
   put 63 32 e.unit ||| put 31 0 e.count, e.arg, put 47 0 e.time]

/-- LOG_READ (R529). -/
def Machine.execLogRead (o : Owner) (m : MboxMsg) (s : State) : Answer :=
  .next (mboxRun s o 3 m .any (m.body.length == 8) fun a =>
    let start := ofLe (m.body.take 4)
    let n := m.at_ 4
    if n = 0 ∨ n > 127 ∨ m.at_ 5 ≠ 0 ∨ m.at_ 6 ≠ 0 ∨ m.at_ 7 ≠ 0 then mboxReply s o 3 m stMalformed 1
    else
      let log := s.faults.log.reverse
      let mine := (log.filter fun e => decide (start ≤ e.seq) && (a == .fm || (e.part.isSome && e.part == a.part?))).take n
      let next := ((mine.getLast?).map fun e => e.seq + 1).getD s.faults.nextSeq
      let oldest := ((log.head?).map (·.seq)).getD s.faults.nextSeq
      mboxReply s o 3 m stDone 0 (some next) (some oldest) (mine.flatMap fun e => ofWords (logWords e)))

/-- ATTACH_STATE (R467, R594). -/
def Machine.execAttachState (o : Owner) (m : MboxMsg) (s : State) : Answer :=
  .next (mboxRun s o 0x40 m .any (m.body.length == 2) fun a =>
    let ctx := ofLe m.body
    if ctx ≥ 16384 then mboxReply s o 0x40 m stMalformed 1
    else match judgeContext s a ctx [.submission, .completion, .chime] with
    | some e => mboxReply s o 0x40 m e.1 e.2
    | none =>
      let r := getRing s a (contextSlot s ctx)
      if cfgKind r.inCfg = .submission then mboxReply s o 0x40 m stDone 0 (some (r.dispatched % 2 ^ 32 * 2 ^ 32 + r.recsWritten % 2 ^ 32)) (some r.recsHeld)
      else mboxReply s o 0x40 m stDone 0 (some (r.index * 2 ^ 32 + r.written % 2 ^ 32)) (some r.held.length))

/-! ### Staging and background operations (R454 to R461) -/

def getStaging (s : State) (k : Nat) : Staging := s.fw.staging.getD (k - 1) {}
def modStaging (s : State) (k : Nat) (f : Staging → Staging) : State := { s with fw := { s.fw with staging := s.fw.staging.modify (k - 1) f } }

/-- Bytes of a kind's staging area (R454). -/
def stagingArea (k : Nat) : Nat := if k = 1 then 2 ^ 20 else 5 * 2 ^ 20

/-- FW_STAGE (R454). -/
def Machine.execFwStage (o : Owner) (m : MboxMsg) (s : State) : Answer :=
  .next (mboxRun s o 0x30 m .manager (decide (9 ≤ m.body.length ∧ m.body.length ≤ 4008)) fun _ =>
    let k := m.at_ 0
    let off := ofLe (slice m.body 4 4)
    let bs := m.body.drop 8
    if k = 0 ∨ k > 5 ∨ m.at_ 1 ≠ 0 ∨ m.at_ 2 ≠ 0 ∨ m.at_ 3 ≠ 0 ∨ off + bs.length > stagingArea k then mboxReply s o 0x30 m stMalformed 1
    else if !s.fw.buffer ∧ stagingBytes s .fm < 21 * 2 ^ 20 + heldBytes s .fm then mboxReply s o 0x30 m stExhausted 9
    else
      let s := { s with fw := { s.fw with buffer := true } }
      let s := modStaging s k fun x => { bytes := Memory.writeBytes x.bytes off bs, used := true }
      mboxReply s o 0x30 m stDone 0)

/-- The image that staged bytes hold, as R444 lays it out; whether its signature verifies is given (log entry 3). -/
def parseImage (k : Nat) (m : List Host.Cell) (sigOk : Bool) : Image :=
  let h := Memory.readBytes m 0 2560
  let at_ := fun (i : Nat) => (h.getD i 0#8).toNat
  let n := ofLe (slice h 8 4)
  let most := if k = 1 then 786432 else 4194304
  let code := Memory.readBytes m 2560 (min n most)
  let zero := fun (a b : Nat) => ((h.drop a).take (b + 1 - a)).all (· == 0#8)
  { kind := k, test := at_ 1 % 2 == 1, svn := at_ 2, stateFormat := at_ 3, version := ofLe (slice h 4 4), acceptsFrom := at_ 12
    formOk := at_ 0 == k && at_ 1 / 2 == 0 && decide (at_ 2 ≤ 128) && decide (n ≤ most) && zero 13 31 && zero 64 127 && zero 2548 2559 && slice h 32 32 == sha3 code
    sigOk := sigOk, digest := sha3 (h ++ code) }

/-- Kinds of a mask (R455). -/
def kindsOf (mask : Nat) : List Nat := [1, 2, 3, 4, 5].filter fun k => (mask >>> (k - 1)) % 2 == 1

/-- Starts a background operation, when none runs. -/
def startOp (s : State) (o : Owner) (m : MboxMsg) (op : FwOp) : State :=
  if s.fw.op.isSome then mboxReply s o op.typ m stNotOwner 0x10
  else mboxReply { s with fw := { s.fw with op := some op } } o op.typ m stDone 0

/-- A background operation ends: FW_STATUS keeps its outcome and the event is posted (R455, R457, R476). -/
def endOp (s : State) (op : FwOp) (st det progress : Nat) : State :=
  postFm { s with fw := { s.fw with op := none, lastStatus := st, lastDetail := det, lastProgress := progress } } 9 1 op.typ (BitVec.ofNat 64 det) 0#64 st

/-- FW_VERIFY (R455). -/
def Machine.execFwVerify (o : Owner) (m : MboxMsg) (s : State) : Answer :=
  .next (mboxRun s o 0x31 m .manager (m.body.length == 1) fun _ =>
    if m.at_ 0 = 0 ∨ m.at_ 0 > 31 then mboxReply s o 0x31 m stMalformed 1 else startOp s o m { typ := 0x31, kinds := kindsOf (m.at_ 0) })

/-- The processors of a mask in the order of R458. -/
def switchOrder (s : State) (kinds : List Nat) : List Nat :=
  ([1, 22, 23, 18, 19, 20, 21] ++ (List.range 16).map (2 + ·) ++ [0]).filter fun x =>
    kinds.contains (procKind x) && procFitted s x && !(s.fw.procs.getD x {}).fenced

/-- The verified images of some kinds, as a background operation takes them when it starts (log entry 47: staging goes on meanwhile). -/
def verifiedImages (s : State) (kinds : List Nat) : List Image :=
  kinds.filterMap fun k => if (getStaging s k).state = .verified then (getStaging s k).image else none

/-- FW_ACTIVATE (R455, R458). -/
def Machine.execFwActivate (o : Owner) (m : MboxMsg) (s : State) : Answer :=
  .next (mboxRun s o 0x32 m .manager (m.body.length == 1) fun _ =>
    let ks := kindsOf (m.at_ 0)
    if m.at_ 0 = 0 ∨ m.at_ 0 > 31 then mboxReply s o 0x32 m stMalformed 1 else startOp s o m { typ := 0x32, kinds := ks, images := verifiedImages s ks, todo := switchOrder s ks })

/-- FW_PERSIST (R455, R461): the slot is no longer complete until every byte is written. -/
def Machine.execFwPersist (o : Owner) (m : MboxMsg) (s : State) : Answer :=
  .next (mboxRun s o 0x33 m .manager (m.body.length == 2) fun _ =>
    if m.at_ 0 = 0 ∨ m.at_ 0 > 31 ∨ m.at_ 1 > 1 then mboxReply s o 0x33 m stMalformed 1
    else
      let ks := kindsOf (m.at_ 0)
      let free := s.fw.op.isNone
      let s' := startOp s o m { typ := 0x33, kinds := ks, images := verifiedImages s ks, slot := m.at_ 1 }
      if free ∧ (verifiedImages s ks).length = ks.length then
        { s' with fw := { s'.fw with slots := s'.fw.slots.modify (m.at_ 1) fun x => { x with complete := false } } }
      else s')

/-- The images that the processors of a kind run, which differ after a yielded activation (R460); and the first one's. -/
def runningImages (s : State) (k : Nat) : List Image :=
  (List.range 24).filterMap fun x => if procKind x = k ∧ procFitted s x ∧ !(s.fw.procs.getD x {}).fenced then (s.fw.procs.getD x {}).image else none
def runningImage (s : State) (k : Nat) : Option Image := (runningImages s k).head?

/-- FW_STATUS (R456). -/
def Machine.execFwStatus (o : Owner) (m : MboxMsg) (s : State) : Answer :=
  .next (mboxRun s o 0x34 m .manager m.body.isEmpty fun _ =>
    let kind := fun (k : Nat) =>
      let x := getStaging s k
      let st := match x.state with
        | .none => 0
        | .verified => 1
        | .refused => 2
      leBytes 4 (((runningImage s k).map (·.version)).getD 0) ++ (if x.used then Memory.readBytes x.bytes 4 4 else leBytes 4 0) ++ leBytes 1 st ++ leBytes 7 0
    mboxReply s o 0x34 m stDone 0 (some (s.fw.lastStatus * 2 ^ 24 + s.fw.lastDetail * 2 ^ 8)) (some ((s.fw.op.map (·.progress)).getD s.fw.lastProgress))
      ([1, 2, 3, 4, 5].flatMap kind ++ leBytes 1 (preferredSlot s) ++ leBytes 7 0))

/-- ROLLBACK_ADVANCE (R446, R455). -/
def Machine.execRollbackAdvance (o : Owner) (m : MboxMsg) (s : State) : Answer :=
  .next (mboxRun s o 0x35 m .manager m.body.isEmpty fun _ => startOp s o m { typ := 0x35, kinds := [] })

/-- FW_VERIFY_DONE (R445, R455, R457): every kind of the mask is verified or refused; the operation ends with the first refusal. -/
def Machine.execFwVerifyDone (sigOk : List Nat) (s : State) : Answer :=
  match s.fw.op with
  | none => .next s
  | some op =>
    if op.typ ≠ 0x31 then .next s
    else
      let s := op.kinds.foldl (fun s k =>
        let x := parseImage k (getStaging s k).bytes (sigOk.contains k && (getStaging s k).used)
        match imageBad s x with
        | some c => modStaging s k fun y => { y with state := .refused, image := none, cause := c }
        | none => modStaging s k fun y => { y with state := .verified, image := some x }) s
      let bad := op.kinds.find? fun k => (getStaging s k).state == .refused
      let (v, s) := draw s
      let (st, det) := match bad with
        | some k => (getStaging s k).cause
        | none => (stDone, 0)
      .next (endOp s op st det (v % 2 ^ 64))

/-- Pause bounds in ns (R459). -/
def pauseBound (x : Nat) : Nat :=
  match procKind x with
  | 1 => 2000000
  | 2 => 100000
  | 3 => 300000
  | 4 => 400000
  | _ => 500000

def modProc (s : State) (x : Nat) (f : Proc → Proc) : State := { s with fw := { s.fw with procs := s.fw.procs.modify x f } }

/-- The image that a background operation has for a kind. -/
def FwOp.image (op : FwOp) (k : Nat) : Option Image := op.images.find? fun x => x.kind == k

/-- Why a kind may not be switched (R445, R457): it is not verified, the running images' handoff state cannot be read, or it may not run any more. -/
def activateBad (s : State) (op : FwOp) (k : Nat) : Option (Nat × Nat) :=
  match op.image k with
  | none => some (stNotOwner, 0x12)
  | some x => if (runningImages s k).any fun y => decide (y.stateFormat < x.acceptsFrom) then some (stNotOwner, 0x12) else imageBad s x

/-- FW_ACTIVATE_STEP (R445, R457 to R459): the kinds are judged before the first switch; a paused processor reports ready with its new image, or, 1 ms after the last, the next one is brought to a safe point and
paused. -/
def Machine.execFwActivateStep (t : Nat) (s : State) : Answer :=
  match s.fw.op with
  | none => .next s
  | some op =>
    if op.typ ≠ 0x32 then .next s
    else match (if op.switched.isEmpty ∧ !(s.fw.procs.any fun p => p.paused.isSome) then op.kinds.findSome? (activateBad s op) else none) with
    | some e => .next (endOp (atTime s t) op e.1 e.2 0)
    | none => match op.todo with
    | [] => .next (endOp (atTime s t) op stDone 0 op.switched.length)
    | x :: rest =>
      let p := s.fw.procs.getD x {}
      match p.paused with
      | some bound =>
        if t > bound then .next s
        else
          let s := atTime s t
          let old := p.image
          let s := modProc s x fun p => { p with paused := none, image := op.image (procKind x) }
          let s := if x = 0 then newAlias s else s
          let op := { op with todo := rest, switched := (x, old) :: op.switched, progress := op.progress + 1, notBefore := s.time + 1000000 }
          if rest.isEmpty then .next (endOp s op stDone 0 op.progress) else .next { s with fw := { s.fw with op := some op } }
      | none =>
        if t < op.notBefore ∨ p.restarting then .next s
        else if p.fenced then .next { s with fw := { s.fw with op := some { op with todo := rest } } }
        else
          let s := atTime s t
          .next (modProc s x fun p => { p with paused := some (s.time + pauseBound x) })

/-- FW_PAUSE_TIMEOUT (R457, R458): the new image did not report ready; the kind's processors switched so far go back, in reverse order. -/
def Machine.execFwPauseTimeout (t : Nat) (s : State) : Answer :=
  match s.fw.op with
  | none => .next s
  | some op =>
    match op.todo with
    | [] => .next s
    | x :: _ =>
      match (s.fw.procs.getD x {}).paused with
      | none => .next s
      | some bound =>
        if t ≤ bound then .next s
        else
          let s := modProc (atTime s t) x fun p => { p with paused := none }
          let s := (op.switched.filter fun e => procKind e.1 == procKind x).foldl (fun s e => modProc s e.1 fun p => { p with image := e.2 }) s
          .next (endOp s op 0xFF 2 op.progress)

/-- A PARTITION_REMOVE ends a Belfry activation that is paused or waits to start (R460). -/
def yieldBelfry (s : State) : State :=
  match s.fw.op with
  | none => s
  | some op => if op.typ = 0x32 ∧ op.todo.contains 0 then
      -- the image that was paused, Belfry's or that of a kind on its way before it, resumes
      endOp { s with fw := { s.fw with procs := s.fw.procs.map fun p => { p with paused := none } } } op stAborted 3 op.progress
    else s

/-- FW_PERSIST_DONE (R461, R535): the slot holds the verified images of the mask and the running ones of the other kinds, and is preferred. -/
def Machine.execFwPersistDone (s : State) : Answer :=
  match s.fw.op with
  | none => .next s
  | some op =>
    if op.typ ≠ 0x33 then .next s
    else if op.images.length ≠ op.kinds.length then .next (endOp s op stNotOwner 0x12 0)
    else
      let images := [1, 2, 3, 4, 5].filterMap fun k => if op.kinds.contains k then op.image k else runningImage s k
      let n := (s.fw.slots.getD (1 - op.slot) {}).number + 1
      let (v, s) := draw s
      let s := { s with fw := { s.fw with slots := s.fw.slots.set op.slot { key := (s.fw.slots.getD s.fw.booted {}).key, images := images, complete := true, number := n } } }
      .next (endOp s op stDone 0 (v % 2 ^ 64))

/-- The lowest SVN of the images that a rollback counter governs, running and in both slots (R446). -/
def lowestSvn (s : State) (kinds : List Nat) : Nat :=
  let xs := (kinds.flatMap fun k => runningImages s k ++ (slotImage s 0 k).toList ++ (slotImage s 1 k).toList).map (·.svn)
  xs.foldl min (xs.headD 0)

/-- Bits of a rollback counter burnt up to a value (R548). -/
def burnTo (bits target : Nat) : Nat := bits ||| (2 ^ target - 1)

/-- ROLLBACK_BURN_DONE (R446, R457, R548): both counters rise to their lowest SVN where that exceeds them. -/
def Machine.execRollbackBurnDone (s : State) : Answer :=
  match s.fw.op with
  | none => .next s
  | some op =>
    if op.typ ≠ 0x35 then .next s
    else
      let a := lowestSvn s [1]
      let b := lowestSvn s [2, 3, 4, 5]
      let f := s.boot.fuses
      let upA := decide (rollbackValue f.rollback0 < a)
      let upB := decide (rollbackValue f.rollback1 < b)
      let (v, s) := draw s
      if !upA && !upB then .next (endOp s op stNotOwner 0x11 (v % 2 ^ 64))
      else
        let f := { f with rollback0 := if upA then burnTo f.rollback0 a else f.rollback0, rollback1 := if upB then burnTo f.rollback1 b else f.rollback1 }
        .next (endOp (newAlias { s with boot := { s.boot with fuses := f } }) op stDone 0 (v % 2 ^ 64))

/-! ### Watchdogs (R462) -/

/-- What a Carillon's expiry stops (R462), by the shares that it serves: their fabric requests, and their invocations. -/
def stopCarillon (s : State) (shares : List Nat) : State :=
  let s := (s.fabric.homes.filter fun h => !h.answered && shares.contains (h.msg.reqId % 16)).foldl (fun s h => homeFail s h stInternal 3 none) s
  let s := (s.fabric.members.filter fun m => shares.contains (m.msg.reqId % 16)).foldl (fun s m => match getMember s m.num with
    | some m => memberReply s m stInternal 3 0 []
    | none => s) s
  (s.flight.filter fun d => d.prog.isSome && !d.cur.isEmpty && shares.contains (d.share % 16)).foldl (fun s d => match findDesc s d.ctx d.index with
    | some d => stopDesc s d stInternal 3
    | none => s) s

/-- WATCHDOG_EXPIRE (R462, R476, R527). -/
def Machine.execWatchdogExpire (x : Nat) (t : Nat) (s : State) : Answer :=
  let p := s.fw.procs.getD x {}
  if x ≥ 24 ∨ !procFitted s x ∨ p.fenced ∨ p.image.isNone ∨ !s.timeOn then .next s
  else
    let s := atTime s t
    let shares := (List.range 16).filter fun r => sequencerOf s r == x - 2
    let times := s.time :: p.expiries.filter fun y => decide (s.time < y + 3600000000000)
    let fence := decide (3 ≤ times.length)
    let s := logError s 0x0B 6 none x (BitVec.ofNat 64 (b2n fence))
    let s := modProc s x fun p => { p with expiries := times, fenced := fence, restarting := !fence, paused := none }
    let s := if x = 1 then { s with power := { s.power with hold50 := true } } else s
    let s := postFm s 9 2 x (BitVec.ofNat 64 times.length) 0#64
    let s := if fence then postFm s 3 3 x 0#64 0#64 else s
    .next (if 2 ≤ x ∧ x < 18 then stopCarillon s shares else s)

/-- PROCESSOR_RESTART_DONE (R462). -/
def Machine.execProcessorRestartDone (x : Nat) (s : State) : Answer :=
  if !(s.fw.procs.getD x {}).restarting then .next s
  else
    let s := modProc s x fun p => { p with restarting := false }
    .next (if x = 1 then { s with power := { s.power with hold50 := false } } else s)

/-! ### Heartbeats (R463 to R466) -/

/-- HB_MS in ns; none when the watch is off (R463, R554). -/
def heartbeatNs (x : OwnerS) : Option Nat :=
  let n := fld x.hbCfg 15 0
  if n = 0 ∨ fld x.hbAddr 56 3 = 0 then none else some (1000000 * max 10 (min 60000 n))

/-- Writes the records that a ring holds, in commit order (R466, R485). -/
def flushHeld (s : State) (o : Owner) (k : Nat) : State :=
  let r := getRing s o k
  let s := modRing s o k fun r => { r with held := [] }
  if cfgKind r.inCfg = .chime then r.held.foldl (fun s ws => if indexSpent s o k then ringError s o k 0x11 else chimeRecord s o k (fld (wd ws 0) 63 56) ws) s
  else r.held.foldl (fun s ws => if indexSpent s o k then ringError s o k 0x11 else writeRecord s o k ws) s

/-- An ORPHANED ring is ACTIVE again: what it holds is written. -/
def unorphan (s : State) (o : Owner) (k : Nat) : State :=
  let s := modRing s o k fun r => { r with state := .active, recsWritten := r.recsWritten + r.recsHeld, recsHeld := 0 }
  flushHeld s o k

/-- HEARTBEAT_READ (R464 to R466, R476). -/
def Machine.execHeartbeatRead (o : Owner) (stores : List Host.Cell) (ok : Bool) (t : Nat) (s : State) : Answer :=
  let s := { s with host := Memory.writeCells s.host stores }
  let x := getOwner s o
  match heartbeatNs x with
  | none => .next s
  | some ns =>
    if !(x.rings.any fun e => e.2.enabled) ∨ t < x.hbNext ∨ !s.cxl.linkUp ∨ scrubbing s o then .next s
    else
      let s := atTime s t
      let n := if ok then ofLe (Memory.readBytes s.host (fld x.hbAddr 56 3 * 8) 8) else x.hbCount
      let changed := n != x.hbCount
      let s := modOwner s o fun y => { y with hbCount := n, hbNext := s.time + ns / 4, hbChanged := if changed then s.time else y.hbChanged }
      if changed then
        if !x.hbLost then .next s
        else
          let s := modOwner s o fun y => { y with hbLost := false }
          let s := (x.rings.filter fun e => e.2.state == .orphaned).foldl (fun s e => unorphan s o e.1) s
          .next (pumpOwner s o [])
      else if x.hbLost ∨ s.time < x.hbChanged + ns then .next s
      else
        let quiesce := bit x.hbCfg 16 && o != .fm
        let s := (x.rings.filter fun e => e.2.state == .active || e.2.state == .stalled).foldl (fun s e => modRing s o e.1 fun r => { r with state := .orphaned })
          (modOwner s o fun y => { y with hbLost := true })
        let s := postFm s 2 2 ((o.part?).getD 0xFF) (BitVec.ofNat 64 (b2n quiesce)) 0#64
        if quiesce then .next (drainQps s fun e => some e.2.part == o.part?) else .next s

end Sys2Proof
end

