-- ==== Sys2Proof/Machine/Sweep.lean ====
section
/-!
DEFINITION. The SWEEP station and the Mallet issuer (R110 to R142): ATTEND, walks, chunks and refresh, the hub fold, progress records, RESEAL, and the fence of a
bank pair.
-/
namespace Sys2Proof

open Machine (State Fault Refusal)

/-! ### ATTEND -/

/-- ATTEND as the station runs it (R118 to R122, R133): its body, its sequence, its query tile and its places are judged, and its queries folded. Its walk,
its chunks and its hub folds follow as steps of their own. -/
def attendRun (d : Desc) (s : State) : State :=
  let a := attendReqOf d
  let w := d.w 2
  let eb := if bit w 55 then 4 else 2
  match d.owner with
  | .fm => endDesc s d (stNotOwner, 1)
  | .part p =>
    if !bodyOk d.cur [maskOf 56 48 ||| maskOf 45 0, maskOf 56 32 ||| maskOf 24 0, maskOf 63 32 ||| maskOf 24 0, allBits, allBits, maskOf 63 56 ||| maskOf 15 0]
        ∨ !scaleLegal (fld (d.w 4) 63 32) then endDesc s d (stMalformed, 1)
    else if !d.chainIn ∨ a.qcount % a.group ≠ 0 then endDesc s d (stMalformed, 3)
    else match visibleSeq s p a.seq with
    | none => endDesc s d (stNotOwner, 1)
    | some r =>
      if seqLost s p r then endDesc s d (stPoisoned, 1)
      else if a.layer ≥ r.layers ∨ a.head ≥ r.nheads then endDesc s d (stMalformed, 1)
      else match scaleOf d (fld (d.w 7) 63 56) a.layer (a.head + 1) r.dimCode with
      | .error e => endDesc s d e
      | .ok table =>
        let out := hubCount s * a.qcount * partialBytes r.dim (bit w 56)
        if inputSize d ≠ a.qcount * r.dim * eb then endDesc s d (stMalformed, 3)
        else if out > 65536 then endDesc s d (stMalformed, 4)
        else if r.format = 0x30 then endDesc s d (stMalformed, 5)
        else
          let place := fun (k n : Nat) => if d.w k = 0#64 then (none : Option (Nat × Nat)) else match locate s d.owner (d.w k) (occupied s d.owner (d.w k) n) true with
            | .error e => some e
            | .ok loc => writable s loc
          match place 5 out, place 6 32, d.input with
          | some e, _, _ => endDesc s d e
          | _, some e, _ => endDesc s d e
          | _, _, none => endDesc s d (stMalformed, 3)
          | none, none, some tile =>
            if tile.poison then endDesc s d (stPoisoned, 2)
            else
              let (ks, _) := headScales table a.layer a.head r.dim
              putDesc s { d with phase := .running, detail := 0, dim := r.dim, fmt := r.format
                                 held := heldQuery (foldQuery32 (if bit w 55 then fp32 else bf16) eb r.dim a.qcount (fld (d.w 4) 63 32) ks tile.bytes) }

/-- ATTEND (R117 to R122): it takes its sequence's lock shared and waits for it (R88). -/
def Machine.execAttend (q : Nat) (i : BitVec 32) (s : State) : Answer :=
  match stationDesc s q i 0x03 1 with
  | some d => if memActive s && d.locked then .next (attendRun d s) else .next s
  | none => .next s

/-! ### The walk -/

/-- Whether a descriptor waits for its walk. -/
def Desc.wantsWalk (d : Desc) : Bool :=
  d.phase == .running && !d.walked && d.locked && ((d.opcode == 0x03 && d.subop == 1) || (d.opcode == 0x04 && (d.subop == 2 || d.subop == 3)))

/-- The cores of a core list with the fewest pages assigned so far, `n` of them, lowest numbers on a tie (R159). In this order they take their turns of the round robin
(DESIGN CHOICE, log entry 29: R159 does not give the order of several cores, and R154's is for cores chosen by number). -/
def fewest (cs : List Nat) (load : List (Nat × Nat)) : Nat → List Nat
  | 0 => []
  | n + 1 =>
    let best := cs.foldl (fun a c => match a with
      | none => some c
      | some x => if usedOf load c < usedOf load x then some c else some x) none
    match best with
    | none => []
    | some c => c :: fewest (cs.filter (· != c)) load n

/-- The cores of each entry of a BATCH (R159): from bucket 7 down, in entry order within a bucket. -/
def batchCores (cs : List Nat) (ns : List Nat) : List (Nat × List Nat) :=
  let order := (List.range 8).reverse.flatMap fun b => (List.range ns.length).filter fun k => bucketOf (ns.getD k 0) == b
  (order.foldl (fun (acc : List (Nat × List Nat) × List (Nat × Nat)) k =>
    let n := ns.getD k 0
    let mine := fewest cs acc.2 (if bucketOf n ≤ 3 then 1 else min cs.length (ceilDiv n 256))
    let load := (List.range n).foldl (fun l j => match mine[j % max 1 mine.length]? with
      | some c => assign l c (usedOf l c + 1)
      | none => l) acc.2
    (acc.1 ++ [(k, mine)], load)) ([], [])).1

/-- Ends a FOLD whose pages are all done (R154, R160, R163): its partials are merged across its cores, rescaled and rounded. -/
def finishFold (s : State) (d : Desc) : State :=
  let batch := d.subop == 3
  let rs := attnReqs d
  let bf := if batch then bit (wd (batchHeader d.held) 0) 54 else bit (d.w 2) 58
  let h := batchHeader d.held
  let slot := if batch then fld (wd h 0) 63 56 else fld (d.w 7) 63 56
  let resc := if batch then bit (wd h 0) 55 else bit (d.w 7) 55
  let (qf, eb) := if batch then queryFmt (fld (wd h 0) 53 52) else queryFmt (fld (d.w 2) 57 56)
  let vectors := (rs.mapIdx fun k a =>
    let (ks, vs) := headScales (tableTaken d slot) a.layer a.head d.dim
    let n := a.qcount * d.dim * eb
    let codes := if batch then foldQuery32 qf eb d.dim a.qcount (fld (wd h 1) 63 32) ks (slice d.held (32 + 16 * rs.length + k * n) n)
      else unpack 32 d.held (a.qcount * d.dim)
    (List.range a.qcount).map fun v =>
      (vectorTokens d a k (fun _ => true) v ((codes.drop (v * d.dim)).take d.dim), mergeTerms d a k v, if resc then some vs else none)).flatten
  let (out, s) := partialsOf d.dim bf vectors s
  let (s, d) := dropPins s d
  match writeOut s d (if batch then 3 else 6) out with
  | .error e => endDesc s d e
  | .ok s =>
    let (st, det) := degraded (d.detail ||| (if d.moved then 8 else 0))
    let tier := (d.pages.filter fun w => w.route == .tier).length
    let (r0, r1) := if batch then (rs.length, bucketWord (entryPages d)) else (d.pages.length, tier * 2 ^ 32 + satField 32 d.billed)
    putDesc s { d.finish st det r0 r1 with output := some { bytes := out } }

/-- The walk of a descriptor (R89, R90, R129, R136, R153, R154, R159): every page is emitted with its pin taken, and the shared locks end. -/
def walkRun (p : Nat) (d : Desc) (s : State) : State :=
  let sweep := d.opcode == 0x03
  let rs := attnReqs d
  let walks := rs.map fun a => (getSeq s p a.seq).bind fun r => (walkPages r a).map fun xs =>
    (xs, if a.last = 0 then (r.head a.layer a.head).length else a.last, (r.head a.layer a.head).length)
  match walks.findIdx? (·.isNone) with
  | some k =>
    if d.opcode = 0x04 ∧ d.subop = 3 then failDesc s d stInternal 0 (some k) (some (bucketWord (walks.map fun x => (x.map (·.1.length)).getD 0))) else failDesc s d stInternal 0
  | none =>
    let ws : List (List (Nat × Entry) × Nat × Nat) := walks.filterMap id
    if pinsFull s (ws.flatMap (·.1)) then s
    else
      let cs := if sweep then [] else (foldCores s d).1
      let ns := ws.map fun x => x.1.length
      let byEntry := if d.opcode = 0x04 ∧ d.subop = 3 then batchCores cs ns else [(0, cs)]
      let pages : List PageWork := (ws.mapIdx fun k x =>
        let mine := (lookup? byEntry k).getD []
        x.1.mapIdx fun j y => pageWork s k y.1 y.2 sweep (if sweep then none else mine[j % max 1 mine.length]?)).flatten
      let gone := (ws.mapIdx fun k x => (x.1.find? fun y => entryGone s y.2).map fun y => (k, y.1)).findSome? id
      let ends : List (Nat × Nat) := ws.map (·.2)
      let d : Desc := { d.dropShared with walked := true, pages := pages, ranges := ends, cores := cs }
      let unpinned : Desc := { d with pages := pages.map fun (w : PageWork) => { w with pinned := false } }
      match gone with
      | some (k, pg) => pageFail s unpinned { entry := k, page := pg, frame := none, route := .links } stPoisoned 1
      | none =>
        let exact := pages.filter fun w => w.route != .bank
        -- a FOLD needs a core even for no page at all (R154)
        let need := if sweep then exact.head? else some (exact.headD { page := 0, frame := none, route := .links })
        match (if (usableCores s d.owner).isEmpty then need else none) with
        | some w => pageFail s unpinned w 0x60 1
        | none =>
        -- a page on a drive that has failed cannot be read at all (R383, R393)
        match exact.find? fun w => w.spill.any fun slot => !slotServes s p slot with
        | some w => pageFail s unpinned w stTier 1
        | none =>
          let det := (if exact.any (·.route == .tier) then 1 else 0)
            ||| (if sweep ∧ exact.any (·.fenced) then 2 else 0)
            ||| (if d.shortOf s then 16 else 0)
          let d := { d with detail := d.detail ||| det }
          let s := takePins (putDesc s d) pages
          let s := (List.range pages.length).foldl (fun s k => match (pages[k]?).bind (·.spill) with
            | some slot => tierOp s d p k slot
            | none => s) s
          if !sweep ∧ pages.isEmpty then finishFold s d else s

/-- Walk places (R412): those that an owner's walks take beyond the two that each partition holds come from the places of ABSENT partitions. -/
def heldPlaces (s : State) (k : Nat) : Nat := if k < 16 ∧ (getPart s k).live then 2 else 0
def walksOf (s : State) (k : Nat) : Nat := (s.turns.walks.filter fun w => w.1 == k).length
def freePlaces (s : State) : Nat :=
  32 - ((List.range 17).map (heldPlaces s)).sum - ((List.range 17).map fun k => walksOf s k - heldPlaces s k).sum

/-- The turns after an owner's walk has taken a place: one of its own, or one of the common places when its turn has come among the owners whose walks wait for one;
none where it has to wait. -/
def takePlace (s : State) (k : Nat) : Option (List Nat) :=
  if walksOf s k < heldPlaces s k then some s.turns.walk
  else if freePlaces s = 0 then none
  else match turn s s.turns.walk (ownersWith s fun x => x.wantsWalk && decide (heldPlaces s x.owner.idx ≤ walksOf s x.owner.idx)) with
    | some (j, taken) => if j = k then some taken else none
    | none => none

/-- A walk as it starts (R136, R412): it holds its place for at most 1 µs in 1,024 pages; how long is a free value (log entry 13). -/
def walkFrom (p : Nat) (d : Desc) (s : State) : State :=
  let s := { s with turns := { s.turns with walks := s.turns.walks.filter fun w => decide (s.time < w.2) } }
  match takePlace s p with
  | none => s
  | some taken =>
    let (v, s) := draw s
    let s' := walkRun p d { s with turns := { s.turns with walk := taken } }
    let n := ((findDesc s' d.ctx d.index).map (·.pages.length)).getD 0
    { s' with turns := { s'.turns with walks := s'.turns.walks ++ [(p, s.time + v % (1000 * ceilDiv n 1024 + 1))] } }

/-- WALK_START (R89, R136, R412): a walk starts when it has a place, within one owner in dispatch order; its pages are emitted in one step (log entry 13). -/
def Machine.execWalkStart (q : Nat) (i : BitVec 32) (t : Nat) (s : State) : Answer :=
  match findDesc s q i with
  | some d =>
    let earlier := (s.flight.takeWhile fun x => !(x.ctx == q && x.index == i)).any fun x => x.owner == d.owner && x.wantsWalk
    match d.owner with
    | .part p => if d.wantsWalk && !earlier && memActive s then .next (walkFrom p d (atTime s t)) else .next s
    | .fm => .next s
  | none => .next s

/-! ### Chunks -/

/-- Passes of an ATTEND, lanes in use in a pass (R123). -/
def passesOf (d : Desc) : Nat := ceilDiv (attendReqOf d).qcount 4
def lanesIn (d : Desc) (pass : Nat) : Nat := min 4 ((attendReqOf d).qcount - 4 * pass)

/-- Cycles of a page-pass at 625 MHz (R126). -/
def passCycles (fmt dim lanes : Nat) : Nat :=
  let (e, x) := tokenShape fmt dim
  let cols := ceilDiv (16 * (e + x)) 32
  cols + max cols (ceilDiv (16 * dim * lanes) 128) + 4

/-- Whether a format's codes are narrower than 8 bits, so that a pass builds product tables (R123). -/
def narrow (fmt : Nat) : Bool := match pageFmt fmt with
  | some (bits, _, _) => decide (bits < 8)
  | none => false

/-- The page-passes that fit a chunk of 0.9 µs, which is 562 cycles (R113, R123): the first is always held. -/
def fillChunk (d : Desc) (fmt dim : Nat) (cycles : Nat) (tables : List Nat) (acc : List (Nat × Nat)) : List (Nat × Nat) → Nat × List (Nat × Nat)
  | [] => (cycles, acc)
  | (k, pass) :: r =>
    let build := if narrow fmt && !tables.contains pass then 80 else 0
    let n := cycles + build + passCycles fmt dim (lanesIn d pass)
    if acc.isEmpty ∨ n ≤ 562 then fillChunk d fmt dim n (pass :: tables) (acc ++ [(k, pass)]) r else (cycles, acc)

/-- Groups page-passes by page: page position, passes from and to. -/
def groupWork (ps : List (Nat × Nat)) : List (Nat × Nat × Nat) :=
  (ps.map (·.1)).eraseDups.map fun k =>
    let xs := (ps.filter fun p => p.1 == k).map (·.2)
    (k, xs.foldl min (xs.headD 0), xs.foldl max 0 + 1)

/-- Whether a descriptor has pages queued on a unit. -/
def Desc.wantsUnit (d : Desc) (u : Nat) : Bool :=
  d.phase == .running && d.walked && d.opcode == 0x03 && d.pages.any fun w => w.route == .bank && w.unit == u && w.state == .queued

/-- The descriptor whose chunk a unit runs next: round robin, in dispatch order after the one served last (R113). -/
def nextOnUnit (s : State) (u : Nat) : Option Desc :=
  let after := match (getUnit s u).last with
    | some x => (s.flight.dropWhile fun (d : Desc) => !(d.ctx == x.1 && d.index == x.2)).drop 1
    | none => []
  match after.find? fun (d : Desc) => d.wantsUnit u with
  | some d => some d
  | none => s.flight.find? fun d => d.wantsUnit u

/-- The near-bank bytes counted in this microsecond (R116); owners by index, stacks from 100 on. -/
def sweepWindowAt (s : State) : State :=
  if s.time / 1000 = s.sweepWindow then s else { s with sweepWindow := s.time / 1000, sweepUsed := [] }

/-! ### The state of a unit (R110, R123, R125) -/

/-- FP32 codes of the query of vector v. -/
def queryOf (d : Desc) (v : Nat) : List Nat := (unpack 32 d.held ((attendReqOf d).qcount * d.dim)).drop (v * d.dim) |>.take d.dim

/-- The folded query q′ as a unit's query store takes it from the hub: step 3 of R122. -/
def queryStore (d : Desc) : List Byte := (unpack 32 d.held ((attendReqOf d).qcount * d.dim)).flatMap fun c => leBytes 2 (bf16.round (fp32.value c))

/-- A unit's accumulators go to the hub of its descriptor, as far as that is still at work, and the unit is empty. -/
def handOver (s : State) (u : Nat) : State :=
  let x := getUnit s u
  let s := match x.holder.bind fun h => findDesc s h.1 h.2 with
    | some d => putDesc s { d with parts := d.parts ++ x.acc.mapIdx fun v p => (u / 2560, v, p) }
    | none => s
  modUnit s u fun x => { x with holder := none, query := [], table := none, acc := [], snapshot := [], taken := [] }

/-- A unit takes up a descriptor: what it holds of another one goes to that one's hub; the queries are loaded, and the accumulators start at the empty partial (R125).
The spec does not say what becomes of a unit's accumulators between two chunks of one descriptor with another's between them (DESIGN CHOICE, log entry 60). -/
def takeUp (s : State) (u : Nat) (d : Desc) : State :=
  if (getUnit s u).holder = some (d.ctx, d.index) then s
  else modUnit (handOver s u) u fun x =>
    { x with holder := some (d.ctx, d.index), query := queryStore d, acc := List.replicate (attendReqOf d).qcount (emptyPartial d.dim) }

/-- The accumulators of a unit after page-passes (R125): those of a vector that had no token in them stay; the others are the partial over all the tokens taken. -/
def accumulate (d : Desc) (old : List (Nat × Nat)) (new : List (Nat × Nat)) : Nat → List Partial → State → List Partial × State
  | _, [], s => ([], s)
  | v, p :: r, s =>
    let a := attendReqOf d
    let at_ := fun (xs : List (Nat × Nat)) (w : PageWork) => xs.any fun e => e.2 == v / 4 && (d.pages[e.1]?).any (fun y => y.page == w.page)
    let (p, s) := if (vectorTokens d a 0 (at_ new) v (queryOf d v)).isEmpty then (p, s)
      else attnPartial 0 d.dim p.m (vectorTokens d a 0 (at_ (old ++ new)) v (queryOf d v)) s
    let (ps, s) := accumulate d old new (v + 1) r s
    (p :: ps, s)

/-- The page-passes of a chunk, one by one. -/
def Chunk.passes (c : Chunk) : List (Nat × Nat) := c.work.flatMap fun x => ((List.range x.2.2).filter fun p => decide (x.2.1 ≤ p)).map fun p => (x.1, p)

/-- Whether the next chunk of a unit waits for ordinary accesses queued at its last boundary, which get up to 0.3 µs (R114). -/
def accessFirst (s : State) (u t : Nat) : Bool :=
  decide (t < (getUnit s u).boundary + 300) && (getUnit s u).queue.any fun e => (findDesc s e.1 e.2).any fun d => d.phase != .finished

/-- CHUNK_START (R110, R112 to R114, R116, R123, R411): the issuer starts a chunk on an idle unit, within the stack's share of the sweep cap and the owner's shares. -/
def Machine.execChunkStart (u : Nat) (t : Nat) (s : State) : Answer :=
  let st := u / 512
  if (getUnit s u).chunk.isSome || (getUnit s u).fenced || pchFenced s (u / 16) || s.power.stackPaused.getD st false || decide (u ≥ 10240) || accessFirst s u t then .next s
  else match nextOnUnit s u with
  | none => .next s
  | some d =>
    match d.owner with
    | .fm => .next s
    | .part p =>
      .next (withDoms (atTime s t) [84 + st, 104 + st] fun s =>
        let s := sweepWindowAt s
        let (fmt, dim) := (d.fmt, d.dim)
        let mine := (List.range d.pages.length).filter fun k => match d.pages[k]? with
          | some w => w.route == .bank && w.unit == u && w.state == .queued
          | none => false
        let guarded := mine.any fun k => match (d.pages[k]?).bind (·.frame) with
          | some f => (getExt s f.ext).kind != .openRows
          | none => false
        if guarded then
          -- the hub's region check (R112)
          failDesc (logError s 0x08 2 (some p) u 0#64) d stInternal 0
        else
          let cand := mine.flatMap fun k =>
            let from_ := ((d.pages[k]?).map (·.passes)).getD 0
            ((List.range (passesOf d)).filter fun x => decide (from_ ≤ x)).map fun x => (k, x)
          let (cycles, ps) := fillChunk d fmt dim 0 [] [] cand
          let bytes := ps.length * pageBytes fmt dim
          let (cap, _) := caps s
          let stackCap := cap * s.power.stackLevel.getD st 100 / 100
          let node := cap * ((List.range 20).filter (stackFitted s)).length
          let waiting := ownersWith s fun x => x.opcode == 0x03 && x.phase == .running && x.pages.any fun w => w.route == .bank && w.state == .queued
          let used := s.sweepUsed.filter fun e => decide (e.1 < 17)
          if usedOf s.sweepUsed (100 + st) + bytes > stackCap ∨ !shareOk s node (fun p => (getPart s p).sweepCeil) used waiting p bytes then s
          else
            let work := groupWork ps
            let d := { d with pages := d.pages.mapIdx fun k w => if work.any (fun x => x.1 == k) then { w with state := .reading } else w }
            let m := assign (assign s.sweepUsed (100 + st) (usedOf s.sweepUsed (100 + st) + bytes)) p.val (usedOf s.sweepUsed p.val + bytes)
            modUnit { takeUp (putDesc s d) u d with sweepUsed := m } u fun x =>
              { x with chunk := some { ctx := d.ctx, index := d.index, work := work, ns := cycles * 8 / 5 }
                       snapshot := x.acc, queue := [], table := if narrow fmt then (ps.map (·.2)).foldl (fun a n => some (max n (a.getD 0))) none else none })

/-- The outcome of one page of a chunk (R130 to R132): its status and DETAIL when it cannot be used. -/
def chunkPage (s : State) (p : Nat) (w : PageWork) (firstPass missed uncorrectable : Bool) (dim : Nat) : Option (Nat × Nat) :=
  match w.frame with
  | none => none
  | some f =>
    let x := getFrame s f
    if uncorrectable || pagePoisoned s p f x.format dim then some (stPoisoned, 1)
    else if firstPass && x.fill == 16 && (missed || (crc32c (storedBytes s p f x.format dim)).toNat != x.check) then some (stCheck, 1)
    else none

/-- CHUNK_END (R110, R114, R115, R124, R125, R131 to R133): the page-passes of the chunk are done; a refresh due is issued, ordinary accesses are served, and the time is billed.
`misses`: readings in a row, one or two, in which the chunk's first sealed page mismatched its CHECK; `uncorrectable`: the stack reported a read as uncorrectable. -/
def Machine.execChunkEnd (u : Nat) (misses : Nat) (uncorrectable : Bool) (t : Nat) (s : State) : Answer :=
  match (getUnit s u).chunk with
  | none => .next s
  | some c =>
    let s := atTime s t
    let due := decide ((getUnit s u).postponed ≠ 0)
    let s := modUnit s u fun x => { x with chunk := none, last := some (c.ctx, c.index), postponed := 0, boundary := s.time + if due then 80 else 0 }
    -- the requests of hosts that waited for the boundary are served, and those of descriptors may go on
    let s := releaseAll s
    match findDesc s c.ctx c.index with
    | none => .next s
    | some d =>
      match d.owner with
      | .fm => .next s
      | .part p =>
        if d.phase ≠ .running then .next s
        else
          let dim := d.dim
          let sealedPage := ((c.work.filter fun x => x.2.1 == 0).map (·.1)).find? fun k => match (d.pages[k]?).bind (·.frame) with
            | some f => (getFrame s f).fill == 16
            | none => false
          let bad := (c.work.filterMap fun x => match d.pages[x.1]? with
            | some w => (chunkPage s p w (x.2.1 == 0) (sealedPage == some x.1 && decide (2 ≤ misses)) uncorrectable dim).map fun e => (w, e)
            | none => none)
          match bad with
          | b :: rest =>
            let (w, e) := (b :: rest).foldl (fun a x => if x.2 = a.2 ∧ x.1.page < a.1.page then x else a) b
            let frame := match w.frame with
              | some f => put 47 32 f.ext ||| put 31 16 f.pair ||| put 15 0 f.slot
              | none => 0#64
            let s := logError s (if e.1 = stCheck then 4 else 3) 2 (some p.val) u frame
            let s := modUnit s u fun x => { x with acc := x.snapshot, snapshot := [] }
            .next (unitFault (pageFail s d w e.1 e.2) u (e.1 == stCheck))
          | [] =>
            let s := if misses ≠ 0 ∧ sealedPage.isSome then count s d.owner 9 1 else s
            let (v, s) := draw s
            let image := fun (w : PageWork) => w.frame.map fun f => ((getFrame s f).format, storedBytes s p f (getFrame s f).format dim)
            let done := fun (k : Nat) (w : PageWork) => match c.work.find? fun x => x.1 == k with
              | some x => let w := { w with data := image w }; if x.2.2 = passesOf d then { w with passes := x.2.2, state := .done } else { w with passes := x.2.2, state := .queued }
              | none => w
            -- the boundary takes at most 30 ns and ordinary accesses at most 0.3 µs: the spec gives no number; a refresh takes 80 ns
            let d := { d with pages := d.pages.mapIdx done, chunks := d.chunks + 1, billed := d.billed + v % 331 + (if due then 80 else 0) }
            let x := getUnit s u
            let (acc, s) := accumulate d x.taken c.passes 0 x.acc s
            .next (putDesc (modUnit s u fun x => { x with acc := acc, snapshot := [], taken := x.taken ++ c.passes }) d)

/-- REFRESH_DUE (R115): an idle pair is refreshed at once; under a chunk the refresh is postponed to its boundary, never more than four. -/
def Machine.execRefreshDue (u : Nat) (s : State) : Answer :=
  if (getUnit s u).chunk.isSome then .next (modUnit s u fun x => { x with postponed := min 4 (x.postponed + 1) }) else .next s

/-! ### The hub fold, progress, the end -/

/-- The partial of vector v at a hub (R127, R128): the merge of those that units handed over and of that of the exact-path pages. -/
def hubPartial (s : State) (d : Desc) (hub v : Nat) : Partial × State :=
  let a := attendReqOf d
  let exact := vectorTokens d a 0 (fun w => w.hub == hub && w.route != .bank) v (queryOf d v)
  let all := vectorTokens d a 0 (fun w => w.hub == hub) v (queryOf d v)
  let (p, s) := attnPartial 0 d.dim 0xFF800000 exact s
  let units := (d.parts.filter fun x => x.1 == hub && x.2.1 == v).map (·.2.2)
  mergePartials d.dim (if promised all then some all else none) (units ++ [p]) s

/-- A hub's partials, one for each vector from v on. -/
def hubFold (d : Desc) (hub v : Nat) : Nat → State → List Partial × State
  | 0, s => ([], s)
  | n + 1, s =>
    let (p, s) := hubPartial s d hub v
    let (ps, s) := hubFold d hub (v + 1) n s
    (p :: ps, s)

/-- The output of an ATTEND (R120): the partials of each hub slot, with o rounded to its format. -/
def attendOut (bf : Bool) : List Partial → State → List Byte × State
  | [], s => ([], s)
  | p :: r, s =>
    let (x, s) := partialOut none bf p s
    let (y, s) := attendOut bf r s
    (x ++ y, s)

/-- Ends an ATTEND whose hubs have all folded (R120, R127, R133). -/
def finishAttend (s : State) (d : Desc) : State :=
  let (out, s) := attendOut (bit (d.w 2) 56) ((List.range (hubCount s)).flatMap fun k => (lookup? d.hubParts k).getD []) s
  let (s, d) := dropPins s d
  match writeOut s d 5 out with
  | .error x => endDesc s d x
  | .ok s =>
    let (st, det) := degraded (d.detail ||| (if d.moved then 8 else 0))
    let banks := (d.pages.filter fun w => w.route == .bank).length
    putDesc s { d.finish st det (some banks) (some ((d.pages.length - banks) * 2 ^ 32 + satField 32 d.billed)) with output := some { bytes := out } }

/-- The units of a hub whose accumulators hold partials of a descriptor hand them over. -/
def gatherUnits (s : State) (d : Desc) (hub : Nat) : State :=
  (s.units.filter fun u => u.1 / 2560 == hub && u.2.holder == some (d.ctx, d.index)).foldl (fun s u => handOver s u.1) s

/-- HUB_FOLD (R127, R129): a hub merges the partials of its units and of its exact-path pages once all of them are done; spilled pages belong to hub 0. With the last hub
of the variant the sweep's output is complete. -/
def Machine.execHubFold (q : Nat) (i : BitVec 32) (hub : Nat) (s : State) : Answer :=
  match findDesc s q i with
  | some d =>
    if d.phase == .running && d.opcode == 0x03 && d.walked && decide (hub < hubCount s) && !d.hubsDone.contains hub
        && d.pages.all (fun w => w.hub != hub || w.state == .done) then
      let s := gatherUnits s d hub
      let d := (findDesc s q i).getD d
      let (ps, s) := hubFold d hub 0 (attendReqOf d).qcount s
      let d := { d with hubsDone := hub :: d.hubsDone, hubParts := d.hubParts ++ [(hub, ps)] }
      if d.hubsDone.length = hubCount s then .next (finishAttend (putDesc s d) d) else .next (putDesc s d)
    else .next s
  | none => .next s

/-- PROGRESS_RECORD (R134): at each multiple of PROGRESS_PERIOD after dispatch, a record is written at PROGRESS, also while the ATTEND waits for its lock. -/
def Machine.execProgressRecord (q : Nat) (i : BitVec 32) (t : Nat) (s : State) : Answer :=
  match findDesc s q i with
  | some d =>
    let period := 1000 * fld (d.w 7) 15 0
    if d.opcode == 0x03 && d.subop == 1 && d.phase != .finished && d.w 6 != 0#64 && period != 0 && decide (d.time + (d.progressCount + 1) * period ≤ t) then
      let s := progressRecord (atTime s t) d false
      .next (putDesc s { d with progressCount := d.progressCount + 1 })
    else .next s
  | none => .next s

/-! ### RESEAL -/

/-- The extent that a RESEAL names, by its requester's numbering (R137). -/
def resealExtent (s : State) (d : Desc) : Option Nat :=
  let k := fld (d.w 2) 10 0
  match d.owner with
  | .part p => ownExt s p k
  | .fm => if inPool s k then some k else none

/-- Whether a descriptor is a RESEAL. -/
def Desc.isReseal (d : Desc) : Bool := d.opcode == 0x03 && d.subop == 2

/-- Whether a descriptor has converted an extent, or is converting it, and its record is not yet written (R138). -/
def Desc.converts (s : State) (d : Desc) (e : Nat) : Bool :=
  (d.isReseal && d.started && resealExtent s d == some e) || d.effects.any fun x => match x with
    | .resealed e' _ _ => e' == e
    | _ => false

/-- Whether a RESEAL of an extent waits for another one of it (R140): one that is converting it, or one dispatched earlier that waits to. -/
def resealBefore (s : State) (d : Desc) (e : Nat) : Bool :=
  (s.flight.any fun x => !(x.ctx == d.ctx && x.index == d.index) && x.converts s e)
    || (dispatchedBefore s d).any fun x => x.isReseal && x.phase != .finished && resealExtent s x == some e

/-- Whether an extent belongs to the page store, or is about to (R95, R137). -/
def inStore (s : State) (d : Desc) (e : Nat) : Bool :=
  claimedElse s d e || match (getExt s e).use with
    | .page _ => true
    | .control => true
    | _ => false

/-- RESEAL places in use of an owner: 2 of a partition, 8 of the fabric manager (R140, R412). -/
def resealsOf (s : State) (o : Owner) : Nat := (s.flight.filter fun x => x.owner == o && x.isReseal && x.started).length

/-- RESEAL (R137, R140): the extent's owner, its use and its kind are judged once no earlier RESEAL of it is in flight; a conversion then waits for its place. A
program's RESEAL sees what its earlier steps have staged. -/
def Machine.execReseal (q : Nat) (i : BitVec 32) (s : State) : Answer :=
  match stationDesc s q i 0x03 2 with
  | none => .next s
  | some d =>
    if !memActive s then .next s
    else if d.len ≠ 0 ∨ !bodyOk d.cur [maskOf 16 16 ||| maskOf 10 0] then .next (endDesc s d (stMalformed, 1))
    else match resealExtent s d with
    | none => .next (endDesc s d (stNotOwner, 3))
    | some e =>
      if resealBefore s d e then .next s
      else if inStore (stagedView s d) d e then .next (endDesc s d (stMalformed, 4))
      else if (getExt (stagedView s d) e).kind = (if bit (d.w 2) 16 then ExtKind.openRows else ExtKind.guarded) then .next (putDesc s (d.finish stDone 0 (some 0)))
      else .next (putDesc s { d with phase := .running })

/-- RESEAL_START (R138, R140): with a place free, in dispatch order of its owner, the RESEAL takes its commit point and the extent awaits reseal until the record is
written. -/
def Machine.execResealStart (q : Nat) (i : BitVec 32) (s : State) : Answer :=
  match findDesc s q i with
  | none => .next s
  | some d =>
    let earlier := (dispatchedBefore s d).any fun x => x.owner == d.owner && x.isReseal && x.phase == .running && !x.started
    let places := if d.owner = .fm then 8 else 2
    if d.isReseal && d.phase == .running && !d.started && !earlier && decide (resealsOf s d.owner < places) then
      match resealExtent s d with
      | none => .next (endDesc s d (stNotOwner, 3))
      | some e =>
        if inStore (stagedView s d) d e then .next (endDesc s d (stMalformed, 4))
        else .next (modExt (putDesc s { d with latched := true, started := true }) e fun x => { x with was := (getExt (stagedView s d) e).kind, kind := .awaiting })
    else .next s

/-- RESEAL_DONE (R139, R141): the conversion ends, and with the commit the extent has its new kind. `badRows` lists the rows that the stack reported as uncorrectable, by row number in the extent; a row holds 1,024
bytes Open and 960 bytes Guarded. To Guarded they are written with poisoned check bits; to Open the extent stays Guarded and unchanged. -/
def Machine.execResealDone (q : Nat) (i : BitVec 32) (badRows : List Nat) (s : State) : Answer :=
  match findDesc s q i with
  | none => .next s
  | some d =>
    if d.isReseal && d.phase == .running && d.started then
      match resealExtent s d with
      | none => .next (endDesc s d (stNotOwner, 3))
      | some e =>
        let toOpen := bit (d.w 2) 16
        -- a row that holds a poisoned line is no less uncorrectable (R139, R510)
        let marked := if !toOpen then [] else s.hbmPoison.flatMap fun l =>
          if hbmAddr e 0 ≤ 64 * l ∧ 64 * l < hbmAddr e (240 * 2 ^ 20) then [(64 * l - hbmAddr e 0) / 960, (64 * l + 63 - hbmAddr e 0) / 960] else []
        let bad := ((badRows.filter fun r => decide (r < 262144)) ++ marked).eraseDups
        -- rows that the stack could not correct count toward a fence of their pairs (R141)
        let s := (badRows.filter fun r => decide (r < 262144)).foldl (fun s r => unitFault s (e / 3 * 16 + r / 16384) false) s
        if toOpen ∧ !bad.isEmpty then
          .next (putDesc s { d.finish stPoisoned 3 (some bad.length) with effects := d.effects ++ [.resealed e .guarded false] })
        else
          let a := hbmAddr e 0
          let tail := hbmAddr e (240 * 2 ^ 20)
          let gone := fun (l : Nat) => decide (tail ≤ 64 * l ∧ 64 * l < a + 2 ^ 28)
          let kept := s.openPoison.filter fun l => !gone l
          let here := kept.filter fun l => decide (a ≤ 64 * l ∧ 64 * l < tail)
          let s := { s with hbm := Memory.clear s.hbm tail (2 ^ 28 - 240 * 2 ^ 20)
                            hbmPoison := (s.hbmPoison.filter fun l => !gone l) ++ (if toOpen then [] else here ++ bad.flatMap fun r => (lines (hbmAddr e (1024 * r)) 1024).filter fun l => !gone l)
                            openPoison := if toOpen then kept else kept.filter fun l => !here.contains l }
          let (st, det) := degraded (if bad.isEmpty then 0 else 1)
          .next (putDesc s { d.finish st det (some bad.length) with effects := d.effects ++ [.resealed e (if toOpen then .openRows else .guarded) true] })
    else .next s

/-! ### Fences -/

/-- Whether the hub maintenance of a unit's hub is paused or restarting (R459, R462); after its fence the role is Carillon 15's. -/
def maintenanceAway (s : State) (u : Nat) : Bool :=
  let x := 18 + u / 2560
  procAway s (if (s.fw.procs.getD x {}).fenced then 17 else x)

/-- BANK_PAIR_FENCE (R141, R142): a decision of hub maintenance, acted on after a pause of it (R459). -/
def Machine.execBankPairFence (u : Nat) (t : Nat) (s : State) : Answer := if maintenanceAway s u then .next s else .next (fencePair (atTime s t) u)

end Sys2Proof
end

