-- ==== Sys2Proof/Machine/Fold.lean ====
section
/-!
DEFINITION. The FOLD station and the Tabor cores (R143 to R170): MERGE, EXACT, BATCH, page reads over the package links, pages on cores, piece state, and core
fences with their spares.
-/
namespace Sys2Proof

open Machine (State Fault Refusal)

/-! ### MERGE -/

/-- The core on which a piece of so many bytes can run (R161, R162), among an owner's usable cores: the fewest pages queued. -/
def pieceCore (s : State) (o : Owner) (bytes : Nat) : Option Nat :=
  leastCore s ((usableCores s o).filter fun c => match coreOf s c with
    | some x => decide (resident s x + bytes ≤ pieceRegion)
    | none => false)

/-- Bytes of the working state of a MERGE: its input and its output (R161). -/
def mergeBytes (d : Desc) : Nat :=
  inputSize d + (fld (d.w 2) 54 48 + 1) * partialBytes ((dimOf (fld (d.w 2) 2 0)).getD 64) (bit (d.w 2) 57)

/-- Runs a piece on a core once its domain is ON (R488). -/
def onCore (s : State) (c : Nat) (k : State → State) : State :=
  match coreOf s c with
  | some x => withDoms s [4 + x] k
  | none => s

/-- MERGE as it runs (R148 to R150, R163). -/
def mergeRun (rd : HostRead) (d : Desc) (s : State) : State :=
  let w := d.w 2
  let (bin, bout) := (bit w 56, bit w 57)
  let resc := bit w 55
  let qs := fld w 54 48 + 1
  let slots := fld w 21 16 + 1
  if !bodyOk d.cur [maskOf 57 48 ||| maskOf 45 32 ||| maskOf 21 16 ||| maskOf 2 0, allBits, allBits, 0#64, 0#64, maskOf 63 56] ∨ fld w 2 0 > 4 then
    endDesc s d (stMalformed, 1)
  else
    let dim := (dimOf (fld w 2 0)).getD 64
    match (if resc then scaleOf d (fld (d.w 7) 63 56) (fld w 39 32) (fld w 45 40 + 1) (fld w 2 0) else .ok none) with
    | .error e => endDesc s d e
    | .ok table =>
      let n := partialBytes dim bin
      if inputBreach d 3 ∨ inputSize d ≠ slots * qs * n then endDesc s d (stMalformed, 3)
      else if qs * partialBytes dim bout > 65536 then endDesc s d (stMalformed, 4)
      else if (usableCores s d.owner).isEmpty then endDesc s d (0x60, 1)
      else match pieceCore s d.owner (mergeBytes d) with
      | none => s
      | some c => onCore s c fun s =>
        match tileInput s d 3 rd with
        | .error e => endDesc s d e
        | .ok bs =>
          let ps := (List.range (slots * qs)).map fun k => readPartial dim bin (slice bs (k * n) n)
          match ps.findIdx? badPartial with
          | some k => putDesc s (d.finish stMalformed 7 (some k))
          | none =>
            let rs := if resc then some (headScales table (fld w 39 32) (fld w 45 40) dim).2 else none
            let (out, s) := mergeVectors dim rs bout ((List.range qs).map fun v => (List.range slots).map fun k => ps.getD (k * qs + v) ⟨0, 0, []⟩) s
            match writeOut s d 4 out with
            | .error e => endDesc s d e
            | .ok s => putDesc s { d.finish stDone 0 (some (ps.filter fun p => p.m != 0xFF800000).length) (some 0) with output := some { bytes := out } }

/-- MERGE (R147 to R150). -/
def Machine.execMerge (q : Nat) (i : BitVec 32) (rd : HostRead) (s : State) : Answer :=
  stationRun s q i 0x04 1 [3, 4] (mergeRun rd)

/-! ### EXACT -/

/-- The output place of a FOLD is judged before its work. -/
def outProblem (s : State) (d : Desc) (k n : Nat) : Option (Nat × Nat) :=
  if d.w k = 0#64 then none
  else match locate s d.owner (d.w k) (occupied s d.owner (d.w k) n) true with
    | .error e => some e
    | .ok loc => writable s loc

/-- EXACT as the station runs it (R151 to R154). -/
def exactRun (rd : HostRead) (d : Desc) (s : State) : State :=
  let a := exactReqOf d
  let w := d.w 2
  let (qf, eb) := queryFmt (fld w 57 56)
  if !bodyOk d.cur [maskOf 58 48 ||| maskOf 45 0, maskOf 56 32 ||| maskOf 24 0, maskOf 63 32 ||| maskOf 24 0, allBits, allBits,
                    maskOf 63 55 ||| maskOf 45 40 ||| maskOf 6 0]
      ∨ fld w 57 56 = 3 ∨ fld (d.w 7) 6 0 > 64 ∨ !scaleLegal (fld (d.w 4) 63 32) then endDesc s d (stMalformed, 1)
  else if inputBreach d 5 ∨ a.qcount % a.group ≠ 0 then endDesc s d (stMalformed, 3)
  else if (usableCores s d.owner).isEmpty then endDesc s d (0x60, 1)
  else match d.owner with
  | .fm => endDesc s d (stNotOwner, 1)
  | .part p =>
    match visibleSeq s p a.seq with
    | none => endDesc s d (stNotOwner, 1)
    | some r =>
      if seqLost s p r then endDesc s d (stPoisoned, 1)
      else if a.layer ≥ r.layers ∨ a.head ≥ r.nheads then endDesc s d (stMalformed, 1)
      else match scaleOf d (fld (d.w 7) 63 56) a.layer (a.head + 1) r.dimCode with
      | .error e => endDesc s d e
      | .ok table =>
        let out := a.qcount * partialBytes r.dim (bit w 58)
        if inputSize d ≠ a.qcount * r.dim * eb then endDesc s d (stMalformed, 3)
        else if out > 65536 then endDesc s d (stMalformed, 4)
        else match outProblem s d 6 out with
        | some e => endDesc s d e
        | none =>
          match tileInput s d 5 rd with
          | .error e => endDesc s d e
          | .ok bs =>
            putDesc s { d with phase := .running, detail := 0, billed := 0, dim := r.dim, fmt := r.format
                               held := heldQuery (foldQuery32 qf eb r.dim a.qcount (fld (d.w 4) 63 32) (headScales table a.layer a.head r.dim).1 bs) }

/-- EXACT (R151 to R154): it takes its sequence's lock shared and waits for it. -/
def Machine.execFoldExact (q : Nat) (i : BitVec 32) (rd : HostRead) (s : State) : Answer :=
  match stationDesc s q i 0x04 2 with
  | some d => if memActive s && d.locked then stationRun s q i 0x04 2 [5, 6] (exactRun rd) else .next s
  | none => .next s

/-! ### BATCH -/

/-- Whether a BATCH's header keeps its reserved bits 0 and its fields legal (R157). -/
def batchHeaderOk (bs : List Byte) : Bool :=
  let h := batchHeader bs
  let clear := fun (w m : Word) => w &&& ~~~m == 0#64
  clear (wd h 0) (maskOf 63 52 ||| maskOf 47 40 ||| maskOf 37 32 ||| maskOf 9 0) && clear (wd h 1) (maskOf 63 32 ||| maskOf 24 0)
    && wd h 2 == 0#64 && wd h 3 == 0#64 && fld (wd h 0) 53 52 != 3 && scaleLegal (fld (wd h 1) 63 32)

/-- The first entry of a BATCH that has a reserved bit set. -/
def batchBadEntry (bs : List Byte) : Option Nat :=
  let clear := fun (w m : Word) => w &&& ~~~m == 0#64
  (List.range (batchCount bs)).find? fun k =>
    let n := toWords 2 (slice bs (32 + 16 * k) 16)
    !(clear (wd n 0) (maskOf 63 32 ||| maskOf 13 0) && clear (wd n 1) (maskOf 56 32 ||| maskOf 24 0))

/-- The pages of each entry's walk, as far as its sequence gives one: the bucket counts of R160. -/
def batchBuckets (s : State) (p : Nat) (rs : List AttnReq) : Nat :=
  bucketWord (rs.filterMap fun a => ((visibleSeq s p a.seq).bind fun r => walkPages r a).map (·.length))

/-- The first entry that is refused, with its status and DETAIL (R157, R160). -/
def batchProblem (s : State) (p : Nat) (d : Desc) (rs : List AttnReq) (slot : Nat) : Option (Nat × Nat × Nat) :=
  let dim := fun (a : AttnReq) => ((visibleSeq s p a.seq).map (·.dimCode))
  ((rs.mapIdx fun k a => (k, a)).findSome? fun x =>
    let (k, a) := x
    match visibleSeq s p a.seq with
    | none => some (k, stNotOwner, 1)
    | some r =>
      if seqLost s p r then some (k, stPoisoned, 1)
      else if a.layer ≥ r.layers ∨ a.head ≥ r.nheads then some (k, stMalformed, 1)
      else if (rs[0]?).bind dim ≠ some r.dimCode then some (k, stMalformed, 6)
      else match scaleOf d slot a.layer (a.head + 1) r.dimCode with
        | .error e => some (k, e.1, e.2)
        | .ok _ => none)

/-- A BATCH that holds its locks: its entries are judged, and its walks wait (R157 to R160). -/
def batchJudge (d : Desc) (s : State) : State :=
  let bs := d.held
  let h := batchHeader bs
  let rs := batchReqs bs
  match d.owner with
  | .fm => endDesc s d (stNotOwner, 1)
  | .part p =>
    match batchProblem s p d rs (fld (wd h 0) 63 56) with
    | some (k, st, det) => putDesc s (d.finish st det (some k) (some (batchBuckets s p rs)))
    | none =>
      let r := (rs[0]?).bind fun a => getSeq s p a.seq
      let dim := (r.map (·.dim)).getD 64
      let (_, eb) := queryFmt (fld (wd h 0) 53 52)
      let out := rs.length * batchQ bs * partialBytes dim (bit (wd h 0) 54)
      if bs.length ≠ 32 + 16 * rs.length + rs.length * batchQ bs * dim * eb then endDesc s d (stMalformed, 3)
      else if out > 65536 then endDesc s d (stMalformed, 4)
      else match outProblem s d 3 out with
      | some e => endDesc s d e
      | none => putDesc s { d with phase := .running, detail := 0, billed := 0, dim := dim }

/-- BATCH as the station first runs it, with what was read of its input at dispatch, when its locks were asked for (R88). An input that could not be read then, one
of a program step after another's among them, is read here, and its locks are asked for here (log entry 14); a wait for locks asked for at dispatch was counted then (R88). -/
def batchRun (rd : HostRead) (d : Desc) (s : State) : State :=
  if !bodyOk d.cur [allBits, allBits, maskOf 6 0] ∨ fld (d.w 4) 6 0 > 64 then endDesc s d (stMalformed, 1)
  else if inputBreach d 2 ∨ inputSize d < 48 then endDesc s d (stMalformed, 3)
  else match earlyInput d 2 rd 2 (tileInput s d 2 rd) with
  | .error e => endDesc s d e
  | .ok bs =>
    let rs := batchReqs bs
    -- what every entry breaks ends the BATCH at its first entry (R160)
    let at_ := fun (k st det : Nat) => putDesc s (d.finish st det (some k) (some (match d.owner with
      | .part p => batchBuckets s p rs
      | .fm => 0)))
    if bs.length < 32 + 16 * batchCount bs then endDesc s d (stMalformed, 3)
    else if !batchHeaderOk bs then at_ 0 stMalformed 1
    else match batchBadEntry bs with
    | some k => at_ k stMalformed 1
    | none =>
    if batchQ bs % (fld (wd (batchHeader bs) 0) 37 32 + 1) ≠ 0 then at_ 0 stMalformed 3
    else if (usableCores s d.owner).isEmpty then at_ 0 0x60 1
    else match d.owner with
    | .fm => at_ 0 stNotOwner 1
    | .part p =>
      let want := ((rs.map fun a => (p.val, a.seq, false)).filter fun x => !d.locks.any fun y => y.1 == x.1 && y.2.1 == x.2.1).eraseDups
      -- it keeps the scale table that it names, and no other (R178, R182)
      let names := fun (k : Nat) => k == (batchNames bs).2 || d.prog.isSome
      let s := freeScales (putDesc s { d with scale := d.scale.filter fun e => names e.1 }) { d with scale := d.scale.filter fun e => !names e.1 }
      let d := { d with held := bs, locks := d.locks ++ want, scale := d.scale.filter fun e => names e.1 }
      if lockFree s d then batchJudge { d with heldLocks := d.locks } s else putDesc (if want.isEmpty then s else count s d.owner 1 1) d

/-- BATCH (R157 to R160). -/
def Machine.execBatch (q : Nat) (i : BitVec 32) (rd : HostRead) (s : State) : Answer :=
  match stationDesc s q i 0x04 3 with
  | some d =>
    if !memActive s then .next s
    else if d.held.isEmpty then stationRun s q i 0x04 3 [2, 3] (batchRun rd)
    else if d.locked then .next (batchJudge d s) else .next s
  | none => .next s

/-! ### Pages over the package links and on the cores -/

/-- Coded bytes that the read of a page brings over the links (R155). -/
def linkBytes (s : State) (p : Nat) (w : PageWork) (dim : Nat) : Nat :=
  match w.frame with
  | some f => (storedBytes s p f (getFrame s f).format dim).length
  | none => 0

/-- The bytes counted toward the exact cap in this microsecond (R155), by owner. -/
def exactWindowAt (s : State) : State :=
  if s.time / 1000 = s.exactWindow then s else { s with exactWindow := s.time / 1000, exactUsed := [] }

/-- Sets page k of a descriptor's walk. -/
def Desc.setPage (d : Desc) (k : Nat) (f : PageWork → PageWork) : Desc := { d with pages := d.pages.modify k f }

/-- Stored bytes of the pages read over the links that a logical core has not taken up yet (R143). -/
def streamBytes (s : State) (c : Nat) : Nat :=
  (s.flight.map fun d => match d.owner with
    | .part p => ((d.pages.filter fun w => w.core == some c && w.route == .links && w.state == .read).map fun w => linkBytes s p w d.dim).sum
    | .fm => 0).sum

/-- Bytes of the page-stream region of a core's tile buffer (R143). -/
def streamRegion : Nat := 512 * 1024

/-- EXACT_PAGE_READ (R129, R130, R143, R153, R155): page k of a walk is read over the package links once the exact cap allows it and the page-stream region of its
core has room, and its CHECK is verified; a SWEEP's page goes to the core with the fewest pages queued (R161). `misses`: readings in a row, one or two, in which a
sealed page mismatched its CHECK; a second reading crosses the links too. While the page's bank pair runs a chunk, or its stack is paused, the read waits in the pair's
queue (R114, R502). -/
def Machine.execExactPageRead (q : Nat) (i : BitVec 32) (k : Nat) (misses : Nat) (uncorrectable : Bool) (t : Nat) (s : State) : Answer :=
  match findDesc s q i with
  | none => .next s
  | some d =>
    match d.owner, d.pages[k]? with
    | .part p, some w =>
      match w.frame with
      | none => .next s
      | some f =>
        if d.phase ≠ .running ∨ w.route ≠ .links ∨ w.state ≠ .queued then .next s
        else if pairBusy s f.unit then .next (queueAccess s d [f.unit])
        else .next (withDoms (atTime s t) [84 + f.ext / 96] fun s =>
          let s := exactWindowAt s
          let bytes := linkBytes s p w d.dim
          let core := match w.core with
            | some c => some c
            | none => leastCore s (usableCores s d.owner)
          let x := getFrame s f
          let moved := if x.fill = 16 ∧ misses ≠ 0 then 2 * bytes else bytes
          let room := match core with
            | some c => decide (streamBytes s c + bytes ≤ streamRegion)
            | none => true
          let waiting := ownersWith s fun x => x.phase == .running && x.pages.any fun w => w.route == .links && w.state == .queued
          if !shareOk s (caps s).2.1 (fun p => (getPart s p).exactCeil) s.exactUsed waiting p moved ∨ !room then s
          else
            let s := { s with exactUsed := assign s.exactUsed p.val (usedOf s.exactUsed p.val + moved) }
            if uncorrectable || pagePoisoned s p f x.format d.dim then
              let s := logError s 3 2 (some p.val) f.unit (put 47 32 f.ext ||| put 31 16 f.pair ||| put 15 0 f.slot)
              unitFault (pageFail s d w stPoisoned 1) f.unit false
            else if x.fill = 16 ∧ (2 ≤ misses ∨ (crc32c (storedBytes s p f x.format d.dim)).toNat ≠ x.check) then
              let s := logError s 4 2 (some p.val) f.unit (put 47 32 f.ext ||| put 31 16 f.pair ||| put 15 0 f.slot)
              unitFault (pageFail s d w stCheck 1) f.unit true
            else
              let s := if misses ≠ 0 ∧ x.fill = 16 then count s d.owner 9 1 else s
              match core with
              | none => pageFail s d w 0x60 1
              | some c => putDesc s (d.setPage k fun w => { w with state := .read, core := some c, order := nextOrder s }))
    | _, _ => .next s

/-- Exponent bits of a coded block's elements, escapes included (R225). -/
def expBitsOf (t : DecodeTable) (words : List Nat) : Nat := (words.map fun w => (expBits (codesOf t.lengths) ((w >>> 7) % 256)).length).sum

/-- Expander cycles of one stored block (R225). -/
def blockCycles (tables : List (Option DecodeTable)) (b : Nat × Word × List Byte) : Nat :=
  let n := ceilDiv b.2.2.length 256
  if bit b.2.1 63 then
    match tables.getD (fld b.2.1 62 62) none with
    | some t => match decodeBody t.lengths (b.1 / 2) b.2.2 with
      | some (x, _) => max n (ceilDiv (expBitsOf t (unpack 16 x (x.length / 2))) 768)
      | none => n
    | none => n
  else n

/-- What a core finds in a page: its format, its blocks with their words, and its stored bytes. -/
def corePageData (s : State) (p : Nat) (w : PageWork) (dim : Nat) : Option (Nat × List (Nat × Word × List Byte) × Nat) :=
  match w.frame, w.spill with
  | some f, _ =>
    let x := getFrame s f
    let bs := storedBytes s p f x.format dim
    let ws := (lookup? s.words f).getD ((cb16Blocks dim).map rawWord)
    some (x.format, if x.format = 0x30 then cutStored dim ws bs else [], bs.length)
  | none, some k =>
    (lookup? (getFlash s p).spill k).map fun x => (x.format, if x.format = 0x30 then cutStored dim x.words x.bytes else [], x.bytes.length)
  | none, none => none

/-- The stored bytes of a page that is not CB16, as a core finds them. -/
def corePageBytes (s : State) (p : Nat) (w : PageWork) (dim : Nat) : List Byte :=
  match w.frame, w.spill with
  | some f, _ => storedBytes s p f (getFrame s f).format dim
  | none, some k => ((lookup? (getFlash s p).spill k).map (·.bytes)).getD []
  | none, none => []

/-- Stall cycles of a page (R156, R225, R226). -/
def stallCycles (tables : List (Option DecodeTable)) (fmt dim n stored : Nat) (blocks : List (Nat × Word × List Byte)) : Nat :=
  if fmt ≠ 0x30 then 0
  else (blocks.map (blockCycles tables)).sum - max (ceilDiv stored 256) (max (dim / 8) (ceilDiv (dim * n) 128))

/-- Bytes of piece state of a descriptor on a core (R161). -/
def pieceBytes (d : Desc) (w : PageWork) : Nat :=
  let q := ((attnReqs d)[w.entry]?.map (·.qcount)).getD 1
  q * d.dim * 2 + q * (8 + 4 * d.dim)

/-- Whether a page that has been read can be worked on by a physical core: its piece runs there (R162), and no block of it waits for a table (R216). -/
def pageReady (s : State) (x : Nat) (d : Desc) (w : PageWork) : Bool :=
  match d.owner.part? with
  | none => false
  | some p => match corePageData s p w d.dim with
    | none => false
    | some (fmt, blocks, _) => pieceFits s x d (pieceBytes d w) && !(fmt == 0x30 && d.wordsWait (blocks.map (·.2.1)))

/-- Whether another page is before one in the order of its core (R161): its check passed earlier, and its piece runs there without waiting. -/
def servedAfter (s : State) (x : Nat) (w : PageWork) : Bool :=
  s.flight.any fun e => e.phase == .running && e.pages.any fun v =>
    v.core == w.core && v.route != .bank && v.state == .read && decide (v.order < w.order) && pageReady s x e v

/-- CORE_PAGE (R145, R156, R161, R162, R217, R226, R227): a core takes page k for one piece, in its tile buffer's room, in the order in which checks passed. CB16
blocks are decoded with the tables held; a block that fails is decoded on another core, and the first core is fenced when the second one succeeds. An owner with one
usable core decodes it again on that one, and a success then fences nothing (DESIGN CHOICE, log entry 29: R169 and R227 speak only of another core). `mismatch`: the core's
own decoding failed. -/
def Machine.execCorePage (q : Nat) (i : BitVec 32) (k : Nat) (mismatch : Bool) (s : State) : Answer :=
  match findDesc s q i with
  | none => .next s
  | some d =>
    match d.owner, d.pages[k]? with
    | .part p, some w =>
      match w.core.bind (coreOf s), corePageData s p w d.dim with
      | some x, some (fmt, blocks, stored) =>
        if d.phase ≠ .running ∨ w.route = .bank ∨ w.state ≠ .read then .next s
        else if !pageReady s x d w || servedAfter s x w then .next s
        else .next (withDoms s [4 + x] fun s =>
          let s := takePiece s x d (pieceBytes d w)
          let tables := d.tables
          let image : Except BlockFail (List Byte) := if fmt = 0x30 then (if mismatch then .error .mismatch else decodeBlocks tables blocks) else .ok (corePageBytes s p w d.dim)
          match image with
          | .error .retired => pageFail s d w (if d.opcode = 0x03 then stPoisoned else stRetired) 1
          | .error .mismatch =>
            match w.first with
            | some _ => pageFail s d w stCheck 2
            | none =>
              let others := (usableCores s d.owner).filter fun c => some c != w.core
              -- the page is read again for the other core, whose stream must have room for it, and crosses the links again (R143, R155)
              let bytes := if w.route = .links then stored else 0
              let s := exactWindowAt s
              let fits := others.filter fun c => decide (streamBytes s c + bytes ≤ streamRegion)
              let waiting := ownersWith s fun x => x.phase == .running && x.pages.any fun w => w.route == .links && w.state == .queued
              if (!others.isEmpty && fits.isEmpty) || !shareOk s (caps s).2.1 (fun p => (getPart s p).exactCeil) s.exactUsed waiting p bytes then s
              else
                let s := { s with exactUsed := assign s.exactUsed p.val (usedOf s.exactUsed p.val + bytes) }
                putDesc s (d.setPage k fun y => { y with first := some x, order := nextOrder s, core := (leastCore s fits).or w.core })
          | .ok bytes =>
            let a := (attnReqs d)[w.entry]?.getD (attendReqOf d)
            let (e, len) := d.ranges.getD w.entry (0, 0)
            let n := pageVectors a e len w.page
            let d := d.setPage k fun w => { w with state := .done, data := some (fmt, bytes) }
            let d := if d.opcode = 0x04 then { d with billed := d.billed + stallCycles tables fmt d.dim n stored blocks } else d
            let s := putDesc s d
            let s := match w.first with
              | some y => if y = x then s else fenceCore s y
              | none => s
            match findDesc s q i with
            | none => s
            | some d => if d.opcode = 0x04 ∧ d.pages.all (fun w => w.state == .done) then finishFold s d else s)
      | _, _ => .next s
    | _, _ => .next s

/-! ### Pieces -/

/-- Bytes of the FOLD spill extent that moved pieces of a partition fill (R162). -/
def movedBytes (s : State) (o : Owner) (place : Nat) : Nat :=
  (s.flight.map fun d => if d.owner = o then
    (s.cores.map fun c => ((c.pieces.filter fun e => e.1 == d.ctx && e.2.1 == d.index && e.2.2.2.1 == place).map fun e => e.2.2.1).sum).sum else 0).sum

/-- Whether a partition names a FOLD spill extent with room for so many bytes (R162, R556). -/
def spillRoom (s : State) (o : Owner) (n : Nat) : Bool :=
  match o with
  | .fm => false
  | .part p =>
    let w := (getOwner s o).foldSpill
    bit w 63 && match ownExt s p (fld w 10 0) with
      | some e => (getExt s e).kind == .guarded && !pchFenced s (e / 3) && decide (movedBytes s o 2 + n ≤ 240 * 2 ^ 20)
      | none => false

/-- Whether a piece must start or resume on a physical core and its region lacks the room (R162): a page has been read for it, or it is a MERGE that fits no core. -/
def roomWanted (s : State) (x : Nat) : Bool :=
  s.flight.any fun d =>
    (d.phase == .running && d.pages.any fun w =>
      w.core.bind (coreOf s) == some x && w.route != .bank && w.state == .read && !pieceFits s x d (pieceBytes d w))
    || (d.phase == .ready && d.opcode == 0x04 && d.subop == 1 && (pieceCore s d.owner (mergeBytes d)).isNone
      && (usableCores s d.owner).any fun c => coreOf s c == some x)

/-- PIECE_MOVE (R162): where a piece lacks room on a core, the resident one that has waited longest for a page moves to the staging share of its owner, or to the FOLD
spill extent, and its descriptor is then degraded; with room in neither it stays. -/
def Machine.execPieceMove (core : Nat) (s : State) : Answer :=
  match (if roomWanted s core then (s.cores.getD core {}).pieces.find? fun e => e.2.2.2.1 == 0 else none) with
  | none => .next s
  | some e =>
    match findDesc s e.1 e.2.1 with
    | none => .next s
    | some d =>
      let move := fun (s : State) (place : Nat) =>
        { s with cores := s.cores.modify core fun c => { c with pieces := c.pieces.map fun x => if x = e then (x.1, x.2.1, x.2.2.1, place, x.2.2.2.2) else x } }
      if heldBytes s d.owner + movedBytes s d.owner 1 + e.2.2.1 ≤ stagingBytes s d.owner then
        .next (withDoms s (Loc.staging 0 0).doms fun s => move s 1)
      else if spillRoom s d.owner e.2.2.1 then .next (putDesc (move s 2) { d with moved := true })
      else .next s

/-! ### Core fences -/

/-- CORE_FENCE (R169, R170): the node fences a physical core. -/
def Machine.execCoreFence (core : Nat) (t : Nat) (s : State) : Answer :=
  let (v, s) := draw (atTime s t)
  let n := coreNumber s core
  let part := if n < 64 then coreOwner s n else none
  .next (fenceCore (if v % 2 = 1 ∧ core < 68 ∧ !(s.cores.getD core {}).fenced then logError s 0x05 1 part n 0#64 else s) core)

/-- SPARE_ASSIGN (R170, R489): a spare, its tile buffer cleared, takes the logical number of a fenced core; its domain takes that core's commanded state. -/
def Machine.execSpareAssign (core : Nat) (s : State) : Answer :=
  match s.coreMap.findIdx? (· == core), spareCore s with
  | some c, some x =>
    if (s.cores.getD core {}).fenced then
      let st := (getDom s (4 + core)).commanded
      let s := { s with coreMap := s.coreMap.set c x, cores := s.cores.modify x fun y => { y with pieces := [] } }
      .next (modDom s (4 + x) fun y => { y with commanded := st, present := st, wake := none })
    else .next s
  | _, _ => .next s

end Sys2Proof
end

