-- ==== Sys2Proof/Machine/Flash.lean ====
section
/-!
DEFINITION. Memory tiers and step state (R381 to R407): flash objects with DRAIN and LIFT, step-state regions, the tier path, deadlines, the flash share, the wear
governor, and the drives.
-/
namespace Sys2Proof

open Machine (State Fault Refusal)

/-- Whether an object belongs to a step-state region (R397). -/
def inRegion (s : State) (p id : Nat) : Bool := (getFlash s p).regions.any fun x => decide (x.2.base ≤ id ∧ id < x.2.base + 2 * x.2.count)

/-- The object that a generation names: in the directory, or replaced while a LIFT reads it (R386). -/
def objectOf (s : State) (p gen : Nat) : Option FlashObj :=
  match (getFlash s p).objects.find? fun x => x.2.gen == gen with
  | some x => some x.2
  | none => (getFlash s p).old.find? fun x => x.gen == gen

/-- Runs a DRAIN or LIFT operation of a partition: the body's reserved bits and LEN first; the fabric manager owns no flash (R388, R389, R406). -/
def flashRun (q : Nat) (i : BitVec 32) (op sub : Nat) (ks : List Nat) (masks : List Word) (k : Nat → Desc → State → State) (s : State) : Answer :=
  stationRun s q i op sub ks fun d s =>
    match d.owner with
    | .fm => endDesc s d (stNotOwner, 1)
    | .part p => if !bodyOk d.cur masks ∨ d.len ≠ 0 then endDesc s d (stMalformed, 1) else k p d s

/-! ### Objects -/

/-- The bytes in which data lie on flash, coded with a table or as they are (R385, R389). -/
def storedForm (slot : Nat) (t : Option DecodeTable) (bs : List Byte) : List Byte :=
  match t with
  | none => bs
  | some t => (encodeStream slot t 0 bs).1

/-- The bytes of an object that hold a part of its data, from a multiple of 4,096 on: where they begin in its stored form, and how many they are (R390, R406); of a coded
object its whole blocks of 4,096 bytes (R207). -/
def storedPart (x : FlashObj) (off n : Nat) : Nat × Nat :=
  match x.table with
  | none => (off, n)
  | some _ => ((storedForm 0 x.table (x.data.take off)).length, (storedForm 0 x.table ((x.data.drop off).take (ceilDiv n 4096 * 4096))).length)

/-- Whether the drives that hold an object serve. -/
def FlashObj.serves (x : FlashObj) (s : State) : Bool := x.spaces.all fun y => driveServes s y.1

/-- A new object of a partition, which takes the next write generation (R433). -/
def newObject (s : State) (p slot : Nat) (t : Option DecodeTable) (bs : List Byte) : State × FlashObj :=
  (modFlash s p fun y => { y with nextGen := y.nextGen + 1 },
   { data := bs, coded := t.isSome, table := t, stored := (storedForm slot t bs).length, spaces := usableNs s p, gen := (getFlash s p).nextGen })

/-- Whether an object of so many stored bytes finds room: the status and DETAIL otherwise (R384, R406). IDs of objects that are being written count. -/
def roomFor (s : State) (p id stored : Nat) : Option (Nat × Nat) :=
  let known := (getFlash s p).objects
  let coming := ((comingObjects s p).map (·.1)).filter fun k => (lookup? known k).isNone
  if flashTaken s p + inUnits stored > flashSpace s p then some (stExhausted, 7)
  else if (lookup? known id).isNone ∧ !coming.contains id ∧ known.length + coming.eraseDups.length ≥ 65536 then some (stExhausted, 8)
  else none

/-- DRAIN OBJECT as the station runs it (R384 to R386, R389, R394): the source is read, and the object's stripes and entry go to the drives. -/
def drainRun (rd : HostRead) (p : Nat) (d : Desc) (s : State) : State :=
  let id := fld (d.w 2) 63 32
  let n := fld (d.w 4) 31 0
  let code := bit (d.w 2) 31
  let slot := fld (d.w 2) 30 30
  let table : Option DecodeTable := if code then d.tables.getD slot none else none
  if id = 0xFFFFFFFF ∨ n = 0 ∨ n > 268435456 ∨ (code ∧ n % 2 = 1) ∨ (code ∧ table.isNone) then endDesc s d (stMalformed, 1)
  else if inRegion s p id then endDesc s d (stNotOwner, 0xB)
  else match readIn s d 3 n rd with
  | .error e => endDesc s d e
  | .ok r =>
    if r.poison then endDesc s d (stPoisoned, 2)
    else
      let body := storedForm slot table r.bytes
      match roomFor s p id body.length with
      | some e => endDesc s d e
      | none =>
        let (s, obj) := newObject s p slot table r.bytes
        let d := { d with phase := .running, pendingObj := some obj, unitsLeft := if code then ceilDiv n 4096 else 0 }
        addOps (putDesc s d) d (some id) none (s.time + deadlineNs d (fld (d.w 2) 23 0)) true (objectPieces p obj 0 body.length body ++ directoryPieces s p)

/-- DRAIN OBJECT (R386): it waits for its table while a load of it is pending (R216). -/
def Machine.execDrainObject (q : Nat) (i : BitVec 32) (rd : HostRead) (t : Nat) (s : State) : Answer :=
  flashRun q i 0x07 1 [3] [maskOf 63 30 ||| maskOf 23 0, allBits, maskOf 31 0]
    (fun p d s => if bit (d.w 2) 31 ∧ d.slotWaits (fld (d.w 2) 30 30) then s else drainRun rd p d s) (atTime s t)

/-- DELETE (R386, R397): the entry goes once the directory has been written. -/
def Machine.execDelete (q : Nat) (i : BitVec 32) (t : Nat) (s : State) : Answer :=
  flashRun q i 0x07 2 [] [maskOf 63 32] (fun p d s =>
    let id := fld (d.w 2) 63 32
    if id = 0xFFFFFFFF then endDesc s d (stMalformed, 1)
    else if inRegion s p id then endDesc s d (stNotOwner, 0xB)
    else if (lookup? (getFlash s p).objects id).isNone then endDesc s d (stNotOwner, 1)
    else if (readableCopies s p).isEmpty then endDesc s d (stTier, 1)
    else
      let d := { d with phase := .running }
      addOps (putDesc s d) d (some id) none (2 ^ 64) true (directoryPieces s p)) (atTime s t)

/-- LIFT OBJECT as the station runs it (R385, R386, R389, R394). -/
def liftRun (p : Nat) (d : Desc) (s : State) : State :=
  let off := fld (d.w 5) 31 0
  if fld (d.w 2) 63 32 = 0xFFFFFFFF ∨ off % 4096 ≠ 0 ∨ fld (d.w 4) 31 0 > 268435456 then endDesc s d (stMalformed, 1)
  else match d.objGen.bind (objectOf s p) with
  | none => endDesc s d (stNotOwner, 1)
  | some x =>
    let n := if fld (d.w 4) 31 0 = 0 then x.data.length - off else fld (d.w 4) 31 0
    if off + n > x.data.length ∨ n = 0 then endDesc s d (stMalformed, 1)
    else if d.w 3 = 0#64 ∧ n > 65536 then endDesc s d (stMalformed, 4)
    else
      let bad : Option (Nat × Nat) := if d.w 3 = 0#64 then none else match locate s d.owner (d.w 3) (occupied s d.owner (d.w 3) n) true with
        | .error e => some e
        | .ok loc => writable s loc
      match bad with
      | some e => endDesc s d e
      | none =>
        if !x.serves s ∨ (readableCopies s p).isEmpty then
          failStep (modStats s p (fld (d.w 2) 63 32) fun y => { y with fails := satAdd 16 y.fails 1 }) d stTier 1
        else
          let d := { d with phase := .running }
          let at_ := storedPart x off n
          addOps (putDesc s d) d (some (fld (d.w 2) 63 32)) none (s.time + deadlineNs d (fld (d.w 2) 23 0)) false (objectPieces p x at_.1 at_.2 [])

/-- LIFT OBJECT (R390). -/
def Machine.execLiftObject (q : Nat) (i : BitVec 32) (t : Nat) (s : State) : Answer :=
  flashRun q i 0x08 1 [3] [maskOf 63 32 ||| maskOf 23 0, allBits, maskOf 31 0, maskOf 31 0] liftRun (atTime s t)

/-- The 64-byte record of an object (R387). -/
def objectRecord (id : Nat) (x : FlashObj) (y : ObjStats) : List Word :=
  [put 63 32 id ||| put 31 28 2 ||| put 27 27 (b2n x.coded) ||| put 15 0 ((x.table.map (·.version)).getD 0),
   put 63 32 x.data.length ||| put 31 0 x.stored, BitVec.ofNat 64 x.commitTime, put 63 32 y.waitShare ||| put 31 0 y.waitWear,
   put 63 32 y.waitDrive ||| put 31 16 y.retries ||| put 15 0 y.fails, 0#64, 0#64, 0#64]

/-- Bytes that go to the location in word 3, or into the output tile where it is 0 (R389). -/
def giveOut (s : State) (d : Desc) (bs : List Byte) (r0 r1 : Option Nat) : State :=
  if d.w 3 = 0#64 then putDesc s { d.finish stDone 0 r0 r1 with output := some { bytes := bs } }
  else match writeOut s d 3 bs with
    | .error e => endDesc s d e
    | .ok s => putDesc s (d.finish stDone 0 r0 r1)

/-- STAT (R387). -/
def Machine.execStat (q : Nat) (i : BitVec 32) (s : State) : Answer :=
  flashRun q i 0x08 2 [3] [maskOf 63 32, allBits] (fun p d s =>
    let id := fld (d.w 2) 63 32
    if id = 0xFFFFFFFF then endDesc s d (stMalformed, 1)
    else match lookup? (getFlash s p).objects id with
    | none => endDesc s d (stNotOwner, 1)
    | some x => giveOut s d (ofWords (objectRecord id x ((lookup? (getFlash s p).stats id).getD {}))) none none) s

/-! ### Step-state regions -/

/-- A region as a step operation finds it: with what earlier steps of its program have staged. -/
def stagedRegion (s : State) (d : Desc) (p : Nat) : Option StepRegion := lookup? (getFlash (stagedView s d) p).regions d.region

/-- Whether another descriptor in flight has a change of the region staged: operations on one region take effect one after the other (R401). -/
def regionTaken (s : State) (d : Desc) : Bool :=
  s.flight.any fun x => !(x.ctx == d.ctx && x.index == d.index) && x.owner == d.owner && x.effects.any fun e => match e with
    | .region _ r _ => r == d.region
    | .endRegion _ r _ => r == d.region
    | _ => false

/-- Ends a step operation with a change of its region. -/
def regionEnd (s : State) (d : Desc) (p : Nat) (op : RegionOp) (r1 : Option Nat := none) : State :=
  endNow s { d with effects := d.effects ++ [.region p d.region op] } stDone 0 none r1

/-- Runs a DRAIN or LIFT operation on a region. -/
def regionRun (q : Nat) (i : BitVec 32) (op sub : Nat) (ks : List Nat) (masks : List Word) (k : Nat → Desc → State → State) (s : State) : Answer :=
  flashRun q i op sub ks masks (fun p d s => if regionTaken s d then s else k p d s) s

/-- STEP_SETUP (R397, R398). -/
def Machine.execStepSetup (q : Nat) (i : BitVec 32) (s : State) : Answer :=
  regionRun q i 0x07 0x10 [] [maskOf 35 32, maskOf 26 16 ||| maskOf 10 0, maskOf 31 0] (fun p d s =>
    let count := fld (d.w 3) 26 16
    let first := fld (d.w 3) 10 0
    let base := fld (d.w 4) 31 0
    let f := getFlash (stagedView s d) p
    if !memActive s then s
    else if count = 0 ∨ base + 2 * count > 0xFFFFFFFF ∨ (lookup? f.regions d.region).isSome then endDesc s d (stMalformed, 1)
    else
      let es := (List.range count).map fun k => ownExt s p (first + k)
      let good := fun (e : Option Nat) => match e with
        | some e => let x := getExt (stagedView s d) e; x.kind == .guarded && x.use == .none && !claimedElse s d e && !x.clearing
        | none => false
      if !es.all good then endDesc s d (stNotOwner, 3)
      else if f.regions.any fun x => decide (x.2.base < base + 2 * count ∧ base < x.2.base + 2 * x.2.count) then endDesc s d (stNotOwner, 0xB)
      else if !(copyDrives s p).isEmpty ∧ (readableCopies s p).isEmpty then endDesc s d (stTier, 1)
      else
        let found := match lookup? f.entries d.region with
          | some x => if x.count = count ∧ x.base = base then some (x.version, x.descriptor) else none
          | none => none
        let s := (es.filterMap id).foldl (fun s e => modExt s e fun x => { x with claim := some (d.ctx, d.index, none) }) s
        regionEnd s d p (.setup count first base found)) s

/-- STEP_PUBLISH (R401): publishes of one region are served in dispatch order. -/
def Machine.execStepPublish (q : Nat) (i : BitVec 32) (s : State) : Answer :=
  regionRun q i 0x07 0x11 [] [maskOf 35 32, allBits, allBits] (fun p d s =>
    let before := s.flight.takeWhile fun x => !(x.ctx == d.ctx && x.index == d.index)
    if before.any fun x => x.owner == d.owner && x.phase == .ready && x.opcode == 0x07 && x.subop == 0x11 && x.region == d.region then s
    else match stagedRegion s d p with
    | none => endDesc s d (stNotOwner, 1)
    | some x =>
      if (d.w 3).toNat ≠ x.version then putDesc s (d.finish stConflict 0 (some x.state.code) (some x.version))
      else if x.state ≠ .open_ then endDesc s d (stNotOwner, 0xA)
      else
        let v := (x.version + 1) % 2 ^ 64
        regionEnd s d p (.publish v (d.w 4)) (some v)) s

/-- STEP_OPEN (R399): it waits for a drain or restore to end. -/
def Machine.execStepOpen (q : Nat) (i : BitVec 32) (s : State) : Answer :=
  regionRun q i 0x07 0x13 [] [maskOf 35 32] (fun p d s =>
    match stagedRegion s d p with
    | none => endDesc s d (stNotOwner, 1)
    | some x =>
      if x.state = .draining ∨ x.state = .lifting then s
      else if x.state = .sealed ∨ x.state = .durable then regionEnd s d p .open_
      else endDesc s d (stNotOwner, 0xA)) s

/-- The objects of a region that the directory holds. -/
def regionObjects (s : State) (p : Nat) (x : StepRegion) : List Nat :=
  ((getFlash s p).objects.map (·.1)).filter fun id => decide (x.base ≤ id ∧ id < x.base + 2 * x.count)

/-- STEP_RELEASE (R399): with DELETE_OBJECTS the directory is written before the region ends. -/
def Machine.execStepRelease (q : Nat) (i : BitVec 32) (s : State) : Answer :=
  regionRun q i 0x07 0x14 [] [maskOf 35 32 ||| maskOf 29 29] (fun p d s =>
    match stagedRegion s d p with
    | none => endDesc s d (stNotOwner, 1)
    | some x =>
      if x.state = .draining ∨ x.state = .lifting then s
      else if bit (d.w 2) 29 ∧ !(copyDrives s p).isEmpty then
        if (readableCopies s p).isEmpty then endDesc s d (stTier, 1)
        else
          let d := { d with phase := .running }
          addOps (putDesc s d) d none none (2 ^ 64) true (directoryPieces s p)
      else endNow s { d with effects := d.effects ++ [.endRegion p d.region (bit (d.w 2) 29)] } stDone 0) s

/-- STEP_QUERY (R399): the state code and VERSION; VERSION and DESCRIPTOR at the location. -/
def Machine.execStepQuery (q : Nat) (i : BitVec 32) (s : State) : Answer :=
  flashRun q i 0x08 0x11 [3] [maskOf 35 32, allBits] (fun p d s =>
    match stagedRegion s d p with
    | none => endDesc s d (stNotOwner, 1)
    | some x => giveOut s d (ofWords [BitVec.ofNat 64 x.version, x.descriptor]) (some x.state.code) (some x.version)) s

/-- Bytes of an extent of a region (R403). -/
def extentBytes : Nat := 240 * 2 ^ 20

/-- The bytes of extent k of a region, and whether they hold poison. -/
def regionBytes (s : State) (p : Nat) (x : StepRegion) (k : Nat) : ReadRes :=
  match ownExt s p (x.first + k) with
  | some e => { bytes := Memory.readBytes s.hbm (hbmAddr e 0) extentBytes, poison := hbmPoisoned s e 0 extentBytes }
  | none => { bytes := [], poison := true }

/-- The table that a step drain codes with. -/
def drainTable (d : Desc) : Option DecodeTable :=
  if bit (d.w 2) 31 then d.tables.getD (fld (d.w 2) 30 30) none else none

/-- A step drain ends without success (R399): its object that failed, if any, counts the failure. -/
def stopDrain (s : State) (p : Nat) (d : Desc) (st det : Nat) (id : Option Nat) : State :=
  let s := match id with
    | some id => modStats s p id fun y => { y with fails := satAdd 16 y.fails (if st = stTier then 1 else 0) }
    | none => s
  failStep (drainFails (billStopped s p d) p d.region) d st det

/-- Starts the next object of a step drain, at most 16 in progress (R403), and whether it was started; an object that finds poison or no room fails the drain. -/
def startNext (p : Nat) (d : Desc) (s : State) : State × Bool :=
  match lookup? (getFlash s p).regions d.region with
  | none => (s, false)
  | some x =>
    if x.started ≥ x.count ∨ x.started - x.done.length ≥ 16 then (s, false)
    else
      let r := regionBytes s p x x.started
      let id := x.object x.started x.version
      let body := storedForm (fld (d.w 2) 30 30) (drainTable d) r.bytes
      match (if r.poison then some (stPoisoned, 2) else roomFor s p id body.length) with
      | some e => (stopDrain s p d e.1 e.2 (some id), false)
      | none =>
        let (s, obj) := newObject s p (fld (d.w 2) 30 30) (drainTable d) r.bytes
        let s := modRegion s p d.region fun x => { x with started := x.started + 1, writing := (x.started, obj) :: x.writing }
        let s := match findDesc s d.ctx d.index with
          | some y => putDesc s { y with unitsLeft := y.unitsLeft + (if bit (d.w 2) 31 then extentBytes / 4096 else 0) }
          | none => s
        (addOps s d (some id) none (s.time + deadlineNs d (fld (d.w 2) 23 0)) true (objectPieces p obj 0 body.length body ++ directoryPieces s p), true)

/-- Starts objects of a step drain in extent order (R403), at most `n`. -/
def startObjects (p : Nat) (d : Desc) : Nat → State → State
  | 0, s => s
  | n + 1, s =>
    let x := startNext p d s
    if x.2 then startObjects p d n x.1 else x.1

/-- STEP_DRAIN (R399, R403): the region leaves SEALED with the dispatch, so it is judged as every descriptor sees it. -/
def Machine.execStepDrain (q : Nat) (i : BitVec 32) (t : Nat) (s : State) : Answer :=
  regionRun q i 0x07 0x12 [] [maskOf 35 30 ||| maskOf 23 0] (fun p d s =>
    match lookup? (getFlash s p).regions d.region with
    | none => endDesc s d (stNotOwner, 1)
    | some x =>
      if bit (d.w 2) 31 ∧ d.slotWaits (fld (d.w 2) 30 30) then s
      else if bit (d.w 2) 31 ∧ (drainTable d).isNone then endDesc s d (stMalformed, 1)
      else if x.state ≠ .sealed then endDesc s d (stNotOwner, 0xA)
      else
        let d := { d with phase := .running }
        startObjects p d x.count (modRegion (putDesc s d) p d.region fun x => { x with state := .draining, started := 0, writing := [], done := [], by_ := some (d.ctx, d.index) })) (atTime s t)

/-- The descriptor that drains or restores its region. -/
def regionDesc (s : State) (q : Nat) (i : BitVec 32) (op sub : Nat) (st : RegionState) : Option (Nat × Desc × StepRegion) :=
  match findDesc s q i with
  | some d => match d.owner with
    | .part p => match lookup? (getFlash s p).regions d.region with
      | some x => if d.phase = .running ∧ d.opcode = op ∧ d.subop = sub ∧ x.state = st ∧ x.by_ = some (q, i) then some (p.val, d, x) else none
      | none => none
    | .fm => none
  | none => none

/-- The end of a step drain (R399, R403): with every object committed, the region's entry is written and the other generation's objects are deleted. -/
def drainEnd (p : Nat) (d : Desc) (s : State) : State :=
  match lookup? (getFlash s p).regions d.region with
  | none => s
  | some x =>
    if x.state ≠ .draining ∨ x.by_ ≠ some (d.ctx, d.index) ∨ x.done.length < x.count then s
    else
      let others := (List.range x.count).map fun j => x.object j (x.version + 1)
      let s := others.foldl (fun s id => if (lookup? (getFlash s p).objects id).isSome then delObject s p id else s) s
      let s := commitDir s p fun y => { y with entries := assign y.entries d.region { count := x.count, base := x.base, version := x.version, descriptor := x.descriptor } }
      let s := modRegion s p d.region fun x => { x with state := .durable, done := [], started := 0, by_ := none }
      let (st, det) := if holdsFailed s p then (stDegraded, 2) else (stDone, 0)
      endNow s d st det (some x.count) (some x.version)

/-- STEP_DRAIN_OBJECT_DONE (R399, R403): object k, whose commands have been answered, commits or fails; the next one starts; after the last, the region's entry and the
deletions go to the directory. -/
def Machine.execStepDrainObjectDone (q : Nat) (i : BitVec 32) (k : Nat) (ok : Bool) (t : Nat) (s : State) : Answer :=
  match regionDesc s q i 0x07 0x12 .draining with
  | none => .next s
  | some (p, d, x) =>
    let id := x.object k x.version
    match lookup? x.writing k with
    | none => .next s
    | some obj =>
      if ((opsFor s d).any fun o => o.object == some id && !o.answered) ∨ (bit (d.w 2) 31 ∧ d.unitsDone < (x.done.length + 1) * (extentBytes / 4096)) then .next s
      else
        let s := removeOps (atTime s t) d fun o => o.object == some id
        if !ok then .next (stopDrain s p d stTier 1 (some id))
        else
          let s := putObject s p id obj
          let s := modRegion s p d.region fun x => { x with done := k :: x.done, writing := erase x.writing k }
          if x.done.length + 1 < x.count then .next (startObjects p d 1 s)
          else if (directoryPieces s p).isEmpty then .next (stopDrain s p d stTier 1 none)
          else .next (addOps s d none none (2 ^ 64) true (directoryPieces s p))

/-- The objects of a region at its version, as the directory holds them. -/
def versionObjects (s : State) (p : Nat) (x : StepRegion) : List (Option FlashObj) :=
  (List.range x.count).map fun k => lookup? (getFlash s p).objects (x.object k x.version)

/-- A restore ends without success (R399, R400): the object that failed, if any, counts a TIER_FAIL. -/
def stopRestore (s : State) (p : Nat) (d : Desc) (st det : Nat) (id : Option Nat) : State :=
  let s := match id with
    | some id => modStats s p id fun y => { y with fails := satAdd 16 y.fails (if st = stTier then 1 else 0) }
    | none => s
  let (v, s) := orFree s (if st = stTier then some det else none) 15
  failStep (restoreFails (billStopped s p d) p d.region v) d st det

/-- STEP_RESTORE (R399, R404): the region leaves ON_FLASH with the dispatch, so it is judged as every descriptor sees it. -/
def Machine.execStepRestore (q : Nat) (i : BitVec 32) (t : Nat) (s : State) : Answer :=
  regionRun q i 0x08 0x10 [] [maskOf 35 32 ||| maskOf 23 0] (fun p d s =>
    match lookup? (getFlash s p).regions d.region with
    | none => endDesc s d (stNotOwner, 1)
    | some x =>
      if !memActive s then s
      else if x.state ≠ .onFlash then endDesc s d (stNotOwner, 0xA)
      else
        let os := (versionObjects s p x).filterMap id
        if os.length ≠ x.count then endDesc s d (stNotOwner, 1)
        else if os.any (fun o => !o.serves s) ∨ (readableCopies s p).isEmpty then endDesc s d (stTier, 1)
        else
          let coded := (os.filter (·.coded)).length
          let d := { d with phase := .running, unitsLeft := coded * (extentBytes / 4096) }
          let s := modRegion (putDesc s d) p d.region fun x => { x with state := .lifting, lifted := [], by_ := some (d.ctx, d.index) }
          (List.range x.count).foldl (fun s k => match os[k]? with
            | some o => addOps s d (some (x.object k x.version)) none (d.time + deadlineNs d (fld (d.w 2) 23 0)) false (objectPieces p o 0 o.stored [])
            | none => s) s) (atTime s t)

/-- Units of coded objects that a restore has lifted. -/
def codedLifted (s : State) (p : Nat) (x : StepRegion) : Nat :=
  (((versionObjects s p x).zipIdx).map fun y => if (y.1.map (·.coded)) = some true then x.liftedOf y.2 else 0).sum

/-- LIFT_UNIT_DONE (R26, R390 to R392, R399, R400, R404): the next 1 MiB unit of extent k is lifted, and reads that waited for it proceed; a unit that failed authentication
or a block's check twice ends the restore. No more is lifted of an object than what the flash share has let through, its last unit only when its drives have answered,
and a unit of a coded object only when 256 more coder units have been done. -/
def Machine.execLiftUnitDone (q : Nat) (i : BitVec 32) (k : Nat) (unit : Nat) (read : UnitRead) (t : Nat) (s : State) : Answer :=
  match regionDesc s q i 0x08 0x10 .lifting with
  | none => .next s
  | some (p, d, x) =>
    let before := (x.lifted.map (·.2)).sum
    let id := x.object k x.version
    match lookup? (getFlash s p).objects id, ownExt s p (x.first + k) with
    | some o, some e =>
      let mine := (opsFor s d).filter fun y => y.object == some id
      let whole := (mine.map (·.size)).sum
      let held := (mine.map (·.bytes)).sum
      if k ≥ x.count ∨ unit ≠ x.liftedOf k ∨ unit ≥ 240 ∨ (o.coded ∧ d.unitsDone < 256 * (codedLifted s p x + 1))
          ∨ (whole - held) * 240 < (unit + 1) * whole ∨ (unit = 239 ∧ mine.any fun y => !y.answered) ∨ (read = .badBlock ∧ !o.coded) then .next s
      else
        let s := atTime s t
        let again := modStats s p id fun y => { y with retries := satAdd 16 y.retries 1 }
        match read with
        | .badTag => .next (stopRestore again p d stTier 5 (some id))
        | .badBlock => .next (stopRestore again p d stCheck 2 (some id))
        | .good =>
          let s := writeHbm s e (unit * 2 ^ 20) (slice o.data (unit * 2 ^ 20) (2 ^ 20))
          let s := modRegion s p d.region fun x => { x with lifted := assign x.lifted k (unit + 1) }
          let s := serveWaits s
          if before + 1 < 240 * x.count then .next s
          else
            let s := modRegion (removeOps s d fun o => !o.spill) p d.region fun x => { x with state := .durable, lifted := [], by_ := none }
            let (st, det) := if decide ((readableCopies s p).length < (copyDrives s p).length) then (stDegraded, 1) else (stDone, 0)
            .next (endNow (serveWaits s) d st det (some x.count) (some x.version))
    | _, _ => .next s

/-! ### Completions, deadlines and the tier path -/

/-- The end of the drive work of an operation (R386, R390, R394). -/
def flashDone (p : Nat) (d : Desc) (s : State) : State :=
  let id := fld (d.w 2) 63 32
  if d.opcode = 0x07 ∧ d.subop = 1 then
    match d.pendingObj with
    | none => s
    | some x =>
      let (st, det) := if holdsFailed s p then (stDegraded, 2) else (stDone, 0)
      putDesc s { d.finish st det (some x.data.length) (some x.stored) with pendingObj := none, effects := d.effects ++ [.putObject p id x] }
  else if d.opcode = 0x07 ∧ d.subop = 2 then putDesc s { d.finish stDone 0 with effects := d.effects ++ [.delObject p id] }
  else if d.opcode = 0x07 ∧ d.subop = 0x12 then drainEnd p d s
  else if d.opcode = 0x07 ∧ d.subop = 0x14 then
    match lookup? (getFlash s p).regions d.region with
    | none => s
    | some x => putDesc s { d.finish stDone 0 with effects := d.effects ++ (regionObjects s p x).map (Effect.delObject p) ++ [.endRegion p d.region true] }
  else if d.opcode = 0x08 ∧ d.subop = 1 then
    match d.objGen.bind (objectOf s p) with
    | none => s
    | some x =>
      let off := fld (d.w 5) 31 0
      let n := if fld (d.w 4) 31 0 = 0 then x.data.length - off else fld (d.w 4) 31 0
      let bs := slice x.data off n
      let (st, det) := if decide ((readableCopies s p).length < (copyDrives s p).length) then (stDegraded, 1) else (stDone, 0)
      let part := some (storedPart x off n).2
      let go := fun (s : State) (d : Desc) => coderUnits s d (if x.coded then n else 0)
      if d.w 3 = 0#64 then go s { d.finish st det (some n) part with output := some { bytes := bs } }
      else match writeOut s d 3 bs with
        | .error e => endDesc s d e
        | .ok s => go s (d.finish st det (some n) part)
  else s

/-- An operation of a descriptor is replaced by what it has become. -/
def setOp (s : State) (o o' : FlashOp) : State := { s with flash := { s.flash with ops := s.flash.ops.map fun x => if x = o then o' else x } }

/-- Whether an operation of a descriptor reads a coded object. -/
def readsCoded (s : State) (p : Nat) (d : Desc) (o : FlashOp) : Bool :=
  if d.subop = 1 then ((d.objGen.bind (objectOf s p)).map (·.coded)).getD false
  else ((o.object.bind (lookup? (getFlash s p).objects)).map (·.coded)).getD false

/-- Ends an object operation or a restore whose unit or block has failed twice (R390, R393, R406). -/
def readFails (p : Nat) (d : Desc) (o : FlashOp) (st det : Nat) (s : State) : State :=
  if d.opcode = 0x08 ∧ d.subop = 0x10 then stopRestore s p d st det o.object
  else
    let s := match o.object with
      | some id => modStats s p id fun y => { y with fails := satAdd 16 y.fails (if st = stTier then 1 else 0) }
      | none => s
    failStep (billStopped s p d) d st det

/-- NVME_COMPLETION (R386, R387, R390, R392): the commands of the first part of the descriptor's flash work whose bytes are with its drive have been answered, the last of
them after `us` µs. A read unit that fails authentication is read once more before its LIFT fails, and a block that fails its check read and decoded once more. A DRAIN
that codes first waits for its coder units. -/
def Machine.execNvmeCompletion (q : Nat) (i : BitVec 32) (read : UnitRead) (us : Nat) (t : Nat) (s : State) : Answer :=
  match findDesc s q i with
  | none => .next s
  | some d =>
    match d.owner, (opsFor s d).find? (fun o => o.bytes == 0 && !o.answered && o.page.isNone) with
    | .part p, some o =>
      if (d.opcode = 0x07 ∧ d.subop = 1 ∧ d.unitsLeft ≠ 0 ∧ !o.spill) ∨ (read = .badBlock ∧ !readsCoded s p d o) then .next s
      else
        let s := billDrive (atTime s t) p o us
        let again := match o.object with
          | some id => modStats s p id fun y => { y with retries := satAdd 16 y.retries 1 }
          | none => s
        match (if o.write then UnitRead.good else read) with
        | .badTag => if o.retried then .next (readFails p d o stTier 5 again) else .next (setOp again o { o with retried := true })
        | .badBlock => if o.decoded then .next (readFails p d o stCheck 2 again) else .next (setOp again o { o with decoded := true })
        | .good =>
          let x := holdOp s o .none
          let s := billWaits (setOp x.1 o { x.2 with answered := true }) p x.2
          if (opsFor s d).all (·.answered) ∧ d.phase = .running then .next (flashDone p d s) else .next s
    | _, _ => .next s

/-- Ends whatever flash work a descriptor has with TIER_FAIL (R393): an object operation, a step operation, a page of a walk, a RESTORE, or a spill. -/
def tierFail (s : State) (d : Desc) (o : FlashOp) (det : Nat) : State :=
  match d.owner with
  | .fm => failStep s d stTier det
  | .part p =>
    if d.opcode = 0x07 ∧ d.subop = 0x12 then stopDrain s p d stTier det o.object
    else if d.opcode = 0x08 ∧ d.subop = 0x10 then stopRestore s p d stTier det o.object
    else match o.page.bind fun k => d.pages[k]? with
      | some w => if d.opcode = 0x02 then failStep s d stTier det else pageFail s d w stTier det
      | none => readFails p d o stTier det s

/-- Whether a descriptor may still be ended by a deadline: while it runs, and a DRAIN OBJECT or LIFT OBJECT until it has committed (R393). -/
def Desc.mayExpire (d : Desc) : Bool := d.phase == .running || (d.phase == .finished && d.prog.isNone && (d.opcode == 0x07 || d.opcode == 0x08) && d.subop == 1)

/-- FLASH_DEADLINE (R393): the DETAIL names what held the operation longest; a tie is broken by a free value. -/
def Machine.execFlashDeadline (q : Nat) (i : BitVec 32) (t : Nat) (s : State) : Answer :=
  match findDesc s q i with
  | none => .next s
  | some d =>
    match (opsFor s d).find? fun o => decide (o.deadline ≤ t) with
    | none => .next s
    | some o =>
      if !d.mayExpire then .next s
      else
        let s := atTime s t
        let same := (opsFor s d).filter fun x => x.object == o.object && x.page == o.page
        let s := same.foldl (fun s x => if x.answered then s else let y := holdOp s x x.wait; setOp y.1 x y.2) s
        let now := (opsFor s d).filter fun x => x.object == o.object && x.page == o.page
        let cs := longest now
        let (v, s) := draw s
        .next (tierFail s d ((now.head?).getD o) (cs.getD (v % max 1 cs.length) 4))

/-- TIER_PATH_DONE (R129, R130, R395, R396): spilled page k is in the staging store with its authentication and CHECK verified, and goes to its core; a RESTORE ends
with its last page. A unit that fails authentication is read once more first. -/
def Machine.execTierPathDone (q : Nat) (i : BitVec 32) (k : Nat) (ok : Bool) (t : Nat) (s : State) : Answer :=
  match findDesc s q i with
  | none => .next s
  | some d =>
    match d.owner, d.pages[k]?, (opsFor s d).find? fun o => o.page == some k with
    | .part p, some w, some o =>
      let mine := (opsFor s d).filter fun o => o.page == some k
      if d.phase ≠ .running ∨ w.route ≠ .tier ∨ w.state ≠ .queued ∨ mine.any (fun o => o.bytes ≠ 0) then .next s
      else
        let s := mine.foldl (fun s o => billDrive s p o ((s.time - o.since) / 1000)) (atTime s t)
        if !ok then
          if o.retried then .next (tierFail s d o 5)
          else .next (setOp s o { o with retried := true, since := s.time })
        else match w.spill.bind fun slot => lookup? (getFlash s p).spill slot with
        | none => .next (tierFail s d o 5)
        | some x =>
          if x.fill = 16 ∧ (crc32c x.bytes).toNat ≠ x.check then
            if d.opcode = 0x02 then .next (failStep s d stCheck 1) else .next (pageFail s d w stCheck 1)
          else if d.opcode = 0x02 then
            let d' := d.setPage k fun w => { w with state := .done }
            if d'.pages.all fun w => w.state == .done then
              let (s', d2) := restoreEnd p { d' with pages := [] } (removeOps s d fun o => o.page == some k)
              if domsOn s (placeDoms d2.effects) then .next (putDesc s' d2) else .next ((placeDoms d2.effects).foldl startWake s)
            else .next (pushFlash (putDesc (removeOps s d fun o => o.page == some k) d'))
          else match (match w.core with
              | some c => some c
              | none => leastCore s (usableCores s d.owner)) with
            | none => .next (pageFail s d w 0x60 1)
            | some c => .next (pushFlash (putDesc (removeOps s d fun o => o.page == some k) (d.setPage k fun w => { w with state := .read, core := some c, order := nextOrder s })))
    | _, _, _ => .next s

/-! ### Share, wear and drives -/

/-- FLASH_SHARE_WINDOW (R26, R392, R411): a new 1 ms window begins, and flash work that waits goes on. -/
def Machine.execFlashShareWindow (t : Nat) (s : State) : Answer :=
  if t < s.flash.windowStart + 1000000 then .next s
  else
    let s := atTime s t
    .next (pushFlash { s with flash := { s.flash with used := [], windowStart := t - t % 1000000 } })

/-- A × DWPD of a drive in bytes for 86,400 s, and the depth of its bucket (R405, R567: a DWPD of 0 is taken as 1). -/
def driveBudget (y : Drive) : Nat := y.capacityGb * 10000000 * max 1 y.dwpd
def bucketDepth (y : Drive) : Nat := driveBudget y / 24

/-- WEAR_BUCKET_REFILL (R405): the bucket fills at A × 23 / 24 in 86,400 s up to its depth, and writes that wait go on. -/
def Machine.execWearBucketRefill (d : Nat) (t : Nat) (s : State) : Answer :=
  let y := getDrive s d
  if d ≥ 8 ∨ t ≤ y.bucketTime then .next s
  else
    let rate := driveBudget y * 23
    let unit := 24 * 86400 * 1000000000
    let add := rate * (t - y.bucketTime) / unit
    let full := bucketDepth y ≤ y.bucket + add
    let s := atTime s t
    .next (pushFlash (modDrive s d fun y => { y with
      bucket := min (bucketDepth y) (y.bucket + add), bucketTime := if full ∨ rate = 0 then t else y.bucketTime + ceilDiv (add * unit) rate }))

/-- DRIVE_IDENTIFIED (R382, R383): the root port is powered; each usable namespace has its count of 4 KiB blocks; a failed drive serves again only when it is enabled anew. -/
def Machine.execDriveIdentified (d : Nat) (usable : List Nat) (blocks : List Nat) (s : State) : Answer :=
  if d ≥ 8 ∨ (getDom s (151 + d)).present ≠ .on ∨ (getDrive s d).state = .usable then .next s
  else
    let ns := (usable.filter fun n => decide (1 ≤ n ∧ n ≤ 16)).eraseDups
    let s := modDrive s d fun y => { y with state := .usable, usable := ns, blocks := usable.zip blocks }
    .next (pushFlash (postFm s 8 1 d (BitVec.ofNat 64 ns.length) 0#64))

/-- A drive fails (R383, R393, R476): it serves no more until it is enabled again, the operations that use it end with TIER_FAIL, it is logged (R528), and its event goes to the fabric
manager and to the partitions with a namespace on it. -/
def failDrive (s : State) (d cause : Nat) : State :=
  let ps := (List.range 16).filter fun p => (getPart s p).live && (assignedNs s p).any fun x => x.1 == d
  let s := modDrive (logError s 0x0C 7 none d (BitVec.ofNat 64 cause)) d fun y => { y with state := .failed, enable := false }
  let hit := s.flash.ops.filter fun o => o.drive == d
  let s := hit.foldl (fun s o => match findDesc s o.ctx o.index with
    | some x => if (opsFor s x).any fun y => y.drive == d then tierFail s x o 1 else s
    | none => s) s
  let s := postFm s 8 2 d (BitVec.ofNat 64 cause) 0#64
  ps.foldl (fun s p => postEvent s (ownerOf p) 8 2 none d (BitVec.ofNat 64 cause) 0#64) s

/-- DRIVE_FAILED (R383): a controller fatal status, or the drive's removal. -/
def Machine.execDriveFailed (d : Nat) (removed : Bool) (s : State) : Answer :=
  let y := getDrive s d
  if d ≥ 8 ∨ y.state = .absent ∨ y.state = .failed then .next s else .next (failDrive s d (if removed then 4 else 1))

/-- DRIVE_TIMEOUT (R383): the drive's link is down for more than 100 ms, or a command is unanswered for 1 s. -/
def Machine.execDriveTimeout (d : Nat) (link : Bool) (s : State) : Answer :=
  let y := getDrive s d
  if d ≥ 8 ∨ y.state = .absent ∨ y.state = .failed ∨ y.state = .off then .next s else .next (failDrive s d (if link then 2 else 3))

end Sys2Proof
end

