-- ==== Sys2Proof/Machine/Partitions.lean ====
section
/-!
DEFINITION. Partitions and Belfry (R408 to R441): making, locking and removing partitions with the scrub, certificates, attestation, sessions, key handles and
the key journal.
-/
namespace Sys2Proof

open Machine (State Fault Refusal)

/-! ### Making and locking (R414 to R417) -/

/-- Whether a definition breaks R414: reserved bits, pseudo-channels of stacks not fitted, CONTEXTS, STAGING_MIB, WEIGHT. -/
def definitionBad (s : State) (w : List Word) : Bool :=
  let pchs := (List.range 640).filter fun c => bit (wd w (c / 64)) (c % 64)
  fld (wd w 10) 21 0 != 0 || fld (wd w 11) 31 0 != 0 || ((List.range 19).any fun k => wd w (13 + k) != 0#64) || (pchs.any fun c => !stackFitted s (c / 32))
    || fld (wd w 10) 47 32 == 0 || decide (fld (wd w 10) 47 32 > 16384) || decide (fld (wd w 10) 31 23 > 256) || fld (wd w 11) 63 56 == 0

/-- The pseudo-channels that a definition names. -/
def definedPchs (w : List Word) : List Nat := (List.range 640).filter fun c => bit (wd w (c / 64)) (c % 64)

/-- Whether a CREATE meets a resource that it may not take (R410, R417, R518): owned by another partition, fenced, lent, or in node use. -/
def takenByOther (s : State) (w : List Word) : Bool :=
  let groups := (List.range 16).foldl (fun a p => if (getPart s p).live then a ||| (getPart s p).coreGroups else a) 0
  (groups &&& fld (wd w 10) 63 48) != 0
    || (definedPchs w).any fun c => (pchOwner s c).isSome || pchFenced s c
        || (List.range 3).any fun k => !(holdersOf s (3 * c + k)).isEmpty || (getExt s (3 * c + k)).use != .none

/-- Whether the stores that partitions share run short (R408, R417, R432): staging store, queue contexts, key journal. -/
def storesShort (s : State) (p : Nat) (w : List Word) : Bool :=
  let live := (List.range 16).filter fun j => (getPart s j).live
  let mib := (live.map fun j => (getPart s j).stagingMib).sum + fld (wd w 10) 31 23 + (if s.fw.buffer then 21 else 0) + ceilDiv (heldBytes s .fm) (2 ^ 20)
  let ctxs := (live.map fun j => (getPart s j).contexts).sum + fld (wd w 10) 47 32 + (s.contexts.filter fun c => c.2.1 == .fm).length
  let binding := wd w 12
  decide (mib > 256) || decide (ctxs > 16384)
    || (binding != 0#64 && !((journal s).live.any fun r => r.part == p && r.binding == binding) && decide ((journal s).live.length ≥ 16))

/-- What is left of an owner's page after CREATE or a scrub (R436, R438, R553): every register at its reset value; the MSI-X table is BAR4's. -/
def OwnerS.fresh (x : OwnerS) : OwnerS := { vecMask := x.vecMask, funcMask := x.funcMask, pba := x.pba, msixTable := x.msixTable }

/-- An extent that a new partition takes reads as zero (R415); its kind stays. -/
def zeroExtent (s : State) (e : Nat) : State :=
  let k := (getExt s e).kind
  modExt (clearExtent s e) e fun x => { x with kind := k }

/-- Belfry's part of a CREATE (R426, R431, R432): a new spill context key; the flash key set of the live record of partition and binding, or a new one, written as
a record when the binding is not 0. Keys and nonces are random. A record that does not unwrap, as one wrapped in another lifecycle (R419), counts as not found. -/
def createKeys (s : State) (p : Nat) (binding : Word) : Bool × State :=
  let (spill, s) := drawBytes 32 s
  let mine := fun (r : JournalRec) => r.part == p && r.binding == binding
  let found := if binding = 0#64 then none else ((journal s).live.find? mine).bind fun r => Config.gcmOpen (storageKey s) (r.nonce.take 12) [] r.wrapped
  let keep := fun (s : State) (keys : List Byte) =>
    { s with belfry := { s.belfry with spillKeys := assign s.belfry.spillKeys p spill, flashKeys := assign s.belfry.flashKeys p keys } }
  match found with
  | some keys => (true, keep s keys)
  | none =>
    let (keys, s) := drawBytes 96 s
    let (nonce, s) := drawBytes 16 s
    let record : JournalRec := { part := p, binding := binding, nonce := nonce, wrapped := wrapKeys s nonce keys }
    (false, keep (if binding = 0#64 then s
      else modJournal s fun j => { live := (j.live.filter fun r => !mine r) ++ [record], spent := j.spent ++ j.live.filter mine }) keys)

/-- What a CREATE does at its commit (R415, R417, R431, R489). -/
def createPart (s : State) (p : Nat) (w : List Word) : State :=
  let binding := wd w 12
  let old := getPart s p
  let (known, s) := createKeys s p binding
  let flash : PartFlash := if known then (lookup? s.flash.durable (p, binding)).getD {} else {}
  let s := { s with parts := s.parts.set p { state := .open_, definition := w, epoch := old.epoch, qpnFirst := old.qpnFirst, qpnCount := old.qpnCount, hostQos := old.hostQos }
                    flash := { s.flash with parts := s.flash.parts.set p flash, durable := erase s.flash.durable (p, binding) } }
  let s := modOwner s (ownerOf p) OwnerS.fresh
  let s := (definedPchs w).foldl (fun s c => (List.range 3).foldl (fun s k => zeroExtent s (3 * c + k)) s) s
  commandOn s (partDoms s p)

/-- PARTITION_CREATE (R415, R417, R459, R462): it waits for Memory_Active, for Belfry, which makes its keys, for the end of a scrub of the partition, and for extents that are awaiting reseal or being
cleared. -/
def Machine.execPartitionCreate (q : Nat) (i : BitVec 32) (rd : HostRead) (t : Nat) (s : State) : Answer :=
  match stationDesc s q i 0x0C 0x30 with
  | none => .next s
  | some d =>
    let p := fld (d.w 2) 3 0
    if d.owner ≠ .fm then .next (notManager s d)
    else if d.len ≠ 0 ∨ !bodyOk d.cur [maskOf 3 0, allBits] ∨ fld (d.w 3) 63 60 ≠ 0 then .next (endDesc s d (stMalformed, 1))
    else if (getPart s p).state = .open_ ∨ (getPart s p).state = .locked then .next (endDesc s d (stMalformed, 2))
    else if !memActive s ∨ (getPart s p).state = .scrubbing then .next s
    else match readIn s d 3 256 rd with
    | .error e => .next (endDesc s d e)
    | .ok r =>
      let w := toWords 32 r.bytes
      if r.poison then .next (endDesc s d (stPoisoned, 2))
      else if definitionBad s w then .next (endDesc s d (stMalformed, 1))
      else if takenByOther s w then .next (endDesc s d (stNotOwner, 3))
      else if noIdentity s ∧ wd w 12 ≠ 0#64 then .next (endDesc s d (stNotOwner, 0xD))
      else if (definedPchs w).any fun c => (List.range 3).any fun k => (getExt s (3 * c + k)).clearing || (getExt s (3 * c + k)).kind == .awaiting then .next s
      else if storesShort s p w then .next (endDesc s d (stExhausted, 9))
      else if procAway s 0 then .next s
      else if belfryFenced s then .next (noKeys s d)
      else .next (endNow (createPart (atTime s t) p w) d stDone 0 (some (3 * (definedPchs w).length)))

/-- PARTITION_LOCK (R415, R416). -/
def Machine.execPartitionLock (q : Nat) (i : BitVec 32) (s : State) : Answer :=
  match stationDesc s q i 0x0C 0x32 with
  | none => .next s
  | some d =>
    let p := fld (d.w 2) 3 0
    if d.owner ≠ .fm then .next (notManager s d)
    else if d.len ≠ 0 ∨ !bodyOk d.cur [maskOf 3 0] then .next (endDesc s d (stMalformed, 1))
    else if (getPart s p).state = .absent ∨ (getPart s p).state = .scrubbing then .next (endDesc s d (stNotOwner, 6))
    else .next (endNow (modPart s p fun x => { x with state := .locked }) d stDone 0)

/-! ### Removal and scrub (R437 to R441) -/

/-- A queue pair of a partition that is being scrubbed: from the commit point on it starts nothing and sends nothing again (R437, R441). -/
def Qp.quiet (q : Qp) : Qp :=
  let stop := fun (x : TxSpace) => { x with unacked := [], rnrWait := none }
  { q with txMsgs := [], cancels := [], rxMsgs := [], responses := [], posted := []
           lanes := q.lanes.map fun l => { l with tx := stop l.tx, txResp := stop l.txResp, sync := none } }

/-- The flush of a scrub (R438): dispatched descriptors whose latch the scrub takes first complete PARTITION_SCRUB, and home requests are answered. Those that a fabric
request gave rise to have no record and do not count. -/
def scrubFlush (s : State) (p : Nat) : State × Nat :=
  let s := { s with fabric := { s.fabric with members := s.fabric.members.filter fun m => m.part != p } }
  let hit := s.flight.filter fun d => d.owner == ownerOf p && !d.latched
  let s := hit.foldl (fun s d => match findDesc s d.ctx d.index with
    | some d => stopDesc s d stScrub 0
    | none => s) s
  let s := { s with net := { s.net with qps := s.net.qps.map fun (e : Nat × Qp) => if e.2.part = p then (e.1, e.2.quiet) else e } }
  let s := (s.fabric.homes.filter fun h => h.part == p && !h.answered).foldl (fun s h => homeFail s h stScrub 0 none) s
  let s := (s.fabric.arrived.filter fun e => e.1 == p && e.2.typ == 1).foldl (fun s e => fabReply s p e.2 2 stScrub 0 none none []) s
  (s, (hit.filter (·.slot.isSome)).length)

/-- What ends with the partition at once: fabric work, leases, handoffs and rings (R73, R273, R437, R439). Its queue pairs stay until the replies of step 2 have left. -/
def scrubNet (s : State) (p : Nat) : State :=
  let f := s.fabric
  let s := { s with
    fabric := { f with arrived := f.arrived.filter fun e => e.1 != p
                       homes := f.homes.filter fun h => h.part != p
                       outgoing := f.outgoing.filter fun h => h.part != p
                       incoming := f.incoming.filter fun h => h.part != p
                       remembered := f.remembered.filter fun h => h.1 != p
                       handedOn := f.handedOn.filter fun h => h.1.1 != p
                       stale := f.stale.filter fun h => h.1 != p
                       spreads := f.spreads.filter fun h => h.1.1 != p }
    net := { s.net with miss := s.net.miss.filter fun e => (getQp s e.1).all fun x => x.part != p } }
  (getOwner s (ownerOf p)).rings.foldl (fun s e => if e.2.enabled then closeRing s (ownerOf p) e.1 else s) s

/-- Pool extents lent to the LD are taken back, and cleared when no other LD holds them (R439), marked Open first (R112). -/
def scrubLent (s : State) (p : Nat) : State :=
  (getLd s p).lent.foldl (fun s x =>
    let s := (reclaimLent s x.2.ext p).1
    if (holdersOf s x.2.ext).isEmpty then modExt s x.2.ext fun y => { y with clearing := true, kind := .openRows } else s) s

/-- PARTITION_REMOVE (R437 to R441): the commit point, and the flush that follows. -/
def Machine.execPartitionRemove (q : Nat) (i : BitVec 32) (t : Nat) (s : State) : Answer :=
  match stationDesc s q i 0x0C 0x31 with
  | none => .next s
  | some d =>
    let p := fld (d.w 2) 3 0
    if d.owner ≠ .fm then .next (notManager s d)
    else if d.len ≠ 0 ∨ !bodyOk d.cur [maskOf 3 0] then .next (endDesc s d (stMalformed, 1))
    else if (getPart s p).state = .absent ∨ (getPart s p).state = .scrubbing then .next (endDesc s d (stNotOwner, 6))
    else
      let s := yieldBelfry (putDesc (atTime s t) { d with phase := .running, latched := true })
      let s := modPart s p fun x => { x with state := .scrubbing, epoch := (x.epoch + 1) % 2 ^ 32 }
      let s := commandOn s (partDoms s p)
      let (s, n) := scrubFlush s p
      let s := scrubLent (scrubNet s p) p
      .next (modPart s p fun x => { x with scrub := some { ctx := q, index := i, start := s.time, flushed := n } })

/-- Frames of a partition that wait on the ports, and replies of step 2 of its scrub that have not gone into frames. -/
def framesLeft (s : State) (p : Nat) : Bool :=
  (s.ports.ports.any fun x => x.links.any fun l => l.queues.any fun q => q.any fun f => f.source == p)
    || s.net.qps.any fun e => e.2.part == p && e.2.state != .error && e.2.txMsgs.any fun m => !m.allSent

/-- The queue pairs of a partition go with their keys and contexts (R300, R438). -/
def dropQps (s : State) (p : Nat) : State :=
  { s with
    net := { s.net with qps := s.net.qps.filter fun e => e.2.part != p
                        fetching := s.net.fetching.filter fun e => (getQp s e.1).all fun x => x.part != p }
    contexts := s.contexts.filter fun c => !(c.2.1 == ownerOf p && c.2.2.1) }

/-- EGRESS_DRAIN_END (R438, R440): frames sealed before the commit point have left, or, 2 ms after it, what remains is discarded; the old keys are destroyed. -/
def Machine.execEgressDrainEnd (p : Fin 16) (t : Nat) (s : State) : Answer :=
  match (getPart s p.val).scrub with
  | none => .next s
  | some x =>
    if x.drained ∨ (framesLeft s p.val ∧ t < x.start + 2000000) then .next s
    else
      let s := atTime s t
      let keep := fun (f : Frame) => f.source != p.val
      let s := { s with ports := { s.ports with ports := s.ports.ports.map fun y => { y with links := y.links.map fun l => { l with queues := l.queues.map fun q => q.filter keep } } } }
      let s := dropQps s p.val
      .next (modPart s p.val fun y => { y with scrub := some { x with drained := true } })

/-- The destruction of a key set (R432): every byte of it is programmed to zero, and its record is spent. -/
def Journal.destroy (j : Journal) (p : Nat) (binding : Word) : Journal :=
  let mine := fun (r : JournalRec) => r.part == p && r.binding == binding
  let zero := fun (r : JournalRec) => if mine r then { r with wrapped := List.replicate r.wrapped.length 0#8 } else r
  { live := j.live.filter fun r => !mine r, spent := (j.spent ++ j.live.filter mine).map zero }

/-- Steps 3 to 6 of a scrub (R438, R439, R518): pages, staging share, Snare blocks, pseudo-channels that are not fenced, keys; its Snare blocks are free again, and the number of pseudo-channels
cleared stands beside. -/
def scrubSteps (s : State) (p : Nat) : State × Nat :=
  let x := getPart s p
  let pchs := x.pchs
  let good := pchs.filter fun c => !pchFenced s c
  let binding := x.binding
  let ns := assignedNs s p
  let gone := fun (f : FrameAddr) => pchs.contains f.pch
  let s := { s with
    staging := Memory.clear s.staging (p * 2 ^ 28) (2 ^ 28)
    stagingPoison := s.stagingPoison.filter fun l => decide (64 * l < p * 2 ^ 28 ∨ (p + 1) * 2 ^ 28 ≤ 64 * l)
    frames := s.frames.filter fun f => !gone f.1
    words := s.words.filter fun f => !gone f.1
    snare := { s.snare with blocks := s.snare.blocks.map fun b => if b.2.valid ∧ b.2.part = p then (b.1, {}) else b
                            ext := s.snare.ext.filter fun e => e.1.1 != p }
    flash := { s.flash with parts := s.flash.parts.set p {}, durable := erase s.flash.durable (p, binding)
                            drives := s.flash.drives.mapIdx fun d (y : Drive) => { y with deallocate := y.deallocate ++ (ns.filter fun z => z.1 == d).map fun z => z.2 + 1 } }
    belfry := { s.belfry with journals := s.belfry.journals.map fun j => j.destroy p binding, sessions := erase s.belfry.sessions p
                              spillKeys := erase s.belfry.spillKeys p, flashKeys := erase s.belfry.flashKeys p
                              handles := s.belfry.handles.filter fun h => h.2.part != p } }
  let s := modOwner s (ownerOf p) OwnerS.fresh
  let s := modLd s p fun l => { config := l.config, cdatBuilds := l.cdatBuilds, heldReqs := l.heldReqs }
  let s := good.foldl (fun s c => (List.range 3).foldl (fun s k => clearExtent s (3 * c + k)) s) s
  let s := (pchs.filter fun c => pchFenced s c).foldl (fun s c => (List.range 3).foldl (fun s k => modExt s (3 * c + k) fun y => { y with use := .none }) s) s
  (s, good.length)

/-- SCRUB_COMPLETE (R438, R476): every step has ended; the partition is ABSENT and the REMOVE completes, with its event to the fabric manager. It waits for
descriptors of the partition that took their latch before the scrub (R439). -/
def Machine.execScrubComplete (p : Fin 16) (t : Nat) (s : State) : Answer :=
  match (getPart s p.val).scrub with
  | none => .next s
  | some x =>
    if !x.drained ∨ s.flight.any (fun d => d.owner == .part p) then .next s
    else
      let (s, n) := scrubSteps (atTime s t) p.val
      let y := getPart s p.val
      let s := { s with parts := s.parts.set p.val { epoch := y.epoch, qpnFirst := y.qpnFirst, qpnCount := y.qpnCount, hostQos := y.hostQos } }
      let s := match findDesc s x.ctx x.index with
        | some d => endNow s d stDone 0 (some n) (some (x.flushed * 2 ^ 32 + y.epoch))
        | none => s
      .next (postFm s 0xA 1 p.val (BitVec.ofNat 64 y.epoch) 0#64)

/-! ### Belfry's messages (R419 to R427) -/

/-- The digest of the image that a processor runs. -/
def imageDigest (s : State) (x : Nat) : List Byte := slice ((((s.fw.procs.getD x {}).image).map (·.digest)).getD []) 0 32

/-- MEASURE_BELFRY (R419, R421). -/
def measureBelfry (s : State) : List Byte := imageDigest s 0

/-- The seed of the alias key (R419). -/
def aliasSeed (s : State) : List Byte :=
  let f := s.boot.fuses
  sha3 (ascii "LFN alias" ++ leBytes 32 f.seed ++ measureBelfry s ++ leBytes 1 s.boot.lifecycle.code ++ leBytes 1 (rollbackValue f.rollback0)
    ++ leBytes 1 (rollbackValue f.rollback1))

/-- The seed of the device identity key (R419). -/
def identitySeed (s : State) : List Byte := sha3 (ascii "LFN identity" ++ leBytes 32 s.boot.fuses.seed)

/-- What every message to Belfry meets first (R427): its partition ABSENT; no identity (R419, R547). -/
def belfryGate (s : State) (a : Owner) : Option (Nat × Nat) :=
  if (match a with
    | .part p => !(getPart s p).live
    | .fm => false) then some (stNotOwner, 6)
  else if noIdentity s then some (stNotOwner, 0xD) else none

/-- The fields of a certificate that this model tells apart (R419, R420): of the alias certificate the alias key's seed, LIFECYCLE, ROLLBACK_0, ROLLBACK_1 and
MEASURE_BELFRY, with the device identity key's signature of them; of the DIK certificate that key's seed. -/
def certFields (s : State) (k : Nat) : List Byte :=
  let f := s.boot.fuses
  let xs := aliasSeed s ++ leBytes 1 s.boot.lifecycle.code ++ leBytes 1 (rollbackValue f.rollback0) ++ leBytes 1 (rollbackValue f.rollback1) ++ measureBelfry s
  if k = 1 then xs ++ (List.range 2420).map (Config.dsaSign (identitySeed s) xs) else identitySeed s

/-- CERT_GET (R420): at most 4,000 bytes of a certificate from an offset. Where the body holds the index and the offset is this model's choice (log entry 44): bytes
0 to 3 and 4 to 7. -/
def Machine.execCertGet (o : Owner) (m : MboxMsg) (s : State) : Answer :=
  .next (mboxRun s o 0x10 m .any (m.body.length == 8) fun a =>
    let k := ofLe (slice m.body 0 4)
    let off := ofLe (slice m.body 4 4)
    match belfryGate s a with
    | some e => mboxReply s o 0x10 m e.1 e.2
    | none =>
    if k > 1 ∨ off ≥ Config.certLen k then mboxReply s o 0x10 m stMalformed 1
    else mboxReply s o 0x10 m stDone 0 none none ((List.range (min 4000 (Config.certLen k - off))).map fun j => Config.certByte k (certFields s k) (off + j)))

/-- PARTITION_HASH (R422). -/
def partitionHash (s : State) (p : Nat) : List Byte :=
  let x := getPart s p
  let mask := fun (n : Nat) (f : Nat → Bool) => leBytes (n / 8) (((List.range n).map fun b => if f b then 2 ^ b else 0).sum)
  sha3 (ofWords x.definition ++ mask 256 (fun b => match lookup? s.snare.blocks b with
      | some y => y.valid && y.part == p
      | none => false)
    ++ mask 128 (fun k => (assignedNs s p).contains (k / 16, k % 16)) ++ leBytes 4 x.qpnFirst ++ leBytes 4 x.qpnCount)

/-- The digests of the firmware images other than Belfry's, in processor order (R421); a processor that the variant lacks counts as 32 zero bytes (R442). -/
def firmwareDigests (s : State) : List Byte :=
  (List.range 23).flatMap fun k => if procFitted s (k + 1) then imageDigest s (k + 1) else List.replicate 32 0#8

/-- Bytes 0 to 1,439 of a report (R421), its key pair made from a free value. -/
def reportBytes (s : State) (part : Option Nat) (id pair : Nat) (nonce : List Byte) : List Byte :=
  let f := s.boot.fuses
  let x := getPart s (part.getD 0)
  let flags := match part with
    | some p => b2n (x.state == .locked) + 2 * b2n x.confidential + 4 * b2n (lookup? s.belfry.sessions p).isSome
    | none => 0
  leBytes 2 1 ++ leBytes 1 (part.getD 0xFF) ++ leBytes 1 flags ++ leBytes 4 id ++ leBytes 8 f.identity.toNat
    ++ leBytes 4 (if part.isSome then x.epoch else 0) ++ leBytes 1 s.boot.lifecycle.code ++ leBytes 1 (s.boot.ruling.getD 0)
    ++ leBytes 1 (rollbackValue f.rollback0) ++ leBytes 1 (rollbackValue f.rollback1) ++ List.replicate 8 0#8 ++ nonce ++ measureBelfry s ++ sha3 (firmwareDigests s)
    ++ sha3 (leBytes 512 s.boot.config) ++ (match part with
        | some p => partitionHash s p
        | none => List.replicate 32 0#8)
    ++ List.replicate 64 0#8 ++ (List.range 1184).map (Config.kemEk pair)

/-- ATTEST (R421 to R423): the report with its signature; its decapsulation key is kept, and the oldest goes when there are more than 64. -/
def Machine.execAttest (o : Owner) (m : MboxMsg) (t : Nat) (s : State) : Answer :=
  .next (mboxRun (atTime s t) o 0x11 m .any (m.body.length == 32) fun a =>
    let s := atTime s t
    match belfryGate s a with
    | some e => mboxReply s o 0x11 m e.1 e.2
    | none =>
      let id := s.belfry.nextReport
      let (pair, s) := draw s
      let bs := reportBytes s a.part? id pair m.body
      let sig := (List.range 2420).map (Config.dsaSign (aliasSeed s) bs)
      let kept := (s.belfry.reports ++ [{ id := id, pair := pair, part := a.part?, made := s.time }])
      let s := { s with belfry := { s.belfry with nextReport := (id + 1) % 2 ^ 32, reports := kept.drop (kept.length - 64) } }
      mboxReply s o 0x11 m stDone 0 none none (bs ++ sig))

/-- Runs a message that only partitions may send to Belfry. The fabric manager's ends NOT_OWNER with DETAIL 0x000C, which R427 states of these messages. -/
def belfryRun (s : State) (o : Owner) (typ : Nat) (m : MboxMsg) (fits : Bool) (k : Fin 16 → State) : State :=
  mboxRun s o typ m .any fits fun a => match a with
    | .fm => mboxReply s o typ m stNotOwner 0xC
    | .part p =>
      match belfryGate s (.part p) with
      | some e => mboxReply s o typ m e.1 e.2
      | none => k p

/-- SESSION_OPEN (R424). -/
def Machine.execSessionOpen (o : Owner) (m : MboxMsg) (t : Nat) (s : State) : Answer :=
  let s := atTime s t
  .next (belfryRun s o 0x12 m (m.body.length == 1096) fun p =>
    let id := ofLe (slice m.body 0 4)
    if ofLe (slice m.body 4 4) ≠ 0 then mboxReply s o 0x12 m stMalformed 1
    else if (lookup? s.belfry.sessions p.val).isSome then mboxReply s o 0x12 m stNotOwner 0xC
    else match s.belfry.reports.find? fun r => r.id == id && r.part == some p.val && decide (s.time < r.made + 10000000000) with
    | none => mboxReply s o 0x12 m stNotOwner 0xC
    | some r =>
      let shared := Config.kemDecap r.pair (slice m.body 8 1088)
      let secret := sha3 (ascii "LFN session" ++ shared ++ leBytes 4 id ++ leBytes 4 (getPart s p).epoch ++ leBytes 1 p.val)
      let s := { s with belfry := { s.belfry with reports := s.belfry.reports.filter fun r => r.id != id
                                                  sessions := assign s.belfry.sessions p.val { secret := secret } } }
      mboxReply s o 0x12 m stDone 0 none none (sha3 (ascii "LFN confirm" ++ secret ++ leBytes 4 id)))

/-- KEY_INSTALL (R425). -/
def Machine.execKeyInstall (o : Owner) (m : MboxMsg) (s : State) : Answer :=
  .next (belfryRun s o 0x13 m (m.body.length == 68) fun p =>
    let iv := slice m.body 8 12
    if ofLe (slice m.body 4 4) ≠ 0 then mboxReply s o 0x13 m stMalformed 1
    else match lookup? s.belfry.sessions p.val with
    | none => mboxReply s o 0x13 m stNotOwner 0xC
    | some x =>
      let rising := match x.lastIv with
        | some v => decide (v < ofBe iv)
        | none => true
      match Config.gcmOpen (sha3 (ascii "LFN install" ++ x.secret)) iv (slice m.body 0 8) (slice m.body 20 48) with
      | none => mboxReply s o 0x13 m stCheck 5
      | some key =>
        if !rising then mboxReply s o 0x13 m stCheck 5
        else if (s.belfry.handles.filter fun h => h.2.part == p.val).length ≥ 4096 then mboxReply s o 0x13 m stExhausted 0xA
        else
          let n := s.belfry.nextHandle
          let s := { s with belfry := { s.belfry with handles := assign s.belfry.handles n { part := p.val, secret := slice key 0 32, epoch := ofLe (slice m.body 0 4) }
                                                      nextHandle := (n + 1) % 2 ^ 32, sessions := assign s.belfry.sessions p.val { x with lastIv := some (ofBe iv) } } }
          mboxReply s o 0x13 m stDone 0 (some n))

/-- KEY_REMOVE (R425): queue pairs already set up keep their keys. -/
def Machine.execKeyRemove (o : Owner) (m : MboxMsg) (s : State) : Answer :=
  .next (belfryRun s o 0x14 m (m.body.length == 4) fun p =>
    let n := ofLe (slice m.body 0 4)
    match lookup? s.belfry.handles n with
    | some h =>
      if h.part ≠ p.val then mboxReply s o 0x14 m stNotOwner 0xC
      else mboxReply { s with belfry := { s.belfry with handles := erase s.belfry.handles n } } o 0x14 m stDone 0
    | none => mboxReply s o 0x14 m stNotOwner 0xC)

/-- ENCAP_KEY_EXPIRE (R423). -/
def Machine.execEncapKeyExpire (report : Nat) (t : Nat) (s : State) : Answer :=
  match s.belfry.reports.find? fun r => r.id == report with
  | some r => if t < r.made + 10000000000 then .next s
    else .next (let s := atTime s t; { s with belfry := { s.belfry with reports := s.belfry.reports.filter fun x => x.id != report } })
  | none => .next s

/-- KEY_JOURNAL_ERASE (R432). -/
def Machine.execKeyJournalErase (s : State) : Answer := .next (modJournal s fun j => { j with spent := [] })

end Sys2Proof
end

