-- ==== Sys2Proof/Machine/RegOps.lean ====
section
/-!
DEFINITION. What the setup registers read: the pages of the owners, the global page and the MSI-X table (R550 to R572).
-/
namespace Sys2Proof

open Machine (State Fault Refusal)

/-- The state that an answer goes on in. -/
def stateOf (s : State) : Answer → State
  | .next t => t
  | _ => s

/-- A 64-bit register made of eight 8-bit fields, or of four of 16 bits (R551). -/
def packBytes (f : Nat → Nat) : Word := BitVec.ofNat 64 ((List.range 8).foldl (fun a j => a + (f j % 256) * 2 ^ (8 * j)) 0)
def packHalves (f : Nat → Nat) : Word := BitVec.ofNat 64 ((List.range 4).foldl (fun a j => a + (f j % 65536) * 2 ^ (16 * j)) 0)

/-- Byte j, and 16-bit field j, of a register. -/
def byteOf (v : Word) (j : Nat) : Nat := fld v (8 * j + 7) (8 * j)
def halfOf (v : Word) (j : Nat) : Nat := fld v (16 * j + 15) (16 * j)

/-! ### The page of an owner (R553 to R561) -/

/-- Codes of PRT_RING_CTL STATE (R557). -/
def RingState.code : RingState → Nat
  | .disabled => 0
  | .active => 1
  | .stalled => 2
  | .error => 3
  | .orphaned => 4

/-- Codes of PartState, ShadowState and DriveState (R523, R565, R567). -/
def PartState.code : PartState → Nat
  | .absent => 0
  | .open_ => 1
  | .locked => 2
  | .scrubbing => 3
def ShadowState.code : ShadowState → Nat
  | .off => 0
  | .shadowing => 1
  | .qualified => 2
  | .failed => 3
def DriveState.code : DriveState → Nat
  | .absent => 0
  | .identifying => 1
  | .usable => 2
  | .failed => 3
  | .off => 4
def PendState.code : PendState → Nat
  | .empty => 0
  | .written => 1
  | .armed => 2
  | .invalid => 3
def Mode.code : Mode → Nat
  | .balanced => 0
  | .sweep => 1
  | .exact => 2
  | .absorb => 3

/-- The words of a shadow entry (R523). -/
def Shadow.word (x : Shadow) (k : Nat) : Word :=
  if k = 0 then put 63 48 x.primary ||| put 47 32 x.shadow ||| put 31 30 x.state.code ||| put 29 29 (b2n x.enable) ||| put 28 24 x.tolExp ||| put 23 0 x.qualifyCount
  else put 63 32 x.agree ||| put 31 16 x.disagree ||| put 15 0 x.missed

/-- The fields of PRT_DEFAULTS that mean something for the fabric manager (R552): the deadlines and the coding slot. -/
def fmDefaults : Word := maskOf 63 40 ||| maskOf 31 16 ||| maskOf 9 8

/-- What a register of an owner's page reads below the window table (R553 to R561). -/
def readPage (s : State) (o : Owner) (off : Nat) : Word :=
  let x := getOwner s o
  let r := getRing s o x.ringSel
  let part := fun (f : Nat → Word) => match o with
    | .part p => f p.val
    | .fm => 0#64
  match off with
  | 0x000 => part fun p =>
    let y := getPart s p
    put 42 32 (ownCount s p) ||| put 31 16 y.coreGroups ||| put 7 7 (b2n y.confidential) ||| put 6 4 y.state.code ||| put 3 0 p
  | 0x008 => part fun p => put 40 32 (getPart s p).stagingMib ||| put 30 16 (getPart s p).contexts
  | 0x010 => part fun p => put 51 32 (getPart s p).qpnCount ||| put 19 0 (getPart s p).qpnFirst
  | 0x018 => x.doorbell
  | 0x020 => x.poll
  | 0x028 => x.hbAddr
  | 0x030 => if o = .fm then x.hbCfg &&& maskOf 15 0 else x.hbCfg
  | 0x038 => if o = .fm then x.defaults &&& fmDefaults else x.defaults
  | 0x040 => part fun _ => x.frameClass
  | 0x048 => part fun _ => x.seqCap
  | 0x050 => part fun _ => x.foldSpill
  | 0x058 => part fun _ => x.snareExt
  | 0x060 => part fun _ => x.qpSpill
  | 0x068 => part fun _ => x.qpSpillHost
  | 0x100 => BitVec.ofNat 64 x.ringSel
  | 0x108 => r.base
  | 0x110 => r.cfg
  | 0x118 => put 45 32 r.queue ||| put 15 8 r.cause ||| put 6 4 r.state.code
  | 0x120 => r.tagBase
  | 0x128 => put 63 32 r.lost ||| put 15 0 r.wake
  | 0x130 => put 63 32 (if cfgKind r.inCfg = .submission then r.dispatched else r.written) ||| put 31 0 (min r.stalls (2 ^ 32 - 1))
  | _ =>
    if 0x200 ≤ off ∧ off < 0x220 then packHalves fun j => x.routes.getD ((off - 0x200) / 2 + j) 0
    else if 0x300 ≤ off ∧ off < 0x380 then part fun _ => (x.shadows.getD ((off - 0x300) / 16) {}).word ((off / 8) % 2)
    else if 0x800 ≤ off ∧ off < 0x880 then BitVec.ofNat 64 (x.counters.getD ((off - 0x800) / 8) 0)
    else 0#64

/-- How many LDs hold an extent. -/
def lentTo (s : State) (e : Nat) : Nat := ((List.range 16).filter fun p => (getLd s p).lent.any fun x => x.2.ext == e).length

/-- The word of a window slot (R562). -/
def slotWord (s : State) (p k : Nat) : Nat :=
  let word := fun (e mode hold region : Nat) =>
    let x := getExt s e
    let kind := if x.kind == .awaiting then x.was else x.kind
    region * 2 ^ 24 + b2n x.poison * 128 + b2n (x.kind == .awaiting) * 64 + hold * 16 + b2n (kind == .guarded) * 8 + 4 + mode
  match ownExt s p k with
  | some e => word e ((lookup? (getLd s p).modes k).getD .none).code 0 0
  | none => match lookup? (getLd s p).lent k with
    | some l => word l.ext l.mode.code (if 1 < lentTo s l.ext then 2 else 1) l.region
    | none => 0

/-! ### The global page (R563 to R572) -/

/-- The fuse array with SEED read as zero (R543, R564). -/
def fuseArray (f : Fuses) : Nat :=
  let gens := (List.range 4).foldl (fun a g =>
    let r := f.gens.getD g {}
    a + (r.valid % 16 + (r.config % 2 ^ 4096) * 2 ^ 4 + (r.check % 2 ^ 32) * 2 ^ 4100) * 2 ^ (2048 + 4160 * g)) 0
  f.identity.toNat + (f.seedCheck % 2 ^ 32) * 2 ^ 320 + (f.imageKey % 2 ^ 256) * 2 ^ 352 + (f.lifecycle % 256) * 2 ^ 608 + (f.rollback0 % 2 ^ 128) * 2 ^ 616
    + (f.rollback1 % 2 ^ 128) * 2 ^ 744 + f.limits.toNat * 2 ^ 872 + (f.repair % 2 ^ 1024) * 2 ^ 936 + gens

/-- Whether BAR0 gives telemetry at the fine grain (R435, R441). -/
def fineGrain (s : State) : Bool := !frozen s && !(s.parts.any fun p => p.state == .locked && p.confidential)

/-- Telemetry as a reader of BAR0 finds it: watts, a sensor's quarter degrees, the compute level, the Snare throttle step (R435, R441). -/
def shownWatts (s : State) : Nat := if fineGrain s then s.power.watts else s.power.coarseW
def shownTemp (s : State) (k : Nat) : Nat :=
  if !sensorFitted s k then 0x8000 else (BitVec.ofInt 16 ((if fineGrain s then s.power.temps else s.power.coarseTemps).getD k 0)).toNat
def shownLevel (s : State) : Nat := if fineGrain s then computeLevel s else s.power.coarseLevel
def shownStep (s : State) : Nat := if frozen s then s.power.coarseStep else s.snare.step

/-- Milliseconds of Peak left, or until Peak may be entered (R572). -/
def peakMs (s : State) : Nat :=
  match s.power.peak with
  | some (_, e) => msUp (e - s.time)
  | none => msUp (s.power.cooldownEnd - s.time)

/-- The field of a Snare block (R566). -/
def snareField (s : State) (b : Nat) : Nat := let x := getBlock s b; b2n x.valid * 128 + b2n x.busy * 64 + x.part % 16

/-- The field of an extent in the hub region table (R568). -/
def hubRegion (s : State) (e : Nat) : Nat :=
  let kind := match (getExt s e).kind with
    | .openRows => 0
    | .guarded => 1
    | .awaiting => 2
  match pchOwner s (e / 3) with
  | some p => p * 16 + 8 + kind
  | none => kind

/-- A mask of four link bits. -/
def linkBits (s : State) (p : Nat) (f : Nat → Link → Bool) : Nat := (List.range 4).foldl (fun a k => a + b2n (f k (getLink s p k)) * 2 ^ k) 0

/-- What a register of a port reads (R569, R570). -/
def readPort (s : State) (p off : Nat) : Word :=
  let x := getPort s p
  let l := getLink s p ((off - 0x40) / 0x20)
  if off = 0x000 then put 11 8 (linkBits s p fun _ l => l.enabled) ||| put 1 0 x.mode
  else if off = 0x008 then
    put 27 24 (linkBits s p fun _ l => l.down) ||| put 19 16 (linkBits s p fun k _ => linkUsable s p k) ||| put 11 8 (linkBits s p fun _ l => l.adjacent)
      ||| put 3 0 (linkBits s p fun _ l => l.phyUp)
  else if 0x040 ≤ off ∧ off < 0x0C0 then
    if off % 0x20 = 0 then l.identity
    else if off % 0x20 = 8 then put 63 16 l.mac ||| put 15 15 (b2n l.nodeValid) ||| put 11 0 l.nodeId
    else if off % 0x20 = 0x10 then l.enabledId else 0#64
  else if 0x100 ≤ off ∧ off < 0x200 then x.shapers.getD ((off - 0x100) / 8) 0#64
  else if 0x200 ≤ off ∧ off < 0x288 then packBytes fun j => x.map.getD (off - 0x200 + j) 0
  else if off = 0x300 then
    put 63 32 (min x.late (2 ^ 32 - 1)) ||| put 21 16 (x.active.length - 1) ||| put 15 14 x.pendState.code ||| put 13 13 (b2n (!x.active.isEmpty)) ||| put 7 2 x.countM1
  else if off = 0x308 then BitVec.ofNat 64 x.takeover
  else if 0x400 ≤ off ∧ off < 0x600 then x.active.getD ((off - 0x400) / 8) 0xFF00000000000000#64
  else if 0x600 ≤ off then x.pending.getD ((off - 0x600) / 8) 0#64
  else 0#64

/-- What a register of a drive reads (R567). A count of 16 usable namespaces does not fit in its field: the field is then `fv`, a free value. -/
def readDrive (s : State) (fv d off : Nat) : Word :=
  let y := getDrive s d
  match off with
  | 0x00 => put 11 8 (if y.usable.length < 16 then y.usable.length else fv) ||| put 2 0 y.state.code
  | 0x08 => put 63 63 (b2n y.enable) ||| put 47 16 y.capacityGb ||| put 15 0 y.dwpd
  | 0x10 => BitVec.ofNat 64 y.waitShare
  | 0x18 => BitVec.ofNat 64 y.waitWear
  | 0x20 => BitVec.ofNat 64 y.waitDrive
  | 0x28 => BitVec.ofNat 64 y.bucket
  | _ => 0#64

/-- Two dwords of the component and memory device registers (R552). -/
def cxlWord (s : State) (o : Owner) (fv off : Nat) : Word := put 31 0 (cxlDword s o fv off) ||| put 63 32 (cxlDword s o fv (off + 4))

/-- What a register of the global page reads (R552, R563 to R572). `fv` is a free value for what is not given. -/
def readGlobal (s : State) (fv off : Nat) : Word :=
  if off = 0x00000 then s.boot.fuses.identity
  else if off = 0x00008 then
    put 18 18 (b2n s.power.peak.isSome) ||| put 17 16 s.power.mode.code ||| put 15 15 (b2n s.ports.nodeValid) ||| put 11 0 s.ports.nodeId
  else if off = 0x00010 then s.ports.prefix_
  else if off = 0x00018 then s.ports.net
  else if off = 0x00020 then
    put 25 24 (s.boot.ruling.getD 0) ||| put 23 16 (rollbackValue s.boot.fuses.rollback1) ||| put 15 8 (rollbackValue s.boot.fuses.rollback0)
      ||| put 7 0 s.boot.lifecycle.code
  else if 0x00040 ≤ off ∧ off < 0x00080 then packBytes fun j => (coreOf s (off - 0x40 + j)).getD 0xFF
  else if 0x00100 ≤ off ∧ off < 0x00A20 then BitVec.ofNat 64 (fuseArray s.boot.fuses >>> (64 * ((off - 0x100) / 8)))
  else if 0x00C00 ≤ off ∧ off < 0x00C38 then BitVec.ofNat 64 (s.ports.counters.getD ((off - 0xC00) / 8) 0)
  else if 0x01000 ≤ off ∧ off < 0x01400 then
    let p := (off - 0x1000) / 0x40
    let x := getPart s p
    match (off - 0x1000) % 0x40 with
    | 0x00 => put 63 32 x.epoch ||| put 3 3 (b2n x.confidential) ||| put 2 0 x.state.code
    | 0x08 => put 51 32 x.qpnCount ||| put 19 0 x.qpnFirst
    | 0x10 => x.hostQos
    | 0x18 => put 33 32 (getFlash s p).spillState ||| put 31 0 (getFlash s p).spillSlots
    | _ => 0#64
  else if 0x02000 ≤ off ∧ off < 0x03000 then readPage s .fm (off - 0x2000)
  else if off = 0x03000 then s.boot.fuses.limits
  else if off = 0x03008 then
    put 63 48 (ceiling s) ||| put 47 32 (peakMs s) ||| put 17 16 (shownStep s) ||| put 8 8 (b2n (fineGrain s)) ||| put 6 0 (shownLevel s)
  else if off = 0x03010 then put 15 0 (shownWatts s)
  else if 0x03100 ≤ off ∧ off < 0x03138 then packHalves fun j => shownTemp s ((off - 0x3100) / 2 + j)
  else if 0x03800 ≤ off ∧ off < 0x03920 then BitVec.ofNat 64 (s.power.counters.getD ((off - 0x3800) / 8) 0)
  else if 0x04000 ≤ off ∧ off < 0x04100 then packBytes fun j => snareField s (off - 0x4000 + j)
  else if 0x06000 ≤ off ∧ off < 0x06200 then readDrive s fv ((off - 0x6000) / 0x40) ((off - 0x6000) % 0x40)
  else if 0x06400 ≤ off ∧ off < 0x06480 then packBytes fun j => (getDrive s ((off - 0x6400) / 16)).owners.getD ((off - 0x6400) % 16 + j) 0
  else if 0x08000 ≤ off ∧ off < 0x0C000 then readPort s ((off - 0x8000) / 0x800) ((off - 0x8000) % 0x800)
  else if 0x10000 ≤ off ∧ off < 0x10780 then packBytes fun j => hubRegion s (off - 0x10000 + j)
  else if 0x40000 ≤ off ∧ off < 0x48000 then (lookup? s.ports.forwarding ((off - 0x40000) / 8)).getD 0#64
  else if 0x48000 ≤ off ∧ off < 0x48800 then
    let x := (lookup? s.ports.foreign ((off - 0x48000) / 0x20)).getD {}
    match off % 0x20 with
    | 0x00 => x.addrHi
    | 0x08 => x.addrLo
    | 0x10 => x.entry
    | _ => x.mac
  else if 0xFA000 ≤ off ∧ off < 0xFD000 then cxlWord s .fm fv (off - 0xFA000)
  else 0#64

/-- What a register reads through BAR0, through BAR2, and through BAR4, whose offsets the model numbers from 0x10000 on (log entry 16). -/
def readReg (s : State) (fv : Nat) (o : Owner) (bar0 : Bool) (off : Nat) : Word :=
  if bar0 then readGlobal s fv off
  else if off < 0x1000 then readPage s o off
  else if 0x8000 ≤ off ∧ off < 0xA000 then
    match o with
    | .part p => put 31 0 (slotWord s p.val ((off - 0x8000) / 4)) ||| put 63 32 (slotWord s p.val ((off - 0x8000) / 4 + 1))
    | .fm => 0#64
  else if 0xA000 ≤ off ∧ off < 0xD000 then cxlWord s o fv (off - 0xA000)
  else if 0x10000 ≤ off ∧ off < 0x10400 then
    let k := (off - 0x10000) / 8
    let w := (getOwner s o).msixTable.getD k 0#64
    if k % 2 = 0 then w else put 63 32 (b2n ((getOwner s o).vecMask.getD (k / 2) true)) ||| put 31 0 (fld w 31 0)
  else if off = 0x11000 then BitVec.ofNat 64 ((List.range 64).foldl (fun a v => a + b2n ((getOwner s o).pba.getD v false) * 2 ^ v) 0)
  else 0#64

/-- Registers of 32 bits: the window table, the CXL registers, and the MSI-X table by the PCIe layout (R551, R552, R562). -/
def narrowReg (bar0 : Bool) (off : Nat) : Bool :=
  if bar0 then decide (0xFA000 ≤ off ∧ off < 0xFD000) else decide (0x8000 ≤ off ∧ off < 0xD000) || decide (0x10000 ≤ off ∧ off < 0x10400)

end Sys2Proof
end

