-- ==== Sys2Proof/Machine/Rings.lean ====
section
/-!
DEFINITION. Rings, programs and this part's own stations: doorbell fetches, program invocations and steps, commit, COPY, FENCE, ABORT and the
program loads (R35 to R74, R593, R594).
-/
namespace Sys2Proof

open Machine (State Fault Refusal)

/-! ### Doorbell fetches -/

/-- POLL_MIN and POLL_MAX in ns (R44, R554). -/
def pollMax (x : OwnerS) : Nat := 250 * max 1 (min 400 (fld x.poll 24 16))
def pollMin (x : OwnerS) : Nat := min (250 * max 1 (min 400 (fld x.poll 8 0))) (pollMax x)

/-- The doorbell record of a ring (R41). -/
def doorbellRecord (s : State) (o : Owner) (r : Ring) : Word :=
  BitVec.ofNat 64 (ofLe (Memory.readBytes s.host (fld (getOwner s o).doorbell 56 12 * 4096 + 8 * cfgSlot r.inCfg) 8))

/-- The records of a Chime ring's consumed part leave the list of classes, and the interrupt state moves (R481). -/
def chimeConsumed (s : State) (o : Owner) (k idx : Nat) : State :=
  let r := getRing s o k
  let n := sub32 idx r.index
  let s := modRing s o k fun r => { r with index := idx, classes := r.classes.drop n }
  let r := getRing s o k
  if n = 0 || !r.irqActive then s
  else if r.unread = 0 then modRing s o k fun r => { r with irqActive := false, irqPending := false }
  else if r.irqPending then sendMsix (modRing s o k fun r => { r with irqPending := false }) o (cfgVector r.inCfg)
  else s

/-- Puts a completion ring and every submission ring bound to it in ERROR (R56). -/
def completionError (s : State) (o : Owner) (k : Nat) : State :=
  let bound := ((getOwner s o).rings.filter fun e => cfgKind e.2.inCfg == .submission && cfgBind e.2.inCfg == k
    && (e.2.state == .active || e.2.state == .stalled) && !e.2.closing).map (·.1)
  bound.foldl (fun s j => ringError s o j 0x12) (ringError s o k 0x12)

/-- Takes the fetched doorbell record of one ring (R42, R56, R73, R74, R481). -/
def takeDoorbell (s : State) (o : Owner) (k : Nat) : State :=
  let r := getRing s o k
  if !(r.state == .active || r.state == .stalled) || r.closing then s
  else
    let w := doorbellRecord s o r
    let idx := fld w 31 0
    if fld w 63 48 ≠ cfgGen r.inCfg ∨ fld w 47 32 ≠ 0 then
      let s := if r.stale = some w then s else count s o 0 1
      modRing s o k fun r => { r with stale := some w }
    else
      let s := modRing s o k fun r => { r with stale := none, lastIndex := idx }
      match cfgKind r.inCfg with
      | .submission =>
        if sub32 idx (sub32 r.dispatched (uncommitted s o k)) > cfgSize r.inCfg then ringError s o k 0x10
        else modRing s o k fun r => { r with index := idx }
      | .completion => if sub32 idx r.index > r.unread then completionError s o k else modRing s o k fun r => { r with index := idx }
      | .chime => if sub32 idx r.index > r.unread then ringError s o k 0x12 else chimeConsumed s o k idx
      | .none => s

/-- Whether an owner counts as busy for the next interval (R44, R482). -/
def ownerBusy (s : State) (o : Owner) : Bool :=
  (s.flight.any fun d => d.owner == o && d.slot.isSome) || (getOwner s o).rings.any fun e => e.2.irqActive

/-- DOORBELL_FETCH (R42 to R45, R54 to R58, R73, R74): the host's stores become visible; when the interval has expired and the CXL link is up, the
node takes the doorbell records of the owner's rings and dispatches what is new. `dbOk` says whether the doorbell reads succeed and
`badRings` names the setup slots whose descriptor reads fail. -/
def Machine.execDoorbellFetch (o : Owner) (stores : List Host.Cell) (dbOk : Bool) (badRings : List Nat) (t : Nat) (s : State) : Answer :=
  let s := { s with host := Memory.writeCells s.host stores }
  let x := getOwner s o
  if !s.cxl.linkUp || scrubbing s o || !(x.rings.any fun e => e.2.enabled) || decide (t < x.nextFetch) then .next s
  else
    let s := atTime s t
    let before := (getOwner s o).rings.map fun e => e.2.lastIndex
    let s := if dbOk then x.rings.foldl (fun s e => takeDoorbell s o e.1) s
      else x.rings.foldl (fun s e => if (e.2.state == .active || e.2.state == .stalled) && !e.2.closing then ringError s o e.1 0x11 else s) s
    let changed := (getOwner s o).rings.map (fun e => e.2.lastIndex) != before
    let s := pumpOwner s o badRings
    let iv := if changed || ownerBusy s o then pollMin x else min (2 * x.interval) (pollMax x)
    .next (modOwner s o fun y => { y with interval := iv, nextFetch := t + iv })

/-! ### Programs -/

/-- The words of step `n` of an invocation after SUBST; CHAIN_IN of the invoking descriptor applies to step 0 (R65, R66). -/
def stepOf (d : Desc) (n : Nat) : List Word :=
  let ws := stepWords d.words ((d.prog.getD []).getD n [])
  if d.cur.isEmpty then ws.set 0 (merge (wd ws 0) (wd d.words 0) (maskOf 51 51)) else ws

/-- A descriptor at the start of a program step: nothing of the step before is left in it but its output tile, the locks of its invocation and what it
staged. -/
def freshStep (d : Desc) (n : Nat) (ws : List Word) (tile : Option Tile) (gen : Option Nat) : Desc :=
  { d with cur := ws, step := n, phase := .ready, status := 0, detail := 0, res0 := none, res1 := none, input := tile, output := none
           locks := d.heldLocks, walked := false, pages := [], hubsDone := [], parts := [], hubParts := [], ranges := [], cores := [], chunks := 0, billed := 0, progressCount := 0, moved := false, started := false, msg := none, admitted := false
           unitsLeft := 0, unitsDone := 0, held := [], slots := [], hits := [], probes := 0, early := none
           objGen := gen, pendingObj := none, stepBase := d.effects.length, blocksBase := d.blocks.length }

/-- Starts step `n` of a program (R60, R65, R66): takes its words after SUBST, the tile of the step before for CHAIN_IN, and its locks. A step that
may not chain, or that is no operation, completes at once; one that names an extent revoked since the dispatch ends the program (R373). -/
def startStep (s : State) (d : Desc) (n : Nat) : State :=
  let ws := stepOf d n
  let chain := bit (wd ws 0) 51
  let first := d.cur.isEmpty
  let tile := if first then d.input else if chain then d.output else none
  let ok := first || !chain || validStatus d.status
  let s := finalProgress s d
  let s := d.pages.foldl (fun s w => match w.frame with
    | some f => if w.pinned then unpinFrame s f else s
    | none => s) s
  let s := { s with cores := s.cores.map fun c => { c with pieces := c.pieces.filter fun x => !(x.1 == d.ctx && x.2.1 == d.index) } }
  -- the object that the step before has read may go, and its answered commands with it (R386)
  let was := d
  let s := removeOps s d fun o => o.answered && !o.spill
  let d := freshStep d n ws tile (objectAt s d.owner ws)
  let s := dropOld (putDesc s d) was
  if !ok then putDesc s (d.finish 0x02 1)
  else if !legalOp ws then putDesc s (d.finish 0xF0 1)
  else if (locationWords d).any fun k => d.w k != 0#64 && fld (d.w k) 63 60 == 1 && d.lost.contains (fld (d.w k) 58 48) then stopDesc s d stRevoked 0
  else if chain && (fld (wd ws 1) 40 24 != 0 || !takesTile d.opcode d.subop || tile.isNone) then putDesc s (d.finish 0xF0 3)
  else
    let (s, d) := takeLocks s { d with early := earlyRead s d }
    putDesc s d

/-- PROGRAM_INVOKE (R66, R459): unless its sequencer is paused, step 0 of the program that the slot held at dispatch starts; CHAIN_IN of the invoking descriptor applies to it. -/
def Machine.execProgramInvoke (q : Nat) (i : BitVec 32) (s : State) : Answer :=
  match findDesc s q i with
  | some d => if d.prog.isSome && d.cur.isEmpty && d.phase == .ready && !sequencerAway s d.share then .next (startStep s d 0) else .next s
  | none => .next s

/-- The step that follows a finished one (R65): none when the program ends. -/
def nextStep (d : Desc) : Option Nat :=
  let w := wd ((d.prog.getD []).getD d.step []) 1
  let n := if validStatus d.status then fld w 63 56 else fld w 55 48
  if d.prog.isNone ∨ n = 0xFF then none else some n

/-- PROGRAM_STEP (R65, R66, R459): unless its sequencer is paused, a finished step is followed by the step that its NEXT_OK or NEXT_FAIL names; a program that ends goes to its commit. -/
def Machine.execProgramStep (q : Nat) (i : BitVec 32) (s : State) : Answer :=
  match findDesc s q i with
  | some d =>
    if d.phase == .finished && d.prog.isSome && !sequencerAway s d.share then
      match nextStep d with
      | some n => .next (startStep s d n)
      | none => .next s
    else .next s
  | none => .next s

/-! ### Commit -/

/-- Whether what a commit would leave held in the node, its record or its event, has no room in the staging share (R466, R467). -/
def commitWaits (s : State) (d : Desc) : Bool :=
  match d.slot with
  | none => false
  | some k =>
    let c := getRing s d.owner (cfgBind (getRing s d.owner k).inCfg)
    let event := if bit (wd d.words 0) 50 ∧ ((eventRing s d.owner 1).any fun j => (getRing s d.owner j).state == .orphaned) then 32 else 0
    let record := if c.state = .orphaned ∨ (getRing s d.owner k).state = .orphaned then 32 else 0
    decide (record + event ≠ 0 ∧ heldBytes s d.owner + record + event > stagingBytes s d.owner)

/-- Whether an invocation in flight uses a program slot (R66). -/
def slotInUse (s : State) (o : Owner) (slot : Nat) : Bool :=
  s.flight.any fun d => d.owner == o && d.prog.isSome && fld (wd d.words 1) 63 56 == slot

/-- Whether a load or unload of a program waits for an invocation of its slot to commit (R66). -/
def programWaits (s : State) (d : Desc) : Bool :=
  d.effects.any fun e => match e with
    | .program o slot _ => slotInUse s o slot
    | _ => false

/-- DESCRIPTOR_COMMIT (R59, R70, R133, R134, R215): a finished descriptor takes its latch; what it staged is applied, its record written and its
event posted. It waits while flash work of its own is outstanding (R395), while a held record has no room (R467), and while an invocation uses the program slot that it
changes (R66). -/
def Machine.execDescriptorCommit (q : Nat) (i : BitVec 32) (t : Nat) (s : State) : Answer :=
  match findDesc s q i with
  | some d =>
    if d.phase == .finished && (nextStep d).isNone && !commitWaits s d && !programWaits s d && !(s.flash.ops.any fun o => o.ctx == d.ctx && o.index == d.index && !o.answered)
    then .next (settleDrains (retire (changeQps (atTime s t) d) d true)) else .next s
  | none => .next s

/-! ### COPY -/

/-- The source of a COPY in the parts in which it is read: the chunks of a bounce buffer, none for one that does not open (R430), or the whole of it. -/
def sourceParts (s : State) (d : Desc) (src : Loc) (n : Nat) : List (Option (List Byte)) :=
  match src with
  | .host a =>
    if bounced s d.owner then openEach s.host (bounceKey s d.owner.idx d.ctx (descGen s d)) d.index 2 a (ceilDiv n 4096) 0 n else [some (peekLoc s src n)]
  | _ => [some (peekLoc s src n)]

/-- What a COPY that fails leaves at its destination: any mixture of the old bytes and those that it would have written, sealed ones in a bounce buffer (R51). Of
a chunk of the source that does not open no byte is acted on (R430), so that its place keeps the old bytes. -/
def mixCopy (s : State) (d : Desc) (dst : Loc) (n : Nat) (parts : List (Option (List Byte))) : State :=
  let size := occupied s d.owner (d.w 3) n
  let stride := if size = n then 4096 else 4112
  let new := peekLoc (writeLoc s d 3 dst (parts.mapIdx fun c x => x.getD (List.replicate (min 4096 (n - 4096 * c)) 0#8)).flatten) dst size
  let old := peekLoc s dst size
  mixLoc s dst (new.mapIdx fun k b => if parts[k / stride]? = some none then old.getD k 0#8 else b)

/-- Whether two ranges of one space overlap (R50). -/
def overlaps (a b : Loc) (n : Nat) : Bool :=
  match a, b with
  | .host x, .host y => decide (x < y + n ∧ y < x + n)
  | .hbm e x, .hbm f y => e == f && decide (x < y + n ∧ y < x + n)
  | .staging o x, .staging p y => o == p && decide (x < y + n ∧ y < x + n)
  | _, _ => false

/-- Whether a place needs HBM before Memory_Active (R533). -/
def Loc.waits (s : State) : Loc → Bool
  | .hbm _ _ => !memActive s
  | _ => false

/-- COPY (R49 to R51, R80, R114, R593): moves LEN bytes from W2 to W3; the output tile holds them. -/
def Machine.execCopy (q : Nat) (i : BitVec 32) (rd : HostRead) (s : State) : Answer :=
  match stationDesc s q i 0x06 0 with
  | none => .next s
  | some d =>
    let n := d.len
    if !bodyOk d.cur [allBits, allBits] then
      let (v, s) := draw s
      .next (putDesc s (d.finish stMalformed (v % 2 ^ 15)))
    else match locate s d.owner (d.w 2) (occupied s d.owner (d.w 2) n) false, locate s d.owner (d.w 3) (occupied s d.owner (d.w 3) n) true with
    | .error e, _ => .next (putDesc s (d.finish e.1 e.2))
    | _, .error e => .next (putDesc s (d.finish e.1 e.2))
    | .ok src, .ok dst =>
      if src.waits s || dst.waits s then .next s
      else if overlaps src dst (occupied s d.owner (d.w 3) n) then
        let (v, s) := draw s
        .next (putDesc s (d.finish stMalformed (v % 2 ^ 15)))
      else match writable s dst with
      | some e => .next (putDesc s (d.finish e.1 e.2))
      | none =>
        -- a step-state region that is on flash refuses reads, and one that is being lifted makes them wait (R400)
        match src.regionReads s n with
        | .refused => .next (putDesc s (d.finish stNotOwner 0xA))
        | .waits => .next s
        | .now => if busyPairs s n src ++ busyPairs s n dst ≠ [] then .next (queueAccess s d (busyPairs s n src ++ busyPairs s n dst))
          else .next (withDoms s (src.doms ++ dst.doms) fun s =>
          match readLoc s d 2 rd src n with
          | .error e => putDesc (mixCopy s d dst n (sourceParts s d src n)) (d.finish e.1 e.2)
          | .ok r =>
            if r.poison then putDesc (mixCopy s d dst n [some r.bytes]) (d.finish stPoisoned 1)
            else
              putDesc (writeLoc s d 3 dst r.bytes) { d.finish stDone 0 with output := some { bytes := r.bytes } })

/-! ### FENCE and ABORT -/

/-- Takes a descriptor that is submitted and not yet dispatched out of its ring (R69, R70, R72): its record is written at once, ABORTED, in a completion
slot that must be free (R55), and the ring passes over it. None when no slot is free. -/
def abortWaiting (s : State) (o : Owner) (k : Nat) (ws : List Word) (target : BitVec 32) : Option State :=
  if credit s o k = 0 then none
  else
    let r := getRing s o k
    let d : Desc := { owner := o, slot := some k, ctx := r.queue, index := target, words := ws, cur := ws, time := s.time }
    let (s, d) := settleResults s (d.finish stAborted 0)
    let s := modRing (modRing s o (cfgBind r.inCfg) fun x => { x with reserved := x.reserved + 1 }) o k fun x => { x with skips := target.toNat :: x.skips }
    some (complete s d)

/-- FENCE (R61, R62): completes when every earlier descriptor of its ring, and the one named, have committed; RESULT0 counts the failures. -/
def Machine.execFence (q : Nat) (i : BitVec 32) (s : State) : Answer :=
  match stationDesc s q i 0x0B 0 with
  | none => .next s
  | some d =>
    if d.len ≠ 0 ∨ !bodyOk d.cur [maskOf 63 63 ||| maskOf 13 0, maskOf 31 0] then
      let (v, s) := draw s
      .next (putDesc s (d.finish stMalformed (v % 2 ^ 15)))
    else
      let earlier := (s.flight.takeWhile fun x => !(x.ctx == q && x.index == i)).any fun x => x.ctx == q
      let named := !bit (d.w 2) 63 || match d.named with
        | some k => committed s d.owner k (BitVec.ofNat 32 (fld (d.w 3) 31 0))
        | none => d.namedDone
      if earlier || !named then .next s
      else
        -- the descriptor that it names is not counted (R62)
        let own := bit (d.w 2) 63 && fld (d.w 2) 13 0 == q
        let counted := (getRing s d.owner (d.slot.getD 0)).failed.filter fun n => !(own && n == fld (d.w 3) 31 0)
        .next (putDesc s (d.finish stDone 0 (some counted.length)))

/-- An ABORT that takes nothing: MALFORMED, with a free DETAIL where R69 states none. -/
def abortRefused (s : State) (d : Desc) : State :=
  let (v, s) := draw s
  putDesc s (d.finish stMalformed (v % 2 ^ 15))

/-- ABORT of an index that its ring holds no descriptor in flight for: committed, or submitted and not yet dispatched. -/
def abortIndex (s : State) (d : Desc) (k : Nat) (target : BitVec 32) (t : Nat) : State :=
  let r := getRing s d.owner k
  let ahead := sub32 target.toNat (r.dispatched % 2 ^ 32)
  if committed s d.owner k target then putDesc s (d.finish stAlready 0)
  else if !(r.state == .active || r.state == .stalled || r.state == .orphaned) || !decide (ahead < undispatched s d.owner k) then abortRefused s d
  else
    let ws := toWords 8 ((readDescriptor s d.owner k (r.dispatched + ahead)).getD [])
    if fld (wd ws 0) 63 56 = 0x0C ∧ fld (wd ws 0) 47 32 = 1 then abortRefused s d
    else match abortWaiting (atTime s t) d.owner k ws target with
      | none => s
      | some s => pumpOwner (putDesc s (d.finish stDone 0)) d.owner []

/-- ABORT (R69 to R72, R594): takes the target's latch and stops it, be it running or submitted and not yet dispatched, or finds it committed. A target
that has its latch by an early commit point makes the ABORT wait for its record. The ring is the one that held the context at the ABORT's dispatch. Two points
are the model's (DESIGN CHOICE, log entry 24): an index that is submitted and not dispatched on a ring in ERROR, or on one that is disabled, is MALFORMED as one
not submitted; and the ABORTED record has DETAIL 0, but for a program, whose DETAIL names its step. -/
def Machine.execAbort (q : Nat) (i : BitVec 32) (t : Nat) (s : State) : Answer :=
  match stationDesc s q i 0x0C 1 with
  | none => .next s
  | some d =>
    let target := BitVec.ofNat 32 (fld (d.w 3) 31 0)
    if d.len ≠ 0 ∨ !bodyOk d.cur [maskOf 13 0, maskOf 31 0] then .next (abortRefused s d)
    else match d.named with
    | none => .next (if d.namedDone then putDesc s (d.finish stAlready 0) else abortRefused s d)
    | some k =>
      match findDesc s (fld (d.w 2) 13 0) target with
      | some x =>
        if x.opcode = 0x0C ∧ x.subop = 1 then .next (abortRefused s d)
        else if x.latched then .next s
        else .next (settleDrains (putDesc (stopDesc (atTime s t) x stAborted 0) (d.finish stDone 0)))
      | none => .next (abortIndex s d k target t)

/-! ### Programs: load and unload -/

/-- Whether a program image passes the checks of R64: the header, and every template's W0, control word and first CHAIN_IN. -/
def programOk (bs : List Byte) : Bool :=
  let h := toWords 8 bs
  let n := fld (wd h 0) 5 0
  let steps := (List.range n).map fun k => toWords 8 (slice bs (64 * (k + 1)) 64)
  decide (1 ≤ n ∧ n ≤ 32) && fld (wd h 0) 63 6 == 0 && (h.drop 1).all (· == 0#64)
    && !bit (wd (steps.headD []) 0) 51
    && (List.range n).all fun k =>
      let w0 := wd (steps.getD k []) 0
      let w1 := wd (steps.getD k []) 1
      let next := fun (x : Nat) => x == 0xFF || (decide (k < x) && decide (x < n))
      w0Legal w0 && fld w0 63 56 != 0x0B && fld w0 63 56 != 0x0C && fld w0 49 48 == 0 && fld w0 31 0 == 0
        && fld w1 47 41 == 0 && decide (fld w1 40 24 ≤ 65536) && next (fld w1 63 56) && next (fld w1 55 48)

/-- LOAD_PROGRAM (R64, R66, R68): reads and checks an image and, at its commit, fills the slot. -/
def Machine.execLoadProgram (q : Nat) (i : BitVec 32) (rd : HostRead) (s : State) : Answer :=
  match stationDesc s q i 0x0C 2 with
  | none => .next s
  | some d =>
    let slot := fld (d.w 3) 5 0
    let n := d.len
    if !bodyOk d.cur [allBits, maskOf 5 0] ∨ slot = 0 then .next (putDesc s (d.finish stMalformed 1))
    else if n % 64 ≠ 0 ∨ n = 0 then .next (putDesc s (d.finish stMalformed 3))
    else if slotInUse s d.owner slot then .next s
    else match locate s d.owner (d.w 2) (occupied s d.owner (d.w 2) n) false with
    | .error e => .next (putDesc s (d.finish e.1 e.2))
    | .ok src =>
      if src.waits s then .next s
      else .next (withDoms s src.doms fun s =>
        match readLoc s d 2 rd src n 1 with
        | .error e => putDesc s (d.finish e.1 e.2)
        | .ok r =>
          let steps := fld (wd (toWords 1 r.bytes) 0) 5 0
          if r.poison then putDesc s (d.finish stPoisoned 1)
          else if 64 * (steps + 1) ≠ n ∧ 1 ≤ steps ∧ steps ≤ 32 then putDesc s (d.finish stMalformed 3)
          else if !programOk r.bytes then putDesc s (d.finish stMalformed 1)
          else
            let image := (List.range steps).map fun k => toWords 8 (slice r.bytes (64 * (k + 1)) 64)
            putDesc s { d.finish stDone 0 (some slot) (some steps) with effects := d.effects ++ [.program d.owner slot (some image)] })

/-- UNLOAD_PROGRAM (R66, R68): at its commit the slot is empty. A LEN that is not 0 is MALFORMED DETAIL 3, as the like of LOAD_PROGRAM (DESIGN CHOICE: R68 gives
no answer; log entry 22). -/
def Machine.execUnloadProgram (q : Nat) (i : BitVec 32) (s : State) : Answer :=
  match stationDesc s q i 0x0C 3 with
  | none => .next s
  | some d =>
    let slot := fld (d.w 3) 5 0
    if !bodyOk d.cur [0#64, maskOf 5 0] ∨ slot = 0 then .next (putDesc s (d.finish stMalformed 1))
    else if d.len ≠ 0 then .next (putDesc s (d.finish stMalformed 3))
    else if slotInUse s d.owner slot then .next s
    else .next (putDesc s { d.finish stDone 0 (some slot) (some 0) with effects := d.effects ++ [.program d.owner slot none] })

end Sys2Proof
end

