-- ==== Sys2Proof/Machine/Registers.lean ====
section
/-!
DEFINITION. Writes and reads of the setup registers (R73, R468, R483, R523, R550 to R572).
-/
namespace Sys2Proof

open Machine (State Fault Refusal)

/-! ### Access -/

/-- Whether writes through an owner's page take effect: the BARs answer, and the partition exists and is not being scrubbed (R441, R532). -/
def pageOpen (s : State) (o : Owner) : Bool :=
  mailboxUp s && match o with
    | .part p => (getPart s p).live && !scrubbing s o
    | .fm => true

/-- A write that a rule of the chapter ignores is counted (R561). -/
def ignoreWrite (s : State) (o : Owner) : State := count s o 15 1

/-- Whether a RWL field that names a partition is locked (R416, R565). -/
def lockedPart (s : State) (p : Nat) : Bool := (getPart s p).state == .locked || (getPart s p).state == .scrubbing

/-! ### Rings (R73, R466, R468, R557 to R559) -/

/-- Whether the owner has a ring enabled. -/
def anyEnabled (s : State) (o : Owner) : Bool := (getOwner s o).rings.any fun e => e.2.enabled

/-- The first check of R559 that the setup of a ring fails. -/
def enableCause (s : State) (o : Owner) (k : Nat) : Option Nat :=
  let x := getOwner s o
  let r := getRing s o k
  let kind := cfgKind r.cfg
  let n := fld r.cfg 60 56
  let entry := if kind = .submission then 64 else 32
  let clash := x.rings.any fun e => e.1 != k && e.2.inForce && cfgKind e.2.inCfg != .none && cfgSlot e.2.inCfg == cfgSlot r.cfg
  let b := getRing s o (cfgBind r.cfg)
  let bound := cfgKind b.inCfg == .completion && (b.state == .active || b.state == .stalled) && !b.closing
  let chimes := (x.rings.filter fun e => e.2.inForce && cfgKind e.2.inCfg == .chime).length
  let secret : Bool := match o with
    | .part p => (getPart s p).confidential
        && ((getPart s p).state != .locked || (lookup? s.belfry.sessions p.val).isNone || fld r.tagBase 56 0 == 0)
    | .fm => false
  if kind = .none ∨ n < 6 ∨ 16 < n ∨ fld r.base 56 0 % max (entry * 2 ^ n) 4096 ≠ 0 then some 1
  else if clash then some 2
  else if kind = .submission ∧ !bound then some 3
  else if !mayFix s o ∨ (takeContext s o false k).isNone ∨ (kind = .chime ∧ 64 ≤ chimes) then some 4
  else if fld x.doorbell 56 12 = 0 then some 5
  else if secret then some 6
  else none

/-- The watches of an owner start with its first ring (R44, R464). -/
def startWatches (s : State) (o : Owner) : State :=
  if anyEnabled s o then s
  else modOwner s o fun x => { x with interval := pollMin x, nextFetch := s.time + pollMin x, hbNext := s.time, hbChanged := s.time, hbLost := false }

/-- RING_ENABLE (R73, R559): a failed check puts the ring in ERROR, without an event (R73: action none). -/
def Machine.execRingEnable (o : Owner) (s : State) : Answer :=
  let k := (getOwner s o).ringSel
  let r := getRing s o k
  if !pageOpen s o ∨ r.state ≠ .disabled then .next s
  else
    let fail := fun (c : Nat) => modRing s o k fun r => { r with state := .error, cause := c, inCfg := r.inCfg &&& maskOf 63 62, queue := 0 }
    match enableCause s o k with
    | some c => .next (fail c)
    | none => match takeContext (startWatches s o) o false k with
      | none => .next (fail 4)
      | some (c, s) =>
        .next (modRing s o k fun r => { base := r.base, cfg := r.cfg, tagBase := r.tagBase, wake := r.wake, cause := r.cause, inBase := fld r.base 56 0, inCfg := r.cfg
                                        inTag := fld r.tagBase 56 0, state := .active, queue := c })

/-- Disables a ring (R73); with a completion ring go the enabled submission rings bound to it (R559). -/
def disableSlot (s : State) (o : Owner) (k : Nat) : State :=
  let r := getRing s o k
  if !r.enabled then s
  else
    let bound := if cfgKind r.inCfg = .completion then
        ((getOwner s o).rings.filter fun e => e.2.inForce && cfgKind e.2.inCfg == .submission && cfgBind e.2.inCfg == k).map (·.1)
      else []
    closeRing (bound.foldl (fun s j => closeRing s o j) s) o k

/-- RING_DISABLE (R73, R466, R559). -/
def Machine.execRingDisable (o : Owner) (s : State) : Answer := if pageOpen s o then .next (disableSlot s o (getOwner s o).ringSel) else .next s

/-- RING_RESET (R73): from ERROR only. -/
def Machine.execRingReset (o : Owner) (s : State) : Answer :=
  let k := (getOwner s o).ringSel
  if pageOpen s o ∧ (getRing s o k).state = .error then .next (resetRing s o k) else .next s

/-- The bits of PRT_RING_CFG (R557). -/
def cfgMask : Word := maskOf 63 62 ||| maskOf 60 56 ||| maskOf 48 40 ||| maskOf 39 24 ||| maskOf 21 16 ||| maskOf 8 0

/-- Completion records that a ring holds reach host memory: its submission rings' counts follow (R467). -/
def deliverHeld (s : State) (o : Owner) (c : Nat) : State :=
  let bound := ((getOwner s o).rings.filter fun e => cfgKind e.2.inCfg == .submission && cfgBind e.2.inCfg == c).map (·.1)
  flushHeld (bound.foldl (fun s j => modRing s o j fun r => { r with recsWritten := r.recsWritten + r.recsHeld, recsHeld := 0 }) s) o c

/-- RING_REATTACH (R466 to R468, R485, R558): the ring is ORPHANED and only GEN differs from the registered setup. -/
def reattach (s : State) (o : Owner) (k : Nat) (v : Word) : State :=
  let r := getRing s o k
  let gen := maskOf 39 24
  if r.state ≠ .orphaned ∨ r.closing ∨ cfgGen v = cfgGen r.inCfg ∨ (v &&& cfgMask &&& ~~~gen) ≠ (r.inCfg &&& cfgMask &&& ~~~gen) then ignoreWrite s o
  else
    let s := modRing s o k fun r => { r with cfg := v &&& cfgMask, inCfg := v &&& cfgMask, inBase := fld r.base 56 0, inTag := fld r.tagBase 56 0, state := .active, stale := none
                                             index := if cfgKind r.inCfg = .submission then sub32 r.dispatched 0 else r.index }
    match cfgKind r.inCfg with
    | .submission => if (getRing s o (cfgBind v)).state = .orphaned then s else deliverHeld s o (cfgBind v)
    | .completion => deliverHeld s o k
    | _ => flushHeld s o k

/-- RING_REATTACH (R468): the write of PRT_RING_CFG on the selected slot. -/
def Machine.execRingReattach (o : Owner) (cfg : Word) (s : State) : Answer :=
  if pageOpen s o then .next (reattach s o (getOwner s o).ringSel cfg) else .next s

/-- A write of BASE, CFG or TAG_BASE of the selected slot (R558). -/
def writeSetup (s : State) (o : Owner) (off : Nat) (v : Word) : State :=
  let k := (getOwner s o).ringSel
  match (getRing s o k).state, off with
  | .disabled, 0x108 => modRing s o k fun r => { r with base := v &&& maskOf 56 0 }
  | .disabled, 0x110 => modRing s o k fun r => { r with cfg := v &&& cfgMask }
  | .disabled, _ => modRing s o k fun r => { r with tagBase := v &&& maskOf 56 0 }
  | .orphaned, 0x108 => modRing s o k fun r => { r with base := v &&& maskOf 56 0 }
  | .orphaned, 0x110 => reattach s o k v
  | .orphaned, _ => modRing s o k fun r => { r with tagBase := v &&& maskOf 56 0 }
  | _, _ => ignoreWrite s o

/-- A write of WAKE (R480, R481): an ARMED ring wakes when a bit is set whose class has a record that is not consumed. -/
def writeWake (s : State) (o : Owner) (v : Word) : State :=
  let k := (getOwner s o).ringSel
  let r := getRing s o k
  let new := fld v 15 0
  let woken := r.classes.any fun c => (new >>> c) % 2 == 1 && (r.wake >>> c) % 2 == 0
  let s := modRing s o k fun r => { r with wake := new }
  if cfgKind r.inCfg = .chime ∧ r.state = .active ∧ !r.closing ∧ !r.irqActive ∧ woken then wakeRing s o k else s

/-- A write of PRT_RING_CTL (R557). -/
def writeCtl (s : State) (o : Owner) (v : Word) : State :=
  match fld v 1 0 with
  | 1 => stateOf s (Machine.execRingEnable o s)
  | 2 => stateOf s (Machine.execRingDisable o s)
  | 3 => stateOf s (Machine.execRingReset o s)
  | _ => s

/-! ### Settings of an owner (R553 to R556) -/

/-- PRT_POLL and PRT_HB_CFG as they are stored (R554). -/
def pollWord (v : Word) : Word := put 24 16 (max 1 (min 400 (fld v 24 16))) ||| put 8 0 (max 1 (min 400 (fld v 8 0)))
def hbWord (v : Word) : Word :=
  let n := fld v 15 0
  put 16 16 (fld v 16 16) ||| put 15 0 (if n = 0 then 0 else max 10 (min 60000 n))

/-- Sets a heartbeat register; a watch that this turns on begins now (R463, R464). -/
def setWatch (s : State) (o : Owner) (f : OwnerS → OwnerS) : State :=
  modOwner s o fun x => if (heartbeatNs x).isNone then { f x with hbNext := s.time, hbChanged := s.time } else f x

/-- PRT_DEFAULTS as it is stored, over what it holds (R554). -/
def defaultsWord (old v : Word) : Word :=
  let keep := fun (hi lo bad reset : Nat) => if fld v hi lo = bad then reset else fld v hi lo
  put 63 40 (keep 63 40 0 0x2710) ||| put 31 16 (keep 31 16 0 0x7D0) ||| put 12 12 (fld v 12 12) ||| put 9 8 (keep 9 8 3 (fld old 9 8))
    ||| put 5 4 (keep 5 4 0 (fld old 5 4)) ||| put 1 0 (keep 1 0 0 (fld old 1 0))

/-- A write of the frame classes (R77): a class that holds a page extent keeps its row count. -/
def writeFrameClass (s : State) (p : Nat) (v : Word) : State :=
  let o := ownerOf p
  let old := (getOwner s o).frameClass
  -- an extent that an ADD_EXTENT in flight is giving to the class counts as held already
  let held := fun (c : Nat) => !(pageExts s p c).isEmpty
    || s.extents.any fun e => pchOwner s (e.1 / 3) == some p && (e.2.claim.bind fun x => x.2.2) == some c
  let bad := (List.range 8).any fun c => held c && fld v (4 * c + 3) (4 * c) != fld old (4 * c + 3) (4 * c)
  let new := (List.range 8).foldl (fun w c => if held c then w else merge w v (maskOf (4 * c + 3) (4 * c))) old
  let s := modOwner s o fun x => { x with frameClass := new }
  if bad then ignoreWrite s o else s

/-- Whether an extent register may name an own extent for a use: Guarded, and in no other node use (R371, R555). -/
def mayName (s : State) (p k : Nat) (use : ExtUse) (held : Option Nat) : Bool :=
  match ownExt s p k with
  | some e => (getExt s e).kind == .guarded && (getExt s e).claim.isNone && ((getExt s e).use == .none || ((getExt s e).use == use && held == some e))
  | none => false

/-- The use of the extents that a register names, old and new. -/
def swapUse (s : State) (old new : List Nat) (use : ExtUse) : State :=
  let s := old.foldl (fun s e => if (getExt s e).use = use then modExt s e fun x => { x with use := .none } else s) s
  new.foldl (fun s e => modExt s e fun x => { x with use := use }) s

/-- The own extent that a register word with VALID in [63] names. -/
def namedExt (s : State) (p : Nat) (w : Word) : Option Nat := if bit w 63 then ownExt s p (fld w 10 0) else none

/-- A write of PRT_FOLD_SPILL (R162, R555, R556). -/
def writeFoldSpill (s : State) (p : Nat) (v : Word) : State :=
  let o := ownerOf p
  let old := (getOwner s o).foldSpill
  let held := namedExt s p old
  let v := v &&& (maskOf 63 63 ||| maskOf 10 0)
  if held.isSome ∧ movedBytes s o 2 ≠ 0 then ignoreWrite s o
  else
    let ok := !bit v 63 || mayName s p (fld v 10 0) .foldSpill held
    let new := if ok then v else old &&& ~~~(maskOf 63 63)
    let s := modOwner s o fun x => { x with foldSpill := new }
    let s := swapUse s held.toList (namedExt s p new).toList .foldSpill
    if ok then s else ignoreWrite s o

/-- A write of PRT_SNARE_EXT (R239, R555, R556): a change drops every entry of the old extension. -/
def writeSnareExt (s : State) (p : Nat) (v : Word) : State :=
  let o := ownerOf p
  let old := (getOwner s o).snareExt
  let held := namedExt s p old
  let v := v &&& (maskOf 63 63 ||| maskOf 10 0)
  let ok := !bit v 63 || mayName s p (fld v 10 0) .snareExt held
  let new := if ok then v else old &&& ~~~(maskOf 63 63)
  let s := modOwner s o fun x => { x with snareExt := new }
  let s := swapUse s held.toList (namedExt s p new).toList .snareExt
  let s := if new = old then s else dropExtension s p
  if ok then s else ignoreWrite s o

/-- SNARE_EXT_CHANGE (R239, R555, R556). -/
def Machine.execSnareExtChange (p : Fin 16) (v : Word) (s : State) : Answer := if pageOpen s (.part p) then .next (writeSnareExt s p.val v) else .next s

/-- Whether a queue pair of a partition is spilled (R556). -/
def anySpilled (s : State) (p : Nat) : Bool := s.net.qps.any fun e => e.2.part == p && e.2.ctx.isNone

/-- The extents that PRT_QP_SPILL names. -/
def qpSpillExts (s : State) (p : Nat) (w : Word) : List Nat :=
  if fld w 63 62 = 1 then (ownExt s p (fld w 10 0)).toList ++ (if bit w 27 then (ownExt s p (fld w 26 16)).toList else []) else []

/-- A write of PRT_QP_SPILL or PRT_QP_SPILL_HOST (R301, R413, R555, R556). -/
def writeQpSpill (s : State) (p : Nat) (area host : Word) : State :=
  let o := ownerOf p
  let x := getOwner s o
  let area := area &&& (maskOf 63 62 ||| maskOf 27 16 ||| maskOf 10 0)
  let host := host &&& (maskOf 56 12 ||| maskOf 7 0)
  let held := qpSpillExts s p x.qpSpill
  let good := fun (k : Nat) => match ownExt s p k with
    | some e => mayName s p k .spillArea (if held.contains e then some e else none)
    | none => false
  let ok := fld area 63 62 != 1 || (good (fld area 10 0) && (!bit area 27 || (good (fld area 26 16) && fld area 26 16 != fld area 10 0)))
  let sets := fld area 63 62 != 0 && fld x.qpSpill 63 62 == 0
  if anySpilled s p ∨ (sets ∧ contextsOwned s o ≤ contextsFixed s o) then ignoreWrite s o
  else if !ok then
    let left := x.qpSpill &&& ~~~(maskOf 27 27)
    ignoreWrite (swapUse (modOwner s o fun y => { y with qpSpill := left }) held (qpSpillExts s p left) .spillArea) o
  else swapUse (modOwner s o fun y => { y with qpSpill := area, qpSpillHost := host }) held (qpSpillExts s p area) .spillArea

/-! ### Shadows (R523, R525) -/

/-- A shadow entry after a write of its E0. -/
def Shadow.written (e : Shadow) (v : Word) : Shadow :=
  let tol := fld v 28 24
  let started := bit v 29 && !e.enable
  { primary := fld v 63 48, shadow := fld v 47 32, enable := bit v 29, tolExp := tol, qualifyCount := fld v 23 0
    state := if !bit v 29 then .off else if started then (if 4 ≤ tol ∧ tol ≤ 20 then .shadowing else .off) else e.state
    agree := if started then 0 else e.agree
    disagree := if started then 0 else e.disagree
    missed := if started then 0 else e.missed
    inRow := if started then 0 else e.inRow }

/-- A write of E0 of a shadow entry. -/
def writeShadow (s : State) (p k : Nat) (v : Word) : State :=
  modOwner s (ownerOf p) fun x => { x with shadows := x.shadows.modify k fun e => e.written v }

/-- SHADOW_ENABLE (R523). -/
def Machine.execShadowEnable (p : Fin 16) (k : Nat) (v : Word) (s : State) : Answer :=
  if pageOpen s (.part p) ∧ k < 8 then .next (writeShadow s p.val k v) else .next s

/-! ### A write to a page (R551, R553 to R562) -/

/-- A write of a 64-bit register of an owner's page below the window table. -/
def writePage (s : State) (o : Owner) (off : Nat) (v : Word) : State :=
  let part := fun (f : Nat → State) => match o with
    | .part p => f p.val
    | .fm => ignoreWrite s o
  let busy : Bool := (getOwner s o).rings.any fun e => e.2.state == .active || e.2.state == .stalled
  match off with
  | 0x018 =>
    if busy then ignoreWrite s o
    else modOwner s o fun x => { x with doorbell := v &&& maskOf 56 12 }
  | 0x020 => modOwner s o fun x => { x with poll := pollWord v }
  | 0x028 => setWatch s o fun x => { x with hbAddr := v &&& maskOf 56 3 }
  | 0x030 => setWatch s o fun x => { x with hbCfg := if o = .fm then hbWord v &&& maskOf 15 0 else hbWord v }
  | 0x038 => modOwner s o fun x => { x with defaults := if o = .fm then merge x.defaults (defaultsWord x.defaults v) fmDefaults else defaultsWord x.defaults v }
  | 0x040 => part fun p => writeFrameClass s p v
  | 0x048 => part fun p =>
    if !(getPart s p).seqs.isEmpty ∨ !(getPart s p).reservedSeqs.isEmpty then ignoreWrite s o
    else modOwner s o fun x => { x with seqCap := put 4 0 (max 10 (min 22 (fld v 4 0))) }
  | 0x050 => part fun p => writeFoldSpill s p v
  | 0x058 => part fun p => writeSnareExt s p v
  | 0x060 => part fun p => writeQpSpill s p v (getOwner s o).qpSpillHost
  | 0x068 => part fun p => writeQpSpill s p (getOwner s o).qpSpill v
  | 0x100 => modOwner s o fun x => { x with ringSel := fld v 8 0 }
  | 0x108 => writeSetup s o off v
  | 0x110 => writeSetup s o off v
  | 0x118 => writeCtl s o v
  | 0x120 => writeSetup s o off v
  | 0x128 => writeWake s o v
  | _ =>
    if 0x200 ≤ off ∧ off < 0x220 then
      modOwner s o fun x => { x with routes := x.routes.mapIdx fun c r => if 4 * ((off - 0x200) / 8) ≤ c ∧ c < 4 * ((off - 0x200) / 8) + 4 then halfOf v (c % 4) &&& 0x81FF else r }
    else if 0x300 ≤ off ∧ off < 0x380 then
      part fun p => if (off / 8) % 2 = 0 then writeShadow s p ((off - 0x300) / 16) v else s
    else if off < 0x018 ∨ off = 0x130 ∨ (0x800 ≤ off ∧ off < 0x880) then s
    else ignoreWrite s o

/-- A write of a dword of the MSI-X table by the PCIe layout: address, data, vector control with the mask bit (R483). -/
def writeMsix (s : State) (o : Owner) (off dword : Nat) : State :=
  let v := (off - 0x10000) / 16
  let k := (off - 0x10000) / 8
  match (off / 4) % 4 with
  | 3 => sendPending (modOwner s o fun x => { x with vecMask := x.vecMask.set v (dword % 2 == 1) }) o v
  | 1 => modOwner s o fun x => { x with msixTable := x.msixTable.modify k fun w => setFld w 63 32 dword }
  | _ => modOwner s o fun x => { x with msixTable := x.msixTable.modify k fun w => setFld w 31 0 dword }

/-- MSIX_UNMASK (R483). -/
def Machine.execMsixUnmask (o : Owner) (v : Nat) (s : State) : Answer :=
  if !mailboxUp s ∨ 64 ≤ v ∨ scrubbing s o then .next s else .next (sendPending (modOwner s o fun x => { x with vecMask := x.vecMask.set v false }) o v)

/-! ### The global page (R563 to R571) -/

/-- SNARE_BLOCK_RELEASE (R566): the entries are lost at once, and BUSY stands while the block is zeroed. -/
def releaseBlock (s : State) (b : Nat) : State :=
  let x := getBlock s b
  if !x.valid ∨ lockedPart s x.part then s else modBlock s b fun x => { x with valid := false, busy := true, entries := [], shifting := [] }
def Machine.execSnareBlockRelease (b : Nat) (s : State) : Answer := if mailboxUp s ∧ b < 256 then .next (releaseBlock s b) else .next s

/-- SNARE_BLOCK_CLEAR_DONE (R566). -/
def Machine.execSnareBlockClearDone (b : Nat) (s : State) : Answer :=
  if (getBlock s b).busy then .next (modBlock s b fun x => { x with busy := false }) else .next s

/-- A write of one SNARE_OWNER field (R416, R566). -/
def writeSnareOwner (s : State) (b v : Nat) : State :=
  let x := getBlock s b
  let p := v % 16
  if v % 256 = snareField s b then s
  else if v / 128 % 2 = 0 then (if x.valid then releaseBlock s b else modBlock s b fun x => { x with part := p })
  else if x.valid ∨ x.busy then ignoreWrite s .fm
  else if lockedPart s p then s
  else modBlock s b fun x => { x with valid := true, part := p }

/-- A write of one FLASH_NS field (R382, R416, R567). -/
def writeNs (s : State) (d m v : Nat) : State :=
  let old := (getDrive s d).owners.getD m 0
  let p := v % 16
  let v := (v / 128 % 2) * 128 + p
  if v = old then s
  else if (128 ≤ old ∧ lockedPart s (old % 16)) ∨ (128 ≤ v ∧ lockedPart s p) then s
  else if 128 ≤ v ∧ (!(getDrive s d).usable.contains (m + 1) ∨ (128 ≤ old ∧ (getPart s (old % 16)).live)) then ignoreWrite s .fm
  else modDrive s d fun y => { y with owners := y.owners.set m v }

/-- DRIVE_CFG_WRITE (R405, R567): the bucket is refilled up to now, then takes the new depth and rate. -/
def writeDriveCfg (s : State) (d : Nat) (v : Word) : State :=
  let s := stateOf s (Machine.execWearBucketRefill d s.time s)
  let set := fun (y : Drive) =>
    let y := { y with enable := bit v 63, capacityGb := fld v 47 16, dwpd := max 1 (fld v 15 0) : Drive }
    { y with bucket := min y.bucket (bucketDepth y) }
  pushFlash (modDrive s d set)
def Machine.execDriveCfgWrite (d : Nat) (v : Word) (s : State) : Answer := if mailboxUp s ∧ d < 8 then .next (writeDriveCfg s d v) else .next s

/-- FLASH_SPILL_SLOTS_WRITE (R395, R565): slots of 16 KiB with 48 bytes of slot table each, in stripe units over the usable namespaces. -/
def writeSpillSlots (s : State) (p slots : Nat) : State :=
  let n := slots % 2 ^ 32
  let x := getFlash s p
  if !(getPart s p).live ∨ (getPart s p).state = .scrubbing then s
  else if !x.spill.isEmpty then ignoreWrite s .fm
  else
    let free := modFlash s p fun y => { y with spillSlots := 0, spillState := 0, spillSpaces := [] }
    if n = 0 then free
    else if inUnits (spillBytes n) + flashTaken free p ≤ flashSpace free p then modFlash free p fun y => { y with spillSlots := n, spillState := 1, spillSpaces := usableNs s p }
    else modFlash free p fun y => { y with spillSlots := n, spillState := 2 }
def Machine.execFlashSpillSlotsWrite (p : Fin 16) (slots : Nat) (s : State) : Answer := if mailboxUp s then .next (writeSpillSlots s p.val slots) else .next s

/-- A write of GLB_PART_QPN (R416, R565). -/
def writeQpnRange (s : State) (p : Nat) (v : Word) : State :=
  let n := fld v 51 32
  let a := fld v 19 0
  let clash := (List.range 16).any fun q => q != p && decide ((getPart s q).qpnCount ≠ 0 ∧ a < (getPart s q).qpnFirst + (getPart s q).qpnCount ∧ (getPart s q).qpnFirst < a + n)
  if lockedPart s p then s
  else if n ≠ 0 ∧ (a = 0 ∨ 2 ^ 20 < a + n ∨ clash) then ignoreWrite s .fm
  else modPart s p fun x => { x with qpnFirst := a, qpnCount := n }

/-- A write of HOST_QOS (R367, R416, R565). -/
def writeQos (s : State) (p : Nat) (v : Word) : State :=
  let sum := fun (hi lo : Nat) => ((List.range 16).map fun q => if q = p then fld v hi lo else fld (getPart s q).hostQos hi lo).sum
  if lockedPart s p then s
  else if 256 < sum 7 0 ∨ 256 < sum 23 16 then ignoreWrite s .fm
  else modPart s p fun x => { x with hostQos := v &&& maskOf 31 0 }

/-- A write of GLB_NET (R563). -/
def writeNet (s : State) (v : Word) : State :=
  let rq := fld v 50 48
  let rs := fld v 54 52
  if rq = rs ∨ rq = 6 ∨ rs = 6 then ignoreWrite s .fm
  else
    let w := put 54 52 rs ||| put 50 48 rq ||| put 47 32 (min 10000 (fld v 47 32)) ||| put 23 16 (max 1 (min 100 (fld v 23 16))) ||| put 15 0 (fld v 15 0)
    { s with ports := { s.ports with net := w } }

/-- A write of PORT_CFG (R569): MODE stands while a link is enabled; LINK_EN bits enable and disable links. -/
def writePortCfg (s : State) (p : Nat) (v : Word) (t : Nat) : State :=
  let mode := fld v 1 0
  let on := (getPort s p).links.any (·.enabled)
  let s := if mode = (getPort s p).mode then s else if on then ignoreWrite s .fm else (List.range 4).foldl (fun s k => settleAdjacent s p k) (modPort s p fun x => { x with mode := mode })
  (List.range 4).foldl (fun s k =>
    let old := (getLink s p k).enabled
    if bit v (8 + k) && !old then stateOf s (Machine.execPortLinkEnable p k s)
    else if !bit v (8 + k) && old then stateOf s (Machine.execPortLinkDisable p k t s) else s) s

/-- A write of PORT_GATE_CTL (R346, R570). -/
def writeGateCtl (s : State) (p : Nat) (v : Word) (t : Nat) : State :=
  match fld v 1 0 with
  | 1 => stateOf s (Machine.execGateArm p (fld v 7 2) t s)
  | 2 => stateOf s (Machine.execGateClear p (fld v 7 2) s)
  | _ => modPort s p fun x => { x with countM1 := fld v 7 2, pendState := if x.pendState = .armed then .written else x.pendState }

/-- A write of a port's register (R342 to R346, R569, R570). -/
def writePort (s : State) (p off : Nat) (v : Word) (t : Nat) : State :=
  if off = 0x000 then writePortCfg s p v t
  else if off = 0x008 then stateOf s (Machine.execPortDownClear p (fld v 27 24) t s)
  else if 0x100 ≤ off ∧ off < 0x200 then
    modPort s p fun x => { x with shapers := x.shapers.set ((off - 0x100) / 8) (v &&& (maskOf 63 63 ||| maskOf 43 32 ||| maskOf 15 0)) }
  else if 0x200 ≤ off ∧ off < 0x288 then
    let k := off - 0x200
    let old := (getPort s p).map
    let s := modPort s p fun x => { x with map := x.map.mapIdx fun j m => if k ≤ j ∧ j < k + 8 ∧ j % 8 ≠ 6 then byteOf v (j - k) &&& 0x9F else m }
    if byteOf v 6 &&& 0x9F = old.getD (k + 6) 0 then s else ignoreWrite s .fm
  else if off = 0x300 then writeGateCtl s p v t
  else if off = 0x308 then modPort s p fun x => { x with takeover := v.toNat, pendState := if x.pendState = .armed then .written else x.pendState }
  else if 0x600 ≤ off then
    modPort s p fun x => { x with pending := x.pending.set ((off - 0x600) / 8) (v &&& (maskOf 63 56 ||| maskOf 31 0)), pendState := .written }
  else if (0x040 ≤ off ∧ off < 0x0C0 ∧ off % 0x20 < 0x18) ∨ (0x400 ≤ off ∧ off < 0x600) then s
  else ignoreWrite s .fm

/-- A write of eight 8-bit fields (R551). -/
def writeBytes8 (s : State) (v : Word) (f : State → Nat → Nat → State) : State := (List.range 8).foldl (fun s j => f s j (byteOf v j)) s

/-- A write of a 64-bit register of the global page. -/
def writeGlobal (s : State) (off : Nat) (v : Word) (t : Nat) : State :=
  if off = 0x00008 then stateOf s (Machine.execNodeIdWrite v s)
  else if off = 0x00010 then { s with ports := { s.ports with prefix_ := v } }
  else if off = 0x00018 then writeNet s v
  else if 0x01000 ≤ off ∧ off < 0x01400 then
    let p := (off - 0x1000) / 0x40
    match (off - 0x1000) % 0x40 with
    | 0x00 => s
    | 0x08 => writeQpnRange s p v
    | 0x10 => writeQos s p v
    | 0x18 => writeSpillSlots s p (fld v 31 0)
    | _ => ignoreWrite s .fm
  else if 0x02000 ≤ off ∧ off < 0x03000 then writePage s .fm (off - 0x2000) v
  else if 0x04000 ≤ off ∧ off < 0x04100 then writeBytes8 s v fun s j b => writeSnareOwner s (off - 0x4000 + j) b
  else if 0x06000 ≤ off ∧ off < 0x06200 then
    if (off - 0x6000) % 0x40 = 8 then writeDriveCfg s ((off - 0x6000) / 0x40) v
    else if (off - 0x6000) % 0x40 < 0x30 then s else ignoreWrite s .fm
  else if 0x06400 ≤ off ∧ off < 0x06480 then writeBytes8 s v fun s j b => writeNs s ((off - 0x6400) / 16) ((off - 0x6400) % 16 + j) b
  else if 0x08000 ≤ off ∧ off < 0x0C000 then writePort s ((off - 0x8000) / 0x800) ((off - 0x8000) % 0x800) v t
  else if 0x40000 ≤ off ∧ off < 0x48000 then stateOf s (Machine.execForwardingEntryWrite ((off - 0x40000) / 8) v s)
  else if 0x48000 ≤ off ∧ off < 0x48800 then
    let e := (off - 0x48000) / 0x20
    let x := (lookup? s.ports.foreign e).getD {}
    let keep := fun (y : Foreign) => { s with ports := { s.ports with foreign := assign s.ports.foreign e y } }
    match off % 0x20 with
    | 0x00 => keep { x with addrHi := v }
    | 0x08 => keep { x with addrLo := v }
    | 0x10 => stateOf s (Machine.execForeignEntryWrite e v s)
    | _ => keep { x with mac := v &&& maskOf 47 0 }
  else if off = 0 ∨ off = 0x20 ∨ (0x40 ≤ off ∧ off < 0x80) ∨ (0x100 ≤ off ∧ off < 0xA20) ∨ (0xC00 ≤ off ∧ off < 0xC38) ∨ (0x3000 ≤ off ∧ off < 0x3018)
      ∨ (0x3100 ≤ off ∧ off < 0x3138) ∨ (0x3800 ≤ off ∧ off < 0x3920) ∨ (0x10000 ≤ off ∧ off < 0x10780) then s
  else ignoreWrite s .fm

/-! ### Accesses (R551) -/

/-- A write of a whole register. -/
def writeReg (s : State) (o : Owner) (bar0 : Bool) (off : Nat) (v : Word) (t : Nat) : State :=
  if bar0 then writeGlobal s off v t
  else if off < 0x1000 then writePage s o off v
  else if off = 0x11000 then s
  else ignoreWrite s o

/-- A write of a 32-bit register: a window slot, a CXL register or a dword of the MSI-X table. -/
def writeNarrow (s : State) (o : Owner) (bar0 : Bool) (off dword t : Nat) : State :=
  if bar0 then writeCxlDword s .fm (off - 0xFA000) dword
  else if 0xA000 ≤ off ∧ off < 0xD000 then writeCxlDword s o (off - 0xA000) dword
  else if off < 0xA000 then
    match o with
    | .part p => stateOf s (Machine.execWindowModeWrite p ((off - 0x8000) / 4) (dword % 4) t s)
    | .fm => ignoreWrite s o
  else writeMsix s o off dword

/-- Whether a function reaches a BAR: BAR0 is the fabric manager's function's, or LD 0's under direct attachment (R353, R354, R552). -/
def barReached (s : State) (o : Owner) (bar0 : Bool) : Bool := mailboxUp s && presented s o && (!bar0 || o == .fm || s.cxl.direct) && !(o == .fm && !bar0 && s.cxl.direct)

/-- REGISTER_WRITE (R11, R441, R551): 8 bytes at once, or 4 bytes, of which the lower half waits for the upper. -/
def Machine.execRegisterWrite (o : Owner) (bar0 : Bool) (off : Nat) (size : Nat) (v : Word) (t : Nat) (s : State) : Answer :=
  if !barReached s o bar0 ∨ !(if bar0 then true else pageOpen s o) ∨ !((size = 8 ∧ off % 8 = 0) ∨ (size = 4 ∧ off % 4 = 0)) then .next s
  else
    let s := atTime s t
    let key := off / 8 * 8 + (if bar0 then 2 ^ 20 else 0)
    if narrowReg bar0 off then
      let s := writeNarrow s o bar0 off (fld v 31 0) t
      if size = 8 then .next (writeNarrow s o bar0 (off + 4) (fld v 63 32) t) else .next s
    else if size = 8 then .next (writeReg s o bar0 off v t)
    else if off % 8 = 0 then .next (modOwner s o fun x => { x with lowHalf := assign x.lowHalf key (fld v 31 0) })
    else
      let low := (lookup? (getOwner s o).lowHalf key).getD 0
      .next (writeReg s o bar0 (off - 4) (put 63 32 (fld v 31 0) ||| put 31 0 low) t)

/-- REGISTER_READ_LOWER_HALF (R441, R551): a 4-byte read; that of a lower half latches the upper one, which the next read of it gives. -/
def Machine.execRegisterReadLowerHalf (o : Owner) (bar0 : Bool) (off : Nat) (s : State) : Answer :=
  if !barReached s o bar0 ∨ off % 4 ≠ 0 then .next s
  else if !bar0 ∧ scrubbing s o then .next (emit s (.regRead o bar0 off (maskOf 31 0)))
  else
    let (fv, s) := draw (expirePeak s)
    let key := off / 8 * 8 + (if bar0 then 2 ^ 20 else 0)
    let w := readReg s fv o bar0 (off / 8 * 8)
    if narrowReg bar0 off then .next (emit s (.regRead o bar0 off (if off % 8 = 0 then put 31 0 (fld w 31 0) else put 31 0 (fld w 63 32))))
    else if off % 8 = 0 then
      .next (emit (modOwner s o fun x => { x with readLatch := assign x.readLatch key (fld w 63 32) }) (.regRead o bar0 off (put 31 0 (fld w 31 0))))
    else
      let hi := (lookup? (getOwner s o).readLatch key).getD (fld w 63 32)
      .next (emit (modOwner s o fun x => { x with readLatch := erase x.readLatch key }) (.regRead o bar0 off (put 31 0 hi)))

end Sys2Proof
end

