-- ==== Sys2Proof/Machine/Monitor.lean ====
section
/-!
DEFINITION. The Aznis monitor (R469 to R472, R546, R549): one command a row. What a command shows is emitted as lines of numbers, whose form is the
model's own (log entry 17); the last line is OK or ERR with a status.
-/
namespace Sys2Proof

open Machine (State Fault Refusal)

/-- A number in n hexadecimal digits, most significant first. -/
def hexOf (n v : Nat) : String := String.ofList ((List.range n).map fun k => Nat.digitChar (v / 16 ^ (n - 1 - k) % 16))

/-- The hexadecimal digits of bytes, in order. -/
def hexBytes (bs : List Byte) : String := String.ofList (bs.flatMap fun b => [Nat.digitChar (b.toNat / 16), Nat.digitChar (b.toNat % 16)])

/-- A signed number in decimal. -/
def intText (v : Int) : String := if v < 0 then "-" ++ toString v.natAbs else toString v.natAbs

/-- Numbers on one line. -/
def numbers (xs : List Nat) : String := xs.foldl (fun a x => a ++ " " ++ toString x) ""

/-- Whether the monitor runs (R469, R526): the processors have been released and Carillon 0 is neither fenced nor away; in the faulted state while the attention
die has power. -/
def monitorUp (s : State) : Bool :=
  let p := s.fw.procs.getD 2 {}
  ([StartPhase.processorsUp, .hbmTrained, .cleared, .active].contains s.boot.phase || (s.boot.phase == .faulted && (getDom s 2).present == .on && p.image.isSome))
    && !p.fenced && !procAway s 2

/-- Lines of a reply and its end, and the prompt of the monitor or of the loader after it (R470, R537). -/
def monitorSay (s : State) (lines : List String) (end_ : String) : State := emit (emit (lines.foldl (fun s x => emit s (.uart x)) s) (.uart end_)) (.uart (if s.boot.phase = .loader then "loader> " else "aznis> "))

/-- Runs a monitor command in the lifecycle states that the table marks (R470, R471). -/
def monitorRun (s : State) (allowed : List Lifecycle) (k : State → State) : State :=
  if !monitorUp s then s
  else if allowed.contains s.boot.lifecycle then k s else monitorSay s [] "ERR F0"

/-- All lifecycles; those of the test floor; MANUFACTURE alone. -/
def anyLife : List Lifecycle := [.manufacture, .production, .returned]
def testLife : List Lifecycle := [.manufacture, .returned]

/-- The commands that a lifecycle allows (R471). -/
def monitorNames (l : Lifecycle) : List String :=
  ["HELP", "VER", "STATUS", "TEMP", "POWER", "TIME", "LOG", "BAUD", "FW"] ++ (if l = .production then [] else ["HBM", "PEEK", "POKE", "FUSE", "RESET"])

/-- MONITOR_HELP (R471). -/
def Machine.execMonitorHelp (s : State) : Answer := .next (monitorRun s anyLife fun s => monitorSay s (monitorNames s.boot.lifecycle) "OK")

/-- MONITOR_VER (R452, R471). -/
def Machine.execMonitorVer (s : State) : Answer := .next (monitorRun s anyLife fun s => monitorSay s [hexBytes (identifyBody s)] "OK")

/-- MONITOR_STATUS (R471, R472): mode and Peak, partition states, fences, drives and links. -/
def Machine.execMonitorStatus (s : State) : Answer :=
  .next (monitorRun s anyLife fun s =>
    let s := expirePeak s
    let fences := fenceEntries s
    let links := (List.range 8).flatMap fun p => (List.range 4).map fun k => b2n (linkUsable s p k)
    monitorSay s ["MODE" ++ numbers [s.power.mode.code, b2n s.power.peak.isSome],
      "PARTITIONS" ++ numbers (s.parts.map fun p => p.state.code),
      "FENCES" ++ numbers (fences.flatMap fun e => [e.1, e.2]),
      "DRIVES" ++ numbers (s.flash.drives.map fun d => d.state.code),
      "LINKS" ++ numbers links] "OK")

/-- MONITOR_TEMP (R435, R471): °C of every sensor that is fitted, in the order of R572. -/
def Machine.execMonitorTemp (s : State) : Answer :=
  .next (monitorRun s anyLife fun s =>
    monitorSay s (((List.range 28).filter (sensorFitted s)).map fun k => toString k ++ " " ++ intText (s.power.coarseTemps.getD k 0 / 4)) "OK")

/-- MONITOR_POWER (R435, R471): watts, compute level and Snare throttle step. -/
def Machine.execMonitorPower (s : State) : Answer :=
  .next (monitorRun s anyLife fun s => monitorSay s ["POWER" ++ numbers [s.power.coarseW, s.power.coarseLevel, shownStep s]] "OK")

/-- MONITOR_TIME (R471). -/
def Machine.execMonitorTime (s : State) : Answer := .next (monitorRun s anyLife fun s => monitorSay s [toString s.time] "OK")

/-- MONITOR_LOG (R471, R472, R527): entries of no partition, oldest first. -/
def Machine.execMonitorLog (s : State) : Answer :=
  .next (monitorRun s anyLife fun s => monitorSay s ((s.faults.log.reverse.filter fun e => e.part.isNone).map fun e => hexBytes (ofWords (logWords e))) "OK")

/-- The line rates of BAUD (R469). -/
def bauds : List Nat := [115200, 230400, 460800, 921600, 1500000, 3000000]

/-- Sets the line rate after the reply (R469, R537). -/
def setBaud (s : State) (n : Nat) : State :=
  if bauds.contains n then
    let s := monitorSay s [] "OK"
    { s with serial := { s.serial with baud := n } }
  else monitorSay s [] "ERR F0"

/-- MONITOR_BAUD (R469, R471). -/
def Machine.execMonitorBaud (n : Nat) (s : State) : Answer := .next (monitorRun s anyLife fun s => setBaud s n)

/-- Codes of VerifyState (R456). -/
def VerifyState.code : VerifyState → Nat
  | .none => 0
  | .verified => 1
  | .refused => 2

/-- MONITOR_FW (R456, R471): for each kind the running and staged versions and the verification state; then the last operation. -/
def Machine.execMonitorFw (s : State) : Answer :=
  .next (monitorRun s anyLife fun s =>
    let kind := fun (k : Nat) => "FW" ++ numbers [k, ((runningImage s k).map (·.version)).getD 0,
      (if (getStaging s k).used then ofLe (Memory.readBytes (getStaging s k).bytes 4 4) else 0), (getStaging s k).state.code]
    monitorSay s ([1, 2, 3, 4, 5].map kind ++ ["SLOT" ++ numbers [preferredSlot s], "LAST" ++ numbers [s.fw.lastStatus, s.fw.lastDetail, (s.fw.op.map (·.progress)).getD s.fw.lastProgress]]) "OK")

/-- MONITOR_HBM (R471): the training report of each fitted stack; its margins are not given, and stand as a free value. -/
def Machine.execMonitorHbm (s : State) : Answer :=
  .next (monitorRun s testLife fun s =>
    let row := fun (s : State) (k : Nat) =>
      let (v, s) := draw s
      emit s (.uart ("HBM" ++ numbers [k, b2n (s.boot.trained.contains k), v % 2 ^ 32]))
    monitorSay (((List.range 20).filter (stackFitted s)).foldl row s) [] "OK")

/-- PEEK (R471): a 64-bit register of BAR0; another offset is no register that can be named. -/
def Machine.execPeek (off : Nat) (s : State) : Answer :=
  .next (monitorRun s testLife fun s =>
    if off % 8 ≠ 0 ∨ 2 ^ 20 ≤ off then monitorSay s [] "ERR F0"
    else
      let (fv, s) := draw (expirePeak s)
      monitorSay s [hexOf 16 (readGlobal s fv off).toNat] "OK")

/-- POKE (R471): a write of a register of BAR0, under that register's own rules. -/
def Machine.execPoke (off : Nat) (v : Word) (t : Nat) (s : State) : Answer :=
  .next (monitorRun s testLife fun s =>
    if off % 8 ≠ 0 ∨ 2 ^ 20 ≤ off then monitorSay s [] "ERR F0" else monitorSay (writeGlobal (atTime s t) off v t) [] "OK")

/-! ### FUSE (R546, R549) -/

/-- FUSE_SHOW (R549): every field but SEED, in hex. -/
def Machine.execFuseShow (s : State) : Answer :=
  .next (monitorRun s testLife fun s => monitorSay s [hexOf 4672 (fuseArray s.boot.fuses)] "OK")

/-- FUSE_LOAD (R549). -/
def Machine.execFuseLoad (k : Nat) (v : BitVec 512) (s : State) : Answer :=
  .next (monitorRun s [.manufacture] fun s =>
    if 8 ≤ k then monitorSay s [] "ERR F0"
    else monitorSay { s with serial := { s.serial with staged := s.serial.staged.set k v } } [] "OK")

/-- The staged CONFIG, without the bits that are never burnt (R545, R549). -/
def stagedConfig (s : State) : Nat :=
  let c := (List.range 8).foldl (fun a k => a + (s.serial.staged.getD k 0#512).toNat * 2 ^ (512 * k)) 0
  c % 2 ^ 110 + (c / 2 ^ 128 % 2 ^ 1152) * 2 ^ 128

/-- The generation that FUSE BURN takes (R549): the lowest above the ruling one whose record has no bit burnt. -/
def freeGen (s : State) : Option Nat :=
  (List.range 4).find? fun g => (match s.boot.ruling with
    | some r => decide (r < g)
    | none => true) && !(s.boot.fuses.gens.getD g {}).burnt

/-- A generation record is burnt. -/
def burnGen (s : State) (g : Nat) (r : GenRec) : State :=
  { s with boot := { s.boot with fuses := { s.boot.fuses with gens := s.boot.fuses.gens.set g r } } }

/-- FUSE_BURN (R544, R545, R549): `readBackOk` says whether CONFIG and CHECK read back as burnt; what a bad burn left is free. -/
def Machine.execFuseBurn (readBackOk : Bool) (s : State) : Answer :=
  .next (monitorRun s [.manufacture] fun s =>
    let c := stagedConfig s
    if !configLegal c then monitorSay s [] "ERR F0"
    else match freeGen s with
      | none => monitorSay s [] "ERR 22"
      | some g =>
        if readBackOk then monitorSay (burnGen s g { config := c, check := configCheck c, valid := 15, burnt := true }) [toString g] "OK"
        else
          let (a, s) := draw s
          let (b, s) := draw s
          monitorSay (burnGen s g { config := a % 2 ^ 4096, check := b % 2 ^ 32, valid := 0, burnt := true }) [] "ERR 12")

/-- FUSE_LIFE_PRODUCTION (R546): it takes effect at the next reset other than FUNCTION. -/
def Machine.execFuseLifeProduction (s : State) : Answer :=
  .next (monitorRun s [.manufacture] fun s =>
    let f := s.boot.fuses
    if f.identity = 0#64 ∨ f.imageKey = 0 ∨ f.seedCheck ≠ seedCheckOf f.seed ∨ s.boot.ruling.isNone then monitorSay s [] "ERR 22"
    else monitorSay { s with boot := { s.boot with fuses := { f with lifecycle := f.lifecycle ||| 15 } } } [] "OK")

/-! ### RESET and the rest -/

/-- MONITOR_RESET_COLD (R471, R540). -/
def Machine.execMonitorResetCold (s : State) : Answer := .next (monitorRun s testLife fun s => resetAs (monitorSay s [] "OK") .cold)

/-- MONITOR_RESET_WARM (R471, R540). -/
def Machine.execMonitorResetWarm (s : State) : Answer := .next (monitorRun s testLife fun s => resetAs (monitorSay s [] "OK") .warm)

/-- MONITOR_UNKNOWN (R470). -/
def Machine.execMonitorUnknown (s : State) : Answer := .next (monitorRun s [] fun s => s)

/-- UART_BREAK (R469, R537). -/
def Machine.execUartBreak (s : State) : Answer := .next { s with serial := { s.serial with baud := 115200 } }

end Sys2Proof
end

