-- ==== Sys2Proof/Machine/Loader.lean ====
section
/-!
DEFINITION. The recovery loader over the UART (R535 to R538, R587).
-/
namespace Sys2Proof

open Machine (State Fault Refusal)

/-- Runs a line of the loader; input that arrives while a transfer runs is discarded (R470, R536, R537). -/
def loaderRun (s : State) (k : State → State) : State := if s.boot.phase = .loader ∧ s.serial.transfer.isNone then k s else s

/-- LOADER_HELP (R537). -/
def Machine.execLoaderHelp (s : State) : Answer :=
  .next (loaderRun s fun s => monitorSay s ["HELP", "ID", "BAUD", "KEY", "IMAGE", "WRITE", "CHALLENGE", "RETURN"] "OK")

/-- LOADER_ID (R537). -/
def Machine.execLoaderId (s : State) : Answer :=
  .next (loaderRun s fun s => monitorSay s [hexOf 16 s.boot.fuses.identity.toNat, hexOf 2 s.boot.lifecycle.code] "OK")

/-- LOADER_BAUD (R537). -/
def Machine.execLoaderBaud (n : Nat) (s : State) : Answer := .next (loaderRun s fun s => setBaud s n)

/-- A transfer begins (R537): READY. -/
def startTransfer (s : State) (what bytes : Nat) : State := emit { s with serial := { s.serial with transfer := some (what, bytes, [], 0) } } (.uart "READY")

/-- KEY (R537): 1,312 bytes. -/
def Machine.execKey (s : State) : Answer := .next (loaderRun s fun s => startTransfer s 0 1312)

/-- IMAGE (R537, R587): at most the size of the kind's area. -/
def Machine.execImage (kind : Nat) (n : Nat) (s : State) : Answer :=
  .next (loaderRun s fun s =>
    if kind < 1 ∨ 5 < kind ∨ n = 0 ∨ stagingArea kind < n then monitorSay s [] "ERR F0" else startTransfer s kind n)

/-- The image of a kind as received. -/
def receivedImage (s : State) (sigOk : List Nat) (k : Nat) : Option Image :=
  (lookup? s.serial.raw k).map fun bs => parseImage k (Memory.writeBytes [] 0 bs) (sigOk.contains k)

/-- LOADER_WRITE (R445, R537): `sigOk` names the kinds whose signature verifies with the accepted key. -/
def Machine.execLoaderWrite (sigOk : List Nat) (s : State) : Answer :=
  .next (loaderRun s fun s =>
    let images := [1, 2, 3, 4, 5].filterMap (receivedImage s sigOk)
    if s.serial.key.isNone ∨ images.length < 5 then monitorSay s [] "ERR 22"
    else match images.find? fun x => (imageBad s x).isSome with
      | some x => monitorSay s [] ("ERR 12 " ++ toString x.kind)
      | none =>
        let b := s.fw.slots.getD 1 {}
        let a : BootSlot := { key := s.serial.key.getD [], images := images, complete := true, number := if b.complete then b.number + 1 else 1 }
        monitorSay { s with fw := { s.fw with slots := [a, b] }, serial := { s.serial with raw := [] } } [] "OK")

/-- CHALLENGE (R537): `v` is the fresh value. -/
def Machine.execChallenge (v : BitVec 256) (s : State) : Answer :=
  .next (loaderRun s fun s => monitorSay { s with serial := { s.serial with challenge := some v } } [hexOf 64 v.toNat] "OK")

/-- RETURN (R537, R538): a transfer of 2,560 bytes. -/
def Machine.execLoaderReturn (s : State) : Answer := .next (loaderRun s fun s => startTransfer s 6 2560)

/-- What a received key, image or return authorisation does (R537, R538, R546). Where R538 gives no status, for a reserved byte, FORMAT or ACTION, it is free. -/
def endTransfer (s : State) (what : Nat) (bs : List Byte) (sigOk : Bool) : State :=
  let s := { s with serial := { s.serial with transfer := none } }
  if what = 0 then
    if ofLe (sha3 bs) = s.boot.fuses.imageKey then monitorSay { s with serial := { s.serial with key := some bs } } [] "OK" else monitorSay s [] "ERR 12"
  else if what ≤ 5 then monitorSay { s with serial := { s.serial with raw := assign s.serial.raw what bs } } [] "OK"
  else
    let zero := fun (a b : Nat) => ((bs.drop a).take (b + 1 - a)).all (· == 0#8)
    let f := s.boot.fuses
    if s.serial.key.isNone then monitorSay s [] "ERR 22"
    else if !sigOk ∨ (s.serial.challenge.map (·.toNat)) ≠ some (ofBe (slice bs 16 32)) then monitorSay s [] "ERR 12"
    else if ofLe (slice bs 8 8) ≠ f.identity.toNat then monitorSay s [] "ERR 22"
    else if ofLe (slice bs 0 2) ≠ 1 ∨ bs.getD 2 0#8 ≠ 1#8 ∨ !zero 3 7 ∨ !zero 48 127 ∨ !zero 2548 2559 then
      let (v, s) := draw s
      monitorSay s [] ("ERR " ++ hexOf 2 (v % 256))
    else monitorSay { s with boot := { s.boot with fuses := { f with lifecycle := f.lifecycle ||| 0xF0, seed := 2 ^ 256 - 1 } } } [] "OK"

/-- LOADER_BLOCK (R537): a block and its CRC-32C; `sigOk` says whether the signature of a return authorisation that ends with it verifies. -/
def Machine.execLoaderBlock (data : List Byte) (crc : BitVec 32) (sigOk : Bool) (s : State) : Answer :=
  match s.serial.transfer with
  | none => .next s
  | some (what, bytes, held, naks) =>
    if s.boot.phase ≠ .loader then .next s
    else if data.length = min 4096 (bytes - held.length) ∧ crc32c data = crc then
      let s := emit s (.uart "ACK")
      let held := held ++ data
      if held.length < bytes then .next { s with serial := { s.serial with transfer := some (what, bytes, held, 0) } }
      else .next (endTransfer s what held sigOk)
    else
      let s := emit s (.uart "NAK")
      if 7 ≤ naks then .next (monitorSay { s with serial := { s.serial with transfer := none } } [] "ERR 12")
      else .next { s with serial := { s.serial with transfer := some (what, bytes, held, naks + 1) } }

/-- LOADER_UNKNOWN (R537). -/
def Machine.execLoaderUnknown (s : State) : Answer := .next (loaderRun s fun s => monitorSay s [] "ERR F0")

end Sys2Proof
end

