-- ==== Sys2Proof/Machine/Send.lean ====
section
/-!
DEFINITION. The SEND and RECV stations (R295 to R300, R317 to R319, R322): messages, the operations on queue pairs, receive buffers, and the start of a message (R311).
-/
namespace Sys2Proof

open Machine (State Fault Refusal)

/-- Whether a queue pair number is the owner's own (R295). -/
def ownsQpn (s : State) (o : Owner) (n : Nat) : Bool :=
  match o with
  | .part p => let x := getPart s p; n != 0 && decide (x.qpnFirst ≤ n ∧ n < x.qpnFirst + x.qpnCount)
  | .fm => false

/-- The queue pair of an owner that a descriptor names, when it is set up. -/
def ownQp (s : State) (o : Owner) (n : Nat) : Option Qp :=
  if ownsQpn s o n then (getQp s n).filter fun q => ownerOf q.part == o else none

/-! ### Transfers -/

/-- The body masks of a transfer (R317). -/
def transferMasks (sub : Nat) (reply : Bool) : List Word :=
  match sub with
  | 1 => [maskOf 19 0, allBits, allBits, 0#64, 0#64, 0#64]
  | 2 => [maskOf 19 0, allBits, allBits, allBits, maskOf 31 0, 0#64]
  | 3 => [maskOf 19 0, allBits, allBits, allBits, maskOf 31 0, 0#64]
  | _ => [maskOf 63 62 ||| maskOf 19 0, allBits, allBits, 0#64, 0#64, if reply then allBits else 0#64]

/-- What a transfer's words show to be wrong, before its queue pair is looked at (R317, R319). -/
def transferForm (d : Desc) : Option (Nat × Nat) :=
  let sub := d.subop
  let size := fld (d.w 4) 31 0
  if !bodyOk d.cur (transferMasks sub (bit (d.w 2) 62)) ∨ (sub = 4 ∧ bit (d.w 2) 63 ∧ fld (d.w 2) 19 0 ≠ 0) then some (stMalformed, 1)
  else if (d.chainIn && (sub == 3 || d.w 3 != 0#64 || size != 0 || d.input.isNone)) || (!d.chainIn && (d.w 3 == 0#64 || size == 0)) || d.len != 0 then some (stMalformed, 3)
  else if size > (if sub = 4 then 65568 else 268435456) ∨ (sub = 4 ∧ (if d.chainIn then inputSize d else size) < 32)
      ∨ (sub = 4 ∧ d.chainIn ∧ inputSize d > 65568) then some (stMalformed, 1)
  else none

/-- Fields and operations that a service does not take (R317). -/
def transferService (d : Desc) (v : Service) : Bool :=
  (fld (d.w 4) 63 32 != 0 && (v != .tagged || d.subop != 1)) || (d.subop == 1 && v.toFabric) || (d.subop == 4 && !v.toFabric)
    || (fld (d.w 6) 31 0 != 0 && !v.roce)

/-- The source bytes of a transfer: the tile, or SIZE bytes at DATA. -/
def transferData (s : State) (d : Desc) (rd : HostRead) : Except (Nat × Nat) (List Byte) :=
  if d.chainIn then match d.input with
    | none => .error (stMalformed, 3)
    | some t => if t.poison then .error (stPoisoned, 2) else .ok t.bytes
  else match readIn s d 3 (fld (d.w 4) 31 0) rd with
    | .error e => .error e
    | .ok r => if r.poison then .error (stPoisoned, 2) else .ok r.bytes

/-- Whether a location word of an owner names step state (R27). -/
def stepPlace (s : State) (o : Owner) (w : Word) : Bool :=
  match locate s o w 0 false with
  | .ok (.hbm e _) => (getExt s e).holdsSteps
  | _ => false

/-- A transfer on a queue pair (R317, R319): it is judged, its source is read, and its message waits to be started. -/
def transferRun (kind : MsgKind) (rd : HostRead) (d : Desc) (s : State) : State :=
  let n := fld (d.w 2) 19 0
  match transferForm d with
  | some e => endDesc s d e
  | none =>
    match ownQp s d.owner n with
    | none => endDesc s d (stNotOwner, 1)
    | some q =>
      if transferService d q.service then endDesc s d (stMalformed, 4)
      else if q.state = .error then endDesc s d (stFlushed, 2)
      else if q.state = .draining ∧ !d.admitted then s
      else if q.ctx.isNone then wantContext s n
      else
        let reply := bit (d.w 2) 62 && d.w 7 != 0#64
        let place := fun (k len : Nat) => match locate s d.owner (d.w k) (occupied s d.owner (d.w k) len) true with
          | .error e => some e
          | .ok loc => writable s loc
        match (if kind = .read then place 3 (fld (d.w 4) 31 0) else if reply then place 7 0 else none) with
        | some e => endDesc s d e
        | none =>
          match (if kind = .read then .ok [] else transferData s d rd) with
          | .error e => endDesc s d e
          | .ok bs =>
            let len := if kind = .read then fld (d.w 4) 31 0 else bs.length
            let s := modQp s n fun q => { q with lastUse := s.time }
            addMsg (putDesc s { d with phase := .running, held := if kind = .fabric then bs.take 32 else [] }) n
              { num := 0, origin := some (d.ctx, d.index), kind := kind, data := bs, len := len, tag := fld (d.w 4) 63 32, remote := d.w 5
                rkey := fld (d.w 6) 31 0, step := kind != .read && !d.chainIn && stepPlace s d.owner (d.w 3) }

/-- A FABRIC to the node's own endpoint (R261, R317): its message goes to the fabric service without leaving the node. Without WAIT_REPLY it is done, unless its request
is one that its completion answers. Which MSG_NUM it reports the spec does not say. -/
def fabricLocal (rd : HostRead) (d : Desc) (s : State) : State :=
  match transferForm d with
  | some e => endDesc s d e
  | none =>
    match d.owner with
    | .fm => endDesc s d (stNotOwner, 1)
    | .part p =>
      if fld (d.w 4) 63 32 ≠ 0 then endDesc s d (stMalformed, 4)
      else
      match (if bit (d.w 2) 62 ∧ d.w 7 ≠ 0#64 then (match locate s d.owner (d.w 7) 0 true with
        | .error e => some e
        | .ok loc => writable s loc) else none) with
      | some e => endDesc s d e
      | none =>
        match transferData s d rd with
        | .error e => endDesc s d e
        | .ok bs =>
          let m := parseFab bs 0 (some (d.ctx, d.index))
          if m.typ = 0x10 ∨ m.typ = 0x20 ∨ bit (d.w 2) 62 then fabDeliver (putDesc s { d with phase := .running }) p m
          else
            let (v, s) := draw s
            fabDeliver (putDesc s (d.finish stDone 0 (some bs.length) (some (v % 2 ^ 32)))) p { m with origin := some (d.ctx, d.index) }

/-- MESSAGE (R317). -/
def Machine.execMessage (q : Nat) (i : BitVec 32) (rd : HostRead) (s : State) : Answer := stationRun s q i 0x09 1 [3] (transferRun .send rd)

/-- WRITE (R317). -/
def Machine.execWrite (q : Nat) (i : BitVec 32) (rd : HostRead) (s : State) : Answer := stationRun s q i 0x09 2 [3] (transferRun .write rd)

/-- READ (R317). -/
def Machine.execRead (q : Nat) (i : BitVec 32) (s : State) : Answer := stationRun s q i 0x09 3 [3] (transferRun .read {})

/-- FABRIC (R261, R317). -/
def Machine.execFabric (q : Nat) (i : BitVec 32) (rd : HostRead) (s : State) : Answer :=
  stationRun s q i 0x09 4 [3] fun d s => if bit (d.w 2) 63 then fabricLocal rd d s else transferRun .fabric rd d s

/-! ### Queue pairs -/

/-- The service of a code (R296). -/
def serviceOf (c : Nat) : Option Service :=
  match c with
  | 1 => some .ordered
  | 2 => some .tagged
  | 3 => some .fabric
  | 4 => some .roceOrdered
  | 5 => some .roceFabric
  | _ => none

/-- Extents that a queue pair may grant: the partition's own, none of the page store (R80, R298). -/
def grantable (s : State) (p first last : Nat) : Bool :=
  decide (first ≤ last) && (List.range (last + 1 - first)).all fun k => match ownExt s p (first + k) with
    | some e => (match (getExt s e).use with
      | .page _ => false
      | .control => false
      | _ => true)
    | none => false

/-- The queue pair that a QP_SETUP describes (R298); none when a rule of its table is broken. -/
def setupQp (s : State) (p : Nat) (d : Desc) : Option Qp :=
  let (w2, w3, w4, w7) := (d.w 2, d.w 3, d.w 4, d.w 7)
  let pmtu := fld w2 32 30
  let lanes := fld w3 39 32
  let retry := fld w3 63 48
  let grants := bit w2 35 || bit w2 34
  match serviceOf (fld w2 29 27), lookup? s.belfry.handles (fld w4 63 32) with
  | some v, some h =>
    let masks := if v.roce then [maskOf 35 27 ||| maskOf 19 0, maskOf 63 42 ||| maskOf 39 24 ||| maskOf 19 0, maskOf 63 32 ||| maskOf 26 16 ||| maskOf 10 0, allBits, allBits, maskOf 47 0]
      else [maskOf 63 48 ||| maskOf 35 27 ||| maskOf 19 0, maskOf 63 42 ||| maskOf 39 24 ||| maskOf 19 0, maskOf 63 32 ||| maskOf 26 16 ||| maskOf 10 0]
    if !bodyOk d.cur masks ∨ pmtu = 0 ∨ pmtu > (if v.roce then 3 else 4) ∨ (1 ≤ retry ∧ retry ≤ 3) ∨ fld w3 47 45 = 0 ∨ lanes = 0 ∨ lanes ≥ 2 ^ planeCount s
        ∨ (v.roce ∧ lanes ≠ 1) ∨ h.part ≠ p ∨ (grants ∧ !grantable s p (fld w4 10 0) (fld w4 26 16)) then none
    else
      let (sq, rq) := if v.roce then (fld w7 23 0, fld w7 47 24) else (0, 0)
      let lane : Lane := { tx := { next := sq }, rx := { expected := rq } }
      some { part := p, service := v, peer := fld w2 63 48, peerQpn := fld w3 19 0, pmtu := 512 * 2 ^ pmtu, lanesUsed := lanes, resident := bit w2 33
             lastUse := s.time, retryUs := if retry = 0 then 16 else retry, retryCount := fld w3 47 45, rnrCount := fld w3 44 42
             rnrHint := if fld w3 31 24 = 0 then 10 else fld w3 31 24, allowRead := bit w2 35, allowWrite := bit w2 34, firstExtent := fld w4 10 0
             lastExtent := fld w4 26 16, peerAddr := if v.roce then (d.w 5).toNat * 2 ^ 64 + (d.w 6).toNat else 0, sqPsn := sq, rqPsn := rq
             epoch := h.epoch, handle := fld w4 63 32, secret := h.secret, lanes := List.replicate 8 lane }
  | _, _ => none

/-- Ends an operation on a queue pair (R69, R71): its change takes effect when it is done, and an ABORT then finds its latch taken; a step of a program stages the
change for the commit. -/
def qpDone (s : State) (d : Desc) (op : QpOp) (r0 : Option Nat := none) (r1 : Option Nat := none) : State :=
  let d := d.finish stDone 0 r0 r1
  if d.prog.isSome then putDesc s { d with effects := d.effects ++ [.queuePair op] }
  else changeQp (putDesc s { d with latched := true }) op

/-- Whether a program has staged the set-up of a queue pair. -/
def Desc.setsUp (d : Desc) (n : Nat) : Bool :=
  d.effects.any fun e => match e with
    | .queuePair (.setup m _) => m == n
    | _ => false

/-- QP_SETUP (R298, R301, R302, R413, R459, R462): it waits while Belfry, which loads its keys, is away. One whose number a program in flight is setting up waits for that program's end. -/
def qpSetupRun (d : Desc) (s : State) : State :=
  let n := fld (d.w 2) 19 0
  match d.owner with
  | .fm => endDesc s d (stNotOwner, 1)
  | .part p =>
    if d.len ≠ 0 then endDesc s d (stMalformed, 3)
    else if !ownsQpn s d.owner n then endDesc s d (stNotOwner, 1)
    else if procAway s 0 || s.flight.any fun x => !(x.ctx == d.ctx && x.index == d.index) && x.setsUp n then s
    else match (if (getQp s n).isSome ∨ d.setsUp n then none else setupQp s p d) with
    | none => endDesc s d (stMalformed, 1)
    | some q =>
      if belfryFenced s then noKeys s d
      else
      let fixed := q.resident || spillKind s d.owner == 0
      if fixed ∧ !mayFix s d.owner then endDesc s d (stExhausted, 6)
      else match takeContext s d.owner true n with
      | none => if spillKind s d.owner = 0 then endDesc s d (stExhausted, 6) else s
      | some (c, s) =>
        let (v, s) := if q.service.roce then draw s else (0, s)
        let q := { q with ctx := some c, rkey := v % 2 ^ 32 }
        qpDone s d (.setup n q) (some n) (if q.service.roce then some (v % 2 ^ 32) else none)

def Machine.execQpSetup (q : Nat) (i : BitVec 32) (s : State) : Answer := stationRun s q i 0x09 0x10 [] qpSetupRun

/-- The queue pair that a QP_MODIFY, QP_DESTROY or QP_QUERY names, its form judged. -/
def qpNamed (s : State) (d : Desc) (masks : List Word) (k : Nat → Qp → State → State) : State :=
  let n := fld (d.w 2) 19 0
  if !bodyOk d.cur masks then endDesc s d (stMalformed, 1)
  else if d.len ≠ 0 then endDesc s d (stMalformed, 3)
  else match ownQp s d.owner n with
  | none => endDesc s d (stNotOwner, 1)
  | some q => k n q s

/-- Runs a QP_MODIFY of one ACTION. -/
def qpModify (s : State) (q : Nat) (i : BitVec 32) (action : Nat) (masks : List Word) (k : Desc → Nat → Qp → State → State) : Answer :=
  match stationDesc s q i 0x09 0x11 with
  | some d => if fld (d.w 2) 23 20 = action then .next (qpNamed s d (maskOf 23 0 :: masks) (k d)) else .next s
  | none => .next s

/-- QP_MODIFY ERROR (R299, R300). -/
def Machine.execQpModifyError (q : Nat) (i : BitVec 32) (s : State) : Answer :=
  qpModify s q i 1 [] fun d n _ s => qpDone s d (.error n)

/-- QP_MODIFY DRAIN (R299, R300). -/
def Machine.execQpModifyDrain (q : Nat) (i : BitVec 32) (s : State) : Answer :=
  qpModify s q i 2 [] fun d n _ s => qpDone s d (.drain n)

/-- QP_MODIFY RESET (R299, R300): from ERROR only; of any other state the spec gives no DETAIL. -/
def Machine.execQpModifyReset (q : Nat) (i : BitVec 32) (s : State) : Answer :=
  qpModify s q i 3 [] fun d n x s =>
    if x.state = .error then qpDone s d (.reset n)
    else
      let (v, s) := draw s
      endDesc s d (stMalformed, v % 2 ^ 15)

/-- QP_MODIFY REKEY (R322, R459, R462): the sender uses the new epoch at once; the old key stays for 2 ms. -/
def Machine.execQpModifyRekey (q : Nat) (i : BitVec 32) (t : Nat) (s : State) : Answer :=
  qpModify (atTime s t) q i 4 [0#64, maskOf 63 32] fun d n x s =>
    if procAway s 0 then s
    else match lookup? s.belfry.handles (fld (d.w 4) 63 32) with
    | some h =>
      if h.part ≠ x.part then endDesc s d (stMalformed, 1)
      else if belfryFenced s then noKeys s d
      else qpDone s d (.rekey n h.epoch h.secret (fld (d.w 4) 63 32))
    | none => endDesc s d (stMalformed, 1)

/-- Whether a lane closed by its sender has packets that are still to be moved to the others (R307). -/
def Lane.moving (l : Lane) : Bool := l.closedTx && (l.sync.isSome || !l.tx.unacked.isEmpty || !l.txResp.unacked.isEmpty)

/-- QP_MODIFY LANES (R299): a lane that was closed and is named starts again at 0, once its packets have moved. -/
def Machine.execQpModifyLanes (q : Nat) (i : BitVec 32) (s : State) : Answer :=
  qpModify s q i 5 [maskOf 39 32] fun d n x s =>
    let lanes := fld (d.w 3) 39 32
    if lanes = 0 ∨ lanes ≥ 2 ^ planeCount s ∨ (x.service.roce ∧ lanes ≠ 1) then endDesc s d (stMalformed, 1)
    else if (List.range 8).any fun k => (lanes >>> k) % 2 == 1 && (x.lane k).moving then s
    else qpDone s d (.lanes n lanes)

/-- QP_DESTROY (R300). -/
def Machine.execQpDestroy (q : Nat) (i : BitVec 32) (s : State) : Answer :=
  stationRun s q i 0x09 0x12 [] fun d s => qpNamed s d [maskOf 19 0] fun n _ s => qpDone s d (.destroy n)

/-- QP_QUERY (R299, R300). -/
def Machine.execQpQuery (q : Nat) (i : BitVec 32) (s : State) : Answer :=
  stationRun s q i 0x09 0x13 [] fun d s => qpNamed s d [maskOf 19 0] fun _ x s =>
    let st := match x.state with
      | .ready => 1
      | .draining => 2
      | .error => 3
    let lanes := ((List.range 8).map fun k => if (x.lanesUsed >>> k) % 2 = 1 ∧ !(x.lane k).closedTx ∧ !(x.lane k).closedRx then 2 ^ k else 0).sum
    putDesc s (d.finish stDone 0 (some (st + 256 * lanes)) (some (satField 32 x.retransmissions * 2 ^ 32 + satField 32 x.authFails)))

/-! ### Receives -/

/-- Bytes of unexpected messages and of held records in a partition's staging share (R314, R467). -/
def poolBytes (s : State) (p : Nat) : Nat :=
  ((s.net.qps.filter fun e => e.2.part == p).map fun e => (e.2.rxMsgs.map fun m => (m.held.map fun h => h.2.length).sum).sum).sum + heldBytes s (ownerOf p)

/-- Whether a message has been judged: matched, unexpected, failed or bound to fail, complete, or one that takes no RECV (R313, R315). -/
def RxMsg.decided (m : RxMsg) : Bool := m.matched.isSome || m.unexpected || m.failed || m.aborted || m.complete || m.kind != .send

/-- RECVs posted that no message has matched. -/
def Qp.unmatched (q : Qp) : List Posted := q.posted.filter fun x => !(q.rxMsgs.any fun m => m.matched == some (x.ctx, x.index) && !m.failed)

/-- The place of the RECV that message n of an ordered queue pair matches (R313, R315): the n-th posted since set-up or the last RESET, one earlier for each message before
n that failed as too long and left its RECV for the next. MSG_NUM counts every message of the direction (R311), so the number of a WRITE or a READ stands for a RECV too. -/
def Qp.recvSeq (q : Qp) (n : Nat) : Nat := sub32 n ((q.slipBase + (q.slips.filter fun x => decide (sub32 n x < 2 ^ 31)).length) % 2 ^ 32)

/-- The RECV at a place of an ordered queue pair, or, when a message behind a failed one has it, the next that no message has (R313, R315). -/
def Qp.recvFor (q : Qp) (n : Nat) : Option Posted := q.unmatched.find? fun x => decide (sub32 x.seq (q.recvSeq n) < 2 ^ 31)

/-- A message of an ordered queue pair has failed as too long (R315); of those more than 64 numbers back only how many they were is kept (R311). -/
def Qp.slip (q : Qp) (n : Nat) : Qp :=
  let old := q.slips.filter fun x => decide (64 ≤ sub32 n x ∧ sub32 n x < 2 ^ 31)
  { q with slips := (q.slips.filter fun x => !old.contains x) ++ [n], slipBase := q.slipBase + old.length }

/-- The messages before message n of a tagged queue pair, modulo 2^32, that have still to be judged (R311, R313); one not seen is one of them. Numbers below 0 stand for
messages only once the numbers have wrapped. -/
def Qp.before (q : Qp) (n : Nat) : Nat :=
  ((List.range 63).filter fun j =>
    let x := sub32 n (j + 1)
    match q.rxMsgs.find? fun m => m.num == x with
    | some m => !m.decided
    | none => (decide (x < n) || q.rxMsgs.any fun m => decide (2 ^ 31 ≤ m.num)) && !(q.rxMsgs.any fun m => decide (64 ≤ sub32 m.num x ∧ sub32 m.num x < 2 ^ 31))).length

/-- Offsets within a place. -/
def Loc.plus (l : Loc) (n : Nat) : Loc :=
  match l with
  | .host a => .host (a + n)
  | .hbm e off => .hbm e (off + n)
  | .staging o off => .staging o (off + n)

/-- Writes received bytes at an offset of the buffer that a descriptor names in a word (R310); one that may not be written any more is not (R80, R400). -/
def placeBytes (s : State) (d : Desc) (k off : Nat) (bs : List Byte) : Except (Nat × Nat) State :=
  match locate s d.owner (d.w k) 0 true with
  | .error e => .error e
  | .ok loc => match writable s loc with
    | some e => .error e
    | none => .ok (writeLoc s d k (loc.plus off) bs)

/-- Puts pieces of a message of so many bytes in a buffer, behind those that are held: as they come, or, in a bounce buffer, all at once when the message is whole
(R310, R430). Answers what is still held. -/
def placePieces (s : State) (d : Desc) (k len : Nat) (whole : Bool) (held new : List (Nat × List Byte)) : Except (Nat × Nat) (State × List (Nat × List Byte)) :=
  if bounced s d.owner then
    if whole then (placeBytes s d k 0 ((held ++ new).foldl (fun b h => overlay b h.1 h.2) (List.replicate len 0#8))).map fun s => (s, [])
    else .ok (s, held ++ new)
  else (new.foldlM (fun s h => placeBytes s d k h.1 h.2) s).map fun s => (s, [])

/-- Ends the RECV of a complete message (R310, R318). -/
def recvDone (s : State) (n : Nat) (m : RxMsg) : State :=
  match m.matched.bind fun x => findDesc s x.1 x.2 with
  | none => s
  | some d =>
    let s := modQp s n fun q => { q with posted := q.posted.filter fun x => !(x.ctx == d.ctx && x.index == d.index) }
    endNow s d stDone 0 (some m.placed) (some (m.num * 2 ^ 32 + m.tag))

/-- Ends the RECV of a message whose buffer may not be written any more, with that status; the message fails (R80, R400). -/
def recvRefused (s : State) (n : Nat) (m : RxMsg) (d : Desc) (e : Nat × Nat) : State :=
  endNow (modQp s n fun q => { q with
    posted := q.posted.filter fun x => !(x.ctx == d.ctx && x.index == d.index)
    rxMsgs := q.rxMsgs.map fun y => if y.num = m.num then { m with aborted := true, unexpected := false, held := [] } else y }) d e.1 e.2

/-- Gives a message to a RECV (R313 to R315): what the pool holds of it is copied, and a complete message commits its RECV. One that is longer than the buffer fails and
leaves the RECV posted. -/
def matchTo (s : State) (n : Nat) (m : RxMsg) (x : Posted) : State :=
  let set := fun (s : State) (m : RxMsg) => modQp s n fun q => { q with rxMsgs := q.rxMsgs.map fun y => if y.num = m.num then m else y }
  if m.len > x.capacity then set s { m with aborted := true, unexpected := false, held := [], failed := m.placed == m.len }
  else match findDesc s x.ctx x.index with
  | none => s
  | some d =>
    let whole := decide (m.placed = m.len)
    match placePieces s d 3 m.len whole [] m.held with
    | .error e => recvRefused s n m d e
    | .ok (s, held) =>
      let m := { m with matched := some (x.ctx, x.index), unexpected := false, held := held, complete := whole }
      let s := set s m
      if whole then recvDone s n m else s

/-- POST (R313, R314, R318): the buffer joins the queue pair's receives; on a tagged one it searches the unexpected messages first. -/
def postRun (d : Desc) (s : State) : State :=
  let n := fld (d.w 2) 19 0
  let cap := fld (d.w 4) 31 0
  if !bodyOk d.cur [maskOf 19 0, allBits, maskOf 31 0, allBits] ∨ cap = 0 ∨ cap > 268435456 then endDesc s d (stMalformed, 1)
  else if d.len ≠ 0 then endDesc s d (stMalformed, 3)
  else match ownQp s d.owner n with
  | none => endDesc s d (stNotOwner, 1)
  | some q =>
    if q.service.toFabric ∨ (d.w 5 ≠ 0#64 ∧ q.service ≠ .tagged) then endDesc s d (stMalformed, 4)
    else if q.state = .error then endDesc s d (stFlushed, 2)
    else if q.ctx.isNone then wantContext s n
    else match locate s d.owner (d.w 3) (occupied s d.owner (d.w 3) cap) true with
    | .error e => endDesc s d e
    | .ok loc =>
      match writable s loc with
      | some e => endDesc s d e
      | none =>
        let x : Posted := { ctx := d.ctx, index := d.index, buffer := d.w 3, capacity := cap, tag := fld (d.w 5) 63 32, mask := fld (d.w 5) 31 0, seq := q.postedCount }
        let s := modQp (putDesc s { d with phase := .running }) n fun q => { q with posted := q.posted ++ [x], postedCount := (q.postedCount + 1) % 2 ^ 32, lastUse := s.time }
        let fits := fun (m : RxMsg) => m.unexpected && !m.failed && ((m.tag ^^^ x.tag) &&& x.mask) == 0
        let found := q.rxMsgs.filter fits
        -- the unexpected messages stand in the order in which they became so; one that is too long fails, and the search goes on (R314, R315)
        let s := (found.takeWhile fun m => decide (m.len > cap)).foldl (fun s m => matchTo s n m x) s
        match found.find? fun m => decide (m.len ≤ cap) with
        | some m => matchTo s n m x
        | none => s

/-- POST (R318). -/
def Machine.execPost (q : Nat) (i : BitVec 32) (s : State) : Answer := stationRun s q i 0x0A 1 [3] postRun

/-! ### The start of a message -/

/-- MESSAGE_START (R304, R307, R311): the oldest message that has not begun starts once the message 64 before it has committed. Lanes without a path close first. -/
def Machine.execMessageStart (qpn : Nat) (t : Nat) (s : State) : Answer :=
  match getQp s qpn with
  | none => .next s
  | some q =>
    let far := (s.flight.any fun d => d.owner == ownerOf q.part && d.opcode == 0x09 && fld (d.w 2) 19 0 == qpn && (d.msg.map fun k => decide (sub32 q.nextMsg k ≥ 64)) == some true)
      || q.txMsgs.any fun m => m.started && decide (sub32 q.nextMsg m.num ≥ 64)
    if q.state = .error ∨ q.ctx.isNone ∨ far then .next s
    else match q.txMsgs.find? fun m => !m.started with
    | none => .next s
    | some m =>
      let s := atTime s t
      let s := (q.openLanes.filter fun k => !pathOf s q k).foldl (fun s k => closeLane s qpn k) s
      match getQp s qpn with
      | none => .next s
      | some q =>
        if q.state = .error then .next (settleDrains s)
        else
          let m' := { m with started := true, num := q.nextMsg }
          let s := match m.origin.bind fun x => findDesc s x.1 x.2 with
            | some d => putDesc s { d with msg := some q.nextMsg }
            | none => s
          let s := modQp s qpn fun q =>
            let rest := q.txMsgs.erase m
            { q with nextMsg := (q.nextMsg + 1) % 2 ^ 32, lastUse := s.time, txMsgs := rest.filter (·.started) ++ [m'] ++ rest.filter (fun x => !x.started) }
          .next (pumpQp s qpn)

end Sys2Proof
end

