-- ==== Sys2Proof/Machine/Receive.lean ====
section
/-!
DEFINITION. What a queue pair does with the packets that reach it (R290, R301 to R316, R320 to R325): admission, the sequence of a lane, placement, acknowledgements, NAKs, lanes
that close, timers, spilled contexts and RoCEv2.
-/
namespace Sys2Proof

open Machine (State Fault Refusal)

/-! ### Admission (R290, R303, R320, R440) -/

/-- Counts a discard of R290 by cause: 0 checksum, 1 version or type, 2 reserved, 3 endpoint, 4 queue pair, 5 authentication. -/
def discard (s : State) (cause : Nat) (p : Option Nat) : State :=
  let s := { s with net := { s.net with discards := s.net.discards.modify cause fun v => v + 1 } }
  match p with
  | some p => if cause = 5 then count s (ownerOf p) 11 1 else count s (ownerOf p) 10 1
  | none => s

def PktType.legal : PktType → Bool
  | .illegal _ => false
  | _ => true

/-- Whether the key that KEY_EPOCH selects opens a packet (R320, R322). -/
def keyOk (s : State) (q : Qp) (k : Packet) : Bool :=
  k.authentic && !q.keysDead && (k.keyEpoch == q.epoch % 256 || match q.oldEpoch with
    | some (e, t) => k.keyEpoch == e % 256 && decide (s.time < t)
    | none => false)

/-- What R290 lets through: the queue pair, or the state with the discard counted. -/
def admission (s : State) (k : Packet) : Except State (Nat × Qp) :=
  if !k.udpOk then .error (discard s 0 none)
  else if k.version ≠ 1 ∨ !k.typ.legal then .error (discard s 1 none)
  else if k.reserved then .error (discard s 2 none)
  else if k.dst / 16 ≠ s.ports.nodeId then .error (discard s 3 none)
  else
    let p := k.dst % 16
    if (getPart s p).state = .absent ∨ (getPart s p).state = .scrubbing then .error (countNode (discard s 3 none) 0)
    else match getQp s k.qpn with
    | none => .error (discard s 4 (some p))
    | some q => if q.part ≠ p ∨ q.service.roce then .error (discard s 4 (some p)) else .ok (k.qpn, q)

/-- Kinds of RoCEv2 packet that are requests: sends, writes and reads (R291, R323). -/
def RoceKind.request : RoceKind → Bool
  | .send _ _ => true
  | .write _ _ => true
  | .readReq => true
  | _ => false

/-- The lane, space and PSN to answer with RNR when a packet is discarded for want of a place (R303): those of a sequenced one. -/
def Arrived.wantsNak : Arrived → Option (Nat × Nat × Nat)
  | .evomer k => if k.typ.sequenced then some (k.lane, k.space, k.psn) else none
  | .roce k => if k.kind.request then some (0, 0, k.psn) else none

/-- Holds a packet for a spilled context in the partition's places of the miss buffer, or discards it and owes an RNR NAK (R303). -/
def missPacket (s : State) (n : Nat) (q : Qp) (k : Arrived) : State :=
  let s := wantContext s n
  if (s.net.miss.filter fun m => ((getQp s m.1).map (·.part)) == some q.part).length < 16 then
    { s with net := { s.net with miss := s.net.miss ++ [(n, k)] } }
  else
    let s := count s (ownerOf q.part) 12 1
    match k.wantsNak with
    | some x => { s with net := { s.net with fetching := adjust s.net.fetching n fun l => l ++ [x] } }
    | none => s

/-! ### Placement (R289, R310 to R316) -/

/-- What placing a packet came to (R306). -/
inductive Placed where
  | ok | noReceive | access | operation | invalid
deriving DecidableEq, Repr

/-- Sets a message of a queue pair at the receiver; messages more than 64 numbers back are forgotten, but for those that wait in the pool for a RECV (R311, R314). -/
def putRx (s : State) (n : Nat) (m : RxMsg) : State :=
  modQp s n fun q =>
    if q.rxMsgs.any fun x => x.num == m.num then { q with rxMsgs := q.rxMsgs.map fun x => if x.num = m.num then m else x }
    else { q with rxMsgs := (q.rxMsgs.filter fun x => decide (x.unexpected ∨ sub32 m.num x.num < 64 ∨ sub32 m.num x.num ≥ 2 ^ 31)) ++ [m] }

/-- A message becomes unexpected, behind those that already are (R314). -/
def putUnexpected (s : State) (n : Nat) (m : RxMsg) : State :=
  modQp s n fun q => { q with rxMsgs := (q.rxMsgs.filter fun x => x.num != m.num) ++ [{ m with unexpected := true }] }

/-- Judges the messages of a tagged queue pair whose turn has come (R313), in MSG_NUM order. -/
def judgeTagged (s : State) (n : Nat) : Nat → State
  | 0 => s
  | fuel + 1 =>
    match getQp s n with
    | none => s
    | some q =>
      match q.rxMsgs.find? fun m => !m.decided && q.before m.num == 0 with
      | none => s
      | some m =>
        let s := match q.unmatched.find? fun x => ((m.tag ^^^ x.tag) &&& x.mask) == 0 with
          | some x => matchTo s n m x
          | none => putUnexpected s n m
        judgeTagged s n fuel

/-- Puts a SEND packet's bytes where its message has them (R310, R314). -/
def placeSend (s : State) (n : Nat) (m : RxMsg) (off : Nat) (bs : List Byte) : State × Placed :=
  let placed := m.placed + bs.length
  match m.matched with
  | some x =>
    match findDesc s x.1 x.2 with
    | none => (putRx s n { m with failed := true }, .operation)
    | some d =>
      let whole := decide (placed = m.len)
      match placePieces s d 3 m.len whole m.held [(off, bs)] with
      | .error e => (putRx (recvRefused s n m d e) n { m with failed := true, held := [] }, .operation)
      | .ok (s, held) =>
        let m := { m with placed := placed, held := held, complete := whole }
        let s := putRx s n m
        (if whole then recvDone s n m else s, .ok)
  | none => (putRx s n { m with placed := placed, held := m.held ++ [(off, bs)] }, .ok)

/-- Places a SEND packet (R310, R313 to R316). -/
def receiveSend (s : State) (n : Nat) (q : Qp) (k : Packet) : State × Placed :=
  let m := (q.rxMsgs.find? fun x => x.num == k.msgNum).getD { num := k.msgNum, kind := .send, len := k.msgLen, tag := k.tag }
  if m.aborted ∧ !m.failed then (putRx s n { m with failed := true }, .operation)
  else if m.failed ∨ m.complete then (s, .ok)
  else if k.offset + k.payload.length > m.len ∨ m.kind ≠ .send then (putRx s n { m with failed := true }, .invalid)
  else match q.service with
  | .fabric =>
    if m.len > 65568 then (putRx s n { m with failed := true }, .operation)
    else if m.len < 32 then (putRx s n { m with failed := true }, .invalid)
    else
      let held := m.held ++ [(k.offset, k.payload)]
      let placed := m.placed + k.payload.length
      if placed = m.len then
        let bs := held.foldl (fun b h => overlay b h.1 h.2) (List.replicate m.len 0#8)
        (fabDeliver (putRx s n { m with placed := placed, held := [], complete := true }) q.part (parseFab bs n none), .ok)
      else (putRx s n { m with placed := placed, held := held }, .ok)
  | .ordered =>
    match m.matched with
    | some _ => placeSend s n m k.offset k.payload
    | none =>
      -- its RECV was aborted before it came (R316)
      if q.withdrawn.contains (q.recvSeq m.num) then (putRx s n { m with failed := true }, .operation)
      else match q.recvFor m.num with
      | none => (s, .noReceive)
      | some x =>
        if m.len > x.capacity then (modQp (putRx s n { m with failed := true }) n fun q => q.slip m.num, .operation)
        else placeSend s n { m with matched := some (x.ctx, x.index) } k.offset k.payload
  | _ =>
    -- a packet of a message that is not matched takes room in the partition's pool
    let s := judgeTagged (putRx s n m) n 65
    match ((getQp s n).bind fun q => q.rxMsgs.find? fun x => x.num == k.msgNum) with
    | none => (s, .ok)
    | some m =>
      if m.aborted ∧ !m.failed then (putRx s n { m with failed := true }, .operation)
      else if m.matched.isNone ∧ poolBytes s q.part + k.payload.length > stagingBytes s (ownerOf q.part) then (s, .noReceive)
      else placeSend s n m k.offset k.payload

/-- The extent and offset that a peer names within the grants of a queue pair (R289, R298). -/
def granted (s : State) (q : Qp) (w : Word) (off len : Nat) (write : Bool) : Option (Nat × Nat) :=
  let k := fld w 58 48
  let a := fld w 27 0 + off
  if fld w 63 60 ≠ 1 ∨ bit w 59 ∨ fld w 47 28 ≠ 0 ∨ !(if write then q.allowWrite else q.allowRead) ∨ k < q.firstExtent ∨ k > q.lastExtent then none
  else (ownExt s q.part k).bind fun e =>
    let x := getExt s e
    let store := match x.use with
      | .page _ => true
      | .control => true
      | _ => false
    if store || decide (a + len > extBytes x) || (write && (writable s (.hbm e a)).isSome) then none else some (e, a)

/-- Places a WRITE packet (R289, R310). -/
def receiveWrite (s : State) (n : Nat) (q : Qp) (k : Packet) : State × Placed :=
  let m := (q.rxMsgs.find? fun x => x.num == k.msgNum).getD { num := k.msgNum, kind := .write, len := k.msgLen }
  if m.failed ∨ m.complete then (s, .ok)
  else if k.offset + k.payload.length > m.len ∨ m.kind ≠ .write then (putRx s n { m with failed := true }, .invalid)
  else match granted s q k.ext k.offset k.payload.length true with
  | none => (putRx s n { m with failed := true }, .access)
  | some (e, a) =>
    let placed := m.placed + k.payload.length
    (putRx (writeHbm s e a k.payload) n { m with placed := placed, complete := placed == m.len }, .ok)

/-- Answers a READ_REQ (R289, R304). Poison never leaves through the network (R511); which syndrome then answers the spec does not say. -/
def receiveReadReq (s : State) (n : Nat) (q : Qp) (k : Packet) : State × Placed :=
  let m : RxMsg := { num := k.msgNum, kind := .readReq, len := k.msgLen, complete := true }
  match granted s q k.ext 0 k.msgLen false with
  | none => (putRx s n { m with failed := true }, .access)
  | some (e, a) =>
    match regionReads s e a k.msgLen with
    | .refused => (putRx s n { m with failed := true }, .access)
    | r =>
      if hbmPoisoned s e a k.msgLen then
        let (v, s) := draw s
        (putRx s n { m with failed := true }, if v % 3 = 0 then .access else if v % 3 = 1 then .operation else .invalid)
      else if r = .waits then (modQp (putRx s n m) n fun q => { q with responses := q.responses ++
          [{ num := k.msgNum, lane := k.lane, data := [], wait := some ([(e, a, k.msgLen)], k.psn), step := true }] }, .ok)
      else
        let s := modQp (putRx s n m) n fun q => { q with responses := q.responses ++
          [{ num := k.msgNum, lane := k.lane, data := Memory.readBytes s.hbm (hbmAddr e a) k.msgLen, step := (getExt s e).holdsSteps }] }
        (pumpResponses s n, .ok)

/-- Ends the SEND behind a message with the status of R319. -/
def sendDone (s : State) (n : Nat) (m : TxMsg) (st det : Nat) : State :=
  let s := modQp s n fun q => { (if st = stDone then q else q.giveUp m.num) with txMsgs := q.txMsgs.filter fun x => !(x.started && x.num == m.num) }
  match m.origin.bind fun x => findDesc s x.1 x.2 with
  | none => s
  | some d =>
    if st = stDone then
      -- a FABRIC that waits for its reply commits with it (R317)
      if d.subop = 4 ∧ bit (d.w 2) 62 then s
      else
        let (st, det) := if m.degraded then (stDegraded, 1) else (stDone, 0)
        endNow s d st det (some m.len) (some m.num)
    else endNow s d st det

/-- Places READ response bytes in the READ's local destination (R310); the READ commits when all are there (R312). -/
def receiveResp (s : State) (n : Nat) (num off : Nat) (bs : List Byte) : State :=
  match (getQp s n).bind fun q => q.txMsgs.find? fun m => m.started && m.kind == .read && m.num == num with
  | none => s
  | some m =>
    match m.origin.bind fun x => findDesc s x.1 x.2 with
    | none => s
    | some d =>
      let fit := slice bs 0 (min bs.length (m.len - off))
      let placed := m.placed + fit.length
      let data := if m.data.isEmpty then List.replicate m.len 0#8 else m.data
      let m := { m with placed := placed, data := if bounced s d.owner then overlay data off fit else [] }
      match (if bounced s d.owner then (if placed ≥ m.len then placeBytes s d 3 0 m.data else .ok s) else placeBytes s d 3 off fit) with
      | .error e => sendDone s n m e.1 e.2
      | .ok s =>
        let s := modQp s n fun q => { q with txMsgs := q.txMsgs.map fun x => if x.started && x.num == num then m else x }
        if placed ≥ m.len then sendDone s n m stDone 0 else s

/-- Acts on a CANCEL (R316). Of a message that no packet has come of, an ordered queue pair knows the RECV all the same (R313). -/
def receiveCancel (s : State) (n : Nat) (q : Qp) (num : Nat) : State :=
  match q.rxMsgs.find? fun m => m.num == num with
  | none =>
    let s := putRx s n { num := num, kind := .send, len := 0, failed := true }
    match ((if q.service = .ordered then q.recvFor num else none).filter fun x => x.seq == q.recvSeq num).bind fun x => findDesc s x.ctx x.index with
    | some d => endNow (modQp s n fun q => { q with posted := q.posted.filter fun x => !(x.ctx == d.ctx && x.index == d.index) }) d stAborted 2
    | none => s
  | some m =>
    if m.complete ∨ m.failed then s
    else
      let s := putRx s n { m with failed := true, unexpected := false, held := [] }
      match m.matched.bind fun x => findDesc s x.1 x.2 with
      | some d => endNow (modQp s n fun q => { q with posted := q.posted.filter fun x => !(x.ctx == d.ctx && x.index == d.index) }) d stAborted 2
      | none => s

/-- Places a sequenced packet (R306, R310). -/
def place (s : State) (n : Nat) (q : Qp) (k : Packet) : State × Placed :=
  match k.typ with
  | .send => receiveSend s n q k
  | .write => receiveWrite s n q k
  | .readReq => receiveReadReq s n q k
  | .readResp => (receiveResp s n k.msgNum k.offset k.payload, .ok)
  | .cancel => (receiveCancel s n q k.msgNum, .ok)
  | _ => (s, .ok)

/-! ### The sequence of a lane (R305, R306) -/

/-- Sends the cumulative ACK of a lane and space (R305). -/
def sendAck (s : State) (n lane space : Nat) : State :=
  match getQp s n with
  | none => s
  | some q =>
    let s := modQp s n fun q => q.modLane lane fun l => l.modRx space fun x => { x with owed := 0, ackTimer := none }
    sendCtl s n .ack lane space (((q.lane lane).rxOf space).expected + 2 ^ 24 - 1)

/-- An authenticated sequenced packet, per lane and space (R306). -/
def receiveSequenced (s : State) (n : Nat) (q : Qp) (k : Packet) : State :=
  let ln := q.lane k.lane
  let x := ln.rxOf k.space
  let drop := fun (s : State) => modQp s n fun q => { q with discarded := q.discarded + 1 }
  if ln.closedRx then drop s
  else
    let d := (k.psn + 2 ^ 24 - x.expected) % 2 ^ 24
    if d = 0 then
      if k.nonce ≤ x.lastNonce then drop s
      else
        let (s, r) := place s n q k
        if r = .noReceive then sendNak s n k.lane k.space (x.expected + 2 ^ 24 - 1) 2 q.rnrHint
        else
          let s := if r = .ok then s else sendNak s n k.lane k.space x.expected (if r = .access then 3 else if r = .operation then 4 else 5)
          let s := modQp s n fun q => q.modLane k.lane fun l => l.modRx k.space fun y =>
            { y with expected := (y.expected + 1) % 2 ^ 24, lastNonce := k.nonce, nakSent := false, owed := y.owed + 1, ackTimer := some (y.ackTimer.getD (s.time + 1000)) }
          let s := judgeTagged s n 65
          if k.ackReq ∨ x.owed + 1 ≥ 16 then sendAck s n k.lane k.space else s
    else if d < 2 ^ 23 then
      let s := drop s
      if x.nakSent then s
      else sendNak (modQp s n fun q => q.modLane k.lane fun l => l.modRx k.space fun y => { y with nakSent := true }) n k.lane k.space (x.expected + 2 ^ 24 - 1) 1
    else sendAck (drop s) n k.lane k.space

/-! ### Acknowledgements at the sender (R304, R305, R307 to R309) -/

/-- Packets of a lane and space up to a PSN are acknowledged; progress starts the timer's count of expiries afresh. -/
def ackUpTo (s : State) (n lane space psn : Nat) : State :=
  modQp s n fun q => q.modLane lane fun l => l.modTx space fun x =>
    let rest := x.unacked.filter fun u => decide ((u.psn + 2 ^ 24 - psn - 1) % 2 ^ 24 < 2 ^ 23)
    if rest.length < x.unacked.length then { x with unacked := rest, expiries := 0 } else x

/-- Commits the SENDs all of whose packets are acknowledged (R312), and puts what now fits on the lanes. -/
def settleSends (s : State) (n : Nat) : State :=
  match getQp s n with
  | none => s
  | some q =>
    let open_ := fun (m : TxMsg) => q.lanes.any fun l => l.tx.unacked.any fun u => u.pkt.msgNum == m.num
    let s := (q.txMsgs.filter fun m => m.started && m.allSent && m.kind != .read && !open_ m).foldl (fun s m => sendDone s n m stDone 0) s
    settleDrains (pumpResponses (pumpQp s n) n)

/-- A packet as it is sent again, with ACK_REQ (R305, R307). The place of one whose message its sender has given up is taken by the CANCEL of that message, so that
nothing more of it is sent and the lane's sequence goes on (R309, R316). -/
def Unacked.again (u : Unacked) : Packet :=
  if u.dead then { typ := .cancel, lane := u.pkt.lane, src := 0, dst := 0, psn := u.pkt.psn, qpn := 0, ackReq := true, msgNum := u.pkt.msgNum }
  else { u.pkt with ackReq := true }

/-- Sends every unacknowledged packet of a lane and space again, oldest first, with new NONCEs (R305, R307). On RoCEv2, which has no CANCEL, nothing stands in for the
packets of a message given up. -/
def goBack (s : State) (n lane space : Nat) : State :=
  match getQp s n with
  | none => s
  | some q =>
    let us := ((q.lane lane).txOf space).unacked.map fun u => { u with pkt := u.again, sentAt := s.time }
    let s := modQp s n fun q => { (q.modLane lane fun l => l.modTx space fun x => { x with unacked := us, rnrWait := none }) with
      retransmissions := q.retransmissions + us.length }
    us.foldl (fun s u => match u.roce with
      | some r => if u.dead then s else transmitRoce s n r (space == 0)
      | none => transmit s n u.pkt) s

/-- Fails a message at its sender (R309): the queue pair stays READY. -/
def failMsg (s : State) (n num st det : Nat) : State :=
  match (getQp s n).bind fun q => q.txMsgs.find? fun m => m.started && m.num == num with
  | some m => sendDone s n m st det
  | none => s

/-- PSNs that a RoCEv2 request takes: a READ as many as its response has packets (R323, R325). -/
def RocePacket.psns (k : RocePacket) (pmtu : Nat) : Nat := if k.kind = .readReq then max 1 (ceilDiv k.len pmtu) else 1

/-- Takes the unaccepted packets of a failed RoCEv2 message off its lane, and gives those behind them the PSNs from the refused one on: the receiver has taken none
of them. -/
def renumber (s : State) (n lane space num : Nat) : State :=
  modQp s n fun q => q.modLane lane fun l => l.modTx space fun x =>
    let first := ((x.unacked.head?).map (·.psn)).getD x.next
    let (kept, next) := (x.unacked.filter fun u => u.pkt.msgNum != num).foldl (fun (acc : List Unacked × Nat) u =>
      let psn := acc.2
      (acc.1 ++ [{ u with psn := psn, pkt := { u.pkt with psn := psn }, roce := u.roce.map fun r => { r with psn := psn } }],
        (psn + (u.roce.map fun r => r.psns q.pmtu).getD 1) % 2 ^ 24)) ([], first)
    { x with unacked := kept, next := next, rnrWait := none }

/-- Acts on an RNR NAK (R308, R309): PSN + 1 was not taken; after RNR_COUNT in a row its message fails, unless it has already. A response is no message of this sender:
its lane only waits. -/
def receiveRnr (s : State) (n lane space hint : Nat) : State :=
  match getQp s n with
  | none => s
  | some q =>
    let wait := fun (q : Qp) => q.modLane lane fun l => l.modTx space fun x => { x with rnrWait := some (s.time + 1000 * hint) }
    match ((q.lane lane).txOf space).unacked.head? with
    | none => s
    | some u =>
      if space ≠ 0 then modQp s n wait
      else
      let num := u.pkt.msgNum
      let c := (((q.txMsgs.find? fun m => m.started && m.num == num).map (·.rnr)).getD 0) + 1
      if q.rnrCount ≠ 7 ∧ c ≥ q.rnrCount ∧ !u.dead then
        let s := failMsg s n num stNak 2
        goBack (if q.service.roce then renumber s n lane space num else s) n lane space
      else
        modQp s n fun q => { wait q with
          txMsgs := q.txMsgs.map fun m => if m.started && m.num == num then { m with rnr := c } else m }

/-- Progress of a message ends its row of RNR NAKs (R309). -/
def clearRnr (s : State) (n lane space psn : Nat) : State :=
  match getQp s n with
  | none => s
  | some q =>
    if space ≠ 0 then s
    else
    let nums := (((q.lane lane).txOf space).unacked.filter fun u => !decide ((u.psn + 2 ^ 24 - psn - 1) % 2 ^ 24 < 2 ^ 23)).map (·.pkt.msgNum)
    modQp s n fun q => { q with txMsgs := q.txMsgs.map fun m => if m.started && nums.contains m.num then { m with rnr := 0 } else m }

/-- A NAK of a packet (R308, R309): in the request space its message fails; of a response, which is no message of this node's, no more is sent. -/
def failNaked (s : State) (n lane space : Nat) (num : Option Nat) (det : Nat) : State :=
  match num with
  | none => s
  | some num =>
    if space = 0 then failMsg s n num stNak det
    else modQp s n fun q => { q with responses := q.responses.filter fun r => !(r.num == num && r.lane == lane) }

/-- An authenticated NAK (R308). -/
def receiveNak (s : State) (n : Nat) (q : Qp) (k : Packet) : State :=
  let syn := k.msgNum / 2 ^ 24
  let hint := k.msgNum % 2 ^ 16
  let at_ := (((q.lane k.lane).txOf k.space).unacked.find? fun u => u.psn == k.psn).map (·.pkt.msgNum)
  let upTo := fun (s : State) => ackUpTo (clearRnr s n k.lane k.space k.psn) n k.lane k.space k.psn
  match syn with
  | 1 => settleSends (if (q.lane k.lane).closedTx then upTo s else goBack (upTo s) n k.lane k.space) n
  | 2 => settleSends (receiveRnr (upTo s) n k.lane k.space hint) n
  | 3 => settleSends (failNaked (upTo s) n k.lane k.space at_ 3) n
  | 4 => settleSends (failNaked (upTo s) n k.lane k.space at_ 4) n
  | 5 => settleSends (failNaked (upTo s) n k.lane k.space at_ 5) n
  | _ => { s with net := { s.net with badNaks := s.net.badNaks + 1 } }

/-- The peer's last accepted PSN of a closed lane is known (R307): what stands behind it is to be moved to the other lanes, and the messages concerned are degraded
(R319). -/
def moveLane (s : State) (n lane psn : Nat) : State :=
  modQp (ackUpTo s n lane 0 psn) n fun q =>
    let left := ((q.lane lane).tx.unacked.filter fun u => !u.dead).map (·.pkt.msgNum)
    { q.modLane lane fun l => { l with sync := none } with txMsgs := q.txMsgs.map fun m => if m.started && left.contains m.num then { m with degraded := true } else m }

/-! ### A packet, whole -/

/-- Handles an admitted packet of a queue pair whose context is resident (R306 to R308, R316, R321). -/
def handlePacket (s : State) (n : Nat) (k : Packet) : State :=
  match getQp s n with
  | none => s
  | some q =>
    if q.state = .error then modQp s n fun q => { q with discarded := q.discarded + 1 }
    else if !keyOk s q k then
      let s := modQp s n fun q => { q with authFails := q.authFails + 1 }
      -- one under a key epoch that is gone is counted in BAR0 only (R440)
      if q.keysDead then countNode (discard s 5 none) 1 else discard s 5 (some q.part)
    else
      let s := modQp s n fun q => { q with lastUse := s.time }
      match k.typ with
      | .ack => settleSends (ackUpTo (clearRnr s n k.lane k.space k.psn) n k.lane k.space k.psn) n
      | .nak => receiveNak s n q k
      | .laneSync =>
        let lane := k.msgNum % 8
        let s := modQp s n fun q => q.modLane lane fun l => { l with closedRx := true }
        sendCtl s n .laneSyncReply k.lane 1 ((q.lane lane).rx.expected + 2 ^ 24 - 1) lane
      | .laneSyncReply =>
        let lane := k.msgNum % 8
        if (q.lane lane).closedTx ∧ (q.lane lane).sync.isSome then settleSends (moveLane s n lane k.psn) n else s
      | _ => settleDrains (receiveSequenced s n q k)

/-- A packet that arrives at the node, on the port of its plane (R283, R290, R294, R303, R327). -/
def takePacket (s : State) (k : Packet) : State :=
  if !s.ports.nodeValid then s
  else match portDiscard s k.lane k.link (if k.typ.inRequest then reqClass s else respClass s) k.wire with
  | some s => s
  | none =>
    match admission s k with
    | .error s => s
    | .ok (n, q) => if q.ctx.isNone ∧ q.state ≠ .error then missPacket s n q (.evomer k) else handlePacket s n k

/-- SEQUENCED_PACKET_RECEIVE (R290, R305, R306, R310): any packet that is not one of the unsequenced types or a CANCEL. -/
def Machine.execSequencedPacketReceive (k : Packet) (t : Nat) (s : State) : Answer :=
  if [PktType.ack, .nak, .laneSync, .laneSyncReply, .cancel].contains k.typ then .next s else .next (takePacket (atTime s t) k)

/-- ACK_RECEIVE (R305, R312). -/
def Machine.execAckReceive (k : Packet) (t : Nat) (s : State) : Answer := if k.typ = .ack then .next (takePacket (atTime s t) k) else .next s

/-- NAK_RECEIVE (R308, R309). -/
def Machine.execNakReceive (k : Packet) (t : Nat) (s : State) : Answer := if k.typ = .nak then .next (takePacket (atTime s t) k) else .next s

/-- LANE_SYNC_RECEIVE (R307). -/
def Machine.execLaneSyncReceive (k : Packet) (s : State) : Answer := if k.typ = .laneSync then .next (takePacket s k) else .next s

/-- LANE_SYNC_REPLY_RECEIVE (R307). -/
def Machine.execLaneSyncReplyReceive (k : Packet) (t : Nat) (s : State) : Answer := if k.typ = .laneSyncReply then .next (takePacket (atTime s t) k) else .next s

/-- CANCEL_RECEIVE (R316). -/
def Machine.execCancelReceive (k : Packet) (t : Nat) (s : State) : Answer := if k.typ = .cancel then .next (takePacket (atTime s t) k) else .next s

/-! ### Timers -/

/-- ACK_TIMER (R305): 1 µs after the oldest packet not yet acknowledged. -/
def Machine.execAckTimer (qpn : Nat) (lane : Nat) (space : Nat) (t : Nat) (s : State) : Answer :=
  match getQp s qpn with
  | none => .next s
  | some q =>
    match ((q.lane lane).rxOf space).ackTimer with
    | some x => if x ≤ t ∧ q.state ≠ .error then .next (sendAck (atTime s t) qpn lane space) else .next s
    | none => .next s

/-- RETRY_TIMER_EXPIRE (R307): the go-back-N timer of a lane and space expires RETRY_US after its oldest packet was sent. -/
def Machine.execRetryTimerExpire (qpn : Nat) (lane : Nat) (space : Nat) (t : Nat) (s : State) : Answer :=
  match getQp s qpn with
  | none => .next s
  | some q =>
    let x := (q.lane lane).txOf space
    match x.unacked.head? with
    | none => .next s
    | some u =>
      if q.state = .error ∨ x.rnrWait.isSome ∨ (q.lane lane).closedTx ∨ t < u.sentAt + 1000 * q.retryUs then .next s
      else
        let s := modQp (atTime s t) qpn fun q => q.modLane lane fun l => l.modTx space fun y => { y with expiries := y.expiries + 1 }
        if x.expiries + 1 ≥ q.retryCount ∨ !pathOf s q lane then .next (settleDrains (closeLane s qpn lane)) else .next (goBack s qpn lane space)

/-- LANE_SYNC_RETRY (R307). -/
def Machine.execLaneSyncRetry (qpn : Nat) (lane : Nat) (t : Nat) (s : State) : Answer :=
  match getQp s qpn with
  | none => .next s
  | some q =>
    match (q.lane lane).sync, q.openLanes with
    | some x, o :: _ =>
      if t < x then .next s
      else
        let s := atTime s t
        let s := modQp s qpn fun q => q.modLane lane fun l => { l with sync := some (s.time + 1000 * q.retryUs) }
        .next (sendCtl s qpn .laneSync o 0 ((q.lane lane).rx.expected + 2 ^ 24 - 1) lane)
    | _, _ => .next s

/-- RNR_WAIT_EXPIRE (R308): the packets from the refused one on are sent again. -/
def Machine.execRnrWaitExpire (qpn : Nat) (lane : Nat) (space : Nat) (t : Nat) (s : State) : Answer :=
  match getQp s qpn with
  | none => .next s
  | some q =>
    match ((q.lane lane).txOf space).rnrWait with
    | some x =>
      if t < x then .next s
      -- the packets of a closed lane go on other lanes (R307)
      else if (q.lane lane).closedTx then .next (modQp (atTime s t) qpn fun q => q.modLane lane fun l => l.modTx space fun y => { y with rnrWait := none })
      else .next (goBack (atTime s t) qpn lane space)
    | none => .next s

/-- OLD_KEY_DROP (R322): 2 ms after a REKEY commits. -/
def Machine.execOldKeyDrop (qpn : Nat) (t : Nat) (s : State) : Answer :=
  match (getQp s qpn).bind (·.oldEpoch) with
  | some (_, x) => if x ≤ t then .next (modQp (atTime s t) qpn fun q => { q with oldEpoch := none, oldSecret := [] }) else .next s
  | none => .next s

/-! ### RoCEv2 (R323 to R325) -/

/-- The extents, offsets and lengths of a range of a peer's virtual addresses (R325): byte A is byte A mod 256 MiB of the ⌊A / 256 MiB⌋-th granted extent. -/
def roceTarget (s : State) (q : Qp) (va rkey len : Nat) (write : Bool) : Option (List (Nat × Nat × Nat)) :=
  let part := fun (j : Nat) =>
    let a := if j = 0 then va else (va / 2 ^ 28 + j) * 2 ^ 28
    let n := min (va + len) ((va / 2 ^ 28 + j + 1) * 2 ^ 28) - a
    let k := q.firstExtent + a / 2 ^ 28
    if k > q.lastExtent ∨ k ≥ 2 ^ 11 then none
    else (granted s q (put 63 60 1 ||| put 58 48 k ||| put 27 0 a) 0 n write).map fun e => (e.1, e.2, n)
  if rkey ≠ q.rkey then none else (List.range ((va % 2 ^ 28 + (len - 1)) / 2 ^ 28 + 1)).mapM part

/-- Reads and writes such a range. -/
def readParts (s : State) (ps : List (Nat × Nat × Nat)) : List Byte := ps.flatMap fun x => Memory.readBytes s.hbm (hbmAddr x.1 x.2.1) x.2.2
def writeParts (s : State) (ps : List (Nat × Nat × Nat)) (bs : List Byte) : State :=
  (ps.foldl (fun (acc : State × List Byte) x => (writeHbm acc.1 x.1 x.2.1 (acc.2.take x.2.2), acc.2.drop x.2.2)) (s, bs)).1

/-- How the reads of several extents stand (R400). -/
def partsRead (s : State) (ps : List (Nat × Nat × Nat)) : RegionRead :=
  let rs := ps.map fun x => regionReads s x.1 x.2.1 x.2.2
  if rs.contains .refused then .refused else if rs.contains .waits then .waits else .now

/-- The message that an in-order RoCEv2 packet belongs to (R323): a new one at its First or Only, else the open one of its kind; none when that has failed. -/
def roceOpen (q : Qp) (kind : PktType) (first : Bool) : Option RxMsg :=
  if first then some { num := q.rxMsgs.foldl (fun a m => max a (m.num + 1)) 0, kind := kind, len := 0 }
  else (q.rxMsgs.find? fun m => !m.complete && !m.failed).filter fun m => m.kind == kind

/-- A First or Only ends a message that its sender has broken off: it fails, and its RECV stays for the next (R309, R315). -/
def Qp.breakOff (q : Qp) (first : Bool) : Qp := if first then { q with rxMsgs := q.rxMsgs.map fun m => if m.complete then m else { m with failed := true } } else q

/-- A request packet in its PSN order (R323, R325): the state, and the answer that it gets: 0 ACK, 1 RNR, 2 access, 3 operation, 4 none. -/
def roceRequest (s : State) (n : Nat) (q : Qp) (k : RocePacket) : State × Nat :=
  match k.kind with
  | .send first last =>
    let q := q.breakOff first
    match roceOpen q .send first with
    | none => (s, 0)
    | some m =>
    let s := modQp s n fun x => x.breakOff first
    let m := { m with len := m.placed + k.payload.length }
    if m.aborted then (putRx s n { m with failed := true }, 3)
    else if q.service = .roceFabric then
      let held : List (Nat × List Byte) := m.held ++ [(m.placed, k.payload)]
      if m.len > 65568 then (putRx s n { m with failed := true }, 3)
      else
        let m := { m with held := held, placed := m.len, complete := last }
        let s := putRx s n { m with held := if last then [] else held }
        if last ∧ m.len ≥ 32 then (fabDeliver s q.part (parseFab ((held.map (·.2)).flatten) n none), 0) else (s, if last then 3 else 0)
    else
      let chosen : Option Posted := match m.matched with
        | some x => q.posted.find? fun (y : Posted) => y.ctx == x.1 && y.index == x.2
        | none => q.unmatched.head?
      match chosen with
      | none => (s, 1)
      | some x =>
        if m.len > x.capacity then (putRx s n { m with failed := true }, 3)
        else
          match findDesc s x.ctx x.index with
          | none => (s, 3)
          | some d =>
            match placePieces s d 3 m.len last m.held [(m.placed, k.payload)] with
            | .error e => (putRx (recvRefused s n m d e) n { m with failed := true, held := [] }, 3)
            | .ok (s, held) =>
              let m := { m with matched := some (x.ctx, x.index), placed := m.len, held := held, complete := last }
              let s := putRx s n m
              (if last then recvDone s n m else s, 0)
  | .write first last =>
    let q := q.breakOff first
    match roceOpen q .write first with
    | none => (s, 0)
    | some m =>
    let s := modQp s n fun x => x.breakOff first
    -- First or Only carries the address; `tag` keeps it for the packets that follow
    let m := if first then { m with tag := k.vaddr + k.rkey * 2 ^ 64, len := k.len } else m
    if !q.allowWrite then (putRx s n { m with failed := true }, 2)
    else match roceTarget s q (m.tag % 2 ^ 64 + m.placed) (m.tag / 2 ^ 64) k.payload.length true with
    | none => (putRx s n { m with failed := true }, 2)
    | some ps => (putRx (writeParts s ps k.payload) n { m with placed := m.placed + k.payload.length, complete := last }, 0)
  | .readReq =>
    if !q.allowRead then (s, 2)
    else match roceTarget s q k.vaddr k.rkey k.len false with
    | none => (s, 2)
    | some ps =>
      match partsRead s ps with
      | .refused => (s, 2)
      | r =>
        if ps.any fun x => hbmPoisoned s x.1 x.2.1 x.2.2 then
          let (v, s) := draw s
          (s, 2 + v % 2)
        else if r = .waits then
          (modQp s n fun q => { q with responses := q.responses ++ [{ num := 0, lane := 0, data := [], wait := some (ps, k.psn), step := true }] }, 4)
        else (roceRespond s n q k.psn (readParts s ps) (ps.any fun x => (getExt s x.1).holdsSteps), 4)
  | _ => (s, 3)

/-- How far an acknowledgement reaches: not past a READ, which only its responses acknowledge (R312, R323). -/
def Qp.roceAck (q : Qp) (psn : Nat) : Nat :=
  match (q.lane 0).tx.unacked.find? fun u => (u.roce.any fun r => r.kind == .readReq) && !u.dead with
  | some u => if (psn + 2 ^ 24 - u.psn) % 2 ^ 24 < 2 ^ 23 then (u.psn + 2 ^ 24 - 1) % 2 ^ 24 else psn
  | none => psn

/-- The packet before a PSN. -/
def psnBefore (psn : Nat) : Nat := (psn + 2 ^ 24 - 1) % 2 ^ 24

/-- A READ response (R310, R312, R323): its PSN says where in the READ its bytes stand. One that is next is placed; one further on shows that others are lost, and the
request is sent again; one that has been is dropped. -/
def roceResponse (s : State) (n : Nat) (q : Qp) (k : RocePacket) : State :=
  let place := fun (u : Unacked) => (k.psn + 2 ^ 24 - u.psn) % 2 ^ 24
  match (q.lane 0).tx.unacked.find? fun u => u.roce.any fun r => r.kind == .readReq && decide (place u < r.psns q.pmtu) with
  | none => s
  | some u =>
    let s := ackUpTo (clearRnr s n 0 0 k.psn) n 0 0 (psnBefore u.psn)
    let last := decide ((place u + 1) = (u.roce.map fun r => r.psns q.pmtu).getD 1)
    match q.txMsgs.find? fun m => m.started && m.kind == .read && m.num == u.pkt.msgNum with
    | none => settleSends (if last then ackUpTo s n 0 0 k.psn else s) n
    | some m =>
      let off := place u * q.pmtu
      if off = m.placed then
        let s := receiveResp s n m.num off k.payload
        settleSends (if last then ackUpTo s n 0 0 k.psn else s) n
      else if off > m.placed then settleSends (goBack s n 0 0) n
      else settleSends s n

/-- A RoCEv2 packet of a queue pair (R323 to R325). -/
def handleRoce (s : State) (n : Nat) (q : Qp) (k : RocePacket) : State :=
  let x := (q.lane 0).rx
  let upTo := fun (psn : Nat) => ackUpTo (clearRnr s n 0 0 psn) n 0 0 psn
  match k.kind with
  | .cnp => s
  | .ack => settleSends (upTo (q.roceAck k.psn)) n
  | .nakSequence => settleSends (goBack (upTo (q.roceAck (psnBefore k.psn))) n 0 0) n
  | .nakRnr code => settleSends (receiveRnr (upTo (q.roceAck (psnBefore k.psn))) n 0 0 (rnrTimers.getD (code % 32) 0)) n
  | .nakAccess | .nakOperation =>
    let at_ := ((q.lane 0).tx.unacked.find? fun u => u.psn == k.psn).map (·.pkt.msgNum)
    settleSends (failNaked (upTo k.psn) n 0 0 at_ (if k.kind = .nakAccess then 3 else 4)) n
  | .readResp _ _ => roceResponse s n q k
  | .absent => roceReply { s with net := { s.net with roceAbsent := s.net.roceAbsent + 1 } } n .nakOperation k.psn
  | _ =>
    let d := (k.psn + 2 ^ 24 - x.expected) % 2 ^ 24
    if d = 0 then
      let (s', r) := roceRequest (if k.kind.asks then modQp s n fun q => { q with msn := (q.msn + 1) % 2 ^ 24 } else s) n q k
      if r = 1 then roceReply s n (.nakRnr (rnrCode q.rnrHint)) k.psn
      else
        let s := modQp s' n fun q => q.modLane 0 fun l => { l with rx := { l.rx with expected := (x.expected + k.psns q.pmtu) % 2 ^ 24, nakSent := false } }
        if r = 0 then roceReply s n .ack k.psn else if r = 2 then roceReply s n .nakAccess k.psn else if r = 3 then roceReply s n .nakOperation k.psn else s
    else if d < 2 ^ 23 then
      if x.nakSent then s
      else roceReply (modQp s n fun q => q.modLane 0 fun l => { l with rx := { l.rx with nakSent := true } }) n .nakSequence x.expected
    else
      -- behind: a READ is answered again, anything else acknowledged again
      match k.kind with
      | .readReq => (match roceTarget s q k.vaddr k.rkey k.len false with
        | some ps => if (ps.any fun x => hbmPoisoned s x.1 x.2.1 x.2.2) ∨ partsRead s ps ≠ .now then s
            else roceRespond s n q k.psn (readParts s ps) (ps.any fun x => (getExt s x.1).holdsSteps)
        | none => s)
      | _ => roceReply s n .ack (x.expected + 2 ^ 24 - 1)

/-- A sequence number that an association has not taken and that is not behind its window of 64 (R324); the association once it has taken it. -/
def espFresh (w : Nat × List Nat) (seq : Nat) : Bool := decide (w.1 < seq + 64) && !w.2.contains seq
def espTake (w : Nat × List Nat) (seq : Nat) : Nat × List Nat := (max w.1 seq, (seq :: w.2).filter fun x => decide (max w.1 seq < x + 64))

/-- The queue pair once a packet's ESP association has taken it (R322, R324): the present one, or the one before within 2 ms of a REKEY; none when the packet is not
valid under either. -/
def espAccept (s : State) (n : Nat) (q : Qp) (k : RocePacket) : Option Qp :=
  let own := endpointAddr s (ownEndpoint s q.part)
  let spiOf := fun (cs : List Byte) (epoch : Nat) => espSpi (espInputs cs epoch q.peerAddr q.peerQpn own n)
  if !k.espOk ∨ q.keysDead then none
  else if k.spi = spiOf q.secret q.epoch then (if espFresh q.esp k.seq then some { q with esp := espTake q.esp k.seq } else none)
  else match q.oldEpoch with
  | some (e, t) => if s.time < t ∧ k.spi = spiOf q.oldSecret e ∧ espFresh q.espOld k.seq then some { q with espOld := espTake q.espOld k.seq } else none
  | none => none

/-- Counts a RoCEv2 packet that is discarded (R324). -/
def roceDiscard (s : State) : State := { s with net := { s.net with roceDiscards := s.net.roceDiscards + 1 } }

/-- A RoCEv2 packet of a queue pair whose context is resident: it must come in a valid ESP packet of the association, its ICRC right (R324); others are counted, one
under a key epoch that is gone in BAR0 (R440). -/
def handleRocePacket (s : State) (n : Nat) (k : RocePacket) : State :=
  match getQp s n with
  | none => s
  | some q =>
    match espAccept s n q k with
    | none => if q.keysDead then countNode (roceDiscard s) 1 else roceDiscard s
    | some q =>
      let q := { q with lastUse := s.time }
      let s := modQp s n fun _ => q
      if !k.icrcOk then roceDiscard s
      else if q.state = .error then modQp s n fun q => { q with discarded := q.discarded + 1 }
      else settleDrains (handleRoce s n q k)

/-- ROCE_PACKET_RECEIVE (R283, R294, R303, R323 to R325): one that names no RoCEv2 queue pair of the endpoint that it comes to is discarded and counted, in BAR0 when that
is of a partition SCRUBBING or ABSENT (R436, R440); one of a spilled context waits for it. -/
def Machine.execRocePacketReceive (k : RocePacket) (t : Nat) (s : State) : Answer :=
  let s := atTime s t
  let p := k.dst % 16
  if !s.ports.nodeValid then .next s
  else match portDiscard s 0 k.link (if k.kind.request then reqClass s else respClass s) (espWire (k.datagram 0 0 0)) with
  | some s => .next s
  | none =>
    if k.dst / 16 ≠ s.ports.nodeId then .next (roceDiscard s)
    else if (getPart s p).state = .absent ∨ (getPart s p).state = .scrubbing then .next (countNode (roceDiscard s) 0)
    else match getQp s k.qpn with
    | none => .next (roceDiscard s)
    | some q =>
      if !q.service.roce ∨ q.part ≠ p then .next (roceDiscard s)
      else if q.ctx.isNone ∧ q.state ≠ .error then .next (missPacket s k.qpn q (.roce k))
      else .next (handleRocePacket s k.qpn k)

/-! ### The context-miss buffer (R303) -/

/-- A packet that waited for its context. -/
def handleArrived (s : State) (n : Nat) (k : Arrived) : State :=
  match k with
  | .evomer k => handlePacket s n k
  | .roce k => handleRocePacket s n k

/-- The RNR NAK for a PSN discarded for want of a place, with RETRY_HINT 2 µs: at most one in 2 µs for each lane and space. -/
def missNak (s : State) (n lane space psn : Nat) : State :=
  match getQp s n with
  | none => s
  | some q =>
    if (((q.lane lane).rxOf space).missNak.map fun y => decide (s.time < y + 2000)) = some true then s
    else
      let s := modQp s n fun q => q.modLane lane fun l => l.modRx space fun r => { r with missNak := some s.time }
      if q.service.roce then roceReply s n (.nakRnr (rnrCode 2)) psn
      else sendNak s n lane space (psn + 2 ^ 24 - 1) 2 2

/-- CONTEXT_FETCH_DONE (R301 to R303): the context takes a queue context, its waiting packets are handled in order, and a discarded one is answered with RNR. One that
fails authentication in host memory puts its queue pair in ERROR. -/
def Machine.execContextFetchDone (qpn : Nat) (authOk : Bool) (t : Nat) (s : State) : Answer :=
  match lookup? s.net.fetching qpn, getQp s qpn with
  | some naks, some q =>
    let o := ownerOf q.part
    match takeContext (atTime s t) o true qpn with
    | none => .next s
    | some (c, s) =>
      let mine := s.net.miss.filter fun m => m.1 == qpn
      let s := modQp s qpn fun q => { q with ctx := some c, lastUse := s.time }
      let s := { s with net := { s.net with miss := s.net.miss.filter fun m => m.1 != qpn, fetching := erase s.net.fetching qpn } }
      if !authOk ∧ spillKind s o = 2 then .next (settleDrains (qpError (modQp s qpn fun q => { q with authFails := q.authFails + 1 }) qpn))
      else
        let s := mine.foldl (fun s m => handleArrived s qpn m.2) s
        -- one NAK for each lane and space, at most one in 2 µs
        let firsts := naks.foldl (fun (acc : List (Nat × Nat × Nat)) x => if acc.any fun y => y.1 == x.1 && y.2.1 == x.2.1 then acc else acc ++ [x]) []
        .next (firsts.foldl (fun s x => missNak s qpn x.1 x.2.1 x.2.2) s)
  | _, _ => .next s

end Sys2Proof
end

