-- ==== Sys2Proof/Machine/Pins.lean ====
section
/-!
DEFINITION. The module's pins: what its connectors carry, the levels of its status outputs, and the identity that it shows outside (R573 to R585, R591, R592).
-/
namespace Sys2Proof

open Machine (State Fault Refusal)

/-! ### Status outputs (R583, R584) -/

/-- PWR_OK is released while power-good holds, READY while Memory_Active holds. -/
def pwrOkReleased (s : State) : Bool := s.boot.powerGood
def readyReleased (s : State) : Bool := memActive s

/-- FAULT# is asserted by its latch, ALERT# while a cause is set. -/
def faultAsserted (s : State) : Bool := s.boot.faultPin
def alertAsserted (s : State) : Bool := s.boot.alert.any id

/-- DRV_REFCLK of a root port runs while the port's domain is ON. -/
def drvRefclk (s : State) (r : Nat) : Bool := (getDom s (151 + r)).present == .on

/-! ### Connectors (R574, R577 to R579, R581) -/

/-- What a lane of HSA or HSB is. -/
inductive LaneUse where
  | cxl (lane : Nat)
  | rootPort (r : Nat) (lane : Nat)
  | port (p : Nat) (lane : Nat)
deriving DecidableEq, Repr

/-- HSA lanes 0 to 47 (R577), and HSB lanes 0 to 31 (R579). -/
def hsaLane (n : Nat) : Option LaneUse := if n < 16 then some (.cxl n) else if n < 48 then some (.rootPort ((n - 16) / 4) ((n - 16) % 4)) else none
def hsbLane (n : Nat) : Option LaneUse := if n < 32 then some (.port (n / 4) (n % 4)) else none

/-- What a position of a connector carries. -/
inductive PinUse where
  | ground
  | absent
  /-- A wire of a pair: transmitted by the node or received by it, its negative wire or its positive one. -/
  | wire (lane : LaneUse) (tx : Bool) (negative : Bool)
  | signal (name : String)
deriving DecidableEq, Repr

/-- Rows A to M (0 to 12) of a column of HSA or HSB (R577): two lanes of four wires between grounds. -/
def laneRow (lane : Nat → Option LaneUse) (column row : Nat) : PinUse :=
  let n := 2 * column - 2 + row / 6
  if row % 3 = 0 then .ground
  else match lane n with
    | some l => .wire l (row % 6 < 3) (row % 3 == 2)
    | none => .ground

/-- HSA: rows A to P (0 to 15), columns 1 to 24 (R577, R578). -/
def hsaPin (row column : Nat) : PinUse :=
  if column = 0 ∨ 24 < column ∨ 15 < row then .absent
  else if row < 13 then laneRow hsaLane column row
  else if row = 13 then
    (if column = 1 then .signal "CXL_REFCLK_P" else if column = 2 then .signal "CXL_REFCLK_N"
     else if 4 ≤ column ∧ column < 20 then .signal ((if column % 2 = 0 then "DRV_REFCLK_P " else "DRV_REFCLK_N ") ++ toString ((column - 4) / 2)) else .ground)
  else if row = 14 then
    (if column ≤ 8 then .signal ("DRV_PERST# " ++ toString (column - 1)) else if column ≤ 16 then .signal ("DRV_PRSNT# " ++ toString (column - 9)) else .ground)
  else if column = 1 then .signal "PERST#" else if column = 2 then .signal "HSA_PRSNT#" else .ground

/-- HSB: rows A to P, columns 1 to 16 (R579); the columns of a port die that is not fitted are unconnected inside the module. -/
def hsbPin (s : State) (row column : Nat) : PinUse :=
  if column = 0 ∨ 16 < column ∨ 15 < row ∨ (8 < column ∧ !portDieFitted s 1) then .absent
  else if row < 13 then laneRow hsbLane column row else .ground

/-- The port lanes that link k uses in a port mode (R579, R283). -/
def linkLanes (mode k : Nat) : List Nat := if mode = 0 then (if k = 0 then [0, 1, 2, 3] else []) else if mode = 1 then (if k < 2 then [2 * k, 2 * k + 1] else []) else [k]

/-- PWR: rows A to C, columns 1 to 6 (R574). -/
def pwrPin (row column : Nat) : PinUse :=
  if column = 0 ∨ 6 < column then .absent
  else if row = 0 then .signal "+42 V" else if row = 1 then .signal "42 V return" else if row = 2 ∧ column = 1 then .signal "presence" else .absent

/-- MGT: rows A to D, columns 1 to 8 (R581); D01 is a factory pin. -/
def mgtPin (row column : Nat) : PinUse :=
  if column = 0 ∨ 8 < column ∨ 3 < row then .absent
  else match row, column with
    | 0, 1 => .signal "REF100_P"
    | 0, 2 => .signal "REF100_N"
    | 0, 4 => .signal "UART_TX"
    | 0, 5 => .signal "UART_RX"
    | 0, 7 => .signal "3V3_AUX"
    | 0, 8 => .signal "3V3_AUX"
    | 1, 3 => .signal "SMB_SCL"
    | 1, 4 => .signal "SMB_SDA"
    | 1, 5 => .signal "ALERT#"
    | 1, 6 => .signal "ADDR0"
    | 1, 7 => .signal "ADDR1"
    | 2, 1 => .signal "RESET#"
    | 2, 2 => .signal "RECOVERY#"
    | 2, 3 => .signal "FAULT#"
    | 2, 4 => .signal "PWR_OK"
    | 2, 5 => .signal "READY"
    | 2, 6 => .signal "MGT_PRSNT#"
    | 3, 1 => .signal "factory"
    | _, _ => .ground

/-! ### Identity outside the node (R585, R591, R592) -/

/-- The ordering code of a variant. -/
def orderingCode (v : Nat) : String := if v = 1 then "LFN-20-2" else if v = 2 then "LFN-20-1" else if v = 3 then "LFN-15-2" else if v = 4 then "LFN-10-2" else ""

/-- The SMBus address of the FRU EEPROM, and the fields of its Board Info Area: manufacturer, product name, part number and serial number. How they are written as bytes the
IPMI format gives (log entry 57). -/
def fruAddress (s : State) : Nat := 0x50 + 2 * b2n s.boot.addr1 + b2n s.boot.addr0
def fruBoardInfo (s : State) : List String :=
  ["Jalward Microsystems", orderingCode (variant s), orderingCode (variant s), String.ofList ((List.range 16).map fun k => Nat.digitChar (s.boot.fuses.identity.toNat / 16 ^ (15 - k) % 16))]

/-- The identity number as the label shows it: four groups of four hex digits. -/
def labelIdentity (s : State) : String :=
  let group := fun (k : Nat) => String.ofList ((List.range 4).map fun j => (Nat.digitChar (s.boot.fuses.identity.toNat / 16 ^ (15 - 4 * k - j) % 16)).toUpper)
  group 0 ++ "-" ++ group 1 ++ "-" ++ group 2 ++ "-" ++ group 3

end Sys2Proof
end

