-- ==== Sys2Proof/Machine/Smbus.lean ====
section
/-!
DEFINITION. The node's SMBus target (R583, R585, R586).
-/
namespace Sys2Proof

open Machine (State Fault Refusal)

/-- Whether the target answers (R585, R532): from 40 ms after power-good, while the module has power. -/
def smbUp (s : State) : Bool := s.boot.powerGood && !([StartPhase.absent, .mated, .powerGood, .fusesRead].contains s.boot.phase)

/-- The reply to a read, or a NAK (R585). -/
def smbReply (s : State) (bytes : List Nat) : State := emit s (if smbUp s then .smb bytes else .smbNak)

/-- SMB_STATUS (R586). -/
def Machine.execSmbStatus (s : State) : Answer :=
  .next (smbReply s [b2n (pwrOkReleased s) + 2 * b2n (readyReleased s) + 4 * b2n (faultAsserted s) + 8 * b2n (s.boot.phase == .loader) + 16 * b2n (expirePeak s).power.peak.isSome])

/-- SMB_LIFECYCLE (R546, R586). -/
def Machine.execSmbLifecycle (s : State) : Answer := .next (smbReply s [s.boot.lifecycle.code])

/-- SMB_POWER (R435, R586): a word, low byte first. -/
def Machine.execSmbPower (s : State) : Answer := .next (smbReply s [s.power.coarseW % 256, s.power.coarseW / 256 % 256])

/-- SMB_TEMP (R435, R586). -/
def Machine.execSmbTemp (s : State) : Answer := .next (smbReply s [(hottest s % 256).toNat])

/-- SMB_LEVEL (R435, R586). -/
def Machine.execSmbLevel (s : State) : Answer := .next (smbReply s [s.power.coarseLevel])

/-- SMB_ALERT_CAUSE (R586): a bit clears when it is read and its cause has ended. -/
def Machine.execSmbAlertCause (s : State) : Answer :=
  let a := s.boot.alert
  let r := smbReply s [b2n (a.getD 0 false) + 2 * b2n (a.getD 1 false) + 4 * b2n (a.getD 2 false)]
  if smbUp s then .next { r with boot := { r.boot with alert := a.mapIdx fun k x => x && s.boot.alertNow.getD k false } } else .next r

/-- SMB_VARIANT (R586, R591). -/
def Machine.execSmbVariant (s : State) : Answer := .next (smbReply s [variant s])

/-- SMB_IDENTITY (R586). -/
def Machine.execSmbIdentity (s : State) : Answer := .next (smbReply s ((leBytes 8 s.boot.fuses.identity.toNat).map (·.toNat)))

/-- The node's 7-bit target address (R585). -/
def smbAddress (s : State) : Nat := 0x68 + 2 * b2n s.boot.addr1 + b2n s.boot.addr0

/-- SMB_ALERT_RESPONSE (R583): answered while ALERT# is asserted. -/
def Machine.execSmbAlertResponse (s : State) : Answer :=
  .next (emit s (if smbUp s && alertAsserted s then .smb [smbAddress s] else .smbNak))

/-- SMB_UNKNOWN (R586): any other command code is NAKed. -/
def Machine.execSmbUnknown (code : Nat) (s : State) : Answer :=
  if [0, 1, 2, 3, 4, 5, 6, 0x10].contains code then .next s else .next (emit s .smbNak)

end Sys2Proof
end

