-- ==== Sys2Proof/Machine/Tables.lean ====
section
/-!
DEFINITION. The loads of scale tables and of decode tables (R177 to R183, R212 to R218).
-/
namespace Sys2Proof

open Machine (State Fault Refusal)

/-- The partition that a table load acts on (R183, R218): the requester's, where PARTITION is reserved, or the one that a fabric-manager ring names. -/
def loadPart (s : State) (d : Desc) : Except (Nat × Nat) Nat :=
  let n := fld (d.w 3) 11 8
  match d.owner with
  | .part p => if n = 0 then .ok p.val else .error (stMalformed, 1)
  | .fm => if (getPart s n).state = .absent ∨ (getPart s n).state = .scrubbing then .error (stNotOwner, 6) else .ok n

/-- The image of a load, in host memory or HBM (R181, R214), read whole; poison and a failed host read are POISONED 0x0001. -/
def loadImage (s : State) (d : Desc) (rd : HostRead) (n : Nat) : Except (Nat × Nat) (List Byte) :=
  if d.w 2 = 0#64 ∨ fld (d.w 2) 63 60 = 2 then .error (stMalformed, 1)
  else match readIn s d 2 n rd 2 1 with
    | .error e => .error e
    | .ok r => if r.poison then .error (stPoisoned, 1) else .ok r.bytes

/-- Whether a load of the same kind for the same partition was dispatched before and has not committed. -/
def loadBefore (s : State) (d : Desc) (p : Nat) (same : Desc → Bool) : Bool :=
  (dispatchedBefore s d).any fun x =>
    x.opcode == 0x0C && x.subop == d.subop && loadTarget x == p && same x

/-! ### LOAD_SCALE_TABLE -/

/-- The checks of R179 and R180 on an image whose length fits its header: the index of the first scale that is not positive, finite and normal. -/
def badScale (bs : List Byte) : Option Nat :=
  let es := unpack 32 (bs.drop 64) ((bs.length - 64) / 4)
  es.findIdx? fun u => decide (u ≥ 2 ^ 31) || (u >>> 23) == 0 || (u >>> 23) == 255

/-- LOAD_SCALE_TABLE as it runs (R179 to R183). -/
def loadScaleRun (rd : HostRead) (d : Desc) (s : State) : State :=
  let len := fld (d.w 4) 31 0
  let slot := fld (d.w 3) 3 0
  if d.len ≠ 0 ∨ !bodyOk d.cur [allBits, maskOf 11 8 ||| maskOf 4 0, maskOf 31 0] then endDesc s d (stMalformed, 1)
  else match loadPart s d with
  | .error e => endDesc s d e
  | .ok p =>
    if loadBefore s d p fun x => fld (x.w 3) 3 0 == slot then s
    else if bit (d.w 3) 4 then
      if d.w 2 ≠ 0#64 then endDesc s d (stMalformed, 1)
      else if len ≠ 0 then endDesc s d (stMalformed, 3)
      else putDesc s { d.finish stDone 0 none (some 0) with effects := d.effects ++ [.scaleTable p slot none] }
    else if len < 64 then endDesc s d (stMalformed, 3)
    else match loadImage s d rd len with
    | .error e => endDesc s d e
    | .ok bs =>
      let h := toWords 8 bs
      let h0 := wd h 0
      let layers := fld h0 31 24 + 1
      let heads := fld h0 23 18 + 1
      match dimOf (fld h0 17 15) with
      | none => endDesc s d (stMalformed, 1)
      | some dim =>
        if fld h0 14 8 ≠ 0 ∨ (h.drop 1).any (· != 0#64) then endDesc s d (stMalformed, 1)
        else if len ≠ 64 + 8 * layers * heads * dim then endDesc s d (stMalformed, 3)
        else match badScale bs with
        | some k => putDesc s (d.finish stMalformed 2 (some k))
        | none =>
          match takeBlocks s p (ceilDiv len 4096) with
          | none => endDesc s d (stExhausted, 2)
          | some (b, s) =>
            let t : ScaleTable := { version := fld h0 63 32, layers := layers, heads := heads, dim := fld h0 17 15, image := bs, blocks := b }
            putDesc s { d.finish stDone 0 (some t.version) (some b.count) with
                        effects := d.effects ++ [.scaleTable p slot (some t)]
                        blocks := if d.owner.part? = some p then b :: d.blocks else d.blocks }

/-- LOAD_SCALE_TABLE (R181 to R183). -/
def Machine.execLoadScaleTable (q : Nat) (i : BitVec 32) (rd : HostRead) (s : State) : Answer :=
  if !memActive s then .next s else stationRun s q i 0x0C 0x20 [2] (loadScaleRun rd)

/-! ### LOAD_DECODE_TABLE -/

/-- The table that an image holds, when it passes R213. -/
def decodeImage (bs : List Byte) : Option DecodeTable :=
  let h := toWords 8 bs
  let lens := ((bs.drop 64).take 257).map (·.toNat)
  let kraft : Nat := (lens.map fun n => if n = 0 then 0 else 2 ^ (12 - n)).sum
  if fld (wd h 0) 15 0 = 0 ∨ fld (wd h 0) 63 16 ≠ 0 ∨ (h.drop 1).any (· != 0#64) ∨ lens.any (fun n => decide (n > 12)) ∨ lens.getD 256 0 = 0 ∨ kraft ≠ 4096
      ∨ (bs.drop 321).any (· != 0#8) then none
  else some { version := fld (wd h 0) 15 0, lengths := lens }

/-- The end of a load of a decode table: it has finished when the old table of its slot has no holds and no earlier load of the slot is in flight; until then it
waits with its image read. -/
def decodeLoadEnd (p slot : Nat) (t : Option DecodeTable) (d : Desc) (s : State) : State :=
  let before := dispatchedBefore s d
  if slotHeld s before p slot || before.any (fun x => x.loadsSlot p slot) then
    putDesc s { d with phase := .running, held := (t.map fun t => leBytes 2 t.version ++ t.lengths.map fun n => BitVec.ofNat 8 n).getD [] }
  else putDesc s { d.finish stDone 0 (t.map (·.version)) (some slot) with effects := d.effects ++ [.decodeTable p slot t] }

/-- LOAD_DECODE_TABLE as it runs first (R213 to R215, R218): the slot was chosen and the image read at its dispatch, and `rd` says whether that read failed. -/
def loadDecodeRun (rd : HostRead) (d : Desc) (s : State) : State :=
  let len := fld (d.w 4) 31 0
  if d.len ≠ 0 ∨ !bodyOk d.cur [allBits, maskOf 11 8 ||| maskOf 6 4, maskOf 31 0] then endDesc s d (stMalformed, 1)
  else match d.loadSlot, loadPart s d with
  | none, _ => endDesc s d (stMalformed, 1)
  | _, .error e => endDesc s d e
  | some slot, .ok p =>
    if bit (d.w 3) 6 then
      if d.w 2 ≠ 0#64 then endDesc s d (stMalformed, 1)
      else if len ≠ 0 then endDesc s d (stMalformed, 3)
      else decodeLoadEnd p slot none d s
    else if len ≠ 384 then endDesc s d (stMalformed, 3)
    else match earlyInput d 2 rd 1 (loadImage s d rd len) with
    | .error e => endDesc s d e
    | .ok bs =>
      match decodeImage bs with
      | none => endDesc s d (stMalformed, 1)
      | some t => decodeLoadEnd p slot (some t) d s

/-- LOAD_DECODE_TABLE (R214 to R218): it runs a second time, and again, while the table of its slot is held. -/
def Machine.execLoadDecodeTable (q : Nat) (i : BitVec 32) (rd : HostRead) (s : State) : Answer :=
  match findDesc s q i with
  | some d =>
    if d.phase == .running && d.opcode == 0x0C && d.subop == 0x21 then
      let t : Option DecodeTable := if d.held.isEmpty then none
        else some { version := ofLe (d.held.take 2), lengths := (d.held.drop 2).map (·.toNat) }
      .next (decodeLoadEnd (loadTarget d) (d.loadSlot.getD 0) t d s)
    else stationRun s q i 0x0C 0x21 [2] (loadDecodeRun rd)
  | none => .next s

end Sys2Proof
end

