-- ==== Sys2Proof/Machine/Snare.lean ====
section
/-!
DEFINITION. The MATCH station, the slot stream, the pattern automata and the background work of Snare (R228 to R254), and LOAD_PATTERNS.
-/
namespace Sys2Proof

open Machine (State Fault Refusal)

/-! ### Input of the MATCH operations -/

/-- The partition of a MATCH, when it owns a block (R228). -/
def matchPart (s : State) (d : Desc) : Except (Nat × Nat) Nat :=
  match d.owner with
  | .fm => .error (stNotOwner, 3)
  | .part p => if (snareBlocks s p).isEmpty then .error (stNotOwner, 3) else .ok p

/-- The 20-bit tokens of a tile, unless a word has bits above (R229, R244). -/
def tokensOf (bs : List Byte) : Option (List Nat) :=
  let ts := unpack 32 bs (bs.length / 4)
  if ts.any fun t => decide (t ≥ 2 ^ 20) then none else some ts

/-- Reads the tile of a whole-page operation and gives its tokens, or the status of R244; `replace` and `frozen` say whether the operation has those
fields, `seq` whether it names a sequence, `out` whether it takes OUT. -/
def pageTokens (s : State) (d : Desc) (rd : HostRead) (replace frozen seq out : Bool) : Except (Nat × Nat) (List Nat) :=
  let n := inputSize d
  let base := fld (d.w 4) 19 0
  let masks := [maskOf 63 32 ||| (if seq then maskOf 31 0 else 0#64), allBits,
                (if replace then maskOf 63 63 else 0#64) ||| (if frozen then maskOf 62 62 else 0#64) ||| maskOf 19 0, allBits, if out then allBits else 0#64]
  if !bodyOk d.cur masks then .error (stMalformed, 1)
  else if inputBreach d 5 ∨ n % 64 ≠ 0 ∨ n < 64 ∨ n > 65536 then .error (stMalformed, 3)
  else if base + n / 64 > 1048576 ∨ (base = 0 ∧ d.w 3 ≠ 0#64) then .error (stMalformed, 1)
  else match tileInput s d 5 rd with
  | .error e => .error e
  | .ok bs =>
    match tokensOf bs with
    | none => .error (stMalformed, 1)
    | some ts => .ok ts

/-- The fingerprints of a whole-page tile with their page indices. -/
def tileFps (d : Desc) (ts : List Nat) : List (Nat × Nat) :=
  (fingerprints (d.w 3).toNat (fld (d.w 2) 63 32) (ts.length / 16) ts).mapIdx fun k f => (f, fld (d.w 4) 19 0 + k)

/-- Runs a MATCH operation that needs the partition's blocks: Snare is woken first (R488). That there is none shows before the body is checked (DESIGN CHOICE, log
entry 31). -/
def matchRun (s : State) (q : Nat) (i : BitVec 32) (sub : Nat) (ks : List Nat) (k : Nat → Desc → State → State) : Answer :=
  stationRun s q i 0x05 sub ks fun d s =>
    match matchPart s d with
    | .error e => endDesc s d e
    | .ok p => withDoms s [3] (k p d)

/-! ### LOOKUP, INSERT, REMOVE, FINGERPRINT -/

/-- LOOKUP (R240, R241): the probes of its pages go to the slot stream. -/
def Machine.execLookup (q : Nat) (i : BitVec 32) (rd : HostRead) (s : State) : Answer :=
  matchRun s q i 1 [5] fun _ d s =>
    match pageTokens s d rd false true false false with
    | .error e => endDesc s d e
    | .ok ts =>
      let fps := tileFps d ts
      putDesc s { d with phase := .running, slots := fps.map fun x => .probe x.1 x.2, hits := [], probes := 0
                         held := fps.flatMap fun x => leBytes 8 x.1 }

/-- INSERT (R237, R238, R244): one slot for each page. -/
def Machine.execInsert (q : Nat) (i : BitVec 32) (rd : HostRead) (s : State) : Answer :=
  matchRun s q i 2 [5] fun p d s =>
    match pageTokens s d rd true false true false with
    | .error e => endDesc s d e
    | .ok ts =>
      let seq := fld (d.w 2) 31 0
      match visibleSeq (stagedView s d) p seq with
      | none => endDesc s d (stNotOwner, 1)
      | some r =>
        if seqLost s p r then endDesc s d (stPoisoned, 1)
        else if r.minLength < 16 * fld (d.w 4) 19 0 + ts.length then endDesc s d (stMalformed, 1)
        else if r.window ≠ 0 then endDesc s d (stMalformed, 4)
        else
          let fps := tileFps d ts
          putDesc s { d with phase := .running, slots := fps.map fun _ => .change, probes := fps.length
                             effects := d.effects ++ fps.map fun x => .indexInsert p x.1 x.2 seq (bit (d.w 4) 63) }

/-- REMOVE (R242): one slot for each page. -/
def Machine.execRemove (q : Nat) (i : BitVec 32) (rd : HostRead) (s : State) : Answer :=
  matchRun s q i 3 [5] fun p d s =>
    match pageTokens s d rd false false false false with
    | .error e => endDesc s d e
    | .ok ts =>
      let fps := tileFps d ts
      putDesc s { d with phase := .running, slots := fps.map fun _ => .change, probes := fps.length
                         effects := d.effects ++ fps.map fun x => .indexRemove p x.1 x.2 }

/-- FINGERPRINT (R229, R253). -/
def Machine.execFingerprint (q : Nat) (i : BitVec 32) (rd : HostRead) (s : State) : Answer :=
  matchRun s q i 4 [5, 6] fun _ d s =>
    match pageTokens s d rd false false false true with
    | .error e => endDesc s d e
    | .ok ts =>
      let fps := (tileFps d ts).map (·.1)
      let out := fps.flatMap (leBytes 8)
      match writeOut s d 6 out with
      | .error e => endDesc s d e
      | .ok s => putDesc s { d.finish stDone 0 (some fps.length) (some (fps.getLastD 0)) with output := some { bytes := out } }

/-! ### STEP and STATE -/

/-- The fields of an automaton record (R250). -/
structure AutoRec where
  state : Nat
  retain : Nat
  halted : Bool
  version : Nat
  ns : Nat
  stepped : Nat
  fp : Nat
  pending : List Nat

/-- Reads a record. -/
def readAuto (ws : List Word) : AutoRec :=
  let n := fld (wd ws 1) 24 0
  { state := fld (wd ws 0) 63 48, retain := fld (wd ws 0) 47 40, halted := bit (wd ws 0) 39, version := fld (wd ws 0) 31 0, ns := fld (wd ws 1) 63 32
    stepped := n, fp := (wd ws 2).toNat, pending := (unpack 20 (ofWords (ws.drop 3)) 15).take (n % 16) }

/-- Writes a record. -/
def writeAuto (r : AutoRec) : List Word :=
  let v := r.pending.foldr (fun t acc => t % 2 ^ 20 + 2 ^ 20 * acc) 0
  [put 63 48 r.state ||| put 47 40 r.retain ||| put 39 39 (b2n r.halted) ||| put 31 0 r.version, put 63 32 r.ns ||| put 24 0 r.stepped, BitVec.ofNat 64 r.fp]
    ++ (List.range 5).map fun k => BitVec.ofNat 64 (v >>> (64 * k))

/-- A pattern set's image by its sections (R246). -/
structure PatSet where
  states : Nat
  classes : Nat
  ranges : List Nat
  trans : List Nat
  accept : List Nat
  patterns : List Word
  start : Nat
  version : Nat

/-- Reads an image; its sections follow one another. -/
def readSet (bs : List Byte) : PatSet :=
  let h := toWords 8 bs
  let s := fld (wd h 0) 31 16 + 1
  let c := fld (wd h 0) 15 8 + 1
  let r := fld (wd h 1) 63 48 + 1
  let p := fld (wd h 1) 40 32 + 1
  let at1 := 64 + 4 * r
  let at2 := at1 + 2 * s * c
  let at3 := at2 + 2 * s
  { states := s, classes := c, ranges := unpack 32 (slice bs 64 (4 * r)) r, trans := unpack 16 (slice bs at1 (2 * s * c)) (s * c)
    accept := unpack 16 (slice bs at2 (2 * s)) s, patterns := toWords p (slice bs at3 (8 * p)), start := fld (wd h 1) 15 0, version := fld (wd h 0) 63 32 }

/-- The class of a token: that of the last range with FIRST not above it. -/
def PatSet.classOf (x : PatSet) (t : Nat) : Nat := ((x.ranges.filter fun r => decide (r / 4096 ≤ t)).getLastD 0) % 256

/-- The run of a STEP: the record, patterns fired with their token positions, and the prefixes that whole pages gave at those tokens. -/
structure StepRun where
  r : AutoRec
  fired : List (Nat × Nat × Nat × Nat)

/-- Advances the record by one token (R251); a fired pattern is kept with its position, STEPPED and FINGERPRINT. -/
def stepToken (x : PatSet) (ns : Nat) (a : StepRun) (t : Nat) : StepRun :=
  let pos := a.r.stepped
  let pend := a.r.pending ++ [t]
  let r := { a.r with stepped := pos + 1, pending := if pend.length = 16 then [] else pend
                      fp := if pend.length = 16 then fingerprint a.r.fp ns pend else a.r.fp }
  if r.halted then { a with r := r }
  else
    let st := x.trans.getD (r.state * x.classes + x.classOf t) 0
    let acc := x.accept.getD st 0
    { r := { r with state := st }, fired := if acc / 2 ^ 15 = 1 then a.fired ++ [(acc % 512, pos, pos + 1, r.fp)] else a.fired }

/-- What a fired pattern does at the commit (R247): the record's RETAIN and HALTED, an index entry, an event. -/
def fireActions (p : Nat) (seq : Nat) (x : PatSet) (a : AutoRec × List Effect) (f : Nat × Nat × Nat × Nat) : AutoRec × List Effect :=
  let w := wd x.patterns f.1
  let es := (if bit w 61 ∧ f.2.2.1 ≥ 16 then [Effect.indexInsert p f.2.2.2 (f.2.2.1 / 16 - 1) seq false] else [])
    ++ (if bit w 60 then [Effect.event (ownerOf p) 4 1 none seq (put 63 32 f.1 ||| put 24 0 f.2.1) (BitVec.ofNat 64 x.version) 0] else [])
  ({ a.1 with retain := if bit w 62 then fld w 55 48 else a.1.retain, halted := a.1.halted || bit w 63 }, a.2 ++ es)

/-- STEP as it runs (R244, R251, R253). -/
def stepRun (rd : HostRead) (p : Nat) (d : Desc) (s : State) : State :=
  let n := inputSize d
  let ns := fld (d.w 2) 63 32
  let seq := fld (d.w 2) 31 0
  let start := fld (d.w 7) 24 0
  if !bodyOk d.cur [allBits, 0#64, 0#64, allBits, 0#64, maskOf 24 0] then endDesc s d (stMalformed, 1)
  else if inputBreach d 5 ∨ n % 4 ≠ 0 ∨ n < 4 ∨ n > 65536 then endDesc s d (stMalformed, 3)
  else match visibleSeq (stagedView s d) p seq, d.patterns with
  | none, _ => endDesc s d (stNotOwner, 1)
  | some _, none => endDesc s d (stMalformed, 1)
  | some rec, some img =>
    if seqLost s p rec then endDesc s d (stPoisoned, 1)
    else match tileInput s d 5 rd with
    | .error e => endDesc s d e
    | .ok bs =>
      match tokensOf bs with
      | none => endDesc s d (stMalformed, 1)
      | some ts =>
        let x := readSet img.2
        let old := readAuto rec.automaton
        let fresh : AutoRec := { state := 0, retain := 0, halted := false, version := 0, ns := ns, stepped := 0, fp := 0, pending := [] }
        if start ≠ 0 ∧ (start ≠ old.stepped ∨ ns ≠ old.ns) then endDesc s d (stMalformed, 1)
        else
          let r := if start = 0 then fresh else old
          let restarted := r.version != x.version
          let r := if restarted then { r with state := x.start, halted := false } else r
          let run := ts.foldl (stepToken x ns) { r := { r with version := x.version }, fired := [] }
          let (r, es) := run.fired.foldl (fireActions p seq x) (run.r, [])
          let inserts := (es.filter fun e => match e with
            | .indexInsert _ _ _ _ _ => true
            | _ => false).length
          let d := { d.finish stDone 0 (some r.stepped) (some (b2n restarted * 2 ^ 63 + b2n r.halted * 2 ^ 62 + r.state * 2 ^ 32 + satField 32 run.fired.length)) with
                     effects := d.effects ++ [.automaton p seq (writeAuto r)] ++ es }
          putDesc s (if inserts = 0 then d else { d with phase := .running, slots := List.replicate inserts .change })

/-- STEP (R251): the automaton of a sequence advances over a tile's tokens; its changes are applied at the commit. -/
def Machine.execMatchStep (q : Nat) (i : BitVec 32) (rd : HostRead) (s : State) : Answer := matchRun s q i 0x10 [5] (stepRun rd)

/-- STATE (R242, R244, R253): the record of a sequence's automaton, to a tile and to OUT. -/
def Machine.execMatchState (q : Nat) (i : BitVec 32) (s : State) : Answer :=
  matchRun s q i 0x11 [6] fun p d s =>
    if !bodyOk d.cur [maskOf 31 0, 0#64, 0#64, allBits, allBits] then endDesc s d (stMalformed, 1)
    else if d.len ≠ 0 ∨ d.chainIn ∨ d.w 5 ≠ 0#64 then endDesc s d (stMalformed, 3)
    else match visibleSeq (stagedView s d) p (fld (d.w 2) 31 0) with
    | none => endDesc s d (stNotOwner, 1)
    | some r =>
      if seqLost s p r then endDesc s d (stPoisoned, 1)
      else
        let out := ofWords r.automaton
        match writeOut s d 6 out with
        | .error e => endDesc s d e
        | .ok s => putDesc s { d.finish stDone 0 (some (readAuto r.automaton).stepped) (some (readAuto r.automaton).fp) with output := some { bytes := out } }

/-! ### The slot stream -/

/-- Extension probes of a LOOKUP whose on-chip probes are done (R240): from the deepest page down to below the deepest hit, at most 64. -/
def extProbes (s : State) (p : Nat) (d : Desc) : List SlotOp :=
  if (extNamed s p).isNone then []
  else
    let base := fld (d.w 4) 19 0
    let fps := (unpack 64 d.held (d.held.length / 8)).mapIdx fun k f => (f, base + k)
    let deep := d.hits.foldl (fun a h => max a (h.1 + 1)) base
    ((fps.filter fun x => decide (deep ≤ x.2)).reverse.take 64).map fun x => .probeExt x.1 x.2

/-- A LOOKUP whose probes are done (R240, R241): the deepest valid hit; stale entries go, an extension hit that is chosen moves back on chip, each in a slot of
the commit. -/
def lookupEnd (s : State) (p : Nat) (d : Desc) : Desc :=
  let order := (d.hits.foldr (fun h acc => (acc.takeWhile fun x => decide (x.1 > h.1)) ++ h :: (acc.dropWhile fun x => decide (x.1 > h.1))) []).take 8
  let judge := fun (h : Nat × Nat × Nat × Nat × Bool) => match visibleSeq s p h.2.2.1 with
    | none => (true, false)
    | some r => if r.window > 0 ∨ r.minLength < 16 * (h.2.2.2.1 + 1) then (true, false) else (false, !bit (d.w 4) 62 || r.frozen)
  let before := order.takeWhile fun h => !(judge h).2
  let stale := before.filter fun h => (judge h).1
  let pick := (order.drop before.length).head?
  let promote := match pick with
    | some h => if h.2.2.2.2 then [Effect.indexPromote p h.2.1] else []
    | none => []
  let es := d.hits.map (fun h => Effect.indexHit p h.2.1) ++ stale.map (fun h => Effect.indexRemove p h.2.1 h.1) ++ promote
  let (r0, r1) := match pick with
    | some h => (16 * (h.2.2.2.1 + 1), h.2.2.1 * 2 ^ 32)
    | none => (0, 0)
  let d := { d.finish stDone 0 r0 (some (r1 + satField 16 stale.length * 2 ^ 16 + satField 16 d.probes)) with effects := d.effects ++ es }
  let n := stale.length + promote.length
  if n = 0 then d else { d with phase := .running, slots := List.replicate n .change }

/-- An entry whose PARITY fails is taken as a miss, is removed and is counted (R252). -/
def dropUpset (s : State) (p fp : Nat) : State :=
  match findEntry s p fp with
  | some (b, _) =>
    let s := modBlock s b (·.drop fp)
    { s with snare := { s.snare with removed := s.snare.removed + 1 } }
  | none => s

/-- The on-chip index as a probe leaves it (R252): whether the PARITY of the entry that it meets fails is a free value, since no row brings the upset (log
entry 31). -/
def meetEntry (s : State) (p fp : Nat) : State :=
  if (findEntry s p fp).isSome then
    let (v, s) := draw s
    if v % 2 = 1 then dropUpset s p fp else s
  else s

/-- A descriptor after one of its slots was served (R233, R252). -/
def serveSlot (s : State) (p : Nat) (d : Desc) : State :=
  match d.slots with
  | [] => s
  | op :: rest =>
    match op with
    | .change => putDesc s { d with slots := rest, phase := if rest.isEmpty then .finished else .running }
    | .probe fp page =>
      let s := meetEntry s p fp
      let hit := (findEntry s p fp).map fun e => (page, fp, e.2.seq, e.2.page, false)
      let d := { d with slots := rest, hits := d.hits ++ hit.toList, probes := d.probes + 1 }
      if rest.isEmpty then
        let more := extProbes s p d
        if more.isEmpty then putDesc s (lookupEnd s p d) else putDesc s { d with slots := more }
      else putDesc s d
    | .probeExt fp page =>
      if bucketPoisoned s p fp then endDesc s { d with slots := [] } (stPoisoned, 2)
      else
        let hit := (inBucket s p fp).map fun e => (page, fp, e.2.seq, e.2.page, true)
        let d := { d with slots := if hit.isSome then [] else rest, hits := d.hits ++ hit.toList, probes := d.probes + 1 }
        if d.slots.isEmpty then putDesc s (lookupEnd s p d) else putDesc s d

/-- SNARE_SLOT (R233, R235, R245): the slot goes round robin among partitions with work waiting, weighted by the blocks they own, and within one in dispatch
order. -/
def Machine.execSnareSlot (s : State) : Answer :=
  let wants := fun (d : Desc) => d.phase == .running && d.opcode == 0x05 && !d.slots.isEmpty
  let parts := (List.range 16).filter fun p => s.flight.any fun d => d.owner == ownerOf p && wants d
  let turn := match parts.find? fun p => decide (s.snare.taken.getD p 0 < max 1 (snareBlocks s p).length) with
    | some p => some (p, s.snare.taken.set p (s.snare.taken.getD p 0 + 1))
    | none => parts.head?.map fun p => (p, (List.replicate 16 0).set p 1)
  match turn with
  | none => .next s
  | some (p, taken) =>
    match s.flight.find? fun d => d.owner == ownerOf p && wants d with
    | none => .next s
    | some d => .next (withDoms s [3] fun s =>
        serveSlot (count { s with snare := { s.snare with taken := taken } } (ownerOf p) 14 1) p d)

/-! ### Background work -/

/-- INSERT_SHIFT (R236): the shift of the oldest insertion of a block ends, and its entry stands in its place. -/
def Machine.execInsertShift (block : Nat) (s : State) : Answer :=
  match (getBlock s block).shifting with
  | [] => .next s
  | e :: r => .next (modBlock s block fun x => { x with shifting := r, entries := placeEntry e x.entries })

/-- SNARE_BALANCE (R232): with one block of two neighbours above 7/8 full and the other below 1/2, entries move between them, keeping the order, until the fuller
one is no longer above 7/8 (how many move is not given: log entry 15). -/
def Machine.execSnareBalance (p : Fin 16) (low : Nat) (s : State) : Answer :=
  match ((snareBlocks s p).dropWhile (· != low)).take 2 with
  | [a, b] =>
    let x := getBlock s a
    let y := getBlock s b
    let n := x.entries.length
    let m := y.entries.length
    if !x.shifting.isEmpty ∨ !y.shifting.isEmpty then .next s
    else if n > 3584 ∧ m < 2048 then
      .next (modBlock (modBlock s a fun x => { x with entries := x.entries.take 3584 }) b fun y => { y with entries := x.entries.drop 3584 ++ y.entries })
    else if m > 3584 ∧ n < 2048 then
      .next (modBlock (modBlock s a fun x => { x with entries := x.entries ++ y.entries.take (m - 3584) }) b fun y => { y with entries := y.entries.drop (m - 3584) })
    else .next s
  | _ => .next s

/-- PARITY_SCAN (R238, R252): entries whose parity fails (block and position) are removed and counted; a completed pass raises the AGE of every entry. A
pattern-set word that fails is rewritten from the partition's copy, which leaves it as it was. -/
def Machine.execParityScan (upsets : List (Nat × Nat)) (passDone : Bool) (s : State) : Answer :=
  let bad := fun (b k : Nat) => upsets.contains (b, k)
  let n := (s.snare.blocks.map fun x => ((List.range x.2.entries.length).filter (bad x.1)).length).sum
  let age := fun (e : SnareEntry) => if passDone then { e with age := min 15 (e.age + 1) } else e
  let blocks := s.snare.blocks.map fun x =>
    let keep := ((x.2.entries.mapIdx fun k e => (k, e)).filter fun y => !bad x.1 y.1).map (·.2)
    (x.1, { x.2 with entries := keep.map age, shifting := x.2.shifting.map age })
  let s := { s with snare := { s.snare with blocks := blocks, removed := s.snare.removed + n, passes := s.snare.passes + b2n passDone } }
  .next (if passDone then ageExtension s else s)

/-- Lower thresholds of the throttle steps in quarter degrees (R234). -/
def throttleStep (q : Int) : Nat := if q ≥ 400 then 3 else if q ≥ 380 then 2 else if q ≥ 360 then 1 else 0

/-- SNARE_THROTTLE (R234): the step rises as soon as a threshold is passed, and falls by one after 1 ms at 3 °C or more below the lower threshold of the present
step. After a fall the 1 ms begins anew (DESIGN CHOICE, log entry 31). -/
def Machine.execSnareThrottle (quarterDeg : Int) (t : Nat) (s : State) : Answer :=
  let s := atTime s t
  let x := s.snare
  let k := throttleStep quarterDeg
  let floor : Int := if x.step = 3 then 400 else if x.step = 2 then 380 else 360
  if k > x.step then .next { s with snare := { x with step := k, coolSince := none } }
  else if x.step ≠ 0 ∧ quarterDeg ≤ floor - 12 then
    match x.coolSince with
    | none => .next { s with snare := { x with coolSince := some t } }
    | some t0 =>
      if t0 + 1000000 ≤ t then .next { s with snare := { x with step := x.step - 1, coolSince := none } } else .next s
  else .next { s with snare := { x with coolSince := none } }

/-! ### LOAD_PATTERNS -/

/-- Whether every value of an image keeps R246, its length being right. -/
def setOk (bs : List Byte) : Bool :=
  let h := toWords 8 bs
  let x := readSet bs
  let firsts := x.ranges.map (· / 4096)
  x.version != 0 && fld (wd h 0) 7 0 == 0 && fld (wd h 1) 47 41 == 0 && fld (wd h 1) 31 16 == 0 && (h.drop 2).all (· == 0#64)
    && firsts.head? == some 0 && ((firsts.zip (firsts.drop 1)).all fun y => decide (y.1 < y.2))
    && (x.ranges.all fun r => (r / 256) % 16 == 0 && decide (r % 256 < x.classes)) && (x.trans.all fun t => decide (t < x.states))
    && (x.accept.all fun a => (a / 512) % 64 == 0 && decide (a % 512 < x.patterns.length)) && decide (x.start < x.states)
    && x.patterns.all fun w => fld w 59 56 == 0 && fld w 47 0 == 0

/-- LOAD_PATTERNS as it runs (R228, R246, R248, R249): the image, read at dispatch, is checked at once; then it waits for earlier loads of the partition. -/
def loadPatternsRun (rd : HostRead) (d : Desc) (s : State) : State :=
  let len := fld (d.w 4) 31 0
  if d.len ≠ 0 ∨ !bodyOk d.cur [allBits, maskOf 11 8 ||| maskOf 4 4, maskOf 31 0] then endDesc s d (stMalformed, 1)
  else match loadPart s d with
  | .error e => endDesc s d e
  | .ok p =>
    let n := (snareBlocks s p).length
    if n = 0 then endDesc s d (stNotOwner, 3)
    else if bit (d.w 3) 4 then
      if d.w 2 ≠ 0#64 then endDesc s d (stMalformed, 1)
      else if len ≠ 0 then endDesc s d (stMalformed, 3)
      else if loadBefore s d p fun _ => true then s
      else putDesc s { d.finish stDone 0 none (some 0) with effects := d.effects ++ [.patterns p 0 [] none []] }
    else if len < 64 then endDesc s d (stMalformed, 3)
    else match earlyInput d 2 rd 1 (loadImage s d rd len) with
    | .error e => endDesc s d e
    | .ok bs =>
      let x := readSet bs
      let (sn, c, r, pn) := (x.states, x.classes, x.ranges.length, x.patterns.length)
      if len ≠ 64 + 4 * r + 2 * sn * c + 2 * sn + 8 * pn then endDesc s d (stMalformed, 3)
      else if !setOk bs then endDesc s d (stMalformed, 1)
      else if sn > 256 * n ∨ sn * c > 8192 * n ∨ r > 256 * n ∨ pn > 2 * n then endDesc s d (stMalformed, 8)
      else if loadBefore s d p fun _ => true then s
      else
        match takeRuns s p (if (getPart s p).autoTable.isEmpty then tableRuns s p else []) with
        | none => endDesc s d (stExhausted, 2)
        | some (auto, s1) =>
          match takeBlocks s1 p (ceilDiv len 4096) with
          | none => endDesc s d (stExhausted, 2)
          | some (b, s2) =>
            -- the automaton table stays with the partition from the commit of its first load on
            putDesc s2 { d.finish stDone 0 (some x.version) (some (b.count + (auto.map (·.count)).sum)) with
                         effects := d.effects ++ [.patterns p x.version bs (some b) auto]
                         blocks := if d.owner.part? = some p then b :: auto ++ d.blocks else d.blocks }

/-- LOAD_PATTERNS (R248, R249). -/
def Machine.execLoadPatterns (q : Nat) (i : BitVec 32) (rd : HostRead) (s : State) : Answer :=
  if !memActive s then .next s else stationRun s q i 0x0C 0x22 [2] (loadPatternsRun rd)

end Sys2Proof
end

