-- ==== Sys2Proof/Machine/Dispatch.lean ====
section
/-!
DEFINITION. What every command does: one arm for each constructor of Instr, each one call of the meaning that its family's file gives.
-/
namespace Sys2Proof.Machine

def exec (i : Instr) (s : State) : Host.Outcome State Fault Refusal :=
  match i with
  | .doorbellFetch o stores dbOk descOk t => Sys2Proof.Machine.execDoorbellFetch o stores dbOk descOk t s
  | .programInvoke q ix => Sys2Proof.Machine.execProgramInvoke q ix s
  | .programStep q ix => Sys2Proof.Machine.execProgramStep q ix s
  | .descriptorCommit q ix t => Sys2Proof.Machine.execDescriptorCommit q ix t s
  | .copy q ix rd => Sys2Proof.Machine.execCopy q ix rd s
  | .fence q ix => Sys2Proof.Machine.execFence q ix s
  | .abort q ix t => Sys2Proof.Machine.execAbort q ix t s
  | .loadProgram q ix rd => Sys2Proof.Machine.execLoadProgram q ix rd s
  | .unloadProgram q ix => Sys2Proof.Machine.execUnloadProgram q ix s
  | .setMode q ix => Sys2Proof.Machine.execSetMode q ix s
  | .modeCapsApplied q ix t => Sys2Proof.Machine.execModeCapsApplied q ix t s
  | .peakEnter q ix t => Sys2Proof.Machine.execPeakEnter q ix t s
  | .peakEnd q ix t => Sys2Proof.Machine.execPeakEnd q ix t s
  | .peakExpire t => Sys2Proof.Machine.execPeakExpire t s
  | .powerState q ix => Sys2Proof.Machine.execPowerState q ix s
  | .create q ix => Sys2Proof.Machine.execCreate q ix s
  | .append q ix => Sys2Proof.Machine.execAppend q ix s
  | .truncate q ix => Sys2Proof.Machine.execTruncate q ix s
  | .fork q ix => Sys2Proof.Machine.execFork q ix s
  | .placeFree q ix => Sys2Proof.Machine.execPlaceFree q ix s
  | .freeze q ix => Sys2Proof.Machine.execFreeze q ix s
  | .thaw q ix => Sys2Proof.Machine.execThaw q ix s
  | .restore q ix => Sys2Proof.Machine.execRestore q ix s
  | .query q ix => Sys2Proof.Machine.execQuery q ix s
  | .addExtent q ix => Sys2Proof.Machine.execAddExtent q ix s
  | .removeExtent q ix => Sys2Proof.Machine.execRemoveExtent q ix s
  | .sequenceLockGrant q ix => Sys2Proof.Machine.execSequenceLockGrant q ix s
  | .pinRelease q ix page => Sys2Proof.Machine.execPinRelease q ix page s
  | .attend q ix => Sys2Proof.Machine.execAttend q ix s
  | .walkStart q ix t => Sys2Proof.Machine.execWalkStart q ix t s
  | .chunkStart u t => Sys2Proof.Machine.execChunkStart u t s
  | .chunkEnd u transient uncorrectable t => Sys2Proof.Machine.execChunkEnd u transient uncorrectable t s
  | .refreshDue u => Sys2Proof.Machine.execRefreshDue u s
  | .hubFold q ix hub => Sys2Proof.Machine.execHubFold q ix hub s
  | .progressRecord q ix t => Sys2Proof.Machine.execProgressRecord q ix t s
  | .reseal q ix => Sys2Proof.Machine.execReseal q ix s
  | .resealStart q ix => Sys2Proof.Machine.execResealStart q ix s
  | .resealDone q ix badRows => Sys2Proof.Machine.execResealDone q ix badRows s
  | .bankPairFence u t => Sys2Proof.Machine.execBankPairFence u t s
  | .merge q ix rd => Sys2Proof.Machine.execMerge q ix rd s
  | .foldExact q ix rd => Sys2Proof.Machine.execFoldExact q ix rd s
  | .batch q ix rd => Sys2Proof.Machine.execBatch q ix rd s
  | .exactPageRead q ix k transient uncorrectable t => Sys2Proof.Machine.execExactPageRead q ix k transient uncorrectable t s
  | .corePage q ix k mismatch => Sys2Proof.Machine.execCorePage q ix k mismatch s
  | .pieceMove core => Sys2Proof.Machine.execPieceMove core s
  | .coreFence core t => Sys2Proof.Machine.execCoreFence core t s
  | .spareAssign core => Sys2Proof.Machine.execSpareAssign core s
  | .quantise q ix rd => Sys2Proof.Machine.execQuantise q ix rd s
  | .measure q ix rd => Sys2Proof.Machine.execMeasure q ix rd s
  | .encode q ix rd => Sys2Proof.Machine.execEncode q ix rd s
  | .decode q ix rd => Sys2Proof.Machine.execDecode q ix rd s
  | .ingestCheck q ix rd => Sys2Proof.Machine.execIngestCheck q ix rd s
  | .histogram q ix rd => Sys2Proof.Machine.execHistogram q ix rd s
  | .ingestUnit lane => Sys2Proof.Machine.execIngestUnit lane s
  | .loadScaleTable q ix rd => Sys2Proof.Machine.execLoadScaleTable q ix rd s
  | .loadDecodeTable q ix rd => Sys2Proof.Machine.execLoadDecodeTable q ix rd s
  | .loadPatterns q ix rd => Sys2Proof.Machine.execLoadPatterns q ix rd s
  | .lookup q ix rd => Sys2Proof.Machine.execLookup q ix rd s
  | .insert q ix rd => Sys2Proof.Machine.execInsert q ix rd s
  | .remove q ix rd => Sys2Proof.Machine.execRemove q ix rd s
  | .fingerprint q ix rd => Sys2Proof.Machine.execFingerprint q ix rd s
  | .matchStep q ix rd => Sys2Proof.Machine.execMatchStep q ix rd s
  | .matchState q ix => Sys2Proof.Machine.execMatchState q ix s
  | .snareSlot => Sys2Proof.Machine.execSnareSlot s
  | .insertShift block => Sys2Proof.Machine.execInsertShift block s
  | .snareBalance p low => Sys2Proof.Machine.execSnareBalance p low s
  | .parityScan upsets passDone => Sys2Proof.Machine.execParityScan upsets passDone s
  | .snareThrottle quarterDeg t => Sys2Proof.Machine.execSnareThrottle quarterDeg t s
  | .attendReq p t => Sys2Proof.Machine.execAttendReq p t s
  | .memberReq p t => Sys2Proof.Machine.execMemberReq p t s
  | .memberReply p t => Sys2Proof.Machine.execMemberReply p t s
  | .attendReply p t => Sys2Proof.Machine.execAttendReply p t s
  | .fabricDeadline p id t => Sys2Proof.Machine.execFabricDeadline p id t s
  | .fabricReplyTimeout q ix t => Sys2Proof.Machine.execFabricReplyTimeout q ix t s
  | .spreadSet p => Sys2Proof.Machine.execSpreadSet p s
  | .handoffReq p t => Sys2Proof.Machine.execHandoffReq p t s
  | .offer p t => Sys2Proof.Machine.execOffer p t s
  | .ready p t => Sys2Proof.Machine.execReady p t s
  | .refuse p t => Sys2Proof.Machine.execRefuse p t s
  | .pages p t => Sys2Proof.Machine.execPages p t s
  | .accept p t => Sys2Proof.Machine.execAccept p t s
  | .commit p t => Sys2Proof.Machine.execCommit p t s
  | .commitAck p t => Sys2Proof.Machine.execCommitAck p t s
  | .commitNak p t => Sys2Proof.Machine.execCommitNak p t s
  | .abandon p t => Sys2Proof.Machine.execAbandon p t s
  | .leaseTimerExpire p seq t => Sys2Proof.Machine.execLeaseTimerExpire p seq t s
  | .holdTimerExpire p seq t => Sys2Proof.Machine.execHoldTimerExpire p seq t s
  | .pendingIdleExpire p seq t => Sys2Proof.Machine.execPendingIdleExpire p seq t s
  | .escrowCommitResend p seq t => Sys2Proof.Machine.execEscrowCommitResend p seq t s
  | .lossNotice o m t => Sys2Proof.Machine.execLossNotice o m t s
  | .message q ix rd => Sys2Proof.Machine.execMessage q ix rd s
  | .write q ix rd => Sys2Proof.Machine.execWrite q ix rd s
  | .read q ix => Sys2Proof.Machine.execRead q ix s
  | .fabric q ix rd => Sys2Proof.Machine.execFabric q ix rd s
  | .qpSetup q ix => Sys2Proof.Machine.execQpSetup q ix s
  | .qpModifyError q ix => Sys2Proof.Machine.execQpModifyError q ix s
  | .qpModifyDrain q ix => Sys2Proof.Machine.execQpModifyDrain q ix s
  | .qpModifyReset q ix => Sys2Proof.Machine.execQpModifyReset q ix s
  | .qpModifyRekey q ix t => Sys2Proof.Machine.execQpModifyRekey q ix t s
  | .qpModifyLanes q ix => Sys2Proof.Machine.execQpModifyLanes q ix s
  | .qpDestroy q ix => Sys2Proof.Machine.execQpDestroy q ix s
  | .qpQuery q ix => Sys2Proof.Machine.execQpQuery q ix s
  | .post q ix => Sys2Proof.Machine.execPost q ix s
  | .messageStart qpn t => Sys2Proof.Machine.execMessageStart qpn t s
  | .sequencedPacketReceive k t => Sys2Proof.Machine.execSequencedPacketReceive k t s
  | .ackReceive k t => Sys2Proof.Machine.execAckReceive k t s
  | .nakReceive k t => Sys2Proof.Machine.execNakReceive k t s
  | .laneSyncReceive k => Sys2Proof.Machine.execLaneSyncReceive k s
  | .laneSyncReplyReceive k t => Sys2Proof.Machine.execLaneSyncReplyReceive k t s
  | .cancelReceive k t => Sys2Proof.Machine.execCancelReceive k t s
  | .ackTimer qpn lane space t => Sys2Proof.Machine.execAckTimer qpn lane space t s
  | .retryTimerExpire qpn lane space t => Sys2Proof.Machine.execRetryTimerExpire qpn lane space t s
  | .laneSyncRetry qpn lane t => Sys2Proof.Machine.execLaneSyncRetry qpn lane t s
  | .rnrWaitExpire qpn lane space t => Sys2Proof.Machine.execRnrWaitExpire qpn lane space t s
  | .contextFetchDone qpn authOk t => Sys2Proof.Machine.execContextFetchDone qpn authOk t s
  | .oldKeyDrop qpn t => Sys2Proof.Machine.execOldKeyDrop qpn t s
  | .rocePacketReceive k t => Sys2Proof.Machine.execRocePacketReceive k t s
  | .packetForward port f => Sys2Proof.Machine.execPacketForward port f s
  | .frameTransmit port link cls t => Sys2Proof.Machine.execFrameTransmit port link cls t s
  | .frameDiscard port link b => Sys2Proof.Machine.execFrameDiscard port link b s
  | .pauseReceive port link cls quanta t => Sys2Proof.Machine.execPauseReceive port link cls quanta t s
  | .pauseRefresh port link cls => Sys2Proof.Machine.execPauseRefresh port link cls s
  | .remotePauseLimit port link cls t => Sys2Proof.Machine.execRemotePauseLimit port link cls t s
  | .ownPauseLimit port link cls t => Sys2Proof.Machine.execOwnPauseLimit port link cls t s
  | .phyUp port link t => Sys2Proof.Machine.execPhyUp port link t s
  | .phyDown port link t => Sys2Proof.Machine.execPhyDown port link t s
  | .lldpSend port link t => Sys2Proof.Machine.execLldpSend port link t s
  | .lldpReceive port link v t => Sys2Proof.Machine.execLldpReceive port link v t s
  | .lldpTtlExpire port link t => Sys2Proof.Machine.execLldpTtlExpire port link t s
  | .linkReturn port link t => Sys2Proof.Machine.execLinkReturn port link t s
  | .shaperRefill t => Sys2Proof.Machine.execShaperRefill t s
  | .gateEntryAdvance port t => Sys2Proof.Machine.execGateEntryAdvance port t s
  | .gateTakeover port t => Sys2Proof.Machine.execGateTakeover port t s
  | .gateArm port countM1 t => Sys2Proof.Machine.execGateArm port countM1 t s
  | .gateClear port countM1 => Sys2Proof.Machine.execGateClear port countM1 s
  | .cxlMemRead ld addr => Sys2Proof.Machine.execCxlMemRead ld addr s
  | .cxlMemWrite ld addr data mask poison => Sys2Proof.Machine.execCxlMemWrite ld addr data mask poison s
  | .cxlMemOtherOpcode ld addr withData => Sys2Proof.Machine.execCxlMemOtherOpcode ld addr withData s
  | .ldRateRelease ld t => Sys2Proof.Machine.execLdRateRelease ld t s
  | .configRequest o reg wr => Sys2Proof.Machine.execConfigRequest o reg wr s
  | .hdmDecoderCommit ld d base size skip ways gran => Sys2Proof.Machine.execHdmDecoderCommit ld d base size skip ways gran s
  | .windowModeWrite p slot mode t => Sys2Proof.Machine.execWindowModeWrite p slot mode t s
  | .windowDrainDone p slot t => Sys2Proof.Machine.execWindowDrainDone p slot t s
  | .extentAssign q ix => Sys2Proof.Machine.execExtentAssign q ix s
  | .extentRevoke q ix t => Sys2Proof.Machine.execExtentRevoke q ix t s
  | .revokeDrainDone q ix => Sys2Proof.Machine.execRevokeDrainDone q ix s
  | .extentClearDone e => Sys2Proof.Machine.execExtentClearDone e s
  | .identifyMemoryDevice o => Sys2Proof.Machine.execIdentifyMemoryDevice o s
  | .getHealthInfo o => Sys2Proof.Machine.execGetHealthInfo o s
  | .getEventRecords o log => Sys2Proof.Machine.execGetEventRecords o log s
  | .clearEventRecords o log handles => Sys2Proof.Machine.execClearEventRecords o log handles s
  | .getPoisonList o start len => Sys2Proof.Machine.execGetPoisonList o start len s
  | .injectPoison o dpa => Sys2Proof.Machine.execInjectPoison o dpa s
  | .clearPoison o dpa data => Sys2Proof.Machine.execClearPoison o dpa data s
  | .getSupportedLogs o => Sys2Proof.Machine.execGetSupportedLogs o s
  | .getLog o log off len => Sys2Proof.Machine.execGetLog o log off len s
  | .getTimestamp o => Sys2Proof.Machine.execGetTimestamp o s
  | .unsupportedCommand o code => Sys2Proof.Machine.execUnsupportedCommand o code s
  | .setQosAllocatedBw start vals => Sys2Proof.Machine.execSetQosAllocatedBw start vals s
  | .setQosBwLimit start vals => Sys2Proof.Machine.execSetQosBwLimit start vals s
  | .identify o m => Sys2Proof.Machine.execIdentify o m s
  | .time o m t => Sys2Proof.Machine.execTime o m t s
  | .logRead o m => Sys2Proof.Machine.execLogRead o m s
  | .certGet o m => Sys2Proof.Machine.execCertGet o m s
  | .attest o m t => Sys2Proof.Machine.execAttest o m t s
  | .sessionOpen o m t => Sys2Proof.Machine.execSessionOpen o m t s
  | .keyInstall o m => Sys2Proof.Machine.execKeyInstall o m s
  | .keyRemove o m => Sys2Proof.Machine.execKeyRemove o m s
  | .regionPublish o m => Sys2Proof.Machine.execRegionPublish o m s
  | .regionQuery o m => Sys2Proof.Machine.execRegionQuery o m s
  | .fwStage o m => Sys2Proof.Machine.execFwStage o m s
  | .fwVerify o m => Sys2Proof.Machine.execFwVerify o m s
  | .fwActivate o m => Sys2Proof.Machine.execFwActivate o m s
  | .fwPersist o m => Sys2Proof.Machine.execFwPersist o m s
  | .fwStatus o m => Sys2Proof.Machine.execFwStatus o m s
  | .rollbackAdvance o m => Sys2Proof.Machine.execRollbackAdvance o m s
  | .attachState o m => Sys2Proof.Machine.execAttachState o m s
  | .mailboxFence o m t => Sys2Proof.Machine.execMailboxFence o m t s
  | .fwVerifyDone sigOk => Sys2Proof.Machine.execFwVerifyDone sigOk s
  | .fwActivateStep t => Sys2Proof.Machine.execFwActivateStep t s
  | .fwPauseTimeout t => Sys2Proof.Machine.execFwPauseTimeout t s
  | .fwPersistDone => Sys2Proof.Machine.execFwPersistDone s
  | .rollbackBurnDone => Sys2Proof.Machine.execRollbackBurnDone s
  | .watchdogExpire x t => Sys2Proof.Machine.execWatchdogExpire x t s
  | .processorRestartDone x => Sys2Proof.Machine.execProcessorRestartDone x s
  | .heartbeatRead o stores ok t => Sys2Proof.Machine.execHeartbeatRead o stores ok t s
  | .drainObject q ix rd t => Sys2Proof.Machine.execDrainObject q ix rd t s
  | .delete q ix t => Sys2Proof.Machine.execDelete q ix t s
  | .stepSetup q ix => Sys2Proof.Machine.execStepSetup q ix s
  | .stepPublish q ix => Sys2Proof.Machine.execStepPublish q ix s
  | .stepDrain q ix t => Sys2Proof.Machine.execStepDrain q ix t s
  | .stepOpen q ix => Sys2Proof.Machine.execStepOpen q ix s
  | .stepRelease q ix => Sys2Proof.Machine.execStepRelease q ix s
  | .liftObject q ix t => Sys2Proof.Machine.execLiftObject q ix t s
  | .stat q ix => Sys2Proof.Machine.execStat q ix s
  | .stepRestore q ix t => Sys2Proof.Machine.execStepRestore q ix t s
  | .stepQuery q ix => Sys2Proof.Machine.execStepQuery q ix s
  | .nvmeCompletion q ix read us t => Sys2Proof.Machine.execNvmeCompletion q ix read us t s
  | .stepDrainObjectDone q ix k ok t => Sys2Proof.Machine.execStepDrainObjectDone q ix k ok t s
  | .liftUnitDone q ix k unit ok t => Sys2Proof.Machine.execLiftUnitDone q ix k unit ok t s
  | .tierPathDone q ix k ok t => Sys2Proof.Machine.execTierPathDone q ix k ok t s
  | .flashDeadline q ix t => Sys2Proof.Machine.execFlashDeadline q ix t s
  | .flashShareWindow t => Sys2Proof.Machine.execFlashShareWindow t s
  | .wearBucketRefill d t => Sys2Proof.Machine.execWearBucketRefill d t s
  | .driveIdentified d usable blocks => Sys2Proof.Machine.execDriveIdentified d usable blocks s
  | .driveFailed d removed => Sys2Proof.Machine.execDriveFailed d removed s
  | .driveTimeout d link => Sys2Proof.Machine.execDriveTimeout d link s
  | .partitionCreate q ix rd t => Sys2Proof.Machine.execPartitionCreate q ix rd t s
  | .partitionLock q ix => Sys2Proof.Machine.execPartitionLock q ix s
  | .partitionRemove q ix t => Sys2Proof.Machine.execPartitionRemove q ix t s
  | .egressDrainEnd p t => Sys2Proof.Machine.execEgressDrainEnd p t s
  | .scrubComplete p t => Sys2Proof.Machine.execScrubComplete p t s
  | .encapKeyExpire report t => Sys2Proof.Machine.execEncapKeyExpire report t s
  | .damperTick inp t => Sys2Proof.Machine.execDamperTick inp t s
  | .levelStep t => Sys2Proof.Machine.execLevelStep t s
  | .currentClamp milliA t => Sys2Proof.Machine.execCurrentClamp milliA t s
  | .thermalClampStep r t => Sys2Proof.Machine.execThermalClampStep r t s
  | .thermalTrip r => Sys2Proof.Machine.execThermalTrip r s
  | .hubTempRead hub temps => Sys2Proof.Machine.execHubTempRead hub temps s
  | .domainWakeDone d t => Sys2Proof.Machine.execDomainWakeDone d t s
  | .domainIdleReturn d t => Sys2Proof.Machine.execDomainIdleReturn d t s
  | .transferCheckFail link lane fails e off t => Sys2Proof.Machine.execTransferCheckFail link lane fails e off t s
  | .eccError space addr uncorrectable t => Sys2Proof.Machine.execEccError space addr uncorrectable t s
  | .laneSpare link module inward => Sys2Proof.Machine.execLaneSpare link module inward s
  | .linkModuleFence link module t => Sys2Proof.Machine.execLinkModuleFence link module t s
  | .pseudoChannelFence c t => Sys2Proof.Machine.execPseudoChannelFence c t s
  | .fenceRecordWrite => Sys2Proof.Machine.execFenceRecordWrite s
  | .nodeFault powerKept => Sys2Proof.Machine.execNodeFault powerKept s
  | .ref100Loss t => Sys2Proof.Machine.execRef100Loss t s
  | .pwrMate => Sys2Proof.Machine.execPwrMate s
  | .powerGood recovery addr0 addr1 => Sys2Proof.Machine.execPowerGood recovery addr0 addr1 s
  | .inputBrownout => Sys2Proof.Machine.execInputBrownout s
  | .inputOvervoltage => Sys2Proof.Machine.execInputOvervoltage s
  | .inputUndervoltage => Sys2Proof.Machine.execInputUndervoltage s
  | .inputOvercurrent => Sys2Proof.Machine.execInputOvercurrent s
  | .inputLatchReleaseLow => Sys2Proof.Machine.execInputLatchReleaseLow s
  | .fuseReadDone entropy => Sys2Proof.Machine.execFuseReadDone entropy s
  | .railsRamped => Sys2Proof.Machine.execRailsRamped s
  | .perstRelease t => Sys2Proof.Machine.execPerstRelease t s
  | .cxlLinkTrained alternate direct width gts => Sys2Proof.Machine.execCxlLinkTrained alternate direct width gts s
  | .imagesVerified okA okB => Sys2Proof.Machine.execImagesVerified okA okB s
  | .processorsReleased => Sys2Proof.Machine.execProcessorsReleased s
  | .hbmTrained failed => Sys2Proof.Machine.execHbmTrained failed s
  | .startupClearDone badCores badUnits badModules => Sys2Proof.Machine.execStartupClearDone badCores badUnits badModules s
  | .memoryActive t => Sys2Proof.Machine.execMemoryActive t s
  | .perstAssert => Sys2Proof.Machine.execPerstAssert s
  | .resetPinRelease lowUs => Sys2Proof.Machine.execResetPinRelease lowUs s
  | .resetLatchRelease => Sys2Proof.Machine.execResetLatchRelease s
  | .functionReset who => Sys2Proof.Machine.execFunctionReset who s
  | .ringEnable o => Sys2Proof.Machine.execRingEnable o s
  | .ringDisable o => Sys2Proof.Machine.execRingDisable o s
  | .ringReset o => Sys2Proof.Machine.execRingReset o s
  | .ringReattach o cfg => Sys2Proof.Machine.execRingReattach o cfg s
  | .portLinkEnable port link => Sys2Proof.Machine.execPortLinkEnable port link s
  | .portLinkDisable port link t => Sys2Proof.Machine.execPortLinkDisable port link t s
  | .portDownClear port mask t => Sys2Proof.Machine.execPortDownClear port mask t s
  | .snareBlockRelease b => Sys2Proof.Machine.execSnareBlockRelease b s
  | .snareExtChange p v => Sys2Proof.Machine.execSnareExtChange p v s
  | .flashSpillSlotsWrite p slots => Sys2Proof.Machine.execFlashSpillSlotsWrite p slots s
  | .driveCfgWrite d v => Sys2Proof.Machine.execDriveCfgWrite d v s
  | .nodeIdWrite v => Sys2Proof.Machine.execNodeIdWrite v s
  | .forwardingEntryWrite n v => Sys2Proof.Machine.execForwardingEntryWrite n v s
  | .foreignEntryWrite e v => Sys2Proof.Machine.execForeignEntryWrite e v s
  | .shadowEnable p k v => Sys2Proof.Machine.execShadowEnable p k v s
  | .msixUnmask o v => Sys2Proof.Machine.execMsixUnmask o v s
  | .registerWrite o bar0 off size v t => Sys2Proof.Machine.execRegisterWrite o bar0 off size v t s
  | .registerReadLowerHalf o bar0 off => Sys2Proof.Machine.execRegisterReadLowerHalf o bar0 off s
  | .monitorHelp => Sys2Proof.Machine.execMonitorHelp s
  | .monitorVer => Sys2Proof.Machine.execMonitorVer s
  | .monitorStatus => Sys2Proof.Machine.execMonitorStatus s
  | .monitorTemp => Sys2Proof.Machine.execMonitorTemp s
  | .monitorPower => Sys2Proof.Machine.execMonitorPower s
  | .monitorTime => Sys2Proof.Machine.execMonitorTime s
  | .monitorLog => Sys2Proof.Machine.execMonitorLog s
  | .monitorBaud n => Sys2Proof.Machine.execMonitorBaud n s
  | .monitorFw => Sys2Proof.Machine.execMonitorFw s
  | .monitorHbm => Sys2Proof.Machine.execMonitorHbm s
  | .peek off => Sys2Proof.Machine.execPeek off s
  | .poke off v t => Sys2Proof.Machine.execPoke off v t s
  | .fuseShow => Sys2Proof.Machine.execFuseShow s
  | .fuseLoad k v => Sys2Proof.Machine.execFuseLoad k v s
  | .fuseBurn readBackOk => Sys2Proof.Machine.execFuseBurn readBackOk s
  | .fuseLifeProduction => Sys2Proof.Machine.execFuseLifeProduction s
  | .monitorResetCold => Sys2Proof.Machine.execMonitorResetCold s
  | .monitorResetWarm => Sys2Proof.Machine.execMonitorResetWarm s
  | .monitorUnknown => Sys2Proof.Machine.execMonitorUnknown s
  | .uartBreak => Sys2Proof.Machine.execUartBreak s
  | .loaderHelp => Sys2Proof.Machine.execLoaderHelp s
  | .loaderId => Sys2Proof.Machine.execLoaderId s
  | .loaderBaud n => Sys2Proof.Machine.execLoaderBaud n s
  | .key => Sys2Proof.Machine.execKey s
  | .image kind n => Sys2Proof.Machine.execImage kind n s
  | .loaderWrite sigOk => Sys2Proof.Machine.execLoaderWrite sigOk s
  | .challenge v => Sys2Proof.Machine.execChallenge v s
  | .loaderReturn => Sys2Proof.Machine.execLoaderReturn s
  | .loaderBlock data crc sigOk => Sys2Proof.Machine.execLoaderBlock data crc sigOk s
  | .loaderUnknown => Sys2Proof.Machine.execLoaderUnknown s
  | .smbStatus => Sys2Proof.Machine.execSmbStatus s
  | .smbLifecycle => Sys2Proof.Machine.execSmbLifecycle s
  | .smbPower => Sys2Proof.Machine.execSmbPower s
  | .smbTemp => Sys2Proof.Machine.execSmbTemp s
  | .smbLevel => Sys2Proof.Machine.execSmbLevel s
  | .smbAlertCause => Sys2Proof.Machine.execSmbAlertCause s
  | .smbVariant => Sys2Proof.Machine.execSmbVariant s
  | .smbIdentity => Sys2Proof.Machine.execSmbIdentity s
  | .smbAlertResponse => Sys2Proof.Machine.execSmbAlertResponse s
  | .smbUnknown code => Sys2Proof.Machine.execSmbUnknown code s
  | .handoffMemoryExpire p sender id t => Sys2Proof.Machine.execHandoffMemoryExpire p sender id t s
  | .pauseTimeExpire port link cls t => Sys2Proof.Machine.execPauseTimeExpire port link cls t s
  | .cxlLinkDown => Sys2Proof.Machine.execCxlLinkDown s
  | .fmApiCommand code body => Sys2Proof.Machine.execFmApiCommand code body s
  | .snareBlockClearDone b => Sys2Proof.Machine.execSnareBlockClearDone b s
  | .keyJournalErase => Sys2Proof.Machine.execKeyJournalErase s
  | .aux3v3Loss => Sys2Proof.Machine.execAux3v3Loss s

end Sys2Proof.Machine
end

