-- ==== Sys2Proof/Machine/Step.lean ====
section
/-!
DEFINITION. One step of the block: the command at the front of the queue, or, on an empty queue, one period of the 100 MHz reference
(R23, log entry 7).
-/
namespace Sys2Proof

/-- One step. -/
def Machine.step (s : Machine.State) : Host.Outcome Machine.State Machine.Fault Machine.Refusal :=
  match s.pending with
  | [] => .next (tick s)
  | c :: rest => Machine.exec c { s with pending := rest }

/-- The state with the command that a word spells put at the front of its queue. -/
def Machine.State.withFetchWord (s : Machine.State) (nbits w : Nat) : Machine.State :=
  match decodeTableWord nbits w with
  | none => s
  | some c => { s with pending := c :: s.pending }

end Sys2Proof
end

