-- ==== Sys2Proof/Safety.lean ====
section
/-!
DEFINITION. What claims about a run are stated in: the parts of the state and which of them a command leaves as they were, the shape that every state keeps, and what
no command may do to the fuses.
-/
namespace Sys2Proof

open Machine (State Fault Refusal)

/-! ### Frames -/

/-- The parts of a state, one for each field but the queue. -/
inductive Part where
  | time | timeOn | free | out | host | hbm | staging | hbmPoison | openPoison | stagingPoison
  | poisonOverflow | owners | parts | contexts | flight | extents | frames | words | units | sweepWindow
  | sweepUsed | exactWindow | exactUsed | cores | coreMap | turns | snare | fabric | net | ports
  | cxl | flash | fw | belfry | power | faults | boot | serial
deriving DecidableEq, Repr

/-- The place of a part in a set of parts. -/
def Part.idx : Part → Nat
  | .time => 0 | .timeOn => 1 | .free => 2 | .out => 3 | .host => 4 | .hbm => 5
  | .staging => 6 | .hbmPoison => 7 | .openPoison => 8 | .stagingPoison => 9 | .poisonOverflow => 10 | .owners => 11
  | .parts => 12 | .contexts => 13 | .flight => 14 | .extents => 15 | .frames => 16 | .words => 17
  | .units => 18 | .sweepWindow => 19 | .sweepUsed => 20 | .exactWindow => 21 | .exactUsed => 22 | .cores => 23
  | .coreMap => 24 | .turns => 25 | .snare => 26 | .fabric => 27 | .net => 28 | .ports => 29
  | .cxl => 30 | .flash => 31 | .fw => 32 | .belfry => 33 | .power => 34 | .faults => 35
  | .boot => 36 | .serial => 37

/-- Whether two states agree in a part. -/
def Part.same (s t : State) : Part → Prop
  | .time => t.time = s.time | .timeOn => t.timeOn = s.timeOn | .free => t.free = s.free | .out => t.out = s.out
  | .host => t.host = s.host | .hbm => t.hbm = s.hbm | .staging => t.staging = s.staging | .hbmPoison => t.hbmPoison = s.hbmPoison
  | .openPoison => t.openPoison = s.openPoison | .stagingPoison => t.stagingPoison = s.stagingPoison | .poisonOverflow => t.poisonOverflow = s.poisonOverflow | .owners => t.owners = s.owners
  | .parts => t.parts = s.parts | .contexts => t.contexts = s.contexts | .flight => t.flight = s.flight | .extents => t.extents = s.extents
  | .frames => t.frames = s.frames | .words => t.words = s.words | .units => t.units = s.units | .sweepWindow => t.sweepWindow = s.sweepWindow
  | .sweepUsed => t.sweepUsed = s.sweepUsed | .exactWindow => t.exactWindow = s.exactWindow | .exactUsed => t.exactUsed = s.exactUsed | .cores => t.cores = s.cores
  | .coreMap => t.coreMap = s.coreMap | .turns => t.turns = s.turns | .snare => t.snare = s.snare | .fabric => t.fabric = s.fabric
  | .net => t.net = s.net | .ports => t.ports = s.ports | .cxl => t.cxl = s.cxl | .flash => t.flash = s.flash
  | .fw => t.fw = s.fw | .belfry => t.belfry = s.belfry | .power => t.power = s.power | .faults => t.faults = s.faults
  | .boot => t.boot = s.boot | .serial => t.serial = s.serial

/-- A set of parts as the bits of a number. -/
def partSet (ps : List Part) : Nat := ps.foldl (fun a p => a ||| 2 ^ p.idx) 0

/-- Every part outside a set is as it was. -/
def SameBut (F : Nat) (s t : State) : Prop := ∀ p : Part, F.testBit p.idx = false → p.same s t

/-! ### The shape of a state -/

/-- The shape of a state: the three memories are in canonical form, and the node has its seventeen owners, sixteen partitions, sixty-eight cores and 159 domains
(R168, R409, R487). -/
structure Shape (s : State) : Prop where
  host : Memory.wf s.host = true
  hbm : Memory.wf s.hbm = true
  staging : Memory.wf s.staging = true
  owners : s.owners.length = 17
  parts : s.parts.length = 16
  cores : s.cores.length = 68
  domains : s.power.domains.length = 159

/-! ### The fuses -/

/-- What burning may do to the fuse array (R543, R544, R546, R548): IDENTITY, IMAGE_KEY, LIMITS and HBM repair stay, no burnt bit of SEED, SEED_CHECK, LIFECYCLE or a
rollback counter clears, and a generation record that has a bit burnt stays. -/
structure FusesKept (f g : Fuses) : Prop where
  identity : g.identity = f.identity
  imageKey : g.imageKey = f.imageKey
  limits : g.limits = f.limits
  repair : g.repair = f.repair
  seed : ∀ k, k < 256 → f.seed.testBit k = true → g.seed.testBit k = true
  seedCheck : ∀ k, f.seedCheck.testBit k = true → g.seedCheck.testBit k = true
  lifecycle : ∀ k, f.lifecycle.testBit k = true → g.lifecycle.testBit k = true
  rollback0 : ∀ k, f.rollback0.testBit k = true → g.rollback0.testBit k = true
  rollback1 : ∀ k, f.rollback1.testBit k = true → g.rollback1.testBit k = true
  gens : ∀ (k : Nat) (r : GenRec), f.gens[k]? = some r → r.burnt = true → g.gens[k]? = some r

/-! ### When a command has its own effect -/

/-- A mailbox message meets none of the refusals of R441, R447, R450 and R462, and acts for an owner: the mailboxes run, its function is presented, its partition is not
SCRUBBING, the processor that serves its TYPE is there and not fenced, and R450 finds nothing wrong with it. -/
structure Heard (s : State) (o : Owner) (typ : Nat) (m : MboxMsg) (from_ : MboxFrom) (fits : Bool) (a : Owner) : Prop where
  up : mailboxUp s = true
  actor : mboxActor s o m = some a
  quiet : scrubbing s a = false
  served : ∀ x, mboxServer s typ = some x → procAway s x = false ∧ (s.fw.procs.getD x {}).fenced = false
  sound : mboxCheck m s.cxl.direct a from_ fits = none

/-- The domains that a station's operation needs: those of the places that its body words name, and the staging banks for a chained tile (R488). -/
def needs (s : State) (d : Desc) (ks : List Nat) : List Nat :=
  (wordLocs s d ks).flatMap Loc.doms ++ (if d.chainIn then (Loc.staging 0 0).doms else [])

/-- A station takes a descriptor now: it is ready and names the operation, no word of its body names HBM before Memory_Active (R533), a bank pair that runs a chunk (R114) or a unit of a step-state
region that has still to be lifted (R400), and the domains that it needs are ON. -/
structure Taken (s : State) (q : Nat) (i : BitVec 32) (opcode subop : Nat) (ks : List Nat) (d : Desc) : Prop where
  ready : stationDesc s q i opcode subop = some d
  onTime : ((wordLocs s d ks).any fun l => l.early s) = false
  idle : ((wordLocs s d ks).any fun l => l.busy s d.len) = false
  lifted : ((wordLocs s d ks).any fun l => l.regionReads s d.len == .waits) = false
  awake : domsOn s (needs s d ks) = true

/-- The PLACE station takes a descriptor of a partition now: it is ready and names the operation, HBM is in service, its locks are granted, its body keeps the reserved bits,
LEN is 0, and it needs no lost sequence (R88, R91, R94, R518). -/
structure AtPlace (s : State) (q : Nat) (i : BitVec 32) (subop : Nat) (masks : List Word) (p : Fin 16) (d : Desc) : Prop where
  ready : stationDesc s q i 0x02 subop = some d
  owner : d.owner = .part p
  active : memActive s = true
  locked : d.locked = true
  body : bodyOk d.cur masks = true
  bare : d.len = 0
  found : placeLost s p d subop = false

/-- A packet gets through to its queue pair now: the node has its ID, the port keeps the packet, it meets the admission rules, and its queue pair is resident and not in ERROR
(R283, R290, R294, R300, R303). -/
structure Admitted (s : State) (k : Packet) (n : Nat) (q : Qp) : Prop where
  valid : s.ports.nodeValid = true
  kept : portDiscard s k.lane k.link (if k.typ.inRequest then reqClass s else respClass s) k.wire = none
  found : admission s k = .ok (n, q)
  resident : q.ctx ≠ none
  live : q.state ≠ .error

/-- A RoCEv2 packet gets through to its queue pair: the node has its ID, the port keeps the packet, and it comes to an endpoint of the node whose partition is neither
ABSENT nor SCRUBBING (R283, R290, R324, R327, R440). -/
structure RoceKept (s : State) (k : RocePacket) : Prop where
  valid : s.ports.nodeValid = true
  kept : portDiscard s 0 k.link (if k.kind.request then reqClass s else respClass s) (espWire (k.datagram 0 0 0)) = none
  own : k.dst / 16 = s.ports.nodeId
  present : (getPart s (k.dst % 16)).state ≠ .absent
  quiet : (getPart s (k.dst % 16)).state ≠ .scrubbing

/-- The state in which a station works: its domains have had work now (R488). -/
def atWork (s : State) (ds : List Nat) : State := ds.foldl (fun s k => modDom s k fun y => { y with lastWork := s.time }) s

/-- The Carillon that takes up work of the fabric service for a REQUEST_ID is neither paused nor restarting, and its domain is ON (R269, R459, R462, R488). -/
def seqUp (s : State) (r : Nat) : Bool := !sequencerAway s r && domsOn s [124 + sequencerOf s r]

/-- The state in which that Carillon works. -/
def seqWork (s : State) (r : Nat) : State := atWork s [124 + sequencerOf s r]

end Sys2Proof
end

