-- ==== Sys2Proof/Certificates/Slice0/Obligations.lean ====
section
/-!
DEFINITION. The statements about the node. Each says for which states and operands a command has its own effect, what that effect is, and what it leaves as it was.
-/
open Sys2Proof

open Machine (State Fault Refusal exec)

/-! ### Start-up, resets and the input (chapters 19 and 21) -/

/-- From the 42 V input to the rails (R531, R532, R544, R546, R547, R576, R583): PWR_MATE, POWER_GOOD, FUSE_READ_DONE with a ruling generation and without the recovery
strap, RAILS_RAMPED, which programs the six regulator trips of R500, and PERST_RELEASE each have their own effect in the phase before it. -/
def Obligations.StartToRails : Prop :=
  (∀ s : State, s.boot.phase = .absent → exec .pwrMate s = .next { s with boot := { s.boot with phase := .mated } }) ∧
  (∀ (rec a0 a1 : Bool) (s : State), s.boot.phase = .mated → s.boot.latched = false →
    ∃ t, exec (.powerGood rec a0 a1) s = .next t ∧ SameBut (partSet [.boot, .power]) s t ∧
      t.boot = { s.boot with phase := .powerGood, powerGood := true, faultPin := false, recovery := rec, addr0 := a0, addr1 := a1 } ∧
      ∀ k, k < 2 → k < s.power.domains.length → (getDom t k).present = .on) ∧
  (∀ (e : Nat) (s : State), s.boot.phase = .powerGood → s.boot.recovery = false → (rulingGen s.boot.fuses).isSome →
    ∃ t, exec (.fuseReadDone e) s = .next t ∧ SameBut (partSet [.free, .faults, .boot]) s t ∧ t.boot.phase = .fusesRead ∧
      t.boot.lifecycle = fuseLifecycle s.boot.fuses ∧ t.boot.ruling = rulingGen s.boot.fuses ∧
      t.boot.config = (s.boot.fuses.gens.getD ((rulingGen s.boot.fuses).getD 0) {}).config ∧
      t.boot.seedBad = (t.boot.fuses.seedCheck != seedCheckOf t.boot.fuses.seed) ∧ (t.boot.seedBad = false → t.faults = s.faults) ∧
      (fuseLifecycle s.boot.fuses ≠ .manufacture ∨ s.boot.fuses.seed ≠ 0 → t.boot.fuses = s.boot.fuses) ∧
      (fuseLifecycle s.boot.fuses = .manufacture → s.boot.fuses.seed = 0 → e % 2 ^ 256 ≠ 0 → t.boot.fuses.seed = e % 2 ^ 256)) ∧
  (∀ s : State, s.boot.phase = .fusesRead →
    exec .railsRamped s = .next { s with time := 0, timeOn := true, boot := { s.boot with phase := .railsUp, trips := (List.range 6).map fun k => 40 + 2 * fld s.boot.fuses.limits (29 + 6 * k) (24 + 6 * k) }, power := { s.power with domains := railDomains s } }) ∧
  (∀ (t : Nat) (s : State), s.boot.phase = .railsUp →
    exec (.perstRelease t) s = .next { atTime s t with boot := { s.boot with phase := .perstReleased, t0 := (atTime s t).time } })

/-- From T0 to Memory_Active (R420, R350, R352, R445, R532 to R535, R539, R541): CXL_LINK_TRAINED at a width and rate that the fuses allow, IMAGES_VERIFIED with a preferred slot
that boots, PROCESSORS_RELEASED, HBM_TRAINED, STARTUP_CLEAR_DONE and MEMORY_ACTIVE. -/
def Obligations.StartToMemory : Prop :=
  (∀ (alt direct : Bool) (w g : Nat) (s : State), s.boot.phase = .perstReleased → w ∈ [4, 8, 16] → g ∈ [8, 16, 32] → w ≤ linkWidth s → g ≤ linkSpeed s →
    exec (.cxlLinkTrained alt direct w g) s = .next { s with
      boot := { s.boot with phase := .linkTrained }
      cxl := { s.cxl with linkUp := true, alternate := alt, direct := direct, width := w, gts := g } }) ∧
  (∀ (okA okB : Bool) (s : State), s.boot.phase = .linkTrained → slotBoots s (preferredSlot s) (if preferredSlot s = 0 then okA else okB) = true →
    ∃ t, exec (.imagesVerified okA okB) s = .next t ∧ SameBut (partSet [.fw, .belfry, .boot]) s t ∧ (noIdentity s = false → t.belfry.aliasIssued = s.belfry.aliasIssued + 1) ∧ t.boot.phase = .imagesVerified ∧ t.fw.booted = preferredSlot s ∧
      ∀ x, x < 24 → procFitted s x = true → (t.fw.procs.getD x {}).image = slotImage s (preferredSlot s) (procKind x)) ∧
  (∀ s : State, s.boot.phase = .imagesVerified →
    ∃ t, exec .processorsReleased s = .next t ∧ SameBut (partSet [.boot, .power]) s t ∧ t.boot.phase = .processorsUp ∧
      ∀ k, k < s.power.domains.length → domKind k = 8 → domFitted s k = true → (getDom t k).present = .on) ∧
  (∀ (failed : List Nat) (s : State), s.boot.phase = .processorsUp →
    ∃ t, exec (.hbmTrained failed) s = .next t ∧ t.boot.phase = .hbmTrained ∧
      t.boot.trained = (List.range 20).filter fun k => stackFitted s k && !failed.contains k) ∧
  (∀ s : State, s.boot.phase = .hbmTrained → s.faults.record = [] → (∀ k, k < 8 → pkgLost s k = false) →
    ∃ t, exec (.startupClearDone [] [] []) s = .next t ∧ t.boot.phase = .cleared ∧ t.hbm = [] ∧ t.hbmPoison = [] ∧ t.openPoison = [] ∧ t.poisonOverflow = false) ∧
  (∀ (t : Nat) (s : State), s.boot.phase = .cleared →
    exec (.memoryActive t) s = .next { atTime s t with boot := { s.boot with phase := .active } })

/-- The 42 V input stage (R519, R531, R541, R575, R576, R583): over-voltage and over-current latch it off with every domain OFF and end the node's service; an
under-voltage or a brown-out before Memory_Active starts the node over; the latch is released by 1 s below 10 V or by RESET#; a lost 3V3_AUX drops FAULT# when the
module has no power of its own. -/
def Obligations.InputStage : Prop :=
  (∀ s : State, s.boot.phase ≠ .absent → s.boot.latched = false →
    (∃ t, exec .inputOvervoltage s = .next t ∧ t.boot.phase = .faulted ∧ t.boot.latched = true ∧ t.boot.powerGood = false ∧
      ∀ d ∈ t.power.domains, d.present = .off) ∧
    (∃ t, exec .inputOvercurrent s = .next t ∧ t.boot.phase = .faulted ∧ t.boot.latched = true ∧ t.boot.powerGood = false ∧
      ∀ d ∈ t.power.domains, d.present = .off)) ∧
  (∀ s : State, s.boot.phase ≠ .absent → s.boot.latched = false →
    ∃ t, exec .inputUndervoltage s = .next t ∧ t.boot.phase = .mated ∧ t.boot.kind = .powerOn ∧ t.boot.powerGood = false ∧ t.boot.fuses = s.boot.fuses ∧
      t.host = s.host ∧ t.hbm = [] ∧ t.flight = [] ∧ t.timeOn = false) ∧
  (∀ s : State, s.boot.phase ∈ [.powerGood, .fusesRead, .railsUp, .perstReleased, .linkTrained, .imagesVerified, .processorsUp, .hbmTrained, .cleared] →
    ∃ t, exec .inputBrownout s = .next t ∧ t.boot.phase = .mated ∧ t.boot.kind = s.boot.kind ∧ t.boot.powerGood = false ∧ t.boot.fuses = s.boot.fuses ∧
      t.host = s.host ∧ t.timeOn = false) ∧
  (∀ s : State, s.boot.phase ≠ .absent →
    ∃ t, exec .inputLatchReleaseLow s = .next t ∧ t.boot.phase = .mated ∧ t.boot.kind = .powerOn ∧ t.boot.latched = false ∧ t.boot.fuses = s.boot.fuses) ∧
  (∀ s : State, s.boot.latched = true → s.boot.aux = true →
    ∃ t, exec .resetLatchRelease s = .next t ∧ t.boot.phase = .mated ∧ t.boot.kind = .cold ∧ t.boot.latched = false ∧ t.boot.faultPin = s.boot.faultPin) ∧
  (∀ s : State, exec .aux3v3Loss s = .next { s with boot := { s.boot with aux := false, faultPin := s.boot.faultPin && s.boot.powerGood } })

/-- What a reset of the whole node keeps and clears (R540, R541, R583), from the active state with power good: PERST# gives a WARM reset from T0, and RESET# low for 1 ms
a COLD one. The SEED fuses match their check (a start logs a SEED that does not, R547). Kept: host memory, the key journal, the boot slots, the fault log and the trained stacks of a WARM reset. Cleared: HBM, staging, descriptors, partitions,
owners' registers. -/
def Obligations.NodeResets : Prop :=
  (∀ s : State, s.boot.phase = .active → s.boot.latched = false → s.boot.powerGood = true → s.boot.fuses.seedCheck = seedCheckOf s.boot.fuses.seed →
    ∃ t, exec .perstAssert s = .next t ∧ t.boot.kind = .warm ∧ (t.boot.phase = .railsUp ∨ t.boot.phase = .loader) ∧ t.boot.trained = s.boot.trained ∧
      t.host = s.host ∧ t.belfry.journals = s.belfry.journals ∧ t.fw.slots = s.fw.slots ∧ t.faults.faultLog = s.faults.faultLog ∧
      t.hbm = [] ∧ t.staging = [] ∧ t.flight = [] ∧ t.parts = List.replicate 16 {} ∧ t.owners = List.replicate 17 {} ∧ t.time = 0) ∧
  (∀ (lowUs : Nat) (s : State), 1000 ≤ lowUs → s.boot.phase = .active → s.boot.latched = false → s.boot.powerGood = true →
    ∃ t, exec (.resetPinRelease lowUs) s = .next t ∧ t.boot.kind = .cold ∧ t.boot.phase = .powerGood ∧ t.boot.trained = [] ∧ t.boot.fuses = s.boot.fuses ∧
      t.host = s.host ∧ t.belfry.journals = s.belfry.journals ∧ t.fw.slots = s.fw.slots ∧ t.faults.faultLog = s.faults.faultLog ∧
      t.hbm = [] ∧ t.staging = [] ∧ t.flight = [] ∧ t.parts = List.replicate 16 {} ∧ t.owners = List.replicate 17 {} ∧ t.time = 0) ∧
  (∀ (lowUs : Nat) (s : State), lowUs < 1000 → exec (.resetPinRelease lowUs) s = .next s)

/-- The CXL link and the functions (R45, R540, R541): CXL_LINK_DOWN takes the link down; FUNCTION_RESET of the FM-owned function without enabled rings clears its
configuration space and its MSI-X state and leaves its other registers; of no function named, every partition's too; either returns the monitor to 115,200 baud (R469). -/
def Obligations.FunctionsAndLink : Prop :=
  (∀ s : State, exec .cxlLinkDown s = .next { s with cxl := { s.cxl with linkUp := false } }) ∧
  (∀ (o : Owner) (s : State), s.cxl.linkUp = true →
    ∃ t, exec (.functionReset (some o)) s = .next t ∧ SameBut (partSet [.owners, .contexts, .flight, .cxl, .serial]) s t ∧ t.serial.baud = 115200 ∧
      (o.idx < s.owners.length → (getOwner t o).funcMask = false ∧ (getOwner t o).vecMask = List.replicate 64 true ∧ (getOwner t o).pba = List.replicate 64 false)) ∧
  (∀ s : State, s.cxl.linkUp = true → ∃ t, exec (.functionReset none) s = .next t ∧ SameBut (partSet [.owners, .contexts, .flight, .cxl, .serial]) s t ∧ t.serial.baud = 115200 ∧ t.cxl.fmConfig = [])

/-! ### Faults and fences (chapter 18) -/

/-- Checks and lanes (R169, R508, R509, R513, R515): a unit that failed its check up to three times only counts against its lane, and at the fourth failure the place it was
bound for is poisoned; a corrected error is counted, and an uncorrectable one poisons its line of the staging store; a core is fenced by an uncorrectable error of its tile
buffer and by the 64th corrected one within 24 h; a lane moves to a spare up to four times in each direction; new fences are added to the record. -/
def Obligations.ChecksAndLanes : Prop :=
  (∀ (link lane fails e off t : Nat) (s : State), 0 < fails → fails < 4 →
    ∃ u, exec (.transferCheckFail link lane fails e off t) s = .next u ∧ SameBut (partSet [.time, .faults]) s u ∧
      (∃ ts, lookup? u.faults.resends (link, lane) = some (((lookup? s.faults.resends (link, lane)).getD (0, [])).1 + fails, ts))) ∧
  (∀ (link lane fails e off t : Nat) (s : State), 4 ≤ fails → e < 1920 → off < 2 ^ 28 → (getExt s e).kind = .guarded →
    ∃ u, exec (.transferCheckFail link lane fails e off t) s = .next u ∧ hbmAddr e off / 64 ∈ u.hbmPoison ∧ u.hbm = s.hbm) ∧
  (∀ (addr t : Nat) (s : State), ∃ u, exec (.eccError 0 addr true t) s = .next u ∧ addr / 64 ∈ u.stagingPoison ∧ SameBut (partSet [.time, .stagingPoison, .faults]) s u) ∧
  (∀ (addr t : Nat) (s : State), ∃ u, exec (.eccError 0 addr false t) s = .next u ∧ u.faults.corrected = s.faults.corrected + 1 ∧ SameBut (partSet [.time, .faults]) s u) ∧
  (∀ (x t : Nat) (s : State), x < s.cores.length → x < 68 → (s.cores.getD x {}).fenced = false →
    (∃ u, exec (.eccError 1 x true t) s = .next u ∧ (u.cores.getD x {}).fenced = true) ∧
    ∃ u, exec (.eccError 1 x false t) s = .next u ∧ u.faults.corrected = s.faults.corrected + 1 ∧
      ((u.cores.getD x {}).fenced = true ↔ 63 ≤ ((s.cores.getD x {}).corrected.filter fun y => decide ((atTime s t).time < y + 86400000000000)).length)) ∧
  (∀ (link m n k : Nat) (s : State), moduleFitted s link m = true → getModule s link m = (false, n, k) → n < 4 →
    ∃ u, exec (.laneSpare link m false) s = .next u ∧ SameBut (partSet [.faults]) s u ∧ getModule u link m = (false, n + 1, k)) ∧
  (∀ (link m n k : Nat) (s : State), moduleFitted s link m = true → getModule s link m = (false, n, k) → k < 4 →
    ∃ u, exec (.laneSpare link m true) s = .next u ∧ SameBut (partSet [.faults]) s u ∧ getModule u link m = (false, n, k + 1)) ∧
  (∀ s : State, exec .fenceRecordWrite s = .next { s with faults := { s.faults with record := fenceEntries s, unwritten := [] } })

/-- Fences (R512, R515 to R518): a link module that is fitted and not yet fenced is fenced, while its link keeps another; a pseudo-channel that is fitted is fenced, its frames
go FENCED and its three extents are poisoned. The FENCE message (R514) about a unit that exists fences it (action 1, but not the last module of link 6), takes it from the record
(action 2) or only asks (action 3), and is answered DONE with whether the unit then stands fenced and how many entries of its kind the record has. -/
def Obligations.Fences : Prop :=
  (∀ (k m t : Nat) (s : State), moduleFitted s k m = true → (getModule s k m).1 = false → (∃ j, j ≠ m ∧ moduleFitted s k j = true ∧ (getModule s k j).1 = false) →
    ∃ u, exec (.linkModuleFence k m t) s = .next u ∧ (getModule u k m).1 = true ∧ u.boot = s.boot) ∧
  (∀ (c t : Nat) (s : State), c < 640 → stackFitted s (c / 32) = true → pchFenced s c = false →
    ∃ u, exec (.pseudoChannelFence c t) s = .next u ∧ pchFenced u c = true ∧ u.hbm = s.hbm ∧ (∀ f, f.pch = c → (lookup? s.frames f).isSome → (getFrame u f).state = .fenced) ∧
      ∀ e, e / 3 = c → e < s.extents.length → (getExt u e).poison = true) ∧
  (∀ (c t : Nat) (s : State), pchFenced s c = true → exec (.pseudoChannelFence c t) s = .next (atTime s t)) ∧
  (∀ (o a : Owner) (m : MboxMsg) (t kind n : Nat) (v w : State) (s : State), v = atTime s t → Heard v o 0x60 m .manager (m.body.length == 8) a → kind = m.at_ 0 → n = ofLe (slice m.body 4 4) → m.at_ 2 = 0 → m.at_ 3 = 0 →
    fenceUnit v kind n = true → (m.at_ 1 = 1 ∧ w = fenceByCommand v kind n ∧ (kind = 4 → n / 16 = 6 → ((getPkg v 6).modules.filter fun x => !x.1).length = 1 → standsFenced v 4 n = true) ∨
      m.at_ 1 = 2 ∧ w = { v with faults := { v.faults with record := v.faults.record.filter (· != (kind, if kind = 1 then ruledCore v n else n)), unwritten := v.faults.unwritten.filter (· != (kind, if kind = 1 then ruledCore v n else n)) } } ∨
      m.at_ 1 = 3 ∧ w = v) →
    exec (.mailboxFence o m t) s = .next (emit w (mboxOut o 0x60 m.tag stDone 0 (BitVec.ofNat 64 (b2n (standsFenced w kind n))) (BitVec.ofNat 64 ((fenceEntries w).filter fun e => e.1 == kind).length) [])))

/-- Node faults (R366, R502, R519): a fault that ends the node's service, the loss of the 100 MHz reference and a sensor at its trip temperature leave the node faulted with
nothing in flight; such a fault leaves no message waiting and every ring DISABLED; with power kept, a free value says whether it is that of the CXL.mem path, which tells every LD and takes the link down (log entry 50); one without power and a trip
lose HBM and staging, with the link down. -/
def Obligations.NodeFaults : Prop :=
  (∀ (kept : Bool) (s : State), s.boot.phase ≠ .absent → s.boot.phase ≠ .mated → s.boot.phase ≠ .faulted →
    ∃ t, exec (.nodeFault kept) s = .next t ∧ t.boot.phase = .faulted ∧ t.flight = [] ∧ t.net.miss = [] ∧ t.flash.ops = [] ∧ t.host = s.host ∧
      (∀ x ∈ t.owners, ∀ r ∈ x.rings, r.2.state = .disabled) ∧ (kept = false → t.hbm = [] ∧ t.staging = [] ∧ t.cxl.linkUp = false) ∧
      (kept = true → t.hbm = s.hbm ∧ t.staging = s.staging ∧
        if Config.free s.free % 2 = 1 then t.cxl.linkUp = false ∧ (s.cxl.linkUp = true → ∀ p, (p < if s.cxl.direct then 1 else 16) → .aer p true ∈ t.out) else t.cxl = s.cxl)) ∧
  (∀ (u : Nat) (s : State), s.boot.phase ≠ .absent → s.boot.phase ≠ .mated → s.boot.phase ≠ .faulted →
    ∃ t, exec (.ref100Loss u) s = .next t ∧ t.boot.phase = .faulted ∧ t.boot.faultPin = true ∧ t.flight = [] ∧ t.hbm = s.hbm ∧ t.host = s.host) ∧
  (∀ (r : Reading) (s : State), s.timeOn = true → s.boot.phase ≠ .faulted → r.sensor = 0 → 440 ≤ r.quarterDeg →
    ∃ t, exec (.thermalTrip r) s = .next t ∧ t.boot.phase = .faulted ∧ t.boot.tripped = true ∧ t.power.tripped = true ∧ t.flight = [] ∧ t.hbm = [] ∧ t.staging = [] ∧
      t.cxl.linkUp = false)

/-! ### Power (chapter 17 and chapter 3) -/

/-- The Damper and the clamps (R494, R495, R501, R502): a reading over the active ceiling or over 51 A sets a target below the present level, any other one not below it; a level step moves the
level by 1 % toward its target; an input current over the fused limit halves the level; the die at 100 °C or above (and below its fused limit) lowers its level by one step. -/
def Obligations.DamperAndClamps : Prop :=
  (∀ (x : DamperInputs) (t : Nat) (s : State), damperUp s = true →
    ∃ u, exec (.damperTick x t) s = .next u ∧ SameBut (partSet [.time, .free, .power]) s u ∧ u.power.watts = x.inputW ∧ u.power.milliA = x.inputMilliA ∧
      (0 < s.power.level → s.power.level ≤ 100 → (x.inputMilliA > 51000 ∨ x.inputW > ceiling (powerAt s t) → u.power.target < s.power.level) ∧
        (x.inputMilliA ≤ 51000 → x.inputW ≤ ceiling (powerAt s t) → s.power.level ≤ u.power.target ∧ u.power.target ≤ 100))) ∧
  (∀ (t : Nat) (s : State), damperUp s = true → s.power.lastStep + 50000 ≤ t → s.power.target < s.power.level →
    ∃ u, exec (.levelStep t) s = .next u ∧ SameBut (partSet [.time, .power, .boot]) s u ∧ u.power.level = s.power.level - 1) ∧
  (∀ (t : Nat) (s : State), damperUp s = true → s.power.lastStep + 50000 ≤ t → s.power.level < s.power.target → s.power.level < 100 → s.power.clamped = false →
    s.power.milliA ≤ 51000 → ∃ u, exec (.levelStep t) s = .next u ∧ SameBut (partSet [.time, .power, .boot]) s u ∧ u.power.level = s.power.level + 1) ∧
  (∀ (milliA t : Nat) (s : State), s.timeOn = true → limitMilliA s < milliA → s.boot.phase ≠ .faulted →
    ∃ u, exec (.currentClamp milliA t) s = .next u ∧ SameBut (partSet [.time, .power, .boot]) s u ∧ u.power.level = computeLevel s / 2 ∧ u.power.clamped = true) ∧
  (∀ (r : Reading) (t : Nat) (s : State), s.timeOn = true → s.boot.phase ≠ .faulted → r.sensor = 0 → 400 ≤ r.quarterDeg → r.quarterDeg < limitDie s →
    s.power.heatStep.getD 0 0 + 50000 ≤ (atTime s t).time →
    ∃ u, exec (.thermalClampStep r t) s = .next u ∧ SameBut (partSet [.time, .power, .boot]) s u ∧ u.power.heatLevel = s.power.heatLevel - 1)

/-- Hub temperatures, idle returns and wakes (R487, R488, R503): a stack above 85 °C takes the fast refresh; a domain whose wake has ended is ON; a domain of a kind with nothing to shut
down that has had no work for 100 µs returns to its commanded state; a Peak whose time is over ends, and its 10 s cooldown runs from that time (R499). -/
def Obligations.DomainsAndPeak : Prop :=
  (∀ (hub : Nat) (q0 q1 q2 q3 q4 : Int) (s : State), s.timeOn = true → hub < hubCount s →
    ∃ u, exec (.hubTempRead hub [q0, q1, q2, q3, q4]) s = .next u ∧ SameBut (partSet [.power]) s u ∧
      (5 * hub + 4 < s.power.fastRefresh.length → u.power.fastRefresh.getD (5 * hub) false = decide (340 < q0) ∧
        u.power.fastRefresh.getD (5 * hub + 4) false = decide (340 < q4))) ∧
  (∀ (d w t : Nat) (s : State), (getDom s d).wake = some w → w ≤ t → domFenced s d = false → domKind d ≠ 9 →
    exec (.domainWakeDone d t) s = .next (pushFlash (releaseAll (modDom (atTime s t) d fun y => { y with present := .on, wake := none, lastWork := (atTime s t).time })))) ∧
  (∀ (d t : Nat) (s : State), (getDom s d).commanded ≠ .on → (getDom s d).present = .on → (getDom s d).lastWork + 100000 ≤ t → domWork s d = false →
    d < s.power.domains.length → domKind d ≠ 8 → domKind d ≠ 9 →
    exec (.domainIdleReturn d t) s = .next (modDom (atTime s t) d fun y => { y with present := (getDom s d).commanded, wake := none })) ∧
  (∀ (b e t : Nat) (s : State), s.power.peak = some (b, e) → e ≤ t → e ≤ (atTime s t).time →
    ∃ u, exec (.peakExpire t) s = .next u ∧ SameBut (partSet [.time, .power]) s u ∧ u.time = (atTime s t).time ∧ u.power.peak = none ∧ u.power.cooldownEnd = e + 10000000000)

/-- The power operations of a ring (R30 to R32, R488 to R499): SET_MODE of the fabric manager with a legal BUDGET begins its change with its commit latch taken; MODE_CAPS_APPLIED makes the
mode and BUDGET hold and ends it; PEAK enters for its MS (2,000 for 0) in warm steady state after its cooldown, and its END ends it; POWER_STATE commands a domain that nothing holds awake. -/
def Obligations.PowerOperations : Prop :=
  (∀ (q : Nat) (i : BitVec 32) (d : Desc) (s : State), stationDesc s q i 0x0C 0x10 = some d → d.owner = .fm → d.len = 0 →
    bodyOk d.cur [maskOf 31 16 ||| maskOf 1 0] = true → (fld (d.w 2) 31 16 = 0 ∨ (600 ≤ fld (d.w 2) 31 16 ∧ fld (d.w 2) 31 16 ≤ sustained (modeOf (fld (d.w 2) 1 0)))) →
    ∃ u, exec (.setMode q i) s = .next u ∧ SameBut (partSet [.flight, .power]) s u ∧
      u.power.changes = s.power.changes ++ [{ ctx := q, index := i, mode := modeOf (fld (d.w 2) 1 0), budget := fld (d.w 2) 31 16, time := s.time }] ∧
      u.flight = (putDesc s { d with phase := .running, latched := true }).flight) ∧
  (∀ (q t : Nat) (i : BitVec 32) (d : Desc) (c : ModeChange) (s : State), findDesc s q i = some d →
    (s.power.changes.find? fun c => c.ctx == q && c.index == i) = some c → procAway s 1 = false →
    ((s.flight.takeWhile fun d => !(d.ctx == q && d.index == i)).any fun d => d.ctx == q && d.opcode == 0x0C && d.subop == 0x10 && d.phase != .finished) = false →
    exec (.modeCapsApplied q i t) s = .next (endNow { powerAt s t with
      power := { (powerAt s t).power with mode := c.mode, budget := c.budget, changes := (powerAt s t).power.changes.filter fun x => !(x.ctx == q && x.index == i) } } d stDone 0)) ∧
  (∀ (q t : Nat) (i : BitVec 32) (d : Desc) (s : State), stationDesc s q i 0x0C 0x11 = some d → bit (d.w 2) 0 = false → procAway s 1 = false → peakRefused s d = none →
    s.power.peak = none → s.power.cooldownEnd ≤ (atTime s t).time → s.power.warmSince + 10000000000 ≤ (atTime s t).time →
    ∀ ms, ms = (if fld (d.w 2) 26 16 = 0 then 2000 else fld (d.w 2) 26 16) → exec (.peakEnter q i t) s = .next (endNow (countPower { powerAt s t with
      power := { (powerAt s t).power with peak := some ((atTime s t).time, (atTime s t).time + 1000000 * ms) } } 24 1) d stDone 0 (some ms))) ∧
  (∀ (q t b e : Nat) (i : BitVec 32) (d : Desc) (s : State), stationDesc s q i 0x0C 0x11 = some d → bit (d.w 2) 0 = true → procAway s 1 = false → peakRefused s d = none → s.power.peak = some (b, e) → (atTime s t).time < e →
    exec (.peakEnd q i t) s = .next (endNow { powerAt s t with power := { (powerAt s t).power with peak := none, cooldownEnd := (atTime s t).time + 10000000000 } } d stDone 0
      (some (msUp ((atTime s t).time - b))))) ∧
  (∀ (q : Nat) (i : BitVec 32) (d : Desc) (s : State), stationDesc s q i 0x0C 0x12 = some d → d.len = 0 → bodyOk d.cur [maskOf 23 20 ||| maskOf 17 0] = true →
    fld (d.w 2) 23 20 = 0 → (∀ x ∈ powerNamed s d, domFitted s x.1 = true ∧ domTakes x.1 x.2 = true ∧ mayCommand s d.owner x.1 = true ∧ domFenced s x.1 = false ∧
      x.2 ≠ .on ∧ domWork s x.1 = false ∧ heldAwake s x.1 = false) →
    exec (.powerState q i) s = .next (endNow ((powerNamed s d).foldl (fun s x => if (getDom s x.1).present = x.2 then s else enterState s x.1 x.2)
      ((powerNamed s d).foldl (fun s x => modDom s x.1 fun y => { y with commanded := x.2 }) s)) d stDone 0 (some (powerNamed s d).length) (some 0)))

/-! ### The monitor, the recovery loader and SMBus (chapters 15, 19 and 21) -/

/-- The monitor's commands of every lifecycle (R469 to R471): while it runs, each answers with its lines, OK and the prompt and changes nothing else (a Peak whose time is over ends first, R499); BAUD with a rate of R469 sets it after the reply;
an unknown line is answered ERR F0; a break on the UART puts the rate back. The monitor's commands of the test floor (R471, R546, R549): in MANUFACTURE and RETURNED, HBM reports each fitted stack, PEEK and POKE reach a 64-bit register of BAR0, FUSE SHOW shows the
fuses and RESET resets after its reply; in PRODUCTION each of them is answered ERR F0 and changes nothing else.
The form of the lines is the model's (log entry 17). -/
def Obligations.MonitorCommands : Prop :=
  (∀ s : State, monitorUp s = true →
    exec .monitorHelp s = .next (monitorSay s (monitorNames s.boot.lifecycle) "OK") ∧
    exec .monitorVer s = .next (monitorSay s [hexBytes (identifyBody s)] "OK") ∧
    (∃ ls, exec .monitorStatus s = .next (monitorSay (expirePeak s) ls "OK") ∧ ls.length = 5) ∧
    (∃ ls, exec .monitorTemp s = .next (monitorSay s ls "OK") ∧ ls.length = ((List.range 28).filter (sensorFitted s)).length) ∧
    exec .monitorPower s = .next (monitorSay s ["POWER" ++ numbers [s.power.coarseW, s.power.coarseLevel, shownStep s]] "OK") ∧
    exec .monitorTime s = .next (monitorSay s [toString s.time] "OK") ∧
    (∃ ls, exec .monitorLog s = .next (monitorSay s ls "OK") ∧ ls.length = (s.faults.log.filter fun e => e.part.isNone).length) ∧
    (∃ ls, exec .monitorFw s = .next (monitorSay s ls "OK") ∧ ls.length = 7) ∧
    exec .monitorUnknown s = .next (monitorSay s [] "ERR F0")) ∧
  (∀ (n : Nat) (s : State), monitorUp s = true → n ∈ bauds →
    exec (.monitorBaud n) s = .next { monitorSay s [] "OK" with serial := { s.serial with baud := n } }) ∧
  (∀ s : State, exec .uartBreak s = .next { s with serial := { s.serial with baud := 115200 } }) ∧
  (∀ (off t : Nat) (v : Word) (s : State), monitorUp s = true → s.boot.lifecycle ≠ .production → off % 8 = 0 → off < 2 ^ 20 →
    (∃ u, exec .monitorHbm s = .next u ∧ SameBut (partSet [.free, .out]) s u ∧ u.free = s.free + ((List.range 20).filter (stackFitted s)).length) ∧
    (∃ u, exec (.peek off) s = .next u ∧ u = monitorSay (draw (expirePeak s)).2 [hexOf 16 (readGlobal (draw (expirePeak s)).2 (draw (expirePeak s)).1 off).toNat] "OK") ∧
    exec (.poke off v t) s = .next (monitorSay (writeGlobal (atTime s t) off v t) [] "OK") ∧
    exec .fuseShow s = .next (monitorSay s [hexOf 4672 (fuseArray s.boot.fuses)] "OK") ∧
    exec .monitorResetCold s = .next (resetAs (monitorSay s [] "OK") .cold) ∧
    exec .monitorResetWarm s = .next (resetAs (monitorSay s [] "OK") .warm)) ∧
  (∀ (off t : Nat) (v : Word) (s : State), monitorUp s = true → s.boot.lifecycle = .production →
    ∀ c ∈ [Instr.monitorHbm, .peek off, .poke off v t, .fuseShow, .monitorResetCold, .monitorResetWarm, .fuseLoad off 0#512, .fuseBurn true, .fuseLifeProduction],
      exec c s = .next (monitorSay s [] "ERR F0"))

/-- Burning in MANUFACTURE (R544 to R546, R549): FUSE LOAD stages a part of CONFIG; FUSE BURN of a legal CONFIG burns the lowest generation above the ruling one of which no bit is burnt, with its
CHECK and all four bits of VALID; FUSE LIFE PRODUCTION burns the mark when the part has its identity, its image key, its seed and a ruling generation. -/
def Obligations.FuseCommands : Prop :=
  (∀ (k : Nat) (v : BitVec 512) (s : State), monitorUp s = true → s.boot.lifecycle = .manufacture → k < 8 →
    exec (.fuseLoad k v) s = .next (monitorSay { s with serial := { s.serial with staged := s.serial.staged.set k v } } [] "OK")) ∧
  (∀ (g : Nat) (s : State), monitorUp s = true → s.boot.lifecycle = .manufacture → configLegal (stagedConfig s) = true → freeGen s = some g →
    ∃ t, exec (.fuseBurn true) s = .next t ∧ SameBut (partSet [.out, .boot]) s t ∧
      t.boot.fuses.gens = s.boot.fuses.gens.set g { config := stagedConfig s, check := configCheck (stagedConfig s), valid := 15, burnt := true }) ∧
  (∀ s : State, monitorUp s = true → s.boot.lifecycle = .manufacture → s.boot.fuses.identity ≠ 0#64 → s.boot.fuses.imageKey ≠ 0 →
    s.boot.fuses.seedCheck = seedCheckOf s.boot.fuses.seed → s.boot.ruling.isSome = true →
    exec .fuseLifeProduction s = .next (monitorSay { s with boot := { s.boot with fuses := { s.boot.fuses with lifecycle := s.boot.fuses.lifecycle ||| 15 } } } [] "OK"))

/-- The recovery loader (R445, R536 to R538): while it runs and no transfer does, each line has its answer; a transfer begins with READY; a good block of one is acknowledged and counted, and a
bad one is not; images of every kind that may run are written to slot A. -/
def Obligations.RecoveryLoader : Prop :=
  (∀ s : State, s.boot.phase = .loader → s.serial.transfer = none →
    exec .loaderHelp s = .next (monitorSay s ["HELP", "ID", "BAUD", "KEY", "IMAGE", "WRITE", "CHALLENGE", "RETURN"] "OK") ∧
    exec .loaderId s = .next (monitorSay s [hexOf 16 s.boot.fuses.identity.toNat, hexOf 2 s.boot.lifecycle.code] "OK") ∧
    (∀ n ∈ bauds, exec (.loaderBaud n) s = .next { monitorSay s [] "OK" with serial := { s.serial with baud := n } }) ∧
    exec .key s = .next (emit { s with serial := { s.serial with transfer := some (0, 1312, [], 0) } } (.uart "READY")) ∧
    (∀ kind n, 1 ≤ kind → kind ≤ 5 → 0 < n → n ≤ stagingArea kind →
      exec (.image kind n) s = .next (emit { s with serial := { s.serial with transfer := some (kind, n, [], 0) } } (.uart "READY"))) ∧
    (∀ v : BitVec 256, exec (.challenge v) s = .next (monitorSay { s with serial := { s.serial with challenge := some v } } [hexOf 64 v.toNat] "OK")) ∧
    exec .loaderReturn s = .next (emit { s with serial := { s.serial with transfer := some (6, 2560, [], 0) } } (.uart "READY")) ∧
    exec .loaderUnknown s = .next (monitorSay s [] "ERR F0")) ∧
  (∀ (sigOk : List Nat) (xs : List Image) (s : State), s.boot.phase = .loader → s.serial.transfer = none → s.serial.key.isSome = true →
    xs = [1, 2, 3, 4, 5].filterMap (receivedImage s sigOk) → xs.length = 5 → (∀ x ∈ xs, imageBad s x = none) →
    ∃ t, exec (.loaderWrite sigOk) s = .next t ∧ SameBut (partSet [.out, .fw, .serial]) s t ∧ (t.fw.slots.getD 0 {}).images = xs ∧ (t.fw.slots.getD 0 {}).complete = true ∧
      t.fw.slots.getD 1 {} = s.fw.slots.getD 1 {}) ∧
  (∀ (what n naks : Nat) (held data : List Byte) (ok : Bool) (s : State), s.boot.phase = .loader → s.serial.transfer = some (what, n, held, naks) →
    data.length = min 4096 (n - held.length) → held.length + data.length < n →
    exec (.loaderBlock data (crc32c data) ok) s = .next (emit { s with serial := { s.serial with transfer := some (what, n, held ++ data, 0) } } (.uart "ACK"))) ∧
  (∀ (what n naks : Nat) (held data : List Byte) (crc : BitVec 32) (ok : Bool) (s : State), s.boot.phase = .loader → s.serial.transfer = some (what, n, held, naks) →
    crc32c data ≠ crc → naks < 7 →
    exec (.loaderBlock data crc ok) s = .next (emit { s with serial := { s.serial with transfer := some (what, n, held, naks + 1) } } (.uart "NAK")))

/-- SMBus (R583, R585, R586): from 40 ms after power-good every known code is answered with its bytes and nothing else changes, but that a read of ALERT_CAUSE clears the causes that have ended;
before, it is NAKed; an unknown code is always NAKed. -/
def Obligations.SmbusTarget : Prop :=
  (∀ s : State, smbUp s = true →
    exec .smbStatus s = .next (emit s (.smb [b2n s.boot.powerGood + 2 * b2n (memActive s) + 4 * b2n s.boot.faultPin + 8 * b2n (s.boot.phase == .loader) + 16 * b2n (expirePeak s).power.peak.isSome])) ∧
    exec .smbLifecycle s = .next (emit s (.smb [s.boot.lifecycle.code])) ∧
    exec .smbPower s = .next (emit s (.smb [s.power.coarseW % 256, s.power.coarseW / 256 % 256])) ∧
    exec .smbTemp s = .next (emit s (.smb [(hottest s % 256).toNat])) ∧
    exec .smbLevel s = .next (emit s (.smb [s.power.coarseLevel])) ∧
    (∃ t, exec .smbAlertCause s = .next t ∧ SameBut (partSet [.out, .boot]) s t ∧
      t.out = .smb [b2n (s.boot.alert.getD 0 false) + 2 * b2n (s.boot.alert.getD 1 false) + 4 * b2n (s.boot.alert.getD 2 false)] :: s.out ∧
      t.boot = { s.boot with alert := s.boot.alert.mapIdx fun k x => x && s.boot.alertNow.getD k false }) ∧
    exec .smbVariant s = .next (emit s (.smb [variant s])) ∧
    exec .smbIdentity s = .next (emit s (.smb ((leBytes 8 s.boot.fuses.identity.toNat).map (·.toNat)))) ∧
    (s.boot.alert.any id = true → exec .smbAlertResponse s = .next (emit s (.smb [0x68 + 2 * b2n s.boot.addr1 + b2n s.boot.addr0])))) ∧
  (∀ s : State, smbUp s = false →
    ∀ c ∈ [Instr.smbStatus, .smbLifecycle, .smbPower, .smbTemp, .smbLevel, .smbAlertCause, .smbVariant, .smbIdentity, .smbAlertResponse], exec c s = .next (emit s .smbNak)) ∧
  (∀ (code : Nat) (s : State), code ∉ [0, 1, 2, 3, 4, 5, 6, 0x10] → exec (.smbUnknown code) s = .next (emit s .smbNak))

/-! ### Rings, descriptors and registers (chapters 4, 16 and 20) -/

/-- A doorbell fetch that is due (R42 to R45): with the CXL link up, an owner that is not being scrubbed and has a ring enabled has its doorbell records taken and what is new dispatched; the
next fetch is one interval later, the shortest when a fetched INDEX changed or the owner is busy, else twice the last one up to the longest.
A program runs its steps in order, and a finished descriptor commits (R59, R66, R70): PROGRAM_INVOKE starts step 0, PROGRAM_STEP the step that W1 of the finished one names,
DESCRIPTOR_COMMIT retires a descriptor that is finished, has no next step, waits for nothing and has no flash operation without its answer. The Carillon processor that serves the program's share
is not paused (R459). -/
def Obligations.FetchStepsCommit : Prop :=
  (∀ (o : Owner) (stores : List Host.Cell) (bad : List Nat) (t : Nat) (s : State), s.cxl.linkUp = true → scrubbing s o = false →
    ((getOwner s o).rings.any fun e => e.2.enabled) = true → (getOwner s o).nextFetch ≤ t →
    ∃ f r iv, f = (getOwner s o).rings.foldl (fun s e => takeDoorbell s o e.1) (atTime { s with host := Memory.writeCells s.host stores } t) ∧ r = pumpOwner f o bad ∧
      iv = (if ((getOwner f o).rings.map (fun e => e.2.lastIndex) != (getOwner s o).rings.map fun e => e.2.lastIndex) || ownerBusy r o then pollMin (getOwner s o)
        else min (2 * (getOwner s o).interval) (pollMax (getOwner s o))) ∧
      exec (.doorbellFetch o stores true bad t) s = .next (modOwner r o fun y => { y with interval := iv, nextFetch := t + iv })) ∧
  (∀ (q : Nat) (i : BitVec 32) (d : Desc) (s : State), findDesc s q i = some d → d.prog.isSome = true → d.cur = [] → d.phase = .ready → sequencerAway s d.share = false →
    exec (.programInvoke q i) s = .next (startStep s d 0)) ∧
  (∀ (q n : Nat) (i : BitVec 32) (d : Desc) (s : State), findDesc s q i = some d → d.prog.isSome = true → d.phase = .finished → nextStep d = some n → sequencerAway s d.share = false →
    exec (.programStep q i) s = .next (startStep s d n)) ∧
  (∀ (q t : Nat) (i : BitVec 32) (d : Desc) (s : State), findDesc s q i = some d → d.phase = .finished → nextStep d = none → commitWaits s d = false → programWaits s d = false →
    (s.flash.ops.any fun o => o.ctx == d.ctx && o.index == d.index && !o.answered) = false →
    exec (.descriptorCommit q i t) s = .next (settleDrains (retire (changeQps (atTime s t) d) d true)))

/-- COPY, FENCE and ABORT (R49 to R51, R62, R69, R593): COPY moves LEN bytes of host memory into the place it names and leaves them in its output tile; FENCE, with the earlier descriptors of its ring and the one that it names committed,
counts the failing ones but the one named; ABORT stops a descriptor that has not taken its commit latch, with ABORTED, and is itself DONE. -/
def Obligations.CoreOperations : Prop :=
  (∀ (q a : Nat) (i : BitVec 32) (rd : HostRead) (d : Desc) (dst : Loc) (r : ReadRes) (s : State), stationDesc s q i 0x06 0 = some d → bodyOk d.cur [allBits, allBits] = true →
    locate s d.owner (d.w 2) (occupied s d.owner (d.w 2) d.len) false = .ok (.host a) → locate s d.owner (d.w 3) (occupied s d.owner (d.w 3) d.len) true = .ok dst →
    dst.waits s = false → overlaps (.host a) dst (occupied s d.owner (d.w 3) d.len) = false → writable s dst = none → busyPairs s d.len dst = [] → domsOn s dst.doms = true →
    readLoc (atWork s dst.doms) d 2 rd (.host a) d.len = .ok r → r.poison = false →
    exec (.copy q i rd) s = .next (putDesc (writeLoc (atWork s dst.doms) d 3 dst r.bytes) { d.finish stDone 0 with output := some { bytes := r.bytes } })) ∧
  (∀ (q : Nat) (i : BitVec 32) (d : Desc) (s : State), stationDesc s q i 0x0B 0 = some d → d.len = 0 → bodyOk d.cur [maskOf 63 63 ||| maskOf 13 0, maskOf 31 0] = true →
    ((s.flight.takeWhile fun x => !(x.ctx == q && x.index == i)).any fun x => x.ctx == q) = false →
    (bit (d.w 2) 63 = true → (∃ k, d.named = some k ∧ committed s d.owner k (BitVec.ofNat 32 (fld (d.w 3) 31 0)) = true) ∨ d.named = none ∧ d.namedDone = true) →
    exec (.fence q i) s = .next (putDesc s (d.finish stDone 0 (some ((getRing s d.owner (d.slot.getD 0)).failed.filter fun n =>
      !(bit (d.w 2) 63 && fld (d.w 2) 13 0 == q && n == fld (d.w 3) 31 0)).length)))) ∧
  (∀ (q t k : Nat) (i : BitVec 32) (d x : Desc) (s : State), stationDesc s q i 0x0C 1 = some d → d.len = 0 → bodyOk d.cur [maskOf 13 0, maskOf 31 0] = true → d.named = some k →
    findDesc s (fld (d.w 2) 13 0) (BitVec.ofNat 32 (fld (d.w 3) 31 0)) = some x → ¬(x.opcode = 0x0C ∧ x.subop = 1) → x.latched = false →
    exec (.abort q i t) s = .next (settleDrains (putDesc (stopDesc (atTime s t) x stAborted 0) (d.finish stDone 0))))

/-- Program slots (R64, R66, R68): LOAD_PROGRAM of a well-formed image of host memory into a slot that no program in flight uses stages the slot's new contents and gives the slot and the number of steps;
UNLOAD_PROGRAM stages its removal. -/
def Obligations.ProgramSlots : Prop :=
  (∀ (q a : Nat) (i : BitVec 32) (rd : HostRead) (d : Desc) (r : ReadRes) (s : State), stationDesc s q i 0x0C 2 = some d → bodyOk d.cur [allBits, maskOf 5 0] = true → fld (d.w 3) 5 0 ≠ 0 →
    d.len % 64 = 0 → d.len ≠ 0 → slotInUse s d.owner (fld (d.w 3) 5 0) = false → locate s d.owner (d.w 2) (occupied s d.owner (d.w 2) d.len) false = .ok (.host a) →
    readLoc s d 2 rd (.host a) d.len 1 = .ok r → r.poison = false → 64 * (fld (wd (toWords 1 r.bytes) 0) 5 0 + 1) = d.len → programOk r.bytes = true →
    exec (.loadProgram q i rd) s = .next (putDesc s { d.finish stDone 0 (some (fld (d.w 3) 5 0)) (some (fld (wd (toWords 1 r.bytes) 0) 5 0)) with
      effects := d.effects ++ [.program d.owner (fld (d.w 3) 5 0) (some ((List.range (fld (wd (toWords 1 r.bytes) 0) 5 0)).map fun k => toWords 8 (slice r.bytes (64 * (k + 1)) 64)))] })) ∧
  (∀ (q : Nat) (i : BitVec 32) (d : Desc) (s : State), stationDesc s q i 0x0C 3 = some d → bodyOk d.cur [0#64, maskOf 5 0] = true → fld (d.w 3) 5 0 ≠ 0 → d.len = 0 →
    slotInUse s d.owner (fld (d.w 3) 5 0) = false →
    exec (.unloadProgram q i) s = .next (putDesc s { d.finish stDone 0 (some (fld (d.w 3) 5 0)) (some 0) with effects := d.effects ++ [.program d.owner (fld (d.w 3) 5 0) none] }))

/-- The ring registers (R73, R468, R557 to R559): ENABLE of a DISABLED slot whose setup passes every check takes a queue context and makes it ACTIVE with its setup in force; DISABLE of an
enabled slot without work in flight, and RESET of one in ERROR, make it DISABLED and give its context back, the counts standing after DISABLE and cleared by RESET; DISABLE of one with work waits for it; a re-attach of an ORPHANED slot that changes only GEN makes it ACTIVE with the new setup. -/
def Obligations.RingRegisters : Prop :=
  (∀ (o : Owner) (c : Nat) (s r : State), pageOpen s o = true → (getRing s o (getOwner s o).ringSel).state = .disabled → enableCause s o (getOwner s o).ringSel = none →
    takeContext (startWatches s o) o false (getOwner s o).ringSel = some (c, r) →
    exec (.ringEnable o) s = .next (modRing r o (getOwner s o).ringSel fun x =>
      { base := x.base, cfg := x.cfg, tagBase := x.tagBase, wake := x.wake, cause := x.cause, inBase := fld x.base 56 0, inCfg := x.cfg, inTag := fld x.tagBase 56 0, state := .active, queue := c })) ∧
  (∀ (o : Owner) (s : State), pageOpen s o = true → (getRing s o (getOwner s o).ringSel).enabled = true → cfgKind (getRing s o (getOwner s o).ringSel).inCfg ≠ .completion →
    ringBusy s o (getOwner s o).ringSel = false → exec (.ringDisable o) s = .next (disableRing s o (getOwner s o).ringSel)) ∧
  (∀ (o : Owner) (s : State), pageOpen s o = true → (getRing s o (getOwner s o).ringSel).enabled = true → cfgKind (getRing s o (getOwner s o).ringSel).inCfg ≠ .completion →
    ringBusy s o (getOwner s o).ringSel = true → exec (.ringDisable o) s = .next (modRing s o (getOwner s o).ringSel fun r => { r.disarm with closing := true })) ∧
  (∀ (o : Owner) (k : Nat) (s : State), pageOpen s o = true → k = (getOwner s o).ringSel → (getRing s o k).state = .error → ringBusy s o k = false →
    ∃ t, exec (.ringReset o) s = .next t ∧ SameBut (partSet [.owners, .contexts, .flight]) s t ∧ (o.idx < s.owners.length → (getRing t o k).state = .disabled ∧
      (getRing t o k).dispatched = 0 ∧ (getRing t o k).written = 0 ∧ (getRing t o k).stalls = 0 ∧ (getRing t o k).lost = 0)) ∧
  (∀ (o : Owner) (k : Nat) (s : State), o.idx < s.owners.length → (getRing (disableRing s o k) o k).state = .disabled ∧
    ((getRing s o k).wipe = false → (getRing (disableRing s o k) o k).dispatched = (getRing s o k).dispatched ∧ (getRing (disableRing s o k) o k).stalls = (getRing s o k).stalls ∧
      (getRing (disableRing s o k) o k).lost = (getRing s o k).lost) ∧ ∀ c ∈ (disableRing s o k).contexts, ¬(c.2.1 = o ∧ c.2.2.1 = false ∧ c.2.2.2 = k)) ∧
  (∀ (o : Owner) (v : Word) (k : Nat) (s : State), pageOpen s o = true → (getOwner s o).ringSel = k → (getRing s o k).state = .orphaned → (getRing s o k).closing = false →
    cfgKind (getRing s o k).inCfg = .chime → cfgGen v ≠ cfgGen (getRing s o k).inCfg → (v &&& cfgMask &&& ~~~(maskOf 39 24)) = ((getRing s o k).inCfg &&& cfgMask &&& ~~~(maskOf 39 24)) →
    exec (.ringReattach o v) s = .next (flushHeld (modRing s o k fun r =>
      { r with cfg := v &&& cfgMask, inCfg := v &&& cfgMask, inBase := fld r.base 56 0, inTag := fld r.tagBase 56 0, state := .active, stale := none }) o k))

/-- Register accesses (R441, R551, R553, R554): an 8-byte write that reaches its BAR acts on its register at once; the lower half of a register waits for its upper half, which then acts with it; the doorbell base is
written only while no ring of its owner is ACTIVE or STALLED; a read of a lower half gives it and keeps the upper half of the same moment. -/
def Obligations.RegisterAccess : Prop :=
  (∀ (o : Owner) (off t : Nat) (v : Word) (s : State), barReached s o false = true → pageOpen s o = true → off % 8 = 0 → narrowReg false off = false →
    exec (.registerWrite o false off 8 v t) s = .next (writeReg (atTime s t) o false off v t)) ∧
  (∀ (o : Owner) (off t : Nat) (v : Word) (s : State), barReached s o true = true → off % 8 = 0 → exec (.registerWrite o true off 8 v t) s = .next (writeGlobal (atTime s t) off v t)) ∧
  (∀ (o : Owner) (off t : Nat) (v : Word) (s : State), barReached s o false = true → pageOpen s o = true → off % 8 = 0 → narrowReg false off = false →
    exec (.registerWrite o false off 4 v t) s = .next (modOwner (atTime s t) o fun x => { x with lowHalf := assign x.lowHalf off (fld v 31 0) })) ∧
  (∀ (o : Owner) (off low t : Nat) (v : Word) (s : State), barReached s o false = true → pageOpen s o = true → off % 8 = 0 → narrowReg false (off + 4) = false →
    lookup? (getOwner s o).lowHalf off = some low →
    exec (.registerWrite o false (off + 4) 4 v t) s = .next (writeReg (atTime s t) o false off (put 63 32 (fld v 31 0) ||| put 31 0 low) t)) ∧
  (∀ (o : Owner) (v : Word) (s : State), ((getOwner s o).rings.any fun e => e.2.state == .active || e.2.state == .stalled) = false →
    writePage s o 0x018 v = modOwner s o fun x => { x with doorbell := v &&& maskOf 56 12 }) ∧
  (∀ (o : Owner) (off : Nat) (s : State), barReached s o false = true → scrubbing s o = false → off % 8 = 0 → narrowReg false off = false →
    ∃ u w, u = draw (expirePeak s) ∧ w = readReg u.2 u.1 o false off ∧ exec (.registerReadLowerHalf o false off) s =
      .next (emit (modOwner u.2 o fun x => { x with readLatch := assign x.readLatch off (fld w 63 32) }) (.regRead o false off (put 31 0 (fld w 31 0)))))

/-- The registers with an effect of their own (R395, R483, R523, R555, R566, R567): the extension of Snare, a shadow entry, an MSI-X mask, the release of a Snare block and its end, a drive's settings and a
partition's spill slots. -/
def Obligations.SetupRegisters : Prop :=
  (∀ (p : Fin 16) (s : State), pageOpen s (.part p) = true → ∃ t, exec (.snareExtChange p 0#64) s = .next t ∧ SameBut (partSet [.owners, .extents, .snare]) s t ∧
    (p.val < s.owners.length → (getOwner t (.part p)).snareExt = 0#64)) ∧
  (∀ (p : Fin 16) (k : Nat) (v : Word) (s : State), pageOpen s (.part p) = true → k < 8 →
    exec (.shadowEnable p k v) s = .next (modOwner s (.part p) fun x => { x with shadows := x.shadows.modify k fun e => e.written v })) ∧
  (∀ (o : Owner) (v : Nat) (s : State), mailboxUp s = true → v < 64 → scrubbing s o = false →
    ∃ t, exec (.msixUnmask o v) s = .next t ∧ SameBut (partSet [.out, .owners]) s t ∧
      ((getOwner s o).pba.getD v false = true → (getOwner s o).funcMask = false → o.idx < s.owners.length → v < (getOwner s o).vecMask.length → t.out = .msix o v :: s.out) ∧
      ((getOwner s o).pba.getD v false = false → t.out = s.out)) ∧
  (∀ (b : Nat) (s : State), mailboxUp s = true → b < 256 → (getBlock s b).valid = true → lockedPart s (getBlock s b).part = false →
    exec (.snareBlockRelease b) s = .next (modBlock s b fun x => { x with valid := false, busy := true, entries := [], shifting := [] })) ∧
  (∀ (b : Nat) (s : State), (getBlock s b).busy = true → exec (.snareBlockClearDone b) s = .next (modBlock s b fun x => { x with busy := false })) ∧
  (∀ (d : Nat) (v : Word) (s : State), mailboxUp s = true → d < 8 → ∃ r, SameBut (partSet [.time, .out, .power, .flash]) s r ∧
    exec (.driveCfgWrite d v) s = .next (pushFlash (modDrive r d fun (y : Drive) =>
      let z : Drive := { y with enable := bit v 63, capacityGb := fld v 47 16, dwpd := max 1 (fld v 15 0) }; { z with bucket := min z.bucket (bucketDepth z) }))) ∧
  (∀ (p : Fin 16) (s : State), mailboxUp s = true → (getPart s p.val).live = true → (getPart s p.val).state ≠ .scrubbing → (getFlash s p.val).spill = [] →
    exec (.flashSpillSlotsWrite p 0) s = .next (modFlash s p.val fun y => { y with spillSlots := 0, spillState := 0, spillSpaces := [] }))

/-! ### The mailbox and firmware (chapter 15) -/

/-- Questions to the mailbox (R452, R453, R456, R467, R529): an accepted IDENTIFY is answered DONE with the 128 bytes of R452; TIME with the time at its arrival and at its reply, at most
1 ms later; LOG_READ with the entries that the asker may see from its first number on, at most as many as it asks for; ATTACH_STATE with the counters of its ring; FW_STATUS with the last operation's
outcome and the progress. Nothing changes but the replies, the free values drawn and, for TIME, the time. -/
def Obligations.MailboxQuestions : Prop :=
  (∀ (o a : Owner) (m : MboxMsg) (s : State), Heard s o 1 m .any m.body.isEmpty a → exec (.identify o m) s = .next (mboxReply s o 1 m stDone 0 none none (identifyBody s))) ∧
  (∀ (o a : Owner) (m : MboxMsg) (t : Nat) (s : State), Heard s o 2 m .any m.body.isEmpty a →
    ∃ u, exec (.time o m t) s = .next u ∧ SameBut (partSet [.time, .free, .out]) s u ∧ (atTime s t).time ≤ u.time ∧ u.time ≤ (atTime s t).time + 1000000 ∧
      u.out = mboxOut o 2 m.tag stDone 0 (BitVec.ofNat 64 (atTime s t).time) (BitVec.ofNat 64 u.time) [] :: s.out) ∧
  (∀ (o a : Owner) (m : MboxMsg) (s : State), Heard s o 3 m .any (m.body.length == 8) a → 0 < m.at_ 4 → m.at_ 4 ≤ 127 → m.at_ 5 = 0 → m.at_ 6 = 0 → m.at_ 7 = 0 →
    ∃ (es : List LogEntry) (next oldest : Nat), exec (.logRead o m) s = .next (mboxReply s o 3 m stDone 0 (some next) (some oldest) (es.flatMap fun e => ofWords (logWords e))) ∧ es.length ≤ m.at_ 4 ∧
      (∀ e ∈ es, e ∈ s.faults.log ∧ ofLe (m.body.take 4) ≤ e.seq ∧ (a = .fm ∨ (e.part.isSome = true ∧ e.part = a.part?))) ∧ (∀ e, es.getLast? = some e → next = e.seq + 1) ∧
      (es.length < m.at_ 4 → ∀ e ∈ s.faults.log, ofLe (m.body.take 4) ≤ e.seq → a = .fm ∨ (e.part.isSome = true ∧ e.part = a.part?) → e ∈ es)) ∧
  (∀ (o a : Owner) (m : MboxMsg) (r : Ring) (s : State), Heard s o 0x40 m .any (m.body.length == 2) a → ofLe m.body < 16384 →
    judgeContext s a (ofLe m.body) [.submission, .completion, .chime] = none → r = getRing s a (contextSlot s (ofLe m.body)) →
    exec (.attachState o m) s = .next (if cfgKind r.inCfg = .submission then mboxReply s o 0x40 m stDone 0 (some (r.dispatched % 2 ^ 32 * 2 ^ 32 + r.recsWritten % 2 ^ 32)) (some r.recsHeld)
      else mboxReply s o 0x40 m stDone 0 (some (r.index * 2 ^ 32 + r.written % 2 ^ 32)) (some r.held.length))) ∧
  (∀ (o a : Owner) (m : MboxMsg) (s : State), Heard s o 0x34 m .manager m.body.isEmpty a →
    ∃ body, exec (.fwStatus o m) s = .next (mboxReply s o 0x34 m stDone 0 (some (s.fw.lastStatus * 2 ^ 24 + s.fw.lastDetail * 2 ^ 8)) (some ((s.fw.op.map (·.progress)).getD s.fw.lastProgress)) body))

/-- Staging and starting an update (R454, R455, R461): FW_STAGE writes its bytes into its kind's area of the update buffer; FW_VERIFY, FW_ACTIVATE, FW_PERSIST and ROLLBACK_ADVANCE
start their background operation when none runs, and FW_PERSIST of verified kinds marks its slot as not complete. -/
def Obligations.FirmwareRequests : Prop :=
  (∀ (o a : Owner) (m : MboxMsg) (s : State), Heard s o 0x30 m .manager (decide (9 ≤ m.body.length ∧ m.body.length ≤ 4008)) a → 1 ≤ m.at_ 0 → m.at_ 0 ≤ 5 → m.at_ 1 = 0 → m.at_ 2 = 0 →
    m.at_ 3 = 0 → ofLe (slice m.body 4 4) + (m.body.drop 8).length ≤ stagingArea (m.at_ 0) → s.fw.buffer = true →
    ∃ t, exec (.fwStage o m) s = .next t ∧ SameBut (partSet [.free, .out, .fw]) s t ∧
      t.fw = { s.fw with staging := s.fw.staging.modify (m.at_ 0 - 1) fun x => { bytes := Memory.writeBytes x.bytes (ofLe (slice m.body 4 4)) (m.body.drop 8), used := true } }) ∧
  (∀ (o a : Owner) (m : MboxMsg) (s : State), Heard s o 0x31 m .manager (m.body.length == 1) a → 0 < m.at_ 0 → m.at_ 0 ≤ 31 → s.fw.op = none →
    ∃ t, exec (.fwVerify o m) s = .next t ∧ SameBut (partSet [.free, .out, .fw]) s t ∧ t.fw = { s.fw with op := some { typ := 0x31, kinds := kindsOf (m.at_ 0) } }) ∧
  (∀ (o a : Owner) (m : MboxMsg) (s : State), Heard s o 0x32 m .manager (m.body.length == 1) a → 0 < m.at_ 0 → m.at_ 0 ≤ 31 → s.fw.op = none →
    ∃ t, exec (.fwActivate o m) s = .next t ∧ SameBut (partSet [.free, .out, .fw]) s t ∧
      t.fw = { s.fw with op := some { typ := 0x32, kinds := kindsOf (m.at_ 0), images := verifiedImages s (kindsOf (m.at_ 0)), todo := switchOrder s (kindsOf (m.at_ 0)) } }) ∧
  (∀ (o a : Owner) (m : MboxMsg) (s : State), Heard s o 0x33 m .manager (m.body.length == 2) a → 0 < m.at_ 0 → m.at_ 0 ≤ 31 → m.at_ 1 ≤ 1 → s.fw.op = none →
    (verifiedImages s (kindsOf (m.at_ 0))).length = (kindsOf (m.at_ 0)).length →
    ∃ t, exec (.fwPersist o m) s = .next t ∧ SameBut (partSet [.free, .out, .fw]) s t ∧ t.fw.op = some { typ := 0x33, kinds := kindsOf (m.at_ 0), images := verifiedImages s (kindsOf (m.at_ 0)), slot := m.at_ 1 } ∧
      t.fw.slots = s.fw.slots.modify (m.at_ 1) fun x => { x with complete := false }) ∧
  (∀ (o a : Owner) (m : MboxMsg) (s : State), Heard s o 0x35 m .manager m.body.isEmpty a → s.fw.op = none →
    ∃ t, exec (.rollbackAdvance o m) s = .next t ∧ SameBut (partSet [.free, .out, .fw]) s t ∧ t.fw = { s.fw with op := some { typ := 0x35, kinds := [] } })

/-- The end of a verification, a persist and a rollback advance (R445, R446, R455, R457, R461, R535, R548): FW_VERIFY_DONE leaves every kind of its mask, each named once, verified or refused as R445 judges it, and reports DONE or the
cause of the first refusal; FW_PERSIST_DONE with a verified image of every kind of its mask makes its slot complete and preferred, holding those images and the running ones of the other kinds, and without them ends NOT_OWNER
DETAIL 0x12; ROLLBACK_BURN_DONE raises each counter that is below the lowest SVN of its images to it, and ends NOT_OWNER DETAIL 0x11 when neither is. Each ends the background operation.
The steps of an activation (R445, R457 to R459): FW_ACTIVATE_STEP ends it with the cause when, before the first switch, a kind may not be switched; else it pauses the next processor, 1 ms after the switch before, within the
bound of its kind; a paused one that reports ready in time runs the new image, and the last one ends the activation DONE. FW_PAUSE_TIMEOUT of one that does not resumes it, gives the switched processors of its kind their old images
back, and ends the activation INTERNAL DETAIL 2. -/
def Obligations.FirmwareOperations : Prop :=
  (∀ (ok : List Nat) (op : FwOp) (judge : Nat → Option (Nat × Nat)) (s : State), s.fw.op = some op → op.typ = 0x31 →
    judge = (fun k => imageBad s (parseImage k (getStaging s k).bytes (ok.contains k && (getStaging s k).used))) →
    ∃ t, exec (.fwVerifyDone ok) s = .next t ∧ SameBut (partSet [.free, .out, .host, .owners, .fw]) s t ∧ t.fw.op = none ∧
      (op.kinds.Nodup → (∀ k ∈ op.kinds, 1 ≤ k ∧ k ≤ s.fw.staging.length) →
        (∀ k ∈ op.kinds, (getStaging t k).state = if (judge k).isNone then .verified else .refused) ∧
        (t.fw.lastStatus, t.fw.lastDetail) = (op.kinds.findSome? judge).getD (stDone, 0))) ∧
  (∀ (op : FwOp) (s : State), s.fw.op = some op → op.typ = 0x33 →
    ∃ t, exec .fwPersistDone s = .next t ∧ SameBut (partSet [.free, .out, .host, .owners, .fw]) s t ∧ t.fw.op = none ∧
      (op.images.length ≠ op.kinds.length → t.fw.slots = s.fw.slots ∧ t.fw.lastStatus = stNotOwner ∧ t.fw.lastDetail = 0x12) ∧
      (op.images.length = op.kinds.length → op.slot < 2 → s.fw.slots.length = 2 → t.fw.lastStatus = stDone ∧ preferredSlot t = op.slot ∧
        t.fw.slots.getD op.slot {} = { key := (s.fw.slots.getD s.fw.booted {}).key, images := [1, 2, 3, 4, 5].filterMap fun k => if op.kinds.contains k then op.image k else runningImage s k, complete := true,
                                       number := (s.fw.slots.getD (1 - op.slot) {}).number + 1 } ∧
        t.fw.slots.getD (1 - op.slot) {} = s.fw.slots.getD (1 - op.slot) {})) ∧
  (∀ (op : FwOp) (s : State), s.fw.op = some op → op.typ = 0x35 →
    ∃ t, exec .rollbackBurnDone s = .next t ∧ SameBut (partSet [.free, .out, .host, .owners, .fw, .belfry, .boot]) s t ∧ t.fw.op = none ∧
      t.boot.fuses.rollback0 = (if rollbackValue s.boot.fuses.rollback0 < lowestSvn s [1] then burnTo s.boot.fuses.rollback0 (lowestSvn s [1]) else s.boot.fuses.rollback0) ∧
      t.boot.fuses.rollback1 = (if rollbackValue s.boot.fuses.rollback1 < lowestSvn s [2, 3, 4, 5] then burnTo s.boot.fuses.rollback1 (lowestSvn s [2, 3, 4, 5]) else s.boot.fuses.rollback1) ∧
      (rollbackValue s.boot.fuses.rollback0 < lowestSvn s [1] ∨ rollbackValue s.boot.fuses.rollback1 < lowestSvn s [2, 3, 4, 5] → t.fw.lastStatus = stDone) ∧
      (lowestSvn s [1] ≤ rollbackValue s.boot.fuses.rollback0 → lowestSvn s [2, 3, 4, 5] ≤ rollbackValue s.boot.fuses.rollback1 → t.fw.lastStatus = stNotOwner ∧ t.fw.lastDetail = 0x11)) ∧
  (∀ (t : Nat) (e : Nat × Nat) (op : FwOp) (s : State), s.fw.op = some op → op.typ = 0x32 → op.switched = [] → (s.fw.procs.any fun p => p.paused.isSome) = false →
    op.kinds.findSome? (activateBad s op) = some e →
    ∃ u, exec (.fwActivateStep t) s = .next u ∧ SameBut (partSet [.time, .out, .host, .owners, .fw]) s u ∧ u.fw.op = none ∧ u.fw.procs = s.fw.procs ∧ (u.fw.lastStatus, u.fw.lastDetail) = e) ∧
  (∀ (x t : Nat) (rest : List Nat) (op : FwOp) (s : State), s.fw.op = some op → op.typ = 0x32 → (op.switched = [] → op.kinds.findSome? (activateBad s op) = none) → op.todo = x :: rest →
    (s.fw.procs.getD x {}).paused = none → (s.fw.procs.getD x {}).restarting = false → (s.fw.procs.getD x {}).fenced = false → op.notBefore ≤ t →
    exec (.fwActivateStep t) s = .next (modProc (atTime s t) x fun p => { p with paused := some ((atTime s t).time + pauseBound x) })) ∧
  (∀ (x t b : Nat) (rest : List Nat) (op : FwOp) (s : State), s.fw.op = some op → op.typ = 0x32 → op.todo = x :: rest → x < s.fw.procs.length → (s.fw.procs.getD x {}).paused = some b → t ≤ b →
    ∃ u, exec (.fwActivateStep t) s = .next u ∧ SameBut (partSet [.time, .out, .host, .owners, .fw, .belfry]) s u ∧ (u.fw.procs.getD x {}).image = op.image (procKind x) ∧
      (u.fw.procs.getD x {}).paused = none ∧ (x ≠ 0 → u.belfry = s.belfry) ∧
      (rest ≠ [] → u.fw.op.map (·.todo) = some rest ∧ u.fw.op.map (·.notBefore) = some ((atTime s t).time + 1000000)) ∧ (rest = [] → u.fw.op = none ∧ u.fw.lastStatus = stDone ∧ u.fw.lastDetail = 0)) ∧
  (∀ (x t b : Nat) (rest : List Nat) (op : FwOp) (s : State), s.fw.op = some op → op.todo = x :: rest → (s.fw.procs.getD x {}).paused = some b → b < t →
    ∃ u, exec (.fwPauseTimeout t) s = .next u ∧ SameBut (partSet [.time, .out, .host, .owners, .fw]) s u ∧ u.fw.op = none ∧ u.fw.lastStatus = stInternal ∧ u.fw.lastDetail = 2 ∧
      (x < s.fw.procs.length → (u.fw.procs.getD x {}).paused = none) ∧
      ((op.switched.map (·.1)).Nodup → ∀ e ∈ op.switched, procKind e.1 = procKind x → e.1 < s.fw.procs.length → (u.fw.procs.getD e.1 {}).image = e.2))

/-- Watchdogs and heartbeats (R462 to R466): a first expiry restarts its processor, and the Damper's holds the level at 50 %; the restart's end puts the processor back; a heartbeat count that
changed is noted with its time, and one that stood for the whole watch makes the owner's rings ORPHANED. -/
def Obligations.WatchdogsAndHeartbeats : Prop :=
  (∀ (x t : Nat) (s : State), x = 0 ∨ (18 ≤ x ∧ x < 24) → procFitted s x = true → x < s.fw.procs.length → (s.fw.procs.getD x {}).fenced = false → (s.fw.procs.getD x {}).image.isSome = true →
    s.timeOn = true → (s.fw.procs.getD x {}).expiries = [] →
    ∃ u, exec (.watchdogExpire x t) s = .next u ∧ (u.fw.procs.getD x {}).restarting = true ∧ (u.fw.procs.getD x {}).fenced = false ∧ u.flight = s.flight) ∧
  (∀ (x : Nat) (s : State), (s.fw.procs.getD x {}).restarting = true → x < s.fw.procs.length →
    ∃ u, exec (.processorRestartDone x) s = .next u ∧ SameBut (partSet [.fw, .power]) s u ∧ (u.fw.procs.getD x {}).restarting = false ∧ (x = 1 → u.power.hold50 = false)) ∧
  (∀ (o : Owner) (stores : List Host.Cell) (t ns n : Nat) (s : State), heartbeatNs (getOwner s o) = some ns → ((getOwner s o).rings.any fun e => e.2.enabled) = true →
    (getOwner s o).hbNext ≤ t → s.cxl.linkUp = true → scrubbing s o = false → (getOwner s o).hbLost = false →
    n = ofLe (Memory.readBytes (Memory.writeCells s.host stores) (fld (getOwner s o).hbAddr 56 3 * 8) 8) → n ≠ (getOwner s o).hbCount →
    exec (.heartbeatRead o stores true t) s = .next (modOwner (atTime { s with host := Memory.writeCells s.host stores } t) o fun y =>
      { y with hbCount := n, hbNext := (atTime s t).time + ns / 4, hbChanged := (atTime s t).time })) ∧
  (∀ (o : Owner) (stores : List Host.Cell) (t ns : Nat) (s : State), heartbeatNs (getOwner s o) = some ns → ((getOwner s o).rings.any fun e => e.2.enabled) = true →
    (getOwner s o).hbNext ≤ t → s.cxl.linkUp = true → scrubbing s o = false → (getOwner s o).hbLost = false → o.idx < s.owners.length → bit (getOwner s o).hbCfg 16 = false →
    (getOwner s o).hbChanged + ns ≤ (atTime s t).time →
    ∃ u, exec (.heartbeatRead o stores false t) s = .next u ∧ (getOwner u o).hbLost = true ∧ SameBut (partSet [.time, .out, .host, .owners]) s u)

/-! ### Partitions and Belfry (chapter 14) -/

/-- PARTITION_CREATE, LOCK and REMOVE (R414 to R417, R437 to R441): with a legal definition, nothing taken, nothing short and Memory_Active set, CREATE makes the partition and gives the
number of its extents; LOCK locks an OPEN partition; REMOVE takes its commit latch, makes the partition SCRUBBING and raises its epoch. -/
def Obligations.PartitionOperations : Prop :=
  (∀ (q t p : Nat) (i : BitVec 32) (rd : HostRead) (d : Desc) (r : ReadRes) (s : State), stationDesc s q i 0x0C 0x30 = some d → d.owner = .fm → d.len = 0 → p = fld (d.w 2) 3 0 →
    bodyOk d.cur [maskOf 3 0, allBits] = true → fld (d.w 3) 63 60 = 0 → (getPart s p).state = .absent → memActive s = true → readIn s d 3 256 rd = .ok r → r.poison = false →
    definitionBad s (toWords 32 r.bytes) = false → takenByOther s (toWords 32 r.bytes) = false → noIdentity s = false ∨ wd (toWords 32 r.bytes) 12 = 0#64 → procAway s 0 = false → belfryFenced s = false →
    ((definedPchs (toWords 32 r.bytes)).any fun c => (List.range 3).any fun k => (getExt s (3 * c + k)).clearing || (getExt s (3 * c + k)).kind == .awaiting) = false →
    storesShort s p (toWords 32 r.bytes) = false →
    exec (.partitionCreate q i rd t) s = .next (endNow (createPart (atTime s t) p (toWords 32 r.bytes)) d stDone 0 (some (3 * (definedPchs (toWords 32 r.bytes)).length)))) ∧
  (∀ (q : Nat) (i : BitVec 32) (d : Desc) (s : State), stationDesc s q i 0x0C 0x32 = some d → d.owner = .fm → d.len = 0 → bodyOk d.cur [maskOf 3 0] = true →
    (getPart s (fld (d.w 2) 3 0)).state = .open_ →
    exec (.partitionLock q i) s = .next (endNow (modPart s (fld (d.w 2) 3 0) fun x => { x with state := .locked }) d stDone 0)) ∧
  (∀ (q t p : Nat) (i : BitVec 32) (d : Desc) (s : State), stationDesc s q i 0x0C 0x31 = some d → d.owner = .fm → d.len = 0 → bodyOk d.cur [maskOf 3 0] = true → p = fld (d.w 2) 3 0 →
    (getPart s p).state = .open_ ∨ (getPart s p).state = .locked →
    ∃ u n, u = commandOn (modPart (yieldBelfry (putDesc (atTime s t) { d with phase := .running, latched := true })) p
        fun x => { x with state := .scrubbing, epoch := (x.epoch + 1) % 2 ^ 32 }) (partDoms (modPart (yieldBelfry (putDesc (atTime s t) { d with phase := .running, latched := true })) p
        fun x => { x with state := .scrubbing, epoch := (x.epoch + 1) % 2 ^ 32 }) p) ∧ n = (scrubFlush u p).2 ∧
      exec (.partitionRemove q i t) s = .next (modPart (scrubLent (scrubNet (scrubFlush u p).1 p) p) p
        fun x => { x with scrub := some { ctx := q, index := i, start := (scrubLent (scrubNet (scrubFlush u p).1 p) p).time, flushed := n } }))

/-- The end of a scrub (R438 to R440): its egress drain ends when no frame of the partition waits, or 2 ms after its start, and no frame of it waits then; with that done and no descriptor of the partition
left, SCRUB_COMPLETE leaves the partition ABSENT with its epoch. -/
def Obligations.ScrubEnds : Prop :=
  (∀ (p : Fin 16) (t : Nat) (x : Scrub) (s : State), (getPart s p.val).scrub = some x → x.drained = false → framesLeft s p.val = false ∨ x.start + 2000000 ≤ t → p.val < s.parts.length →
    ∃ u, exec (.egressDrainEnd p t) s = .next u ∧ SameBut (partSet [.time, .contexts, .parts, .net, .ports]) s u ∧ framesLeft u p.val = false ∧ ((getPart u p.val).scrub.map (·.drained)) = some true) ∧
  (∀ (p : Fin 16) (t : Nat) (x : Scrub) (s : State), (getPart s p.val).scrub = some x → x.drained = true → (s.flight.any fun d => d.owner == .part p) = false →
    findDesc (scrubSteps (atTime s t) p.val).1 x.ctx x.index = none →
    exec (.scrubComplete p t) s = .next (postFm { (scrubSteps (atTime s t) p.val).1 with
      parts := (scrubSteps (atTime s t) p.val).1.parts.set p.val { epoch := (getPart (scrubSteps (atTime s t) p.val).1 p.val).epoch, qpnFirst := (getPart (scrubSteps (atTime s t) p.val).1 p.val).qpnFirst,
                                                                   qpnCount := (getPart (scrubSteps (atTime s t) p.val).1 p.val).qpnCount, hostQos := (getPart (scrubSteps (atTime s t) p.val).1 p.val).hostQos } }
      0xA 1 p.val (BitVec.ofNat 64 (getPart (scrubSteps (atTime s t) p.val).1 p.val).epoch) 0#64))

/-- Belfry's messages (R419 to R427, R432): CERT_GET gives bytes of a certificate, up to its free length (log entry 3), or MALFORMED; ATTEST makes a report and keeps its decapsulation key; SESSION_OPEN with a fresh report of the partition opens its
session and spends the report; KEY_INSTALL with a rising IV gives the next handle when its key opens (log entry 3); KEY_REMOVE of an own handle drops it; a report's key expires after 10 s; the journal's spent
records are erased. -/
def Obligations.BelfryMessages : Prop :=
  (∀ (o a : Owner) (m : MboxMsg) (s : State), Heard s o 0x10 m .any (m.body.length == 8) a → belfryGate s a = none →
    exec (.certGet o m) s = .next (if ofLe (slice m.body 0 4) ≤ 1 ∧ ofLe (slice m.body 4 4) < Config.certLen (ofLe (slice m.body 0 4)) then
        mboxReply s o 0x10 m stDone 0 none none ((List.range (min 4000 (Config.certLen (ofLe (slice m.body 0 4)) - ofLe (slice m.body 4 4)))).map
          fun j => Config.certByte (ofLe (slice m.body 0 4)) (certFields s (ofLe (slice m.body 0 4))) (ofLe (slice m.body 4 4) + j))
      else mboxReply s o 0x10 m stMalformed 1)) ∧
  (∀ (o a : Owner) (m : MboxMsg) (t : Nat) (s : State), Heard (atTime s t) o 0x11 m .any (m.body.length == 32) a → belfryGate (atTime s t) a = none →
    ∃ u, exec (.attest o m t) s = .next u ∧ SameBut (partSet [.time, .free, .out, .belfry]) s u ∧ u.belfry.nextReport = (s.belfry.nextReport + 1) % 2 ^ 32 ∧
      ∃ n, { id := s.belfry.nextReport, pair := n, part := a.part?, made := (atTime s t).time } ∈ u.belfry.reports) ∧
  (∀ (o : Owner) (p : Fin 16) (m : MboxMsg) (t : Nat) (s : State), Heard (atTime s t) o 0x12 m .any (m.body.length == 1096) (.part p) → (getPart s p).live = true → noIdentity s = false →
    ofLe (slice m.body 4 4) = 0 → lookup? s.belfry.sessions p.val = none →
    (s.belfry.reports.any fun r => r.id == ofLe (slice m.body 0 4) && r.part == some p.val && decide ((atTime s t).time < r.made + 10000000000)) = true →
    ∃ u x, exec (.sessionOpen o m t) s = .next u ∧ SameBut (partSet [.time, .free, .out, .belfry]) s u ∧ lookup? u.belfry.sessions p.val = some x ∧
      (u.belfry.reports.all fun r => r.id != ofLe (slice m.body 0 4)) = true) ∧
  (∀ (o : Owner) (p : Fin 16) (m : MboxMsg) (x : Session) (s : State), Heard s o 0x13 m .any (m.body.length == 68) (.part p) → (getPart s p).live = true → noIdentity s = false →
    ofLe (slice m.body 4 4) = 0 → lookup? s.belfry.sessions p.val = some x → (∀ v, x.lastIv = some v → v < ofBe (slice m.body 8 12)) →
    (s.belfry.handles.filter fun h => h.2.part == p.val).length < 4096 →
    ∃ u, exec (.keyInstall o m) s = .next u ∧ SameBut (partSet [.free, .out, .belfry]) s u ∧
      u.belfry.handles = match Config.gcmOpen (sha3 (ascii "LFN install" ++ x.secret)) (slice m.body 8 12) (slice m.body 0 8) (slice m.body 20 48) with
        | some key => assign s.belfry.handles s.belfry.nextHandle { part := p.val, secret := slice key 0 32, epoch := ofLe (slice m.body 0 4) }
        | none => s.belfry.handles) ∧
  (∀ (o : Owner) (p : Fin 16) (m : MboxMsg) (h : KeyHandle) (s : State), Heard s o 0x14 m .any (m.body.length == 4) (.part p) → (getPart s p).live = true → noIdentity s = false →
    lookup? s.belfry.handles (ofLe (slice m.body 0 4)) = some h → h.part = p.val →
    ∃ u, exec (.keyRemove o m) s = .next u ∧ SameBut (partSet [.free, .out, .belfry]) s u ∧ u.belfry.handles = erase s.belfry.handles (ofLe (slice m.body 0 4))) ∧
  (∀ (n t : Nat) (r : Report) (s : State), (s.belfry.reports.find? fun r => r.id == n) = some r → r.made + 10000000000 ≤ t →
    exec (.encapKeyExpire n t) s = .next { atTime s t with belfry := { s.belfry with reports := s.belfry.reports.filter fun x => x.id != n } }) ∧
  (∀ s : State, exec .keyJournalErase s = .next { s with belfry := { s.belfry with journals := s.belfry.journals.map fun j => { j with spent := [] } } })


/-- A frame leaves a link by the change `f` of its queues and tokens: its bytes are those of R286, the port has worked, and a forwarded frame of a lossless class leaves its ingress buffer. -/
abbrev frameLeaves (s : State) (p k t : Nat) (x : Frame) (f : Link → Link) : State :=
  emit (releaseIngress (modDom (modLink (atTime s t) p k f) (142 + p) fun y => { y with lastWork := (atTime s t).time }) p x)
    (.frame p k { x with wire := frameBytes (modDom (modLink (atTime s t) p k f) (142 + p) fun y => { y with lastWork := (atTime s t).time }) p k x })

/-- Frames of a port (R27, R283, R291, R292, R294, R327, R330, R339, R341, R343, R347): a packet for another node with a hop left joins the egress queue of its class with its hop limit lowered; one of a lossless
class fills its link's ingress buffer and starts the node's pause above the threshold; one without a hop, one too long and one past the node's own PAUSE_LIMIT are discarded and counted. The frame of a class
that is next leaves when its link (for a foreign peer, without asking its adjacency, log 37), pause, shaper and gate let it go, and its shaper loses a token: the oldest, but in Absorb mode step state ahead of other flows of a lossless class. A frame the port cannot
carry is counted by its kind. -/
def Obligations.PortFrames : Prop :=
  (∀ (p k : Nat) (mac : Option Nat) (f : Frame) (s : State), linkLive s p f.link = true → s.ports.nodeValid = true → f.cls < 8 → ¬(inPrefix s f.dstAddr = true ∧ nodeOf f.dstAddr = s.ports.nodeId) → f.bytes ≤ frameMax → lossless s f.cls = false →
    forwardTo s p f = .ok (k, mac) → exec (.packetForward p f) s = .next (queueFrame s p k { f with source := 16, hopLimit := f.hopLimit - 1, peerMac := mac })) ∧
  (∀ (p k : Nat) (mac : Option Nat) (f : Frame) (s : State), linkLive s p f.link = true → s.ports.nodeValid = true → f.cls < 8 → ¬(inPrefix s f.dstAddr = true ∧ nodeOf f.dstAddr = s.ports.nodeId) → f.bytes ≤ frameMax → lossless s f.cls = true →
    ((getLink s p f.link).pauseOf f.cls).ownExpired = false → forwardTo s p f = .ok (k, mac) →
    ∃ u, u = modLink (queueFrame s p k { f with source := 16, hopLimit := f.hopLimit - 1, peerMac := mac }) p f.link (fun l => l.modPause f.cls fun (x : PauseS) => { x with ingress := x.ingress + f.bytes }) ∧
      exec (.packetForward p f) s = .next (if 65536 < ((getLink u p f.link).pauseOf f.cls).ingress ∧ ((getLink u p f.link).pauseOf f.cls).own = false then
        sendPause (modLink u p f.link fun l => l.modPause f.cls fun (x : PauseS) => { x with own := true, ownSince := u.time }) p f.link f.cls 0xFFFF else u)) ∧
  (∀ (p : Nat) (f : Frame) (s : State), linkLive s p f.link = true → s.ports.nodeValid = true → f.cls < 8 → ¬(inPrefix s f.dstAddr = true ∧ nodeOf f.dstAddr = s.ports.nodeId) → frameMax < f.bytes →
    exec (.packetForward p f) s = .next (modPort s p fun x => { x with discards := x.discards.modify 0 (· + 1) })) ∧
  (∀ (p : Nat) (f : Frame) (s : State), linkLive s p f.link = true → s.ports.nodeValid = true → f.cls < 8 → ¬(inPrefix s f.dstAddr = true ∧ nodeOf f.dstAddr = s.ports.nodeId) → f.bytes ≤ frameMax → lossless s f.cls = true →
    ((getLink s p f.link).pauseOf f.cls).ownExpired = true → exec (.packetForward p f) s = .next (modPort s p fun x => { x with ownPauseDiscards := x.ownPauseDiscards + 1 })) ∧
  (∀ (p c : Nat) (f : Frame) (s : State), linkLive s p f.link = true → s.ports.nodeValid = true → f.cls < 8 → ¬(inPrefix s f.dstAddr = true ∧ nodeOf f.dstAddr = s.ports.nodeId) → f.bytes ≤ frameMax → lossless s f.cls = false →
    forwardTo s p f = .error c → exec (.packetForward p f) s = .next (countNode s c)) ∧
  (∀ (p k cls t : Nat) (f : Frame) (q : List Frame) (s : State), (getLink s p k).queues.getD cls [] = q → q[nextFrame s cls q]? = some f → linkLive s p k = true → (if f.peerMac.isSome then foreignLinkUp s k else linkUsable s p k) = true →
    s.ports.nodeValid = true → (lossless s cls && ((getLink s p k).pauseOf cls).paused) = false → ((shaperOf (getPort s p) f).filter fun j => bit ((getPort s p).shapersInForce.getD j 0#64) 63) = none →
    gateAllows (getPort s p) f (max s.time t) = true → (cls = 6 ∨ (getLink s p k).queues.getD 6 [] = []) →
    exec (.frameTransmit p k cls t) s = .next (frameLeaves s p k t f (fun l => { l with queues := l.queues.set cls (q.eraseIdx (nextFrame s cls q)) }))) ∧
  (∀ (p k cls t j : Nat) (f : Frame) (q : List Frame) (s : State), (getLink s p k).queues.getD cls [] = q → q[nextFrame s cls q]? = some f → linkLive s p k = true → (if f.peerMac.isSome then foreignLinkUp s k else linkUsable s p k) = true →
    s.ports.nodeValid = true → (lossless s cls && ((getLink s p k).pauseOf cls).paused) = false → shaperOf (getPort s p) f = some j → bit ((getPort s p).shapersInForce.getD j 0#64) 63 = true →
    16 ≤ (getLink s p k).tokens.getD j 0 → gateAllows (getPort s p) f (max s.time t) = true → (cls = 6 ∨ (getLink s p k).queues.getD 6 [] = []) →
    exec (.frameTransmit p k cls t) s = .next (frameLeaves s p k t f (fun l => { l with queues := l.queues.set cls (q.eraseIdx (nextFrame s cls q)), tokens := l.tokens.modify j (· - 16) }))) ∧
  (∀ (cls : Nat) (f : Frame) (q : List Frame) (s : State), ¬(s.power.mode = .absorb ∧ lossless s cls = true) → nextFrame s cls (f :: q) = 0) ∧
  (∀ (cls : Nat) (f g : Frame) (q : List Frame) (s : State), s.power.mode = .absorb → lossless s cls = true → f.step = false → g.step = true → f.dstAddr ≠ g.dstAddr → nextFrame s cls (f :: g :: q) = 1) ∧
  (∀ (p k : Nat) (b : BadFrame) (s : State), linkLive s p k = true →
    exec (.frameDiscard p k b) s = .next (match b with
      | .oversized => modPort s p fun x => { x with discards := x.discards.modify 0 (· + 1) }
      | .linkPause => modPort s p fun x => { x with discards := x.discards.modify 1 (· + 1) }
      | .ipv4 => modPort s p fun x => { x with discards := x.discards.modify 2 (· + 1) }
      | .icmpv6 => countNode s 4
      | .neighbourDiscovery => countNode s 4))

/-- Pause of a node with a valid node ID (R292, R294, R327): a pause frame of a lossless class pauses it for its quanta and of any other class is ignored and counted; a pause ends with its time; the node repeats its own pause while the buffer
is above the threshold; at PAUSE_LIMIT a peer's pause marks the link down and drops the class's queued frames, and the node's own pause ends with arriving frames discarded until the buffer has drained.
The length of a quantum is the model's (log 20). -/
def Obligations.PauseRules : Prop :=
  (∀ (p k cls n t : Nat) (s : State), linkLive s p k = true → s.ports.nodeValid = true → lossless s cls = true →
    exec (.pauseReceive p k cls n t) s = .next (modLink (atTime s t) p k fun l => l.modPause cls fun (x : PauseS) =>
      if n = 0 then { x with paused := false } else { x with paused := true, since := if x.paused then x.since else (atTime s t).time, until_ := (atTime s t).time + quantaNs (getPort s p).mode n })) ∧
  (∀ (p k cls n t : Nat) (s : State), linkLive s p k = true → s.ports.nodeValid = true → lossless s cls = false →
    exec (.pauseReceive p k cls n t) s = .next (countNode (modPort s p fun x => { x with ignoredPause := x.ignoredPause + 1 }) 5)) ∧
  (∀ (p k cls t : Nat) (s : State), ((getLink s p k).pauseOf cls).paused = true → ((getLink s p k).pauseOf cls).until_ ≤ t →
    exec (.pauseTimeExpire p k cls t) s = .next (modLink (atTime s t) p k fun l => l.modPause cls fun (x : PauseS) => { x with paused := false })) ∧
  (∀ (p k cls : Nat) (s : State), linkLive s p k = true → s.ports.nodeValid = true → ((getLink s p k).pauseOf cls).own = true → 65536 < ((getLink s p k).pauseOf cls).ingress →
    exec (.pauseRefresh p k cls) s = .next (emit s (.pause p k cls 0xFFFF (pauseFrame s p k cls 0xFFFF)))) ∧
  (∀ (p k cls n t : Nat) (s : State), pauseLimit s = some n → s.ports.nodeValid = true → ((getLink s p k).pauseOf cls).own = true → ((getLink s p k).pauseOf cls).ownSince + n ≤ t →
    exec (.ownPauseLimit p k cls t) s = .next (emit (modLink (atTime s t) p k fun l => l.modPause cls fun (x : PauseS) => { x with own := false, ownExpired := true }) (.pause p k cls 0 (pauseFrame s p k cls 0)))) ∧
  (∀ (p k cls n t : Nat) (s : State), pauseLimit s = some n → lossless s cls = true → ((getLink s p k).pauseOf cls).paused = true → ((getLink s p k).pauseOf cls).since + n ≤ t →
    (getLink s p k).down = false →
    exec (.remotePauseLimit p k cls t) s = .next (closeDead (atTime s t) (postFm (settleLink (modLink (dropQueued (atTime s t) p k (some cls) false) p k fun (l : Link) => { l with down := true }) p k)
      7 4 (linkSubject p k) (BitVec.ofNat 64 cls) 0#64)))

/-- Discovery and links (R331 to R335, R337, R340, R569): a PHY that comes up makes the first discovery frame due; one that goes down loses adjacency, the queued frames and what was heard; a due
discovery frame leaves with the link's own record; a valid one received is recorded, and adjacency follows whether it saw this node; one of another plane, mode or version changes no neighbour record; a heard record ends
with its TTL; a sound link returns after 1 s; LINK_EN's rising and falling edges and the clearing of DOWN act as written. -/
def Obligations.DiscoveryAndLinks : Prop :=
  (∀ (p k t : Nat) (s : State), linkExists s p k = true → (getDom s (142 + p)).present = .on → (getLink s p k).phyUp = false →
    exec (.phyUp p k t) s = .next (settleLink (modLink (atTime s t) p k fun (l : Link) => { l with phyUp := true, lldpSent := 0, lldpNext := (atTime s t).time }) p k)) ∧
  (∀ (p k t : Nat) (s : State), (getLink s p k).phyUp = true → (getLink s p k).adjacent = false →
    exec (.phyDown p k t) s = .next (loseLink (atTime s t) (modLink (atTime s t) p k fun (l : Link) => { l with phyUp := false, seen := 0#64, ttlEnd := none, pause := l.pause.map fun (x : PauseS) => { x with paused := false } }) p k)) ∧
  (∀ (p k t : Nat) (s : State), (getLink s p k).phyUp = true → (getLink s p k).adjacent = true →
    exec (.phyDown p k t) s = .next (loseLink (atTime s t) (adjacencyEvent (modLink (failAdjacency (atTime s t) p k) p k fun (l : Link) => { l with phyUp := false, seen := 0#64, ttlEnd := none, pause := l.pause.map fun (x : PauseS) => { x with paused := false } }) p k) p k)) ∧
  (∀ (p k t : Nat) (s : State), linkLive s p k = true → (getLink s p k).lldpNext ≤ t → procAway s (portProc s p) = false →
    ∃ v : LldpTlv, v.identity = s.boot.fuses.identity ∧ v.nodeValid = s.ports.nodeValid ∧ v.nodeId = s.ports.nodeId ∧ v.plane = p ∧ v.link = k ∧ v.mode = (getPort s p).mode ∧ v.version = 1 ∧
      v.seen = (getLink s p k).seen ∧ v.mac = linkMac s p k ∧ v.ttl = (4 * fld s.ports.net 23 16 + 9) / 10 ∧
      exec (.lldpSend p k t) s = .next (emit (modLink (atTime s t) p k fun (l : Link) => { l with lldpSent := l.lldpSent + 1, lldpNext := (atTime s t).time +
        (if (getLink s p k).lldpSent < 4 then 100000000 else fld s.ports.net 23 16 * 100000000) }) (.lldp p k v (lldpFrame v)))) ∧
  (∀ (p k t : Nat) (v : LldpTlv) (s : State), linkLive s p k = true → procAway s (portProc s p) = false → v.version = 1 → v.plane = p → v.mode = (getPort s p).mode →
    (v.nodeValid && s.ports.nodeValid && v.nodeId == s.ports.nodeId && v.identity != s.boot.fuses.identity) = false → (getLink s p k).adjacent = false → v.seen = s.boot.fuses.identity → 0 < v.ttl →
    exec (.lldpReceive p k v t) s = .next (closeDead (atTime s t) (settleLink (adjacencyEvent (modLink (atTime s t) p k fun (l : Link) => { l with adjacent := true, identity := v.identity, mac := v.mac, nodeValid := v.nodeValid, nodeId := v.nodeId, tlvMode := v.mode, tlvSeen := v.seen, seen := v.identity, ttlEnd := some ((atTime s t).time + 1000000000 * v.ttl) }) p k) p k))) ∧
  (∀ (p k t : Nat) (v : LldpTlv) (s : State), linkLive s p k = true → procAway s (portProc s p) = false → v.version ≠ 1 ∨ v.plane ≠ p ∨ v.mode ≠ (getPort s p).mode → (getLink s p k).adjacent = false →
    exec (.lldpReceive p k v t) s = .next (closeDead (atTime s t) (settleLink (postFm (modLink (atTime s t) p k fun (l : Link) => { l with tlvMode := v.mode, tlvSeen := 0#64 }) 7 2 (linkSubject p k) v.identity 0#64) p k))) ∧
  (∀ (p k t e : Nat) (s : State), (getLink s p k).ttlEnd = some e → e ≤ t → procAway s (portProc s p) = false → (getLink s p k).adjacent = false →
    exec (.lldpTtlExpire p k t) s = .next (closeDead (atTime s t) (settleLink (modLink (atTime s t) p k fun (l : Link) => { l with seen := 0#64, ttlEnd := none }) p k))) ∧
  (∀ (p k t e : Nat) (s : State), (getLink s p k).ttlEnd = some e → e ≤ t → procAway s (portProc s p) = false → (getLink s p k).adjacent = true →
    exec (.lldpTtlExpire p k t) s = .next (closeDead (atTime s t) (settleLink (adjacencyEvent (modLink (failAdjacency (atTime s t) p k) p k fun (l : Link) => { l with seen := 0#64, ttlEnd := none }) p k) p k))) ∧
  (∀ (p k t x : Nat) (s : State), (getLink s p k).returning = some x → (getLink s p k).sound = true → x + 1000000000 ≤ t →
    exec (.linkReturn p k t) s = .next (modLink (atTime s t) p k fun (l : Link) => { l with usable := true, returning := none })) ∧
  (∀ (p k : Nat) (s : State), p < 8 → k < 4 → (getLink s p k).enabled = false →
    exec (.portLinkEnable p k) s = .next (settleLink (modLink s p k fun (l : Link) => { l with enabled := true, enabledId := l.identity, down := false, failures := [] }) p k)) ∧
  (∀ (p k t : Nat) (s : State), (getLink s p k).enabled = true →
    exec (.portLinkDisable p k t) s = .next (loseLink (atTime s t) (modLink (atTime s t) p k fun (l : Link) => { l with enabled := false }) p k)) ∧
  (∀ (p m t : Nat) (s : State), ∃ u, exec (.portDownClear p m t) s = .next u ∧ SameBut (partSet [.time, .ports]) s u ∧ u.time = (atTime s t).time ∧
    ∀ k, k < 4 → m.testBit k = true → p < s.ports.ports.length → k < (getPort s p).links.length → (getLink u p k).down = false)

/-- Shapers and gate lists (R342 to R346, R563, R570, R571): each 1,000 ns every token count is refilled under the words then written; an active list goes from entry to entry at each entry's
INTERVAL; arming a legal list makes it pending from TAKEOVER, an illegal one is INVALID; an armed list takes over when due; clearing opens every gate. NODE_ID is taken once, and the forwarding and foreign
tables take the words written. -/
def Obligations.ShapersGatesTables : Prop :=
  (∀ (t : Nat) (s : State), t % 1000 = 0 → s.ports.lastRefill < t → s.time ≤ t → s.timeOn = true →
    exec (.shaperRefill t) s = .next { atTime s t with ports := { s.ports with lastRefill := t, ports := s.ports.ports.map fun (p : Port) => { p with shapersInForce := p.shapers, links := p.links.map fun (l : Link) => { l with tokens := l.tokens.mapIdx fun k n => refillTokens (p.shapersInForce.getD k 0#64) (p.shapers.getD k 0#64) n } } } }) ∧
  (∀ (p t : Nat) (s : State), (getPort s p).active ≠ [] → (getPort s p).entryStart + fld ((getPort s p).active.getD (getPort s p).entry 0#64) 31 0 ≤ t →
    exec (.gateEntryAdvance p t) s = .next (modPort (atTime s t) p fun (x : Port) => { x with entry := (x.entry + 1) % x.active.length, entryStart := x.entryStart + fld ((getPort s p).active.getD (getPort s p).entry 0#64) 31 0 })) ∧
  (∀ (p t : Nat) (s : State), (getPort s p).pendState = .armed → (getPort s p).due ≤ t →
    exec (.gateTakeover p t) s = .next (modPort (atTime s t) p fun (x : Port) => { x with active := x.pending.take (x.countM1 + 1), pendState := .empty, entry := 0, entryStart := x.due, late := x.late + (if x.due = x.takeover then 0 else 1) })) ∧
  (∀ (p c t : Nat) (s : State), p < 8 → c < 64 → ((getPort s p).pending.take (c + 1)).all (fun w => decide (100 ≤ fld w 31 0) && decide (fld w 31 0 ≤ 1000000000)) = true → p < s.ports.ports.length →
    ∃ u, exec (.gateArm p c t) s = .next u ∧ SameBut (partSet [.time, .ports]) s u ∧
      getPort u p = { getPort s p with countM1 := c, pendState := .armed, due := if (getPort s p).takeover < (atTime s t).time then ((atTime s t).time / 1000 + 1) * 1000 else (getPort s p).takeover }) ∧
  (∀ (p c t : Nat) (s : State), p < 8 → c < 64 → ((getPort s p).pending.take (c + 1)).all (fun w => decide (100 ≤ fld w 31 0) && decide (fld w 31 0 ≤ 1000000000)) = false → p < s.ports.ports.length →
    ∃ u, exec (.gateArm p c t) s = .next u ∧ SameBut (partSet [.time, .ports]) s u ∧ getPort u p = { getPort s p with countM1 := c, pendState := .invalid }) ∧
  (∀ (p c : Nat) (s : State), p < 8 → exec (.gateClear p c) s = .next (modPort s p fun (x : Port) => { x with active := [], entry := 0, countM1 := if x.pendState = .armed then x.countM1 else c % 64 })) ∧
  (∀ (v : Word) (s : State), s.ports.nodeValid = true → exec (.nodeIdWrite v) s = .next (closeDead s { s with ports := { s.ports with nodeValid := bit v 15 } })) ∧
  (∀ (v : Word) (s : State), s.ports.nodeValid = false → exec (.nodeIdWrite v) s = .next (closeDead s { s with ports := { s.ports with nodeValid := bit v 15, nodeId := fld v 11 0 } })) ∧
  (∀ (n : Nat) (v : Word) (s : State), n < 4096 →
    exec (.forwardingEntryWrite n v) s = .next (closeDead s { s with ports := { s.ports with forwarding := assign s.ports.forwarding n (v &&& (maskOf 63 63 ||| maskOf 31 0)) } })) ∧
  (∀ (e : Nat) (v : Word) (x : Foreign) (s : State), e < 64 → lookup? s.ports.foreign e = some x → bit (v &&& (maskOf 63 63 ||| maskOf 59 48 ||| maskOf 1 0)) 63 = true →
    exec (.foreignEntryWrite e v) s = .next (closeDead s { s with ports := { s.ports with foreign := assign s.ports.foreign e { x with entry := v &&& (maskOf 63 63 ||| maskOf 59 48 ||| maskOf 1 0), live := some (x.addrHi.toNat * 2 ^ 64 + x.addrLo.toNat, fld (v &&& (maskOf 63 63 ||| maskOf 59 48 ||| maskOf 1 0)) 59 48, fld (v &&& (maskOf 63 63 ||| maskOf 59 48 ||| maskOf 1 0)) 1 0, fld x.mac 47 0) } } })) ∧
  (∀ (e : Nat) (v : Word) (x : Foreign) (s : State), e < 64 → lookup? s.ports.foreign e = some x → bit (v &&& (maskOf 63 63 ||| maskOf 59 48 ||| maskOf 1 0)) 63 = false →
    exec (.foreignEntryWrite e v) s = .next (closeDead s { s with ports := { s.ports with foreign := assign s.ports.foreign e { x with entry := v &&& (maskOf 63 63 ||| maskOf 59 48 ||| maskOf 1 0), live := none } } }))

/-- CXL.mem (R114, R357 to R360, R366 to R369): a request whose place can be reached now, of an LD below its limit that has none waiting in that direction, is served: a read whose DPA leads to accessible memory answers its
64 bytes, one that asks for no data is answered without any, and a write to writable memory stores its bytes; a write that leads nowhere is dropped with its event, its log entry and a completion. A MemSpecRd may be dropped without
a response, by a free value, and is else a read. Other opcodes are answered poisoned or dropped. A request that cannot be served yet is held in its entry of the queue, and the held ones of an LD are served when its rate allows. -/
def Obligations.MemRequests : Prop :=
  (∀ (ld : Fin 16) (r : MemReq) (d e off : Nat) (w : Bool) (u : State) (s : State), memUp s ld.val = true → r.opcode = .memRd ∨ r.opcode = .memRdData → r.uncorrectable = false → atLimit s ld.val false = false →
    notYet s ld.val r false = false → (getLd s ld.val).heldReqs.any (fun x => x.2.isSome == false) = false → s.cxl.arriving.any (fun x => x.ld == ld.val && x.write.isSome == false) = false →
    dpaOf (getLd s ld.val) r.addr = some d → memTarget s ld.val (d / 64 * 64) = some (e, off, w) → regionReads s e off 64 ≠ .refused → domsOn s [84 + e / 96] = true → u = countMem (atWork s [84 + e / 96]) ld.val false →
    hbmPoisoned u e off 64 = false →
    exec (.cxlMemRead ld r) s = .next (emit u (.memData ld.val r.addr (Memory.readBytes u.hbm (hbmAddr e off) 64) false (devLoad u ld.val false)))) ∧
  (∀ (ld : Fin 16) (r : MemReq) (s : State), memUp s ld.val = true → r.opcode = .memInv ∨ r.opcode = .memInvNT → atLimit s ld.val false = false →
    notYet s ld.val r false = false → (getLd s ld.val).heldReqs.any (fun x => x.2.isSome == false) = false → s.cxl.arriving.any (fun x => x.ld == ld.val && x.write.isSome == false) = false →
    exec (.cxlMemRead ld r) s = .next (emit s (.memDone ld.val r.addr (devLoad s ld.val false)))) ∧
  (∀ (ld : Fin 16) (r : MemReq) (s : State), memUp s ld.val = true → r.opcode = .memSpecRd → atLimit s ld.val false = false → notYet s ld.val r false = false →
    (getLd s ld.val).heldReqs.any (fun x => x.2.isSome == false) = false → s.cxl.arriving.any (fun x => x.ld == ld.val && x.write.isSome == false) = false →
    exec (.cxlMemRead ld r) s = if Config.free s.free % 2 = 1 then .next (draw s).2 else exec (.cxlMemRead ld { r with opcode := .memRd }) (draw s).2) ∧
  (∀ (ld : Fin 16) (r : MemReq) (d e off : Nat) (data : List Byte) (mask : List Bool) (u v : State) (s : State), memUp s ld.val = true → atLimit s ld.val true = false → notYet s ld.val r true = false →
    (getLd s ld.val).heldReqs.any (fun x => x.2.isSome == true) = false → s.cxl.arriving.any (fun x => x.ld == ld.val && x.write.isSome == true) = false → dpaOf (getLd s ld.val) r.addr = some d →
    memTarget s ld.val (d / 64 * 64) = some (e, off, true) → domsOn s [84 + e / 96] = true → u = countMem (atWork s [84 + e / 96]) ld.val true → ((List.range 64).all fun k => mask.getD k false) = true →
    v = writeHbm u e off ((Memory.readBytes u.hbm (hbmAddr e off) 64).mapIdx fun k b => if mask.getD k false then data.getD k 0#8 else b) →
    exec (.cxlMemWrite ld r data mask false) s = .next (emit v (.memDone ld.val r.addr (devLoad v ld.val true)))) ∧
  (∀ (ld : Fin 16) (r : MemReq) (d : Nat) (data : List Byte) (mask : List Bool) (poison : Bool) (s : State), memUp s ld.val = true → atLimit s ld.val true = false →
    (getLd s ld.val).heldReqs.any (fun x => x.2.isSome == true) = false → s.cxl.arriving.any (fun x => x.ld == ld.val && x.write.isSome == true) = false → dpaOf (getLd s ld.val) r.addr = some d →
    memTarget s ld.val (d / 64 * 64) = none → exec (.cxlMemWrite ld r data mask poison) s = .next (dropWrite s ld.val (d / 64 * 64))) ∧
  (∀ (ld : Fin 16) (r : MemReq) (s : State), memUp s ld.val = true → r.opcode ≠ .memSpecRd → notYet s ld.val r false = true → queueFree s ld.val false = true → (s.cxl.arriving.any fun x => x.ld == ld.val) = false →
    exec (.cxlMemRead ld r) s = .next (markFull (modLd (wakeFor s ld.val r) ld.val fun (l : LdS) => { l with heldReqs := l.heldReqs ++ [(r, none)] }) ld.val)) ∧
  (∀ (ld : Fin 16) (a : Nat) (s : State), memUp s ld.val = true → exec (.cxlMemOtherOpcode ld a true) s = .next (dropWrite s ld.val ((dpaOf (getLd s ld.val) a).getD a))) ∧
  (∀ (ld : Fin 16) (a : Nat) (s : State), memUp s ld.val = true →
    ∃ t n, exec (.cxlMemOtherOpcode ld a false) s = .next t ∧ SameBut (partSet [.out, .cxl]) s t ∧ t.out = .memData ld.val a (List.replicate 64 0#8) true n :: s.out) ∧
  (∀ (ld : Fin 16) (t : Nat) (s : State), memUp s ld.val = true → (getLd s ld.val).heldReqs ≠ [] → exec (.ldRateRelease ld t) s = .next (releaseLd (atTime s t) ld.val))

/-- What a host does with its function (R354, R357, R358, R562): a configuration write is kept, and acts on the Table Access DOE where its register is one of the DOE's (log 45), and register 0 reads vendor and device; a legal HDM decoder is committed after those before it and an illegal
one is not; a window's mode changes at once, the lowering drains from now, and the drain ends. -/
def Obligations.ConfigAndWindows : Prop :=
  (∀ (p : Fin 16) (reg : Nat) (v : Word) (s : State), s.cxl.linkUp = true → presented s (.part p) = true → [StartPhase.processorsUp, .hbmTrained, .cleared, .active].contains s.boot.phase = true →
    scrubbing s (.part p) = false → reg ≠ Config.msixDword →
    exec (.configRequest (.part p) reg (some v)) s = .next (emit (writeDoe (modLd s p.val fun (l : LdS) => { l with config := assign l.config reg (v &&& maskOf 31 0) }) p.val reg (v &&& maskOf 31 0).toNat) (.config (.part p) reg (some 0#64)))) ∧
  (∀ (o : Owner) (s : State), s.cxl.linkUp = true → presented s o = true → [StartPhase.processorsUp, .hbmTrained, .cleared, .active].contains s.boot.phase = true → scrubbing s o = false →
    exec (.configRequest o 0 none) s = .next (emit s (.config o 0 (some (BitVec.ofNat 64 ((if s.cxl.direct then 0x4C48 else if o = .fm then 0x4C47 else 0x4C46) * 65536 + 0x1E5F)))))) ∧
  (∀ (o : Owner) (reg : Nat) (wr : Option Word) (s : State), s.cxl.linkUp = true → presented s o = true → [StartPhase.processorsUp, .hbmTrained, .cleared, .active].contains s.boot.phase = false →
    exec (.configRequest o reg wr) s = .next (emit s (.config o reg none))) ∧
  (∀ (ld : Fin 16) (d base size skip ways gran : Nat) (s : State), d < 8 → memUp s ld.val = true → (getPart s ld.val).state ≠ .scrubbing → (getLd s ld.val).decoders.length = 8 →
    ld.val < s.cxl.lds.length → ((getLd s ld.val).decoders.all fun x => !x.committed) = true → [1, 2, 4, 8].contains ways = true → [256, 512, 1024, 2048, 4096, 8192, 16384].contains gran = true →
    size % (2 ^ 28 * ways) = 0 → skip + size / ways ≤ 2 ^ 39 →
    ∃ t, exec (.hdmDecoderCommit ld d base size skip ways gran) s = .next t ∧ SameBut (partSet [.cxl]) s t ∧
      (getLd t ld.val).decoders[d]? = some { base := base, size := size, skip := skip, ways := ways, gran := gran, dpaBase := skip, committed := true, errorNotCommitted := false }) ∧
  (∀ (ld : Fin 16) (d base size skip ways gran : Nat) (s : State), d < 8 → memUp s ld.val = true → (getPart s ld.val).state ≠ .scrubbing → (getLd s ld.val).decoders.length = 8 →
    ld.val < s.cxl.lds.length → [1, 2, 4, 8].contains ways = false →
    ∃ t x, exec (.hdmDecoderCommit ld d base size skip ways gran) s = .next t ∧ SameBut (partSet [.cxl]) s t ∧
      (getLd t ld.val).decoders[d]? = some x ∧ x.committed = false ∧ x.errorNotCommitted = true) ∧
  (∀ (p : Fin 16) (slot mode t e : Nat) (s : State), (getPart s p.val).live = true → (getPart s p.val).state ≠ .scrubbing → s.cxl.linkUp = true → ownExt s p.val slot = some e →
    (∀ n, (getExt s e).use ≠ .page n) → (getExt s e).use ≠ .control → (getPart s p.val).confidential = false → mode < 3 → winModeOf mode ≠ (lookup? (getLd s p.val).modes slot).getD .none →
    exec (.windowModeWrite p slot mode t) s = .next (cdatRebuild (modLd (atTime s t) p.val fun (l : LdS) => { l with
      modes := if mode = 0 then erase l.modes slot else assign l.modes slot (winModeOf mode)
      draining := if mode < ((lookup? (getLd s p.val).modes slot).getD .none).code then assign l.draining slot (atTime s t).time else l.draining }) p.val slot 1)) ∧
  (∀ (p : Fin 16) (slot t b : Nat) (s : State), lookup? (getLd s p.val).draining slot = some b → b ≤ t →
    exec (.windowDrainDone p slot t) s = .next (modLd (atTime s t) p.val fun (l : LdS) => { l with draining := erase l.draining slot }))

/-- Lending, taking back and published regions (R370 to R380): EXTENT_ASSIGN puts a free pool extent at a slot that the LD does not use and gives the number of holders; EXTENT_REVOKE takes its commit point,
removes the extent from decode at once and drains; the last drain starts the clear, and the clear ends the revocation; REGION_PUBLISH with the version it read writes the descriptor and raises the version, and
REGION_QUERY reads both. -/
def Obligations.LendsAndRegions : Prop :=
  (∀ (q e p slot mode region : Nat) (i : BitVec 32) (d : Desc) (u v : State) (s : State), stationDesc s q i 0x0C 0x40 = some d → d.owner = .fm → d.len = 0 →
    bodyOk d.cur [maskOf 39 32 ||| maskOf 29 28 ||| maskOf 26 16 ||| maskOf 15 12 ||| maskOf 10 0] = true → e = fld (d.w 2) 10 0 → p = fld (d.w 2) 15 12 → slot = fld (d.w 2) 26 16 →
    mode = fld (d.w 2) 29 28 → region = fld (d.w 2) 39 32 → mode = 1 ∨ mode = 2 → revokeBefore s d e p = false → ((holdersOf s e).isEmpty && s.cxl.revokes.any (fun r => r.ext == e)) = false → (getExt s e).clearing = false → (getExt s e).kind ≠ .awaiting → lendable s e = true →
    ldRefuses s p = false → ownCount s p ≤ slot → lookup? (getLd s p).lent slot = none → (holdersOf s e).contains p = false →
    (s.cxl.lds.any fun l => l.lent.any fun x => x.2.ext == e && x.2.region != region) = false → u = modLd s p (fun (l : LdS) => { l with lent := assign l.lent slot { ext := e, mode := winModeOf mode, region := region } }) →
    v = (if region ≠ 0 ∧ lookup? u.cxl.regions region = none then { u with cxl := { u.cxl with regions := assign u.cxl.regions region {} } } else u) →
    exec (.extentAssign q i) s = .next (cdatRebuild (endNow v d stDone 0 (some (holdersOf v e).length)) p slot 1)) ∧
  (∀ (q t e p : Nat) (i : BitVec 32) (d : Desc) (s : State), stationDesc s q i 0x0C 0x41 = some d → d.owner = .fm → d.len = 0 → bodyOk d.cur [maskOf 16 0 &&& ~~~(maskOf 11 11)] = true →
    e = fld (d.w 2) 10 0 → p = fld (d.w 2) 15 12 → bit (d.w 2) 16 = false →
    ((s.flight.takeWhile fun x => !(x.ctx == q && x.index == i)).any fun x =>
      x.opcode == 0x0C && (x.subop == 0x40 || x.subop == 0x41) && x.phase != .finished && fld (x.w 2) 10 0 == e) = false →
    inPool s e = true → ldRefuses s p = false → (holdersOf s e).contains p = true →
    ∃ u n, (u, n) = reclaimLent (putDesc (atTime s t) { d with phase := .running, latched := true }) e p ∧
      exec (.extentRevoke q i t) s = .next { u with cxl := { u.cxl with revokes := u.cxl.revokes ++ [{ ctx := q, index := i, ext := e, draining := [p], revoked := [], stopped := n }] } }) ∧
  (∀ (q : Nat) (i : BitVec 32) (r : Revoke) (s : State), (s.cxl.revokes.find? fun r => r.ctx == q && r.index == i && !r.clearing) = some r → holdersOf s r.ext = [] →
    ∃ u, exec (.revokeDrainDone q i) s = .next u ∧ SameBut (partSet [.extents, .cxl]) s u ∧ (r.ext < s.extents.length → (getExt u r.ext).clearing = true ∧ (getExt u r.ext).kind = .openRows)) ∧
  (∀ (q : Nat) (i : BitVec 32) (r : Revoke) (s : State), (s.cxl.revokes.find? fun r => r.ctx == q && r.index == i && !r.clearing) = some r → holdersOf s r.ext ≠ [] →
    exec (.revokeDrainDone q i) s = .next (endRevoke s { r with draining := [], revoked := r.draining })) ∧
  (∀ (e : Nat) (s : State), (getExt s e).clearing = true → pchFenced s (e / 3) = false → (s.cxl.revokes.find? fun r => r.ext == e && r.clearing) = none →
    exec (.extentClearDone e) s = .next (clearExtent s e)) ∧
  (∀ (e : Nat) (r : Revoke) (s : State), (getExt s e).clearing = true → pchFenced s (e / 3) = false → (s.cxl.revokes.find? fun r => r.ext == e && r.clearing) = some r →
    exec (.extentClearDone e) s = .next (endRevoke (clearExtent s e) r)) ∧
  (∀ (o a : Owner) (m : MboxMsg) (x : PubRegion) (s : State), Heard s o 0x20 m .partition (m.body.length == 24) a → 0 < m.at_ 0 → ((m.body.drop 1).take 7).all (· == 0#8) = true →
    holdsRegion s a.idx (m.at_ 0) true = true → lookup? s.cxl.regions (m.at_ 0) = some x → ofLe (slice m.body 8 8) = x.version →
    ∃ u, exec (.regionPublish o m) s = .next u ∧ SameBut (partSet [.free, .out, .host, .owners, .cxl]) s u ∧
      lookup? u.cxl.regions (m.at_ 0) = some { version := (x.version + 1) % 2 ^ 64, descriptor := BitVec.ofNat 64 (ofLe (slice m.body 16 8)) }) ∧
  (∀ (o a : Owner) (m : MboxMsg) (x : PubRegion) (s : State), Heard s o 0x20 m .partition (m.body.length == 24) a → 0 < m.at_ 0 → ((m.body.drop 1).take 7).all (· == 0#8) = true →
    holdsRegion s a.idx (m.at_ 0) true = true → lookup? s.cxl.regions (m.at_ 0) = some x → ofLe (slice m.body 8 8) ≠ x.version →
    exec (.regionPublish o m) s = .next (mboxReply s o 0x20 m stConflict 0 (some x.descriptor.toNat) (some x.version) (leBytes 8 x.descriptor.toNat))) ∧
  (∀ (o a : Owner) (m : MboxMsg) (x : PubRegion) (s : State), Heard s o 0x21 m .partition (m.body.length == 24) a → 0 < m.at_ 0 → (m.body.drop 1).all (· == 0#8) = true →
    holdsRegion s a.idx (m.at_ 0) false = true → lookup? s.cxl.regions (m.at_ 0) = some x →
    exec (.regionQuery o m) s = .next (mboxReply s o 0x21 m stDone 0 (some x.descriptor.toNat) (some x.version) (leBytes 8 x.descriptor.toNat)))

/-- The standard mailbox and the FM's commands (R350, R355, R365 to R367, R416, R565). Command codes, return codes and layouts are the CXL specification's and the model's (log 45), and contents that
the spec does not give are free. -/
def Obligations.StandardMailbox : Prop :=
  (∀ (o : Owner) (s : State), mailboxUp s = true → presented s o = true → scrubbing s o = false →
    ∃ t a b, exec (.identifyMemoryDevice o) s = .next t ∧ SameBut (partSet [.free, .out]) s t ∧ a.length = 16 ∧
      t.out = .cxlMbox o 0x4000 0 (a ++ leBytes 8 2048 ++ leBytes 8 2048 ++ leBytes 8 0 ++ b) :: s.out) ∧
  (∀ (o : Owner) (s : State), mailboxUp s = true → presented s o = true → scrubbing s o = false →
    ∃ t a b, exec (.getHealthInfo o) s = .next t ∧ SameBut (partSet [.free, .out]) s t ∧ a.length = 4 ∧
      t.out = .cxlMbox o 0x4200 0 (a ++ leBytes 2 ((hottest s) % 65536).toNat ++ b) :: s.out) ∧
  (∀ (p : Fin 16) (log : Nat) (s : State), mailboxUp s = true → presented s (.part p) = true → scrubbing s (.part p) = false →
    exec (.getEventRecords (.part p) log) s = .next (emit s (.cxlMbox (.part p) 0x0100 0 (leBytes 2 (getLd s p.val).events.length ++
      (getLd s p.val).events.flatMap fun e => leBytes 2 e.handle ++ leBytes 1 (b2n e.dropped) ++ leBytes 8 e.dpa)))) ∧
  (∀ (p : Fin 16) (log : Nat) (hs : List Nat) (s : State), mailboxUp s = true → presented s (.part p) = true → scrubbing s (.part p) = false → hs ≠ [] →
    (∀ h ∈ hs, ∃ e ∈ (getLd s p.val).events, e.handle = h) →
    exec (.clearEventRecords (.part p) log hs) s = .next (emit (modLd s p.val fun (l : LdS) => { l with events := l.events.filter fun e => !hs.contains e.handle }) (.cxlMbox (.part p) 0x0101 0 []))) ∧
  (∀ (p : Fin 16) (start len : Nat) (s : State), mailboxUp s = true → presented s (.part p) = true → scrubbing s (.part p) = false →
    ∃ t n bs, exec (.getPoisonList (.part p) start len) s = .next t ∧ SameBut (partSet [.out]) s t ∧ t.out = .cxlMbox (.part p) 0x4300 0 bs :: s.out ∧
      n = ((poisonOf s p.val).1.filter fun a => decide (a < start + len ∧ start < a + 64)).length + ((poisonOf s p.val).2.filter fun a => decide (a < start + len ∧ start < a + 2 ^ 28)).length ∧
      slice bs 1 2 = leBytes 2 n) ∧
  (∀ (p : Fin 16) (dpa e off : Nat) (s : State), mailboxUp s = true → presented s (.part p) = true → scrubbing s (.part p) = false → (getPart s p.val).state ≠ .locked →
    lineOf s (.part p) dpa = some (e, off) → exec (.injectPoison (.part p) dpa) s = .next (emit (poisonLine s e off) (.cxlMbox (.part p) 0x4301 0 []))) ∧
  (∀ (p : Fin 16) (dpa : Nat) (s : State), mailboxUp s = true → presented s (.part p) = true → scrubbing s (.part p) = false → (getPart s p.val).state = .locked →
    exec (.injectPoison (.part p) dpa) s = .next (emit s (.cxlMbox (.part p) 0x4301 0x13 []))) ∧
  (∀ (p : Fin 16) (dpa e off : Nat) (data : List Byte) (s : State), mailboxUp s = true → presented s (.part p) = true → scrubbing s (.part p) = false → lineOf s (.part p) dpa = some (e, off) →
    exec (.clearPoison (.part p) dpa data) s = .next (emit (writeHbm s e off (slice data 0 64)) (.cxlMbox (.part p) 0x4302 0 []))) ∧
  (∀ (o : Owner) (s : State), mailboxUp s = true → presented s o = true → scrubbing s o = false →
    ∃ t b, exec (.getSupportedLogs o) s = .next t ∧ SameBut (partSet [.free, .out]) s t ∧ t.out = .cxlMbox o 0x0400 0 b :: s.out) ∧
  (∀ (o : Owner) (log off len : Nat) (s : State), mailboxUp s = true → presented s o = true → scrubbing s o = false →
    ∃ t b, exec (.getLog o log off len) s = .next t ∧ SameBut (partSet [.free, .out]) s t ∧ b.length = len ∧ t.out = .cxlMbox o 0x0401 0 b :: s.out) ∧
  (∀ (o : Owner) (s : State), mailboxUp s = true → presented s o = true → scrubbing s o = false →
    ∃ t b, exec (.getTimestamp o) s = .next t ∧ SameBut (partSet [.free, .out]) s t ∧ b.length = 8 ∧ t.out = .cxlMbox o 0x0300 0 b :: s.out) ∧
  (∀ (o : Owner) (code : Nat) (s : State), mailboxUp s = true → presented s o = true → scrubbing s o = false → exec (.unsupportedCommand o code) s = .next (emit s (.cxlMbox o code 3 []))) ∧
  (∀ (p v : Nat) (s : State), mailboxUp s = true → s.cxl.direct = false → p < 16 → v < 256 → (getPart s p).state ≠ .locked → (getPart s p).state ≠ .scrubbing →
    (((List.range 16).filter (· != p)).map fun j => qosAlloc s j false).sum + v ≤ 256 → (((List.range 16).filter (· != p)).map fun j => qosAlloc s j true).sum + v ≤ 256 →
    exec (.setQosAllocatedBw p [v]) s = .next (emit (modPart s p fun x => { x with hostQos := setFld (setFld x.hostQos 23 16 v) 7 0 v }) (.cxlMbox .fm 0x5407 0 []))) ∧
  (∀ (p v : Nat) (s : State), mailboxUp s = true → s.cxl.direct = false → p < 16 → v < 256 → (getPart s p).state ≠ .locked → (getPart s p).state ≠ .scrubbing →
    exec (.setQosBwLimit p [v]) s = .next (emit (modPart s p fun x => { x with hostQos := setFld (setFld x.hostQos 31 24 v) 15 8 v }) (.cxlMbox .fm 0x5409 0 []))) ∧
  (∀ (body : List Byte) (s : State), mailboxUp s = true → s.cxl.direct = false →
    exec (.fmApiCommand 0x5406 body) s = .next (emit s (.cxlMbox .fm 0x5406 0 ([BitVec.ofNat 8 (body.getD 0 0#8).toNat, BitVec.ofNat 8 (body.getD 1 0#8).toNat] ++
      (List.range (body.getD 0 0#8).toNat).map fun k => BitVec.ofNat 8 (qosAlloc s ((body.getD 1 0#8).toNat + k) false)))))

/-- Flash objects (R384 to R390, R394): DRAIN takes its source into an object in progress and starts the writes of its stripes and of both directory copies; DELETE starts the write of the directory; LIFT starts
its reads; STAT gives the object's record. The operations name a partition, leave LEN 0, and run once awake. The write of a directory is the model's one unit for each copy (log 21). -/
def Obligations.ObjectOperations : Prop :=
  (∀ (q t id n : Nat) (i : BitVec 32) (rd : HostRead) (p : Fin 16) (d d' : Desc) (r : ReadRes) (tb : Option DecodeTable) (body : List Byte) (obj : FlashObj) (u v : State) (s : State), Taken (atTime s t) q i 0x07 1 [3] d → d.owner = .part p →
    d.len = 0 → bodyOk d.cur [maskOf 63 30 ||| maskOf 23 0, allBits, maskOf 31 0] = true → u = atWork (atTime s t) (needs (atTime s t) d [3]) → id = fld (d.w 2) 63 32 → id ≠ 0xFFFFFFFF →
    n = fld (d.w 4) 31 0 → 0 < n → n ≤ 268435456 → tb = (if bit (d.w 2) 31 = true then d.tables.getD (fld (d.w 2) 30 30) none else none) →
    (bit (d.w 2) 31 = true → n % 2 = 0 ∧ tb ≠ none ∧ d.slotWaits (fld (d.w 2) 30 30) = false) → inRegion u p.val id = false → readIn u d 3 n rd = .ok r → r.poison = false →
    body = storedForm (fld (d.w 2) 30 30) tb r.bytes → roomFor u p.val id body.length = none →
    obj = { data := r.bytes, coded := bit (d.w 2) 31, table := tb, stored := body.length, spaces := usableNs u p.val, gen := (getFlash u p.val).nextGen } →
    v = modFlash u p.val (fun y => { y with nextGen := y.nextGen + 1 }) → d' = { d with phase := .running, pendingObj := some obj, unitsLeft := if bit (d.w 2) 31 = true then ceilDiv n 4096 else 0 } →
    exec (.drainObject q i rd t) s = .next (addOps (putDesc v d') d' (some id) none (v.time + deadlineNs d' (fld (d.w 2) 23 0)) true (objectPieces p.val obj 0 body.length body ++ directoryPieces v p.val))) ∧
  (∀ (q t id : Nat) (i : BitVec 32) (p : Fin 16) (d : Desc) (x : FlashObj) (u : State) (s : State), Taken (atTime s t) q i 0x07 2 [] d → d.owner = .part p → d.len = 0 →
    bodyOk d.cur [maskOf 63 32] = true → u = atWork (atTime s t) (needs (atTime s t) d []) → id = fld (d.w 2) 63 32 → id ≠ 0xFFFFFFFF → inRegion u p.val id = false →
    lookup? (getFlash u p.val).objects id = some x → readableCopies u p.val ≠ [] →
    exec (.delete q i t) s = .next (addOps (putDesc u { d with phase := .running }) { d with phase := .running } (some id) none (2 ^ 64) true (directoryPieces u p.val))) ∧
  (∀ (q t n off : Nat) (i : BitVec 32) (p : Fin 16) (d : Desc) (x : FlashObj) (u : State) (s : State), Taken (atTime s t) q i 0x08 1 [3] d → d.owner = .part p → d.len = 0 →
    bodyOk d.cur [maskOf 63 32 ||| maskOf 23 0, allBits, maskOf 31 0, maskOf 31 0] = true → u = atWork (atTime s t) (needs (atTime s t) d [3]) → fld (d.w 2) 63 32 ≠ 0xFFFFFFFF →
    off = fld (d.w 5) 31 0 → off % 4096 = 0 → fld (d.w 4) 31 0 ≤ 268435456 → d.objGen.bind (objectOf u p.val) = some x →
    n = (if fld (d.w 4) 31 0 = 0 then x.data.length - off else fld (d.w 4) 31 0) → 0 < n → off + n ≤ x.data.length → d.w 3 = 0#64 → n ≤ 65536 →
    x.serves u = true → readableCopies u p.val ≠ [] →
    exec (.liftObject q i t) s = .next (addOps (putDesc u { d with phase := .running }) { d with phase := .running } (some (fld (d.w 2) 63 32)) none (u.time + deadlineNs d (fld (d.w 2) 23 0)) false
      (objectPieces p.val x (storedPart x off n).1 (storedPart x off n).2 []))) ∧
  (∀ (q t n off : Nat) (i : BitVec 32) (p : Fin 16) (d : Desc) (x : FlashObj) (loc : Loc) (u : State) (s : State), Taken (atTime s t) q i 0x08 1 [3] d → d.owner = .part p → d.len = 0 →
    bodyOk d.cur [maskOf 63 32 ||| maskOf 23 0, allBits, maskOf 31 0, maskOf 31 0] = true → u = atWork (atTime s t) (needs (atTime s t) d [3]) → fld (d.w 2) 63 32 ≠ 0xFFFFFFFF →
    off = fld (d.w 5) 31 0 → off % 4096 = 0 → fld (d.w 4) 31 0 ≤ 268435456 → d.objGen.bind (objectOf u p.val) = some x →
    n = (if fld (d.w 4) 31 0 = 0 then x.data.length - off else fld (d.w 4) 31 0) → 0 < n → off + n ≤ x.data.length → d.w 3 ≠ 0#64 →
    locate u d.owner (d.w 3) (occupied u d.owner (d.w 3) n) true = .ok loc → writable u loc = none → x.serves u = true → readableCopies u p.val ≠ [] →
    exec (.liftObject q i t) s = .next (addOps (putDesc u { d with phase := .running }) { d with phase := .running } (some (fld (d.w 2) 63 32)) none (u.time + deadlineNs d (fld (d.w 2) 23 0)) false
      (objectPieces p.val x (storedPart x off n).1 (storedPart x off n).2 []))) ∧
  (∀ (q : Nat) (i : BitVec 32) (p : Fin 16) (d : Desc) (x : FlashObj) (u : State) (s : State), Taken s q i 0x08 2 [3] d → d.owner = .part p → d.len = 0 → bodyOk d.cur [maskOf 63 32, allBits] = true →
    u = atWork s (needs s d [3]) → fld (d.w 2) 63 32 ≠ 0xFFFFFFFF → lookup? (getFlash u p.val).objects (fld (d.w 2) 63 32) = some x → d.w 3 = 0#64 →
    exec (.stat q i) s = .next (putDesc u { d.finish stDone 0 with
      output := some { bytes := ofWords (objectRecord (fld (d.w 2) 63 32) x ((lookup? (getFlash u p.val).stats (fld (d.w 2) 63 32)).getD {})) } })) ∧
  (∀ (q : Nat) (i : BitVec 32) (p : Fin 16) (d : Desc) (x : FlashObj) (u v : State) (s : State), Taken s q i 0x08 2 [3] d → d.owner = .part p → d.len = 0 → bodyOk d.cur [maskOf 63 32, allBits] = true →
    u = atWork s (needs s d [3]) → fld (d.w 2) 63 32 ≠ 0xFFFFFFFF → lookup? (getFlash u p.val).objects (fld (d.w 2) 63 32) = some x → d.w 3 ≠ 0#64 →
    writeOut u d 3 (ofWords (objectRecord (fld (d.w 2) 63 32) x ((lookup? (getFlash u p.val).stats (fld (d.w 2) 63 32)).getD {}))) = .ok v →
    exec (.stat q i) s = .next (putDesc v (d.finish stDone 0)))

/-- Step-state regions (R397 to R404): STEP_SETUP claims Guarded extents in no use for a region, which its commit makes; STEP_PUBLISH with the region's version stages SEALED with a new version and descriptor, and
with another version ends CONFLICT; STEP_OPEN stages OPEN for a SEALED or DURABLE region; STEP_RELEASE stages its end or starts the write of the directory; STEP_DRAIN and STEP_RESTORE begin; STEP_QUERY gives
state, version and descriptor. A change that is applied leaves the region so. The step operations of one region wait for a change of it that another descriptor has staged (log 41). -/
def Obligations.StepRegions : Prop :=
  (∀ (q count first base : Nat) (i : BitVec 32) (p : Fin 16) (d : Desc) (es : List Nat) (u v : State) (s : State), Taken s q i 0x07 0x10 [] d → d.owner = .part p → d.len = 0 →
    bodyOk d.cur [maskOf 35 32, maskOf 26 16 ||| maskOf 10 0, maskOf 31 0] = true → u = atWork s (needs s d []) → regionTaken u d = false → v = stagedView u d → memActive u = true →
    count = fld (d.w 3) 26 16 → first = fld (d.w 3) 10 0 → base = fld (d.w 4) 31 0 → 0 < count → base + 2 * count ≤ 0xFFFFFFFF → lookup? (getFlash v p.val).regions d.region = none →
    (List.range count).map (fun k => ownExt u p.val (first + k)) = es.map some →
    (∀ e ∈ es, (getExt v e).kind = .guarded ∧ (getExt v e).use = .none ∧ claimedElse u d e = false ∧ (getExt v e).clearing = false) →
    ((getFlash v p.val).regions.any fun x => decide (x.2.base < base + 2 * count ∧ base < x.2.base + 2 * x.2.count)) = false → (copyDrives u p.val = [] ∨ readableCopies u p.val ≠ []) →
    exec (.stepSetup q i) s = .next (regionEnd (es.foldl (fun s e => modExt s e fun x => { x with claim := some (d.ctx, d.index, none) }) u) d p.val (.setup count first base
      (((lookup? (getFlash v p.val).entries d.region).filter fun x => x.count == count && x.base == base).map fun x => (x.version, x.descriptor))))) ∧
  (∀ (q : Nat) (i : BitVec 32) (p : Fin 16) (d : Desc) (x : StepRegion) (u : State) (s : State), Taken s q i 0x07 0x11 [] d → d.owner = .part p → d.len = 0 →
    bodyOk d.cur [maskOf 35 32, allBits, allBits] = true → u = atWork s (needs s d []) → regionTaken u d = false →
    ((u.flight.takeWhile fun y => !(y.ctx == d.ctx && y.index == d.index)).any fun y => y.owner == d.owner && y.phase == .ready && y.opcode == 0x07 && y.subop == 0x11 && y.region == d.region) = false →
    stagedRegion u d p.val = some x → (d.w 3).toNat = x.version → x.state = .open_ →
    exec (.stepPublish q i) s = .next (regionEnd u d p.val (.publish ((x.version + 1) % 2 ^ 64) (d.w 4)) (some ((x.version + 1) % 2 ^ 64)))) ∧
  (∀ (q : Nat) (i : BitVec 32) (p : Fin 16) (d : Desc) (x : StepRegion) (u : State) (s : State), Taken s q i 0x07 0x11 [] d → d.owner = .part p → d.len = 0 →
    bodyOk d.cur [maskOf 35 32, allBits, allBits] = true → u = atWork s (needs s d []) → regionTaken u d = false →
    ((u.flight.takeWhile fun y => !(y.ctx == d.ctx && y.index == d.index)).any fun y => y.owner == d.owner && y.phase == .ready && y.opcode == 0x07 && y.subop == 0x11 && y.region == d.region) = false →
    stagedRegion u d p.val = some x → (d.w 3).toNat ≠ x.version →
    exec (.stepPublish q i) s = .next (putDesc u (d.finish stConflict 0 (some x.state.code) (some x.version)))) ∧
  (∀ (q : Nat) (i : BitVec 32) (p : Fin 16) (d : Desc) (x : StepRegion) (u : State) (s : State), Taken s q i 0x07 0x13 [] d → d.owner = .part p → d.len = 0 → bodyOk d.cur [maskOf 35 32] = true →
    u = atWork s (needs s d []) → regionTaken u d = false → stagedRegion u d p.val = some x → x.state = .sealed ∨ x.state = .durable →
    exec (.stepOpen q i) s = .next (regionEnd u d p.val .open_)) ∧
  (∀ (q : Nat) (i : BitVec 32) (p : Fin 16) (d : Desc) (x : StepRegion) (u : State) (s : State), Taken s q i 0x07 0x14 [] d → d.owner = .part p → d.len = 0 →
    bodyOk d.cur [maskOf 35 32 ||| maskOf 29 29] = true → u = atWork s (needs s d []) → regionTaken u d = false → stagedRegion u d p.val = some x → x.state ≠ .draining → x.state ≠ .lifting →
    bit (d.w 2) 29 = false ∨ copyDrives u p.val = [] →
    exec (.stepRelease q i) s = .next (endNow u { d with effects := d.effects ++ [.endRegion p.val d.region (bit (d.w 2) 29)] } stDone 0)) ∧
  (∀ (q : Nat) (i : BitVec 32) (p : Fin 16) (d : Desc) (x : StepRegion) (u : State) (s : State), Taken s q i 0x07 0x14 [] d → d.owner = .part p → d.len = 0 →
    bodyOk d.cur [maskOf 35 32 ||| maskOf 29 29] = true → u = atWork s (needs s d []) → regionTaken u d = false → stagedRegion u d p.val = some x → x.state ≠ .draining → x.state ≠ .lifting →
    bit (d.w 2) 29 = true → copyDrives u p.val ≠ [] → readableCopies u p.val ≠ [] →
    exec (.stepRelease q i) s = .next (addOps (putDesc u { d with phase := .running }) { d with phase := .running } none none (2 ^ 64) true (directoryPieces u p.val))) ∧
  (∀ (q t : Nat) (i : BitVec 32) (p : Fin 16) (d : Desc) (x : StepRegion) (u : State) (s : State), Taken (atTime s t) q i 0x07 0x12 [] d → d.owner = .part p → d.len = 0 →
    bodyOk d.cur [maskOf 35 30 ||| maskOf 23 0] = true → u = atWork (atTime s t) (needs (atTime s t) d []) → regionTaken u d = false → lookup? (getFlash u p.val).regions d.region = some x →
    (bit (d.w 2) 31 = true → d.slotWaits (fld (d.w 2) 30 30) = false ∧ drainTable d ≠ none) → x.state = .sealed →
    exec (.stepDrain q i t) s = .next (startObjects p.val { d with phase := .running } x.count (modRegion (putDesc u { d with phase := .running }) p.val d.region fun x =>
      { x with state := .draining, started := 0, writing := [], done := [], by_ := some (d.ctx, d.index) }))) ∧
  (∀ (q t : Nat) (i : BitVec 32) (p : Fin 16) (d d' : Desc) (x : StepRegion) (os : List FlashObj) (u v : State) (s : State), Taken (atTime s t) q i 0x08 0x10 [] d → d.owner = .part p → d.len = 0 →
    bodyOk d.cur [maskOf 35 32 ||| maskOf 23 0] = true → u = atWork (atTime s t) (needs (atTime s t) d []) → regionTaken u d = false → lookup? (getFlash u p.val).regions d.region = some x → memActive u = true →
    x.state = .onFlash → versionObjects u p.val x = os.map some → os.all (fun o => o.serves u) = true → readableCopies u p.val ≠ [] →
    d' = { d with phase := .running, unitsLeft := (os.filter (·.coded)).length * (extentBytes / 4096) } →
    v = modRegion (putDesc u d') p.val d.region (fun x => { x with state := .lifting, lifted := [], by_ := some (d.ctx, d.index) }) →
    exec (.stepRestore q i t) s = .next (os.zipIdx.foldl (fun v (o : FlashObj × Nat) =>
      addOps v d' (some (x.object o.2 x.version)) none (d.time + deadlineNs d' (fld (d.w 2) 23 0)) false (objectPieces p.val o.1 0 o.1.stored [])) v)) ∧
  (∀ (q : Nat) (i : BitVec 32) (p : Fin 16) (d : Desc) (x : StepRegion) (u : State) (s : State), Taken s q i 0x08 0x11 [3] d → d.owner = .part p → d.len = 0 →
    bodyOk d.cur [maskOf 35 32, allBits] = true → u = atWork s (needs s d [3]) → stagedRegion u d p.val = some x → d.w 3 = 0#64 →
    exec (.stepQuery q i) s = .next (putDesc u { d.finish stDone 0 (some x.state.code) (some x.version) with output := some { bytes := ofWords [BitVec.ofNat 64 x.version, x.descriptor] } })) ∧
  (∀ (q : Nat) (i : BitVec 32) (p : Fin 16) (d : Desc) (x : StepRegion) (u v : State) (s : State), Taken s q i 0x08 0x11 [3] d → d.owner = .part p → d.len = 0 →
    bodyOk d.cur [maskOf 35 32, allBits] = true → u = atWork s (needs s d [3]) → stagedRegion u d p.val = some x → d.w 3 ≠ 0#64 →
    writeOut u d 3 (ofWords [BitVec.ofNat 64 x.version, x.descriptor]) = .ok v →
    exec (.stepQuery q i) s = .next (putDesc v (d.finish stDone 0 (some x.state.code) (some x.version)))) ∧
  (∀ (p r v : Nat) (w : Word) (x : StepRegion) (s : State), lookup? (getFlash s p).regions r = some x →
    lookup? (getFlash (changeRegion s p r (.publish v w)) p).regions r = some { x with state := .sealed, version := v, descriptor := w } ∧
    lookup? (getFlash (changeRegion s p r .open_) p).regions r = some { x with state := .open_ }) ∧
  (∀ (p r count first base : Nat) (found : Option (Nat × Word)) (s : State), p < s.flash.parts.length →
    lookup? (getFlash (changeRegion s p r (.setup count first base found)) p).regions r = some (match found with
      | some (v, w) => { state := .onFlash, version := v, descriptor := w, count := count, first := first, base := base }
      | none => { count := count, first := first, base := base }) ∧
    ∀ k e, k < count → ownExt s p (first + k) = some e → (getExt (changeRegion s p r (.setup count first base found)) e).use = .stepState r)

/-- How flash work goes on and ends (R386, R390 to R394, R399 to R405, R383): the answer to the last part of a descriptor ends its drive work; a unit that fails authentication or a block's check is read once
more before its operation fails; a drained object commits and the next starts; a lifted unit is
written; a page of the tier path goes to its core; a deadline ends the operation; a share window begins anew; a wear bucket fills; drives are identified and fail. -/
def Obligations.FlashProgress : Prop :=
  (∀ (q us t : Nat) (i : BitVec 32) (read : UnitRead) (d : Desc) (p : Fin 16) (o : FlashOp) (x : State × FlashOp) (v : State) (s : State), findDesc s q i = some d → d.owner = .part p →
    (opsFor s d).find? (fun o => o.bytes == 0 && !o.answered && o.page.isNone) = some o → ¬ (d.opcode = 0x07 ∧ d.subop = 1 ∧ d.unitsLeft ≠ 0 ∧ o.spill = false) →
    (o.write = true ∧ read ≠ .badBlock) ∨ read = .good → x = holdOp (billDrive (atTime s t) p.val o us) o .none → v = billWaits (setOp x.1 o { x.2 with answered := true }) p.val x.2 →
    exec (.nvmeCompletion q i read us t) s = .next (if (opsFor v d).all (·.answered) ∧ d.phase = .running then flashDone p.val d v else v)) ∧
  (∀ (q us t id : Nat) (i : BitVec 32) (d : Desc) (p : Fin 16) (o : FlashOp) (v : State) (s : State), findDesc s q i = some d → d.owner = .part p →
    (opsFor s d).find? (fun o => o.bytes == 0 && !o.answered && o.page.isNone) = some o → o.write = false → o.object = some id → d.opcode ≠ 0x07 →
    v = modStats (billDrive (atTime s t) p.val o us) p.val id (fun y => { y with retries := satAdd 16 y.retries 1 }) →
    exec (.nvmeCompletion q i .badTag us t) s = .next (if o.retried = true then readFails p.val d o stTier 5 v else setOp v o { o with retried := true }) ∧
    (readsCoded s p.val d o = true →
      exec (.nvmeCompletion q i .badBlock us t) s = .next (if o.decoded = true then readFails p.val d o stCheck 2 v else setOp v o { o with decoded := true }))) ∧
  (∀ (q k t p : Nat) (i : BitVec 32) (d : Desc) (x : StepRegion) (obj : FlashObj) (u v : State) (s : State), regionDesc s q i 0x07 0x12 .draining = some (p, d, x) →
    lookup? x.writing k = some obj → ((opsFor s d).any fun o => o.object == some (x.object k x.version) && !o.answered) = false →
    (bit (d.w 2) 31 = true → (x.done.length + 1) * (extentBytes / 4096) ≤ d.unitsDone) → x.done.length + 1 < x.count →
    u = removeOps (atTime s t) d (fun o => o.object == some (x.object k x.version)) → v = putObject u p (x.object k x.version) obj →
    exec (.stepDrainObjectDone q i k true t) s = .next (startObjects p d 1 (modRegion v p d.region fun x => { x with done := k :: x.done, writing := erase x.writing k }))) ∧
  (∀ (q k n t p e whole held : Nat) (i : BitVec 32) (d : Desc) (x : StepRegion) (o : FlashObj) (mine : List FlashOp) (s : State), regionDesc s q i 0x08 0x10 .lifting = some (p, d, x) →
    lookup? (getFlash s p).objects (x.object k x.version) = some o → ownExt s p (x.first + k) = some e → k < x.count → n = x.liftedOf k → n < 240 →
    (o.coded = true → 256 * (codedLifted s p x + 1) ≤ d.unitsDone) → mine = (opsFor s d).filter (fun y => y.object == some (x.object k x.version)) →
    whole = (mine.map (·.size)).sum → held = (mine.map (·.bytes)).sum → (n + 1) * whole ≤ (whole - held) * 240 → (n = 239 → mine.all (·.answered) = true) →
    ((x.lifted.map (·.2)).sum) + 1 < 240 * x.count →
    exec (.liftUnitDone q i k n .good t) s = .next (serveWaits (modRegion (writeHbm (atTime s t) e (n * 2 ^ 20) (slice o.data (n * 2 ^ 20) (2 ^ 20))) p d.region
      fun x => { x with lifted := assign x.lifted k (n + 1) }))) ∧
  (∀ (q k t slot c : Nat) (i : BitVec 32) (d : Desc) (p : Fin 16) (w : PageWork) (o : FlashOp) (x : SpillPage) (mine : List FlashOp) (u : State) (s : State), findDesc s q i = some d → d.owner = .part p →
    d.pages[k]? = some w → (opsFor s d).find? (fun o => o.page == some k) = some o → mine = (opsFor s d).filter (fun o => o.page == some k) → d.phase = .running → w.route = .tier → w.state = .queued →
    mine.all (fun o => o.bytes == 0) = true → w.spill = some slot → lookup? (getFlash s p).spill slot = some x → (x.fill ≠ 16 ∨ (crc32c x.bytes).toNat = x.check) → d.opcode ≠ 0x02 → w.core = some c →
    u = mine.foldl (fun v o => billDrive v p o ((v.time - o.since) / 1000)) (atTime s t) →
    exec (.tierPathDone q i k true t) s = .next (pushFlash (putDesc (removeOps u d fun o => o.page == some k) (d.setPage k fun w => { w with state := .read, core := some c, order := nextOrder u })))) ∧
  (∀ (q t : Nat) (i : BitVec 32) (d : Desc) (o : FlashOp) (s : State), findDesc s q i = some d → (opsFor s d).find? (fun o => decide (o.deadline ≤ t)) = some o → d.mayExpire = true →
    ∃ v o' det, exec (.flashDeadline q i t) s = .next (tierFail v d o' det) ∧ SameBut (partSet [.free, .flash]) (atTime s t) v ∧ o'.object = o.object ∧
      det ∈ longest ((opsFor v d).filter fun x => x.object == o.object && x.page == o.page)) ∧
  (∀ (t : Nat) (s : State), s.flash.windowStart + 1000000 ≤ t →
    exec (.flashShareWindow t) s = .next (pushFlash { atTime s t with flash := { s.flash with used := [], windowStart := t - t % 1000000 } })) ∧
  (∀ (d t add unit : Nat) (s : State), d < 8 → (getDrive s d).bucketTime < t → unit = 24 * 86400 * 1000000000 → add = driveBudget (getDrive s d) * 23 * (t - (getDrive s d).bucketTime) / unit →
    exec (.wearBucketRefill d t) s = .next (pushFlash (modDrive (atTime s t) d fun y => { y with
      bucket := min (bucketDepth y) (y.bucket + add)
      bucketTime := if bucketDepth y ≤ y.bucket + add ∨ driveBudget y * 23 = 0 then t else y.bucketTime + ceilDiv (add * unit) (driveBudget y * 23) }))) ∧
  (∀ (d : Nat) (usable blocks : List Nat) (s : State), d < 8 → (getDom s (151 + d)).present = .on → (getDrive s d).state ≠ .usable →
    exec (.driveIdentified d usable blocks) s = .next (pushFlash (postFm (modDrive s d fun y => { y with state := .usable, usable := (usable.filter fun n => decide (1 ≤ n ∧ n ≤ 16)).eraseDups, blocks := usable.zip blocks })
      8 1 d (BitVec.ofNat 64 ((usable.filter fun n => decide (1 ≤ n ∧ n ≤ 16)).eraseDups).length) 0#64))) ∧
  (∀ (d : Nat) (removed : Bool) (s : State), d < 8 → (getDrive s d).state = .usable → exec (.driveFailed d removed) s = .next (failDrive s d (if removed then 4 else 1))) ∧
  (∀ (d : Nat) (link : Bool) (s : State), d < 8 → (getDrive s d).state = .usable → exec (.driveTimeout d link) s = .next (failDrive s d (if link then 2 else 3)))

/-- Attention across nodes (R255 to R271, R317, R524): a legal request whose shards lie on other nodes is taken up with the shards that it touches and its deadline, and fails when a
connection that it needs is in ERROR; a member takes up one
descriptor for each head; a reply goes to its shard, and a late one is counted; the reply to a waiting SEND completes it; at its deadline a request is answered FLUSHED 2, and a SEND without its reply in 1 s ends
FLUSHED 3. -/
def Obligations.AttentionAcrossNodes : Prop :=
  (∀ (p : Fin 16) (t : Nat) (m : FabMsg) (r : SpreadRec) (tb : Option ScaleTable) (u : State) (s : State), fabFirst s p.val 1 = some m → memActive s = true → seqUp (atTime s t) m.reqId = true →
    u = fabTake (seqWork (atTime s t) m.reqId) p.val 1 → 32 ≤ m.payload.length → bodyLegal m = true → homeRecord u p.val m = .ok r → homeCheck m r = none →
    scaleOf { owner := ownerOf p.val, slot := none, ctx := 0, index := 0, words := [], cur := [], scale := (getPart u p.val).scales } (fld (m.b 3) 63 56) m.layer (m.firstHead + m.heads) r.dim = .ok tb →
    shardWork m r ≠ [] → (∀ w ∈ shardWork m r, w.endpoint ≠ ownEndpoint u p.val) →
    ∃ v h, exec (.attendReq p t) s = .next (match (getHome v h.num).filter fun h => !h.answered with
        | some h => homeLost v h fun w => match (fabricQp v p.val w.endpoint).bind (getQp v) with
          | some q => q.state == .error
          | none => false
        | none => v) ∧ h ∈ v.fabric.homes ∧ h.part = p.val ∧ h.num = s.fabric.nextNum ∧ h.msg = m ∧ h.work = shardWork m r ∧ h.replies = [] ∧ h.answered = false ∧
      h.deadline = u.time + 1000 * (if fld (m.b 0) 15 0 = 0 then 1000 else fld (m.b 0) 15 0)) ∧
  (∀ (p : Fin 16) (t : Nat) (m : FabMsg) (u : State) (s : State), fabFirst s p.val 1 = some m → memActive s = true → seqUp (atTime s t) m.reqId = true →
    u = fabTake (seqWork (atTime s t) m.reqId) p.val 1 → m.payload.length < 32 → exec (.attendReq p t) s = .next (fabReply u p.val m 2 stMalformed 3 none none [])) ∧
  (∀ (p : Fin 16) (t : Nat) (m : FabMsg) (r : SeqRec) (u : State) (s : State), fabFirst s p.val 3 = some m → memActive s = true → seqUp (atTime s t) m.reqId = true →
    u = fabTake (seqWork (atTime s t) m.reqId) p.val 3 → visibleSeq u p.val m.seq = some r → (m.epoch = 0 ∨ r.epoch = m.epoch) → bodyLegal m = true →
    m.payload.length = 32 + m.heads * m.qph * r.dim * m.eb →
    ∃ v x, exec (.memberReq p t) s = .next v ∧ x ∈ v.fabric.members ∧ x.part = p.val ∧ x.num = s.fabric.nextNum ∧ x.msg = m ∧ x.home = none ∧
      x.work = (List.range m.heads).map (fun j => BitVec.ofNat 32 (2 * j)) ∧ v.flight.length = s.flight.length + m.heads) ∧
  (∀ (p : Fin 16) (t n k : Nat) (m : FabMsg) (s : State), (pickMsg s p.val fun m => if m.typ = 4 then replyFor s p.val m else none) = some (m, .shard n k) →
    seqUp (atTime s t) m.reqId = true → exec (.memberReply p t) s = .next (homeTake (dropMsg (seqWork (atTime s t) m.reqId) p.val m) n k m)) ∧
  (∀ (p : Fin 16) (t : Nat) (m : FabMsg) (s : State), (pickMsg s p.val fun m => if m.typ = 4 then replyFor s p.val m else none) = some (m, .stale) →
    seqUp (atTime s t) m.reqId = true →
    ∃ v, exec (.memberReply p t) s = .next v ∧ SameBut (partSet [.time, .fabric, .power]) s v ∧ v.fabric.late = s.fabric.late + 1) ∧
  (∀ (p : Fin 16) (t : Nat) (m : FabMsg) (d : Desc) (u v : State) (s : State),
    (pickMsg s p.val fun m => if m.typ = 2 then some (replySend s p.val m) else if m.typ = 4 then (replySend s p.val m).map some else none) = some (m, some d) →
    domsOn (atTime s t) (locDoms s d.owner (d.w 7)) = true → u = dropMsg (atWork (atTime s t) (locDoms s d.owner (d.w 7))) p.val m →
    (m.payload = [] ∧ v = u ∨ m.payload ≠ [] ∧ writeOut u d 7 m.payload = .ok v) →
    exec (.attendReply p t) s = .next (settleDrains (endNow v d m.status m.detail (some m.res0) (some m.res1.toNat)))) ∧
  (∀ (p : Fin 16) (t : Nat) (m : FabMsg) (s : State),
    (pickMsg s p.val fun m => if m.typ = 2 then some (replySend s p.val m) else if m.typ = 4 then (replySend s p.val m).map some else none) = some (m, none) →
    ∃ v, exec (.attendReply p t) s = .next v ∧ SameBut (partSet [.time, .fabric]) s v ∧ v.fabric.dropped = s.fabric.dropped + 1 ∧ v.fabric.arrived = s.fabric.arrived.erase (p.val, m)) ∧
  (∀ (p : Fin 16) (n t : Nat) (h : HomeReq) (s : State), getHome s n = some h → h.part = p.val → h.deadline ≤ t → h.answered = false → h.shadows = [] →
    (s.fabric.members.filter fun m => (m.home.map (·.1)) == some n) = [] →
    exec (.fabricDeadline p n t) s = .next (dropHome (homeFail (atTime s t) h stFlushed 2 none) n)) ∧
  (∀ (q t : Nat) (i : BitVec 32) (d : Desc) (s : State), findDesc s q i = some d → d.phase = .running → d.opcode = 0x09 → d.subop = 4 → bit (d.w 2) 62 = true → d.time + 1000000000 ≤ t →
    exec (.fabricReplyTimeout q i t) s = .next (settleDrains (endNow (netStopped (atTime s t) d) d stFlushed 3)))

/-- Spread records and the sender of a handoff (R256 to R258, R272 to R278, R281, R520, R521): a legal SPREAD_SET stages its record, and one with REMOVE its removal; HANDOFF_REQ of a frozen HELD sequence offers it;
READY sends its pages; REFUSE ends the offer; ACCEPT in time is the commit point; COMMIT_ACK drops the sequence, COMMIT_NAK takes it back; the lease timer abandons; COMMIT is sent again; LOSS_NOTICE ends what
goes toward the node. The spread record has no lease of its own (log 19). -/
def Obligations.SpreadsAndOffers : Prop :=
  (∀ (p : Fin 16) (m : FabMsg) (d : Desc) (r : SpreadRec) (b : Blocks) (u v : State) (s : State), fabFirst s p.val 0x10 = some m → m.origin.bind (fun o => findDesc s o.1 o.2) = some d → memActive s = true →
    seqUp s m.reqId = true → u = fabTake (seqWork s m.reqId) p.val 0x10 → bit (wd (toWords 4 m.payload) 0) 31 = false → spreadOf m.payload = some r →
    ((getSeq u p.val (fld (wd (toWords 4 m.payload) 0) 63 32)).isSome || (u.flight.any fun x => x.owner == d.owner && x.opcode == 2 && x.newSeqs.contains (fld (wd (toWords 4 m.payload) 0) 63 32))) = false →
    takeBlocks u p.val 1 = some (b, v) →
    exec (.spreadSet p) s = .next (putDesc (modPart v p.val fun x => { x with reservedSeqs := fld (wd (toWords 4 m.payload) 0) 63 32 :: x.reservedSeqs }) { d.finish stDone 0 (some r.shards.length) with
      effects := d.effects ++ [.spread p.val (fld (wd (toWords 4 m.payload) 0) 63 32) (some { r with block := some b })], blocks := b :: d.blocks, newSeqs := fld (wd (toWords 4 m.payload) 0) 63 32 :: d.newSeqs })) ∧
  (∀ (p : Fin 16) (m : FabMsg) (d : Desc) (u : State) (s : State), fabFirst s p.val 0x10 = some m → m.origin.bind (fun o => findDesc s o.1 o.2) = some d → memActive s = true →
    seqUp s m.reqId = true → u = fabTake (seqWork s m.reqId) p.val 0x10 → bit (wd (toWords 4 m.payload) 0) 31 = true → m.payload.length = 32 →
    wd (toWords 4 m.payload) 0 &&& maskOf 30 6 = 0#64 → wd (toWords 4 m.payload) 1 &&& maskOf 46 0 = 0#64 → wd (toWords 4 m.payload) 2 = 0#64 → wd (toWords 4 m.payload) 3 = 0#64 →
    ((getSeq u p.val (fld (wd (toWords 4 m.payload) 0) 63 32)).isSome || (u.flight.any fun x => x.owner == d.owner && x.opcode == 2 && x.newSeqs.contains (fld (wd (toWords 4 m.payload) 0) 63 32))) = false →
    exec (.spreadSet p) s = .next (putDesc u { d.finish stDone 0 (some 0) with effects := d.effects ++ [.spread p.val (fld (wd (toWords 4 m.payload) 0) 63 32) none] })) ∧
  (∀ (p : Fin 16) (t lease hold n : Nat) (m : FabMsg) (d : Desc) (r : SeqRec) (o : Outgoing) (u : State) (s : State), fabFirst s p.val 0x20 = some m → m.origin.bind (fun o => findDesc s o.1 o.2) = some d →
    memActive s = true → seqUp (atTime s t) m.reqId = true → u = fabTake (seqWork (atTime s t) m.reqId) p.val 0x20 →
    lease = (if fld (m.b 1) 63 32 = 0 then 1000000 else fld (m.b 1) 63 32) → hold = (if fld (m.b 1) 31 0 = 0 then 10000 else fld (m.b 1) 31 0) → m.payload.length = 32 → fld (m.b 0) 47 32 = 0 →
    fld (m.b 2) 57 0 = 0 → m.b 3 = 0#64 → 1000 ≤ lease → lease ≤ 10000000 → 100 ≤ hold → hold ≤ 1000000 → visibleSeq u p.val m.seq = some r → r.lease = .held → r.epoch = m.epoch → r.frozen = true →
    seqLost u p.val r = false → fabricQp u p.val (fld (m.b 0) 63 48) = some n → ((getQp u n).map (·.state)) ≠ some .error →
    o = { part := p.val, seq := m.seq, msg := m, target := fld (m.b 0) 63 48, targetSeq := fld (m.b 0) 31 0, epoch := r.epoch, leaseEnd := u.time + 1000 * lease, holdUs := hold
          pagesSent := (r.heads.map fun h => h.entries.length).sum } →
    ∃ v w, v = setLease u p.val m.seq (fun r => { r with lease := .offered m.reqId }) ∧ w = { v with fabric := { v.fabric with outgoing := v.fabric.outgoing ++ [o] } } ∧
      exec (.handoffReq p t) s = .next (fabTo w p.val o.target (handMsg w p.val 0x21 m.reqId (nextEpoch r.epoch 1) o.targetSeq 0 (ofWords [offerParams r m, put 63 32 o.pagesSent ||| put 31 0 hold, 0#64, 0#64])))) ∧
  (∀ (p : Fin 16) (t : Nat) (m : FabMsg) (o : Outgoing) (r : SeqRec) (xs : List (List Byte)) (u : State) (s : State), fabFirst s p.val 0x22 = some m → memActive s = true →
    seqUp (atTime s t) m.reqId = true → u = fabTake (seqWork (atTime s t) m.reqId) p.val 0x22 → outgoingOf u p.val m = some o → o.resend = none → getSeq u p.val o.seq = some r →
    travelPages u p.val r = .ok xs →
    exec (.ready p t) s = .next ((packPages [] xs).foldl (fun s bs => fabTo s p.val o.target (handMsg s p.val 0x24 o.msg.reqId (nextEpoch o.epoch 1) o.targetSeq 0 bs)) u)) ∧
  (∀ (p : Fin 16) (t : Nat) (m : FabMsg) (o : Outgoing) (u : State) (s : State), fabFirst s p.val 0x23 = some m → u = fabTake (atTime s t) p.val 0x23 → outgoingOf u p.val m = some o → o.resend = none →
    exec (.refuse p t) s = .next (handEnd (endOffer u o) o stNak m.detail)) ∧
  (∀ (p : Fin 16) (t : Nat) (m : FabMsg) (o : Outgoing) (u v w : State) (s : State), fabFirst s p.val 0x25 = some m → u = fabTake (atTime s t) p.val 0x25 → outgoingOf u p.val m = some o → o.resend = none →
    u.time < o.leaseEnd → m.epoch = nextEpoch o.epoch 1 → v = setLease u p.val o.seq (fun r => { r with hidden := true, lease := .escrow o.msg.reqId }) →
    w = putOutgoing v { o with resend := some (v.time + 100000) } →
    exec (.accept p t) s = .next (sendCommit (handEnd (match handDesc w o with
      | some d => putDesc w { d with latched := true }
      | none => w) o stDone 0 (some o.pagesSent) (some (nextEpoch o.epoch 1))) o)) ∧
  (∀ (p : Fin 16) (t : Nat) (m : FabMsg) (o : Outgoing) (u v : State) (s : State), fabFirst s p.val 0x27 = some m → u = fabTake (atTime s t) p.val 0x27 → outgoingOf u p.val m = some o → o.resend.isSome = true →
    v = removeSeq (dropOutgoing u o) p.val o.seq →
    exec (.commitAck p t) s = .next { v with fabric := { v.fabric with handedOn := assign v.fabric.handedOn (p.val, o.seq) (nextEpoch o.epoch 1) } }) ∧
  (∀ (p : Fin 16) (t : Nat) (m : FabMsg) (o : Outgoing) (u : State) (s : State), fabFirst s p.val 0x28 = some m → u = fabTake (atTime s t) p.val 0x28 → outgoingOf u p.val m = some o → o.resend.isSome = true →
    exec (.commitNak p t) s = .next (takeBack u o)) ∧
  (∀ (p : Fin 16) (n t : Nat) (o : Outgoing) (s : State), (s.fabric.outgoing.find? fun o => o.part == p.val && o.seq == n && o.resend.isNone && decide (o.leaseEnd ≤ t)) = some o →
    exec (.leaseTimerExpire p n t) s = .next (abandonOffer (atTime s t) o stEscrow 0)) ∧
  (∀ (p : Fin 16) (n t x : Nat) (o : Outgoing) (s : State), s.fabric.outgoing = [o] → o.part = p.val → o.seq = n → o.resend = some x → x ≤ t →
    exec (.escrowCommitResend p n t) s = .next (sendCommit (putOutgoing (atTime s t) { o with resend := some ((atTime s t).time + 100000) }) o)) ∧
  (∀ (o a : Owner) (m : MboxMsg) (t : Nat) (s : State), Heard (atTime s t) o 0x61 m .manager (m.body.length == 16) a → m.at_ 0 + 256 * m.at_ 1 ≤ 0xFFF → ((m.body.drop 2).take 6).all (· == 0#8) = true →
    ∃ u n, (u, n) = loseNode (atTime s t) (m.at_ 0 + 256 * m.at_ 1) ∧ exec (.lossNotice o m t) s = .next (settleDrains (mboxReply u o 0x61 m stDone 0 (some n))))

/-- The receiver of a handoff (R273, R276 to R278): a legal OFFER reserves frames, makes the hidden sequence and asks for its pages, and one that cannot be taken is refused with its cause; pages that arrive whole are
placed, and the last one is accepted; COMMIT in time makes the sequence visible
at the new epoch; ABANDON, the hold timer and the idle timer end a handoff, and after 10 s it is forgotten. -/
def Obligations.HandoffReceiver : Prop :=
  (∀ (p : Fin 16) (t : Nat) (m : FabMsg) (x : Incoming) (fs : List FrameAddr) (u v : State) (s : State), fabFirst s p.val 0x21 = some m → memActive s = true → seqUp (atTime s t) m.reqId = true →
    u = fabTake (seqWork (atTime s t) m.reqId) p.val 0x21 → m.payload.length = 32 → m.b 2 = 0#64 → m.b 3 = 0#64 → m.b 0 &&& (maskOf 38 32 ||| maskOf 23 21) = 0#64 → takeOffer u p.val m = .ok (fs, v) →
    x = { part := p.val, seq := m.seq, sender := ((getQp u m.qpn).map (·.peer)).getD m.replyTo, reqId := m.reqId, epoch := m.epoch, expected := fld (m.b 1) 63 32, holdUs := fld (m.b 1) 31 0
          deadline := u.time + 1000 * fld (m.b 1) 31 0, qpn := m.qpn, frames := fs } →
    exec (.offer p t) s = .next (acceptPages (toSender { v with fabric := { v.fabric with incoming := v.fabric.incoming ++ [x] } } x 0x22) x)) ∧
  (∀ (p : Fin 16) (t : Nat) (det : Nat) (m : FabMsg) (x : Incoming) (u : State) (s : State), fabFirst s p.val 0x21 = some m → memActive s = true → seqUp (atTime s t) m.reqId = true →
    u = fabTake (seqWork (atTime s t) m.reqId) p.val 0x21 → m.payload.length = 32 → m.b 2 = 0#64 → m.b 3 = 0#64 → m.b 0 &&& (maskOf 38 32 ||| maskOf 23 21) = 0#64 → takeOffer u p.val m = .error det →
    x = { part := p.val, seq := m.seq, sender := ((getQp u m.qpn).map (·.peer)).getD m.replyTo, reqId := m.reqId, epoch := m.epoch, expected := fld (m.b 1) 63 32, holdUs := fld (m.b 1) 31 0
          deadline := u.time + 1000 * fld (m.b 1) 31 0, qpn := m.qpn } →
    exec (.offer p t) s = .next (toSender u x 0x23 det)) ∧
  (∀ (p : Fin 16) (t : Nat) (m : FabMsg) (x y : Incoming) (u v w : State) (s : State), fabFirst s p.val 0x24 = some m → memActive s = true → u = fabTake (atTime s t) p.val 0x24 → incomingOf u p.val m = some x →
    x.accepted = false → x.epoch = m.epoch → takePages u x false (cutPages (m.payload.length + 1) m.payload) = .ok (v, y, false) →
    w = putIncoming v { y with deadline := v.time + 1000 * y.holdUs } → (∀ k, k < s.power.domains.length → (getDom s k).present = .on) →
    (∀ r, getSeq w p.val x.seq = some r → ∀ h ∈ r.heads, ∀ e ∈ h.entries, ∀ f b, e.2 = .frame f b → 84 + f.ext / 96 < s.power.domains.length) → seqUp (atTime s t) m.reqId = true →
    exec (.pages p t) s = .next (acceptPages w { y with deadline := v.time + 1000 * y.holdUs })) ∧
  (∀ (p : Fin 16) (t : Nat) (m : FabMsg) (x : Incoming) (u v w : State) (s : State), fabFirst s p.val 0x26 = some m → u = fabTake (atTime s t) p.val 0x26 → incomingOf u p.val m = some x → x.accepted = true →
    u.time < x.deadline → v = setLease u p.val x.seq (fun r => { r with hidden := false, frozen := true, epoch := x.epoch, commitTime := stamp u }) →
    w = { v with fabric := { v.fabric with incoming := v.fabric.incoming.filter (fun y => !(y.part == x.part && y.seq == x.seq))
                                           remembered := v.fabric.remembered ++ [(p.val, ((getQp u m.qpn).map (·.peer)).getD m.replyTo, m.reqId, u.time)], handedOn := erase v.fabric.handedOn (p.val, x.seq) } } →
    exec (.commit p t) s = .next (postEvent (fabSend w m.qpn (handMsg w p.val 0x27 m.reqId m.epoch m.seq)) (ownerOf p.val) 5 1 none x.seq (BitVec.ofNat 64 x.epoch) (BitVec.ofNat 64 x.sender))) ∧
  (∀ (p : Fin 16) (t : Nat) (m : FabMsg) (u : State) (s : State), fabFirst s p.val 0x26 = some m → u = fabTake (atTime s t) p.val 0x26 → incomingOf u p.val m = none →
    (u.fabric.remembered.any fun x => x.1 == p.val && x.2.1 == ((getQp u m.qpn).map (·.peer)).getD m.replyTo && x.2.2.1 == m.reqId && decide (u.time < x.2.2.2 + 10000000000)) = false →
    exec (.commit p t) s = .next (fabSend u m.qpn (handMsg u p.val 0x28 m.reqId m.epoch m.seq))) ∧
  (∀ (p : Fin 16) (t : Nat) (m : FabMsg) (x : Incoming) (u : State) (s : State), fabFirst s p.val 0x29 = some m → u = fabTake (atTime s t) p.val 0x29 → incomingOf u p.val m = some x →
    exec (.abandon p t) s = .next (dropIncoming u x)) ∧
  (∀ (p : Fin 16) (n t : Nat) (x : Incoming) (s : State), (s.fabric.incoming.find? fun x => x.part == p.val && x.seq == n && x.accepted && decide (x.deadline ≤ t)) = some x →
    exec (.holdTimerExpire p n t) s = .next (dropIncoming (atTime s t) x)) ∧
  (∀ (p : Fin 16) (n t : Nat) (x : Incoming) (s : State), (s.fabric.incoming.find? fun x => x.part == p.val && x.seq == n && !x.accepted && decide (x.deadline ≤ t)) = some x →
    exec (.pendingIdleExpire p n t) s = .next (dropIncoming (atTime s t) x)) ∧
  (∀ (p : Fin 16) (n id t : Nat) (s : State), ∃ u, exec (.handoffMemoryExpire p n id t) s = .next u ∧ SameBut (partSet [.time, .fabric]) s u ∧
    ∀ x ∈ u.fabric.remembered, x ∈ s.fabric.remembered ∧ ¬(x.1 = p.val ∧ x.2.1 = n ∧ x.2.2.1 = id ∧ x.2.2.2 + 10000000000 ≤ t))

/-- The SEND station's transfers and receive buffers (R295 to R297, R310, R311, R313, R317 to R319): a legal MESSAGE, WRITE, READ or FABRIC on a READY queue pair of the sender puts its message in line; a FABRIC to the own node
without WAIT_REPLY is done when the fabric service has its message; a POST joins the queue pair's receives; the oldest message starts under the next MSG_NUM. -/
def Obligations.Transfers : Prop :=
  (∀ (q n : Nat) (i : BitVec 32) (rd : HostRead) (d : Desc) (x : Qp) (bs : List Byte) (u : State) (s : State), Taken s q i 0x09 1 [3] d → u = atWork s (needs s d [3]) → n = fld (d.w 2) 19 0 → transferForm d = none →
    ownQp u d.owner n = some x → transferService d x.service = false → x.state = .ready → x.ctx ≠ none → (bit (d.w 2) 62 && d.w 7 != 0#64) = false → transferData u d rd = .ok bs →
    exec (.message q i rd) s = .next (addMsg (putDesc (modQp u n fun y => { y with lastUse := u.time }) { d with phase := .running, held := [] }) n
      { num := 0, origin := some (d.ctx, d.index), kind := .send, data := bs, len := bs.length, tag := fld (d.w 4) 63 32, remote := d.w 5, rkey := fld (d.w 6) 31 0
        step := !d.chainIn && stepPlace (modQp u n fun y => { y with lastUse := u.time }) d.owner (d.w 3) })) ∧
  (∀ (q n : Nat) (i : BitVec 32) (rd : HostRead) (d : Desc) (x : Qp) (bs : List Byte) (u : State) (s : State), Taken s q i 0x09 2 [3] d → u = atWork s (needs s d [3]) → n = fld (d.w 2) 19 0 → transferForm d = none →
    ownQp u d.owner n = some x → transferService d x.service = false → x.state = .ready → x.ctx ≠ none → (bit (d.w 2) 62 && d.w 7 != 0#64) = false → transferData u d rd = .ok bs →
    exec (.write q i rd) s = .next (addMsg (putDesc (modQp u n fun y => { y with lastUse := u.time }) { d with phase := .running, held := [] }) n
      { num := 0, origin := some (d.ctx, d.index), kind := .write, data := bs, len := bs.length, tag := fld (d.w 4) 63 32, remote := d.w 5, rkey := fld (d.w 6) 31 0
        step := !d.chainIn && stepPlace (modQp u n fun y => { y with lastUse := u.time }) d.owner (d.w 3) })) ∧
  (∀ (q n : Nat) (i : BitVec 32) (d : Desc) (x : Qp) (loc : Loc) (u : State) (s : State), Taken s q i 0x09 3 [3] d → u = atWork s (needs s d [3]) → n = fld (d.w 2) 19 0 → transferForm d = none →
    ownQp u d.owner n = some x → transferService d x.service = false → x.state = .ready → x.ctx ≠ none →
    locate u d.owner (d.w 3) (occupied u d.owner (d.w 3) (fld (d.w 4) 31 0)) true = .ok loc → writable u loc = none →
    exec (.read q i) s = .next (addMsg (putDesc (modQp u n fun y => { y with lastUse := u.time }) { d with phase := .running, held := [] }) n
      { num := 0, origin := some (d.ctx, d.index), kind := .read, data := [], len := fld (d.w 4) 31 0, tag := fld (d.w 4) 63 32, remote := d.w 5, rkey := fld (d.w 6) 31 0 })) ∧
  (∀ (q n : Nat) (i : BitVec 32) (rd : HostRead) (d : Desc) (x : Qp) (bs : List Byte) (u : State) (s : State), Taken s q i 0x09 4 [3] d → bit (d.w 2) 63 = false → u = atWork s (needs s d [3]) → n = fld (d.w 2) 19 0 →
    transferForm d = none → ownQp u d.owner n = some x → transferService d x.service = false → x.state = .ready → x.ctx ≠ none →
    (bit (d.w 2) 62 = true → d.w 7 ≠ 0#64 → ∃ loc, locate u d.owner (d.w 7) (occupied u d.owner (d.w 7) 0) true = .ok loc ∧ writable u loc = none) → transferData u d rd = .ok bs →
    exec (.fabric q i rd) s = .next (addMsg (putDesc (modQp u n fun y => { y with lastUse := u.time }) { d with phase := .running, held := bs.take 32 }) n
      { num := 0, origin := some (d.ctx, d.index), kind := .fabric, data := bs, len := bs.length, tag := fld (d.w 4) 63 32, remote := d.w 5, rkey := fld (d.w 6) 31 0
        step := !d.chainIn && stepPlace (modQp u n fun y => { y with lastUse := u.time }) d.owner (d.w 3) })) ∧
  (∀ (q : Nat) (i : BitVec 32) (rd : HostRead) (d : Desc) (p : Fin 16) (bs : List Byte) (m : FabMsg) (u : State) (s : State), Taken s q i 0x09 4 [3] d → bit (d.w 2) 63 = true → bit (d.w 2) 62 = false →
    u = atWork s (needs s d [3]) → transferForm d = none → d.owner = .part p → fld (d.w 4) 63 32 = 0 → transferData u d rd = .ok bs → m = parseFab bs 0 (some (d.ctx, d.index)) → m.typ ≠ 0x10 → m.typ ≠ 0x20 →
    ∃ v n, v.free = u.free + 1 ∧ SameBut (partSet [.free]) u v ∧ exec (.fabric q i rd) s = .next (fabDeliver (putDesc v (d.finish stDone 0 (some bs.length) (some n))) p m)) ∧
  (∀ (q n cap : Nat) (i : BitVec 32) (d : Desc) (x : Qp) (loc : Loc) (u : State) (s : State), Taken s q i 0x0A 1 [3] d → u = atWork s (needs s d [3]) → n = fld (d.w 2) 19 0 → cap = fld (d.w 4) 31 0 →
    bodyOk d.cur [maskOf 19 0, allBits, maskOf 31 0, allBits] = true → 0 < cap → cap ≤ 268435456 → d.len = 0 → ownQp u d.owner n = some x → x.service.toFabric = false → (d.w 5 = 0#64 ∨ x.service = .tagged) →
    x.state ≠ .error → x.ctx ≠ none → locate u d.owner (d.w 3) (occupied u d.owner (d.w 3) cap) true = .ok loc → writable u loc = none →
    (x.rxMsgs.all fun m => !m.unexpected) = true →
    exec (.post q i) s = .next (modQp (putDesc u { d with phase := .running }) n fun y => { y with
      posted := y.posted ++ [{ ctx := d.ctx, index := d.index, buffer := d.w 3, capacity := cap, tag := fld (d.w 5) 63 32, mask := fld (d.w 5) 31 0, seq := x.postedCount }]
      postedCount := (y.postedCount + 1) % 2 ^ 32, lastUse := u.time })) ∧
  (∀ (n t : Nat) (q : Qp) (m : TxMsg) (u : State) (s : State), getQp s n = some q → q.state ≠ .error → q.ctx ≠ none →
    (s.flight.any fun d => d.owner == ownerOf q.part && d.opcode == 0x09 && fld (d.w 2) 19 0 == n && (d.msg.map fun k => decide (sub32 q.nextMsg k ≥ 64)) == some true) = false →
    (q.txMsgs.any fun m => m.started && decide (sub32 q.nextMsg m.num ≥ 64)) = false → (q.txMsgs.find? fun m => !m.started) = some m → (∀ k ∈ q.openLanes, pathOf (atTime s t) q k = true) →
    u = (match m.origin.bind fun x => findDesc (atTime s t) x.1 x.2 with
      | some d => putDesc (atTime s t) { d with msg := some q.nextMsg }
      | none => atTime s t) →
    exec (.messageStart n t) s = .next (pumpQp (modQp u n fun y => { y with nextMsg := (y.nextMsg + 1) % 2 ^ 32, lastUse := u.time, txMsgs := (y.txMsgs.erase m).filter (·.started) ++ [{ m with started := true, num := q.nextMsg }] ++ (y.txMsgs.erase m).filter (fun x => !x.started) }) n))

/-- Queue pairs (R295, R298 to R302, R322, R413): QP_SETUP with a free number and context makes it READY; QP_MODIFY puts it in ERROR, drains it, starts it again from ERROR, gives it a new key or other lanes; QP_DESTROY leaves
none; QP_QUERY gives its state, lanes and counts. A change is made when the operation is done, and that of a step of a program at the program's commit. -/
def Obligations.QueuePairs : Prop :=
  (∀ (q n c : Nat) (i : BitVec 32) (p : Fin 16) (d : Desc) (x : Qp) (u v : State) (s : State), Taken s q i 0x09 0x10 [] d → u = atWork s (needs s d []) → n = fld (d.w 2) 19 0 → d.owner = .part p → d.len = 0 →
    ownsQpn u d.owner n = true → procAway u 0 = false → belfryFenced u = false → getQp u n = none → (u.flight.any fun x => x.setsUp n) = false → d.setsUp n = false → setupQp u p d = some x → x.service.roce = false → (x.resident = true ∨ spillKind u d.owner = 0 → mayFix u d.owner = true) →
    takeContext u d.owner true n = some (c, v) →
    exec (.qpSetup q i) s = .next (qpDone v d (.setup n { x with ctx := some c, rkey := 0 }) (some n))) ∧
  (∀ (q n c : Nat) (i : BitVec 32) (p : Fin 16) (d : Desc) (x : Qp) (u v : State) (s : State), Taken s q i 0x09 0x10 [] d → u = atWork s (needs s d []) → n = fld (d.w 2) 19 0 → d.owner = .part p → d.len = 0 →
    ownsQpn u d.owner n = true → procAway u 0 = false → belfryFenced u = false → getQp u n = none → (u.flight.any fun x => x.setsUp n) = false → d.setsUp n = false → setupQp u p d = some x → x.service.roce = true → (x.resident = true ∨ spillKind u d.owner = 0 → mayFix u d.owner = true) →
    takeContext u d.owner true n = some (c, v) →
    ∃ w k, exec (.qpSetup q i) s = .next (qpDone w d (.setup n { x with ctx := some c, rkey := k }) (some n) (some k)) ∧ SameBut (partSet [.free]) v w ∧ k < 2 ^ 32) ∧
  (∀ (q n : Nat) (i : BitVec 32) (d : Desc) (x : Qp) (s : State), stationDesc s q i 0x09 0x11 = some d → fld (d.w 2) 23 20 = 1 → bodyOk d.cur [maskOf 23 0] = true → d.len = 0 → n = fld (d.w 2) 19 0 →
    ownQp s d.owner n = some x → exec (.qpModifyError q i) s = .next (qpDone s d (.error n))) ∧
  (∀ (q n : Nat) (i : BitVec 32) (d : Desc) (x : Qp) (s : State), stationDesc s q i 0x09 0x11 = some d → fld (d.w 2) 23 20 = 2 → bodyOk d.cur [maskOf 23 0] = true → d.len = 0 → n = fld (d.w 2) 19 0 →
    ownQp s d.owner n = some x → exec (.qpModifyDrain q i) s = .next (qpDone s d (.drain n))) ∧
  (∀ (q n : Nat) (i : BitVec 32) (d : Desc) (x : Qp) (s : State), stationDesc s q i 0x09 0x11 = some d → fld (d.w 2) 23 20 = 3 → bodyOk d.cur [maskOf 23 0] = true → d.len = 0 → n = fld (d.w 2) 19 0 →
    ownQp s d.owner n = some x → x.state = .error → exec (.qpModifyReset q i) s = .next (qpDone s d (.reset n))) ∧
  (∀ (q n t : Nat) (i : BitVec 32) (d : Desc) (x : Qp) (h : KeyHandle) (s : State), stationDesc (atTime s t) q i 0x09 0x11 = some d → fld (d.w 2) 23 20 = 4 →
    bodyOk d.cur [maskOf 23 0, 0#64, maskOf 63 32] = true → d.len = 0 → n = fld (d.w 2) 19 0 → ownQp (atTime s t) d.owner n = some x → procAway (atTime s t) 0 = false →
    lookup? s.belfry.handles (fld (d.w 4) 63 32) = some h → h.part = x.part → belfryFenced (atTime s t) = false →
    exec (.qpModifyRekey q i t) s = .next (qpDone (atTime s t) d (.rekey n h.epoch h.secret (fld (d.w 4) 63 32)))) ∧
  (∀ (q n lanes : Nat) (i : BitVec 32) (d : Desc) (x : Qp) (s : State), stationDesc s q i 0x09 0x11 = some d → fld (d.w 2) 23 20 = 5 → bodyOk d.cur [maskOf 23 0, maskOf 39 32] = true → d.len = 0 →
    n = fld (d.w 2) 19 0 → ownQp s d.owner n = some x → lanes = fld (d.w 3) 39 32 → 0 < lanes → lanes < 2 ^ planeCount s → (x.service.roce = true → lanes = 1) →
    ((List.range 8).any fun k => (lanes >>> k) % 2 == 1 && (x.lane k).moving) = false → exec (.qpModifyLanes q i) s = .next (qpDone s d (.lanes n lanes))) ∧
  (∀ (q n : Nat) (i : BitVec 32) (d : Desc) (x : Qp) (u : State) (s : State), Taken s q i 0x09 0x12 [] d → u = atWork s (needs s d []) → bodyOk d.cur [maskOf 19 0] = true → d.len = 0 → n = fld (d.w 2) 19 0 →
    ownQp u d.owner n = some x → exec (.qpDestroy q i) s = .next (qpDone u d (.destroy n))) ∧
  (∀ (q n : Nat) (i : BitVec 32) (d : Desc) (x : Qp) (u : State) (s : State), Taken s q i 0x09 0x13 [] d → u = atWork s (needs s d []) → bodyOk d.cur [maskOf 19 0] = true → d.len = 0 → n = fld (d.w 2) 19 0 →
    ownQp u d.owner n = some x →
    exec (.qpQuery q i) s = .next (putDesc u (d.finish stDone 0 (some ((match x.state with
      | .ready => 1
      | .draining => 2
      | .error => 3) + 256 * ((List.range 8).map fun k => if (x.lanesUsed >>> k) % 2 = 1 ∧ !(x.lane k).closedTx ∧ !(x.lane k).closedRx then 2 ^ k else 0).sum))
      (some (satField 32 x.retransmissions * 2 ^ 32 + satField 32 x.authFails))))) ∧
  (∀ (n : Nat) (x : Qp) (s : State), getQp s n = none → getQp (changeQp s (.setup n x)) n = some (x.afterNonces s n)) ∧
  (∀ (n e h lanes : Nat) (secret : List Byte) (y : Qp) (s : State), getQp s n = some y → getQp (changeQp s (.reset n)) n = some y.restart ∧
    getQp (changeQp s (.rekey n e secret h)) n = some (Qp.afterNonces (keepNonce s n) n { y with
      oldEpoch := some (y.epoch, s.time + 2000000), oldSecret := y.secret, epoch := e, secret := secret, handle := h, keysDead := false, esp := (0, []), espOld := y.esp }) ∧
    getQp (changeQp s (.lanes n lanes)) n = some { y with lanesUsed := lanes, lanes := y.lanes.mapIdx fun k l => if (lanes >>> k) % 2 = 1 then l.reopen else l }) ∧
  (∀ (n : Nat) (s : State), getQp (changeQp s (.destroy n)) n = none ∧ (∀ m ∈ (changeQp s (.destroy n)).net.miss, m.1 ≠ n) ∧ lookup? (changeQp s (.destroy n)).net.fetching n = none)

/-- Packets and timers of a queue pair (R290, R303 to R309, R312, R316, R320 to R325): an admitted, authentic packet on a resident queue pair acts by its type, and one that is not authentic is counted; a sequenced packet is taken in the sequence of its lane;
ACK acknowledges; NAK 1 goes back; LANE_SYNC closes the lane and is answered, its reply moves the lane; CANCEL is a sequenced packet; the timers send, resend, retry and end as R305 to R308 say; a fetched
context takes the waiting packets; an old key is dropped; a RoCEv2 packet acts on its queue pair. -/
def Obligations.PacketsArrive : Prop :=
  (∀ (k : Packet) (n t : Nat) (q : Qp) (u : State) (s : State), k.typ = .send ∨ k.typ = .write ∨ k.typ = .readReq ∨ k.typ = .readResp → Admitted (atTime s t) k n q → keyOk (atTime s t) q k = true → u = modQp (atTime s t) n (fun q => { q with lastUse := (atTime s t).time }) →
    exec (.sequencedPacketReceive k t) s = .next (settleDrains (receiveSequenced u n q k))) ∧
  (∀ (k : Packet) (n t : Nat) (q : Qp) (s : State), k.typ = .ack → Admitted (atTime s t) k n q → keyOk (atTime s t) q k = true →
    ∃ u, u = modQp (atTime s t) n (fun q => { q with lastUse := (atTime s t).time }) ∧
      exec (.ackReceive k t) s = .next (settleSends (ackUpTo (clearRnr u n k.lane k.space k.psn) n k.lane k.space k.psn) n)) ∧
  (∀ (k : Packet) (n t : Nat) (q : Qp) (u : State) (s : State), k.typ = .nak → k.msgNum / 2 ^ 24 = 1 → (q.lane k.lane).closedTx = false → Admitted (atTime s t) k n q →
    keyOk (atTime s t) q k = true → u = modQp (atTime s t) n (fun q => { q with lastUse := (atTime s t).time }) →
    exec (.nakReceive k t) s = .next (settleSends (goBack (ackUpTo (clearRnr u n k.lane k.space k.psn) n k.lane k.space k.psn) n k.lane k.space) n)) ∧
  (∀ (k : Packet) (n lane : Nat) (q : Qp) (u : State) (s : State), k.typ = .laneSync → Admitted s k n q → keyOk s q k = true → lane = k.msgNum % 8 →
    u = modQp s n (fun q => { q with lastUse := s.time }) →
    exec (.laneSyncReceive k) s = .next (sendCtl (modQp u n fun q => q.modLane lane fun l => { l with closedRx := true }) n .laneSyncReply k.lane 1 ((q.lane lane).rx.expected + 2 ^ 24 - 1) lane)) ∧
  (∀ (k : Packet) (n t lane : Nat) (q : Qp) (u : State) (s : State), k.typ = .laneSyncReply → Admitted (atTime s t) k n q →
    keyOk (atTime s t) q k = true → lane = k.msgNum % 8 → (q.lane lane).closedTx = true → (q.lane lane).sync ≠ none → u = modQp (atTime s t) n (fun q => { q with lastUse := (atTime s t).time }) →
    exec (.laneSyncReplyReceive k t) s = .next (settleSends (moveLane u n lane k.psn) n)) ∧
  (∀ (k : Packet) (n t : Nat) (q : Qp) (u : State) (s : State), k.typ = .cancel → Admitted (atTime s t) k n q → keyOk (atTime s t) q k = true →
    u = modQp (atTime s t) n (fun q => { q with lastUse := (atTime s t).time }) → exec (.cancelReceive k t) s = .next (settleDrains (receiveSequenced u n q k))) ∧
  (∀ (k : Packet) (n t : Nat) (q : Qp) (s : State), k.typ = .send → Admitted (atTime s t) k n q → keyOk (atTime s t) q k = false →
    ∃ u, u = modQp (atTime s t) n (fun q => { q with authFails := q.authFails + 1 }) ∧
      exec (.sequencedPacketReceive k t) s = .next (if q.keysDead then countNode (discard u 5 none) 1 else discard u 5 (some q.part))) ∧
  (∀ (n lane space t x : Nat) (q : Qp) (s : State), getQp s n = some q → ((q.lane lane).rxOf space).ackTimer = some x → x ≤ t → q.state ≠ .error →
    exec (.ackTimer n lane space t) s = .next (sendAck (atTime s t) n lane space)) ∧
  (∀ (n lane space t : Nat) (q : Qp) (y : Unacked) (u : State) (s : State), getQp s n = some q → ((q.lane lane).txOf space).unacked.head? = some y → q.state ≠ .error → ((q.lane lane).txOf space).rnrWait = none →
    (q.lane lane).closedTx = false → y.sentAt + 1000 * q.retryUs ≤ t → ((q.lane lane).txOf space).expiries + 1 < q.retryCount →
    u = modQp (atTime s t) n (fun q => q.modLane lane fun l => l.modTx space fun x => { x with expiries := x.expiries + 1 }) → pathOf u q lane = true →
    exec (.retryTimerExpire n lane space t) s = .next (goBack u n lane space)) ∧
  (∀ (n lane space t : Nat) (q : Qp) (y : Unacked) (u : State) (s : State), getQp s n = some q → ((q.lane lane).txOf space).unacked.head? = some y → q.state ≠ .error → ((q.lane lane).txOf space).rnrWait = none →
    (q.lane lane).closedTx = false → y.sentAt + 1000 * q.retryUs ≤ t → q.retryCount ≤ ((q.lane lane).txOf space).expiries + 1 →
    u = modQp (atTime s t) n (fun q => q.modLane lane fun l => l.modTx space fun x => { x with expiries := x.expiries + 1 }) →
    exec (.retryTimerExpire n lane space t) s = .next (settleDrains (closeLane u n lane))) ∧
  (∀ (n lane t x o : Nat) (r : List Nat) (q : Qp) (s : State), getQp s n = some q → (q.lane lane).sync = some x → q.openLanes = o :: r → x ≤ t →
    exec (.laneSyncRetry n lane t) s = .next (sendCtl (modQp (atTime s t) n fun q => q.modLane lane fun l => { l with sync := some ((atTime s t).time + 1000 * q.retryUs) }) n .laneSync o 0
      ((q.lane lane).rx.expected + 2 ^ 24 - 1) lane)) ∧
  (∀ (n lane space t x : Nat) (q : Qp) (s : State), getQp s n = some q → ((q.lane lane).txOf space).rnrWait = some x → x ≤ t →
    exec (.rnrWaitExpire n lane space t) s = .next (if (q.lane lane).closedTx = true then modQp (atTime s t) n (fun q => q.modLane lane fun l => l.modTx space fun y => { y with rnrWait := none })
      else goBack (atTime s t) n lane space)) ∧
  (∀ (n t c : Nat) (q : Qp) (u v w : State) (s : State), lookup? s.net.fetching n = some [] → getQp s n = some q → takeContext (atTime s t) (ownerOf q.part) true n = some (c, u) →
    v = modQp u n (fun q => { q with ctx := some c, lastUse := u.time }) → w = { v with net := { v.net with miss := u.net.miss.filter (fun m => m.1 != n), fetching := erase u.net.fetching n } } →
    exec (.contextFetchDone n true t) s = .next ((u.net.miss.filter fun m => m.1 == n).foldl (fun s m => handleArrived s n m.2) w)) ∧
  (∀ (n t e x : Nat) (q : Qp) (s : State), getQp s n = some q → q.oldEpoch = some (e, x) → x ≤ t →
    exec (.oldKeyDrop n t) s = .next (modQp (atTime s t) n fun q => { q with oldEpoch := none, oldSecret := [] })) ∧
  (∀ (k : RocePacket) (t : Nat) (q x : Qp) (s : State), RoceKept (atTime s t) k → getQp s k.qpn = some q → q.service.roce = true → q.part = k.dst % 16 → espAccept (atTime s t) k.qpn q k = some x →
    k.icrcOk = true → q.state ≠ .error → q.ctx ≠ none →
    exec (.rocePacketReceive k t) s = .next (settleDrains (handleRoce (modQp (atTime s t) k.qpn fun _ => { x with lastUse := (atTime s t).time }) k.qpn { x with lastUse := (atTime s t).time } k))) ∧
  (∀ (k : RocePacket) (t : Nat) (q : Qp) (s : State), RoceKept (atTime s t) k → getQp s k.qpn = some q → q.service.roce = true → q.part = k.dst % 16 → espAccept (atTime s t) k.qpn q k = none → q.ctx ≠ none →
    exec (.rocePacketReceive k t) s = .next (if q.keysDead = true then countNode (roceDiscard (atTime s t)) 1 else roceDiscard (atTime s t))) ∧
  (∀ (k : RocePacket) (t : Nat) (s : State), RoceKept (atTime s t) k → (∀ q, getQp s k.qpn = some q → q.service.roce = true → q.part ≠ k.dst % 16) →
    exec (.rocePacketReceive k t) s = .next (roceDiscard (atTime s t)))

/-- The SWEEP station (R110 to R142): a legal ATTEND of a visible sequence begins with its folded query held; a walk whose pages all stay in their banks emits and pins them, and every other walk goes as `walkRun` says;
an issuer starts a chunk on an idle unit within the shares; a chunk without a bad page ends with its time billed; a refresh under a chunk is postponed; a hub folds; progress is recorded; RESEAL is judged, starts and is
done; a bank pair is fenced. -/
def Obligations.Sweeps : Prop :=
  (∀ (q : Nat) (i : BitVec 32) (p : Fin 16) (d : Desc) (a : AttnReq) (r : SeqRec) (tb : Option ScaleTable) (tile : Tile) (s : State), stationDesc s q i 0x03 1 = some d → memActive s = true → d.locked = true →
    d.owner = .part p → a = attendReqOf d → bodyOk d.cur [maskOf 56 48 ||| maskOf 45 0, maskOf 56 32 ||| maskOf 24 0, maskOf 63 32 ||| maskOf 24 0, allBits, allBits, maskOf 63 56 ||| maskOf 15 0] = true →
    scaleLegal (fld (d.w 4) 63 32) = true → d.chainIn = true → a.qcount % a.group = 0 → visibleSeq s p a.seq = some r → seqLost s p r = false → a.layer < r.layers → a.head < r.nheads →
    scaleOf d (fld (d.w 7) 63 56) a.layer (a.head + 1) r.dimCode = .ok tb → inputSize d = a.qcount * r.dim * (if bit (d.w 2) 55 then 4 else 2) →
    hubCount s * a.qcount * partialBytes r.dim (bit (d.w 2) 56) ≤ 65536 → r.format ≠ 0x30 → outProblem s d 5 (hubCount s * a.qcount * partialBytes r.dim (bit (d.w 2) 56)) = none → outProblem s d 6 32 = none →
    d.input = some tile → tile.poison = false →
    exec (.attend q i) s = .next (putDesc s { d with phase := .running, detail := 0, dim := r.dim, fmt := r.format, held := heldQuery (foldQuery32 (if bit (d.w 2) 55 then fp32 else bf16) (if bit (d.w 2) 55 then 4 else 2) r.dim a.qcount (fld (d.w 4) 63 32) (headScales tb a.layer a.head r.dim).1 tile.bytes) })) ∧
  (∀ (q t : Nat) (i : BitVec 32) (p : Fin 16) (d : Desc) (s : State), findDesc s q i = some d → d.owner = .part p → d.wantsWalk = true → memActive s = true →
    ((s.flight.takeWhile fun x => !(x.ctx == q && x.index == i)).any fun x => x.owner == d.owner && x.wantsWalk) = false → exec (.walkStart q i t) s = .next (walkFrom p d (atTime s t))) ∧
  (∀ (q t : Nat) (i : BitVec 32) (p : Fin 16) (d d' : Desc) (a : AttnReq) (r : SeqRec) (xs : List (Nat × Entry)) (pages : List PageWork) (taken : List Nat) (u v : State) (s : State), findDesc s q i = some d →
    d.owner = .part p → d.wantsWalk = true → memActive s = true → ((s.flight.takeWhile fun x => !(x.ctx == q && x.index == i)).any fun x => x.owner == d.owner && x.wantsWalk) = false → d.opcode = 0x03 →
    u = { atTime s t with turns := { s.turns with walks := s.turns.walks.filter fun w => decide ((atTime s t).time < w.2) } } → takePlace u p = some taken → v = { (draw u).2 with turns := { u.turns with walk := taken } } →
    a = attendReqOf d → getSeq u p a.seq = some r → walkPages r a = some xs → pinsFull u xs = false → xs.all (fun y => !entryGone u y.2) = true → pages = xs.mapIdx (fun _ y => pageWork u 0 y.1 y.2 true none) →
    pages.all (fun w => w.route == .bank) = true →
    d' = { d.dropShared with walked := true, pages := pages, ranges := [(if a.last = 0 then (r.head a.layer a.head).length else a.last, (r.head a.layer a.head).length)], cores := [] } →
    ∃ n, n ≤ 1000 * ceilDiv pages.length 1024 ∧ exec (.walkStart q i t) s = .next { takePins (putDesc v d') pages with turns := { u.turns with walk := taken, walks := u.turns.walks ++ [(p.val, u.time + n)] } }) ∧
  (∀ (k t cycles bytes : Nat) (p : Fin 16) (d d' : Desc) (mine : List Nat) (ps : List (Nat × Nat)) (w : State) (s : State), (getUnit s k).chunk = none → (getUnit s k).fenced = false → pchFenced s (k / 16) = false →
    s.power.stackPaused.getD (k / 512) false = false → k < 10240 → accessFirst s k t = false → nextOnUnit s k = some d → d.owner = .part p → domsOn (atTime s t) [84 + k / 512, 104 + k / 512] = true →
    w = sweepWindowAt (atWork (atTime s t) [84 + k / 512, 104 + k / 512]) →
    mine = (List.range d.pages.length).filter (fun j => match d.pages[j]? with
      | some w => w.route == .bank && w.unit == k && w.state == .queued
      | none => false) →
    (∀ j ∈ mine, ∀ x f, d.pages[j]? = some x → x.frame = some f → (getExt w f.ext).kind = .openRows) →
    (cycles, ps) = fillChunk d d.fmt d.dim 0 [] [] (mine.flatMap fun j => ((List.range (passesOf d)).filter fun x => decide (((d.pages[j]?).map (·.passes)).getD 0 ≤ x)).map fun x => (j, x)) →
    bytes = ps.length * pageBytes d.fmt d.dim → usedOf w.sweepUsed (100 + k / 512) + bytes ≤ (caps w).1 * w.power.stackLevel.getD (k / 512) 100 / 100 →
    shareOk w ((caps w).1 * ((List.range 20).filter (stackFitted w)).length) (fun p => (getPart w p).sweepCeil) (w.sweepUsed.filter fun e => decide (e.1 < 17))
      (ownersWith w fun x => x.opcode == 0x03 && x.phase == .running && x.pages.any fun w => w.route == .bank && w.state == .queued) p bytes = true →
    d' = { d with pages := d.pages.mapIdx fun j w => if (groupWork ps).any (fun x => x.1 == j) then { w with state := .reading } else w } →
    exec (.chunkStart k t) s = .next (modUnit { takeUp (putDesc w d') k d' with sweepUsed := assign (assign w.sweepUsed (100 + k / 512) (usedOf w.sweepUsed (100 + k / 512) + bytes)) p.val (usedOf w.sweepUsed p.val + bytes) } k
      fun x => { x with chunk := some { ctx := d.ctx, index := d.index, work := groupWork ps, ns := cycles * 8 / 5 }, snapshot := x.acc, queue := []
                        table := if narrow d.fmt = true then (ps.map (·.2)).foldl (fun a n => some (max n (a.getD 0))) none else none })) ∧
  (∀ (k t : Nat) (c : Chunk) (p : Fin 16) (d : Desc) (u : State) (s : State), (getUnit s k).chunk = some c →
    u = releaseAll (modUnit (atTime s t) k fun x => { x with chunk := none, last := some (c.ctx, c.index), postponed := 0, boundary := (atTime s t).time + if (getUnit s k).postponed = 0 then 0 else 80 }) →
    findDesc u c.ctx c.index = some d → d.owner = .part p → d.phase = .running → (∀ x ∈ c.work, ∀ w, d.pages[x.1]? = some w → chunkPage u p w (x.2.1 == 0) false false d.dim = none) →
    ∃ v d', exec (.chunkEnd k 0 false t) s = .next v ∧ SameBut (partSet [.free, .flight, .units]) u v ∧ (getUnit v k).chunk = (getUnit u k).chunk ∧ (getUnit v k).taken = (getUnit u k).taken ++ c.passes ∧
      ((∀ o, (getLd s o).heldReqs = []) → (getUnit v k).chunk = none ∧ (getUnit v k).last = some (c.ctx, c.index)) ∧ findDesc v c.ctx c.index = some d' ∧ d'.chunks = d.chunks + 1 ∧ d.billed ≤ d'.billed ∧ d'.billed ≤ d.billed + 410) ∧
  (∀ (k : Nat) (c : Chunk) (s : State), (getUnit s k).chunk = some c → exec (.refreshDue k) s = .next (modUnit s k fun x => { x with postponed := min 4 (x.postponed + 1) })) ∧
  (∀ (q h : Nat) (i : BitVec 32) (d e f : Desc) (ps : List Partial) (u v : State) (s : State), findDesc s q i = some d → d.phase = .running → d.opcode = 0x03 → d.walked = true → h < hubCount s → d.hubsDone.contains h = false →
    d.pages.all (fun w => w.hub != h || w.state == .done) = true → u = gatherUnits s d h → findDesc u q i = some e → (ps, v) = hubFold e h 0 (attendReqOf e).qcount u →
    f = { e with hubsDone := h :: e.hubsDone, hubParts := e.hubParts ++ [(h, ps)] } →
    exec (.hubFold q i h) s = .next (if f.hubsDone.length = hubCount v then finishAttend (putDesc v f) f else putDesc v f)) ∧
  (∀ (q t : Nat) (i : BitVec 32) (d : Desc) (s : State), findDesc s q i = some d → d.opcode = 0x03 → d.subop = 1 → d.phase ≠ .finished → d.w 6 ≠ 0#64 → 0 < fld (d.w 7) 15 0 →
    d.time + (d.progressCount + 1) * (1000 * fld (d.w 7) 15 0) ≤ t →
    exec (.progressRecord q i t) s = .next (putDesc (Sys2Proof.progressRecord (atTime s t) d false) { d with progressCount := d.progressCount + 1 })) ∧
  (∀ (q e : Nat) (i : BitVec 32) (d : Desc) (s : State), stationDesc s q i 0x03 2 = some d → memActive s = true → d.len = 0 → bodyOk d.cur [maskOf 16 16 ||| maskOf 10 0] = true → resealExtent s d = some e →
    resealBefore s d e = false → inStore (stagedView s d) d e = false →
    ((getExt (stagedView s d) e).kind ≠ (if bit (d.w 2) 16 then ExtKind.openRows else ExtKind.guarded) → exec (.reseal q i) s = .next (putDesc s { d with phase := .running })) ∧
    ((getExt (stagedView s d) e).kind = (if bit (d.w 2) 16 then ExtKind.openRows else ExtKind.guarded) → exec (.reseal q i) s = .next (putDesc s (d.finish stDone 0 (some 0))))) ∧
  (∀ (q e : Nat) (i : BitVec 32) (d : Desc) (s : State), findDesc s q i = some d → d.isReseal = true → d.phase = .running → d.started = false →
    ((dispatchedBefore s d).any fun x => x.owner == d.owner && x.isReseal && x.phase == .running && !x.started) = false →
    resealsOf s d.owner < (if d.owner = .fm then 8 else 2) → resealExtent s d = some e → inStore (stagedView s d) d e = false →
    exec (.resealStart q i) s = .next (modExt (putDesc s { d with latched := true, started := true }) e fun x => { x with was := (getExt (stagedView s d) e).kind, kind := .awaiting })) ∧
  (∀ (q e n : Nat) (i : BitVec 32) (d : Desc) (rows : List Nat) (v : State) (s : State), findDesc s q i = some d → d.isReseal = true → d.phase = .running → d.started = true → resealExtent s d = some e →
    n = (rows.filter fun r => decide (r < 262144)).eraseDups.length → v = (rows.filter fun r => decide (r < 262144)).foldl (fun s r => unitFault s (e / 3 * 16 + r / 16384) false) s →
    (bit (d.w 2) 16 = false → ∃ w, exec (.resealDone q i rows) s = .next (putDesc w { d.finish (if n = 0 then stDone else stDegraded) (if n = 0 then 0 else 1) (some n) with effects := d.effects ++ [.resealed e .guarded true] }) ∧
      SameBut (partSet [.hbm, .hbmPoison, .openPoison]) v w ∧ w.hbm = Memory.clear v.hbm (hbmAddr e (240 * 2 ^ 20)) (2 ^ 28 - 240 * 2 ^ 20)) ∧
    (bit (d.w 2) 16 = true → n ≠ 0 → ∃ m, n ≤ m ∧ exec (.resealDone q i rows) s = .next (putDesc v { d.finish stPoisoned 3 (some m) with effects := d.effects ++ [.resealed e .guarded false] })) ∧
    (bit (d.w 2) 16 = true → n = 0 → (∀ l ∈ s.hbmPoison, 64 * l < hbmAddr e 0 ∨ hbmAddr e (240 * 2 ^ 20) ≤ 64 * l) →
      ∃ w, exec (.resealDone q i rows) s = .next (putDesc w { d.finish stDone 0 (some 0) with effects := d.effects ++ [.resealed e .openRows true] }) ∧
        SameBut (partSet [.hbm, .hbmPoison, .openPoison]) s w ∧ w.hbm = Memory.clear s.hbm (hbmAddr e (240 * 2 ^ 20)) (2 ^ 28 - 240 * 2 ^ 20))) ∧
  (∀ (k t : Nat) (s : State), (getUnit s k).fenced = false → pchFenced s (k / 16) = false → k < 10240 → maintenanceAway s k = false →
    ∃ u, exec (.bankPairFence k t) s = .next u ∧ SameBut (partSet [.time, .out, .host, .hbm, .hbmPoison, .openPoison, .owners, .flight, .extents, .frames, .words, .units, .flash, .faults]) s u ∧ (getUnit u k).fenced = true ∧ (getUnit u k).chunk = none)

/-- The FOLD station and the cores (R143 to R170): a legal MERGE writes the merged partials and a count; EXACT and BATCH begin; a page is read over the links and its core named; a core takes a page; a piece moves; a core is
fenced; a spare takes its number. The merged values lie within the bounds of R166 (log 12). -/
def Obligations.Folds : Prop :=
  (∀ (q n slots qs c x : Nat) (i : BitVec 32) (rd : HostRead) (d : Desc) (dim : Nat) (tb : Option ScaleTable) (bs out : List Byte) (ps : List Partial) (u v w z : State) (s : State), Taken s q i 0x04 1 [3, 4] d → u = atWork s (needs s d [3, 4]) →
    bodyOk d.cur [maskOf 57 48 ||| maskOf 45 32 ||| maskOf 21 16 ||| maskOf 2 0, allBits, allBits, 0#64, 0#64, maskOf 63 56] = true → fld (d.w 2) 2 0 ≤ 4 → qs = fld (d.w 2) 54 48 + 1 →
    slots = fld (d.w 2) 21 16 + 1 → dim = (dimOf (fld (d.w 2) 2 0)).getD 64 → (if bit (d.w 2) 55 then scaleOf d (fld (d.w 7) 63 56) (fld (d.w 2) 39 32) (fld (d.w 2) 45 40 + 1) (fld (d.w 2) 2 0) else .ok none) = .ok tb → n = partialBytes dim (bit (d.w 2) 56) → inputBreach d 3 = false → inputSize d = slots * qs * n →
    qs * partialBytes dim (bit (d.w 2) 57) ≤ 65536 → pieceCore u d.owner (mergeBytes d) = some c → coreOf u c = some x → domsOn u [4 + x] = true → v = atWork u [4 + x] →
    tileInput v d 3 rd = .ok bs → ps = (List.range (slots * qs)).map (fun k => readPartial dim (bit (d.w 2) 56) (slice bs (k * n) n)) → ps.all (fun p => !badPartial p) = true →
    (out, w) = mergeVectors dim (if bit (d.w 2) 55 then some (headScales tb (fld (d.w 2) 39 32) (fld (d.w 2) 45 40) dim).2 else none) (bit (d.w 2) 57) ((List.range qs).map fun v => (List.range slots).map fun k => ps.getD (k * qs + v) ⟨0, 0, []⟩) v → writeOut w d 4 out = .ok z →
    exec (.merge q i rd) s = .next (putDesc z { d.finish stDone 0 (some (ps.filter fun p => p.m != 0xFF800000).length) (some 0) with output := some { bytes := out } })) ∧
  (∀ (q : Nat) (i : BitVec 32) (rd : HostRead) (p : Fin 16) (d : Desc) (a : AttnReq) (r : SeqRec) (tb : Option ScaleTable) (bs : List Byte) (u : State) (s : State), Taken s q i 0x04 2 [5, 6] d → memActive s = true →
    d.locked = true → u = atWork s (needs s d [5, 6]) → d.owner = .part p → a = exactReqOf d →
    bodyOk d.cur [maskOf 58 48 ||| maskOf 45 0, maskOf 56 32 ||| maskOf 24 0, maskOf 63 32 ||| maskOf 24 0, allBits, allBits, maskOf 63 55 ||| maskOf 45 40 ||| maskOf 6 0] = true → fld (d.w 2) 57 56 ≠ 3 →
    fld (d.w 7) 6 0 ≤ 64 → scaleLegal (fld (d.w 4) 63 32) = true → inputBreach d 5 = false → a.qcount % a.group = 0 → usableCores u d.owner ≠ [] → visibleSeq u p a.seq = some r → seqLost u p r = false →
    a.layer < r.layers → a.head < r.nheads → scaleOf d (fld (d.w 7) 63 56) a.layer (a.head + 1) r.dimCode = .ok tb → inputSize d = a.qcount * r.dim * (queryFmt (fld (d.w 2) 57 56)).2 →
    a.qcount * partialBytes r.dim (bit (d.w 2) 58) ≤ 65536 → outProblem u d 6 (a.qcount * partialBytes r.dim (bit (d.w 2) 58)) = none → tileInput u d 5 rd = .ok bs →
    exec (.foldExact q i rd) s = .next (putDesc u { d with phase := .running, detail := 0, billed := 0, dim := r.dim, fmt := r.format, held := heldQuery (foldQuery32 (queryFmt (fld (d.w 2) 57 56)).1 (queryFmt (fld (d.w 2) 57 56)).2 r.dim a.qcount (fld (d.w 4) 63 32) (headScales tb a.layer a.head r.dim).1 bs) })) ∧
  (∀ (q : Nat) (i : BitVec 32) (rd : HostRead) (p : Fin 16) (d d' : Desc) (bs : List Byte) (names : Nat → Bool) (u w : State) (s : State), Taken s q i 0x04 3 [2, 3] d → memActive s = true → d.held = [] → u = atWork s (needs s d [2, 3]) →
    d.owner = .part p → bodyOk d.cur [allBits, allBits, maskOf 6 0] = true → fld (d.w 4) 6 0 ≤ 64 → inputBreach d 2 = false → 48 ≤ inputSize d → usableCores u d.owner ≠ [] → earlyInput d 2 rd 2 (tileInput u d 2 rd) = .ok bs →
    32 + 16 * batchCount bs ≤ bs.length → batchHeaderOk bs = true → batchBadEntry bs = none → batchQ bs % (fld (wd (batchHeader bs) 0) 37 32 + 1) = 0 →
    names = (fun k => k == (batchNames bs).2 || d.prog.isSome) → w = freeScales (putDesc u { d with scale := d.scale.filter fun e => names e.1 }) { d with scale := d.scale.filter fun e => !names e.1 } →
    d' = { d with held := bs, scale := d.scale.filter (fun e => names e.1), locks := d.locks ++ (((batchReqs bs).map fun a => (p.val, a.seq, false)).filter fun x => !d.locks.any fun y => y.1 == x.1 && y.2.1 == x.2.1).eraseDups } → lockFree w d' = true →
    exec (.batch q i rd) s = .next (batchJudge { d' with heldLocks := d'.locks } w)) ∧
  (∀ (q : Nat) (i : BitVec 32) (rd : HostRead) (d : Desc) (s : State), stationDesc s q i 0x04 3 = some d → memActive s = true → d.held ≠ [] → d.locked = true → exec (.batch q i rd) s = .next (batchJudge d s)) ∧
  (∀ (q k t c : Nat) (i : BitVec 32) (p : Fin 16) (d : Desc) (w : PageWork) (f : FrameAddr) (v : State) (s : State), findDesc s q i = some d → d.owner = .part p → d.pages[k]? = some w → w.frame = some f → d.phase = .running →
    w.route = .links → w.state = .queued → pairBusy s f.unit = false → domsOn (atTime s t) [84 + f.ext / 96] = true → v = exactWindowAt (atWork (atTime s t) [84 + f.ext / 96]) →
    shareOk v (caps v).2.1 (fun p => (getPart v p).exactCeil) v.exactUsed (ownersWith v fun x => x.phase == .running && x.pages.any fun w => w.route == .links && w.state == .queued) p (linkBytes v p w d.dim) = true →
    streamBytes v c + linkBytes v p w d.dim ≤ streamRegion → pagePoisoned v p f (getFrame v f).format d.dim = false → ((getFrame v f).fill = 16 → (crc32c (storedBytes v p f (getFrame v f).format d.dim)).toNat = (getFrame v f).check) → (match w.core with
      | some c => some c
      | none => leastCore v (usableCores v d.owner)) = some c →
    exec (.exactPageRead q i k 0 false t) s = .next (putDesc { v with exactUsed := assign v.exactUsed p.val (usedOf v.exactUsed p.val + linkBytes v p w d.dim) } (d.setPage k fun w => { w with state := .read, core := some c, order := nextOrder v }))) ∧
  (∀ (q k c x stored n : Nat) (i : BitVec 32) (p : Fin 16) (d e : Desc) (w : PageWork) (fmt : Nat) (blocks : List (Nat × Word × List Byte)) (image : List Byte) (u : State) (s : State), findDesc s q i = some d → d.owner = .part p →
    d.pages[k]? = some w → w.core = some c → coreOf s c = some x → corePageData s p w d.dim = some (fmt, blocks, stored) → d.phase = .running → w.route ≠ .bank → w.state = .read → pageReady s x d w = true → servedAfter s x w = false →
    domsOn s [4 + x] = true → u = takePiece (atWork s [4 + x]) x d (pieceBytes d w) → (if fmt = 0x30 then decodeBlocks d.tables blocks else .ok (corePageBytes u p w d.dim)) = .ok image → w.first = none →
    e = d.setPage k (fun w => { w with state := .done, data := some (fmt, image) }) →
    n = stallCycles d.tables fmt d.dim (pageVectors ((attnReqs d)[w.entry]?.getD (attendReqOf d)) (d.ranges.getD w.entry (0, 0)).1 (d.ranges.getD w.entry (0, 0)).2 w.page) stored blocks →
    (d.opcode = 0x03 → exec (.corePage q i k false) s = .next (putDesc u e)) ∧
    (d.opcode = 0x04 → e.pages.all (fun w => w.state == .done) = false → exec (.corePage q i k false) s = .next (putDesc u { e with billed := e.billed + n })) ∧
    (d.opcode = 0x04 → e.pages.all (fun w => w.state == .done) = true → exec (.corePage q i k false) s = .next (finishFold (putDesc u { e with billed := e.billed + n }) { e with billed := e.billed + n }))) ∧
  (∀ (c : Nat) (e : Nat × BitVec 32 × Nat × Nat × Nat) (d : Desc) (s : State), roomWanted s c = true → (s.cores.getD c {}).pieces.find? (fun e => e.2.2.2.1 == 0) = some e → findDesc s e.1 e.2.1 = some d →
    heldBytes s d.owner + movedBytes s d.owner 1 + e.2.2.1 ≤ stagingBytes s d.owner → domsOn s (Loc.staging 0 0).doms = true →
    ∃ u, exec (.pieceMove c) s = .next u ∧ SameBut (partSet [.cores, .power]) s u ∧ u.cores = s.cores.modify c fun y => { y with pieces := y.pieces.map fun x => if x = e then (x.1, x.2.1, x.2.2.1, 1, x.2.2.2.2) else x }) ∧
  (∀ (c : Nat) (e : Nat × BitVec 32 × Nat × Nat × Nat) (d : Desc) (s : State), roomWanted s c = true → (s.cores.getD c {}).pieces.find? (fun e => e.2.2.2.1 == 0) = some e → findDesc s e.1 e.2.1 = some d →
    stagingBytes s d.owner < heldBytes s d.owner + movedBytes s d.owner 1 + e.2.2.1 → spillRoom s d.owner e.2.2.1 = true →
    exec (.pieceMove c) s = .next (putDesc { s with cores := s.cores.modify c fun y => { y with pieces := y.pieces.map fun x => if x = e then (x.1, x.2.1, x.2.2.1, 2, x.2.2.2.2) else x } } { d with moved := true })) ∧
  (∀ (c t : Nat) (s : State), (s.cores.getD c {}).fenced = false → c < 68 → c < s.cores.length →
    ∃ u, exec (.coreFence c t) s = .next u ∧ SameBut (partSet [.time, .free, .out, .host, .owners, .flight, .frames, .words, .cores, .flash, .power, .faults]) s u ∧ (u.cores.getD c {}).fenced = true ∧ (u.cores.getD c {}).pieces = []) ∧
  (∀ (n c x : Nat) (u : State) (s : State), s.coreMap.findIdx? (· == n) = some c → spareCore s = some x → (s.cores.getD n {}).fenced = true →
    u = { s with coreMap := s.coreMap.set c x, cores := s.cores.modify x fun y => { y with pieces := [] } } →
    exec (.spareAssign n) s = .next (modDom u (4 + x) fun y => { y with commanded := (getDom s (4 + n)).commanded, present := (getDom s (4 + n)).commanded, wake := none }))

/-- INGEST and the table loads (R177 to R224, R391, R412): a legal QUANTISE without a segment beyond its limits, MEASURE without a NaN, ENCODE, DECODE, CHECK and HISTOGRAM write their results and wait for their coder units;
a free lane takes a unit; a legal scale table or decode table is staged for its slot, and REMOVE empties it. -/
def Obligations.IngestAndTables : Prop :=
  (∀ (q fmt tokens heads first dim eb policy side : Nat) (i : BitVec 32) (rd : HostRead) (d : Desc) (sf : FloatFmt) (tb : Option ScaleTable) (bs : List Byte) (parts : List (List QPart × List QPart)) (segs marked : List Segment) (u v : State) (s : State),
    Taken s q i 0x01 0x01 [4, 5] d → u = atWork s (needs s d [4, 5]) → fmt = fld (d.w 2) 63 56 → tokens = fld (d.w 2) 48 40 → heads = fld (d.w 2) 25 20 + 1 → first = fld (d.w 2) 31 26 → (sf, eb) = srcFmt (fld (d.w 2) 55 54) →
    bodyOk d.cur [~~~(maskOf 19 8), maskOf 24 0, allBits, allBits] = true → (pageFmt fmt).isSome = true → fld (d.w 2) 55 54 ≠ 3 → fld (d.w 2) 51 49 ≤ 4 → 0 < tokens → tokens ≤ 256 → first + heads ≤ 64 →
    dim = (dimOf (fld (d.w 2) 51 49)).getD 64 → scaleOf d (fld (d.w 2) 7 0) (fld (d.w 2) 39 32) (first + heads) (fld (d.w 2) 51 49) = .ok tb → inputBreach d 4 = false → inputSize d = heads * tokens * 2 * dim * eb →
    heads * tokens * tokenBytes fmt dim ≤ 65536 → tileInput u d 4 rd = .ok bs →
    parts = (List.range heads).map (fun i => ((List.range tokens).map fun j => quantPart fmt ((unpack (8 * eb) (slice bs (((2 * i + 0) * tokens + j) * dim * eb) (dim * eb)) dim).map sf.value) (headScales tb (fld (d.w 2) 39 32) (first + i) dim).1, (List.range tokens).map fun j => quantPart fmt ((unpack (8 * eb) (slice bs (((2 * i + 1) * tokens + j) * dim * eb) (dim * eb)) dim).map sf.value) (headScales tb (fld (d.w 2) 39 32) (first + i) dim).2)) →
    segs = (parts.mapIdx fun i x => (segments (fld (d.w 3) 24 0) tokens).mapIdx fun j a => judgeSegment (zeroLimit tb) dim (17 * i + j) ((x.1.drop a.1).take a.2) ((x.2.drop a.1).take a.2)).flatten →
    segs.all (fun g => !g.bad) = true → policy = (if fld (d.w 2) 53 52 = 0 then fld d.defaults 5 4 else fld (d.w 2) 53 52) → policy ≠ 3 ∨ (segs.all fun g => !g.tooBig && !g.under) = true → marked = (if policy = 2 then segs.filter (fun g => g.tooBig || g.under) else []) →
    side = (marked.map fun g => 2 * g.side.length).sum → side ≤ 65536 → side = 0 ∨ heldBytes u d.owner + side ≤ stagingBytes u d.owner → writeOut u d 5 (parts.flatMap fun x => x.1.flatMap (·.elems) ++ x.1.flatMap (·.scales) ++ x.2.flatMap (·.elems) ++ x.2.flatMap (·.scales)) = .ok v →
    ∃ es tile, exec (.quantise q i rd) s = .next (coderUnits v { d.finish (if marked.isEmpty then stDone else stPromoted) 0 (some (segs.filter fun g => g.tooBig || g.under).length) (some (satField 32 (segs.map (·.count)).sum * 2 ^ 32 + satField 16 marked.length * 2 ^ 16 + satField 16 (segs.filter (·.under)).length)) with output := some tile, effects := d.effects ++ es } (inputSize d)) ∧
      tile.bytes = (parts.flatMap fun x => x.1.flatMap (·.elems) ++ x.1.flatMap (·.scales) ++ x.2.flatMap (·.elems) ++ x.2.flatMap (·.scales)) ∧ (tile.attr.map fun a => (a.promoted, a.side)) = some (marked.map (·.index), marked.map (·.side))) ∧
  (∀ (q : Nat) (i : BitVec 32) (rd : HostRead) (d : Desc) (bs : List Byte) (u v : State) (s : State) (dim tokens heads eb : Nat) (sf : FloatFmt) (cs : List (Nat × Bool)), Taken s q i 0x01 0x02 [4, 5] d →
    u = atWork s (needs s d [4, 5]) → tokens = fld (d.w 2) 48 40 → heads = fld (d.w 2) 25 20 + 1 → (sf, eb) = srcFmt (fld (d.w 2) 55 54) →
    bodyOk d.cur [maskOf 55 54 ||| maskOf 51 20, maskOf 24 0, allBits, allBits] = true → fld (d.w 2) 55 54 ≠ 3 → fld (d.w 2) 51 49 ≤ 4 → 0 < tokens → tokens ≤ 256 → fld (d.w 2) 31 26 + heads ≤ 64 →
    dim = (dimOf (fld (d.w 2) 51 49)).getD 64 → inputBreach d 4 = false → inputSize d = heads * tokens * 2 * dim * eb → heads * 8 * dim ≤ 65536 → tileInput u d 4 rd = .ok bs →
    cs = (List.range heads).flatMap (fun i => (List.range 2).flatMap fun v => (List.range dim).map fun c =>
      maxAbs sf ((List.range tokens).map fun j => ofLe (slice bs ((((2 * i + v) * tokens + j) * dim + c) * eb) eb))) → cs.all (fun c => !c.2) = true →
    writeOut u d 5 (cs.flatMap fun c => leBytes 4 c.1) = .ok v →
    exec (.measure q i rd) s = .next (coderUnits v { d.finish stDone 0 with output := some { bytes := cs.flatMap fun c => leBytes 4 c.1 } } (inputSize d))) ∧
  (∀ (q slot n raw coded : Nat) (i : BitVec 32) (rd : HostRead) (d : Desc) (tb : DecodeTable) (bs out : List Byte) (u v : State) (s : State), Taken s q i 0x01 0x10 [3, 4] d → u = atWork s (needs s d [3, 4]) →
    codingBodyOk d true = true → slot = fld (d.w 2) 32 32 → d.slotWaits slot = false → d.tables.getD slot none = some tb → n = inputSize d → inputBreach d 3 = false → 2 ≤ n → n ≤ 65280 → n % 2 = 0 →
    tileInput u d 3 rd = .ok bs → (out, raw, coded) = encodeStream slot tb (fld (d.w 2) 31 0) bs → writeOut u d 4 out = .ok v →
    exec (.encode q i rd) s = .next (coderUnits v { d.finish stDone 0 (some out.length) (some (raw * 2 ^ 32 + coded)) with
      output := some { bytes := out, tableHold := if coded = 0 then none else (d.owner.part?).map fun p => (p, slot) } } n)) ∧
  (∀ (q total : Nat) (i : BitVec 32) (rd : HostRead) (d : Desc) (bs out : List Byte) (blocks : List (Word × Word × List Byte)) (u v : State) (s : State), Taken s q i 0x01 0x11 [3, 4] d → u = atWork s (needs s d [3, 4]) →
    codingBodyOk d false = true → inputBreach d 3 = false → 0 < inputSize d → tileInput u d 3 rd = .ok bs → parseStream (bs.length / 16 + 1) bs = (blocks, true) → streamWaits d (fld (d.w 2) 31 0) 65536 blocks = false →
    total = (blocks.map fun b => fld b.1 28 16).sum → openStream d.tables (fld (d.w 2) 31 0) 65536 0 blocks = .ok out → writeOut u d 4 out = .ok v →
    exec (.decode q i rd) s = .next (coderUnits v { d.finish stDone 0 (some out.length) (some blocks.length) with output := some { bytes := out } } total)) ∧
  (∀ (q total : Nat) (i : BitVec 32) (rd : HostRead) (d : Desc) (bs out : List Byte) (blocks : List (Word × Word × List Byte)) (u v : State) (s : State), Taken s q i 0x01 0x12 [3, 4] d → u = atWork s (needs s d [3, 4]) →
    codingBodyOk d false = true → inputBreach d 3 = false → 0 < inputSize d → tileInput u d 3 rd = .ok bs → parseStream (bs.length / 16 + 1) bs = (blocks, true) → streamWaits d (fld (d.w 2) 31 0) (2 ^ 64) blocks = false →
    total = (blocks.map fun b => fld b.1 28 16).sum → openStream d.tables (fld (d.w 2) 31 0) (2 ^ 64) 0 blocks = .ok out → writeOut u d 4 [] = .ok v →
    exec (.ingestCheck q i rd) s = .next (coderUnits v (d.finish stDone 0 (some blocks.length)) total)) ∧
  (∀ (q st det k : Nat) (i : BitVec 32) (rd : HostRead) (d : Desc) (bs : List Byte) (blocks : List (Word × Word × List Byte)) (whole : Bool) (u : State) (s : State), Taken s q i 0x01 0x12 [3, 4] d → u = atWork s (needs s d [3, 4]) →
    codingBodyOk d false = true → inputBreach d 3 = false → 0 < inputSize d → tileInput u d 3 rd = .ok bs → parseStream (bs.length / 16 + 1) bs = (blocks, whole) → streamWaits d (fld (d.w 2) 31 0) (2 ^ 64) blocks = false →
    openStream d.tables (fld (d.w 2) 31 0) (2 ^ 64) 0 blocks = .error (st, det, k) → exec (.ingestCheck q i rd) s = .next (putDesc u (d.finish st det (some k)))) ∧
  (∀ (q n : Nat) (i : BitVec 32) (rd : HostRead) (d : Desc) (bs : List Byte) (counts : List Nat) (u v : State) (s : State), Taken s q i 0x01 0x13 [3, 4] d → u = atWork s (needs s d [3, 4]) → codingBodyOk d false = true →
    n = inputSize d → inputBreach d 3 = false → 2 ≤ n → n ≤ 65536 → n % 2 = 0 → tileInput u d 3 rd = .ok bs →
    counts = ((unpack 16 bs (n / 2)).map fun w => (w >>> 7) % 256).foldl (fun (acc : List Nat) e => acc.modify e (· + 1)) (List.replicate 256 0) → writeOut u d 4 (counts.flatMap (leBytes 4)) = .ok v →
    exec (.histogram q i rd) s = .next (coderUnits v { d.finish stDone 0 (some (n / 2)) with output := some { bytes := counts.flatMap (leBytes 4) } } n)) ∧
  (∀ (lane k : Nat) (taken : List Nat) (tier wants : Desc → Bool) (d : Desc) (s : State), lane < 16 → tier = (fun d => d.hasUnits && d.opcode != 0x01) → wants = (if s.power.mode = .absorb ∧ s.flight.any tier then tier else Desc.hasUnits) →
    turn s s.turns.ingest (ownersWith s wants) = some (k, taken) → (s.flight.find? fun d => d.owner.idx == k && wants d) = some d →
    exec (.ingestUnit lane) s = .next { putDesc s { d with unitsLeft := d.unitsLeft - 1, unitsDone := d.unitsDone + 1, phase := if d.unitsLeft - 1 = 0 ∧ (d.opcode = 0x01 ∨ (d.opcode = 0x08 ∧ d.subop = 1)) then .finished else d.phase } with
      turns := { s.turns with ingest := taken } }) ∧
  (∀ (q p len slot dim layers heads : Nat) (i : BitVec 32) (rd : HostRead) (d : Desc) (bs : List Byte) (b : Blocks) (u v : State) (s : State), memActive s = true → Taken s q i 0x0C 0x20 [2] d → u = atWork s (needs s d [2]) →
    d.len = 0 → bodyOk d.cur [allBits, maskOf 11 8 ||| maskOf 4 0, maskOf 31 0] = true → loadPart u d = .ok p → slot = fld (d.w 3) 3 0 → loadBefore u d p (fun x => fld (x.w 3) 3 0 == slot) = false →
    bit (d.w 3) 4 = false → len = fld (d.w 4) 31 0 → 64 ≤ len → loadImage u d rd len = .ok bs → dimOf (fld (wd (toWords 8 bs) 0) 17 15) = some dim → fld (wd (toWords 8 bs) 0) 14 8 = 0 →
    ((toWords 8 bs).drop 1).all (· == 0#64) = true → layers = fld (wd (toWords 8 bs) 0) 31 24 + 1 → heads = fld (wd (toWords 8 bs) 0) 23 18 + 1 → len = 64 + 8 * layers * heads * dim → badScale bs = none →
    takeBlocks u p (ceilDiv len 4096) = some (b, v) →
    exec (.loadScaleTable q i rd) s = .next (putDesc v { d.finish stDone 0 (some (fld (wd (toWords 8 bs) 0) 63 32)) (some b.count) with
      effects := d.effects ++ [.scaleTable p slot (some { version := fld (wd (toWords 8 bs) 0) 63 32, layers := layers, heads := heads, dim := fld (wd (toWords 8 bs) 0) 17 15, image := bs, blocks := b })]
      blocks := if d.owner.part? = some p then b :: d.blocks else d.blocks })) ∧
  (∀ (q p slot : Nat) (i : BitVec 32) (rd : HostRead) (d : Desc) (u : State) (s : State), memActive s = true → Taken s q i 0x0C 0x20 [2] d → u = atWork s (needs s d [2]) → d.len = 0 →
    bodyOk d.cur [allBits, maskOf 11 8 ||| maskOf 4 0, maskOf 31 0] = true → loadPart u d = .ok p → slot = fld (d.w 3) 3 0 → loadBefore u d p (fun x => fld (x.w 3) 3 0 == slot) = false → bit (d.w 3) 4 = true →
    d.w 2 = 0#64 → fld (d.w 4) 31 0 = 0 → exec (.loadScaleTable q i rd) s = .next (putDesc u { d.finish stDone 0 none (some 0) with effects := d.effects ++ [.scaleTable p slot none] })) ∧
  (∀ (q p slot : Nat) (i : BitVec 32) (rd : HostRead) (d : Desc) (bs : List Byte) (tb : DecodeTable) (u : State) (s : State), Taken s q i 0x0C 0x21 [2] d → u = atWork s (needs s d [2]) → d.len = 0 →
    bodyOk d.cur [allBits, maskOf 11 8 ||| maskOf 6 4, maskOf 31 0] = true → fld (d.w 3) 5 4 ≠ 3 → loadPart u d = .ok p → d.loadSlot = some slot →
    bit (d.w 3) 6 = false → fld (d.w 4) 31 0 = 384 → earlyInput d 2 rd 1 (loadImage u d rd 384) = .ok bs → decodeImage bs = some tb → slotHeld u (dispatchedBefore u d) p slot = false →
    (dispatchedBefore u d).any (fun x => x.loadsSlot p slot) = false →
    exec (.loadDecodeTable q i rd) s = .next (putDesc u { d.finish stDone 0 (some tb.version) (some slot) with effects := d.effects ++ [.decodeTable p slot (some tb)] }))

/-- The PLACE operations on sequences (R91 to R109): with legal operands CREATE adds a record, APPEND lengthens the head lists that it names by its tokens, TRUNCATE cuts every head list, FORK shares a prefix, FREE removes a
record, FREEZE and THAW change FROZEN and nothing when it has that value already, RESTORE begins to read spilled pages or is done when there is none, and QUERY gives MIN_LENGTH and VERSION. What a PLACE changes in the store is
staged with its descriptor for the commit point (R93). Where its tables and frames lie is the node's choice (log entries 2 and 8). -/
def Obligations.SequenceOperations : Prop :=
  (∀ (q : Nat) (i : BitVec 32) (p : Fin 16) (d e : Desc) (r : SeqRec) (h : Blocks) (bs : List Blocks) (w w' s : State), AtPlace s q i 1 [maskOf 31 0, maskOf 63 39 ||| maskOf 31 24 ||| maskOf 20 0] p d → w = stagedView s d →
    r = { params := d.w 3, headTable := h, heads := List.replicate ((fld (d.w 3) 63 56 + 1) * (fld (d.w 3) 55 50 + 1)) {} } → (dimOf r.dimCode).isSome = true → r.window ≤ 1048576 → (pageFmt r.format).isSome = true ∨ r.format = 0x30 →
    d.idTaken = false → getSeq w p d.seq = none → lookup? w.fabric.spreads (p.val, d.seq) = none → pageRows r.format r.dim ≤ classRows w p r.cls → (r.format ≠ 0x30 → pageRows 0x30 r.dim ≤ classRows w p r.promoteCls) →
    tableFull w d p = false → takeTables s p (r.layers * r.nheads) = some (h, bs, w') →
    e = { d.finish stDone 0 (some 0) (some 0) with effects := d.effects ++ [.putSeq p d.seq r], blocks := bs ++ d.blocks } → domsOn s (placeDoms e.effects) = true →
    exec (.create q i) s = .next (putDesc w' e)) ∧
  (∀ (q tokens heads first layer : Nat) (i : BitVec 32) (p : Fin 16) (d : Desc) (r : SeqRec) (tile : Tile) (a : PlaceAcc) (w s : State), AtPlace s q i 2 [maskOf 57 46 ||| maskOf 39 0, maskOf 8 0] p d →
    w = stagedView s d → tokens = fld (d.w 3) 8 0 → heads = fld (d.w 2) 57 52 + 1 → first = fld (d.w 2) 51 46 → layer = fld (d.w 2) 39 32 → d.input = some tile → 0 < tokens → tokens ≤ 256 → visibleSeq w p d.seq = some r →
    r.heads.length = r.layers * r.nheads → layer < r.layers → first + heads ≤ r.nheads → tile.bytes.length = heads * tokens * tokenBytes r.format r.dim →
    (∀ x, tile.attr = some x → x.format = r.format ∧ x.dim = r.dimCode ∧ x.layer = layer ∧ x.firstHead = first ∧ x.heads = heads ∧ x.tokens = tokens ∧ ∀ k < heads, (r.head layer (first + k)).length = x.startToken) →
    r.frozen = false → (∀ k < heads, (r.head layer (first + k)).length + tokens ≤ 16777216) →
    (List.range heads).foldl (fun (a : Except PlaceFail PlaceAcc) k => match a with
      | .error e => .error e
      | .ok a => appendHead d p d.seq layer (first + k) tile.attr k 18 a ((List.range tokens).map fun j => tokenAt r.format r.dim tokens (slice tile.bytes (k * tokens * tokenBytes r.format r.dim) (tokens * tokenBytes r.format r.dim)) j) 0) (.ok { base := s, s := w, r := r }) = .ok a → a.waits = false →
    domsOn s (placeDoms (d.effects ++ a.eff ++ [.putSeq p d.seq a.r])) = true →
    ∃ u e r', exec (.append q i) s = .next (putDesc u e) ∧ e.phase = .finished ∧ e.status = (placeStatus a.causes a.promoted).1 ∧ e.detail = (placeStatus a.causes a.promoted).2 ∧
      e.res0 = some ((r.head layer first).length + tokens) ∧ e.res1 = some ((a.taken * 2 ^ 32 + a.sealed_) % 2 ^ 64) ∧ e.effects.getLast? = some (.putSeq p d.seq r') ∧ r'.version = (r.version + 1) % 2 ^ 64 ∧ r'.params = r.params ∧
      (∀ k < heads, (r'.head layer (first + k)).length = (r.head layer (first + k)).length + tokens) ∧ (∀ l h, l < r.layers → h < r.nheads → (l ≠ layer ∨ h < first ∨ first + heads ≤ h) → r'.head l h = r.head l h) ∧ u.hbm = s.hbm) ∧
  (∀ (q n : Nat) (i : BitVec 32) (p : Fin 16) (d e : Desc) (r r' : SeqRec) (w s : State), AtPlace s q i 3 [maskOf 31 0, maskOf 24 0] p d → w = stagedView s d → n = fld (d.w 3) 24 0 → visibleSeq w p d.seq = some r → r.frozen = false →
    (r.heads.any fun h => n < 16 * h.firstPage) = false → r' = (({ r with heads := r.heads.map fun h => (truncateHead w p r h n).1 } : SeqRec).recount).touch →
    e = { d.finish stDone 0 (some r'.maxLength) (some (r.heads.map fun h => (truncateHead w p r h n).2.2).sum) with effects := d.effects ++ r.heads.flatMap (fun h => (truncateHead w p r h n).2.1) ++ [.putSeq p d.seq r'] } →
    domsOn s (placeDoms e.effects) = true → exec (.truncate q i) s = .next (putDesc s e) ∧ (∀ k < r.heads.length, ((r'.heads.getD k {}).length) = min (r.heads.getD k {}).length n)) ∧
  (∀ (q shared : Nat) (i : BitVec 32) (p : Fin 16) (d e : Desc) (src r : SeqRec) (t : Blocks) (bs bs' : List Blocks) (hs : List HeadList) (w w' w'' s : State), AtPlace s q i 4 [maskOf 31 0, maskOf 31 0, maskOf 24 0] p d → w = stagedView s d →
    shared = fld (d.w 4) 24 0 → visibleSeq w p (fld (d.w 3) 31 0) = some src → 0 < shared → shared ≤ src.minLength → d.idTaken = false → getSeq w p d.seq = none → lookup? w.fabric.spreads (p.val, d.seq) = none → src.window = 0 →
    (∀ h ∈ src.heads, ∀ x ∈ h.entries, x.1 < ceilDiv shared 16 → ∀ k b, x.2 ≠ .spilled k b) → tableFull w d p = false → takeTables s p (src.layers * src.nheads) = some (t, bs, w') →
    forkHeads p { params := setFld src.params 20 0 0, headTable := t, heads := [] } shared src.heads w' = some (hs, bs', w'') → r = ({ params := setFld src.params 20 0 0, headTable := t, heads := hs } : SeqRec).recount →
    e = { d.finish stDone 0 (some (ceilDiv shared 16 * hs.length)) (some 0) with
          effects := d.effects ++ (hs.flatMap fun h => h.entries.filterMap fun x => match x.2 with
            | .frame f _ => some (Effect.refUp f)
            | .spilled _ _ => none) ++ [.putSeq p d.seq r], blocks := bs ++ bs' ++ d.blocks } → domsOn s (placeDoms e.effects) = true →
    exec (.fork q i) s = .next (putDesc w'' e) ∧ hs.length = src.heads.length ∧ ∀ h ∈ hs, h.length = shared ∧ ∀ x ∈ h.entries, x.1 < ceilDiv shared 16) ∧
  (∀ (q : Nat) (i : BitVec 32) (p : Fin 16) (d e : Desc) (r : SeqRec) (s : State), AtPlace s q i 5 [maskOf 31 0] p d → visibleSeq (stagedView s d) p d.seq = some r → r.lease = .held →
    e = { d.finish stDone 0 (some (r.heads.map fun h => h.entries.length).sum) (some 0) with effects := d.effects ++ [.delSeq p d.seq] } → domsOn s (placeDoms e.effects) = true → exec (.placeFree q i) s = .next (putDesc s e)) ∧
  (∀ (q : Nat) (i : BitVec 32) (p : Fin 16) (d : Desc) (r : SeqRec) (w s : State), AtPlace s q i 6 [maskOf 31 0] p d → w = stagedView s d → visibleSeq w p d.seq = some r → domsOn s (placeDoms d.effects) = true →
    domsOn s (placeDoms [.putSeq p d.seq r]) = true → ∃ e, exec (.freeze q i) s = .next (putDesc s e) ∧ e.phase = .finished ∧ e.status = stDone ∧ e.detail = 0 ∧ e.res0 = some 0 ∧ e.res1 = some 0 ∧ (r.frozen = true → e.effects = d.effects) ∧
      (r.frozen = false → e.effects = d.effects ++ [.putSeq p d.seq { r with frozen := true, version := (r.version + 1) % 2 ^ 64 }])) ∧
  (∀ (q : Nat) (i : BitVec 32) (p : Fin 16) (d : Desc) (r : SeqRec) (w s : State), AtPlace s q i 7 [maskOf 31 0] p d → w = stagedView s d → visibleSeq w p d.seq = some r → r.lease = .held → domsOn s (placeDoms d.effects) = true →
    domsOn s (placeDoms [.putSeq p d.seq r]) = true → ∃ e, exec (.thaw q i) s = .next (putDesc s e) ∧ e.phase = .finished ∧ e.status = stDone ∧ e.detail = 0 ∧ e.res0 = some 0 ∧ e.res1 = some 0 ∧ (r.frozen = false → e.effects = d.effects) ∧
      (r.frozen = true → e.effects = d.effects ++ [.putSeq p d.seq { r with frozen := false, version := (r.version + 1) % 2 ^ 64 }])) ∧
  (∀ (q : Nat) (i : BitVec 32) (p : Fin 16) (d : Desc) (r : SeqRec) (s : State), AtPlace s q i 8 [maskOf 31 0] p d → visibleSeq (stagedView s d) p d.seq = some r → spilledPages r = [] → domsOn s (placeDoms (d.effects ++ [.putSeq p d.seq r.recount.touch])) = true →
    exec (.restore q i) s = .next (putDesc s { d.finish stDone 0 (some 0) (some 0) with effects := d.effects ++ [.putSeq p d.seq r.recount.touch] })) ∧
  (∀ (q : Nat) (i : BitVec 32) (p : Fin 16) (d : Desc) (r : SeqRec) (ps : List (Nat × Nat × Nat × Nat)) (s : State), AtPlace s q i 8 [maskOf 31 0] p d → visibleSeq (stagedView s d) p d.seq = some r → ps = spilledPages r → ps ≠ [] → (∀ x ∈ ps, slotServes s p x.2.2.2 = true) →
    domsOn s (placeDoms d.effects) = true → exec (.restore q i) s = .next (putDesc ((List.range ps.length).foldl (fun s k => tierOp s d p k ((ps.getD k (0, 0, 0, 0)).2.2.2)) s)
      { d with phase := .running, walked := true, pages := ps.map fun x => { page := x.2.2.1, frame := none, spill := some x.2.2.2, route := .tier } })) ∧
  (∀ (q : Nat) (i : BitVec 32) (p : Fin 16) (d : Desc) (r : SeqRec) (s : State), AtPlace s q i 9 [maskOf 31 0, maskOf 0 0, allBits] p d → visibleSeq (stagedView s d) p d.seq = some r → domsOn s (placeDoms d.effects) = true →
    (bit (d.w 3) 0 = false → exec (.query q i) s = .next (putDesc s (d.finish stDone 0 (some r.minLength) (some r.version)))) ∧
    (∀ loc, bit (d.w 3) 0 = true → locate s d.owner (d.w 4) (occupied s d.owner (d.w 4) 64) true = .ok loc → writable s loc = none →
      exec (.query q i) s = .next (putDesc (writeLoc s d 4 loc (ofWords (r.record s p d.seq))) (d.finish stDone 0 (some r.minLength) (some r.version)))))

/-- The extents of the page store, locks and pins (R78, R87 to R90, R94 to R96): ADD_EXTENT of a free extent of the kind that its USE needs gives it to the store with its frames or 61,440 control blocks, REMOVE_EXTENT of one
whose frames or blocks are all free takes it away, and of another ends NOT_OWNER 3 with the count in use; a waiting descriptor is granted its locks once they are free, and waits otherwise; a reader's pin is released. -/
def Obligations.ExtentsLocksPins : Prop :=
  (∀ (q x cls table : Nat) (i : BitVec 32) (p : Fin 16) (d e : Desc) (w s : State), AtPlace s q i 0x10 [maskOf 15 12 ||| maskOf 10 0] p d → w = stagedView s d → cls = fld (d.w 2) 15 13 → bit (d.w 2) 12 = true →
    ownExt w p (fld (d.w 2) 10 0) = some x → (getExt w x).use = .none → (getExt w x).kind = .openRows → (getExt w x).clearing = false → pchFenced w (x / 3) = false → claimedElse w d x = false → table = ceilDiv (256 * sliceFrames (classRows w p cls)) 4096 → (takeBlocks s p table).isSome = true →
    e = { d.finish stDone 0 (some (16 * sliceFrames (classRows w p cls))) (some 0) with
          effects := d.effects ++ [.addExtent p x (.page cls) table] } →
    domsOn s (placeDoms e.effects) = true → exec (.addExtent q i) s = .next (putDesc (claimExtent s d x (some cls)) e)) ∧
  (∀ (q x : Nat) (i : BitVec 32) (p : Fin 16) (d e : Desc) (w s : State), AtPlace s q i 0x10 [maskOf 15 12 ||| maskOf 10 0] p d → w = stagedView s d → bit (d.w 2) 12 = false →
    ownExt w p (fld (d.w 2) 10 0) = some x → (getExt w x).use = .none → (getExt w x).kind = .guarded → (getExt w x).clearing = false → pchFenced w (x / 3) = false → claimedElse w d x = false →
    e = { d.finish stDone 0 (some 61440) (some 0) with effects := d.effects ++ [.addExtent p x .control 0] } →
    domsOn s (placeDoms e.effects) = true → exec (.addExtent q i) s = .next (putDesc (claimExtent s d x none) e)) ∧
  (∀ (q x n : Nat) (i : BitVec 32) (p : Fin 16) (d : Desc) (w s : State), AtPlace s q i 0x11 [maskOf 10 0] p d → w = stagedView s d → ownExt w p (fld (d.w 2) 10 0) = some x → claimedElse w d x = false → domsOn s (placeDoms d.effects) = true →
    ((∃ c, (getExt w x).use = .page c) ∧ n = framesUsed w p x ∨ (getExt w x).use = .control ∧ n = blocksUsed w p x) →
    (n = 0 → exec (.removeExtent q i) s = .next (putDesc (claimExtent s d x none) { d.finish stDone 0 (some 0) (some 0) with effects := d.effects ++ [.removeExtent p x] })) ∧
    (n ≠ 0 → exec (.removeExtent q i) s = .next (putDesc s (d.finish stNotOwner 3 (some n))))) ∧
  (∀ (q : Nat) (i : BitVec 32) (d : Desc) (s : State), findDesc s q i = some d → d.locked = false →
    exec (.sequenceLockGrant q i) s = .next (if lockFree s d then putDesc s { d with heldLocks := d.locks } else s)) ∧
  (∀ (q k : Nat) (i : BitVec 32) (d : Desc) (w : PageWork) (f : FrameAddr) (s : State), findDesc s q i = some d → d.pages[k]? = some w → w.frame = some f → w.pinned = true → w.state = .done → w.route = .bank →
    ∃ u, exec (.pinRelease q i k) s = .next u ∧ SameBut (partSet [.flight, .frames, .words]) s u ∧ ((getFrame s f).state ≠ .released ∨ 1 < (getFrame s f).pins → (getFrame u f).pins = (getFrame s f).pins - 1 ∧ (getFrame u f).state = (getFrame s f).state) ∧
      ((getFrame s f).state = .released → (getFrame s f).pins ≤ 1 → (getFrame u f).state = .free))

/-- The MATCH operations and LOAD_PATTERNS (R228, R229, R237 to R251): LOOKUP queues one probe for each page's fingerprint, INSERT and REMOVE one slot each, FINGERPRINT writes the fingerprints, STEP advances the record of a
sequence by the tokens of its tile and stages it with the actions that fired, STATE writes the record out, and LOAD_PATTERNS stages a legal image or the empty set. -/
def Obligations.IndexOperations : Prop :=
  (∀ (q p : Nat) (i : BitVec 32) (rd : HostRead) (d : Desc) (ts : List Nat) (u v s : State), Taken s q i 0x05 1 [5] d → u = atWork s (needs s d [5]) → matchPart u d = .ok p → domsOn u [3] = true → v = atWork u [3] →
    pageTokens v d rd false true false false = .ok ts →
    exec (.lookup q i rd) s = .next (putDesc v { d with phase := .running, slots := (tileFps d ts).map fun x => .probe x.1 x.2, hits := [], probes := 0, held := (tileFps d ts).flatMap fun x => leBytes 8 x.1 })) ∧
  (∀ (q p seq : Nat) (i : BitVec 32) (rd : HostRead) (d : Desc) (r : SeqRec) (ts : List Nat) (u v s : State), Taken s q i 0x05 2 [5] d → u = atWork s (needs s d [5]) → matchPart u d = .ok p → domsOn u [3] = true → v = atWork u [3] →
    pageTokens v d rd true false true false = .ok ts → seq = fld (d.w 2) 31 0 → visibleSeq (stagedView v d) p seq = some r → seqLost v p r = false → 16 * fld (d.w 4) 19 0 + ts.length ≤ r.minLength → r.window = 0 →
    exec (.insert q i rd) s = .next (putDesc v { d with phase := .running, slots := (tileFps d ts).map fun _ => .change, probes := (tileFps d ts).length, effects := d.effects ++ (tileFps d ts).map fun x => .indexInsert p x.1 x.2 seq (bit (d.w 4) 63) })) ∧
  (∀ (q p : Nat) (i : BitVec 32) (rd : HostRead) (d : Desc) (ts : List Nat) (u v s : State), Taken s q i 0x05 3 [5] d → u = atWork s (needs s d [5]) → matchPart u d = .ok p → domsOn u [3] = true → v = atWork u [3] →
    pageTokens v d rd false false false false = .ok ts →
    exec (.remove q i rd) s = .next (putDesc v { d with phase := .running, slots := (tileFps d ts).map fun _ => .change, probes := (tileFps d ts).length, effects := d.effects ++ (tileFps d ts).map fun x => .indexRemove p x.1 x.2 })) ∧
  (∀ (q p : Nat) (i : BitVec 32) (rd : HostRead) (d : Desc) (ts : List Nat) (out : List Byte) (u v w s : State), Taken s q i 0x05 4 [5, 6] d → u = atWork s (needs s d [5, 6]) → matchPart u d = .ok p → domsOn u [3] = true → v = atWork u [3] →
    pageTokens v d rd false false false true = .ok ts → out = (tileFps d ts).flatMap (fun x => leBytes 8 x.1) → writeOut v d 6 out = .ok w →
    exec (.fingerprint q i rd) s = .next (putDesc w { d.finish stDone 0 (some (ts.length / 16)) (some (((tileFps d ts).map (·.1)).getLastD 0)) with output := some { bytes := out } })) ∧
  (∀ (q p n ns seq start : Nat) (i : BitVec 32) (rd : HostRead) (d : Desc) (rec : SeqRec) (img : Nat × List Byte) (bs : List Byte) (ts : List Nat) (old : AutoRec) (u v s : State), Taken s q i 0x05 0x10 [5] d → u = atWork s (needs s d [5]) →
    matchPart u d = .ok p → domsOn u [3] = true → v = atWork u [3] → n = inputSize d → ns = fld (d.w 2) 63 32 → seq = fld (d.w 2) 31 0 → start = fld (d.w 7) 24 0 → bodyOk d.cur [allBits, 0#64, 0#64, allBits, 0#64, maskOf 24 0] = true →
    inputBreach d 5 = false → n % 4 = 0 → 4 ≤ n → n ≤ 65536 → visibleSeq (stagedView v d) p seq = some rec → d.patterns = some img → seqLost v p rec = false → tileInput v d 5 rd = .ok bs → tokensOf bs = some ts → old = readAuto rec.automaton →
    (start ≠ 0 → start = old.stepped ∧ ns = old.ns) →
    ∃ e r es, exec (.matchStep q i rd) s = .next (putDesc v e) ∧ e.status = stDone ∧ e.detail = 0 ∧ e.res0 = some (start + ts.length) ∧ e.effects = d.effects ++ [.automaton p seq (writeAuto r)] ++ es ∧ r.stepped = start + ts.length ∧ r.version = (readSet img.2).version ∧
      (e.phase = .finished ∨ e.phase = .running ∧ e.slots ≠ [] ∧ ∀ x ∈ e.slots, x = .change) ∧ (start ≠ 0 → old.version = (readSet img.2).version → old.halted = true → r.state = old.state ∧ r.halted = true ∧ es = [])) ∧
  (∀ (q p : Nat) (i : BitVec 32) (d : Desc) (r : SeqRec) (u v w s : State), Taken s q i 0x05 0x11 [6] d → u = atWork s (needs s d [6]) → matchPart u d = .ok p → domsOn u [3] = true → v = atWork u [3] →
    bodyOk d.cur [maskOf 31 0, 0#64, 0#64, allBits, allBits] = true → d.len = 0 → d.chainIn = false → d.w 5 = 0#64 → visibleSeq (stagedView v d) p (fld (d.w 2) 31 0) = some r → seqLost v p r = false → writeOut v d 6 (ofWords r.automaton) = .ok w →
    exec (.matchState q i) s = .next (putDesc w { d.finish stDone 0 (some (readAuto r.automaton).stepped) (some (readAuto r.automaton).fp) with output := some { bytes := ofWords r.automaton } })) ∧
  (∀ (q p : Nat) (i : BitVec 32) (rd : HostRead) (d : Desc) (u s : State), memActive s = true → Taken s q i 0x0C 0x22 [2] d → u = atWork s (needs s d [2]) → d.len = 0 → bodyOk d.cur [allBits, maskOf 11 8 ||| maskOf 4 4, maskOf 31 0] = true →
    loadPart u d = .ok p → snareBlocks u p ≠ [] → loadBefore u d p (fun _ => true) = false → bit (d.w 3) 4 = true → d.w 2 = 0#64 → fld (d.w 4) 31 0 = 0 →
    exec (.loadPatterns q i rd) s = .next (putDesc u { d.finish stDone 0 none (some 0) with effects := d.effects ++ [.patterns p 0 [] none []] })) ∧
  (∀ (q p n len : Nat) (i : BitVec 32) (rd : HostRead) (d : Desc) (bs : List Byte) (x : PatSet) (auto : List Blocks) (b : Blocks) (u v w s : State), memActive s = true → Taken s q i 0x0C 0x22 [2] d → u = atWork s (needs s d [2]) → d.len = 0 →
    bodyOk d.cur [allBits, maskOf 11 8 ||| maskOf 4 4, maskOf 31 0] = true → loadPart u d = .ok p → n = (snareBlocks u p).length → 0 < n → bit (d.w 3) 4 = false → len = fld (d.w 4) 31 0 → 64 ≤ len →
    earlyInput d 2 rd 1 (loadImage u d rd len) = .ok bs → x = readSet bs → len = 64 + 4 * x.ranges.length + 2 * x.states * x.classes + 2 * x.states + 8 * x.patterns.length → setOk bs = true → x.states ≤ 256 * n → x.states * x.classes ≤ 8192 * n →
    x.ranges.length ≤ 256 * n → x.patterns.length ≤ 2 * n →
    takeRuns u p (if (getPart u p).autoTable.isEmpty then tableRuns u p else []) = some (auto, v) → takeBlocks v p (ceilDiv len 4096) = some (b, w) →
    exec (.loadPatterns q i rd) s = .next (if loadBefore u d p (fun _ => true) then u else putDesc w { d.finish stDone 0 (some x.version) (some (b.count + (auto.map (·.count)).sum)) with
      effects := d.effects ++ [.patterns p x.version bs (some b) auto], blocks := if d.owner.part? = some p then b :: auto ++ d.blocks else d.blocks }))

/-- The work of Snare between descriptors (R232 to R241, R252): a slot goes to the next partition with credit and its first waiting descriptor, and is counted; a change takes it, a probe on chip that is not its descriptor's last notes its hit, an entry whose PARITY fails being removed first (whether it fails is a free value, log entry 31), and a probe of a poisoned bucket
ends the descriptor; a shift ends with its entry in place; neighbours balance; the scan removes the entries whose parity fails and a pass ages the others; the throttle rises at once and falls after 1 ms. How many entries a
balance moves is the model's choice (log entry 15). -/
def Obligations.IndexWork : Prop :=
  (∀ (p : Nat) (ps : List Nat) (taken : List Nat) (d : Desc) (op : SlotOp) (rest : List SlotOp) (v s : State),
    ps = (List.range 16).filter (fun p => s.flight.any fun d => d.owner == ownerOf p && (d.phase == .running && d.opcode == 0x05 && !d.slots.isEmpty)) →
    (ps.find? (fun p => decide (s.snare.taken.getD p 0 < max 1 (snareBlocks s p).length)) = some p ∧ taken = s.snare.taken.set p (s.snare.taken.getD p 0 + 1) ∨
      (∀ x ∈ ps, max 1 (snareBlocks s x).length ≤ s.snare.taken.getD x 0) ∧ ps.head? = some p ∧ taken = (List.replicate 16 0).set p 1) →
    s.flight.find? (fun d => d.owner == ownerOf p && (d.phase == .running && d.opcode == 0x05 && !d.slots.isEmpty)) = some d → domsOn s [3] = true →
    v = count { atWork s [3] with snare := { (atWork s [3]).snare with taken := taken } } (ownerOf p) 14 1 → d.slots = op :: rest →
    (op = .change → exec .snareSlot s = .next (putDesc v { d with slots := rest, phase := if rest.isEmpty then .finished else .running })) ∧
    (∀ fp page w, op = .probe fp page → rest ≠ [] → w = meetEntry v p fp → exec .snareSlot s = .next (putDesc w { d with slots := rest, probes := d.probes + 1, hits := d.hits ++ ((findEntry w p fp).map fun e => (page, fp, e.2.seq, e.2.page, false)).toList })) ∧
    (∀ fp page, op = .probeExt fp page → bucketPoisoned v p fp = true → exec .snareSlot s = .next (endDesc v { d with slots := [] } (stPoisoned, 2)))) ∧
  (∀ (b : Nat) (e : SnareEntry) (r : List SnareEntry) (s : State), (getBlock s b).shifting = e :: r →
    ∃ u, exec (.insertShift b) s = .next u ∧ SameBut (partSet [.snare]) s u ∧ (getBlock u b).shifting = r ∧ (getBlock u b).entries.Perm (e :: (getBlock s b).entries) ∧
      ((getBlock s b).entries.Pairwise (fun x y => x.fp < y.fp) → (∀ x ∈ (getBlock s b).entries, x.fp ≠ e.fp) → (getBlock u b).entries.Pairwise (fun x y => x.fp < y.fp)) ∧ ∀ c, c ≠ b → getBlock u c = getBlock s c) ∧
  (∀ (p : Fin 16) (low a b : Nat) (rest : List Nat) (s : State), (snareBlocks s p).dropWhile (· != low) = a :: b :: rest → a ≠ b → (getBlock s a).shifting = [] → (getBlock s b).shifting = [] →
    ((getBlock s a).entries.length > 3584 ∧ (getBlock s b).entries.length < 2048 ∨ (getBlock s b).entries.length > 3584 ∧ (getBlock s a).entries.length < 2048) →
    ∃ u, exec (.snareBalance p low) s = .next u ∧ SameBut (partSet [.snare]) s u ∧ (getBlock u a).entries ++ (getBlock u b).entries = (getBlock s a).entries ++ (getBlock s b).entries ∧
      max (getBlock u a).entries.length (getBlock u b).entries.length ≤ max 3584 (min (getBlock s a).entries.length (getBlock s b).entries.length + max (getBlock s a).entries.length (getBlock s b).entries.length - 3584) ∧
      ∀ c, c ≠ a → c ≠ b → getBlock u c = getBlock s c) ∧
  (∀ (ups : List (Nat × Nat)) (pass : Bool) (s : State), ∃ u, exec (.parityScan ups pass) s = .next u ∧ SameBut (partSet [.snare, .hbm, .hbmPoison, .openPoison]) s u ∧ (pass = false → SameBut (partSet [.snare]) s u) ∧ u.snare.passes = s.snare.passes + b2n pass ∧ u.snare.blocks.map (·.1) = s.snare.blocks.map (·.1) ∧
    u.snare.removed + (u.snare.blocks.map fun x => x.2.entries.length).sum = s.snare.removed + (s.snare.blocks.map fun x => x.2.entries.length).sum ∧
    ∀ b y, (b, y) ∈ u.snare.blocks → ∃ x, (b, x) ∈ s.snare.blocks ∧ ∀ e ∈ y.entries, ∃ (k : Nat) (e0 : SnareEntry), x.entries[k]? = some e0 ∧ (b, k) ∉ ups ∧ e.fp = e0.fp ∧ e.seq = e0.seq ∧ e.page = e0.page ∧ e.age = if pass then min 15 (e0.age + 1) else e0.age) ∧
  (∀ (x : Int) (t : Nat) (s : State), s.snare.step < throttleStep x → exec (.snareThrottle x t) s = .next { atTime s t with snare := { s.snare with step := throttleStep x, coolSince := none } }) ∧
  (∀ (x : Int) (t : Nat) (s : State), 1 ≤ s.snare.step → s.snare.step ≤ 3 → x ≤ (if s.snare.step = 3 then 400 else if s.snare.step = 2 then 380 else 360) - 12 →
    exec (.snareThrottle x t) s = .next { atTime s t with snare := (match s.snare.coolSince with
      | none => { s.snare with coolSince := some t }
      | some t0 => if t0 + 1000000 ≤ t then { s.snare with step := s.snare.step - 1, coolSince := none } else s.snare) })

/-! ### The block as a whole -/

/-- A step runs the command at the front of the queue on the state with the queue's rest; on an empty queue it is one period of the reference clock (the model's choice, log entry 7). -/
def Obligations.StepRunsFront : Prop :=
  (∀ (c : Instr) (rest : List Instr) (s : State), s.pending = c :: rest → Machine.step s = exec c { s with pending := rest }) ∧
  (∀ s : State, s.pending = [] → Machine.step s = .next (tick s))

/-- The machine after reset has the shape that every step keeps, and no command waits. -/
def Obligations.ShapeAtReset : Prop := Shape Machine.State.reset ∧ Machine.State.reset.pending = []

/-- Every step of the block keeps its shape: the canonical form of the three memories, the seventeen owners, sixteen partitions, sixty-eight cores and 159 domains (R168, R409, R487); it takes one command from the queue
and touches nothing else of it; and it always answers a next state. -/
def Obligations.EveryStepKeepsShape : Prop :=
  (∀ s t : State, Machine.step s = .next t → (Shape s → Shape t) ∧ t.pending = s.pending.tail) ∧
  (∀ s : State, ∃ t, Machine.step s = .next t)

/-- Fuses only burn (R543, R544, R546): over every step IDENTITY, IMAGE_KEY, LIMITS and HBM repair stay, no burnt bit of SEED, SEED_CHECK, LIFECYCLE or a rollback counter clears, and a generation record of which a bit is burnt
stays. So a node that is RETURNED by its fuses stays RETURNED. -/
def Obligations.FusesOnlyBurn : Prop :=
  (∀ s t : State, Machine.step s = .next t → FusesKept s.boot.fuses t.boot.fuses) ∧
  (∀ s t : State, Machine.step s = .next t → fuseLifecycle s.boot.fuses = .returned → fuseLifecycle t.boot.fuses = .returned)

/-- A rollback counter (R548): burnt bits that form one run from bit 0 count, any others give the highest burnt bit plus one, the value is at most 128, and no step lowers it. -/
def Obligations.RollbackCounters : Prop :=
  (∀ (n k : Nat), k ≤ 128 → n % 2 ^ 128 = 2 ^ k - 1 → rollbackValue n = k) ∧
  (∀ (n k : Nat), k < 128 → n.testBit k = true → (∀ j, k < j → j < 128 → n.testBit j = false) → rollbackValue n = k + 1) ∧
  (∀ n : Nat, rollbackValue n ≤ 128) ∧
  (∀ (kind : Nat) (s t : State), Machine.step s = .next t → rollbackOf s kind ≤ rollbackOf t kind)

/-- The byte memories: a byte written is read back and every other byte reads as before, for one byte and for a run; a range cleared reads as zero; and two memories in canonical form that read alike are the same data.
What an unlisted byte reads as is the model's choice for host memory and staging (log entry 4). -/
def Obligations.MemoryReads : Prop :=
  (∀ (m : List Host.Cell) (a c : Nat) (b : Byte), Memory.wf m = true → Memory.read (Memory.write m a b) c = if c = a then b else Memory.read m c) ∧
  (∀ (m : List Host.Cell) (a c : Nat) (bs : List Byte), Memory.wf m = true → Memory.read (Memory.writeBytes m a bs) c = if a ≤ c ∧ c < a + bs.length then bs.getD (c - a) 0#8 else Memory.read m c) ∧
  (∀ (m : List Host.Cell) (a n c : Nat), Memory.wf m = true → Memory.read (Memory.clear m a n) c = if a ≤ c ∧ c < a + n then 0#8 else Memory.read m c) ∧
  (∀ m n : List Host.Cell, Memory.wf m = true → Memory.wf n = true → (∀ a, Memory.read m a = Memory.read n a) → m = n)

/-- Canonical codes (R205): the symbols that have a code are those of a length from 1 to 12 among the 257, ordered by length and then by symbol; the first code is all zeros, and each next one is the one before plus one, shifted left by the
difference in length. -/
def Obligations.CanonicalCodes : Prop :=
  ∀ lengths : List Nat, (∀ n ∈ lengths, n ≤ 12) →
    (∀ k n, (∃ c, (k, n, c) ∈ codesOf lengths) ↔ k ≤ 256 ∧ 0 < n ∧ lengths.getD k 0 = n) ∧
    (codesOf lengths).Pairwise (fun x y => x.2.1 < y.2.1 ∨ x.2.1 = y.2.1 ∧ x.1 < y.1) ∧
    (∀ x, (codesOf lengths).head? = some x → x.2.2 = 0) ∧
    (∀ (j : Nat) (x y : Nat × Nat × Nat), (codesOf lengths)[j]? = some x → (codesOf lengths)[j + 1]? = some y → y.2.2 = (x.2.2 + 1) <<< (y.2.1 - x.2.1))

/-- Segments (R190, R193): a head's tokens are cut at the positions that are multiples of 16 into ⌈((START_TOKEN mod 16) + TOKENS) / 16⌉ segments, at most 17; and a QUANTISE with a NaN or infinite input element ends SCALE_FAULT 3 under
every policy, with the index 17 i + j of the first segment that holds one in RESULT0. -/
def Obligations.SegmentsAndNan : Prop :=
  (∀ start tokens : Nat, 0 < tokens → tokens ≤ 256 → (segments start tokens).length = (start % 16 + tokens + 15) / 16 ∧ (segments start tokens).length ≤ 17 ∧
    ∀ j a n, (segments start tokens)[j]? = some (a, n) → 0 < n ∧ start + a = max start (16 * (start / 16 + j)) ∧ start + a + n = min (start + tokens) (16 * (start / 16 + j + 1))) ∧
  (∀ (q fmt tokens heads first dim eb h j : Nat) (i : BitVec 32) (rd : HostRead) (d : Desc) (sf : FloatFmt) (tb : Option ScaleTable) (bs : List Byte) (holds : Nat → Nat → Prop) (u s : State),
    Taken s q i 0x01 0x01 [4, 5] d → u = atWork s (needs s d [4, 5]) → fmt = fld (d.w 2) 63 56 → tokens = fld (d.w 2) 48 40 → heads = fld (d.w 2) 25 20 + 1 → first = fld (d.w 2) 31 26 → (sf, eb) = srcFmt (fld (d.w 2) 55 54) →
    bodyOk d.cur [~~~(maskOf 19 8), maskOf 24 0, allBits, allBits] = true → (pageFmt fmt).isSome = true → fld (d.w 2) 55 54 ≠ 3 → fld (d.w 2) 51 49 ≤ 4 → 0 < tokens → tokens ≤ 256 → first + heads ≤ 64 →
    dim = (dimOf (fld (d.w 2) 51 49)).getD 64 → scaleOf d (fld (d.w 2) 7 0) (fld (d.w 2) 39 32) (first + heads) (fld (d.w 2) 51 49) = .ok tb → inputBreach d 4 = false → inputSize d = heads * tokens * 2 * dim * eb →
    heads * tokens * tokenBytes fmt dim ≤ 65536 → tileInput u d 4 rd = .ok bs →
    (∀ k l, holds k l ↔ ∃ a n t v c, (segments (fld (d.w 3) 24 0) tokens)[l]? = some (a, n) ∧ a ≤ t ∧ t < a + n ∧ v < 2 ∧ c < dim ∧
      (sf.value ((unpack (8 * eb) (slice bs (((2 * k + v) * tokens + t) * dim * eb) (dim * eb)) dim).getD c 0)).isFin = false) →
    h < heads → holds h j → (∀ k l, k < h ∨ k = h ∧ l < j → ¬ holds k l) →
    exec (.quantise q i rd) s = .next (putDesc u (d.finish stScale 3 (some (17 * h + j)))))
end

