-- ==== Sys2Proof/Laws/Kept.lean ====
section
/-!
SUPPORT. What an operation keeps, as one relation between two states, and how it goes through pairs, options, folds and record updates. The lemma kept_f of a definition f,
in the files that follow, says all that f may change: the parts in the number of its first premise, and nothing of the queue, the shape or the burnt fuses.
-/
namespace Sys2Proof.Laws

open Sys2Proof.Machine (State Fault Refusal)

variable {z : State} {F : Nat}

/-- A set of parts inside another. -/
abbrev Sub (a F : Nat) : Prop := a ||| F = F
theorem Sub.sub {a b F : Nat} (h : Sub a F) (e : b ||| a = a) : Sub b F := by unfold Sub at *; rw [← h, ← Nat.or_assoc, e]
theorem Sub.bit {a F k : Nat} (h : Sub a F) (e : a.testBit k = true) : F.testBit k = true := by unfold Sub at h; rw [← h]; simp [e]
/-- What every operation keeps, going from one state to another that it may change in the parts of F: the queue, every other part, the shape and the fuses. -/
structure Kept (F : Nat) (s t : State) : Prop where
  pending : t.pending = s.pending
  same : SameBut F s t
  shape : Shape s → Shape t
  fuses : FusesKept s.boot.fuses t.boot.fuses

theorem fusesKept_refl (f : Fuses) : FusesKept f f := by constructor <;> intros <;> first | rfl | assumption
theorem fusesKept_trans {f g h : Fuses} (a : FusesKept f g) (b : FusesKept g h) : FusesKept f h :=
  ⟨b.identity.trans a.identity, b.imageKey.trans a.imageKey, b.limits.trans a.limits, b.repair.trans a.repair, fun k y x => b.seed k y (a.seed k y x), fun k x => b.seedCheck k (a.seedCheck k x), fun k x => b.lifecycle k (a.lifecycle k x),
   fun k x => b.rollback0 k (a.rollback0 k x), fun k x => b.rollback1 k (a.rollback1 k x), fun k r x y => b.gens k r (a.gens k r x y) y⟩

variable {α β γ : Type}

/-- A property of the first of a pair. -/
def OnFst (P : α → Prop) : α × β → Prop := fun p => P p.1
/-- A property of the second of a pair. -/
def OnSnd (P : β → Prop) : α × β → Prop := fun p => P p.2
/-- A property of what an option holds. -/
def OnSome (P : α → Prop) : Option α → Prop
  | none => True
  | some x => P x
/-- A property of each of the two results. -/
def OnResult (P : α → Prop) (Q : β → Prop) : Except α β → Prop
  | .error e => P e
  | .ok x => Q x
/-- The property that everything has. -/
def Always : α → Prop := fun _ => True
/-- A property of the next state of an answer. -/
def OnNext (P : State → Prop) : Answer → Prop
  | .next t => P t
  | .fault _ => True
  | .refused _ => True
/-- A property of the state of a placing in hand. -/
def OnPlace (P : State → Prop) : PlaceAcc → Prop := fun a => P a.base

theorem Kept.refl (F : Nat) (s : State) : Kept F s s := ⟨rfl, fun p _ => by cases p <;> rfl, id, fusesKept_refl _⟩
theorem fst_mk {P : α → Prop} {a : α} {b : β} (h : P a) : OnFst P (a, b) := h
theorem snd_mk {P : β → Prop} {a : α} {b : β} (h : P b) : OnSnd P (a, b) := h
theorem fst_of {P : α → Prop} {p : α × β} (h : OnFst P p) : P p.1 := h
theorem snd_of {P : β → Prop} {p : α × β} (h : OnSnd P p) : P p.2 := h
section
variable {γ ε : Type} {P : α → Prop} {a : α} {b : β} {c : γ}
theorem fst_eq {p : α × β} (e : p = (a, b)) (h : OnFst P p) : P a := by rw [e] at h; exact h
theorem snd_eq {p : β × α} (e : p = (b, a)) (h : OnSnd P p) : P a := by rw [e] at h; exact h
theorem sf_eq {p : β × α × γ} (e : p = (b, a, c)) (h : OnSnd (OnFst P) p) : P a := fst_eq (congrArg Prod.snd e) h
theorem ss_eq {p : β × γ × α} (e : p = (b, c, a)) (h : OnSnd (OnSnd P) p) : P a := snd_eq (congrArg Prod.snd e) h
theorem opt_eq {o : Option α} (e : o = some a) (h : OnSome P o) : P a := by rw [e] at h; exact h
theorem of_eq {o : Option (α × β)} (e : o = some (a, b)) (h : OnSome (OnFst P) o) : P a := opt_eq (P := OnFst P) e h
theorem os_eq {o : Option (β × α)} (e : o = some (b, a)) (h : OnSome (OnSnd P) o) : P a := opt_eq (P := OnSnd P) e h
theorem oss_eq {o : Option (β × γ × α)} (e : o = some (b, c, a)) (h : OnSome (OnSnd (OnSnd P)) o) : P a := opt_eq (P := OnSnd (OnSnd P)) e h
theorem exc_ok_eq {Q : β → Prop} {x : Except β α} (e : x = .ok a) (h : OnResult Q P x) : P a := by rw [e] at h; exact h
theorem exc_error_eq {Q : β → Prop} {x : Except α β} (e : x = .error a) (h : OnResult P Q x) : P a := by rw [e] at h; exact h
theorem xf_eq {x : Except ε (α × β)} (e : x = .ok (a, b)) (h : OnResult Always (OnFst P) x) : P a := exc_ok_eq (P := OnFst P) e h
theorem xs_eq {x : Except ε (β × α)} (e : x = .ok (b, a)) (h : OnResult Always (OnSnd P) x) : P a := exc_ok_eq (P := OnSnd P) e h
theorem xe_eq {x : Except (β × α) γ} (e : x = .error (b, a)) (h : OnResult (OnSnd P) Always x) : P a := exc_error_eq (P := OnSnd P) e h
end
theorem opt_some {P : α → Prop} {a : α} (h : P a) : OnSome P (some a) := h
theorem opt_none {P : α → Prop} : OnSome P (none : Option α) := trivial
theorem exc_ok {P : α → Prop} {Q : β → Prop} {a : β} (h : Q a) : OnResult P Q (.ok a) := h
theorem exc_error {P : α → Prop} {Q : β → Prop} {a : α} (h : P a) : OnResult P Q (.error a) := h
theorem ans_next {P : State → Prop} {t : State} (h : P t) : OnNext P (.next t) := h
theorem acc_mk {P : State → Prop} {base s : State} {r eff frames reused blocks touched taken sealed_ causes promoted spills exhausted waits} (h : P base) :
    OnPlace P ⟨base, s, r, eff, frames, reused, blocks, touched, taken, sealed_, causes, promoted, spills, exhausted, waits⟩ := h
theorem ans_eq {P : State → Prop} {x : Answer} {t : State} (e : x = .next t) (h : OnNext P x) : P t := by subst e; exact h
theorem acc_of {P : State → Prop} {a : PlaceAcc} (h : OnPlace P a) : P a.base := h
theorem exc_map {ε : Type} {P : α → Prop} {Q : β → Prop} {x : Except ε α} {f : α → β} (held : OnResult Always P x) (turn : ∀ a, P a → Q (f a)) : OnResult Always Q (x.map f) := by
  rcases x with _ | a
  · exact trivial
  · exact turn a held
theorem foldlM_kept {ε : Type} {P : α → Prop} {f : α → β → Except ε α} {l : List β} {a : α} (start : P a) (turn : ∀ x b, P x → OnResult Always P (f x b)) :
    OnResult Always P (l.foldlM f a) := by
  induction l generalizing a with
  | nil => exact start
  | cons b l ih =>
    have h := turn a b start
    rw [List.foldlM_cons]
    cases e : f a b with
    | error x => exact trivial
    | ok y => rw [e] at h; exact ih h
section
variable {P : α → Prop} {Q : β → Prop} {a : α} {l : List β} {o : Option α}
theorem foldl_kept {f : α → β → α} (start : P a) (turn : ∀ x b, P x → P (f x b)) : P (l.foldl f a) := List.foldlRecOn l f start fun x hx b _ => turn x b hx
theorem foldr_kept {f : β → α → α} (start : P a) (turn : ∀ b x, P x → P (f b x)) : P (l.foldr f a) := List.foldrRecOn l f start fun x hx b _ => turn b x hx
theorem getD_kept (held : OnSome P o) (other : P a) : P (o.getD a) := by
  rcases o with _ | x
  · exact other
  · exact held
theorem map_kept {f : α → β} (P : α → Prop) (held : OnSome P o) (turn : ∀ x, P x → Q (f x)) : OnSome Q (o.map f) := by
  rcases o with _ | x
  · exact trivial
  · exact turn x held
theorem bind_kept {f : α → Option β} (P : α → Prop) (held : OnSome P o) (turn : ∀ x, P x → OnSome Q (f x)) : OnSome Q (o.bind f) := by
  rcases o with _ | x
  · exact trivial
  · exact turn x held
end
theorem opt_triv (o : Option α) : OnSome Always o := by cases o <;> trivial
theorem exc_l {P : α → Prop} {Q : β → Prop} {o : Except α β} (h : OnResult P Q o) : OnResult P Always o := by cases o; exact h; trivial
theorem exc_r {P : α → Prop} {Q : β → Prop} {o : Except α β} (h : OnResult P Q o) : OnResult Always Q o := by cases o; trivial; exact h
theorem ite_kept {P : α → Prop} {c : Prop} [Decidable c] {a b : α} (ha : P a) (hb : P b) : P (if c then a else b) := by split; exact ha; exact hb
theorem testBit_or_left {a b k : Nat} (h : a.testBit k = true) : (a ||| b).testBit k = true := by simp [h]
theorem keeps_life (f : Fuses) (n : Nat) : FusesKept f { f with lifecycle := f.lifecycle ||| n } :=
  ⟨rfl, rfl, rfl, rfl, fun _ _ h => h, fun _ h => h, fun _ h => testBit_or_left h, fun _ h => h, fun _ h => h, fun _ _ h _ => h⟩
theorem keeps_ret (f : Fuses) (n : Nat) : FusesKept f { f with lifecycle := f.lifecycle ||| n, seed := 2 ^ 256 - 1 } :=
  ⟨rfl, rfl, rfl, rfl, fun k hk _ => by rw [Nat.testBit_two_pow_sub_one]; simpa using hk, fun _ h => h, fun _ h => testBit_or_left h, fun _ h => h, fun _ h => h, fun _ _ h _ => h⟩
theorem exc_triv (o : Except α β) : OnResult Always Always o := by cases o <;> trivial
theorem triv (a : α) : Always a := trivial

/-! ### Memories stay in canonical form -/

theorem wfFrom_le {m : List Host.Cell} : ∀ {a b : Nat}, b ≤ a → Memory.wfFrom a m = true → Memory.wfFrom b m = true := by
  cases m with
  | nil => intros; rfl
  | cons c r => intro a b h w; simp only [Memory.wfFrom, Bool.and_eq_true, decide_eq_true_eq] at w ⊢; exact ⟨⟨Nat.le_trans h w.1.1, w.1.2⟩, w.2⟩
theorem wfFrom_write (a : Nat) (b : Byte) : ∀ (m : List Host.Cell) (lo : Nat), lo ≤ a → Memory.wfFrom lo m = true → Memory.wfFrom lo (Memory.write m a b) = true := by
  intro m
  induction m with
  | nil => intro lo h _; simp only [Memory.write]; split <;> simp_all [Memory.wfFrom]
  | cons c r ih =>
    intro lo h w
    obtain ⟨k, v⟩ := c
    simp only [Memory.wfFrom, Bool.and_eq_true, decide_eq_true_eq] at w
    simp only [Memory.write]
    split
    · split
      · exact wfFrom_le (by omega) w.2
      · simp_all [Memory.wfFrom]
    · split
      · split
        · simp_all [Memory.wfFrom]
        · rename_i h1 h2 h3; simp only [Memory.wfFrom, Bool.and_eq_true, decide_eq_true_eq]; exact ⟨⟨h, h3⟩, ⟨⟨by omega, w.1.2⟩, w.2⟩⟩
      · simp only [Memory.wfFrom, Bool.and_eq_true, decide_eq_true_eq]; exact ⟨w.1, ih _ (by omega) w.2⟩
theorem wf_write {m : List Host.Cell} (a : Nat) (b : Byte) (h : Memory.wf m = true) : Memory.wf (Memory.write m a b) = true := wfFrom_write a b m 0 (Nat.zero_le _) h
theorem wf_writeBytes (bs : List Byte) : ∀ {m : List Host.Cell} (a : Nat), Memory.wf m = true → Memory.wf (Memory.writeBytes m a bs) = true := by
  induction bs with
  | nil => intro m a h; exact h
  | cons b r ih => intro m a h; exact ih _ (wf_write _ _ h)
theorem wf_writeCells (cs : List Host.Cell) {m : List Host.Cell} (h : Memory.wf m = true) : Memory.wf (Memory.writeCells m cs) = true :=
  foldl_kept (P := fun m => Memory.wf m = true) h fun _ _ h => wf_write _ _ h
theorem wfFrom_filter (p : Host.Cell → Bool) : ∀ (m : List Host.Cell) (lo : Nat), Memory.wfFrom lo m = true → Memory.wfFrom lo (m.filter p) = true := by
  intro m
  induction m with
  | nil => intro lo h; exact h
  | cons c r ih =>
    intro lo h
    simp only [Memory.wfFrom, Bool.and_eq_true, decide_eq_true_eq] at h
    simp only [List.filter]
    split
    · simp only [Memory.wfFrom, Bool.and_eq_true, decide_eq_true_eq]; exact ⟨h.1, ih _ h.2⟩
    · exact wfFrom_le (Nat.le_succ_of_le h.1.1) (ih _ h.2)
theorem wf_clear {m : List Host.Cell} (a n : Nat) (h : Memory.wf m = true) : Memory.wf (Memory.clear m a n) = true := wfFrom_filter _ m 0 h
theorem wf_sealBounce (key : List Byte) (index : BitVec 32) (word a : Nat) : ∀ (n : Nat) (m : List Host.Cell) (c : Nat) (bs : List Byte), Memory.wf m = true →
    Memory.wf (sealBounce m key index word a n c bs) = true := by
  intro n
  induction n with
  | zero => intro m c bs h; exact h
  | succ n ih => intro m c bs h; exact ih _ _ _ (wf_writeBytes _ _ h)
theorem wf_nil : Memory.wf [] = true := rfl

theorem kept_mk {z x : State} {F : Nat} {f_time f_timeOn f_free f_out f_host f_hbm f_staging f_hbmPoison f_openPoison f_stagingPoison f_poisonOverflow f_owners f_parts f_contexts f_flight f_extents f_frames f_words f_units f_sweepWindow f_sweepUsed f_exactWindow f_exactUsed f_cores f_coreMap f_turns f_snare f_fabric f_net f_ports f_cxl f_flash f_fw f_belfry f_power f_faults f_boot f_serial} (h : Kept F z x)
    (hh : f_host = x.host ∨ (Memory.wf x.host = true → Memory.wf f_host = true) := by first | (left; with_reducible rfl) | (right; intro h; repeat first | with_reducible assumption | with_reducible exact wf_nil | with_reducible apply wf_writeBytes | with_reducible apply wf_writeCells | with_reducible apply wf_sealBounce | with_reducible apply wf_write | with_reducible apply wf_clear))
    (hb : f_hbm = x.hbm ∨ (Memory.wf x.hbm = true → Memory.wf f_hbm = true) := by first | (left; with_reducible rfl) | (right; intro h; repeat first | with_reducible assumption | with_reducible exact wf_nil | with_reducible apply wf_writeBytes | with_reducible apply wf_writeCells | with_reducible apply wf_sealBounce | with_reducible apply wf_write | with_reducible apply wf_clear))
    (hs : f_staging = x.staging ∨ (Memory.wf x.staging = true → Memory.wf f_staging = true) := by first | (left; with_reducible rfl) | (right; intro h; repeat first | with_reducible assumption | with_reducible exact wf_nil | with_reducible apply wf_writeBytes | with_reducible apply wf_writeCells | with_reducible apply wf_sealBounce | with_reducible apply wf_write | with_reducible apply wf_clear))
    (ho : f_owners = x.owners ∨ (x.owners.length = 17 → f_owners.length = 17) := by first | (left; with_reducible rfl) | (right; intro h; simp [h]; done) | (right; intro _; rfl))
    (hq : f_parts = x.parts ∨ (x.parts.length = 16 → f_parts.length = 16) := by first | (left; with_reducible rfl) | (right; intro h; simp [h]; done) | (right; intro _; rfl))
    (hc : f_cores = x.cores ∨ (x.cores.length = 68 → f_cores.length = 68) := by first | (left; with_reducible rfl) | (right; intro h; simp [h]; done) | (right; intro _; rfl))
    (hd : f_power.domains = x.power.domains ∨ (x.power.domains.length = 159 → f_power.domains.length = 159) := by first | (left; with_reducible rfl) | (right; intro h; simp [h, railDomains]; done) | (right; intro _; rfl))
    (hf : f_boot.fuses = x.boot.fuses ∨ FusesKept x.boot.fuses f_boot.fuses := by first | (left; with_reducible rfl) | (left; rfl))
    (k0 : f_time = x.time ∨ F.testBit 0 = true := by first | (left; with_reducible rfl) | (right; apply Sub.bit; assumption; rfl))
    (k1 : f_timeOn = x.timeOn ∨ F.testBit 1 = true := by first | (left; with_reducible rfl) | (right; apply Sub.bit; assumption; rfl))
    (k2 : f_free = x.free ∨ F.testBit 2 = true := by first | (left; with_reducible rfl) | (right; apply Sub.bit; assumption; rfl))
    (k3 : f_out = x.out ∨ F.testBit 3 = true := by first | (left; with_reducible rfl) | (right; apply Sub.bit; assumption; rfl))
    (k4 : f_host = x.host ∨ F.testBit 4 = true := by first | (left; with_reducible rfl) | (right; apply Sub.bit; assumption; rfl))
    (k5 : f_hbm = x.hbm ∨ F.testBit 5 = true := by first | (left; with_reducible rfl) | (right; apply Sub.bit; assumption; rfl))
    (k6 : f_staging = x.staging ∨ F.testBit 6 = true := by first | (left; with_reducible rfl) | (right; apply Sub.bit; assumption; rfl))
    (k7 : f_hbmPoison = x.hbmPoison ∨ F.testBit 7 = true := by first | (left; with_reducible rfl) | (right; apply Sub.bit; assumption; rfl))
    (k8 : f_openPoison = x.openPoison ∨ F.testBit 8 = true := by first | (left; with_reducible rfl) | (right; apply Sub.bit; assumption; rfl))
    (k9 : f_stagingPoison = x.stagingPoison ∨ F.testBit 9 = true := by first | (left; with_reducible rfl) | (right; apply Sub.bit; assumption; rfl))
    (k10 : f_poisonOverflow = x.poisonOverflow ∨ F.testBit 10 = true := by first | (left; with_reducible rfl) | (right; apply Sub.bit; assumption; rfl))
    (k11 : f_owners = x.owners ∨ F.testBit 11 = true := by first | (left; with_reducible rfl) | (right; apply Sub.bit; assumption; rfl))
    (k12 : f_parts = x.parts ∨ F.testBit 12 = true := by first | (left; with_reducible rfl) | (right; apply Sub.bit; assumption; rfl))
    (k13 : f_contexts = x.contexts ∨ F.testBit 13 = true := by first | (left; with_reducible rfl) | (right; apply Sub.bit; assumption; rfl))
    (k14 : f_flight = x.flight ∨ F.testBit 14 = true := by first | (left; with_reducible rfl) | (right; apply Sub.bit; assumption; rfl))
    (k15 : f_extents = x.extents ∨ F.testBit 15 = true := by first | (left; with_reducible rfl) | (right; apply Sub.bit; assumption; rfl))
    (k16 : f_frames = x.frames ∨ F.testBit 16 = true := by first | (left; with_reducible rfl) | (right; apply Sub.bit; assumption; rfl))
    (k17 : f_words = x.words ∨ F.testBit 17 = true := by first | (left; with_reducible rfl) | (right; apply Sub.bit; assumption; rfl))
    (k18 : f_units = x.units ∨ F.testBit 18 = true := by first | (left; with_reducible rfl) | (right; apply Sub.bit; assumption; rfl))
    (k19 : f_sweepWindow = x.sweepWindow ∨ F.testBit 19 = true := by first | (left; with_reducible rfl) | (right; apply Sub.bit; assumption; rfl))
    (k20 : f_sweepUsed = x.sweepUsed ∨ F.testBit 20 = true := by first | (left; with_reducible rfl) | (right; apply Sub.bit; assumption; rfl))
    (k21 : f_exactWindow = x.exactWindow ∨ F.testBit 21 = true := by first | (left; with_reducible rfl) | (right; apply Sub.bit; assumption; rfl))
    (k22 : f_exactUsed = x.exactUsed ∨ F.testBit 22 = true := by first | (left; with_reducible rfl) | (right; apply Sub.bit; assumption; rfl))
    (k23 : f_cores = x.cores ∨ F.testBit 23 = true := by first | (left; with_reducible rfl) | (right; apply Sub.bit; assumption; rfl))
    (k24 : f_coreMap = x.coreMap ∨ F.testBit 24 = true := by first | (left; with_reducible rfl) | (right; apply Sub.bit; assumption; rfl))
    (k25 : f_turns = x.turns ∨ F.testBit 25 = true := by first | (left; with_reducible rfl) | (right; apply Sub.bit; assumption; rfl))
    (k26 : f_snare = x.snare ∨ F.testBit 26 = true := by first | (left; with_reducible rfl) | (right; apply Sub.bit; assumption; rfl))
    (k27 : f_fabric = x.fabric ∨ F.testBit 27 = true := by first | (left; with_reducible rfl) | (right; apply Sub.bit; assumption; rfl))
    (k28 : f_net = x.net ∨ F.testBit 28 = true := by first | (left; with_reducible rfl) | (right; apply Sub.bit; assumption; rfl))
    (k29 : f_ports = x.ports ∨ F.testBit 29 = true := by first | (left; with_reducible rfl) | (right; apply Sub.bit; assumption; rfl))
    (k30 : f_cxl = x.cxl ∨ F.testBit 30 = true := by first | (left; with_reducible rfl) | (right; apply Sub.bit; assumption; rfl))
    (k31 : f_flash = x.flash ∨ F.testBit 31 = true := by first | (left; with_reducible rfl) | (right; apply Sub.bit; assumption; rfl))
    (k32 : f_fw = x.fw ∨ F.testBit 32 = true := by first | (left; with_reducible rfl) | (right; apply Sub.bit; assumption; rfl))
    (k33 : f_belfry = x.belfry ∨ F.testBit 33 = true := by first | (left; with_reducible rfl) | (right; apply Sub.bit; assumption; rfl))
    (k34 : f_power = x.power ∨ F.testBit 34 = true := by first | (left; with_reducible rfl) | (right; apply Sub.bit; assumption; rfl))
    (k35 : f_faults = x.faults ∨ F.testBit 35 = true := by first | (left; with_reducible rfl) | (right; apply Sub.bit; assumption; rfl))
    (k36 : f_boot = x.boot ∨ F.testBit 36 = true := by first | (left; with_reducible rfl) | (right; apply Sub.bit; assumption; rfl))
    (k37 : f_serial = x.serial ∨ F.testBit 37 = true := by first | (left; with_reducible rfl) | (right; apply Sub.bit; assumption; rfl))
    : Kept F z (State.mk x.pending f_time f_timeOn f_free f_out f_host f_hbm f_staging f_hbmPoison f_openPoison f_stagingPoison f_poisonOverflow f_owners f_parts f_contexts f_flight f_extents f_frames f_words f_units f_sweepWindow f_sweepUsed f_exactWindow f_exactUsed f_cores f_coreMap f_turns f_snare f_fabric f_net f_ports f_cxl f_flash f_fw f_belfry f_power f_faults f_boot f_serial) := by
  refine ⟨h.pending, fun p hp => ?_, fun w => ?_, ?_⟩
  · have e := h.same p hp
    cases p
    case time => rcases k0 with k | k; exact (k : _ = _).trans e; exact absurd (k.symm.trans hp) (by decide)
    case timeOn => rcases k1 with k | k; exact (k : _ = _).trans e; exact absurd (k.symm.trans hp) (by decide)
    case free => rcases k2 with k | k; exact (k : _ = _).trans e; exact absurd (k.symm.trans hp) (by decide)
    case out => rcases k3 with k | k; exact (k : _ = _).trans e; exact absurd (k.symm.trans hp) (by decide)
    case host => rcases k4 with k | k; exact (k : _ = _).trans e; exact absurd (k.symm.trans hp) (by decide)
    case hbm => rcases k5 with k | k; exact (k : _ = _).trans e; exact absurd (k.symm.trans hp) (by decide)
    case staging => rcases k6 with k | k; exact (k : _ = _).trans e; exact absurd (k.symm.trans hp) (by decide)
    case hbmPoison => rcases k7 with k | k; exact (k : _ = _).trans e; exact absurd (k.symm.trans hp) (by decide)
    case openPoison => rcases k8 with k | k; exact (k : _ = _).trans e; exact absurd (k.symm.trans hp) (by decide)
    case stagingPoison => rcases k9 with k | k; exact (k : _ = _).trans e; exact absurd (k.symm.trans hp) (by decide)
    case poisonOverflow => rcases k10 with k | k; exact (k : _ = _).trans e; exact absurd (k.symm.trans hp) (by decide)
    case owners => rcases k11 with k | k; exact (k : _ = _).trans e; exact absurd (k.symm.trans hp) (by decide)
    case parts => rcases k12 with k | k; exact (k : _ = _).trans e; exact absurd (k.symm.trans hp) (by decide)
    case contexts => rcases k13 with k | k; exact (k : _ = _).trans e; exact absurd (k.symm.trans hp) (by decide)
    case flight => rcases k14 with k | k; exact (k : _ = _).trans e; exact absurd (k.symm.trans hp) (by decide)
    case extents => rcases k15 with k | k; exact (k : _ = _).trans e; exact absurd (k.symm.trans hp) (by decide)
    case frames => rcases k16 with k | k; exact (k : _ = _).trans e; exact absurd (k.symm.trans hp) (by decide)
    case words => rcases k17 with k | k; exact (k : _ = _).trans e; exact absurd (k.symm.trans hp) (by decide)
    case units => rcases k18 with k | k; exact (k : _ = _).trans e; exact absurd (k.symm.trans hp) (by decide)
    case sweepWindow => rcases k19 with k | k; exact (k : _ = _).trans e; exact absurd (k.symm.trans hp) (by decide)
    case sweepUsed => rcases k20 with k | k; exact (k : _ = _).trans e; exact absurd (k.symm.trans hp) (by decide)
    case exactWindow => rcases k21 with k | k; exact (k : _ = _).trans e; exact absurd (k.symm.trans hp) (by decide)
    case exactUsed => rcases k22 with k | k; exact (k : _ = _).trans e; exact absurd (k.symm.trans hp) (by decide)
    case cores => rcases k23 with k | k; exact (k : _ = _).trans e; exact absurd (k.symm.trans hp) (by decide)
    case coreMap => rcases k24 with k | k; exact (k : _ = _).trans e; exact absurd (k.symm.trans hp) (by decide)
    case turns => rcases k25 with k | k; exact (k : _ = _).trans e; exact absurd (k.symm.trans hp) (by decide)
    case snare => rcases k26 with k | k; exact (k : _ = _).trans e; exact absurd (k.symm.trans hp) (by decide)
    case fabric => rcases k27 with k | k; exact (k : _ = _).trans e; exact absurd (k.symm.trans hp) (by decide)
    case net => rcases k28 with k | k; exact (k : _ = _).trans e; exact absurd (k.symm.trans hp) (by decide)
    case ports => rcases k29 with k | k; exact (k : _ = _).trans e; exact absurd (k.symm.trans hp) (by decide)
    case cxl => rcases k30 with k | k; exact (k : _ = _).trans e; exact absurd (k.symm.trans hp) (by decide)
    case flash => rcases k31 with k | k; exact (k : _ = _).trans e; exact absurd (k.symm.trans hp) (by decide)
    case fw => rcases k32 with k | k; exact (k : _ = _).trans e; exact absurd (k.symm.trans hp) (by decide)
    case belfry => rcases k33 with k | k; exact (k : _ = _).trans e; exact absurd (k.symm.trans hp) (by decide)
    case power => rcases k34 with k | k; exact (k : _ = _).trans e; exact absurd (k.symm.trans hp) (by decide)
    case faults => rcases k35 with k | k; exact (k : _ = _).trans e; exact absurd (k.symm.trans hp) (by decide)
    case boot => rcases k36 with k | k; exact (k : _ = _).trans e; exact absurd (k.symm.trans hp) (by decide)
    case serial => rcases k37 with k | k; exact (k : _ = _).trans e; exact absurd (k.symm.trans hp) (by decide)
  · have a := h.shape w
    refine ⟨?_, ?_, ?_, ?_, ?_, ?_, ?_⟩
    · rcases hh with e | e; exact e ▸ a.host; exact e a.host
    · rcases hb with e | e; exact e ▸ a.hbm; exact e a.hbm
    · rcases hs with e | e; exact e ▸ a.staging; exact e a.staging
    · rcases ho with e | e; exact e ▸ a.owners; exact e a.owners
    · rcases hq with e | e; exact e ▸ a.parts; exact e a.parts
    · rcases hc with e | e; exact e ▸ a.cores; exact e a.cores
    · rcases hd with e | e; exact e ▸ a.domains; exact e a.domains
  · rcases hf with e | e; exact e ▸ h.fuses; exact fusesKept_trans h.fuses e

theorem kept_mk2 {z x y : State} {F : Nat} {f_time f_timeOn f_free f_out f_host f_hbm f_staging f_hbmPoison f_openPoison f_stagingPoison f_poisonOverflow f_parts f_contexts f_flight f_extents f_frames f_words f_units f_sweepWindow f_sweepUsed f_exactWindow f_exactUsed f_cores f_coreMap f_turns f_snare f_fabric f_net f_ports f_cxl f_flash f_fw f_belfry f_power f_faults f_boot f_serial} (h : Kept F z x) (h' : Kept F z y)
    (hh : f_host = x.host ∨ (Memory.wf x.host = true → Memory.wf f_host = true) := by first | (left; with_reducible rfl) | (right; intro h; repeat first | with_reducible assumption | with_reducible exact wf_nil | with_reducible apply wf_writeBytes | with_reducible apply wf_writeCells | with_reducible apply wf_sealBounce | with_reducible apply wf_write | with_reducible apply wf_clear))
    (hb : f_hbm = x.hbm ∨ (Memory.wf x.hbm = true → Memory.wf f_hbm = true) := by first | (left; with_reducible rfl) | (right; intro h; repeat first | with_reducible assumption | with_reducible exact wf_nil | with_reducible apply wf_writeBytes | with_reducible apply wf_writeCells | with_reducible apply wf_sealBounce | with_reducible apply wf_write | with_reducible apply wf_clear))
    (hs : f_staging = x.staging ∨ (Memory.wf x.staging = true → Memory.wf f_staging = true) := by first | (left; with_reducible rfl) | (right; intro h; repeat first | with_reducible assumption | with_reducible exact wf_nil | with_reducible apply wf_writeBytes | with_reducible apply wf_writeCells | with_reducible apply wf_sealBounce | with_reducible apply wf_write | with_reducible apply wf_clear))
    (hq : f_parts = x.parts ∨ (x.parts.length = 16 → f_parts.length = 16) := by first | (left; with_reducible rfl) | (right; intro h; simp [h]; done) | (right; intro _; rfl))
    (hc : f_cores = x.cores ∨ (x.cores.length = 68 → f_cores.length = 68) := by first | (left; with_reducible rfl) | (right; intro h; simp [h]; done) | (right; intro _; rfl))
    (hd : f_power.domains = x.power.domains ∨ (x.power.domains.length = 159 → f_power.domains.length = 159) := by first | (left; with_reducible rfl) | (right; intro h; simp [h, railDomains]; done) | (right; intro _; rfl))
    (hf : f_boot.fuses = x.boot.fuses ∨ FusesKept x.boot.fuses f_boot.fuses := by first | (left; with_reducible rfl) | (left; rfl))
    (k0 : f_time = x.time ∨ F.testBit 0 = true := by first | (left; with_reducible rfl) | (right; apply Sub.bit; assumption; rfl))
    (k1 : f_timeOn = x.timeOn ∨ F.testBit 1 = true := by first | (left; with_reducible rfl) | (right; apply Sub.bit; assumption; rfl))
    (k2 : f_free = x.free ∨ F.testBit 2 = true := by first | (left; with_reducible rfl) | (right; apply Sub.bit; assumption; rfl))
    (k3 : f_out = x.out ∨ F.testBit 3 = true := by first | (left; with_reducible rfl) | (right; apply Sub.bit; assumption; rfl))
    (k4 : f_host = x.host ∨ F.testBit 4 = true := by first | (left; with_reducible rfl) | (right; apply Sub.bit; assumption; rfl))
    (k5 : f_hbm = x.hbm ∨ F.testBit 5 = true := by first | (left; with_reducible rfl) | (right; apply Sub.bit; assumption; rfl))
    (k6 : f_staging = x.staging ∨ F.testBit 6 = true := by first | (left; with_reducible rfl) | (right; apply Sub.bit; assumption; rfl))
    (k7 : f_hbmPoison = x.hbmPoison ∨ F.testBit 7 = true := by first | (left; with_reducible rfl) | (right; apply Sub.bit; assumption; rfl))
    (k8 : f_openPoison = x.openPoison ∨ F.testBit 8 = true := by first | (left; with_reducible rfl) | (right; apply Sub.bit; assumption; rfl))
    (k9 : f_stagingPoison = x.stagingPoison ∨ F.testBit 9 = true := by first | (left; with_reducible rfl) | (right; apply Sub.bit; assumption; rfl))
    (k10 : f_poisonOverflow = x.poisonOverflow ∨ F.testBit 10 = true := by first | (left; with_reducible rfl) | (right; apply Sub.bit; assumption; rfl))
    (k12 : f_parts = x.parts ∨ F.testBit 12 = true := by first | (left; with_reducible rfl) | (right; apply Sub.bit; assumption; rfl))
    (k13 : f_contexts = x.contexts ∨ F.testBit 13 = true := by first | (left; with_reducible rfl) | (right; apply Sub.bit; assumption; rfl))
    (k14 : f_flight = x.flight ∨ F.testBit 14 = true := by first | (left; with_reducible rfl) | (right; apply Sub.bit; assumption; rfl))
    (k15 : f_extents = x.extents ∨ F.testBit 15 = true := by first | (left; with_reducible rfl) | (right; apply Sub.bit; assumption; rfl))
    (k16 : f_frames = x.frames ∨ F.testBit 16 = true := by first | (left; with_reducible rfl) | (right; apply Sub.bit; assumption; rfl))
    (k17 : f_words = x.words ∨ F.testBit 17 = true := by first | (left; with_reducible rfl) | (right; apply Sub.bit; assumption; rfl))
    (k18 : f_units = x.units ∨ F.testBit 18 = true := by first | (left; with_reducible rfl) | (right; apply Sub.bit; assumption; rfl))
    (k19 : f_sweepWindow = x.sweepWindow ∨ F.testBit 19 = true := by first | (left; with_reducible rfl) | (right; apply Sub.bit; assumption; rfl))
    (k20 : f_sweepUsed = x.sweepUsed ∨ F.testBit 20 = true := by first | (left; with_reducible rfl) | (right; apply Sub.bit; assumption; rfl))
    (k21 : f_exactWindow = x.exactWindow ∨ F.testBit 21 = true := by first | (left; with_reducible rfl) | (right; apply Sub.bit; assumption; rfl))
    (k22 : f_exactUsed = x.exactUsed ∨ F.testBit 22 = true := by first | (left; with_reducible rfl) | (right; apply Sub.bit; assumption; rfl))
    (k23 : f_cores = x.cores ∨ F.testBit 23 = true := by first | (left; with_reducible rfl) | (right; apply Sub.bit; assumption; rfl))
    (k24 : f_coreMap = x.coreMap ∨ F.testBit 24 = true := by first | (left; with_reducible rfl) | (right; apply Sub.bit; assumption; rfl))
    (k25 : f_turns = x.turns ∨ F.testBit 25 = true := by first | (left; with_reducible rfl) | (right; apply Sub.bit; assumption; rfl))
    (k26 : f_snare = x.snare ∨ F.testBit 26 = true := by first | (left; with_reducible rfl) | (right; apply Sub.bit; assumption; rfl))
    (k27 : f_fabric = x.fabric ∨ F.testBit 27 = true := by first | (left; with_reducible rfl) | (right; apply Sub.bit; assumption; rfl))
    (k28 : f_net = x.net ∨ F.testBit 28 = true := by first | (left; with_reducible rfl) | (right; apply Sub.bit; assumption; rfl))
    (k29 : f_ports = x.ports ∨ F.testBit 29 = true := by first | (left; with_reducible rfl) | (right; apply Sub.bit; assumption; rfl))
    (k30 : f_cxl = x.cxl ∨ F.testBit 30 = true := by first | (left; with_reducible rfl) | (right; apply Sub.bit; assumption; rfl))
    (k31 : f_flash = x.flash ∨ F.testBit 31 = true := by first | (left; with_reducible rfl) | (right; apply Sub.bit; assumption; rfl))
    (k32 : f_fw = x.fw ∨ F.testBit 32 = true := by first | (left; with_reducible rfl) | (right; apply Sub.bit; assumption; rfl))
    (k33 : f_belfry = x.belfry ∨ F.testBit 33 = true := by first | (left; with_reducible rfl) | (right; apply Sub.bit; assumption; rfl))
    (k34 : f_power = x.power ∨ F.testBit 34 = true := by first | (left; with_reducible rfl) | (right; apply Sub.bit; assumption; rfl))
    (k35 : f_faults = x.faults ∨ F.testBit 35 = true := by first | (left; with_reducible rfl) | (right; apply Sub.bit; assumption; rfl))
    (k36 : f_boot = x.boot ∨ F.testBit 36 = true := by first | (left; with_reducible rfl) | (right; apply Sub.bit; assumption; rfl))
    (k37 : f_serial = x.serial ∨ F.testBit 37 = true := by first | (left; with_reducible rfl) | (right; apply Sub.bit; assumption; rfl))
    : Kept F z (State.mk x.pending f_time f_timeOn f_free f_out f_host f_hbm f_staging f_hbmPoison f_openPoison f_stagingPoison f_poisonOverflow y.owners f_parts f_contexts f_flight f_extents f_frames f_words f_units f_sweepWindow f_sweepUsed f_exactWindow f_exactUsed f_cores f_coreMap f_turns f_snare f_fabric f_net f_ports f_cxl f_flash f_fw f_belfry f_power f_faults f_boot f_serial) := by
  refine ⟨h.pending, fun p hp => ?_, fun w => ?_, ?_⟩
  · have e := h.same p hp
    cases p
    case time => rcases k0 with k | k; exact (k : _ = _).trans e; exact absurd (k.symm.trans hp) (by decide)
    case timeOn => rcases k1 with k | k; exact (k : _ = _).trans e; exact absurd (k.symm.trans hp) (by decide)
    case free => rcases k2 with k | k; exact (k : _ = _).trans e; exact absurd (k.symm.trans hp) (by decide)
    case out => rcases k3 with k | k; exact (k : _ = _).trans e; exact absurd (k.symm.trans hp) (by decide)
    case host => rcases k4 with k | k; exact (k : _ = _).trans e; exact absurd (k.symm.trans hp) (by decide)
    case hbm => rcases k5 with k | k; exact (k : _ = _).trans e; exact absurd (k.symm.trans hp) (by decide)
    case staging => rcases k6 with k | k; exact (k : _ = _).trans e; exact absurd (k.symm.trans hp) (by decide)
    case hbmPoison => rcases k7 with k | k; exact (k : _ = _).trans e; exact absurd (k.symm.trans hp) (by decide)
    case openPoison => rcases k8 with k | k; exact (k : _ = _).trans e; exact absurd (k.symm.trans hp) (by decide)
    case stagingPoison => rcases k9 with k | k; exact (k : _ = _).trans e; exact absurd (k.symm.trans hp) (by decide)
    case poisonOverflow => rcases k10 with k | k; exact (k : _ = _).trans e; exact absurd (k.symm.trans hp) (by decide)
    case owners => exact h'.same .owners hp
    case parts => rcases k12 with k | k; exact (k : _ = _).trans e; exact absurd (k.symm.trans hp) (by decide)
    case contexts => rcases k13 with k | k; exact (k : _ = _).trans e; exact absurd (k.symm.trans hp) (by decide)
    case flight => rcases k14 with k | k; exact (k : _ = _).trans e; exact absurd (k.symm.trans hp) (by decide)
    case extents => rcases k15 with k | k; exact (k : _ = _).trans e; exact absurd (k.symm.trans hp) (by decide)
    case frames => rcases k16 with k | k; exact (k : _ = _).trans e; exact absurd (k.symm.trans hp) (by decide)
    case words => rcases k17 with k | k; exact (k : _ = _).trans e; exact absurd (k.symm.trans hp) (by decide)
    case units => rcases k18 with k | k; exact (k : _ = _).trans e; exact absurd (k.symm.trans hp) (by decide)
    case sweepWindow => rcases k19 with k | k; exact (k : _ = _).trans e; exact absurd (k.symm.trans hp) (by decide)
    case sweepUsed => rcases k20 with k | k; exact (k : _ = _).trans e; exact absurd (k.symm.trans hp) (by decide)
    case exactWindow => rcases k21 with k | k; exact (k : _ = _).trans e; exact absurd (k.symm.trans hp) (by decide)
    case exactUsed => rcases k22 with k | k; exact (k : _ = _).trans e; exact absurd (k.symm.trans hp) (by decide)
    case cores => rcases k23 with k | k; exact (k : _ = _).trans e; exact absurd (k.symm.trans hp) (by decide)
    case coreMap => rcases k24 with k | k; exact (k : _ = _).trans e; exact absurd (k.symm.trans hp) (by decide)
    case turns => rcases k25 with k | k; exact (k : _ = _).trans e; exact absurd (k.symm.trans hp) (by decide)
    case snare => rcases k26 with k | k; exact (k : _ = _).trans e; exact absurd (k.symm.trans hp) (by decide)
    case fabric => rcases k27 with k | k; exact (k : _ = _).trans e; exact absurd (k.symm.trans hp) (by decide)
    case net => rcases k28 with k | k; exact (k : _ = _).trans e; exact absurd (k.symm.trans hp) (by decide)
    case ports => rcases k29 with k | k; exact (k : _ = _).trans e; exact absurd (k.symm.trans hp) (by decide)
    case cxl => rcases k30 with k | k; exact (k : _ = _).trans e; exact absurd (k.symm.trans hp) (by decide)
    case flash => rcases k31 with k | k; exact (k : _ = _).trans e; exact absurd (k.symm.trans hp) (by decide)
    case fw => rcases k32 with k | k; exact (k : _ = _).trans e; exact absurd (k.symm.trans hp) (by decide)
    case belfry => rcases k33 with k | k; exact (k : _ = _).trans e; exact absurd (k.symm.trans hp) (by decide)
    case power => rcases k34 with k | k; exact (k : _ = _).trans e; exact absurd (k.symm.trans hp) (by decide)
    case faults => rcases k35 with k | k; exact (k : _ = _).trans e; exact absurd (k.symm.trans hp) (by decide)
    case boot => rcases k36 with k | k; exact (k : _ = _).trans e; exact absurd (k.symm.trans hp) (by decide)
    case serial => rcases k37 with k | k; exact (k : _ = _).trans e; exact absurd (k.symm.trans hp) (by decide)
  · have a := h.shape w
    refine ⟨?_, ?_, ?_, ?_, ?_, ?_, ?_⟩
    · rcases hh with e | e; exact e ▸ a.host; exact e a.host
    · rcases hb with e | e; exact e ▸ a.hbm; exact e a.hbm
    · rcases hs with e | e; exact e ▸ a.staging; exact e a.staging
    · exact (h'.shape w).owners
    · rcases hq with e | e; exact e ▸ a.parts; exact e a.parts
    · rcases hc with e | e; exact e ▸ a.cores; exact e a.cores
    · rcases hd with e | e; exact e ▸ a.domains; exact e a.domains
  · rcases hf with e | e; exact e ▸ h.fuses; exact fusesKept_trans h.fuses e

end Sys2Proof.Laws
end

