-- ==== Sys2Proof/Laws/KeptOps.lean ====
section
/-!
SUPPORT. What the definitions of the shared operations keep (Laws/Kept.lean).
-/
namespace Sys2Proof.Laws

set_option maxRecDepth 4000

set_option Elab.async false

open Sys2Proof.Machine (State Fault Refusal)

variable {z : State} {F : Nat}

/-! ### Ops -/

theorem kept_atTime (hF : Sub 1 F) : ∀ a0 a1, Kept F z a0 → (Kept F z) (Sys2Proof.atTime a0 a1) := by
  unfold Sys2Proof.atTime
  intro v0 v1 v2
  refine kept_mk ?_
  with_reducible assumption
theorem kept_draw (hF : Sub 4 F) : ∀ a0, Kept F z a0 → (OnSnd (Kept F z)) (Sys2Proof.draw a0) := by
  unfold Sys2Proof.draw
  intro v0 v1
  refine snd_mk ?_
  refine kept_mk ?_
  with_reducible assumption
theorem kept_orFree (hF : Sub 4 F) : ∀ a0 a1 a2, Kept F z a0 → (OnSnd (Kept F z)) (Sys2Proof.orFree a0 a1 a2) := by
  unfold Sys2Proof.orFree
  intro v0 v1 v2 v3
  split
  · refine snd_mk ?_
    with_reducible assumption
  · refine snd_mk ?_
    refine kept_mk ?_
    with_reducible assumption
theorem kept_drawBytes (hF : Sub 4 F) : ∀ a0 a1, Kept F z a1 → (OnSnd (Kept F z)) (Sys2Proof.drawBytes a0 a1) := by
  unfold Sys2Proof.drawBytes
  intro v0 v1 v2
  refine snd_mk ?_
  refine kept_mk ?_
  with_reducible assumption
theorem kept_emit (hF : Sub 8 F) : ∀ a0 a1, Kept F z a0 → (Kept F z) (Sys2Proof.emit a0 a1) := by
  unfold Sys2Proof.emit
  intro v0 v1 v2
  refine kept_mk ?_
  with_reducible assumption
theorem kept_modOwner (hF : Sub 2048 F) : ∀ a0 a1 a2, Kept F z a0 → (Kept F z) (Sys2Proof.modOwner a0 a1 a2) := by
  unfold Sys2Proof.modOwner
  intro v0 v1 v2 v3
  refine kept_mk ?_
  with_reducible assumption
theorem kept_modPart (hF : Sub 4096 F) : ∀ a0 a1 a2, Kept F z a0 → (Kept F z) (Sys2Proof.modPart a0 a1 a2) := by
  unfold Sys2Proof.modPart
  intro v0 v1 v2 v3
  refine kept_mk ?_
  with_reducible assumption
theorem kept_modRing (hF : Sub 2048 F) : ∀ a0 a1 a2 a3, Kept F z a0 → (Kept F z) (Sys2Proof.modRing a0 a1 a2 a3) := by
  unfold Sys2Proof.modRing
  intro v0 v1 v2 v3 v4
  refine kept_modOwner (hF.sub rfl) _ _ _ ?_
  with_reducible assumption
theorem kept_modFlash (hF : Sub 2147483648 F) : ∀ a0 a1 a2, Kept F z a0 → (Kept F z) (Sys2Proof.modFlash a0 a1 a2) := by
  unfold Sys2Proof.modFlash
  intro v0 v1 v2 v3
  refine kept_mk ?_
  with_reducible assumption
theorem kept_count (hF : Sub 2048 F) : ∀ a0 a1 a2 a3, Kept F z a0 → (Kept F z) (Sys2Proof.count a0 a1 a2 a3) := by
  unfold Sys2Proof.count
  intro v0 v1 v2 v3 v4
  refine kept_modOwner (hF.sub rfl) _ _ _ ?_
  with_reducible assumption
theorem kept_modExt (hF : Sub 32768 F) : ∀ a0 a1 a2, Kept F z a0 → (Kept F z) (Sys2Proof.modExt a0 a1 a2) := by
  unfold Sys2Proof.modExt
  intro v0 v1 v2 v3
  refine kept_mk ?_
  with_reducible assumption
theorem kept_modLd (hF : Sub 1073741824 F) : ∀ a0 a1 a2, Kept F z a0 → (Kept F z) (Sys2Proof.modLd a0 a1 a2) := by
  unfold Sys2Proof.modLd
  intro v0 v1 v2 v3
  refine kept_mk ?_
  with_reducible assumption
theorem kept_writeHbm (hF : Sub 416 F) : ∀ a0 a1 a2 a3, Kept F z a0 → (Kept F z) (Sys2Proof.writeHbm a0 a1 a2 a3) := by
  unfold Sys2Proof.writeHbm
  intro v0 v1 v2 v3 v4
  extract_lets +onlyGivenNames l5_0 l5_1
  clear_value l5_0 l5_1
  refine kept_mk ?_
  with_reducible assumption
theorem kept_clearExtent (hF : Sub 33184 F) : ∀ a0 a1, Kept F z a0 → (Kept F z) (Sys2Proof.clearExtent a0 a1) := by
  unfold Sys2Proof.clearExtent
  intro v0 v1 v2
  extract_lets +onlyGivenNames l3_0 l3_1
  clear_value l3_0 l3_1
  refine kept_modExt (hF.sub rfl) _ _ _ ?_
  refine kept_mk ?_
  with_reducible assumption
theorem kept_putDesc (hF : Sub 16384 F) : ∀ a0 a1, Kept F z a0 → (Kept F z) (Sys2Proof.putDesc a0 a1) := by
  unfold Sys2Proof.putDesc
  intro v0 v1 v2
  refine kept_mk ?_
  with_reducible assumption
theorem kept_writeLoc (hF : Sub 1008 F) : ∀ a0 a1 a2 a3 a4, Kept F z a0 → (Kept F z) (Sys2Proof.writeLoc a0 a1 a2 a3 a4) := by
  unfold Sys2Proof.writeLoc
  intro v0 v1 v2 v3 v4 v5
  split
  · split
    · refine kept_mk ?_
      with_reducible assumption
    · refine kept_mk ?_
      with_reducible assumption
  · refine kept_writeHbm (hF.sub rfl) _ _ _ _ ?_
    with_reducible assumption
  · extract_lets +onlyGivenNames l14_0 l14_1
    clear_value l14_0 l14_1
    refine kept_mk ?_
    with_reducible assumption
theorem kept_writeOut (hF : Sub 1008 F) : ∀ a0 a1 a2 a3 a4, Kept F z a0 → (OnResult Always (Kept F z)) (Sys2Proof.writeOut a0 a1 a2 a3 a4) := by
  unfold Sys2Proof.writeOut
  intro v0 v1 v2 v3 v4 v5
  split
  · refine exc_ok ?_
    with_reducible assumption
  · split
    · exact exc_error trivial
    · split
      · exact exc_error trivial
      · refine exc_ok ?_
        refine kept_writeLoc (hF.sub rfl) _ _ _ _ _ ?_
        with_reducible assumption
theorem kept_logError (hF : Sub 34359738368 F) : ∀ a0 a1 a2 a3 a4 a5, Kept F z a0 → (Kept F z) (Sys2Proof.logError a0 a1 a2 a3 a4 a5) := by
  unfold Sys2Proof.logError
  intro v0 v1 v2 v3 v4 v5 v6
  extract_lets +onlyGivenNames l7_0
  clear_value l7_0
  split
  · extract_lets +onlyGivenNames l9_0
    clear_value l9_0
    refine kept_mk ?_
    with_reducible assumption
  · extract_lets +onlyGivenNames l12_0 l12_1 l12_2
    clear_value l12_0 l12_1 l12_2
    extract_lets +onlyGivenNames l13_0
    clear_value l13_0
    refine kept_mk ?_
    with_reducible assumption
theorem kept_setAlert (hF : Sub 68719476736 F) : ∀ a0 a1 a2, Kept F z a0 → (Kept F z) (Sys2Proof.setAlert a0 a1 a2) := by
  unfold Sys2Proof.setAlert
  intro v0 v1 v2 v3
  refine kept_mk ?_
  with_reducible assumption

/-! ### Domains -/

theorem kept_modDom (hF : Sub 17179869184 F) : ∀ a0 a1 a2, Kept F z a0 → (Kept F z) (Sys2Proof.modDom a0 a1 a2) := by
  unfold Sys2Proof.modDom
  intro v0 v1 v2 v3
  refine kept_mk ?_
  with_reducible assumption
theorem kept_countPower (hF : Sub 17179869184 F) : ∀ a0 a1 a2, Kept F z a0 → (Kept F z) (Sys2Proof.countPower a0 a1 a2) := by
  unfold Sys2Proof.countPower
  intro v0 v1 v2 v3
  refine kept_mk ?_
  with_reducible assumption
theorem kept_startWake (hF : Sub 17179869184 F) : ∀ a0 a1, Kept F z a0 → (Kept F z) (Sys2Proof.startWake a0 a1) := by
  unfold Sys2Proof.startWake
  intro v0 v1 v2
  extract_lets +onlyGivenNames l3_0
  clear_value l3_0
  split
  · with_reducible assumption
  · refine kept_countPower (hF.sub rfl) _ _ _ ?_
    refine kept_modDom (hF.sub rfl) _ _ _ ?_
    with_reducible assumption
theorem kept_withDoms (hF : Sub 17179869184 F) : ∀ a0 a1 a2, Kept F z a0 → (∀ x0, (Kept F z) (x0) → (Kept F z) (a2 x0)) → (Kept F z) (Sys2Proof.withDoms a0 a1 a2) := by
  unfold Sys2Proof.withDoms
  intro v0 v1 v2 v3 v4
  split
  · refine v4 _ ?_
    refine foldl_kept (P := (Kept F z)) ?_ ?_
    · with_reducible assumption
    · intro v9 v10 v11
      refine kept_modDom (hF.sub rfl) _ _ _ ?_
      with_reducible assumption
  · refine foldl_kept (P := (Kept F z)) ?_ ?_
    · with_reducible assumption
    · intro v16 v17 v18
      refine kept_startWake (hF.sub rfl) _ _ ?_
      with_reducible assumption
theorem kept_withSequencer (hF : Sub 17179869184 F) : ∀ a0 a1 a2, Kept F z a0 → (∀ x0, (Kept F z) (x0) → (Kept F z) (a2 x0)) → (Kept F z) (Sys2Proof.withSequencer a0 a1 a2) := by
  unfold Sys2Proof.withSequencer
  intro v0 v1 v2 v3 v4
  split
  · with_reducible assumption
  · refine kept_withDoms (hF.sub rfl) _ _ _ ?_ ?_
    · with_reducible assumption
    · intro v9 v10
      refine v4 _ ?_
      with_reducible assumption

/-! ### StoreOps -/

theorem kept_takeBlocks (hF : Sub 4100 F) : ∀ a0 a1 a2, Kept F z a0 → (OnSome (OnSnd (Kept F z))) (Sys2Proof.takeBlocks a0 a1 a2) := by
  unfold Sys2Proof.takeBlocks
  intro v0 v1 v2 v3
  split
  · refine opt_some ?_
    refine snd_mk ?_
    with_reducible assumption
  · extract_lets +onlyGivenNames l8_0
    clear_value l8_0
    split
    · exact opt_none
    · split
      split
      extract_lets +onlyGivenNames l13_0
      clear_value l13_0
      refine opt_some ?_
      refine snd_mk ?_
      refine kept_modPart (hF.sub rfl) _ _ _ ?_
      refine snd_eq (by assumption) (?_ : OnSnd (Kept F z) (Sys2Proof.draw _))
      refine kept_draw (hF.sub rfl) _ ?_
      with_reducible assumption
theorem kept_freeBlocks (hF : Sub 4096 F) : ∀ a0 a1 a2, Kept F z a0 → (Kept F z) (Sys2Proof.freeBlocks a0 a1 a2) := by
  unfold Sys2Proof.freeBlocks
  intro v0 v1 v2 v3
  refine kept_modPart (hF.sub rfl) _ _ _ ?_
  with_reducible assumption
theorem kept_modUnit (hF : Sub 262144 F) : ∀ a0 a1 a2, Kept F z a0 → (Kept F z) (Sys2Proof.modUnit a0 a1 a2) := by
  unfold Sys2Proof.modUnit
  intro v0 v1 v2 v3
  refine kept_mk ?_
  with_reducible assumption
theorem kept_queueAccess (hF : Sub 262144 F) : ∀ a0 a1 a2, Kept F z a0 → (Kept F z) (Sys2Proof.queueAccess a0 a1 a2) := by
  unfold Sys2Proof.queueAccess
  intro v0 v1 v2 v3
  refine foldl_kept (P := (Kept F z)) ?_ ?_
  · with_reducible assumption
  · intro v6 v7 v8
    refine kept_modUnit (hF.sub rfl) _ _ _ ?_
    with_reducible assumption
theorem kept_setFrame (hF : Sub 65536 F) : ∀ a0 a1 a2, Kept F z a0 → (Kept F z) (Sys2Proof.setFrame a0 a1 a2) := by
  unfold Sys2Proof.setFrame
  intro v0 v1 v2 v3
  refine kept_mk ?_
  with_reducible assumption
theorem kept_clearFrames (hF : Sub 196608 F) : ∀ a0 a1, Kept F z a0 → (Kept F z) (Sys2Proof.clearFrames a0 a1) := by
  unfold Sys2Proof.clearFrames
  intro v0 v1 v2
  refine kept_mk ?_
  with_reducible assumption
theorem kept_reserveFrame (hF : Sub 65536 F) : ∀ a0 a1, Kept F z a0 → (Kept F z) (Sys2Proof.reserveFrame a0 a1) := by
  unfold Sys2Proof.reserveFrame
  intro v0 v1 v2
  refine kept_setFrame (hF.sub rfl) _ _ _ ?_
  with_reducible assumption
theorem kept_unreserve (hF : Sub 65536 F) : ∀ a0 a1, Kept F z a0 → (Kept F z) (Sys2Proof.unreserve a0 a1) := by
  unfold Sys2Proof.unreserve
  intro v0 v1 v2
  split
  · refine kept_setFrame (hF.sub rfl) _ _ _ ?_
    with_reducible assumption
  · with_reducible assumption
theorem kept_takeFrame (hF : Sub 65536 F) : ∀ a0 a1 a2 a3 a4 a5 a6 a7, Kept F z a0 → (OnSome (OnSnd (Kept F z))) (Sys2Proof.takeFrame a0 a1 a2 a3 a4 a5 a6 a7) := by
  unfold Sys2Proof.takeFrame
  intro v0 v1 v2 v3 v4 v5 v6 v7 v8
  extract_lets +onlyGivenNames l9_0
  clear_value l9_0
  split
  · exact opt_none
  · extract_lets +onlyGivenNames l12_0
    clear_value l12_0
    refine map_kept Always ?_ ?_
    · exact opt_triv _
    · intro v15 v16
      refine snd_mk ?_
      refine kept_reserveFrame (hF.sub rfl) _ _ ?_
      with_reducible assumption
theorem kept_dropFrame (hF : Sub 65536 F) : ∀ a0 a1, Kept F z a0 → (Kept F z) (Sys2Proof.dropFrame a0 a1) := by
  unfold Sys2Proof.dropFrame
  intro v0 v1 v2
  extract_lets +onlyGivenNames l3_0 l3_1
  clear_value l3_0 l3_1
  split
  · refine kept_setFrame (hF.sub rfl) _ _ _ ?_
    with_reducible assumption
  · split
    · refine kept_setFrame (hF.sub rfl) _ _ _ ?_
      with_reducible assumption
    · refine kept_setFrame (hF.sub rfl) _ _ _ ?_
      with_reducible assumption
theorem kept_pinFrame (hF : Sub 65536 F) : ∀ a0 a1, Kept F z a0 → (Kept F z) (Sys2Proof.pinFrame a0 a1) := by
  unfold Sys2Proof.pinFrame
  intro v0 v1 v2
  refine kept_setFrame (hF.sub rfl) _ _ _ ?_
  with_reducible assumption
theorem kept_unpinFrame (hF : Sub 65536 F) : ∀ a0 a1, Kept F z a0 → (Kept F z) (Sys2Proof.unpinFrame a0 a1) := by
  unfold Sys2Proof.unpinFrame
  intro v0 v1 v2
  extract_lets +onlyGivenNames l3_0
  clear_value l3_0
  split
  · refine kept_setFrame (hF.sub rfl) _ _ _ ?_
    with_reducible assumption
  · refine kept_setFrame (hF.sub rfl) _ _ _ ?_
    with_reducible assumption
theorem kept_sealFrame (hF : Sub 131488 F) : ∀ a0 a1 a2 a3 a4 a5, Kept F z a0 → (OnSnd (Kept F z)) (Sys2Proof.sealFrame a0 a1 a2 a3 a4 a5) := by
  unfold Sys2Proof.sealFrame
  intro v0 v1 v2 v3 v4 v5 v6
  split
  · extract_lets +onlyGivenNames l8_0 l8_1 l8_2
    clear_value l8_0 l8_1
    refine (fun (el8_2 : (Kept F z) l8_2) => ?_) ?_
    rotate_left
    · refine foldl_kept (P := (Kept F z)) ?_ ?_
      · with_reducible assumption
      · intro v11 v12 v13
        refine kept_writeHbm (hF.sub rfl) _ _ _ _ ?_
        with_reducible assumption
    clear_value l8_2
    refine snd_mk ?_
    refine kept_mk ?_
    with_reducible assumption
  · refine snd_mk ?_
    with_reducible assumption

/-! ### SnareOps -/

theorem kept_modBlock (hF : Sub 67108864 F) : ∀ a0 a1 a2, Kept F z a0 → (Kept F z) (Sys2Proof.modBlock a0 a1 a2) := by
  unfold Sys2Proof.modBlock
  intro v0 v1 v2 v3
  refine kept_mk ?_
  with_reducible assumption
theorem kept_setPlaces (hF : Sub 67108864 F) : ∀ a0 a1 a2 a3, Kept F z a0 → (Kept F z) (Sys2Proof.setPlaces a0 a1 a2 a3) := by
  unfold Sys2Proof.setPlaces
  intro v0 v1 v2 v3 v4
  refine kept_mk ?_
  with_reducible assumption
theorem kept_putPlace (hF : Sub 67109280 F) : ∀ a0 a1 a2 a3 a4, Kept F z a0 → (Kept F z) (Sys2Proof.putPlace a0 a1 a2 a3 a4) := by
  unfold Sys2Proof.putPlace
  intro v0 v1 v2 v3 v4 v5
  split
  · refine kept_writeHbm (hF.sub rfl) _ _ _ _ ?_
    refine kept_setPlaces (hF.sub rfl) _ _ _ _ ?_
    with_reducible assumption
  · with_reducible assumption
theorem kept_dropPlace (hF : Sub 67109280 F) : ∀ a0 a1 a2, Kept F z a0 → (Kept F z) (Sys2Proof.dropPlace a0 a1 a2) := by
  unfold Sys2Proof.dropPlace
  intro v0 v1 v2 v3
  split
  · refine kept_writeHbm (hF.sub rfl) _ _ _ _ ?_
    refine kept_setPlaces (hF.sub rfl) _ _ _ _ ?_
    with_reducible assumption
  · with_reducible assumption
theorem kept_extPut (hF : Sub 67109280 F) : ∀ a0 a1 a2, Kept F z a0 → (Kept F z) (Sys2Proof.extPut a0 a1 a2) := by
  unfold Sys2Proof.extPut
  intro v0 v1 v2 v3
  extract_lets +onlyGivenNames l4_0 l4_1
  clear_value l4_0 l4_1
  split
  · refine kept_putPlace (hF.sub rfl) _ _ _ _ _ ?_
    with_reducible assumption
  · refine kept_putPlace (hF.sub rfl) _ _ _ _ _ ?_
    with_reducible assumption
  · refine kept_putPlace (hF.sub rfl) _ _ _ _ _ ?_
    with_reducible assumption
  · with_reducible assumption
theorem kept_writeEntry (hF : Sub 67108864 F) : ∀ a0 a1 a2, Kept F z a0 → (Kept F z) (Sys2Proof.writeEntry a0 a1 a2) := by
  unfold Sys2Proof.writeEntry
  intro v0 v1 v2 v3
  refine kept_modBlock (hF.sub rfl) _ _ _ ?_
  with_reducible assumption
theorem kept_moveIn (hF : Sub 67108864 F) : ∀ a0 a1 a2, Kept F z a0 → (Kept F z) (Sys2Proof.moveIn a0 a1 a2) := by
  unfold Sys2Proof.moveIn
  intro v0 v1 v2 v3
  refine kept_modBlock (hF.sub rfl) _ _ _ ?_
  with_reducible assumption
theorem kept_passOn (hF : Sub 67108864 F) : ∀ a0 a1 a2 a3 a4, (∀ x0, (Kept F z) (x0) → (∀ x1, (∀ x2, (Kept F z) (a1 x0 x1 x2)))) → Kept F z a3 → (Kept F z) (Sys2Proof.passOn a0 a1 a2 a3 a4) := by
  intro a0 a1 a2
  induction a2 generalizing a1 with
  | nil => intro a3 a4 hp h; exact h
  | cons b r ih =>
    intro a3 a4 hp h
    have hm : ∀ s, Kept F z s → ∀ x e, Kept F z (moveIn s x e) := fun s k x e => kept_moveIn (hF.sub rfl) _ _ _ k
    unfold passOn
    split
    · exact hp _ h _ _
    · extract_lets +onlyGivenNames far
      clear_value far
      split
      · exact hp _ h _ _
      · exact ite_kept (ih _ _ _ hp h) (ih _ _ _ hm (hp _ (kept_modBlock (hF.sub rfl) _ _ _ h) _ _))
theorem kept_insertNew (hF : Sub 67109280 F) : ∀ a0 a1 a2, Kept F z a0 → (OnFst (Kept F z)) (Sys2Proof.insertNew a0 a1 a2) := by
  unfold Sys2Proof.insertNew
  intro v0 v1 v2 v3
  split
  · refine fst_mk ?_
    with_reducible assumption
  · split
    · refine fst_mk ?_
      refine kept_writeEntry (hF.sub rfl) _ _ _ ?_
      with_reducible assumption
    · extract_lets +onlyGivenNames l11_0 l11_1 l11_2
      clear_value l11_0 l11_1 l11_2
      split
      · refine fst_mk ?_
        refine kept_passOn (hF.sub rfl) _ _ _ _ _ ?_ ?_
        · intro v15 v16 v17 v18
          refine kept_writeEntry (hF.sub rfl) _ _ _ ?_
          with_reducible assumption
        · with_reducible assumption
      · refine fst_mk ?_
        refine kept_passOn (hF.sub rfl) _ _ _ _ _ ?_ ?_
        · intro v24 v25 v26 v27
          refine kept_writeEntry (hF.sub rfl) _ _ _ ?_
          with_reducible assumption
        · with_reducible assumption
      · refine fst_mk ?_
        refine kept_passOn (hF.sub rfl) _ _ _ _ _ ?_ ?_
        · intro v33 v34 v35 v36
          refine kept_writeEntry (hF.sub rfl) _ _ _ ?_
          with_reducible assumption
        · with_reducible assumption
      · split
        · refine fst_mk ?_
          with_reducible assumption
        · extract_lets +onlyGivenNames l43_0
          refine (fun (el43_0 : (Kept F z) l43_0) => ?_) ?_
          rotate_left
          · refine kept_modBlock (hF.sub rfl) _ _ _ ?_
            with_reducible assumption
          clear_value l43_0
          split
          · refine fst_mk ?_
            refine kept_writeEntry (hF.sub rfl) _ _ _ ?_
            refine kept_extPut (hF.sub rfl) _ _ _ ?_
            with_reducible assumption
          · refine fst_mk ?_
            refine kept_writeEntry (hF.sub rfl) _ _ _ ?_
            with_reducible assumption
theorem kept_indexInsert (hF : Sub 67109280 F) : ∀ a0 a1 a2 a3 a4 a5, Kept F z a0 → (OnFst (Kept F z)) (Sys2Proof.indexInsert a0 a1 a2 a3 a4 a5) := by
  unfold Sys2Proof.indexInsert
  intro v0 v1 v2 v3 v4 v5 v6
  extract_lets +onlyGivenNames l7_0
  clear_value l7_0
  split
  · refine fst_mk ?_
    refine kept_modBlock (hF.sub rfl) _ _ _ ?_
    with_reducible assumption
  · split
    · refine kept_insertNew (hF.sub rfl) _ _ _ ?_
      refine kept_dropPlace (hF.sub rfl) _ _ _ ?_
      with_reducible assumption
    · refine fst_mk ?_
      refine kept_putPlace (hF.sub rfl) _ _ _ _ _ ?_
      with_reducible assumption
  · refine kept_insertNew (hF.sub rfl) _ _ _ ?_
    with_reducible assumption
theorem kept_indexRemove (hF : Sub 67109280 F) : ∀ a0 a1 a2, Kept F z a0 → (OnFst (Kept F z)) (Sys2Proof.indexRemove a0 a1 a2) := by
  unfold Sys2Proof.indexRemove
  intro v0 v1 v2 v3
  split
  · refine fst_mk ?_
    refine kept_modBlock (hF.sub rfl) _ _ _ ?_
    with_reducible assumption
  · refine fst_mk ?_
    refine kept_dropPlace (hF.sub rfl) _ _ _ ?_
    with_reducible assumption
theorem kept_indexHit (hF : Sub 67109280 F) : ∀ a0 a1 a2, Kept F z a0 → (Kept F z) (Sys2Proof.indexHit a0 a1 a2) := by
  unfold Sys2Proof.indexHit
  intro v0 v1 v2 v3
  split
  · refine kept_modBlock (hF.sub rfl) _ _ _ ?_
    with_reducible assumption
  · refine kept_putPlace (hF.sub rfl) _ _ _ _ _ ?_
    with_reducible assumption
  · with_reducible assumption
theorem kept_indexPromote (hF : Sub 67109280 F) : ∀ a0 a1 a2, Kept F z a0 → (Kept F z) (Sys2Proof.indexPromote a0 a1 a2) := by
  unfold Sys2Proof.indexPromote
  intro v0 v1 v2 v3
  split
  · refine fst_of (P := (Kept F z)) ?_
    refine kept_insertNew (hF.sub rfl) _ _ _ ?_
    refine kept_dropPlace (hF.sub rfl) _ _ _ ?_
    with_reducible assumption
  · with_reducible assumption
theorem kept_ageExtension (hF : Sub 67109280 F) : ∀ a0, Kept F z a0 → (Kept F z) (Sys2Proof.ageExtension a0) := by
  unfold Sys2Proof.ageExtension
  intro v0 v1
  refine foldl_kept (P := (Kept F z)) ?_ ?_
  · with_reducible assumption
  · intro v4 v5 v6
    refine foldl_kept (P := (Kept F z)) ?_ ?_
    · with_reducible assumption
    · intro v9 v10 v11
      refine kept_putPlace (hF.sub rfl) _ _ _ _ _ ?_
      with_reducible assumption
theorem kept_dropExtension (hF : Sub 67108864 F) : ∀ a0 a1, Kept F z a0 → (Kept F z) (Sys2Proof.dropExtension a0 a1) := by
  unfold Sys2Proof.dropExtension
  intro v0 v1 v2
  refine kept_mk ?_
  with_reducible assumption

/-! ### Numerics -/

theorem kept_drawCodes (hF : Sub 4 F) : ∀ a0 a1, Kept F z a1 → (OnSnd (Kept F z)) (Sys2Proof.drawCodes a0 a1) := by
  unfold Sys2Proof.drawCodes
  intro v0 v1 v2
  refine snd_mk ?_
  refine kept_mk ?_
  with_reducible assumption
theorem kept_overflowed (hF : Sub 4 F) : ∀ a0 a1, Kept F z a1 → (OnSnd (Kept F z)) (Sys2Proof.overflowed a0 a1) := by
  intro a0
  induction a0 with
  | nil => intro a1 h; exact h
  | cons c r ih =>
    intro a1 h
    unfold overflowed
    extract_lets +onlyGivenNames l0_0
    clear_value l0_0
    split
    split
    refine snd_mk ?_
    refine snd_eq (by assumption) (?_ : OnSnd (Kept F z) (Sys2Proof.overflowed _ _))
    refine ih _ ?_
    refine snd_eq (by assumption) (?_ : OnSnd (Kept F z) _)
    split
    · refine kept_draw (hF.sub rfl) _ ?_
      with_reducible assumption
    · refine snd_mk ?_
      with_reducible assumption
theorem kept_attnPartial (hF : Sub 4 F) : ∀ a0 a1 a2 a3 a4, Kept F z a4 → (OnSnd (Kept F z)) (Sys2Proof.attnPartial a0 a1 a2 a3 a4) := by
  unfold Sys2Proof.attnPartial
  intro v0 v1 v2 v3 v4 v5
  split
  extract_lets +onlyGivenNames l7_0 l7_1
  clear_value l7_0 l7_1
  split
  · refine snd_mk ?_
    refine snd_eq (by assumption) (?_ : OnSnd (Kept F z) (Sys2Proof.overflowed _ _))
    refine kept_overflowed (hF.sub rfl) _ _ ?_
    with_reducible assumption
  · split
    split
    · refine snd_mk ?_
      refine snd_eq (by assumption) (?_ : OnSnd (Kept F z) (Sys2Proof.drawCodes _ _))
      refine kept_drawCodes (hF.sub rfl) _ _ ?_
      refine snd_eq (by assumption) (?_ : OnSnd (Kept F z) (Sys2Proof.overflowed _ _))
      refine kept_overflowed (hF.sub rfl) _ _ ?_
      with_reducible assumption
    · extract_lets +onlyGivenNames l21_0
      clear_value l21_0
      refine snd_mk ?_
      refine snd_eq (by assumption) (?_ : OnSnd (Kept F z) (Sys2Proof.drawCodes _ _))
      refine kept_drawCodes (hF.sub rfl) _ _ ?_
      refine snd_eq (by assumption) (?_ : OnSnd (Kept F z) (Sys2Proof.overflowed _ _))
      refine kept_overflowed (hF.sub rfl) _ _ ?_
      with_reducible assumption
theorem kept_mergePartials (hF : Sub 4 F) : ∀ a0 a1 a2 a3, Kept F z a3 → (OnSnd (Kept F z)) (Sys2Proof.mergePartials a0 a1 a2 a3) := by
  unfold Sys2Proof.mergePartials
  intro v0 v1 v2 v3 v4
  extract_lets +onlyGivenNames l5_0
  clear_value l5_0
  split
  · refine snd_mk ?_
    with_reducible assumption
  · refine snd_mk ?_
    with_reducible assumption
  · extract_lets +onlyGivenNames l11_0 l11_1
    clear_value l11_0 l11_1
    split
    extract_lets +onlyGivenNames l13_0
    clear_value l13_0
    split
    split
    · refine snd_mk ?_
      refine snd_eq (by assumption) (?_ : OnSnd (Kept F z) (Sys2Proof.drawCodes _ _))
      refine kept_drawCodes (hF.sub rfl) _ _ ?_
      refine snd_eq (by assumption) (?_ : OnSnd (Kept F z) _)
      split
      · refine kept_draw (hF.sub rfl) _ ?_
        with_reducible assumption
      · refine snd_mk ?_
        with_reducible assumption
    · split
      · refine snd_mk ?_
        refine snd_eq (by assumption) (?_ : OnSnd (Kept F z) (Sys2Proof.drawCodes _ _))
        refine kept_drawCodes (hF.sub rfl) _ _ ?_
        refine snd_eq (by assumption) (?_ : OnSnd (Kept F z) _)
        split
        · refine kept_draw (hF.sub rfl) _ ?_
          with_reducible assumption
        · refine snd_mk ?_
          with_reducible assumption
      · split
        refine snd_mk ?_
        refine snd_eq (by assumption) (?_ : OnSnd (Kept F z) (Sys2Proof.drawCodes _ _))
        refine kept_drawCodes (hF.sub rfl) _ _ ?_
        refine snd_eq (by assumption) (?_ : OnSnd (Kept F z) _)
        split
        · refine kept_draw (hF.sub rfl) _ ?_
          with_reducible assumption
        · refine snd_mk ?_
          with_reducible assumption

/-! ### Partials -/

theorem kept_freeNans (hF : Sub 4 F) : ∀ a0 a1 a2, Kept F z a2 → (OnSnd (Kept F z)) (Sys2Proof.freeNans a0 a1 a2) := by
  intro a0 a1
  induction a1 with
  | nil => intro a2 h; exact h
  | cons c r ih =>
    intro a2 h
    unfold freeNans
    extract_lets +onlyGivenNames l0_0
    clear_value l0_0
    split
    split
    extract_lets +onlyGivenNames l3_0
    clear_value l3_0
    refine snd_mk ?_
    refine snd_eq (by assumption) (?_ : OnSnd (Kept F z) (Sys2Proof.freeNans _ _ _))
    refine ih _ ?_
    refine snd_eq (by assumption) (?_ : OnSnd (Kept F z) _)
    split
    · refine kept_draw (hF.sub rfl) _ ?_
      with_reducible assumption
    · refine snd_mk ?_
      with_reducible assumption
theorem kept_outElems (hF : Sub 4 F) : ∀ a0 a1 a2 a3, Kept F z a3 → (OnSnd (Kept F z)) (Sys2Proof.outElems a0 a1 a2 a3) := by
  unfold Sys2Proof.outElems
  intro v0 v1 v2 v3 v4
  split
  split
  · split
    refine snd_mk ?_
    refine snd_eq (by assumption) (?_ : OnSnd (Kept F z) (Sys2Proof.freeNans _ _ _))
    refine kept_freeNans (hF.sub rfl) _ _ _ ?_
    refine snd_eq (by assumption) (?_ : OnSnd (Kept F z) _)
    split
    · refine kept_freeNans (hF.sub rfl) _ _ _ ?_
      with_reducible assumption
    · refine snd_mk ?_
      with_reducible assumption
  · refine snd_mk ?_
    refine snd_eq (by assumption) (?_ : OnSnd (Kept F z) _)
    split
    · refine kept_freeNans (hF.sub rfl) _ _ _ ?_
      with_reducible assumption
    · refine snd_mk ?_
      with_reducible assumption
theorem kept_partialOut (hF : Sub 4 F) : ∀ a0 a1 a2 a3, Kept F z a3 → (OnSnd (Kept F z)) (Sys2Proof.partialOut a0 a1 a2 a3) := by
  unfold Sys2Proof.partialOut
  intro v0 v1 v2 v3 v4
  split
  refine snd_mk ?_
  refine snd_eq (by assumption) (?_ : OnSnd (Kept F z) (Sys2Proof.outElems _ _ _ _))
  refine kept_outElems (hF.sub rfl) _ _ _ _ ?_
  with_reducible assumption
theorem kept_mergeVector (hF : Sub 4 F) : ∀ a0 a1 a2 a3 a4, Kept F z a4 → (OnSnd (Kept F z)) (Sys2Proof.mergeVector a0 a1 a2 a3 a4) := by
  unfold Sys2Proof.mergeVector
  intro v0 v1 v2 v3 v4 v5
  split
  refine kept_partialOut (hF.sub rfl) _ _ _ _ ?_
  refine snd_eq (by assumption) (?_ : OnSnd (Kept F z) (Sys2Proof.mergePartials _ _ _ _))
  refine kept_mergePartials (hF.sub rfl) _ _ _ _ ?_
  with_reducible assumption
theorem kept_mergeVectors (hF : Sub 4 F) : ∀ a0 a1 a2 a3 a4, Kept F z a4 → (OnSnd (Kept F z)) (Sys2Proof.mergeVectors a0 a1 a2 a3 a4) := by
  intro a0 a1 a2 a3
  induction a3 with
  | nil => intro a4 h; exact h
  | cons c r ih =>
    intro a4 h
    unfold mergeVectors
    split
    split
    refine snd_mk ?_
    refine snd_eq (by assumption) (?_ : OnSnd (Kept F z) (Sys2Proof.mergeVectors _ _ _ _ _))
    refine ih _ ?_
    refine snd_eq (by assumption) (?_ : OnSnd (Kept F z) (Sys2Proof.mergeVector _ _ _ _ _))
    refine kept_mergeVector (hF.sub rfl) _ _ _ _ _ ?_
    with_reducible assumption

/-! ### Events -/

theorem kept_writeRecord (hF : Sub 2064 F) : ∀ a0 a1 a2 a3, Kept F z a0 → (Kept F z) (Sys2Proof.writeRecord a0 a1 a2 a3) := by
  unfold Sys2Proof.writeRecord
  intro v0 v1 v2 v3 v4
  extract_lets +onlyGivenNames l5_0 l5_1 l5_2 l5_3 l5_4 l5_5
  clear_value l5_0 l5_1 l5_2 l5_3 l5_4
  refine (fun (el5_5 : (Kept F z) l5_5) => ?_) ?_
  rotate_left
  · refine kept_modRing (hF.sub rfl) _ _ _ _ ?_
    with_reducible assumption
  clear_value l5_5
  split
  · extract_lets +onlyGivenNames l9_0
    clear_value l9_0
    refine kept_mk ?_
    with_reducible assumption
  · refine kept_mk ?_
    with_reducible assumption
theorem kept_sendMsix (hF : Sub 2056 F) : ∀ a0 a1 a2, Kept F z a0 → (Kept F z) (Sys2Proof.sendMsix a0 a1 a2) := by
  unfold Sys2Proof.sendMsix
  intro v0 v1 v2 v3
  extract_lets +onlyGivenNames l4_0
  clear_value l4_0
  split
  · with_reducible assumption
  · split
    · refine kept_modOwner (hF.sub rfl) _ _ _ ?_
      with_reducible assumption
    · refine kept_emit (hF.sub rfl) _ _ ?_
      with_reducible assumption
theorem kept_sendPending (hF : Sub 2056 F) : ∀ a0 a1 a2, Kept F z a0 → (Kept F z) (Sys2Proof.sendPending a0 a1 a2) := by
  unfold Sys2Proof.sendPending
  intro v0 v1 v2 v3
  extract_lets +onlyGivenNames l4_0
  clear_value l4_0
  split
  · refine kept_emit (hF.sub rfl) _ _ ?_
    refine kept_modOwner (hF.sub rfl) _ _ _ ?_
    with_reducible assumption
  · with_reducible assumption
theorem kept_wakeRing (hF : Sub 2056 F) : ∀ a0 a1 a2, Kept F z a0 → (Kept F z) (Sys2Proof.wakeRing a0 a1 a2) := by
  unfold Sys2Proof.wakeRing
  intro v0 v1 v2 v3
  extract_lets +onlyGivenNames l4_0
  clear_value l4_0
  split
  · refine kept_modRing (hF.sub rfl) _ _ _ _ ?_
    with_reducible assumption
  · refine kept_sendMsix (hF.sub rfl) _ _ _ ?_
    refine kept_modRing (hF.sub rfl) _ _ _ _ ?_
    with_reducible assumption
theorem kept_loseEvent (hF : Sub 2056 F) : ∀ a0 a1 a2 a3, Kept F z a0 → (Kept F z) (Sys2Proof.loseEvent a0 a1 a2 a3) := by
  unfold Sys2Proof.loseEvent
  intro v0 v1 v2 v3 v4
  extract_lets +onlyGivenNames l5_0
  refine (fun (el5_0 : (Kept F z) l5_0) => ?_) ?_
  rotate_left
  · refine kept_modRing (hF.sub rfl) _ _ _ _ ?_
    with_reducible assumption
  clear_value l5_0
  split
  · refine kept_wakeRing (hF.sub rfl) _ _ _ ?_
    with_reducible assumption
  · with_reducible assumption
theorem kept_chimeRecord (hF : Sub 2072 F) : ∀ a0 a1 a2 a3 a4, Kept F z a0 → (Kept F z) (Sys2Proof.chimeRecord a0 a1 a2 a3 a4) := by
  unfold Sys2Proof.chimeRecord
  intro v0 v1 v2 v3 v4 v5
  extract_lets +onlyGivenNames l6_0
  clear_value l6_0
  split
  · refine kept_loseEvent (hF.sub rfl) _ _ _ _ ?_
    with_reducible assumption
  · extract_lets +onlyGivenNames l10_0 l10_1 l10_2
    clear_value l10_0
    refine (fun (el10_1 : (Kept F z) l10_1) => ?_) ?_
    rotate_left
    · refine kept_writeRecord (hF.sub rfl) _ _ _ _ ?_
      with_reducible assumption
    clear_value l10_1
    refine (fun (el10_2 : (Kept F z) l10_2) => ?_) ?_
    rotate_left
    · refine kept_modRing (hF.sub rfl) _ _ _ _ ?_
      with_reducible assumption
    clear_value l10_2
    split
    · refine kept_wakeRing (hF.sub rfl) _ _ _ ?_
      with_reducible assumption
    · with_reducible assumption
theorem kept_routeEvent (hF : Sub 2072 F) : ∀ a0 a1 a2 a3, Kept F z a0 → (Kept F z) (Sys2Proof.routeEvent a0 a1 a2 a3) := by
  unfold Sys2Proof.routeEvent
  intro v0 v1 v2 v3 v4
  split
  · refine kept_count (hF.sub rfl) _ _ _ _ ?_
    with_reducible assumption
  · extract_lets +onlyGivenNames l8_0
    clear_value l8_0
    split
    · refine kept_chimeRecord (hF.sub rfl) _ _ _ _ _ ?_
      with_reducible assumption
    · split
      · refine kept_loseEvent (hF.sub rfl) _ _ _ _ ?_
        with_reducible assumption
      · refine kept_modRing (hF.sub rfl) _ _ _ _ ?_
        with_reducible assumption
theorem kept_postEvent (hF : Sub 2072 F) : ∀ a0 a1 a2 a3 a4 a5 a6 a7 a8, Kept F z a0 → (Kept F z) (Sys2Proof.postEvent a0 a1 a2 a3 a4 a5 a6 a7 a8) := by
  unfold Sys2Proof.postEvent
  intro v0 v1 v2 v3 v4 v5 v6 v7 v8 v9
  extract_lets +onlyGivenNames l10_0 l10_1
  clear_value l10_0
  refine (fun (el10_1 : (Kept F z) l10_1) => ?_) ?_
  rotate_left
  · dsimp -zeta only [l10_1]
    split
    · extract_lets +onlyGivenNames l13_0
      refine (fun (el13_0 : (Kept F z) l13_0) => ?_) ?_
      rotate_left
      · refine kept_modRing (hF.sub rfl) _ _ _ _ ?_
        with_reducible assumption
      clear_value l13_0
      refine kept_routeEvent (hF.sub rfl) _ _ _ _ ?_
      with_reducible assumption
    · with_reducible assumption
  clear_value l10_1
  refine kept_routeEvent (hF.sub rfl) _ _ _ _ ?_
  with_reducible assumption
theorem kept_postFm (hF : Sub 2072 F) : ∀ a0 a1 a2 a3 a4 a5 a6, Kept F z a0 → (Kept F z) (Sys2Proof.postFm a0 a1 a2 a3 a4 a5 a6) := by
  unfold Sys2Proof.postFm
  intro v0 v1 v2 v3 v4 v5 v6 v7
  refine kept_postEvent (hF.sub rfl) _ _ _ _ _ _ _ _ _ ?_
  with_reducible assumption
theorem kept_cdatRebuild (hF : Sub 1073743896 F) : ∀ a0 a1 a2 a3, Kept F z a0 → (Kept F z) (Sys2Proof.cdatRebuild a0 a1 a2 a3) := by
  unfold Sys2Proof.cdatRebuild
  intro v0 v1 v2 v3 v4
  refine kept_postEvent (hF.sub rfl) _ _ _ _ _ _ _ _ _ ?_
  refine kept_modLd (hF.sub rfl) _ _ _ ?_
  with_reducible assumption
theorem kept_settleResults (hF : Sub 4 F) : ∀ a0 a1, Kept F z a0 → (OnFst (Kept F z)) (Sys2Proof.settleResults a0 a1) := by
  unfold Sys2Proof.settleResults
  intro v0 v1 v2
  split
  split
  refine fst_mk ?_
  refine snd_eq (by assumption) (?_ : OnSnd (Kept F z) (Sys2Proof.orFree _ _ _))
  refine kept_orFree (hF.sub rfl) _ _ _ ?_
  refine snd_eq (by assumption) (?_ : OnSnd (Kept F z) (Sys2Proof.orFree _ _ _))
  refine kept_orFree (hF.sub rfl) _ _ _ ?_
  with_reducible assumption
theorem kept_ringError (hF : Sub 2072 F) : ∀ a0 a1 a2 a3, Kept F z a0 → (Kept F z) (Sys2Proof.ringError a0 a1 a2 a3) := by
  unfold Sys2Proof.ringError
  intro v0 v1 v2 v3 v4
  extract_lets +onlyGivenNames l5_0 l5_1
  clear_value l5_0
  refine (fun (el5_1 : (Kept F z) l5_1) => ?_) ?_
  rotate_left
  · refine kept_modRing (hF.sub rfl) _ _ _ _ ?_
    with_reducible assumption
  clear_value l5_1
  refine kept_postEvent (hF.sub rfl) _ _ _ _ _ _ _ _ _ ?_
  with_reducible assumption
theorem kept_complete (hF : Sub 2072 F) : ∀ a0 a1, Kept F z a0 → (Kept F z) (Sys2Proof.complete a0 a1) := by
  unfold Sys2Proof.complete
  intro v0 v1 v2
  split
  · with_reducible assumption
  · extract_lets +onlyGivenNames l5_0 l5_1 l5_2 l5_3
    clear_value l5_0 l5_1
    refine (fun (el5_2 : (Kept F z) l5_2) => ?_) ?_
    rotate_left
    · refine kept_modRing (hF.sub rfl) _ _ _ _ ?_
      with_reducible assumption
    clear_value l5_2
    refine (fun (el5_3 : (Kept F z) l5_3) => ?_) ?_
    rotate_left
    · dsimp -zeta only [l5_3]
      split
      · refine kept_modRing (hF.sub rfl) _ _ _ _ ?_
        refine kept_modRing (hF.sub rfl) _ _ _ _ ?_
        with_reducible assumption
      · split
        · refine kept_ringError (hF.sub rfl) _ _ _ _ ?_
          with_reducible assumption
        · refine kept_modRing (hF.sub rfl) _ _ _ _ ?_
          refine kept_writeRecord (hF.sub rfl) _ _ _ _ ?_
          with_reducible assumption
    clear_value l5_3
    split
    · refine kept_postEvent (hF.sub rfl) _ _ _ _ _ _ _ _ _ ?_
      with_reducible assumption
    · with_reducible assumption

/-! ### Effects -/

theorem kept_putSeqRec (hF : Sub 4100 F) : ∀ a0 a1 a2 a3, Kept F z a0 → (Kept F z) (Sys2Proof.putSeqRec a0 a1 a2 a3) := by
  unfold Sys2Proof.putSeqRec
  intro v0 v1 v2 v3 v4
  extract_lets +onlyGivenNames l5_0
  clear_value l5_0
  split
  · refine kept_modPart (hF.sub rfl) _ _ _ ?_
    with_reducible assumption
  · split
    refine kept_modPart (hF.sub rfl) _ _ _ ?_
    refine snd_eq (by assumption) (?_ : OnSnd (Kept F z) (Sys2Proof.draw _))
    refine kept_draw (hF.sub rfl) _ ?_
    with_reducible assumption
theorem kept_freeHead (hF : Sub 4096 F) : ∀ a0 a1 a2, Kept F z a0 → (Kept F z) (Sys2Proof.freeHead a0 a1 a2) := by
  unfold Sys2Proof.freeHead
  intro v0 v1 v2 v3
  extract_lets +onlyGivenNames l4_0
  refine (fun (el4_0 : (Kept F z) l4_0) => ?_) ?_
  rotate_left
  · dsimp -zeta only [l4_0]
    split
    · refine kept_freeBlocks (hF.sub rfl) _ _ _ ?_
      with_reducible assumption
    · with_reducible assumption
  clear_value l4_0
  refine foldl_kept (P := (Kept F z)) ?_ ?_
  · with_reducible assumption
  · intro v12 v13 v14
    refine kept_freeBlocks (hF.sub rfl) _ _ _ ?_
    with_reducible assumption
theorem kept_freeSpillSlot (hF : Sub 2147483648 F) : ∀ a0 a1 a2, Kept F z a0 → (Kept F z) (Sys2Proof.freeSpillSlot a0 a1 a2) := by
  unfold Sys2Proof.freeSpillSlot
  intro v0 v1 v2 v3
  refine kept_modFlash (hF.sub rfl) _ _ _ ?_
  with_reducible assumption
theorem kept_dropEntry (hF : Sub 2147549184 F) : ∀ a0 a1 a2, Kept F z a0 → (Kept F z) (Sys2Proof.dropEntry a0 a1 a2) := by
  unfold Sys2Proof.dropEntry
  intro v0 v1 v2 v3
  split
  · refine kept_dropFrame (hF.sub rfl) _ _ ?_
    with_reducible assumption
  · refine kept_freeSpillSlot (hF.sub rfl) _ _ _ ?_
    with_reducible assumption
theorem kept_freeTables (hF : Sub 4096 F) : ∀ a0 a1, Kept F z a0 → (Kept F z) (Sys2Proof.freeTables a0 a1) := by
  unfold Sys2Proof.freeTables
  intro v0 v1 v2
  extract_lets +onlyGivenNames l3_0
  clear_value l3_0
  split
  · extract_lets +onlyGivenNames l5_0
    refine (fun (el5_0 : (Kept F z) l5_0) => ?_) ?_
    rotate_left
    · refine foldl_kept (P := (Kept F z)) ?_ ?_
      · with_reducible assumption
      · intro v8 v9 v10
        refine kept_freeBlocks (hF.sub rfl) _ _ _ ?_
        with_reducible assumption
    clear_value l5_0
    refine kept_modPart (hF.sub rfl) _ _ _ ?_
    with_reducible assumption
  · with_reducible assumption
theorem kept_removeSeq (hF : Sub 2147553280 F) : ∀ a0 a1 a2, Kept F z a0 → (Kept F z) (Sys2Proof.removeSeq a0 a1 a2) := by
  unfold Sys2Proof.removeSeq
  intro v0 v1 v2 v3
  split
  · with_reducible assumption
  · extract_lets +onlyGivenNames l6_0 l6_1
    refine (fun (el6_0 : (Kept F z) l6_0) => ?_) ?_
    rotate_left
    · refine foldl_kept (P := (Kept F z)) ?_ ?_
      · with_reducible assumption
      · intro v9 v10 v11
        refine kept_freeHead (hF.sub rfl) _ _ _ ?_
        refine foldl_kept (P := (Kept F z)) ?_ ?_
        · with_reducible assumption
        · intro v15 v16 v17
          refine kept_dropEntry (hF.sub rfl) _ _ _ ?_
          with_reducible assumption
    clear_value l6_0
    refine (fun (el6_1 : (Kept F z) l6_1) => ?_) ?_
    rotate_left
    · refine kept_freeBlocks (hF.sub rfl) _ _ _ ?_
      with_reducible assumption
    clear_value l6_1
    refine kept_freeTables (hF.sub rfl) _ _ ?_
    refine kept_modPart (hF.sub rfl) _ _ _ ?_
    with_reducible assumption
theorem kept_fencedCheck (hF : Sub 131072 F) : ∀ a0 a1 a2 a3 a4, Kept F z a0 → (OnSnd (Kept F z)) (Sys2Proof.fencedCheck a0 a1 a2 a3 a4) := by
  unfold Sys2Proof.fencedCheck
  intro v0 v1 v2 v3 v4 v5
  split
  · extract_lets +onlyGivenNames l7_0 l7_1
    clear_value l7_0 l7_1
    refine snd_mk ?_
    refine kept_mk ?_
    with_reducible assumption
  · refine snd_mk ?_
    with_reducible assumption
theorem kept_fillFrame (hF : Sub 197024 F) : ∀ a0 a1 a2 a3 a4 a5 a6 a7 a8, Kept F z a0 → (Kept F z) (Sys2Proof.fillFrame a0 a1 a2 a3 a4 a5 a6 a7 a8) := by
  unfold Sys2Proof.fillFrame
  intro v0 v1 v2 v3 v4 v5 v6 v7 v8 v9
  extract_lets +onlyGivenNames l10_0 l10_1
  clear_value l10_0 l10_1
  split
  · split
    · split
      refine kept_setFrame (hF.sub rfl) _ _ _ ?_
      refine snd_eq (by assumption) (?_ : OnSnd (Kept F z) (Sys2Proof.fencedCheck _ _ _ _ _))
      refine kept_fencedCheck (hF.sub rfl) _ _ _ _ _ ?_
      with_reducible assumption
    · refine kept_setFrame (hF.sub rfl) _ _ _ ?_
      with_reducible assumption
  · split
    · split
      refine kept_setFrame (hF.sub rfl) _ _ _ ?_
      refine snd_eq (by assumption) (?_ : OnSnd (Kept F z) (Sys2Proof.sealFrame _ _ _ _ _ _))
      refine kept_sealFrame (hF.sub rfl) _ _ _ _ _ _ ?_
      with_reducible assumption
    · extract_lets +onlyGivenNames l26_0
      refine (fun (el26_0 : (Kept F z) l26_0) => ?_) ?_
      rotate_left
      · refine kept_setFrame (hF.sub rfl) _ _ _ ?_
        with_reducible assumption
      clear_value l26_0
      split
      · refine kept_mk ?_
        with_reducible assumption
      · with_reducible assumption
theorem kept_restoreBytes (hF : Sub 416 F) : ∀ a0 a1 a2 a3, Kept F z a0 → (Kept F z) (Sys2Proof.restoreBytes a0 a1 a2 a3) := by
  unfold Sys2Proof.restoreBytes
  intro v0 v1 v2 v3 v4
  extract_lets +onlyGivenNames l5_0
  clear_value l5_0
  split
  · extract_lets +onlyGivenNames l7_0
    clear_value l7_0
    refine foldl_kept (P := (Kept F z)) ?_ ?_
    · with_reducible assumption
    · intro v10 v11 v12
      refine kept_writeHbm (hF.sub rfl) _ _ _ _ ?_
      with_reducible assumption
  · refine kept_writeHbm (hF.sub rfl) _ _ _ _ ?_
    with_reducible assumption
theorem kept_restoreFrame (hF : Sub 197024 F) : ∀ a0 a1 a2 a3, Kept F z a0 → (Kept F z) (Sys2Proof.restoreFrame a0 a1 a2 a3) := by
  unfold Sys2Proof.restoreFrame
  intro v0 v1 v2 v3 v4
  extract_lets +onlyGivenNames l5_0 l5_1 l5_2
  refine (fun (el5_0 : (Kept F z) l5_0) => ?_) ?_
  rotate_left
  · dsimp -zeta only [l5_0]
    split
    · with_reducible assumption
    · refine kept_restoreBytes (hF.sub rfl) _ _ _ _ ?_
      with_reducible assumption
  clear_value l5_0
  refine (fun (el5_1 : (Kept F z) l5_1) => ?_) ?_
  rotate_left
  · dsimp -zeta only [l5_1]
    split
    · refine kept_mk ?_
      with_reducible assumption
    · with_reducible assumption
  clear_value l5_1 l5_2
  refine kept_setFrame (hF.sub rfl) _ _ _ ?_
  with_reducible assumption
theorem kept_writeBefore (hF : Sub 416 F) : ∀ a0 a1, Kept F z a0 → (Kept F z) (Sys2Proof.writeBefore a0 a1) := by
  unfold Sys2Proof.writeBefore
  intro v0 v1 v2
  refine foldl_kept (P := (Kept F z)) ?_ ?_
  · with_reducible assumption
  · intro v5 v6 v7
    refine foldl_kept (P := (Kept F z)) ?_ ?_
    · with_reducible assumption
    · intro v10 v11 v12
      split
      · split
        · refine kept_writeHbm (hF.sub rfl) _ _ _ _ ?_
          with_reducible assumption
        · with_reducible assumption
      · split
        · refine kept_restoreBytes (hF.sub rfl) _ _ _ _ ?_
          with_reducible assumption
        · with_reducible assumption
      · with_reducible assumption
theorem kept_modDrive (hF : Sub 2147483648 F) : ∀ a0 a1 a2, Kept F z a0 → (Kept F z) (Sys2Proof.modDrive a0 a1 a2) := by
  unfold Sys2Proof.modDrive
  intro v0 v1 v2 v3
  refine kept_mk ?_
  with_reducible assumption
theorem kept_modJournal (hF : Sub 8589934592 F) : ∀ a0 a1, Kept F z a0 → (Kept F z) (Sys2Proof.modJournal a0 a1) := by
  unfold Sys2Proof.modJournal
  intro v0 v1 v2
  refine kept_mk ?_
  with_reducible assumption
theorem kept_keepOld (hF : Sub 2147483648 F) : ∀ a0 a1 a2, Kept F z a0 → (Kept F z) (Sys2Proof.keepOld a0 a1 a2) := by
  unfold Sys2Proof.keepOld
  intro v0 v1 v2 v3
  split
  · with_reducible assumption
  · split
    · refine kept_modFlash (hF.sub rfl) _ _ _ ?_
      with_reducible assumption
    · with_reducible assumption
theorem kept_anchorStep (hF : Sub 8589934596 F) : ∀ a0 a1, Kept F z a0 → (Kept F z) (Sys2Proof.anchorStep a0 a1) := by
  unfold Sys2Proof.anchorStep
  intro v0 v1 v2
  split
  · with_reducible assumption
  · split
    · refine kept_modJournal (hF.sub rfl) _ _ ?_
      with_reducible assumption
    · split
      extract_lets +onlyGivenNames l9_0
      clear_value l9_0
      refine kept_modJournal (hF.sub rfl) _ _ ?_
      refine snd_eq (by assumption) (?_ : OnSnd (Kept F z) (Sys2Proof.drawBytes _ _))
      refine kept_drawBytes (hF.sub rfl) _ _ ?_
      with_reducible assumption
theorem kept_commitDir (hF : Sub 10737418244 F) : ∀ a0 a1 a2, Kept F z a0 → (Kept F z) (Sys2Proof.commitDir a0 a1 a2) := by
  unfold Sys2Proof.commitDir
  intro v0 v1 v2 v3
  extract_lets +onlyGivenNames l4_0
  clear_value l4_0
  refine kept_modFlash (hF.sub rfl) _ _ _ ?_
  refine kept_anchorStep (hF.sub rfl) _ _ ?_
  with_reducible assumption
theorem kept_putObject (hF : Sub 10737418244 F) : ∀ a0 a1 a2 a3, Kept F z a0 → (Kept F z) (Sys2Proof.putObject a0 a1 a2 a3) := by
  unfold Sys2Proof.putObject
  intro v0 v1 v2 v3 v4
  refine kept_commitDir (hF.sub rfl) _ _ _ ?_
  refine kept_keepOld (hF.sub rfl) _ _ _ ?_
  with_reducible assumption
theorem kept_delObject (hF : Sub 10737418244 F) : ∀ a0 a1 a2, Kept F z a0 → (Kept F z) (Sys2Proof.delObject a0 a1 a2) := by
  unfold Sys2Proof.delObject
  intro v0 v1 v2 v3
  refine kept_commitDir (hF.sub rfl) _ _ _ ?_
  refine kept_keepOld (hF.sub rfl) _ _ _ ?_
  with_reducible assumption
theorem kept_changeRegion (hF : Sub 2147516416 F) : ∀ a0 a1 a2 a3, Kept F z a0 → (Kept F z) (Sys2Proof.changeRegion a0 a1 a2 a3) := by
  unfold Sys2Proof.changeRegion
  intro v0 v1 v2 v3 v4
  extract_lets +onlyGivenNames l5_0
  split
  · extract_lets +onlyGivenNames l7_0 l7_1
    clear_value l7_0 l7_1
    refine kept_modFlash (hF.sub rfl) _ _ _ ?_
    refine foldl_kept (P := (Kept F z)) ?_ ?_
    · with_reducible assumption
    · intro v11 v12 v13
      refine kept_modExt (hF.sub rfl) _ _ _ ?_
      with_reducible assumption
  · dsimp -zeta only [l5_0]
    refine kept_modFlash (hF.sub rfl) _ _ _ ?_
    with_reducible assumption
  · dsimp -zeta only [l5_0]
    refine kept_modFlash (hF.sub rfl) _ _ _ ?_
    with_reducible assumption
theorem kept_endRegion (hF : Sub 10737451012 F) : ∀ a0 a1 a2 a3, Kept F z a0 → (Kept F z) (Sys2Proof.endRegion a0 a1 a2 a3) := by
  unfold Sys2Proof.endRegion
  intro v0 v1 v2 v3 v4
  split
  · with_reducible assumption
  · extract_lets +onlyGivenNames l7_0 l7_1 l7_2
    clear_value l7_0
    refine (fun (el7_1 : (Kept F z) l7_1) => ?_) ?_
    rotate_left
    · refine foldl_kept (P := (Kept F z)) ?_ ?_
      · with_reducible assumption
      · intro v10 v11 v12
        refine kept_modExt (hF.sub rfl) _ _ _ ?_
        with_reducible assumption
    clear_value l7_1
    refine (fun (el7_2 : (Kept F z) l7_2) => ?_) ?_
    rotate_left
    · refine kept_modFlash (hF.sub rfl) _ _ _ ?_
      with_reducible assumption
    clear_value l7_2
    split
    · refine kept_commitDir (hF.sub rfl) _ _ _ ?_
      with_reducible assumption
    · with_reducible assumption
theorem kept_applyEffect (hF : Sub 12012722620 F) : ∀ a0 a1, Kept F z a0 → (Kept F z) (Sys2Proof.applyEffect a0 a1) := by
  unfold Sys2Proof.applyEffect
  intro v0 v1 v2
  split
  · refine kept_putSeqRec (hF.sub rfl) _ _ _ _ ?_
    with_reducible assumption
  · refine kept_removeSeq (hF.sub rfl) _ _ _ ?_
    with_reducible assumption
  · refine kept_freeBlocks (hF.sub rfl) _ _ _ ?_
    with_reducible assumption
  · split
    · with_reducible assumption
    · refine kept_writeHbm (hF.sub rfl) _ _ _ _ ?_
      with_reducible assumption
  · refine kept_fillFrame (hF.sub rfl) _ _ _ _ _ _ _ _ _ ?_
    with_reducible assumption
  · refine kept_restoreFrame (hF.sub rfl) _ _ _ _ ?_
    with_reducible assumption
  · refine kept_setFrame (hF.sub rfl) _ _ _ ?_
    with_reducible assumption
  · refine kept_setFrame (hF.sub rfl) _ _ _ ?_
    with_reducible assumption
  · refine kept_dropFrame (hF.sub rfl) _ _ ?_
    with_reducible assumption
  · refine kept_modFlash (hF.sub rfl) _ _ _ ?_
    with_reducible assumption
  · refine kept_freeSpillSlot (hF.sub rfl) _ _ _ ?_
    with_reducible assumption
  · split
    · refine kept_freeBlocks (hF.sub rfl) _ _ _ ?_
      with_reducible assumption
    · refine kept_modPart (hF.sub rfl) _ _ _ ?_
      with_reducible assumption
  · extract_lets +onlyGivenNames l33_0 l33_1 l33_2
    refine (fun (el33_0 : (Kept F z) l33_0) => ?_) ?_
    rotate_left
    · refine kept_clearFrames (hF.sub rfl) _ _ ?_
      refine kept_modExt (hF.sub rfl) _ _ _ ?_
      with_reducible assumption
    clear_value l33_0 l33_1
    refine (fun (el33_2 : (Kept F z) l33_2) => ?_) ?_
    rotate_left
    · dsimp -zeta only [l33_2]
      split
      · refine kept_modLd (hF.sub rfl) _ _ _ ?_
        with_reducible assumption
      · with_reducible assumption
    clear_value l33_2
    split
    · refine kept_modPart (hF.sub rfl) _ _ _ ?_
      refine os_eq (by assumption) (?_ : OnSome (OnSnd (Kept F z)) _)
      split
      · exact opt_none
      · refine kept_takeBlocks (hF.sub rfl) _ _ _ ?_
        with_reducible assumption
    · with_reducible assumption
  · extract_lets +onlyGivenNames l50_0 l50_1
    refine (fun (el50_0 : (Kept F z) l50_0) => ?_) ?_
    rotate_left
    · refine foldl_kept (P := (Kept F z)) ?_ ?_
      · with_reducible assumption
      · intro v53 v54 v55
        split
        · refine kept_freeBlocks (hF.sub rfl) _ _ _ ?_
          with_reducible assumption
        · with_reducible assumption
    clear_value l50_0
    refine (fun (el50_1 : (Kept F z) l50_1) => ?_) ?_
    rotate_left
    · refine kept_clearFrames (hF.sub rfl) _ _ ?_
      refine kept_modPart (hF.sub rfl) _ _ _ ?_
      with_reducible assumption
    clear_value l50_1
    refine kept_modExt (hF.sub rfl) _ _ _ ?_
    with_reducible assumption
  · extract_lets +onlyGivenNames l65_0
    refine (fun (el65_0 : (Kept F z) l65_0) => ?_) ?_
    rotate_left
    · refine kept_modExt (hF.sub rfl) _ _ _ ?_
      with_reducible assumption
    clear_value l65_0
    split
    · refine foldl_kept (P := (Kept F z)) ?_ ?_
      · with_reducible assumption
      · intro v71 v72 v73
        refine kept_modLd (hF.sub rfl) _ _ _ ?_
        with_reducible assumption
    · with_reducible assumption
  · refine kept_modOwner (hF.sub rfl) _ _ _ ?_
    with_reducible assumption
  · extract_lets +onlyGivenNames l79_0 l79_1
    clear_value l79_0
    refine (fun (el79_1 : (Kept F z) l79_1) => ?_) ?_
    rotate_left
    · refine kept_modPart (hF.sub rfl) _ _ _ ?_
      with_reducible assumption
    clear_value l79_1
    split
    · split
      · with_reducible assumption
      · refine kept_freeBlocks (hF.sub rfl) _ _ _ ?_
        with_reducible assumption
    · with_reducible assumption
  · refine kept_modPart (hF.sub rfl) _ _ _ ?_
    with_reducible assumption
  · extract_lets +onlyGivenNames l90_0
    refine (fun (el90_0 : (Kept F z) l90_0) => ?_) ?_
    rotate_left
    · dsimp -zeta only [l90_0]
      split
      · split
        · with_reducible assumption
        · refine kept_freeBlocks (hF.sub rfl) _ _ _ ?_
          with_reducible assumption
      · with_reducible assumption
    clear_value l90_0
    refine kept_modPart (hF.sub rfl) _ _ _ ?_
    with_reducible assumption
  · refine kept_modPart (hF.sub rfl) _ _ _ ?_
    with_reducible assumption
  · extract_lets +onlyGivenNames l102_0 l102_1
    refine (fun (el102_0 : (Kept F z) l102_0) => ?_) ?_
    rotate_left
    · dsimp -zeta only [l102_0]
      split
      · refine kept_freeBlocks (hF.sub rfl) _ _ _ ?_
        with_reducible assumption
      · with_reducible assumption
    clear_value l102_0 l102_1
    refine kept_mk ?_
    with_reducible assumption
  · refine kept_putObject (hF.sub rfl) _ _ _ _ ?_
    with_reducible assumption
  · refine kept_delObject (hF.sub rfl) _ _ _ ?_
    with_reducible assumption
  · refine kept_endRegion (hF.sub rfl) _ _ _ _ ?_
    with_reducible assumption
  · refine kept_changeRegion (hF.sub rfl) _ _ _ _ ?_
    with_reducible assumption
  · with_reducible assumption
  · refine kept_count (hF.sub rfl) _ _ _ _ ?_
    with_reducible assumption
  · refine kept_postEvent (hF.sub rfl) _ _ _ _ _ _ _ _ _ ?_
    with_reducible assumption
  · refine fst_of (P := (Kept F z)) ?_
    refine kept_indexInsert (hF.sub rfl) _ _ _ _ _ _ ?_
    with_reducible assumption
  · refine fst_of (P := (Kept F z)) ?_
    refine kept_indexRemove (hF.sub rfl) _ _ _ ?_
    with_reducible assumption
  · refine kept_indexHit (hF.sub rfl) _ _ _ ?_
    with_reducible assumption
  · refine kept_indexPromote (hF.sub rfl) _ _ _ ?_
    with_reducible assumption
theorem kept_stagedView (hF : Sub 12012722620 F) : ∀ a0 a1, Kept F z a0 → (Kept F z) (Sys2Proof.stagedView a0 a1) := by
  unfold Sys2Proof.stagedView
  intro v0 v1 v2
  refine foldl_kept (P := (Kept F z)) ?_ ?_
  · with_reducible assumption
  · intro v5 v6 v7
    refine kept_applyEffect (hF.sub rfl) _ _ ?_
    with_reducible assumption

/-! ### NetOps -/

theorem kept_modPort (hF : Sub 536870912 F) : ∀ a0 a1 a2, Kept F z a0 → (Kept F z) (Sys2Proof.modPort a0 a1 a2) := by
  unfold Sys2Proof.modPort
  intro v0 v1 v2 v3
  refine kept_mk ?_
  with_reducible assumption
theorem kept_modLink (hF : Sub 536870912 F) : ∀ a0 a1 a2 a3, Kept F z a0 → (Kept F z) (Sys2Proof.modLink a0 a1 a2 a3) := by
  unfold Sys2Proof.modLink
  intro v0 v1 v2 v3 v4
  refine kept_modPort (hF.sub rfl) _ _ _ ?_
  with_reducible assumption
theorem kept_countNode (hF : Sub 536870912 F) : ∀ a0 a1, Kept F z a0 → (Kept F z) (Sys2Proof.countNode a0 a1) := by
  unfold Sys2Proof.countNode
  intro v0 v1 v2
  refine kept_mk ?_
  with_reducible assumption
theorem kept_settleLink (hF : Sub 536870912 F) : ∀ a0 a1 a2, Kept F z a0 → (Kept F z) (Sys2Proof.settleLink a0 a1 a2) := by
  unfold Sys2Proof.settleLink
  intro v0 v1 v2 v3
  refine kept_modLink (hF.sub rfl) _ _ _ _ ?_
  with_reducible assumption
theorem kept_queueFrame (hF : Sub 536870912 F) : ∀ a0 a1 a2 a3, Kept F z a0 → (Kept F z) (Sys2Proof.queueFrame a0 a1 a2 a3) := by
  unfold Sys2Proof.queueFrame
  intro v0 v1 v2 v3 v4
  refine kept_modLink (hF.sub rfl) _ _ _ _ ?_
  with_reducible assumption
theorem kept_portDiscard (hF : Sub 536870912 F) : ∀ a0 a1 a2 a3 a4, Kept F z a0 → (OnSome (Kept F z)) (Sys2Proof.portDiscard a0 a1 a2 a3 a4) := by
  unfold Sys2Proof.portDiscard
  intro v0 v1 v2 v3 v4 v5
  split
  · refine opt_some ?_
    refine kept_modPort (hF.sub rfl) _ _ _ ?_
    with_reducible assumption
  · split
    · refine opt_some ?_
      refine kept_modPort (hF.sub rfl) _ _ _ ?_
      with_reducible assumption
    · exact opt_none
theorem kept_modQp (hF : Sub 268435456 F) : ∀ a0 a1 a2, Kept F z a0 → (Kept F z) (Sys2Proof.modQp a0 a1 a2) := by
  unfold Sys2Proof.modQp
  intro v0 v1 v2 v3
  refine kept_mk ?_
  with_reducible assumption
theorem kept_transmit (hF : Sub 805306368 F) : ∀ a0 a1 a2, Kept F z a0 → (Kept F z) (Sys2Proof.transmit a0 a1 a2) := by
  unfold Sys2Proof.transmit
  intro v0 v1 v2 v3
  split
  · with_reducible assumption
  · extract_lets +onlyGivenNames l6_0 l6_1 l6_2 l6_3
    clear_value l6_0
    refine (fun (el6_1 : (Kept F z) l6_1) => ?_) ?_
    rotate_left
    · refine kept_modQp (hF.sub rfl) _ _ _ ?_
      with_reducible assumption
    clear_value l6_1 l6_2 l6_3
    split
    extract_lets +onlyGivenNames l10_0
    clear_value l10_0
    split
    · split
      · with_reducible assumption
      · refine kept_queueFrame (hF.sub rfl) _ _ _ _ ?_
        with_reducible assumption
    · with_reducible assumption
theorem kept_transmitRoce (hF : Sub 805306368 F) : ∀ a0 a1 a2 a3, Kept F z a0 → (Kept F z) (Sys2Proof.transmitRoce a0 a1 a2 a3) := by
  unfold Sys2Proof.transmitRoce
  intro v0 v1 v2 v3 v4
  split
  · with_reducible assumption
  · extract_lets +onlyGivenNames l7_0 l7_1 l7_2 l7_3 l7_4 l7_5
    clear_value l7_0 l7_1 l7_2
    refine (fun (el7_3 : (Kept F z) l7_3) => ?_) ?_
    rotate_left
    · refine kept_modQp (hF.sub rfl) _ _ _ ?_
      with_reducible assumption
    clear_value l7_3 l7_4 l7_5
    split
    · with_reducible assumption
    · extract_lets +onlyGivenNames l12_0 l12_1
      clear_value l12_0 l12_1
      split
      · with_reducible assumption
      · split
        · refine kept_queueFrame (hF.sub rfl) _ _ _ _ ?_
          with_reducible assumption
        · with_reducible assumption
theorem kept_sendSeq (hF : Sub 805306368 F) : ∀ a0 a1 a2 a3 a4, Kept F z a0 → (Kept F z) (Sys2Proof.sendSeq a0 a1 a2 a3 a4) := by
  unfold Sys2Proof.sendSeq
  intro v0 v1 v2 v3 v4 v5
  split
  · with_reducible assumption
  · extract_lets +onlyGivenNames l8_0 l8_1 l8_2
    clear_value l8_0 l8_1
    refine (fun (el8_2 : (Kept F z) l8_2) => ?_) ?_
    rotate_left
    · refine kept_modQp (hF.sub rfl) _ _ _ ?_
      with_reducible assumption
    clear_value l8_2
    refine kept_transmit (hF.sub rfl) _ _ _ ?_
    with_reducible assumption
theorem kept_sendCtl (hF : Sub 805306368 F) : ∀ a0 a1 a2 a3 a4 a5 a6, Kept F z a0 → (Kept F z) (Sys2Proof.sendCtl a0 a1 a2 a3 a4 a5 a6) := by
  unfold Sys2Proof.sendCtl
  intro v0 v1 v2 v3 v4 v5 v6 v7
  refine kept_transmit (hF.sub rfl) _ _ _ ?_
  with_reducible assumption
theorem kept_sendNak (hF : Sub 805306368 F) : ∀ a0 a1 a2 a3 a4 a5 a6, Kept F z a0 → (Kept F z) (Sys2Proof.sendNak a0 a1 a2 a3 a4 a5 a6) := by
  unfold Sys2Proof.sendNak
  intro v0 v1 v2 v3 v4 v5 v6 v7
  refine kept_sendCtl (hF.sub rfl) _ _ _ _ _ _ _ ?_
  with_reducible assumption
theorem kept_emitEvomer (hF : Sub 805306368 F) : ∀ a0 a1 a2 a3, Kept F z a0 → (OnFst (Kept F z)) (Sys2Proof.emitEvomer a0 a1 a2 a3) := by
  unfold Sys2Proof.emitEvomer
  intro v0 v1 v2 v3 v4
  extract_lets +onlyGivenNames l5_0 l5_1 l5_2 l5_3 l5_4 l5_5
  clear_value l5_0 l5_1 l5_3 l5_4
  refine (fun (el5_5 : (Kept F z) l5_5) => ?_) ?_
  rotate_left
  · refine foldl_kept (P := (Kept F z)) ?_ ?_
    · with_reducible assumption
    · intro v8 v9 v10
      extract_lets +onlyGivenNames l11_0 l11_1 l11_2
      clear_value l11_0 l11_1 l11_2
      refine kept_sendSeq (hF.sub rfl) _ _ _ _ _ ?_
      with_reducible assumption
  clear_value l5_5
  refine fst_mk ?_
  with_reducible assumption
theorem kept_sendRoce (hF : Sub 805306368 F) : ∀ a0 a1 a2 a3 a4 a5, Kept F z a0 → (Kept F z) (Sys2Proof.sendRoce a0 a1 a2 a3 a4 a5) := by
  unfold Sys2Proof.sendRoce
  intro v0 v1 v2 v3 v4 v5 v6
  split
  · with_reducible assumption
  · extract_lets +onlyGivenNames l9_0 l9_1 l9_2 l9_3
    clear_value l9_0 l9_1 l9_2
    refine (fun (el9_3 : (Kept F z) l9_3) => ?_) ?_
    rotate_left
    · refine kept_modQp (hF.sub rfl) _ _ _ ?_
      with_reducible assumption
    clear_value l9_3
    refine kept_transmitRoce (hF.sub rfl) _ _ _ _ ?_
    with_reducible assumption
theorem kept_emitRoce (hF : Sub 805306368 F) : ∀ a0 a1 a2 a3, Kept F z a0 → (OnFst (Kept F z)) (Sys2Proof.emitRoce a0 a1 a2 a3) := by
  unfold Sys2Proof.emitRoce
  intro v0 v1 v2 v3 v4
  split
  · refine fst_mk ?_
    refine kept_sendRoce (hF.sub rfl) _ _ _ _ _ _ ?_
    with_reducible assumption
  · extract_lets +onlyGivenNames l9_0 l9_1
    clear_value l9_0
    refine (fun (el9_1 : (Kept F z) l9_1) => ?_) ?_
    rotate_left
    · refine foldl_kept (P := (Kept F z)) ?_ ?_
      · with_reducible assumption
      · intro v12 v13 v14
        split
        extract_lets +onlyGivenNames l16_0
        clear_value l16_0
        refine kept_sendRoce (hF.sub rfl) _ _ _ _ _ _ ?_
        with_reducible assumption
    clear_value l9_1
    refine fst_mk ?_
    with_reducible assumption
theorem kept_pumpCancels (hF : Sub 805306368 F) : ∀ a0 a1, Kept F z a0 → (Kept F z) (Sys2Proof.pumpCancels a0 a1) := by
  unfold Sys2Proof.pumpCancels
  intro v0 v1 v2
  split
  · with_reducible assumption
  · refine foldl_kept (P := (Kept F z)) ?_ ?_
    · with_reducible assumption
    · intro v7 v8 v9
      split
      · with_reducible assumption
      · refine kept_sendSeq (hF.sub rfl) _ _ _ _ _ ?_
        refine kept_modQp (hF.sub rfl) _ _ _ ?_
        with_reducible assumption
theorem kept_pumpMoved (hF : Sub 805306368 F) : ∀ a0 a1, Kept F z a0 → (Kept F z) (Sys2Proof.pumpMoved a0 a1) := by
  unfold Sys2Proof.pumpMoved
  intro v0 v1 v2
  split
  · with_reducible assumption
  · refine foldl_kept (P := (Kept F z)) ?_ ?_
    · with_reducible assumption
    · intro v7 v8 v9
      refine foldl_kept (P := (Kept F z)) ?_ ?_
      · with_reducible assumption
      · intro v12 v13 v14
        split
        · with_reducible assumption
        · extract_lets +onlyGivenNames l17_0 l17_1 l17_2
          clear_value l17_0 l17_1
          refine (fun (el17_2 : (Kept F z) l17_2) => ?_) ?_
          rotate_left
          · refine kept_modQp (hF.sub rfl) _ _ _ ?_
            with_reducible assumption
          clear_value l17_2
          refine foldl_kept (P := (Kept F z)) ?_ ?_
          · with_reducible assumption
          · intro v22 v23 v24
            refine kept_sendSeq (hF.sub rfl) _ _ _ _ _ ?_
            with_reducible assumption
theorem kept_pumpQp (hF : Sub 805306368 F) : ∀ a0 a1, Kept F z a0 → (Kept F z) (Sys2Proof.pumpQp a0 a1) := by
  unfold Sys2Proof.pumpQp
  intro v0 v1 v2
  extract_lets +onlyGivenNames l3_0
  refine (fun (el3_0 : (Kept F z) l3_0) => ?_) ?_
  rotate_left
  · refine kept_pumpCancels (hF.sub rfl) _ _ ?_
    refine kept_pumpMoved (hF.sub rfl) _ _ ?_
    with_reducible assumption
  clear_value l3_0
  split
  · with_reducible assumption
  · refine foldl_kept (P := (Kept F z)) ?_ ?_
    · with_reducible assumption
    · intro v11 v12 v13
      split
      · with_reducible assumption
      · split
        · with_reducible assumption
        · split
          refine kept_modQp (hF.sub rfl) _ _ _ ?_
          refine fst_eq (by assumption) (?_ : OnFst (Kept F z) _)
          split
          · refine kept_emitRoce (hF.sub rfl) _ _ _ _ ?_
            with_reducible assumption
          · refine kept_emitEvomer (hF.sub rfl) _ _ _ _ ?_
            with_reducible assumption
theorem kept_addMsg (hF : Sub 268435456 F) : ∀ a0 a1 a2, Kept F z a0 → (Kept F z) (Sys2Proof.addMsg a0 a1 a2) := by
  unfold Sys2Proof.addMsg
  intro v0 v1 v2 v3
  refine kept_modQp (hF.sub rfl) _ _ _ ?_
  with_reducible assumption
theorem kept_roceReply (hF : Sub 805306368 F) : ∀ a0 a1 a2 a3, Kept F z a0 → (Kept F z) (Sys2Proof.roceReply a0 a1 a2 a3) := by
  unfold Sys2Proof.roceReply
  intro v0 v1 v2 v3 v4
  refine kept_transmitRoce (hF.sub rfl) _ _ _ _ ?_
  with_reducible assumption
theorem kept_roceRespond (hF : Sub 805306368 F) : ∀ a0 a1 a2 a3 a4 a5, Kept F z a0 → (Kept F z) (Sys2Proof.roceRespond a0 a1 a2 a3 a4 a5) := by
  unfold Sys2Proof.roceRespond
  intro v0 v1 v2 v3 v4 v5 v6
  extract_lets +onlyGivenNames l7_0
  clear_value l7_0
  refine foldl_kept (P := (Kept F z)) ?_ ?_
  · with_reducible assumption
  · intro v10 v11 v12
    refine kept_transmitRoce (hF.sub rfl) _ _ _ _ ?_
    with_reducible assumption
theorem kept_pumpResponses (hF : Sub 805306368 F) : ∀ a0 a1, Kept F z a0 → (Kept F z) (Sys2Proof.pumpResponses a0 a1) := by
  unfold Sys2Proof.pumpResponses
  intro v0 v1 v2
  split
  · with_reducible assumption
  · refine foldl_kept (P := (Kept F z)) ?_ ?_
    · with_reducible assumption
    · intro v7 v8 v9
      extract_lets +onlyGivenNames l10_0 l10_1 l10_2 l10_3
      clear_value l10_0 l10_1 l10_2
      refine (fun (el10_3 : (Kept F z) l10_3) => ?_) ?_
      rotate_left
      · refine foldl_kept (P := (Kept F z)) ?_ ?_
        · with_reducible assumption
        · intro v13 v14 v15
          extract_lets +onlyGivenNames l16_0
          clear_value l16_0
          refine kept_sendSeq (hF.sub rfl) _ _ _ _ _ ?_
          with_reducible assumption
      clear_value l10_3
      refine kept_modQp (hF.sub rfl) _ _ _ ?_
      with_reducible assumption
theorem kept_netStopped (hF : Sub 805306368 F) : ∀ a0 a1, Kept F z a0 → (Kept F z) (Sys2Proof.netStopped a0 a1) := by
  unfold Sys2Proof.netStopped
  intro v0 v1 v2
  split
  · split
    · with_reducible assumption
    · split
      · with_reducible assumption
      · extract_lets +onlyGivenNames l8_0
        refine (fun (el8_0 : (Kept F z) l8_0) => ?_) ?_
        rotate_left
        · refine kept_modQp (hF.sub rfl) _ _ _ ?_
          with_reducible assumption
        clear_value l8_0
        split
        · refine kept_pumpCancels (hF.sub rfl) _ _ ?_
          refine kept_modQp (hF.sub rfl) _ _ _ ?_
          with_reducible assumption
        · with_reducible assumption
  · split
    · refine kept_mk ?_
      with_reducible assumption
    · with_reducible assumption

/-! ### FabricOps -/

theorem kept_dropFab (hF : Sub 134217728 F) : ∀ a0, Kept F z a0 → (Kept F z) (Sys2Proof.dropFab a0) := by
  unfold Sys2Proof.dropFab
  intro v0 v1
  refine kept_mk ?_
  with_reducible assumption
theorem kept_wantContext (hF : Sub 268435456 F) : ∀ a0 a1, Kept F z a0 → (Kept F z) (Sys2Proof.wantContext a0 a1) := by
  unfold Sys2Proof.wantContext
  intro v0 v1 v2
  split
  · with_reducible assumption
  · refine kept_mk ?_
    with_reducible assumption
theorem kept_fabSend (hF : Sub 402653184 F) : ∀ a0 a1 a2, Kept F z a0 → (Kept F z) (Sys2Proof.fabSend a0 a1 a2) := by
  unfold Sys2Proof.fabSend
  intro v0 v1 v2 v3
  split
  · refine kept_dropFab (hF.sub rfl) _ ?_
    with_reducible assumption
  · split
    · refine kept_dropFab (hF.sub rfl) _ ?_
      with_reducible assumption
    · refine kept_addMsg (hF.sub rfl) _ _ _ ?_
      split
      · refine kept_wantContext (hF.sub rfl) _ _ ?_
        with_reducible assumption
      · with_reducible assumption
theorem kept_fabTo (hF : Sub 402653184 F) : ∀ a0 a1 a2 a3, Kept F z a0 → (Kept F z) (Sys2Proof.fabTo a0 a1 a2 a3) := by
  unfold Sys2Proof.fabTo
  intro v0 v1 v2 v3 v4
  split
  · refine kept_fabSend (hF.sub rfl) _ _ _ ?_
    with_reducible assumption
  · refine kept_dropFab (hF.sub rfl) _ ?_
    with_reducible assumption
theorem kept_fabArrive (hF : Sub 134217728 F) : ∀ a0 a1 a2, Kept F z a0 → (Kept F z) (Sys2Proof.fabArrive a0 a1 a2) := by
  unfold Sys2Proof.fabArrive
  intro v0 v1 v2 v3
  refine kept_mk ?_
  with_reducible assumption
theorem kept_fabReply (hF : Sub 402669572 F) : ∀ a0 a1 a2 a3 a4 a5 a6 a7 a8, Kept F z a0 → (Kept F z) (Sys2Proof.fabReply a0 a1 a2 a3 a4 a5 a6 a7 a8) := by
  unfold Sys2Proof.fabReply
  intro v0 v1 v2 v3 v4 v5 v6 v7 v8 v9
  split
  split
  extract_lets +onlyGivenNames l12_0
  clear_value l12_0
  split
  · refine kept_fabSend (hF.sub rfl) _ _ _ ?_
    refine snd_eq (by assumption) (?_ : OnSnd (Kept F z) (Sys2Proof.orFree _ _ _))
    refine kept_orFree (hF.sub rfl) _ _ _ ?_
    refine snd_eq (by assumption) (?_ : OnSnd (Kept F z) (Sys2Proof.orFree _ _ _))
    refine kept_orFree (hF.sub rfl) _ _ _ ?_
    with_reducible assumption
  · split
    · split
      · refine kept_putDesc (hF.sub rfl) _ _ ?_
        refine snd_eq (by assumption) (?_ : OnSnd (Kept F z) (Sys2Proof.orFree _ _ _))
        refine kept_orFree (hF.sub rfl) _ _ _ ?_
        refine snd_eq (by assumption) (?_ : OnSnd (Kept F z) (Sys2Proof.orFree _ _ _))
        refine kept_orFree (hF.sub rfl) _ _ _ ?_
        with_reducible assumption
      · refine snd_eq (by assumption) (?_ : OnSnd (Kept F z) (Sys2Proof.orFree _ _ _))
        refine kept_orFree (hF.sub rfl) _ _ _ ?_
        refine snd_eq (by assumption) (?_ : OnSnd (Kept F z) (Sys2Proof.orFree _ _ _))
        refine kept_orFree (hF.sub rfl) _ _ _ ?_
        with_reducible assumption
    · split
      · refine kept_fabArrive (hF.sub rfl) _ _ _ ?_
        refine snd_eq (by assumption) (?_ : OnSnd (Kept F z) (Sys2Proof.orFree _ _ _))
        refine kept_orFree (hF.sub rfl) _ _ _ ?_
        refine snd_eq (by assumption) (?_ : OnSnd (Kept F z) (Sys2Proof.orFree _ _ _))
        refine kept_orFree (hF.sub rfl) _ _ _ ?_
        with_reducible assumption
      · refine kept_dropFab (hF.sub rfl) _ ?_
        refine snd_eq (by assumption) (?_ : OnSnd (Kept F z) (Sys2Proof.orFree _ _ _))
        refine kept_orFree (hF.sub rfl) _ _ _ ?_
        refine snd_eq (by assumption) (?_ : OnSnd (Kept F z) (Sys2Proof.orFree _ _ _))
        refine kept_orFree (hF.sub rfl) _ _ _ ?_
        with_reducible assumption
theorem kept_fabDeliver (hF : Sub 402669572 F) : ∀ a0 a1 a2, Kept F z a0 → (Kept F z) (Sys2Proof.fabDeliver a0 a1 a2) := by
  unfold Sys2Proof.fabDeliver
  intro v0 v1 v2 v3
  extract_lets +onlyGivenNames l4_0
  split
  · refine kept_fabReply (hF.sub rfl) _ _ _ _ _ _ _ _ _ ?_
    with_reducible assumption
  · split
    · refine kept_dropFab (hF.sub rfl) _ ?_
      with_reducible assumption
    · split
      · refine kept_dropFab (hF.sub rfl) _ ?_
        with_reducible assumption
      · split
        · refine kept_fabReply (hF.sub rfl) _ _ _ _ _ _ _ _ _ ?_
          with_reducible assumption
        · refine kept_fabArrive (hF.sub rfl) _ _ _ ?_
          with_reducible assumption
theorem kept_fabTake (hF : Sub 134217728 F) : ∀ a0 a1 a2, Kept F z a0 → (Kept F z) (Sys2Proof.fabTake a0 a1 a2) := by
  unfold Sys2Proof.fabTake
  intro v0 v1 v2 v3
  refine kept_mk ?_
  with_reducible assumption
theorem kept_shadowCount (hF : Sub 2048 F) : ∀ a0 a1 a2 a3, Kept F z a0 → (Kept F z) (Sys2Proof.shadowCount a0 a1 a2 a3) := by
  unfold Sys2Proof.shadowCount
  intro v0 v1 v2 v3 v4
  refine kept_modOwner (hF.sub rfl) _ _ _ ?_
  with_reducible assumption
theorem kept_putHome (hF : Sub 134217728 F) : ∀ a0 a1, Kept F z a0 → (Kept F z) (Sys2Proof.putHome a0 a1) := by
  unfold Sys2Proof.putHome
  intro v0 v1 v2
  refine kept_mk ?_
  with_reducible assumption
theorem kept_dropHome (hF : Sub 134217728 F) : ∀ a0 a1, Kept F z a0 → (Kept F z) (Sys2Proof.dropHome a0 a1) := by
  unfold Sys2Proof.dropHome
  intro v0 v1 v2
  refine kept_mk ?_
  with_reducible assumption
theorem kept_endHome (hF : Sub 134217728 F) : ∀ a0 a1, Kept F z a0 → (Kept F z) (Sys2Proof.endHome a0 a1) := by
  unfold Sys2Proof.endHome
  intro v0 v1 v2
  split
  · refine kept_dropHome (hF.sub rfl) _ _ ?_
    with_reducible assumption
  · refine kept_putHome (hF.sub rfl) _ _ ?_
    with_reducible assumption
theorem kept_homeFail (hF : Sub 402669572 F) : ∀ a0 a1 a2 a3 a4, Kept F z a0 → (Kept F z) (Sys2Proof.homeFail a0 a1 a2 a3 a4) := by
  unfold Sys2Proof.homeFail
  intro v0 v1 v2 v3 v4 v5
  extract_lets +onlyGivenNames l6_0 l6_1
  clear_value l6_0 l6_1
  extract_lets +onlyGivenNames l7_0
  refine (fun (el7_0 : (Kept F z) l7_0) => ?_) ?_
  rotate_left
  · dsimp -zeta only [l7_0]
    split
    · with_reducible assumption
    · refine kept_mk ?_
      with_reducible assumption
  clear_value l7_0
  refine kept_endHome (hF.sub rfl) _ _ ?_
  refine kept_fabReply (hF.sub rfl) _ _ _ _ _ _ _ _ _ ?_
  with_reducible assumption
theorem kept_homeLost (hF : Sub 402669572 F) : ∀ a0 a1 a2, Kept F z a0 → (Kept F z) (Sys2Proof.homeLost a0 a1 a2) := by
  unfold Sys2Proof.homeLost
  intro v0 v1 v2 v3
  split
  · refine kept_homeFail (hF.sub rfl) _ _ _ _ _ ?_
    with_reducible assumption
  · with_reducible assumption
theorem kept_homeFinish (hF : Sub 402669572 F) : ∀ a0 a1, Kept F z a0 → (Kept F z) (Sys2Proof.homeFinish a0 a1) := by
  unfold Sys2Proof.homeFinish
  intro v0 v1 v2
  extract_lets +onlyGivenNames l3_0 l3_1 l3_2 l3_3 l3_4 l3_5
  clear_value l3_0 l3_1 l3_2 l3_3 l3_4 l3_5
  split
  split
  refine kept_endHome (hF.sub rfl) _ _ ?_
  refine kept_fabReply (hF.sub rfl) _ _ _ _ _ _ _ _ _ ?_
  refine snd_eq (by assumption) (?_ : OnSnd (Kept F z) (List.foldl _ _ _))
  refine foldl_kept (P := (OnSnd (Kept F z))) ?_ ?_
  · refine snd_mk ?_
    with_reducible assumption
  · intro v12 v13 v14
    extract_lets +onlyGivenNames l15_0
    clear_value l15_0
    split
    · split
      refine snd_mk ?_
      refine snd_eq (by assumption) (?_ : OnSnd (Kept F z) (Sys2Proof.drawBytes _ _))
      refine kept_drawBytes (hF.sub rfl) _ _ ?_
      refine snd_of (P := (Kept F z)) ?_
      with_reducible assumption
    · extract_lets +onlyGivenNames l23_0 l23_1
      clear_value l23_0 l23_1
      split
      refine snd_mk ?_
      refine snd_eq (by assumption) (?_ : OnSnd (Kept F z) (Sys2Proof.mergeVectors _ _ _ _ _))
      refine kept_mergeVectors (hF.sub rfl) _ _ _ _ _ ?_
      refine snd_of (P := (Kept F z)) ?_
      with_reducible assumption
theorem kept_ownToLeader (hF : Sub 402653188 F) : ∀ a0 a1 a2, Kept F z a0 → (Kept F z) (Sys2Proof.ownToLeader a0 a1 a2) := by
  unfold Sys2Proof.ownToLeader
  intro v0 v1 v2 v3
  extract_lets +onlyGivenNames l4_0 l4_1
  clear_value l4_0 l4_1
  split
  extract_lets +onlyGivenNames l6_0 l6_1
  clear_value l6_0 l6_1
  split
  extract_lets +onlyGivenNames l8_0
  refine (fun (el8_0 : (Kept F z) l8_0) => ?_) ?_
  rotate_left
  · refine kept_fabTo (hF.sub rfl) _ _ _ _ ?_
    refine snd_eq (by assumption) (?_ : OnSnd (Kept F z) (Sys2Proof.mergeVectors _ _ _ _ _))
    refine kept_mergeVectors (hF.sub rfl) _ _ _ _ _ ?_
    with_reducible assumption
  clear_value l8_0
  refine kept_putHome (hF.sub rfl) _ _ ?_
  with_reducible assumption
theorem kept_compareShadows (hF : Sub 134219776 F) : ∀ a0 a1, Kept F z a0 → (Kept F z) (Sys2Proof.compareShadows a0 a1) := by
  unfold Sys2Proof.compareShadows
  intro v0 v1 v2
  split
  · with_reducible assumption
  · extract_lets +onlyGivenNames l5_0 l5_1 l5_2
    refine (fun (el5_1 : (Kept F z) l5_1) => ?_) ?_
    rotate_left
    · refine foldl_kept (P := (Kept F z)) ?_ ?_
      · with_reducible assumption
      · intro v8 v9 v10
        extract_lets +onlyGivenNames l11_0 l11_1 l11_2 l11_3
        clear_value l11_0 l11_1 l11_2 l11_3
        refine kept_shadowCount (hF.sub rfl) _ _ _ _ ?_
        with_reducible assumption
    clear_value l5_1
    split
    · refine kept_dropHome (hF.sub rfl) _ _ ?_
      with_reducible assumption
    · refine kept_putHome (hF.sub rfl) _ _ ?_
      with_reducible assumption
theorem kept_missShadows (hF : Sub 2048 F) : ∀ a0 a1 a2, Kept F z a0 → (OnFst (Kept F z)) (Sys2Proof.missShadows a0 a1 a2) := by
  unfold Sys2Proof.missShadows
  intro v0 v1 v2 v3
  split
  refine fst_mk ?_
  refine foldl_kept (P := (Kept F z)) ?_ ?_
  · with_reducible assumption
  · intro v8 v9 v10
    refine kept_shadowCount (hF.sub rfl) _ _ _ _ ?_
    with_reducible assumption
theorem kept_homeTake (hF : Sub 402671620 F) : ∀ a0 a1 a2 a3, Kept F z a0 → (Kept F z) (Sys2Proof.homeTake a0 a1 a2 a3) := by
  unfold Sys2Proof.homeTake
  intro v0 v1 v2 v3 v4
  split
  · refine kept_mk ?_
    with_reducible assumption
  · split
    · extract_lets +onlyGivenNames l9_0
      clear_value l9_0
      extract_lets +onlyGivenNames l10_0
      refine (fun (el10_0 : (Kept F z) l10_0) => ?_) ?_
      rotate_left
      · refine kept_mk ?_
        with_reducible assumption
      clear_value l10_0
      split
      · refine kept_compareShadows (hF.sub rfl) _ _ ?_
        refine kept_putHome (hF.sub rfl) _ _ ?_
        with_reducible assumption
      · with_reducible assumption
    · split
      · extract_lets +onlyGivenNames l19_0
        clear_value l19_0
        split
        split
        refine kept_homeFail (hF.sub rfl) _ _ _ _ _ ?_
        refine snd_eq (by assumption) (?_ : OnSnd (Kept F z) _)
        split
        · refine kept_draw (hF.sub rfl) _ ?_
          with_reducible assumption
        · refine snd_mk ?_
          with_reducible assumption
      · extract_lets +onlyGivenNames l29_0
        clear_value l29_0
        split
        extract_lets +onlyGivenNames l31_0 l31_1 l31_2
        clear_value l31_0
        refine (fun (el31_1 : (Kept F z) l31_1) => ?_) ?_
        rotate_left
        · refine kept_putHome (hF.sub rfl) _ _ ?_
          refine fst_eq (by assumption) (?_ : OnFst (Kept F z) _)
          split
          · refine fst_mk ?_
            with_reducible assumption
          · refine kept_missShadows (hF.sub rfl) _ _ _ ?_
            with_reducible assumption
        clear_value l31_1
        refine (fun (el31_2 : (Kept F z) l31_2) => ?_) ?_
        rotate_left
        · refine kept_compareShadows (hF.sub rfl) _ _ ?_
          with_reducible assumption
        clear_value l31_2
        split
        · with_reducible assumption
        · extract_lets +onlyGivenNames l43_0
          refine (fun (el43_0 : (Kept F z) l43_0) => ?_) ?_
          rotate_left
          · dsimp -zeta only [l43_0]
            split
            · split
              · refine kept_ownToLeader (hF.sub rfl) _ _ _ ?_
                with_reducible assumption
              · with_reducible assumption
            · with_reducible assumption
          clear_value l43_0
          split
          · with_reducible assumption
          · split
            · refine kept_homeFinish (hF.sub rfl) _ _ ?_
              with_reducible assumption
            · with_reducible assumption
theorem kept_putMember (hF : Sub 134217728 F) : ∀ a0 a1, Kept F z a0 → (Kept F z) (Sys2Proof.putMember a0 a1) := by
  unfold Sys2Proof.putMember
  intro v0 v1 v2
  refine kept_mk ?_
  with_reducible assumption
theorem kept_dropMember (hF : Sub 134217728 F) : ∀ a0 a1, Kept F z a0 → (Kept F z) (Sys2Proof.dropMember a0 a1) := by
  unfold Sys2Proof.dropMember
  intro v0 v1 v2
  refine kept_mk ?_
  with_reducible assumption
theorem kept_memberReply (hF : Sub 402671620 F) : ∀ a0 a1 a2 a3 a4 a5, Kept F z a0 → (Kept F z) (Sys2Proof.memberReply a0 a1 a2 a3 a4 a5) := by
  unfold Sys2Proof.memberReply
  intro v0 v1 v2 v3 v4 v5 v6
  extract_lets +onlyGivenNames l7_0 l7_1 l7_2 l7_3
  refine (fun (el7_0 : (Kept F z) l7_0) => ?_) ?_
  rotate_left
  · refine kept_dropMember (hF.sub rfl) _ _ ?_
    with_reducible assumption
  clear_value l7_0 l7_1 l7_2
  refine (fun (el7_3 : (Kept F z) l7_3) => ?_) ?_
  rotate_left
  · dsimp -zeta only [l7_3]
    split
    · with_reducible assumption
    · refine kept_mk ?_
      with_reducible assumption
  clear_value l7_3
  extract_lets +onlyGivenNames l15_0
  clear_value l15_0
  split
  · refine kept_homeTake (hF.sub rfl) _ _ _ _ ?_
    with_reducible assumption
  · split
    · split
      · refine kept_fabArrive (hF.sub rfl) _ _ _ ?_
        with_reducible assumption
      · refine kept_dropFab (hF.sub rfl) _ ?_
        with_reducible assumption
    · extract_lets +onlyGivenNames l25_0
      clear_value l25_0
      split
      · refine kept_fabTo (hF.sub rfl) _ _ _ _ ?_
        with_reducible assumption
      · refine kept_fabSend (hF.sub rfl) _ _ _ ?_
        with_reducible assumption
theorem kept_memberFinish (hF : Sub 402671620 F) : ∀ a0 a1, Kept F z a0 → (Kept F z) (Sys2Proof.memberFinish a0 a1) := by
  unfold Sys2Proof.memberFinish
  intro v0 v1 v2
  extract_lets +onlyGivenNames l3_0
  clear_value l3_0
  split
  · extract_lets +onlyGivenNames l5_0 l5_1
    clear_value l5_0 l5_1
    split
    refine kept_memberReply (hF.sub rfl) _ _ _ _ _ _ ?_
    refine snd_eq (by assumption) (?_ : OnSnd (Kept F z) _)
    split
    · refine snd_mk ?_
      with_reducible assumption
    · split
      · refine kept_drawBytes (hF.sub rfl) _ _ ?_
        with_reducible assumption
      · refine kept_mergeVectors (hF.sub rfl) _ _ _ _ _ ?_
        with_reducible assumption
  · refine kept_putMember (hF.sub rfl) _ _ ?_
    with_reducible assumption
theorem kept_memberCommit (hF : Sub 402671620 F) : ∀ a0 a1, Kept F z a0 → (Kept F z) (Sys2Proof.memberCommit a0 a1) := by
  unfold Sys2Proof.memberCommit
  intro v0 v1 v2
  split
  · with_reducible assumption
  · split
    · with_reducible assumption
    · split
      · refine kept_memberReply (hF.sub rfl) _ _ _ _ _ _ ?_
        with_reducible assumption
      · extract_lets +onlyGivenNames l10_0 l10_1 l10_2
        clear_value l10_0 l10_1 l10_2
        split
        · extract_lets +onlyGivenNames l12_0 l12_1 l12_2 l12_3
          clear_value l12_0 l12_1 l12_2 l12_3
          refine kept_putMember (hF.sub rfl) _ _ ?_
          refine kept_mk ?_
          with_reducible assumption
        · extract_lets +onlyGivenNames l16_0
          clear_value l16_0
          refine kept_memberFinish (hF.sub rfl) _ _ ?_
          with_reducible assumption
theorem kept_setLease (hF : Sub 4096 F) : ∀ a0 a1 a2 a3, Kept F z a0 → (Kept F z) (Sys2Proof.setLease a0 a1 a2 a3) := by
  unfold Sys2Proof.setLease
  intro v0 v1 v2 v3 v4
  refine kept_modPart (hF.sub rfl) _ _ _ ?_
  with_reducible assumption
theorem kept_endOffer (hF : Sub 134221824 F) : ∀ a0 a1, Kept F z a0 → (Kept F z) (Sys2Proof.endOffer a0 a1) := by
  unfold Sys2Proof.endOffer
  intro v0 v1 v2
  refine kept_setLease (hF.sub rfl) _ _ _ _ ?_
  refine kept_mk ?_
  with_reducible assumption
theorem kept_fabricStopped (hF : Sub 402657280 F) : ∀ a0 a1, Kept F z a0 → (Kept F z) (Sys2Proof.fabricStopped a0 a1) := by
  unfold Sys2Proof.fabricStopped
  intro v0 v1 v2
  split
  · with_reducible assumption
  · refine kept_endOffer (hF.sub rfl) _ _ ?_
    refine kept_fabTo (hF.sub rfl) _ _ _ _ ?_
    with_reducible assumption

/-! ### FlashOps -/

theorem kept_sendChunk (hF : Sub 8 F) : ∀ a0 a1 a2, Kept F z a0 → (Kept F z) (Sys2Proof.sendChunk a0 a1 a2) := by
  unfold Sys2Proof.sendChunk
  intro v0 v1 v2 v3
  extract_lets +onlyGivenNames l4_0
  clear_value l4_0
  refine kept_mk ?_
  with_reducible assumption
theorem kept_serveWaits (hF : Sub 805306368 F) : ∀ a0, Kept F z a0 → (Kept F z) (Sys2Proof.serveWaits a0) := by
  unfold Sys2Proof.serveWaits
  intro v0 v1
  refine foldl_kept (P := (Kept F z)) ?_ ?_
  · with_reducible assumption
  · intro v4 v5 v6
    refine foldl_kept (P := (Kept F z)) ?_ ?_
    · with_reducible assumption
    · intro v9 v10 v11
      split
      · split
        · extract_lets +onlyGivenNames l14_0
          clear_value l14_0
          split
          · extract_lets +onlyGivenNames l16_0
            refine (fun (el16_0 : (Kept F z) l16_0) => ?_) ?_
            rotate_left
            · refine kept_modQp (hF.sub rfl) _ _ _ ?_
              with_reducible assumption
            clear_value l16_0
            refine kept_roceRespond (hF.sub rfl) _ _ _ _ _ _ ?_
            with_reducible assumption
          · refine kept_pumpResponses (hF.sub rfl) _ _ ?_
            refine kept_modQp (hF.sub rfl) _ _ _ ?_
            with_reducible assumption
        · with_reducible assumption
      · with_reducible assumption
theorem kept_failWaits (hF : Sub 805322752 F) : ∀ a0 a1 a2 a3, Kept F z a0 → (Kept F z) (Sys2Proof.failWaits a0 a1 a2 a3) := by
  unfold Sys2Proof.failWaits
  intro v0 v1 v2 v3 v4
  extract_lets +onlyGivenNames l5_0 l5_1
  clear_value l5_0
  refine (fun (el5_1 : (Kept F z) l5_1) => ?_) ?_
  rotate_left
  · refine foldl_kept (P := (Kept F z)) ?_ ?_
    · with_reducible assumption
    · intro v8 v9 v10
      refine foldl_kept (P := (Kept F z)) ?_ ?_
      · with_reducible assumption
      · intro v13 v14 v15
        split
        · split
          · extract_lets +onlyGivenNames l18_0
            refine (fun (el18_0 : (Kept F z) l18_0) => ?_) ?_
            rotate_left
            · refine kept_modQp (hF.sub rfl) _ _ _ ?_
              with_reducible assumption
            clear_value l18_0
            split
            · refine kept_roceReply (hF.sub rfl) _ _ _ _ ?_
              with_reducible assumption
            · refine kept_sendNak (hF.sub rfl) _ _ _ _ _ _ _ ?_
              with_reducible assumption
          · with_reducible assumption
        · with_reducible assumption
  clear_value l5_1
  refine foldl_kept (P := (Kept F z)) ?_ ?_
  · with_reducible assumption
  · intro v30 v31 v32
    split
    · split
      · split
        · refine kept_putDesc (hF.sub rfl) _ _ ?_
          with_reducible assumption
        · with_reducible assumption
      · with_reducible assumption
    · with_reducible assumption
theorem kept_modRegion (hF : Sub 2147483648 F) : ∀ a0 a1 a2 a3, Kept F z a0 → (Kept F z) (Sys2Proof.modRegion a0 a1 a2 a3) := by
  unfold Sys2Proof.modRegion
  intro v0 v1 v2 v3 v4
  refine kept_modFlash (hF.sub rfl) _ _ _ ?_
  with_reducible assumption
theorem kept_drainFails (hF : Sub 10737418244 F) : ∀ a0 a1 a2, Kept F z a0 → (Kept F z) (Sys2Proof.drainFails a0 a1 a2) := by
  unfold Sys2Proof.drainFails
  intro v0 v1 v2 v3
  split
  · with_reducible assumption
  · extract_lets +onlyGivenNames l6_0
    refine (fun (el6_0 : (Kept F z) l6_0) => ?_) ?_
    rotate_left
    · refine foldl_kept (P := (Kept F z)) ?_ ?_
      · with_reducible assumption
      · intro v9 v10 v11
        refine kept_delObject (hF.sub rfl) _ _ _ ?_
        with_reducible assumption
    clear_value l6_0
    refine kept_modRegion (hF.sub rfl) _ _ _ _ ?_
    with_reducible assumption
theorem kept_restoreFails (hF : Sub 2952806400 F) : ∀ a0 a1 a2 a3, Kept F z a0 → (Kept F z) (Sys2Proof.restoreFails a0 a1 a2 a3) := by
  unfold Sys2Proof.restoreFails
  intro v0 v1 v2 v3 v4
  refine kept_modRegion (hF.sub rfl) _ _ _ _ ?_
  refine kept_failWaits (hF.sub rfl) _ _ _ _ ?_
  with_reducible assumption
theorem kept_flashStopped (hF : Sub 11542740996 F) : ∀ a0 a1 a2, Kept F z a0 → (Kept F z) (Sys2Proof.flashStopped a0 a1 a2) := by
  unfold Sys2Proof.flashStopped
  intro v0 v1 v2 v3
  split
  · with_reducible assumption
  · split
    · with_reducible assumption
    · split
      · with_reducible assumption
      · split
        · refine kept_drainFails (hF.sub rfl) _ _ _ ?_
          with_reducible assumption
        · split
          · split
            refine kept_restoreFails (hF.sub rfl) _ _ _ _ ?_
            refine snd_eq (by assumption) (?_ : OnSnd (Kept F z) (Sys2Proof.orFree _ _ _))
            refine kept_orFree (hF.sub rfl) _ _ _ ?_
            with_reducible assumption
          · with_reducible assumption
theorem kept_dropOld (hF : Sub 2147483648 F) : ∀ a0 a1, Kept F z a0 → (Kept F z) (Sys2Proof.dropOld a0 a1) := by
  unfold Sys2Proof.dropOld
  intro v0 v1 v2
  split
  · split
    · with_reducible assumption
    · refine kept_modFlash (hF.sub rfl) _ _ _ ?_
      with_reducible assumption
  · with_reducible assumption
theorem kept_removeOps (hF : Sub 2147483648 F) : ∀ a0 a1 a2, Kept F z a0 → (Kept F z) (Sys2Proof.removeOps a0 a1 a2) := by
  unfold Sys2Proof.removeOps
  intro v0 v1 v2 v3
  refine kept_mk ?_
  with_reducible assumption

/-! ### Commit -/

theorem kept_takeLocks (hF : Sub 6144 F) : ∀ a0 a1, Kept F z a0 → (OnFst (Kept F z)) (Sys2Proof.takeLocks a0 a1) := by
  unfold Sys2Proof.takeLocks
  intro v0 v1 v2
  split
  · refine fst_mk ?_
    with_reducible assumption
  · extract_lets +onlyGivenNames l6_0 l6_1 l6_2 l6_3 l6_4
    clear_value l6_0 l6_1
    refine (fun (el6_2 : (Kept F z) l6_2) => ?_) ?_
    rotate_left
    · refine kept_modPart (hF.sub rfl) _ _ _ ?_
      with_reducible assumption
    clear_value l6_2 l6_3 l6_4
    split
    · refine fst_mk ?_
      with_reducible assumption
    · split
      · refine fst_mk ?_
        with_reducible assumption
      · refine fst_mk ?_
        refine kept_count (hF.sub rfl) _ _ _ _ ?_
        with_reducible assumption
theorem kept_dispatchDesc (hF : Sub 22532 F) : ∀ a0 a1 a2 a3, Kept F z a0 → (Kept F z) (Sys2Proof.dispatchDesc a0 a1 a2 a3) := by
  unfold Sys2Proof.dispatchDesc
  intro v0 v1 v2 v3 v4
  extract_lets +onlyGivenNames l5_0 l5_1
  clear_value l5_0 l5_1
  split
  extract_lets +onlyGivenNames l7_0 l7_1 l7_2 l7_3 l7_4 l7_5
  clear_value l7_0 l7_1 l7_2 l7_3 l7_4
  refine (fun (el7_5 : (Kept F z) l7_5) => ?_) ?_
  rotate_left
  · refine kept_modRing (hF.sub rfl) _ _ _ _ ?_
    refine kept_modRing (hF.sub rfl) _ _ _ _ ?_
    refine snd_eq (by assumption) (?_ : OnSnd (Kept F z) _)
    split
    · refine kept_draw (hF.sub rfl) _ ?_
      with_reducible assumption
    · refine snd_mk ?_
      with_reducible assumption
  clear_value l7_5
  split
  · refine kept_mk ?_
    with_reducible assumption
  · extract_lets +onlyGivenNames l19_0
    clear_value l19_0
    split
    · refine kept_mk ?_
      with_reducible assumption
    · split
      refine kept_mk ?_
      refine fst_eq (by assumption) (?_ : OnFst (Kept F z) (Sys2Proof.takeLocks _ _))
      refine kept_takeLocks (hF.sub rfl) _ _ ?_
      with_reducible assumption
theorem kept_pump (hF : Sub 22556 F) : ∀ a0 a1 a2 a3 a4, Kept F z a0 → (Kept F z) (Sys2Proof.pump a0 a1 a2 a3 a4) := by
  intro a0 a1 a2 a3 a4
  induction a4 generalizing a0 with
  | zero => intro h; exact h
  | succ n ih =>
    intro h
    unfold pump
    extract_lets +onlyGivenNames l0_0
    clear_value l0_0
    split
    · with_reducible assumption
    · split
      · refine kept_ringError (hF.sub rfl) _ _ _ _ ?_
        with_reducible assumption
      · split
        · split
          · with_reducible assumption
          · extract_lets +onlyGivenNames l9_0
            clear_value l9_0
            refine ih _ ?_
            refine kept_modRing (hF.sub rfl) _ _ _ _ ?_
            with_reducible assumption
        · split
          · refine kept_ringError (hF.sub rfl) _ _ _ _ ?_
            with_reducible assumption
          · split
            · with_reducible assumption
            · split
              · split
                · with_reducible assumption
                · refine kept_modRing (hF.sub rfl) _ _ _ _ ?_
                  with_reducible assumption
              · refine ih _ ?_
                refine kept_dispatchDesc (hF.sub rfl) _ _ _ _ ?_
                with_reducible assumption
theorem kept_pumpOwner (hF : Sub 22556 F) : ∀ a0 a1 a2, Kept F z a0 → (Kept F z) (Sys2Proof.pumpOwner a0 a1 a2) := by
  unfold Sys2Proof.pumpOwner
  intro v0 v1 v2 v3
  refine foldl_kept (P := (Kept F z)) ?_ ?_
  · with_reducible assumption
  · intro v6 v7 v8
    refine kept_pump (hF.sub rfl) _ _ _ _ _ ?_
    with_reducible assumption
theorem kept_writeProgress (hF : Sub 1008 F) : ∀ a0 a1 a2 a3, Kept F z a0 → (Kept F z) (Sys2Proof.writeProgress a0 a1 a2 a3) := by
  unfold Sys2Proof.writeProgress
  intro v0 v1 v2 v3 v4
  split
  · split
    · refine kept_mk ?_
      with_reducible assumption
    · refine kept_writeLoc (hF.sub rfl) _ _ _ _ _ ?_
      with_reducible assumption
  · refine kept_writeLoc (hF.sub rfl) _ _ _ _ _ ?_
    with_reducible assumption
theorem kept_progressRecord (hF : Sub 1008 F) : ∀ a0 a1 a2, Kept F z a0 → (Kept F z) (Sys2Proof.progressRecord a0 a1 a2) := by
  unfold Sys2Proof.progressRecord
  intro v0 v1 v2 v3
  split
  · with_reducible assumption
  · split
    · with_reducible assumption
    · extract_lets +onlyGivenNames l8_0 l8_1
      clear_value l8_0 l8_1
      refine kept_writeProgress (hF.sub rfl) _ _ _ _ ?_
      with_reducible assumption
theorem kept_finalProgress (hF : Sub 1008 F) : ∀ a0 a1, Kept F z a0 → (Kept F z) (Sys2Proof.finalProgress a0 a1) := by
  unfold Sys2Proof.finalProgress
  intro v0 v1 v2
  split
  · refine kept_progressRecord (hF.sub rfl) _ _ _ ?_
    with_reducible assumption
  · with_reducible assumption
theorem kept_releaseDesc (hF : Sub 2156236800 F) : ∀ a0 a1, Kept F z a0 → (Kept F z) (Sys2Proof.releaseDesc a0 a1) := by
  unfold Sys2Proof.releaseDesc
  intro v0 v1 v2
  extract_lets +onlyGivenNames l3_0 l3_1 l3_2 l3_3 l3_4 l3_5 l3_6
  refine (fun (el3_0 : (Kept F z) l3_0) => ?_) ?_
  rotate_left
  · refine foldl_kept (P := (Kept F z)) ?_ ?_
    · with_reducible assumption
    · intro v6 v7 v8
      split
      · split
        · refine kept_unpinFrame (hF.sub rfl) _ _ ?_
          with_reducible assumption
        · with_reducible assumption
      · with_reducible assumption
  clear_value l3_0 l3_1
  refine (fun (el3_2 : (Kept F z) l3_2) => ?_) ?_
  rotate_left
  · refine kept_mk ?_
    with_reducible assumption
  clear_value l3_2
  refine (fun (el3_3 : (Kept F z) l3_3) => ?_) ?_
  rotate_left
  · refine foldl_kept (P := (Kept F z)) ?_ ?_
    · with_reducible assumption
    · intro v19 v20 v21
      refine kept_unreserve (hF.sub rfl) _ _ ?_
      with_reducible assumption
  clear_value l3_3
  refine (fun (el3_4 : (Kept F z) l3_4) => ?_) ?_
  rotate_left
  · refine foldl_kept (P := (Kept F z)) ?_ ?_
    · with_reducible assumption
    · intro v26 v27 v28
      split
      · refine kept_setFrame (hF.sub rfl) _ _ _ ?_
        with_reducible assumption
      · with_reducible assumption
  clear_value l3_4
  refine (fun (el3_5 : (Kept F z) l3_5) => ?_) ?_
  rotate_left
  · refine kept_mk ?_
    with_reducible assumption
  clear_value l3_5
  refine (fun (el3_6 : (Kept F z) l3_6) => ?_) ?_
  rotate_left
  · dsimp -zeta only [l3_6]
    split
    · refine kept_modPart (hF.sub rfl) _ _ _ ?_
      with_reducible assumption
    · with_reducible assumption
  clear_value l3_6
  refine kept_mk ?_
  with_reducible assumption
theorem kept_freeScales (hF : Sub 4096 F) : ∀ a0 a1, Kept F z a0 → (Kept F z) (Sys2Proof.freeScales a0 a1) := by
  unfold Sys2Proof.freeScales
  intro v0 v1 v2
  split
  · with_reducible assumption
  · refine foldl_kept (P := (Kept F z)) ?_ ?_
    · with_reducible assumption
    · intro v7 v8 v9
      extract_lets +onlyGivenNames l10_0
      clear_value l10_0
      split
      · with_reducible assumption
      · refine kept_freeBlocks (hF.sub rfl) _ _ _ ?_
        with_reducible assumption
theorem kept_freePatterns (hF : Sub 4096 F) : ∀ a0 a1, Kept F z a0 → (Kept F z) (Sys2Proof.freePatterns a0 a1) := by
  unfold Sys2Proof.freePatterns
  intro v0 v1 v2
  split
  · split
    · with_reducible assumption
    · refine kept_freeBlocks (hF.sub rfl) _ _ _ ?_
      with_reducible assumption
  · with_reducible assumption
theorem kept_settleLoad (hF : Sub 16384 F) : ∀ a0 a1, Kept F z a0 → (Kept F z) (Sys2Proof.settleLoad a0 a1) := by
  unfold Sys2Proof.settleLoad
  intro v0 v1 v2
  split
  · with_reducible assumption
  · extract_lets +onlyGivenNames l5_0
    clear_value l5_0
    refine kept_mk ?_
    with_reducible assumption
theorem kept_ringAfter (hF : Sub 2048 F) : ∀ a0 a1, Kept F z a0 → (Kept F z) (Sys2Proof.ringAfter a0 a1) := by
  unfold Sys2Proof.ringAfter
  intro v0 v1 v2
  split
  · with_reducible assumption
  · refine kept_modRing (hF.sub rfl) _ _ _ _ ?_
    with_reducible assumption
theorem kept_disableRing (hF : Sub 26624 F) : ∀ a0 a1 a2, Kept F z a0 → (Kept F z) (Sys2Proof.disableRing a0 a1 a2) := by
  unfold Sys2Proof.disableRing
  intro v0 v1 v2 v3
  extract_lets +onlyGivenNames l4_0 l4_1
  clear_value l4_0
  refine (fun (el4_1 : (Kept F z) l4_1) => ?_) ?_
  rotate_left
  · refine kept_mk ?_
    with_reducible assumption
  clear_value l4_1
  refine kept_modRing (hF.sub rfl) _ _ _ _ ?_
  with_reducible assumption
theorem kept_closeRing (hF : Sub 26624 F) : ∀ a0 a1 a2, Kept F z a0 → (Kept F z) (Sys2Proof.closeRing a0 a1 a2) := by
  unfold Sys2Proof.closeRing
  intro v0 v1 v2 v3
  split
  · refine kept_modRing (hF.sub rfl) _ _ _ _ ?_
    with_reducible assumption
  · refine kept_disableRing (hF.sub rfl) _ _ _ ?_
    with_reducible assumption
theorem kept_resetRing (hF : Sub 26624 F) : ∀ a0 a1 a2, Kept F z a0 → (Kept F z) (Sys2Proof.resetRing a0 a1 a2) := by
  unfold Sys2Proof.resetRing
  intro v0 v1 v2 v3
  refine kept_closeRing (hF.sub rfl) _ _ _ ?_
  refine kept_modRing (hF.sub rfl) _ _ _ _ ?_
  with_reducible assumption
theorem kept_settleRings (hF : Sub 26624 F) : ∀ a0 a1, Kept F z a0 → (Kept F z) (Sys2Proof.settleRings a0 a1) := by
  unfold Sys2Proof.settleRings
  intro v0 v1 v2
  refine foldl_kept (P := (Kept F z)) ?_ ?_
  · with_reducible assumption
  · intro v5 v6 v7
    split
    · refine kept_disableRing (hF.sub rfl) _ _ _ ?_
      with_reducible assumption
    · with_reducible assumption
theorem kept_leaveFlight (hF : Sub 47186443260 F) : ∀ a0 a1 a2, Kept F z a0 → (Kept F z) (Sys2Proof.leaveFlight a0 a1 a2) := by
  unfold Sys2Proof.leaveFlight
  intro v0 v1 v2 v3
  extract_lets +onlyGivenNames l4_0 l4_1 l4_2 l4_3 l4_4 l4_5
  refine (fun (el4_0 : (Kept F z) l4_0) => ?_) ?_
  rotate_left
  · dsimp -zeta only [l4_0]
    split
    · refine kept_logError (hF.sub rfl) _ _ _ _ _ _ ?_
      with_reducible assumption
    · with_reducible assumption
  clear_value l4_0 l4_1 l4_2 l4_3
  refine (fun (el4_4 : (Kept F z) l4_4) => ?_) ?_
  rotate_left
  · refine kept_finalProgress (hF.sub rfl) _ _ ?_
    with_reducible assumption
  clear_value l4_4 l4_5
  split
  extract_lets +onlyGivenNames l13_0 l13_1 l13_2 l13_3 l13_4 l13_5 l13_6 l13_7 l13_8 l13_9 l13_10 l13_11
  refine (fun (el13_0 : (Kept F z) l13_0) => ?_) ?_
  rotate_left
  · dsimp -zeta only [l13_0]
    split
    · refine foldl_kept (P := (Kept F z)) ?_ ?_
      · refine fst_eq (by assumption) (?_ : OnFst (Kept F z) (Sys2Proof.settleResults _ _))
        refine kept_settleResults (hF.sub rfl) _ _ ?_
        with_reducible assumption
      · intro v20 v21 v22
        refine kept_applyEffect (hF.sub rfl) _ _ ?_
        with_reducible assumption
    · split
      · refine foldl_kept (P := (Kept F z)) ?_ ?_
        · refine fst_eq (by assumption) (?_ : OnFst (Kept F z) (Sys2Proof.settleResults _ _))
          refine kept_settleResults (hF.sub rfl) _ _ ?_
          with_reducible assumption
        · intro v30 v31 v32
          refine kept_freeBlocks (hF.sub rfl) _ _ _ ?_
          with_reducible assumption
      · refine foldl_kept (P := (Kept F z)) ?_ ?_
        · refine fst_eq (by assumption) (?_ : OnFst (Kept F z) (Sys2Proof.settleResults _ _))
          refine kept_settleResults (hF.sub rfl) _ _ ?_
          with_reducible assumption
        · intro v39 v40 v41
          split
          · refine kept_freeBlocks (hF.sub rfl) _ _ _ ?_
            with_reducible assumption
          · refine foldl_kept (P := (Kept F z)) ?_ ?_
            · with_reducible assumption
            · intro v47 v48 v49
              refine kept_freeBlocks (hF.sub rfl) _ _ _ ?_
              with_reducible assumption
          · with_reducible assumption
  clear_value l13_0
  refine (fun (el13_1 : (Kept F z) l13_1) => ?_) ?_
  rotate_left
  · refine kept_releaseDesc (hF.sub rfl) _ _ ?_
    with_reducible assumption
  clear_value l13_1
  refine (fun (el13_2 : (Kept F z) l13_2) => ?_) ?_
  rotate_left
  · refine kept_mk ?_
    with_reducible assumption
  clear_value l13_2
  refine (fun (el13_3 : (Kept F z) l13_3) => ?_) ?_
  rotate_left
  · refine kept_settleLoad (hF.sub rfl) _ _ ?_
    refine kept_dropOld (hF.sub rfl) _ _ ?_
    refine kept_freePatterns (hF.sub rfl) _ _ ?_
    refine kept_freeScales (hF.sub rfl) _ _ ?_
    with_reducible assumption
  clear_value l13_3
  refine (fun (el13_4 : (Kept F z) l13_4) => ?_) ?_
  rotate_left
  · dsimp -zeta only [l13_4]
    split
    · split
      · with_reducible assumption
      · refine kept_freeTables (hF.sub rfl) _ _ ?_
        with_reducible assumption
    · with_reducible assumption
  clear_value l13_4
  refine (fun (el13_5 : (Kept F z) l13_5) => ?_) ?_
  rotate_left
  · dsimp -zeta only [l13_5]
    split
    · with_reducible assumption
    · refine kept_flashStopped (hF.sub rfl) _ _ _ ?_
      with_reducible assumption
  clear_value l13_5
  refine (fun (el13_6 : (Kept F z) l13_6) => ?_) ?_
  rotate_left
  · dsimp -zeta only [l13_6]
    split
    · with_reducible assumption
    · refine kept_mk ?_
      with_reducible assumption
  clear_value l13_6
  refine (fun (el13_7 : (Kept F z) l13_7) => ?_) ?_
  rotate_left
  · dsimp -zeta only [l13_7]
    split
    · with_reducible assumption
    · refine kept_fabricStopped (hF.sub rfl) _ _ ?_
      refine kept_netStopped (hF.sub rfl) _ _ ?_
      with_reducible assumption
  clear_value l13_7
  refine (fun (el13_8 : (Kept F z) l13_8) => ?_) ?_
  rotate_left
  · refine kept_ringAfter (hF.sub rfl) _ _ ?_
    with_reducible assumption
  clear_value l13_8
  refine (fun (el13_9 : (Kept F z) l13_9) => ?_) ?_
  rotate_left
  · refine kept_complete (hF.sub rfl) _ _ ?_
    with_reducible assumption
  clear_value l13_9
  refine (fun (el13_10 : (Kept F z) l13_10) => ?_) ?_
  rotate_left
  · dsimp -zeta only [l13_10]
    split
    · refine foldl_kept (P := (Kept F z)) ?_ ?_
      · with_reducible assumption
      · intro v93 v94 v95
        refine kept_applyEffect (hF.sub rfl) _ _ ?_
        with_reducible assumption
    · with_reducible assumption
  clear_value l13_10
  refine (fun (el13_11 : (Kept F z) l13_11) => ?_) ?_
  rotate_left
  · dsimp -zeta only [l13_11]
    split
    · refine kept_memberCommit (hF.sub rfl) _ _ ?_
      with_reducible assumption
    · with_reducible assumption
  clear_value l13_11
  refine kept_pumpOwner (hF.sub rfl) _ _ _ ?_
  refine kept_settleRings (hF.sub rfl) _ _ ?_
  with_reducible assumption
theorem kept_retire (hF : Sub 47186443260 F) : ∀ a0 a1 a2, Kept F z a0 → (Kept F z) (Sys2Proof.retire a0 a1 a2) := by
  unfold Sys2Proof.retire
  intro v0 v1 v2 v3
  split
  · refine kept_leaveFlight (hF.sub rfl) _ _ _ ?_
    refine kept_count (hF.sub rfl) _ _ _ _ ?_
    with_reducible assumption
  · refine kept_leaveFlight (hF.sub rfl) _ _ _ ?_
    with_reducible assumption
theorem kept_endNow (hF : Sub 47186443260 F) : ∀ a0 a1 a2 a3 a4 a5, Kept F z a0 → (Kept F z) (Sys2Proof.endNow a0 a1 a2 a3 a4 a5) := by
  unfold Sys2Proof.endNow
  intro v0 v1 v2 v3 v4 v5 v6
  split
  · refine kept_putDesc (hF.sub rfl) _ _ ?_
    with_reducible assumption
  · refine kept_retire (hF.sub rfl) _ _ _ ?_
    with_reducible assumption
theorem kept_mixLoc (hF : Sub 1012 F) : ∀ a0 a1 a2, Kept F z a0 → (Kept F z) (Sys2Proof.mixLoc a0 a1 a2) := by
  unfold Sys2Proof.mixLoc
  intro v0 v1 v2 v3
  extract_lets +onlyGivenNames l4_0 l4_1 l4_2 l4_3
  clear_value l4_1 l4_2
  refine (fun (el4_3 : (Kept F z) l4_3) => ?_) ?_
  rotate_left
  · refine kept_mk ?_
    with_reducible assumption
  clear_value l4_3
  split
  · refine kept_mk ?_
    with_reducible assumption
  · extract_lets +onlyGivenNames l10_0
    clear_value l10_0
    refine kept_mk ?_
    with_reducible assumption
  · extract_lets +onlyGivenNames l13_0
    clear_value l13_0
    refine kept_mk ?_
    with_reducible assumption
theorem kept_partialBytesLeft (hF : Sub 1012 F) : ∀ a0 a1, Kept F z a0 → (Kept F z) (Sys2Proof.partialBytesLeft a0 a1) := by
  unfold Sys2Proof.partialBytesLeft
  intro v0 v1 v2
  split
  · with_reducible assumption
  · split
    · with_reducible assumption
    · split
      · with_reducible assumption
      · split
        refine kept_mixLoc (hF.sub rfl) _ _ _ ?_
        refine snd_eq (by assumption) (?_ : OnSnd (Kept F z) (Sys2Proof.drawBytes _ _))
        refine kept_drawBytes (hF.sub rfl) _ _ ?_
        with_reducible assumption
theorem kept_stopDesc (hF : Sub 47186443260 F) : ∀ a0 a1 a2 a3, Kept F z a0 → (Kept F z) (Sys2Proof.stopDesc a0 a1 a2 a3) := by
  unfold Sys2Proof.stopDesc
  intro v0 v1 v2 v3 v4
  refine kept_retire (hF.sub rfl) _ _ _ ?_
  refine kept_partialBytesLeft (hF.sub rfl) _ _ ?_
  with_reducible assumption

/-! ### Turns -/

theorem kept_stationRun (hF : Sub 17180131328 F) : ∀ a0 a1 a2 a3 a4 a5 a6, Kept F z a0 → (∀ x0, (∀ x1, (Kept F z) (x1) → (Kept F z) (a6 x0 x1))) → (OnNext (Kept F z)) (Sys2Proof.stationRun a0 a1 a2 a3 a4 a5 a6) := by
  unfold Sys2Proof.stationRun
  intro v0 v1 v2 v3 v4 v5 v6 v7 v8
  split
  · refine ans_next ?_
    with_reducible assumption
  · extract_lets +onlyGivenNames l12_0
    clear_value l12_0
    split
    · refine ans_next ?_
      with_reducible assumption
    · split
      · refine ans_next ?_
        refine kept_queueAccess (hF.sub rfl) _ _ _ ?_
        with_reducible assumption
      · split
        · refine ans_next ?_
          with_reducible assumption
        · refine ans_next ?_
          refine kept_withDoms (hF.sub rfl) _ _ _ ?_ ?_
          · with_reducible assumption
          · intro v26 v27
            refine v8 _ _ ?_
            with_reducible assumption
theorem kept_endDesc (hF : Sub 16384 F) : ∀ a0 a1 a2, Kept F z a0 → (Kept F z) (Sys2Proof.endDesc a0 a1 a2) := by
  unfold Sys2Proof.endDesc
  intro v0 v1 v2 v3
  refine kept_putDesc (hF.sub rfl) _ _ ?_
  with_reducible assumption
theorem kept_noKeys (hF : Sub 16388 F) : ∀ a0 a1, Kept F z a0 → (Kept F z) (Sys2Proof.noKeys a0 a1) := by
  unfold Sys2Proof.noKeys
  intro v0 v1 v2
  split
  refine kept_endDesc (hF.sub rfl) _ _ _ ?_
  refine snd_eq (by assumption) (?_ : OnSnd (Kept F z) (Sys2Proof.draw _))
  refine kept_draw (hF.sub rfl) _ ?_
  with_reducible assumption

/-! ### Cores -/

theorem kept_takePiece (hF : Sub 8388608 F) : ∀ a0 a1 a2 a3, Kept F z a0 → (Kept F z) (Sys2Proof.takePiece a0 a1 a2 a3) := by
  unfold Sys2Proof.takePiece
  intro v0 v1 v2 v3 v4
  refine kept_mk ?_
  with_reducible assumption
theorem kept_noteFence (hF : Sub 34359738368 F) : ∀ a0 a1 a2, Kept F z a0 → (Kept F z) (Sys2Proof.noteFence a0 a1 a2) := by
  unfold Sys2Proof.noteFence
  intro v0 v1 v2 v3
  refine kept_mk ?_
  with_reducible assumption
theorem kept_postFence (hF : Sub 2072 F) : ∀ a0 a1 a2 a3 a4, Kept F z a0 → (Kept F z) (Sys2Proof.postFence a0 a1 a2 a3 a4) := by
  unfold Sys2Proof.postFence
  intro v0 v1 v2 v3 v4 v5
  extract_lets +onlyGivenNames l6_0
  refine (fun (el6_0 : (Kept F z) l6_0) => ?_) ?_
  rotate_left
  · dsimp -zeta only [l6_0]
    split
    · refine kept_postEvent (hF.sub rfl) _ _ _ _ _ _ _ _ _ ?_
      with_reducible assumption
    · with_reducible assumption
  clear_value l6_0
  refine kept_postFm (hF.sub rfl) _ _ _ _ _ _ _ ?_
  with_reducible assumption
theorem kept_dropPins (hF : Sub 65536 F) : ∀ a0 a1, Kept F z a0 → (OnFst (Kept F z)) (Sys2Proof.dropPins a0 a1) := by
  unfold Sys2Proof.dropPins
  intro v0 v1 v2
  extract_lets +onlyGivenNames l3_0
  refine (fun (el3_0 : (Kept F z) l3_0) => ?_) ?_
  rotate_left
  · refine foldl_kept (P := (Kept F z)) ?_ ?_
    · with_reducible assumption
    · intro v6 v7 v8
      split
      · split
        · refine kept_unpinFrame (hF.sub rfl) _ _ ?_
          with_reducible assumption
        · with_reducible assumption
      · with_reducible assumption
  clear_value l3_0
  refine fst_mk ?_
  with_reducible assumption
theorem kept_failDesc (hF : Sub 2147565568 F) : ∀ a0 a1 a2 a3 a4 a5, Kept F z a0 → (Kept F z) (Sys2Proof.failDesc a0 a1 a2 a3 a4 a5) := by
  unfold Sys2Proof.failDesc
  intro v0 v1 v2 v3 v4 v5 v6
  split
  refine kept_putDesc (hF.sub rfl) _ _ ?_
  refine fst_eq (by assumption) (?_ : OnFst (Kept F z) (Sys2Proof.dropPins _ _))
  refine kept_dropPins (hF.sub rfl) _ _ ?_
  refine kept_removeOps (hF.sub rfl) _ _ _ ?_
  with_reducible assumption
theorem kept_pageFail (hF : Sub 2147565568 F) : ∀ a0 a1 a2 a3 a4, Kept F z a0 → (Kept F z) (Sys2Proof.pageFail a0 a1 a2 a3 a4) := by
  unfold Sys2Proof.pageFail
  intro v0 v1 v2 v3 v4 v5
  split
  · refine kept_failDesc (hF.sub rfl) _ _ _ _ _ _ ?_
    with_reducible assumption
  · refine kept_failDesc (hF.sub rfl) _ _ _ _ _ _ ?_
    with_reducible assumption
theorem kept_endUnserved (hF : Sub 2147565568 F) : ∀ a0, Kept F z a0 → (Kept F z) (Sys2Proof.endUnserved a0) := by
  unfold Sys2Proof.endUnserved
  intro v0 v1
  refine foldl_kept (P := (Kept F z)) ?_ ?_
  · with_reducible assumption
  · intro v4 v5 v6
    split
    · split
      · split
        · refine kept_pageFail (hF.sub rfl) _ _ _ _ _ ?_
          with_reducible assumption
        · with_reducible assumption
      · with_reducible assumption
    · with_reducible assumption
theorem kept_fenceCore (hF : Sub 53695563800 F) : ∀ a0 a1, Kept F z a0 → (Kept F z) (Sys2Proof.fenceCore a0 a1) := by
  unfold Sys2Proof.fenceCore
  intro v0 v1 v2
  split
  · with_reducible assumption
  · extract_lets +onlyGivenNames l5_0 l5_1 l5_2 l5_3 l5_4
    clear_value l5_0
    refine (fun (el5_1 : (Kept F z) l5_1) => ?_) ?_
    rotate_left
    · refine kept_mk ?_
      with_reducible assumption
    clear_value l5_1
    refine (fun (el5_2 : (Kept F z) l5_2) => ?_) ?_
    rotate_left
    · refine kept_modDom (hF.sub rfl) _ _ _ ?_
      with_reducible assumption
    clear_value l5_2
    refine (fun (el5_3 : (Kept F z) l5_3) => ?_) ?_
    rotate_left
    · refine kept_logError (hF.sub rfl) _ _ _ _ _ _ ?_
      with_reducible assumption
    clear_value l5_3
    refine (fun (el5_4 : (Kept F z) l5_4) => ?_) ?_
    rotate_left
    · refine kept_noteFence (hF.sub rfl) _ _ _ ?_
      with_reducible assumption
    clear_value l5_4
    split
    · with_reducible assumption
    · extract_lets +onlyGivenNames l16_0
      refine (fun (el16_0 : (Kept F z) l16_0) => ?_) ?_
      rotate_left
      · refine kept_endUnserved (hF.sub rfl) _ ?_
        refine kept_mk ?_
        with_reducible assumption
      clear_value l16_0
      refine kept_postFence (hF.sub rfl) _ _ _ _ _ ?_
      with_reducible assumption
theorem kept_failReaders (hF : Sub 2147565568 F) : ∀ a0 a1, Kept F z a0 → (Kept F z) (Sys2Proof.failReaders a0 a1) := by
  unfold Sys2Proof.failReaders
  intro v0 v1 v2
  extract_lets +onlyGivenNames l3_0
  clear_value l3_0
  refine foldl_kept (P := (Kept F z)) ?_ ?_
  · with_reducible assumption
  · intro v6 v7 v8
    split
    · split
      · refine kept_pageFail (hF.sub rfl) _ _ _ _ _ ?_
        with_reducible assumption
      · with_reducible assumption
    · with_reducible assumption
theorem kept_aerFatal (hF : Sub 8 F) : ∀ a0 a1, Kept F z a0 → (Kept F z) (Sys2Proof.aerFatal a0 a1) := by
  unfold Sys2Proof.aerFatal
  intro v0 v1 v2
  split
  · refine foldl_kept (P := (Kept F z)) ?_ ?_
    · with_reducible assumption
    · intro v6 v7 v8
      refine kept_emit (hF.sub rfl) _ _ ?_
      with_reducible assumption
  · with_reducible assumption
theorem kept_fencePch (hF : Sub 36507600920 F) : ∀ a0 a1, Kept F z a0 → (Kept F z) (Sys2Proof.fencePch a0 a1) := by
  unfold Sys2Proof.fencePch
  intro v0 v1 v2
  split
  · with_reducible assumption
  · extract_lets +onlyGivenNames l5_0 l5_1 l5_2 l5_3 l5_4 l5_5 l5_6
    clear_value l5_0 l5_1 l5_2 l5_3
    refine (fun (el5_4 : (Kept F z) l5_4) => ?_) ?_
    rotate_left
    · refine kept_mk ?_
      with_reducible assumption
    clear_value l5_4
    refine (fun (el5_5 : (Kept F z) l5_5) => ?_) ?_
    rotate_left
    · refine foldl_kept (P := (Kept F z)) ?_ ?_
      · with_reducible assumption
      · intro v10 v11 v12
        refine kept_modExt (hF.sub rfl) _ _ _ ?_
        with_reducible assumption
    clear_value l5_5
    refine (fun (el5_6 : (Kept F z) l5_6) => ?_) ?_
    rotate_left
    · refine kept_logError (hF.sub rfl) _ _ _ _ _ _ ?_
      with_reducible assumption
    clear_value l5_6
    extract_lets +onlyGivenNames l17_0
    refine (fun (el17_0 : (Kept F z) l17_0) => ?_) ?_
    rotate_left
    · refine kept_aerFatal (hF.sub rfl) _ _ ?_
      refine kept_failReaders (hF.sub rfl) _ _ ?_
      with_reducible assumption
    clear_value l17_0
    refine foldl_kept (P := (Kept F z)) ?_ ?_
    · with_reducible assumption
    · intro v23 v24 v25
      refine kept_postFence (hF.sub rfl) _ _ _ _ _ ?_
      with_reducible assumption
theorem kept_fencePair (hF : Sub 36507601336 F) : ∀ a0 a1, Kept F z a0 → (Kept F z) (Sys2Proof.fencePair a0 a1) := by
  unfold Sys2Proof.fencePair
  intro v0 v1 v2
  split
  · with_reducible assumption
  · extract_lets +onlyGivenNames l5_0 l5_1 l5_2 l5_3 l5_4 l5_5 l5_6 l5_7 l5_8 l5_9
    clear_value l5_0 l5_1
    refine (fun (el5_2 : (Kept F z) l5_2) => ?_) ?_
    rotate_left
    · refine kept_writeBefore (hF.sub rfl) _ _ ?_
      with_reducible assumption
    clear_value l5_2
    refine (fun (el5_3 : (Kept F z) l5_3) => ?_) ?_
    rotate_left
    · refine kept_modUnit (hF.sub rfl) _ _ _ ?_
      with_reducible assumption
    clear_value l5_3
    refine (fun (el5_4 : (Kept F z) l5_4) => ?_) ?_
    rotate_left
    · refine kept_mk ?_
      with_reducible assumption
    clear_value l5_4
    refine (fun (el5_5 : (Kept F z) l5_5) => ?_) ?_
    rotate_left
    · refine kept_mk ?_
      with_reducible assumption
    clear_value l5_5
    refine (fun (el5_6 : (Kept F z) l5_6) => ?_) ?_
    rotate_left
    · refine kept_endUnserved (hF.sub rfl) _ ?_
      with_reducible assumption
    clear_value l5_6 l5_7
    refine (fun (el5_8 : (Kept F z) l5_8) => ?_) ?_
    rotate_left
    · refine kept_logError (hF.sub rfl) _ _ _ _ _ _ ?_
      with_reducible assumption
    clear_value l5_8
    refine (fun (el5_9 : (Kept F z) l5_9) => ?_) ?_
    rotate_left
    · refine kept_postFence (hF.sub rfl) _ _ _ _ _ ?_
      refine kept_noteFence (hF.sub rfl) _ _ _ ?_
      with_reducible assumption
    clear_value l5_9
    split
    · refine kept_fencePch (hF.sub rfl) _ _ ?_
      with_reducible assumption
    · with_reducible assumption
theorem kept_unitFault (hF : Sub 36507601336 F) : ∀ a0 a1 a2, Kept F z a0 → (Kept F z) (Sys2Proof.unitFault a0 a1 a2) := by
  unfold Sys2Proof.unitFault
  intro v0 v1 v2 v3
  extract_lets +onlyGivenNames l4_0 l4_1 l4_2
  clear_value l4_0
  refine (fun (el4_1 : (Kept F z) l4_1) => ?_) ?_
  rotate_left
  · refine kept_modUnit (hF.sub rfl) _ _ _ ?_
    with_reducible assumption
  clear_value l4_1 l4_2
  split
  · split
    · refine kept_fencePair (hF.sub rfl) _ _ ?_
      with_reducible assumption
    · with_reducible assumption
  · split
    · refine kept_fencePair (hF.sub rfl) _ _ ?_
      with_reducible assumption
    · with_reducible assumption

/-! ### QpOps -/

theorem kept_spillQp (hF : Sub 268443668 F) : ∀ a0 a1 a2, Kept F z a0 → (Kept F z) (Sys2Proof.spillQp a0 a1 a2) := by
  unfold Sys2Proof.spillQp
  intro v0 v1 v2 v3
  extract_lets +onlyGivenNames l4_0 l4_1 l4_2
  clear_value l4_0
  refine (fun (el4_1 : (Kept F z) l4_1) => ?_) ?_
  rotate_left
  · refine kept_modQp (hF.sub rfl) _ _ _ ?_
    with_reducible assumption
  clear_value l4_1
  refine (fun (el4_2 : (Kept F z) l4_2) => ?_) ?_
  rotate_left
  · refine kept_mk ?_
    with_reducible assumption
  clear_value l4_2
  split
  · split
    split
    extract_lets +onlyGivenNames l12_0
    clear_value l12_0
    refine kept_mk ?_
    refine snd_eq (by assumption) (?_ : OnSnd (Kept F z) (Sys2Proof.drawBytes _ _))
    refine kept_drawBytes (hF.sub rfl) _ _ ?_
    refine snd_eq (by assumption) (?_ : OnSnd (Kept F z) (Sys2Proof.draw _))
    refine kept_draw (hF.sub rfl) _ ?_
    with_reducible assumption
  · with_reducible assumption
theorem kept_takeContext (hF : Sub 268443668 F) : ∀ a0 a1 a2 a3, Kept F z a0 → (OnSome (OnSnd (Kept F z))) (Sys2Proof.takeContext a0 a1 a2 a3) := by
  unfold Sys2Proof.takeContext
  intro v0 v1 v2 v3 v4
  extract_lets +onlyGivenNames l5_0
  split
  · dsimp -zeta only [l5_0]
    extract_lets +onlyGivenNames l8_0 l8_1
    clear_value l8_0 l8_1
    refine opt_some ?_
    refine snd_mk ?_
    refine kept_mk ?_
    refine snd_of (P := (Kept F z)) ?_
    refine kept_draw (hF.sub rfl) _ ?_
    with_reducible assumption
  · split
    · exact opt_none
    · refine bind_kept Always ?_ ?_
      · exact opt_triv _
      · intro v19 v20
        dsimp -zeta only [l5_0]
        extract_lets +onlyGivenNames l22_0 l22_1
        clear_value l22_0 l22_1
        refine opt_some ?_
        refine snd_mk ?_
        refine kept_mk ?_
        refine snd_of (P := (Kept F z)) ?_
        refine kept_draw (hF.sub rfl) _ ?_
        refine kept_spillQp (hF.sub rfl) _ _ _ ?_
        with_reducible assumption
theorem kept_fabricLost (hF : Sub 47186443260 F) : ∀ a0 a1 a2, Kept F z a0 → (Kept F z) (Sys2Proof.fabricLost a0 a1 a2) := by
  unfold Sys2Proof.fabricLost
  intro v0 v1 v2 v3
  extract_lets +onlyGivenNames l4_0
  refine (fun (el4_0 : (Kept F z) l4_0) => ?_) ?_
  rotate_left
  · refine foldl_kept (P := (Kept F z)) ?_ ?_
    · with_reducible assumption
    · intro v7 v8 v9
      refine kept_homeLost (hF.sub rfl) _ _ _ ?_
      with_reducible assumption
  clear_value l4_0
  refine foldl_kept (P := (Kept F z)) ?_ ?_
  · with_reducible assumption
  · intro v14 v15 v16
    extract_lets +onlyGivenNames l17_0
    refine (fun (el17_0 : (Kept F z) l17_0) => ?_) ?_
    rotate_left
    · refine kept_endOffer (hF.sub rfl) _ _ ?_
      refine kept_fabTo (hF.sub rfl) _ _ _ _ ?_
      with_reducible assumption
    clear_value l17_0
    split
    · refine kept_endNow (hF.sub rfl) _ _ _ _ _ _ ?_
      with_reducible assumption
    · with_reducible assumption
theorem kept_qpError (hF : Sub 47186443260 F) : ∀ a0 a1, Kept F z a0 → (Kept F z) (Sys2Proof.qpError a0 a1) := by
  unfold Sys2Proof.qpError
  intro v0 v1 v2
  split
  · with_reducible assumption
  · split
    · with_reducible assumption
    · extract_lets +onlyGivenNames l7_0 l7_1 l7_2
      clear_value l7_0
      refine (fun (el7_1 : (Kept F z) l7_1) => ?_) ?_
      rotate_left
      · refine kept_modQp (hF.sub rfl) _ _ _ ?_
        with_reducible assumption
      clear_value l7_1
      refine (fun (el7_2 : (Kept F z) l7_2) => ?_) ?_
      rotate_left
      · refine foldl_kept (P := (Kept F z)) ?_ ?_
        · with_reducible assumption
        · intro v12 v13 v14
          split
          · refine kept_endNow (hF.sub rfl) _ _ _ _ _ _ ?_
            with_reducible assumption
          · with_reducible assumption
      clear_value l7_2
      split
      · refine kept_fabricLost (hF.sub rfl) _ _ _ ?_
        with_reducible assumption
      · with_reducible assumption
theorem kept_settleDrains (hF : Sub 47186443260 F) : ∀ a0, Kept F z a0 → (Kept F z) (Sys2Proof.settleDrains a0) := by
  unfold Sys2Proof.settleDrains
  intro v0 v1
  refine foldl_kept (P := (Kept F z)) ?_ ?_
  · with_reducible assumption
  · intro v4 v5 v6
    refine kept_qpError (hF.sub rfl) _ _ ?_
    with_reducible assumption
theorem kept_drainQps (hF : Sub 47186443260 F) : ∀ a0 a1, Kept F z a0 → (Kept F z) (Sys2Proof.drainQps a0 a1) := by
  unfold Sys2Proof.drainQps
  intro v0 v1 v2
  extract_lets +onlyGivenNames l3_0
  clear_value l3_0
  refine kept_settleDrains (hF.sub rfl) _ ?_
  refine kept_mk ?_
  with_reducible assumption
theorem kept_keepNonce (hF : Sub 268435456 F) : ∀ a0 a1, Kept F z a0 → (Kept F z) (Sys2Proof.keepNonce a0 a1) := by
  unfold Sys2Proof.keepNonce
  intro v0 v1 v2
  split
  · with_reducible assumption
  · refine kept_mk ?_
    with_reducible assumption
theorem kept_destroyQp (hF : Sub 47186443260 F) : ∀ a0 a1, Kept F z a0 → (Kept F z) (Sys2Proof.destroyQp a0 a1) := by
  unfold Sys2Proof.destroyQp
  intro v0 v1 v2
  extract_lets +onlyGivenNames l3_0 l3_1
  refine (fun (el3_0 : (Kept F z) l3_0) => ?_) ?_
  rotate_left
  · refine kept_keepNonce (hF.sub rfl) _ _ ?_
    refine kept_qpError (hF.sub rfl) _ _ ?_
    with_reducible assumption
  clear_value l3_0 l3_1
  refine kept_mk ?_
  with_reducible assumption
theorem kept_changeQp (hF : Sub 47186443260 F) : ∀ a0 a1, Kept F z a0 → (Kept F z) (Sys2Proof.changeQp a0 a1) := by
  unfold Sys2Proof.changeQp
  intro v0 v1 v2
  split
  · refine kept_mk ?_
    with_reducible assumption
  · refine kept_qpError (hF.sub rfl) _ _ ?_
    with_reducible assumption
  · refine kept_drainQps (hF.sub rfl) _ _ ?_
    with_reducible assumption
  · refine kept_modQp (hF.sub rfl) _ _ _ ?_
    with_reducible assumption
  · extract_lets +onlyGivenNames l12_0
    refine (fun (el12_0 : (Kept F z) l12_0) => ?_) ?_
    rotate_left
    · refine kept_keepNonce (hF.sub rfl) _ _ ?_
      with_reducible assumption
    clear_value l12_0
    refine kept_modQp (hF.sub rfl) _ _ _ ?_
    with_reducible assumption
  · refine kept_modQp (hF.sub rfl) _ _ _ ?_
    with_reducible assumption
  · refine kept_destroyQp (hF.sub rfl) _ _ ?_
    with_reducible assumption
theorem kept_changeQps (hF : Sub 47186443260 F) : ∀ a0 a1, Kept F z a0 → (Kept F z) (Sys2Proof.changeQps a0 a1) := by
  unfold Sys2Proof.changeQps
  intro v0 v1 v2
  refine foldl_kept (P := (Kept F z)) ?_ ?_
  · with_reducible assumption
  · intro v5 v6 v7
    split
    · refine kept_changeQp (hF.sub rfl) _ _ ?_
      with_reducible assumption
    · with_reducible assumption
theorem kept_closeLane (hF : Sub 47186443260 F) : ∀ a0 a1 a2, Kept F z a0 → (Kept F z) (Sys2Proof.closeLane a0 a1 a2) := by
  unfold Sys2Proof.closeLane
  intro v0 v1 v2 v3
  split
  · with_reducible assumption
  · split
    · with_reducible assumption
    · extract_lets +onlyGivenNames l8_0
      refine (fun (el8_0 : (Kept F z) l8_0) => ?_) ?_
      rotate_left
      · refine kept_modQp (hF.sub rfl) _ _ _ ?_
        with_reducible assumption
      clear_value l8_0
      split
      · refine kept_qpError (hF.sub rfl) _ _ ?_
        with_reducible assumption
      · extract_lets +onlyGivenNames l14_0
        refine (fun (el14_0 : (Kept F z) l14_0) => ?_) ?_
        rotate_left
        · refine kept_modQp (hF.sub rfl) _ _ _ ?_
          with_reducible assumption
        clear_value l14_0
        refine kept_sendCtl (hF.sub rfl) _ _ _ _ _ _ _ ?_
        with_reducible assumption
theorem kept_closeDead (hF : Sub 47186443260 F) : ∀ a0 a1, Kept F z a0 → Kept F z a1 → (Kept F z) (Sys2Proof.closeDead a0 a1) := by
  unfold Sys2Proof.closeDead
  intro v0 v1 v2 v3
  refine foldl_kept (P := (Kept F z)) ?_ ?_
  · with_reducible assumption
  · intro v6 v7 v8
    refine foldl_kept (P := (Kept F z)) ?_ ?_
    · with_reducible assumption
    · intro v11 v12 v13
      split
      · refine kept_closeLane (hF.sub rfl) _ _ _ ?_
        with_reducible assumption
      · with_reducible assumption

/-! ### MboxOps -/

theorem kept_mboxReply (hF : Sub 12 F) : ∀ a0 a1 a2 a3 a4 a5 a6 a7 a8, Kept F z a0 → (Kept F z) (Sys2Proof.mboxReply a0 a1 a2 a3 a4 a5 a6 a7 a8) := by
  unfold Sys2Proof.mboxReply
  intro v0 v1 v2 v3 v4 v5 v6 v7 v8 v9
  split
  split
  refine kept_emit (hF.sub rfl) _ _ ?_
  refine snd_eq (by assumption) (?_ : OnSnd (Kept F z) (Sys2Proof.orFree _ _ _))
  refine kept_orFree (hF.sub rfl) _ _ _ ?_
  refine snd_eq (by assumption) (?_ : OnSnd (Kept F z) (Sys2Proof.orFree _ _ _))
  refine kept_orFree (hF.sub rfl) _ _ _ ?_
  with_reducible assumption
theorem kept_mboxFenced (hF : Sub 12 F) : ∀ a0 a1 a2 a3, Kept F z a0 → (Kept F z) (Sys2Proof.mboxFenced a0 a1 a2 a3) := by
  unfold Sys2Proof.mboxFenced
  intro v0 v1 v2 v3 v4
  split
  refine kept_mboxReply (hF.sub rfl) _ _ _ _ _ _ _ _ _ ?_
  refine snd_eq (by assumption) (?_ : OnSnd (Kept F z) (Sys2Proof.draw _))
  refine kept_draw (hF.sub rfl) _ ?_
  with_reducible assumption
theorem kept_mboxRun (hF : Sub 12 F) : ∀ a0 a1 a2 a3 a4 a5 a6, Kept F z a0 → (∀ x0, (Kept F z) (a6 x0)) → (Kept F z) (Sys2Proof.mboxRun a0 a1 a2 a3 a4 a5 a6) := by
  unfold Sys2Proof.mboxRun
  intro v0 v1 v2 v3 v4 v5 v6 v7 v8
  split
  · with_reducible assumption
  · split
    · with_reducible assumption
    · extract_lets +onlyGivenNames l13_0
      clear_value l13_0
      split
      · refine kept_emit (hF.sub rfl) _ _ ?_
        with_reducible assumption
      · split
        · refine kept_mboxReply (hF.sub rfl) _ _ _ _ _ _ _ _ _ ?_
          with_reducible assumption
        · split
          · split
            · refine kept_emit (hF.sub rfl) _ _ ?_
              with_reducible assumption
            · split
              · refine kept_mboxFenced (hF.sub rfl) _ _ _ _ ?_
                with_reducible assumption
              · split
                · refine kept_mboxReply (hF.sub rfl) _ _ _ _ _ _ _ _ _ ?_
                  with_reducible assumption
                · refine v8 _
          · split
            · refine kept_mboxReply (hF.sub rfl) _ _ _ _ _ _ _ _ _ ?_
              with_reducible assumption
            · refine v8 _

end Sys2Proof.Laws
end

