-- ==== Sys2Proof/Laws/KeptPower.lean ====
section
/-!
SUPPORT. What the definitions of the ports, faults, start-up, CXL.mem and power keep (Laws/Kept.lean).
-/
namespace Sys2Proof.Laws

set_option maxRecDepth 4000

set_option Elab.async false

open Sys2Proof.Machine (State Fault Refusal)

variable {z : State} {F : Nat}

/-! ### Ports -/

theorem kept_sendPause (hF : Sub 8 F) : ∀ a0 a1 a2 a3 a4, Kept F z a0 → (Kept F z) (Sys2Proof.sendPause a0 a1 a2 a3 a4) := by
  unfold Sys2Proof.sendPause
  intro v0 v1 v2 v3 v4 v5
  split
  · refine kept_emit (hF.sub rfl) _ _ ?_
    with_reducible assumption
  · with_reducible assumption
theorem kept_releaseIngress (hF : Sub 536870920 F) : ∀ a0 a1 a2, Kept F z a0 → (Kept F z) (Sys2Proof.releaseIngress a0 a1 a2) := by
  unfold Sys2Proof.releaseIngress
  intro v0 v1 v2 v3
  split
  · with_reducible assumption
  · extract_lets +onlyGivenNames l6_0 l6_1
    refine (fun (el6_0 : (Kept F z) l6_0) => ?_) ?_
    rotate_left
    · refine kept_modLink (hF.sub rfl) _ _ _ _ ?_
      with_reducible assumption
    clear_value l6_0 l6_1
    split
    · extract_lets +onlyGivenNames l10_0
      refine (fun (el10_0 : (Kept F z) l10_0) => ?_) ?_
      rotate_left
      · refine kept_modLink (hF.sub rfl) _ _ _ _ ?_
        with_reducible assumption
      clear_value l10_0
      split
      · refine kept_sendPause (hF.sub rfl) _ _ _ _ _ ?_
        with_reducible assumption
      · with_reducible assumption
    · with_reducible assumption
theorem kept_dropQueued (hF : Sub 536870920 F) : ∀ a0 a1 a2 a3 a4, Kept F z a0 → (Kept F z) (Sys2Proof.dropQueued a0 a1 a2 a3 a4) := by
  unfold Sys2Proof.dropQueued
  intro v0 v1 v2 v3 v4 v5
  extract_lets +onlyGivenNames l6_0 l6_1
  clear_value l6_0
  refine (fun (el6_1 : (Kept F z) l6_1) => ?_) ?_
  rotate_left
  · refine kept_modLink (hF.sub rfl) _ _ _ _ ?_
    with_reducible assumption
  clear_value l6_1
  refine foldl_kept (P := (Kept F z)) ?_ ?_
  · with_reducible assumption
  · intro v11 v12 v13
    extract_lets +onlyGivenNames l14_0
    refine (fun (el14_0 : (Kept F z) l14_0) => ?_) ?_
    rotate_left
    · refine kept_releaseIngress (hF.sub rfl) _ _ _ ?_
      with_reducible assumption
    clear_value l14_0
    split
    · refine kept_countNode (hF.sub rfl) _ _ ?_
      with_reducible assumption
    · with_reducible assumption
theorem kept_execPacketForward (hF : Sub 536870920 F) : ∀ a0 a1 a2, Kept F z a2 → (OnNext (Kept F z)) (Sys2Proof.Machine.execPacketForward a0 a1 a2) := by
  unfold Sys2Proof.Machine.execPacketForward
  intro v0 v1 v2 v3
  split
  · refine ans_next ?_
    with_reducible assumption
  · split
    · refine ans_next ?_
      refine opt_eq (by assumption) (?_ : OnSome (Kept F z) (Sys2Proof.portDiscard _ _ _ _ _))
      refine kept_portDiscard (hF.sub rfl) _ _ _ _ _ ?_
      with_reducible assumption
    · split
      · refine ans_next ?_
        refine kept_countNode (hF.sub rfl) _ _ ?_
        with_reducible assumption
      · extract_lets +onlyGivenNames l16_0 l16_1
        clear_value l16_0
        refine (fun (el16_1 : (Kept F z) l16_1) => ?_) ?_
        rotate_left
        · refine kept_queueFrame (hF.sub rfl) _ _ _ _ ?_
          with_reducible assumption
        clear_value l16_1
        split
        · refine ans_next ?_
          with_reducible assumption
        · extract_lets +onlyGivenNames l22_0 l22_1
          refine (fun (el22_0 : (Kept F z) l22_0) => ?_) ?_
          rotate_left
          · refine kept_modLink (hF.sub rfl) _ _ _ _ ?_
            with_reducible assumption
          clear_value l22_0 l22_1
          split
          · refine ans_next ?_
            refine kept_sendPause (hF.sub rfl) _ _ _ _ _ ?_
            refine kept_modLink (hF.sub rfl) _ _ _ _ ?_
            with_reducible assumption
          · refine ans_next ?_
            with_reducible assumption
theorem kept_execFrameTransmit (hF : Sub 17716740105 F) : ∀ a0 a1 a2 a3 a4, Kept F z a4 → (OnNext (Kept F z)) (Sys2Proof.Machine.execFrameTransmit a0 a1 a2 a3 a4) := by
  unfold Sys2Proof.Machine.execFrameTransmit
  intro v0 v1 v2 v3 v4 v5
  extract_lets +onlyGivenNames l6_0 l6_1 l6_2 l6_3
  clear_value l6_0 l6_1 l6_2 l6_3
  split
  · refine ans_next ?_
    with_reducible assumption
  · extract_lets +onlyGivenNames l10_0 l10_1 l10_2
    clear_value l10_0 l10_1 l10_2
    split
    · split
      · refine ans_next ?_
        with_reducible assumption
      · extract_lets +onlyGivenNames l15_0 l15_1
        refine (fun (el15_0 : (Kept F z) l15_0) => ?_) ?_
        rotate_left
        · refine kept_modLink (hF.sub rfl) _ _ _ _ ?_
          refine kept_atTime (hF.sub rfl) _ _ ?_
          with_reducible assumption
        clear_value l15_0
        refine (fun (el15_1 : (Kept F z) l15_1) => ?_) ?_
        rotate_left
        · refine kept_modDom (hF.sub rfl) _ _ _ ?_
          with_reducible assumption
        clear_value l15_1
        refine ans_next ?_
        refine kept_emit (hF.sub rfl) _ _ ?_
        refine kept_releaseIngress (hF.sub rfl) _ _ _ ?_
        with_reducible assumption
    · split
      · refine ans_next ?_
        with_reducible assumption
      · extract_lets +onlyGivenNames l28_0 l28_1
        refine (fun (el28_0 : (Kept F z) l28_0) => ?_) ?_
        rotate_left
        · refine kept_modLink (hF.sub rfl) _ _ _ _ ?_
          refine kept_atTime (hF.sub rfl) _ _ ?_
          with_reducible assumption
        clear_value l28_0
        refine (fun (el28_1 : (Kept F z) l28_1) => ?_) ?_
        rotate_left
        · refine kept_modDom (hF.sub rfl) _ _ _ ?_
          with_reducible assumption
        clear_value l28_1
        refine ans_next ?_
        refine kept_emit (hF.sub rfl) _ _ ?_
        refine kept_releaseIngress (hF.sub rfl) _ _ _ ?_
        with_reducible assumption
theorem kept_execFrameDiscard (hF : Sub 536870912 F) : ∀ a0 a1 a2 a3, Kept F z a3 → (OnNext (Kept F z)) (Sys2Proof.Machine.execFrameDiscard a0 a1 a2 a3) := by
  unfold Sys2Proof.Machine.execFrameDiscard
  intro v0 v1 v2 v3 v4
  extract_lets +onlyGivenNames l5_0
  split
  · refine ans_next ?_
    with_reducible assumption
  · split
    · refine ans_next ?_
      dsimp -zeta only [l5_0]
      refine kept_modPort (hF.sub rfl) _ _ _ ?_
      with_reducible assumption
    · refine ans_next ?_
      dsimp -zeta only [l5_0]
      refine kept_modPort (hF.sub rfl) _ _ _ ?_
      with_reducible assumption
    · refine ans_next ?_
      dsimp -zeta only [l5_0]
      refine kept_modPort (hF.sub rfl) _ _ _ ?_
      with_reducible assumption
    · refine ans_next ?_
      refine kept_countNode (hF.sub rfl) _ _ ?_
      with_reducible assumption
    · refine ans_next ?_
      refine kept_countNode (hF.sub rfl) _ _ ?_
      with_reducible assumption
theorem kept_execPauseReceive (hF : Sub 536870913 F) : ∀ a0 a1 a2 a3 a4 a5, Kept F z a5 → (OnNext (Kept F z)) (Sys2Proof.Machine.execPauseReceive a0 a1 a2 a3 a4 a5) := by
  unfold Sys2Proof.Machine.execPauseReceive
  intro v0 v1 v2 v3 v4 v5 v6
  split
  · refine ans_next ?_
    with_reducible assumption
  · split
    · refine ans_next ?_
      refine kept_countNode (hF.sub rfl) _ _ ?_
      refine kept_modPort (hF.sub rfl) _ _ _ ?_
      with_reducible assumption
    · extract_lets +onlyGivenNames l15_0
      refine (fun (el15_0 : (Kept F z) l15_0) => ?_) ?_
      rotate_left
      · refine kept_atTime (hF.sub rfl) _ _ ?_
        with_reducible assumption
      clear_value l15_0
      refine ans_next ?_
      refine kept_modLink (hF.sub rfl) _ _ _ _ ?_
      with_reducible assumption
theorem kept_execPauseTimeExpire (hF : Sub 536870913 F) : ∀ a0 a1 a2 a3 a4, Kept F z a4 → (OnNext (Kept F z)) (Sys2Proof.Machine.execPauseTimeExpire a0 a1 a2 a3 a4) := by
  unfold Sys2Proof.Machine.execPauseTimeExpire
  intro v0 v1 v2 v3 v4 v5
  extract_lets +onlyGivenNames l6_0
  clear_value l6_0
  split
  · refine ans_next ?_
    refine kept_modLink (hF.sub rfl) _ _ _ _ ?_
    refine kept_atTime (hF.sub rfl) _ _ ?_
    with_reducible assumption
  · refine ans_next ?_
    with_reducible assumption
theorem kept_execPauseRefresh (hF : Sub 8 F) : ∀ a0 a1 a2 a3, Kept F z a3 → (OnNext (Kept F z)) (Sys2Proof.Machine.execPauseRefresh a0 a1 a2 a3) := by
  unfold Sys2Proof.Machine.execPauseRefresh
  intro v0 v1 v2 v3 v4
  extract_lets +onlyGivenNames l5_0
  clear_value l5_0
  split
  · refine ans_next ?_
    refine kept_sendPause (hF.sub rfl) _ _ _ _ _ ?_
    with_reducible assumption
  · refine ans_next ?_
    with_reducible assumption
theorem kept_execRemotePauseLimit (hF : Sub 47186443261 F) : ∀ a0 a1 a2 a3 a4, Kept F z a4 → (OnNext (Kept F z)) (Sys2Proof.Machine.execRemotePauseLimit a0 a1 a2 a3 a4) := by
  unfold Sys2Proof.Machine.execRemotePauseLimit
  intro v0 v1 v2 v3 v4 v5
  extract_lets +onlyGivenNames l6_0
  clear_value l6_0
  split
  · refine ans_next ?_
    with_reducible assumption
  · split
    · refine ans_next ?_
      with_reducible assumption
    · extract_lets +onlyGivenNames l13_0 l13_1
      refine (fun (el13_0 : (Kept F z) l13_0) => ?_) ?_
      rotate_left
      · refine kept_atTime (hF.sub rfl) _ _ ?_
        with_reducible assumption
      clear_value l13_0
      refine (fun (el13_1 : (Kept F z) l13_1) => ?_) ?_
      rotate_left
      · refine kept_settleLink (hF.sub rfl) _ _ _ ?_
        refine kept_modLink (hF.sub rfl) _ _ _ _ ?_
        refine kept_dropQueued (hF.sub rfl) _ _ _ _ _ ?_
        with_reducible assumption
      clear_value l13_1
      refine ans_next ?_
      refine kept_closeDead (hF.sub rfl) _ _ ?_ ?_
      · with_reducible assumption
      · refine kept_postFm (hF.sub rfl) _ _ _ _ _ _ _ ?_
        with_reducible assumption
theorem kept_execOwnPauseLimit (hF : Sub 536870921 F) : ∀ a0 a1 a2 a3 a4, Kept F z a4 → (OnNext (Kept F z)) (Sys2Proof.Machine.execOwnPauseLimit a0 a1 a2 a3 a4) := by
  unfold Sys2Proof.Machine.execOwnPauseLimit
  intro v0 v1 v2 v3 v4 v5
  extract_lets +onlyGivenNames l6_0
  clear_value l6_0
  split
  · refine ans_next ?_
    with_reducible assumption
  · split
    · refine ans_next ?_
      with_reducible assumption
    · refine ans_next ?_
      refine kept_sendPause (hF.sub rfl) _ _ _ _ _ ?_
      refine kept_modLink (hF.sub rfl) _ _ _ _ ?_
      refine kept_atTime (hF.sub rfl) _ _ ?_
      with_reducible assumption
theorem kept_failAdjacency (hF : Sub 536870912 F) : ∀ a0 a1 a2, Kept F z a0 → (Kept F z) (Sys2Proof.failAdjacency a0 a1 a2) := by
  unfold Sys2Proof.failAdjacency
  intro v0 v1 v2 v3
  refine kept_modLink (hF.sub rfl) _ _ _ _ ?_
  with_reducible assumption
theorem kept_adjacencyEvent (hF : Sub 2072 F) : ∀ a0 a1 a2, Kept F z a0 → (Kept F z) (Sys2Proof.adjacencyEvent a0 a1 a2) := by
  unfold Sys2Proof.adjacencyEvent
  intro v0 v1 v2 v3
  extract_lets +onlyGivenNames l4_0
  clear_value l4_0
  refine kept_postFm (hF.sub rfl) _ _ _ _ _ _ _ ?_
  with_reducible assumption
theorem kept_settleAdjacent (hF : Sub 536872984 F) : ∀ a0 a1 a2, Kept F z a0 → (Kept F z) (Sys2Proof.settleAdjacent a0 a1 a2) := by
  unfold Sys2Proof.settleAdjacent
  intro v0 v1 v2 v3
  extract_lets +onlyGivenNames l4_0 l4_1
  clear_value l4_0 l4_1
  split
  · with_reducible assumption
  · refine kept_settleLink (hF.sub rfl) _ _ _ ?_
    refine kept_adjacencyEvent (hF.sub rfl) _ _ _ ?_
    split
    · refine kept_modLink (hF.sub rfl) _ _ _ _ ?_
      with_reducible assumption
    · refine kept_failAdjacency (hF.sub rfl) _ _ _ ?_
      with_reducible assumption
theorem kept_execPhyUp (hF : Sub 536870913 F) : ∀ a0 a1 a2 a3, Kept F z a3 → (OnNext (Kept F z)) (Sys2Proof.Machine.execPhyUp a0 a1 a2 a3) := by
  unfold Sys2Proof.Machine.execPhyUp
  intro v0 v1 v2 v3 v4
  split
  · refine ans_next ?_
    with_reducible assumption
  · extract_lets +onlyGivenNames l8_0
    refine (fun (el8_0 : (Kept F z) l8_0) => ?_) ?_
    rotate_left
    · refine kept_atTime (hF.sub rfl) _ _ ?_
      with_reducible assumption
    clear_value l8_0
    refine ans_next ?_
    refine kept_settleLink (hF.sub rfl) _ _ _ ?_
    refine kept_modLink (hF.sub rfl) _ _ _ _ ?_
    with_reducible assumption
theorem kept_loseLink (hF : Sub 47186443260 F) : ∀ a0 a1 a2 a3, Kept F z a0 → Kept F z a1 → (Kept F z) (Sys2Proof.loseLink a0 a1 a2 a3) := by
  unfold Sys2Proof.loseLink
  intro v0 v1 v2 v3 v4 v5
  refine kept_closeDead (hF.sub rfl) _ _ ?_ ?_
  · with_reducible assumption
  · refine kept_settleLink (hF.sub rfl) _ _ _ ?_
    refine kept_dropQueued (hF.sub rfl) _ _ _ _ _ ?_
    with_reducible assumption
theorem kept_execPhyDown (hF : Sub 47186443261 F) : ∀ a0 a1 a2 a3, Kept F z a3 → (OnNext (Kept F z)) (Sys2Proof.Machine.execPhyDown a0 a1 a2 a3) := by
  unfold Sys2Proof.Machine.execPhyDown
  intro v0 v1 v2 v3 v4
  extract_lets +onlyGivenNames l5_0
  clear_value l5_0
  split
  · refine ans_next ?_
    with_reducible assumption
  · extract_lets +onlyGivenNames l9_0 l9_1 l9_2 l9_3
    refine (fun (el9_0 : (Kept F z) l9_0) => ?_) ?_
    rotate_left
    · refine kept_atTime (hF.sub rfl) _ _ ?_
      with_reducible assumption
    clear_value l9_0
    refine (fun (el9_1 : (Kept F z) l9_1) => ?_) ?_
    rotate_left
    · dsimp -zeta only [l9_1]
      split
      · refine kept_failAdjacency (hF.sub rfl) _ _ _ ?_
        with_reducible assumption
      · with_reducible assumption
    clear_value l9_1
    refine (fun (el9_2 : (Kept F z) l9_2) => ?_) ?_
    rotate_left
    · refine kept_modLink (hF.sub rfl) _ _ _ _ ?_
      with_reducible assumption
    clear_value l9_2
    refine (fun (el9_3 : (Kept F z) l9_3) => ?_) ?_
    rotate_left
    · dsimp -zeta only [l9_3]
      split
      · refine kept_adjacencyEvent (hF.sub rfl) _ _ _ ?_
        with_reducible assumption
      · with_reducible assumption
    clear_value l9_3
    refine ans_next ?_
    refine kept_loseLink (hF.sub rfl) _ _ _ _ ?_ ?_
    · with_reducible assumption
    · with_reducible assumption
theorem kept_execLldpSend (hF : Sub 536870921 F) : ∀ a0 a1 a2 a3, Kept F z a3 → (OnNext (Kept F z)) (Sys2Proof.Machine.execLldpSend a0 a1 a2 a3) := by
  unfold Sys2Proof.Machine.execLldpSend
  intro v0 v1 v2 v3 v4
  extract_lets +onlyGivenNames l5_0 l5_1
  clear_value l5_0 l5_1
  split
  · refine ans_next ?_
    with_reducible assumption
  · extract_lets +onlyGivenNames l9_0 l9_1
    refine (fun (el9_0 : (Kept F z) l9_0) => ?_) ?_
    rotate_left
    · refine kept_atTime (hF.sub rfl) _ _ ?_
      with_reducible assumption
    clear_value l9_0 l9_1
    refine ans_next ?_
    refine kept_emit (hF.sub rfl) _ _ ?_
    refine kept_modLink (hF.sub rfl) _ _ _ _ ?_
    with_reducible assumption
theorem kept_execLldpReceive (hF : Sub 47186443261 F) : ∀ a0 a1 a2 a3 a4, Kept F z a4 → (OnNext (Kept F z)) (Sys2Proof.Machine.execLldpReceive a0 a1 a2 a3 a4) := by
  unfold Sys2Proof.Machine.execLldpReceive
  intro v0 v1 v2 v3 v4 v5
  extract_lets +onlyGivenNames l6_0
  clear_value l6_0
  split
  · refine ans_next ?_
    with_reducible assumption
  · extract_lets +onlyGivenNames l10_0 l10_1
    refine (fun (el10_0 : (Kept F z) l10_0) => ?_) ?_
    rotate_left
    · refine kept_atTime (hF.sub rfl) _ _ ?_
      with_reducible assumption
    clear_value l10_0 l10_1
    split
    · extract_lets +onlyGivenNames l14_0 l14_1 l14_2
      refine (fun (el14_0 : (Kept F z) l14_0) => ?_) ?_
      rotate_left
      · dsimp -zeta only [l14_0]
        split
        · refine kept_adjacencyEvent (hF.sub rfl) _ _ _ ?_
          refine kept_failAdjacency (hF.sub rfl) _ _ _ ?_
          with_reducible assumption
        · with_reducible assumption
      clear_value l14_0
      refine (fun (el14_1 : (Kept F z) l14_1) => ?_) ?_
      rotate_left
      · refine kept_modLink (hF.sub rfl) _ _ _ _ ?_
        with_reducible assumption
      clear_value l14_1
      refine (fun (el14_2 : (Kept F z) l14_2) => ?_) ?_
      rotate_left
      · refine kept_postFm (hF.sub rfl) _ _ _ _ _ _ _ ?_
        with_reducible assumption
      clear_value l14_2
      refine ans_next ?_
      refine kept_closeDead (hF.sub rfl) _ _ ?_ ?_
      · with_reducible assumption
      · refine kept_settleLink (hF.sub rfl) _ _ _ ?_
        with_reducible assumption
    · extract_lets +onlyGivenNames l30_0 l30_1 l30_2 l30_3 l30_4 l30_5 l30_6
      clear_value l30_0 l30_1
      refine (fun (el30_2 : (Kept F z) l30_2) => ?_) ?_
      rotate_left
      · dsimp -zeta only [l30_2]
        split
        · refine kept_postFm (hF.sub rfl) _ _ _ _ _ _ _ ?_
          refine kept_mk ?_
          with_reducible assumption
        · with_reducible assumption
      clear_value l30_2 l30_3
      refine (fun (el30_4 : (Kept F z) l30_4) => ?_) ?_
      rotate_left
      · dsimp -zeta only [l30_4]
        split
        · refine kept_failAdjacency (hF.sub rfl) _ _ _ ?_
          with_reducible assumption
        · with_reducible assumption
      clear_value l30_4
      refine (fun (el30_5 : (Kept F z) l30_5) => ?_) ?_
      rotate_left
      · refine kept_modLink (hF.sub rfl) _ _ _ _ ?_
        with_reducible assumption
      clear_value l30_5 l30_6
      extract_lets +onlyGivenNames l44_0
      refine (fun (el44_0 : (Kept F z) l44_0) => ?_) ?_
      rotate_left
      · dsimp -zeta only [l44_0]
        split
        · refine kept_adjacencyEvent (hF.sub rfl) _ _ _ ?_
          with_reducible assumption
        · with_reducible assumption
      clear_value l44_0
      refine ans_next ?_
      refine kept_closeDead (hF.sub rfl) _ _ ?_ ?_
      · with_reducible assumption
      · refine kept_settleLink (hF.sub rfl) _ _ _ ?_
        with_reducible assumption
theorem kept_execLldpTtlExpire (hF : Sub 47186443261 F) : ∀ a0 a1 a2 a3, Kept F z a3 → (OnNext (Kept F z)) (Sys2Proof.Machine.execLldpTtlExpire a0 a1 a2 a3) := by
  unfold Sys2Proof.Machine.execLldpTtlExpire
  intro v0 v1 v2 v3 v4
  extract_lets +onlyGivenNames l5_0
  clear_value l5_0
  split
  · split
    · refine ans_next ?_
      with_reducible assumption
    · extract_lets +onlyGivenNames l10_0 l10_1 l10_2 l10_3
      refine (fun (el10_0 : (Kept F z) l10_0) => ?_) ?_
      rotate_left
      · refine kept_atTime (hF.sub rfl) _ _ ?_
        with_reducible assumption
      clear_value l10_0
      refine (fun (el10_1 : (Kept F z) l10_1) => ?_) ?_
      rotate_left
      · dsimp -zeta only [l10_1]
        split
        · refine kept_failAdjacency (hF.sub rfl) _ _ _ ?_
          with_reducible assumption
        · with_reducible assumption
      clear_value l10_1
      refine (fun (el10_2 : (Kept F z) l10_2) => ?_) ?_
      rotate_left
      · refine kept_modLink (hF.sub rfl) _ _ _ _ ?_
        with_reducible assumption
      clear_value l10_2
      refine (fun (el10_3 : (Kept F z) l10_3) => ?_) ?_
      rotate_left
      · dsimp -zeta only [l10_3]
        split
        · refine kept_adjacencyEvent (hF.sub rfl) _ _ _ ?_
          with_reducible assumption
        · with_reducible assumption
      clear_value l10_3
      refine ans_next ?_
      refine kept_closeDead (hF.sub rfl) _ _ ?_ ?_
      · with_reducible assumption
      · refine kept_settleLink (hF.sub rfl) _ _ _ ?_
        with_reducible assumption
  · refine ans_next ?_
    with_reducible assumption
theorem kept_execLinkReturn (hF : Sub 536870913 F) : ∀ a0 a1 a2 a3, Kept F z a3 → (OnNext (Kept F z)) (Sys2Proof.Machine.execLinkReturn a0 a1 a2 a3) := by
  unfold Sys2Proof.Machine.execLinkReturn
  intro v0 v1 v2 v3 v4
  extract_lets +onlyGivenNames l5_0
  clear_value l5_0
  split
  · split
    · refine ans_next ?_
      refine kept_modLink (hF.sub rfl) _ _ _ _ ?_
      refine kept_atTime (hF.sub rfl) _ _ ?_
      with_reducible assumption
    · refine ans_next ?_
      with_reducible assumption
  · refine ans_next ?_
    with_reducible assumption
theorem kept_execPortLinkEnable (hF : Sub 536870912 F) : ∀ a0 a1 a2, Kept F z a2 → (OnNext (Kept F z)) (Sys2Proof.Machine.execPortLinkEnable a0 a1 a2) := by
  unfold Sys2Proof.Machine.execPortLinkEnable
  intro v0 v1 v2 v3
  split
  · refine ans_next ?_
    with_reducible assumption
  · refine ans_next ?_
    refine kept_settleLink (hF.sub rfl) _ _ _ ?_
    refine kept_modLink (hF.sub rfl) _ _ _ _ ?_
    with_reducible assumption
theorem kept_execPortLinkDisable (hF : Sub 47186443261 F) : ∀ a0 a1 a2 a3, Kept F z a3 → (OnNext (Kept F z)) (Sys2Proof.Machine.execPortLinkDisable a0 a1 a2 a3) := by
  unfold Sys2Proof.Machine.execPortLinkDisable
  intro v0 v1 v2 v3 v4
  split
  · refine ans_next ?_
    with_reducible assumption
  · extract_lets +onlyGivenNames l8_0
    refine (fun (el8_0 : (Kept F z) l8_0) => ?_) ?_
    rotate_left
    · refine kept_atTime (hF.sub rfl) _ _ ?_
      with_reducible assumption
    clear_value l8_0
    refine ans_next ?_
    refine kept_loseLink (hF.sub rfl) _ _ _ _ ?_ ?_
    · with_reducible assumption
    · refine kept_modLink (hF.sub rfl) _ _ _ _ ?_
      with_reducible assumption
theorem kept_execPortDownClear (hF : Sub 536870913 F) : ∀ a0 a1 a2 a3, Kept F z a3 → (OnNext (Kept F z)) (Sys2Proof.Machine.execPortDownClear a0 a1 a2 a3) := by
  unfold Sys2Proof.Machine.execPortDownClear
  intro v0 v1 v2 v3 v4
  refine ans_next ?_
  refine foldl_kept (P := (Kept F z)) ?_ ?_
  · refine kept_atTime (hF.sub rfl) _ _ ?_
    with_reducible assumption
  · intro v9 v10 v11
    refine kept_settleLink (hF.sub rfl) _ _ _ ?_
    refine kept_modLink (hF.sub rfl) _ _ _ _ ?_
    with_reducible assumption
theorem kept_execShaperRefill (hF : Sub 536870913 F) : ∀ a0 a1, Kept F z a1 → (OnNext (Kept F z)) (Sys2Proof.Machine.execShaperRefill a0 a1) := by
  unfold Sys2Proof.Machine.execShaperRefill
  intro v0 v1 v2
  split
  · refine ans_next ?_
    with_reducible assumption
  · extract_lets +onlyGivenNames l6_0
    refine (fun (el6_0 : (Kept F z) l6_0) => ?_) ?_
    rotate_left
    · refine kept_atTime (hF.sub rfl) _ _ ?_
      with_reducible assumption
    clear_value l6_0
    refine ans_next ?_
    refine kept_mk ?_
    with_reducible assumption
theorem kept_execGateEntryAdvance (hF : Sub 536870913 F) : ∀ a0 a1 a2, Kept F z a2 → (OnNext (Kept F z)) (Sys2Proof.Machine.execGateEntryAdvance a0 a1 a2) := by
  unfold Sys2Proof.Machine.execGateEntryAdvance
  intro v0 v1 v2 v3
  extract_lets +onlyGivenNames l4_0 l4_1
  clear_value l4_0 l4_1
  split
  · refine ans_next ?_
    with_reducible assumption
  · refine ans_next ?_
    refine kept_modPort (hF.sub rfl) _ _ _ ?_
    refine kept_atTime (hF.sub rfl) _ _ ?_
    with_reducible assumption
theorem kept_execGateTakeover (hF : Sub 536870913 F) : ∀ a0 a1 a2, Kept F z a2 → (OnNext (Kept F z)) (Sys2Proof.Machine.execGateTakeover a0 a1 a2) := by
  unfold Sys2Proof.Machine.execGateTakeover
  intro v0 v1 v2 v3
  extract_lets +onlyGivenNames l4_0
  clear_value l4_0
  split
  · refine ans_next ?_
    with_reducible assumption
  · refine ans_next ?_
    refine kept_modPort (hF.sub rfl) _ _ _ ?_
    refine kept_atTime (hF.sub rfl) _ _ ?_
    with_reducible assumption
theorem kept_execGateArm (hF : Sub 536870913 F) : ∀ a0 a1 a2 a3, Kept F z a3 → (OnNext (Kept F z)) (Sys2Proof.Machine.execGateArm a0 a1 a2 a3) := by
  unfold Sys2Proof.Machine.execGateArm
  intro v0 v1 v2 v3 v4
  split
  · refine ans_next ?_
    with_reducible assumption
  · extract_lets +onlyGivenNames l8_0
    refine (fun (el8_0 : (Kept F z) l8_0) => ?_) ?_
    rotate_left
    · refine kept_atTime (hF.sub rfl) _ _ ?_
      with_reducible assumption
    clear_value l8_0
    refine ans_next ?_
    refine kept_modPort (hF.sub rfl) _ _ _ ?_
    with_reducible assumption
theorem kept_execGateClear (hF : Sub 536870912 F) : ∀ a0 a1 a2, Kept F z a2 → (OnNext (Kept F z)) (Sys2Proof.Machine.execGateClear a0 a1 a2) := by
  unfold Sys2Proof.Machine.execGateClear
  intro v0 v1 v2 v3
  split
  · refine ans_next ?_
    with_reducible assumption
  · refine ans_next ?_
    refine kept_modPort (hF.sub rfl) _ _ _ ?_
    with_reducible assumption
theorem kept_execNodeIdWrite (hF : Sub 47186443260 F) : ∀ a0 a1, Kept F z a1 → (OnNext (Kept F z)) (Sys2Proof.Machine.execNodeIdWrite a0 a1) := by
  unfold Sys2Proof.Machine.execNodeIdWrite
  intro v0 v1 v2
  extract_lets +onlyGivenNames l3_0
  clear_value l3_0
  refine ans_next ?_
  refine kept_closeDead (hF.sub rfl) _ _ ?_ ?_
  · with_reducible assumption
  · refine kept_mk ?_
    with_reducible assumption
theorem kept_execForwardingEntryWrite (hF : Sub 47186443260 F) : ∀ a0 a1 a2, Kept F z a2 → (OnNext (Kept F z)) (Sys2Proof.Machine.execForwardingEntryWrite a0 a1 a2) := by
  unfold Sys2Proof.Machine.execForwardingEntryWrite
  intro v0 v1 v2 v3
  split
  · refine ans_next ?_
    with_reducible assumption
  · refine ans_next ?_
    refine kept_closeDead (hF.sub rfl) _ _ ?_ ?_
    · with_reducible assumption
    · refine kept_mk ?_
      with_reducible assumption
theorem kept_execForeignEntryWrite (hF : Sub 47186443260 F) : ∀ a0 a1 a2, Kept F z a2 → (OnNext (Kept F z)) (Sys2Proof.Machine.execForeignEntryWrite a0 a1 a2) := by
  unfold Sys2Proof.Machine.execForeignEntryWrite
  intro v0 v1 v2 v3
  split
  · refine ans_next ?_
    with_reducible assumption
  · extract_lets +onlyGivenNames l7_0 l7_1 l7_2
    clear_value l7_0 l7_1 l7_2
    refine ans_next ?_
    refine kept_closeDead (hF.sub rfl) _ _ ?_ ?_
    · with_reducible assumption
    · refine kept_mk ?_
      with_reducible assumption

/-! ### FaultOps -/

theorem kept_commandOn (hF : Sub 17179869184 F) : ∀ a0 a1, Kept F z a0 → (Kept F z) (Sys2Proof.commandOn a0 a1) := by
  unfold Sys2Proof.commandOn
  intro v0 v1 v2
  refine foldl_kept (P := (Kept F z)) ?_ ?_
  · with_reducible assumption
  · intro v5 v6 v7
    extract_lets +onlyGivenNames l8_0 l8_1
    refine (fun (el8_0 : (Kept F z) l8_0) => ?_) ?_
    rotate_left
    · refine kept_modDom (hF.sub rfl) _ _ _ ?_
      with_reducible assumption
    clear_value l8_0 l8_1
    split
    · with_reducible assumption
    · refine kept_modDom (hF.sub rfl) _ _ _ ?_
      with_reducible assumption
theorem kept_stopService (hF : Sub 3087288320 F) : ∀ a0, Kept F z a0 → (Kept F z) (Sys2Proof.stopService a0) := by
  unfold Sys2Proof.stopService
  intro v0 v1
  refine kept_mk ?_
  with_reducible assumption
theorem kept_enterFault (hF : Sub 124420115424 F) : ∀ a0 a1 a2 a3, Kept F z a0 → (Kept F z) (Sys2Proof.enterFault a0 a1 a2 a3) := by
  unfold Sys2Proof.enterFault
  intro v0 v1 v2 v3 v4
  split
  · with_reducible assumption
  · extract_lets +onlyGivenNames l7_0 l7_1
    refine (fun (el7_0 : (Kept F z) l7_0) => ?_) ?_
    rotate_left
    · refine kept_stopService (hF.sub rfl) _ ?_
      refine kept_logError (hF.sub rfl) _ _ _ _ _ _ ?_
      with_reducible assumption
    clear_value l7_0
    extract_lets +onlyGivenNames l11_0
    refine (fun (el11_0 : (Kept F z) l11_0) => ?_) ?_
    rotate_left
    · refine kept_mk ?_
      with_reducible assumption
    clear_value l11_0
    split
    · with_reducible assumption
    · refine kept_mk ?_
      with_reducible assumption
theorem kept_modModule (hF : Sub 34359738368 F) : ∀ a0 a1 a2 a3, Kept F z a0 → (Kept F z) (Sys2Proof.modModule a0 a1 a2 a3) := by
  unfold Sys2Proof.modModule
  intro v0 v1 v2 v3 v4
  refine kept_mk ?_
  with_reducible assumption
theorem kept_portsDown (hF : Sub 47186443260 F) : ∀ a0 a1, Kept F z a0 → (Kept F z) (Sys2Proof.portsDown a0 a1) := by
  unfold Sys2Proof.portsDown
  intro v0 v1 v2
  refine foldl_kept (P := (Kept F z)) ?_ ?_
  · with_reducible assumption
  · intro v5 v6 v7
    extract_lets +onlyGivenNames l8_0
    clear_value l8_0
    split
    · refine kept_loseLink (hF.sub rfl) _ _ _ _ ?_ ?_
      · with_reducible assumption
      · refine kept_modLink (hF.sub rfl) _ _ _ _ ?_
        with_reducible assumption
    · with_reducible assumption
theorem kept_linkGone (hF : Sub 133085789180 F) : ∀ a0 a1, Kept F z a0 → (Kept F z) (Sys2Proof.linkGone a0 a1) := by
  unfold Sys2Proof.linkGone
  intro v0 v1 v2
  split
  · refine foldl_kept (P := (Kept F z)) ?_ ?_
    · with_reducible assumption
    · intro v6 v7 v8
      refine kept_fencePch (hF.sub rfl) _ _ ?_
      with_reducible assumption
  · split
    · split
      · refine kept_portsDown (hF.sub rfl) _ _ ?_
        with_reducible assumption
      · with_reducible assumption
    · split
      · refine kept_enterFault (hF.sub rfl) _ _ _ _ ?_
        refine kept_aerFatal (hF.sub rfl) _ _ ?_
        with_reducible assumption
      · refine foldl_kept (P := (Kept F z)) ?_ ?_
        · with_reducible assumption
        · intro v22 v23 v24
          split
          · refine kept_portsDown (hF.sub rfl) _ _ ?_
            with_reducible assumption
          · with_reducible assumption
theorem kept_fenceModule (hF : Sub 133085789180 F) : ∀ a0 a1 a2, Kept F z a0 → (Kept F z) (Sys2Proof.fenceModule a0 a1 a2) := by
  unfold Sys2Proof.fenceModule
  intro v0 v1 v2 v3
  split
  · with_reducible assumption
  · extract_lets +onlyGivenNames l6_0 l6_1
    refine (fun (el6_0 : (Kept F z) l6_0) => ?_) ?_
    rotate_left
    · refine kept_modModule (hF.sub rfl) _ _ _ _ ?_
      with_reducible assumption
    clear_value l6_0
    refine (fun (el6_1 : (Kept F z) l6_1) => ?_) ?_
    rotate_left
    · refine kept_noteFence (hF.sub rfl) _ _ _ ?_
      refine kept_logError (hF.sub rfl) _ _ _ _ _ _ ?_
      with_reducible assumption
    clear_value l6_1
    split
    · refine kept_linkGone (hF.sub rfl) _ _ ?_
      with_reducible assumption
    · with_reducible assumption

/-! ### BootOps -/

theorem kept_enterLoader (hF : Sub 207232172032 F) : ∀ a0, Kept F z a0 → (Kept F z) (Sys2Proof.enterLoader a0) := by
  unfold Sys2Proof.enterLoader
  intro v0 v1
  refine kept_mk ?_
  with_reducible assumption
theorem kept_readFuses (hF : Sub 241591910404 F) : ∀ a0 a1 a2, Kept F z a0 → (Kept F z) (Sys2Proof.readFuses a0 a1 a2) := by
  intro a0 a1 a2 h
  unfold readFuses
  extract_lets +onlyGivenNames f life f' g bad b s
  have hf : FusesKept a0.boot.fuses f' := by
    show FusesKept f f'
    show FusesKept f (if life = .manufacture ∧ f.seed = 0 ∧ a1 % 2 ^ 256 ≠ 0 then _ else f)
    split
    · rename_i hc
      refine ⟨rfl, rfl, rfl, rfl, ?_, ?_, fun _ h => h, fun _ h => h, fun _ h => h, fun _ _ h _ => h⟩
      · intro k _ hk; rw [hc.2.1] at hk; simp at hk
      · intro k hk; exact testBit_or_left hk
    · exact fusesKept_refl _
  have hs : Kept F z s := by
    exact kept_mk (x := a0) h (hf := .inr hf)
  clear_value s g
  extract_lets +onlyGivenNames l0_0
  refine (fun (el0_0 : (Kept F z) l0_0) => ?_) ?_
  rotate_left
  · dsimp -zeta only [l0_0]
    split
    · refine kept_logError (hF.sub rfl) _ _ _ _ _ _ ?_
      refine snd_of (P := (Kept F z)) ?_
      refine kept_draw (hF.sub rfl) _ ?_
      refine snd_of (P := (Kept F z)) ?_
      refine kept_draw (hF.sub rfl) _ ?_
      with_reducible assumption
    · with_reducible assumption
  clear_value l0_0
  split
  · refine kept_enterLoader (hF.sub rfl) _ ?_
    with_reducible assumption
  · refine kept_mk ?_
    with_reducible assumption
theorem kept_newAlias (hF : Sub 8589934592 F) : ∀ a0, Kept F z a0 → (Kept F z) (Sys2Proof.newAlias a0) := by
  unfold Sys2Proof.newAlias
  intro v0 v1
  split
  · with_reducible assumption
  · refine kept_mk ?_
    with_reducible assumption
theorem kept_logFaultOnly (hF : Sub 34359738368 F) : ∀ a0 a1 a2, Kept F z a0 → (Kept F z) (Sys2Proof.logFaultOnly a0 a1 a2) := by
  unfold Sys2Proof.logFaultOnly
  intro v0 v1 v2 v3
  extract_lets +onlyGivenNames l4_0
  clear_value l4_0
  refine kept_mk ?_
  with_reducible assumption
theorem kept_keepFlash (hF : Sub 2147483648 F) : ∀ a0 a1, Kept F z a0 → (Kept F z) (Sys2Proof.keepFlash a0 a1) := by
  unfold Sys2Proof.keepFlash
  intro v0 v1 v2
  extract_lets +onlyGivenNames l3_0
  clear_value l3_0
  split
  · with_reducible assumption
  · extract_lets +onlyGivenNames l6_0
    clear_value l6_0
    refine kept_mk ?_
    with_reducible assumption
theorem kept_resetNode (hF : Sub 274877906943 F) : ∀ a0 a1 a2, Kept F z a0 → (Kept F z) (Sys2Proof.resetNode a0 a1 a2) := by
  intro a0 a1 a2 h
  unfold resetNode
  extract_lets +onlyGivenNames k y on
  clear_value on
  exact kept_mk (x := a0) h (hb := .inr fun _ => rfl) (hs := .inr fun _ => rfl) (ho := .inr fun _ => rfl) (hq := .inr fun _ => rfl) (hc := .inr fun _ => rfl)
    (hd := .inr fun _ => rfl) (hf := .inl rfl)

/-! ### Boot -/

theorem kept_execPwrMate (hF : Sub 68719476736 F) : ∀ a0, Kept F z a0 → (OnNext (Kept F z)) (Sys2Proof.Machine.execPwrMate a0) := by
  unfold Sys2Proof.Machine.execPwrMate
  intro v0 v1
  split
  · refine ans_next ?_
    refine kept_mk ?_
    with_reducible assumption
  · refine ans_next ?_
    with_reducible assumption
theorem kept_execPowerGood (hF : Sub 85899345920 F) : ∀ a0 a1 a2 a3, Kept F z a3 → (OnNext (Kept F z)) (Sys2Proof.Machine.execPowerGood a0 a1 a2 a3) := by
  unfold Sys2Proof.Machine.execPowerGood
  intro v0 v1 v2 v3 v4
  split
  · refine ans_next ?_
    with_reducible assumption
  · extract_lets +onlyGivenNames l8_0
    clear_value l8_0
    refine ans_next ?_
    refine kept_mk ?_
    with_reducible assumption
theorem kept_execInputBrownout (hF : Sub 274877906943 F) : ∀ a0, Kept F z a0 → (OnNext (Kept F z)) (Sys2Proof.Machine.execInputBrownout a0) := by
  unfold Sys2Proof.Machine.execInputBrownout
  intro v0 v1
  split
  · extract_lets +onlyGivenNames l3_0
    refine (fun (el3_0 : (Kept F z) l3_0) => ?_) ?_
    rotate_left
    · refine kept_resetNode (hF.sub rfl) _ _ _ ?_
      with_reducible assumption
    clear_value l3_0
    refine ans_next ?_
    refine kept_mk ?_
    with_reducible assumption
  · refine ans_next ?_
    with_reducible assumption
theorem kept_latchInput (hF : Sub 124420115424 F) : ∀ a0, Kept F z a0 → (Kept F z) (Sys2Proof.latchInput a0) := by
  unfold Sys2Proof.latchInput
  intro v0 v1
  split
  · with_reducible assumption
  · extract_lets +onlyGivenNames l4_0
    extract_lets +onlyGivenNames l5_0
    refine (fun (el5_0 : (Kept F z) l5_0) => ?_) ?_
    rotate_left
    · dsimp -zeta only [l5_0]
      split
      · refine kept_mk ?_
        with_reducible assumption
      · refine kept_enterFault (hF.sub rfl) _ _ _ _ ?_
        with_reducible assumption
    clear_value l5_0
    refine kept_mk ?_
    with_reducible assumption
theorem kept_execInputOvervoltage (hF : Sub 124420115424 F) : ∀ a0, Kept F z a0 → (OnNext (Kept F z)) (Sys2Proof.Machine.execInputOvervoltage a0) := by
  unfold Sys2Proof.Machine.execInputOvervoltage
  intro v0 v1
  refine ans_next ?_
  refine kept_latchInput (hF.sub rfl) _ ?_
  with_reducible assumption
theorem kept_execInputOvercurrent (hF : Sub 124420115424 F) : ∀ a0, Kept F z a0 → (OnNext (Kept F z)) (Sys2Proof.Machine.execInputOvercurrent a0) := by
  unfold Sys2Proof.Machine.execInputOvercurrent
  intro v0 v1
  refine ans_next ?_
  refine kept_latchInput (hF.sub rfl) _ ?_
  with_reducible assumption
theorem kept_execInputUndervoltage (hF : Sub 274877906943 F) : ∀ a0, Kept F z a0 → (OnNext (Kept F z)) (Sys2Proof.Machine.execInputUndervoltage a0) := by
  unfold Sys2Proof.Machine.execInputUndervoltage
  intro v0 v1
  split
  · refine ans_next ?_
    with_reducible assumption
  · extract_lets +onlyGivenNames l5_0
    refine (fun (el5_0 : (Kept F z) l5_0) => ?_) ?_
    rotate_left
    · refine kept_resetNode (hF.sub rfl) _ _ _ ?_
      with_reducible assumption
    clear_value l5_0
    refine ans_next ?_
    refine kept_mk ?_
    with_reducible assumption
theorem kept_execInputLatchReleaseLow (hF : Sub 274877906943 F) : ∀ a0, Kept F z a0 → (OnNext (Kept F z)) (Sys2Proof.Machine.execInputLatchReleaseLow a0) := by
  unfold Sys2Proof.Machine.execInputLatchReleaseLow
  intro v0 v1
  split
  · refine ans_next ?_
    with_reducible assumption
  · extract_lets +onlyGivenNames l5_0
    refine (fun (el5_0 : (Kept F z) l5_0) => ?_) ?_
    rotate_left
    · refine kept_resetNode (hF.sub rfl) _ _ _ ?_
      with_reducible assumption
    clear_value l5_0
    refine ans_next ?_
    refine kept_mk ?_
    with_reducible assumption
theorem kept_execResetLatchRelease (hF : Sub 274877906943 F) : ∀ a0, Kept F z a0 → (OnNext (Kept F z)) (Sys2Proof.Machine.execResetLatchRelease a0) := by
  unfold Sys2Proof.Machine.execResetLatchRelease
  intro v0 v1
  split
  · refine ans_next ?_
    with_reducible assumption
  · extract_lets +onlyGivenNames l5_0
    refine (fun (el5_0 : (Kept F z) l5_0) => ?_) ?_
    rotate_left
    · refine kept_resetNode (hF.sub rfl) _ _ _ ?_
      with_reducible assumption
    clear_value l5_0
    refine ans_next ?_
    refine kept_mk ?_
    with_reducible assumption
theorem kept_execFuseReadDone (hF : Sub 241591910404 F) : ∀ a0 a1, Kept F z a1 → (OnNext (Kept F z)) (Sys2Proof.Machine.execFuseReadDone a0 a1) := by
  unfold Sys2Proof.Machine.execFuseReadDone
  intro v0 v1 v2
  split
  · refine ans_next ?_
    with_reducible assumption
  · extract_lets +onlyGivenNames l6_0
    refine (fun (el6_0 : (Kept F z) l6_0) => ?_) ?_
    rotate_left
    · refine kept_readFuses (hF.sub rfl) _ _ _ ?_
      with_reducible assumption
    clear_value l6_0
    refine ans_next ?_
    split
    · refine kept_enterLoader (hF.sub rfl) _ ?_
      refine kept_mk ?_
      with_reducible assumption
    · with_reducible assumption
theorem kept_execRailsRamped (hF : Sub 85899345923 F) : ∀ a0, Kept F z a0 → (OnNext (Kept F z)) (Sys2Proof.Machine.execRailsRamped a0) := by
  unfold Sys2Proof.Machine.execRailsRamped
  intro v0 v1
  split
  · refine ans_next ?_
    with_reducible assumption
  · refine ans_next ?_
    refine kept_mk ?_
    with_reducible assumption
theorem kept_execPerstRelease (hF : Sub 68719476737 F) : ∀ a0 a1, Kept F z a1 → (OnNext (Kept F z)) (Sys2Proof.Machine.execPerstRelease a0 a1) := by
  unfold Sys2Proof.Machine.execPerstRelease
  intro v0 v1 v2
  split
  · refine ans_next ?_
    with_reducible assumption
  · extract_lets +onlyGivenNames l6_0
    refine (fun (el6_0 : (Kept F z) l6_0) => ?_) ?_
    rotate_left
    · refine kept_atTime (hF.sub rfl) _ _ ?_
      with_reducible assumption
    clear_value l6_0
    refine ans_next ?_
    refine kept_mk ?_
    with_reducible assumption
theorem kept_execCxlLinkTrained (hF : Sub 69793218560 F) : ∀ a0 a1 a2 a3 a4, Kept F z a4 → (OnNext (Kept F z)) (Sys2Proof.Machine.execCxlLinkTrained a0 a1 a2 a3 a4) := by
  unfold Sys2Proof.Machine.execCxlLinkTrained
  dsimp only
  intro v0 v1 v2 v3 v4 v5
  split
  · refine ans_next ?_
    with_reducible assumption
  · split
    · refine ans_next ?_
      refine kept_mk ?_
      with_reducible assumption
    · split
      · refine ans_next ?_
        refine kept_mk ?_
        with_reducible assumption
      · refine ans_next ?_
        with_reducible assumption
theorem kept_bootSlot (hF : Sub 81604378624 F) : ∀ a0 a1, Kept F z a0 → (Kept F z) (Sys2Proof.bootSlot a0 a1) := by
  unfold Sys2Proof.bootSlot
  intro v0 v1 v2
  extract_lets +onlyGivenNames l3_0
  refine (fun (el3_0 : (Kept F z) l3_0) => ?_) ?_
  rotate_left
  · refine kept_newAlias (hF.sub rfl) _ ?_
    with_reducible assumption
  clear_value l3_0
  refine kept_mk ?_
  with_reducible assumption
theorem kept_execImagesVerified (hF : Sub 254476812292 F) : ∀ a0 a1 a2, Kept F z a2 → (OnNext (Kept F z)) (Sys2Proof.Machine.execImagesVerified a0 a1 a2) := by
  unfold Sys2Proof.Machine.execImagesVerified
  intro v0 v1 v2 v3
  split
  · refine ans_next ?_
    with_reducible assumption
  · extract_lets +onlyGivenNames l7_0 l7_1
    clear_value l7_0 l7_1
    split
    · refine ans_next ?_
      refine kept_bootSlot (hF.sub rfl) _ _ ?_
      with_reducible assumption
    · split
      extract_lets +onlyGivenNames l13_0
      refine (fun (el13_0 : (Kept F z) l13_0) => ?_) ?_
      rotate_left
      · refine kept_logFaultOnly (hF.sub rfl) _ _ _ ?_
        refine snd_eq (by assumption) (?_ : OnSnd (Kept F z) (Sys2Proof.draw _))
        refine kept_draw (hF.sub rfl) _ ?_
        with_reducible assumption
      clear_value l13_0
      split
      · refine ans_next ?_
        refine kept_bootSlot (hF.sub rfl) _ _ ?_
        with_reducible assumption
      · refine ans_next ?_
        refine kept_enterLoader (hF.sub rfl) _ ?_
        with_reducible assumption
theorem kept_execProcessorsReleased (hF : Sub 85899345920 F) : ∀ a0, Kept F z a0 → (OnNext (Kept F z)) (Sys2Proof.Machine.execProcessorsReleased a0) := by
  unfold Sys2Proof.Machine.execProcessorsReleased
  intro v0 v1
  split
  · refine ans_next ?_
    with_reducible assumption
  · extract_lets +onlyGivenNames l5_0
    clear_value l5_0
    refine ans_next ?_
    refine kept_mk ?_
    with_reducible assumption
theorem kept_execHbmTrained (hF : Sub 105227077656 F) : ∀ a0 a1, Kept F z a1 → (OnNext (Kept F z)) (Sys2Proof.Machine.execHbmTrained a0 a1) := by
  unfold Sys2Proof.Machine.execHbmTrained
  intro v0 v1 v2
  split
  · refine ans_next ?_
    with_reducible assumption
  · extract_lets +onlyGivenNames l6_0 l6_1
    clear_value l6_0
    refine (fun (el6_1 : (Kept F z) l6_1) => ?_) ?_
    rotate_left
    · refine foldl_kept (P := (Kept F z)) ?_ ?_
      · with_reducible assumption
      · intro v9 v10 v11
        refine foldl_kept (P := (Kept F z)) ?_ ?_
        · with_reducible assumption
        · intro v14 v15 v16
          refine kept_fencePch (hF.sub rfl) _ _ ?_
          with_reducible assumption
    clear_value l6_1
    refine ans_next ?_
    refine kept_mk ?_
    with_reducible assumption
theorem kept_applyFence (hF : Sub 51548291072 F) : ∀ a0 a1, Kept F z a0 → (Kept F z) (Sys2Proof.applyFence a0 a1) := by
  unfold Sys2Proof.applyFence
  intro v0 v1 v2
  split
  · refine kept_modDom (hF.sub rfl) _ _ _ ?_
    refine kept_mk ?_
    with_reducible assumption
  · refine kept_modUnit (hF.sub rfl) _ _ _ ?_
    with_reducible assumption
  · extract_lets +onlyGivenNames l9_0
    clear_value l9_0
    extract_lets +onlyGivenNames l10_0
    refine (fun (el10_0 : (Kept F z) l10_0) => ?_) ?_
    rotate_left
    · refine kept_mk ?_
      with_reducible assumption
    clear_value l10_0
    refine foldl_kept (P := (Kept F z)) ?_ ?_
    · with_reducible assumption
    · intro v15 v16 v17
      refine kept_modExt (hF.sub rfl) _ _ _ ?_
      with_reducible assumption
  · refine kept_modModule (hF.sub rfl) _ _ _ _ ?_
    with_reducible assumption
theorem kept_mapSpares (hF : Sub 17196646400 F) : ∀ a0, Kept F z a0 → (Kept F z) (Sys2Proof.mapSpares a0) := by
  unfold Sys2Proof.mapSpares
  intro v0 v1
  refine foldl_kept (P := (Kept F z)) ?_ ?_
  · with_reducible assumption
  · intro v4 v5 v6
    split
    · split
      · refine kept_modDom (hF.sub rfl) _ _ _ ?_
        refine kept_mk ?_
        with_reducible assumption
      · with_reducible assumption
    · with_reducible assumption
theorem kept_execStartupClearDone (hF : Sub 133102567420 F) : ∀ a0 a1 a2 a3, Kept F z a3 → (OnNext (Kept F z)) (Sys2Proof.Machine.execStartupClearDone a0 a1 a2 a3) := by
  unfold Sys2Proof.Machine.execStartupClearDone
  intro v0 v1 v2 v3 v4
  split
  · refine ans_next ?_
    with_reducible assumption
  · extract_lets +onlyGivenNames l8_0 l8_1 l8_2 l8_3 l8_4 l8_5 l8_6 l8_7
    clear_value l8_0
    refine (fun (el8_1 : (Kept F z) l8_1) => ?_) ?_
    rotate_left
    · refine kept_mk ?_
      with_reducible assumption
    clear_value l8_1
    refine (fun (el8_2 : (Kept F z) l8_2) => ?_) ?_
    rotate_left
    · refine foldl_kept (P := (Kept F z)) ?_ ?_
      · with_reducible assumption
      · intro v13 v14 v15
        refine kept_applyFence (hF.sub rfl) _ _ ?_
        with_reducible assumption
    clear_value l8_2
    refine (fun (el8_3 : (Kept F z) l8_3) => ?_) ?_
    rotate_left
    · refine foldl_kept (P := (Kept F z)) ?_ ?_
      · with_reducible assumption
      · intro v20 v21 v22
        split
        · refine kept_linkGone (hF.sub rfl) _ _ ?_
          with_reducible assumption
        · with_reducible assumption
    clear_value l8_3
    refine (fun (el8_4 : (Kept F z) l8_4) => ?_) ?_
    rotate_left
    · refine foldl_kept (P := (Kept F z)) ?_ ?_
      · with_reducible assumption
      · intro v29 v30 v31
        refine kept_fenceCore (hF.sub rfl) _ _ ?_
        with_reducible assumption
    clear_value l8_4
    refine (fun (el8_5 : (Kept F z) l8_5) => ?_) ?_
    rotate_left
    · refine foldl_kept (P := (Kept F z)) ?_ ?_
      · with_reducible assumption
      · intro v36 v37 v38
        refine kept_fencePair (hF.sub rfl) _ _ ?_
        with_reducible assumption
    clear_value l8_5
    refine (fun (el8_6 : (Kept F z) l8_6) => ?_) ?_
    rotate_left
    · refine foldl_kept (P := (Kept F z)) ?_ ?_
      · with_reducible assumption
      · intro v43 v44 v45
        refine kept_fenceModule (hF.sub rfl) _ _ _ ?_
        with_reducible assumption
    clear_value l8_6
    refine (fun (el8_7 : (Kept F z) l8_7) => ?_) ?_
    rotate_left
    · refine kept_mapSpares (hF.sub rfl) _ ?_
      with_reducible assumption
    clear_value l8_7
    refine ans_next ?_
    refine kept_mk ?_
    with_reducible assumption
theorem kept_execMemoryActive (hF : Sub 68719476737 F) : ∀ a0 a1, Kept F z a1 → (OnNext (Kept F z)) (Sys2Proof.Machine.execMemoryActive a0 a1) := by
  unfold Sys2Proof.Machine.execMemoryActive
  intro v0 v1 v2
  split
  · refine ans_next ?_
    with_reducible assumption
  · extract_lets +onlyGivenNames l6_0
    refine (fun (el6_0 : (Kept F z) l6_0) => ?_) ?_
    rotate_left
    · refine kept_atTime (hF.sub rfl) _ _ ?_
      with_reducible assumption
    clear_value l6_0
    refine ans_next ?_
    refine kept_mk ?_
    with_reducible assumption
theorem kept_warmReset (hF : Sub 274877906943 F) : ∀ a0, Kept F z a0 → (Kept F z) (Sys2Proof.warmReset a0) := by
  unfold Sys2Proof.warmReset
  intro v0 v1
  extract_lets +onlyGivenNames l2_0
  refine (fun (el2_0 : (Kept F z) l2_0) => ?_) ?_
  rotate_left
  · refine kept_readFuses (hF.sub rfl) _ _ _ ?_
    refine kept_resetNode (hF.sub rfl) _ _ _ ?_
    with_reducible assumption
  clear_value l2_0
  refine kept_mk ?_
  with_reducible assumption
theorem kept_restartFromT0 (hF : Sub 274877906943 F) : ∀ a0, Kept F z a0 → (Kept F z) (Sys2Proof.restartFromT0 a0) := by
  unfold Sys2Proof.restartFromT0
  intro v0 v1
  extract_lets +onlyGivenNames l2_0
  refine (fun (el2_0 : (Kept F z) l2_0) => ?_) ?_
  rotate_left
  · refine kept_resetNode (hF.sub rfl) _ _ _ ?_
    with_reducible assumption
  clear_value l2_0
  refine kept_mk ?_
  with_reducible assumption
theorem kept_coldReset (hF : Sub 274877906943 F) : ∀ a0, Kept F z a0 → (Kept F z) (Sys2Proof.coldReset a0) := by
  unfold Sys2Proof.coldReset
  intro v0 v1
  extract_lets +onlyGivenNames l2_0
  refine (fun (el2_0 : (Kept F z) l2_0) => ?_) ?_
  rotate_left
  · refine kept_resetNode (hF.sub rfl) _ _ _ ?_
    with_reducible assumption
  clear_value l2_0
  refine kept_mk ?_
  with_reducible assumption
theorem kept_resetAs (hF : Sub 274877906943 F) : ∀ a0 a1, Kept F z a0 → (Kept F z) (Sys2Proof.resetAs a0 a1) := by
  unfold Sys2Proof.resetAs
  intro v0 v1 v2
  split
  · with_reducible assumption
  · split
    · refine kept_coldReset (hF.sub rfl) _ ?_
      with_reducible assumption
    · split
      · refine kept_warmReset (hF.sub rfl) _ ?_
        with_reducible assumption
      · split
        · with_reducible assumption
        · refine kept_restartFromT0 (hF.sub rfl) _ ?_
          with_reducible assumption
theorem kept_execPerstAssert (hF : Sub 274877906943 F) : ∀ a0, Kept F z a0 → (OnNext (Kept F z)) (Sys2Proof.Machine.execPerstAssert a0) := by
  unfold Sys2Proof.Machine.execPerstAssert
  intro v0 v1
  refine ans_next ?_
  refine kept_resetAs (hF.sub rfl) _ _ ?_
  with_reducible assumption
theorem kept_execResetPinRelease (hF : Sub 274877906943 F) : ∀ a0 a1, Kept F z a1 → (OnNext (Kept F z)) (Sys2Proof.Machine.execResetPinRelease a0 a1) := by
  unfold Sys2Proof.Machine.execResetPinRelease
  intro v0 v1 v2
  split
  · refine ans_next ?_
    with_reducible assumption
  · refine ans_next ?_
    refine kept_resetAs (hF.sub rfl) _ _ ?_
    with_reducible assumption
theorem kept_functionReset (hF : Sub 1073768448 F) : ∀ a0 a1, Kept F z a0 → (Kept F z) (Sys2Proof.functionReset a0 a1) := by
  unfold Sys2Proof.functionReset
  intro v0 v1 v2
  extract_lets +onlyGivenNames l3_0 l3_1 l3_2
  refine (fun (el3_0 : (Kept F z) l3_0) => ?_) ?_
  rotate_left
  · refine foldl_kept (P := (Kept F z)) ?_ ?_
    · with_reducible assumption
    · intro v6 v7 v8
      split
      · refine kept_closeRing (hF.sub rfl) _ _ _ ?_
        with_reducible assumption
      · with_reducible assumption
  clear_value l3_0 l3_1
  refine (fun (el3_2 : (Kept F z) l3_2) => ?_) ?_
  rotate_left
  · refine kept_modOwner (hF.sub rfl) _ _ _ ?_
    with_reducible assumption
  clear_value l3_2
  split
  · refine kept_modLd (hF.sub rfl) _ _ _ ?_
    with_reducible assumption
  · refine kept_mk ?_
    with_reducible assumption
theorem kept_execFunctionReset (hF : Sub 138512721920 F) : ∀ a0 a1, Kept F z a1 → (OnNext (Kept F z)) (Sys2Proof.Machine.execFunctionReset a0 a1) := by
  unfold Sys2Proof.Machine.execFunctionReset
  intro v0 v1 v2
  split
  · refine ans_next ?_
    with_reducible assumption
  · extract_lets +onlyGivenNames l6_0
    clear_value l6_0
    extract_lets +onlyGivenNames l7_0
    refine (fun (el7_0 : (Kept F z) l7_0) => ?_) ?_
    rotate_left
    · refine kept_mk ?_
      with_reducible assumption
    clear_value l7_0
    split
    · refine ans_next ?_
      refine kept_functionReset (hF.sub rfl) _ _ ?_
      with_reducible assumption
    · refine ans_next ?_
      refine foldl_kept (P := (Kept F z)) ?_ ?_
      · with_reducible assumption
      · intro v17 v18 v19
        refine kept_functionReset (hF.sub rfl) _ _ ?_
        with_reducible assumption
theorem kept_execCxlLinkDown (hF : Sub 1073741824 F) : ∀ a0, Kept F z a0 → (OnNext (Kept F z)) (Sys2Proof.Machine.execCxlLinkDown a0) := by
  unfold Sys2Proof.Machine.execCxlLinkDown
  intro v0 v1
  refine ans_next ?_
  refine kept_mk ?_
  with_reducible assumption
theorem kept_execAux3v3Loss (hF : Sub 68719476736 F) : ∀ a0, Kept F z a0 → (OnNext (Kept F z)) (Sys2Proof.Machine.execAux3v3Loss a0) := by
  unfold Sys2Proof.Machine.execAux3v3Loss
  intro v0 v1
  refine ans_next ?_
  refine kept_mk ?_
  with_reducible assumption

/-! ### CxlMem -/

theorem kept_countMem (hF : Sub 1073741824 F) : ∀ a0 a1 a2, Kept F z a0 → (Kept F z) (Sys2Proof.countMem a0 a1 a2) := by
  unfold Sys2Proof.countMem
  intro v0 v1 v2 v3
  refine kept_modLd (hF.sub rfl) _ _ _ ?_
  with_reducible assumption
theorem kept_mediaEvent (hF : Sub 1073741824 F) : ∀ a0 a1 a2 a3, Kept F z a0 → (Kept F z) (Sys2Proof.mediaEvent a0 a1 a2 a3) := by
  unfold Sys2Proof.mediaEvent
  intro v0 v1 v2 v3 v4
  refine kept_modLd (hF.sub rfl) _ _ _ ?_
  with_reducible assumption
theorem kept_dropWrite (hF : Sub 35433480200 F) : ∀ a0 a1 a2, Kept F z a0 → (Kept F z) (Sys2Proof.dropWrite a0 a1 a2) := by
  unfold Sys2Proof.dropWrite
  intro v0 v1 v2 v3
  extract_lets +onlyGivenNames l4_0 l4_1 l4_2
  refine (fun (el4_0 : (Kept F z) l4_0) => ?_) ?_
  rotate_left
  · refine kept_logError (hF.sub rfl) _ _ _ _ _ _ ?_
    refine kept_mediaEvent (hF.sub rfl) _ _ _ _ ?_
    with_reducible assumption
  clear_value l4_0 l4_1
  refine (fun (el4_2 : (Kept F z) l4_2) => ?_) ?_
  rotate_left
  · dsimp -zeta only [l4_2]
    split
    · refine kept_emit (hF.sub rfl) _ _ ?_
      refine kept_modLd (hF.sub rfl) _ _ _ ?_
      with_reducible assumption
    · with_reducible assumption
  clear_value l4_2
  refine kept_emit (hF.sub rfl) _ _ ?_
  with_reducible assumption
theorem kept_memRead (hF : Sub 54761212344 F) : ∀ a0 a1 a2, Kept F z a0 → (Kept F z) (Sys2Proof.memRead a0 a1 a2) := by
  unfold Sys2Proof.memRead
  intro v0 v1 v2 v3
  extract_lets +onlyGivenNames l4_0
  clear_value l4_0
  split
  · refine kept_emit (hF.sub rfl) _ _ ?_
    with_reducible assumption
  · split
    · refine kept_emit (hF.sub rfl) _ _ ?_
      refine kept_mediaEvent (hF.sub rfl) _ _ _ _ ?_
      with_reducible assumption
    · split
      · refine kept_emit (hF.sub rfl) _ _ ?_
        refine kept_mediaEvent (hF.sub rfl) _ _ _ _ ?_
        with_reducible assumption
      · refine kept_withDoms (hF.sub rfl) _ _ _ ?_ ?_
        · with_reducible assumption
        · intro v18 v19
          extract_lets +onlyGivenNames l20_0 l20_1 l20_2 l20_3
          refine (fun (el20_0 : (Kept F z) l20_0) => ?_) ?_
          rotate_left
          · refine kept_countMem (hF.sub rfl) _ _ _ ?_
            with_reducible assumption
          clear_value l20_0 l20_1
          refine (fun (el20_2 : (Kept F z) l20_2) => ?_) ?_
          rotate_left
          · dsimp -zeta only [l20_2]
            split
            · refine kept_mediaEvent (hF.sub rfl) _ _ _ _ ?_
              with_reducible assumption
            · with_reducible assumption
          clear_value l20_2
          refine (fun (el20_3 : (Kept F z) l20_3) => ?_) ?_
          rotate_left
          · refine kept_emit (hF.sub rfl) _ _ ?_
            with_reducible assumption
          clear_value l20_3
          split
          · refine kept_unitFault (hF.sub rfl) _ _ _ ?_
            refine kept_logError (hF.sub rfl) _ _ _ _ _ _ ?_
            with_reducible assumption
          · with_reducible assumption
theorem kept_poisonLine (hF : Sub 34176 F) : ∀ a0 a1 a2, Kept F z a0 → (Kept F z) (Sys2Proof.poisonLine a0 a1 a2) := by
  unfold Sys2Proof.poisonLine
  intro v0 v1 v2 v3
  extract_lets +onlyGivenNames l4_0
  clear_value l4_0
  split
  · refine kept_mk ?_
    with_reducible assumption
  · split
    · with_reducible assumption
    · split
      · refine kept_mk ?_
        with_reducible assumption
      · refine kept_modExt (hF.sub rfl) _ _ _ ?_
        refine kept_mk ?_
        with_reducible assumption
theorem kept_memWrite (hF : Sub 52613383592 F) : ∀ a0 a1 a2 a3 a4 a5, Kept F z a0 → (Kept F z) (Sys2Proof.memWrite a0 a1 a2 a3 a4 a5) := by
  unfold Sys2Proof.memWrite
  intro v0 v1 v2 v3 v4 v5 v6
  extract_lets +onlyGivenNames l7_0
  clear_value l7_0
  split
  · refine kept_withDoms (hF.sub rfl) _ _ _ ?_ ?_
    · with_reducible assumption
    · intro v11 v12
      extract_lets +onlyGivenNames l13_0 l13_1 l13_2 l13_3 l13_4 l13_5
      refine (fun (el13_0 : (Kept F z) l13_0) => ?_) ?_
      rotate_left
      · refine kept_countMem (hF.sub rfl) _ _ _ ?_
        with_reducible assumption
      clear_value l13_0 l13_1 l13_2 l13_3
      refine (fun (el13_4 : (Kept F z) l13_4) => ?_) ?_
      rotate_left
      · dsimp -zeta only [l13_4]
        split
        · refine kept_writeHbm (hF.sub rfl) _ _ _ _ ?_
          with_reducible assumption
        · refine kept_mk ?_
          with_reducible assumption
      clear_value l13_4
      refine (fun (el13_5 : (Kept F z) l13_5) => ?_) ?_
      rotate_left
      · dsimp -zeta only [l13_5]
        split
        · refine kept_poisonLine (hF.sub rfl) _ _ _ ?_
          with_reducible assumption
        · with_reducible assumption
      clear_value l13_5
      refine kept_emit (hF.sub rfl) _ _ ?_
      with_reducible assumption
  · refine kept_dropWrite (hF.sub rfl) _ _ _ ?_
    with_reducible assumption
theorem kept_markFull (hF : Sub 1073741824 F) : ∀ a0 a1, Kept F z a0 → (Kept F z) (Sys2Proof.markFull a0 a1) := by
  unfold Sys2Proof.markFull
  intro v0 v1 v2
  refine kept_modLd (hF.sub rfl) _ _ _ ?_
  with_reducible assumption
theorem kept_wakeFor (hF : Sub 17179869184 F) : ∀ a0 a1 a2, Kept F z a0 → (Kept F z) (Sys2Proof.wakeFor a0 a1 a2) := by
  unfold Sys2Proof.wakeFor
  intro v0 v1 v2 v3
  split
  · split
    · with_reducible assumption
    · refine kept_startWake (hF.sub rfl) _ _ ?_
      with_reducible assumption
  · with_reducible assumption
theorem kept_memServe (hF : Sub 54761213368 F) : ∀ a0 a1 a2 a3, Kept F z a0 → (Kept F z) (Sys2Proof.memServe a0 a1 a2 a3) := by
  unfold Sys2Proof.memServe
  intro v0 v1 v2 v3 v4
  split
  · refine kept_memRead (hF.sub rfl) _ _ _ ?_
    with_reducible assumption
  · refine kept_memWrite (hF.sub rfl) _ _ _ _ _ _ ?_
    with_reducible assumption
theorem kept_memRequest (hF : Sub 54761213372 F) : ∀ a0 a1 a2 a3, Kept F z a0 → (Kept F z) (Sys2Proof.memRequest a0 a1 a2 a3) := by
  unfold Sys2Proof.memRequest
  intro v0 v1 v2 v3 v4
  extract_lets +onlyGivenNames l5_0
  clear_value l5_0
  split
  · with_reducible assumption
  · split
    split
    · refine snd_eq (by assumption) (?_ : OnSnd (Kept F z) _)
      split
      · refine kept_draw (hF.sub rfl) _ ?_
        with_reducible assumption
      · refine snd_mk ?_
        with_reducible assumption
    · split
      · extract_lets +onlyGivenNames l17_0
        refine (fun (el17_0 : (Kept F z) l17_0) => ?_) ?_
        rotate_left
        · refine kept_wakeFor (hF.sub rfl) _ _ _ ?_
          refine snd_eq (by assumption) (?_ : OnSnd (Kept F z) _)
          split
          · refine kept_draw (hF.sub rfl) _ ?_
            with_reducible assumption
          · refine snd_mk ?_
            with_reducible assumption
        clear_value l17_0
        split
        · refine kept_markFull (hF.sub rfl) _ _ ?_
          refine kept_modLd (hF.sub rfl) _ _ _ ?_
          with_reducible assumption
        · refine kept_mk ?_
          with_reducible assumption
      · refine kept_memServe (hF.sub rfl) _ _ _ _ ?_
        refine snd_eq (by assumption) (?_ : OnSnd (Kept F z) _)
        split
        · refine kept_draw (hF.sub rfl) _ ?_
          with_reducible assumption
        · refine snd_mk ?_
          with_reducible assumption
theorem kept_releaseHeld (hF : Sub 54761213368 F) : ∀ a0 a1 a2, Kept F z a2 → (Kept F z) (Sys2Proof.releaseHeld a0 a1 a2) := by
  intro a0 a1
  induction a1 with
  | zero =>
    intro a2 h
    unfold releaseHeld
    with_reducible assumption
  | succ n ih =>
    intro a2 h
    unfold releaseHeld
    extract_lets +onlyGivenNames l0_0 l0_1
    clear_value l0_0 l0_1
    split
    · with_reducible assumption
    · split
      · with_reducible assumption
      · refine ih _ ?_
        refine kept_modLd (hF.sub rfl) _ _ _ ?_
        refine kept_memServe (hF.sub rfl) _ _ _ _ ?_
        with_reducible assumption
theorem kept_admitArriving (hF : Sub 1073741824 F) : ∀ a0, Kept F z a0 → (Kept F z) (Sys2Proof.admitArriving a0) := by
  unfold Sys2Proof.admitArriving
  intro v0 v1
  refine foldl_kept (P := (Kept F z)) ?_ ?_
  · with_reducible assumption
  · intro v4 v5 v6
    split
    · refine kept_markFull (hF.sub rfl) _ _ ?_
      refine kept_modLd (hF.sub rfl) _ _ _ ?_
      refine kept_mk ?_
      with_reducible assumption
    · with_reducible assumption
theorem kept_releaseLd (hF : Sub 54761213368 F) : ∀ a0 a1, Kept F z a0 → (Kept F z) (Sys2Proof.releaseLd a0 a1) := by
  unfold Sys2Proof.releaseLd
  intro v0 v1 v2
  refine kept_admitArriving (hF.sub rfl) _ ?_
  refine kept_markFull (hF.sub rfl) _ _ ?_
  refine kept_releaseHeld (hF.sub rfl) _ _ _ ?_
  with_reducible assumption
theorem kept_releaseAll (hF : Sub 54761213368 F) : ∀ a0, Kept F z a0 → (Kept F z) (Sys2Proof.releaseAll a0) := by
  unfold Sys2Proof.releaseAll
  intro v0 v1
  refine foldl_kept (P := (Kept F z)) ?_ ?_
  · with_reducible assumption
  · intro v4 v5 v6
    refine kept_releaseLd (hF.sub rfl) _ _ ?_
    with_reducible assumption

/-! ### FlashPush -/

theorem kept_holdOp (hF : Sub 2147483648 F) : ∀ a0 a1 a2, Kept F z a0 → (OnFst (Kept F z)) (Sys2Proof.holdOp a0 a1 a2) := by
  unfold Sys2Proof.holdOp
  intro v0 v1 v2 v3
  extract_lets +onlyGivenNames l4_0 l4_1
  clear_value l4_0 l4_1
  split
  · refine fst_mk ?_
    with_reducible assumption
  · refine fst_mk ?_
    refine kept_modDrive (hF.sub rfl) _ _ _ ?_
    with_reducible assumption
  · refine fst_mk ?_
    refine kept_modDrive (hF.sub rfl) _ _ _ ?_
    with_reducible assumption
  · refine fst_mk ?_
    with_reducible assumption
theorem kept_pushChunks (hF : Sub 19327352840 F) : ∀ a0 a1 a2, Kept F z a1 → (OnFst (Kept F z)) (Sys2Proof.pushChunks a0 a1 a2) := by
  intro a0
  induction a0 with
  | nil =>
    intro a1 a2 h
    unfold pushChunks
    split
    · refine fst_mk ?_
      with_reducible assumption
    · refine kept_holdOp (hF.sub rfl) _ _ _ ?_
      with_reducible assumption
  | cons c r ih =>
    intro a1 a2 h
    unfold pushChunks
    extract_lets +onlyGivenNames l0_0 l0_1
    clear_value l0_0 l0_1
    split
    · split
      refine fst_mk ?_
      split
      · refine kept_startWake (hF.sub rfl) _ _ ?_
        refine fst_eq (by assumption) (?_ : OnFst (Kept F z) (Sys2Proof.holdOp _ _ _))
        refine kept_holdOp (hF.sub rfl) _ _ _ ?_
        with_reducible assumption
      · refine fst_eq (by assumption) (?_ : OnFst (Kept F z) (Sys2Proof.holdOp _ _ _))
        refine kept_holdOp (hF.sub rfl) _ _ _ ?_
        with_reducible assumption
    · split
      · refine kept_holdOp (hF.sub rfl) _ _ _ ?_
        with_reducible assumption
      · split
        · refine kept_holdOp (hF.sub rfl) _ _ _ ?_
          with_reducible assumption
        · split
          · refine kept_holdOp (hF.sub rfl) _ _ _ ?_
            with_reducible assumption
          · extract_lets +onlyGivenNames l21_0 l21_1 l21_2 l21_3
            refine (fun (el21_0 : (Kept F z) l21_0) => ?_) ?_
            rotate_left
            · dsimp -zeta only [l21_0]
              split
              · refine kept_modDrive (hF.sub rfl) _ _ _ ?_
                with_reducible assumption
              · with_reducible assumption
            clear_value l21_0 l21_1
            refine (fun (el21_2 : (Kept F z) l21_2) => ?_) ?_
            rotate_left
            · refine kept_mk ?_
              with_reducible assumption
            clear_value l21_2
            refine (fun (el21_3 : (Kept F z) l21_3) => ?_) ?_
            rotate_left
            · refine kept_sendChunk (hF.sub rfl) _ _ _ ?_
              with_reducible assumption
            clear_value l21_3
            extract_lets +onlyGivenNames l31_0
            refine (fun (el31_0 : (Kept F z) l31_0) => ?_) ?_
            rotate_left
            · dsimp -zeta only [l31_0]
              split
              · refine foldl_kept (P := (Kept F z)) ?_ ?_
                · with_reducible assumption
                · intro v36 v37 v38
                  refine kept_mk ?_
                  with_reducible assumption
              · with_reducible assumption
            clear_value l31_0
            refine ih _ _ ?_
            with_reducible assumption
theorem kept_pushFlash (hF : Sub 19327352840 F) : ∀ a0, Kept F z a0 → (Kept F z) (Sys2Proof.pushFlash a0) := by
  unfold Sys2Proof.pushFlash
  intro v0 v1
  refine foldl_kept (P := (Kept F z)) ?_ ?_
  · with_reducible assumption
  · intro v4 v5 v6
    split
    · split
      refine kept_mk ?_
      refine fst_eq (by assumption) (?_ : OnFst (Kept F z) (Sys2Proof.pushChunks _ _ _))
      refine kept_pushChunks (hF.sub rfl) _ _ _ ?_
      with_reducible assumption
    · with_reducible assumption
theorem kept_addOps (hF : Sub 19327352840 F) : ∀ a0 a1 a2 a3 a4 a5 a6, Kept F z a0 → (Kept F z) (Sys2Proof.addOps a0 a1 a2 a3 a4 a5 a6) := by
  unfold Sys2Proof.addOps
  intro v0 v1 v2 v3 v4 v5 v6 v7
  refine kept_pushFlash (hF.sub rfl) _ ?_
  refine kept_mk ?_
  with_reducible assumption
theorem kept_addSpill (hF : Sub 19327352840 F) : ∀ a0 a1 a2, Kept F z a0 → (Kept F z) (Sys2Proof.addSpill a0 a1 a2) := by
  unfold Sys2Proof.addSpill
  intro v0 v1 v2 v3
  refine kept_pushFlash (hF.sub rfl) _ ?_
  refine kept_mk ?_
  with_reducible assumption
theorem kept_tierOp (hF : Sub 19327352840 F) : ∀ a0 a1 a2 a3 a4, Kept F z a0 → (Kept F z) (Sys2Proof.tierOp a0 a1 a2 a3 a4) := by
  unfold Sys2Proof.tierOp
  intro v0 v1 v2 v3 v4 v5
  extract_lets +onlyGivenNames l6_0
  clear_value l6_0
  refine kept_addOps (hF.sub rfl) _ _ _ _ _ _ _ ?_
  with_reducible assumption
theorem kept_modStats (hF : Sub 2147483648 F) : ∀ a0 a1 a2 a3, Kept F z a0 → (Kept F z) (Sys2Proof.modStats a0 a1 a2 a3) := by
  unfold Sys2Proof.modStats
  intro v0 v1 v2 v3 v4
  refine kept_modFlash (hF.sub rfl) _ _ _ ?_
  with_reducible assumption
theorem kept_billWaits (hF : Sub 2147483648 F) : ∀ a0 a1 a2, Kept F z a0 → (Kept F z) (Sys2Proof.billWaits a0 a1 a2) := by
  unfold Sys2Proof.billWaits
  intro v0 v1 v2 v3
  split
  · with_reducible assumption
  · refine kept_modStats (hF.sub rfl) _ _ _ _ ?_
    with_reducible assumption
theorem kept_billDrive (hF : Sub 2147483648 F) : ∀ a0 a1 a2 a3, Kept F z a0 → (Kept F z) (Sys2Proof.billDrive a0 a1 a2 a3) := by
  unfold Sys2Proof.billDrive
  intro v0 v1 v2 v3 v4
  extract_lets +onlyGivenNames l5_0
  refine (fun (el5_0 : (Kept F z) l5_0) => ?_) ?_
  rotate_left
  · refine kept_modDrive (hF.sub rfl) _ _ _ ?_
    with_reducible assumption
  clear_value l5_0
  split
  · with_reducible assumption
  · refine kept_modStats (hF.sub rfl) _ _ _ _ ?_
    with_reducible assumption
theorem kept_billStopped (hF : Sub 2147483648 F) : ∀ a0 a1 a2, Kept F z a0 → (Kept F z) (Sys2Proof.billStopped a0 a1 a2) := by
  unfold Sys2Proof.billStopped
  intro v0 v1 v2 v3
  refine foldl_kept (P := (Kept F z)) ?_ ?_
  · with_reducible assumption
  · intro v6 v7 v8
    split
    · with_reducible assumption
    · split
      refine kept_billWaits (hF.sub rfl) _ _ _ ?_
      refine fst_eq (by assumption) (?_ : OnFst (Kept F z) (Sys2Proof.holdOp _ _ _))
      refine kept_holdOp (hF.sub rfl) _ _ _ ?_
      with_reducible assumption
theorem kept_failStep (hF : Sub 47186443260 F) : ∀ a0 a1 a2 a3, Kept F z a0 → (Kept F z) (Sys2Proof.failStep a0 a1 a2 a3) := by
  unfold Sys2Proof.failStep
  intro v0 v1 v2 v3 v4
  split
  · extract_lets +onlyGivenNames l6_0 l6_1 l6_2
    refine (fun (el6_0 : (Kept F z) l6_0) => ?_) ?_
    rotate_left
    · refine kept_removeOps (hF.sub rfl) _ _ _ ?_
      with_reducible assumption
    clear_value l6_0
    refine (fun (el6_1 : (Kept F z) l6_1) => ?_) ?_
    rotate_left
    · dsimp -zeta only [l6_1]
      split
      · refine foldl_kept (P := (Kept F z)) ?_ ?_
        · with_reducible assumption
        · intro v13 v14 v15
          refine kept_freeBlocks (hF.sub rfl) _ _ _ ?_
          with_reducible assumption
      · with_reducible assumption
    clear_value l6_1
    refine (fun (el6_2 : (Kept F z) l6_2) => ?_) ?_
    rotate_left
    · refine foldl_kept (P := (Kept F z)) ?_ ?_
      · with_reducible assumption
      · intro v21 v22 v23
        split
        · split
          · refine kept_unpinFrame (hF.sub rfl) _ _ ?_
            with_reducible assumption
          · with_reducible assumption
        · with_reducible assumption
    clear_value l6_2
    refine kept_putDesc (hF.sub rfl) _ _ ?_
    with_reducible assumption
  · refine kept_stopDesc (hF.sub rfl) _ _ _ _ ?_
    with_reducible assumption

/-! ### Power -/

theorem kept_endPeak (hF : Sub 17179869184 F) : ∀ a0 a1, Kept F z a0 → (Kept F z) (Sys2Proof.endPeak a0 a1) := by
  unfold Sys2Proof.endPeak
  intro v0 v1 v2
  refine kept_mk ?_
  with_reducible assumption
theorem kept_expirePeak (hF : Sub 17179869184 F) : ∀ a0, Kept F z a0 → (Kept F z) (Sys2Proof.expirePeak a0) := by
  unfold Sys2Proof.expirePeak
  intro v0 v1
  split
  · split
    · refine kept_endPeak (hF.sub rfl) _ _ ?_
      with_reducible assumption
    · with_reducible assumption
  · with_reducible assumption
theorem kept_powerAt (hF : Sub 17179869185 F) : ∀ a0 a1, Kept F z a0 → (Kept F z) (Sys2Proof.powerAt a0 a1) := by
  unfold Sys2Proof.powerAt
  intro v0 v1 v2
  extract_lets +onlyGivenNames l3_0 l3_1
  refine (fun (el3_0 : (Kept F z) l3_0) => ?_) ?_
  rotate_left
  · refine kept_atTime (hF.sub rfl) _ _ ?_
    with_reducible assumption
  clear_value l3_0 l3_1
  refine kept_expirePeak (hF.sub rfl) _ ?_
  refine kept_mk ?_
  with_reducible assumption
theorem kept_sampleCoarse (hF : Sub 17179869184 F) : ∀ a0, Kept F z a0 → (Kept F z) (Sys2Proof.sampleCoarse a0) := by
  unfold Sys2Proof.sampleCoarse
  intro v0 v1
  split
  · with_reducible assumption
  · refine kept_mk ?_
    with_reducible assumption
theorem kept_takeReadings (hF : Sub 17179869184 F) : ∀ a0 a1, Kept F z a0 → (Kept F z) (Sys2Proof.takeReadings a0 a1) := by
  unfold Sys2Proof.takeReadings
  intro v0 v1 v2
  refine kept_mk ?_
  with_reducible assumption
theorem kept_execDamperTick (hF : Sub 17179869189 F) : ∀ a0 a1 a2, Kept F z a2 → (OnNext (Kept F z)) (Sys2Proof.Machine.execDamperTick a0 a1 a2) := by
  unfold Sys2Proof.Machine.execDamperTick
  intro v0 v1 v2 v3
  split
  · refine ans_next ?_
    with_reducible assumption
  · extract_lets +onlyGivenNames l7_0 l7_1 l7_2
    refine (fun (el7_0 : (Kept F z) l7_0) => ?_) ?_
    rotate_left
    · refine kept_takeReadings (hF.sub rfl) _ _ ?_
      refine kept_powerAt (hF.sub rfl) _ _ ?_
      with_reducible assumption
    clear_value l7_0
    refine (fun (el7_2 : (Kept F z) l7_2) => ?_) ?_
    rotate_left
    · refine kept_mk ?_
      with_reducible assumption
    clear_value l7_2
    extract_lets +onlyGivenNames l13_0
    extract_lets +onlyGivenNames l14_0
    refine (fun (el14_0 : (Kept F z) l14_0) => ?_) ?_
    rotate_left
    · dsimp -zeta only [l14_0]
      split
      · with_reducible assumption
      · refine kept_mk ?_
        with_reducible assumption
    clear_value l14_0
    split
    extract_lets +onlyGivenNames l21_0 l21_1
    clear_value l21_0 l21_1
    refine ans_next ?_
    refine kept_sampleCoarse (hF.sub rfl) _ ?_
    refine kept_mk ?_
    refine snd_eq (by assumption) (?_ : OnSnd (Kept F z) (Sys2Proof.draw _))
    refine kept_draw (hF.sub rfl) _ ?_
    with_reducible assumption
theorem kept_execLevelStep (hF : Sub 85899345921 F) : ∀ a0 a1, Kept F z a1 → (OnNext (Kept F z)) (Sys2Proof.Machine.execLevelStep a0 a1) := by
  unfold Sys2Proof.Machine.execLevelStep
  intro v0 v1 v2
  split
  · refine ans_next ?_
    with_reducible assumption
  · extract_lets +onlyGivenNames l6_0 l6_1 l6_2 l6_3 l6_4
    refine (fun (el6_0 : (Kept F z) l6_0) => ?_) ?_
    rotate_left
    · refine kept_powerAt (hF.sub rfl) _ _ ?_
      with_reducible assumption
    clear_value l6_0 l6_2 l6_3
    refine (fun (el6_4 : (Kept F z) l6_4) => ?_) ?_
    rotate_left
    · refine kept_mk ?_
      with_reducible assumption
    clear_value l6_4
    refine ans_next ?_
    split
    · refine kept_setAlert (hF.sub rfl) _ _ _ ?_
      with_reducible assumption
    · with_reducible assumption
theorem kept_execCurrentClamp (hF : Sub 85899345921 F) : ∀ a0 a1 a2, Kept F z a2 → (OnNext (Kept F z)) (Sys2Proof.Machine.execCurrentClamp a0 a1 a2) := by
  unfold Sys2Proof.Machine.execCurrentClamp
  intro v0 v1 v2 v3
  split
  · refine ans_next ?_
    with_reducible assumption
  · extract_lets +onlyGivenNames l7_0
    refine (fun (el7_0 : (Kept F z) l7_0) => ?_) ?_
    rotate_left
    · refine kept_powerAt (hF.sub rfl) _ _ ?_
      with_reducible assumption
    clear_value l7_0
    refine ans_next ?_
    refine kept_setAlert (hF.sub rfl) _ _ _ ?_
    refine kept_mk ?_
    with_reducible assumption
theorem kept_execThermalClampStep (hF : Sub 123480690105 F) : ∀ a0 a1 a2, Kept F z a2 → (OnNext (Kept F z)) (Sys2Proof.Machine.execThermalClampStep a0 a1 a2) := by
  unfold Sys2Proof.Machine.execThermalClampStep
  intro v0 v1 v2 v3
  split
  · refine ans_next ?_
    with_reducible assumption
  · extract_lets +onlyGivenNames l7_0 l7_1 l7_2 l7_3
    clear_value l7_0
    refine (fun (el7_1 : (Kept F z) l7_1) => ?_) ?_
    rotate_left
    · refine kept_takeReadings (hF.sub rfl) _ _ ?_
      refine kept_powerAt (hF.sub rfl) _ _ ?_
      with_reducible assumption
    clear_value l7_1 l7_2
    split
    · extract_lets +onlyGivenNames l12_0 l12_1
      refine (fun (el12_0 : (Kept F z) l12_0) => ?_) ?_
      rotate_left
      · refine kept_setAlert (hF.sub rfl) _ _ _ ?_
        with_reducible assumption
      clear_value l12_0
      extract_lets +onlyGivenNames l15_0
      refine (fun (el15_0 : (Kept F z) l15_0) => ?_) ?_
      rotate_left
      · dsimp -zeta only [l15_0]
        split
        · refine kept_mk ?_
          with_reducible assumption
        · with_reducible assumption
      clear_value l15_0
      split
      · refine ans_next ?_
        dsimp -zeta only [l7_3]
        refine kept_mk ?_
        with_reducible assumption
      · split
        · refine ans_next ?_
          dsimp -zeta only [l7_3]
          refine kept_mk ?_
          with_reducible assumption
        · refine ans_next ?_
          with_reducible assumption
    · split
      · extract_lets +onlyGivenNames l34_0 l34_1 l34_2 l34_3 l34_4 l34_5 l34_6
        clear_value l34_0
        refine (fun (el34_1 : (Kept F z) l34_1) => ?_) ?_
        rotate_left
        · refine kept_setAlert (hF.sub rfl) _ _ _ ?_
          with_reducible assumption
        clear_value l34_1
        refine (fun (el34_3 : (Kept F z) l34_3) => ?_) ?_
        rotate_left
        · dsimp -zeta only [l34_3]
          split
          · refine kept_mk ?_
            with_reducible assumption
          · with_reducible assumption
        clear_value l34_3 l34_4 l34_5
        extract_lets +onlyGivenNames l42_0 l42_1
        refine (fun (el42_0 : (Kept F z) l42_0) => ?_) ?_
        rotate_left
        · refine kept_mk ?_
          with_reducible assumption
        clear_value l42_0
        refine (fun (el42_1 : (Kept F z) l42_1) => ?_) ?_
        rotate_left
        · dsimp -zeta only [l42_1]
          split
          · refine kept_releaseAll (hF.sub rfl) _ ?_
            with_reducible assumption
          · with_reducible assumption
        clear_value l42_1
        split
        · refine ans_next ?_
          dsimp -zeta only [l7_3]
          refine kept_mk ?_
          with_reducible assumption
        · refine ans_next ?_
          with_reducible assumption
      · refine ans_next ?_
        with_reducible assumption
theorem kept_execThermalTrip (hF : Sub 124420115424 F) : ∀ a0 a1, Kept F z a1 → (OnNext (Kept F z)) (Sys2Proof.Machine.execThermalTrip a0 a1) := by
  unfold Sys2Proof.Machine.execThermalTrip
  intro v0 v1 v2
  extract_lets +onlyGivenNames l3_0
  split
  · refine ans_next ?_
    with_reducible assumption
  · extract_lets +onlyGivenNames l7_0 l7_1
    refine (fun (el7_0 : (Kept F z) l7_0) => ?_) ?_
    rotate_left
    · refine kept_takeReadings (hF.sub rfl) _ _ ?_
      with_reducible assumption
    clear_value l7_0
    refine (fun (el7_1 : (Kept F z) l7_1) => ?_) ?_
    rotate_left
    · refine kept_enterFault (hF.sub rfl) _ _ _ _ ?_
      with_reducible assumption
    clear_value l7_1
    refine ans_next ?_
    refine kept_mk ?_
    with_reducible assumption
theorem kept_execHubTempRead (hF : Sub 17179869184 F) : ∀ a0 a1 a2, Kept F z a2 → (OnNext (Kept F z)) (Sys2Proof.Machine.execHubTempRead a0 a1 a2) := by
  unfold Sys2Proof.Machine.execHubTempRead
  intro v0 v1 v2 v3
  split
  · refine ans_next ?_
    with_reducible assumption
  · refine ans_next ?_
    refine foldl_kept (P := (Kept F z)) ?_ ?_
    · with_reducible assumption
    · intro v10 v11 v12
      extract_lets +onlyGivenNames l13_0 l13_1
      clear_value l13_0 l13_1
      refine kept_mk ?_
      with_reducible assumption
theorem kept_notManager (hF : Sub 16388 F) : ∀ a0 a1, Kept F z a0 → (Kept F z) (Sys2Proof.notManager a0 a1) := by
  unfold Sys2Proof.notManager
  intro v0 v1 v2
  split
  refine kept_putDesc (hF.sub rfl) _ _ ?_
  refine snd_eq (by assumption) (?_ : OnSnd (Kept F z) (Sys2Proof.draw _))
  refine kept_draw (hF.sub rfl) _ ?_
  with_reducible assumption
theorem kept_reservedBreach (hF : Sub 16388 F) : ∀ a0 a1, Kept F z a0 → (Kept F z) (Sys2Proof.reservedBreach a0 a1) := by
  unfold Sys2Proof.reservedBreach
  intro v0 v1 v2
  split
  refine kept_putDesc (hF.sub rfl) _ _ ?_
  refine snd_eq (by assumption) (?_ : OnSnd (Kept F z) (Sys2Proof.draw _))
  refine kept_draw (hF.sub rfl) _ ?_
  with_reducible assumption
theorem kept_execSetMode (hF : Sub 17179885572 F) : ∀ a0 a1 a2, Kept F z a2 → (OnNext (Kept F z)) (Sys2Proof.Machine.execSetMode a0 a1 a2) := by
  unfold Sys2Proof.Machine.execSetMode
  intro v0 v1 v2 v3
  split
  · refine ans_next ?_
    with_reducible assumption
  · extract_lets +onlyGivenNames l7_0 l7_1
    clear_value l7_0 l7_1
    split
    · refine ans_next ?_
      refine kept_notManager (hF.sub rfl) _ _ ?_
      with_reducible assumption
    · split
      · refine ans_next ?_
        refine kept_reservedBreach (hF.sub rfl) _ _ ?_
        with_reducible assumption
      · split
        · refine ans_next ?_
          refine kept_putDesc (hF.sub rfl) _ _ ?_
          with_reducible assumption
        · extract_lets +onlyGivenNames l20_0
          refine (fun (el20_0 : (Kept F z) l20_0) => ?_) ?_
          rotate_left
          · refine kept_putDesc (hF.sub rfl) _ _ ?_
            with_reducible assumption
          clear_value l20_0
          refine ans_next ?_
          refine kept_mk ?_
          with_reducible assumption
theorem kept_execModeCapsApplied (hF : Sub 64366312445 F) : ∀ a0 a1 a2 a3, Kept F z a3 → (OnNext (Kept F z)) (Sys2Proof.Machine.execModeCapsApplied a0 a1 a2 a3) := by
  unfold Sys2Proof.Machine.execModeCapsApplied
  intro v0 v1 v2 v3 v4
  extract_lets +onlyGivenNames l5_0 l5_1
  clear_value l5_0 l5_1
  split
  · split
    · refine ans_next ?_
      with_reducible assumption
    · extract_lets +onlyGivenNames l10_0 l10_1
      refine (fun (el10_0 : (Kept F z) l10_0) => ?_) ?_
      rotate_left
      · refine kept_powerAt (hF.sub rfl) _ _ ?_
        with_reducible assumption
      clear_value l10_0
      extract_lets +onlyGivenNames l13_0
      refine (fun (el13_0 : (Kept F z) l13_0) => ?_) ?_
      rotate_left
      · refine kept_mk ?_
        with_reducible assumption
      clear_value l13_0
      refine ans_next ?_
      refine kept_endNow (hF.sub rfl) _ _ _ _ _ _ ?_
      with_reducible assumption
  · refine ans_next ?_
    with_reducible assumption
theorem kept_peakRefused (hF : Sub 16388 F) : ∀ a0 a1, Kept F z a0 → (OnSome (Kept F z)) (Sys2Proof.peakRefused a0 a1) := by
  unfold Sys2Proof.peakRefused
  intro v0 v1 v2
  split
  · refine opt_some ?_
    refine kept_notManager (hF.sub rfl) _ _ ?_
    with_reducible assumption
  · split
    · refine opt_some ?_
      refine kept_reservedBreach (hF.sub rfl) _ _ ?_
      with_reducible assumption
    · split
      · refine opt_some ?_
        refine kept_putDesc (hF.sub rfl) _ _ ?_
        with_reducible assumption
      · exact opt_none
theorem kept_execPeakEnter (hF : Sub 64366312445 F) : ∀ a0 a1 a2 a3, Kept F z a3 → (OnNext (Kept F z)) (Sys2Proof.Machine.execPeakEnter a0 a1 a2 a3) := by
  unfold Sys2Proof.Machine.execPeakEnter
  intro v0 v1 v2 v3 v4
  split
  · refine ans_next ?_
    with_reducible assumption
  · split
    · refine ans_next ?_
      with_reducible assumption
    · split
      · refine ans_next ?_
        refine opt_eq (by assumption) (?_ : OnSome (Kept F z) (Sys2Proof.peakRefused _ _))
        refine kept_peakRefused (hF.sub rfl) _ _ ?_
        with_reducible assumption
      · extract_lets +onlyGivenNames l16_0 l16_1
        refine (fun (el16_0 : (Kept F z) l16_0) => ?_) ?_
        rotate_left
        · refine kept_powerAt (hF.sub rfl) _ _ ?_
          with_reducible assumption
        clear_value l16_0 l16_1
        split
        · refine ans_next ?_
          refine kept_endNow (hF.sub rfl) _ _ _ _ _ _ ?_
          refine kept_countPower (hF.sub rfl) _ _ _ ?_
          with_reducible assumption
        · split
          · refine ans_next ?_
            refine kept_endNow (hF.sub rfl) _ _ _ _ _ _ ?_
            refine kept_countPower (hF.sub rfl) _ _ _ ?_
            with_reducible assumption
          · split
            · refine ans_next ?_
              refine kept_endNow (hF.sub rfl) _ _ _ _ _ _ ?_
              refine kept_countPower (hF.sub rfl) _ _ _ ?_
              with_reducible assumption
            · extract_lets +onlyGivenNames l34_0
              extract_lets +onlyGivenNames l35_0
              refine (fun (el35_0 : (Kept F z) l35_0) => ?_) ?_
              rotate_left
              · refine kept_mk ?_
                with_reducible assumption
              clear_value l35_0
              refine ans_next ?_
              refine kept_endNow (hF.sub rfl) _ _ _ _ _ _ ?_
              refine kept_countPower (hF.sub rfl) _ _ _ ?_
              with_reducible assumption
theorem kept_execPeakEnd (hF : Sub 64366312445 F) : ∀ a0 a1 a2 a3, Kept F z a3 → (OnNext (Kept F z)) (Sys2Proof.Machine.execPeakEnd a0 a1 a2 a3) := by
  unfold Sys2Proof.Machine.execPeakEnd
  intro v0 v1 v2 v3 v4
  split
  · refine ans_next ?_
    with_reducible assumption
  · split
    · refine ans_next ?_
      with_reducible assumption
    · split
      · refine ans_next ?_
        refine opt_eq (by assumption) (?_ : OnSome (Kept F z) (Sys2Proof.peakRefused _ _))
        refine kept_peakRefused (hF.sub rfl) _ _ ?_
        with_reducible assumption
      · extract_lets +onlyGivenNames l16_0
        refine (fun (el16_0 : (Kept F z) l16_0) => ?_) ?_
        rotate_left
        · refine kept_powerAt (hF.sub rfl) _ _ ?_
          with_reducible assumption
        clear_value l16_0
        split
        · refine ans_next ?_
          refine kept_endNow (hF.sub rfl) _ _ _ _ _ _ ?_
          refine kept_endPeak (hF.sub rfl) _ _ ?_
          with_reducible assumption
        · refine ans_next ?_
          refine kept_endNow (hF.sub rfl) _ _ _ _ _ _ ?_
          with_reducible assumption
theorem kept_execPeakExpire (hF : Sub 17179869185 F) : ∀ a0 a1, Kept F z a1 → (OnNext (Kept F z)) (Sys2Proof.Machine.execPeakExpire a0 a1) := by
  unfold Sys2Proof.Machine.execPeakExpire
  intro v0 v1 v2
  split
  · split
    · refine ans_next ?_
      refine kept_powerAt (hF.sub rfl) _ _ ?_
      with_reducible assumption
    · refine ans_next ?_
      with_reducible assumption
  · refine ans_next ?_
    with_reducible assumption
theorem kept_portOff (hF : Sub 47186443261 F) : ∀ a0 a1, Kept F z a0 → (Kept F z) (Sys2Proof.portOff a0 a1) := by
  unfold Sys2Proof.portOff
  intro v0 v1 v2
  refine foldl_kept (P := (Kept F z)) ?_ ?_
  · with_reducible assumption
  · intro v5 v6 v7
    split
    · extract_lets +onlyGivenNames l9_0
      refine (fun (el9_0 : (Kept F z) l9_0) => ?_) ?_
      rotate_left
      · dsimp -zeta only [l9_0]
        split
        · refine ans_eq (by assumption) (?_ : OnNext (Kept F z) (Sys2Proof.Machine.execPhyDown _ _ _ _))
          refine kept_execPhyDown (hF.sub rfl) _ _ _ _ ?_
          with_reducible assumption
        · with_reducible assumption
      clear_value l9_0
      refine kept_loseLink (hF.sub rfl) _ _ _ _ ?_ ?_
      · with_reducible assumption
      · refine kept_modLink (hF.sub rfl) _ _ _ _ ?_
        with_reducible assumption
    · with_reducible assumption
theorem kept_enterState (hF : Sub 64366312445 F) : ∀ a0 a1 a2, Kept F z a0 → (Kept F z) (Sys2Proof.enterState a0 a1 a2) := by
  unfold Sys2Proof.enterState
  intro v0 v1 v2 v3
  extract_lets +onlyGivenNames l4_0 l4_1
  refine (fun (el4_0 : (Kept F z) l4_0) => ?_) ?_
  rotate_left
  · dsimp -zeta only [l4_0]
    split
    · refine kept_portOff (hF.sub rfl) _ _ ?_
      with_reducible assumption
    · with_reducible assumption
  clear_value l4_0 l4_1
  extract_lets +onlyGivenNames l10_0
  refine (fun (el10_0 : (Kept F z) l10_0) => ?_) ?_
  rotate_left
  · dsimp -zeta only [l10_0]
    split
    · refine kept_mk ?_
      with_reducible assumption
    · with_reducible assumption
  clear_value l10_0
  refine kept_modDom (hF.sub rfl) _ _ _ ?_
  with_reducible assumption
theorem kept_execPowerState (hF : Sub 64366312445 F) : ∀ a0 a1 a2, Kept F z a2 → (OnNext (Kept F z)) (Sys2Proof.Machine.execPowerState a0 a1 a2) := by
  unfold Sys2Proof.Machine.execPowerState
  intro v0 v1 v2 v3
  split
  · refine ans_next ?_
    with_reducible assumption
  · extract_lets +onlyGivenNames l7_0 l7_1
    clear_value l7_0 l7_1
    split
    · refine ans_next ?_
      refine kept_reservedBreach (hF.sub rfl) _ _ ?_
      with_reducible assumption
    · split
      · refine ans_next ?_
        refine kept_putDesc (hF.sub rfl) _ _ ?_
        with_reducible assumption
      · split
        · refine ans_next ?_
          refine kept_putDesc (hF.sub rfl) _ _ ?_
          with_reducible assumption
        · extract_lets +onlyGivenNames l20_0 l20_1 l20_2
          clear_value l20_0 l20_1 l20_2
          split
          · refine ans_next ?_
            with_reducible assumption
          · split
            · refine ans_next ?_
              refine foldl_kept (P := (Kept F z)) ?_ ?_
              · with_reducible assumption
              · intro v28 v29 v30
                split
                · with_reducible assumption
                · refine kept_modDom (hF.sub rfl) _ _ _ ?_
                  with_reducible assumption
            · extract_lets +onlyGivenNames l35_0 l35_1 l35_2 l35_3
              clear_value l35_0
              refine (fun (el35_1 : (Kept F z) l35_1) => ?_) ?_
              rotate_left
              · refine foldl_kept (P := (Kept F z)) ?_ ?_
                · with_reducible assumption
                · intro v38 v39 v40
                  refine kept_modDom (hF.sub rfl) _ _ _ ?_
                  with_reducible assumption
              clear_value l35_1 l35_2
              refine (fun (el35_3 : (Kept F z) l35_3) => ?_) ?_
              rotate_left
              · refine foldl_kept (P := (Kept F z)) ?_ ?_
                · with_reducible assumption
                · intro v45 v46 v47
                  split
                  · with_reducible assumption
                  · refine kept_enterState (hF.sub rfl) _ _ _ ?_
                    with_reducible assumption
              clear_value l35_3
              refine ans_next ?_
              refine kept_endNow (hF.sub rfl) _ _ _ _ _ _ ?_
              with_reducible assumption
theorem kept_execDomainWakeDone (hF : Sub 54761213369 F) : ∀ a0 a1 a2, Kept F z a2 → (OnNext (Kept F z)) (Sys2Proof.Machine.execDomainWakeDone a0 a1 a2) := by
  unfold Sys2Proof.Machine.execDomainWakeDone
  intro v0 v1 v2 v3
  split
  · refine ans_next ?_
    with_reducible assumption
  · split
    · refine ans_next ?_
      with_reducible assumption
    · extract_lets +onlyGivenNames l10_0 l10_1
      refine (fun (el10_0 : (Kept F z) l10_0) => ?_) ?_
      rotate_left
      · refine kept_atTime (hF.sub rfl) _ _ ?_
        with_reducible assumption
      clear_value l10_0 l10_1
      extract_lets +onlyGivenNames l13_0
      refine (fun (el13_0 : (Kept F z) l13_0) => ?_) ?_
      rotate_left
      · dsimp -zeta only [l13_0]
        split
        · refine kept_mk ?_
          with_reducible assumption
        · with_reducible assumption
      clear_value l13_0
      refine ans_next ?_
      refine kept_pushFlash (hF.sub rfl) _ ?_
      refine kept_releaseAll (hF.sub rfl) _ ?_
      refine kept_modDom (hF.sub rfl) _ _ _ ?_
      with_reducible assumption
theorem kept_execDomainIdleReturn (hF : Sub 64366312445 F) : ∀ a0 a1 a2, Kept F z a2 → (OnNext (Kept F z)) (Sys2Proof.Machine.execDomainIdleReturn a0 a1 a2) := by
  unfold Sys2Proof.Machine.execDomainIdleReturn
  intro v0 v1 v2 v3
  extract_lets +onlyGivenNames l4_0
  clear_value l4_0
  split
  · refine ans_next ?_
    with_reducible assumption
  · refine ans_next ?_
    refine kept_enterState (hF.sub rfl) _ _ _ ?_
    refine kept_atTime (hF.sub rfl) _ _ ?_
    with_reducible assumption

end Sys2Proof.Laws
end

