-- ==== Sys2Proof/Laws/KeptStore.lean ====
section
/-!
SUPPORT. What the definitions of CXL, placing, ingestion and attention keep (Laws/Kept.lean).
-/
namespace Sys2Proof.Laws

set_option maxRecDepth 4000

set_option Elab.async false

open Sys2Proof.Machine (State Fault Refusal)

variable {z : State} {F : Nat}

/-! ### CxlRegs -/

theorem kept_writeDoe (hF : Sub 1073741824 F) : ∀ a0 a1 a2 a3, Kept F z a0 → (Kept F z) (Sys2Proof.writeDoe a0 a1 a2 a3) := by
  unfold Sys2Proof.writeDoe
  intro v0 v1 v2 v3 v4
  refine kept_modLd (hF.sub rfl) _ _ _ ?_
  with_reducible assumption
theorem kept_maskFunction (hF : Sub 2056 F) : ∀ a0 a1 a2, Kept F z a0 → (Kept F z) (Sys2Proof.maskFunction a0 a1 a2) := by
  unfold Sys2Proof.maskFunction
  intro v0 v1 v2 v3
  extract_lets +onlyGivenNames l4_0
  refine (fun (el4_0 : (Kept F z) l4_0) => ?_) ?_
  rotate_left
  · refine kept_modOwner (hF.sub rfl) _ _ _ ?_
    with_reducible assumption
  clear_value l4_0
  split
  · with_reducible assumption
  · refine foldl_kept (P := (Kept F z)) ?_ ?_
    · with_reducible assumption
    · intro v11 v12 v13
      refine kept_sendPending (hF.sub rfl) _ _ _ ?_
      with_reducible assumption
theorem kept_execConfigRequest (hF : Sub 1073743884 F) : ∀ a0 a1 a2 a3, Kept F z a3 → (OnNext (Kept F z)) (Sys2Proof.Machine.execConfigRequest a0 a1 a2 a3) := by
  unfold Sys2Proof.Machine.execConfigRequest
  intro v0 v1 v2 v3 v4
  extract_lets +onlyGivenNames l5_0
  clear_value l5_0
  split
  · refine ans_next ?_
    with_reducible assumption
  · split
    · refine ans_next ?_
      refine kept_emit (hF.sub rfl) _ _ ?_
      with_reducible assumption
    · extract_lets +onlyGivenNames l13_0
      clear_value l13_0
      split
      · extract_lets +onlyGivenNames l15_0 l15_1 l15_2 l15_3
        clear_value l15_0 l15_1
        refine (fun (el15_2 : (Kept F z) l15_2) => ?_) ?_
        rotate_left
        · dsimp -zeta only [l15_2]
          split
          · refine kept_modLd (hF.sub rfl) _ _ _ ?_
            with_reducible assumption
          · refine kept_mk ?_
            with_reducible assumption
        clear_value l15_2
        refine (fun (el15_3 : (Kept F z) l15_3) => ?_) ?_
        rotate_left
        · dsimp -zeta only [l15_3]
          split
          · refine kept_maskFunction (hF.sub rfl) _ _ _ ?_
            with_reducible assumption
          · with_reducible assumption
        clear_value l15_3
        extract_lets +onlyGivenNames l27_0
        refine (fun (el27_0 : (Kept F z) l27_0) => ?_) ?_
        rotate_left
        · dsimp -zeta only [l27_0]
          split
          · refine kept_writeDoe (hF.sub rfl) _ _ _ _ ?_
            with_reducible assumption
          · with_reducible assumption
        clear_value l27_0
        refine ans_next ?_
        refine kept_emit (hF.sub rfl) _ _ ?_
        with_reducible assumption
      · extract_lets +onlyGivenNames l36_0
        clear_value l36_0
        split
        · refine ans_next ?_
          refine kept_emit (hF.sub rfl) _ _ ?_
          with_reducible assumption
        · split
          extract_lets +onlyGivenNames l42_0
          clear_value l42_0
          refine ans_next ?_
          refine kept_emit (hF.sub rfl) _ _ ?_
          refine snd_eq (by assumption) (?_ : OnSnd (Kept F z) (Sys2Proof.orFree _ _ _))
          refine kept_orFree (hF.sub rfl) _ _ _ ?_
          with_reducible assumption
theorem kept_execHdmDecoderCommit (hF : Sub 1073741824 F) : ∀ a0 a1 a2 a3 a4 a5 a6 a7, Kept F z a7 → (OnNext (Kept F z)) (Sys2Proof.Machine.execHdmDecoderCommit a0 a1 a2 a3 a4 a5 a6 a7) := by
  unfold Sys2Proof.Machine.execHdmDecoderCommit
  intro v0 v1 v2 v3 v4 v5 v6 v7 v8
  extract_lets +onlyGivenNames l9_0
  clear_value l9_0
  split
  · refine ans_next ?_
    with_reducible assumption
  · extract_lets +onlyGivenNames l13_0 l13_1 l13_2 l13_3 l13_4 l13_5 l13_6 l13_7
    clear_value l13_0 l13_1 l13_2 l13_3 l13_4 l13_5 l13_6 l13_7
    refine ans_next ?_
    refine kept_modLd (hF.sub rfl) _ _ _ ?_
    with_reducible assumption
theorem kept_writeCxlDword (hF : Sub 1073741824 F) : ∀ a0 a1 a2 a3, Kept F z a0 → (Kept F z) (Sys2Proof.writeCxlDword a0 a1 a2 a3) := by
  unfold Sys2Proof.writeCxlDword
  intro v0 v1 v2 v3 v4
  extract_lets +onlyGivenNames l5_0
  clear_value l5_0
  extract_lets +onlyGivenNames l6_0
  split
  · dsimp -zeta only [l6_0]
    split
    · refine kept_modLd (hF.sub rfl) _ _ _ ?_
      with_reducible assumption
    · refine kept_mk ?_
      with_reducible assumption
  · dsimp -zeta only [l6_0]
    split
    · refine kept_modLd (hF.sub rfl) _ _ _ ?_
      with_reducible assumption
    · refine kept_mk ?_
      with_reducible assumption
  · dsimp -zeta only [l6_0]
    split
    · refine kept_modLd (hF.sub rfl) _ _ _ ?_
      with_reducible assumption
    · refine kept_mk ?_
      with_reducible assumption
  · dsimp -zeta only [l6_0]
    split
    · refine kept_modLd (hF.sub rfl) _ _ _ ?_
      with_reducible assumption
    · refine kept_mk ?_
      with_reducible assumption
  · dsimp -zeta only [l6_0]
    split
    · refine kept_modLd (hF.sub rfl) _ _ _ ?_
      with_reducible assumption
    · refine kept_mk ?_
      with_reducible assumption
  · dsimp -zeta only [l6_0]
    split
    · refine kept_modLd (hF.sub rfl) _ _ _ ?_
      with_reducible assumption
    · refine kept_mk ?_
      with_reducible assumption
  · dsimp -zeta only [l6_0]
    split
    · refine kept_modLd (hF.sub rfl) _ _ _ ?_
      with_reducible assumption
    · refine kept_mk ?_
      with_reducible assumption
  · split
    · with_reducible assumption
    · extract_lets +onlyGivenNames l52_0
      clear_value l52_0
      split
      · with_reducible assumption
      · extract_lets +onlyGivenNames l55_0 l55_1
        refine (fun (el55_0 : (Kept F z) l55_0) => ?_) ?_
        rotate_left
        · refine kept_modLd (hF.sub rfl) _ _ _ ?_
          with_reducible assumption
        clear_value l55_0 l55_1
        split
        · split
          · refine kept_modLd (hF.sub rfl) _ _ _ ?_
            refine ans_eq (by assumption) (?_ : OnNext (Kept F z) (Sys2Proof.Machine.execHdmDecoderCommit _ _ _ _ _ _ _ _))
            refine kept_execHdmDecoderCommit (hF.sub rfl) _ _ _ _ _ _ _ _ ?_
            with_reducible assumption
          · with_reducible assumption
        · with_reducible assumption

/-! ### Cxl -/

theorem kept_execCxlMemRead (hF : Sub 54761213372 F) : ∀ a0 a1 a2, Kept F z a2 → (OnNext (Kept F z)) (Sys2Proof.Machine.execCxlMemRead a0 a1 a2) := by
  unfold Sys2Proof.Machine.execCxlMemRead
  intro v0 v1 v2 v3
  refine ans_next ?_
  refine kept_memRequest (hF.sub rfl) _ _ _ _ ?_
  with_reducible assumption
theorem kept_execCxlMemWrite (hF : Sub 54761213372 F) : ∀ a0 a1 a2 a3 a4 a5, Kept F z a5 → (OnNext (Kept F z)) (Sys2Proof.Machine.execCxlMemWrite a0 a1 a2 a3 a4 a5) := by
  unfold Sys2Proof.Machine.execCxlMemWrite
  intro v0 v1 v2 v3 v4 v5 v6
  refine ans_next ?_
  refine kept_memRequest (hF.sub rfl) _ _ _ _ ?_
  with_reducible assumption
theorem kept_execCxlMemOtherOpcode (hF : Sub 35433480200 F) : ∀ a0 a1 a2 a3, Kept F z a3 → (OnNext (Kept F z)) (Sys2Proof.Machine.execCxlMemOtherOpcode a0 a1 a2 a3) := by
  unfold Sys2Proof.Machine.execCxlMemOtherOpcode
  intro v0 v1 v2 v3 v4
  extract_lets +onlyGivenNames l5_0 l5_1
  clear_value l5_0 l5_1
  split
  · refine ans_next ?_
    with_reducible assumption
  · split
    · refine ans_next ?_
      refine kept_dropWrite (hF.sub rfl) _ _ _ ?_
      with_reducible assumption
    · refine ans_next ?_
      refine kept_emit (hF.sub rfl) _ _ ?_
      refine kept_mediaEvent (hF.sub rfl) _ _ _ _ ?_
      with_reducible assumption
theorem kept_execLdRateRelease (hF : Sub 54761213369 F) : ∀ a0 a1 a2, Kept F z a2 → (OnNext (Kept F z)) (Sys2Proof.Machine.execLdRateRelease a0 a1 a2) := by
  unfold Sys2Proof.Machine.execLdRateRelease
  intro v0 v1 v2 v3
  split
  · refine ans_next ?_
    with_reducible assumption
  · refine ans_next ?_
    refine kept_releaseLd (hF.sub rfl) _ _ ?_
    refine kept_atTime (hF.sub rfl) _ _ ?_
    with_reducible assumption
theorem kept_execWindowModeWrite (hF : Sub 1073743897 F) : ∀ a0 a1 a2 a3 a4, Kept F z a4 → (OnNext (Kept F z)) (Sys2Proof.Machine.execWindowModeWrite a0 a1 a2 a3 a4) := by
  unfold Sys2Proof.Machine.execWindowModeWrite
  intro v0 v1 v2 v3 v4 v5
  extract_lets +onlyGivenNames l6_0
  clear_value l6_0
  split
  · refine ans_next ?_
    with_reducible assumption
  · extract_lets +onlyGivenNames l10_0 l10_1
    refine (fun (el10_0 : (Kept F z) l10_0) => ?_) ?_
    rotate_left
    · refine kept_atTime (hF.sub rfl) _ _ ?_
      with_reducible assumption
    clear_value l10_0
    refine (fun (el10_1 : (Kept F z) l10_1) => ?_) ?_
    rotate_left
    · refine kept_count (hF.sub rfl) _ _ _ _ ?_
      with_reducible assumption
    clear_value l10_1
    split
    · refine ans_next ?_
      with_reducible assumption
    · extract_lets +onlyGivenNames l18_0 l18_1
      clear_value l18_0 l18_1
      split
      · refine ans_next ?_
        with_reducible assumption
      · split
        · refine ans_next ?_
          with_reducible assumption
        · extract_lets +onlyGivenNames l25_0 l25_1
          clear_value l25_0
          refine (fun (el25_1 : (Kept F z) l25_1) => ?_) ?_
          rotate_left
          · refine kept_modLd (hF.sub rfl) _ _ _ ?_
            with_reducible assumption
          clear_value l25_1
          refine ans_next ?_
          refine kept_cdatRebuild (hF.sub rfl) _ _ _ _ ?_
          with_reducible assumption
theorem kept_execWindowDrainDone (hF : Sub 1073741825 F) : ∀ a0 a1 a2 a3, Kept F z a3 → (OnNext (Kept F z)) (Sys2Proof.Machine.execWindowDrainDone a0 a1 a2 a3) := by
  unfold Sys2Proof.Machine.execWindowDrainDone
  intro v0 v1 v2 v3 v4
  split
  · refine ans_next ?_
    with_reducible assumption
  · split
    · refine ans_next ?_
      with_reducible assumption
    · refine ans_next ?_
      refine kept_modLd (hF.sub rfl) _ _ _ ?_
      refine kept_atTime (hF.sub rfl) _ _ ?_
      with_reducible assumption
theorem kept_settleRegions (hF : Sub 1073741824 F) : ∀ a0, Kept F z a0 → (Kept F z) (Sys2Proof.settleRegions a0) := by
  unfold Sys2Proof.settleRegions
  intro v0 v1
  refine kept_mk ?_
  with_reducible assumption
theorem kept_execExtentAssign (hF : Sub 47186443260 F) : ∀ a0 a1 a2, Kept F z a2 → (OnNext (Kept F z)) (Sys2Proof.Machine.execExtentAssign a0 a1 a2) := by
  unfold Sys2Proof.Machine.execExtentAssign
  intro v0 v1 v2 v3
  split
  · refine ans_next ?_
    with_reducible assumption
  · extract_lets +onlyGivenNames l7_0 l7_1 l7_2 l7_3 l7_4 l7_5
    clear_value l7_0 l7_1 l7_2 l7_3 l7_4 l7_5
    split
    · refine ans_next ?_
      refine kept_notManager (hF.sub rfl) _ _ ?_
      with_reducible assumption
    · split
      · refine ans_next ?_
        refine kept_putDesc (hF.sub rfl) _ _ ?_
        with_reducible assumption
      · split
        · refine ans_next ?_
          with_reducible assumption
        · split
          · refine ans_next ?_
            refine kept_putDesc (hF.sub rfl) _ _ ?_
            with_reducible assumption
          · split
            · refine ans_next ?_
              refine kept_putDesc (hF.sub rfl) _ _ ?_
              with_reducible assumption
            · split
              · refine ans_next ?_
                refine kept_putDesc (hF.sub rfl) _ _ ?_
                with_reducible assumption
              · split
                · refine ans_next ?_
                  refine kept_putDesc (hF.sub rfl) _ _ ?_
                  with_reducible assumption
                · extract_lets +onlyGivenNames l35_0 l35_1
                  refine (fun (el35_0 : (Kept F z) l35_0) => ?_) ?_
                  rotate_left
                  · refine kept_modLd (hF.sub rfl) _ _ _ ?_
                    with_reducible assumption
                  clear_value l35_0 l35_1
                  extract_lets +onlyGivenNames l38_0
                  refine (fun (el38_0 : (Kept F z) l38_0) => ?_) ?_
                  rotate_left
                  · dsimp -zeta only [l38_0]
                    split
                    · refine kept_mk ?_
                      with_reducible assumption
                    · with_reducible assumption
                  clear_value l38_0
                  refine ans_next ?_
                  refine kept_cdatRebuild (hF.sub rfl) _ _ _ _ ?_
                  refine kept_endNow (hF.sub rfl) _ _ _ _ _ _ ?_
                  with_reducible assumption
theorem kept_reclaimLent (hF : Sub 47186443260 F) : ∀ a0 a1 a2, Kept F z a0 → (OnFst (Kept F z)) (Sys2Proof.reclaimLent a0 a1 a2) := by
  unfold Sys2Proof.reclaimLent
  intro v0 v1 v2 v3
  extract_lets +onlyGivenNames l4_0 l4_1 l4_2 l4_3 l4_4
  clear_value l4_0
  refine (fun (el4_1 : (Kept F z) l4_1) => ?_) ?_
  rotate_left
  · refine kept_modLd (hF.sub rfl) _ _ _ ?_
    with_reducible assumption
  clear_value l4_1
  refine (fun (el4_2 : (Kept F z) l4_2) => ?_) ?_
  rotate_left
  · refine kept_mk ?_
    with_reducible assumption
  clear_value l4_2 l4_3
  refine (fun (el4_4 : (Kept F z) l4_4) => ?_) ?_
  rotate_left
  · refine foldl_kept (P := (Kept F z)) ?_ ?_
    · with_reducible assumption
    · intro v11 v12 v13
      split
      · refine kept_stopDesc (hF.sub rfl) _ _ _ _ ?_
        with_reducible assumption
      · with_reducible assumption
  clear_value l4_4
  refine fst_mk ?_
  refine foldl_kept (P := (Kept F z)) ?_ ?_
  · refine kept_settleRegions (hF.sub rfl) _ ?_
    with_reducible assumption
  · intro v22 v23 v24
    refine kept_cdatRebuild (hF.sub rfl) _ _ _ _ ?_
    with_reducible assumption
theorem kept_execExtentRevoke (hF : Sub 47186443261 F) : ∀ a0 a1 a2 a3, Kept F z a3 → (OnNext (Kept F z)) (Sys2Proof.Machine.execExtentRevoke a0 a1 a2 a3) := by
  unfold Sys2Proof.Machine.execExtentRevoke
  intro v0 v1 v2 v3 v4
  split
  · refine ans_next ?_
    with_reducible assumption
  · extract_lets +onlyGivenNames l8_0 l8_1 l8_2 l8_3
    clear_value l8_0 l8_1 l8_2 l8_3
    split
    · refine ans_next ?_
      refine kept_notManager (hF.sub rfl) _ _ ?_
      with_reducible assumption
    · split
      · refine ans_next ?_
        refine kept_putDesc (hF.sub rfl) _ _ ?_
        with_reducible assumption
      · split
        · refine ans_next ?_
          with_reducible assumption
        · split
          · refine ans_next ?_
            refine kept_putDesc (hF.sub rfl) _ _ ?_
            with_reducible assumption
          · split
            · refine ans_next ?_
              refine kept_putDesc (hF.sub rfl) _ _ ?_
              with_reducible assumption
            · split
              · refine ans_next ?_
                refine kept_putDesc (hF.sub rfl) _ _ ?_
                with_reducible assumption
              · extract_lets +onlyGivenNames l32_0
                refine (fun (el32_0 : (Kept F z) l32_0) => ?_) ?_
                rotate_left
                · refine kept_putDesc (hF.sub rfl) _ _ ?_
                  refine kept_atTime (hF.sub rfl) _ _ ?_
                  with_reducible assumption
                clear_value l32_0
                split
                refine ans_next ?_
                refine kept_mk ?_
                refine fst_eq (by assumption) (?_ : OnFst (Kept F z) (List.foldl _ _ _))
                refine foldl_kept (P := (OnFst (Kept F z))) ?_ ?_
                · refine fst_mk ?_
                  with_reducible assumption
                · intro v43 v44 v45
                  split
                  refine fst_mk ?_
                  refine fst_eq (by assumption) (?_ : OnFst (Kept F z) (Sys2Proof.reclaimLent _ _ _))
                  refine kept_reclaimLent (hF.sub rfl) _ _ _ ?_
                  refine fst_of (P := (Kept F z)) ?_
                  with_reducible assumption
theorem kept_endRevoke (hF : Sub 47186443260 F) : ∀ a0 a1, Kept F z a0 → (Kept F z) (Sys2Proof.endRevoke a0 a1) := by
  unfold Sys2Proof.endRevoke
  intro v0 v1 v2
  extract_lets +onlyGivenNames l3_0 l3_1 l3_2
  clear_value l3_0
  refine (fun (el3_1 : (Kept F z) l3_1) => ?_) ?_
  rotate_left
  · refine kept_mk ?_
    with_reducible assumption
  clear_value l3_1 l3_2
  extract_lets +onlyGivenNames l6_0
  refine (fun (el6_0 : (Kept F z) l6_0) => ?_) ?_
  rotate_left
  · dsimp -zeta only [l6_0]
    split
    · refine kept_endNow (hF.sub rfl) _ _ _ _ _ _ ?_
      with_reducible assumption
    · with_reducible assumption
  clear_value l6_0
  refine foldl_kept (P := (Kept F z)) ?_ ?_
  · refine kept_postFm (hF.sub rfl) _ _ _ _ _ _ _ ?_
    with_reducible assumption
  · intro v15 v16 v17
    refine kept_postEvent (hF.sub rfl) _ _ _ _ _ _ _ _ _ ?_
    with_reducible assumption
theorem kept_execRevokeDrainDone (hF : Sub 47186443260 F) : ∀ a0 a1 a2, Kept F z a2 → (OnNext (Kept F z)) (Sys2Proof.Machine.execRevokeDrainDone a0 a1 a2) := by
  unfold Sys2Proof.Machine.execRevokeDrainDone
  intro v0 v1 v2 v3
  split
  · refine ans_next ?_
    with_reducible assumption
  · extract_lets +onlyGivenNames l7_0
    clear_value l7_0
    split
    · extract_lets +onlyGivenNames l9_0 l9_1
      refine (fun (el9_0 : (Kept F z) l9_0) => ?_) ?_
      rotate_left
      · refine kept_modExt (hF.sub rfl) _ _ _ ?_
        with_reducible assumption
      clear_value l9_0 l9_1
      refine ans_next ?_
      refine kept_mk ?_
      with_reducible assumption
    · refine ans_next ?_
      refine kept_endRevoke (hF.sub rfl) _ _ ?_
      with_reducible assumption
theorem kept_execExtentClearDone (hF : Sub 47186443260 F) : ∀ a0 a1, Kept F z a1 → (OnNext (Kept F z)) (Sys2Proof.Machine.execExtentClearDone a0 a1) := by
  unfold Sys2Proof.Machine.execExtentClearDone
  intro v0 v1 v2
  split
  · refine ans_next ?_
    with_reducible assumption
  · extract_lets +onlyGivenNames l6_0 l6_1
    refine (fun (el6_0 : (Kept F z) l6_0) => ?_) ?_
    rotate_left
    · refine kept_clearExtent (hF.sub rfl) _ _ ?_
      with_reducible assumption
    clear_value l6_0
    refine (fun (el6_1 : (Kept F z) l6_1) => ?_) ?_
    rotate_left
    · dsimp -zeta only [l6_1]
      split
      · refine kept_modExt (hF.sub rfl) _ _ _ ?_
        with_reducible assumption
      · with_reducible assumption
    clear_value l6_1
    split
    · refine ans_next ?_
      refine kept_endRevoke (hF.sub rfl) _ _ ?_
      with_reducible assumption
    · refine ans_next ?_
      with_reducible assumption
theorem kept_execRegionPublish (hF : Sub 1073743900 F) : ∀ a0 a1 a2, Kept F z a2 → (OnNext (Kept F z)) (Sys2Proof.Machine.execRegionPublish a0 a1 a2) := by
  unfold Sys2Proof.Machine.execRegionPublish
  intro v0 v1 v2 v3
  refine ans_next ?_
  refine kept_mboxRun (hF.sub rfl) _ _ _ _ _ _ _ ?_ ?_
  · with_reducible assumption
  · intro v7
    extract_lets +onlyGivenNames l8_0 l8_1 l8_2 l8_3
    clear_value l8_0 l8_1 l8_2 l8_3
    split
    · refine kept_mboxReply (hF.sub rfl) _ _ _ _ _ _ _ _ _ ?_
      with_reducible assumption
    · split
      · refine kept_mboxReply (hF.sub rfl) _ _ _ _ _ _ _ _ _ ?_
        with_reducible assumption
      · split
        · refine kept_mboxReply (hF.sub rfl) _ _ _ _ _ _ _ _ _ ?_
          with_reducible assumption
        · extract_lets +onlyGivenNames l18_0 l18_1 l18_2
          clear_value l18_0 l18_1
          refine (fun (el18_2 : (Kept F z) l18_2) => ?_) ?_
          rotate_left
          · refine kept_mk ?_
            with_reducible assumption
          clear_value l18_2
          extract_lets +onlyGivenNames l21_0
          refine (fun (el21_0 : (Kept F z) l21_0) => ?_) ?_
          rotate_left
          · refine kept_mboxReply (hF.sub rfl) _ _ _ _ _ _ _ _ _ ?_
            with_reducible assumption
          clear_value l21_0
          refine foldl_kept (P := (Kept F z)) ?_ ?_
          · with_reducible assumption
          · intro v26 v27 v28
            refine kept_postEvent (hF.sub rfl) _ _ _ _ _ _ _ _ _ ?_
            with_reducible assumption
theorem kept_execRegionQuery (hF : Sub 12 F) : ∀ a0 a1 a2, Kept F z a2 → (OnNext (Kept F z)) (Sys2Proof.Machine.execRegionQuery a0 a1 a2) := by
  unfold Sys2Proof.Machine.execRegionQuery
  intro v0 v1 v2 v3
  refine ans_next ?_
  refine kept_mboxRun (hF.sub rfl) _ _ _ _ _ _ _ ?_ ?_
  · with_reducible assumption
  · intro v7
    extract_lets +onlyGivenNames l8_0 l8_1
    clear_value l8_0 l8_1
    split
    · refine kept_mboxReply (hF.sub rfl) _ _ _ _ _ _ _ _ _ ?_
      with_reducible assumption
    · split
      · refine kept_mboxReply (hF.sub rfl) _ _ _ _ _ _ _ _ _ ?_
        with_reducible assumption
      · refine kept_mboxReply (hF.sub rfl) _ _ _ _ _ _ _ _ _ ?_
        with_reducible assumption
theorem kept_cxlRun (hF : Sub 8 F) : ∀ a0 a1 a2 a3, Kept F z a0 → (∀ x0, (Kept F z) (x0) → (Kept F z) (a3 x0)) → (Kept F z) (Sys2Proof.cxlRun a0 a1 a2 a3) := by
  unfold Sys2Proof.cxlRun
  intro v0 v1 v2 v3 v4 v5
  split
  · with_reducible assumption
  · split
    · refine kept_emit (hF.sub rfl) _ _ ?_
      with_reducible assumption
    · refine v5 _ ?_
      with_reducible assumption
theorem kept_execIdentifyMemoryDevice (hF : Sub 12 F) : ∀ a0 a1, Kept F z a1 → (OnNext (Kept F z)) (Sys2Proof.Machine.execIdentifyMemoryDevice a0 a1) := by
  unfold Sys2Proof.Machine.execIdentifyMemoryDevice
  intro v0 v1 v2
  refine ans_next ?_
  refine kept_cxlRun (hF.sub rfl) _ _ _ _ ?_ ?_
  · with_reducible assumption
  · intro v6 v7
    split
    split
    refine kept_emit (hF.sub rfl) _ _ ?_
    refine snd_eq (by assumption) (?_ : OnSnd (Kept F z) (Sys2Proof.drawBytes _ _))
    refine kept_drawBytes (hF.sub rfl) _ _ ?_
    refine snd_eq (by assumption) (?_ : OnSnd (Kept F z) (Sys2Proof.drawBytes _ _))
    refine kept_drawBytes (hF.sub rfl) _ _ ?_
    with_reducible assumption
theorem kept_execGetHealthInfo (hF : Sub 12 F) : ∀ a0 a1, Kept F z a1 → (OnNext (Kept F z)) (Sys2Proof.Machine.execGetHealthInfo a0 a1) := by
  unfold Sys2Proof.Machine.execGetHealthInfo
  intro v0 v1 v2
  refine ans_next ?_
  refine kept_cxlRun (hF.sub rfl) _ _ _ _ ?_ ?_
  · with_reducible assumption
  · intro v6 v7
    split
    split
    refine kept_emit (hF.sub rfl) _ _ ?_
    refine snd_eq (by assumption) (?_ : OnSnd (Kept F z) (Sys2Proof.drawBytes _ _))
    refine kept_drawBytes (hF.sub rfl) _ _ ?_
    refine snd_eq (by assumption) (?_ : OnSnd (Kept F z) (Sys2Proof.drawBytes _ _))
    refine kept_drawBytes (hF.sub rfl) _ _ ?_
    with_reducible assumption
theorem kept_execGetEventRecords (hF : Sub 8 F) : ∀ a0 a1 a2, Kept F z a2 → (OnNext (Kept F z)) (Sys2Proof.Machine.execGetEventRecords a0 a1 a2) := by
  unfold Sys2Proof.Machine.execGetEventRecords
  intro v0 v1 v2 v3
  refine ans_next ?_
  refine kept_cxlRun (hF.sub rfl) _ _ _ _ ?_ ?_
  · with_reducible assumption
  · intro v7 v8
    refine kept_emit (hF.sub rfl) _ _ ?_
    with_reducible assumption
theorem kept_execClearEventRecords (hF : Sub 1073741832 F) : ∀ a0 a1 a2 a3, Kept F z a3 → (OnNext (Kept F z)) (Sys2Proof.Machine.execClearEventRecords a0 a1 a2 a3) := by
  unfold Sys2Proof.Machine.execClearEventRecords
  intro v0 v1 v2 v3 v4
  refine ans_next ?_
  refine kept_cxlRun (hF.sub rfl) _ _ _ _ ?_ ?_
  · with_reducible assumption
  · intro v8 v9
    split
    · refine kept_emit (hF.sub rfl) _ _ ?_
      with_reducible assumption
    · extract_lets +onlyGivenNames l13_0
      refine (fun (el13_0 : (Kept F z) l13_0) => ?_) ?_
      rotate_left
      · dsimp -zeta only [l13_0]
        split
        · refine kept_modLd (hF.sub rfl) _ _ _ ?_
          with_reducible assumption
        · with_reducible assumption
      clear_value l13_0
      refine kept_emit (hF.sub rfl) _ _ ?_
      with_reducible assumption
theorem kept_execGetPoisonList (hF : Sub 8 F) : ∀ a0 a1 a2 a3, Kept F z a3 → (OnNext (Kept F z)) (Sys2Proof.Machine.execGetPoisonList a0 a1 a2 a3) := by
  unfold Sys2Proof.Machine.execGetPoisonList
  intro v0 v1 v2 v3 v4
  refine ans_next ?_
  refine kept_cxlRun (hF.sub rfl) _ _ _ _ ?_ ?_
  · with_reducible assumption
  · intro v8 v9
    split
    extract_lets +onlyGivenNames l11_0 l11_1 l11_2
    clear_value l11_0 l11_1 l11_2
    refine kept_emit (hF.sub rfl) _ _ ?_
    with_reducible assumption
theorem kept_execInjectPoison (hF : Sub 34184 F) : ∀ a0 a1 a2, Kept F z a2 → (OnNext (Kept F z)) (Sys2Proof.Machine.execInjectPoison a0 a1 a2) := by
  unfold Sys2Proof.Machine.execInjectPoison
  intro v0 v1 v2 v3
  refine ans_next ?_
  refine kept_cxlRun (hF.sub rfl) _ _ _ _ ?_ ?_
  · with_reducible assumption
  · intro v7 v8
    extract_lets +onlyGivenNames l9_0
    clear_value l9_0
    split
    · refine kept_emit (hF.sub rfl) _ _ ?_
      with_reducible assumption
    · split
      · refine kept_emit (hF.sub rfl) _ _ ?_
        with_reducible assumption
      · refine kept_emit (hF.sub rfl) _ _ ?_
        refine kept_poisonLine (hF.sub rfl) _ _ _ ?_
        with_reducible assumption
theorem kept_execClearPoison (hF : Sub 424 F) : ∀ a0 a1 a2 a3, Kept F z a3 → (OnNext (Kept F z)) (Sys2Proof.Machine.execClearPoison a0 a1 a2 a3) := by
  unfold Sys2Proof.Machine.execClearPoison
  intro v0 v1 v2 v3 v4
  refine ans_next ?_
  refine kept_cxlRun (hF.sub rfl) _ _ _ _ ?_ ?_
  · with_reducible assumption
  · intro v8 v9
    split
    · refine kept_emit (hF.sub rfl) _ _ ?_
      with_reducible assumption
    · refine kept_emit (hF.sub rfl) _ _ ?_
      refine kept_writeHbm (hF.sub rfl) _ _ _ _ ?_
      with_reducible assumption
theorem kept_execGetSupportedLogs (hF : Sub 12 F) : ∀ a0 a1, Kept F z a1 → (OnNext (Kept F z)) (Sys2Proof.Machine.execGetSupportedLogs a0 a1) := by
  unfold Sys2Proof.Machine.execGetSupportedLogs
  intro v0 v1 v2
  refine ans_next ?_
  refine kept_cxlRun (hF.sub rfl) _ _ _ _ ?_ ?_
  · with_reducible assumption
  · intro v6 v7
    split
    refine kept_emit (hF.sub rfl) _ _ ?_
    refine snd_eq (by assumption) (?_ : OnSnd (Kept F z) (Sys2Proof.drawBytes _ _))
    refine kept_drawBytes (hF.sub rfl) _ _ ?_
    with_reducible assumption
theorem kept_execGetLog (hF : Sub 12 F) : ∀ a0 a1 a2 a3 a4, Kept F z a4 → (OnNext (Kept F z)) (Sys2Proof.Machine.execGetLog a0 a1 a2 a3 a4) := by
  unfold Sys2Proof.Machine.execGetLog
  intro v0 v1 v2 v3 v4 v5
  refine ans_next ?_
  refine kept_cxlRun (hF.sub rfl) _ _ _ _ ?_ ?_
  · with_reducible assumption
  · intro v9 v10
    split
    refine kept_emit (hF.sub rfl) _ _ ?_
    refine snd_eq (by assumption) (?_ : OnSnd (Kept F z) (Sys2Proof.drawBytes _ _))
    refine kept_drawBytes (hF.sub rfl) _ _ ?_
    with_reducible assumption
theorem kept_execGetTimestamp (hF : Sub 12 F) : ∀ a0 a1, Kept F z a1 → (OnNext (Kept F z)) (Sys2Proof.Machine.execGetTimestamp a0 a1) := by
  unfold Sys2Proof.Machine.execGetTimestamp
  intro v0 v1 v2
  refine ans_next ?_
  refine kept_cxlRun (hF.sub rfl) _ _ _ _ ?_ ?_
  · with_reducible assumption
  · intro v6 v7
    split
    refine kept_emit (hF.sub rfl) _ _ ?_
    refine snd_eq (by assumption) (?_ : OnSnd (Kept F z) (Sys2Proof.drawBytes _ _))
    refine kept_drawBytes (hF.sub rfl) _ _ ?_
    with_reducible assumption
theorem kept_execUnsupportedCommand (hF : Sub 8 F) : ∀ a0 a1 a2, Kept F z a2 → (OnNext (Kept F z)) (Sys2Proof.Machine.execUnsupportedCommand a0 a1 a2) := by
  unfold Sys2Proof.Machine.execUnsupportedCommand
  intro v0 v1 v2 v3
  refine ans_next ?_
  refine kept_cxlRun (hF.sub rfl) _ _ _ _ ?_ ?_
  · with_reducible assumption
  · intro v7 v8
    refine kept_emit (hF.sub rfl) _ _ ?_
    with_reducible assumption
theorem kept_setQos (hF : Sub 6144 F) : ∀ a0 a1 a2 a3, Kept F z a0 → (Kept F z) (Sys2Proof.setQos a0 a1 a2 a3) := by
  unfold Sys2Proof.setQos
  intro v0 v1 v2 v3 v4
  refine foldl_kept (P := (Kept F z)) ?_ ?_
  · with_reducible assumption
  · intro v7 v8 v9
    extract_lets +onlyGivenNames l10_0 l10_1 l10_2
    clear_value l10_0 l10_1 l10_2
    split
    · with_reducible assumption
    · extract_lets +onlyGivenNames l13_0
      clear_value l13_0
      split
      · refine kept_count (hF.sub rfl) _ _ _ _ ?_
        with_reducible assumption
      · refine kept_modPart (hF.sub rfl) _ _ _ ?_
        with_reducible assumption
theorem kept_execSetQosAllocatedBw (hF : Sub 6152 F) : ∀ a0 a1 a2, Kept F z a2 → (OnNext (Kept F z)) (Sys2Proof.Machine.execSetQosAllocatedBw a0 a1 a2) := by
  unfold Sys2Proof.Machine.execSetQosAllocatedBw
  intro v0 v1 v2 v3
  split
  · refine ans_next ?_
    with_reducible assumption
  · refine ans_next ?_
    refine kept_emit (hF.sub rfl) _ _ ?_
    refine kept_setQos (hF.sub rfl) _ _ _ _ ?_
    with_reducible assumption
theorem kept_execSetQosBwLimit (hF : Sub 6152 F) : ∀ a0 a1 a2, Kept F z a2 → (OnNext (Kept F z)) (Sys2Proof.Machine.execSetQosBwLimit a0 a1 a2) := by
  unfold Sys2Proof.Machine.execSetQosBwLimit
  intro v0 v1 v2 v3
  split
  · refine ans_next ?_
    with_reducible assumption
  · refine ans_next ?_
    refine kept_emit (hF.sub rfl) _ _ ?_
    refine kept_setQos (hF.sub rfl) _ _ _ _ ?_
    with_reducible assumption
theorem kept_execFmApiCommand (hF : Sub 12 F) : ∀ a0 a1 a2, Kept F z a2 → (OnNext (Kept F z)) (Sys2Proof.Machine.execFmApiCommand a0 a1 a2) := by
  unfold Sys2Proof.Machine.execFmApiCommand
  intro v0 v1 v2 v3
  split
  · refine ans_next ?_
    with_reducible assumption
  · extract_lets +onlyGivenNames l7_0 l7_1 l7_2
    clear_value l7_0 l7_1 l7_2
    split
    · refine ans_next ?_
      refine kept_emit (hF.sub rfl) _ _ ?_
      with_reducible assumption
    · split
      · refine ans_next ?_
        refine kept_emit (hF.sub rfl) _ _ ?_
        with_reducible assumption
      · split
        · split
          refine ans_next ?_
          refine kept_emit (hF.sub rfl) _ _ ?_
          refine snd_eq (by assumption) (?_ : OnSnd (Kept F z) (Sys2Proof.drawBytes _ _))
          refine kept_drawBytes (hF.sub rfl) _ _ ?_
          with_reducible assumption
        · refine ans_next ?_
          refine kept_emit (hF.sub rfl) _ _ ?_
          with_reducible assumption

/-! ### Place -/

theorem kept_placeRun (hF : Sub 17179885568 F) : ∀ a0 a1 a2 a3 a4 a5, Kept F z a0 → (∀ x0, (∀ x1, (∀ x2, (Kept F z) (x2) → (OnFst (Kept F z)) (a5 x0 x1 x2)))) → (OnNext (Kept F z)) (Sys2Proof.placeRun a0 a1 a2 a3 a4 a5) := by
  unfold Sys2Proof.placeRun
  intro v0 v1 v2 v3 v4 v5 v6 v7
  split
  · refine ans_next ?_
    with_reducible assumption
  · split
    · refine ans_next ?_
      refine kept_putDesc (hF.sub rfl) _ _ ?_
      with_reducible assumption
    · split
      · refine ans_next ?_
        with_reducible assumption
      · split
        · refine ans_next ?_
          refine kept_putDesc (hF.sub rfl) _ _ ?_
          with_reducible assumption
        · split
          · refine ans_next ?_
            refine kept_putDesc (hF.sub rfl) _ _ ?_
            with_reducible assumption
          · split
            · refine ans_next ?_
              refine kept_putDesc (hF.sub rfl) _ _ ?_
              with_reducible assumption
            · split
              split
              · refine ans_next ?_
                refine kept_putDesc (hF.sub rfl) _ _ ?_
                refine fst_eq (by assumption) (?_ : OnFst (Kept F z) _)
                refine v7 _ _ _ ?_
                with_reducible assumption
              · refine ans_next ?_
                refine foldl_kept (P := (Kept F z)) ?_ ?_
                · with_reducible assumption
                · intro v40 v41 v42
                  refine kept_startWake (hF.sub rfl) _ _ ?_
                  with_reducible assumption
theorem kept_takeRuns (hF : Sub 4100 F) : ∀ a0 a1 a2, Kept F z a0 → (OnSome (OnSnd (Kept F z))) (Sys2Proof.takeRuns a0 a1 a2) := by
  intro a0 a1 a2
  induction a2 generalizing a0 with
  | nil => intro h; exact h
  | cons c r ih =>
    intro h
    unfold takeRuns
    split
    · exact opt_none
    · refine map_kept (OnSnd (Kept F z)) ?_ ?_
      · refine ih _ ?_
        refine os_eq (by assumption) (?_ : OnSome (OnSnd (Kept F z)) (Sys2Proof.takeBlocks _ _ _))
        refine kept_takeBlocks (hF.sub rfl) _ _ _ ?_
        with_reducible assumption
      · intro v7 v8
        refine snd_mk ?_
        refine snd_of (P := (Kept F z)) ?_
        with_reducible assumption
theorem kept_takeTables (hF : Sub 4100 F) : ∀ a0 a1 a2, Kept F z a0 → (OnSome (OnSnd (OnSnd (Kept F z)))) (Sys2Proof.takeTables a0 a1 a2) := by
  unfold Sys2Proof.takeTables
  intro v0 v1 v2 v3
  extract_lets +onlyGivenNames l4_0
  clear_value l4_0
  split
  · extract_lets +onlyGivenNames l6_0
    refine (fun (el6_0 : (Kept F z) l6_0) => ?_) ?_
    rotate_left
    · dsimp -zeta only [l6_0]
      split
      · refine kept_modPart (hF.sub rfl) _ _ _ ?_
        refine os_eq (by assumption) (?_ : OnSome (OnSnd (Kept F z)) (Sys2Proof.takeRuns _ _ _))
        refine kept_takeRuns (hF.sub rfl) _ _ _ ?_
        with_reducible assumption
      · refine os_eq (by assumption) (?_ : OnSome (OnSnd (Kept F z)) (Sys2Proof.takeRuns _ _ _))
        refine kept_takeRuns (hF.sub rfl) _ _ _ ?_
        with_reducible assumption
    clear_value l6_0
    refine opt_some ?_
    refine snd_mk ?_
    refine snd_mk ?_
    with_reducible assumption
  · exact opt_none
theorem kept_takeLists (hF : Sub 4100 F) : ∀ a0 a1 a2 a3, Kept F z a0 → (OnSome (OnSnd (OnSnd (Kept F z)))) (Sys2Proof.takeLists a0 a1 a2 a3) := by
  unfold Sys2Proof.takeLists
  intro v0 v1 v2 v3 v4
  extract_lets +onlyGivenNames l5_0
  refine (fun (el5_0 : (OnSome (OnSnd (OnSnd (Kept F z)))) l5_0) => ?_) ?_
  rotate_left
  · dsimp -zeta only [l5_0]
    split
    · refine opt_some ?_
      refine snd_mk ?_
      refine snd_mk ?_
      with_reducible assumption
    · refine map_kept (OnSnd (Kept F z)) ?_ ?_
      · refine kept_takeBlocks (hF.sub rfl) _ _ _ ?_
        with_reducible assumption
      · intro v15 v16
        refine snd_mk ?_
        refine snd_mk ?_
        refine snd_of (P := (Kept F z)) ?_
        with_reducible assumption
  clear_value l5_0
  split
  · exact opt_none
  · split
    · refine opt_some ?_
      refine snd_mk ?_
      refine snd_mk ?_
      exact el5_0
    · refine map_kept (OnSnd (Kept F z)) ?_ ?_
      · refine kept_takeBlocks (hF.sub rfl) _ _ _ ?_
        exact el5_0
      · intro v31 v32
        refine snd_mk ?_
        refine snd_mk ?_
        refine snd_of (P := (Kept F z)) ?_
        with_reducible assumption
theorem kept_needWords (hF : Sub 4100 F) : ∀ a0 a1 a2, OnPlace (Kept F z) a0 → (OnResult Always (OnPlace (Kept F z))) (Sys2Proof.needWords a0 a1 a2) := by
  unfold Sys2Proof.needWords
  intro v0 v1 v2 v3
  split
  · refine exc_ok ?_
    with_reducible assumption
  · split
    · exact exc_error trivial
    · refine exc_ok ?_
      refine acc_mk ?_
      refine os_eq (by assumption) (?_ : OnSome (OnSnd (Kept F z)) (Sys2Proof.takeBlocks _ _ _))
      refine kept_takeBlocks (hF.sub rfl) _ _ _ ?_
      refine acc_of (P := (Kept F z)) ?_
      with_reducible assumption
theorem kept_stageDrop (hF : Sub 0 F) : ∀ a0 a1 a2 a3 a4 a5, OnPlace (Kept F z) a0 → (OnPlace (Kept F z)) (Sys2Proof.stageDrop a0 a1 a2 a3 a4 a5) := by
  unfold Sys2Proof.stageDrop
  intro v0 v1 v2 v3 v4 v5 v6
  extract_lets +onlyGivenNames l7_0 l7_1 l7_2 l7_3
  clear_value l7_0 l7_1 l7_2 l7_3
  refine acc_mk ?_
  refine acc_of (P := (Kept F z)) ?_
  with_reducible assumption
theorem kept_takeReused (hF : Sub 65536 F) : ∀ a0 a1, OnPlace (Kept F z) a0 → (OnPlace (Kept F z)) (Sys2Proof.takeReused a0 a1) := by
  unfold Sys2Proof.takeReused
  intro v0 v1 v2
  extract_lets +onlyGivenNames l3_0 l3_1
  clear_value l3_0
  refine acc_mk ?_
  dsimp -zeta only [l3_1]
  refine kept_setFrame (hF.sub rfl) _ _ _ ?_
  refine acc_of (P := (Kept F z)) ?_
  with_reducible assumption
theorem kept_policyFrame (hF : Sub 65536 F) : ∀ a0 a1 a2 a3 a4 a5 a6, OnPlace (Kept F z) a0 → (OnResult Always (OnSnd (OnPlace (Kept F z)))) (Sys2Proof.policyFrame a0 a1 a2 a3 a4 a5 a6) := by
  unfold Sys2Proof.policyFrame
  intro v0 v1 v2 v3 v4 v5 v6 v7
  extract_lets +onlyGivenNames l8_0
  clear_value l8_0
  split
  · split
    · split
      · extract_lets +onlyGivenNames l12_0
        refine (fun (el12_0 : (OnPlace (Kept F z)) l12_0) => ?_) ?_
        rotate_left
        · refine kept_takeReused (hF.sub rfl) _ _ ?_
          refine kept_stageDrop (hF.sub rfl) _ _ _ _ _ _ ?_
          with_reducible assumption
        clear_value l12_0
        refine exc_ok ?_
        refine snd_mk ?_
        refine acc_mk ?_
        refine acc_of (P := (Kept F z)) ?_
        with_reducible assumption
      · exact exc_error trivial
    · exact exc_error trivial
  · split
    · exact exc_error trivial
    · split
      · exact exc_error trivial
      · extract_lets +onlyGivenNames l31_0 l31_1 l31_2
        clear_value l31_0 l31_1
        refine (fun (el31_2 : (OnPlace (Kept F z)) l31_2) => ?_) ?_
        rotate_left
        · refine kept_takeReused (hF.sub rfl) _ _ ?_
          refine acc_mk ?_
          refine acc_of (P := (Kept F z)) ?_
          with_reducible assumption
        clear_value l31_2
        refine exc_ok ?_
        refine snd_mk ?_
        refine acc_mk ?_
        refine acc_of (P := (Kept F z)) ?_
        with_reducible assumption
  · exact exc_error trivial
theorem kept_newFrame (hF : Sub 65536 F) : ∀ a0 a1 a2 a3 a4 a5 a6 a7 a8, OnPlace (Kept F z) a0 → (OnResult Always (OnSnd (OnPlace (Kept F z)))) (Sys2Proof.newFrame a0 a1 a2 a3 a4 a5 a6 a7 a8) := by
  unfold Sys2Proof.newFrame
  intro v0 v1 v2 v3 v4 v5 v6 v7 v8 v9
  extract_lets +onlyGivenNames l10_0 l10_1 l10_2 l10_3
  clear_value l10_0 l10_1 l10_2
  refine (fun (el10_3 : (OnPlace (Kept F z)) l10_3) => ?_) ?_
  rotate_left
  · dsimp -zeta only [l10_3]
    split
    · refine kept_stageDrop (hF.sub rfl) _ _ _ _ _ _ ?_
      with_reducible assumption
    · with_reducible assumption
  clear_value l10_3
  split
  · refine exc_ok ?_
    refine snd_mk ?_
    refine kept_takeReused (hF.sub rfl) _ _ ?_
    with_reducible assumption
  · split
    · refine exc_ok ?_
      refine snd_mk ?_
      refine acc_mk ?_
      refine kept_reserveFrame (hF.sub rfl) _ _ ?_
      refine acc_of (P := (Kept F z)) ?_
      with_reducible assumption
    · refine kept_policyFrame (hF.sub rfl) _ _ _ _ _ _ _ ?_
      refine acc_mk ?_
      refine acc_of (P := (Kept F z)) ?_
      with_reducible assumption
theorem kept_placePage (hF : Sub 4100 F) : ∀ a0 a1 a2 a3 a4 a5 a6 a7 a8 a9 a10 a11 a12, OnPlace (Kept F z) a0 → (OnResult Always (OnPlace (Kept F z))) (Sys2Proof.placePage a0 a1 a2 a3 a4 a5 a6 a7 a8 a9 a10 a11 a12) := by
  unfold Sys2Proof.placePage
  intro v0 v1 v2 v3 v4 v5 v6 v7 v8 v9 v10 v11 v12 v13
  split
  · exact exc_error trivial
  · extract_lets +onlyGivenNames l17_0
    clear_value l17_0
    extract_lets +onlyGivenNames l18_0
    clear_value l18_0
    split
    · exact exc_error trivial
    · extract_lets +onlyGivenNames l22_0
      clear_value l22_0
      refine exc_ok ?_
      refine acc_mk ?_
      refine oss_eq (by assumption) (?_ : OnSome (OnSnd (OnSnd (Kept F z))) (Sys2Proof.takeLists _ _ _ _))
      refine kept_takeLists (hF.sub rfl) _ _ _ _ ?_
      refine acc_of (P := (Kept F z)) ?_
      refine exc_ok_eq (by assumption) (?_ : OnResult Always (OnPlace (Kept F z)) _)
      split
      · refine kept_needWords (hF.sub rfl) _ _ _ ?_
        with_reducible assumption
      · refine exc_ok ?_
        with_reducible assumption
theorem kept_appendPage (hF : Sub 69636 F) : ∀ a0 a1 a2 a3 a4 a5 a6 a7 a8 a9, OnPlace (Kept F z) a0 → (OnResult Always (OnPlace (Kept F z))) (Sys2Proof.appendPage a0 a1 a2 a3 a4 a5 a6 a7 a8 a9) := by
  unfold Sys2Proof.appendPage
  intro v0 v1 v2 v3 v4 v5 v6 v7 v8 v9 v10
  extract_lets +onlyGivenNames l11_0 l11_1 l11_2 l11_3 l11_4 l11_5 l11_6 l11_7
  clear_value l11_0 l11_1 l11_2 l11_3 l11_4 l11_5
  refine (fun (el11_6 : (OnPlace (Kept F z)) l11_6) => ?_) ?_
  rotate_left
  · refine acc_mk ?_
    refine acc_of (P := (Kept F z)) ?_
    with_reducible assumption
  clear_value l11_6 l11_7
  split
  · refine kept_placePage (hF.sub rfl) _ _ _ _ _ _ _ _ _ _ _ _ _ ?_
    with_reducible assumption
  · split
    · exact exc_error trivial
    · split
      · exact exc_error trivial
      · extract_lets +onlyGivenNames l24_0 l24_1 l24_2 l24_3
        clear_value l24_0 l24_1 l24_2 l24_3
        refine kept_placePage (hF.sub rfl) _ _ _ _ _ _ _ _ _ _ _ _ _ ?_
        refine xs_eq (by assumption) (?_ : OnResult Always (OnSnd (OnPlace (Kept F z))) (Sys2Proof.newFrame _ _ _ _ _ _ _ _ _))
        refine kept_newFrame (hF.sub rfl) _ _ _ _ _ _ _ _ _ ?_
        refine acc_mk ?_
        refine acc_of (P := (Kept F z)) ?_
        with_reducible assumption
theorem kept_appendHead (hF : Sub 69636 F) : ∀ a0 a1 a2 a3 a4 a5 a6 a7 a8 a9 a10, OnPlace (Kept F z) a8 → (OnResult Always (OnPlace (Kept F z))) (Sys2Proof.appendHead a0 a1 a2 a3 a4 a5 a6 a7 a8 a9 a10) := by
  intro a0 a1 a2 a3 a4 a5 a6 a7
  induction a7 with
  | zero =>
    intro a8 a9 a10 h
    unfold appendHead
    refine exc_ok ?_
    with_reducible assumption
  | succ n ih =>
    intro a8 a9 a10 h
    unfold appendHead
    split
    · refine exc_ok ?_
      with_reducible assumption
    · extract_lets +onlyGivenNames l3_0 l3_1 l3_2 l3_3
      clear_value l3_0 l3_1 l3_2 l3_3
      split
      · exact exc_error trivial
      · refine ih _ _ _ ?_
        refine exc_ok_eq (by assumption) (?_ : OnResult Always (OnPlace (Kept F z)) (Sys2Proof.appendPage _ _ _ _ _ _ _ _ _ _))
        refine kept_appendPage (hF.sub rfl) _ _ _ _ _ _ _ _ _ _ ?_
        with_reducible assumption
theorem kept_placeRefuse (hF : Sub 2048 F) : ∀ a0 a1 a2 a3, Kept F z a2 → (OnFst (Kept F z)) (Sys2Proof.placeRefuse a0 a1 a2 a3) := by
  unfold Sys2Proof.placeRefuse
  intro v0 v1 v2 v3 v4
  refine fst_mk ?_
  split
  · with_reducible assumption
  · refine kept_count (hF.sub rfl) _ _ _ _ ?_
    with_reducible assumption
theorem kept_placeEnd (hF : Sub 2048 F) : ∀ a0 a1 a2 a3 a4, Kept F z a2 → (OnFst (Kept F z)) (Sys2Proof.placeEnd a0 a1 a2 a3 a4) := by
  unfold Sys2Proof.placeEnd
  intro v0 v1 v2 v3 v4 v5
  refine kept_placeRefuse (hF.sub rfl) _ _ _ _ ?_
  with_reducible assumption
theorem kept_placeDone (hF : Sub 19327354888 F) : ∀ a0 a1 a2 a3, OnPlace (Kept F z) a2 → (OnFst (Kept F z)) (Sys2Proof.placeDone a0 a1 a2 a3) := by
  unfold Sys2Proof.placeDone
  intro v0 v1 v2 v3 v4
  extract_lets +onlyGivenNames l5_0 l5_1
  refine (fun (el5_0 : (Kept F z) l5_0) => ?_) ?_
  rotate_left
  · dsimp -zeta only [l5_0]
    split
    · refine acc_of (P := (Kept F z)) ?_
      with_reducible assumption
    · refine kept_count (hF.sub rfl) _ _ _ _ ?_
      refine acc_of (P := (Kept F z)) ?_
      with_reducible assumption
  clear_value l5_0 l5_1
  refine fst_mk ?_
  refine foldl_kept (P := (Kept F z)) ?_ ?_
  · with_reducible assumption
  · intro v16 v17 v18
    refine kept_addSpill (hF.sub rfl) _ _ _ ?_
    with_reducible assumption
theorem kept_appendRun (hF : Sub 29192591804 F) : ∀ a0 a1 a2, Kept F z a2 → (OnFst (Kept F z)) (Sys2Proof.appendRun a0 a1 a2) := by
  unfold Sys2Proof.appendRun
  intro v0 v1 v2 v3
  extract_lets +onlyGivenNames l4_0 l4_1 l4_2 l4_3 l4_4 l4_5
  refine (fun (el4_0 : (Kept F z) l4_0) => ?_) ?_
  rotate_left
  · refine kept_stagedView (hF.sub rfl) _ _ ?_
    with_reducible assumption
  clear_value l4_0 l4_2 l4_3 l4_4 l4_5
  split
  · dsimp -zeta only [l4_1]
    refine kept_placeEnd (hF.sub rfl) _ _ _ _ _ ?_
    with_reducible assumption
  · split
    · dsimp -zeta only [l4_1]
      refine kept_placeEnd (hF.sub rfl) _ _ _ _ _ ?_
      with_reducible assumption
    · split
      · dsimp -zeta only [l4_1]
        refine kept_placeEnd (hF.sub rfl) _ _ _ _ _ ?_
        with_reducible assumption
      · extract_lets +onlyGivenNames l19_0 l19_1
        clear_value l19_0 l19_1
        split
        · dsimp -zeta only [l4_1]
          refine kept_placeEnd (hF.sub rfl) _ _ _ _ _ ?_
          with_reducible assumption
        · split
          · dsimp -zeta only [l4_1]
            refine kept_placeEnd (hF.sub rfl) _ _ _ _ _ ?_
            with_reducible assumption
          · split
            · split
              · dsimp -zeta only [l4_1]
                refine kept_placeEnd (hF.sub rfl) _ _ _ _ _ ?_
                with_reducible assumption
              · split
                · dsimp -zeta only [l4_1]
                  refine kept_placeEnd (hF.sub rfl) _ _ _ _ _ ?_
                  with_reducible assumption
                · split
                  · dsimp -zeta only [l4_1]
                    refine kept_placeEnd (hF.sub rfl) _ _ _ _ _ ?_
                    with_reducible assumption
                  · extract_lets +onlyGivenNames l41_0
                    refine (fun (el41_0 : (OnResult Always (OnPlace (Kept F z))) l41_0) => ?_) ?_
                    rotate_left
                    · refine foldl_kept (P := (OnResult Always (OnPlace (Kept F z)))) ?_ ?_
                      · refine exc_ok ?_
                        refine acc_mk ?_
                        with_reducible assumption
                      · intro v46 v47 v48
                        split
                        · exact exc_error trivial
                        · extract_lets +onlyGivenNames l52_0 l52_1
                          clear_value l52_0 l52_1
                          refine kept_appendHead (hF.sub rfl) _ _ _ _ _ _ _ _ _ _ _ ?_
                          exact v48
                    clear_value l41_0
                    split
                    · refine kept_placeRefuse (hF.sub rfl) _ _ _ _ ?_
                      with_reducible assumption
                    · split
                      · refine fst_mk ?_
                        with_reducible assumption
                      · split
                        extract_lets +onlyGivenNames l62_0
                        clear_value l62_0
                        split
                        refine kept_placeDone (hF.sub rfl) _ _ _ _ ?_
                        exact el41_0
            · split
              · dsimp -zeta only [l4_1]
                refine kept_placeEnd (hF.sub rfl) _ _ _ _ _ ?_
                with_reducible assumption
              · split
                · dsimp -zeta only [l4_1]
                  refine kept_placeEnd (hF.sub rfl) _ _ _ _ _ ?_
                  with_reducible assumption
                · split
                  · dsimp -zeta only [l4_1]
                    refine kept_placeEnd (hF.sub rfl) _ _ _ _ _ ?_
                    with_reducible assumption
                  · extract_lets +onlyGivenNames l78_0
                    refine (fun (el78_0 : (OnResult Always (OnPlace (Kept F z))) l78_0) => ?_) ?_
                    rotate_left
                    · refine foldl_kept (P := (OnResult Always (OnPlace (Kept F z)))) ?_ ?_
                      · refine exc_ok ?_
                        refine acc_mk ?_
                        with_reducible assumption
                      · intro v83 v84 v85
                        split
                        · exact exc_error trivial
                        · extract_lets +onlyGivenNames l89_0 l89_1
                          clear_value l89_0 l89_1
                          refine kept_appendHead (hF.sub rfl) _ _ _ _ _ _ _ _ _ _ _ ?_
                          exact v85
                    clear_value l78_0
                    split
                    · refine kept_placeRefuse (hF.sub rfl) _ _ _ _ ?_
                      with_reducible assumption
                    · split
                      · refine fst_mk ?_
                        with_reducible assumption
                      · split
                        extract_lets +onlyGivenNames l99_0
                        clear_value l99_0
                        split
                        refine kept_placeDone (hF.sub rfl) _ _ _ _ ?_
                        exact el78_0
theorem kept_execAppend (hF : Sub 29192608188 F) : ∀ a0 a1 a2, Kept F z a2 → (OnNext (Kept F z)) (Sys2Proof.Machine.execAppend a0 a1 a2) := by
  unfold Sys2Proof.Machine.execAppend
  intro v0 v1 v2 v3
  refine kept_placeRun (hF.sub rfl) _ _ _ _ _ _ ?_ ?_
  · with_reducible assumption
  · intro v6 v7 v8 v9
    refine kept_appendRun (hF.sub rfl) _ _ _ ?_
    with_reducible assumption
theorem kept_createRun (hF : Sub 12012722620 F) : ∀ a0 a1 a2, Kept F z a2 → (OnFst (Kept F z)) (Sys2Proof.createRun a0 a1 a2) := by
  unfold Sys2Proof.createRun
  intro v0 v1 v2 v3
  extract_lets +onlyGivenNames l4_0 l4_1 l4_2 l4_3 l4_4
  refine (fun (el4_0 : (Kept F z) l4_0) => ?_) ?_
  rotate_left
  · refine kept_stagedView (hF.sub rfl) _ _ ?_
    with_reducible assumption
  clear_value l4_0 l4_1 l4_3 l4_4
  split
  · dsimp -zeta only [l4_2]
    refine kept_placeEnd (hF.sub rfl) _ _ _ _ _ ?_
    with_reducible assumption
  · split
    · dsimp -zeta only [l4_2]
      refine kept_placeEnd (hF.sub rfl) _ _ _ _ _ ?_
      with_reducible assumption
    · split
      · dsimp -zeta only [l4_2]
        refine kept_placeEnd (hF.sub rfl) _ _ _ _ _ ?_
        with_reducible assumption
      · split
        · dsimp -zeta only [l4_2]
          refine kept_placeEnd (hF.sub rfl) _ _ _ _ _ ?_
          with_reducible assumption
        · split
          · dsimp -zeta only [l4_2]
            refine kept_placeEnd (hF.sub rfl) _ _ _ _ _ ?_
            with_reducible assumption
          · extract_lets +onlyGivenNames l27_0
            clear_value l27_0
            refine fst_mk ?_
            refine oss_eq (by assumption) (?_ : OnSome (OnSnd (OnSnd (Kept F z))) (Sys2Proof.takeTables _ _ _))
            refine kept_takeTables (hF.sub rfl) _ _ _ ?_
            with_reducible assumption
theorem kept_execCreate (hF : Sub 29192608188 F) : ∀ a0 a1 a2, Kept F z a2 → (OnNext (Kept F z)) (Sys2Proof.Machine.execCreate a0 a1 a2) := by
  unfold Sys2Proof.Machine.execCreate
  intro v0 v1 v2 v3
  refine kept_placeRun (hF.sub rfl) _ _ _ _ _ _ ?_ ?_
  · with_reducible assumption
  · intro v6 v7 v8 v9
    refine kept_createRun (hF.sub rfl) _ _ _ ?_
    with_reducible assumption
theorem kept_truncateRun (hF : Sub 12012722620 F) : ∀ a0 a1 a2, Kept F z a2 → (OnFst (Kept F z)) (Sys2Proof.truncateRun a0 a1 a2) := by
  unfold Sys2Proof.truncateRun
  intro v0 v1 v2 v3
  extract_lets +onlyGivenNames l4_0 l4_1
  refine (fun (el4_0 : (Kept F z) l4_0) => ?_) ?_
  rotate_left
  · refine kept_stagedView (hF.sub rfl) _ _ ?_
    with_reducible assumption
  clear_value l4_0 l4_1
  split
  · refine fst_mk ?_
    with_reducible assumption
  · split
    · refine fst_mk ?_
      with_reducible assumption
    · split
      · refine fst_mk ?_
        with_reducible assumption
      · extract_lets +onlyGivenNames l16_0 l16_1
        clear_value l16_0 l16_1
        refine fst_mk ?_
        with_reducible assumption
theorem kept_execTruncate (hF : Sub 29192608188 F) : ∀ a0 a1 a2, Kept F z a2 → (OnNext (Kept F z)) (Sys2Proof.Machine.execTruncate a0 a1 a2) := by
  unfold Sys2Proof.Machine.execTruncate
  intro v0 v1 v2 v3
  refine kept_placeRun (hF.sub rfl) _ _ _ _ _ _ ?_ ?_
  · with_reducible assumption
  · intro v6 v7 v8 v9
    refine kept_truncateRun (hF.sub rfl) _ _ _ ?_
    with_reducible assumption
theorem kept_forkHeads (hF : Sub 4100 F) : ∀ a0 a1 a2 a3 a4, Kept F z a4 → (OnSome (OnSnd (OnSnd (Kept F z)))) (Sys2Proof.forkHeads a0 a1 a2 a3 a4) := by
  intro a0 a1 a2 a3
  induction a3 with
  | nil => intro a4 h; exact h
  | cons c r ih =>
    intro a4 h
    unfold forkHeads
    extract_lets +onlyGivenNames l0_0 l0_1 l0_2 l0_3
    clear_value l0_0 l0_1 l0_2
    refine (fun (el0_3 : (OnSome (OnSnd (OnSnd (Kept F z)))) l0_3) => ?_) ?_
    rotate_left
    · refine foldl_kept (P := (OnSome (OnSnd (OnSnd (Kept F z))))) ?_ ?_
      · refine opt_some ?_
        refine snd_mk ?_
        refine snd_mk ?_
        with_reducible assumption
      · intro v6 v7 v8
        split
        · exact opt_none
        · refine map_kept (OnSnd (OnSnd (Kept F z))) ?_ ?_
          · refine kept_takeLists (hF.sub rfl) _ _ _ _ ?_
            exact v8
          · intro v14 v15
            refine snd_mk ?_
            refine snd_mk ?_
            refine snd_of (P := (Kept F z)) ?_
            refine snd_of (P := (OnSnd (Kept F z))) ?_
            with_reducible assumption
    clear_value l0_3
    split
    · exact opt_none
    · split
      · exact opt_none
      · refine opt_some ?_
        refine snd_mk ?_
        refine snd_mk ?_
        refine oss_eq (by assumption) (?_ : OnSome (OnSnd (OnSnd (Kept F z))) (Sys2Proof.forkHeads _ _ _ _ _))
        refine ih _ ?_
        exact el0_3
theorem kept_forkRun (hF : Sub 12012722620 F) : ∀ a0 a1 a2, Kept F z a2 → (OnFst (Kept F z)) (Sys2Proof.forkRun a0 a1 a2) := by
  unfold Sys2Proof.forkRun
  intro v0 v1 v2 v3
  extract_lets +onlyGivenNames l4_0 l4_1 l4_2
  refine (fun (el4_0 : (Kept F z) l4_0) => ?_) ?_
  rotate_left
  · refine kept_stagedView (hF.sub rfl) _ _ ?_
    with_reducible assumption
  clear_value l4_0 l4_1
  split
  · dsimp -zeta only [l4_2]
    refine kept_placeEnd (hF.sub rfl) _ _ _ _ _ ?_
    with_reducible assumption
  · split
    · dsimp -zeta only [l4_2]
      refine kept_placeEnd (hF.sub rfl) _ _ _ _ _ ?_
      with_reducible assumption
    · split
      · dsimp -zeta only [l4_2]
        refine kept_placeEnd (hF.sub rfl) _ _ _ _ _ ?_
        with_reducible assumption
      · split
        · dsimp -zeta only [l4_2]
          refine kept_placeEnd (hF.sub rfl) _ _ _ _ _ ?_
          with_reducible assumption
        · extract_lets +onlyGivenNames l23_0
          clear_value l23_0
          split
          · dsimp -zeta only [l4_2]
            refine kept_placeEnd (hF.sub rfl) _ _ _ _ _ ?_
            with_reducible assumption
          · split
            · dsimp -zeta only [l4_2]
              refine kept_placeEnd (hF.sub rfl) _ _ _ _ _ ?_
              with_reducible assumption
            · split
              · dsimp -zeta only [l4_2]
                refine kept_placeEnd (hF.sub rfl) _ _ _ _ _ ?_
                with_reducible assumption
              · extract_lets +onlyGivenNames l36_0
                clear_value l36_0
                split
                · dsimp -zeta only [l4_2]
                  refine kept_placeEnd (hF.sub rfl) _ _ _ _ _ ?_
                  with_reducible assumption
                · extract_lets +onlyGivenNames l41_0 l41_1
                  clear_value l41_0 l41_1
                  refine fst_mk ?_
                  refine oss_eq (by assumption) (?_ : OnSome (OnSnd (OnSnd (Kept F z))) (Sys2Proof.forkHeads _ _ _ _ _))
                  refine kept_forkHeads (hF.sub rfl) _ _ _ _ _ ?_
                  refine oss_eq (by assumption) (?_ : OnSome (OnSnd (OnSnd (Kept F z))) (Sys2Proof.takeTables _ _ _))
                  refine kept_takeTables (hF.sub rfl) _ _ _ ?_
                  with_reducible assumption
theorem kept_execFork (hF : Sub 29192608188 F) : ∀ a0 a1 a2, Kept F z a2 → (OnNext (Kept F z)) (Sys2Proof.Machine.execFork a0 a1 a2) := by
  unfold Sys2Proof.Machine.execFork
  intro v0 v1 v2 v3
  refine kept_placeRun (hF.sub rfl) _ _ _ _ _ _ ?_ ?_
  · with_reducible assumption
  · intro v6 v7 v8 v9
    refine kept_forkRun (hF.sub rfl) _ _ _ ?_
    with_reducible assumption
theorem kept_freeRun (hF : Sub 12012722620 F) : ∀ a0 a1 a2, Kept F z a2 → (OnFst (Kept F z)) (Sys2Proof.freeRun a0 a1 a2) := by
  unfold Sys2Proof.freeRun
  intro v0 v1 v2 v3
  split
  · refine fst_mk ?_
    with_reducible assumption
  · split
    · refine fst_mk ?_
      with_reducible assumption
    · refine fst_mk ?_
      with_reducible assumption
theorem kept_execPlaceFree (hF : Sub 29192608188 F) : ∀ a0 a1 a2, Kept F z a2 → (OnNext (Kept F z)) (Sys2Proof.Machine.execPlaceFree a0 a1 a2) := by
  unfold Sys2Proof.Machine.execPlaceFree
  intro v0 v1 v2 v3
  refine kept_placeRun (hF.sub rfl) _ _ _ _ _ _ ?_ ?_
  · with_reducible assumption
  · intro v6 v7 v8 v9
    refine kept_freeRun (hF.sub rfl) _ _ _ ?_
    with_reducible assumption
theorem kept_freezeRun (hF : Sub 12012722620 F) : ∀ a0 a1 a2 a3, Kept F z a3 → (OnFst (Kept F z)) (Sys2Proof.freezeRun a0 a1 a2 a3) := by
  unfold Sys2Proof.freezeRun
  intro v0 v1 v2 v3 v4
  extract_lets +onlyGivenNames l5_0
  refine (fun (el5_0 : (Kept F z) l5_0) => ?_) ?_
  rotate_left
  · refine kept_stagedView (hF.sub rfl) _ _ ?_
    with_reducible assumption
  clear_value l5_0
  split
  · refine fst_mk ?_
    with_reducible assumption
  · split
    · refine fst_mk ?_
      with_reducible assumption
    · split
      · refine fst_mk ?_
        with_reducible assumption
      · refine fst_mk ?_
        with_reducible assumption
theorem kept_execFreeze (hF : Sub 29192608188 F) : ∀ a0 a1 a2, Kept F z a2 → (OnNext (Kept F z)) (Sys2Proof.Machine.execFreeze a0 a1 a2) := by
  unfold Sys2Proof.Machine.execFreeze
  intro v0 v1 v2 v3
  refine kept_placeRun (hF.sub rfl) _ _ _ _ _ _ ?_ ?_
  · with_reducible assumption
  · intro v6 v7 v8 v9
    refine kept_freezeRun (hF.sub rfl) _ _ _ _ ?_
    with_reducible assumption
theorem kept_execThaw (hF : Sub 29192608188 F) : ∀ a0 a1 a2, Kept F z a2 → (OnNext (Kept F z)) (Sys2Proof.Machine.execThaw a0 a1 a2) := by
  unfold Sys2Proof.Machine.execThaw
  intro v0 v1 v2 v3
  refine kept_placeRun (hF.sub rfl) _ _ _ _ _ _ ?_ ?_
  · with_reducible assumption
  · intro v6 v7 v8 v9
    refine kept_freezeRun (hF.sub rfl) _ _ _ _ ?_
    with_reducible assumption
theorem kept_restoreEnd (hF : Sub 29192591804 F) : ∀ a0 a1 a2, Kept F z a2 → (OnFst (Kept F z)) (Sys2Proof.restoreEnd a0 a1 a2) := by
  unfold Sys2Proof.restoreEnd
  intro v0 v1 v2 v3
  extract_lets +onlyGivenNames l4_0
  refine (fun (el4_0 : (Kept F z) l4_0) => ?_) ?_
  rotate_left
  · refine kept_stagedView (hF.sub rfl) _ _ ?_
    with_reducible assumption
  clear_value l4_0
  split
  · refine kept_placeEnd (hF.sub rfl) _ _ _ _ _ ?_
    with_reducible assumption
  · extract_lets +onlyGivenNames l10_0
    refine (fun (el10_0 : (OnResult Always (OnPlace (Kept F z))) l10_0) => ?_) ?_
    rotate_left
    · refine foldl_kept (P := (OnResult Always (OnPlace (Kept F z)))) ?_ ?_
      · refine exc_ok ?_
        refine acc_mk ?_
        with_reducible assumption
      · intro v15 v16 v17
        split
        · exact exc_error trivial
        · exact exc_error trivial
        · extract_lets +onlyGivenNames l23_0
          clear_value l23_0
          split
          · exact exc_error trivial
          · split
            · exact exc_error trivial
            · extract_lets +onlyGivenNames l30_0
              clear_value l30_0
              refine exc_ok ?_
              refine acc_mk ?_
              refine acc_of (P := (Kept F z)) ?_
              refine exc_ok_eq (by assumption) (?_ : OnResult Always (OnPlace (Kept F z)) _)
              split
              · refine kept_needWords (hF.sub rfl) _ _ _ ?_
                refine xs_eq (by assumption) (?_ : OnResult Always (OnSnd (OnPlace (Kept F z))) (Sys2Proof.newFrame _ _ _ _ _ _ _ _ _))
                refine kept_newFrame (hF.sub rfl) _ _ _ _ _ _ _ _ _ ?_
                exact v17
              · refine exc_ok ?_
                refine xs_eq (by assumption) (?_ : OnResult Always (OnSnd (OnPlace (Kept F z))) (Sys2Proof.newFrame _ _ _ _ _ _ _ _ _))
                refine kept_newFrame (hF.sub rfl) _ _ _ _ _ _ _ _ _ ?_
                exact v17
    clear_value l10_0
    split
    · refine kept_placeRefuse (hF.sub rfl) _ _ _ _ ?_
      with_reducible assumption
    · split
      refine kept_placeDone (hF.sub rfl) _ _ _ _ ?_
      exact el10_0
theorem kept_restoreRun (hF : Sub 29192591804 F) : ∀ a0 a1 a2, Kept F z a2 → (OnFst (Kept F z)) (Sys2Proof.restoreRun a0 a1 a2) := by
  unfold Sys2Proof.restoreRun
  intro v0 v1 v2 v3
  split
  · refine fst_mk ?_
    with_reducible assumption
  · extract_lets +onlyGivenNames l7_0
    clear_value l7_0
    split
    · refine kept_restoreEnd (hF.sub rfl) _ _ _ ?_
      with_reducible assumption
    · split
      · refine fst_mk ?_
        with_reducible assumption
      · extract_lets +onlyGivenNames l14_0
        refine (fun (el14_0 : (Kept F z) l14_0) => ?_) ?_
        rotate_left
        · refine foldl_kept (P := (Kept F z)) ?_ ?_
          · with_reducible assumption
          · intro v17 v18 v19
            refine kept_tierOp (hF.sub rfl) _ _ _ _ _ ?_
            with_reducible assumption
        clear_value l14_0
        refine fst_mk ?_
        with_reducible assumption
theorem kept_execRestore (hF : Sub 29192608188 F) : ∀ a0 a1 a2, Kept F z a2 → (OnNext (Kept F z)) (Sys2Proof.Machine.execRestore a0 a1 a2) := by
  unfold Sys2Proof.Machine.execRestore
  intro v0 v1 v2 v3
  refine kept_placeRun (hF.sub rfl) _ _ _ _ _ _ ?_ ?_
  · with_reducible assumption
  · intro v6 v7 v8 v9
    refine kept_restoreRun (hF.sub rfl) _ _ _ ?_
    with_reducible assumption
theorem kept_queryRun (hF : Sub 12012723196 F) : ∀ a0 a1 a2, Kept F z a2 → (OnFst (Kept F z)) (Sys2Proof.queryRun a0 a1 a2) := by
  unfold Sys2Proof.queryRun
  intro v0 v1 v2 v3
  split
  · refine fst_mk ?_
    with_reducible assumption
  · extract_lets +onlyGivenNames l7_0
    clear_value l7_0
    extract_lets +onlyGivenNames l8_0
    clear_value l8_0
    split
    · refine fst_mk ?_
      with_reducible assumption
    · extract_lets +onlyGivenNames l12_0
      clear_value l12_0
      split
      · refine fst_mk ?_
        with_reducible assumption
      · split
        · refine fst_mk ?_
          with_reducible assumption
        · refine fst_mk ?_
          refine kept_writeLoc (hF.sub rfl) _ _ _ _ _ ?_
          with_reducible assumption
theorem kept_execQuery (hF : Sub 29192608764 F) : ∀ a0 a1 a2, Kept F z a2 → (OnNext (Kept F z)) (Sys2Proof.Machine.execQuery a0 a1 a2) := by
  unfold Sys2Proof.Machine.execQuery
  intro v0 v1 v2 v3
  refine kept_placeRun (hF.sub rfl) _ _ _ _ _ _ ?_ ?_
  · with_reducible assumption
  · intro v6 v7 v8 v9
    refine kept_queryRun (hF.sub rfl) _ _ _ ?_
    with_reducible assumption
theorem kept_claimExtent (hF : Sub 32768 F) : ∀ a0 a1 a2 a3, Kept F z a0 → (Kept F z) (Sys2Proof.claimExtent a0 a1 a2 a3) := by
  unfold Sys2Proof.claimExtent
  intro v0 v1 v2 v3 v4
  refine kept_modExt (hF.sub rfl) _ _ _ ?_
  with_reducible assumption
theorem kept_addExtentRun (hF : Sub 12012722620 F) : ∀ a0 a1 a2, Kept F z a2 → (OnFst (Kept F z)) (Sys2Proof.addExtentRun a0 a1 a2) := by
  unfold Sys2Proof.addExtentRun
  intro v0 v1 v2 v3
  extract_lets +onlyGivenNames l4_0 l4_1 l4_2 l4_3
  refine (fun (el4_0 : (Kept F z) l4_0) => ?_) ?_
  rotate_left
  · refine kept_stagedView (hF.sub rfl) _ _ ?_
    with_reducible assumption
  clear_value l4_0 l4_1 l4_2
  split
  · dsimp -zeta only [l4_3]
    refine kept_placeEnd (hF.sub rfl) _ _ _ _ _ ?_
    with_reducible assumption
  · extract_lets +onlyGivenNames l11_0
    clear_value l11_0
    split
    · dsimp -zeta only [l4_3]
      refine kept_placeEnd (hF.sub rfl) _ _ _ _ _ ?_
      with_reducible assumption
    · split
      · split
        · dsimp -zeta only [l4_3]
          refine kept_placeEnd (hF.sub rfl) _ _ _ _ _ ?_
          with_reducible assumption
        · extract_lets +onlyGivenNames l21_0 l21_1
          clear_value l21_0 l21_1
          split
          · dsimp -zeta only [l4_3]
            refine kept_placeEnd (hF.sub rfl) _ _ _ _ _ ?_
            with_reducible assumption
          · refine fst_mk ?_
            refine kept_claimExtent (hF.sub rfl) _ _ _ _ ?_
            with_reducible assumption
      · split
        · dsimp -zeta only [l4_3]
          refine kept_placeEnd (hF.sub rfl) _ _ _ _ _ ?_
          with_reducible assumption
        · refine fst_mk ?_
          refine kept_claimExtent (hF.sub rfl) _ _ _ _ ?_
          with_reducible assumption
theorem kept_execAddExtent (hF : Sub 29192608188 F) : ∀ a0 a1 a2, Kept F z a2 → (OnNext (Kept F z)) (Sys2Proof.Machine.execAddExtent a0 a1 a2) := by
  unfold Sys2Proof.Machine.execAddExtent
  intro v0 v1 v2 v3
  refine kept_placeRun (hF.sub rfl) _ _ _ _ _ _ ?_ ?_
  · with_reducible assumption
  · intro v6 v7 v8 v9
    refine kept_addExtentRun (hF.sub rfl) _ _ _ ?_
    with_reducible assumption
theorem kept_removeExtentRun (hF : Sub 12012722620 F) : ∀ a0 a1 a2, Kept F z a2 → (OnFst (Kept F z)) (Sys2Proof.removeExtentRun a0 a1 a2) := by
  unfold Sys2Proof.removeExtentRun
  intro v0 v1 v2 v3
  extract_lets +onlyGivenNames l4_0
  refine (fun (el4_0 : (Kept F z) l4_0) => ?_) ?_
  rotate_left
  · refine kept_stagedView (hF.sub rfl) _ _ ?_
    with_reducible assumption
  clear_value l4_0
  split
  · refine fst_mk ?_
    with_reducible assumption
  · extract_lets +onlyGivenNames l10_0
    clear_value l10_0
    split
    · refine fst_mk ?_
      with_reducible assumption
    · refine fst_mk ?_
      refine kept_claimExtent (hF.sub rfl) _ _ _ _ ?_
      with_reducible assumption
    · refine fst_mk ?_
      with_reducible assumption
theorem kept_execRemoveExtent (hF : Sub 29192608188 F) : ∀ a0 a1 a2, Kept F z a2 → (OnNext (Kept F z)) (Sys2Proof.Machine.execRemoveExtent a0 a1 a2) := by
  unfold Sys2Proof.Machine.execRemoveExtent
  intro v0 v1 v2 v3
  refine kept_placeRun (hF.sub rfl) _ _ _ _ _ _ ?_ ?_
  · with_reducible assumption
  · intro v6 v7 v8 v9
    refine kept_removeExtentRun (hF.sub rfl) _ _ _ ?_
    with_reducible assumption
theorem kept_execSequenceLockGrant (hF : Sub 16384 F) : ∀ a0 a1 a2, Kept F z a2 → (OnNext (Kept F z)) (Sys2Proof.Machine.execSequenceLockGrant a0 a1 a2) := by
  unfold Sys2Proof.Machine.execSequenceLockGrant
  intro v0 v1 v2 v3
  split
  · split
    · refine ans_next ?_
      refine kept_putDesc (hF.sub rfl) _ _ ?_
      with_reducible assumption
    · refine ans_next ?_
      with_reducible assumption
  · refine ans_next ?_
    with_reducible assumption
theorem kept_execPinRelease (hF : Sub 81920 F) : ∀ a0 a1 a2 a3, Kept F z a3 → (OnNext (Kept F z)) (Sys2Proof.Machine.execPinRelease a0 a1 a2 a3) := by
  unfold Sys2Proof.Machine.execPinRelease
  intro v0 v1 v2 v3 v4
  split
  · split
    · split
      · split
        · refine ans_next ?_
          refine kept_unpinFrame (hF.sub rfl) _ _ ?_
          refine kept_putDesc (hF.sub rfl) _ _ ?_
          with_reducible assumption
        · refine ans_next ?_
          with_reducible assumption
      · refine ans_next ?_
        with_reducible assumption
    · refine ans_next ?_
      with_reducible assumption
  · refine ans_next ?_
    with_reducible assumption

/-! ### Ingest -/

theorem kept_coderUnits (hF : Sub 16384 F) : ∀ a0 a1 a2, Kept F z a0 → (Kept F z) (Sys2Proof.coderUnits a0 a1 a2) := by
  unfold Sys2Proof.coderUnits
  intro v0 v1 v2 v3
  split
  · refine kept_putDesc (hF.sub rfl) _ _ ?_
    with_reducible assumption
  · refine kept_putDesc (hF.sub rfl) _ _ ?_
    with_reducible assumption
theorem kept_quantiseRun (hF : Sub 17392 F) : ∀ a0 a1 a2, Kept F z a2 → (Kept F z) (Sys2Proof.quantiseRun a0 a1 a2) := by
  unfold Sys2Proof.quantiseRun
  intro v0 v1 v2 v3
  extract_lets +onlyGivenNames l4_0 l4_1 l4_2 l4_3 l4_4 l4_5
  clear_value l4_0 l4_1 l4_2 l4_3 l4_4 l4_5
  split
  split
  · refine kept_endDesc (hF.sub rfl) _ _ _ ?_
    with_reducible assumption
  · extract_lets +onlyGivenNames l9_0
    clear_value l9_0
    split
    · refine kept_endDesc (hF.sub rfl) _ _ _ ?_
      with_reducible assumption
    · split
      · refine kept_endDesc (hF.sub rfl) _ _ _ ?_
        with_reducible assumption
      · split
        · refine kept_endDesc (hF.sub rfl) _ _ _ ?_
          with_reducible assumption
        · split
          · refine kept_endDesc (hF.sub rfl) _ _ _ ?_
            with_reducible assumption
          · extract_lets +onlyGivenNames l22_0 l22_1 l22_2 l22_3 l22_4
            clear_value l22_0 l22_1 l22_2 l22_3 l22_4
            split
            · refine kept_putDesc (hF.sub rfl) _ _ ?_
              with_reducible assumption
            · split
              · refine kept_putDesc (hF.sub rfl) _ _ ?_
                with_reducible assumption
              · extract_lets +onlyGivenNames l29_0 l29_1
                clear_value l29_0 l29_1
                split
                · refine kept_endDesc (hF.sub rfl) _ _ _ ?_
                  with_reducible assumption
                · split
                  · with_reducible assumption
                  · extract_lets +onlyGivenNames l35_0
                    clear_value l35_0
                    split
                    · refine kept_endDesc (hF.sub rfl) _ _ _ ?_
                      with_reducible assumption
                    · extract_lets +onlyGivenNames l39_0 l39_1 l39_2 l39_3
                      clear_value l39_0 l39_1 l39_2 l39_3
                      refine kept_coderUnits (hF.sub rfl) _ _ _ ?_
                      refine exc_ok_eq (by assumption) (?_ : OnResult Always (Kept F z) (Sys2Proof.writeOut _ _ _ _ _))
                      refine kept_writeOut (hF.sub rfl) _ _ _ _ _ ?_
                      with_reducible assumption
theorem kept_execQuantise (hF : Sub 17180148720 F) : ∀ a0 a1 a2 a3, Kept F z a3 → (OnNext (Kept F z)) (Sys2Proof.Machine.execQuantise a0 a1 a2 a3) := by
  unfold Sys2Proof.Machine.execQuantise
  intro v0 v1 v2 v3 v4
  refine kept_stationRun (hF.sub rfl) _ _ _ _ _ _ _ ?_ ?_
  · with_reducible assumption
  · intro v7 v8 v9
    refine kept_quantiseRun (hF.sub rfl) _ _ _ ?_
    with_reducible assumption
theorem kept_channelWords (hF : Sub 4 F) : ∀ a0 a1, Kept F z a1 → (OnSnd (Kept F z)) (Sys2Proof.channelWords a0 a1) := by
  intro a0
  induction a0 with
  | nil => intro a1 h; exact h
  | cons c r ih =>
    intro a1 h
    unfold channelWords
    split
    split
    refine snd_mk ?_
    refine snd_eq (by assumption) (?_ : OnSnd (Kept F z) (Sys2Proof.channelWords _ _))
    refine ih _ ?_
    refine snd_eq (by assumption) (?_ : OnSnd (Kept F z) _)
    split
    · refine kept_draw (hF.sub rfl) _ ?_
      with_reducible assumption
    · refine snd_mk ?_
      with_reducible assumption
theorem kept_measureRun (hF : Sub 17396 F) : ∀ a0 a1 a2, Kept F z a2 → (Kept F z) (Sys2Proof.measureRun a0 a1 a2) := by
  unfold Sys2Proof.measureRun
  intro v0 v1 v2 v3
  extract_lets +onlyGivenNames l4_0 l4_1 l4_2
  clear_value l4_0 l4_1 l4_2
  split
  split
  · refine kept_endDesc (hF.sub rfl) _ _ _ ?_
    with_reducible assumption
  · extract_lets +onlyGivenNames l9_0
    clear_value l9_0
    split
    · refine kept_endDesc (hF.sub rfl) _ _ _ ?_
      with_reducible assumption
    · split
      · refine kept_endDesc (hF.sub rfl) _ _ _ ?_
        with_reducible assumption
      · split
        · refine kept_endDesc (hF.sub rfl) _ _ _ ?_
          with_reducible assumption
        · extract_lets +onlyGivenNames l19_0
          clear_value l19_0
          split
          extract_lets +onlyGivenNames l21_0
          clear_value l21_0
          split
          · refine kept_endDesc (hF.sub rfl) _ _ _ ?_
            refine snd_eq (by assumption) (?_ : OnSnd (Kept F z) (Sys2Proof.channelWords _ _))
            refine kept_channelWords (hF.sub rfl) _ _ ?_
            with_reducible assumption
          · refine kept_coderUnits (hF.sub rfl) _ _ _ ?_
            refine exc_ok_eq (by assumption) (?_ : OnResult Always (Kept F z) (Sys2Proof.writeOut _ _ _ _ _))
            refine kept_writeOut (hF.sub rfl) _ _ _ _ _ ?_
            refine snd_eq (by assumption) (?_ : OnSnd (Kept F z) (Sys2Proof.channelWords _ _))
            refine kept_channelWords (hF.sub rfl) _ _ ?_
            with_reducible assumption
theorem kept_execMeasure (hF : Sub 17180148724 F) : ∀ a0 a1 a2 a3, Kept F z a3 → (OnNext (Kept F z)) (Sys2Proof.Machine.execMeasure a0 a1 a2 a3) := by
  unfold Sys2Proof.Machine.execMeasure
  intro v0 v1 v2 v3 v4
  refine kept_stationRun (hF.sub rfl) _ _ _ _ _ _ _ ?_ ?_
  · with_reducible assumption
  · intro v7 v8 v9
    refine kept_measureRun (hF.sub rfl) _ _ _ ?_
    with_reducible assumption
theorem kept_encodeRun (hF : Sub 17392 F) : ∀ a0 a1 a2, Kept F z a2 → (Kept F z) (Sys2Proof.encodeRun a0 a1 a2) := by
  unfold Sys2Proof.encodeRun
  intro v0 v1 v2 v3
  extract_lets +onlyGivenNames l4_0 l4_1
  clear_value l4_0 l4_1
  split
  · refine kept_endDesc (hF.sub rfl) _ _ _ ?_
    with_reducible assumption
  · split
    · with_reducible assumption
    · split
      · refine kept_endDesc (hF.sub rfl) _ _ _ ?_
        with_reducible assumption
      · split
        · refine kept_endDesc (hF.sub rfl) _ _ _ ?_
          with_reducible assumption
        · split
          · refine kept_endDesc (hF.sub rfl) _ _ _ ?_
            with_reducible assumption
          · split
            split
            · refine kept_endDesc (hF.sub rfl) _ _ _ ?_
              with_reducible assumption
            · extract_lets +onlyGivenNames l23_0
              clear_value l23_0
              refine kept_coderUnits (hF.sub rfl) _ _ _ ?_
              refine exc_ok_eq (by assumption) (?_ : OnResult Always (Kept F z) (Sys2Proof.writeOut _ _ _ _ _))
              refine kept_writeOut (hF.sub rfl) _ _ _ _ _ ?_
              with_reducible assumption
theorem kept_execEncode (hF : Sub 17180148720 F) : ∀ a0 a1 a2 a3, Kept F z a3 → (OnNext (Kept F z)) (Sys2Proof.Machine.execEncode a0 a1 a2 a3) := by
  unfold Sys2Proof.Machine.execEncode
  intro v0 v1 v2 v3 v4
  refine kept_stationRun (hF.sub rfl) _ _ _ _ _ _ _ ?_ ?_
  · with_reducible assumption
  · intro v7 v8 v9
    refine kept_encodeRun (hF.sub rfl) _ _ _ ?_
    with_reducible assumption
theorem kept_decodeRun (hF : Sub 17396 F) : ∀ a0 a1 a2 a3, Kept F z a3 → (Kept F z) (Sys2Proof.decodeRun a0 a1 a2 a3) := by
  unfold Sys2Proof.decodeRun
  intro v0 v1 v2 v3 v4
  extract_lets +onlyGivenNames l5_0 l5_1 l5_2
  clear_value l5_0 l5_1 l5_2
  split
  · refine kept_endDesc (hF.sub rfl) _ _ _ ?_
    with_reducible assumption
  · split
    · refine kept_endDesc (hF.sub rfl) _ _ _ ?_
      with_reducible assumption
    · split
      · refine kept_endDesc (hF.sub rfl) _ _ _ ?_
        with_reducible assumption
      · split
        split
        · with_reducible assumption
        · extract_lets +onlyGivenNames l18_0
          clear_value l18_0
          split
          · split
            · refine kept_putDesc (hF.sub rfl) _ _ ?_
              with_reducible assumption
            · split
              split
              · refine kept_endDesc (hF.sub rfl) _ _ _ ?_
                refine snd_eq (by assumption) (?_ : OnSnd (Kept F z) (Sys2Proof.drawBytes _ _))
                refine kept_drawBytes (hF.sub rfl) _ _ ?_
                with_reducible assumption
              · refine kept_putDesc (hF.sub rfl) _ _ ?_
                refine exc_ok_eq (by assumption) (?_ : OnResult Always (Kept F z) (Sys2Proof.writeOut _ _ _ _ _))
                refine kept_writeOut (hF.sub rfl) _ _ _ _ _ ?_
                refine snd_eq (by assumption) (?_ : OnSnd (Kept F z) (Sys2Proof.drawBytes _ _))
                refine kept_drawBytes (hF.sub rfl) _ _ ?_
                with_reducible assumption
          · split
            · refine kept_endDesc (hF.sub rfl) _ _ _ ?_
              with_reducible assumption
            · split
              · refine kept_coderUnits (hF.sub rfl) _ _ _ ?_
                refine exc_ok_eq (by assumption) (?_ : OnResult Always (Kept F z) (Sys2Proof.writeOut _ _ _ _ _))
                refine kept_writeOut (hF.sub rfl) _ _ _ _ _ ?_
                with_reducible assumption
              · refine kept_coderUnits (hF.sub rfl) _ _ _ ?_
                refine exc_ok_eq (by assumption) (?_ : OnResult Always (Kept F z) (Sys2Proof.writeOut _ _ _ _ _))
                refine kept_writeOut (hF.sub rfl) _ _ _ _ _ ?_
                with_reducible assumption
theorem kept_execDecode (hF : Sub 17180148724 F) : ∀ a0 a1 a2 a3, Kept F z a3 → (OnNext (Kept F z)) (Sys2Proof.Machine.execDecode a0 a1 a2 a3) := by
  unfold Sys2Proof.Machine.execDecode
  intro v0 v1 v2 v3 v4
  refine kept_stationRun (hF.sub rfl) _ _ _ _ _ _ _ ?_ ?_
  · with_reducible assumption
  · intro v7 v8 v9
    refine kept_decodeRun (hF.sub rfl) _ _ _ _ ?_
    with_reducible assumption
theorem kept_execIngestCheck (hF : Sub 17180148724 F) : ∀ a0 a1 a2 a3, Kept F z a3 → (OnNext (Kept F z)) (Sys2Proof.Machine.execIngestCheck a0 a1 a2 a3) := by
  unfold Sys2Proof.Machine.execIngestCheck
  intro v0 v1 v2 v3 v4
  refine kept_stationRun (hF.sub rfl) _ _ _ _ _ _ _ ?_ ?_
  · with_reducible assumption
  · intro v7 v8 v9
    refine kept_decodeRun (hF.sub rfl) _ _ _ _ ?_
    with_reducible assumption
theorem kept_histogramRun (hF : Sub 17392 F) : ∀ a0 a1 a2, Kept F z a2 → (Kept F z) (Sys2Proof.histogramRun a0 a1 a2) := by
  unfold Sys2Proof.histogramRun
  intro v0 v1 v2 v3
  extract_lets +onlyGivenNames l4_0
  clear_value l4_0
  split
  · refine kept_endDesc (hF.sub rfl) _ _ _ ?_
    with_reducible assumption
  · split
    · refine kept_endDesc (hF.sub rfl) _ _ _ ?_
      with_reducible assumption
    · split
      · refine kept_endDesc (hF.sub rfl) _ _ _ ?_
        with_reducible assumption
      · extract_lets +onlyGivenNames l14_0 l14_1 l14_2
        clear_value l14_0 l14_1 l14_2
        split
        · refine kept_endDesc (hF.sub rfl) _ _ _ ?_
          with_reducible assumption
        · refine kept_coderUnits (hF.sub rfl) _ _ _ ?_
          refine exc_ok_eq (by assumption) (?_ : OnResult Always (Kept F z) (Sys2Proof.writeOut _ _ _ _ _))
          refine kept_writeOut (hF.sub rfl) _ _ _ _ _ ?_
          with_reducible assumption
theorem kept_execHistogram (hF : Sub 17180148720 F) : ∀ a0 a1 a2 a3, Kept F z a3 → (OnNext (Kept F z)) (Sys2Proof.Machine.execHistogram a0 a1 a2 a3) := by
  unfold Sys2Proof.Machine.execHistogram
  intro v0 v1 v2 v3 v4
  refine kept_stationRun (hF.sub rfl) _ _ _ _ _ _ _ ?_ ?_
  · with_reducible assumption
  · intro v7 v8 v9
    refine kept_histogramRun (hF.sub rfl) _ _ _ ?_
    with_reducible assumption
theorem kept_execIngestUnit (hF : Sub 33570816 F) : ∀ a0 a1, Kept F z a1 → (OnNext (Kept F z)) (Sys2Proof.Machine.execIngestUnit a0 a1) := by
  unfold Sys2Proof.Machine.execIngestUnit
  intro v0 v1 v2
  extract_lets +onlyGivenNames l3_0 l3_1
  clear_value l3_0 l3_1
  split
  · refine ans_next ?_
    with_reducible assumption
  · split
    · refine ans_next ?_
      with_reducible assumption
    · split
      · refine ans_next ?_
        with_reducible assumption
      · extract_lets +onlyGivenNames l13_0
        clear_value l13_0
        refine ans_next ?_
        extract_lets +onlyGivenNames l15_0
        refine (fun (el15_0 : (Kept F z) l15_0) => ?_) ?_
        rotate_left
        · refine kept_putDesc (hF.sub rfl) _ _ ?_
          with_reducible assumption
        clear_value l15_0
        refine kept_mk ?_
        with_reducible assumption

/-! ### Attention -/

theorem kept_partialsOf (hF : Sub 4 F) : ∀ a0 a1 a2 a3, Kept F z a3 → (OnSnd (Kept F z)) (Sys2Proof.partialsOf a0 a1 a2 a3) := by
  intro a0 a1 a2
  induction a2 with
  | nil => intro a3 h; exact h
  | cons c r ih =>
    intro a3 h
    obtain ⟨ts, n, k⟩ := c
    unfold partialsOf
    split
    split
    split
    refine snd_mk ?_
    refine snd_eq (by assumption) (?_ : OnSnd (Kept F z) (Sys2Proof.partialsOf _ _ _ _))
    refine ih _ ?_
    refine snd_eq (by assumption) (?_ : OnSnd (Kept F z) (Sys2Proof.partialOut _ _ _ _))
    refine kept_partialOut (hF.sub rfl) _ _ _ _ ?_
    refine snd_eq (by assumption) (?_ : OnSnd (Kept F z) (Sys2Proof.attnPartial _ _ _ _ _))
    refine kept_attnPartial (hF.sub rfl) _ _ _ _ _ ?_
    with_reducible assumption
theorem kept_takePins (hF : Sub 65536 F) : ∀ a0 a1, Kept F z a0 → (Kept F z) (Sys2Proof.takePins a0 a1) := by
  unfold Sys2Proof.takePins
  intro v0 v1 v2
  refine foldl_kept (P := (Kept F z)) ?_ ?_
  · with_reducible assumption
  · intro v5 v6 v7
    split
    · refine kept_pinFrame (hF.sub rfl) _ _ ?_
      with_reducible assumption
    · with_reducible assumption

end Sys2Proof.Laws
end

