-- ==== Sys2Proof/Laws/KeptFabric.lean ====
section
/-!
SUPPORT. What the definitions of the fabric, fences and firmware keep (Laws/Kept.lean).
-/
namespace Sys2Proof.Laws

set_option maxRecDepth 4000

set_option Elab.async false

open Sys2Proof.Machine (State Fault Refusal)

variable {z : State} {F : Nat}

/-! ### Fabric -/

theorem kept_startMember (hF : Sub 402675716 F) : ∀ a0 a1 a2 a3, Kept F z a0 → (Kept F z) (Sys2Proof.startMember a0 a1 a2 a3) := by
  unfold Sys2Proof.startMember
  intro v0 v1 v2 v3 v4
  extract_lets +onlyGivenNames l5_0 l5_1 l5_2
  clear_value l5_0 l5_1 l5_2
  extract_lets +onlyGivenNames l6_0
  refine (fun (el6_0 : (Kept F z) l6_0) => ?_) ?_
  rotate_left
  · refine kept_mk ?_
    with_reducible assumption
  clear_value l6_0
  split
  · refine kept_memberReply (hF.sub rfl) _ _ _ _ _ _ ?_
    with_reducible assumption
  · split
    · refine kept_memberReply (hF.sub rfl) _ _ _ _ _ _ ?_
      with_reducible assumption
    · split
      · refine kept_memberReply (hF.sub rfl) _ _ _ _ _ _ ?_
        with_reducible assumption
      · extract_lets +onlyGivenNames l18_0 l18_1 l18_2 l18_3
        clear_value l18_0 l18_1 l18_2 l18_3
        extract_lets +onlyGivenNames l19_0
        refine (fun (el19_0 : (Kept F z) l19_0) => ?_) ?_
        rotate_left
        · refine kept_mk ?_
          with_reducible assumption
        clear_value l19_0
        refine foldl_kept (P := (Kept F z)) ?_ ?_
        · with_reducible assumption
        · intro v24 v25 v26
          extract_lets +onlyGivenNames l27_0 l27_1
          clear_value l27_0 l27_1
          split
          refine kept_mk ?_
          refine fst_eq (by assumption) (?_ : OnFst (Kept F z) (Sys2Proof.takeLocks _ _))
          refine kept_takeLocks (hF.sub rfl) _ _ ?_
          with_reducible assumption
theorem kept_stopMember (hF : Sub 47186443260 F) : ∀ a0 a1, Kept F z a0 → (Kept F z) (Sys2Proof.stopMember a0 a1) := by
  unfold Sys2Proof.stopMember
  intro v0 v1 v2
  extract_lets +onlyGivenNames l3_0
  refine (fun (el3_0 : (Kept F z) l3_0) => ?_) ?_
  rotate_left
  · refine kept_dropMember (hF.sub rfl) _ _ ?_
    with_reducible assumption
  clear_value l3_0
  refine foldl_kept (P := (Kept F z)) ?_ ?_
  · with_reducible assumption
  · intro v8 v9 v10
    split
    · refine kept_stopDesc (hF.sub rfl) _ _ _ _ ?_
      with_reducible assumption
    · with_reducible assumption
theorem kept_execMemberReq (hF : Sub 17582544901 F) : ∀ a0 a1 a2, Kept F z a2 → (OnNext (Kept F z)) (Sys2Proof.Machine.execMemberReq a0 a1 a2) := by
  unfold Sys2Proof.Machine.execMemberReq
  intro v0 v1 v2 v3
  split
  · refine ans_next ?_
    with_reducible assumption
  · split
    · refine ans_next ?_
      with_reducible assumption
    · refine ans_next ?_
      refine kept_withSequencer (hF.sub rfl) _ _ _ ?_ ?_
      · refine kept_atTime (hF.sub rfl) _ _ ?_
        with_reducible assumption
      · intro v14 v15
        refine kept_startMember (hF.sub rfl) _ _ _ _ ?_
        refine kept_fabTake (hF.sub rfl) _ _ _ ?_
        with_reducible assumption
theorem kept_serveHome (hF : Sub 402675716 F) : ∀ a0 a1 a2, Kept F z a0 → (Kept F z) (Sys2Proof.serveHome a0 a1 a2) := by
  unfold Sys2Proof.serveHome
  intro v0 v1 v2 v3
  split
  · refine kept_fabReply (hF.sub rfl) _ _ _ _ _ _ _ _ _ ?_
    with_reducible assumption
  · split
    · refine kept_fabReply (hF.sub rfl) _ _ _ _ _ _ _ _ _ ?_
      with_reducible assumption
    · split
      · refine kept_fabReply (hF.sub rfl) _ _ _ _ _ _ _ _ _ ?_
        with_reducible assumption
      · split
        · refine kept_fabReply (hF.sub rfl) _ _ _ _ _ _ _ _ _ ?_
          with_reducible assumption
        · extract_lets +onlyGivenNames l16_0 l16_1
          clear_value l16_0 l16_1
          split
          · refine kept_fabReply (hF.sub rfl) _ _ _ _ _ _ _ _ _ ?_
            with_reducible assumption
          · extract_lets +onlyGivenNames l20_0 l20_1 l20_2 l20_3
            clear_value l20_0 l20_1 l20_2 l20_3
            split
            extract_lets +onlyGivenNames l22_0 l22_1 l22_2 l22_3 l22_4 l22_5
            clear_value l22_0 l22_1 l22_2 l22_3 l22_4 l22_5
            extract_lets +onlyGivenNames l23_0
            refine (fun (el23_0 : (Kept F z) l23_0) => ?_) ?_
            rotate_left
            · refine kept_mk ?_
              with_reducible assumption
            clear_value l23_0
            split
            · refine kept_homeFinish (hF.sub rfl) _ _ ?_
              with_reducible assumption
            · extract_lets +onlyGivenNames l29_0 l29_1 l29_2 l29_3 l29_4
              refine (fun (el29_0 : (Kept F z) l29_0) => ?_) ?_
              rotate_left
              · refine foldl_kept (P := (Kept F z)) ?_ ?_
                · with_reducible assumption
                · intro v32 v33 v34
                  extract_lets +onlyGivenNames l35_0
                  refine (fun (el35_0 : (Kept F z) l35_0) => ?_) ?_
                  rotate_left
                  · dsimp -zeta only [l35_0]
                    split
                    · with_reducible assumption
                    · refine kept_fabTo (hF.sub rfl) _ _ _ _ ?_
                      with_reducible assumption
                  clear_value l35_0
                  refine foldl_kept (P := (Kept F z)) ?_ ?_
                  · with_reducible assumption
                  · intro v43 v44 v45
                    extract_lets +onlyGivenNames l46_0 l46_1
                    clear_value l46_0 l46_1
                    extract_lets +onlyGivenNames l47_0
                    refine (fun (el47_0 : (Kept F z) l47_0) => ?_) ?_
                    rotate_left
                    · refine kept_fabTo (hF.sub rfl) _ _ _ _ ?_
                      with_reducible assumption
                    clear_value l47_0
                    split
                    · with_reducible assumption
                    · extract_lets +onlyGivenNames l52_0
                      clear_value l52_0
                      extract_lets +onlyGivenNames l53_0
                      refine (fun (el53_0 : (Kept F z) l53_0) => ?_) ?_
                      rotate_left
                      · refine kept_mk ?_
                        with_reducible assumption
                      clear_value l53_0
                      refine kept_shadowCount (hF.sub rfl) _ _ _ _ ?_
                      with_reducible assumption
              clear_value l29_0 l29_1 l29_2 l29_3
              refine (fun (el29_4 : (Kept F z) l29_4) => ?_) ?_
              rotate_left
              · refine foldl_kept (P := (Kept F z)) ?_ ?_
                · with_reducible assumption
                · intro v60 v61 v62
                  split
                  · refine kept_startMember (hF.sub rfl) _ _ _ _ ?_
                    with_reducible assumption
                  · with_reducible assumption
              clear_value l29_4
              split
              · refine kept_homeLost (hF.sub rfl) _ _ _ ?_
                with_reducible assumption
              · with_reducible assumption
theorem kept_execAttendReq (hF : Sub 17582544901 F) : ∀ a0 a1 a2, Kept F z a2 → (OnNext (Kept F z)) (Sys2Proof.Machine.execAttendReq a0 a1 a2) := by
  unfold Sys2Proof.Machine.execAttendReq
  intro v0 v1 v2 v3
  split
  · refine ans_next ?_
    with_reducible assumption
  · split
    · refine ans_next ?_
      with_reducible assumption
    · refine ans_next ?_
      refine kept_withSequencer (hF.sub rfl) _ _ _ ?_ ?_
      · refine kept_atTime (hF.sub rfl) _ _ ?_
        with_reducible assumption
      · intro v14 v15
        refine kept_serveHome (hF.sub rfl) _ _ _ ?_
        refine kept_fabTake (hF.sub rfl) _ _ _ ?_
        with_reducible assumption
theorem kept_dropStale (hF : Sub 134217728 F) : ∀ a0 a1 a2, Kept F z a0 → (Kept F z) (Sys2Proof.dropStale a0 a1 a2) := by
  unfold Sys2Proof.dropStale
  intro v0 v1 v2 v3
  refine kept_mk ?_
  with_reducible assumption
theorem kept_takeReply (hF : Sub 402671620 F) : ∀ a0 a1 a2 a3, Kept F z a0 → (Kept F z) (Sys2Proof.takeReply a0 a1 a2 a3) := by
  unfold Sys2Proof.takeReply
  intro v0 v1 v2 v3 v4
  split
  · refine kept_homeTake (hF.sub rfl) _ _ _ _ ?_
    with_reducible assumption
  · split
    · with_reducible assumption
    · split
      · refine kept_compareShadows (hF.sub rfl) _ _ ?_
        refine kept_putHome (hF.sub rfl) _ _ ?_
        with_reducible assumption
      · extract_lets +onlyGivenNames l14_0 l14_1
        refine (fun (el14_1 : (Kept F z) l14_1) => ?_) ?_
        rotate_left
        · refine kept_shadowCount (hF.sub rfl) _ _ _ _ ?_
          with_reducible assumption
        clear_value l14_1
        split
        · refine kept_dropHome (hF.sub rfl) _ _ ?_
          with_reducible assumption
        · refine kept_putHome (hF.sub rfl) _ _ ?_
          with_reducible assumption
  · split
    · with_reducible assumption
    · split
      · refine kept_memberReply (hF.sub rfl) _ _ _ _ _ _ ?_
        with_reducible assumption
      · refine kept_memberFinish (hF.sub rfl) _ _ ?_
        with_reducible assumption
  · refine kept_dropStale (hF.sub rfl) _ _ _ ?_
    with_reducible assumption
theorem kept_dropMsg (hF : Sub 134217728 F) : ∀ a0 a1 a2, Kept F z a0 → (Kept F z) (Sys2Proof.dropMsg a0 a1 a2) := by
  unfold Sys2Proof.dropMsg
  intro v0 v1 v2 v3
  refine kept_mk ?_
  with_reducible assumption
theorem kept_execMemberReply (hF : Sub 17582540805 F) : ∀ a0 a1 a2, Kept F z a2 → (OnNext (Kept F z)) (Sys2Proof.Machine.execMemberReply a0 a1 a2) := by
  unfold Sys2Proof.Machine.execMemberReply
  intro v0 v1 v2 v3
  split
  · refine ans_next ?_
    with_reducible assumption
  · refine ans_next ?_
    refine kept_withSequencer (hF.sub rfl) _ _ _ ?_ ?_
    · refine kept_atTime (hF.sub rfl) _ _ ?_
      with_reducible assumption
    · intro v11 v12
      refine kept_takeReply (hF.sub rfl) _ _ _ _ ?_
      refine kept_dropMsg (hF.sub rfl) _ _ _ ?_
      with_reducible assumption
theorem kept_execAttendReply (hF : Sub 64366312445 F) : ∀ a0 a1 a2, Kept F z a2 → (OnNext (Kept F z)) (Sys2Proof.Machine.execAttendReply a0 a1 a2) := by
  unfold Sys2Proof.Machine.execAttendReply
  intro v0 v1 v2 v3
  split
  · refine ans_next ?_
    with_reducible assumption
  · refine ans_next ?_
    refine kept_dropFab (hF.sub rfl) _ ?_
    refine kept_dropMsg (hF.sub rfl) _ _ _ ?_
    refine kept_atTime (hF.sub rfl) _ _ ?_
    with_reducible assumption
  · refine ans_next ?_
    refine kept_withDoms (hF.sub rfl) _ _ _ ?_ ?_
    · refine kept_atTime (hF.sub rfl) _ _ ?_
      with_reducible assumption
    · intro v16 v17
      extract_lets +onlyGivenNames l18_0
      refine (fun (el18_0 : (Kept F z) l18_0) => ?_) ?_
      rotate_left
      · refine kept_dropMsg (hF.sub rfl) _ _ _ ?_
        with_reducible assumption
      clear_value l18_0
      split
      · refine kept_endNow (hF.sub rfl) _ _ _ _ _ _ ?_
        with_reducible assumption
      · refine kept_settleDrains (hF.sub rfl) _ ?_
        refine kept_endNow (hF.sub rfl) _ _ _ _ _ _ ?_
        refine exc_ok_eq (by assumption) (?_ : OnResult Always (Kept F z) _)
        split
        · refine exc_ok ?_
          with_reducible assumption
        · refine kept_writeOut (hF.sub rfl) _ _ _ _ _ ?_
          with_reducible assumption
theorem kept_execFabricDeadline (hF : Sub 47186443261 F) : ∀ a0 a1 a2 a3, Kept F z a3 → (OnNext (Kept F z)) (Sys2Proof.Machine.execFabricDeadline a0 a1 a2 a3) := by
  unfold Sys2Proof.Machine.execFabricDeadline
  intro v0 v1 v2 v3 v4
  split
  · refine ans_next ?_
    with_reducible assumption
  · split
    · refine ans_next ?_
      with_reducible assumption
    · extract_lets +onlyGivenNames l11_0 l11_1 l11_2 l11_3 l11_4 l11_5
      refine (fun (el11_0 : (Kept F z) l11_0) => ?_) ?_
      rotate_left
      · refine kept_atTime (hF.sub rfl) _ _ ?_
        with_reducible assumption
      clear_value l11_0
      refine (fun (el11_1 : (Kept F z) l11_1) => ?_) ?_
      rotate_left
      · refine foldl_kept (P := (Kept F z)) ?_ ?_
        · with_reducible assumption
        · intro v16 v17 v18
          refine kept_stopMember (hF.sub rfl) _ _ ?_
          with_reducible assumption
      clear_value l11_1
      refine (fun (el11_2 : (Kept F z) l11_2) => ?_) ?_
      rotate_left
      · dsimp -zeta only [l11_2]
        split
        · with_reducible assumption
        · refine kept_homeFail (hF.sub rfl) _ _ _ _ _ ?_
          with_reducible assumption
      clear_value l11_2
      refine (fun (el11_3 : (Kept F z) l11_3) => ?_) ?_
      rotate_left
      · refine foldl_kept (P := (Kept F z)) ?_ ?_
        · with_reducible assumption
        · intro v28 v29 v30
          refine kept_shadowCount (hF.sub rfl) _ _ _ _ ?_
          with_reducible assumption
      clear_value l11_3 l11_4 l11_5
      extract_lets +onlyGivenNames l33_0
      refine (fun (el33_0 : (Kept F z) l33_0) => ?_) ?_
      rotate_left
      · dsimp -zeta only [l33_0]
        split
        · with_reducible assumption
        · refine kept_mk ?_
          with_reducible assumption
      clear_value l33_0
      refine ans_next ?_
      refine kept_dropHome (hF.sub rfl) _ _ ?_
      with_reducible assumption
theorem kept_execFabricReplyTimeout (hF : Sub 47186443261 F) : ∀ a0 a1 a2 a3, Kept F z a3 → (OnNext (Kept F z)) (Sys2Proof.Machine.execFabricReplyTimeout a0 a1 a2 a3) := by
  unfold Sys2Proof.Machine.execFabricReplyTimeout
  intro v0 v1 v2 v3 v4
  split
  · split
    · refine ans_next ?_
      refine kept_settleDrains (hF.sub rfl) _ ?_
      refine kept_endNow (hF.sub rfl) _ _ _ _ _ _ ?_
      refine kept_netStopped (hF.sub rfl) _ _ ?_
      refine kept_atTime (hF.sub rfl) _ _ ?_
      with_reducible assumption
    · refine ans_next ?_
      with_reducible assumption
  · refine ans_next ?_
    with_reducible assumption
theorem kept_execSpreadSet (hF : Sub 17314107396 F) : ∀ a0 a1, Kept F z a1 → (OnNext (Kept F z)) (Sys2Proof.Machine.execSpreadSet a0 a1) := by
  unfold Sys2Proof.Machine.execSpreadSet
  intro v0 v1 v2
  split
  · refine ans_next ?_
    with_reducible assumption
  · split
    · refine ans_next ?_
      refine kept_fabTake (hF.sub rfl) _ _ _ ?_
      with_reducible assumption
    · split
      · refine ans_next ?_
        with_reducible assumption
      · refine ans_next ?_
        refine kept_withSequencer (hF.sub rfl) _ _ _ ?_ ?_
        · with_reducible assumption
        · intro v16 v17
          extract_lets +onlyGivenNames l18_0 l18_1 l18_2 l18_3
          refine (fun (el18_0 : (Kept F z) l18_0) => ?_) ?_
          rotate_left
          · refine kept_fabTake (hF.sub rfl) _ _ _ ?_
            with_reducible assumption
          clear_value l18_0 l18_1 l18_2 l18_3
          split
          · split
            · refine kept_putDesc (hF.sub rfl) _ _ ?_
              with_reducible assumption
            · split
              · refine kept_putDesc (hF.sub rfl) _ _ ?_
                with_reducible assumption
              · refine kept_putDesc (hF.sub rfl) _ _ ?_
                with_reducible assumption
          · split
            · refine kept_putDesc (hF.sub rfl) _ _ ?_
              with_reducible assumption
            · split
              · refine kept_putDesc (hF.sub rfl) _ _ ?_
                with_reducible assumption
              · split
                · refine kept_putDesc (hF.sub rfl) _ _ ?_
                  with_reducible assumption
                · extract_lets +onlyGivenNames l39_0
                  refine (fun (el39_0 : (Kept F z) l39_0) => ?_) ?_
                  rotate_left
                  · refine kept_modPart (hF.sub rfl) _ _ _ ?_
                    refine os_eq (by assumption) (?_ : OnSome (OnSnd (Kept F z)) (Sys2Proof.takeBlocks _ _ _))
                    refine kept_takeBlocks (hF.sub rfl) _ _ _ ?_
                    with_reducible assumption
                  clear_value l39_0
                  refine kept_putDesc (hF.sub rfl) _ _ ?_
                  with_reducible assumption
theorem kept_putOutgoing (hF : Sub 134217728 F) : ∀ a0 a1, Kept F z a0 → (Kept F z) (Sys2Proof.putOutgoing a0 a1) := by
  unfold Sys2Proof.putOutgoing
  intro v0 v1 v2
  refine kept_mk ?_
  with_reducible assumption
theorem kept_dropOutgoing (hF : Sub 134217728 F) : ∀ a0 a1, Kept F z a0 → (Kept F z) (Sys2Proof.dropOutgoing a0 a1) := by
  unfold Sys2Proof.dropOutgoing
  intro v0 v1 v2
  refine kept_mk ?_
  with_reducible assumption
theorem kept_handEnd (hF : Sub 47186443260 F) : ∀ a0 a1 a2 a3 a4 a5, Kept F z a0 → (Kept F z) (Sys2Proof.handEnd a0 a1 a2 a3 a4 a5) := by
  unfold Sys2Proof.handEnd
  intro v0 v1 v2 v3 v4 v5 v6
  split
  · refine kept_endNow (hF.sub rfl) _ _ _ _ _ _ ?_
    with_reducible assumption
  · with_reducible assumption
theorem kept_abandonOffer (hF : Sub 47186443260 F) : ∀ a0 a1 a2 a3, Kept F z a0 → (Kept F z) (Sys2Proof.abandonOffer a0 a1 a2 a3) := by
  unfold Sys2Proof.abandonOffer
  intro v0 v1 v2 v3 v4
  extract_lets +onlyGivenNames l5_0
  refine (fun (el5_0 : (Kept F z) l5_0) => ?_) ?_
  rotate_left
  · refine kept_fabTo (hF.sub rfl) _ _ _ _ ?_
    with_reducible assumption
  clear_value l5_0
  refine kept_handEnd (hF.sub rfl) _ _ _ _ _ _ ?_
  refine kept_endOffer (hF.sub rfl) _ _ ?_
  with_reducible assumption
theorem kept_execHandoffReq (hF : Sub 17582542849 F) : ∀ a0 a1 a2, Kept F z a2 → (OnNext (Kept F z)) (Sys2Proof.Machine.execHandoffReq a0 a1 a2) := by
  unfold Sys2Proof.Machine.execHandoffReq
  intro v0 v1 v2 v3
  split
  · refine ans_next ?_
    with_reducible assumption
  · split
    · refine ans_next ?_
      refine kept_fabTake (hF.sub rfl) _ _ _ ?_
      with_reducible assumption
    · split
      · refine ans_next ?_
        with_reducible assumption
      · refine ans_next ?_
        refine kept_withSequencer (hF.sub rfl) _ _ _ ?_ ?_
        · refine kept_atTime (hF.sub rfl) _ _ ?_
          with_reducible assumption
        · intro v18 v19
          extract_lets +onlyGivenNames l20_0 l20_1 l20_2
          refine (fun (el20_0 : (Kept F z) l20_0) => ?_) ?_
          rotate_left
          · refine kept_fabTake (hF.sub rfl) _ _ _ ?_
            with_reducible assumption
          clear_value l20_0 l20_1 l20_2
          split
          · refine kept_putDesc (hF.sub rfl) _ _ ?_
            with_reducible assumption
          · split
            · refine kept_putDesc (hF.sub rfl) _ _ ?_
              with_reducible assumption
            · split
              · refine kept_putDesc (hF.sub rfl) _ _ ?_
                with_reducible assumption
              · split
                · refine kept_putDesc (hF.sub rfl) _ _ ?_
                  with_reducible assumption
                · split
                  · refine kept_putDesc (hF.sub rfl) _ _ ?_
                    with_reducible assumption
                  · extract_lets +onlyGivenNames l38_0
                    clear_value l38_0
                    split
                    · refine kept_putDesc (hF.sub rfl) _ _ ?_
                      with_reducible assumption
                    · extract_lets +onlyGivenNames l42_0 l42_1 l42_2 l42_3
                      clear_value l42_0 l42_1
                      refine (fun (el42_2 : (Kept F z) l42_2) => ?_) ?_
                      rotate_left
                      · refine kept_setLease (hF.sub rfl) _ _ _ _ ?_
                        with_reducible assumption
                      clear_value l42_2 l42_3
                      extract_lets +onlyGivenNames l45_0
                      refine (fun (el45_0 : (Kept F z) l45_0) => ?_) ?_
                      rotate_left
                      · refine kept_mk ?_
                        with_reducible assumption
                      clear_value l45_0
                      refine kept_fabTo (hF.sub rfl) _ _ _ _ ?_
                      with_reducible assumption
theorem kept_execReady (hF : Sub 64366312445 F) : ∀ a0 a1 a2, Kept F z a2 → (OnNext (Kept F z)) (Sys2Proof.Machine.execReady a0 a1 a2) := by
  unfold Sys2Proof.Machine.execReady
  intro v0 v1 v2 v3
  split
  · refine ans_next ?_
    with_reducible assumption
  · split
    · refine ans_next ?_
      with_reducible assumption
    · refine ans_next ?_
      refine kept_withSequencer (hF.sub rfl) _ _ _ ?_ ?_
      · refine kept_atTime (hF.sub rfl) _ _ ?_
        with_reducible assumption
      · intro v14 v15
        extract_lets +onlyGivenNames l16_0
        refine (fun (el16_0 : (Kept F z) l16_0) => ?_) ?_
        rotate_left
        · refine kept_fabTake (hF.sub rfl) _ _ _ ?_
          with_reducible assumption
        clear_value l16_0
        split
        · refine kept_dropFab (hF.sub rfl) _ ?_
          with_reducible assumption
        · split
          · refine kept_dropFab (hF.sub rfl) _ ?_
            with_reducible assumption
          · split
            · refine kept_abandonOffer (hF.sub rfl) _ _ _ _ ?_
              with_reducible assumption
            · refine foldl_kept (P := (Kept F z)) ?_ ?_
              · with_reducible assumption
              · intro v30 v31 v32
                refine kept_fabTo (hF.sub rfl) _ _ _ _ ?_
                with_reducible assumption
theorem kept_execRefuse (hF : Sub 47186443261 F) : ∀ a0 a1 a2, Kept F z a2 → (OnNext (Kept F z)) (Sys2Proof.Machine.execRefuse a0 a1 a2) := by
  unfold Sys2Proof.Machine.execRefuse
  intro v0 v1 v2 v3
  split
  · refine ans_next ?_
    with_reducible assumption
  · extract_lets +onlyGivenNames l7_0
    refine (fun (el7_0 : (Kept F z) l7_0) => ?_) ?_
    rotate_left
    · refine kept_fabTake (hF.sub rfl) _ _ _ ?_
      refine kept_atTime (hF.sub rfl) _ _ ?_
      with_reducible assumption
    clear_value l7_0
    split
    · refine ans_next ?_
      refine kept_dropFab (hF.sub rfl) _ ?_
      with_reducible assumption
    · refine ans_next ?_
      refine kept_handEnd (hF.sub rfl) _ _ _ _ _ _ ?_
      refine kept_endOffer (hF.sub rfl) _ _ ?_
      with_reducible assumption
theorem kept_sendCommit (hF : Sub 402653184 F) : ∀ a0 a1, Kept F z a0 → (Kept F z) (Sys2Proof.sendCommit a0 a1) := by
  unfold Sys2Proof.sendCommit
  intro v0 v1 v2
  refine kept_fabTo (hF.sub rfl) _ _ _ _ ?_
  with_reducible assumption
theorem kept_execAccept (hF : Sub 47186443261 F) : ∀ a0 a1 a2, Kept F z a2 → (OnNext (Kept F z)) (Sys2Proof.Machine.execAccept a0 a1 a2) := by
  unfold Sys2Proof.Machine.execAccept
  intro v0 v1 v2 v3
  split
  · refine ans_next ?_
    with_reducible assumption
  · extract_lets +onlyGivenNames l7_0
    refine (fun (el7_0 : (Kept F z) l7_0) => ?_) ?_
    rotate_left
    · refine kept_fabTake (hF.sub rfl) _ _ _ ?_
      refine kept_atTime (hF.sub rfl) _ _ ?_
      with_reducible assumption
    clear_value l7_0
    split
    · refine ans_next ?_
      refine kept_dropFab (hF.sub rfl) _ ?_
      with_reducible assumption
    · extract_lets +onlyGivenNames l15_0 l15_1 l15_2
      refine (fun (el15_0 : (Kept F z) l15_0) => ?_) ?_
      rotate_left
      · refine kept_setLease (hF.sub rfl) _ _ _ _ ?_
        with_reducible assumption
      clear_value l15_0
      refine (fun (el15_1 : (Kept F z) l15_1) => ?_) ?_
      rotate_left
      · refine kept_putOutgoing (hF.sub rfl) _ _ ?_
        with_reducible assumption
      clear_value l15_1
      refine (fun (el15_2 : (Kept F z) l15_2) => ?_) ?_
      rotate_left
      · dsimp -zeta only [l15_2]
        split
        · refine kept_putDesc (hF.sub rfl) _ _ ?_
          with_reducible assumption
        · with_reducible assumption
      clear_value l15_2
      refine ans_next ?_
      refine kept_sendCommit (hF.sub rfl) _ _ ?_
      refine kept_handEnd (hF.sub rfl) _ _ _ _ _ _ ?_
      with_reducible assumption
theorem kept_takeBack (hF : Sub 134223896 F) : ∀ a0 a1, Kept F z a0 → (Kept F z) (Sys2Proof.takeBack a0 a1) := by
  unfold Sys2Proof.takeBack
  intro v0 v1 v2
  extract_lets +onlyGivenNames l3_0 l3_1
  clear_value l3_0
  refine (fun (el3_1 : (Kept F z) l3_1) => ?_) ?_
  rotate_left
  · refine kept_setLease (hF.sub rfl) _ _ _ _ ?_
    refine kept_dropOutgoing (hF.sub rfl) _ _ ?_
    with_reducible assumption
  clear_value l3_1
  refine kept_postEvent (hF.sub rfl) _ _ _ _ _ _ _ _ _ ?_
  with_reducible assumption
theorem kept_execCommitAck (hF : Sub 2281771009 F) : ∀ a0 a1 a2, Kept F z a2 → (OnNext (Kept F z)) (Sys2Proof.Machine.execCommitAck a0 a1 a2) := by
  unfold Sys2Proof.Machine.execCommitAck
  intro v0 v1 v2 v3
  split
  · refine ans_next ?_
    with_reducible assumption
  · extract_lets +onlyGivenNames l7_0
    refine (fun (el7_0 : (Kept F z) l7_0) => ?_) ?_
    rotate_left
    · refine kept_fabTake (hF.sub rfl) _ _ _ ?_
      refine kept_atTime (hF.sub rfl) _ _ ?_
      with_reducible assumption
    clear_value l7_0
    split
    · refine ans_next ?_
      refine kept_dropFab (hF.sub rfl) _ ?_
      with_reducible assumption
    · extract_lets +onlyGivenNames l15_0
      refine (fun (el15_0 : (Kept F z) l15_0) => ?_) ?_
      rotate_left
      · refine kept_removeSeq (hF.sub rfl) _ _ _ ?_
        refine kept_dropOutgoing (hF.sub rfl) _ _ ?_
        with_reducible assumption
      clear_value l15_0
      refine ans_next ?_
      refine kept_mk ?_
      with_reducible assumption
theorem kept_execCommitNak (hF : Sub 134223897 F) : ∀ a0 a1 a2, Kept F z a2 → (OnNext (Kept F z)) (Sys2Proof.Machine.execCommitNak a0 a1 a2) := by
  unfold Sys2Proof.Machine.execCommitNak
  intro v0 v1 v2 v3
  split
  · refine ans_next ?_
    with_reducible assumption
  · extract_lets +onlyGivenNames l7_0
    refine (fun (el7_0 : (Kept F z) l7_0) => ?_) ?_
    rotate_left
    · refine kept_fabTake (hF.sub rfl) _ _ _ ?_
      refine kept_atTime (hF.sub rfl) _ _ ?_
      with_reducible assumption
    clear_value l7_0
    split
    · refine ans_next ?_
      refine kept_dropFab (hF.sub rfl) _ ?_
      with_reducible assumption
    · refine ans_next ?_
      refine kept_takeBack (hF.sub rfl) _ _ ?_
      with_reducible assumption
theorem kept_execLeaseTimerExpire (hF : Sub 47186443261 F) : ∀ a0 a1 a2 a3, Kept F z a3 → (OnNext (Kept F z)) (Sys2Proof.Machine.execLeaseTimerExpire a0 a1 a2 a3) := by
  unfold Sys2Proof.Machine.execLeaseTimerExpire
  intro v0 v1 v2 v3 v4
  split
  · refine ans_next ?_
    with_reducible assumption
  · refine ans_next ?_
    refine kept_abandonOffer (hF.sub rfl) _ _ _ _ ?_
    refine kept_atTime (hF.sub rfl) _ _ ?_
    with_reducible assumption
theorem kept_execEscrowCommitResend (hF : Sub 402653185 F) : ∀ a0 a1 a2 a3, Kept F z a3 → (OnNext (Kept F z)) (Sys2Proof.Machine.execEscrowCommitResend a0 a1 a2 a3) := by
  unfold Sys2Proof.Machine.execEscrowCommitResend
  intro v0 v1 v2 v3 v4
  split
  · refine ans_next ?_
    with_reducible assumption
  · extract_lets +onlyGivenNames l8_0
    refine (fun (el8_0 : (Kept F z) l8_0) => ?_) ?_
    rotate_left
    · refine kept_atTime (hF.sub rfl) _ _ ?_
      with_reducible assumption
    clear_value l8_0
    refine ans_next ?_
    refine kept_sendCommit (hF.sub rfl) _ _ ?_
    refine kept_putOutgoing (hF.sub rfl) _ _ ?_
    with_reducible assumption
theorem kept_putIncoming (hF : Sub 134217728 F) : ∀ a0 a1, Kept F z a0 → (Kept F z) (Sys2Proof.putIncoming a0 a1) := by
  unfold Sys2Proof.putIncoming
  intro v0 v1 v2
  refine kept_mk ?_
  with_reducible assumption
theorem kept_freeReserved (hF : Sub 65536 F) : ∀ a0 a1, Kept F z a0 → (Kept F z) (Sys2Proof.freeReserved a0 a1) := by
  unfold Sys2Proof.freeReserved
  intro v0 v1 v2
  refine foldl_kept (P := (Kept F z)) ?_ ?_
  · with_reducible assumption
  · intro v5 v6 v7
    refine kept_unreserve (hF.sub rfl) _ _ ?_
    with_reducible assumption
theorem kept_dropIncoming (hF : Sub 2281771008 F) : ∀ a0 a1, Kept F z a0 → (Kept F z) (Sys2Proof.dropIncoming a0 a1) := by
  unfold Sys2Proof.dropIncoming
  intro v0 v1 v2
  refine kept_removeSeq (hF.sub rfl) _ _ _ ?_
  refine kept_freeReserved (hF.sub rfl) _ _ ?_
  refine kept_mk ?_
  with_reducible assumption
theorem kept_toSender (hF : Sub 402653184 F) : ∀ a0 a1 a2 a3, Kept F z a0 → (Kept F z) (Sys2Proof.toSender a0 a1 a2 a3) := by
  unfold Sys2Proof.toSender
  intro v0 v1 v2 v3 v4
  refine kept_fabSend (hF.sub rfl) _ _ _ ?_
  with_reducible assumption
theorem kept_takeClasses (hF : Sub 65536 F) : ∀ a0 a1 a2 a3 a4, Kept F z a0 → (OnSome (OnSnd (Kept F z))) (Sys2Proof.takeClasses a0 a1 a2 a3 a4) := by
  unfold Sys2Proof.takeClasses
  intro v0 v1 v2 v3 v4 v5
  split
  · refine opt_some ?_
    refine opt_eq (by assumption) (?_ : OnSome (OnSnd (Kept F z)) (Sys2Proof.takeFrame _ _ _ _ _ _ _ _))
    refine kept_takeFrame (hF.sub rfl) _ _ _ _ _ _ _ _ ?_
    with_reducible assumption
  · refine kept_takeFrame (hF.sub rfl) _ _ _ _ _ _ _ _ ?_
    with_reducible assumption
theorem kept_reserveFrames (hF : Sub 65536 F) : ∀ a0 a1 a2 a3 a4, Kept F z a4 → (OnSome (OnSnd (Kept F z))) (Sys2Proof.reserveFrames a0 a1 a2 a3 a4) := by
  intro a0 a1 a2 a3
  induction a3 with
  | zero => intro a4 h; exact h
  | succ n ih =>
    intro a4 h
    unfold reserveFrames
    split
    · exact opt_none
    · refine map_kept (OnSnd (Kept F z)) ?_ ?_
      · refine ih _ ?_
        refine os_eq (by assumption) (?_ : OnSome (OnSnd (Kept F z)) (Sys2Proof.takeClasses _ _ _ _ _))
        refine kept_takeClasses (hF.sub rfl) _ _ _ _ _ ?_
        with_reducible assumption
      · intro v7 v8
        refine snd_mk ?_
        refine snd_of (P := (Kept F z)) ?_
        with_reducible assumption
theorem kept_takeOffer (hF : Sub 69636 F) : ∀ a0 a1 a2, Kept F z a0 → (OnResult Always (OnSnd (Kept F z))) (Sys2Proof.takeOffer a0 a1 a2) := by
  unfold Sys2Proof.takeOffer
  intro v0 v1 v2 v3
  extract_lets +onlyGivenNames l4_0 l4_1 l4_2
  clear_value l4_0 l4_1 l4_2
  split
  · exact exc_error trivial
  · split
    · exact exc_error trivial
    · split
      · exact exc_error trivial
      · split
        · exact exc_error trivial
        · split
          · exact exc_error trivial
          · split
            · exact exc_error trivial
            · refine exc_ok ?_
              refine snd_mk ?_
              refine kept_modPart (hF.sub rfl) _ _ _ ?_
              refine oss_eq (by assumption) (?_ : OnSome (OnSnd (OnSnd (Kept F z))) (Sys2Proof.takeTables _ _ _))
              refine kept_takeTables (hF.sub rfl) _ _ _ ?_
              refine os_eq (by assumption) (?_ : OnSome (OnSnd (Kept F z)) (Sys2Proof.reserveFrames _ _ _ _ _))
              refine kept_reserveFrames (hF.sub rfl) _ _ _ _ _ ?_
              with_reducible assumption
theorem kept_acceptPages (hF : Sub 402722816 F) : ∀ a0 a1, Kept F z a0 → (Kept F z) (Sys2Proof.acceptPages a0 a1) := by
  unfold Sys2Proof.acceptPages
  intro v0 v1 v2
  split
  · with_reducible assumption
  · extract_lets +onlyGivenNames l5_0
    refine (fun (el5_0 : (Kept F z) l5_0) => ?_) ?_
    rotate_left
    · refine kept_setLease (hF.sub rfl) _ _ _ _ ?_
      with_reducible assumption
    clear_value l5_0
    refine kept_toSender (hF.sub rfl) _ _ _ _ ?_
    refine kept_putIncoming (hF.sub rfl) _ _ ?_
    refine kept_freeReserved (hF.sub rfl) _ _ ?_
    with_reducible assumption
theorem kept_execOffer (hF : Sub 17582592005 F) : ∀ a0 a1 a2, Kept F z a2 → (OnNext (Kept F z)) (Sys2Proof.Machine.execOffer a0 a1 a2) := by
  unfold Sys2Proof.Machine.execOffer
  intro v0 v1 v2 v3
  split
  · refine ans_next ?_
    with_reducible assumption
  · split
    · refine ans_next ?_
      with_reducible assumption
    · refine ans_next ?_
      refine kept_withSequencer (hF.sub rfl) _ _ _ ?_ ?_
      · refine kept_atTime (hF.sub rfl) _ _ ?_
        with_reducible assumption
      · intro v14 v15
        extract_lets +onlyGivenNames l16_0 l16_1 l16_2
        refine (fun (el16_0 : (Kept F z) l16_0) => ?_) ?_
        rotate_left
        · refine kept_fabTake (hF.sub rfl) _ _ _ ?_
          with_reducible assumption
        clear_value l16_0 l16_1 l16_2
        split
        · refine kept_dropFab (hF.sub rfl) _ ?_
          with_reducible assumption
        · split
          · refine kept_toSender (hF.sub rfl) _ _ _ _ ?_
            with_reducible assumption
          · extract_lets +onlyGivenNames l25_0
            clear_value l25_0
            refine kept_acceptPages (hF.sub rfl) _ _ ?_
            refine kept_toSender (hF.sub rfl) _ _ _ _ ?_
            refine kept_mk ?_
            refine xs_eq (by assumption) (?_ : OnResult Always (OnSnd (Kept F z)) (Sys2Proof.takeOffer _ _ _))
            refine kept_takeOffer (hF.sub rfl) _ _ _ ?_
            with_reducible assumption
theorem kept_placeIncoming (hF : Sub 201124 F) : ∀ a0 a1 a2 a3 a4, Kept F z a0 → (OnSome (OnSnd (Kept F z))) (Sys2Proof.placeIncoming a0 a1 a2 a3 a4) := by
  unfold Sys2Proof.placeIncoming
  intro v0 v1 v2 v3 v4 v5
  split
  · exact opt_none
  · extract_lets +onlyGivenNames l8_0 l8_1 l8_2 l8_3
    clear_value l8_0 l8_1 l8_2
    refine (fun (el8_3 : (Kept F z) l8_3) => ?_) ?_
    rotate_left
    · refine kept_freeReserved (hF.sub rfl) _ _ ?_
      with_reducible assumption
    clear_value l8_3
    split
    · exact opt_none
    · extract_lets +onlyGivenNames l13_0
      refine (fun (el13_0 : (OnSome (Kept F z)) l13_0) => ?_) ?_
      rotate_left
      · dsimp -zeta only [l13_0]
        split
        · refine opt_some ?_
          refine os_eq (by assumption) (?_ : OnSome (OnSnd (Kept F z)) (Sys2Proof.takeFrame _ _ _ _ _ _ _ _))
          refine kept_takeFrame (hF.sub rfl) _ _ _ _ _ _ _ _ ?_
          with_reducible assumption
        · refine map_kept (OnSnd (Kept F z)) ?_ ?_
          · refine kept_takeBlocks (hF.sub rfl) _ _ _ ?_
            refine os_eq (by assumption) (?_ : OnSome (OnSnd (Kept F z)) (Sys2Proof.takeFrame _ _ _ _ _ _ _ _))
            refine kept_takeFrame (hF.sub rfl) _ _ _ _ _ _ _ _ ?_
            with_reducible assumption
          · intro v25 v26
            refine kept_modPart (hF.sub rfl) _ _ _ ?_
            refine snd_of (P := (Kept F z)) ?_
            with_reducible assumption
      clear_value l13_0
      split
      · exact opt_none
      · split
        · exact opt_none
        · extract_lets +onlyGivenNames l34_0 l34_1
          refine (fun (el34_0 : (Kept F z) l34_0) => ?_) ?_
          rotate_left
          · refine kept_writeHbm (hF.sub rfl) _ _ _ _ ?_
            refine oss_eq (by assumption) (?_ : OnSome (OnSnd (OnSnd (Kept F z))) (Sys2Proof.takeLists _ _ _ _))
            refine kept_takeLists (hF.sub rfl) _ _ _ _ ?_
            exact el13_0
          clear_value l34_0
          refine (fun (el34_1 : (Kept F z) l34_1) => ?_) ?_
          rotate_left
          · refine kept_fillFrame (hF.sub rfl) _ _ _ _ _ _ _ _ _ ?_
            with_reducible assumption
          clear_value l34_1
          refine opt_some ?_
          refine snd_mk ?_
          refine kept_setLease (hF.sub rfl) _ _ _ _ ?_
          with_reducible assumption
theorem kept_takePages (hF : Sub 201124 F) : ∀ a0 a1 a2 a3, Kept F z a0 → (OnResult (OnSnd (Kept F z)) (OnFst (Kept F z))) (Sys2Proof.takePages a0 a1 a2 a3) := by
  intro a0 a1 a2 a3
  induction a3 generalizing a0 a1 a2 with
  | nil =>
    intro h
    unfold takePages
    refine exc_ok ?_
    refine fst_mk ?_
    with_reducible assumption
  | cons c r ih =>
    intro h
    unfold takePages
    extract_lets +onlyGivenNames l0_0
    clear_value l0_0
    split
    · refine ih _ _ _ ?_
      with_reducible assumption
    · split
      · refine exc_ok ?_
        refine fst_mk ?_
        with_reducible assumption
      · split
        · split
          · refine exc_error ?_
            refine snd_mk ?_
            with_reducible assumption
          · refine ih _ _ _ ?_
            with_reducible assumption
        · split
          · refine exc_error ?_
            refine snd_mk ?_
            with_reducible assumption
          · refine ih _ _ _ ?_
            refine os_eq (by assumption) (?_ : OnSome (OnSnd (Kept F z)) (Sys2Proof.placeIncoming _ _ _ _ _))
            refine kept_placeIncoming (hF.sub rfl) _ _ _ _ _ ?_
            with_reducible assumption
theorem kept_execPages (hF : Sub 19730207141 F) : ∀ a0 a1 a2, Kept F z a2 → (OnNext (Kept F z)) (Sys2Proof.Machine.execPages a0 a1 a2) := by
  unfold Sys2Proof.Machine.execPages
  intro v0 v1 v2 v3
  split
  · refine ans_next ?_
    with_reducible assumption
  · split
    · refine ans_next ?_
      with_reducible assumption
    · extract_lets +onlyGivenNames l10_0 l10_1
      refine (fun (el10_0 : (Kept F z) l10_0) => ?_) ?_
      rotate_left
      · refine kept_atTime (hF.sub rfl) _ _ ?_
        with_reducible assumption
      clear_value l10_0
      split
      refine ans_next ?_
      refine kept_withSequencer (hF.sub rfl) _ _ _ ?_ ?_
      · with_reducible assumption
      · intro v17 v18
        refine kept_withDoms (hF.sub rfl) _ _ _ ?_ ?_
        · with_reducible assumption
        · intro v21 v22
          refine fst_eq (by assumption) (?_ : OnFst (Kept F z) _)
          dsimp -zeta only [l10_1]
          extract_lets +onlyGivenNames l25_0
          refine (fun (el25_0 : (Kept F z) l25_0) => ?_) ?_
          rotate_left
          · refine kept_fabTake (hF.sub rfl) _ _ _ ?_
            with_reducible assumption
          clear_value l25_0
          split
          · refine fst_mk ?_
            refine kept_dropFab (hF.sub rfl) _ ?_
            with_reducible assumption
          · split
            · refine fst_mk ?_
              refine kept_toSender (hF.sub rfl) _ _ _ _ ?_
              refine kept_dropIncoming (hF.sub rfl) _ _ ?_
              refine xe_eq (by assumption) (?_ : OnResult (OnSnd (Kept F z)) Always (Sys2Proof.takePages _ _ _ _))
              refine exc_l (kept_takePages (hF.sub rfl) _ _ _ _ ?_)
              with_reducible assumption
            · extract_lets +onlyGivenNames l39_0 l39_1 l39_2
              clear_value l39_0
              refine (fun (el39_1 : (Kept F z) l39_1) => ?_) ?_
              rotate_left
              · refine kept_putIncoming (hF.sub rfl) _ _ ?_
                refine xf_eq (by assumption) (?_ : OnResult Always (OnFst (Kept F z)) (Sys2Proof.takePages _ _ _ _))
                refine exc_r (kept_takePages (hF.sub rfl) _ _ _ _ ?_)
                with_reducible assumption
              clear_value l39_1
              refine (fun (el39_2 : (Kept F z) l39_2) => ?_) ?_
              rotate_left
              · dsimp -zeta only [l39_2]
                split
                · refine kept_toSender (hF.sub rfl) _ _ _ _ ?_
                  with_reducible assumption
                · with_reducible assumption
              clear_value l39_2
              refine fst_mk ?_
              refine kept_acceptPages (hF.sub rfl) _ _ ?_
              with_reducible assumption
theorem kept_execCommit (hF : Sub 2550208537 F) : ∀ a0 a1 a2, Kept F z a2 → (OnNext (Kept F z)) (Sys2Proof.Machine.execCommit a0 a1 a2) := by
  unfold Sys2Proof.Machine.execCommit
  intro v0 v1 v2 v3
  split
  · refine ans_next ?_
    with_reducible assumption
  · extract_lets +onlyGivenNames l7_0 l7_1 l7_2
    refine (fun (el7_0 : (Kept F z) l7_0) => ?_) ?_
    rotate_left
    · refine kept_fabTake (hF.sub rfl) _ _ _ ?_
      refine kept_atTime (hF.sub rfl) _ _ ?_
      with_reducible assumption
    clear_value l7_0 l7_1
    split
    · split
      · extract_lets +onlyGivenNames l13_0 l13_1
        refine (fun (el13_0 : (Kept F z) l13_0) => ?_) ?_
        rotate_left
        · refine kept_setLease (hF.sub rfl) _ _ _ _ ?_
          with_reducible assumption
        clear_value l13_0 l13_1
        extract_lets +onlyGivenNames l16_0
        refine (fun (el16_0 : (Kept F z) l16_0) => ?_) ?_
        rotate_left
        · refine kept_mk ?_
          with_reducible assumption
        clear_value l16_0
        refine ans_next ?_
        refine kept_postEvent (hF.sub rfl) _ _ _ _ _ _ _ _ _ ?_
        dsimp -zeta only [l7_2]
        refine kept_fabSend (hF.sub rfl) _ _ _ ?_
        with_reducible assumption
      · refine ans_next ?_
        dsimp -zeta only [l7_2]
        refine kept_fabSend (hF.sub rfl) _ _ _ ?_
        refine kept_dropIncoming (hF.sub rfl) _ _ ?_
        with_reducible assumption
    · split
      · refine ans_next ?_
        dsimp -zeta only [l7_2]
        refine kept_fabSend (hF.sub rfl) _ _ _ ?_
        with_reducible assumption
      · refine ans_next ?_
        dsimp -zeta only [l7_2]
        refine kept_fabSend (hF.sub rfl) _ _ _ ?_
        with_reducible assumption
theorem kept_execAbandon (hF : Sub 2281771009 F) : ∀ a0 a1 a2, Kept F z a2 → (OnNext (Kept F z)) (Sys2Proof.Machine.execAbandon a0 a1 a2) := by
  unfold Sys2Proof.Machine.execAbandon
  intro v0 v1 v2 v3
  split
  · refine ans_next ?_
    with_reducible assumption
  · extract_lets +onlyGivenNames l7_0
    refine (fun (el7_0 : (Kept F z) l7_0) => ?_) ?_
    rotate_left
    · refine kept_fabTake (hF.sub rfl) _ _ _ ?_
      refine kept_atTime (hF.sub rfl) _ _ ?_
      with_reducible assumption
    clear_value l7_0
    split
    · refine ans_next ?_
      refine kept_dropFab (hF.sub rfl) _ ?_
      with_reducible assumption
    · refine ans_next ?_
      refine kept_dropIncoming (hF.sub rfl) _ _ ?_
      with_reducible assumption
theorem kept_execHoldTimerExpire (hF : Sub 2281771009 F) : ∀ a0 a1 a2 a3, Kept F z a3 → (OnNext (Kept F z)) (Sys2Proof.Machine.execHoldTimerExpire a0 a1 a2 a3) := by
  unfold Sys2Proof.Machine.execHoldTimerExpire
  intro v0 v1 v2 v3 v4
  split
  · refine ans_next ?_
    with_reducible assumption
  · refine ans_next ?_
    refine kept_dropIncoming (hF.sub rfl) _ _ ?_
    refine kept_atTime (hF.sub rfl) _ _ ?_
    with_reducible assumption
theorem kept_execPendingIdleExpire (hF : Sub 2281771009 F) : ∀ a0 a1 a2 a3, Kept F z a3 → (OnNext (Kept F z)) (Sys2Proof.Machine.execPendingIdleExpire a0 a1 a2 a3) := by
  unfold Sys2Proof.Machine.execPendingIdleExpire
  intro v0 v1 v2 v3 v4
  split
  · refine ans_next ?_
    with_reducible assumption
  · refine ans_next ?_
    refine kept_dropIncoming (hF.sub rfl) _ _ ?_
    refine kept_atTime (hF.sub rfl) _ _ ?_
    with_reducible assumption
theorem kept_execHandoffMemoryExpire (hF : Sub 134217729 F) : ∀ a0 a1 a2 a3 a4, Kept F z a4 → (OnNext (Kept F z)) (Sys2Proof.Machine.execHandoffMemoryExpire a0 a1 a2 a3 a4) := by
  unfold Sys2Proof.Machine.execHandoffMemoryExpire
  intro v0 v1 v2 v3 v4 v5
  refine ans_next ?_
  extract_lets +onlyGivenNames l7_0
  refine (fun (el7_0 : (Kept F z) l7_0) => ?_) ?_
  rotate_left
  · refine kept_atTime (hF.sub rfl) _ _ ?_
    with_reducible assumption
  clear_value l7_0
  refine kept_mk ?_
  with_reducible assumption
theorem kept_loseNode (hF : Sub 47186443260 F) : ∀ a0 a1, Kept F z a0 → (OnFst (Kept F z)) (Sys2Proof.loseNode a0 a1) := by
  unfold Sys2Proof.loseNode
  intro v0 v1 v2
  extract_lets +onlyGivenNames l3_0 l3_1 l3_2 l3_3
  clear_value l3_0
  refine (fun (el3_1 : (Kept F z) l3_1) => ?_) ?_
  rotate_left
  · refine foldl_kept (P := (Kept F z)) ?_ ?_
    · with_reducible assumption
    · intro v6 v7 v8
      refine kept_homeLost (hF.sub rfl) _ _ _ ?_
      with_reducible assumption
  clear_value l3_1
  refine (fun (el3_2 : (Kept F z) l3_2) => ?_) ?_
  rotate_left
  · refine foldl_kept (P := (Kept F z)) ?_ ?_
    · with_reducible assumption
    · intro v13 v14 v15
      refine kept_qpError (hF.sub rfl) _ _ ?_
      with_reducible assumption
  clear_value l3_2
  refine (fun (el3_3 : (Kept F z) l3_3) => ?_) ?_
  rotate_left
  · refine foldl_kept (P := (Kept F z)) ?_ ?_
    · with_reducible assumption
    · intro v20 v21 v22
      split
      · refine kept_takeBack (hF.sub rfl) _ _ ?_
        with_reducible assumption
      · refine kept_abandonOffer (hF.sub rfl) _ _ _ _ ?_
        with_reducible assumption
  clear_value l3_3
  refine fst_mk ?_
  with_reducible assumption
theorem kept_execLossNotice (hF : Sub 47186443261 F) : ∀ a0 a1 a2 a3, Kept F z a3 → (OnNext (Kept F z)) (Sys2Proof.Machine.execLossNotice a0 a1 a2 a3) := by
  unfold Sys2Proof.Machine.execLossNotice
  intro v0 v1 v2 v3 v4
  extract_lets +onlyGivenNames l5_0
  refine (fun (el5_0 : (Kept F z) l5_0) => ?_) ?_
  rotate_left
  · refine kept_atTime (hF.sub rfl) _ _ ?_
    with_reducible assumption
  clear_value l5_0
  refine ans_next ?_
  refine kept_mboxRun (hF.sub rfl) _ _ _ _ _ _ _ ?_ ?_
  · with_reducible assumption
  · intro v11
    extract_lets +onlyGivenNames l12_0
    clear_value l12_0
    split
    · refine kept_mboxReply (hF.sub rfl) _ _ _ _ _ _ _ _ _ ?_
      with_reducible assumption
    · split
      refine kept_settleDrains (hF.sub rfl) _ ?_
      refine kept_mboxReply (hF.sub rfl) _ _ _ _ _ _ _ _ _ ?_
      refine fst_eq (by assumption) (?_ : OnFst (Kept F z) (Sys2Proof.loseNode _ _))
      refine kept_loseNode (hF.sub rfl) _ _ ?_
      with_reducible assumption

/-! ### Faults -/

theorem kept_execTransferCheckFail (hF : Sub 34359772545 F) : ∀ a0 a1 a2 a3 a4 a5 a6, Kept F z a6 → (OnNext (Kept F z)) (Sys2Proof.Machine.execTransferCheckFail a0 a1 a2 a3 a4 a5 a6) := by
  unfold Sys2Proof.Machine.execTransferCheckFail
  intro v0 v1 v2 v3 v4 v5 v6 v7
  split
  · refine ans_next ?_
    with_reducible assumption
  · extract_lets +onlyGivenNames l11_0 l11_1
    refine (fun (el11_0 : (Kept F z) l11_0) => ?_) ?_
    rotate_left
    · refine kept_atTime (hF.sub rfl) _ _ ?_
      with_reducible assumption
    clear_value l11_0 l11_1
    split
    extract_lets +onlyGivenNames l15_0 l15_1
    clear_value l15_0 l15_1
    extract_lets +onlyGivenNames l16_0
    refine (fun (el16_0 : (Kept F z) l16_0) => ?_) ?_
    rotate_left
    · refine kept_mk ?_
      with_reducible assumption
    clear_value l16_0
    split
    · refine ans_next ?_
      with_reducible assumption
    · extract_lets +onlyGivenNames l22_0
      refine (fun (el22_0 : (Kept F z) l22_0) => ?_) ?_
      rotate_left
      · dsimp -zeta only [l22_0]
        split
        · refine kept_poisonLine (hF.sub rfl) _ _ _ ?_
          with_reducible assumption
        · with_reducible assumption
      clear_value l22_0
      refine ans_next ?_
      refine kept_logError (hF.sub rfl) _ _ _ _ _ _ ?_
      with_reducible assumption
theorem kept_execEccError (hF : Sub 53695564313 F) : ∀ a0 a1 a2 a3 a4, Kept F z a4 → (OnNext (Kept F z)) (Sys2Proof.Machine.execEccError a0 a1 a2 a3 a4) := by
  unfold Sys2Proof.Machine.execEccError
  intro v0 v1 v2 v3 v4 v5
  extract_lets +onlyGivenNames l6_0
  refine (fun (el6_0 : (Kept F z) l6_0) => ?_) ?_
  rotate_left
  · refine kept_atTime (hF.sub rfl) _ _ ?_
    with_reducible assumption
  split
  · extract_lets +onlyGivenNames l10_0 l10_1
    refine (fun (el10_0 : (Kept F z) l10_0) => ?_) ?_
    rotate_left
    · dsimp -zeta only [l10_0]
      split
      · refine kept_mk ?_
        with_reducible assumption
      · with_reducible assumption
    clear_value l10_0
    refine (fun (el10_1 : (Kept F z) l10_1) => ?_) ?_
    rotate_left
    · refine kept_logError (hF.sub rfl) _ _ _ _ _ _ ?_
      with_reducible assumption
    clear_value l10_1
    refine ans_next ?_
    split
    · refine kept_fenceCore (hF.sub rfl) _ _ ?_
      with_reducible assumption
    · with_reducible assumption
  · extract_lets +onlyGivenNames l23_0
    clear_value l23_0
    extract_lets +onlyGivenNames l24_0
    refine (fun (el24_0 : (Kept F z) l24_0) => ?_) ?_
    rotate_left
    · refine kept_mk ?_
      with_reducible assumption
    split
    · extract_lets +onlyGivenNames l28_0
      refine (fun (el28_0 : (Kept F z) l28_0) => ?_) ?_
      rotate_left
      · refine kept_mk ?_
        with_reducible assumption
      refine ans_next ?_
      split
      · refine kept_fenceCore (hF.sub rfl) _ _ ?_
        with_reducible assumption
      · with_reducible assumption
    · refine ans_next ?_
      with_reducible assumption
theorem kept_execLaneSpare (hF : Sub 133085789180 F) : ∀ a0 a1 a2 a3, Kept F z a3 → (OnNext (Kept F z)) (Sys2Proof.Machine.execLaneSpare a0 a1 a2 a3) := by
  unfold Sys2Proof.Machine.execLaneSpare
  intro v0 v1 v2 v3 v4
  split
  extract_lets +onlyGivenNames l6_0
  clear_value l6_0
  split
  · refine ans_next ?_
    with_reducible assumption
  · split
    · refine ans_next ?_
      refine kept_fenceModule (hF.sub rfl) _ _ _ ?_
      with_reducible assumption
    · extract_lets +onlyGivenNames l14_0
      refine (fun (el14_0 : (Kept F z) l14_0) => ?_) ?_
      rotate_left
      · refine kept_modModule (hF.sub rfl) _ _ _ _ ?_
        with_reducible assumption
      clear_value l14_0
      refine ans_next ?_
      refine kept_logError (hF.sub rfl) _ _ _ _ _ _ ?_
      with_reducible assumption
theorem kept_execLinkModuleFence (hF : Sub 133085789181 F) : ∀ a0 a1 a2 a3, Kept F z a3 → (OnNext (Kept F z)) (Sys2Proof.Machine.execLinkModuleFence a0 a1 a2 a3) := by
  unfold Sys2Proof.Machine.execLinkModuleFence
  intro v0 v1 v2 v3 v4
  refine ans_next ?_
  refine kept_fenceModule (hF.sub rfl) _ _ _ ?_
  refine kept_atTime (hF.sub rfl) _ _ ?_
  with_reducible assumption
theorem kept_execPseudoChannelFence (hF : Sub 36507600921 F) : ∀ a0 a1 a2, Kept F z a2 → (OnNext (Kept F z)) (Sys2Proof.Machine.execPseudoChannelFence a0 a1 a2) := by
  unfold Sys2Proof.Machine.execPseudoChannelFence
  intro v0 v1 v2 v3
  refine ans_next ?_
  refine kept_fencePch (hF.sub rfl) _ _ ?_
  refine kept_atTime (hF.sub rfl) _ _ ?_
  with_reducible assumption
theorem kept_execFenceRecordWrite (hF : Sub 34359738368 F) : ∀ a0, Kept F z a0 → (OnNext (Kept F z)) (Sys2Proof.Machine.execFenceRecordWrite a0) := by
  unfold Sys2Proof.Machine.execFenceRecordWrite
  intro v0 v1
  refine ans_next ?_
  refine kept_mk ?_
  with_reducible assumption
theorem kept_fenceByCommand (hF : Sub 133085789180 F) : ∀ a0 a1 a2, Kept F z a0 → (Kept F z) (Sys2Proof.fenceByCommand a0 a1 a2) := by
  unfold Sys2Proof.fenceByCommand
  intro v0 v1 v2 v3
  split
  · split
    · refine kept_fenceCore (hF.sub rfl) _ _ ?_
      with_reducible assumption
    · with_reducible assumption
  · refine kept_fencePair (hF.sub rfl) _ _ ?_
    with_reducible assumption
  · refine kept_fencePch (hF.sub rfl) _ _ ?_
    with_reducible assumption
  · refine kept_fenceModule (hF.sub rfl) _ _ _ ?_
    with_reducible assumption
theorem kept_execMailboxFence (hF : Sub 133085789181 F) : ∀ a0 a1 a2 a3, Kept F z a3 → (OnNext (Kept F z)) (Sys2Proof.Machine.execMailboxFence a0 a1 a2 a3) := by
  unfold Sys2Proof.Machine.execMailboxFence
  intro v0 v1 v2 v3 v4
  extract_lets +onlyGivenNames l5_0
  refine (fun (el5_0 : (Kept F z) l5_0) => ?_) ?_
  rotate_left
  · refine kept_atTime (hF.sub rfl) _ _ ?_
    with_reducible assumption
  clear_value l5_0
  refine ans_next ?_
  refine kept_mboxRun (hF.sub rfl) _ _ _ _ _ _ _ ?_ ?_
  · with_reducible assumption
  · intro v11
    extract_lets +onlyGivenNames l12_0 l12_1 l12_2 l12_3
    clear_value l12_0 l12_1 l12_2 l12_3
    split
    · refine kept_mboxReply (hF.sub rfl) _ _ _ _ _ _ _ _ _ ?_
      with_reducible assumption
    · split
      · refine kept_mboxReply (hF.sub rfl) _ _ _ _ _ _ _ _ _ ?_
        with_reducible assumption
      · extract_lets +onlyGivenNames l19_0 l19_1
        clear_value l19_0 l19_1
        extract_lets +onlyGivenNames l20_0
        refine (fun (el20_0 : (Kept F z) l20_0) => ?_) ?_
        rotate_left
        · dsimp -zeta only [l20_0]
          split
          · refine kept_fenceByCommand (hF.sub rfl) _ _ _ ?_
            with_reducible assumption
          · split
            · refine kept_mk ?_
              with_reducible assumption
            · with_reducible assumption
        clear_value l20_0
        refine kept_mboxReply (hF.sub rfl) _ _ _ _ _ _ _ _ _ ?_
        with_reducible assumption
theorem kept_memPathFailed (hF : Sub 124420115432 F) : ∀ a0, Kept F z a0 → (Kept F z) (Sys2Proof.memPathFailed a0) := by
  unfold Sys2Proof.memPathFailed
  intro v0 v1
  extract_lets +onlyGivenNames l2_0
  refine (fun (el2_0 : (Kept F z) l2_0) => ?_) ?_
  rotate_left
  · refine kept_enterFault (hF.sub rfl) _ _ _ _ ?_
    refine kept_aerFatal (hF.sub rfl) _ _ ?_
    with_reducible assumption
  clear_value l2_0
  refine kept_mk ?_
  with_reducible assumption
theorem kept_execNodeFault (hF : Sub 124420115436 F) : ∀ a0 a1, Kept F z a1 → (OnNext (Kept F z)) (Sys2Proof.Machine.execNodeFault a0 a1) := by
  unfold Sys2Proof.Machine.execNodeFault
  intro v0 v1 v2
  split
  · refine ans_next ?_
    with_reducible assumption
  · split
    · split
      refine ans_next ?_
      split
      · refine kept_memPathFailed (hF.sub rfl) _ ?_
        refine snd_eq (by assumption) (?_ : OnSnd (Kept F z) (Sys2Proof.draw _))
        refine kept_draw (hF.sub rfl) _ ?_
        with_reducible assumption
      · refine kept_enterFault (hF.sub rfl) _ _ _ _ ?_
        refine snd_eq (by assumption) (?_ : OnSnd (Kept F z) (Sys2Proof.draw _))
        refine kept_draw (hF.sub rfl) _ ?_
        with_reducible assumption
    · refine ans_next ?_
      refine kept_enterFault (hF.sub rfl) _ _ _ _ ?_
      with_reducible assumption
theorem kept_execRef100Loss (hF : Sub 124420115425 F) : ∀ a0 a1, Kept F z a1 → (OnNext (Kept F z)) (Sys2Proof.Machine.execRef100Loss a0 a1) := by
  unfold Sys2Proof.Machine.execRef100Loss
  intro v0 v1 v2
  split
  · refine ans_next ?_
    with_reducible assumption
  · refine ans_next ?_
    refine kept_enterFault (hF.sub rfl) _ _ _ _ ?_
    refine kept_atTime (hF.sub rfl) _ _ ?_
    with_reducible assumption

/-! ### Firmware -/

theorem kept_execIdentify (hF : Sub 12 F) : ∀ a0 a1 a2, Kept F z a2 → (OnNext (Kept F z)) (Sys2Proof.Machine.execIdentify a0 a1 a2) := by
  unfold Sys2Proof.Machine.execIdentify
  intro v0 v1 v2 v3
  refine ans_next ?_
  refine kept_mboxRun (hF.sub rfl) _ _ _ _ _ _ _ ?_ ?_
  · with_reducible assumption
  · intro v7
    refine kept_mboxReply (hF.sub rfl) _ _ _ _ _ _ _ _ _ ?_
    with_reducible assumption
theorem kept_execTime (hF : Sub 13 F) : ∀ a0 a1 a2 a3, Kept F z a3 → (OnNext (Kept F z)) (Sys2Proof.Machine.execTime a0 a1 a2 a3) := by
  unfold Sys2Proof.Machine.execTime
  intro v0 v1 v2 v3 v4
  refine ans_next ?_
  refine kept_mboxRun (hF.sub rfl) _ _ _ _ _ _ _ ?_ ?_
  · with_reducible assumption
  · intro v8
    extract_lets +onlyGivenNames l9_0 l9_1
    refine (fun (el9_0 : (Kept F z) l9_0) => ?_) ?_
    rotate_left
    · refine kept_atTime (hF.sub rfl) _ _ ?_
      with_reducible assumption
    clear_value l9_0 l9_1
    split
    extract_lets +onlyGivenNames l13_0
    refine (fun (el13_0 : (Kept F z) l13_0) => ?_) ?_
    rotate_left
    · refine kept_atTime (hF.sub rfl) _ _ ?_
      refine snd_eq (by assumption) (?_ : OnSnd (Kept F z) (Sys2Proof.draw _))
      refine kept_draw (hF.sub rfl) _ ?_
      with_reducible assumption
    clear_value l13_0
    refine kept_mboxReply (hF.sub rfl) _ _ _ _ _ _ _ _ _ ?_
    with_reducible assumption
theorem kept_execLogRead (hF : Sub 12 F) : ∀ a0 a1 a2, Kept F z a2 → (OnNext (Kept F z)) (Sys2Proof.Machine.execLogRead a0 a1 a2) := by
  unfold Sys2Proof.Machine.execLogRead
  intro v0 v1 v2 v3
  refine ans_next ?_
  refine kept_mboxRun (hF.sub rfl) _ _ _ _ _ _ _ ?_ ?_
  · with_reducible assumption
  · intro v7
    extract_lets +onlyGivenNames l8_0 l8_1
    clear_value l8_0 l8_1
    split
    · refine kept_mboxReply (hF.sub rfl) _ _ _ _ _ _ _ _ _ ?_
      with_reducible assumption
    · extract_lets +onlyGivenNames l12_0 l12_1 l12_2 l12_3
      clear_value l12_0 l12_1 l12_2 l12_3
      refine kept_mboxReply (hF.sub rfl) _ _ _ _ _ _ _ _ _ ?_
      with_reducible assumption
theorem kept_execAttachState (hF : Sub 12 F) : ∀ a0 a1 a2, Kept F z a2 → (OnNext (Kept F z)) (Sys2Proof.Machine.execAttachState a0 a1 a2) := by
  unfold Sys2Proof.Machine.execAttachState
  intro v0 v1 v2 v3
  refine ans_next ?_
  refine kept_mboxRun (hF.sub rfl) _ _ _ _ _ _ _ ?_ ?_
  · with_reducible assumption
  · intro v7
    extract_lets +onlyGivenNames l8_0
    clear_value l8_0
    split
    · refine kept_mboxReply (hF.sub rfl) _ _ _ _ _ _ _ _ _ ?_
      with_reducible assumption
    · split
      · refine kept_mboxReply (hF.sub rfl) _ _ _ _ _ _ _ _ _ ?_
        with_reducible assumption
      · extract_lets +onlyGivenNames l15_0
        clear_value l15_0
        split
        · refine kept_mboxReply (hF.sub rfl) _ _ _ _ _ _ _ _ _ ?_
          with_reducible assumption
        · refine kept_mboxReply (hF.sub rfl) _ _ _ _ _ _ _ _ _ ?_
          with_reducible assumption
theorem kept_modStaging (hF : Sub 4294967296 F) : ∀ a0 a1 a2, Kept F z a0 → (Kept F z) (Sys2Proof.modStaging a0 a1 a2) := by
  unfold Sys2Proof.modStaging
  intro v0 v1 v2 v3
  refine kept_mk ?_
  with_reducible assumption
theorem kept_execFwStage (hF : Sub 4294967308 F) : ∀ a0 a1 a2, Kept F z a2 → (OnNext (Kept F z)) (Sys2Proof.Machine.execFwStage a0 a1 a2) := by
  unfold Sys2Proof.Machine.execFwStage
  intro v0 v1 v2 v3
  refine ans_next ?_
  refine kept_mboxRun (hF.sub rfl) _ _ _ _ _ _ _ ?_ ?_
  · with_reducible assumption
  · intro v7
    extract_lets +onlyGivenNames l8_0 l8_1 l8_2
    clear_value l8_0 l8_1 l8_2
    split
    · refine kept_mboxReply (hF.sub rfl) _ _ _ _ _ _ _ _ _ ?_
      with_reducible assumption
    · split
      · refine kept_mboxReply (hF.sub rfl) _ _ _ _ _ _ _ _ _ ?_
        with_reducible assumption
      · extract_lets +onlyGivenNames l15_0 l15_1
        clear_value l15_0
        refine (fun (el15_1 : (Kept F z) l15_1) => ?_) ?_
        rotate_left
        · refine kept_mk ?_
          with_reducible assumption
        clear_value l15_1
        extract_lets +onlyGivenNames l18_0
        refine (fun (el18_0 : (Kept F z) l18_0) => ?_) ?_
        rotate_left
        · refine kept_modStaging (hF.sub rfl) _ _ _ ?_
          with_reducible assumption
        clear_value l18_0
        refine kept_mboxReply (hF.sub rfl) _ _ _ _ _ _ _ _ _ ?_
        with_reducible assumption
theorem kept_startOp (hF : Sub 4294967308 F) : ∀ a0 a1 a2 a3, Kept F z a0 → (Kept F z) (Sys2Proof.startOp a0 a1 a2 a3) := by
  unfold Sys2Proof.startOp
  intro v0 v1 v2 v3 v4
  split
  · refine kept_mboxReply (hF.sub rfl) _ _ _ _ _ _ _ _ _ ?_
    with_reducible assumption
  · refine kept_mboxReply (hF.sub rfl) _ _ _ _ _ _ _ _ _ ?_
    refine kept_mk ?_
    with_reducible assumption
theorem kept_endOp (hF : Sub 4294969368 F) : ∀ a0 a1 a2 a3 a4, Kept F z a0 → (Kept F z) (Sys2Proof.endOp a0 a1 a2 a3 a4) := by
  unfold Sys2Proof.endOp
  intro v0 v1 v2 v3 v4 v5
  refine kept_postFm (hF.sub rfl) _ _ _ _ _ _ _ ?_
  refine kept_mk ?_
  with_reducible assumption
theorem kept_execFwVerify (hF : Sub 4294967308 F) : ∀ a0 a1 a2, Kept F z a2 → (OnNext (Kept F z)) (Sys2Proof.Machine.execFwVerify a0 a1 a2) := by
  unfold Sys2Proof.Machine.execFwVerify
  intro v0 v1 v2 v3
  refine ans_next ?_
  refine kept_mboxRun (hF.sub rfl) _ _ _ _ _ _ _ ?_ ?_
  · with_reducible assumption
  · intro v7
    split
    · refine kept_mboxReply (hF.sub rfl) _ _ _ _ _ _ _ _ _ ?_
      with_reducible assumption
    · refine kept_startOp (hF.sub rfl) _ _ _ _ ?_
      with_reducible assumption
theorem kept_execFwActivate (hF : Sub 4294967308 F) : ∀ a0 a1 a2, Kept F z a2 → (OnNext (Kept F z)) (Sys2Proof.Machine.execFwActivate a0 a1 a2) := by
  unfold Sys2Proof.Machine.execFwActivate
  intro v0 v1 v2 v3
  refine ans_next ?_
  refine kept_mboxRun (hF.sub rfl) _ _ _ _ _ _ _ ?_ ?_
  · with_reducible assumption
  · intro v7
    extract_lets +onlyGivenNames l8_0
    clear_value l8_0
    split
    · refine kept_mboxReply (hF.sub rfl) _ _ _ _ _ _ _ _ _ ?_
      with_reducible assumption
    · refine kept_startOp (hF.sub rfl) _ _ _ _ ?_
      with_reducible assumption
theorem kept_execFwPersist (hF : Sub 4294967308 F) : ∀ a0 a1 a2, Kept F z a2 → (OnNext (Kept F z)) (Sys2Proof.Machine.execFwPersist a0 a1 a2) := by
  unfold Sys2Proof.Machine.execFwPersist
  intro v0 v1 v2 v3
  refine ans_next ?_
  refine kept_mboxRun (hF.sub rfl) _ _ _ _ _ _ _ ?_ ?_
  · with_reducible assumption
  · intro v7
    split
    · refine kept_mboxReply (hF.sub rfl) _ _ _ _ _ _ _ _ _ ?_
      with_reducible assumption
    · extract_lets +onlyGivenNames l11_0 l11_1 l11_2
      clear_value l11_0 l11_1
      refine (fun (el11_2 : (Kept F z) l11_2) => ?_) ?_
      rotate_left
      · refine kept_startOp (hF.sub rfl) _ _ _ _ ?_
        with_reducible assumption
      clear_value l11_2
      split
      · refine kept_mk ?_
        with_reducible assumption
      · with_reducible assumption
theorem kept_execFwStatus (hF : Sub 12 F) : ∀ a0 a1 a2, Kept F z a2 → (OnNext (Kept F z)) (Sys2Proof.Machine.execFwStatus a0 a1 a2) := by
  unfold Sys2Proof.Machine.execFwStatus
  intro v0 v1 v2 v3
  refine ans_next ?_
  refine kept_mboxRun (hF.sub rfl) _ _ _ _ _ _ _ ?_ ?_
  · with_reducible assumption
  · intro v7
    extract_lets +onlyGivenNames l8_0
    clear_value l8_0
    refine kept_mboxReply (hF.sub rfl) _ _ _ _ _ _ _ _ _ ?_
    with_reducible assumption
theorem kept_execRollbackAdvance (hF : Sub 4294967308 F) : ∀ a0 a1 a2, Kept F z a2 → (OnNext (Kept F z)) (Sys2Proof.Machine.execRollbackAdvance a0 a1 a2) := by
  unfold Sys2Proof.Machine.execRollbackAdvance
  intro v0 v1 v2 v3
  refine ans_next ?_
  refine kept_mboxRun (hF.sub rfl) _ _ _ _ _ _ _ ?_ ?_
  · with_reducible assumption
  · intro v7
    refine kept_startOp (hF.sub rfl) _ _ _ _ ?_
    with_reducible assumption
theorem kept_execFwVerifyDone (hF : Sub 4294969372 F) : ∀ a0 a1, Kept F z a1 → (OnNext (Kept F z)) (Sys2Proof.Machine.execFwVerifyDone a0 a1) := by
  unfold Sys2Proof.Machine.execFwVerifyDone
  intro v0 v1 v2
  split
  · refine ans_next ?_
    with_reducible assumption
  · split
    · refine ans_next ?_
      with_reducible assumption
    · extract_lets +onlyGivenNames l9_0 l9_1
      refine (fun (el9_0 : (Kept F z) l9_0) => ?_) ?_
      rotate_left
      · refine foldl_kept (P := (Kept F z)) ?_ ?_
        · with_reducible assumption
        · intro v12 v13 v14
          extract_lets +onlyGivenNames l15_0
          clear_value l15_0
          split
          · refine kept_modStaging (hF.sub rfl) _ _ _ ?_
            with_reducible assumption
          · refine kept_modStaging (hF.sub rfl) _ _ _ ?_
            with_reducible assumption
      clear_value l9_0 l9_1
      split
      split
      refine ans_next ?_
      refine kept_endOp (hF.sub rfl) _ _ _ _ _ ?_
      refine snd_eq (by assumption) (?_ : OnSnd (Kept F z) (Sys2Proof.draw _))
      refine kept_draw (hF.sub rfl) _ ?_
      with_reducible assumption
theorem kept_modProc (hF : Sub 4294967296 F) : ∀ a0 a1 a2, Kept F z a0 → (Kept F z) (Sys2Proof.modProc a0 a1 a2) := by
  unfold Sys2Proof.modProc
  intro v0 v1 v2 v3
  refine kept_mk ?_
  with_reducible assumption
theorem kept_execFwActivateStep (hF : Sub 12884903961 F) : ∀ a0 a1, Kept F z a1 → (OnNext (Kept F z)) (Sys2Proof.Machine.execFwActivateStep a0 a1) := by
  unfold Sys2Proof.Machine.execFwActivateStep
  intro v0 v1 v2
  split
  · refine ans_next ?_
    with_reducible assumption
  · split
    · refine ans_next ?_
      with_reducible assumption
    · split
      · refine ans_next ?_
        refine kept_endOp (hF.sub rfl) _ _ _ _ _ ?_
        refine kept_atTime (hF.sub rfl) _ _ ?_
        with_reducible assumption
      · split
        · refine ans_next ?_
          refine kept_endOp (hF.sub rfl) _ _ _ _ _ ?_
          refine kept_atTime (hF.sub rfl) _ _ ?_
          with_reducible assumption
        · extract_lets +onlyGivenNames l19_0
          clear_value l19_0
          split
          · split
            · refine ans_next ?_
              with_reducible assumption
            · extract_lets +onlyGivenNames l24_0 l24_1 l24_2 l24_3 l24_4
              refine (fun (el24_0 : (Kept F z) l24_0) => ?_) ?_
              rotate_left
              · refine kept_atTime (hF.sub rfl) _ _ ?_
                with_reducible assumption
              clear_value l24_0 l24_1
              refine (fun (el24_2 : (Kept F z) l24_2) => ?_) ?_
              rotate_left
              · refine kept_modProc (hF.sub rfl) _ _ _ ?_
                with_reducible assumption
              clear_value l24_2
              refine (fun (el24_3 : (Kept F z) l24_3) => ?_) ?_
              rotate_left
              · dsimp -zeta only [l24_3]
                split
                · refine kept_newAlias (hF.sub rfl) _ ?_
                  with_reducible assumption
                · with_reducible assumption
              clear_value l24_3 l24_4
              split
              · refine ans_next ?_
                refine kept_endOp (hF.sub rfl) _ _ _ _ _ ?_
                with_reducible assumption
              · refine ans_next ?_
                refine kept_mk ?_
                with_reducible assumption
          · split
            · refine ans_next ?_
              with_reducible assumption
            · split
              · refine ans_next ?_
                refine kept_mk ?_
                with_reducible assumption
              · extract_lets +onlyGivenNames l48_0
                refine (fun (el48_0 : (Kept F z) l48_0) => ?_) ?_
                rotate_left
                · refine kept_atTime (hF.sub rfl) _ _ ?_
                  with_reducible assumption
                clear_value l48_0
                refine ans_next ?_
                refine kept_modProc (hF.sub rfl) _ _ _ ?_
                with_reducible assumption
theorem kept_execFwPauseTimeout (hF : Sub 4294969369 F) : ∀ a0 a1, Kept F z a1 → (OnNext (Kept F z)) (Sys2Proof.Machine.execFwPauseTimeout a0 a1) := by
  unfold Sys2Proof.Machine.execFwPauseTimeout
  intro v0 v1 v2
  split
  · refine ans_next ?_
    with_reducible assumption
  · split
    · refine ans_next ?_
      with_reducible assumption
    · split
      · refine ans_next ?_
        with_reducible assumption
      · split
        · refine ans_next ?_
          with_reducible assumption
        · extract_lets +onlyGivenNames l15_0 l15_1
          refine (fun (el15_0 : (Kept F z) l15_0) => ?_) ?_
          rotate_left
          · refine kept_modProc (hF.sub rfl) _ _ _ ?_
            refine kept_atTime (hF.sub rfl) _ _ ?_
            with_reducible assumption
          clear_value l15_0
          refine (fun (el15_1 : (Kept F z) l15_1) => ?_) ?_
          rotate_left
          · refine foldl_kept (P := (Kept F z)) ?_ ?_
            · with_reducible assumption
            · intro v21 v22 v23
              refine kept_modProc (hF.sub rfl) _ _ _ ?_
              with_reducible assumption
          clear_value l15_1
          refine ans_next ?_
          refine kept_endOp (hF.sub rfl) _ _ _ _ _ ?_
          with_reducible assumption
theorem kept_yieldBelfry (hF : Sub 4294969368 F) : ∀ a0, Kept F z a0 → (Kept F z) (Sys2Proof.yieldBelfry a0) := by
  unfold Sys2Proof.yieldBelfry
  intro v0 v1
  split
  · with_reducible assumption
  · split
    · refine kept_endOp (hF.sub rfl) _ _ _ _ _ ?_
      refine kept_mk ?_
      with_reducible assumption
    · with_reducible assumption
theorem kept_execFwPersistDone (hF : Sub 4294969372 F) : ∀ a0, Kept F z a0 → (OnNext (Kept F z)) (Sys2Proof.Machine.execFwPersistDone a0) := by
  unfold Sys2Proof.Machine.execFwPersistDone
  intro v0 v1
  split
  · refine ans_next ?_
    with_reducible assumption
  · split
    · refine ans_next ?_
      with_reducible assumption
    · split
      · refine ans_next ?_
        refine kept_endOp (hF.sub rfl) _ _ _ _ _ ?_
        with_reducible assumption
      · extract_lets +onlyGivenNames l12_0 l12_1
        clear_value l12_0 l12_1
        split
        extract_lets +onlyGivenNames l14_0
        clear_value l14_0
        extract_lets +onlyGivenNames l15_0
        refine (fun (el15_0 : (Kept F z) l15_0) => ?_) ?_
        rotate_left
        · refine kept_mk ?_
          refine snd_eq (by assumption) (?_ : OnSnd (Kept F z) (Sys2Proof.draw _))
          refine kept_draw (hF.sub rfl) _ ?_
          with_reducible assumption
        clear_value l15_0
        refine ans_next ?_
        refine kept_endOp (hF.sub rfl) _ _ _ _ _ ?_
        with_reducible assumption
theorem testBit_burnTo {a n k : Nat} (h : a.testBit k = true) : (burnTo a n).testBit k = true := testBit_or_left h
theorem kept_execRollbackBurnDone (hF : Sub 81604380700 F) : ∀ a0, Kept F z a0 → (OnNext (Kept F z)) (Sys2Proof.Machine.execRollbackBurnDone a0) := by
  intro a0 h
  unfold Machine.execRollbackBurnDone
  split
  · exact h
  · split
    · exact h
    · extract_lets +onlyGivenNames a b f ua ub
      have hd : Kept F z (draw a0).2 := kept_draw (hF.sub rfl) _ h
      have hf0 : (draw a0).2.boot.fuses = f := rfl
      generalize hx : draw a0 = x at *
      obtain ⟨v, s⟩ := x
      dsimp -zeta only at hd hf0 ⊢
      split
      · exact kept_endOp (hF.sub rfl) _ _ _ _ _ hd
      · extract_lets +onlyGivenNames f'
        have hk : FusesKept s.boot.fuses f' := by
          rw [hf0]
          refine ⟨rfl, rfl, rfl, rfl, fun _ _ h => h, fun _ h => h, fun _ h => h, ?_, ?_, fun _ _ h _ => h⟩
          · intro k hk; show (if ua = true then _ else _ : Nat).testBit k = true; split; exact testBit_burnTo hk; exact hk
          · intro k hk; show (if ub = true then _ else _ : Nat).testBit k = true; split; exact testBit_burnTo hk; exact hk
        clear_value f'
        refine ans_next ?_
        refine kept_endOp (hF.sub rfl) _ _ _ _ _ ?_
        refine kept_newAlias (hF.sub rfl) _ ?_
        exact kept_mk (x := s) hd (hf := .inr hk)
theorem kept_stopCarillon (hF : Sub 47186443260 F) : ∀ a0 a1, Kept F z a0 → (Kept F z) (Sys2Proof.stopCarillon a0 a1) := by
  unfold Sys2Proof.stopCarillon
  intro v0 v1 v2
  extract_lets +onlyGivenNames l3_0 l3_1
  refine (fun (el3_0 : (Kept F z) l3_0) => ?_) ?_
  rotate_left
  · refine foldl_kept (P := (Kept F z)) ?_ ?_
    · with_reducible assumption
    · intro v6 v7 v8
      refine kept_homeFail (hF.sub rfl) _ _ _ _ _ ?_
      with_reducible assumption
  clear_value l3_0
  refine (fun (el3_1 : (Kept F z) l3_1) => ?_) ?_
  rotate_left
  · refine foldl_kept (P := (Kept F z)) ?_ ?_
    · with_reducible assumption
    · intro v13 v14 v15
      split
      · refine kept_memberReply (hF.sub rfl) _ _ _ _ _ _ ?_
        with_reducible assumption
      · with_reducible assumption
  clear_value l3_1
  refine foldl_kept (P := (Kept F z)) ?_ ?_
  · with_reducible assumption
  · intro v22 v23 v24
    split
    · refine kept_stopDesc (hF.sub rfl) _ _ _ _ ?_
      with_reducible assumption
    · with_reducible assumption
theorem kept_execWatchdogExpire (hF : Sub 68661279741 F) : ∀ a0 a1 a2, Kept F z a2 → (OnNext (Kept F z)) (Sys2Proof.Machine.execWatchdogExpire a0 a1 a2) := by
  unfold Sys2Proof.Machine.execWatchdogExpire
  intro v0 v1 v2 v3
  extract_lets +onlyGivenNames l4_0
  clear_value l4_0
  split
  · refine ans_next ?_
    with_reducible assumption
  · extract_lets +onlyGivenNames l8_0 l8_1 l8_2 l8_3 l8_4 l8_5 l8_6 l8_7 l8_8
    refine (fun (el8_0 : (Kept F z) l8_0) => ?_) ?_
    rotate_left
    · refine kept_atTime (hF.sub rfl) _ _ ?_
      with_reducible assumption
    clear_value l8_0 l8_1 l8_2 l8_3
    refine (fun (el8_4 : (Kept F z) l8_4) => ?_) ?_
    rotate_left
    · refine kept_logError (hF.sub rfl) _ _ _ _ _ _ ?_
      with_reducible assumption
    clear_value l8_4
    refine (fun (el8_5 : (Kept F z) l8_5) => ?_) ?_
    rotate_left
    · refine kept_modProc (hF.sub rfl) _ _ _ ?_
      with_reducible assumption
    clear_value l8_5
    refine (fun (el8_7 : (Kept F z) l8_7) => ?_) ?_
    rotate_left
    · dsimp -zeta only [l8_7]
      split
      · refine kept_mk ?_
        with_reducible assumption
      · with_reducible assumption
    clear_value l8_7
    refine (fun (el8_8 : (Kept F z) l8_8) => ?_) ?_
    rotate_left
    · refine kept_postFm (hF.sub rfl) _ _ _ _ _ _ _ ?_
      with_reducible assumption
    clear_value l8_8
    extract_lets +onlyGivenNames l22_0
    refine (fun (el22_0 : (Kept F z) l22_0) => ?_) ?_
    rotate_left
    · dsimp -zeta only [l22_0]
      split
      · refine kept_postFm (hF.sub rfl) _ _ _ _ _ _ _ ?_
        with_reducible assumption
      · with_reducible assumption
    clear_value l22_0
    refine ans_next ?_
    split
    · refine kept_stopCarillon (hF.sub rfl) _ _ ?_
      with_reducible assumption
    · with_reducible assumption
theorem kept_execProcessorRestartDone (hF : Sub 21474836480 F) : ∀ a0 a1, Kept F z a1 → (OnNext (Kept F z)) (Sys2Proof.Machine.execProcessorRestartDone a0 a1) := by
  unfold Sys2Proof.Machine.execProcessorRestartDone
  intro v0 v1 v2
  split
  · refine ans_next ?_
    with_reducible assumption
  · extract_lets +onlyGivenNames l6_0
    refine (fun (el6_0 : (Kept F z) l6_0) => ?_) ?_
    rotate_left
    · refine kept_modProc (hF.sub rfl) _ _ _ ?_
      with_reducible assumption
    clear_value l6_0
    refine ans_next ?_
    split
    · refine kept_mk ?_
      with_reducible assumption
    · with_reducible assumption
theorem kept_flushHeld (hF : Sub 2072 F) : ∀ a0 a1 a2, Kept F z a0 → (Kept F z) (Sys2Proof.flushHeld a0 a1 a2) := by
  unfold Sys2Proof.flushHeld
  intro v0 v1 v2 v3
  extract_lets +onlyGivenNames l4_0 l4_1
  clear_value l4_0
  refine (fun (el4_1 : (Kept F z) l4_1) => ?_) ?_
  rotate_left
  · refine kept_modRing (hF.sub rfl) _ _ _ _ ?_
    with_reducible assumption
  clear_value l4_1
  split
  · refine foldl_kept (P := (Kept F z)) ?_ ?_
    · with_reducible assumption
    · intro v10 v11 v12
      split
      · refine kept_ringError (hF.sub rfl) _ _ _ _ ?_
        with_reducible assumption
      · refine kept_chimeRecord (hF.sub rfl) _ _ _ _ _ ?_
        with_reducible assumption
  · refine foldl_kept (P := (Kept F z)) ?_ ?_
    · with_reducible assumption
    · intro v20 v21 v22
      split
      · refine kept_ringError (hF.sub rfl) _ _ _ _ ?_
        with_reducible assumption
      · refine kept_writeRecord (hF.sub rfl) _ _ _ _ ?_
        with_reducible assumption
theorem kept_unorphan (hF : Sub 2072 F) : ∀ a0 a1 a2, Kept F z a0 → (Kept F z) (Sys2Proof.unorphan a0 a1 a2) := by
  unfold Sys2Proof.unorphan
  intro v0 v1 v2 v3
  extract_lets +onlyGivenNames l4_0
  refine (fun (el4_0 : (Kept F z) l4_0) => ?_) ?_
  rotate_left
  · refine kept_modRing (hF.sub rfl) _ _ _ _ ?_
    with_reducible assumption
  clear_value l4_0
  refine kept_flushHeld (hF.sub rfl) _ _ _ ?_
  with_reducible assumption
theorem kept_execHeartbeatRead (hF : Sub 47186443261 F) : ∀ a0 a1 a2 a3 a4, Kept F z a4 → (OnNext (Kept F z)) (Sys2Proof.Machine.execHeartbeatRead a0 a1 a2 a3 a4) := by
  unfold Sys2Proof.Machine.execHeartbeatRead
  intro v0 v1 v2 v3 v4 v5
  extract_lets +onlyGivenNames l6_0 l6_1
  refine (fun (el6_0 : (Kept F z) l6_0) => ?_) ?_
  rotate_left
  · refine kept_mk ?_
    with_reducible assumption
  clear_value l6_0 l6_1
  split
  · refine ans_next ?_
    with_reducible assumption
  · split
    · refine ans_next ?_
      with_reducible assumption
    · extract_lets +onlyGivenNames l15_0 l15_1 l15_2 l15_3
      refine (fun (el15_0 : (Kept F z) l15_0) => ?_) ?_
      rotate_left
      · refine kept_atTime (hF.sub rfl) _ _ ?_
        with_reducible assumption
      clear_value l15_0 l15_1 l15_2
      refine (fun (el15_3 : (Kept F z) l15_3) => ?_) ?_
      rotate_left
      · refine kept_modOwner (hF.sub rfl) _ _ _ ?_
        with_reducible assumption
      clear_value l15_3
      split
      · split
        · refine ans_next ?_
          with_reducible assumption
        · extract_lets +onlyGivenNames l24_0 l24_1
          refine (fun (el24_0 : (Kept F z) l24_0) => ?_) ?_
          rotate_left
          · refine kept_modOwner (hF.sub rfl) _ _ _ ?_
            with_reducible assumption
          clear_value l24_0
          refine (fun (el24_1 : (Kept F z) l24_1) => ?_) ?_
          rotate_left
          · refine foldl_kept (P := (Kept F z)) ?_ ?_
            · with_reducible assumption
            · intro v29 v30 v31
              refine kept_unorphan (hF.sub rfl) _ _ _ ?_
              with_reducible assumption
          clear_value l24_1
          refine ans_next ?_
          refine kept_pumpOwner (hF.sub rfl) _ _ _ ?_
          with_reducible assumption
      · split
        · refine ans_next ?_
          with_reducible assumption
        · extract_lets +onlyGivenNames l40_0 l40_1 l40_2
          clear_value l40_0
          refine (fun (el40_1 : (Kept F z) l40_1) => ?_) ?_
          rotate_left
          · refine foldl_kept (P := (Kept F z)) ?_ ?_
            · refine kept_modOwner (hF.sub rfl) _ _ _ ?_
              with_reducible assumption
            · intro v44 v45 v46
              refine kept_modRing (hF.sub rfl) _ _ _ _ ?_
              with_reducible assumption
          clear_value l40_1
          refine (fun (el40_2 : (Kept F z) l40_2) => ?_) ?_
          rotate_left
          · refine kept_postFm (hF.sub rfl) _ _ _ _ _ _ _ ?_
            with_reducible assumption
          clear_value l40_2
          split
          · refine ans_next ?_
            refine kept_drainQps (hF.sub rfl) _ _ ?_
            with_reducible assumption
          · refine ans_next ?_
            with_reducible assumption

end Sys2Proof.Laws
end

