-- ==== Sys2Proof/Laws/KeptFlash.lean ====
section
/-!
SUPPORT. What the definitions of sweeps, folds, the flash tier and partitions keep (Laws/Kept.lean).
-/
namespace Sys2Proof.Laws

set_option maxRecDepth 4000

set_option Elab.async false

open Sys2Proof.Machine (State Fault Refusal)

variable {z : State} {F : Nat}

/-! ### Sweep -/

theorem kept_attendRun (hF : Sub 16384 F) : ∀ a0 a1, Kept F z a1 → (Kept F z) (Sys2Proof.attendRun a0 a1) := by
  unfold Sys2Proof.attendRun
  intro v0 v1 v2
  extract_lets +onlyGivenNames l3_0 l3_1 l3_2
  clear_value l3_0 l3_1 l3_2
  split
  · refine kept_endDesc (hF.sub rfl) _ _ _ ?_
    with_reducible assumption
  · split
    · refine kept_endDesc (hF.sub rfl) _ _ _ ?_
      with_reducible assumption
    · split
      · refine kept_endDesc (hF.sub rfl) _ _ _ ?_
        with_reducible assumption
      · split
        · refine kept_endDesc (hF.sub rfl) _ _ _ ?_
          with_reducible assumption
        · split
          · refine kept_endDesc (hF.sub rfl) _ _ _ ?_
            with_reducible assumption
          · split
            · refine kept_endDesc (hF.sub rfl) _ _ _ ?_
              with_reducible assumption
            · split
              · refine kept_endDesc (hF.sub rfl) _ _ _ ?_
                with_reducible assumption
              · extract_lets +onlyGivenNames l25_0
                clear_value l25_0
                split
                · refine kept_endDesc (hF.sub rfl) _ _ _ ?_
                  with_reducible assumption
                · split
                  · refine kept_endDesc (hF.sub rfl) _ _ _ ?_
                    with_reducible assumption
                  · split
                    · refine kept_endDesc (hF.sub rfl) _ _ _ ?_
                      with_reducible assumption
                    · extract_lets +onlyGivenNames l35_0
                      clear_value l35_0
                      split
                      · refine kept_endDesc (hF.sub rfl) _ _ _ ?_
                        with_reducible assumption
                      · refine kept_endDesc (hF.sub rfl) _ _ _ ?_
                        with_reducible assumption
                      · refine kept_endDesc (hF.sub rfl) _ _ _ ?_
                        with_reducible assumption
                      · split
                        · refine kept_endDesc (hF.sub rfl) _ _ _ ?_
                          with_reducible assumption
                        · split
                          refine kept_putDesc (hF.sub rfl) _ _ ?_
                          with_reducible assumption
theorem kept_execAttend (hF : Sub 16384 F) : ∀ a0 a1 a2, Kept F z a2 → (OnNext (Kept F z)) (Sys2Proof.Machine.execAttend a0 a1 a2) := by
  unfold Sys2Proof.Machine.execAttend
  intro v0 v1 v2 v3
  split
  · split
    · refine ans_next ?_
      refine kept_attendRun (hF.sub rfl) _ _ ?_
      with_reducible assumption
    · refine ans_next ?_
      with_reducible assumption
  · refine ans_next ?_
    with_reducible assumption
theorem kept_finishFold (hF : Sub 82932 F) : ∀ a0 a1, Kept F z a0 → (Kept F z) (Sys2Proof.finishFold a0 a1) := by
  unfold Sys2Proof.finishFold
  intro v0 v1 v2
  extract_lets +onlyGivenNames l3_0 l3_1 l3_2 l3_3 l3_4 l3_5
  clear_value l3_0 l3_1 l3_2 l3_3 l3_4 l3_5
  split
  extract_lets +onlyGivenNames l5_0
  clear_value l5_0
  split
  split
  split
  · refine kept_endDesc (hF.sub rfl) _ _ _ ?_
    refine fst_eq (by assumption) (?_ : OnFst (Kept F z) (Sys2Proof.dropPins _ _))
    refine kept_dropPins (hF.sub rfl) _ _ ?_
    refine snd_eq (by assumption) (?_ : OnSnd (Kept F z) (Sys2Proof.partialsOf _ _ _ _))
    refine kept_partialsOf (hF.sub rfl) _ _ _ _ ?_
    with_reducible assumption
  · split
    extract_lets +onlyGivenNames l16_0
    clear_value l16_0
    split
    refine kept_putDesc (hF.sub rfl) _ _ ?_
    refine exc_ok_eq (by assumption) (?_ : OnResult Always (Kept F z) (Sys2Proof.writeOut _ _ _ _ _))
    refine kept_writeOut (hF.sub rfl) _ _ _ _ _ ?_
    refine fst_eq (by assumption) (?_ : OnFst (Kept F z) (Sys2Proof.dropPins _ _))
    refine kept_dropPins (hF.sub rfl) _ _ ?_
    refine snd_eq (by assumption) (?_ : OnSnd (Kept F z) (Sys2Proof.partialsOf _ _ _ _))
    refine kept_partialsOf (hF.sub rfl) _ _ _ _ ?_
    with_reducible assumption
theorem kept_walkRun (hF : Sub 19327435772 F) : ∀ a0 a1 a2, Kept F z a2 → (Kept F z) (Sys2Proof.walkRun a0 a1 a2) := by
  unfold Sys2Proof.walkRun
  intro v0 v1 v2 v3
  extract_lets +onlyGivenNames l4_0 l4_1 l4_2
  clear_value l4_0 l4_1 l4_2
  split
  · split
    · refine kept_failDesc (hF.sub rfl) _ _ _ _ _ _ ?_
      with_reducible assumption
    · refine kept_failDesc (hF.sub rfl) _ _ _ _ _ _ ?_
      with_reducible assumption
  · extract_lets +onlyGivenNames l11_0
    clear_value l11_0
    split
    · with_reducible assumption
    · extract_lets +onlyGivenNames l14_0 l14_1 l14_2 l14_3 l14_4 l14_5 l14_6 l14_7
      clear_value l14_0 l14_1 l14_2 l14_3 l14_4 l14_5 l14_6 l14_7
      extract_lets +onlyGivenNames l15_0
      clear_value l15_0
      split
      · refine kept_pageFail (hF.sub rfl) _ _ _ _ _ ?_
        with_reducible assumption
      · extract_lets +onlyGivenNames l19_0 l19_1
        clear_value l19_0 l19_1
        split
        · refine kept_pageFail (hF.sub rfl) _ _ _ _ _ ?_
          with_reducible assumption
        · split
          · refine kept_pageFail (hF.sub rfl) _ _ _ _ _ ?_
            with_reducible assumption
          · extract_lets +onlyGivenNames l26_0 l26_1 l26_2 l26_3
            clear_value l26_0 l26_1
            refine (fun (el26_2 : (Kept F z) l26_2) => ?_) ?_
            rotate_left
            · refine kept_takePins (hF.sub rfl) _ _ ?_
              refine kept_putDesc (hF.sub rfl) _ _ ?_
              with_reducible assumption
            clear_value l26_2
            refine (fun (el26_3 : (Kept F z) l26_3) => ?_) ?_
            rotate_left
            · refine foldl_kept (P := (Kept F z)) ?_ ?_
              · with_reducible assumption
              · intro v32 v33 v34
                split
                · refine kept_tierOp (hF.sub rfl) _ _ _ _ _ ?_
                  with_reducible assumption
                · with_reducible assumption
            clear_value l26_3
            split
            · refine kept_finishFold (hF.sub rfl) _ _ ?_
              with_reducible assumption
            · with_reducible assumption
theorem kept_walkFrom (hF : Sub 19360990204 F) : ∀ a0 a1 a2, Kept F z a2 → (Kept F z) (Sys2Proof.walkFrom a0 a1 a2) := by
  unfold Sys2Proof.walkFrom
  intro v0 v1 v2 v3
  extract_lets +onlyGivenNames l4_0
  clear_value l4_0
  extract_lets +onlyGivenNames l5_0
  refine (fun (el5_0 : (Kept F z) l5_0) => ?_) ?_
  rotate_left
  · refine kept_mk ?_
    with_reducible assumption
  clear_value l5_0
  split
  · with_reducible assumption
  · split
    extract_lets +onlyGivenNames l11_0 l11_1
    clear_value l11_0
    refine (fun (el11_1 : (Kept F z) l11_1) => ?_) ?_
    rotate_left
    · refine kept_walkRun (hF.sub rfl) _ _ _ ?_
      refine kept_mk ?_
      refine snd_eq (by assumption) (?_ : OnSnd (Kept F z) (Sys2Proof.draw _))
      refine kept_draw (hF.sub rfl) _ ?_
      with_reducible assumption
    clear_value l11_1
    extract_lets +onlyGivenNames l17_0
    clear_value l17_0
    refine kept_mk ?_
    with_reducible assumption
theorem kept_execWalkStart (hF : Sub 19360990205 F) : ∀ a0 a1 a2 a3, Kept F z a3 → (OnNext (Kept F z)) (Sys2Proof.Machine.execWalkStart a0 a1 a2 a3) := by
  unfold Sys2Proof.Machine.execWalkStart
  intro v0 v1 v2 v3 v4
  split
  · extract_lets +onlyGivenNames l6_0
    clear_value l6_0
    split
    · split
      · refine ans_next ?_
        refine kept_walkFrom (hF.sub rfl) _ _ _ ?_
        refine kept_atTime (hF.sub rfl) _ _ ?_
        with_reducible assumption
      · refine ans_next ?_
        with_reducible assumption
    · refine ans_next ?_
      with_reducible assumption
  · refine ans_next ?_
    with_reducible assumption
theorem kept_sweepWindowAt (hF : Sub 1572864 F) : ∀ a0, Kept F z a0 → (Kept F z) (Sys2Proof.sweepWindowAt a0) := by
  unfold Sys2Proof.sweepWindowAt
  intro v0 v1
  split
  · with_reducible assumption
  · refine kept_mk ?_
    with_reducible assumption
theorem kept_handOver (hF : Sub 278528 F) : ∀ a0 a1, Kept F z a0 → (Kept F z) (Sys2Proof.handOver a0 a1) := by
  unfold Sys2Proof.handOver
  intro v0 v1 v2
  extract_lets +onlyGivenNames l3_0 l3_1
  clear_value l3_0
  refine (fun (el3_1 : (Kept F z) l3_1) => ?_) ?_
  rotate_left
  · dsimp -zeta only [l3_1]
    split
    · refine kept_putDesc (hF.sub rfl) _ _ ?_
      with_reducible assumption
    · with_reducible assumption
  clear_value l3_1
  refine kept_modUnit (hF.sub rfl) _ _ _ ?_
  with_reducible assumption
theorem kept_takeUp (hF : Sub 278528 F) : ∀ a0 a1 a2, Kept F z a0 → (Kept F z) (Sys2Proof.takeUp a0 a1 a2) := by
  unfold Sys2Proof.takeUp
  intro v0 v1 v2 v3
  split
  · with_reducible assumption
  · refine kept_modUnit (hF.sub rfl) _ _ _ ?_
    refine kept_handOver (hF.sub rfl) _ _ ?_
    with_reducible assumption
theorem kept_accumulate (hF : Sub 4 F) : ∀ a0 a1 a2 a3 a4 a5, Kept F z a5 → (OnSnd (Kept F z)) (Sys2Proof.accumulate a0 a1 a2 a3 a4 a5) := by
  intro a0 a1 a2 a3 a4
  induction a4 generalizing a3 with
  | nil => intro a5 h; exact h
  | cons c r ih =>
    intro a5 h
    unfold accumulate
    extract_lets +onlyGivenNames l0_0 l0_1
    clear_value l0_0 l0_1
    split
    split
    refine snd_mk ?_
    refine snd_eq (by assumption) (?_ : OnSnd (Kept F z) (Sys2Proof.accumulate _ _ _ _ _ _))
    refine ih _ _ ?_
    refine snd_eq (by assumption) (?_ : OnSnd (Kept F z) _)
    split
    · refine snd_mk ?_
      with_reducible assumption
    · refine kept_attnPartial (hF.sub rfl) _ _ _ _ _ ?_
      with_reducible assumption
theorem kept_execChunkStart (hF : Sub 53689008129 F) : ∀ a0 a1 a2, Kept F z a2 → (OnNext (Kept F z)) (Sys2Proof.Machine.execChunkStart a0 a1 a2) := by
  unfold Sys2Proof.Machine.execChunkStart
  intro v0 v1 v2 v3
  extract_lets +onlyGivenNames l4_0
  clear_value l4_0
  split
  · refine ans_next ?_
    with_reducible assumption
  · split
    · refine ans_next ?_
      with_reducible assumption
    · split
      · refine ans_next ?_
        with_reducible assumption
      · refine ans_next ?_
        refine kept_withDoms (hF.sub rfl) _ _ _ ?_ ?_
        · refine kept_atTime (hF.sub rfl) _ _ ?_
          with_reducible assumption
        · intro v18 v19
          extract_lets +onlyGivenNames l20_0
          refine (fun (el20_0 : (Kept F z) l20_0) => ?_) ?_
          rotate_left
          · refine kept_sweepWindowAt (hF.sub rfl) _ ?_
            with_reducible assumption
          clear_value l20_0
          split
          extract_lets +onlyGivenNames l24_0 l24_1
          clear_value l24_0 l24_1
          split
          · refine kept_failDesc (hF.sub rfl) _ _ _ _ _ _ ?_
            refine kept_logError (hF.sub rfl) _ _ _ _ _ _ ?_
            with_reducible assumption
          · extract_lets +onlyGivenNames l29_0
            clear_value l29_0
            split
            extract_lets +onlyGivenNames l31_0
            clear_value l31_0
            split
            extract_lets +onlyGivenNames l33_0 l33_1 l33_2 l33_3
            clear_value l33_0 l33_1 l33_2 l33_3
            split
            · with_reducible assumption
            · extract_lets +onlyGivenNames l36_0 l36_1 l36_2
              clear_value l36_0 l36_1 l36_2
              refine kept_modUnit (hF.sub rfl) _ _ _ ?_
              extract_lets +onlyGivenNames l38_0
              refine (fun (el38_0 : (Kept F z) l38_0) => ?_) ?_
              rotate_left
              · refine kept_takeUp (hF.sub rfl) _ _ _ ?_
                refine kept_putDesc (hF.sub rfl) _ _ ?_
                with_reducible assumption
              clear_value l38_0
              refine kept_mk ?_
              with_reducible assumption
theorem kept_execChunkEnd (hF : Sub 54761213373 F) : ∀ a0 a1 a2 a3 a4, Kept F z a4 → (OnNext (Kept F z)) (Sys2Proof.Machine.execChunkEnd a0 a1 a2 a3 a4) := by
  unfold Sys2Proof.Machine.execChunkEnd
  intro v0 v1 v2 v3 v4 v5
  split
  · refine ans_next ?_
    with_reducible assumption
  · extract_lets +onlyGivenNames l9_0 l9_1 l9_2 l9_3
    refine (fun (el9_0 : (Kept F z) l9_0) => ?_) ?_
    rotate_left
    · refine kept_atTime (hF.sub rfl) _ _ ?_
      with_reducible assumption
    clear_value l9_0 l9_1
    refine (fun (el9_2 : (Kept F z) l9_2) => ?_) ?_
    rotate_left
    · refine kept_modUnit (hF.sub rfl) _ _ _ ?_
      with_reducible assumption
    clear_value l9_2
    refine (fun (el9_3 : (Kept F z) l9_3) => ?_) ?_
    rotate_left
    · refine kept_releaseAll (hF.sub rfl) _ ?_
      with_reducible assumption
    clear_value l9_3
    split
    · refine ans_next ?_
      with_reducible assumption
    · split
      · refine ans_next ?_
        with_reducible assumption
      · split
        · refine ans_next ?_
          with_reducible assumption
        · extract_lets +onlyGivenNames l25_0 l25_1 l25_2
          clear_value l25_0 l25_1 l25_2
          split
          · split
            extract_lets +onlyGivenNames l28_0 l28_1 l28_2
            clear_value l28_0
            refine (fun (el28_1 : (Kept F z) l28_1) => ?_) ?_
            rotate_left
            · refine kept_logError (hF.sub rfl) _ _ _ _ _ _ ?_
              with_reducible assumption
            clear_value l28_1
            refine (fun (el28_2 : (Kept F z) l28_2) => ?_) ?_
            rotate_left
            · refine kept_modUnit (hF.sub rfl) _ _ _ ?_
              with_reducible assumption
            clear_value l28_2
            refine ans_next ?_
            refine kept_unitFault (hF.sub rfl) _ _ _ ?_
            refine kept_pageFail (hF.sub rfl) _ _ _ _ _ ?_
            with_reducible assumption
          · extract_lets +onlyGivenNames l37_0
            refine (fun (el37_0 : (Kept F z) l37_0) => ?_) ?_
            rotate_left
            · dsimp -zeta only [l37_0]
              split
              · refine kept_count (hF.sub rfl) _ _ _ _ ?_
                with_reducible assumption
              · with_reducible assumption
            clear_value l37_0
            split
            extract_lets +onlyGivenNames l44_0 l44_1 l44_2 l44_3
            clear_value l44_0 l44_1 l44_2 l44_3
            split
            refine ans_next ?_
            refine kept_putDesc (hF.sub rfl) _ _ ?_
            refine kept_modUnit (hF.sub rfl) _ _ _ ?_
            refine snd_eq (by assumption) (?_ : OnSnd (Kept F z) (Sys2Proof.accumulate _ _ _ _ _ _))
            refine kept_accumulate (hF.sub rfl) _ _ _ _ _ _ ?_
            refine snd_eq (by assumption) (?_ : OnSnd (Kept F z) (Sys2Proof.draw _))
            refine kept_draw (hF.sub rfl) _ ?_
            with_reducible assumption
theorem kept_execRefreshDue (hF : Sub 262144 F) : ∀ a0 a1, Kept F z a1 → (OnNext (Kept F z)) (Sys2Proof.Machine.execRefreshDue a0 a1) := by
  unfold Sys2Proof.Machine.execRefreshDue
  intro v0 v1 v2
  split
  · refine ans_next ?_
    refine kept_modUnit (hF.sub rfl) _ _ _ ?_
    with_reducible assumption
  · refine ans_next ?_
    with_reducible assumption
theorem kept_hubPartial (hF : Sub 4 F) : ∀ a0 a1 a2 a3, Kept F z a0 → (OnSnd (Kept F z)) (Sys2Proof.hubPartial a0 a1 a2 a3) := by
  unfold Sys2Proof.hubPartial
  intro v0 v1 v2 v3 v4
  extract_lets +onlyGivenNames l5_0 l5_1 l5_2
  clear_value l5_0 l5_1 l5_2
  split
  extract_lets +onlyGivenNames l7_0
  clear_value l7_0
  refine kept_mergePartials (hF.sub rfl) _ _ _ _ ?_
  refine snd_eq (by assumption) (?_ : OnSnd (Kept F z) (Sys2Proof.attnPartial _ _ _ _ _))
  refine kept_attnPartial (hF.sub rfl) _ _ _ _ _ ?_
  with_reducible assumption
theorem kept_hubFold (hF : Sub 4 F) : ∀ a0 a1 a2 a3 a4, Kept F z a4 → (OnSnd (Kept F z)) (Sys2Proof.hubFold a0 a1 a2 a3 a4) := by
  intro a0 a1 a2 a3
  induction a3 generalizing a2 with
  | zero => intro a4 h; exact h
  | succ n ih =>
    intro a4 h
    unfold hubFold
    split
    split
    refine snd_mk ?_
    refine snd_eq (by assumption) (?_ : OnSnd (Kept F z) (Sys2Proof.hubFold _ _ _ _ _))
    refine ih _ _ ?_
    refine snd_eq (by assumption) (?_ : OnSnd (Kept F z) (Sys2Proof.hubPartial _ _ _ _))
    refine kept_hubPartial (hF.sub rfl) _ _ _ _ ?_
    with_reducible assumption
theorem kept_attendOut (hF : Sub 4 F) : ∀ a0 a1 a2, Kept F z a2 → (OnSnd (Kept F z)) (Sys2Proof.attendOut a0 a1 a2) := by
  intro a0 a1
  induction a1 with
  | nil => intro a2 h; exact h
  | cons c r ih =>
    intro a2 h
    unfold attendOut
    split
    split
    refine snd_mk ?_
    refine snd_eq (by assumption) (?_ : OnSnd (Kept F z) (Sys2Proof.attendOut _ _ _))
    refine ih _ ?_
    refine snd_eq (by assumption) (?_ : OnSnd (Kept F z) (Sys2Proof.partialOut _ _ _ _))
    refine kept_partialOut (hF.sub rfl) _ _ _ _ ?_
    with_reducible assumption
theorem kept_finishAttend (hF : Sub 82932 F) : ∀ a0 a1, Kept F z a0 → (Kept F z) (Sys2Proof.finishAttend a0 a1) := by
  unfold Sys2Proof.finishAttend
  intro v0 v1 v2
  split
  split
  split
  · refine kept_endDesc (hF.sub rfl) _ _ _ ?_
    refine fst_eq (by assumption) (?_ : OnFst (Kept F z) (Sys2Proof.dropPins _ _))
    refine kept_dropPins (hF.sub rfl) _ _ ?_
    refine snd_eq (by assumption) (?_ : OnSnd (Kept F z) (Sys2Proof.attendOut _ _ _))
    refine kept_attendOut (hF.sub rfl) _ _ _ ?_
    with_reducible assumption
  · split
    extract_lets +onlyGivenNames l13_0
    clear_value l13_0
    refine kept_putDesc (hF.sub rfl) _ _ ?_
    refine exc_ok_eq (by assumption) (?_ : OnResult Always (Kept F z) (Sys2Proof.writeOut _ _ _ _ _))
    refine kept_writeOut (hF.sub rfl) _ _ _ _ _ ?_
    refine fst_eq (by assumption) (?_ : OnFst (Kept F z) (Sys2Proof.dropPins _ _))
    refine kept_dropPins (hF.sub rfl) _ _ ?_
    refine snd_eq (by assumption) (?_ : OnSnd (Kept F z) (Sys2Proof.attendOut _ _ _))
    refine kept_attendOut (hF.sub rfl) _ _ _ ?_
    with_reducible assumption
theorem kept_gatherUnits (hF : Sub 278528 F) : ∀ a0 a1 a2, Kept F z a0 → (Kept F z) (Sys2Proof.gatherUnits a0 a1 a2) := by
  unfold Sys2Proof.gatherUnits
  intro v0 v1 v2 v3
  refine foldl_kept (P := (Kept F z)) ?_ ?_
  · with_reducible assumption
  · intro v6 v7 v8
    refine kept_handOver (hF.sub rfl) _ _ ?_
    with_reducible assumption
theorem kept_execHubFold (hF : Sub 345076 F) : ∀ a0 a1 a2 a3, Kept F z a3 → (OnNext (Kept F z)) (Sys2Proof.Machine.execHubFold a0 a1 a2 a3) := by
  unfold Sys2Proof.Machine.execHubFold
  intro v0 v1 v2 v3 v4
  split
  · split
    · extract_lets +onlyGivenNames l7_0 l7_1
      refine (fun (el7_0 : (Kept F z) l7_0) => ?_) ?_
      rotate_left
      · refine kept_gatherUnits (hF.sub rfl) _ _ _ ?_
        with_reducible assumption
      clear_value l7_0 l7_1
      split
      extract_lets +onlyGivenNames l11_0
      clear_value l11_0
      split
      · refine ans_next ?_
        refine kept_finishAttend (hF.sub rfl) _ _ ?_
        refine kept_putDesc (hF.sub rfl) _ _ ?_
        refine snd_eq (by assumption) (?_ : OnSnd (Kept F z) (Sys2Proof.hubFold _ _ _ _ _))
        refine kept_hubFold (hF.sub rfl) _ _ _ _ _ ?_
        with_reducible assumption
      · refine ans_next ?_
        refine kept_putDesc (hF.sub rfl) _ _ ?_
        refine snd_eq (by assumption) (?_ : OnSnd (Kept F z) (Sys2Proof.hubFold _ _ _ _ _))
        refine kept_hubFold (hF.sub rfl) _ _ _ _ _ ?_
        with_reducible assumption
    · refine ans_next ?_
      with_reducible assumption
  · refine ans_next ?_
    with_reducible assumption
theorem kept_execProgressRecord (hF : Sub 17393 F) : ∀ a0 a1 a2 a3, Kept F z a3 → (OnNext (Kept F z)) (Sys2Proof.Machine.execProgressRecord a0 a1 a2 a3) := by
  unfold Sys2Proof.Machine.execProgressRecord
  intro v0 v1 v2 v3 v4
  split
  · extract_lets +onlyGivenNames l6_0
    clear_value l6_0
    split
    · extract_lets +onlyGivenNames l8_0
      refine (fun (el8_0 : (Kept F z) l8_0) => ?_) ?_
      rotate_left
      · refine kept_progressRecord (hF.sub rfl) _ _ _ ?_
        refine kept_atTime (hF.sub rfl) _ _ ?_
        with_reducible assumption
      clear_value l8_0
      refine ans_next ?_
      refine kept_putDesc (hF.sub rfl) _ _ ?_
      with_reducible assumption
    · refine ans_next ?_
      with_reducible assumption
  · refine ans_next ?_
    with_reducible assumption
theorem kept_execReseal (hF : Sub 12012739004 F) : ∀ a0 a1 a2, Kept F z a2 → (OnNext (Kept F z)) (Sys2Proof.Machine.execReseal a0 a1 a2) := by
  unfold Sys2Proof.Machine.execReseal
  intro v0 v1 v2 v3
  split
  · refine ans_next ?_
    with_reducible assumption
  · split
    · refine ans_next ?_
      with_reducible assumption
    · split
      · refine ans_next ?_
        refine kept_endDesc (hF.sub rfl) _ _ _ ?_
        with_reducible assumption
      · split
        · refine ans_next ?_
          refine kept_endDesc (hF.sub rfl) _ _ _ ?_
          with_reducible assumption
        · split
          · refine ans_next ?_
            with_reducible assumption
          · split
            · refine ans_next ?_
              refine kept_endDesc (hF.sub rfl) _ _ _ ?_
              with_reducible assumption
            · split
              · split
                · refine ans_next ?_
                  refine kept_putDesc (hF.sub rfl) _ _ ?_
                  with_reducible assumption
                · refine ans_next ?_
                  refine kept_putDesc (hF.sub rfl) _ _ ?_
                  with_reducible assumption
              · split
                · refine ans_next ?_
                  refine kept_putDesc (hF.sub rfl) _ _ ?_
                  with_reducible assumption
                · refine ans_next ?_
                  refine kept_putDesc (hF.sub rfl) _ _ ?_
                  with_reducible assumption
theorem kept_execResealStart (hF : Sub 12012739004 F) : ∀ a0 a1 a2, Kept F z a2 → (OnNext (Kept F z)) (Sys2Proof.Machine.execResealStart a0 a1 a2) := by
  unfold Sys2Proof.Machine.execResealStart
  intro v0 v1 v2 v3
  split
  · refine ans_next ?_
    with_reducible assumption
  · extract_lets +onlyGivenNames l7_0 l7_1
    clear_value l7_0 l7_1
    split
    · split
      · refine ans_next ?_
        refine kept_endDesc (hF.sub rfl) _ _ _ ?_
        with_reducible assumption
      · split
        · refine ans_next ?_
          refine kept_endDesc (hF.sub rfl) _ _ _ ?_
          with_reducible assumption
        · refine ans_next ?_
          refine kept_modExt (hF.sub rfl) _ _ _ ?_
          refine kept_putDesc (hF.sub rfl) _ _ ?_
          with_reducible assumption
    · refine ans_next ?_
      with_reducible assumption
theorem kept_execResealDone (hF : Sub 36507601336 F) : ∀ a0 a1 a2 a3, Kept F z a3 → (OnNext (Kept F z)) (Sys2Proof.Machine.execResealDone a0 a1 a2 a3) := by
  unfold Sys2Proof.Machine.execResealDone
  intro v0 v1 v2 v3 v4
  split
  · refine ans_next ?_
    with_reducible assumption
  · split
    · split
      · refine ans_next ?_
        refine kept_endDesc (hF.sub rfl) _ _ _ ?_
        with_reducible assumption
      · extract_lets +onlyGivenNames l13_0 l13_1 l13_2 l13_3
        clear_value l13_0 l13_1 l13_2
        refine (fun (el13_3 : (Kept F z) l13_3) => ?_) ?_
        rotate_left
        · refine foldl_kept (P := (Kept F z)) ?_ ?_
          · with_reducible assumption
          · intro v16 v17 v18
            refine kept_unitFault (hF.sub rfl) _ _ _ ?_
            with_reducible assumption
        clear_value l13_3
        split
        · refine ans_next ?_
          refine kept_putDesc (hF.sub rfl) _ _ ?_
          with_reducible assumption
        · extract_lets +onlyGivenNames l25_0 l25_1 l25_2 l25_3 l25_4 l25_5
          clear_value l25_0 l25_1 l25_2 l25_3 l25_4
          refine (fun (el25_5 : (Kept F z) l25_5) => ?_) ?_
          rotate_left
          · refine kept_mk ?_
            with_reducible assumption
          clear_value l25_5
          split
          refine ans_next ?_
          refine kept_putDesc (hF.sub rfl) _ _ ?_
          with_reducible assumption
    · refine ans_next ?_
      with_reducible assumption
theorem kept_execBankPairFence (hF : Sub 36507601337 F) : ∀ a0 a1 a2, Kept F z a2 → (OnNext (Kept F z)) (Sys2Proof.Machine.execBankPairFence a0 a1 a2) := by
  unfold Sys2Proof.Machine.execBankPairFence
  intro v0 v1 v2 v3
  split
  · refine ans_next ?_
    with_reducible assumption
  · refine ans_next ?_
    refine kept_fencePair (hF.sub rfl) _ _ ?_
    refine kept_atTime (hF.sub rfl) _ _ ?_
    with_reducible assumption

/-! ### Fold -/

theorem kept_onCore (hF : Sub 17179869184 F) : ∀ a0 a1 a2, Kept F z a0 → (∀ x0, (Kept F z) (x0) → (Kept F z) (a2 x0)) → (Kept F z) (Sys2Proof.onCore a0 a1 a2) := by
  unfold Sys2Proof.onCore
  intro v0 v1 v2 v3 v4
  split
  · refine kept_withDoms (hF.sub rfl) _ _ _ ?_ ?_
    · with_reducible assumption
    · intro v8 v9
      refine v4 _ ?_
      with_reducible assumption
  · with_reducible assumption
theorem kept_mergeRun (hF : Sub 17179886580 F) : ∀ a0 a1 a2, Kept F z a2 → (Kept F z) (Sys2Proof.mergeRun a0 a1 a2) := by
  unfold Sys2Proof.mergeRun
  intro v0 v1 v2 v3
  extract_lets +onlyGivenNames l4_0
  clear_value l4_0
  split
  extract_lets +onlyGivenNames l6_0 l6_1 l6_2
  clear_value l6_0 l6_1 l6_2
  split
  · refine kept_endDesc (hF.sub rfl) _ _ _ ?_
    with_reducible assumption
  · extract_lets +onlyGivenNames l10_0
    clear_value l10_0
    split
    · refine kept_endDesc (hF.sub rfl) _ _ _ ?_
      with_reducible assumption
    · extract_lets +onlyGivenNames l14_0
      clear_value l14_0
      split
      · refine kept_endDesc (hF.sub rfl) _ _ _ ?_
        with_reducible assumption
      · split
        · refine kept_endDesc (hF.sub rfl) _ _ _ ?_
          with_reducible assumption
        · split
          · refine kept_endDesc (hF.sub rfl) _ _ _ ?_
            with_reducible assumption
          · split
            · with_reducible assumption
            · refine kept_onCore (hF.sub rfl) _ _ _ ?_ ?_
              · with_reducible assumption
              · intro v28 v29
                split
                · refine kept_endDesc (hF.sub rfl) _ _ _ ?_
                  with_reducible assumption
                · extract_lets +onlyGivenNames l33_0
                  clear_value l33_0
                  split
                  · refine kept_putDesc (hF.sub rfl) _ _ ?_
                    with_reducible assumption
                  · extract_lets +onlyGivenNames l37_0
                    clear_value l37_0
                    split
                    split
                    · refine kept_endDesc (hF.sub rfl) _ _ _ ?_
                      refine snd_eq (by assumption) (?_ : OnSnd (Kept F z) (Sys2Proof.mergeVectors _ _ _ _ _))
                      refine kept_mergeVectors (hF.sub rfl) _ _ _ _ _ ?_
                      with_reducible assumption
                    · refine kept_putDesc (hF.sub rfl) _ _ ?_
                      refine exc_ok_eq (by assumption) (?_ : OnResult Always (Kept F z) (Sys2Proof.writeOut _ _ _ _ _))
                      refine kept_writeOut (hF.sub rfl) _ _ _ _ _ ?_
                      refine snd_eq (by assumption) (?_ : OnSnd (Kept F z) (Sys2Proof.mergeVectors _ _ _ _ _))
                      refine kept_mergeVectors (hF.sub rfl) _ _ _ _ _ ?_
                      with_reducible assumption
theorem kept_execMerge (hF : Sub 17180148724 F) : ∀ a0 a1 a2 a3, Kept F z a3 → (OnNext (Kept F z)) (Sys2Proof.Machine.execMerge a0 a1 a2 a3) := by
  unfold Sys2Proof.Machine.execMerge
  intro v0 v1 v2 v3 v4
  refine kept_stationRun (hF.sub rfl) _ _ _ _ _ _ _ ?_ ?_
  · with_reducible assumption
  · intro v7 v8 v9
    refine kept_mergeRun (hF.sub rfl) _ _ _ ?_
    with_reducible assumption
theorem kept_exactRun (hF : Sub 16384 F) : ∀ a0 a1 a2, Kept F z a2 → (Kept F z) (Sys2Proof.exactRun a0 a1 a2) := by
  unfold Sys2Proof.exactRun
  intro v0 v1 v2 v3
  extract_lets +onlyGivenNames l4_0 l4_1
  clear_value l4_0 l4_1
  split
  split
  · refine kept_endDesc (hF.sub rfl) _ _ _ ?_
    with_reducible assumption
  · split
    · refine kept_endDesc (hF.sub rfl) _ _ _ ?_
      with_reducible assumption
    · split
      · refine kept_endDesc (hF.sub rfl) _ _ _ ?_
        with_reducible assumption
      · split
        · refine kept_endDesc (hF.sub rfl) _ _ _ ?_
          with_reducible assumption
        · split
          · refine kept_endDesc (hF.sub rfl) _ _ _ ?_
            with_reducible assumption
          · split
            · refine kept_endDesc (hF.sub rfl) _ _ _ ?_
              with_reducible assumption
            · split
              · refine kept_endDesc (hF.sub rfl) _ _ _ ?_
                with_reducible assumption
              · split
                · refine kept_endDesc (hF.sub rfl) _ _ _ ?_
                  with_reducible assumption
                · extract_lets +onlyGivenNames l30_0
                  clear_value l30_0
                  split
                  · refine kept_endDesc (hF.sub rfl) _ _ _ ?_
                    with_reducible assumption
                  · split
                    · refine kept_endDesc (hF.sub rfl) _ _ _ ?_
                      with_reducible assumption
                    · split
                      · refine kept_endDesc (hF.sub rfl) _ _ _ ?_
                        with_reducible assumption
                      · split
                        · refine kept_endDesc (hF.sub rfl) _ _ _ ?_
                          with_reducible assumption
                        · refine kept_putDesc (hF.sub rfl) _ _ ?_
                          with_reducible assumption
theorem kept_execFoldExact (hF : Sub 17180147712 F) : ∀ a0 a1 a2 a3, Kept F z a3 → (OnNext (Kept F z)) (Sys2Proof.Machine.execFoldExact a0 a1 a2 a3) := by
  unfold Sys2Proof.Machine.execFoldExact
  intro v0 v1 v2 v3 v4
  split
  · split
    · refine kept_stationRun (hF.sub rfl) _ _ _ _ _ _ _ ?_ ?_
      · with_reducible assumption
      · intro v9 v10 v11
        refine kept_exactRun (hF.sub rfl) _ _ _ ?_
        with_reducible assumption
    · refine ans_next ?_
      with_reducible assumption
  · refine ans_next ?_
    with_reducible assumption
theorem kept_batchJudge (hF : Sub 16384 F) : ∀ a0 a1, Kept F z a1 → (Kept F z) (Sys2Proof.batchJudge a0 a1) := by
  unfold Sys2Proof.batchJudge
  intro v0 v1 v2
  extract_lets +onlyGivenNames l3_0 l3_1 l3_2
  clear_value l3_0 l3_1 l3_2
  split
  · refine kept_endDesc (hF.sub rfl) _ _ _ ?_
    with_reducible assumption
  · split
    · refine kept_putDesc (hF.sub rfl) _ _ ?_
      with_reducible assumption
    · extract_lets +onlyGivenNames l10_0 l10_1
      clear_value l10_0 l10_1
      split
      extract_lets +onlyGivenNames l12_0
      clear_value l12_0
      split
      · refine kept_endDesc (hF.sub rfl) _ _ _ ?_
        with_reducible assumption
      · split
        · refine kept_endDesc (hF.sub rfl) _ _ _ ?_
          with_reducible assumption
        · split
          · refine kept_endDesc (hF.sub rfl) _ _ _ ?_
            with_reducible assumption
          · refine kept_putDesc (hF.sub rfl) _ _ ?_
            with_reducible assumption
theorem kept_batchRun (hF : Sub 22528 F) : ∀ a0 a1 a2, Kept F z a2 → (Kept F z) (Sys2Proof.batchRun a0 a1 a2) := by
  unfold Sys2Proof.batchRun
  intro v0 v1 v2 v3
  split
  · refine kept_endDesc (hF.sub rfl) _ _ _ ?_
    with_reducible assumption
  · split
    · refine kept_endDesc (hF.sub rfl) _ _ _ ?_
      with_reducible assumption
    · split
      · refine kept_endDesc (hF.sub rfl) _ _ _ ?_
        with_reducible assumption
      · extract_lets +onlyGivenNames l13_0 l13_1
        clear_value l13_0
        split
        · refine kept_endDesc (hF.sub rfl) _ _ _ ?_
          with_reducible assumption
        · split
          · dsimp -zeta only [l13_1]
            refine kept_putDesc (hF.sub rfl) _ _ ?_
            with_reducible assumption
          · split
            · dsimp -zeta only [l13_1]
              refine kept_putDesc (hF.sub rfl) _ _ ?_
              with_reducible assumption
            · split
              · dsimp -zeta only [l13_1]
                refine kept_putDesc (hF.sub rfl) _ _ ?_
                with_reducible assumption
              · split
                · dsimp -zeta only [l13_1]
                  refine kept_putDesc (hF.sub rfl) _ _ ?_
                  with_reducible assumption
                · split
                  · dsimp -zeta only [l13_1]
                    refine kept_putDesc (hF.sub rfl) _ _ ?_
                    with_reducible assumption
                  · extract_lets +onlyGivenNames l37_0 l37_1 l37_2 l37_3
                    clear_value l37_0 l37_1
                    refine (fun (el37_2 : (Kept F z) l37_2) => ?_) ?_
                    rotate_left
                    · refine kept_freeScales (hF.sub rfl) _ _ ?_
                      refine kept_putDesc (hF.sub rfl) _ _ ?_
                      with_reducible assumption
                    clear_value l37_2 l37_3
                    split
                    · refine kept_batchJudge (hF.sub rfl) _ _ ?_
                      with_reducible assumption
                    · refine kept_putDesc (hF.sub rfl) _ _ ?_
                      split
                      · with_reducible assumption
                      · refine kept_count (hF.sub rfl) _ _ _ _ ?_
                        with_reducible assumption
theorem kept_execBatch (hF : Sub 17180153856 F) : ∀ a0 a1 a2 a3, Kept F z a3 → (OnNext (Kept F z)) (Sys2Proof.Machine.execBatch a0 a1 a2 a3) := by
  unfold Sys2Proof.Machine.execBatch
  intro v0 v1 v2 v3 v4
  split
  · split
    · refine ans_next ?_
      with_reducible assumption
    · split
      · refine kept_stationRun (hF.sub rfl) _ _ _ _ _ _ _ ?_ ?_
        · with_reducible assumption
        · intro v12 v13 v14
          refine kept_batchRun (hF.sub rfl) _ _ _ ?_
          with_reducible assumption
      · split
        · refine ans_next ?_
          refine kept_batchJudge (hF.sub rfl) _ _ ?_
          with_reducible assumption
        · refine ans_next ?_
          with_reducible assumption
  · refine ans_next ?_
    with_reducible assumption
theorem kept_exactWindowAt (hF : Sub 6291456 F) : ∀ a0, Kept F z a0 → (Kept F z) (Sys2Proof.exactWindowAt a0) := by
  unfold Sys2Proof.exactWindowAt
  intro v0 v1
  split
  · with_reducible assumption
  · refine kept_mk ?_
    with_reducible assumption
theorem kept_execExactPageRead (hF : Sub 53693761977 F) : ∀ a0 a1 a2 a3 a4 a5 a6, Kept F z a6 → (OnNext (Kept F z)) (Sys2Proof.Machine.execExactPageRead a0 a1 a2 a3 a4 a5 a6) := by
  unfold Sys2Proof.Machine.execExactPageRead
  intro v0 v1 v2 v3 v4 v5 v6 v7
  split
  · refine ans_next ?_
    with_reducible assumption
  · split
    · split
      · refine ans_next ?_
        with_reducible assumption
      · split
        · refine ans_next ?_
          with_reducible assumption
        · split
          · refine ans_next ?_
            refine kept_queueAccess (hF.sub rfl) _ _ _ ?_
            with_reducible assumption
          · refine ans_next ?_
            refine kept_withDoms (hF.sub rfl) _ _ _ ?_ ?_
            · refine kept_atTime (hF.sub rfl) _ _ ?_
              with_reducible assumption
            · intro v26 v27
              extract_lets +onlyGivenNames l28_0 l28_1 l28_2 l28_3 l28_4 l28_5 l28_6
              refine (fun (el28_0 : (Kept F z) l28_0) => ?_) ?_
              rotate_left
              · refine kept_exactWindowAt (hF.sub rfl) _ ?_
                with_reducible assumption
              clear_value l28_0 l28_1 l28_2 l28_3 l28_4 l28_5 l28_6
              split
              · with_reducible assumption
              · extract_lets +onlyGivenNames l33_0
                refine (fun (el33_0 : (Kept F z) l33_0) => ?_) ?_
                rotate_left
                · refine kept_mk ?_
                  with_reducible assumption
                clear_value l33_0
                split
                · extract_lets +onlyGivenNames l37_0
                  refine (fun (el37_0 : (Kept F z) l37_0) => ?_) ?_
                  rotate_left
                  · refine kept_logError (hF.sub rfl) _ _ _ _ _ _ ?_
                    with_reducible assumption
                  clear_value l37_0
                  refine kept_unitFault (hF.sub rfl) _ _ _ ?_
                  refine kept_pageFail (hF.sub rfl) _ _ _ _ _ ?_
                  with_reducible assumption
                · split
                  · extract_lets +onlyGivenNames l44_0
                    refine (fun (el44_0 : (Kept F z) l44_0) => ?_) ?_
                    rotate_left
                    · refine kept_logError (hF.sub rfl) _ _ _ _ _ _ ?_
                      with_reducible assumption
                    clear_value l44_0
                    refine kept_unitFault (hF.sub rfl) _ _ _ ?_
                    refine kept_pageFail (hF.sub rfl) _ _ _ _ _ ?_
                    with_reducible assumption
                  · extract_lets +onlyGivenNames l50_0
                    refine (fun (el50_0 : (Kept F z) l50_0) => ?_) ?_
                    rotate_left
                    · dsimp -zeta only [l50_0]
                      split
                      · refine kept_count (hF.sub rfl) _ _ _ _ ?_
                        with_reducible assumption
                      · with_reducible assumption
                    clear_value l50_0
                    split
                    · refine kept_pageFail (hF.sub rfl) _ _ _ _ _ ?_
                      with_reducible assumption
                    · refine kept_putDesc (hF.sub rfl) _ _ ?_
                      with_reducible assumption
    · refine ans_next ?_
      with_reducible assumption
theorem kept_execCorePage (hF : Sub 53701856252 F) : ∀ a0 a1 a2 a3 a4, Kept F z a4 → (OnNext (Kept F z)) (Sys2Proof.Machine.execCorePage a0 a1 a2 a3 a4) := by
  unfold Sys2Proof.Machine.execCorePage
  intro v0 v1 v2 v3 v4 v5
  split
  · refine ans_next ?_
    with_reducible assumption
  · split
    · split
      · split
        · refine ans_next ?_
          with_reducible assumption
        · split
          · refine ans_next ?_
            with_reducible assumption
          · refine ans_next ?_
            refine kept_withDoms (hF.sub rfl) _ _ _ ?_ ?_
            · with_reducible assumption
            · intro v20 v21
              extract_lets +onlyGivenNames l22_0 l22_1 l22_2
              refine (fun (el22_0 : (Kept F z) l22_0) => ?_) ?_
              rotate_left
              · refine kept_takePiece (hF.sub rfl) _ _ _ _ ?_
                with_reducible assumption
              clear_value l22_0 l22_1 l22_2
              split
              · refine kept_pageFail (hF.sub rfl) _ _ _ _ _ ?_
                with_reducible assumption
              · split
                · refine kept_pageFail (hF.sub rfl) _ _ _ _ _ ?_
                  with_reducible assumption
                · extract_lets +onlyGivenNames l31_0 l31_1 l31_2 l31_3 l31_4
                  clear_value l31_0 l31_1
                  refine (fun (el31_2 : (Kept F z) l31_2) => ?_) ?_
                  rotate_left
                  · refine kept_exactWindowAt (hF.sub rfl) _ ?_
                    with_reducible assumption
                  clear_value l31_2 l31_3 l31_4
                  split
                  · with_reducible assumption
                  · extract_lets +onlyGivenNames l36_0
                    refine (fun (el36_0 : (Kept F z) l36_0) => ?_) ?_
                    rotate_left
                    · refine kept_mk ?_
                      with_reducible assumption
                    clear_value l36_0
                    refine kept_putDesc (hF.sub rfl) _ _ ?_
                    with_reducible assumption
              · extract_lets +onlyGivenNames l41_0
                clear_value l41_0
                split
                extract_lets +onlyGivenNames l43_0 l43_1 l43_2 l43_3 l43_4
                clear_value l43_0 l43_1 l43_2
                refine (fun (el43_3 : (Kept F z) l43_3) => ?_) ?_
                rotate_left
                · refine kept_putDesc (hF.sub rfl) _ _ ?_
                  with_reducible assumption
                clear_value l43_3
                refine (fun (el43_4 : (Kept F z) l43_4) => ?_) ?_
                rotate_left
                · dsimp -zeta only [l43_4]
                  split
                  · split
                    · with_reducible assumption
                    · refine kept_fenceCore (hF.sub rfl) _ _ ?_
                      with_reducible assumption
                  · with_reducible assumption
                clear_value l43_4
                split
                · with_reducible assumption
                · split
                  · refine kept_finishFold (hF.sub rfl) _ _ ?_
                    with_reducible assumption
                  · with_reducible assumption
      · refine ans_next ?_
        with_reducible assumption
    · refine ans_next ?_
      with_reducible assumption
theorem kept_execPieceMove (hF : Sub 17188274176 F) : ∀ a0 a1, Kept F z a1 → (OnNext (Kept F z)) (Sys2Proof.Machine.execPieceMove a0 a1) := by
  unfold Sys2Proof.Machine.execPieceMove
  intro v0 v1 v2
  split
  · refine ans_next ?_
    with_reducible assumption
  · split
    · refine ans_next ?_
      with_reducible assumption
    · extract_lets +onlyGivenNames l9_0
      split
      · refine ans_next ?_
        refine kept_withDoms (hF.sub rfl) _ _ _ ?_ ?_
        · with_reducible assumption
        · intro v14 v15
          dsimp -zeta only [l9_0]
          refine kept_mk ?_
          with_reducible assumption
      · split
        · refine ans_next ?_
          refine kept_putDesc (hF.sub rfl) _ _ ?_
          dsimp -zeta only [l9_0]
          refine kept_mk ?_
          with_reducible assumption
        · refine ans_next ?_
          with_reducible assumption
theorem kept_execCoreFence (hF : Sub 53695563805 F) : ∀ a0 a1 a2, Kept F z a2 → (OnNext (Kept F z)) (Sys2Proof.Machine.execCoreFence a0 a1 a2) := by
  unfold Sys2Proof.Machine.execCoreFence
  intro v0 v1 v2 v3
  split
  extract_lets +onlyGivenNames l5_0 l5_1
  clear_value l5_0 l5_1
  refine ans_next ?_
  refine kept_fenceCore (hF.sub rfl) _ _ ?_
  split
  · refine kept_logError (hF.sub rfl) _ _ _ _ _ _ ?_
    refine snd_eq (by assumption) (?_ : OnSnd (Kept F z) (Sys2Proof.draw _))
    refine kept_draw (hF.sub rfl) _ ?_
    refine kept_atTime (hF.sub rfl) _ _ ?_
    with_reducible assumption
  · refine snd_eq (by assumption) (?_ : OnSnd (Kept F z) (Sys2Proof.draw _))
    refine kept_draw (hF.sub rfl) _ ?_
    refine kept_atTime (hF.sub rfl) _ _ ?_
    with_reducible assumption
theorem kept_execSpareAssign (hF : Sub 17205035008 F) : ∀ a0 a1, Kept F z a1 → (OnNext (Kept F z)) (Sys2Proof.Machine.execSpareAssign a0 a1) := by
  unfold Sys2Proof.Machine.execSpareAssign
  intro v0 v1 v2
  split
  · split
    · extract_lets +onlyGivenNames l5_0 l5_1
      clear_value l5_0
      refine (fun (el5_1 : (Kept F z) l5_1) => ?_) ?_
      rotate_left
      · refine kept_mk ?_
        with_reducible assumption
      clear_value l5_1
      refine ans_next ?_
      refine kept_modDom (hF.sub rfl) _ _ _ ?_
      with_reducible assumption
    · refine ans_next ?_
      with_reducible assumption
  · refine ans_next ?_
    with_reducible assumption

/-! ### Flash -/

theorem kept_flashRun (hF : Sub 17180147712 F) : ∀ a0 a1 a2 a3 a4 a5 a6 a7, (∀ x0, (∀ x1, (∀ x2, (Kept F z) (x2) → (Kept F z) (a6 x0 x1 x2)))) → Kept F z a7 → (OnNext (Kept F z)) (Sys2Proof.flashRun a0 a1 a2 a3 a4 a5 a6 a7) := by
  unfold Sys2Proof.flashRun
  intro v0 v1 v2 v3 v4 v5 v6 v7 v8 v9
  refine kept_stationRun (hF.sub rfl) _ _ _ _ _ _ _ ?_ ?_
  · with_reducible assumption
  · intro v12 v13 v14
    split
    · refine kept_endDesc (hF.sub rfl) _ _ _ ?_
      with_reducible assumption
    · split
      · refine kept_endDesc (hF.sub rfl) _ _ _ ?_
        with_reducible assumption
      · refine v8 _ _ _ ?_
        with_reducible assumption
theorem kept_newObject (hF : Sub 2147483648 F) : ∀ a0 a1 a2 a3 a4, Kept F z a0 → (OnFst (Kept F z)) (Sys2Proof.newObject a0 a1 a2 a3 a4) := by
  unfold Sys2Proof.newObject
  intro v0 v1 v2 v3 v4 v5
  refine fst_mk ?_
  refine kept_modFlash (hF.sub rfl) _ _ _ ?_
  with_reducible assumption
theorem kept_drainRun (hF : Sub 19327369224 F) : ∀ a0 a1 a2 a3, Kept F z a3 → (Kept F z) (Sys2Proof.drainRun a0 a1 a2 a3) := by
  unfold Sys2Proof.drainRun
  intro v0 v1 v2 v3 v4
  extract_lets +onlyGivenNames l5_0 l5_1 l5_2 l5_3 l5_4
  clear_value l5_0 l5_1 l5_2 l5_3 l5_4
  split
  · refine kept_endDesc (hF.sub rfl) _ _ _ ?_
    with_reducible assumption
  · split
    · refine kept_endDesc (hF.sub rfl) _ _ _ ?_
      with_reducible assumption
    · split
      · refine kept_endDesc (hF.sub rfl) _ _ _ ?_
        with_reducible assumption
      · split
        · refine kept_endDesc (hF.sub rfl) _ _ _ ?_
          with_reducible assumption
        · extract_lets +onlyGivenNames l18_0
          clear_value l18_0
          split
          · refine kept_endDesc (hF.sub rfl) _ _ _ ?_
            with_reducible assumption
          · split
            extract_lets +onlyGivenNames l23_0
            clear_value l23_0
            refine kept_addOps (hF.sub rfl) _ _ _ _ _ _ _ ?_
            refine kept_putDesc (hF.sub rfl) _ _ ?_
            refine fst_eq (by assumption) (?_ : OnFst (Kept F z) (Sys2Proof.newObject _ _ _ _ _))
            refine kept_newObject (hF.sub rfl) _ _ _ _ _ ?_
            with_reducible assumption
theorem kept_execDrainObject (hF : Sub 19327631369 F) : ∀ a0 a1 a2 a3 a4, Kept F z a4 → (OnNext (Kept F z)) (Sys2Proof.Machine.execDrainObject a0 a1 a2 a3 a4) := by
  unfold Sys2Proof.Machine.execDrainObject
  intro v0 v1 v2 v3 v4 v5
  refine kept_flashRun (hF.sub rfl) _ _ _ _ _ _ _ _ ?_ ?_
  · intro v7 v8 v9 v10
    split
    · with_reducible assumption
    · refine kept_drainRun (hF.sub rfl) _ _ _ _ ?_
      with_reducible assumption
  · refine kept_atTime (hF.sub rfl) _ _ ?_
    with_reducible assumption
theorem kept_execDelete (hF : Sub 19327631369 F) : ∀ a0 a1 a2 a3, Kept F z a3 → (OnNext (Kept F z)) (Sys2Proof.Machine.execDelete a0 a1 a2 a3) := by
  unfold Sys2Proof.Machine.execDelete
  intro v0 v1 v2 v3 v4
  refine kept_flashRun (hF.sub rfl) _ _ _ _ _ _ _ _ ?_ ?_
  · intro v6 v7 v8 v9
    extract_lets +onlyGivenNames l10_0
    clear_value l10_0
    split
    · refine kept_endDesc (hF.sub rfl) _ _ _ ?_
      with_reducible assumption
    · split
      · refine kept_endDesc (hF.sub rfl) _ _ _ ?_
        with_reducible assumption
      · split
        · refine kept_endDesc (hF.sub rfl) _ _ _ ?_
          with_reducible assumption
        · split
          · refine kept_endDesc (hF.sub rfl) _ _ _ ?_
            with_reducible assumption
          · extract_lets +onlyGivenNames l23_0
            clear_value l23_0
            refine kept_addOps (hF.sub rfl) _ _ _ _ _ _ _ ?_
            refine kept_putDesc (hF.sub rfl) _ _ ?_
            with_reducible assumption
  · refine kept_atTime (hF.sub rfl) _ _ ?_
    with_reducible assumption
theorem kept_liftRun (hF : Sub 64366312444 F) : ∀ a0 a1 a2, Kept F z a2 → (Kept F z) (Sys2Proof.liftRun a0 a1 a2) := by
  unfold Sys2Proof.liftRun
  intro v0 v1 v2 v3
  extract_lets +onlyGivenNames l4_0
  clear_value l4_0
  split
  · refine kept_endDesc (hF.sub rfl) _ _ _ ?_
    with_reducible assumption
  · split
    · refine kept_endDesc (hF.sub rfl) _ _ _ ?_
      with_reducible assumption
    · extract_lets +onlyGivenNames l11_0
      clear_value l11_0
      split
      · refine kept_endDesc (hF.sub rfl) _ _ _ ?_
        with_reducible assumption
      · split
        · refine kept_endDesc (hF.sub rfl) _ _ _ ?_
          with_reducible assumption
        · extract_lets +onlyGivenNames l18_0
          clear_value l18_0
          split
          · refine kept_endDesc (hF.sub rfl) _ _ _ ?_
            with_reducible assumption
          · split
            · refine kept_failStep (hF.sub rfl) _ _ _ _ ?_
              refine kept_modStats (hF.sub rfl) _ _ _ _ ?_
              with_reducible assumption
            · extract_lets +onlyGivenNames l26_0 l26_1
              clear_value l26_0 l26_1
              refine kept_addOps (hF.sub rfl) _ _ _ _ _ _ _ ?_
              refine kept_putDesc (hF.sub rfl) _ _ ?_
              with_reducible assumption
theorem kept_execLiftObject (hF : Sub 64366312445 F) : ∀ a0 a1 a2 a3, Kept F z a3 → (OnNext (Kept F z)) (Sys2Proof.Machine.execLiftObject a0 a1 a2 a3) := by
  unfold Sys2Proof.Machine.execLiftObject
  intro v0 v1 v2 v3 v4
  refine kept_flashRun (hF.sub rfl) _ _ _ _ _ _ _ _ ?_ ?_
  · intro v6 v7 v8 v9
    refine kept_liftRun (hF.sub rfl) _ _ _ ?_
    with_reducible assumption
  · refine kept_atTime (hF.sub rfl) _ _ ?_
    with_reducible assumption
theorem kept_giveOut (hF : Sub 17392 F) : ∀ a0 a1 a2 a3 a4, Kept F z a0 → (Kept F z) (Sys2Proof.giveOut a0 a1 a2 a3 a4) := by
  unfold Sys2Proof.giveOut
  intro v0 v1 v2 v3 v4 v5
  split
  · refine kept_putDesc (hF.sub rfl) _ _ ?_
    with_reducible assumption
  · split
    · refine kept_endDesc (hF.sub rfl) _ _ _ ?_
      with_reducible assumption
    · refine kept_putDesc (hF.sub rfl) _ _ ?_
      refine exc_ok_eq (by assumption) (?_ : OnResult Always (Kept F z) (Sys2Proof.writeOut _ _ _ _ _))
      refine kept_writeOut (hF.sub rfl) _ _ _ _ _ ?_
      with_reducible assumption
theorem kept_execStat (hF : Sub 17180148720 F) : ∀ a0 a1 a2, Kept F z a2 → (OnNext (Kept F z)) (Sys2Proof.Machine.execStat a0 a1 a2) := by
  unfold Sys2Proof.Machine.execStat
  intro v0 v1 v2 v3
  refine kept_flashRun (hF.sub rfl) _ _ _ _ _ _ _ _ ?_ ?_
  · intro v5 v6 v7 v8
    extract_lets +onlyGivenNames l9_0
    clear_value l9_0
    split
    · refine kept_endDesc (hF.sub rfl) _ _ _ ?_
      with_reducible assumption
    · split
      · refine kept_endDesc (hF.sub rfl) _ _ _ ?_
        with_reducible assumption
      · refine kept_giveOut (hF.sub rfl) _ _ _ _ _ ?_
        with_reducible assumption
  · with_reducible assumption
theorem kept_regionEnd (hF : Sub 47186443260 F) : ∀ a0 a1 a2 a3 a4, Kept F z a0 → (Kept F z) (Sys2Proof.regionEnd a0 a1 a2 a3 a4) := by
  unfold Sys2Proof.regionEnd
  intro v0 v1 v2 v3 v4 v5
  refine kept_endNow (hF.sub rfl) _ _ _ _ _ _ ?_
  with_reducible assumption
theorem kept_regionRun (hF : Sub 17180147712 F) : ∀ a0 a1 a2 a3 a4 a5 a6 a7, (∀ x0, (∀ x1, (∀ x2, (Kept F z) (x2) → (Kept F z) (a6 x0 x1 x2)))) → Kept F z a7 → (OnNext (Kept F z)) (Sys2Proof.regionRun a0 a1 a2 a3 a4 a5 a6 a7) := by
  unfold Sys2Proof.regionRun
  intro v0 v1 v2 v3 v4 v5 v6 v7 v8 v9
  refine kept_flashRun (hF.sub rfl) _ _ _ _ _ _ _ _ ?_ ?_
  · intro v11 v12 v13 v14
    split
    · with_reducible assumption
    · refine v8 _ _ _ ?_
      with_reducible assumption
  · with_reducible assumption
theorem kept_execStepSetup (hF : Sub 64366312444 F) : ∀ a0 a1 a2, Kept F z a2 → (OnNext (Kept F z)) (Sys2Proof.Machine.execStepSetup a0 a1 a2) := by
  unfold Sys2Proof.Machine.execStepSetup
  intro v0 v1 v2 v3
  refine kept_regionRun (hF.sub rfl) _ _ _ _ _ _ _ _ ?_ ?_
  · intro v5 v6 v7 v8
    extract_lets +onlyGivenNames l9_0 l9_1 l9_2 l9_3
    clear_value l9_0 l9_1 l9_2 l9_3
    split
    · with_reducible assumption
    · split
      · refine kept_endDesc (hF.sub rfl) _ _ _ ?_
        with_reducible assumption
      · extract_lets +onlyGivenNames l15_0 l15_1
        clear_value l15_0 l15_1
        split
        · refine kept_endDesc (hF.sub rfl) _ _ _ ?_
          with_reducible assumption
        · split
          · refine kept_endDesc (hF.sub rfl) _ _ _ ?_
            with_reducible assumption
          · split
            · refine kept_endDesc (hF.sub rfl) _ _ _ ?_
              with_reducible assumption
            · extract_lets +onlyGivenNames l25_0 l25_1
              clear_value l25_0
              refine (fun (el25_1 : (Kept F z) l25_1) => ?_) ?_
              rotate_left
              · refine foldl_kept (P := (Kept F z)) ?_ ?_
                · with_reducible assumption
                · intro v28 v29 v30
                  refine kept_modExt (hF.sub rfl) _ _ _ ?_
                  with_reducible assumption
              clear_value l25_1
              refine kept_regionEnd (hF.sub rfl) _ _ _ _ _ ?_
              with_reducible assumption
  · with_reducible assumption
theorem kept_execStepPublish (hF : Sub 64366312444 F) : ∀ a0 a1 a2, Kept F z a2 → (OnNext (Kept F z)) (Sys2Proof.Machine.execStepPublish a0 a1 a2) := by
  unfold Sys2Proof.Machine.execStepPublish
  intro v0 v1 v2 v3
  refine kept_regionRun (hF.sub rfl) _ _ _ _ _ _ _ _ ?_ ?_
  · intro v5 v6 v7 v8
    extract_lets +onlyGivenNames l9_0
    clear_value l9_0
    split
    · with_reducible assumption
    · split
      · refine kept_endDesc (hF.sub rfl) _ _ _ ?_
        with_reducible assumption
      · split
        · refine kept_putDesc (hF.sub rfl) _ _ ?_
          with_reducible assumption
        · split
          · refine kept_endDesc (hF.sub rfl) _ _ _ ?_
            with_reducible assumption
          · extract_lets +onlyGivenNames l21_0
            clear_value l21_0
            refine kept_regionEnd (hF.sub rfl) _ _ _ _ _ ?_
            with_reducible assumption
  · with_reducible assumption
theorem kept_execStepOpen (hF : Sub 64366312444 F) : ∀ a0 a1 a2, Kept F z a2 → (OnNext (Kept F z)) (Sys2Proof.Machine.execStepOpen a0 a1 a2) := by
  unfold Sys2Proof.Machine.execStepOpen
  intro v0 v1 v2 v3
  refine kept_regionRun (hF.sub rfl) _ _ _ _ _ _ _ _ ?_ ?_
  · intro v5 v6 v7 v8
    split
    · refine kept_endDesc (hF.sub rfl) _ _ _ ?_
      with_reducible assumption
    · split
      · with_reducible assumption
      · split
        · refine kept_regionEnd (hF.sub rfl) _ _ _ _ _ ?_
          with_reducible assumption
        · refine kept_endDesc (hF.sub rfl) _ _ _ ?_
          with_reducible assumption
  · with_reducible assumption
theorem kept_execStepRelease (hF : Sub 64366312444 F) : ∀ a0 a1 a2, Kept F z a2 → (OnNext (Kept F z)) (Sys2Proof.Machine.execStepRelease a0 a1 a2) := by
  unfold Sys2Proof.Machine.execStepRelease
  intro v0 v1 v2 v3
  refine kept_regionRun (hF.sub rfl) _ _ _ _ _ _ _ _ ?_ ?_
  · intro v5 v6 v7 v8
    split
    · refine kept_endDesc (hF.sub rfl) _ _ _ ?_
      with_reducible assumption
    · split
      · with_reducible assumption
      · split
        · split
          · refine kept_endDesc (hF.sub rfl) _ _ _ ?_
            with_reducible assumption
          · extract_lets +onlyGivenNames l18_0
            clear_value l18_0
            refine kept_addOps (hF.sub rfl) _ _ _ _ _ _ _ ?_
            refine kept_putDesc (hF.sub rfl) _ _ ?_
            with_reducible assumption
        · refine kept_endNow (hF.sub rfl) _ _ _ _ _ _ ?_
          with_reducible assumption
  · with_reducible assumption
theorem kept_execStepQuery (hF : Sub 29192870908 F) : ∀ a0 a1 a2, Kept F z a2 → (OnNext (Kept F z)) (Sys2Proof.Machine.execStepQuery a0 a1 a2) := by
  unfold Sys2Proof.Machine.execStepQuery
  intro v0 v1 v2 v3
  refine kept_flashRun (hF.sub rfl) _ _ _ _ _ _ _ _ ?_ ?_
  · intro v5 v6 v7 v8
    split
    · refine kept_endDesc (hF.sub rfl) _ _ _ ?_
      with_reducible assumption
    · refine kept_giveOut (hF.sub rfl) _ _ _ _ _ ?_
      with_reducible assumption
  · with_reducible assumption
theorem kept_stopDrain (hF : Sub 47186443260 F) : ∀ a0 a1 a2 a3 a4 a5, Kept F z a0 → (Kept F z) (Sys2Proof.stopDrain a0 a1 a2 a3 a4 a5) := by
  unfold Sys2Proof.stopDrain
  intro v0 v1 v2 v3 v4 v5 v6
  extract_lets +onlyGivenNames l7_0
  refine (fun (el7_0 : (Kept F z) l7_0) => ?_) ?_
  rotate_left
  · dsimp -zeta only [l7_0]
    split
    · refine kept_modStats (hF.sub rfl) _ _ _ _ ?_
      with_reducible assumption
    · with_reducible assumption
  clear_value l7_0
  refine kept_failStep (hF.sub rfl) _ _ _ _ ?_
  refine kept_drainFails (hF.sub rfl) _ _ _ ?_
  refine kept_billStopped (hF.sub rfl) _ _ _ ?_
  with_reducible assumption
theorem kept_startNext (hF : Sub 64366312444 F) : ∀ a0 a1 a2, Kept F z a2 → (OnFst (Kept F z)) (Sys2Proof.startNext a0 a1 a2) := by
  unfold Sys2Proof.startNext
  intro v0 v1 v2 v3
  split
  · refine fst_mk ?_
    with_reducible assumption
  · split
    · refine fst_mk ?_
      with_reducible assumption
    · extract_lets +onlyGivenNames l10_0 l10_1 l10_2
      clear_value l10_0 l10_1 l10_2
      split
      · refine fst_mk ?_
        refine kept_stopDrain (hF.sub rfl) _ _ _ _ _ _ ?_
        with_reducible assumption
      · split
        extract_lets +onlyGivenNames l16_0 l16_1
        refine (fun (el16_0 : (Kept F z) l16_0) => ?_) ?_
        rotate_left
        · refine kept_modRegion (hF.sub rfl) _ _ _ _ ?_
          refine fst_eq (by assumption) (?_ : OnFst (Kept F z) (Sys2Proof.newObject _ _ _ _ _))
          refine kept_newObject (hF.sub rfl) _ _ _ _ _ ?_
          with_reducible assumption
        clear_value l16_0
        refine (fun (el16_1 : (Kept F z) l16_1) => ?_) ?_
        rotate_left
        · dsimp -zeta only [l16_1]
          split
          · refine kept_putDesc (hF.sub rfl) _ _ ?_
            with_reducible assumption
          · with_reducible assumption
        clear_value l16_1
        refine fst_mk ?_
        refine kept_addOps (hF.sub rfl) _ _ _ _ _ _ _ ?_
        with_reducible assumption
theorem kept_startObjects (hF : Sub 64366312444 F) : ∀ a0 a1 a2 a3, Kept F z a3 → (Kept F z) (Sys2Proof.startObjects a0 a1 a2 a3) := by
  intro a0 a1 a2
  induction a2 with
  | zero => intro a3 h; exact h
  | succ n ih =>
    intro a3 h
    unfold startObjects
    extract_lets +onlyGivenNames l0_0
    refine (fun (el0_0 : (OnFst (Kept F z)) l0_0) => ?_) ?_
    rotate_left
    · refine kept_startNext (hF.sub rfl) _ _ _ ?_
      with_reducible assumption
    clear_value l0_0
    split
    · refine ih _ ?_
      refine fst_of (P := (Kept F z)) ?_
      with_reducible assumption
    · refine fst_of (P := (Kept F z)) ?_
      with_reducible assumption
theorem kept_execStepDrain (hF : Sub 64366312445 F) : ∀ a0 a1 a2 a3, Kept F z a3 → (OnNext (Kept F z)) (Sys2Proof.Machine.execStepDrain a0 a1 a2 a3) := by
  unfold Sys2Proof.Machine.execStepDrain
  intro v0 v1 v2 v3 v4
  refine kept_regionRun (hF.sub rfl) _ _ _ _ _ _ _ _ ?_ ?_
  · intro v6 v7 v8 v9
    split
    · refine kept_endDesc (hF.sub rfl) _ _ _ ?_
      with_reducible assumption
    · split
      · with_reducible assumption
      · split
        · refine kept_endDesc (hF.sub rfl) _ _ _ ?_
          with_reducible assumption
        · split
          · refine kept_endDesc (hF.sub rfl) _ _ _ ?_
            with_reducible assumption
          · extract_lets +onlyGivenNames l21_0
            clear_value l21_0
            refine kept_startObjects (hF.sub rfl) _ _ _ _ ?_
            refine kept_modRegion (hF.sub rfl) _ _ _ _ ?_
            refine kept_putDesc (hF.sub rfl) _ _ ?_
            with_reducible assumption
  · refine kept_atTime (hF.sub rfl) _ _ ?_
    with_reducible assumption
theorem kept_drainEnd (hF : Sub 47186443260 F) : ∀ a0 a1 a2, Kept F z a2 → (Kept F z) (Sys2Proof.drainEnd a0 a1 a2) := by
  unfold Sys2Proof.drainEnd
  intro v0 v1 v2 v3
  split
  · with_reducible assumption
  · split
    · with_reducible assumption
    · extract_lets +onlyGivenNames l8_0 l8_1 l8_2 l8_3
      clear_value l8_0
      refine (fun (el8_1 : (Kept F z) l8_1) => ?_) ?_
      rotate_left
      · refine foldl_kept (P := (Kept F z)) ?_ ?_
        · with_reducible assumption
        · intro v11 v12 v13
          split
          · refine kept_delObject (hF.sub rfl) _ _ _ ?_
            with_reducible assumption
          · with_reducible assumption
      clear_value l8_1
      refine (fun (el8_2 : (Kept F z) l8_2) => ?_) ?_
      rotate_left
      · refine kept_commitDir (hF.sub rfl) _ _ _ ?_
        with_reducible assumption
      clear_value l8_2
      refine (fun (el8_3 : (Kept F z) l8_3) => ?_) ?_
      rotate_left
      · refine kept_modRegion (hF.sub rfl) _ _ _ _ ?_
        with_reducible assumption
      clear_value l8_3
      split
      refine kept_endNow (hF.sub rfl) _ _ _ _ _ _ ?_
      with_reducible assumption
theorem kept_execStepDrainObjectDone (hF : Sub 64366312445 F) : ∀ a0 a1 a2 a3 a4 a5, Kept F z a5 → (OnNext (Kept F z)) (Sys2Proof.Machine.execStepDrainObjectDone a0 a1 a2 a3 a4 a5) := by
  unfold Sys2Proof.Machine.execStepDrainObjectDone
  intro v0 v1 v2 v3 v4 v5 v6
  split
  · refine ans_next ?_
    with_reducible assumption
  · extract_lets +onlyGivenNames l10_0
    clear_value l10_0
    split
    · refine ans_next ?_
      with_reducible assumption
    · split
      · refine ans_next ?_
        with_reducible assumption
      · extract_lets +onlyGivenNames l17_0
        refine (fun (el17_0 : (Kept F z) l17_0) => ?_) ?_
        rotate_left
        · refine kept_removeOps (hF.sub rfl) _ _ _ ?_
          refine kept_atTime (hF.sub rfl) _ _ ?_
          with_reducible assumption
        clear_value l17_0
        split
        · refine ans_next ?_
          refine kept_stopDrain (hF.sub rfl) _ _ _ _ _ _ ?_
          with_reducible assumption
        · extract_lets +onlyGivenNames l25_0 l25_1
          refine (fun (el25_0 : (Kept F z) l25_0) => ?_) ?_
          rotate_left
          · refine kept_putObject (hF.sub rfl) _ _ _ _ ?_
            with_reducible assumption
          clear_value l25_0
          refine (fun (el25_1 : (Kept F z) l25_1) => ?_) ?_
          rotate_left
          · refine kept_modRegion (hF.sub rfl) _ _ _ _ ?_
            with_reducible assumption
          clear_value l25_1
          split
          · refine ans_next ?_
            refine kept_startObjects (hF.sub rfl) _ _ _ _ ?_
            with_reducible assumption
          · split
            · refine ans_next ?_
              refine kept_stopDrain (hF.sub rfl) _ _ _ _ _ _ ?_
              with_reducible assumption
            · refine ans_next ?_
              refine kept_addOps (hF.sub rfl) _ _ _ _ _ _ _ ?_
              with_reducible assumption
theorem kept_stopRestore (hF : Sub 47186443260 F) : ∀ a0 a1 a2 a3 a4 a5, Kept F z a0 → (Kept F z) (Sys2Proof.stopRestore a0 a1 a2 a3 a4 a5) := by
  unfold Sys2Proof.stopRestore
  intro v0 v1 v2 v3 v4 v5 v6
  extract_lets +onlyGivenNames l7_0
  refine (fun (el7_0 : (Kept F z) l7_0) => ?_) ?_
  rotate_left
  · dsimp -zeta only [l7_0]
    split
    · refine kept_modStats (hF.sub rfl) _ _ _ _ ?_
      with_reducible assumption
    · with_reducible assumption
  clear_value l7_0
  split
  refine kept_failStep (hF.sub rfl) _ _ _ _ ?_
  refine kept_restoreFails (hF.sub rfl) _ _ _ _ ?_
  refine kept_billStopped (hF.sub rfl) _ _ _ ?_
  refine snd_eq (by assumption) (?_ : OnSnd (Kept F z) (Sys2Proof.orFree _ _ _))
  refine kept_orFree (hF.sub rfl) _ _ _ ?_
  with_reducible assumption
theorem kept_execStepRestore (hF : Sub 19327631369 F) : ∀ a0 a1 a2 a3, Kept F z a3 → (OnNext (Kept F z)) (Sys2Proof.Machine.execStepRestore a0 a1 a2 a3) := by
  unfold Sys2Proof.Machine.execStepRestore
  intro v0 v1 v2 v3 v4
  refine kept_regionRun (hF.sub rfl) _ _ _ _ _ _ _ _ ?_ ?_
  · intro v6 v7 v8 v9
    split
    · refine kept_endDesc (hF.sub rfl) _ _ _ ?_
      with_reducible assumption
    · split
      · with_reducible assumption
      · split
        · refine kept_endDesc (hF.sub rfl) _ _ _ ?_
          with_reducible assumption
        · extract_lets +onlyGivenNames l18_0
          clear_value l18_0
          split
          · refine kept_endDesc (hF.sub rfl) _ _ _ ?_
            with_reducible assumption
          · split
            · refine kept_endDesc (hF.sub rfl) _ _ _ ?_
              with_reducible assumption
            · extract_lets +onlyGivenNames l25_0 l25_1 l25_2
              clear_value l25_0 l25_1
              refine (fun (el25_2 : (Kept F z) l25_2) => ?_) ?_
              rotate_left
              · refine kept_modRegion (hF.sub rfl) _ _ _ _ ?_
                refine kept_putDesc (hF.sub rfl) _ _ ?_
                with_reducible assumption
              clear_value l25_2
              refine foldl_kept (P := (Kept F z)) ?_ ?_
              · with_reducible assumption
              · intro v31 v32 v33
                split
                · refine kept_addOps (hF.sub rfl) _ _ _ _ _ _ _ ?_
                  with_reducible assumption
                · with_reducible assumption
  · refine kept_atTime (hF.sub rfl) _ _ ?_
    with_reducible assumption
theorem kept_execLiftUnitDone (hF : Sub 47186443261 F) : ∀ a0 a1 a2 a3 a4 a5 a6, Kept F z a6 → (OnNext (Kept F z)) (Sys2Proof.Machine.execLiftUnitDone a0 a1 a2 a3 a4 a5 a6) := by
  unfold Sys2Proof.Machine.execLiftUnitDone
  intro v0 v1 v2 v3 v4 v5 v6 v7
  split
  · refine ans_next ?_
    with_reducible assumption
  · extract_lets +onlyGivenNames l11_0 l11_1
    clear_value l11_0 l11_1
    split
    · extract_lets +onlyGivenNames l13_0 l13_1 l13_2
      clear_value l13_0 l13_1 l13_2
      split
      · refine ans_next ?_
        with_reducible assumption
      · extract_lets +onlyGivenNames l17_0 l17_1
        refine (fun (el17_0 : (Kept F z) l17_0) => ?_) ?_
        rotate_left
        · refine kept_atTime (hF.sub rfl) _ _ ?_
          with_reducible assumption
        clear_value l17_0
        refine (fun (el17_1 : (Kept F z) l17_1) => ?_) ?_
        rotate_left
        · refine kept_modStats (hF.sub rfl) _ _ _ _ ?_
          with_reducible assumption
        clear_value l17_1
        split
        · refine ans_next ?_
          refine kept_stopRestore (hF.sub rfl) _ _ _ _ _ _ ?_
          with_reducible assumption
        · refine ans_next ?_
          refine kept_stopRestore (hF.sub rfl) _ _ _ _ _ _ ?_
          with_reducible assumption
        · extract_lets +onlyGivenNames l29_0 l29_1 l29_2
          refine (fun (el29_0 : (Kept F z) l29_0) => ?_) ?_
          rotate_left
          · refine kept_writeHbm (hF.sub rfl) _ _ _ _ ?_
            with_reducible assumption
          clear_value l29_0
          refine (fun (el29_1 : (Kept F z) l29_1) => ?_) ?_
          rotate_left
          · refine kept_modRegion (hF.sub rfl) _ _ _ _ ?_
            with_reducible assumption
          clear_value l29_1
          refine (fun (el29_2 : (Kept F z) l29_2) => ?_) ?_
          rotate_left
          · refine kept_serveWaits (hF.sub rfl) _ ?_
            with_reducible assumption
          clear_value l29_2
          split
          · refine ans_next ?_
            with_reducible assumption
          · extract_lets +onlyGivenNames l39_0
            refine (fun (el39_0 : (Kept F z) l39_0) => ?_) ?_
            rotate_left
            · refine kept_modRegion (hF.sub rfl) _ _ _ _ ?_
              refine kept_removeOps (hF.sub rfl) _ _ _ ?_
              with_reducible assumption
            clear_value l39_0
            split
            refine ans_next ?_
            refine kept_endNow (hF.sub rfl) _ _ _ _ _ _ ?_
            refine kept_serveWaits (hF.sub rfl) _ ?_
            with_reducible assumption
    · refine ans_next ?_
      with_reducible assumption
theorem kept_flashDone (hF : Sub 47186443260 F) : ∀ a0 a1 a2, Kept F z a2 → (Kept F z) (Sys2Proof.flashDone a0 a1 a2) := by
  unfold Sys2Proof.flashDone
  intro v0 v1 v2 v3
  extract_lets +onlyGivenNames l4_0
  clear_value l4_0
  split
  · split
    · with_reducible assumption
    · split
      refine kept_putDesc (hF.sub rfl) _ _ ?_
      with_reducible assumption
  · split
    · refine kept_putDesc (hF.sub rfl) _ _ ?_
      with_reducible assumption
    · split
      · refine kept_drainEnd (hF.sub rfl) _ _ _ ?_
        with_reducible assumption
      · split
        · split
          · with_reducible assumption
          · refine kept_putDesc (hF.sub rfl) _ _ ?_
            with_reducible assumption
        · split
          · split
            · with_reducible assumption
            · extract_lets +onlyGivenNames l25_0 l25_1 l25_2
              clear_value l25_0 l25_1 l25_2
              split
              extract_lets +onlyGivenNames l27_0 l27_1
              clear_value l27_0
              split
              · dsimp -zeta only [l27_1]
                refine kept_coderUnits (hF.sub rfl) _ _ _ ?_
                with_reducible assumption
              · split
                · refine kept_endDesc (hF.sub rfl) _ _ _ ?_
                  with_reducible assumption
                · dsimp -zeta only [l27_1]
                  refine kept_coderUnits (hF.sub rfl) _ _ _ ?_
                  refine exc_ok_eq (by assumption) (?_ : OnResult Always (Kept F z) (Sys2Proof.writeOut _ _ _ _ _))
                  refine kept_writeOut (hF.sub rfl) _ _ _ _ _ ?_
                  with_reducible assumption
          · with_reducible assumption
theorem kept_setOp (hF : Sub 2147483648 F) : ∀ a0 a1 a2, Kept F z a0 → (Kept F z) (Sys2Proof.setOp a0 a1 a2) := by
  unfold Sys2Proof.setOp
  intro v0 v1 v2 v3
  refine kept_mk ?_
  with_reducible assumption
theorem kept_readFails (hF : Sub 47186443260 F) : ∀ a0 a1 a2 a3 a4 a5, Kept F z a5 → (Kept F z) (Sys2Proof.readFails a0 a1 a2 a3 a4 a5) := by
  unfold Sys2Proof.readFails
  intro v0 v1 v2 v3 v4 v5 v6
  split
  · refine kept_stopRestore (hF.sub rfl) _ _ _ _ _ _ ?_
    with_reducible assumption
  · extract_lets +onlyGivenNames l10_0
    refine (fun (el10_0 : (Kept F z) l10_0) => ?_) ?_
    rotate_left
    · dsimp -zeta only [l10_0]
      split
      · refine kept_modStats (hF.sub rfl) _ _ _ _ ?_
        with_reducible assumption
      · with_reducible assumption
    clear_value l10_0
    refine kept_failStep (hF.sub rfl) _ _ _ _ ?_
    refine kept_billStopped (hF.sub rfl) _ _ _ ?_
    with_reducible assumption
theorem kept_execNvmeCompletion (hF : Sub 47186443261 F) : ∀ a0 a1 a2 a3 a4 a5, Kept F z a5 → (OnNext (Kept F z)) (Sys2Proof.Machine.execNvmeCompletion a0 a1 a2 a3 a4 a5) := by
  unfold Sys2Proof.Machine.execNvmeCompletion
  intro v0 v1 v2 v3 v4 v5 v6
  split
  · refine ans_next ?_
    with_reducible assumption
  · split
    · split
      · refine ans_next ?_
        with_reducible assumption
      · extract_lets +onlyGivenNames l14_0 l14_1
        refine (fun (el14_0 : (Kept F z) l14_0) => ?_) ?_
        rotate_left
        · refine kept_billDrive (hF.sub rfl) _ _ _ _ ?_
          refine kept_atTime (hF.sub rfl) _ _ ?_
          with_reducible assumption
        clear_value l14_0
        refine (fun (el14_1 : (Kept F z) l14_1) => ?_) ?_
        rotate_left
        · dsimp -zeta only [l14_1]
          split
          · refine kept_modStats (hF.sub rfl) _ _ _ _ ?_
            with_reducible assumption
          · with_reducible assumption
        clear_value l14_1
        split
        · split
          · refine ans_next ?_
            refine kept_readFails (hF.sub rfl) _ _ _ _ _ _ ?_
            with_reducible assumption
          · refine ans_next ?_
            refine kept_setOp (hF.sub rfl) _ _ _ ?_
            with_reducible assumption
        · split
          · refine ans_next ?_
            refine kept_readFails (hF.sub rfl) _ _ _ _ _ _ ?_
            with_reducible assumption
          · refine ans_next ?_
            refine kept_setOp (hF.sub rfl) _ _ _ ?_
            with_reducible assumption
        · extract_lets +onlyGivenNames l38_0 l38_1
          refine (fun (el38_0 : (OnFst (Kept F z)) l38_0) => ?_) ?_
          rotate_left
          · refine kept_holdOp (hF.sub rfl) _ _ _ ?_
            with_reducible assumption
          clear_value l38_0 l38_1
          extract_lets +onlyGivenNames l41_0
          refine (fun (el41_0 : (Kept F z) l41_0) => ?_) ?_
          rotate_left
          · refine kept_billWaits (hF.sub rfl) _ _ _ ?_
            refine kept_setOp (hF.sub rfl) _ _ _ ?_
            refine fst_of (P := (Kept F z)) ?_
            with_reducible assumption
          clear_value l41_0
          split
          · refine ans_next ?_
            refine kept_flashDone (hF.sub rfl) _ _ _ ?_
            with_reducible assumption
          · refine ans_next ?_
            with_reducible assumption
    · refine ans_next ?_
      with_reducible assumption
theorem kept_tierFail (hF : Sub 47186443260 F) : ∀ a0 a1 a2 a3, Kept F z a0 → (Kept F z) (Sys2Proof.tierFail a0 a1 a2 a3) := by
  unfold Sys2Proof.tierFail
  intro v0 v1 v2 v3 v4
  split
  · refine kept_failStep (hF.sub rfl) _ _ _ _ ?_
    with_reducible assumption
  · split
    · refine kept_stopDrain (hF.sub rfl) _ _ _ _ _ _ ?_
      with_reducible assumption
    · split
      · refine kept_stopRestore (hF.sub rfl) _ _ _ _ _ _ ?_
        with_reducible assumption
      · split
        · split
          · refine kept_failStep (hF.sub rfl) _ _ _ _ ?_
            with_reducible assumption
          · refine kept_pageFail (hF.sub rfl) _ _ _ _ _ ?_
            with_reducible assumption
        · refine kept_readFails (hF.sub rfl) _ _ _ _ _ _ ?_
          with_reducible assumption
theorem kept_execFlashDeadline (hF : Sub 47186443261 F) : ∀ a0 a1 a2 a3, Kept F z a3 → (OnNext (Kept F z)) (Sys2Proof.Machine.execFlashDeadline a0 a1 a2 a3) := by
  unfold Sys2Proof.Machine.execFlashDeadline
  intro v0 v1 v2 v3 v4
  split
  · refine ans_next ?_
    with_reducible assumption
  · split
    · refine ans_next ?_
      with_reducible assumption
    · split
      · refine ans_next ?_
        with_reducible assumption
      · extract_lets +onlyGivenNames l14_0 l14_1 l14_2 l14_3 l14_4
        refine (fun (el14_0 : (Kept F z) l14_0) => ?_) ?_
        rotate_left
        · refine kept_atTime (hF.sub rfl) _ _ ?_
          with_reducible assumption
        clear_value l14_0 l14_1
        refine (fun (el14_2 : (Kept F z) l14_2) => ?_) ?_
        rotate_left
        · refine foldl_kept (P := (Kept F z)) ?_ ?_
          · with_reducible assumption
          · intro v19 v20 v21
            split
            · with_reducible assumption
            · extract_lets +onlyGivenNames l24_0
              refine (fun (el24_0 : (OnFst (Kept F z)) l24_0) => ?_) ?_
              rotate_left
              · refine kept_holdOp (hF.sub rfl) _ _ _ ?_
                with_reducible assumption
              clear_value l24_0
              refine kept_setOp (hF.sub rfl) _ _ _ ?_
              refine fst_of (P := (Kept F z)) ?_
              with_reducible assumption
        clear_value l14_2 l14_3 l14_4
        split
        refine ans_next ?_
        refine kept_tierFail (hF.sub rfl) _ _ _ _ ?_
        refine snd_eq (by assumption) (?_ : OnSnd (Kept F z) (Sys2Proof.draw _))
        refine kept_draw (hF.sub rfl) _ ?_
        with_reducible assumption
theorem kept_execTierPathDone (hF : Sub 64366312445 F) : ∀ a0 a1 a2 a3 a4 a5, Kept F z a5 → (OnNext (Kept F z)) (Sys2Proof.Machine.execTierPathDone a0 a1 a2 a3 a4 a5) := by
  unfold Sys2Proof.Machine.execTierPathDone
  intro v0 v1 v2 v3 v4 v5 v6
  split
  · refine ans_next ?_
    with_reducible assumption
  · split
    · extract_lets +onlyGivenNames l11_0
      clear_value l11_0
      split
      · refine ans_next ?_
        with_reducible assumption
      · extract_lets +onlyGivenNames l15_0
        refine (fun (el15_0 : (Kept F z) l15_0) => ?_) ?_
        rotate_left
        · refine foldl_kept (P := (Kept F z)) ?_ ?_
          · refine kept_atTime (hF.sub rfl) _ _ ?_
            with_reducible assumption
          · intro v19 v20 v21
            refine kept_billDrive (hF.sub rfl) _ _ _ _ ?_
            with_reducible assumption
        clear_value l15_0
        split
        · split
          · refine ans_next ?_
            refine kept_tierFail (hF.sub rfl) _ _ _ _ ?_
            with_reducible assumption
          · refine ans_next ?_
            refine kept_setOp (hF.sub rfl) _ _ _ ?_
            with_reducible assumption
        · split
          · refine ans_next ?_
            refine kept_tierFail (hF.sub rfl) _ _ _ _ ?_
            with_reducible assumption
          · split
            · split
              · refine ans_next ?_
                refine kept_failStep (hF.sub rfl) _ _ _ _ ?_
                with_reducible assumption
              · refine ans_next ?_
                refine kept_pageFail (hF.sub rfl) _ _ _ _ _ ?_
                with_reducible assumption
            · split
              · extract_lets +onlyGivenNames l45_0
                clear_value l45_0
                split
                · split
                  split
                  · refine ans_next ?_
                    refine kept_putDesc (hF.sub rfl) _ _ ?_
                    refine fst_eq (by assumption) (?_ : OnFst (Kept F z) (Sys2Proof.restoreEnd _ _ _))
                    refine kept_restoreEnd (hF.sub rfl) _ _ _ ?_
                    refine kept_removeOps (hF.sub rfl) _ _ _ ?_
                    with_reducible assumption
                  · refine ans_next ?_
                    refine foldl_kept (P := (Kept F z)) ?_ ?_
                    · with_reducible assumption
                    · intro v58 v59 v60
                      refine kept_startWake (hF.sub rfl) _ _ ?_
                      with_reducible assumption
                · refine ans_next ?_
                  refine kept_pushFlash (hF.sub rfl) _ ?_
                  refine kept_putDesc (hF.sub rfl) _ _ ?_
                  refine kept_removeOps (hF.sub rfl) _ _ _ ?_
                  with_reducible assumption
              · split
                · refine ans_next ?_
                  refine kept_pageFail (hF.sub rfl) _ _ _ _ _ ?_
                  with_reducible assumption
                · refine ans_next ?_
                  refine kept_pushFlash (hF.sub rfl) _ ?_
                  refine kept_putDesc (hF.sub rfl) _ _ ?_
                  refine kept_removeOps (hF.sub rfl) _ _ _ ?_
                  with_reducible assumption
    · refine ans_next ?_
      with_reducible assumption
theorem kept_execFlashShareWindow (hF : Sub 19327352841 F) : ∀ a0 a1, Kept F z a1 → (OnNext (Kept F z)) (Sys2Proof.Machine.execFlashShareWindow a0 a1) := by
  unfold Sys2Proof.Machine.execFlashShareWindow
  intro v0 v1 v2
  split
  · refine ans_next ?_
    with_reducible assumption
  · extract_lets +onlyGivenNames l6_0
    refine (fun (el6_0 : (Kept F z) l6_0) => ?_) ?_
    rotate_left
    · refine kept_atTime (hF.sub rfl) _ _ ?_
      with_reducible assumption
    clear_value l6_0
    refine ans_next ?_
    refine kept_pushFlash (hF.sub rfl) _ ?_
    refine kept_mk ?_
    with_reducible assumption
theorem kept_execWearBucketRefill (hF : Sub 19327352841 F) : ∀ a0 a1 a2, Kept F z a2 → (OnNext (Kept F z)) (Sys2Proof.Machine.execWearBucketRefill a0 a1 a2) := by
  unfold Sys2Proof.Machine.execWearBucketRefill
  intro v0 v1 v2 v3
  extract_lets +onlyGivenNames l4_0
  clear_value l4_0
  split
  · refine ans_next ?_
    with_reducible assumption
  · extract_lets +onlyGivenNames l8_0 l8_1 l8_2 l8_3 l8_4
    clear_value l8_0 l8_1 l8_2
    refine (fun (el8_4 : (Kept F z) l8_4) => ?_) ?_
    rotate_left
    · refine kept_atTime (hF.sub rfl) _ _ ?_
      with_reducible assumption
    clear_value l8_4
    refine ans_next ?_
    refine kept_pushFlash (hF.sub rfl) _ ?_
    refine kept_modDrive (hF.sub rfl) _ _ _ ?_
    with_reducible assumption
theorem kept_execDriveIdentified (hF : Sub 19327354904 F) : ∀ a0 a1 a2 a3, Kept F z a3 → (OnNext (Kept F z)) (Sys2Proof.Machine.execDriveIdentified a0 a1 a2 a3) := by
  unfold Sys2Proof.Machine.execDriveIdentified
  intro v0 v1 v2 v3 v4
  split
  · refine ans_next ?_
    with_reducible assumption
  · extract_lets +onlyGivenNames l8_0 l8_1
    clear_value l8_0
    refine (fun (el8_1 : (Kept F z) l8_1) => ?_) ?_
    rotate_left
    · refine kept_modDrive (hF.sub rfl) _ _ _ ?_
      with_reducible assumption
    clear_value l8_1
    refine ans_next ?_
    refine kept_pushFlash (hF.sub rfl) _ ?_
    refine kept_postFm (hF.sub rfl) _ _ _ _ _ _ _ ?_
    with_reducible assumption
theorem kept_failDrive (hF : Sub 47186443260 F) : ∀ a0 a1 a2, Kept F z a0 → (Kept F z) (Sys2Proof.failDrive a0 a1 a2) := by
  unfold Sys2Proof.failDrive
  intro v0 v1 v2 v3
  extract_lets +onlyGivenNames l4_0 l4_1 l4_2 l4_3 l4_4
  clear_value l4_0
  refine (fun (el4_1 : (Kept F z) l4_1) => ?_) ?_
  rotate_left
  · refine kept_modDrive (hF.sub rfl) _ _ _ ?_
    refine kept_logError (hF.sub rfl) _ _ _ _ _ _ ?_
    with_reducible assumption
  clear_value l4_1 l4_2
  refine (fun (el4_3 : (Kept F z) l4_3) => ?_) ?_
  rotate_left
  · refine foldl_kept (P := (Kept F z)) ?_ ?_
    · with_reducible assumption
    · intro v10 v11 v12
      split
      · split
        · refine kept_tierFail (hF.sub rfl) _ _ _ _ ?_
          with_reducible assumption
        · with_reducible assumption
      · with_reducible assumption
  clear_value l4_3
  refine (fun (el4_4 : (Kept F z) l4_4) => ?_) ?_
  rotate_left
  · refine kept_postFm (hF.sub rfl) _ _ _ _ _ _ _ ?_
    with_reducible assumption
  clear_value l4_4
  refine foldl_kept (P := (Kept F z)) ?_ ?_
  · with_reducible assumption
  · intro v23 v24 v25
    refine kept_postEvent (hF.sub rfl) _ _ _ _ _ _ _ _ _ ?_
    with_reducible assumption
theorem kept_execDriveFailed (hF : Sub 47186443260 F) : ∀ a0 a1 a2, Kept F z a2 → (OnNext (Kept F z)) (Sys2Proof.Machine.execDriveFailed a0 a1 a2) := by
  unfold Sys2Proof.Machine.execDriveFailed
  intro v0 v1 v2 v3
  extract_lets +onlyGivenNames l4_0
  clear_value l4_0
  split
  · refine ans_next ?_
    with_reducible assumption
  · refine ans_next ?_
    refine kept_failDrive (hF.sub rfl) _ _ _ ?_
    with_reducible assumption
theorem kept_execDriveTimeout (hF : Sub 47186443260 F) : ∀ a0 a1 a2, Kept F z a2 → (OnNext (Kept F z)) (Sys2Proof.Machine.execDriveTimeout a0 a1 a2) := by
  unfold Sys2Proof.Machine.execDriveTimeout
  intro v0 v1 v2 v3
  extract_lets +onlyGivenNames l4_0
  clear_value l4_0
  split
  · refine ans_next ?_
    with_reducible assumption
  · refine ans_next ?_
    refine kept_failDrive (hF.sub rfl) _ _ _ ?_
    with_reducible assumption

/-! ### Partitions -/

theorem kept_zeroExtent (hF : Sub 33184 F) : ∀ a0 a1, Kept F z a0 → (Kept F z) (Sys2Proof.zeroExtent a0 a1) := by
  unfold Sys2Proof.zeroExtent
  intro v0 v1 v2
  extract_lets +onlyGivenNames l3_0
  clear_value l3_0
  refine kept_modExt (hF.sub rfl) _ _ _ ?_
  refine kept_clearExtent (hF.sub rfl) _ _ ?_
  with_reducible assumption
theorem kept_createKeys (hF : Sub 8589934596 F) : ∀ a0 a1 a2, Kept F z a0 → (OnSnd (Kept F z)) (Sys2Proof.createKeys a0 a1 a2) := by
  unfold Sys2Proof.createKeys
  intro v0 v1 v2 v3
  split
  extract_lets +onlyGivenNames l5_0 l5_1 l5_2
  clear_value l5_0 l5_1
  split
  · refine snd_mk ?_
    dsimp -zeta only [l5_2]
    refine kept_mk ?_
    refine snd_eq (by assumption) (?_ : OnSnd (Kept F z) (Sys2Proof.drawBytes _ _))
    refine kept_drawBytes (hF.sub rfl) _ _ ?_
    with_reducible assumption
  · split
    split
    extract_lets +onlyGivenNames l15_0
    clear_value l15_0
    refine snd_mk ?_
    dsimp -zeta only [l5_2]
    refine kept_mk ?_
    split
    · refine snd_eq (by assumption) (?_ : OnSnd (Kept F z) (Sys2Proof.drawBytes _ _))
      refine kept_drawBytes (hF.sub rfl) _ _ ?_
      refine snd_eq (by assumption) (?_ : OnSnd (Kept F z) (Sys2Proof.drawBytes _ _))
      refine kept_drawBytes (hF.sub rfl) _ _ ?_
      refine snd_eq (by assumption) (?_ : OnSnd (Kept F z) (Sys2Proof.drawBytes _ _))
      refine kept_drawBytes (hF.sub rfl) _ _ ?_
      with_reducible assumption
    · refine kept_modJournal (hF.sub rfl) _ _ ?_
      refine snd_eq (by assumption) (?_ : OnSnd (Kept F z) (Sys2Proof.drawBytes _ _))
      refine kept_drawBytes (hF.sub rfl) _ _ ?_
      refine snd_eq (by assumption) (?_ : OnSnd (Kept F z) (Sys2Proof.drawBytes _ _))
      refine kept_drawBytes (hF.sub rfl) _ _ ?_
      refine snd_eq (by assumption) (?_ : OnSnd (Kept F z) (Sys2Proof.drawBytes _ _))
      refine kept_drawBytes (hF.sub rfl) _ _ ?_
      with_reducible assumption
theorem kept_createPart (hF : Sub 27917326756 F) : ∀ a0 a1 a2, Kept F z a0 → (Kept F z) (Sys2Proof.createPart a0 a1 a2) := by
  unfold Sys2Proof.createPart
  intro v0 v1 v2 v3
  extract_lets +onlyGivenNames l4_0 l4_1
  clear_value l4_0 l4_1
  split
  extract_lets +onlyGivenNames l6_0 l6_1 l6_2 l6_3
  clear_value l6_0 l6_1
  refine (fun (el6_2 : (Kept F z) l6_2) => ?_) ?_
  rotate_left
  · refine kept_mk ?_
    refine snd_eq (by assumption) (?_ : OnSnd (Kept F z) (Sys2Proof.createKeys _ _ _))
    refine kept_createKeys (hF.sub rfl) _ _ _ ?_
    with_reducible assumption
  clear_value l6_2
  refine (fun (el6_3 : (Kept F z) l6_3) => ?_) ?_
  rotate_left
  · refine kept_modOwner (hF.sub rfl) _ _ _ ?_
    with_reducible assumption
  clear_value l6_3
  extract_lets +onlyGivenNames l13_0
  refine (fun (el13_0 : (Kept F z) l13_0) => ?_) ?_
  rotate_left
  · refine foldl_kept (P := (Kept F z)) ?_ ?_
    · with_reducible assumption
    · intro v16 v17 v18
      refine foldl_kept (P := (Kept F z)) ?_ ?_
      · with_reducible assumption
      · intro v21 v22 v23
        refine kept_zeroExtent (hF.sub rfl) _ _ ?_
        with_reducible assumption
  clear_value l13_0
  refine kept_commandOn (hF.sub rfl) _ _ ?_
  with_reducible assumption
theorem kept_execPartitionCreate (hF : Sub 64366312445 F) : ∀ a0 a1 a2 a3 a4, Kept F z a4 → (OnNext (Kept F z)) (Sys2Proof.Machine.execPartitionCreate a0 a1 a2 a3 a4) := by
  unfold Sys2Proof.Machine.execPartitionCreate
  intro v0 v1 v2 v3 v4 v5
  split
  · refine ans_next ?_
    with_reducible assumption
  · extract_lets +onlyGivenNames l9_0
    clear_value l9_0
    refine ite_kept ?_ ?_
    · refine ans_next ?_
      refine kept_notManager (hF.sub rfl) _ _ ?_
      with_reducible assumption
    · refine ite_kept ?_ ?_
      · refine ans_next ?_
        refine kept_endDesc (hF.sub rfl) _ _ _ ?_
        with_reducible assumption
      · split
        · refine ans_next ?_
          refine kept_endDesc (hF.sub rfl) _ _ _ ?_
          with_reducible assumption
        · split
          · refine ans_next ?_
            with_reducible assumption
          · split
            · refine ans_next ?_
              refine kept_endDesc (hF.sub rfl) _ _ _ ?_
              with_reducible assumption
            · extract_lets +onlyGivenNames l29_0
              clear_value l29_0
              split
              · refine ans_next ?_
                refine kept_endDesc (hF.sub rfl) _ _ _ ?_
                with_reducible assumption
              · split
                · refine ans_next ?_
                  refine kept_endDesc (hF.sub rfl) _ _ _ ?_
                  with_reducible assumption
                · split
                  · refine ans_next ?_
                    refine kept_endDesc (hF.sub rfl) _ _ _ ?_
                    with_reducible assumption
                  · split
                    · refine ans_next ?_
                      refine kept_endDesc (hF.sub rfl) _ _ _ ?_
                      with_reducible assumption
                    · split
                      · refine ans_next ?_
                        with_reducible assumption
                      · split
                        · refine ans_next ?_
                          refine kept_endDesc (hF.sub rfl) _ _ _ ?_
                          with_reducible assumption
                        · split
                          · refine ans_next ?_
                            with_reducible assumption
                          · split
                            · refine ans_next ?_
                              refine kept_noKeys (hF.sub rfl) _ _ ?_
                              with_reducible assumption
                            · refine ans_next ?_
                              refine kept_endNow (hF.sub rfl) _ _ _ _ _ _ ?_
                              refine kept_createPart (hF.sub rfl) _ _ _ ?_
                              refine kept_atTime (hF.sub rfl) _ _ ?_
                              with_reducible assumption
theorem kept_execPartitionLock (hF : Sub 47186443260 F) : ∀ a0 a1 a2, Kept F z a2 → (OnNext (Kept F z)) (Sys2Proof.Machine.execPartitionLock a0 a1 a2) := by
  unfold Sys2Proof.Machine.execPartitionLock
  intro v0 v1 v2 v3
  split
  · refine ans_next ?_
    with_reducible assumption
  · extract_lets +onlyGivenNames l7_0
    clear_value l7_0
    split
    · refine ans_next ?_
      refine kept_notManager (hF.sub rfl) _ _ ?_
      with_reducible assumption
    · split
      · refine ans_next ?_
        refine kept_endDesc (hF.sub rfl) _ _ _ ?_
        with_reducible assumption
      · split
        · refine ans_next ?_
          refine kept_endDesc (hF.sub rfl) _ _ _ ?_
          with_reducible assumption
        · refine ans_next ?_
          refine kept_endNow (hF.sub rfl) _ _ _ _ _ _ ?_
          refine kept_modPart (hF.sub rfl) _ _ _ ?_
          with_reducible assumption
theorem kept_scrubFlush (hF : Sub 47186443260 F) : ∀ a0 a1, Kept F z a0 → (OnFst (Kept F z)) (Sys2Proof.scrubFlush a0 a1) := by
  unfold Sys2Proof.scrubFlush
  intro v0 v1 v2
  extract_lets +onlyGivenNames l3_0 l3_1 l3_2 l3_3 l3_4 l3_5
  clear_value l3_0
  refine (fun (el3_1 : (Kept F z) l3_1) => ?_) ?_
  rotate_left
  · refine kept_mk ?_
    with_reducible assumption
  clear_value l3_1 l3_2
  refine (fun (el3_3 : (Kept F z) l3_3) => ?_) ?_
  rotate_left
  · refine foldl_kept (P := (Kept F z)) ?_ ?_
    · with_reducible assumption
    · intro v8 v9 v10
      split
      · refine kept_stopDesc (hF.sub rfl) _ _ _ _ ?_
        with_reducible assumption
      · with_reducible assumption
  clear_value l3_3 l3_4
  refine (fun (el3_5 : (Kept F z) l3_5) => ?_) ?_
  rotate_left
  · refine kept_mk ?_
    with_reducible assumption
  clear_value l3_5
  extract_lets +onlyGivenNames l17_0 l17_1
  refine (fun (el17_0 : (Kept F z) l17_0) => ?_) ?_
  rotate_left
  · refine foldl_kept (P := (Kept F z)) ?_ ?_
    · with_reducible assumption
    · intro v20 v21 v22
      refine kept_homeFail (hF.sub rfl) _ _ _ _ _ ?_
      with_reducible assumption
  clear_value l17_0
  refine (fun (el17_1 : (Kept F z) l17_1) => ?_) ?_
  rotate_left
  · refine foldl_kept (P := (Kept F z)) ?_ ?_
    · with_reducible assumption
    · intro v27 v28 v29
      refine kept_fabReply (hF.sub rfl) _ _ _ _ _ _ _ _ _ ?_
      with_reducible assumption
  clear_value l17_1
  refine fst_mk ?_
  with_reducible assumption
theorem kept_scrubNet (hF : Sub 402679808 F) : ∀ a0 a1, Kept F z a0 → (Kept F z) (Sys2Proof.scrubNet a0 a1) := by
  unfold Sys2Proof.scrubNet
  intro v0 v1 v2
  extract_lets +onlyGivenNames l3_0 l3_1
  clear_value l3_0 l3_1
  extract_lets +onlyGivenNames l4_0
  refine (fun (el4_0 : (Kept F z) l4_0) => ?_) ?_
  rotate_left
  · refine kept_mk ?_
    with_reducible assumption
  clear_value l4_0
  refine foldl_kept (P := (Kept F z)) ?_ ?_
  · with_reducible assumption
  · intro v9 v10 v11
    split
    · refine kept_closeRing (hF.sub rfl) _ _ _ ?_
      with_reducible assumption
    · with_reducible assumption
theorem kept_scrubLent (hF : Sub 47186443260 F) : ∀ a0 a1, Kept F z a0 → (Kept F z) (Sys2Proof.scrubLent a0 a1) := by
  unfold Sys2Proof.scrubLent
  intro v0 v1 v2
  refine foldl_kept (P := (Kept F z)) ?_ ?_
  · with_reducible assumption
  · intro v5 v6 v7
    extract_lets +onlyGivenNames l8_0
    refine (fun (el8_0 : (Kept F z) l8_0) => ?_) ?_
    rotate_left
    · refine fst_of (P := (Kept F z)) ?_
      refine kept_reclaimLent (hF.sub rfl) _ _ _ ?_
      with_reducible assumption
    clear_value l8_0
    split
    · refine kept_modExt (hF.sub rfl) _ _ _ ?_
      with_reducible assumption
    · with_reducible assumption
theorem kept_execPartitionRemove (hF : Sub 68661279741 F) : ∀ a0 a1 a2 a3, Kept F z a3 → (OnNext (Kept F z)) (Sys2Proof.Machine.execPartitionRemove a0 a1 a2 a3) := by
  unfold Sys2Proof.Machine.execPartitionRemove
  intro v0 v1 v2 v3 v4
  split
  · refine ans_next ?_
    with_reducible assumption
  · extract_lets +onlyGivenNames l8_0
    clear_value l8_0
    split
    · refine ans_next ?_
      refine kept_notManager (hF.sub rfl) _ _ ?_
      with_reducible assumption
    · split
      · refine ans_next ?_
        refine kept_endDesc (hF.sub rfl) _ _ _ ?_
        with_reducible assumption
      · split
        · refine ans_next ?_
          refine kept_endDesc (hF.sub rfl) _ _ _ ?_
          with_reducible assumption
        · extract_lets +onlyGivenNames l21_0 l21_1 l21_2
          refine (fun (el21_0 : (Kept F z) l21_0) => ?_) ?_
          rotate_left
          · refine kept_yieldBelfry (hF.sub rfl) _ ?_
            refine kept_putDesc (hF.sub rfl) _ _ ?_
            refine kept_atTime (hF.sub rfl) _ _ ?_
            with_reducible assumption
          clear_value l21_0
          refine (fun (el21_1 : (Kept F z) l21_1) => ?_) ?_
          rotate_left
          · refine kept_modPart (hF.sub rfl) _ _ _ ?_
            with_reducible assumption
          clear_value l21_1
          refine (fun (el21_2 : (Kept F z) l21_2) => ?_) ?_
          rotate_left
          · refine kept_commandOn (hF.sub rfl) _ _ ?_
            with_reducible assumption
          clear_value l21_2
          split
          extract_lets +onlyGivenNames l31_0
          refine (fun (el31_0 : (Kept F z) l31_0) => ?_) ?_
          rotate_left
          · refine kept_scrubLent (hF.sub rfl) _ _ ?_
            refine kept_scrubNet (hF.sub rfl) _ _ ?_
            refine fst_eq (by assumption) (?_ : OnFst (Kept F z) (Sys2Proof.scrubFlush _ _))
            refine kept_scrubFlush (hF.sub rfl) _ _ ?_
            with_reducible assumption
          clear_value l31_0
          refine ans_next ?_
          refine kept_modPart (hF.sub rfl) _ _ _ ?_
          with_reducible assumption
theorem kept_dropQps (hF : Sub 268443648 F) : ∀ a0 a1, Kept F z a0 → (Kept F z) (Sys2Proof.dropQps a0 a1) := by
  unfold Sys2Proof.dropQps
  intro v0 v1 v2
  refine kept_mk ?_
  with_reducible assumption
theorem kept_execEgressDrainEnd (hF : Sub 805318657 F) : ∀ a0 a1 a2, Kept F z a2 → (OnNext (Kept F z)) (Sys2Proof.Machine.execEgressDrainEnd a0 a1 a2) := by
  unfold Sys2Proof.Machine.execEgressDrainEnd
  intro v0 v1 v2 v3
  split
  · refine ans_next ?_
    with_reducible assumption
  · split
    · refine ans_next ?_
      with_reducible assumption
    · extract_lets +onlyGivenNames l10_0 l10_1 l10_2 l10_3
      refine (fun (el10_0 : (Kept F z) l10_0) => ?_) ?_
      rotate_left
      · refine kept_atTime (hF.sub rfl) _ _ ?_
        with_reducible assumption
      clear_value l10_0 l10_1 l10_2
      refine (fun (el10_3 : (Kept F z) l10_3) => ?_) ?_
      rotate_left
      · refine kept_mk ?_
        with_reducible assumption
      clear_value l10_3
      extract_lets +onlyGivenNames l15_0
      refine (fun (el15_0 : (Kept F z) l15_0) => ?_) ?_
      rotate_left
      · refine kept_dropQps (hF.sub rfl) _ _ ?_
        with_reducible assumption
      clear_value l15_0
      refine ans_next ?_
      refine kept_modPart (hF.sub rfl) _ _ _ ?_
      with_reducible assumption
theorem kept_scrubSteps (hF : Sub 11878501344 F) : ∀ a0 a1, Kept F z a0 → (OnFst (Kept F z)) (Sys2Proof.scrubSteps a0 a1) := by
  unfold Sys2Proof.scrubSteps
  intro v0 v1 v2
  extract_lets +onlyGivenNames l3_0 l3_1 l3_2 l3_3 l3_4 l3_5 l3_6 l3_7 l3_8 l3_9 l3_10
  clear_value l3_0 l3_1 l3_2 l3_3 l3_4 l3_5 l3_6 l3_7 l3_8
  refine (fun (el3_9 : (Kept F z) l3_9) => ?_) ?_
  rotate_left
  · refine kept_mk ?_
    with_reducible assumption
  clear_value l3_9
  refine (fun (el3_10 : (Kept F z) l3_10) => ?_) ?_
  rotate_left
  · refine kept_modOwner (hF.sub rfl) _ _ _ ?_
    with_reducible assumption
  clear_value l3_10
  extract_lets +onlyGivenNames l8_0 l8_1 l8_2
  refine (fun (el8_0 : (Kept F z) l8_0) => ?_) ?_
  rotate_left
  · refine kept_modLd (hF.sub rfl) _ _ _ ?_
    with_reducible assumption
  clear_value l8_0
  refine (fun (el8_1 : (Kept F z) l8_1) => ?_) ?_
  rotate_left
  · refine foldl_kept (P := (Kept F z)) ?_ ?_
    · with_reducible assumption
    · intro v13 v14 v15
      refine foldl_kept (P := (Kept F z)) ?_ ?_
      · with_reducible assumption
      · intro v18 v19 v20
        refine kept_clearExtent (hF.sub rfl) _ _ ?_
        with_reducible assumption
  clear_value l8_1
  refine (fun (el8_2 : (Kept F z) l8_2) => ?_) ?_
  rotate_left
  · refine foldl_kept (P := (Kept F z)) ?_ ?_
    · with_reducible assumption
    · intro v25 v26 v27
      refine foldl_kept (P := (Kept F z)) ?_ ?_
      · with_reducible assumption
      · intro v30 v31 v32
        refine kept_modExt (hF.sub rfl) _ _ _ ?_
        with_reducible assumption
  clear_value l8_2
  refine fst_mk ?_
  with_reducible assumption
theorem kept_execScrubComplete (hF : Sub 47186443261 F) : ∀ a0 a1 a2, Kept F z a2 → (OnNext (Kept F z)) (Sys2Proof.Machine.execScrubComplete a0 a1 a2) := by
  unfold Sys2Proof.Machine.execScrubComplete
  intro v0 v1 v2 v3
  split
  · refine ans_next ?_
    with_reducible assumption
  · split
    · refine ans_next ?_
      with_reducible assumption
    · split
      extract_lets +onlyGivenNames l11_0 l11_1 l11_2
      clear_value l11_0
      refine (fun (el11_1 : (Kept F z) l11_1) => ?_) ?_
      rotate_left
      · refine kept_mk ?_
        refine fst_eq (by assumption) (?_ : OnFst (Kept F z) (Sys2Proof.scrubSteps _ _))
        refine kept_scrubSteps (hF.sub rfl) _ _ ?_
        refine kept_atTime (hF.sub rfl) _ _ ?_
        with_reducible assumption
      clear_value l11_1
      refine (fun (el11_2 : (Kept F z) l11_2) => ?_) ?_
      rotate_left
      · dsimp -zeta only [l11_2]
        split
        · refine kept_endNow (hF.sub rfl) _ _ _ _ _ _ ?_
          with_reducible assumption
        · with_reducible assumption
      clear_value l11_2
      refine ans_next ?_
      refine kept_postFm (hF.sub rfl) _ _ _ _ _ _ _ ?_
      with_reducible assumption
theorem kept_execCertGet (hF : Sub 12 F) : ∀ a0 a1 a2, Kept F z a2 → (OnNext (Kept F z)) (Sys2Proof.Machine.execCertGet a0 a1 a2) := by
  unfold Sys2Proof.Machine.execCertGet
  intro v0 v1 v2 v3
  refine ans_next ?_
  refine kept_mboxRun (hF.sub rfl) _ _ _ _ _ _ _ ?_ ?_
  · with_reducible assumption
  · intro v7
    extract_lets +onlyGivenNames l8_0 l8_1
    clear_value l8_0 l8_1
    split
    · refine kept_mboxReply (hF.sub rfl) _ _ _ _ _ _ _ _ _ ?_
      with_reducible assumption
    · split
      · refine kept_mboxReply (hF.sub rfl) _ _ _ _ _ _ _ _ _ ?_
        with_reducible assumption
      · refine kept_mboxReply (hF.sub rfl) _ _ _ _ _ _ _ _ _ ?_
        with_reducible assumption
theorem kept_execAttest (hF : Sub 8589934605 F) : ∀ a0 a1 a2 a3, Kept F z a3 → (OnNext (Kept F z)) (Sys2Proof.Machine.execAttest a0 a1 a2 a3) := by
  unfold Sys2Proof.Machine.execAttest
  intro v0 v1 v2 v3 v4
  refine ans_next ?_
  refine kept_mboxRun (hF.sub rfl) _ _ _ _ _ _ _ ?_ ?_
  · refine kept_atTime (hF.sub rfl) _ _ ?_
    with_reducible assumption
  · intro v9
    extract_lets +onlyGivenNames l10_0
    refine (fun (el10_0 : (Kept F z) l10_0) => ?_) ?_
    rotate_left
    · refine kept_atTime (hF.sub rfl) _ _ ?_
      with_reducible assumption
    clear_value l10_0
    split
    · refine kept_mboxReply (hF.sub rfl) _ _ _ _ _ _ _ _ _ ?_
      with_reducible assumption
    · extract_lets +onlyGivenNames l16_0
      clear_value l16_0
      split
      extract_lets +onlyGivenNames l18_0 l18_1 l18_2 l18_3
      clear_value l18_0 l18_1 l18_2 l18_3
      extract_lets +onlyGivenNames l19_0
      refine (fun (el19_0 : (Kept F z) l19_0) => ?_) ?_
      rotate_left
      · refine kept_mk ?_
        refine snd_eq (by assumption) (?_ : OnSnd (Kept F z) (Sys2Proof.draw _))
        refine kept_draw (hF.sub rfl) _ ?_
        with_reducible assumption
      clear_value l19_0
      refine kept_mboxReply (hF.sub rfl) _ _ _ _ _ _ _ _ _ ?_
      with_reducible assumption
theorem kept_belfryRun (hF : Sub 12 F) : ∀ a0 a1 a2 a3 a4 a5, Kept F z a0 → (∀ x0, (Kept F z) (a5 x0)) → (Kept F z) (Sys2Proof.belfryRun a0 a1 a2 a3 a4 a5) := by
  unfold Sys2Proof.belfryRun
  intro v0 v1 v2 v3 v4 v5 v6 v7
  refine kept_mboxRun (hF.sub rfl) _ _ _ _ _ _ _ ?_ ?_
  · with_reducible assumption
  · intro v10
    split
    · refine kept_mboxReply (hF.sub rfl) _ _ _ _ _ _ _ _ _ ?_
      with_reducible assumption
    · split
      · refine kept_mboxReply (hF.sub rfl) _ _ _ _ _ _ _ _ _ ?_
        with_reducible assumption
      · refine v7 _
theorem kept_execSessionOpen (hF : Sub 8589934605 F) : ∀ a0 a1 a2 a3, Kept F z a3 → (OnNext (Kept F z)) (Sys2Proof.Machine.execSessionOpen a0 a1 a2 a3) := by
  unfold Sys2Proof.Machine.execSessionOpen
  intro v0 v1 v2 v3 v4
  extract_lets +onlyGivenNames l5_0
  refine (fun (el5_0 : (Kept F z) l5_0) => ?_) ?_
  rotate_left
  · refine kept_atTime (hF.sub rfl) _ _ ?_
    with_reducible assumption
  clear_value l5_0
  refine ans_next ?_
  refine kept_belfryRun (hF.sub rfl) _ _ _ _ _ _ ?_ ?_
  · with_reducible assumption
  · intro v11
    extract_lets +onlyGivenNames l12_0
    clear_value l12_0
    split
    · refine kept_mboxReply (hF.sub rfl) _ _ _ _ _ _ _ _ _ ?_
      with_reducible assumption
    · split
      · refine kept_mboxReply (hF.sub rfl) _ _ _ _ _ _ _ _ _ ?_
        with_reducible assumption
      · split
        · refine kept_mboxReply (hF.sub rfl) _ _ _ _ _ _ _ _ _ ?_
          with_reducible assumption
        · extract_lets +onlyGivenNames l22_0 l22_1 l22_2
          clear_value l22_0 l22_1 l22_2
          extract_lets +onlyGivenNames l23_0
          refine (fun (el23_0 : (Kept F z) l23_0) => ?_) ?_
          rotate_left
          · refine kept_mk ?_
            with_reducible assumption
          clear_value l23_0
          refine kept_mboxReply (hF.sub rfl) _ _ _ _ _ _ _ _ _ ?_
          with_reducible assumption
theorem kept_execKeyInstall (hF : Sub 8589934604 F) : ∀ a0 a1 a2, Kept F z a2 → (OnNext (Kept F z)) (Sys2Proof.Machine.execKeyInstall a0 a1 a2) := by
  unfold Sys2Proof.Machine.execKeyInstall
  intro v0 v1 v2 v3
  refine ans_next ?_
  refine kept_belfryRun (hF.sub rfl) _ _ _ _ _ _ ?_ ?_
  · with_reducible assumption
  · intro v7
    extract_lets +onlyGivenNames l8_0
    clear_value l8_0
    split
    · refine kept_mboxReply (hF.sub rfl) _ _ _ _ _ _ _ _ _ ?_
      with_reducible assumption
    · split
      · refine kept_mboxReply (hF.sub rfl) _ _ _ _ _ _ _ _ _ ?_
        with_reducible assumption
      · extract_lets +onlyGivenNames l15_0
        clear_value l15_0
        split
        · refine kept_mboxReply (hF.sub rfl) _ _ _ _ _ _ _ _ _ ?_
          with_reducible assumption
        · split
          · refine kept_mboxReply (hF.sub rfl) _ _ _ _ _ _ _ _ _ ?_
            with_reducible assumption
          · split
            · refine kept_mboxReply (hF.sub rfl) _ _ _ _ _ _ _ _ _ ?_
              with_reducible assumption
            · extract_lets +onlyGivenNames l25_0 l25_1
              clear_value l25_0 l25_1
              extract_lets +onlyGivenNames l26_0
              refine (fun (el26_0 : (Kept F z) l26_0) => ?_) ?_
              rotate_left
              · refine kept_mk ?_
                with_reducible assumption
              clear_value l26_0
              refine kept_mboxReply (hF.sub rfl) _ _ _ _ _ _ _ _ _ ?_
              with_reducible assumption
theorem kept_execKeyRemove (hF : Sub 8589934604 F) : ∀ a0 a1 a2, Kept F z a2 → (OnNext (Kept F z)) (Sys2Proof.Machine.execKeyRemove a0 a1 a2) := by
  unfold Sys2Proof.Machine.execKeyRemove
  intro v0 v1 v2 v3
  refine ans_next ?_
  refine kept_belfryRun (hF.sub rfl) _ _ _ _ _ _ ?_ ?_
  · with_reducible assumption
  · intro v7
    extract_lets +onlyGivenNames l8_0
    clear_value l8_0
    split
    · split
      · refine kept_mboxReply (hF.sub rfl) _ _ _ _ _ _ _ _ _ ?_
        with_reducible assumption
      · refine kept_mboxReply (hF.sub rfl) _ _ _ _ _ _ _ _ _ ?_
        refine kept_mk ?_
        with_reducible assumption
    · refine kept_mboxReply (hF.sub rfl) _ _ _ _ _ _ _ _ _ ?_
      with_reducible assumption
theorem kept_execEncapKeyExpire (hF : Sub 8589934593 F) : ∀ a0 a1 a2, Kept F z a2 → (OnNext (Kept F z)) (Sys2Proof.Machine.execEncapKeyExpire a0 a1 a2) := by
  unfold Sys2Proof.Machine.execEncapKeyExpire
  intro v0 v1 v2 v3
  split
  · split
    · refine ans_next ?_
      with_reducible assumption
    · refine ans_next ?_
      extract_lets +onlyGivenNames l9_0
      refine (fun (el9_0 : (Kept F z) l9_0) => ?_) ?_
      rotate_left
      · refine kept_atTime (hF.sub rfl) _ _ ?_
        with_reducible assumption
      clear_value l9_0
      refine kept_mk ?_
      with_reducible assumption
  · refine ans_next ?_
    with_reducible assumption
theorem kept_execKeyJournalErase (hF : Sub 8589934592 F) : ∀ a0, Kept F z a0 → (OnNext (Kept F z)) (Sys2Proof.Machine.execKeyJournalErase a0) := by
  unfold Sys2Proof.Machine.execKeyJournalErase
  intro v0 v1
  refine ans_next ?_
  refine kept_modJournal (hF.sub rfl) _ _ ?_
  with_reducible assumption

end Sys2Proof.Laws
end

