-- ==== Sys2Proof/Laws/KeptRegs.lean ====
section
/-!
SUPPORT. What the definitions of rings, registers, the monitor and the loader keep (Laws/Kept.lean).
-/
namespace Sys2Proof.Laws

set_option maxRecDepth 4000

set_option Elab.async false

open Sys2Proof.Machine (State Fault Refusal)

variable {z : State} {F : Nat}

/-! ### RegOps -/

theorem kept_stateOf (hF : Sub 0 F) : ∀ a0 a1, Kept F z a0 → (OnNext (Kept F z)) (a1) → (Kept F z) (Sys2Proof.stateOf a0 a1) := by
  unfold Sys2Proof.stateOf
  intro v0 v1 v2 v3
  split
  · exact v3
  · with_reducible assumption

/-! ### Rings -/

theorem kept_chimeConsumed (hF : Sub 2056 F) : ∀ a0 a1 a2 a3, Kept F z a0 → (Kept F z) (Sys2Proof.chimeConsumed a0 a1 a2 a3) := by
  unfold Sys2Proof.chimeConsumed
  intro v0 v1 v2 v3 v4
  extract_lets +onlyGivenNames l5_0 l5_1 l5_2 l5_3
  clear_value l5_0 l5_1
  refine (fun (el5_2 : (Kept F z) l5_2) => ?_) ?_
  rotate_left
  · refine kept_modRing (hF.sub rfl) _ _ _ _ ?_
    with_reducible assumption
  clear_value l5_2 l5_3
  split
  · with_reducible assumption
  · split
    · refine kept_modRing (hF.sub rfl) _ _ _ _ ?_
      with_reducible assumption
    · split
      · refine kept_sendMsix (hF.sub rfl) _ _ _ ?_
        refine kept_modRing (hF.sub rfl) _ _ _ _ ?_
        with_reducible assumption
      · with_reducible assumption
theorem kept_completionError (hF : Sub 2072 F) : ∀ a0 a1 a2, Kept F z a0 → (Kept F z) (Sys2Proof.completionError a0 a1 a2) := by
  unfold Sys2Proof.completionError
  intro v0 v1 v2 v3
  extract_lets +onlyGivenNames l4_0
  clear_value l4_0
  refine foldl_kept (P := (Kept F z)) ?_ ?_
  · refine kept_ringError (hF.sub rfl) _ _ _ _ ?_
    with_reducible assumption
  · intro v8 v9 v10
    refine kept_ringError (hF.sub rfl) _ _ _ _ ?_
    with_reducible assumption
theorem kept_takeDoorbell (hF : Sub 2072 F) : ∀ a0 a1 a2, Kept F z a0 → (Kept F z) (Sys2Proof.takeDoorbell a0 a1 a2) := by
  unfold Sys2Proof.takeDoorbell
  intro v0 v1 v2 v3
  extract_lets +onlyGivenNames l4_0
  clear_value l4_0
  split
  · with_reducible assumption
  · extract_lets +onlyGivenNames l7_0 l7_1
    clear_value l7_0 l7_1
    split
    · extract_lets +onlyGivenNames l9_0
      refine (fun (el9_0 : (Kept F z) l9_0) => ?_) ?_
      rotate_left
      · dsimp -zeta only [l9_0]
        split
        · with_reducible assumption
        · refine kept_count (hF.sub rfl) _ _ _ _ ?_
          with_reducible assumption
      clear_value l9_0
      refine kept_modRing (hF.sub rfl) _ _ _ _ ?_
      with_reducible assumption
    · extract_lets +onlyGivenNames l17_0
      refine (fun (el17_0 : (Kept F z) l17_0) => ?_) ?_
      rotate_left
      · refine kept_modRing (hF.sub rfl) _ _ _ _ ?_
        with_reducible assumption
      clear_value l17_0
      split
      · split
        · refine kept_ringError (hF.sub rfl) _ _ _ _ ?_
          with_reducible assumption
        · refine kept_modRing (hF.sub rfl) _ _ _ _ ?_
          with_reducible assumption
      · split
        · refine kept_completionError (hF.sub rfl) _ _ _ ?_
          with_reducible assumption
        · refine kept_modRing (hF.sub rfl) _ _ _ _ ?_
          with_reducible assumption
      · split
        · refine kept_ringError (hF.sub rfl) _ _ _ _ ?_
          with_reducible assumption
        · refine kept_chimeConsumed (hF.sub rfl) _ _ _ _ ?_
          with_reducible assumption
      · with_reducible assumption
theorem kept_execDoorbellFetch (hF : Sub 22557 F) : ∀ a0 a1 a2 a3 a4 a5, Kept F z a5 → (OnNext (Kept F z)) (Sys2Proof.Machine.execDoorbellFetch a0 a1 a2 a3 a4 a5) := by
  unfold Sys2Proof.Machine.execDoorbellFetch
  intro v0 v1 v2 v3 v4 v5 v6
  extract_lets +onlyGivenNames l7_0 l7_1
  refine (fun (el7_0 : (Kept F z) l7_0) => ?_) ?_
  rotate_left
  · refine kept_mk ?_
    with_reducible assumption
  clear_value l7_0 l7_1
  split
  · refine ans_next ?_
    with_reducible assumption
  · extract_lets +onlyGivenNames l13_0 l13_1 l13_2 l13_3 l13_4 l13_5
    refine (fun (el13_0 : (Kept F z) l13_0) => ?_) ?_
    rotate_left
    · refine kept_atTime (hF.sub rfl) _ _ ?_
      with_reducible assumption
    clear_value l13_0 l13_1
    refine (fun (el13_2 : (Kept F z) l13_2) => ?_) ?_
    rotate_left
    · dsimp -zeta only [l13_2]
      split
      · refine foldl_kept (P := (Kept F z)) ?_ ?_
        · with_reducible assumption
        · intro v20 v21 v22
          refine kept_takeDoorbell (hF.sub rfl) _ _ _ ?_
          with_reducible assumption
      · refine foldl_kept (P := (Kept F z)) ?_ ?_
        · with_reducible assumption
        · intro v27 v28 v29
          split
          · refine kept_ringError (hF.sub rfl) _ _ _ _ ?_
            with_reducible assumption
          · with_reducible assumption
    clear_value l13_2 l13_3
    refine (fun (el13_4 : (Kept F z) l13_4) => ?_) ?_
    rotate_left
    · refine kept_pumpOwner (hF.sub rfl) _ _ _ ?_
      with_reducible assumption
    clear_value l13_4 l13_5
    refine ans_next ?_
    refine kept_modOwner (hF.sub rfl) _ _ _ ?_
    with_reducible assumption
theorem kept_startStep (hF : Sub 47186443260 F) : ∀ a0 a1 a2, Kept F z a0 → (Kept F z) (Sys2Proof.startStep a0 a1 a2) := by
  unfold Sys2Proof.startStep
  intro v0 v1 v2 v3
  extract_lets +onlyGivenNames l4_0 l4_1 l4_2 l4_3 l4_4 l4_5 l4_6 l4_7 l4_8 l4_9 l4_10 l4_11
  clear_value l4_0 l4_1 l4_2 l4_3 l4_4
  refine (fun (el4_5 : (Kept F z) l4_5) => ?_) ?_
  rotate_left
  · refine kept_finalProgress (hF.sub rfl) _ _ ?_
    with_reducible assumption
  clear_value l4_5
  refine (fun (el4_6 : (Kept F z) l4_6) => ?_) ?_
  rotate_left
  · refine foldl_kept (P := (Kept F z)) ?_ ?_
    · with_reducible assumption
    · intro v9 v10 v11
      split
      · split
        · refine kept_unpinFrame (hF.sub rfl) _ _ ?_
          with_reducible assumption
        · with_reducible assumption
      · with_reducible assumption
  clear_value l4_6
  refine (fun (el4_7 : (Kept F z) l4_7) => ?_) ?_
  rotate_left
  · refine kept_mk ?_
    with_reducible assumption
  clear_value l4_7 l4_8
  refine (fun (el4_9 : (Kept F z) l4_9) => ?_) ?_
  rotate_left
  · refine kept_removeOps (hF.sub rfl) _ _ _ ?_
    with_reducible assumption
  clear_value l4_9 l4_10
  refine (fun (el4_11 : (Kept F z) l4_11) => ?_) ?_
  rotate_left
  · refine kept_dropOld (hF.sub rfl) _ _ ?_
    refine kept_putDesc (hF.sub rfl) _ _ ?_
    with_reducible assumption
  clear_value l4_11
  split
  · refine kept_putDesc (hF.sub rfl) _ _ ?_
    with_reducible assumption
  · split
    · refine kept_putDesc (hF.sub rfl) _ _ ?_
      with_reducible assumption
    · split
      · refine kept_stopDesc (hF.sub rfl) _ _ _ _ ?_
        with_reducible assumption
      · split
        · refine kept_putDesc (hF.sub rfl) _ _ ?_
          with_reducible assumption
        · split
          refine kept_putDesc (hF.sub rfl) _ _ ?_
          refine fst_eq (by assumption) (?_ : OnFst (Kept F z) (Sys2Proof.takeLocks _ _))
          refine kept_takeLocks (hF.sub rfl) _ _ ?_
          with_reducible assumption
theorem kept_execProgramInvoke (hF : Sub 47186443260 F) : ∀ a0 a1 a2, Kept F z a2 → (OnNext (Kept F z)) (Sys2Proof.Machine.execProgramInvoke a0 a1 a2) := by
  unfold Sys2Proof.Machine.execProgramInvoke
  intro v0 v1 v2 v3
  split
  · split
    · refine ans_next ?_
      refine kept_startStep (hF.sub rfl) _ _ _ ?_
      with_reducible assumption
    · refine ans_next ?_
      with_reducible assumption
  · refine ans_next ?_
    with_reducible assumption
theorem kept_execProgramStep (hF : Sub 47186443260 F) : ∀ a0 a1 a2, Kept F z a2 → (OnNext (Kept F z)) (Sys2Proof.Machine.execProgramStep a0 a1 a2) := by
  unfold Sys2Proof.Machine.execProgramStep
  intro v0 v1 v2 v3
  split
  · split
    · split
      · refine ans_next ?_
        refine kept_startStep (hF.sub rfl) _ _ _ ?_
        with_reducible assumption
      · refine ans_next ?_
        with_reducible assumption
    · refine ans_next ?_
      with_reducible assumption
  · refine ans_next ?_
    with_reducible assumption
theorem kept_execDescriptorCommit (hF : Sub 47186443261 F) : ∀ a0 a1 a2 a3, Kept F z a3 → (OnNext (Kept F z)) (Sys2Proof.Machine.execDescriptorCommit a0 a1 a2 a3) := by
  unfold Sys2Proof.Machine.execDescriptorCommit
  intro v0 v1 v2 v3 v4
  split
  · split
    · refine ans_next ?_
      refine kept_settleDrains (hF.sub rfl) _ ?_
      refine kept_retire (hF.sub rfl) _ _ _ ?_
      refine kept_changeQps (hF.sub rfl) _ _ ?_
      refine kept_atTime (hF.sub rfl) _ _ ?_
      with_reducible assumption
    · refine ans_next ?_
      with_reducible assumption
  · refine ans_next ?_
    with_reducible assumption
theorem kept_mixCopy (hF : Sub 1012 F) : ∀ a0 a1 a2 a3 a4, Kept F z a0 → (Kept F z) (Sys2Proof.mixCopy a0 a1 a2 a3 a4) := by
  unfold Sys2Proof.mixCopy
  intro v0 v1 v2 v3 v4 v5
  extract_lets +onlyGivenNames l6_0 l6_1 l6_2 l6_3
  clear_value l6_0 l6_1 l6_2 l6_3
  refine kept_mixLoc (hF.sub rfl) _ _ _ ?_
  with_reducible assumption
theorem kept_execCopy (hF : Sub 17180148724 F) : ∀ a0 a1 a2 a3, Kept F z a3 → (OnNext (Kept F z)) (Sys2Proof.Machine.execCopy a0 a1 a2 a3) := by
  unfold Sys2Proof.Machine.execCopy
  intro v0 v1 v2 v3 v4
  split
  · refine ans_next ?_
    with_reducible assumption
  · extract_lets +onlyGivenNames l8_0
    clear_value l8_0
    split
    · split
      refine ans_next ?_
      refine kept_putDesc (hF.sub rfl) _ _ ?_
      refine snd_eq (by assumption) (?_ : OnSnd (Kept F z) (Sys2Proof.draw _))
      refine kept_draw (hF.sub rfl) _ ?_
      with_reducible assumption
    · split
      · refine ans_next ?_
        refine kept_putDesc (hF.sub rfl) _ _ ?_
        with_reducible assumption
      · refine ans_next ?_
        refine kept_putDesc (hF.sub rfl) _ _ ?_
        with_reducible assumption
      · split
        · refine ans_next ?_
          with_reducible assumption
        · split
          · split
            refine ans_next ?_
            refine kept_putDesc (hF.sub rfl) _ _ ?_
            refine snd_eq (by assumption) (?_ : OnSnd (Kept F z) (Sys2Proof.draw _))
            refine kept_draw (hF.sub rfl) _ ?_
            with_reducible assumption
          · split
            · refine ans_next ?_
              refine kept_putDesc (hF.sub rfl) _ _ ?_
              with_reducible assumption
            · split
              · refine ans_next ?_
                refine kept_putDesc (hF.sub rfl) _ _ ?_
                with_reducible assumption
              · refine ans_next ?_
                with_reducible assumption
              · split
                · refine ans_next ?_
                  refine kept_queueAccess (hF.sub rfl) _ _ _ ?_
                  with_reducible assumption
                · refine ans_next ?_
                  refine kept_withDoms (hF.sub rfl) _ _ _ ?_ ?_
                  · with_reducible assumption
                  · intro v50 v51
                    split
                    · refine kept_putDesc (hF.sub rfl) _ _ ?_
                      refine kept_mixCopy (hF.sub rfl) _ _ _ _ _ ?_
                      with_reducible assumption
                    · split
                      · refine kept_putDesc (hF.sub rfl) _ _ ?_
                        refine kept_mixCopy (hF.sub rfl) _ _ _ _ _ ?_
                        with_reducible assumption
                      · refine kept_putDesc (hF.sub rfl) _ _ ?_
                        refine kept_writeLoc (hF.sub rfl) _ _ _ _ _ ?_
                        with_reducible assumption
theorem kept_abortWaiting (hF : Sub 2076 F) : ∀ a0 a1 a2 a3 a4, Kept F z a0 → (OnSome (Kept F z)) (Sys2Proof.abortWaiting a0 a1 a2 a3 a4) := by
  unfold Sys2Proof.abortWaiting
  intro v0 v1 v2 v3 v4 v5
  split
  · exact opt_none
  · extract_lets +onlyGivenNames l8_0 l8_1
    clear_value l8_0 l8_1
    split
    extract_lets +onlyGivenNames l10_0
    refine (fun (el10_0 : (Kept F z) l10_0) => ?_) ?_
    rotate_left
    · refine kept_modRing (hF.sub rfl) _ _ _ _ ?_
      refine kept_modRing (hF.sub rfl) _ _ _ _ ?_
      refine fst_eq (by assumption) (?_ : OnFst (Kept F z) (Sys2Proof.settleResults _ _))
      refine kept_settleResults (hF.sub rfl) _ _ ?_
      with_reducible assumption
    clear_value l10_0
    refine opt_some ?_
    refine kept_complete (hF.sub rfl) _ _ ?_
    with_reducible assumption
theorem kept_execFence (hF : Sub 16388 F) : ∀ a0 a1 a2, Kept F z a2 → (OnNext (Kept F z)) (Sys2Proof.Machine.execFence a0 a1 a2) := by
  unfold Sys2Proof.Machine.execFence
  intro v0 v1 v2 v3
  split
  · refine ans_next ?_
    with_reducible assumption
  · split
    · split
      refine ans_next ?_
      refine kept_putDesc (hF.sub rfl) _ _ ?_
      refine snd_eq (by assumption) (?_ : OnSnd (Kept F z) (Sys2Proof.draw _))
      refine kept_draw (hF.sub rfl) _ ?_
      with_reducible assumption
    · extract_lets +onlyGivenNames l14_0 l14_1
      clear_value l14_0 l14_1
      split
      · refine ans_next ?_
        with_reducible assumption
      · extract_lets +onlyGivenNames l18_0 l18_1
        clear_value l18_0 l18_1
        refine ans_next ?_
        refine kept_putDesc (hF.sub rfl) _ _ ?_
        with_reducible assumption
theorem kept_abortRefused (hF : Sub 16388 F) : ∀ a0 a1, Kept F z a0 → (Kept F z) (Sys2Proof.abortRefused a0 a1) := by
  unfold Sys2Proof.abortRefused
  intro v0 v1 v2
  split
  refine kept_putDesc (hF.sub rfl) _ _ ?_
  refine snd_eq (by assumption) (?_ : OnSnd (Kept F z) (Sys2Proof.draw _))
  refine kept_draw (hF.sub rfl) _ ?_
  with_reducible assumption
theorem kept_abortIndex (hF : Sub 22557 F) : ∀ a0 a1 a2 a3 a4, Kept F z a0 → (Kept F z) (Sys2Proof.abortIndex a0 a1 a2 a3 a4) := by
  unfold Sys2Proof.abortIndex
  intro v0 v1 v2 v3 v4 v5
  extract_lets +onlyGivenNames l6_0 l6_1
  clear_value l6_0 l6_1
  split
  · refine kept_putDesc (hF.sub rfl) _ _ ?_
    with_reducible assumption
  · split
    · refine kept_abortRefused (hF.sub rfl) _ _ ?_
      with_reducible assumption
    · extract_lets +onlyGivenNames l13_0
      clear_value l13_0
      split
      · refine kept_abortRefused (hF.sub rfl) _ _ ?_
        with_reducible assumption
      · split
        · with_reducible assumption
        · refine kept_pumpOwner (hF.sub rfl) _ _ _ ?_
          refine kept_putDesc (hF.sub rfl) _ _ ?_
          refine opt_eq (by assumption) (?_ : OnSome (Kept F z) (Sys2Proof.abortWaiting _ _ _ _ _))
          refine kept_abortWaiting (hF.sub rfl) _ _ _ _ _ ?_
          refine kept_atTime (hF.sub rfl) _ _ ?_
          with_reducible assumption
theorem kept_execAbort (hF : Sub 47186443261 F) : ∀ a0 a1 a2 a3, Kept F z a3 → (OnNext (Kept F z)) (Sys2Proof.Machine.execAbort a0 a1 a2 a3) := by
  unfold Sys2Proof.Machine.execAbort
  intro v0 v1 v2 v3 v4
  split
  · refine ans_next ?_
    with_reducible assumption
  · extract_lets +onlyGivenNames l8_0
    clear_value l8_0
    split
    · refine ans_next ?_
      refine kept_abortRefused (hF.sub rfl) _ _ ?_
      with_reducible assumption
    · split
      · refine ans_next ?_
        split
        · refine kept_putDesc (hF.sub rfl) _ _ ?_
          with_reducible assumption
        · refine kept_abortRefused (hF.sub rfl) _ _ ?_
          with_reducible assumption
      · split
        · split
          · refine ans_next ?_
            refine kept_abortRefused (hF.sub rfl) _ _ ?_
            with_reducible assumption
          · split
            · refine ans_next ?_
              with_reducible assumption
            · refine ans_next ?_
              refine kept_settleDrains (hF.sub rfl) _ ?_
              refine kept_putDesc (hF.sub rfl) _ _ ?_
              refine kept_stopDesc (hF.sub rfl) _ _ _ _ ?_
              refine kept_atTime (hF.sub rfl) _ _ ?_
              with_reducible assumption
        · refine ans_next ?_
          refine kept_abortIndex (hF.sub rfl) _ _ _ _ _ ?_
          with_reducible assumption
theorem kept_execLoadProgram (hF : Sub 17179885568 F) : ∀ a0 a1 a2 a3, Kept F z a3 → (OnNext (Kept F z)) (Sys2Proof.Machine.execLoadProgram a0 a1 a2 a3) := by
  unfold Sys2Proof.Machine.execLoadProgram
  intro v0 v1 v2 v3 v4
  split
  · refine ans_next ?_
    with_reducible assumption
  · extract_lets +onlyGivenNames l8_0 l8_1
    clear_value l8_0 l8_1
    split
    · refine ans_next ?_
      refine kept_putDesc (hF.sub rfl) _ _ ?_
      with_reducible assumption
    · split
      · refine ans_next ?_
        refine kept_putDesc (hF.sub rfl) _ _ ?_
        with_reducible assumption
      · split
        · refine ans_next ?_
          with_reducible assumption
        · split
          · refine ans_next ?_
            refine kept_putDesc (hF.sub rfl) _ _ ?_
            with_reducible assumption
          · split
            · refine ans_next ?_
              with_reducible assumption
            · refine ans_next ?_
              refine kept_withDoms (hF.sub rfl) _ _ _ ?_ ?_
              · with_reducible assumption
              · intro v30 v31
                split
                · refine kept_putDesc (hF.sub rfl) _ _ ?_
                  with_reducible assumption
                · extract_lets +onlyGivenNames l35_0
                  clear_value l35_0
                  split
                  · refine kept_putDesc (hF.sub rfl) _ _ ?_
                    with_reducible assumption
                  · split
                    · refine kept_putDesc (hF.sub rfl) _ _ ?_
                      with_reducible assumption
                    · split
                      · refine kept_putDesc (hF.sub rfl) _ _ ?_
                        with_reducible assumption
                      · extract_lets +onlyGivenNames l45_0
                        clear_value l45_0
                        refine kept_putDesc (hF.sub rfl) _ _ ?_
                        with_reducible assumption
theorem kept_execUnloadProgram (hF : Sub 16384 F) : ∀ a0 a1 a2, Kept F z a2 → (OnNext (Kept F z)) (Sys2Proof.Machine.execUnloadProgram a0 a1 a2) := by
  unfold Sys2Proof.Machine.execUnloadProgram
  intro v0 v1 v2 v3
  split
  · refine ans_next ?_
    with_reducible assumption
  · extract_lets +onlyGivenNames l7_0
    clear_value l7_0
    split
    · refine ans_next ?_
      refine kept_putDesc (hF.sub rfl) _ _ ?_
      with_reducible assumption
    · split
      · refine ans_next ?_
        refine kept_putDesc (hF.sub rfl) _ _ ?_
        with_reducible assumption
      · split
        · refine ans_next ?_
          with_reducible assumption
        · refine ans_next ?_
          refine kept_putDesc (hF.sub rfl) _ _ ?_
          with_reducible assumption

/-! ### Registers -/

theorem kept_ignoreWrite (hF : Sub 2048 F) : ∀ a0 a1, Kept F z a0 → (Kept F z) (Sys2Proof.ignoreWrite a0 a1) := by
  unfold Sys2Proof.ignoreWrite
  intro v0 v1 v2
  refine kept_count (hF.sub rfl) _ _ _ _ ?_
  with_reducible assumption
theorem kept_startWatches (hF : Sub 2048 F) : ∀ a0 a1, Kept F z a0 → (Kept F z) (Sys2Proof.startWatches a0 a1) := by
  unfold Sys2Proof.startWatches
  intro v0 v1 v2
  split
  · with_reducible assumption
  · refine kept_modOwner (hF.sub rfl) _ _ _ ?_
    with_reducible assumption
theorem kept_execRingEnable (hF : Sub 268445716 F) : ∀ a0 a1, Kept F z a1 → (OnNext (Kept F z)) (Sys2Proof.Machine.execRingEnable a0 a1) := by
  unfold Sys2Proof.Machine.execRingEnable
  intro v0 v1 v2
  extract_lets +onlyGivenNames l3_0 l3_1
  clear_value l3_0 l3_1
  split
  · refine ans_next ?_
    with_reducible assumption
  · extract_lets +onlyGivenNames l7_0
    split
    · refine ans_next ?_
      dsimp -zeta only [l7_0]
      refine kept_modRing (hF.sub rfl) _ _ _ _ ?_
      with_reducible assumption
    · split
      · refine ans_next ?_
        dsimp -zeta only [l7_0]
        refine kept_modRing (hF.sub rfl) _ _ _ _ ?_
        with_reducible assumption
      · refine ans_next ?_
        refine kept_modRing (hF.sub rfl) _ _ _ _ ?_
        refine os_eq (by assumption) (?_ : OnSome (OnSnd (Kept F z)) (Sys2Proof.takeContext _ _ _ _))
        refine kept_takeContext (hF.sub rfl) _ _ _ _ ?_
        refine kept_startWatches (hF.sub rfl) _ _ ?_
        with_reducible assumption
theorem kept_disableSlot (hF : Sub 26624 F) : ∀ a0 a1 a2, Kept F z a0 → (Kept F z) (Sys2Proof.disableSlot a0 a1 a2) := by
  unfold Sys2Proof.disableSlot
  intro v0 v1 v2 v3
  extract_lets +onlyGivenNames l4_0
  clear_value l4_0
  split
  · with_reducible assumption
  · extract_lets +onlyGivenNames l7_0
    clear_value l7_0
    refine kept_closeRing (hF.sub rfl) _ _ _ ?_
    refine foldl_kept (P := (Kept F z)) ?_ ?_
    · with_reducible assumption
    · intro v11 v12 v13
      refine kept_closeRing (hF.sub rfl) _ _ _ ?_
      with_reducible assumption
theorem kept_execRingDisable (hF : Sub 26624 F) : ∀ a0 a1, Kept F z a1 → (OnNext (Kept F z)) (Sys2Proof.Machine.execRingDisable a0 a1) := by
  unfold Sys2Proof.Machine.execRingDisable
  intro v0 v1 v2
  split
  · refine ans_next ?_
    refine kept_disableSlot (hF.sub rfl) _ _ _ ?_
    with_reducible assumption
  · refine ans_next ?_
    with_reducible assumption
theorem kept_execRingReset (hF : Sub 26624 F) : ∀ a0 a1, Kept F z a1 → (OnNext (Kept F z)) (Sys2Proof.Machine.execRingReset a0 a1) := by
  unfold Sys2Proof.Machine.execRingReset
  intro v0 v1 v2
  extract_lets +onlyGivenNames l3_0
  clear_value l3_0
  split
  · refine ans_next ?_
    refine kept_resetRing (hF.sub rfl) _ _ _ ?_
    with_reducible assumption
  · refine ans_next ?_
    with_reducible assumption
theorem kept_deliverHeld (hF : Sub 2072 F) : ∀ a0 a1 a2, Kept F z a0 → (Kept F z) (Sys2Proof.deliverHeld a0 a1 a2) := by
  unfold Sys2Proof.deliverHeld
  intro v0 v1 v2 v3
  extract_lets +onlyGivenNames l4_0
  clear_value l4_0
  refine kept_flushHeld (hF.sub rfl) _ _ _ ?_
  refine foldl_kept (P := (Kept F z)) ?_ ?_
  · with_reducible assumption
  · intro v8 v9 v10
    refine kept_modRing (hF.sub rfl) _ _ _ _ ?_
    with_reducible assumption
theorem kept_reattach (hF : Sub 2072 F) : ∀ a0 a1 a2 a3, Kept F z a0 → (Kept F z) (Sys2Proof.reattach a0 a1 a2 a3) := by
  unfold Sys2Proof.reattach
  intro v0 v1 v2 v3 v4
  extract_lets +onlyGivenNames l5_0 l5_1
  clear_value l5_0 l5_1
  split
  · refine kept_ignoreWrite (hF.sub rfl) _ _ ?_
    with_reducible assumption
  · extract_lets +onlyGivenNames l9_0
    refine (fun (el9_0 : (Kept F z) l9_0) => ?_) ?_
    rotate_left
    · refine kept_modRing (hF.sub rfl) _ _ _ _ ?_
      with_reducible assumption
    clear_value l9_0
    split
    · split
      · with_reducible assumption
      · refine kept_deliverHeld (hF.sub rfl) _ _ _ ?_
        with_reducible assumption
    · refine kept_deliverHeld (hF.sub rfl) _ _ _ ?_
      with_reducible assumption
    · refine kept_flushHeld (hF.sub rfl) _ _ _ ?_
      with_reducible assumption
theorem kept_execRingReattach (hF : Sub 2072 F) : ∀ a0 a1 a2, Kept F z a2 → (OnNext (Kept F z)) (Sys2Proof.Machine.execRingReattach a0 a1 a2) := by
  unfold Sys2Proof.Machine.execRingReattach
  intro v0 v1 v2 v3
  split
  · refine ans_next ?_
    refine kept_reattach (hF.sub rfl) _ _ _ _ ?_
    with_reducible assumption
  · refine ans_next ?_
    with_reducible assumption
theorem kept_writeSetup (hF : Sub 2072 F) : ∀ a0 a1 a2 a3, Kept F z a0 → (Kept F z) (Sys2Proof.writeSetup a0 a1 a2 a3) := by
  unfold Sys2Proof.writeSetup
  intro v0 v1 v2 v3 v4
  extract_lets +onlyGivenNames l5_0
  clear_value l5_0
  split
  · refine kept_modRing (hF.sub rfl) _ _ _ _ ?_
    with_reducible assumption
  · refine kept_modRing (hF.sub rfl) _ _ _ _ ?_
    with_reducible assumption
  · refine kept_modRing (hF.sub rfl) _ _ _ _ ?_
    with_reducible assumption
  · refine kept_modRing (hF.sub rfl) _ _ _ _ ?_
    with_reducible assumption
  · refine kept_reattach (hF.sub rfl) _ _ _ _ ?_
    with_reducible assumption
  · refine kept_modRing (hF.sub rfl) _ _ _ _ ?_
    with_reducible assumption
  · refine kept_ignoreWrite (hF.sub rfl) _ _ ?_
    with_reducible assumption
theorem kept_writeWake (hF : Sub 2056 F) : ∀ a0 a1 a2, Kept F z a0 → (Kept F z) (Sys2Proof.writeWake a0 a1 a2) := by
  unfold Sys2Proof.writeWake
  intro v0 v1 v2 v3
  extract_lets +onlyGivenNames l4_0 l4_1 l4_2 l4_3 l4_4
  clear_value l4_0 l4_1 l4_2 l4_3
  refine (fun (el4_4 : (Kept F z) l4_4) => ?_) ?_
  rotate_left
  · refine kept_modRing (hF.sub rfl) _ _ _ _ ?_
    with_reducible assumption
  clear_value l4_4
  split
  · refine kept_wakeRing (hF.sub rfl) _ _ _ ?_
    with_reducible assumption
  · with_reducible assumption
theorem kept_writeCtl (hF : Sub 268462100 F) : ∀ a0 a1 a2, Kept F z a0 → (Kept F z) (Sys2Proof.writeCtl a0 a1 a2) := by
  unfold Sys2Proof.writeCtl
  intro v0 v1 v2 v3
  split
  · refine kept_stateOf (hF.sub rfl) _ _ ?_ ?_
    · with_reducible assumption
    · refine kept_execRingEnable (hF.sub rfl) _ _ ?_
      with_reducible assumption
  · refine kept_stateOf (hF.sub rfl) _ _ ?_ ?_
    · with_reducible assumption
    · refine kept_execRingDisable (hF.sub rfl) _ _ ?_
      with_reducible assumption
  · refine kept_stateOf (hF.sub rfl) _ _ ?_ ?_
    · with_reducible assumption
    · refine kept_execRingReset (hF.sub rfl) _ _ ?_
      with_reducible assumption
  · with_reducible assumption
theorem kept_setWatch (hF : Sub 2048 F) : ∀ a0 a1 a2, Kept F z a0 → (Kept F z) (Sys2Proof.setWatch a0 a1 a2) := by
  unfold Sys2Proof.setWatch
  intro v0 v1 v2 v3
  refine kept_modOwner (hF.sub rfl) _ _ _ ?_
  with_reducible assumption
theorem kept_writeFrameClass (hF : Sub 2048 F) : ∀ a0 a1 a2, Kept F z a0 → (Kept F z) (Sys2Proof.writeFrameClass a0 a1 a2) := by
  unfold Sys2Proof.writeFrameClass
  intro v0 v1 v2 v3
  extract_lets +onlyGivenNames l4_0 l4_1 l4_2 l4_3 l4_4 l4_5
  clear_value l4_0 l4_1 l4_2 l4_3 l4_4
  refine (fun (el4_5 : (Kept F z) l4_5) => ?_) ?_
  rotate_left
  · refine kept_modOwner (hF.sub rfl) _ _ _ ?_
    with_reducible assumption
  clear_value l4_5
  split
  · refine kept_ignoreWrite (hF.sub rfl) _ _ ?_
    with_reducible assumption
  · with_reducible assumption
theorem kept_swapUse (hF : Sub 32768 F) : ∀ a0 a1 a2 a3, Kept F z a0 → (Kept F z) (Sys2Proof.swapUse a0 a1 a2 a3) := by
  unfold Sys2Proof.swapUse
  intro v0 v1 v2 v3 v4
  extract_lets +onlyGivenNames l5_0
  refine (fun (el5_0 : (Kept F z) l5_0) => ?_) ?_
  rotate_left
  · refine foldl_kept (P := (Kept F z)) ?_ ?_
    · with_reducible assumption
    · intro v8 v9 v10
      split
      · refine kept_modExt (hF.sub rfl) _ _ _ ?_
        with_reducible assumption
      · with_reducible assumption
  clear_value l5_0
  refine foldl_kept (P := (Kept F z)) ?_ ?_
  · with_reducible assumption
  · intro v17 v18 v19
    refine kept_modExt (hF.sub rfl) _ _ _ ?_
    with_reducible assumption
theorem kept_writeFoldSpill (hF : Sub 34816 F) : ∀ a0 a1 a2, Kept F z a0 → (Kept F z) (Sys2Proof.writeFoldSpill a0 a1 a2) := by
  unfold Sys2Proof.writeFoldSpill
  intro v0 v1 v2 v3
  extract_lets +onlyGivenNames l4_0 l4_1 l4_2 l4_3
  clear_value l4_0 l4_1 l4_2 l4_3
  split
  · refine kept_ignoreWrite (hF.sub rfl) _ _ ?_
    with_reducible assumption
  · extract_lets +onlyGivenNames l8_0 l8_1 l8_2 l8_3
    clear_value l8_0 l8_1
    refine (fun (el8_2 : (Kept F z) l8_2) => ?_) ?_
    rotate_left
    · refine kept_modOwner (hF.sub rfl) _ _ _ ?_
      with_reducible assumption
    clear_value l8_2
    refine (fun (el8_3 : (Kept F z) l8_3) => ?_) ?_
    rotate_left
    · refine kept_swapUse (hF.sub rfl) _ _ _ _ ?_
      with_reducible assumption
    clear_value l8_3
    split
    · with_reducible assumption
    · refine kept_ignoreWrite (hF.sub rfl) _ _ ?_
      with_reducible assumption
theorem kept_writeSnareExt (hF : Sub 67143680 F) : ∀ a0 a1 a2, Kept F z a0 → (Kept F z) (Sys2Proof.writeSnareExt a0 a1 a2) := by
  unfold Sys2Proof.writeSnareExt
  intro v0 v1 v2 v3
  extract_lets +onlyGivenNames l4_0 l4_1 l4_2 l4_3 l4_4 l4_5 l4_6 l4_7 l4_8
  clear_value l4_0 l4_1 l4_2 l4_3 l4_4 l4_5
  refine (fun (el4_6 : (Kept F z) l4_6) => ?_) ?_
  rotate_left
  · refine kept_modOwner (hF.sub rfl) _ _ _ ?_
    with_reducible assumption
  clear_value l4_6
  refine (fun (el4_7 : (Kept F z) l4_7) => ?_) ?_
  rotate_left
  · refine kept_swapUse (hF.sub rfl) _ _ _ _ ?_
    with_reducible assumption
  clear_value l4_7
  refine (fun (el4_8 : (Kept F z) l4_8) => ?_) ?_
  rotate_left
  · dsimp -zeta only [l4_8]
    split
    · with_reducible assumption
    · refine kept_dropExtension (hF.sub rfl) _ _ ?_
      with_reducible assumption
  clear_value l4_8
  split
  · with_reducible assumption
  · refine kept_ignoreWrite (hF.sub rfl) _ _ ?_
    with_reducible assumption
theorem kept_execSnareExtChange (hF : Sub 67143680 F) : ∀ a0 a1 a2, Kept F z a2 → (OnNext (Kept F z)) (Sys2Proof.Machine.execSnareExtChange a0 a1 a2) := by
  unfold Sys2Proof.Machine.execSnareExtChange
  intro v0 v1 v2 v3
  split
  · refine ans_next ?_
    refine kept_writeSnareExt (hF.sub rfl) _ _ _ ?_
    with_reducible assumption
  · refine ans_next ?_
    with_reducible assumption
theorem kept_writeQpSpill (hF : Sub 34816 F) : ∀ a0 a1 a2 a3, Kept F z a0 → (Kept F z) (Sys2Proof.writeQpSpill a0 a1 a2 a3) := by
  unfold Sys2Proof.writeQpSpill
  intro v0 v1 v2 v3 v4
  extract_lets +onlyGivenNames l5_0 l5_1 l5_2 l5_3 l5_4 l5_5 l5_6 l5_7
  clear_value l5_0 l5_1 l5_2 l5_3 l5_4 l5_5 l5_6 l5_7
  split
  · refine kept_ignoreWrite (hF.sub rfl) _ _ ?_
    with_reducible assumption
  · split
    · extract_lets +onlyGivenNames l10_0
      clear_value l10_0
      refine kept_ignoreWrite (hF.sub rfl) _ _ ?_
      refine kept_swapUse (hF.sub rfl) _ _ _ _ ?_
      refine kept_modOwner (hF.sub rfl) _ _ _ ?_
      with_reducible assumption
    · refine kept_swapUse (hF.sub rfl) _ _ _ _ ?_
      refine kept_modOwner (hF.sub rfl) _ _ _ ?_
      with_reducible assumption
theorem kept_writeShadow (hF : Sub 2048 F) : ∀ a0 a1 a2 a3, Kept F z a0 → (Kept F z) (Sys2Proof.writeShadow a0 a1 a2 a3) := by
  unfold Sys2Proof.writeShadow
  intro v0 v1 v2 v3 v4
  refine kept_modOwner (hF.sub rfl) _ _ _ ?_
  with_reducible assumption
theorem kept_execShadowEnable (hF : Sub 2048 F) : ∀ a0 a1 a2 a3, Kept F z a3 → (OnNext (Kept F z)) (Sys2Proof.Machine.execShadowEnable a0 a1 a2 a3) := by
  unfold Sys2Proof.Machine.execShadowEnable
  intro v0 v1 v2 v3 v4
  split
  · refine ans_next ?_
    refine kept_writeShadow (hF.sub rfl) _ _ _ _ ?_
    with_reducible assumption
  · refine ans_next ?_
    with_reducible assumption
theorem kept_writePage (hF : Sub 335603740 F) : ∀ a0 a1 a2 a3, Kept F z a0 → (Kept F z) (Sys2Proof.writePage a0 a1 a2 a3) := by
  unfold Sys2Proof.writePage
  intro v0 v1 v2 v3 v4
  extract_lets +onlyGivenNames l5_0 l5_1
  clear_value l5_1
  split
  · split
    · refine kept_ignoreWrite (hF.sub rfl) _ _ ?_
      with_reducible assumption
    · refine kept_modOwner (hF.sub rfl) _ _ _ ?_
      with_reducible assumption
  · refine kept_modOwner (hF.sub rfl) _ _ _ ?_
    with_reducible assumption
  · refine kept_setWatch (hF.sub rfl) _ _ _ ?_
    with_reducible assumption
  · refine kept_setWatch (hF.sub rfl) _ _ _ ?_
    with_reducible assumption
  · refine kept_modOwner (hF.sub rfl) _ _ _ ?_
    with_reducible assumption
  · dsimp -zeta only [l5_0]
    split
    · refine kept_writeFrameClass (hF.sub rfl) _ _ _ ?_
      with_reducible assumption
    · refine kept_ignoreWrite (hF.sub rfl) _ _ ?_
      with_reducible assumption
  · dsimp -zeta only [l5_0]
    split
    · split
      · refine kept_ignoreWrite (hF.sub rfl) _ _ ?_
        with_reducible assumption
      · refine kept_modOwner (hF.sub rfl) _ _ _ ?_
        with_reducible assumption
    · refine kept_ignoreWrite (hF.sub rfl) _ _ ?_
      with_reducible assumption
  · dsimp -zeta only [l5_0]
    split
    · refine kept_writeFoldSpill (hF.sub rfl) _ _ _ ?_
      with_reducible assumption
    · refine kept_ignoreWrite (hF.sub rfl) _ _ ?_
      with_reducible assumption
  · dsimp -zeta only [l5_0]
    split
    · refine kept_writeSnareExt (hF.sub rfl) _ _ _ ?_
      with_reducible assumption
    · refine kept_ignoreWrite (hF.sub rfl) _ _ ?_
      with_reducible assumption
  · dsimp -zeta only [l5_0]
    split
    · refine kept_writeQpSpill (hF.sub rfl) _ _ _ _ ?_
      with_reducible assumption
    · refine kept_ignoreWrite (hF.sub rfl) _ _ ?_
      with_reducible assumption
  · dsimp -zeta only [l5_0]
    split
    · refine kept_writeQpSpill (hF.sub rfl) _ _ _ _ ?_
      with_reducible assumption
    · refine kept_ignoreWrite (hF.sub rfl) _ _ ?_
      with_reducible assumption
  · refine kept_modOwner (hF.sub rfl) _ _ _ ?_
    with_reducible assumption
  · refine kept_writeSetup (hF.sub rfl) _ _ _ _ ?_
    with_reducible assumption
  · refine kept_writeSetup (hF.sub rfl) _ _ _ _ ?_
    with_reducible assumption
  · refine kept_writeCtl (hF.sub rfl) _ _ _ ?_
    with_reducible assumption
  · refine kept_writeSetup (hF.sub rfl) _ _ _ _ ?_
    with_reducible assumption
  · refine kept_writeWake (hF.sub rfl) _ _ _ ?_
    with_reducible assumption
  · split
    · refine kept_modOwner (hF.sub rfl) _ _ _ ?_
      with_reducible assumption
    · split
      · dsimp -zeta only [l5_0]
        split
        · split
          · refine kept_writeShadow (hF.sub rfl) _ _ _ _ ?_
            with_reducible assumption
          · with_reducible assumption
        · refine kept_ignoreWrite (hF.sub rfl) _ _ ?_
          with_reducible assumption
      · split
        · with_reducible assumption
        · refine kept_ignoreWrite (hF.sub rfl) _ _ ?_
          with_reducible assumption
theorem kept_writeMsix (hF : Sub 2056 F) : ∀ a0 a1 a2 a3, Kept F z a0 → (Kept F z) (Sys2Proof.writeMsix a0 a1 a2 a3) := by
  unfold Sys2Proof.writeMsix
  intro v0 v1 v2 v3 v4
  extract_lets +onlyGivenNames l5_0 l5_1
  clear_value l5_0 l5_1
  split
  · refine kept_sendPending (hF.sub rfl) _ _ _ ?_
    refine kept_modOwner (hF.sub rfl) _ _ _ ?_
    with_reducible assumption
  · refine kept_modOwner (hF.sub rfl) _ _ _ ?_
    with_reducible assumption
  · refine kept_modOwner (hF.sub rfl) _ _ _ ?_
    with_reducible assumption
theorem kept_execMsixUnmask (hF : Sub 2056 F) : ∀ a0 a1 a2, Kept F z a2 → (OnNext (Kept F z)) (Sys2Proof.Machine.execMsixUnmask a0 a1 a2) := by
  unfold Sys2Proof.Machine.execMsixUnmask
  intro v0 v1 v2 v3
  split
  · refine ans_next ?_
    with_reducible assumption
  · refine ans_next ?_
    refine kept_sendPending (hF.sub rfl) _ _ _ ?_
    refine kept_modOwner (hF.sub rfl) _ _ _ ?_
    with_reducible assumption
theorem kept_releaseBlock (hF : Sub 67108864 F) : ∀ a0 a1, Kept F z a0 → (Kept F z) (Sys2Proof.releaseBlock a0 a1) := by
  unfold Sys2Proof.releaseBlock
  intro v0 v1 v2
  extract_lets +onlyGivenNames l3_0
  clear_value l3_0
  split
  · with_reducible assumption
  · refine kept_modBlock (hF.sub rfl) _ _ _ ?_
    with_reducible assumption
theorem kept_execSnareBlockRelease (hF : Sub 67108864 F) : ∀ a0 a1, Kept F z a1 → (OnNext (Kept F z)) (Sys2Proof.Machine.execSnareBlockRelease a0 a1) := by
  unfold Sys2Proof.Machine.execSnareBlockRelease
  intro v0 v1 v2
  split
  · refine ans_next ?_
    refine kept_releaseBlock (hF.sub rfl) _ _ ?_
    with_reducible assumption
  · refine ans_next ?_
    with_reducible assumption
theorem kept_execSnareBlockClearDone (hF : Sub 67108864 F) : ∀ a0 a1, Kept F z a1 → (OnNext (Kept F z)) (Sys2Proof.Machine.execSnareBlockClearDone a0 a1) := by
  unfold Sys2Proof.Machine.execSnareBlockClearDone
  intro v0 v1 v2
  split
  · refine ans_next ?_
    refine kept_modBlock (hF.sub rfl) _ _ _ ?_
    with_reducible assumption
  · refine ans_next ?_
    with_reducible assumption
theorem kept_writeSnareOwner (hF : Sub 67110912 F) : ∀ a0 a1 a2, Kept F z a0 → (Kept F z) (Sys2Proof.writeSnareOwner a0 a1 a2) := by
  unfold Sys2Proof.writeSnareOwner
  intro v0 v1 v2 v3
  extract_lets +onlyGivenNames l4_0 l4_1
  clear_value l4_0 l4_1
  split
  · with_reducible assumption
  · split
    · split
      · refine kept_releaseBlock (hF.sub rfl) _ _ ?_
        with_reducible assumption
      · refine kept_modBlock (hF.sub rfl) _ _ _ ?_
        with_reducible assumption
    · split
      · refine kept_ignoreWrite (hF.sub rfl) _ _ ?_
        with_reducible assumption
      · split
        · with_reducible assumption
        · refine kept_modBlock (hF.sub rfl) _ _ _ ?_
          with_reducible assumption
theorem kept_writeNs (hF : Sub 2147485696 F) : ∀ a0 a1 a2 a3, Kept F z a0 → (Kept F z) (Sys2Proof.writeNs a0 a1 a2 a3) := by
  unfold Sys2Proof.writeNs
  intro v0 v1 v2 v3 v4
  extract_lets +onlyGivenNames l5_0 l5_1 l5_2
  clear_value l5_0 l5_1 l5_2
  split
  · with_reducible assumption
  · split
    · with_reducible assumption
    · split
      · refine kept_ignoreWrite (hF.sub rfl) _ _ ?_
        with_reducible assumption
      · refine kept_modDrive (hF.sub rfl) _ _ _ ?_
        with_reducible assumption
theorem kept_writeDriveCfg (hF : Sub 19327352841 F) : ∀ a0 a1 a2, Kept F z a0 → (Kept F z) (Sys2Proof.writeDriveCfg a0 a1 a2) := by
  unfold Sys2Proof.writeDriveCfg
  intro v0 v1 v2 v3
  extract_lets +onlyGivenNames l4_0 l4_1
  refine (fun (el4_0 : (Kept F z) l4_0) => ?_) ?_
  rotate_left
  · refine kept_stateOf (hF.sub rfl) _ _ ?_ ?_
    · with_reducible assumption
    · refine kept_execWearBucketRefill (hF.sub rfl) _ _ _ ?_
      with_reducible assumption
  clear_value l4_0 l4_1
  refine kept_pushFlash (hF.sub rfl) _ ?_
  refine kept_modDrive (hF.sub rfl) _ _ _ ?_
  with_reducible assumption
theorem kept_execDriveCfgWrite (hF : Sub 19327352841 F) : ∀ a0 a1 a2, Kept F z a2 → (OnNext (Kept F z)) (Sys2Proof.Machine.execDriveCfgWrite a0 a1 a2) := by
  unfold Sys2Proof.Machine.execDriveCfgWrite
  intro v0 v1 v2 v3
  split
  · refine ans_next ?_
    refine kept_writeDriveCfg (hF.sub rfl) _ _ _ ?_
    with_reducible assumption
  · refine ans_next ?_
    with_reducible assumption
theorem kept_writeSpillSlots (hF : Sub 2147485696 F) : ∀ a0 a1 a2, Kept F z a0 → (Kept F z) (Sys2Proof.writeSpillSlots a0 a1 a2) := by
  unfold Sys2Proof.writeSpillSlots
  intro v0 v1 v2 v3
  extract_lets +onlyGivenNames l4_0 l4_1
  clear_value l4_0 l4_1
  split
  · with_reducible assumption
  · split
    · refine kept_ignoreWrite (hF.sub rfl) _ _ ?_
      with_reducible assumption
    · extract_lets +onlyGivenNames l10_0
      refine (fun (el10_0 : (Kept F z) l10_0) => ?_) ?_
      rotate_left
      · refine kept_modFlash (hF.sub rfl) _ _ _ ?_
        with_reducible assumption
      clear_value l10_0
      split
      · with_reducible assumption
      · split
        · refine kept_modFlash (hF.sub rfl) _ _ _ ?_
          with_reducible assumption
        · refine kept_modFlash (hF.sub rfl) _ _ _ ?_
          with_reducible assumption
theorem kept_execFlashSpillSlotsWrite (hF : Sub 2147485696 F) : ∀ a0 a1 a2, Kept F z a2 → (OnNext (Kept F z)) (Sys2Proof.Machine.execFlashSpillSlotsWrite a0 a1 a2) := by
  unfold Sys2Proof.Machine.execFlashSpillSlotsWrite
  intro v0 v1 v2 v3
  split
  · refine ans_next ?_
    refine kept_writeSpillSlots (hF.sub rfl) _ _ _ ?_
    with_reducible assumption
  · refine ans_next ?_
    with_reducible assumption
theorem kept_writeQpnRange (hF : Sub 6144 F) : ∀ a0 a1 a2, Kept F z a0 → (Kept F z) (Sys2Proof.writeQpnRange a0 a1 a2) := by
  unfold Sys2Proof.writeQpnRange
  intro v0 v1 v2 v3
  extract_lets +onlyGivenNames l4_0 l4_1 l4_2
  clear_value l4_0 l4_1 l4_2
  split
  · with_reducible assumption
  · split
    · refine kept_ignoreWrite (hF.sub rfl) _ _ ?_
      with_reducible assumption
    · refine kept_modPart (hF.sub rfl) _ _ _ ?_
      with_reducible assumption
theorem kept_writeQos (hF : Sub 6144 F) : ∀ a0 a1 a2, Kept F z a0 → (Kept F z) (Sys2Proof.writeQos a0 a1 a2) := by
  unfold Sys2Proof.writeQos
  intro v0 v1 v2 v3
  extract_lets +onlyGivenNames l4_0
  clear_value l4_0
  split
  · with_reducible assumption
  · split
    · refine kept_ignoreWrite (hF.sub rfl) _ _ ?_
      with_reducible assumption
    · refine kept_modPart (hF.sub rfl) _ _ _ ?_
      with_reducible assumption
theorem kept_writeNet (hF : Sub 536872960 F) : ∀ a0 a1, Kept F z a0 → (Kept F z) (Sys2Proof.writeNet a0 a1) := by
  unfold Sys2Proof.writeNet
  intro v0 v1 v2
  extract_lets +onlyGivenNames l3_0 l3_1
  clear_value l3_0 l3_1
  split
  · refine kept_ignoreWrite (hF.sub rfl) _ _ ?_
    with_reducible assumption
  · extract_lets +onlyGivenNames l7_0
    clear_value l7_0
    refine kept_mk ?_
    with_reducible assumption
theorem kept_writePortCfg (hF : Sub 47186443261 F) : ∀ a0 a1 a2 a3, Kept F z a0 → (Kept F z) (Sys2Proof.writePortCfg a0 a1 a2 a3) := by
  unfold Sys2Proof.writePortCfg
  intro v0 v1 v2 v3 v4
  extract_lets +onlyGivenNames l5_0 l5_1 l5_2
  clear_value l5_0 l5_1
  refine (fun (el5_2 : (Kept F z) l5_2) => ?_) ?_
  rotate_left
  · dsimp -zeta only [l5_2]
    split
    · with_reducible assumption
    · split
      · refine kept_ignoreWrite (hF.sub rfl) _ _ ?_
        with_reducible assumption
      · refine foldl_kept (P := (Kept F z)) ?_ ?_
        · refine kept_modPort (hF.sub rfl) _ _ _ ?_
          with_reducible assumption
        · intro v15 v16 v17
          refine kept_settleAdjacent (hF.sub rfl) _ _ _ ?_
          with_reducible assumption
  clear_value l5_2
  refine foldl_kept (P := (Kept F z)) ?_ ?_
  · with_reducible assumption
  · intro v22 v23 v24
    extract_lets +onlyGivenNames l25_0
    clear_value l25_0
    split
    · refine kept_stateOf (hF.sub rfl) _ _ ?_ ?_
      · with_reducible assumption
      · refine kept_execPortLinkEnable (hF.sub rfl) _ _ _ ?_
        with_reducible assumption
    · split
      · refine kept_stateOf (hF.sub rfl) _ _ ?_ ?_
        · with_reducible assumption
        · refine kept_execPortLinkDisable (hF.sub rfl) _ _ _ _ ?_
          with_reducible assumption
      · with_reducible assumption
theorem kept_writeGateCtl (hF : Sub 536870913 F) : ∀ a0 a1 a2 a3, Kept F z a0 → (Kept F z) (Sys2Proof.writeGateCtl a0 a1 a2 a3) := by
  unfold Sys2Proof.writeGateCtl
  intro v0 v1 v2 v3 v4
  split
  · refine kept_stateOf (hF.sub rfl) _ _ ?_ ?_
    · with_reducible assumption
    · refine kept_execGateArm (hF.sub rfl) _ _ _ _ ?_
      with_reducible assumption
  · refine kept_stateOf (hF.sub rfl) _ _ ?_ ?_
    · with_reducible assumption
    · refine kept_execGateClear (hF.sub rfl) _ _ _ ?_
      with_reducible assumption
  · refine kept_modPort (hF.sub rfl) _ _ _ ?_
    with_reducible assumption
theorem kept_writePort (hF : Sub 47186443261 F) : ∀ a0 a1 a2 a3 a4, Kept F z a0 → (Kept F z) (Sys2Proof.writePort a0 a1 a2 a3 a4) := by
  unfold Sys2Proof.writePort
  intro v0 v1 v2 v3 v4 v5
  split
  · refine kept_writePortCfg (hF.sub rfl) _ _ _ _ ?_
    with_reducible assumption
  · split
    · refine kept_stateOf (hF.sub rfl) _ _ ?_ ?_
      · with_reducible assumption
      · refine kept_execPortDownClear (hF.sub rfl) _ _ _ _ ?_
        with_reducible assumption
    · split
      · refine kept_modPort (hF.sub rfl) _ _ _ ?_
        with_reducible assumption
      · split
        · extract_lets +onlyGivenNames l18_0 l18_1 l18_2
          clear_value l18_0 l18_1
          refine (fun (el18_2 : (Kept F z) l18_2) => ?_) ?_
          rotate_left
          · refine kept_modPort (hF.sub rfl) _ _ _ ?_
            with_reducible assumption
          clear_value l18_2
          split
          · with_reducible assumption
          · refine kept_ignoreWrite (hF.sub rfl) _ _ ?_
            with_reducible assumption
        · split
          · refine kept_writeGateCtl (hF.sub rfl) _ _ _ _ ?_
            with_reducible assumption
          · split
            · refine kept_modPort (hF.sub rfl) _ _ _ ?_
              with_reducible assumption
            · split
              · refine kept_modPort (hF.sub rfl) _ _ _ ?_
                with_reducible assumption
              · split
                · with_reducible assumption
                · refine kept_ignoreWrite (hF.sub rfl) _ _ ?_
                  with_reducible assumption
theorem kept_writeBytes8 (hF : Sub 0 F) : ∀ a0 a1 a2, Kept F z a0 → (∀ x0, (Kept F z) (x0) → (∀ x1, (∀ x2, (Kept F z) (a2 x0 x1 x2)))) → (Kept F z) (Sys2Proof.writeBytes8 a0 a1 a2) := by
  unfold Sys2Proof.writeBytes8
  intro v0 v1 v2 v3 v4
  refine foldl_kept (P := (Kept F z)) ?_ ?_
  · with_reducible assumption
  · intro v7 v8 v9
    refine v4 _ ?_ _ _
    with_reducible assumption
theorem kept_writeGlobal (hF : Sub 64366312445 F) : ∀ a0 a1 a2 a3, Kept F z a0 → (Kept F z) (Sys2Proof.writeGlobal a0 a1 a2 a3) := by
  unfold Sys2Proof.writeGlobal
  intro v0 v1 v2 v3 v4
  refine ite_kept ?_ ?_
  · refine kept_stateOf (hF.sub rfl) _ _ ?_ ?_
    · with_reducible assumption
    · refine kept_execNodeIdWrite (hF.sub rfl) _ _ ?_
      with_reducible assumption
  · refine ite_kept ?_ ?_
    · refine kept_mk ?_
      with_reducible assumption
    · refine ite_kept ?_ ?_
      · refine kept_writeNet (hF.sub rfl) _ _ ?_
        with_reducible assumption
      · split
        · extract_lets +onlyGivenNames l17_0
          clear_value l17_0
          split
          · with_reducible assumption
          · refine kept_writeQpnRange (hF.sub rfl) _ _ _ ?_
            with_reducible assumption
          · refine kept_writeQos (hF.sub rfl) _ _ _ ?_
            with_reducible assumption
          · refine kept_writeSpillSlots (hF.sub rfl) _ _ _ ?_
            with_reducible assumption
          · refine kept_ignoreWrite (hF.sub rfl) _ _ ?_
            with_reducible assumption
        · split
          · refine kept_writePage (hF.sub rfl) _ _ _ _ ?_
            with_reducible assumption
          · split
            · refine kept_writeBytes8 (hF.sub rfl) _ _ _ ?_ ?_
              · with_reducible assumption
              · intro v34 v35 v36 v37
                refine kept_writeSnareOwner (hF.sub rfl) _ _ _ ?_
                with_reducible assumption
            · split
              · split
                · refine kept_writeDriveCfg (hF.sub rfl) _ _ _ ?_
                  with_reducible assumption
                · split
                  · with_reducible assumption
                  · refine kept_ignoreWrite (hF.sub rfl) _ _ ?_
                    with_reducible assumption
              · split
                · refine kept_writeBytes8 (hF.sub rfl) _ _ _ ?_ ?_
                  · with_reducible assumption
                  · intro v51 v52 v53 v54
                    refine kept_writeNs (hF.sub rfl) _ _ _ _ ?_
                    with_reducible assumption
                · split
                  · refine kept_writePort (hF.sub rfl) _ _ _ _ _ ?_
                    with_reducible assumption
                  · split
                    · refine kept_stateOf (hF.sub rfl) _ _ ?_ ?_
                      · with_reducible assumption
                      · refine kept_execForwardingEntryWrite (hF.sub rfl) _ _ _ ?_
                        with_reducible assumption
                    · split
                      · extract_lets +onlyGivenNames l66_0 l66_1 l66_2
                        clear_value l66_0 l66_1 l66_2
                        extract_lets +onlyGivenNames l67_0
                        split
                        · dsimp -zeta only [l67_0]
                          refine kept_mk ?_
                          with_reducible assumption
                        · dsimp -zeta only [l67_0]
                          refine kept_mk ?_
                          with_reducible assumption
                        · refine kept_stateOf (hF.sub rfl) _ _ ?_ ?_
                          · with_reducible assumption
                          · refine kept_execForeignEntryWrite (hF.sub rfl) _ _ _ ?_
                            with_reducible assumption
                        · dsimp -zeta only [l67_0]
                          refine kept_mk ?_
                          with_reducible assumption
                      · split
                        · with_reducible assumption
                        · refine kept_ignoreWrite (hF.sub rfl) _ _ ?_
                          with_reducible assumption
theorem kept_writeReg (hF : Sub 64366312445 F) : ∀ a0 a1 a2 a3 a4 a5, Kept F z a0 → (Kept F z) (Sys2Proof.writeReg a0 a1 a2 a3 a4 a5) := by
  unfold Sys2Proof.writeReg
  intro v0 v1 v2 v3 v4 v5 v6
  split
  · refine kept_writeGlobal (hF.sub rfl) _ _ _ _ ?_
    with_reducible assumption
  · split
    · refine kept_writePage (hF.sub rfl) _ _ _ _ ?_
      with_reducible assumption
    · split
      · with_reducible assumption
      · refine kept_ignoreWrite (hF.sub rfl) _ _ ?_
        with_reducible assumption
theorem kept_writeNarrow (hF : Sub 1073743897 F) : ∀ a0 a1 a2 a3 a4 a5, Kept F z a0 → (Kept F z) (Sys2Proof.writeNarrow a0 a1 a2 a3 a4 a5) := by
  unfold Sys2Proof.writeNarrow
  intro v0 v1 v2 v3 v4 v5 v6
  split
  · refine kept_writeCxlDword (hF.sub rfl) _ _ _ _ ?_
    with_reducible assumption
  · split
    · refine kept_writeCxlDword (hF.sub rfl) _ _ _ _ ?_
      with_reducible assumption
    · split
      · split
        · refine kept_stateOf (hF.sub rfl) _ _ ?_ ?_
          · with_reducible assumption
          · refine kept_execWindowModeWrite (hF.sub rfl) _ _ _ _ _ ?_
            with_reducible assumption
        · refine kept_ignoreWrite (hF.sub rfl) _ _ ?_
          with_reducible assumption
      · refine kept_writeMsix (hF.sub rfl) _ _ _ _ ?_
        with_reducible assumption
theorem kept_execRegisterWrite (hF : Sub 64366312445 F) : ∀ a0 a1 a2 a3 a4 a5 a6, Kept F z a6 → (OnNext (Kept F z)) (Sys2Proof.Machine.execRegisterWrite a0 a1 a2 a3 a4 a5 a6) := by
  unfold Sys2Proof.Machine.execRegisterWrite
  intro v0 v1 v2 v3 v4 v5 v6 v7
  split
  · split
    · refine ans_next ?_
      with_reducible assumption
    · extract_lets +onlyGivenNames l12_0 l12_1
      refine (fun (el12_0 : (Kept F z) l12_0) => ?_) ?_
      rotate_left
      · refine kept_atTime (hF.sub rfl) _ _ ?_
        with_reducible assumption
      clear_value l12_0 l12_1
      split
      · extract_lets +onlyGivenNames l16_0
        refine (fun (el16_0 : (Kept F z) l16_0) => ?_) ?_
        rotate_left
        · refine kept_writeNarrow (hF.sub rfl) _ _ _ _ _ _ ?_
          with_reducible assumption
        clear_value l16_0
        split
        · refine ans_next ?_
          refine kept_writeNarrow (hF.sub rfl) _ _ _ _ _ _ ?_
          with_reducible assumption
        · refine ans_next ?_
          with_reducible assumption
      · split
        · refine ans_next ?_
          refine kept_writeReg (hF.sub rfl) _ _ _ _ _ _ ?_
          with_reducible assumption
        · split
          · refine ans_next ?_
            refine kept_modOwner (hF.sub rfl) _ _ _ ?_
            with_reducible assumption
          · extract_lets +onlyGivenNames l33_0
            clear_value l33_0
            refine ans_next ?_
            refine kept_writeReg (hF.sub rfl) _ _ _ _ _ _ ?_
            with_reducible assumption
  · split
    · refine ans_next ?_
      with_reducible assumption
    · extract_lets +onlyGivenNames l40_0 l40_1
      refine (fun (el40_0 : (Kept F z) l40_0) => ?_) ?_
      rotate_left
      · refine kept_atTime (hF.sub rfl) _ _ ?_
        with_reducible assumption
      clear_value l40_0 l40_1
      split
      · extract_lets +onlyGivenNames l44_0
        refine (fun (el44_0 : (Kept F z) l44_0) => ?_) ?_
        rotate_left
        · refine kept_writeNarrow (hF.sub rfl) _ _ _ _ _ _ ?_
          with_reducible assumption
        clear_value l44_0
        split
        · refine ans_next ?_
          refine kept_writeNarrow (hF.sub rfl) _ _ _ _ _ _ ?_
          with_reducible assumption
        · refine ans_next ?_
          with_reducible assumption
      · split
        · refine ans_next ?_
          refine kept_writeReg (hF.sub rfl) _ _ _ _ _ _ ?_
          with_reducible assumption
        · split
          · refine ans_next ?_
            refine kept_modOwner (hF.sub rfl) _ _ _ ?_
            with_reducible assumption
          · extract_lets +onlyGivenNames l61_0
            clear_value l61_0
            refine ans_next ?_
            refine kept_writeReg (hF.sub rfl) _ _ _ _ _ _ ?_
            with_reducible assumption
theorem kept_execRegisterReadLowerHalf (hF : Sub 17179871244 F) : ∀ a0 a1 a2 a3, Kept F z a3 → (OnNext (Kept F z)) (Sys2Proof.Machine.execRegisterReadLowerHalf a0 a1 a2 a3) := by
  unfold Sys2Proof.Machine.execRegisterReadLowerHalf
  intro v0 v1 v2 v3 v4
  split
  · refine ans_next ?_
    with_reducible assumption
  · split
    · refine ans_next ?_
      refine kept_emit (hF.sub rfl) _ _ ?_
      with_reducible assumption
    · split
      extract_lets +onlyGivenNames l13_0 l13_1
      clear_value l13_0 l13_1
      split
      · refine ans_next ?_
        refine kept_emit (hF.sub rfl) _ _ ?_
        refine snd_eq (by assumption) (?_ : OnSnd (Kept F z) (Sys2Proof.draw _))
        refine kept_draw (hF.sub rfl) _ ?_
        refine kept_expirePeak (hF.sub rfl) _ ?_
        with_reducible assumption
      · split
        · refine ans_next ?_
          refine kept_emit (hF.sub rfl) _ _ ?_
          refine kept_modOwner (hF.sub rfl) _ _ _ ?_
          refine snd_eq (by assumption) (?_ : OnSnd (Kept F z) (Sys2Proof.draw _))
          refine kept_draw (hF.sub rfl) _ ?_
          refine kept_expirePeak (hF.sub rfl) _ ?_
          with_reducible assumption
        · extract_lets +onlyGivenNames l29_0
          clear_value l29_0
          refine ans_next ?_
          refine kept_emit (hF.sub rfl) _ _ ?_
          refine kept_modOwner (hF.sub rfl) _ _ _ ?_
          refine snd_eq (by assumption) (?_ : OnSnd (Kept F z) (Sys2Proof.draw _))
          refine kept_draw (hF.sub rfl) _ ?_
          refine kept_expirePeak (hF.sub rfl) _ ?_
          with_reducible assumption

/-! ### Monitor -/

theorem kept_monitorSay (hF : Sub 8 F) : ∀ a0 a1 a2, Kept F z a0 → (Kept F z) (Sys2Proof.monitorSay a0 a1 a2) := by
  unfold Sys2Proof.monitorSay
  intro v0 v1 v2 v3
  refine kept_emit (hF.sub rfl) _ _ ?_
  refine kept_emit (hF.sub rfl) _ _ ?_
  refine foldl_kept (P := (Kept F z)) ?_ ?_
  · with_reducible assumption
  · intro v8 v9 v10
    refine kept_emit (hF.sub rfl) _ _ ?_
    with_reducible assumption
theorem kept_monitorRun (hF : Sub 8 F) : ∀ a0 a1 a2, Kept F z a0 → (∀ x0, (Kept F z) (x0) → (Kept F z) (a2 x0)) → (Kept F z) (Sys2Proof.monitorRun a0 a1 a2) := by
  unfold Sys2Proof.monitorRun
  intro v0 v1 v2 v3 v4
  split
  · with_reducible assumption
  · split
    · refine v4 _ ?_
      with_reducible assumption
    · refine kept_monitorSay (hF.sub rfl) _ _ _ ?_
      with_reducible assumption
theorem kept_execMonitorHelp (hF : Sub 8 F) : ∀ a0, Kept F z a0 → (OnNext (Kept F z)) (Sys2Proof.Machine.execMonitorHelp a0) := by
  unfold Sys2Proof.Machine.execMonitorHelp
  intro v0 v1
  refine ans_next ?_
  refine kept_monitorRun (hF.sub rfl) _ _ _ ?_ ?_
  · with_reducible assumption
  · intro v5 v6
    refine kept_monitorSay (hF.sub rfl) _ _ _ ?_
    with_reducible assumption
theorem kept_execMonitorVer (hF : Sub 8 F) : ∀ a0, Kept F z a0 → (OnNext (Kept F z)) (Sys2Proof.Machine.execMonitorVer a0) := by
  unfold Sys2Proof.Machine.execMonitorVer
  intro v0 v1
  refine ans_next ?_
  refine kept_monitorRun (hF.sub rfl) _ _ _ ?_ ?_
  · with_reducible assumption
  · intro v5 v6
    refine kept_monitorSay (hF.sub rfl) _ _ _ ?_
    with_reducible assumption
theorem kept_execMonitorStatus (hF : Sub 17179869192 F) : ∀ a0, Kept F z a0 → (OnNext (Kept F z)) (Sys2Proof.Machine.execMonitorStatus a0) := by
  unfold Sys2Proof.Machine.execMonitorStatus
  intro v0 v1
  refine ans_next ?_
  refine kept_monitorRun (hF.sub rfl) _ _ _ ?_ ?_
  · with_reducible assumption
  · intro v5 v6
    extract_lets +onlyGivenNames l7_0 l7_1 l7_2
    refine (fun (el7_0 : (Kept F z) l7_0) => ?_) ?_
    rotate_left
    · refine kept_expirePeak (hF.sub rfl) _ ?_
      with_reducible assumption
    clear_value l7_0 l7_1 l7_2
    refine kept_monitorSay (hF.sub rfl) _ _ _ ?_
    with_reducible assumption
theorem kept_execMonitorTemp (hF : Sub 8 F) : ∀ a0, Kept F z a0 → (OnNext (Kept F z)) (Sys2Proof.Machine.execMonitorTemp a0) := by
  unfold Sys2Proof.Machine.execMonitorTemp
  intro v0 v1
  refine ans_next ?_
  refine kept_monitorRun (hF.sub rfl) _ _ _ ?_ ?_
  · with_reducible assumption
  · intro v5 v6
    refine kept_monitorSay (hF.sub rfl) _ _ _ ?_
    with_reducible assumption
theorem kept_execMonitorPower (hF : Sub 8 F) : ∀ a0, Kept F z a0 → (OnNext (Kept F z)) (Sys2Proof.Machine.execMonitorPower a0) := by
  unfold Sys2Proof.Machine.execMonitorPower
  intro v0 v1
  refine ans_next ?_
  refine kept_monitorRun (hF.sub rfl) _ _ _ ?_ ?_
  · with_reducible assumption
  · intro v5 v6
    refine kept_monitorSay (hF.sub rfl) _ _ _ ?_
    with_reducible assumption
theorem kept_execMonitorTime (hF : Sub 8 F) : ∀ a0, Kept F z a0 → (OnNext (Kept F z)) (Sys2Proof.Machine.execMonitorTime a0) := by
  unfold Sys2Proof.Machine.execMonitorTime
  intro v0 v1
  refine ans_next ?_
  refine kept_monitorRun (hF.sub rfl) _ _ _ ?_ ?_
  · with_reducible assumption
  · intro v5 v6
    refine kept_monitorSay (hF.sub rfl) _ _ _ ?_
    with_reducible assumption
theorem kept_execMonitorLog (hF : Sub 8 F) : ∀ a0, Kept F z a0 → (OnNext (Kept F z)) (Sys2Proof.Machine.execMonitorLog a0) := by
  unfold Sys2Proof.Machine.execMonitorLog
  intro v0 v1
  refine ans_next ?_
  refine kept_monitorRun (hF.sub rfl) _ _ _ ?_ ?_
  · with_reducible assumption
  · intro v5 v6
    refine kept_monitorSay (hF.sub rfl) _ _ _ ?_
    with_reducible assumption
theorem kept_setBaud (hF : Sub 137438953480 F) : ∀ a0 a1, Kept F z a0 → (Kept F z) (Sys2Proof.setBaud a0 a1) := by
  unfold Sys2Proof.setBaud
  intro v0 v1 v2
  split
  · extract_lets +onlyGivenNames l4_0
    refine (fun (el4_0 : (Kept F z) l4_0) => ?_) ?_
    rotate_left
    · refine kept_monitorSay (hF.sub rfl) _ _ _ ?_
      with_reducible assumption
    clear_value l4_0
    refine kept_mk ?_
    with_reducible assumption
  · refine kept_monitorSay (hF.sub rfl) _ _ _ ?_
    with_reducible assumption
theorem kept_execMonitorBaud (hF : Sub 137438953480 F) : ∀ a0 a1, Kept F z a1 → (OnNext (Kept F z)) (Sys2Proof.Machine.execMonitorBaud a0 a1) := by
  unfold Sys2Proof.Machine.execMonitorBaud
  intro v0 v1 v2
  refine ans_next ?_
  refine kept_monitorRun (hF.sub rfl) _ _ _ ?_ ?_
  · with_reducible assumption
  · intro v6 v7
    refine kept_setBaud (hF.sub rfl) _ _ ?_
    with_reducible assumption
theorem kept_execMonitorFw (hF : Sub 8 F) : ∀ a0, Kept F z a0 → (OnNext (Kept F z)) (Sys2Proof.Machine.execMonitorFw a0) := by
  unfold Sys2Proof.Machine.execMonitorFw
  intro v0 v1
  refine ans_next ?_
  refine kept_monitorRun (hF.sub rfl) _ _ _ ?_ ?_
  · with_reducible assumption
  · intro v5 v6
    extract_lets +onlyGivenNames l7_0
    clear_value l7_0
    refine kept_monitorSay (hF.sub rfl) _ _ _ ?_
    with_reducible assumption
theorem kept_execMonitorHbm (hF : Sub 12 F) : ∀ a0, Kept F z a0 → (OnNext (Kept F z)) (Sys2Proof.Machine.execMonitorHbm a0) := by
  unfold Sys2Proof.Machine.execMonitorHbm
  intro v0 v1
  refine ans_next ?_
  refine kept_monitorRun (hF.sub rfl) _ _ _ ?_ ?_
  · with_reducible assumption
  · intro v5 v6
    extract_lets +onlyGivenNames l7_0
    refine kept_monitorSay (hF.sub rfl) _ _ _ ?_
    refine foldl_kept (P := (Kept F z)) ?_ ?_
    · with_reducible assumption
    · intro v11 v12 v13
      dsimp -zeta only [l7_0]
      refine kept_emit (hF.sub rfl) _ _ ?_
      refine snd_of (P := (Kept F z)) ?_
      refine kept_draw (hF.sub rfl) _ ?_
      with_reducible assumption
theorem kept_execPeek (hF : Sub 17179869196 F) : ∀ a0 a1, Kept F z a1 → (OnNext (Kept F z)) (Sys2Proof.Machine.execPeek a0 a1) := by
  unfold Sys2Proof.Machine.execPeek
  intro v0 v1 v2
  refine ans_next ?_
  refine kept_monitorRun (hF.sub rfl) _ _ _ ?_ ?_
  · with_reducible assumption
  · intro v6 v7
    split
    · refine kept_monitorSay (hF.sub rfl) _ _ _ ?_
      with_reducible assumption
    · split
      refine kept_monitorSay (hF.sub rfl) _ _ _ ?_
      refine snd_eq (by assumption) (?_ : OnSnd (Kept F z) (Sys2Proof.draw _))
      refine kept_draw (hF.sub rfl) _ ?_
      refine kept_expirePeak (hF.sub rfl) _ ?_
      with_reducible assumption
theorem kept_execPoke (hF : Sub 64366312445 F) : ∀ a0 a1 a2 a3, Kept F z a3 → (OnNext (Kept F z)) (Sys2Proof.Machine.execPoke a0 a1 a2 a3) := by
  unfold Sys2Proof.Machine.execPoke
  intro v0 v1 v2 v3 v4
  refine ans_next ?_
  refine kept_monitorRun (hF.sub rfl) _ _ _ ?_ ?_
  · with_reducible assumption
  · intro v8 v9
    split
    · refine kept_monitorSay (hF.sub rfl) _ _ _ ?_
      with_reducible assumption
    · refine kept_monitorSay (hF.sub rfl) _ _ _ ?_
      refine kept_writeGlobal (hF.sub rfl) _ _ _ _ ?_
      refine kept_atTime (hF.sub rfl) _ _ ?_
      with_reducible assumption
theorem kept_execFuseShow (hF : Sub 8 F) : ∀ a0, Kept F z a0 → (OnNext (Kept F z)) (Sys2Proof.Machine.execFuseShow a0) := by
  unfold Sys2Proof.Machine.execFuseShow
  intro v0 v1
  refine ans_next ?_
  refine kept_monitorRun (hF.sub rfl) _ _ _ ?_ ?_
  · with_reducible assumption
  · intro v5 v6
    refine kept_monitorSay (hF.sub rfl) _ _ _ ?_
    with_reducible assumption
theorem kept_execFuseLoad (hF : Sub 137438953480 F) : ∀ a0 a1 a2, Kept F z a2 → (OnNext (Kept F z)) (Sys2Proof.Machine.execFuseLoad a0 a1 a2) := by
  unfold Sys2Proof.Machine.execFuseLoad
  intro v0 v1 v2 v3
  refine ans_next ?_
  refine kept_monitorRun (hF.sub rfl) _ _ _ ?_ ?_
  · with_reducible assumption
  · intro v7 v8
    split
    · refine kept_monitorSay (hF.sub rfl) _ _ _ ?_
      with_reducible assumption
    · refine kept_monitorSay (hF.sub rfl) _ _ _ ?_
      refine kept_mk ?_
      with_reducible assumption
theorem kept_burnGen (hF : Sub 68719476736 F) : ∀ a0 a1 a2, (a0.boot.fuses.gens.getD a1 {}).burnt = false → Kept F z a0 → (Kept F z) (Sys2Proof.burnGen a0 a1 a2) := by
  intro a0 a1 a2 hn h
  unfold burnGen
  refine kept_mk h (hf := .inr ⟨rfl, rfl, rfl, rfl, fun _ _ h => h, fun _ h => h, fun _ h => h, fun _ h => h, fun _ h => h, ?_⟩)
  intro k r hk hb
  show (a0.boot.fuses.gens.set a1 a2)[k]? = some r
  rw [List.getElem?_set_ne]
  · exact hk
  · rintro rfl
    rw [List.getD_eq_getElem?_getD, hk] at hn
    simp [hb] at hn
theorem draw_fuses (s : State) : (draw s).2.boot.fuses = s.boot.fuses := rfl
theorem freeGen_burnt {s : State} {g : Nat} (h : freeGen s = some g) : (s.boot.fuses.gens.getD g {}).burnt = false := by
  have := List.find?_some h
  simp only [Bool.and_eq_true, Bool.not_eq_true'] at this
  exact this.2
theorem kept_execFuseBurn (hF : Sub 68719476748 F) : ∀ a0 a1, Kept F z a1 → (OnNext (Kept F z)) (Sys2Proof.Machine.execFuseBurn a0 a1) := by
  intro a0 a1 h
  unfold Machine.execFuseBurn
  refine ans_next ?_
  refine kept_monitorRun (hF.sub rfl) _ _ _ h ?_
  intro s hs
  extract_lets +onlyGivenNames c
  split
  · exact kept_monitorSay (hF.sub rfl) _ _ _ hs
  · split
    · exact kept_monitorSay (hF.sub rfl) _ _ _ hs
    · rename_i g hg
      have hb := freeGen_burnt hg
      split
      · exact kept_monitorSay (hF.sub rfl) _ _ _ (kept_burnGen (hF.sub rfl) _ _ _ hb hs)
      · split
        rename_i v1 s1 e1
        split
        rename_i v2 s2 e2
        have h1 : Kept F z s1 := snd_eq (P := Kept F z) e1 (kept_draw (hF.sub rfl) _ hs)
        have h2 : Kept F z s2 := snd_eq (P := Kept F z) e2 (kept_draw (hF.sub rfl) _ h1)
        have f1 : s1.boot.fuses = s.boot.fuses := by have := draw_fuses s; rw [e1] at this; exact this
        have f2 : s2.boot.fuses = s1.boot.fuses := by have := draw_fuses s1; rw [e2] at this; exact this
        refine kept_monitorSay (hF.sub rfl) _ _ _ (kept_burnGen (hF.sub rfl) _ _ _ ?_ h2)
        rw [f2, f1]; exact hb
theorem kept_execFuseLifeProduction (hF : Sub 68719476744 F) : ∀ a0, Kept F z a0 → (OnNext (Kept F z)) (Sys2Proof.Machine.execFuseLifeProduction a0) := by
  unfold Sys2Proof.Machine.execFuseLifeProduction
  intro v0 v1
  refine ans_next ?_
  refine kept_monitorRun (hF.sub rfl) _ _ _ ?_ ?_
  · with_reducible assumption
  · intro v5 v6
    extract_lets +onlyGivenNames l7_0
    split
    · refine kept_monitorSay (hF.sub rfl) _ _ _ ?_
      with_reducible assumption
    · refine kept_monitorSay (hF.sub rfl) _ _ _ ?_
      refine kept_mk ?_ (hf := .inr (keeps_life _ _))
      with_reducible assumption
theorem kept_execMonitorResetCold (hF : Sub 274877906943 F) : ∀ a0, Kept F z a0 → (OnNext (Kept F z)) (Sys2Proof.Machine.execMonitorResetCold a0) := by
  unfold Sys2Proof.Machine.execMonitorResetCold
  intro v0 v1
  refine ans_next ?_
  refine kept_monitorRun (hF.sub rfl) _ _ _ ?_ ?_
  · with_reducible assumption
  · intro v5 v6
    refine kept_resetAs (hF.sub rfl) _ _ ?_
    refine kept_monitorSay (hF.sub rfl) _ _ _ ?_
    with_reducible assumption
theorem kept_execMonitorResetWarm (hF : Sub 274877906943 F) : ∀ a0, Kept F z a0 → (OnNext (Kept F z)) (Sys2Proof.Machine.execMonitorResetWarm a0) := by
  unfold Sys2Proof.Machine.execMonitorResetWarm
  intro v0 v1
  refine ans_next ?_
  refine kept_monitorRun (hF.sub rfl) _ _ _ ?_ ?_
  · with_reducible assumption
  · intro v5 v6
    refine kept_resetAs (hF.sub rfl) _ _ ?_
    refine kept_monitorSay (hF.sub rfl) _ _ _ ?_
    with_reducible assumption
theorem kept_execMonitorUnknown (hF : Sub 8 F) : ∀ a0, Kept F z a0 → (OnNext (Kept F z)) (Sys2Proof.Machine.execMonitorUnknown a0) := by
  unfold Sys2Proof.Machine.execMonitorUnknown
  intro v0 v1
  refine ans_next ?_
  refine kept_monitorRun (hF.sub rfl) _ _ _ ?_ ?_
  · with_reducible assumption
  · intro v5 v6
    with_reducible assumption
theorem kept_execUartBreak (hF : Sub 137438953472 F) : ∀ a0, Kept F z a0 → (OnNext (Kept F z)) (Sys2Proof.Machine.execUartBreak a0) := by
  unfold Sys2Proof.Machine.execUartBreak
  intro v0 v1
  refine ans_next ?_
  refine kept_mk ?_
  with_reducible assumption

/-! ### Loader -/

theorem kept_loaderRun (hF : Sub 0 F) : ∀ a0 a1, Kept F z a0 → (∀ x0, (Kept F z) (x0) → (Kept F z) (a1 x0)) → (Kept F z) (Sys2Proof.loaderRun a0 a1) := by
  unfold Sys2Proof.loaderRun
  intro v0 v1 v2 v3
  split
  · refine v3 _ ?_
    with_reducible assumption
  · with_reducible assumption
theorem kept_execLoaderHelp (hF : Sub 8 F) : ∀ a0, Kept F z a0 → (OnNext (Kept F z)) (Sys2Proof.Machine.execLoaderHelp a0) := by
  unfold Sys2Proof.Machine.execLoaderHelp
  intro v0 v1
  refine ans_next ?_
  refine kept_loaderRun (hF.sub rfl) _ _ ?_ ?_
  · with_reducible assumption
  · intro v5 v6
    refine kept_monitorSay (hF.sub rfl) _ _ _ ?_
    with_reducible assumption
theorem kept_execLoaderId (hF : Sub 8 F) : ∀ a0, Kept F z a0 → (OnNext (Kept F z)) (Sys2Proof.Machine.execLoaderId a0) := by
  unfold Sys2Proof.Machine.execLoaderId
  intro v0 v1
  refine ans_next ?_
  refine kept_loaderRun (hF.sub rfl) _ _ ?_ ?_
  · with_reducible assumption
  · intro v5 v6
    refine kept_monitorSay (hF.sub rfl) _ _ _ ?_
    with_reducible assumption
theorem kept_execLoaderBaud (hF : Sub 137438953480 F) : ∀ a0 a1, Kept F z a1 → (OnNext (Kept F z)) (Sys2Proof.Machine.execLoaderBaud a0 a1) := by
  unfold Sys2Proof.Machine.execLoaderBaud
  intro v0 v1 v2
  refine ans_next ?_
  refine kept_loaderRun (hF.sub rfl) _ _ ?_ ?_
  · with_reducible assumption
  · intro v6 v7
    refine kept_setBaud (hF.sub rfl) _ _ ?_
    with_reducible assumption
theorem kept_startTransfer (hF : Sub 137438953480 F) : ∀ a0 a1 a2, Kept F z a0 → (Kept F z) (Sys2Proof.startTransfer a0 a1 a2) := by
  unfold Sys2Proof.startTransfer
  intro v0 v1 v2 v3
  refine kept_emit (hF.sub rfl) _ _ ?_
  refine kept_mk ?_
  with_reducible assumption
theorem kept_execKey (hF : Sub 137438953480 F) : ∀ a0, Kept F z a0 → (OnNext (Kept F z)) (Sys2Proof.Machine.execKey a0) := by
  unfold Sys2Proof.Machine.execKey
  intro v0 v1
  refine ans_next ?_
  refine kept_loaderRun (hF.sub rfl) _ _ ?_ ?_
  · with_reducible assumption
  · intro v5 v6
    refine kept_startTransfer (hF.sub rfl) _ _ _ ?_
    with_reducible assumption
theorem kept_execImage (hF : Sub 137438953480 F) : ∀ a0 a1 a2, Kept F z a2 → (OnNext (Kept F z)) (Sys2Proof.Machine.execImage a0 a1 a2) := by
  unfold Sys2Proof.Machine.execImage
  intro v0 v1 v2 v3
  refine ans_next ?_
  refine kept_loaderRun (hF.sub rfl) _ _ ?_ ?_
  · with_reducible assumption
  · intro v7 v8
    split
    · refine kept_monitorSay (hF.sub rfl) _ _ _ ?_
      with_reducible assumption
    · refine kept_startTransfer (hF.sub rfl) _ _ _ ?_
      with_reducible assumption
theorem kept_execLoaderWrite (hF : Sub 141733920776 F) : ∀ a0 a1, Kept F z a1 → (OnNext (Kept F z)) (Sys2Proof.Machine.execLoaderWrite a0 a1) := by
  unfold Sys2Proof.Machine.execLoaderWrite
  intro v0 v1 v2
  refine ans_next ?_
  refine kept_loaderRun (hF.sub rfl) _ _ ?_ ?_
  · with_reducible assumption
  · intro v6 v7
    extract_lets +onlyGivenNames l8_0
    clear_value l8_0
    split
    · refine kept_monitorSay (hF.sub rfl) _ _ _ ?_
      with_reducible assumption
    · split
      · refine kept_monitorSay (hF.sub rfl) _ _ _ ?_
        with_reducible assumption
      · extract_lets +onlyGivenNames l15_0 l15_1
        clear_value l15_0 l15_1
        refine kept_monitorSay (hF.sub rfl) _ _ _ ?_
        refine kept_mk ?_
        with_reducible assumption
theorem kept_execChallenge (hF : Sub 137438953480 F) : ∀ a0 a1, Kept F z a1 → (OnNext (Kept F z)) (Sys2Proof.Machine.execChallenge a0 a1) := by
  unfold Sys2Proof.Machine.execChallenge
  intro v0 v1 v2
  refine ans_next ?_
  refine kept_loaderRun (hF.sub rfl) _ _ ?_ ?_
  · with_reducible assumption
  · intro v6 v7
    refine kept_monitorSay (hF.sub rfl) _ _ _ ?_
    refine kept_mk ?_
    with_reducible assumption
theorem kept_execLoaderReturn (hF : Sub 137438953480 F) : ∀ a0, Kept F z a0 → (OnNext (Kept F z)) (Sys2Proof.Machine.execLoaderReturn a0) := by
  unfold Sys2Proof.Machine.execLoaderReturn
  intro v0 v1
  refine ans_next ?_
  refine kept_loaderRun (hF.sub rfl) _ _ ?_ ?_
  · with_reducible assumption
  · intro v5 v6
    refine kept_startTransfer (hF.sub rfl) _ _ _ ?_
    with_reducible assumption
theorem kept_endTransfer (hF : Sub 206158430220 F) : ∀ a0 a1 a2 a3, Kept F z a0 → (Kept F z) (Sys2Proof.endTransfer a0 a1 a2 a3) := by
  unfold Sys2Proof.endTransfer
  intro v0 v1 v2 v3 v4
  extract_lets +onlyGivenNames l5_0
  clear_value l5_0
  extract_lets +onlyGivenNames l6_0
  refine (fun (el6_0 : (Kept F z) l6_0) => ?_) ?_
  rotate_left
  · refine kept_mk ?_
    with_reducible assumption
  clear_value l6_0
  split
  · split
    · refine kept_monitorSay (hF.sub rfl) _ _ _ ?_
      refine kept_mk ?_
      with_reducible assumption
    · refine kept_monitorSay (hF.sub rfl) _ _ _ ?_
      with_reducible assumption
  · split
    · refine kept_monitorSay (hF.sub rfl) _ _ _ ?_
      refine kept_mk ?_
      with_reducible assumption
    · extract_lets +onlyGivenNames l20_0 l20_1
      clear_value l20_0
      split
      · refine kept_monitorSay (hF.sub rfl) _ _ _ ?_
        with_reducible assumption
      · split
        · refine kept_monitorSay (hF.sub rfl) _ _ _ ?_
          with_reducible assumption
        · split
          · refine kept_monitorSay (hF.sub rfl) _ _ _ ?_
            with_reducible assumption
          · split
            · split
              refine kept_monitorSay (hF.sub rfl) _ _ _ ?_
              refine snd_eq (by assumption) (?_ : OnSnd (Kept F z) (Sys2Proof.draw _))
              refine kept_draw (hF.sub rfl) _ ?_
              with_reducible assumption
            · refine kept_monitorSay (hF.sub rfl) _ _ _ ?_
              refine kept_mk ?_ (hf := .inr (keeps_ret _ _))
              with_reducible assumption
theorem kept_execLoaderBlock (hF : Sub 206158430220 F) : ∀ a0 a1 a2 a3, Kept F z a3 → (OnNext (Kept F z)) (Sys2Proof.Machine.execLoaderBlock a0 a1 a2 a3) := by
  unfold Sys2Proof.Machine.execLoaderBlock
  intro v0 v1 v2 v3 v4
  split
  · refine ans_next ?_
    with_reducible assumption
  · split
    · refine ans_next ?_
      with_reducible assumption
    · split
      · extract_lets +onlyGivenNames l12_0 l12_1
        refine (fun (el12_0 : (Kept F z) l12_0) => ?_) ?_
        rotate_left
        · refine kept_emit (hF.sub rfl) _ _ ?_
          with_reducible assumption
        clear_value l12_0 l12_1
        split
        · refine ans_next ?_
          refine kept_mk ?_
          with_reducible assumption
        · refine ans_next ?_
          refine kept_endTransfer (hF.sub rfl) _ _ _ _ ?_
          with_reducible assumption
      · extract_lets +onlyGivenNames l22_0
        refine (fun (el22_0 : (Kept F z) l22_0) => ?_) ?_
        rotate_left
        · refine kept_emit (hF.sub rfl) _ _ ?_
          with_reducible assumption
        clear_value l22_0
        split
        · refine ans_next ?_
          refine kept_monitorSay (hF.sub rfl) _ _ _ ?_
          refine kept_mk ?_
          with_reducible assumption
        · refine ans_next ?_
          refine kept_mk ?_
          with_reducible assumption
theorem kept_execLoaderUnknown (hF : Sub 8 F) : ∀ a0, Kept F z a0 → (OnNext (Kept F z)) (Sys2Proof.Machine.execLoaderUnknown a0) := by
  unfold Sys2Proof.Machine.execLoaderUnknown
  intro v0 v1
  refine ans_next ?_
  refine kept_loaderRun (hF.sub rfl) _ _ ?_ ?_
  · with_reducible assumption
  · intro v5 v6
    refine kept_monitorSay (hF.sub rfl) _ _ _ ?_
    with_reducible assumption

end Sys2Proof.Laws
end

