-- ==== Sys2Proof/Laws/KeptNet.lean ====
section
/-!
SUPPORT. What the definitions of queue pairs, SMBus, tables, the Snare and the clock keep (Laws/Kept.lean).
-/
namespace Sys2Proof.Laws

set_option maxRecDepth 4000

set_option Elab.async false

open Sys2Proof.Machine (State Fault Refusal)

variable {z : State} {F : Nat}

/-! ### Send -/

theorem kept_transferRun (hF : Sub 268451840 F) : ∀ a0 a1 a2 a3, Kept F z a3 → (Kept F z) (Sys2Proof.transferRun a0 a1 a2 a3) := by
  unfold Sys2Proof.transferRun
  intro v0 v1 v2 v3 v4
  extract_lets +onlyGivenNames l5_0
  clear_value l5_0
  split
  · refine kept_endDesc (hF.sub rfl) _ _ _ ?_
    with_reducible assumption
  · split
    · refine kept_endDesc (hF.sub rfl) _ _ _ ?_
      with_reducible assumption
    · split
      · refine kept_endDesc (hF.sub rfl) _ _ _ ?_
        with_reducible assumption
      · split
        · refine kept_endDesc (hF.sub rfl) _ _ _ ?_
          with_reducible assumption
        · split
          · with_reducible assumption
          · split
            · refine kept_wantContext (hF.sub rfl) _ _ ?_
              with_reducible assumption
            · extract_lets +onlyGivenNames l23_0 l23_1
              clear_value l23_0 l23_1
              split
              · refine kept_endDesc (hF.sub rfl) _ _ _ ?_
                with_reducible assumption
              · split
                · refine kept_endDesc (hF.sub rfl) _ _ _ ?_
                  with_reducible assumption
                · extract_lets +onlyGivenNames l30_0 l30_1
                  clear_value l30_0
                  refine (fun (el30_1 : (Kept F z) l30_1) => ?_) ?_
                  rotate_left
                  · refine kept_modQp (hF.sub rfl) _ _ _ ?_
                    with_reducible assumption
                  clear_value l30_1
                  refine kept_addMsg (hF.sub rfl) _ _ _ ?_
                  refine kept_putDesc (hF.sub rfl) _ _ ?_
                  with_reducible assumption
theorem kept_fabricLocal (hF : Sub 402669572 F) : ∀ a0 a1 a2, Kept F z a2 → (Kept F z) (Sys2Proof.fabricLocal a0 a1 a2) := by
  unfold Sys2Proof.fabricLocal
  intro v0 v1 v2 v3
  split
  · refine kept_endDesc (hF.sub rfl) _ _ _ ?_
    with_reducible assumption
  · split
    · refine kept_endDesc (hF.sub rfl) _ _ _ ?_
      with_reducible assumption
    · split
      · refine kept_endDesc (hF.sub rfl) _ _ _ ?_
        with_reducible assumption
      · split
        · refine kept_endDesc (hF.sub rfl) _ _ _ ?_
          with_reducible assumption
        · split
          · refine kept_endDesc (hF.sub rfl) _ _ _ ?_
            with_reducible assumption
          · extract_lets +onlyGivenNames l19_0
            clear_value l19_0
            split
            · refine kept_fabDeliver (hF.sub rfl) _ _ _ ?_
              refine kept_putDesc (hF.sub rfl) _ _ ?_
              with_reducible assumption
            · split
              refine kept_fabDeliver (hF.sub rfl) _ _ _ ?_
              refine kept_putDesc (hF.sub rfl) _ _ ?_
              refine snd_eq (by assumption) (?_ : OnSnd (Kept F z) (Sys2Proof.draw _))
              refine kept_draw (hF.sub rfl) _ ?_
              with_reducible assumption
theorem kept_execMessage (hF : Sub 17448583168 F) : ∀ a0 a1 a2 a3, Kept F z a3 → (OnNext (Kept F z)) (Sys2Proof.Machine.execMessage a0 a1 a2 a3) := by
  unfold Sys2Proof.Machine.execMessage
  intro v0 v1 v2 v3 v4
  refine kept_stationRun (hF.sub rfl) _ _ _ _ _ _ _ ?_ ?_
  · with_reducible assumption
  · intro v7 v8 v9
    refine kept_transferRun (hF.sub rfl) _ _ _ _ ?_
    with_reducible assumption
theorem kept_execWrite (hF : Sub 17448583168 F) : ∀ a0 a1 a2 a3, Kept F z a3 → (OnNext (Kept F z)) (Sys2Proof.Machine.execWrite a0 a1 a2 a3) := by
  unfold Sys2Proof.Machine.execWrite
  intro v0 v1 v2 v3 v4
  refine kept_stationRun (hF.sub rfl) _ _ _ _ _ _ _ ?_ ?_
  · with_reducible assumption
  · intro v7 v8 v9
    refine kept_transferRun (hF.sub rfl) _ _ _ _ ?_
    with_reducible assumption
theorem kept_execRead (hF : Sub 17448583168 F) : ∀ a0 a1 a2, Kept F z a2 → (OnNext (Kept F z)) (Sys2Proof.Machine.execRead a0 a1 a2) := by
  unfold Sys2Proof.Machine.execRead
  intro v0 v1 v2 v3
  refine kept_stationRun (hF.sub rfl) _ _ _ _ _ _ _ ?_ ?_
  · with_reducible assumption
  · intro v6 v7 v8
    refine kept_transferRun (hF.sub rfl) _ _ _ _ ?_
    with_reducible assumption
theorem kept_execFabric (hF : Sub 17582800900 F) : ∀ a0 a1 a2 a3, Kept F z a3 → (OnNext (Kept F z)) (Sys2Proof.Machine.execFabric a0 a1 a2 a3) := by
  unfold Sys2Proof.Machine.execFabric
  intro v0 v1 v2 v3 v4
  refine kept_stationRun (hF.sub rfl) _ _ _ _ _ _ _ ?_ ?_
  · with_reducible assumption
  · intro v7 v8 v9
    split
    · refine kept_fabricLocal (hF.sub rfl) _ _ _ ?_
      with_reducible assumption
    · refine kept_transferRun (hF.sub rfl) _ _ _ _ ?_
      with_reducible assumption
theorem kept_qpDone (hF : Sub 47186443260 F) : ∀ a0 a1 a2 a3 a4, Kept F z a0 → (Kept F z) (Sys2Proof.qpDone a0 a1 a2 a3 a4) := by
  unfold Sys2Proof.qpDone
  intro v0 v1 v2 v3 v4 v5
  extract_lets +onlyGivenNames l6_0
  clear_value l6_0
  split
  · refine kept_putDesc (hF.sub rfl) _ _ ?_
    with_reducible assumption
  · refine kept_changeQp (hF.sub rfl) _ _ ?_
    refine kept_putDesc (hF.sub rfl) _ _ ?_
    with_reducible assumption
theorem kept_qpSetupRun (hF : Sub 47186443260 F) : ∀ a0 a1, Kept F z a1 → (Kept F z) (Sys2Proof.qpSetupRun a0 a1) := by
  unfold Sys2Proof.qpSetupRun
  intro v0 v1 v2
  extract_lets +onlyGivenNames l3_0
  clear_value l3_0
  split
  · refine kept_endDesc (hF.sub rfl) _ _ _ ?_
    with_reducible assumption
  · split
    · refine kept_endDesc (hF.sub rfl) _ _ _ ?_
      with_reducible assumption
    · split
      · refine kept_endDesc (hF.sub rfl) _ _ _ ?_
        with_reducible assumption
      · split
        · with_reducible assumption
        · split
          · refine kept_endDesc (hF.sub rfl) _ _ _ ?_
            with_reducible assumption
          · split
            · refine kept_noKeys (hF.sub rfl) _ _ ?_
              with_reducible assumption
            · extract_lets +onlyGivenNames l21_0
              clear_value l21_0
              split
              · refine kept_endDesc (hF.sub rfl) _ _ _ ?_
                with_reducible assumption
              · split
                · split
                  · refine kept_endDesc (hF.sub rfl) _ _ _ ?_
                    with_reducible assumption
                  · with_reducible assumption
                · split
                  extract_lets +onlyGivenNames l31_0
                  clear_value l31_0
                  refine kept_qpDone (hF.sub rfl) _ _ _ _ _ ?_
                  refine snd_eq (by assumption) (?_ : OnSnd (Kept F z) _)
                  split
                  · refine kept_draw (hF.sub rfl) _ ?_
                    refine os_eq (by assumption) (?_ : OnSome (OnSnd (Kept F z)) (Sys2Proof.takeContext _ _ _ _))
                    refine kept_takeContext (hF.sub rfl) _ _ _ _ ?_
                    with_reducible assumption
                  · refine snd_mk ?_
                    refine os_eq (by assumption) (?_ : OnSome (OnSnd (Kept F z)) (Sys2Proof.takeContext _ _ _ _))
                    refine kept_takeContext (hF.sub rfl) _ _ _ _ ?_
                    with_reducible assumption
theorem kept_execQpSetup (hF : Sub 64366312444 F) : ∀ a0 a1 a2, Kept F z a2 → (OnNext (Kept F z)) (Sys2Proof.Machine.execQpSetup a0 a1 a2) := by
  unfold Sys2Proof.Machine.execQpSetup
  intro v0 v1 v2 v3
  refine kept_stationRun (hF.sub rfl) _ _ _ _ _ _ _ ?_ ?_
  · with_reducible assumption
  · intro v6 v7 v8
    refine kept_qpSetupRun (hF.sub rfl) _ _ ?_
    with_reducible assumption
theorem kept_qpNamed (hF : Sub 16384 F) : ∀ a0 a1 a2 a3, Kept F z a0 → (∀ x0, (∀ x1, (∀ x2, (Kept F z) (x2) → (Kept F z) (a3 x0 x1 x2)))) → (Kept F z) (Sys2Proof.qpNamed a0 a1 a2 a3) := by
  unfold Sys2Proof.qpNamed
  intro v0 v1 v2 v3 v4 v5
  extract_lets +onlyGivenNames l6_0
  clear_value l6_0
  split
  · refine kept_endDesc (hF.sub rfl) _ _ _ ?_
    with_reducible assumption
  · split
    · refine kept_endDesc (hF.sub rfl) _ _ _ ?_
      with_reducible assumption
    · split
      · refine kept_endDesc (hF.sub rfl) _ _ _ ?_
        with_reducible assumption
      · refine v5 _ _ _ ?_
        with_reducible assumption
theorem kept_qpModify (hF : Sub 16384 F) : ∀ a0 a1 a2 a3 a4 a5, Kept F z a0 → (∀ x0, (∀ x1, (∀ x2, (∀ x3, (Kept F z) (x3) → (Kept F z) (a5 x0 x1 x2 x3))))) → (OnNext (Kept F z)) (Sys2Proof.qpModify a0 a1 a2 a3 a4 a5) := by
  unfold Sys2Proof.qpModify
  intro v0 v1 v2 v3 v4 v5 v6 v7
  split
  · split
    · refine ans_next ?_
      refine kept_qpNamed (hF.sub rfl) _ _ _ _ ?_ ?_
      · with_reducible assumption
      · intro v13 v14 v15 v16
        refine v7 _ _ _ _ ?_
        with_reducible assumption
    · refine ans_next ?_
      with_reducible assumption
  · refine ans_next ?_
    with_reducible assumption
theorem kept_execQpModifyError (hF : Sub 47186443260 F) : ∀ a0 a1 a2, Kept F z a2 → (OnNext (Kept F z)) (Sys2Proof.Machine.execQpModifyError a0 a1 a2) := by
  unfold Sys2Proof.Machine.execQpModifyError
  intro v0 v1 v2 v3
  refine kept_qpModify (hF.sub rfl) _ _ _ _ _ _ ?_ ?_
  · with_reducible assumption
  · intro v6 v7 v8 v9 v10
    refine kept_qpDone (hF.sub rfl) _ _ _ _ _ ?_
    with_reducible assumption
theorem kept_execQpModifyDrain (hF : Sub 47186443260 F) : ∀ a0 a1 a2, Kept F z a2 → (OnNext (Kept F z)) (Sys2Proof.Machine.execQpModifyDrain a0 a1 a2) := by
  unfold Sys2Proof.Machine.execQpModifyDrain
  intro v0 v1 v2 v3
  refine kept_qpModify (hF.sub rfl) _ _ _ _ _ _ ?_ ?_
  · with_reducible assumption
  · intro v6 v7 v8 v9 v10
    refine kept_qpDone (hF.sub rfl) _ _ _ _ _ ?_
    with_reducible assumption
theorem kept_execQpModifyReset (hF : Sub 47186443260 F) : ∀ a0 a1 a2, Kept F z a2 → (OnNext (Kept F z)) (Sys2Proof.Machine.execQpModifyReset a0 a1 a2) := by
  unfold Sys2Proof.Machine.execQpModifyReset
  intro v0 v1 v2 v3
  refine kept_qpModify (hF.sub rfl) _ _ _ _ _ _ ?_ ?_
  · with_reducible assumption
  · intro v6 v7 v8 v9 v10
    split
    · refine kept_qpDone (hF.sub rfl) _ _ _ _ _ ?_
      with_reducible assumption
    · split
      refine kept_endDesc (hF.sub rfl) _ _ _ ?_
      refine snd_eq (by assumption) (?_ : OnSnd (Kept F z) (Sys2Proof.draw _))
      refine kept_draw (hF.sub rfl) _ ?_
      with_reducible assumption
theorem kept_execQpModifyRekey (hF : Sub 47186443261 F) : ∀ a0 a1 a2 a3, Kept F z a3 → (OnNext (Kept F z)) (Sys2Proof.Machine.execQpModifyRekey a0 a1 a2 a3) := by
  unfold Sys2Proof.Machine.execQpModifyRekey
  intro v0 v1 v2 v3 v4
  refine kept_qpModify (hF.sub rfl) _ _ _ _ _ _ ?_ ?_
  · refine kept_atTime (hF.sub rfl) _ _ ?_
    with_reducible assumption
  · intro v8 v9 v10 v11 v12
    split
    · with_reducible assumption
    · split
      · split
        · refine kept_endDesc (hF.sub rfl) _ _ _ ?_
          with_reducible assumption
        · split
          · refine kept_noKeys (hF.sub rfl) _ _ ?_
            with_reducible assumption
          · refine kept_qpDone (hF.sub rfl) _ _ _ _ _ ?_
            with_reducible assumption
      · refine kept_endDesc (hF.sub rfl) _ _ _ ?_
        with_reducible assumption
theorem kept_execQpModifyLanes (hF : Sub 47186443260 F) : ∀ a0 a1 a2, Kept F z a2 → (OnNext (Kept F z)) (Sys2Proof.Machine.execQpModifyLanes a0 a1 a2) := by
  unfold Sys2Proof.Machine.execQpModifyLanes
  intro v0 v1 v2 v3
  refine kept_qpModify (hF.sub rfl) _ _ _ _ _ _ ?_ ?_
  · with_reducible assumption
  · intro v6 v7 v8 v9 v10
    extract_lets +onlyGivenNames l11_0
    clear_value l11_0
    split
    · refine kept_endDesc (hF.sub rfl) _ _ _ ?_
      with_reducible assumption
    · split
      · with_reducible assumption
      · refine kept_qpDone (hF.sub rfl) _ _ _ _ _ ?_
        with_reducible assumption
theorem kept_execQpDestroy (hF : Sub 64366312444 F) : ∀ a0 a1 a2, Kept F z a2 → (OnNext (Kept F z)) (Sys2Proof.Machine.execQpDestroy a0 a1 a2) := by
  unfold Sys2Proof.Machine.execQpDestroy
  intro v0 v1 v2 v3
  refine kept_stationRun (hF.sub rfl) _ _ _ _ _ _ _ ?_ ?_
  · with_reducible assumption
  · intro v6 v7 v8
    refine kept_qpNamed (hF.sub rfl) _ _ _ _ ?_ ?_
    · with_reducible assumption
    · intro v11 v12 v13 v14
      refine kept_qpDone (hF.sub rfl) _ _ _ _ _ ?_
      with_reducible assumption
theorem kept_execQpQuery (hF : Sub 17180147712 F) : ∀ a0 a1 a2, Kept F z a2 → (OnNext (Kept F z)) (Sys2Proof.Machine.execQpQuery a0 a1 a2) := by
  unfold Sys2Proof.Machine.execQpQuery
  intro v0 v1 v2 v3
  refine kept_stationRun (hF.sub rfl) _ _ _ _ _ _ _ ?_ ?_
  · with_reducible assumption
  · intro v6 v7 v8
    refine kept_qpNamed (hF.sub rfl) _ _ _ _ ?_ ?_
    · with_reducible assumption
    · intro v11 v12 v13 v14
      extract_lets +onlyGivenNames l15_0 l15_1
      clear_value l15_0 l15_1
      refine kept_putDesc (hF.sub rfl) _ _ ?_
      with_reducible assumption
theorem kept_placeBytes (hF : Sub 1008 F) : ∀ a0 a1 a2 a3 a4, Kept F z a0 → (OnResult Always (Kept F z)) (Sys2Proof.placeBytes a0 a1 a2 a3 a4) := by
  unfold Sys2Proof.placeBytes
  intro v0 v1 v2 v3 v4 v5
  split
  · exact exc_error trivial
  · split
    · exact exc_error trivial
    · refine exc_ok ?_
      refine kept_writeLoc (hF.sub rfl) _ _ _ _ _ ?_
      with_reducible assumption
theorem kept_placePieces (hF : Sub 1008 F) : ∀ a0 a1 a2 a3 a4 a5 a6, Kept F z a0 → (OnResult Always (OnFst (Kept F z))) (Sys2Proof.placePieces a0 a1 a2 a3 a4 a5 a6) := by
  intro a0 a1 a2 a3 a4 a5 a6 h
  unfold placePieces
  split
  · split
    · exact exc_map (kept_placeBytes (hF.sub rfl) _ _ _ _ _ h) fun x hx => hx
    · exact h
  · exact exc_map (foldlM_kept h fun x b hx => kept_placeBytes (hF.sub rfl) _ _ _ _ _ hx) fun x hx => hx
theorem kept_recvDone (hF : Sub 47186443260 F) : ∀ a0 a1 a2, Kept F z a0 → (Kept F z) (Sys2Proof.recvDone a0 a1 a2) := by
  unfold Sys2Proof.recvDone
  intro v0 v1 v2 v3
  split
  · with_reducible assumption
  · extract_lets +onlyGivenNames l6_0
    refine (fun (el6_0 : (Kept F z) l6_0) => ?_) ?_
    rotate_left
    · refine kept_modQp (hF.sub rfl) _ _ _ ?_
      with_reducible assumption
    clear_value l6_0
    refine kept_endNow (hF.sub rfl) _ _ _ _ _ _ ?_
    with_reducible assumption
theorem kept_recvRefused (hF : Sub 47186443260 F) : ∀ a0 a1 a2 a3 a4, Kept F z a0 → (Kept F z) (Sys2Proof.recvRefused a0 a1 a2 a3 a4) := by
  unfold Sys2Proof.recvRefused
  intro v0 v1 v2 v3 v4 v5
  refine kept_endNow (hF.sub rfl) _ _ _ _ _ _ ?_
  refine kept_modQp (hF.sub rfl) _ _ _ ?_
  with_reducible assumption
theorem kept_matchTo (hF : Sub 47186443260 F) : ∀ a0 a1 a2 a3, Kept F z a0 → (Kept F z) (Sys2Proof.matchTo a0 a1 a2 a3) := by
  unfold Sys2Proof.matchTo
  intro v0 v1 v2 v3 v4
  extract_lets +onlyGivenNames l5_0
  split
  · dsimp -zeta only [l5_0]
    refine kept_modQp (hF.sub rfl) _ _ _ ?_
    with_reducible assumption
  · split
    · with_reducible assumption
    · extract_lets +onlyGivenNames l12_0
      clear_value l12_0
      split
      · refine kept_recvRefused (hF.sub rfl) _ _ _ _ _ ?_
        with_reducible assumption
      · extract_lets +onlyGivenNames l16_0 l16_1
        clear_value l16_0
        refine (fun (el16_1 : (Kept F z) l16_1) => ?_) ?_
        rotate_left
        · dsimp -zeta only [l16_1]
          dsimp -zeta only [l5_0]
          refine kept_modQp (hF.sub rfl) _ _ _ ?_
          refine xf_eq (by assumption) (?_ : OnResult Always (OnFst (Kept F z)) (Sys2Proof.placePieces _ _ _ _ _ _ _))
          refine kept_placePieces (hF.sub rfl) _ _ _ _ _ _ _ ?_
          with_reducible assumption
        clear_value l16_1
        split
        · refine kept_recvDone (hF.sub rfl) _ _ _ ?_
          with_reducible assumption
        · with_reducible assumption
theorem kept_postRun (hF : Sub 47186443260 F) : ∀ a0 a1, Kept F z a1 → (Kept F z) (Sys2Proof.postRun a0 a1) := by
  unfold Sys2Proof.postRun
  intro v0 v1 v2
  extract_lets +onlyGivenNames l3_0 l3_1
  clear_value l3_0 l3_1
  split
  · refine kept_endDesc (hF.sub rfl) _ _ _ ?_
    with_reducible assumption
  · split
    · refine kept_endDesc (hF.sub rfl) _ _ _ ?_
      with_reducible assumption
    · split
      · refine kept_endDesc (hF.sub rfl) _ _ _ ?_
        with_reducible assumption
      · split
        · refine kept_endDesc (hF.sub rfl) _ _ _ ?_
          with_reducible assumption
        · split
          · refine kept_endDesc (hF.sub rfl) _ _ _ ?_
            with_reducible assumption
          · split
            · refine kept_wantContext (hF.sub rfl) _ _ ?_
              with_reducible assumption
            · split
              · refine kept_endDesc (hF.sub rfl) _ _ _ ?_
                with_reducible assumption
              · split
                · refine kept_endDesc (hF.sub rfl) _ _ _ ?_
                  with_reducible assumption
                · extract_lets +onlyGivenNames l28_0 l28_1 l28_2 l28_3 l28_4
                  clear_value l28_0
                  refine (fun (el28_1 : (Kept F z) l28_1) => ?_) ?_
                  rotate_left
                  · refine kept_modQp (hF.sub rfl) _ _ _ ?_
                    refine kept_putDesc (hF.sub rfl) _ _ ?_
                    with_reducible assumption
                  clear_value l28_1 l28_2 l28_3
                  refine (fun (el28_4 : (Kept F z) l28_4) => ?_) ?_
                  rotate_left
                  · refine foldl_kept (P := (Kept F z)) ?_ ?_
                    · with_reducible assumption
                    · intro v34 v35 v36
                      refine kept_matchTo (hF.sub rfl) _ _ _ _ ?_
                      with_reducible assumption
                  clear_value l28_4
                  split
                  · refine kept_matchTo (hF.sub rfl) _ _ _ _ ?_
                    with_reducible assumption
                  · with_reducible assumption
theorem kept_execPost (hF : Sub 64366312444 F) : ∀ a0 a1 a2, Kept F z a2 → (OnNext (Kept F z)) (Sys2Proof.Machine.execPost a0 a1 a2) := by
  unfold Sys2Proof.Machine.execPost
  intro v0 v1 v2 v3
  refine kept_stationRun (hF.sub rfl) _ _ _ _ _ _ _ ?_ ?_
  · with_reducible assumption
  · intro v6 v7 v8
    refine kept_postRun (hF.sub rfl) _ _ ?_
    with_reducible assumption
theorem kept_execMessageStart (hF : Sub 47186443261 F) : ∀ a0 a1 a2, Kept F z a2 → (OnNext (Kept F z)) (Sys2Proof.Machine.execMessageStart a0 a1 a2) := by
  unfold Sys2Proof.Machine.execMessageStart
  intro v0 v1 v2 v3
  split
  · refine ans_next ?_
    with_reducible assumption
  · extract_lets +onlyGivenNames l7_0
    clear_value l7_0
    split
    · refine ans_next ?_
      with_reducible assumption
    · split
      · refine ans_next ?_
        with_reducible assumption
      · extract_lets +onlyGivenNames l14_0 l14_1
        refine (fun (el14_0 : (Kept F z) l14_0) => ?_) ?_
        rotate_left
        · refine kept_atTime (hF.sub rfl) _ _ ?_
          with_reducible assumption
        clear_value l14_0
        refine (fun (el14_1 : (Kept F z) l14_1) => ?_) ?_
        rotate_left
        · refine foldl_kept (P := (Kept F z)) ?_ ?_
          · with_reducible assumption
          · intro v19 v20 v21
            refine kept_closeLane (hF.sub rfl) _ _ _ ?_
            with_reducible assumption
        clear_value l14_1
        split
        · refine ans_next ?_
          with_reducible assumption
        · split
          · refine ans_next ?_
            refine kept_settleDrains (hF.sub rfl) _ ?_
            with_reducible assumption
          · extract_lets +onlyGivenNames l31_0 l31_1 l31_2
            clear_value l31_0
            refine (fun (el31_1 : (Kept F z) l31_1) => ?_) ?_
            rotate_left
            · dsimp -zeta only [l31_1]
              split
              · refine kept_putDesc (hF.sub rfl) _ _ ?_
                with_reducible assumption
              · with_reducible assumption
            clear_value l31_1
            refine (fun (el31_2 : (Kept F z) l31_2) => ?_) ?_
            rotate_left
            · refine kept_modQp (hF.sub rfl) _ _ _ ?_
              with_reducible assumption
            clear_value l31_2
            refine ans_next ?_
            refine kept_pumpQp (hF.sub rfl) _ _ ?_
            with_reducible assumption

/-! ### Receive -/

theorem kept_discard (hF : Sub 268437504 F) : ∀ a0 a1 a2, Kept F z a0 → (Kept F z) (Sys2Proof.discard a0 a1 a2) := by
  unfold Sys2Proof.discard
  intro v0 v1 v2 v3
  extract_lets +onlyGivenNames l4_0
  clear_value l4_0
  extract_lets +onlyGivenNames l5_0
  refine (fun (el5_0 : (Kept F z) l5_0) => ?_) ?_
  rotate_left
  · refine kept_mk ?_
    with_reducible assumption
  clear_value l5_0
  split
  · split
    · refine kept_count (hF.sub rfl) _ _ _ _ ?_
      with_reducible assumption
    · refine kept_count (hF.sub rfl) _ _ _ _ ?_
      with_reducible assumption
  · with_reducible assumption
theorem kept_admission (hF : Sub 805308416 F) : ∀ a0 a1, Kept F z a0 → (OnResult (Kept F z) Always) (Sys2Proof.admission a0 a1) := by
  unfold Sys2Proof.admission
  intro v0 v1 v2
  split
  · refine exc_error ?_
    refine kept_discard (hF.sub rfl) _ _ _ ?_
    with_reducible assumption
  · split
    · refine exc_error ?_
      refine kept_discard (hF.sub rfl) _ _ _ ?_
      with_reducible assumption
    · split
      · refine exc_error ?_
        refine kept_discard (hF.sub rfl) _ _ _ ?_
        with_reducible assumption
      · split
        · refine exc_error ?_
          refine kept_discard (hF.sub rfl) _ _ _ ?_
          with_reducible assumption
        · extract_lets +onlyGivenNames l19_0
          clear_value l19_0
          split
          · refine exc_error ?_
            refine kept_countNode (hF.sub rfl) _ _ ?_
            refine kept_discard (hF.sub rfl) _ _ _ ?_
            with_reducible assumption
          · split
            · refine exc_error ?_
              refine kept_discard (hF.sub rfl) _ _ _ ?_
              with_reducible assumption
            · split
              · refine exc_error ?_
                refine kept_discard (hF.sub rfl) _ _ _ ?_
                with_reducible assumption
              · exact exc_ok trivial
theorem kept_missPacket (hF : Sub 268437504 F) : ∀ a0 a1 a2 a3, Kept F z a0 → (Kept F z) (Sys2Proof.missPacket a0 a1 a2 a3) := by
  unfold Sys2Proof.missPacket
  intro v0 v1 v2 v3 v4
  extract_lets +onlyGivenNames l5_0
  refine (fun (el5_0 : (Kept F z) l5_0) => ?_) ?_
  rotate_left
  · refine kept_wantContext (hF.sub rfl) _ _ ?_
    with_reducible assumption
  clear_value l5_0
  split
  · refine kept_mk ?_
    with_reducible assumption
  · extract_lets +onlyGivenNames l11_0
    refine (fun (el11_0 : (Kept F z) l11_0) => ?_) ?_
    rotate_left
    · refine kept_count (hF.sub rfl) _ _ _ _ ?_
      with_reducible assumption
    clear_value l11_0
    split
    · refine kept_mk ?_
      with_reducible assumption
    · with_reducible assumption
theorem kept_putRx (hF : Sub 268435456 F) : ∀ a0 a1 a2, Kept F z a0 → (Kept F z) (Sys2Proof.putRx a0 a1 a2) := by
  unfold Sys2Proof.putRx
  intro v0 v1 v2 v3
  refine kept_modQp (hF.sub rfl) _ _ _ ?_
  with_reducible assumption
theorem kept_putUnexpected (hF : Sub 268435456 F) : ∀ a0 a1 a2, Kept F z a0 → (Kept F z) (Sys2Proof.putUnexpected a0 a1 a2) := by
  unfold Sys2Proof.putUnexpected
  intro v0 v1 v2 v3
  refine kept_modQp (hF.sub rfl) _ _ _ ?_
  with_reducible assumption
theorem kept_judgeTagged (hF : Sub 47186443260 F) : ∀ a0 a1 a2, Kept F z a0 → (Kept F z) (Sys2Proof.judgeTagged a0 a1 a2) := by
  intro a0 a1 a2
  induction a2 generalizing a0 with
  | zero => intro h; exact h
  | succ n ih =>
    intro h
    unfold judgeTagged
    split
    · with_reducible assumption
    · split
      · with_reducible assumption
      · extract_lets +onlyGivenNames l4_0
        refine (fun (el4_0 : (Kept F z) l4_0) => ?_) ?_
        rotate_left
        · dsimp -zeta only [l4_0]
          split
          · refine kept_matchTo (hF.sub rfl) _ _ _ _ ?_
            with_reducible assumption
          · refine kept_putUnexpected (hF.sub rfl) _ _ _ ?_
            with_reducible assumption
        clear_value l4_0
        refine ih _ ?_
        with_reducible assumption
theorem kept_placeSend (hF : Sub 47186443260 F) : ∀ a0 a1 a2 a3 a4, Kept F z a0 → (OnFst (Kept F z)) (Sys2Proof.placeSend a0 a1 a2 a3 a4) := by
  unfold Sys2Proof.placeSend
  intro v0 v1 v2 v3 v4 v5
  extract_lets +onlyGivenNames l6_0
  clear_value l6_0
  split
  · split
    · refine fst_mk ?_
      refine kept_putRx (hF.sub rfl) _ _ _ ?_
      with_reducible assumption
    · extract_lets +onlyGivenNames l12_0
      clear_value l12_0
      split
      · refine fst_mk ?_
        refine kept_putRx (hF.sub rfl) _ _ _ ?_
        refine kept_recvRefused (hF.sub rfl) _ _ _ _ _ ?_
        with_reducible assumption
      · extract_lets +onlyGivenNames l18_0 l18_1
        clear_value l18_0
        refine (fun (el18_1 : (Kept F z) l18_1) => ?_) ?_
        rotate_left
        · refine kept_putRx (hF.sub rfl) _ _ _ ?_
          refine xf_eq (by assumption) (?_ : OnResult Always (OnFst (Kept F z)) (Sys2Proof.placePieces _ _ _ _ _ _ _))
          refine kept_placePieces (hF.sub rfl) _ _ _ _ _ _ _ ?_
          with_reducible assumption
        clear_value l18_1
        refine fst_mk ?_
        split
        · refine kept_recvDone (hF.sub rfl) _ _ _ ?_
          with_reducible assumption
        · with_reducible assumption
  · refine fst_mk ?_
    refine kept_putRx (hF.sub rfl) _ _ _ ?_
    with_reducible assumption
theorem kept_receiveSend (hF : Sub 47186443260 F) : ∀ a0 a1 a2 a3, Kept F z a0 → (OnFst (Kept F z)) (Sys2Proof.receiveSend a0 a1 a2 a3) := by
  unfold Sys2Proof.receiveSend
  intro v0 v1 v2 v3 v4
  extract_lets +onlyGivenNames l5_0
  clear_value l5_0
  split
  · refine fst_mk ?_
    refine kept_putRx (hF.sub rfl) _ _ _ ?_
    with_reducible assumption
  · split
    · refine fst_mk ?_
      with_reducible assumption
    · split
      · refine fst_mk ?_
        refine kept_putRx (hF.sub rfl) _ _ _ ?_
        with_reducible assumption
      · split
        · split
          · refine fst_mk ?_
            refine kept_putRx (hF.sub rfl) _ _ _ ?_
            with_reducible assumption
          · split
            · refine fst_mk ?_
              refine kept_putRx (hF.sub rfl) _ _ _ ?_
              with_reducible assumption
            · extract_lets +onlyGivenNames l26_0 l26_1
              clear_value l26_0 l26_1
              split
              · extract_lets +onlyGivenNames l28_0
                clear_value l28_0
                refine fst_mk ?_
                refine kept_fabDeliver (hF.sub rfl) _ _ _ ?_
                refine kept_putRx (hF.sub rfl) _ _ _ ?_
                with_reducible assumption
              · refine fst_mk ?_
                refine kept_putRx (hF.sub rfl) _ _ _ ?_
                with_reducible assumption
        · split
          · refine kept_placeSend (hF.sub rfl) _ _ _ _ _ ?_
            with_reducible assumption
          · split
            · refine fst_mk ?_
              refine kept_putRx (hF.sub rfl) _ _ _ ?_
              with_reducible assumption
            · split
              · refine fst_mk ?_
                with_reducible assumption
              · split
                · refine fst_mk ?_
                  refine kept_modQp (hF.sub rfl) _ _ _ ?_
                  refine kept_putRx (hF.sub rfl) _ _ _ ?_
                  with_reducible assumption
                · refine kept_placeSend (hF.sub rfl) _ _ _ _ _ ?_
                  with_reducible assumption
        · extract_lets +onlyGivenNames l53_0
          refine (fun (el53_0 : (Kept F z) l53_0) => ?_) ?_
          rotate_left
          · refine kept_judgeTagged (hF.sub rfl) _ _ _ ?_
            refine kept_putRx (hF.sub rfl) _ _ _ ?_
            with_reducible assumption
          clear_value l53_0
          split
          · refine fst_mk ?_
            with_reducible assumption
          · split
            · refine fst_mk ?_
              refine kept_putRx (hF.sub rfl) _ _ _ ?_
              with_reducible assumption
            · split
              · refine fst_mk ?_
                with_reducible assumption
              · refine kept_placeSend (hF.sub rfl) _ _ _ _ _ ?_
                with_reducible assumption
theorem kept_receiveWrite (hF : Sub 268435872 F) : ∀ a0 a1 a2 a3, Kept F z a0 → (OnFst (Kept F z)) (Sys2Proof.receiveWrite a0 a1 a2 a3) := by
  unfold Sys2Proof.receiveWrite
  intro v0 v1 v2 v3 v4
  extract_lets +onlyGivenNames l5_0
  clear_value l5_0
  split
  · refine fst_mk ?_
    with_reducible assumption
  · split
    · refine fst_mk ?_
      refine kept_putRx (hF.sub rfl) _ _ _ ?_
      with_reducible assumption
    · split
      · refine fst_mk ?_
        refine kept_putRx (hF.sub rfl) _ _ _ ?_
        with_reducible assumption
      · extract_lets +onlyGivenNames l17_0
        clear_value l17_0
        refine fst_mk ?_
        refine kept_putRx (hF.sub rfl) _ _ _ ?_
        refine kept_writeHbm (hF.sub rfl) _ _ _ _ ?_
        with_reducible assumption
theorem kept_receiveReadReq (hF : Sub 805306372 F) : ∀ a0 a1 a2 a3, Kept F z a0 → (OnFst (Kept F z)) (Sys2Proof.receiveReadReq a0 a1 a2 a3) := by
  unfold Sys2Proof.receiveReadReq
  intro v0 v1 v2 v3 v4
  extract_lets +onlyGivenNames l5_0
  clear_value l5_0
  split
  · refine fst_mk ?_
    refine kept_putRx (hF.sub rfl) _ _ _ ?_
    with_reducible assumption
  · split
    · refine fst_mk ?_
      refine kept_putRx (hF.sub rfl) _ _ _ ?_
      with_reducible assumption
    · split
      · split
        refine fst_mk ?_
        refine kept_putRx (hF.sub rfl) _ _ _ ?_
        refine snd_eq (by assumption) (?_ : OnSnd (Kept F z) (Sys2Proof.draw _))
        refine kept_draw (hF.sub rfl) _ ?_
        with_reducible assumption
      · split
        · refine fst_mk ?_
          refine kept_modQp (hF.sub rfl) _ _ _ ?_
          refine kept_putRx (hF.sub rfl) _ _ _ ?_
          with_reducible assumption
        · extract_lets +onlyGivenNames l26_0
          refine (fun (el26_0 : (Kept F z) l26_0) => ?_) ?_
          rotate_left
          · refine kept_modQp (hF.sub rfl) _ _ _ ?_
            refine kept_putRx (hF.sub rfl) _ _ _ ?_
            with_reducible assumption
          clear_value l26_0
          refine fst_mk ?_
          refine kept_pumpResponses (hF.sub rfl) _ _ ?_
          with_reducible assumption
theorem kept_sendDone (hF : Sub 47186443260 F) : ∀ a0 a1 a2 a3 a4, Kept F z a0 → (Kept F z) (Sys2Proof.sendDone a0 a1 a2 a3 a4) := by
  unfold Sys2Proof.sendDone
  intro v0 v1 v2 v3 v4 v5
  extract_lets +onlyGivenNames l6_0
  refine (fun (el6_0 : (Kept F z) l6_0) => ?_) ?_
  rotate_left
  · refine kept_modQp (hF.sub rfl) _ _ _ ?_
    with_reducible assumption
  clear_value l6_0
  split
  · with_reducible assumption
  · split
    · split
      · with_reducible assumption
      · split
        refine kept_endNow (hF.sub rfl) _ _ _ _ _ _ ?_
        with_reducible assumption
    · refine kept_endNow (hF.sub rfl) _ _ _ _ _ _ ?_
      with_reducible assumption
theorem kept_receiveResp (hF : Sub 47186443260 F) : ∀ a0 a1 a2 a3 a4, Kept F z a0 → (Kept F z) (Sys2Proof.receiveResp a0 a1 a2 a3 a4) := by
  unfold Sys2Proof.receiveResp
  intro v0 v1 v2 v3 v4 v5
  split
  · with_reducible assumption
  · split
    · with_reducible assumption
    · extract_lets +onlyGivenNames l10_0 l10_1 l10_2 l10_3
      clear_value l10_0 l10_1 l10_2 l10_3
      split
      · refine kept_sendDone (hF.sub rfl) _ _ _ _ _ ?_
        with_reducible assumption
      · extract_lets +onlyGivenNames l14_0
        refine (fun (el14_0 : (Kept F z) l14_0) => ?_) ?_
        rotate_left
        · refine kept_modQp (hF.sub rfl) _ _ _ ?_
          refine exc_ok_eq (by assumption) (?_ : OnResult Always (Kept F z) _)
          split
          · split
            · refine kept_placeBytes (hF.sub rfl) _ _ _ _ _ ?_
              with_reducible assumption
            · refine exc_ok ?_
              with_reducible assumption
          · refine kept_placeBytes (hF.sub rfl) _ _ _ _ _ ?_
            with_reducible assumption
        clear_value l14_0
        split
        · refine kept_sendDone (hF.sub rfl) _ _ _ _ _ ?_
          with_reducible assumption
        · with_reducible assumption
theorem kept_receiveCancel (hF : Sub 47186443260 F) : ∀ a0 a1 a2 a3, Kept F z a0 → (Kept F z) (Sys2Proof.receiveCancel a0 a1 a2 a3) := by
  unfold Sys2Proof.receiveCancel
  intro v0 v1 v2 v3 v4
  split
  · extract_lets +onlyGivenNames l6_0
    refine (fun (el6_0 : (Kept F z) l6_0) => ?_) ?_
    rotate_left
    · refine kept_putRx (hF.sub rfl) _ _ _ ?_
      with_reducible assumption
    clear_value l6_0
    split
    · refine kept_endNow (hF.sub rfl) _ _ _ _ _ _ ?_
      refine kept_modQp (hF.sub rfl) _ _ _ ?_
      with_reducible assumption
    · with_reducible assumption
  · split
    · with_reducible assumption
    · extract_lets +onlyGivenNames l16_0
      refine (fun (el16_0 : (Kept F z) l16_0) => ?_) ?_
      rotate_left
      · refine kept_putRx (hF.sub rfl) _ _ _ ?_
        with_reducible assumption
      clear_value l16_0
      split
      · refine kept_endNow (hF.sub rfl) _ _ _ _ _ _ ?_
        refine kept_modQp (hF.sub rfl) _ _ _ ?_
        with_reducible assumption
      · with_reducible assumption
theorem kept_place (hF : Sub 47186443260 F) : ∀ a0 a1 a2 a3, Kept F z a0 → (OnFst (Kept F z)) (Sys2Proof.place a0 a1 a2 a3) := by
  unfold Sys2Proof.place
  intro v0 v1 v2 v3 v4
  split
  · refine kept_receiveSend (hF.sub rfl) _ _ _ _ ?_
    with_reducible assumption
  · refine kept_receiveWrite (hF.sub rfl) _ _ _ _ ?_
    with_reducible assumption
  · refine kept_receiveReadReq (hF.sub rfl) _ _ _ _ ?_
    with_reducible assumption
  · refine fst_mk ?_
    refine kept_receiveResp (hF.sub rfl) _ _ _ _ _ ?_
    with_reducible assumption
  · refine fst_mk ?_
    refine kept_receiveCancel (hF.sub rfl) _ _ _ _ ?_
    with_reducible assumption
  · refine fst_mk ?_
    with_reducible assumption
theorem kept_sendAck (hF : Sub 805306368 F) : ∀ a0 a1 a2 a3, Kept F z a0 → (Kept F z) (Sys2Proof.sendAck a0 a1 a2 a3) := by
  unfold Sys2Proof.sendAck
  intro v0 v1 v2 v3 v4
  split
  · with_reducible assumption
  · extract_lets +onlyGivenNames l7_0
    refine (fun (el7_0 : (Kept F z) l7_0) => ?_) ?_
    rotate_left
    · refine kept_modQp (hF.sub rfl) _ _ _ ?_
      with_reducible assumption
    clear_value l7_0
    refine kept_sendCtl (hF.sub rfl) _ _ _ _ _ _ _ ?_
    with_reducible assumption
theorem kept_receiveSequenced (hF : Sub 47186443260 F) : ∀ a0 a1 a2 a3, Kept F z a0 → (Kept F z) (Sys2Proof.receiveSequenced a0 a1 a2 a3) := by
  unfold Sys2Proof.receiveSequenced
  intro v0 v1 v2 v3 v4
  extract_lets +onlyGivenNames l5_0 l5_1 l5_2
  clear_value l5_0 l5_1
  split
  · dsimp -zeta only [l5_2]
    refine kept_modQp (hF.sub rfl) _ _ _ ?_
    with_reducible assumption
  · extract_lets +onlyGivenNames l10_0
    clear_value l10_0
    split
    · split
      · dsimp -zeta only [l5_2]
        refine kept_modQp (hF.sub rfl) _ _ _ ?_
        with_reducible assumption
      · split
        split
        · refine kept_sendNak (hF.sub rfl) _ _ _ _ _ _ _ ?_
          refine fst_eq (by assumption) (?_ : OnFst (Kept F z) (Sys2Proof.place _ _ _ _))
          refine kept_place (hF.sub rfl) _ _ _ _ ?_
          with_reducible assumption
        · extract_lets +onlyGivenNames l22_0 l22_1 l22_2
          refine (fun (el22_0 : (Kept F z) l22_0) => ?_) ?_
          rotate_left
          · dsimp -zeta only [l22_0]
            split
            · refine fst_eq (by assumption) (?_ : OnFst (Kept F z) (Sys2Proof.place _ _ _ _))
              refine kept_place (hF.sub rfl) _ _ _ _ ?_
              with_reducible assumption
            · refine kept_sendNak (hF.sub rfl) _ _ _ _ _ _ _ ?_
              refine fst_eq (by assumption) (?_ : OnFst (Kept F z) (Sys2Proof.place _ _ _ _))
              refine kept_place (hF.sub rfl) _ _ _ _ ?_
              with_reducible assumption
          clear_value l22_0
          refine (fun (el22_1 : (Kept F z) l22_1) => ?_) ?_
          rotate_left
          · refine kept_modQp (hF.sub rfl) _ _ _ ?_
            with_reducible assumption
          clear_value l22_1
          refine (fun (el22_2 : (Kept F z) l22_2) => ?_) ?_
          rotate_left
          · refine kept_judgeTagged (hF.sub rfl) _ _ _ ?_
            with_reducible assumption
          clear_value l22_2
          split
          · refine kept_sendAck (hF.sub rfl) _ _ _ _ ?_
            with_reducible assumption
          · with_reducible assumption
    · split
      · extract_lets +onlyGivenNames l41_0
        refine (fun (el41_0 : (Kept F z) l41_0) => ?_) ?_
        rotate_left
        · dsimp -zeta only [l41_0]
          dsimp -zeta only [l5_2]
          refine kept_modQp (hF.sub rfl) _ _ _ ?_
          with_reducible assumption
        clear_value l41_0
        split
        · with_reducible assumption
        · refine kept_sendNak (hF.sub rfl) _ _ _ _ _ _ _ ?_
          refine kept_modQp (hF.sub rfl) _ _ _ ?_
          with_reducible assumption
      · refine kept_sendAck (hF.sub rfl) _ _ _ _ ?_
        dsimp -zeta only [l5_2]
        refine kept_modQp (hF.sub rfl) _ _ _ ?_
        with_reducible assumption
theorem kept_ackUpTo (hF : Sub 268435456 F) : ∀ a0 a1 a2 a3 a4, Kept F z a0 → (Kept F z) (Sys2Proof.ackUpTo a0 a1 a2 a3 a4) := by
  unfold Sys2Proof.ackUpTo
  intro v0 v1 v2 v3 v4 v5
  refine kept_modQp (hF.sub rfl) _ _ _ ?_
  with_reducible assumption
theorem kept_settleSends (hF : Sub 47186443260 F) : ∀ a0 a1, Kept F z a0 → (Kept F z) (Sys2Proof.settleSends a0 a1) := by
  unfold Sys2Proof.settleSends
  intro v0 v1 v2
  split
  · with_reducible assumption
  · extract_lets +onlyGivenNames l5_0 l5_1
    clear_value l5_0
    refine (fun (el5_1 : (Kept F z) l5_1) => ?_) ?_
    rotate_left
    · refine foldl_kept (P := (Kept F z)) ?_ ?_
      · with_reducible assumption
      · intro v8 v9 v10
        refine kept_sendDone (hF.sub rfl) _ _ _ _ _ ?_
        with_reducible assumption
    clear_value l5_1
    refine kept_settleDrains (hF.sub rfl) _ ?_
    refine kept_pumpResponses (hF.sub rfl) _ _ ?_
    refine kept_pumpQp (hF.sub rfl) _ _ ?_
    with_reducible assumption
theorem kept_goBack (hF : Sub 805306368 F) : ∀ a0 a1 a2 a3, Kept F z a0 → (Kept F z) (Sys2Proof.goBack a0 a1 a2 a3) := by
  unfold Sys2Proof.goBack
  intro v0 v1 v2 v3 v4
  split
  · with_reducible assumption
  · extract_lets +onlyGivenNames l7_0 l7_1
    clear_value l7_0
    refine (fun (el7_1 : (Kept F z) l7_1) => ?_) ?_
    rotate_left
    · refine kept_modQp (hF.sub rfl) _ _ _ ?_
      with_reducible assumption
    clear_value l7_1
    refine foldl_kept (P := (Kept F z)) ?_ ?_
    · with_reducible assumption
    · intro v12 v13 v14
      split
      · split
        · with_reducible assumption
        · refine kept_transmitRoce (hF.sub rfl) _ _ _ _ ?_
          with_reducible assumption
      · refine kept_transmit (hF.sub rfl) _ _ _ ?_
        with_reducible assumption
theorem kept_failMsg (hF : Sub 47186443260 F) : ∀ a0 a1 a2 a3 a4, Kept F z a0 → (Kept F z) (Sys2Proof.failMsg a0 a1 a2 a3 a4) := by
  unfold Sys2Proof.failMsg
  intro v0 v1 v2 v3 v4 v5
  split
  · refine kept_sendDone (hF.sub rfl) _ _ _ _ _ ?_
    with_reducible assumption
  · with_reducible assumption
theorem kept_renumber (hF : Sub 268435456 F) : ∀ a0 a1 a2 a3 a4, Kept F z a0 → (Kept F z) (Sys2Proof.renumber a0 a1 a2 a3 a4) := by
  unfold Sys2Proof.renumber
  intro v0 v1 v2 v3 v4 v5
  refine kept_modQp (hF.sub rfl) _ _ _ ?_
  with_reducible assumption
theorem kept_receiveRnr (hF : Sub 47186443260 F) : ∀ a0 a1 a2 a3 a4, Kept F z a0 → (Kept F z) (Sys2Proof.receiveRnr a0 a1 a2 a3 a4) := by
  unfold Sys2Proof.receiveRnr
  intro v0 v1 v2 v3 v4 v5
  split
  · with_reducible assumption
  · extract_lets +onlyGivenNames l8_0
    clear_value l8_0
    split
    · with_reducible assumption
    · split
      · refine kept_modQp (hF.sub rfl) _ _ _ ?_
        with_reducible assumption
      · extract_lets +onlyGivenNames l14_0 l14_1
        clear_value l14_0 l14_1
        split
        · extract_lets +onlyGivenNames l16_0
          refine (fun (el16_0 : (Kept F z) l16_0) => ?_) ?_
          rotate_left
          · refine kept_failMsg (hF.sub rfl) _ _ _ _ _ ?_
            with_reducible assumption
          clear_value l16_0
          refine kept_goBack (hF.sub rfl) _ _ _ _ ?_
          split
          · refine kept_renumber (hF.sub rfl) _ _ _ _ _ ?_
            with_reducible assumption
          · with_reducible assumption
        · refine kept_modQp (hF.sub rfl) _ _ _ ?_
          with_reducible assumption
theorem kept_clearRnr (hF : Sub 268435456 F) : ∀ a0 a1 a2 a3 a4, Kept F z a0 → (Kept F z) (Sys2Proof.clearRnr a0 a1 a2 a3 a4) := by
  unfold Sys2Proof.clearRnr
  intro v0 v1 v2 v3 v4 v5
  split
  · with_reducible assumption
  · split
    · with_reducible assumption
    · extract_lets +onlyGivenNames l10_0
      clear_value l10_0
      refine kept_modQp (hF.sub rfl) _ _ _ ?_
      with_reducible assumption
theorem kept_failNaked (hF : Sub 47186443260 F) : ∀ a0 a1 a2 a3 a4 a5, Kept F z a0 → (Kept F z) (Sys2Proof.failNaked a0 a1 a2 a3 a4 a5) := by
  unfold Sys2Proof.failNaked
  intro v0 v1 v2 v3 v4 v5 v6
  split
  · with_reducible assumption
  · split
    · refine kept_failMsg (hF.sub rfl) _ _ _ _ _ ?_
      with_reducible assumption
    · refine kept_modQp (hF.sub rfl) _ _ _ ?_
      with_reducible assumption
theorem kept_receiveNak (hF : Sub 47186443260 F) : ∀ a0 a1 a2 a3, Kept F z a0 → (Kept F z) (Sys2Proof.receiveNak a0 a1 a2 a3) := by
  unfold Sys2Proof.receiveNak
  intro v0 v1 v2 v3 v4
  extract_lets +onlyGivenNames l5_0 l5_1 l5_2 l5_3
  clear_value l5_0 l5_1 l5_2
  split
  · refine kept_settleSends (hF.sub rfl) _ _ ?_
    split
    · dsimp -zeta only [l5_3]
      refine kept_ackUpTo (hF.sub rfl) _ _ _ _ _ ?_
      refine kept_clearRnr (hF.sub rfl) _ _ _ _ _ ?_
      with_reducible assumption
    · refine kept_goBack (hF.sub rfl) _ _ _ _ ?_
      dsimp -zeta only [l5_3]
      refine kept_ackUpTo (hF.sub rfl) _ _ _ _ _ ?_
      refine kept_clearRnr (hF.sub rfl) _ _ _ _ _ ?_
      with_reducible assumption
  · refine kept_settleSends (hF.sub rfl) _ _ ?_
    refine kept_receiveRnr (hF.sub rfl) _ _ _ _ _ ?_
    dsimp -zeta only [l5_3]
    refine kept_ackUpTo (hF.sub rfl) _ _ _ _ _ ?_
    refine kept_clearRnr (hF.sub rfl) _ _ _ _ _ ?_
    with_reducible assumption
  · refine kept_settleSends (hF.sub rfl) _ _ ?_
    refine kept_failNaked (hF.sub rfl) _ _ _ _ _ _ ?_
    dsimp -zeta only [l5_3]
    refine kept_ackUpTo (hF.sub rfl) _ _ _ _ _ ?_
    refine kept_clearRnr (hF.sub rfl) _ _ _ _ _ ?_
    with_reducible assumption
  · refine kept_settleSends (hF.sub rfl) _ _ ?_
    refine kept_failNaked (hF.sub rfl) _ _ _ _ _ _ ?_
    dsimp -zeta only [l5_3]
    refine kept_ackUpTo (hF.sub rfl) _ _ _ _ _ ?_
    refine kept_clearRnr (hF.sub rfl) _ _ _ _ _ ?_
    with_reducible assumption
  · refine kept_settleSends (hF.sub rfl) _ _ ?_
    refine kept_failNaked (hF.sub rfl) _ _ _ _ _ _ ?_
    dsimp -zeta only [l5_3]
    refine kept_ackUpTo (hF.sub rfl) _ _ _ _ _ ?_
    refine kept_clearRnr (hF.sub rfl) _ _ _ _ _ ?_
    with_reducible assumption
  · refine kept_mk ?_
    with_reducible assumption
theorem kept_moveLane (hF : Sub 268435456 F) : ∀ a0 a1 a2 a3, Kept F z a0 → (Kept F z) (Sys2Proof.moveLane a0 a1 a2 a3) := by
  unfold Sys2Proof.moveLane
  intro v0 v1 v2 v3 v4
  refine kept_modQp (hF.sub rfl) _ _ _ ?_
  refine kept_ackUpTo (hF.sub rfl) _ _ _ _ _ ?_
  with_reducible assumption
theorem kept_handlePacket (hF : Sub 47186443260 F) : ∀ a0 a1 a2, Kept F z a0 → (Kept F z) (Sys2Proof.handlePacket a0 a1 a2) := by
  unfold Sys2Proof.handlePacket
  intro v0 v1 v2 v3
  split
  · with_reducible assumption
  · split
    · refine kept_modQp (hF.sub rfl) _ _ _ ?_
      with_reducible assumption
    · split
      · extract_lets +onlyGivenNames l10_0
        refine (fun (el10_0 : (Kept F z) l10_0) => ?_) ?_
        rotate_left
        · refine kept_modQp (hF.sub rfl) _ _ _ ?_
          with_reducible assumption
        clear_value l10_0
        split
        · refine kept_countNode (hF.sub rfl) _ _ ?_
          refine kept_discard (hF.sub rfl) _ _ _ ?_
          with_reducible assumption
        · refine kept_discard (hF.sub rfl) _ _ _ ?_
          with_reducible assumption
      · extract_lets +onlyGivenNames l19_0
        refine (fun (el19_0 : (Kept F z) l19_0) => ?_) ?_
        rotate_left
        · refine kept_modQp (hF.sub rfl) _ _ _ ?_
          with_reducible assumption
        clear_value l19_0
        split
        · refine kept_settleSends (hF.sub rfl) _ _ ?_
          refine kept_ackUpTo (hF.sub rfl) _ _ _ _ _ ?_
          refine kept_clearRnr (hF.sub rfl) _ _ _ _ _ ?_
          with_reducible assumption
        · refine kept_receiveNak (hF.sub rfl) _ _ _ _ ?_
          with_reducible assumption
        · extract_lets +onlyGivenNames l29_0 l29_1
          clear_value l29_0
          refine (fun (el29_1 : (Kept F z) l29_1) => ?_) ?_
          rotate_left
          · refine kept_modQp (hF.sub rfl) _ _ _ ?_
            with_reducible assumption
          clear_value l29_1
          refine kept_sendCtl (hF.sub rfl) _ _ _ _ _ _ _ ?_
          with_reducible assumption
        · extract_lets +onlyGivenNames l34_0
          clear_value l34_0
          split
          · refine kept_settleSends (hF.sub rfl) _ _ ?_
            refine kept_moveLane (hF.sub rfl) _ _ _ _ ?_
            with_reducible assumption
          · with_reducible assumption
        · refine kept_settleDrains (hF.sub rfl) _ ?_
          refine kept_receiveSequenced (hF.sub rfl) _ _ _ _ ?_
          with_reducible assumption
theorem kept_takePacket (hF : Sub 47186443260 F) : ∀ a0 a1, Kept F z a0 → (Kept F z) (Sys2Proof.takePacket a0 a1) := by
  unfold Sys2Proof.takePacket
  intro v0 v1 v2
  split
  · with_reducible assumption
  · split
    · refine opt_eq (by assumption) (?_ : OnSome (Kept F z) (Sys2Proof.portDiscard _ _ _ _ _))
      refine kept_portDiscard (hF.sub rfl) _ _ _ _ _ ?_
      with_reducible assumption
    · split
      · refine exc_error_eq (by assumption) (?_ : OnResult (Kept F z) Always (Sys2Proof.admission _ _))
        refine kept_admission (hF.sub rfl) _ _ ?_
        with_reducible assumption
      · split
        · refine kept_missPacket (hF.sub rfl) _ _ _ _ ?_
          with_reducible assumption
        · refine kept_handlePacket (hF.sub rfl) _ _ _ ?_
          with_reducible assumption
theorem kept_execSequencedPacketReceive (hF : Sub 47186443261 F) : ∀ a0 a1 a2, Kept F z a2 → (OnNext (Kept F z)) (Sys2Proof.Machine.execSequencedPacketReceive a0 a1 a2) := by
  unfold Sys2Proof.Machine.execSequencedPacketReceive
  intro v0 v1 v2 v3
  split
  · refine ans_next ?_
    with_reducible assumption
  · refine ans_next ?_
    refine kept_takePacket (hF.sub rfl) _ _ ?_
    refine kept_atTime (hF.sub rfl) _ _ ?_
    with_reducible assumption
theorem kept_execAckReceive (hF : Sub 47186443261 F) : ∀ a0 a1 a2, Kept F z a2 → (OnNext (Kept F z)) (Sys2Proof.Machine.execAckReceive a0 a1 a2) := by
  unfold Sys2Proof.Machine.execAckReceive
  intro v0 v1 v2 v3
  split
  · refine ans_next ?_
    refine kept_takePacket (hF.sub rfl) _ _ ?_
    refine kept_atTime (hF.sub rfl) _ _ ?_
    with_reducible assumption
  · refine ans_next ?_
    with_reducible assumption
theorem kept_execNakReceive (hF : Sub 47186443261 F) : ∀ a0 a1 a2, Kept F z a2 → (OnNext (Kept F z)) (Sys2Proof.Machine.execNakReceive a0 a1 a2) := by
  unfold Sys2Proof.Machine.execNakReceive
  intro v0 v1 v2 v3
  split
  · refine ans_next ?_
    refine kept_takePacket (hF.sub rfl) _ _ ?_
    refine kept_atTime (hF.sub rfl) _ _ ?_
    with_reducible assumption
  · refine ans_next ?_
    with_reducible assumption
theorem kept_execLaneSyncReceive (hF : Sub 47186443260 F) : ∀ a0 a1, Kept F z a1 → (OnNext (Kept F z)) (Sys2Proof.Machine.execLaneSyncReceive a0 a1) := by
  unfold Sys2Proof.Machine.execLaneSyncReceive
  intro v0 v1 v2
  split
  · refine ans_next ?_
    refine kept_takePacket (hF.sub rfl) _ _ ?_
    with_reducible assumption
  · refine ans_next ?_
    with_reducible assumption
theorem kept_execLaneSyncReplyReceive (hF : Sub 47186443261 F) : ∀ a0 a1 a2, Kept F z a2 → (OnNext (Kept F z)) (Sys2Proof.Machine.execLaneSyncReplyReceive a0 a1 a2) := by
  unfold Sys2Proof.Machine.execLaneSyncReplyReceive
  intro v0 v1 v2 v3
  split
  · refine ans_next ?_
    refine kept_takePacket (hF.sub rfl) _ _ ?_
    refine kept_atTime (hF.sub rfl) _ _ ?_
    with_reducible assumption
  · refine ans_next ?_
    with_reducible assumption
theorem kept_execCancelReceive (hF : Sub 47186443261 F) : ∀ a0 a1 a2, Kept F z a2 → (OnNext (Kept F z)) (Sys2Proof.Machine.execCancelReceive a0 a1 a2) := by
  unfold Sys2Proof.Machine.execCancelReceive
  intro v0 v1 v2 v3
  split
  · refine ans_next ?_
    refine kept_takePacket (hF.sub rfl) _ _ ?_
    refine kept_atTime (hF.sub rfl) _ _ ?_
    with_reducible assumption
  · refine ans_next ?_
    with_reducible assumption
theorem kept_execAckTimer (hF : Sub 805306369 F) : ∀ a0 a1 a2 a3 a4, Kept F z a4 → (OnNext (Kept F z)) (Sys2Proof.Machine.execAckTimer a0 a1 a2 a3 a4) := by
  unfold Sys2Proof.Machine.execAckTimer
  intro v0 v1 v2 v3 v4 v5
  split
  · refine ans_next ?_
    with_reducible assumption
  · split
    · split
      · refine ans_next ?_
        refine kept_sendAck (hF.sub rfl) _ _ _ _ ?_
        refine kept_atTime (hF.sub rfl) _ _ ?_
        with_reducible assumption
      · refine ans_next ?_
        with_reducible assumption
    · refine ans_next ?_
      with_reducible assumption
theorem kept_execRetryTimerExpire (hF : Sub 47186443261 F) : ∀ a0 a1 a2 a3 a4, Kept F z a4 → (OnNext (Kept F z)) (Sys2Proof.Machine.execRetryTimerExpire a0 a1 a2 a3 a4) := by
  unfold Sys2Proof.Machine.execRetryTimerExpire
  intro v0 v1 v2 v3 v4 v5
  split
  · refine ans_next ?_
    with_reducible assumption
  · extract_lets +onlyGivenNames l9_0
    clear_value l9_0
    split
    · refine ans_next ?_
      with_reducible assumption
    · split
      · refine ans_next ?_
        with_reducible assumption
      · extract_lets +onlyGivenNames l16_0
        refine (fun (el16_0 : (Kept F z) l16_0) => ?_) ?_
        rotate_left
        · refine kept_modQp (hF.sub rfl) _ _ _ ?_
          refine kept_atTime (hF.sub rfl) _ _ ?_
          with_reducible assumption
        clear_value l16_0
        split
        · refine ans_next ?_
          refine kept_settleDrains (hF.sub rfl) _ ?_
          refine kept_closeLane (hF.sub rfl) _ _ _ ?_
          with_reducible assumption
        · refine ans_next ?_
          refine kept_goBack (hF.sub rfl) _ _ _ _ ?_
          with_reducible assumption
theorem kept_execLaneSyncRetry (hF : Sub 805306369 F) : ∀ a0 a1 a2 a3, Kept F z a3 → (OnNext (Kept F z)) (Sys2Proof.Machine.execLaneSyncRetry a0 a1 a2 a3) := by
  unfold Sys2Proof.Machine.execLaneSyncRetry
  intro v0 v1 v2 v3 v4
  split
  · refine ans_next ?_
    with_reducible assumption
  · split
    · split
      · refine ans_next ?_
        with_reducible assumption
      · extract_lets +onlyGivenNames l12_0 l12_1
        refine (fun (el12_0 : (Kept F z) l12_0) => ?_) ?_
        rotate_left
        · refine kept_atTime (hF.sub rfl) _ _ ?_
          with_reducible assumption
        clear_value l12_0
        refine (fun (el12_1 : (Kept F z) l12_1) => ?_) ?_
        rotate_left
        · refine kept_modQp (hF.sub rfl) _ _ _ ?_
          with_reducible assumption
        clear_value l12_1
        refine ans_next ?_
        refine kept_sendCtl (hF.sub rfl) _ _ _ _ _ _ _ ?_
        with_reducible assumption
    · refine ans_next ?_
      with_reducible assumption
theorem kept_execRnrWaitExpire (hF : Sub 805306369 F) : ∀ a0 a1 a2 a3 a4, Kept F z a4 → (OnNext (Kept F z)) (Sys2Proof.Machine.execRnrWaitExpire a0 a1 a2 a3 a4) := by
  unfold Sys2Proof.Machine.execRnrWaitExpire
  intro v0 v1 v2 v3 v4 v5
  split
  · refine ans_next ?_
    with_reducible assumption
  · split
    · split
      · refine ans_next ?_
        with_reducible assumption
      · split
        · refine ans_next ?_
          refine kept_modQp (hF.sub rfl) _ _ _ ?_
          refine kept_atTime (hF.sub rfl) _ _ ?_
          with_reducible assumption
        · refine ans_next ?_
          refine kept_goBack (hF.sub rfl) _ _ _ _ ?_
          refine kept_atTime (hF.sub rfl) _ _ ?_
          with_reducible assumption
    · refine ans_next ?_
      with_reducible assumption
theorem kept_execOldKeyDrop (hF : Sub 268435457 F) : ∀ a0 a1 a2, Kept F z a2 → (OnNext (Kept F z)) (Sys2Proof.Machine.execOldKeyDrop a0 a1 a2) := by
  unfold Sys2Proof.Machine.execOldKeyDrop
  intro v0 v1 v2 v3
  split
  · split
    · refine ans_next ?_
      refine kept_modQp (hF.sub rfl) _ _ _ ?_
      refine kept_atTime (hF.sub rfl) _ _ ?_
      with_reducible assumption
    · refine ans_next ?_
      with_reducible assumption
  · refine ans_next ?_
    with_reducible assumption
theorem kept_writeParts (hF : Sub 416 F) : ∀ a0 a1 a2, Kept F z a0 → (Kept F z) (Sys2Proof.writeParts a0 a1 a2) := by
  unfold Sys2Proof.writeParts
  intro v0 v1 v2 v3
  refine fst_of (P := (Kept F z)) ?_
  refine foldl_kept (P := (OnFst (Kept F z))) ?_ ?_
  · refine fst_mk ?_
    with_reducible assumption
  · intro v8 v9 v10
    refine fst_mk ?_
    refine kept_writeHbm (hF.sub rfl) _ _ _ _ ?_
    refine fst_of (P := (Kept F z)) ?_
    with_reducible assumption
theorem kept_roceRequest (hF : Sub 47186443260 F) : ∀ a0 a1 a2 a3, Kept F z a0 → (OnFst (Kept F z)) (Sys2Proof.roceRequest a0 a1 a2 a3) := by
  unfold Sys2Proof.roceRequest
  intro v0 v1 v2 v3 v4
  split
  · extract_lets +onlyGivenNames l6_0
    clear_value l6_0
    split
    · refine fst_mk ?_
      with_reducible assumption
    · extract_lets +onlyGivenNames l10_0 l10_1
      refine (fun (el10_0 : (Kept F z) l10_0) => ?_) ?_
      rotate_left
      · refine kept_modQp (hF.sub rfl) _ _ _ ?_
        with_reducible assumption
      clear_value l10_0 l10_1
      split
      · refine fst_mk ?_
        refine kept_putRx (hF.sub rfl) _ _ _ ?_
        with_reducible assumption
      · split
        · extract_lets +onlyGivenNames l18_0
          clear_value l18_0
          split
          · refine fst_mk ?_
            refine kept_putRx (hF.sub rfl) _ _ _ ?_
            with_reducible assumption
          · extract_lets +onlyGivenNames l23_0 l23_1
            refine (fun (el23_1 : (Kept F z) l23_1) => ?_) ?_
            rotate_left
            · refine kept_putRx (hF.sub rfl) _ _ _ ?_
              with_reducible assumption
            clear_value l23_1
            split
            · refine fst_mk ?_
              refine kept_fabDeliver (hF.sub rfl) _ _ _ ?_
              with_reducible assumption
            · refine fst_mk ?_
              with_reducible assumption
        · extract_lets +onlyGivenNames l32_0
          clear_value l32_0
          split
          · refine fst_mk ?_
            with_reducible assumption
          · split
            · refine fst_mk ?_
              refine kept_putRx (hF.sub rfl) _ _ _ ?_
              with_reducible assumption
            · split
              · refine fst_mk ?_
                with_reducible assumption
              · split
                · refine fst_mk ?_
                  refine kept_putRx (hF.sub rfl) _ _ _ ?_
                  refine kept_recvRefused (hF.sub rfl) _ _ _ _ _ ?_
                  with_reducible assumption
                · extract_lets +onlyGivenNames l48_0 l48_1
                  clear_value l48_0
                  refine (fun (el48_1 : (Kept F z) l48_1) => ?_) ?_
                  rotate_left
                  · refine kept_putRx (hF.sub rfl) _ _ _ ?_
                    refine xf_eq (by assumption) (?_ : OnResult Always (OnFst (Kept F z)) (Sys2Proof.placePieces _ _ _ _ _ _ _))
                    refine kept_placePieces (hF.sub rfl) _ _ _ _ _ _ _ ?_
                    with_reducible assumption
                  clear_value l48_1
                  refine fst_mk ?_
                  split
                  · refine kept_recvDone (hF.sub rfl) _ _ _ ?_
                    with_reducible assumption
                  · with_reducible assumption
  · extract_lets +onlyGivenNames l58_0
    clear_value l58_0
    split
    · refine fst_mk ?_
      with_reducible assumption
    · extract_lets +onlyGivenNames l62_0 l62_1
      refine (fun (el62_0 : (Kept F z) l62_0) => ?_) ?_
      rotate_left
      · refine kept_modQp (hF.sub rfl) _ _ _ ?_
        with_reducible assumption
      clear_value l62_0 l62_1
      split
      · refine fst_mk ?_
        refine kept_putRx (hF.sub rfl) _ _ _ ?_
        with_reducible assumption
      · split
        · refine fst_mk ?_
          refine kept_putRx (hF.sub rfl) _ _ _ ?_
          with_reducible assumption
        · refine fst_mk ?_
          refine kept_putRx (hF.sub rfl) _ _ _ ?_
          refine kept_writeParts (hF.sub rfl) _ _ _ ?_
          with_reducible assumption
  · split
    · refine fst_mk ?_
      with_reducible assumption
    · split
      · refine fst_mk ?_
        with_reducible assumption
      · split
        · refine fst_mk ?_
          with_reducible assumption
        · split
          · split
            refine fst_mk ?_
            refine snd_eq (by assumption) (?_ : OnSnd (Kept F z) (Sys2Proof.draw _))
            refine kept_draw (hF.sub rfl) _ ?_
            with_reducible assumption
          · split
            · refine fst_mk ?_
              refine kept_modQp (hF.sub rfl) _ _ _ ?_
              with_reducible assumption
            · refine fst_mk ?_
              refine kept_roceRespond (hF.sub rfl) _ _ _ _ _ _ ?_
              with_reducible assumption
  · refine fst_mk ?_
    with_reducible assumption
theorem kept_roceResponse (hF : Sub 47186443260 F) : ∀ a0 a1 a2 a3, Kept F z a0 → (Kept F z) (Sys2Proof.roceResponse a0 a1 a2 a3) := by
  unfold Sys2Proof.roceResponse
  intro v0 v1 v2 v3 v4
  extract_lets +onlyGivenNames l5_0
  clear_value l5_0
  split
  · with_reducible assumption
  · extract_lets +onlyGivenNames l8_0 l8_1
    refine (fun (el8_0 : (Kept F z) l8_0) => ?_) ?_
    rotate_left
    · refine kept_ackUpTo (hF.sub rfl) _ _ _ _ _ ?_
      refine kept_clearRnr (hF.sub rfl) _ _ _ _ _ ?_
      with_reducible assumption
    clear_value l8_0 l8_1
    split
    · refine kept_settleSends (hF.sub rfl) _ _ ?_
      split
      · refine kept_ackUpTo (hF.sub rfl) _ _ _ _ _ ?_
        with_reducible assumption
      · with_reducible assumption
    · extract_lets +onlyGivenNames l18_0
      clear_value l18_0
      split
      · extract_lets +onlyGivenNames l20_0
        refine (fun (el20_0 : (Kept F z) l20_0) => ?_) ?_
        rotate_left
        · refine kept_receiveResp (hF.sub rfl) _ _ _ _ _ ?_
          with_reducible assumption
        clear_value l20_0
        refine kept_settleSends (hF.sub rfl) _ _ ?_
        split
        · refine kept_ackUpTo (hF.sub rfl) _ _ _ _ _ ?_
          with_reducible assumption
        · with_reducible assumption
      · split
        · refine kept_settleSends (hF.sub rfl) _ _ ?_
          refine kept_goBack (hF.sub rfl) _ _ _ _ ?_
          with_reducible assumption
        · refine kept_settleSends (hF.sub rfl) _ _ ?_
          with_reducible assumption
theorem kept_handleRoce (hF : Sub 47186443260 F) : ∀ a0 a1 a2 a3, Kept F z a0 → (Kept F z) (Sys2Proof.handleRoce a0 a1 a2 a3) := by
  unfold Sys2Proof.handleRoce
  intro v0 v1 v2 v3 v4
  extract_lets +onlyGivenNames l5_0 l5_1
  clear_value l5_0
  split
  · with_reducible assumption
  · refine kept_settleSends (hF.sub rfl) _ _ ?_
    dsimp -zeta only [l5_1]
    refine kept_ackUpTo (hF.sub rfl) _ _ _ _ _ ?_
    refine kept_clearRnr (hF.sub rfl) _ _ _ _ _ ?_
    with_reducible assumption
  · refine kept_settleSends (hF.sub rfl) _ _ ?_
    refine kept_goBack (hF.sub rfl) _ _ _ _ ?_
    dsimp -zeta only [l5_1]
    refine kept_ackUpTo (hF.sub rfl) _ _ _ _ _ ?_
    refine kept_clearRnr (hF.sub rfl) _ _ _ _ _ ?_
    with_reducible assumption
  · refine kept_settleSends (hF.sub rfl) _ _ ?_
    refine kept_receiveRnr (hF.sub rfl) _ _ _ _ _ ?_
    dsimp -zeta only [l5_1]
    refine kept_ackUpTo (hF.sub rfl) _ _ _ _ _ ?_
    refine kept_clearRnr (hF.sub rfl) _ _ _ _ _ ?_
    with_reducible assumption
  · extract_lets +onlyGivenNames l25_0
    clear_value l25_0
    refine kept_settleSends (hF.sub rfl) _ _ ?_
    refine kept_failNaked (hF.sub rfl) _ _ _ _ _ _ ?_
    dsimp -zeta only [l5_1]
    refine kept_ackUpTo (hF.sub rfl) _ _ _ _ _ ?_
    refine kept_clearRnr (hF.sub rfl) _ _ _ _ _ ?_
    with_reducible assumption
  · extract_lets +onlyGivenNames l32_0
    clear_value l32_0
    refine kept_settleSends (hF.sub rfl) _ _ ?_
    refine kept_failNaked (hF.sub rfl) _ _ _ _ _ _ ?_
    dsimp -zeta only [l5_1]
    refine kept_ackUpTo (hF.sub rfl) _ _ _ _ _ ?_
    refine kept_clearRnr (hF.sub rfl) _ _ _ _ _ ?_
    with_reducible assumption
  · refine kept_roceResponse (hF.sub rfl) _ _ _ _ ?_
    with_reducible assumption
  · refine kept_roceReply (hF.sub rfl) _ _ _ _ ?_
    refine kept_mk ?_
    with_reducible assumption
  · extract_lets +onlyGivenNames l44_0
    clear_value l44_0
    split
    · split
      split
      · refine kept_roceReply (hF.sub rfl) _ _ _ _ ?_
        with_reducible assumption
      · extract_lets +onlyGivenNames l50_0
        refine (fun (el50_0 : (Kept F z) l50_0) => ?_) ?_
        rotate_left
        · refine kept_modQp (hF.sub rfl) _ _ _ ?_
          refine fst_eq (by assumption) (?_ : OnFst (Kept F z) (Sys2Proof.roceRequest _ _ _ _))
          refine kept_roceRequest (hF.sub rfl) _ _ _ _ ?_
          split
          · refine kept_modQp (hF.sub rfl) _ _ _ ?_
            with_reducible assumption
          · with_reducible assumption
        clear_value l50_0
        split
        · refine kept_roceReply (hF.sub rfl) _ _ _ _ ?_
          with_reducible assumption
        · split
          · refine kept_roceReply (hF.sub rfl) _ _ _ _ ?_
            with_reducible assumption
          · split
            · refine kept_roceReply (hF.sub rfl) _ _ _ _ ?_
              with_reducible assumption
            · with_reducible assumption
    · split
      · split
        · with_reducible assumption
        · refine kept_roceReply (hF.sub rfl) _ _ _ _ ?_
          refine kept_modQp (hF.sub rfl) _ _ _ ?_
          with_reducible assumption
      · split
        · split
          · split
            · with_reducible assumption
            · refine kept_roceRespond (hF.sub rfl) _ _ _ _ _ _ ?_
              with_reducible assumption
          · with_reducible assumption
        · refine kept_roceReply (hF.sub rfl) _ _ _ _ ?_
          with_reducible assumption
theorem kept_roceDiscard (hF : Sub 268435456 F) : ∀ a0, Kept F z a0 → (Kept F z) (Sys2Proof.roceDiscard a0) := by
  unfold Sys2Proof.roceDiscard
  intro v0 v1
  refine kept_mk ?_
  with_reducible assumption
theorem kept_handleRocePacket (hF : Sub 47186443260 F) : ∀ a0 a1 a2, Kept F z a0 → (Kept F z) (Sys2Proof.handleRocePacket a0 a1 a2) := by
  unfold Sys2Proof.handleRocePacket
  intro v0 v1 v2 v3
  split
  · with_reducible assumption
  · split
    · split
      · refine kept_countNode (hF.sub rfl) _ _ ?_
        refine kept_roceDiscard (hF.sub rfl) _ ?_
        with_reducible assumption
      · refine kept_roceDiscard (hF.sub rfl) _ ?_
        with_reducible assumption
    · extract_lets +onlyGivenNames l13_0 l13_1
      clear_value l13_0
      refine (fun (el13_1 : (Kept F z) l13_1) => ?_) ?_
      rotate_left
      · refine kept_modQp (hF.sub rfl) _ _ _ ?_
        with_reducible assumption
      clear_value l13_1
      split
      · refine kept_roceDiscard (hF.sub rfl) _ ?_
        with_reducible assumption
      · split
        · refine kept_modQp (hF.sub rfl) _ _ _ ?_
          with_reducible assumption
        · refine kept_settleDrains (hF.sub rfl) _ ?_
          refine kept_handleRoce (hF.sub rfl) _ _ _ _ ?_
          with_reducible assumption
theorem kept_execRocePacketReceive (hF : Sub 47186443261 F) : ∀ a0 a1 a2, Kept F z a2 → (OnNext (Kept F z)) (Sys2Proof.Machine.execRocePacketReceive a0 a1 a2) := by
  unfold Sys2Proof.Machine.execRocePacketReceive
  intro v0 v1 v2 v3
  extract_lets +onlyGivenNames l4_0 l4_1
  refine (fun (el4_0 : (Kept F z) l4_0) => ?_) ?_
  rotate_left
  · refine kept_atTime (hF.sub rfl) _ _ ?_
    with_reducible assumption
  clear_value l4_0 l4_1
  split
  · refine ans_next ?_
    with_reducible assumption
  · split
    · refine ans_next ?_
      refine opt_eq (by assumption) (?_ : OnSome (Kept F z) (Sys2Proof.portDiscard _ _ _ _ _))
      refine kept_portDiscard (hF.sub rfl) _ _ _ _ _ ?_
      with_reducible assumption
    · split
      · refine ans_next ?_
        refine kept_roceDiscard (hF.sub rfl) _ ?_
        with_reducible assumption
      · split
        · refine ans_next ?_
          refine kept_countNode (hF.sub rfl) _ _ ?_
          refine kept_roceDiscard (hF.sub rfl) _ ?_
          with_reducible assumption
        · split
          · refine ans_next ?_
            refine kept_roceDiscard (hF.sub rfl) _ ?_
            with_reducible assumption
          · split
            · refine ans_next ?_
              refine kept_roceDiscard (hF.sub rfl) _ ?_
              with_reducible assumption
            · split
              · refine ans_next ?_
                refine kept_missPacket (hF.sub rfl) _ _ _ _ ?_
                with_reducible assumption
              · refine ans_next ?_
                refine kept_handleRocePacket (hF.sub rfl) _ _ _ ?_
                with_reducible assumption
theorem kept_handleArrived (hF : Sub 47186443260 F) : ∀ a0 a1 a2, Kept F z a0 → (Kept F z) (Sys2Proof.handleArrived a0 a1 a2) := by
  unfold Sys2Proof.handleArrived
  intro v0 v1 v2 v3
  split
  · refine kept_handlePacket (hF.sub rfl) _ _ _ ?_
    with_reducible assumption
  · refine kept_handleRocePacket (hF.sub rfl) _ _ _ ?_
    with_reducible assumption
theorem kept_missNak (hF : Sub 805306368 F) : ∀ a0 a1 a2 a3 a4, Kept F z a0 → (Kept F z) (Sys2Proof.missNak a0 a1 a2 a3 a4) := by
  unfold Sys2Proof.missNak
  intro v0 v1 v2 v3 v4 v5
  split
  · with_reducible assumption
  · split
    · with_reducible assumption
    · extract_lets +onlyGivenNames l10_0
      refine (fun (el10_0 : (Kept F z) l10_0) => ?_) ?_
      rotate_left
      · refine kept_modQp (hF.sub rfl) _ _ _ ?_
        with_reducible assumption
      clear_value l10_0
      split
      · refine kept_roceReply (hF.sub rfl) _ _ _ _ ?_
        with_reducible assumption
      · refine kept_sendNak (hF.sub rfl) _ _ _ _ _ _ _ ?_
        with_reducible assumption
theorem kept_execContextFetchDone (hF : Sub 47186443261 F) : ∀ a0 a1 a2 a3, Kept F z a3 → (OnNext (Kept F z)) (Sys2Proof.Machine.execContextFetchDone a0 a1 a2 a3) := by
  unfold Sys2Proof.Machine.execContextFetchDone
  intro v0 v1 v2 v3 v4
  split
  · extract_lets +onlyGivenNames l6_0
    clear_value l6_0
    split
    · refine ans_next ?_
      with_reducible assumption
    · extract_lets +onlyGivenNames l10_0 l10_1 l10_2
      clear_value l10_0
      refine (fun (el10_1 : (Kept F z) l10_1) => ?_) ?_
      rotate_left
      · refine kept_modQp (hF.sub rfl) _ _ _ ?_
        refine os_eq (by assumption) (?_ : OnSome (OnSnd (Kept F z)) (Sys2Proof.takeContext _ _ _ _))
        refine kept_takeContext (hF.sub rfl) _ _ _ _ ?_
        refine kept_atTime (hF.sub rfl) _ _ ?_
        with_reducible assumption
      clear_value l10_1 l10_2
      extract_lets +onlyGivenNames l16_0
      refine (fun (el16_0 : (Kept F z) l16_0) => ?_) ?_
      rotate_left
      · refine kept_mk ?_
        with_reducible assumption
      clear_value l16_0
      split
      · refine ans_next ?_
        refine kept_settleDrains (hF.sub rfl) _ ?_
        refine kept_qpError (hF.sub rfl) _ _ ?_
        refine kept_modQp (hF.sub rfl) _ _ _ ?_
        with_reducible assumption
      · extract_lets +onlyGivenNames l25_0 l25_1
        refine (fun (el25_0 : (Kept F z) l25_0) => ?_) ?_
        rotate_left
        · refine foldl_kept (P := (Kept F z)) ?_ ?_
          · with_reducible assumption
          · intro v28 v29 v30
            refine kept_handleArrived (hF.sub rfl) _ _ _ ?_
            with_reducible assumption
        clear_value l25_0 l25_1
        refine ans_next ?_
        refine foldl_kept (P := (Kept F z)) ?_ ?_
        · with_reducible assumption
        · intro v36 v37 v38
          refine kept_missNak (hF.sub rfl) _ _ _ _ _ ?_
          with_reducible assumption
  · refine ans_next ?_
    with_reducible assumption

/-! ### Smbus -/

theorem kept_smbReply (hF : Sub 8 F) : ∀ a0 a1, Kept F z a0 → (Kept F z) (Sys2Proof.smbReply a0 a1) := by
  unfold Sys2Proof.smbReply
  intro v0 v1 v2
  refine kept_emit (hF.sub rfl) _ _ ?_
  with_reducible assumption
theorem kept_execSmbStatus (hF : Sub 17179869192 F) : ∀ a0, Kept F z a0 → (OnNext (Kept F z)) (Sys2Proof.Machine.execSmbStatus a0) := by
  unfold Sys2Proof.Machine.execSmbStatus
  intro v0 v1
  refine ans_next ?_
  refine kept_smbReply (hF.sub rfl) _ _ ?_
  with_reducible assumption
theorem kept_execSmbLifecycle (hF : Sub 8 F) : ∀ a0, Kept F z a0 → (OnNext (Kept F z)) (Sys2Proof.Machine.execSmbLifecycle a0) := by
  unfold Sys2Proof.Machine.execSmbLifecycle
  intro v0 v1
  refine ans_next ?_
  refine kept_smbReply (hF.sub rfl) _ _ ?_
  with_reducible assumption
theorem kept_execSmbPower (hF : Sub 8 F) : ∀ a0, Kept F z a0 → (OnNext (Kept F z)) (Sys2Proof.Machine.execSmbPower a0) := by
  unfold Sys2Proof.Machine.execSmbPower
  intro v0 v1
  refine ans_next ?_
  refine kept_smbReply (hF.sub rfl) _ _ ?_
  with_reducible assumption
theorem kept_execSmbTemp (hF : Sub 8 F) : ∀ a0, Kept F z a0 → (OnNext (Kept F z)) (Sys2Proof.Machine.execSmbTemp a0) := by
  unfold Sys2Proof.Machine.execSmbTemp
  intro v0 v1
  refine ans_next ?_
  refine kept_smbReply (hF.sub rfl) _ _ ?_
  with_reducible assumption
theorem kept_execSmbLevel (hF : Sub 8 F) : ∀ a0, Kept F z a0 → (OnNext (Kept F z)) (Sys2Proof.Machine.execSmbLevel a0) := by
  unfold Sys2Proof.Machine.execSmbLevel
  intro v0 v1
  refine ans_next ?_
  refine kept_smbReply (hF.sub rfl) _ _ ?_
  with_reducible assumption
theorem kept_execSmbAlertCause (hF : Sub 68719476744 F) : ∀ a0, Kept F z a0 → (OnNext (Kept F z)) (Sys2Proof.Machine.execSmbAlertCause a0) := by
  unfold Sys2Proof.Machine.execSmbAlertCause
  intro v0 v1
  extract_lets +onlyGivenNames l2_0 l2_1
  clear_value l2_0
  refine (fun (el2_1 : (Kept F z) l2_1) => ?_) ?_
  rotate_left
  · refine kept_smbReply (hF.sub rfl) _ _ ?_
    with_reducible assumption
  clear_value l2_1
  split
  · refine ans_next ?_
    refine kept_mk ?_
    with_reducible assumption
  · refine ans_next ?_
    with_reducible assumption
theorem kept_execSmbVariant (hF : Sub 8 F) : ∀ a0, Kept F z a0 → (OnNext (Kept F z)) (Sys2Proof.Machine.execSmbVariant a0) := by
  unfold Sys2Proof.Machine.execSmbVariant
  intro v0 v1
  refine ans_next ?_
  refine kept_smbReply (hF.sub rfl) _ _ ?_
  with_reducible assumption
theorem kept_execSmbIdentity (hF : Sub 8 F) : ∀ a0, Kept F z a0 → (OnNext (Kept F z)) (Sys2Proof.Machine.execSmbIdentity a0) := by
  unfold Sys2Proof.Machine.execSmbIdentity
  intro v0 v1
  refine ans_next ?_
  refine kept_smbReply (hF.sub rfl) _ _ ?_
  with_reducible assumption
theorem kept_execSmbAlertResponse (hF : Sub 8 F) : ∀ a0, Kept F z a0 → (OnNext (Kept F z)) (Sys2Proof.Machine.execSmbAlertResponse a0) := by
  unfold Sys2Proof.Machine.execSmbAlertResponse
  intro v0 v1
  refine ans_next ?_
  refine kept_emit (hF.sub rfl) _ _ ?_
  with_reducible assumption
theorem kept_execSmbUnknown (hF : Sub 8 F) : ∀ a0 a1, Kept F z a1 → (OnNext (Kept F z)) (Sys2Proof.Machine.execSmbUnknown a0 a1) := by
  unfold Sys2Proof.Machine.execSmbUnknown
  intro v0 v1 v2
  split
  · refine ans_next ?_
    with_reducible assumption
  · refine ans_next ?_
    refine kept_emit (hF.sub rfl) _ _ ?_
    with_reducible assumption

/-! ### Tables -/

theorem kept_loadScaleRun (hF : Sub 20484 F) : ∀ a0 a1 a2, Kept F z a2 → (Kept F z) (Sys2Proof.loadScaleRun a0 a1 a2) := by
  unfold Sys2Proof.loadScaleRun
  intro v0 v1 v2 v3
  extract_lets +onlyGivenNames l4_0 l4_1
  clear_value l4_0 l4_1
  split
  · refine kept_endDesc (hF.sub rfl) _ _ _ ?_
    with_reducible assumption
  · split
    · refine kept_endDesc (hF.sub rfl) _ _ _ ?_
      with_reducible assumption
    · split
      · with_reducible assumption
      · split
        · split
          · refine kept_endDesc (hF.sub rfl) _ _ _ ?_
            with_reducible assumption
          · split
            · refine kept_endDesc (hF.sub rfl) _ _ _ ?_
              with_reducible assumption
            · refine kept_putDesc (hF.sub rfl) _ _ ?_
              with_reducible assumption
        · split
          · refine kept_endDesc (hF.sub rfl) _ _ _ ?_
            with_reducible assumption
          · split
            · refine kept_endDesc (hF.sub rfl) _ _ _ ?_
              with_reducible assumption
            · extract_lets +onlyGivenNames l28_0 l28_1 l28_2 l28_3
              clear_value l28_0 l28_1 l28_2 l28_3
              split
              · refine kept_endDesc (hF.sub rfl) _ _ _ ?_
                with_reducible assumption
              · split
                · refine kept_endDesc (hF.sub rfl) _ _ _ ?_
                  with_reducible assumption
                · split
                  · refine kept_endDesc (hF.sub rfl) _ _ _ ?_
                    with_reducible assumption
                  · split
                    · refine kept_putDesc (hF.sub rfl) _ _ ?_
                      with_reducible assumption
                    · split
                      · refine kept_endDesc (hF.sub rfl) _ _ _ ?_
                        with_reducible assumption
                      · extract_lets +onlyGivenNames l44_0
                        clear_value l44_0
                        refine kept_putDesc (hF.sub rfl) _ _ ?_
                        refine os_eq (by assumption) (?_ : OnSome (OnSnd (Kept F z)) (Sys2Proof.takeBlocks _ _ _))
                        refine kept_takeBlocks (hF.sub rfl) _ _ _ ?_
                        with_reducible assumption
theorem kept_execLoadScaleTable (hF : Sub 17180151812 F) : ∀ a0 a1 a2 a3, Kept F z a3 → (OnNext (Kept F z)) (Sys2Proof.Machine.execLoadScaleTable a0 a1 a2 a3) := by
  unfold Sys2Proof.Machine.execLoadScaleTable
  intro v0 v1 v2 v3 v4
  split
  · refine ans_next ?_
    with_reducible assumption
  · refine kept_stationRun (hF.sub rfl) _ _ _ _ _ _ _ ?_ ?_
    · with_reducible assumption
    · intro v10 v11 v12
      refine kept_loadScaleRun (hF.sub rfl) _ _ _ ?_
      with_reducible assumption
theorem kept_decodeLoadEnd (hF : Sub 16384 F) : ∀ a0 a1 a2 a3 a4, Kept F z a4 → (Kept F z) (Sys2Proof.decodeLoadEnd a0 a1 a2 a3 a4) := by
  unfold Sys2Proof.decodeLoadEnd
  intro v0 v1 v2 v3 v4 v5
  extract_lets +onlyGivenNames l6_0
  clear_value l6_0
  split
  · refine kept_putDesc (hF.sub rfl) _ _ ?_
    with_reducible assumption
  · refine kept_putDesc (hF.sub rfl) _ _ ?_
    with_reducible assumption
theorem kept_loadDecodeRun (hF : Sub 16384 F) : ∀ a0 a1 a2, Kept F z a2 → (Kept F z) (Sys2Proof.loadDecodeRun a0 a1 a2) := by
  unfold Sys2Proof.loadDecodeRun
  intro v0 v1 v2 v3
  extract_lets +onlyGivenNames l4_0
  clear_value l4_0
  split
  · refine kept_endDesc (hF.sub rfl) _ _ _ ?_
    with_reducible assumption
  · split
    · refine kept_endDesc (hF.sub rfl) _ _ _ ?_
      with_reducible assumption
    · refine kept_endDesc (hF.sub rfl) _ _ _ ?_
      with_reducible assumption
    · split
      · split
        · refine kept_endDesc (hF.sub rfl) _ _ _ ?_
          with_reducible assumption
        · split
          · refine kept_endDesc (hF.sub rfl) _ _ _ ?_
            with_reducible assumption
          · refine kept_decodeLoadEnd (hF.sub rfl) _ _ _ _ _ ?_
            with_reducible assumption
      · split
        · refine kept_endDesc (hF.sub rfl) _ _ _ ?_
          with_reducible assumption
        · split
          · refine kept_endDesc (hF.sub rfl) _ _ _ ?_
            with_reducible assumption
          · split
            · refine kept_endDesc (hF.sub rfl) _ _ _ ?_
              with_reducible assumption
            · refine kept_decodeLoadEnd (hF.sub rfl) _ _ _ _ _ ?_
              with_reducible assumption
theorem kept_execLoadDecodeTable (hF : Sub 17180147712 F) : ∀ a0 a1 a2 a3, Kept F z a3 → (OnNext (Kept F z)) (Sys2Proof.Machine.execLoadDecodeTable a0 a1 a2 a3) := by
  unfold Sys2Proof.Machine.execLoadDecodeTable
  intro v0 v1 v2 v3 v4
  split
  · split
    · extract_lets +onlyGivenNames l7_0
      clear_value l7_0
      refine ans_next ?_
      refine kept_decodeLoadEnd (hF.sub rfl) _ _ _ _ _ ?_
      with_reducible assumption
    · refine kept_stationRun (hF.sub rfl) _ _ _ _ _ _ _ ?_ ?_
      · with_reducible assumption
      · intro v13 v14 v15
        refine kept_loadDecodeRun (hF.sub rfl) _ _ _ ?_
        with_reducible assumption
  · refine ans_next ?_
    with_reducible assumption

/-! ### Snare -/

theorem kept_matchRun (hF : Sub 17180147712 F) : ∀ a0 a1 a2 a3 a4 a5, Kept F z a0 → (∀ x0, (∀ x1, (∀ x2, (Kept F z) (x2) → (Kept F z) (a5 x0 x1 x2)))) → (OnNext (Kept F z)) (Sys2Proof.matchRun a0 a1 a2 a3 a4 a5) := by
  unfold Sys2Proof.matchRun
  intro v0 v1 v2 v3 v4 v5 v6 v7
  refine kept_stationRun (hF.sub rfl) _ _ _ _ _ _ _ ?_ ?_
  · with_reducible assumption
  · intro v10 v11 v12
    split
    · refine kept_endDesc (hF.sub rfl) _ _ _ ?_
      with_reducible assumption
    · refine kept_withDoms (hF.sub rfl) _ _ _ ?_ ?_
      · with_reducible assumption
      · intro v18 v19
        refine v7 _ _ _ ?_
        with_reducible assumption
theorem kept_execLookup (hF : Sub 17180147712 F) : ∀ a0 a1 a2 a3, Kept F z a3 → (OnNext (Kept F z)) (Sys2Proof.Machine.execLookup a0 a1 a2 a3) := by
  unfold Sys2Proof.Machine.execLookup
  intro v0 v1 v2 v3 v4
  refine kept_matchRun (hF.sub rfl) _ _ _ _ _ _ ?_ ?_
  · with_reducible assumption
  · intro v7 v8 v9 v10
    split
    · refine kept_endDesc (hF.sub rfl) _ _ _ ?_
      with_reducible assumption
    · extract_lets +onlyGivenNames l14_0
      clear_value l14_0
      refine kept_putDesc (hF.sub rfl) _ _ ?_
      with_reducible assumption
theorem kept_execInsert (hF : Sub 29192870332 F) : ∀ a0 a1 a2 a3, Kept F z a3 → (OnNext (Kept F z)) (Sys2Proof.Machine.execInsert a0 a1 a2 a3) := by
  unfold Sys2Proof.Machine.execInsert
  intro v0 v1 v2 v3 v4
  refine kept_matchRun (hF.sub rfl) _ _ _ _ _ _ ?_ ?_
  · with_reducible assumption
  · intro v7 v8 v9 v10
    split
    · refine kept_endDesc (hF.sub rfl) _ _ _ ?_
      with_reducible assumption
    · extract_lets +onlyGivenNames l14_0
      clear_value l14_0
      split
      · refine kept_endDesc (hF.sub rfl) _ _ _ ?_
        with_reducible assumption
      · split
        · refine kept_endDesc (hF.sub rfl) _ _ _ ?_
          with_reducible assumption
        · split
          · refine kept_endDesc (hF.sub rfl) _ _ _ ?_
            with_reducible assumption
          · split
            · refine kept_endDesc (hF.sub rfl) _ _ _ ?_
              with_reducible assumption
            · extract_lets +onlyGivenNames l27_0
              clear_value l27_0
              refine kept_putDesc (hF.sub rfl) _ _ ?_
              with_reducible assumption
theorem kept_execRemove (hF : Sub 17180147712 F) : ∀ a0 a1 a2 a3, Kept F z a3 → (OnNext (Kept F z)) (Sys2Proof.Machine.execRemove a0 a1 a2 a3) := by
  unfold Sys2Proof.Machine.execRemove
  intro v0 v1 v2 v3 v4
  refine kept_matchRun (hF.sub rfl) _ _ _ _ _ _ ?_ ?_
  · with_reducible assumption
  · intro v7 v8 v9 v10
    split
    · refine kept_endDesc (hF.sub rfl) _ _ _ ?_
      with_reducible assumption
    · extract_lets +onlyGivenNames l14_0
      clear_value l14_0
      refine kept_putDesc (hF.sub rfl) _ _ ?_
      with_reducible assumption
theorem kept_execFingerprint (hF : Sub 17180148720 F) : ∀ a0 a1 a2 a3, Kept F z a3 → (OnNext (Kept F z)) (Sys2Proof.Machine.execFingerprint a0 a1 a2 a3) := by
  unfold Sys2Proof.Machine.execFingerprint
  intro v0 v1 v2 v3 v4
  refine kept_matchRun (hF.sub rfl) _ _ _ _ _ _ ?_ ?_
  · with_reducible assumption
  · intro v7 v8 v9 v10
    split
    · refine kept_endDesc (hF.sub rfl) _ _ _ ?_
      with_reducible assumption
    · extract_lets +onlyGivenNames l14_0 l14_1
      clear_value l14_0 l14_1
      split
      · refine kept_endDesc (hF.sub rfl) _ _ _ ?_
        with_reducible assumption
      · refine kept_putDesc (hF.sub rfl) _ _ ?_
        refine exc_ok_eq (by assumption) (?_ : OnResult Always (Kept F z) (Sys2Proof.writeOut _ _ _ _ _))
        refine kept_writeOut (hF.sub rfl) _ _ _ _ _ ?_
        with_reducible assumption
theorem kept_stepRun (hF : Sub 12012739004 F) : ∀ a0 a1 a2 a3, Kept F z a3 → (Kept F z) (Sys2Proof.stepRun a0 a1 a2 a3) := by
  unfold Sys2Proof.stepRun
  intro v0 v1 v2 v3 v4
  extract_lets +onlyGivenNames l5_0 l5_1 l5_2 l5_3
  clear_value l5_0 l5_1 l5_2 l5_3
  split
  · refine kept_endDesc (hF.sub rfl) _ _ _ ?_
    with_reducible assumption
  · split
    · refine kept_endDesc (hF.sub rfl) _ _ _ ?_
      with_reducible assumption
    · split
      · refine kept_endDesc (hF.sub rfl) _ _ _ ?_
        with_reducible assumption
      · refine kept_endDesc (hF.sub rfl) _ _ _ ?_
        with_reducible assumption
      · split
        · refine kept_endDesc (hF.sub rfl) _ _ _ ?_
          with_reducible assumption
        · split
          · refine kept_endDesc (hF.sub rfl) _ _ _ ?_
            with_reducible assumption
          · split
            · refine kept_endDesc (hF.sub rfl) _ _ _ ?_
              with_reducible assumption
            · extract_lets +onlyGivenNames l26_0 l26_1 l26_2
              clear_value l26_0 l26_1 l26_2
              split
              · refine kept_endDesc (hF.sub rfl) _ _ _ ?_
                with_reducible assumption
              · extract_lets +onlyGivenNames l30_0 l30_1 l30_2 l30_3
                clear_value l30_0 l30_1 l30_2 l30_3
                split
                extract_lets +onlyGivenNames l32_0 l32_1
                clear_value l32_0 l32_1
                extract_lets +onlyGivenNames l33_0
                clear_value l33_0
                refine kept_putDesc (hF.sub rfl) _ _ ?_
                with_reducible assumption
theorem kept_execMatchStep (hF : Sub 29192870332 F) : ∀ a0 a1 a2 a3, Kept F z a3 → (OnNext (Kept F z)) (Sys2Proof.Machine.execMatchStep a0 a1 a2 a3) := by
  unfold Sys2Proof.Machine.execMatchStep
  intro v0 v1 v2 v3 v4
  refine kept_matchRun (hF.sub rfl) _ _ _ _ _ _ ?_ ?_
  · with_reducible assumption
  · intro v7 v8 v9 v10
    refine kept_stepRun (hF.sub rfl) _ _ _ _ ?_
    with_reducible assumption
theorem kept_execMatchState (hF : Sub 29192870908 F) : ∀ a0 a1 a2, Kept F z a2 → (OnNext (Kept F z)) (Sys2Proof.Machine.execMatchState a0 a1 a2) := by
  unfold Sys2Proof.Machine.execMatchState
  intro v0 v1 v2 v3
  refine kept_matchRun (hF.sub rfl) _ _ _ _ _ _ ?_ ?_
  · with_reducible assumption
  · intro v6 v7 v8 v9
    split
    · refine kept_endDesc (hF.sub rfl) _ _ _ ?_
      with_reducible assumption
    · split
      · refine kept_endDesc (hF.sub rfl) _ _ _ ?_
        with_reducible assumption
      · split
        · refine kept_endDesc (hF.sub rfl) _ _ _ ?_
          with_reducible assumption
        · split
          · refine kept_endDesc (hF.sub rfl) _ _ _ ?_
            with_reducible assumption
          · extract_lets +onlyGivenNames l22_0
            clear_value l22_0
            split
            · refine kept_endDesc (hF.sub rfl) _ _ _ ?_
              with_reducible assumption
            · refine kept_putDesc (hF.sub rfl) _ _ ?_
              refine exc_ok_eq (by assumption) (?_ : OnResult Always (Kept F z) (Sys2Proof.writeOut _ _ _ _ _))
              refine kept_writeOut (hF.sub rfl) _ _ _ _ _ ?_
              with_reducible assumption
theorem kept_dropUpset (hF : Sub 67108864 F) : ∀ a0 a1 a2, Kept F z a0 → (Kept F z) (Sys2Proof.dropUpset a0 a1 a2) := by
  unfold Sys2Proof.dropUpset
  intro v0 v1 v2 v3
  split
  · extract_lets +onlyGivenNames l5_0
    refine (fun (el5_0 : (Kept F z) l5_0) => ?_) ?_
    rotate_left
    · refine kept_modBlock (hF.sub rfl) _ _ _ ?_
      with_reducible assumption
    clear_value l5_0
    refine kept_mk ?_
    with_reducible assumption
  · with_reducible assumption
theorem kept_meetEntry (hF : Sub 67108868 F) : ∀ a0 a1 a2, Kept F z a0 → (Kept F z) (Sys2Proof.meetEntry a0 a1 a2) := by
  unfold Sys2Proof.meetEntry
  intro v0 v1 v2 v3
  split
  · split
    split
    · refine kept_dropUpset (hF.sub rfl) _ _ _ ?_
      refine snd_eq (by assumption) (?_ : OnSnd (Kept F z) (Sys2Proof.draw _))
      refine kept_draw (hF.sub rfl) _ ?_
      with_reducible assumption
    · refine snd_eq (by assumption) (?_ : OnSnd (Kept F z) (Sys2Proof.draw _))
      refine kept_draw (hF.sub rfl) _ ?_
      with_reducible assumption
  · with_reducible assumption
theorem kept_serveSlot (hF : Sub 67125252 F) : ∀ a0 a1 a2, Kept F z a0 → (Kept F z) (Sys2Proof.serveSlot a0 a1 a2) := by
  unfold Sys2Proof.serveSlot
  intro v0 v1 v2 v3
  split
  · with_reducible assumption
  · split
    · refine kept_putDesc (hF.sub rfl) _ _ ?_
      with_reducible assumption
    · extract_lets +onlyGivenNames l9_0 l9_1 l9_2
      refine (fun (el9_0 : (Kept F z) l9_0) => ?_) ?_
      rotate_left
      · refine kept_meetEntry (hF.sub rfl) _ _ _ ?_
        with_reducible assumption
      clear_value l9_0 l9_1 l9_2
      split
      · extract_lets +onlyGivenNames l13_0
        clear_value l13_0
        split
        · refine kept_putDesc (hF.sub rfl) _ _ ?_
          with_reducible assumption
        · refine kept_putDesc (hF.sub rfl) _ _ ?_
          with_reducible assumption
      · refine kept_putDesc (hF.sub rfl) _ _ ?_
        with_reducible assumption
    · split
      · refine kept_endDesc (hF.sub rfl) _ _ _ ?_
        with_reducible assumption
      · extract_lets +onlyGivenNames l24_0 l24_1
        clear_value l24_0 l24_1
        split
        · refine kept_putDesc (hF.sub rfl) _ _ ?_
          with_reducible assumption
        · refine kept_putDesc (hF.sub rfl) _ _ ?_
          with_reducible assumption
theorem kept_execSnareSlot (hF : Sub 17246996484 F) : ∀ a0, Kept F z a0 → (OnNext (Kept F z)) (Sys2Proof.Machine.execSnareSlot a0) := by
  unfold Sys2Proof.Machine.execSnareSlot
  intro v0 v1
  extract_lets +onlyGivenNames l2_0 l2_1 l2_2
  clear_value l2_0 l2_1 l2_2
  split
  · refine ans_next ?_
    with_reducible assumption
  · split
    · refine ans_next ?_
      with_reducible assumption
    · refine ans_next ?_
      refine kept_withDoms (hF.sub rfl) _ _ _ ?_ ?_
      · with_reducible assumption
      · intro v12 v13
        refine kept_serveSlot (hF.sub rfl) _ _ _ ?_
        refine kept_count (hF.sub rfl) _ _ _ _ ?_
        refine kept_mk ?_
        with_reducible assumption
theorem kept_execInsertShift (hF : Sub 67108864 F) : ∀ a0 a1, Kept F z a1 → (OnNext (Kept F z)) (Sys2Proof.Machine.execInsertShift a0 a1) := by
  unfold Sys2Proof.Machine.execInsertShift
  intro v0 v1 v2
  split
  · refine ans_next ?_
    with_reducible assumption
  · refine ans_next ?_
    refine kept_modBlock (hF.sub rfl) _ _ _ ?_
    with_reducible assumption
theorem kept_execSnareBalance (hF : Sub 67108864 F) : ∀ a0 a1 a2, Kept F z a2 → (OnNext (Kept F z)) (Sys2Proof.Machine.execSnareBalance a0 a1 a2) := by
  unfold Sys2Proof.Machine.execSnareBalance
  intro v0 v1 v2 v3
  split
  · extract_lets +onlyGivenNames l5_0 l5_1 l5_2 l5_3
    clear_value l5_0 l5_1 l5_2 l5_3
    split
    · refine ans_next ?_
      with_reducible assumption
    · split
      · refine ans_next ?_
        refine kept_modBlock (hF.sub rfl) _ _ _ ?_
        refine kept_modBlock (hF.sub rfl) _ _ _ ?_
        with_reducible assumption
      · split
        · refine ans_next ?_
          refine kept_modBlock (hF.sub rfl) _ _ _ ?_
          refine kept_modBlock (hF.sub rfl) _ _ _ ?_
          with_reducible assumption
        · refine ans_next ?_
          with_reducible assumption
  · refine ans_next ?_
    with_reducible assumption
theorem kept_execParityScan (hF : Sub 67109280 F) : ∀ a0 a1 a2, Kept F z a2 → (OnNext (Kept F z)) (Sys2Proof.Machine.execParityScan a0 a1 a2) := by
  unfold Sys2Proof.Machine.execParityScan
  intro v0 v1 v2 v3
  extract_lets +onlyGivenNames l4_0 l4_1 l4_2 l4_3 l4_4
  clear_value l4_0 l4_1 l4_2 l4_3 l4_4
  extract_lets +onlyGivenNames l5_0
  refine (fun (el5_0 : (Kept F z) l5_0) => ?_) ?_
  rotate_left
  · refine kept_mk ?_
    with_reducible assumption
  clear_value l5_0
  refine ans_next ?_
  split
  · refine kept_ageExtension (hF.sub rfl) _ ?_
    with_reducible assumption
  · with_reducible assumption
theorem kept_execSnareThrottle (hF : Sub 67108865 F) : ∀ a0 a1 a2, Kept F z a2 → (OnNext (Kept F z)) (Sys2Proof.Machine.execSnareThrottle a0 a1 a2) := by
  unfold Sys2Proof.Machine.execSnareThrottle
  intro v0 v1 v2 v3
  extract_lets +onlyGivenNames l4_0 l4_1 l4_2 l4_3
  refine (fun (el4_0 : (Kept F z) l4_0) => ?_) ?_
  rotate_left
  · refine kept_atTime (hF.sub rfl) _ _ ?_
    with_reducible assumption
  clear_value l4_0 l4_1 l4_2 l4_3
  split
  · refine ans_next ?_
    refine kept_mk ?_
    with_reducible assumption
  · split
    · split
      · refine ans_next ?_
        refine kept_mk ?_
        with_reducible assumption
      · split
        · refine ans_next ?_
          refine kept_mk ?_
          with_reducible assumption
        · refine ans_next ?_
          with_reducible assumption
    · refine ans_next ?_
      refine kept_mk ?_
      with_reducible assumption
theorem kept_loadPatternsRun (hF : Sub 20484 F) : ∀ a0 a1 a2, Kept F z a2 → (Kept F z) (Sys2Proof.loadPatternsRun a0 a1 a2) := by
  unfold Sys2Proof.loadPatternsRun
  intro v0 v1 v2 v3
  extract_lets +onlyGivenNames l4_0
  clear_value l4_0
  split
  · refine kept_endDesc (hF.sub rfl) _ _ _ ?_
    with_reducible assumption
  · split
    · refine kept_endDesc (hF.sub rfl) _ _ _ ?_
      with_reducible assumption
    · extract_lets +onlyGivenNames l11_0
      clear_value l11_0
      split
      · refine kept_endDesc (hF.sub rfl) _ _ _ ?_
        with_reducible assumption
      · split
        · split
          · refine kept_endDesc (hF.sub rfl) _ _ _ ?_
            with_reducible assumption
          · split
            · refine kept_endDesc (hF.sub rfl) _ _ _ ?_
              with_reducible assumption
            · split
              · with_reducible assumption
              · refine kept_putDesc (hF.sub rfl) _ _ ?_
                with_reducible assumption
        · split
          · refine kept_endDesc (hF.sub rfl) _ _ _ ?_
            with_reducible assumption
          · split
            · refine kept_endDesc (hF.sub rfl) _ _ _ ?_
              with_reducible assumption
            · extract_lets +onlyGivenNames l32_0
              clear_value l32_0
              split
              split
              · refine kept_endDesc (hF.sub rfl) _ _ _ ?_
                with_reducible assumption
              · split
                · refine kept_endDesc (hF.sub rfl) _ _ _ ?_
                  with_reducible assumption
                · split
                  · refine kept_endDesc (hF.sub rfl) _ _ _ ?_
                    with_reducible assumption
                  · split
                    · with_reducible assumption
                    · split
                      · refine kept_endDesc (hF.sub rfl) _ _ _ ?_
                        with_reducible assumption
                      · split
                        · refine kept_endDesc (hF.sub rfl) _ _ _ ?_
                          with_reducible assumption
                        · refine kept_putDesc (hF.sub rfl) _ _ ?_
                          refine os_eq (by assumption) (?_ : OnSome (OnSnd (Kept F z)) (Sys2Proof.takeBlocks _ _ _))
                          refine kept_takeBlocks (hF.sub rfl) _ _ _ ?_
                          refine os_eq (by assumption) (?_ : OnSome (OnSnd (Kept F z)) (Sys2Proof.takeRuns _ _ _))
                          refine kept_takeRuns (hF.sub rfl) _ _ _ ?_
                          with_reducible assumption
theorem kept_execLoadPatterns (hF : Sub 17180151812 F) : ∀ a0 a1 a2 a3, Kept F z a3 → (OnNext (Kept F z)) (Sys2Proof.Machine.execLoadPatterns a0 a1 a2 a3) := by
  unfold Sys2Proof.Machine.execLoadPatterns
  intro v0 v1 v2 v3 v4
  split
  · refine ans_next ?_
    with_reducible assumption
  · refine kept_stationRun (hF.sub rfl) _ _ _ _ _ _ _ ?_ ?_
    · with_reducible assumption
    · intro v10 v11 v12
      refine kept_loadPatternsRun (hF.sub rfl) _ _ _ ?_
      with_reducible assumption

/-! ### Clock -/

theorem kept_tick (hF : Sub 1 F) : ∀ a0, Kept F z a0 → (Kept F z) (Sys2Proof.tick a0) := by
  unfold Sys2Proof.tick
  intro v0 v1
  split
  · refine kept_mk ?_
    with_reducible assumption
  · with_reducible assumption

end Sys2Proof.Laws
end

