-- ==== Sys2Proof/Laws/State.lean ====
section
/-!
SUPPORT. What each named update of the state leaves in each field: one lemma for each field of each update, true by definition, so that no proof unfolds a record update.
-/
namespace Sys2Proof.Laws

open Sys2Proof.Machine (State)

variable (s : State)

/-! ### atTime -/

@[simp] theorem atTime_pending (t : Nat) : (atTime s t).pending = s.pending := rfl
@[simp] theorem atTime_time (t : Nat) : (atTime s t).time = max s.time (t / 10 * 10 % 2 ^ 64) := rfl
@[simp] theorem atTime_timeOn (t : Nat) : (atTime s t).timeOn = s.timeOn := rfl
@[simp] theorem atTime_free (t : Nat) : (atTime s t).free = s.free := rfl
@[simp] theorem atTime_out (t : Nat) : (atTime s t).out = s.out := rfl
@[simp] theorem atTime_host (t : Nat) : (atTime s t).host = s.host := rfl
@[simp] theorem atTime_hbm (t : Nat) : (atTime s t).hbm = s.hbm := rfl
@[simp] theorem atTime_staging (t : Nat) : (atTime s t).staging = s.staging := rfl
@[simp] theorem atTime_hbmPoison (t : Nat) : (atTime s t).hbmPoison = s.hbmPoison := rfl
@[simp] theorem atTime_openPoison (t : Nat) : (atTime s t).openPoison = s.openPoison := rfl
@[simp] theorem atTime_stagingPoison (t : Nat) : (atTime s t).stagingPoison = s.stagingPoison := rfl
@[simp] theorem atTime_poisonOverflow (t : Nat) : (atTime s t).poisonOverflow = s.poisonOverflow := rfl
@[simp] theorem atTime_owners (t : Nat) : (atTime s t).owners = s.owners := rfl
@[simp] theorem atTime_parts (t : Nat) : (atTime s t).parts = s.parts := rfl
@[simp] theorem atTime_contexts (t : Nat) : (atTime s t).contexts = s.contexts := rfl
@[simp] theorem atTime_flight (t : Nat) : (atTime s t).flight = s.flight := rfl
@[simp] theorem atTime_extents (t : Nat) : (atTime s t).extents = s.extents := rfl
@[simp] theorem atTime_frames (t : Nat) : (atTime s t).frames = s.frames := rfl
@[simp] theorem atTime_words (t : Nat) : (atTime s t).words = s.words := rfl
@[simp] theorem atTime_units (t : Nat) : (atTime s t).units = s.units := rfl
@[simp] theorem atTime_sweepWindow (t : Nat) : (atTime s t).sweepWindow = s.sweepWindow := rfl
@[simp] theorem atTime_sweepUsed (t : Nat) : (atTime s t).sweepUsed = s.sweepUsed := rfl
@[simp] theorem atTime_exactWindow (t : Nat) : (atTime s t).exactWindow = s.exactWindow := rfl
@[simp] theorem atTime_exactUsed (t : Nat) : (atTime s t).exactUsed = s.exactUsed := rfl
@[simp] theorem atTime_cores (t : Nat) : (atTime s t).cores = s.cores := rfl
@[simp] theorem atTime_coreMap (t : Nat) : (atTime s t).coreMap = s.coreMap := rfl
@[simp] theorem atTime_turns (t : Nat) : (atTime s t).turns = s.turns := rfl
@[simp] theorem atTime_snare (t : Nat) : (atTime s t).snare = s.snare := rfl
@[simp] theorem atTime_fabric (t : Nat) : (atTime s t).fabric = s.fabric := rfl
@[simp] theorem atTime_net (t : Nat) : (atTime s t).net = s.net := rfl
@[simp] theorem atTime_ports (t : Nat) : (atTime s t).ports = s.ports := rfl
@[simp] theorem atTime_cxl (t : Nat) : (atTime s t).cxl = s.cxl := rfl
@[simp] theorem atTime_flash (t : Nat) : (atTime s t).flash = s.flash := rfl
@[simp] theorem atTime_fw (t : Nat) : (atTime s t).fw = s.fw := rfl
@[simp] theorem atTime_belfry (t : Nat) : (atTime s t).belfry = s.belfry := rfl
@[simp] theorem atTime_power (t : Nat) : (atTime s t).power = s.power := rfl
@[simp] theorem atTime_faults (t : Nat) : (atTime s t).faults = s.faults := rfl
@[simp] theorem atTime_boot (t : Nat) : (atTime s t).boot = s.boot := rfl
@[simp] theorem atTime_serial (t : Nat) : (atTime s t).serial = s.serial := rfl

/-! ### emit -/

@[simp] theorem emit_pending (x : Out) : (emit s x).pending = s.pending := rfl
@[simp] theorem emit_time (x : Out) : (emit s x).time = s.time := rfl
@[simp] theorem emit_timeOn (x : Out) : (emit s x).timeOn = s.timeOn := rfl
@[simp] theorem emit_free (x : Out) : (emit s x).free = s.free := rfl
@[simp] theorem emit_out (x : Out) : (emit s x).out = x :: s.out := rfl
@[simp] theorem emit_host (x : Out) : (emit s x).host = s.host := rfl
@[simp] theorem emit_hbm (x : Out) : (emit s x).hbm = s.hbm := rfl
@[simp] theorem emit_staging (x : Out) : (emit s x).staging = s.staging := rfl
@[simp] theorem emit_hbmPoison (x : Out) : (emit s x).hbmPoison = s.hbmPoison := rfl
@[simp] theorem emit_openPoison (x : Out) : (emit s x).openPoison = s.openPoison := rfl
@[simp] theorem emit_stagingPoison (x : Out) : (emit s x).stagingPoison = s.stagingPoison := rfl
@[simp] theorem emit_poisonOverflow (x : Out) : (emit s x).poisonOverflow = s.poisonOverflow := rfl
@[simp] theorem emit_owners (x : Out) : (emit s x).owners = s.owners := rfl
@[simp] theorem emit_parts (x : Out) : (emit s x).parts = s.parts := rfl
@[simp] theorem emit_contexts (x : Out) : (emit s x).contexts = s.contexts := rfl
@[simp] theorem emit_flight (x : Out) : (emit s x).flight = s.flight := rfl
@[simp] theorem emit_extents (x : Out) : (emit s x).extents = s.extents := rfl
@[simp] theorem emit_frames (x : Out) : (emit s x).frames = s.frames := rfl
@[simp] theorem emit_words (x : Out) : (emit s x).words = s.words := rfl
@[simp] theorem emit_units (x : Out) : (emit s x).units = s.units := rfl
@[simp] theorem emit_sweepWindow (x : Out) : (emit s x).sweepWindow = s.sweepWindow := rfl
@[simp] theorem emit_sweepUsed (x : Out) : (emit s x).sweepUsed = s.sweepUsed := rfl
@[simp] theorem emit_exactWindow (x : Out) : (emit s x).exactWindow = s.exactWindow := rfl
@[simp] theorem emit_exactUsed (x : Out) : (emit s x).exactUsed = s.exactUsed := rfl
@[simp] theorem emit_cores (x : Out) : (emit s x).cores = s.cores := rfl
@[simp] theorem emit_coreMap (x : Out) : (emit s x).coreMap = s.coreMap := rfl
@[simp] theorem emit_turns (x : Out) : (emit s x).turns = s.turns := rfl
@[simp] theorem emit_snare (x : Out) : (emit s x).snare = s.snare := rfl
@[simp] theorem emit_fabric (x : Out) : (emit s x).fabric = s.fabric := rfl
@[simp] theorem emit_net (x : Out) : (emit s x).net = s.net := rfl
@[simp] theorem emit_ports (x : Out) : (emit s x).ports = s.ports := rfl
@[simp] theorem emit_cxl (x : Out) : (emit s x).cxl = s.cxl := rfl
@[simp] theorem emit_flash (x : Out) : (emit s x).flash = s.flash := rfl
@[simp] theorem emit_fw (x : Out) : (emit s x).fw = s.fw := rfl
@[simp] theorem emit_belfry (x : Out) : (emit s x).belfry = s.belfry := rfl
@[simp] theorem emit_power (x : Out) : (emit s x).power = s.power := rfl
@[simp] theorem emit_faults (x : Out) : (emit s x).faults = s.faults := rfl
@[simp] theorem emit_boot (x : Out) : (emit s x).boot = s.boot := rfl
@[simp] theorem emit_serial (x : Out) : (emit s x).serial = s.serial := rfl

/-! ### modOwner -/

@[simp] theorem modOwner_pending (o : Owner) (f : OwnerS → OwnerS) : (modOwner s o f).pending = s.pending := rfl
@[simp] theorem modOwner_time (o : Owner) (f : OwnerS → OwnerS) : (modOwner s o f).time = s.time := rfl
@[simp] theorem modOwner_timeOn (o : Owner) (f : OwnerS → OwnerS) : (modOwner s o f).timeOn = s.timeOn := rfl
@[simp] theorem modOwner_free (o : Owner) (f : OwnerS → OwnerS) : (modOwner s o f).free = s.free := rfl
@[simp] theorem modOwner_out (o : Owner) (f : OwnerS → OwnerS) : (modOwner s o f).out = s.out := rfl
@[simp] theorem modOwner_host (o : Owner) (f : OwnerS → OwnerS) : (modOwner s o f).host = s.host := rfl
@[simp] theorem modOwner_hbm (o : Owner) (f : OwnerS → OwnerS) : (modOwner s o f).hbm = s.hbm := rfl
@[simp] theorem modOwner_staging (o : Owner) (f : OwnerS → OwnerS) : (modOwner s o f).staging = s.staging := rfl
@[simp] theorem modOwner_hbmPoison (o : Owner) (f : OwnerS → OwnerS) : (modOwner s o f).hbmPoison = s.hbmPoison := rfl
@[simp] theorem modOwner_openPoison (o : Owner) (f : OwnerS → OwnerS) : (modOwner s o f).openPoison = s.openPoison := rfl
@[simp] theorem modOwner_stagingPoison (o : Owner) (f : OwnerS → OwnerS) : (modOwner s o f).stagingPoison = s.stagingPoison := rfl
@[simp] theorem modOwner_poisonOverflow (o : Owner) (f : OwnerS → OwnerS) : (modOwner s o f).poisonOverflow = s.poisonOverflow := rfl
@[simp] theorem modOwner_owners (o : Owner) (f : OwnerS → OwnerS) : (modOwner s o f).owners = s.owners.modify o.idx f := rfl
@[simp] theorem modOwner_parts (o : Owner) (f : OwnerS → OwnerS) : (modOwner s o f).parts = s.parts := rfl
@[simp] theorem modOwner_contexts (o : Owner) (f : OwnerS → OwnerS) : (modOwner s o f).contexts = s.contexts := rfl
@[simp] theorem modOwner_flight (o : Owner) (f : OwnerS → OwnerS) : (modOwner s o f).flight = s.flight := rfl
@[simp] theorem modOwner_extents (o : Owner) (f : OwnerS → OwnerS) : (modOwner s o f).extents = s.extents := rfl
@[simp] theorem modOwner_frames (o : Owner) (f : OwnerS → OwnerS) : (modOwner s o f).frames = s.frames := rfl
@[simp] theorem modOwner_words (o : Owner) (f : OwnerS → OwnerS) : (modOwner s o f).words = s.words := rfl
@[simp] theorem modOwner_units (o : Owner) (f : OwnerS → OwnerS) : (modOwner s o f).units = s.units := rfl
@[simp] theorem modOwner_sweepWindow (o : Owner) (f : OwnerS → OwnerS) : (modOwner s o f).sweepWindow = s.sweepWindow := rfl
@[simp] theorem modOwner_sweepUsed (o : Owner) (f : OwnerS → OwnerS) : (modOwner s o f).sweepUsed = s.sweepUsed := rfl
@[simp] theorem modOwner_exactWindow (o : Owner) (f : OwnerS → OwnerS) : (modOwner s o f).exactWindow = s.exactWindow := rfl
@[simp] theorem modOwner_exactUsed (o : Owner) (f : OwnerS → OwnerS) : (modOwner s o f).exactUsed = s.exactUsed := rfl
@[simp] theorem modOwner_cores (o : Owner) (f : OwnerS → OwnerS) : (modOwner s o f).cores = s.cores := rfl
@[simp] theorem modOwner_coreMap (o : Owner) (f : OwnerS → OwnerS) : (modOwner s o f).coreMap = s.coreMap := rfl
@[simp] theorem modOwner_turns (o : Owner) (f : OwnerS → OwnerS) : (modOwner s o f).turns = s.turns := rfl
@[simp] theorem modOwner_snare (o : Owner) (f : OwnerS → OwnerS) : (modOwner s o f).snare = s.snare := rfl
@[simp] theorem modOwner_fabric (o : Owner) (f : OwnerS → OwnerS) : (modOwner s o f).fabric = s.fabric := rfl
@[simp] theorem modOwner_net (o : Owner) (f : OwnerS → OwnerS) : (modOwner s o f).net = s.net := rfl
@[simp] theorem modOwner_ports (o : Owner) (f : OwnerS → OwnerS) : (modOwner s o f).ports = s.ports := rfl
@[simp] theorem modOwner_cxl (o : Owner) (f : OwnerS → OwnerS) : (modOwner s o f).cxl = s.cxl := rfl
@[simp] theorem modOwner_flash (o : Owner) (f : OwnerS → OwnerS) : (modOwner s o f).flash = s.flash := rfl
@[simp] theorem modOwner_fw (o : Owner) (f : OwnerS → OwnerS) : (modOwner s o f).fw = s.fw := rfl
@[simp] theorem modOwner_belfry (o : Owner) (f : OwnerS → OwnerS) : (modOwner s o f).belfry = s.belfry := rfl
@[simp] theorem modOwner_power (o : Owner) (f : OwnerS → OwnerS) : (modOwner s o f).power = s.power := rfl
@[simp] theorem modOwner_faults (o : Owner) (f : OwnerS → OwnerS) : (modOwner s o f).faults = s.faults := rfl
@[simp] theorem modOwner_boot (o : Owner) (f : OwnerS → OwnerS) : (modOwner s o f).boot = s.boot := rfl
@[simp] theorem modOwner_serial (o : Owner) (f : OwnerS → OwnerS) : (modOwner s o f).serial = s.serial := rfl

/-! ### modRing -/

@[simp] theorem modRing_pending (o : Owner) (k : Nat) (f : Ring → Ring) : (modRing s o k f).pending = s.pending := rfl
@[simp] theorem modRing_time (o : Owner) (k : Nat) (f : Ring → Ring) : (modRing s o k f).time = s.time := rfl
@[simp] theorem modRing_timeOn (o : Owner) (k : Nat) (f : Ring → Ring) : (modRing s o k f).timeOn = s.timeOn := rfl
@[simp] theorem modRing_free (o : Owner) (k : Nat) (f : Ring → Ring) : (modRing s o k f).free = s.free := rfl
@[simp] theorem modRing_out (o : Owner) (k : Nat) (f : Ring → Ring) : (modRing s o k f).out = s.out := rfl
@[simp] theorem modRing_host (o : Owner) (k : Nat) (f : Ring → Ring) : (modRing s o k f).host = s.host := rfl
@[simp] theorem modRing_hbm (o : Owner) (k : Nat) (f : Ring → Ring) : (modRing s o k f).hbm = s.hbm := rfl
@[simp] theorem modRing_staging (o : Owner) (k : Nat) (f : Ring → Ring) : (modRing s o k f).staging = s.staging := rfl
@[simp] theorem modRing_hbmPoison (o : Owner) (k : Nat) (f : Ring → Ring) : (modRing s o k f).hbmPoison = s.hbmPoison := rfl
@[simp] theorem modRing_openPoison (o : Owner) (k : Nat) (f : Ring → Ring) : (modRing s o k f).openPoison = s.openPoison := rfl
@[simp] theorem modRing_stagingPoison (o : Owner) (k : Nat) (f : Ring → Ring) : (modRing s o k f).stagingPoison = s.stagingPoison := rfl
@[simp] theorem modRing_poisonOverflow (o : Owner) (k : Nat) (f : Ring → Ring) : (modRing s o k f).poisonOverflow = s.poisonOverflow := rfl
@[simp] theorem modRing_parts (o : Owner) (k : Nat) (f : Ring → Ring) : (modRing s o k f).parts = s.parts := rfl
@[simp] theorem modRing_contexts (o : Owner) (k : Nat) (f : Ring → Ring) : (modRing s o k f).contexts = s.contexts := rfl
@[simp] theorem modRing_flight (o : Owner) (k : Nat) (f : Ring → Ring) : (modRing s o k f).flight = s.flight := rfl
@[simp] theorem modRing_extents (o : Owner) (k : Nat) (f : Ring → Ring) : (modRing s o k f).extents = s.extents := rfl
@[simp] theorem modRing_frames (o : Owner) (k : Nat) (f : Ring → Ring) : (modRing s o k f).frames = s.frames := rfl
@[simp] theorem modRing_words (o : Owner) (k : Nat) (f : Ring → Ring) : (modRing s o k f).words = s.words := rfl
@[simp] theorem modRing_units (o : Owner) (k : Nat) (f : Ring → Ring) : (modRing s o k f).units = s.units := rfl
@[simp] theorem modRing_sweepWindow (o : Owner) (k : Nat) (f : Ring → Ring) : (modRing s o k f).sweepWindow = s.sweepWindow := rfl
@[simp] theorem modRing_sweepUsed (o : Owner) (k : Nat) (f : Ring → Ring) : (modRing s o k f).sweepUsed = s.sweepUsed := rfl
@[simp] theorem modRing_exactWindow (o : Owner) (k : Nat) (f : Ring → Ring) : (modRing s o k f).exactWindow = s.exactWindow := rfl
@[simp] theorem modRing_exactUsed (o : Owner) (k : Nat) (f : Ring → Ring) : (modRing s o k f).exactUsed = s.exactUsed := rfl
@[simp] theorem modRing_cores (o : Owner) (k : Nat) (f : Ring → Ring) : (modRing s o k f).cores = s.cores := rfl
@[simp] theorem modRing_coreMap (o : Owner) (k : Nat) (f : Ring → Ring) : (modRing s o k f).coreMap = s.coreMap := rfl
@[simp] theorem modRing_turns (o : Owner) (k : Nat) (f : Ring → Ring) : (modRing s o k f).turns = s.turns := rfl
@[simp] theorem modRing_snare (o : Owner) (k : Nat) (f : Ring → Ring) : (modRing s o k f).snare = s.snare := rfl
@[simp] theorem modRing_fabric (o : Owner) (k : Nat) (f : Ring → Ring) : (modRing s o k f).fabric = s.fabric := rfl
@[simp] theorem modRing_net (o : Owner) (k : Nat) (f : Ring → Ring) : (modRing s o k f).net = s.net := rfl
@[simp] theorem modRing_ports (o : Owner) (k : Nat) (f : Ring → Ring) : (modRing s o k f).ports = s.ports := rfl
@[simp] theorem modRing_cxl (o : Owner) (k : Nat) (f : Ring → Ring) : (modRing s o k f).cxl = s.cxl := rfl
@[simp] theorem modRing_flash (o : Owner) (k : Nat) (f : Ring → Ring) : (modRing s o k f).flash = s.flash := rfl
@[simp] theorem modRing_fw (o : Owner) (k : Nat) (f : Ring → Ring) : (modRing s o k f).fw = s.fw := rfl
@[simp] theorem modRing_belfry (o : Owner) (k : Nat) (f : Ring → Ring) : (modRing s o k f).belfry = s.belfry := rfl
@[simp] theorem modRing_power (o : Owner) (k : Nat) (f : Ring → Ring) : (modRing s o k f).power = s.power := rfl
@[simp] theorem modRing_faults (o : Owner) (k : Nat) (f : Ring → Ring) : (modRing s o k f).faults = s.faults := rfl
@[simp] theorem modRing_boot (o : Owner) (k : Nat) (f : Ring → Ring) : (modRing s o k f).boot = s.boot := rfl
@[simp] theorem modRing_serial (o : Owner) (k : Nat) (f : Ring → Ring) : (modRing s o k f).serial = s.serial := rfl

/-! ### count -/

@[simp] theorem count_pending (o : Owner) (k n : Nat) : (count s o k n).pending = s.pending := rfl
@[simp] theorem count_time (o : Owner) (k n : Nat) : (count s o k n).time = s.time := rfl
@[simp] theorem count_timeOn (o : Owner) (k n : Nat) : (count s o k n).timeOn = s.timeOn := rfl
@[simp] theorem count_free (o : Owner) (k n : Nat) : (count s o k n).free = s.free := rfl
@[simp] theorem count_out (o : Owner) (k n : Nat) : (count s o k n).out = s.out := rfl
@[simp] theorem count_host (o : Owner) (k n : Nat) : (count s o k n).host = s.host := rfl
@[simp] theorem count_hbm (o : Owner) (k n : Nat) : (count s o k n).hbm = s.hbm := rfl
@[simp] theorem count_staging (o : Owner) (k n : Nat) : (count s o k n).staging = s.staging := rfl
@[simp] theorem count_hbmPoison (o : Owner) (k n : Nat) : (count s o k n).hbmPoison = s.hbmPoison := rfl
@[simp] theorem count_openPoison (o : Owner) (k n : Nat) : (count s o k n).openPoison = s.openPoison := rfl
@[simp] theorem count_stagingPoison (o : Owner) (k n : Nat) : (count s o k n).stagingPoison = s.stagingPoison := rfl
@[simp] theorem count_poisonOverflow (o : Owner) (k n : Nat) : (count s o k n).poisonOverflow = s.poisonOverflow := rfl
@[simp] theorem count_parts (o : Owner) (k n : Nat) : (count s o k n).parts = s.parts := rfl
@[simp] theorem count_contexts (o : Owner) (k n : Nat) : (count s o k n).contexts = s.contexts := rfl
@[simp] theorem count_flight (o : Owner) (k n : Nat) : (count s o k n).flight = s.flight := rfl
@[simp] theorem count_extents (o : Owner) (k n : Nat) : (count s o k n).extents = s.extents := rfl
@[simp] theorem count_frames (o : Owner) (k n : Nat) : (count s o k n).frames = s.frames := rfl
@[simp] theorem count_words (o : Owner) (k n : Nat) : (count s o k n).words = s.words := rfl
@[simp] theorem count_units (o : Owner) (k n : Nat) : (count s o k n).units = s.units := rfl
@[simp] theorem count_sweepWindow (o : Owner) (k n : Nat) : (count s o k n).sweepWindow = s.sweepWindow := rfl
@[simp] theorem count_sweepUsed (o : Owner) (k n : Nat) : (count s o k n).sweepUsed = s.sweepUsed := rfl
@[simp] theorem count_exactWindow (o : Owner) (k n : Nat) : (count s o k n).exactWindow = s.exactWindow := rfl
@[simp] theorem count_exactUsed (o : Owner) (k n : Nat) : (count s o k n).exactUsed = s.exactUsed := rfl
@[simp] theorem count_cores (o : Owner) (k n : Nat) : (count s o k n).cores = s.cores := rfl
@[simp] theorem count_coreMap (o : Owner) (k n : Nat) : (count s o k n).coreMap = s.coreMap := rfl
@[simp] theorem count_turns (o : Owner) (k n : Nat) : (count s o k n).turns = s.turns := rfl
@[simp] theorem count_snare (o : Owner) (k n : Nat) : (count s o k n).snare = s.snare := rfl
@[simp] theorem count_fabric (o : Owner) (k n : Nat) : (count s o k n).fabric = s.fabric := rfl
@[simp] theorem count_net (o : Owner) (k n : Nat) : (count s o k n).net = s.net := rfl
@[simp] theorem count_ports (o : Owner) (k n : Nat) : (count s o k n).ports = s.ports := rfl
@[simp] theorem count_cxl (o : Owner) (k n : Nat) : (count s o k n).cxl = s.cxl := rfl
@[simp] theorem count_flash (o : Owner) (k n : Nat) : (count s o k n).flash = s.flash := rfl
@[simp] theorem count_fw (o : Owner) (k n : Nat) : (count s o k n).fw = s.fw := rfl
@[simp] theorem count_belfry (o : Owner) (k n : Nat) : (count s o k n).belfry = s.belfry := rfl
@[simp] theorem count_power (o : Owner) (k n : Nat) : (count s o k n).power = s.power := rfl
@[simp] theorem count_faults (o : Owner) (k n : Nat) : (count s o k n).faults = s.faults := rfl
@[simp] theorem count_boot (o : Owner) (k n : Nat) : (count s o k n).boot = s.boot := rfl
@[simp] theorem count_serial (o : Owner) (k n : Nat) : (count s o k n).serial = s.serial := rfl

/-! ### modPart -/

@[simp] theorem modPart_pending (p : Nat) (f : PartS → PartS) : (modPart s p f).pending = s.pending := rfl
@[simp] theorem modPart_time (p : Nat) (f : PartS → PartS) : (modPart s p f).time = s.time := rfl
@[simp] theorem modPart_timeOn (p : Nat) (f : PartS → PartS) : (modPart s p f).timeOn = s.timeOn := rfl
@[simp] theorem modPart_free (p : Nat) (f : PartS → PartS) : (modPart s p f).free = s.free := rfl
@[simp] theorem modPart_out (p : Nat) (f : PartS → PartS) : (modPart s p f).out = s.out := rfl
@[simp] theorem modPart_host (p : Nat) (f : PartS → PartS) : (modPart s p f).host = s.host := rfl
@[simp] theorem modPart_hbm (p : Nat) (f : PartS → PartS) : (modPart s p f).hbm = s.hbm := rfl
@[simp] theorem modPart_staging (p : Nat) (f : PartS → PartS) : (modPart s p f).staging = s.staging := rfl
@[simp] theorem modPart_hbmPoison (p : Nat) (f : PartS → PartS) : (modPart s p f).hbmPoison = s.hbmPoison := rfl
@[simp] theorem modPart_openPoison (p : Nat) (f : PartS → PartS) : (modPart s p f).openPoison = s.openPoison := rfl
@[simp] theorem modPart_stagingPoison (p : Nat) (f : PartS → PartS) : (modPart s p f).stagingPoison = s.stagingPoison := rfl
@[simp] theorem modPart_poisonOverflow (p : Nat) (f : PartS → PartS) : (modPart s p f).poisonOverflow = s.poisonOverflow := rfl
@[simp] theorem modPart_owners (p : Nat) (f : PartS → PartS) : (modPart s p f).owners = s.owners := rfl
@[simp] theorem modPart_parts (p : Nat) (f : PartS → PartS) : (modPart s p f).parts = s.parts.modify p f := rfl
@[simp] theorem modPart_contexts (p : Nat) (f : PartS → PartS) : (modPart s p f).contexts = s.contexts := rfl
@[simp] theorem modPart_flight (p : Nat) (f : PartS → PartS) : (modPart s p f).flight = s.flight := rfl
@[simp] theorem modPart_extents (p : Nat) (f : PartS → PartS) : (modPart s p f).extents = s.extents := rfl
@[simp] theorem modPart_frames (p : Nat) (f : PartS → PartS) : (modPart s p f).frames = s.frames := rfl
@[simp] theorem modPart_words (p : Nat) (f : PartS → PartS) : (modPart s p f).words = s.words := rfl
@[simp] theorem modPart_units (p : Nat) (f : PartS → PartS) : (modPart s p f).units = s.units := rfl
@[simp] theorem modPart_sweepWindow (p : Nat) (f : PartS → PartS) : (modPart s p f).sweepWindow = s.sweepWindow := rfl
@[simp] theorem modPart_sweepUsed (p : Nat) (f : PartS → PartS) : (modPart s p f).sweepUsed = s.sweepUsed := rfl
@[simp] theorem modPart_exactWindow (p : Nat) (f : PartS → PartS) : (modPart s p f).exactWindow = s.exactWindow := rfl
@[simp] theorem modPart_exactUsed (p : Nat) (f : PartS → PartS) : (modPart s p f).exactUsed = s.exactUsed := rfl
@[simp] theorem modPart_cores (p : Nat) (f : PartS → PartS) : (modPart s p f).cores = s.cores := rfl
@[simp] theorem modPart_coreMap (p : Nat) (f : PartS → PartS) : (modPart s p f).coreMap = s.coreMap := rfl
@[simp] theorem modPart_turns (p : Nat) (f : PartS → PartS) : (modPart s p f).turns = s.turns := rfl
@[simp] theorem modPart_snare (p : Nat) (f : PartS → PartS) : (modPart s p f).snare = s.snare := rfl
@[simp] theorem modPart_fabric (p : Nat) (f : PartS → PartS) : (modPart s p f).fabric = s.fabric := rfl
@[simp] theorem modPart_net (p : Nat) (f : PartS → PartS) : (modPart s p f).net = s.net := rfl
@[simp] theorem modPart_ports (p : Nat) (f : PartS → PartS) : (modPart s p f).ports = s.ports := rfl
@[simp] theorem modPart_cxl (p : Nat) (f : PartS → PartS) : (modPart s p f).cxl = s.cxl := rfl
@[simp] theorem modPart_flash (p : Nat) (f : PartS → PartS) : (modPart s p f).flash = s.flash := rfl
@[simp] theorem modPart_fw (p : Nat) (f : PartS → PartS) : (modPart s p f).fw = s.fw := rfl
@[simp] theorem modPart_belfry (p : Nat) (f : PartS → PartS) : (modPart s p f).belfry = s.belfry := rfl
@[simp] theorem modPart_power (p : Nat) (f : PartS → PartS) : (modPart s p f).power = s.power := rfl
@[simp] theorem modPart_faults (p : Nat) (f : PartS → PartS) : (modPart s p f).faults = s.faults := rfl
@[simp] theorem modPart_boot (p : Nat) (f : PartS → PartS) : (modPart s p f).boot = s.boot := rfl
@[simp] theorem modPart_serial (p : Nat) (f : PartS → PartS) : (modPart s p f).serial = s.serial := rfl

/-! ### putDesc -/

@[simp] theorem putDesc_pending (d : Desc) : (putDesc s d).pending = s.pending := rfl
@[simp] theorem putDesc_time (d : Desc) : (putDesc s d).time = s.time := rfl
@[simp] theorem putDesc_timeOn (d : Desc) : (putDesc s d).timeOn = s.timeOn := rfl
@[simp] theorem putDesc_free (d : Desc) : (putDesc s d).free = s.free := rfl
@[simp] theorem putDesc_out (d : Desc) : (putDesc s d).out = s.out := rfl
@[simp] theorem putDesc_host (d : Desc) : (putDesc s d).host = s.host := rfl
@[simp] theorem putDesc_hbm (d : Desc) : (putDesc s d).hbm = s.hbm := rfl
@[simp] theorem putDesc_staging (d : Desc) : (putDesc s d).staging = s.staging := rfl
@[simp] theorem putDesc_hbmPoison (d : Desc) : (putDesc s d).hbmPoison = s.hbmPoison := rfl
@[simp] theorem putDesc_openPoison (d : Desc) : (putDesc s d).openPoison = s.openPoison := rfl
@[simp] theorem putDesc_stagingPoison (d : Desc) : (putDesc s d).stagingPoison = s.stagingPoison := rfl
@[simp] theorem putDesc_poisonOverflow (d : Desc) : (putDesc s d).poisonOverflow = s.poisonOverflow := rfl
@[simp] theorem putDesc_owners (d : Desc) : (putDesc s d).owners = s.owners := rfl
@[simp] theorem putDesc_parts (d : Desc) : (putDesc s d).parts = s.parts := rfl
@[simp] theorem putDesc_contexts (d : Desc) : (putDesc s d).contexts = s.contexts := rfl
@[simp] theorem putDesc_flight (d : Desc) : (putDesc s d).flight = s.flight.map fun x => if x.ctx = d.ctx ∧ x.index = d.index then d else x := rfl
@[simp] theorem putDesc_extents (d : Desc) : (putDesc s d).extents = s.extents := rfl
@[simp] theorem putDesc_frames (d : Desc) : (putDesc s d).frames = s.frames := rfl
@[simp] theorem putDesc_words (d : Desc) : (putDesc s d).words = s.words := rfl
@[simp] theorem putDesc_units (d : Desc) : (putDesc s d).units = s.units := rfl
@[simp] theorem putDesc_sweepWindow (d : Desc) : (putDesc s d).sweepWindow = s.sweepWindow := rfl
@[simp] theorem putDesc_sweepUsed (d : Desc) : (putDesc s d).sweepUsed = s.sweepUsed := rfl
@[simp] theorem putDesc_exactWindow (d : Desc) : (putDesc s d).exactWindow = s.exactWindow := rfl
@[simp] theorem putDesc_exactUsed (d : Desc) : (putDesc s d).exactUsed = s.exactUsed := rfl
@[simp] theorem putDesc_cores (d : Desc) : (putDesc s d).cores = s.cores := rfl
@[simp] theorem putDesc_coreMap (d : Desc) : (putDesc s d).coreMap = s.coreMap := rfl
@[simp] theorem putDesc_turns (d : Desc) : (putDesc s d).turns = s.turns := rfl
@[simp] theorem putDesc_snare (d : Desc) : (putDesc s d).snare = s.snare := rfl
@[simp] theorem putDesc_fabric (d : Desc) : (putDesc s d).fabric = s.fabric := rfl
@[simp] theorem putDesc_net (d : Desc) : (putDesc s d).net = s.net := rfl
@[simp] theorem putDesc_ports (d : Desc) : (putDesc s d).ports = s.ports := rfl
@[simp] theorem putDesc_cxl (d : Desc) : (putDesc s d).cxl = s.cxl := rfl
@[simp] theorem putDesc_flash (d : Desc) : (putDesc s d).flash = s.flash := rfl
@[simp] theorem putDesc_fw (d : Desc) : (putDesc s d).fw = s.fw := rfl
@[simp] theorem putDesc_belfry (d : Desc) : (putDesc s d).belfry = s.belfry := rfl
@[simp] theorem putDesc_power (d : Desc) : (putDesc s d).power = s.power := rfl
@[simp] theorem putDesc_faults (d : Desc) : (putDesc s d).faults = s.faults := rfl
@[simp] theorem putDesc_boot (d : Desc) : (putDesc s d).boot = s.boot := rfl
@[simp] theorem putDesc_serial (d : Desc) : (putDesc s d).serial = s.serial := rfl

/-! ### modExt -/

@[simp] theorem modExt_pending (e : Nat) (f : Extent → Extent) : (modExt s e f).pending = s.pending := rfl
@[simp] theorem modExt_time (e : Nat) (f : Extent → Extent) : (modExt s e f).time = s.time := rfl
@[simp] theorem modExt_timeOn (e : Nat) (f : Extent → Extent) : (modExt s e f).timeOn = s.timeOn := rfl
@[simp] theorem modExt_free (e : Nat) (f : Extent → Extent) : (modExt s e f).free = s.free := rfl
@[simp] theorem modExt_out (e : Nat) (f : Extent → Extent) : (modExt s e f).out = s.out := rfl
@[simp] theorem modExt_host (e : Nat) (f : Extent → Extent) : (modExt s e f).host = s.host := rfl
@[simp] theorem modExt_hbm (e : Nat) (f : Extent → Extent) : (modExt s e f).hbm = s.hbm := rfl
@[simp] theorem modExt_staging (e : Nat) (f : Extent → Extent) : (modExt s e f).staging = s.staging := rfl
@[simp] theorem modExt_hbmPoison (e : Nat) (f : Extent → Extent) : (modExt s e f).hbmPoison = s.hbmPoison := rfl
@[simp] theorem modExt_openPoison (e : Nat) (f : Extent → Extent) : (modExt s e f).openPoison = s.openPoison := rfl
@[simp] theorem modExt_stagingPoison (e : Nat) (f : Extent → Extent) : (modExt s e f).stagingPoison = s.stagingPoison := rfl
@[simp] theorem modExt_poisonOverflow (e : Nat) (f : Extent → Extent) : (modExt s e f).poisonOverflow = s.poisonOverflow := rfl
@[simp] theorem modExt_owners (e : Nat) (f : Extent → Extent) : (modExt s e f).owners = s.owners := rfl
@[simp] theorem modExt_parts (e : Nat) (f : Extent → Extent) : (modExt s e f).parts = s.parts := rfl
@[simp] theorem modExt_contexts (e : Nat) (f : Extent → Extent) : (modExt s e f).contexts = s.contexts := rfl
@[simp] theorem modExt_flight (e : Nat) (f : Extent → Extent) : (modExt s e f).flight = s.flight := rfl
@[simp] theorem modExt_extents (e : Nat) (f : Extent → Extent) : (modExt s e f).extents = assign s.extents e (f (getExt s e)) := rfl
@[simp] theorem modExt_frames (e : Nat) (f : Extent → Extent) : (modExt s e f).frames = s.frames := rfl
@[simp] theorem modExt_words (e : Nat) (f : Extent → Extent) : (modExt s e f).words = s.words := rfl
@[simp] theorem modExt_units (e : Nat) (f : Extent → Extent) : (modExt s e f).units = s.units := rfl
@[simp] theorem modExt_sweepWindow (e : Nat) (f : Extent → Extent) : (modExt s e f).sweepWindow = s.sweepWindow := rfl
@[simp] theorem modExt_sweepUsed (e : Nat) (f : Extent → Extent) : (modExt s e f).sweepUsed = s.sweepUsed := rfl
@[simp] theorem modExt_exactWindow (e : Nat) (f : Extent → Extent) : (modExt s e f).exactWindow = s.exactWindow := rfl
@[simp] theorem modExt_exactUsed (e : Nat) (f : Extent → Extent) : (modExt s e f).exactUsed = s.exactUsed := rfl
@[simp] theorem modExt_cores (e : Nat) (f : Extent → Extent) : (modExt s e f).cores = s.cores := rfl
@[simp] theorem modExt_coreMap (e : Nat) (f : Extent → Extent) : (modExt s e f).coreMap = s.coreMap := rfl
@[simp] theorem modExt_turns (e : Nat) (f : Extent → Extent) : (modExt s e f).turns = s.turns := rfl
@[simp] theorem modExt_snare (e : Nat) (f : Extent → Extent) : (modExt s e f).snare = s.snare := rfl
@[simp] theorem modExt_fabric (e : Nat) (f : Extent → Extent) : (modExt s e f).fabric = s.fabric := rfl
@[simp] theorem modExt_net (e : Nat) (f : Extent → Extent) : (modExt s e f).net = s.net := rfl
@[simp] theorem modExt_ports (e : Nat) (f : Extent → Extent) : (modExt s e f).ports = s.ports := rfl
@[simp] theorem modExt_cxl (e : Nat) (f : Extent → Extent) : (modExt s e f).cxl = s.cxl := rfl
@[simp] theorem modExt_flash (e : Nat) (f : Extent → Extent) : (modExt s e f).flash = s.flash := rfl
@[simp] theorem modExt_fw (e : Nat) (f : Extent → Extent) : (modExt s e f).fw = s.fw := rfl
@[simp] theorem modExt_belfry (e : Nat) (f : Extent → Extent) : (modExt s e f).belfry = s.belfry := rfl
@[simp] theorem modExt_power (e : Nat) (f : Extent → Extent) : (modExt s e f).power = s.power := rfl
@[simp] theorem modExt_faults (e : Nat) (f : Extent → Extent) : (modExt s e f).faults = s.faults := rfl
@[simp] theorem modExt_boot (e : Nat) (f : Extent → Extent) : (modExt s e f).boot = s.boot := rfl
@[simp] theorem modExt_serial (e : Nat) (f : Extent → Extent) : (modExt s e f).serial = s.serial := rfl

/-! ### modUnit -/

@[simp] theorem modUnit_pending (u : Nat) (f : UnitS → UnitS) : (modUnit s u f).pending = s.pending := rfl
@[simp] theorem modUnit_time (u : Nat) (f : UnitS → UnitS) : (modUnit s u f).time = s.time := rfl
@[simp] theorem modUnit_timeOn (u : Nat) (f : UnitS → UnitS) : (modUnit s u f).timeOn = s.timeOn := rfl
@[simp] theorem modUnit_free (u : Nat) (f : UnitS → UnitS) : (modUnit s u f).free = s.free := rfl
@[simp] theorem modUnit_out (u : Nat) (f : UnitS → UnitS) : (modUnit s u f).out = s.out := rfl
@[simp] theorem modUnit_host (u : Nat) (f : UnitS → UnitS) : (modUnit s u f).host = s.host := rfl
@[simp] theorem modUnit_hbm (u : Nat) (f : UnitS → UnitS) : (modUnit s u f).hbm = s.hbm := rfl
@[simp] theorem modUnit_staging (u : Nat) (f : UnitS → UnitS) : (modUnit s u f).staging = s.staging := rfl
@[simp] theorem modUnit_hbmPoison (u : Nat) (f : UnitS → UnitS) : (modUnit s u f).hbmPoison = s.hbmPoison := rfl
@[simp] theorem modUnit_openPoison (u : Nat) (f : UnitS → UnitS) : (modUnit s u f).openPoison = s.openPoison := rfl
@[simp] theorem modUnit_stagingPoison (u : Nat) (f : UnitS → UnitS) : (modUnit s u f).stagingPoison = s.stagingPoison := rfl
@[simp] theorem modUnit_poisonOverflow (u : Nat) (f : UnitS → UnitS) : (modUnit s u f).poisonOverflow = s.poisonOverflow := rfl
@[simp] theorem modUnit_owners (u : Nat) (f : UnitS → UnitS) : (modUnit s u f).owners = s.owners := rfl
@[simp] theorem modUnit_parts (u : Nat) (f : UnitS → UnitS) : (modUnit s u f).parts = s.parts := rfl
@[simp] theorem modUnit_contexts (u : Nat) (f : UnitS → UnitS) : (modUnit s u f).contexts = s.contexts := rfl
@[simp] theorem modUnit_flight (u : Nat) (f : UnitS → UnitS) : (modUnit s u f).flight = s.flight := rfl
@[simp] theorem modUnit_extents (u : Nat) (f : UnitS → UnitS) : (modUnit s u f).extents = s.extents := rfl
@[simp] theorem modUnit_frames (u : Nat) (f : UnitS → UnitS) : (modUnit s u f).frames = s.frames := rfl
@[simp] theorem modUnit_words (u : Nat) (f : UnitS → UnitS) : (modUnit s u f).words = s.words := rfl
@[simp] theorem modUnit_units (u : Nat) (f : UnitS → UnitS) : (modUnit s u f).units = assign s.units u (f (getUnit s u)) := rfl
@[simp] theorem modUnit_sweepWindow (u : Nat) (f : UnitS → UnitS) : (modUnit s u f).sweepWindow = s.sweepWindow := rfl
@[simp] theorem modUnit_sweepUsed (u : Nat) (f : UnitS → UnitS) : (modUnit s u f).sweepUsed = s.sweepUsed := rfl
@[simp] theorem modUnit_exactWindow (u : Nat) (f : UnitS → UnitS) : (modUnit s u f).exactWindow = s.exactWindow := rfl
@[simp] theorem modUnit_exactUsed (u : Nat) (f : UnitS → UnitS) : (modUnit s u f).exactUsed = s.exactUsed := rfl
@[simp] theorem modUnit_cores (u : Nat) (f : UnitS → UnitS) : (modUnit s u f).cores = s.cores := rfl
@[simp] theorem modUnit_coreMap (u : Nat) (f : UnitS → UnitS) : (modUnit s u f).coreMap = s.coreMap := rfl
@[simp] theorem modUnit_turns (u : Nat) (f : UnitS → UnitS) : (modUnit s u f).turns = s.turns := rfl
@[simp] theorem modUnit_snare (u : Nat) (f : UnitS → UnitS) : (modUnit s u f).snare = s.snare := rfl
@[simp] theorem modUnit_fabric (u : Nat) (f : UnitS → UnitS) : (modUnit s u f).fabric = s.fabric := rfl
@[simp] theorem modUnit_net (u : Nat) (f : UnitS → UnitS) : (modUnit s u f).net = s.net := rfl
@[simp] theorem modUnit_ports (u : Nat) (f : UnitS → UnitS) : (modUnit s u f).ports = s.ports := rfl
@[simp] theorem modUnit_cxl (u : Nat) (f : UnitS → UnitS) : (modUnit s u f).cxl = s.cxl := rfl
@[simp] theorem modUnit_flash (u : Nat) (f : UnitS → UnitS) : (modUnit s u f).flash = s.flash := rfl
@[simp] theorem modUnit_fw (u : Nat) (f : UnitS → UnitS) : (modUnit s u f).fw = s.fw := rfl
@[simp] theorem modUnit_belfry (u : Nat) (f : UnitS → UnitS) : (modUnit s u f).belfry = s.belfry := rfl
@[simp] theorem modUnit_power (u : Nat) (f : UnitS → UnitS) : (modUnit s u f).power = s.power := rfl
@[simp] theorem modUnit_faults (u : Nat) (f : UnitS → UnitS) : (modUnit s u f).faults = s.faults := rfl
@[simp] theorem modUnit_boot (u : Nat) (f : UnitS → UnitS) : (modUnit s u f).boot = s.boot := rfl
@[simp] theorem modUnit_serial (u : Nat) (f : UnitS → UnitS) : (modUnit s u f).serial = s.serial := rfl

/-! ### modDom -/

@[simp] theorem modDom_pending (d : Nat) (f : Domain → Domain) : (modDom s d f).pending = s.pending := rfl
@[simp] theorem modDom_time (d : Nat) (f : Domain → Domain) : (modDom s d f).time = s.time := rfl
@[simp] theorem modDom_timeOn (d : Nat) (f : Domain → Domain) : (modDom s d f).timeOn = s.timeOn := rfl
@[simp] theorem modDom_free (d : Nat) (f : Domain → Domain) : (modDom s d f).free = s.free := rfl
@[simp] theorem modDom_out (d : Nat) (f : Domain → Domain) : (modDom s d f).out = s.out := rfl
@[simp] theorem modDom_host (d : Nat) (f : Domain → Domain) : (modDom s d f).host = s.host := rfl
@[simp] theorem modDom_hbm (d : Nat) (f : Domain → Domain) : (modDom s d f).hbm = s.hbm := rfl
@[simp] theorem modDom_staging (d : Nat) (f : Domain → Domain) : (modDom s d f).staging = s.staging := rfl
@[simp] theorem modDom_hbmPoison (d : Nat) (f : Domain → Domain) : (modDom s d f).hbmPoison = s.hbmPoison := rfl
@[simp] theorem modDom_openPoison (d : Nat) (f : Domain → Domain) : (modDom s d f).openPoison = s.openPoison := rfl
@[simp] theorem modDom_stagingPoison (d : Nat) (f : Domain → Domain) : (modDom s d f).stagingPoison = s.stagingPoison := rfl
@[simp] theorem modDom_poisonOverflow (d : Nat) (f : Domain → Domain) : (modDom s d f).poisonOverflow = s.poisonOverflow := rfl
@[simp] theorem modDom_owners (d : Nat) (f : Domain → Domain) : (modDom s d f).owners = s.owners := rfl
@[simp] theorem modDom_parts (d : Nat) (f : Domain → Domain) : (modDom s d f).parts = s.parts := rfl
@[simp] theorem modDom_contexts (d : Nat) (f : Domain → Domain) : (modDom s d f).contexts = s.contexts := rfl
@[simp] theorem modDom_flight (d : Nat) (f : Domain → Domain) : (modDom s d f).flight = s.flight := rfl
@[simp] theorem modDom_extents (d : Nat) (f : Domain → Domain) : (modDom s d f).extents = s.extents := rfl
@[simp] theorem modDom_frames (d : Nat) (f : Domain → Domain) : (modDom s d f).frames = s.frames := rfl
@[simp] theorem modDom_words (d : Nat) (f : Domain → Domain) : (modDom s d f).words = s.words := rfl
@[simp] theorem modDom_units (d : Nat) (f : Domain → Domain) : (modDom s d f).units = s.units := rfl
@[simp] theorem modDom_sweepWindow (d : Nat) (f : Domain → Domain) : (modDom s d f).sweepWindow = s.sweepWindow := rfl
@[simp] theorem modDom_sweepUsed (d : Nat) (f : Domain → Domain) : (modDom s d f).sweepUsed = s.sweepUsed := rfl
@[simp] theorem modDom_exactWindow (d : Nat) (f : Domain → Domain) : (modDom s d f).exactWindow = s.exactWindow := rfl
@[simp] theorem modDom_exactUsed (d : Nat) (f : Domain → Domain) : (modDom s d f).exactUsed = s.exactUsed := rfl
@[simp] theorem modDom_cores (d : Nat) (f : Domain → Domain) : (modDom s d f).cores = s.cores := rfl
@[simp] theorem modDom_coreMap (d : Nat) (f : Domain → Domain) : (modDom s d f).coreMap = s.coreMap := rfl
@[simp] theorem modDom_turns (d : Nat) (f : Domain → Domain) : (modDom s d f).turns = s.turns := rfl
@[simp] theorem modDom_snare (d : Nat) (f : Domain → Domain) : (modDom s d f).snare = s.snare := rfl
@[simp] theorem modDom_fabric (d : Nat) (f : Domain → Domain) : (modDom s d f).fabric = s.fabric := rfl
@[simp] theorem modDom_net (d : Nat) (f : Domain → Domain) : (modDom s d f).net = s.net := rfl
@[simp] theorem modDom_ports (d : Nat) (f : Domain → Domain) : (modDom s d f).ports = s.ports := rfl
@[simp] theorem modDom_cxl (d : Nat) (f : Domain → Domain) : (modDom s d f).cxl = s.cxl := rfl
@[simp] theorem modDom_flash (d : Nat) (f : Domain → Domain) : (modDom s d f).flash = s.flash := rfl
@[simp] theorem modDom_fw (d : Nat) (f : Domain → Domain) : (modDom s d f).fw = s.fw := rfl
@[simp] theorem modDom_belfry (d : Nat) (f : Domain → Domain) : (modDom s d f).belfry = s.belfry := rfl
@[simp] theorem modDom_power (d : Nat) (f : Domain → Domain) : (modDom s d f).power = { s.power with domains := s.power.domains.modify d f } := rfl
@[simp] theorem modDom_faults (d : Nat) (f : Domain → Domain) : (modDom s d f).faults = s.faults := rfl
@[simp] theorem modDom_boot (d : Nat) (f : Domain → Domain) : (modDom s d f).boot = s.boot := rfl
@[simp] theorem modDom_serial (d : Nat) (f : Domain → Domain) : (modDom s d f).serial = s.serial := rfl

/-! ### modQp -/

@[simp] theorem modQp_pending (n : Nat) (f : Qp → Qp) : (modQp s n f).pending = s.pending := rfl
@[simp] theorem modQp_time (n : Nat) (f : Qp → Qp) : (modQp s n f).time = s.time := rfl
@[simp] theorem modQp_timeOn (n : Nat) (f : Qp → Qp) : (modQp s n f).timeOn = s.timeOn := rfl
@[simp] theorem modQp_free (n : Nat) (f : Qp → Qp) : (modQp s n f).free = s.free := rfl
@[simp] theorem modQp_out (n : Nat) (f : Qp → Qp) : (modQp s n f).out = s.out := rfl
@[simp] theorem modQp_host (n : Nat) (f : Qp → Qp) : (modQp s n f).host = s.host := rfl
@[simp] theorem modQp_hbm (n : Nat) (f : Qp → Qp) : (modQp s n f).hbm = s.hbm := rfl
@[simp] theorem modQp_staging (n : Nat) (f : Qp → Qp) : (modQp s n f).staging = s.staging := rfl
@[simp] theorem modQp_hbmPoison (n : Nat) (f : Qp → Qp) : (modQp s n f).hbmPoison = s.hbmPoison := rfl
@[simp] theorem modQp_openPoison (n : Nat) (f : Qp → Qp) : (modQp s n f).openPoison = s.openPoison := rfl
@[simp] theorem modQp_stagingPoison (n : Nat) (f : Qp → Qp) : (modQp s n f).stagingPoison = s.stagingPoison := rfl
@[simp] theorem modQp_poisonOverflow (n : Nat) (f : Qp → Qp) : (modQp s n f).poisonOverflow = s.poisonOverflow := rfl
@[simp] theorem modQp_owners (n : Nat) (f : Qp → Qp) : (modQp s n f).owners = s.owners := rfl
@[simp] theorem modQp_parts (n : Nat) (f : Qp → Qp) : (modQp s n f).parts = s.parts := rfl
@[simp] theorem modQp_contexts (n : Nat) (f : Qp → Qp) : (modQp s n f).contexts = s.contexts := rfl
@[simp] theorem modQp_flight (n : Nat) (f : Qp → Qp) : (modQp s n f).flight = s.flight := rfl
@[simp] theorem modQp_extents (n : Nat) (f : Qp → Qp) : (modQp s n f).extents = s.extents := rfl
@[simp] theorem modQp_frames (n : Nat) (f : Qp → Qp) : (modQp s n f).frames = s.frames := rfl
@[simp] theorem modQp_words (n : Nat) (f : Qp → Qp) : (modQp s n f).words = s.words := rfl
@[simp] theorem modQp_units (n : Nat) (f : Qp → Qp) : (modQp s n f).units = s.units := rfl
@[simp] theorem modQp_sweepWindow (n : Nat) (f : Qp → Qp) : (modQp s n f).sweepWindow = s.sweepWindow := rfl
@[simp] theorem modQp_sweepUsed (n : Nat) (f : Qp → Qp) : (modQp s n f).sweepUsed = s.sweepUsed := rfl
@[simp] theorem modQp_exactWindow (n : Nat) (f : Qp → Qp) : (modQp s n f).exactWindow = s.exactWindow := rfl
@[simp] theorem modQp_exactUsed (n : Nat) (f : Qp → Qp) : (modQp s n f).exactUsed = s.exactUsed := rfl
@[simp] theorem modQp_cores (n : Nat) (f : Qp → Qp) : (modQp s n f).cores = s.cores := rfl
@[simp] theorem modQp_coreMap (n : Nat) (f : Qp → Qp) : (modQp s n f).coreMap = s.coreMap := rfl
@[simp] theorem modQp_turns (n : Nat) (f : Qp → Qp) : (modQp s n f).turns = s.turns := rfl
@[simp] theorem modQp_snare (n : Nat) (f : Qp → Qp) : (modQp s n f).snare = s.snare := rfl
@[simp] theorem modQp_fabric (n : Nat) (f : Qp → Qp) : (modQp s n f).fabric = s.fabric := rfl
@[simp] theorem modQp_net (n : Nat) (f : Qp → Qp) : (modQp s n f).net = { s.net with qps := adjust s.net.qps n f } := rfl
@[simp] theorem modQp_ports (n : Nat) (f : Qp → Qp) : (modQp s n f).ports = s.ports := rfl
@[simp] theorem modQp_cxl (n : Nat) (f : Qp → Qp) : (modQp s n f).cxl = s.cxl := rfl
@[simp] theorem modQp_flash (n : Nat) (f : Qp → Qp) : (modQp s n f).flash = s.flash := rfl
@[simp] theorem modQp_fw (n : Nat) (f : Qp → Qp) : (modQp s n f).fw = s.fw := rfl
@[simp] theorem modQp_belfry (n : Nat) (f : Qp → Qp) : (modQp s n f).belfry = s.belfry := rfl
@[simp] theorem modQp_power (n : Nat) (f : Qp → Qp) : (modQp s n f).power = s.power := rfl
@[simp] theorem modQp_faults (n : Nat) (f : Qp → Qp) : (modQp s n f).faults = s.faults := rfl
@[simp] theorem modQp_boot (n : Nat) (f : Qp → Qp) : (modQp s n f).boot = s.boot := rfl
@[simp] theorem modQp_serial (n : Nat) (f : Qp → Qp) : (modQp s n f).serial = s.serial := rfl

/-! ### modPort -/

@[simp] theorem modPort_pending (p : Nat) (f : Port → Port) : (modPort s p f).pending = s.pending := rfl
@[simp] theorem modPort_time (p : Nat) (f : Port → Port) : (modPort s p f).time = s.time := rfl
@[simp] theorem modPort_timeOn (p : Nat) (f : Port → Port) : (modPort s p f).timeOn = s.timeOn := rfl
@[simp] theorem modPort_free (p : Nat) (f : Port → Port) : (modPort s p f).free = s.free := rfl
@[simp] theorem modPort_out (p : Nat) (f : Port → Port) : (modPort s p f).out = s.out := rfl
@[simp] theorem modPort_host (p : Nat) (f : Port → Port) : (modPort s p f).host = s.host := rfl
@[simp] theorem modPort_hbm (p : Nat) (f : Port → Port) : (modPort s p f).hbm = s.hbm := rfl
@[simp] theorem modPort_staging (p : Nat) (f : Port → Port) : (modPort s p f).staging = s.staging := rfl
@[simp] theorem modPort_hbmPoison (p : Nat) (f : Port → Port) : (modPort s p f).hbmPoison = s.hbmPoison := rfl
@[simp] theorem modPort_openPoison (p : Nat) (f : Port → Port) : (modPort s p f).openPoison = s.openPoison := rfl
@[simp] theorem modPort_stagingPoison (p : Nat) (f : Port → Port) : (modPort s p f).stagingPoison = s.stagingPoison := rfl
@[simp] theorem modPort_poisonOverflow (p : Nat) (f : Port → Port) : (modPort s p f).poisonOverflow = s.poisonOverflow := rfl
@[simp] theorem modPort_owners (p : Nat) (f : Port → Port) : (modPort s p f).owners = s.owners := rfl
@[simp] theorem modPort_parts (p : Nat) (f : Port → Port) : (modPort s p f).parts = s.parts := rfl
@[simp] theorem modPort_contexts (p : Nat) (f : Port → Port) : (modPort s p f).contexts = s.contexts := rfl
@[simp] theorem modPort_flight (p : Nat) (f : Port → Port) : (modPort s p f).flight = s.flight := rfl
@[simp] theorem modPort_extents (p : Nat) (f : Port → Port) : (modPort s p f).extents = s.extents := rfl
@[simp] theorem modPort_frames (p : Nat) (f : Port → Port) : (modPort s p f).frames = s.frames := rfl
@[simp] theorem modPort_words (p : Nat) (f : Port → Port) : (modPort s p f).words = s.words := rfl
@[simp] theorem modPort_units (p : Nat) (f : Port → Port) : (modPort s p f).units = s.units := rfl
@[simp] theorem modPort_sweepWindow (p : Nat) (f : Port → Port) : (modPort s p f).sweepWindow = s.sweepWindow := rfl
@[simp] theorem modPort_sweepUsed (p : Nat) (f : Port → Port) : (modPort s p f).sweepUsed = s.sweepUsed := rfl
@[simp] theorem modPort_exactWindow (p : Nat) (f : Port → Port) : (modPort s p f).exactWindow = s.exactWindow := rfl
@[simp] theorem modPort_exactUsed (p : Nat) (f : Port → Port) : (modPort s p f).exactUsed = s.exactUsed := rfl
@[simp] theorem modPort_cores (p : Nat) (f : Port → Port) : (modPort s p f).cores = s.cores := rfl
@[simp] theorem modPort_coreMap (p : Nat) (f : Port → Port) : (modPort s p f).coreMap = s.coreMap := rfl
@[simp] theorem modPort_turns (p : Nat) (f : Port → Port) : (modPort s p f).turns = s.turns := rfl
@[simp] theorem modPort_snare (p : Nat) (f : Port → Port) : (modPort s p f).snare = s.snare := rfl
@[simp] theorem modPort_fabric (p : Nat) (f : Port → Port) : (modPort s p f).fabric = s.fabric := rfl
@[simp] theorem modPort_net (p : Nat) (f : Port → Port) : (modPort s p f).net = s.net := rfl
@[simp] theorem modPort_ports (p : Nat) (f : Port → Port) : (modPort s p f).ports = { s.ports with ports := s.ports.ports.modify p f } := rfl
@[simp] theorem modPort_cxl (p : Nat) (f : Port → Port) : (modPort s p f).cxl = s.cxl := rfl
@[simp] theorem modPort_flash (p : Nat) (f : Port → Port) : (modPort s p f).flash = s.flash := rfl
@[simp] theorem modPort_fw (p : Nat) (f : Port → Port) : (modPort s p f).fw = s.fw := rfl
@[simp] theorem modPort_belfry (p : Nat) (f : Port → Port) : (modPort s p f).belfry = s.belfry := rfl
@[simp] theorem modPort_power (p : Nat) (f : Port → Port) : (modPort s p f).power = s.power := rfl
@[simp] theorem modPort_faults (p : Nat) (f : Port → Port) : (modPort s p f).faults = s.faults := rfl
@[simp] theorem modPort_boot (p : Nat) (f : Port → Port) : (modPort s p f).boot = s.boot := rfl
@[simp] theorem modPort_serial (p : Nat) (f : Port → Port) : (modPort s p f).serial = s.serial := rfl

/-! ### modLd -/

@[simp] theorem modLd_pending (p : Nat) (f : LdS → LdS) : (modLd s p f).pending = s.pending := rfl
@[simp] theorem modLd_time (p : Nat) (f : LdS → LdS) : (modLd s p f).time = s.time := rfl
@[simp] theorem modLd_timeOn (p : Nat) (f : LdS → LdS) : (modLd s p f).timeOn = s.timeOn := rfl
@[simp] theorem modLd_free (p : Nat) (f : LdS → LdS) : (modLd s p f).free = s.free := rfl
@[simp] theorem modLd_out (p : Nat) (f : LdS → LdS) : (modLd s p f).out = s.out := rfl
@[simp] theorem modLd_host (p : Nat) (f : LdS → LdS) : (modLd s p f).host = s.host := rfl
@[simp] theorem modLd_hbm (p : Nat) (f : LdS → LdS) : (modLd s p f).hbm = s.hbm := rfl
@[simp] theorem modLd_staging (p : Nat) (f : LdS → LdS) : (modLd s p f).staging = s.staging := rfl
@[simp] theorem modLd_hbmPoison (p : Nat) (f : LdS → LdS) : (modLd s p f).hbmPoison = s.hbmPoison := rfl
@[simp] theorem modLd_openPoison (p : Nat) (f : LdS → LdS) : (modLd s p f).openPoison = s.openPoison := rfl
@[simp] theorem modLd_stagingPoison (p : Nat) (f : LdS → LdS) : (modLd s p f).stagingPoison = s.stagingPoison := rfl
@[simp] theorem modLd_poisonOverflow (p : Nat) (f : LdS → LdS) : (modLd s p f).poisonOverflow = s.poisonOverflow := rfl
@[simp] theorem modLd_owners (p : Nat) (f : LdS → LdS) : (modLd s p f).owners = s.owners := rfl
@[simp] theorem modLd_parts (p : Nat) (f : LdS → LdS) : (modLd s p f).parts = s.parts := rfl
@[simp] theorem modLd_contexts (p : Nat) (f : LdS → LdS) : (modLd s p f).contexts = s.contexts := rfl
@[simp] theorem modLd_flight (p : Nat) (f : LdS → LdS) : (modLd s p f).flight = s.flight := rfl
@[simp] theorem modLd_extents (p : Nat) (f : LdS → LdS) : (modLd s p f).extents = s.extents := rfl
@[simp] theorem modLd_frames (p : Nat) (f : LdS → LdS) : (modLd s p f).frames = s.frames := rfl
@[simp] theorem modLd_words (p : Nat) (f : LdS → LdS) : (modLd s p f).words = s.words := rfl
@[simp] theorem modLd_units (p : Nat) (f : LdS → LdS) : (modLd s p f).units = s.units := rfl
@[simp] theorem modLd_sweepWindow (p : Nat) (f : LdS → LdS) : (modLd s p f).sweepWindow = s.sweepWindow := rfl
@[simp] theorem modLd_sweepUsed (p : Nat) (f : LdS → LdS) : (modLd s p f).sweepUsed = s.sweepUsed := rfl
@[simp] theorem modLd_exactWindow (p : Nat) (f : LdS → LdS) : (modLd s p f).exactWindow = s.exactWindow := rfl
@[simp] theorem modLd_exactUsed (p : Nat) (f : LdS → LdS) : (modLd s p f).exactUsed = s.exactUsed := rfl
@[simp] theorem modLd_cores (p : Nat) (f : LdS → LdS) : (modLd s p f).cores = s.cores := rfl
@[simp] theorem modLd_coreMap (p : Nat) (f : LdS → LdS) : (modLd s p f).coreMap = s.coreMap := rfl
@[simp] theorem modLd_turns (p : Nat) (f : LdS → LdS) : (modLd s p f).turns = s.turns := rfl
@[simp] theorem modLd_snare (p : Nat) (f : LdS → LdS) : (modLd s p f).snare = s.snare := rfl
@[simp] theorem modLd_fabric (p : Nat) (f : LdS → LdS) : (modLd s p f).fabric = s.fabric := rfl
@[simp] theorem modLd_net (p : Nat) (f : LdS → LdS) : (modLd s p f).net = s.net := rfl
@[simp] theorem modLd_ports (p : Nat) (f : LdS → LdS) : (modLd s p f).ports = s.ports := rfl
@[simp] theorem modLd_cxl (p : Nat) (f : LdS → LdS) : (modLd s p f).cxl = { s.cxl with lds := s.cxl.lds.modify p f } := rfl
@[simp] theorem modLd_flash (p : Nat) (f : LdS → LdS) : (modLd s p f).flash = s.flash := rfl
@[simp] theorem modLd_fw (p : Nat) (f : LdS → LdS) : (modLd s p f).fw = s.fw := rfl
@[simp] theorem modLd_belfry (p : Nat) (f : LdS → LdS) : (modLd s p f).belfry = s.belfry := rfl
@[simp] theorem modLd_power (p : Nat) (f : LdS → LdS) : (modLd s p f).power = s.power := rfl
@[simp] theorem modLd_faults (p : Nat) (f : LdS → LdS) : (modLd s p f).faults = s.faults := rfl
@[simp] theorem modLd_boot (p : Nat) (f : LdS → LdS) : (modLd s p f).boot = s.boot := rfl
@[simp] theorem modLd_serial (p : Nat) (f : LdS → LdS) : (modLd s p f).serial = s.serial := rfl

/-! ### modFlash -/

@[simp] theorem modFlash_pending (p : Nat) (f : PartFlash → PartFlash) : (modFlash s p f).pending = s.pending := rfl
@[simp] theorem modFlash_time (p : Nat) (f : PartFlash → PartFlash) : (modFlash s p f).time = s.time := rfl
@[simp] theorem modFlash_timeOn (p : Nat) (f : PartFlash → PartFlash) : (modFlash s p f).timeOn = s.timeOn := rfl
@[simp] theorem modFlash_free (p : Nat) (f : PartFlash → PartFlash) : (modFlash s p f).free = s.free := rfl
@[simp] theorem modFlash_out (p : Nat) (f : PartFlash → PartFlash) : (modFlash s p f).out = s.out := rfl
@[simp] theorem modFlash_host (p : Nat) (f : PartFlash → PartFlash) : (modFlash s p f).host = s.host := rfl
@[simp] theorem modFlash_hbm (p : Nat) (f : PartFlash → PartFlash) : (modFlash s p f).hbm = s.hbm := rfl
@[simp] theorem modFlash_staging (p : Nat) (f : PartFlash → PartFlash) : (modFlash s p f).staging = s.staging := rfl
@[simp] theorem modFlash_hbmPoison (p : Nat) (f : PartFlash → PartFlash) : (modFlash s p f).hbmPoison = s.hbmPoison := rfl
@[simp] theorem modFlash_openPoison (p : Nat) (f : PartFlash → PartFlash) : (modFlash s p f).openPoison = s.openPoison := rfl
@[simp] theorem modFlash_stagingPoison (p : Nat) (f : PartFlash → PartFlash) : (modFlash s p f).stagingPoison = s.stagingPoison := rfl
@[simp] theorem modFlash_poisonOverflow (p : Nat) (f : PartFlash → PartFlash) : (modFlash s p f).poisonOverflow = s.poisonOverflow := rfl
@[simp] theorem modFlash_owners (p : Nat) (f : PartFlash → PartFlash) : (modFlash s p f).owners = s.owners := rfl
@[simp] theorem modFlash_parts (p : Nat) (f : PartFlash → PartFlash) : (modFlash s p f).parts = s.parts := rfl
@[simp] theorem modFlash_contexts (p : Nat) (f : PartFlash → PartFlash) : (modFlash s p f).contexts = s.contexts := rfl
@[simp] theorem modFlash_flight (p : Nat) (f : PartFlash → PartFlash) : (modFlash s p f).flight = s.flight := rfl
@[simp] theorem modFlash_extents (p : Nat) (f : PartFlash → PartFlash) : (modFlash s p f).extents = s.extents := rfl
@[simp] theorem modFlash_frames (p : Nat) (f : PartFlash → PartFlash) : (modFlash s p f).frames = s.frames := rfl
@[simp] theorem modFlash_words (p : Nat) (f : PartFlash → PartFlash) : (modFlash s p f).words = s.words := rfl
@[simp] theorem modFlash_units (p : Nat) (f : PartFlash → PartFlash) : (modFlash s p f).units = s.units := rfl
@[simp] theorem modFlash_sweepWindow (p : Nat) (f : PartFlash → PartFlash) : (modFlash s p f).sweepWindow = s.sweepWindow := rfl
@[simp] theorem modFlash_sweepUsed (p : Nat) (f : PartFlash → PartFlash) : (modFlash s p f).sweepUsed = s.sweepUsed := rfl
@[simp] theorem modFlash_exactWindow (p : Nat) (f : PartFlash → PartFlash) : (modFlash s p f).exactWindow = s.exactWindow := rfl
@[simp] theorem modFlash_exactUsed (p : Nat) (f : PartFlash → PartFlash) : (modFlash s p f).exactUsed = s.exactUsed := rfl
@[simp] theorem modFlash_cores (p : Nat) (f : PartFlash → PartFlash) : (modFlash s p f).cores = s.cores := rfl
@[simp] theorem modFlash_coreMap (p : Nat) (f : PartFlash → PartFlash) : (modFlash s p f).coreMap = s.coreMap := rfl
@[simp] theorem modFlash_turns (p : Nat) (f : PartFlash → PartFlash) : (modFlash s p f).turns = s.turns := rfl
@[simp] theorem modFlash_snare (p : Nat) (f : PartFlash → PartFlash) : (modFlash s p f).snare = s.snare := rfl
@[simp] theorem modFlash_fabric (p : Nat) (f : PartFlash → PartFlash) : (modFlash s p f).fabric = s.fabric := rfl
@[simp] theorem modFlash_net (p : Nat) (f : PartFlash → PartFlash) : (modFlash s p f).net = s.net := rfl
@[simp] theorem modFlash_ports (p : Nat) (f : PartFlash → PartFlash) : (modFlash s p f).ports = s.ports := rfl
@[simp] theorem modFlash_cxl (p : Nat) (f : PartFlash → PartFlash) : (modFlash s p f).cxl = s.cxl := rfl
@[simp] theorem modFlash_flash (p : Nat) (f : PartFlash → PartFlash) : (modFlash s p f).flash = { s.flash with parts := s.flash.parts.modify p f } := rfl
@[simp] theorem modFlash_fw (p : Nat) (f : PartFlash → PartFlash) : (modFlash s p f).fw = s.fw := rfl
@[simp] theorem modFlash_belfry (p : Nat) (f : PartFlash → PartFlash) : (modFlash s p f).belfry = s.belfry := rfl
@[simp] theorem modFlash_power (p : Nat) (f : PartFlash → PartFlash) : (modFlash s p f).power = s.power := rfl
@[simp] theorem modFlash_faults (p : Nat) (f : PartFlash → PartFlash) : (modFlash s p f).faults = s.faults := rfl
@[simp] theorem modFlash_boot (p : Nat) (f : PartFlash → PartFlash) : (modFlash s p f).boot = s.boot := rfl
@[simp] theorem modFlash_serial (p : Nat) (f : PartFlash → PartFlash) : (modFlash s p f).serial = s.serial := rfl

/-! ### modBlock -/

@[simp] theorem modBlock_pending (b : Nat) (f : SnareBlock → SnareBlock) : (modBlock s b f).pending = s.pending := rfl
@[simp] theorem modBlock_time (b : Nat) (f : SnareBlock → SnareBlock) : (modBlock s b f).time = s.time := rfl
@[simp] theorem modBlock_timeOn (b : Nat) (f : SnareBlock → SnareBlock) : (modBlock s b f).timeOn = s.timeOn := rfl
@[simp] theorem modBlock_free (b : Nat) (f : SnareBlock → SnareBlock) : (modBlock s b f).free = s.free := rfl
@[simp] theorem modBlock_out (b : Nat) (f : SnareBlock → SnareBlock) : (modBlock s b f).out = s.out := rfl
@[simp] theorem modBlock_host (b : Nat) (f : SnareBlock → SnareBlock) : (modBlock s b f).host = s.host := rfl
@[simp] theorem modBlock_hbm (b : Nat) (f : SnareBlock → SnareBlock) : (modBlock s b f).hbm = s.hbm := rfl
@[simp] theorem modBlock_staging (b : Nat) (f : SnareBlock → SnareBlock) : (modBlock s b f).staging = s.staging := rfl
@[simp] theorem modBlock_hbmPoison (b : Nat) (f : SnareBlock → SnareBlock) : (modBlock s b f).hbmPoison = s.hbmPoison := rfl
@[simp] theorem modBlock_openPoison (b : Nat) (f : SnareBlock → SnareBlock) : (modBlock s b f).openPoison = s.openPoison := rfl
@[simp] theorem modBlock_stagingPoison (b : Nat) (f : SnareBlock → SnareBlock) : (modBlock s b f).stagingPoison = s.stagingPoison := rfl
@[simp] theorem modBlock_poisonOverflow (b : Nat) (f : SnareBlock → SnareBlock) : (modBlock s b f).poisonOverflow = s.poisonOverflow := rfl
@[simp] theorem modBlock_owners (b : Nat) (f : SnareBlock → SnareBlock) : (modBlock s b f).owners = s.owners := rfl
@[simp] theorem modBlock_parts (b : Nat) (f : SnareBlock → SnareBlock) : (modBlock s b f).parts = s.parts := rfl
@[simp] theorem modBlock_contexts (b : Nat) (f : SnareBlock → SnareBlock) : (modBlock s b f).contexts = s.contexts := rfl
@[simp] theorem modBlock_flight (b : Nat) (f : SnareBlock → SnareBlock) : (modBlock s b f).flight = s.flight := rfl
@[simp] theorem modBlock_extents (b : Nat) (f : SnareBlock → SnareBlock) : (modBlock s b f).extents = s.extents := rfl
@[simp] theorem modBlock_frames (b : Nat) (f : SnareBlock → SnareBlock) : (modBlock s b f).frames = s.frames := rfl
@[simp] theorem modBlock_words (b : Nat) (f : SnareBlock → SnareBlock) : (modBlock s b f).words = s.words := rfl
@[simp] theorem modBlock_units (b : Nat) (f : SnareBlock → SnareBlock) : (modBlock s b f).units = s.units := rfl
@[simp] theorem modBlock_sweepWindow (b : Nat) (f : SnareBlock → SnareBlock) : (modBlock s b f).sweepWindow = s.sweepWindow := rfl
@[simp] theorem modBlock_sweepUsed (b : Nat) (f : SnareBlock → SnareBlock) : (modBlock s b f).sweepUsed = s.sweepUsed := rfl
@[simp] theorem modBlock_exactWindow (b : Nat) (f : SnareBlock → SnareBlock) : (modBlock s b f).exactWindow = s.exactWindow := rfl
@[simp] theorem modBlock_exactUsed (b : Nat) (f : SnareBlock → SnareBlock) : (modBlock s b f).exactUsed = s.exactUsed := rfl
@[simp] theorem modBlock_cores (b : Nat) (f : SnareBlock → SnareBlock) : (modBlock s b f).cores = s.cores := rfl
@[simp] theorem modBlock_coreMap (b : Nat) (f : SnareBlock → SnareBlock) : (modBlock s b f).coreMap = s.coreMap := rfl
@[simp] theorem modBlock_turns (b : Nat) (f : SnareBlock → SnareBlock) : (modBlock s b f).turns = s.turns := rfl
@[simp] theorem modBlock_snare (b : Nat) (f : SnareBlock → SnareBlock) : (modBlock s b f).snare = { s.snare with blocks := assign s.snare.blocks b (f (getBlock s b)) } := rfl
@[simp] theorem modBlock_fabric (b : Nat) (f : SnareBlock → SnareBlock) : (modBlock s b f).fabric = s.fabric := rfl
@[simp] theorem modBlock_net (b : Nat) (f : SnareBlock → SnareBlock) : (modBlock s b f).net = s.net := rfl
@[simp] theorem modBlock_ports (b : Nat) (f : SnareBlock → SnareBlock) : (modBlock s b f).ports = s.ports := rfl
@[simp] theorem modBlock_cxl (b : Nat) (f : SnareBlock → SnareBlock) : (modBlock s b f).cxl = s.cxl := rfl
@[simp] theorem modBlock_flash (b : Nat) (f : SnareBlock → SnareBlock) : (modBlock s b f).flash = s.flash := rfl
@[simp] theorem modBlock_fw (b : Nat) (f : SnareBlock → SnareBlock) : (modBlock s b f).fw = s.fw := rfl
@[simp] theorem modBlock_belfry (b : Nat) (f : SnareBlock → SnareBlock) : (modBlock s b f).belfry = s.belfry := rfl
@[simp] theorem modBlock_power (b : Nat) (f : SnareBlock → SnareBlock) : (modBlock s b f).power = s.power := rfl
@[simp] theorem modBlock_faults (b : Nat) (f : SnareBlock → SnareBlock) : (modBlock s b f).faults = s.faults := rfl
@[simp] theorem modBlock_boot (b : Nat) (f : SnareBlock → SnareBlock) : (modBlock s b f).boot = s.boot := rfl
@[simp] theorem modBlock_serial (b : Nat) (f : SnareBlock → SnareBlock) : (modBlock s b f).serial = s.serial := rfl

/-! ### modStaging -/

@[simp] theorem modStaging_pending (k : Nat) (f : Staging → Staging) : (modStaging s k f).pending = s.pending := rfl
@[simp] theorem modStaging_time (k : Nat) (f : Staging → Staging) : (modStaging s k f).time = s.time := rfl
@[simp] theorem modStaging_timeOn (k : Nat) (f : Staging → Staging) : (modStaging s k f).timeOn = s.timeOn := rfl
@[simp] theorem modStaging_free (k : Nat) (f : Staging → Staging) : (modStaging s k f).free = s.free := rfl
@[simp] theorem modStaging_out (k : Nat) (f : Staging → Staging) : (modStaging s k f).out = s.out := rfl
@[simp] theorem modStaging_host (k : Nat) (f : Staging → Staging) : (modStaging s k f).host = s.host := rfl
@[simp] theorem modStaging_hbm (k : Nat) (f : Staging → Staging) : (modStaging s k f).hbm = s.hbm := rfl
@[simp] theorem modStaging_staging (k : Nat) (f : Staging → Staging) : (modStaging s k f).staging = s.staging := rfl
@[simp] theorem modStaging_hbmPoison (k : Nat) (f : Staging → Staging) : (modStaging s k f).hbmPoison = s.hbmPoison := rfl
@[simp] theorem modStaging_openPoison (k : Nat) (f : Staging → Staging) : (modStaging s k f).openPoison = s.openPoison := rfl
@[simp] theorem modStaging_stagingPoison (k : Nat) (f : Staging → Staging) : (modStaging s k f).stagingPoison = s.stagingPoison := rfl
@[simp] theorem modStaging_poisonOverflow (k : Nat) (f : Staging → Staging) : (modStaging s k f).poisonOverflow = s.poisonOverflow := rfl
@[simp] theorem modStaging_owners (k : Nat) (f : Staging → Staging) : (modStaging s k f).owners = s.owners := rfl
@[simp] theorem modStaging_parts (k : Nat) (f : Staging → Staging) : (modStaging s k f).parts = s.parts := rfl
@[simp] theorem modStaging_contexts (k : Nat) (f : Staging → Staging) : (modStaging s k f).contexts = s.contexts := rfl
@[simp] theorem modStaging_flight (k : Nat) (f : Staging → Staging) : (modStaging s k f).flight = s.flight := rfl
@[simp] theorem modStaging_extents (k : Nat) (f : Staging → Staging) : (modStaging s k f).extents = s.extents := rfl
@[simp] theorem modStaging_frames (k : Nat) (f : Staging → Staging) : (modStaging s k f).frames = s.frames := rfl
@[simp] theorem modStaging_words (k : Nat) (f : Staging → Staging) : (modStaging s k f).words = s.words := rfl
@[simp] theorem modStaging_units (k : Nat) (f : Staging → Staging) : (modStaging s k f).units = s.units := rfl
@[simp] theorem modStaging_sweepWindow (k : Nat) (f : Staging → Staging) : (modStaging s k f).sweepWindow = s.sweepWindow := rfl
@[simp] theorem modStaging_sweepUsed (k : Nat) (f : Staging → Staging) : (modStaging s k f).sweepUsed = s.sweepUsed := rfl
@[simp] theorem modStaging_exactWindow (k : Nat) (f : Staging → Staging) : (modStaging s k f).exactWindow = s.exactWindow := rfl
@[simp] theorem modStaging_exactUsed (k : Nat) (f : Staging → Staging) : (modStaging s k f).exactUsed = s.exactUsed := rfl
@[simp] theorem modStaging_cores (k : Nat) (f : Staging → Staging) : (modStaging s k f).cores = s.cores := rfl
@[simp] theorem modStaging_coreMap (k : Nat) (f : Staging → Staging) : (modStaging s k f).coreMap = s.coreMap := rfl
@[simp] theorem modStaging_turns (k : Nat) (f : Staging → Staging) : (modStaging s k f).turns = s.turns := rfl
@[simp] theorem modStaging_snare (k : Nat) (f : Staging → Staging) : (modStaging s k f).snare = s.snare := rfl
@[simp] theorem modStaging_fabric (k : Nat) (f : Staging → Staging) : (modStaging s k f).fabric = s.fabric := rfl
@[simp] theorem modStaging_net (k : Nat) (f : Staging → Staging) : (modStaging s k f).net = s.net := rfl
@[simp] theorem modStaging_ports (k : Nat) (f : Staging → Staging) : (modStaging s k f).ports = s.ports := rfl
@[simp] theorem modStaging_cxl (k : Nat) (f : Staging → Staging) : (modStaging s k f).cxl = s.cxl := rfl
@[simp] theorem modStaging_flash (k : Nat) (f : Staging → Staging) : (modStaging s k f).flash = s.flash := rfl
@[simp] theorem modStaging_fw (k : Nat) (f : Staging → Staging) : (modStaging s k f).fw = { s.fw with staging := s.fw.staging.modify (k - 1) f } := rfl
@[simp] theorem modStaging_belfry (k : Nat) (f : Staging → Staging) : (modStaging s k f).belfry = s.belfry := rfl
@[simp] theorem modStaging_power (k : Nat) (f : Staging → Staging) : (modStaging s k f).power = s.power := rfl
@[simp] theorem modStaging_faults (k : Nat) (f : Staging → Staging) : (modStaging s k f).faults = s.faults := rfl
@[simp] theorem modStaging_boot (k : Nat) (f : Staging → Staging) : (modStaging s k f).boot = s.boot := rfl
@[simp] theorem modStaging_serial (k : Nat) (f : Staging → Staging) : (modStaging s k f).serial = s.serial := rfl

/-! ### draw -/

@[simp] theorem draw_pending : (draw s).2.pending = s.pending := rfl
@[simp] theorem draw_time : (draw s).2.time = s.time := rfl
@[simp] theorem draw_timeOn : (draw s).2.timeOn = s.timeOn := rfl
@[simp] theorem draw_free : (draw s).2.free = s.free + 1 := rfl
@[simp] theorem draw_out : (draw s).2.out = s.out := rfl
@[simp] theorem draw_host : (draw s).2.host = s.host := rfl
@[simp] theorem draw_hbm : (draw s).2.hbm = s.hbm := rfl
@[simp] theorem draw_staging : (draw s).2.staging = s.staging := rfl
@[simp] theorem draw_hbmPoison : (draw s).2.hbmPoison = s.hbmPoison := rfl
@[simp] theorem draw_openPoison : (draw s).2.openPoison = s.openPoison := rfl
@[simp] theorem draw_stagingPoison : (draw s).2.stagingPoison = s.stagingPoison := rfl
@[simp] theorem draw_poisonOverflow : (draw s).2.poisonOverflow = s.poisonOverflow := rfl
@[simp] theorem draw_owners : (draw s).2.owners = s.owners := rfl
@[simp] theorem draw_parts : (draw s).2.parts = s.parts := rfl
@[simp] theorem draw_contexts : (draw s).2.contexts = s.contexts := rfl
@[simp] theorem draw_flight : (draw s).2.flight = s.flight := rfl
@[simp] theorem draw_extents : (draw s).2.extents = s.extents := rfl
@[simp] theorem draw_frames : (draw s).2.frames = s.frames := rfl
@[simp] theorem draw_words : (draw s).2.words = s.words := rfl
@[simp] theorem draw_units : (draw s).2.units = s.units := rfl
@[simp] theorem draw_sweepWindow : (draw s).2.sweepWindow = s.sweepWindow := rfl
@[simp] theorem draw_sweepUsed : (draw s).2.sweepUsed = s.sweepUsed := rfl
@[simp] theorem draw_exactWindow : (draw s).2.exactWindow = s.exactWindow := rfl
@[simp] theorem draw_exactUsed : (draw s).2.exactUsed = s.exactUsed := rfl
@[simp] theorem draw_cores : (draw s).2.cores = s.cores := rfl
@[simp] theorem draw_coreMap : (draw s).2.coreMap = s.coreMap := rfl
@[simp] theorem draw_turns : (draw s).2.turns = s.turns := rfl
@[simp] theorem draw_snare : (draw s).2.snare = s.snare := rfl
@[simp] theorem draw_fabric : (draw s).2.fabric = s.fabric := rfl
@[simp] theorem draw_net : (draw s).2.net = s.net := rfl
@[simp] theorem draw_ports : (draw s).2.ports = s.ports := rfl
@[simp] theorem draw_cxl : (draw s).2.cxl = s.cxl := rfl
@[simp] theorem draw_flash : (draw s).2.flash = s.flash := rfl
@[simp] theorem draw_fw : (draw s).2.fw = s.fw := rfl
@[simp] theorem draw_belfry : (draw s).2.belfry = s.belfry := rfl
@[simp] theorem draw_power : (draw s).2.power = s.power := rfl
@[simp] theorem draw_faults : (draw s).2.faults = s.faults := rfl
@[simp] theorem draw_boot : (draw s).2.boot = s.boot := rfl
@[simp] theorem draw_serial : (draw s).2.serial = s.serial := rfl

end Sys2Proof.Laws
end

