-- ==== Sys2Proof/WellFormed.lean ====
section
/-!
DEFINITION. When a command is well formed: its operands lie in the ranges that the spec gives to what they name. A queue context number has fourteen bits (R69), the node time
64 (R24), a bank pair is one of 10,240 (R15), a physical core one of 68 (R168), a port one of eight with four links (R17, R569), a Snare block one of 256 (R228), a queue pair number
has 24 bits (R288), a SEQ_ID 32 (R82), a domain is one of 159 (R487). No meaning asks for it: a command that names nothing present leaves the state as it is.
-/
namespace Sys2Proof

/-- Whether every operand of a command lies in its range. -/
def Instr.wf (c : Instr) : Bool :=
  match c with
  | .doorbellFetch _ _ _ _ t => decide (t < 2 ^ 64)
  | .programInvoke q _ => decide (q < 16384)
  | .programStep q _ => decide (q < 16384)
  | .descriptorCommit q _ t => decide (q < 16384) && decide (t < 2 ^ 64)
  | .copy q _ _ => decide (q < 16384)
  | .fence q _ => decide (q < 16384)
  | .abort q _ t => decide (q < 16384) && decide (t < 2 ^ 64)
  | .loadProgram q _ _ => decide (q < 16384)
  | .unloadProgram q _ => decide (q < 16384)
  | .setMode q _ => decide (q < 16384)
  | .modeCapsApplied q _ t => decide (q < 16384) && decide (t < 2 ^ 64)
  | .peakEnter q _ t => decide (q < 16384) && decide (t < 2 ^ 64)
  | .peakEnd q _ t => decide (q < 16384) && decide (t < 2 ^ 64)
  | .peakExpire t => decide (t < 2 ^ 64)
  | .powerState q _ => decide (q < 16384)
  | .create q _ => decide (q < 16384)
  | .append q _ => decide (q < 16384)
  | .truncate q _ => decide (q < 16384)
  | .fork q _ => decide (q < 16384)
  | .placeFree q _ => decide (q < 16384)
  | .freeze q _ => decide (q < 16384)
  | .thaw q _ => decide (q < 16384)
  | .restore q _ => decide (q < 16384)
  | .query q _ => decide (q < 16384)
  | .addExtent q _ => decide (q < 16384)
  | .removeExtent q _ => decide (q < 16384)
  | .sequenceLockGrant q _ => decide (q < 16384)
  | .pinRelease q _ _ => decide (q < 16384)
  | .attend q _ => decide (q < 16384)
  | .walkStart q _ t => decide (q < 16384) && decide (t < 2 ^ 64)
  | .chunkStart u t => decide (u < 10240) && decide (t < 2 ^ 64)
  | .chunkEnd u _ _ t => decide (u < 10240) && decide (t < 2 ^ 64)
  | .refreshDue u => decide (u < 10240)
  | .hubFold q _ hub => decide (q < 16384) && decide (hub < 4)
  | .progressRecord q _ t => decide (q < 16384) && decide (t < 2 ^ 64)
  | .reseal q _ => decide (q < 16384)
  | .resealStart q _ => decide (q < 16384)
  | .resealDone q _ _ => decide (q < 16384)
  | .bankPairFence u t => decide (u < 10240) && decide (t < 2 ^ 64)
  | .merge q _ _ => decide (q < 16384)
  | .foldExact q _ _ => decide (q < 16384)
  | .batch q _ _ => decide (q < 16384)
  | .exactPageRead q _ _ _ _ t => decide (q < 16384) && decide (t < 2 ^ 64)
  | .corePage q _ _ _ => decide (q < 16384)
  | .pieceMove core => decide (core < 68)
  | .coreFence core t => decide (core < 68) && decide (t < 2 ^ 64)
  | .spareAssign core => decide (core < 68)
  | .quantise q _ _ => decide (q < 16384)
  | .measure q _ _ => decide (q < 16384)
  | .encode q _ _ => decide (q < 16384)
  | .decode q _ _ => decide (q < 16384)
  | .ingestCheck q _ _ => decide (q < 16384)
  | .histogram q _ _ => decide (q < 16384)
  | .ingestUnit lane => decide (lane < 16)
  | .loadScaleTable q _ _ => decide (q < 16384)
  | .loadDecodeTable q _ _ => decide (q < 16384)
  | .loadPatterns q _ _ => decide (q < 16384)
  | .lookup q _ _ => decide (q < 16384)
  | .insert q _ _ => decide (q < 16384)
  | .remove q _ _ => decide (q < 16384)
  | .fingerprint q _ _ => decide (q < 16384)
  | .matchStep q _ _ => decide (q < 16384)
  | .matchState q _ => decide (q < 16384)
  | .snareSlot => true
  | .insertShift block => decide (block < 256)
  | .snareBalance _ low => decide (low < 256)
  | .parityScan _ _ => true
  | .snareThrottle _ t => decide (t < 2 ^ 64)
  | .attendReq _ t => decide (t < 2 ^ 64)
  | .memberReq _ t => decide (t < 2 ^ 64)
  | .memberReply _ t => decide (t < 2 ^ 64)
  | .attendReply _ t => decide (t < 2 ^ 64)
  | .fabricDeadline _ id t => decide (id < 2 ^ 32) && decide (t < 2 ^ 64)
  | .fabricReplyTimeout q _ t => decide (q < 16384) && decide (t < 2 ^ 64)
  | .spreadSet _ => true
  | .handoffReq _ t => decide (t < 2 ^ 64)
  | .offer _ t => decide (t < 2 ^ 64)
  | .ready _ t => decide (t < 2 ^ 64)
  | .refuse _ t => decide (t < 2 ^ 64)
  | .pages _ t => decide (t < 2 ^ 64)
  | .accept _ t => decide (t < 2 ^ 64)
  | .commit _ t => decide (t < 2 ^ 64)
  | .commitAck _ t => decide (t < 2 ^ 64)
  | .commitNak _ t => decide (t < 2 ^ 64)
  | .abandon _ t => decide (t < 2 ^ 64)
  | .leaseTimerExpire _ seq t => decide (seq < 2 ^ 32) && decide (t < 2 ^ 64)
  | .holdTimerExpire _ seq t => decide (seq < 2 ^ 32) && decide (t < 2 ^ 64)
  | .pendingIdleExpire _ seq t => decide (seq < 2 ^ 32) && decide (t < 2 ^ 64)
  | .escrowCommitResend _ seq t => decide (seq < 2 ^ 32) && decide (t < 2 ^ 64)
  | .lossNotice _ _ t => decide (t < 2 ^ 64)
  | .message q _ _ => decide (q < 16384)
  | .write q _ _ => decide (q < 16384)
  | .read q _ => decide (q < 16384)
  | .fabric q _ _ => decide (q < 16384)
  | .qpSetup q _ => decide (q < 16384)
  | .qpModifyError q _ => decide (q < 16384)
  | .qpModifyDrain q _ => decide (q < 16384)
  | .qpModifyReset q _ => decide (q < 16384)
  | .qpModifyRekey q _ t => decide (q < 16384) && decide (t < 2 ^ 64)
  | .qpModifyLanes q _ => decide (q < 16384)
  | .qpDestroy q _ => decide (q < 16384)
  | .qpQuery q _ => decide (q < 16384)
  | .post q _ => decide (q < 16384)
  | .messageStart qpn t => decide (qpn < 2 ^ 24) && decide (t < 2 ^ 64)
  | .sequencedPacketReceive _ t => decide (t < 2 ^ 64)
  | .ackReceive _ t => decide (t < 2 ^ 64)
  | .nakReceive _ t => decide (t < 2 ^ 64)
  | .laneSyncReceive _ => true
  | .laneSyncReplyReceive _ t => decide (t < 2 ^ 64)
  | .cancelReceive _ t => decide (t < 2 ^ 64)
  | .ackTimer qpn lane space t => decide (qpn < 2 ^ 24) && decide (lane < 8) && decide (space < 2) && decide (t < 2 ^ 64)
  | .retryTimerExpire qpn lane space t => decide (qpn < 2 ^ 24) && decide (lane < 8) && decide (space < 2) && decide (t < 2 ^ 64)
  | .laneSyncRetry qpn lane t => decide (qpn < 2 ^ 24) && decide (lane < 8) && decide (t < 2 ^ 64)
  | .rnrWaitExpire qpn lane space t => decide (qpn < 2 ^ 24) && decide (lane < 8) && decide (space < 2) && decide (t < 2 ^ 64)
  | .contextFetchDone qpn _ t => decide (qpn < 2 ^ 24) && decide (t < 2 ^ 64)
  | .oldKeyDrop qpn t => decide (qpn < 2 ^ 24) && decide (t < 2 ^ 64)
  | .rocePacketReceive _ t => decide (t < 2 ^ 64)
  | .packetForward port _ => decide (port < 8)
  | .frameTransmit port link cls t => decide (port < 8) && decide (link < 4) && decide (cls < 8) && decide (t < 2 ^ 64)
  | .frameDiscard port link _ => decide (port < 8) && decide (link < 4)
  | .pauseReceive port link cls _ t => decide (port < 8) && decide (link < 4) && decide (cls < 8) && decide (t < 2 ^ 64)
  | .pauseRefresh port link cls => decide (port < 8) && decide (link < 4) && decide (cls < 8)
  | .remotePauseLimit port link cls t => decide (port < 8) && decide (link < 4) && decide (cls < 8) && decide (t < 2 ^ 64)
  | .ownPauseLimit port link cls t => decide (port < 8) && decide (link < 4) && decide (cls < 8) && decide (t < 2 ^ 64)
  | .phyUp port link t => decide (port < 8) && decide (link < 4) && decide (t < 2 ^ 64)
  | .phyDown port link t => decide (port < 8) && decide (link < 4) && decide (t < 2 ^ 64)
  | .lldpSend port link t => decide (port < 8) && decide (link < 4) && decide (t < 2 ^ 64)
  | .lldpReceive port link _ t => decide (port < 8) && decide (link < 4) && decide (t < 2 ^ 64)
  | .lldpTtlExpire port link t => decide (port < 8) && decide (link < 4) && decide (t < 2 ^ 64)
  | .linkReturn port link t => decide (port < 8) && decide (link < 4) && decide (t < 2 ^ 64)
  | .shaperRefill t => decide (t < 2 ^ 64)
  | .gateEntryAdvance port t => decide (port < 8) && decide (t < 2 ^ 64)
  | .gateTakeover port t => decide (port < 8) && decide (t < 2 ^ 64)
  | .gateArm port countM1 t => decide (port < 8) && decide (countM1 < 64) && decide (t < 2 ^ 64)
  | .gateClear port countM1 => decide (port < 8) && decide (countM1 < 64)
  | .cxlMemRead _ _ => true
  | .cxlMemWrite _ _ data mask _ => decide (data.length = 64) && decide (mask.length = 64)
  | .cxlMemOtherOpcode _ _ _ => true
  | .ldRateRelease _ t => decide (t < 2 ^ 64)
  | .configRequest _ reg _ => decide (reg < 1024)
  | .hdmDecoderCommit _ _ _ _ _ _ _ => true
  | .windowModeWrite _ slot mode t => decide (slot < 2048) && decide (mode < 4) && decide (t < 2 ^ 64)
  | .windowDrainDone _ slot t => decide (slot < 2048) && decide (t < 2 ^ 64)
  | .extentAssign q _ => decide (q < 16384)
  | .extentRevoke q _ t => decide (q < 16384) && decide (t < 2 ^ 64)
  | .revokeDrainDone q _ => decide (q < 16384)
  | .extentClearDone e => decide (e < 1920)
  | .identifyMemoryDevice _ => true
  | .getHealthInfo _ => true
  | .getEventRecords _ _ => true
  | .clearEventRecords _ _ _ => true
  | .getPoisonList _ _ _ => true
  | .injectPoison _ _ => true
  | .clearPoison _ _ _ => true
  | .getSupportedLogs _ => true
  | .getLog _ _ _ _ => true
  | .getTimestamp _ => true
  | .unsupportedCommand _ code => decide (code < 65536)
  | .setQosAllocatedBw _ _ => true
  | .setQosBwLimit _ _ => true
  | .identify _ _ => true
  | .time _ _ t => decide (t < 2 ^ 64)
  | .logRead _ _ => true
  | .certGet _ _ => true
  | .attest _ _ t => decide (t < 2 ^ 64)
  | .sessionOpen _ _ t => decide (t < 2 ^ 64)
  | .keyInstall _ _ => true
  | .keyRemove _ _ => true
  | .regionPublish _ _ => true
  | .regionQuery _ _ => true
  | .fwStage _ _ => true
  | .fwVerify _ _ => true
  | .fwActivate _ _ => true
  | .fwPersist _ _ => true
  | .fwStatus _ _ => true
  | .rollbackAdvance _ _ => true
  | .attachState _ _ => true
  | .mailboxFence _ _ t => decide (t < 2 ^ 64)
  | .fwVerifyDone _ => true
  | .fwActivateStep t => decide (t < 2 ^ 64)
  | .fwPauseTimeout t => decide (t < 2 ^ 64)
  | .fwPersistDone => true
  | .rollbackBurnDone => true
  | .watchdogExpire x t => decide (x < 24) && decide (t < 2 ^ 64)
  | .processorRestartDone x => decide (x < 24)
  | .heartbeatRead _ _ _ t => decide (t < 2 ^ 64)
  | .drainObject q _ _ t => decide (q < 16384) && decide (t < 2 ^ 64)
  | .delete q _ t => decide (q < 16384) && decide (t < 2 ^ 64)
  | .stepSetup q _ => decide (q < 16384)
  | .stepPublish q _ => decide (q < 16384)
  | .stepDrain q _ t => decide (q < 16384) && decide (t < 2 ^ 64)
  | .stepOpen q _ => decide (q < 16384)
  | .stepRelease q _ => decide (q < 16384)
  | .liftObject q _ t => decide (q < 16384) && decide (t < 2 ^ 64)
  | .stat q _ => decide (q < 16384)
  | .stepRestore q _ t => decide (q < 16384) && decide (t < 2 ^ 64)
  | .stepQuery q _ => decide (q < 16384)
  | .nvmeCompletion q _ _ _ t => decide (q < 16384) && decide (t < 2 ^ 64)
  | .stepDrainObjectDone q _ _ _ t => decide (q < 16384) && decide (t < 2 ^ 64)
  | .liftUnitDone q _ _ _ _ t => decide (q < 16384) && decide (t < 2 ^ 64)
  | .tierPathDone q _ _ _ t => decide (q < 16384) && decide (t < 2 ^ 64)
  | .flashDeadline q _ t => decide (q < 16384) && decide (t < 2 ^ 64)
  | .flashShareWindow t => decide (t < 2 ^ 64)
  | .wearBucketRefill d t => decide (d < 8) && decide (t < 2 ^ 64)
  | .driveIdentified d usable blocks => decide (d < 8) && decide (blocks.length = usable.length)
  | .driveFailed d _ => decide (d < 8)
  | .driveTimeout d _ => decide (d < 8)
  | .partitionCreate q _ _ t => decide (q < 16384) && decide (t < 2 ^ 64)
  | .partitionLock q _ => decide (q < 16384)
  | .partitionRemove q _ t => decide (q < 16384) && decide (t < 2 ^ 64)
  | .egressDrainEnd _ t => decide (t < 2 ^ 64)
  | .scrubComplete _ t => decide (t < 2 ^ 64)
  | .encapKeyExpire _ t => decide (t < 2 ^ 64)
  | .damperTick _ t => decide (t < 2 ^ 64)
  | .levelStep t => decide (t < 2 ^ 64)
  | .currentClamp _ t => decide (t < 2 ^ 64)
  | .thermalClampStep _ t => decide (t < 2 ^ 64)
  | .thermalTrip _ => true
  | .hubTempRead hub temps => decide (hub < 4) && decide (temps.length ≤ 5)
  | .domainWakeDone d t => decide (d < 159) && decide (t < 2 ^ 64)
  | .domainIdleReturn d t => decide (d < 159) && decide (t < 2 ^ 64)
  | .transferCheckFail link lane _ _ _ t => decide (link < 28) && decide (lane < 8) && decide (t < 2 ^ 64)
  | .eccError _ _ _ t => decide (t < 2 ^ 64)
  | .laneSpare link module _ => decide (link < 8) && decide (module < 16)
  | .linkModuleFence link module t => decide (link < 8) && decide (module < 16) && decide (t < 2 ^ 64)
  | .pseudoChannelFence c t => decide (c < 640) && decide (t < 2 ^ 64)
  | .fenceRecordWrite => true
  | .nodeFault _ => true
  | .ref100Loss t => decide (t < 2 ^ 64)
  | .pwrMate => true
  | .powerGood _ _ _ => true
  | .inputBrownout => true
  | .inputOvervoltage => true
  | .inputUndervoltage => true
  | .inputOvercurrent => true
  | .inputLatchReleaseLow => true
  | .fuseReadDone _ => true
  | .railsRamped => true
  | .perstRelease t => decide (t < 2 ^ 64)
  | .cxlLinkTrained _ _ _ _ => true
  | .imagesVerified _ _ => true
  | .processorsReleased => true
  | .hbmTrained _ => true
  | .startupClearDone _ _ _ => true
  | .memoryActive t => decide (t < 2 ^ 64)
  | .perstAssert => true
  | .resetPinRelease _ => true
  | .resetLatchRelease => true
  | .functionReset _ => true
  | .ringEnable _ => true
  | .ringDisable _ => true
  | .ringReset _ => true
  | .ringReattach _ _ => true
  | .portLinkEnable port link => decide (port < 8) && decide (link < 4)
  | .portLinkDisable port link t => decide (port < 8) && decide (link < 4) && decide (t < 2 ^ 64)
  | .portDownClear port _ t => decide (port < 8) && decide (t < 2 ^ 64)
  | .snareBlockRelease b => decide (b < 256)
  | .snareExtChange _ _ => true
  | .flashSpillSlotsWrite _ _ => true
  | .driveCfgWrite d _ => decide (d < 8)
  | .nodeIdWrite _ => true
  | .forwardingEntryWrite n _ => decide (n < 4096)
  | .foreignEntryWrite e _ => decide (e < 64)
  | .shadowEnable _ k _ => decide (k < 8)
  | .msixUnmask _ v => decide (v < 2048)
  | .registerWrite _ _ off size _ t => decide (off % size = 0) && decide (size = 4 ∨ size = 8) && decide (t < 2 ^ 64)
  | .registerReadLowerHalf _ _ off => decide (off % 8 = 0)
  | .monitorHelp => true
  | .monitorVer => true
  | .monitorStatus => true
  | .monitorTemp => true
  | .monitorPower => true
  | .monitorTime => true
  | .monitorLog => true
  | .monitorBaud _ => true
  | .monitorFw => true
  | .monitorHbm => true
  | .peek _ => true
  | .poke _ _ t => decide (t < 2 ^ 64)
  | .fuseShow => true
  | .fuseLoad k _ => decide (k < 8)
  | .fuseBurn _ => true
  | .fuseLifeProduction => true
  | .monitorResetCold => true
  | .monitorResetWarm => true
  | .monitorUnknown => true
  | .uartBreak => true
  | .loaderHelp => true
  | .loaderId => true
  | .loaderBaud _ => true
  | .key => true
  | .image kind _ => decide (1 ≤ kind ∧ kind ≤ 5)
  | .loaderWrite _ => true
  | .challenge _ => true
  | .loaderReturn => true
  | .loaderBlock _ _ _ => true
  | .loaderUnknown => true
  | .smbStatus => true
  | .smbLifecycle => true
  | .smbPower => true
  | .smbTemp => true
  | .smbLevel => true
  | .smbAlertCause => true
  | .smbVariant => true
  | .smbIdentity => true
  | .smbAlertResponse => true
  | .smbUnknown code => decide (code < 256)
  | .handoffMemoryExpire _ sender id t => decide (sender < 4096) && decide (id < 2 ^ 32) && decide (t < 2 ^ 64)
  | .pauseTimeExpire port link cls t => decide (port < 8) && decide (link < 4) && decide (cls < 8) && decide (t < 2 ^ 64)
  | .cxlLinkDown => true
  | .fmApiCommand code _ => decide (code < 65536)
  | .snareBlockClearDone b => decide (b < 256)
  | .keyJournalErase => true
  | .aux3v3Loss => true

end Sys2Proof
end

