-- ==== Sys2Proof/Tests/Slice0.lean ====
section
/-!
SUPPORT. Tests of one step or one definition on small states, the ill-formed terms that WellFormed refuses, and for each statement with hypotheses a state and operands that meet them.
-/
namespace Sys2Proof.Tests

open Sys2Proof
open Sys2Proof.Machine (State Fault Refusal exec)

set_option maxRecDepth 20000
set_option Elab.async false

/-! ### WellFormed refuses -/

theorem test_wf_context : Instr.wf (.fence 16384 0) = false := by decide
theorem test_wf_time : Instr.wf (.peakExpire (2 ^ 64)) = false := by decide
theorem test_wf_unit : Instr.wf (.refreshDue 10240) = false := by decide
theorem test_wf_hub : Instr.wf (.hubFold 0 0 4) = false := by decide
theorem test_wf_core : Instr.wf (.pieceMove 68) = false := by decide
theorem test_wf_block : Instr.wf (.insertShift 256) = false := by decide
theorem test_wf_low : Instr.wf (.snareBalance 0 256) = false := by decide
theorem test_wf_qpn : Instr.wf (.oldKeyDrop (2 ^ 24) 0) = false := by decide
theorem test_wf_port : Instr.wf (.phyUp 8 0 0) = false := by decide
theorem test_wf_link : Instr.wf (.phyUp 0 4 0) = false := by decide
theorem test_wf_class : Instr.wf (.pauseRefresh 0 0 8) = false := by decide
theorem test_wf_space : Instr.wf (.ackTimer 0 0 2 0) = false := by decide
theorem test_wf_lane : Instr.wf (.laneSyncRetry 0 8 0) = false := by decide
theorem test_wf_seq : Instr.wf (.leaseTimerExpire 0 (2 ^ 32) 0) = false := by decide
theorem test_wf_slot : Instr.wf (.windowDrainDone 0 2048 0) = false := by decide
theorem test_wf_mode : Instr.wf (.windowModeWrite 0 0 4 0) = false := by decide
theorem test_wf_drive : Instr.wf (.driveTimeout 8 true) = false := by decide
theorem test_wf_blocks : Instr.wf (.driveIdentified 0 [1] []) = false := by decide
theorem test_wf_count : Instr.wf (.gateClear 0 64) = false := by decide
theorem test_wf_transfer_link : Instr.wf (.transferCheckFail 28 0 1 0 0 0) = false := by decide
theorem test_wf_module_link : Instr.wf (.laneSpare 8 0 true) = false := by decide
theorem test_wf_module : Instr.wf (.linkModuleFence 0 16 0) = false := by decide
theorem test_wf_ingest_lane : Instr.wf (.ingestUnit 16) = false := by decide
theorem test_wf_domain : Instr.wf (.domainWakeDone 159 0) = false := by decide
theorem test_wf_snare_block : Instr.wf (.snareBlockRelease 256) = false := by decide
theorem test_wf_image_kind : Instr.wf (.image 6 1) = false := by decide
theorem test_wf_node_id : Instr.wf (.forwardingEntryWrite 4096 0) = false := by decide
theorem test_wf_foreign : Instr.wf (.foreignEntryWrite 64 0) = false := by decide
theorem test_wf_size : Instr.wf (.registerWrite .fm true 0 2 0 0) = false := by decide
theorem test_wf_aligned : Instr.wf (.registerWrite .fm true 4 8 0 0) = false := by decide
theorem test_wf_lower_half : Instr.wf (.registerReadLowerHalf .fm true 4) = false := by decide
theorem test_wf_pseudo_channel : Instr.wf (.pseudoChannelFence 640 0) = false := by decide
theorem test_wf_config_register : Instr.wf (.configRequest .fm 1024 none) = false := by decide
theorem test_wf_fuse_part : Instr.wf (.fuseLoad 8 0) = false := by decide
theorem test_wf_processor : Instr.wf (.watchdogExpire 24 0) = false := by decide
theorem test_wf_data : Instr.wf (.cxlMemWrite 0 { addr := 0 } [] (List.replicate 64 true) false) = false := by decide
theorem test_wf_mask : Instr.wf (.cxlMemWrite 0 { addr := 0 } (List.replicate 64 0) [] false) = false := by decide
theorem test_wf_sender : Instr.wf (.handoffMemoryExpire 0 4096 0 0) = false := by decide
theorem test_wf_request_id : Instr.wf (.fabricDeadline 0 (2 ^ 32) 0) = false := by decide
theorem test_wf_extent : Instr.wf (.extentClearDone 1920) = false := by decide
theorem test_wf_msix : Instr.wf (.msixUnmask .fm 2048) = false := by decide
theorem test_wf_shadow : Instr.wf (.shadowEnable 0 8 0) = false := by decide
theorem test_wf_smbus_code : Instr.wf (.smbUnknown 256) = false := by decide
theorem test_wf_opcode : Instr.wf (.unsupportedCommand .fm 65536) = false := by decide
theorem test_wf_temps : Instr.wf (.hubTempRead 0 [1, 2, 3, 4, 5, 6]) = false := by decide
theorem test_wf_good : (Instr.wf (.fence 16383 0) && Instr.wf (.registerWrite .fm true 8 8 0 0) && Instr.wf (.image 5 1) && Instr.wf .monitorHelp) = true := by decide

/-! ### Values that the spec works out

The check value is that of R206; the ring configurations are those of the example in Setup Registers; the sizes, the segment and the place of page 0 of sequence 7, layer 10, head 2 are
those of the examples in Mallet Sweep and Number Formats; the sizes of a packet are those of R286. -/

theorem test_crc : crc32c (ascii "123456789") = 0xE3069283#32 := by decide +kernel
theorem test_completion_ring : (fld 0x8900000005000000#64 63 62, fld 0x8900000005000000#64 60 56, cfgGen 0x8900000005000000#64) = (2, 9, 5) := by decide +kernel
theorem test_submission_ring : (fld 0x4A00010005000000#64 63 62, fld 0x4A00010005000000#64 60 56, cfgGen 0x4A00010005000000#64, cfgBind 0x4A00010005000000#64) = (1, 10, 5, 0) := by
  decide +kernel
theorem test_token_bytes : tokenBytes 0x10 192 = 384 := by decide
theorem test_partial_bytes : partialBytes 192 false = 776 := by decide
/-- R286: a packet carries 126 bytes of overhead, or 134 with the extension, over an Evomer header of 40 bytes and an extension of 8. -/
theorem test_packet_overhead : ([PktType.send, .write].map fun t => let k : Packet := { typ := t, lane := 0, src := 0, dst := 0, psn := 0, qpn := 0 }; (k.wire, k.header.length)) = [(126, 40), (134, 48)] := by
  decide +kernel
theorem test_segments : segments 200000 1 = [(0, 1)] := by decide
theorem test_place : (List.range 4).map (fun p => placeIndex 7 10 2 6 p 10240) = [995, 1001, 1007, 1013] := by decide +kernel

/-! ### Small states that the witnesses below start from -/

/-- What a result holds, where it is there. -/
def okGet {α ε : Type} : (x : Except ε α) → x.isOk = true → α
  | .ok a, _ => a
def someGet {α : Type} : (x : Option α) → x.isSome = true → α
  | some a, _ => a
theorem okGet_eq {α ε : Type} {x : Except ε α} (h : x.isOk = true) : x = .ok (okGet x h) := by cases x <;> first | rfl | cases h
theorem someGet_eq {α : Type} {x : Option α} (h : x.isSome = true) : x = some (someGet x h) := by cases x <;> first | rfl | cases h
theorem someGet3_eq {α β γ : Type} {x : Option (α × β × γ)} (h : x.isSome = true) : x = some ((someGet x h).1, (someGet x h).2.1, (someGet x h).2.2) := someGet_eq h

/-- Whether a result is a given value, or a given failure, as one test each. -/
def holdsOk {α ε : Type} [DecidableEq α] (a : α) : Except ε α → Bool
  | .ok b => decide (b = a)
  | .error _ => false
def holdsError {α ε : Type} [DecidableEq ε] (e : ε) : Except ε α → Bool
  | .ok _ => false
  | .error b => decide (b = e)
theorem ok_is {α ε : Type} [DecidableEq α] {a : α} : {x : Except ε α} → holdsOk a x = true → x = .ok a
  | .ok _, h => congrArg Except.ok (of_decide_eq_true h)
  | .error _, h => nomatch h
theorem err_is {α ε : Type} [DecidableEq ε] {e : ε} : {x : Except ε α} → holdsError e x = true → x = .error e
  | .error _, h => congrArg Except.error (of_decide_eq_true h)
  | .ok _, h => nomatch h

/-- `Heard` as one test. -/
theorem heard_of {s : State} {o : Owner} {typ : Nat} {m : MboxMsg} {f : MboxFrom} {fits : Bool} {a : Owner}
    (h : (mailboxUp s && decide (mboxActor s o m = some a) && !scrubbing s a && decide (mboxCheck m s.cxl.direct a f fits = none) &&
      (match mboxServer s typ with
        | some x => !procAway s x && !(s.fw.procs.getD x {}).fenced
        | none => true)) = true) : Heard s o typ m f fits a := by
  simp only [Bool.and_eq_true, decide_eq_true_eq, Bool.not_eq_true'] at h
  refine ⟨h.1.1.1.1, h.1.1.1.2, h.1.1.2, fun x e => ?_, h.1.2⟩
  simpa [e] using h.2

/-- The node in a phase of its start. -/
def at_ (p : StartPhase) : State := { State.reset with boot := { State.reset.boot with phase := p } }

def cfgSub : Word := put 63 62 1 ||| put 60 56 6 ||| put 48 40 1 ||| put 39 24 1
def cfgComp : Word := put 63 62 2 ||| put 60 56 7 ||| put 39 24 1
def cfgChime : Word := put 63 62 3 ||| put 60 56 6 ||| put 48 40 2 ||| put 39 24 1

/-- Rings of an owner: 0 completion, 1 submission bound to it, 2 Chime. -/
def rings : List (Nat × Ring) :=
  [(0, { cfg := cfgComp, inCfg := cfgComp, state := .active, queue := 4 }), (1, { cfg := cfgSub, inCfg := cfgSub, state := .active, queue := 5 }),
   (2, { cfg := cfgChime, inCfg := cfgChime, state := .active, queue := 6 })]

/-- An active node: every domain ON, the CXL link up, partition 0 OPEN with pseudo-channels 0 to 2, 4 MiB of staging and rings of its own, extent 0 a control extent
and extent 1 a page extent. -/
def up : State :=
  { State.reset with
    time := 1000000
    timeOn := true
    boot := { State.reset.boot with phase := .active, powerGood := true }
    power := { State.reset.power with domains := List.replicate 159 {}, budget := 1450 }
    cxl := { State.reset.cxl with linkUp := true }
    fw := { State.reset.fw with procs := List.replicate 24 { image := some { kind := 1 } } }
    owners := (State.reset.owners.set 0 { rings := rings, doorbell := 0x1000#64 }).set 16 { rings := rings, doorbell := 0x1000#64 }
    parts := State.reset.parts.set 0 { state := .open_, definition := (((List.replicate 32 0#64).set 0 7#64).set 10 (put 63 48 1 ||| put 47 32 64 ||| put 31 23 4)).set 11 (put 63 32 0xFFFFFFFF) }
    contexts := [(4, .part 0, false, 0), (5, .part 0, false, 1), (6, .part 0, false, 2)]
    extents := [(0, { kind := .guarded, use := .control }), (1, { use := .page 0 })] }

/-- A descriptor of partition 0's submission ring with an operation in its words (R46). -/
def desc (opcode subop : Nat) (ws : List Word) (len : Nat := 0) : Desc :=
  let w := [put 63 56 opcode ||| put 55 52 1 ||| put 47 32 subop, put 16 0 len] ++ ws
  { owner := .part 0, slot := some 1, ctx := 5, index := 0#32, words := w, cur := w }

/-- The active node with one descriptor in flight, and with one of the fabric manager's. -/
def fly (d : Desc) : State := { up with flight := [d] }
def fm (d : Desc) : Desc := { d with owner := .fm }

set_option maxRecDepth 100000 in
theorem ruled : (rulingGen State.reset.boot.fuses).isSome = true := by decide +kernel

/-- SHA3-256 of no bytes (FIPS 202). -/
def emptyDigest : List Byte := [0xa7, 0xff, 0xc6, 0xf8, 0xbf, 0x1e, 0xd7, 0x66, 0x51, 0xc1, 0x47, 0x56, 0xa0, 0x61, 0xd6, 0x62, 0xf5, 0x80, 0xff, 0x4d, 0xe4, 0x3b, 0x49, 0xfa, 0x82, 0xd8, 0x0a, 0x4b, 0x80, 0xf8, 0x43, 0x4a]
theorem test_sha3_empty : sha3 [] = emptyDigest := by decide +kernel

/-- A usable link, and the active node as node 5 with link 0 of port 0 usable. -/
def fine : Link := { phyUp := true, enabled := true, adjacent := true, usable := true, wasUsable := true }
def netUp : State := modLink { up with ports := { up.ports with nodeValid := true, nodeId := 5 } } 0 0 fun _ => fine

/-- The active node with drive 0, whose namespace 1 of 1,024 blocks is partition 0's. -/
def flashUp : State :=
  { up with flash := { up.flash with drives := up.flash.drives.set 0 { state := .usable, usable := [1], blocks := [(1, 1024)], enable := true, owners := (List.replicate 16 0).set 0 128, capacityGb := 1 } } }

/-- Sequence 9 of partition 0: one layer and head of dimension 64 in INT4, frozen. -/
def rec9 : SeqRec := { params := put 31 24 0x19, headTable := ⟨0, 0, 1⟩, heads := [{}], frozen := true }
def seq9Up (r : SeqRec) : State := modPart up 0 fun x => { x with seqs := [(9, r)], seqTable := [⟨0, 1, 1⟩], leaseTable := some ⟨0, 2, 1⟩ }

/-- The active node 5 with sequence 9, a fabric queue pair 3 toward endpoint 0x060 and one message that waits. -/
def msg (typ : Nat) (body : List Byte := []) : FabMsg := { typ := typ, replyTo := 0x60, reqId := 4, seq := 9, payload := body, qpn := 3 }
def fab (m : FabMsg) (x : FabricS := {}) : State :=
  { seq9Up rec9 with
    ports := { up.ports with nodeValid := true, nodeId := 5 }
    net := { up.net with qps := [(3, { part := 0, service := .fabric, peer := 0x60 })] }
    fabric := { x with arrived := [(0, m)] } }

/-- A request of one head and vector with the scale 1.0. -/
def query : List Byte := ofWords [0#64, 0#64, put 63 32 0x3F800000, put 63 56 0xFF] ++ List.replicate 128 0
def home : HomeReq :=
  { part := 0, num := 1, msg := msg 1 query, dim := 64, deadline := 0, work := [{ shard := 0, endpoint := 0x60, seq := 9, epoch := 0, firstHead := 0, heads := 1, from_ := 0, to_ := 0 }]
    outstanding := [0] }
def outgoing : Outgoing := { part := 0, seq := 9, msg := msg 0x20, target := 0x60, targetSeq := 7, epoch := 1, leaseEnd := 2000000, holdUs := 1000 }
def incoming : Incoming := { part := 0, seq := 7, sender := 0x60, reqId := 4, epoch := 2, expected := 1, holdUs := 1000, deadline := 2000000, qpn := 3 }

/-- The active node 5 with queue pair 3 of partition 0 and a path to node 6. -/
def qp3 : Qp := { part := 0, service := .ordered, peer := 0x60, ctx := some 9, lanesUsed := 1 }
def qpUp (q : Qp) (ds : List Desc := []) : State :=
  { modLink up 0 0 fun _ => fine with
    parts := up.parts.modify 0 fun x => { x with qpnFirst := 1, qpnCount := 8 }
    ports := { (modLink up 0 0 fun _ => fine).ports with nodeValid := true, nodeId := 5, forwarding := [(6, put 63 63 1 ||| 1#64)] }
    belfry := { up.belfry with handles := [(1, { part := 0, secret := [], epoch := 1 })] }
    net := { up.net with qps := [(3, q)] }
    flight := ds }
def packet (t : PktType) : Packet := { typ := t, lane := 0, src := 0x60, dst := 0x50, psn := 0, qpn := 3 }

/-- A descriptor whose input is a tile. -/
def chained (d : Desc) (bs : List Byte) : Desc :=
  let w := d.words.modify 0 (· ||| put 51 51 1)
  { d with words := w, cur := w, input := some { bytes := bs } }

/-- Sequence 9 with one page in frame 0 of bank pair 0 of extent 1. -/
def page9 : SeqRec := { rec9 with heads := [{ length := 16, entries := [(0, .frame ⟨1, 0, 0⟩ false)] }] }
def seqFly (ds : List Desc) : State := { seq9Up page9 with flight := ds }
def onBank (r : Route) (st : PageState := .queued) : PageWork := { page := 0, frame := some ⟨1, 0, 0⟩, route := r, state := st, pinned := true }

/-- Images at host address 0x3000: a scale table of one layer and head of dimension 64 with every scale 1.0, and a decode table with two codes of one bit. -/
def scaleImage : List Host.Cell := ⟨0x3004, 1⟩ :: (List.range 128).flatMap fun k => [⟨0x3042 + 4 * k, 0x80⟩, ⟨0x3043 + 4 * k, 0x3F⟩]
def tableImage : List Host.Cell := [⟨0x3000, 1⟩, ⟨0x3040, 1⟩, ⟨0x3140, 1⟩]
def flat : DecodeTable := { version := 1, lengths := (List.replicate 257 0).set 256 1 }

/-- With every domain as after reset, whatever is asked of them is ON. -/
theorem awake {s : State} (h : s.power.domains = List.replicate 159 {}) (ds : List Nat) : domsOn s ds = true := by
  refine List.all_eq_true.2 fun k _ => ?_
  have e : getDom s k = {} := by
    unfold getDom
    rw [h, List.getD_eq_getElem?_getD, List.getElem?_replicate]
    split <;> rfl
  rw [e]; rfl

/-- Sequence 9 unfrozen, with its list block; its page is open and holds one token. -/
def open9 : SeqRec :=
  { page9 with frozen := false, heads := [{ length := 1, entries := [(0, .frame ⟨1, 0, 0⟩ false)], directory := some ⟨0, 3, 1⟩, lists := [(0, ⟨0, 4, 4⟩)] }] }
def openUp (d : Desc) : State :=
  { seq9Up open9 with flight := [d], frames := [(⟨1, 0, 0⟩, { state := .open_, fill := 1, format := 0x19, refs := 1 })] }

/-- Two Snare blocks of partition 0. -/
def snareUp (d : Desc) : State :=
  { modPart (seqFly [d]) 0 fun x => { x with autoTable := [⟨0, 3, 1⟩] } with snare := { blocks := [(0, { valid := true }), (1, { valid := true })] } }

/-- CREATE of sequence 8, and the control blocks that it takes. -/
def creating : State := seqFly [desc 2 1 [8#64, put 31 24 0x19]]
def newTables : Blocks × List Blocks × State := someGet (takeTables creating 0 1) (by decide +kernel)
theorem newTables_eq : takeTables creating 0 1 = some newTables := someGet_eq (by decide +kernel)

/-- Control blocks can be had from a control extent that gives none yet. -/
theorem takeBlocks_isSome {s : State} {p n e : Nat} (he : e ∈ controlExts s p) (hb : ∀ b ∈ (getPart s p).blocks, b.ext ≠ e) (hn : n ≠ 0 ∧ n ≤ 61440) :
    (takeBlocks s p n).isSome = true := by
  have hm : ∀ rs : List (Nat × Nat × Nat), (e, (0, 61440)) ∈ rs → rs ≠ [] := fun rs h x => by rw [x] at h; cases h
  unfold takeBlocks
  rw [if_neg hn.1]
  dsimp only
  split
  · next h =>
    refine absurd h (hm _ (List.mem_flatMap.2 ⟨e, he, List.mem_map.2 ⟨(0, 61440), List.mem_filter.2 ⟨?_, by simpa using hn.2⟩, rfl⟩⟩))
    have f : (getPart s p).blocks.filter (fun b => b.ext == e) = [] := List.filter_eq_nil_iff.2 fun b h => by simpa using hb b h
    rw [f]; decide
  · rfl

theorem takeBlocks_shape {s s' : State} {p n : Nat} {b : Blocks} (h : takeBlocks s p n = some (b, s')) (hn : n ≠ 0) :
    s' = modPart (draw s).2 p fun x => { x with blocks := b :: x.blocks } := by
  unfold takeBlocks at h
  rw [if_neg hn] at h
  dsimp only at h
  split at h
  · cases h
  · cases h; rfl

/-- FORK of sequence 8 from sequence 9, with three control extents. -/
def forking : State :=
  { seqFly [desc 2 4 [8#64, 9#64, 16#64]] with
    extents := [(0, { kind := .guarded, use := .control }), (1, { use := .page 0 }), (3, { kind := .guarded, use := .control }), (4, { kind := .guarded, use := .control })] }
def forkTables : Blocks × List Blocks × State := someGet (takeTables forking 0 1) (by decide +kernel)
theorem forkTables_eq : takeTables forking 0 1 = some forkTables := someGet_eq (by decide +kernel)
def forkRec : SeqRec := { params := setFld page9.params 20 0 0, headTable := forkTables.1, heads := [] }
theorem elsewhere (a b : Nat) : ∃ e, e ∈ [0, 3, 4] ∧ a ≠ e ∧ b ≠ e := by
  by_cases h0 : a ≠ 0 ∧ b ≠ 0
  · exact ⟨0, by simp, h0⟩
  · by_cases h3 : a ≠ 3 ∧ b ≠ 3
    · exact ⟨3, by simp, h3⟩
    · exact ⟨4, by simp, by omega, by omega⟩
theorem forkExts (b : Blocks) : controlExts (modPart (draw forkTables.2.2).2 0 fun x => { x with blocks := b :: x.blocks }) 0 = [0, 3, 4] := by
  have e : ∀ c, pchOwner (modPart (draw forkTables.2.2).2 0 fun x => { x with blocks := b :: x.blocks }) c = pchOwner forkTables.2.2 c := fun c => by
    unfold pchOwner
    congr 1
    funext k
    simp only [getPart, modPart, draw, List.getD_eq_getElem?_getD, List.getElem?_modify]
    cases forkTables.2.2.parts[k]? <;> split <;> rfl
  have h : controlExts forkTables.2.2 0 = [0, 3, 4] := by decide +kernel
  rw [← h]
  unfold controlExts
  simp only [e]
  rfl
theorem fork_some : (forkHeads 0 forkRec 16 page9.heads forkTables.2.2).isSome = true := by
  have hb : (getPart forkTables.2.2 0).blocks = [forkTables.1] := rfl
  have h1 : ∃ b s, takeBlocks forkTables.2.2 0 1 = some (b, s) ∧ (takeBlocks s 0 4).isSome = true := by
    obtain ⟨e, he, ne, -⟩ := elsewhere forkTables.1.ext 0
    have h := takeBlocks_isSome (s := forkTables.2.2) (p := 0) (n := 1) (e := e) (by
      rw [show controlExts forkTables.2.2 0 = [0, 3, 4] by decide +kernel]; exact he) (by rw [hb]; simpa using ne) ⟨by decide, by decide⟩
    refine ⟨_, _, someGet_eq h, ?_⟩
    have hs := takeBlocks_shape (someGet_eq h) (by decide)
    obtain ⟨k, hk, n1, n2⟩ := elsewhere (someGet _ h).1.ext forkTables.1.ext
    rw [hs]
    refine takeBlocks_isSome (e := k) ?_ ?_ ⟨by decide, by decide⟩
    · rw [forkExts]; exact hk
    · show ∀ b ∈ [(someGet _ h).1, forkTables.1], b.ext ≠ k
      simpa using ⟨n1, n2⟩
  obtain ⟨b, s, e1, e2⟩ := h1
  obtain ⟨y, hy⟩ := Option.isSome_iff_exists.1 e2
  have hl : (takeLists forkTables.2.2 0 { length := 16, entries := [(0, .frame ⟨1, 0, 0⟩ false)] } 0).isSome = true := by
    unfold takeLists
    simp only [e1, Option.map_some]
    rw [if_neg (by decide), hy]
    rfl
  obtain ⟨x, hx⟩ := Option.isSome_iff_exists.1 hl
  have hp : ((([(0, Entry.frame ⟨1, 0, 0⟩ false)] : List (Nat × Entry)).map fun e => forkRec.pointer e.1).eraseDups) = [0] := by decide +kernel
  have hf : ([(0, Entry.frame ⟨1, 0, 0⟩ false)] : List (Nat × Entry)).filter (fun e => decide (e.1 < ceilDiv 16 16)) = [(0, .frame ⟨1, 0, 0⟩ false)] := by decide +kernel
  unfold forkHeads
  simp only [page9, rec9]
  rw [hf, hp]
  simp only [List.foldl, hx, Option.map_some]
  rfl

def forkLists : List HeadList × List Blocks × State := someGet _ fork_some
theorem forkLists_eq : forkHeads 0 forkRec 16 page9.heads forkTables.2.2 = some forkLists := someGet_eq _

/-- With no processor away, no sequencer is, whichever of them a share falls to. -/
theorem seqHere {s : State} (r : Nat) (h : ∀ x, x < 18 → procAway s x = false) : sequencerAway s r = false := by
  refine h _ ?_
  unfold sequencerOf
  cases (List.range 16).find? fun j => !((s.fw.procs.getD (2 + (r + j) % 16) {}).fenced) <;> simp <;> omega

/-- Queue pair 3 as RoCEv2, and the SPI of the association in which it receives. -/
def roceQp : Qp := { qp3 with service := .roceOrdered }
def roceSpi : Nat := espSpi (espInputs roceQp.secret roceQp.epoch roceQp.peerAddr roceQp.peerQpn (endpointAddr (qpUp roceQp) (ownEndpoint (qpUp roceQp) 0)) 3)

theorem witness_StartToRails :
  (∃ s : State, s.boot.phase = .absent) ∧
  (∃ s : State, s.boot.phase = .mated ∧ s.boot.latched = false) ∧
  (∃ s : State, s.boot.phase = .powerGood ∧ s.boot.recovery = false ∧ (rulingGen s.boot.fuses).isSome) ∧
  (∃ s : State, s.boot.phase = .fusesRead) ∧
  (∃ s : State, s.boot.phase = .railsUp) :=
  ⟨⟨(State.reset), by decide +kernel⟩,
   ⟨(at_ .mated), by decide +kernel⟩,
   ⟨(at_ .powerGood), by decide +kernel, by decide +kernel, ruled⟩,
   ⟨(at_ .fusesRead), by decide +kernel⟩,
   ⟨(at_ .railsUp), by decide +kernel⟩⟩

theorem witness_StartToMemory :
  (∃ w : Nat, ∃ g : Nat, ∃ s : State, s.boot.phase = .perstReleased ∧ w ∈ [4, 8, 16] ∧ g ∈ [8, 16, 32] ∧ w ≤ linkWidth s ∧ g ≤ linkSpeed s) ∧
  (∃ w : Nat, ∃ g : Nat, ∃ s : State, s.boot.phase = .perstReleased ∧ w ∈ [4, 8, 16] ∧ g ∈ [8, 16, 32] ∧ w ≤ linkWidth s ∧ g ≤ linkSpeed s) ∧
  (∃ okA : Bool, ∃ okB : Bool, ∃ s : State, s.boot.phase = .linkTrained ∧ slotBoots s (preferredSlot s) (if preferredSlot s = 0 then okA else okB) = true) ∧
  (∃ s : State, s.boot.phase = .imagesVerified) ∧
  (∃ s : State, s.boot.phase = .processorsUp) ∧
  (∃ s : State, s.boot.phase = .hbmTrained ∧ s.faults.record = [] ∧ (∀ k, k < 8 → pkgLost s k = false)) ∧
  (∃ s : State, s.boot.phase = .cleared) :=
  ⟨⟨(16), (32), (at_ .perstReleased), by decide +kernel⟩,
   ⟨(4), (8), (at_ .perstReleased), by decide +kernel⟩,
   ⟨(true), (false), (at_ .linkTrained), by decide +kernel⟩,
   ⟨(at_ .imagesVerified), by decide +kernel⟩,
   ⟨(at_ .processorsUp), by decide +kernel⟩,
   ⟨(at_ .hbmTrained), by decide +kernel⟩,
   ⟨(at_ .cleared), by decide +kernel⟩⟩

theorem witness_InputStage :
  (∃ s : State, s.boot.phase ≠ .absent ∧ s.boot.latched = false) ∧
  (∃ s : State, s.boot.phase ≠ .absent ∧ s.boot.latched = false) ∧
  (∃ s : State, s.boot.phase ∈ [.powerGood, .fusesRead, .railsUp, .perstReleased, .linkTrained, .imagesVerified, .processorsUp, .hbmTrained, .cleared]) ∧
  (∃ s : State, s.boot.phase ∈ [.powerGood, .fusesRead, .railsUp, .perstReleased, .linkTrained, .imagesVerified, .processorsUp, .hbmTrained, .cleared]) ∧
  (∃ s : State, s.boot.phase ≠ .absent) ∧
  (∃ s : State, s.boot.latched = true ∧ s.boot.aux = true) :=
  ⟨⟨(up), by decide +kernel⟩,
   ⟨(up), by decide +kernel⟩,
   ⟨(at_ .powerGood), by decide +kernel⟩,
   ⟨(at_ .cleared), by decide +kernel⟩,
   ⟨(up), by decide +kernel⟩,
   ⟨({ up with boot := { up.boot with latched := true } }), by decide +kernel⟩⟩

theorem witness_NodeResets :
  (∃ s : State, s.boot.phase = .active ∧ s.boot.latched = false ∧ s.boot.powerGood = true ∧ s.boot.fuses.seedCheck = seedCheckOf s.boot.fuses.seed) ∧
  (∃ lowUs : Nat, ∃ s : State, 1000 ≤ lowUs ∧ s.boot.phase = .active ∧ s.boot.latched = false ∧ s.boot.powerGood = true) ∧
  (∃ lowUs : Nat, lowUs < 1000) :=
  ⟨⟨(up), by decide +kernel⟩,
   ⟨(1000), (up), by decide +kernel⟩,
   ⟨(999), by decide +kernel⟩⟩

theorem witness_FunctionsAndLink :
  (∃ s : State, s.cxl.linkUp = true) ∧
  (∃ s : State, s.cxl.linkUp = true) :=
  ⟨⟨(up), by decide +kernel⟩,
   ⟨(up), by decide +kernel⟩⟩

theorem witness_ChecksAndLanes :
  (∃ fails : Nat, 0 < fails ∧ fails < 4) ∧
  (∃ fails : Nat, 0 < fails ∧ fails < 4) ∧
  (∃ fails : Nat, ∃ e : Nat, ∃ off : Nat, ∃ s : State, 4 ≤ fails ∧ e < 1920 ∧ off < 2 ^ 28 ∧ (getExt s e).kind = .guarded) ∧
  (∃ x : Nat, ∃ s : State, x < s.cores.length ∧ x < 68 ∧ (s.cores.getD x {}).fenced = false) ∧
  (∃ link : Nat, ∃ m : Nat, ∃ n : Nat, ∃ k : Nat, ∃ s : State, moduleFitted s link m = true ∧ getModule s link m = (false, n, k) ∧ n < 4) ∧
  (∃ link : Nat, ∃ m : Nat, ∃ n : Nat, ∃ k : Nat, ∃ s : State, moduleFitted s link m = true ∧ getModule s link m = (false, n, k) ∧ k < 4) :=
  ⟨⟨(1), by decide +kernel⟩,
   ⟨(3), by decide +kernel⟩,
   ⟨(4), (0), (268435455), (up), by decide +kernel⟩,
   ⟨(3), (up), by decide +kernel⟩,
   ⟨(0), (0), (0), (0), (up), by decide +kernel⟩,
   ⟨(0), (0), (0), (0), (up), by decide +kernel⟩⟩

theorem witness_Fences :
  (∃ k : Nat, ∃ m : Nat, ∃ s : State, moduleFitted s k m = true ∧ (getModule s k m).1 = false ∧ (∃ j, j ≠ m ∧ moduleFitted s k j = true ∧ (getModule s k j).1 = false)) ∧
  (∃ c : Nat, ∃ s : State, c < 640 ∧ stackFitted s (c / 32) = true ∧ pchFenced s c = false) ∧
  (∃ c : Nat, ∃ s : State, pchFenced s c = true) ∧
  (∃ o : Owner, ∃ a : Owner, ∃ m : MboxMsg, ∃ t : Nat, ∃ kind : Nat, ∃ n : Nat, ∃ v : State, ∃ w : State, ∃ s : State, v = atTime s t ∧ Heard v o 0x60 m .manager (m.body.length == 8) a ∧ kind = m.at_ 0 ∧ n = ofLe (slice m.body 4 4) ∧ m.at_ 2 = 0 ∧ m.at_ 3 = 0 ∧ fenceUnit v kind n = true ∧ (m.at_ 1 = 1 ∧ w = fenceByCommand v kind n ∧ (kind = 4 → n / 16 = 6 → ((getPkg v 6).modules.filter fun x => !x.1).length = 1 → standsFenced v 4 n = true) ∨
      m.at_ 1 = 2 ∧ w = { v with faults := { v.faults with record := v.faults.record.filter (· != (kind, if kind = 1 then ruledCore v n else n)), unwritten := v.faults.unwritten.filter (· != (kind, if kind = 1 then ruledCore v n else n)) } } ∨
      m.at_ 1 = 3 ∧ w = v)) ∧
  (∃ o : Owner, ∃ a : Owner, ∃ m : MboxMsg, ∃ t : Nat, ∃ kind : Nat, ∃ n : Nat, ∃ v : State, ∃ w : State, ∃ s : State, v = atTime s t ∧ Heard v o 0x60 m .manager (m.body.length == 8) a ∧ kind = m.at_ 0 ∧ n = ofLe (slice m.body 4 4) ∧ m.at_ 2 = 0 ∧ m.at_ 3 = 0 ∧ fenceUnit v kind n = true ∧ (m.at_ 1 = 1 ∧ w = fenceByCommand v kind n ∧ (kind = 4 → n / 16 = 6 → ((getPkg v 6).modules.filter fun x => !x.1).length = 1 → standsFenced v 4 n = true) ∨
      m.at_ 1 = 2 ∧ w = { v with faults := { v.faults with record := v.faults.record.filter (· != (kind, if kind = 1 then ruledCore v n else n)), unwritten := v.faults.unwritten.filter (· != (kind, if kind = 1 then ruledCore v n else n)) } } ∨
      m.at_ 1 = 3 ∧ w = v)) ∧
  (∃ o : Owner, ∃ a : Owner, ∃ m : MboxMsg, ∃ t : Nat, ∃ kind : Nat, ∃ n : Nat, ∃ v : State, ∃ w : State, ∃ s : State, v = atTime s t ∧ Heard v o 0x60 m .manager (m.body.length == 8) a ∧ kind = m.at_ 0 ∧ n = ofLe (slice m.body 4 4) ∧ m.at_ 2 = 0 ∧ m.at_ 3 = 0 ∧ fenceUnit v kind n = true ∧ (m.at_ 1 = 1 ∧ w = fenceByCommand v kind n ∧ (kind = 4 → n / 16 = 6 → ((getPkg v 6).modules.filter fun x => !x.1).length = 1 → standsFenced v 4 n = true) ∨
      m.at_ 1 = 2 ∧ w = { v with faults := { v.faults with record := v.faults.record.filter (· != (kind, if kind = 1 then ruledCore v n else n)), unwritten := v.faults.unwritten.filter (· != (kind, if kind = 1 then ruledCore v n else n)) } } ∨
      m.at_ 1 = 3 ∧ w = v)) :=
  ⟨⟨(0), (0), (up), by decide +kernel, by decide +kernel, ⟨1, by decide +kernel⟩⟩,
   ⟨(639), (up), by decide +kernel⟩,
   ⟨(3), ({ up with faults := { up.faults with pchs := [3] } }), by decide +kernel⟩,
   ⟨(.fm), (.fm), ({ body := [3, 1, 0, 0, 1, 0, 0, 0] }), (0), (3), (1), (atTime up 0), (fenceByCommand (atTime up 0) 3 1), (up), rfl, heard_of (by decide +kernel), by decide +kernel, by decide +kernel, by decide +kernel, by decide +kernel, by decide +kernel, .inl ⟨by decide +kernel, rfl, by decide +kernel⟩⟩,
   ⟨(.fm), (.fm), ({ body := [4, 2, 0, 0, 1, 0, 0, 0] }), (0), (4), (1), (atTime up 0), (_), (up), rfl, heard_of (by decide +kernel), by decide +kernel, by decide +kernel, by decide +kernel, by decide +kernel, by decide +kernel, .inr (.inl ⟨by decide +kernel, rfl⟩)⟩,
   ⟨(.fm), (.fm), ({ body := [2, 3, 0, 0, 1, 0, 0, 0] }), (0), (2), (1), (atTime up 0), (_), (up), rfl, heard_of (by decide +kernel), by decide +kernel, by decide +kernel, by decide +kernel, by decide +kernel, by decide +kernel, .inr (.inr ⟨by decide +kernel, rfl⟩)⟩⟩

theorem witness_NodeFaults :
  (∃ s : State, s.boot.phase ≠ .absent ∧ s.boot.phase ≠ .mated ∧ s.boot.phase ≠ .faulted) ∧
  (∃ s : State, s.boot.phase ≠ .absent ∧ s.boot.phase ≠ .mated ∧ s.boot.phase ≠ .faulted) ∧
  (∃ r : Reading, ∃ s : State, s.timeOn = true ∧ s.boot.phase ≠ .faulted ∧ r.sensor = 0 ∧ 440 ≤ r.quarterDeg) :=
  ⟨⟨(up), by decide +kernel⟩,
   ⟨(up), by decide +kernel⟩,
   ⟨(⟨0, 440⟩), (up), by decide +kernel⟩⟩

theorem witness_DamperAndClamps :
  (∃ s : State, damperUp s = true) ∧
  (∃ t : Nat, ∃ s : State, damperUp s = true ∧ s.power.lastStep + 50000 ≤ t ∧ s.power.target < s.power.level) ∧
  (∃ t : Nat, ∃ s : State, damperUp s = true ∧ s.power.lastStep + 50000 ≤ t ∧ s.power.level < s.power.target ∧ s.power.level < 100 ∧ s.power.clamped = false ∧ s.power.milliA ≤ 51000) ∧
  (∃ milliA : Nat, ∃ s : State, s.timeOn = true ∧ limitMilliA s < milliA ∧ s.boot.phase ≠ .faulted) ∧
  (∃ r : Reading, ∃ t : Nat, ∃ s : State, s.timeOn = true ∧ s.boot.phase ≠ .faulted ∧ r.sensor = 0 ∧ 400 ≤ r.quarterDeg ∧ r.quarterDeg < limitDie s ∧ s.power.heatStep.getD 0 0 + 50000 ≤ (atTime s t).time) :=
  ⟨⟨(up), by decide +kernel⟩,
   ⟨(50000), ({ up with power := { up.power with target := 60 } }), by decide +kernel⟩,
   ⟨(50000), ({ up with power := { up.power with level := 99 } }), by decide +kernel⟩,
   ⟨(limitMilliA up + 1), (up), by decide +kernel⟩,
   ⟨(⟨0, 400⟩), (50000), (up), by decide +kernel⟩⟩

theorem witness_DomainsAndPeak :
  (∃ hub : Nat, ∃ s : State, s.timeOn = true ∧ hub < hubCount s) ∧
  (∃ d : Nat, ∃ w : Nat, ∃ t : Nat, ∃ s : State, (getDom s d).wake = some w ∧ w ≤ t ∧ domFenced s d = false ∧ domKind d ≠ 9) ∧
  (∃ d : Nat, ∃ t : Nat, ∃ s : State, (getDom s d).commanded ≠ .on ∧ (getDom s d).present = .on ∧ (getDom s d).lastWork + 100000 ≤ t ∧ domWork s d = false ∧ d < s.power.domains.length ∧ domKind d ≠ 8 ∧ domKind d ≠ 9) ∧
  (∃ b : Nat, ∃ e : Nat, ∃ t : Nat, ∃ s : State, s.power.peak = some (b, e) ∧ e ≤ t ∧ e ≤ (atTime s t).time) :=
  ⟨⟨(3), (up), by decide +kernel⟩,
   ⟨(84), (20000), (20000), (modDom up 84 fun y => { y with present := .retain, wake := some 20000 }), by decide +kernel⟩,
   ⟨(84), (100000), (modDom up 84 fun y => { y with commanded := .retain }), by decide +kernel⟩,
   ⟨(0), (2000000), (2000000), ({ up with power := { up.power with peak := some (0, 2000000) } }), by decide +kernel⟩⟩

theorem witness_PowerOperations :
  (∃ q : Nat, ∃ i : BitVec 32, ∃ d : Desc, ∃ s : State, stationDesc s q i 0x0C 0x10 = some d ∧ d.owner = .fm ∧ d.len = 0 ∧ bodyOk d.cur [maskOf 31 16 ||| maskOf 1 0] = true ∧ (fld (d.w 2) 31 16 = 0 ∨ (600 ≤ fld (d.w 2) 31 16 ∧ fld (d.w 2) 31 16 ≤ sustained (modeOf (fld (d.w 2) 1 0))))) ∧
  (∃ q : Nat, ∃ i : BitVec 32, ∃ d : Desc, ∃ s : State, stationDesc s q i 0x0C 0x10 = some d ∧ d.owner = .fm ∧ d.len = 0 ∧ bodyOk d.cur [maskOf 31 16 ||| maskOf 1 0] = true ∧ (fld (d.w 2) 31 16 = 0 ∨ (600 ≤ fld (d.w 2) 31 16 ∧ fld (d.w 2) 31 16 ≤ sustained (modeOf (fld (d.w 2) 1 0))))) ∧
  (∃ q : Nat, ∃ i : BitVec 32, ∃ d : Desc, ∃ c : ModeChange, ∃ s : State, findDesc s q i = some d ∧ (s.power.changes.find? fun c => c.ctx == q && c.index == i) = some c ∧ procAway s 1 = false ∧ ((s.flight.takeWhile fun d => !(d.ctx == q && d.index == i)).any fun d => d.ctx == q && d.opcode == 0x0C && d.subop == 0x10 && d.phase != .finished) = false) ∧
  (∃ q : Nat, ∃ t : Nat, ∃ i : BitVec 32, ∃ d : Desc, ∃ s : State, ∃ ms, stationDesc s q i 0x0C 0x11 = some d ∧ bit (d.w 2) 0 = false ∧ procAway s 1 = false ∧ peakRefused s d = none ∧ s.power.peak = none ∧ s.power.cooldownEnd ≤ (atTime s t).time ∧ s.power.warmSince + 10000000000 ≤ (atTime s t).time ∧ ms = (if fld (d.w 2) 26 16 = 0 then 2000 else fld (d.w 2) 26 16)) ∧
  (∃ q : Nat, ∃ t : Nat, ∃ b : Nat, ∃ e : Nat, ∃ i : BitVec 32, ∃ d : Desc, ∃ s : State, stationDesc s q i 0x0C 0x11 = some d ∧ bit (d.w 2) 0 = true ∧ procAway s 1 = false ∧ peakRefused s d = none ∧ s.power.peak = some (b, e) ∧ (atTime s t).time < e) ∧
  (∃ q : Nat, ∃ i : BitVec 32, ∃ d : Desc, ∃ s : State, stationDesc s q i 0x0C 0x12 = some d ∧ d.len = 0 ∧ bodyOk d.cur [maskOf 23 20 ||| maskOf 17 0] = true ∧ fld (d.w 2) 23 20 = 0 ∧ (∀ x ∈ powerNamed s d, domFitted s x.1 = true ∧ domTakes x.1 x.2 = true ∧ mayCommand s d.owner x.1 = true ∧ domFenced s x.1 = false ∧
      x.2 ≠ .on ∧ domWork s x.1 = false ∧ heldAwake s x.1 = false)) :=
  ⟨⟨(5), (0), (fm (desc 0x0C 0x10 [put 31 16 0 ||| 1#64])), (fly (fm (desc 0x0C 0x10 [put 31 16 0 ||| 1#64]))), by decide +kernel⟩,
   ⟨(5), (0), (fm (desc 0x0C 0x10 [put 31 16 600 ||| 1#64])), (fly (fm (desc 0x0C 0x10 [put 31 16 600 ||| 1#64]))), by decide +kernel⟩,
   ⟨(5), (0), _, _, ({ fly (fm (desc 0x0C 0x10 [put 31 16 0 ||| 1#64])) with power := { up.power with changes := [⟨5, 0, .sweep, 0, 0⟩] } }), someGet_eq (by decide +kernel), someGet_eq (by decide +kernel), by decide +kernel⟩,
   (by refine ⟨(5), (10000000000), (0), _, (fly (fm (desc 0x0C 0x11 [put 26 16 1000]))), _, someGet_eq (by decide +kernel), ?_, ?_, ?_, ?_, ?_, ?_, rfl⟩ <;> decide +kernel),
   ⟨(5), (0), (0), (2000000), (0), _, ({ fly (fm (desc 0x0C 0x11 [1#64])) with power := { up.power with peak := some (0, 2000000) } }), someGet_eq (by decide +kernel), by decide +kernel⟩,
   ⟨(5), (0), _, (fly (desc 0x0C 0x12 [put 17 16 1 ||| 4#64])), someGet_eq (by decide +kernel), by decide +kernel⟩⟩

theorem witness_MonitorCommands :
  (∃ s : State, monitorUp s = true) ∧
  (∃ n : Nat, ∃ s : State, monitorUp s = true ∧ n ∈ bauds) ∧
  (∃ off : Nat, ∃ s : State, monitorUp s = true ∧ s.boot.lifecycle ≠ .production ∧ off % 8 = 0 ∧ off < 2 ^ 20) ∧
  (∃ off : Nat, ∃ s : State, monitorUp s = true ∧ s.boot.lifecycle ≠ .production ∧ off % 8 = 0 ∧ off < 2 ^ 20) ∧
  (∃ off : Nat, ∃ t : Nat, ∃ v : Word, ∃ s : State, ∃ c, c ∈ [Instr.monitorHbm, .peek off, .poke off v t, .fuseShow, .monitorResetCold, .monitorResetWarm, .fuseLoad off 0#512, .fuseBurn true, .fuseLifeProduction] ∧ monitorUp s = true ∧ s.boot.lifecycle = .production) ∧
  (∃ off : Nat, ∃ t : Nat, ∃ v : Word, ∃ s : State, ∃ c, c ∈ [Instr.monitorHbm, .peek off, .poke off v t, .fuseShow, .monitorResetCold, .monitorResetWarm, .fuseLoad off 0#512, .fuseBurn true, .fuseLifeProduction] ∧ monitorUp s = true ∧ s.boot.lifecycle = .production) :=
  ⟨⟨(up), by decide +kernel⟩,
   ⟨(115200), (up), by decide +kernel⟩,
   ⟨(0), ({ up with boot := { up.boot with lifecycle := .manufacture } }), by decide +kernel⟩,
   ⟨(1048568), ({ up with boot := { up.boot with lifecycle := .manufacture } }), by decide +kernel⟩,
   ⟨(0), (0), (0), (up), (.peek 0), by decide +kernel⟩,
   ⟨(0), (0), (0), (up), (.fuseLifeProduction), by decide +kernel⟩⟩

theorem witness_FuseCommands :
  (∃ k : Nat, ∃ s : State, monitorUp s = true ∧ s.boot.lifecycle = .manufacture ∧ k < 8) ∧
  (∃ k : Nat, ∃ s : State, monitorUp s = true ∧ s.boot.lifecycle = .manufacture ∧ k < 8) ∧
  (∃ g : Nat, ∃ s : State, monitorUp s = true ∧ s.boot.lifecycle = .manufacture ∧ configLegal (stagedConfig s) = true ∧ freeGen s = some g) ∧
  (∃ s : State, monitorUp s = true ∧ s.boot.lifecycle = .manufacture ∧ s.boot.fuses.identity ≠ 0#64 ∧ s.boot.fuses.imageKey ≠ 0 ∧ s.boot.fuses.seedCheck = seedCheckOf s.boot.fuses.seed ∧ s.boot.ruling.isSome = true) :=
  ⟨⟨(0), ({ up with boot := { up.boot with lifecycle := .manufacture } }), by decide +kernel⟩,
   ⟨(7), ({ up with boot := { up.boot with lifecycle := .manufacture } }), by decide +kernel⟩,
   ⟨(1), ({ up with boot := { up.boot with lifecycle := .manufacture, ruling := some 0 }, serial := { up.serial with staged := (List.replicate 8 0#512).set 0 (BitVec.ofNat 512 0x3fffffff0ffffffffffffffff01) } }), by decide +kernel⟩,
   ⟨({ up with boot := { up.boot with lifecycle := .manufacture, ruling := some 0 } }), by decide +kernel⟩⟩

theorem witness_RecoveryLoader :
  (∃ s : State, s.boot.phase = .loader ∧ s.serial.transfer = none) ∧
  (∃ sigOk : List Nat, ∃ xs : List Image, ∃ s : State, s.boot.phase = .loader ∧ s.serial.transfer = none ∧ s.serial.key.isSome = true ∧ xs = [1, 2, 3, 4, 5].filterMap (receivedImage s sigOk) ∧ xs.length = 5 ∧ (∀ x ∈ xs, imageBad s x = none)) ∧
  (∃ what : Nat, ∃ n : Nat, ∃ naks : Nat, ∃ held : List Byte, ∃ data : List Byte, ∃ s : State, s.boot.phase = .loader ∧ s.serial.transfer = some (what, n, held, naks) ∧ data.length = min 4096 (n - held.length) ∧ held.length + data.length < n) ∧
  (∃ what : Nat, ∃ n : Nat, ∃ naks : Nat, ∃ held : List Byte, ∃ data : List Byte, ∃ crc : BitVec 32, ∃ s : State, s.boot.phase = .loader ∧ s.serial.transfer = some (what, n, held, naks) ∧ crc32c data ≠ crc ∧ naks < 7) :=
  ⟨⟨(at_ .loader), by decide +kernel⟩,
   ⟨([1, 2, 3, 4, 5]), _, ({ at_ .loader with serial := { up.serial with key := some [], raw := [1, 2, 3, 4, 5].map fun k => (k, BitVec.ofNat 8 k :: List.replicate 31 0 ++ emptyDigest) } }), by decide +kernel, by decide +kernel, by decide +kernel, rfl, by decide +kernel⟩,
   ⟨(1), (4104), (0), ([0, 0, 0, 0]), (List.replicate 4096 0), ({ at_ .loader with serial := { up.serial with transfer := some (1, 4104, [0, 0, 0, 0], 0) } }), by decide +kernel⟩,
   ⟨(0), (1312), (6), ([]), ([]), (1), ({ at_ .loader with serial := { up.serial with transfer := some (0, 1312, [], 6) } }), by decide +kernel⟩⟩

theorem witness_SmbusTarget :
  (∃ s : State, smbUp s = true) ∧
  (∃ s : State, ∃ c, c ∈ [Instr.smbStatus, .smbLifecycle, .smbPower, .smbTemp, .smbLevel, .smbAlertCause, .smbVariant, .smbIdentity, .smbAlertResponse] ∧ smbUp s = false) ∧
  (∃ s : State, ∃ c, c ∈ [Instr.smbStatus, .smbLifecycle, .smbPower, .smbTemp, .smbLevel, .smbAlertCause, .smbVariant, .smbIdentity, .smbAlertResponse] ∧ smbUp s = false) ∧
  (∃ code : Nat, code ∉ [0, 1, 2, 3, 4, 5, 6, 0x10]) ∧
  (∃ code : Nat, code ∉ [0, 1, 2, 3, 4, 5, 6, 0x10]) :=
  ⟨⟨(up), by decide +kernel⟩,
   ⟨(State.reset), (.smbStatus), by decide +kernel⟩,
   ⟨(at_ .mated), (.smbAlertResponse), by decide +kernel⟩,
   ⟨(7), by decide +kernel⟩,
   ⟨(255), by decide +kernel⟩⟩

theorem witness_FetchStepsCommit :
  (∃ o : Owner, ∃ t : Nat, ∃ s : State, s.cxl.linkUp = true ∧ scrubbing s o = false ∧ ((getOwner s o).rings.any fun e => e.2.enabled) = true ∧ (getOwner s o).nextFetch ≤ t) ∧
  (∃ q : Nat, ∃ i : BitVec 32, ∃ d : Desc, ∃ s : State, findDesc s q i = some d ∧ d.prog.isSome = true ∧ d.cur = [] ∧ d.phase = .ready ∧ sequencerAway s d.share = false) ∧
  (∃ q : Nat, ∃ n : Nat, ∃ i : BitVec 32, ∃ d : Desc, ∃ s : State, findDesc s q i = some d ∧ d.prog.isSome = true ∧ d.phase = .finished ∧ nextStep d = some n ∧ sequencerAway s d.share = false) ∧
  (∃ q : Nat, ∃ i : BitVec 32, ∃ d : Desc, ∃ s : State, findDesc s q i = some d ∧ d.phase = .finished ∧ nextStep d = none ∧ commitWaits s d = false ∧ programWaits s d = false ∧ (s.flash.ops.any fun o => o.ctx == d.ctx && o.index == d.index && !o.answered) = false) :=
  ⟨⟨(.part 0), (0), (up), by decide +kernel⟩,
   ⟨(5), (0), ({ desc 6 0 [] with cur := [], prog := some [] }), (fly { desc 6 0 [] with cur := [], prog := some [] }), by decide +kernel, by decide +kernel, by decide +kernel, by decide +kernel, seqHere _ (by decide +kernel)⟩,
   ⟨(5), (1), (0), ({ desc 6 0 [] with prog := some [[0#64, put 63 56 1 ||| put 55 48 0xFF], []], phase := .finished }), (fly { desc 6 0 [] with prog := some [[0#64, put 63 56 1 ||| put 55 48 0xFF], []], phase := .finished }), by decide +kernel, by decide +kernel, by decide +kernel, by decide +kernel, seqHere _ (by decide +kernel)⟩,
   ⟨(5), (0), ((desc 6 0 []).finish 0 0), (fly ((desc 6 0 []).finish 0 0)), by decide +kernel⟩⟩

theorem witness_CoreOperations :
  (∃ q : Nat, ∃ a : Nat, ∃ i : BitVec 32, ∃ rd : HostRead, ∃ d : Desc, ∃ dst : Loc, ∃ r : ReadRes, ∃ s : State, stationDesc s q i 0x06 0 = some d ∧ bodyOk d.cur [allBits, allBits] = true ∧ locate s d.owner (d.w 2) (occupied s d.owner (d.w 2) d.len) false = .ok (.host a) ∧ locate s d.owner (d.w 3) (occupied s d.owner (d.w 3) d.len) true = .ok dst ∧ dst.waits s = false ∧ overlaps (.host a) dst (occupied s d.owner (d.w 3) d.len) = false ∧ writable s dst = none ∧ busyPairs s d.len dst = [] ∧ domsOn s dst.doms = true ∧ readLoc (atWork s dst.doms) d 2 rd (.host a) d.len = .ok r ∧ r.poison = false) ∧
  (∃ q : Nat, ∃ i : BitVec 32, ∃ d : Desc, ∃ s : State, stationDesc s q i 0x0B 0 = some d ∧ d.len = 0 ∧ bodyOk d.cur [maskOf 63 63 ||| maskOf 13 0, maskOf 31 0] = true ∧ ((s.flight.takeWhile fun x => !(x.ctx == q && x.index == i)).any fun x => x.ctx == q) = false ∧ (bit (d.w 2) 63 = true → (∃ k, d.named = some k ∧ committed s d.owner k (BitVec.ofNat 32 (fld (d.w 3) 31 0)) = true) ∨ d.named = none ∧ d.namedDone = true)) ∧
  (∃ q : Nat, ∃ k : Nat, ∃ i : BitVec 32, ∃ d : Desc, ∃ x : Desc, ∃ s : State, stationDesc s q i 0x0C 1 = some d ∧ d.len = 0 ∧ bodyOk d.cur [maskOf 13 0, maskOf 31 0] = true ∧ d.named = some k ∧ findDesc s (fld (d.w 2) 13 0) (BitVec.ofNat 32 (fld (d.w 3) 31 0)) = some x ∧ ¬(x.opcode = 0x0C ∧ x.subop = 1) ∧ x.latched = false) :=
  ⟨⟨(5), (0x2000), (0), ({}), (desc 6 0 [0x2000#64, 0x3000#64] 64), _, _, (fly (desc 6 0 [0x2000#64, 0x3000#64] 64)), by decide +kernel, by decide +kernel, ok_is (by decide +kernel), okGet_eq (by decide +kernel), by decide +kernel, by decide +kernel, by decide +kernel, by decide +kernel, by decide +kernel, okGet_eq (by decide +kernel), by decide +kernel⟩,
   ⟨(5), (0), (desc 0x0B 0 []), (fly (desc 0x0B 0 [])), by decide +kernel⟩,
   ⟨(5), (5), (1), ({ desc 0x0C 1 [5#64, 0#64] with index := 1, named := some 5 }), (desc 6 0 [0x2000#64, 0x3000#64] 64), ({ up with flight := [desc 6 0 [0x2000#64, 0x3000#64] 64, { desc 0x0C 1 [5#64, 0#64] with index := 1, named := some 5 }] }), by decide +kernel⟩⟩

theorem witness_ProgramSlots :
  (∃ q : Nat, ∃ a : Nat, ∃ i : BitVec 32, ∃ rd : HostRead, ∃ d : Desc, ∃ r : ReadRes, ∃ s : State, stationDesc s q i 0x0C 2 = some d ∧ bodyOk d.cur [allBits, maskOf 5 0] = true ∧ fld (d.w 3) 5 0 ≠ 0 ∧ d.len % 64 = 0 ∧ d.len ≠ 0 ∧ slotInUse s d.owner (fld (d.w 3) 5 0) = false ∧ locate s d.owner (d.w 2) (occupied s d.owner (d.w 2) d.len) false = .ok (.host a) ∧ readLoc s d 2 rd (.host a) d.len 1 = .ok r ∧ r.poison = false ∧ 64 * (fld (wd (toWords 1 r.bytes) 0) 5 0 + 1) = d.len ∧ programOk r.bytes = true) ∧
  (∃ q : Nat, ∃ i : BitVec 32, ∃ d : Desc, ∃ s : State, stationDesc s q i 0x0C 3 = some d ∧ bodyOk d.cur [0#64, maskOf 5 0] = true ∧ fld (d.w 3) 5 0 ≠ 0 ∧ d.len = 0 ∧ slotInUse s d.owner (fld (d.w 3) 5 0) = false) ∧
  (∃ q : Nat, ∃ i : BitVec 32, ∃ d : Desc, ∃ s : State, stationDesc s q i 0x0C 3 = some d ∧ bodyOk d.cur [0#64, maskOf 5 0] = true ∧ fld (d.w 3) 5 0 ≠ 0 ∧ d.len = 0 ∧ slotInUse s d.owner (fld (d.w 3) 5 0) = false) :=
  ⟨(by refine ⟨(5), (0x2000), (0), ({}), (desc 0x0C 2 [0x2000#64, 63#64] 128), _, ({ fly (desc 0x0C 2 [0x2000#64, 63#64] 128) with host := Memory.writeBytes [] 0x2000 (leBytes 64 1 ++ ofWords [put 63 56 6 ||| put 55 52 1, put 63 48 0xFFFF]) }), ?_, ?_, ?_, ?_, ?_, ?_, ok_is (by decide +kernel), okGet_eq (by decide +kernel), ?_⟩ <;> decide +kernel),
   ⟨(5), (0), (desc 0x0C 3 [0#64, 1#64]), (fly (desc 0x0C 3 [0#64, 1#64])), by decide +kernel⟩,
   ⟨(5), (0), (desc 0x0C 3 [0#64, 63#64]), (fly (desc 0x0C 3 [0#64, 63#64])), by decide +kernel⟩⟩

theorem witness_RingRegisters :
  (∃ o : Owner, ∃ c : Nat, ∃ s : State, ∃ r : State, pageOpen s o = true ∧ (getRing s o (getOwner s o).ringSel).state = .disabled ∧ enableCause s o (getOwner s o).ringSel = none ∧ takeContext (startWatches s o) o false (getOwner s o).ringSel = some (c, r)) ∧
  (∃ o : Owner, ∃ s : State, pageOpen s o = true ∧ (getRing s o (getOwner s o).ringSel).enabled = true ∧ cfgKind (getRing s o (getOwner s o).ringSel).inCfg ≠ .completion ∧ ringBusy s o (getOwner s o).ringSel = false) ∧
  (∃ o : Owner, ∃ s : State, pageOpen s o = true ∧ (getRing s o (getOwner s o).ringSel).enabled = true ∧ cfgKind (getRing s o (getOwner s o).ringSel).inCfg ≠ .completion ∧ ringBusy s o (getOwner s o).ringSel = true) ∧
  (∃ o : Owner, ∃ k : Nat, ∃ s : State, pageOpen s o = true ∧ k = (getOwner s o).ringSel ∧ (getRing s o k).state = .error ∧ ringBusy s o k = false) ∧
  (∃ o : Owner, ∃ s : State, o.idx < s.owners.length) ∧
  (∃ o : Owner, ∃ v : Word, ∃ k : Nat, ∃ s : State, pageOpen s o = true ∧ (getOwner s o).ringSel = k ∧ (getRing s o k).state = .orphaned ∧ (getRing s o k).closing = false ∧ cfgKind (getRing s o k).inCfg = .chime ∧ cfgGen v ≠ cfgGen (getRing s o k).inCfg ∧ (v &&& cfgMask &&& ~~~(maskOf 39 24)) = ((getRing s o k).inCfg &&& cfgMask &&& ~~~(maskOf 39 24))) :=
  ⟨⟨(.part 0), _, (modRing (modOwner up (.part 0) fun x => { x with ringSel := 3 }) (.part 0) 3 fun r => { r with cfg := cfgChime ||| put 48 40 3 }), _, by decide +kernel, by decide +kernel, by decide +kernel, someGet_eq (by decide +kernel)⟩,
   ⟨(.part 0), (modOwner up (.part 0) fun x => { x with ringSel := 1 }), by decide +kernel⟩,
   ⟨(.part 0), (modOwner (fly (desc 6 0 [])) (.part 0) fun x => { x with ringSel := 1 }), by decide +kernel⟩,
   ⟨(.part 0), (1), (modRing (modOwner up (.part 0) fun x => { x with ringSel := 1 }) (.part 0) 1 fun r => { r with state := .error }), by decide +kernel⟩,
   ⟨(.part 0), (up), by decide +kernel⟩,
   ⟨(.part 0), (cfgChime ||| put 39 24 2), (2), (modRing (modOwner up (.part 0) fun x => { x with ringSel := 2 }) (.part 0) 2 fun r => { r with state := .orphaned }), by decide +kernel⟩⟩

theorem witness_RegisterAccess :
  (∃ o : Owner, ∃ off : Nat, ∃ s : State, barReached s o false = true ∧ pageOpen s o = true ∧ off % 8 = 0 ∧ narrowReg false off = false) ∧
  (∃ o : Owner, ∃ off : Nat, ∃ s : State, barReached s o true = true ∧ off % 8 = 0) ∧
  (∃ o : Owner, ∃ off : Nat, ∃ s : State, barReached s o false = true ∧ pageOpen s o = true ∧ off % 8 = 0 ∧ narrowReg false off = false) ∧
  (∃ o : Owner, ∃ off : Nat, ∃ low : Nat, ∃ s : State, barReached s o false = true ∧ pageOpen s o = true ∧ off % 8 = 0 ∧ narrowReg false (off + 4) = false ∧ lookup? (getOwner s o).lowHalf off = some low) ∧
  (∃ o : Owner, ∃ s : State, ((getOwner s o).rings.any fun e => e.2.state == .active || e.2.state == .stalled) = false) ∧
  (∃ o : Owner, ∃ off : Nat, ∃ s : State, barReached s o false = true ∧ scrubbing s o = false ∧ off % 8 = 0 ∧ narrowReg false off = false) :=
  ⟨⟨(.part 0), (0x40), (up), by decide +kernel⟩,
   ⟨(.fm), (0), (up), by decide +kernel⟩,
   ⟨(.part 0), (0), (up), by decide +kernel⟩,
   ⟨(.part 0), (0), (5), (modOwner up (.part 0) fun x => { x with lowHalf := [(0, 5)] }), by decide +kernel⟩,
   ⟨(.part 1), (up), by decide +kernel⟩,
   ⟨(.fm), (0), (up), by decide +kernel⟩⟩

theorem witness_SetupRegisters :
  (∃ p : Fin 16, ∃ s : State, pageOpen s (.part p) = true) ∧
  (∃ p : Fin 16, ∃ k : Nat, ∃ s : State, pageOpen s (.part p) = true ∧ k < 8) ∧
  (∃ p : Fin 16, ∃ k : Nat, ∃ s : State, pageOpen s (.part p) = true ∧ k < 8) ∧
  (∃ o : Owner, ∃ v : Nat, ∃ s : State, mailboxUp s = true ∧ v < 64 ∧ scrubbing s o = false) ∧
  (∃ b : Nat, ∃ s : State, mailboxUp s = true ∧ b < 256 ∧ (getBlock s b).valid = true ∧ lockedPart s (getBlock s b).part = false) ∧
  (∃ b : Nat, ∃ s : State, (getBlock s b).busy = true) ∧
  (∃ d : Nat, ∃ s : State, mailboxUp s = true ∧ d < 8) ∧
  (∃ p : Fin 16, ∃ s : State, mailboxUp s = true ∧ (getPart s p.val).live = true ∧ (getPart s p.val).state ≠ .scrubbing ∧ (getFlash s p.val).spill = []) :=
  ⟨⟨(0), (up), by decide +kernel⟩,
   ⟨(0), (0), (up), by decide +kernel⟩,
   ⟨(0), (7), (up), by decide +kernel⟩,
   ⟨(.fm), (63), (up), by decide +kernel⟩,
   ⟨(255), (modBlock up 255 fun x => { x with valid := true }), by decide +kernel⟩,
   ⟨(0), (modBlock up 0 fun x => { x with busy := true }), by decide +kernel⟩,
   ⟨(7), (up), by decide +kernel⟩,
   ⟨(0), (up), by decide +kernel⟩⟩

theorem witness_MailboxQuestions :
  (∃ o : Owner, ∃ a : Owner, ∃ m : MboxMsg, ∃ s : State, Heard s o 1 m .any m.body.isEmpty a) ∧
  (∃ o : Owner, ∃ a : Owner, ∃ m : MboxMsg, ∃ s : State, Heard s o 2 m .any m.body.isEmpty a) ∧
  (∃ o : Owner, ∃ a : Owner, ∃ m : MboxMsg, ∃ s : State, Heard s o 3 m .any (m.body.length == 8) a ∧ 0 < m.at_ 4 ∧ m.at_ 4 ≤ 127 ∧ m.at_ 5 = 0 ∧ m.at_ 6 = 0 ∧ m.at_ 7 = 0) ∧
  (∃ o : Owner, ∃ a : Owner, ∃ m : MboxMsg, ∃ s : State, Heard s o 3 m .any (m.body.length == 8) a ∧ 0 < m.at_ 4 ∧ m.at_ 4 ≤ 127 ∧ m.at_ 5 = 0 ∧ m.at_ 6 = 0 ∧ m.at_ 7 = 0) ∧
  (∃ o : Owner, ∃ a : Owner, ∃ m : MboxMsg, ∃ r : Ring, ∃ s : State, Heard s o 0x40 m .any (m.body.length == 2) a ∧ ofLe m.body < 16384 ∧ judgeContext s a (ofLe m.body) [.submission, .completion, .chime] = none ∧ r = getRing s a (contextSlot s (ofLe m.body))) ∧
  (∃ o : Owner, ∃ a : Owner, ∃ m : MboxMsg, ∃ s : State, Heard s o 0x34 m .manager m.body.isEmpty a) :=
  ⟨⟨(.part 0), (.part 0), ({}), (up), heard_of (by decide +kernel)⟩,
   ⟨(.part 0), (.part 0), ({}), (up), heard_of (by decide +kernel)⟩,
   ⟨(.part 0), (.part 0), ({ body := [0, 0, 0, 0, 1, 0, 0, 0] }), (up), heard_of (by decide +kernel), by decide +kernel⟩,
   ⟨(.part 0), (.part 0), ({ body := [0, 0, 0, 0, 127, 0, 0, 0] }), (up), heard_of (by decide +kernel), by decide +kernel⟩,
   ⟨(.part 0), (.part 0), ({ body := [5, 0] }), _, (up), heard_of (by decide +kernel), by decide +kernel, by decide +kernel, rfl⟩,
   ⟨(.fm), (.fm), ({}), (up), heard_of (by decide +kernel)⟩⟩

theorem witness_FirmwareRequests :
  (∃ o : Owner, ∃ a : Owner, ∃ m : MboxMsg, ∃ s : State, Heard s o 0x30 m .manager (decide (9 ≤ m.body.length ∧ m.body.length ≤ 4008)) a ∧ 1 ≤ m.at_ 0 ∧ m.at_ 0 ≤ 5 ∧ m.at_ 1 = 0 ∧ m.at_ 2 = 0 ∧ m.at_ 3 = 0 ∧ ofLe (slice m.body 4 4) + (m.body.drop 8).length ≤ stagingArea (m.at_ 0) ∧ s.fw.buffer = true) ∧
  (∃ o : Owner, ∃ a : Owner, ∃ m : MboxMsg, ∃ s : State, Heard s o 0x30 m .manager (decide (9 ≤ m.body.length ∧ m.body.length ≤ 4008)) a ∧ 1 ≤ m.at_ 0 ∧ m.at_ 0 ≤ 5 ∧ m.at_ 1 = 0 ∧ m.at_ 2 = 0 ∧ m.at_ 3 = 0 ∧ ofLe (slice m.body 4 4) + (m.body.drop 8).length ≤ stagingArea (m.at_ 0) ∧ s.fw.buffer = true) ∧
  (∃ o : Owner, ∃ a : Owner, ∃ m : MboxMsg, ∃ s : State, Heard s o 0x31 m .manager (m.body.length == 1) a ∧ 0 < m.at_ 0 ∧ m.at_ 0 ≤ 31 ∧ s.fw.op = none) ∧
  (∃ o : Owner, ∃ a : Owner, ∃ m : MboxMsg, ∃ s : State, Heard s o 0x31 m .manager (m.body.length == 1) a ∧ 0 < m.at_ 0 ∧ m.at_ 0 ≤ 31 ∧ s.fw.op = none) ∧
  (∃ o : Owner, ∃ a : Owner, ∃ m : MboxMsg, ∃ s : State, Heard s o 0x32 m .manager (m.body.length == 1) a ∧ 0 < m.at_ 0 ∧ m.at_ 0 ≤ 31 ∧ s.fw.op = none) ∧
  (∃ o : Owner, ∃ a : Owner, ∃ m : MboxMsg, ∃ s : State, Heard s o 0x32 m .manager (m.body.length == 1) a ∧ 0 < m.at_ 0 ∧ m.at_ 0 ≤ 31 ∧ s.fw.op = none) ∧
  (∃ o : Owner, ∃ a : Owner, ∃ m : MboxMsg, ∃ s : State, Heard s o 0x33 m .manager (m.body.length == 2) a ∧ 0 < m.at_ 0 ∧ m.at_ 0 ≤ 31 ∧ m.at_ 1 ≤ 1 ∧ s.fw.op = none ∧ (verifiedImages s (kindsOf (m.at_ 0))).length = (kindsOf (m.at_ 0)).length) ∧
  (∃ o : Owner, ∃ a : Owner, ∃ m : MboxMsg, ∃ s : State, Heard s o 0x35 m .manager m.body.isEmpty a ∧ s.fw.op = none) :=
  ⟨⟨(.fm), (.fm), ({ body := [5, 0, 0, 0, 255, 255, 79, 0, 0] }), ({ up with fw := { up.fw with buffer := true } }), heard_of (by decide +kernel), by decide +kernel⟩,
   ⟨(.fm), (.fm), ({ body := [1, 0, 0, 0, 0, 0, 0, 0, 7] }), ({ up with fw := { up.fw with buffer := true } }), heard_of (by decide +kernel), by decide +kernel⟩,
   ⟨(.fm), (.fm), ({ body := [1] }), (up), heard_of (by decide +kernel), by decide +kernel⟩,
   ⟨(.fm), (.fm), ({ body := [31] }), (up), heard_of (by decide +kernel), by decide +kernel⟩,
   ⟨(.fm), (.fm), ({ body := [1] }), (up), heard_of (by decide +kernel), by decide +kernel⟩,
   ⟨(.fm), (.fm), ({ body := [31] }), (up), heard_of (by decide +kernel), by decide +kernel⟩,
   ⟨(.fm), (.fm), ({ body := [31, 1] }), ({ up with fw := { up.fw with staging := List.replicate 5 { state := .verified, image := some { kind := 1 } } } }), heard_of (by decide +kernel), by decide +kernel⟩,
   ⟨(.fm), (.fm), ({ body := [] }), (up), heard_of (by decide +kernel), by decide +kernel⟩⟩

theorem witness_FirmwareOperations :
  (∃ ok : List Nat, ∃ op : FwOp, ∃ judge : Nat → Option (Nat × Nat), ∃ s : State, s.fw.op = some op ∧ op.typ = 0x31 ∧ judge = (fun k => imageBad s (parseImage k (getStaging s k).bytes (ok.contains k && (getStaging s k).used)))) ∧
  (∃ ok : List Nat, ∃ op : FwOp, ∃ judge : Nat → Option (Nat × Nat), ∃ s : State, s.fw.op = some op ∧ op.typ = 0x31 ∧ judge = (fun k => imageBad s (parseImage k (getStaging s k).bytes (ok.contains k && (getStaging s k).used)))) ∧
  (∃ op : FwOp, ∃ s : State, s.fw.op = some op ∧ op.typ = 0x33) ∧
  (∃ op : FwOp, ∃ s : State, s.fw.op = some op ∧ op.typ = 0x35) ∧
  (∃ e : Nat × Nat, ∃ op : FwOp, ∃ s : State, s.fw.op = some op ∧ op.typ = 0x32 ∧ op.switched = [] ∧ (s.fw.procs.any fun p => p.paused.isSome) = false ∧ op.kinds.findSome? (activateBad s op) = some e) ∧
  (∃ x : Nat, ∃ t : Nat, ∃ rest : List Nat, ∃ op : FwOp, ∃ s : State, s.fw.op = some op ∧ op.typ = 0x32 ∧ (op.switched = [] → op.kinds.findSome? (activateBad s op) = none) ∧ op.todo = x :: rest ∧ (s.fw.procs.getD x {}).paused = none ∧ (s.fw.procs.getD x {}).restarting = false ∧ (s.fw.procs.getD x {}).fenced = false ∧ op.notBefore ≤ t) ∧
  (∃ x : Nat, ∃ t : Nat, ∃ b : Nat, ∃ rest : List Nat, ∃ op : FwOp, ∃ s : State, s.fw.op = some op ∧ op.typ = 0x32 ∧ op.todo = x :: rest ∧ x < s.fw.procs.length ∧ (s.fw.procs.getD x {}).paused = some b ∧ t ≤ b) ∧
  (∃ x : Nat, ∃ t : Nat, ∃ b : Nat, ∃ rest : List Nat, ∃ op : FwOp, ∃ s : State, s.fw.op = some op ∧ op.todo = x :: rest ∧ (s.fw.procs.getD x {}).paused = some b ∧ b < t) :=
  ⟨⟨([1]), ({ typ := 0x31, kinds := [1] }), _, ({ up with fw := { up.fw with op := some { typ := 0x31, kinds := [1] } } }), by decide +kernel, by decide +kernel, rfl⟩,
   ⟨([1]), ({ typ := 0x31, kinds := [5] }), _, ({ up with fw := { up.fw with op := some { typ := 0x31, kinds := [5] } } }), by decide +kernel, by decide +kernel, rfl⟩,
   ⟨({ typ := 0x33, kinds := [1], images := [{ kind := 1 }], slot := 1 }), ({ up with fw := { up.fw with op := some { typ := 0x33, kinds := [1], images := [{ kind := 1 }], slot := 1 } } }), by decide +kernel⟩,
   ⟨({ typ := 0x35, kinds := [] }), ({ up with fw := { up.fw with op := some { typ := 0x35, kinds := [] } } }), by decide +kernel⟩,
   ⟨_, ({ typ := 0x32, kinds := [1] }), ({ up with fw := { up.fw with op := some { typ := 0x32, kinds := [1] } } }), by decide +kernel, by decide +kernel, by decide +kernel, by decide +kernel, someGet_eq (by decide +kernel)⟩,
   ⟨(2), (0), ([]), ({ typ := 0x32, kinds := [], todo := [2] }), ({ up with fw := { up.fw with op := some { typ := 0x32, kinds := [], todo := [2] } } }), by decide +kernel, by decide +kernel, (fun _ => by decide +kernel), by decide +kernel⟩,
   ⟨(2), (9), (9), ([3]), ({ typ := 0x32, kinds := [], todo := [2, 3] }), ({ up with fw := { up.fw with procs := up.fw.procs.set 2 { paused := some 9 }, op := some { typ := 0x32, kinds := [], todo := [2, 3] } } }), by decide +kernel⟩,
   ⟨(2), (10), (9), ([]), ({ typ := 0x32, kinds := [], todo := [2] }), ({ up with fw := { up.fw with procs := up.fw.procs.set 2 { paused := some 9 }, op := some { typ := 0x32, kinds := [], todo := [2] } } }), by decide +kernel⟩⟩

theorem witness_WatchdogsAndHeartbeats :
  (∃ x : Nat, ∃ s : State, (x = 0 ∨ (18 ≤ x ∧ x < 24)) ∧ procFitted s x = true ∧ x < s.fw.procs.length ∧ (s.fw.procs.getD x {}).fenced = false ∧ (s.fw.procs.getD x {}).image.isSome = true ∧ s.timeOn = true ∧ (s.fw.procs.getD x {}).expiries = []) ∧
  (∃ x : Nat, ∃ s : State, (x = 0 ∨ (18 ≤ x ∧ x < 24)) ∧ procFitted s x = true ∧ x < s.fw.procs.length ∧ (s.fw.procs.getD x {}).fenced = false ∧ (s.fw.procs.getD x {}).image.isSome = true ∧ s.timeOn = true ∧ (s.fw.procs.getD x {}).expiries = []) ∧
  (∃ x : Nat, ∃ s : State, (s.fw.procs.getD x {}).restarting = true ∧ x < s.fw.procs.length) ∧
  (∃ o : Owner, ∃ stores : List Host.Cell, ∃ t : Nat, ∃ ns : Nat, ∃ n : Nat, ∃ s : State, heartbeatNs (getOwner s o) = some ns ∧ ((getOwner s o).rings.any fun e => e.2.enabled) = true ∧ (getOwner s o).hbNext ≤ t ∧ s.cxl.linkUp = true ∧ scrubbing s o = false ∧ (getOwner s o).hbLost = false ∧ n = ofLe (Memory.readBytes (Memory.writeCells s.host stores) (fld (getOwner s o).hbAddr 56 3 * 8) 8) ∧ n ≠ (getOwner s o).hbCount) ∧
  (∃ o : Owner, ∃ t : Nat, ∃ ns : Nat, ∃ s : State, heartbeatNs (getOwner s o) = some ns ∧ ((getOwner s o).rings.any fun e => e.2.enabled) = true ∧ (getOwner s o).hbNext ≤ t ∧ s.cxl.linkUp = true ∧ scrubbing s o = false ∧ (getOwner s o).hbLost = false ∧ o.idx < s.owners.length ∧ bit (getOwner s o).hbCfg 16 = false ∧ (getOwner s o).hbChanged + ns ≤ (atTime s t).time) :=
  ⟨⟨(0), (up), .inl rfl, by decide +kernel⟩,
   ⟨(23), (up), .inr (by decide), by decide +kernel⟩,
   ⟨(23), ({ up with fw := { up.fw with procs := up.fw.procs.set 23 { restarting := true } } }), by decide +kernel⟩,
   ⟨(.part 0), ([⟨0x4000, 7⟩]), (0), _, (7), (modOwner up (.part 0) fun x => { x with hbAddr := 0x4000#64 }), someGet_eq (by decide +kernel), by decide +kernel⟩,
   ⟨(.part 0), (500000000), _, (modOwner up (.part 0) fun x => { x with hbAddr := 0x4000#64 }), someGet_eq (by decide +kernel), by decide +kernel⟩⟩

theorem witness_PartitionOperations :
  (∃ q : Nat, ∃ p : Nat, ∃ i : BitVec 32, ∃ rd : HostRead, ∃ d : Desc, ∃ r : ReadRes, ∃ s : State, stationDesc s q i 0x0C 0x30 = some d ∧ d.owner = .fm ∧ d.len = 0 ∧ p = fld (d.w 2) 3 0 ∧ bodyOk d.cur [maskOf 3 0, allBits] = true ∧ fld (d.w 3) 63 60 = 0 ∧ (getPart s p).state = .absent ∧ memActive s = true ∧ readIn s d 3 256 rd = .ok r ∧ r.poison = false ∧ definitionBad s (toWords 32 r.bytes) = false ∧ takenByOther s (toWords 32 r.bytes) = false ∧ (noIdentity s = false ∨ wd (toWords 32 r.bytes) 12 = 0#64) ∧ procAway s 0 = false ∧ belfryFenced s = false ∧ ((definedPchs (toWords 32 r.bytes)).any fun c => (List.range 3).any fun k => (getExt s (3 * c + k)).clearing || (getExt s (3 * c + k)).kind == .awaiting) = false ∧ storesShort s p (toWords 32 r.bytes) = false) ∧
  (∃ q : Nat, ∃ i : BitVec 32, ∃ d : Desc, ∃ s : State, stationDesc s q i 0x0C 0x32 = some d ∧ d.owner = .fm ∧ d.len = 0 ∧ bodyOk d.cur [maskOf 3 0] = true ∧ (getPart s (fld (d.w 2) 3 0)).state = .open_) ∧
  (∃ q : Nat, ∃ p : Nat, ∃ i : BitVec 32, ∃ d : Desc, ∃ s : State, stationDesc s q i 0x0C 0x31 = some d ∧ d.owner = .fm ∧ d.len = 0 ∧ bodyOk d.cur [maskOf 3 0] = true ∧ p = fld (d.w 2) 3 0 ∧ ((getPart s p).state = .open_ ∨ (getPart s p).state = .locked)) :=
  ⟨(by refine ⟨(5), (1), (0), ({}), (fm (desc 0x0C 0x30 [1#64, 0x2000#64])), _, ({ fly (fm (desc 0x0C 0x30 [1#64, 0x2000#64])) with host := Memory.writeBytes [] 0x2000 (ofWords ((((List.replicate 32 0#64).set 0 24#64).set 10 (put 63 48 2 ||| put 47 32 1)).set 11 (put 63 32 0xFFFFFFFF))) }), ?_, ?_, ?_, ?_, ?_, ?_, ?_, ?_, okGet_eq (by decide +kernel), ?_⟩ <;> decide +kernel),
   ⟨(5), (0), (fm (desc 0x0C 0x32 [])), (fly (fm (desc 0x0C 0x32 []))), by decide +kernel⟩,
   ⟨(5), (0), (0), (fm (desc 0x0C 0x31 [])), (fly (fm (desc 0x0C 0x31 []))), by decide +kernel⟩⟩

theorem witness_ScrubEnds :
  (∃ p : Fin 16, ∃ t : Nat, ∃ x : Scrub, ∃ s : State, (getPart s p.val).scrub = some x ∧ x.drained = false ∧ (framesLeft s p.val = false ∨ x.start + 2000000 ≤ t) ∧ p.val < s.parts.length) ∧
  (∃ p : Fin 16, ∃ t : Nat, ∃ x : Scrub, ∃ s : State, (getPart s p.val).scrub = some x ∧ x.drained = true ∧ (s.flight.any fun d => d.owner == .part p) = false ∧ findDesc (scrubSteps (atTime s t) p.val).1 x.ctx x.index = none) :=
  ⟨⟨(0), (0), _, (modPart up 0 fun x => { x with state := .scrubbing, scrub := some { ctx := 9, index := 0, start := 0, flushed := 0, drained := false } }), someGet_eq (by decide +kernel), by decide +kernel⟩,
   ⟨(0), (0), _, (modPart up 0 fun x => { x with state := .scrubbing, scrub := some { ctx := 9, index := 0, start := 0, flushed := 0, drained := true } }), someGet_eq (by decide +kernel), by decide +kernel⟩⟩

theorem witness_BelfryMessages :
  (∃ o : Owner, ∃ a : Owner, ∃ m : MboxMsg, ∃ s : State, Heard s o 0x10 m .any (m.body.length == 8) a ∧ belfryGate s a = none) ∧
  (∃ o : Owner, ∃ a : Owner, ∃ m : MboxMsg, ∃ t : Nat, ∃ s : State, Heard (atTime s t) o 0x11 m .any (m.body.length == 32) a ∧ belfryGate (atTime s t) a = none) ∧
  (∃ o : Owner, ∃ p : Fin 16, ∃ m : MboxMsg, ∃ t : Nat, ∃ s : State, Heard (atTime s t) o 0x12 m .any (m.body.length == 1096) (.part p) ∧ (getPart s p).live = true ∧ noIdentity s = false ∧ ofLe (slice m.body 4 4) = 0 ∧ lookup? s.belfry.sessions p.val = none ∧ (s.belfry.reports.any fun r => r.id == ofLe (slice m.body 0 4) && r.part == some p.val && decide ((atTime s t).time < r.made + 10000000000)) = true) ∧
  (∃ o : Owner, ∃ p : Fin 16, ∃ m : MboxMsg, ∃ x : Session, ∃ s : State, Heard s o 0x13 m .any (m.body.length == 68) (.part p) ∧ (getPart s p).live = true ∧ noIdentity s = false ∧ ofLe (slice m.body 4 4) = 0 ∧ lookup? s.belfry.sessions p.val = some x ∧ (∀ v, x.lastIv = some v → v < ofBe (slice m.body 8 12)) ∧ (s.belfry.handles.filter fun h => h.2.part == p.val).length < 4096) ∧
  (∃ o : Owner, ∃ p : Fin 16, ∃ m : MboxMsg, ∃ h : KeyHandle, ∃ s : State, Heard s o 0x14 m .any (m.body.length == 4) (.part p) ∧ (getPart s p).live = true ∧ noIdentity s = false ∧ lookup? s.belfry.handles (ofLe (slice m.body 0 4)) = some h ∧ h.part = p.val) ∧
  (∃ n : Nat, ∃ t : Nat, ∃ r : Report, ∃ s : State, (s.belfry.reports.find? fun r => r.id == n) = some r ∧ r.made + 10000000000 ≤ t) :=
  ⟨⟨(.part 0), (.part 0), ({ body := List.replicate 8 0 }), (up), heard_of (by decide +kernel), by decide +kernel⟩,
   ⟨(.part 0), (.part 0), ({ body := List.replicate 32 0 }), (0), (up), heard_of (by decide +kernel), by decide +kernel⟩,
   ⟨(.part 0), (0), ({ body := List.replicate 1096 0 }), (0), ({ up with belfry := { up.belfry with reports := [⟨0, 0, some 0, 1000000⟩] } }), heard_of (by decide +kernel), by decide +kernel⟩,
   ⟨(.part 0), (0), ({ body := List.replicate 68 0 }), ({ secret := [] }), ({ up with belfry := { up.belfry with sessions := [(0, { secret := [] })] } }), heard_of (by decide +kernel), by decide +kernel, by decide +kernel, by decide +kernel, by decide +kernel, (fun v e => by cases e), by decide +kernel⟩,
   ⟨(.part 0), (0), ({ body := [1, 0, 0, 0] }), (⟨0, [], 0⟩), ({ up with belfry := { up.belfry with handles := [(1, ⟨0, [], 0⟩)] } }), heard_of (by decide +kernel), by decide +kernel⟩,
   ⟨(0), (10001000000), (⟨0, 0, some 0, 1000000⟩), ({ up with belfry := { up.belfry with reports := [⟨0, 0, some 0, 1000000⟩] } }), by decide +kernel⟩⟩

theorem witness_PortFrames :
  (∃ p : Nat, ∃ k : Nat, ∃ mac : Option Nat, ∃ f : Frame, ∃ s : State, linkLive s p f.link = true ∧ s.ports.nodeValid = true ∧ f.cls < 8 ∧ ¬(inPrefix s f.dstAddr = true ∧ nodeOf f.dstAddr = s.ports.nodeId) ∧ f.bytes ≤ frameMax ∧ lossless s f.cls = false ∧ forwardTo s p f = .ok (k, mac)) ∧
  (∃ p : Nat, ∃ k : Nat, ∃ mac : Option Nat, ∃ f : Frame, ∃ s : State, linkLive s p f.link = true ∧ s.ports.nodeValid = true ∧ f.cls < 8 ∧ ¬(inPrefix s f.dstAddr = true ∧ nodeOf f.dstAddr = s.ports.nodeId) ∧ f.bytes ≤ frameMax ∧ lossless s f.cls = true ∧ ((getLink s p f.link).pauseOf f.cls).ownExpired = false ∧ forwardTo s p f = .ok (k, mac)) ∧
  (∃ p : Nat, ∃ f : Frame, ∃ s : State, linkLive s p f.link = true ∧ s.ports.nodeValid = true ∧ f.cls < 8 ∧ ¬(inPrefix s f.dstAddr = true ∧ nodeOf f.dstAddr = s.ports.nodeId) ∧ frameMax < f.bytes) ∧
  (∃ p : Nat, ∃ f : Frame, ∃ s : State, linkLive s p f.link = true ∧ s.ports.nodeValid = true ∧ f.cls < 8 ∧ ¬(inPrefix s f.dstAddr = true ∧ nodeOf f.dstAddr = s.ports.nodeId) ∧ f.bytes ≤ frameMax ∧ lossless s f.cls = true ∧ ((getLink s p f.link).pauseOf f.cls).ownExpired = true) ∧
  (∃ p : Nat, ∃ c : Nat, ∃ f : Frame, ∃ s : State, linkLive s p f.link = true ∧ s.ports.nodeValid = true ∧ f.cls < 8 ∧ ¬(inPrefix s f.dstAddr = true ∧ nodeOf f.dstAddr = s.ports.nodeId) ∧ f.bytes ≤ frameMax ∧ lossless s f.cls = false ∧ forwardTo s p f = .error c) ∧
  (∃ p : Nat, ∃ k : Nat, ∃ cls : Nat, ∃ t : Nat, ∃ f : Frame, ∃ q : List Frame, ∃ s : State, (getLink s p k).queues.getD cls [] = q ∧ q[nextFrame s cls q]? = some f ∧ linkLive s p k = true ∧ (if f.peerMac.isSome then foreignLinkUp s k else linkUsable s p k) = true ∧ s.ports.nodeValid = true ∧ (lossless s cls && ((getLink s p k).pauseOf cls).paused) = false ∧ ((shaperOf (getPort s p) f).filter fun j => bit ((getPort s p).shapersInForce.getD j 0#64) 63) = none ∧ gateAllows (getPort s p) f (max s.time t) = true ∧ (cls = 6 ∨ (getLink s p k).queues.getD 6 [] = [])) ∧
  (∃ p : Nat, ∃ k : Nat, ∃ cls : Nat, ∃ t : Nat, ∃ f : Frame, ∃ q : List Frame, ∃ s : State, (getLink s p k).queues.getD cls [] = q ∧ q[nextFrame s cls q]? = some f ∧ linkLive s p k = true ∧ (if f.peerMac.isSome then foreignLinkUp s k else linkUsable s p k) = true ∧ s.ports.nodeValid = true ∧ (lossless s cls && ((getLink s p k).pauseOf cls).paused) = false ∧ ((shaperOf (getPort s p) f).filter fun j => bit ((getPort s p).shapersInForce.getD j 0#64) 63) = none ∧ gateAllows (getPort s p) f (max s.time t) = true ∧ (cls = 6 ∨ (getLink s p k).queues.getD 6 [] = [])) ∧
  (∃ p : Nat, ∃ k : Nat, ∃ cls : Nat, ∃ t : Nat, ∃ j : Nat, ∃ f : Frame, ∃ q : List Frame, ∃ s : State, (getLink s p k).queues.getD cls [] = q ∧ q[nextFrame s cls q]? = some f ∧ linkLive s p k = true ∧ (if f.peerMac.isSome then foreignLinkUp s k else linkUsable s p k) = true ∧ s.ports.nodeValid = true ∧ (lossless s cls && ((getLink s p k).pauseOf cls).paused) = false ∧ shaperOf (getPort s p) f = some j ∧ bit ((getPort s p).shapersInForce.getD j 0#64) 63 = true ∧ 16 ≤ (getLink s p k).tokens.getD j 0 ∧ gateAllows (getPort s p) f (max s.time t) = true ∧ (cls = 6 ∨ (getLink s p k).queues.getD 6 [] = [])) ∧
  (∃ cls : Nat, ∃ s : State, ¬(s.power.mode = .absorb ∧ lossless s cls = true)) ∧
  (∃ cls : Nat, ∃ f : Frame, ∃ g : Frame, ∃ s : State, s.power.mode = .absorb ∧ lossless s cls = true ∧ f.step = false ∧ g.step = true ∧ f.dstAddr ≠ g.dstAddr) ∧
  (∃ p : Nat, ∃ k : Nat, ∃ s : State, linkLive s p k = true) :=
  ⟨(by refine ⟨(0), (0), (some 0), ({ cls := 0, source := 0, dstAddr := 2 ^ 65, bytes := 100 }), ({ netUp with ports := { netUp.ports with foreign := [(0, { live := some (2 ^ 65, 5, 0, 0) })] } }), ?_, ?_, ?_, ?_, ?_, ?_, ok_is (by decide +kernel)⟩ <;> decide +kernel),
   (by refine ⟨(0), (0), (some 0), ({ cls := 3, source := 0, dstAddr := 2 ^ 65, bytes := 100 }), ({ netUp with ports := { netUp.ports with foreign := [(0, { live := some (2 ^ 65, 5, 0, 0) })] } }), ?_, ?_, ?_, ?_, ?_, ?_, ?_, ok_is (by decide +kernel)⟩ <;> decide +kernel),
   ⟨(0), ({ cls := 0, source := 0, dstAddr := 2 ^ 65, bytes := frameMax + 1 }), (netUp), by decide +kernel⟩,
   ⟨(0), ({ cls := 3, source := 0, dstAddr := 2 ^ 65, bytes := 100 }), (modLink (netUp) 0 0 fun l => { l with pause := (List.replicate 8 {}).set 3 { ownExpired := true } }), by decide +kernel⟩,
   (by refine ⟨(0), (3), ({ cls := 0, source := 0, dstAddr := 2 ^ 65, bytes := 100 }), (netUp), ?_, ?_, ?_, ?_, ?_, ?_, err_is (by decide +kernel)⟩ <;> decide +kernel),
   ⟨(0), (0), (0), (0), ({ cls := 0, source := 0, bytes := 100 }), ([{ cls := 0, source := 0, bytes := 100 }]), (modLink (netUp) 0 0 fun l => { l with queues := (List.replicate 8 []).set 0 [{ cls := 0, source := 0, bytes := 100 }] }), by decide +kernel⟩,
   ⟨(0), (0), (6), (0), ({ cls := 6, source := 0, bytes := 100 }), ([{ cls := 6, source := 0, bytes := 100 }]), (modLink (netUp) 0 0 fun l => { l with queues := (List.replicate 8 []).set 6 [{ cls := 6, source := 0, bytes := 100 }] }), by decide +kernel⟩,
   ⟨(0), (0), (0), (0), (3), ({ cls := 0, source := 0, bytes := 100 }), ([{ cls := 0, source := 0, bytes := 100 }]), (modPort (modLink (netUp) 0 0 fun l => { l with queues := (List.replicate 8 []).set 0 [{ cls := 0, source := 0, bytes := 100 }], tokens := List.replicate 32 16 }) 0 fun y => { y with shapersInForce := (List.replicate 32 0#64).set 3 (put 63 63 1), map := (List.replicate 136 0).set 0 131 }), by decide +kernel⟩,
   ⟨(0), (up), by decide +kernel⟩,
   ⟨(3), ({ cls := 3, source := 0, bytes := 100 }), ({ cls := 3, source := 0, bytes := 100, dstAddr := 1, step := true }), ({ up with power := { up.power with mode := .absorb } }), by decide +kernel⟩,
   ⟨(0), (0), (netUp), by decide +kernel⟩⟩

theorem witness_PauseRules :
  (∃ p : Nat, ∃ k : Nat, ∃ cls : Nat, ∃ s : State, linkLive s p k = true ∧ s.ports.nodeValid = true ∧ lossless s cls = true) ∧
  (∃ p : Nat, ∃ k : Nat, ∃ cls : Nat, ∃ s : State, linkLive s p k = true ∧ s.ports.nodeValid = true ∧ lossless s cls = false) ∧
  (∃ p : Nat, ∃ k : Nat, ∃ cls : Nat, ∃ t : Nat, ∃ s : State, ((getLink s p k).pauseOf cls).paused = true ∧ ((getLink s p k).pauseOf cls).until_ ≤ t) ∧
  (∃ p : Nat, ∃ k : Nat, ∃ cls : Nat, ∃ s : State, linkLive s p k = true ∧ s.ports.nodeValid = true ∧ ((getLink s p k).pauseOf cls).own = true ∧ 65536 < ((getLink s p k).pauseOf cls).ingress) ∧
  (∃ p : Nat, ∃ k : Nat, ∃ cls : Nat, ∃ n : Nat, ∃ t : Nat, ∃ s : State, pauseLimit s = some n ∧ s.ports.nodeValid = true ∧ ((getLink s p k).pauseOf cls).own = true ∧ ((getLink s p k).pauseOf cls).ownSince + n ≤ t) ∧
  (∃ p : Nat, ∃ k : Nat, ∃ cls : Nat, ∃ n : Nat, ∃ t : Nat, ∃ s : State, pauseLimit s = some n ∧ lossless s cls = true ∧ ((getLink s p k).pauseOf cls).paused = true ∧ ((getLink s p k).pauseOf cls).since + n ≤ t ∧ (getLink s p k).down = false) :=
  ⟨⟨(0), (0), (3), (netUp), by decide +kernel⟩,
   ⟨(0), (0), (0), (netUp), by decide +kernel⟩,
   ⟨(0), (0), (3), (7), (modLink (netUp) 0 0 fun l => { l with pause := (List.replicate 8 {}).set 3 { paused := true, until_ := 7 } }), by decide +kernel⟩,
   ⟨(0), (0), (3), (modLink (netUp) 0 0 fun l => { l with pause := (List.replicate 8 {}).set 3 { own := true, ingress := 65537 } }), by decide +kernel⟩,
   ⟨(0), (0), (3), _, (100000000), (modLink (netUp) 0 0 fun l => { l with pause := (List.replicate 8 {}).set 3 { own := true } }), someGet_eq (by decide +kernel), by decide +kernel⟩,
   ⟨(0), (0), (3), _, (100000000), (modLink (netUp) 0 0 fun l => { l with pause := (List.replicate 8 {}).set 3 { paused := true } }), someGet_eq (by decide +kernel), by decide +kernel⟩⟩

theorem witness_DiscoveryAndLinks :
  (∃ p : Nat, ∃ k : Nat, ∃ s : State, linkExists s p k = true ∧ (getDom s (142 + p)).present = .on ∧ (getLink s p k).phyUp = false) ∧
  (∃ p : Nat, ∃ k : Nat, ∃ s : State, (getLink s p k).phyUp = true ∧ (getLink s p k).adjacent = false) ∧
  (∃ p : Nat, ∃ k : Nat, ∃ s : State, (getLink s p k).phyUp = true ∧ (getLink s p k).adjacent = true) ∧
  (∃ p : Nat, ∃ k : Nat, ∃ t : Nat, ∃ s : State, linkLive s p k = true ∧ (getLink s p k).lldpNext ≤ t ∧ procAway s (portProc s p) = false) ∧
  (∃ p : Nat, ∃ k : Nat, ∃ v : LldpTlv, ∃ s : State, linkLive s p k = true ∧ procAway s (portProc s p) = false ∧ v.version = 1 ∧ v.plane = p ∧ v.mode = (getPort s p).mode ∧ (v.nodeValid && s.ports.nodeValid && v.nodeId == s.ports.nodeId && v.identity != s.boot.fuses.identity) = false ∧ (getLink s p k).adjacent = false ∧ v.seen = s.boot.fuses.identity ∧ 0 < v.ttl) ∧
  (∃ p : Nat, ∃ k : Nat, ∃ v : LldpTlv, ∃ s : State, linkLive s p k = true ∧ procAway s (portProc s p) = false ∧ (v.version ≠ 1 ∨ v.plane ≠ p ∨ v.mode ≠ (getPort s p).mode) ∧ (getLink s p k).adjacent = false) ∧
  (∃ p : Nat, ∃ k : Nat, ∃ t : Nat, ∃ e : Nat, ∃ s : State, (getLink s p k).ttlEnd = some e ∧ e ≤ t ∧ procAway s (portProc s p) = false ∧ (getLink s p k).adjacent = false) ∧
  (∃ p : Nat, ∃ k : Nat, ∃ t : Nat, ∃ e : Nat, ∃ s : State, (getLink s p k).ttlEnd = some e ∧ e ≤ t ∧ procAway s (portProc s p) = false ∧ (getLink s p k).adjacent = true) ∧
  (∃ p : Nat, ∃ k : Nat, ∃ t : Nat, ∃ x : Nat, ∃ s : State, (getLink s p k).returning = some x ∧ (getLink s p k).sound = true ∧ x + 1000000000 ≤ t) ∧
  (∃ p : Nat, ∃ k : Nat, ∃ s : State, p < 8 ∧ k < 4 ∧ (getLink s p k).enabled = false) ∧
  (∃ p : Nat, ∃ k : Nat, ∃ s : State, p < 8 ∧ k < 4 ∧ (getLink s p k).enabled = false) ∧
  (∃ p : Nat, ∃ k : Nat, ∃ s : State, (getLink s p k).enabled = true) :=
  ⟨⟨(0), (0), (up), by decide +kernel⟩,
   ⟨(0), (0), (modLink (netUp) 0 0 fun l => { l with adjacent := false }), by decide +kernel⟩,
   ⟨(0), (0), (netUp), by decide +kernel⟩,
   ⟨(0), (0), (0), (netUp), by decide +kernel⟩,
   ⟨(0), (0), ({ identity := 7, nodeValid := true, nodeId := 6, plane := 0, link := 0, mode := 0, version := 1, seen := netUp.boot.fuses.identity, mac := 0, ttl := 4 }), (modLink (netUp) 0 0 fun l => { l with adjacent := false }), by decide +kernel⟩,
   ⟨(0), (0), ({ identity := 7, nodeValid := true, nodeId := 6, plane := 0, link := 0, mode := 0, version := 2, seen := netUp.boot.fuses.identity, mac := 0, ttl := 4 }), (modLink (netUp) 0 0 fun l => { l with adjacent := false }), by decide +kernel, by decide +kernel, .inl (by decide), by decide +kernel⟩,
   ⟨(0), (0), (4), (4), (modLink (netUp) 0 0 fun l => { l with adjacent := false, ttlEnd := some 4 }), by decide +kernel⟩,
   ⟨(0), (0), (4), (4), (modLink (netUp) 0 0 fun l => { l with ttlEnd := some 4 }), by decide +kernel⟩,
   ⟨(0), (0), (1000000000), (0), (modLink (netUp) 0 0 fun l => { l with returning := some 0 }), by decide +kernel⟩,
   ⟨(7), (3), (up), by decide +kernel⟩,
   ⟨(0), (0), (up), by decide +kernel⟩,
   ⟨(0), (0), (netUp), by decide +kernel⟩⟩

theorem witness_ShapersGatesTables :
  (∃ t : Nat, ∃ s : State, t % 1000 = 0 ∧ s.ports.lastRefill < t ∧ s.time ≤ t ∧ s.timeOn = true) ∧
  (∃ p : Nat, ∃ t : Nat, ∃ s : State, (getPort s p).active ≠ [] ∧ (getPort s p).entryStart + fld ((getPort s p).active.getD (getPort s p).entry 0#64) 31 0 ≤ t) ∧
  (∃ p : Nat, ∃ t : Nat, ∃ s : State, (getPort s p).pendState = .armed ∧ (getPort s p).due ≤ t) ∧
  (∃ p : Nat, ∃ c : Nat, ∃ s : State, p < 8 ∧ c < 64 ∧ ((getPort s p).pending.take (c + 1)).all (fun w => decide (100 ≤ fld w 31 0) && decide (fld w 31 0 ≤ 1000000000)) = true ∧ p < s.ports.ports.length) ∧
  (∃ p : Nat, ∃ c : Nat, ∃ s : State, p < 8 ∧ c < 64 ∧ ((getPort s p).pending.take (c + 1)).all (fun w => decide (100 ≤ fld w 31 0) && decide (fld w 31 0 ≤ 1000000000)) = true ∧ p < s.ports.ports.length) ∧
  (∃ p : Nat, ∃ c : Nat, ∃ s : State, p < 8 ∧ c < 64 ∧ ((getPort s p).pending.take (c + 1)).all (fun w => decide (100 ≤ fld w 31 0) && decide (fld w 31 0 ≤ 1000000000)) = false ∧ p < s.ports.ports.length) ∧
  (∃ p : Nat, ∃ c : Nat, ∃ s : State, p < 8 ∧ c < 64 ∧ ((getPort s p).pending.take (c + 1)).all (fun w => decide (100 ≤ fld w 31 0) && decide (fld w 31 0 ≤ 1000000000)) = false ∧ p < s.ports.ports.length) ∧
  (∃ p : Nat, p < 8) ∧
  (∃ s : State, s.ports.nodeValid = true) ∧
  (∃ s : State, s.ports.nodeValid = false) ∧
  (∃ n : Nat, n < 4096) ∧
  (∃ n : Nat, n < 4096) ∧
  (∃ e : Nat, ∃ v : Word, ∃ x : Foreign, ∃ s : State, e < 64 ∧ lookup? s.ports.foreign e = some x ∧ bit (v &&& (maskOf 63 63 ||| maskOf 59 48 ||| maskOf 1 0)) 63 = true) ∧
  (∃ e : Nat, ∃ v : Word, ∃ x : Foreign, ∃ s : State, e < 64 ∧ lookup? s.ports.foreign e = some x ∧ bit (v &&& (maskOf 63 63 ||| maskOf 59 48 ||| maskOf 1 0)) 63 = false) :=
  ⟨⟨(1000000), (netUp), by decide +kernel⟩,
   ⟨(0), (100), (modPort (netUp) 0 fun y => { y with active := [100#64] }), by decide +kernel⟩,
   ⟨(0), (5000), (modPort (netUp) 0 fun y => { y with pendState := .armed, due := 5000 }), by decide +kernel⟩,
   ⟨(0), (0), (modPort (netUp) 0 fun y => { y with pending := (List.replicate 64 0#64).set 0 100#64 }), by decide +kernel⟩,
   ⟨(7), (63), (modPort netUp 7 fun y => { y with pending := List.replicate 64 1000000000#64 }), by decide +kernel⟩,
   ⟨(0), (0), (modPort (netUp) 0 fun y => { y with pending := List.replicate 64 99#64 }), by decide +kernel⟩,
   ⟨(0), (63), (modPort (netUp) 0 fun y => { y with pending := List.replicate 64 1000000001#64 }), by decide +kernel⟩,
   ⟨(7), by decide +kernel⟩,
   ⟨(netUp), by decide +kernel⟩,
   ⟨(up), by decide +kernel⟩,
   ⟨(0), by decide +kernel⟩,
   ⟨(4095), by decide +kernel⟩,
   ⟨(63), (put 63 63 1), ({}), ({ netUp with ports := { netUp.ports with foreign := [(63, {})] } }), by decide +kernel⟩,
   ⟨(0), (0), ({}), ({ netUp with ports := { netUp.ports with foreign := [(0, {})] } }), by decide +kernel⟩⟩

theorem witness_MemRequests :
  (∃ ld : Fin 16, ∃ r : MemReq, ∃ d : Nat, ∃ e : Nat, ∃ off : Nat, ∃ w : Bool, ∃ u : State, ∃ s : State, memUp s ld.val = true ∧ (r.opcode = .memRd ∨ r.opcode = .memRdData) ∧ r.uncorrectable = false ∧ atLimit s ld.val false = false ∧ notYet s ld.val r false = false ∧ (getLd s ld.val).heldReqs.any (fun x => x.2.isSome == false) = false ∧ s.cxl.arriving.any (fun x => x.ld == ld.val && x.write.isSome == false) = false ∧ dpaOf (getLd s ld.val) r.addr = some d ∧ memTarget s ld.val (d / 64 * 64) = some (e, off, w) ∧ regionReads s e off 64 ≠ .refused ∧ domsOn s [84 + e / 96] = true ∧ u = countMem (atWork s [84 + e / 96]) ld.val false ∧ hbmPoisoned u e off 64 = false) ∧
  (∃ ld : Fin 16, ∃ r : MemReq, ∃ s : State, memUp s ld.val = true ∧ (r.opcode = .memInv ∨ r.opcode = .memInvNT) ∧ atLimit s ld.val false = false ∧ notYet s ld.val r false = false ∧ (getLd s ld.val).heldReqs.any (fun x => x.2.isSome == false) = false ∧ s.cxl.arriving.any (fun x => x.ld == ld.val && x.write.isSome == false) = false) ∧
  (∃ ld : Fin 16, ∃ r : MemReq, ∃ s : State, memUp s ld.val = true ∧ r.opcode = .memSpecRd ∧ atLimit s ld.val false = false ∧ notYet s ld.val r false = false ∧ (getLd s ld.val).heldReqs.any (fun x => x.2.isSome == false) = false ∧ s.cxl.arriving.any (fun x => x.ld == ld.val && x.write.isSome == false) = false) ∧
  (∃ ld : Fin 16, ∃ r : MemReq, ∃ d : Nat, ∃ e : Nat, ∃ off : Nat, ∃ data : List Byte, ∃ mask : List Bool, ∃ u : State, ∃ v : State, ∃ s : State, memUp s ld.val = true ∧ atLimit s ld.val true = false ∧ notYet s ld.val r true = false ∧ (getLd s ld.val).heldReqs.any (fun x => x.2.isSome == true) = false ∧ s.cxl.arriving.any (fun x => x.ld == ld.val && x.write.isSome == true) = false ∧ dpaOf (getLd s ld.val) r.addr = some d ∧ memTarget s ld.val (d / 64 * 64) = some (e, off, true) ∧ domsOn s [84 + e / 96] = true ∧ u = countMem (atWork s [84 + e / 96]) ld.val true ∧ ((List.range 64).all fun k => mask.getD k false) = true ∧ v = writeHbm u e off ((Memory.readBytes u.hbm (hbmAddr e off) 64).mapIdx fun k b => if mask.getD k false then data.getD k 0#8 else b)) ∧
  (∃ ld : Fin 16, ∃ r : MemReq, ∃ d : Nat, ∃ s : State, memUp s ld.val = true ∧ atLimit s ld.val true = false ∧ (getLd s ld.val).heldReqs.any (fun x => x.2.isSome == true) = false ∧ s.cxl.arriving.any (fun x => x.ld == ld.val && x.write.isSome == true) = false ∧ dpaOf (getLd s ld.val) r.addr = some d ∧ memTarget s ld.val (d / 64 * 64) = none) ∧
  (∃ ld : Fin 16, ∃ r : MemReq, ∃ s : State, memUp s ld.val = true ∧ r.opcode ≠ .memSpecRd ∧ notYet s ld.val r false = true ∧ queueFree s ld.val false = true ∧ (s.cxl.arriving.any fun x => x.ld == ld.val) = false) ∧
  (∃ ld : Fin 16, ∃ s : State, memUp s ld.val = true) ∧
  (∃ ld : Fin 16, ∃ s : State, memUp s ld.val = true) ∧
  (∃ ld : Fin 16, ∃ s : State, memUp s ld.val = true ∧ (getLd s ld.val).heldReqs ≠ []) :=
  ⟨(by refine ⟨(0), ({ addr := 805306368 }), (805306368), (3), (0), (true), _, (modLd { up with cxl := { up.cxl with alternate := true } } 0 fun l => { l with modes := [(3, .rw)], decoders := (List.replicate 8 {}).set 0 { size := 2 ^ 31, committed := true } }), ?_, ?_, ?_, ?_, ?_, ?_, ?_, ?_, ?_, ?_, ?_, rfl, ?_⟩ <;> decide +kernel),
   ⟨(0), ({ addr := 0, opcode := .memInv }), (modLd { up with cxl := { up.cxl with alternate := true } } 0 fun l => { l with modes := [(3, .rw)], decoders := (List.replicate 8 {}).set 0 { size := 2 ^ 31, committed := true } }), by decide +kernel⟩,
   ⟨(0), ({ addr := 805306368, opcode := .memSpecRd }), (modLd { up with cxl := { up.cxl with alternate := true } } 0 fun l => { l with modes := [(3, .rw)], decoders := (List.replicate 8 {}).set 0 { size := 2 ^ 31, committed := true } }), by decide +kernel⟩,
   (by refine ⟨(0), ({ addr := 805306368 }), (805306368), (3), (0), (List.replicate 64 7), (List.replicate 64 true), _, _, (modLd { up with cxl := { up.cxl with alternate := true } } 0 fun l => { l with modes := [(3, .rw)], decoders := (List.replicate 8 {}).set 0 { size := 2 ^ 31, committed := true } }), ?_, ?_, ?_, ?_, ?_, ?_, ?_, ?_, rfl, ?_, rfl⟩ <;> decide +kernel),
   ⟨(0), ({ addr := 0 }), (0), (modLd { up with cxl := { up.cxl with alternate := true } } 0 fun l => { l with modes := [(3, .rw)], decoders := (List.replicate 8 {}).set 0 { size := 2 ^ 31, committed := true } }), by decide +kernel⟩,
   ⟨(0), ({ addr := 805306368 }), (modDom (modLd { up with cxl := { up.cxl with alternate := true } } 0 fun l => { l with modes := [(3, .rw)], decoders := (List.replicate 8 {}).set 0 { size := 2 ^ 31, committed := true } }) 84 fun y => { y with present := .retain }), by decide +kernel⟩,
   ⟨(15), ({ up with cxl := { up.cxl with alternate := true } }), by decide +kernel⟩,
   ⟨(15), ({ up with cxl := { up.cxl with alternate := true } }), by decide +kernel⟩,
   ⟨(0), (modLd { up with cxl := { up.cxl with alternate := true } } 0 fun l => { l with modes := [(3, .rw)], decoders := (List.replicate 8 {}).set 0 { size := 2 ^ 31, committed := true }, heldReqs := [({ addr := 0 }, none)] }), by decide +kernel⟩⟩

theorem witness_ConfigAndWindows :
  (∃ p : Fin 16, ∃ reg : Nat, ∃ s : State, s.cxl.linkUp = true ∧ presented s (.part p) = true ∧ [StartPhase.processorsUp, .hbmTrained, .cleared, .active].contains s.boot.phase = true ∧ scrubbing s (.part p) = false ∧ reg ≠ Config.msixDword) ∧
  (∃ o : Owner, ∃ s : State, s.cxl.linkUp = true ∧ presented s o = true ∧ [StartPhase.processorsUp, .hbmTrained, .cleared, .active].contains s.boot.phase = true ∧ scrubbing s o = false) ∧
  (∃ o : Owner, ∃ s : State, s.cxl.linkUp = true ∧ presented s o = true ∧ [StartPhase.processorsUp, .hbmTrained, .cleared, .active].contains s.boot.phase = false) ∧
  (∃ ld : Fin 16, ∃ d : Nat, ∃ size : Nat, ∃ skip : Nat, ∃ ways : Nat, ∃ gran : Nat, ∃ s : State, d < 8 ∧ memUp s ld.val = true ∧ (getPart s ld.val).state ≠ .scrubbing ∧ (getLd s ld.val).decoders.length = 8 ∧ ld.val < s.cxl.lds.length ∧ ((getLd s ld.val).decoders.all fun x => !x.committed) = true ∧ [1, 2, 4, 8].contains ways = true ∧ [256, 512, 1024, 2048, 4096, 8192, 16384].contains gran = true ∧ size % (2 ^ 28 * ways) = 0 ∧ skip + size / ways ≤ 2 ^ 39) ∧
  (∃ ld : Fin 16, ∃ d : Nat, ∃ size : Nat, ∃ skip : Nat, ∃ ways : Nat, ∃ gran : Nat, ∃ s : State, d < 8 ∧ memUp s ld.val = true ∧ (getPart s ld.val).state ≠ .scrubbing ∧ (getLd s ld.val).decoders.length = 8 ∧ ld.val < s.cxl.lds.length ∧ ((getLd s ld.val).decoders.all fun x => !x.committed) = true ∧ [1, 2, 4, 8].contains ways = true ∧ [256, 512, 1024, 2048, 4096, 8192, 16384].contains gran = true ∧ size % (2 ^ 28 * ways) = 0 ∧ skip + size / ways ≤ 2 ^ 39) ∧
  (∃ ld : Fin 16, ∃ d : Nat, ∃ ways : Nat, ∃ s : State, d < 8 ∧ memUp s ld.val = true ∧ (getPart s ld.val).state ≠ .scrubbing ∧ (getLd s ld.val).decoders.length = 8 ∧ ld.val < s.cxl.lds.length ∧ [1, 2, 4, 8].contains ways = false) ∧
  (∃ p : Fin 16, ∃ slot : Nat, ∃ mode : Nat, ∃ e : Nat, ∃ s : State, (getPart s p.val).live = true ∧ (getPart s p.val).state ≠ .scrubbing ∧ s.cxl.linkUp = true ∧ ownExt s p.val slot = some e ∧ (∀ n, (getExt s e).use ≠ .page n) ∧ (getExt s e).use ≠ .control ∧ (getPart s p.val).confidential = false ∧ mode < 3 ∧ winModeOf mode ≠ (lookup? (getLd s p.val).modes slot).getD .none) ∧
  (∃ p : Fin 16, ∃ slot : Nat, ∃ mode : Nat, ∃ e : Nat, ∃ s : State, (getPart s p.val).live = true ∧ (getPart s p.val).state ≠ .scrubbing ∧ s.cxl.linkUp = true ∧ ownExt s p.val slot = some e ∧ (∀ n, (getExt s e).use ≠ .page n) ∧ (getExt s e).use ≠ .control ∧ (getPart s p.val).confidential = false ∧ mode < 3 ∧ winModeOf mode ≠ (lookup? (getLd s p.val).modes slot).getD .none) ∧
  (∃ p : Fin 16, ∃ slot : Nat, ∃ t : Nat, ∃ b : Nat, ∃ s : State, lookup? (getLd s p.val).draining slot = some b ∧ b ≤ t) :=
  ⟨⟨(15), (Config.msixDword + 1), (up), by decide +kernel, by decide +kernel, by decide +kernel, by decide +kernel, Nat.succ_ne_self _⟩,
   ⟨(.fm), (up), by decide +kernel⟩,
   ⟨(.part 0), ({ at_ .linkTrained with cxl := { up.cxl with linkUp := true } }), by decide +kernel⟩,
   ⟨(0), (0), (2 ^ 28), (0), (1), (256), ({ up with cxl := { up.cxl with alternate := true } }), by decide +kernel⟩,
   ⟨(0), (7), (2 ^ 31), (2 ^ 39 - 2 ^ 28), (8), (16384), ({ up with cxl := { up.cxl with alternate := true } }), by decide +kernel⟩,
   ⟨(0), (7), (3), ({ up with cxl := { up.cxl with alternate := true } }), by decide +kernel⟩,
   ⟨(0), (3), (2), (3), (up), by decide +kernel, by decide +kernel, by decide +kernel, by decide +kernel, (fun n => (show (getExt (up) 3).use = .none by decide +kernel) ▸ nofun), by decide +kernel⟩,
   ⟨(0), (3), (0), (3), (modLd up 0 fun l => { l with modes := [(3, .rw)] }), by decide +kernel, by decide +kernel, by decide +kernel, by decide +kernel, (fun n => (show (getExt (modLd up 0 fun l => { l with modes := [(3, .rw)] }) 3).use = .none by decide +kernel) ▸ nofun), by decide +kernel⟩,
   ⟨(0), (3), (9), (9), (modLd up 0 fun l => { l with draining := [(3, 9)] }), by decide +kernel⟩⟩

theorem witness_LendsAndRegions :
  (∃ q : Nat, ∃ e : Nat, ∃ p : Nat, ∃ slot : Nat, ∃ mode : Nat, ∃ region : Nat, ∃ i : BitVec 32, ∃ d : Desc, ∃ u : State, ∃ v : State, ∃ s : State, stationDesc s q i 0x0C 0x40 = some d ∧ d.owner = .fm ∧ d.len = 0 ∧ bodyOk d.cur [maskOf 39 32 ||| maskOf 29 28 ||| maskOf 26 16 ||| maskOf 15 12 ||| maskOf 10 0] = true ∧ e = fld (d.w 2) 10 0 ∧ p = fld (d.w 2) 15 12 ∧ slot = fld (d.w 2) 26 16 ∧ mode = fld (d.w 2) 29 28 ∧ region = fld (d.w 2) 39 32 ∧ (mode = 1 ∨ mode = 2) ∧ revokeBefore s d e p = false ∧ ((holdersOf s e).isEmpty && s.cxl.revokes.any (fun r => r.ext == e)) = false ∧ (getExt s e).clearing = false ∧ (getExt s e).kind ≠ .awaiting ∧ lendable s e = true ∧ ldRefuses s p = false ∧ ownCount s p ≤ slot ∧ lookup? (getLd s p).lent slot = none ∧ (holdersOf s e).contains p = false ∧ (s.cxl.lds.any fun l => l.lent.any fun x => x.2.ext == e && x.2.region != region) = false ∧ u = modLd s p (fun (l : LdS) => { l with lent := assign l.lent slot { ext := e, mode := winModeOf mode, region := region } }) ∧ v = (if region ≠ 0 ∧ lookup? u.cxl.regions region = none then { u with cxl := { u.cxl with regions := assign u.cxl.regions region {} } } else u)) ∧
  (∃ q : Nat, ∃ e : Nat, ∃ p : Nat, ∃ slot : Nat, ∃ mode : Nat, ∃ region : Nat, ∃ i : BitVec 32, ∃ d : Desc, ∃ u : State, ∃ v : State, ∃ s : State, stationDesc s q i 0x0C 0x40 = some d ∧ d.owner = .fm ∧ d.len = 0 ∧ bodyOk d.cur [maskOf 39 32 ||| maskOf 29 28 ||| maskOf 26 16 ||| maskOf 15 12 ||| maskOf 10 0] = true ∧ e = fld (d.w 2) 10 0 ∧ p = fld (d.w 2) 15 12 ∧ slot = fld (d.w 2) 26 16 ∧ mode = fld (d.w 2) 29 28 ∧ region = fld (d.w 2) 39 32 ∧ (mode = 1 ∨ mode = 2) ∧ revokeBefore s d e p = false ∧ ((holdersOf s e).isEmpty && s.cxl.revokes.any (fun r => r.ext == e)) = false ∧ (getExt s e).clearing = false ∧ (getExt s e).kind ≠ .awaiting ∧ lendable s e = true ∧ ldRefuses s p = false ∧ ownCount s p ≤ slot ∧ lookup? (getLd s p).lent slot = none ∧ (holdersOf s e).contains p = false ∧ (s.cxl.lds.any fun l => l.lent.any fun x => x.2.ext == e && x.2.region != region) = false ∧ u = modLd s p (fun (l : LdS) => { l with lent := assign l.lent slot { ext := e, mode := winModeOf mode, region := region } }) ∧ v = (if region ≠ 0 ∧ lookup? u.cxl.regions region = none then { u with cxl := { u.cxl with regions := assign u.cxl.regions region {} } } else u)) ∧
  (∃ q : Nat, ∃ e : Nat, ∃ p : Nat, ∃ i : BitVec 32, ∃ d : Desc, ∃ s : State, stationDesc s q i 0x0C 0x41 = some d ∧ d.owner = .fm ∧ d.len = 0 ∧ bodyOk d.cur [maskOf 16 0 &&& ~~~(maskOf 11 11)] = true ∧ e = fld (d.w 2) 10 0 ∧ p = fld (d.w 2) 15 12 ∧ bit (d.w 2) 16 = false ∧ ((s.flight.takeWhile fun x => !(x.ctx == q && x.index == i)).any fun x =>
      x.opcode == 0x0C && (x.subop == 0x40 || x.subop == 0x41) && x.phase != .finished && fld (x.w 2) 10 0 == e) = false ∧ inPool s e = true ∧ ldRefuses s p = false ∧ (holdersOf s e).contains p = true) ∧
  (∃ q : Nat, ∃ i : BitVec 32, ∃ r : Revoke, ∃ s : State, (s.cxl.revokes.find? fun r => r.ctx == q && r.index == i && !r.clearing) = some r ∧ holdersOf s r.ext = []) ∧
  (∃ q : Nat, ∃ i : BitVec 32, ∃ r : Revoke, ∃ s : State, (s.cxl.revokes.find? fun r => r.ctx == q && r.index == i && !r.clearing) = some r ∧ holdersOf s r.ext ≠ []) ∧
  (∃ e : Nat, ∃ s : State, (getExt s e).clearing = true ∧ pchFenced s (e / 3) = false ∧ (s.cxl.revokes.find? fun r => r.ext == e && r.clearing) = none) ∧
  (∃ e : Nat, ∃ r : Revoke, ∃ s : State, (getExt s e).clearing = true ∧ pchFenced s (e / 3) = false ∧ (s.cxl.revokes.find? fun r => r.ext == e && r.clearing) = some r) ∧
  (∃ o : Owner, ∃ a : Owner, ∃ m : MboxMsg, ∃ x : PubRegion, ∃ s : State, Heard s o 0x20 m .partition (m.body.length == 24) a ∧ 0 < m.at_ 0 ∧ ((m.body.drop 1).take 7).all (· == 0#8) = true ∧ holdsRegion s a.idx (m.at_ 0) true = true ∧ lookup? s.cxl.regions (m.at_ 0) = some x ∧ ofLe (slice m.body 8 8) = x.version) ∧
  (∃ o : Owner, ∃ a : Owner, ∃ m : MboxMsg, ∃ x : PubRegion, ∃ s : State, Heard s o 0x20 m .partition (m.body.length == 24) a ∧ 0 < m.at_ 0 ∧ ((m.body.drop 1).take 7).all (· == 0#8) = true ∧ holdsRegion s a.idx (m.at_ 0) true = true ∧ lookup? s.cxl.regions (m.at_ 0) = some x ∧ ofLe (slice m.body 8 8) ≠ x.version) ∧
  (∃ o : Owner, ∃ a : Owner, ∃ m : MboxMsg, ∃ x : PubRegion, ∃ s : State, Heard s o 0x21 m .partition (m.body.length == 24) a ∧ 0 < m.at_ 0 ∧ (m.body.drop 1).all (· == 0#8) = true ∧ holdsRegion s a.idx (m.at_ 0) false = true ∧ lookup? s.cxl.regions (m.at_ 0) = some x) :=
  ⟨(by refine ⟨(5), _, _, _, (1), _, (0), (fm (desc 0x0C 0x40 [put 39 32 0 ||| put 29 28 1 ||| put 26 16 9 ||| 30#64])), _, _, (fly (fm (desc 0x0C 0x40 [put 39 32 0 ||| put 29 28 1 ||| put 26 16 9 ||| 30#64]))), ?_, ?_, ?_, ?_, rfl, rfl, rfl, ?_, rfl, ?_, ?_, ?_, ?_, ?_, ?_, ?_, ?_, ?_, ?_, ?_, rfl, rfl⟩ <;> decide +kernel),
   (by refine ⟨(5), _, _, _, (2), _, (0), (fm (desc 0x0C 0x40 [put 39 32 1 ||| put 29 28 2 ||| put 26 16 9 ||| 30#64])), _, _, (fly (fm (desc 0x0C 0x40 [put 39 32 1 ||| put 29 28 2 ||| put 26 16 9 ||| 30#64]))), ?_, ?_, ?_, ?_, rfl, rfl, rfl, ?_, rfl, ?_, ?_, ?_, ?_, ?_, ?_, ?_, ?_, ?_, ?_, ?_, rfl, rfl⟩ <;> decide +kernel),
   ⟨(5), _, _, (0), (fm (desc 0x0C 0x41 [30#64])), (modLd (fly (fm (desc 0x0C 0x41 [30#64]))) 0 fun l => { l with lent := [(9, ⟨30, .rw, 1⟩)] }), by decide +kernel, by decide +kernel, by decide +kernel, by decide +kernel, rfl, rfl, by decide +kernel⟩,
   ⟨(5), (0), ({ ctx := 5, index := 0, ext := 30, draining := [0], revoked := [], clearing := false }), ({ up with cxl := { up.cxl with revokes := [{ ctx := 5, index := 0, ext := 30, draining := [0], revoked := [], clearing := false }] } }), by decide +kernel⟩,
   ⟨(5), (0), ({ ctx := 5, index := 0, ext := 30, draining := [0], revoked := [], clearing := false }), (modLd ({ up with cxl := { up.cxl with revokes := [{ ctx := 5, index := 0, ext := 30, draining := [0], revoked := [], clearing := false }] } }) 0 fun l => { l with lent := [(9, ⟨30, .rw, 1⟩)] }), by decide +kernel⟩,
   ⟨(30), (modExt up 30 fun x => { x with clearing := true }), by decide +kernel⟩,
   ⟨(30), ({ ctx := 5, index := 0, ext := 30, draining := [0], revoked := [], clearing := true }), (modExt { up with cxl := { up.cxl with revokes := [{ ctx := 5, index := 0, ext := 30, draining := [0], revoked := [], clearing := true }] } } 30 fun x => { x with clearing := true }), by decide +kernel⟩,
   ⟨(.part 0), (.part 0), ({ body := [1] ++ List.replicate 23 0 }), ({}), ({ (modLd up 0 fun l => { l with lent := [(9, ⟨30, .rw, 1⟩)] }) with cxl := { (modLd up 0 fun l => { l with lent := [(9, ⟨30, .rw, 1⟩)] }).cxl with regions := [(1, { version := 0 })] } }), heard_of (by decide +kernel), by decide +kernel⟩,
   ⟨(.part 0), (.part 0), ({ body := [1] ++ List.replicate 23 0 }), ({ version := 1 }), ({ (modLd up 0 fun l => { l with lent := [(9, ⟨30, .rw, 1⟩)] }) with cxl := { (modLd up 0 fun l => { l with lent := [(9, ⟨30, .rw, 1⟩)] }).cxl with regions := [(1, { version := 1 })] } }), heard_of (by decide +kernel), by decide +kernel⟩,
   ⟨(.part 0), (.part 0), ({ body := [1] ++ List.replicate 23 0 }), ({}), ({ (modLd up 0 fun l => { l with lent := [(9, ⟨30, .rw, 1⟩)] }) with cxl := { (modLd up 0 fun l => { l with lent := [(9, ⟨30, .rw, 1⟩)] }).cxl with regions := [(1, { version := 0 })] } }), heard_of (by decide +kernel), by decide +kernel⟩⟩

theorem witness_StandardMailbox :
  (∃ o : Owner, ∃ s : State, mailboxUp s = true ∧ presented s o = true ∧ scrubbing s o = false) ∧
  (∃ o : Owner, ∃ s : State, mailboxUp s = true ∧ presented s o = true ∧ scrubbing s o = false) ∧
  (∃ p : Fin 16, ∃ s : State, mailboxUp s = true ∧ presented s (.part p) = true ∧ scrubbing s (.part p) = false) ∧
  (∃ p : Fin 16, ∃ hs : List Nat, ∃ s : State, mailboxUp s = true ∧ presented s (.part p) = true ∧ scrubbing s (.part p) = false ∧ hs ≠ [] ∧ (∀ h ∈ hs, ∃ e ∈ (getLd s p.val).events, e.handle = h)) ∧
  (∃ p : Fin 16, ∃ s : State, mailboxUp s = true ∧ presented s (.part p) = true ∧ scrubbing s (.part p) = false) ∧
  (∃ p : Fin 16, ∃ dpa : Nat, ∃ e : Nat, ∃ off : Nat, ∃ s : State, mailboxUp s = true ∧ presented s (.part p) = true ∧ scrubbing s (.part p) = false ∧ (getPart s p.val).state ≠ .locked ∧ lineOf s (.part p) dpa = some (e, off)) ∧
  (∃ p : Fin 16, ∃ s : State, mailboxUp s = true ∧ presented s (.part p) = true ∧ scrubbing s (.part p) = false ∧ (getPart s p.val).state = .locked) ∧
  (∃ p : Fin 16, ∃ dpa : Nat, ∃ e : Nat, ∃ off : Nat, ∃ s : State, mailboxUp s = true ∧ presented s (.part p) = true ∧ scrubbing s (.part p) = false ∧ lineOf s (.part p) dpa = some (e, off)) ∧
  (∃ o : Owner, ∃ s : State, mailboxUp s = true ∧ presented s o = true ∧ scrubbing s o = false) ∧
  (∃ o : Owner, ∃ s : State, mailboxUp s = true ∧ presented s o = true ∧ scrubbing s o = false) ∧
  (∃ o : Owner, ∃ s : State, mailboxUp s = true ∧ presented s o = true ∧ scrubbing s o = false) ∧
  (∃ o : Owner, ∃ s : State, mailboxUp s = true ∧ presented s o = true ∧ scrubbing s o = false) ∧
  (∃ p : Nat, ∃ v : Nat, ∃ s : State, mailboxUp s = true ∧ s.cxl.direct = false ∧ p < 16 ∧ v < 256 ∧ (getPart s p).state ≠ .locked ∧ (getPart s p).state ≠ .scrubbing ∧ (((List.range 16).filter (· != p)).map fun j => qosAlloc s j false).sum + v ≤ 256 ∧ (((List.range 16).filter (· != p)).map fun j => qosAlloc s j true).sum + v ≤ 256) ∧
  (∃ p : Nat, ∃ v : Nat, ∃ s : State, mailboxUp s = true ∧ s.cxl.direct = false ∧ p < 16 ∧ v < 256 ∧ (getPart s p).state ≠ .locked ∧ (getPart s p).state ≠ .scrubbing ∧ (((List.range 16).filter (· != p)).map fun j => qosAlloc s j false).sum + v ≤ 256 ∧ (((List.range 16).filter (· != p)).map fun j => qosAlloc s j true).sum + v ≤ 256) ∧
  (∃ p : Nat, ∃ v : Nat, ∃ s : State, mailboxUp s = true ∧ s.cxl.direct = false ∧ p < 16 ∧ v < 256 ∧ (getPart s p).state ≠ .locked ∧ (getPart s p).state ≠ .scrubbing) ∧
  (∃ s : State, mailboxUp s = true ∧ s.cxl.direct = false) :=
  ⟨⟨(.part 0), (up), by decide +kernel⟩,
   ⟨(.part 0), (up), by decide +kernel⟩,
   ⟨(0), (up), by decide +kernel⟩,
   ⟨(0), ([1]), (modLd up 0 fun l => { l with events := [⟨1, true, 0⟩] }), by decide +kernel⟩,
   ⟨(0), (up), by decide +kernel⟩,
   ⟨(0), (805306368), (3), (0), (modLd { up with cxl := { up.cxl with alternate := true } } 0 fun l => { l with modes := [(3, .rw)], decoders := (List.replicate 8 {}).set 0 { size := 2 ^ 31, committed := true } }), by decide +kernel⟩,
   ⟨(0), (modPart up 0 fun x => { x with state := .locked }), by decide +kernel⟩,
   ⟨(0), (805306368), (3), (0), (modLd { up with cxl := { up.cxl with alternate := true } } 0 fun l => { l with modes := [(3, .rw)], decoders := (List.replicate 8 {}).set 0 { size := 2 ^ 31, committed := true } }), by decide +kernel⟩,
   ⟨(.part 0), (up), by decide +kernel⟩,
   ⟨(.part 0), (up), by decide +kernel⟩,
   ⟨(.part 0), (up), by decide +kernel⟩,
   ⟨(.part 0), (up), by decide +kernel⟩,
   ⟨(15), (0), (up), by decide +kernel⟩,
   ⟨(0), (16), (up), by decide +kernel⟩,
   ⟨(15), (255), (up), by decide +kernel⟩,
   ⟨(up), by decide +kernel⟩⟩

theorem witness_ObjectOperations :
  (∃ q : Nat, ∃ t : Nat, ∃ id : Nat, ∃ n : Nat, ∃ i : BitVec 32, ∃ rd : HostRead, ∃ p : Fin 16, ∃ d : Desc, ∃ d' : Desc, ∃ r : ReadRes, ∃ tb : Option DecodeTable, ∃ body : List Byte, ∃ obj : FlashObj, ∃ u : State, ∃ v : State, ∃ s : State, Taken (atTime s t) q i 0x07 1 [3] d ∧ d.owner = .part p ∧ d.len = 0 ∧ bodyOk d.cur [maskOf 63 30 ||| maskOf 23 0, allBits, maskOf 31 0] = true ∧ u = atWork (atTime s t) (needs (atTime s t) d [3]) ∧ id = fld (d.w 2) 63 32 ∧ id ≠ 0xFFFFFFFF ∧ n = fld (d.w 4) 31 0 ∧ 0 < n ∧ n ≤ 268435456 ∧ tb = (if bit (d.w 2) 31 = true then d.tables.getD (fld (d.w 2) 30 30) none else none) ∧ (bit (d.w 2) 31 = true → n % 2 = 0 ∧ tb ≠ none ∧ d.slotWaits (fld (d.w 2) 30 30) = false) ∧ inRegion u p.val id = false ∧ readIn u d 3 n rd = .ok r ∧ r.poison = false ∧ body = storedForm (fld (d.w 2) 30 30) tb r.bytes ∧ roomFor u p.val id body.length = none ∧ obj = { data := r.bytes, coded := bit (d.w 2) 31, table := tb, stored := body.length, spaces := usableNs u p.val, gen := (getFlash u p.val).nextGen } ∧ v = modFlash u p.val (fun y => { y with nextGen := y.nextGen + 1 }) ∧ d' = { d with phase := .running, pendingObj := some obj, unitsLeft := if bit (d.w 2) 31 = true then ceilDiv n 4096 else 0 }) ∧
  (∃ q : Nat, ∃ t : Nat, ∃ id : Nat, ∃ i : BitVec 32, ∃ p : Fin 16, ∃ d : Desc, ∃ x : FlashObj, ∃ u : State, ∃ s : State, Taken (atTime s t) q i 0x07 2 [] d ∧ d.owner = .part p ∧ d.len = 0 ∧ bodyOk d.cur [maskOf 63 32] = true ∧ u = atWork (atTime s t) (needs (atTime s t) d []) ∧ id = fld (d.w 2) 63 32 ∧ id ≠ 0xFFFFFFFF ∧ inRegion u p.val id = false ∧ lookup? (getFlash u p.val).objects id = some x ∧ readableCopies u p.val ≠ []) ∧
  (∃ q : Nat, ∃ t : Nat, ∃ n : Nat, ∃ off : Nat, ∃ i : BitVec 32, ∃ p : Fin 16, ∃ d : Desc, ∃ x : FlashObj, ∃ u : State, ∃ s : State, Taken (atTime s t) q i 0x08 1 [3] d ∧ d.owner = .part p ∧ d.len = 0 ∧ bodyOk d.cur [maskOf 63 32 ||| maskOf 23 0, allBits, maskOf 31 0, maskOf 31 0] = true ∧ u = atWork (atTime s t) (needs (atTime s t) d [3]) ∧ fld (d.w 2) 63 32 ≠ 0xFFFFFFFF ∧ off = fld (d.w 5) 31 0 ∧ off % 4096 = 0 ∧ fld (d.w 4) 31 0 ≤ 268435456 ∧ d.objGen.bind (objectOf u p.val) = some x ∧ n = (if fld (d.w 4) 31 0 = 0 then x.data.length - off else fld (d.w 4) 31 0) ∧ 0 < n ∧ off + n ≤ x.data.length ∧ d.w 3 = 0#64 ∧ n ≤ 65536 ∧ x.serves u = true ∧ readableCopies u p.val ≠ []) ∧
  (∃ q : Nat, ∃ t : Nat, ∃ n : Nat, ∃ off : Nat, ∃ i : BitVec 32, ∃ p : Fin 16, ∃ d : Desc, ∃ x : FlashObj, ∃ loc : Loc, ∃ u : State, ∃ s : State, Taken (atTime s t) q i 0x08 1 [3] d ∧ d.owner = .part p ∧ d.len = 0 ∧ bodyOk d.cur [maskOf 63 32 ||| maskOf 23 0, allBits, maskOf 31 0, maskOf 31 0] = true ∧ u = atWork (atTime s t) (needs (atTime s t) d [3]) ∧ fld (d.w 2) 63 32 ≠ 0xFFFFFFFF ∧ off = fld (d.w 5) 31 0 ∧ off % 4096 = 0 ∧ fld (d.w 4) 31 0 ≤ 268435456 ∧ d.objGen.bind (objectOf u p.val) = some x ∧ n = (if fld (d.w 4) 31 0 = 0 then x.data.length - off else fld (d.w 4) 31 0) ∧ 0 < n ∧ off + n ≤ x.data.length ∧ d.w 3 ≠ 0#64 ∧ locate u d.owner (d.w 3) (occupied u d.owner (d.w 3) n) true = .ok loc ∧ writable u loc = none ∧ x.serves u = true ∧ readableCopies u p.val ≠ []) ∧
  (∃ q : Nat, ∃ i : BitVec 32, ∃ p : Fin 16, ∃ d : Desc, ∃ x : FlashObj, ∃ u : State, ∃ s : State, Taken s q i 0x08 2 [3] d ∧ d.owner = .part p ∧ d.len = 0 ∧ bodyOk d.cur [maskOf 63 32, allBits] = true ∧ u = atWork s (needs s d [3]) ∧ fld (d.w 2) 63 32 ≠ 0xFFFFFFFF ∧ lookup? (getFlash u p.val).objects (fld (d.w 2) 63 32) = some x ∧ d.w 3 = 0#64) ∧
  (∃ q : Nat, ∃ i : BitVec 32, ∃ p : Fin 16, ∃ d : Desc, ∃ x : FlashObj, ∃ u : State, ∃ v : State, ∃ s : State, Taken s q i 0x08 2 [3] d ∧ d.owner = .part p ∧ d.len = 0 ∧ bodyOk d.cur [maskOf 63 32, allBits] = true ∧ u = atWork s (needs s d [3]) ∧ fld (d.w 2) 63 32 ≠ 0xFFFFFFFF ∧ lookup? (getFlash u p.val).objects (fld (d.w 2) 63 32) = some x ∧ d.w 3 ≠ 0#64 ∧ writeOut u d 3 (ofWords (objectRecord (fld (d.w 2) 63 32) x ((lookup? (getFlash u p.val).stats (fld (d.w 2) 63 32)).getD {}))) = .ok v) :=
  ⟨⟨(5), (0), _, _, (0), ({}), (0), (desc 7 1 [put 63 32 9, 0x2000#64, 4096#64]), _, _, (none), _, _, _, _, ({ flashUp with flight := [desc 7 1 [put 63 32 9, 0x2000#64, 4096#64]] }), ⟨by decide +kernel, by decide +kernel, by decide +kernel, by decide +kernel, by decide +kernel⟩, by decide +kernel, by decide +kernel, by decide +kernel, rfl, rfl, by decide +kernel, rfl, by decide +kernel, by decide +kernel, by decide +kernel, (fun h => absurd h (by decide +kernel)), by decide +kernel, okGet_eq (by decide +kernel), by decide +kernel, rfl, by decide +kernel, rfl, rfl, rfl⟩,
   ⟨(5), (0), _, (0), (0), (desc 7 2 [put 63 32 9]), ({ data := [1, 2, 3, 4, 5, 6, 7, 8], stored := 8, spaces := [(0, 0)], gen := 1 }), _, (modFlash ({ flashUp with flight := [desc 7 2 [put 63 32 9]] }) 0 fun y => { y with objects := [(9, { data := [1, 2, 3, 4, 5, 6, 7, 8], stored := 8, spaces := [(0, 0)], gen := 1 })] }), ⟨by decide +kernel, by decide +kernel, by decide +kernel, by decide +kernel, by decide +kernel⟩, by decide +kernel, by decide +kernel, by decide +kernel, rfl, rfl, by decide +kernel⟩,
   ⟨(5), (0), (8), (0), (0), (0), ({ desc 8 1 [put 63 32 9, 0#64, 0#64, 0#64] with objGen := some 1 }), ({ data := [1, 2, 3, 4, 5, 6, 7, 8], stored := 8, spaces := [(0, 0)], gen := 1 }), _, (modFlash ({ flashUp with flight := [{ desc 8 1 [put 63 32 9, 0#64, 0#64, 0#64] with objGen := some 1 }] }) 0 fun y => { y with objects := [(9, { data := [1, 2, 3, 4, 5, 6, 7, 8], stored := 8, spaces := [(0, 0)], gen := 1 })] }), ⟨by decide +kernel, by decide +kernel, by decide +kernel, by decide +kernel, by decide +kernel⟩, by decide +kernel, by decide +kernel, by decide +kernel, rfl, by decide +kernel⟩,
   (by refine ⟨(5), (0), (8), (0), (0), (0), ({ desc 8 1 [put 63 32 9, 0x2000#64, 0#64, 0#64] with objGen := some 1 }), ({ data := [1, 2, 3, 4, 5, 6, 7, 8], stored := 8, spaces := [(0, 0)], gen := 1 }), (.host 0x2000), _, (modFlash ({ flashUp with flight := [{ desc 8 1 [put 63 32 9, 0x2000#64, 0#64, 0#64] with objGen := some 1 }] }) 0 fun y => { y with objects := [(9, { data := [1, 2, 3, 4, 5, 6, 7, 8], stored := 8, spaces := [(0, 0)], gen := 1 })] }), ⟨by decide +kernel, by decide +kernel, by decide +kernel, by decide +kernel, by decide +kernel⟩, ?_, ?_, ?_, rfl, ?_, ?_, ?_, ?_, ?_, ?_, ?_, ?_, ?_, ok_is (by decide +kernel), ?_⟩ <;> decide +kernel),
   ⟨(5), (0), (0), (desc 8 2 [put 63 32 9, 0#64]), ({ data := [1, 2, 3, 4, 5, 6, 7, 8], stored := 8, spaces := [(0, 0)], gen := 1 }), _, (modFlash ({ flashUp with flight := [desc 8 2 [put 63 32 9, 0#64]] }) 0 fun y => { y with objects := [(9, { data := [1, 2, 3, 4, 5, 6, 7, 8], stored := 8, spaces := [(0, 0)], gen := 1 })] }), ⟨by decide +kernel, by decide +kernel, by decide +kernel, by decide +kernel, by decide +kernel⟩, by decide +kernel, by decide +kernel, by decide +kernel, rfl, by decide +kernel⟩,
   ⟨(5), (0), (0), (desc 8 2 [put 63 32 9, 0x2000#64]), ({ data := [1, 2, 3, 4, 5, 6, 7, 8], stored := 8, spaces := [(0, 0)], gen := 1 }), _, _, (modFlash ({ flashUp with flight := [desc 8 2 [put 63 32 9, 0x2000#64]] }) 0 fun y => { y with objects := [(9, { data := [1, 2, 3, 4, 5, 6, 7, 8], stored := 8, spaces := [(0, 0)], gen := 1 })] }), ⟨by decide +kernel, by decide +kernel, by decide +kernel, by decide +kernel, by decide +kernel⟩, by decide +kernel, by decide +kernel, by decide +kernel, rfl, by decide +kernel, by decide +kernel, by decide +kernel, okGet_eq (by decide +kernel)⟩⟩

theorem witness_StepRegions :
  (∃ q : Nat, ∃ count : Nat, ∃ first : Nat, ∃ base : Nat, ∃ i : BitVec 32, ∃ p : Fin 16, ∃ d : Desc, ∃ es : List Nat, ∃ u : State, ∃ v : State, ∃ s : State, Taken s q i 0x07 0x10 [] d ∧ d.owner = .part p ∧ d.len = 0 ∧ bodyOk d.cur [maskOf 35 32, maskOf 26 16 ||| maskOf 10 0, maskOf 31 0] = true ∧ u = atWork s (needs s d []) ∧ regionTaken u d = false ∧ v = stagedView u d ∧ memActive u = true ∧ count = fld (d.w 3) 26 16 ∧ first = fld (d.w 3) 10 0 ∧ base = fld (d.w 4) 31 0 ∧ 0 < count ∧ base + 2 * count ≤ 0xFFFFFFFF ∧ lookup? (getFlash v p.val).regions d.region = none ∧ (List.range count).map (fun k => ownExt u p.val (first + k)) = es.map some ∧ (∀ e ∈ es, (getExt v e).kind = .guarded ∧ (getExt v e).use = .none ∧ claimedElse u d e = false ∧ (getExt v e).clearing = false) ∧ ((getFlash v p.val).regions.any fun x => decide (x.2.base < base + 2 * count ∧ base < x.2.base + 2 * x.2.count)) = false ∧ (copyDrives u p.val = [] ∨ readableCopies u p.val ≠ [])) ∧
  (∃ q : Nat, ∃ i : BitVec 32, ∃ p : Fin 16, ∃ d : Desc, ∃ x : StepRegion, ∃ u : State, ∃ s : State, Taken s q i 0x07 0x11 [] d ∧ d.owner = .part p ∧ d.len = 0 ∧ bodyOk d.cur [maskOf 35 32, allBits, allBits] = true ∧ u = atWork s (needs s d []) ∧ regionTaken u d = false ∧ ((u.flight.takeWhile fun y => !(y.ctx == d.ctx && y.index == d.index)).any fun y => y.owner == d.owner && y.phase == .ready && y.opcode == 0x07 && y.subop == 0x11 && y.region == d.region) = false ∧ stagedRegion u d p.val = some x ∧ (d.w 3).toNat = x.version ∧ x.state = .open_) ∧
  (∃ q : Nat, ∃ i : BitVec 32, ∃ p : Fin 16, ∃ d : Desc, ∃ x : StepRegion, ∃ u : State, ∃ s : State, Taken s q i 0x07 0x11 [] d ∧ d.owner = .part p ∧ d.len = 0 ∧ bodyOk d.cur [maskOf 35 32, allBits, allBits] = true ∧ u = atWork s (needs s d []) ∧ regionTaken u d = false ∧ ((u.flight.takeWhile fun y => !(y.ctx == d.ctx && y.index == d.index)).any fun y => y.owner == d.owner && y.phase == .ready && y.opcode == 0x07 && y.subop == 0x11 && y.region == d.region) = false ∧ stagedRegion u d p.val = some x ∧ (d.w 3).toNat ≠ x.version) ∧
  (∃ q : Nat, ∃ i : BitVec 32, ∃ p : Fin 16, ∃ d : Desc, ∃ x : StepRegion, ∃ u : State, ∃ s : State, Taken s q i 0x07 0x13 [] d ∧ d.owner = .part p ∧ d.len = 0 ∧ bodyOk d.cur [maskOf 35 32] = true ∧ u = atWork s (needs s d []) ∧ regionTaken u d = false ∧ stagedRegion u d p.val = some x ∧ (x.state = .sealed ∨ x.state = .durable)) ∧
  (∃ q : Nat, ∃ i : BitVec 32, ∃ p : Fin 16, ∃ d : Desc, ∃ x : StepRegion, ∃ u : State, ∃ s : State, Taken s q i 0x07 0x13 [] d ∧ d.owner = .part p ∧ d.len = 0 ∧ bodyOk d.cur [maskOf 35 32] = true ∧ u = atWork s (needs s d []) ∧ regionTaken u d = false ∧ stagedRegion u d p.val = some x ∧ (x.state = .sealed ∨ x.state = .durable)) ∧
  (∃ q : Nat, ∃ i : BitVec 32, ∃ p : Fin 16, ∃ d : Desc, ∃ x : StepRegion, ∃ u : State, ∃ s : State, Taken s q i 0x07 0x14 [] d ∧ d.owner = .part p ∧ d.len = 0 ∧ bodyOk d.cur [maskOf 35 32 ||| maskOf 29 29] = true ∧ u = atWork s (needs s d []) ∧ regionTaken u d = false ∧ stagedRegion u d p.val = some x ∧ x.state ≠ .draining ∧ x.state ≠ .lifting ∧ (bit (d.w 2) 29 = false ∨ copyDrives u p.val = [])) ∧
  (∃ q : Nat, ∃ i : BitVec 32, ∃ p : Fin 16, ∃ d : Desc, ∃ x : StepRegion, ∃ u : State, ∃ s : State, Taken s q i 0x07 0x14 [] d ∧ d.owner = .part p ∧ d.len = 0 ∧ bodyOk d.cur [maskOf 35 32 ||| maskOf 29 29] = true ∧ u = atWork s (needs s d []) ∧ regionTaken u d = false ∧ stagedRegion u d p.val = some x ∧ x.state ≠ .draining ∧ x.state ≠ .lifting ∧ bit (d.w 2) 29 = true ∧ copyDrives u p.val ≠ [] ∧ readableCopies u p.val ≠ []) ∧
  (∃ q : Nat, ∃ t : Nat, ∃ i : BitVec 32, ∃ p : Fin 16, ∃ d : Desc, ∃ x : StepRegion, ∃ u : State, ∃ s : State, Taken (atTime s t) q i 0x07 0x12 [] d ∧ d.owner = .part p ∧ d.len = 0 ∧ bodyOk d.cur [maskOf 35 30 ||| maskOf 23 0] = true ∧ u = atWork (atTime s t) (needs (atTime s t) d []) ∧ regionTaken u d = false ∧ lookup? (getFlash u p.val).regions d.region = some x ∧ (bit (d.w 2) 31 = true → d.slotWaits (fld (d.w 2) 30 30) = false ∧ drainTable d ≠ none) ∧ x.state = .sealed) ∧
  (∃ q : Nat, ∃ t : Nat, ∃ i : BitVec 32, ∃ p : Fin 16, ∃ d : Desc, ∃ d' : Desc, ∃ x : StepRegion, ∃ os : List FlashObj, ∃ u : State, ∃ v : State, ∃ s : State, Taken (atTime s t) q i 0x08 0x10 [] d ∧ d.owner = .part p ∧ d.len = 0 ∧ bodyOk d.cur [maskOf 35 32 ||| maskOf 23 0] = true ∧ u = atWork (atTime s t) (needs (atTime s t) d []) ∧ regionTaken u d = false ∧ lookup? (getFlash u p.val).regions d.region = some x ∧ memActive u = true ∧ x.state = .onFlash ∧ versionObjects u p.val x = os.map some ∧ os.all (fun o => o.serves u) = true ∧ readableCopies u p.val ≠ [] ∧ d' = { d with phase := .running, unitsLeft := (os.filter (·.coded)).length * (extentBytes / 4096) } ∧ v = modRegion (putDesc u d') p.val d.region (fun x => { x with state := .lifting, lifted := [], by_ := some (d.ctx, d.index) })) ∧
  (∃ q : Nat, ∃ i : BitVec 32, ∃ p : Fin 16, ∃ d : Desc, ∃ x : StepRegion, ∃ u : State, ∃ s : State, Taken s q i 0x08 0x11 [3] d ∧ d.owner = .part p ∧ d.len = 0 ∧ bodyOk d.cur [maskOf 35 32, allBits] = true ∧ u = atWork s (needs s d [3]) ∧ stagedRegion u d p.val = some x ∧ d.w 3 = 0#64) ∧
  (∃ q : Nat, ∃ i : BitVec 32, ∃ p : Fin 16, ∃ d : Desc, ∃ x : StepRegion, ∃ u : State, ∃ v : State, ∃ s : State, Taken s q i 0x08 0x11 [3] d ∧ d.owner = .part p ∧ d.len = 0 ∧ bodyOk d.cur [maskOf 35 32, allBits] = true ∧ u = atWork s (needs s d [3]) ∧ stagedRegion u d p.val = some x ∧ d.w 3 ≠ 0#64 ∧ writeOut u d 3 (ofWords [BitVec.ofNat 64 x.version, x.descriptor]) = .ok v) ∧
  (∃ p : Nat, ∃ r : Nat, ∃ x : StepRegion, ∃ s : State, lookup? (getFlash s p).regions r = some x) ∧
  (∃ p : Nat, ∃ s : State, p < s.flash.parts.length) :=
  ⟨⟨(5), _, _, _, (0), (0), (desc 7 0x10 [put 35 32 2, put 26 16 1 ||| 6#64, 100#64]), ([6]), _, _, (modExt ({ flashUp with flight := [desc 7 0x10 [put 35 32 2, put 26 16 1 ||| 6#64, 100#64]] }) 6 fun x => { x with kind := .guarded }), ⟨by decide +kernel, by decide +kernel, by decide +kernel, by decide +kernel, by decide +kernel⟩, by decide +kernel, by decide +kernel, by decide +kernel, rfl, by decide +kernel, rfl, by decide +kernel, rfl, rfl, rfl, by decide +kernel, by decide +kernel, by decide +kernel, by decide +kernel, (fun e h => by obtain rfl := List.mem_singleton.mp h; decide +kernel), by decide +kernel, .inr (by decide +kernel)⟩,
   ⟨(5), (0), (0), (desc 7 0x11 [put 35 32 2, 0#64]), ({ state := .open_, count := 1, first := 3, base := 100 }), _, (modFlash ({ flashUp with flight := [desc 7 0x11 [put 35 32 2, 0#64]] }) 0 fun y => { y with regions := [(2, { state := .open_, count := 1, first := 3, base := 100 })] }), ⟨by decide +kernel, by decide +kernel, by decide +kernel, by decide +kernel, by decide +kernel⟩, by decide +kernel, by decide +kernel, by decide +kernel, rfl, by decide +kernel⟩,
   ⟨(5), (0), (0), (desc 7 0x11 [put 35 32 2, 1#64]), ({ state := .open_, count := 1, first := 3, base := 100 }), _, (modFlash ({ flashUp with flight := [desc 7 0x11 [put 35 32 2, 1#64]] }) 0 fun y => { y with regions := [(2, { state := .open_, count := 1, first := 3, base := 100 })] }), ⟨by decide +kernel, by decide +kernel, by decide +kernel, by decide +kernel, by decide +kernel⟩, by decide +kernel, by decide +kernel, by decide +kernel, rfl, by decide +kernel⟩,
   ⟨(5), (0), (0), (desc 7 0x13 [put 35 32 2]), ({ state := .sealed, count := 1, first := 3, base := 100 }), _, (modFlash ({ flashUp with flight := [desc 7 0x13 [put 35 32 2]] }) 0 fun y => { y with regions := [(2, { state := .sealed, count := 1, first := 3, base := 100 })] }), ⟨by decide +kernel, by decide +kernel, by decide +kernel, by decide +kernel, by decide +kernel⟩, by decide +kernel, by decide +kernel, by decide +kernel, rfl, by decide +kernel⟩,
   ⟨(5), (0), (0), (desc 7 0x13 [put 35 32 2]), ({ state := .durable, count := 1, first := 3, base := 100 }), _, (modFlash ({ flashUp with flight := [desc 7 0x13 [put 35 32 2]] }) 0 fun y => { y with regions := [(2, { state := .durable, count := 1, first := 3, base := 100 })] }), ⟨by decide +kernel, by decide +kernel, by decide +kernel, by decide +kernel, by decide +kernel⟩, by decide +kernel, by decide +kernel, by decide +kernel, rfl, by decide +kernel⟩,
   ⟨(5), (0), (0), (desc 7 0x14 [put 35 32 2]), ({ state := .open_, count := 1, first := 3, base := 100 }), _, (modFlash ({ flashUp with flight := [desc 7 0x14 [put 35 32 2]] }) 0 fun y => { y with regions := [(2, { state := .open_, count := 1, first := 3, base := 100 })] }), ⟨by decide +kernel, by decide +kernel, by decide +kernel, by decide +kernel, by decide +kernel⟩, by decide +kernel, by decide +kernel, by decide +kernel, rfl, by decide +kernel, by decide +kernel, by decide +kernel, by decide +kernel, .inl (by decide +kernel)⟩,
   ⟨(5), (0), (0), (desc 7 0x14 [put 35 32 2 ||| put 29 29 1]), ({ state := .onFlash, count := 1, first := 3, base := 100 }), _, (modFlash ({ flashUp with flight := [desc 7 0x14 [put 35 32 2 ||| put 29 29 1]] }) 0 fun y => { y with regions := [(2, { state := .onFlash, count := 1, first := 3, base := 100 })] }), ⟨by decide +kernel, by decide +kernel, by decide +kernel, by decide +kernel, by decide +kernel⟩, by decide +kernel, by decide +kernel, by decide +kernel, rfl, by decide +kernel⟩,
   ⟨(5), (0), (0), (0), (desc 7 0x12 [put 35 32 2]), ({ state := .sealed, count := 1, first := 3, base := 100 }), _, (modFlash ({ flashUp with flight := [desc 7 0x12 [put 35 32 2]] }) 0 fun y => { y with regions := [(2, { state := .sealed, count := 1, first := 3, base := 100 })] }), ⟨by decide +kernel, by decide +kernel, by decide +kernel, by decide +kernel, by decide +kernel⟩, by decide +kernel, by decide +kernel, by decide +kernel, rfl, by decide +kernel, by decide +kernel, (fun h => absurd h (by decide +kernel)), by decide +kernel⟩,
   (by refine ⟨(5), (0), (0), (0), (desc 8 0x10 [put 35 32 2]), _, ({ state := .onFlash, count := 1, first := 3, base := 100 }), ([{ data := [1, 2, 3, 4, 5, 6, 7, 8], stored := 8, spaces := [(0, 0)], gen := 1 }]), _, _, (modFlash ({ flashUp with flight := [desc 8 0x10 [put 35 32 2]] }) 0 fun y => { y with regions := [(2, { state := .onFlash, count := 1, first := 3, base := 100 })], objects := [(100, { data := [1, 2, 3, 4, 5, 6, 7, 8], stored := 8, spaces := [(0, 0)], gen := 1 })] }), ⟨by decide +kernel, by decide +kernel, by decide +kernel, by decide +kernel, by decide +kernel⟩, ?_, ?_, ?_, rfl, ?_, ?_, ?_, ?_, ?_, ?_, ?_, rfl, rfl⟩ <;> decide +kernel),
   ⟨(5), (0), (0), (desc 8 0x11 [put 35 32 2]), ({ state := .open_, count := 1, first := 3, base := 100 }), _, (modFlash ({ flashUp with flight := [desc 8 0x11 [put 35 32 2]] }) 0 fun y => { y with regions := [(2, { state := .open_, count := 1, first := 3, base := 100 })] }), ⟨by decide +kernel, by decide +kernel, by decide +kernel, by decide +kernel, by decide +kernel⟩, by decide +kernel, by decide +kernel, by decide +kernel, rfl, by decide +kernel⟩,
   ⟨(5), (0), (0), (desc 8 0x11 [put 35 32 2, 0x2000#64]), ({ state := .open_, count := 1, first := 3, base := 100 }), _, _, (modFlash ({ flashUp with flight := [desc 8 0x11 [put 35 32 2, 0x2000#64]] }) 0 fun y => { y with regions := [(2, { state := .open_, count := 1, first := 3, base := 100 })] }), ⟨by decide +kernel, by decide +kernel, by decide +kernel, by decide +kernel, by decide +kernel⟩, by decide +kernel, by decide +kernel, by decide +kernel, rfl, by decide +kernel, by decide +kernel, okGet_eq (by decide +kernel)⟩,
   ⟨(0), (2), ({ state := .open_, count := 1, first := 3, base := 100 }), (modFlash ({ flashUp with flight := [desc 7 0x10 [put 35 32 2, put 26 16 1 ||| 6#64, 100#64]] }) 0 fun y => { y with regions := [(2, { state := .open_, count := 1, first := 3, base := 100 })] }), by decide +kernel⟩,
   ⟨(0), (flashUp), by decide +kernel⟩⟩

theorem witness_FlashProgress :
  (∃ q : Nat, ∃ us : Nat, ∃ t : Nat, ∃ i : BitVec 32, ∃ read : UnitRead, ∃ d : Desc, ∃ p : Fin 16, ∃ o : FlashOp, ∃ x : State × FlashOp, ∃ v : State, ∃ s : State, findDesc s q i = some d ∧ d.owner = .part p ∧ (opsFor s d).find? (fun o => o.bytes == 0 && !o.answered && o.page.isNone) = some o ∧ ¬ (d.opcode = 0x07 ∧ d.subop = 1 ∧ d.unitsLeft ≠ 0 ∧ o.spill = false) ∧ ((o.write = true ∧ read ≠ .badBlock) ∨ read = .good) ∧ x = holdOp (billDrive (atTime s t) p.val o us) o .none ∧ v = billWaits (setOp x.1 o { x.2 with answered := true }) p.val x.2) ∧
  (∃ q : Nat, ∃ us : Nat, ∃ t : Nat, ∃ id : Nat, ∃ i : BitVec 32, ∃ d : Desc, ∃ p : Fin 16, ∃ o : FlashOp, ∃ v : State, ∃ s : State, findDesc s q i = some d ∧ d.owner = .part p ∧ (opsFor s d).find? (fun o => o.bytes == 0 && !o.answered && o.page.isNone) = some o ∧ o.write = false ∧ o.object = some id ∧ d.opcode ≠ 0x07 ∧ v = modStats (billDrive (atTime s t) p.val o us) p.val id (fun y => { y with retries := satAdd 16 y.retries 1 })) ∧
  (∃ q : Nat, ∃ k : Nat, ∃ t : Nat, ∃ p : Nat, ∃ i : BitVec 32, ∃ d : Desc, ∃ x : StepRegion, ∃ obj : FlashObj, ∃ u : State, ∃ v : State, ∃ s : State, regionDesc s q i 0x07 0x12 .draining = some (p, d, x) ∧ lookup? x.writing k = some obj ∧ ((opsFor s d).any fun o => o.object == some (x.object k x.version) && !o.answered) = false ∧ (bit (d.w 2) 31 = true → (x.done.length + 1) * (extentBytes / 4096) ≤ d.unitsDone) ∧ x.done.length + 1 < x.count ∧ u = removeOps (atTime s t) d (fun o => o.object == some (x.object k x.version)) ∧ v = putObject u p (x.object k x.version) obj) ∧
  (∃ q : Nat, ∃ k : Nat, ∃ n : Nat, ∃ p : Nat, ∃ e : Nat, ∃ whole : Nat, ∃ held : Nat, ∃ i : BitVec 32, ∃ d : Desc, ∃ x : StepRegion, ∃ o : FlashObj, ∃ mine : List FlashOp, ∃ s : State, regionDesc s q i 0x08 0x10 .lifting = some (p, d, x) ∧ lookup? (getFlash s p).objects (x.object k x.version) = some o ∧ ownExt s p (x.first + k) = some e ∧ k < x.count ∧ n = x.liftedOf k ∧ n < 240 ∧ (o.coded = true → 256 * (codedLifted s p x + 1) ≤ d.unitsDone) ∧ mine = (opsFor s d).filter (fun y => y.object == some (x.object k x.version)) ∧ whole = (mine.map (·.size)).sum ∧ held = (mine.map (·.bytes)).sum ∧ (n + 1) * whole ≤ (whole - held) * 240 ∧ (n = 239 → mine.all (·.answered) = true) ∧ ((x.lifted.map (·.2)).sum) + 1 < 240 * x.count) ∧
  (∃ q : Nat, ∃ k : Nat, ∃ t : Nat, ∃ slot : Nat, ∃ c : Nat, ∃ i : BitVec 32, ∃ d : Desc, ∃ p : Fin 16, ∃ w : PageWork, ∃ o : FlashOp, ∃ x : SpillPage, ∃ mine : List FlashOp, ∃ u : State, ∃ s : State, findDesc s q i = some d ∧ d.owner = .part p ∧ d.pages[k]? = some w ∧ (opsFor s d).find? (fun o => o.page == some k) = some o ∧ mine = (opsFor s d).filter (fun o => o.page == some k) ∧ d.phase = .running ∧ w.route = .tier ∧ w.state = .queued ∧ mine.all (fun o => o.bytes == 0) = true ∧ w.spill = some slot ∧ lookup? (getFlash s p).spill slot = some x ∧ (x.fill ≠ 16 ∨ (crc32c x.bytes).toNat = x.check) ∧ d.opcode ≠ 0x02 ∧ w.core = some c ∧ u = mine.foldl (fun v o => billDrive v p o ((v.time - o.since) / 1000)) (atTime s t)) ∧
  (∃ q : Nat, ∃ t : Nat, ∃ i : BitVec 32, ∃ d : Desc, ∃ o : FlashOp, ∃ s : State, findDesc s q i = some d ∧ (opsFor s d).find? (fun o => decide (o.deadline ≤ t)) = some o ∧ d.mayExpire = true) ∧
  (∃ t : Nat, ∃ s : State, s.flash.windowStart + 1000000 ≤ t) ∧
  (∃ d : Nat, ∃ t : Nat, ∃ add : Nat, ∃ unit : Nat, ∃ s : State, d < 8 ∧ (getDrive s d).bucketTime < t ∧ unit = 24 * 86400 * 1000000000 ∧ add = driveBudget (getDrive s d) * 23 * (t - (getDrive s d).bucketTime) / unit) ∧
  (∃ d : Nat, ∃ s : State, d < 8 ∧ (getDom s (151 + d)).present = .on ∧ (getDrive s d).state ≠ .usable) ∧
  (∃ d : Nat, ∃ s : State, d < 8 ∧ (getDrive s d).state = .usable) ∧
  (∃ d : Nat, ∃ s : State, d < 8 ∧ (getDrive s d).state = .usable) :=
  ⟨⟨(5), (300), (0), (0), (.good), ({ desc 7 0x14 [put 35 32 2] with phase := .running }), (0), ({ ctx := 5, index := 0, write := true, deadline := 9 }), _, _, ({ flashUp with flight := [{ desc 7 0x14 [put 35 32 2] with phase := .running }], flash := { flashUp.flash with ops := [{ ctx := 5, index := 0, write := true, deadline := 9 }] } }), by decide +kernel, by decide +kernel, by decide +kernel, by decide +kernel, .inr rfl, rfl, rfl⟩,
   (by refine ⟨(5), (300), (0), (9), (0), ({ desc 8 1 [put 63 32 9, 0#64, 0#64, 0#64] with phase := .running, objGen := some 1 }), (0), ({ ctx := 5, index := 0, object := some 9, write := false, deadline := 9 }), _, ({ flashUp with flight := [{ desc 8 1 [put 63 32 9, 0#64, 0#64, 0#64] with phase := .running, objGen := some 1 }], flash := { flashUp.flash with ops := [{ ctx := 5, index := 0, object := some 9, write := false, deadline := 9 }] } }), ?_, ?_, ?_, ?_, ?_, ?_, rfl⟩ <;> decide +kernel),
   ⟨(5), (0), (0), (0), (0), ({ desc 7 0x12 [put 35 32 2] with phase := .running, status := 0 }), ({ state := .draining, count := 2, first := 3, base := 100, by_ := some (5, 0), started := 1, writing := [(0, { data := [1, 2, 3, 4, 5, 6, 7, 8], stored := 8, spaces := [(0, 0)], gen := 1 })] }), ({ data := [1, 2, 3, 4, 5, 6, 7, 8], stored := 8, spaces := [(0, 0)], gen := 1 }), _, _, (modFlash ({ flashUp with flight := [{ desc 7 0x12 [put 35 32 2] with phase := .running, status := 0 }], flash := { flashUp.flash with ops := [{ ctx := 5, index := 0, write := true, deadline := 9, object := some 100, answered := true }] } }) 0 fun y => { y with regions := [(2, { state := .draining, count := 2, first := 3, base := 100, by_ := some (5, 0), started := 1, writing := [(0, { data := [1, 2, 3, 4, 5, 6, 7, 8], stored := 8, spaces := [(0, 0)], gen := 1 })] })] }), by decide +kernel, by decide +kernel, by decide +kernel, (fun h => absurd h (by decide +kernel)), by decide +kernel, rfl, rfl⟩,
   (by refine ⟨(5), (0), (0), (0), (3), _, _, (0), ({ desc 8 0x10 [put 35 32 2] with phase := .running, status := 0 }), ({ state := .lifting, count := 1, first := 3, base := 100, by_ := some (5, 0) }), ({ data := [1, 2, 3, 4, 5, 6, 7, 8], stored := 8, spaces := [(0, 0)], gen := 1 }), _, (modFlash ({ flashUp with flight := [{ desc 8 0x10 [put 35 32 2] with phase := .running, status := 0 }] }) 0 fun y => { y with regions := [(2, { state := .lifting, count := 1, first := 3, base := 100, by_ := some (5, 0) })], objects := [(100, { data := [1, 2, 3, 4, 5, 6, 7, 8], stored := 8, spaces := [(0, 0)], gen := 1 })] }), ?_, ?_, ?_, ?_, ?_, ?_, (fun h => absurd h (by decide +kernel)), rfl, rfl, rfl, ?_, (fun h => absurd h (by decide +kernel)), ?_⟩ <;> decide +kernel),
   (by refine ⟨(5), (0), (0), (4), (7), (0), ({ desc 4 2 [] with phase := .running, pages := [{ page := 0, frame := none, spill := some 4, route := .tier, core := some 7 }] }), (0), ({ page := 0, frame := none, spill := some 4, route := .tier, core := some 7 }), ({ ctx := 5, index := 0, write := true, deadline := 9, page := some 0 }), ({ bytes := [], fill := 3, format := 0, check := 0, promoted := false, gen := 1 }), _, _, (modFlash ({ flashUp with flight := [{ desc 4 2 [] with phase := .running, pages := [{ page := 0, frame := none, spill := some 4, route := .tier, core := some 7 }] }], flash := { flashUp.flash with ops := [{ ctx := 5, index := 0, write := true, deadline := 9, page := some 0 }] } }) 0 fun y => { y with spill := [(4, { bytes := [], fill := 3, format := 0, check := 0, promoted := false, gen := 1 })] }), ?_, ?_, ?_, ?_, rfl, ?_, ?_, ?_, ?_, ?_, ?_, .inl (by decide +kernel), ?_, ?_, rfl⟩ <;> decide +kernel),
   ⟨(5), (9), (0), ({ desc 7 1 [put 63 32 9, 0x2000#64, 4096#64] with phase := .running }), ({ ctx := 5, index := 0, write := true, deadline := 9 }), ({ flashUp with flight := [{ desc 7 1 [put 63 32 9, 0x2000#64, 4096#64] with phase := .running }], flash := { flashUp.flash with ops := [{ ctx := 5, index := 0, write := true, deadline := 9 }] } }), by decide +kernel⟩,
   ⟨(1000000), (flashUp), by decide +kernel⟩,
   ⟨(0), (86400000000000), _, _, (flashUp), by decide +kernel, by decide +kernel, rfl, rfl⟩,
   ⟨(7), (flashUp), by decide +kernel⟩,
   ⟨(0), (flashUp), by decide +kernel⟩,
   ⟨(0), (flashUp), by decide +kernel⟩⟩

theorem witness_AttentionAcrossNodes :
  (∃ p : Fin 16, ∃ t : Nat, ∃ m : FabMsg, ∃ r : SpreadRec, ∃ tb : Option ScaleTable, ∃ u : State, ∃ s : State, fabFirst s p.val 1 = some m ∧ memActive s = true ∧ seqUp (atTime s t) m.reqId = true ∧ u = fabTake (seqWork (atTime s t) m.reqId) p.val 1 ∧ 32 ≤ m.payload.length ∧ bodyLegal m = true ∧ homeRecord u p.val m = .ok r ∧ homeCheck m r = none ∧ scaleOf { owner := ownerOf p.val, slot := none, ctx := 0, index := 0, words := [], cur := [], scale := (getPart u p.val).scales } (fld (m.b 3) 63 56) m.layer (m.firstHead + m.heads) r.dim = .ok tb ∧ shardWork m r ≠ [] ∧ (∀ w ∈ shardWork m r, w.endpoint ≠ ownEndpoint u p.val)) ∧
  (∃ p : Fin 16, ∃ t : Nat, ∃ m : FabMsg, ∃ u : State, ∃ s : State, fabFirst s p.val 1 = some m ∧ memActive s = true ∧ seqUp (atTime s t) m.reqId = true ∧ u = fabTake (seqWork (atTime s t) m.reqId) p.val 1 ∧ m.payload.length < 32) ∧
  (∃ p : Fin 16, ∃ t : Nat, ∃ m : FabMsg, ∃ r : SeqRec, ∃ u : State, ∃ s : State, fabFirst s p.val 3 = some m ∧ memActive s = true ∧ seqUp (atTime s t) m.reqId = true ∧ u = fabTake (seqWork (atTime s t) m.reqId) p.val 3 ∧ visibleSeq u p.val m.seq = some r ∧ (m.epoch = 0 ∨ r.epoch = m.epoch) ∧ bodyLegal m = true ∧ m.payload.length = 32 + m.heads * m.qph * r.dim * m.eb) ∧
  (∃ p : Fin 16, ∃ t : Nat, ∃ n : Nat, ∃ k : Nat, ∃ m : FabMsg, ∃ s : State, (pickMsg s p.val fun m => if m.typ = 4 then replyFor s p.val m else none) = some (m, .shard n k) ∧ seqUp (atTime s t) m.reqId = true) ∧
  (∃ p : Fin 16, ∃ t : Nat, ∃ m : FabMsg, ∃ s : State, (pickMsg s p.val fun m => if m.typ = 4 then replyFor s p.val m else none) = some (m, .stale) ∧ seqUp (atTime s t) m.reqId = true) ∧
  (∃ p : Fin 16, ∃ t : Nat, ∃ m : FabMsg, ∃ d : Desc, ∃ u : State, ∃ v : State, ∃ s : State, (pickMsg s p.val fun m => if m.typ = 2 then some (replySend s p.val m) else if m.typ = 4 then (replySend s p.val m).map some else none) = some (m, some d) ∧ domsOn (atTime s t) (locDoms s d.owner (d.w 7)) = true ∧ u = dropMsg (atWork (atTime s t) (locDoms s d.owner (d.w 7))) p.val m ∧ (m.payload = [] ∧ v = u ∨ m.payload ≠ [] ∧ writeOut u d 7 m.payload = .ok v)) ∧
  (∃ p : Fin 16, ∃ m : FabMsg, ∃ s : State, (pickMsg s p.val fun m => if m.typ = 2 then some (replySend s p.val m) else if m.typ = 4 then (replySend s p.val m).map some else none) = some (m, none)) ∧
  (∃ p : Fin 16, ∃ n : Nat, ∃ t : Nat, ∃ h : HomeReq, ∃ s : State, getHome s n = some h ∧ h.part = p.val ∧ h.deadline ≤ t ∧ h.answered = false ∧ h.shadows = [] ∧ (s.fabric.members.filter fun m => (m.home.map (·.1)) == some n) = []) ∧
  (∃ q : Nat, ∃ t : Nat, ∃ i : BitVec 32, ∃ d : Desc, ∃ s : State, findDesc s q i = some d ∧ d.phase = .running ∧ d.opcode = 0x09 ∧ d.subop = 4 ∧ bit (d.w 2) 62 = true ∧ d.time + 1000000000 ≤ t) :=
  ⟨⟨(0), (0), (msg 1 query), _, _, _, (fab (msg 1 query) { spreads := [((0, 9), { layers := 1, heads := 1, dim := 0, shards := [[put 63 48 0x60 ||| 7#64, 0#64, 0#64, 0#64]] })] }), by decide +kernel, by decide +kernel, by decide +kernel, rfl, by decide +kernel, by decide +kernel, okGet_eq (by decide +kernel), by decide +kernel, okGet_eq (by decide +kernel), by decide +kernel⟩,
   ⟨(0), (0), (msg 1), _, (fab (msg 1) {}), by decide +kernel, by decide +kernel, by decide +kernel, rfl, by decide +kernel⟩,
   ⟨(0), (0), (msg 3 query), _, _, (fab (msg 3 query) {}), by decide +kernel, by decide +kernel, by decide +kernel, rfl, someGet_eq (by decide +kernel), .inl rfl, by decide +kernel⟩,
   ⟨(0), (0), (1), (0), ({ msg 4 with reqId := 1 }), (fab ({ msg 4 with reqId := 1 }) { homes := [home] }), by decide +kernel⟩,
   ⟨(0), (0), (msg 4), (fab (msg 4) { stale := [(0, 4, 1)] }), by decide +kernel⟩,
   ⟨(0), (0), ({ msg 2 with origin := some (5, 0) }), ({ desc 9 4 [put 62 62 1] with phase := .running }), _, _, ({ fab ({ msg 2 with origin := some (5, 0) }) with flight := [{ desc 9 4 [put 62 62 1] with phase := .running }] }), by decide +kernel, by decide +kernel, rfl, .inl ⟨rfl, rfl⟩⟩,
   ⟨(0), (msg 2), (fab (msg 2) {}), by decide +kernel⟩,
   ⟨(0), (1), (0), (home), (fab (msg 4) { homes := [home] }), by decide +kernel⟩,
   ⟨(5), (1000000000), (0), ({ desc 9 4 [put 62 62 1] with phase := .running }), (fly ({ desc 9 4 [put 62 62 1] with phase := .running })), by decide +kernel⟩⟩

theorem witness_SpreadsAndOffers :
  (∃ p : Fin 16, ∃ m : FabMsg, ∃ d : Desc, ∃ r : SpreadRec, ∃ b : Blocks, ∃ u : State, ∃ v : State, ∃ s : State, fabFirst s p.val 0x10 = some m ∧ m.origin.bind (fun o => findDesc s o.1 o.2) = some d ∧ memActive s = true ∧ seqUp s m.reqId = true ∧ u = fabTake (seqWork s m.reqId) p.val 0x10 ∧ bit (wd (toWords 4 m.payload) 0) 31 = false ∧ spreadOf m.payload = some r ∧ ((getSeq u p.val (fld (wd (toWords 4 m.payload) 0) 63 32)).isSome || (u.flight.any fun x => x.owner == d.owner && x.opcode == 2 && x.newSeqs.contains (fld (wd (toWords 4 m.payload) 0) 63 32))) = false ∧ takeBlocks u p.val 1 = some (b, v)) ∧
  (∃ p : Fin 16, ∃ m : FabMsg, ∃ d : Desc, ∃ u : State, ∃ s : State, fabFirst s p.val 0x10 = some m ∧ m.origin.bind (fun o => findDesc s o.1 o.2) = some d ∧ memActive s = true ∧ seqUp s m.reqId = true ∧ u = fabTake (seqWork s m.reqId) p.val 0x10 ∧ bit (wd (toWords 4 m.payload) 0) 31 = true ∧ m.payload.length = 32 ∧ wd (toWords 4 m.payload) 0 &&& maskOf 30 6 = 0#64 ∧ wd (toWords 4 m.payload) 1 &&& maskOf 46 0 = 0#64 ∧ wd (toWords 4 m.payload) 2 = 0#64 ∧ wd (toWords 4 m.payload) 3 = 0#64 ∧ ((getSeq u p.val (fld (wd (toWords 4 m.payload) 0) 63 32)).isSome || (u.flight.any fun x => x.owner == d.owner && x.opcode == 2 && x.newSeqs.contains (fld (wd (toWords 4 m.payload) 0) 63 32))) = false) ∧
  (∃ p : Fin 16, ∃ t : Nat, ∃ lease : Nat, ∃ hold : Nat, ∃ n : Nat, ∃ m : FabMsg, ∃ d : Desc, ∃ r : SeqRec, ∃ o : Outgoing, ∃ u : State, ∃ s : State, fabFirst s p.val 0x20 = some m ∧ m.origin.bind (fun o => findDesc s o.1 o.2) = some d ∧ memActive s = true ∧ seqUp (atTime s t) m.reqId = true ∧ u = fabTake (seqWork (atTime s t) m.reqId) p.val 0x20 ∧ lease = (if fld (m.b 1) 63 32 = 0 then 1000000 else fld (m.b 1) 63 32) ∧ hold = (if fld (m.b 1) 31 0 = 0 then 10000 else fld (m.b 1) 31 0) ∧ m.payload.length = 32 ∧ fld (m.b 0) 47 32 = 0 ∧ fld (m.b 2) 57 0 = 0 ∧ m.b 3 = 0#64 ∧ 1000 ≤ lease ∧ lease ≤ 10000000 ∧ 100 ≤ hold ∧ hold ≤ 1000000 ∧ visibleSeq u p.val m.seq = some r ∧ r.lease = .held ∧ r.epoch = m.epoch ∧ r.frozen = true ∧ seqLost u p.val r = false ∧ fabricQp u p.val (fld (m.b 0) 63 48) = some n ∧ ((getQp u n).map (·.state)) ≠ some .error ∧ o = { part := p.val, seq := m.seq, msg := m, target := fld (m.b 0) 63 48, targetSeq := fld (m.b 0) 31 0, epoch := r.epoch, leaseEnd := u.time + 1000 * lease, holdUs := hold, pagesSent := (r.heads.map fun h => h.entries.length).sum }) ∧
  (∃ p : Fin 16, ∃ t : Nat, ∃ m : FabMsg, ∃ o : Outgoing, ∃ r : SeqRec, ∃ xs : List (List Byte), ∃ u : State, ∃ s : State, fabFirst s p.val 0x22 = some m ∧ memActive s = true ∧ seqUp (atTime s t) m.reqId = true ∧ u = fabTake (seqWork (atTime s t) m.reqId) p.val 0x22 ∧ outgoingOf u p.val m = some o ∧ o.resend = none ∧ getSeq u p.val o.seq = some r ∧ travelPages u p.val r = .ok xs) ∧
  (∃ p : Fin 16, ∃ t : Nat, ∃ m : FabMsg, ∃ o : Outgoing, ∃ u : State, ∃ s : State, fabFirst s p.val 0x23 = some m ∧ u = fabTake (atTime s t) p.val 0x23 ∧ outgoingOf u p.val m = some o ∧ o.resend = none) ∧
  (∃ p : Fin 16, ∃ t : Nat, ∃ m : FabMsg, ∃ o : Outgoing, ∃ u : State, ∃ v : State, ∃ w : State, ∃ s : State, fabFirst s p.val 0x25 = some m ∧ u = fabTake (atTime s t) p.val 0x25 ∧ outgoingOf u p.val m = some o ∧ o.resend = none ∧ u.time < o.leaseEnd ∧ m.epoch = nextEpoch o.epoch 1 ∧ v = setLease u p.val o.seq (fun r => { r with hidden := true, lease := .escrow o.msg.reqId }) ∧ w = putOutgoing v { o with resend := some (v.time + 100000) }) ∧
  (∃ p : Fin 16, ∃ t : Nat, ∃ m : FabMsg, ∃ o : Outgoing, ∃ u : State, ∃ v : State, ∃ s : State, fabFirst s p.val 0x27 = some m ∧ u = fabTake (atTime s t) p.val 0x27 ∧ outgoingOf u p.val m = some o ∧ o.resend.isSome = true ∧ v = removeSeq (dropOutgoing u o) p.val o.seq) ∧
  (∃ p : Fin 16, ∃ t : Nat, ∃ m : FabMsg, ∃ o : Outgoing, ∃ u : State, ∃ s : State, fabFirst s p.val 0x28 = some m ∧ u = fabTake (atTime s t) p.val 0x28 ∧ outgoingOf u p.val m = some o ∧ o.resend.isSome = true) ∧
  (∃ p : Fin 16, ∃ n : Nat, ∃ t : Nat, ∃ o : Outgoing, ∃ s : State, (s.fabric.outgoing.find? fun o => o.part == p.val && o.seq == n && o.resend.isNone && decide (o.leaseEnd ≤ t)) = some o) ∧
  (∃ p : Fin 16, ∃ n : Nat, ∃ t : Nat, ∃ x : Nat, ∃ o : Outgoing, ∃ s : State, s.fabric.outgoing = [o] ∧ o.part = p.val ∧ o.seq = n ∧ o.resend = some x ∧ x ≤ t) ∧
  (∃ o : Owner, ∃ a : Owner, ∃ m : MboxMsg, ∃ t : Nat, ∃ s : State, Heard (atTime s t) o 0x61 m .manager (m.body.length == 16) a ∧ m.at_ 0 + 256 * m.at_ 1 ≤ 0xFFF ∧ ((m.body.drop 2).take 6).all (· == 0#8) = true) :=
  ⟨⟨(0), ({ msg 0x10 (ofWords [put 63 32 8, 0#64, 0#64, 0#64, put 63 48 0x60, 0#64, 0#64, 0#64]) with origin := some (5, 0) }), ({ desc 9 4 [0#64] with phase := .running }), _, _, _, _, ({ fab ({ msg 0x10 (ofWords [put 63 32 8, 0#64, 0#64, 0#64, put 63 48 0x60, 0#64, 0#64, 0#64]) with origin := some (5, 0) }) {} with flight := [{ desc 9 4 [0#64] with phase := .running }] }), by decide +kernel, by decide +kernel, by decide +kernel, by decide +kernel, rfl, by decide +kernel, someGet_eq (by decide +kernel), by decide +kernel, someGet_eq (by decide +kernel)⟩,
   ⟨(0), ({ msg 0x10 (ofWords [put 63 32 8 ||| put 31 31 1, 0#64, 0#64, 0#64]) with origin := some (5, 0) }), ({ desc 9 4 [0#64] with phase := .running }), _, ({ fab ({ msg 0x10 (ofWords [put 63 32 8 ||| put 31 31 1, 0#64, 0#64, 0#64]) with origin := some (5, 0) }) {} with flight := [{ desc 9 4 [0#64] with phase := .running }] }), by decide +kernel, by decide +kernel, by decide +kernel, by decide +kernel, rfl, by decide +kernel⟩,
   (by refine ⟨(0), (0), _, _, (3), ({ { msg 0x20 (ofWords [put 63 48 0x60, 0#64, 0#64, 0#64]) with epoch := 1 } with origin := some (5, 0) }), ({ desc 9 4 [0#64] with phase := .running }), _, _, _, ({ fab ({ { msg 0x20 (ofWords [put 63 48 0x60, 0#64, 0#64, 0#64]) with epoch := 1 } with origin := some (5, 0) }) {} with flight := [{ desc 9 4 [0#64] with phase := .running }] }), ?_, ?_, ?_, ?_, rfl, rfl, rfl, ?_, ?_, ?_, ?_, ?_, ?_, ?_, ?_, someGet_eq (by decide +kernel), ?_, ?_, ?_, ?_, ?_, ?_, rfl⟩ <;> decide +kernel),
   ⟨(0), (0), (msg 0x22), (outgoing), _, _, _, (fab (msg 0x22) { outgoing := [outgoing] }), by decide +kernel, by decide +kernel, by decide +kernel, rfl, by decide +kernel, by decide +kernel, someGet_eq (by decide +kernel), okGet_eq (by decide +kernel)⟩,
   ⟨(0), (0), (msg 0x23), (outgoing), _, (fab (msg 0x23) { outgoing := [outgoing] }), by decide +kernel, rfl, by decide +kernel⟩,
   ⟨(0), (0), ({ msg 0x25 with epoch := 2 }), (outgoing), _, _, _, (fab ({ msg 0x25 with epoch := 2 }) { outgoing := [outgoing] }), by decide +kernel, rfl, by decide +kernel, by decide +kernel, by decide +kernel, by decide +kernel, rfl, rfl⟩,
   ⟨(0), (0), (msg 0x27), ({ outgoing with resend := some 0 }), _, _, (fab (msg 0x27) { outgoing := [{ outgoing with resend := some 0 }] }), by decide +kernel, rfl, by decide +kernel, by decide +kernel, rfl⟩,
   ⟨(0), (0), (msg 0x28), ({ outgoing with resend := some 0 }), _, (fab (msg 0x28) { outgoing := [{ outgoing with resend := some 0 }] }), by decide +kernel, rfl, by decide +kernel⟩,
   ⟨(0), (9), (2000000), (outgoing), (fab (msg 4) { outgoing := [outgoing] }), by decide +kernel⟩,
   ⟨(0), (9), (0), (0), ({ outgoing with resend := some 0 }), (fab (msg 4) { outgoing := [{ outgoing with resend := some 0 }] }), by decide +kernel⟩,
   ⟨(.fm), (.fm), ({ body := List.replicate 16 0 }), (0), (up), heard_of (by decide +kernel), by decide +kernel⟩⟩

theorem witness_HandoffReceiver :
  (∃ p : Fin 16, ∃ t : Nat, ∃ m : FabMsg, ∃ x : Incoming, ∃ fs : List FrameAddr, ∃ u : State, ∃ v : State, ∃ s : State, fabFirst s p.val 0x21 = some m ∧ memActive s = true ∧ seqUp (atTime s t) m.reqId = true ∧ u = fabTake (seqWork (atTime s t) m.reqId) p.val 0x21 ∧ m.payload.length = 32 ∧ m.b 2 = 0#64 ∧ m.b 3 = 0#64 ∧ m.b 0 &&& (maskOf 38 32 ||| maskOf 23 21) = 0#64 ∧ takeOffer u p.val m = .ok (fs, v) ∧ x = { part := p.val, seq := m.seq, sender := ((getQp u m.qpn).map (·.peer)).getD m.replyTo, reqId := m.reqId, epoch := m.epoch, expected := fld (m.b 1) 63 32, holdUs := fld (m.b 1) 31 0, deadline := u.time + 1000 * fld (m.b 1) 31 0, qpn := m.qpn, frames := fs }) ∧
  (∃ p : Fin 16, ∃ t : Nat, ∃ det : Nat, ∃ m : FabMsg, ∃ x : Incoming, ∃ u : State, ∃ s : State, fabFirst s p.val 0x21 = some m ∧ memActive s = true ∧ seqUp (atTime s t) m.reqId = true ∧ u = fabTake (seqWork (atTime s t) m.reqId) p.val 0x21 ∧ m.payload.length = 32 ∧ m.b 2 = 0#64 ∧ m.b 3 = 0#64 ∧ m.b 0 &&& (maskOf 38 32 ||| maskOf 23 21) = 0#64 ∧ takeOffer u p.val m = .error det ∧ x = { part := p.val, seq := m.seq, sender := ((getQp u m.qpn).map (·.peer)).getD m.replyTo, reqId := m.reqId, epoch := m.epoch, expected := fld (m.b 1) 63 32, holdUs := fld (m.b 1) 31 0, deadline := u.time + 1000 * fld (m.b 1) 31 0, qpn := m.qpn }) ∧
  (∃ p : Fin 16, ∃ t : Nat, ∃ m : FabMsg, ∃ x : Incoming, ∃ y : Incoming, ∃ u : State, ∃ v : State, ∃ w : State, ∃ s : State, fabFirst s p.val 0x24 = some m ∧ memActive s = true ∧ u = fabTake (atTime s t) p.val 0x24 ∧ incomingOf u p.val m = some x ∧ x.accepted = false ∧ x.epoch = m.epoch ∧ takePages u x false (cutPages (m.payload.length + 1) m.payload) = .ok (v, y, false) ∧ w = putIncoming v { y with deadline := v.time + 1000 * y.holdUs } ∧ (∀ k, k < s.power.domains.length → (getDom s k).present = .on) ∧ (∀ r, getSeq w p.val x.seq = some r → ∀ h ∈ r.heads, ∀ e ∈ h.entries, ∀ f b, e.2 = .frame f b → 84 + f.ext / 96 < s.power.domains.length) ∧ seqUp (atTime s t) m.reqId = true) ∧
  (∃ p : Fin 16, ∃ t : Nat, ∃ m : FabMsg, ∃ x : Incoming, ∃ u : State, ∃ v : State, ∃ w : State, ∃ s : State, fabFirst s p.val 0x26 = some m ∧ u = fabTake (atTime s t) p.val 0x26 ∧ incomingOf u p.val m = some x ∧ x.accepted = true ∧ u.time < x.deadline ∧ v = setLease u p.val x.seq (fun r => { r with hidden := false, frozen := true, epoch := x.epoch, commitTime := stamp u }) ∧ w = { v with fabric := { v.fabric with incoming := v.fabric.incoming.filter (fun y => !(y.part == x.part && y.seq == x.seq)), remembered := v.fabric.remembered ++ [(p.val, ((getQp u m.qpn).map (·.peer)).getD m.replyTo, m.reqId, u.time)], handedOn := erase v.fabric.handedOn (p.val, x.seq) } }) ∧
  (∃ p : Fin 16, ∃ t : Nat, ∃ m : FabMsg, ∃ u : State, ∃ s : State, fabFirst s p.val 0x26 = some m ∧ u = fabTake (atTime s t) p.val 0x26 ∧ incomingOf u p.val m = none ∧ (u.fabric.remembered.any fun x => x.1 == p.val && x.2.1 == ((getQp u m.qpn).map (·.peer)).getD m.replyTo && x.2.2.1 == m.reqId && decide (u.time < x.2.2.2 + 10000000000)) = false) ∧
  (∃ p : Fin 16, ∃ t : Nat, ∃ m : FabMsg, ∃ x : Incoming, ∃ u : State, ∃ s : State, fabFirst s p.val 0x29 = some m ∧ u = fabTake (atTime s t) p.val 0x29 ∧ incomingOf u p.val m = some x) ∧
  (∃ p : Fin 16, ∃ n : Nat, ∃ t : Nat, ∃ x : Incoming, ∃ s : State, (s.fabric.incoming.find? fun x => x.part == p.val && x.seq == n && x.accepted && decide (x.deadline ≤ t)) = some x) ∧
  (∃ p : Fin 16, ∃ n : Nat, ∃ t : Nat, ∃ x : Incoming, ∃ s : State, (s.fabric.incoming.find? fun x => x.part == p.val && x.seq == n && !x.accepted && decide (x.deadline ≤ t)) = some x) :=
  ⟨⟨(0), (0), ({ msg 0x21 (ofWords [put 31 24 0x19, put 63 32 1 ||| put 31 0 1000, 0#64, 0#64]) with seq := 7, epoch := 2 }), _, _, _, _, (modOwner (fab ({ msg 0x21 (ofWords [put 31 24 0x19, put 63 32 1 ||| put 31 0 1000, 0#64, 0#64]) with seq := 7, epoch := 2 }) {}) (.part 0) fun x => { x with defaults := put 12 12 1 }), by decide +kernel, by decide +kernel, by decide +kernel, rfl, by decide +kernel, by decide +kernel, by decide +kernel, by decide +kernel, okGet_eq (by decide +kernel), rfl⟩,
   ⟨(0), (0), (1), ({ msg 0x21 (ofWords [put 31 24 0x19, put 63 32 1 ||| put 31 0 1000, 0#64, 0#64]) with seq := 7, epoch := 2 }), _, _, (fab ({ msg 0x21 (ofWords [put 31 24 0x19, put 63 32 1 ||| put 31 0 1000, 0#64, 0#64]) with seq := 7, epoch := 2 }) {}), by decide +kernel, by decide +kernel, by decide +kernel, rfl, by decide +kernel, by decide +kernel, by decide +kernel, by decide +kernel, err_is (by decide +kernel), rfl⟩,
   ⟨(0), (0), ({ msg 0x24 with seq := 7, epoch := 2 }), (incoming), _, _, _, _, (fab ({ msg 0x24 with seq := 7, epoch := 2 }) { incoming := [incoming] }), by decide +kernel, by decide +kernel, rfl, by decide +kernel, by decide +kernel, by decide +kernel, rfl, rfl, by decide +kernel, (fun r h => nomatch (show none = some r from h)), by decide +kernel⟩,
   ⟨(0), (0), ({ msg 0x26 with seq := 7, epoch := 2 }), ({ incoming with accepted := true }), _, _, _, (fab ({ msg 0x26 with seq := 7, epoch := 2 }) { incoming := [{ incoming with accepted := true }] }), by decide +kernel, rfl, by decide +kernel, by decide +kernel, by decide +kernel, rfl, rfl⟩,
   ⟨(0), (0), ({ msg 0x26 with seq := 7, epoch := 2 }), _, (fab ({ msg 0x26 with seq := 7, epoch := 2 }) {}), by decide +kernel, rfl, by decide +kernel⟩,
   ⟨(0), (0), ({ msg 0x29 with seq := 7, epoch := 2 }), (incoming), _, (fab ({ msg 0x29 with seq := 7, epoch := 2 }) { incoming := [incoming] }), by decide +kernel, rfl, by decide +kernel⟩,
   ⟨(0), (7), (2000000), ({ incoming with accepted := true }), (fab (msg 4) { incoming := [{ incoming with accepted := true }] }), by decide +kernel⟩,
   ⟨(0), (7), (2000000), (incoming), (fab (msg 4) { incoming := [incoming] }), by decide +kernel⟩⟩

theorem witness_Transfers :
  (∃ q : Nat, ∃ n : Nat, ∃ i : BitVec 32, ∃ rd : HostRead, ∃ d : Desc, ∃ x : Qp, ∃ bs : List Byte, ∃ u : State, ∃ s : State, Taken s q i 0x09 1 [3] d ∧ u = atWork s (needs s d [3]) ∧ n = fld (d.w 2) 19 0 ∧ transferForm d = none ∧ ownQp u d.owner n = some x ∧ transferService d x.service = false ∧ x.state = .ready ∧ x.ctx ≠ none ∧ (bit (d.w 2) 62 && d.w 7 != 0#64) = false ∧ transferData u d rd = .ok bs) ∧
  (∃ q : Nat, ∃ n : Nat, ∃ i : BitVec 32, ∃ rd : HostRead, ∃ d : Desc, ∃ x : Qp, ∃ bs : List Byte, ∃ u : State, ∃ s : State, Taken s q i 0x09 2 [3] d ∧ u = atWork s (needs s d [3]) ∧ n = fld (d.w 2) 19 0 ∧ transferForm d = none ∧ ownQp u d.owner n = some x ∧ transferService d x.service = false ∧ x.state = .ready ∧ x.ctx ≠ none ∧ (bit (d.w 2) 62 && d.w 7 != 0#64) = false ∧ transferData u d rd = .ok bs) ∧
  (∃ q : Nat, ∃ n : Nat, ∃ i : BitVec 32, ∃ d : Desc, ∃ x : Qp, ∃ loc : Loc, ∃ u : State, ∃ s : State, Taken s q i 0x09 3 [3] d ∧ u = atWork s (needs s d [3]) ∧ n = fld (d.w 2) 19 0 ∧ transferForm d = none ∧ ownQp u d.owner n = some x ∧ transferService d x.service = false ∧ x.state = .ready ∧ x.ctx ≠ none ∧ locate u d.owner (d.w 3) (occupied u d.owner (d.w 3) (fld (d.w 4) 31 0)) true = .ok loc ∧ writable u loc = none) ∧
  (∃ q : Nat, ∃ n : Nat, ∃ i : BitVec 32, ∃ rd : HostRead, ∃ d : Desc, ∃ x : Qp, ∃ bs : List Byte, ∃ u : State, ∃ s : State, Taken s q i 0x09 4 [3] d ∧ bit (d.w 2) 63 = false ∧ u = atWork s (needs s d [3]) ∧ n = fld (d.w 2) 19 0 ∧ transferForm d = none ∧ ownQp u d.owner n = some x ∧ transferService d x.service = false ∧ x.state = .ready ∧ x.ctx ≠ none ∧ (bit (d.w 2) 62 = true → d.w 7 ≠ 0#64 → ∃ loc, locate u d.owner (d.w 7) (occupied u d.owner (d.w 7) 0) true = .ok loc ∧ writable u loc = none) ∧ transferData u d rd = .ok bs) ∧
  (∃ q : Nat, ∃ i : BitVec 32, ∃ rd : HostRead, ∃ d : Desc, ∃ p : Fin 16, ∃ bs : List Byte, ∃ m : FabMsg, ∃ u : State, ∃ s : State, Taken s q i 0x09 4 [3] d ∧ bit (d.w 2) 63 = true ∧ bit (d.w 2) 62 = false ∧ u = atWork s (needs s d [3]) ∧ transferForm d = none ∧ d.owner = .part p ∧ fld (d.w 4) 63 32 = 0 ∧ transferData u d rd = .ok bs ∧ m = parseFab bs 0 (some (d.ctx, d.index)) ∧ m.typ ≠ 0x10 ∧ m.typ ≠ 0x20) ∧
  (∃ q : Nat, ∃ n : Nat, ∃ cap : Nat, ∃ i : BitVec 32, ∃ d : Desc, ∃ x : Qp, ∃ loc : Loc, ∃ u : State, ∃ s : State, Taken s q i 0x0A 1 [3] d ∧ u = atWork s (needs s d [3]) ∧ n = fld (d.w 2) 19 0 ∧ cap = fld (d.w 4) 31 0 ∧ bodyOk d.cur [maskOf 19 0, allBits, maskOf 31 0, allBits] = true ∧ 0 < cap ∧ cap ≤ 268435456 ∧ d.len = 0 ∧ ownQp u d.owner n = some x ∧ x.service.toFabric = false ∧ (d.w 5 = 0#64 ∨ x.service = .tagged) ∧ x.state ≠ .error ∧ x.ctx ≠ none ∧ locate u d.owner (d.w 3) (occupied u d.owner (d.w 3) cap) true = .ok loc ∧ writable u loc = none ∧ (x.rxMsgs.all fun m => !m.unexpected) = true) ∧
  (∃ n : Nat, ∃ t : Nat, ∃ q : Qp, ∃ m : TxMsg, ∃ u : State, ∃ s : State, getQp s n = some q ∧ q.state ≠ .error ∧ q.ctx ≠ none ∧ (s.flight.any fun d => d.owner == ownerOf q.part && d.opcode == 0x09 && fld (d.w 2) 19 0 == n && (d.msg.map fun k => decide (sub32 q.nextMsg k ≥ 64)) == some true) = false ∧ (q.txMsgs.any fun m => m.started && decide (sub32 q.nextMsg m.num ≥ 64)) = false ∧ (q.txMsgs.find? fun m => !m.started) = some m ∧ (∀ k ∈ q.openLanes, pathOf (atTime s t) q k = true) ∧ u = (match m.origin.bind fun x => findDesc (atTime s t) x.1 x.2 with
      | some d => putDesc (atTime s t) { d with msg := some q.nextMsg }
      | none => atTime s t)) :=
  ⟨⟨(5), _, (0), ({}), (desc 9 1 [3#64, 0x2000#64, 4#64]), _, _, _, (qpUp (qp3) [desc 9 1 [3#64, 0x2000#64, 4#64]]), ⟨by decide +kernel, by decide +kernel, by decide +kernel, by decide +kernel, by decide +kernel⟩, rfl, rfl, by decide +kernel, someGet_eq (by decide +kernel), by decide +kernel, by decide +kernel, by decide +kernel, by decide +kernel, okGet_eq (by decide +kernel)⟩,
   ⟨(5), _, (0), ({}), (desc 9 2 [3#64, 0x2000#64, 4#64, 0x3000#64]), _, _, _, (qpUp (qp3) [desc 9 2 [3#64, 0x2000#64, 4#64, 0x3000#64]]), ⟨by decide +kernel, by decide +kernel, by decide +kernel, by decide +kernel, by decide +kernel⟩, rfl, rfl, by decide +kernel, someGet_eq (by decide +kernel), by decide +kernel, by decide +kernel, by decide +kernel, by decide +kernel, okGet_eq (by decide +kernel)⟩,
   ⟨(5), _, (0), (desc 9 3 [3#64, 0x2000#64, 4#64, 0x3000#64]), _, (.host 0x2000), _, (qpUp (qp3) [desc 9 3 [3#64, 0x2000#64, 4#64, 0x3000#64]]), ⟨by decide +kernel, by decide +kernel, by decide +kernel, by decide +kernel, by decide +kernel⟩, rfl, rfl, by decide +kernel, someGet_eq (by decide +kernel), by decide +kernel, by decide +kernel, by decide +kernel, ok_is (by decide +kernel), by decide +kernel⟩,
   ⟨(5), _, (0), ({}), (desc 9 4 [3#64, 0x2000#64, 32#64]), _, _, _, (qpUp ({ qp3 with service := .fabric }) [desc 9 4 [3#64, 0x2000#64, 32#64]]), ⟨by decide +kernel, by decide +kernel, by decide +kernel, by decide +kernel, by decide +kernel⟩, by decide +kernel, rfl, rfl, by decide +kernel, someGet_eq (by decide +kernel), by decide +kernel, by decide +kernel, by decide +kernel, (fun h => absurd h (by decide +kernel)), okGet_eq (by decide +kernel)⟩,
   ⟨(5), (0), ({}), (desc 9 4 [put 63 63 1, 0x2000#64, 32#64]), (0), _, _, _, (qpUp ({ qp3 with service := .fabric }) [desc 9 4 [put 63 63 1, 0x2000#64, 32#64]]), ⟨by decide +kernel, by decide +kernel, by decide +kernel, by decide +kernel, by decide +kernel⟩, by decide +kernel, by decide +kernel, rfl, by decide +kernel, by decide +kernel, by decide +kernel, okGet_eq (by decide +kernel), rfl, by decide +kernel⟩,
   ⟨(5), _, _, (0), (desc 10 1 [3#64, 0x2000#64, 16#64]), _, (.host 0x2000), _, (qpUp (qp3) [desc 10 1 [3#64, 0x2000#64, 16#64]]), ⟨by decide +kernel, by decide +kernel, by decide +kernel, by decide +kernel, by decide +kernel⟩, rfl, rfl, rfl, by decide +kernel, by decide +kernel, by decide +kernel, by decide +kernel, someGet_eq (by decide +kernel), by decide +kernel, by decide +kernel, by decide +kernel, by decide +kernel, ok_is (by decide +kernel), by decide +kernel⟩,
   (by refine ⟨(3), (0), _, ({ num := 0, origin := none, kind := .send, data := [1], len := 1 }), _, (qpUp { qp3 with txMsgs := [{ num := 0, origin := none, kind := .send, data := [1], len := 1 }] }), someGet_eq (by decide +kernel), ?_, ?_, ?_, ?_, ?_, ?_, rfl⟩ <;> decide +kernel)⟩

theorem witness_QueuePairs :
  (∃ q : Nat, ∃ n : Nat, ∃ c : Nat, ∃ i : BitVec 32, ∃ p : Fin 16, ∃ d : Desc, ∃ x : Qp, ∃ u : State, ∃ v : State, ∃ s : State, Taken s q i 0x09 0x10 [] d ∧ u = atWork s (needs s d []) ∧ n = fld (d.w 2) 19 0 ∧ d.owner = .part p ∧ d.len = 0 ∧ ownsQpn u d.owner n = true ∧ procAway u 0 = false ∧ belfryFenced u = false ∧ getQp u n = none ∧ (u.flight.any fun x => x.setsUp n) = false ∧ d.setsUp n = false ∧ setupQp u p d = some x ∧ x.service.roce = false ∧ (x.resident = true ∨ spillKind u d.owner = 0 → mayFix u d.owner = true) ∧ takeContext u d.owner true n = some (c, v)) ∧
  (∃ q : Nat, ∃ n : Nat, ∃ c : Nat, ∃ i : BitVec 32, ∃ p : Fin 16, ∃ d : Desc, ∃ x : Qp, ∃ u : State, ∃ v : State, ∃ s : State, Taken s q i 0x09 0x10 [] d ∧ u = atWork s (needs s d []) ∧ n = fld (d.w 2) 19 0 ∧ d.owner = .part p ∧ d.len = 0 ∧ ownsQpn u d.owner n = true ∧ procAway u 0 = false ∧ belfryFenced u = false ∧ getQp u n = none ∧ (u.flight.any fun x => x.setsUp n) = false ∧ d.setsUp n = false ∧ setupQp u p d = some x ∧ x.service.roce = true ∧ (x.resident = true ∨ spillKind u d.owner = 0 → mayFix u d.owner = true) ∧ takeContext u d.owner true n = some (c, v)) ∧
  (∃ q : Nat, ∃ n : Nat, ∃ i : BitVec 32, ∃ d : Desc, ∃ x : Qp, ∃ s : State, stationDesc s q i 0x09 0x11 = some d ∧ fld (d.w 2) 23 20 = 1 ∧ bodyOk d.cur [maskOf 23 0] = true ∧ d.len = 0 ∧ n = fld (d.w 2) 19 0 ∧ ownQp s d.owner n = some x) ∧
  (∃ q : Nat, ∃ n : Nat, ∃ i : BitVec 32, ∃ d : Desc, ∃ x : Qp, ∃ s : State, stationDesc s q i 0x09 0x11 = some d ∧ fld (d.w 2) 23 20 = 2 ∧ bodyOk d.cur [maskOf 23 0] = true ∧ d.len = 0 ∧ n = fld (d.w 2) 19 0 ∧ ownQp s d.owner n = some x) ∧
  (∃ q : Nat, ∃ n : Nat, ∃ i : BitVec 32, ∃ d : Desc, ∃ x : Qp, ∃ s : State, stationDesc s q i 0x09 0x11 = some d ∧ fld (d.w 2) 23 20 = 3 ∧ bodyOk d.cur [maskOf 23 0] = true ∧ d.len = 0 ∧ n = fld (d.w 2) 19 0 ∧ ownQp s d.owner n = some x ∧ x.state = .error) ∧
  (∃ q : Nat, ∃ n : Nat, ∃ t : Nat, ∃ i : BitVec 32, ∃ d : Desc, ∃ x : Qp, ∃ h : KeyHandle, ∃ s : State, stationDesc (atTime s t) q i 0x09 0x11 = some d ∧ fld (d.w 2) 23 20 = 4 ∧ bodyOk d.cur [maskOf 23 0, 0#64, maskOf 63 32] = true ∧ d.len = 0 ∧ n = fld (d.w 2) 19 0 ∧ ownQp (atTime s t) d.owner n = some x ∧ procAway (atTime s t) 0 = false ∧ lookup? s.belfry.handles (fld (d.w 4) 63 32) = some h ∧ h.part = x.part ∧ belfryFenced (atTime s t) = false) ∧
  (∃ q : Nat, ∃ n : Nat, ∃ lanes : Nat, ∃ i : BitVec 32, ∃ d : Desc, ∃ x : Qp, ∃ s : State, stationDesc s q i 0x09 0x11 = some d ∧ fld (d.w 2) 23 20 = 5 ∧ bodyOk d.cur [maskOf 23 0, maskOf 39 32] = true ∧ d.len = 0 ∧ n = fld (d.w 2) 19 0 ∧ ownQp s d.owner n = some x ∧ lanes = fld (d.w 3) 39 32 ∧ 0 < lanes ∧ lanes < 2 ^ planeCount s ∧ (x.service.roce = true → lanes = 1) ∧ ((List.range 8).any fun k => (lanes >>> k) % 2 == 1 && (x.lane k).moving) = false) ∧
  (∃ q : Nat, ∃ n : Nat, ∃ i : BitVec 32, ∃ d : Desc, ∃ x : Qp, ∃ u : State, ∃ s : State, Taken s q i 0x09 0x12 [] d ∧ u = atWork s (needs s d []) ∧ bodyOk d.cur [maskOf 19 0] = true ∧ d.len = 0 ∧ n = fld (d.w 2) 19 0 ∧ ownQp u d.owner n = some x) ∧
  (∃ q : Nat, ∃ n : Nat, ∃ i : BitVec 32, ∃ d : Desc, ∃ x : Qp, ∃ u : State, ∃ s : State, Taken s q i 0x09 0x13 [] d ∧ u = atWork s (needs s d []) ∧ bodyOk d.cur [maskOf 19 0] = true ∧ d.len = 0 ∧ n = fld (d.w 2) 19 0 ∧ ownQp u d.owner n = some x) ∧
  (∃ n : Nat, ∃ s : State, getQp s n = none) ∧
  (∃ n : Nat, ∃ y : Qp, ∃ s : State, getQp s n = some y) :=
  ⟨(by refine ⟨(5), _, _, (0), (0), (desc 9 16 [put 63 48 0x60 ||| put 32 30 1 ||| put 29 27 1 ||| 4#64, put 47 45 1 ||| put 39 32 1 ||| 7#64, put 63 32 1]), _, _, _, (qpUp (qp3) [desc 9 16 [put 63 48 0x60 ||| put 32 30 1 ||| put 29 27 1 ||| 4#64, put 47 45 1 ||| put 39 32 1 ||| 7#64, put 63 32 1]]), ⟨by decide +kernel, by decide +kernel, by decide +kernel, by decide +kernel, by decide +kernel⟩, rfl, rfl, ?_, ?_, ?_, ?_, ?_, ?_, ?_, ?_, someGet_eq (by decide +kernel), ?_, ?_, someGet_eq (by decide +kernel)⟩ <;> decide +kernel),
   (by refine ⟨(5), _, _, (0), (0), (desc 9 16 [put 32 30 1 ||| put 29 27 4 ||| 4#64, put 47 45 1 ||| put 39 32 1 ||| 7#64, put 63 32 1]), _, _, _, (qpUp (qp3) [desc 9 16 [put 32 30 1 ||| put 29 27 4 ||| 4#64, put 47 45 1 ||| put 39 32 1 ||| 7#64, put 63 32 1]]), ⟨by decide +kernel, by decide +kernel, by decide +kernel, by decide +kernel, by decide +kernel⟩, rfl, rfl, ?_, ?_, ?_, ?_, ?_, ?_, ?_, ?_, someGet_eq (by decide +kernel), ?_, ?_, someGet_eq (by decide +kernel)⟩ <;> decide +kernel),
   ⟨(5), _, (0), (desc 9 17 [put 23 20 1 ||| 3#64]), _, (qpUp (qp3) [desc 9 17 [put 23 20 1 ||| 3#64]]), by decide +kernel, by decide +kernel, by decide +kernel, by decide +kernel, rfl, someGet_eq (by decide +kernel)⟩,
   ⟨(5), _, (0), (desc 9 17 [put 23 20 2 ||| 3#64]), _, (qpUp (qp3) [desc 9 17 [put 23 20 2 ||| 3#64]]), by decide +kernel, by decide +kernel, by decide +kernel, by decide +kernel, rfl, someGet_eq (by decide +kernel)⟩,
   ⟨(5), _, (0), (desc 9 17 [put 23 20 3 ||| 3#64]), _, (qpUp ({ qp3 with state := .error }) [desc 9 17 [put 23 20 3 ||| 3#64]]), by decide +kernel, by decide +kernel, by decide +kernel, by decide +kernel, rfl, someGet_eq (by decide +kernel), by decide +kernel⟩,
   ⟨(5), _, (0), (0), (desc 9 17 [put 23 20 4 ||| 3#64, 0#64, put 63 32 1]), _, _, (qpUp (qp3) [desc 9 17 [put 23 20 4 ||| 3#64, 0#64, put 63 32 1]]), by decide +kernel, by decide +kernel, by decide +kernel, by decide +kernel, rfl, someGet_eq (by decide +kernel), by decide +kernel, someGet_eq (by decide +kernel), by decide +kernel⟩,
   ⟨(5), _, _, (0), (desc 9 17 [put 23 20 5 ||| 3#64, put 39 32 3]), _, (qpUp (qp3) [desc 9 17 [put 23 20 5 ||| 3#64, put 39 32 3]]), by decide +kernel, by decide +kernel, by decide +kernel, by decide +kernel, rfl, someGet_eq (by decide +kernel), rfl, by decide +kernel⟩,
   ⟨(5), _, (0), (desc 9 18 [3#64]), _, _, (qpUp (qp3) [desc 9 18 [3#64]]), ⟨by decide +kernel, by decide +kernel, by decide +kernel, by decide +kernel, by decide +kernel⟩, rfl, by decide +kernel, by decide +kernel, rfl, someGet_eq (by decide +kernel)⟩,
   ⟨(5), _, (0), (desc 9 19 [3#64]), _, _, (qpUp (qp3) [desc 9 19 [3#64]]), ⟨by decide +kernel, by decide +kernel, by decide +kernel, by decide +kernel, by decide +kernel⟩, rfl, by decide +kernel, by decide +kernel, rfl, someGet_eq (by decide +kernel)⟩,
   ⟨(3), (up), by decide +kernel⟩,
   ⟨(3), (qp3), (qpUp qp3), by decide +kernel⟩⟩

theorem witness_PacketsArrive :
  (∃ k : Packet, ∃ n : Nat, ∃ t : Nat, ∃ q : Qp, ∃ u : State, ∃ s : State, (k.typ = .send ∨ k.typ = .write ∨ k.typ = .readReq ∨ k.typ = .readResp) ∧ Admitted (atTime s t) k n q ∧ keyOk (atTime s t) q k = true ∧ u = modQp (atTime s t) n (fun q => { q with lastUse := (atTime s t).time })) ∧
  (∃ k : Packet, ∃ n : Nat, ∃ t : Nat, ∃ q : Qp, ∃ u : State, ∃ s : State, (k.typ = .send ∨ k.typ = .write ∨ k.typ = .readReq ∨ k.typ = .readResp) ∧ Admitted (atTime s t) k n q ∧ keyOk (atTime s t) q k = true ∧ u = modQp (atTime s t) n (fun q => { q with lastUse := (atTime s t).time })) ∧
  (∃ k : Packet, ∃ n : Nat, ∃ t : Nat, ∃ q : Qp, ∃ s : State, k.typ = .ack ∧ Admitted (atTime s t) k n q ∧ keyOk (atTime s t) q k = true) ∧
  (∃ k : Packet, ∃ n : Nat, ∃ t : Nat, ∃ q : Qp, ∃ u : State, ∃ s : State, k.typ = .nak ∧ k.msgNum / 2 ^ 24 = 1 ∧ (q.lane k.lane).closedTx = false ∧ Admitted (atTime s t) k n q ∧ keyOk (atTime s t) q k = true ∧ u = modQp (atTime s t) n (fun q => { q with lastUse := (atTime s t).time })) ∧
  (∃ k : Packet, ∃ n : Nat, ∃ lane : Nat, ∃ q : Qp, ∃ u : State, ∃ s : State, k.typ = .laneSync ∧ Admitted s k n q ∧ keyOk s q k = true ∧ lane = k.msgNum % 8 ∧ u = modQp s n (fun q => { q with lastUse := s.time })) ∧
  (∃ k : Packet, ∃ n : Nat, ∃ t : Nat, ∃ lane : Nat, ∃ q : Qp, ∃ u : State, ∃ s : State, k.typ = .laneSyncReply ∧ Admitted (atTime s t) k n q ∧ keyOk (atTime s t) q k = true ∧ lane = k.msgNum % 8 ∧ (q.lane lane).closedTx = true ∧ (q.lane lane).sync ≠ none ∧ u = modQp (atTime s t) n (fun q => { q with lastUse := (atTime s t).time })) ∧
  (∃ k : Packet, ∃ n : Nat, ∃ t : Nat, ∃ q : Qp, ∃ u : State, ∃ s : State, k.typ = .cancel ∧ Admitted (atTime s t) k n q ∧ keyOk (atTime s t) q k = true ∧ u = modQp (atTime s t) n (fun q => { q with lastUse := (atTime s t).time })) ∧
  (∃ k : Packet, ∃ n : Nat, ∃ t : Nat, ∃ q : Qp, ∃ s : State, k.typ = .send ∧ Admitted (atTime s t) k n q ∧ keyOk (atTime s t) q k = false) ∧
  (∃ n : Nat, ∃ lane : Nat, ∃ space : Nat, ∃ t : Nat, ∃ x : Nat, ∃ q : Qp, ∃ s : State, getQp s n = some q ∧ ((q.lane lane).rxOf space).ackTimer = some x ∧ x ≤ t ∧ q.state ≠ .error) ∧
  (∃ n : Nat, ∃ lane : Nat, ∃ space : Nat, ∃ t : Nat, ∃ q : Qp, ∃ y : Unacked, ∃ u : State, ∃ s : State, getQp s n = some q ∧ ((q.lane lane).txOf space).unacked.head? = some y ∧ q.state ≠ .error ∧ ((q.lane lane).txOf space).rnrWait = none ∧ (q.lane lane).closedTx = false ∧ y.sentAt + 1000 * q.retryUs ≤ t ∧ ((q.lane lane).txOf space).expiries + 1 < q.retryCount ∧ u = modQp (atTime s t) n (fun q => q.modLane lane fun l => l.modTx space fun x => { x with expiries := x.expiries + 1 }) ∧ pathOf u q lane = true) ∧
  (∃ n : Nat, ∃ lane : Nat, ∃ space : Nat, ∃ t : Nat, ∃ q : Qp, ∃ y : Unacked, ∃ u : State, ∃ s : State, getQp s n = some q ∧ ((q.lane lane).txOf space).unacked.head? = some y ∧ q.state ≠ .error ∧ ((q.lane lane).txOf space).rnrWait = none ∧ (q.lane lane).closedTx = false ∧ y.sentAt + 1000 * q.retryUs ≤ t ∧ q.retryCount ≤ ((q.lane lane).txOf space).expiries + 1 ∧ u = modQp (atTime s t) n (fun q => q.modLane lane fun l => l.modTx space fun x => { x with expiries := x.expiries + 1 })) ∧
  (∃ n : Nat, ∃ lane : Nat, ∃ t : Nat, ∃ x : Nat, ∃ o : Nat, ∃ r : List Nat, ∃ q : Qp, ∃ s : State, getQp s n = some q ∧ (q.lane lane).sync = some x ∧ q.openLanes = o :: r ∧ x ≤ t) ∧
  (∃ n : Nat, ∃ lane : Nat, ∃ space : Nat, ∃ t : Nat, ∃ x : Nat, ∃ q : Qp, ∃ s : State, getQp s n = some q ∧ ((q.lane lane).txOf space).rnrWait = some x ∧ x ≤ t) ∧
  (∃ n : Nat, ∃ t : Nat, ∃ c : Nat, ∃ q : Qp, ∃ u : State, ∃ v : State, ∃ w : State, ∃ s : State, lookup? s.net.fetching n = some [] ∧ getQp s n = some q ∧ takeContext (atTime s t) (ownerOf q.part) true n = some (c, u) ∧ v = modQp u n (fun q => { q with ctx := some c, lastUse := u.time }) ∧ w = { v with net := { v.net with miss := u.net.miss.filter (fun m => m.1 != n), fetching := erase u.net.fetching n } }) ∧
  (∃ n : Nat, ∃ t : Nat, ∃ e : Nat, ∃ x : Nat, ∃ q : Qp, ∃ s : State, getQp s n = some q ∧ q.oldEpoch = some (e, x) ∧ x ≤ t) ∧
  (∃ k : RocePacket, ∃ t : Nat, ∃ q : Qp, ∃ x : Qp, ∃ s : State, RoceKept (atTime s t) k ∧ getQp s k.qpn = some q ∧ q.service.roce = true ∧ q.part = k.dst % 16 ∧ espAccept (atTime s t) k.qpn q k = some x ∧ k.icrcOk = true ∧ q.state ≠ .error ∧ q.ctx ≠ none) ∧
  (∃ k : RocePacket, ∃ t : Nat, ∃ q : Qp, ∃ s : State, RoceKept (atTime s t) k ∧ getQp s k.qpn = some q ∧ q.service.roce = true ∧ q.part = k.dst % 16 ∧ espAccept (atTime s t) k.qpn q k = none ∧ q.ctx ≠ none) ∧
  (∃ k : RocePacket, ∃ t : Nat, ∃ s : State, RoceKept (atTime s t) k ∧ (∀ q, getQp s k.qpn = some q → q.service.roce = true → q.part ≠ k.dst % 16)) :=
  ⟨⟨(packet .send), (3), (0), (qp3), _, (qpUp (qp3)), by decide +kernel, ⟨by decide +kernel, by decide +kernel, ok_is (by decide +kernel), by decide +kernel, by decide +kernel⟩, by decide +kernel, rfl⟩,
   ⟨({ packet .readResp with space := 1 }), (3), (0), (qp3), _, (qpUp (qp3)), by decide +kernel, ⟨by decide +kernel, by decide +kernel, ok_is (by decide +kernel), by decide +kernel, by decide +kernel⟩, by decide +kernel, rfl⟩,
   ⟨(packet .ack), (3), (0), (qp3), (qpUp (qp3)), by decide +kernel, ⟨by decide +kernel, by decide +kernel, ok_is (by decide +kernel), by decide +kernel, by decide +kernel⟩, by decide +kernel⟩,
   ⟨({ packet .nak with msgNum := 2 ^ 24 }), (3), (0), (qp3), _, (qpUp (qp3)), by decide +kernel, by decide +kernel, by decide +kernel, ⟨by decide +kernel, by decide +kernel, ok_is (by decide +kernel), by decide +kernel, by decide +kernel⟩, by decide +kernel, rfl⟩,
   ⟨(packet .laneSync), (3), _, (qp3), _, (qpUp (qp3)), by decide +kernel, ⟨by decide +kernel, by decide +kernel, ok_is (by decide +kernel), by decide +kernel, by decide +kernel⟩, by decide +kernel, rfl, rfl⟩,
   ⟨(packet .laneSyncReply), (3), (0), _, ({ qp3 with lanes := (List.replicate 8 {}).set 0 { closedTx := true, sync := some 0 } }), _, (qpUp ({ qp3 with lanes := (List.replicate 8 {}).set 0 { closedTx := true, sync := some 0 } })), by decide +kernel, ⟨by decide +kernel, by decide +kernel, ok_is (by decide +kernel), by decide +kernel, by decide +kernel⟩, by decide +kernel, rfl, by decide +kernel, by decide +kernel, rfl⟩,
   ⟨(packet .cancel), (3), (0), (qp3), _, (qpUp (qp3)), by decide +kernel, ⟨by decide +kernel, by decide +kernel, ok_is (by decide +kernel), by decide +kernel, by decide +kernel⟩, by decide +kernel, rfl⟩,
   ⟨({ packet .send with authentic := false }), (3), (0), (qp3), (qpUp (qp3)), by decide +kernel, ⟨by decide +kernel, by decide +kernel, ok_is (by decide +kernel), by decide +kernel, by decide +kernel⟩, by decide +kernel⟩,
   ⟨(3), (0), (0), (16000), (5), _, (qpUp ({ qp3 with lanes := (List.replicate 8 {}).set 0 { rx := { ackTimer := some 5 } } })), someGet_eq (by decide +kernel), by decide +kernel⟩,
   ⟨(3), (0), (0), (16000), _, _, _, (qpUp ({ qp3 with lanes := (List.replicate 8 {}).set 0 { tx := { unacked := [{ psn := 0, pkt := packet .send }] } }, retryCount := 4 })), someGet_eq (by decide +kernel), someGet_eq (by decide +kernel), by decide +kernel, by decide +kernel, by decide +kernel, by decide +kernel, by decide +kernel, rfl, by decide +kernel⟩,
   ⟨(3), (0), (0), (16000), _, _, _, (qpUp ({ qp3 with lanes := (List.replicate 8 {}).set 0 { tx := { unacked := [{ psn := 0, pkt := packet .send }] } } })), someGet_eq (by decide +kernel), someGet_eq (by decide +kernel), by decide +kernel, by decide +kernel, by decide +kernel, by decide +kernel, by decide +kernel, rfl⟩,
   ⟨(3), (0), (16000), (5), (0), ([]), _, (qpUp ({ qp3 with lanes := (List.replicate 8 {}).set 0 { sync := some 5 } })), someGet_eq (by decide +kernel), by decide +kernel⟩,
   ⟨(3), (0), (0), (16000), (5), _, (qpUp ({ qp3 with lanes := (List.replicate 8 {}).set 0 { tx := { rnrWait := some 5 } } })), someGet_eq (by decide +kernel), by decide +kernel⟩,
   ⟨(3), (0), _, _, _, _, _, ({ qpUp { qp3 with ctx := none } with net := { (qpUp { qp3 with ctx := none }).net with fetching := [(3, [])] } }), by decide +kernel, someGet_eq (by decide +kernel), someGet_eq (by decide +kernel), rfl, rfl⟩,
   ⟨(3), (16000), (1), (5), _, (qpUp ({ qp3 with oldEpoch := some (1, 5) })), someGet_eq (by decide +kernel), by decide +kernel⟩,
   ⟨({ kind := .ack, dst := 0x50, qpn := 3, psn := 0, spi := roceSpi }), (0), (roceQp), _, (qpUp roceQp), ⟨by decide +kernel, by decide +kernel, by decide +kernel, by decide +kernel, by decide +kernel⟩, by decide +kernel, by decide +kernel, by decide +kernel, someGet_eq (by decide +kernel), by decide +kernel⟩,
   ⟨({ kind := .ack, dst := 0x50, qpn := 3, psn := 0, espOk := false }), (0), (roceQp), (qpUp roceQp), ⟨by decide +kernel, by decide +kernel, by decide +kernel, by decide +kernel, by decide +kernel⟩, by decide +kernel⟩,
   ⟨({ kind := .ack, dst := 0x50, qpn := 4, psn := 0 }), (0), (qpUp qp3), ⟨by decide +kernel, by decide +kernel, by decide +kernel, by decide +kernel, by decide +kernel⟩, (fun q h => nomatch (show none = some q from h))⟩⟩

theorem witness_Sweeps :
  (∃ q : Nat, ∃ i : BitVec 32, ∃ p : Fin 16, ∃ d : Desc, ∃ a : AttnReq, ∃ r : SeqRec, ∃ tb : Option ScaleTable, ∃ tile : Tile, ∃ s : State, stationDesc s q i 0x03 1 = some d ∧ memActive s = true ∧ d.locked = true ∧ d.owner = .part p ∧ a = attendReqOf d ∧ bodyOk d.cur [maskOf 56 48 ||| maskOf 45 0, maskOf 56 32 ||| maskOf 24 0, maskOf 63 32 ||| maskOf 24 0, allBits, allBits, maskOf 63 56 ||| maskOf 15 0] = true ∧ scaleLegal (fld (d.w 4) 63 32) = true ∧ d.chainIn = true ∧ a.qcount % a.group = 0 ∧ visibleSeq s p a.seq = some r ∧ seqLost s p r = false ∧ a.layer < r.layers ∧ a.head < r.nheads ∧ scaleOf d (fld (d.w 7) 63 56) a.layer (a.head + 1) r.dimCode = .ok tb ∧ inputSize d = a.qcount * r.dim * (if bit (d.w 2) 55 then 4 else 2) ∧ hubCount s * a.qcount * partialBytes r.dim (bit (d.w 2) 56) ≤ 65536 ∧ r.format ≠ 0x30 ∧ outProblem s d 5 (hubCount s * a.qcount * partialBytes r.dim (bit (d.w 2) 56)) = none ∧ outProblem s d 6 32 = none ∧ d.input = some tile ∧ tile.poison = false) ∧
  (∃ q : Nat, ∃ i : BitVec 32, ∃ p : Fin 16, ∃ d : Desc, ∃ s : State, findDesc s q i = some d ∧ d.owner = .part p ∧ d.wantsWalk = true ∧ memActive s = true ∧ ((s.flight.takeWhile fun x => !(x.ctx == q && x.index == i)).any fun x => x.owner == d.owner && x.wantsWalk) = false) ∧
  (∃ q : Nat, ∃ t : Nat, ∃ i : BitVec 32, ∃ p : Fin 16, ∃ d : Desc, ∃ d' : Desc, ∃ a : AttnReq, ∃ r : SeqRec, ∃ xs : List (Nat × Entry), ∃ pages : List PageWork, ∃ taken : List Nat, ∃ u : State, ∃ v : State, ∃ s : State, findDesc s q i = some d ∧ d.owner = .part p ∧ d.wantsWalk = true ∧ memActive s = true ∧ ((s.flight.takeWhile fun x => !(x.ctx == q && x.index == i)).any fun x => x.owner == d.owner && x.wantsWalk) = false ∧ d.opcode = 0x03 ∧ u = { atTime s t with turns := { s.turns with walks := s.turns.walks.filter fun w => decide ((atTime s t).time < w.2) } } ∧ takePlace u p = some taken ∧ v = { (draw u).2 with turns := { u.turns with walk := taken } } ∧ a = attendReqOf d ∧ getSeq u p a.seq = some r ∧ walkPages r a = some xs ∧ pinsFull u xs = false ∧ xs.all (fun y => !entryGone u y.2) = true ∧ pages = xs.mapIdx (fun _ y => pageWork u 0 y.1 y.2 true none) ∧ pages.all (fun w => w.route == .bank) = true ∧ d' = { d.dropShared with walked := true, pages := pages, ranges := [(if a.last = 0 then (r.head a.layer a.head).length else a.last, (r.head a.layer a.head).length)], cores := [] }) ∧
  (∃ k : Nat, ∃ t : Nat, ∃ cycles : Nat, ∃ bytes : Nat, ∃ p : Fin 16, ∃ d : Desc, ∃ d' : Desc, ∃ mine : List Nat, ∃ ps : List (Nat × Nat), ∃ w : State, ∃ s : State, (getUnit s k).chunk = none ∧ (getUnit s k).fenced = false ∧ pchFenced s (k / 16) = false ∧ s.power.stackPaused.getD (k / 512) false = false ∧ k < 10240 ∧ accessFirst s k t = false ∧ nextOnUnit s k = some d ∧ d.owner = .part p ∧ domsOn (atTime s t) [84 + k / 512, 104 + k / 512] = true ∧ w = sweepWindowAt (atWork (atTime s t) [84 + k / 512, 104 + k / 512]) ∧ mine = (List.range d.pages.length).filter (fun j => match d.pages[j]? with
      | some w => w.route == .bank && w.unit == k && w.state == .queued
      | none => false) ∧ (∀ j ∈ mine, ∀ x f, d.pages[j]? = some x → x.frame = some f → (getExt w f.ext).kind = .openRows) ∧ (cycles, ps) = fillChunk d d.fmt d.dim 0 [] [] (mine.flatMap fun j => ((List.range (passesOf d)).filter fun x => decide (((d.pages[j]?).map (·.passes)).getD 0 ≤ x)).map fun x => (j, x)) ∧ bytes = ps.length * pageBytes d.fmt d.dim ∧ usedOf w.sweepUsed (100 + k / 512) + bytes ≤ (caps w).1 * w.power.stackLevel.getD (k / 512) 100 / 100 ∧ shareOk w ((caps w).1 * ((List.range 20).filter (stackFitted w)).length) (fun p => (getPart w p).sweepCeil) (w.sweepUsed.filter fun e => decide (e.1 < 17))
      (ownersWith w fun x => x.opcode == 0x03 && x.phase == .running && x.pages.any fun w => w.route == .bank && w.state == .queued) p bytes = true ∧ d' = { d with pages := d.pages.mapIdx fun j w => if (groupWork ps).any (fun x => x.1 == j) then { w with state := .reading } else w }) ∧
  (∃ k : Nat, ∃ t : Nat, ∃ c : Chunk, ∃ p : Fin 16, ∃ d : Desc, ∃ u : State, ∃ s : State, (getUnit s k).chunk = some c ∧ u = releaseAll (modUnit (atTime s t) k fun x => { x with chunk := none, last := some (c.ctx, c.index), postponed := 0, boundary := (atTime s t).time + if (getUnit s k).postponed = 0 then 0 else 80 }) ∧ findDesc u c.ctx c.index = some d ∧ d.owner = .part p ∧ d.phase = .running ∧ (∀ x ∈ c.work, ∀ w, d.pages[x.1]? = some w → chunkPage u p w (x.2.1 == 0) false false d.dim = none)) ∧
  (∃ k : Nat, ∃ c : Chunk, ∃ s : State, (getUnit s k).chunk = some c) ∧
  (∃ q : Nat, ∃ h : Nat, ∃ i : BitVec 32, ∃ d : Desc, ∃ e : Desc, ∃ f : Desc, ∃ ps : List Partial, ∃ u : State, ∃ v : State, ∃ s : State, findDesc s q i = some d ∧ d.phase = .running ∧ d.opcode = 0x03 ∧ d.walked = true ∧ h < hubCount s ∧ d.hubsDone.contains h = false ∧ d.pages.all (fun w => w.hub != h || w.state == .done) = true ∧ u = gatherUnits s d h ∧ findDesc u q i = some e ∧ (ps, v) = hubFold e h 0 (attendReqOf e).qcount u ∧ f = { e with hubsDone := h :: e.hubsDone, hubParts := e.hubParts ++ [(h, ps)] }) ∧
  (∃ q : Nat, ∃ t : Nat, ∃ i : BitVec 32, ∃ d : Desc, ∃ s : State, findDesc s q i = some d ∧ d.opcode = 0x03 ∧ d.subop = 1 ∧ d.phase ≠ .finished ∧ d.w 6 ≠ 0#64 ∧ 0 < fld (d.w 7) 15 0 ∧ d.time + (d.progressCount + 1) * (1000 * fld (d.w 7) 15 0) ≤ t) ∧
  (∃ q : Nat, ∃ e : Nat, ∃ i : BitVec 32, ∃ d : Desc, ∃ s : State, stationDesc s q i 0x03 2 = some d ∧ memActive s = true ∧ d.len = 0 ∧ bodyOk d.cur [maskOf 16 16 ||| maskOf 10 0] = true ∧ resealExtent s d = some e ∧ resealBefore s d e = false ∧ inStore (stagedView s d) d e = false) ∧
  (∃ q : Nat, ∃ e : Nat, ∃ i : BitVec 32, ∃ d : Desc, ∃ s : State, findDesc s q i = some d ∧ d.isReseal = true ∧ d.phase = .running ∧ d.started = false ∧ ((dispatchedBefore s d).any fun x => x.owner == d.owner && x.isReseal && x.phase == .running && !x.started) = false ∧ resealsOf s d.owner < (if d.owner = .fm then 8 else 2) ∧ resealExtent s d = some e ∧ inStore (stagedView s d) d e = false) ∧
  (∃ q : Nat, ∃ e : Nat, ∃ n : Nat, ∃ i : BitVec 32, ∃ d : Desc, ∃ rows : List Nat, ∃ v : State, ∃ s : State, findDesc s q i = some d ∧ d.isReseal = true ∧ d.phase = .running ∧ d.started = true ∧ resealExtent s d = some e ∧ n = (rows.filter fun r => decide (r < 262144)).eraseDups.length ∧ v = (rows.filter fun r => decide (r < 262144)).foldl (fun s r => unitFault s (e / 3 * 16 + r / 16384) false) s) ∧
  (∃ k : Nat, ∃ s : State, (getUnit s k).fenced = false ∧ pchFenced s (k / 16) = false ∧ k < 10240 ∧ maintenanceAway s k = false) :=
  ⟨⟨(5), (0), (0), (chained (desc 3 1 [9#64, 0#64, put 63 32 0x3F800000, 0#64, 0#64, put 63 56 0xFF]) (List.replicate 128 0)), _, _, _, _, (seqFly [chained (desc 3 1 [9#64, 0#64, put 63 32 0x3F800000, 0#64, 0#64, put 63 56 0xFF]) (List.replicate 128 0)]), by decide +kernel, by decide +kernel, by decide +kernel, by decide +kernel, rfl, by decide +kernel, by decide +kernel, by decide +kernel, by decide +kernel, someGet_eq (by decide +kernel), by decide +kernel, by decide +kernel, by decide +kernel, okGet_eq (by decide +kernel), by decide +kernel, by decide +kernel, by decide +kernel, by decide +kernel, by decide +kernel, someGet_eq (by decide +kernel), by decide +kernel⟩,
   ⟨(5), (0), (0), ({ desc 3 1 [9#64, 0#64, put 63 32 0x3F800000, 0#64, 0#64, put 63 56 0xFF] with phase := .running, dim := 64, fmt := 0x19 }), (seqFly [{ desc 3 1 [9#64, 0#64, put 63 32 0x3F800000, 0#64, 0#64, put 63 56 0xFF] with phase := .running, dim := 64, fmt := 0x19 }]), by decide +kernel⟩,
   (by refine ⟨(5), (0), (0), (0), ({ desc 3 1 [9#64, 0#64, put 63 32 0x3F800000, 0#64, 0#64, put 63 56 0xFF] with phase := .running, dim := 64, fmt := 0x19 }), _, _, _, _, _, _, _, _, (seqFly [{ desc 3 1 [9#64, 0#64, put 63 32 0x3F800000, 0#64, 0#64, put 63 56 0xFF] with phase := .running, dim := 64, fmt := 0x19 }]), ?_, ?_, ?_, ?_, ?_, ?_, rfl, someGet_eq (by decide +kernel), rfl, rfl, someGet_eq (by decide +kernel), someGet_eq (by decide +kernel), ?_, ?_, rfl, ?_, rfl⟩ <;> decide +kernel),
   (by refine ⟨(0), (0), _, _, (0), ({ desc 3 1 [9#64, 0#64, put 63 32 0x3F800000, 0#64, 0#64, put 63 56 0xFF] with phase := .running, dim := 64, fmt := 0x19, walked := true, pages := [onBank .bank] }), _, ([0]), _, _, (seqFly [{ desc 3 1 [9#64, 0#64, put 63 32 0x3F800000, 0#64, 0#64, put 63 56 0xFF] with phase := .running, dim := 64, fmt := 0x19, walked := true, pages := [onBank .bank] }]), ?_, ?_, ?_, ?_, ?_, ?_, ?_, ?_, ?_, rfl, ?_, (fun j h x f g k => by obtain rfl := List.mem_singleton.mp h; obtain rfl := Option.some.inj (show some _ = some x from g); obtain rfl := Option.some.inj (show some _ = some f from k); decide +kernel), rfl, rfl, ?_, ?_, rfl⟩ <;> decide +kernel),
   ⟨(0), (0), ({ ctx := 5, index := 0, work := [(0, 0, 1)], ns := 100 }), (0), ({ desc 3 1 [9#64, 0#64, put 63 32 0x3F800000, 0#64, 0#64, put 63 56 0xFF] with phase := .running, dim := 64, fmt := 0x19, walked := true, pages := [onBank .bank] }), _, (modUnit (seqFly [{ desc 3 1 [9#64, 0#64, put 63 32 0x3F800000, 0#64, 0#64, put 63 56 0xFF] with phase := .running, dim := 64, fmt := 0x19, walked := true, pages := [onBank .bank] }]) 0 fun x => { x with chunk := some { ctx := 5, index := 0, work := [(0, 0, 1)], ns := 100 } }), by decide +kernel, rfl, by decide +kernel, by decide +kernel, by decide +kernel, (fun x h w g => by obtain rfl := List.mem_singleton.mp h; obtain rfl := Option.some.inj (show some _ = some w from g); decide +kernel)⟩,
   ⟨(0), ({ ctx := 5, index := 0, work := [(0, 0, 1)], ns := 100 }), (modUnit (seqFly [{ desc 3 1 [9#64, 0#64, put 63 32 0x3F800000, 0#64, 0#64, put 63 56 0xFF] with phase := .running, dim := 64, fmt := 0x19, walked := true, pages := [onBank .bank] }]) 0 fun x => { x with chunk := some { ctx := 5, index := 0, work := [(0, 0, 1)], ns := 100 } }), by decide +kernel⟩,
   (by refine ⟨(5), (0), (0), ({ desc 3 1 [9#64, 0#64, put 63 32 0x3F800000, 0#64, 0#64, put 63 56 0xFF] with phase := .running, walked := true, hubsDone := [] }), ({ desc 3 1 [9#64, 0#64, put 63 32 0x3F800000, 0#64, 0#64, put 63 56 0xFF] with phase := .running, walked := true, hubsDone := [] }), _, _, _, _, (seqFly [{ desc 3 1 [9#64, 0#64, put 63 32 0x3F800000, 0#64, 0#64, put 63 56 0xFF] with phase := .running, walked := true, hubsDone := [] }]), ?_, ?_, ?_, ?_, ?_, ?_, ?_, rfl, ?_, rfl, rfl⟩ <;> decide +kernel),
   ⟨(5), (5000), (0), ({ desc 3 1 [9#64, 0#64, 0#64, 0#64, 0x2000#64, 5#64] with phase := .running }), (seqFly [{ desc 3 1 [9#64, 0#64, 0#64, 0#64, 0x2000#64, 5#64] with phase := .running }]), by decide +kernel⟩,
   ⟨(5), (2), (0), (desc 3 2 [2#64]), (seqFly [desc 3 2 [2#64]]), by decide +kernel⟩,
   ⟨(5), (2), (0), ({ desc 3 2 [2#64] with phase := .running }), (seqFly [{ desc 3 2 [2#64] with phase := .running }]), by decide +kernel⟩,
   ⟨(5), (2), _, (0), ({ desc 3 2 [2#64] with phase := .running, latched := true, started := true }), ([7]), _, (seqFly [{ desc 3 2 [2#64] with phase := .running, latched := true, started := true }]), by decide +kernel, by decide +kernel, by decide +kernel, by decide +kernel, by decide +kernel, rfl, rfl⟩,
   ⟨(3), (up), by decide +kernel⟩⟩

theorem witness_Folds :
  (∃ q : Nat, ∃ n : Nat, ∃ slots : Nat, ∃ qs : Nat, ∃ c : Nat, ∃ x : Nat, ∃ i : BitVec 32, ∃ rd : HostRead, ∃ d : Desc, ∃ dim : Nat, ∃ tb : Option ScaleTable, ∃ bs : List Byte, ∃ out : List Byte, ∃ ps : List Partial, ∃ u : State, ∃ v : State, ∃ w : State, ∃ z : State, ∃ s : State, Taken s q i 0x04 1 [3, 4] d ∧ u = atWork s (needs s d [3, 4]) ∧ bodyOk d.cur [maskOf 57 48 ||| maskOf 45 32 ||| maskOf 21 16 ||| maskOf 2 0, allBits, allBits, 0#64, 0#64, maskOf 63 56] = true ∧ fld (d.w 2) 2 0 ≤ 4 ∧ qs = fld (d.w 2) 54 48 + 1 ∧ slots = fld (d.w 2) 21 16 + 1 ∧ dim = (dimOf (fld (d.w 2) 2 0)).getD 64 ∧ (if bit (d.w 2) 55 then scaleOf d (fld (d.w 7) 63 56) (fld (d.w 2) 39 32) (fld (d.w 2) 45 40 + 1) (fld (d.w 2) 2 0) else .ok none) = .ok tb ∧ n = partialBytes dim (bit (d.w 2) 56) ∧ inputBreach d 3 = false ∧ inputSize d = slots * qs * n ∧ qs * partialBytes dim (bit (d.w 2) 57) ≤ 65536 ∧ pieceCore u d.owner (mergeBytes d) = some c ∧ coreOf u c = some x ∧ domsOn u [4 + x] = true ∧ v = atWork u [4 + x] ∧ tileInput v d 3 rd = .ok bs ∧ ps = (List.range (slots * qs)).map (fun k => readPartial dim (bit (d.w 2) 56) (slice bs (k * n) n)) ∧ ps.all (fun p => !badPartial p) = true ∧ (out, w) = mergeVectors dim (if bit (d.w 2) 55 then some (headScales tb (fld (d.w 2) 39 32) (fld (d.w 2) 45 40) dim).2 else none) (bit (d.w 2) 57) ((List.range qs).map fun v => (List.range slots).map fun k => ps.getD (k * qs + v) ⟨0, 0, []⟩) v ∧ writeOut w d 4 out = .ok z) ∧
  (∃ q : Nat, ∃ i : BitVec 32, ∃ rd : HostRead, ∃ p : Fin 16, ∃ d : Desc, ∃ a : AttnReq, ∃ r : SeqRec, ∃ tb : Option ScaleTable, ∃ bs : List Byte, ∃ u : State, ∃ s : State, Taken s q i 0x04 2 [5, 6] d ∧ memActive s = true ∧ d.locked = true ∧ u = atWork s (needs s d [5, 6]) ∧ d.owner = .part p ∧ a = exactReqOf d ∧ bodyOk d.cur [maskOf 58 48 ||| maskOf 45 0, maskOf 56 32 ||| maskOf 24 0, maskOf 63 32 ||| maskOf 24 0, allBits, allBits, maskOf 63 55 ||| maskOf 45 40 ||| maskOf 6 0] = true ∧ fld (d.w 2) 57 56 ≠ 3 ∧ fld (d.w 7) 6 0 ≤ 64 ∧ scaleLegal (fld (d.w 4) 63 32) = true ∧ inputBreach d 5 = false ∧ a.qcount % a.group = 0 ∧ usableCores u d.owner ≠ [] ∧ visibleSeq u p a.seq = some r ∧ seqLost u p r = false ∧ a.layer < r.layers ∧ a.head < r.nheads ∧ scaleOf d (fld (d.w 7) 63 56) a.layer (a.head + 1) r.dimCode = .ok tb ∧ inputSize d = a.qcount * r.dim * (queryFmt (fld (d.w 2) 57 56)).2 ∧ a.qcount * partialBytes r.dim (bit (d.w 2) 58) ≤ 65536 ∧ outProblem u d 6 (a.qcount * partialBytes r.dim (bit (d.w 2) 58)) = none ∧ tileInput u d 5 rd = .ok bs) ∧
  (∃ q : Nat, ∃ i : BitVec 32, ∃ rd : HostRead, ∃ p : Fin 16, ∃ d : Desc, ∃ d' : Desc, ∃ bs : List Byte, ∃ names : Nat → Bool, ∃ u : State, ∃ w : State, ∃ s : State, Taken s q i 0x04 3 [2, 3] d ∧ memActive s = true ∧ d.held = [] ∧ u = atWork s (needs s d [2, 3]) ∧ d.owner = .part p ∧ bodyOk d.cur [allBits, allBits, maskOf 6 0] = true ∧ fld (d.w 4) 6 0 ≤ 64 ∧ inputBreach d 2 = false ∧ 48 ≤ inputSize d ∧ usableCores u d.owner ≠ [] ∧ earlyInput d 2 rd 2 (tileInput u d 2 rd) = .ok bs ∧ 32 + 16 * batchCount bs ≤ bs.length ∧ batchHeaderOk bs = true ∧ batchBadEntry bs = none ∧ batchQ bs % (fld (wd (batchHeader bs) 0) 37 32 + 1) = 0 ∧ names = (fun k => k == (batchNames bs).2 || d.prog.isSome) ∧ w = freeScales (putDesc u { d with scale := d.scale.filter fun e => names e.1 }) { d with scale := d.scale.filter fun e => !names e.1 } ∧ d' = { d with held := bs, scale := d.scale.filter (fun e => names e.1), locks := d.locks ++ (((batchReqs bs).map fun a => (p.val, a.seq, false)).filter fun x => !d.locks.any fun y => y.1 == x.1 && y.2.1 == x.2.1).eraseDups } ∧ lockFree w d' = true) ∧
  (∃ q : Nat, ∃ i : BitVec 32, ∃ d : Desc, ∃ s : State, stationDesc s q i 0x04 3 = some d ∧ memActive s = true ∧ d.held ≠ [] ∧ d.locked = true) ∧
  (∃ q : Nat, ∃ k : Nat, ∃ t : Nat, ∃ c : Nat, ∃ i : BitVec 32, ∃ p : Fin 16, ∃ d : Desc, ∃ w : PageWork, ∃ f : FrameAddr, ∃ v : State, ∃ s : State, findDesc s q i = some d ∧ d.owner = .part p ∧ d.pages[k]? = some w ∧ w.frame = some f ∧ d.phase = .running ∧ w.route = .links ∧ w.state = .queued ∧ pairBusy s f.unit = false ∧ domsOn (atTime s t) [84 + f.ext / 96] = true ∧ v = exactWindowAt (atWork (atTime s t) [84 + f.ext / 96]) ∧ shareOk v (caps v).2.1 (fun p => (getPart v p).exactCeil) v.exactUsed (ownersWith v fun x => x.phase == .running && x.pages.any fun w => w.route == .links && w.state == .queued) p (linkBytes v p w d.dim) = true ∧ streamBytes v c + linkBytes v p w d.dim ≤ streamRegion ∧ pagePoisoned v p f (getFrame v f).format d.dim = false ∧ ((getFrame v f).fill = 16 → (crc32c (storedBytes v p f (getFrame v f).format d.dim)).toNat = (getFrame v f).check) ∧ (match w.core with
      | some c => some c
      | none => leastCore v (usableCores v d.owner)) = some c) ∧
  (∃ q : Nat, ∃ k : Nat, ∃ c : Nat, ∃ x : Nat, ∃ stored : Nat, ∃ n : Nat, ∃ i : BitVec 32, ∃ p : Fin 16, ∃ d : Desc, ∃ e : Desc, ∃ w : PageWork, ∃ fmt : Nat, ∃ blocks : List (Nat × Word × List Byte), ∃ image : List Byte, ∃ u : State, ∃ s : State, findDesc s q i = some d ∧ d.owner = .part p ∧ d.pages[k]? = some w ∧ w.core = some c ∧ coreOf s c = some x ∧ corePageData s p w d.dim = some (fmt, blocks, stored) ∧ d.phase = .running ∧ w.route ≠ .bank ∧ w.state = .read ∧ pageReady s x d w = true ∧ servedAfter s x w = false ∧ domsOn s [4 + x] = true ∧ u = takePiece (atWork s [4 + x]) x d (pieceBytes d w) ∧ (if fmt = 0x30 then decodeBlocks d.tables blocks else .ok (corePageBytes u p w d.dim)) = .ok image ∧ w.first = none ∧ e = d.setPage k (fun w => { w with state := .done, data := some (fmt, image) }) ∧ n = stallCycles d.tables fmt d.dim (pageVectors ((attnReqs d)[w.entry]?.getD (attendReqOf d)) (d.ranges.getD w.entry (0, 0)).1 (d.ranges.getD w.entry (0, 0)).2 w.page) stored blocks) ∧
  (∃ c : Nat, ∃ e : Nat × BitVec 32 × Nat × Nat × Nat, ∃ d : Desc, ∃ s : State, roomWanted s c = true ∧ (s.cores.getD c {}).pieces.find? (fun e => e.2.2.2.1 == 0) = some e ∧ findDesc s e.1 e.2.1 = some d ∧ heldBytes s d.owner + movedBytes s d.owner 1 + e.2.2.1 ≤ stagingBytes s d.owner ∧ domsOn s (Loc.staging 0 0).doms = true) ∧
  (∃ c : Nat, ∃ e : Nat × BitVec 32 × Nat × Nat × Nat, ∃ d : Desc, ∃ s : State, roomWanted s c = true ∧ (s.cores.getD c {}).pieces.find? (fun e => e.2.2.2.1 == 0) = some e ∧ findDesc s e.1 e.2.1 = some d ∧ stagingBytes s d.owner < heldBytes s d.owner + movedBytes s d.owner 1 + e.2.2.1 ∧ spillRoom s d.owner e.2.2.1 = true) ∧
  (∃ c : Nat, ∃ s : State, (s.cores.getD c {}).fenced = false ∧ c < 68 ∧ c < s.cores.length) ∧
  (∃ n : Nat, ∃ c : Nat, ∃ x : Nat, ∃ u : State, ∃ s : State, s.coreMap.findIdx? (· == n) = some c ∧ spareCore s = some x ∧ (s.cores.getD n {}).fenced = true ∧ u = { s with coreMap := s.coreMap.set c x, cores := s.cores.modify x fun y => { y with pieces := [] } }) :=
  ⟨⟨(5), _, _, _, _, _, (0), ({}), (chained (desc 4 1 [0#64]) (leBytes 4 0xFF800000 ++ List.replicate 260 0)), _, _, _, _, _, _, _, _, _, (seqFly [chained (desc 4 1 [0#64]) (leBytes 4 0xFF800000 ++ List.replicate 260 0)]), ⟨by decide +kernel, by decide +kernel, by decide +kernel, by decide +kernel, by decide +kernel⟩, rfl, by decide +kernel, by decide +kernel, rfl, rfl, rfl, okGet_eq (by decide +kernel), rfl, by decide +kernel, by decide +kernel, by decide +kernel, someGet_eq (by decide +kernel), someGet_eq (by decide +kernel), by decide +kernel, rfl, rfl, rfl, by decide +kernel, rfl, okGet_eq (by decide +kernel)⟩,
   (by refine ⟨(5), (0), ({}), (0), (chained (desc 4 2 [9#64, 0#64, put 63 32 0x3F800000, 0#64, 0#64, put 63 56 0xFF]) (List.replicate 128 0)), _, _, _, _, _, (seqFly [chained (desc 4 2 [9#64, 0#64, put 63 32 0x3F800000, 0#64, 0#64, put 63 56 0xFF]) (List.replicate 128 0)]), ⟨by decide +kernel, by decide +kernel, by decide +kernel, by decide +kernel, by decide +kernel⟩, ?_, ?_, rfl, ?_, rfl, ?_, ?_, ?_, ?_, ?_, ?_, ?_, someGet_eq (by decide +kernel), ?_, ?_, ?_, okGet_eq (by decide +kernel), ?_, ?_, ?_, okGet_eq (by decide +kernel)⟩ <;> decide +kernel),
   (by refine ⟨(5), (0), ({}), (0), (chained (desc 4 3 []) (ofWords [0#64, put 63 32 0x3F800000, 0#64, 0#64, put 63 32 9, 0#64])), _, _, _, _, _, (seqFly [chained (desc 4 3 []) (ofWords [0#64, put 63 32 0x3F800000, 0#64, 0#64, put 63 32 9, 0#64])]), ⟨by decide +kernel, by decide +kernel, by decide +kernel, by decide +kernel, by decide +kernel⟩, ?_, ?_, rfl, ?_, ?_, ?_, ?_, ?_, ?_, okGet_eq (by decide +kernel), ?_, ?_, ?_, ?_, rfl, rfl, rfl, ?_⟩ <;> decide +kernel),
   ⟨(5), (0), ({ desc 4 3 [] with held := [0] }), (seqFly [{ desc 4 3 [] with held := [0] }]), by decide +kernel⟩,
   (by refine ⟨(5), (0), (0), (0), (0), (0), ({ desc 4 2 [9#64] with phase := .running, dim := 64, fmt := 0x19, walked := true, pages := [onBank .links] }), (onBank .links), (⟨1, 0, 0⟩), _, ({ seqFly [{ desc 4 2 [9#64] with phase := .running, dim := 64, fmt := 0x19, walked := true, pages := [onBank .links] }] with frames := [(⟨1, 0, 0⟩, { state := .open_, format := 0x19, fill := 1 })] }), ?_, ?_, ?_, ?_, ?_, ?_, ?_, ?_, ?_, rfl, ?_⟩ <;> decide +kernel),
   (by refine ⟨(5), (0), (0), (0), _, _, (0), (0), ({ desc 4 2 [9#64] with phase := .running, dim := 64, fmt := 0x19, walked := true, pages := [{ onBank .links .read with core := some 0 }] }), _, ({ onBank .links .read with core := some 0 }), _, _, _, _, ({ seqFly [{ desc 4 2 [9#64] with phase := .running, dim := 64, fmt := 0x19, walked := true, pages := [{ onBank .links .read with core := some 0 }] }] with frames := [(⟨1, 0, 0⟩, { state := .open_, format := 0x19, fill := 1 })] }), ?_, ?_, ?_, ?_, ?_, someGet3_eq (by decide +kernel), ?_, ?_, ?_, ?_, ?_, ?_, rfl, okGet_eq (by decide +kernel), ?_, rfl, rfl⟩ <;> decide +kernel),
   ⟨(0), ((5, 0, 1572864, 0, 0)), _, ({ up with flight := [{ desc 4 2 [9#64] with phase := .running, dim := 64, fmt := 0x19, walked := true, pages := [onBank .links] }, { desc 4 2 [9#64] with phase := .running, dim := 64, fmt := 0x19, walked := true, pages := [{ onBank .links .read with core := some 0 }], index := 1 }], cores := up.cores.modify 0 fun c => { c with pieces := [(5, 0, 1572864, 0, 0)] } }), by decide +kernel, by decide +kernel, someGet_eq (by decide +kernel), by decide +kernel⟩,
   ⟨(0), ((5, 0, 5242880, 0, 0)), _, (modOwner ({ up with flight := [{ desc 4 2 [9#64] with phase := .running, dim := 64, fmt := 0x19, walked := true, pages := [onBank .links] }, { desc 4 2 [9#64] with phase := .running, dim := 64, fmt := 0x19, walked := true, pages := [{ onBank .links .read with core := some 0 }], index := 1 }], cores := up.cores.modify 0 fun c => { c with pieces := [(5, 0, 5242880, 0, 0)] } }) (.part 0) fun o => { o with foldSpill := put 63 63 1 }), by decide +kernel, by decide +kernel, someGet_eq (by decide +kernel), by decide +kernel⟩,
   ⟨(3), (up), by decide +kernel⟩,
   ⟨(3), _, _, _, ({ up with cores := up.cores.modify 3 fun c => { c with fenced := true } }), someGet_eq (by decide +kernel), someGet_eq (by decide +kernel), by decide +kernel, rfl⟩⟩

theorem witness_IngestAndTables :
  (∃ q : Nat, ∃ fmt : Nat, ∃ tokens : Nat, ∃ heads : Nat, ∃ first : Nat, ∃ dim : Nat, ∃ eb : Nat, ∃ policy : Nat, ∃ side : Nat, ∃ i : BitVec 32, ∃ rd : HostRead, ∃ d : Desc, ∃ sf : FloatFmt, ∃ tb : Option ScaleTable, ∃ bs : List Byte, ∃ parts : List (List QPart × List QPart), ∃ segs : List Segment, ∃ marked : List Segment, ∃ u : State, ∃ v : State, ∃ s : State, Taken s q i 0x01 0x01 [4, 5] d ∧ u = atWork s (needs s d [4, 5]) ∧ fmt = fld (d.w 2) 63 56 ∧ tokens = fld (d.w 2) 48 40 ∧ heads = fld (d.w 2) 25 20 + 1 ∧ first = fld (d.w 2) 31 26 ∧ (sf, eb) = srcFmt (fld (d.w 2) 55 54) ∧ bodyOk d.cur [~~~(maskOf 19 8), maskOf 24 0, allBits, allBits] = true ∧ (pageFmt fmt).isSome = true ∧ fld (d.w 2) 55 54 ≠ 3 ∧ fld (d.w 2) 51 49 ≤ 4 ∧ 0 < tokens ∧ tokens ≤ 256 ∧ first + heads ≤ 64 ∧ dim = (dimOf (fld (d.w 2) 51 49)).getD 64 ∧ scaleOf d (fld (d.w 2) 7 0) (fld (d.w 2) 39 32) (first + heads) (fld (d.w 2) 51 49) = .ok tb ∧ inputBreach d 4 = false ∧ inputSize d = heads * tokens * 2 * dim * eb ∧ heads * tokens * tokenBytes fmt dim ≤ 65536 ∧ tileInput u d 4 rd = .ok bs ∧ parts = (List.range heads).map (fun i => ((List.range tokens).map fun j => quantPart fmt ((unpack (8 * eb) (slice bs (((2 * i + 0) * tokens + j) * dim * eb) (dim * eb)) dim).map sf.value) (headScales tb (fld (d.w 2) 39 32) (first + i) dim).1, (List.range tokens).map fun j => quantPart fmt ((unpack (8 * eb) (slice bs (((2 * i + 1) * tokens + j) * dim * eb) (dim * eb)) dim).map sf.value) (headScales tb (fld (d.w 2) 39 32) (first + i) dim).2)) ∧ segs = (parts.mapIdx fun i x => (segments (fld (d.w 3) 24 0) tokens).mapIdx fun j a => judgeSegment (zeroLimit tb) dim (17 * i + j) ((x.1.drop a.1).take a.2) ((x.2.drop a.1).take a.2)).flatten ∧ segs.all (fun g => !g.bad) = true ∧ policy = (if fld (d.w 2) 53 52 = 0 then fld d.defaults 5 4 else fld (d.w 2) 53 52) ∧ (policy ≠ 3 ∨ (segs.all fun g => !g.tooBig && !g.under) = true) ∧ marked = (if policy = 2 then segs.filter (fun g => g.tooBig || g.under) else []) ∧ side = (marked.map fun g => 2 * g.side.length).sum ∧ side ≤ 65536 ∧ (side = 0 ∨ heldBytes u d.owner + side ≤ stagingBytes u d.owner) ∧ writeOut u d 5 (parts.flatMap fun x => x.1.flatMap (·.elems) ++ x.1.flatMap (·.scales) ++ x.2.flatMap (·.elems) ++ x.2.flatMap (·.scales)) = .ok v) ∧
  (∃ q : Nat, ∃ i : BitVec 32, ∃ rd : HostRead, ∃ d : Desc, ∃ bs : List Byte, ∃ u : State, ∃ v : State, ∃ s : State, ∃ dim : Nat, ∃ tokens : Nat, ∃ heads : Nat, ∃ eb : Nat, ∃ sf : FloatFmt, ∃ cs : List (Nat × Bool), Taken s q i 0x01 0x02 [4, 5] d ∧ u = atWork s (needs s d [4, 5]) ∧ tokens = fld (d.w 2) 48 40 ∧ heads = fld (d.w 2) 25 20 + 1 ∧ (sf, eb) = srcFmt (fld (d.w 2) 55 54) ∧ bodyOk d.cur [maskOf 55 54 ||| maskOf 51 20, maskOf 24 0, allBits, allBits] = true ∧ fld (d.w 2) 55 54 ≠ 3 ∧ fld (d.w 2) 51 49 ≤ 4 ∧ 0 < tokens ∧ tokens ≤ 256 ∧ fld (d.w 2) 31 26 + heads ≤ 64 ∧ dim = (dimOf (fld (d.w 2) 51 49)).getD 64 ∧ inputBreach d 4 = false ∧ inputSize d = heads * tokens * 2 * dim * eb ∧ heads * 8 * dim ≤ 65536 ∧ tileInput u d 4 rd = .ok bs ∧ cs = (List.range heads).flatMap (fun i => (List.range 2).flatMap fun v => (List.range dim).map fun c =>
      maxAbs sf ((List.range tokens).map fun j => ofLe (slice bs ((((2 * i + v) * tokens + j) * dim + c) * eb) eb))) ∧ cs.all (fun c => !c.2) = true ∧ writeOut u d 5 (cs.flatMap fun c => leBytes 4 c.1) = .ok v) ∧
  (∃ q : Nat, ∃ slot : Nat, ∃ n : Nat, ∃ raw : Nat, ∃ coded : Nat, ∃ i : BitVec 32, ∃ rd : HostRead, ∃ d : Desc, ∃ tb : DecodeTable, ∃ bs : List Byte, ∃ out : List Byte, ∃ u : State, ∃ v : State, ∃ s : State, Taken s q i 0x01 0x10 [3, 4] d ∧ u = atWork s (needs s d [3, 4]) ∧ codingBodyOk d true = true ∧ slot = fld (d.w 2) 32 32 ∧ d.slotWaits slot = false ∧ d.tables.getD slot none = some tb ∧ n = inputSize d ∧ inputBreach d 3 = false ∧ 2 ≤ n ∧ n ≤ 65280 ∧ n % 2 = 0 ∧ tileInput u d 3 rd = .ok bs ∧ (out, raw, coded) = encodeStream slot tb (fld (d.w 2) 31 0) bs ∧ writeOut u d 4 out = .ok v) ∧
  (∃ q : Nat, ∃ total : Nat, ∃ i : BitVec 32, ∃ rd : HostRead, ∃ d : Desc, ∃ bs : List Byte, ∃ out : List Byte, ∃ blocks : List (Word × Word × List Byte), ∃ u : State, ∃ v : State, ∃ s : State, Taken s q i 0x01 0x11 [3, 4] d ∧ u = atWork s (needs s d [3, 4]) ∧ codingBodyOk d false = true ∧ inputBreach d 3 = false ∧ 0 < inputSize d ∧ tileInput u d 3 rd = .ok bs ∧ parseStream (bs.length / 16 + 1) bs = (blocks, true) ∧ streamWaits d (fld (d.w 2) 31 0) 65536 blocks = false ∧ total = (blocks.map fun b => fld b.1 28 16).sum ∧ openStream d.tables (fld (d.w 2) 31 0) 65536 0 blocks = .ok out ∧ writeOut u d 4 out = .ok v) ∧
  (∃ q : Nat, ∃ total : Nat, ∃ i : BitVec 32, ∃ rd : HostRead, ∃ d : Desc, ∃ bs : List Byte, ∃ out : List Byte, ∃ blocks : List (Word × Word × List Byte), ∃ u : State, ∃ v : State, ∃ s : State, Taken s q i 0x01 0x12 [3, 4] d ∧ u = atWork s (needs s d [3, 4]) ∧ codingBodyOk d false = true ∧ inputBreach d 3 = false ∧ 0 < inputSize d ∧ tileInput u d 3 rd = .ok bs ∧ parseStream (bs.length / 16 + 1) bs = (blocks, true) ∧ streamWaits d (fld (d.w 2) 31 0) (2 ^ 64) blocks = false ∧ total = (blocks.map fun b => fld b.1 28 16).sum ∧ openStream d.tables (fld (d.w 2) 31 0) (2 ^ 64) 0 blocks = .ok out ∧ writeOut u d 4 [] = .ok v) ∧
  (∃ q : Nat, ∃ st : Nat, ∃ det : Nat, ∃ k : Nat, ∃ i : BitVec 32, ∃ rd : HostRead, ∃ d : Desc, ∃ bs : List Byte, ∃ blocks : List (Word × Word × List Byte), ∃ whole : Bool, ∃ u : State, ∃ s : State, Taken s q i 0x01 0x12 [3, 4] d ∧ u = atWork s (needs s d [3, 4]) ∧ codingBodyOk d false = true ∧ inputBreach d 3 = false ∧ 0 < inputSize d ∧ tileInput u d 3 rd = .ok bs ∧ parseStream (bs.length / 16 + 1) bs = (blocks, whole) ∧ streamWaits d (fld (d.w 2) 31 0) (2 ^ 64) blocks = false ∧ openStream d.tables (fld (d.w 2) 31 0) (2 ^ 64) 0 blocks = .error (st, det, k)) ∧
  (∃ q : Nat, ∃ n : Nat, ∃ i : BitVec 32, ∃ rd : HostRead, ∃ d : Desc, ∃ bs : List Byte, ∃ counts : List Nat, ∃ u : State, ∃ v : State, ∃ s : State, Taken s q i 0x01 0x13 [3, 4] d ∧ u = atWork s (needs s d [3, 4]) ∧ codingBodyOk d false = true ∧ n = inputSize d ∧ inputBreach d 3 = false ∧ 2 ≤ n ∧ n ≤ 65536 ∧ n % 2 = 0 ∧ tileInput u d 3 rd = .ok bs ∧ counts = ((unpack 16 bs (n / 2)).map fun w => (w >>> 7) % 256).foldl (fun (acc : List Nat) e => acc.modify e (· + 1)) (List.replicate 256 0) ∧ writeOut u d 4 (counts.flatMap (leBytes 4)) = .ok v) ∧
  (∃ lane : Nat, ∃ k : Nat, ∃ taken : List Nat, ∃ tier : Desc → Bool, ∃ wants : Desc → Bool, ∃ d : Desc, ∃ s : State, lane < 16 ∧ tier = (fun d => d.hasUnits && d.opcode != 0x01) ∧ wants = (if s.power.mode = .absorb ∧ s.flight.any tier then tier else Desc.hasUnits) ∧ turn s s.turns.ingest (ownersWith s wants) = some (k, taken) ∧ (s.flight.find? fun d => d.owner.idx == k && wants d) = some d) ∧
  (∃ q : Nat, ∃ p : Nat, ∃ len : Nat, ∃ slot : Nat, ∃ dim : Nat, ∃ layers : Nat, ∃ heads : Nat, ∃ i : BitVec 32, ∃ rd : HostRead, ∃ d : Desc, ∃ bs : List Byte, ∃ b : Blocks, ∃ u : State, ∃ v : State, ∃ s : State, memActive s = true ∧ Taken s q i 0x0C 0x20 [2] d ∧ u = atWork s (needs s d [2]) ∧ d.len = 0 ∧ bodyOk d.cur [allBits, maskOf 11 8 ||| maskOf 4 0, maskOf 31 0] = true ∧ loadPart u d = .ok p ∧ slot = fld (d.w 3) 3 0 ∧ loadBefore u d p (fun x => fld (x.w 3) 3 0 == slot) = false ∧ bit (d.w 3) 4 = false ∧ len = fld (d.w 4) 31 0 ∧ 64 ≤ len ∧ loadImage u d rd len = .ok bs ∧ dimOf (fld (wd (toWords 8 bs) 0) 17 15) = some dim ∧ fld (wd (toWords 8 bs) 0) 14 8 = 0 ∧ ((toWords 8 bs).drop 1).all (· == 0#64) = true ∧ layers = fld (wd (toWords 8 bs) 0) 31 24 + 1 ∧ heads = fld (wd (toWords 8 bs) 0) 23 18 + 1 ∧ len = 64 + 8 * layers * heads * dim ∧ badScale bs = none ∧ takeBlocks u p (ceilDiv len 4096) = some (b, v)) ∧
  (∃ q : Nat, ∃ p : Nat, ∃ slot : Nat, ∃ i : BitVec 32, ∃ d : Desc, ∃ u : State, ∃ s : State, memActive s = true ∧ Taken s q i 0x0C 0x20 [2] d ∧ u = atWork s (needs s d [2]) ∧ d.len = 0 ∧ bodyOk d.cur [allBits, maskOf 11 8 ||| maskOf 4 0, maskOf 31 0] = true ∧ loadPart u d = .ok p ∧ slot = fld (d.w 3) 3 0 ∧ loadBefore u d p (fun x => fld (x.w 3) 3 0 == slot) = false ∧ bit (d.w 3) 4 = true ∧ d.w 2 = 0#64 ∧ fld (d.w 4) 31 0 = 0) ∧
  (∃ q : Nat, ∃ p : Nat, ∃ slot : Nat, ∃ i : BitVec 32, ∃ rd : HostRead, ∃ d : Desc, ∃ bs : List Byte, ∃ tb : DecodeTable, ∃ u : State, ∃ s : State, Taken s q i 0x0C 0x21 [2] d ∧ u = atWork s (needs s d [2]) ∧ d.len = 0 ∧ bodyOk d.cur [allBits, maskOf 11 8 ||| maskOf 6 4, maskOf 31 0] = true ∧ fld (d.w 3) 5 4 ≠ 3 ∧ loadPart u d = .ok p ∧ d.loadSlot = some slot ∧ bit (d.w 3) 6 = false ∧ fld (d.w 4) 31 0 = 384 ∧ earlyInput d 2 rd 1 (loadImage u d rd 384) = .ok bs ∧ decodeImage bs = some tb ∧ slotHeld u (dispatchedBefore u d) p slot = false ∧ (dispatchedBefore u d).any (fun x => x.loadsSlot p slot) = false) :=
  ⟨(by refine ⟨(5), _, _, _, _, _, _, _, _, (0), ({}), (chained (desc 1 1 [put 63 56 0x19 ||| put 48 40 1 ||| 0xFF]) (List.replicate 256 0)), _, _, _, _, _, _, _, _, (fly (chained (desc 1 1 [put 63 56 0x19 ||| put 48 40 1 ||| 0xFF]) (List.replicate 256 0))), ⟨by decide +kernel, by decide +kernel, by decide +kernel, by decide +kernel, by decide +kernel⟩, rfl, rfl, rfl, rfl, rfl, rfl, ?_, ?_, ?_, ?_, ?_, ?_, ?_, rfl, okGet_eq (by decide +kernel), ?_, ?_, ?_, okGet_eq (by decide +kernel), rfl, rfl, ?_, rfl, ?_, rfl, rfl, ?_, ?_, okGet_eq (by decide +kernel)⟩ <;> decide +kernel),
   (by refine ⟨(5), (0), ({}), (chained (desc 1 2 [put 48 40 1]) (List.replicate 256 0)), _, _, _, (fly (chained (desc 1 2 [put 48 40 1]) (List.replicate 256 0))), _, _, _, _, _, _, ⟨by decide +kernel, by decide +kernel, by decide +kernel, by decide +kernel, by decide +kernel⟩, rfl, rfl, rfl, rfl, ?_, ?_, ?_, ?_, ?_, ?_, rfl, ?_, ?_, ?_, okGet_eq (by decide +kernel), rfl, ?_, okGet_eq (by decide +kernel)⟩ <;> decide +kernel),
   ⟨(5), _, _, _, _, (0), ({}), ({ chained (desc 1 0x10 []) (List.replicate 2 0) with tables := [some flat, none] }), (flat), _, _, _, _, (fly ({ chained (desc 1 0x10 []) (List.replicate 2 0) with tables := [some flat, none] })), ⟨by decide +kernel, by decide +kernel, by decide +kernel, by decide +kernel, by decide +kernel⟩, rfl, by decide +kernel, rfl, by decide +kernel, by decide +kernel, rfl, by decide +kernel, by decide +kernel, by decide +kernel, by decide +kernel, okGet_eq (by decide +kernel), rfl, okGet_eq (by decide +kernel)⟩,
   ⟨(5), _, (0), ({}), (chained (desc 1 0x11 []) (streamBlock 0 0 false [0, 0] [0, 0] 0)), _, _, ((parseStream 2 (streamBlock 0 0 false [0, 0] [0, 0] 0)).1), _, _, (fly (chained (desc 1 0x11 []) (streamBlock 0 0 false [0, 0] [0, 0] 0))), ⟨by decide +kernel, by decide +kernel, by decide +kernel, by decide +kernel, by decide +kernel⟩, rfl, by decide +kernel, by decide +kernel, by decide +kernel, okGet_eq (by decide +kernel), by decide +kernel, by decide +kernel, rfl, okGet_eq (by decide +kernel), okGet_eq (by decide +kernel)⟩,
   ⟨(5), _, (0), ({}), (chained (desc 1 0x12 []) (streamBlock 0 0 false [0, 0] [0, 0] 0)), _, _, ((parseStream 2 (streamBlock 0 0 false [0, 0] [0, 0] 0)).1), _, _, (fly (chained (desc 1 0x12 []) (streamBlock 0 0 false [0, 0] [0, 0] 0))), ⟨by decide +kernel, by decide +kernel, by decide +kernel, by decide +kernel, by decide +kernel⟩, rfl, by decide +kernel, by decide +kernel, by decide +kernel, okGet_eq (by decide +kernel), by decide +kernel, by decide +kernel, rfl, okGet_eq (by decide +kernel), okGet_eq (by decide +kernel)⟩,
   ⟨(5), (stCheck), (3), (0), (0), ({}), (chained (desc 1 0x12 []) (streamBlock 0 0 false [0, 0] [0, 0] 1)), _, ((parseStream 2 (streamBlock 0 0 false [0, 0] [0, 0] 1)).1), (true), _, (fly (chained (desc 1 0x12 []) (streamBlock 0 0 false [0, 0] [0, 0] 1))), ⟨by decide +kernel, by decide +kernel, by decide +kernel, by decide +kernel, by decide +kernel⟩, rfl, by decide +kernel, by decide +kernel, by decide +kernel, okGet_eq (by decide +kernel), by decide +kernel, by decide +kernel, err_is (by decide +kernel)⟩,
   ⟨(5), _, (0), ({}), (chained (desc 1 0x13 []) (List.replicate 2 0)), _, _, _, _, (fly (chained (desc 1 0x13 []) (List.replicate 2 0))), ⟨by decide +kernel, by decide +kernel, by decide +kernel, by decide +kernel, by decide +kernel⟩, rfl, by decide +kernel, rfl, by decide +kernel, by decide +kernel, by decide +kernel, by decide +kernel, okGet_eq (by decide +kernel), rfl, okGet_eq (by decide +kernel)⟩,
   ⟨(0), _, _, _, _, ({ desc 1 0x10 [] with phase := .running, unitsLeft := 1 }), (fly ({ desc 1 0x10 [] with phase := .running, unitsLeft := 1 })), by decide +kernel, rfl, rfl, someGet_eq (by decide +kernel), by decide +kernel⟩,
   ⟨(5), _, _, _, _, _, _, (0), ({}), (desc 0x0C 0x20 [0x3000#64, 0#64, 576#64]), _, _, _, _, ({ fly (desc 0x0C 0x20 [0x3000#64, 0#64, 576#64]) with host := scaleImage }), by decide +kernel, ⟨by decide +kernel, by decide +kernel, by decide +kernel, by decide +kernel, by decide +kernel⟩, rfl, by decide +kernel, by decide +kernel, okGet_eq (by decide +kernel), rfl, by decide +kernel, by decide +kernel, rfl, by decide +kernel, okGet_eq (by decide +kernel), someGet_eq (by decide +kernel), by decide +kernel, by decide +kernel, rfl, rfl, by decide +kernel, by decide +kernel, someGet_eq (by decide +kernel)⟩,
   ⟨(5), _, _, (0), (desc 0x0C 0x20 [0#64, put 4 4 1, 0#64]), _, (fly (desc 0x0C 0x20 [0#64, put 4 4 1, 0#64])), by decide +kernel, ⟨by decide +kernel, by decide +kernel, by decide +kernel, by decide +kernel, by decide +kernel⟩, rfl, by decide +kernel, by decide +kernel, okGet_eq (by decide +kernel), rfl, by decide +kernel⟩,
   ⟨(5), _, _, (0), ({}), ({ desc 0x0C 0x21 [0x3000#64, 0#64, 384#64] with loadSlot := some 0 }), _, _, _, ({ fly ({ desc 0x0C 0x21 [0x3000#64, 0#64, 384#64] with loadSlot := some 0 }) with host := tableImage }), ⟨by decide +kernel, by decide +kernel, by decide +kernel, by decide +kernel, by decide +kernel⟩, rfl, by decide +kernel, by decide +kernel, by decide +kernel, okGet_eq (by decide +kernel), someGet_eq (by decide +kernel), by decide +kernel, by decide +kernel, okGet_eq (by decide +kernel), someGet_eq (by decide +kernel), by decide +kernel⟩⟩

theorem witness_SequenceOperations :
  (∃ q : Nat, ∃ i : BitVec 32, ∃ p : Fin 16, ∃ d : Desc, ∃ e : Desc, ∃ r : SeqRec, ∃ h : Blocks, ∃ bs : List Blocks, ∃ w : State, ∃ w' : State, ∃ s : State, AtPlace s q i 1 [maskOf 31 0, maskOf 63 39 ||| maskOf 31 24 ||| maskOf 20 0] p d ∧ w = stagedView s d ∧ r = { params := d.w 3, headTable := h, heads := List.replicate ((fld (d.w 3) 63 56 + 1) * (fld (d.w 3) 55 50 + 1)) {} } ∧ (dimOf r.dimCode).isSome = true ∧ r.window ≤ 1048576 ∧ ((pageFmt r.format).isSome = true ∨ r.format = 0x30) ∧ d.idTaken = false ∧ getSeq w p d.seq = none ∧ lookup? w.fabric.spreads (p.val, d.seq) = none ∧ pageRows r.format r.dim ≤ classRows w p r.cls ∧ (r.format ≠ 0x30 → pageRows 0x30 r.dim ≤ classRows w p r.promoteCls) ∧ tableFull w d p = false ∧ takeTables s p (r.layers * r.nheads) = some (h, bs, w') ∧ e = { d.finish stDone 0 (some 0) (some 0) with effects := d.effects ++ [.putSeq p d.seq r], blocks := bs ++ d.blocks } ∧ domsOn s (placeDoms e.effects) = true) ∧
  (∃ q : Nat, ∃ tokens : Nat, ∃ heads : Nat, ∃ first : Nat, ∃ layer : Nat, ∃ i : BitVec 32, ∃ p : Fin 16, ∃ d : Desc, ∃ r : SeqRec, ∃ tile : Tile, ∃ a : PlaceAcc, ∃ w : State, ∃ s : State, AtPlace s q i 2 [maskOf 57 46 ||| maskOf 39 0, maskOf 8 0] p d ∧ w = stagedView s d ∧ tokens = fld (d.w 3) 8 0 ∧ heads = fld (d.w 2) 57 52 + 1 ∧ first = fld (d.w 2) 51 46 ∧ layer = fld (d.w 2) 39 32 ∧ d.input = some tile ∧ 0 < tokens ∧ tokens ≤ 256 ∧ visibleSeq w p d.seq = some r ∧ r.heads.length = r.layers * r.nheads ∧ layer < r.layers ∧ first + heads ≤ r.nheads ∧ tile.bytes.length = heads * tokens * tokenBytes r.format r.dim ∧ (∀ x, tile.attr = some x → x.format = r.format ∧ x.dim = r.dimCode ∧ x.layer = layer ∧ x.firstHead = first ∧ x.heads = heads ∧ x.tokens = tokens ∧ ∀ k < heads, (r.head layer (first + k)).length = x.startToken) ∧ r.frozen = false ∧ (∀ k < heads, (r.head layer (first + k)).length + tokens ≤ 16777216) ∧ (List.range heads).foldl (fun (a : Except PlaceFail PlaceAcc) k => match a with
      | .error e => .error e
      | .ok a => appendHead d p d.seq layer (first + k) tile.attr k 18 a ((List.range tokens).map fun j => tokenAt r.format r.dim tokens (slice tile.bytes (k * tokens * tokenBytes r.format r.dim) (tokens * tokenBytes r.format r.dim)) j) 0) (.ok { base := s, s := w, r := r }) = .ok a ∧ a.waits = false ∧ domsOn s (placeDoms (d.effects ++ a.eff ++ [.putSeq p d.seq a.r])) = true) ∧
  (∃ q : Nat, ∃ n : Nat, ∃ i : BitVec 32, ∃ p : Fin 16, ∃ d : Desc, ∃ e : Desc, ∃ r : SeqRec, ∃ r' : SeqRec, ∃ w : State, ∃ s : State, AtPlace s q i 3 [maskOf 31 0, maskOf 24 0] p d ∧ w = stagedView s d ∧ n = fld (d.w 3) 24 0 ∧ visibleSeq w p d.seq = some r ∧ r.frozen = false ∧ (r.heads.any fun h => n < 16 * h.firstPage) = false ∧ r' = (({ r with heads := r.heads.map fun h => (truncateHead w p r h n).1 } : SeqRec).recount).touch ∧ e = { d.finish stDone 0 (some r'.maxLength) (some (r.heads.map fun h => (truncateHead w p r h n).2.2).sum) with effects := d.effects ++ r.heads.flatMap (fun h => (truncateHead w p r h n).2.1) ++ [.putSeq p d.seq r'] } ∧ domsOn s (placeDoms e.effects) = true) ∧
  (∃ q : Nat, ∃ shared : Nat, ∃ i : BitVec 32, ∃ p : Fin 16, ∃ d : Desc, ∃ e : Desc, ∃ src : SeqRec, ∃ r : SeqRec, ∃ t : Blocks, ∃ bs : List Blocks, ∃ bs' : List Blocks, ∃ hs : List HeadList, ∃ w : State, ∃ w' : State, ∃ w'' : State, ∃ s : State, AtPlace s q i 4 [maskOf 31 0, maskOf 31 0, maskOf 24 0] p d ∧ w = stagedView s d ∧ shared = fld (d.w 4) 24 0 ∧ visibleSeq w p (fld (d.w 3) 31 0) = some src ∧ 0 < shared ∧ shared ≤ src.minLength ∧ d.idTaken = false ∧ getSeq w p d.seq = none ∧ lookup? w.fabric.spreads (p.val, d.seq) = none ∧ src.window = 0 ∧ (∀ h ∈ src.heads, ∀ x ∈ h.entries, x.1 < ceilDiv shared 16 → ∀ k b, x.2 ≠ .spilled k b) ∧ tableFull w d p = false ∧ takeTables s p (src.layers * src.nheads) = some (t, bs, w') ∧ forkHeads p { params := setFld src.params 20 0 0, headTable := t, heads := [] } shared src.heads w' = some (hs, bs', w'') ∧ r = ({ params := setFld src.params 20 0 0, headTable := t, heads := hs } : SeqRec).recount ∧ e = { d.finish stDone 0 (some (ceilDiv shared 16 * hs.length)) (some 0) with
          effects := d.effects ++ (hs.flatMap fun h => h.entries.filterMap fun x => match x.2 with
            | .frame f _ => some (Effect.refUp f)
            | .spilled _ _ => none) ++ [.putSeq p d.seq r], blocks := bs ++ bs' ++ d.blocks } ∧ domsOn s (placeDoms e.effects) = true) ∧
  (∃ q : Nat, ∃ i : BitVec 32, ∃ p : Fin 16, ∃ d : Desc, ∃ e : Desc, ∃ r : SeqRec, ∃ s : State, AtPlace s q i 5 [maskOf 31 0] p d ∧ visibleSeq (stagedView s d) p d.seq = some r ∧ r.lease = .held ∧ e = { d.finish stDone 0 (some (r.heads.map fun h => h.entries.length).sum) (some 0) with effects := d.effects ++ [.delSeq p d.seq] } ∧ domsOn s (placeDoms e.effects) = true) ∧
  (∃ q : Nat, ∃ i : BitVec 32, ∃ p : Fin 16, ∃ d : Desc, ∃ r : SeqRec, ∃ w : State, ∃ s : State, AtPlace s q i 6 [maskOf 31 0] p d ∧ w = stagedView s d ∧ visibleSeq w p d.seq = some r ∧ domsOn s (placeDoms d.effects) = true ∧ domsOn s (placeDoms [.putSeq p d.seq r]) = true) ∧
  (∃ q : Nat, ∃ i : BitVec 32, ∃ p : Fin 16, ∃ d : Desc, ∃ r : SeqRec, ∃ w : State, ∃ s : State, AtPlace s q i 7 [maskOf 31 0] p d ∧ w = stagedView s d ∧ visibleSeq w p d.seq = some r ∧ r.lease = .held ∧ domsOn s (placeDoms d.effects) = true ∧ domsOn s (placeDoms [.putSeq p d.seq r]) = true) ∧
  (∃ q : Nat, ∃ i : BitVec 32, ∃ p : Fin 16, ∃ d : Desc, ∃ r : SeqRec, ∃ s : State, AtPlace s q i 8 [maskOf 31 0] p d ∧ visibleSeq (stagedView s d) p d.seq = some r ∧ spilledPages r = [] ∧ domsOn s (placeDoms (d.effects ++ [.putSeq p d.seq r.recount.touch])) = true) ∧
  (∃ q : Nat, ∃ i : BitVec 32, ∃ p : Fin 16, ∃ d : Desc, ∃ r : SeqRec, ∃ ps : List (Nat × Nat × Nat × Nat), ∃ s : State, AtPlace s q i 8 [maskOf 31 0] p d ∧ visibleSeq (stagedView s d) p d.seq = some r ∧ ps = spilledPages r ∧ ps ≠ [] ∧ (∀ x ∈ ps, slotServes s p x.2.2.2 = true) ∧ domsOn s (placeDoms d.effects) = true) ∧
  (∃ q : Nat, ∃ i : BitVec 32, ∃ p : Fin 16, ∃ d : Desc, ∃ r : SeqRec, ∃ s : State, AtPlace s q i 9 [maskOf 31 0, maskOf 0 0, allBits] p d ∧ visibleSeq (stagedView s d) p d.seq = some r ∧ domsOn s (placeDoms d.effects) = true) :=
  ⟨(by refine ⟨(5), (0), (0), (desc 2 1 [8#64, put 31 24 0x19]), _, _, (newTables.1), (newTables.2.1), _, (newTables.2.2), (seqFly [desc 2 1 [8#64, put 31 24 0x19]]), ⟨by decide +kernel, by decide +kernel, by decide +kernel, by decide +kernel, by decide +kernel, by decide +kernel, by decide +kernel⟩, rfl, rfl, ?_, ?_, ?_, ?_, ?_, ?_, ?_, ?_, ?_, newTables_eq, rfl, awake rfl _⟩ <;> decide +kernel),
   ⟨(5), _, _, _, _, (0), (0), (chained (desc 2 2 [9#64, 1#64]) (List.replicate 64 0)), _, _, _, _, (openUp (chained (desc 2 2 [9#64, 1#64]) (List.replicate 64 0))), ⟨by decide +kernel, by decide +kernel, by decide +kernel, by decide +kernel, by decide +kernel, by decide +kernel, by decide +kernel⟩, rfl, rfl, rfl, rfl, rfl, someGet_eq (by decide +kernel), by decide +kernel, by decide +kernel, someGet_eq (by decide +kernel), by decide +kernel, by decide +kernel, by decide +kernel, by decide +kernel, (fun x h => nomatch (show none = some x from h)), by decide +kernel, by decide +kernel, okGet_eq (by decide +kernel), by decide +kernel, awake rfl _⟩,
   ⟨(5), _, (0), (0), (desc 2 3 [9#64, 0#64]), _, _, _, _, (openUp (desc 2 3 [9#64, 0#64])), ⟨by decide +kernel, by decide +kernel, by decide +kernel, by decide +kernel, by decide +kernel, by decide +kernel, by decide +kernel⟩, rfl, rfl, someGet_eq (by decide +kernel), by decide +kernel, by decide +kernel, rfl, rfl, awake rfl _⟩,
   (by refine ⟨(5), _, (0), (0), (desc 2 4 [8#64, 9#64, 16#64]), _, (page9), _, (forkTables.1), (forkTables.2.1), (forkLists.2.1), (forkLists.1), _, (forkTables.2.2), (forkLists.2.2), (forking), ⟨by decide +kernel, by decide +kernel, by decide +kernel, by decide +kernel, by decide +kernel, by decide +kernel, by decide +kernel⟩, rfl, rfl, ?_, ?_, ?_, ?_, ?_, ?_, ?_, (fun h hh x hx _ k => by obtain rfl := List.mem_singleton.mp hh; obtain rfl := List.mem_singleton.mp hx; nofun), ?_, forkTables_eq, forkLists_eq, rfl, rfl, awake rfl _⟩ <;> decide +kernel),
   ⟨(5), (0), (0), (desc 2 5 [9#64]), _, _, (seqFly [desc 2 5 [9#64]]), ⟨by decide +kernel, by decide +kernel, by decide +kernel, by decide +kernel, by decide +kernel, by decide +kernel, by decide +kernel⟩, someGet_eq (by decide +kernel), by decide +kernel, rfl, awake rfl _⟩,
   ⟨(5), (0), (0), (desc 2 6 [9#64]), _, _, (seqFly [desc 2 6 [9#64]]), ⟨by decide +kernel, by decide +kernel, by decide +kernel, by decide +kernel, by decide +kernel, by decide +kernel, by decide +kernel⟩, rfl, someGet_eq (by decide +kernel), awake rfl _, awake rfl _⟩,
   ⟨(5), (0), (0), (desc 2 7 [9#64]), _, _, (seqFly [desc 2 7 [9#64]]), ⟨by decide +kernel, by decide +kernel, by decide +kernel, by decide +kernel, by decide +kernel, by decide +kernel, by decide +kernel⟩, rfl, someGet_eq (by decide +kernel), by decide +kernel, awake rfl _, awake rfl _⟩,
   ⟨(5), (0), (0), (desc 2 8 [9#64]), _, (seqFly [desc 2 8 [9#64]]), ⟨by decide +kernel, by decide +kernel, by decide +kernel, by decide +kernel, by decide +kernel, by decide +kernel, by decide +kernel⟩, someGet_eq (by decide +kernel), by decide +kernel, awake rfl _⟩,
   ⟨(5), (0), (0), (desc 2 8 [9#64]), _, _, ({ seq9Up { page9 with heads := [{ length := 16, entries := [(0, .spilled 4 false)] }] } with flight := [desc 2 8 [9#64]], flash := (modFlash flashUp 0 fun y => { y with spillSpaces := [(0, 0)], spillState := 1, spillSlots := 8 }).flash }), ⟨by decide +kernel, by decide +kernel, by decide +kernel, by decide +kernel, by decide +kernel, by decide +kernel, by decide +kernel⟩, someGet_eq (by decide +kernel), rfl, by decide +kernel, by decide +kernel, awake rfl _⟩,
   ⟨(5), (0), (0), (desc 2 9 [9#64, 0#64]), _, (seqFly [desc 2 9 [9#64, 0#64]]), ⟨by decide +kernel, by decide +kernel, by decide +kernel, by decide +kernel, by decide +kernel, by decide +kernel, by decide +kernel⟩, someGet_eq (by decide +kernel), awake rfl _⟩⟩

theorem witness_ExtentsLocksPins :
  (∃ q : Nat, ∃ x : Nat, ∃ cls : Nat, ∃ table : Nat, ∃ i : BitVec 32, ∃ p : Fin 16, ∃ d : Desc, ∃ e : Desc, ∃ w : State, ∃ s : State, AtPlace s q i 0x10 [maskOf 15 12 ||| maskOf 10 0] p d ∧ w = stagedView s d ∧ cls = fld (d.w 2) 15 13 ∧ bit (d.w 2) 12 = true ∧ ownExt w p (fld (d.w 2) 10 0) = some x ∧ (getExt w x).use = .none ∧ (getExt w x).kind = .openRows ∧ (getExt w x).clearing = false ∧ pchFenced w (x / 3) = false ∧ claimedElse w d x = false ∧ table = ceilDiv (256 * sliceFrames (classRows w p cls)) 4096 ∧ (takeBlocks s p table).isSome = true ∧ e = { d.finish stDone 0 (some (16 * sliceFrames (classRows w p cls))) (some 0) with
          effects := d.effects ++ [.addExtent p x (.page cls) table] } ∧ domsOn s (placeDoms e.effects) = true) ∧
  (∃ q : Nat, ∃ x : Nat, ∃ i : BitVec 32, ∃ p : Fin 16, ∃ d : Desc, ∃ e : Desc, ∃ w : State, ∃ s : State, AtPlace s q i 0x10 [maskOf 15 12 ||| maskOf 10 0] p d ∧ w = stagedView s d ∧ bit (d.w 2) 12 = false ∧ ownExt w p (fld (d.w 2) 10 0) = some x ∧ (getExt w x).use = .none ∧ (getExt w x).kind = .guarded ∧ (getExt w x).clearing = false ∧ pchFenced w (x / 3) = false ∧ claimedElse w d x = false ∧ e = { d.finish stDone 0 (some 61440) (some 0) with effects := d.effects ++ [.addExtent p x .control 0] } ∧ domsOn s (placeDoms e.effects) = true) ∧
  (∃ q : Nat, ∃ x : Nat, ∃ n : Nat, ∃ i : BitVec 32, ∃ p : Fin 16, ∃ d : Desc, ∃ w : State, ∃ s : State, AtPlace s q i 0x11 [maskOf 10 0] p d ∧ w = stagedView s d ∧ ownExt w p (fld (d.w 2) 10 0) = some x ∧ claimedElse w d x = false ∧ domsOn s (placeDoms d.effects) = true ∧ ((∃ c, (getExt w x).use = .page c) ∧ n = framesUsed w p x ∨ (getExt w x).use = .control ∧ n = blocksUsed w p x)) ∧
  (∃ q : Nat, ∃ x : Nat, ∃ n : Nat, ∃ i : BitVec 32, ∃ p : Fin 16, ∃ d : Desc, ∃ w : State, ∃ s : State, AtPlace s q i 0x11 [maskOf 10 0] p d ∧ w = stagedView s d ∧ ownExt w p (fld (d.w 2) 10 0) = some x ∧ claimedElse w d x = false ∧ domsOn s (placeDoms d.effects) = true ∧ ((∃ c, (getExt w x).use = .page c) ∧ n = framesUsed w p x ∨ (getExt w x).use = .control ∧ n = blocksUsed w p x)) ∧
  (∃ q : Nat, ∃ i : BitVec 32, ∃ d : Desc, ∃ s : State, findDesc s q i = some d ∧ d.locked = false) ∧
  (∃ q : Nat, ∃ k : Nat, ∃ i : BitVec 32, ∃ d : Desc, ∃ w : PageWork, ∃ f : FrameAddr, ∃ s : State, findDesc s q i = some d ∧ d.pages[k]? = some w ∧ w.frame = some f ∧ w.pinned = true ∧ w.state = .done ∧ w.route = .bank) :=
  ⟨⟨(5), _, _, _, (0), (0), (desc 2 16 [put 12 12 1 ||| 2#64]), _, _, (seqFly [desc 2 16 [put 12 12 1 ||| 2#64]]), ⟨by decide +kernel, by decide +kernel, by decide +kernel, by decide +kernel, by decide +kernel, by decide +kernel, by decide +kernel⟩, rfl, rfl, by decide +kernel, someGet_eq (by decide +kernel), by decide +kernel, by decide +kernel, by decide +kernel, by decide +kernel, by decide +kernel, rfl, by decide +kernel, rfl, awake rfl _⟩,
   ⟨(5), _, (0), (0), (desc 2 16 [2#64]), _, _, (modExt (seqFly [desc 2 16 [2#64]]) 2 fun x => { x with kind := .guarded }), ⟨by decide +kernel, by decide +kernel, by decide +kernel, by decide +kernel, by decide +kernel, by decide +kernel, by decide +kernel⟩, rfl, by decide +kernel, someGet_eq (by decide +kernel), by decide +kernel, by decide +kernel, by decide +kernel, by decide +kernel, by decide +kernel, rfl, awake rfl _⟩,
   ⟨(5), _, _, (0), (0), (desc 2 17 [1#64]), _, (seqFly [desc 2 17 [1#64]]), ⟨by decide +kernel, by decide +kernel, by decide +kernel, by decide +kernel, by decide +kernel, by decide +kernel, by decide +kernel⟩, rfl, someGet_eq (by decide +kernel), by decide +kernel, awake rfl _, .inl ⟨⟨0, by decide +kernel⟩, rfl⟩⟩,
   ⟨(5), _, _, (0), (0), (desc 2 17 [0#64]), _, (seqFly [desc 2 17 [0#64]]), ⟨by decide +kernel, by decide +kernel, by decide +kernel, by decide +kernel, by decide +kernel, by decide +kernel, by decide +kernel⟩, rfl, someGet_eq (by decide +kernel), by decide +kernel, awake rfl _, .inr ⟨by decide +kernel, rfl⟩⟩,
   ⟨(5), (0), ({ desc 2 5 [9#64] with locks := [(0, 9, true)] }), (seqFly [{ desc 2 5 [9#64] with locks := [(0, 9, true)] }]), by decide +kernel⟩,
   ⟨(5), (0), (0), ({ desc 3 1 [] with phase := .running, pages := [onBank .bank .done] }), (onBank .bank .done), (⟨1, 0, 0⟩), (seqFly [{ desc 3 1 [] with phase := .running, pages := [onBank .bank .done] }]), by decide +kernel⟩⟩

theorem witness_IndexOperations :
  (∃ q : Nat, ∃ p : Nat, ∃ i : BitVec 32, ∃ rd : HostRead, ∃ d : Desc, ∃ ts : List Nat, ∃ u : State, ∃ v : State, ∃ s : State, Taken s q i 0x05 1 [5] d ∧ u = atWork s (needs s d [5]) ∧ matchPart u d = .ok p ∧ domsOn u [3] = true ∧ v = atWork u [3] ∧ pageTokens v d rd false true false false = .ok ts) ∧
  (∃ q : Nat, ∃ p : Nat, ∃ seq : Nat, ∃ i : BitVec 32, ∃ rd : HostRead, ∃ d : Desc, ∃ r : SeqRec, ∃ ts : List Nat, ∃ u : State, ∃ v : State, ∃ s : State, Taken s q i 0x05 2 [5] d ∧ u = atWork s (needs s d [5]) ∧ matchPart u d = .ok p ∧ domsOn u [3] = true ∧ v = atWork u [3] ∧ pageTokens v d rd true false true false = .ok ts ∧ seq = fld (d.w 2) 31 0 ∧ visibleSeq (stagedView v d) p seq = some r ∧ seqLost v p r = false ∧ 16 * fld (d.w 4) 19 0 + ts.length ≤ r.minLength ∧ r.window = 0) ∧
  (∃ q : Nat, ∃ p : Nat, ∃ i : BitVec 32, ∃ rd : HostRead, ∃ d : Desc, ∃ ts : List Nat, ∃ u : State, ∃ v : State, ∃ s : State, Taken s q i 0x05 3 [5] d ∧ u = atWork s (needs s d [5]) ∧ matchPart u d = .ok p ∧ domsOn u [3] = true ∧ v = atWork u [3] ∧ pageTokens v d rd false false false false = .ok ts) ∧
  (∃ q : Nat, ∃ p : Nat, ∃ i : BitVec 32, ∃ rd : HostRead, ∃ d : Desc, ∃ ts : List Nat, ∃ out : List Byte, ∃ u : State, ∃ v : State, ∃ w : State, ∃ s : State, Taken s q i 0x05 4 [5, 6] d ∧ u = atWork s (needs s d [5, 6]) ∧ matchPart u d = .ok p ∧ domsOn u [3] = true ∧ v = atWork u [3] ∧ pageTokens v d rd false false false true = .ok ts ∧ out = (tileFps d ts).flatMap (fun x => leBytes 8 x.1) ∧ writeOut v d 6 out = .ok w) ∧
  (∃ q : Nat, ∃ p : Nat, ∃ n : Nat, ∃ ns : Nat, ∃ seq : Nat, ∃ start : Nat, ∃ i : BitVec 32, ∃ rd : HostRead, ∃ d : Desc, ∃ rec : SeqRec, ∃ img : Nat × List Byte, ∃ bs : List Byte, ∃ ts : List Nat, ∃ old : AutoRec, ∃ u : State, ∃ v : State, ∃ s : State, Taken s q i 0x05 0x10 [5] d ∧ u = atWork s (needs s d [5]) ∧ matchPart u d = .ok p ∧ domsOn u [3] = true ∧ v = atWork u [3] ∧ n = inputSize d ∧ ns = fld (d.w 2) 63 32 ∧ seq = fld (d.w 2) 31 0 ∧ start = fld (d.w 7) 24 0 ∧ bodyOk d.cur [allBits, 0#64, 0#64, allBits, 0#64, maskOf 24 0] = true ∧ inputBreach d 5 = false ∧ n % 4 = 0 ∧ 4 ≤ n ∧ n ≤ 65536 ∧ visibleSeq (stagedView v d) p seq = some rec ∧ d.patterns = some img ∧ seqLost v p rec = false ∧ tileInput v d 5 rd = .ok bs ∧ tokensOf bs = some ts ∧ old = readAuto rec.automaton ∧ (start ≠ 0 → start = old.stepped ∧ ns = old.ns)) ∧
  (∃ q : Nat, ∃ p : Nat, ∃ i : BitVec 32, ∃ d : Desc, ∃ r : SeqRec, ∃ u : State, ∃ v : State, ∃ w : State, ∃ s : State, Taken s q i 0x05 0x11 [6] d ∧ u = atWork s (needs s d [6]) ∧ matchPart u d = .ok p ∧ domsOn u [3] = true ∧ v = atWork u [3] ∧ bodyOk d.cur [maskOf 31 0, 0#64, 0#64, allBits, allBits] = true ∧ d.len = 0 ∧ d.chainIn = false ∧ d.w 5 = 0#64 ∧ visibleSeq (stagedView v d) p (fld (d.w 2) 31 0) = some r ∧ seqLost v p r = false ∧ writeOut v d 6 (ofWords r.automaton) = .ok w) ∧
  (∃ q : Nat, ∃ p : Nat, ∃ i : BitVec 32, ∃ d : Desc, ∃ u : State, ∃ s : State, memActive s = true ∧ Taken s q i 0x0C 0x22 [2] d ∧ u = atWork s (needs s d [2]) ∧ d.len = 0 ∧ bodyOk d.cur [allBits, maskOf 11 8 ||| maskOf 4 4, maskOf 31 0] = true ∧ loadPart u d = .ok p ∧ snareBlocks u p ≠ [] ∧ loadBefore u d p (fun _ => true) = false ∧ bit (d.w 3) 4 = true ∧ d.w 2 = 0#64 ∧ fld (d.w 4) 31 0 = 0) ∧
  (∃ q : Nat, ∃ p : Nat, ∃ n : Nat, ∃ len : Nat, ∃ i : BitVec 32, ∃ rd : HostRead, ∃ d : Desc, ∃ bs : List Byte, ∃ x : PatSet, ∃ auto : List Blocks, ∃ b : Blocks, ∃ u : State, ∃ v : State, ∃ w : State, ∃ s : State, memActive s = true ∧ Taken s q i 0x0C 0x22 [2] d ∧ u = atWork s (needs s d [2]) ∧ d.len = 0 ∧ bodyOk d.cur [allBits, maskOf 11 8 ||| maskOf 4 4, maskOf 31 0] = true ∧ loadPart u d = .ok p ∧ n = (snareBlocks u p).length ∧ 0 < n ∧ bit (d.w 3) 4 = false ∧ len = fld (d.w 4) 31 0 ∧ 64 ≤ len ∧ earlyInput d 2 rd 1 (loadImage u d rd len) = .ok bs ∧ x = readSet bs ∧ len = 64 + 4 * x.ranges.length + 2 * x.states * x.classes + 2 * x.states + 8 * x.patterns.length ∧ setOk bs = true ∧ x.states ≤ 256 * n ∧ x.states * x.classes ≤ 8192 * n ∧ x.ranges.length ≤ 256 * n ∧ x.patterns.length ≤ 2 * n ∧ takeRuns u p (if (getPart u p).autoTable.isEmpty then tableRuns u p else []) = some (auto, v) ∧ takeBlocks v p (ceilDiv len 4096) = some (b, w)) :=
  ⟨⟨(5), _, (0), ({}), (chained (desc 5 1 [0#64]) (List.replicate 64 0)), _, _, _, (snareUp (chained (desc 5 1 [0#64]) (List.replicate 64 0))), ⟨by decide +kernel, by decide +kernel, by decide +kernel, by decide +kernel, by decide +kernel⟩, rfl, okGet_eq (by decide +kernel), by decide +kernel, rfl, okGet_eq (by decide +kernel)⟩,
   ⟨(5), _, _, (0), ({}), (chained (desc 5 2 [9#64]) (List.replicate 64 0)), _, _, _, _, (snareUp (chained (desc 5 2 [9#64]) (List.replicate 64 0))), ⟨by decide +kernel, by decide +kernel, by decide +kernel, by decide +kernel, by decide +kernel⟩, rfl, okGet_eq (by decide +kernel), by decide +kernel, rfl, okGet_eq (by decide +kernel), rfl, someGet_eq (by decide +kernel), by decide +kernel⟩,
   ⟨(5), _, (0), ({}), (chained (desc 5 3 [0#64]) (List.replicate 64 0)), _, _, _, (snareUp (chained (desc 5 3 [0#64]) (List.replicate 64 0))), ⟨by decide +kernel, by decide +kernel, by decide +kernel, by decide +kernel, by decide +kernel⟩, rfl, okGet_eq (by decide +kernel), by decide +kernel, rfl, okGet_eq (by decide +kernel)⟩,
   ⟨(5), _, (0), ({}), (chained (desc 5 4 [0#64]) (List.replicate 64 0)), _, _, _, _, _, (snareUp (chained (desc 5 4 [0#64]) (List.replicate 64 0))), ⟨by decide +kernel, by decide +kernel, by decide +kernel, by decide +kernel, by decide +kernel⟩, rfl, okGet_eq (by decide +kernel), by decide +kernel, rfl, okGet_eq (by decide +kernel), rfl, okGet_eq (by decide +kernel)⟩,
   ⟨(5), _, _, _, _, _, (0), ({}), ({ chained (desc 5 16 [9#64]) (List.replicate 4 0) with patterns := some (1, []) }), _, ((1, [])), _, _, _, _, _, (snareUp ({ chained (desc 5 16 [9#64]) (List.replicate 4 0) with patterns := some (1, []) })), ⟨by decide +kernel, by decide +kernel, by decide +kernel, by decide +kernel, by decide +kernel⟩, rfl, okGet_eq (by decide +kernel), by decide +kernel, rfl, rfl, rfl, rfl, rfl, by decide +kernel, by decide +kernel, by decide +kernel, by decide +kernel, by decide +kernel, someGet_eq (by decide +kernel), by decide +kernel, by decide +kernel, okGet_eq (by decide +kernel), someGet_eq (by decide +kernel), rfl, by decide +kernel⟩,
   ⟨(5), _, (0), (desc 5 0x11 [9#64]), _, _, _, _, (snareUp (desc 5 0x11 [9#64])), ⟨by decide +kernel, by decide +kernel, by decide +kernel, by decide +kernel, by decide +kernel⟩, rfl, okGet_eq (by decide +kernel), by decide +kernel, rfl, by decide +kernel, by decide +kernel, by decide +kernel, by decide +kernel, someGet_eq (by decide +kernel), by decide +kernel, okGet_eq (by decide +kernel)⟩,
   ⟨(5), _, (0), (desc 0x0C 0x22 [0#64, put 4 4 1]), _, (snareUp (desc 0x0C 0x22 [0#64, put 4 4 1])), by decide +kernel, ⟨by decide +kernel, by decide +kernel, by decide +kernel, by decide +kernel, by decide +kernel⟩, rfl, by decide +kernel, by decide +kernel, okGet_eq (by decide +kernel), by decide +kernel⟩,
   (by refine ⟨(5), _, _, _, (0), ({}), (desc 0x0C 0x22 [0x3000#64, 0#64, 80#64]), _, _, _, _, _, _, _, ({ snareUp (desc 0x0C 0x22 [0x3000#64, 0#64, 80#64]) with host := [⟨0x3004, 1⟩] }), ?_, ⟨by decide +kernel, by decide +kernel, by decide +kernel, by decide +kernel, by decide +kernel⟩, rfl, ?_, ?_, okGet_eq (by decide +kernel), rfl, ?_, ?_, rfl, ?_, okGet_eq (by decide +kernel), rfl, ?_, ?_, ?_, ?_, ?_, ?_, someGet_eq (by decide +kernel), someGet_eq (by decide +kernel)⟩ <;> decide +kernel)⟩

theorem witness_IndexWork :
  (∃ p : Nat, ∃ ps : List Nat, ∃ taken : List Nat, ∃ d : Desc, ∃ op : SlotOp, ∃ rest : List SlotOp, ∃ v : State, ∃ s : State, ps = (List.range 16).filter (fun p => s.flight.any fun d => d.owner == ownerOf p && (d.phase == .running && d.opcode == 0x05 && !d.slots.isEmpty)) ∧ (ps.find? (fun p => decide (s.snare.taken.getD p 0 < max 1 (snareBlocks s p).length)) = some p ∧ taken = s.snare.taken.set p (s.snare.taken.getD p 0 + 1) ∨
      (∀ x ∈ ps, max 1 (snareBlocks s x).length ≤ s.snare.taken.getD x 0) ∧ ps.head? = some p ∧ taken = (List.replicate 16 0).set p 1) ∧ s.flight.find? (fun d => d.owner == ownerOf p && (d.phase == .running && d.opcode == 0x05 && !d.slots.isEmpty)) = some d ∧ domsOn s [3] = true ∧ v = count { atWork s [3] with snare := { (atWork s [3]).snare with taken := taken } } (ownerOf p) 14 1 ∧ d.slots = op :: rest) ∧
  (∃ b : Nat, ∃ e : SnareEntry, ∃ r : List SnareEntry, ∃ s : State, (getBlock s b).shifting = e :: r) ∧
  (∃ p : Fin 16, ∃ low : Nat, ∃ a : Nat, ∃ b : Nat, ∃ rest : List Nat, ∃ s : State, (snareBlocks s p).dropWhile (· != low) = a :: b :: rest ∧ a ≠ b ∧ (getBlock s a).shifting = [] ∧ (getBlock s b).shifting = [] ∧ ((getBlock s a).entries.length > 3584 ∧ (getBlock s b).entries.length < 2048 ∨ (getBlock s b).entries.length > 3584 ∧ (getBlock s a).entries.length < 2048)) ∧
  (∃ x : Int, ∃ s : State, s.snare.step < throttleStep x) ∧
  (∃ x : Int, ∃ s : State, 1 ≤ s.snare.step ∧ s.snare.step ≤ 3 ∧ x ≤ (if s.snare.step = 3 then 400 else if s.snare.step = 2 then 380 else 360) - 12) :=
  ⟨⟨(0), _, _, ({ desc 5 3 [] with phase := .running, slots := [.change] }), (.change), ([]), _, (snareUp ({ desc 5 3 [] with phase := .running, slots := [.change] })), rfl, .inl ⟨by decide +kernel, rfl⟩, by decide +kernel, by decide +kernel, rfl, by decide +kernel⟩,
   ⟨(0), ({ fp := 7, seq := 9, page := 0 }), ([]), ({ up with snare := { blocks := [(0, { valid := true, shifting := [{ fp := 7, seq := 9, page := 0 }] }), (1, {})] } }), by decide +kernel⟩,
   ⟨(0), (0), (0), (1), ([]), ({ up with snare := { blocks := [(0, { valid := true, entries := (List.range 3585).map fun k => { fp := k, seq := 9, page := 0 } }), (1, { valid := true })] } }), by decide +kernel⟩,
   ⟨(400), (up), by decide +kernel⟩,
   ⟨(0), ({ up with snare := { step := 1 } }), by decide +kernel⟩⟩

theorem witness_StepRunsFront :
  (∃ c : Instr, ∃ rest : List Instr, ∃ s : State, s.pending = c :: rest) ∧
  (∃ s : State, s.pending = []) :=
  ⟨⟨(.refreshDue 0), ([]), ({ up with pending := [.refreshDue 0] }), rfl⟩,
   ⟨(up), by decide +kernel⟩⟩

theorem witness_EveryStepKeepsShape :
  (∃ s : State, ∃ t : State, Machine.step s = .next t) :=
  ⟨({ up with pending := [.refreshDue 0] }), _, rfl⟩

theorem witness_FusesOnlyBurn :
  (∃ s : State, ∃ t : State, Machine.step s = .next t) ∧
  (∃ s : State, ∃ t : State, Machine.step s = .next t ∧ fuseLifecycle s.boot.fuses = .returned) :=
  ⟨⟨({ up with pending := [.refreshDue 0] }), _, rfl⟩,
   ⟨({ up with pending := [.refreshDue 0], boot := { up.boot with fuses := { up.boot.fuses with lifecycle := 0x77 } } }), _, rfl, by decide +kernel⟩⟩

theorem witness_RollbackCounters :
  (∃ n : Nat, ∃ k : Nat, k ≤ 128 ∧ n % 2 ^ 128 = 2 ^ k - 1) ∧
  (∃ n : Nat, ∃ k : Nat, k ≤ 128 ∧ n % 2 ^ 128 = 2 ^ k - 1) ∧
  (∃ n : Nat, ∃ k : Nat, k < 128 ∧ n.testBit k = true ∧ (∀ j, k < j → j < 128 → n.testBit j = false)) ∧
  (∃ n : Nat, ∃ k : Nat, k < 128 ∧ n.testBit k = true ∧ (∀ j, k < j → j < 128 → n.testBit j = false)) ∧
  (∃ s : State, ∃ t : State, Machine.step s = .next t) :=
  ⟨⟨(2 ^ 0 - 1), (0), by decide +kernel⟩,
   ⟨(2 ^ 128 - 1), (128), by decide +kernel⟩,
   ⟨(2 ^ 0), (0), by decide +kernel, by decide +kernel, (fun j h _ => Nat.testBit_two_pow_of_ne (Nat.ne_of_lt h))⟩,
   ⟨(2 ^ 127), (127), by decide +kernel, by decide +kernel, (fun j h _ => Nat.testBit_two_pow_of_ne (Nat.ne_of_lt h))⟩,
   ⟨({ up with pending := [.refreshDue 0] }), _, rfl⟩⟩

theorem witness_MemoryReads :
  (∃ m : List Host.Cell, Memory.wf m = true) ∧
  (∃ m : List Host.Cell, Memory.wf m = true) ∧
  (∃ m : List Host.Cell, Memory.wf m = true) ∧
  (∃ m : List Host.Cell, ∃ n : List Host.Cell, Memory.wf m = true ∧ Memory.wf n = true ∧ (∀ a, Memory.read m a = Memory.read n a)) :=
  ⟨⟨([⟨0, 7⟩, ⟨5, 9⟩]), by decide +kernel⟩,
   ⟨([⟨0, 7⟩, ⟨5, 9⟩]), by decide +kernel⟩,
   ⟨([⟨0, 7⟩, ⟨5, 9⟩]), by decide +kernel⟩,
   ⟨([⟨0, 7⟩, ⟨5, 9⟩]), ([⟨0, 7⟩, ⟨5, 9⟩]), by decide +kernel, by decide +kernel, (fun _ => rfl)⟩⟩

theorem witness_CanonicalCodes :
  (∃ lengths : List Nat, (∀ n ∈ lengths, n ≤ 12)) :=
  ⟨([1, 2, 2]), by decide +kernel⟩

theorem witness_SegmentsAndNan :
  (∃ tokens : Nat, 0 < tokens ∧ tokens ≤ 256) ∧
  (∃ tokens : Nat, 0 < tokens ∧ tokens ≤ 256) ∧
  (∃ q : Nat, ∃ fmt : Nat, ∃ tokens : Nat, ∃ heads : Nat, ∃ first : Nat, ∃ dim : Nat, ∃ eb : Nat, ∃ h : Nat, ∃ j : Nat, ∃ i : BitVec 32, ∃ rd : HostRead, ∃ d : Desc, ∃ sf : FloatFmt, ∃ tb : Option ScaleTable, ∃ bs : List Byte, ∃ holds : Nat → Nat → Prop, ∃ u : State, ∃ s : State, Taken s q i 0x01 0x01 [4, 5] d ∧ u = atWork s (needs s d [4, 5]) ∧ fmt = fld (d.w 2) 63 56 ∧ tokens = fld (d.w 2) 48 40 ∧ heads = fld (d.w 2) 25 20 + 1 ∧ first = fld (d.w 2) 31 26 ∧ (sf, eb) = srcFmt (fld (d.w 2) 55 54) ∧ bodyOk d.cur [~~~(maskOf 19 8), maskOf 24 0, allBits, allBits] = true ∧ (pageFmt fmt).isSome = true ∧ fld (d.w 2) 55 54 ≠ 3 ∧ fld (d.w 2) 51 49 ≤ 4 ∧ 0 < tokens ∧ tokens ≤ 256 ∧ first + heads ≤ 64 ∧ dim = (dimOf (fld (d.w 2) 51 49)).getD 64 ∧ scaleOf d (fld (d.w 2) 7 0) (fld (d.w 2) 39 32) (first + heads) (fld (d.w 2) 51 49) = .ok tb ∧ inputBreach d 4 = false ∧ inputSize d = heads * tokens * 2 * dim * eb ∧ heads * tokens * tokenBytes fmt dim ≤ 65536 ∧ tileInput u d 4 rd = .ok bs ∧ (∀ k l, holds k l ↔ ∃ a n t v c, (segments (fld (d.w 3) 24 0) tokens)[l]? = some (a, n) ∧ a ≤ t ∧ t < a + n ∧ v < 2 ∧ c < dim ∧
      (sf.value ((unpack (8 * eb) (slice bs (((2 * k + v) * tokens + t) * dim * eb) (dim * eb)) dim).getD c 0)).isFin = false) ∧ h < heads ∧ holds h j ∧ (∀ k l, k < h ∨ k = h ∧ l < j → ¬ holds k l)) :=
  ⟨⟨(1), by decide +kernel⟩,
   ⟨(256), by decide +kernel⟩,
   (by refine ⟨(5), _, _, _, _, _, _, (0), (0), (0), ({}), (chained (desc 1 1 [put 63 56 0x19 ||| put 48 40 1 ||| 0xFF]) ([0xC0#8, 0x7F#8] ++ (List.replicate 254 0))), _, _, _, _, _, (fly (chained (desc 1 1 [put 63 56 0x19 ||| put 48 40 1 ||| 0xFF]) ([0xC0#8, 0x7F#8] ++ (List.replicate 254 0)))), ⟨by decide +kernel, by decide +kernel, by decide +kernel, by decide +kernel, by decide +kernel⟩, rfl, rfl, rfl, rfl, rfl, rfl, ?_, ?_, ?_, ?_, ?_, ?_, ?_, rfl, okGet_eq (by decide +kernel), ?_, ?_, ?_, okGet_eq (by decide +kernel), (fun _ _ => Iff.rfl), ?_, ⟨0, 1, 0, 0, 0, by decide +kernel, by decide +kernel, by decide +kernel, by decide +kernel, by decide +kernel, by decide +kernel⟩, (fun k l g => by omega)⟩ <;> decide +kernel)⟩

end Sys2Proof.Tests
end

section
/-!
What a canonical memory reads as. In canonical form the cell at the head of a list stands apart from the tail (`read_cons`), so each operation on bytes is one case split on where its address meets the head.
-/
namespace Sys2Proof.Proofs

open Sys2Proof.Laws (wfFrom_write wfFrom_filter wf_write)

/-! ### Reading a canonical memory -/

theorem wfFrom_cons_iff {lo k : Nat} {v : Byte} {r : List Host.Cell} :
    Memory.wfFrom lo ((k, v) :: r) = true ↔ lo ≤ k ∧ v ≠ 0#8 ∧ Memory.wfFrom (k + 1) r = true := by
  simp [Memory.wfFrom, and_assoc]

@[simp] theorem read_nil (a : Nat) : Memory.read [] a = 0#8 := rfl

@[simp] theorem read_cons_self (k : Nat) (v : Byte) (r : List Host.Cell) : Memory.read ((k, v) :: r) k = v := if_pos rfl

theorem read_cons_of_lt {a k : Nat} (h : a < k) (v : Byte) (r : List Host.Cell) : Memory.read ((k, v) :: r) a = 0#8 := by
  rw [Memory.read, if_neg (Nat.ne_of_gt h), if_pos h]

theorem read_cons_of_gt {a k : Nat} (h : k < a) (v : Byte) (r : List Host.Cell) :
    Memory.read ((k, v) :: r) a = Memory.read r a := by
  rw [Memory.read, if_neg (Nat.ne_of_lt h), if_neg (Nat.lt_asymm h)]

theorem read_eq_zero_of_lt {m : List Host.Cell} {lo a : Nat} (w : Memory.wfFrom lo m = true) (h : a < lo) :
    Memory.read m a = 0#8 := by
  cases m with
  | nil => rfl
  | cons cell r => exact read_cons_of_lt (Nat.lt_of_lt_of_le h (wfFrom_cons_iff.1 w).1) _ _

/-- The head of a canonical memory decides its own address only. -/
theorem read_cons {k : Nat} {r : List Host.Cell} (w : Memory.wfFrom (k + 1) r = true) (v : Byte) (c : Nat) :
    Memory.read ((k, v) :: r) c = if c = k then v else Memory.read r c := by
  rcases Nat.lt_trichotomy c k with h | rfl | h
  · rw [read_cons_of_lt h, if_neg (Nat.ne_of_lt h), read_eq_zero_of_lt w (Nat.lt_succ_of_lt h)]
  · rw [read_cons_self, if_pos rfl]
  · rw [read_cons_of_gt h, if_neg (Nat.ne_of_gt h)]

/-! ### Writing -/

/-- Every branch of `Memory.write` that ends the walk puts the byte in front of a canonical tail, or leaves a zero out. -/
theorem read_put_front {a : Nat} {r : List Host.Cell} (w : Memory.wfFrom (a + 1) r = true) (b : Byte) (c : Nat) :
    Memory.read (if b = 0#8 then r else (a, b) :: r) c = if c = a then b else Memory.read r c := by
  by_cases hb : b = 0#8
  · by_cases hc : c = a
    · rw [if_pos hb, if_pos hc, hb, hc, read_eq_zero_of_lt w (Nat.lt_succ_self a)]
    · rw [if_pos hb, if_neg hc]
  · rw [if_neg hb, read_cons w]

theorem read_write_of_wfFrom (a c : Nat) (b : Byte) (m : List Host.Cell) {lo : Nat} (w : Memory.wfFrom lo m = true) :
    Memory.read (Memory.write m a b) c = if c = a then b else Memory.read m c := by
  induction m generalizing lo with
  | nil => exact read_put_front rfl b c
  | cons cell r ih =>
    obtain ⟨k, v⟩ := cell
    obtain ⟨-, hv, hr⟩ := wfFrom_cons_iff.1 w
    rcases Nat.lt_trichotomy a k with h | rfl | h
    · rw [Memory.write, if_neg (Nat.ne_of_gt h), if_pos h]
      exact read_put_front (wfFrom_cons_iff.2 ⟨h, hv, hr⟩) b c
    · rw [Memory.write, if_pos rfl, read_put_front hr, read_cons hr]
      by_cases hc : c = a
      · rw [if_pos hc, if_pos hc]
      · rw [if_neg hc, if_neg hc, if_neg hc]
    · rw [Memory.write, if_neg (Nat.ne_of_lt h), if_neg (Nat.lt_asymm h), read_cons (wfFrom_write a b r _ h hr),
        read_cons hr, ih hr]
      by_cases hc : c = k
      · rw [if_pos hc, if_pos hc, if_neg (by omega)]
      · rw [if_neg hc, if_neg hc]

theorem read_write {m : List Host.Cell} (w : Memory.wf m = true) (a c : Nat) (b : Byte) :
    Memory.read (Memory.write m a b) c = if c = a then b else Memory.read m c :=
  read_write_of_wfFrom a c b m w

theorem read_writeBytes {m : List Host.Cell} (w : Memory.wf m = true) (a c : Nat) (bs : List Byte) :
    Memory.read (Memory.writeBytes m a bs) c =
      if a ≤ c ∧ c < a + bs.length then bs.getD (c - a) 0#8 else Memory.read m c := by
  induction bs generalizing m a with
  | nil => rw [if_neg (by simp)]; rfl
  | cons b bs ih =>
    rw [Memory.writeBytes, ih (wf_write a b w), read_write w, List.length_cons]
    rcases Nat.lt_trichotomy c a with h | rfl | h
    · rw [if_neg (by omega), if_neg (by omega), if_neg (by omega)]
    · rw [if_neg (by omega), if_pos rfl, if_pos (by omega), Nat.sub_self, List.getD_cons_zero]
    · have hidx : c - a = c - (a + 1) + 1 := by omega
      rw [if_neg (Nat.ne_of_gt h), hidx, List.getD_cons_succ]
      exact ite_congr (propext (by omega)) (fun _ => rfl) fun _ => rfl

/-! ### Clearing -/

theorem read_filter_addr (p : Nat → Prop) [DecidablePred p] (c : Nat) (m : List Host.Cell) {lo : Nat}
    (w : Memory.wfFrom lo m = true) :
    Memory.read (m.filter fun cell => decide (p cell.1)) c = if p c then Memory.read m c else 0#8 := by
  induction m generalizing lo with
  | nil => simp
  | cons cell r ih =>
    obtain ⟨k, v⟩ := cell
    obtain ⟨-, -, hr⟩ := wfFrom_cons_iff.1 w
    by_cases hk : p k
    · rw [List.filter_cons_of_pos (by simpa using hk), read_cons (wfFrom_filter _ r _ hr), read_cons hr, ih hr]
      by_cases hc : c = k
      · rw [if_pos hc, if_pos hc, hc, if_pos hk]
      · rw [if_neg hc, if_neg hc]
    · rw [List.filter_cons_of_neg (by simpa using hk), ih hr, read_cons hr]
      by_cases hc : c = k
      · rw [hc, if_neg hk, if_neg hk]
      · rw [if_neg hc]

theorem read_clear {m : List Host.Cell} (w : Memory.wf m = true) (a n c : Nat) :
    Memory.read (Memory.clear m a n) c = if a ≤ c ∧ c < a + n then 0#8 else Memory.read m c :=
  calc Memory.read (Memory.clear m a n) c
    _ = if c < a ∨ a + n ≤ c then Memory.read m c else 0#8 := read_filter_addr (fun k => k < a ∨ a + n ≤ k) c m w
    _ = if ¬ (a ≤ c ∧ c < a + n) then Memory.read m c else 0#8 :=
      ite_congr (propext (by omega)) (fun _ => rfl) fun _ => rfl
    _ = if a ≤ c ∧ c < a + n then 0#8 else Memory.read m c := ite_not ..

/-! ### One canonical form -/

theorem head_le_of_read_eq {k k' : Nat} {v v' : Byte} {r r' : List Host.Cell} (hv : v ≠ 0#8)
    (h : ∀ a, Memory.read ((k, v) :: r) a = Memory.read ((k', v') :: r') a) : k' ≤ k :=
  Nat.le_of_not_lt fun hlt => hv <| calc v
    _ = Memory.read ((k, v) :: r) k := (read_cons_self k v r).symm
    _ = Memory.read ((k', v') :: r') k := h k
    _ = 0#8 := read_cons_of_lt hlt v' r'

theorem eq_of_wfFrom_of_read_eq {m n : List Host.Cell} {lo lo' : Nat} (wm : Memory.wfFrom lo m = true)
    (wn : Memory.wfFrom lo' n = true) (h : ∀ a, Memory.read m a = Memory.read n a) : m = n := by
  induction m generalizing n lo lo' with
  | nil =>
    cases n with
    | nil => rfl
    | cons cell' r' =>
      obtain ⟨k', v'⟩ := cell'
      obtain ⟨-, hv', -⟩ := wfFrom_cons_iff.1 wn
      exact absurd (h k').symm (by simpa using hv')
  | cons cell r ih =>
    obtain ⟨k, v⟩ := cell
    obtain ⟨-, hv, hr⟩ := wfFrom_cons_iff.1 wm
    cases n with
    | nil => exact absurd (h k) (by simpa using hv)
    | cons cell' r' =>
      obtain ⟨k', v'⟩ := cell'
      obtain ⟨-, hv', hr'⟩ := wfFrom_cons_iff.1 wn
      obtain rfl : k = k' := Nat.le_antisymm (head_le_of_read_eq hv' fun a => (h a).symm) (head_le_of_read_eq hv h)
      have hhead : v = v' := by simpa using h k
      have htail : r = r' := ih hr hr' fun a => by
        by_cases ha : a = k
        · rw [ha, read_eq_zero_of_lt hr (Nat.lt_succ_self k), read_eq_zero_of_lt hr' (Nat.lt_succ_self k)]
        · simpa [read_cons hr, read_cons hr', ha] using h a
      rw [hhead, htail]

/-- Settles O58, from what each operation on bytes reads as and from extensionality of the canonical form. -/
theorem memoryReads : Obligations.MemoryReads :=
  ⟨fun _ a c b w => read_write w a c b, fun _ a c bs w => read_writeBytes w a c bs,
    fun _ a n c w => read_clear w a n c, fun _ _ => eq_of_wfFrom_of_read_eq⟩

end Sys2Proof.Proofs
end

section
/-!
What a step does with its queue, and the power operations of a ring. A Peak with time left is as it was after node time has moved on (`expirePeak_eq_self`), which each outcome of PEAK rests on.
-/
namespace Sys2Proof.Proofs

open Sys2Proof.Machine (State exec)
open Sys2Proof.Laws (Kept kept_putDesc atTime_power)

/-- Settles O53, by the two forms that the queue can have. -/
theorem stepRunsFront : Obligations.StepRunsFront :=
  ⟨fun c rest s h => by rw [Machine.step, h], fun s h => by rw [Machine.step, h]⟩

section
variable {s t : State} {F q time : Nat} {i : BitVec 32} {d : Desc}

/-! ### SET_MODE -/

theorem sameBut_with_power (h : SameBut F s t) (hF : F.testBit Part.power.idx = true) (x : PowerS) :
    SameBut F s { t with power := x } := by
  intro p hp
  by_cases e : p = .power
  · rw [e, hF] at hp; cases hp
  · have same := h p hp
    cases p with
    | power => exact absurd rfl e
    | _ => exact same

theorem sameBut_putDesc (hF : partSet [.flight] ||| F = F) (s : State) (d : Desc) : SameBut F s (putDesc s d) :=
  (kept_putDesc hF s d (Kept.refl F s)).same

theorem setMode_of_legal (hd : stationDesc s q i 0x0C 0x10 = some d) (ho : d.owner = .fm) (hn : d.len = 0)
    (hb : bodyOk d.cur [maskOf 31 16 ||| maskOf 1 0] = true)
    (budget : fld (d.w 2) 31 16 = 0 ∨ (600 ≤ fld (d.w 2) 31 16 ∧ fld (d.w 2) 31 16 ≤ sustained (modeOf (fld (d.w 2) 1 0)))) :
    exec (.setMode q i) s = .next { putDesc s { d with phase := .running, latched := true } with
      power := { s.power with changes := s.power.changes ++
        [{ ctx := q, index := i, mode := modeOf (fld (d.w 2) 1 0), budget := fld (d.w 2) 31 16, time := s.time }] } } := by
  change Machine.execSetMode q i s = _
  rw [Machine.execSetMode, hd]
  dsimp only
  rw [if_neg (fun h => h ho), if_neg (by simp [hn, hb]), if_neg (by omega)]
  rfl

/-! ### Node time and Peak -/

/-- While Peak has time left, time that moves on leaves it as it is (R499). -/
theorem expirePeak_eq_self (h : ∀ b e, s.power.peak = some (b, e) → s.time < e) : expirePeak s = s := by
  unfold expirePeak
  split
  case h_1 b e he => exact if_neg (Nat.not_le.2 (h b e he))
  case h_2 => rfl

theorem expirePeak_time (s : State) : (expirePeak s).time = s.time := by
  unfold expirePeak
  split
  · split <;> rfl
  · rfl

theorem powerAt_time (s : State) (time : Nat) : (powerAt s time).time = (atTime s time).time := expirePeak_time _

section
variable (still : ∀ b e, s.power.peak = some (b, e) → (atTime s time).time < e)
include still

theorem powerAt_peak : (powerAt s time).power.peak = s.power.peak := by
  rw [powerAt, expirePeak_eq_self still, atTime_power]

theorem powerAt_cooldownEnd : (powerAt s time).power.cooldownEnd = s.power.cooldownEnd := by
  rw [powerAt, expirePeak_eq_self still, atTime_power]

theorem powerAt_warmSince : (powerAt s time).power.warmSince = s.power.warmSince := by
  rw [powerAt, expirePeak_eq_self still, atTime_power]

end

/-! ### MODE_CAPS_APPLIED -/

theorem modeCapsApplied_of_first {c : ModeChange} (hd : findDesc s q i = some d)
    (hc : (s.power.changes.find? fun c => c.ctx == q && c.index == i) = some c) (here : procAway s 1 = false)
    (first : ((s.flight.takeWhile fun d => !(d.ctx == q && d.index == i)).any
      fun d => d.ctx == q && d.opcode == 0x0C && d.subop == 0x10 && d.phase != .finished) = false) :
    exec (.modeCapsApplied q i time) s = .next (endNow { powerAt s time with
      power := { (powerAt s time).power with
        mode := c.mode, budget := c.budget
        changes := (powerAt s time).power.changes.filter fun x => !(x.ctx == q && x.index == i) } } d stDone 0) := by
  change Machine.execModeCapsApplied q i time s = _
  rw [Machine.execModeCapsApplied, hc, hd]
  dsimp only
  rw [if_neg (not_or.2 ⟨ne_true_of_eq_false first, ne_true_of_eq_false here⟩)]

/-! ### PEAK -/

theorem peakEnter_of_warm (hd : stationDesc s q i 0x0C 0x11 = some d) (enter : bit (d.w 2) 0 = false) (here : procAway s 1 = false)
    (legal : peakRefused s d = none) (idle : s.power.peak = none) (cool : s.power.cooldownEnd ≤ (atTime s time).time)
    (warmed : s.power.warmSince + 10000000000 ≤ (atTime s time).time) {ms : Nat} (hms : ms = if fld (d.w 2) 26 16 = 0 then 2000 else fld (d.w 2) 26 16) :
    exec (.peakEnter q i time) s = .next (endNow (countPower { powerAt s time with
      power := { (powerAt s time).power with peak := some ((atTime s time).time, (atTime s time).time + 1000000 * ms) } } 24 1) d stDone 0 (some ms)) := by
  have still : ∀ b e, s.power.peak = some (b, e) → (atTime s time).time < e := by simp [idle]
  have steady : warm (powerAt s time) = true := by
    rw [warm, powerAt_warmSince still, powerAt_time]
    exact decide_eq_true warmed
  change Machine.execPeakEnter q i time s = _
  rw [Machine.execPeakEnter, hd]
  dsimp only
  rw [if_neg (by simp [enter, here]), legal]
  dsimp only
  rw [powerAt_peak still, idle]
  dsimp only
  rw [powerAt_time, powerAt_cooldownEnd still, if_neg (Nat.not_lt.2 cool), if_neg (by simp [steady]), hms]

theorem peakEnd_of_peak {b e : Nat} (hd : stationDesc s q i 0x0C 0x11 = some d) (ends : bit (d.w 2) 0 = true) (here : procAway s 1 = false)
    (legal : peakRefused s d = none) (peak : s.power.peak = some (b, e)) (before : (atTime s time).time < e) :
    exec (.peakEnd q i time) s = .next (endNow { powerAt s time with
      power := { (powerAt s time).power with peak := none, cooldownEnd := (atTime s time).time + 10000000000 } } d stDone 0
      (some (msUp ((atTime s time).time - b)))) := by
  have still : ∀ b e, s.power.peak = some (b, e) → (atTime s time).time < e := by
    intro b' e' he
    cases peak.symm.trans he
    exact before
  change Machine.execPeakEnd q i time s = _
  rw [Machine.execPeakEnd, hd]
  dsimp only
  rw [if_neg (by simp [ends, here]), legal]
  dsimp only
  rw [powerAt_peak still, peak]
  dsimp only
  rw [endPeak, powerAt_time]

/-! ### POWER_STATE -/

/-- Nothing keeps an owner from commanding a domain a state other than ON at once (R487, R488, R489, R491). -/
structure Yields (s : State) (o : Owner) (x : Nat × DomState) : Prop where
  fitted : domFitted s x.1 = true
  takes : domTakes x.1 x.2 = true
  may : mayCommand s o x.1 = true
  unfenced : domFenced s x.1 = false
  down : x.2 ≠ .on
  idle : domWork s x.1 = false
  free : heldAwake s x.1 = false

theorem powerState_of_yields (hd : stationDesc s q i 0x0C 0x12 = some d) (hn : d.len = 0) (hb : bodyOk d.cur [maskOf 23 20 ||| maskOf 17 0] = true)
    (preset : fld (d.w 2) 23 20 = 0) (hy : ∀ x ∈ powerNamed s d, Yields s d.owner x) :
    exec (.powerState q i) s = .next (endNow ((powerNamed s d).foldl (fun s x => if (getDom s x.1).present = x.2 then s else enterState s x.1 x.2)
      ((powerNamed s d).foldl (fun s x => modDom s x.1 fun y => { y with commanded := x.2 }) s)) d stDone 0 (some (powerNamed s d).length) (some 0)) := by
  have legal : ((powerNamed s d).any fun x => !domFitted s x.1 || !domTakes x.1 x.2) = false :=
    List.any_eq_false.2 fun x hx => by simp [(hy x hx).fitted, (hy x hx).takes]
  have permitted : ((powerNamed s d).any fun x => !mayCommand s d.owner x.1) = false :=
    List.any_eq_false.2 fun x hx => by simp [(hy x hx).may]
  have live : ((powerNamed s d).filter fun x => !domFenced s x.1) = powerNamed s d :=
    List.filter_eq_self.2 fun x hx => by simp [(hy x hx).unfenced]
  have finished : ((powerNamed s d).any fun x => domKind x.1 == 3 && x.2 == .off && domWork s x.1) = false :=
    List.any_eq_false.2 fun x hx => by simp [(hy x hx).idle]
  have sleeping : ((powerNamed s d).filter fun x => x.2 == .on && (getDom s x.1).present != .on) = [] :=
    List.filter_eq_nil_iff.2 fun x hx => by simp [(hy x hx).down]
  have unheld : ((powerNamed s d).filter fun x => x.2 != .on && (getDom s x.1).present == .on && heldAwake s x.1) = [] :=
    List.filter_eq_nil_iff.2 fun x hx => by simp [(hy x hx).free]
  have all : ((powerNamed s d).filter fun x => !(([] : List (Nat × DomState)).any fun y => y.1 == x.1)) = powerNamed s d :=
    List.filter_eq_self.2 fun _ _ => rfl
  change Machine.execPowerState q i s = _
  rw [Machine.execPowerState, hd]
  dsimp only
  rw [if_neg (by simp [hn, hb, preset]), if_neg (by simp [legal]), if_neg (by simp [preset, permitted]), live, if_neg (by simp [finished]),
    sleeping, if_neg (by simp), unheld, all, Nat.sub_self]

end

/-- Settles O11, from what each of the five commands answers in the state that its clause names. -/
theorem powerOperations : Obligations.PowerOperations := by
  refine ⟨?_, ?_, ?_, ?_, ?_⟩
  · intro q i d s hd ho hn hb budget
    exact ⟨_, setMode_of_legal hd ho hn hb budget, sameBut_with_power (sameBut_putDesc rfl _ _) rfl _, rfl, rfl⟩
  · intro q t i d c s hd hc here first
    exact modeCapsApplied_of_first hd hc here first
  · intro q t i d s hd enter here legal idle cool warmed ms hms
    exact peakEnter_of_warm hd enter here legal idle cool warmed hms
  · intro q t b e i d s hd ends here legal peak before
    exact peakEnd_of_peak hd ends here legal peak before
  · intro q i d s hd hn hb preset named
    refine powerState_of_yields hd hn hb preset fun x hx => ?_
    obtain ⟨fitted, takes, may, unfenced, down, idle, free⟩ := named x hx
    exact ⟨fitted, takes, may, unfenced, down, idle, free⟩

end Sys2Proof.Proofs
end

section
/-!
Frames of a port. What becomes of a frame in transit rests on what its port discards (`portDiscard`) and on its way (`forwardTo`); a frame leaves in one form, with or without a shaper (`frameTransmit_of_ready`).
-/
namespace Sys2Proof.Proofs

open Sys2Proof.Machine (State exec)

/-! ### PACKET_FORWARD -/

section
variable {s : State} {p k cls c bytes : Nat} {mac : Option Nat} {f : Frame} {t : State}

theorem portDiscard_eq_none (hb : bytes ≤ frameMax)
    (ho : lossless s cls = true → ((getLink s p k).pauseOf cls).ownExpired = false) : portDiscard s p k cls bytes = none := by
  rw [portDiscard, if_neg (Nat.not_lt.2 hb), if_neg fun h => Bool.false_ne_true ((ho h.1).symm.trans h.2)]

theorem portDiscard_of_oversized (hb : frameMax < bytes) :
    portDiscard s p k cls bytes = some (modPort s p fun x => { x with discards := x.discards.modify 0 (· + 1) }) := if_pos hb

theorem portDiscard_of_ownExpired (hb : bytes ≤ frameMax) (hl : lossless s cls = true) (ho : ((getLink s p k).pauseOf cls).ownExpired = true) :
    portDiscard s p k cls bytes = some (modPort s p fun x => { x with ownPauseDiscards := x.ownPauseDiscards + 1 }) := by
  rw [portDiscard, if_neg (Nat.not_lt.2 hb), if_pos ⟨hl, ho⟩]

/-- A frame on a live link of a node with a valid node ID, of a class that exists, and for another node (R327, R339). -/
structure InTransit (s : State) (p : Nat) (f : Frame) : Prop where
  live : linkLive s p f.link = true
  valid : s.ports.nodeValid = true
  cls : f.cls < 8
  elsewhere : ¬(inPrefix s f.dstAddr = true ∧ nodeOf f.dstAddr = s.ports.nodeId)

/-- Such a frame passes the guard of PACKET_FORWARD. -/
theorem InTransit.passes (h : InTransit s p f) :
    ¬((!linkLive s p f.link) = true ∨ (!s.ports.nodeValid) = true ∨ f.cls ≥ 8 ∨ (inPrefix s f.dstAddr = true ∧ nodeOf f.dstAddr = s.ports.nodeId)) := by
  obtain ⟨live, valid, cls, elsewhere⟩ := h
  rintro (h | h | h | h)
  · simp [live] at h
  · simp [valid] at h
  · omega
  · exact elsewhere h

theorem packetForward_of_discarded (h : InTransit s p f) (hd : portDiscard s p f.link f.cls f.bytes = some t) :
    exec (.packetForward p f) s = .next t := by
  change Machine.execPacketForward p f s = _
  rw [Machine.execPacketForward, if_neg h.passes, hd]

theorem packetForward_of_unreachable (h : InTransit s p f) (hd : portDiscard s p f.link f.cls f.bytes = none) (hf : forwardTo s p f = .error c) :
    exec (.packetForward p f) s = .next (countNode s c) := by
  change Machine.execPacketForward p f s = _
  rw [Machine.execPacketForward, if_neg h.passes, hd]
  simp only [hf]

/-- The frame as it goes on: from transit, with its hop limit lowered, to the peer that its way names (R339, R341). -/
abbrev onward (f : Frame) (mac : Option Nat) : Frame := { f with source := 16, hopLimit := f.hopLimit - 1, peerMac := mac }

theorem lossless_queueFrame (cls : Nat) : lossless (queueFrame s p k f) cls = lossless s cls := rfl

theorem packetForward_of_lossy (h : InTransit s p f) (hd : portDiscard s p f.link f.cls f.bytes = none) (hf : forwardTo s p f = .ok (k, mac))
    (hl : lossless s f.cls = false) : exec (.packetForward p f) s = .next (queueFrame s p k (onward f mac)) := by
  change Machine.execPacketForward p f s = _
  rw [Machine.execPacketForward, if_neg h.passes, hd]
  simp only [hf]
  rw [if_pos (by simp [lossless_queueFrame, hl])]

/-- A frame of a lossless class that goes on fills the ingress buffer of the link on which it came (R292). -/
abbrev fillIngress (s : State) (p : Nat) (f : Frame) : State :=
  modLink s p f.link fun l => l.modPause f.cls fun x => { x with ingress := x.ingress + f.bytes }

/-- Above the threshold the node's own pause begins, when it does not stand already (R292). -/
abbrev pauseAbove (s : State) (p : Nat) (f : Frame) : State :=
  if 65536 < ((getLink s p f.link).pauseOf f.cls).ingress ∧ ((getLink s p f.link).pauseOf f.cls).own = false then
    sendPause (modLink s p f.link fun l => l.modPause f.cls fun x => { x with own := true, ownSince := s.time }) p f.link f.cls 0xFFFF
  else s

theorem packetForward_of_lossless (h : InTransit s p f) (hd : portDiscard s p f.link f.cls f.bytes = none) (hf : forwardTo s p f = .ok (k, mac))
    (hl : lossless s f.cls = true) :
    exec (.packetForward p f) s = .next (pauseAbove (fillIngress (queueFrame s p k (onward f mac)) p f) p f) := by
  change Machine.execPacketForward p f s = _
  rw [Machine.execPacketForward, if_neg h.passes, hd]
  simp only [hf]
  rw [if_neg (by simp [lossless_queueFrame, hl])]
  simp only [Bool.not_eq_true', gt_iff_lt]
  exact (apply_ite Host.Outcome.next _ _ _).symm

end

/-! ### FRAME_TRANSMIT -/

section
variable {s : State} {p k cls t : Nat} {f : Frame} {q : List Frame} {sh : Option Nat}

/-- A link of which the queue of a class has lost the frame that leaves, and the shaper that let it go, when one did, a token (R343). -/
def linkWithout (sh : Option Nat) (cls : Nat) (left : List Frame) (l : Link) : Link :=
  match sh with
  | some j => { l with queues := l.queues.set cls left, tokens := l.tokens.modify j (· - 16) }
  | none => { l with queues := l.queues.set cls left }

theorem frameTransmit_of_ready (hq : (getLink s p k).queues.getD cls [] = q) (hf : q[nextFrame s cls q]? = some f) (live : linkLive s p k = true)
    (way : (if f.peerMac.isSome then foreignLinkUp s k else linkUsable s p k) = true) (valid : s.ports.nodeValid = true)
    (going : (lossless s cls && ((getLink s p k).pauseOf cls).paused) = false)
    (hsh : ((shaperOf (getPort s p) f).filter fun j => bit ((getPort s p).shapersInForce.getD j 0#64) 63) = sh)
    (token : ∀ j ∈ sh, 16 ≤ (getLink s p k).tokens.getD j 0) (gate : gateAllows (getPort s p) f (max s.time t) = true)
    (first : cls = 6 ∨ (getLink s p k).queues.getD 6 [] = []) :
    exec (.frameTransmit p k cls t) s = .next (frameLeaves s p k t f (linkWithout sh cls (q.eraseIdx (nextFrame s cls q)))) := by
  change Machine.execFrameTransmit p k cls t s = _
  rw [Machine.execFrameTransmit]
  simp only [hq, hf, hsh]
  rw [if_neg]
  · cases sh <;> rfl
  · rintro (h | h | h | h | h | h | h)
    · simp [live] at h
    · simp [way] at h
    · simp [valid] at h
    · simp [h.1, h.2] at going
    · cases sh with
      | none => simp at h
      | some j => exact absurd h (by simp only [token j rfl, decide_true, Bool.not_true, Bool.false_eq_true, not_false_eq_true])
    · simp [gate] at h
    · rcases first with e | e
      · exact h.1 e
      · exact absurd h.2 (by rw [e]; decide)

theorem nextFrame_of_oldest_first (h : ¬(s.power.mode = .absorb ∧ lossless s cls = true)) (q : List Frame) : nextFrame s cls q = 0 := if_neg h

theorem nextFrame_of_step_behind {g : Frame} (hm : s.power.mode = .absorb) (hl : lossless s cls = true) (hf : f.step = false) (hg : g.step = true)
    (hd : f.dstAddr ≠ g.dstAddr) (q : List Frame) : nextFrame s cls (f :: g :: q) = 1 := by
  rw [nextFrame, if_pos ⟨hm, hl⟩]
  simp [List.range_succ_eq_map, hf, hg, hd]

end

/-- Settles O29, from what becomes of a frame in transit, from the departure of the next frame of a class, and from the kinds of FRAME_DISCARD. -/
theorem portFrames : Obligations.PortFrames := by
  refine ⟨?_, ?_, ?_, ?_, ?_, ?_, ?_, ?_, ?_, ?_⟩
  · intro p k mac f s live valid cls other small lossy way
    exact packetForward_of_lossy ⟨live, valid, cls, other⟩ (portDiscard_eq_none small (by simp [lossy])) way lossy
  · intro p k mac f s live valid cls other small ll open_ way
    exact ⟨_, rfl, packetForward_of_lossless ⟨live, valid, cls, other⟩ (portDiscard_eq_none small fun _ => open_) way ll⟩
  · intro p f s live valid cls other long
    exact packetForward_of_discarded ⟨live, valid, cls, other⟩ (portDiscard_of_oversized long)
  · intro p f s live valid cls other small ll past
    exact packetForward_of_discarded ⟨live, valid, cls, other⟩ (portDiscard_of_ownExpired small ll past)
  · intro p c f s live valid cls other small lossy noWay
    exact packetForward_of_unreachable ⟨live, valid, cls, other⟩ (portDiscard_eq_none small (by simp [lossy])) noWay
  · intro p k cls t f q s hq hf live way valid going hsh gate first
    exact frameTransmit_of_ready (sh := none) hq hf live way valid going hsh (by simp) gate first
  · intro p k cls t j f q s hq hf live way valid going hsh hbit token gate first
    exact frameTransmit_of_ready (sh := some j) hq hf live way valid going (by rw [hsh, Option.filter_some, if_pos hbit]) (by simpa using token) gate first
  · intro cls f q s h
    exact nextFrame_of_oldest_first h _
  · intro cls f g q s hm hl hf hg hd
    exact nextFrame_of_step_behind hm hl hf hg hd q
  · intro p k b s live
    change Machine.execFrameDiscard p k b s = _
    unfold Machine.execFrameDiscard
    rw [if_neg (by simp [live])]
    cases b <;> rfl

end Sys2Proof.Proofs
end

section
/-!
Programs and this part's own stations. Each command's refusals are passed one by one, and what is left is the state that its clause names; where all the domains that a place needs are ON, the work runs at once (`withDoms_of_domsOn`).
-/
namespace Sys2Proof.Proofs

open Sys2Proof.Machine (State exec)

section
variable {s : State} {q t : Nat} {i : BitVec 32} {d : Desc}

/-! ### Doorbell fetches -/

/-- A fetch is due for an owner (R44, R45, R441): the link is up, nothing scrubs it, it has a ring enabled, and its interval is over. -/
structure FetchDue (s : State) (o : Owner) (t : Nat) : Prop where
  linked : s.cxl.linkUp = true
  quiet : scrubbing s o = false
  rings : ((getOwner s o).rings.any fun e => e.2.enabled) = true
  due : (getOwner s o).nextFetch ≤ t

/-- The state in which the doorbell records of an owner, with the host's stores seen, have been taken (R42). -/
def fetched (s : State) (o : Owner) (stores : List Host.Cell) (t : Nat) : State :=
  (getOwner s o).rings.foldl (fun s e => takeDoorbell s o e.1) (atTime { s with host := Memory.writeCells s.host stores } t)

/-- The interval after a fetch that leads from `s` to `f`, and with the dispatch of what is new to `r` (R44). -/
def nextInterval (s f r : State) (o : Owner) : Nat :=
  if ((getOwner f o).rings.map (fun e => e.2.lastIndex) != (getOwner s o).rings.map fun e => e.2.lastIndex) || ownerBusy r o then pollMin (getOwner s o)
  else min (2 * (getOwner s o).interval) (pollMax (getOwner s o))

theorem doorbellFetch_of_due {o : Owner} (h : FetchDue s o t) (stores : List Host.Cell) (bad : List Nat) :
    exec (.doorbellFetch o stores true bad t) s = .next (modOwner (pumpOwner (fetched s o stores t) o bad) o fun y => { y with
      interval := nextInterval s (fetched s o stores t) (pumpOwner (fetched s o stores t) o bad) o
      nextFetch := t + nextInterval s (fetched s o stores t) (pumpOwner (fetched s o stores t) o bad) o }) := by
  have passes : ¬(!s.cxl.linkUp || scrubbing s o || !((getOwner s o).rings.any fun e => e.2.enabled) || decide (t < (getOwner s o).nextFetch)) = true := by
    simp only [h.linked, h.quiet, h.rings, Nat.not_lt.2 h.due, decide_false, Bool.not_true, Bool.or_false, Bool.false_eq_true, not_false_eq_true]
  exact if_neg passes

/-! ### Programs -/

theorem programInvoke_of_ready (hd : findDesc s q i = some d) (prog : d.prog.isSome = true) (unstarted : d.cur = []) (ready : d.phase = .ready)
    (here : sequencerAway s d.share = false) : exec (.programInvoke q i) s = .next (startStep s d 0) := by
  change Machine.execProgramInvoke q i s = _
  rw [Machine.execProgramInvoke, hd]
  exact if_pos (by simp [prog, unstarted, ready, here])

theorem programStep_of_finished {n : Nat} (hd : findDesc s q i = some d) (prog : d.prog.isSome = true) (finished : d.phase = .finished) (hn : nextStep d = some n)
    (here : sequencerAway s d.share = false) : exec (.programStep q i) s = .next (startStep s d n) := by
  change Machine.execProgramStep q i s = _
  rw [Machine.execProgramStep, hd]
  dsimp only
  rw [if_pos (by simp [prog, finished, here]), hn]

theorem descriptorCommit_of_finished (hd : findDesc s q i = some d) (finished : d.phase = .finished) (last : nextStep d = none) (room : commitWaits s d = false)
    (unused : programWaits s d = false) (answered : (s.flash.ops.any fun o => o.ctx == d.ctx && o.index == d.index && !o.answered) = false) :
    exec (.descriptorCommit q i t) s = .next (settleDrains (retire (changeQps (atTime s t) d) d true)) := by
  change Machine.execDescriptorCommit q i t s = _
  rw [Machine.execDescriptorCommit, hd]
  exact if_pos (by rw [finished, last, room, unused, answered]; rfl)

/-! ### Places -/

/-- Work whose domains are all ON runs at once (R488). -/
theorem withDoms_of_domsOn {ds : List Nat} (h : domsOn s ds = true) (k : State → State) : withDoms s ds k = k (atWork s ds) := if_pos h

@[simp] theorem waits_host (a : Nat) : (Loc.host a).waits s = false := rfl

@[simp] theorem doms_host (a : Nat) : (Loc.host a).doms = [] := rfl

@[simp] theorem regionReads_host (n a : Nat) : (Loc.host a).regionReads s n = .now := rfl

@[simp] theorem busyPairs_host (n a : Nat) : busyPairs s n (.host a) = [] := rfl

@[simp] theorem domsOn_nil : domsOn s [] = true := rfl

@[simp] theorem atWork_nil : atWork s [] = s := rfl

/-! ### COPY -/

/-- COPY reaches its move of bytes of host memory: its body keeps the reserved bits, its places are good and apart, and the destination has nothing to wait for (R49, R50, R114, R488). -/
structure CopyReady (s : State) (d : Desc) (a : Nat) (dst : Loc) : Prop where
  body : bodyOk d.cur [allBits, allBits] = true
  source : locate s d.owner (d.w 2) (occupied s d.owner (d.w 2) d.len) false = .ok (.host a)
  dest : locate s d.owner (d.w 3) (occupied s d.owner (d.w 3) d.len) true = .ok dst
  onTime : dst.waits s = false
  apart : overlaps (.host a) dst (occupied s d.owner (d.w 3) d.len) = false
  open_ : writable s dst = none
  idle : busyPairs s d.len dst = []
  awake : domsOn s dst.doms = true

theorem copy_of_read {a : Nat} {dst : Loc} {rd : HostRead} {r : ReadRes} (hd : stationDesc s q i 0x06 0 = some d) (h : CopyReady s d a dst)
    (read : readLoc (atWork s dst.doms) d 2 rd (.host a) d.len = .ok r) (sound : r.poison = false) :
    exec (.copy q i rd) s = .next (putDesc (writeLoc (atWork s dst.doms) d 3 dst r.bytes) { d.finish stDone 0 with output := some { bytes := r.bytes } }) := by
  obtain ⟨body, source, dest, onTime, apart, open_, idle, awake⟩ := h
  change Machine.execCopy q i rd s = _
  rw [Machine.execCopy, hd]
  dsimp only
  rw [if_neg (by simp [body]), source, dest]
  dsimp only
  rw [if_neg (by simp [onTime]), if_neg (by simp [apart]), open_]
  dsimp only
  rw [regionReads_host, busyPairs_host, idle]
  dsimp only
  rw [if_neg (by simp), doms_host, List.nil_append, withDoms_of_domsOn awake, read]
  dsimp only
  rw [if_neg (by simp [sound])]

/-! ### FENCE and ABORT -/

/-- The descriptor that a FENCE names, if it names one, has committed (R62): now, or before its ring gave up its context. -/
def NamedCommitted (s : State) (d : Desc) : Prop :=
  (∃ k, d.named = some k ∧ committed s d.owner k (BitVec.ofNat 32 (fld (d.w 3) 31 0)) = true) ∨ d.named = none ∧ d.namedDone = true

theorem fence_of_committed (hd : stationDesc s q i 0x0B 0 = some d) (hn : d.len = 0) (hb : bodyOk d.cur [maskOf 63 63 ||| maskOf 13 0, maskOf 31 0] = true)
    (first : ((s.flight.takeWhile fun x => !(x.ctx == q && x.index == i)).any fun x => x.ctx == q) = false)
    (named : bit (d.w 2) 63 = true → NamedCommitted s d) :
    exec (.fence q i) s = .next (putDesc s (d.finish stDone 0 (some ((getRing s d.owner (d.slot.getD 0)).failed.filter fun n =>
      !(bit (d.w 2) 63 && fld (d.w 2) 13 0 == q && n == fld (d.w 3) 31 0)).length))) := by
  change Machine.execFence q i s = _
  rw [Machine.execFence, hd]
  dsimp only
  rw [if_neg (by simp [hn, hb]), first, if_neg]
  cases names : bit (d.w 2) 63 with
  | false => simp
  | true =>
    rcases named names with ⟨k, hk, done⟩ | ⟨hk, done⟩
    · simp [hk, done]
    · simp [hk, done]

theorem abort_of_running {k : Nat} {x : Desc} (hd : stationDesc s q i 0x0C 1 = some d) (hn : d.len = 0) (hb : bodyOk d.cur [maskOf 13 0, maskOf 31 0] = true)
    (hk : d.named = some k) (hx : findDesc s (fld (d.w 2) 13 0) (BitVec.ofNat 32 (fld (d.w 3) 31 0)) = some x) (other : ¬(x.opcode = 0x0C ∧ x.subop = 1))
    (unlatched : x.latched = false) :
    exec (.abort q i t) s = .next (settleDrains (putDesc (stopDesc (atTime s t) x stAborted 0) (d.finish stDone 0))) := by
  change Machine.execAbort q i t s = _
  rw [Machine.execAbort, hd]
  dsimp only
  rw [if_neg (by simp [hn, hb]), hk]
  dsimp only
  rw [hx]
  dsimp only
  rw [if_neg other, if_neg (by simp [unlatched])]

/-! ### Program slots -/

/-- LOAD_PROGRAM and UNLOAD_PROGRAM name the slot that their W3 holds (R68). -/
abbrev slotOf (d : Desc) : Nat := fld (d.w 3) 5 0

/-- The count of steps in the header of a program image, and the words of its steps (R64). -/
abbrev imageSteps (bs : List Byte) : Nat := fld (wd (toWords 1 bs) 0) 5 0
abbrev imageWords (bs : List Byte) : List (List Word) := (List.range (imageSteps bs)).map fun k => toWords 8 (slice bs (64 * (k + 1)) 64)

theorem loadProgram_of_image {a : Nat} {rd : HostRead} {r : ReadRes} (hd : stationDesc s q i 0x0C 2 = some d) (hb : bodyOk d.cur [allBits, maskOf 5 0] = true)
    (slot : slotOf d ≠ 0) (whole : d.len % 64 = 0) (nonempty : d.len ≠ 0) (unused : slotInUse s d.owner (slotOf d) = false)
    (source : locate s d.owner (d.w 2) (occupied s d.owner (d.w 2) d.len) false = .ok (.host a)) (read : readLoc s d 2 rd (.host a) d.len 1 = .ok r)
    (sound : r.poison = false) (size : 64 * (imageSteps r.bytes + 1) = d.len) (formed : programOk r.bytes = true) :
    exec (.loadProgram q i rd) s = .next (putDesc s { d.finish stDone 0 (some (slotOf d)) (some (imageSteps r.bytes)) with
      effects := d.effects ++ [.program d.owner (slotOf d) (some (imageWords r.bytes))] }) := by
  change Machine.execLoadProgram q i rd s = _
  rw [Machine.execLoadProgram, hd]
  dsimp only
  rw [if_neg (by simp [hb, slot]), if_neg (by simp [whole, nonempty]), if_neg (by simp [unused]), source]
  dsimp only
  rw [waits_host, if_neg Bool.false_ne_true, doms_host, withDoms_of_domsOn domsOn_nil, atWork_nil, read]
  dsimp only
  rw [if_neg (by simp [sound]), if_neg fun h => h.1 size, if_neg (by simp [formed])]

theorem unloadProgram_of_unused (hd : stationDesc s q i 0x0C 3 = some d) (hb : bodyOk d.cur [0#64, maskOf 5 0] = true) (slot : slotOf d ≠ 0) (hn : d.len = 0)
    (unused : slotInUse s d.owner (slotOf d) = false) :
    exec (.unloadProgram q i) s = .next (putDesc s { d.finish stDone 0 (some (slotOf d)) (some 0) with
      effects := d.effects ++ [.program d.owner (slotOf d) none] }) := by
  change Machine.execUnloadProgram q i s = _
  rw [Machine.execUnloadProgram, hd]
  dsimp only
  rw [if_neg (by simp [hb, slot]), if_neg (by simp [hn]), if_neg (by simp [unused])]

end

/-- Settles O16, from the fetch that is due and from the three commands that carry a descriptor through its steps to its commit. -/
theorem fetchStepsCommit : Obligations.FetchStepsCommit := by
  refine ⟨?_, ?_, ?_, ?_⟩
  · intro o stores bad t s linked quiet rings due
    exact ⟨_, _, _, rfl, rfl, rfl, doorbellFetch_of_due ⟨linked, quiet, rings, due⟩ stores bad⟩
  · intro q i d s hd prog unstarted ready here
    exact programInvoke_of_ready hd prog unstarted ready here
  · intro q n i d s hd prog finished hn here
    exact programStep_of_finished hd prog finished hn here
  · intro q t i d s hd finished last room unused answered
    exact descriptorCommit_of_finished hd finished last room unused answered

/-- Settles O17, from what COPY, FENCE and ABORT answer once nothing refuses them and nothing makes them wait. -/
theorem coreOperations : Obligations.CoreOperations := by
  refine ⟨?_, ?_, ?_⟩
  · intro q a i rd d dst r s hd body source dest onTime apart open_ idle awake read sound
    exact copy_of_read hd ⟨body, source, dest, onTime, apart, open_, idle, awake⟩ read sound
  · intro q i d s hd hn hb first named
    exact fence_of_committed hd hn hb first named
  · intro q t k i d x s hd hn hb hk hx other unlatched
    exact abort_of_running hd hn hb hk hx other unlatched

/-- Settles O18, from the load of a well-formed image and the unload of a slot that nothing uses. -/
theorem programSlots : Obligations.ProgramSlots := by
  refine ⟨?_, ?_⟩
  · intro q a i rd d r s hd hb slot whole nonempty unused source read sound size formed
    exact loadProgram_of_image hd hb slot whole nonempty unused source read sound size formed
  · intro q i d s hd hb slot hn unused
    exact unloadProgram_of_unused hd hb slot hn unused

end Sys2Proof.Proofs
end

section
/-!
The ring registers. A ring after a change of it is what the change makes of it (`getRing_modRing`), and a change that leaves the setup in force leaves what is in flight on each ring (`ringBusy_modRing`); DISABLED, its counts and its context then follow from `disableRing` alone.
-/
namespace Sys2Proof.Proofs

open Sys2Proof.Machine (State exec)
open Sys2Proof.Laws (Kept kept_resetRing)

/-! ### Keyed data -/

section
variable {κ β : Type} [DecidableEq κ]

theorem lookup?_cons (e : κ × β) (m : List (κ × β)) (k : κ) : lookup? (e :: m) k = if e.1 = k then some e.2 else lookup? m k := by
  by_cases h : e.1 = k
  · simp [lookup?, h]
  · simp [lookup?, h]

theorem lookup?_adjust (m : List (κ × β)) (k : κ) (f : β → β) (j : κ) :
    lookup? (adjust m k f) j = if j = k then (lookup? m j).map f else lookup? m j := by
  induction m with
  | nil => simp [adjust, lookup?]
  | cons e m ih =>
    have front : adjust (e :: m) k f = (if e.1 = k then (e.1, f e.2) else e) :: adjust m k f := rfl
    rw [front, lookup?_cons, lookup?_cons, ih]
    by_cases hj : e.1 = j
    · subst hj
      by_cases hk : e.1 = k
      · simp [hk]
      · simp [hk]
    · have still : (if e.1 = k then (e.1, f e.2) else e).1 = e.1 := by split <;> rfl
      rw [still, if_neg hj, if_neg hj]

theorem lookup?_append_single (m : List (κ × β)) (k : κ) (v : β) (j : κ) :
    lookup? (m ++ [(k, v)]) j = (lookup? m j).or (if k = j then some v else none) := by
  induction m with
  | nil => exact lookup?_cons (k, v) [] j
  | cons e m ih =>
    rw [List.cons_append, lookup?_cons, lookup?_cons, ih]
    by_cases h : e.1 = j
    · rw [if_pos h, if_pos h, Option.some_or]
    · rw [if_neg h, if_neg h]

theorem lookup?_assign (m : List (κ × β)) (k : κ) (v : β) (j : κ) : lookup? (assign m k v) j = if j = k then some v else lookup? m j := by
  unfold assign
  by_cases h : (lookup? m k).isSome = true
  · rw [if_pos h, lookup?_adjust]
    by_cases hj : j = k
    · obtain ⟨x, hx⟩ := Option.isSome_iff_exists.1 h
      rw [if_pos hj, if_pos hj, hj, hx, Option.map_some]
    · rw [if_neg hj, if_neg hj]
  · rw [if_neg h, lookup?_append_single]
    by_cases hj : j = k
    · rw [if_pos hj, hj, Option.not_isSome_iff_eq_none.1 h, if_pos rfl, Option.none_or]
    · rw [if_neg hj, if_neg (Ne.symm hj), Option.or_none]

end

/-! ### A ring after a change of it -/

section
variable {s : State} {o : Owner} {k : Nat} {f g : Ring → Ring}

theorem getOwner_modOwner (ho : o.idx < s.owners.length) (f : OwnerS → OwnerS) : getOwner (modOwner s o f) o = f (getOwner s o) := by
  simp [getOwner, modOwner, ho]

/-- An owner that does not exist is not changed. -/
theorem modOwner_of_length_le (ho : s.owners.length ≤ o.idx) (f : OwnerS → OwnerS) : modOwner s o f = s := by
  rw [modOwner, List.modify_eq_self ho]

theorem modOwner_eq_set (f : OwnerS → OwnerS) : modOwner s o f = { s with owners := s.owners.set o.idx (f (getOwner s o)) } :=
  congrArg (fun xs => { s with owners := xs }) (@List.modify_eq_set _ ⟨{}⟩ f o.idx s.owners)

theorem modOwner_congr {f g : OwnerS → OwnerS} (h : f (getOwner s o) = g (getOwner s o)) : modOwner s o f = modOwner s o g := by
  rw [modOwner_eq_set, modOwner_eq_set, h]

theorem getRing_modRing (ho : o.idx < s.owners.length) (k : Nat) (f : Ring → Ring) (j : Nat) :
    getRing (modRing s o k f) o j = if j = k then f (getRing s o k) else getRing s o j := by
  rw [getRing, modRing, getOwner_modOwner ho, lookup?_assign]
  by_cases hj : j = k
  · rw [if_pos hj, if_pos hj]
    rfl
  · rw [if_neg hj, if_neg hj]
    rfl

theorem getRing_modRing_self (ho : o.idx < s.owners.length) : getRing (modRing s o k f) o k = f (getRing s o k) := by
  rw [getRing_modRing ho, if_pos rfl]

/-- A change of a ring counts only for what it makes of the ring as it stands. -/
theorem modRing_congr (h : f (getRing s o k) = g (getRing s o k)) : modRing s o k f = modRing s o k g :=
  modOwner_congr (congrArg (fun r => { getOwner s o with rings := assign (getOwner s o).rings k r }) h)

theorem inCfg_modRing (keeps : ∀ r, (f r).inCfg = r.inCfg) (j : Nat) : (getRing (modRing s o k f) o j).inCfg = (getRing s o j).inCfg := by
  rcases Nat.lt_or_ge o.idx s.owners.length with ho | ho
  · rw [getRing_modRing ho]
    split
    next hj => rw [keeps, hj]
    next => rfl
  · rw [modRing, modOwner_of_length_le ho]

/-- What is in flight on a ring hangs on the setups in force only. -/
theorem ringBusy_modRing (keeps : ∀ r, (f r).inCfg = r.inCfg) (j : Nat) : ringBusy (modRing s o k f) o j = ringBusy s o j := by
  simp only [ringBusy, inCfg_modRing keeps]
  rfl

/-! ### DISABLED -/

/-- The setup registers of a ring that goes DISABLED: what was written to them stands, and of the setup in force only its kind (R73). -/
abbrev bareRing (r : Ring) : Ring := { base := r.base, cfg := r.cfg, tagBase := r.tagBase, wake := r.wake, cause := r.cause, inCfg := r.inCfg &&& maskOf 63 62 }

/-- A ring as it goes DISABLED: its counts stand, but for one that is reset (R73, R557). -/
def ringDisabled (r : Ring) : Ring :=
  if r.wipe then bareRing r else { bareRing r with dispatched := r.dispatched, written := r.written, stalls := r.stalls, lost := r.lost }

theorem ringDisabled_state (r : Ring) : (ringDisabled r).state = .disabled := by
  unfold ringDisabled
  split <;> rfl

theorem ringDisabled_of_reset {r : Ring} (h : r.wipe = true) : ringDisabled r = bareRing r := if_pos h

theorem ringDisabled_of_disable {r : Ring} (h : r.wipe = false) :
    ringDisabled r = { bareRing r with dispatched := r.dispatched, written := r.written, stalls := r.stalls, lost := r.lost } :=
  if_neg (by simp [h])

theorem getRing_disableRing (ho : o.idx < s.owners.length) (k : Nat) : getRing (disableRing s o k) o k = ringDisabled (getRing s o k) :=
  getRing_modRing_self (s := { s with
    flight := s.flight.map (unname s o k)
    contexts := s.contexts.filter fun c => !(c.2.1 == o && !c.2.2.1 && c.2.2.2 == k) }) ho

/-- The context of a ring that goes DISABLED is given back (R73). -/
theorem not_held_of_mem_disableRing {c : Nat × Owner × Bool × Nat} (h : c ∈ (disableRing s o k).contexts) : ¬(c.2.1 = o ∧ c.2.2.1 = false ∧ c.2.2.2 = k) := by
  have kept : (!(c.2.1 == o && !c.2.2.1 && c.2.2.2 == k)) = true := (List.mem_filter.1 h).2
  rintro ⟨ho, hq, hk⟩
  simp [ho, hq, hk] at kept

theorem closeRing_of_idle (h : ringBusy s o k = false) : closeRing s o k = disableRing s o k := if_neg (by simp [h])

theorem closeRing_of_busy (h : ringBusy s o k = true) : closeRing s o k = modRing s o k fun r => { r.disarm with closing := true } := if_pos h

theorem resetRing_of_idle (h : ringBusy s o k = false) : resetRing s o k = disableRing (modRing s o k fun r => { r with wipe := true }) o k := by
  have idle : ringBusy (modRing s o k fun r => { r with wipe := true }) o k = false :=
    (ringBusy_modRing (by intro r; rfl) k).trans h
  rw [resetRing, closeRing_of_idle idle]

/-- A reset clears the counts of its ring (R73, R557). -/
theorem getRing_resetRing_of_idle (ho : o.idx < s.owners.length) (h : ringBusy s o k = false) :
    getRing (resetRing s o k) o k = bareRing (getRing s o k) := by
  have there : o.idx < (modRing s o k fun r => { r with wipe := true }).owners.length := by simpa [modRing, modOwner] using ho
  rw [resetRing_of_idle h, getRing_disableRing there, getRing_modRing_self ho]
  exact ringDisabled_of_reset rfl

theorem disableSlot_of_not_completion (on : (getRing s o k).enabled = true) (single : cfgKind (getRing s o k).inCfg ≠ .completion) :
    disableSlot s o k = closeRing s o k := by
  simp [disableSlot, on, single]

/-! ### The commands -/

theorem ringEnable_of_checked {c : Nat} {r : State} (opened : pageOpen s o = true) (off : (getRing s o (getOwner s o).ringSel).state = .disabled)
    (checked : enableCause s o (getOwner s o).ringSel = none) (taken : takeContext (startWatches s o) o false (getOwner s o).ringSel = some (c, r)) :
    exec (.ringEnable o) s = .next (modRing r o (getOwner s o).ringSel fun x =>
      { base := x.base, cfg := x.cfg, tagBase := x.tagBase, wake := x.wake, cause := x.cause, inBase := fld x.base 56 0, inCfg := x.cfg
        inTag := fld x.tagBase 56 0, state := .active, queue := c }) := by
  change Machine.execRingEnable o s = _
  rw [Machine.execRingEnable]
  dsimp only
  rw [if_neg (by simp [opened, off]), checked]
  dsimp only
  rw [taken]

theorem ringDisable_of_not_completion (opened : pageOpen s o = true) (on : (getRing s o (getOwner s o).ringSel).enabled = true)
    (single : cfgKind (getRing s o (getOwner s o).ringSel).inCfg ≠ .completion) :
    exec (.ringDisable o) s = .next (closeRing s o (getOwner s o).ringSel) := by
  change Machine.execRingDisable o s = _
  rw [Machine.execRingDisable, if_pos opened, disableSlot_of_not_completion on single]

theorem ringReset_of_error (opened : pageOpen s o = true) (failed : (getRing s o (getOwner s o).ringSel).state = .error) :
    exec (.ringReset o) s = .next (resetRing s o (getOwner s o).ringSel) := if_pos ⟨opened, failed⟩

/-- A Chime ring of which a write changes GEN and nothing else is ACTIVE again, and what it holds is written (R466, R468, R485). -/
theorem reattach_of_chime {v : Word} (orphan : (getRing s o k).state = .orphaned) (open_ : (getRing s o k).closing = false)
    (chime : cfgKind (getRing s o k).inCfg = .chime) (gen : cfgGen v ≠ cfgGen (getRing s o k).inCfg)
    (rest : (v &&& cfgMask &&& ~~~(maskOf 39 24)) = ((getRing s o k).inCfg &&& cfgMask &&& ~~~(maskOf 39 24))) :
    reattach s o k v = flushHeld (modRing s o k fun r =>
      { r with cfg := v &&& cfgMask, inCfg := v &&& cfgMask, inBase := fld r.base 56 0, inTag := fld r.tagBase 56 0, state := .active, stale := none }) o k := by
  have passes : ¬((getRing s o k).state ≠ .orphaned ∨ (getRing s o k).closing = true ∨ cfgGen v = cfgGen (getRing s o k).inCfg ∨
      (v &&& cfgMask &&& ~~~(maskOf 39 24)) ≠ ((getRing s o k).inCfg &&& cfgMask &&& ~~~(maskOf 39 24))) := by
    simp only [orphan, open_, gen, rest, ne_eq, not_true_eq_false, Bool.false_eq_true, or_self, not_false_eq_true]
  rw [reattach]
  dsimp only
  rw [if_neg passes, chime]
  dsimp only
  refine congrArg (flushHeld · o k) (modRing_congr ?_)
  rw [if_neg (by simp [chime])]

theorem ringReattach_of_open (opened : pageOpen s o = true) (v : Word) : exec (.ringReattach o v) s = .next (reattach s o (getOwner s o).ringSel v) :=
  if_pos opened

end

/-- Settles O19, from what ENABLE, DISABLE, RESET and a re-attach answer, and from what becomes of a ring that goes DISABLED. -/
theorem ringRegisters : Obligations.RingRegisters := by
  refine ⟨?_, ?_, ?_, ?_, ?_, ?_⟩
  · intro o c s r opened off checked taken
    exact ringEnable_of_checked opened off checked taken
  · intro o s opened on single idle
    rw [ringDisable_of_not_completion opened on single, closeRing_of_idle idle]
  · intro o s opened on single busy
    rw [ringDisable_of_not_completion opened on single, closeRing_of_busy busy]
  · rintro o k s opened rfl failed idle
    refine ⟨_, ringReset_of_error opened failed, (kept_resetRing rfl s o _ (Kept.refl _ s)).same, fun ho => ?_⟩
    rw [getRing_resetRing_of_idle ho idle]
    exact ⟨rfl, rfl, rfl, rfl, rfl⟩
  · intro o k s ho
    refine ⟨?_, fun disable => ?_, fun c => not_held_of_mem_disableRing⟩
    · rw [getRing_disableRing ho, ringDisabled_state]
    · rw [getRing_disableRing ho, ringDisabled_of_disable disable]
      exact ⟨rfl, rfl, rfl⟩
  · rintro o v k s opened rfl orphan open_ chime gen rest
    rw [ringReattach_of_open opened, reattach_of_chime orphan open_ chime gen rest]

end Sys2Proof.Proofs
end

section
/-!
The rule of the PLACE station. Once a descriptor is at the station (`AtPlace`) and the stacks of what it stages are ON, PLACE answers what the operation makes of the state and of the descriptor (`exec_of_atPlace`); each operation then says what it makes when nothing refuses it.
-/
namespace Sys2Proof.Proofs

open Sys2Proof.Machine (State exec)

section
variable {s : State} {q sub : Nat} {i : BitVec 32} {masks : List Word} {p : Fin 16} {d e : Desc}

/-! ### The station -/

/-- What a PLACE command answers, of which `arm` says the operation: what the operation makes of the state and of the descriptor (R93). -/
theorem exec_of_atPlace {c : Instr} {k : Nat → Desc → State → State × Desc} {t : State} (arm : exec c s = placeRun s q i sub masks k)
    (h : AtPlace s q i sub masks p d) (run : k p d s = (t, e)) (on : domsOn s (placeDoms e.effects) = true) : exec c s = .next (putDesc t e) := by
  obtain ⟨ready, owner, active, locked, body, bare, found⟩ := h
  rw [arm, placeRun, ready]
  dsimp only
  rw [owner]
  dsimp only
  rw [if_neg (by simp [active, locked]), if_neg (by simp [body]), if_neg (by simp [bare]), if_neg (by simp [found]), run]
  exact if_pos on

/-! ### The stacks of what is staged (R488) -/

theorem domsOn_placeDoms_append (es fs : List Effect) :
    domsOn s (placeDoms (es ++ fs)) = (domsOn s (placeDoms es) && domsOn s (placeDoms fs)) := by
  rw [Bool.eq_iff_iff, Bool.and_eq_true]
  simp only [domsOn, placeDoms, List.all_eq_true, List.mem_eraseDups, List.filterMap_append, List.mem_append, or_imp, forall_and]

@[simp] theorem placeDoms_putSeq (p seq : Nat) (r : SeqRec) : placeDoms [.putSeq p seq r] = [84 + r.headTable.ext / 96] := rfl

/-- Control blocks that are given back touch no stack (R488). -/
theorem placeDoms_of_freeBlocks {es : List Effect} (h : ∀ e ∈ es, ∃ p b, e = .freeBlocks p b) : placeDoms es = [] := by
  rw [placeDoms, List.filterMap_eq_nil_iff.2, List.eraseDups_nil]
  intro e he
  obtain ⟨p, b, rfl⟩ := h e he
  rfl

end

/-! ### The record of a sequence -/

section
variable {r : SeqRec} {l h l' h' : Nat}

@[simp] theorem heads_recount (r : SeqRec) : r.recount.heads = r.heads := rfl
@[simp] theorem heads_touch (r : SeqRec) : r.touch.heads = r.heads := rfl

theorem setHead_head (r : SeqRec) (l h : Nat) : r.setHead l h (r.head l h) = r := by
  have same : r.heads.set (r.headIdx l h) (r.head l h) = r.heads := by
    apply List.ext_getElem (by simp)
    intro k _ hk
    rw [List.getElem_set]
    split
    next e => subst e; simp [SeqRec.head, hk]
    next => rfl
  rw [SeqRec.setHead, same]

@[simp] theorem setHead_setHead (r : SeqRec) (l h : Nat) (x y : HeadList) : (r.setHead l h x).setHead l h y = r.setHead l h y :=
  congrArg (fun hs => { r with heads := hs }) (List.set_set ..)

theorem head_setHead_self (there : r.headIdx l h < r.heads.length) (x : HeadList) : (r.setHead l h x).head l h = x := by
  change (r.heads.set (r.headIdx l h) x).getD (r.headIdx l h) {} = x
  simp [there]

theorem head_setHead_of_ne (ne : r.headIdx l h ≠ r.headIdx l' h') (x : HeadList) : (r.setHead l h x).head l' h' = r.head l' h' := by
  change (r.heads.set (r.headIdx l h) x).getD (r.headIdx l' h') {} = r.heads.getD (r.headIdx l' h') {}
  rw [List.getD_eq_getElem?_getD, List.getElem?_set_ne ne, List.getD_eq_getElem?_getD]

theorem headIdx_lt (sized : r.heads.length = r.layers * r.nheads) (hl : l < r.layers) (hh : h < r.nheads) : r.headIdx l h < r.heads.length :=
  sized ▸ calc l * r.nheads + h
    _ < (l + 1) * r.nheads := by rw [Nat.succ_mul]; omega
    _ ≤ r.layers * r.nheads := Nat.mul_le_mul_right _ hl

/-- No two heads of a sequence share a head list (R83). -/
theorem headIdx_ne (hh : h < r.nheads) (hh' : h' < r.nheads) (ne : l ≠ l' ∨ h ≠ h') : r.headIdx l h ≠ r.headIdx l' h' := by
  intro same
  have quot : l = l' := by
    have := congrArg (· / r.nheads) same
    simpa [SeqRec.headIdx, Nat.mul_comm _ r.nheads, Nat.mul_add_div (Nat.zero_lt_of_lt hh), Nat.div_eq_of_lt hh, Nat.div_eq_of_lt hh'] using this
  subst quot
  exact ne.elim (absurd rfl) (absurd (Nat.add_left_cancel same))

end

/-! ### Head lists -/

theorem length_trimHead (p : Nat) (r : SeqRec) (h : HeadList) : (trimHead p r h).1.length = h.length := by
  unfold trimHead
  dsimp only
  split <;> rfl

theorem freeBlocks_of_mem_trimHead {p : Nat} {r : SeqRec} {h : HeadList} {e : Effect} (he : e ∈ (trimHead p r h).2) : ∃ p b, e = .freeBlocks p b := by
  have shape : ∀ (bs : List (Nat × Blocks)), e ∈ bs.map (fun b => Effect.freeBlocks p b.2) → ∃ p b, e = .freeBlocks p b := by
    intro bs hb
    obtain ⟨b, -, rfl⟩ := List.mem_map.1 hb
    exact ⟨p, b.2, rfl⟩
  unfold trimHead at he
  dsimp only at he
  split at he
  · rcases List.mem_append.1 he with he | he
    · exact shape _ he
    · obtain ⟨b, -, rfl⟩ := List.mem_map.1 he
      exact ⟨p, b, rfl⟩
  · exact shape _ he

/-- List blocks and directory are taken for a head list as it stands (R84). -/
theorem takeLists_keeps {s t : State} {p ptr : Nat} {h h' : HeadList} {bs : List Blocks} (run : takeLists s p h ptr = some (h', bs, t)) :
    h'.length = h.length ∧ h'.entries = h.entries := by
  unfold takeLists at run
  extract_lets dir at run
  have kept : ∀ x, dir = some x → x.1.length = h.length ∧ x.1.entries = h.entries := by
    intro x hx
    dsimp only [dir] at hx
    split at hx
    · cases hx
      exact ⟨rfl, rfl⟩
    · obtain ⟨y, -, rfl⟩ := Option.map_eq_some_iff.1 hx
      exact ⟨rfl, rfl⟩
  clear_value dir
  split at run
  · cases run
  · split at run
    · cases run
      exact kept _ rfl
    · obtain ⟨y, -, hy⟩ := Option.map_eq_some_iff.1 run
      cases hy
      exact kept _ rfl

end Sys2Proof.Proofs
end

section
/-!
APPEND. Each step of it changes one head list of the record and nothing else of it (`∃ x, b.r = a.r.setHead l h x`), so the record after a page, after a head and after all heads is known from what becomes of the length of that head list.
-/
namespace Sys2Proof.Proofs

open Sys2Proof.Machine (State)
open Sys2Proof.Laws (Kept OnPlace OnResult Always foldl_kept exc_error exc_ok exc_ok_eq kept_appendHead kept_placeDone)

/-! ### One page -/

section
variable {a b : PlaceAcc} {d : Desc} {p seq l h page k : Nat} {f : FrameAddr}

theorem record_stageDrop (a : PlaceAcc) (p l h page : Nat) (reuse : Bool) : ∃ x, (stageDrop a p l h page reuse).r = a.r.setHead l h x := ⟨_, rfl⟩

theorem record_of_policyFrame {defaults : Word} {cls : Nat} (run : policyFrame a defaults p l h page cls = .ok (f, b)) :
    ∃ x, b.r = a.r.setHead l h x := by
  unfold policyFrame at run
  dsimp only at run
  split at run
  · split at run
    · split at run
      · cases run
        exact record_stageDrop a p l h _ true
      · cases run
    · cases run
  · split at run
    · cases run
    · split at run
      · cases run
      · cases run
        exact ⟨_, rfl⟩
  · cases run

theorem record_of_newFrame {defaults : Word} {cls : Nat} {starts : Bool} (run : newFrame a defaults p seq l h page cls starts = .ok (f, b)) :
    ∃ x, b.r = a.r.setHead l h x := by
  unfold newFrame at run
  extract_lets win leaving direct c at run
  obtain ⟨x, hx⟩ : ∃ x, c.r = a.r.setHead l h x := by
    dsimp only [c]
    split
    · exact record_stageDrop a p l h _ _
    · exact ⟨_, (setHead_head a.r l h).symm⟩
  clear_value c direct
  split at run
  · cases run
    exact ⟨x, hx⟩
  · split at run
    · cases run
      exact ⟨x, hx⟩
    · obtain ⟨y, hy⟩ := record_of_policyFrame run
      exact ⟨y, by rw [hy]; change c.r.setHead l h y = _; rw [hx, setHead_setHead]⟩

theorem record_of_needWords (run : needWords a p f = .ok b) : b.r = a.r := by
  unfold needWords at run
  split at run
  · cases run
    rfl
  · split at run
    · cases run
    · cases run
      rfl

theorem record_of_placePage {fill fmt : Nat} {promote fresh : Bool} {writes : List Effect}
    (run : placePage a d p seq l h page fill fmt promote fresh f writes = .ok b) :
    ∃ x, b.r = a.r.setHead l h x ∧ x.length = 16 * page + fill := by
  unfold placePage at run
  split at run
  · cases run
  next c hc =>
    have same : c.r = a.r := by
      split at hc
      · exact record_of_needWords hc
      · cases hc
        rfl
    dsimp only at run
    split at run
    · cases run
    next hl =>
      cases run
      rw [← same]
      exact ⟨_, rfl, (takeLists_keeps hl).1⟩

/-- A page that an APPEND writes ends its head list (R97). -/
theorem record_of_appendPage {side : Option (List Token)} {codes : List Token} (sides : ∀ ts ∈ side, ts.length = codes.length)
    (run : appendPage a d p seq l h page k side codes = .ok b) : ∃ x, b.r = a.r.setHead l h x ∧ x.length = 16 * page + (k + codes.length) := by
  unfold appendPage at run
  extract_lets r old was promote fmt toks c inPlace at run
  have count : toks.length = codes.length := by
    dsimp only [toks]
    split
    · exact sides _ rfl
    · split
      · exact List.length_map ..
      · rfl
  clear_value inPlace
  rw [count] at run
  split at run
  · exact record_of_placePage (a := c) run
  · split at run
    · cases run
    · split at run
      · cases run
      next hf =>
        obtain ⟨x, hx⟩ := record_of_newFrame hf
        obtain ⟨y, hy, hn⟩ := record_of_placePage run
        exact ⟨y, by rw [hy, hx]; exact setHead_setHead .., hn⟩

/-! ### One head -/

theorem length_sideTokens (dim : Nat) (side : List (BitVec 16)) (c : Nat) : (sideTokens dim side c).length = c := by simp [sideTokens]

/-- The segment `seg` of a head as it came promoted with its tile, when it did: `c` tokens (R195, R196). -/
def tileSide (attr : Option PlaceAttr) (dim off seg c : Nat) : Option (List Token) :=
  attr.bind fun x => (x.promoted.findIdx? fun y => y == 17 * off + seg).map fun j => sideTokens dim (x.side.getD j []) c

theorem length_of_mem_tileSide {attr : Option PlaceAttr} {dim off seg c : Nat} {ts : List Token} (h : ts ∈ tileSide attr dim off seg c) : ts.length = c := by
  obtain ⟨x, -, hx⟩ := Option.bind_eq_some_iff.1 h
  obtain ⟨j, -, rfl⟩ := Option.map_eq_some_iff.1 hx
  exact length_sideTokens ..

/-- The tokens of one head lengthen its head list, as far as the bound on their pages goes (R97). -/
theorem record_of_appendHead {attr : Option PlaceAttr} {off : Nat} (n : Nat) {toks : List Token} {seg : Nat} (there : a.r.headIdx l h < a.r.heads.length)
    (room : toks.length ≤ 16 * n - (a.r.head l h).length % 16) (run : appendHead d p seq l h attr off n a toks seg = .ok b) :
    ∃ x, b.r = a.r.setHead l h x ∧ x.length = (a.r.head l h).length + toks.length := by
  induction n generalizing a toks seg with
  | zero =>
    obtain rfl : toks = [] := List.length_eq_zero_iff.1 (by omega)
    cases run
    exact ⟨_, (setHead_head ..).symm, rfl⟩
  | succ n ih =>
    unfold appendHead at run
    split at run
    next empty =>
      obtain rfl := List.isEmpty_iff.1 empty
      cases run
      exact ⟨_, (setHead_head ..).symm, rfl⟩
    next nonempty =>
      dsimp only at run
      split at run
      · cases run
      next c hc =>
        obtain ⟨x, hx, hn⟩ := record_of_appendPage
          (side := tileSide attr a.r.dim off seg (min (16 - (a.r.head l h).length % 16) toks.length))
          (fun ts hts => by rw [length_of_mem_tileSide hts, List.length_take]; omega) hc
        rw [List.length_take] at hn
        have here : c.r.head l h = x := by rw [hx, head_setHead_self there]
        obtain ⟨y, hy, hm⟩ := ih (by rw [hx]; exact Nat.lt_of_lt_of_eq there (List.length_set ..).symm) (by rw [here, List.length_drop]; omega) run
        refine ⟨y, by rw [hy, hx, setHead_setHead], ?_⟩
        rw [hm, here, List.length_drop]
        omega

end

/-! ### All heads -/

/-- Between two records of a sequence, heads `first` to `first + m − 1` of a layer have become longer by `n` tokens; every other head list, the parameters, the head table and VERSION are as they were. -/
structure HeadsGrown (layer first m n : Nat) (r r' : SeqRec) : Prop where
  params : r'.params = r.params
  headTable : r'.headTable = r.headTable
  version : r'.version = r.version
  count : r'.heads.length = r.heads.length
  grown : ∀ k < m, (r'.head layer (first + k)).length = (r.head layer (first + k)).length + n
  others : ∀ l h, l < r.layers → h < r.nheads → (l ≠ layer ∨ h < first ∨ first + m ≤ h) → r'.head l h = r.head l h

section
variable {layer first m n n' : Nat} {r r' r'' : SeqRec}

theorem HeadsGrown.layers (g : HeadsGrown layer first m n r r') : r'.layers = r.layers := by rw [SeqRec.layers, g.params, SeqRec.layers]

theorem HeadsGrown.nheads (g : HeadsGrown layer first m n r r') : r'.nheads = r.nheads := by rw [SeqRec.nheads, g.params, SeqRec.nheads]

theorem HeadsGrown.sized (g : HeadsGrown layer first m n r r') (sized : r.heads.length = r.layers * r.nheads) :
    r'.heads.length = r'.layers * r'.nheads := by rw [g.count, sized, g.layers, g.nheads]

theorem HeadsGrown.none (layer first n : Nat) (r : SeqRec) : HeadsGrown layer first 0 n r r :=
  ⟨rfl, rfl, rfl, rfl, fun _ hk => absurd hk (Nat.not_lt_zero _), fun _ _ _ _ _ => rfl⟩

theorem HeadsGrown.trans (g : HeadsGrown layer first m n r r') (g' : HeadsGrown layer first m n' r' r'') : HeadsGrown layer first m (n + n') r r'' where
  params := g'.params.trans g.params
  headTable := g'.headTable.trans g.headTable
  version := g'.version.trans g.version
  count := g'.count.trans g.count
  grown k hk := by rw [g'.grown k hk, g.grown k hk, Nat.add_assoc]
  others l h hl hh away := (g'.others l h (g.layers ▸ hl) (g.nheads ▸ hh) away).trans (g.others l h hl hh away)

/-- One more head grows. -/
theorem HeadsGrown.next (g : HeadsGrown layer first m n r r') (sized : r.heads.length = r.layers * r.nheads) (hl : layer < r.layers) (hm : first + m < r.nheads)
    {x : HeadList} (hx : x.length = (r'.head layer (first + m)).length + n) : HeadsGrown layer first (m + 1) n r (r'.setHead layer (first + m) x) where
  params := g.params
  headTable := g.headTable
  version := g.version
  count := (List.length_set ..).trans g.count
  grown k hk := by
    by_cases last : k = m
    · subst last
      rw [head_setHead_self (headIdx_lt (g.sized sized) (g.layers ▸ hl) (g.nheads ▸ hm)), hx, g.others layer _ hl hm (by omega)]
    · rw [head_setHead_of_ne (headIdx_ne (g.nheads ▸ hm) (by rw [g.nheads]; omega) (by omega)), g.grown k (by omega)]
  others l h hl' hh away := by
    rw [head_setHead_of_ne (headIdx_ne (g.nheads ▸ hm) (g.nheads ▸ hh) (by omega)), g.others l h hl' hh (by omega)]

end

/-- The tokens of head `k` of a tile of `tokens` tokens in each head (R75, R93). -/
def tileHead (r : SeqRec) (tokens : Nat) (tile : Tile) (k : Nat) : List Token :=
  (List.range tokens).map fun j => tokenAt r.format r.dim tokens (slice tile.bytes (k * tokens * tokenBytes r.format r.dim) (tokens * tokenBytes r.format r.dim)) j

/-- One head of an APPEND: what `appendRun` does in turn for each head of the tile. -/
def appendTile (p : Nat) (d : Desc) (layer first tokens : Nat) (tile : Tile) (r : SeqRec) (x : Except PlaceFail PlaceAcc) (k : Nat) : Except PlaceFail PlaceAcc :=
  match x with
  | .error e => .error e
  | .ok a => appendHead d p d.seq layer (first + k) tile.attr k 18 a (tileHead r tokens tile k) 0

/-- What the heads of an APPEND have become once their list blocks that no page needs are given back, and the blocks given back: what `appendRun` does in turn for each head. -/
def trimTile (p layer first : Nat) (x : SeqRec × List Effect) (k : Nat) : SeqRec × List Effect :=
  (x.1.setHead layer (first + k) (trimHead p x.1 (x.1.head layer (first + k))).1, x.2 ++ (trimHead p x.1 (x.1.head layer (first + k))).2)

section
variable {p layer first tokens m : Nat} {d : Desc} {tile : Tile} {r : SeqRec} {a b : PlaceAcc}

theorem headsGrown_of_appendTile (few : tokens ≤ 256) (sized : r.heads.length = r.layers * r.nheads) (hl : layer < r.layers) (hm : first + m ≤ r.nheads)
    (run : (List.range m).foldl (appendTile p d layer first tokens tile r) (.ok a) = .ok b) (start : a.r = r) : HeadsGrown layer first m tokens r b.r := by
  induction m generalizing b with
  | zero =>
    cases run
    rw [start]
    exact .none ..
  | succ m ih =>
    rw [List.range_succ, List.foldl_append] at run
    cases before : (List.range m).foldl (appendTile p d layer first tokens tile r) (.ok a) with
    | error e =>
      rw [before] at run
      cases run
    | ok c =>
      rw [before] at run
      have g := ih (by omega) before
      have count : (tileHead r tokens tile m).length = tokens := by simp [tileHead]
      obtain ⟨x, hx, hn⟩ := record_of_appendHead 18 (headIdx_lt (g.sized sized) (g.layers ▸ hl) (by rw [g.nheads]; omega)) (by rw [count]; omega) run
      rw [hx]
      exact g.next sized hl (by omega) (count ▸ hn)

theorem headsGrown_trimTile (sized : r.heads.length = r.layers * r.nheads) (hl : layer < r.layers) (hm : first + m ≤ r.nheads) :
    HeadsGrown layer first m 0 r ((List.range m).foldl (trimTile p layer first) (r, [])).1 := by
  induction m with
  | zero => exact .none ..
  | succ m ih =>
    rw [List.range_succ, List.foldl_append]
    exact (ih (by omega)).next sized hl (by omega) (length_trimHead ..)

theorem freeBlocks_of_mem_trimTile {ks : List Nat} {e : Effect} (he : e ∈ (ks.foldl (trimTile p layer first) (r, [])).2) : ∃ p b, e = .freeBlocks p b :=
  foldl_kept (P := fun x : SeqRec × List Effect => ∀ e ∈ x.2, ∃ p b, e = .freeBlocks p b) (by simp)
    (fun _ _ hx _ he => (List.mem_append.1 he).elim (hx _) freeBlocks_of_mem_trimHead) e he

/-- The parts of the state that the heads of an APPEND and the end of a PLACE may change: not the bytes of HBM. -/
abbrev placingParts : Nat := partSet [.free, .out, .owners, .parts, .frames, .flash, .power]

/-- The heads of an APPEND leave the bytes of HBM as they were: they are staged (R93). -/
theorem hbm_of_appendTile {ks : List Nat} (run : ks.foldl (appendTile p d layer first tokens tile r) (.ok a) = .ok b) (e : Desc) (es : List Effect) :
    (placeDone p e b es).1.hbm = a.base.hbm := by
  have kept : OnResult Always (OnPlace (Kept placingParts a.base)) (ks.foldl (appendTile p d layer first tokens tile r) (.ok a)) := by
    refine foldl_kept (exc_ok (Kept.refl _ _)) ?_
    intro x k hx
    cases x with
    | error e => exact exc_error trivial
    | ok c => exact kept_appendHead rfl _ _ _ _ _ _ _ _ _ _ _ hx
  exact (kept_placeDone rfl p e b es (exc_ok_eq run kept)).same .hbm rfl

end

/-! ### The operation -/

section
variable {s w : State} {p : Fin 16} {d : Desc} {r : SeqRec} {tile : Tile} {a : PlaceAcc} {tokens heads first layer : Nat}

/-- The attributes of a tile that has them are those of the APPEND that takes it (R195, R196). -/
def AttrFits (x : PlaceAttr) (r : SeqRec) (layer first heads tokens : Nat) : Prop :=
  x.format = r.format ∧ x.dim = r.dimCode ∧ x.layer = layer ∧ x.firstHead = first ∧ x.heads = heads ∧ x.tokens = tokens ∧
    ∀ k < heads, (r.head layer (first + k)).length = x.startToken

/-- An APPEND that nothing refuses: its fields, its tile and the lengths of its head lists are legal and its sequence is there and not FROZEN (R93, R96, R109, R195). -/
structure AppendLegal (d : Desc) (p : Nat) (w : State) (r : SeqRec) (tile : Tile) (tokens heads first layer : Nat) : Prop where
  tokensEq : tokens = fld (d.w 3) 8 0
  headsEq : heads = fld (d.w 2) 57 52 + 1
  firstEq : first = fld (d.w 2) 51 46
  layerEq : layer = fld (d.w 2) 39 32
  input : d.input = some tile
  positive : 0 < tokens
  few : tokens ≤ 256
  found : visibleSeq w p d.seq = some r
  sized : r.heads.length = r.layers * r.nheads
  inLayers : layer < r.layers
  inHeads : first + heads ≤ r.nheads
  bytes : tile.bytes.length = heads * tokens * tokenBytes r.format r.dim
  attr : ∀ x, tile.attr = some x → AttrFits x r layer first heads tokens
  thawed : r.frozen = false
  short : ∀ k < heads, (r.head layer (first + k)).length + tokens ≤ 16777216

/-- The record that an APPEND stages, from the one that its heads have made. -/
def appendedRec (p layer first heads : Nat) (r : SeqRec) : SeqRec := ((List.range heads).foldl (trimTile p layer first) (r, [])).1.recount.touch

/-- What an APPEND stages of its own besides what its pages staged. -/
def appendedEffects (p layer first heads : Nat) (d : Desc) (r : SeqRec) : List Effect :=
  ((List.range heads).foldl (trimTile p layer first) (r, [])).2 ++ [.putSeq p d.seq (appendedRec p layer first heads r)]

theorem appendRun_of_legal (legal : AppendLegal d p (stagedView s d) r tile tokens heads first layer)
    (run : (List.range heads).foldl (appendTile p d layer first tokens tile r) (.ok { base := s, s := stagedView s d, r := r }) = .ok a) (ready : a.waits = false) :
    appendRun p d s = placeDone p (d.finish (placeStatus a.causes a.promoted).1 (placeStatus a.causes a.promoted).2
      (some ((appendedRec p layer first heads a.r).head layer first).length) (some (a.taken * 2 ^ 32 + a.sealed_))) a (appendedEffects p layer first heads d a.r) := by
  obtain ⟨rfl, rfl, rfl, rfl, input, positive, few, found, sized, inLayers, inHeads, bytes, attr, thawed, short⟩ := legal
  unfold appendRun
  rw [input]
  dsimp only
  rw [if_neg (by omega), found]
  dsimp only
  rw [if_neg (by omega), if_neg (fun ne => ne bytes), if_neg, if_neg (by simp [thawed]), if_neg]
  · change (match (List.range _).foldl (appendTile p d _ _ _ tile r) (.ok { base := s, s := stagedView s d, r := r }) with
      | .error e => placeRefuse p d s e
      | .ok a => _) = _
    rw [run]
    dsimp only
    rw [if_neg (by simp [ready])]
    rfl
  · simpa using short
  · split
    · simp
    next x hx =>
      obtain ⟨format, dim, layer, firstHead, heads, tokens, start⟩ := attr x hx
      simpa [format, dim, layer, firstHead, heads, tokens] using start

end
end Sys2Proof.Proofs
end

section
/-!
The PLACE operations on sequences, each as what it makes of the state and of its descriptor when nothing refuses it.
-/
namespace Sys2Proof.Proofs

open Sys2Proof.Machine (State exec)
open Sys2Proof.Laws (OnFst OnSome foldl_kept)

section
variable {s w : State} {p : Fin 16} {d : Desc} {r : SeqRec}

/-! ### CREATE -/

/-- The record of a sequence as CREATE makes it, but for its head table and its empty head lists (R82, R92). -/
abbrev blankRec (d : Desc) : SeqRec := { params := d.w 3, headTable := ⟨0, 0, 0⟩, heads := [] }

/-- The record that CREATE stages, with the head table that it has taken (R82, R92). -/
abbrev createdRec (d : Desc) (h : Blocks) : SeqRec :=
  { params := d.w 3, headTable := h, heads := List.replicate ((fld (d.w 3) 63 56 + 1) * (fld (d.w 3) 55 50 + 1)) {} }

/-- SEQ_ID names no sequence of the partition and no spread record, and none was named by it at dispatch (R92). -/
structure IdFree (w : State) (p : Nat) (d : Desc) : Prop where
  untaken : d.idTaken = false
  unused : getSeq w p d.seq = none
  unspread : lookup? w.fabric.spreads (p, d.seq) = none

theorem IdFree.passes (h : IdFree w p d) : ¬(d.idTaken = true ∨ (getSeq w p d.seq).isSome = true ∨ (lookup? w.fabric.spreads (p.val, d.seq)).isSome = true) := by
  simp [h.untaken, h.unused, h.unspread]

theorem createRun_of_legal {h : Blocks} {bs : List Blocks} {t : State} (dim : (dimOf (blankRec d).dimCode).isSome = true) (window : (blankRec d).window ≤ 1048576)
    (format : (pageFmt (blankRec d).format).isSome = true ∨ (blankRec d).format = 0x30) (id : IdFree (stagedView s d) p d)
    (rows : pageRows (blankRec d).format (blankRec d).dim ≤ classRows (stagedView s d) p (blankRec d).cls)
    (promoteRows : (blankRec d).format ≠ 0x30 → pageRows 0x30 (blankRec d).dim ≤ classRows (stagedView s d) p (blankRec d).promoteCls)
    (room : tableFull (stagedView s d) d p = false) (taken : takeTables s p ((blankRec d).layers * (blankRec d).nheads) = some (h, bs, t)) :
    createRun p d s = (t, { d.finish stDone 0 (some 0) (some 0) with
      effects := d.effects ++ [.putSeq p d.seq (createdRec d h)], blocks := bs ++ d.blocks }) := by
  have legal : ¬((dimOf (blankRec d).dimCode).isNone = true ∨ (blankRec d).window > 1048576 ∨
      ((pageFmt (blankRec d).format).isNone = true ∧ (blankRec d).format ≠ 0x30)) := by
    rw [← Option.not_isSome, ← Option.not_isSome]
    rintro (bad | bad | ⟨bad, other⟩)
    · simp [dim] at bad
    · omega
    · exact format.elim (fun good => by simp [good] at bad) other
  unfold createRun
  extract_lets +onlyGivenNames w fields fail r fmt
  rw [if_neg legal, if_neg id.passes, if_neg, if_neg (by simp [w, room]), taken]
  · rfl
  · rintro (few | ⟨other, few⟩)
    · exact absurd rows (Nat.not_le.2 few)
    · exact absurd (promoteRows other) (Nat.not_le.2 few)

/-! ### TRUNCATE -/

theorem length_truncateHead (s : State) (p : Nat) (r : SeqRec) (h : HeadList) (n : Nat) : (truncateHead s p r h n).1.length = min h.length n := by
  by_cases short : h.length ≤ n
  · rw [truncateHead, if_pos short, Nat.min_eq_left short]
  · rw [truncateHead, if_neg short, Nat.min_eq_right (by omega)]
    exact length_trimHead ..

/-- The record that a TRUNCATE to `n` tokens stages (R95, R109). -/
abbrev truncatedRec (w : State) (p : Nat) (r : SeqRec) (n : Nat) : SeqRec :=
  (({ r with heads := r.heads.map fun h => (truncateHead w p r h n).1 } : SeqRec).recount).touch

theorem truncateRun_of_legal (found : visibleSeq (stagedView s d) p d.seq = some r) (thawed : r.frozen = false)
    (held : (r.heads.any fun h => fld (d.w 3) 24 0 < 16 * h.firstPage) = false) :
    truncateRun p d s = (s, { d.finish stDone 0 (some (truncatedRec (stagedView s d) p r (fld (d.w 3) 24 0)).maxLength)
        (some (r.heads.map fun h => (truncateHead (stagedView s d) p r h (fld (d.w 3) 24 0)).2.2).sum) with
      effects := d.effects ++ r.heads.flatMap (fun h => (truncateHead (stagedView s d) p r h (fld (d.w 3) 24 0)).2.1) ++
        [.putSeq p d.seq (truncatedRec (stagedView s d) p r (fld (d.w 3) 24 0))] }) := by
  unfold truncateRun
  dsimp only
  rw [found]
  dsimp only
  rw [if_neg (by simp [thawed]), held, if_neg Bool.false_ne_true]
  simp only [List.map_map, List.flatMap_map]
  rfl

theorem length_truncatedRec {k n : Nat} (hk : k < r.heads.length) :
    ((truncatedRec w p r n).heads.getD k {}).length = min (r.heads.getD k {}).length n := by
  simp [hk, length_truncateHead]

/-! ### FORK -/

/-- A head list that a FORK makes: it holds the first tokens of its source and no page beyond them (R95). -/
def HoldsFirst (shared : Nat) (h : HeadList) : Prop := h.length = shared ∧ ∀ x ∈ h.entries, x.1 < ceilDiv shared 16

theorem holdsFirst_of_mem_forkHeads {p shared : Nat} {hs hs' : List HeadList} {bs : List Blocks} {s t : State}
    (run : forkHeads p r shared hs s = some (hs', bs, t)) : hs'.length = hs.length ∧ ∀ h ∈ hs', HoldsFirst shared h := by
  induction hs generalizing hs' bs s t with
  | nil =>
    cases run
    exact ⟨rfl, by simp⟩
  | cons h hs ih =>
    unfold forkHeads at run
    extract_lets n h0 ptrs one at run
    have kept : OnSome (OnFst (HoldsFirst shared)) one := by
      refine foldl_kept (P := OnSome (OnFst (HoldsFirst shared))) ⟨rfl, fun x hx => of_decide_eq_true (List.mem_filter.1 hx).2⟩ ?_
      intro x ptr hx
      split
      · trivial
      next g cs u =>
        cases lists : takeLists u p g ptr with
        | none => trivial
        | some y =>
          obtain ⟨length, entries⟩ := takeLists_keeps lists
          exact ⟨length.trans hx.1, fun x hx' => hx.2 x (entries ▸ hx')⟩
    clear_value one
    split at run
    · cases run
    · split at run
      · cases run
      next rest =>
        cases run
        obtain ⟨count, all⟩ := ih rest
        exact ⟨congrArg (· + 1) count, List.forall_mem_cons.2 ⟨kept, all⟩⟩

/-- The record of a sequence as FORK makes it of one with parameters `ps`, with its head table and head lists (R95). -/
abbrev forkedRec (ps : Word) (t : Blocks) (hs : List HeadList) : SeqRec := { params := setFld ps 20 0 0, headTable := t, heads := hs }

/-- The frames that a FORK shares: REFS of each rises by one (R95). -/
def sharedFrames (hs : List HeadList) : List Effect :=
  hs.flatMap fun h => h.entries.filterMap fun x => match x.2 with
    | .frame f _ => some (Effect.refUp f)
    | .spilled _ _ => none

theorem forkRun_of_legal {shared : Nat} {src : SeqRec} {t : Blocks} {bs bs' : List Blocks} {hs : List HeadList} {u v : State} (hn : shared = fld (d.w 4) 24 0)
    (found : visibleSeq (stagedView s d) p (fld (d.w 3) 31 0) = some src) (positive : 0 < shared) (held : shared ≤ src.minLength) (id : IdFree (stagedView s d) p d)
    (whole : src.window = 0) (present : ∀ h ∈ src.heads, ∀ x ∈ h.entries, x.1 < ceilDiv shared 16 → ∀ k b, x.2 ≠ .spilled k b)
    (room : tableFull (stagedView s d) d p = false) (taken : takeTables s p (src.layers * src.nheads) = some (t, bs, u))
    (lists : forkHeads p (forkedRec src.params t []) shared src.heads u = some (hs, bs', v)) :
    forkRun p d s = (v, { d.finish stDone 0 (some (ceilDiv shared 16 * hs.length)) (some 0) with
      effects := d.effects ++ sharedFrames hs ++ [.putSeq p d.seq (forkedRec src.params t hs).recount], blocks := bs ++ bs' ++ d.blocks }) := by
  subst hn
  unfold forkRun
  extract_lets +onlyGivenNames w shared fail
  rw [found]
  dsimp -zeta only
  rw [if_neg (by omega), if_neg id.passes, if_neg (fun ne => ne whole)]
  extract_lets +onlyGivenNames n
  rw [if_neg, if_neg (by simp [w, room]), taken]
  · dsimp -zeta only
    extract_lets +onlyGivenNames r
    rw [lists]
    rfl
  · rw [List.any_eq_true]
    rintro ⟨h, hh, spilt⟩
    obtain ⟨x, hx, spilt⟩ := List.any_eq_true.1 spilt
    obtain ⟨early, spilt⟩ := Bool.and_eq_true_iff.1 spilt
    split at spilt
    next k b hk => exact present h hh x hx (of_decide_eq_true early) k b hk
    next => cases spilt

/-! ### FREE, FREEZE and THAW -/

theorem freeRun_of_held (found : visibleSeq (stagedView s d) p d.seq = some r) (held : r.lease = .held) :
    freeRun p d s = (s, { d.finish stDone 0 (some (r.heads.map fun h => h.entries.length).sum) (some 0) with effects := d.effects ++ [.delSeq p d.seq] }) := by
  rw [freeRun, found]
  exact if_neg (fun ne => ne held)

/-- The descriptor of a FREEZE (`frozen`) or THAW of a record that nothing refuses: it stages nothing when FROZEN has that value already (R95, R109). -/
def frozenDesc (frozen : Bool) (p : Nat) (d : Desc) (r : SeqRec) : Desc :=
  if r.frozen = frozen then d.finish stDone 0 (some 0) (some 0)
  else { d.finish stDone 0 (some 0) (some 0) with effects := d.effects ++ [.putSeq p d.seq { r.touch with frozen := frozen }] }

theorem freezeRun_of_found {frozen : Bool} (found : visibleSeq (stagedView s d) p d.seq = some r) (may : frozen = false → r.lease = .held) :
    freezeRun frozen p d s = (s, frozenDesc frozen p d r) := by
  rw [freezeRun, found]
  dsimp only
  rw [if_neg, frozenDesc]
  · exact (apply_ite (Prod.mk s) _ _ _).symm
  · rintro ⟨away, thaw⟩
    exact away (may (by simpa using thaw))

theorem frozenDesc_effects_of_same {frozen : Bool} (same : r.frozen = frozen) : (frozenDesc frozen p d r).effects = d.effects := by
  rw [frozenDesc, if_pos same]
  rfl

theorem frozenDesc_effects_of_ne {frozen : Bool} (ne : r.frozen ≠ frozen) :
    (frozenDesc frozen p d r).effects = d.effects ++ [.putSeq p d.seq { r with frozen := frozen, version := (r.version + 1) % 2 ^ 64 }] := by
  rw [frozenDesc, if_neg ne]
  rfl

/-- Whatever FROZEN was, the operation ends DONE. -/
theorem frozenDesc_done (frozen : Bool) (p : Nat) (d : Desc) (r : SeqRec) : (frozenDesc frozen p d r).phase = .finished ∧ (frozenDesc frozen p d r).status = stDone ∧
    (frozenDesc frozen p d r).detail = 0 ∧ (frozenDesc frozen p d r).res0 = some 0 ∧ (frozenDesc frozen p d r).res1 = some 0 := by
  unfold frozenDesc
  split <;> exact ⟨rfl, rfl, rfl, rfl, rfl⟩

theorem domsOn_frozenDesc {frozen : Bool} (on : domsOn s (placeDoms d.effects) = true) (onTable : domsOn s (placeDoms [.putSeq p d.seq r]) = true) :
    domsOn s (placeDoms (frozenDesc frozen p d r).effects) = true := by
  by_cases same : r.frozen = frozen
  · rw [frozenDesc_effects_of_same same, on]
  · rw [frozenDesc_effects_of_ne same, domsOn_placeDoms_append, on, Bool.true_and]
    exact onTable

/-! ### RESTORE -/

theorem restoreRun_of_no_spilled (found : visibleSeq (stagedView s d) p d.seq = some r) (unspilt : spilledPages r = []) :
    restoreRun p d s = (s, { d.finish stDone 0 (some 0) (some 0) with effects := d.effects ++ [.putSeq p d.seq r.recount.touch] }) := by
  rw [restoreRun, found]
  dsimp only
  rw [unspilt, if_pos List.isEmpty_nil, restoreEnd, found]
  dsimp only
  rw [unspilt]
  change placeDone p _ _ _ = _
  simp [placeDone, placeStatus, Desc.finish]

theorem restoreRun_of_spilled {ps : List (Nat × Nat × Nat × Nat)} (found : visibleSeq (stagedView s d) p d.seq = some r) (hps : ps = spilledPages r) (spilt : ps ≠ [])
    (serves : ∀ x ∈ ps, slotServes s p x.2.2.2 = true) :
    restoreRun p d s = ((List.range ps.length).foldl (fun s k => tierOp s d p k ((ps.getD k (0, 0, 0, 0)).2.2.2)) s,
      { d with phase := .running, walked := true, pages := ps.map fun x => { page := x.2.2.1, frame := none, spill := some x.2.2.2, route := .tier } }) := by
  subst hps
  have away : ((spilledPages r).any fun x => !slotServes s p x.2.2.2) = false := List.any_eq_false.2 fun x hx => by simp [serves x hx]
  rw [restoreRun, found]
  dsimp only
  rw [if_neg (by simp [spilt]), away, if_neg Bool.false_ne_true]

/-! ### QUERY -/

theorem queryRun_of_lengths (found : visibleSeq (stagedView s d) p d.seq = some r) (plain : bit (d.w 3) 0 = false) :
    queryRun p d s = (s, d.finish stDone 0 (some r.minLength) (some r.version)) := by
  rw [queryRun, found]
  dsimp only
  rw [plain]
  rfl

theorem queryRun_of_record {loc : Loc} (found : visibleSeq (stagedView s d) p d.seq = some r) (record : bit (d.w 3) 0 = true)
    (dest : locate s d.owner (d.w 4) (occupied s d.owner (d.w 4) 64) true = .ok loc) (open_ : writable s loc = none) :
    queryRun p d s = (writeLoc s d 4 loc (ofWords (r.record s p d.seq)), d.finish stDone 0 (some r.minLength) (some r.version)) := by
  rw [queryRun, found]
  dsimp only
  rw [record, if_neg (by simp), dest]
  dsimp only
  rw [open_]
  rfl

end

/-! ### The commands -/

section
variable (q : Nat) (i : BitVec 32) (s : State)

theorem exec_create : exec (.create q i) s = placeRun s q i 1 [maskOf 31 0, maskOf 63 39 ||| maskOf 31 24 ||| maskOf 20 0] createRun := rfl
theorem exec_append : exec (.append q i) s = placeRun s q i 2 [maskOf 57 46 ||| maskOf 39 0, maskOf 8 0] appendRun := rfl
theorem exec_truncate : exec (.truncate q i) s = placeRun s q i 3 [maskOf 31 0, maskOf 24 0] truncateRun := rfl
theorem exec_fork : exec (.fork q i) s = placeRun s q i 4 [maskOf 31 0, maskOf 31 0, maskOf 24 0] forkRun := rfl
theorem exec_placeFree : exec (.placeFree q i) s = placeRun s q i 5 [maskOf 31 0] freeRun := rfl
theorem exec_freeze : exec (.freeze q i) s = placeRun s q i 6 [maskOf 31 0] (freezeRun true) := rfl
theorem exec_thaw : exec (.thaw q i) s = placeRun s q i 7 [maskOf 31 0] (freezeRun false) := rfl
theorem exec_restore : exec (.restore q i) s = placeRun s q i 8 [maskOf 31 0] restoreRun := rfl
theorem exec_query : exec (.query q i) s = placeRun s q i 9 [maskOf 31 0, maskOf 0 0, allBits] queryRun := rfl

end

/-- Of what an APPEND stages of its own, only its record touches a stack (R488). -/
theorem domsOn_placeDoms_appendedEffects {s : State} {p layer first heads : Nat} {d : Desc} {r : SeqRec}
    (same : ((List.range heads).foldl (trimTile p layer first) (r, [])).1.headTable = r.headTable) :
    domsOn s (placeDoms (appendedEffects p layer first heads d r)) = domsOn s (placeDoms [.putSeq p d.seq r]) := by
  rw [appendedEffects, domsOn_placeDoms_append, placeDoms_of_freeBlocks fun e he => freeBlocks_of_mem_trimTile he, domsOn_nil, Bool.true_and,
    placeDoms_putSeq, placeDoms_putSeq, ← same]
  rfl

/-- What an APPEND that nothing refuses answers, as its caller sees it (R93, R96 to R99, R109). -/
theorem append_of_legal {s : State} {q : Nat} {i : BitVec 32} {p : Fin 16} {d : Desc} {r : SeqRec} {tile : Tile} {a : PlaceAcc} {tokens heads first layer : Nat}
    (station : AtPlace s q i 2 [maskOf 57 46 ||| maskOf 39 0, maskOf 8 0] p d) (legal : AppendLegal d p (stagedView s d) r tile tokens heads first layer)
    (run : (List.range heads).foldl (appendTile p d layer first tokens tile r) (.ok { base := s, s := stagedView s d, r := r }) = .ok a) (ready : a.waits = false)
    (on : domsOn s (placeDoms (d.effects ++ a.eff ++ [.putSeq p d.seq a.r])) = true) :
    ∃ u e r', exec (.append q i) s = .next (putDesc u e) ∧ e.phase = .finished ∧ e.status = (placeStatus a.causes a.promoted).1 ∧ e.detail = (placeStatus a.causes a.promoted).2 ∧
      e.res0 = some ((r.head layer first).length + tokens) ∧ e.res1 = some ((a.taken * 2 ^ 32 + a.sealed_) % 2 ^ 64) ∧ e.effects.getLast? = some (.putSeq p d.seq r') ∧
      r'.version = (r.version + 1) % 2 ^ 64 ∧ r'.params = r.params ∧ (∀ k < heads, (r'.head layer (first + k)).length = (r.head layer (first + k)).length + tokens) ∧
      (∀ l h, l < r.layers → h < r.nheads → (l ≠ layer ∨ h < first ∨ first + heads ≤ h) → r'.head l h = r.head l h) ∧ u.hbm = s.hbm := by
  have wrote : HeadsGrown layer first heads tokens r a.r := headsGrown_of_appendTile legal.few legal.sized legal.inLayers legal.inHeads run rfl
  have trimmed := headsGrown_trimTile (p := p) (wrote.sized legal.sized) (wrote.layers ▸ legal.inLayers) (wrote.nheads ▸ legal.inHeads)
  obtain ⟨params, headTable, version, count, grown, others⟩ := wrote.trans trimmed
  have positive : 0 < heads := by rw [legal.headsEq]; omega
  have length : ((appendedRec p layer first heads a.r).head layer first).length = (r.head layer first).length + tokens := grown 0 positive
  have short : (r.head layer first).length + tokens < 2 ^ 32 := (Nat.lt_of_le_of_lt (legal.short 0 positive) (by decide))
  have onAll : domsOn s (placeDoms (d.effects ++ a.eff ++ appendedEffects p layer first heads d a.r)) = true := by
    rw [domsOn_placeDoms_append] at on ⊢
    rw [domsOn_placeDoms_appendedEffects trimmed.headTable, on]
  refine ⟨_, _, appendedRec p layer first heads a.r, exec_of_atPlace (exec_append q i s) station ((appendRun_of_legal legal run ready).trans (Prod.eta _).symm) onAll,
    rfl, rfl, rfl, ?_, rfl, ?_, ?_, params, grown, others, ?_⟩
  · exact congrArg some ((Nat.mod_eq_of_lt (length ▸ short)).trans length)
  · exact List.getLast?_eq_some_iff.2 ⟨_, (List.append_assoc ..).symm⟩
  · exact congrArg (fun v => (v + 1) % 2 ^ 64) version
  · exact hbm_of_appendTile run _ _

/-- Settles O49, from what each operation makes of the state and of its descriptor, and for APPEND from the growth of the head lists that it names. -/
theorem sequenceOperations : Obligations.SequenceOperations := by
  refine ⟨?_, ?_, ?_, ?_, ?_, ?_, ?_, ?_, ?_, ?_⟩
  · rintro q i p d e r h bs w w' s station rfl rfl dim window format untaken unused unspread rows promoteRows room taken rfl on
    exact exec_of_atPlace (exec_create q i s) station (createRun_of_legal dim window format ⟨untaken, unused, unspread⟩ rows promoteRows room taken) on
  · rintro q tokens heads first layer i p d r tile a w s station rfl hn hm hf hl input positive few found sized inLayers inHeads bytes attr thawed short run ready on
    exact append_of_legal station ⟨hn, hm, hf, hl, input, positive, few, found, sized, inLayers, inHeads, bytes, attr, thawed, short⟩ run ready on
  · rintro q n i p d e r r' w s station rfl rfl found thawed held rfl rfl on
    exact ⟨exec_of_atPlace (exec_truncate q i s) station (truncateRun_of_legal found thawed held) on, fun k hk => length_truncatedRec hk⟩
  · rintro q shared i p d e src r t bs bs' hs w w' w'' s station rfl hn found positive held untaken unused unspread whole present room taken lists rfl rfl on
    exact ⟨exec_of_atPlace (exec_fork q i s) station (forkRun_of_legal hn found positive held ⟨untaken, unused, unspread⟩ whole present room taken lists) on,
      holdsFirst_of_mem_forkHeads lists⟩
  · rintro q i p d e r s station found held rfl on
    exact exec_of_atPlace (exec_placeFree q i s) station (freeRun_of_held found held) on
  · rintro q i p d r w s station rfl found on onTable
    obtain ⟨phase, status, detail, res0, res1⟩ := frozenDesc_done true p d r
    exact ⟨_, exec_of_atPlace (exec_freeze q i s) station (freezeRun_of_found found (by simp)) (domsOn_frozenDesc on onTable), phase, status, detail, res0, res1,
      frozenDesc_effects_of_same, fun thawed => frozenDesc_effects_of_ne (by simp [thawed])⟩
  · rintro q i p d r w s station rfl found held on onTable
    obtain ⟨phase, status, detail, res0, res1⟩ := frozenDesc_done false p d r
    exact ⟨_, exec_of_atPlace (exec_thaw q i s) station (freezeRun_of_found found fun _ => held) (domsOn_frozenDesc on onTable), phase, status, detail, res0, res1,
      frozenDesc_effects_of_same, fun frozen => frozenDesc_effects_of_ne (by simp [frozen])⟩
  · intro q i p d r s station found unspilt on
    exact exec_of_atPlace (exec_restore q i s) station (restoreRun_of_no_spilled found unspilt) on
  · intro q i p d r ps s station found hps spilt serves on
    exact exec_of_atPlace (exec_restore q i s) station (restoreRun_of_spilled found hps spilt serves) on
  · intro q i p d r s station found on
    exact ⟨fun plain => exec_of_atPlace (exec_query q i s) station (queryRun_of_lengths found plain) on,
      fun loc record dest open_ => exec_of_atPlace (exec_query q i s) station (queryRun_of_record found record dest open_) on⟩

end Sys2Proof.Proofs
end

section
/-!
The extents of the page store, the grant of locks and the release of a pin. An extent changes its role when nothing claims it for another descriptor (`ExtentFree`); a frame after a change of its record is what the change makes of it (`getFrame_setFrame_self`).
-/
namespace Sys2Proof.Proofs

open Sys2Proof.Machine (State exec)
open Sys2Proof.Laws (Kept kept_putDesc kept_unpinFrame)

section
variable {s w : State} {q x : Nat} {i : BitVec 32} {p : Nat} {d : Desc}

/-! ### Extents -/

/-- The extent that a descriptor names is of its partition, of a kind, and free to take a role (R78, R87, R95). -/
structure ExtentFree (w : State) (p : Nat) (d : Desc) (x : Nat) (kind : ExtKind) : Prop where
  own : ownExt w p (fld (d.w 2) 10 0) = some x
  unused : (getExt w x).use = .none
  kindEq : (getExt w x).kind = kind
  clear : (getExt w x).clearing = false
  unfenced : pchFenced w (x / 3) = false
  unclaimed : claimedElse w d x = false

theorem ExtentFree.passes {kind : ExtKind} (h : ExtentFree w p d x kind) (whole : kind ≠ .awaiting) :
    ¬((getExt w x).use ≠ .none ∨ (getExt w x).kind = .awaiting ∨ (getExt w x).clearing = true ∨ pchFenced w (x / 3) = true ∨ claimedElse w d x = true) := by
  simp [h.unused, h.kindEq, whole, h.clear, h.unfenced, h.unclaimed]

/-- CLASS of an ADD_EXTENT, and the frames of one of the sixteen bank pairs of an extent of it (R78). -/
abbrev addedClass (d : Desc) : Nat := fld (d.w 2) 15 13
abbrev addedFrames (w : State) (p : Nat) (d : Desc) : Nat := sliceFrames (classRows w p (addedClass d))

theorem addExtentRun_of_page (h : ExtentFree (stagedView s d) p d x .openRows) (page : bit (d.w 2) 12 = true)
    (room : (takeBlocks s p (ceilDiv (256 * addedFrames (stagedView s d) p d) 4096)).isSome = true) :
    addExtentRun p d s = (claimExtent s d x (some (addedClass d)), { d.finish stDone 0 (some (16 * addedFrames (stagedView s d) p d)) (some 0) with
      effects := d.effects ++ [.addExtent p x (.page (addedClass d)) (ceilDiv (256 * addedFrames (stagedView s d) p d) 4096)] }) := by
  unfold addExtentRun
  extract_lets +onlyGivenNames w page' cls fail
  rw [h.own]
  dsimp -zeta only
  extract_lets +onlyGivenNames y
  rw [if_neg (h.passes (by decide)), if_pos page, if_neg (fun ne => ne h.kindEq)]
  extract_lets +onlyGivenNames n table
  rw [if_neg]
  rw [Option.isNone_iff_eq_none]
  exact Option.isSome_iff_ne_none.1 room

theorem addExtentRun_of_control (h : ExtentFree (stagedView s d) p d x .guarded) (control : bit (d.w 2) 12 = false) :
    addExtentRun p d s = (claimExtent s d x none, { d.finish stDone 0 (some 61440) (some 0) with effects := d.effects ++ [.addExtent p x .control 0] }) := by
  unfold addExtentRun
  extract_lets +onlyGivenNames w page cls fail
  rw [h.own]
  dsimp -zeta only
  extract_lets +onlyGivenNames y
  rw [if_neg (h.passes (by decide)), if_neg (by simp [page, control]), if_neg (fun ne => ne h.kindEq)]

/-- The frames or control blocks in use of an extent of the page store (R96). -/
def UsedOf (w : State) (p x n : Nat) : Prop :=
  (∃ c, (getExt w x).use = .page c) ∧ n = framesUsed w p x ∨ (getExt w x).use = .control ∧ n = blocksUsed w p x

/-- REMOVE_EXTENT hangs on the count in use alone, once the extent is the partition's and no other descriptor claims it (R95, R96). -/
theorem removeExtentRun_of_usedOf {n : Nat} (own : ownExt (stagedView s d) p (fld (d.w 2) 10 0) = some x) (unclaimed : claimedElse (stagedView s d) d x = false)
    (count : UsedOf (stagedView s d) p x n) :
    removeExtentRun p d s = if n = 0 then (claimExtent s d x none, { d.finish stDone 0 (some 0) (some 0) with effects := d.effects ++ [.removeExtent p x] })
      else (s, d.finish stNotOwner 3 (some n)) := by
  unfold removeExtentRun
  extract_lets +onlyGivenNames w
  rw [own]
  dsimp -zeta only
  extract_lets +onlyGivenNames used
  have hu : used = some n := by
    dsimp -zeta only [used]
    rcases count with ⟨⟨c, use⟩, hn⟩ | ⟨use, hn⟩
    · rw [use, hn]
    · rw [use, hn]
  rw [unclaimed, if_neg Bool.false_ne_true, hu]
  cases n with
  | zero => rfl
  | succ n => rfl

/-! ### Locks -/

theorem sequenceLockGrant_of_waiting (hd : findDesc s q i = some d) (waiting : d.locked = false) :
    exec (.sequenceLockGrant q i) s = .next (if lockFree s d then putDesc s { d with heldLocks := d.locks } else s) := by
  change Machine.execSequenceLockGrant q i s = _
  rw [Machine.execSequenceLockGrant, hd]
  dsimp only
  rw [waiting, Bool.not_false, Bool.true_and]
  exact (apply_ite Host.Outcome.next _ _ _).symm

/-! ### Pins -/

theorem getFrame_setFrame_self (s : State) (f : FrameAddr) (r : FrameRec) : getFrame (setFrame s f r) f = r := by
  rw [getFrame, setFrame, lookup?_assign, if_pos rfl]
  rfl

/-- A RELEASED frame that loses its last pin is FREE (R102, R108). -/
theorem getFrame_unpinFrame_of_last {f : FrameAddr} (released : (getFrame s f).state = .released) (last : (getFrame s f).pins ≤ 1) :
    getFrame (unpinFrame s f) f = { getFrame s f with state := .free, pins := 0 } := by
  rw [unpinFrame, if_pos ⟨released, last⟩, getFrame_setFrame_self]

theorem getFrame_unpinFrame_of_held {f : FrameAddr} (held : (getFrame s f).state ≠ .released ∨ 1 < (getFrame s f).pins) :
    getFrame (unpinFrame s f) f = { getFrame s f with pins := (getFrame s f).pins - 1 } := by
  rw [unpinFrame, if_neg, getFrame_setFrame_self]
  rintro ⟨released, last⟩
  exact held.elim (fun h => h released) (fun h => absurd last (Nat.not_le.2 h))

theorem getFrame_putDesc (s : State) (d : Desc) (f : FrameAddr) : getFrame (putDesc s d) f = getFrame s f := rfl

/-- A descriptor that has released the pin of its page number `k` (R90). -/
abbrev releasedPin (d : Desc) (k : Nat) : Desc := { d with pages := d.pages.modify k fun w => { w with pinned := false } }

theorem pinRelease_of_done {k : Nat} {g : PageWork} {f : FrameAddr} (hd : findDesc s q i = some d) (hk : d.pages[k]? = some g) (frame : g.frame = some f)
    (pinned : g.pinned = true) (done : g.state = .done) (bank : g.route = .bank) :
    exec (.pinRelease q i k) s = .next (unpinFrame (putDesc s (releasedPin d k)) f) := by
  change Machine.execPinRelease q i k s = _
  rw [Machine.execPinRelease, hd]
  dsimp only
  rw [hk]
  dsimp only
  rw [frame]
  dsimp only
  rw [if_pos (by simp [pinned, done, bank])]

end

section
variable (q : Nat) (i : BitVec 32) (s : State)

theorem exec_addExtent : exec (.addExtent q i) s = placeRun s q i 0x10 [maskOf 15 12 ||| maskOf 10 0] addExtentRun := rfl
theorem exec_removeExtent : exec (.removeExtent q i) s = placeRun s q i 0x11 [maskOf 10 0] removeExtentRun := rfl

end

/-- Settles O50, from what ADD_EXTENT and REMOVE_EXTENT make of a free extent and of one in use, and from the frame that a reader lets go. -/
theorem extentsLocksPins : Obligations.ExtentsLocksPins := by
  refine ⟨?_, ?_, ?_, ?_, ?_⟩
  · rintro q x cls table i p d e w s station rfl rfl page own unused kind clear unfenced unclaimed rfl room rfl on
    exact exec_of_atPlace (exec_addExtent q i s) station (addExtentRun_of_page ⟨own, unused, kind, clear, unfenced, unclaimed⟩ page room) on
  · rintro q x i p d e w s station rfl control own unused kind clear unfenced unclaimed rfl on
    exact exec_of_atPlace (exec_addExtent q i s) station (addExtentRun_of_control ⟨own, unused, kind, clear, unfenced, unclaimed⟩ control) on
  · rintro q x n i p d w s station rfl own unclaimed on used
    refine ⟨?_, fun inUse => exec_of_atPlace (exec_removeExtent q i s) station ((removeExtentRun_of_usedOf own unclaimed used).trans (if_neg inUse)) on⟩
    rintro rfl
    refine exec_of_atPlace (exec_removeExtent q i s) station ((removeExtentRun_of_usedOf own unclaimed used).trans (if_pos rfl)) ?_
    rw [domsOn_placeDoms_append, on]
    rfl
  · intro q i d s hd waiting
    exact sequenceLockGrant_of_waiting hd waiting
  · intro q k i d g f s hd hk frame pinned done bank
    refine ⟨_, pinRelease_of_done hd hk frame pinned done bank, ?_, fun held => ?_, fun released last => ?_⟩
    · exact (kept_unpinFrame rfl _ f (kept_putDesc rfl s _ (Kept.refl _ s))).same
    · rw [getFrame_unpinFrame_of_held (s := putDesc s _) held]
      exact ⟨rfl, rfl⟩
    · rw [getFrame_unpinFrame_of_last (s := putDesc s _) released last]

end Sys2Proof.Proofs
end

section
/-!
CXL.mem requests. A request that nothing makes wait (`Passes`) is served at once (`memRequest_of_passes`); what it is answered then follows from where its DPA leads. The held ones, and those of opcodes that the node does not serve, are answered by definition.
-/
namespace Sys2Proof.Proofs

open Sys2Proof.Machine (State exec)
open Sys2Proof.Laws (Kept kept_emit kept_mediaEvent)

section
variable {s u : State} {p d e off : Nat} {r : MemReq} {w : Option (List Byte × List Bool × Bool)} {wr mayWrite : Bool}

/-! ### Waiting (R114, R367, R368) -/

/-- A request that leads nowhere waits for no place. -/
theorem notYet_of_no_target (hd : dpaOf (getLd s p) r.addr = some d) (target : memTarget s p (d / 64 * 64) = none) : notYet s p r wr = false := by
  rw [notYet, hd, Option.map_some, Option.bind_some, target]

/-- Nothing makes a request of an LD wait: its LD is up and below its limit, its place can be reached, and no earlier one of its direction waits (R114, R352, R368). -/
structure Passes (s : State) (p : Nat) (r : MemReq) (wr : Bool) : Prop where
  up : memUp s p = true
  below : atLimit s p wr = false
  reached : notYet s p r wr = false
  first : (getLd s p).heldReqs.any (fun x => x.2.isSome == wr) = false
  alone : s.cxl.arriving.any (fun x => x.ld == p && x.write.isSome == wr) = false

@[simp] theorem ownExt_draw (s : State) : ownExt (draw s).2 = ownExt s := rfl
@[simp] theorem getLd_draw (s : State) : getLd (draw s).2 = getLd s := rfl
@[simp] theorem getExt_draw (s : State) : getExt (draw s).2 = getExt s := rfl
@[simp] theorem getPart_draw (s : State) : getPart (draw s).2 = getPart s := rfl
@[simp] theorem writable_draw (s : State) : writable (draw s).2 = writable s := rfl
@[simp] theorem memActive_draw (s : State) : memActive (draw s).2 = memActive s := rfl
@[simp] theorem pchFenced_draw (s : State) : pchFenced (draw s).2 = pchFenced s := rfl
@[simp] theorem busyPairs_draw (s : State) : busyPairs (draw s).2 = busyPairs s := rfl
@[simp] theorem domsOn_draw (s : State) : domsOn (draw s).2 = domsOn s := rfl
@[simp] theorem regionReads_draw (s : State) : regionReads (draw s).2 = regionReads s := rfl

@[simp] theorem winMode_draw (s : State) : winMode (draw s).2 = winMode s := by
  funext p slot
  unfold winMode
  rw [ownExt_draw, getLd_draw, getExt_draw, getPart_draw]

@[simp] theorem slotExt_draw (s : State) : slotExt (draw s).2 = slotExt s := by
  funext p slot
  unfold slotExt
  rw [ownExt_draw, getLd_draw]

/-- Where a line of an LD leads hangs on no free value. -/
@[simp] theorem memTarget_draw (s : State) (p : Nat) : memTarget (draw s).2 p = memTarget s p := by
  funext dpa
  unfold memTarget
  rw [winMode_draw, slotExt_draw, getExt_draw, getPart_draw, writable_draw, memActive_draw, pchFenced_draw]

@[simp] theorem notYet_draw (s : State) (p : Nat) (r : MemReq) (wr : Bool) : notYet (draw s).2 p r wr = notYet s p r wr := by
  unfold notYet
  rw [memTarget_draw, getLd_draw, busyPairs_draw, domsOn_draw, regionReads_draw]

/-- Whether a request waits hangs neither on a free value nor on its opcode. -/
theorem Passes.drawn (h : Passes s p r wr) (opcode : MemOpcode) : Passes (draw s).2 p { r with opcode := opcode } wr :=
  ⟨h.up, h.below, (notYet_draw s p _ wr).trans h.reached, h.first, h.alone⟩

theorem memRequest_of_passes (h : Passes s p r w.isSome) (plain : ¬(r.opcode = .memSpecRd ∧ (!w.isSome) = true)) :
    memRequest s p r w = memServe s p r w := by
  rw [memRequest]
  dsimp only
  rw [if_neg (by simp [h.up]), if_neg plain]
  dsimp only
  rw [if_neg (by decide), if_neg (by simp [h.below, h.reached, h.first, h.alone])]

theorem memRequest_of_speculative (h : Passes s p r false) (spec : r.opcode = .memSpecRd) :
    memRequest s p r none = if Config.free s.free % 2 = 1 then (draw s).2 else memServe (draw s).2 p r none := by
  have h' := h.drawn r.opcode
  rw [memRequest]
  dsimp only
  rw [if_neg (by simp [h.up]), if_pos (show r.opcode = .memSpecRd ∧ (!Option.isSome none) = true by simp [spec])]
  refine ite_congr rfl (fun _ => rfl) fun _ => ?_
  exact if_neg (by simp only [Option.isSome_none, h'.below, h'.reached, h'.first, h'.alone, Bool.or_self, Bool.false_eq_true, not_false_eq_true])

/-- Waking the stack of a request changes the power state only (R488). -/
theorem exists_wakeFor_eq (s : State) (p : Nat) (r : MemReq) : ∃ x, wakeFor s p r = { s with power := x } := by
  unfold wakeFor
  split
  · split
    · exact ⟨_, rfl⟩
    · unfold startWake
      dsimp only
      split
      · exact ⟨_, rfl⟩
      · exact ⟨_, rfl⟩
  · exact ⟨_, rfl⟩

theorem queueFree_wakeFor (s : State) (p : Nat) (r : MemReq) (wr : Bool) : queueFree (wakeFor s p r) p wr = queueFree s p wr := by
  obtain ⟨x, hx⟩ := exists_wakeFor_eq s p r
  rw [hx]
  rfl

theorem cxl_wakeFor (s : State) (p : Nat) (r : MemReq) : (wakeFor s p r).cxl = s.cxl := by
  obtain ⟨x, hx⟩ := exists_wakeFor_eq s p r
  rw [hx]

theorem memRequest_of_notYet (up : memUp s p = true) (plain : ¬(r.opcode = .memSpecRd ∧ (!w.isSome) = true)) (away : notYet s p r w.isSome = true)
    (entry : queueFree s p w.isSome = true) (alone : (s.cxl.arriving.any fun x => x.ld == p) = false) :
    memRequest s p r w = markFull (modLd (wakeFor s p r) p fun l => { l with heldReqs := l.heldReqs ++ [(r, w)] }) p := by
  rw [memRequest]
  dsimp only
  rw [if_neg (by simp [up]), if_neg plain]
  dsimp only
  rw [if_neg (by decide), if_pos (by simp [away]), if_pos (by rw [queueFree_wakeFor, cxl_wakeFor, entry, alone]; rfl)]

/-! ### Reads (R359, R360) -/

/-- A request that asks for no data. -/
abbrev Dataless (r : MemReq) : Prop := r.opcode = .memInv ∨ r.opcode = .memInvNT

theorem memRead_of_dataless (h : Dataless r) : memRead s p r = emit s (.memDone p r.addr (devLoad s p false)) := if_pos h

theorem memRead_of_target (data : ¬Dataless r) (sound : r.uncorrectable = false) (hd : dpaOf (getLd s p) r.addr = some d)
    (target : memTarget s p (d / 64 * 64) = some (e, off, mayWrite))
    (served : regionReads s e off 64 ≠ .refused) (on : domsOn s [84 + e / 96] = true) (hu : u = countMem (atWork s [84 + e / 96]) p false)
    (clean : hbmPoisoned u e off 64 = false) :
    memRead s p r = emit u (.memData p r.addr (Memory.readBytes u.hbm (hbmAddr e off) 64) false (devLoad u p false)) := by
  rw [memRead]
  dsimp only
  rw [if_neg data, hd, Option.map_some, Option.bind_some, target]
  dsimp only
  rw [if_neg served, withDoms_of_domsOn on]
  rw [← hu, clean, sound]
  rfl

/-- A read that is served does not depend on whether it is speculative (R360). -/
theorem memRead_of_speculative (spec : r.opcode = .memSpecRd) : memRead s p r = memRead s p { r with opcode := .memRd } := by
  unfold memRead
  rw [if_neg (by simp [spec]), if_neg (by simp)]

/-! ### Writes (R359, R365, R366) -/

/-- The bytes of a line after a write of some of its bytes. -/
def merged (old data : List Byte) (mask : List Bool) : List Byte := old.mapIdx fun k b => if mask.getD k false then data.getD k 0#8 else b

theorem memWrite_of_target {data : List Byte} {mask : List Bool} (hd : dpaOf (getLd s p) r.addr = some d) (target : memTarget s p (d / 64 * 64) = some (e, off, true)) (on : domsOn s [84 + e / 96] = true)
    (hu : u = countMem (atWork s [84 + e / 96]) p true) (whole : ((List.range 64).all fun k => mask.getD k false) = true) :
    memWrite s p r.addr data mask false =
      emit (writeHbm u e off (merged (Memory.readBytes u.hbm (hbmAddr e off) 64) data mask)) (.memDone p r.addr
        (devLoad (writeHbm u e off (merged (Memory.readBytes u.hbm (hbmAddr e off) 64) data mask)) p true)) := by
  rw [memWrite, hd]
  dsimp only [Option.map_some, Option.bind_some]
  rw [target]
  dsimp only
  rw [withDoms_of_domsOn on]
  rw [← hu, if_neg Bool.false_ne_true, if_pos ⟨whole, rfl⟩]
  rfl

theorem memWrite_of_no_target {data : List Byte} {mask : List Bool} {poison : Bool} (hd : dpaOf (getLd s p) r.addr = some d)
    (target : memTarget s p (d / 64 * 64) = none) : memWrite s p r.addr data mask poison = dropWrite s p (d / 64 * 64) := by
  rw [memWrite, hd]
  dsimp only [Option.map_some, Option.bind_some]
  rw [target]
  rfl

end

/-! ### The commands -/

section
variable {s : State} {ld : Fin 16}

theorem exec_cxlMemRead (ld : Fin 16) (r : MemReq) (s : State) : exec (.cxlMemRead ld r) s = .next (memRequest s ld.val r none) := rfl

theorem exec_cxlMemWrite (ld : Fin 16) (r : MemReq) (data : List Byte) (mask : List Bool) (poison : Bool) (s : State) :
    exec (.cxlMemWrite ld r data mask poison) s = .next (memRequest s ld.val r (some (data, mask, poison))) := rfl

theorem cxlMemRead_of_passes {r : MemReq} (h : Passes s ld.val r false) (plain : r.opcode ≠ .memSpecRd) :
    exec (.cxlMemRead ld r) s = .next (memRead s ld.val r) := by
  rw [exec_cxlMemRead, memRequest_of_passes h fun spec => plain spec.1]
  rfl

theorem cxlMemWrite_of_passes {r : MemReq} (h : Passes s ld.val r true) (data : List Byte) (mask : List Bool) (poison : Bool) :
    exec (.cxlMemWrite ld r data mask poison) s = .next (memWrite s ld.val r.addr data mask poison) := by
  rw [exec_cxlMemWrite, memRequest_of_passes (w := some (data, mask, poison)) h fun spec => Bool.false_ne_true spec.2]
  rfl

theorem cxlMemRead_of_speculative {r : MemReq} (h : Passes s ld.val r false) (spec : r.opcode = .memSpecRd) :
    exec (.cxlMemRead ld r) s = if Config.free s.free % 2 = 1 then .next (draw s).2 else exec (.cxlMemRead ld { r with opcode := .memRd }) (draw s).2 := by
  have h' : Passes (draw s).2 ld.val { r with opcode := .memRd } false := h.drawn _
  rw [exec_cxlMemRead, memRequest_of_speculative h spec, cxlMemRead_of_passes h' (by simp), ← memRead_of_speculative spec]
  exact apply_ite Host.Outcome.next ..

theorem cxlMemOtherOpcode_of_write (up : memUp s ld.val = true) (a : Nat) :
    exec (.cxlMemOtherOpcode ld a true) s = .next (dropWrite s ld.val ((dpaOf (getLd s ld.val) a).getD a)) := by
  change Machine.execCxlMemOtherOpcode ld a true s = _
  rw [Machine.execCxlMemOtherOpcode]
  rw [if_neg (by simp [up]), if_pos rfl]

theorem cxlMemOtherOpcode_of_read (up : memUp s ld.val = true) (a : Nat) :
    exec (.cxlMemOtherOpcode ld a false) s = .next (emit (mediaEvent s ld.val false ((dpaOf (getLd s ld.val) a).getD a))
      (.memData ld.val a (List.replicate 64 0#8) true (devLoad s ld.val false))) := by
  change Machine.execCxlMemOtherOpcode ld a false s = _
  rw [Machine.execCxlMemOtherOpcode]
  rw [if_neg (by simp [up]), if_neg Bool.false_ne_true]

theorem ldRateRelease_of_held (up : memUp s ld.val = true) (held : (getLd s ld.val).heldReqs ≠ []) (t : Nat) :
    exec (.ldRateRelease ld t) s = .next (releaseLd (atTime s t) ld.val) :=
  if_neg (by simp [up, held])

end

/-- Settles O33, from what a request that nothing makes wait is answered, and from where one that has to wait is kept. -/
theorem memRequests : Obligations.MemRequests := by
  refine ⟨?_, ?_, ?_, ?_, ?_, ?_, ?_, ?_, ?_⟩
  · intro ld r d e off w u s up read sound below reached first alone hd target served on hu clean
    rw [cxlMemRead_of_passes ⟨up, below, reached, first, alone⟩ (by rcases read with h | h <;> simp [h]),
      memRead_of_target (by rcases read with h | h <;> simp [Dataless, h]) sound hd target served on hu clean]
  · intro ld r s up dataless below reached first alone
    rw [cxlMemRead_of_passes ⟨up, below, reached, first, alone⟩ (by rcases dataless with h | h <;> simp [h]), memRead_of_dataless dataless]
  · intro ld r s up spec below reached first alone
    exact cxlMemRead_of_speculative ⟨up, below, reached, first, alone⟩ spec
  · rintro ld r d e off data mask u v s up below reached first alone hd target on hu whole rfl
    rw [cxlMemWrite_of_passes ⟨up, below, reached, first, alone⟩, memWrite_of_target hd target on hu whole]
    rfl
  · intro ld r d data mask poison s up below first alone hd target
    have reached : notYet s ld.val r true = false := notYet_of_no_target hd target
    rw [cxlMemWrite_of_passes ⟨up, below, reached, first, alone⟩, memWrite_of_no_target hd target]
  · intro ld r s up plain away entry alone
    rw [exec_cxlMemRead, memRequest_of_notYet (w := none) up (fun spec => plain spec.1) away entry alone]
  · intro ld a s up
    exact cxlMemOtherOpcode_of_write up a
  · intro ld a s up
    exact ⟨_, _, cxlMemOtherOpcode_of_read up a, (kept_emit rfl _ _ (kept_mediaEvent rfl s _ _ _ (Kept.refl _ s))).same, rfl⟩
  · intro ld t s up held
    exact ldRateRelease_of_held up held t

end Sys2Proof.Proofs
end

section
/-!
Descriptors and bank units as operations leave them: a descriptor that is put back is found (`findDesc_putDesc`), and a unit after a change of it is what the change makes of it (`getUnit_modUnit_self`).
-/
namespace Sys2Proof.Proofs

open Sys2Proof.Machine (State exec)

section
variable {s : State} {q : Nat} {i : BitVec 32} {d d' : Desc}

theorem ctx_eq_of_findDesc (h : findDesc s q i = some d) : d.ctx = q ∧ d.index = i := by
  simpa using List.find?_some h

/-- A descriptor that is put back in its place is found there. -/
theorem findDesc_putDesc (h : findDesc s q i = some d) (ctx : d'.ctx = d.ctx) (index : d'.index = d.index) : findDesc (putDesc s d') q i = some d' := by
  obtain ⟨hq, hi⟩ := ctx_eq_of_findDesc h
  have same : d'.ctx = q ∧ d'.index = i := ⟨ctx.trans hq, index.trans hi⟩
  have named : ((fun x : Desc => decide (x.ctx = q ∧ x.index = i)) ∘ fun x => if x.ctx = d'.ctx ∧ x.index = d'.index then d' else x) =
      fun x => decide (x.ctx = q ∧ x.index = i) := by
    funext x
    rw [same.1, same.2, Function.comp_apply]
    split
    next hx => simp [same, hx]
    next => rfl
  rw [findDesc] at h
  rw [findDesc, putDesc, List.find?_map, named, h, Option.map_some, if_pos ⟨ctx.symm, index.symm⟩]

end

section
variable {s t : State} {k : Nat}

theorem getUnit_modUnit_self (s : State) (k : Nat) (f : UnitS → UnitS) : getUnit (modUnit s k f) k = f (getUnit s k) := by
  rw [getUnit, modUnit, lookup?_assign, if_pos rfl, Option.getD_some]

theorem getUnit_putDesc (s : State) (d : Desc) (k : Nat) : getUnit (putDesc s d) k = getUnit s k := rfl

theorem getUnit_congr (h : t.units = s.units) (k : Nat) : getUnit t k = getUnit s k := by rw [getUnit, h, getUnit]

end

end Sys2Proof.Proofs
end

section
/-!
ATTEND at its station, its hub folds and its progress records. A legal ATTEND holds its folded query (`foldedQuery`) and waits for its walk.
-/
namespace Sys2Proof.Proofs

open Sys2Proof.Machine (State exec)

section
variable {s u v : State} {q h t : Nat} {i : BitVec 32} {p : Fin 16} {d e : Desc} {r : SeqRec} {tb : Option ScaleTable} {tile : Tile}

/-- The bytes of the partials that an ATTEND writes at its output (R119, R120). -/
abbrev attendSize (s : State) (d : Desc) (r : SeqRec) : Nat := hubCount s * (attendReqOf d).qcount * partialBytes r.dim (bit (d.w 2) 56)

/-- An ATTEND that nothing refuses: its body, its sequence, its scale table, its query tile and its places are legal (R118 to R120, R133). -/
structure AttendLegal (s : State) (p : Fin 16) (d : Desc) (r : SeqRec) (tb : Option ScaleTable) (tile : Tile) : Prop where
  body : bodyOk d.cur [maskOf 56 48 ||| maskOf 45 0, maskOf 56 32 ||| maskOf 24 0, maskOf 63 32 ||| maskOf 24 0, allBits, allBits, maskOf 63 56 ||| maskOf 15 0] = true
  softmax : scaleLegal (fld (d.w 4) 63 32) = true
  chained : d.chainIn = true
  grouped : (attendReqOf d).qcount % (attendReqOf d).group = 0
  found : visibleSeq s p (attendReqOf d).seq = some r
  whole : seqLost s p r = false
  inLayers : (attendReqOf d).layer < r.layers
  inHeads : (attendReqOf d).head < r.nheads
  table : scaleOf d (fld (d.w 7) 63 56) (attendReqOf d).layer ((attendReqOf d).head + 1) r.dimCode = .ok tb
  size : inputSize d = (attendReqOf d).qcount * r.dim * (if bit (d.w 2) 55 then 4 else 2)
  fits : attendSize s d r ≤ 65536
  readable : r.format ≠ 0x30
  output : outProblem s d 5 (attendSize s d r) = none
  progress : outProblem s d 6 32 = none
  input : d.input = some tile
  sound : tile.poison = false

/-- The query that an ATTEND holds while it runs (R122). -/
abbrev foldedQuery (d : Desc) (r : SeqRec) (tb : Option ScaleTable) (tile : Tile) : List Byte :=
  heldQuery (foldQuery32 (if bit (d.w 2) 55 then fp32 else bf16) (if bit (d.w 2) 55 then 4 else 2) r.dim (attendReqOf d).qcount (fld (d.w 4) 63 32)
    (headScales tb (attendReqOf d).layer (attendReqOf d).head r.dim).1 tile.bytes)

theorem attendRun_of_legal (ho : d.owner = .part p) (legal : AttendLegal s p d r tb tile) :
    attendRun d s = putDesc s { d with phase := .running, detail := 0, dim := r.dim, fmt := r.format, held := foldedQuery d r tb tile } := by
  obtain ⟨body, softmax, chained, grouped, found, whole, inLayers, inHeads, table, size, fits, readable, output, progress, input, sound⟩ := legal
  rw [attendRun]
  dsimp only
  rw [ho]
  dsimp only
  rw [if_neg (by simp [body, softmax]), if_neg (by simp [chained, grouped]), found]
  dsimp only
  rw [if_neg (by simp [whole]), if_neg (by omega), table]
  dsimp only
  rw [if_neg (by simp [size]), if_neg (Nat.not_lt.2 fits), if_neg readable]
  rw [outProblem, ho] at output progress
  split
  next out => cases output.symm.trans out
  next out _ => cases progress.symm.trans out
  next missing _ _ => cases input.symm.trans missing
  next there =>
    cases input.symm.trans there
    rw [if_neg (by simp [sound])]

theorem attend_of_legal (hd : stationDesc s q i 0x03 1 = some d) (active : memActive s = true) (locked : d.locked = true) (ho : d.owner = .part p)
    (legal : AttendLegal s p d r tb tile) :
    exec (.attend q i) s = .next (putDesc s { d with phase := .running, detail := 0, dim := r.dim, fmt := r.format, held := foldedQuery d r tb tile }) := by
  change Machine.execAttend q i s = _
  rw [Machine.execAttend, hd]
  dsimp only
  rw [if_pos (by simp [active, locked]), attendRun_of_legal ho legal]

/-! ### The hub fold (R127) -/

/-- A hub folds for a descriptor now: it is running and walked, and all its pages of the hub are done. -/
structure HubReady (s : State) (d : Desc) (h : Nat) : Prop where
  running : d.phase = .running
  opcode : d.opcode = 0x03
  walked : d.walked = true
  there : h < hubCount s
  first : d.hubsDone.contains h = false
  done : d.pages.all (fun w => w.hub != h || w.state == .done) = true

theorem hubFold_of_ready {ps : List Partial} {f : Desc} (hd : findDesc s q i = some d) (ready : HubReady s d h) (hu : u = gatherUnits s d h)
    (he : findDesc u q i = some e) (hps : (ps, v) = hubFold e h 0 (attendReqOf e).qcount u)
    (hf : f = { e with hubsDone := h :: e.hubsDone, hubParts := e.hubParts ++ [(h, ps)] }) :
    exec (.hubFold q i h) s = .next (if f.hubsDone.length = hubCount v then finishAttend (putDesc v f) f else putDesc v f) := by
  obtain ⟨running, opcode, walked, there, first, done⟩ := ready
  change Machine.execHubFold q i h s = _
  rw [Machine.execHubFold, hd]
  dsimp only
  rw [if_pos (by simp only [running, opcode, walked, there, first, done]; rfl), ← hu, he, Option.getD_some, ← hps]
  dsimp only
  rw [hf]
  exact (apply_ite Host.Outcome.next ..).symm

/-! ### Progress records (R134) -/

theorem progressRecord_of_due (hd : findDesc s q i = some d) (opcode : d.opcode = 0x03) (subop : d.subop = 1) (open_ : d.phase ≠ .finished)
    (place : d.w 6 ≠ 0#64) (period : 0 < fld (d.w 7) 15 0) (due : d.time + (d.progressCount + 1) * (1000 * fld (d.w 7) 15 0) ≤ t) :
    exec (.progressRecord q i t) s = .next (putDesc (progressRecord (atTime s t) d false) { d with progressCount := d.progressCount + 1 }) := by
  change Machine.execProgressRecord q i t s = _
  rw [Machine.execProgressRecord, hd]
  dsimp only
  have counts : 1000 * fld (d.w 7) 15 0 ≠ 0 := by omega
  rw [if_pos (by simp [opcode, subop, open_, place, counts, due])]

end
end Sys2Proof.Proofs
end

section
/-!
The walk of a sweep. When every page stays in its bank, the walk emits its pages and takes a pin for each (`walkRun_of_banks`), and nothing else of the state changes.
-/
namespace Sys2Proof.Proofs

open Sys2Proof.Machine (State exec)
open Sys2Proof.Laws (Kept foldl_kept kept_takePins)

section
variable {s u v : State} {q t : Nat} {i : BitVec 32} {p : Fin 16} {d : Desc} {r : SeqRec} {xs : List (Nat × Entry)} {pages : List PageWork}

/-- A walk has its turn: its descriptor waits for it, HBM is in service, and no earlier one of its owner waits (R136, R412). -/
structure WalkDue (s : State) (q : Nat) (i : BitVec 32) (p : Fin 16) (d : Desc) : Prop where
  found : findDesc s q i = some d
  owner : d.owner = .part p
  wants : d.wantsWalk = true
  active : memActive s = true
  first : ((s.flight.takeWhile fun x => !(x.ctx == q && x.index == i)).any fun x => x.owner == d.owner && x.wantsWalk) = false

theorem walkStart_of_due (due : WalkDue s q i p d) (t : Nat) : exec (.walkStart q i t) s = .next (walkFrom p d (atTime s t)) := by
  obtain ⟨found, owner, wants, active, first⟩ := due
  rw [owner] at first
  change Machine.execWalkStart q i t s = _
  rw [Machine.execWalkStart, found]
  dsimp only
  rw [owner]
  dsimp only
  rw [if_pos (by simp only [wants, first, active]; rfl)]

/-- The pages that the walk of a sweep emits (R89, R129). -/
abbrev sweepPages (s : State) (xs : List (Nat × Entry)) : List PageWork := xs.mapIdx fun _ y => pageWork s 0 y.1 y.2 true none

theorem spill_of_bank {s : State} {entry page : Nat} {x : Entry} {sweep : Bool} {core : Option Nat} (bank : (pageWork s entry page x sweep core).route = .bank) :
    (pageWork s entry page x sweep core).spill = none := by
  cases x with
  | frame f pr => rfl
  | spilled k g => cases bank

theorem spill_of_mem_sweepPages (banks : (sweepPages s xs).all (fun w => w.route == .bank) = true) {w : PageWork} (hw : w ∈ sweepPages s xs) : w.spill = none := by
  obtain ⟨j, hj, rfl⟩ := List.mem_mapIdx.1 hw
  exact spill_of_bank (by simpa using List.all_eq_true.1 banks _ hw)

/-- A walk of an ATTEND that nothing stops: its sequence is there with all the pages that it covers, no pin count would overflow, no page is gone and every page stays in its bank (R89, R129, R518). -/
structure WalkInBanks (s : State) (p : Fin 16) (d : Desc) (r : SeqRec) (xs : List (Nat × Entry)) : Prop where
  opcode : d.opcode = 0x03
  found : getSeq s p (attendReqOf d).seq = some r
  covered : walkPages r (attendReqOf d) = some xs
  room : pinsFull s xs = false
  there : xs.all (fun y => !entryGone s y.2) = true
  banks : (sweepPages s xs).all (fun w => w.route == .bank) = true

/-- A sweep whose walk has run. -/
abbrev walkedDesc (d : Desc) (r : SeqRec) (pages : List PageWork) : Desc :=
  { d.dropShared with walked := true, pages := pages
                      ranges := [(if (attendReqOf d).last = 0 then (r.head (attendReqOf d).layer (attendReqOf d).head).length else (attendReqOf d).last,
                        (r.head (attendReqOf d).layer (attendReqOf d).head).length)]
                      cores := [] }

/-- A sweep all of whose pages stay in their banks needs no core (R129). -/
theorem shortOf_of_banks (opcode : d.opcode = 0x03) (banks : d.pages.filter (fun w => w.route != .bank) = []) : d.shortOf s = false := by
  rw [Desc.shortOf, if_pos opcode, banks]
  simp

theorem walkRun_of_banks (h : WalkInBanks s p d r xs) :
    walkRun p d s = takePins (putDesc s (walkedDesc d r (sweepPages s xs))) (sweepPages s xs) := by
  obtain ⟨opcode, found, covered, room, there, banks⟩ := h
  have reqs : attnReqs d = [attendReqOf d] := if_pos opcode
  rw [walkRun]
  extract_lets ws cs ns byEntry emitted gone ends src d1 unpinned exact need det d2 s1 s2
  have sweeps : (d.opcode == 0x03) = true := by simp [opcode]
  have walks : ws = [(xs, if (attendReqOf d).last = 0 then (r.head (attendReqOf d).layer (attendReqOf d).head).length else (attendReqOf d).last,
      (r.head (attendReqOf d).layer (attendReqOf d).head).length)] := by
    simp [ws, reqs, found, covered]
  have pages : emitted = sweepPages s xs := by simp [emitted, walks, sweeps]
  have unlost : gone = none := by simpa [gone, walks] using there
  have none_exact : exact = [] := by simpa [exact, pages] using banks
  have needless : need = none := by simp [need, sweeps, none_exact]
  have plain : det = 0 := by
    have cores : d1.shortOf s = false := shortOf_of_banks opcode none_exact
    simp [det, none_exact, cores]
  have same : d2 = walkedDesc d r (sweepPages s xs) := by
    simp only [d2, plain, Nat.or_zero, d1, src, pages, ends, walks, cs, sweeps, if_true, List.map_cons, List.map_nil]
  have unspilled : s2 = s1 := by
    refine foldl_kept (P := (· = s1)) rfl fun x k hx => ?_
    split
    next slot hslot =>
      obtain ⟨w, hw, spilled⟩ := Option.bind_eq_some_iff.1 hslot
      rw [spill_of_mem_sweepPages banks (pages ▸ List.mem_of_getElem? hw)] at spilled
      cases spilled
    next => exact hx
  split
  next k missing => simp [reqs, found, covered] at missing
  next =>
    rw [if_neg (by simp [walks, room]), unlost, needless, ite_self, none_exact]
    dsimp only [List.find?_nil]
    rw [if_neg (by simp [sweeps]), unspilled]
    simp only [s1, same, pages]

/-- The state once the walks that have ended have given back their places (R412). -/
abbrev placesFreed (s : State) : State := { s with turns := { s.turns with walks := s.turns.walks.filter fun w => decide (s.time < w.2) } }

/-- The state in which a walk that has taken a place runs; how long it holds the place is a free value (log entry 13). -/
abbrev placeTaken (u : State) (taken : List Nat) : State := { (draw u).2 with turns := { u.turns with walk := taken } }

theorem walkFrom_of_place {k : Nat} {w : State} {e : Desc} {taken : List Nat} (hu : u = placesFreed s) (place : takePlace u k = some taken)
    (run : walkRun k d (placeTaken u taken) = w) (walked : findDesc w d.ctx d.index = some e) :
    walkFrom k d s = { w with turns := { w.turns with walks := w.turns.walks ++ [(k, u.time + Config.free u.free % (1000 * ceilDiv e.pages.length 1024 + 1))] } } := by
  have held : ((findDesc w d.ctx d.index).map (·.pages.length)).getD 0 = e.pages.length := by
    rw [walked]
    rfl
  subst hu run
  rw [walkFrom, ← held]
  dsimp only
  rw [place]
  rfl

/-- What decides where the walk of a sweep goes hangs neither on a free value nor on the turns. -/
theorem WalkInBanks.of_placeTaken (h : WalkInBanks u p d r xs) (taken : List Nat) : WalkInBanks (placeTaken u taken) p d r xs :=
  ⟨h.opcode, h.found, h.covered, h.room, h.there, h.banks⟩

/-- The state in which the walk of a sweep has run at the place that it has taken. -/
abbrev sweepWalked (u : State) (taken : List Nat) (d : Desc) (r : SeqRec) (xs : List (Nat × Entry)) : State :=
  takePins (putDesc (placeTaken u taken) (walkedDesc d r (sweepPages u xs))) (sweepPages u xs)

theorem walkStart_of_banks {taken : List Nat} (due : WalkDue s q i p d) (hu : u = placesFreed (atTime s t)) (place : takePlace u p = some taken) (h : WalkInBanks u p d r xs) :
    ∃ n, n ≤ 1000 * ceilDiv (sweepPages u xs).length 1024 ∧ exec (.walkStart q i t) s =
      .next { sweepWalked u taken d r xs with turns := { u.turns with walk := taken, walks := u.turns.walks ++ [(p.val, u.time + n)] } } := by
  have flies : findDesc (placeTaken u taken) d.ctx d.index = some d := by
    obtain ⟨ctx, index⟩ := ctx_eq_of_findDesc due.found
    rw [ctx, index, hu]
    exact due.found
  have run : walkRun p d (placeTaken u taken) = sweepWalked u taken d r xs := walkRun_of_banks (h.of_placeTaken taken)
  have pinned : Kept (partSet [.frames]) (putDesc (placeTaken u taken) (walkedDesc d r (sweepPages u xs))) (sweepWalked u taken d r xs) :=
    kept_takePins rfl _ _ (Kept.refl _ _)
  have walked : findDesc (sweepWalked u taken d r xs) d.ctx d.index = some (walkedDesc d r (sweepPages u xs)) := by
    rw [findDesc, pinned.same .flight rfl]
    exact findDesc_putDesc flies rfl rfl
  refine ⟨_, Nat.lt_succ_iff.1 (Nat.mod_lt (Config.free u.free) (Nat.succ_pos _)), ?_⟩
  rw [walkStart_of_due due, walkFrom_of_place hu place run walked, pinned.same .turns rfl]
  rfl

end
end Sys2Proof.Proofs
end

section
/-!
Chunks. An idle unit takes the page-passes that fit a chunk of the descriptor next in turn, when the stack's part of the cap and the owner's share allow their bytes (R113, R116, R411). At the boundary that ends it the unit is idle and held requests of hosts are served (`boundaryState`); a chunk without a bad page then gives its passes to the unit's accumulators and its time to its descriptor.
-/
namespace Sys2Proof.Proofs

open Sys2Proof.Machine (State exec)
open Sys2Proof.Laws (Kept snd_of kept_accumulate kept_draw kept_modUnit kept_putDesc)

section
variable {s u w : State} {k t cycles : Nat} {c : Chunk} {p : Fin 16} {d d' : Desc} {ps : List (Nat × Nat)}

/-! ### Its start -/

/-- A unit may start a chunk: it is idle and not fenced, nothing pauses its stack, and no ordinary access goes first (R114, R502, R517). -/
structure UnitIdle (s : State) (k t : Nat) : Prop where
  idle : (getUnit s k).chunk = none
  open_ : (getUnit s k).fenced = false
  whole : pchFenced s (k / 16) = false
  issues : s.power.stackPaused.getD (k / 512) false = false
  there : k < 10240
  first : accessFirst s k t = false

/-- The pages of a descriptor that wait on a unit. -/
def pagesOnUnit (d : Desc) (k : Nat) : List Nat := (List.range d.pages.length).filter fun j => match d.pages[j]? with
  | some w => w.route == .bank && w.unit == k && w.state == .queued
  | none => false

/-- The page-passes of those pages that are still to be run, in order. -/
abbrev passesOnUnit (d : Desc) (k : Nat) : List (Nat × Nat) :=
  (pagesOnUnit d k).flatMap fun j => ((List.range (passesOf d)).filter fun x => decide (((d.pages[j]?).map (·.passes)).getD 0 ≤ x)).map fun x => (j, x)

/-- The bytes that a chunk reads fit its stack's part of the sweep cap and its owner's share (R116, R411). -/
structure ChunkFits (w : State) (k p bytes : Nat) : Prop where
  stack : usedOf w.sweepUsed (100 + k / 512) + bytes ≤ (caps w).1 * w.power.stackLevel.getD (k / 512) 100 / 100
  share : shareOk w ((caps w).1 * ((List.range 20).filter (stackFitted w)).length) (fun p => (getPart w p).sweepCeil) (w.sweepUsed.filter fun e => decide (e.1 < 17))
    (ownersWith w fun x => x.opcode == 0x03 && x.phase == .running && x.pages.any fun w => w.route == .bank && w.state == .queued) p bytes = true

/-- The state in which a unit runs a chunk. -/
abbrev chunkRunning (w : State) (k p bytes cycles : Nat) (d : Desc) (ps : List (Nat × Nat)) : State :=
  modUnit { takeUp (putDesc w d) k d with sweepUsed := assign (assign w.sweepUsed (100 + k / 512) (usedOf w.sweepUsed (100 + k / 512) + bytes)) p (usedOf w.sweepUsed p + bytes) } k
    fun x => { x with chunk := some { ctx := d.ctx, index := d.index, work := groupWork ps, ns := cycles * 8 / 5 }, snapshot := x.acc, queue := []
                      table := if narrow d.fmt = true then (ps.map (·.2)).foldl (fun a n => some (max n (a.getD 0))) none else none }

theorem chunkStart_of_fits (ready : UnitIdle s k t) (next : nextOnUnit s k = some d) (ho : d.owner = .part p) (on : domsOn (atTime s t) [84 + k / 512, 104 + k / 512] = true)
    (hw : w = sweepWindowAt (atWork (atTime s t) [84 + k / 512, 104 + k / 512]))
    (open_ : ∀ j ∈ pagesOnUnit d k, ∀ x f, d.pages[j]? = some x → x.frame = some f → (getExt w f.ext).kind = .openRows)
    (fill : (cycles, ps) = fillChunk d d.fmt d.dim 0 [] [] (passesOnUnit d k)) (fits : ChunkFits w k p.val (ps.length * pageBytes d.fmt d.dim))
    (hd : d' = { d with pages := d.pages.mapIdx fun j w => if (groupWork ps).any (fun x => x.1 == j) then { w with state := .reading } else w }) :
    exec (.chunkStart k t) s = .next (chunkRunning w k p.val (ps.length * pageBytes d.fmt d.dim) cycles d' ps) := by
  obtain ⟨idle, unfenced, whole, issues, there, first⟩ := ready
  obtain rfl : cycles = (fillChunk d d.fmt d.dim 0 [] [] (passesOnUnit d k)).1 := congrArg Prod.fst fill
  obtain rfl : ps = (fillChunk d d.fmt d.dim 0 [] [] (passesOnUnit d k)).2 := congrArg Prod.snd fill
  subst hd
  change Machine.execChunkStart k t s = _
  rw [Machine.execChunkStart]
  dsimp only
  rw [if_neg (by simp only [idle, unfenced, whole, issues, first, ge_iff_le, Nat.not_le.2 there, decide_false, Option.isSome_none, Bool.or_self, Bool.false_eq_true, not_false_eq_true]), next]
  dsimp only
  rw [ho]
  dsimp only
  rw [withDoms_of_domsOn on, ← hw, if_neg]
  · refine congrArg Host.Outcome.next (if_neg (not_or.2 ⟨Nat.not_lt.2 fits.stack, fun more => Bool.false_ne_true ((congrArg (!·) fits.share).symm.trans more)⟩))
  · intro guarded
    obtain ⟨j, hj, bad⟩ := List.any_eq_true.1 guarded
    split at bad
    next f hf =>
      obtain ⟨x, hx, frame⟩ := Option.bind_eq_some_iff.1 hf
      simp [open_ j hj x f hx frame] at bad
    next => cases bad

/-! ### Its end (R110, R114, R115, R125, R133) -/

/-- The state in which a unit has come to its boundary: the requests of hosts that waited for it are served. -/
abbrev boundaryState (s : State) (k t : Nat) (c : Chunk) : State :=
  releaseAll (modUnit (atTime s t) k fun x => { x with chunk := none, last := some (c.ctx, c.index), postponed := 0, boundary := (atTime s t).time + if (getUnit s k).postponed = 0 then 0 else 80 })

theorem boundaryState_eq (s : State) (k t : Nat) (c : Chunk) :
    (releaseAll (modUnit (atTime s t) k fun x => { x with chunk := none, last := some (c.ctx, c.index), postponed := 0, boundary := (atTime s t).time + if decide ((getUnit (atTime s t) k).postponed ≠ 0) = true then 80 else 0 })) =
      boundaryState s k t c := by
  simp only [boundaryState, decide_eq_true_eq, ne_eq, ite_not]
  rfl

theorem releaseAll_of_no_held (h : ∀ o, (getLd s o).heldReqs = []) : releaseAll s = s := by
  rw [releaseAll, List.filter_eq_nil_iff.2 (by simp [h]), List.foldl_nil]

/-- No page of a chunk is bad (R130 to R132). -/
def PagesSound (u : State) (p : Fin 16) (d : Desc) (c : Chunk) : Prop :=
  ∀ x ∈ c.work, ∀ w, d.pages[x.1]? = some w → chunkPage u p w (x.2.1 == 0) false false d.dim = none

/-- What a descriptor has of a chunk that it ends: one more chunk, and at most 410 ns (R125, R133; log entry 26). -/
structure Billed (d d' : Desc) : Prop where
  ctx : d'.ctx = d.ctx
  index : d'.index = d.index
  chunks : d'.chunks = d.chunks + 1
  least : d.billed ≤ d'.billed
  most : d'.billed ≤ d.billed + 410

/-- A unit that has taken the passes of a chunk into its accumulators (R125). -/
abbrev passesTaken (c : Chunk) (acc : List Partial) (x : UnitS) : UnitS := { x with acc := acc, snapshot := [], taken := x.taken ++ c.passes }

/-- The boundary of a chunk takes at most 330 ns, and 80 ns for a refresh that is due. -/
theorem billed_bounds (n v : Nat) (due : Bool) :
    n ≤ n + v % 331 + (if due then 80 else 0) ∧ n + v % 331 + (if due then 80 else 0) ≤ n + 410 := by
  have boundary : v % 331 ≤ 330 := by omega
  split
  · omega
  · omega

theorem kept_mono {F G : Nat} {v : State} (h : Kept F u v) (sub : F ||| G = G) : Kept G u v := by
  refine ⟨h.pending, fun part out => h.same part ?_, h.shape, h.fuses⟩
  rw [← sub, Nat.testBit_or, Bool.or_eq_false_iff] at out
  exact out.1

theorem chunkEnd_of_sound (hc : (getUnit s k).chunk = some c) (hu : u = boundaryState s k t c) (hd : findDesc u c.ctx c.index = some d) (ho : d.owner = .part p)
    (running : d.phase = .running) (sound : PagesSound u p d c) :
    ∃ x acc d', exec (.chunkEnd k 0 false t) s = .next (putDesc (modUnit x k (passesTaken c acc)) d') ∧
      Kept (partSet [.free]) u x ∧ Billed d d' := by
  change ∃ x acc d', Machine.execChunkEnd k 0 false t s = _ ∧ _
  rw [Machine.execChunkEnd, hc]
  dsimp only
  rw [boundaryState_eq, ← hu, hd]
  dsimp only
  rw [ho]
  dsimp only
  rw [if_neg (by simp [running])]
  split
  next b rest hb =>
    obtain ⟨x, hx, bad⟩ := List.mem_filterMap.1 (hb ▸ List.mem_cons_self : b ∈ _)
    split at bad
    next w hw => simp [sound x hx w hw] at bad
    next => cases bad
  next =>
    refine ⟨_, _, _, rfl, ?_, ?_⟩
    · exact snd_of (kept_accumulate rfl _ _ _ _ _ _ (snd_of (kept_draw rfl _ (Kept.refl _ u))))
    · exact ⟨rfl, rfl, rfl, (billed_bounds ..).1, (billed_bounds ..).2⟩

/-- What a chunk without a bad page leaves of its unit and of its descriptor (R125, R133). -/
theorem chunkEnd_effect (hc : (getUnit s k).chunk = some c) (hu : u = boundaryState s k t c) (hd : findDesc u c.ctx c.index = some d) (ho : d.owner = .part p)
    (running : d.phase = .running) (sound : PagesSound u p d c) :
    ∃ v d', exec (.chunkEnd k 0 false t) s = .next v ∧ SameBut (partSet [.free, .flight, .units]) u v ∧ (getUnit v k).chunk = (getUnit u k).chunk ∧
      (getUnit v k).last = (getUnit u k).last ∧ (getUnit v k).taken = (getUnit u k).taken ++ c.passes ∧ findDesc v c.ctx c.index = some d' ∧ Billed d d' := by
  obtain ⟨x, acc, d', run, drawn, billed⟩ := chunkEnd_of_sound hc hu hd ho running sound
  have unit : getUnit x k = getUnit u k := getUnit_congr (drawn.same .units rfl) k
  have flies : findDesc (modUnit x k (passesTaken c acc)) c.ctx c.index = some d := by
    change findDesc x c.ctx c.index = some d
    rw [findDesc, drawn.same .flight rfl]
    exact hd
  have after : getUnit (putDesc (modUnit x k (passesTaken c acc)) d') k = passesTaken c acc (getUnit u k) := by
    rw [getUnit_putDesc, getUnit_modUnit_self, unit]
  refine ⟨_, d', run, (kept_putDesc rfl _ _ (kept_modUnit rfl _ _ _ (kept_mono drawn rfl))).same, ?_, ?_, ?_, findDesc_putDesc flies billed.ctx billed.index, billed⟩
  · rw [after]
  · rw [after]
  · rw [after]

/-! ### A refresh under it (R115) -/

theorem refreshDue_of_chunk (h : (getUnit s k).chunk = some c) :
    exec (.refreshDue k) s = .next (modUnit s k fun x => { x with postponed := min 4 (x.postponed + 1) }) :=
  if_pos (by rw [h]; rfl)

end
end Sys2Proof.Proofs
end

section
/-!
RESEAL. A legal one waits for its place and converts its extent; its bad rows are those that the stack reported, and to Open also those that hold a poisoned line; the bytes that leave the extent are those of the check bits (R139).
-/
namespace Sys2Proof.Proofs

open Sys2Proof.Machine (State exec)

section
variable {s : State} {q e : Nat} {i : BitVec 32} {d : Desc} {rows : List Nat}

/-! ### Its judgement and its start (R137, R138, R140) -/

/-- The kind that a RESEAL gives its extent (R137). -/
abbrev resealKind (d : Desc) : ExtKind := if bit (d.w 2) 16 then .openRows else .guarded

theorem reseal_of_legal (hd : stationDesc s q i 0x03 2 = some d) (active : memActive s = true) (hn : d.len = 0) (hb : bodyOk d.cur [maskOf 16 16 ||| maskOf 10 0] = true)
    (he : resealExtent s d = some e) (first : resealBefore s d e = false) (unused : inStore (stagedView s d) d e = false) :
    exec (.reseal q i) s = .next (if (getExt (stagedView s d) e).kind = resealKind d then putDesc s (d.finish stDone 0 (some 0)) else putDesc s { d with phase := .running }) := by
  change Machine.execReseal q i s = _
  rw [Machine.execReseal, hd]
  dsimp only
  rw [if_neg (by simp [active]), if_neg (by simp [hn, hb]), he]
  dsimp only
  rw [if_neg (by simp [first]), if_neg (by simp [unused])]
  exact (apply_ite Host.Outcome.next ..).symm

theorem resealStart_of_place (hd : findDesc s q i = some d) (reseal : d.isReseal = true) (running : d.phase = .running) (unstarted : d.started = false)
    (first : ((dispatchedBefore s d).any fun x => x.owner == d.owner && x.isReseal && x.phase == .running && !x.started) = false)
    (room : resealsOf s d.owner < (if d.owner = .fm then 8 else 2)) (he : resealExtent s d = some e) (unused : inStore (stagedView s d) d e = false) :
    exec (.resealStart q i) s = .next (modExt (putDesc s { d with latched := true, started := true }) e fun x => { x with was := (getExt (stagedView s d) e).kind, kind := .awaiting }) := by
  change Machine.execResealStart q i s = _
  rw [Machine.execResealStart, hd]
  dsimp only
  rw [if_pos (by simp [reseal, running, unstarted, first, room]), he]
  dsimp only
  rw [if_neg (by simp [unused])]

/-! ### Its end (R139, R141) -/

/-- The rows of an extent that the stack reported as uncorrectable. -/
abbrev reportedRows (rows : List Nat) : List Nat := rows.filter fun r => decide (r < 262144)

/-- The state once the reported rows have counted toward a fence of their pairs (R141). -/
abbrev rowsCounted (s : State) (e : Nat) (rows : List Nat) : State :=
  (reportedRows rows).foldl (fun s r => unitFault s (e / 3 * 16 + r / 16384) false) s

/-- The rows of an extent that hold a poisoned line (R139, R510). -/
def markedRows (s : State) (e : Nat) : List Nat := s.hbmPoison.flatMap fun l =>
  if hbmAddr e 0 ≤ 64 * l ∧ 64 * l < hbmAddr e (240 * 2 ^ 20) then [(64 * l - hbmAddr e 0) / 960, (64 * l + 63 - hbmAddr e 0) / 960] else []

theorem markedRows_eq_nil (h : ∀ l ∈ s.hbmPoison, 64 * l < hbmAddr e 0 ∨ hbmAddr e (240 * 2 ^ 20) ≤ 64 * l) : markedRows s e = [] :=
  List.flatMap_eq_nil_iff.2 fun l hl => if_neg fun inside => (h l hl).elim (Nat.not_lt.2 inside.1) (Nat.not_le.2 inside.2)

/-- A RESEAL that converts its extent ends. -/
structure Converting (s : State) (q : Nat) (i : BitVec 32) (d : Desc) (e : Nat) : Prop where
  found : findDesc s q i = some d
  reseal : d.isReseal = true
  running : d.phase = .running
  started : d.started = true
  extent : resealExtent s d = some e

/-- A conversion that succeeds clears the bytes that its extent loses and keeps the rest of HBM (R139). -/
def Converted (e : Nat) (v w : State) : Prop :=
  SameBut (partSet [.hbm, .hbmPoison, .openPoison]) v w ∧ w.hbm = Memory.clear v.hbm (hbmAddr e (240 * 2 ^ 20)) (2 ^ 28 - 240 * 2 ^ 20)

theorem converted_mk (e : Nat) (v : State) (x y : List Nat) :
    Converted e v { v with hbm := Memory.clear v.hbm (hbmAddr e (240 * 2 ^ 20)) (2 ^ 28 - 240 * 2 ^ 20), hbmPoison := x, openPoison := y } := by
  refine ⟨fun p hp => ?_, rfl⟩
  cases p with
  | hbm => exact absurd hp (by decide)
  | hbmPoison => exact absurd hp (by decide)
  | openPoison => exact absurd hp (by decide)
  | _ => rfl

/-- The bad rows of a RESEAL (R139). -/
def badRows (s : State) (d : Desc) (e : Nat) (rows : List Nat) : List Nat :=
  (reportedRows rows ++ if !bit (d.w 2) 16 then [] else markedRows s e).eraseDups

theorem badRows_of_guarded (guarded : bit (d.w 2) 16 = false) : badRows s d e rows = (reportedRows rows).eraseDups := by
  rw [badRows, if_pos (by rw [guarded]; rfl), List.append_nil]

/-- To Open, every row that the stack reported is bad. -/
theorem length_badRows_le (toOpen : bit (d.w 2) 16 = true) : (reportedRows rows).eraseDups.length ≤ (badRows s d e rows).length := by
  rw [badRows, if_neg (by simp [toOpen]), List.eraseDups_append, List.length_append]
  exact Nat.le_add_right ..

theorem resealDone_of_bad_row (h : Converting s q i d e) (toOpen : bit (d.w 2) 16 = true) (bad : badRows s d e rows ≠ []) :
    exec (.resealDone q i rows) s = .next (putDesc (rowsCounted s e rows) { d.finish stPoisoned 3 (some (badRows s d e rows).length) with
      effects := d.effects ++ [.resealed e .guarded false] }) := by
  have fails : bit (d.w 2) 16 = true ∧ (!(badRows s d e rows).isEmpty) = true := ⟨toOpen, by simpa using bad⟩
  change Machine.execResealDone q i rows s = _
  rw [Machine.execResealDone, h.found]
  dsimp only
  rw [if_pos (by simp [h.reseal, h.running, h.started]), h.extent]
  exact if_pos fails

/-- A conversion that no bad row stops succeeds, degraded where there is one (R139). -/
theorem resealDone_of_converted (h : Converting s q i d e) (passes : ¬(bit (d.w 2) 16 = true ∧ (!(badRows s d e rows).isEmpty) = true)) :
    ∃ w, exec (.resealDone q i rows) s = .next (putDesc w { d.finish (degraded (if (badRows s d e rows).isEmpty then 0 else 1)).1
        (degraded (if (badRows s d e rows).isEmpty then 0 else 1)).2 (some (badRows s d e rows).length) with
        effects := d.effects ++ [.resealed e (if bit (d.w 2) 16 then .openRows else .guarded) true] }) ∧
      Converted e (rowsCounted s e rows) w := by
  refine ⟨?w, ?run, ?kept⟩
  case run =>
    change Machine.execResealDone q i rows s = _
    rw [Machine.execResealDone, h.found]
    dsimp only
    rw [if_pos (by simp [h.reseal, h.running, h.started]), h.extent]
    exact if_neg passes
  case kept => exact converted_mk ..

theorem resealDone_to_guarded (h : Converting s q i d e) (guarded : bit (d.w 2) 16 = false) {n : Nat} (hn : n = (reportedRows rows).eraseDups.length) :
    ∃ w, exec (.resealDone q i rows) s = .next (putDesc w { d.finish (if n = 0 then stDone else stDegraded) (if n = 0 then 0 else 1) (some n) with
      effects := d.effects ++ [.resealed e .guarded true] }) ∧ Converted e (rowsCounted s e rows) w := by
  have bad := badRows_of_guarded (s := s) (e := e) (rows := rows) guarded
  obtain ⟨w, hw, kept⟩ := resealDone_of_converted (rows := rows) h (by simp [guarded])
  refine ⟨w, ?_, kept⟩
  rw [hw, bad, guarded, ← hn]
  by_cases none : n = 0
  · rw [List.length_eq_zero_iff.1 (hn.symm.trans none), none]
    rfl
  · rw [if_neg none, if_neg none, if_neg (fun empty => none (by rw [hn, List.isEmpty_iff.1 empty]; rfl))]
    rfl

theorem resealDone_to_open (h : Converting s q i d e) (toOpen : bit (d.w 2) 16 = true) (sound : (reportedRows rows).eraseDups.length = 0) (unmarked : markedRows s e = []) :
    ∃ w, exec (.resealDone q i rows) s = .next (putDesc w { d.finish stDone 0 (some 0) with effects := d.effects ++ [.resealed e .openRows true] }) ∧ Converted e s w := by
  have none : reportedRows rows = [] := List.eq_nil_iff_forall_not_mem.2 fun r hr => by
    simpa [List.length_eq_zero_iff.1 sound] using List.mem_eraseDups.2 hr
  have bad : badRows s d e rows = [] := by
    rw [badRows, none, if_neg (by simp [toOpen]), unmarked]
    rfl
  obtain ⟨w, hw, kept⟩ := resealDone_of_converted (rows := rows) h (by simp [bad])
  rw [rowsCounted, none] at kept
  refine ⟨w, ?_, kept⟩
  rw [hw, bad, toOpen]
  rfl

end

end Sys2Proof.Proofs
end

section
/-!
The fence of a bank pair. A fence changes units in two places: of its own unit when it begins, and of every unit of its pseudo-channel when that is fenced too; what else a fence does keeps the units (`units_of_kept`).
-/
namespace Sys2Proof.Proofs

open Sys2Proof.Machine (State exec)
open Sys2Proof.Laws (Kept foldl_kept kept_aerFatal kept_endUnserved kept_failReaders kept_logError kept_modExt kept_noteFence kept_postFence)

section
variable {s t : State} {k : Nat}

/-- A unit that is fenced and runs no chunk. -/
def FencedIdle (s : State) (k : Nat) : Prop := (getUnit s k).fenced = true ∧ (getUnit s k).chunk = none

/-- What a fence changes besides units, frames of the pair and bytes before them: messages, descriptors that end, poison of extents, faults (R142, R517, R518). -/
abbrev fenceParts : Nat := partSet [.out, .host, .owners, .flight, .extents, .frames, .flash, .faults]

theorem units_of_kept (h : Kept fenceParts s t) : t.units = s.units := h.same .units rfl

theorem FencedIdle.of_kept (h : FencedIdle s k) (kept : Kept fenceParts s t) : FencedIdle t k := by
  rw [FencedIdle, getUnit_congr (units_of_kept kept)]
  exact h

/-- A unit of a pseudo-channel that is fenced stops. -/
def stopped (x : UnitS) : UnitS := { x with chunk := none, holder := none, query := [], table := none, acc := [], snapshot := [], taken := [], queue := [] }

theorem lookup?_map_value {κ β : Type} [DecidableEq κ] (m : List (κ × β)) (f : κ → β → β) (k : κ) :
    lookup? (m.map fun x => (x.1, f x.1 x.2)) k = (lookup? m k).map (f k) := by
  induction m with
  | nil => rfl
  | cons e m ih =>
    rw [List.map_cons, lookup?_cons, lookup?_cons, ih]
    by_cases h : e.1 = k
    · rw [if_pos h, if_pos h, ← h]
      rfl
    · rw [if_neg h, if_neg h]

theorem FencedIdle.stop (h : FencedIdle s k) (p : Nat → Prop) [DecidablePred p] (units : t.units = s.units.map fun u => if p u.1 then (u.1, stopped u.2) else u) : FencedIdle t k := by
  have found : lookup? t.units k = (lookup? s.units k).map fun x => if p k then stopped x else x := by
    rw [units, ← lookup?_map_value s.units fun j x => if p j then stopped x else x]
    refine congrArg (fun m => lookup? m k) (List.map_congr_left fun u _ => ?_)
    split <;> rfl
  obtain ⟨fenced, idle⟩ := h
  rw [getUnit] at fenced idle
  rw [FencedIdle, getUnit, found]
  cases hu : lookup? s.units k with
  | none => rw [hu] at fenced; cases fenced
  | some x =>
    rw [hu] at fenced idle
    change (if p k then stopped x else x).fenced = true ∧ (if p k then stopped x else x).chunk = none
    split
    · exact ⟨fenced, rfl⟩
    · exact ⟨fenced, idle⟩

theorem FencedIdle.after_fencePch (h : FencedIdle s k) (c : Nat) : FencedIdle (fencePch s c) k := by
  unfold fencePch
  split
  · exact h
  · extract_lets p fresh held faults cut
    have stops : FencedIdle cut k := h.stop (fun u => u / 16 = c) rfl
    clear_value cut
    refine stops.of_kept (foldl_kept (kept_aerFatal rfl _ _ (kept_failReaders rfl _ _ (kept_logError rfl _ _ _ _ _ _ (foldl_kept (Kept.refl _ _) ?_)))) ?_)
    · exact fun _ _ kept => kept_modExt rfl _ _ _ kept
    · exact fun _ _ kept => kept_postFence rfl _ _ _ _ _ kept

theorem fencedIdle_fencePair (open_ : (getUnit s k).fenced = false) (whole : pchFenced s (k / 16) = false) (hk : k < 10240) : FencedIdle (fencePair s k) k := by
  rw [fencePair, if_neg (by simp [open_, whole, hk])]
  extract_lets chunk held s0 s1 s2 s3 s4 p s5 s6
  have begins : FencedIdle s3 k := by
    change FencedIdle s1 k
    rw [FencedIdle, getUnit_modUnit_self]
    exact ⟨rfl, rfl⟩
  have ends : FencedIdle s6 k :=
    begins.of_kept (kept_postFence rfl _ _ _ _ _ (kept_noteFence rfl _ _ _ (kept_logError rfl _ _ _ _ _ _ (kept_endUnserved rfl _ (Kept.refl _ s3)))))
  split
  · exact ends.after_fencePch _
  · exact ends

theorem bankPairFence_of_open (here : maintenanceAway s k = false) (t : Nat) : exec (.bankPairFence k t) s = .next (fencePair (atTime s t) k) :=
  if_neg (by simp [here])

end
end Sys2Proof.Proofs
end

section
/-!
The SWEEP station: its statement, from what each of its steps does.
-/
namespace Sys2Proof.Proofs

open Sys2Proof.Laws (Kept kept_atTime kept_fencePair)

/-- Settles O46, from what each step of the SWEEP station answers in the state that its clause names. How long a walk holds its place and what a chunk bills beyond its cycles are free values of the model (log entries 13 and 26). -/
theorem sweeps : Obligations.Sweeps := by
  refine ⟨?_, ?_, ?_, ?_, ?_, ?_, ?_, ?_, ?_, ?_, ?_, ?_⟩
  · rintro q i p d a r tb tile s hd active locked ho rfl body softmax chained grouped found whole inLayers inHeads table size fits readable output progress input sound
    exact attend_of_legal hd active locked ho
      ⟨body, softmax, chained, grouped, found, whole, inLayers, inHeads, table, size, fits, readable, output, progress, input, sound⟩
  · intro q t i p d s hd ho wants active first
    exact walkStart_of_due ⟨hd, ho, wants, active, first⟩ t
  · rintro q t i p d d' a r xs pages taken u v s hd ho wants active first opcode hu place rfl rfl found covered room there rfl banks rfl
    exact walkStart_of_banks ⟨hd, ho, wants, active, first⟩ hu place ⟨opcode, found, covered, room, there, banks⟩
  · rintro k t cycles bytes p d d' mine ps w s idle unfenced whole issues hk first next ho on hw rfl guarded fill rfl stack share rfl
    exact chunkStart_of_fits ⟨idle, unfenced, whole, issues, hk, first⟩ next ho on hw guarded fill ⟨stack, share⟩ rfl
  · intro k t c p d u s hc hu hd ho running sound
    obtain ⟨v, d', run, same, chunk, last, taken, flies, billed⟩ := chunkEnd_effect hc hu hd ho running sound
    refine ⟨v, d', run, same, chunk, taken, fun unheld => ?_, flies, billed.chunks, billed.least, billed.most⟩
    have still : u = modUnit (atTime s t) k fun x => { x with chunk := none, last := some (c.ctx, c.index), postponed := 0, boundary := (atTime s t).time + if (getUnit s k).postponed = 0 then 0 else 80 } :=
      hu.trans (releaseAll_of_no_held unheld)
    rw [chunk, last, still, getUnit_modUnit_self]
    exact ⟨rfl, rfl⟩
  · intro k c s hc
    exact refreshDue_of_chunk hc
  · intro q h i d e f ps u v s hd running opcode walked there first done hu he hps hf
    exact hubFold_of_ready hd ⟨running, opcode, walked, there, first, done⟩ hu he hps hf
  · intro q t i d s hd opcode subop open_ place period due
    exact progressRecord_of_due hd opcode subop open_ place period due
  · intro q e i d s hd active hn hb he first unused
    have run := reseal_of_legal hd active hn hb he first unused
    exact ⟨fun other => by rw [run, if_neg other], fun same => by rw [run, if_pos same]⟩
  · intro q e i d s hd reseal running unstarted first room he unused
    exact resealStart_of_place hd reseal running unstarted first room he unused
  · rintro q e n i d rows v s hd reseal running started he hn rfl
    have h : Converting s q i d e := ⟨hd, reseal, running, started, he⟩
    refine ⟨fun guarded => ?_, fun toOpen bad => ?_, fun toOpen sound unmarked => ?_⟩
    · exact resealDone_to_guarded h guarded hn
    · have reported := length_badRows_le (s := s) (e := e) (rows := rows) toOpen
      exact ⟨_, hn ▸ reported, resealDone_of_bad_row h toOpen (List.ne_nil_of_length_pos (Nat.lt_of_lt_of_le (Nat.pos_of_ne_zero (hn ▸ bad)) reported))⟩
    · exact resealDone_to_open h toOpen (hn.symm.trans sound) (markedRows_eq_nil unmarked)
  · intro k t s unfenced whole hk here
    exact ⟨_, bankPairFence_of_open here t, (kept_fencePair rfl _ _ (kept_atTime rfl _ _ (Kept.refl _ s))).same, fencedIdle_fencePair unfenced whole hk⟩

end Sys2Proof.Proofs
end

section
/-!
Every command answers a next state and keeps the queue, the shape and the burnt fuses (`exec_sound`), and so does a step on the queue's rest (`step_sound`). What a command keeps is its lemma in
Laws/Kept; that it answers a next state is seen in each case of its definition, and of a station's operation once for the station.
-/
namespace Sys2Proof.Proofs

open Sys2Proof.Machine (State exec)
open Sys2Proof.Laws

/-- The answer is a next state. -/
def Answers (x : Answer) : Prop := ∃ t, x = .next t

/-- All the parts of a state. -/
abbrev allParts : Nat := 2 ^ 38 - 1

/-- The answer is a next state that keeps, of the state before it, the queue, the shape and the burnt fuses. -/
def Sound (s : State) (x : Answer) : Prop := ∃ t, x = .next t ∧ Kept allParts s t

theorem sound_of {s : State} {x y : Answer} (kept : OnNext (Kept allParts s) x) (answers : Answers x) (arm : y = x) : Sound s y := by
  obtain ⟨t, rfl⟩ := answers
  exact ⟨t, arm, kept⟩

/-! ### Stations -/

section
variable {s : State} {q op sub n : Nat} {i : BitVec 32} {ks : List Nat} {masks : List Word}

theorem answers_stationRun {k : Desc → State → State} : Answers (stationRun s q i op sub ks k) := by
  fun_cases stationRun s q i op sub ks k <;> exact ⟨_, rfl⟩

theorem answers_placeRun {k : Nat → Desc → State → State × Desc} : Answers (placeRun s q i sub masks k) := by
  fun_cases placeRun s q i sub masks k <;> exact ⟨_, rfl⟩

theorem answers_flashRun {k : Nat → Desc → State → State} : Answers (flashRun q i op sub ks masks k s) := answers_stationRun

theorem answers_regionRun {k : Nat → Desc → State → State} : Answers (regionRun q i op sub ks masks k s) := answers_flashRun

theorem answers_matchRun {k : Nat → Desc → State → State} : Answers (matchRun s q i sub ks k) := answers_stationRun

theorem answers_qpModify {k : Desc → Nat → Qp → State → State} : Answers (qpModify s q i n masks k) := by
  fun_cases qpModify s q i n masks k <;> exact ⟨_, rfl⟩

/-! ### Commands that run a station's operation only in some states -/

section
variable {rd : HostRead}

theorem answers_execFoldExact : Answers (Machine.execFoldExact q i rd s) := by
  fun_cases Machine.execFoldExact
  · exact answers_stationRun
  · exact ⟨_, rfl⟩
  · exact ⟨_, rfl⟩

theorem answers_execBatch : Answers (Machine.execBatch q i rd s) := by
  fun_cases Machine.execBatch
  · exact ⟨_, rfl⟩
  · exact answers_stationRun
  · exact ⟨_, rfl⟩
  · exact ⟨_, rfl⟩
  · exact ⟨_, rfl⟩

theorem answers_execLoadScaleTable : Answers (Machine.execLoadScaleTable q i rd s) := by
  fun_cases Machine.execLoadScaleTable
  · exact ⟨_, rfl⟩
  · exact answers_stationRun

theorem answers_execLoadDecodeTable : Answers (Machine.execLoadDecodeTable q i rd s) := by
  fun_cases Machine.execLoadDecodeTable
  · exact ⟨_, rfl⟩
  · exact answers_stationRun
  · exact ⟨_, rfl⟩

theorem answers_execLoadPatterns : Answers (Machine.execLoadPatterns q i rd s) := by
  fun_cases Machine.execLoadPatterns
  · exact ⟨_, rfl⟩
  · exact answers_stationRun

end

/-! ### Commands with numbers too large for the derived case rules, whose branches are split by hand -/

theorem answers_execHdmDecoderCommit {ld : Fin 16} {d base size skip ways gran : Nat} : Answers (Machine.execHdmDecoderCommit ld d base size skip ways gran s) := by
  rw [Machine.execHdmDecoderCommit]
  split <;> exact ⟨_, rfl⟩

theorem answers_execWindowModeWrite {p : Fin 16} {slot mode t : Nat} : Answers (Machine.execWindowModeWrite p slot mode t s) := by
  rw [Machine.execWindowModeWrite]
  split
  · exact ⟨_, rfl⟩
  extract_lets
  split
  · exact ⟨_, rfl⟩
  extract_lets
  split
  · exact ⟨_, rfl⟩
  split <;> exact ⟨_, rfl⟩

theorem answers_execStepDrainObjectDone {k t : Nat} {ok : Bool} : Answers (Machine.execStepDrainObjectDone q i k ok t s) := by
  rw [Machine.execStepDrainObjectDone]
  split
  · exact ⟨_, rfl⟩
  extract_lets
  split
  · exact ⟨_, rfl⟩
  split
  · exact ⟨_, rfl⟩
  split
  · exact ⟨_, rfl⟩
  extract_lets
  split
  · exact ⟨_, rfl⟩
  split <;> exact ⟨_, rfl⟩

theorem answers_execLiftUnitDone {k unit t : Nat} {read : UnitRead} : Answers (Machine.execLiftUnitDone q i k unit read t s) := by
  rw [Machine.execLiftUnitDone]
  split
  · exact ⟨_, rfl⟩
  extract_lets
  split
  · extract_lets
    split
    · exact ⟨_, rfl⟩
    split
    · exact ⟨_, rfl⟩
    · exact ⟨_, rfl⟩
    · split <;> exact ⟨_, rfl⟩
  · exact ⟨_, rfl⟩

end

/-! ### Every command, and a step -/

/-- What a command keeps is its own lemma, and each case of its definition answers a next state. -/
theorem exec_sound (c : Instr) (s : State) : Sound s (exec c s) := by
  cases c with
  | doorbellFetch o stores dbOk descOk t => exact sound_of (kept_execDoorbellFetch rfl o stores dbOk descOk t s (.refl _ s)) (by fun_cases Machine.execDoorbellFetch <;> exact ⟨_, rfl⟩) rfl
  | programInvoke q ix => exact sound_of (kept_execProgramInvoke rfl q ix s (.refl _ s)) (by fun_cases Machine.execProgramInvoke <;> exact ⟨_, rfl⟩) rfl
  | programStep q ix => exact sound_of (kept_execProgramStep rfl q ix s (.refl _ s)) (by fun_cases Machine.execProgramStep <;> exact ⟨_, rfl⟩) rfl
  | descriptorCommit q ix t => exact sound_of (kept_execDescriptorCommit rfl q ix t s (.refl _ s)) (by fun_cases Machine.execDescriptorCommit <;> exact ⟨_, rfl⟩) rfl
  | copy q ix rd => exact sound_of (kept_execCopy rfl q ix rd s (.refl _ s)) (by fun_cases Machine.execCopy <;> exact ⟨_, rfl⟩) rfl
  | fence q ix => exact sound_of (kept_execFence rfl q ix s (.refl _ s)) (by fun_cases Machine.execFence <;> exact ⟨_, rfl⟩) rfl
  | abort q ix t => exact sound_of (kept_execAbort rfl q ix t s (.refl _ s)) (by fun_cases Machine.execAbort <;> exact ⟨_, rfl⟩) rfl
  | loadProgram q ix rd => exact sound_of (kept_execLoadProgram rfl q ix rd s (.refl _ s)) (by fun_cases Machine.execLoadProgram <;> exact ⟨_, rfl⟩) rfl
  | unloadProgram q ix => exact sound_of (kept_execUnloadProgram rfl q ix s (.refl _ s)) (by fun_cases Machine.execUnloadProgram <;> exact ⟨_, rfl⟩) rfl
  | setMode q ix => exact sound_of (kept_execSetMode rfl q ix s (.refl _ s)) (by fun_cases Machine.execSetMode <;> exact ⟨_, rfl⟩) rfl
  | modeCapsApplied q ix t => exact sound_of (kept_execModeCapsApplied rfl q ix t s (.refl _ s)) (by fun_cases Machine.execModeCapsApplied <;> exact ⟨_, rfl⟩) rfl
  | peakEnter q ix t => exact sound_of (kept_execPeakEnter rfl q ix t s (.refl _ s)) (by fun_cases Machine.execPeakEnter <;> exact ⟨_, rfl⟩) rfl
  | peakEnd q ix t => exact sound_of (kept_execPeakEnd rfl q ix t s (.refl _ s)) (by fun_cases Machine.execPeakEnd <;> exact ⟨_, rfl⟩) rfl
  | peakExpire t => exact sound_of (kept_execPeakExpire rfl t s (.refl _ s)) (by fun_cases Machine.execPeakExpire <;> exact ⟨_, rfl⟩) rfl
  | powerState q ix => exact sound_of (kept_execPowerState rfl q ix s (.refl _ s)) (by fun_cases Machine.execPowerState <;> exact ⟨_, rfl⟩) rfl
  | create q ix => exact sound_of (kept_execCreate rfl q ix s (.refl _ s)) answers_placeRun rfl
  | append q ix => exact sound_of (kept_execAppend rfl q ix s (.refl _ s)) answers_placeRun rfl
  | truncate q ix => exact sound_of (kept_execTruncate rfl q ix s (.refl _ s)) answers_placeRun rfl
  | fork q ix => exact sound_of (kept_execFork rfl q ix s (.refl _ s)) answers_placeRun rfl
  | placeFree q ix => exact sound_of (kept_execPlaceFree rfl q ix s (.refl _ s)) answers_placeRun rfl
  | freeze q ix => exact sound_of (kept_execFreeze rfl q ix s (.refl _ s)) answers_placeRun rfl
  | thaw q ix => exact sound_of (kept_execThaw rfl q ix s (.refl _ s)) answers_placeRun rfl
  | restore q ix => exact sound_of (kept_execRestore rfl q ix s (.refl _ s)) answers_placeRun rfl
  | query q ix => exact sound_of (kept_execQuery rfl q ix s (.refl _ s)) answers_placeRun rfl
  | addExtent q ix => exact sound_of (kept_execAddExtent rfl q ix s (.refl _ s)) answers_placeRun rfl
  | removeExtent q ix => exact sound_of (kept_execRemoveExtent rfl q ix s (.refl _ s)) answers_placeRun rfl
  | sequenceLockGrant q ix => exact sound_of (kept_execSequenceLockGrant rfl q ix s (.refl _ s)) (by fun_cases Machine.execSequenceLockGrant <;> exact ⟨_, rfl⟩) rfl
  | pinRelease q ix page => exact sound_of (kept_execPinRelease rfl q ix page s (.refl _ s)) (by fun_cases Machine.execPinRelease <;> exact ⟨_, rfl⟩) rfl
  | attend q ix => exact sound_of (kept_execAttend rfl q ix s (.refl _ s)) (by fun_cases Machine.execAttend <;> exact ⟨_, rfl⟩) rfl
  | walkStart q ix t => exact sound_of (kept_execWalkStart rfl q ix t s (.refl _ s)) (by fun_cases Machine.execWalkStart <;> exact ⟨_, rfl⟩) rfl
  | chunkStart u t => exact sound_of (kept_execChunkStart rfl u t s (.refl _ s)) (by fun_cases Machine.execChunkStart <;> exact ⟨_, rfl⟩) rfl
  | chunkEnd u transient uncorrectable t => exact sound_of (kept_execChunkEnd rfl u transient uncorrectable t s (.refl _ s)) (by fun_cases Machine.execChunkEnd <;> exact ⟨_, rfl⟩) rfl
  | refreshDue u => exact sound_of (kept_execRefreshDue rfl u s (.refl _ s)) (by fun_cases Machine.execRefreshDue <;> exact ⟨_, rfl⟩) rfl
  | hubFold q ix hub => exact sound_of (kept_execHubFold rfl q ix hub s (.refl _ s)) (by fun_cases Machine.execHubFold <;> exact ⟨_, rfl⟩) rfl
  | progressRecord q ix t => exact sound_of (kept_execProgressRecord rfl q ix t s (.refl _ s)) (by fun_cases Machine.execProgressRecord <;> exact ⟨_, rfl⟩) rfl
  | reseal q ix => exact sound_of (kept_execReseal rfl q ix s (.refl _ s)) (by fun_cases Machine.execReseal <;> exact ⟨_, rfl⟩) rfl
  | resealStart q ix => exact sound_of (kept_execResealStart rfl q ix s (.refl _ s)) (by fun_cases Machine.execResealStart <;> exact ⟨_, rfl⟩) rfl
  | resealDone q ix badRows => exact sound_of (kept_execResealDone rfl q ix badRows s (.refl _ s)) (by fun_cases Machine.execResealDone <;> exact ⟨_, rfl⟩) rfl
  | bankPairFence u t => exact sound_of (kept_execBankPairFence rfl u t s (.refl _ s)) (by fun_cases Machine.execBankPairFence <;> exact ⟨_, rfl⟩) rfl
  | merge q ix rd => exact sound_of (kept_execMerge rfl q ix rd s (.refl _ s)) answers_stationRun rfl
  | foldExact q ix rd => exact sound_of (kept_execFoldExact rfl q ix rd s (.refl _ s)) answers_execFoldExact rfl
  | batch q ix rd => exact sound_of (kept_execBatch rfl q ix rd s (.refl _ s)) answers_execBatch rfl
  | exactPageRead q ix k transient uncorrectable t => exact sound_of (kept_execExactPageRead rfl q ix k transient uncorrectable t s (.refl _ s)) (by fun_cases Machine.execExactPageRead <;> exact ⟨_, rfl⟩) rfl
  | corePage q ix k mismatch => exact sound_of (kept_execCorePage rfl q ix k mismatch s (.refl _ s)) (by fun_cases Machine.execCorePage <;> exact ⟨_, rfl⟩) rfl
  | pieceMove core => exact sound_of (kept_execPieceMove rfl core s (.refl _ s)) (by fun_cases Machine.execPieceMove <;> exact ⟨_, rfl⟩) rfl
  | coreFence core t => exact sound_of (kept_execCoreFence rfl core t s (.refl _ s)) ⟨_, rfl⟩ rfl
  | spareAssign core => exact sound_of (kept_execSpareAssign rfl core s (.refl _ s)) (by fun_cases Machine.execSpareAssign <;> exact ⟨_, rfl⟩) rfl
  | quantise q ix rd => exact sound_of (kept_execQuantise rfl q ix rd s (.refl _ s)) answers_stationRun rfl
  | measure q ix rd => exact sound_of (kept_execMeasure rfl q ix rd s (.refl _ s)) answers_stationRun rfl
  | encode q ix rd => exact sound_of (kept_execEncode rfl q ix rd s (.refl _ s)) answers_stationRun rfl
  | decode q ix rd => exact sound_of (kept_execDecode rfl q ix rd s (.refl _ s)) answers_stationRun rfl
  | ingestCheck q ix rd => exact sound_of (kept_execIngestCheck rfl q ix rd s (.refl _ s)) answers_stationRun rfl
  | histogram q ix rd => exact sound_of (kept_execHistogram rfl q ix rd s (.refl _ s)) answers_stationRun rfl
  | ingestUnit lane => exact sound_of (kept_execIngestUnit rfl lane s (.refl _ s)) (by fun_cases Machine.execIngestUnit <;> exact ⟨_, rfl⟩) rfl
  | loadScaleTable q ix rd => exact sound_of (kept_execLoadScaleTable rfl q ix rd s (.refl _ s)) answers_execLoadScaleTable rfl
  | loadDecodeTable q ix rd => exact sound_of (kept_execLoadDecodeTable rfl q ix rd s (.refl _ s)) answers_execLoadDecodeTable rfl
  | loadPatterns q ix rd => exact sound_of (kept_execLoadPatterns rfl q ix rd s (.refl _ s)) answers_execLoadPatterns rfl
  | lookup q ix rd => exact sound_of (kept_execLookup rfl q ix rd s (.refl _ s)) answers_matchRun rfl
  | insert q ix rd => exact sound_of (kept_execInsert rfl q ix rd s (.refl _ s)) answers_matchRun rfl
  | remove q ix rd => exact sound_of (kept_execRemove rfl q ix rd s (.refl _ s)) answers_matchRun rfl
  | fingerprint q ix rd => exact sound_of (kept_execFingerprint rfl q ix rd s (.refl _ s)) answers_matchRun rfl
  | matchStep q ix rd => exact sound_of (kept_execMatchStep rfl q ix rd s (.refl _ s)) answers_matchRun rfl
  | matchState q ix => exact sound_of (kept_execMatchState rfl q ix s (.refl _ s)) answers_matchRun rfl
  | snareSlot => exact sound_of (kept_execSnareSlot rfl s (.refl _ s)) (by fun_cases Machine.execSnareSlot <;> exact ⟨_, rfl⟩) rfl
  | insertShift block => exact sound_of (kept_execInsertShift rfl block s (.refl _ s)) (by fun_cases Machine.execInsertShift <;> exact ⟨_, rfl⟩) rfl
  | snareBalance p low => exact sound_of (kept_execSnareBalance rfl p low s (.refl _ s)) (by fun_cases Machine.execSnareBalance <;> exact ⟨_, rfl⟩) rfl
  | parityScan upsets passDone => exact sound_of (kept_execParityScan rfl upsets passDone s (.refl _ s)) ⟨_, rfl⟩ rfl
  | snareThrottle quarterDeg t => exact sound_of (kept_execSnareThrottle rfl quarterDeg t s (.refl _ s)) (by fun_cases Machine.execSnareThrottle <;> exact ⟨_, rfl⟩) rfl
  | attendReq p t => exact sound_of (kept_execAttendReq rfl p t s (.refl _ s)) (by fun_cases Machine.execAttendReq <;> exact ⟨_, rfl⟩) rfl
  | memberReq p t => exact sound_of (kept_execMemberReq rfl p t s (.refl _ s)) (by fun_cases Machine.execMemberReq <;> exact ⟨_, rfl⟩) rfl
  | memberReply p t => exact sound_of (kept_execMemberReply rfl p t s (.refl _ s)) (by fun_cases Machine.execMemberReply <;> exact ⟨_, rfl⟩) rfl
  | attendReply p t => exact sound_of (kept_execAttendReply rfl p t s (.refl _ s)) (by fun_cases Machine.execAttendReply <;> exact ⟨_, rfl⟩) rfl
  | fabricDeadline p id t => exact sound_of (kept_execFabricDeadline rfl p id t s (.refl _ s)) (by fun_cases Machine.execFabricDeadline <;> exact ⟨_, rfl⟩) rfl
  | fabricReplyTimeout q ix t => exact sound_of (kept_execFabricReplyTimeout rfl q ix t s (.refl _ s)) (by fun_cases Machine.execFabricReplyTimeout <;> exact ⟨_, rfl⟩) rfl
  | spreadSet p => exact sound_of (kept_execSpreadSet rfl p s (.refl _ s)) (by fun_cases Machine.execSpreadSet <;> exact ⟨_, rfl⟩) rfl
  | handoffReq p t => exact sound_of (kept_execHandoffReq rfl p t s (.refl _ s)) (by fun_cases Machine.execHandoffReq <;> exact ⟨_, rfl⟩) rfl
  | offer p t => exact sound_of (kept_execOffer rfl p t s (.refl _ s)) (by fun_cases Machine.execOffer <;> exact ⟨_, rfl⟩) rfl
  | ready p t => exact sound_of (kept_execReady rfl p t s (.refl _ s)) (by fun_cases Machine.execReady <;> exact ⟨_, rfl⟩) rfl
  | refuse p t => exact sound_of (kept_execRefuse rfl p t s (.refl _ s)) (by fun_cases Machine.execRefuse <;> exact ⟨_, rfl⟩) rfl
  | pages p t => exact sound_of (kept_execPages rfl p t s (.refl _ s)) (by fun_cases Machine.execPages <;> exact ⟨_, rfl⟩) rfl
  | accept p t => exact sound_of (kept_execAccept rfl p t s (.refl _ s)) (by fun_cases Machine.execAccept <;> exact ⟨_, rfl⟩) rfl
  | commit p t => exact sound_of (kept_execCommit rfl p t s (.refl _ s)) (by fun_cases Machine.execCommit <;> exact ⟨_, rfl⟩) rfl
  | commitAck p t => exact sound_of (kept_execCommitAck rfl p t s (.refl _ s)) (by fun_cases Machine.execCommitAck <;> exact ⟨_, rfl⟩) rfl
  | commitNak p t => exact sound_of (kept_execCommitNak rfl p t s (.refl _ s)) (by fun_cases Machine.execCommitNak <;> exact ⟨_, rfl⟩) rfl
  | abandon p t => exact sound_of (kept_execAbandon rfl p t s (.refl _ s)) (by fun_cases Machine.execAbandon <;> exact ⟨_, rfl⟩) rfl
  | leaseTimerExpire p seq t => exact sound_of (kept_execLeaseTimerExpire rfl p seq t s (.refl _ s)) (by fun_cases Machine.execLeaseTimerExpire <;> exact ⟨_, rfl⟩) rfl
  | holdTimerExpire p seq t => exact sound_of (kept_execHoldTimerExpire rfl p seq t s (.refl _ s)) (by fun_cases Machine.execHoldTimerExpire <;> exact ⟨_, rfl⟩) rfl
  | pendingIdleExpire p seq t => exact sound_of (kept_execPendingIdleExpire rfl p seq t s (.refl _ s)) (by fun_cases Machine.execPendingIdleExpire <;> exact ⟨_, rfl⟩) rfl
  | escrowCommitResend p seq t => exact sound_of (kept_execEscrowCommitResend rfl p seq t s (.refl _ s)) (by fun_cases Machine.execEscrowCommitResend <;> exact ⟨_, rfl⟩) rfl
  | lossNotice o m t => exact sound_of (kept_execLossNotice rfl o m t s (.refl _ s)) ⟨_, rfl⟩ rfl
  | message q ix rd => exact sound_of (kept_execMessage rfl q ix rd s (.refl _ s)) answers_stationRun rfl
  | write q ix rd => exact sound_of (kept_execWrite rfl q ix rd s (.refl _ s)) answers_stationRun rfl
  | read q ix => exact sound_of (kept_execRead rfl q ix s (.refl _ s)) answers_stationRun rfl
  | fabric q ix rd => exact sound_of (kept_execFabric rfl q ix rd s (.refl _ s)) answers_stationRun rfl
  | qpSetup q ix => exact sound_of (kept_execQpSetup rfl q ix s (.refl _ s)) answers_stationRun rfl
  | qpModifyError q ix => exact sound_of (kept_execQpModifyError rfl q ix s (.refl _ s)) answers_qpModify rfl
  | qpModifyDrain q ix => exact sound_of (kept_execQpModifyDrain rfl q ix s (.refl _ s)) answers_qpModify rfl
  | qpModifyReset q ix => exact sound_of (kept_execQpModifyReset rfl q ix s (.refl _ s)) answers_qpModify rfl
  | qpModifyRekey q ix t => exact sound_of (kept_execQpModifyRekey rfl q ix t s (.refl _ s)) answers_qpModify rfl
  | qpModifyLanes q ix => exact sound_of (kept_execQpModifyLanes rfl q ix s (.refl _ s)) answers_qpModify rfl
  | qpDestroy q ix => exact sound_of (kept_execQpDestroy rfl q ix s (.refl _ s)) answers_stationRun rfl
  | qpQuery q ix => exact sound_of (kept_execQpQuery rfl q ix s (.refl _ s)) answers_stationRun rfl
  | post q ix => exact sound_of (kept_execPost rfl q ix s (.refl _ s)) answers_stationRun rfl
  | messageStart qpn t => exact sound_of (kept_execMessageStart rfl qpn t s (.refl _ s)) (by fun_cases Machine.execMessageStart <;> exact ⟨_, rfl⟩) rfl
  | sequencedPacketReceive k t => exact sound_of (kept_execSequencedPacketReceive rfl k t s (.refl _ s)) (by fun_cases Machine.execSequencedPacketReceive <;> exact ⟨_, rfl⟩) rfl
  | ackReceive k t => exact sound_of (kept_execAckReceive rfl k t s (.refl _ s)) (by fun_cases Machine.execAckReceive <;> exact ⟨_, rfl⟩) rfl
  | nakReceive k t => exact sound_of (kept_execNakReceive rfl k t s (.refl _ s)) (by fun_cases Machine.execNakReceive <;> exact ⟨_, rfl⟩) rfl
  | laneSyncReceive k => exact sound_of (kept_execLaneSyncReceive rfl k s (.refl _ s)) (by fun_cases Machine.execLaneSyncReceive <;> exact ⟨_, rfl⟩) rfl
  | laneSyncReplyReceive k t => exact sound_of (kept_execLaneSyncReplyReceive rfl k t s (.refl _ s)) (by fun_cases Machine.execLaneSyncReplyReceive <;> exact ⟨_, rfl⟩) rfl
  | cancelReceive k t => exact sound_of (kept_execCancelReceive rfl k t s (.refl _ s)) (by fun_cases Machine.execCancelReceive <;> exact ⟨_, rfl⟩) rfl
  | ackTimer qpn lane space t => exact sound_of (kept_execAckTimer rfl qpn lane space t s (.refl _ s)) (by fun_cases Machine.execAckTimer <;> exact ⟨_, rfl⟩) rfl
  | retryTimerExpire qpn lane space t => exact sound_of (kept_execRetryTimerExpire rfl qpn lane space t s (.refl _ s)) (by fun_cases Machine.execRetryTimerExpire <;> exact ⟨_, rfl⟩) rfl
  | laneSyncRetry qpn lane t => exact sound_of (kept_execLaneSyncRetry rfl qpn lane t s (.refl _ s)) (by fun_cases Machine.execLaneSyncRetry <;> exact ⟨_, rfl⟩) rfl
  | rnrWaitExpire qpn lane space t => exact sound_of (kept_execRnrWaitExpire rfl qpn lane space t s (.refl _ s)) (by fun_cases Machine.execRnrWaitExpire <;> exact ⟨_, rfl⟩) rfl
  | contextFetchDone qpn authOk t => exact sound_of (kept_execContextFetchDone rfl qpn authOk t s (.refl _ s)) (by fun_cases Machine.execContextFetchDone <;> exact ⟨_, rfl⟩) rfl
  | oldKeyDrop qpn t => exact sound_of (kept_execOldKeyDrop rfl qpn t s (.refl _ s)) (by fun_cases Machine.execOldKeyDrop <;> exact ⟨_, rfl⟩) rfl
  | rocePacketReceive k t => exact sound_of (kept_execRocePacketReceive rfl k t s (.refl _ s)) (by fun_cases Machine.execRocePacketReceive <;> exact ⟨_, rfl⟩) rfl
  | packetForward port f => exact sound_of (kept_execPacketForward rfl port f s (.refl _ s)) (by fun_cases Machine.execPacketForward <;> exact ⟨_, rfl⟩) rfl
  | frameTransmit port link cls t => exact sound_of (kept_execFrameTransmit rfl port link cls t s (.refl _ s)) (by fun_cases Machine.execFrameTransmit <;> exact ⟨_, rfl⟩) rfl
  | frameDiscard port link b => exact sound_of (kept_execFrameDiscard rfl port link b s (.refl _ s)) (by fun_cases Machine.execFrameDiscard <;> exact ⟨_, rfl⟩) rfl
  | pauseReceive port link cls quanta t => exact sound_of (kept_execPauseReceive rfl port link cls quanta t s (.refl _ s)) (by fun_cases Machine.execPauseReceive <;> exact ⟨_, rfl⟩) rfl
  | pauseRefresh port link cls => exact sound_of (kept_execPauseRefresh rfl port link cls s (.refl _ s)) (by fun_cases Machine.execPauseRefresh <;> exact ⟨_, rfl⟩) rfl
  | remotePauseLimit port link cls t => exact sound_of (kept_execRemotePauseLimit rfl port link cls t s (.refl _ s)) (by fun_cases Machine.execRemotePauseLimit <;> exact ⟨_, rfl⟩) rfl
  | ownPauseLimit port link cls t => exact sound_of (kept_execOwnPauseLimit rfl port link cls t s (.refl _ s)) (by fun_cases Machine.execOwnPauseLimit <;> exact ⟨_, rfl⟩) rfl
  | phyUp port link t => exact sound_of (kept_execPhyUp rfl port link t s (.refl _ s)) (by fun_cases Machine.execPhyUp <;> exact ⟨_, rfl⟩) rfl
  | phyDown port link t => exact sound_of (kept_execPhyDown rfl port link t s (.refl _ s)) (by fun_cases Machine.execPhyDown <;> exact ⟨_, rfl⟩) rfl
  | lldpSend port link t => exact sound_of (kept_execLldpSend rfl port link t s (.refl _ s)) (by fun_cases Machine.execLldpSend <;> exact ⟨_, rfl⟩) rfl
  | lldpReceive port link v t => exact sound_of (kept_execLldpReceive rfl port link v t s (.refl _ s)) (by fun_cases Machine.execLldpReceive <;> exact ⟨_, rfl⟩) rfl
  | lldpTtlExpire port link t => exact sound_of (kept_execLldpTtlExpire rfl port link t s (.refl _ s)) (by fun_cases Machine.execLldpTtlExpire <;> exact ⟨_, rfl⟩) rfl
  | linkReturn port link t => exact sound_of (kept_execLinkReturn rfl port link t s (.refl _ s)) (by fun_cases Machine.execLinkReturn <;> exact ⟨_, rfl⟩) rfl
  | shaperRefill t => exact sound_of (kept_execShaperRefill rfl t s (.refl _ s)) (by fun_cases Machine.execShaperRefill <;> exact ⟨_, rfl⟩) rfl
  | gateEntryAdvance port t => exact sound_of (kept_execGateEntryAdvance rfl port t s (.refl _ s)) (by fun_cases Machine.execGateEntryAdvance <;> exact ⟨_, rfl⟩) rfl
  | gateTakeover port t => exact sound_of (kept_execGateTakeover rfl port t s (.refl _ s)) (by fun_cases Machine.execGateTakeover <;> exact ⟨_, rfl⟩) rfl
  | gateArm port countM1 t => exact sound_of (kept_execGateArm rfl port countM1 t s (.refl _ s)) (by fun_cases Machine.execGateArm <;> exact ⟨_, rfl⟩) rfl
  | gateClear port countM1 => exact sound_of (kept_execGateClear rfl port countM1 s (.refl _ s)) (by fun_cases Machine.execGateClear <;> exact ⟨_, rfl⟩) rfl
  | cxlMemRead ld addr => exact sound_of (kept_execCxlMemRead rfl ld addr s (.refl _ s)) ⟨_, rfl⟩ rfl
  | cxlMemWrite ld addr data mask poison => exact sound_of (kept_execCxlMemWrite rfl ld addr data mask poison s (.refl _ s)) ⟨_, rfl⟩ rfl
  | cxlMemOtherOpcode ld addr withData => exact sound_of (kept_execCxlMemOtherOpcode rfl ld addr withData s (.refl _ s)) (by fun_cases Machine.execCxlMemOtherOpcode <;> exact ⟨_, rfl⟩) rfl
  | ldRateRelease ld t => exact sound_of (kept_execLdRateRelease rfl ld t s (.refl _ s)) (by fun_cases Machine.execLdRateRelease <;> exact ⟨_, rfl⟩) rfl
  | configRequest o reg wr => exact sound_of (kept_execConfigRequest rfl o reg wr s (.refl _ s)) (by fun_cases Machine.execConfigRequest <;> exact ⟨_, rfl⟩) rfl
  | hdmDecoderCommit ld d base size skip ways gran => exact sound_of (kept_execHdmDecoderCommit rfl ld d base size skip ways gran s (.refl _ s)) answers_execHdmDecoderCommit rfl
  | windowModeWrite p slot mode t => exact sound_of (kept_execWindowModeWrite rfl p slot mode t s (.refl _ s)) answers_execWindowModeWrite rfl
  | windowDrainDone p slot t => exact sound_of (kept_execWindowDrainDone rfl p slot t s (.refl _ s)) (by fun_cases Machine.execWindowDrainDone <;> exact ⟨_, rfl⟩) rfl
  | extentAssign q ix => exact sound_of (kept_execExtentAssign rfl q ix s (.refl _ s)) (by fun_cases Machine.execExtentAssign <;> exact ⟨_, rfl⟩) rfl
  | extentRevoke q ix t => exact sound_of (kept_execExtentRevoke rfl q ix t s (.refl _ s)) (by fun_cases Machine.execExtentRevoke <;> exact ⟨_, rfl⟩) rfl
  | revokeDrainDone q ix => exact sound_of (kept_execRevokeDrainDone rfl q ix s (.refl _ s)) (by fun_cases Machine.execRevokeDrainDone <;> exact ⟨_, rfl⟩) rfl
  | extentClearDone e => exact sound_of (kept_execExtentClearDone rfl e s (.refl _ s)) (by fun_cases Machine.execExtentClearDone <;> exact ⟨_, rfl⟩) rfl
  | identifyMemoryDevice o => exact sound_of (kept_execIdentifyMemoryDevice rfl o s (.refl _ s)) ⟨_, rfl⟩ rfl
  | getHealthInfo o => exact sound_of (kept_execGetHealthInfo rfl o s (.refl _ s)) ⟨_, rfl⟩ rfl
  | getEventRecords o log => exact sound_of (kept_execGetEventRecords rfl o log s (.refl _ s)) ⟨_, rfl⟩ rfl
  | clearEventRecords o log handles => exact sound_of (kept_execClearEventRecords rfl o log handles s (.refl _ s)) ⟨_, rfl⟩ rfl
  | getPoisonList o start len => exact sound_of (kept_execGetPoisonList rfl o start len s (.refl _ s)) ⟨_, rfl⟩ rfl
  | injectPoison o dpa => exact sound_of (kept_execInjectPoison rfl o dpa s (.refl _ s)) ⟨_, rfl⟩ rfl
  | clearPoison o dpa data => exact sound_of (kept_execClearPoison rfl o dpa data s (.refl _ s)) ⟨_, rfl⟩ rfl
  | getSupportedLogs o => exact sound_of (kept_execGetSupportedLogs rfl o s (.refl _ s)) ⟨_, rfl⟩ rfl
  | getLog o log off len => exact sound_of (kept_execGetLog rfl o log off len s (.refl _ s)) ⟨_, rfl⟩ rfl
  | getTimestamp o => exact sound_of (kept_execGetTimestamp rfl o s (.refl _ s)) ⟨_, rfl⟩ rfl
  | unsupportedCommand o code => exact sound_of (kept_execUnsupportedCommand rfl o code s (.refl _ s)) ⟨_, rfl⟩ rfl
  | setQosAllocatedBw start vals => exact sound_of (kept_execSetQosAllocatedBw rfl start vals s (.refl _ s)) (by fun_cases Machine.execSetQosAllocatedBw <;> exact ⟨_, rfl⟩) rfl
  | setQosBwLimit start vals => exact sound_of (kept_execSetQosBwLimit rfl start vals s (.refl _ s)) (by fun_cases Machine.execSetQosBwLimit <;> exact ⟨_, rfl⟩) rfl
  | identify o m => exact sound_of (kept_execIdentify rfl o m s (.refl _ s)) ⟨_, rfl⟩ rfl
  | time o m t => exact sound_of (kept_execTime rfl o m t s (.refl _ s)) ⟨_, rfl⟩ rfl
  | logRead o m => exact sound_of (kept_execLogRead rfl o m s (.refl _ s)) ⟨_, rfl⟩ rfl
  | certGet o m => exact sound_of (kept_execCertGet rfl o m s (.refl _ s)) ⟨_, rfl⟩ rfl
  | attest o m t => exact sound_of (kept_execAttest rfl o m t s (.refl _ s)) ⟨_, rfl⟩ rfl
  | sessionOpen o m t => exact sound_of (kept_execSessionOpen rfl o m t s (.refl _ s)) ⟨_, rfl⟩ rfl
  | keyInstall o m => exact sound_of (kept_execKeyInstall rfl o m s (.refl _ s)) ⟨_, rfl⟩ rfl
  | keyRemove o m => exact sound_of (kept_execKeyRemove rfl o m s (.refl _ s)) ⟨_, rfl⟩ rfl
  | regionPublish o m => exact sound_of (kept_execRegionPublish rfl o m s (.refl _ s)) ⟨_, rfl⟩ rfl
  | regionQuery o m => exact sound_of (kept_execRegionQuery rfl o m s (.refl _ s)) ⟨_, rfl⟩ rfl
  | fwStage o m => exact sound_of (kept_execFwStage rfl o m s (.refl _ s)) ⟨_, rfl⟩ rfl
  | fwVerify o m => exact sound_of (kept_execFwVerify rfl o m s (.refl _ s)) ⟨_, rfl⟩ rfl
  | fwActivate o m => exact sound_of (kept_execFwActivate rfl o m s (.refl _ s)) ⟨_, rfl⟩ rfl
  | fwPersist o m => exact sound_of (kept_execFwPersist rfl o m s (.refl _ s)) ⟨_, rfl⟩ rfl
  | fwStatus o m => exact sound_of (kept_execFwStatus rfl o m s (.refl _ s)) ⟨_, rfl⟩ rfl
  | rollbackAdvance o m => exact sound_of (kept_execRollbackAdvance rfl o m s (.refl _ s)) ⟨_, rfl⟩ rfl
  | attachState o m => exact sound_of (kept_execAttachState rfl o m s (.refl _ s)) ⟨_, rfl⟩ rfl
  | mailboxFence o m t => exact sound_of (kept_execMailboxFence rfl o m t s (.refl _ s)) ⟨_, rfl⟩ rfl
  | fwVerifyDone sigOk => exact sound_of (kept_execFwVerifyDone rfl sigOk s (.refl _ s)) (by fun_cases Machine.execFwVerifyDone <;> exact ⟨_, rfl⟩) rfl
  | fwActivateStep t => exact sound_of (kept_execFwActivateStep rfl t s (.refl _ s)) (by fun_cases Machine.execFwActivateStep <;> exact ⟨_, rfl⟩) rfl
  | fwPauseTimeout t => exact sound_of (kept_execFwPauseTimeout rfl t s (.refl _ s)) (by fun_cases Machine.execFwPauseTimeout <;> exact ⟨_, rfl⟩) rfl
  | fwPersistDone => exact sound_of (kept_execFwPersistDone rfl s (.refl _ s)) (by fun_cases Machine.execFwPersistDone <;> exact ⟨_, rfl⟩) rfl
  | rollbackBurnDone => exact sound_of (kept_execRollbackBurnDone rfl s (.refl _ s)) (by fun_cases Machine.execRollbackBurnDone <;> exact ⟨_, rfl⟩) rfl
  | watchdogExpire x t => exact sound_of (kept_execWatchdogExpire rfl x t s (.refl _ s)) (by fun_cases Machine.execWatchdogExpire <;> exact ⟨_, rfl⟩) rfl
  | processorRestartDone x => exact sound_of (kept_execProcessorRestartDone rfl x s (.refl _ s)) (by fun_cases Machine.execProcessorRestartDone <;> exact ⟨_, rfl⟩) rfl
  | heartbeatRead o stores ok t => exact sound_of (kept_execHeartbeatRead rfl o stores ok t s (.refl _ s)) (by fun_cases Machine.execHeartbeatRead <;> exact ⟨_, rfl⟩) rfl
  | drainObject q ix rd t => exact sound_of (kept_execDrainObject rfl q ix rd t s (.refl _ s)) answers_flashRun rfl
  | delete q ix t => exact sound_of (kept_execDelete rfl q ix t s (.refl _ s)) answers_flashRun rfl
  | stepSetup q ix => exact sound_of (kept_execStepSetup rfl q ix s (.refl _ s)) answers_regionRun rfl
  | stepPublish q ix => exact sound_of (kept_execStepPublish rfl q ix s (.refl _ s)) answers_regionRun rfl
  | stepDrain q ix t => exact sound_of (kept_execStepDrain rfl q ix t s (.refl _ s)) answers_regionRun rfl
  | stepOpen q ix => exact sound_of (kept_execStepOpen rfl q ix s (.refl _ s)) answers_regionRun rfl
  | stepRelease q ix => exact sound_of (kept_execStepRelease rfl q ix s (.refl _ s)) answers_regionRun rfl
  | liftObject q ix t => exact sound_of (kept_execLiftObject rfl q ix t s (.refl _ s)) answers_flashRun rfl
  | stat q ix => exact sound_of (kept_execStat rfl q ix s (.refl _ s)) answers_flashRun rfl
  | stepRestore q ix t => exact sound_of (kept_execStepRestore rfl q ix t s (.refl _ s)) answers_regionRun rfl
  | stepQuery q ix => exact sound_of (kept_execStepQuery rfl q ix s (.refl _ s)) answers_flashRun rfl
  | nvmeCompletion q ix read us t => exact sound_of (kept_execNvmeCompletion rfl q ix read us t s (.refl _ s)) (by fun_cases Machine.execNvmeCompletion <;> exact ⟨_, rfl⟩) rfl
  | stepDrainObjectDone q ix k ok t => exact sound_of (kept_execStepDrainObjectDone rfl q ix k ok t s (.refl _ s)) answers_execStepDrainObjectDone rfl
  | liftUnitDone q ix k unit ok t => exact sound_of (kept_execLiftUnitDone rfl q ix k unit ok t s (.refl _ s)) answers_execLiftUnitDone rfl
  | tierPathDone q ix k ok t => exact sound_of (kept_execTierPathDone rfl q ix k ok t s (.refl _ s)) (by fun_cases Machine.execTierPathDone <;> exact ⟨_, rfl⟩) rfl
  | flashDeadline q ix t => exact sound_of (kept_execFlashDeadline rfl q ix t s (.refl _ s)) (by fun_cases Machine.execFlashDeadline <;> exact ⟨_, rfl⟩) rfl
  | flashShareWindow t => exact sound_of (kept_execFlashShareWindow rfl t s (.refl _ s)) (by fun_cases Machine.execFlashShareWindow <;> exact ⟨_, rfl⟩) rfl
  | wearBucketRefill d t => exact sound_of (kept_execWearBucketRefill rfl d t s (.refl _ s)) (by fun_cases Machine.execWearBucketRefill <;> exact ⟨_, rfl⟩) rfl
  | driveIdentified d usable blocks => exact sound_of (kept_execDriveIdentified rfl d usable blocks s (.refl _ s)) (by fun_cases Machine.execDriveIdentified <;> exact ⟨_, rfl⟩) rfl
  | driveFailed d removed => exact sound_of (kept_execDriveFailed rfl d removed s (.refl _ s)) (by fun_cases Machine.execDriveFailed <;> exact ⟨_, rfl⟩) rfl
  | driveTimeout d link => exact sound_of (kept_execDriveTimeout rfl d link s (.refl _ s)) (by fun_cases Machine.execDriveTimeout <;> exact ⟨_, rfl⟩) rfl
  | partitionCreate q ix rd t => exact sound_of (kept_execPartitionCreate rfl q ix rd t s (.refl _ s)) (by fun_cases Machine.execPartitionCreate <;> exact ⟨_, rfl⟩) rfl
  | partitionLock q ix => exact sound_of (kept_execPartitionLock rfl q ix s (.refl _ s)) (by fun_cases Machine.execPartitionLock <;> exact ⟨_, rfl⟩) rfl
  | partitionRemove q ix t => exact sound_of (kept_execPartitionRemove rfl q ix t s (.refl _ s)) (by fun_cases Machine.execPartitionRemove <;> exact ⟨_, rfl⟩) rfl
  | egressDrainEnd p t => exact sound_of (kept_execEgressDrainEnd rfl p t s (.refl _ s)) (by fun_cases Machine.execEgressDrainEnd <;> exact ⟨_, rfl⟩) rfl
  | scrubComplete p t => exact sound_of (kept_execScrubComplete rfl p t s (.refl _ s)) (by fun_cases Machine.execScrubComplete <;> exact ⟨_, rfl⟩) rfl
  | encapKeyExpire report t => exact sound_of (kept_execEncapKeyExpire rfl report t s (.refl _ s)) (by fun_cases Machine.execEncapKeyExpire <;> exact ⟨_, rfl⟩) rfl
  | damperTick inp t => exact sound_of (kept_execDamperTick rfl inp t s (.refl _ s)) (by fun_cases Machine.execDamperTick <;> exact ⟨_, rfl⟩) rfl
  | levelStep t => exact sound_of (kept_execLevelStep rfl t s (.refl _ s)) (by fun_cases Machine.execLevelStep <;> exact ⟨_, rfl⟩) rfl
  | currentClamp milliA t => exact sound_of (kept_execCurrentClamp rfl milliA t s (.refl _ s)) (by fun_cases Machine.execCurrentClamp <;> exact ⟨_, rfl⟩) rfl
  | thermalClampStep r t => exact sound_of (kept_execThermalClampStep rfl r t s (.refl _ s)) (by fun_cases Machine.execThermalClampStep <;> exact ⟨_, rfl⟩) rfl
  | thermalTrip r => exact sound_of (kept_execThermalTrip rfl r s (.refl _ s)) (by fun_cases Machine.execThermalTrip <;> exact ⟨_, rfl⟩) rfl
  | hubTempRead hub temps => exact sound_of (kept_execHubTempRead rfl hub temps s (.refl _ s)) (by fun_cases Machine.execHubTempRead <;> exact ⟨_, rfl⟩) rfl
  | domainWakeDone d t => exact sound_of (kept_execDomainWakeDone rfl d t s (.refl _ s)) (by fun_cases Machine.execDomainWakeDone <;> exact ⟨_, rfl⟩) rfl
  | domainIdleReturn d t => exact sound_of (kept_execDomainIdleReturn rfl d t s (.refl _ s)) (by fun_cases Machine.execDomainIdleReturn <;> exact ⟨_, rfl⟩) rfl
  | transferCheckFail link lane fails e off t => exact sound_of (kept_execTransferCheckFail rfl link lane fails e off t s (.refl _ s)) (by fun_cases Machine.execTransferCheckFail <;> exact ⟨_, rfl⟩) rfl
  | eccError space addr uncorrectable t => exact sound_of (kept_execEccError rfl space addr uncorrectable t s (.refl _ s)) (by fun_cases Machine.execEccError <;> exact ⟨_, rfl⟩) rfl
  | laneSpare link module inward => exact sound_of (kept_execLaneSpare rfl link module inward s (.refl _ s)) (by fun_cases Machine.execLaneSpare <;> exact ⟨_, rfl⟩) rfl
  | linkModuleFence link module t => exact sound_of (kept_execLinkModuleFence rfl link module t s (.refl _ s)) ⟨_, rfl⟩ rfl
  | pseudoChannelFence c t => exact sound_of (kept_execPseudoChannelFence rfl c t s (.refl _ s)) ⟨_, rfl⟩ rfl
  | fenceRecordWrite => exact sound_of (kept_execFenceRecordWrite rfl s (.refl _ s)) ⟨_, rfl⟩ rfl
  | nodeFault powerKept => exact sound_of (kept_execNodeFault rfl powerKept s (.refl _ s)) (by fun_cases Machine.execNodeFault <;> exact ⟨_, rfl⟩) rfl
  | ref100Loss t => exact sound_of (kept_execRef100Loss rfl t s (.refl _ s)) (by fun_cases Machine.execRef100Loss <;> exact ⟨_, rfl⟩) rfl
  | pwrMate => exact sound_of (kept_execPwrMate rfl s (.refl _ s)) (by fun_cases Machine.execPwrMate <;> exact ⟨_, rfl⟩) rfl
  | powerGood recovery addr0 addr1 => exact sound_of (kept_execPowerGood rfl recovery addr0 addr1 s (.refl _ s)) (by fun_cases Machine.execPowerGood <;> exact ⟨_, rfl⟩) rfl
  | inputBrownout => exact sound_of (kept_execInputBrownout rfl s (.refl _ s)) (by fun_cases Machine.execInputBrownout <;> exact ⟨_, rfl⟩) rfl
  | inputOvervoltage => exact sound_of (kept_execInputOvervoltage rfl s (.refl _ s)) ⟨_, rfl⟩ rfl
  | inputUndervoltage => exact sound_of (kept_execInputUndervoltage rfl s (.refl _ s)) (by fun_cases Machine.execInputUndervoltage <;> exact ⟨_, rfl⟩) rfl
  | inputOvercurrent => exact sound_of (kept_execInputOvercurrent rfl s (.refl _ s)) ⟨_, rfl⟩ rfl
  | inputLatchReleaseLow => exact sound_of (kept_execInputLatchReleaseLow rfl s (.refl _ s)) (by fun_cases Machine.execInputLatchReleaseLow <;> exact ⟨_, rfl⟩) rfl
  | fuseReadDone entropy => exact sound_of (kept_execFuseReadDone rfl entropy s (.refl _ s)) (by fun_cases Machine.execFuseReadDone <;> exact ⟨_, rfl⟩) rfl
  | railsRamped => exact sound_of (kept_execRailsRamped rfl s (.refl _ s)) (by fun_cases Machine.execRailsRamped <;> exact ⟨_, rfl⟩) rfl
  | perstRelease t => exact sound_of (kept_execPerstRelease rfl t s (.refl _ s)) (by fun_cases Machine.execPerstRelease <;> exact ⟨_, rfl⟩) rfl
  | cxlLinkTrained alternate direct width gts => exact sound_of (kept_execCxlLinkTrained rfl alternate direct width gts s (.refl _ s)) (by fun_cases Machine.execCxlLinkTrained <;> exact ⟨_, rfl⟩) rfl
  | imagesVerified okA okB => exact sound_of (kept_execImagesVerified rfl okA okB s (.refl _ s)) (by fun_cases Machine.execImagesVerified <;> exact ⟨_, rfl⟩) rfl
  | processorsReleased => exact sound_of (kept_execProcessorsReleased rfl s (.refl _ s)) (by fun_cases Machine.execProcessorsReleased <;> exact ⟨_, rfl⟩) rfl
  | hbmTrained failed => exact sound_of (kept_execHbmTrained rfl failed s (.refl _ s)) (by fun_cases Machine.execHbmTrained <;> exact ⟨_, rfl⟩) rfl
  | startupClearDone badCores badUnits badModules => exact sound_of (kept_execStartupClearDone rfl badCores badUnits badModules s (.refl _ s)) (by fun_cases Machine.execStartupClearDone <;> exact ⟨_, rfl⟩) rfl
  | memoryActive t => exact sound_of (kept_execMemoryActive rfl t s (.refl _ s)) (by fun_cases Machine.execMemoryActive <;> exact ⟨_, rfl⟩) rfl
  | perstAssert => exact sound_of (kept_execPerstAssert rfl s (.refl _ s)) ⟨_, rfl⟩ rfl
  | resetPinRelease lowUs => exact sound_of (kept_execResetPinRelease rfl lowUs s (.refl _ s)) (by fun_cases Machine.execResetPinRelease <;> exact ⟨_, rfl⟩) rfl
  | resetLatchRelease => exact sound_of (kept_execResetLatchRelease rfl s (.refl _ s)) (by fun_cases Machine.execResetLatchRelease <;> exact ⟨_, rfl⟩) rfl
  | functionReset who => exact sound_of (kept_execFunctionReset rfl who s (.refl _ s)) (by fun_cases Machine.execFunctionReset <;> exact ⟨_, rfl⟩) rfl
  | ringEnable o => exact sound_of (kept_execRingEnable rfl o s (.refl _ s)) (by fun_cases Machine.execRingEnable <;> exact ⟨_, rfl⟩) rfl
  | ringDisable o => exact sound_of (kept_execRingDisable rfl o s (.refl _ s)) (by fun_cases Machine.execRingDisable <;> exact ⟨_, rfl⟩) rfl
  | ringReset o => exact sound_of (kept_execRingReset rfl o s (.refl _ s)) (by fun_cases Machine.execRingReset <;> exact ⟨_, rfl⟩) rfl
  | ringReattach o cfg => exact sound_of (kept_execRingReattach rfl o cfg s (.refl _ s)) (by fun_cases Machine.execRingReattach <;> exact ⟨_, rfl⟩) rfl
  | portLinkEnable port link => exact sound_of (kept_execPortLinkEnable rfl port link s (.refl _ s)) (by fun_cases Machine.execPortLinkEnable <;> exact ⟨_, rfl⟩) rfl
  | portLinkDisable port link t => exact sound_of (kept_execPortLinkDisable rfl port link t s (.refl _ s)) (by fun_cases Machine.execPortLinkDisable <;> exact ⟨_, rfl⟩) rfl
  | portDownClear port mask t => exact sound_of (kept_execPortDownClear rfl port mask t s (.refl _ s)) ⟨_, rfl⟩ rfl
  | snareBlockRelease b => exact sound_of (kept_execSnareBlockRelease rfl b s (.refl _ s)) (by fun_cases Machine.execSnareBlockRelease <;> exact ⟨_, rfl⟩) rfl
  | snareExtChange p v => exact sound_of (kept_execSnareExtChange rfl p v s (.refl _ s)) (by fun_cases Machine.execSnareExtChange <;> exact ⟨_, rfl⟩) rfl
  | flashSpillSlotsWrite p slots => exact sound_of (kept_execFlashSpillSlotsWrite rfl p slots s (.refl _ s)) (by fun_cases Machine.execFlashSpillSlotsWrite <;> exact ⟨_, rfl⟩) rfl
  | driveCfgWrite d v => exact sound_of (kept_execDriveCfgWrite rfl d v s (.refl _ s)) (by fun_cases Machine.execDriveCfgWrite <;> exact ⟨_, rfl⟩) rfl
  | nodeIdWrite v => exact sound_of (kept_execNodeIdWrite rfl v s (.refl _ s)) ⟨_, rfl⟩ rfl
  | forwardingEntryWrite n v => exact sound_of (kept_execForwardingEntryWrite rfl n v s (.refl _ s)) (by fun_cases Machine.execForwardingEntryWrite <;> exact ⟨_, rfl⟩) rfl
  | foreignEntryWrite e v => exact sound_of (kept_execForeignEntryWrite rfl e v s (.refl _ s)) (by fun_cases Machine.execForeignEntryWrite <;> exact ⟨_, rfl⟩) rfl
  | shadowEnable p k v => exact sound_of (kept_execShadowEnable rfl p k v s (.refl _ s)) (by fun_cases Machine.execShadowEnable <;> exact ⟨_, rfl⟩) rfl
  | msixUnmask o v => exact sound_of (kept_execMsixUnmask rfl o v s (.refl _ s)) (by fun_cases Machine.execMsixUnmask <;> exact ⟨_, rfl⟩) rfl
  | registerWrite o bar0 off size v t => exact sound_of (kept_execRegisterWrite rfl o bar0 off size v t s (.refl _ s)) (by fun_cases Machine.execRegisterWrite <;> exact ⟨_, rfl⟩) rfl
  | registerReadLowerHalf o bar0 off => exact sound_of (kept_execRegisterReadLowerHalf rfl o bar0 off s (.refl _ s)) (by fun_cases Machine.execRegisterReadLowerHalf <;> exact ⟨_, rfl⟩) rfl
  | monitorHelp => exact sound_of (kept_execMonitorHelp rfl s (.refl _ s)) ⟨_, rfl⟩ rfl
  | monitorVer => exact sound_of (kept_execMonitorVer rfl s (.refl _ s)) ⟨_, rfl⟩ rfl
  | monitorStatus => exact sound_of (kept_execMonitorStatus rfl s (.refl _ s)) ⟨_, rfl⟩ rfl
  | monitorTemp => exact sound_of (kept_execMonitorTemp rfl s (.refl _ s)) ⟨_, rfl⟩ rfl
  | monitorPower => exact sound_of (kept_execMonitorPower rfl s (.refl _ s)) ⟨_, rfl⟩ rfl
  | monitorTime => exact sound_of (kept_execMonitorTime rfl s (.refl _ s)) ⟨_, rfl⟩ rfl
  | monitorLog => exact sound_of (kept_execMonitorLog rfl s (.refl _ s)) ⟨_, rfl⟩ rfl
  | monitorBaud n => exact sound_of (kept_execMonitorBaud rfl n s (.refl _ s)) ⟨_, rfl⟩ rfl
  | monitorFw => exact sound_of (kept_execMonitorFw rfl s (.refl _ s)) ⟨_, rfl⟩ rfl
  | monitorHbm => exact sound_of (kept_execMonitorHbm rfl s (.refl _ s)) ⟨_, rfl⟩ rfl
  | peek off => exact sound_of (kept_execPeek rfl off s (.refl _ s)) ⟨_, rfl⟩ rfl
  | poke off v t => exact sound_of (kept_execPoke rfl off v t s (.refl _ s)) ⟨_, rfl⟩ rfl
  | fuseShow => exact sound_of (kept_execFuseShow rfl s (.refl _ s)) ⟨_, rfl⟩ rfl
  | fuseLoad k v => exact sound_of (kept_execFuseLoad rfl k v s (.refl _ s)) ⟨_, rfl⟩ rfl
  | fuseBurn readBackOk => exact sound_of (kept_execFuseBurn rfl readBackOk s (.refl _ s)) ⟨_, rfl⟩ rfl
  | fuseLifeProduction => exact sound_of (kept_execFuseLifeProduction rfl s (.refl _ s)) ⟨_, rfl⟩ rfl
  | monitorResetCold => exact sound_of (kept_execMonitorResetCold rfl s (.refl _ s)) ⟨_, rfl⟩ rfl
  | monitorResetWarm => exact sound_of (kept_execMonitorResetWarm rfl s (.refl _ s)) ⟨_, rfl⟩ rfl
  | monitorUnknown => exact sound_of (kept_execMonitorUnknown rfl s (.refl _ s)) ⟨_, rfl⟩ rfl
  | uartBreak => exact sound_of (kept_execUartBreak rfl s (.refl _ s)) ⟨_, rfl⟩ rfl
  | loaderHelp => exact sound_of (kept_execLoaderHelp rfl s (.refl _ s)) ⟨_, rfl⟩ rfl
  | loaderId => exact sound_of (kept_execLoaderId rfl s (.refl _ s)) ⟨_, rfl⟩ rfl
  | loaderBaud n => exact sound_of (kept_execLoaderBaud rfl n s (.refl _ s)) ⟨_, rfl⟩ rfl
  | key => exact sound_of (kept_execKey rfl s (.refl _ s)) ⟨_, rfl⟩ rfl
  | image kind n => exact sound_of (kept_execImage rfl kind n s (.refl _ s)) ⟨_, rfl⟩ rfl
  | loaderWrite sigOk => exact sound_of (kept_execLoaderWrite rfl sigOk s (.refl _ s)) ⟨_, rfl⟩ rfl
  | challenge v => exact sound_of (kept_execChallenge rfl v s (.refl _ s)) ⟨_, rfl⟩ rfl
  | loaderReturn => exact sound_of (kept_execLoaderReturn rfl s (.refl _ s)) ⟨_, rfl⟩ rfl
  | loaderBlock data crc sigOk => exact sound_of (kept_execLoaderBlock rfl data crc sigOk s (.refl _ s)) (by fun_cases Machine.execLoaderBlock <;> exact ⟨_, rfl⟩) rfl
  | loaderUnknown => exact sound_of (kept_execLoaderUnknown rfl s (.refl _ s)) ⟨_, rfl⟩ rfl
  | smbStatus => exact sound_of (kept_execSmbStatus rfl s (.refl _ s)) ⟨_, rfl⟩ rfl
  | smbLifecycle => exact sound_of (kept_execSmbLifecycle rfl s (.refl _ s)) ⟨_, rfl⟩ rfl
  | smbPower => exact sound_of (kept_execSmbPower rfl s (.refl _ s)) ⟨_, rfl⟩ rfl
  | smbTemp => exact sound_of (kept_execSmbTemp rfl s (.refl _ s)) ⟨_, rfl⟩ rfl
  | smbLevel => exact sound_of (kept_execSmbLevel rfl s (.refl _ s)) ⟨_, rfl⟩ rfl
  | smbAlertCause => exact sound_of (kept_execSmbAlertCause rfl s (.refl _ s)) (by fun_cases Machine.execSmbAlertCause <;> exact ⟨_, rfl⟩) rfl
  | smbVariant => exact sound_of (kept_execSmbVariant rfl s (.refl _ s)) ⟨_, rfl⟩ rfl
  | smbIdentity => exact sound_of (kept_execSmbIdentity rfl s (.refl _ s)) ⟨_, rfl⟩ rfl
  | smbAlertResponse => exact sound_of (kept_execSmbAlertResponse rfl s (.refl _ s)) ⟨_, rfl⟩ rfl
  | smbUnknown code => exact sound_of (kept_execSmbUnknown rfl code s (.refl _ s)) (by fun_cases Machine.execSmbUnknown <;> exact ⟨_, rfl⟩) rfl
  | handoffMemoryExpire p sender id t => exact sound_of (kept_execHandoffMemoryExpire rfl p sender id t s (.refl _ s)) ⟨_, rfl⟩ rfl
  | pauseTimeExpire port link cls t => exact sound_of (kept_execPauseTimeExpire rfl port link cls t s (.refl _ s)) (by fun_cases Machine.execPauseTimeExpire <;> exact ⟨_, rfl⟩) rfl
  | cxlLinkDown => exact sound_of (kept_execCxlLinkDown rfl s (.refl _ s)) ⟨_, rfl⟩ rfl
  | fmApiCommand code body => exact sound_of (kept_execFmApiCommand rfl code body s (.refl _ s)) (by fun_cases Machine.execFmApiCommand <;> exact ⟨_, rfl⟩) rfl
  | snareBlockClearDone b => exact sound_of (kept_execSnareBlockClearDone rfl b s (.refl _ s)) (by fun_cases Machine.execSnareBlockClearDone <;> exact ⟨_, rfl⟩) rfl
  | keyJournalErase => exact sound_of (kept_execKeyJournalErase rfl s (.refl _ s)) ⟨_, rfl⟩ rfl
  | aux3v3Loss => exact sound_of (kept_execAux3v3Loss rfl s (.refl _ s)) ⟨_, rfl⟩ rfl

/-- The state with the front of its queue taken. -/
def popped (s : State) : State := { s with pending := s.pending.tail }

theorem popped_of_pending_nil {s : State} (h : s.pending = []) : popped s = s := by
  rw [popped, h, List.tail_nil, ← h]

theorem shape_popped {s : State} (h : Shape s) : Shape (popped s) :=
  ⟨h.host, h.hbm, h.staging, h.owners, h.parts, h.cores, h.domains⟩

theorem step_sound (s : State) : Sound (popped s) (Machine.step s) := by
  cases h : s.pending with
  | nil => exact ⟨tick s, stepRunsFront.2 s h, (popped_of_pending_nil h).symm ▸ kept_tick rfl s (.refl _ s)⟩
  | cons c rest =>
    rw [stepRunsFront.1 c rest s h, popped, h]
    exact exec_sound c _

/-- Settles O55: what a step answers keeps the shape and the queue of the state without the command that it took. -/
theorem everyStepKeepsShape : Obligations.EveryStepKeepsShape := by
  refine ⟨fun s t run => ?_, fun s => ?_⟩
  · obtain ⟨u, answered, kept⟩ := step_sound s
    cases run.symm.trans answered
    exact ⟨fun shape => kept.shape (shape_popped shape), kept.pending⟩
  · obtain ⟨t, answered, _⟩ := step_sound s
    exact ⟨t, answered⟩

/-- Settles O54: the memories are empty after reset, and each list has the length with which it is made. -/
theorem shapeAtReset : Obligations.ShapeAtReset :=
  ⟨⟨rfl, rfl, rfl, rfl, rfl, rfl, rfl⟩, rfl⟩

end Sys2Proof.Proofs
end

section
/-!
The FOLD station: MERGE, EXACT and BATCH. A station that takes a descriptor runs its operation in the state in which its domains work (`stationRun_of_taken`), and an operation that nothing refuses answers the state that its clause names.
-/
namespace Sys2Proof.Proofs

open Sys2Proof.Machine (State exec)

section
variable {s u v w z : State} {q : Nat} {i : BitVec 32} {rd : HostRead} {d : Desc} {tb : Option ScaleTable} {bs out : List Byte} {c x : Nat}

theorem stationRun_of_taken {opcode subop : Nat} {ks : List Nat} (h : Taken s q i opcode subop ks d) (k : Desc → State → State) :
    stationRun s q i opcode subop ks k = .next (k d (atWork s (needs s d ks))) := by
  obtain ⟨ready, onTime, idle, lifted, awake⟩ := h
  rw [stationRun, ready]
  dsimp only
  rw [if_neg (by simp [onTime]), if_neg (by simp [idle]), if_neg (by simp [lifted])]
  exact congrArg _ (withDoms_of_domsOn awake _)

/-! ### MERGE (R148 to R150, R161, R163) -/

/-- The head dimension that a MERGE names. -/
abbrev mergeDim (d : Desc) : Nat := (dimOf (fld (d.w 2) 2 0)).getD 64

/-- How many vectors a MERGE gives. -/
abbrev mergeQs (d : Desc) : Nat := fld (d.w 2) 54 48 + 1

/-- How many partials a MERGE takes for each vector. -/
abbrev mergeSlots (d : Desc) : Nat := fld (d.w 2) 21 16 + 1

/-- The bytes of a partial that a MERGE takes. -/
abbrev mergeStride (d : Desc) : Nat := partialBytes (mergeDim d) (bit (d.w 2) 56)

/-- The partials that a MERGE takes. -/
abbrev mergeInputs (d : Desc) (bs : List Byte) : List Partial :=
  (List.range (mergeSlots d * mergeQs d)).map fun k => readPartial (mergeDim d) (bit (d.w 2) 56) (slice bs (k * mergeStride d) (mergeStride d))

/-- What a MERGE makes of its partials. -/
abbrev mergeOutput (d : Desc) (tb : Option ScaleTable) (bs : List Byte) (v : State) : List Byte × State :=
  mergeVectors (mergeDim d) (if bit (d.w 2) 55 then some (headScales tb (fld (d.w 2) 39 32) (fld (d.w 2) 45 40) (mergeDim d)).2 else none) (bit (d.w 2) 57)
    ((List.range (mergeQs d)).map fun v => (List.range (mergeSlots d)).map fun k => (mergeInputs d bs).getD (k * mergeQs d + v) ⟨0, 0, []⟩) v

/-- A MERGE that nothing refuses before its work, and the core that has room for it. -/
structure MergeLegal (u : State) (d : Desc) (tb : Option ScaleTable) (c x : Nat) : Prop where
  body : bodyOk d.cur [maskOf 57 48 ||| maskOf 45 32 ||| maskOf 21 16 ||| maskOf 2 0, allBits, allBits, 0#64, 0#64, maskOf 63 56] = true
  dimCode : fld (d.w 2) 2 0 ≤ 4
  table : (if bit (d.w 2) 55 then scaleOf d (fld (d.w 7) 63 56) (fld (d.w 2) 39 32) (fld (d.w 2) 45 40 + 1) (fld (d.w 2) 2 0) else .ok none) = .ok tb
  named : inputBreach d 3 = false
  size : inputSize d = mergeSlots d * mergeQs d * mergeStride d
  fits : mergeQs d * partialBytes (mergeDim d) (bit (d.w 2) 57) ≤ 65536
  core : pieceCore u d.owner (mergeBytes d) = some c
  serves : coreOf u c = some x
  awake : domsOn u [4 + x] = true

theorem usableCores_ne_nil_of_pieceCore {o : Owner} {n : Nat} (h : pieceCore u o n = some c) : usableCores u o ≠ [] := by
  intro none
  rw [pieceCore, none] at h
  cases h

theorem onCore_of_serves (serves : coreOf u c = some x) (awake : domsOn u [4 + x] = true) (k : State → State) : onCore u c k = k (atWork u [4 + x]) := by
  rw [onCore, serves]
  exact withDoms_of_domsOn awake k

theorem findIdx?_badPartial_of_all {ps : List Partial} (sound : ps.all (fun p => !badPartial p) = true) : ps.findIdx? badPartial = none := by
  simpa using sound

theorem mergeRun_of_legal (legal : MergeLegal u d tb c x) (input : tileInput (atWork u [4 + x]) d 3 rd = .ok bs)
    (sound : (mergeInputs d bs).all (fun p => !badPartial p) = true) (merged : (out, w) = mergeOutput d tb bs (atWork u [4 + x])) (written : writeOut w d 4 out = .ok z) :
    mergeRun rd d u = putDesc z { d.finish stDone 0 (some ((mergeInputs d bs).filter fun p => p.m != 0xFF800000).length) (some 0) with output := some { bytes := out } } := by
  obtain ⟨body, dimCode, table, named, size, fits, core, serves, awake⟩ := legal
  have usable : (usableCores u d.owner).isEmpty = false := List.isEmpty_eq_false_iff.2 (usableCores_ne_nil_of_pieceCore core)
  rw [mergeRun]
  dsimp only
  rw [if_neg (by simp [body, dimCode]), table]
  dsimp only
  rw [if_neg (by simp [named, size]), if_neg (Nat.not_lt.2 fits), if_neg (by simp [usable]), core]
  dsimp only
  rw [onCore_of_serves serves awake, input]
  dsimp only
  rw [findIdx?_badPartial_of_all sound]
  dsimp only
  obtain ⟨rfl, rfl⟩ := Prod.mk.inj merged
  rw [written]

theorem merge_of_legal (taken : Taken s q i 0x04 1 [3, 4] d) (hu : u = atWork s (needs s d [3, 4])) (legal : MergeLegal u d tb c x) (input : tileInput (atWork u [4 + x]) d 3 rd = .ok bs)
    (sound : (mergeInputs d bs).all (fun p => !badPartial p) = true) (merged : (out, w) = mergeOutput d tb bs (atWork u [4 + x])) (written : writeOut w d 4 out = .ok z) :
    exec (.merge q i rd) s = .next (putDesc z { d.finish stDone 0 (some ((mergeInputs d bs).filter fun p => p.m != 0xFF800000).length) (some 0) with output := some { bytes := out } }) := by
  change stationRun s q i 0x04 1 [3, 4] (mergeRun rd) = _
  rw [stationRun_of_taken taken, ← hu, mergeRun_of_legal legal input sound merged written]

/-! ### EXACT (R151 to R154) -/

/-- The format of an EXACT's query, and the bytes of one of its elements. -/
abbrev exactFmt (d : Desc) : FloatFmt × Nat := queryFmt (fld (d.w 2) 57 56)

/-- The bytes of the partials that an EXACT writes. -/
abbrev exactSize (d : Desc) (r : SeqRec) : Nat := (exactReqOf d).qcount * partialBytes r.dim (bit (d.w 2) 58)

/-- An EXACT that nothing refuses: its body, its cores, its sequence, its scale table and its places are legal. -/
structure ExactLegal (u : State) (p : Fin 16) (d : Desc) (r : SeqRec) (tb : Option ScaleTable) : Prop where
  body : bodyOk d.cur [maskOf 58 48 ||| maskOf 45 0, maskOf 56 32 ||| maskOf 24 0, maskOf 63 32 ||| maskOf 24 0, allBits, allBits, maskOf 63 55 ||| maskOf 45 40 ||| maskOf 6 0] = true
  format : fld (d.w 2) 57 56 ≠ 3
  limit : fld (d.w 7) 6 0 ≤ 64
  softmax : scaleLegal (fld (d.w 4) 63 32) = true
  named : inputBreach d 5 = false
  grouped : (exactReqOf d).qcount % (exactReqOf d).group = 0
  usable : usableCores u d.owner ≠ []
  found : visibleSeq u p (exactReqOf d).seq = some r
  whole : seqLost u p r = false
  inLayers : (exactReqOf d).layer < r.layers
  inHeads : (exactReqOf d).head < r.nheads
  table : scaleOf d (fld (d.w 7) 63 56) (exactReqOf d).layer ((exactReqOf d).head + 1) r.dimCode = .ok tb
  size : inputSize d = (exactReqOf d).qcount * r.dim * (exactFmt d).2
  fits : exactSize d r ≤ 65536
  output : outProblem u d 6 (exactSize d r) = none

/-- The query that an EXACT holds while it runs. -/
abbrev exactHeld (d : Desc) (r : SeqRec) (tb : Option ScaleTable) (bs : List Byte) : List Byte :=
  heldQuery (foldQuery32 (exactFmt d).1 (exactFmt d).2 r.dim (exactReqOf d).qcount (fld (d.w 4) 63 32) (headScales tb (exactReqOf d).layer (exactReqOf d).head r.dim).1 bs)

theorem exactRun_of_legal {p : Fin 16} {r : SeqRec} (ho : d.owner = .part p) (legal : ExactLegal u p d r tb) (input : tileInput u d 5 rd = .ok bs) :
    exactRun rd d u = putDesc u { d with phase := .running, detail := 0, billed := 0, dim := r.dim, fmt := r.format, held := exactHeld d r tb bs } := by
  obtain ⟨body, format, limit, softmax, named, grouped, usable, found, whole, inLayers, inHeads, table, size, fits, output⟩ := legal
  rw [exactRun]
  dsimp only
  rw [if_neg (by simp [body, format, limit, softmax]), if_neg (by simp [named, grouped]), if_neg (by simpa using usable)]
  split
  next none => cases ho.symm.trans none
  next p' own =>
    cases ho.symm.trans own
    rw [found]
    dsimp only
    rw [if_neg (by simp [whole]), if_neg (by omega), table]
    dsimp only
    rw [if_neg (by simp [size]), if_neg (Nat.not_lt.2 fits), output]
    dsimp only
    rw [input]

theorem foldExact_of_legal {p : Fin 16} {r : SeqRec} (taken : Taken s q i 0x04 2 [5, 6] d) (active : memActive s = true) (locked : d.locked = true)
    (hu : u = atWork s (needs s d [5, 6])) (ho : d.owner = .part p) (legal : ExactLegal u p d r tb) (input : tileInput u d 5 rd = .ok bs) :
    exec (.foldExact q i rd) s = .next (putDesc u { d with phase := .running, detail := 0, billed := 0, dim := r.dim, fmt := r.format, held := exactHeld d r tb bs }) := by
  change Machine.execFoldExact q i rd s = _
  rw [Machine.execFoldExact, taken.ready]
  dsimp only
  rw [if_pos (by simp [active, locked]), stationRun_of_taken taken, ← hu, exactRun_of_legal ho legal input]

/-! ### BATCH (R157 to R160, R178, R182) -/

/-- A BATCH that the station does not refuse: its body, its cores and the input that it has read, as far as its header and its entries go. -/
structure BatchLegal (u : State) (d : Desc) (bs : List Byte) : Prop where
  body : bodyOk d.cur [allBits, allBits, maskOf 6 0] = true
  limit : fld (d.w 4) 6 0 ≤ 64
  named : inputBreach d 2 = false
  size : 48 ≤ inputSize d
  usable : usableCores u d.owner ≠ []
  whole : 32 + 16 * batchCount bs ≤ bs.length
  header : batchHeaderOk bs = true
  entries : batchBadEntry bs = none
  grouped : batchQ bs % (fld (wd (batchHeader bs) 0) 37 32 + 1) = 0

/-- Whether a BATCH keeps its hold on a scale table: it names the table, or it is a step of a program. -/
def batchNamed (d : Desc) (bs : List Byte) (k : Nat) : Bool := k == (batchNames bs).2 || d.prog.isSome

/-- The locks that a BATCH still has to ask for. -/
abbrev batchWants (p : Fin 16) (d : Desc) (bs : List Byte) : List (Nat × Nat × Bool) :=
  (((batchReqs bs).map fun a => (p.val, a.seq, false)).filter fun x => !d.locks.any fun y => y.1 == x.1 && y.2.1 == x.2.1).eraseDups

/-- A BATCH with its input, the locks that it asks for and the scale tables that it keeps. -/
abbrev batchTaken (p : Fin 16) (d : Desc) (bs : List Byte) (names : Nat → Bool) : Desc :=
  { d with held := bs, locks := d.locks ++ batchWants p d bs, scale := d.scale.filter fun e => names e.1 }

/-- The state in which a BATCH has given up the scale tables that it does not name. -/
abbrev scalesFreed (u : State) (d : Desc) (names : Nat → Bool) : State :=
  freeScales (putDesc u { d with scale := d.scale.filter fun e => names e.1 }) { d with scale := d.scale.filter fun e => !names e.1 }

theorem batchRun_of_legal {p : Fin 16} {names : Nat → Bool} (ho : d.owner = .part p) (legal : BatchLegal u d bs) (input : earlyInput d 2 rd 2 (tileInput u d 2 rd) = .ok bs)
    (hn : names = batchNamed d bs) (free : lockFree (scalesFreed u d names) (batchTaken p d bs names) = true) :
    batchRun rd d u = batchJudge { batchTaken p d bs names with heldLocks := (batchTaken p d bs names).locks } (scalesFreed u d names) := by
  obtain ⟨body, limit, named, size, usable, whole, header, entries, grouped⟩ := legal
  rw [batchRun, if_neg (by simp [body, limit]), if_neg (by simp [named, size]), input]
  dsimp only
  rw [if_neg (Nat.not_lt.2 whole), if_neg (by simp [header]), entries]
  dsimp only
  rw [if_neg (by simp [grouped]), if_neg (by simpa using usable)]
  split
  next none => cases ho.symm.trans none
  next p' own =>
    cases ho.symm.trans own
    subst hn
    exact if_pos free

theorem batch_of_legal {p : Fin 16} {names : Nat → Bool} (taken : Taken s q i 0x04 3 [2, 3] d) (active : memActive s = true) (first : d.held = [])
    (hu : u = atWork s (needs s d [2, 3])) (ho : d.owner = .part p) (legal : BatchLegal u d bs) (input : earlyInput d 2 rd 2 (tileInput u d 2 rd) = .ok bs)
    (hn : names = batchNamed d bs) (free : lockFree (scalesFreed u d names) (batchTaken p d bs names) = true) :
    exec (.batch q i rd) s = .next (batchJudge { batchTaken p d bs names with heldLocks := (batchTaken p d bs names).locks } (scalesFreed u d names)) := by
  change Machine.execBatch q i rd s = _
  rw [Machine.execBatch, taken.ready]
  dsimp only
  rw [if_neg (by simp [active]), if_pos (by simp [first]), stationRun_of_taken taken, ← hu, batchRun_of_legal ho legal input hn free]

theorem batch_of_locked (hd : stationDesc s q i 0x04 3 = some d) (active : memActive s = true) (read : d.held ≠ []) (locked : d.locked = true) :
    exec (.batch q i rd) s = .next (batchJudge d s) := by
  change Machine.execBatch q i rd s = _
  rw [Machine.execBatch, hd]
  dsimp only
  rw [if_neg (by simp [active]), if_neg (by simp [read]), if_pos locked]

end
end Sys2Proof.Proofs
end

section
/-!
A physical core that is fenced (R169, R170): its mark and its lost pieces, and what the fence leaves of the cores and of the counts of faults.
-/
namespace Sys2Proof.Proofs

open Sys2Proof.Machine (State exec)
open Sys2Proof.Laws

section
variable {s z : State} {x F : Nat}

theorem kept_atWork (hF : Sub 17179869184 F) (ds : List Nat) (h : Kept F z s) : Kept F z (atWork s ds) :=
  foldl_kept h fun _ _ kept => kept_modDom hF _ _ _ kept

/-- A physical core that is fenced: it holds no piece. -/
abbrev coreFenced (c : CoreS) : CoreS := { c with fenced := true, pieces := [] }

theorem core_modify_self (hx : x < s.cores.length) (f : CoreS → CoreS) : (s.cores.modify x f).getD x {} = f (s.cores.getD x {}) := by
  simp [hx]

theorem corrected_logError (s : State) (cause unitKind : Nat) (part : Option Nat) (unit : Nat) (arg : Word) :
    (logError s cause unitKind part unit arg).faults.corrected = s.faults.corrected := by
  rw [logError]
  extract_lets
  split
  · rfl
  · dsimp only
    split <;> rfl

theorem corrected_noteFence (s : State) (kind number : Nat) : (noteFence s kind number).faults.corrected = s.faults.corrected := rfl

/-- A fence marks its core and changes no other; the errors corrected stay counted. -/
theorem fenceCore_of_unfenced (unfenced : (s.cores.getD x {}).fenced = false) (hx : x < 68) :
    (fenceCore s x).cores = s.cores.modify x coreFenced ∧ (fenceCore s x).faults.corrected = s.faults.corrected := by
  rw [fenceCore, if_neg (by rw [unfenced]; simp [hx])]
  extract_lets c marked off logged noted
  have cores : noted.cores = marked.cores :=
    (kept_noteFence rfl _ _ _ (kept_logError rfl _ _ _ _ _ _ (kept_modDom rfl _ _ _ (.refl (partSet [.power, .faults]) marked)))).same .cores rfl
  have corrected : noted.faults.corrected = s.faults.corrected := (corrected_noteFence ..).trans (corrected_logError ..)
  clear_value noted c
  cases c with
  | none => exact ⟨cores, corrected⟩
  | some c =>
    let redone := endUnserved { noted with flight := noted.flight.map fun d => redoPages noted d c }
    have after : Kept (partSet [.out, .host, .owners, .flight, .frames, .flash]) noted (postFence redone (coreOwner redone c) 2 c (BitVec.ofNat 64 ((spareCore redone).getD 0xFF))) :=
      kept_postFence rfl _ _ _ _ _ (kept_endUnserved rfl _ (kept_mk (.refl _ noted) (k14 := .inr rfl)))
    exact ⟨(after.same .cores rfl).trans cores, (congrArg _ (after.same .faults rfl)).trans corrected⟩

theorem core_fenceCore (unfenced : (s.cores.getD x {}).fenced = false) (hx : x < 68) (there : x < s.cores.length) :
    (fenceCore s x).cores.getD x {} = coreFenced (s.cores.getD x {}) := by
  rw [(fenceCore_of_unfenced unfenced hx).1, core_modify_self there]

end
end Sys2Proof.Proofs
end

section
/-!
Pages over the package links and on the cores, pieces that move, and the commands that fence a core and give its number to a spare. In each command that has its own effect the refusals are passed one by one, and what
is left is the state that its clause names.
-/
namespace Sys2Proof.Proofs

open Sys2Proof.Machine (State exec)
open Sys2Proof.Laws

section
variable {s u v : State} {q k t c x : Nat} {i : BitVec 32} {p : Fin 16} {d : Desc} {w : PageWork}

/-! ### A page over the links (R143, R153, R155) -/

/-- Page k of a running walk waits for the package links, whose bank pair and stack are free (R114, R488). -/
structure ReadDue (s : State) (q : Nat) (i : BitVec 32) (p : Fin 16) (d : Desc) (k : Nat) (w : PageWork) (f : FrameAddr) (t : Nat) : Prop where
  found : findDesc s q i = some d
  owner : d.owner = .part p
  page : d.pages[k]? = some w
  frame : w.frame = some f
  running : d.phase = .running
  links : w.route = .links
  queued : w.state = .queued
  idle : pairBusy s f.unit = false
  awake : domsOn (atTime s t) [84 + f.ext / 96] = true

/-- The core for which a page is read: its own, or the owner's with the fewest pages queued (R161). -/
abbrev readCore (v : State) (d : Desc) (w : PageWork) : Option Nat :=
  match w.core with
  | some c => some c
  | none => leastCore v (usableCores v d.owner)

/-- The page's bytes may cross the links now, its core has room for them, and they come sound (R143, R155). -/
structure ReadSound (v : State) (p : Fin 16) (d : Desc) (w : PageWork) (f : FrameAddr) (c : Nat) : Prop where
  share : shareOk v (caps v).2.1 (fun p => (getPart v p).exactCeil) v.exactUsed
    (ownersWith v fun x => x.phase == .running && x.pages.any fun w => w.route == .links && w.state == .queued) p (linkBytes v p w d.dim) = true
  room : streamBytes v c + linkBytes v p w d.dim ≤ streamRegion
  clean : pagePoisoned v p f (getFrame v f).format d.dim = false
  checked : (getFrame v f).fill = 16 → (crc32c (storedBytes v p f (getFrame v f).format d.dim)).toNat = (getFrame v f).check
  core : readCore v d w = some c

theorem exactPageRead_of_sound {f : FrameAddr} (due : ReadDue s q i p d k w f t) (hv : v = exactWindowAt (atWork (atTime s t) [84 + f.ext / 96])) (sound : ReadSound v p d w f c) :
    exec (.exactPageRead q i k 0 false t) s = .next (putDesc { v with exactUsed := assign v.exactUsed p.val (usedOf v.exactUsed p.val + linkBytes v p w d.dim) }
      (d.setPage k fun w => { w with state := .read, core := some c, order := nextOrder v })) := by
  obtain ⟨found, owner, page, frame, running, links, queued, idle, awake⟩ := due
  obtain ⟨share, room, clean, checked, core⟩ := sound
  change Machine.execExactPageRead q i k 0 false t s = _
  rw [Machine.execExactPageRead, found]
  dsimp -zeta only
  rw [owner, page]
  dsimp -zeta only
  rw [frame]
  dsimp -zeta only
  rw [if_neg (by simp [running, links, queued]), if_neg (by simp [idle]), withDoms_of_domsOn awake, ← hv]
  extract_lets v' bytes core' x moved room' waiting s1 s2 s3 s4
  have served : core' = some c := by
    rw [readCore, owner] at core
    exact core
  have once : moved = bytes := if_neg (by simp)
  have counted : s4 = { v with exactUsed := assign v.exactUsed p.val (usedOf v.exactUsed p.val + linkBytes v p w d.dim) } :=
    (if_neg (by simp)).trans (by simp only [s1, once, bytes, v'])
  have fits : room' = true := by
    simp only [room', served]
    exact decide_eq_true room
  have unread : ¬(x.fill = 16 ∧ (2 ≤ 0 ∨ (crc32c (storedBytes s1 p f x.format d.dim)).toNat ≠ x.check)) := by
    rintro ⟨full, bad | bad⟩
    · omega
    · exact bad (checked full)
  rw [if_neg (by rw [once, fits]; simp [share, bytes, waiting, v']), if_neg (by rw [Bool.false_or]; exact ne_true_of_eq_false clean), if_neg unread, served]
  dsimp only
  rw [counted]
  rfl

/-! ### A page on a core (R145, R156, R161, R217) -/

/-- Page k of a running walk has been read, and its core takes it next: its piece runs there, and no page stands before it. -/
structure PageDue (s : State) (q : Nat) (i : BitVec 32) (p : Fin 16) (d : Desc) (k : Nat) (w : PageWork) (c x fmt : Nat) (blocks : List (Nat × Word × List Byte)) (stored : Nat) : Prop where
  found : findDesc s q i = some d
  owner : d.owner = .part p
  page : d.pages[k]? = some w
  core : w.core = some c
  serves : coreOf s c = some x
  data : corePageData s p w d.dim = some (fmt, blocks, stored)
  running : d.phase = .running
  onCore : w.route ≠ .bank
  read : w.state = .read
  ready : pageReady s x d w = true
  first : servedAfter s x w = false
  awake : domsOn s [4 + x] = true

/-- The stall cycles of a page that a core takes for one piece. -/
abbrev pageStall (d : Desc) (w : PageWork) (fmt : Nat) (blocks : List (Nat × Word × List Byte)) (stored : Nat) : Nat :=
  stallCycles d.tables fmt d.dim (pageVectors ((attnReqs d)[w.entry]?.getD (attendReqOf d)) (d.ranges.getD w.entry (0, 0)).1 (d.ranges.getD w.entry (0, 0)).2 w.page) stored blocks

/-- The descriptor when the page is done, before its stall cycles count. -/
abbrev pageDone (d : Desc) (k fmt : Nat) (image : List Byte) : Desc := d.setPage k fun w => { w with state := .done, data := some (fmt, image) }

/-- The descriptor when the page is done: a FOLD bills its stall cycles (R156). -/
def pageBilled (d : Desc) (k : Nat) (w : PageWork) (fmt : Nat) (blocks : List (Nat × Word × List Byte)) (stored : Nat) (image : List Byte) : Desc :=
  if (pageDone d k fmt image).opcode = 0x04 then { pageDone d k fmt image with billed := (pageDone d k fmt image).billed + pageStall d w fmt blocks stored } else pageDone d k fmt image

variable {fmt stored : Nat} {blocks : List (Nat × Word × List Byte)} {image : List Byte}

theorem corePage_of_image (due : PageDue s q i p d k w c x fmt blocks stored) (hu : u = takePiece (atWork s [4 + x]) x d (pieceBytes d w))
    (decoded : (if fmt = 0x30 then decodeBlocks d.tables blocks else .ok (corePageBytes u p w d.dim)) = .ok image) (untried : w.first = none) :
    exec (.corePage q i k false) s = .next
      (if (pageBilled d k w fmt blocks stored image).opcode = 0x04 ∧ (pageBilled d k w fmt blocks stored image).pages.all (fun w => w.state == .done) = true then
        finishFold (putDesc u (pageBilled d k w fmt blocks stored image)) (pageBilled d k w fmt blocks stored image) else putDesc u (pageBilled d k w fmt blocks stored image)) := by
  obtain ⟨found, owner, page, core, serves, data, running, onCore, read, ready, first, awake⟩ := due
  have there : findDesc u q i = some d := by rw [hu]; exact found
  have back : findDesc (putDesc u (pageBilled d k w fmt blocks stored image)) q i = some (pageBilled d k w fmt blocks stored image) :=
    findDesc_putDesc there (by rw [pageBilled]; split <;> rfl) (by rw [pageBilled]; split <;> rfl)
  change Machine.execCorePage q i k false s = _
  rw [Machine.execCorePage, found]
  dsimp -zeta only
  rw [owner, page]
  dsimp -zeta only
  rw [core, Option.bind_some, serves, data]
  dsimp -zeta only
  rw [if_neg (by simp [running, onCore, read]), if_neg (by simp [ready, first]), withDoms_of_domsOn awake, ← hu, untried]
  extract_lets u' tables image'
  have good : image' = .ok image := decoded
  rw [good]
  dsimp -zeta only
  extract_lets done billed placed served
  rw [show findDesc served q i = some billed from back]
  rfl

theorem pageBilled_of_sweep (sweep : d.opcode = 0x03) : pageBilled d k w fmt blocks stored image = pageDone d k fmt image := by
  rw [pageBilled, if_neg (by rw [show (pageDone d k fmt image).opcode = d.opcode from rfl, sweep]; decide)]

theorem pageBilled_of_fold (fold : d.opcode = 0x04) :
    pageBilled d k w fmt blocks stored image = { pageDone d k fmt image with billed := (pageDone d k fmt image).billed + pageStall d w fmt blocks stored } := if_pos fold

/-! ### Pieces (R162) -/

variable {e : Nat × BitVec 32 × Nat × Nat × Nat}

/-- The state in which a piece of a core has moved to another place. -/
abbrev pieceMoved (s : State) (c : Nat) (e : Nat × BitVec 32 × Nat × Nat × Nat) (place : Nat) : State :=
  { s with cores := s.cores.modify c fun y => { y with pieces := y.pieces.map fun x => if x = e then (x.1, x.2.1, x.2.2.1, place, x.2.2.2.2) else x } }

theorem kept_pieceMoved (s : State) (ds : List Nat) (c : Nat) (e : Nat × BitVec 32 × Nat × Nat × Nat) (place : Nat) :
    Kept (partSet [.cores, .power]) s (pieceMoved (atWork s ds) c e place) := by
  have worked : Kept (partSet [.cores, .power]) s (atWork s ds) := kept_atWork rfl ds (.refl _ s)
  exact kept_mk worked (k23 := .inr rfl)

theorem cores_pieceMoved (s : State) (ds : List Nat) (c : Nat) (e : Nat × BitVec 32 × Nat × Nat × Nat) (place : Nat) :
    (pieceMoved (atWork s ds) c e place).cores = (pieceMoved s c e place).cores :=
  congrArg (fun xs : List CoreS => xs.modify c _) ((kept_atWork rfl ds (.refl (partSet [.power]) s)).same .cores rfl)

section
variable (wanted : roomWanted s c = true) (oldest : (s.cores.getD c {}).pieces.find? (fun e => e.2.2.2.1 == 0) = some e) (hd : findDesc s e.1 e.2.1 = some d)
include wanted oldest hd

theorem pieceMove_to_staging (room : heldBytes s d.owner + movedBytes s d.owner 1 + e.2.2.1 ≤ stagingBytes s d.owner) (awake : domsOn s (Loc.staging 0 0).doms = true) :
    exec (.pieceMove c) s = .next (pieceMoved (atWork s (Loc.staging 0 0).doms) c e 1) := by
  change Machine.execPieceMove c s = _
  rw [Machine.execPieceMove, if_pos wanted, oldest]
  dsimp only
  rw [hd]
  dsimp only
  rw [if_pos room, withDoms_of_domsOn awake]

theorem pieceMove_to_spill (full : stagingBytes s d.owner < heldBytes s d.owner + movedBytes s d.owner 1 + e.2.2.1) (room : spillRoom s d.owner e.2.2.1 = true) :
    exec (.pieceMove c) s = .next (putDesc (pieceMoved s c e 2) { d with moved := true }) := by
  change Machine.execPieceMove c s = _
  rw [Machine.execPieceMove, if_pos wanted, oldest]
  dsimp only
  rw [hd]
  dsimp only
  rw [if_neg (Nat.not_le.2 full), if_pos room]

end

/-! ### Core fences and spares (R169, R170, R489) -/

/-- CORE_FENCE fences its core in a state with the same cores: it may have made an entry in the error log. -/
theorem coreFence_fences (c t : Nat) (s : State) : ∃ v, v.cores = s.cores ∧ exec (.coreFence c t) s = .next (fenceCore v c) := by
  refine ⟨_, ?_, rfl⟩
  split
  · exact (kept_logError rfl _ _ _ _ _ _ (.refl (partSet [.faults]) _)).same .cores rfl
  · rfl

theorem spareAssign_of_fenced {n : Nat} (number : s.coreMap.findIdx? (· == n) = some c) (spare : spareCore s = some x) (fenced : (s.cores.getD n {}).fenced = true)
    (hu : u = { s with coreMap := s.coreMap.set c x, cores := s.cores.modify x fun y => { y with pieces := [] } }) :
    exec (.spareAssign n) s = .next (modDom u (4 + x) fun y => { y with commanded := (getDom s (4 + n)).commanded, present := (getDom s (4 + n)).commanded, wake := none }) := by
  change Machine.execSpareAssign n s = _
  rw [Machine.execSpareAssign, number, spare]
  dsimp only
  rw [if_pos fenced, hu]

end
end Sys2Proof.Proofs
end

section
/-!
The FOLD station and the cores: their statement, from what each of their commands does.
-/
namespace Sys2Proof.Proofs

open Sys2Proof.Machine (State exec)
open Sys2Proof.Laws

/-- Settles O47, from what each command of the FOLD station and of the cores answers in the state that its clause names. The merged values are free within the bounds of R166, which `mergeVectors` keeps (log entry 12). -/
theorem folds : Obligations.Folds := by
  refine ⟨?_, ?_, ?_, ?_, ?_, ?_, ?_, ?_, ?_, ?_⟩
  · rintro q n slots qs c x i rd d dim tb bs out ps u v w z s taken hu body dimCode rfl rfl rfl table rfl named size fits core serves awake rfl input rfl sound merged written
    exact merge_of_legal taken hu ⟨body, dimCode, table, named, size, fits, core, serves, awake⟩ input sound merged written
  · rintro q i rd p d a r tb bs u s taken active locked hu ho rfl body format limit softmax named grouped usable found whole inLayers inHeads table size fits output input
    exact foldExact_of_legal taken active locked hu ho
      ⟨body, format, limit, softmax, named, grouped, usable, found, whole, inLayers, inHeads, table, size, fits, output⟩ input
  · rintro q i rd p d d' bs names u w s taken active first hu ho body limit named size usable input whole header entries grouped hn rfl rfl free
    exact batch_of_legal taken active first hu ho ⟨body, limit, named, size, usable, whole, header, entries, grouped⟩ input hn free
  · exact fun q i rd d s hd active read locked => batch_of_locked hd active read locked
  · intro q k t c i p d w f v s found owner page frame running links queued idle awake hv share room clean checked core
    exact exactPageRead_of_sound ⟨found, owner, page, frame, running, links, queued, idle, awake⟩ hv ⟨share, room, clean, checked, core⟩
  · rintro q k c x stored n i p d e w fmt blocks image u s found owner page core serves data running onCore read ready first awake hu decoded untried rfl rfl
    have run := corePage_of_image ⟨found, owner, page, core, serves, data, running, onCore, read, ready, first, awake⟩ hu decoded untried
    refine ⟨fun sweep => ?_, fun fold left => ?_, fun fold all => ?_⟩
    · rw [run, pageBilled_of_sweep sweep, if_neg]
      rintro ⟨fold, _⟩
      cases sweep.symm.trans fold
    · rw [run, pageBilled_of_fold fold, if_neg (fun done => Bool.false_ne_true (left.symm.trans done.2))]
    · rw [run, pageBilled_of_fold fold, if_pos ⟨fold, all⟩]
  · intro c e d s wanted oldest hd room awake
    exact ⟨_, pieceMove_to_staging wanted oldest hd room awake, (kept_pieceMoved ..).same, cores_pieceMoved ..⟩
  · exact fun c e d s wanted oldest hd full room => pieceMove_to_spill wanted oldest hd full room
  · intro c t s unfenced hc there
    obtain ⟨v, cores, run⟩ := coreFence_fences c t s
    have fenced := core_fenceCore (s := v) (x := c) (by rw [cores]; exact unfenced) hc (by rw [cores]; exact there)
    refine ⟨_, run, (ans_eq run (kept_execCoreFence rfl c t s (.refl _ s))).same, ?_, ?_⟩
    · rw [fenced]
    · rw [fenced]
  · exact fun n c x u s number spare fenced hu => spareAssign_of_fenced number spare fenced hu

end Sys2Proof.Proofs
end

section
/-!
Checks on internal paths, corrected and uncorrectable errors, and lanes that move to a spare (R169, R508, R509, R513, R515).
-/
namespace Sys2Proof.Proofs

open Sys2Proof.Machine (State exec)
open Sys2Proof.Laws

section
variable {s : State} {link lane fails e off t x m n k : Nat}

/-! ### Checks (R508, R510) -/

/-- The state in which a unit's failed receptions count against its lane, at most three of them, with the times of those of the last second. -/
abbrev resendsCounted (s : State) (link lane fails t : Nat) (times : List Nat) : State :=
  { atTime s t with faults := { s.faults with resends := assign s.faults.resends (link, lane) (((lookup? s.faults.resends (link, lane)).getD (0, [])).1 + min fails 3, times) } }

theorem transferCheckFail_counts (link lane e off t : Nat) (s : State) (failed : 0 < fails) :
    ∃ times, exec (.transferCheckFail link lane fails e off t) s =
      if fails < 4 then .next (resendsCounted s link lane fails t times)
      else .next (logError (if e < 1920 ∧ off < 2 ^ 28 then poisonLine (resendsCounted s link lane fails t times) e off else resendsCounted s link lane fails t times) 0x01 5 none lane
        (BitVec.ofNat 64 (if e < 1920 then hbmAddr e off else 0))) :=
  ⟨_, if_neg (Nat.ne_of_gt failed)⟩

theorem lookup?_resendsCounted (s : State) (link lane fails t : Nat) (times : List Nat) :
    lookup? (resendsCounted s link lane fails t times).faults.resends (link, lane) = some (((lookup? s.faults.resends (link, lane)).getD (0, [])).1 + min fails 3, times) := by
  rw [lookup?_assign, if_pos rfl]

theorem kept_resendsCounted (s : State) (link lane fails t : Nat) (times : List Nat) : Kept (partSet [.time, .faults]) s (resendsCounted s link lane fails t times) :=
  kept_mk (kept_atTime rfl s t (.refl _ s)) (k35 := .inr rfl)

theorem mem_hbmPoison_poisonLine (guarded : (getExt s e).kind = .guarded) (off : Nat) : hbmAddr e off / 64 ∈ (poisonLine s e off).hbmPoison := by
  rw [poisonLine, if_pos guarded]
  dsimp only
  split
  next marked => simpa using marked
  next => exact List.mem_cons_self

/-! ### Errors of memories (R169, R509) -/

/-- The state in which a line of the staging store is poisoned. -/
abbrev stagingPoisoned (s : State) (l : Nat) : State := { s with stagingPoison := if s.stagingPoison.contains l then s.stagingPoison else l :: s.stagingPoison }

theorem mem_stagingPoisoned (s : State) (l : Nat) : l ∈ (stagingPoisoned s l).stagingPoison := by
  dsimp only
  split
  next marked => simpa using marked
  next => exact List.mem_cons_self

/-- The state in which a corrected error is counted. -/
abbrev correctedCounted (s : State) : State := { s with faults := { s.faults with corrected := s.faults.corrected + 1 } }

theorem kept_correctedCounted (s : State) (t : Nat) : Kept (partSet [.time, .faults]) s (correctedCounted (atTime s t)) :=
  kept_mk (kept_atTime rfl s t (.refl _ s)) (k35 := .inr rfl)

theorem eccError_staging (addr t : Nat) (s : State) :
    exec (.eccError 0 addr true t) s = .next (logError (stagingPoisoned (atTime s t) (addr / 64)) 0x02 0 none 0 (BitVec.ofNat 64 addr)) := rfl

theorem eccError_corrected (addr t : Nat) (s : State) : exec (.eccError 0 addr false t) s = .next (correctedCounted (atTime s t)) := rfl

/-- The state in which a corrected error of a core's tile buffer is counted, with those of the last 24 h. -/
abbrev tileErrorCounted (s : State) (x : Nat) : State :=
  { correctedCounted s with cores := s.cores.modify x fun c => { c with corrected := s.time :: c.corrected.filter fun y => decide (s.time < y + 86400000000000) } }

/-- An uncorrectable error of a tile buffer fences its core in a state with the same cores: it is in the error log. -/
theorem eccError_tile (x t : Nat) (s : State) : ∃ v, v.cores = s.cores ∧ exec (.eccError 1 x true t) s = .next (fenceCore v x) :=
  ⟨_, (kept_logError rfl _ _ _ _ _ _ (.refl (partSet [.faults]) (atTime s t))).same .cores rfl, rfl⟩

theorem eccError_tile_corrected (x t : Nat) (s : State) :
    exec (.eccError 1 x false t) s = .next (if 64 ≤ ((tileErrorCounted (atTime s t) x).cores.getD x {}).corrected.length then fenceCore (tileErrorCounted (atTime s t) x) x
      else tileErrorCounted (atTime s t) x) := rfl

theorem core_tileErrorCounted (there : x < s.cores.length) :
    (tileErrorCounted s x).cores.getD x {} =
      { s.cores.getD x {} with corrected := s.time :: (s.cores.getD x {}).corrected.filter fun y => decide (s.time < y + 86400000000000) } :=
  core_modify_self there _

/-- The 64th corrected error of a tile buffer within 24 h fences its core, and no earlier one does. -/
theorem eccError_tile_corrected_effect (t : Nat) (there : x < s.cores.length) (hx : x < 68) (unfenced : (s.cores.getD x {}).fenced = false) :
    ∃ u, exec (.eccError 1 x false t) s = .next u ∧ u.faults.corrected = s.faults.corrected + 1 ∧
      ((u.cores.getD x {}).fenced = true ↔ 63 ≤ ((s.cores.getD x {}).corrected.filter fun y => decide ((atTime s t).time < y + 86400000000000)).length) := by
  have core := core_tileErrorCounted (s := atTime s t) there
  have open_ : ((tileErrorCounted (atTime s t) x).cores.getD x {}).fenced = false := by
    rw [core]
    exact unfenced
  refine ⟨_, eccError_tile_corrected x t s, ?_⟩
  split
  next many =>
    rw [core] at many
    rw [core_fenceCore open_ hx (by simpa using there)]
    exact ⟨(fenceCore_of_unfenced open_ hx).2, fun _ => Nat.le_of_succ_le_succ many, fun _ => rfl⟩
  next few =>
    rw [core] at few
    rw [open_]
    exact ⟨rfl, fun fenced => absurd fenced Bool.false_ne_true, fun many => absurd (Nat.succ_le_succ many) few⟩

/-! ### Lanes (R515) -/

theorem links_logError (s : State) (cause unitKind : Nat) (part : Option Nat) (unit : Nat) (arg : Word) :
    (logError s cause unitKind part unit arg).faults.links = s.faults.links := by
  rw [logError]
  extract_lets
  split
  · rfl
  · dsimp only
    split <;> rfl

theorem getModule_logError (s : State) (cause unitKind : Nat) (part : Option Nat) (unit : Nat) (arg : Word) (link m : Nat) :
    getModule (logError s cause unitKind part unit arg) link m = getModule s link m := by
  rw [getModule, getPkg, links_logError, getModule, getPkg]

theorem getModule_modModule_self (fitted : moduleFitted s link m = true) (f : Bool × Nat × Nat → Bool × Nat × Nat) :
    getModule (modModule s link m f) link m = f (getModule s link m) := by
  have there : m < (getPkg s link).modules.length := by simpa using (Bool.and_eq_true_iff.1 fitted).2
  have known : link < s.faults.links.length := by
    refine Nat.lt_of_not_le fun beyond => Nat.not_lt_zero m ?_
    have bare : getPkg s link = { modules := [] } := by rw [getPkg, List.getD_eq_getElem?_getD, List.getElem?_eq_none beyond, Option.getD_none]
    rw [bare] at there
    exact there
  have changed : getPkg (modModule s link m f) link = { getPkg s link with modules := (getPkg s link).modules.modify m f } := by
    simp [getPkg, modModule, known]
  rw [getModule, changed, getModule]
  simp [there]

/-- The lanes that a module has moved to a spare, with one more in a direction. -/
abbrev laneSpared (inward : Bool) (n k : Nat) : Bool × Nat × Nat := if inward then (false, n, k + 1) else (false, n + 1, k)

theorem laneSpare_of_spare (inward : Bool) (fitted : moduleFitted s link m = true) (spared : getModule s link m = (false, n, k)) (left : (if inward then k else n) < 4) :
    exec (.laneSpare link m inward) s = .next (logError (modModule s link m fun _ => laneSpared inward n k) 0x06 5 none (16 * link + m) 0#64) := by
  change Machine.execLaneSpare link m inward s = _
  rw [Machine.execLaneSpare, spared]
  dsimp only
  rw [if_neg (by simp [fitted]), if_neg (Nat.not_le.2 left)]
  cases inward <;> rfl

end

/-- Settles O6: a check or an error that only counts answers the counted state; the fences of cores are those of `core_fenceCore`, and a module's lanes stand in the faults, where the error log does not reach them. -/
theorem checksAndLanes : Obligations.ChecksAndLanes := by
  refine ⟨?_, ?_, ?_, ?_, ?_, ?_, ?_, ?_⟩
  · intro link lane fails e off t s failed few
    obtain ⟨times, run⟩ := transferCheckFail_counts link lane e off t s failed
    refine ⟨_, run.trans (if_pos few), (kept_resendsCounted ..).same, times, ?_⟩
    rw [lookup?_resendsCounted, Nat.min_eq_left (Nat.le_of_lt_succ few)]
  · intro link lane fails e off t s four he hoff guarded
    obtain ⟨times, run⟩ := transferCheckFail_counts link lane e off t s (Nat.lt_of_lt_of_le (by decide) four)
    rw [if_neg (Nat.not_lt.2 four), if_pos ⟨he, hoff⟩] at run
    have logged := fun v : State => kept_logError rfl v 0x01 5 none lane (BitVec.ofNat 64 (if e < 1920 then hbmAddr e off else 0)) (.refl (partSet [.faults]) v)
    refine ⟨_, run, ?_, ?_⟩
    · rw [(logged _).same .hbmPoison rfl]
      exact mem_hbmPoison_poisonLine (s := resendsCounted s link lane fails t times) guarded off
    · rw [(logged _).same .hbm rfl]
      exact (kept_poisonLine rfl _ e off (.refl (partSet [.hbmPoison, .openPoison, .poisonOverflow, .extents]) _)).same .hbm rfl
  · intro addr t s
    have kept : Kept (partSet [.time, .stagingPoison, .faults]) s (stagingPoisoned (atTime s t) (addr / 64)) := kept_mk (kept_atTime rfl s t (.refl _ s)) (k9 := .inr rfl)
    refine ⟨_, eccError_staging addr t s, ?_, (kept_logError rfl _ _ _ _ _ _ kept).same⟩
    rw [(kept_logError rfl _ _ _ _ _ _ (.refl (partSet [.faults]) _)).same .stagingPoison rfl]
    exact mem_stagingPoisoned ..
  · exact fun addr t s => ⟨_, eccError_corrected addr t s, rfl, (kept_correctedCounted s t).same⟩
  · intro x t s there hx unfenced
    refine ⟨?_, eccError_tile_corrected_effect t there hx unfenced⟩
    obtain ⟨v, cores, run⟩ := eccError_tile x t s
    refine ⟨_, run, ?_⟩
    rw [core_fenceCore (by rw [cores]; exact unfenced) hx (by rw [cores]; exact there)]
  · intro link m n k s fitted spared left
    refine ⟨_, laneSpare_of_spare false fitted spared left, (kept_logError rfl _ _ _ _ _ _ (kept_modModule rfl _ _ _ _ (.refl _ s))).same, ?_⟩
    rw [getModule_logError, getModule_modModule_self fitted]
    rfl
  · intro link m n k s fitted spared left
    refine ⟨_, laneSpare_of_spare true fitted spared left, (kept_logError rfl _ _ _ _ _ _ (kept_modModule rfl _ _ _ _ (.refl _ s))).same, ?_⟩
    rw [getModule_logError, getModule_modModule_self fitted]
    rfl
  · exact fun s => rfl

end Sys2Proof.Proofs
end

section
/-!
Segments (R190): where a head's tokens are cut, the quantised tokens of a segment, and the first of a head's judged segments that holds a NaN or infinity (R193).
-/
namespace Sys2Proof.Proofs

/-! ### The cuts (R190) -/

theorem segments_length (start tokens : Nat) : (segments start tokens).length = (start % 16 + tokens + 15) / 16 := by
  simp [segments, ceilDiv]

theorem segments_length_le {tokens : Nat} (start : Nat) (most : tokens ≤ 256) : (segments start tokens).length ≤ 17 := by
  rw [segments_length]
  omega

/-- Segment j takes the tokens whose positions lie between its multiple of 16 and the next, as far as the head has them. -/
theorem segment_bounds {start tokens j a n : Nat} (nonempty : 0 < tokens) (h : (segments start tokens)[j]? = some (a, n)) :
    0 < n ∧ start + a = max start (16 * (start / 16 + j)) ∧ start + a + n = min (start + tokens) (16 * (start / 16 + j + 1)) := by
  have within : j < (start % 16 + tokens + 15) / 16 := by
    rw [← segments_length]
    exact (List.getElem?_eq_some_iff.1 h).1
  have cut : (if j = 0 then 0 else 16 * j - start % 16, min tokens (16 * (j + 1) - start % 16) - if j = 0 then 0 else 16 * j - start % 16) = (a, n) := by
    simpa [segments, ceilDiv, within] using h
  obtain ⟨rfl, rfl⟩ := Prod.mk.inj cut
  split <;> omega

theorem segment_within {start tokens j a n : Nat} (nonempty : 0 < tokens) (h : (segments start tokens)[j]? = some (a, n)) : a + n ≤ tokens := by
  have := segment_bounds nonempty h
  omega

/-! ### The tokens of a segment -/

theorem take_drop_map_range {α : Type} (f : Nat → α) {a n m : Nat} (within : a + n ≤ m) :
    (((List.range m).map f).drop a).take n = (List.range' a n).map f := by
  rw [← List.map_drop, ← List.map_take, List.range_eq_range', List.drop_range', Nat.zero_add, Nat.mul_one, List.take_range'_of_length_ge (by omega)]

theorem bad_judgeSegment_map (limit dim idx a n : Nat) (f g : Nat → QPart) :
    (judgeSegment limit dim idx ((List.range' a n).map f) ((List.range' a n).map g)).bad = true ↔ ∃ t, a ≤ t ∧ t < a + n ∧ ((f t).bad = true ∨ (g t).bad = true) := by
  simp only [judgeSegment, List.any_append, List.any_map, Bool.or_eq_true, List.any_eq_true, List.mem_range'_1, Function.comp_apply, and_assoc, ← exists_or, ← and_or_left]

theorem bad_quantPart {fmt : Nat} (paged : (pageFmt fmt).isSome = true) (xs scales : List FVal) : (quantPart fmt xs scales).bad = xs.any fun x => !x.isFin := by
  obtain ⟨⟨bits, f, mx⟩, known⟩ := Option.isSome_iff_exists.1 paged
  rw [quantPart, known]

theorem any_unpack_iff (bits n : Nat) (bs : List Byte) (f : Nat → FVal) :
    (((unpack bits bs n).map f).any fun x => !x.isFin) = true ↔ ∃ c, c < n ∧ (f ((unpack bits bs n).getD c 0)).isFin = false := by
  have size : (unpack bits bs n).length = n := by simp [unpack]
  rw [List.any_map, List.any_eq_true]
  constructor
  · rintro ⟨x, mem, unsound⟩
    obtain ⟨c, hc, rfl⟩ := List.getElem_of_mem mem
    exact ⟨c, size ▸ hc, by simpa [hc] using unsound⟩
  · rintro ⟨c, hc, unsound⟩
    rw [← size] at hc
    exact ⟨_, List.getElem_mem hc, by simpa [hc] using unsound⟩

/-! ### The first of several rows -/

theorem find?_flatten_of_first {α : Type} {rows : List (List α)} {p : α → Bool} {k l : Nat} {row : List α} {x : α} (hrow : rows[k]? = some row) (hx : row[l]? = some x) (holds : p x = true)
    (first : ∀ k' l' row' y, rows[k']? = some row' → row'[l']? = some y → k' < k ∨ k' = k ∧ l' < l → p y = false) : rows.flatten.find? p = some x := by
  obtain ⟨hk, rfl⟩ := List.getElem?_eq_some_iff.1 hrow
  obtain ⟨hl, rfl⟩ := List.getElem?_eq_some_iff.1 hx
  rw [List.find?_flatten, List.findSome?_eq_some_iff]
  refine ⟨rows.take k, rows[k], rows.drop (k + 1), ?_, ?_, fun row' mem => List.find?_eq_none.2 fun y hy => ?_⟩
  · rw [List.getElem_cons_drop, List.take_append_drop]
  · refine List.find?_eq_some_iff_getElem.2 ⟨holds, l, hl, rfl, fun l' hl' => ?_⟩
    rw [first k l' _ _ hrow (List.getElem?_eq_getElem _) (.inr ⟨rfl, hl'⟩), Bool.not_false]
  · obtain ⟨k', hk', rfl⟩ := List.mem_take_iff_getElem.1 mem
    obtain ⟨l', hl', rfl⟩ := List.getElem_of_mem hy
    rw [first k' l' _ _ (List.getElem?_eq_getElem _) (List.getElem?_eq_getElem _) (.inl (by omega))]
    exact Bool.false_ne_true

end Sys2Proof.Proofs
end

section
/-!
QUANTISE and MEASURE. What the station reads of a KV tile (`TileLegal`), the quantised parts of a QUANTISE and its judged segments, and the states that the two operations answer. The segments form one row for each head,
so the first that holds a NaN or infinity is found head by head (`find?_flatten_of_first`).
-/
namespace Sys2Proof.Proofs

open Sys2Proof.Machine (State exec)

section
variable {s u v : State} {q : Nat} {i : BitVec 32} {rd : HostRead} {d : Desc} {sf : FloatFmt} {eb : Nat} {tb : Option ScaleTable} {bs : List Byte}

/-- A station that takes a descriptor answers what its operation makes of the state in which the station works. -/
theorem stationRun_ends {opcode subop : Nat} {ks : List Nat} {k : Desc → State → State} (taken : Taken s q i opcode subop ks d) (hu : u = atWork s (needs s d ks)) (run : k d u = v) :
    stationRun s q i opcode subop ks k = .next v := by
  rw [stationRun_of_taken taken, ← hu, run]

/-! ### The KV tile of QUANTISE and MEASURE (R185, R186) -/

/-- The tokens of a KV tile. -/
abbrev kvTokens (d : Desc) : Nat := fld (d.w 2) 48 40

/-- The heads of a KV tile. -/
abbrev kvHeads (d : Desc) : Nat := fld (d.w 2) 25 20 + 1

/-- The first head of a KV tile. -/
abbrev kvFirst (d : Desc) : Nat := fld (d.w 2) 31 26

/-- The head dimension of a KV tile. -/
abbrev kvDim (d : Desc) : Nat := (dimOf (fld (d.w 2) 51 49)).getD 64

/-- The body names a KV tile whose elements have format sf and eb bytes, and the input has that tile's size. -/
structure TileLegal (d : Desc) (sf : FloatFmt) (eb : Nat) : Prop where
  src : (sf, eb) = srcFmt (fld (d.w 2) 55 54)
  source : fld (d.w 2) 55 54 ≠ 3
  dimCode : fld (d.w 2) 51 49 ≤ 4
  nonempty : 0 < kvTokens d
  most : kvTokens d ≤ 256
  heads : kvFirst d + kvHeads d ≤ 64
  named : inputBreach d 4 = false
  size : inputSize d = kvHeads d * kvTokens d * 2 * kvDim d * eb

/-! ### QUANTISE (R187 to R195, R199) -/

/-- A QUANTISE that nothing refuses before its work: its body, its tile, its scale table and the size of its output. -/
structure QuantiseLegal (d : Desc) (sf : FloatFmt) (eb : Nat) (tb : Option ScaleTable) : Prop where
  body : bodyOk d.cur [~~~(maskOf 19 8), maskOf 24 0, allBits, allBits] = true
  paged : (pageFmt (fld (d.w 2) 63 56)).isSome = true
  tile : TileLegal d sf eb
  table : scaleOf d (fld (d.w 2) 7 0) (fld (d.w 2) 39 32) (kvFirst d + kvHeads d) (fld (d.w 2) 51 49) = .ok tb
  fits : kvHeads d * kvTokens d * tokenBytes (fld (d.w 2) 63 56) (kvDim d) ≤ 65536

/-- The element codes of K (0) or V (1) of token t of the tile's head k. -/
abbrev kvCodes (d : Desc) (eb : Nat) (bs : List Byte) (k v t : Nat) : List Nat :=
  unpack (8 * eb) (slice bs (((2 * k + v) * kvTokens d + t) * kvDim d * eb) (kvDim d * eb)) (kvDim d)

/-- The quantised K or V of a token. -/
abbrev kvPart (d : Desc) (sf : FloatFmt) (eb : Nat) (bs : List Byte) (k v : Nat) (scales : List FVal) (t : Nat) : QPart :=
  quantPart (fld (d.w 2) 63 56) ((kvCodes d eb bs k v t).map sf.value) scales

/-- The K scales and V rescales of the tile's head k. -/
abbrev kvScales (d : Desc) (tb : Option ScaleTable) (k : Nat) : List FVal × List FVal := headScales tb (fld (d.w 2) 39 32) (kvFirst d + k) (kvDim d)

/-- The quantised K parts and V parts of each head. -/
abbrev kvParts (d : Desc) (sf : FloatFmt) (eb : Nat) (tb : Option ScaleTable) (bs : List Byte) : List (List QPart × List QPart) :=
  (List.range (kvHeads d)).map fun k =>
    ((List.range (kvTokens d)).map (kvPart d sf eb bs k 0 (kvScales d tb k).1), (List.range (kvTokens d)).map (kvPart d sf eb bs k 1 (kvScales d tb k).2))

/-- Where the tile's tokens are cut. -/
abbrev kvCuts (d : Desc) : List (Nat × Nat) := segments (fld (d.w 3) 24 0) (kvTokens d)

/-- The judged segments, a row for each head. -/
abbrev kvRows (d : Desc) (tb : Option ScaleTable) (parts : List (List QPart × List QPart)) : List (List Segment) :=
  parts.mapIdx fun k x => (kvCuts d).mapIdx fun l a => judgeSegment (zeroLimit tb) (kvDim d) (17 * k + l) ((x.1.drop a.1).take a.2) ((x.2.drop a.1).take a.2)

/-- The bytes of the quantised parts in the order of R195. -/
abbrev kvBytes (parts : List (List QPart × List QPart)) : List Byte :=
  parts.flatMap fun x => x.1.flatMap (·.elems) ++ x.1.flatMap (·.scales) ++ x.2.flatMap (·.elems) ++ x.2.flatMap (·.scales)

/-- The overflow policy of a QUANTISE: its own, or the owner's default (R194). -/
abbrev kvPolicy (d : Desc) : Nat := if fld (d.w 2) 53 52 = 0 then fld d.defaults 5 4 else fld (d.w 2) 53 52

/-- The segments beyond their limits (R191, R192). -/
abbrev beyondLimits (segs : List Segment) : List Segment := segs.filter fun g => g.tooBig || g.under

/-- The segments that are promoted (R194). -/
abbrev markedSegs (d : Desc) (segs : List Segment) : List Segment := if kvPolicy d = 2 then beyondLimits segs else []

/-- The bytes of the side part (R195). -/
abbrev sideBytes (d : Desc) (segs : List Segment) : Nat := ((markedSegs d segs).map fun g => 2 * g.side.length).sum

/-- No segment ends a QUANTISE, and its side part has room in the owner's staging share, for which it would wait (R195, log entry 14). -/
structure SegmentsKept (u : State) (d : Desc) (segs : List Segment) : Prop where
  finite : segs.all (fun g => !g.bad) = true
  within : kvPolicy d ≠ 3 ∨ (segs.all fun g => !g.tooBig && !g.under) = true
  sideFits : sideBytes d segs ≤ 65536
  sideRoom : sideBytes d segs = 0 ∨ heldBytes u d.owner + sideBytes d segs ≤ stagingBytes u d.owner

/-- The tile that a QUANTISE gives, with the record by which PLACE checks it (R195, R196). -/
def quantTile (d : Desc) (parts : List (List QPart × List QPart)) (segs : List Segment) : Tile :=
  { bytes := kvBytes parts
    attr := some { format := fld (d.w 2) 63 56, dim := fld (d.w 2) 51 49, layer := fld (d.w 2) 39 32, firstHead := kvFirst d, heads := kvHeads d, tokens := kvTokens d
                   startToken := fld (d.w 3) 24 0, promoted := (markedSegs d segs).map (·.index), side := (markedSegs d segs).map (·.side) } }

/-- What a QUANTISE adds to its owner's counts at its commit: those that are not zero. -/
def quantCounts (d : Desc) (segs : List Segment) : List Effect :=
  [(5, (beyondLimits segs).length), (6, (segs.map (·.count)).sum), (7, (markedSegs d segs).length), (8, (segs.filter (·.under)).length)].filterMap fun x =>
    if x.2 = 0 then none else some (Effect.count d.owner x.1 x.2)

/-- The descriptor of a QUANTISE that has its result. -/
abbrev quantDone (d : Desc) (parts : List (List QPart × List QPart)) (segs : List Segment) : Desc :=
  { d.finish (if (markedSegs d segs).isEmpty then stDone else stPromoted) 0 (some (beyondLimits segs).length)
      (some (satField 32 (segs.map (·.count)).sum * 2 ^ 32 + satField 16 (markedSegs d segs).length * 2 ^ 16 + satField 16 (segs.filter (·.under)).length)) with
    output := some (quantTile d parts segs), effects := d.effects ++ quantCounts d segs }

theorem beyondLimits_eq_nil {segs : List Segment} (within : (segs.all fun g => !g.tooBig && !g.under) = true) : beyondLimits segs = [] := by
  simpa [List.filter_eq_nil_iff] using within

theorem find?_bad_of_finite {segs : List Segment} (finite : segs.all (fun g => !g.bad) = true) : segs.find? (·.bad) = none := by
  simpa using finite

/-- Under policy 3 the first segment beyond its limits ends a QUANTISE; a kept one has none. -/
theorem failing_eq_none {segs : List Segment} (within : kvPolicy d ≠ 3 ∨ (segs.all fun g => !g.tooBig && !g.under) = true) :
    (if kvPolicy d = 3 then (beyondLimits segs).head? else none) = none := by
  split
  next fails => rw [beyondLimits_eq_nil (within.resolve_left fun other => other fails), List.head?_nil]
  next => rfl

/-- How a legal QUANTISE with its input may end: at its first segment that holds a NaN or infinity (R193), or with its result when its segments are kept. -/
inductive QuantiseEnds (u : State) (d : Desc) (parts : List (List QPart × List QPart)) (segs : List Segment) : State → Prop
  | unsound (g : Segment) : segs.find? (·.bad) = some g → QuantiseEnds u d parts segs (putDesc u (d.finish stScale 3 (some g.index)))
  | done (v : State) : SegmentsKept u d segs → writeOut u d 5 (kvBytes parts) = .ok v → QuantiseEnds u d parts segs (coderUnits v (quantDone d parts segs) (inputSize d))

theorem quantiseRun_of_legal (legal : QuantiseLegal d sf eb tb) (input : tileInput u d 4 rd = .ok bs) {parts : List (List QPart × List QPart)} {segs : List Segment}
    (hp : parts = kvParts d sf eb tb bs) (hs : segs = (kvRows d tb parts).flatten) (ends : QuantiseEnds u d parts segs v) : quantiseRun rd d u = v := by
  obtain ⟨body, paged, ⟨src, source, dimCode, nonempty, most, heads, named, size⟩, table, fits⟩ := legal
  rw [quantiseRun, ← src]
  dsimp -zeta only
  extract_lets dim policy
  rw [if_neg (by simp [body, Option.isSome_iff_ne_none.1 paged, source, dimCode, Nat.pos_iff_ne_zero.1 nonempty, most, heads]), table]
  dsimp -zeta only
  rw [if_neg (by simp [named, size, dim]), if_neg (Nat.not_lt.2 fits), input]
  dsimp -zeta only
  extract_lets part parts' segs' out marked' side main
  obtain ⟨partsEq, segsEq⟩ : parts' = parts ∧ segs' = segs := by rw [hs, hp]; exact ⟨rfl, rfl⟩
  have outEq : out = beyondLimits segs := congrArg beyondLimits segsEq
  clear_value parts' segs' out
  subst partsEq segsEq outEq
  cases ends with
  | unsound g found => rw [found]
  | done v kept written =>
    obtain ⟨finite, within, sideFits, sideRoom⟩ := kept
    rw [find?_bad_of_finite finite]
    dsimp -zeta only
    rw [failing_eq_none within]
    dsimp -zeta only
    rw [if_neg (Nat.not_lt.2 sideFits), if_neg (fun ⟨sided, full⟩ => Nat.not_lt.2 (sideRoom.resolve_left sided) full), written]
    rfl

/-! ### The first NaN or infinity (R193) -/

/-- Segment l of the tile's head k holds a NaN or infinity. -/
def NanAt (d : Desc) (sf : FloatFmt) (eb : Nat) (bs : List Byte) (k l : Nat) : Prop :=
  ∃ a n t v c, (kvCuts d)[l]? = some (a, n) ∧ a ≤ t ∧ t < a + n ∧ v < 2 ∧ c < kvDim d ∧ (sf.value ((kvCodes d eb bs k v t).getD c 0)).isFin = false

/-- The judged segment of the tile's head k with position l and cut a. -/
abbrev kvSegment (d : Desc) (sf : FloatFmt) (eb : Nat) (tb : Option ScaleTable) (bs : List Byte) (k l : Nat) (a : Nat × Nat) : Segment :=
  judgeSegment (zeroLimit tb) (kvDim d) (17 * k + l) ((((List.range (kvTokens d)).map (kvPart d sf eb bs k 0 (kvScales d tb k).1)).drop a.1).take a.2)
    ((((List.range (kvTokens d)).map (kvPart d sf eb bs k 1 (kvScales d tb k).2)).drop a.1).take a.2)

theorem kvRows_getElem? {k : Nat} (hk : k < kvHeads d) :
    (kvRows d tb (kvParts d sf eb tb bs))[k]? = some ((kvCuts d).mapIdx (kvSegment d sf eb tb bs k)) := by
  rw [List.getElem?_mapIdx, List.getElem?_map, List.getElem?_range hk]
  rfl

theorem kvRows_length : (kvRows d tb (kvParts d sf eb tb bs)).length = kvHeads d := by
  rw [List.length_mapIdx, List.length_map, List.length_range]

theorem kvPart_bad_iff (paged : (pageFmt (fld (d.w 2) 63 56)).isSome = true) (k v : Nat) (scales : List FVal) (t : Nat) :
    (kvPart d sf eb bs k v scales t).bad = true ↔ ∃ c, c < kvDim d ∧ (sf.value ((kvCodes d eb bs k v t).getD c 0)).isFin = false := by
  rw [bad_quantPart paged, any_unpack_iff]

theorem kvSegment_bad_iff (paged : (pageFmt (fld (d.w 2) 63 56)).isSome = true) (nonempty : 0 < kvTokens d) {k l : Nat} {a : Nat × Nat} (cut : (kvCuts d)[l]? = some a) :
    (kvSegment d sf eb tb bs k l a).bad = true ↔ NanAt d sf eb bs k l := by
  rw [kvSegment, take_drop_map_range _ (segment_within nonempty cut), take_drop_map_range _ (segment_within nonempty cut), bad_judgeSegment_map]
  simp only [kvPart_bad_iff paged]
  constructor
  · rintro ⟨t, low, high, ⟨c, hc, unsound⟩ | ⟨c, hc, unsound⟩⟩
    · exact ⟨a.1, a.2, t, 0, c, cut, low, high, by decide, hc, unsound⟩
    · exact ⟨a.1, a.2, t, 1, c, cut, low, high, by decide, hc, unsound⟩
  · rintro ⟨a', n, t, v, c, cut', low, high, hv, hc, unsound⟩
    obtain rfl : a = (a', n) := Option.some.inj (cut.symm.trans cut')
    refine ⟨t, low, high, ?_⟩
    obtain rfl | rfl : v = 0 ∨ v = 1 := by omega
    · exact .inl ⟨c, hc, unsound⟩
    · exact .inr ⟨c, hc, unsound⟩

/-- The first segment that holds a NaN or infinity is the first judged bad, and its index is 17 i + j. -/
theorem find?_bad_of_first (paged : (pageFmt (fld (d.w 2) 63 56)).isSome = true) (nonempty : 0 < kvTokens d) {k l : Nat} (hk : k < kvHeads d) (holds : NanAt d sf eb bs k l)
    (first : ∀ k' l', k' < k ∨ k' = k ∧ l' < l → ¬NanAt d sf eb bs k' l') :
    ∃ g, (kvRows d tb (kvParts d sf eb tb bs)).flatten.find? (·.bad) = some g ∧ g.index = 17 * k + l := by
  obtain ⟨a, n, -, -, -, cut, -⟩ := id holds
  refine ⟨kvSegment d sf eb tb bs k l (a, n), find?_flatten_of_first (l := l) (kvRows_getElem? hk) ?_ ((kvSegment_bad_iff paged nonempty cut).2 holds) fun k' l' row g hrow hg before => ?_, rfl⟩
  · rw [List.getElem?_mapIdx, cut, Option.map_some]
  · have hk' : k' < kvHeads d := kvRows_length ▸ (List.getElem?_eq_some_iff.1 hrow).1
    obtain rfl := Option.some.inj ((kvRows_getElem? hk').symm.trans hrow)
    rw [List.getElem?_mapIdx] at hg
    obtain ⟨a', cut', rfl⟩ := Option.map_eq_some_iff.1 hg
    exact Bool.eq_false_iff.2 fun bad => first k' l' before ((kvSegment_bad_iff paged nonempty cut').1 bad)

/-! ### MEASURE (R198) -/

/-- The largest magnitudes of the channels: for each head those of K, then those of V. -/
abbrev channelMaxima (d : Desc) (sf : FloatFmt) (eb : Nat) (bs : List Byte) : List (Nat × Bool) :=
  (List.range (kvHeads d)).flatMap fun k => (List.range 2).flatMap fun v => (List.range (kvDim d)).map fun c =>
    maxAbs sf ((List.range (kvTokens d)).map fun t => ofLe (slice bs ((((2 * k + v) * kvTokens d + t) * kvDim d + c) * eb) eb))

/-- Channels without a NaN take no free value. -/
theorem channelWords_of_sound : ∀ {cs : List (Nat × Bool)}, cs.all (fun c => !c.2) = true → ∀ s, channelWords cs s = (cs.map (·.1), s)
  | [], _, _ => rfl
  | (c, bad) :: r, sound, s => by
    obtain ⟨rfl, rest⟩ : bad = false ∧ r.all (fun c => !c.2) = true := by simpa using sound
    simp [channelWords, channelWords_of_sound rest s]

theorem measureRun_of_legal (body : bodyOk d.cur [maskOf 55 54 ||| maskOf 51 20, maskOf 24 0, allBits, allBits] = true) (tile : TileLegal d sf eb)
    (fits : kvHeads d * 8 * kvDim d ≤ 65536) (input : tileInput u d 4 rd = .ok bs) {cs : List (Nat × Bool)} (hc : cs = channelMaxima d sf eb bs) (sound : cs.all (fun c => !c.2) = true)
    (written : writeOut u d 5 (cs.flatMap fun c => leBytes 4 c.1) = .ok v) :
    measureRun rd d u = coderUnits v { d.finish stDone 0 with output := some { bytes := cs.flatMap fun c => leBytes 4 c.1 } } (inputSize d) := by
  obtain ⟨src, source, dimCode, nonempty, most, heads, named, size⟩ := tile
  rw [measureRun, ← src]
  dsimp -zeta only
  extract_lets dim
  rw [if_neg (by simp [body, source, dimCode, Nat.pos_iff_ne_zero.1 nonempty, most, heads]), if_neg (by simp [named, size, dim]), if_neg (Nat.not_lt.2 fits), input]
  dsimp -zeta only
  extract_lets cs' out
  have words : channelWords cs' u = (cs.map (·.1), u) := by
    rw [show cs' = cs from hc.symm]
    exact channelWords_of_sound sound u
  have values : out = cs.flatMap fun c => leBytes 4 c.1 := (congrArg (·.1.flatMap (leBytes 4)) words).trans (List.flatMap_map ..)
  rw [values, words]
  dsimp only
  rw [written]

end
end Sys2Proof.Proofs
end

section
/-!
The coding operations of INGEST and the coder lanes: ENCODE, DECODE, CHECK, HISTOGRAM and INGEST_UNIT. Each refusal is passed, and what is left is the state that the operation's clause names.
-/
namespace Sys2Proof.Proofs

open Sys2Proof.Machine (State exec)

section
variable {s u v : State} {q : Nat} {i : BitVec 32} {rd : HostRead} {d : Desc} {bs out : List Byte}

/-! ### ENCODE (R221) -/

/-- An ENCODE that nothing refuses before its work: its body, the table of its slot and its input's size. -/
structure EncodeLegal (d : Desc) (tb : DecodeTable) : Prop where
  body : codingBodyOk d true = true
  loaded : d.slotWaits (fld (d.w 2) 32 32) = false
  table : d.tables.getD (fld (d.w 2) 32 32) none = some tb
  named : inputBreach d 3 = false
  least : 2 ≤ inputSize d
  most : inputSize d ≤ 65280
  even : inputSize d % 2 = 0

/-- The descriptor of an ENCODE that has its result: its tile holds the slot's table when a block of it is coded. -/
abbrev encodeDone (d : Desc) (out : List Byte) (raw coded : Nat) : Desc :=
  { d.finish stDone 0 (some out.length) (some (raw * 2 ^ 32 + coded)) with
    output := some { bytes := out, tableHold := if coded = 0 then none else (d.owner.part?).map fun p => (p, fld (d.w 2) 32 32) } }

theorem encodeRun_of_legal {tb : DecodeTable} {raw coded : Nat} (legal : EncodeLegal d tb) (input : tileInput u d 3 rd = .ok bs)
    (coding : (out, raw, coded) = encodeStream (fld (d.w 2) 32 32) tb (fld (d.w 2) 31 0) bs) (written : writeOut u d 4 out = .ok v) :
    encodeRun rd d u = coderUnits v (encodeDone d out raw coded) (inputSize d) := by
  obtain ⟨body, loaded, table, named, least, most, even⟩ := legal
  rw [encodeRun]
  dsimp only
  rw [if_neg (by simp [body]), if_neg (by simp [loaded]), table]
  dsimp only
  rw [if_neg (by simp [named, Nat.not_lt.2 least, most, even]), input]
  dsimp only
  rw [← coding]
  dsimp only
  rw [written]

/-! ### DECODE and CHECK (R222, R223) -/

variable {blocks : List (Word × Word × List Byte)} {whole : Bool}

/-- The most bytes that a stream may give: the limit of a tile, and none for a CHECK. -/
abbrev streamMost (check : Bool) : Nat := if check then 2 ^ 64 else 65536

/-- A DECODE or CHECK that nothing refuses before its work, with its input cut into blocks, none of which waits for a table. -/
structure StreamRead (u : State) (rd : HostRead) (d : Desc) (check : Bool) (bs : List Byte) (blocks : List (Word × Word × List Byte)) (whole : Bool) : Prop where
  body : codingBodyOk d false = true
  named : inputBreach d 3 = false
  nonempty : 0 < inputSize d
  input : tileInput u d 3 rd = .ok bs
  parsed : parseStream (bs.length / 16 + 1) bs = (blocks, whole)
  loaded : streamWaits d (fld (d.w 2) 31 0) (streamMost check) blocks = false

/-- The uncoded bytes that the blocks' headers give. -/
abbrev rawTotal (blocks : List (Word × Word × List Byte)) : Nat := (blocks.map fun b => fld b.1 28 16).sum

/-- How a DECODE (false) or CHECK (true) of blocks that were read may end: with its result, or a CHECK at the first block that fails. -/
inductive StreamEnds (u : State) (d : Desc) (blocks : List (Word × Word × List Byte)) : Bool → Bool → State → Prop
  | decoded (out : List Byte) (v : State) : openStream d.tables (fld (d.w 2) 31 0) 65536 0 blocks = .ok out → writeOut u d 4 out = .ok v →
      StreamEnds u d blocks true false (coderUnits v { d.finish stDone 0 (some out.length) (some blocks.length) with output := some { bytes := out } } (rawTotal blocks))
  | checked (out : List Byte) (v : State) : openStream d.tables (fld (d.w 2) 31 0) (2 ^ 64) 0 blocks = .ok out → writeOut u d 4 [] = .ok v →
      StreamEnds u d blocks true true (coderUnits v (d.finish stDone 0 (some blocks.length)) (rawTotal blocks))
  | failed (whole : Bool) (st det k : Nat) : openStream d.tables (fld (d.w 2) 31 0) (2 ^ 64) 0 blocks = .error (st, det, k) →
      StreamEnds u d blocks whole true (putDesc u (d.finish st det (some k)))

theorem decodeRun_of_read {check : Bool} (read : StreamRead u rd d check bs blocks whole) (ends : StreamEnds u d blocks whole check v) : decodeRun check rd d u = v := by
  obtain ⟨body, named, nonempty, input, parsed, loaded⟩ := read
  rw [decodeRun]
  dsimp only
  rw [if_neg (by simp [body]), if_neg (by simp [named, Nat.pos_iff_ne_zero.1 nonempty]), input]
  dsimp only
  rw [parsed]
  dsimp only
  rw [if_neg (ne_true_of_eq_false loaded)]
  cases ends with
  | decoded out v opened written =>
    rw [if_neg Bool.false_ne_true, opened]
    dsimp only
    rw [if_pos rfl]
    dsimp only
    rw [if_neg Bool.false_ne_true, written]
    rfl
  | checked out v opened written =>
    rw [if_pos rfl, opened]
    dsimp only
    rw [if_pos rfl]
    dsimp only
    rw [if_pos rfl, written]
    rfl
  | failed whole st det k failed =>
    rw [if_pos rfl, failed]
    rfl

/-! ### HISTOGRAM (R219) -/

/-- How often each exponent stands among the n BF16 words of bytes. -/
abbrev exponentCounts (bs : List Byte) (n : Nat) : List Nat :=
  ((unpack 16 bs n).map fun w => (w >>> 7) % 256).foldl (fun (acc : List Nat) e => acc.modify e (· + 1)) (List.replicate 256 0)

theorem histogramRun_of_legal (body : codingBodyOk d false = true) (named : inputBreach d 3 = false) (least : 2 ≤ inputSize d) (most : inputSize d ≤ 65536) (even : inputSize d % 2 = 0)
    (input : tileInput u d 3 rd = .ok bs) (written : writeOut u d 4 ((exponentCounts bs (inputSize d / 2)).flatMap (leBytes 4)) = .ok v) :
    histogramRun rd d u = coderUnits v { d.finish stDone 0 (some (inputSize d / 2)) with output := some { bytes := (exponentCounts bs (inputSize d / 2)).flatMap (leBytes 4) } } (inputSize d) := by
  rw [histogramRun]
  dsimp only
  rw [if_neg (by simp [body]), if_neg (by simp [named, Nat.not_lt.2 least, most, even]), input]
  dsimp only
  rw [written]

/-! ### The coder lanes (R224, R391, R412) -/

/-- Units of step-state traffic. -/
abbrev tierUnits (d : Desc) : Bool := d.hasUnits && d.opcode != 0x01

/-- The units that a free lane may take: in Absorb mode those of step-state traffic, while there are any. -/
abbrev laneWants (s : State) : Desc → Bool := if s.power.mode = .absorb ∧ s.flight.any tierUnits then tierUnits else Desc.hasUnits

/-- The descriptor of which a lane has taken a unit. -/
abbrev unitTaken (d : Desc) : Desc :=
  { d with unitsLeft := d.unitsLeft - 1, unitsDone := d.unitsDone + 1
           phase := if d.unitsLeft - 1 = 0 ∧ (d.opcode = 0x01 ∨ (d.opcode = 0x08 ∧ d.subop = 1)) then .finished else d.phase }

theorem ingestUnit_of_turn {lane k : Nat} {order : List Nat} (free : lane < 16) (next : turn s s.turns.ingest (ownersWith s (laneWants s)) = some (k, order))
    (found : (s.flight.find? fun d => d.owner.idx == k && laneWants s d) = some d) :
    exec (.ingestUnit lane) s = .next { putDesc s (unitTaken d) with turns := { s.turns with ingest := order } } := by
  change Machine.execIngestUnit lane s = _
  rw [Machine.execIngestUnit]
  dsimp only
  rw [if_neg (Nat.not_le.2 free), next]
  dsimp only
  rw [found]

end
end Sys2Proof.Proofs
end

section
/-!
The loads of scale tables and of decode tables. A legal load, and a REMOVE of a scale table, wait for the commit point with the change of their slot among their effects (R182, R216).
-/
namespace Sys2Proof.Proofs

open Sys2Proof.Machine (State exec)

section
variable {s u v : State} {q p : Nat} {i : BitVec 32} {rd : HostRead} {d : Desc} {bs : List Byte}

/-! ### LOAD_SCALE_TABLE (R179 to R183) -/

/-- The slot that a LOAD_SCALE_TABLE names. -/
abbrev scaleSlot (d : Desc) : Nat := fld (d.w 3) 3 0

/-- A LOAD_SCALE_TABLE whose body is legal, for its partition, with no load of the slot before it. -/
structure ScaleLoadLegal (u : State) (d : Desc) (p : Nat) : Prop where
  bare : d.len = 0
  body : bodyOk d.cur [allBits, maskOf 11 8 ||| maskOf 4 0, maskOf 31 0] = true
  part : loadPart u d = .ok p
  first : loadBefore u d p (fun x => fld (x.w 3) 3 0 == scaleSlot d) = false

/-- The header word of a scale table's image. -/
abbrev scaleHeader (bs : List Byte) : Word := wd (toWords 8 bs) 0

/-- The layers that a scale table's image gives. -/
abbrev imageLayers (bs : List Byte) : Nat := fld (scaleHeader bs) 31 24 + 1

/-- The heads that a scale table's image gives. -/
abbrev imageHeads (bs : List Byte) : Nat := fld (scaleHeader bs) 23 18 + 1

/-- An image of len bytes that passes R179 and R180. -/
structure ScaleImage (bs : List Byte) (len : Nat) : Prop where
  dimension : ∃ dim, dimOf (fld (scaleHeader bs) 17 15) = some dim ∧ len = 64 + 8 * imageLayers bs * imageHeads bs * dim
  reserved : fld (scaleHeader bs) 14 8 = 0
  zeros : ((toWords 8 bs).drop 1).all (· == 0#64) = true
  scales : badScale bs = none

/-- The scale table of an image in its blocks. -/
abbrev scaleOfImage (bs : List Byte) (b : Blocks) : ScaleTable :=
  { version := fld (scaleHeader bs) 63 32, layers := imageLayers bs, heads := imageHeads bs, dim := fld (scaleHeader bs) 17 15, image := bs, blocks := b }

/-- The descriptor of a LOAD_SCALE_TABLE that has its table. -/
abbrev scaleLoaded (d : Desc) (p : Nat) (bs : List Byte) (b : Blocks) : Desc :=
  { d.finish stDone 0 (some (fld (scaleHeader bs) 63 32)) (some b.count) with
    effects := d.effects ++ [.scaleTable p (scaleSlot d) (some (scaleOfImage bs b))]
    blocks := if d.owner.part? = some p then b :: d.blocks else d.blocks }

theorem loadScaleRun_of_image {b : Blocks} (legal : ScaleLoadLegal u d p) (load : bit (d.w 3) 4 = false) (least : 64 ≤ fld (d.w 4) 31 0)
    (image : loadImage u d rd (fld (d.w 4) 31 0) = .ok bs) (sound : ScaleImage bs (fld (d.w 4) 31 0)) (room : takeBlocks u p (ceilDiv (fld (d.w 4) 31 0) 4096) = some (b, v)) :
    loadScaleRun rd d u = putDesc v (scaleLoaded d p bs b) := by
  obtain ⟨bare, body, part, first⟩ := legal
  obtain ⟨⟨dim, code, size⟩, reserved, zeros, scales⟩ := sound
  rw [loadScaleRun]
  dsimp only
  rw [if_neg (by simp [bare, body]), part]
  dsimp only
  rw [if_neg (by simp [first]), if_neg (by simp [load]), if_neg (Nat.not_lt.2 least), image]
  dsimp only
  rw [code]
  dsimp only
  rw [if_neg (by simpa [reserved] using zeros), if_neg (fun other => other size), scales]
  dsimp only
  rw [room]

theorem loadScaleRun_of_remove (legal : ScaleLoadLegal u d p) (remove : bit (d.w 3) 4 = true) (placeless : d.w 2 = 0#64) (empty : fld (d.w 4) 31 0 = 0) :
    loadScaleRun rd d u = putDesc u { d.finish stDone 0 none (some 0) with effects := d.effects ++ [.scaleTable p (scaleSlot d) none] } := by
  obtain ⟨bare, body, part, first⟩ := legal
  rw [loadScaleRun]
  dsimp only
  rw [if_neg (by simp [bare, body]), part]
  dsimp only
  rw [if_neg (by simp [first]), if_pos remove, if_neg (fun placed => placed placeless), if_neg (fun full => full empty)]

theorem loadScaleTable_of_active (active : memActive s = true) : exec (.loadScaleTable q i rd) s = stationRun s q i 0x0C 0x20 [2] (loadScaleRun rd) := by
  change Machine.execLoadScaleTable q i rd s = _
  rw [Machine.execLoadScaleTable, if_neg (by simp [active])]

/-! ### LOAD_DECODE_TABLE (R213 to R218) -/

/-- A LOAD_DECODE_TABLE with an image that nothing refuses, and whose slot neither a hold nor an earlier load keeps. -/
structure DecodeLoadLegal (u : State) (d : Desc) (p slot : Nat) : Prop where
  bare : d.len = 0
  body : bodyOk d.cur [allBits, maskOf 11 8 ||| maskOf 6 4, maskOf 31 0] = true
  part : loadPart u d = .ok p
  chosen : d.loadSlot = some slot
  load : bit (d.w 3) 6 = false
  size : fld (d.w 4) 31 0 = 384
  unheld : slotHeld u (dispatchedBefore u d) p slot = false
  first : (dispatchedBefore u d).any (fun x => x.loadsSlot p slot) = false

theorem loadDecodeRun_of_image {slot : Nat} {tb : DecodeTable} (legal : DecodeLoadLegal u d p slot) (image : earlyInput d 2 rd 1 (loadImage u d rd 384) = .ok bs) (sound : decodeImage bs = some tb) :
    loadDecodeRun rd d u = putDesc u { d.finish stDone 0 (some tb.version) (some slot) with effects := d.effects ++ [.decodeTable p slot (some tb)] } := by
  obtain ⟨bare, body, part, chosen, load, size, unheld, first⟩ := legal
  rw [loadDecodeRun]
  dsimp only
  rw [if_neg (by simp [bare, body]), chosen, part]
  dsimp only
  rw [if_neg (by simp [load]), if_neg (fun other => other size), size, image]
  dsimp only
  rw [sound]
  dsimp only
  rw [decodeLoadEnd]
  dsimp only
  rw [if_neg (by simp [unheld, first])]
  rfl

theorem ready_of_stationDesc {opcode subop : Nat} (h : stationDesc s q i opcode subop = some d) : findDesc s q i = some d ∧ d.phase = .ready := by
  rw [stationDesc] at h
  split at h
  next x found =>
    split at h
    next named =>
      obtain rfl := Option.some.inj h
      obtain ⟨⟨ready, -⟩, -⟩ := by simpa using named
      exact ⟨found, ready⟩
    next => cases h
  next => cases h

/-- A LOAD_DECODE_TABLE that is ready runs at its station: it has no image yet with which it waits. -/
theorem loadDecodeTable_of_ready (ready : stationDesc s q i 0x0C 0x21 = some d) : exec (.loadDecodeTable q i rd) s = stationRun s q i 0x0C 0x21 [2] (loadDecodeRun rd) := by
  obtain ⟨found, ready⟩ := ready_of_stationDesc ready
  change Machine.execLoadDecodeTable q i rd s = _
  rw [Machine.execLoadDecodeTable, found]
  dsimp only
  rw [if_neg (by simp [ready])]

end
end Sys2Proof.Proofs
end

section
/-!
The segments of a head and QUANTISE of a NaN or infinity: their statement.
-/
namespace Sys2Proof.Proofs

/-- Settles O60: the cuts are those of `segment_bounds`, and the first segment that holds a NaN or infinity is the first judged bad (`find?_bad_of_first`), where a legal QUANTISE ends before it looks at its policy. -/
theorem segmentsAndNan : Obligations.SegmentsAndNan := by
  refine ⟨fun start tokens nonempty most => ⟨segments_length .., segments_length_le start most, fun j a n cut => segment_bounds nonempty cut⟩, ?_⟩
  rintro q fmt tokens heads first dim eb h j i rd d sf tb bs holds u s taken hu rfl rfl rfl rfl src body paged source dimCode nonempty most inHeads rfl table named size fits input hholds hh here before
  have nan : ∀ k l, holds k l ↔ NanAt d sf eb bs k l := hholds
  obtain ⟨g, found, index⟩ := find?_bad_of_first (tb := tb) paged nonempty hh ((nan h j).1 here) fun k l earlier there => before k l earlier ((nan k l).2 there)
  rw [← index]
  exact stationRun_ends taken hu (quantiseRun_of_legal ⟨body, paged, ⟨src, source, dimCode, nonempty, most, inHeads, named, size⟩, table, fits⟩ input rfl rfl (.unsound g found))

end Sys2Proof.Proofs
end

section
/-!
INGEST and the table loads: their statement, from what each of their commands does.
-/
namespace Sys2Proof.Proofs

/-- Settles O48, from what each operation of INGEST and each table load answers in the state that its clause names. -/
theorem ingestAndTables : Obligations.IngestAndTables := by
  refine ⟨?_, ?_, ?_, ?_, ?_, ?_, ?_, ?_, ?_, ?_, ?_⟩
  · rintro q fmt tokens heads first dim eb policy side i rd d sf tb bs parts segs marked u v s taken hu rfl rfl rfl rfl src body paged source dimCode nonempty most inHeads rfl table named size fits input
      hp hs finite rfl within rfl rfl sideFits sideRoom written
    have run := quantiseRun_of_legal ⟨body, paged, ⟨src, source, dimCode, nonempty, most, inHeads, named, size⟩, table, fits⟩ input hp hs (.done v ⟨finite, within, sideFits, sideRoom⟩ written)
    exact ⟨_, quantTile d parts segs, stationRun_ends taken hu run, rfl, rfl⟩
  · rintro q i rd d bs u v s dim tokens heads eb sf cs taken hu rfl rfl src body source dimCode nonempty most inHeads rfl named size fits input hc sound written
    exact stationRun_ends taken hu (measureRun_of_legal body ⟨src, source, dimCode, nonempty, most, inHeads, named, size⟩ fits input hc sound written)
  · rintro q slot n raw coded i rd d tb bs out u v s taken hu body rfl loaded table rfl named least most even input coding written
    exact stationRun_ends taken hu (encodeRun_of_legal ⟨body, loaded, table, named, least, most, even⟩ input coding written)
  · rintro q total i rd d bs out blocks u v s taken hu body named nonempty input parsed loaded rfl opened written
    exact stationRun_ends taken hu (decodeRun_of_read ⟨body, named, nonempty, input, parsed, loaded⟩ (.decoded out v opened written))
  · rintro q total i rd d bs out blocks u v s taken hu body named nonempty input parsed loaded rfl opened written
    exact stationRun_ends taken hu (decodeRun_of_read ⟨body, named, nonempty, input, parsed, loaded⟩ (.checked out v opened written))
  · intro q st det k i rd d bs blocks whole u s taken hu body named nonempty input parsed loaded failed
    exact stationRun_ends taken hu (decodeRun_of_read ⟨body, named, nonempty, input, parsed, loaded⟩ (.failed whole st det k failed))
  · rintro q n i rd d bs counts u v s taken hu body rfl named least most even input rfl written
    exact stationRun_ends taken hu (histogramRun_of_legal body named least most even input written)
  · rintro lane k order tier wants d s free rfl rfl next found
    exact ingestUnit_of_turn free next found
  · rintro q p len slot dim layers heads i rd d bs b u v s active taken hu bare body part rfl first load rfl least image code reserved zeros rfl rfl size scales room
    rw [loadScaleTable_of_active active]
    exact stationRun_ends taken hu (loadScaleRun_of_image ⟨bare, body, part, first⟩ load least image ⟨⟨dim, code, size⟩, reserved, zeros, scales⟩ room)
  · rintro q p slot i rd d u s active taken hu bare body part rfl first remove placeless empty
    rw [loadScaleTable_of_active active]
    exact stationRun_ends taken hu (loadScaleRun_of_remove ⟨bare, body, part, first⟩ remove placeless empty)
  · intro q p slot i rd d bs tb u s taken hu bare body _ part chosen load size image sound unheld first
    rw [loadDecodeTable_of_ready taken.ready]
    exact stationRun_ends taken hu (loadDecodeRun_of_image ⟨bare, body, part, chosen, load, size, unheld, first⟩ image sound)

end Sys2Proof.Proofs
end

section
/-!
The canonical codes of a table (R205). `codesOf` gives codes to the listed symbols of `codeOrder` one after another, so what it holds and its order are read off that list, and its values off `canonCodes`.
-/
namespace Sys2Proof.Proofs

/-! ### The order of the symbols -/

/-- A symbol past the end of the list has the length 0, so a bound of the list bounds the length of every symbol. -/
theorem getD_zero_le {lengths : List Nat} {m : Nat} (most : ∀ n ∈ lengths, n ≤ m) (k : Nat) : lengths.getD k 0 ≤ m := by
  rw [List.getD_eq_getElem?_getD]
  cases entry : lengths[k]? with
  | none => exact Nat.zero_le m
  | some n => exact most n (List.mem_of_getElem? entry)

/-- The symbols of one length, each with it: what the outer walk of `codeOrder` takes at that length. -/
def symbolsOfLength (lengths : List Nat) (n : Nat) : List (Nat × Nat) :=
  (List.range 257).filterMap fun k => if lengths.getD k 0 = n then some (k, n) else none

theorem codeOrder_eq_flatMap (lengths : List Nat) : codeOrder lengths = ((List.range 16).drop 1).flatMap (symbolsOfLength lengths) := rfl

theorem mem_symbolsOfLength {lengths : List Nat} {m k n : Nat} :
    (k, n) ∈ symbolsOfLength lengths m ↔ k < 257 ∧ lengths.getD k 0 = m ∧ m = n := by
  unfold symbolsOfLength
  rw [List.mem_filterMap]
  constructor
  · rintro ⟨j, symbol, entry⟩
    obtain ⟨len, ⟨⟩⟩ := Option.ite_none_right_eq_some.1 entry
    exact ⟨List.mem_range.1 symbol, len, rfl⟩
  · rintro ⟨symbol, len, rfl⟩
    exact ⟨k, List.mem_range.2 symbol, if_pos len⟩

theorem symbolsOfLength_pairwise (lengths : List Nat) (n : Nat) : (symbolsOfLength lengths n).Pairwise fun x y => x.1 < y.1 := by
  refine List.pairwise_filterMap.2 (List.pairwise_lt_range.imp fun lt x hx y hy => ?_)
  obtain ⟨-, ⟨⟩⟩ := Option.ite_none_right_eq_some.1 hx
  obtain ⟨-, ⟨⟩⟩ := Option.ite_none_right_eq_some.1 hy
  exact lt

theorem mem_codeOrder {lengths : List Nat} {k n : Nat} :
    (k, n) ∈ codeOrder lengths ↔ k ≤ 256 ∧ 0 < n ∧ n < 16 ∧ lengths.getD k 0 = n := by
  have walked : n ∈ (List.range 16).drop 1 ↔ 0 < n ∧ n < 16 := by
    rw [List.range_eq_range', List.drop_range', List.mem_range'_1]
    omega
  rw [codeOrder_eq_flatMap, List.mem_flatMap]
  constructor
  · rintro ⟨m, hm, mem⟩
    obtain ⟨symbol, len, rfl⟩ := mem_symbolsOfLength.1 mem
    obtain ⟨pos, lt⟩ := walked.1 hm
    exact ⟨Nat.le_of_lt_succ symbol, pos, lt, len⟩
  · rintro ⟨symbol, pos, lt, len⟩
    exact ⟨n, walked.2 ⟨pos, lt⟩, mem_symbolsOfLength.2 ⟨Nat.lt_succ_of_le symbol, len, rfl⟩⟩

/-- The outer walk goes up through the lengths, and the inner one up through the symbols of one length. -/
theorem codeOrder_pairwise (lengths : List Nat) :
    (codeOrder lengths).Pairwise fun x y => x.2 < y.2 ∨ x.2 = y.2 ∧ x.1 < y.1 := by
  rw [codeOrder_eq_flatMap]
  refine List.pairwise_flatMap.2 ⟨fun n _ => ?oneLength, ?twoLengths⟩
  case oneLength =>
    refine (symbolsOfLength_pairwise lengths n).imp_of_mem fun hx hy lt => .inr ⟨?_, lt⟩
    obtain ⟨-, -, lenx⟩ := mem_symbolsOfLength.1 hx
    obtain ⟨-, -, leny⟩ := mem_symbolsOfLength.1 hy
    exact lenx.symm.trans leny
  case twoLengths =>
    refine List.pairwise_lt_range.drop.imp fun lt x hx y hy => .inl ?_
    obtain ⟨-, -, lenx⟩ := mem_symbolsOfLength.1 hx
    obtain ⟨-, -, leny⟩ := mem_symbolsOfLength.1 hy
    omega

/-! ### The values of the codes -/

/-- Without its code, a coded symbol is the symbol and length that it was made from. -/
theorem canonCodes_map (order : List (Nat × Nat)) (next last : Nat) :
    (canonCodes order next last).map (fun x => (x.1, x.2.1)) = order := by
  induction order generalizing next last with
  | nil => rfl
  | cons p r ih => exact congrArg (p :: ·) (ih _ _)

theorem canonCodes_next_code {order : List (Nat × Nat)} {next last j : Nat} {x y : Nat × Nat × Nat}
    (hx : (canonCodes order next last)[j]? = some x) (hy : (canonCodes order next last)[j + 1]? = some y) :
    y.2.2 = (x.2.2 + 1) <<< (y.2.1 - x.2.1) := by
  induction order generalizing next last j with
  | nil => cases hx
  | cons p r ih =>
    cases j with
    | succ j => exact ih hx hy
    | zero =>
      cases r with
      | nil => cases hy
      | cons _ _ =>
        cases hx
        cases hy
        rfl

/-- The length before the first does not matter, since the first code is zero shifted. -/
theorem codesOf_eq_canonCodes (lengths : List Nat) : ∃ last, codesOf lengths = canonCodes (codeOrder lengths) 0 last := by
  unfold codesOf
  cases codeOrder lengths with
  | nil => exact ⟨0, rfl⟩
  | cons p r => exact ⟨p.2, rfl⟩

theorem codesOf_map (lengths : List Nat) : (codesOf lengths).map (fun x => (x.1, x.2.1)) = codeOrder lengths := by
  obtain ⟨last, codes⟩ := codesOf_eq_canonCodes lengths
  rw [codes, canonCodes_map]

theorem mem_codesOf {lengths : List Nat} {k n : Nat} : (∃ c, (k, n, c) ∈ codesOf lengths) ↔ (k, n) ∈ codeOrder lengths := by
  rw [← codesOf_map, List.mem_map]
  constructor
  · rintro ⟨c, mem⟩
    exact ⟨_, mem, rfl⟩
  · rintro ⟨⟨_, _, c⟩, mem, ⟨⟩⟩
    exact ⟨c, mem⟩

theorem codesOf_pairwise (lengths : List Nat) :
    (codesOf lengths).Pairwise fun x y => x.2.1 < y.2.1 ∨ x.2.1 = y.2.1 ∧ x.1 < y.1 := by
  have ordered := codeOrder_pairwise lengths
  rwa [← codesOf_map, List.pairwise_map] at ordered

theorem codesOf_head_code {lengths : List Nat} {x : Nat × Nat × Nat} (first : (codesOf lengths).head? = some x) : x.2.2 = 0 := by
  obtain ⟨last, codes⟩ := codesOf_eq_canonCodes lengths
  rw [codes] at first
  cases order : codeOrder lengths with
  | nil =>
    rw [order] at first
    cases first
  | cons p r =>
    rw [order] at first
    cases first
    exact Nat.zero_shiftLeft _

theorem codesOf_next_code {lengths : List Nat} {j : Nat} {x y : Nat × Nat × Nat} (hx : (codesOf lengths)[j]? = some x)
    (hy : (codesOf lengths)[j + 1]? = some y) : y.2.2 = (x.2.2 + 1) <<< (y.2.1 - x.2.1) := by
  obtain ⟨last, codes⟩ := codesOf_eq_canonCodes lengths
  rw [codes] at hx hy
  exact canonCodes_next_code hx hy

/-! ### The statement -/

/-- Settles O59: a table's lengths are at most 12, so the order of `codeOrder`, which stops at 15, leaves out no symbol that has one. -/
theorem canonicalCodes : Obligations.CanonicalCodes := by
  intro lengths most
  refine ⟨fun k n => mem_codesOf.trans ⟨?listed, ?coded⟩, codesOf_pairwise lengths, fun _ => codesOf_head_code, fun _ _ _ => codesOf_next_code⟩
  case listed =>
    intro mem
    obtain ⟨symbol, pos, -, len⟩ := mem_codeOrder.1 mem
    exact ⟨symbol, pos, len⟩
  case coded =>
    rintro ⟨symbol, pos, len⟩
    have bound : n ≤ 12 := len ▸ getD_zero_le most k
    exact mem_codeOrder.2 ⟨symbol, pos, by omega, len⟩

end Sys2Proof.Proofs
end

section
/-!
The work of Snare between descriptors (R232 to R241, R252): the slot stream, the shifts of insertions, the balance of neighbours, the parity scan and the throttle. What each does to the blocks is read off `getBlock`
(`getBlock_modBlock`), and the scan off the entries that it keeps (`soundEntries`).
-/
namespace Sys2Proof.Proofs

open Sys2Proof.Machine (State exec)
open Sys2Proof.Laws

section
variable {s : State} {b : Nat}

/-! ### A block after a change of it -/

theorem getBlock_modBlock (s : State) (b : Nat) (f : SnareBlock → SnareBlock) (c : Nat) :
    getBlock (modBlock s b f) c = if c = b then f (getBlock s b) else getBlock s c := by
  rw [getBlock, modBlock_snare, lookup?_assign]
  split
  · rfl
  · rfl

theorem getBlock_modBlock_self (s : State) (b : Nat) (f : SnareBlock → SnareBlock) : getBlock (modBlock s b f) b = f (getBlock s b) := by
  rw [getBlock_modBlock, if_pos rfl]

theorem getBlock_modBlock_of_ne {c : Nat} (other : c ≠ b) (f : SnareBlock → SnareBlock) : getBlock (modBlock s b f) c = getBlock s c := by
  rw [getBlock_modBlock, if_neg other]

/-- A change of a block counts only for what it makes of the block as it stands. -/
theorem modBlock_congr {f g : SnareBlock → SnareBlock} (h : f (getBlock s b) = g (getBlock s b)) : modBlock s b f = modBlock s b g := by
  rw [modBlock, modBlock, h]

/-! ### The place of an entry (R236) -/

theorem placeEntry_perm (e : SnareEntry) (xs : List SnareEntry) : (placeEntry e xs).Perm (e :: xs) := by
  induction xs with
  | nil => exact .refl _
  | cons x xs ih =>
    rw [placeEntry]
    split
    · exact .refl _
    · exact (ih.cons x).trans (.swap ..)

/-- An entry whose fingerprint is not there keeps the ascending order. -/
theorem placeEntry_pairwise {e : SnareEntry} {xs : List SnareEntry} (ordered : xs.Pairwise fun x y => x.fp < y.fp) (absent : ∀ x ∈ xs, x.fp ≠ e.fp) :
    (placeEntry e xs).Pairwise fun x y => x.fp < y.fp := by
  induction xs with
  | nil => exact List.pairwise_singleton ..
  | cons x xs ih =>
    obtain ⟨least, ordered⟩ := List.pairwise_cons.1 ordered
    obtain ⟨differs, absent⟩ := List.forall_mem_cons.1 absent
    rw [placeEntry]
    split
    next lt =>
      refine .cons (List.forall_mem_cons.2 ⟨lt, fun y hy => lt.trans (least y hy)⟩) (.cons least ordered)
    next ge =>
      refine .cons (fun y hy => ?_) (ih ordered absent)
      rcases List.mem_cons.1 ((placeEntry_perm e xs).mem_iff.1 hy) with rfl | hy
      · omega
      · exact least y hy

/-- The block in which the oldest shift has ended. -/
abbrev shiftEnded (e : SnareEntry) (r : List SnareEntry) (x : SnareBlock) : SnareBlock := { x with shifting := r, entries := placeEntry e x.entries }

theorem insertShift_of_shifting {e : SnareEntry} {r : List SnareEntry} (oldest : (getBlock s b).shifting = e :: r) :
    exec (.insertShift b) s = .next (modBlock s b (shiftEnded e r)) := by
  change Machine.execInsertShift b s = _
  rw [Machine.execInsertShift, oldest]

end

/-! ### The balance of neighbours (R232) -/

section
variable {s : State} {p : Fin 16} {low a b : Nat} {rest : List Nat}

/-- A block with other entries. -/
abbrev withEntries (xs : List SnareEntry) (x : SnareBlock) : SnareBlock := { x with entries := xs }

/-- Two neighbours whose entries have been shared out anew. -/
abbrev shareOut (s : State) (a b : Nat) (xs ys : List SnareEntry) : State := modBlock (modBlock s a (withEntries xs)) b (withEntries ys)

/-- The change of the upper neighbour speaks of its entries, which the change of the lower one leaves as they were. -/
theorem modBlock_modBlock_eq_shareOut (other : a ≠ b) (f g : List SnareEntry → List SnareEntry) :
    modBlock (modBlock s a fun x => { x with entries := f x.entries }) b (fun y => { y with entries := g y.entries }) =
      shareOut s a b (f (getBlock s a).entries) (g (getBlock s b).entries) := by
  have lower : (modBlock s a fun x => { x with entries := f x.entries }) = modBlock s a (withEntries (f (getBlock s a).entries)) := modBlock_congr rfl
  rw [lower]
  exact modBlock_congr (by rw [getBlock_modBlock_of_ne other.symm])

/-- Of two neighbours without a shift under way, the one above 7/8 full gives what lies beyond to the one below 1/2. -/
theorem snareBalance_of_uneven (next : (snareBlocks s p).dropWhile (· != low) = a :: b :: rest) (other : a ≠ b) (stillA : (getBlock s a).shifting = [])
    (stillB : (getBlock s b).shifting = [])
    (uneven : (getBlock s a).entries.length > 3584 ∧ (getBlock s b).entries.length < 2048 ∨ (getBlock s b).entries.length > 3584 ∧ (getBlock s a).entries.length < 2048) :
    ∃ xs ys, exec (.snareBalance p low) s = .next (shareOut s a b xs ys) ∧ xs ++ ys = (getBlock s a).entries ++ (getBlock s b).entries ∧ (xs.length = 3584 ∨ ys.length = 3584) := by
  change ∃ xs ys, Machine.execSnareBalance p low s = _ ∧ _
  rw [Machine.execSnareBalance, next]
  dsimp only [List.take_succ_cons, List.take_zero]
  rw [if_neg (by simp [stillA, stillB])]
  rcases uneven with ⟨full, empty⟩ | ⟨full, empty⟩
  case inl =>
    rw [if_pos ⟨full, empty⟩, modBlock_modBlock_eq_shareOut other (·.take 3584) ((getBlock s a).entries.drop 3584 ++ ·)]
    refine ⟨_, _, rfl, ?_, .inl (List.length_take_of_le (Nat.le_of_lt full))⟩
    rw [← List.append_assoc, List.take_append_drop]
  case inr =>
    rw [if_neg (by omega), if_pos ⟨full, empty⟩,
      modBlock_modBlock_eq_shareOut other (· ++ (getBlock s b).entries.take ((getBlock s b).entries.length - 3584)) (·.drop ((getBlock s b).entries.length - 3584))]
    refine ⟨_, _, rfl, ?_, .inr ?_⟩
    · rw [List.append_assoc, List.take_append_drop]
    · rw [List.length_drop]
      omega

theorem getBlock_shareOut_lower (other : a ≠ b) (xs ys : List SnareEntry) : (getBlock (shareOut s a b xs ys) a).entries = xs := by
  rw [getBlock_modBlock_of_ne other, getBlock_modBlock_self]

theorem getBlock_shareOut_upper (xs ys : List SnareEntry) : (getBlock (shareOut s a b xs ys) b).entries = ys := by
  rw [getBlock_modBlock_self]

end

/-! ### The slot stream (R233, R235, R240, R252) -/

section
variable {s v : State} {p fp page : Nat} {taken : List Nat} {d : Desc} {rest : List SlotOp}

/-- A MATCH that waits for a slot. -/
abbrev waitsForSlot (d : Desc) : Bool := d.phase == .running && d.opcode == 0x05 && !d.slots.isEmpty

/-- The partitions of which a MATCH waits for a slot. -/
abbrev slotWaiters (s : State) : List Nat := (List.range 16).filter fun p => s.flight.any fun d => d.owner == ownerOf p && waitsForSlot d

/-- A partition has the next slot, and the counts of its round after it: it is the first with credit, or the first of all in a new round when none has credit. -/
def SlotTurn (s : State) (p : Nat) (taken : List Nat) : Prop :=
  (slotWaiters s).find? (fun p => decide (s.snare.taken.getD p 0 < max 1 (snareBlocks s p).length)) = some p ∧ taken = s.snare.taken.set p (s.snare.taken.getD p 0 + 1) ∨
    (∀ x ∈ slotWaiters s, max 1 (snareBlocks s x).length ≤ s.snare.taken.getD x 0) ∧ (slotWaiters s).head? = some p ∧ taken = (List.replicate 16 0).set p 1

/-- The state in which a partition has its slot, which is counted. -/
abbrev slotCounted (s : State) (p : Nat) (taken : List Nat) : State :=
  count { atWork s [3] with snare := { (atWork s [3]).snare with taken := taken } } (ownerOf p) 14 1

theorem snareSlot_of_turn (turn : SlotTurn s p taken) (first : s.flight.find? (fun d => d.owner == ownerOf p && waitsForSlot d) = some d) (on : domsOn s [3] = true) :
    exec .snareSlot s = .next (serveSlot (slotCounted s p taken) p d) := by
  change Machine.execSnareSlot s = _
  rw [Machine.execSnareSlot]
  dsimp only
  rcases turn with ⟨credit, rfl⟩ | ⟨spent, next, rfl⟩
  case inl =>
    rw [credit]
    dsimp only
    rw [first]
    exact congrArg Host.Outcome.next (withDoms_of_domsOn on _)
  case inr =>
    rw [List.find?_eq_none.2 fun x hx credit => Nat.not_lt.2 (spent x hx) (of_decide_eq_true credit), next]
    dsimp only [Option.map_some]
    rw [first]
    exact congrArg Host.Outcome.next (withDoms_of_domsOn on _)

theorem serveSlot_change (next : d.slots = .change :: rest) :
    serveSlot v p d = putDesc v { d with slots := rest, phase := if rest.isEmpty then .finished else .running } := by
  rw [serveSlot, next]

/-- The hit on chip, if any, that a probe notes. -/
abbrev chipHit (s : State) (p fp page : Nat) : List (Nat × Nat × Nat × Nat × Bool) :=
  ((findEntry s p fp).map fun e => (page, fp, e.2.seq, e.2.page, false)).toList

/-- A probe that is not the last of its descriptor notes its hit. -/
theorem serveSlot_probe (next : d.slots = .probe fp page :: rest) (more : rest ≠ []) :
    serveSlot v p d = putDesc (meetEntry v p fp) { d with slots := rest, probes := d.probes + 1, hits := d.hits ++ chipHit (meetEntry v p fp) p fp page } := by
  rw [serveSlot, next]
  exact if_neg (by simpa using more)

theorem serveSlot_probeExt_of_poisoned (next : d.slots = .probeExt fp page :: rest) (poisoned : bucketPoisoned v p fp = true) :
    serveSlot v p d = endDesc v { d with slots := [] } (stPoisoned, 2) := by
  rw [serveSlot, next]
  exact if_pos poisoned

end

/-! ### The parity scan (R238, R252) -/

section
variable {s : State} {ups : List (Nat × Nat)} {pass : Bool} {b : Nat} {e : SnareEntry}

/-- The entries of a block whose parity holds. -/
def soundEntries (ups : List (Nat × Nat)) (b : Nat) (xs : List SnareEntry) : List SnareEntry :=
  ((xs.mapIdx fun k e => (k, e)).filter fun y => !ups.contains (b, y.1)).map (·.2)

/-- The places of a block's entries whose parity fails. -/
abbrev upsetPlaces (ups : List (Nat × Nat)) (b : Nat) (xs : List SnareEntry) : List Nat := (List.range xs.length).filter fun k => ups.contains (b, k)

/-- An entry after a scan, which a completed pass makes older. -/
abbrev agedBy (pass : Bool) (e : SnareEntry) : SnareEntry := if pass then { e with age := min 15 (e.age + 1) } else e

/-- A block, with its number, after a scan. -/
abbrev scannedBlock (ups : List (Nat × Nat)) (pass : Bool) (x : Nat × SnareBlock) : Nat × SnareBlock :=
  (x.1, { x.2 with entries := (soundEntries ups x.1 x.2.entries).map (agedBy pass), shifting := x.2.shifting.map (agedBy pass) })

/-- The state after a scan of the blocks. -/
abbrev scanned (s : State) (ups : List (Nat × Nat)) (pass : Bool) : State :=
  { s with snare := { s.snare with
      blocks := s.snare.blocks.map (scannedBlock ups pass)
      removed := s.snare.removed + (s.snare.blocks.map fun x => (upsetPlaces ups x.1 x.2.entries).length).sum
      passes := s.snare.passes + b2n pass } }

theorem parityScan_eq (ups : List (Nat × Nat)) (pass : Bool) (s : State) :
    exec (.parityScan ups pass) s = .next (if pass then ageExtension (scanned s ups pass) else scanned s ups pass) := rfl

theorem getElem?_of_mem_soundEntries {xs : List SnareEntry} (h : e ∈ soundEntries ups b xs) : ∃ k : Nat, xs[k]? = some e ∧ (b, k) ∉ ups := by
  obtain ⟨⟨k, x⟩, kept, rfl⟩ := List.mem_map.1 h
  obtain ⟨placed, sound⟩ := List.mem_filter.1 kept
  obtain ⟨_, hk, ⟨⟩⟩ := List.mem_mapIdx.1 placed
  exact ⟨k, List.getElem?_eq_getElem hk, by simpa using sound⟩

/-- Each entry of a block is kept or is at a place whose parity fails. -/
theorem length_upsetPlaces_add_length_soundEntries (ups : List (Nat × Nat)) (b : Nat) (xs : List SnareEntry) :
    (upsetPlaces ups b xs).length + (soundEntries ups b xs).length = xs.length := by
  have places : (xs.mapIdx fun k e => (k, e)).map (·.1) = List.range xs.length :=
    List.ext_getElem (by simp) fun k _ _ => by simp
  have kept : (soundEntries ups b xs).length = ((List.range xs.length).filter fun k => !ups.contains (b, k)).length := by
    rw [← places, List.filter_map, List.length_map, soundEntries, List.length_map]
    rfl
  rw [kept, ← List.length_eq_length_filter_add, List.length_range]

/-- A scan removes what it counts. -/
theorem removed_add_length_scanned (ups : List (Nat × Nat)) (pass : Bool) (bs : List (Nat × SnareBlock)) :
    (bs.map fun x => (upsetPlaces ups x.1 x.2.entries).length).sum + ((bs.map (scannedBlock ups pass)).map fun x => x.2.entries.length).sum =
      (bs.map fun x => x.2.entries.length).sum := by
  rw [List.map_map, ← List.sum_map_add]
  refine congrArg List.sum (List.map_congr_left fun x _ => ?_)
  rw [← length_upsetPlaces_add_length_soundEntries ups x.1 x.2.entries, Function.comp_apply, List.length_map]

/-- An entry of a block after a scan is one of its entries before it whose parity held, as old as before or, after a pass, older by one up to 15. -/
theorem entry_of_mem_scanned {bs : List (Nat × SnareBlock)} {y : SnareBlock} (h : (b, y) ∈ bs.map (scannedBlock ups pass)) :
    ∃ x, (b, x) ∈ bs ∧ ∀ e ∈ y.entries, ∃ (k : Nat) (e0 : SnareEntry), x.entries[k]? = some e0 ∧ (b, k) ∉ ups ∧ e = agedBy pass e0 := by
  obtain ⟨⟨c, x⟩, there, ⟨⟩⟩ := List.mem_map.1 h
  refine ⟨x, there, fun e he => ?_⟩
  obtain ⟨e0, sound, rfl⟩ := List.mem_map.1 he
  obtain ⟨k, place, holds⟩ := getElem?_of_mem_soundEntries sound
  exact ⟨k, e0, place, holds, rfl⟩

/-- Snare has in a second state all that it has in the first but for the extensions. -/
def SameOnChip (s u : State) : Prop := ∃ ext, u.snare = { s.snare with ext := ext }

theorem SameOnChip.refl (s : State) : SameOnChip s s := ⟨s.snare.ext, rfl⟩

theorem SameOnChip.trans {s u v : State} (first : SameOnChip s u) (second : SameOnChip u v) : SameOnChip s v := by
  obtain ⟨_, first⟩ := first
  obtain ⟨ext, second⟩ := second
  exact ⟨ext, by rw [second, first]⟩

theorem putPlace_sameOnChip (s : State) (p fp k : Nat) (x : SnareEntry) : SameOnChip s (putPlace s p fp k x) := by
  rw [putPlace]
  split
  · exact ⟨_, rfl⟩
  · exact .refl s

theorem ageExtension_sameOnChip (s : State) : SameOnChip s (ageExtension s) :=
  foldl_kept (P := SameOnChip s) (.refl s) fun _ _ kept =>
    foldl_kept (P := SameOnChip s) kept fun _ _ kept => kept.trans (putPlace_sameOnChip ..)

/-- A completed pass goes on to the extensions, which changes nothing on chip. -/
theorem parityScan_sameOnChip {u : State} (run : exec (.parityScan ups pass) s = .next u) : SameOnChip (scanned s ups pass) u := by
  obtain rfl := Host.Outcome.next.inj ((parityScan_eq ups pass s).symm.trans run)
  split
  · exact ageExtension_sameOnChip _
  · exact .refl _

theorem sameBut_scanned (s : State) (ups : List (Nat × Nat)) (pass : Bool) : SameBut (partSet [.snare]) s (scanned s ups pass) :=
  (kept_mk (.refl _ s) (k26 := .inr rfl)).same

/-- A scan leaves the words of an entry but for its AGE. -/
theorem agedBy_eq (pass : Bool) (e : SnareEntry) : agedBy pass e = { e with age := if pass then min 15 (e.age + 1) else e.age } := by
  cases pass
  · rfl
  · rfl

end

/-! ### The throttle (R234) -/

section
variable {s : State} {x : Int}

theorem snareThrottle_of_rise (rise : s.snare.step < throttleStep x) (t : Nat) :
    exec (.snareThrottle x t) s = .next { atTime s t with snare := { s.snare with step := throttleStep x, coolSince := none } } :=
  if_pos rise

/-- The lower threshold of a step in quarter degrees. -/
abbrev throttleFloor (step : Nat) : Int := if step = 3 then 400 else if step = 2 then 380 else 360

theorem throttleStep_le_three (x : Int) : throttleStep x ≤ 3 := by
  unfold throttleStep
  split_ifs
  all_goals decide

/-- At 3 °C or more below the lower threshold of a step no higher step is due. -/
theorem throttleStep_le_of_cool {step : Nat} (least : 1 ≤ step) (most : step ≤ 3) (cool : x ≤ throttleFloor step - 12) : throttleStep x ≤ step := by
  obtain rfl | rfl | rfl : step = 1 ∨ step = 2 ∨ step = 3 := by omega
  case inl =>
    have cool : x ≤ 348 := cool
    rw [throttleStep, if_neg (by omega), if_neg (by omega), if_neg (by omega)]
    exact Nat.zero_le 1
  case inr.inl =>
    have cool : x ≤ 368 := cool
    rw [throttleStep, if_neg (by omega), if_neg (by omega)]
    split
    · exact Nat.le_succ 1
    · exact Nat.zero_le 2
  case inr.inr => exact throttleStep_le_three x

/-- What a reading of a cool sensor makes of Snare: the 1 ms begins, goes on, or ends with a fall of one step. -/
abbrev cooled (x : SnareS) (t : Nat) : SnareS := match x.coolSince with
  | none => { x with coolSince := some t }
  | some t0 => if t0 + 1000000 ≤ t then { x with step := x.step - 1, coolSince := none } else x

theorem snareThrottle_of_cool (least : 1 ≤ s.snare.step) (most : s.snare.step ≤ 3) (cool : x ≤ throttleFloor s.snare.step - 12) (t : Nat) :
    exec (.snareThrottle x t) s = .next { atTime s t with snare := cooled s.snare t } := by
  change Machine.execSnareThrottle x t s = _
  rw [Machine.execSnareThrottle]
  refine (if_neg (Nat.not_lt.2 (throttleStep_le_of_cool least most cool))).trans ((if_pos ⟨Nat.ne_of_gt least, cool⟩).trans ?_)
  simp only [cooled, atTime_snare]
  cases s.snare.coolSince with
  | none => rfl
  | some t0 =>
    dsimp only
    split
    · rfl
    · rfl

end
end Sys2Proof.Proofs
end

section
/-!
The work of Snare between descriptors: its statement, from what each of its commands does.
-/
namespace Sys2Proof.Proofs

open Sys2Proof.Laws

/-- Settles O52, from what each command of Snare's background answers in the state that its clause names. -/
theorem indexWork : Obligations.IndexWork := by
  refine ⟨?slots, ?shift, ?balance, ?scan, fun x t s rise => snareThrottle_of_rise rise t, fun x t s least most cool => snareThrottle_of_cool least most cool t⟩
  case slots =>
    rintro p ps taken d op rest v s rfl turn first on rfl next
    rw [snareSlot_of_turn turn first on]
    refine ⟨?_, ?_, ?_⟩
    · rintro rfl
      rw [serveSlot_change next]
    · rintro fp page w rfl more rfl
      rw [serveSlot_probe next more]
    · rintro fp page rfl poisoned
      rw [serveSlot_probeExt_of_poisoned next poisoned]
  case shift =>
    intro b e r s oldest
    have block := getBlock_modBlock_self s b (shiftEnded e r)
    refine ⟨_, insertShift_of_shifting oldest, (kept_modBlock rfl s b _ (.refl _ s)).same, ?_, ?_, ?_, fun c other => getBlock_modBlock_of_ne other _⟩
    · rw [block]
    · rw [block]
      exact placeEntry_perm ..
    · rw [block]
      exact placeEntry_pairwise
  case balance =>
    intro p low a b rest s next other stillA stillB uneven
    obtain ⟨xs, ys, run, entries, sevenEighths⟩ := snareBalance_of_uneven next other stillA stillB uneven
    have total := congrArg List.length entries
    rw [List.length_append, List.length_append] at total
    refine ⟨_, run, (kept_modBlock rfl _ b _ (kept_modBlock rfl s a _ (.refl _ s))).same, ?_, ?_, ?_⟩
    · rw [getBlock_shareOut_lower other, getBlock_shareOut_upper, entries]
    · rw [getBlock_shareOut_lower other, getBlock_shareOut_upper]
      omega
    · intro c notA notB
      rw [getBlock_modBlock_of_ne notB, getBlock_modBlock_of_ne notA]
  case scan =>
    intro ups pass s
    have run := parityScan_eq ups pass s
    obtain ⟨ext, after⟩ := parityScan_sameOnChip run
    refine ⟨_, run, (ans_eq run (kept_execParityScan rfl ups pass s (.refl _ s))).same, ?_, ?_, ?_, ?_, ?_⟩
    · rintro rfl
      exact sameBut_scanned s ups false
    · rw [after]
    · rw [after, List.map_map]
      rfl
    · rw [after, Nat.add_assoc, removed_add_length_scanned]
    · rw [after]
      intro b y there
      obtain ⟨x, block, old⟩ := entry_of_mem_scanned there
      refine ⟨x, block, fun e he => ?_⟩
      obtain ⟨k, e0, place, sound, rfl⟩ := old e he
      rw [agedBy_eq]
      exact ⟨k, e0, place, sound, rfl, rfl, rfl, rfl⟩

end Sys2Proof.Proofs
end

section
/-!
Messages at the fabric service. One that is first in line is served on the Carillon that its REQUEST_ID names (`FabServed`); what it sends to other nodes changes no request that a home holds.
-/
namespace Sys2Proof.Proofs

open Sys2Proof.Machine (State exec)
open Sys2Proof.Laws

section
variable {s u : State} {p typ t : Nat} {m : FabMsg}

/-- Work of the fabric service runs at once while its Carillon is up (R269, R459, R462, R488). -/
theorem withSequencer_of_seqUp {r : Nat} (up : seqUp s r = true) (k : State → State) : withSequencer s r k = k (seqWork s r) := by
  obtain ⟨here, on⟩ := (Bool.and_eq_true _ _).mp up
  rw [withSequencer, if_neg (by simpa using here), withDoms_of_domsOn on]
  rfl

/-- A message of a TYPE is the first of its partition, HBM is in service, and the Carillon of its REQUEST_ID is up: it is served now, in the state u that has taken it. -/
structure FabServed (s : State) (p typ t : Nat) (m : FabMsg) (u : State) : Prop where
  first : fabFirst s p typ = some m
  active : memActive s = true
  up : seqUp (atTime s t) m.reqId = true
  taken : u = fabTake (seqWork (atTime s t) m.reqId) p typ

theorem FabServed.run (h : FabServed s p typ t m u) (k : State → State) : withSequencer (atTime s t) m.reqId (fun v => k (fabTake v p typ)) = k u := by
  rw [withSequencer_of_seqUp h.up, h.taken]

theorem FabServed.nextNum (h : FabServed s p typ t m u) : u.fabric.nextNum = s.fabric.nextNum := by
  rw [h.taken]
  rfl

theorem FabServed.flight (h : FabServed s p typ t m u) : u.flight = s.flight := by
  rw [h.taken]
  rfl

theorem homes_foldl {α : Type} {f : State → α → State} (keeps : ∀ v x, (f v x).fabric.homes = v.fabric.homes) (l : List α) (s : State) :
    (l.foldl f s).fabric.homes = s.fabric.homes :=
  foldl_kept (P := fun v => v.fabric.homes = s.fabric.homes) rfl fun v x kept => (keeps v x).trans kept

theorem homes_fabSend (s : State) (n : Nat) (m : FabMsg) : (fabSend s n m).fabric.homes = s.fabric.homes := by
  rw [fabSend]
  split
  · rfl
  · split
    · rfl
    · split
      · rw [wantContext]
        split <;> rfl
      · rfl

theorem homes_fabTo (s : State) (p endpoint : Nat) (m : FabMsg) : (fabTo s p endpoint m).fabric.homes = s.fabric.homes := by
  rw [fabTo]
  split
  · exact homes_fabSend ..
  · rfl

theorem homes_shadowCount (s : State) (p k : Nat) (agree : Option Bool) : (shadowCount s p k agree).fabric.homes = s.fabric.homes := rfl

end
end Sys2Proof.Proofs
end

section
/-!
Attention across nodes, at a home and at a member: a request whose shards are all foreign goes out without work of its own, and a member's request becomes one descriptor for each head.
-/
namespace Sys2Proof.Proofs

open Sys2Proof.Machine (State exec)
open Sys2Proof.Laws

section
variable {s u : State} {p : Fin 16} {t : Nat} {m : FabMsg}

/-! ### The plan of a home's work (R270, R271) -/

theorem mem_of_mem_participants {own : Nat} {work g : List ShardWork} (hg : g ∈ participants own work) {w : ShardWork} (hw : w ∈ g) : w ∈ work := by
  obtain ⟨x, hx, made⟩ := List.mem_filterMap.mp hg
  split at made
  · cases made
    rwa [List.mem_singleton.mp hw]
  · split at made
    · cases made
      exact List.mem_of_mem_filter hw
    · cases made

theorem mem_of_mem_groupsOf : ∀ {n : Nat} {xs g : List (List ShardWork)} {y : List ShardWork}, g ∈ groupsOf n xs → y ∈ g → y ∈ xs
  | 0, _, _, _, hg, _ => nomatch hg
  | n + 1, xs, g, y, hg, hy => by
    rw [groupsOf] at hg
    split at hg
    · cases hg
    · rcases List.mem_cons.mp hg with rfl | hg
      · exact List.mem_of_mem_take hy
      · exact List.mem_of_mem_drop (mem_of_mem_groupsOf hg hy)

/-- A plan sends out the work that it is made for, and no other. -/
theorem work_mem_of_mem_planHome {own algo : Nat} {work : List ShardWork} {x : Dispatch} (hx : x ∈ (planHome own algo work).1) : x.work ∈ work := by
  rw [planHome] at hx
  extract_lets ps one led ownTo at hx
  split at hx
  · obtain ⟨g, hg, hx⟩ := List.mem_flatMap.mp hx
    dsimp only [one] at hx
    split at hx
    · cases hx
    · obtain ⟨w, hw, rfl⟩ := List.mem_map.mp hx
      obtain ⟨y, hy, hw⟩ := List.mem_flatten.mp hw
      have mine : w ∈ work := mem_of_mem_participants (mem_of_mem_groupsOf hg hy) hw
      split_ifs <;> exact mine
  · obtain ⟨w, hw, rfl⟩ := List.mem_map.mp hx
    exact hw

/-! ### The home (R262 to R268) -/

theorem attendReq_of_served (h : FabServed s p.val 1 t m u) : exec (.attendReq p t) s = .next (serveHome u p.val m) := by
  change Machine.execAttendReq p t s = _
  rw [Machine.execAttendReq, h.first]
  dsimp only
  rw [if_neg (by simp [h.active]), h.run fun v => serveHome v p.val m]

theorem serveHome_of_short (short : m.payload.length < 32) (s : State) (p : Nat) : serveHome s p m = fabReply s p m 2 stMalformed 3 none none [] := if_pos short

/-- What R263, R264 and R178 ask of a request at its home, for the record that it names and the scale table that it uses. -/
structure HomeLegal (u : State) (p : Nat) (m : FabMsg) (r : SpreadRec) (tb : Option ScaleTable) : Prop where
  whole : 32 ≤ m.payload.length
  body : bodyLegal m = true
  record : homeRecord u p m = .ok r
  fits : homeCheck m r = none
  scale : scaleOf { owner := ownerOf p, slot := none, ctx := 0, index := 0, words := [], cur := [], scale := (getPart u p).scales } (fld (m.b 3) 63 56) m.layer (m.firstHead + m.heads) r.dim = .ok tb

/-- The request that a home makes of a legal message (R264, R270, R524). -/
def homeOf (u : State) (p : Nat) (m : FabMsg) (r : SpreadRec) (tb : Option ScaleTable) : HomeReq :=
  let own := ownEndpoint u p
  let (plan, groups, ownTo) := planHome own (fld (m.b 3) 53 52) (shardWork m r)
  { part := p, num := u.fabric.nextNum, msg := m, dim := (dimOf r.dim).getD 64, deadline := u.time + 1000 * (if fld (m.b 0) 15 0 = 0 then 1000 else fld (m.b 0) 15 0)
    work := shardWork m r, groups := groups, ownTo := ownTo, scale := tb
    outstanding := (plan.filter fun x => x.work.endpoint != own && x.replyTo == own).map (·.work.shard)
    ownLeft := ((shardWork m r).filter fun w => w.endpoint == own).map (·.shard)
    shadows := plan.flatMap fun x => if x.alone then (shadowsOf u p x.work.endpoint).map fun k => (k, x.work.shard, none) else [] }

theorem serveHome_of_foreign {p : Nat} {r : SpreadRec} {tb : Option ScaleTable} (legal : HomeLegal u p m r tb) (touched : shardWork m r ≠ []) (foreign : ∀ w ∈ shardWork m r, w.endpoint ≠ ownEndpoint u p) :
    ∃ v, serveHome u p m = (match (getHome v u.fabric.nextNum).filter fun h => !h.answered with
        | some h => homeLost v h fun w => match (fabricQp v p w.endpoint).bind (getQp v) with
          | some q => q.state == .error
          | none => false
        | none => v) ∧ homeOf u p m r tb ∈ v.fabric.homes := by
  obtain ⟨whole, body, record, fits, scale⟩ := legal
  rw [serveHome, if_neg (by omega), if_neg (by simp [body]), record]
  dsimp only
  rw [fits]
  dsimp only
  rw [scale]
  dsimp only
  rw [if_neg (by simp [touched])]
  have noOwn : ∀ f : Dispatch → Bool, ((planHome (ownEndpoint u p) (fld (m.b 3) 53 52) (shardWork m r)).1.filter fun x => x.work.endpoint == ownEndpoint u p && f x) = [] :=
    fun f => List.filter_eq_nil_iff.mpr fun x hx => by simp [foreign _ (work_mem_of_mem_planHome hx)]
  rw [noOwn, List.foldl_nil]
  refine ⟨_, rfl, ?_⟩
  rw [homes_foldl fun v x => ?_]
  · exact List.mem_append_right _ (List.mem_singleton.mpr rfl)
  · rw [homes_foldl fun v k => ?_]
    · split
      · rfl
      · exact homes_fabTo ..
    · split
      · exact homes_fabTo ..
      · exact (homes_shadowCount ..).trans (homes_fabTo ..)

/-! ### The member (R265) -/

theorem memberReq_of_served (h : FabServed s p.val 3 t m u) : exec (.memberReq p t) s = .next (startMember u p.val m none) := by
  change Machine.execMemberReq p t s = _
  rw [Machine.execMemberReq, h.first]
  dsimp only
  rw [if_neg (by simp [h.active]), h.run fun v => startMember v p.val m none]

/-- What a member asks of a request for a sequence that it holds (R262, R265, R524). -/
structure MemberLegal (u : State) (p : Nat) (m : FabMsg) (r : SeqRec) : Prop where
  found : visibleSeq u p m.seq = some r
  epoch : m.epoch = 0 ∨ r.epoch = m.epoch
  body : bodyLegal m = true
  whole : m.payload.length = 32 + m.heads * m.qph * r.dim * m.eb

/-- The request that a member takes up: a descriptor of each head is still to commit. -/
def memberOf (u : State) (p : Nat) (m : FabMsg) (home : Option (Nat × Nat)) : MemberReq :=
  { part := p, num := u.fabric.nextNum, msg := m, home := home, work := (List.range m.heads).map fun j => BitVec.ofNat 32 (2 * j), groupWanted := if m.leader then m.treeSize else 0 }

/-- The member's state once it has taken up a request, before its descriptors join the flight. -/
def withMember (u : State) (p : Nat) (m : FabMsg) (home : Option (Nat × Nat)) : State :=
  { u with fabric := { u.fabric with nextNum := u.fabric.nextNum + 1, members := u.fabric.members ++ [memberOf u p m home] } }

@[simp] theorem flight_withMember (u : State) (p : Nat) (m : FabMsg) (home : Option (Nat × Nat)) : (withMember u p m home).flight = u.flight := rfl

/-- The descriptor of head j of a request that a member takes up in u, made in v (R216, R265). -/
def memberDesc (u : State) (p : Nat) (m : FabMsg) (r : SeqRec) (v : State) (j : Nat) : Desc :=
  let ws := memberWords m (m.firstHead + j) (attendFits u m r)
  let n := m.qph * r.dim * m.eb
  holdTables v p { owner := ownerOf p, slot := none, ctx := 16384 + u.fabric.nextNum, index := BitVec.ofNat 32 (2 * j), words := ws, cur := ws, time := v.time
                   input := some { bytes := slice m.payload (32 + j * n) n }, defaults := (getOwner v (ownerOf p)).defaults }

/-- A descriptor takes its locks and joins the flight (R88). -/
def joinFlight (v : State) (d : Desc) : State := { (takeLocks v d).1 with flight := (takeLocks v d).1.flight ++ [(takeLocks v d).2] }

theorem joinFlight_effect (s : State) (d : Desc) : (joinFlight s d).flight.length = s.flight.length + 1 ∧ (joinFlight s d).fabric = s.fabric := by
  have kept : Kept (partSet [.owners, .parts]) s (takeLocks s d).1 := kept_takeLocks rfl s d (.refl _ s)
  have flight : (takeLocks s d).1.flight = s.flight := kept.same .flight rfl
  exact ⟨by rw [joinFlight, flight, List.length_append]; rfl, kept.same .fabric rfl⟩

theorem joinFlight_foldl (made : State → Nat → Desc) (js : List Nat) (s : State) :
    (js.foldl (fun v j => joinFlight v (made v j)) s).flight.length = s.flight.length + js.length ∧ (js.foldl (fun v j => joinFlight v (made v j)) s).fabric = s.fabric := by
  induction js generalizing s with
  | nil => exact ⟨rfl, rfl⟩
  | cons j js ih =>
    obtain ⟨one, kept⟩ := joinFlight_effect s (made s j)
    obtain ⟨more, same⟩ := ih (joinFlight s (made s j))
    exact ⟨by rw [List.foldl_cons, more, one, List.length_cons]; omega, same.trans kept⟩

theorem startMember_of_legal {p : Nat} {r : SeqRec} (legal : MemberLegal u p m r) (home : Option (Nat × Nat)) :
    startMember u p m home = (List.range m.heads).foldl (fun v j => joinFlight v (memberDesc u p m r v j)) (withMember u p m home) := by
  obtain ⟨found, epoch, body, whole⟩ := legal
  have same : ∀ x, visibleSeq { u with fabric := x } p m.seq = some r := fun _ => found
  rw [startMember]
  dsimp only
  rw [same, Option.filter_some_pos (by simpa using epoch)]
  dsimp only
  rw [if_neg (by simp [body]), if_neg (by simp [whole])]
  rfl

/-! ### Replies (R264, R268, R317) -/

theorem memberReply_of_up {x : ReplyFor} (picked : (pickMsg s p.val fun m => if m.typ = 4 then replyFor s p.val m else none) = some (m, x)) (up : seqUp (atTime s t) m.reqId = true) :
    exec (.memberReply p t) s = .next (takeReply (dropMsg (seqWork (atTime s t) m.reqId) p.val m) p.val m x) := by
  change Machine.execMemberReply p t s = _
  rw [Machine.execMemberReply, picked]
  exact congrArg _ (withSequencer_of_seqUp up _)

theorem sameBut_staleReply (s : State) (p t reqId : Nat) (m : FabMsg) :
    SameBut (partSet [.time, .fabric, .power]) s (dropStale (dropMsg (seqWork (atTime s t) m.reqId) p m) p reqId) :=
  (kept_dropStale rfl _ _ _ (kept_dropMsg rfl _ _ _ (kept_atWork rfl _ (kept_atTime rfl s t (.refl _ s))))).same

/-- The SEND that waits for a reply, which ATTEND_REPLY looks for in a message (R317). -/
abbrev sendFor (s : State) (p : Nat) (m : FabMsg) : Option (Option Desc) :=
  if m.typ = 2 then some (replySend s p m) else if m.typ = 4 then (replySend s p m).map some else none

theorem attendReply_of_waiting {d : Desc} {v : State} (picked : pickMsg s p.val (sendFor s p.val) = some (m, some d)) (on : domsOn (atTime s t) (locDoms s d.owner (d.w 7)) = true)
    (hu : u = dropMsg (atWork (atTime s t) (locDoms s d.owner (d.w 7))) p.val m) (written : m.payload = [] ∧ v = u ∨ m.payload ≠ [] ∧ writeOut u d 7 m.payload = .ok v) :
    exec (.attendReply p t) s = .next (settleDrains (endNow v d m.status m.detail (some m.res0) (some m.res1.toNat))) := by
  have put : (if m.payload.isEmpty then .ok u else writeOut u d 7 m.payload : Except (Nat × Nat) State) = .ok v := by
    rcases written with ⟨empty, rfl⟩ | ⟨some, written⟩
    · simp [empty]
    · rw [if_neg (by simpa using some), written]
  change Machine.execAttendReply p t s = _
  rw [Machine.execAttendReply, picked]
  dsimp only
  rw [withDoms_of_domsOn on, ← hu, put]

theorem attendReply_of_none (picked : pickMsg s p.val (sendFor s p.val) = some (m, none)) :
    exec (.attendReply p t) s = .next (dropFab (dropMsg (atTime s t) p.val m)) := by
  change Machine.execAttendReply p t s = _
  rw [Machine.execAttendReply, picked]

/-! ### Deadlines (R268, R317) -/

theorem fabricDeadline_of_unanswered {n : Nat} {h : HomeReq} (held : getHome s n = some h) (part : h.part = p.val) (due : h.deadline ≤ t) (open_ : h.answered = false) (alone : h.shadows = [])
    (memberless : (s.fabric.members.filter fun m => (m.home.map (·.1)) == some n) = []) :
    exec (.fabricDeadline p n t) s = .next (dropHome (homeFail (atTime s t) h stFlushed 2 none) n) := by
  have members : (atTime s t).fabric.members = s.fabric.members := rfl
  change Machine.execFabricDeadline p n t s = _
  rw [Machine.execFabricDeadline, held]
  dsimp only
  rw [if_neg (by omega), members, memberless, open_, alone]
  rfl

theorem fabricReplyTimeout_of_due {q : Nat} {i : BitVec 32} {d : Desc} (hd : findDesc s q i = some d) (running : d.phase = .running) (opcode : d.opcode = 0x09)
    (subop : d.subop = 4) (waits : bit (d.w 2) 62 = true) (due : d.time + 1000000000 ≤ t) : exec (.fabricReplyTimeout q i t) s = .next (settleDrains (endNow (netStopped (atTime s t) d) d stFlushed 3)) := by
  change Machine.execFabricReplyTimeout q i t s = _
  rw [Machine.execFabricReplyTimeout, hd]
  exact if_pos (by simp [running, opcode, subop, waits, due])

end

/-- Settles O40, from what the home, the member and the asker answer in the state that each clause names. -/
theorem attentionAcrossNodes : Obligations.AttentionAcrossNodes := by
  refine ⟨?home, ?short, ?member, ?shard, ?stale, ?waiting, ?unawaited, ?deadline, ?timeout⟩
  case home =>
    intro p t m r tb u s first active up taken whole body record fits scale touched foreign
    have served : FabServed s p.val 1 t m u := ⟨first, active, up, taken⟩
    obtain ⟨v, run, held⟩ := serveHome_of_foreign ⟨whole, body, record, fits, scale⟩ touched foreign
    exact ⟨v, homeOf u p.val m r tb, (attendReq_of_served served).trans (congrArg _ run), held, rfl, served.nextNum, rfl, rfl, rfl, rfl, rfl⟩
  case short =>
    intro p t m u s first active up taken short
    rw [attendReq_of_served ⟨first, active, up, taken⟩, serveHome_of_short short]
  case member =>
    intro p t m r u s first active up taken found epoch body whole
    have served : FabServed s p.val 3 t m u := ⟨first, active, up, taken⟩
    rw [memberReq_of_served served, startMember_of_legal ⟨found, epoch, body, whole⟩]
    obtain ⟨flight, fabric⟩ := joinFlight_foldl (memberDesc u p.val m r) (List.range m.heads) (withMember u p.val m none)
    refine ⟨_, memberOf u p.val m none, rfl, ?_, rfl, served.nextNum, rfl, rfl, rfl, ?_⟩
    · rw [fabric]
      exact List.mem_append_right _ (List.mem_singleton.mpr rfl)
    · rw [flight, flight_withMember, List.length_range, served.flight]
  case shard =>
    intro p t n k m s picked up
    exact memberReply_of_up picked up
  case stale =>
    intro p t m s picked up
    exact ⟨_, memberReply_of_up picked up, sameBut_staleReply s p.val t m.reqId m, rfl⟩
  case waiting =>
    intro p t m d u v s picked on hu written
    exact attendReply_of_waiting picked on hu written
  case unawaited =>
    intro p t m s picked
    exact ⟨_, attendReply_of_none picked, (kept_dropFab rfl _ (kept_dropMsg rfl _ _ _ (kept_atTime rfl s t (.refl _ s)))).same, rfl, rfl⟩
  case deadline =>
    intro p n t h s held part due open_ alone memberless
    exact fabricDeadline_of_unanswered held part due open_ alone memberless
  case timeout =>
    intro q t i d s hd running opcode subop waits due
    exact fabricReplyTimeout_of_due hd running opcode subop waits due

end Sys2Proof.Proofs
end

section
/-!
Spread records and the sender of a handoff: what SPREAD_SET stages, and each step from HANDOFF_REQ to COMMIT_ACK, with the timers and the loss of the node toward which a handoff goes.
-/
namespace Sys2Proof.Proofs

open Sys2Proof.Machine (State exec)
open Sys2Proof.Laws

section
variable {s u v w : State} {p : Fin 16} {t n : Nat} {m : FabMsg} {d : Desc} {o : Outgoing}

/-! ### Spread records (R256 to R258) -/

/-- The ID that a SPREAD_SET names. -/
abbrev spreadSeq (m : FabMsg) : Nat := fld (wd (toWords 4 m.payload) 0) 63 32

/-- A SPREAD_SET of the SEND d is served in u (SPREAD_SET tells no time), and no sequence has or is being given the ID that it names (R258). -/
structure SpreadDue (s : State) (p : Nat) (m : FabMsg) (d : Desc) (u : State) : Prop where
  first : fabFirst s p 0x10 = some m
  sender : (m.origin.bind fun o => findDesc s o.1 o.2) = some d
  active : memActive s = true
  up : seqUp s m.reqId = true
  taken : u = fabTake (seqWork s m.reqId) p 0x10
  unmade : ((getSeq u p (spreadSeq m)).isSome || (u.flight.any fun x => x.owner == d.owner && x.opcode == 2 && x.newSeqs.contains (spreadSeq m))) = false

theorem spreadSet_of_record {r : SpreadRec} {b : Blocks} (due : SpreadDue s p.val m d u) (set : bit (wd (toWords 4 m.payload) 0) 31 = false) (record : spreadOf m.payload = some r)
    (block : takeBlocks u p.val 1 = some (b, v)) :
    exec (.spreadSet p) s = .next (putDesc (modPart v p.val fun x => { x with reservedSeqs := spreadSeq m :: x.reservedSeqs }) { d.finish stDone 0 (some r.shards.length) with
      effects := d.effects ++ [.spread p.val (spreadSeq m) (some { r with block := some b })], blocks := b :: d.blocks, newSeqs := spreadSeq m :: d.newSeqs }) := by
  obtain ⟨first, sender, active, up, rfl, unmade⟩ := due
  change Machine.execSpreadSet p s = _
  rw [Machine.execSpreadSet, first]
  dsimp only
  rw [sender]
  dsimp only
  rw [if_neg (by simp [active]), withSequencer_of_seqUp up, if_neg (by simp [set]), record]
  dsimp only
  rw [if_neg (ne_true_of_eq_false unmade), block]

theorem spreadSet_of_remove (due : SpreadDue s p.val m d u) (remove : bit (wd (toWords 4 m.payload) 0) 31 = true) (whole : m.payload.length = 32)
    (w0 : wd (toWords 4 m.payload) 0 &&& maskOf 30 6 = 0#64) (w1 : wd (toWords 4 m.payload) 1 &&& maskOf 46 0 = 0#64) (w2 : wd (toWords 4 m.payload) 2 = 0#64) (w3 : wd (toWords 4 m.payload) 3 = 0#64) :
    exec (.spreadSet p) s = .next (putDesc u { d.finish stDone 0 (some 0) with effects := d.effects ++ [.spread p.val (spreadSeq m) none] }) := by
  obtain ⟨first, sender, active, up, rfl, unmade⟩ := due
  change Machine.execSpreadSet p s = _
  rw [Machine.execSpreadSet, first]
  dsimp only
  rw [sender]
  dsimp only
  rw [if_neg (by simp [active]), withSequencer_of_seqUp up, if_pos remove, if_neg (by simp [whole, w0, w1, w2, w3]), if_neg (ne_true_of_eq_false unmade)]

/-! ### The offer (R274 to R277) -/

/-- The lease time and the hold time that a HANDOFF_REQ asks for, in microseconds (R274). -/
def leaseUs (m : FabMsg) : Nat := if fld (m.b 1) 63 32 = 0 then 1000000 else fld (m.b 1) 63 32
def holdUs (m : FabMsg) : Nat := if fld (m.b 1) 31 0 = 0 then 10000 else fld (m.b 1) 31 0

/-- The body of a HANDOFF_REQ keeps its reserved bits, and its times are within their bounds (R274). -/
structure RequestLegal (m : FabMsg) : Prop where
  whole : m.payload.length = 32
  b0 : fld (m.b 0) 47 32 = 0
  b2 : fld (m.b 2) 57 0 = 0
  b3 : m.b 3 = 0#64
  leaseLeast : 1000 ≤ leaseUs m
  leaseMost : leaseUs m ≤ 10000000
  holdLeast : 100 ≤ holdUs m
  holdMost : holdUs m ≤ 1000000

/-- The partition may hand a sequence on: it is HELD at the epoch of the request, frozen and whole, and a queue pair toward the target is there and not in ERROR (R273 to R275). -/
structure MayOffer (u : State) (p : Nat) (m : FabMsg) (r : SeqRec) (n : Nat) : Prop where
  found : visibleSeq u p m.seq = some r
  held : r.lease = .held
  epoch : r.epoch = m.epoch
  frozen : r.frozen = true
  whole : seqLost u p r = false
  connected : fabricQp u p (fld (m.b 0) 63 48) = some n
  live : ((getQp u n).map (·.state)) ≠ some .error

/-- The offer that a HANDOFF_REQ makes of a sequence (R273, R276). -/
def offerOf (u : State) (p : Nat) (m : FabMsg) (r : SeqRec) : Outgoing :=
  { part := p, seq := m.seq, msg := m, target := fld (m.b 0) 63 48, targetSeq := fld (m.b 0) 31 0, epoch := r.epoch, leaseEnd := u.time + 1000 * leaseUs m, holdUs := holdUs m
    pagesSent := (r.heads.map fun h => h.entries.length).sum }

/-- The lease is OFFERED, and the offer is remembered (R272, R273). -/
def offered (u : State) (m : FabMsg) (o : Outgoing) : State :=
  let v := setLease u o.part o.seq fun r => { r with lease := .offered m.reqId }
  { v with fabric := { v.fabric with outgoing := v.fabric.outgoing ++ [o] } }

theorem handoffReq_of_legal {r : SeqRec} (served : FabServed s p.val 0x20 t m u) (sender : (m.origin.bind fun o => findDesc s o.1 o.2) = some d) (legal : RequestLegal m) (may : MayOffer u p.val m r n)
    (ho : o = offerOf u p.val m r) (hw : w = offered u m o) :
    exec (.handoffReq p t) s = .next (fabTo w p.val o.target (handMsg w p.val 0x21 m.reqId (nextEpoch r.epoch 1) o.targetSeq 0
      (ofWords [offerParams r m, put 63 32 o.pagesSent ||| put 31 0 (holdUs m), 0#64, 0#64]))) := by
  obtain ⟨first, active, up, rfl⟩ := served
  obtain ⟨whole, b0, b2, b3, leaseLeast, leaseMost, holdLeast, holdMost⟩ := legal
  obtain ⟨found, held, epoch, frozen, unlost, connected, live⟩ := may
  have shape : ¬(m.payload.length ≠ 32 ∨ fld (m.b 0) 47 32 ≠ 0 ∨ fld (m.b 2) 57 0 ≠ 0 ∨ m.b 3 ≠ 0#64 ∨ leaseUs m < 1000 ∨ leaseUs m > 10000000 ∨ holdUs m < 100 ∨ holdUs m > 1000000) := by
    simp only [whole, b0, b2, b3, ne_eq, not_true_eq_false, false_or]
    omega
  change Machine.execHandoffReq p t s = _
  rw [Machine.execHandoffReq, first]
  dsimp only
  rw [sender]
  dsimp only
  rw [if_neg (by simp [active]), withSequencer_of_seqUp up]
  refine congrArg _ ((if_neg shape).trans ?_)
  rw [found]
  dsimp only
  rw [if_neg (by simp [held, epoch]), if_neg (by simp [frozen]), if_neg (by simp [unlost]), connected, Option.filter_some_pos (by simpa using live), hw, ho]
  rfl

theorem ready_of_pages {r : SeqRec} {xs : List (List Byte)} (served : FabServed s p.val 0x22 t m u) (of_ : outgoingOf u p.val m = some o) (open_ : o.resend = none)
    (there : getSeq u p.val o.seq = some r) (read : travelPages u p.val r = .ok xs) :
    exec (.ready p t) s = .next ((packPages [] xs).foldl (fun s bs => fabTo s p.val o.target (handMsg s p.val 0x24 o.msg.reqId (nextEpoch o.epoch 1) o.targetSeq 0 bs)) u) := by
  obtain ⟨first, active, up, rfl⟩ := served
  change Machine.execReady p t s = _
  rw [Machine.execReady, first]
  dsimp only
  rw [if_neg (by simp [active]), withSequencer_of_seqUp up, of_, Option.filter_some_pos (by simp [open_])]
  dsimp only
  rw [there]
  dsimp only
  rw [read]

/-! ### From the answer of the receiver to the end (R273, R278) -/

theorem refuse_of_open (first : fabFirst s p.val 0x23 = some m) (hu : u = fabTake (atTime s t) p.val 0x23) (of_ : outgoingOf u p.val m = some o) (open_ : o.resend = none) :
    exec (.refuse p t) s = .next (handEnd (endOffer u o) o stNak m.detail) := by
  subst hu
  change Machine.execRefuse p t s = _
  rw [Machine.execRefuse, first]
  dsimp only
  rw [of_, Option.filter_some_pos (by simp [open_])]

theorem accept_in_time (first : fabFirst s p.val 0x25 = some m) (hu : u = fabTake (atTime s t) p.val 0x25) (of_ : outgoingOf u p.val m = some o) (open_ : o.resend = none) (inTime : u.time < o.leaseEnd)
    (epoch : m.epoch = nextEpoch o.epoch 1) (hv : v = setLease u p.val o.seq fun r => { r with hidden := true, lease := .escrow o.msg.reqId }) (hw : w = putOutgoing v { o with resend := some (v.time + 100000) }) :
    exec (.accept p t) s = .next (sendCommit (handEnd (match handDesc w o with
      | some d => putDesc w { d with latched := true }
      | none => w) o stDone 0 (some o.pagesSent) (some (nextEpoch o.epoch 1))) o) := by
  subst hu
  change Machine.execAccept p t s = _
  rw [Machine.execAccept, first]
  dsimp only
  rw [of_, Option.filter_some_pos (by simp [open_, inTime, epoch]), hw, hv] <;> rfl

theorem commitAck_of_committed (first : fabFirst s p.val 0x27 = some m) (hu : u = fabTake (atTime s t) p.val 0x27) (of_ : outgoingOf u p.val m = some o) (committed : o.resend.isSome = true)
    (hv : v = removeSeq (dropOutgoing u o) p.val o.seq) :
    exec (.commitAck p t) s = .next { v with fabric := { v.fabric with handedOn := assign v.fabric.handedOn (p.val, o.seq) (nextEpoch o.epoch 1) } } := by
  subst hu hv
  change Machine.execCommitAck p t s = _
  rw [Machine.execCommitAck, first]
  dsimp only
  rw [of_, Option.filter_some_pos (by simpa using committed)]

theorem commitNak_of_committed (first : fabFirst s p.val 0x28 = some m) (hu : u = fabTake (atTime s t) p.val 0x28) (of_ : outgoingOf u p.val m = some o) (committed : o.resend.isSome = true) :
    exec (.commitNak p t) s = .next (takeBack u o) := by
  subst hu
  change Machine.execCommitNak p t s = _
  rw [Machine.execCommitNak, first]
  dsimp only
  rw [of_, Option.filter_some_pos (by simpa using committed)]

theorem leaseTimerExpire_of_due (due : (s.fabric.outgoing.find? fun o => o.part == p.val && o.seq == n && o.resend.isNone && decide (o.leaseEnd ≤ t)) = some o) :
    exec (.leaseTimerExpire p n t) s = .next (abandonOffer (atTime s t) o stEscrow 0) := by
  change Machine.execLeaseTimerExpire p n t s = _
  rw [Machine.execLeaseTimerExpire, due]

theorem escrowCommitResend_of_due {x : Nat} (only : s.fabric.outgoing = [o]) (part : o.part = p.val) (seq : o.seq = n) (resend : o.resend = some x) (due : x ≤ t) :
    exec (.escrowCommitResend p n t) s = .next (sendCommit (putOutgoing (atTime s t) { o with resend := some ((atTime s t).time + 100000) }) o) := by
  change Machine.execEscrowCommitResend p n t s = _
  rw [Machine.execEscrowCommitResend, only, List.find?_cons_of_pos (by simp [part, seq, resend, due])]

/-! ### The loss of a node (R281, R520, R521) -/

/-- A message that meets none of the refusals of the mailbox has its own meaning (R441, R447, R450, R462). -/
theorem mboxRun_of_heard {x a : Owner} {typ : Nat} {b : MboxMsg} {from_ : MboxFrom} {fits : Bool} (h : Heard s x typ b from_ fits a) (k : Owner → State) : mboxRun s x typ b from_ fits k = k a := by
  obtain ⟨up, actor, quiet, served, sound⟩ := h
  rw [mboxRun, if_neg (by simp [up]), actor]
  dsimp only
  rw [if_neg (by simp [quiet]), sound]
  split
  case h_1 refused => cases refused
  case h_2 =>
    cases server : mboxServer s typ with
    | none => rfl
    | some y =>
      obtain ⟨here, unfenced⟩ := served y server
      dsimp only
      rw [if_neg (by simp [here]), if_neg (ne_true_of_eq_false unfenced)]

theorem lossNotice_of_legal {x a : Owner} {b : MboxMsg} (heard : Heard (atTime s t) x 0x61 b .manager (b.body.length == 16) a) (node : b.at_ 0 + 256 * b.at_ 1 ≤ 0xFFF)
    (clear : ((b.body.drop 2).take 6).all (· == 0#8) = true) :
    exec (.lossNotice x b t) s = .next (settleDrains (mboxReply (loseNode (atTime s t) (b.at_ 0 + 256 * b.at_ 1)).1 x 0x61 b stDone 0 (some (loseNode (atTime s t) (b.at_ 0 + 256 * b.at_ 1)).2))) := by
  have legal : ¬(b.at_ 0 + 256 * b.at_ 1 > 0xFFF ∨ ((b.body.drop 2).take 6).any (· != 0#8) = true) := by
    rw [not_or, List.any_eq_true, List.all_eq_true] at *
    refine ⟨by omega, fun ⟨y, hy, ne⟩ => ?_⟩
    simp [eq_of_beq (clear y hy)] at ne
  change Machine.execLossNotice x b t s = _
  rw [Machine.execLossNotice]
  dsimp only
  rw [mboxRun_of_heard heard, if_neg legal]

end

/-- Settles O41, from what the owner of a spread record and the sender of a handoff answer in the state that each clause names. -/
theorem spreadsAndOffers : Obligations.SpreadsAndOffers := by
  refine ⟨?set, ?remove, ?request, ?ready, ?refuse, ?accept, ?ack, ?nak, ?lease, ?resend, ?loss⟩
  case set =>
    intro p m d r b u v s first sender active up taken set record unmade block
    exact spreadSet_of_record ⟨first, sender, active, up, taken, unmade⟩ set record block
  case remove =>
    intro p m d u s first sender active up taken remove whole w0 w1 w2 w3 unmade
    exact spreadSet_of_remove ⟨first, sender, active, up, taken, unmade⟩ remove whole w0 w1 w2 w3
  case request =>
    rintro p t lease hold n m d r o u s first sender active up taken rfl rfl whole b0 b2 b3 leaseLeast leaseMost holdLeast holdMost found held epoch frozen unlost connected live rfl
    exact ⟨_, _, rfl, rfl, handoffReq_of_legal ⟨first, active, up, taken⟩ sender ⟨whole, b0, b2, b3, leaseLeast, leaseMost, holdLeast, holdMost⟩
      ⟨found, held, epoch, frozen, unlost, connected, live⟩ rfl rfl⟩
  case ready =>
    intro p t m o r xs u s first active up taken of_ open_ there read
    exact ready_of_pages ⟨first, active, up, taken⟩ of_ open_ there read
  case refuse =>
    intro p t m o u s first taken of_ open_
    exact refuse_of_open first taken of_ open_
  case accept =>
    intro p t m o u v w s first taken of_ open_ inTime epoch hv hw
    exact accept_in_time first taken of_ open_ inTime epoch hv hw
  case ack =>
    intro p t m o u v s first taken of_ committed hv
    exact commitAck_of_committed first taken of_ committed hv
  case nak =>
    intro p t m o u s first taken of_ committed
    exact commitNak_of_committed first taken of_ committed
  case lease =>
    intro p n t o s due
    exact leaseTimerExpire_of_due due
  case resend =>
    intro p n t x o s only part seq resend due
    exact escrowCommitResend_of_due only part seq resend due
  case loss =>
    intro o a m t s heard node clear
    exact ⟨_, _, rfl, lossNotice_of_legal heard node clear⟩

end Sys2Proof.Proofs
end

section
/-!
The receiver of a handoff: what it answers to an OFFER, to its PAGES and to COMMIT, and how a handoff that goes no further ends.
-/
namespace Sys2Proof.Proofs

open Sys2Proof.Machine (State exec)
open Sys2Proof.Laws

section
variable {s u v w : State} {p : Fin 16} {t n : Nat} {m : FabMsg} {x y : Incoming}

/-! ### The offer (R273, R276, R278) -/

/-- The body of an OFFER keeps its reserved bits (R276). -/
structure OfferLegal (m : FabMsg) : Prop where
  whole : m.payload.length = 32
  b2 : m.b 2 = 0#64
  b3 : m.b 3 = 0#64
  b0 : m.b 0 &&& (maskOf 38 32 ||| maskOf 23 21) = 0#64

/-- The endpoint from which a message comes: the peer of its queue pair, where that is there (R296). -/
abbrev senderOf (u : State) (m : FabMsg) : Nat := ((getQp u m.qpn).map (·.peer)).getD m.replyTo

/-- The handoff that an OFFER begins, with the frames that it reserves. -/
abbrev incomingFor (u : State) (p : Nat) (m : FabMsg) (fs : List FrameAddr) : Incoming :=
  { part := p, seq := m.seq, sender := senderOf u m, reqId := m.reqId, epoch := m.epoch, expected := fld (m.b 1) 63 32, holdUs := fld (m.b 1) 31 0
    deadline := u.time + 1000 * fld (m.b 1) 31 0, qpn := m.qpn, frames := fs }

theorem offer_of_legal (served : FabServed s p.val 0x21 t m u) (legal : OfferLegal m) :
    exec (.offer p t) s = .next (match takeOffer u p.val m with
      | .error det => toSender u (incomingFor u p.val m []) 0x23 det
      | .ok (fs, v) => acceptPages (toSender { v with fabric := { v.fabric with incoming := v.fabric.incoming ++ [incomingFor u p.val m fs] } } (incomingFor u p.val m fs) 0x22)
          (incomingFor u p.val m fs)) := by
  obtain ⟨first, active, up, rfl⟩ := served
  obtain ⟨whole, b2, b3, b0⟩ := legal
  change Machine.execOffer p t s = _
  rw [Machine.execOffer, first]
  dsimp only
  rw [if_neg (by simp [active]), withSequencer_of_seqUp up]
  exact congrArg _ (if_neg (by simp [whole, b2, b3, b0]))

/-! ### The pages (R273, R276, R277, R488) -/

theorem domsOn_of_all_on {ds : List Nat} (on : ∀ k, k < s.power.domains.length → (getDom s k).present = .on) (inside : ∀ k ∈ ds, k < s.power.domains.length) : domsOn s ds = true :=
  List.all_eq_true.mpr fun k hk => beq_of_eq (on k (inside k hk))

theorem pages_of_whole (first : fabFirst s p.val 0x24 = some m) (active : memActive s = true) (up : seqUp (atTime s t) m.reqId = true) (hu : u = fabTake (atTime s t) p.val 0x24)
    (of_ : incomingOf u p.val m = some x) (pending : x.accepted = false) (epoch : x.epoch = m.epoch) (taken : takePages u x false (cutPages (m.payload.length + 1) m.payload) = .ok (v, y, false))
    (hw : w = putIncoming v { y with deadline := v.time + 1000 * y.holdUs }) (on : ∀ k, k < s.power.domains.length → (getDom s k).present = .on)
    (inside : ∀ r, getSeq w p.val x.seq = some r → ∀ h ∈ r.heads, ∀ e ∈ h.entries, ∀ f b, e.2 = .frame f b → 84 + f.ext / 96 < s.power.domains.length) :
    exec (.pages p t) s = .next (acceptPages w { y with deadline := v.time + 1000 * y.holdUs }) := by
  subst hu hw
  change Machine.execPages p t s = _
  rw [Machine.execPages, first]
  dsimp only
  rw [if_neg (by simp [active]), of_, Option.filter_some_pos (by simp [pending, epoch])]
  dsimp only
  rw [taken]
  dsimp only
  rw [withSequencer_of_seqUp up, withDoms_of_domsOn, if_neg Bool.false_ne_true]
  refine domsOn_of_all_on on fun k hk => ?_
  rw [if_neg Bool.false_ne_true, List.mem_eraseDups] at hk
  cases there : getSeq (putIncoming v { y with deadline := v.time + 1000 * y.holdUs }) p.val x.seq with
  | none => simp [there] at hk
  | some r =>
    simp only [there, Option.map_some, Option.getD_some] at hk
    obtain ⟨h, hh, hk⟩ := List.mem_flatMap.mp hk
    obtain ⟨⟨page, e⟩, he, hk⟩ := List.mem_filterMap.mp hk
    cases e with
    | frame f b =>
      cases hk
      exact inside r there h hh _ he f b rfl
    | spilled k b => cases hk

/-! ### The commit (R273) -/

theorem commit_in_time (first : fabFirst s p.val 0x26 = some m) (hu : u = fabTake (atTime s t) p.val 0x26) (of_ : incomingOf u p.val m = some x) (accepted : x.accepted = true) (inTime : u.time < x.deadline)
    (hv : v = setLease u p.val x.seq fun r => { r with hidden := false, frozen := true, epoch := x.epoch, commitTime := stamp u })
    (hw : w = { v with fabric := { v.fabric with incoming := v.fabric.incoming.filter (fun y => !(y.part == x.part && y.seq == x.seq))
                                                 remembered := v.fabric.remembered ++ [(p.val, senderOf u m, m.reqId, u.time)], handedOn := erase v.fabric.handedOn (p.val, x.seq) } }) :
    exec (.commit p t) s = .next (postEvent (fabSend w m.qpn (handMsg w p.val 0x27 m.reqId m.epoch m.seq)) (ownerOf p.val) 5 1 none x.seq (BitVec.ofNat 64 x.epoch) (BitVec.ofNat 64 x.sender)) := by
  subst hu hv hw
  change Machine.execCommit p t s = _
  rw [Machine.execCommit, first]
  dsimp only
  rw [of_, Option.filter_some_pos (by simpa using accepted)]
  exact if_pos inTime

theorem commit_of_forgotten (first : fabFirst s p.val 0x26 = some m) (hu : u = fabTake (atTime s t) p.val 0x26) (none_ : incomingOf u p.val m = none)
    (forgotten : (u.fabric.remembered.any fun x => x.1 == p.val && x.2.1 == senderOf u m && x.2.2.1 == m.reqId && decide (u.time < x.2.2.2 + 10000000000)) = false) :
    exec (.commit p t) s = .next (fabSend u m.qpn (handMsg u p.val 0x28 m.reqId m.epoch m.seq)) := by
  subst hu
  change Machine.execCommit p t s = _
  rw [Machine.execCommit, first]
  dsimp only
  rw [none_]
  exact if_neg (ne_true_of_eq_false forgotten)

/-! ### The other ends of a handoff (R273) -/

theorem abandon_of_incoming (first : fabFirst s p.val 0x29 = some m) (hu : u = fabTake (atTime s t) p.val 0x29) (of_ : incomingOf u p.val m = some x) :
    exec (.abandon p t) s = .next (dropIncoming u x) := by
  subst hu
  change Machine.execAbandon p t s = _
  rw [Machine.execAbandon, first]
  dsimp only
  rw [of_]

theorem holdTimerExpire_of_due (due : (s.fabric.incoming.find? fun x => x.part == p.val && x.seq == n && x.accepted && decide (x.deadline ≤ t)) = some x) :
    exec (.holdTimerExpire p n t) s = .next (dropIncoming (atTime s t) x) := by
  change Machine.execHoldTimerExpire p n t s = _
  rw [Machine.execHoldTimerExpire, due]

theorem pendingIdleExpire_of_due (due : (s.fabric.incoming.find? fun x => x.part == p.val && x.seq == n && !x.accepted && decide (x.deadline ≤ t)) = some x) :
    exec (.pendingIdleExpire p n t) s = .next (dropIncoming (atTime s t) x) := by
  change Machine.execPendingIdleExpire p n t s = _
  rw [Machine.execPendingIdleExpire, due]

/-- What a receiver still remembers after HANDOFF_MEMORY_EXPIRE it remembered before, and the handoff named is not among it once its 10 s are over. -/
theorem handoffMemoryExpire_forgets (p : Fin 16) (n id t : Nat) (s : State) :
    ∃ u, exec (.handoffMemoryExpire p n id t) s = .next u ∧ SameBut (partSet [.time, .fabric]) s u ∧
      ∀ x ∈ u.fabric.remembered, x ∈ s.fabric.remembered ∧ ¬(x.1 = p.val ∧ x.2.1 = n ∧ x.2.2.1 = id ∧ x.2.2.2 + 10000000000 ≤ t) := by
  refine ⟨_, rfl, ans_eq (x := exec (.handoffMemoryExpire p n id t) s) rfl (kept_execHandoffMemoryExpire rfl p n id t s (.refl _ s)) |>.same, fun x hx => ?_⟩
  obtain ⟨old, kept⟩ := List.mem_filter.mp hx
  refine ⟨old, fun ⟨part, sender, same, past⟩ => ?_⟩
  simp [part, sender, same, past] at kept

end

/-- Settles O42, from what the receiver of a handoff answers in the state that each clause names. -/
theorem handoffReceiver : Obligations.HandoffReceiver := by
  refine ⟨?offer, ?refusal, ?pages, ?commit, ?nak, ?abandon, ?hold, ?idle, handoffMemoryExpire_forgets⟩
  case offer =>
    rintro p t m x fs u v s first active up taken whole b2 b3 b0 made rfl
    rw [offer_of_legal ⟨first, active, up, taken⟩ ⟨whole, b2, b3, b0⟩, made]
  case refusal =>
    rintro p t det m x u s first active up taken whole b2 b3 b0 refused rfl
    rw [offer_of_legal ⟨first, active, up, taken⟩ ⟨whole, b2, b3, b0⟩, refused]
  case pages =>
    intro p t m x y u v w s first active hu of_ pending epoch taken hw on inside up
    exact pages_of_whole first active up hu of_ pending epoch taken hw on inside
  case commit =>
    intro p t m x u v w s first hu of_ accepted inTime hv hw
    exact commit_in_time first hu of_ accepted inTime hv hw
  case nak =>
    intro p t m u s first hu none_ forgotten
    exact commit_of_forgotten first hu none_ forgotten
  case abandon =>
    intro p t m x u s first hu of_
    exact abandon_of_incoming first hu of_
  case hold =>
    intro p n t x s due
    exact holdTimerExpire_of_due due
  case idle =>
    intro p n t x s due
    exact pendingIdleExpire_of_due due

end Sys2Proof.Proofs
end

section
/-!
Pause of a class on a link (R292, R294, R327). Each command passes its refusals and changes the pause record of one class of one link; a node with a valid node ID sends the pause frame that it owes (`sendPause_of_valid`).
-/
namespace Sys2Proof.Proofs

open Sys2Proof.Machine (State exec)

section
variable {s : State} {p k cls n t : Nat}

/-- A change of the pause record of a class of a link. -/
abbrev modPauseOf (s : State) (p k cls : Nat) (f : PauseS → PauseS) : State := modLink s p k fun l => l.modPause cls f

/-- A pause record that a pause frame of so many quanta has reached at a time: quanta 0 resume the class (R292). -/
abbrev heardPause (now ns quanta : Nat) (x : PauseS) : PauseS :=
  if quanta = 0 then { x with paused := false } else { x with paused := true, since := if x.paused then x.since else now, until_ := now + ns }

theorem sendPause_of_valid (valid : s.ports.nodeValid = true) (quanta : Nat) : sendPause s p k cls quanta = emit s (.pause p k cls quanta (pauseFrame s p k cls quanta)) := if_pos valid

theorem pauseReceive_of_lossless (live : linkLive s p k = true) (valid : s.ports.nodeValid = true) (ll : lossless s cls = true) :
    exec (.pauseReceive p k cls n t) s = .next (modPauseOf (atTime s t) p k cls (heardPause (atTime s t).time (quantaNs (getPort s p).mode n) n)) := by
  change Machine.execPauseReceive p k cls n t s = _
  rw [Machine.execPauseReceive, if_neg (by simp [live, valid]), if_neg (by simp [ll])]
  rfl

theorem pauseReceive_of_lossy (live : linkLive s p k = true) (valid : s.ports.nodeValid = true) (lossy : lossless s cls = false) :
    exec (.pauseReceive p k cls n t) s = .next (countNode (modPort s p fun x => { x with ignoredPause := x.ignoredPause + 1 }) 5) := by
  change Machine.execPauseReceive p k cls n t s = _
  rw [Machine.execPauseReceive, if_neg (by simp [live, valid]), if_pos (by simp [lossy])]

theorem pauseTimeExpire_of_past (paused : ((getLink s p k).pauseOf cls).paused = true) (past : ((getLink s p k).pauseOf cls).until_ ≤ t) :
    exec (.pauseTimeExpire p k cls t) s = .next (modPauseOf (atTime s t) p k cls fun x => { x with paused := false }) :=
  if_pos ⟨paused, past⟩

theorem pauseRefresh_of_full (live : linkLive s p k = true) (valid : s.ports.nodeValid = true) (own : ((getLink s p k).pauseOf cls).own = true)
    (full : 65536 < ((getLink s p k).pauseOf cls).ingress) :
    exec (.pauseRefresh p k cls) s = .next (emit s (.pause p k cls 0xFFFF (pauseFrame s p k cls 0xFFFF))) := by
  change Machine.execPauseRefresh p k cls s = _
  rw [Machine.execPauseRefresh, if_pos ⟨live, own, full⟩, sendPause_of_valid valid]

/-! ### PAUSE_LIMIT (R294) -/

/-- The node's own pause ended before its buffer has drained: frames of the class that arrive are discarded from now on. -/
abbrev ownEnded (x : PauseS) : PauseS := { x with own := false, ownExpired := true }

theorem ownPauseLimit_of_due (limit : pauseLimit s = some n) (valid : s.ports.nodeValid = true) (own : ((getLink s p k).pauseOf cls).own = true)
    (due : ((getLink s p k).pauseOf cls).ownSince + n ≤ t) :
    exec (.ownPauseLimit p k cls t) s =
      .next (emit (modPauseOf (atTime s t) p k cls ownEnded) (.pause p k cls 0 (pauseFrame s p k cls 0))) := by
  have still : (modPauseOf (atTime s t) p k cls ownEnded).ports.nodeValid = true := valid
  change Machine.execOwnPauseLimit p k cls t s = _
  rw [Machine.execOwnPauseLimit, limit]
  dsimp only
  rw [if_neg (by simp [own, due])]
  exact congrArg _ (sendPause_of_valid still 0)

/-- A link whose peer has paused a class past PAUSE_LIMIT: the class has lost its queued frames, and the link is marked down. -/
abbrev markedDown (s : State) (p k cls : Nat) : State :=
  settleLink (modLink (dropQueued s p k (some cls) false) p k fun l => { l with down := true }) p k

theorem remotePauseLimit_of_due (limit : pauseLimit s = some n) (ll : lossless s cls = true) (paused : ((getLink s p k).pauseOf cls).paused = true)
    (due : ((getLink s p k).pauseOf cls).since + n ≤ t) (up : (getLink s p k).down = false) :
    exec (.remotePauseLimit p k cls t) s = .next (closeDead (atTime s t) (postFm (markedDown (atTime s t) p k cls) 7 4 (linkSubject p k) (BitVec.ofNat 64 cls) 0#64)) := by
  change Machine.execRemotePauseLimit p k cls t s = _
  rw [Machine.execRemotePauseLimit, limit]
  dsimp only
  rw [if_neg (by simp [ll, paused, due, up])]

end

/-- Settles O30, from what each command of the pause rules makes of the pause record of its class. -/
theorem pauseRules : Obligations.PauseRules := by
  refine ⟨?receive, ?ignore, ?expire, ?refresh, ?own, ?remote⟩
  case receive =>
    intro p k cls n t s live valid ll
    exact pauseReceive_of_lossless live valid ll
  case ignore =>
    intro p k cls n t s live valid lossy
    exact pauseReceive_of_lossy live valid lossy
  case expire =>
    intro p k cls t s paused past
    exact pauseTimeExpire_of_past paused past
  case refresh =>
    intro p k cls s live valid own full
    exact pauseRefresh_of_full live valid own full
  case own =>
    intro p k cls n t s limit valid own due
    exact ownPauseLimit_of_due limit valid own due
  case remote =>
    intro p k cls n t s limit ll paused due up
    exact remotePauseLimit_of_due limit ll paused due up

end Sys2Proof.Proofs
end

section
/-!
The SEND station's transfers and the RECV station's buffers (R295 to R297, R310, R311, R313, R317 to R319). What nothing refuses (`TransferLegal`) puts its message in line (`inLine`), with the bytes of a source that is read
(`transferRun_of_source`) or, for a READ, without any (`transferRun_of_read`).
-/
namespace Sys2Proof.Proofs

open Sys2Proof.Machine (State exec)

section
variable {s u : State} {q n : Nat} {i : BitVec 32} {rd : HostRead} {d : Desc} {x : Qp} {bs : List Byte} {loc : Loc}

/-- The queue pair number of a descriptor's operation. -/
abbrev qpnOf (d : Desc) : Nat := fld (d.w 2) 19 0

/-! ### Transfers -/

/-- What R317 and R319 ask of a transfer before its places are looked at: its form is right, its queue pair is its owner's, of a service that takes it, READY, and resident. -/
structure TransferLegal (u : State) (d : Desc) (x : Qp) : Prop where
  form : transferForm d = none
  own : ownQp u d.owner (qpnOf d) = some x
  service : transferService d x.service = false
  ready : x.state = .ready
  resident : x.ctx ≠ none

/-- A queue pair is used now. -/
abbrev usedNow (u : State) (n : Nat) : State := modQp u n fun y => { y with lastUse := u.time }

/-- The message of a transfer, in line behind those that its queue pair has to send. -/
abbrev inLine (u : State) (d : Desc) (kind : MsgKind) (held data : List Byte) (len : Nat) (step : Bool) : State :=
  addMsg (putDesc (usedNow u (qpnOf d)) { d with phase := .running, held := held }) (qpnOf d)
    { num := 0, origin := some (d.ctx, d.index), kind := kind, data := data, len := len, tag := fld (d.w 4) 63 32, remote := d.w 5, rkey := fld (d.w 6) 31 0, step := step }

/-- A transfer that has a source carries its bytes, and step state when its place holds step state and they are not chained (R27). -/
theorem transferRun_of_source {kind : MsgKind} (legal : TransferLegal u d x) (source : kind ≠ .read)
    (reply : (bit (d.w 2) 62 && d.w 7 != 0#64) = true → ∃ loc, locate u d.owner (d.w 7) (occupied u d.owner (d.w 7) 0) true = .ok loc ∧ writable u loc = none)
    (input : transferData u d rd = .ok bs) :
    transferRun kind rd d u = inLine u d kind (if kind = .fabric then bs.take 32 else []) bs bs.length (!d.chainIn && stepPlace (usedNow u (qpnOf d)) d.owner (d.w 3)) := by
  obtain ⟨form, own, service, ready, resident⟩ := legal
  have sends : (kind != .read) = true := bne_iff_ne.mpr source
  simp only [transferRun, form, own]
  rw [if_neg (by simp [service]), if_neg (by simp [ready]), if_neg (by simp [ready]), if_neg (by simpa using resident)]
  simp only [if_neg source, sends, Bool.true_and, input]
  by_cases wanted : (bit (d.w 2) 62 && d.w 7 != 0#64) = true
  · obtain ⟨loc, found, free⟩ := reply wanted
    simp only [if_pos wanted, found, free]
  · simp only [if_neg wanted]

/-- A READ carries no bytes of its own: its destination is judged, and its message asks for SIZE bytes. -/
theorem transferRun_of_read (legal : TransferLegal u d x) (found : locate u d.owner (d.w 3) (occupied u d.owner (d.w 3) (fld (d.w 4) 31 0)) true = .ok loc) (free : writable u loc = none) :
    transferRun .read rd d u = inLine u d .read [] [] (fld (d.w 4) 31 0) false := by
  obtain ⟨form, own, service, ready, resident⟩ := legal
  simp only [transferRun, form, own]
  rw [if_neg (by simp [service]), if_neg (by simp [ready]), if_neg (by simp [ready]), if_neg (by simpa using resident)]
  simp only [if_pos, found, free]
  rfl

/-! ### FABRIC to the node's own endpoint (R261, R317) -/

/-- A FABRIC to the own node without WAIT_REPLY is done once the fabric service has its message, when no completion of the service answers it. The MSG_NUM that it reports is a free value. -/
theorem fabricLocal_of_done {p : Fin 16} {m : FabMsg} (form : transferForm d = none) (ho : d.owner = .part p) (untagged : fld (d.w 4) 63 32 = 0) (alone : bit (d.w 2) 62 = false)
    (input : transferData u d rd = .ok bs) (hm : m = parseFab bs 0 (some (d.ctx, d.index))) (spread : m.typ ≠ 0x10) (handoff : m.typ ≠ 0x20) :
    fabricLocal rd d u = fabDeliver (putDesc (draw u).2 (d.finish stDone 0 (some bs.length) (some ((draw u).1 % 2 ^ 32)))) p m := by
  subst hm
  simp only [fabricLocal, form, ho]
  rw [if_neg (by simp [untagged])]
  simp only [if_neg (show ¬(bit (d.w 2) 62 = true ∧ d.w 7 ≠ 0#64) by simp [alone]), input]
  rw [if_neg (by simp [spread, handoff, alone])]
  rfl

/-! ### POST (R313, R314, R318) -/

/-- The bytes that the buffer of a POST holds. -/
abbrev capacityOf (d : Desc) : Nat := fld (d.w 4) 31 0

/-- What R318 asks of a POST: its form is right, its queue pair is its owner's, of a service that takes it, not in ERROR, and resident. -/
structure PostLegal (u : State) (d : Desc) (x : Qp) : Prop where
  body : bodyOk d.cur [maskOf 19 0, allBits, maskOf 31 0, allBits] = true
  least : 0 < capacityOf d
  most : capacityOf d ≤ 268435456
  bare : d.len = 0
  own : ownQp u d.owner (qpnOf d) = some x
  messages : x.service.toFabric = false
  tag : d.w 5 = 0#64 ∨ x.service = .tagged
  live : x.state ≠ .error
  resident : x.ctx ≠ none

/-- The buffer of a POST, behind the receives of its queue pair. -/
abbrev postedBehind (u : State) (d : Desc) (x : Qp) : State :=
  modQp (putDesc u { d with phase := .running }) (qpnOf d) fun y => { y with
    posted := y.posted ++ [{ ctx := d.ctx, index := d.index, buffer := d.w 3, capacity := capacityOf d, tag := fld (d.w 5) 63 32, mask := fld (d.w 5) 31 0, seq := x.postedCount }]
    postedCount := (y.postedCount + 1) % 2 ^ 32, lastUse := u.time }

/-- With no unexpected message to search, a POST leaves its buffer behind the others. -/
theorem postRun_of_legal (legal : PostLegal u d x) (found : locate u d.owner (d.w 3) (occupied u d.owner (d.w 3) (capacityOf d)) true = .ok loc) (free : writable u loc = none)
    (expected : (x.rxMsgs.all fun m => !m.unexpected) = true) : postRun d u = postedBehind u d x := by
  obtain ⟨body, least, most, bare, own, messages, tag, live, resident⟩ := legal
  have form : ¬((!bodyOk d.cur [maskOf 19 0, allBits, maskOf 31 0, allBits]) = true ∨ capacityOf d = 0 ∨ capacityOf d > 268435456) := by
    rintro (h | h | h)
    · simp [body] at h
    · omega
    · omega
  have served : ¬(x.service.toFabric = true ∨ d.w 5 ≠ 0#64 ∧ x.service ≠ .tagged) := by
    rintro (h | ⟨h, h'⟩)
    · simp [messages] at h
    · exact tag.elim h h'
  have none_fits (f : RxMsg → Bool) : x.rxMsgs.filter (fun m => m.unexpected && !m.failed && f m) = [] := by
    rw [List.all_eq_true] at expected
    exact List.filter_eq_nil_iff.mpr fun m hm => by simp [show m.unexpected = false by simpa using expected m hm]
  rw [postRun]
  dsimp only
  rw [if_neg form, if_neg (by simp [bare]), own]
  dsimp only
  rw [if_neg served, if_neg live, if_neg (by simpa using resident), found]
  dsimp only
  rw [free]
  dsimp only
  rw [none_fits]
  rfl

end

/-! ### The start of a message (R304, R307, R311) -/

section
variable {s u : State} {n t : Nat} {q : Qp} {m : TxMsg}

/-- The oldest message of a queue pair that has not begun may start: the queue pair is resident and not in ERROR, and no message 64 before it is open. -/
structure StartDue (s : State) (n : Nat) (q : Qp) (m : TxMsg) : Prop where
  found : getQp s n = some q
  live : q.state ≠ .error
  resident : q.ctx ≠ none
  committed : (s.flight.any fun d => d.owner == ownerOf q.part && d.opcode == 0x09 && fld (d.w 2) 19 0 == n && (d.msg.map fun k => decide (sub32 q.nextMsg k ≥ 64)) == some true) = false
  near : (q.txMsgs.any fun m => m.started && decide (sub32 q.nextMsg m.num ≥ 64)) = false
  oldest : (q.txMsgs.find? fun m => !m.started) = some m

/-- The descriptor behind a message learns its MSG_NUM. -/
abbrev numbered (s : State) (m : TxMsg) (num : Nat) : State :=
  match m.origin.bind fun x => findDesc s x.1 x.2 with
  | some d => putDesc s { d with msg := some num }
  | none => s

/-- A message starts under a MSG_NUM, behind those that have started. -/
abbrev startedAs (u : State) (m : TxMsg) (num : Nat) (y : Qp) : Qp :=
  { y with nextMsg := (y.nextMsg + 1) % 2 ^ 32, lastUse := u.time
           txMsgs := (y.txMsgs.erase m).filter (·.started) ++ [{ m with started := true, num := num }] ++ (y.txMsgs.erase m).filter (fun x => !x.started) }

theorem messageStart_of_due (due : StartDue s n q m) (paths : ∀ k ∈ q.openLanes, pathOf (atTime s t) q k = true) (hu : u = numbered (atTime s t) m q.nextMsg) :
    exec (.messageStart n t) s = .next (pumpQp (modQp u n (startedAs u m q.nextMsg)) n) := by
  obtain ⟨found, live, resident, committed, near, oldest⟩ := due
  have here : getQp (atTime s t) n = some q := found
  have noneLost : (q.openLanes.filter fun k => !pathOf (atTime s t) q k) = [] := List.filter_eq_nil_iff.mpr fun k hk => by simp [paths k hk]
  change Machine.execMessageStart n t s = _
  rw [Machine.execMessageStart, found]
  dsimp only
  rw [if_neg (by simp [live, resident, committed, near]), oldest]
  dsimp only
  rw [noneLost, List.foldl_nil, here]
  dsimp only
  rw [hu]
  exact if_neg live

end

/-- Settles O43, from the message that a legal transfer puts in line, the buffer that a POST leaves, and the start of the oldest message. -/
theorem transfers : Obligations.Transfers := by
  refine ⟨?message, ?write, ?read, ?fabric, ?own, ?post, ?start⟩
  case message =>
    rintro q n i rd d x bs u s taken hu rfl form own service ready resident noReply input
    exact stationRun_ends taken hu (transferRun_of_source ⟨form, own, service, ready, resident⟩ (by decide) (by simp [noReply]) input)
  case write =>
    rintro q n i rd d x bs u s taken hu rfl form own service ready resident noReply input
    exact stationRun_ends taken hu (transferRun_of_source ⟨form, own, service, ready, resident⟩ (by decide) (by simp [noReply]) input)
  case read =>
    rintro q n i d x loc u s taken hu rfl form own service ready resident found free
    exact stationRun_ends taken hu (transferRun_of_read ⟨form, own, service, ready, resident⟩ found free)
  case fabric =>
    rintro q n i rd d x bs u s taken remote hu rfl form own service ready resident reply input
    have wanted (h : (bit (d.w 2) 62 && d.w 7 != 0#64) = true) := reply ((Bool.and_eq_true _ _).mp h).1 (bne_iff_ne.mp ((Bool.and_eq_true _ _).mp h).2)
    have run := transferRun_of_source (kind := .fabric) ⟨form, own, service, ready, resident⟩ (by decide) wanted input
    exact stationRun_ends taken hu ((if_neg (by simp [remote])).trans run)
  case own =>
    intro q i rd d p bs m u s taken own alone hu form ho untagged input hm spread handoff
    have run := fabricLocal_of_done form ho untagged alone input hm spread handoff
    exact ⟨(draw u).2, _, rfl, (Laws.kept_draw rfl u (.refl _ u)).same, stationRun_ends taken hu ((if_pos own).trans run)⟩
  case post =>
    rintro q n cap i d x loc u s taken hu rfl rfl body least most bare own messages tag live resident found free expected
    exact stationRun_ends taken hu (postRun_of_legal ⟨body, least, most, bare, own, messages, tag, live, resident⟩ found free expected)
  case start =>
    intro n t q m u s found live resident committed near oldest paths hu
    exact messageStart_of_due ⟨found, live, resident, committed, near, oldest⟩ paths hu

end Sys2Proof.Proofs
end

section
/-!
Operations on queue pairs (R295, R298 to R302, R322, R413). A QP_SETUP that nothing refuses (`SetupLegal`) and the operations on a named queue pair (`Named`) each end with their change (`qpDone`); what each change makes of a
queue pair stands in the second half.
-/
namespace Sys2Proof.Proofs

open Sys2Proof.Machine (State exec)

section
variable {s u v : State} {q n c : Nat} {i : BitVec 32} {p : Fin 16} {d : Desc} {x : Qp} {masks : List Word}

/-! ### QP_SETUP (R298, R301, R302, R413) -/

/-- What R298 asks of a QP_SETUP: the number is the partition's own and free, no program is setting it up, Belfry is there with its keys, the table describes a queue pair, and a fixed context is within the partition's count. -/
structure SetupLegal (u : State) (p : Fin 16) (d : Desc) (x : Qp) : Prop where
  owner : d.owner = .part p
  bare : d.len = 0
  number : ownsQpn u d.owner (qpnOf d) = true
  here : procAway u 0 = false
  keys : belfryFenced u = false
  unused : getQp u (qpnOf d) = none
  unclaimed : (u.flight.any fun y => y.setsUp (qpnOf d)) = false
  unstaged : d.setsUp (qpnOf d) = false
  table : setupQp u p d = some x
  fixed : x.resident = true ∨ spillKind u d.owner = 0 → mayFix u d.owner = true

/-- The RKEY of a new queue pair, a free value for a RoCEv2 service, and the state that has drawn it (R325). -/
abbrev drawnKey (v : State) (x : Qp) : Nat × State := if x.service.roce then draw v else (0, v)

theorem qpSetupRun_of_legal (legal : SetupLegal u p d x) (context : takeContext u d.owner true (qpnOf d) = some (c, v)) :
    qpSetupRun d u = qpDone (drawnKey v x).2 d (.setup (qpnOf d) { x with ctx := some c, rkey := (drawnKey v x).1 % 2 ^ 32 }) (some (qpnOf d))
      (if x.service.roce then some ((drawnKey v x).1 % 2 ^ 32) else none) := by
  obtain ⟨owner, bare, number, here, keys, unused, unclaimed, unstaged, table, fixed⟩ := legal
  have others : (u.flight.any fun y => !(y.ctx == d.ctx && y.index == d.index) && y.setsUp (qpnOf d)) = false := by
    rw [List.any_eq_false] at *
    exact fun y hy => by simp [unclaimed y hy]
  have within : ¬((x.resident || spillKind u d.owner == 0) = true ∧ (!mayFix u d.owner) = true) := by
    rintro ⟨h, h'⟩
    simp [fixed (by simpa using h)] at h'
  rw [owner] at number within context
  rw [qpSetupRun]
  simp only [owner]
  rw [if_neg (by simp [bare]), if_neg (by simp [number]), if_neg (by simp only [here, others, Bool.or_self, Bool.false_eq_true, not_false_eq_true]), if_neg (by simp [unused, unstaged]), table]
  dsimp only
  rw [if_neg (by simp [keys]), if_neg within, context]

theorem qpSetupRun_of_evomer (legal : SetupLegal u p d x) (evomer : x.service.roce = false) (context : takeContext u d.owner true (qpnOf d) = some (c, v)) :
    qpSetupRun d u = qpDone v d (.setup (qpnOf d) { x with ctx := some c, rkey := 0 }) (some (qpnOf d)) := by
  rw [qpSetupRun_of_legal legal context]
  simp only [drawnKey, evomer, Bool.false_eq_true, if_false, Nat.zero_mod]

theorem qpSetupRun_of_roce (legal : SetupLegal u p d x) (roce : x.service.roce = true) (context : takeContext u d.owner true (qpnOf d) = some (c, v)) :
    qpSetupRun d u = qpDone (draw v).2 d (.setup (qpnOf d) { x with ctx := some c, rkey := (draw v).1 % 2 ^ 32 }) (some (qpnOf d)) (some ((draw v).1 % 2 ^ 32)) := by
  rw [qpSetupRun_of_legal legal context]
  simp only [drawnKey, roce, if_true]

/-! ### A named queue pair (R295, R299) -/

/-- An operation on a queue pair is well formed and names one of its owner's. -/
structure Named (s : State) (d : Desc) (masks : List Word) (x : Qp) : Prop where
  body : bodyOk d.cur masks = true
  bare : d.len = 0
  own : ownQp s d.owner (qpnOf d) = some x

theorem qpNamed_of_named (named : Named s d masks x) (k : Nat → Qp → State → State) : qpNamed s d masks k = k (qpnOf d) x s := by
  obtain ⟨body, bare, own⟩ := named
  rw [qpNamed]
  rw [if_neg (by simp [body]), if_neg (by simp [bare]), own]

/-- A QP_MODIFY of an ACTION acts on the queue pair that it names. -/
theorem qpModify_of_named {action : Nat} (ready : stationDesc s q i 0x09 0x11 = some d) (acts : fld (d.w 2) 23 20 = action) (named : Named s d (maskOf 23 0 :: masks) x)
    (k : Desc → Nat → Qp → State → State) : qpModify s q i action masks k = .next (k d (qpnOf d) x s) := by
  rw [qpModify, ready]
  dsimp only
  rw [if_pos acts, qpNamed_of_named named]

theorem qpModifyReset_of_error (ready : stationDesc s q i 0x09 0x11 = some d) (acts : fld (d.w 2) 23 20 = 3) (named : Named s d [maskOf 23 0] x) (failed : x.state = .error) :
    exec (.qpModifyReset q i) s = .next (qpDone s d (.reset (qpnOf d))) := by
  change Machine.execQpModifyReset q i s = _
  rw [Machine.execQpModifyReset, qpModify_of_named ready acts named, if_pos failed]

theorem qpModifyRekey_of_handle {t : Nat} {h : KeyHandle} (ready : stationDesc (atTime s t) q i 0x09 0x11 = some d) (acts : fld (d.w 2) 23 20 = 4)
    (named : Named (atTime s t) d [maskOf 23 0, 0#64, maskOf 63 32] x) (here : procAway (atTime s t) 0 = false) (handle : lookup? s.belfry.handles (fld (d.w 4) 63 32) = some h)
    (own : h.part = x.part) (keys : belfryFenced (atTime s t) = false) :
    exec (.qpModifyRekey q i t) s = .next (qpDone (atTime s t) d (.rekey (qpnOf d) h.epoch h.secret (fld (d.w 4) 63 32))) := by
  have found : lookup? (atTime s t).belfry.handles (fld (d.w 4) 63 32) = some h := handle
  change Machine.execQpModifyRekey q i t s = _
  rw [Machine.execQpModifyRekey, qpModify_of_named ready acts named, if_neg (by simp [here]), found]
  dsimp only
  rw [if_neg (by simp [own]), if_neg (by simp [keys])]

theorem qpModifyLanes_of_legal {lanes : Nat} (ready : stationDesc s q i 0x09 0x11 = some d) (acts : fld (d.w 2) 23 20 = 5) (named : Named s d [maskOf 23 0, maskOf 39 32] x)
    (hl : lanes = fld (d.w 3) 39 32) (nonempty : 0 < lanes) (fitted : lanes < 2 ^ planeCount s) (roce : x.service.roce = true → lanes = 1)
    (still : ((List.range 8).any fun k => (lanes >>> k) % 2 == 1 && (x.lane k).moving) = false) :
    exec (.qpModifyLanes q i) s = .next (qpDone s d (.lanes (qpnOf d) lanes)) := by
  subst hl
  have legal : ¬(fld (d.w 3) 39 32 = 0 ∨ fld (d.w 3) 39 32 ≥ 2 ^ planeCount s ∨ x.service.roce = true ∧ fld (d.w 3) 39 32 ≠ 1) := by
    rintro (h | h | ⟨h, h'⟩)
    · omega
    · omega
    · exact h' (roce h)
  change Machine.execQpModifyLanes q i s = _
  rw [Machine.execQpModifyLanes, qpModify_of_named ready acts named]
  dsimp only
  rw [if_neg legal, if_neg (by simp only [still, Bool.false_eq_true, not_false_eq_true])]

/-! ### Queue pairs after a change -/

theorem getQp_modQp_self {y : Qp} (found : getQp s n = some y) (f : Qp → Qp) : getQp (modQp s n f) n = some (f y) := by
  change lookup? (adjust s.net.qps n f) n = _
  rw [lookup?_adjust, if_pos rfl, show lookup? s.net.qps n = some y from found, Option.map_some]

/-- What is kept of a sending key changes no queue pair. -/
theorem getQp_keepNonce (s : State) (n m : Nat) : getQp (keepNonce s n) m = getQp s m := by
  rw [keepNonce]
  split <;> rfl

theorem time_keepNonce (s : State) (n : Nat) : (keepNonce s n).time = s.time := by
  rw [keepNonce]
  split <;> rfl

theorem getQp_changeQp_setup (unused : getQp s n = none) (x : Qp) : getQp (changeQp s (.setup n x)) n = some (x.afterNonces s n) := by
  change lookup? (s.net.qps ++ [(n, x.afterNonces s n)]) n = _
  rw [lookup?_append_single, show lookup? s.net.qps n = none from unused, if_pos rfl, Option.none_or]

/-- A queue pair under a new key: the old one stays for 2 ms (R322). -/
abbrev rekeyed (time epoch handle : Nat) (secret : List Byte) (y : Qp) : Qp :=
  { y with oldEpoch := some (y.epoch, time + 2000000), oldSecret := y.secret, epoch := epoch, secret := secret, handle := handle, keysDead := false, esp := (0, []), espOld := y.esp }

theorem getQp_changeQp_rekey {y : Qp} (found : getQp s n = some y) (epoch handle : Nat) (secret : List Byte) :
    getQp (changeQp s (.rekey n epoch secret handle)) n = some ((rekeyed s.time epoch handle secret y).afterNonces (keepNonce s n) n) := by
  have kept : getQp (keepNonce s n) n = some y := (getQp_keepNonce s n n).trans found
  rw [changeQp, getQp_modQp_self kept, time_keepNonce]

/-- A destroyed queue pair is gone, with the packets that waited for it and the fetch of its context (R300). -/
theorem changeQp_destroy_forgets (n : Nat) (s : State) :
    getQp (changeQp s (.destroy n)) n = none ∧ (∀ m ∈ (changeQp s (.destroy n)).net.miss, m.1 ≠ n) ∧ lookup? (changeQp s (.destroy n)).net.fetching n = none := by
  have erased {β : Type} (m : List (Nat × β)) : lookup? (erase m n) n = none := by
    rw [lookup?, Option.map_eq_none_iff, List.find?_eq_none]
    exact fun e he => by simpa [erase] using (List.mem_filter.mp he).2
  refine ⟨erased _, fun m hm => ?_, erased _⟩
  simpa using (List.mem_filter.mp hm).2

end

/-- Settles O44, from the operations that end with their change, and from what each change makes of its queue pair. -/
theorem queuePairs : Obligations.QueuePairs := by
  refine ⟨?setup, ?setupRoce, ?error, ?drain, ?reset, ?rekey, ?lanes, ?destroy, ?query, ?madeSetup, ?made, changeQp_destroy_forgets⟩
  case setup =>
    rintro q n c i p d x u v s taken hu rfl owner bare number here keys unused unclaimed unstaged table evomer fixed context
    exact stationRun_ends taken hu (qpSetupRun_of_evomer ⟨owner, bare, number, here, keys, unused, unclaimed, unstaged, table, fixed⟩ evomer context)
  case setupRoce =>
    rintro q n c i p d x u v s taken hu rfl owner bare number here keys unused unclaimed unstaged table roce fixed context
    exact ⟨(draw v).2, (draw v).1 % 2 ^ 32, stationRun_ends taken hu (qpSetupRun_of_roce ⟨owner, bare, number, here, keys, unused, unclaimed, unstaged, table, fixed⟩ roce context),
      (Laws.kept_draw rfl v (.refl _ v)).same, Nat.mod_lt _ (by decide)⟩
  case error =>
    rintro q n i d x s ready acts body bare rfl own
    exact qpModify_of_named ready acts ⟨body, bare, own⟩ _
  case drain =>
    rintro q n i d x s ready acts body bare rfl own
    exact qpModify_of_named ready acts ⟨body, bare, own⟩ _
  case reset =>
    rintro q n i d x s ready acts body bare rfl own failed
    exact qpModifyReset_of_error ready acts ⟨body, bare, own⟩ failed
  case rekey =>
    rintro q n t i d x h s ready acts body bare rfl own here handle part keys
    exact qpModifyRekey_of_handle ready acts ⟨body, bare, own⟩ here handle part keys
  case lanes =>
    rintro q n lanes i d x s ready acts body bare rfl own hl nonempty fitted roce still
    exact qpModifyLanes_of_legal ready acts ⟨body, bare, own⟩ hl nonempty fitted roce still
  case destroy =>
    rintro q n i d x u s taken hu body bare rfl own
    exact stationRun_ends taken hu (qpNamed_of_named ⟨body, bare, own⟩ _)
  case query =>
    rintro q n i d x u s taken hu body bare rfl own
    exact stationRun_ends taken hu (qpNamed_of_named ⟨body, bare, own⟩ _)
  case madeSetup =>
    intro n x s unused
    exact getQp_changeQp_setup unused x
  case made =>
    intro n e h lanes secret y s found
    exact ⟨getQp_modQp_self found _, getQp_changeQp_rekey found e h secret, getQp_modQp_self found _⟩

end Sys2Proof.Proofs
end

section
/-!
Packets and timers of a queue pair (R290, R303 to R309, R312, R316, R320 to R325). A packet that gets through (`Admitted`) under a key of its queue pair acts there by its type (`takePacket_of_authentic`); a timer acts once it is due; a RoCEv2 packet that
gets through (`RoceKept`) acts when its ESP association takes it.
-/
namespace Sys2Proof.Proofs

open Sys2Proof.Machine (State exec)

/-! ### A packet that gets through (R290, R303, R320) -/

section
variable {s : State} {k : Packet} {n t : Nat} {q : Qp}

/-- Admission gives a queue pair of the state, by its number. -/
theorem getQp_of_admission (found : admission s k = .ok (n, q)) : getQp s n = some q := by
  rw [admission] at found
  dsimp only at found
  repeat' split at found
  all_goals cases found
  assumption

theorem takePacket_of_admitted (h : Admitted s k n q) : takePacket s k = handlePacket s n k := by
  obtain ⟨valid, kept, found, resident, live⟩ := h
  rw [takePacket, if_neg (by simp [valid]), kept]
  dsimp only
  rw [found]
  dsimp only
  rw [if_neg (by simp [resident])]

/-- What a packet acknowledges of its lane and space. -/
abbrev acknowledged (s : State) (n : Nat) (k : Packet) : State := ackUpTo (clearRnr s n k.lane k.space k.psn) n k.lane k.space k.psn

/-- What an authentic packet does on its queue pair, by its type (R306 to R308, R316): `handlePacket` behind its refusals. -/
def actByType (s : State) (n : Nat) (q : Qp) (k : Packet) : State :=
  match k.typ with
  | .ack => settleSends (acknowledged s n k) n
  | .nak => receiveNak s n q k
  | .laneSync =>
    sendCtl (modQp s n fun y => y.modLane (k.msgNum % 8) fun l => { l with closedRx := true }) n .laneSyncReply k.lane 1 ((q.lane (k.msgNum % 8)).rx.expected + 2 ^ 24 - 1) (k.msgNum % 8)
  | .laneSyncReply =>
    if (q.lane (k.msgNum % 8)).closedTx ∧ (q.lane (k.msgNum % 8)).sync.isSome then settleSends (moveLane s n (k.msgNum % 8) k.psn) n else s
  | _ => settleDrains (receiveSequenced s n q k)

theorem takePacket_of_authentic (h : Admitted s k n q) (key : keyOk s q k = true) : takePacket s k = actByType (usedNow s n) n q k := by
  rw [takePacket_of_admitted h, handlePacket, getQp_of_admission h.found]
  dsimp only
  rw [if_neg h.live, if_neg (by simp [key])]
  rfl

theorem actByType_of_sequenced (sequenced : k.typ.sequenced = true) : actByType s n q k = settleDrains (receiveSequenced s n q k) := by
  rw [actByType]
  cases typ : k.typ
  case ack | nak | laneSync | laneSyncReply | illegal =>
    exact absurd sequenced (by rw [typ]; exact Bool.false_ne_true)
  all_goals rfl

/-- A NAK of a lost packet goes back to it, while its lane is open (R307, R308). -/
theorem actByType_of_lost (typ : k.typ = .nak) (lost : k.msgNum / 2 ^ 24 = 1) (open_ : (q.lane k.lane).closedTx = false) :
    actByType s n q k = settleSends (goBack (acknowledged s n k) n k.lane k.space) n := by
  rw [actByType, typ]
  dsimp only
  rw [receiveNak]
  simp only [lost]
  rw [if_neg (by simp [open_])]

/-- The reply to a LANE_SYNC moves the closed lane that waits for it (R307). -/
theorem actByType_of_laneSyncReply (typ : k.typ = .laneSyncReply) (closed : (q.lane (k.msgNum % 8)).closedTx = true) (waits : (q.lane (k.msgNum % 8)).sync ≠ none) :
    actByType s n q k = settleSends (moveLane s n (k.msgNum % 8) k.psn) n := by
  rw [actByType, typ]
  exact if_pos ⟨closed, Option.isSome_iff_ne_none.mpr waits⟩

/-- A packet under no key of its queue pair is counted: in BAR0 only, when the key epoch is gone (R440). -/
theorem takePacket_of_unauthentic (h : Admitted s k n q) (key : keyOk s q k = false) {u : State} (hu : u = modQp s n fun y => { y with authFails := y.authFails + 1 }) :
    takePacket s k = if q.keysDead then countNode (discard u 5 none) 1 else discard u 5 (some q.part) := by
  rw [takePacket_of_admitted h, handlePacket, getQp_of_admission h.found, hu]
  dsimp only
  rw [if_neg h.live, if_pos (by simp [key])]

/-- A packet of a sequenced type other than CANCEL comes by SEQUENCED_PACKET_RECEIVE. -/
theorem sequencedPacketReceive_of_sequenced (typ : k.typ = .send ∨ k.typ = .write ∨ k.typ = .readReq ∨ k.typ = .readResp) :
    k.typ.sequenced = true ∧ exec (.sequencedPacketReceive k t) s = .next (takePacket (atTime s t) k) := by
  have served : [PktType.ack, .nak, .laneSync, .laneSyncReply, .cancel].contains k.typ = false := by
    rcases typ with h | h | h | h <;> rw [h] <;> rfl
  refine ⟨?_, if_neg (by simp only [served, Bool.false_eq_true, not_false_eq_true])⟩
  rcases typ with h | h | h | h <;> rw [h] <;> rfl

end

/-! ### Timers (R305 to R308, R322) -/

section
variable {s u : State} {n lane space t x : Nat} {q : Qp}

theorem ackTimer_of_due (found : getQp s n = some q) (timer : ((q.lane lane).rxOf space).ackTimer = some x) (due : x ≤ t) (live : q.state ≠ .error) :
    exec (.ackTimer n lane space t) s = .next (sendAck (atTime s t) n lane space) := by
  change Machine.execAckTimer n lane space t s = _
  rw [Machine.execAckTimer, found]
  dsimp only
  rw [timer]
  dsimp only
  rw [if_pos ⟨due, live⟩]

/-- The go-back-N timer of a lane and space is due: the oldest packet has waited RETRY_US, no RNR wait stands, and the lane is open (R307). -/
structure RetryDue (s : State) (n lane space t : Nat) (q : Qp) (y : Unacked) : Prop where
  found : getQp s n = some q
  oldest : ((q.lane lane).txOf space).unacked.head? = some y
  live : q.state ≠ .error
  going : ((q.lane lane).txOf space).rnrWait = none
  open_ : (q.lane lane).closedTx = false
  past : y.sentAt + 1000 * q.retryUs ≤ t

/-- One more expiry of a lane and space is counted. -/
abbrev expiryCounted (s : State) (n lane space : Nat) : State := modQp s n fun q => q.modLane lane fun l => l.modTx space fun x => { x with expiries := x.expiries + 1 }

/-- An expiry closes the lane after RETRY_COUNT in a row or without a path, and sends the lane's packets again otherwise (R307). -/
theorem retryTimerExpire_of_due {y : Unacked} (due : RetryDue s n lane space t q y) (hu : u = expiryCounted (atTime s t) n lane space) :
    exec (.retryTimerExpire n lane space t) s = .next (if q.retryCount ≤ ((q.lane lane).txOf space).expiries + 1 ∨ pathOf u q lane = false then settleDrains (closeLane u n lane) else goBack u n lane space) := by
  obtain ⟨found, oldest, live, going, open_, past⟩ := due
  subst hu
  change Machine.execRetryTimerExpire n lane space t s = _
  rw [Machine.execRetryTimerExpire, found]
  dsimp only
  rw [oldest]
  dsimp only
  rw [if_neg (by simp [live, going, open_, past])]
  simp only [ge_iff_le, Bool.not_eq_true']
  exact (apply_ite Host.Outcome.next _ _ _).symm

theorem laneSyncRetry_of_due {o : Nat} {r : List Nat} (found : getQp s n = some q) (waits : (q.lane lane).sync = some x) (others : q.openLanes = o :: r) (due : x ≤ t) :
    exec (.laneSyncRetry n lane t) s = .next (sendCtl (modQp (atTime s t) n fun y => y.modLane lane fun l => { l with sync := some ((atTime s t).time + 1000 * y.retryUs) }) n .laneSync o 0
      ((q.lane lane).rx.expected + 2 ^ 24 - 1) lane) := by
  change Machine.execLaneSyncRetry n lane t s = _
  rw [Machine.execLaneSyncRetry, found]
  dsimp only
  rw [waits, others]
  dsimp only
  rw [if_neg (Nat.not_lt.mpr due)]

theorem rnrWaitExpire_of_due (found : getQp s n = some q) (waits : ((q.lane lane).txOf space).rnrWait = some x) (due : x ≤ t) :
    exec (.rnrWaitExpire n lane space t) s = .next (if (q.lane lane).closedTx = true then modQp (atTime s t) n (fun y => y.modLane lane fun l => l.modTx space fun z => { z with rnrWait := none })
      else goBack (atTime s t) n lane space) := by
  change Machine.execRnrWaitExpire n lane space t s = _
  rw [Machine.execRnrWaitExpire, found]
  dsimp only
  rw [waits]
  dsimp only
  rw [if_neg (Nat.not_lt.mpr due)]
  exact (apply_ite Host.Outcome.next _ _ _).symm

theorem oldKeyDrop_of_due {e : Nat} (found : getQp s n = some q) (old : q.oldEpoch = some (e, x)) (due : x ≤ t) :
    exec (.oldKeyDrop n t) s = .next (modQp (atTime s t) n fun y => { y with oldEpoch := none, oldSecret := [] }) := by
  change Machine.execOldKeyDrop n t s = _
  rw [Machine.execOldKeyDrop, found, Option.bind_some, old]
  dsimp only
  rw [if_pos due]

/-! ### The context-miss buffer (R301 to R303) -/

/-- The context of a queue pair is there, and its fetch is over. -/
abbrev fetchedContext (u : State) (n c : Nat) : State :=
  { modQp u n (fun y => { y with ctx := some c, lastUse := u.time }) with
    net := { (modQp u n fun y => { y with ctx := some c, lastUse := u.time }).net with miss := u.net.miss.filter (fun m => m.1 != n), fetching := erase u.net.fetching n } }

/-- An authentic context takes the packets that waited for it, in order, and owes no NAK when none was discarded. -/
theorem contextFetchDone_of_waiting {c : Nat} (fetching : lookup? s.net.fetching n = some []) (found : getQp s n = some q) (context : takeContext (atTime s t) (ownerOf q.part) true n = some (c, u)) :
    exec (.contextFetchDone n true t) s = .next ((u.net.miss.filter fun m => m.1 == n).foldl (fun s m => handleArrived s n m.2) (fetchedContext u n c)) := by
  change Machine.execContextFetchDone n true t s = _
  rw [Machine.execContextFetchDone, fetching, found]
  dsimp only
  rw [context]
  dsimp only
  rw [if_neg (by simp)]
  rfl

end

/-! ### RoCEv2 (R323 to R325) -/

section
variable {s : State} {k : RocePacket} {n t : Nat} {q x : Qp}

/-- What the ESP association takes leaves the queue pair's state. -/
theorem state_of_espAccept (taken : espAccept s n q k = some x) : x.state = q.state := by
  rw [espAccept] at taken
  dsimp only at taken
  repeat' split at taken
  all_goals cases taken
  all_goals rfl

/-- A RoCEv2 packet that gets through and names a resident RoCEv2 queue pair of its endpoint is handled there. -/
theorem rocePacketReceive_of_kept (h : RoceKept (atTime s t) k) (found : getQp s k.qpn = some q) (roce : q.service.roce = true) (part : q.part = k.dst % 16) (resident : q.ctx ≠ none) :
    exec (.rocePacketReceive k t) s = .next (handleRocePacket (atTime s t) k.qpn k) := by
  obtain ⟨valid, kept, own, present, quiet⟩ := h
  have here : getQp (atTime s t) k.qpn = some q := found
  change Machine.execRocePacketReceive k t s = _
  rw [Machine.execRocePacketReceive]
  rw [if_neg (by simpa using valid), kept]
  dsimp only
  rw [if_neg (by simp [own]), if_neg (by simp [present, quiet]), here]
  dsimp only
  rw [if_neg (by simp [roce, part]), if_neg (by simp [resident])]

theorem handleRocePacket_of_taken (found : getQp s k.qpn = some q) (taken : espAccept s k.qpn q k = some x) (icrc : k.icrcOk = true) (live : q.state ≠ .error) :
    handleRocePacket s k.qpn k = settleDrains (handleRoce (modQp s k.qpn fun _ => { x with lastUse := s.time }) k.qpn { x with lastUse := s.time } k) := by
  rw [handleRocePacket, found]
  dsimp only
  rw [taken]
  dsimp only
  rw [if_neg (by simp [icrc]), if_neg (by rwa [state_of_espAccept taken])]

theorem handleRocePacket_of_refused (found : getQp s k.qpn = some q) (refused : espAccept s k.qpn q k = none) :
    handleRocePacket s k.qpn k = if q.keysDead = true then countNode (roceDiscard s) 1 else roceDiscard s := by
  rw [handleRocePacket, found]
  dsimp only
  rw [refused]

/-- A RoCEv2 packet that names no RoCEv2 queue pair of its endpoint is counted. -/
theorem rocePacketReceive_of_unknown (h : RoceKept (atTime s t) k) (unknown : ∀ q, getQp s k.qpn = some q → q.service.roce = true → q.part ≠ k.dst % 16) :
    exec (.rocePacketReceive k t) s = .next (roceDiscard (atTime s t)) := by
  obtain ⟨valid, kept, own, present, quiet⟩ := h
  change Machine.execRocePacketReceive k t s = _
  rw [Machine.execRocePacketReceive]
  rw [if_neg (by simpa using valid), kept]
  dsimp only
  rw [if_neg (by simp [own]), if_neg (by simp [present, quiet])]
  cases found : getQp (atTime s t) k.qpn with
  | none => rfl
  | some q =>
    have other : (!q.service.roce) = true ∨ q.part ≠ k.dst % 16 := by
      by_cases roce : q.service.roce = true
      · exact .inr (unknown q found roce)
      · exact .inl (by simpa using roce)
    exact if_pos other

end

/-- Settles O45, from what an authentic packet of each type does, from the timers that are due, and from what becomes of a RoCEv2 packet. -/
theorem packetsArrive : Obligations.PacketsArrive := by
  refine ⟨?sequenced, ?ack, ?nak, ?laneSync, ?laneSyncReply, ?cancel, ?unauthentic, ?ackTimer, ?resend, ?close, ?syncRetry, ?rnr, ?fetched, ?oldKey, ?roce, ?roceRefused, ?roceUnknown⟩
  case sequenced =>
    rintro k n t q u s typ admitted key rfl
    obtain ⟨sequenced, run⟩ := sequencedPacketReceive_of_sequenced typ
    rw [run, takePacket_of_authentic admitted key, actByType_of_sequenced sequenced]
  case ack =>
    intro k n t q s typ admitted key
    refine ⟨_, rfl, (if_pos typ).trans ?_⟩
    rw [takePacket_of_authentic admitted key, actByType, typ]
  case nak =>
    rintro k n t q u s typ lost open_ admitted key rfl
    refine (if_pos typ).trans ?_
    rw [takePacket_of_authentic admitted key, actByType_of_lost typ lost open_]
  case laneSync =>
    rintro k n lane q u s typ admitted key rfl rfl
    refine (if_pos typ).trans ?_
    rw [takePacket_of_authentic admitted key, actByType, typ]
  case laneSyncReply =>
    rintro k n t lane q u s typ admitted key rfl closed waits rfl
    refine (if_pos typ).trans ?_
    rw [takePacket_of_authentic admitted key, actByType_of_laneSyncReply typ closed waits]
  case cancel =>
    rintro k n t q u s typ admitted key rfl
    refine (if_pos typ).trans ?_
    rw [takePacket_of_authentic admitted key, actByType_of_sequenced (by rw [typ]; rfl)]
  case unauthentic =>
    intro k n t q s typ admitted key
    refine ⟨_, rfl, ?_⟩
    rw [(sequencedPacketReceive_of_sequenced (.inl typ)).2, takePacket_of_unauthentic admitted key rfl]
  case ackTimer =>
    intro n lane space t x q s found timer due live
    exact ackTimer_of_due found timer due live
  case resend =>
    intro n lane space t q y u s found oldest live going open_ past few hu path
    rw [retryTimerExpire_of_due ⟨found, oldest, live, going, open_, past⟩ hu, if_neg (by simp [path, few])]
  case close =>
    intro n lane space t q y u s found oldest live going open_ past many hu
    rw [retryTimerExpire_of_due ⟨found, oldest, live, going, open_, past⟩ hu, if_pos (.inl many)]
  case syncRetry =>
    intro n lane t x o r q s found waits others due
    exact laneSyncRetry_of_due found waits others due
  case rnr =>
    intro n lane space t x q s found waits due
    exact rnrWaitExpire_of_due found waits due
  case fetched =>
    rintro n t c q u v w s fetching found context rfl rfl
    exact contextFetchDone_of_waiting fetching found context
  case oldKey =>
    intro n t e x q s found old due
    exact oldKeyDrop_of_due found old due
  case roce =>
    intro k t q x s kept found roce part taken icrc live resident
    rw [rocePacketReceive_of_kept kept found roce part resident, handleRocePacket_of_taken (s := atTime s t) found taken icrc live]
  case roceRefused =>
    intro k t q s kept found roce part refused resident
    rw [rocePacketReceive_of_kept kept found roce part resident, handleRocePacket_of_refused (s := atTime s t) found refused]
  case roceUnknown =>
    intro k t s kept unknown
    exact rocePacketReceive_of_unknown kept unknown

end Sys2Proof.Proofs
end

section
/-!
What the fuses are over a step (R543 to R548). Burnt bits only grow over a step (`step_sound`), and both the marks of the lifecycle and a rollback counter's value grow with them.
-/
namespace Sys2Proof.Proofs

open Sys2Proof.Machine (State)

/-- The fuses after a step, against those before it. -/
theorem fusesKept_step {s t : State} (run : Machine.step s = .next t) : FusesKept s.boot.fuses t.boot.fuses := by
  obtain ⟨u, answered, kept⟩ := step_sound s
  cases run.symm.trans answered
  exact kept.fuses

/-! ### The lifecycle -/

theorem onesIn_eq_length_filter_testBit (v n : Nat) : onesIn v n = ((List.range n).filter v.testBit).length := by
  unfold onesIn
  congr 2
  funext k
  rw [Nat.testBit_eq_decide_div_mod_eq, Nat.shiftRight_eq_div_pow]
  rfl

theorem onesIn_mono {v w : Nat} (h : ∀ k, v.testBit k = true → w.testBit k = true) (n : Nat) : onesIn v n ≤ onesIn w n := by
  rw [onesIn_eq_length_filter_testBit, onesIn_eq_length_filter_testBit]
  exact (List.monotone_filter_right _ h).length_le

theorem markSet_mono {v w : Nat} (h : ∀ k, v.testBit k = true → w.testBit k = true) (set_ : markSet v = true) : markSet w = true :=
  decide_eq_true (Nat.le_trans (of_decide_eq_true set_) (onesIn_mono h 4))

theorem fuseLifecycle_eq_returned_iff {f : Fuses} : fuseLifecycle f = .returned ↔ markSet (f.lifecycle / 16) = true := by
  unfold fuseLifecycle
  split
  case isTrue h => simp [h]
  case isFalse h => split <;> simp [h]

theorem returned_of_fusesKept {f g : Fuses} (kept : FusesKept f g) (h : fuseLifecycle f = .returned) : fuseLifecycle g = .returned := by
  refine fuseLifecycle_eq_returned_iff.2 (markSet_mono (fun k burnt => ?_) (fuseLifecycle_eq_returned_iff.1 h))
  have shifted : ∀ n : Nat, (n / 16).testBit k = n.testBit (k + 4) := fun n => by
    rw [show 16 = 2 ^ 4 from rfl, Nat.testBit_div_two_pow]
  exact (shifted _).trans (kept.lifecycle _ ((shifted _).symm.trans burnt))

/-- Settles O56: a step keeps the burnt fuses, and with them the mark of RETURNED. -/
theorem fusesOnlyBurn : Obligations.FusesOnlyBurn :=
  ⟨fun _ _ => fusesKept_step, fun _ _ run => returned_of_fusesKept (fusesKept_step run)⟩

/-! ### The rollback counters -/

/-- A rollback counter's value is the number of bits that its 128 fuses need as a number. -/
theorem lt_rollbackValue_iff {n k : Nat} : k < rollbackValue n ↔ 2 ^ k ≤ n % 2 ^ 128 := by
  have small : n % 2 ^ 128 < 2 ^ 128 := Nat.mod_lt _ (by decide)
  unfold rollbackValue
  dsimp only
  split
  case isTrue zero =>
    rw [zero]
    simp
  case isFalse burnt =>
    have within : Nat.log2 (n % 2 ^ 128) < 128 := (Nat.log2_lt burnt).2 small
    rw [Nat.min_eq_right within, Nat.lt_succ_iff, Nat.le_log2 burnt]

theorem rollbackValue_mono {m n : Nat} (h : ∀ k, m.testBit k = true → n.testBit k = true) : rollbackValue m ≤ rollbackValue n := by
  refine Nat.le_of_not_lt fun lower => ?_
  obtain ⟨j, atLeast, burnt⟩ := Nat.exists_ge_and_testBit_of_ge_two_pow (lt_rollbackValue_iff.1 lower)
  rw [Nat.testBit_mod_two_pow, Bool.and_eq_true] at burnt
  have kept : (n % 2 ^ 128).testBit j = true := by
    rw [Nat.testBit_mod_two_pow, burnt.1, h j burnt.2, Bool.and_self]
  exact Nat.lt_irrefl _ (lt_rollbackValue_iff.2 ((Nat.pow_le_pow_right (by decide) atLeast).trans (Nat.ge_two_pow_of_testBit kept)))

theorem rollbackOf_le_of_fusesKept {s t : State} (kept : FusesKept s.boot.fuses t.boot.fuses) (kind : Nat) : rollbackOf s kind ≤ rollbackOf t kind := by
  refine rollbackValue_mono ?_
  split
  · exact kept.rollback0
  · exact kept.rollback1

/-- Settles O57, from the power of two below which a counter's fuses lie as a number. -/
theorem rollbackCounters : Obligations.RollbackCounters := by
  refine ⟨?_, ?_, ?_, ?_⟩
  · intro n k _ run
    refine eq_of_forall_lt_iff fun j => ?_
    rw [lt_rollbackValue_iff, run, ← Nat.pow_lt_pow_iff_right (show 1 < 2 by decide), Nat.lt_iff_le_pred (Nat.two_pow_pos k)]
  · intro n k small burnt above
    refine eq_of_forall_lt_iff fun j => ?_
    have atLeast : 2 ^ k ≤ n % 2 ^ 128 := Nat.ge_two_pow_of_testBit (by rw [Nat.testBit_mod_two_pow, burnt, decide_eq_true small, Bool.and_self])
    have below : n % 2 ^ 128 < 2 ^ (k + 1) := Nat.lt_pow_two_of_testBit _ fun i past => by
      rw [Nat.testBit_mod_two_pow, Bool.and_eq_false_iff, decide_eq_false_iff_not]
      exact (Nat.lt_or_ge i 128).elim (fun in_ => .inr (above i past in_)) fun out => .inl (Nat.not_lt.2 out)
    rw [lt_rollbackValue_iff]
    exact ⟨fun h => (Nat.pow_lt_pow_iff_right (by decide)).1 (h.trans_lt below), fun h => (Nat.pow_le_pow_right (by decide) (Nat.le_of_lt_succ h)).trans atLeast⟩
  · intro n
    exact Nat.le_of_not_lt fun beyond => absurd (lt_rollbackValue_iff.1 beyond) (Nat.not_le.2 (Nat.mod_lt _ (by decide)))
  · intro kind s t run
    exact rollbackOf_le_of_fusesKept (fusesKept_step run) kind

end Sys2Proof.Proofs
end

section
/-!
The parts that a state keeps, through one update and through two.
-/
namespace Sys2Proof.Proofs

open Sys2Proof.Machine (State exec)
open Sys2Proof.Laws

section
variable {s t u : State} {F : Nat}

theorem sameBut_trans (h : SameBut F s t) (h' : SameBut F t u) : SameBut F s u := by
  intro p hp
  have a := h p hp
  have b := h' p hp
  cases p <;> exact Eq.trans b a

/-- What keeps all but a set of parts keeps all but a larger one. -/
theorem sameBut_mono {G : Nat} (hF : Sub G F) (h : SameBut G s t) : SameBut F s t := fun p hp =>
  h p (Bool.eq_false_iff.2 fun out => Bool.false_ne_true (hp.symm.trans (by rw [← (show G ||| F = F from hF), Nat.testBit_or, out, Bool.true_or])))

theorem sameBut_boot (hF : F.testBit Part.boot.idx = true) (s : State) (x : BootS) : SameBut F s { s with boot := x } := by
  intro p hp
  cases p with
  | boot => exact absurd (hF.symm.trans hp) (by decide)
  | _ => rfl

end

/-! ### The fuses as a start reads them (R544, R546, R547) -/

/-- The fuses once they are read: an empty SEED of a part in MANUFACTURE takes the entropy that is not zero (R547). -/
def seededFuses (f : Fuses) (e : Nat) : Fuses :=
  if fuseLifecycle f = .manufacture ∧ f.seed = 0 ∧ e % 2 ^ 256 ≠ 0 then
    { f with seed := e % 2 ^ 256, seedCheck := f.seedCheck ||| seedCheckOf (e % 2 ^ 256) }
  else f

/-- What the node knows of its fuses once they are read. -/
def bootRead (b : BootS) (e : Nat) : BootS :=
  { b with fuses := seededFuses b.fuses e, lifecycle := fuseLifecycle b.fuses, ruling := rulingGen (seededFuses b.fuses e)
           seedBad := (seededFuses b.fuses e).seedCheck != seedCheckOf (seededFuses b.fuses e).seed
           config := ((rulingGen (seededFuses b.fuses e)).map fun k => ((seededFuses b.fuses e).gens.getD k {}).config).getD 0 }

/-- The state with the fuses read and a SEED that does not match its check logged. -/
def fusesNoted (s : State) (e : Nat) : State :=
  let r := { s with boot := bootRead s.boot e }
  if r.boot.seedBad then logError (draw (draw r).2).2 ((draw r).1 % 256) 0 none 0 (BitVec.ofNat 64 (draw (draw r).2).1) else r

theorem readFuses_eq (s : State) (e : Nat) (next : StartPhase) :
    readFuses s e next = if (rulingGen (seededFuses s.boot.fuses e)).isNone ∧ fuseLifecycle s.boot.fuses ≠ .manufacture then enterLoader (fusesNoted s e)
      else { fusesNoted s e with boot := { (fusesNoted s e).boot with phase := next } } := rfl

theorem rulingGen_seededFuses (f : Fuses) (e : Nat) : rulingGen (seededFuses f e) = rulingGen f := by
  unfold seededFuses
  split <;> rfl

theorem boot_logError (s : State) (cause unitKind : Nat) (part : Option Nat) (unit : Nat) (arg : Word) : (logError s cause unitKind part unit arg).boot = s.boot := by
  unfold logError
  dsimp only
  split <;> rfl

@[simp] theorem boot_fusesNoted (s : State) (e : Nat) : (fusesNoted s e).boot = bootRead s.boot e := by
  unfold fusesNoted
  dsimp only
  split
  · exact boot_logError _ _ _ _ _ _
  · rfl

theorem sameBut_fusesNoted (s : State) (e : Nat) : SameBut (partSet [.free, .faults, .boot]) s (fusesNoted s e) := by
  have read : Kept (partSet [.free, .faults]) { s with boot := bootRead s.boot e } (fusesNoted s e) := by
    unfold fusesNoted
    dsimp only
    split
    · exact kept_logError rfl _ _ _ _ _ _ (kept_draw rfl _ (kept_draw rfl _ (Kept.refl _ _)))
    · exact Kept.refl _ _
  exact sameBut_trans (sameBut_boot rfl s _) (sameBut_mono rfl read.same)

theorem faults_fusesNoted {s : State} {e : Nat} (good : (bootRead s.boot e).seedBad = false) : (fusesNoted s e).faults = s.faults := by
  unfold fusesNoted
  dsimp only
  rw [if_neg (by simp [good])]

/-- With a ruling generation the start goes on, whatever the lifecycle (R544). -/
theorem readFuses_of_ruled {s : State} (ruled : (rulingGen s.boot.fuses).isSome) (e : Nat) (next : StartPhase) :
    readFuses s e next = { fusesNoted s e with boot := { bootRead s.boot e with phase := next } } := by
  rw [readFuses_eq, rulingGen_seededFuses, if_neg (by simp [Option.isNone_iff_eq_none, Option.isSome_iff_ne_none.1 ruled]), boot_fusesNoted]

theorem config_bootRead {b : BootS} (ruled : (rulingGen b.fuses).isSome) (e : Nat) :
    (bootRead b e).config = (b.fuses.gens.getD ((rulingGen b.fuses).getD 0) {}).config := by
  have gens : (seededFuses b.fuses e).gens = b.fuses.gens := by
    unfold seededFuses
    split <;> rfl
  obtain ⟨g, hg⟩ := Option.isSome_iff_exists.1 ruled
  rw [bootRead, rulingGen_seededFuses, gens, hg]
  rfl

theorem seededFuses_of_unfilled {f : Fuses} {e : Nat} (h : ¬(fuseLifecycle f = .manufacture ∧ f.seed = 0 ∧ e % 2 ^ 256 ≠ 0)) : seededFuses f e = f := if_neg h

theorem seededFuses_of_filled {f : Fuses} {e : Nat} (h : fuseLifecycle f = .manufacture ∧ f.seed = 0 ∧ e % 2 ^ 256 ≠ 0) : (seededFuses f e).seed = e % 2 ^ 256 := by
  rw [seededFuses, if_pos h]

theorem fuseReadDone_of_ruled {s : State} (phase : s.boot.phase = .powerGood) (strap : s.boot.recovery = false) (ruled : (rulingGen s.boot.fuses).isSome) (e : Nat) :
    exec (.fuseReadDone e) s = .next { fusesNoted s e with boot := { bootRead s.boot e with phase := .fusesRead } } := by
  change Machine.execFuseReadDone e s = _
  rw [Machine.execFuseReadDone, if_neg (by simp [phase]), readFuses_of_ruled ruled]
  exact congrArg Host.Outcome.next (if_neg (by simp [bootRead, strap]))

/-! ### The 42 V input -/

theorem powerGood_of_mated {s : State} (phase : s.boot.phase = .mated) (open_ : s.boot.latched = false) (rec_ a0 a1 : Bool) :
    exec (.powerGood rec_ a0 a1) s = .next { s with
      boot := { s.boot with phase := .powerGood, powerGood := true, faultPin := false, recovery := rec_, addr0 := a0, addr1 := a1 }
      power := { s.power with domains := s.power.domains.mapIdx fun k d => if k < 2 then { d with commanded := .on, present := .on, wake := none } else d } } := by
  change Machine.execPowerGood rec_ a0 a1 s = _
  rw [Machine.execPowerGood, if_neg (by simp [phase, open_])]

/-- Settles O1, from what each of the five phases answers; the fuses are read in `fuseReadDone_of_ruled`. -/
theorem startToRails : Obligations.StartToRails := by
  refine ⟨?_, ?_, ?_, ?_, ?_⟩
  · intro s phase
    exact if_pos phase
  · intro rec_ a0 a1 s phase open_
    refine ⟨_, powerGood_of_mated phase open_ rec_ a0 a1, fun p hp => ?_, rfl, fun k low there => ?_⟩
    · cases p with
      | boot => exact absurd hp (by decide)
      | power => exact absurd hp (by decide)
      | _ => rfl
    · simp [getDom, List.getD_eq_getElem?_getD, List.getElem?_mapIdx, List.getElem?_eq_getElem there, Nat.le_of_lt_succ low]
  · intro e s phase strap ruled
    refine ⟨_, fuseReadDone_of_ruled phase strap ruled e, ?_, rfl, rfl, ?_, config_bootRead ruled e, rfl, faults_fusesNoted, fun kept => ?_, fun life empty entropy => ?_⟩
    · exact sameBut_trans (sameBut_fusesNoted s e) (sameBut_boot rfl _ _)
    · exact rulingGen_seededFuses _ e
    · exact seededFuses_of_unfilled fun h => kept.elim (· h.1) (· h.2.1)
    · exact seededFuses_of_filled ⟨life, empty, entropy⟩
  · intro s phase
    exact if_neg (by simp [phase])
  · intro t s phase
    exact if_neg (by simp [phase])

end Sys2Proof.Proofs
end

section
/-!
The start from T0 to Memory_Active, and the input stage before it. Without a fence on record and with every package link whole STARTUP_CLEAR_DONE changes what it clears and the core map only.
-/
namespace Sys2Proof.Proofs

open Sys2Proof.Machine (State exec)
open Sys2Proof.Laws

/-! ### The phases from T0 on -/

section
variable {s : State}

theorem cxlLinkTrained_of_allowed {w g : Nat} (phase : s.boot.phase = .perstReleased) (hw : w ∈ [4, 8, 16]) (hg : g ∈ [8, 16, 32]) (wide : w ≤ linkWidth s) (fast : g ≤ linkSpeed s)
    (alt direct : Bool) : exec (.cxlLinkTrained alt direct w g) s = .next { s with
      boot := { s.boot with phase := .linkTrained }
      cxl := { s.cxl with linkUp := true, alternate := alt, direct := direct, width := w, gts := g } } := by
  have allowed : ([4, 8, 16].contains w && [8, 16, 32].contains g && decide (w ≤ linkWidth s) && decide (g ≤ linkSpeed s)) = true := by
    rw [List.contains_iff_mem.2 hw, List.contains_iff_mem.2 hg, decide_eq_true wide, decide_eq_true fast]
    rfl
  change Machine.execCxlLinkTrained alt direct w g s = _
  rw [Machine.execCxlLinkTrained]
  dsimp only
  rw [allowed, if_neg (by decide), if_pos phase]

theorem imagesVerified_of_boots {okA okB : Bool} (phase : s.boot.phase = .linkTrained)
    (boots : slotBoots s (preferredSlot s) (if preferredSlot s = 0 then okA else okB) = true) :
    exec (.imagesVerified okA okB) s = .next (bootSlot s (preferredSlot s)) := by
  change Machine.execImagesVerified okA okB s = _
  rw [Machine.execImagesVerified, if_neg (by simp [phase])]
  exact if_pos boots

theorem boot_newAlias (s : State) : (newAlias s).boot = s.boot := by
  unfold newAlias
  split <;> rfl

theorem image_bootSlot {x : Nat} (slot : Nat) (hx : x < 24) (fitted : procFitted s x = true) : ((bootSlot s slot).fw.procs.getD x {}).image = slotImage s slot (procKind x) := by
  have there : procFitted (newAlias s) x = true := by
    unfold newAlias
    split
    · exact fitted
    · exact fitted
  have same : slotImage (newAlias s) slot (procKind x) = slotImage s slot (procKind x) := by
    unfold newAlias
    split <;> rfl
  simp [bootSlot, List.getD_eq_getElem?_getD, List.getElem?_map, List.getElem?_range hx, there, same]

theorem processorsReleased_ports_on (phase : s.boot.phase = .imagesVerified) :
    ∃ t, exec .processorsReleased s = .next t ∧ SameBut (partSet [.boot, .power]) s t ∧ t.boot.phase = .processorsUp ∧
      ∀ k, k < s.power.domains.length → domKind k = 8 → domFitted s k = true → (getDom t k).present = .on := by
  refine ⟨_, if_neg (by simp [phase]), fun p hp => ?_, rfl, fun k there port fitted => ?_⟩
  · cases p with
    | boot => exact absurd hp (by decide)
    | power => exact absurd hp (by decide)
    | _ => rfl
  · simp [getDom, List.getD_eq_getElem?_getD, List.getElem?_mapIdx, List.getElem?_eq_getElem there, lateDomain, port, fitted]

/-! ### The clear (R532, R539, R541) -/

/-- HBM zero, no poison, and the cores as their self-test and the ruling map give them. -/
def clearedAtStart (s : State) (badCores : List Nat) : State :=
  { s with hbm := [], hbmPoison := [], openPoison := [], poisonOverflow := false, coreMap := ruledMap s
           cores := s.cores.mapIdx fun x c => { c with passed := !badCores.contains x } }

/-- The package links that the fences on record leave without a module are lost (R516). -/
def lostLinksGone (s : State) : State := (List.range 8).foldl (fun s k => if pkgLost s k then linkGone s k else s) s

/-- The phase after the clear, which a link lost in it may have ended in a fault. -/
def clearEnded (s : State) : State := { s with boot := { s.boot with phase := if s.boot.phase = .faulted then .faulted else .cleared } }

theorem startupClearDone_of_trained (phase : s.boot.phase = .hbmTrained) (badCores badUnits badModules : List Nat) :
    exec (.startupClearDone badCores badUnits badModules) s = .next (clearEnded (mapSpares (badModules.foldl (fun s n => fenceModule s (n / 16) (n % 16))
      (badUnits.foldl fencePair (badCores.foldl fenceCore (lostLinksGone (s.faults.record.foldl applyFence (clearedAtStart s badCores)))))))) := by
  change Machine.execStartupClearDone badCores badUnits badModules s = _
  rw [Machine.execStartupClearDone, if_neg (by simp [phase])]
  unfold clearEnded lostLinksGone clearedAtStart
  with_reducible rfl

theorem lostLinksGone_of_whole (whole : ∀ k, k < 8 → pkgLost s k = false) : lostLinksGone s = s :=
  List.foldlRecOn (motive := (· = s)) (List.range 8) _ rfl fun x hx k hk => by
    subst hx
    exact if_neg (ne_true_of_eq_false (whole k (List.mem_range.1 hk)))

theorem startupClearDone_of_sound (phase : s.boot.phase = .hbmTrained) (record : s.faults.record = []) (whole : ∀ k, k < 8 → pkgLost s k = false) :
    ∃ t, exec (.startupClearDone [] [] []) s = .next t ∧ t.boot.phase = .cleared ∧ t.hbm = [] ∧ t.hbmPoison = [] ∧ t.openPoison = [] ∧ t.poisonOverflow = false := by
  have run : exec (.startupClearDone [] [] []) s = .next (clearEnded (mapSpares (clearedAtStart s []))) := by
    rw [startupClearDone_of_trained phase, record, List.foldl_nil, List.foldl_nil, List.foldl_nil, List.foldl_nil, lostLinksGone_of_whole (s := clearedAtStart s []) whole]
  have same : SameBut 17196646400 (clearedAtStart s []) (mapSpares (clearedAtStart s [])) := (kept_mapSpares rfl _ (Kept.refl _ _)).same
  rw [run]
  generalize mapSpares (clearedAtStart s []) = u at same
  have boot : u.boot = s.boot := same .boot rfl
  exact ⟨_, rfl, if_neg (by simp [boot, phase]), same .hbm rfl, same .hbmPoison rfl, same .openPoison rfl, same .poisonOverflow rfl⟩

end

/-- Settles O2, from what each of the six phases answers. -/
theorem startToMemory : Obligations.StartToMemory := by
  refine ⟨?_, ?_, ?_, ?_, ?_, ?_⟩
  · intro alt direct w g s phase hw hg wide fast
    exact cxlLinkTrained_of_allowed phase hw hg wide fast alt direct
  · intro okA okB s phase boots
    refine ⟨_, imagesVerified_of_boots phase boots, ?_, ?_, rfl, rfl, fun x hx fitted => image_bootSlot _ hx fitted⟩
    · exact (kept_bootSlot rfl _ _ (Kept.refl _ s)).same
    · intro known
      rw [bootSlot, newAlias, if_neg (by simp [known])]
  · intro s phase
    exact processorsReleased_ports_on phase
  · intro failed s phase
    exact ⟨_, if_neg (by simp [phase]), rfl, rfl⟩
  · intro s phase record whole
    exact startupClearDone_of_sound phase record whole
  · intro t s phase
    exact if_neg (by simp [phase])

end Sys2Proof.Proofs
end

section
/-!
The input stage, and the resets of the whole node. Every one of them answers a state made by `resetNode` or by `enterFault`; a WARM reset reads the fuses again, which with a SEED that matches its check changes the boot state only.
-/
namespace Sys2Proof.Proofs

open Sys2Proof.Machine (State exec)
open Sys2Proof.Laws

section
variable {s : State}

/-! ### The input stage (R575, R576) -/

theorem phase_enterFault (s : State) (cause : Nat) (kept : Bool) (arg : Word) : (enterFault s cause kept arg).boot.phase = .faulted := by
  unfold enterFault
  split
  case isTrue already => exact already
  case isFalse => dsimp only; split <;> rfl

/-- The input stage that has opened: latched, without power-good, and every domain OFF. -/
def inputOpened (s : State) : State :=
  { s with boot := { s.boot with latched := true, powerGood := false, faultPin := s.boot.faultPin && s.boot.aux }
           power := { s.power with domains := s.power.domains.map fun d => { d with present := .off, wake := none } } }

theorem latchInput_eq_inputOpened (mated : s.boot.phase ≠ .absent) (open_ : s.boot.latched = false) :
    ∃ u, u.boot.phase = .faulted ∧ latchInput s = inputOpened u := by
  rw [latchInput, if_neg (by simp [mated, open_])]
  refine ⟨if s.boot.phase = .mated then { s with boot := { s.boot with phase := .faulted, faultPin := s.boot.aux } } else enterFault s 0x0E false 0#64, ?_, rfl⟩
  split
  · rfl
  · exact phase_enterFault _ _ _ _

theorem latchInput_faulted (mated : s.boot.phase ≠ .absent) (open_ : s.boot.latched = false) :
    (latchInput s).boot.phase = .faulted ∧ (latchInput s).boot.latched = true ∧ (latchInput s).boot.powerGood = false ∧ ∀ d ∈ (latchInput s).power.domains, d.present = .off := by
  obtain ⟨u, faulted, opened⟩ := latchInput_eq_inputOpened mated open_
  rw [opened]
  refine ⟨faulted, rfl, rfl, fun d hd => ?_⟩
  obtain ⟨_, _, rfl⟩ := List.mem_map.1 hd
  rfl

/-- Settles O3, from the state that each event of the input stage answers. -/
theorem inputStage : Obligations.InputStage := by
  refine ⟨?_, ?_, ?_, ?_, ?_, ?_⟩
  · intro s mated open_
    exact ⟨⟨_, rfl, latchInput_faulted mated open_⟩, _, rfl, latchInput_faulted mated open_⟩
  · intro s mated open_
    exact ⟨_, if_neg (by simp [mated, open_]), rfl, rfl, rfl, rfl, rfl, rfl, rfl, rfl⟩
  · intro s phase
    have under : starting s = true := by
      rw [starting, List.contains_iff_mem]
      exact List.mem_append_left [StartPhase.loader] phase
    exact ⟨_, if_pos under, rfl, rfl, rfl, rfl, rfl, rfl⟩
  · intro s mated
    exact ⟨_, if_neg mated, rfl, rfl, rfl, rfl⟩
  · intro s latched aux
    exact ⟨_, if_neg (by simp [latched, aux]), rfl, rfl, rfl, rfl⟩
  · intro s
    rfl

/-! ### The resets (R540, R541) -/

/-- Where SEED matches its check and nothing fills it, reading the fuses changes the boot state only, unless the loader is entered. -/
theorem readFuses_of_matching (matching : s.boot.fuses.seedCheck = seedCheckOf s.boot.fuses.seed) (next : StartPhase) :
    readFuses s 0 next = enterLoader { s with boot := bootRead s.boot 0 } ∨ readFuses s 0 next = { s with boot := { bootRead s.boot 0 with phase := next } } := by
  have unfilled : seededFuses s.boot.fuses 0 = s.boot.fuses := seededFuses_of_unfilled fun h => h.2.2 (Nat.zero_mod _)
  have noted : fusesNoted s 0 = { s with boot := bootRead s.boot 0 } := if_neg (by simp [bootRead, unfilled, matching])
  rw [readFuses_eq, noted]
  split
  · exact .inl rfl
  · exact .inr rfl

theorem resetAs_of_active (phase : s.boot.phase = .active) (open_ : s.boot.latched = false) (power : s.boot.powerGood = true) (kind : ResetKind) :
    resetAs s kind = if kind = .cold then coldReset s else warmReset s := by
  rw [resetAs, if_neg (by simp [phase, open_, power]), if_pos phase]
  exact if_congr (by simp [phase]) rfl rfl

/-- Settles O4: a WARM reset reads the fuses of the reset node (`readFuses_of_matching`), a COLD one is the reset node in its first phase. -/
theorem nodeResets : Obligations.NodeResets := by
  refine ⟨?_, ?_, ?_⟩
  · intro s phase open_ power matching
    refine ⟨warmReset s, congrArg Host.Outcome.next (resetAs_of_active phase open_ power .warm), ?_⟩
    unfold warmReset
    obtain read | read := readFuses_of_matching (s := resetNode s .warm .railsUp) matching .railsUp
    · rw [read]
      exact ⟨rfl, .inr rfl, rfl, rfl, rfl, rfl, rfl, rfl, rfl, rfl, rfl, rfl, rfl⟩
    · rw [read]
      exact ⟨rfl, .inl rfl, rfl, rfl, rfl, rfl, rfl, rfl, rfl, rfl, rfl, rfl, rfl⟩
  · intro lowUs s long phase open_ power
    refine ⟨coldReset s, ?_, rfl, rfl, rfl, rfl, rfl, rfl, rfl, rfl, rfl, rfl, rfl, rfl, rfl, rfl⟩
    change Machine.execResetPinRelease lowUs s = _
    rw [Machine.execResetPinRelease, if_neg (Nat.not_lt.2 long), resetAs_of_active phase open_ power, if_pos rfl]
  · intro lowUs s short
    exact if_pos short

end

end Sys2Proof.Proofs
end

section
/-!
Fences and the end of the node's service. A frame that stands FENCED stays so whatever ends its readers (`frameFenced_failReaders`), and the end of service (`enterFault`) leaves one state for each of its two forms.
-/
namespace Sys2Proof.Proofs

open Sys2Proof.Machine (State exec)
open Sys2Proof.Laws

section
variable {s u : State} {c k m : Nat}

/-! ### Link modules (R515, R516) -/

theorem pkgLost_of_open {j : Nat} (there : j < (getPkg s k).modules.length) (open_ : (getModule s k j).1 = false) : pkgLost s k = false := by
  rw [getModule, List.getD_eq_getElem _ _ there] at open_
  exact List.all_eq_false.2 ⟨_, List.getElem_mem there, by simp [open_]⟩

theorem modules_modModule (fitted : moduleFitted s k m = true) (f : Bool × Nat × Nat → Bool × Nat × Nat) :
    (getPkg (modModule s k m f) k).modules = (getPkg s k).modules.modify m f := by
  have there : m < (getPkg s k).modules.length := of_decide_eq_true (Bool.and_eq_true_iff.1 fitted).2
  have known : k < s.faults.links.length := by
    refine Nat.lt_of_not_le fun beyond => Nat.not_lt_zero m ?_
    rwa [getPkg, List.getD_eq_getElem?_getD, List.getElem?_eq_none beyond] at there
  simp [getPkg, modModule, known]

theorem getModule_modModule_of_ne {j : Nat} (fitted : moduleFitted s k m = true) (ne : j ≠ m) (f : Bool × Nat × Nat → Bool × Nat × Nat) :
    getModule (modModule s k m f) k j = getModule s k j := by
  rw [getModule, modules_modModule fitted, List.getD_eq_getElem?_getD, List.getElem?_modify_ne _ _ ne.symm, ← List.getD_eq_getElem?_getD, getModule]

/-- A module fenced in the faults, with its entry in the log and one on its way to the record. -/
abbrev moduleFenced (s : State) (k m : Nat) : State :=
  noteFence (logError (modModule s k m fun x => { x with fst := true }) 0x07 4 none (16 * k + m) 0#64) 4 (16 * k + m)

theorem getModule_moduleFenced (j : Nat) : getModule (moduleFenced s k m) k j = getModule (modModule s k m fun x => { x with fst := true }) k j :=
  getModule_logError _ _ _ _ _ _ _ _

theorem getPkg_moduleFenced (s : State) (k m : Nat) : getPkg (moduleFenced s k m) k = getPkg (modModule s k m fun x => { x with fst := true }) k :=
  congrArg (fun l : List PkgLink => l.getD k { modules := [] }) (links_logError _ _ _ _ _ _)

theorem fenceModule_of_spare {j : Nat} (fitted : moduleFitted s k m = true) (open_ : (getModule s k m).1 = false)
    (ne : j ≠ m) (other : moduleFitted s k j = true) (left : (getModule s k j).1 = false) : fenceModule s k m = moduleFenced s k m := by
  have there : j < (getPkg s k).modules.length := of_decide_eq_true (Bool.and_eq_true_iff.1 other).2
  have whole : pkgLost (moduleFenced s k m) k = false :=
    pkgLost_of_open (j := j) (by rw [getPkg_moduleFenced, modules_modModule fitted, List.length_modify]; exact there)
      (by rw [getModule_moduleFenced, getModule_modModule_of_ne fitted ne, left])
  rw [fenceModule, if_neg (by simp [fitted, open_])]
  exact if_neg (ne_true_of_eq_false whole)

/-! ### Frames that stand FENCED (R517) -/

/-- A frame whose listed record is FENCED. -/
def FrameFenced (f : FrameAddr) (s : State) : Prop := ∃ r, lookup? s.frames f = some r ∧ r.state = .fenced

theorem FrameFenced.state {f : FrameAddr} (h : FrameFenced f s) : (getFrame s f).state = .fenced := by
  obtain ⟨r, listed, fenced⟩ := h
  rw [getFrame, listed]
  exact fenced

theorem frameFenced_setFrame {f g : FrameAddr} {r : FrameRec} (h : FrameFenced f s) (keeps : g = f → r.state = .fenced) : FrameFenced f (setFrame s g r) := by
  obtain ⟨x, listed, fenced⟩ := h
  by_cases e : f = g
  · exact ⟨r, (lookup?_assign _ _ _ _).trans (if_pos e), keeps e.symm⟩
  · exact ⟨x, ((lookup?_assign _ _ _ _).trans (if_neg e)).trans listed, fenced⟩

theorem frameFenced_unpinFrame {f : FrameAddr} (g : FrameAddr) (h : FrameFenced f s) : FrameFenced f (unpinFrame s g) := by
  unfold unpinFrame
  dsimp only
  split
  case isTrue last => exact frameFenced_setFrame h fun e => absurd (h.state.symm.trans (e ▸ last.1)) (by decide)
  case isFalse => exact frameFenced_setFrame h fun e => e ▸ h.state

theorem frameFenced_dropPins {f : FrameAddr} (d : Desc) (h : FrameFenced f s) : FrameFenced f (dropPins s d).1 := by
  refine foldl_kept (P := FrameFenced f) h fun x w hx => ?_
  split
  · exact ite_kept (frameFenced_unpinFrame _ hx) hx
  · exact hx

theorem frameFenced_failDesc {f : FrameAddr} (d : Desc) (st det : Nat) (r0 r1 : Option Nat) (h : FrameFenced f s) : FrameFenced f (failDesc s d st det r0 r1) :=
  frameFenced_dropPins (s := removeOps s d fun _ => true) d h

theorem frameFenced_pageFail {f : FrameAddr} (d : Desc) (w : PageWork) (st det : Nat) (h : FrameFenced f s) : FrameFenced f (pageFail s d w st det) :=
  ite_kept (frameFenced_failDesc _ _ _ _ _ h) (frameFenced_failDesc _ _ _ _ _ h)

theorem frameFenced_failReaders {f : FrameAddr} (c : Nat) (h : FrameFenced f s) : FrameFenced f (failReaders s c) := by
  refine foldl_kept (P := FrameFenced f) h fun x d hx => ?_
  split
  · split
    · exact frameFenced_pageFail _ _ _ _ hx
    · exact hx
  · exact hx

/-! ### Pseudo-channels (R517, R518) -/

theorem getExt_modExt (s : State) (e : Nat) (f : Extent → Extent) (j : Nat) : getExt (modExt s e f) j = if j = e then f (getExt s e) else getExt s j := by
  rw [getExt, modExt_extents, lookup?_assign]
  split
  · rfl
  · rfl

/-- The three extents of a pseudo-channel with extent-level poison. -/
def extentsPoisoned (s : State) (c : Nat) : State := [3 * c, 3 * c + 1, 3 * c + 2].foldl (fun s e => modExt s e fun x => { x with poison := true }) s

theorem poison_extentsPoisoned {e : Nat} (s : State) (he : e / 3 = c) : (getExt (extentsPoisoned s c) e).poison = true := by
  have cases_ : e = 3 * c ∨ e = 3 * c + 1 ∨ e = 3 * c + 2 := by omega
  simp only [extentsPoisoned, List.foldl_cons, List.foldl_nil, getExt_modExt]
  rcases cases_ with rfl | rfl | rfl <;> simp

/-- What a fenced pseudo-channel leaves in the faults, its frames, its units and its extents, before its readers end. -/
def pchStruck (s : State) (c : Nat) : State :=
  extentsPoisoned { s with
    faults := { s.faults with pchs := s.faults.pchs ++ [c], unwritten := (s.faults.unwritten.filter fun e => !(e.1 == 2 && e.2 / 16 == c)) ++ [(3, c)] }
    frames := s.frames.map fun (f : FrameAddr × FrameRec) => if f.1.pch = c then (f.1, { f.2 with state := FrameState.fenced }) else f
    units := s.units.map fun u => if u.1 / 16 = c then (u.1, { u.2 with chunk := none, holder := none, query := [], table := none, acc := [], snapshot := [], taken := [], queue := [] }) else u } c

/-- After the readers of a fenced pseudo-channel have ended only events and AER messages follow. -/
theorem fencePch_kept (hc : c < 640) (fitted : stackFitted s (c / 32) = true) (open_ : pchFenced s c = false) :
    ∃ p, Kept 2072 (failReaders (logError (pchStruck s c) 0x07 3 p c 0#64) c) (fencePch s c) := by
  rw [fencePch, if_neg (by simp [hc, fitted, open_])]
  extract_lets p fresh held faults s1 s2 s3 s4
  have told : Kept 2072 (failReaders s3 c) s4 := kept_aerFatal rfl _ _ (Kept.refl _ _)
  exact ⟨p, foldl_kept (P := Kept 2072 (failReaders s3 c)) told fun x b hx => kept_postFence rfl _ _ _ _ _ hx⟩

theorem pchs_logError (s : State) (cause unitKind : Nat) (part : Option Nat) (unit : Nat) (arg : Word) :
    (logError s cause unitKind part unit arg).faults.pchs = s.faults.pchs := by
  rw [logError]
  extract_lets
  split
  · rfl
  · dsimp only
    split <;> rfl

theorem pchs_pchStruck (s : State) (c : Nat) : (pchStruck s c).faults.pchs = s.faults.pchs ++ [c] := rfl

theorem frameFenced_pchStruck {f : FrameAddr} (hf : f.pch = c) (listed : (lookup? s.frames f).isSome) : FrameFenced f (pchStruck s c) := by
  obtain ⟨r, hr⟩ := Option.isSome_iff_exists.1 listed
  have frames : (pchStruck s c).frames = s.frames.map fun x => (x.1, if x.1.pch = c then { x.2 with state := .fenced } else x.2) := by
    refine List.map_congr_left fun x _ => ?_
    split <;> rfl
  refine ⟨{ r with state := .fenced }, ?_, rfl⟩
  rw [frames, lookup?_map_value s.frames (fun g x => if g.pch = c then { x with state := .fenced } else x), hr, Option.map_some, if_pos hf]

theorem fencePch_effect (hc : c < 640) (fitted : stackFitted s (c / 32) = true) (open_ : pchFenced s c = false) :
    pchFenced (fencePch s c) c = true ∧ (∀ f, f.pch = c → (lookup? s.frames f).isSome → (getFrame (fencePch s c) f).state = .fenced) ∧
      ∀ e, e / 3 = c → (getExt (fencePch s c) e).poison = true := by
  obtain ⟨p, last⟩ := fencePch_kept hc fitted open_
  have logged : SameBut 34359738368 (pchStruck s c) (logError (pchStruck s c) 0x07 3 p c 0#64) := (kept_logError rfl _ _ _ _ _ _ (Kept.refl _ _)).same
  have ended : SameBut 2147565568 (logError (pchStruck s c) 0x07 3 p c 0#64) (failReaders (logError (pchStruck s c) 0x07 3 p c 0#64) c) :=
    (kept_failReaders rfl _ _ (Kept.refl _ _)).same
  refine ⟨?_, fun f hf listed => ?_, fun e he => ?_⟩
  · have pchs : (fencePch s c).faults.pchs = s.faults.pchs ++ [c] := by
      rw [last.same .faults rfl, ended .faults rfl, pchs_logError, pchs_pchStruck]
    rw [pchFenced, pchs]
    simp
  · obtain ⟨r, found, fenced⟩ := frameFenced_pchStruck hf listed
    have before : FrameFenced f (logError (pchStruck s c) 0x07 3 p c 0#64) := ⟨r, by rw [logged .frames rfl, found], fenced⟩
    obtain ⟨r, found, fenced⟩ := frameFenced_failReaders c before
    exact FrameFenced.state ⟨r, by rw [last.same .frames rfl, found], fenced⟩
  · have exts : (fencePch s c).extents = (pchStruck s c).extents := (last.same .extents rfl).trans ((ended .extents rfl).trans (logged .extents rfl))
    rw [getExt, exts]
    exact poison_extentsPoisoned _ he

/-! ### The FENCE message (R514) -/

/-- A FENCE message that asks for something about a unit that exists. -/
structure FenceAsked (v : State) (m : MboxMsg) : Prop where
  spare2 : m.at_ 2 = 0
  spare3 : m.at_ 3 = 0
  action : m.at_ 1 = 1 ∨ m.at_ 1 = 2 ∨ m.at_ 1 = 3
  unit : fenceUnit v (m.at_ 0) (ofLe (slice m.body 4 4)) = true

theorem FenceAsked.passes {v : State} {b : MboxMsg} (h : FenceAsked v b) :
    ¬(b.at_ 2 ≠ 0 ∨ b.at_ 3 ≠ 0 ∨ b.at_ 1 = 0 ∨ b.at_ 1 > 3 ∨ (!fenceUnit v (b.at_ 0) (ofLe (slice b.body 4 4))) = true) := by
  obtain ⟨spare2, spare3, action, unit⟩ := h
  simp only [spare2, spare3, unit]
  rcases action with e | e | e <;> simp [e]

/-- Whether the unit is the last module of link 6 that is not fenced, which the message may not fence. -/
abbrev lastOfSix (v : State) (kind n : Nat) : Bool := kind == 4 && n / 16 == 6 && ((getPkg v 6).modules.filter fun x => !x.1).length == 1 && !standsFenced v 4 n

/-- The state that an action leaves. -/
abbrev fenceActed (v : State) (kind n act : Nat) : State :=
  if act = 1 then fenceByCommand v kind n
  else if act = 2 then { v with faults := { v.faults with record := v.faults.record.filter (· != (kind, if kind = 1 then ruledCore v n else n)), unwritten := v.faults.unwritten.filter (· != (kind, if kind = 1 then ruledCore v n else n)) } }
  else v

theorem mailboxFence_of_asked {o a : Owner} {b : MboxMsg} {t kind n : Nat} {v w : State} (hv : v = atTime s t) (heard : Heard v o 0x60 b .manager (b.body.length == 8) a)
    (hk : kind = b.at_ 0) (hn : n = ofLe (slice b.body 4 4)) (asked : FenceAsked v b) (last : b.at_ 1 = 1 → lastOfSix v kind n = false) (hw : w = fenceActed v kind n (b.at_ 1)) :
    exec (.mailboxFence o b t) s = .next (emit w (mboxOut o 0x60 b.tag stDone 0 (BitVec.ofNat 64 (b2n (standsFenced w kind n))) (BitVec.ofNat 64 ((fenceEntries w).filter fun e => e.1 == kind).length) [])) := by
  subst hv hk hn hw
  refine congrArg Host.Outcome.next ((mboxRun_of_heard heard _).trans ?_)
  extract_lets kind act n last'
  rw [if_neg asked.passes, if_neg fun h => Bool.false_ne_true ((last h.1).symm.trans h.2)]
  rfl

theorem lastOfSix_eq_false {v : State} {kind n : Nat} (h : kind = 4 → n / 16 = 6 → ((getPkg v 6).modules.filter fun x => !x.1).length = 1 → standsFenced v 4 n = true) :
    lastOfSix v kind n = false := by
  refine Bool.eq_false_iff.2 fun last => ?_
  simp only [lastOfSix, Bool.and_eq_true, beq_iff_eq, Bool.not_eq_true'] at last
  obtain ⟨⟨⟨link, six⟩, one⟩, open_⟩ := last
  exact Bool.false_ne_true (open_.symm.trans (h link six one))

end

/-- Settles O7, from what a fence of a module and of a pseudo-channel leaves and from the answer of the FENCE message to each action. -/
theorem fences : Obligations.Fences := by
  refine ⟨?_, ?_, ?_, ?_⟩
  · rintro k m t s fitted open_ ⟨j, ne, other, left⟩
    have run := fenceModule_of_spare (s := atTime s t) fitted open_ ne other left
    refine ⟨_, congrArg Host.Outcome.next run, ?_, boot_logError _ _ _ _ _ _⟩
    rw [getModule_moduleFenced, getModule_modModule_self (s := atTime s t) fitted]
  · intro c t s hc fitted open_
    obtain ⟨fenced, frames, extents⟩ := fencePch_effect (s := atTime s t) hc fitted open_
    exact ⟨_, rfl, fenced, (kept_fencePch (F := 36507600920) rfl _ c (Kept.refl _ (atTime s t))).same .hbm rfl, frames, fun e he _ => extents e he⟩
  · intro c t s fenced
    exact congrArg Host.Outcome.next (if_pos (by simp [show pchFenced (atTime s t) c = true from fenced]))
  · rintro o a m t kind n v w s hv heard hk hn spare2 spare3 unit (⟨act, hw, last⟩ | ⟨act, hw⟩ | ⟨act, hw⟩)
    · exact mailboxFence_of_asked hv heard hk hn ⟨spare2, spare3, .inl act, hk ▸ hn ▸ unit⟩ (fun _ => lastOfSix_eq_false last) (by rw [hw, act]; rfl)
    · exact mailboxFence_of_asked hv heard hk hn ⟨spare2, spare3, .inr (.inl act), hk ▸ hn ▸ unit⟩ (by simp [act]) (by rw [hw, act]; rfl)
    · exact mailboxFence_of_asked hv heard hk hn ⟨spare2, spare3, .inr (.inr act), hk ▸ hn ▸ unit⟩ (by simp [act]) (by rw [hw, act]; rfl)

end Sys2Proof.Proofs
end

section
/-!
Node faults (R366, R502, R519). A fault that ends the node's service answers the stopped node in the faulted phase (`serviceEnded`), which without power has lost its memories too (`powerLost`).
-/
namespace Sys2Proof.Proofs

open Sys2Proof.Machine (State exec)
open Sys2Proof.Laws

section
variable {s : State} {cause : Nat} {arg : Word}

/-- The node with its service ended: stopped, in the faulted phase, the cause in the logs. -/
def serviceEnded (s : State) (cause : Nat) (kept : Bool) (arg : Word) : State :=
  let r := stopService (logError s cause 0 none 0 arg)
  { r with boot := { r.boot with phase := .faulted, faultPin := r.boot.aux || kept } }

/-- The node without power: HBM, staging and the link are lost, and every domain but Belfry's and the Damper's is OFF. -/
def powerLost (s : State) : State :=
  { s with hbm := [], staging := [], hbmPoison := [], openPoison := [], stagingPoison := []
           cxl := { s.cxl with linkUp := false }
           power := { s.power with domains := s.power.domains.mapIdx fun k d => if k < 2 then d else { d with present := .off, wake := none } } }

theorem enterFault_with_power (running : s.boot.phase ≠ .faulted) : enterFault s cause true arg = serviceEnded s cause true arg := by
  rw [enterFault, if_neg running]
  rfl

theorem enterFault_without_power (running : s.boot.phase ≠ .faulted) : enterFault s cause false arg = powerLost (serviceEnded s cause false arg) := by
  rw [enterFault, if_neg running]
  rfl

theorem rings_serviceEnded (kept : Bool) : ∀ x ∈ (serviceEnded s cause kept arg).owners, ∀ r ∈ x.rings, r.2.state = .disabled := by
  intro x hx r hr
  obtain ⟨y, -, rfl⟩ := List.mem_map.1 hx
  obtain ⟨e, -, rfl⟩ := List.mem_map.1 hr
  rfl

/-- What the end of the service keeps: all but the log, the boot state, and what was in progress. -/
theorem sameBut_serviceEnded (kept : Bool) : SameBut (partSet [.owners, .flight, .units, .fabric, .net, .ports, .flash, .faults, .boot]) s (serviceEnded s cause kept arg) :=
  sameBut_trans (kept_stopService rfl _ (kept_logError rfl _ _ _ _ _ _ (Kept.refl _ s))).same (sameBut_boot rfl _ _)

theorem mem_out_aerFatal {ps : List Nat} {p : Nat} (up : s.cxl.linkUp = true) (hp : p ∈ ps) : Out.aer p true ∈ (aerFatal s ps).out := by
  have told : ∀ (qs : List Nat) (x : State), (∀ q ∈ qs, Out.aer q true ∈ (qs.foldl (fun s p => emit s (.aer p true)) x).out) ∧
      ∀ y ∈ x.out, y ∈ (qs.foldl (fun s p => emit s (.aer p true)) x).out := by
    intro qs
    induction qs with
    | nil => exact fun x => ⟨fun _ hq => absurd hq List.not_mem_nil, fun _ hy => hy⟩
    | cons q qs ih =>
      intro x
      obtain ⟨new, old⟩ := ih (emit x (.aer q true))
      refine ⟨fun r hr => ?_, fun y hy => old y (List.mem_cons_of_mem _ hy)⟩
      rcases List.mem_cons.1 hr with rfl | hr
      · exact old _ List.mem_cons_self
      · exact new r hr
  rw [aerFatal, if_pos up]
  exact (told ps s).1 p hp

/-- The state that a failure of the CXL.mem path leaves. -/
theorem memPathFailed_eq (running : s.boot.phase ≠ .faulted) :
    ∃ u, SameBut (partSet [.out]) s u ∧ (s.cxl.linkUp = true → ∀ p, (p < if s.cxl.direct then 1 else 16) → .aer p true ∈ u.out) ∧
      memPathFailed s = { serviceEnded u 0x0E true 0#64 with cxl := { s.cxl with linkUp := false } } := by
  have told : SameBut (partSet [.out]) s (aerFatal s (List.range (if s.cxl.direct then 1 else 16))) := (kept_aerFatal rfl _ _ (Kept.refl _ s)).same
  have boot : (aerFatal s (List.range (if s.cxl.direct then 1 else 16))).boot = s.boot := told .boot rfl
  have cxl : (aerFatal s (List.range (if s.cxl.direct then 1 else 16))).cxl = s.cxl := told .cxl rfl
  refine ⟨_, told, fun up p hp => mem_out_aerFatal up (List.mem_range.2 hp), ?_⟩
  rw [memPathFailed, enterFault_with_power (by rw [boot]; exact running)]
  have after : (serviceEnded (aerFatal s (List.range (if s.cxl.direct then 1 else 16))) 0x0E true 0#64).cxl = s.cxl := ((sameBut_serviceEnded true) .cxl rfl).trans cxl
  dsimp only
  rw [after]

/-- A node whose thermal trip shows in its telemetry and its pins. -/
def tripMarked (s : State) : State := { s with power := { s.power with tripped := true }, boot := { s.boot with tripped := true } }

theorem thermalTrip_of_hot_die {r : Reading} (on : s.timeOn = true) (running : s.boot.phase ≠ .faulted) (die : r.sensor = 0) (hot : 440 ≤ r.quarterDeg) :
    exec (.thermalTrip r) s = .next (tripMarked (powerLost (serviceEnded (takeReadings s [r]) 0x0D false (BitVec.ofNat 64 r.sensor)))) := by
  rw [← enterFault_without_power (s := takeReadings s [r]) running]
  exact if_neg (by simp [on, running, die, hot])

end

/-- Settles O8, from the state in which the end of the service leaves the node, with power and without. -/
theorem nodeFaults : Obligations.NodeFaults := by
  refine ⟨?_, ?_, ?_⟩
  · intro kept s there mated running
    cases kept with
    | true =>
      have run : exec (.nodeFault true) s = .next (if Config.free s.free % 2 = 1 then memPathFailed (draw s).2 else enterFault (draw s).2 0x0E true 0#64) := by
        change Machine.execNodeFault true s = _
        rw [Machine.execNodeFault, if_neg (by simp [there, mated]), if_pos rfl]
        rfl
      refine ⟨_, run, ?_⟩
      split
      · obtain ⟨u, told, aer, failed⟩ := memPathFailed_eq (s := (draw s).2) running
        have same := sameBut_serviceEnded (s := u) (cause := 0x0E) (arg := 0#64) true
        rw [failed]
        exact ⟨rfl, rfl, rfl, rfl, (same .host rfl).trans (told .host rfl), rings_serviceEnded true, nofun, fun _ => ⟨(same .hbm rfl).trans (told .hbm rfl),
          (same .staging rfl).trans (told .staging rfl), rfl, fun up p hp => (same .out rfl).symm ▸ aer up p hp⟩⟩
      · have same := sameBut_serviceEnded (s := (draw s).2) (cause := 0x0E) (arg := 0#64) true
        rw [enterFault_with_power (s := (draw s).2) running]
        exact ⟨rfl, rfl, rfl, rfl, same .host rfl, rings_serviceEnded true, nofun, fun _ => ⟨same .hbm rfl, same .staging rfl, same .cxl rfl⟩⟩
    | false =>
      have run : exec (.nodeFault false) s = .next (powerLost (serviceEnded s 0x0E false 0#64)) := by
        change Machine.execNodeFault false s = _
        rw [Machine.execNodeFault, if_neg (by simp [there, mated]), if_neg Bool.false_ne_true, enterFault_without_power running]
      have same := sameBut_serviceEnded (s := s) (cause := 0x0E) (arg := 0#64) false
      exact ⟨_, run, rfl, rfl, rfl, rfl, same .host rfl, rings_serviceEnded false, fun _ => ⟨rfl, rfl, rfl⟩, nofun⟩
  · intro u s there mated running
    have run : exec (.ref100Loss u) s = .next (serviceEnded (atTime s u) 0x0E true 0#64) := by
      change Machine.execRef100Loss u s = _
      rw [Machine.execRef100Loss, if_neg (by simp [there, mated]), enterFault_with_power (s := atTime s u) running]
    have same := sameBut_serviceEnded (s := atTime s u) (cause := 0x0E) (arg := 0#64) true
    exact ⟨_, run, rfl, Bool.or_true _, rfl, same .hbm rfl, same .host rfl⟩
  · intro r s on running die hot
    exact ⟨_, thermalTrip_of_hot_die on running die hot, rfl, rfl, rfl, rfl, rfl, rfl, rfl⟩

end Sys2Proof.Proofs
end

section
/-!
The Damper, the clamps, the domains and the end of Peak. Time that moves on keeps of the power state all but what it counts and Peak (`power_powerAt`), so each of these commands answers its own change of the power state that came before it.
-/
namespace Sys2Proof.Proofs

open Sys2Proof.Machine (State exec)
open Sys2Proof.Laws

section
variable {s : State} {t : Nat}

theorem power_expirePeak (s : State) : ∃ p c, (expirePeak s).power = { s.power with peak := p, cooldownEnd := c } := by
  unfold expirePeak
  split
  · split
    · exact ⟨_, _, rfl⟩
    · exact ⟨_, _, rfl⟩
  · exact ⟨_, _, rfl⟩

theorem power_powerAt (s : State) (t : Nat) : ∃ a n p c, (powerAt s t).power = { s.power with accrued := a, counters := n, peak := p, cooldownEnd := c } := by
  obtain ⟨p, c, power⟩ := power_expirePeak { atTime s t with power := { s.power with
    accrued := (atTime s t).time, counters := s.power.counters.mapIdx fun k v => if lowered (atTime s t) k then sat64 v ((atTime s t).time - s.power.accrued) else v } }
  exact ⟨_, _, p, c, power⟩

theorem same_powerAt (s : State) (t : Nat) : SameBut (partSet [.time, .power]) s (powerAt s t) := (kept_powerAt rfl _ _ (Kept.refl _ s)).same

/-! ### DAMPER_TICK (R494, R501) -/

/-- The readings of a tick taken, and the warm time started again where its conditions do not hold (R497). -/
def tickRead (s : State) (x : DamperInputs) (t : Nat) : State :=
  let r := takeReadings (powerAt s t) x.temps
  let r := { r with power := { r.power with watts := x.inputW, milliA := x.inputMilliA } }
  if warmNow r x.coolantOk then r else { r with power := { r.power with warmSince := r.time + 1 } }

/-- The target of a tick: below the present level over the ceiling or 51 A, else not below it, how far by a free value. -/
def tickTarget (r : State) (x : DamperInputs) : Nat :=
  if x.inputW > ceiling r ∨ x.inputMilliA > 51000 then (draw r).1 % max 1 r.power.level else r.power.level + (draw r).1 % (101 - r.power.level)

theorem damperTick_of_up (up : damperUp s = true) (x : DamperInputs) (t : Nat) :
    exec (.damperTick x t) s = .next (sampleCoarse { (draw (tickRead s x t)).2 with power := { (tickRead s x t).power with target := tickTarget (tickRead s x t) x } }) := by
  change Machine.execDamperTick x t s = _
  rw [Machine.execDamperTick, if_neg (by simp [up])]
  rfl

theorem power_tickRead (s : State) (x : DamperInputs) (t : Nat) :
    ∃ w, (tickRead s x t).power = { (powerAt s t).power with temps := x.temps.foldl (fun a r => a.set r.sensor r.quarterDeg) (powerAt s t).power.temps, watts := x.inputW, milliA := x.inputMilliA, warmSince := w } := by
  unfold tickRead
  dsimp only
  split
  · exact ⟨_, rfl⟩
  · exact ⟨_, rfl⟩

theorem power_sampleCoarse (s : State) : ∃ w ts l n c, (sampleCoarse s).power = { s.power with coarseW := w, coarseTemps := ts, coarseLevel := l, coarseStep := n, coarseTime := c } := by
  unfold sampleCoarse
  split
  · exact ⟨_, _, _, _, _, rfl⟩
  · exact ⟨_, _, _, _, _, rfl⟩

theorem tickTarget_lt {r : State} {x : DamperInputs} (excess : x.inputMilliA > 51000 ∨ x.inputW > ceiling r) (live : 0 < r.power.level) : tickTarget r x < r.power.level := by
  rw [tickTarget, if_pos excess.symm, Nat.max_eq_right live]
  exact Nat.mod_lt _ live

theorem tickTarget_within {r : State} {x : DamperInputs} (amps : x.inputMilliA ≤ 51000) (watts : x.inputW ≤ ceiling r) (high : r.power.level ≤ 100) :
    r.power.level ≤ tickTarget r x ∧ tickTarget r x ≤ 100 := by
  have room : (draw r).1 % (101 - r.power.level) < 101 - r.power.level := Nat.mod_lt _ (by omega)
  rw [tickTarget, if_neg (by omega)]
  omega

/-! ### LEVEL_STEP (R495, R501) -/

/-- The level after a step: 1 % toward the target. -/
def steppedLevel (r : State) : Nat :=
  if r.power.target < r.power.level then r.power.level - 1
  else if r.power.level < r.power.target ∧ r.power.level < 100 ∧ mayRaise r then r.power.level + 1 else r.power.level

theorem levelStep_of_due (up : damperUp s = true) (due : s.power.lastStep + 50000 ≤ t) :
    ∃ u, exec (.levelStep t) s = .next u ∧ SameBut (partSet [.time, .power, .boot]) s u ∧ u.power.level = steppedLevel (powerAt s t) := by
  have kept := kept_execLevelStep (F := partSet [.time, .power, .boot]) rfl t s (Kept.refl _ s)
  revert kept
  change OnNext _ (Machine.execLevelStep t s) → ∃ u, Machine.execLevelStep t s = .next u ∧ _
  rw [Machine.execLevelStep, if_neg (by simp [up, due])]
  extract_lets r x l ended v
  intro kept
  refine ⟨_, rfl, kept.same, ?_⟩
  split
  · rfl
  · rfl

theorem steppedLevel_down (lower : s.power.target < s.power.level) (t : Nat) : steppedLevel (powerAt s t) = s.power.level - 1 := by
  obtain ⟨a, n, p, c, power⟩ := power_powerAt s t
  rw [steppedLevel, power]
  exact if_pos lower

theorem steppedLevel_up (higher : s.power.level < s.power.target) (room : s.power.level < 100) (free : s.power.clamped = false) (amps : s.power.milliA ≤ 51000) (t : Nat) :
    steppedLevel (powerAt s t) = s.power.level + 1 := by
  obtain ⟨a, n, p, c, power⟩ := power_powerAt s t
  rw [steppedLevel, mayRaise, power]
  simp [Nat.not_lt.2 higher.le, higher, room, free, amps]

/-! ### The clamps (R501, R502) -/

theorem computeLevel_powerAt (s : State) (t : Nat) : computeLevel (powerAt s t) = computeLevel s := by
  obtain ⟨a, n, p, c, power⟩ := power_powerAt s t
  rw [computeLevel, power]
  rfl

/-- A reading of the attention die taken, with its alert set. -/
abbrev dieRead (s : State) (r : Reading) (t : Nat) : State := setAlert (takeReadings (powerAt s t) [r]) 0 (decide (400 ≤ r.quarterDeg))

theorem limitDie_dieRead (r : Reading) : limitDie (dieRead s r t) = limitDie s := by
  have boot : (powerAt s t).boot = s.boot := same_powerAt s t .boot rfl
  have fuses : (dieRead s r t).boot.fuses = s.boot.fuses := calc
    _ = (powerAt s t).boot.fuses := rfl
    _ = s.boot.fuses := by rw [boot]
  rw [limitDie, fuses, limitDie]

theorem thermalClampStep_of_hot_die {r : Reading} (on : s.timeOn = true) (running : s.boot.phase ≠ .faulted) (die : r.sensor = 0) (hot : 400 ≤ r.quarterDeg)
    (cool : r.quarterDeg < limitDie s) (due : s.power.heatStep.getD 0 0 + 50000 ≤ (atTime s t).time) :
    ∃ w hs, exec (.thermalClampStep r t) s = .next { dieRead s r t with power := { (dieRead s r t).power with warmSince := w, heatLevel := s.power.heatLevel - 1, heatStep := hs } } := by
  obtain ⟨a, n, p, c, power⟩ := power_powerAt s t
  have level : (powerAt s t).power.heatLevel = s.power.heatLevel := by rw [power]
  have stepped : (powerAt s t).power.heatStep = s.power.heatStep := by rw [power]
  refine ⟨(dieRead s r t).time + 1, (powerAt s t).power.heatStep.set r.sensor (powerAt s t).time, ?_⟩
  change Machine.execThermalClampStep r t s = _
  rw [Machine.execThermalClampStep, if_neg (by simp [on, running, die])]
  extract_lets +onlyGivenNames old read now mark
  have past : now = true := by
    refine decide_eq_true ?_
    change (powerAt s t).power.heatStep.getD r.sensor 0 + 50000 ≤ (powerAt s t).time
    rw [stepped, die, powerAt_time]
    exact due
  rw [if_pos die]
  extract_lets +onlyGivenNames told readings warmed
  have still : warmed = { dieRead s r t with power := { (dieRead s r t).power with warmSince := (dieRead s r t).time + 1 } } := if_pos (by omega)
  have below : ¬(limitDie warmed ≤ r.quarterDeg ∧ old < limitDie warmed) := by
    rw [still]
    exact fun h => absurd h.1 (not_le.2 ((limitDie_dieRead r).symm ▸ cool))
  have lowered : heatStep r.quarterDeg 400 warmed.power.heatLevel = s.power.heatLevel - 1 := by
    rw [heatStep, if_pos hot, still]
    exact congrArg (· - 1) level
  rw [if_neg below, if_pos past, lowered, still]
  rfl

end

/-- Settles O9, from what a tick sets as its target, what a level step and a clamp leave as the level. -/
theorem damperAndClamps : Obligations.DamperAndClamps := by
  refine ⟨?_, ?_, ?_, ?_, ?_⟩
  · intro x t s up
    obtain ⟨w, read⟩ := power_tickRead s x t
    obtain ⟨a, n, p, c, timed⟩ := power_powerAt s t
    have level : (tickRead s x t).power.level = s.power.level := by rw [read, timed]
    have top : ceiling (tickRead s x t) = ceiling (powerAt s t) := by rw [ceiling, read, ceiling]
    obtain ⟨_, _, _, _, _, coarse⟩ := power_sampleCoarse { (draw (tickRead s x t)).2 with power := { (tickRead s x t).power with target := tickTarget (tickRead s x t) x } }
    have kept := ans_eq (damperTick_of_up up x t) (kept_execDamperTick (F := partSet [.time, .free, .power]) rfl x t s (Kept.refl _ s))
    refine ⟨_, damperTick_of_up up x t, kept.same, ?_, ?_, fun live high => ⟨fun excess => ?_, fun amps watts => ?_⟩⟩
    · rw [coarse, read]
    · rw [coarse, read]
    · rw [coarse, ← level]
      exact tickTarget_lt (top.symm ▸ excess) (level.symm ▸ live)
    · rw [coarse, ← level]
      exact tickTarget_within amps (top.symm ▸ watts) (level.symm ▸ high)
  · intro t s up due lower
    obtain ⟨u, run, same, level⟩ := levelStep_of_due up due
    exact ⟨u, run, same, level.trans (steppedLevel_down lower t)⟩
  · intro t s up due higher room free amps
    obtain ⟨u, run, same, level⟩ := levelStep_of_due up due
    exact ⟨u, run, same, level.trans (steppedLevel_up higher room free amps t)⟩
  · intro milliA t s on above running
    have run : exec (.currentClamp milliA t) s = .next (setAlert { powerAt s t with power := { (powerAt s t).power with level := computeLevel (powerAt s t) / 2, clamped := true, milliA := milliA } } 2 true) :=
      if_neg (by simp [on, above, running])
    have kept := ans_eq run (kept_execCurrentClamp (F := partSet [.time, .power, .boot]) rfl milliA t s (Kept.refl _ s))
    exact ⟨_, run, kept.same, congrArg (· / 2) (computeLevel_powerAt s t), rfl⟩
  · intro r t s on running die hot cool due
    obtain ⟨w, hs, run⟩ := thermalClampStep_of_hot_die on running die hot cool due
    have same : SameBut (partSet [.time, .power, .boot]) s (dieRead s r t) := (kept_setAlert rfl _ _ _ (kept_takeReadings rfl _ _ (kept_powerAt rfl _ _ (Kept.refl _ s)))).same
    exact ⟨_, run, sameBut_with_power same rfl _, rfl⟩

end Sys2Proof.Proofs
end

section
/-!
Hub temperatures, wakes, idle returns and the end of Peak (R487, R488, R499, R503).
-/
namespace Sys2Proof.Proofs

open Sys2Proof.Machine (State exec)
open Sys2Proof.Laws

section
variable {s : State} {t : Nat}

/-! ### HUB_TEMP_READ (R503) -/

/-- One stack of a hub read: its temperature, its refresh, and the warm time. -/
def stackRead (hub : Nat) (temps : List Int) (s : State) (j : Nat) : State :=
  { s with power := { s.power with temps := s.power.temps.set (5 + (5 * hub + j)) (temps.getD j 0), fastRefresh := s.power.fastRefresh.set (5 * hub + j) (decide (340 < temps.getD j 0))
                                   warmSince := if stackFitted s (5 * hub + j) ∧ 340 < temps.getD j 0 then s.time + 1 else s.power.warmSince } }

theorem hubTempRead_of_fitted {hub : Nat} {temps : List Int} (on : s.timeOn = true) (fitted : hub < hubCount s) (five : temps.length = 5) :
    exec (.hubTempRead hub temps) s = .next ([0, 1, 2, 3, 4].foldl (stackRead hub temps) s) := by
  change Machine.execHubTempRead hub temps s = _
  rw [Machine.execHubTempRead, if_neg (by simp [on, fitted, five])]
  rfl

theorem fastRefresh_stacksRead (hub : Nat) (temps : List Int) (js : List Nat) (s : State) :
    (js.foldl (stackRead hub temps) s).power.fastRefresh = js.foldl (fun r j => r.set (5 * hub + j) (decide (340 < temps.getD j 0))) s.power.fastRefresh := by
  induction js generalizing s with
  | nil => rfl
  | cons j js ih => exact ih _

/-! ### Domains (R487, R488) -/

theorem domainWakeDone_of_due {d w : Nat} (wake : (getDom s d).wake = some w) (due : w ≤ t) (unfenced : domFenced s d = false) (kind : domKind d ≠ 9) :
    exec (.domainWakeDone d t) s = .next (pushFlash (releaseAll (modDom (atTime s t) d fun y => { y with present := .on, wake := none, lastWork := (atTime s t).time }))) := by
  change Machine.execDomainWakeDone d t s = _
  rw [Machine.execDomainWakeDone, wake]
  dsimp only
  rw [if_neg (by simp [due, unfenced]), if_neg fun h => kind h.1]

theorem enterState_of_other_kind {d : Nat} (port : domKind d ≠ 8) (root : domKind d ≠ 9) (x : DomState) :
    enterState s d x = modDom s d fun y => { y with present := x, wake := none } := by
  rw [enterState, if_neg fun h => root h.1, if_neg fun h => port h.1]

theorem domainIdleReturn_of_idle {d : Nat} (commanded : (getDom s d).commanded ≠ .on) (present : (getDom s d).present = .on) (idle : (getDom s d).lastWork + 100000 ≤ t)
    (free : domWork s d = false) : exec (.domainIdleReturn d t) s = .next (enterState (atTime s t) d (getDom s d).commanded) := by
  change Machine.execDomainIdleReturn d t s = _
  rw [Machine.execDomainIdleReturn]
  exact if_neg (by simp [commanded, present, idle, free])

/-! ### PEAK_EXPIRE (R499) -/

theorem expirePeak_of_past {b e : Nat} (peak : s.power.peak = some (b, e)) (past : e ≤ s.time) : expirePeak s = endPeak s e := by
  rw [expirePeak, peak]
  exact if_pos past

theorem powerAt_of_peak_past {b e : Nat} (peak : s.power.peak = some (b, e)) (past : e ≤ (atTime s t).time) :
    (powerAt s t).power.peak = none ∧ (powerAt s t).power.cooldownEnd = e + 10000000000 := by
  rw [powerAt]
  extract_lets u
  rw [expirePeak_of_past (by exact peak) (by exact past)]
  exact ⟨rfl, rfl⟩

end

/-- Settles O10, from the fold of a hub read over its five stacks and from what each of the other commands answers. -/
theorem domainsAndPeak : Obligations.DomainsAndPeak := by
  refine ⟨?_, ?_, ?_, ?_⟩
  · intro hub q0 q1 q2 q3 q4 s on fitted
    have run := hubTempRead_of_fitted (temps := [q0, q1, q2, q3, q4]) on fitted rfl
    refine ⟨_, run, (ans_eq run (kept_execHubTempRead (F := partSet [.power]) rfl hub _ s (Kept.refl _ s))).same, fun there => ?_⟩
    rw [fastRefresh_stacksRead]
    have first : 5 * hub < s.power.fastRefresh.length := by omega
    simp [List.getD_eq_getElem?_getD, there, first]
  · intro d w t s wake due unfenced kind
    exact domainWakeDone_of_due wake due unfenced kind
  · intro d t s commanded present idle free _ port root
    rw [domainIdleReturn_of_idle commanded present idle free, enterState_of_other_kind port root]
  · intro b e t s peak due past
    have run : exec (.peakExpire t) s = .next (powerAt s t) := by
      change Machine.execPeakExpire t s = _
      rw [Machine.execPeakExpire, peak]
      exact if_pos due
    exact ⟨_, run, same_powerAt s t, powerAt_time s t, powerAt_of_peak_past peak past⟩

end Sys2Proof.Proofs
end

section
/-!
The monitor, the fuse commands, the recovery loader and the SMBus target. Each service answers in one way (`monitorRun`, `loaderRun`, `smbReply`), so a command's reply is that of its own meaning where the service runs.
-/
namespace Sys2Proof.Proofs

open Sys2Proof.Machine (State exec)
open Sys2Proof.Laws

section
variable {s : State}

/-! ### The monitor (R469 to R472) -/

theorem monitorRun_of_allowed {allowed : List Lifecycle} (up : monitorUp s = true) (allows : allowed.contains s.boot.lifecycle = true) (k : State → State) :
    monitorRun s allowed k = k s := by
  rw [monitorRun, if_neg (by simp [up]), if_pos allows]

theorem monitorRun_of_refused {allowed : List Lifecycle} (up : monitorUp s = true) (refuses : allowed.contains s.boot.lifecycle = false) (k : State → State) :
    monitorRun s allowed k = monitorSay s [] "ERR F0" := by
  rw [monitorRun, if_neg (by simp [up]), if_neg (ne_true_of_eq_false refuses)]

theorem monitorRun_anyLife (up : monitorUp s = true) (k : State → State) : monitorRun s anyLife k = k s :=
  monitorRun_of_allowed up (by cases s.boot.lifecycle <;> rfl) k

theorem monitorRun_testLife (up : monitorUp s = true) (life : s.boot.lifecycle ≠ .production) (k : State → State) : monitorRun s testLife k = k s := by
  refine monitorRun_of_allowed up ?_ k
  cases h : s.boot.lifecycle with
  | production => exact absurd h life
  | manufacture => rfl
  | returned => rfl

theorem setBaud_of_rate {n : Nat} (rate : n ∈ bauds) : setBaud s n = { monitorSay s [] "OK" with serial := { s.serial with baud := n } } := by
  rw [setBaud, if_pos (List.contains_iff_mem.2 rate)]
  rfl

theorem free_monitorSay (s : State) (lines : List String) (end_ : String) : (monitorSay s lines end_).free = s.free :=
  (kept_monitorSay (F := 8) rfl s lines end_ (Kept.refl _ s)).same .free rfl

/-- One row of the HBM report: the stack, whether it is trained, and its margins. -/
def hbmRow (s : State) (k : Nat) : State := emit (draw s).2 (.uart ("HBM" ++ numbers [k, b2n (s.boot.trained.contains k), (draw s).1 % 2 ^ 32]))

theorem free_hbmRows (ks : List Nat) (s : State) : (ks.foldl hbmRow s).free = s.free + ks.length := by
  induction ks generalizing s with
  | nil => rfl
  | cons k ks ih =>
    rw [List.foldl_cons, ih, List.length_cons]
    exact Nat.add_right_comm _ _ _

theorem monitorHbm_of_test (up : monitorUp s = true) (life : s.boot.lifecycle ≠ .production) :
    exec .monitorHbm s = .next (monitorSay (((List.range 20).filter (stackFitted s)).foldl hbmRow s) [] "OK") :=
  congrArg Host.Outcome.next (monitorRun_testLife up life _)

theorem peek_of_register {off : Nat} (up : monitorUp s = true) (life : s.boot.lifecycle ≠ .production) (aligned : off % 8 = 0) (inside : off < 2 ^ 20) :
    exec (.peek off) s = .next (monitorSay (draw (expirePeak s)).2 [hexOf 16 (readGlobal (draw (expirePeak s)).2 (draw (expirePeak s)).1 off).toNat] "OK") := by
  refine congrArg Host.Outcome.next ((monitorRun_testLife up life _).trans ?_)
  rw [if_neg (by omega)]

theorem poke_of_register {off : Nat} (up : monitorUp s = true) (life : s.boot.lifecycle ≠ .production) (aligned : off % 8 = 0) (inside : off < 2 ^ 20) (v : Word) (t : Nat) :
    exec (.poke off v t) s = .next (monitorSay (writeGlobal (atTime s t) off v t) [] "OK") := by
  refine congrArg Host.Outcome.next ((monitorRun_testLife up life _).trans ?_)
  rw [if_neg (by omega)]

end

/-- Settles O12: a command of every lifecycle answers (`monitorRun_anyLife`), one of the test floor answers outside PRODUCTION (`monitorRun_testLife`) and is refused in it (`monitorRun_of_refused`).
The form of the lines is the model's own (log entry 17). -/
theorem monitorCommands : Obligations.MonitorCommands := by
  refine ⟨?_, ?_, ?_, ?_, ?_⟩
  · intro s up
    have answers : ∀ k : State → State, Host.Outcome.next (monitorRun s anyLife k) = (.next (k s) : Answer) := fun k => congrArg Host.Outcome.next (monitorRun_anyLife up k)
    refine ⟨answers _, answers _, ⟨_, answers _, rfl⟩, ⟨_, answers _, List.length_map _⟩, answers _, answers _, ⟨_, answers _, ?_⟩, ⟨_, answers _, rfl⟩, ?_⟩
    · rw [List.length_map, List.filter_reverse, List.length_reverse]
    · exact congrArg Host.Outcome.next (monitorRun_of_refused up rfl _)
  · intro n s up rate
    exact congrArg Host.Outcome.next ((monitorRun_anyLife up _).trans (setBaud_of_rate rate))
  · intro s
    rfl
  · intro off t v s up life aligned inside
    have answers : ∀ k : State → State, Host.Outcome.next (monitorRun s testLife k) = (.next (k s) : Answer) := fun k => congrArg Host.Outcome.next (monitorRun_testLife up life k)
    refine ⟨⟨_, monitorHbm_of_test up life, ?_, ?_⟩, ⟨_, peek_of_register up life aligned inside, rfl⟩, poke_of_register up life aligned inside v t, answers _, answers _, answers _⟩
    · exact (ans_eq (monitorHbm_of_test up life) (kept_execMonitorHbm rfl s (Kept.refl _ s))).same
    · rw [free_monitorSay, free_hbmRows]
  · intro off t v s up life c hc
    have refused : ∀ (allowed : List Lifecycle) (k : State → State), allowed.contains .production = false → Host.Outcome.next (monitorRun s allowed k) = (.next (monitorSay s [] "ERR F0") : Answer) :=
      fun allowed k h => congrArg Host.Outcome.next (monitorRun_of_refused up (life ▸ h) k)
    simp only [List.mem_cons, List.not_mem_nil, or_false] at hc
    rcases hc with rfl | rfl | rfl | rfl | rfl | rfl | rfl | rfl | rfl
    all_goals exact refused _ _ rfl

/-! ### Burning (R544 to R546, R549) -/

section
variable {s : State}

theorem fuseLoad_of_part {k : Nat} (up : monitorUp s = true) (life : s.boot.lifecycle = .manufacture) (hk : k < 8) (v : BitVec 512) :
    exec (.fuseLoad k v) s = .next (monitorSay { s with serial := { s.serial with staged := s.serial.staged.set k v } } [] "OK") := by
  refine congrArg Host.Outcome.next ((monitorRun_of_allowed up (by rw [life]; rfl) _).trans ?_)
  rw [if_neg (Nat.not_le.2 hk)]

theorem fuseBurn_of_legal {g : Nat} (up : monitorUp s = true) (life : s.boot.lifecycle = .manufacture) (legal : configLegal (stagedConfig s) = true) (free : freeGen s = some g) :
    exec (.fuseBurn true) s = .next (monitorSay (burnGen s g { config := stagedConfig s, check := configCheck (stagedConfig s), valid := 15, burnt := true }) [toString g] "OK") := by
  refine congrArg Host.Outcome.next ((monitorRun_of_allowed up (by rw [life]; rfl) _).trans ?_)
  dsimp only
  rw [if_neg (by simp [legal]), free]
  exact if_pos rfl

theorem fuseLifeProduction_of_whole (up : monitorUp s = true) (life : s.boot.lifecycle = .manufacture) (identity : s.boot.fuses.identity ≠ 0#64) (key : s.boot.fuses.imageKey ≠ 0)
    (seed : s.boot.fuses.seedCheck = seedCheckOf s.boot.fuses.seed) (ruled : s.boot.ruling.isSome = true) :
    exec .fuseLifeProduction s = .next (monitorSay { s with boot := { s.boot with fuses := { s.boot.fuses with lifecycle := s.boot.fuses.lifecycle ||| 15 } } } [] "OK") := by
  refine congrArg Host.Outcome.next ((monitorRun_of_allowed up (by rw [life]; rfl) _).trans ?_)
  exact if_neg (by simp [identity, key, seed, Option.isSome_iff_ne_none.1 ruled])

end

/-- Settles O13, from what each of the three commands answers in MANUFACTURE. -/
theorem fuseCommands : Obligations.FuseCommands := by
  refine ⟨?_, ?_, ?_⟩
  · intro k v s up life hk
    exact fuseLoad_of_part up life hk v
  · intro g s up life legal free
    refine ⟨_, fuseBurn_of_legal up life legal free, sameBut_trans (sameBut_boot rfl s _) (kept_monitorSay rfl _ _ _ (Kept.refl _ _)).same, ?_⟩
    rw [(kept_monitorSay (F := 8) rfl _ _ _ (Kept.refl _ _)).same .boot rfl]
    rfl
  · intro s up life identity key seed ruled
    exact fuseLifeProduction_of_whole up life identity key seed ruled

/-! ### The recovery loader (R536 to R538) -/

section
variable {s : State}

theorem loaderRun_of_idle (phase : s.boot.phase = .loader) (idle : s.serial.transfer = none) (k : State → State) : loaderRun s k = k s :=
  if_pos ⟨phase, by simp [idle]⟩

theorem image_of_size {kind n : Nat} (phase : s.boot.phase = .loader) (idle : s.serial.transfer = none) (least : 1 ≤ kind) (most : kind ≤ 5) (some_ : 0 < n) (fits : n ≤ stagingArea kind) :
    exec (.image kind n) s = .next (emit { s with serial := { s.serial with transfer := some (kind, n, [], 0) } } (.uart "READY")) := by
  refine congrArg Host.Outcome.next ((loaderRun_of_idle phase idle _).trans ?_)
  exact if_neg (by omega)

/-- Slot A as the loader writes it: the received images and key, above the other slot. -/
def writtenSlot (s : State) (xs : List Image) : BootSlot :=
  { key := s.serial.key.getD [], images := xs, complete := true, number := if (s.fw.slots.getD 1 {}).complete then (s.fw.slots.getD 1 {}).number + 1 else 1 }

/-- The boot slots after slot A is written. -/
def slotWritten (s : State) (xs : List Image) : State :=
  { s with fw := { s.fw with slots := [writtenSlot s xs, s.fw.slots.getD 1 {}] }, serial := { s.serial with raw := [] } }

theorem loaderWrite_of_sound {sigOk : List Nat} {xs : List Image} (phase : s.boot.phase = .loader) (idle : s.serial.transfer = none) (key : s.serial.key.isSome = true)
    (hxs : xs = [1, 2, 3, 4, 5].filterMap (receivedImage s sigOk)) (five : xs.length = 5) (sound : ∀ x ∈ xs, imageBad s x = none) :
    exec (.loaderWrite sigOk) s = .next (monitorSay (slotWritten s xs) [] "OK") := by
  have none_ : (xs.find? fun x => (imageBad s x).isSome) = none := List.find?_eq_none.2 fun x hx => by simp [sound x hx]
  refine congrArg Host.Outcome.next ((loaderRun_of_idle phase idle _).trans ?_)
  rw [← hxs]
  extract_lets images
  rw [if_neg (by simp [Option.isSome_iff_ne_none.1 key, five, images]), none_]
  rfl

theorem loaderBlock_of_good {what n naks : Nat} {held data : List Byte} (phase : s.boot.phase = .loader) (transfer : s.serial.transfer = some (what, n, held, naks))
    (whole : data.length = min 4096 (n - held.length)) (more : held.length + data.length < n) (ok : Bool) :
    exec (.loaderBlock data (crc32c data) ok) s = .next (emit { s with serial := { s.serial with transfer := some (what, n, held ++ data, 0) } } (.uart "ACK")) := by
  change Machine.execLoaderBlock data (crc32c data) ok s = _
  rw [Machine.execLoaderBlock, transfer]
  dsimp only
  rw [if_neg (by simp [phase]), if_pos ⟨whole, rfl⟩, if_pos (by rw [List.length_append]; exact more)]
  rfl

theorem loaderBlock_of_bad {what n naks : Nat} {held data : List Byte} {crc : BitVec 32} (phase : s.boot.phase = .loader) (transfer : s.serial.transfer = some (what, n, held, naks))
    (bad : crc32c data ≠ crc) (few : naks < 7) (ok : Bool) :
    exec (.loaderBlock data crc ok) s = .next (emit { s with serial := { s.serial with transfer := some (what, n, held, naks + 1) } } (.uart "NAK")) := by
  change Machine.execLoaderBlock data crc ok s = _
  rw [Machine.execLoaderBlock, transfer]
  dsimp only
  rw [if_neg (by simp [phase]), if_neg fun h => bad h.2, if_neg (Nat.not_le.2 few)]
  rfl

end

/-- Settles O14, from the answer to each line (`loaderRun_of_idle`), the slot that WRITE leaves, and the two kinds of a block. -/
theorem recoveryLoader : Obligations.RecoveryLoader := by
  refine ⟨?_, ?_, ?_, ?_⟩
  · intro s phase idle
    have answers : ∀ k : State → State, Host.Outcome.next (loaderRun s k) = (.next (k s) : Answer) := fun k => congrArg Host.Outcome.next (loaderRun_of_idle phase idle k)
    refine ⟨answers _, answers _, fun n rate => (answers _).trans (congrArg Host.Outcome.next (setBaud_of_rate rate)), answers _,
      fun kind n least most some_ fits => image_of_size phase idle least most some_ fits, fun v => answers _, answers _, answers _⟩
  · intro sigOk xs s phase idle key hxs five sound
    have told : SameBut 8 (slotWritten s xs) (monitorSay (slotWritten s xs) [] "OK") := (kept_monitorSay rfl _ _ _ (Kept.refl _ _)).same
    have fw : (monitorSay (slotWritten s xs) [] "OK").fw = (slotWritten s xs).fw := told .fw rfl
    have run := loaderWrite_of_sound phase idle key hxs five sound
    refine ⟨_, run, (ans_eq run (kept_execLoaderWrite rfl sigOk s (Kept.refl _ s))).same, ?_, ?_, ?_⟩
    · rw [fw]
      rfl
    · rw [fw]
      rfl
    · rw [fw]
      rfl
  · intro what n naks held data ok s phase transfer whole more
    exact loaderBlock_of_good phase transfer whole more ok
  · intro what n naks held data crc ok s phase transfer bad few
    exact loaderBlock_of_bad phase transfer bad few ok

/-! ### The SMBus target (R583, R585, R586) -/

section
variable {s : State}

theorem smbReply_of_up (up : smbUp s = true) (bytes : List Nat) : smbReply s bytes = emit s (.smb bytes) := by rw [smbReply, if_pos up]

theorem smbReply_of_down (down : smbUp s = false) (bytes : List Nat) : smbReply s bytes = emit s .smbNak := by rw [smbReply, if_neg (ne_true_of_eq_false down)]

theorem smbAlertCause_of_up (up : smbUp s = true) :
    exec .smbAlertCause s = .next { emit s (.smb [b2n (s.boot.alert.getD 0 false) + 2 * b2n (s.boot.alert.getD 1 false) + 4 * b2n (s.boot.alert.getD 2 false)]) with
      boot := { s.boot with alert := s.boot.alert.mapIdx fun k x => x && s.boot.alertNow.getD k false } } := by
  change Machine.execSmbAlertCause s = _
  rw [Machine.execSmbAlertCause, if_pos up, smbReply_of_up up]
  rfl

theorem smbAlertCause_of_down (down : smbUp s = false) : exec .smbAlertCause s = .next (emit s .smbNak) := by
  change Machine.execSmbAlertCause s = _
  rw [Machine.execSmbAlertCause, if_neg (ne_true_of_eq_false down), smbReply_of_down down]

theorem smbAlertResponse_of_down (down : smbUp s = false) : exec .smbAlertResponse s = .next (emit s .smbNak) := by
  change Machine.execSmbAlertResponse s = _
  rw [Machine.execSmbAlertResponse, if_neg (by simp [down])]

end

/-- Settles O15, from the two forms of a reply and from what a read of ALERT_CAUSE clears. -/
theorem smbusTarget : Obligations.SmbusTarget := by
  refine ⟨?_, ?_, ?_⟩
  · intro s up
    have answers : ∀ bytes, Host.Outcome.next (smbReply s bytes) = (.next (emit s (.smb bytes)) : Answer) := fun bytes => congrArg Host.Outcome.next (smbReply_of_up up bytes)
    refine ⟨answers _, answers _, answers _, answers _, answers _, ⟨_, smbAlertCause_of_up up, fun p hp => ?_, rfl, rfl⟩, answers _, answers _, fun alert => ?_⟩
    · cases p with
      | out => exact absurd hp (by decide)
      | boot => exact absurd hp (by decide)
      | _ => rfl
    · exact congrArg (fun x => Host.Outcome.next (emit s x)) (if_pos (by rw [alertAsserted, up, alert]; rfl))
  · intro s down c hc
    have naks : ∀ bytes, Host.Outcome.next (smbReply s bytes) = (.next (emit s .smbNak) : Answer) := fun bytes => congrArg Host.Outcome.next (smbReply_of_down down bytes)
    simp only [List.mem_cons, List.not_mem_nil, or_false] at hc
    rcases hc with rfl | rfl | rfl | rfl | rfl | rfl | rfl | rfl | rfl
    case inr.inr.inr.inr.inr.inl => exact smbAlertCause_of_down down
    case inr.inr.inr.inr.inr.inr.inr.inr => exact smbAlertResponse_of_down down
    all_goals exact naks _
  · intro code s unknown
    exact if_neg (by rwa [List.contains_iff_mem])

end Sys2Proof.Proofs
end

section
/-!
The registers with an effect of their own, the mailbox's questions, and the requests that stage or start an update. A message that is heard has its own meaning (`mboxRun_of_heard`), and its reply changes only what leaves the
node and the free values drawn.
-/
namespace Sys2Proof.Proofs

open Sys2Proof.Machine (State exec)
open Sys2Proof.Laws

section
variable {s : State}

/-! ### The registers of chapter 18 -/

theorem ownerOf_val (p : Fin 16) : ownerOf p.val = .part p := dif_pos p.isLt

/-- A write of zero drops the extension that was there, and the register then reads as zero (R239, R556). -/
theorem snareExt_writeSnareExt_zero {p : Fin 16} (there : p.val < s.owners.length) : (getOwner (writeSnareExt s p.val 0#64) (.part p)).snareExt = 0#64 := by
  have none_ : bit (0#64 &&& (maskOf 63 63 ||| maskOf 10 0)) 63 = false := by rw [BitVec.zero_and]; decide
  unfold writeSnareExt
  extract_lets o old held v ok new s1 s2 s3
  have hok : ok = true := by
    change (!bit v 63 || _) = true
    rw [none_]
    rfl
  have hnew : new = 0#64 := by
    change (if ok = true then v else _) = _
    rw [if_pos hok]
    exact BitVec.zero_and
  have owners2 : s2.owners = s1.owners := (kept_swapUse (F := partSet [.extents]) rfl _ _ _ _ (Kept.refl _ s1)).same .owners rfl
  have owners3 : s3.owners = s2.owners := by
    change (if new = old then s2 else dropExtension s2 p.val).owners = _
    split
    · rfl
    · rfl
  rw [if_pos hok, getOwner, owners3, owners2]
  change (getOwner (modOwner s (ownerOf p.val) fun x => { x with snareExt := new }) (.part p)).snareExt = _
  rw [ownerOf_val, getOwner_modOwner (o := .part p) there]
  exact hnew

theorem snareExtChange_of_open {p : Fin 16} (opened : pageOpen s (.part p) = true) (v : Word) : exec (.snareExtChange p v) s = .next (writeSnareExt s p.val v) := if_pos opened

theorem shadowEnable_of_open {p : Fin 16} {k : Nat} (opened : pageOpen s (.part p) = true) (there : k < 8) (v : Word) :
    exec (.shadowEnable p k v) s = .next (modOwner s (.part p) fun x => { x with shadows := x.shadows.modify k fun e => e.written v }) := by
  refine (if_pos ⟨opened, there⟩ : exec (.shadowEnable p k v) s = .next (writeShadow s p.val k v)).trans ?_
  rw [writeShadow, ownerOf_val]

theorem msixUnmask_of_up {o : Owner} {v : Nat} (up : mailboxUp s = true) (there : v < 64) (quiet : scrubbing s o = false) :
    exec (.msixUnmask o v) s = .next (sendPending (modOwner s o fun x => { x with vecMask := x.vecMask.set v false }) o v) :=
  if_neg (by simp [up, there, quiet])

/-- An unmasked vector that is pending sends its message (R483). -/
theorem out_sendPending_of_pending {o : Owner} {v : Nat} (pending : (getOwner s o).pba.getD v false = true) (func : (getOwner s o).funcMask = false)
    (unmasked : (getOwner s o).vecMask.getD v true = false) (quiet : scrubbing s o = false) : (sendPending s o v).out = .msix o v :: s.out := by
  rw [sendPending, if_pos (by rw [pending, func, unmasked, quiet]; rfl)]
  rfl

theorem sendPending_of_idle {o : Owner} {v : Nat} (idle : (getOwner s o).pba.getD v false = false) : sendPending s o v = s := by
  rw [sendPending, if_neg (by rw [idle]; simp)]

theorem snareBlockRelease_of_valid {b : Nat} (up : mailboxUp s = true) (there : b < 256) (valid : (getBlock s b).valid = true) (open_ : lockedPart s (getBlock s b).part = false) :
    exec (.snareBlockRelease b) s = .next (modBlock s b fun x => { x with valid := false, busy := true, entries := [], shifting := [] }) := by
  refine (if_pos ⟨up, there⟩ : exec (.snareBlockRelease b) s = .next (releaseBlock s b)).trans (congrArg Host.Outcome.next ?_)
  rw [releaseBlock, if_neg (by simp [valid, open_])]

theorem flashSpillSlotsWrite_zero {p : Fin 16} (up : mailboxUp s = true) (live : (getPart s p.val).live = true) (quiet : (getPart s p.val).state ≠ .scrubbing) (unspilled : (getFlash s p.val).spill = []) :
    exec (.flashSpillSlotsWrite p 0) s = .next (modFlash s p.val fun y => { y with spillSlots := 0, spillState := 0, spillSpaces := [] }) := by
  refine (if_pos up : exec (.flashSpillSlotsWrite p 0) s = .next (writeSpillSlots s p.val 0)).trans (congrArg Host.Outcome.next ?_)
  rw [writeSpillSlots]
  dsimp only
  rw [if_neg (by simp [live, quiet]), if_neg (by simp [unspilled]), if_pos (Nat.zero_mod _)]

end

/-- Settles O21, register by register. -/
theorem setupRegisters : Obligations.SetupRegisters := by
  refine ⟨?_, ?_, ?_, ?_, ?_, ?_, ?_⟩
  · intro p s opened
    have run := snareExtChange_of_open opened 0#64
    exact ⟨_, run, (ans_eq run (kept_execSnareExtChange rfl p _ s (Kept.refl _ s))).same, fun there => snareExt_writeSnareExt_zero there⟩
  · intro p k v s opened there
    exact shadowEnable_of_open opened there v
  · intro o v s up there quiet
    have run := msixUnmask_of_up up there quiet
    refine ⟨_, run, (ans_eq run (kept_execMsixUnmask rfl o v s (Kept.refl _ s))).same, ?_, ?_⟩
    · intro pending func owner vec
      have here : getOwner (modOwner s o fun x => { x with vecMask := x.vecMask.set v false }) o = { getOwner s o with vecMask := (getOwner s o).vecMask.set v false } := getOwner_modOwner owner _
      exact out_sendPending_of_pending (by rw [here]; exact pending) (by rw [here]; exact func) (by rw [here]; simp [List.getD_eq_getElem?_getD, vec]) quiet
    · intro idle
      rw [sendPending_of_idle]
      · rfl
      · by_cases owner : o.idx < s.owners.length
        · rw [getOwner_modOwner owner]
          exact idle
        · rw [modOwner_of_length_le (Nat.le_of_not_lt owner)]
          exact idle
  · intro b s up there valid open_
    exact snareBlockRelease_of_valid up there valid open_
  · intro b s busy
    exact if_pos busy
  · intro d v s up there
    refine ⟨_, ?_, if_pos ⟨up, there⟩⟩
    exact (kept_stateOf rfl _ _ (Kept.refl _ s) (kept_execWearBucketRefill rfl _ _ _ (Kept.refl _ s))).same
  · intro p s up live quiet unspilled
    exact flashSpillSlotsWrite_zero up live quiet unspilled

/-! ### Questions to the mailbox (R452, R453, R456, R467, R529) -/

section
variable {s : State} {o a : Owner} {m : MboxMsg}

theorem fw_mboxReply (typ st det : Nat) (r0 r1 : Option Nat) (body : List Byte) : (mboxReply s o typ m st det r0 r1 body).fw = s.fw :=
  (kept_mboxReply (F := partSet [.free, .out]) rfl _ _ _ _ _ _ _ _ _ (Kept.refl _ s)).same .fw rfl

theorem atTime_time_le (s : State) (t : Nat) : s.time ≤ (atTime s t).time := Nat.le_max_left _ _

/-- The time at which TIME's reply leaves: at most 1 ms after its arrival (R453). -/
theorem atTime_time_of_delay (s : State) (d : Nat) : (atTime s (s.time + d % 1000001)).time ≤ s.time + 1000000 := by
  have delay : d % 1000001 ≤ 1000000 := by omega
  have moved : (s.time + d % 1000001) / 10 * 10 % 2 ^ 64 ≤ s.time + 1000000 := ((Nat.mod_le _ _).trans (Nat.div_mul_le_self _ _)).trans (by omega)
  exact Nat.max_le.2 ⟨Nat.le_add_right _ _, moved⟩

/-- The state in which TIME answers. -/
def timeAnswered (s : State) (t : Nat) : State :=
  atTime { atTime s t with free := s.free + 1 } ((atTime s t).time + Config.free s.free % 1000001)

theorem time_of_heard (heard : Heard s o 2 m .any m.body.isEmpty a) (t : Nat) :
    exec (.time o m t) s = .next (emit (timeAnswered s t)
      (mboxOut o 2 m.tag stDone 0 (BitVec.ofNat 64 (atTime s t).time) (BitVec.ofNat 64 (timeAnswered s t).time) [])) :=
  congrArg Host.Outcome.next (mboxRun_of_heard heard _)

/-- The log entries that an asker may see from a number on, oldest first (R529). -/
def seenFrom (s : State) (a : Owner) (start : Nat) : List LogEntry :=
  s.faults.log.reverse.filter fun e => decide (start ≤ e.seq) && (a == .fm || (e.part.isSome && e.part == a.part?))

theorem mem_seenFrom {start : Nat} {e : LogEntry} :
    e ∈ seenFrom s a start ↔ e ∈ s.faults.log ∧ start ≤ e.seq ∧ (a = .fm ∨ (e.part.isSome = true ∧ e.part = a.part?)) := by
  simp [seenFrom]

theorem logRead_of_heard (heard : Heard s o 3 m .any (m.body.length == 8) a) (some_ : 0 < m.at_ 4) (most : m.at_ 4 ≤ 127) (z5 : m.at_ 5 = 0) (z6 : m.at_ 6 = 0) (z7 : m.at_ 7 = 0) :
    exec (.logRead o m) s = .next (mboxReply s o 3 m stDone 0 (some (((((seenFrom s a (ofLe (m.body.take 4))).take (m.at_ 4)).getLast?).map fun e => e.seq + 1).getD s.faults.nextSeq))
      (some (((s.faults.log.reverse.head?).map (·.seq)).getD s.faults.nextSeq)) (((seenFrom s a (ofLe (m.body.take 4))).take (m.at_ 4)).flatMap fun e => ofWords (logWords e))) :=
  congrArg Host.Outcome.next ((mboxRun_of_heard heard _).trans (if_neg (by simp [z5, z6, z7]; omega)))

theorem attachState_of_ring (heard : Heard s o 0x40 m .any (m.body.length == 2) a) (ctx : ofLe m.body < 16384) (own : judgeContext s a (ofLe m.body) [.submission, .completion, .chime] = none) :
    exec (.attachState o m) s = .next
      (if cfgKind (getRing s a (contextSlot s (ofLe m.body))).inCfg = .submission then mboxReply s o 0x40 m stDone 0
        (some ((getRing s a (contextSlot s (ofLe m.body))).dispatched % 2 ^ 32 * 2 ^ 32 + (getRing s a (contextSlot s (ofLe m.body))).recsWritten % 2 ^ 32)) (some (getRing s a (contextSlot s (ofLe m.body))).recsHeld)
      else mboxReply s o 0x40 m stDone 0
        (some ((getRing s a (contextSlot s (ofLe m.body))).index * 2 ^ 32 + (getRing s a (contextSlot s (ofLe m.body))).written % 2 ^ 32)) (some (getRing s a (contextSlot s (ofLe m.body))).held.length)) := by
  refine congrArg Host.Outcome.next ((mboxRun_of_heard heard _).trans ?_)
  dsimp only
  rw [if_neg (Nat.not_le.2 ctx), own]

end

/-- Settles O22: each heard question has its own answer. -/
theorem mailboxQuestions : Obligations.MailboxQuestions := by
  refine ⟨?_, ?_, ?_, ?_, ?_⟩
  · intro o a m s heard
    exact congrArg Host.Outcome.next (mboxRun_of_heard heard _)
  · intro o a m t s heard
    have run := time_of_heard heard t
    exact ⟨_, run, (ans_eq run (kept_execTime rfl o m t s (Kept.refl _ s))).same, atTime_time_le { atTime s t with free := s.free + 1 } _,
      atTime_time_of_delay { atTime s t with free := s.free + 1 } _, rfl⟩
  · intro o a m s heard some_ most z5 z6 z7
    refine ⟨(seenFrom s a (ofLe (m.body.take 4))).take (m.at_ 4), _, _, logRead_of_heard heard some_ most z5 z6 z7, List.length_take_le _ _, ?_, ?_, ?_⟩
    · intro e he
      exact mem_seenFrom.1 (List.mem_of_mem_take he)
    · intro e he
      rw [he]
      rfl
    · intro short e he from_ may
      rw [List.length_take] at short
      rw [List.take_of_length_le (by omega)]
      exact mem_seenFrom.2 ⟨he, from_, may⟩
  · intro o a m r s heard ctx own hr
    subst hr
    exact attachState_of_ring heard ctx own
  · intro o a m s heard
    exact ⟨_, congrArg Host.Outcome.next (mboxRun_of_heard heard _)⟩

/-! ### Staging and starting an update (R454, R455, R461) -/

section
variable {s : State} {o a : Owner} {m : MboxMsg}

/-- A background operation starts when none runs. -/
theorem startOp_of_idle (idle : s.fw.op = none) (op : FwOp) : startOp s o m op = mboxReply { s with fw := { s.fw with op := some op } } o op.typ m stDone 0 := by
  rw [startOp, idle]
  exact if_neg (by simp)

theorem fw_startOp_of_idle (idle : s.fw.op = none) (op : FwOp) : (startOp s o m op).fw = { s.fw with op := some op } := by
  rw [startOp_of_idle idle, fw_mboxReply]

/-- The state in which FW_STAGE has written its bytes. -/
def fwStaged (s : State) (m : MboxMsg) : State :=
  modStaging { s with fw := { s.fw with buffer := true } } (m.at_ 0) fun x => { bytes := Memory.writeBytes x.bytes (ofLe (slice m.body 4 4)) (m.body.drop 8), used := true }

theorem fwStage_of_fits (heard : Heard s o 0x30 m .manager (decide (9 ≤ m.body.length ∧ m.body.length ≤ 4008)) a) (least : 1 ≤ m.at_ 0) (most : m.at_ 0 ≤ 5) (z1 : m.at_ 1 = 0) (z2 : m.at_ 2 = 0)
    (z3 : m.at_ 3 = 0) (room : ofLe (slice m.body 4 4) + (m.body.drop 8).length ≤ stagingArea (m.at_ 0)) (held : s.fw.buffer = true) :
    exec (.fwStage o m) s = .next (mboxReply (fwStaged s m) o 0x30 m stDone 0) := by
  refine congrArg Host.Outcome.next ((mboxRun_of_heard heard _).trans ?_)
  dsimp only
  rw [if_neg (by omega), if_neg (by simp [held])]
  rfl

theorem fwVerify_of_mask (heard : Heard s o 0x31 m .manager (m.body.length == 1) a) (least : 0 < m.at_ 0) (most : m.at_ 0 ≤ 31) :
    exec (.fwVerify o m) s = .next (startOp s o m { typ := 0x31, kinds := kindsOf (m.at_ 0) }) :=
  congrArg Host.Outcome.next ((mboxRun_of_heard heard _).trans (if_neg (by omega)))

theorem fwActivate_of_mask (heard : Heard s o 0x32 m .manager (m.body.length == 1) a) (least : 0 < m.at_ 0) (most : m.at_ 0 ≤ 31) :
    exec (.fwActivate o m) s = .next (startOp s o m { typ := 0x32, kinds := kindsOf (m.at_ 0), images := verifiedImages s (kindsOf (m.at_ 0)), todo := switchOrder s (kindsOf (m.at_ 0)) }) :=
  congrArg Host.Outcome.next ((mboxRun_of_heard heard _).trans (if_neg (by omega)))

/-- A slot that is not complete until every byte is written (R461). -/
def slotOpened (s : State) (n : Nat) : State := { s with fw := { s.fw with slots := s.fw.slots.modify n fun x => { x with complete := false } } }

theorem fwPersist_of_verified (heard : Heard s o 0x33 m .manager (m.body.length == 2) a) (least : 0 < m.at_ 0) (most : m.at_ 0 ≤ 31) (slot : m.at_ 1 ≤ 1) (idle : s.fw.op = none)
    (all : (verifiedImages s (kindsOf (m.at_ 0))).length = (kindsOf (m.at_ 0)).length) :
    exec (.fwPersist o m) s = .next
      (slotOpened (startOp s o m { typ := 0x33, kinds := kindsOf (m.at_ 0), images := verifiedImages s (kindsOf (m.at_ 0)), slot := m.at_ 1 }) (m.at_ 1)) := by
  refine congrArg Host.Outcome.next ((mboxRun_of_heard heard _).trans ((if_neg (by omega)).trans ?_))
  exact if_pos ⟨by rw [idle]; rfl, all⟩

end

/-- Settles O23, from what starting an operation leaves (`fw_startOp_of_idle`). -/
theorem firmwareRequests : Obligations.FirmwareRequests := by
  refine ⟨?_, ?_, ?_, ?_, ?_⟩
  · intro o a m s heard least most z1 z2 z3 room held
    have run := fwStage_of_fits heard least most z1 z2 z3 room held
    refine ⟨_, run, (ans_eq run (kept_execFwStage rfl o m s (Kept.refl _ s))).same, ?_⟩
    rw [fw_mboxReply, fwStaged, modStaging, ← held]
  · intro o a m s heard least most idle
    have run := fwVerify_of_mask heard least most
    exact ⟨_, run, (ans_eq run (kept_execFwVerify rfl o m s (Kept.refl _ s))).same, fw_startOp_of_idle idle _⟩
  · intro o a m s heard least most idle
    have run := fwActivate_of_mask heard least most
    exact ⟨_, run, (ans_eq run (kept_execFwActivate rfl o m s (Kept.refl _ s))).same, fw_startOp_of_idle idle _⟩
  · intro o a m s heard least most slot idle all
    have run := fwPersist_of_verified heard least most slot idle all
    refine ⟨_, run, (ans_eq run (kept_execFwPersist rfl o m s (Kept.refl _ s))).same, ?_, ?_⟩
    · rw [slotOpened, fw_startOp_of_idle idle]
    · rw [slotOpened, fw_startOp_of_idle idle]
  · intro o a m s heard idle
    have run : exec (.rollbackAdvance o m) s = .next (startOp s o m { typ := 0x35, kinds := [] }) := congrArg Host.Outcome.next (mboxRun_of_heard heard _)
    exact ⟨_, run, (ans_eq run (kept_execRollbackAdvance rfl o m s (Kept.refl _ s))).same, fw_startOp_of_idle idle _⟩

end Sys2Proof.Proofs
end

section
/-!
The background operations of firmware. Each ends by `endOp`, of which every statement here needs the firmware state that it leaves (`fw_endOp`); a verification and the return of old images go kind by kind and processor by
processor, each touching its own entry only.
-/
namespace Sys2Proof.Proofs

open Sys2Proof.Machine (State exec)
open Sys2Proof.Laws

/-! ### Entries of a list -/

section
variable {α : Type} {l : List α} {d : α}

theorem getD_modify_self {i : Nat} (h : i < l.length) (f : α → α) : (l.modify i f).getD i d = f (l.getD i d) := by
  simp [List.getD_eq_getElem?_getD, h]

theorem getD_modify_of_ne {i j : Nat} (h : i ≠ j) (f : α → α) : (l.modify i f).getD j d = l.getD j d := by
  simp [List.getD_eq_getElem?_getD, h]

theorem getD_set_self {i : Nat} (h : i < l.length) (a : α) : (l.set i a).getD i d = a := by simp [List.getD_eq_getElem?_getD, h]

theorem getD_set_of_ne {i j : Nat} (h : i ≠ j) (a : α) : (l.set i a).getD j d = l.getD j d := by simp [List.getD_eq_getElem?_getD, h]

end

section
variable {s : State}

/-! ### The operation's end -/

/-- FW_STATUS keeps the outcome of an operation that has ended (R455). -/
theorem fw_endOp (s : State) (op : FwOp) (st det progress : Nat) :
    (endOp s op st det progress).fw = { s.fw with op := none, lastStatus := st, lastDetail := det, lastProgress := progress } :=
  (kept_postFm (F := partSet [.out, .host, .owners]) rfl _ _ _ _ _ _ _ (Kept.refl _ _)).same .fw rfl

theorem boot_endOp (s : State) (op : FwOp) (st det progress : Nat) : (endOp s op st det progress).boot = s.boot :=
  (kept_endOp (F := partSet [.out, .host, .owners, .fw]) rfl s op st det progress (Kept.refl _ s)).same .boot rfl

theorem belfry_endOp (s : State) (op : FwOp) (st det progress : Nat) : (endOp s op st det progress).belfry = s.belfry :=
  (kept_endOp (F := partSet [.out, .host, .owners, .fw]) rfl s op st det progress (Kept.refl _ s)).same .belfry rfl

theorem fw_newAlias (s : State) : (newAlias s).fw = s.fw := (kept_newAlias (F := partSet [.belfry]) rfl s (Kept.refl _ s)).same .fw rfl

/-! ### FW_VERIFY_DONE (R445, R455, R457) -/

/-- The image that a kind's staging area holds, and R445's judgement of it. -/
def stagedImage (s : State) (sigOk : List Nat) (k : Nat) : Image := parseImage k (getStaging s k).bytes (sigOk.contains k && (getStaging s k).used)
def judgement (s : State) (sigOk : List Nat) (k : Nat) : Option (Nat × Nat) := imageBad s (stagedImage s sigOk k)

/-- A staging area as its kind's judgement leaves it. -/
def judgedStaging (s : State) (sigOk : List Nat) (k : Nat) (y : Staging) : Staging :=
  match judgement s sigOk k with
  | some c => { y with state := .refused, image := none, cause := c }
  | none => { y with state := .verified, image := some (stagedImage s sigOk k) }

def verifyKind (sigOk : List Nat) (s : State) (k : Nat) : State :=
  let x := parseImage k (getStaging s k).bytes (sigOk.contains k && (getStaging s k).used)
  match imageBad s x with
  | some c => modStaging s k fun y => { y with state := .refused, image := none, cause := c }
  | none => modStaging s k fun y => { y with state := .verified, image := some x }

theorem verifyKind_eq (sigOk : List Nat) (s : State) (k : Nat) : verifyKind sigOk s k = modStaging s k (judgedStaging s sigOk k) := by
  unfold verifyKind judgedStaging judgement stagedImage
  dsimp only
  cases imageBad s (parseImage k (getStaging s k).bytes (sigOk.contains k && (getStaging s k).used)) <;> rfl

theorem state_judgedStaging (sigOk : List Nat) (k : Nat) (y : Staging) :
    (judgedStaging s sigOk k y).state = if (judgement s sigOk k).isNone then .verified else .refused := by
  rw [judgedStaging]
  cases judgement s sigOk k <;> rfl

theorem getStaging_modStaging_self {k : Nat} (least : 1 ≤ k) (most : k ≤ s.fw.staging.length) (f : Staging → Staging) : getStaging (modStaging s k f) k = f (getStaging s k) :=
  getD_modify_self (by omega) f

theorem getStaging_modStaging_of_ne {k j : Nat} (hk : 1 ≤ k) (hj : 1 ≤ j) (ne : k ≠ j) (f : Staging → Staging) : getStaging (modStaging s k f) j = getStaging s j :=
  getD_modify_of_ne (by omega) f

/-- A verification of other kinds leaves a kind's staging area and its judgement as they were. -/
theorem staging_verifyKinds_of_not_mem {sigOk kinds : List Nat} {j : Nat} (hj : 1 ≤ j) (least : ∀ k ∈ kinds, 1 ≤ k) (out_ : j ∉ kinds) :
    getStaging (kinds.foldl (verifyKind sigOk) s) j = getStaging s j := by
  induction kinds generalizing s with
  | nil => rfl
  | cons k ks ih =>
    obtain ⟨ne, rest⟩ := not_or.1 (mt List.mem_cons.2 out_)
    rw [List.foldl_cons, ih (fun x hx => least x (List.mem_cons_of_mem _ hx)) rest, verifyKind_eq, getStaging_modStaging_of_ne (least k List.mem_cons_self) hj (Ne.symm ne)]

/-- Each kind of the mask is judged by its own staging area. -/
theorem staging_verifyKinds {sigOk kinds : List Nat} (once : kinds.Nodup) (there : ∀ k ∈ kinds, 1 ≤ k ∧ k ≤ s.fw.staging.length) :
    ∀ k ∈ kinds, getStaging (kinds.foldl (verifyKind sigOk) s) k = judgedStaging s sigOk k (getStaging s k) := by
  induction kinds generalizing s with
  | nil => simp
  | cons x xs ih =>
    obtain ⟨fresh, once'⟩ := List.nodup_cons.1 once
    have hx := there x List.mem_cons_self
    have least : ∀ k ∈ xs, 1 ≤ k := fun k hk => (there k (List.mem_cons_of_mem _ hk)).1
    intro k hk
    rw [List.foldl_cons]
    rcases List.mem_cons.1 hk with rfl | hk
    · rw [staging_verifyKinds_of_not_mem hx.1 least fresh, verifyKind_eq, getStaging_modStaging_self hx.1 hx.2]
    · have ne : x ≠ k := fun e => fresh (e ▸ hk)
      have same : getStaging (verifyKind sigOk s x) k = getStaging s k := by rw [verifyKind_eq, getStaging_modStaging_of_ne hx.1 (least k hk) ne]
      rw [ih once' (fun j hj => by
        rw [verifyKind_eq]
        exact (there j (List.mem_cons_of_mem _ hj)).imp_right fun h => h.trans_eq (List.length_modify ..).symm) k hk, same]
      have boot : (verifyKind sigOk s x).boot = s.boot := by rw [verifyKind_eq]; rfl
      have judged : judgement (verifyKind sigOk s x) sigOk k = judgement s sigOk k := by
        rw [judgement, judgement, stagedImage, stagedImage, same, imageBad, imageBad, rollbackOf, rollbackOf, boot]
      rw [judgedStaging, judgedStaging, judged, stagedImage, stagedImage, same]

/-- The first refusal's cause, or DONE (R457). -/
def verifyOutcome (s : State) (kinds : List Nat) : Nat × Nat :=
  match kinds.find? fun k => (getStaging s k).state == .refused with
  | some k => (getStaging s k).cause
  | none => (stDone, 0)

theorem verifyOutcome_of_judged {t : State} {sigOk kinds : List Nat} (judged : ∀ k ∈ kinds, getStaging t k = judgedStaging s sigOk k (getStaging s k)) :
    verifyOutcome t kinds = (kinds.findSome? (judgement s sigOk)).getD (stDone, 0) := by
  rw [verifyOutcome]
  induction kinds with
  | nil => rfl
  | cons k ks ih =>
    have here := judged k List.mem_cons_self
    cases bad : judgement s sigOk k with
    | none =>
      rw [judgedStaging, bad] at here
      rw [List.find?_cons_of_neg (by simp [here]), List.findSome?_cons_of_isNone (by rw [bad]; rfl)]
      exact ih fun j hj => judged j (List.mem_cons_of_mem _ hj)
    | some c =>
      rw [judgedStaging, bad] at here
      rw [List.find?_cons_of_pos (by simp [here]), List.findSome?_cons_of_isSome (by rw [bad]; rfl), bad]
      simp only [here, Option.getD_some]

theorem fwVerifyDone_of_op {sigOk : List Nat} {op : FwOp} (running : s.fw.op = some op) (typ : op.typ = 0x31) :
    exec (.fwVerifyDone sigOk) s = .next
      (endOp (draw (op.kinds.foldl (verifyKind sigOk) s)).2 op (verifyOutcome (op.kinds.foldl (verifyKind sigOk) s) op.kinds).1 (verifyOutcome (op.kinds.foldl (verifyKind sigOk) s) op.kinds).2
        ((draw (op.kinds.foldl (verifyKind sigOk) s)).1 % 2 ^ 64)) := by
  change Machine.execFwVerifyDone sigOk s = _
  rw [Machine.execFwVerifyDone, running]
  exact if_neg (not_not_intro typ)

/-! ### FW_PERSIST_DONE (R461, R535) -/

/-- The images that a persisted slot holds. -/
def persistedImages (s : State) (op : FwOp) : List Image := [1, 2, 3, 4, 5].filterMap fun k => if op.kinds.contains k then op.image k else runningImage s k

/-- The contents of a persisted slot. -/
def persistedSlot (s : State) (op : FwOp) : BootSlot :=
  { key := (s.fw.slots.getD s.fw.booted {}).key, images := persistedImages s op, complete := true, number := (s.fw.slots.getD (1 - op.slot) {}).number + 1 }

def slotPersisted (s : State) (op : FwOp) : State :=
  { (draw s).2 with fw := { s.fw with slots := s.fw.slots.set op.slot (persistedSlot s op) } }

theorem fwPersistDone_of_missing {op : FwOp} (running : s.fw.op = some op) (typ : op.typ = 0x33) (missing : op.images.length ≠ op.kinds.length) :
    exec .fwPersistDone s = .next (endOp s op stNotOwner 0x12 0) := by
  change Machine.execFwPersistDone s = _
  rw [Machine.execFwPersistDone, running]
  exact (if_neg (not_not_intro typ)).trans (if_pos missing)

theorem fwPersistDone_of_all {op : FwOp} (running : s.fw.op = some op) (typ : op.typ = 0x33) (all : op.images.length = op.kinds.length) :
    exec .fwPersistDone s = .next (endOp (slotPersisted s op) op stDone 0 ((draw s).1 % 2 ^ 64)) := by
  change Machine.execFwPersistDone s = _
  rw [Machine.execFwPersistDone, running]
  refine (if_neg (not_not_intro typ)).trans ?_
  rw [if_neg (fun h => h all)]
  rfl

/-- A slot whose number is above the other's is the preferred one (R535). -/
theorem preferredSlot_of_newer {n : Nat} (two : n < 2) (complete : (s.fw.slots.getD n {}).complete = true)
    (newer : (s.fw.slots.getD (1 - n) {}).number < (s.fw.slots.getD n {}).number) : preferredSlot s = n := by
  rw [preferredSlot]
  rcases (by omega : n = 0 ∨ n = 1) with rfl | rfl
  · exact if_neg fun h => h.2.elim (fun c => absurd complete (ne_true_of_eq_false (by simpa only [Bool.not_eq_true'] using c))) (Nat.lt_asymm newer)
  · exact if_pos ⟨complete, .inr newer⟩

/-! ### ROLLBACK_BURN_DONE (R446, R548) -/

/-- A counter after the burn: raised to a target above its value. -/
def counterRaised (bits target : Nat) : Nat := if rollbackValue bits < target then burnTo bits target else bits

theorem counterRaised_of_le {bits target : Nat} (h : target ≤ rollbackValue bits) : counterRaised bits target = bits := if_neg (Nat.not_lt.2 h)

def rollbackBurnt (s : State) : State :=
  { (draw s).2 with boot := { s.boot with fuses := { s.boot.fuses with
      rollback0 := counterRaised s.boot.fuses.rollback0 (lowestSvn s [1]), rollback1 := counterRaised s.boot.fuses.rollback1 (lowestSvn s [2, 3, 4, 5]) } } }

theorem rollbackBurnDone_of_none {op : FwOp} (running : s.fw.op = some op) (typ : op.typ = 0x35) (ha : lowestSvn s [1] ≤ rollbackValue s.boot.fuses.rollback0)
    (hb : lowestSvn s [2, 3, 4, 5] ≤ rollbackValue s.boot.fuses.rollback1) : exec .rollbackBurnDone s = .next (endOp (draw s).2 op stNotOwner 0x11 ((draw s).1 % 2 ^ 64)) := by
  change Machine.execRollbackBurnDone s = _
  rw [Machine.execRollbackBurnDone, running]
  exact (if_neg (not_not_intro typ)).trans (if_pos (by simp [ha, hb]))

theorem rollbackBurnDone_of_some {op : FwOp} (running : s.fw.op = some op) (typ : op.typ = 0x35)
    (raise : rollbackValue s.boot.fuses.rollback0 < lowestSvn s [1] ∨ rollbackValue s.boot.fuses.rollback1 < lowestSvn s [2, 3, 4, 5]) :
    exec .rollbackBurnDone s = .next (endOp (newAlias (rollbackBurnt s)) op stDone 0 ((draw s).1 % 2 ^ 64)) := by
  change Machine.execRollbackBurnDone s = _
  rw [Machine.execRollbackBurnDone, running]
  refine (if_neg (not_not_intro typ)).trans ((if_neg (by simpa [Nat.not_le, imp_iff_not_or] using raise)).trans ?_)
  unfold rollbackBurnt counterRaised
  simp only [decide_eq_true_eq]
  rfl

/-! ### Processors -/

theorem getProc_modProc_self {x : Nat} (there : x < s.fw.procs.length) (f : Proc → Proc) : (modProc s x f).fw.procs.getD x {} = f (s.fw.procs.getD x {}) := getD_modify_self there f

theorem getProc_modProc_of_ne {x y : Nat} (ne : x ≠ y) (f : Proc → Proc) : (modProc s x f).fw.procs.getD y {} = s.fw.procs.getD y {} := getD_modify_of_ne ne f

/-- Puts back the image that a switched processor ran (R457). -/
def imageReturned (s : State) (e : Nat × Option Image) : State := modProc s e.1 fun p => { p with image := e.2 }

theorem paused_imageReturned (s : State) (e : Nat × Option Image) (x : Nat) : ((imageReturned s e).fw.procs.getD x {}).paused = (s.fw.procs.getD x {}).paused := by
  rw [imageReturned]
  by_cases ne : e.1 = x
  · by_cases there : x < s.fw.procs.length
    · rw [ne, getProc_modProc_self there]
    · have gone : s.fw.procs.modify e.1 (fun p => { p with image := e.2 }) = s.fw.procs := List.modify_eq_self (by omega)
      rw [modProc, gone]
  · rw [getProc_modProc_of_ne ne]

theorem paused_imagesReturned (s : State) (es : List (Nat × Option Image)) (x : Nat) : ((es.foldl imageReturned s).fw.procs.getD x {}).paused = (s.fw.procs.getD x {}).paused :=
  foldl_kept (P := fun t : State => (t.fw.procs.getD x {}).paused = (s.fw.procs.getD x {}).paused) rfl fun t e ht => (paused_imageReturned t e x).trans ht

theorem proc_imagesReturned_of_not_mem {es : List (Nat × Option Image)} {x : Nat} (out_ : x ∉ es.map (·.1)) : (es.foldl imageReturned s).fw.procs.getD x {} = s.fw.procs.getD x {} := by
  induction es generalizing s with
  | nil => rfl
  | cons e es ih =>
    obtain ⟨ne, rest⟩ := not_or.1 (mt List.mem_cons.2 out_)
    rw [List.foldl_cons, ih rest]
    exact getProc_modProc_of_ne (Ne.symm ne) _

theorem image_imagesReturned {es : List (Nat × Option Image)} (once : (es.map (·.1)).Nodup) : ∀ e ∈ es, e.1 < s.fw.procs.length → ((es.foldl imageReturned s).fw.procs.getD e.1 {}).image = e.2 := by
  induction es generalizing s with
  | nil => simp
  | cons x xs ih =>
    obtain ⟨fresh, once'⟩ := List.nodup_cons.1 once
    intro e he there
    rw [List.foldl_cons]
    rcases List.mem_cons.1 he with rfl | he
    · rw [proc_imagesReturned_of_not_mem fresh, imageReturned, getProc_modProc_self there]
    · exact ih once' e he (there.trans_eq (List.length_modify ..).symm)

/-! ### FW_ACTIVATE_STEP and FW_PAUSE_TIMEOUT (R445, R457 to R459) -/

theorem fwActivateStep_of_bad {op : FwOp} {e : Nat × Nat} (running : s.fw.op = some op) (typ : op.typ = 0x32) (first : op.switched = []) (unpaused : (s.fw.procs.any fun p => p.paused.isSome) = false)
    (bad : op.kinds.findSome? (activateBad s op) = some e) (t : Nat) : exec (.fwActivateStep t) s = .next (endOp (atTime s t) op e.1 e.2 0) := by
  change Machine.execFwActivateStep t s = _
  rw [Machine.execFwActivateStep, running]
  dsimp only
  rw [if_neg (not_not_intro typ), if_pos (by simp [first, unpaused]), bad]

theorem fwActivateStep_of_idle {op : FwOp} {x t : Nat} {rest : List Nat} (running : s.fw.op = some op) (typ : op.typ = 0x32)
    (sound : op.switched = [] → op.kinds.findSome? (activateBad s op) = none) (next_ : op.todo = x :: rest) (unpaused : (s.fw.procs.getD x {}).paused = none)
    (up : (s.fw.procs.getD x {}).restarting = false) (unfenced : (s.fw.procs.getD x {}).fenced = false) (due : op.notBefore ≤ t) :
    exec (.fwActivateStep t) s = .next (modProc (atTime s t) x fun p => { p with paused := some ((atTime s t).time + pauseBound x) }) := by
  change Machine.execFwActivateStep t s = _
  rw [Machine.execFwActivateStep, running]
  dsimp only
  have judged : (if op.switched.isEmpty ∧ !(s.fw.procs.any fun p => p.paused.isSome) then op.kinds.findSome? (activateBad s op) else none) = none := by
    split
    case isTrue h => exact sound (List.isEmpty_iff.1 h.1)
    case isFalse => rfl
  rw [if_neg (not_not_intro typ), judged, next_]
  dsimp only
  rw [unpaused]
  dsimp only
  rw [if_neg (not_or.2 ⟨Nat.not_lt.2 due, ne_true_of_eq_false up⟩), if_neg (ne_true_of_eq_false unfenced)]

/-- The processor that reports ready runs the new image. -/
def procSwitched (s : State) (op : FwOp) (x t : Nat) : State :=
  let s := modProc (atTime s t) x fun p => { p with paused := none, image := op.image (procKind x) }
  if x = 0 then newAlias s else s

def opAdvanced (s : State) (op : FwOp) (x t : Nat) (rest : List Nat) : FwOp :=
  { op with todo := rest, switched := (x, (s.fw.procs.getD x {}).image) :: op.switched, progress := op.progress + 1, notBefore := (procSwitched s op x t).time + 1000000 }

theorem fw_procSwitched (op : FwOp) (x t : Nat) :
    (procSwitched s op x t).fw = { s.fw with procs := s.fw.procs.modify x fun p => { p with paused := none, image := op.image (procKind x) } } := by
  rw [procSwitched]
  split
  · exact fw_newAlias _
  · rfl

theorem time_procSwitched (op : FwOp) (x t : Nat) : (procSwitched s op x t).time = (atTime s t).time := by
  rw [procSwitched]
  split
  · exact (kept_newAlias (F := partSet [.belfry]) rfl _ (Kept.refl _ _)).same .time rfl
  · rfl

theorem fwActivateStep_of_paused {op : FwOp} {x t b : Nat} {rest : List Nat} (running : s.fw.op = some op) (typ : op.typ = 0x32) (next_ : op.todo = x :: rest) (there : x < s.fw.procs.length)
    (paused : (s.fw.procs.getD x {}).paused = some b) (inTime : t ≤ b) :
    exec (.fwActivateStep t) s = .next (if rest.isEmpty then endOp (procSwitched s op x t) (opAdvanced s op x t rest) stDone 0 (op.progress + 1)
      else { procSwitched s op x t with fw := { (procSwitched s op x t).fw with op := some (opAdvanced s op x t rest) } }) := by
  change Machine.execFwActivateStep t s = _
  rw [Machine.execFwActivateStep, running]
  have any : (s.fw.procs.any fun p => p.paused.isSome) = true := by
    refine List.any_eq_true.2 ⟨s.fw.procs[x], List.getElem_mem there, ?_⟩
    rw [List.getD_eq_getElem _ _ there] at paused
    rw [paused]
    rfl
  dsimp only
  rw [if_neg (not_not_intro typ), if_neg (by simp [any]), next_]
  dsimp only
  rw [paused]
  dsimp only
  rw [if_neg (Nat.not_lt.2 inTime)]
  cases rest with
  | nil => rfl
  | cons => rfl

theorem fwPauseTimeout_of_late {op : FwOp} {x t b : Nat} {rest : List Nat} (running : s.fw.op = some op) (next_ : op.todo = x :: rest)
    (paused : (s.fw.procs.getD x {}).paused = some b) (late : b < t) :
    exec (.fwPauseTimeout t) s = .next (endOp ((op.switched.filter fun e => procKind e.1 == procKind x).foldl imageReturned (modProc (atTime s t) x fun p => { p with paused := none }))
      op stInternal 2 op.progress) := by
  change Machine.execFwPauseTimeout t s = _
  rw [Machine.execFwPauseTimeout, running]
  dsimp only
  rw [next_]
  dsimp only
  rw [paused]
  dsimp only
  rw [if_neg (Nat.not_le.2 late)]
  rfl

end

/-- Settles O24, from the state in which each operation ends and the firmware state that `endOp` leaves. -/
theorem firmwareOperations : Obligations.FirmwareOperations := by
  refine ⟨?_, ?_, ?_, ?_, ?_, ?_, ?_⟩
  · intro ok op judge s running typ hj
    subst hj
    have run := fwVerifyDone_of_op (sigOk := ok) running typ
    have fw := fw_endOp (draw (op.kinds.foldl (verifyKind ok) s)).2 op (verifyOutcome (op.kinds.foldl (verifyKind ok) s) op.kinds).1 (verifyOutcome (op.kinds.foldl (verifyKind ok) s) op.kinds).2
      ((draw (op.kinds.foldl (verifyKind ok) s)).1 % 2 ^ 64)
    refine ⟨_, run, (ans_eq run (kept_execFwVerifyDone rfl ok s (Kept.refl _ s))).same, by rw [fw], fun once there => ?_⟩
    have judged := staging_verifyKinds (s := s) (sigOk := ok) once there
    constructor
    · intro k hk
      rw [getStaging, fw]
      exact (congrArg Staging.state (judged k hk)).trans (state_judgedStaging ok k _)
    · rw [fw]
      exact verifyOutcome_of_judged judged
  · intro op s running typ
    by_cases all : op.images.length = op.kinds.length
    · have run := fwPersistDone_of_all running typ all
      have fw := fw_endOp (slotPersisted s op) op stDone 0 ((draw s).1 % 2 ^ 64)
      refine ⟨_, run, (ans_eq run (kept_execFwPersistDone rfl s (Kept.refl _ s))).same, by rw [fw], fun missing => absurd all missing, fun _ two len => ?_⟩
      have own : (endOp (slotPersisted s op) op stDone 0 ((draw s).1 % 2 ^ 64)).fw.slots.getD op.slot {} = persistedSlot s op := by
        rw [fw]
        exact getD_set_self (by omega) _
      have other : (endOp (slotPersisted s op) op stDone 0 ((draw s).1 % 2 ^ 64)).fw.slots.getD (1 - op.slot) {} = s.fw.slots.getD (1 - op.slot) {} := by
        rw [fw]
        exact getD_set_of_ne (by omega) _
      exact ⟨by rw [fw], preferredSlot_of_newer two (by rw [own]; rfl) (by rw [own, other]; exact Nat.lt_succ_self _), own, other⟩
    · have run := fwPersistDone_of_missing running typ all
      have fw := fw_endOp s op stNotOwner 0x12 0
      refine ⟨_, run, (ans_eq run (kept_execFwPersistDone rfl s (Kept.refl _ s))).same, by rw [fw], fun _ => ?_, fun h => absurd h all⟩
      rw [fw]
      exact ⟨rfl, rfl, rfl⟩
  · intro op s running typ
    by_cases raise : rollbackValue s.boot.fuses.rollback0 < lowestSvn s [1] ∨ rollbackValue s.boot.fuses.rollback1 < lowestSvn s [2, 3, 4, 5]
    · have run := rollbackBurnDone_of_some running typ raise
      have fw := fw_endOp (newAlias (rollbackBurnt s)) op stDone 0 ((draw s).1 % 2 ^ 64)
      have boot := (boot_endOp (newAlias (rollbackBurnt s)) op stDone 0 ((draw s).1 % 2 ^ 64)).trans (boot_newAlias _)
      refine ⟨_, run, (ans_eq run (kept_execRollbackBurnDone rfl s (Kept.refl _ s))).same, by rw [fw], ?_, ?_, fun _ => by rw [fw], fun ha hb => absurd raise (by omega)⟩
      · rw [boot]
        rfl
      · rw [boot]
        rfl
    · have ha : lowestSvn s [1] ≤ rollbackValue s.boot.fuses.rollback0 := by omega
      have hb : lowestSvn s [2, 3, 4, 5] ≤ rollbackValue s.boot.fuses.rollback1 := by omega
      have run := rollbackBurnDone_of_none running typ ha hb
      have fw := fw_endOp (draw s).2 op stNotOwner 0x11 ((draw s).1 % 2 ^ 64)
      have boot := boot_endOp (draw s).2 op stNotOwner 0x11 ((draw s).1 % 2 ^ 64)
      refine ⟨_, run, (ans_eq run (kept_execRollbackBurnDone rfl s (Kept.refl _ s))).same, by rw [fw], ?_, ?_, fun h => absurd h raise, fun _ _ => ⟨by rw [fw], by rw [fw]⟩⟩
      · rw [boot]
        exact (counterRaised_of_le ha).symm
      · rw [boot]
        exact (counterRaised_of_le hb).symm
  · intro t e op s running typ first unpaused bad
    have run := fwActivateStep_of_bad running typ first unpaused bad t
    have fw := fw_endOp (atTime s t) op e.1 e.2 0
    exact ⟨_, run, (kept_endOp rfl _ _ _ _ _ (kept_atTime rfl s t (Kept.refl _ s))).same, by rw [fw], by rw [fw]; rfl, by rw [fw]⟩
  · intro x t rest op s running typ sound next_ unpaused up unfenced due
    exact fwActivateStep_of_idle running typ sound next_ unpaused up unfenced due
  · intro x t b rest op s running typ next_ there paused inTime
    have run := fwActivateStep_of_paused running typ next_ there paused inTime
    have fw := fw_procSwitched (s := s) op x t
    have proc : (procSwitched s op x t).fw.procs.getD x {} = { s.fw.procs.getD x {} with paused := none, image := op.image (procKind x) } := by
      rw [fw]
      exact getD_modify_self there _
    have belfry : x ≠ 0 → (procSwitched s op x t).belfry = s.belfry := fun h => by rw [procSwitched, if_neg h]; rfl
    have same := (ans_eq run (kept_execFwActivateStep (F := partSet [.time, .out, .host, .owners, .fw, .belfry]) rfl t s (Kept.refl _ s))).same
    cases rest with
    | nil =>
      have done := fw_endOp (procSwitched s op x t) (opAdvanced s op x t []) stDone 0 (op.progress + 1)
      refine ⟨_, run, same, (congrArg (fun f : FwS => (f.procs.getD x {}).image) done).trans (congrArg Proc.image proc), (congrArg (fun f : FwS => (f.procs.getD x {}).paused) done).trans (congrArg Proc.paused proc),
        fun h => (belfry_endOp _ _ _ _ _).trans (belfry h), fun h => absurd rfl h, fun _ => ⟨congrArg FwS.op done, congrArg FwS.lastStatus done, congrArg FwS.lastDetail done⟩⟩
    | cons y ys =>
      refine ⟨_, run, same, congrArg Proc.image proc, congrArg Proc.paused proc, belfry, fun _ => ⟨rfl, ?_⟩, fun h => by cases h⟩
      exact congrArg some (congrArg (· + 1000000) (time_procSwitched op x t))
  · intro x t b rest op s running next_ paused late
    have run := fwPauseTimeout_of_late running next_ paused late
    have fw := fw_endOp ((op.switched.filter fun e => procKind e.1 == procKind x).foldl imageReturned (modProc (atTime s t) x fun p => { p with paused := none })) op stInternal 2 op.progress
    refine ⟨_, run, (ans_eq run (kept_execFwPauseTimeout rfl t s (Kept.refl _ s))).same, by rw [fw], by rw [fw], by rw [fw], fun there => ?_, fun once e he kind there => ?_⟩
    · rw [fw]
      refine (paused_imagesReturned _ _ x).trans ?_
      rw [getProc_modProc_self (s := atTime s t) there]
    · rw [fw]
      exact image_imagesReturned (once.sublist (List.filter_sublist.map _)) e (List.mem_filter.2 ⟨he, beq_iff_eq.2 kind⟩) (there.trans_eq (List.length_modify ..).symm)

end Sys2Proof.Proofs
end

section
/-!
Partitions and Belfry. Making and removing a partition go by the arm that the checks leave; the end of a drain by the frames that its filters leave out; Belfry's messages by what passes its gate (R427).
-/
namespace Sys2Proof.Proofs

open Sys2Proof.Machine (State exec)
open Sys2Proof.Laws

/-! ### PARTITION_CREATE, LOCK and REMOVE (R414 to R417, R437) -/

section
variable {s : State} {d : Desc} {q p t : Nat} {i : BitVec 32}

/-- A definition that CREATE may make now: it breaks no rule of R414, takes nothing that another has, and everything that it needs is there. -/
structure Makeable (s : State) (p : Nat) (w : List Word) : Prop where
  legal : definitionBad s w = false
  untaken : takenByOther s w = false
  identity : noIdentity s = false ∨ wd w 12 = 0#64
  belfry : procAway s 0 = false
  keys : belfryFenced s = false
  settled : ((definedPchs w).any fun c => (List.range 3).any fun k => (getExt s (3 * c + k)).clearing || (getExt s (3 * c + k)).kind == .awaiting) = false
  enough : storesShort s p w = false

theorem partitionCreate_of_makeable {rd : HostRead} {r : ReadRes} (hd : stationDesc s q i 0x0C 0x30 = some d) (manager : d.owner = .fm) (len : d.len = 0)
    (body : bodyOk d.cur [maskOf 3 0, allBits] = true) (high : fld (d.w 3) 63 60 = 0) (absent : (getPart s (fld (d.w 2) 3 0)).state = .absent) (active : memActive s = true)
    (read : readIn s d 3 256 rd = .ok r) (clean : r.poison = false) (h : Makeable s (fld (d.w 2) 3 0) (toWords 32 r.bytes)) :
    exec (.partitionCreate q i rd t) s = .next (endNow (createPart (atTime s t) (fld (d.w 2) 3 0) (toWords 32 r.bytes)) d stDone 0 (some (3 * (definedPchs (toWords 32 r.bytes)).length))) := by
  obtain ⟨legal, untaken, identity, belfry, keys, settled, enough⟩ := h
  have known : ¬(noIdentity s = true ∧ wd (toWords 32 r.bytes) 12 ≠ 0#64) := fun h => identity.elim (ne_true_of_eq_false · h.1) h.2
  change Machine.execPartitionCreate q i rd t s = _
  rw [Machine.execPartitionCreate, hd]
  dsimp only
  rw [if_neg (not_not_intro manager), if_neg (by simp [len, body, high]), if_neg (by simp [absent]), if_neg (by simp [active, absent]), read]
  dsimp only
  rw [if_neg (ne_true_of_eq_false clean), if_neg (ne_true_of_eq_false legal), if_neg (ne_true_of_eq_false untaken), if_neg known, if_neg (ne_true_of_eq_false settled),
    if_neg (ne_true_of_eq_false enough), if_neg (ne_true_of_eq_false belfry), if_neg (ne_true_of_eq_false keys)]

theorem partitionLock_of_open (hd : stationDesc s q i 0x0C 0x32 = some d) (manager : d.owner = .fm) (len : d.len = 0) (body : bodyOk d.cur [maskOf 3 0] = true)
    (opened : (getPart s (fld (d.w 2) 3 0)).state = .open_) :
    exec (.partitionLock q i) s = .next (endNow (modPart s (fld (d.w 2) 3 0) fun x => { x with state := .locked }) d stDone 0) := by
  change Machine.execPartitionLock q i s = _
  rw [Machine.execPartitionLock, hd]
  dsimp only
  rw [if_neg (not_not_intro manager), if_neg (by simp [len, body]), if_neg (by simp [opened])]

/-- The commit point of a REMOVE (R437): its latch is taken, the partition is SCRUBBING, and its epoch rises. -/
def removeBegun (s : State) (d : Desc) (p t : Nat) : State :=
  modPart (yieldBelfry (putDesc (atTime s t) { d with phase := .running, latched := true })) p fun x => { x with state := .scrubbing, epoch := (x.epoch + 1) % 2 ^ 32 }

theorem partitionRemove_of_live (hd : stationDesc s q i 0x0C 0x31 = some d) (manager : d.owner = .fm) (len : d.len = 0) (body : bodyOk d.cur [maskOf 3 0] = true) (hp : p = fld (d.w 2) 3 0)
    (live : (getPart s p).state = .open_ ∨ (getPart s p).state = .locked) {u : State} (hu : u = commandOn (removeBegun s d p t) (partDoms (removeBegun s d p t) p)) :
    exec (.partitionRemove q i t) s = .next (modPart (scrubLent (scrubNet (scrubFlush u p).1 p) p) p
      fun x => { x with scrub := some { ctx := q, index := i, start := (scrubLent (scrubNet (scrubFlush u p).1 p) p).time, flushed := (scrubFlush u p).2 } }) := by
  subst hu hp
  change Machine.execPartitionRemove q i t s = _
  rw [Machine.execPartitionRemove, hd]
  dsimp only
  rw [if_neg (not_not_intro manager), if_neg (by simp [len, body]), if_neg (by rcases live with h | h <;> simp [h])]
  rfl

end

/-- Settles O26, from the arm that each operation's checks leave. -/
theorem partitionOperations : Obligations.PartitionOperations := by
  refine ⟨?_, ?_, ?_⟩
  · intro q t p i rd d r s hd manager len hp body high absent active read clean legal untaken identity belfry keys settled enough
    subst hp
    exact partitionCreate_of_makeable hd manager len body high absent active read clean ⟨legal, untaken, identity, belfry, keys, settled, enough⟩
  · intro q i d s hd manager len body opened
    exact partitionLock_of_open hd manager len body opened
  · intro q t p i d s hd manager len body hp live
    exact ⟨_, _, rfl, rfl, partitionRemove_of_live hd manager len body hp live rfl⟩

/-! ### The end of a scrub (R438 to R440) -/

section
variable {s : State}

/-- The ports without the frames of a partition. -/
def framesDropped (s : State) (p : Nat) : State :=
  { s with ports := { s.ports with ports := s.ports.ports.map fun y => { y with links := y.links.map fun l => { l with queues := l.queues.map fun q => q.filter fun (f : Frame) => f.source != p } } } }

/-- No frame of a partition waits once its frames and its queue pairs have been dropped. -/
theorem framesLeft_dropQps_framesDropped (s : State) (p : Nat) : framesLeft (dropQps (framesDropped s p) p) p = false := by
  refine Bool.or_eq_false_iff.2 ⟨?_, ?_⟩
  · refine List.any_eq_false.2 fun y hy => ?_
    obtain ⟨y', -, rfl⟩ := List.mem_map.1 hy
    refine ne_true_of_eq_false (List.any_eq_false.2 fun l hl => ?_)
    obtain ⟨l', -, rfl⟩ := List.mem_map.1 hl
    refine ne_true_of_eq_false (List.any_eq_false.2 fun q hq => ?_)
    obtain ⟨q', -, rfl⟩ := List.mem_map.1 hq
    exact ne_true_of_eq_false (List.any_eq_false.2 fun f hf => by simpa using (List.mem_filter.1 hf).2)
  · refine List.any_eq_false.2 fun e he => ?_
    have other : e.2.part ≠ p := by simpa using (List.mem_filter.1 he).2
    simp [other]

theorem egressDrainEnd_of_due {p : Fin 16} {t : Nat} {x : Scrub} (scrub : (getPart s p.val).scrub = some x) (waits : x.drained = false)
    (due : framesLeft s p.val = false ∨ x.start + 2000000 ≤ t) :
    exec (.egressDrainEnd p t) s = .next (modPart (dropQps (framesDropped (atTime s t) p.val) p.val) p.val fun y => { y with scrub := some { x with drained := true } }) := by
  change Machine.execEgressDrainEnd p t s = _
  rw [Machine.execEgressDrainEnd, scrub]
  dsimp only
  rw [if_neg]
  · rfl
  · rintro (h | ⟨left, early⟩)
    · exact ne_true_of_eq_false waits h
    · exact due.elim (fun none_ => ne_true_of_eq_false none_ left) (Nat.not_le.2 early)

theorem getPart_modPart {p : Nat} (there : p < s.parts.length) (f : PartS → PartS) : getPart (modPart s p f) p = f (getPart s p) := getD_modify_self there f

theorem findDesc_with_parts (s : State) (xs : List PartS) (q : Nat) (i : BitVec 32) : findDesc { s with parts := xs } q i = findDesc s q i := rfl

theorem scrubComplete_of_drained {p : Fin 16} {t : Nat} {x : Scrub} (scrub : (getPart s p.val).scrub = some x) (drained : x.drained = true) (none_ : (s.flight.any fun d => d.owner == .part p) = false)
    (gone : findDesc (scrubSteps (atTime s t) p.val).1 x.ctx x.index = none) {u : State} (hu : u = (scrubSteps (atTime s t) p.val).1) :
    exec (.scrubComplete p t) s = .next (postFm { u with
      parts := u.parts.set p.val { epoch := (getPart u p.val).epoch, qpnFirst := (getPart u p.val).qpnFirst, qpnCount := (getPart u p.val).qpnCount, hostQos := (getPart u p.val).hostQos } }
      0xA 1 p.val (BitVec.ofNat 64 (getPart u p.val).epoch) 0#64) := by
  change Machine.execScrubComplete p t s = _
  rw [Machine.execScrubComplete, scrub]
  dsimp only
  rw [if_neg (by simp only [drained, none_]; decide)]
  rw [← hu] at gone
  rw [← hu, findDesc_with_parts, gone]

end

/-- Settles O27: what the drain's filters leave has no frame of the partition. -/
theorem scrubEnds : Obligations.ScrubEnds := by
  refine ⟨?_, ?_⟩
  · intro p t x s scrub waits due there
    have run := egressDrainEnd_of_due scrub waits due
    refine ⟨_, run, (ans_eq run (kept_execEgressDrainEnd rfl p t s (Kept.refl _ s))).same, framesLeft_dropQps_framesDropped (atTime s t) p.val, ?_⟩
    rw [getPart_modPart (s := dropQps (framesDropped (atTime s t) p.val) p.val) there]
    rfl
  · intro p t x s scrub drained none_ gone
    exact scrubComplete_of_drained scrub drained none_ gone rfl

/-! ### Belfry's messages (R419 to R427) -/

section
variable {s : State} {o a : Owner} {p : Fin 16} {m : MboxMsg}

theorem belfry_mboxReply (typ st det : Nat) (r0 r1 : Option Nat) (body : List Byte) : (mboxReply s o typ m st det r0 r1 body).belfry = s.belfry :=
  (kept_mboxReply (F := partSet [.free, .out]) rfl _ _ _ _ _ _ _ _ _ (Kept.refl _ s)).same .belfry rfl

/-- The gate lets a live partition's message through when Belfry has an identity (R427). -/
theorem belfryGate_of_live (live : (getPart s p.val).live = true) (identity : noIdentity s = false) : belfryGate s (.part p) = none := by
  rw [belfryGate, if_neg (by simp [live]), if_neg (ne_true_of_eq_false identity)]

theorem belfryRun_of_heard {typ : Nat} {fits : Bool} (heard : Heard s o typ m .any fits (.part p)) (live : (getPart s p.val).live = true) (identity : noIdentity s = false) (k : Fin 16 → State) :
    belfryRun s o typ m fits k = k p := by
  rw [belfryRun, mboxRun_of_heard heard]
  dsimp only
  rw [belfryGate_of_live live identity]

theorem certGet_of_heard (heard : Heard s o 0x10 m .any (m.body.length == 8) a) (gate : belfryGate s a = none) :
    exec (.certGet o m) s = .next (if ofLe (slice m.body 0 4) ≤ 1 ∧ ofLe (slice m.body 4 4) < Config.certLen (ofLe (slice m.body 0 4)) then
        mboxReply s o 0x10 m stDone 0 none none ((List.range (min 4000 (Config.certLen (ofLe (slice m.body 0 4)) - ofLe (slice m.body 4 4)))).map
          fun j => Config.certByte (ofLe (slice m.body 0 4)) (certFields s (ofLe (slice m.body 0 4))) (ofLe (slice m.body 4 4) + j))
      else mboxReply s o 0x10 m stMalformed 1) := by
  refine congrArg Host.Outcome.next ((mboxRun_of_heard heard _).trans ?_)
  dsimp only
  rw [gate]
  dsimp only
  by_cases h : ofLe (slice m.body 0 4) ≤ 1 ∧ ofLe (slice m.body 4 4) < Config.certLen (ofLe (slice m.body 0 4))
  · rw [if_neg (by omega), if_pos h]
  · rw [if_pos (by omega), if_neg h]

/-- The report that ATTEST keeps, and Belfry's state then (R423). -/
def newReport (s : State) (a : Owner) : Report := { id := s.belfry.nextReport, pair := Config.free s.free, part := a.part?, made := s.time }
def attested (s : State) (a : Owner) : State :=
  { (draw s).2 with belfry := { s.belfry with
      nextReport := (s.belfry.nextReport + 1) % 2 ^ 32, reports := (s.belfry.reports ++ [newReport s a]).drop ((s.belfry.reports ++ [newReport s a]).length - 64) } }

/-- The report that leaves, with its signature (R421). -/
def reportBody (s : State) (a : Owner) (m : MboxMsg) : List Byte := reportBytes (draw s).2 a.part? s.belfry.nextReport (Config.free s.free) m.body
def reportSigned (s : State) (a : Owner) (m : MboxMsg) : List Byte := reportBody s a m ++ (List.range 2420).map (Config.dsaSign (aliasSeed (draw s).2) (reportBody s a m))

theorem attest_of_heard {t : Nat} (heard : Heard (atTime s t) o 0x11 m .any (m.body.length == 32) a) (gate : belfryGate (atTime s t) a = none) :
    exec (.attest o m t) s = .next (mboxReply (attested (atTime s t) a) o 0x11 m stDone 0 none none (reportSigned (atTime s t) a m)) := by
  refine congrArg Host.Outcome.next ((mboxRun_of_heard heard _).trans ?_)
  dsimp only
  rw [gate]
  rfl

/-- The newest report is kept: only the oldest go (R423). -/
theorem newReport_mem_attested (s : State) (a : Owner) : newReport s a ∈ (attested s a).belfry.reports := by
  change newReport s a ∈ (s.belfry.reports ++ [newReport s a]).drop ((s.belfry.reports ++ [newReport s a]).length - 64)
  rw [List.drop_append_of_le_length (by simp)]
  exact List.mem_append_right _ (List.mem_singleton.2 rfl)

/-- The secret of a session, from the report's key pair and what the partition encapsulated to it (R424). -/
def sessionSecret (s : State) (p : Nat) (m : MboxMsg) (r : Report) : List Byte :=
  sha3 (ascii "LFN session" ++ Config.kemDecap r.pair (slice m.body 8 1088) ++ leBytes 4 (ofLe (slice m.body 0 4)) ++ leBytes 4 (getPart s p).epoch ++ leBytes 1 p)

/-- A partition's session is open and the report that opened it is spent (R424). -/
def sessionOpened (s : State) (p id : Nat) (secret : List Byte) : State :=
  { s with belfry := { s.belfry with reports := s.belfry.reports.filter fun r => r.id != id, sessions := assign s.belfry.sessions p { secret := secret } } }

theorem sessionOpen_of_report {t : Nat} (heard : Heard (atTime s t) o 0x12 m .any (m.body.length == 1096) (.part p)) (live : (getPart s p.val).live = true) (identity : noIdentity s = false)
    (zero : ofLe (slice m.body 4 4) = 0) (unopened : lookup? s.belfry.sessions p.val = none)
    (report : (s.belfry.reports.any fun r => r.id == ofLe (slice m.body 0 4) && r.part == some p.val && decide ((atTime s t).time < r.made + 10000000000)) = true) :
    ∃ r : Report, exec (.sessionOpen o m t) s = .next (mboxReply (sessionOpened (atTime s t) p.val (ofLe (slice m.body 0 4)) (sessionSecret s p.val m r)) o 0x12 m stDone 0 none none
      (sha3 (ascii "LFN confirm" ++ sessionSecret s p.val m r ++ leBytes 4 (ofLe (slice m.body 0 4))))) := by
  obtain ⟨r, found⟩ := Option.isSome_iff_exists.1 (List.find?_isSome.2 (List.any_eq_true.1 report))
  refine ⟨r, congrArg Host.Outcome.next ((belfryRun_of_heard heard live identity _).trans ?_)⟩
  rw [if_neg (not_not_intro zero), if_neg (by rw [show (atTime s t).belfry = s.belfry from rfl, unopened]; simp), show (atTime s t).belfry = s.belfry from rfl, found]
  rfl

/-- A key under the next handle, with the IV that installed it (R425). -/
def keyInstalled (s : State) (p : Nat) (x : Session) (m : MboxMsg) (key : List Byte) : State :=
  { s with belfry := { s.belfry with
      handles := assign s.belfry.handles s.belfry.nextHandle { part := p, secret := slice key 0 32, epoch := ofLe (slice m.body 0 4) }
      nextHandle := (s.belfry.nextHandle + 1) % 2 ^ 32
      sessions := assign s.belfry.sessions p { x with lastIv := some (ofBe (slice m.body 8 12)) } } }

theorem keyInstall_of_session {x : Session} (heard : Heard s o 0x13 m .any (m.body.length == 68) (.part p)) (live : (getPart s p.val).live = true) (identity : noIdentity s = false)
    (zero : ofLe (slice m.body 4 4) = 0) (session : lookup? s.belfry.sessions p.val = some x) (rising : ∀ v, x.lastIv = some v → v < ofBe (slice m.body 8 12))
    (room : (s.belfry.handles.filter fun h => h.2.part == p.val).length < 4096) :
    exec (.keyInstall o m) s = .next (match Config.gcmOpen (sha3 (ascii "LFN install" ++ x.secret)) (slice m.body 8 12) (slice m.body 0 8) (slice m.body 20 48) with
      | none => mboxReply s o 0x13 m stCheck 5
      | some key => mboxReply (keyInstalled s p.val x m key) o 0x13 m stDone 0 (some s.belfry.nextHandle)) := by
  refine congrArg Host.Outcome.next ((belfryRun_of_heard heard live identity _).trans ?_)
  dsimp only
  rw [if_neg (not_not_intro zero), session]
  dsimp only
  cases Config.gcmOpen (sha3 (ascii "LFN install" ++ x.secret)) (slice m.body 8 12) (slice m.body 0 8) (slice m.body 20 48) with
  | none => rfl
  | some key =>
    dsimp only
    refine (if_neg ?_).trans (if_neg (Nat.not_le.2 room))
    cases last : x.lastIv with
    | none => simp
    | some v => simpa using rising v last

theorem keyRemove_of_own {h : KeyHandle} (heard : Heard s o 0x14 m .any (m.body.length == 4) (.part p)) (live : (getPart s p.val).live = true) (identity : noIdentity s = false)
    (held : lookup? s.belfry.handles (ofLe (slice m.body 0 4)) = some h) (own : h.part = p.val) :
    exec (.keyRemove o m) s = .next (mboxReply { s with belfry := { s.belfry with handles := erase s.belfry.handles (ofLe (slice m.body 0 4)) } } o 0x14 m stDone 0) := by
  refine congrArg Host.Outcome.next ((belfryRun_of_heard heard live identity _).trans ?_)
  dsimp only
  rw [held]
  exact if_neg (not_not_intro own)

theorem encapKeyExpire_of_old {n t : Nat} {r : Report} (found : (s.belfry.reports.find? fun r => r.id == n) = some r) (old : r.made + 10000000000 ≤ t) :
    exec (.encapKeyExpire n t) s = .next { atTime s t with belfry := { s.belfry with reports := s.belfry.reports.filter fun x => x.id != n } } := by
  change Machine.execEncapKeyExpire n t s = _
  rw [Machine.execEncapKeyExpire, found]
  exact if_neg (Nat.not_lt.2 old)

end

/-- Settles O28, from what each message does behind the gate. -/
theorem belfryMessages : Obligations.BelfryMessages := by
  refine ⟨?_, ?_, ?_, ?_, ?_, ?_, ?_⟩
  · intro o a m s heard gate
    exact certGet_of_heard heard gate
  · intro o a m t s heard gate
    have run := attest_of_heard heard gate
    refine ⟨_, run, (ans_eq run (kept_execAttest rfl o m t s (Kept.refl _ s))).same, ?_, Config.free s.free, ?_⟩
    · rw [belfry_mboxReply]
      rfl
    · rw [belfry_mboxReply]
      exact newReport_mem_attested (atTime s t) a
  · intro o p m t s heard live identity zero unopened report
    obtain ⟨r, run⟩ := sessionOpen_of_report heard live identity zero unopened report
    refine ⟨_, { secret := sessionSecret s p.val m r }, run, (ans_eq run (kept_execSessionOpen rfl o m t s (Kept.refl _ s))).same, ?_, ?_⟩
    · rw [belfry_mboxReply]
      exact (lookup?_assign _ _ _ _).trans (if_pos rfl)
    · rw [belfry_mboxReply]
      exact List.all_eq_true.2 fun r hr => (List.mem_filter.1 hr).2
  · intro o p m x s heard live identity zero session rising room
    have run := keyInstall_of_session heard live identity zero session rising room
    refine ⟨_, run, (ans_eq run (kept_execKeyInstall rfl o m s (Kept.refl _ s))).same, ?_⟩
    cases Config.gcmOpen (sha3 (ascii "LFN install" ++ x.secret)) (slice m.body 8 12) (slice m.body 0 8) (slice m.body 20 48) with
    | none => exact congrArg BelfS.handles (belfry_mboxReply _ _ _ _ _ _)
    | some key => exact congrArg BelfS.handles (belfry_mboxReply _ _ _ _ _ _)
  · intro o p m h s heard live identity held own
    have run := keyRemove_of_own heard live identity held own
    exact ⟨_, run, (ans_eq run (kept_execKeyRemove rfl o m s (Kept.refl _ s))).same, congrArg BelfS.handles (belfry_mboxReply _ _ _ _ _ _)⟩
  · intro n t r s found old
    exact encapKeyExpire_of_old found old
  · intro s
    rfl

end Sys2Proof.Proofs
end

section
/-!
Discovery, usable links, shapers, gate lists and the tables of the ports. Each operation has one arm for the case that the statement names; the clearing of DOWN goes link by link, and a link that is not down stays so.
-/
namespace Sys2Proof.Proofs

open Sys2Proof.Machine (State exec)
open Sys2Proof.Laws

section
variable {s : State} {p k t : Nat}

/-- A change of an entry is known by what it makes of that entry. -/
theorem modify_congr {α : Type} {l : List α} {i : Nat} {f g : α → α} (d : α) (h : f (l.getD i d) = g (l.getD i d)) : l.modify i f = l.modify i g := by
  rw [@List.modify_eq_set _ ⟨d⟩ f, @List.modify_eq_set _ ⟨d⟩ g]
  rw [List.getD_eq_getElem?_getD] at h
  exact congrArg (l.set i) h

theorem modLink_congr {f g : Link → Link} (h : f (getLink s p k) = g (getLink s p k)) : modLink s p k f = modLink s p k g :=
  congrArg (fun xs => { s with ports := { s.ports with ports := xs } }) (modify_congr {} (congrArg (fun ls => { getPort s p with links := ls }) (modify_congr {} h)))

/-! ### Links that come and go (R331, R333, R340) -/

theorem phyUp_of_down (there : linkExists s p k = true) (on : (getDom s (142 + p)).present = .on) (down : (getLink s p k).phyUp = false) :
    exec (.phyUp p k t) s = .next (settleLink (modLink (atTime s t) p k fun (l : Link) => { l with phyUp := true, lldpSent := 0, lldpNext := (atTime s t).time }) p k) :=
  if_neg (by simp [there, on, down])

/-- A link whose PHY has gone down has heard nothing and is not paused (R333). -/
def phyLost (l : Link) : Link := { l with phyUp := false, seen := 0#64, ttlEnd := none, pause := l.pause.map fun (x : PauseS) => { x with paused := false } }

theorem phyDown_of_lone (up : (getLink s p k).phyUp = true) (lone : (getLink s p k).adjacent = false) :
    exec (.phyDown p k t) s = .next (loseLink (atTime s t) (modLink (atTime s t) p k phyLost) p k) := by
  change Machine.execPhyDown p k t s = _
  rw [Machine.execPhyDown, if_neg (by simp [up])]
  dsimp only
  rw [if_neg (ne_true_of_eq_false lone), if_neg (ne_true_of_eq_false lone)]
  rfl

theorem phyDown_of_adjacent (up : (getLink s p k).phyUp = true) (adjacent : (getLink s p k).adjacent = true) :
    exec (.phyDown p k t) s = .next (loseLink (atTime s t) (adjacencyEvent (modLink (failAdjacency (atTime s t) p k) p k phyLost) p k) p k) := by
  change Machine.execPhyDown p k t s = _
  rw [Machine.execPhyDown, if_neg (by simp [up])]
  dsimp only
  rw [if_pos adjacent, if_pos adjacent]
  rfl

theorem linkReturn_of_sound {x : Nat} (returning : (getLink s p k).returning = some x) (sound : (getLink s p k).sound = true) (due : x + 1000000000 ≤ t) :
    exec (.linkReturn p k t) s = .next (modLink (atTime s t) p k fun (l : Link) => { l with usable := true, returning := none }) := by
  change Machine.execLinkReturn p k t s = _
  rw [Machine.execLinkReturn, returning]
  exact if_pos ⟨sound, due⟩

/-! ### Discovery frames (R331 to R335) -/

/-- What a link's discovery frame says (R332). -/
def ownTlv (s : State) (p k : Nat) : LldpTlv :=
  { identity := s.boot.fuses.identity, nodeValid := s.ports.nodeValid, nodeId := s.ports.nodeId, plane := p, link := k, mode := (getPort s p).mode, version := 1, seen := (getLink s p k).seen
    mac := linkMac s p k, ttl := (4 * fld s.ports.net 23 16 + 9) / 10 }

theorem lldpSend_of_due (live : linkLive s p k = true) (due : (getLink s p k).lldpNext ≤ t) (served : procAway s (portProc s p) = false) :
    exec (.lldpSend p k t) s = .next (emit (modLink (atTime s t) p k fun (l : Link) => { l with lldpSent := l.lldpSent + 1, lldpNext := (atTime s t).time +
      (if (getLink s p k).lldpSent < 4 then 100000000 else fld s.ports.net 23 16 * 100000000) }) (.lldp p k (ownTlv s p k) (lldpFrame (ownTlv s p k)))) := by
  change Machine.execLldpSend p k t s = _
  rw [Machine.execLldpSend]
  dsimp only
  rw [if_neg (by simp [live, served, due])]
  exact congrArg (fun u => Host.Outcome.next (emit u _)) (modLink_congr rfl)

/-- A link that has heard a record which sees this node (R333). -/
def heardOnLink (v : LldpTlv) (now : Nat) (l : Link) : Link :=
  { l with adjacent := true, identity := v.identity, mac := v.mac, nodeValid := v.nodeValid, nodeId := v.nodeId, tlvMode := v.mode, tlvSeen := v.seen, seen := v.identity, ttlEnd := some (now + 1000000000 * v.ttl) }

theorem lldpReceive_of_seen {v : LldpTlv} (live : linkLive s p k = true) (served : procAway s (portProc s p) = false) (version : v.version = 1) (plane : v.plane = p) (mode : v.mode = (getPort s p).mode)
    (unclashed : (v.nodeValid && s.ports.nodeValid && v.nodeId == s.ports.nodeId && v.identity != s.boot.fuses.identity) = false) (lone : (getLink s p k).adjacent = false)
    (seen : v.seen = s.boot.fuses.identity) (ttl : 0 < v.ttl) :
    exec (.lldpReceive p k v t) s = .next (closeDead (atTime s t) (settleLink (adjacencyEvent (modLink (atTime s t) p k (heardOnLink v (atTime s t).time)) p k) p k)) := by
  change Machine.execLldpReceive p k v t s = _
  unfold Machine.execLldpReceive
  extract_lets l s1 own a1 a2 a3 clash src b1 adjacent b2 b3 changed b4
  rw [if_neg (by simp [live, served]), if_neg (by rw [version, plane, mode]; exact fun h => h.elim (· rfl) (fun h => h.elim (· rfl) (· rfl)))]
  have sees : adjacent = true := by
    change (v.seen == s.boot.fuses.identity && decide (0 < v.ttl)) = true
    rw [seen, decide_eq_true ttl, beq_self_eq_true]
    rfl
  have same1 : b1 = s1 := if_neg (ne_true_of_eq_false unclashed)
  have same2 : b2 = b1 := if_neg fun h => ne_true_of_eq_false lone h.1
  have heard : b3 = modLink s1 p k (heardOnLink v s1.time) := by
    change modLink b2 p k _ = _
    rw [same2, same1, sees, if_neg (Nat.pos_iff_ne_zero.1 ttl), if_neg (Nat.pos_iff_ne_zero.1 ttl)]
    rfl
  have tells : b4 = adjacencyEvent b3 p k := by
    refine if_pos ?_
    change ((getLink s p k).adjacent != adjacent || _ || _ || _ || _) = true
    rw [lone, sees]
    rfl
  rw [tells, heard]

theorem lldpReceive_of_other {v : LldpTlv} (live : linkLive s p k = true) (served : procAway s (portProc s p) = false) (other : v.version ≠ 1 ∨ v.plane ≠ p ∨ v.mode ≠ (getPort s p).mode)
    (lone : (getLink s p k).adjacent = false) :
    exec (.lldpReceive p k v t) s = .next (closeDead (atTime s t)
      (settleLink (postFm (modLink (atTime s t) p k fun (l : Link) => { l with tlvMode := v.mode, tlvSeen := 0#64 }) 7 2 (linkSubject p k) v.identity 0#64) p k)) := by
  change Machine.execLldpReceive p k v t s = _
  unfold Machine.execLldpReceive
  extract_lets l s1 own a1 a2 a3 clash src b1 adjacent b2 b3 changed b4
  rw [if_neg (by simp [live, served]), show getPort s1 p = getPort s p from rfl, if_pos other]
  have same : a1 = s1 := if_neg (ne_true_of_eq_false lone)
  change Host.Outcome.next (closeDead s1 (settleLink (postFm (modLink a1 p k _) 7 2 _ _ _) p k)) = _
  rw [same]

/-- A link whose heard record has ended. -/
def recordEnded (l : Link) : Link := { l with seen := 0#64, ttlEnd := none }

theorem lldpTtlExpire_of_lone {e : Nat} (heard : (getLink s p k).ttlEnd = some e) (due : e ≤ t) (served : procAway s (portProc s p) = false) (lone : (getLink s p k).adjacent = false) :
    exec (.lldpTtlExpire p k t) s = .next (closeDead (atTime s t) (settleLink (modLink (atTime s t) p k recordEnded) p k)) := by
  change Machine.execLldpTtlExpire p k t s = _
  rw [Machine.execLldpTtlExpire, heard]
  dsimp only
  rw [if_neg (by simp [due, served]), if_neg (ne_true_of_eq_false lone), if_neg (ne_true_of_eq_false lone)]
  rfl

theorem lldpTtlExpire_of_adjacent {e : Nat} (heard : (getLink s p k).ttlEnd = some e) (due : e ≤ t) (served : procAway s (portProc s p) = false) (adjacent : (getLink s p k).adjacent = true) :
    exec (.lldpTtlExpire p k t) s = .next (closeDead (atTime s t) (settleLink (adjacencyEvent (modLink (failAdjacency (atTime s t) p k) p k recordEnded) p k) p k)) := by
  change Machine.execLldpTtlExpire p k t s = _
  rw [Machine.execLldpTtlExpire, heard]
  dsimp only
  rw [if_neg (by simp [due, served]), if_pos adjacent, if_pos adjacent]
  rfl

/-! ### LINK_EN and DOWN (R337, R569) -/

theorem portLinkEnable_of_off (port : p < 8) (link : k < 4) (off : (getLink s p k).enabled = false) :
    exec (.portLinkEnable p k) s = .next (settleLink (modLink s p k fun (l : Link) => { l with enabled := true, enabledId := l.identity, down := false, failures := [] }) p k) :=
  if_neg (by simp [off]; omega)

theorem portLinkDisable_of_on (on : (getLink s p k).enabled = true) :
    exec (.portLinkDisable p k t) s = .next (loseLink (atTime s t) (modLink (atTime s t) p k fun (l : Link) => { l with enabled := false }) p k) :=
  if_neg (by simp [on])

theorem getPort_modPort (there : p < s.ports.ports.length) (f : Port → Port) : getPort (modPort s p f) p = f (getPort s p) := getD_modify_self there f

/-- Entries of a list with one entry changed. -/
theorem getD_modify {α : Type} (l : List α) (i j : Nat) (f : α → α) (d : α) : (l.modify i f).getD j d = if i = j ∧ j < l.length then f (l.getD j d) else l.getD j d := by
  by_cases ne : i = j
  · subst ne
    by_cases there : i < l.length
    · rw [getD_modify_self there, if_pos ⟨rfl, there⟩]
    · rw [List.modify_eq_self (Nat.le_of_not_lt there), if_neg fun h => there h.2]
  · rw [getD_modify_of_ne ne, if_neg fun h => ne h.1]

/-- A link after a change of a link of its port. -/
theorem getLink_modLink (s : State) (p k : Nat) (f : Link → Link) (j : Nat) :
    getLink (modLink s p k f) p j = if p < s.ports.ports.length ∧ k = j ∧ j < (getPort s p).links.length then f (getLink s p j) else getLink s p j := by
  by_cases port : p < s.ports.ports.length
  · have links : (getPort (modLink s p k f) p).links = (getPort s p).links.modify k f := congrArg Port.links (getPort_modPort port _)
    rw [getLink, links, getD_modify]
    simp only [port, true_and]
    rfl
  · have same : modLink s p k f = s := by
      rw [modLink, modPort, List.modify_eq_self (Nat.le_of_not_lt port)]
    rw [same, if_neg fun h => port h.1]

theorem down_modLink (keeps : ∀ l : Link, (f l).down = l.down) (j : Nat) : (getLink (modLink s p k f) p j).down = (getLink s p j).down := by
  rw [getLink_modLink]
  split
  · exact keeps _
  · rfl

theorem down_settleLink (s : State) (p k j : Nat) : (getLink (settleLink s p k) p j).down = (getLink s p j).down := by
  refine down_modLink (fun l => ?_) j
  split
  · split
    · rfl
    · split <;> rfl
  · rfl

/-- One link is enabled again after it was marked down (R340). -/
def downCleared (p : Nat) (s : State) (k : Nat) : State := settleLink (modLink s p k fun (l : Link) => { l with down := false, failures := [], enabledId := l.identity }) p k

theorem down_downCleared (s : State) (p k j : Nat) (h : (getLink s p j).down = false) : (getLink (downCleared p s k) p j).down = false := by
  rw [downCleared, down_settleLink, getLink_modLink]
  split
  · rfl
  · exact h

/-- A link that is not there reads as one that is not down. -/
theorem down_downCleared_self (s : State) (p k : Nat) : (getLink (downCleared p s k) p k).down = false := by
  rw [downCleared, down_settleLink, getLink_modLink]
  split
  · rfl
  · rename_i absent
    rw [getLink, getPort]
    by_cases port : p < s.ports.ports.length
    · have link : (getPort s p).links.length ≤ k := Nat.le_of_not_lt fun h => absent ⟨port, rfl, h⟩
      rw [getPort] at link
      rw [List.getD_eq_default _ _ link]
    · rw [List.getD_eq_default s.ports.ports _ (Nat.le_of_not_lt port)]
      rcases k with _ | _ | _ | _ | k <;> rfl

/-- PORT_DOWN_CLEAR over the links of its mask that are down (R569). -/
def downsCleared (s : State) (p m : Nat) : State := ((List.range 4).filter fun k => (m >>> k) % 2 == 1 && (getLink s p k).down).foldl (downCleared p) s

theorem time_downsCleared (s : State) (p m : Nat) : (downsCleared s p m).time = s.time :=
  foldl_kept (P := fun u : State => u.time = s.time) rfl fun _ _ h => h

/-- A link whose turn comes is not down after it, and no later turn marks it down. -/
theorem down_downsCleared_of_mem {ks : List Nat} (mem : k ∈ ks) : (getLink (ks.foldl (downCleared p) s) p k).down = false := by
  induction ks generalizing s with
  | nil => simp at mem
  | cons j js ih =>
    rcases List.mem_cons.1 mem with rfl | mem
    · rw [List.foldl_cons]
      exact foldl_kept (P := fun u : State => (getLink u p k).down = false) (down_downCleared_self s p k) fun u i h => down_downCleared u p i k h
    · exact ih mem

theorem down_downsCleared (s : State) (p m k : Nat) (four : k < 4) (bit_ : m.testBit k = true) : (getLink (downsCleared s p m) p k).down = false := by
  by_cases down : (getLink s p k).down = true
  · refine down_downsCleared_of_mem (List.mem_filter.2 ⟨List.mem_range.2 four, ?_⟩)
    have odd : (m >>> k) % 2 = 1 := by
      rw [Nat.shiftRight_eq_div_pow]
      simpa [Nat.testBit_eq_decide_div_mod_eq] using bit_
    rw [odd, down]
    rfl
  · exact foldl_kept (P := fun u : State => (getLink u p k).down = false) (Bool.not_eq_true _ ▸ down) fun u i h => down_downCleared u p i k h

end

/-- Settles O31. The clearing of DOWN sets each link of the mask that is down, and leaves the others as they are (`down_downCleared`). -/
theorem discoveryAndLinks : Obligations.DiscoveryAndLinks := by
  refine ⟨?_, ?_, ?_, ?_, ?_, ?_, ?_, ?_, ?_, ?_, ?_, ?_⟩
  · intro p k t s there on down
    exact phyUp_of_down there on down
  · intro p k t s up lone
    exact phyDown_of_lone up lone
  · intro p k t s up adjacent
    exact phyDown_of_adjacent up adjacent
  · intro p k t s live due served
    exact ⟨ownTlv s p k, rfl, rfl, rfl, rfl, rfl, rfl, rfl, rfl, rfl, rfl, lldpSend_of_due live due served⟩
  · intro p k t v s live served version plane mode unclashed lone seen ttl
    exact lldpReceive_of_seen live served version plane mode unclashed lone seen ttl
  · intro p k t v s live served other lone
    exact lldpReceive_of_other live served other lone
  · intro p k t e s heard due served lone
    exact lldpTtlExpire_of_lone heard due served lone
  · intro p k t e s heard due served adjacent
    exact lldpTtlExpire_of_adjacent heard due served adjacent
  · intro p k t x s returning sound due
    exact linkReturn_of_sound returning sound due
  · intro p k s port link off
    exact portLinkEnable_of_off port link off
  · intro p k t s on
    exact portLinkDisable_of_on on
  · intro p m t s
    have run : exec (.portDownClear p m t) s = .next (downsCleared (atTime s t) p m) := rfl
    exact ⟨_, run, (ans_eq run (kept_execPortDownClear rfl p m t s (Kept.refl _ s))).same, time_downsCleared _ p m, fun k four bit_ _ _ => down_downsCleared (atTime s t) p m k four bit_⟩

/-! ### Shapers and gate lists (R342 to R346, R570) -/

section
variable {s : State} {p t : Nat}

theorem shaperRefill_of_due (multiple : t % 1000 = 0) (later : s.ports.lastRefill < t) (now : s.time ≤ t) (on : s.timeOn = true) :
    exec (.shaperRefill t) s = .next { atTime s t with ports := { s.ports with lastRefill := t, ports := s.ports.ports.map fun (p : Port) => { p with shapersInForce := p.shapers, links := p.links.map fun (l : Link) => { l with tokens := l.tokens.mapIdx fun k n => refillTokens (p.shapersInForce.getD k 0#64) (p.shapers.getD k 0#64) n } } } } := by
  change Machine.execShaperRefill t s = _
  rw [Machine.execShaperRefill, if_neg (by simp [multiple, later, now, on])]
  rfl

/-- The list of a port that GATE_ARM leaves pending or INVALID (R346). -/
def gateArmed (x : Port) (c now : Nat) : Port :=
  if gateListOk x.pending c then { x with countM1 := c, pendState := .armed, due := if x.takeover < now then (now / 1000 + 1) * 1000 else x.takeover } else { x with countM1 := c, pendState := .invalid }

theorem gateArm_of_port {c : Nat} (port : p < 8) (count : c < 64) : exec (.gateArm p c t) s = .next (modPort (atTime s t) p fun x => gateArmed x c (atTime s t).time) := by
  change Machine.execGateArm p c t s = _
  rw [Machine.execGateArm, if_neg (Nat.not_le.2 port), Nat.mod_eq_of_lt count]
  rfl

theorem getPort_gateArm {c : Nat} (there : p < s.ports.ports.length) : getPort (modPort (atTime s t) p fun x => gateArmed x c (atTime s t).time) p = gateArmed (getPort s p) c (atTime s t).time :=
  getPort_modPort (s := atTime s t) there _

theorem gateClear_of_port (port : p < 8) (c : Nat) :
    exec (.gateClear p c) s = .next (modPort s p fun (x : Port) => { x with active := [], entry := 0, countM1 := if x.pendState = .armed then x.countM1 else c % 64 }) :=
  if_neg (Nat.not_le.2 port)

/-! ### The node ID, the forwarding table and the foreign table (R563, R571) -/

/-- The words of a foreign entry's E0 that are kept. -/
abbrev foreignWord (v : Word) : Word := v &&& (maskOf 63 63 ||| maskOf 59 48 ||| maskOf 1 0)

theorem foreignEntryWrite_of_known {e : Nat} {v : Word} {x : Foreign} (there : e < 64) (known : lookup? s.ports.foreign e = some x) :
    exec (.foreignEntryWrite e v) s = .next (closeDead s { s with ports := { s.ports with foreign := assign s.ports.foreign e { x with
      entry := foreignWord v
      live := if bit (foreignWord v) 63 then some (x.addrHi.toNat * 2 ^ 64 + x.addrLo.toNat, fld (foreignWord v) 59 48, fld (foreignWord v) 1 0, fld x.mac 47 0) else none } } }) := by
  change Machine.execForeignEntryWrite e v s = _
  rw [Machine.execForeignEntryWrite, if_neg (Nat.not_le.2 there), known]
  rfl

theorem nodeIdWrite_of_valid (v : Word) (valid : s.ports.nodeValid = true) : exec (.nodeIdWrite v) s = .next (closeDead s { s with ports := { s.ports with nodeValid := bit v 15 } }) := by
  change Machine.execNodeIdWrite v s = _
  rw [Machine.execNodeIdWrite, if_pos valid]

theorem nodeIdWrite_of_invalid (v : Word) (invalid : s.ports.nodeValid = false) :
    exec (.nodeIdWrite v) s = .next (closeDead s { s with ports := { s.ports with nodeValid := bit v 15, nodeId := fld v 11 0 } }) := by
  change Machine.execNodeIdWrite v s = _
  rw [Machine.execNodeIdWrite, if_neg (ne_true_of_eq_false invalid)]

end

/-- Settles O32, arm by arm. -/
theorem shapersGatesTables : Obligations.ShapersGatesTables := by
  refine ⟨?_, ?_, ?_, ?_, ?_, ?_, ?_, ?_, ?_, ?_, ?_⟩
  · intro t s multiple later now on
    exact shaperRefill_of_due multiple later now on
  · intro p t s active due
    exact if_neg (by simpa [active] using due)
  · intro p t s armed due
    exact if_neg (by simpa [armed] using due)
  · intro p c t s port count legal there
    have run := gateArm_of_port (s := s) (t := t) port count
    exact ⟨_, run, (ans_eq run (kept_execGateArm rfl p c t s (Kept.refl _ s))).same, (getPort_gateArm there).trans (if_pos legal)⟩
  · intro p c t s port count illegal there
    have run := gateArm_of_port (s := s) (t := t) port count
    exact ⟨_, run, (ans_eq run (kept_execGateArm rfl p c t s (Kept.refl _ s))).same, (getPort_gateArm there).trans (if_neg (ne_true_of_eq_false illegal))⟩
  · intro p c s port
    exact gateClear_of_port port c
  · intro v s valid
    exact nodeIdWrite_of_valid v valid
  · intro v s invalid
    exact nodeIdWrite_of_invalid v invalid
  · intro n v s there
    exact if_neg (Nat.not_le.2 there)
  · intro e v x s there known on
    have run := foreignEntryWrite_of_known (v := v) there known
    rw [if_pos on] at run
    exact run
  · intro e v x s there known off
    have run := foreignEntryWrite_of_known (v := v) there known
    rw [if_neg (ne_true_of_eq_false off)] at run
    exact run

end Sys2Proof.Proofs
end

section
/-!
The CXL attachment: configuration space and decoders, windows, lending and taking back, published regions, and the standard mailbox.
-/
namespace Sys2Proof.Proofs

open Sys2Proof.Machine (State exec)
open Sys2Proof.Laws

/-! ### Configuration space (R354, R532) -/

section
variable {s : State}

/-- A function answers its configuration requests: the link is up, the function is presented, the start has released the processors, and nothing scrubs it. -/
structure ConfigUp (s : State) (o : Owner) : Prop where
  up : s.cxl.linkUp = true
  shown : presented s o = true
  ready : [StartPhase.processorsUp, .hbmTrained, .cleared, .active].contains s.boot.phase = true
  quiet : scrubbing s o = false

theorem configRequest_of_write {p : Fin 16} {reg : Nat} (h : ConfigUp s (.part p)) (plain : reg ≠ Config.msixDword) (v : Word) :
    exec (.configRequest (.part p) reg (some v)) s = .next (emit (writeDoe (modLd s p.val fun (l : LdS) => { l with config := assign l.config reg (v &&& maskOf 31 0) }) p.val reg
      (v &&& maskOf 31 0).toNat) (.config (.part p) reg (some 0#64))) := by
  obtain ⟨up, shown, ready, quiet⟩ := h
  change Machine.execConfigRequest (.part p) reg (some v) s = _
  rw [Machine.execConfigRequest]
  dsimp only
  rw [if_neg (by simp [up, shown]), if_neg (by rw [ready, quiet]; decide), if_neg plain]

theorem configRequest_of_identity {o : Owner} (h : ConfigUp s o) :
    exec (.configRequest o 0 none) s = .next (emit s (.config o 0 (some (BitVec.ofNat 64 ((if s.cxl.direct then 0x4C48 else if o = .fm then 0x4C47 else 0x4C46) * 65536 + 0x1E5F))))) := by
  obtain ⟨up, shown, ready, quiet⟩ := h
  change Machine.execConfigRequest o 0 none s = _
  unfold Machine.execConfigRequest
  extract_lets released
  have ready' : released = true := ready
  rw [if_neg (by simp [up, shown]), if_neg (by rw [ready', quiet]; decide)]
  rfl

theorem configRequest_of_starting {o : Owner} (up : s.cxl.linkUp = true) (shown : presented s o = true)
    (starts : [StartPhase.processorsUp, .hbmTrained, .cleared, .active].contains s.boot.phase = false) (reg : Nat) (wr : Option Word) :
    exec (.configRequest o reg wr) s = .next (emit s (.config o reg none)) := by
  change Machine.execConfigRequest o reg wr s = _
  unfold Machine.execConfigRequest
  extract_lets released
  have starts' : released = false := starts
  rw [if_neg (by simp [up, shown]), if_pos (by rw [starts']; exact .inl rfl)]

/-! ### HDM decoders (R358) -/

/-- Where the DPA range of a decoder begins that follows the committed ones before it. -/
def decoderStart (l : LdS) (d : Nat) : Nat := ((l.decoders.take d).filter (·.committed)).foldl (fun a x => max a (x.dpaBase + x.size / max 1 x.ways)) 0

/-- Whether a range meets that of another committed decoder, in the host's addresses or in the DPA. -/
def decoderClash (l : LdS) (d base size dpa len : Nat) : Bool :=
  ((l.decoders.mapIdx fun k x => (k, x)).filter fun x => x.2.committed && x.1 != d).any fun (x : Nat × HdmDecoder) =>
    decide (base < x.2.base + x.2.size ∧ x.2.base < base + size) || decide (dpa < x.2.dpaBase + x.2.size / max 1 x.2.ways ∧ x.2.dpaBase < dpa + len)

/-- What R358 asks of a decoder. -/
def decoderLegal (l : LdS) (d base size skip ways gran : Nat) : Bool :=
  [1, 2, 4, 8].contains ways && [256, 512, 1024, 2048, 4096, 8192, 16384].contains gran && decide (size % (2 ^ 28 * max 1 ways) = 0)
    && decide (decoderStart l d + skip + size / max 1 ways ≤ 2 ^ 39) && !decoderClash l d base size (decoderStart l d + skip) (size / max 1 ways)

/-- The decoder that a COMMIT leaves. -/
def decoderCommitted (l : LdS) (d base size skip ways gran : Nat) : HdmDecoder :=
  { base := base, size := size, skip := skip, ways := ways, gran := gran, dpaBase := decoderStart l d + skip, committed := decoderLegal l d base size skip ways gran
    errorNotCommitted := !decoderLegal l d base size skip ways gran }

theorem hdmDecoderCommit_of_up {ld : Fin 16} {d : Nat} (there : d < 8) (up : memUp s ld.val = true) (quiet : (getPart s ld.val).state ≠ .scrubbing) (base size skip ways gran : Nat) :
    exec (.hdmDecoderCommit ld d base size skip ways gran) s =
      .next (modLd s ld.val fun l => { l with decoders := l.decoders.set d (decoderCommitted (getLd s ld.val) d base size skip ways gran) }) := by
  change Machine.execHdmDecoderCommit ld d base size skip ways gran s = _
  unfold Machine.execHdmDecoderCommit
  extract_lets l
  rw [if_neg (by simp [up, quiet]; omega)]
  rfl

theorem getLd_modLd {p : Nat} (there : p < s.cxl.lds.length) (f : LdS → LdS) : getLd (modLd s p f) p = f (getLd s p) := getD_modify_self there f

theorem decoders_of_committed {ld : Fin 16} {d : Nat} (there : d < 8) (eight : (getLd s ld.val).decoders.length = 8) (known : ld.val < s.cxl.lds.length) (x : HdmDecoder) :
    (getLd (modLd s ld.val fun l => { l with decoders := l.decoders.set d x }) ld.val).decoders[d]? = some x := by
  rw [getLd_modLd known]
  exact List.getElem?_set_self (by omega)

theorem decoderStart_of_none {l : LdS} (first : (l.decoders.all fun x => !x.committed) = true) (d : Nat) : decoderStart l d = 0 := by
  have none_ : (l.decoders.take d).filter (·.committed) = [] := by
    refine List.filter_eq_nil_iff.2 fun x hx => ?_
    simpa using List.all_eq_true.1 first x (List.mem_of_mem_take hx)
  rw [decoderStart, none_]
  rfl

theorem decoderClash_of_none {l : LdS} (first : (l.decoders.all fun x => !x.committed) = true) (d base size dpa len : Nat) : decoderClash l d base size dpa len = false := by
  have none_ : ((l.decoders.mapIdx fun k x => (k, x)).filter fun x => x.2.committed && x.1 != d) = [] := by
    refine List.filter_eq_nil_iff.2 fun x hx => ?_
    obtain ⟨k, hk, rfl⟩ := List.mem_mapIdx.1 hx
    have uncommitted := List.all_eq_true.1 first _ (List.getElem_mem hk)
    rw [Bool.not_eq_true'] at uncommitted
    simp [uncommitted]
  rw [decoderClash, none_]
  rfl

theorem decoderLegal_of_first {l : LdS} {d base size skip ways gran : Nat} (first : (l.decoders.all fun x => !x.committed) = true) (hways : [1, 2, 4, 8].contains ways = true)
    (hgran : [256, 512, 1024, 2048, 4096, 8192, 16384].contains gran = true) (whole : size % (2 ^ 28 * ways) = 0) (fits : skip + size / ways ≤ 2 ^ 39) : decoderLegal l d base size skip ways gran = true := by
  have least : max 1 ways = ways := by
    refine Nat.max_eq_right ?_
    rcases (by simpa using hways : ways = 1 ∨ ways = 2 ∨ ways = 4 ∨ ways = 8) with rfl | rfl | rfl | rfl <;> decide
  rw [decoderLegal, decoderStart_of_none first, decoderClash_of_none first, least, hways, hgran, decide_eq_true whole, Nat.zero_add, decide_eq_true fits]
  rfl

theorem decoderLegal_of_ways {l : LdS} {d base size skip ways gran : Nat} (bad : [1, 2, 4, 8].contains ways = false) : decoderLegal l d base size skip ways gran = false := by
  rw [decoderLegal, bad]
  rfl

/-! ### Windows (R357, R562) -/

theorem windowModeWrite_of_change {p : Fin 16} {slot mode t e : Nat} (live : (getPart s p.val).live = true) (quiet : (getPart s p.val).state ≠ .scrubbing) (up : s.cxl.linkUp = true)
    (own : ownExt s p.val slot = some e) (unpaged : ∀ n, (getExt s e).use ≠ .page n) (uncontrolled : (getExt s e).use ≠ .control) (plain : (getPart s p.val).confidential = false) (legal : mode < 3)
    (new : winModeOf mode ≠ (lookup? (getLd s p.val).modes slot).getD .none) :
    exec (.windowModeWrite p slot mode t) s = .next (cdatRebuild (modLd (atTime s t) p.val fun (l : LdS) => { l with
      modes := if mode = 0 then erase l.modes slot else assign l.modes slot (winModeOf mode)
      draining := if mode < ((lookup? (getLd s p.val).modes slot).getD .none).code then assign l.draining slot (atTime s t).time else l.draining }) p.val slot 1) := by
  change Machine.execWindowModeWrite p slot mode t s = _
  unfold Machine.execWindowModeWrite
  extract_lets x s1 ignored old lower s2
  rw [if_neg (by simp only [x, live, quiet, up]; decide), show ownExt s1 p.val slot = some e from own]
  dsimp only
  rw [if_neg, if_neg (by exact new)]
  · simp only [s2, lower, decide_eq_true_eq]
    rfl
  · rintro (store | secret | wide)
    · change (match (getExt s e).use with | .page _ => true | .control => true | _ => false) = true at store
      split at store
      · exact unpaged _ ‹_›
      · exact uncontrolled ‹_›
      · cases store
    · exact ne_true_of_eq_false plain secret
    · exact Nat.not_le.2 legal wide

theorem windowDrainDone_of_due {p : Fin 16} {slot t b : Nat} (draining : lookup? (getLd s p.val).draining slot = some b) (due : b ≤ t) :
    exec (.windowDrainDone p slot t) s = .next (modLd (atTime s t) p.val fun (l : LdS) => { l with draining := erase l.draining slot }) := by
  change Machine.execWindowDrainDone p slot t s = _
  rw [Machine.execWindowDrainDone, draining]
  exact if_neg (Nat.not_lt.2 due)

end

/-- Settles O34. A decoder before which none is committed starts at its own skip and clashes with none. -/
theorem configAndWindows : Obligations.ConfigAndWindows := by
  refine ⟨?_, ?_, ?_, ?_, ?_, ?_, ?_⟩
  · intro p reg v s up shown ready quiet plain
    exact configRequest_of_write ⟨up, shown, ready, quiet⟩ plain v
  · intro o s up shown ready quiet
    exact configRequest_of_identity ⟨up, shown, ready, quiet⟩
  · intro o reg wr s up shown starts
    exact configRequest_of_starting up shown starts reg wr
  · intro ld d base size skip ways gran s there up quiet eight known first hways hgran whole fits
    have run := hdmDecoderCommit_of_up there up quiet base size skip ways gran
    have legal := decoderLegal_of_first (d := d) (base := base) first hways hgran whole fits
    refine ⟨_, run, (ans_eq run (kept_execHdmDecoderCommit rfl ld d base size skip ways gran s (Kept.refl _ s))).same, (decoders_of_committed there eight known _).trans (congrArg some ?_)⟩
    rw [decoderCommitted, legal, decoderStart_of_none first, Nat.zero_add]
    rfl
  · intro ld d base size skip ways gran s there up quiet eight known bad
    have run := hdmDecoderCommit_of_up there up quiet base size skip ways gran
    have illegal := decoderLegal_of_ways (l := getLd s ld.val) (d := d) (base := base) (size := size) (skip := skip) (gran := gran) bad
    exact ⟨_, _, run, (ans_eq run (kept_execHdmDecoderCommit rfl ld d base size skip ways gran s (Kept.refl _ s))).same, decoders_of_committed there eight known _, illegal, by
      rw [decoderCommitted, illegal]
      rfl⟩
  · intro p slot mode t e s live quiet up own unpaged uncontrolled plain legal new
    exact windowModeWrite_of_change live quiet up own unpaged uncontrolled plain legal new
  · intro p slot t b s draining due
    exact windowDrainDone_of_due draining due

end Sys2Proof.Proofs
end

section
/-!
Lending and taking back, and published regions. Each operation's checks leave one arm; the records of revocations and regions are read back through the lookups of an assignment.
-/
namespace Sys2Proof.Proofs

open Sys2Proof.Machine (State exec)
open Sys2Proof.Laws

section
variable {s : State} {d : Desc} {q e p : Nat} {i : BitVec 32}

/-! ### EXTENT_ASSIGN (R370, R371, R374 to R377) -/

/-- An extent that may be lent now: no revocation of it is under way, it is not being cleared or awaiting reseal, and it is in the pool. -/
structure LendsNow (s : State) (d : Desc) (e p : Nat) : Prop where
  settled : revokeBefore s d e p = false
  returned : ((holdersOf s e).isEmpty && s.cxl.revokes.any (fun r => r.ext == e)) = false
  clear : (getExt s e).clearing = false
  sealed_ : (getExt s e).kind ≠ .awaiting
  free_ : lendable s e = true

/-- A slot of an LD that takes a lent extent: the LD may be lent to, does not use the slot, and does not hold the extent. -/
structure TakesLent (s : State) (p e slot region : Nat) : Prop where
  open_ : ldRefuses s p = false
  above : ownCount s p ≤ slot
  unused : lookup? (getLd s p).lent slot = none
  unheld : (holdersOf s e).contains p = false
  oneRegion : (s.cxl.lds.any fun l => l.lent.any fun x => x.2.ext == e && x.2.region != region) = false

/-- The LD with the extent at its slot, and the region that the extent begins. -/
def lent (s : State) (p e slot mode region : Nat) : State := modLd s p fun (l : LdS) => { l with lent := assign l.lent slot { ext := e, mode := winModeOf mode, region := region } }
def regionBegun (s : State) (region : Nat) : State :=
  if region ≠ 0 ∧ lookup? s.cxl.regions region = none then { s with cxl := { s.cxl with regions := assign s.cxl.regions region {} } } else s

theorem extentAssign_of_free (hd : stationDesc s q i 0x0C 0x40 = some d) (manager : d.owner = .fm) (len : d.len = 0)
    (body : bodyOk d.cur [maskOf 39 32 ||| maskOf 29 28 ||| maskOf 26 16 ||| maskOf 15 12 ||| maskOf 10 0] = true) (mode : fld (d.w 2) 29 28 = 1 ∨ fld (d.w 2) 29 28 = 2)
    (lends : LendsNow s d (fld (d.w 2) 10 0) (fld (d.w 2) 15 12)) (takes : TakesLent s (fld (d.w 2) 15 12) (fld (d.w 2) 10 0) (fld (d.w 2) 26 16) (fld (d.w 2) 39 32)) {v : State}
    (hv : v = regionBegun (lent s (fld (d.w 2) 15 12) (fld (d.w 2) 10 0) (fld (d.w 2) 26 16) (fld (d.w 2) 29 28) (fld (d.w 2) 39 32)) (fld (d.w 2) 39 32)) :
    exec (.extentAssign q i) s = .next (cdatRebuild (endNow v d stDone 0 (some (holdersOf v (fld (d.w 2) 10 0)).length)) (fld (d.w 2) 15 12) (fld (d.w 2) 26 16) 1) := by
  obtain ⟨settled, returned, clear, sealed_, free_⟩ := lends
  obtain ⟨open_, above, unused, unheld, oneRegion⟩ := takes
  have modes : ¬(fld (d.w 2) 29 28 = 0 ∨ fld (d.w 2) 29 28 = 3) := by omega
  have back : ¬((holdersOf s (fld (d.w 2) 10 0)).isEmpty = true ∧ s.cxl.revokes.any (fun r => r.ext == fld (d.w 2) 10 0) = true) := by
    rw [← Bool.and_eq_true]
    exact ne_true_of_eq_false returned
  subst hv
  change Machine.execExtentAssign q i s = _
  rw [Machine.execExtentAssign, hd]
  dsimp only
  rw [if_neg (not_not_intro manager), if_neg (by rw [len, body]; exact fun h => modes (h.elim (absurd rfl) fun h => h.elim (fun c => by cases c) id))]
  rw [if_neg, if_neg (by simp [free_]), if_neg (ne_true_of_eq_false open_), if_neg, if_neg (ne_true_of_eq_false oneRegion)]
  · simp only [Option.isNone_iff_eq_none]
    rfl
  · rintro (low | used | held)
    · exact Nat.not_lt.2 above low
    · rw [unused] at used
      cases used
    · exact ne_true_of_eq_false unheld held
  · rintro (h | h | ⟨-, h | h⟩)
    · exact ne_true_of_eq_false settled h
    · exact back h
    · exact ne_true_of_eq_false clear h
    · exact sealed_ h

/-! ### EXTENT_REVOKE and its end (R372 to R376) -/

/-- A revocation from one LD that holds the extent. -/
structure Revocable (s : State) (q : Nat) (i : BitVec 32) (e p : Nat) : Prop where
  first : ((s.flight.takeWhile fun x => !(x.ctx == q && x.index == i)).any fun x =>
    x.opcode == 0x0C && (x.subop == 0x40 || x.subop == 0x41) && x.phase != .finished && fld (x.w 2) 10 0 == e) = false
  pool : inPool s e = true
  open_ : ldRefuses s p = false
  held : (holdersOf s e).contains p = true

/-- The commit point of a revocation. -/
def revokeBegun (s : State) (d : Desc) (t : Nat) : State := putDesc (atTime s t) { d with phase := .running, latched := true }

theorem extentRevoke_of_held {t : Nat} (hd : stationDesc s q i 0x0C 0x41 = some d) (manager : d.owner = .fm) (len : d.len = 0) (body : bodyOk d.cur [maskOf 16 0 &&& ~~~(maskOf 11 11)] = true)
    (one : bit (d.w 2) 16 = false) (h : Revocable s q i (fld (d.w 2) 10 0) (fld (d.w 2) 15 12)) {u : State} {n : Nat}
    (hu : (u, n) = reclaimLent (revokeBegun s d t) (fld (d.w 2) 10 0) (fld (d.w 2) 15 12)) :
    exec (.extentRevoke q i t) s = .next { u with cxl := { u.cxl with
      revokes := u.cxl.revokes ++ [{ ctx := q, index := i, ext := fld (d.w 2) 10 0, draining := [fld (d.w 2) 15 12], revoked := [], stopped := n }] } } := by
  obtain ⟨first, pool, open_, held⟩ := h
  change Machine.execExtentRevoke q i t s = _
  rw [Machine.execExtentRevoke, hd]
  dsimp only
  rw [if_neg (not_not_intro manager), if_neg (by simp [len, body]), if_neg (ne_true_of_eq_false first), if_neg (by simp [pool]), if_neg (by simp [open_]), if_neg (ne_true_of_eq_false one), if_neg]
  · rw [List.foldl_cons, List.foldl_nil]
    dsimp only
    rw [revokeBegun] at hu
    rw [← hu]
    dsimp only
    rw [Nat.zero_add]
  · rw [List.any_cons, held]
    simp

/-- The last drain of a revocation starts the clear of the extent (R112, R374). -/
def revokeClears (s : State) (r : Revoke) (q : Nat) (i : BitVec 32) : State :=
  { modExt s r.ext (fun x => { x with clearing := true, kind := .openRows }) with
    cxl := { s.cxl with revokes := s.cxl.revokes.map fun x => if x.ctx = q ∧ x.index = i then { r with draining := [], revoked := r.draining, clearing := true } else x } }

theorem revokeDrainDone_of_last {r : Revoke} (found : (s.cxl.revokes.find? fun r => r.ctx == q && r.index == i && !r.clearing) = some r) (last : holdersOf s r.ext = []) :
    exec (.revokeDrainDone q i) s = .next (revokeClears s r q i) := by
  change Machine.execRevokeDrainDone q i s = _
  rw [Machine.execRevokeDrainDone, found]
  exact if_pos (by rw [last]; rfl)

theorem sameBut_revokeClears (s : State) (r : Revoke) (q : Nat) (i : BitVec 32) : SameBut (partSet [.extents, .cxl]) s (revokeClears s r q i) := by
  intro p hp
  cases p with
  | extents => exact absurd hp (by decide)
  | cxl => exact absurd hp (by decide)
  | _ => rfl

theorem getExt_revokeClears (s : State) (r : Revoke) (q : Nat) (i : BitVec 32) : getExt (revokeClears s r q i) r.ext = { getExt s r.ext with clearing := true, kind := .openRows } :=
  (getExt_modExt s r.ext (fun x => { x with clearing := true, kind := .openRows }) r.ext).trans (if_pos rfl)

theorem revokeDrainDone_of_held {r : Revoke} (found : (s.cxl.revokes.find? fun r => r.ctx == q && r.index == i && !r.clearing) = some r) (held : holdersOf s r.ext ≠ []) :
    exec (.revokeDrainDone q i) s = .next (endRevoke s { r with draining := [], revoked := r.draining }) := by
  change Machine.execRevokeDrainDone q i s = _
  rw [Machine.execRevokeDrainDone, found]
  exact if_neg (by simpa using held)

/-- A clear leaves the fences and the revocations as they were. -/
theorem extentClearDone_of_sound (clearing : (getExt s e).clearing = true) (sound : pchFenced s (e / 3) = false) :
    exec (.extentClearDone e) s = match s.cxl.revokes.find? fun r => r.ext == e && r.clearing with
      | some r => .next (endRevoke (clearExtent s e) r)
      | none => .next (clearExtent s e) := by
  change Machine.execExtentClearDone e s = _
  unfold Machine.execExtentClearDone
  extract_lets s1 s2
  have same : s2 = clearExtent s e := if_neg (ne_true_of_eq_false (sound : pchFenced (clearExtent s e) (e / 3) = false))
  rw [if_neg (by simp [clearing]), same]
  rfl

/-! ### Published regions (R377 to R380) -/

variable {o a : Owner} {m : MboxMsg} {x : PubRegion}

/-- A region with a new descriptor and a raised version. -/
def regionRaised (s : State) (m : MboxMsg) (x : PubRegion) : State :=
  { s with cxl := { s.cxl with regions := assign s.cxl.regions (m.at_ 0) { version := (x.version + 1) % 2 ^ 64, descriptor := BitVec.ofNat 64 (ofLe (slice m.body 16 8)) } } }

/-- Tells the other LDs that hold an extent of a region of its new version (R380). -/
def regionTold (s : State) (a : Owner) (region version : Nat) : State :=
  (((List.range 16).filter fun j => j != a.idx && holdsRegion s j region false)).foldl (fun s j => postEvent s (ownerOf j) 6 3 none region (BitVec.ofNat 64 version) 0#64) s

theorem cxl_regionTold (s : State) (a : Owner) (region version : Nat) : (regionTold s a region version).cxl = s.cxl :=
  foldl_kept (P := fun u : State => u.cxl = s.cxl) rfl fun u _ h => ((kept_postEvent (F := partSet [.out, .host, .owners]) rfl _ _ _ _ _ _ _ _ _ (Kept.refl _ u)).same .cxl rfl).trans h

/-- Reserved bytes that are all zero have none that is not. -/
theorem any_nonzero_of_all_zero {bs : List Byte} (zero : bs.all (· == 0#8) = true) : bs.any (· != 0#8) = false :=
  List.any_eq_false.2 fun b hb => by simpa using List.all_eq_true.1 zero b hb

theorem regionPublish_of_current (heard : Heard s o 0x20 m .partition (m.body.length == 24) a) (region : 0 < m.at_ 0) (zero : ((m.body.drop 1).take 7).all (· == 0#8) = true)
    (holds : holdsRegion s a.idx (m.at_ 0) true = true) (known : lookup? s.cxl.regions (m.at_ 0) = some x) (current : ofLe (slice m.body 8 8) = x.version) :
    exec (.regionPublish o m) s = .next (regionTold (mboxReply (regionRaised s m x) o 0x20 m stDone 0 none (some ((x.version + 1) % 2 ^ 64))) a (m.at_ 0) ((x.version + 1) % 2 ^ 64)) := by
  refine congrArg Host.Outcome.next ((mboxRun_of_heard heard _).trans ?_)
  dsimp only
  rw [if_neg (by rw [any_nonzero_of_all_zero zero]; exact fun h => h.elim (Nat.pos_iff_ne_zero.1 region) (fun c => by cases c)), if_neg (by simp [holds]), known, Option.getD_some, if_neg (not_not_intro current)]
  rfl

theorem regionPublish_of_stale (heard : Heard s o 0x20 m .partition (m.body.length == 24) a) (region : 0 < m.at_ 0) (zero : ((m.body.drop 1).take 7).all (· == 0#8) = true)
    (holds : holdsRegion s a.idx (m.at_ 0) true = true) (known : lookup? s.cxl.regions (m.at_ 0) = some x) (stale : ofLe (slice m.body 8 8) ≠ x.version) :
    exec (.regionPublish o m) s = .next (mboxReply s o 0x20 m stConflict 0 (some x.descriptor.toNat) (some x.version) (leBytes 8 x.descriptor.toNat)) := by
  refine congrArg Host.Outcome.next ((mboxRun_of_heard heard _).trans ?_)
  dsimp only
  rw [if_neg (by rw [any_nonzero_of_all_zero zero]; exact fun h => h.elim (Nat.pos_iff_ne_zero.1 region) (fun c => by cases c)), if_neg (by simp [holds]), known, Option.getD_some, if_pos stale]

theorem regionQuery_of_holder (heard : Heard s o 0x21 m .partition (m.body.length == 24) a) (region : 0 < m.at_ 0) (zero : (m.body.drop 1).all (· == 0#8) = true)
    (holds : holdsRegion s a.idx (m.at_ 0) false = true) (known : lookup? s.cxl.regions (m.at_ 0) = some x) :
    exec (.regionQuery o m) s = .next (mboxReply s o 0x21 m stDone 0 (some x.descriptor.toNat) (some x.version) (leBytes 8 x.descriptor.toNat)) := by
  refine congrArg Host.Outcome.next ((mboxRun_of_heard heard _).trans ?_)
  dsimp only
  rw [if_neg (by rw [any_nonzero_of_all_zero zero]; exact fun h => h.elim (Nat.pos_iff_ne_zero.1 region) (fun c => by cases c)), if_neg (by simp [holds]), known, Option.getD_some]

end

/-- Settles O35, from the arm that each operation's checks leave. -/
theorem lendsAndRegions : Obligations.LendsAndRegions := by
  refine ⟨?_, ?_, ?_, ?_, ?_, ?_, ?_, ?_, ?_⟩
  · intro q e p slot mode region i d u v s hd manager len body he hp hslot hmode hregion modes settled returned clear sealed_ free_ open_ above unused unheld oneRegion hu hv
    subst he hp hslot hmode hregion hu
    exact extentAssign_of_free hd manager len body modes ⟨settled, returned, clear, sealed_, free_⟩ ⟨open_, above, unused, unheld, oneRegion⟩ hv
  · intro q t e p i d s hd manager len body he hp one first pool open_ held
    subst he hp
    exact ⟨_, _, rfl, extentRevoke_of_held hd manager len body one ⟨first, pool, open_, held⟩ rfl⟩
  · intro q i r s found last
    refine ⟨_, revokeDrainDone_of_last found last, sameBut_revokeClears s r q i, fun _ => ?_⟩
    rw [getExt_revokeClears]
    exact ⟨rfl, rfl⟩
  · intro q i r s found held
    exact revokeDrainDone_of_held found held
  · intro e s clearing sound none_
    rw [extentClearDone_of_sound clearing sound, none_]
  · intro e r s clearing sound found
    rw [extentClearDone_of_sound clearing sound, found]
  · intro o a m x s heard region zero holds known current
    have run := regionPublish_of_current heard region zero holds known current
    refine ⟨_, run, (ans_eq run (kept_execRegionPublish rfl o m s (Kept.refl _ s))).same, ?_⟩
    have reply : (mboxReply (regionRaised s m x) o 0x20 m stDone 0 none (some ((x.version + 1) % 2 ^ 64))).cxl = (regionRaised s m x).cxl :=
      (kept_mboxReply (F := partSet [.free, .out]) rfl _ _ _ _ _ _ _ _ _ (Kept.refl _ _)).same .cxl rfl
    rw [cxl_regionTold, reply]
    exact (lookup?_assign _ _ _ _).trans (if_pos rfl)
  · intro o a m x s heard region zero holds known stale
    exact regionPublish_of_stale heard region zero holds known stale
  · intro o a m x s heard region zero holds known
    exact regionQuery_of_holder heard region zero holds known

end Sys2Proof.Proofs
end

section
/-!
The standard mailbox and the fabric manager's QoS commands. A command runs where its mailbox is there (`cxlRun_of_up`); contents that the spec does not give are drawn bytes, of which the length is known.
-/
namespace Sys2Proof.Proofs

open Sys2Proof.Machine (State exec)
open Sys2Proof.Laws

section
variable {s : State} {o : Owner} {p : Fin 16}

/-- The standard mailbox of a function takes commands. -/
structure MailboxOpen (s : State) (o : Owner) : Prop where
  up : mailboxUp s = true
  shown : presented s o = true
  quiet : scrubbing s o = false

theorem cxlRun_of_open (h : MailboxOpen s o) (cmd : Nat) (k : State → State) : cxlRun s o cmd k = k s := by
  rw [cxlRun, if_neg (by simp [h.up, h.shown]), if_neg (ne_true_of_eq_false h.quiet)]

theorem length_drawBytes (n : Nat) (s : State) : (drawBytes n s).1.length = n := by simp [drawBytes]

theorem identifyMemoryDevice_of_open (h : MailboxOpen s o) : exec (.identifyMemoryDevice o) s = .next (emit (drawBytes 19 (drawBytes 16 s).2).2
    (.cxlMbox o 0x4000 0 ((drawBytes 16 s).1 ++ leBytes 8 2048 ++ leBytes 8 2048 ++ leBytes 8 0 ++ (drawBytes 19 (drawBytes 16 s).2).1))) :=
  congrArg Host.Outcome.next (cxlRun_of_open h _ _)

theorem getHealthInfo_of_open (h : MailboxOpen s o) : exec (.getHealthInfo o) s = .next (emit (drawBytes 12 (drawBytes 4 s).2).2
    (.cxlMbox o 0x4200 0 ((drawBytes 4 s).1 ++ leBytes 2 ((hottest (drawBytes 12 (drawBytes 4 s).2).2) % 65536).toNat ++ (drawBytes 12 (drawBytes 4 s).2).1))) :=
  congrArg Host.Outcome.next (cxlRun_of_open h _ _)

/-- Free values drawn leave the temperatures as they were. -/
theorem hottest_drawBytes (n : Nat) (s : State) : hottest (drawBytes n s).2 = hottest s := by
  have fitted : sensorFitted (drawBytes n s).2 = sensorFitted s := rfl
  have power : (drawBytes n s).2.power = s.power := rfl
  rw [hottest, hottest, fitted, power]

theorem getSupportedLogs_of_open (h : MailboxOpen s o) : exec (.getSupportedLogs o) s = .next (emit (drawBytes 28 s).2 (.cxlMbox o 0x0400 0 (drawBytes 28 s).1)) :=
  congrArg Host.Outcome.next (cxlRun_of_open h _ _)

theorem getLog_of_open (h : MailboxOpen s o) (log off len : Nat) : exec (.getLog o log off len) s = .next (emit (drawBytes len s).2 (.cxlMbox o 0x0401 0 (drawBytes len s).1)) :=
  congrArg Host.Outcome.next (cxlRun_of_open h _ _)

theorem getTimestamp_of_open (h : MailboxOpen s o) : exec (.getTimestamp o) s = .next (emit (drawBytes 8 s).2 (.cxlMbox o 0x0300 0 (drawBytes 8 s).1)) :=
  congrArg Host.Outcome.next (cxlRun_of_open h _ _)

theorem getEventRecords_of_open (h : MailboxOpen s (.part p)) (log : Nat) :
    exec (.getEventRecords (.part p) log) s = .next (emit s (.cxlMbox (.part p) 0x0100 0 (leBytes 2 (getLd s p.val).events.length ++
      (getLd s p.val).events.flatMap fun e => leBytes 2 e.handle ++ leBytes 1 (b2n e.dropped) ++ leBytes 8 e.dpa))) :=
  congrArg Host.Outcome.next (cxlRun_of_open h _ _)

theorem clearEventRecords_of_known (h : MailboxOpen s (.part p)) (log : Nat) {hs : List Nat} (named : hs ≠ []) (known : ∀ h ∈ hs, ∃ e ∈ (getLd s p.val).events, e.handle = h) :
    exec (.clearEventRecords (.part p) log hs) s = .next (emit (modLd s p.val fun (l : LdS) => { l with events := l.events.filter fun e => !hs.contains e.handle }) (.cxlMbox (.part p) 0x0101 0 [])) := by
  have all : (hs.any fun h => !((eventsOf s (.part p)).any fun e => e.handle == h)) = false := by
    refine List.any_eq_false.2 fun h hh => ?_
    obtain ⟨e, he, rfl⟩ := known h hh
    simpa using ⟨e, he, rfl⟩
  refine congrArg Host.Outcome.next ((cxlRun_of_open h _ _).trans ?_)
  dsimp only
  have some_ : hs.isEmpty = false := by simpa using named
  rw [if_neg (ne_true_of_eq_false all)]
  simp only [some_, Bool.false_eq_true, if_false]

/-- Lines and extents of a poison list that lie in a range (R365). -/
def poisonIn (s : State) (p start len : Nat) : List Nat × List Nat :=
  ((poisonOf s p).1.filter fun a => decide (a < start + len ∧ start < a + 64), (poisonOf s p).2.filter fun a => decide (a < start + len ∧ start < a + 2 ^ 28))

/-- The list that a host reads: the overflow flag, the number of entries, and the entries. -/
def poisonBytes (s : State) (p start len : Nat) : List Byte :=
  leBytes 1 (2 * b2n (s.poisonOverflow || decide (s.openPoison.length ≥ 65536))) ++ leBytes 2 ((poisonIn s p start len).1.length + (poisonIn s p start len).2.length)
    ++ (poisonIn s p start len).1.flatMap (fun a => leBytes 8 a ++ leBytes 4 1) ++ (poisonIn s p start len).2.flatMap fun a => leBytes 8 a ++ leBytes 4 (2 ^ 22)

theorem getPoisonList_of_open (h : MailboxOpen s (.part p)) (start len : Nat) :
    exec (.getPoisonList (.part p) start len) s = .next (emit s (.cxlMbox (.part p) 0x4300 0 (poisonBytes s p.val start len))) := by
  refine congrArg Host.Outcome.next ((cxlRun_of_open h _ _).trans ?_)
  unfold poisonBytes poisonIn
  with_reducible rfl

/-- A field behind another is read at that one's length. -/
theorem slice_append {a b c : List Byte} : slice (a ++ b ++ c) a.length b.length = b := by
  have front : ((a ++ b ++ c).drop a.length).take b.length = b := by rw [List.append_assoc, List.drop_left, List.take_left]
  rw [slice, front, Nat.sub_self]
  exact List.append_nil b

theorem count_poisonBytes (s : State) (p start len : Nat) : slice (poisonBytes s p start len) 1 2 = leBytes 2 ((poisonIn s p start len).1.length + (poisonIn s p start len).2.length) := by
  rw [poisonBytes, List.append_assoc (leBytes 1 _ ++ leBytes 2 _)]
  exact slice_append (a := leBytes 1 _) (b := leBytes 2 _)

theorem injectPoison_of_mapped (h : MailboxOpen s (.part p)) (unlocked : (getPart s p.val).state ≠ .locked) {dpa e off : Nat} (line : lineOf s (.part p) dpa = some (e, off)) :
    exec (.injectPoison (.part p) dpa) s = .next (emit (poisonLine s e off) (.cxlMbox (.part p) 0x4301 0 [])) := by
  refine congrArg Host.Outcome.next ((cxlRun_of_open h _ _).trans ?_)
  dsimp only
  rw [if_neg (by simpa using unlocked), line]

theorem injectPoison_of_locked (h : MailboxOpen s (.part p)) (locked : (getPart s p.val).state = .locked) (dpa : Nat) :
    exec (.injectPoison (.part p) dpa) s = .next (emit s (.cxlMbox (.part p) 0x4301 0x13 [])) := by
  refine congrArg Host.Outcome.next ((cxlRun_of_open h _ _).trans ?_)
  dsimp only
  rw [if_pos (by simpa using locked)]

theorem clearPoison_of_mapped (h : MailboxOpen s (.part p)) {dpa e off : Nat} (line : lineOf s (.part p) dpa = some (e, off)) (data : List Byte) :
    exec (.clearPoison (.part p) dpa data) s = .next (emit (writeHbm s e off (slice data 0 64)) (.cxlMbox (.part p) 0x4302 0 [])) := by
  refine congrArg Host.Outcome.next ((cxlRun_of_open h _ _).trans ?_)
  rw [line]

/-! ### QoS (R367, R565) -/

theorem fmApiUp_of_multi (up : mailboxUp s = true) (multi : s.cxl.direct = false) : fmApiUp s = true := by rw [fmApiUp, up, multi]; rfl

/-- A partition whose HOST_QOS the fabric manager may write. -/
structure QosOpen (s : State) (p : Nat) : Prop where
  part : p < 16
  unlocked : (getPart s p).state ≠ .locked
  quiet : (getPart s p).state ≠ .scrubbing

theorem setQos_alloc_of_open {p v : Nat} (h : QosOpen s p) (byte : v < 256) (reads : (((List.range 16).filter (· != p)).map fun j => qosAlloc s j false).sum + v ≤ 256)
    (writes : (((List.range 16).filter (· != p)).map fun j => qosAlloc s j true).sum + v ≤ 256) :
    setQos s p [v] true = modPart s p fun x => { x with hostQos := setFld (setFld x.hostQos 23 16 v) 7 0 v } := by
  rw [setQos, List.length_singleton, List.range_one, List.foldl_cons, List.foldl_nil]
  dsimp only
  rw [Nat.add_zero, List.getD_cons_zero, Nat.mod_eq_of_lt byte, if_neg (by rintro (h1 | h1 | h1); exacts [Nat.not_le.2 h.part h1, h.unlocked h1, h.quiet h1]), if_neg (by rintro ⟨-, h1 | h1⟩ <;> omega)]
  rfl

theorem setQos_limit_of_open {p v : Nat} (h : QosOpen s p) (byte : v < 256) :
    setQos s p [v] false = modPart s p fun x => { x with hostQos := setFld (setFld x.hostQos 31 24 v) 15 8 v } := by
  rw [setQos, List.length_singleton, List.range_one, List.foldl_cons, List.foldl_nil]
  dsimp only
  rw [Nat.add_zero, List.getD_cons_zero, Nat.mod_eq_of_lt byte, if_neg (by rintro (h1 | h1 | h1); exacts [Nat.not_le.2 h.part h1, h.unlocked h1, h.quiet h1]), if_neg (by simp)]
  rfl

theorem setQosAllocatedBw_of_up (up : fmApiUp s = true) (start : Nat) (vals : List Nat) :
    exec (.setQosAllocatedBw start vals) s = .next (emit (setQos s start vals true) (.cxlMbox .fm 0x5407 0 [])) := if_neg (by simp [up])

theorem setQosBwLimit_of_up (up : fmApiUp s = true) (start : Nat) (vals : List Nat) :
    exec (.setQosBwLimit start vals) s = .next (emit (setQos s start vals false) (.cxlMbox .fm 0x5409 0 [])) := if_neg (by simp [up])

theorem fmApiCommand_getAlloc (up : fmApiUp s = true) (body : List Byte) :
    exec (.fmApiCommand 0x5406 body) s = .next (emit s (.cxlMbox .fm 0x5406 0 ([BitVec.ofNat 8 (body.getD 0 0#8).toNat, BitVec.ofNat 8 (body.getD 1 0#8).toNat] ++
      (List.range (body.getD 0 0#8).toNat).map fun k => BitVec.ofNat 8 (qosAlloc s ((body.getD 1 0#8).toNat + k) false)))) := by
  change Machine.execFmApiCommand 0x5406 body s = _
  rw [Machine.execFmApiCommand, if_neg (by simp [up])]
  exact if_pos rfl

end

/-- Settles O36, command by command. -/
theorem standardMailbox : Obligations.StandardMailbox := by
  refine ⟨?_, ?_, ?_, ?_, ?_, ?_, ?_, ?_, ?_, ?_, ?_, ?_, ?_, ?_, ?_⟩
  · intro o s up shown quiet
    have run := identifyMemoryDevice_of_open ⟨up, shown, quiet⟩
    exact ⟨_, (drawBytes 16 s).1, (drawBytes 19 (drawBytes 16 s).2).1, run, (ans_eq run (kept_execIdentifyMemoryDevice rfl o s (Kept.refl _ s))).same, length_drawBytes _ _, rfl⟩
  · intro o s up shown quiet
    have run := getHealthInfo_of_open ⟨up, shown, quiet⟩
    rw [hottest_drawBytes, hottest_drawBytes] at run
    exact ⟨_, (drawBytes 4 s).1, (drawBytes 12 (drawBytes 4 s).2).1, run, (ans_eq run (kept_execGetHealthInfo rfl o s (Kept.refl _ s))).same, length_drawBytes _ _, rfl⟩
  · intro p log s up shown quiet
    exact getEventRecords_of_open ⟨up, shown, quiet⟩ log
  · intro p log hs s up shown quiet named known
    exact clearEventRecords_of_known ⟨up, shown, quiet⟩ log named known
  · intro p start len s up shown quiet
    have run := getPoisonList_of_open ⟨up, shown, quiet⟩ start len
    exact ⟨_, (poisonIn s p.val start len).1.length + (poisonIn s p.val start len).2.length, _, run, (ans_eq run (kept_execGetPoisonList rfl _ start len s (Kept.refl _ s))).same, rfl, by simp only [poisonIn], count_poisonBytes s p.val start len⟩
  · intro p dpa e off s up shown quiet unlocked line
    exact injectPoison_of_mapped ⟨up, shown, quiet⟩ unlocked line
  · intro p dpa s up shown quiet locked
    exact injectPoison_of_locked ⟨up, shown, quiet⟩ locked dpa
  · intro p dpa e off data s up shown quiet line
    exact clearPoison_of_mapped ⟨up, shown, quiet⟩ line data
  · intro o s up shown quiet
    have run := getSupportedLogs_of_open ⟨up, shown, quiet⟩
    exact ⟨_, _, run, (ans_eq run (kept_execGetSupportedLogs rfl o s (Kept.refl _ s))).same, rfl⟩
  · intro o log off len s up shown quiet
    have run := getLog_of_open ⟨up, shown, quiet⟩ log off len
    exact ⟨_, _, run, (ans_eq run (kept_execGetLog rfl o log off len s (Kept.refl _ s))).same, length_drawBytes _ _, rfl⟩
  · intro o s up shown quiet
    have run := getTimestamp_of_open ⟨up, shown, quiet⟩
    exact ⟨_, _, run, (ans_eq run (kept_execGetTimestamp rfl o s (Kept.refl _ s))).same, length_drawBytes _ _, rfl⟩
  · intro o code s up shown quiet
    exact congrArg Host.Outcome.next (cxlRun_of_open ⟨up, shown, quiet⟩ _ _)
  · intro p v s up multi part byte unlocked quiet reads writes
    rw [setQosAllocatedBw_of_up (fmApiUp_of_multi up multi), setQos_alloc_of_open ⟨part, unlocked, quiet⟩ byte reads writes]
  · intro p v s up multi part byte unlocked quiet
    rw [setQosBwLimit_of_up (fmApiUp_of_multi up multi), setQos_limit_of_open ⟨part, unlocked, quiet⟩ byte]
  · intro body s up multi
    exact fmApiCommand_getAlloc (fmApiUp_of_multi up multi) body

end Sys2Proof.Proofs
end

section
/-!
Flash objects. Each operation runs for its partition where its station takes it (`flashRun_ends`); what nothing refuses starts its writes or reads, or gives its record out.
-/
namespace Sys2Proof.Proofs

open Sys2Proof.Machine (State exec)
open Sys2Proof.Laws

section
variable {s u v : State} {q t : Nat} {i : BitVec 32} {p : Fin 16} {d : Desc}

/-- An operation on flash runs for the partition that asks, with its reserved bits and LEN zero, in the state in which its station works (R388, R389, R406). -/
theorem flashRun_ends {op sub : Nat} {ks : List Nat} {masks : List Word} (taken : Taken s q i op sub ks d) (hu : u = atWork s (needs s d ks)) (owner : d.owner = .part p)
    (len : d.len = 0) (body : bodyOk d.cur masks = true) {k : Nat → Desc → State → State} (run : k p.val d u = v) :
    flashRun q i op sub ks masks k s = .next v := by
  refine stationRun_ends taken hu ?_
  rw [owner]
  exact (if_neg (by simp [body, len])).trans run

/-! ### DRAIN OBJECT and DELETE (R384 to R386, R389, R394) -/

/-- A DRAIN's ID, source bytes, coder slot and table. -/
abbrev drainId (d : Desc) : Nat := fld (d.w 2) 63 32
abbrev drainBytes (d : Desc) : Nat := fld (d.w 4) 31 0
abbrev drainSlot (d : Desc) : Nat := fld (d.w 2) 30 30

/-- A DRAIN OBJECT that names an ID and a size, and whose table, where it codes, is loaded. -/
structure DrainLegal (u : State) (p : Nat) (d : Desc) : Prop where
  named : drainId d ≠ 0xFFFFFFFF
  some_ : 0 < drainBytes d
  most : drainBytes d ≤ 268435456
  coded : bit (d.w 2) 31 = true → drainBytes d % 2 = 0 ∧ drainTable d ≠ none ∧ d.slotWaits (drainSlot d) = false
  free_ : inRegion u p (drainId d) = false

theorem isSome_drainTable (h : DrainLegal u p.val d) : (drainTable d).isSome = bit (d.w 2) 31 := by
  cases code : bit (d.w 2) 31 with
  | false => rw [drainTable, if_neg (ne_true_of_eq_false code)]; rfl
  | true => exact Option.isSome_iff_ne_none.2 (h.coded code).2.1

/-- The object that a DRAIN makes of the bytes it read. -/
def drainedObject (u : State) (p : Nat) (d : Desc) (bs : List Byte) : FlashObj :=
  { data := bs, coded := bit (d.w 2) 31, table := drainTable d, stored := (storedForm (drainSlot d) (drainTable d) bs).length, spaces := usableNs u p, gen := (getFlash u p).nextGen }

/-- The next write generation of a partition (R433). -/
def genTaken (u : State) (p : Nat) : State := modFlash u p fun y => { y with nextGen := y.nextGen + 1 }

/-- The descriptor while its object is in progress. -/
def draining (d : Desc) (obj : FlashObj) : Desc := { d with phase := .running, pendingObj := some obj, unitsLeft := if bit (d.w 2) 31 then ceilDiv (drainBytes d) 4096 else 0 }

theorem newObject_drain (h : DrainLegal u p.val d) (bs : List Byte) : newObject u p.val (drainSlot d) (drainTable d) bs = (genTaken u p.val, drainedObject u p.val d bs) := by
  rw [newObject, isSome_drainTable h]
  rfl

theorem drainRun_of_legal {rd : HostRead} {r : ReadRes} (h : DrainLegal u p.val d) (read : readIn u d 3 (drainBytes d) rd = .ok r) (clean : r.poison = false)
    (room : roomFor u p.val (drainId d) (storedForm (drainSlot d) (drainTable d) r.bytes).length = none) {obj : FlashObj} (hobj : obj = drainedObject u p.val d r.bytes) :
    drainRun rd p.val d u = addOps (putDesc (genTaken u p.val) (draining d obj)) (draining d obj) (some (drainId d)) none ((genTaken u p.val).time + deadlineNs (draining d obj) (fld (d.w 2) 23 0)) true
      (objectPieces p.val obj 0 (storedForm (drainSlot d) (drainTable d) r.bytes).length (storedForm (drainSlot d) (drainTable d) r.bytes) ++ directoryPieces (genTaken u p.val) p.val) := by
  have legal : ¬(drainId d = 0xFFFFFFFF ∨ drainBytes d = 0 ∨ drainBytes d > 268435456 ∨ (bit (d.w 2) 31 = true ∧ drainBytes d % 2 = 1) ∨ (bit (d.w 2) 31 = true ∧ (drainTable d).isNone = true)) := by
    rintro (e | e | e | ⟨code, odd⟩ | ⟨code, none_⟩)
    · exact h.named e
    · exact Nat.pos_iff_ne_zero.1 h.some_ e
    · exact Nat.not_lt.2 h.most e
    · exact absurd (h.coded code).1 (by omega)
    · exact (h.coded code).2.1 (Option.isNone_iff_eq_none.1 none_)
  subst hobj
  unfold drainRun
  extract_lets id n code slot table
  refine (if_neg legal).trans ((if_neg (ne_true_of_eq_false h.free_)).trans ?_)
  rw [show readIn u d 3 n rd = .ok r from read]
  refine (if_neg (ne_true_of_eq_false clean)).trans ?_
  extract_lets bs
  rw [show roomFor u p.val id bs.length = none from room, show newObject u p.val slot table r.bytes = _ from newObject_drain h r.bytes]
  rfl

theorem drainObject_of_legal {rd : HostRead} (taken : Taken (atTime s t) q i 0x07 1 [3] d) (owner : d.owner = .part p) (len : d.len = 0)
    (body : bodyOk d.cur [maskOf 63 30 ||| maskOf 23 0, allBits, maskOf 31 0] = true) (hu : u = atWork (atTime s t) (needs (atTime s t) d [3])) (h : DrainLegal u p.val d) :
    exec (.drainObject q i rd t) s = .next (drainRun rd p.val d u) := by
  change Machine.execDrainObject q i rd t s = _
  rw [Machine.execDrainObject]
  refine flashRun_ends taken hu owner len body (if_neg ?_)
  rintro ⟨code, waits⟩
  exact ne_true_of_eq_false (h.coded code).2.2 waits

theorem delete_of_known {x : FlashObj} (taken : Taken (atTime s t) q i 0x07 2 [] d) (owner : d.owner = .part p) (len : d.len = 0) (body : bodyOk d.cur [maskOf 63 32] = true)
    (hu : u = atWork (atTime s t) (needs (atTime s t) d [])) (named : drainId d ≠ 0xFFFFFFFF) (free_ : inRegion u p.val (drainId d) = false)
    (known : lookup? (getFlash u p.val).objects (drainId d) = some x) (copies : readableCopies u p.val ≠ []) :
    exec (.delete q i t) s = .next (addOps (putDesc u { d with phase := .running }) { d with phase := .running } (some (drainId d)) none (2 ^ 64) true (directoryPieces u p.val)) := by
  change Machine.execDelete q i t s = _
  rw [Machine.execDelete]
  refine flashRun_ends taken hu owner len body ?_
  dsimp only
  rw [if_neg named, if_neg (ne_true_of_eq_false free_), if_neg (by simp [known]), if_neg (by simpa using copies)]

/-! ### LIFT OBJECT (R385, R389, R390) -/

/-- The offset and the number of bytes that a LIFT names in an object. -/
abbrev liftOff (d : Desc) : Nat := fld (d.w 5) 31 0
abbrev liftBytes (d : Desc) (x : FlashObj) : Nat := if fld (d.w 4) 31 0 = 0 then x.data.length - liftOff d else fld (d.w 4) 31 0

/-- A LIFT of bytes that the object has, from drives that serve. -/
structure LiftLegal (u : State) (p : Nat) (d : Desc) (x : FlashObj) : Prop where
  named : fld (d.w 2) 63 32 ≠ 0xFFFFFFFF
  aligned : liftOff d % 4096 = 0
  most : fld (d.w 4) 31 0 ≤ 268435456
  found : d.objGen.bind (objectOf u p) = some x
  some_ : 0 < liftBytes d x
  inside : liftOff d + liftBytes d x ≤ x.data.length
  serves : x.serves u = true
  copies : readableCopies u p ≠ []

/-- Why the place that a LIFT names may not be written; none where it names none. -/
def liftRefused (u : State) (d : Desc) (x : FlashObj) : Option (Nat × Nat) :=
  if d.w 3 = 0#64 then none else match locate u d.owner (d.w 3) (occupied u d.owner (d.w 3) (liftBytes d x)) true with
    | .error e => some e
    | .ok loc => writable u loc

theorem liftRun_of_legal {x : FlashObj} (h : LiftLegal u p.val d x) (short : d.w 3 = 0#64 → liftBytes d x ≤ 65536) (place : liftRefused u d x = none) :
    liftRun p.val d u = addOps (putDesc u { d with phase := .running }) { d with phase := .running } (some (fld (d.w 2) 63 32)) none (u.time + deadlineNs d (fld (d.w 2) 23 0)) false
      (objectPieces p.val x (storedPart x (liftOff d) (liftBytes d x)).1 (storedPart x (liftOff d) (liftBytes d x)).2 []) := by
  obtain ⟨named, aligned, most, found, some_, inside, serves, copies⟩ := h
  unfold liftRun
  extract_lets off
  rw [if_neg, found]
  · change (if off + liftBytes d x > x.data.length ∨ liftBytes d x = 0 then _ else if d.w 3 = 0#64 ∧ liftBytes d x > 65536 then _ else
      match liftRefused u d x with | some e => _ | none => _) = _
    rw [if_neg, if_neg (fun e => Nat.not_lt.2 (short e.1) e.2), place]
    · exact if_neg (by simp [serves, copies])
    · rintro (e | e)
      · exact Nat.not_lt.2 inside e
      · exact Nat.pos_iff_ne_zero.1 some_ e
  · rintro (e | e | e)
    · exact named e
    · exact e aligned
    · exact Nat.not_lt.2 most e

theorem liftObject_of_taken (taken : Taken (atTime s t) q i 0x08 1 [3] d) (owner : d.owner = .part p) (len : d.len = 0)
    (body : bodyOk d.cur [maskOf 63 32 ||| maskOf 23 0, allBits, maskOf 31 0, maskOf 31 0] = true) (hu : u = atWork (atTime s t) (needs (atTime s t) d [3])) :
    exec (.liftObject q i t) s = .next (liftRun p.val d u) := by
  change Machine.execLiftObject q i t s = _
  rw [Machine.execLiftObject]
  exact flashRun_ends taken hu owner len body rfl

/-! ### STAT (R387) -/

theorem giveOut_of_tile (none_ : d.w 3 = 0#64) (bs : List Byte) (r0 r1 : Option Nat) : giveOut u d bs r0 r1 = putDesc u { d.finish stDone 0 r0 r1 with output := some { bytes := bs } } := if_pos none_

theorem giveOut_of_place {bs : List Byte} (place : d.w 3 ≠ 0#64) (written : writeOut u d 3 bs = .ok v) (r0 r1 : Option Nat) : giveOut u d bs r0 r1 = putDesc v (d.finish stDone 0 r0 r1) := by
  rw [giveOut, if_neg place, written]

/-- The record of an object, as STAT gives it. -/
def statBytes (u : State) (p : Nat) (d : Desc) (x : FlashObj) : List Byte := ofWords (objectRecord (drainId d) x ((lookup? (getFlash u p).stats (drainId d)).getD {}))

theorem stat_of_known {x : FlashObj} (taken : Taken s q i 0x08 2 [3] d) (owner : d.owner = .part p) (len : d.len = 0) (body : bodyOk d.cur [maskOf 63 32, allBits] = true)
    (hu : u = atWork s (needs s d [3])) (named : drainId d ≠ 0xFFFFFFFF) (known : lookup? (getFlash u p.val).objects (drainId d) = some x) :
    exec (.stat q i) s = .next (giveOut u d (statBytes u p.val d x) none none) := by
  change Machine.execStat q i s = _
  rw [Machine.execStat]
  refine flashRun_ends taken hu owner len body ?_
  dsimp only
  rw [if_neg named, known]
  rfl

end

/-- Settles O37, from what each operation starts where nothing refuses it. -/
theorem objectOperations : Obligations.ObjectOperations := by
  refine ⟨?_, ?_, ?_, ?_, ?_, ?_⟩
  · intro q t id n i rd p d d' r tb body obj u v s taken owner len masks hu hid named hn some_ most htb coded free_ read clean hbody room hobj hv hd'
    subst hid hn htb hbody hv hd' hobj
    have legal : DrainLegal u p.val d := ⟨named, some_, most, coded, free_⟩
    exact (drainObject_of_legal taken owner len masks hu legal).trans (congrArg Host.Outcome.next (drainRun_of_legal legal read clean room rfl))
  · intro q t id i p d x u s taken owner len masks hu hid named free_ known copies
    subst hid
    exact delete_of_known taken owner len masks hu named free_ known copies
  · intro q t n off i p d x u s taken owner len masks hu named hoff aligned most found hn some_ inside tile short serves copies
    subst hoff hn
    have legal : LiftLegal u p.val d x := ⟨named, aligned, most, found, some_, inside, serves, copies⟩
    exact (liftObject_of_taken taken owner len masks hu).trans (congrArg Host.Outcome.next (liftRun_of_legal legal (fun _ => short) (if_pos tile)))
  · intro q t n off i p d x loc u s taken owner len masks hu named hoff aligned most found hn some_ inside place located free_ serves copies
    subst hoff hn
    have legal : LiftLegal u p.val d x := ⟨named, aligned, most, found, some_, inside, serves, copies⟩
    have open_ : liftRefused u d x = none := by rw [liftRefused, if_neg place, located]; exact free_
    exact (liftObject_of_taken taken owner len masks hu).trans (congrArg Host.Outcome.next (liftRun_of_legal legal (fun e => absurd e place) open_))
  · intro q i p d x u s taken owner len masks hu named known tile
    exact (stat_of_known taken owner len masks hu named known).trans (congrArg Host.Outcome.next (giveOut_of_tile tile _ _ _))
  · intro q i p d x u v s taken owner len masks hu named known place written
    exact (stat_of_known taken owner len masks hu named known).trans (congrArg Host.Outcome.next (giveOut_of_place place written _ _))

end Sys2Proof.Proofs
end

section
/-!
Step-state regions. An operation of a region runs when no other descriptor has a change of it staged (`regionRun_ends`); what a change does to its region is read from the region list and from the extents.
-/
namespace Sys2Proof.Proofs

open Sys2Proof.Machine (State exec)
open Sys2Proof.Laws

section
variable {s u v : State} {q t : Nat} {i : BitVec 32} {p : Fin 16} {d : Desc} {x : StepRegion}

/-- A region's operation runs when no other descriptor in flight has a change of it staged (R401). -/
theorem regionRun_ends {op sub : Nat} {ks : List Nat} {masks : List Word} (taken : Taken s q i op sub ks d) (hu : u = atWork s (needs s d ks)) (owner : d.owner = .part p)
    (len : d.len = 0) (body : bodyOk d.cur masks = true) (alone : regionTaken u d = false) {k : Nat → Desc → State → State} (run : k p.val d u = v) :
    regionRun q i op sub ks masks k s = .next v :=
  flashRun_ends taken hu owner len body ((if_neg (ne_true_of_eq_false alone)).trans run)

/-! ### STEP_SETUP (R397, R398) -/

abbrev setupCount (d : Desc) : Nat := fld (d.w 3) 26 16
abbrev setupFirst (d : Desc) : Nat := fld (d.w 3) 10 0
abbrev setupBase (d : Desc) : Nat := fld (d.w 4) 31 0

/-- A SETUP of a region that is not there, over Guarded extents in no use, with object IDs that no other region has. -/
structure StepSetupLegal (u : State) (p : Nat) (d : Desc) (es : List Nat) : Prop where
  active : memActive u = true
  some_ : 0 < setupCount d
  ids : setupBase d + 2 * setupCount d ≤ 0xFFFFFFFF
  new : lookup? (getFlash (stagedView u d) p).regions d.region = none
  own : (List.range (setupCount d)).map (fun k => ownExt u p (setupFirst d + k)) = es.map some
  unused : ∀ e ∈ es, (getExt (stagedView u d) e).kind = .guarded ∧ (getExt (stagedView u d) e).use = .none ∧ claimedElse u d e = false ∧ (getExt (stagedView u d) e).clearing = false
  apart : ((getFlash (stagedView u d) p).regions.any fun x => decide (x.2.base < setupBase d + 2 * setupCount d ∧ setupBase d < x.2.base + 2 * x.2.count)) = false
  copies : copyDrives u p = [] ∨ readableCopies u p ≠ []

/-- The extents of a region claimed by the descriptor that sets it up. -/
def extentsClaimed (u : State) (d : Desc) (es : List Nat) : State := es.foldl (fun s e => modExt s e fun x => { x with claim := some (d.ctx, d.index, none) }) u

/-- The version and descriptor of the directory's entry of the region, when it has this size and these object IDs. -/
def entryFound (u : State) (p : Nat) (d : Desc) : Option (Nat × Word) :=
  ((lookup? (getFlash (stagedView u d) p).entries d.region).filter fun x => x.count == setupCount d && x.base == setupBase d).map fun x => (x.version, x.descriptor)

theorem stepSetup_of_legal {es : List Nat} (taken : Taken s q i 0x07 0x10 [] d) (owner : d.owner = .part p) (len : d.len = 0)
    (body : bodyOk d.cur [maskOf 35 32, maskOf 26 16 ||| maskOf 10 0, maskOf 31 0] = true) (hu : u = atWork s (needs s d [])) (alone : regionTaken u d = false) (h : StepSetupLegal u p.val d es) :
    exec (.stepSetup q i) s = .next (regionEnd (extentsClaimed u d es) d p.val (.setup (setupCount d) (setupFirst d) (setupBase d) (entryFound u p.val d))) := by
  obtain ⟨active, some_, ids, new, own, unused, apart, copies⟩ := h
  change Machine.execStepSetup q i s = _
  rw [Machine.execStepSetup]
  refine regionRun_ends taken hu owner len body alone ?_
  extract_lets count first base f all good found claimed
  have good_ : all.all good = true := by
    rw [show all = es.map some from own, List.all_map]
    refine List.all_eq_true.2 fun e he => ?_
    obtain ⟨kind, use_, claim, clearing⟩ := unused e he
    change ((getExt (stagedView u d) e).kind == .guarded && (getExt (stagedView u d) e).use == .none && !claimedElse u d e && !(getExt (stagedView u d) e).clearing) = true
    rw [kind, use_, claim, clearing]
    rfl
  have extents : all.filterMap id = es := by
    rw [show all = es.map some from own, List.filterMap_map]
    exact List.filterMap_some
  have entry : found = entryFound u p.val d := by
    change (match lookup? (getFlash (stagedView u d) p.val).entries d.region with | some x => if x.count = count ∧ x.base = base then some (x.version, x.descriptor) else none | none => none) = _
    rw [entryFound]
    cases lookup? (getFlash (stagedView u d) p.val).entries d.region with
    | none => rfl
    | some y =>
      rw [Option.filter_some]
      by_cases same : y.count = count ∧ y.base = base
      · rw [if_pos (by simpa using same)]
        exact if_pos same
      · rw [if_neg (by simpa using same)]
        exact if_neg same
  have claims : claimed = extentsClaimed u d es := by
    change (all.filterMap id).foldl _ u = _
    rw [extents]
    rfl
  have free_ : ¬(setupCount d = 0 ∨ setupBase d + 2 * setupCount d > 0xFFFFFFFF ∨ (lookup? (getFlash (stagedView u d) p.val).regions d.region).isSome = true) := by
    rintro (none_ | high | there)
    · exact Nat.pos_iff_ne_zero.1 some_ none_
    · exact Nat.not_lt.2 ids high
    · rw [new] at there
      cases there
  rw [if_neg (by simp [active])]
  refine (if_neg free_).trans ?_
  rw [if_neg (by simp [good_])]
  refine (if_neg (ne_true_of_eq_false apart)).trans ?_
  rw [if_neg (by rcases copies with c | c <;> simp [c]), claims, entry]

/-! ### STEP_PUBLISH, STEP_OPEN, STEP_RELEASE (R399, R401) -/

/-- An earlier publish of the region stands before the descriptor. -/
def publishedBefore (u : State) (d : Desc) : Bool :=
  (u.flight.takeWhile fun y => !(y.ctx == d.ctx && y.index == d.index)).any fun y => y.owner == d.owner && y.phase == .ready && y.opcode == 0x07 && y.subop == 0x11 && y.region == d.region

theorem stepPublish_of_current (taken : Taken s q i 0x07 0x11 [] d) (owner : d.owner = .part p) (len : d.len = 0) (body : bodyOk d.cur [maskOf 35 32, allBits, allBits] = true)
    (hu : u = atWork s (needs s d [])) (alone : regionTaken u d = false) (first : publishedBefore u d = false) (found : stagedRegion u d p.val = some x) (current : (d.w 3).toNat = x.version)
    (open_ : x.state = .open_) :
    exec (.stepPublish q i) s = .next (regionEnd u d p.val (.publish ((x.version + 1) % 2 ^ 64) (d.w 4)) (some ((x.version + 1) % 2 ^ 64))) := by
  change Machine.execStepPublish q i s = _
  rw [Machine.execStepPublish]
  refine regionRun_ends taken hu owner len body alone ((if_neg (ne_true_of_eq_false first)).trans ?_)
  rw [found]
  dsimp only
  rw [if_neg (not_not_intro current), if_neg (not_not_intro open_)]

theorem stepPublish_of_stale (taken : Taken s q i 0x07 0x11 [] d) (owner : d.owner = .part p) (len : d.len = 0) (body : bodyOk d.cur [maskOf 35 32, allBits, allBits] = true)
    (hu : u = atWork s (needs s d [])) (alone : regionTaken u d = false) (first : publishedBefore u d = false) (found : stagedRegion u d p.val = some x) (stale : (d.w 3).toNat ≠ x.version) :
    exec (.stepPublish q i) s = .next (putDesc u (d.finish stConflict 0 (some x.state.code) (some x.version))) := by
  change Machine.execStepPublish q i s = _
  rw [Machine.execStepPublish]
  refine regionRun_ends taken hu owner len body alone ((if_neg (ne_true_of_eq_false first)).trans ?_)
  rw [found]
  exact if_pos stale

theorem stepOpen_of_settled (taken : Taken s q i 0x07 0x13 [] d) (owner : d.owner = .part p) (len : d.len = 0) (body : bodyOk d.cur [maskOf 35 32] = true) (hu : u = atWork s (needs s d []))
    (alone : regionTaken u d = false) (found : stagedRegion u d p.val = some x) (settled : x.state = .sealed ∨ x.state = .durable) :
    exec (.stepOpen q i) s = .next (regionEnd u d p.val .open_) := by
  change Machine.execStepOpen q i s = _
  rw [Machine.execStepOpen]
  refine regionRun_ends taken hu owner len body alone ?_
  rw [found]
  dsimp only
  rw [if_neg (by rcases settled with e | e <;> simp [e]), if_pos settled]

/-- A RELEASE of a region that no drain or restore holds: what is left of it is whether the directory is written first. -/
theorem stepRelease_of_settled (taken : Taken s q i 0x07 0x14 [] d) (owner : d.owner = .part p) (len : d.len = 0) (body : bodyOk d.cur [maskOf 35 32 ||| maskOf 29 29] = true)
    (hu : u = atWork s (needs s d [])) (alone : regionTaken u d = false) (found : stagedRegion u d p.val = some x) (undrained : x.state ≠ .draining) (unlifted : x.state ≠ .lifting) :
    exec (.stepRelease q i) s = .next (if bit (d.w 2) 29 ∧ !(copyDrives u p.val).isEmpty then
        if (readableCopies u p.val).isEmpty then endDesc u d (stTier, 1)
        else addOps (putDesc u { d with phase := .running }) { d with phase := .running } none none (2 ^ 64) true (directoryPieces u p.val)
      else endNow u { d with effects := d.effects ++ [.endRegion p.val d.region (bit (d.w 2) 29)] } stDone 0) := by
  change Machine.execStepRelease q i s = _
  rw [Machine.execStepRelease]
  refine regionRun_ends taken hu owner len body alone ?_
  dsimp only
  rw [found]
  dsimp only
  rw [if_neg (not_or.2 ⟨undrained, unlifted⟩)]

/-! ### STEP_DRAIN and STEP_RESTORE (R399, R403, R404) -/

/-- A region in the hands of the descriptor that drains or restores it. -/
def regionDraining (u : State) (p : Nat) (d : Desc) : State :=
  modRegion (putDesc u { d with phase := .running }) p d.region fun x => { x with state := .draining, started := 0, writing := [], done := [], by_ := some (d.ctx, d.index) }

theorem stepDrain_of_sealed (taken : Taken (atTime s t) q i 0x07 0x12 [] d) (owner : d.owner = .part p) (len : d.len = 0) (body : bodyOk d.cur [maskOf 35 30 ||| maskOf 23 0] = true)
    (hu : u = atWork (atTime s t) (needs (atTime s t) d [])) (alone : regionTaken u d = false) (found : lookup? (getFlash u p.val).regions d.region = some x)
    (coded : bit (d.w 2) 31 = true → d.slotWaits (fld (d.w 2) 30 30) = false ∧ drainTable d ≠ none) (sealed_ : x.state = .sealed) :
    exec (.stepDrain q i t) s = .next (startObjects p.val { d with phase := .running } x.count (regionDraining u p.val d)) := by
  change Machine.execStepDrain q i t s = _
  rw [Machine.execStepDrain]
  refine regionRun_ends taken hu owner len body alone ?_
  dsimp only
  rw [found]
  dsimp only
  rw [if_neg, if_neg, if_neg (not_not_intro sealed_)]
  · rfl
  · rintro ⟨code, none_⟩
    exact (coded code).2 (Option.isNone_iff_eq_none.1 none_)
  · rintro ⟨code, waits⟩
    exact ne_true_of_eq_false (coded code).1 waits

/-- A walk over the places of a list reaches its entries in order. -/
theorem foldl_range_length {α σ : Type} (l : List α) {f : σ → Nat → σ} {g : σ → α × Nat → σ} (turn : ∀ s k a, l[k]? = some a → f s k = g s (a, k)) (z : σ) :
    (List.range l.length).foldl f z = l.zipIdx.foldl g z := by
  induction l using List.reverseRecOn with
  | nil => rfl
  | append_singleton l a ih =>
    have front := ih fun s k b hb => turn s k b (by rw [List.getElem?_append_left (List.getElem?_eq_some_iff.1 hb).1, hb])
    rw [List.length_append, List.length_singleton, List.range_succ, List.foldl_append, List.zipIdx_append, List.foldl_append, front]
    simpa using turn (l.zipIdx.foldl g z) l.length a (by simp)

/-- The restore of a region begins with the objects of its version. -/
def restoring (d : Desc) (os : List FlashObj) : Desc := { d with phase := .running, unitsLeft := (os.filter (·.coded)).length * (extentBytes / 4096) }
def regionLifting (u : State) (p : Nat) (d : Desc) (os : List FlashObj) : State :=
  modRegion (putDesc u (restoring d os)) p d.region fun x => { x with state := .lifting, lifted := [], by_ := some (d.ctx, d.index) }

theorem stepRestore_of_onFlash {os : List FlashObj} (taken : Taken (atTime s t) q i 0x08 0x10 [] d) (owner : d.owner = .part p) (len : d.len = 0) (body : bodyOk d.cur [maskOf 35 32 ||| maskOf 23 0] = true)
    (hu : u = atWork (atTime s t) (needs (atTime s t) d [])) (alone : regionTaken u d = false) (found : lookup? (getFlash u p.val).regions d.region = some x) (active : memActive u = true)
    (onFlash : x.state = .onFlash) (objects : versionObjects u p.val x = os.map some) (serve : os.all (fun o => o.serves u) = true) (copies : readableCopies u p.val ≠ []) :
    exec (.stepRestore q i t) s = .next (os.zipIdx.foldl (fun v (o : FlashObj × Nat) =>
      addOps v (restoring d os) (some (x.object o.2 x.version)) none (d.time + deadlineNs (restoring d os) (fld (d.w 2) 23 0)) false (objectPieces p.val o.1 0 o.1.stored []))
      (regionLifting u p.val d os)) := by
  have all : (versionObjects u p.val x).filterMap id = os := by
    rw [objects, List.filterMap_map]
    exact List.filterMap_some
  have count : os.length = x.count := by
    have len := congrArg List.length objects
    rw [versionObjects, List.length_map, List.length_map, List.length_range] at len
    exact len.symm
  have fits : os.any (fun o => !o.serves u) = false := List.any_eq_false.2 fun o ho => by simpa using List.all_eq_true.1 serve o ho
  change Machine.execStepRestore q i t s = _
  rw [Machine.execStepRestore]
  refine regionRun_ends taken hu owner len body alone ?_
  dsimp only
  rw [found]
  dsimp only
  rw [all, if_neg (by simp [active]), if_neg (not_not_intro onFlash), if_neg (not_not_intro count), if_neg (by simp [fits, copies]), ← count]
  refine foldl_range_length os (fun s k o ho => ?_) _
  rw [ho]
  rfl

/-! ### STEP_QUERY (R399) -/

theorem stepQuery_of_known (taken : Taken s q i 0x08 0x11 [3] d) (owner : d.owner = .part p) (len : d.len = 0) (body : bodyOk d.cur [maskOf 35 32, allBits] = true)
    (hu : u = atWork s (needs s d [3])) (found : stagedRegion u d p.val = some x) :
    exec (.stepQuery q i) s = .next (giveOut u d (ofWords [BitVec.ofNat 64 x.version, x.descriptor]) (some x.state.code) (some x.version)) := by
  change Machine.execStepQuery q i s = _
  rw [Machine.execStepQuery]
  refine flashRun_ends taken hu owner len body ?_
  rw [found]

end

/-! ### What a change leaves of its region (R397 to R401) -/

section
variable {s : State} {p r : Nat}

theorem getFlash_modFlash (there : p < s.flash.parts.length) (f : PartFlash → PartFlash) : getFlash (modFlash s p f) p = f (getFlash s p) := getD_modify_self there f

/-- A region that is there lies in a partition that is. -/
theorem part_of_region {x : StepRegion} (found : lookup? (getFlash s p).regions r = some x) : p < s.flash.parts.length := by
  refine Nat.lt_of_not_le fun out_ => ?_
  rw [getFlash, List.getD_eq_default _ _ out_] at found
  cases found

theorem region_adjusted {x : StepRegion} (found : lookup? (getFlash s p).regions r = some x) (f : StepRegion → StepRegion) :
    lookup? (getFlash (modRegion s p r f) p).regions r = some (f x) := by
  rw [modRegion, getFlash_modFlash (part_of_region found)]
  change lookup? (adjust (getFlash s p).regions r f) r = _
  rw [lookup?_adjust, if_pos rfl, found, Option.map_some]

/-- The extents that a SETUP takes for its region. -/
def extentsTaken (s : State) (r : Nat) (es : List Nat) : State := es.foldl (fun s e => modExt s e fun y => { y with use := .stepState r, claim := none }) s

theorem flash_extentsTaken (s : State) (r : Nat) (es : List Nat) : (extentsTaken s r es).flash = s.flash := foldl_kept (P := fun u : State => u.flash = s.flash) rfl fun _ _ h => h

/-- An extent that a SETUP has taken stays taken while it takes the others. -/
theorem use_extentsTaken {es : List Nat} {e : Nat} (mem : e ∈ es) : (getExt (extentsTaken s r es) e).use = .stepState r := by
  induction es generalizing s with
  | nil => simp at mem
  | cons x xs ih =>
    have step : extentsTaken s r (x :: xs) = extentsTaken (modExt s x fun y => { y with use := .stepState r, claim := none }) r xs := rfl
    rw [step]
    rcases List.mem_cons.1 mem with rfl | mem
    · refine foldl_kept (P := fun u : State => (getExt u e).use = .stepState r) ?_ fun u j h => ?_
      · rw [getExt_modExt, if_pos rfl]
      · rw [getExt_modExt]
        split
        · rfl
        · exact h
    · exact ih mem

/-- The region that a SETUP makes: ON_FLASH with what its directory entry held, or OPEN. -/
def regionMade (count first base : Nat) (found : Option (Nat × Word)) : StepRegion :=
  match found with
  | some (v, w) => { state := .onFlash, version := v, descriptor := w, count := count, first := first, base := base }
  | none => { count := count, first := first, base := base }

theorem changeRegion_setup (count first base : Nat) (found : Option (Nat × Word)) :
    changeRegion s p r (.setup count first base found) =
      modFlash (extentsTaken s r ((List.range count).filterMap fun k => ownExt s p (first + k))) p fun y => { y with regions := assign y.regions r (regionMade count first base found) } := rfl

theorem region_of_setup (there : p < s.flash.parts.length) (count first base : Nat) (found : Option (Nat × Word)) :
    lookup? (getFlash (changeRegion s p r (.setup count first base found)) p).regions r = some (regionMade count first base found) := by
  rw [changeRegion_setup, getFlash_modFlash (by rw [flash_extentsTaken]; exact there)]
  exact (lookup?_assign _ _ _ _).trans (if_pos rfl)

theorem use_of_setup {count first base k e : Nat} {found : Option (Nat × Word)} (inside : k < count) (own : ownExt s p (first + k) = some e) :
    (getExt (changeRegion s p r (.setup count first base found)) e).use = .stepState r :=
  use_extentsTaken (List.mem_filterMap.2 ⟨k, List.mem_range.2 inside, own⟩)

end

/-- Settles O38, from the arm that each operation's checks leave and from what a change makes of its region. -/
theorem stepRegions : Obligations.StepRegions := by
  refine ⟨?_, ?_, ?_, ?_, ?_, ?_, ?_, ?_, ?_, ?_, ?_, ?_⟩
  · intro q count first base i p d es u v s taken owner len body hu alone hv active hcount hfirst hbase some_ ids new own unused apart copies
    subst hv hcount hfirst hbase
    exact stepSetup_of_legal taken owner len body hu alone ⟨active, some_, ids, new, own, unused, apart, copies⟩
  · intro q i p d x u s taken owner len body hu alone first found current open_
    exact stepPublish_of_current taken owner len body hu alone first found current open_
  · intro q i p d x u s taken owner len body hu alone first found stale
    exact stepPublish_of_stale taken owner len body hu alone first found stale
  · intro q i p d x u s taken owner len body hu alone found settled
    exact stepOpen_of_settled taken owner len body hu alone found settled
  · intro q i p d x u s taken owner len body hu alone found undrained unlifted kept
    rw [stepRelease_of_settled taken owner len body hu alone found undrained unlifted, if_neg (by rcases kept with e | e <;> simp [e])]
  · intro q i p d x u s taken owner len body hu alone found undrained unlifted deletes copies readable
    rw [stepRelease_of_settled taken owner len body hu alone found undrained unlifted, if_pos (by simp [deletes, copies]), if_neg (by simp [readable])]
  · intro q t i p d x u s taken owner len body hu alone found coded sealed_
    exact stepDrain_of_sealed taken owner len body hu alone found coded sealed_
  · intro q t i p d d' x os u v s taken owner len body hu alone found active onFlash objects serve copies hd' hv
    subst hd' hv
    exact stepRestore_of_onFlash taken owner len body hu alone found active onFlash objects serve copies
  · intro q i p d x u s taken owner len body hu found tile
    exact (stepQuery_of_known taken owner len body hu found).trans (congrArg Host.Outcome.next (giveOut_of_tile tile _ _ _))
  · intro q i p d x u v s taken owner len body hu found place written
    exact (stepQuery_of_known taken owner len body hu found).trans (congrArg Host.Outcome.next (giveOut_of_place place written _ _))
  · intro p r v w x s found
    exact ⟨region_adjusted found _, region_adjusted found _⟩
  · intro p r count first base found s there
    exact ⟨region_of_setup there count first base found, fun k e inside own => use_of_setup inside own⟩

end Sys2Proof.Proofs
end

section
/-!
How flash work goes on and ends: the answers of the drives, the objects of a step drain, the units of a restore, pages of the tier path, deadlines, and the drives themselves. An operation held till its deadline is failed
with one of the causes that held it longest, of which there always is one (`longest_ne_nil`).
-/
namespace Sys2Proof.Proofs

open Sys2Proof.Machine (State exec)
open Sys2Proof.Laws

section
variable {s u v : State} {q t us : Nat} {i : BitVec 32} {p : Fin 16} {d : Desc} {o : FlashOp}

/-! ### NVME_COMPLETION (R386, R390, R392) -/

/-- The first part of a descriptor's flash work whose bytes are with its drive, and that is not answered. -/
def partServed (s : State) (d : Desc) : Option FlashOp := (opsFor s d).find? fun o => o.bytes == 0 && !o.answered && o.page.isNone

/-- The drive's time is billed to its counter and to the object's record. -/
def answeredPart (s : State) (p : Nat) (o : FlashOp) (t us : Nat) : State := billDrive (atTime s t) p o us

/-- What has held an answered part is billed to its object. -/
def answerHeld (s : State) (p : Nat) (o : FlashOp) (t us : Nat) : State :=
  billWaits (setOp (holdOp (answeredPart s p o t us) o .none).1 o { (holdOp (answeredPart s p o t us) o .none).2 with answered := true }) p (holdOp (answeredPart s p o t us) o .none).2

/-- A read of a part that failed is counted in its object's record. -/
def retryCounted (s : State) (p : Nat) (o : FlashOp) (t us : Nat) : State :=
  match o.object with
  | some id => modStats (answeredPart s p o t us) p id fun y => { y with retries := satAdd 16 y.retries 1 }
  | none => answeredPart s p o t us

/-- What the answer to a part leaves: a failed read is made once more before its operation fails, and the answer to the last part ends the drive work (R386, R390). -/
def partOutcome (s : State) (p : Nat) (d : Desc) (o : FlashOp) (t us : Nat) : UnitRead → State
  | .badTag => if o.retried = true then readFails p d o stTier 5 (retryCounted s p o t us) else setOp (retryCounted s p o t us) o { o with retried := true }
  | .badBlock => if o.decoded = true then readFails p d o stCheck 2 (retryCounted s p o t us) else setOp (retryCounted s p o t us) o { o with decoded := true }
  | .good => if (opsFor (answerHeld s p o t us) d).all (·.answered) ∧ d.phase = .running then flashDone p d (answerHeld s p o t us) else answerHeld s p o t us

theorem nvmeCompletion_of_served {read : UnitRead} (found : findDesc s q i = some d) (owner : d.owner = .part p) (served : partServed s d = some o)
    (coded : ¬(d.opcode = 0x07 ∧ d.subop = 1 ∧ d.unitsLeft ≠ 0 ∧ o.spill = false)) (decodes : read = .badBlock → readsCoded s p.val d o = true) :
    exec (.nvmeCompletion q i read us t) s = .next (partOutcome s p.val d o t us (if o.write then .good else read)) := by
  change Machine.execNvmeCompletion q i read us t s = _
  unfold Machine.execNvmeCompletion
  rw [found]
  dsimp only
  rw [owner, show (opsFor s d).find? (fun o => o.bytes == 0 && !o.answered && o.page.isNone) = some o from served]
  dsimp only
  rw [if_neg]
  · cases (if o.write then UnitRead.good else read) with
    | good => exact (apply_ite Host.Outcome.next _ _ _).symm
    | badTag => exact (apply_ite Host.Outcome.next _ _ _).symm
    | badBlock => exact (apply_ite Host.Outcome.next _ _ _).symm
  · rintro (⟨h1, h2, h3, h4⟩ | ⟨bad, plain⟩)
    · exact coded ⟨h1, h2, h3, by simpa using h4⟩
    · rw [decodes bad] at plain
      cases plain

theorem nvmeCompletion_of_good {read : UnitRead} (found : findDesc s q i = some d) (owner : d.owner = .part p) (served : partServed s d = some o)
    (coded : ¬(d.opcode = 0x07 ∧ d.subop = 1 ∧ d.unitsLeft ≠ 0 ∧ o.spill = false)) (good : (o.write = true ∧ read ≠ .badBlock) ∨ read = .good) :
    exec (.nvmeCompletion q i read us t) s = .next (partOutcome s p.val d o t us .good) := by
  have outcome : (if o.write then UnitRead.good else read) = .good := by
    rcases good with ⟨write, -⟩ | rfl
    · exact if_pos write
    · exact ite_self _
  rw [nvmeCompletion_of_served found owner served coded, outcome]
  rintro rfl
  exact absurd rfl (good.elim And.right fun e => by cases e)

theorem nvmeCompletion_of_bad {read : UnitRead} (found : findDesc s q i = some d) (owner : d.owner = .part p) (served : partServed s d = some o) (reads : o.write = false)
    (lifts : d.opcode ≠ 0x07) (decodes : read = .badBlock → readsCoded s p.val d o = true) :
    exec (.nvmeCompletion q i read us t) s = .next (partOutcome s p.val d o t us read) := by
  rw [nvmeCompletion_of_served found owner served (fun h => lifts h.1) decodes, if_neg (ne_true_of_eq_false reads)]

theorem retryCounted_of_object {id : Nat} (object : o.object = some id) :
    retryCounted s p.val o t us = modStats (billDrive (atTime s t) p.val o us) p.val id fun y => { y with retries := satAdd 16 y.retries 1 } := by
  rw [retryCounted, object]
  rfl

/-! ### The objects of a step drain and the units of a restore (R399, R403, R404) -/

theorem stepDrainObjectDone_of_next {k p : Nat} {x : StepRegion} {obj : FlashObj} (drains : regionDesc s q i 0x07 0x12 .draining = some (p, d, x)) (writing : lookup? x.writing k = some obj)
    (answered : ((opsFor s d).any fun o => o.object == some (x.object k x.version) && !o.answered) = false)
    (coded : bit (d.w 2) 31 = true → (x.done.length + 1) * (extentBytes / 4096) ≤ d.unitsDone) (more : x.done.length + 1 < x.count)
    (hv : v = putObject (removeOps (atTime s t) d fun o => o.object == some (x.object k x.version)) p (x.object k x.version) obj) :
    exec (.stepDrainObjectDone q i k true t) s = .next (startObjects p d 1 (modRegion v p d.region fun x => { x with done := k :: x.done, writing := erase x.writing k })) := by
  subst hv
  change Machine.execStepDrainObjectDone q i k true t s = _
  unfold Machine.execStepDrainObjectDone
  rw [drains]
  dsimp only
  rw [writing]
  dsimp only
  rw [if_neg, if_neg (by decide), if_pos more]
  rintro (waits | ⟨code, few⟩)
  · exact ne_true_of_eq_false answered waits
  · exact Nat.not_lt.2 (coded code) few

/-- The parts of an object's reads, their bytes, and those that the flash share has not let through. -/
def objectParts (s : State) (d : Desc) (id : Nat) : List FlashOp := (opsFor s d).filter fun y => y.object == some id
def partsWhole (mine : List FlashOp) : Nat := (mine.map (·.size)).sum
def partsHeld (mine : List FlashOp) : Nat := (mine.map (·.bytes)).sum

/-- Unit n of extent k of a region may be lifted: it is the next one, its coder units are done, and its bytes have come. -/
structure UnitReady (s : State) (p : Nat) (d : Desc) (x : StepRegion) (o : FlashObj) (k n : Nat) (mine : List FlashOp) : Prop where
  extent : k < x.count
  next_ : n = x.liftedOf k
  most : n < 240
  coded : o.coded = true → 256 * (codedLifted s p x + 1) ≤ d.unitsDone
  come : (n + 1) * partsWhole mine ≤ (partsWhole mine - partsHeld mine) * 240
  answered : n = 239 → mine.all (·.answered) = true

theorem liftUnitDone_of_ready {k n p e : Nat} {x : StepRegion} {obj : FlashObj} (lifts : regionDesc s q i 0x08 0x10 .lifting = some (p, d, x))
    (known : lookup? (getFlash s p).objects (x.object k x.version) = some obj) (own : ownExt s p (x.first + k) = some e) (h : UnitReady s p d x obj k n (objectParts s d (x.object k x.version)))
    (more : (x.lifted.map (·.2)).sum + 1 < 240 * x.count) :
    exec (.liftUnitDone q i k n .good t) s = .next (serveWaits (modRegion (writeHbm (atTime s t) e (n * 2 ^ 20) (slice obj.data (n * 2 ^ 20) (2 ^ 20))) p d.region
      fun x => { x with lifted := assign x.lifted k (n + 1) })) := by
  obtain ⟨extent, next_, most, coded, come, answered⟩ := h
  change Machine.execLiftUnitDone q i k n .good t s = _
  unfold Machine.execLiftUnitDone
  rw [lifts]
  dsimp only
  rw [known, own]
  dsimp only
  rw [if_neg]
  · exact if_pos more
  · rintro (h | h | h | ⟨code, few⟩ | few | ⟨last, waits⟩ | ⟨bad, -⟩)
    · exact Nat.not_le.2 extent h
    · exact h next_
    · exact Nat.not_le.2 most h
    · exact Nat.not_lt.2 (coded code) few
    · exact Nat.not_lt.2 come few
    · obtain ⟨y, hy, open_⟩ := List.any_eq_true.1 waits
      have := List.all_eq_true.1 (answered last) y hy
      rw [this] at open_
      cases open_
    · cases bad

/-! ### TIER_PATH_DONE (R129, R130, R395, R396) -/

theorem spill_modFlash {p j : Nat} {f : PartFlash → PartFlash} (keeps : ∀ y, (f y).spill = y.spill) : (getFlash (modFlash s p f) j).spill = (getFlash s j).spill := by
  rw [getFlash, modFlash, getD_modify]
  split
  · exact keeps _
  · rfl

theorem spill_billDrive (s : State) (p : Nat) (o : FlashOp) (us j : Nat) : (getFlash (billDrive s p o us) j).spill = (getFlash s j).spill := by
  rw [billDrive]
  cases o.object with
  | none => rfl
  | some id => exact spill_modFlash (s := modDrive s o.drive fun y => { y with waitDrive := sat64 y.waitDrive (us - 200) }) fun _ => rfl

/-- The time of every part of a read is billed. -/
def partsBilled (s : State) (p : Nat) (mine : List FlashOp) : State := mine.foldl (fun s o => billDrive s p o ((s.time - o.since) / 1000)) s

theorem spill_partsBilled (s : State) (p : Nat) (mine : List FlashOp) (j : Nat) : (getFlash (partsBilled s p mine) j).spill = (getFlash s j).spill :=
  foldl_kept (P := fun u : State => (getFlash u j).spill = (getFlash s j).spill) rfl fun u o h => (spill_billDrive u p o _ j).trans h

/-- A page of the tier path that is with its drives, and whose bytes have all come. -/
structure PageCome (d : Desc) (w : PageWork) (mine : List FlashOp) (slot c : Nat) : Prop where
  running : d.phase = .running
  route : w.route = .tier
  queued : w.state = .queued
  come : mine.all (fun o => o.bytes == 0) = true
  spilled : w.spill = some slot
  core : w.core = some c

theorem tierPathDone_of_sound {k slot c : Nat} {w : PageWork} {x : SpillPage} {mine : List FlashOp} (found : findDesc s q i = some d) (owner : d.owner = .part p) (page : d.pages[k]? = some w)
    (part_ : (opsFor s d).find? (fun o => o.page == some k) = some o) (hmine : mine = (opsFor s d).filter fun o => o.page == some k) (h : PageCome d w mine slot c)
    (stored : lookup? (getFlash s p.val).spill slot = some x) (check : x.fill ≠ 16 ∨ (crc32c x.bytes).toNat = x.check) (walks : d.opcode ≠ 0x02) (hu : u = partsBilled (atTime s t) p.val mine) :
    exec (.tierPathDone q i k true t) s = .next (pushFlash (putDesc (removeOps u d fun o => o.page == some k) (d.setPage k fun w => { w with state := .read, core := some c, order := nextOrder u }))) := by
  obtain ⟨running, route, queued, come, spilled, core⟩ := h
  have here : lookup? (getFlash (partsBilled (atTime s t) p.val mine) p.val).spill slot = some x := by
    rw [spill_partsBilled]
    exact stored
  have all : ¬mine.any (fun o => decide (o.bytes ≠ 0)) = true := by
    refine ne_true_of_eq_false (List.any_eq_false.2 fun y hy => ?_)
    simpa using List.all_eq_true.1 come y hy
  have matches_ : ¬(x.fill = 16 ∧ (crc32c x.bytes).toNat ≠ x.check) := fun h => check.elim (· h.1) h.2
  subst hu hmine
  change Machine.execTierPathDone q i k true t s = _
  unfold Machine.execTierPathDone
  rw [found]
  dsimp only
  rw [owner, page, part_]
  dsimp only
  rw [if_neg (by rintro (e | e | e | e); exacts [e running, e route, e queued, all e]), if_neg (by decide), spilled]
  change (match lookup? (getFlash (partsBilled (atTime s t) p.val _) p.val).spill slot with | none => _ | some x => _) = _
  rw [here]
  dsimp only
  rw [if_neg matches_, if_neg walks, core]
  rfl

/-! ### Deadlines (R393) -/

/-- Some cause has held an operation longest. -/
theorem longest_ne_nil (os : List FlashOp) : longest os ≠ [] := by
  rw [longest]
  generalize (os.map (·.heldShare)).sum = a
  generalize (os.map (·.heldWear)).sum = b
  generalize (os.map (·.heldDrive)).sum = c
  rcases (by omega : a = max a (max b c) ∨ b = max a (max b c) ∨ c = max a (max b c)) with h | h | h
  · rw [if_pos h]
    simp
  · rw [if_pos h]
    simp
  · rw [if_pos h]
    simp

theorem getD_mem_of_ne_nil {α : Type} {l : List α} (some_ : l ≠ []) (n : Nat) (z : α) : l.getD (n % max 1 l.length) z ∈ l := by
  have pos := List.length_pos_iff.2 some_
  have inside : n % max 1 l.length < l.length := by
    rw [Nat.max_eq_right pos]
    exact Nat.mod_lt _ pos
  rw [List.getD_eq_getElem _ _ inside]
  exact List.getElem_mem inside

/-- The parts of a descriptor's flash work that serve what an operation serves. -/
def partsWith (s : State) (d : Desc) (o : FlashOp) : List FlashOp := (opsFor s d).filter fun x => x.object == o.object && x.page == o.page

/-- What holds a part that is not answered is billed up to now. -/
def holdBilled (s : State) (x : FlashOp) : State := if x.answered then s else setOp (holdOp s x x.wait).1 x (holdOp s x x.wait).2
def holdsBilled (s : State) (d : Desc) (o : FlashOp) : State := (partsWith s d o).foldl holdBilled s

theorem kept_holdsBilled (s : State) (d : Desc) (o : FlashOp) : Kept (partSet [.free, .flash]) s (holdsBilled s d o) := by
  refine foldl_kept (P := Kept (partSet [.free, .flash]) s) (Kept.refl _ s) fun u x h => ?_
  rw [holdBilled]
  split
  · exact h
  · exact kept_setOp rfl _ _ _ (fst_of (kept_holdOp rfl u x x.wait h))

/-- The part that a deadline names now that what held it is billed. -/
def partNow (s : State) (d : Desc) (o : FlashOp) : FlashOp := ((partsWith s d o).head?).getD o

theorem object_partNow (s : State) (d : Desc) (o : FlashOp) : (partNow s d o).object = o.object := by
  rw [partNow]
  cases first : (partsWith s d o).head? with
  | none => rfl
  | some x =>
    have same := (List.mem_filter.1 (List.mem_of_mem_head? first)).2
    rw [Bool.and_eq_true] at same
    exact beq_iff_eq.1 same.1

theorem flashDeadline_of_due (found : findDesc s q i = some d) (due : (opsFor s d).find? (fun o => decide (o.deadline ≤ t)) = some o) (may : d.mayExpire = true) {w : State}
    (hw : w = holdsBilled (atTime s t) d o) :
    exec (.flashDeadline q i t) s = .next (tierFail (draw w).2 d (partNow w d o) ((longest (partsWith w d o)).getD ((draw w).1 % max 1 (longest (partsWith w d o)).length) 4)) := by
  subst hw
  change Machine.execFlashDeadline q i t s = _
  unfold Machine.execFlashDeadline
  rw [found]
  dsimp only
  rw [due]
  dsimp only
  rw [if_neg (by simp [may])]
  rfl

/-! ### Share, wear and drives (R383, R392, R405) -/

theorem modDrive_congr {n : Nat} {f g : Drive → Drive} (h : f (getDrive s n) = g (getDrive s n)) : modDrive s n f = modDrive s n g :=
  congrArg (fun xs => { s with flash := { s.flash with drives := xs } }) (modify_congr {} h)

theorem wearBucketRefill_of_later {n add unit : Nat} (drive : n < 8) (later : (getDrive s n).bucketTime < t) (hunit : unit = 24 * 86400 * 1000000000)
    (hadd : add = driveBudget (getDrive s n) * 23 * (t - (getDrive s n).bucketTime) / unit) :
    exec (.wearBucketRefill n t) s = .next (pushFlash (modDrive (atTime s t) n fun y => { y with
      bucket := min (bucketDepth y) (y.bucket + add)
      bucketTime := if bucketDepth y ≤ y.bucket + add ∨ driveBudget y * 23 = 0 then t else y.bucketTime + ceilDiv (add * unit) (driveBudget y * 23) })) := by
  subst hadd hunit
  change Machine.execWearBucketRefill n t s = _
  rw [Machine.execWearBucketRefill, if_neg (by omega)]
  exact congrArg (fun u => Host.Outcome.next (pushFlash u)) (modDrive_congr rfl)

theorem driveIdentified_of_powered {n : Nat} (drive : n < 8) (on : (getDom s (151 + n)).present = .on) (new : (getDrive s n).state ≠ .usable) (usable blocks : List Nat) :
    exec (.driveIdentified n usable blocks) s = .next (pushFlash (postFm (modDrive s n fun y => { y with state := .usable, usable := (usable.filter fun n => decide (1 ≤ n ∧ n ≤ 16)).eraseDups, blocks := usable.zip blocks })
      8 1 n (BitVec.ofNat 64 ((usable.filter fun n => decide (1 ≤ n ∧ n ≤ 16)).eraseDups).length) 0#64)) := by
  change Machine.execDriveIdentified n usable blocks s = _
  rw [Machine.execDriveIdentified, if_neg (by rintro (e | e | e); exacts [Nat.not_le.2 drive e, e on, new e])]

end

/-- Settles O39, from the arm that each event's conditions leave. -/
theorem flashProgress : Obligations.FlashProgress := by
  refine ⟨?_, ?_, ?_, ?_, ?_, ?_, ?_, ?_, ?_, ?_, ?_⟩
  · intro q us t i read d p o x v s found owner served coded good hx hv
    subst hx hv
    exact nvmeCompletion_of_good found owner served coded good
  · intro q us t id i d p o v s found owner served reads object lifts hv
    rw [hv, ← retryCounted_of_object object]
    exact ⟨nvmeCompletion_of_bad found owner served reads lifts (fun e => by cases e), fun coded => nvmeCompletion_of_bad found owner served reads lifts fun _ => coded⟩
  · intro q k t p i d x obj u v s drains writing answered coded more hu hv
    subst hu
    exact stepDrainObjectDone_of_next drains writing answered coded more hv
  · intro q k n t p e whole held i d x o mine s lifts known own extent next_ most coded hmine hwhole hheld come answered more
    subst hmine hwhole hheld
    exact liftUnitDone_of_ready lifts known own ⟨extent, next_, most, coded, come, answered⟩ more
  · intro q k t slot c i d p w o x mine u s found owner page part_ hmine running route queued come spilled stored check walks core hu
    exact tierPathDone_of_sound found owner page part_ hmine ⟨running, route, queued, come, spilled, core⟩ stored check walks hu
  · intro q t i d o s found due may
    have run := flashDeadline_of_due found due may rfl
    exact ⟨_, _, _, run, (snd_of (kept_draw rfl _ (kept_holdsBilled (atTime s t) d o))).same, object_partNow _ d o, getD_mem_of_ne_nil (longest_ne_nil _) _ _⟩
  · intro t s due
    exact if_neg (Nat.not_lt.2 due)
  · intro d t add unit s drive later hunit hadd
    exact wearBucketRefill_of_later drive later hunit hadd
  · intro d usable blocks s drive on new
    exact driveIdentified_of_powered drive on new usable blocks
  · intro d removed s drive usable
    exact if_neg (by simp [usable]; omega)
  · intro d link s drive usable
    exact if_neg (by simp [usable]; omega)

end Sys2Proof.Proofs
end

section
/-!
The MATCH operations on whole pages, STATE and LOAD_PATTERNS (R228, R229, R237 to R249, R253). A MATCH runs in the state in which Snare works (`matchRun_of_taken`), and one that nothing refuses leaves its slots, its effects or its
output with its descriptor.
-/
namespace Sys2Proof.Proofs

open Sys2Proof.Machine (State exec)

section
variable {s u v w : State} {q p : Nat} {i : BitVec 32} {rd : HostRead} {d : Desc} {ts : List Nat}

/-! ### The station -/

/-- The MATCH station takes a descriptor of a partition that owns a block of Snare, and v is the state in which it works (R228, R488). -/
structure MatchTaken (s : State) (q : Nat) (i : BitVec 32) (subop : Nat) (ks : List Nat) (d : Desc) (p : Nat) (v : State) : Prop where
  taken : Taken s q i 0x05 subop ks d
  part : matchPart (atWork s (needs s d ks)) d = .ok p
  awake : domsOn (atWork s (needs s d ks)) [3] = true
  works : v = atWork (atWork s (needs s d ks)) [3]

theorem matchRun_of_taken {subop : Nat} {ks : List Nat} (taken : MatchTaken s q i subop ks d p v) (k : Nat → Desc → State → State) : matchRun s q i subop ks k = .next (k p d v) := by
  obtain ⟨taken, part, awake, rfl⟩ := taken
  refine stationRun_ends taken rfl ?_
  rw [part]
  exact withDoms_of_domsOn awake _

/-! ### Whole pages (R229, R237, R240, R242) -/

theorem length_fingerprints (f ns n : Nat) (ts : List Nat) : (fingerprints f ns n ts).length = n := by
  induction n generalizing f ts with
  | zero => rfl
  | succ n ih => rw [fingerprints, List.length_cons, ih]

theorem length_tileFps (d : Desc) (ts : List Nat) : (tileFps d ts).length = ts.length / 16 := by
  rw [tileFps, List.length_mapIdx, length_fingerprints]

theorem lookup_of_tokens (taken : MatchTaken s q i 1 [5] d p v) (tokens : pageTokens v d rd false true false false = .ok ts) :
    exec (.lookup q i rd) s = .next (putDesc v { d with
      phase := .running, slots := (tileFps d ts).map fun x => .probe x.1 x.2, hits := [], probes := 0, held := (tileFps d ts).flatMap fun x => leBytes 8 x.1 }) := by
  refine (matchRun_of_taken taken _).trans (congrArg _ ?_)
  rw [tokens]

theorem insert_of_tokens {r : SeqRec} (taken : MatchTaken s q i 2 [5] d p v) (tokens : pageTokens v d rd true false true false = .ok ts)
    (known : visibleSeq (stagedView v d) p (fld (d.w 2) 31 0) = some r) (kept : seqLost v p r = false) (least : 16 * fld (d.w 4) 19 0 + ts.length ≤ r.minLength) (still : r.window = 0) :
    exec (.insert q i rd) s = .next (putDesc v { d with
      phase := .running, slots := (tileFps d ts).map fun _ => .change, probes := (tileFps d ts).length
      effects := d.effects ++ (tileFps d ts).map fun x => .indexInsert p x.1 x.2 (fld (d.w 2) 31 0) (bit (d.w 4) 63) }) := by
  refine (matchRun_of_taken taken _).trans (congrArg _ ?_)
  rw [tokens]
  dsimp only
  rw [known]
  dsimp only
  rw [if_neg (by simp [kept]), if_neg (Nat.not_lt.2 least), if_neg (fun moved => moved still)]

theorem remove_of_tokens (taken : MatchTaken s q i 3 [5] d p v) (tokens : pageTokens v d rd false false false false = .ok ts) :
    exec (.remove q i rd) s = .next (putDesc v { d with
      phase := .running, slots := (tileFps d ts).map fun _ => .change, probes := (tileFps d ts).length, effects := d.effects ++ (tileFps d ts).map fun x => .indexRemove p x.1 x.2 }) := by
  refine (matchRun_of_taken taken _).trans (congrArg _ ?_)
  rw [tokens]

theorem fingerprint_of_tokens {out : List Byte} (taken : MatchTaken s q i 4 [5, 6] d p v) (tokens : pageTokens v d rd false false false true = .ok ts)
    (hout : out = (tileFps d ts).flatMap fun x => leBytes 8 x.1) (written : writeOut v d 6 out = .ok w) :
    exec (.fingerprint q i rd) s = .next (putDesc w { d.finish stDone 0 (some (ts.length / 16)) (some (((tileFps d ts).map (·.1)).getLastD 0)) with output := some { bytes := out } }) := by
  have bytes : ((tileFps d ts).map (·.1)).flatMap (leBytes 8) = out := (List.flatMap_map ..).trans hout.symm
  refine (matchRun_of_taken taken _).trans (congrArg _ ?_)
  rw [tokens]
  dsimp only
  rw [bytes, written]
  dsimp only
  rw [List.length_map, length_tileFps]

/-! ### STATE (R242, R244, R253) -/

theorem matchState_of_record {r : SeqRec} (taken : MatchTaken s q i 0x11 [6] d p v) (body : bodyOk d.cur [maskOf 31 0, 0#64, 0#64, allBits, allBits] = true) (bare : d.len = 0) (unchained : d.chainIn = false)
    (placeless : d.w 5 = 0#64) (known : visibleSeq (stagedView v d) p (fld (d.w 2) 31 0) = some r) (kept : seqLost v p r = false) (written : writeOut v d 6 (ofWords r.automaton) = .ok w) :
    exec (.matchState q i) s = .next (putDesc w { d.finish stDone 0 (some (readAuto r.automaton).stepped) (some (readAuto r.automaton).fp) with output := some { bytes := ofWords r.automaton } }) := by
  refine (matchRun_of_taken taken _).trans (congrArg _ ?_)
  rw [if_neg (by simp [body]), if_neg (by simp [bare, unchained, placeless]), known]
  dsimp only
  rw [if_neg (by simp [kept]), written]

/-! ### LOAD_PATTERNS (R228, R246, R248, R249) -/

/-- A LOAD_PATTERNS whose body is legal, for a partition that owns n blocks. -/
structure PatternLoadLegal (u : State) (d : Desc) (p n : Nat) : Prop where
  bare : d.len = 0
  body : bodyOk d.cur [allBits, maskOf 11 8 ||| maskOf 4 4, maskOf 31 0] = true
  part : loadPart u d = .ok p
  count : n = (snareBlocks u p).length
  owns : 0 < n

/-- An image of len bytes that passes R246 and has room in n blocks. -/
structure PatternImage (bs : List Byte) (len n : Nat) : Prop where
  size : len = 64 + 4 * (readSet bs).ranges.length + 2 * (readSet bs).states * (readSet bs).classes + 2 * (readSet bs).states + 8 * (readSet bs).patterns.length
  sound : setOk bs = true
  states : (readSet bs).states ≤ 256 * n
  trans : (readSet bs).states * (readSet bs).classes ≤ 8192 * n
  ranges : (readSet bs).ranges.length ≤ 256 * n
  patterns : (readSet bs).patterns.length ≤ 2 * n

theorem loadPatternsRun_of_remove {n : Nat} (legal : PatternLoadLegal u d p n) (first : loadBefore u d p (fun _ => true) = false) (remove : bit (d.w 3) 4 = true) (placeless : d.w 2 = 0#64)
    (empty : fld (d.w 4) 31 0 = 0) : loadPatternsRun rd d u = putDesc u { d.finish stDone 0 none (some 0) with effects := d.effects ++ [.patterns p 0 [] none []] } := by
  obtain ⟨bare, body, part, rfl, owns⟩ := legal
  rw [loadPatternsRun]
  dsimp only
  rw [if_neg (by simp [bare, body]), part]
  dsimp only
  rw [if_neg (Nat.pos_iff_ne_zero.1 owns), if_pos remove, if_neg (fun placed => placed placeless), if_neg (fun full => full empty), if_neg (by simp [first])]

/-- The descriptor of a LOAD_PATTERNS that has its set. -/
abbrev patternsLoaded (d : Desc) (p : Nat) (bs : List Byte) (b : Blocks) (auto : List Blocks) : Desc :=
  { d.finish stDone 0 (some (readSet bs).version) (some (b.count + (auto.map (·.count)).sum)) with
    effects := d.effects ++ [.patterns p (readSet bs).version bs (some b) auto], blocks := if d.owner.part? = some p then b :: auto ++ d.blocks else d.blocks }

theorem loadPatternsRun_of_image {n : Nat} {bs : List Byte} {auto : List Blocks} {b : Blocks} (legal : PatternLoadLegal u d p n) (load : bit (d.w 3) 4 = false) (least : 64 ≤ fld (d.w 4) 31 0)
    (image : earlyInput d 2 rd 1 (loadImage u d rd (fld (d.w 4) 31 0)) = .ok bs) (fits : PatternImage bs (fld (d.w 4) 31 0) n)
    (table : takeRuns u p (if (getPart u p).autoTable.isEmpty then tableRuns u p else []) = some (auto, v)) (room : takeBlocks v p (ceilDiv (fld (d.w 4) 31 0) 4096) = some (b, w)) :
    loadPatternsRun rd d u = if loadBefore u d p (fun _ => true) then u else putDesc w (patternsLoaded d p bs b auto) := by
  obtain ⟨bare, body, part, rfl, owns⟩ := legal
  obtain ⟨size, sound, states, trans, ranges, patterns⟩ := fits
  rw [loadPatternsRun]
  dsimp only
  rw [if_neg (by simp [bare, body]), part]
  dsimp only
  rw [if_neg (Nat.pos_iff_ne_zero.1 owns), if_neg (by simp [load]), if_neg (Nat.not_lt.2 least), image]
  dsimp only
  rw [if_neg (fun other => other size), if_neg (by simp [sound]), if_neg (by omega), table]
  dsimp only
  rw [room]

theorem loadPatterns_of_active (active : memActive s = true) : exec (.loadPatterns q i rd) s = stationRun s q i 0x0C 0x22 [2] (loadPatternsRun rd) := by
  change Machine.execLoadPatterns q i rd s = _
  rw [Machine.execLoadPatterns, if_neg (by simp [active])]

end
end Sys2Proof.Proofs
end

section
/-!
STEP (R244, R247, R251, R253): how the record of an automaton advances over the tokens of a tile, and the descriptor that a STEP leaves when nothing refuses it.
-/
namespace Sys2Proof.Proofs

open Sys2Proof.Machine (State exec)

/-! ### The record over tokens -/

/-- A token counts in the record of an automaton and leaves its VERSION (R251). -/
theorem stepToken_counts (x : PatSet) (ns : Nat) (a : StepRun) (t : Nat) : (stepToken x ns a t).r.stepped = a.r.stepped + 1 ∧ (stepToken x ns a t).r.version = a.r.version := by
  rw [stepToken]
  dsimp only
  by_cases halted : a.r.halted = true
  · rw [if_pos halted]
    exact ⟨rfl, rfl⟩
  · rw [if_neg halted]
    exact ⟨rfl, rfl⟩

/-- A halted automaton keeps its state, and no pattern fires (R251). -/
theorem stepToken_of_halted (x : PatSet) (ns : Nat) {a : StepRun} (halted : a.r.halted = true) (t : Nat) :
    (stepToken x ns a t).r.halted = true ∧ (stepToken x ns a t).r.state = a.r.state ∧ (stepToken x ns a t).fired = a.fired := by
  rw [stepToken]
  dsimp only
  rw [if_pos halted]
  exact ⟨halted, rfl, rfl⟩

theorem foldl_stepToken_counts (x : PatSet) (ns : Nat) (ts : List Nat) (a : StepRun) :
    (ts.foldl (stepToken x ns) a).r.stepped = a.r.stepped + ts.length ∧ (ts.foldl (stepToken x ns) a).r.version = a.r.version := by
  induction ts generalizing a with
  | nil => exact ⟨rfl, rfl⟩
  | cons t ts ih =>
    obtain ⟨stepped, version⟩ := stepToken_counts x ns a t
    obtain ⟨steps, versions⟩ := ih (stepToken x ns a t)
    exact ⟨steps.trans (by rw [stepped, List.length_cons, Nat.add_assoc, Nat.add_comm 1]), versions.trans version⟩

theorem foldl_stepToken_of_halted (x : PatSet) (ns : Nat) (ts : List Nat) {a : StepRun} (halted : a.r.halted = true) :
    (ts.foldl (stepToken x ns) a).r.halted = true ∧ (ts.foldl (stepToken x ns) a).r.state = a.r.state ∧ (ts.foldl (stepToken x ns) a).fired = a.fired := by
  induction ts generalizing a with
  | nil => exact ⟨halted, rfl, rfl⟩
  | cons t ts ih =>
    obtain ⟨still, state, fired⟩ := stepToken_of_halted x ns halted t
    obtain ⟨last, states, fires⟩ := ih still
    exact ⟨last, states.trans state, fires.trans fired⟩

/-- What fired patterns do leaves STEPPED and VERSION (R247). -/
theorem foldl_fireActions_keeps (p seq : Nat) (x : PatSet) (fs : List (Nat × Nat × Nat × Nat)) (a : AutoRec × List Effect) :
    (fs.foldl (fireActions p seq x) a).1.stepped = a.1.stepped ∧ (fs.foldl (fireActions p seq x) a).1.version = a.1.version := by
  induction fs generalizing a with
  | nil => exact ⟨rfl, rfl⟩
  | cons f fs ih => exact ih _

/-! ### The operation -/

section
variable {v : State} {p : Nat} {rd : HostRead} {d : Desc} {ts : List Nat} {rec : SeqRec} {img : Nat × List Byte} {bs : List Byte} {x : PatSet}

/-- The position at which a STEP starts. -/
abbrev stepStart (d : Desc) : Nat := fld (d.w 7) 24 0

/-- The sequence of a STEP. -/
abbrev stepSeq (d : Desc) : Nat := fld (d.w 2) 31 0

/-- The namespace of a STEP's fingerprints. -/
abbrev stepNs (d : Desc) : Nat := fld (d.w 2) 63 32

/-- A STEP that nothing refuses, with the record of its sequence, its pattern set and its input. -/
structure StepLegal (v : State) (rd : HostRead) (d : Desc) (p : Nat) (rec : SeqRec) (img : Nat × List Byte) (bs : List Byte) (ts : List Nat) : Prop where
  body : bodyOk d.cur [allBits, 0#64, 0#64, allBits, 0#64, maskOf 24 0] = true
  named : inputBreach d 5 = false
  whole : inputSize d % 4 = 0
  least : 4 ≤ inputSize d
  most : inputSize d ≤ 65536
  known : visibleSeq (stagedView v d) p (stepSeq d) = some rec
  patterns : d.patterns = some img
  kept : seqLost v p rec = false
  input : tileInput v d 5 rd = .ok bs
  tokens : tokensOf bs = some ts
  follows : stepStart d ≠ 0 → stepStart d = (readAuto rec.automaton).stepped ∧ stepNs d = (readAuto rec.automaton).ns

/-- The record from which a STEP goes on: a new one at the first token of a sequence, else the one that is kept (R251). -/
def stepFrom (d : Desc) (rec : SeqRec) : AutoRec :=
  if stepStart d = 0 then { state := 0, retain := 0, halted := false, version := 0, ns := stepNs d, stepped := 0, fp := 0, pending := [] } else readAuto rec.automaton

/-- Whether another pattern set starts the automaton anew (R251). -/
def stepRestarts (d : Desc) (rec : SeqRec) (x : PatSet) : Bool := (stepFrom d rec).version != x.version

/-- The run of a STEP over its tokens. -/
def stepRunOf (d : Desc) (rec : SeqRec) (x : PatSet) (ts : List Nat) : StepRun :=
  ts.foldl (stepToken x (stepNs d))
    { r := { (if stepRestarts d rec x then { stepFrom d rec with state := x.start, halted := false } else stepFrom d rec) with version := x.version }, fired := [] }

/-- The record and the actions that a STEP leaves to its commit. -/
def stepResult (d : Desc) (p : Nat) (rec : SeqRec) (x : PatSet) (ts : List Nat) : AutoRec × List Effect :=
  (stepRunOf d rec x ts).fired.foldl (fireActions p (stepSeq d) x) ((stepRunOf d rec x ts).r, [])

/-- How many entries actions insert into the index. -/
def insertCount (es : List Effect) : Nat :=
  (es.filter fun e => match e with
    | .indexInsert _ _ _ _ _ => true
    | _ => false).length

/-- The descriptor of a STEP that has its result. -/
abbrev stepDone (d : Desc) (p : Nat) (rec : SeqRec) (x : PatSet) (ts : List Nat) : Desc :=
  { d.finish stDone 0 (some (stepResult d p rec x ts).1.stepped)
      (some (b2n (stepRestarts d rec x) * 2 ^ 63 + b2n (stepResult d p rec x ts).1.halted * 2 ^ 62 + (stepResult d p rec x ts).1.state * 2 ^ 32 + satField 32 (stepRunOf d rec x ts).fired.length)) with
    effects := d.effects ++ [.automaton p (stepSeq d) (writeAuto (stepResult d p rec x ts).1)] ++ (stepResult d p rec x ts).2 }

/-- A finished descriptor, or one that waits for n slots of the stream (R235). -/
def withSlots (d : Desc) (n : Nat) : Desc := if n = 0 then d else { d with phase := .running, slots := List.replicate n .change }

theorem withSlots_keeps (d : Desc) (n : Nat) :
    (withSlots d n).status = d.status ∧ (withSlots d n).detail = d.detail ∧ (withSlots d n).res0 = d.res0 ∧ (withSlots d n).effects = d.effects := by
  rw [withSlots]
  split
  · exact ⟨rfl, rfl, rfl, rfl⟩
  · exact ⟨rfl, rfl, rfl, rfl⟩

theorem withSlots_waits (finished : d.phase = .finished) (n : Nat) :
    (withSlots d n).phase = .finished ∨ (withSlots d n).phase = .running ∧ (withSlots d n).slots ≠ [] ∧ ∀ y ∈ (withSlots d n).slots, y = .change := by
  rw [withSlots]
  split
  next => exact .inl finished
  next more => exact .inr ⟨rfl, fun empty => more (by simpa using empty), fun y there => List.eq_of_mem_replicate there⟩

theorem stepRun_of_legal (legal : StepLegal v rd d p rec img bs ts) :
    stepRun rd p d v = putDesc v (withSlots (stepDone d p rec (readSet img.2) ts) (insertCount (stepResult d p rec (readSet img.2) ts).2)) := by
  obtain ⟨body, named, whole, least, most, known, patterns, kept, input, tokens, follows⟩ := legal
  rw [stepRun]
  dsimp -zeta only
  extract_lets
  rw [if_neg (by simp [body]), if_neg (by simp [named, whole, least, most]), known, patterns]
  dsimp -zeta only
  rw [if_neg (by simp [kept]), input]
  dsimp -zeta only
  rw [tokens]
  dsimp -zeta only
  extract_lets
  rw [if_neg fun ⟨goes, differs⟩ => differs.elim (· (follows goes).1) (· (follows goes).2)]
  rfl

theorem stepped_stepResult (follows : stepStart d ≠ 0 → stepStart d = (readAuto rec.automaton).stepped) : (stepResult d p rec x ts).1.stepped = stepStart d + ts.length := by
  have start : (stepFrom d rec).stepped = stepStart d := by
    rw [stepFrom]
    split
    next first => exact first.symm
    next goes => exact (follows goes).symm
  rw [stepResult, (foldl_fireActions_keeps ..).1, stepRunOf, (foldl_stepToken_counts ..).1, ← start]
  split
  · rfl
  · rfl

theorem version_stepResult : (stepResult d p rec x ts).1.version = x.version := by
  rw [stepResult, (foldl_fireActions_keeps ..).2, stepRunOf, (foldl_stepToken_counts ..).2]

/-- Under the same pattern set a halted automaton stays as it is, and nothing is done at the commit. -/
theorem stepResult_of_halted (goes : stepStart d ≠ 0) (same : (readAuto rec.automaton).version = x.version) (halted : (readAuto rec.automaton).halted = true) :
    (stepResult d p rec x ts).1.state = (readAuto rec.automaton).state ∧ (stepResult d p rec x ts).1.halted = true ∧ (stepResult d p rec x ts).2 = [] := by
  have kept : stepFrom d rec = readAuto rec.automaton := if_neg goes
  have goesOn : stepRestarts d rec x = false := by simp [stepRestarts, kept, same]
  have run : stepRunOf d rec x ts = ts.foldl (stepToken x (stepNs d)) { r := { readAuto rec.automaton with version := x.version }, fired := [] } := by
    rw [stepRunOf, goesOn, kept]
    rfl
  obtain ⟨last, state, fired⟩ := foldl_stepToken_of_halted x (stepNs d) ts (a := { r := { readAuto rec.automaton with version := x.version }, fired := [] }) halted
  rw [stepResult, run, fired]
  exact ⟨state, last, rfl⟩

end
end Sys2Proof.Proofs
end

section
/-!
How long the input of a station is. What is read from HBM, from staging, from unsealed host memory or from a chained tile has the length that was asked for. A bounce buffer (R430) is opened by `Config.gcmOpen`, which has no body (log
entry 3): that it opens to no more than it is given is not provable, and stands as the hypothesis `OpensWithin`.
-/
namespace Sys2Proof.Proofs

open Sys2Proof.Machine (State exec)

/-! ### Stores -/

theorem length_readBytes (m : List Host.Cell) (a n : Nat) : (Memory.readBytes m a n).length = n := by
  rw [Memory.readBytes, List.length_map, List.length_range]

theorem length_foldl_of_keeps {α : Type} {f : List Byte → α → List Byte} (keeps : ∀ bs x, (f bs x).length = bs.length) (xs : List α) (bs : List Byte) : (xs.foldl f bs).length = bs.length :=
  List.foldlRecOn (motive := fun y => y.length = bs.length) xs f rfl fun _ same x _ => (keeps _ x).trans same

theorem length_layOver (off : Nat) (bs : List Byte) (a : Nat) (x : List Byte) : (layOver off bs a x).length = bs.length := by
  rw [layOver]
  split
  · exact List.length_mapIdx
  · rfl

theorem length_layRecords (off : Nat) (bs : List Byte) (a size count : Nat) (f : Nat → List (Nat × List Byte)) : (layRecords off bs a size count f).length = bs.length :=
  length_foldl_of_keeps (fun _ _ => length_foldl_of_keeps (fun _ _ => length_layOver ..) ..) ..

theorem length_layPlace (runs : List Blocks) (e off : Nat) (bs : List Byte) (place : Nat) (ws : List Word) : (layPlace runs e off bs place ws).length = bs.length := by
  rw [layPlace]
  split
  · split
    · exact length_layOver ..
    · rfl
  · rfl

theorem length_laySeq (s : State) (p e off : Nat) (r : SeqRec) (bs : List Byte) : (laySeq s p e off r bs).length = bs.length := by
  rw [laySeq]
  refine (length_foldl_of_keeps (fun bs h => (length_foldl_of_keeps (fun bs x => ?lists) ..).trans ?directory) ..).trans ?head
  case lists =>
    split
    · exact length_layRecords ..
    · rfl
  case directory =>
    split
    · split
      · exact length_layRecords ..
      · rfl
    · rfl
  case head =>
    split
    · exact length_layRecords ..
    · rfl

theorem length_layControl (s : State) (p e off : Nat) (bs : List Byte) : (layControl s p e off bs).length = bs.length := by
  rw [layControl]
  dsimp only
  refine (length_foldl_of_keeps (fun bs t => ?spreads) ..).trans <| (length_foldl_of_keeps (fun bs t => ?images) ..).trans <| (length_foldl_of_keeps (fun bs t => ?words) ..).trans <|
    (length_foldl_of_keeps (fun bs t => ?frames) ..).trans <| length_foldl_of_keeps (fun bs q => ?seqs) ..
  case spreads =>
    split
    · split
      · exact length_layOver ..
      · rfl
    · rfl
  case images =>
    split
    · exact length_layOver ..
    · rfl
  case words =>
    split
    · exact length_layRecords ..
    · rfl
  case frames =>
    split
    · exact length_layRecords ..
    · rfl
  case seqs => rw [length_laySeq, length_layPlace, length_layPlace]

theorem length_storeBytes (s : State) (e off : Nat) (bs : List Byte) : (storeBytes s e off bs).length = bs.length := by
  rw [storeBytes]
  split
  · rw [layPage, List.length_mapIdx, List.length_map, List.length_range]
  · rw [length_layControl, List.length_map, List.length_range]
  · rw [List.length_map, List.length_range]
  · rfl

/-! ### Reads at a location word (R49, R185, R430) -/

/-- AES-256-GCM opens to no more bytes than it is given: what every cipher of that standard does, and what `Config.gcmOpen` as an uninterpreted function leaves open. -/
def OpensWithin : Prop := ∀ key iv aad text plain, Config.gcmOpen key iv aad text = some plain → plain.length ≤ text.length

section
variable {v : State} {rd : HostRead} {d : Desc} {k len fail : Nat} {bs : List Byte} {r : ReadRes}

theorem length_openBounce (opens : OpensWithin) {m : List Host.Cell} {key : List Byte} {index : BitVec 32} {word a n c left : Nat} (opened : openBounce m key index word a n c left = some bs) :
    bs.length ≤ left + 16 * n := by
  induction n generalizing c left bs with
  | zero =>
    obtain rfl := Option.some.inj opened
    exact Nat.zero_le _
  | succ n ih =>
    rw [openBounce] at opened
    split at opened
    next => cases opened
    next plain chunk =>
      obtain ⟨rest, later, rfl⟩ := Option.map_eq_some_iff.1 opened
      have here := opens _ _ _ _ _ chunk
      have behind := ih later
      rw [length_readBytes] at here
      rw [List.length_append]
      omega

/-- The bytes of a read of len bytes, with the tags of its chunks. -/
abbrev readMost (len : Nat) : Nat := len + 16 * ceilDiv len 4096

theorem length_readLoc (opens : OpensWithin) {loc : Loc} (read : readLoc v d k rd loc len fail = .ok r) : r.bytes.length ≤ readMost len := by
  cases loc with
  | host a =>
    rw [readLoc] at read
    split at read
    · cases read
    · split at read
      · split at read
        · cases read
        next opened =>
          cases read
          exact length_openBounce opens opened
      · cases read
        exact (length_readBytes ..).le.trans (Nat.le_add_right ..)
  | hbm e off =>
    cases read
    exact ((length_storeBytes ..).trans (length_readBytes ..)).le.trans (Nat.le_add_right ..)
  | staging o off =>
    cases read
    exact (length_readBytes ..).le.trans (Nat.le_add_right ..)

theorem length_readIn (opens : OpensWithin) {own : Nat} (read : readIn v d k len rd own fail = .ok r) : r.bytes.length ≤ readMost len := by
  rw [readIn] at read
  split at read
  · cases read
  · split at read
    · cases read
    · exact length_readLoc opens read

theorem length_tileInput (opens : OpensWithin) (input : tileInput v d k rd fail = .ok bs) : bs.length ≤ readMost (inputSize d) := by
  rw [tileInput] at input
  rw [inputSize]
  split at input
  next chained =>
    rw [if_pos chained]
    split at input
    · cases input
    · split at input
      · cases input
      next t tile =>
        rw [tile]
        split at input
        · cases input
        · cases input
          exact Nat.le_add_right ..
  next unchained =>
    rw [if_neg unchained]
    split at input
    · cases input
    · split at input
      · cases input
      next read =>
        split at input
        · cases input
        · cases input
          exact length_readIn opens read

end
end Sys2Proof.Proofs
end

section
/-!
The MATCH operations and LOAD_PATTERNS: their statement under `OpensWithin`. Its clause on STEP says that RES0 is the position after the last token, without the reduction modulo 2^32 that a descriptor makes of RES0; the two agree only
where the input has fewer than 2^34 bytes, and for a bounce buffer that depends on what `Config.gcmOpen` answers. The other clauses need no hypothesis.
-/
namespace Sys2Proof.Proofs

open Sys2Proof.Machine (State exec)

section
variable {s v : State} {q p : Nat} {i : BitVec 32} {rd : HostRead} {d : Desc} {ts : List Nat} {rec : SeqRec} {img : Nat × List Byte} {bs : List Byte}

theorem length_tokensOf (tokens : tokensOf bs = some ts) : ts.length = bs.length / 4 := by
  rw [tokensOf] at tokens
  split at tokens
  · cases tokens
  · cases tokens
    rw [unpack, List.length_map, List.length_range]

/-- The position after the last token of a STEP fits RES0. -/
theorem position_lt (opens : OpensWithin) (legal : StepLegal v rd d p rec img bs ts) : stepStart d + ts.length < 2 ^ 32 := by
  have start : stepStart d < 2 ^ 25 := Nat.mod_lt _ (by decide)
  have long := length_tileInput opens legal.input
  have count := length_tokensOf legal.tokens
  have most := legal.most
  rw [readMost, ceilDiv] at long
  omega

/-- STEP, where the position after the last token fits RES0. -/
theorem matchStep_of_legal (taken : MatchTaken s q i 0x10 [5] d p v) (legal : StepLegal v rd d p rec img bs ts) (fits : stepStart d + ts.length < 2 ^ 32) :
    ∃ e r es, exec (.matchStep q i rd) s = .next (putDesc v e) ∧ e.status = stDone ∧ e.detail = 0 ∧ e.res0 = some (stepStart d + ts.length) ∧
      e.effects = d.effects ++ [.automaton p (stepSeq d) (writeAuto r)] ++ es ∧ r.stepped = stepStart d + ts.length ∧ r.version = (readSet img.2).version ∧
      (e.phase = .finished ∨ e.phase = .running ∧ e.slots ≠ [] ∧ ∀ x ∈ e.slots, x = .change) ∧
      (stepStart d ≠ 0 → (readAuto rec.automaton).version = (readSet img.2).version → (readAuto rec.automaton).halted = true → r.state = (readAuto rec.automaton).state ∧ r.halted = true ∧ es = []) := by
  have run := (matchRun_of_taken taken (stepRun rd)).trans (congrArg _ (stepRun_of_legal legal))
  have stepped := stepped_stepResult (p := p) (ts := ts) (x := readSet img.2) fun goes => (legal.follows goes).1
  have position : (stepDone d p rec (readSet img.2) ts).res0 = some (stepStart d + ts.length) := congrArg some ((congrArg (· % 2 ^ 32) stepped).trans (Nat.mod_eq_of_lt fits))
  obtain ⟨status, detail, res0, effects⟩ := withSlots_keeps (stepDone d p rec (readSet img.2) ts) (insertCount (stepResult d p rec (readSet img.2) ts).2)
  exact ⟨_, _, _, run, status, detail, res0.trans position, effects, stepped, version_stepResult, withSlots_waits rfl _, stepResult_of_halted⟩

end

/-- O51 under `OpensWithin`, from what each operation answers where nothing refuses it. O51 itself stays open: nothing in the model bounds what `Config.gcmOpen` opens a bounce buffer to, and without a bound it fails (`not_indexOperations_of_opensLong`). -/
theorem indexOperations_of_opensWithin (opens : OpensWithin) : Obligations.IndexOperations := by
  refine ⟨?_, ?_, ?_, ?_, ?_, ?_, ?_, ?_⟩
  · rintro q p i rd d ts u v s taken rfl part on hv tokens
    exact lookup_of_tokens ⟨taken, part, on, hv⟩ tokens
  · rintro q p seq i rd d r ts u v s taken rfl part on hv tokens rfl known kept least still
    exact insert_of_tokens ⟨taken, part, on, hv⟩ tokens known kept least still
  · rintro q p i rd d ts u v s taken rfl part on hv tokens
    exact remove_of_tokens ⟨taken, part, on, hv⟩ tokens
  · rintro q p i rd d ts out u v w s taken rfl part on hv tokens hout written
    exact fingerprint_of_tokens ⟨taken, part, on, hv⟩ tokens hout written
  · rintro q p n ns seq start i rd d rec img bs ts old u v s taken rfl part on hv rfl rfl rfl rfl body named whole least most known patterns kept input tokens rfl follows
    have legal : StepLegal v rd d p rec img bs ts := ⟨body, named, whole, least, most, known, patterns, kept, input, tokens, follows⟩
    exact matchStep_of_legal ⟨taken, part, on, hv⟩ legal (position_lt opens legal)
  · rintro q p i d r u v w s taken rfl part on hv body bare unchained placeless known kept written
    exact matchState_of_record ⟨taken, part, on, hv⟩ body bare unchained placeless known kept written
  · intro q p i rd d u s active taken hu bare body part owned first remove placeless empty
    rw [loadPatterns_of_active active]
    exact stationRun_ends taken hu (loadPatternsRun_of_remove ⟨bare, body, part, rfl, List.length_pos_iff.2 owned⟩ first remove placeless empty)
  · rintro q p n len i rd d bs x auto b u v w s active taken hu bare body part count owns load rfl least image rfl size sound states trans ranges patterns table room
    rw [loadPatterns_of_active active]
    exact stationRun_ends taken hu (loadPatternsRun_of_image ⟨bare, body, part, count, owns⟩ load least image ⟨size, sound, states, trans, ranges, patterns⟩ table room)

end Sys2Proof.Proofs
end

section
/-!
Why O51 needs `OpensWithin`. A partition that is confidential runs a STEP over four bytes of a bounce buffer; were the one chunk of it opened to 2^36 zero bytes, the position after the last token would be 2^34, which RES0 cannot give.
-/
namespace Sys2Proof.Proofs

open Sys2Proof.Machine (State exec)
open Sys2Proof.Tests (desc snareUp page9)

/-! ### A descriptor that replaces the only one in flight -/

theorem eq_of_putDesc_eq {v : State} {d e f : Desc} (replaced : putDesc v e = putDesc v f) (alone : v.flight = [d]) (same : d.ctx = f.ctx ∧ d.index = f.index) (other : d ≠ f) : e = f := by
  have flight := congrArg (·.flight) replaced
  simp only [Laws.putDesc_flight, alone, List.map_cons, List.map_nil, List.cons.injEq, and_true, if_pos same] at flight
  split at flight
  next => exact flight
  next => exact absurd flight other

theorem withSlots_names {d f : Desc} (same : d.ctx = f.ctx ∧ d.index = f.index) (n : Nat) : d.ctx = (withSlots f n).ctx ∧ d.index = (withSlots f n).index := by
  rw [withSlots]
  split
  · exact same
  · exact same

theorem ne_withSlots_of_ready {d f : Desc} (ready : d.phase = .ready) (finished : f.phase = .finished) (n : Nat) : d ≠ withSlots f n := by
  rintro rfl
  rcases withSlots_waits finished n with other | ⟨other, -⟩
  · exact absurd (ready.symm.trans other) (by decide)
  · exact absurd (ready.symm.trans other) (by decide)

/-! ### Tokens of zero -/

theorem ofLe_replicate_zero (n : Nat) : ofLe (List.replicate n 0#8) = 0 := by
  induction n with
  | zero => rfl
  | succ n ih => simpa [ofLe, List.replicate_succ] using ih

theorem tokensOf_of_zero {text : List Byte} (zeros : ofLe text = 0) : tokensOf text = some (unpack 32 text (text.length / 4)) := by
  rw [tokensOf, if_neg (by rw [unpack, zeros]; simp)]

/-! ### The STEP -/

/-- A STEP of sequence 9 over four bytes at host address 0x3000, with a pattern set. -/
def bounceStep : Desc := { desc 5 16 [9#64, 0#64, 0#64, 0x3000#64] 4 with patterns := some (1, []) }

/-- Partition 0 is confidential and has that STEP in flight. -/
def bounceUp : State := modPart (snareUp bounceStep) 0 fun x => { x with definition := x.definition.modify 10 (· ||| put 22 22 1) }

/-- The state in which Snare works on it. -/
abbrev bounceWork : State := atWork (atWork bounceUp (needs bounceUp bounceStep [5])) [3]

theorem bounceStep_taken : MatchTaken bounceUp 5 0#32 0x10 [5] bounceStep 0 bounceWork :=
  ⟨⟨by decide +kernel, by decide +kernel, by decide +kernel, by decide +kernel, by decide +kernel⟩, rfl, by decide +kernel, rfl⟩

section
variable {text : List Byte}

/-- Whatever is sealed opens to the text. -/
def OpensTo (text : List Byte) : Prop := ∀ key iv aad sealed_, Config.gcmOpen key iv aad sealed_ = some text

theorem openBounce_of_opensTo (opens : OpensTo text) (m : List Host.Cell) (key : List Byte) (index : BitVec 32) (word a : Nat) : openBounce m key index word a 1 0 4 = some text := by
  rw [openBounce, opens]
  simp [openBounce]

theorem bounceStep_input (opens : OpensTo text) : tileInput bounceWork bounceStep 5 {} = .ok text := by
  have place : locate bounceWork bounceStep.owner (bounceStep.w 5) (occupied bounceWork bounceStep.owner (bounceStep.w 5) 4) false = .ok (.host 0x3000) := rfl
  rw [tileInput, if_neg (by decide +kernel), if_neg (by decide +kernel), readIn, show bounceStep.len = 4 by decide +kernel, place]
  dsimp only
  rw [if_neg (by intro refused; cases refused), readLoc]
  dsimp only
  rw [if_neg (by decide), if_pos (by decide +kernel), show ceilDiv 4 4096 = 1 from rfl, openBounce_of_opensTo opens]
  rfl

theorem bounceStep_legal (opens : OpensTo text) (zeros : ofLe text = 0) : StepLegal bounceWork {} bounceStep 0 page9 (1, []) text (unpack 32 text (text.length / 4)) where
  body := by decide +kernel
  named := by decide +kernel
  whole := by decide +kernel
  least := by decide +kernel
  most := by decide +kernel
  known := rfl
  patterns := rfl
  kept := by decide +kernel
  input := bounceStep_input opens
  tokens := tokensOf_of_zero zeros
  follows := fun goes => absurd (by decide +kernel) goes

/-- The position after the last token of a STEP over a text of zeros is what RES0 gives, by O51, and RES0 has 32 bits. -/
theorem tokens_lt_of_indexOperations (holds : Obligations.IndexOperations) (opens : OpensTo text) (zeros : ofLe text = 0) : text.length / 4 < 2 ^ 32 := by
  obtain ⟨-, -, -, -, step, -⟩ := holds
  have legal := bounceStep_legal opens zeros
  obtain ⟨taken, part, on, works⟩ := bounceStep_taken
  obtain ⟨e, -, -, run, -, -, position, -⟩ := step 5 0 _ _ _ _ 0#32 {} bounceStep page9 (1, []) text _ _ _ _ bounceUp taken rfl part on works rfl rfl rfl rfl legal.body legal.named legal.whole legal.least
    legal.most legal.known legal.patterns legal.kept legal.input legal.tokens rfl legal.follows
  have replaced := Host.Outcome.next.inj (run.symm.trans ((matchRun_of_taken bounceStep_taken (stepRun {})).trans (congrArg _ (stepRun_of_legal legal))))
  have done := eq_of_putDesc_eq (d := bounceStep) replaced rfl (withSlots_names (by exact ⟨rfl, rfl⟩) _) (ne_withSlots_of_ready (by rfl) (by rfl) _)
  rw [done, (withSlots_keeps ..).2.2.1] at position
  have small : fld (bounceStep.w 7) 24 0 + (unpack 32 text (text.length / 4)).length < 2 ^ 32 := (Option.some.inj position).symm.trans_lt (Nat.mod_lt _ (by decide))
  rw [unpack, List.length_map, List.length_range] at small
  exact (Nat.le_add_left ..).trans_lt small

end

/-- O51 fails where everything sealed opens to 2^36 zero bytes, so that it cannot be had without a hypothesis on `Config.gcmOpen`. -/
theorem not_indexOperations_of_opensLong (opens : OpensTo (List.replicate (2 ^ 36) 0#8)) : ¬Obligations.IndexOperations := by
  intro holds
  have small := tokens_lt_of_indexOperations holds opens (ofLe_replicate_zero _)
  rw [List.length_replicate] at small
  exact absurd small (by decide)

end Sys2Proof.Proofs
end
